-- ==== Sys2Proof/Word.lean ====
section
/-! DEFINITION. The word types of the hub (00, R9 and R10). Bit-field, byte-order and rounding helpers stand in
Machine/Bits.lean. -/

namespace Sys2Proof

/-- A byte of a Krenmail payload, of a tag block or of an item (R9). -/
abbrev Byte := BitVec 8

/-- A 32-bit configuration or status word. Bits are numbered from 0 at the least significant bit (R9). -/
abbrev Word := BitVec 32

/-- A byte string, first byte first on the wire. -/
abbrev Bytes := List Byte

end Sys2Proof
end

