-- ==== Sys2Proof/Syntax.lean ====
section
/-! DEFINITION. The commands of the block: one constructor of `Instr` for each row of spec/opcode_table.json, with the
operands that the row's command brings from outside. Channel sets (CHMAP, OCTMAP, QMAP, DIEMASK, PORTS of chapter 14)
are lists of the numbers they name. -/

namespace Sys2Proof

/-- A route by which a request reaches the hub (R355). -/
inductive Route where
  | hspi
  | inband
  deriving DecidableEq, Repr

/-- An array time of a Krenmail payload (R379): SEC 48, NS 32 with [31:30] zero, FRAC 16 with [15:10] zero. -/
structure Instant where
  sec : BitVec 48
  ns : BitVec 32
  frac : BitVec 16
  deriving DecidableEq, Repr

/-- The five AFE words in offset order (Table 02-6). -/
structure AfeWords where
  freq : Word
  drive : Word
  load : Word
  input : Word
  cm : Word
  deriving DecidableEq, Repr

/-- The five words of a repeater output (Table 02-5). -/
structure RepWords where
  ctl : Word
  xlo : Word
  xhi : Word
  outa : Word
  outb : Word
  deriving DecidableEq, Repr

/-- The request of CAP_ARM (Table 14-8). -/
structure CapParams where
  capture : Nat
  src : Nat
  decE : Nat
  churn : Nat
  prePct : Nat
  opts : Nat
  count : Nat
  len : Nat
  port : Nat
  pins : Nat
  kon : Nat
  channels : List Nat
  units : List Nat
  groups : List Nat
  deriving DecidableEq, Repr

/-- The request of CAP_LIST (R388). -/
structure CapQuery where
  after : Word
  capture : Nat
  states : Nat
  ch : Nat
  trainId : Nat
  trainAny : Nat
  timeFrom : Instant
  timeTo : Instant
  deriving DecidableEq, Repr

/-- A matrix row record (Table 08-1): exponent and 128 mantissas. -/
structure SepRow where
  exp : Int
  coef : List Int
  deriving DecidableEq, Repr

/-- OP 0 and OP 1 of SEP_LOAD (R390). -/
inductive SepLoadOp where
  | header (rows mgen : Nat) (key : List Nat)
  | rows (first : Nat) (rows : List SepRow)
  deriving DecidableEq, Repr

/-- One entry of STRM_ACK (Table 14-10). `naks` holds FIRST and COUNT of each range. -/
structure AckEntry where
  flow : Nat
  seqCum : Word
  naks : List (Word × Nat)
  deriving DecidableEq, Repr

/-- A Krenmail request header (Table 13-1); LENGTH is the payload's length as stated in the header. -/
structure ReqHeader where
  opcode : Nat
  tag : Nat
  reqId : Nat
  cls : Nat
  length : Nat
  lifetime : Nat
  dieMask : Nat
  deriving DecidableEq, Repr

/-- A packet as the receiver of a link meets it (R330, R334, R337): the header and trailer fields that decide its
fate, and the body's bytes less the padding. -/
structure PacketIn where
  cls : Nat
  kind : Nat
  dest : Nat
  src : Nat
  lenBlocks : Nat
  seq : Nat
  crcGood : Bool
  aborted : Bool
  body : Bytes
  deriving DecidableEq, Repr

/-- What the boot ROM takes from a valid SFDP table of the flash (R470): 4-byte addresses, and the fast quad read's command and dummy
clocks. -/
structure Sfdp where
  addr4 : Bool
  quad : Option (Nat × Nat)
  deriving DecidableEq, Repr

/-- An edge on a TIN input: its direction, and how many units of 1/1,024 ns before the present cycle it came (R118). -/
structure TinEdge where
  falling : Bool
  ago : Nat
  deriving DecidableEq, Repr

/-- A level on a TRIG pin: low or high, and the engine cycles of 1 ns that it has lasted (R177). -/
structure PinRun where
  falling : Bool
  run : Nat
  deriving DecidableEq, Repr

/-- The level of RST_n, and whether the two pin banks are supplied (R467, R503). -/
structure ResetPins where
  high : Bool
  vioA : Bool
  vioB : Bool
  deriving DecidableEq, Repr

/-- What the boot ROM finds of the flash: whether it answers, and its SFDP table (R470). -/
structure FlashSeen where
  ok : Bool
  sfdp : Option Sfdp
  deriving DecidableEq, Repr

/-- An array trigger message (Table 06-14). -/
structure ArrMsg where
  origin : Nat
  trigId : Nat
  source : Nat
  group : Nat
  notLocked : Bool
  missed : Nat
  stamp : Instant
  deriving DecidableEq, Repr

/-- A modal frame (Table 08-2 and Table 08-3). `stamp` is the tick instant in units of 1/1,024 ns. -/
structure ModalFrame where
  seq : Word
  stamp : Nat
  timeout : Bool
  baseHold : Bool
  fading : Bool
  rows : Nat
  mgen : Nat
  sflags : Byte
  fadeW : Nat
  contrib : BitVec 64
  notLocked : BitVec 64
  reduced : BitVec 64
  gendiff : BitVec 64
  ext : BitVec 64
  sums : List Int
  deriving DecidableEq, Repr

/-- The unit-segment errors of a slice's converter that step 6 measured, in 0.001 LSB of the 14-bit quantiser: of its segments in order, and of
its 4 spares (R430, R431). -/
structure SegMeas where
  segs : List Int
  spares : List Int
  deriving DecidableEq, Repr

/-- What step 8 measured (R430, R431, R434, R440, R441): EXCMON0 in µV; of each slice the amplitude residual in ppm and the phase residual
in 0.001°; the segment errors of the octet's reference DAC and of its 2 spares in ppm of full amplitude; and by trim code how far the
reference would move with the segments that the errors choose, in ppm of full amplitude. -/
structure ExcMeas where
  excmonUv : Nat
  slices : List (Int × Int)
  segs : List Int
  spares : List Int
  diffs : List (Int × Int)
  deriving DecidableEq, Repr

/-- A point of a margining sweep (R443): phase in 0.001 UI and threshold in mV from the data slicer's, bits compared and errors. -/
structure EyePoint where
  phase : Int
  mv : Int
  bits : Nat
  errors : Nat
  deriving DecidableEq, Repr

/-- The stages of CAL_SLOT (Table 16-1). -/
inductive CalEvent where
  /-- R437: the calibration of the die's audit converter begins; its milk run pauses, and its next conversions are those of entries 141, 142
  and 140 at each audit gain. -/
  | auditBegin
  /-- R437: its end, 2 ms later. -/
  | audit
  /-- Step 1 begins: t0, and the urgent entries of the reference check (R83, R438). -/
  | refStart
  /-- Step 1 ends: the check of what the entries gave. -/
  | refCheck
  /-- Step 2: the input-state pre-check over the previous 10 ms (R439). -/
  | preCheck
  /-- Step 3: the hold begins. -/
  | hold
  /-- Step 4 ends: ZERO. -/
  | zero
  /-- Step 5 ends: GAIN, with the gain and offset residuals of the eight slices in 0.01 ppm of full scale. -/
  | gain (residuals : List (Int × Int))
  /-- Step 6 ends: SEGMENT, of the eight slices. -/
  | segment (slices : List SegMeas)
  /-- Step 7 ends: TAP, the gains of the 8 taps of each slice over nominal, in parts per 2^30. -/
  | tap (gains : List (List Nat))
  /-- Step 8 ends: EXCITATION. -/
  | excitation (m : ExcMeas)
  /-- Step 9 ends: the self-test of the eight slices; step 10's entries begin. -/
  | selfTest (passed : List Bool)
  /-- Steps 10 and 11: the re-check of what the entries gave and, if it passes, the release. -/
  | release
  /-- Step 12: a ramp of the die is complete. -/
  | rampDone
  /-- R444: the spare interpolator of a time-interval channel begins its code-density test. -/
  | tiuStart (channel : Nat)
  /-- R444: the test's end: the hits of the 32 phases, and the max |INL| after the correction in 0.001 bin. -/
  | tiu (channel : Nat) (hits : List Nat) (inl : Nat)
  /-- R443: a data lane's margining sweep. -/
  | margin (port lane : Nat) (points : List EyePoint)
  deriving DecidableEq, Repr

/-- A die's readings at a telemetry refresh (Table 17-5): temperatures in 0.1 °C. -/
structure DieReading where
  vmainMv : Nat
  imainMa : Nat
  vexcMv : Nat
  iexcMa : Nat
  temps : List Int
  pdieMw : Nat
  deriving DecidableEq, Repr

/-- What an HSPI transaction with an address does (Table 13-16): the words of a write that are clocked in whole, the words of a read that are clocked
out, each on one data line or on four, or another command byte. -/
inductive HspiOp where
  | write (quad : Bool) (words : List Word)
  | read (quad : Bool) (n : Nat)
  | other (cmd : Byte)
  deriving DecidableEq, Repr

/-- A firmware image as flash holds it (Table 18-3); `body` is the body written. -/
structure Image where
  header : Bytes
  body : Bytes
  tryBits : Byte
  confirmed : Byte
  gen : Word
  deriving DecidableEq, Repr

/-- The addressing mode of a tag command (R490). -/
inductive TagMode where
  | nonAddressed
  | addressed (uid : BitVec 64)
  | selected
  deriving DecidableEq, Repr

/-- The frame of a tag command (R490): addressing mode, whether two subcarriers are asked for, and whether the field
is strong enough for a write (R525). -/
structure TagReq where
  mode : TagMode
  twoSub : Bool
  writeField : Bool
  deriving DecidableEq, Repr

/-- A PMBus transaction's packet error check (R456): not used, good or bad. -/
inductive Pec where
  | unused
  | good
  | bad
  deriving DecidableEq, Repr

/-- One operation word of a direct-access request (Table 12-10). -/
structure DirectOp where
  op : Nat
  addr : Nat
  data : Word
  deriving DecidableEq, Repr

/-- The commands: one constructor for each row of the table. -/
inductive Instr where
  -- SYS (14)
  | sysInfo
  | sysReqstat (reqId tag : Nat)
  | sysReset (confirm : Word)
  | packageReset
  | sysCfgSave
  | sysFwWrite (image offset : Nat) (data : Bytes)
  | sysFwCommit (image : Nat)
  -- TIME
  | timeGet
  | timeSet (sec : BitVec 48)
  | timeCfgSet (w : Word)
  | timeCfgGet
  | timePpsSet (a b : Word)
  | timeAsymSet (port : Nat) (v : Word)
  | timeTinSet (input : Nat) (w : Word)
  | timeTinGet (input : Nat)
  -- AFE
  | afeSet (chs : List Nat) (w : AfeWords)
  | afeGet (ch : Nat)
  | afeSync (chs : List Nat)
  | afeGuard (octs : List Nat) (w : Word)
  | afeRepSet (out : Nat) (w : RepWords)
  | afeRepGet (out : Nat)
  | afeStatus (first count : Nat)
  | afeClear (chs : List Nat)
  -- CHAN
  | chanSet (chs : List Nat) (desc : List Word)
  | chanGet (ch : Nat)
  | chanQuery (ch : Nat)
  | chanCoefLoad (chs : List Nat) (words : List Word)
  | chanCoefSwitch (chs : List Nat) (xfLen : Nat)
  | fade (ch : Nat)
  -- TRIG
  | trigPinSet (pin : Nat) (w : Word)
  | trigPinGet (pin : Nat)
  | trigKonSet (group pins k win lat : Nat) (route : Word) (units : List Nat)
  | trigArrSet (groups : List Nat) (lat : Nat)
  | trigForce
  | trigStatus (clear : Nat)
  -- CAP
  | capArm (p : CapParams)
  | capDisarm (capture abort : Nat)
  | capTrig (capture : Nat)
  | capStatus (capture : Nat)
  | capPartSet (dies : List Nat) (w : Word)
  | capPartGet (dies : List Nat)
  | capWmSet (dies : List Nat) (w : Word)
  | capWmGet (dies : List Nat)
  | capList (dies : List Nat) (q : CapQuery)
  | capRead (coach : Word) (offset count decode : Nat)
  | capFree (coaches : List Word)
  | capSend (coaches : List Word)
  | capRedSet (chs : List Nat) (w : Word)
  | capRedGet (ch : Nat)
  -- SEP
  | sepLoad (dies : List Nat) (set : Nat) (op : SepLoadOp)
  | sepSwitch (dies : List Nat) (xfLen : Nat)
  | sepCfgSet (ctl tick wait fb : Word)
  | sepCfgGet
  | sepStatus (dies : List Nat)
  -- STRM
  | strmSet (kind en : Nat) (chs : List Nat)
  | strmRoute (flow port : Nat)
  | strmLocal (flow : Nat)
  | strmAck (route : Route) (entries : List AckEntry)
  | strmFlush (kind : Nat) (flows : List Nat)
  | strmWmSet (port : Nat) (w : Word)
  | strmWmGet (port : Nat)
  | strmFcSet (pair : Nat) (w : Word)
  | strmRawGroup (ports : List Nat)
  | strmXstat (dies : List Nat)
  | strmCfgSet (w : Word)
  | strmCfgGet
  -- CHURN
  | churnSet (use mode : Nat) (chs : List Nat)
  | churnCfgSet (dies : List Nat) (w : Word)
  | churnCfgGet (dies : List Nat)
  | churnSave (ch use : Nat)
  | churnStateCapture (ch use : Nat)
  | churnStateRead (handle offset count : Nat)
  | churnStateWrite (handle use offset : Nat) (data : Bytes)
  | churnRestore (ch use handle : Nat)
  | churnStateFree (handle : Nat)
  | churnJobStart (coach : Word) (op mode bufsz : Nat)
  | churnJobRead (job offset count : Nat)
  | churnJobResume (job bufsz : Nat)
  | churnJobEnd (job : Nat)
  | jobEnd (job : Nat)
  -- LINK
  | linkCfgSet (port : Nat) (w : Word)
  | linkCfgGet (port : Nat)
  | linkStatus (port : Nat)
  | linkManual (port on : Nat)
  | linkSlip (port lane : Nat)
  | linkRate (port rate : Nat)
  | linkWidth (port width : Nat)
  | linkTestSet (port lane : Nat) (w : Word)
  | linkLaneGet (port lane clear : Nat)
  | linkCoupler (op : Nat)
  -- CAL
  | calAuditSet (dies : List Nat) (w : Word)
  | calAuditGet (dies : List Nat)
  | calAuditRead (first count : Nat)
  | calAuditReq (die : Nat) (entries : List Nat)
  | calRun (octs : List Nat)
  | calCfgSet (w : Word)
  | calCfgGet
  | calReport (first count : Nat)
  -- PWR
  | pwrStateSet (st : Nat)
  | keepEntry
  | pwrGate (quads : List Nat)
  | pwrGet
  | pwrTelem
  -- FLT
  | fltRead (first : Word) (max : Nat)
  | fltCfgSet (ch lane eng mem : Word)
  | fltCfgGet
  | fltRetire (unit : Word)
  | fltRestore (unit : Word)
  | mcDrill (dies : List Nat)
  -- LOG
  | logRead (block count : Nat)
  | logWrite (block : Nat) (data : List Word)
  -- SEAL
  | sealGet
  | sealNonce
  | sealUnseal (mac : Bytes)
  | sealClose
  | sealSet (st : Nat)
  | sealKeySet (key : Bytes)
  -- SCHED
  | schedAdd (lateOk : Bool) (t : Instant) (inner : ReqHeader) (payload : Bytes)
  | schedCancel (id : Word)
  | schedList (after : Word)
  | commit (id : Word)
  | actionArm (id : Word)
  | scheduledAction (id : Word)
  -- doorbell and request lifecycle (13)
  | submit
  | release
  | intake
  | svc (port : Nat) (p : PacketIn)
  | requestStart
  | lifetime
  | cacheExpiry
  | arm
  | cancel
  | timeSecLo (route : Route)
  | localStreamWindow
  | mbErr
  | newRec
  | dbwIrqStat (w : Word)
  | registerWrite (addr : Nat) (w : HspiOp)
  | hspiStatus
  | directAccess (port : Nat) (p : PacketIn)
  -- conversion and audit (02, 03, 05, 07)
  | conversion (ch : Nat) (code : Int) (cmMv : Int)
  | reservationRetry
  | clamp (ch : Nat)
  | excOl (ch : Nat)
  | grdOl (oct : Nat)
  | auditEntry (die : Nat) (codes : List Int)
  | preEmption (die : Nat)
  | comparison (ch : Nat)
  | milkRun (die : Nat)
  -- array time (04, 17)
  | arraySecond
  | ppsEdge (input : Nat) (fu : Int)
  | ppsLost (input : Nat)
  | marker (fine : List Int)
  | markLost
  | markLostTimeout
  | clockLoss
  | timecorA (sndAlign : Nat) (sec : BitVec 48)
  | timecorB (baseState : Nat) (delay errEst : Nat)
  | timecorS (step : Int)
  | timecorUnknown (part : Nat)
  | delay (port : Nat) (rttPs : Nat)
  | slew
  | relock
  | sclkValid
  | relockTimeout
  | relockRetry
  | tinEdge (input : Nat) (edge : TinEdge)
  -- triggers (06)
  | trigEdge (pin : Nat) (level : PinRun)
  | konEvaluation (group : Nat)
  -- streams, separator, records (07, 08, 09, 13, 17)
  | redRecord (ch : Nat)
  | sweep (flow : Nat)
  | fci (pin : Nat) (level : Bool)
  | tick
  | modalFrame (p : PacketIn) (f : ModalFrame)
  | timeout
  | xing
  | mgtLoad (loads : List Nat)
  | telem
  | telemetryRefresh (vkeepMv : Nat) (dies : List DieReading)
  | shedEvaluation
  -- lanes (11)
  | offsetTimeout (port lane : Nat)
  | alignFail (port lane : Nat)
  | mark (port lane width mcount : Nat)
  | invalidHeader (port lane : Nat)
  | markWaitTimeout (port lane : Nat)
  | hello (port role maxRate maxWidth locked : Nat)
  | serial (port : Nat) (sn : BitVec 48)
  | trainStep (port rate mcount : Nat)
  | prbsCheck (port : Nat) (passed : List Bool)
  | result (port rate lanes : Nat)
  | trainRequest (port rate : Nat)
  | probe (port : Nat)
  | park (port : Nat)
  | signalDetect (port : Nat)
  | widthRequest (port width : Nat)
  | order (port width mcount : Nat)
  | answer (port lanes : Nat)
  | elasticSlip (port lane : Nat)
  -- chain protocol (12)
  | idle (port sel : Nat)
  | trig (port : Nat) (p : PacketIn) (m : ArrMsg)
  | stream (port : Nat) (p : PacketIn)
  | ack (port seq : Nat)
  | nak (port seq cause : Nat)
  | replayTimeout (port : Nat)
  | ackTimer (port : Nat)
  | pause (port : Nat) (st : Bool)
  | pauseRepeat (port : Nat)
  | pauseLost (port : Nat)
  | searchOpen (round : Nat)
  | token (round next : Nat) (full : Bool)
  | searchReturn (port round next : Nat) (full : Bool)
  | searchClose (round : Nat)
  | claim (port : Nat) (payload : BitVec 56)
  | arrive (port : Nat) (payload : BitVec 56)
  | arriveRepeat
  | depart (port : Nat) (payload : BitVec 56)
  -- power and start-up (17, 18)
  | holdUpEnd
  | vkeep
  | vkeepLoss
  | bayRailsGood (bay : Nat)
  | bayTimeout (bay : Nat)
  | vmainFall
  | vexcLow (mv : Nat)
  | vexcRestore (mv : Nat)
  | rstN (pins : ResetPins)
  /-- Dies whose core A passed, dies whose core B passed after it, dies whose cores both failed; what it finds of the flash. -/
  | bootRom (coreA coreB dead : List Nat) (flash : FlashSeen)
  | dieBootTimeout (die : Nat)
  | bootWatchdog
  | firmwareStart (loopbackOk : Bool)
  | rough
  | full
  | startupLate
  | nonceExpiry
  | lockout
  -- faults and failover (15)
  | heartbeat (die : Nat)
  | sentinelPeriod (die : Nat)
  | standbyTimeout (die : Nat)
  | checkpoint (die : Nat)
  | windowClose (unit : Word)
  | signatureTest (die : Nat) (failed : List Nat)
  | dieFault (die cause : Nat)
  | eccError (die page : Nat) (uncorrectable : Bool) (addr : Nat)
  | sentVote (copy : Nat)
  | autoRestore (ch : Nat)
  | timeSkew (die : Nat) (diffPs : Int)
  -- calibration (16)
  | calSlot (die : Nat) (ev : CalEvent)
  | background
  | refRecheck (die : Nat) (done : Bool)
  | requeue (oct : Nat)
  -- logbook and tag (19)
  | ringEntry
  | logDrop
  | lockExpiry
  | fieldAbsent
  | inventory (r : TagReq) (afi : Option Byte) (slots16 : Bool) (maskLen : Nat) (mask : BitVec 64)
  | stayQuiet (r : TagReq)
  | readSingleBlock (r : TagReq) (block : Nat)
  | writeSingleBlock (r : TagReq) (block : Nat) (data : Word)
  | readMultipleBlocks (r : TagReq) (first count : Nat)
  | select (r : TagReq)
  | resetToReady (r : TagReq)
  | getSystemInfo (r : TagReq)
  | getMultipleBlockSecurityStatus (r : TagReq) (first count : Nat)
  | extReadSingleBlock (r : TagReq) (block : Nat)
  | extWriteSingleBlock (r : TagReq) (block : Nat) (data : Word)
  | extReadMultipleBlocks (r : TagReq) (first count : Nat)
  | extGetSystemInfo (r : TagReq)
  | extGetMultipleBlockSecurityStatus (r : TagReq) (first count : Nat)
  | ownerLock (r : TagReq) (mfr : Byte) (seconds : Nat)
  | logStatus (r : TagReq) (mfr : Byte)
  | tagUnsupported (r : TagReq) (code : Nat) (mfr : Byte)
  -- PMBus (17)
  | page (write : Option Byte) (pec : Pec)
  | clearFaults (pec : Pec)
  | capability
  | statusWord
  | readVin
  | readIout
  | readTemperature1
  | pmbusRevision
  | mfrReadVexc
  | mfrReadIexc
  | mfrReadVkeep
  | mfrReadPower
  | mfrShed
  | pmbusUnsupported (code : Nat)
  | busTimeout
  -- TAP (18)
  | extest
  | idcode
  | samplePreload
  | highz
  | clampInstruction
  | extestPulse
  | extestTrain
  | debugInstruction (code : Nat)
  | bypass
  -- further steps
  | blockBoundary (port : Nat)
  | svcForward (port : Nat) (p : PacketIn)
  | invCtl (port : Nat)
  | validHeaders (port lane : Nat)
  | noMarkWhereExpected (port lane : Nat)
  | nakRepeat (port : Nat)
  | prbsSync (port lane : Nat)
  | syncLoss (port lane : Nat)
  | jobStop (job : Nat)
  | requestCompletion
  | refclkLoss
  | localMemoryEccError (die engine : Nat)
  | dieRestart (die : Nat) (passed : Bool)
  | bay0Starts
  | clampRelease (ch : Nat)
  | excOlEnd (ch : Nat)
  | grdOlEnd (oct : Nat)
  | blockWriteTime (block : Nat)
  deriving DecidableEq, Repr

end Sys2Proof
end

