-- ==== Sys2Proof/WellFormed.lean ====
section
/-! DEFINITION. Which commands are well-formed: the operands that the command's carrier (a payload of chapter 14, a
control block, a pin) can hold at all. A value that the carrier can hold and that the hub refuses is the business of the
command's meaning. -/

namespace Sys2Proof

/-- A set of numbers below n in strictly rising order, as a bit map of n bits names it (R379). -/
def setBelow (n : Nat) : List Nat → Bool
  | [] => true
  | [a] => decide (a < n)
  | a :: b :: r => decide (a < b) && setBelow n (b :: r)

/-- A die list of a DIEMASK (Table 13-1). -/
def dieSet (l : List Nat) : Bool := setBelow 8 l

/-- A CHMAP (R379). -/
def chSet (l : List Nat) : Bool := setBelow 1024 l

/-- Whether the operands of a command fit the field that carries them. -/
def WellFormed : Instr → Bool
  | .sysReqstat r t => decide (r < 256 ∧ t < 65536)
  | .sysFwWrite i o d => decide (i < 256 ∧ o < 2 ^ 32 ∧ d.length ≤ 4072)
  | .afeSet c _ | .afeSync c | .afeClear c | .chanSet c _ | .chanCoefLoad c _ | .capRedSet c _ => chSet c
  | .chanCoefSwitch c x => chSet c && decide (x < 2 ^ 32)
  | .afeGuard o _ => setBelow 128 o
  | .afeGet c | .chanGet c | .chanQuery c | .capRedGet c => decide (c < 65536)
  | .strmSet k e c => decide (k < 256 ∧ e < 256) && chSet c
  | .churnSet u m c => decide (u < 256 ∧ m < 256) && chSet c
  | .capPartSet d _ | .capPartGet d | .capWmSet d _ | .capWmGet d | .capList d _ | .sepLoad d _ _ | .sepStatus d
  | .strmXstat d | .churnCfgSet d _ | .churnCfgGet d | .calAuditSet d _ | .calAuditGet d | .mcDrill d => dieSet d
  | .sepSwitch d x => dieSet d && decide (x < 65536)
  | .pwrGate q => setBelow 32 q
  | .calRun o => setBelow 128 o
  | .schedAdd _ _ h p => decide (h.length = p.length ∧ p.length ≤ 4080)
  | .sealUnseal m => decide (m.length = 32)
  | .sealKeySet k => decide (k.length = 32)
  | .registerWrite a _ => decide (a < 65536)
  | .inventory _ _ _ m _ => decide (m ≤ 64)
  | _ => true

end Sys2Proof
end

