-- ==== Sys2Proof/Config.lean ====
section
/-! DEFINITION. Free values: what the spec leaves open and the machine nevertheless fixes. Each is a constant without a
body, applied to what it may depend on, so that a theorem holds for every choice (log entries 10 to 19). -/

namespace Sys2Proof.Config

/-- The rounding of an exact quotient num / den between two stages of the chain to the 16 fractional bits of R134: the
spec gives the format and not the rounding (log entry 10). -/
opaque stageRound : (num : Int) → (den : Nat) → Int

/-- The error of the cosine and of the sine at a phase, in units of 2^-30: R137 bounds the spurs only, and the model keeps it within 1,073
(log entry 10). -/
opaque cosSpur : (phase : BitVec 32) → Int
opaque sinSpur : (phase : BitVec 32) → Int

/-- An entry of the resampler's table in units of 2^-30: R143 gives its shape and not its values (log entry 10). -/
opaque kernelTable : (n : Nat) → Int

/-- SHA-256 (FIPS 180-4) of a byte string, uninterpreted (R471; log entry 12). -/
opaque sha256 : Bytes → BitVec 256

/-- ECDSA P-256 verification of a signature over a digest under the firmware key (R471; log entry 12). -/
opaque ecdsaOk : (digest sig : Bytes) → Bool

/-- HMAC-SHA-256 (FIPS 198-1) of a message under a key, uninterpreted (R483; log entry 12). -/
opaque hmacSha256 : (key message : Bytes) → BitVec 256

/-- The n-th fresh 128-bit random nonce (R483; log entry 13). -/
opaque nonce : Nat → BitVec 128

/-- Whether the n-th self-test that the hub runs on a unit passes: a fact of the part, not of the spec (R399, R413; log
entry 13). -/
opaque selfTestPass : (n : Nat) → (unit : BitVec 32) → Bool

/-- Whether the n-th write of configuration copy c to flash verifies (R381; log entry 13). -/
opaque flashVerify : (n copy : Nat) → Bool

/-- The RETRY_AFTER estimate in ms of a BUSY answer where the spec says 'estimated' (R369; log entry 14). -/
opaque retryEstimate : (n cls : Nat) → Nat

/-- Whether core B takes the next step of Table 15-3 at a beat, where its bound has not come (R417; log entry 170). -/
opaque failoverStep : Nat → Bool

/-- The period of the n-th cycle on the internal oscillator, which runs at 97% of the target within 1.5%, so that a cycle takes 8,122 to 8,377 ps: 8,122
and this modulo 256 (R465; log entry 188). -/
opaque oscPeriod : Nat → Nat

/-- How far telemetry polling is stretched while class 3 sheds: 1 + n mod 10 times its interval (R370; log entry 168). -/
opaque telemStretch : Nat → Nat

/-- The estimated wait of a service class in ms (R369; log entry 14). -/
opaque waitEstimate : (n cls : Nat) → Nat

/-- The byte that a raw flash slot or a staging area holds where nothing has been written (R473; log entry 15). -/
opaque flashByte : (image offset : Nat) → Byte

/-- The byte that a newly allocated piece of the store holds: the n-th allocation's byte at an offset (R394; log entry 15). -/
opaque scratchByte : (n offset : Nat) → Byte

/-- The byte that the n-th uncorrectable error leaves to be read at an offset of a coach's payload (R191; log entry 15). -/
opaque eccByte : (n offset : Nat) → Byte

/-- The address of the n-th error in an engine's own memory, which ECC_UE carries (Table 15-6) and no command does (log entry 195). -/
opaque eccAddr : Nat → Nat

/-- What the n-th uncorrectable error of the store hits, among what its area holds (R191; log entry 76). -/
opaque eccVictim : Nat → Nat

/-- How many steps a LINEAR11 reading's exponent lies above the least that holds it, by the value in thousandths: R456 names the format
and not the exponent (log entry 89). -/
opaque linearSlack : Int → Nat

/-- IC reference of the tag, as GET_SYSTEM_INFO gives it (R490; log entry 92). -/
opaque icReference : BitVec 8

/-- GEN of an image committed while no image runs: R473 names the running image's (log entry 93). -/
opaque netbootGen : Nat → BitVec 32

/-- What a cell of the boundary register holds: by which of its contents stands in it, the kind of the cell's ball and its number. No row
shifts data (R482; log entry 197). -/
opaque boundary : (contents kind ball : Nat) → Bool

/-- The audit converter's comparison constants of a gain, gain over 2^30 and offset over 2^16, from the sums of entries 141, 142 and 140 at it:
R437 names the entries and not the formula (log entry 202). -/
opaque auditConst : (gain : Nat) → (high low agnd : Int) → Nat × Int

/-- What an exchange of unit segments does to a converter's gain, over 2^30, and what one of segments or tap does to its offset, over 2^16 raw
LSB: R431 and R433 do not state it (log entry 203). -/
opaque segGain : (n : Nat) → Nat
opaque segOfs : (n : Nat) → Int

/-- The word that an absent sub-field of a tap or of a debug scan reads (R482; log entry 15). -/
opaque scanWord : (n : Nat) → BitVec 32

/-- The most dummy clocks of a quad read that the boot ROM can give (R524; log entry 144). -/
opaque bootDummy : Nat

/-- The rounding of a time in ps or of a mean of times to units of 1/1,024 ns, and back (R103, R106, R111, R114; log entry
22). -/
opaque timeRound : (num : Int) → (den : Nat) → Int

/-- Which of the flows that have a packet for a port sends first: the n-th choice (R332; log entry 24). -/
opaque pickFlow : Nat → Nat

/-- T_TURN and ASYM_FAC of a port in ps: factory trims (R108, R111; log entry 16). -/
opaque turnPs : Nat
/-- ASYM_FAC of a port, a signed number of ps in the 32 bits of LT_ASYM (R111; log entry 16). -/
opaque asymFacPs : (port : Nat) → BitVec 32

/-- Which tokens the churn encoder chooses for a block: any body that decodes within the bound is allowed by R284 and R287
(the shortest under the spec's own search, whose ties it leaves open); the n-th block's encoding (log entry 17). -/
opaque churnBlock : (n mode : Nat) → (samples : List Int) → Bytes

/-- PARENT and PORT of the n-th CLAIM, as Table 12-8 places them in [27:7]: the spec gives a hub no way to know them unless its
parent is the concentrator (log entry 61). -/
opaque parentBits : Nat → BitVec 21

/-- Bit errors that a checker counts of what a lane receives from outside, the n-th time that it is asked, and cycles of LT that match neither row of
Table 04-8 (R321, R323; log entry 62). -/
opaque prbsErrors : Nat → Nat

/-- The 66 bits that a lane, by its number, has recovered when it sends them back in far-end loopback, the n-th time (R323; log entry 62). -/
opaque received : Nat → Nat → BitVec 66

/-- DET and HK of a hub in bits a second, and the load of the hubs below a port, as the shedding decision of time n estimates them: R31
names these terms without a rule for them (log entry 63). -/
opaque eventLoad : (n : Nat) → Nat
opaque loadBelow : (n port : Nat) → Nat

/-- Body blocks of a MODAL frame's outgoing copy that had gone out when its reception failed: the n-th such copy (R230; log entry
56). -/
opaque copiedBlocks : Nat → Nat

/-- Whether samples whose common-mode state is still open carry CM where a change or a release settles them early: the n-th such case (R54;
log entry 42). -/
opaque cmOpen : Nat → Bool

/-- The smoothed delay from a trailer to its ACK, in ns, from its last value and a new measurement (R338; log entry 18). -/
opaque smoothDelay : (old sample : Nat) → Nat

end Sys2Proof.Config
end

