-- ==== Sys2Proof/Machine/Bits.lean ====
section
/-! DEFINITION. Bit fields, byte order (R9), rounding half away from zero, checksums and list helpers that the
operations use. -/

namespace Sys2Proof.Machine

/-- Field [hi:lo] of a word, as a number (conventions of 00). -/
def fld (w : Word) (hi lo : Nat) : Nat := (w.toNat >>> lo) % 2 ^ (hi - lo + 1)

/-- Bit n of a word. -/
def bitOf (w : Word) (n : Nat) : Bool := w.toNat.testBit n

/-- The word with field [hi:lo] replaced. -/
def setFld (w : Word) (hi lo v : Nat) : Word :=
  let m := (2 ^ (hi - lo + 1) - 1) <<< lo
  (w &&& ~~~(BitVec.ofNat 32 m)) ||| BitVec.ofNat 32 (((v % 2 ^ (hi - lo + 1))) <<< lo)

/-- The word with bit n set or cleared. -/
def setBit (w : Word) (n : Nat) (b : Bool) : Word := setFld w n n (if b then 1 else 0)

/-- A number of n bits read as two's complement. -/
def signed (n v : Nat) : Int :=
  let u := v % 2 ^ n
  if u < 2 ^ (n - 1) then (u : Int) else (u : Int) - (2 ^ n : Nat)

/-- Two's complement of n bits of an integer, as a number. -/
def unsigned (n : Nat) (v : Int) : Nat := (v % ((2 ^ n : Nat) : Int)).toNat

/-- Field [hi:lo] read as two's complement. -/
def sfld (w : Word) (hi lo : Nat) : Int := signed (hi - lo + 1) (fld w hi lo)

/-- Every bit that is set in `w` is set in `mask`: a write leaves the reserved bits zero (R64). -/
def onlyBits (w : Word) (mask : Word) : Bool := (w &&& ~~~mask) == 0

/-- num / den rounded half away from zero (R59, R86, R145, R197, R207, R217). `den` is positive. -/
def roundHalf (num : Int) (den : Nat) : Int :=
  let q := (2 * num.natAbs + den) / (2 * den)
  if num < 0 then -(q : Int) else (q : Int)

/-- Quotient rounded up. -/
def ceilDiv (a b : Nat) : Nat := if b = 0 then 0 else (a + b - 1) / b

/-- Quotient rounded up, of integers with a positive divisor. -/
def ceilDivInt (a : Int) (b : Nat) : Int := -((-a) / (b : Int))

/-- Integer square root by `fuel` halvings, structural so that the kernel can run it: the largest r below 2^fuel with
r * r at most n. -/
def isqrtAux (n : Nat) : Nat → Nat → Nat
  | 0, r => r
  | k + 1, r =>
    let t := r + 2 ^ k
    isqrtAux n k (if t * t ≤ n then t else r)

/-- Integer square root of numbers below 2^256. -/
def isqrt (n : Nat) : Nat := isqrtAux n 128 0

/-- sqrt(num / den) rounded half away from zero, exactly (R166, R207). -/
def roundSqrt (num den : Nat) : Nat := (isqrt (4 * num / den) + 1) / 2

/-- The smallest natural number at or above sqrt(num / den) (R116). -/
def ceilSqrt (num den : Nat) : Nat :=
  let x := (num + den - 1) / den
  if isqrt x * isqrt x = x then isqrt x else isqrt x + 1

/-- The numeral's low n bytes, most significant first (R9). -/
def be : Nat → Nat → Bytes
  | 0, _ => []
  | n + 1, v => BitVec.ofNat 8 (v >>> (8 * n)) :: be n v

/-- Big-endian bytes of an integer in two's complement. -/
def beInt (n : Nat) (v : Int) : Bytes := be n (unsigned (8 * n) v)

/-- A byte string as a number, most significant byte first (R9). -/
def unbe (b : Bytes) : Nat := b.foldl (fun a x => a * 256 + x.toNat) 0

/-- n bytes at an offset, most significant first. -/
def fieldAt (b : Bytes) (o n : Nat) : Nat := unbe ((b.drop o).take n)

/-- Zero bytes ("pad n", R376). -/
def pad (n : Nat) : Bytes := List.replicate n 0

/-- The numbers below n whose bit is set in a byte string under the CHMAP rule: c is bit (c mod 8) of byte c / 8
(R379). -/
def mapBits (b : Bytes) : List Nat :=
  (List.range (8 * b.length)).filter (fun c => ((b.getD (c / 8) 0).toNat).testBit (c % 8))

/-- The numbers whose bit is set in a number of n bits. -/
def bitsOf (n v : Nat) : List Nat := (List.range n).filter (fun i => v.testBit i)

/-- The number with the listed bits set. -/
def ofBits (l : List Nat) : Nat := l.foldl (fun a i => a ||| 2 ^ i) 0

/-- One step of the CRC-32 of IEEE 802.3 (reflected form) on one bit. -/
def crcBit (c : BitVec 32) : BitVec 32 :=
  if c.getLsbD 0 then (c >>> 1) ^^^ 0xEDB88320 else c >>> 1

/-- Iterate a function, structurally. -/
def iter {α : Type} (f : α → α) : Nat → α → α
  | 0, a => a
  | n + 1, a => iter f n (f a)

/-- CRC-32 with the IEEE 802.3 polynomial (R199, R247, R293, R358). -/
def crc32 (b : Bytes) : Word :=
  ~~~(b.foldl (fun c x => iter crcBit 8 (c ^^^ x.zeroExtend 32)) 0xFFFFFFFF)

/-- A saturating increment to a counter of n bits. -/
def satInc (n v : Nat) : Nat := min (v + 1) (2 ^ n - 1)

/-- Saturating addition to a counter of n bits. -/
def satAdd (n v k : Nat) : Nat := min (v + k) (2 ^ n - 1)

/-- A value held within n bits, saturating. -/
def sat (n v : Nat) : Nat := min v (2 ^ n - 1)

/-- Serial arithmetic mod 2^n: a is after b (R248, R335). -/
def serialAfter (n a b : Nat) : Bool :=
  let d := (a + 2 ^ n - b % 2 ^ n) % 2 ^ n
  decide (1 ≤ d ∧ d < 2 ^ (n - 1))

/-- Replace element i of a list by its image; nothing happens beyond the end. -/
def modAt {α : Type} (l : List α) (i : Nat) (f : α → α) : List α := l.modify i f

/-- Apply f at every listed index. -/
def modAll {α : Type} (l : List α) (is : List Nat) (f : Nat → α → α) : List α :=
  l.mapIdx (fun i a => if is.contains i then f i a else a)

/-- The least element of a list of numbers. -/
def leastOf (l : List Nat) : Option Nat := l.min?

/-- The number that the die list names, as a mask of 8 bits. -/
def dieMask (l : List Nat) : Nat := ofBits l

/-- Puts a number into an ascending list. -/
def insertNat (a : Nat) : List Nat → List Nat
  | [] => [a]
  | b :: r => if a ≤ b then a :: b :: r else b :: insertNat a r

/-- A list of numbers in ascending order. -/
def sortNat (l : List Nat) : List Nat := l.foldr insertNat []

/-- Strictly rising: a set's list form. -/
def rising : List Nat → Bool
  | [] => true
  | [_] => true
  | a :: b :: r => decide (a < b) && rising (b :: r)

end Sys2Proof.Machine
end

