-- ==== Sys2Proof/Machine/Numbers.lean ====
section
/-! DEFINITION. The functions that the chain and the triggers take of real numbers (R137, R141, R143, R145, R147, R152, R175), in fixed
point with 96 fractional bits where they are not rational, and the rounding that the spec leaves open. -/

namespace Sys2Proof.Machine

/-- 1, π, ln 2 and ln 1,000 with 96 fractional bits. -/
def fixOne : Int := 2 ^ 96
def fixPi : Int := 248902613312231085230521944622
def fixLn2 : Int := 54916777467707473351141471128
def fixLn1000 : Int := 547288757851964142270389815818

/-- The series of the cosine of an angle from its term 2n on (fuel, n, term, square of the angle). -/
def cosSeries : Nat → Nat → Int → Int → Int
  | 0, _, _, _ => 0
  | k + 1, n, term, sq => term + cosSeries k (n + 1) (-(term * sq) / (fixOne * (((2 * n + 1) * (2 * n + 2) : Nat) : Int))) sq

/-- The series of the sine from its term 2n + 1 on. -/
def sinSeries : Nat → Nat → Int → Int → Int
  | 0, _, _, _ => 0
  | k + 1, n, term, sq => term + sinSeries k (n + 1) (-(term * sq) / (fixOne * (((2 * n + 2) * (2 * n + 3) : Nat) : Int))) sq

/-- cos of 2π × num / den. -/
def cosTurn (num den : Nat) : Int :=
  let q := 4 * num / den % 4
  let r := 4 * num % den
  let a := fixPi * (r : Int) / (2 * (den : Int))
  let c := cosSeries 30 0 fixOne (a * a / fixOne)
  let s := sinSeries 30 0 a (a * a / fixOne)
  if q = 0 then c else if q = 1 then -s else if q = 2 then -c else s

/-- sin of 2π × num / den. -/
def sinTurn (num den : Nat) : Int := cosTurn (4 * num + 3 * den) (4 * den)

/-- The series of the inverse tangent (sign −1) or of the inverse hyperbolic tangent (sign 1) from its term n on. -/
def atanSeries (sign : Int) : Nat → Nat → Int → Int → Int
  | 0, _, _, _ => 0
  | k + 1, n, pow, sq => pow / ((2 * n + 1 : Nat) : Int) + atanSeries sign k (n + 1) (sign * pow * sq / fixOne) sq

/-- atan of num / den, at most 1. -/
def atanFix (num den : Nat) : Int :=
  let f (n d : Nat) : Int := let t := (n : Int) * fixOne / (d : Int); atanSeries (-1) 60 0 t (t * t / fixOne)
  if 2 * num ≤ den then f num den else fixPi / 4 - f (den - num) (den + num)

/-- ln of num / den, at least 1. -/
def lnFix (num den : Nat) : Int :=
  let e := (num / den).log2
  let d := den * 2 ^ e
  let t := ((num : Int) - d) * fixOne / ((num : Int) + d)
  (e : Int) * fixLn2 + 2 * atanSeries 1 60 0 t (t * t / fixOne)

/-- atanh of a value below 1. -/
def atanhFix (a : Nat) : Int := lnFix (2 ^ 96 + a) (2 ^ 96 - a) / 2

/-- A quotient in a format whose rounding the spec leaves open: itself where it fits, else one of its two neighbours (log entry 10). -/
def quantise (num : Int) (den : Nat) : Int :=
  if num % (den : Int) = 0 then num / (den : Int) else num / (den : Int) + Config.stageRound num den % 2

/-- 2^30 × cos of 2π × phase / 2^32 as the demodulator has it: exact but for spurs below −120 dBc, which are free (R137; log entry 10). -/
def cosRef (phase : BitVec 32) : Int :=
  roundHalf (cosTurn phase.toNat (2 ^ 32)) (2 ^ 66) + max (-1073) (min 1073 (Config.cosSpur phase))

/-- 2^30 × sin of 2π × phase / 2^32, the same. -/
def sinRef (phase : BitVec 32) : Int :=
  roundHalf (sinTurn phase.toNat (2 ^ 32)) (2 ^ 66) + max (-1073) (min 1073 (Config.sinSpur phase))

/-! ## Notches (R141, Table 05-7): centre in mHz, Q × 100, input period in reference cycles -/

/-- cos ω0 and α, with 96 fractional bits. -/
def notchAngle (nf nq cyc : Nat) : Int × Int :=
  (cosTurn (nf * cyc) 125000000000, sinTurn (nf * cyc) 125000000000 * 50 / (nq : Int))

/-- cos ω0 from 32 bits: its distance from 1 or from −1, the nearer, with 32 significant bits (R141; log entry 10). -/
def notchCos (c : Int) : Int :=
  let k := (fixOne - c.natAbs).toNat
  let e := k.log2 - 31
  let d : Int := quantise k (2 ^ e) * 2 ^ e
  if c < 0 then d - fixOne else fixOne - d

/-- b0, b1, b2, a1 and a2 over a0, in units of 2^-126 (R141; log entry 10 on their rounding). DESIGN CHOICE (log entry 10): the 32-bit
coefficients are b0 and a2, rounded to 2^-30, and the distance of cos ω0 from ±1; b1 and a1 are −2 cos ω0 times b0, so that
b0 + b1 z^-1 + b2 z^-2 is nearly 0 at f0 and the null has its depth. -/
def notchCoef (nf nq cyc : Nat) : List Int :=
  let (c, a) := notchAngle nf nq cyc
  let den := (fixOne + a).toNat
  let b0 := quantise (fixOne * 2 ^ 30) den
  let b1 := -2 * notchCos c * b0
  [b0 * fixOne, b1, b0 * fixOne, b1, quantise ((fixOne - a) * 2 ^ 30) den * fixOne]

/-- n₀ of Table 05-7: the samples to decay to 0.1%. -/
def notchSettle (nf nq cyc : Nat) : Nat :=
  let a := (notchAngle nf nq cyc).2
  if fixOne ≤ a ∨ a ≤ 0 then 0 else (ceilDivInt fixLn1000 (atanhFix a.toNat).toNat).toNat

/-- The group delay of a notch at DC in ns, as a fraction: α / (1 − cos ω0) input samples (Table 05-7). -/
def notchDelay (nf nq cyc : Nat) : Nat × Nat :=
  let (c, a) := notchAngle nf nq cyc
  (a.toNat * cyc * 8, max 1 (fixOne - c).toNat)

/-- One value of a notch's impulse response: its number, the last two values and the sum of the absolute values so far. -/
def impulseStep (c a : Int) (s : Nat × Int × Int × Nat) : Nat × Int × Int × Nat :=
  let b : Int := if s.1 = 0 then fixOne else if s.1 = 1 then -2 * c else if s.1 = 2 then fixOne else 0
  let y := (b * fixOne + 2 * c * s.2.1 - (fixOne - a) * s.2.2.1) / (fixOne + a)
  (s.1 + 1, y, s.2.1, s.2.2.2 + y.natAbs)

/-- The sum of the absolute values of a notch's impulse response, in units of 2^-16: over three times n₀, where it has decayed below 10^-9
(R147). -/
def notchSum (nf nq cyc : Nat) : Nat :=
  let (c, a) := notchAngle nf nq cyc
  (quantise ((iter (impulseStep c a) (3 * notchSettle nf nq cyc + 3) (0, 0, 0, 0)).2.2.2 : Nat) (2 ^ 80)).toNat

/-! ## The resampler's kernel (R143) -/

/-- A table with the entry in the middle that makes the sum 256, the gain of 1 at DC. -/
def kernelNorm (t : Nat → Int) (n : Nat) : Int :=
  if n = 4096 then 256 * 2 ^ 30 - (((List.range 8192).filter (· != 4096)).map t).sum else t n

/-- The squared gain of a table at k / 256 of the skim rate, in units of 2^-268. -/
def kernelPower (t : Nat → Int) (k : Nat) : Int :=
  let c := ((List.range 8192).map fun n => t n * cosTurn (k * n) 65536).sum
  let s := ((List.range 8192).map fun n => t n * sinTurn (k * n) 65536).sum
  c * c + s * s

/-- A table keeps R143: within ±0.001 dB up to 0.40 of the skim rate, 100 dB down from 0.60 to half the table's own rate, at every 1/256 of
the skim rate (10^(±0.0001) and 10^-10 of power; log entry 10). -/
def kernelGood (t : Nat → Int) : Bool :=
  ((List.range 103).all fun k => decide (99976977 * 2 ^ 268 ≤ kernelPower t k * 10 ^ 8 ∧ kernelPower t k * 10 ^ 8 ≤ 100023029 * 2 ^ 268)) &&
  ((List.range 32615).all fun k => decide (kernelPower t (154 + k) * 10 ^ 10 ≤ 2 ^ 268))

/-- The series of the modified Bessel function of order 0 at 10.3 √u, with 96 fractional bits (fuel, k, term). -/
def besselSeries (u : Int) : Nat → Nat → Int → Int
  | 0, _, _ => 0
  | f + 1, k, term => term + besselSeries u f (k + 1) (term * 265225 * u / (10000 * (((k + 1) * (k + 1) : Nat) : Int) * fixOne))

/-- A table that keeps R143: a sinc with its edge at 0.498 of the skim rate under a Kaiser window of β 10.3. -/
def kernelDesign (n : Nat) : Int :=
  let m := ((n : Int) - 4096).natAbs
  let w := besselSeries (fixOne - (m * m : Nat) * 2 ^ 72) 60 0 fixOne
  let w1 := besselSeries fixOne 60 0 fixOne
  if m = 0 then roundHalf (996 * 2 ^ 30) 1000
  else roundHalf (sinTurn (249 * m) 128000 * 256 * 2 ^ 30 * w) (fixPi.toNat * m * w1.toNat)

/-- An entry of the table, 256 for each of the 32 output periods, in units of 2^-30. The spec gives the entries' properties and not their
values: they are any free values that have the properties (log entry 10). -/
def kernelEntry (n : Nat) : Int :=
  if 8192 ≤ n then 0
  else if kernelGood (kernelNorm Config.kernelTable) then kernelNorm Config.kernelTable n
  else kernelNorm kernelDesign n

/-- 2^30 × den × h(num / den), with linear interpolation between entries; 0 outside the span. -/
def kernelAt (num : Int) (den : Nat) : Int :=
  if num < 0 then 0
  else
    let p := 256 * num.toNat
    let f := p % den
    kernelEntry (p / den) * ((den - f : Nat) : Int) + kernelEntry (p / den + 1) * (f : Int)

/-! ## The phase word (R145) -/

/-- round(atan2(q, i) × 2^23 / π), where 2^23 wraps to −2^23; 0 for both 0. -/
def phaseOf (i q : Int) : Int :=
  let x := i.natAbs
  let y := q.natAbs
  if x = 0 ∧ y = 0 then 0
  else
    let a : Int := if y ≤ x then 4 * atanFix y x else 2 * fixPi - 4 * atanFix x y
    let a := if i < 0 then 4 * fixPi - a else a
    let v := roundHalf (a * 2 ^ 23) (4 * fixPi).toNat
    if q < 0 then -v else if v = 2 ^ 23 then -(2 ^ 23) else v

/-! ## The crossing of a cubic (R175) -/

/-- Coefficients a, b, c, d of 2 × (c(u) − L) with c(u) of R175. -/
def crossCubic (p0 p1 p2 p3 level : Int) : Int × Int × Int × Int :=
  (3 * p1 - p0 - 3 * p2 + p3, 2 * p0 - 5 * p1 + 4 * p2 - p3, p2 - p0, 2 * p1 - 2 * level)

/-- The local maximum of the cubic a u³ + b u² + c u + d lies in (0, p/q) and is not negative: exact, with its place at
(−b − √D) / (3a), D = b² − 3ac. -/
def peakBefore (a b c d : Int) (p q : Nat) : Bool :=
  let D := b * b - 3 * a * c
  if a = 0 then
    decide (b < 0) && decide (0 < c) && decide (c * q < -2 * b * p) && decide (4 * b * d ≤ c * c)
  else
    let m := 3 * a * p + b * q
    let pos := if 0 < a then decide (b < 0) && decide (D < b * b) else decide (0 < b) || decide (b * b < D)
    let before := if 0 < a then decide (0 ≤ m) || decide (m * m < D * q * q) else decide (m < 0) && decide (D * q * q < m * m)
    let A := 2 * b * D + 27 * a * a * d - 3 * a * b * c
    decide (0 < D) && pos && before && (decide (0 ≤ A) || decide (A * A ≤ 4 * D * D * D))

/-- The smallest root in [0, 1] of a cubic that starts below 0 lies before p / q. -/
def rootBefore (a b c d : Int) (p q : Nat) : Bool :=
  let x : Int := p
  let y : Int := q
  decide (0 < a * x * x * x + b * x * x * y + c * x * y * y + d * y * y * y) || peakBefore a b c d p q

/-- The least number from `lo` on, within 2^fuel of it, that has a property which stays once it holds. -/
def leastFrom (p : Nat → Bool) : Nat → Nat → Nat
  | 0, lo => lo
  | k + 1, lo => if p (lo + 2 ^ k - 1) then leastFrom p k lo else leastFrom p k (lo + 2 ^ k)

/-- round(u × span), u the smallest root in [0, 1] of the cubic through four samples at a level (R175): half away from zero, so the least
m whose m + 1/2 lies beyond u × span. -/
def cubicCross (p0 p1 p2 p3 level : Int) (span : Nat) : Nat :=
  let (a, b, c, d) := crossCubic p0 p1 p2 p3 level
  if d = 0 then 0
  else
    let s : Int := if d < 0 then 1 else -1
    leastFrom (fun m => decide (span ≤ m) || rootBefore (s * a) (s * b) (s * c) (s * d) (2 * m + 1) (2 * span)) 64 0

end Sys2Proof.Machine
end

