-- ==== Sys2Proof/Machine/ChanState.lean ====
section
/-! DEFINITION. The state of one slice and its channel engine (02, 03, 05, 06, 07, 10, 16), of an octet and of a
repeater output. Plain data; each field's docstring gives its width, its rule and its reset value. -/

namespace Sys2Proof.Machine

/-- A coefficient set (R155, Table 05-2). -/
structure CoefSet where
  /-- DEMOD, 32; Table 05-3; reset 0. -/
  demod : Word
  /-- FIR_TM1, 7; Table 05-4; reset 0. -/
  firTm1 : Nat
  /-- NOTCH0_F, 32; Table 05-5; reset 0x0000_C350. -/
  n0f : Word
  /-- NOTCH0_Q, 32; Table 05-5; reset 0x0000_0BB8. -/
  n0q : Word
  /-- NOTCH1_F, 32; Table 05-5; reset 0x0000_EA60. -/
  n1f : Word
  /-- NOTCH1_Q, 32; Table 05-5; reset 0x0000_0BB8. -/
  n1q : Word
  /-- SCALE, 32; Table 05-6; reset 0x4000_0009. -/
  scale : Word
  /-- OFFSET, 32; Table 05-6; reset 0. -/
  offset : Word
  /-- FIR_C0 to FIR_C127, 32 each; Table 05-4; reset 0x0001_0000 for n = 0, else 0. -/
  firC : List Word
  deriving DecidableEq, Repr

/-- The DET section (Table 06-1). -/
structure DetSec where
  /-- DETA_CFG and DETB_CFG, 32; Table 06-2; reset 0. -/
  deta : Word
  detb : Word
  /-- THR0_LEVEL, THR0_HYST, THR1_LEVEL, THR1_HYST, 32; Table 06-3; reset 0. -/
  thr0l : Word
  thr0h : Word
  thr1l : Word
  thr1h : Word
  /-- TRG_CFG, 32; Table 06-4; reset 0x0008_0000. -/
  trg : Word
  /-- TRG_A, TRG_B, TRG_HYST, 32; Table 06-4; reset 0. -/
  trga : Word
  trgb : Word
  trgh : Word
  deriving DecidableEq, Repr

/-- A chain descriptor (Table 05-2) with its reserved words left out: they read 0. -/
structure Desc where
  /-- The AFE section; Table 02-6. -/
  afe : AfeWords
  /-- CONV_CFG, 32; Table 03-1; reset 0x8040_007D. -/
  conv : Word
  /-- CH_CTL, 32; Table 05-3; reset 0x0000_1000. -/
  ctl : Word
  /-- CIC_CFG, 32; Table 05-4; reset 0x0003_03E7. -/
  cic : Word
  /-- FIR_DEC, 2; Table 05-4; reset 0. -/
  firDec : Nat
  /-- MA_CFG, 32; Table 05-5; reset 0. -/
  ma : Word
  /-- RS_RATIO, 32; Table 05-6; reset 0x8000_0000. -/
  rs : Word
  /-- The DET section; Table 06-1. -/
  det : DetSec
  /-- The active coefficient set; R155. -/
  coef : CoefSet
  deriving DecidableEq, Repr

/-- The AFE section's reset values (Table 02-6). -/
def AfeWords.reset : AfeWords := ⟨0x00053E2D, 0, 0, 0x00000100, 0x8201F506⟩

/-- The coefficient set's reset values (Tables 05-3 to 05-6). -/
def CoefSet.reset : CoefSet :=
  { demod := 0, firTm1 := 0, n0f := 0x0000C350, n0q := 0x00000BB8, n1f := 0x0000EA60, n1q := 0x00000BB8,
    scale := 0x40000009, offset := 0, firC := 0x00010000 :: List.replicate 127 0 }

/-- The DET section's reset values (Tables 06-2 to 06-4). -/
def DetSec.reset : DetSec := ⟨0, 0, 0, 0, 0, 0, 0x00080000, 0, 0, 0⟩

/-- The descriptor's reset values. -/
def Desc.reset : Desc :=
  { afe := AfeWords.reset, conv := 0x8040007D, ctl := 0x00001000, cic := 0x000303E7, firDec := 0, ma := 0,
    rs := 0x80000000, det := DetSec.reset, coef := CoefSet.reset }

/-- A write to a channel that waits for a boundary (R65, R66). -/
structure ChanWrite where
  /-- The descriptor or the AFE section alone. -/
  desc : Option Desc
  afe : Option AfeWords
  red : Option Word
  /-- The earliest array instant at which it applies, in 1/1,024 ns (R123). -/
  notBefore : Nat
  /-- The scheduled actions whose values it carries, each with its T; a replaced write leaves its action here (R66, R126). -/
  actions : List (Word × Nat)
  /-- A calibration has held it (R66). -/
  late : Bool
  /-- Its place in the order of acceptance: what falls on one boundary applies in this order (R65). -/
  order : Nat
  deriving DecidableEq, Repr

/-- An entry of the raw history (R75), with the common-mode state that R54 settles and the intake value. -/
structure RawEntry where
  /-- Raw sample index k, R69. -/
  k : Nat
  /-- Two's-complement code, 14 bits, R73. -/
  val : Int
  /-- Intake value x_k in raw LSB × 2^16, R136. -/
  x : Int
  orFlag : Bool
  cl : Bool
  cm : Bool
  /-- The internal AD tag, R89. -/
  ad : Bool
  /-- The channel carried UC at this sample, R136. -/
  uc : Bool
  deriving DecidableEq, Repr

/-- What a conversion gives the chain, in the order of the conversions (R54): a sample with its entry, the reference accumulator at
its instant (R137) and whether the trigger unit passes it by (R170), a raw sample of a hold, or one of a retired channel. Between
conversions: the chain's part of a write from descriptor a to b at an instant (R65), the chain's restart after a hold (R433), and a change
outside the channel that marks its samples with ST, with its ramp in µs (R40, R49). -/
inductive RawWork where
  | sample (e : RawEntry) (acc : BitVec 32) (skip : Bool)
  | held (k : Nat) (skip : Bool)
  | gone (k : Nat)
  | change (a b : Desc) (w : ChanWrite) (inst : Nat)
  | resume
  | settle (us : Nat)
  deriving DecidableEq, Repr

/-- The common-mode window machine (R53, R54). -/
structure CmState where
  /-- A violation is recognised; reset false. -/
  viol : Bool
  /-- Consecutive conversions outside the window; reset 0. -/
  outRun : Nat
  /-- Consecutive conversions inside by the hysteresis during a violation; reset 0. -/
  inRun : Nat
  deriving DecidableEq, Repr

/-- State of one lane (I or Q) of the stages that keep state (Table 05-1). -/
structure LaneStages where
  /-- CIC integrators, one a stage of the order; R139; cleared to 0. -/
  integ : List Int
  /-- CIC comb delays; R139; cleared to 0. -/
  comb : List Int
  /-- The last 128 FIR inputs, newest first; R140; cleared to 0. -/
  fir : List Int
  /-- Notch 0: x1, x2, y1, y2; R141; cleared to 0. -/
  n0 : List Int
  /-- Notch 1, the same. -/
  n1 : List Int
  /-- The last L moving-average inputs, newest first; R142; cleared to 0. -/
  ma : List Int
  /-- Resampler inputs, newest first, with the input index of the newest; R143, R144; cleared. -/
  rs : List Int
  deriving DecidableEq, Repr

/-- The stage state of both lanes. -/
structure Stages where
  i : LaneStages
  q : LaneStages
  deriving DecidableEq, Repr

/-- A lane with nothing in it. -/
def LaneStages.clear : LaneStages := ⟨[], [], [], [], [], [], []⟩

/-- Both lanes cleared. -/
def Stages.clear : Stages := ⟨LaneStages.clear, LaneStages.clear⟩

/-- A switch of coefficient sets that waits for its first sample (R157). -/
structure PendingSwitch where
  /-- First skim sample index s, where one is fixed (a scheduled switch); otherwise the next one produced. -/
  s : Option Nat
  xfLen : Nat
  /-- The scheduled action that will start it, until its time has come (R157), and whether the hardware has armed that action: then the
  switch starts with sample s wherever its instant lies (R125). -/
  job : Option Word
  armed : Bool
  deriving DecidableEq, Repr

/-- The run of the chain with the shadow set from the first sample of a scheduled switch on that the hardware has not armed yet: the sample
and the set's copy of the stage state (R157, R158). -/
structure TrialRun where
  s : Nat
  stages : Stages
  deriving DecidableEq, Repr

/-- An armed AFE_SYNC of a channel or of its partner (R40): its instant, before which the drive ramps down for 64 µs, whether it names this
channel, whether its ST has begun, and the scheduled action that armed it. -/
structure SyncArm where
  at' : Nat
  own : Bool
  st : Bool
  job : Word
  deriving DecidableEq, Repr

/-- A fade in progress (R158). -/
structure FadeState where
  s : Nat
  xfLen : Nat
  /-- The old set, which becomes the shadow at the end. -/
  old : CoefSet
  /-- The old set's copy of the stage state. -/
  stages : Stages
  deriving DecidableEq, Repr

/-- What the slot of its octet has measured of a channel so far (Table 16-1). -/
structure CalMeas where
  /-- Sum and number of the codes of ZERO, and of GAIN at +0.75 and at −0.75 of full scale; R428, R430. -/
  zero : Int × Nat
  plus : Int × Nat
  minus : Int × Nat
  /-- Gain and offset residuals in 0.01 ppm of full scale. -/
  gainRes : Int
  ofsRes : Int
  /-- The spare-segment map chosen, and the segments found beyond the limit; R431. -/
  spares : List (Nat × Nat)
  segFail : Nat
  /-- The tap chosen; its gain and the gain of the tap that was in use, over nominal in parts per 2^30; R431. -/
  tap : Nat
  tapGain : Nat
  tapWas : Nat
  /-- EXCITATION skipped: 0 no drive, 4 or 5 the cause; R430, R439, R440; else amplitude residual in ppm, phase residual in 0.001°. -/
  excSkip : Option Nat
  ampRes : Int
  phRes : Int
  selfTest : Bool
  deriving DecidableEq, Repr

/-- Nothing measured yet. -/
def CalMeas.start : CalMeas := ⟨(0, 0), (0, 0), (0, 0), 0, 0, [], 0, 0, 1073741824, 1073741824, some 0, 0, 0, false⟩

/-- A correction set of one gain (R429): DGAIN × 2^30, DOFS × 2^16, spare-segment map and tap. -/
structure CorrSet where
  dgain : Nat
  dofs : Int
  /-- The spare-segment map: for each spare in use the segment that it replaces, and the spare; R431. -/
  spares : List (Nat × Nat)
  tap : Nat
  /-- The audit converter's comparison constants of the gain: gain over 2^30 and offset over 2^16. -/
  audGain : Nat
  audOfs : Int
  deriving DecidableEq, Repr

/-- The intake's correction in force, with a ramp of R433 in progress (left of total raw samples). -/
structure CorrNow where
  /-- DGAIN × 2^30; reset 2^30 (gain 1, R136). -/
  gain : Nat
  /-- DOFS × 2^16; reset 0 (R136). -/
  ofs : Int
  fromGain : Nat
  fromOfs : Int
  toGain : Nat
  toOfs : Int
  left : Nat
  total : Nat
  /-- UC clears when the ramp ends. -/
  clearsUc : Bool
  deriving DecidableEq, Repr

/-- No ramp, gain 1 and offset 0 (R136). -/
def CorrNow.unity : CorrNow := ⟨1073741824, 0, 1073741824, 0, 1073741824, 0, 0, 0, false⟩

/-- A channel's audit status (Table 03-7). -/
structure AuditStat where
  /-- SUSPECT, 1; R90; reset 0. -/
  suspect : Bool
  /-- AD_NOW, 1; R89; reset 0. -/
  adNow : Bool
  /-- Array time of the comparison that set it last, and its value for samples at or before that instant; R89; reset 0. -/
  adAt : Nat
  adWas : Bool
  /-- The last 16 counted comparisons, newest first, true for a disagreement; R90; reset empty. -/
  window : List Bool
  /-- EXC_AUD, 1; R81; reset 0. -/
  excAud : Bool
  /-- LAST_DIFF, 12; reset 0. -/
  lastDiff : Nat
  /-- LAST_TOL, 12; reset 0. -/
  lastTol : Nat
  deriving DecidableEq, Repr

/-- An audit result that waits for the main samples it needs (R86). -/
structure AuditWait where
  /-- Signed sum S of 16 codes. -/
  s : Int
  /-- Midpoint t_a in 1/1,024 ns of array time. -/
  ta : Nat
  clipped : Bool
  deriving DecidableEq, Repr

/-- A detector's running state (Table 06-5). -/
structure DetUnit where
  /-- p, s, m or e of Table 06-5; m and e scaled by 1; reset 0. -/
  acc : Int
  /-- Flag union of the window, R167; reset 0. -/
  flags : Byte
  /-- Samples seen in the window; a window begins at a multiple of W, R164. -/
  seen : Nat
  /-- The window has begun at its first index, R164. -/
  begun : Bool
  /-- Index of the last sample taken, after which the next one follows, R165. -/
  at' : Nat
  deriving DecidableEq, Repr

/-- A trigger crossing whose cubic stamp waits for the sample after it (R175): the three samples so far, the level, the
instants of the samples before and at the crossing in 1/1,024 ns, the flags of the two samples at the crossing and of the one before
them, the next tap instant, and what the trigger will carry: INFO, the route word and MISSED. -/
structure CubicWait where
  p0 : Int
  p1 : Int
  p2 : Int
  level : Int
  tPrev : Nat
  tCur : Nat
  tNext : Nat
  flags : Byte
  flagsBefore : Byte
  info : Nat
  route : Word
  missed : Nat
  deriving DecidableEq, Repr

/-- A trigger unit's running state (R170 to R175). -/
structure TrigUnit where
  /-- READY and the side it became ready on (LEVEL either: low, high). -/
  readyLow : Bool
  readyHigh : Bool
  /-- Instant of the last trigger or of the enabling, 1/1,024 ns; R171. -/
  since : Nat
  /-- Evaluated samples, newest first, up to 256, and the flags of the last three; R171, R176. -/
  hist : List Int
  flags : List Byte
  /-- Instant of the newest evaluated sample. -/
  lastInst : Option Nat
  /-- The fire condition held at the previous evaluated sample, or there is none; R174; reset true. -/
  prevFire : Bool
  /-- MISSED, 8 bits saturating, R174; reset 0; kept across R164. -/
  missed : Nat
  /-- A cubic stamp waits for x_(k+1): p0, p1, p2, level, t_(k-1), direction, flags (R175). -/
  cubic : Option CubicWait
  deriving DecidableEq, Repr

/-- A reduction block in progress for one skim word (R206, R207). -/
structure RedAcc where
  count : Nat
  sum : Int
  sumSq : Nat
  mn : Int
  mx : Int
  flags : Byte
  orCount : Nat
  /-- Skim samples in the block, RT included. -/
  seen : Nat
  deriving DecidableEq, Repr

/-- An empty block. -/
def RedAcc.empty : RedAcc := ⟨0, 0, 0, 0, 0, 0, 0, 0⟩

/-- A channel's reduction (R205 to R208). -/
structure RedState where
  /-- RED_CFG, 32; Table 07-8; reset 0x8000_0064. -/
  cfg : Word
  /-- The block number in progress, if one is. -/
  block : Option Nat
  /-- The block's record carries PARTIAL from its start. -/
  cut : Bool
  /-- Start of the block in progress, 1/1,024 ns; R206; reset 0. -/
  start : Nat
  /-- Accumulators of the first and second word. -/
  acc0 : RedAcc
  acc1 : RedAcc
  deriving DecidableEq, Repr

/-- A churned use of a channel (R269 to R281). -/
structure ChurnUse where
  /-- The engine 0 to 3 of the die that serves it; R269, R410. -/
  eng : Nat
  /-- MODE 1 to 4. -/
  mode : Nat
  /-- Samples of the open block, oldest first: value and flags. -/
  block : List (Int × Nat)
  /-- First sample index of the open block, its instant, and the instant of the block's last sample. -/
  first : Nat
  firstAt : Nat
  lastAt : Nat
  /-- The last 64 decoded blocks, newest first; R279. -/
  history : List (List (Int × Nat))
  /-- Blocks since the last block with FRESH set. -/
  depth : Nat
  /-- The last three decoded values, newest first; R280. -/
  y : List Int
  /-- The next block carries FRESH and PZERO; R281. -/
  fresh : Bool
  /-- A restored state waits for the next block: its image as CHURN_RESTORE accepted it; R293. -/
  restore : Option Bytes
  /-- The next item sets RESTORE; R293. In a capture use: the descriptor has changed since the last coach; R283. -/
  restored : Bool
  /-- Saves asked for: their handles; R293. -/
  save : List Nat
  /-- No engine can take the use: it goes on unchurned from the stream's next packet, or the channel's next coach; R410. -/
  leaving : Bool
  deriving DecidableEq, Repr

/-- A fault retry window of a unit (R404). -/
structure FaultWin where
  /-- True time at which it opened, ns, and its length, ns. -/
  opened : Nat
  length : Nat
  /-- Recurrences allowed, taken when it opened (R406). -/
  allowed : Nat
  /-- Fault events since it opened, the opening one included. -/
  events : Nat
  /-- Code of Table 15-6 of the event that opened it. -/
  code : Nat
  /-- Codes of the conditions that have been there since it opened. -/
  lasting : List Nat
  deriving DecidableEq, Repr

/-- A skim sample of the resampler that waits for its instant (R143, R149, R150): index, instant, words, flags, whether the trigger unit
passes it by, and the words that it has where a switch of sets that is not armed yet takes place (R157). -/
structure SkimWait where
  j : Nat
  at' : Nat
  v0 : Int
  v1 : Int
  flags : Byte
  skip : Bool
  alt : Option (Int × Int)
  deriving DecidableEq, Repr

/-- One slice with its channel engine (00, 02, 03, 05). -/
structure Chan where
  /-- The applied descriptor; R148; reset values of its tables. -/
  desc : Desc
  /-- Accepted writes that wait for a boundary, oldest first; R65; reset empty. -/
  writes : List ChanWrite
  /-- Writes held while the octet is calibrated; R66; reset none. -/
  held : Option ChanWrite
  /-- The shadow coefficient set; R155; reset empty. -/
  shadow : Option CoefSet
  /-- DDS accumulator, 32, at reference cycle accAt; R38; reset 0 at cycle 0. -/
  acc : BitVec 32
  accAt : Nat
  /-- The reference cycle of the last AFE_SYNC, and what the accumulator held there just before; R40; reset 0. -/
  accSet : Nat
  accWas : BitVec 32
  /-- Armed AFE_SYNCs of the channel and of its partner; R40, R152; reset none. -/
  syncs : List SyncArm
  /-- Drive amplitude ramp: from and to in 1/8,000 of an AMP code, and the cycle it began; R39; reset 0, 0, 0. -/
  rampFrom : Nat
  rampTo : Nat
  rampAt : Nat
  /-- Driver ramped off by a retirement for EXC_OL (R407) or by VEXC (R449); reset false. -/
  driveOff : Bool
  /-- True time of the last drive change, ns; R81; reset 0. -/
  driveChanged : Nat
  /-- EXC_OL, 1; R44; reset 0. -/
  excOl : Bool
  /-- The clamp conducts; R50; reset false. -/
  clamped : Bool
  /-- True time, ns, at which the last clamp recovery ends; R51; reset 0. -/
  clampEnd : Nat
  /-- True time, ns, at which the clamp last engaged, and the end of the recovery before that; R51, R71; reset 0. -/
  clampAt : Nat
  clampPrev : Nat
  /-- True times, ns, at which a violation was last present, and of the last audit reading of the pins and of the last one beyond
  the main full scale; R439; reset none. -/
  cmSeen : Option Nat
  pinRead : Option Nat
  pinOver : Option Nat
  /-- The common-mode voltage that the last conversion saw, mV; R53, R56; reset 0. -/
  cmMv : Int
  /-- A clamp onset has come since the last conversion; R55; reset false. -/
  clampNew : Bool
  /-- CLAMP_COUNT, 16 saturating; R52; reset 0. -/
  clampCount : Nat
  /-- CM_COUNT, 16 saturating; R55; reset 0. -/
  cmCount : Nat
  /-- Common-mode window; R54; reset no violation, empty counts. -/
  cm : CmState
  /-- True time, ns, of the first conversion of the inside run in progress; R54; reset 0. -/
  cmIn : Nat
  /-- Raw sample index last taken; R69, R114; reset none. -/
  lastK : Option Nat
  /-- True time, ns, of the last sampling instant, from which the next tracking phase counts; R71; reset none. -/
  lastAt : Option Nat
  /-- Conversions that still carry OR after a clip; R74; reset 0. -/
  orTail : Nat
  /-- True time, ns, of the last OR sample; R83; reset none. -/
  lastOr : Option Nat
  /-- Raw history, newest first, at most 32; R75; reset empty. -/
  hist : List RawEntry
  /-- Raw samples whose CM state is not settled yet, newest first; R54; reset empty. -/
  unsettled : List RawWork
  /-- Stage state; R133; reset cleared. -/
  stages : Stages
  /-- A pending switch of coefficient sets; R157; reset none. -/
  switch : Option PendingSwitch
  /-- The scheduled action whose switch began last; R157; reset none. -/
  switched : Option Word
  /-- The shadow set's run before its switch is armed; R157; reset none. -/
  trial : Option TrialRun
  /-- A fade in progress; R158; reset none. -/
  fade : Option FadeState
  /-- Skim samples that still carry ST; R153; reset 0. -/
  stLeft : Nat
  /-- Raw samples inside the stage-0 settling (QUIET on the intake tap, R170); reset 0. -/
  rawStLeft : Nat
  /-- Skim samples that OR, CL, CM, AD still mark; R154; reset 0. -/
  orLeft : Nat
  clLeft : Nat
  cmLeft : Nat
  adLeft : Nat
  /-- Index of the last skim sample produced; R149; reset none. -/
  lastJ : Option Nat
  /-- A resampled skim sample that waits for its instant; R149, R150; reset none. -/
  skimWait : Option SkimWait
  /-- The last skim sample: first word, second word, flags; R11, R432; reset zeros. -/
  skim0 : Int
  skim1 : Int
  skimFlags : Byte
  /-- The last 32 skim samples, newest first: instant, first word, flags; R214; reset none. -/
  skims : List (Nat × Int × Byte)
  /-- The last sensor raw entry, repeated during a hold; R432; reset none. -/
  lastRaw : Option RawEntry
  /-- UC, 1; R429; reset set. -/
  uc : Bool
  /-- Correction sets of the 8 gains; R429; reset none valid. -/
  corr : List (Option CorrSet)
  /-- The correction in force; R136; reset unity. -/
  corrNow : CorrNow
  /-- Audit status; Table 03-7; reset zeros. -/
  audit : AuditStat
  /-- Audit results that wait for x_(k+1), oldest first; R86; reset none. -/
  auditWait : List AuditWait
  /-- Detectors A and B; R165; reset cleared. -/
  detA : DetUnit
  detB : DetUnit
  /-- EA64 levels 0 and 1: the side last seen (true high); R169; reset none. -/
  thr0 : Option Bool
  thr1 : Option Bool
  /-- Trigger unit; R171; reset NOT_READY. -/
  trig : TrigUnit
  /-- Reduction; R205. -/
  red : RedState
  /-- SKIM stream enabled; R238; reset disabled. -/
  skimEn : Bool
  /-- RAW stream enabled; R238; reset disabled. -/
  rawEn : Bool
  /-- SKIM is built (false under RED_ONLY, LIMIT or THERMAL); R212, R458; reset true. -/
  skimBuilt : Bool
  /-- A stop of skim waits for the next block boundary; its RATE cause; R212; reset none. -/
  skimStop : Option Nat
  /-- A resumption of skim waits for the next block; its RATE cause; R212, R459; reset none. -/
  skimStart : Option Nat
  /-- A RATE item waits ahead of the next sample: cause; R150, R238; reset none. -/
  rateDue : Option Nat
  /-- Churned RAW and SKIM use; R269; reset none. -/
  churnRaw : Option ChurnUse
  churnSkim : Option ChurnUse
  /-- The churned capture use; R269; reset none. -/
  churnCap : Option ChurnUse
  /-- Retired, with the code of the record that retired it; R407; reset in service. -/
  retired : Option Nat
  /-- AUTO has failed once in this retirement; R413; reset false. -/
  autoTried : Bool
  /-- True time, ns, since which the clamp and CM conditions are clear; R413; reset 0. -/
  clearSince : Nat
  /-- The fault window; R404; reset none. -/
  win : Option FaultWin
  /-- Slice self-tests failed in a row; Table 15-1; reset 0. -/
  selfTestFails : Nat
  /-- Serving engine: none for its own, or the engine 0 to 135 of the die that replaced it; R408; reset own. -/
  spare : Option Nat
  /-- The converter and engine are stopped in Doze; R451; reset false. -/
  stopped : Bool
  /-- Quality record; Table 16-3; reset RESULT 5. -/
  qResult : Nat
  qElements : Nat
  qGain : Nat
  qCause : Nat
  qPhRes : Int
  qGainRes : Int
  qOfsRes : Int
  qAmpRes : Int
  qStamp : Nat
  /-- This slot skips the channel: its cause; R439; reset none. -/
  calSkip : Option Nat
  /-- This slot's measurement, until release; R430; reset none. -/
  meas : Option CalMeas
  /-- Calibration has INPUT_SEL at CALMATRIX: set from the first boundary of the hold, restored at release; R47, R430, R433; reset false. -/
  matrix : Bool
  deriving DecidableEq, Repr

/-- A trigger unit as cleared at enabling (R164). -/
def TrigUnit.clear (missed since : Nat) : TrigUnit := ⟨false, false, since, [], [], none, true, missed, none⟩

/-- A detector as cleared (R164, R166). -/
def DetUnit.clear : DetUnit := ⟨0, 0, 0, false, 0⟩

/-- A channel after reset. -/
def Chan.reset : Chan :=
  { desc := Desc.reset, writes := [], held := none, shadow := none, acc := 0, accAt := 0, accSet := 0, accWas := 0, syncs := [],
    rampFrom := 0, rampTo := 0, rampAt := 0, driveOff := false, driveChanged := 0, excOl := false, clamped := false, clampEnd := 0, clampAt := 0, clampPrev := 0,
    cmSeen := none, pinRead := none, pinOver := none, cmMv := 0,
    clampNew := false, clampCount := 0, cmCount := 0, cm := ⟨false, 0, 0⟩, cmIn := 0, lastK := none, lastAt := none, orTail := 0,
    lastOr := none, hist := [], unsettled := [], stages := Stages.clear, switch := none, switched := none, trial := none, fade := none, stLeft := 0,
    rawStLeft := 0, orLeft := 0, clLeft := 0, cmLeft := 0, adLeft := 0, lastJ := none, skimWait := none, skim0 := 0, skim1 := 0,
    skimFlags := 0, skims := [], lastRaw := none, uc := true, corr := List.replicate 8 none, corrNow := CorrNow.unity,
    audit := ⟨false, false, 0, false, [], false, 0, 0⟩, auditWait := [], detA := DetUnit.clear, detB := DetUnit.clear,
    thr0 := none, thr1 := none, trig := TrigUnit.clear 0 0,
    red := ⟨0x80000064, none, false, 0, RedAcc.empty, RedAcc.empty⟩, skimEn := false, rawEn := false, skimBuilt := true,
    skimStop := none, skimStart := none, rateDue := none, churnRaw := none, churnSkim := none, churnCap := none,
    retired := none, autoTried := false, clearSince := 0, win := none, selfTestFails := 0, spare := none,
    stopped := false, qResult := 5, qElements := 0, qGain := 0, qCause := 0, qPhRes := 0, qGainRes := 0, qOfsRes := 0,
    qAmpRes := 0, qStamp := 0, calSkip := none, meas := none, matrix := false }

/-- The excitation amplitude reference that the slices of an octet share (R34, R431, R434). -/
structure ExcRef where
  /-- Trim code in force before the steps in progress, and the code they lead to, in trim LSB of 0.0025%; reset 0. -/
  code : Int
  goal : Int
  /-- The trim code at which the segments are swapped, which the steps pass through on their way; reset 0. -/
  via : Int
  /-- The spare-segment map in use before the swap and after it: segment replaced and spare; reset none. -/
  segs : List (Nat × Nat)
  segGoal : List (Nat × Nat)
  /-- True time, ns, at which the steps begin, and the span over which they are spread; reset 0. -/
  start : Nat
  span : Nat
  deriving DecidableEq, Repr

/-- The reference as it is after reset. -/
def ExcRef.reset : ExcRef := ⟨0, 0, 0, [], [], 0, 0⟩

/-- An octet (R34): guard, and its calibration. -/
structure Octet where
  /-- GRD_CFG, 32; Table 02-4; reset 0. -/
  guard : Word
  /-- GRD_OL, 1; R57; reset 0. -/
  guardOl : Bool
  /-- What the guard last followed: a sum of common-mode voltages in mV and their number; R56; reset 0 of 1 (log entry 113). -/
  guardAt : Int × Nat
  /-- The shared excitation reference; R34, R434. -/
  exc : ExcRef
  /-- The octet is held by calibration; R432; reset false. -/
  held : Bool
  /-- True time, ns, of its last calibration; R436; reset none. -/
  lastCal : Option Nat
  /-- It was calibrated by request; R436; reset false. -/
  byRequest : Bool
  /-- It has been queued once more for skipped channels: true time due, ns; R439; reset none. -/
  requeueAt : Option Nat
  requeued : Bool
  deriving DecidableEq, Repr

/-- An octet after reset. -/
def Octet.reset : Octet := ⟨0, false, (0, 1), ExcRef.reset, false, none, false, none, false⟩

/-- A repeater output (R58 to R62). -/
structure Rep where
  /-- The five words; Table 02-5; reset values of the table. -/
  w : RepWords
  /-- STALE, 1; R61; reset 0. -/
  stale : Bool
  /-- High impedance until firmware applies the configuration; R62; reset true. -/
  hiZ : Bool
  /-- Waits for the first sample without a selected flag after EN was set; R62; reset true. -/
  waiting : Bool
  /-- PWM: width w in ns of the period in progress; R59; reset 0 (the output is low). -/
  width : Nat
  /-- PWM: the width that starts with the next period, and the true time, ns, at which that period starts; R60; reset none. -/
  next : Option (Nat × Nat)
  /-- PWM: true time, ns, at which a period starts; R60; reset 0. -/
  base : Nat
  /-- FREQ: the NCO word, 32; R59; reset 0. -/
  nco : Nat
  /-- FREQ: the NCO's phase, 32, at `base`; R60; reset 0. -/
  phase : BitVec 32
  deriving DecidableEq, Repr

/-- A repeater after reset (Table 02-5). -/
def Rep.reset : Rep := ⟨⟨0x000000FF, 0x00800000, 0x007FFFFF, 0x00002710, 0x00989680⟩, false, true, true, 0, none, 0, 0, 0⟩

end Sys2Proof.Machine
end

