-- ==== Sys2Proof/Machine/FlowState.lean ====
section
/-! DEFINITION. The state of streams and flows (09), of HK records (15) and of array time (04). Array time is a count of
units of 1/1,024 ns since the epoch (R95); true time is a count of ns since the hub's reset. -/

namespace Sys2Proof.Machine

/-- An item (Table 00-5): LEN follows from the payload. -/
structure Item where
  /-- TYPE, 8; Table 00-6. -/
  typ : Nat
  /-- STREAM, 12; Table 09-1. -/
  stream : Nat
  /-- FIRST, 32; R14. -/
  first : Nat
  payload : Bytes
  deriving DecidableEq, Repr

/-- Where a flow goes (Table 09-2): nowhere yet, a port, the local window or, for RAW, stopped (R263). -/
inductive Dest where
  | off
  | port (p : Nat)
  | localWindow
  deriving DecidableEq, Repr

/-- A closed packet of a flow (Table 09-7). -/
structure Packet where
  /-- SEQ, 32; R250. -/
  seq : Word
  /-- Coverage start and end, 1/1,024 ns. -/
  covStart : Nat
  covEnd : Nat
  items : List Item
  /-- PFLAGS bit 0. -/
  resent : Bool
  /-- True time at which it was last sent, ns; none before. -/
  sentAt : Option Nat
  /-- The start of the earliest block that its records and churn blocks are of, its coverage start at the latest, 1/1,024 ns; R206, R212. -/
  since : Nat
  deriving DecidableEq, Repr

/-- A discard that a FLUSH item has still to state (R261). -/
structure FlushNote where
  seqFirst : Word
  seqCount : Nat
  covStart : Nat
  covEnd : Nat
  hard : Bool
  cutWords : Nat
  deriving DecidableEq, Repr

/-- The key of a flow (Table 09-2 and the FLOW field of Table 09-7). -/
structure FlowKey where
  die : Nat
  kind : Nat
  inst : Nat
  deriving DecidableEq, Repr

/-- What waits for the end of a sweep: a sample (R239), a RATE payload (R150) with WSIZE 4, or a churn block (R289) with
WSIZE 5 and, in `aux`, mode + 8 × its samples + 1,024 where it continues a restored state; a sample's `aux` is one more than
the instant of the sample before it on its grid, 0 at index 0. Stream id, index, instant in 1/1,024 ns, and bytes; `since` is the instant of
the first sample that it holds. -/
structure SweepSample where
  stream : Nat
  index : Nat
  inst : Nat
  wsize : Nat
  aux : Nat
  bytes : Bytes
  since : Nat
  deriving DecidableEq, Repr

/-- A flow with its yoke (R237, R251). -/
structure Flow where
  key : FlowKey
  dest : Dest
  /-- The flow has started (R246); reset false. -/
  started : Bool
  /-- The filling pail: items, oldest first. -/
  filling : List Item
  /-- Start of the filling packet's coverage, 1/1,024 ns. -/
  covStart : Nat
  /-- The start of the earliest block that the filling packet's records and churn blocks are of; R206, R212. -/
  since : Nat
  /-- Era of the filling packet (SEC[47:24]). -/
  era : Nat
  /-- Items to stand first in the next packet (ERA, GAP, FLUSH). -/
  lead : List Item
  /-- The yoke's closed pails, oldest first, the one being drained among them; at most 2 (R251, R252). -/
  yoke : List Packet
  /-- Spooled packets that wait for the yoke (R253). -/
  backlog : List Packet
  /-- Re-sends that wait, in ascending SEQ (R249). -/
  resend : List Packet
  /-- The packet on the link, or being read through the local window (R255, R259); a pail or backlog packet stays in its place until it
  has left. -/
  sending : Option Packet
  /-- Packets on their way out of a port that is not the flow's now: begun before its route changed, or re-sends on P00; R391. -/
  past : List (Nat × Packet)
  /-- Sent and not acknowledged (R248). -/
  held : List Packet
  /-- Next SEQ, 32; reset 0 (R250). -/
  nextSeq : Word
  /-- Last accepted SEQ_CUM; reset 0xFFFF_FFFF (R248). -/
  lastAck : Word
  /-- ACK_BAD, 16; reset 0 (R248). -/
  ackBad : Nat
  /-- Soft flush waits for the next boundary (R259). -/
  softFlush : Bool
  /-- A discard to be stated (R261). -/
  flush : Option FlushNote
  /-- SEQ numbers discarded by a flush, with their count (R261). -/
  flushed : List (Word × Nat)
  /-- Start of the interval discarded because the yoke was full (R254), or the port was lost (R263), with the cause, and its end so far. -/
  gapFrom : Option (Nat × Nat)
  gapTill : Nat
  /-- Start of the interval that LIMIT does not cover; R212; reset none. -/
  limitFrom : Option Nat
  /-- The reserve of the spool is full in LIMIT, so that no packet can be retained; R212; reset false. -/
  stuck : Bool
  /-- A destination that begins at the next packet boundary; R263; reset none. -/
  destNext : Option Dest
  /-- The instant from which the sweep in progress is complete: that of the last step of array time; R114, R240; reset 0. -/
  sweepFrom : Nat
  /-- Sweeps and records discarded for want of a pail since the last array second (R254). -/
  discarded : Nat
  /-- Sweep length in µs and one that waits for a whole second (R245); reset 1,000. -/
  sw : Nat
  swNext : Option Nat
  /-- Samples of SET flows in the sweep in progress, oldest first (R239). -/
  sweep : List SweepSample
  /-- Records carried since the start, by stream, for FIRST (R168, R204, R208, R426). -/
  records : List (Nat × Nat)
  deriving DecidableEq, Repr

/-- A flow before its start (R250). -/
def Flow.init (k : FlowKey) : Flow :=
  { key := k, dest := if k.kind ≤ 4 then .port 0 else .off, started := false, filling := [], covStart := 0, since := 0, era := 0,
    lead := [], yoke := [], backlog := [], resend := [], sending := none, past := [], held := [], nextSeq := 0,
    lastAck := 0xFFFFFFFF, ackBad := 0, softFlush := false, flush := none, flushed := [], gapFrom := none,
    gapTill := 0, limitFrom := none, stuck := false, destNext := none, sweepFrom := 0, discarded := 0, sw := 1000, swNext := none, sweep := [], records := [] }

/-- The local stream window (R255). -/
structure LocalWin where
  /-- Words of the item being read that are still to come. -/
  words : List Word
  /-- Items of drained packets still to be read. -/
  items : List Item
  /-- Hysteresis state LOCAL_HI (Table 13-9). -/
  hi : Bool
  deriving DecidableEq, Repr

/-- An EVENT record as a fault log keeps it (R427). -/
structure EventRec where
  rseq : Word
  stamp : Nat
  unit : Word
  code : Nat
  cls : Nat
  count : Nat
  arg0 : Word
  arg1 : Word
  deriving DecidableEq, Repr

/-- The HK record builder (R426, R427). -/
structure Hk where
  /-- RSEQ, 32; reset 0. -/
  rseq : Word
  /-- The last 1,024 fault records, newest first; reset empty. -/
  faults : List EventRec
  /-- NEW_REC, 16 saturating (Table 13-14); reset 0. -/
  newRec : Nat
  /-- Records dropped since the spool limit (R212); reset 0. -/
  dropped : Nat
  /-- Items skipped (R15); reset 0. -/
  itemSkip : Nat
  /-- Records of start-up that wait for the HK flow, which starts at ROUGH (R246); reset none. -/
  early : List Bytes
  deriving DecidableEq, Repr

/-- ALIGN_STATE (Table 04-5). -/
inductive Align where
  | free
  | acquiring
  | slewing
  | locked
  | degraded
  | holdover
  deriving DecidableEq, Repr

/-- The code of Table 04-5. -/
def Align.code : Align → Nat
  | .free => 0
  | .acquiring => 1
  | .slewing => 2
  | .locked => 3
  | .degraded => 4
  | .holdover => 5

/-- BASE_STATE (Table 04-6), by its code. -/
inductive Base where
  | none
  | locked
  | holdover
  deriving DecidableEq, Repr

/-- The code of Table 04-6. -/
def Base.code : Base → Nat
  | .none => 0
  | .locked => 1
  | .holdover => 2

/-- The source in use (Table 04-4). -/
inductive Source where
  | none
  | lane
  | pps
  | free
  deriving DecidableEq, Repr

/-- PPS acceptance state (Table 04-7). -/
inductive PpsState where
  | idle
  | candidate
  | locked
  | lost
  deriving DecidableEq, Repr

/-- The code of Table 04-16. -/
def PpsState.code : PpsState → Nat
  | .idle => 0
  | .candidate => 1
  | .locked => 2
  | .lost => 3

/-- One PPS input (R103, R104). -/
structure PpsIn where
  st : PpsState
  count : Nat
  /-- Array time of the last candidate or accepted edge, 1/1,024 ns. -/
  last : Option Nat
  /-- The last accepted edge's array second and its residue e in 1/1,024 ns. -/
  sec : Nat
  res : Int
  /-- Consecutive accepted edges, for R105. -/
  run : Nat
  /-- PPS_GLITCH, 16 saturating; reset 0. -/
  glitch : Nat
  /-- PPS_COMP, signed 32, ps; reset 0 (log entry 3). -/
  comp : Word
  deriving DecidableEq, Repr

/-- A PPS input after reset. -/
def PpsIn.reset : PpsIn := ⟨.idle, 0, none, 0, 0, 0, 0, 0⟩

/-- A TIN input (R118 to R120). -/
structure Tin where
  /-- TIN_CFG, 32; Table 04-12; reset 0. -/
  cfg : Word
  level : Bool
  /-- COUNT, 32; Table 04-13; reset 0. -/
  count : Word
  /-- MERGED, 8 saturating; R119; reset 0. -/
  merged : Nat
  /-- Array time of the last recorded edge. -/
  last : Option Nat
  /-- Occupancy of the burst buffer of 16 edges, in 0.1 µs-drained tokens, at `bufAt`, true ns (R118). -/
  buf : Nat
  bufAt : Nat
  deriving DecidableEq, Repr

/-- Shadow registers of the time window (R128, R129). -/
structure Shadow where
  hi : Nat
  ns : Nat
  frac : Nat
  era : Nat
  deriving DecidableEq, Repr

/-- Array time and its steering (04). -/
structure Tm where
  /-- Array time, 1/1,024 ns; R95, R531; reset 0. -/
  now : Nat
  /-- Fifths of 1/1,024 ns carried by steps of 25 ps; R113; reset 0. -/
  fifth : Nat
  /-- TIME_CFG, 32; Table 04-3; reset 0x0002_0058. -/
  cfg : Word
  /-- A TIME_CFG that waits for the next array second; R100; reset none. -/
  cfgNext : Option Word
  align : Align
  base : Base
  src : Source
  ppsA : PpsIn
  ppsB : PpsIn
  /-- Active PPS input; R105; reset none. -/
  active : Option Nat
  /-- PPS_SPLIT and seconds of agreement; R105; reset clear. -/
  split : Bool
  splitRun : Nat
  /-- The array second of the last agreement counted; R105; reset 0. -/
  splitSec : Nat
  /-- REF_INCOHERENT, bad run and good run; R106; reset clear. -/
  incoherent : Bool
  badRun : Nat
  goodRun : Nat
  /-- e of the active input's last 16 accepted edges, newest first; R106. -/
  errs : List Int
  /-- The last 64 PPS residuals, newest first; R116. -/
  resid : List Int
  /-- The error e in force, 1/1,024 ns. -/
  e : Int
  /-- Whole cycles to be applied at the next array second; R113; reset 0. -/
  stepNext : Int
  /-- The sub-cycle remainder that goes with them, ps; R114. -/
  stepRem : Int
  /-- The marker and TIMECOR: consecutive markers missing, MARK_LOST, MARK_GLITCH 16, true time of the loss; R109. -/
  missed : Nat
  markLost : Bool
  markLostAt : Nat
  glitch : Nat
  /-- True time of the last valid pattern with TIMECOR; R100; reset none. -/
  laneAt : Option Nat
  /-- SEC of the last part A; R110; reset none. -/
  corSec : Option Nat
  sndAlign : Nat
  sndErr : Nat
  sndBase : Nat
  /-- DELAY of the last part B, 1/1,024 ns; reset 0. -/
  corDelay : Nat
  /-- Parts 3 to 15 ignored; R110; reset 0. -/
  corUnknown : Nat
  /-- LD_SEC_HI 16 and LD_SEC_LO 32; Table 04-17; reset 0. -/
  ldHi : Nat
  ldLo : Word
  /-- ARM; reset 0. -/
  armed : Bool
  /-- LOAD_REFUSED and STEPPED; Table 04-16; reset 0. -/
  refused : Bool
  stepped : Bool
  /-- TIME_SKEW; R425; reset 0. -/
  skew : Bool
  hspi : Shadow
  inband : Shadow
  tins : List Tin
  /-- True time at which HOLDOVER was entered; R116. -/
  holdAt : Nat
  /-- The last array second that has been handled; R100; reset 0. -/
  second : Nat
  /-- Reference cycle of the last accepted marker; R109; reset none. -/
  markBase : Option Nat
  /-- A step announced by TIMECOR part S for the next marker, whole cycles; R113; reset none. -/
  corStep : Option Int
  /-- A part B has arrived since the source was found; R111; reset false. -/
  delayOk : Bool
  /-- Changes to and from LOCKED, newest first: the array time of each and whether LOCKED began; R199; reset none. -/
  lockLog : List (Nat × Bool)
  /-- True time of the last 25 ps step; R113; reset none. -/
  slewAt : Option Nat
  /-- This hub's time base has been steered to an accepted PPS; Table 04-6; reset false. -/
  steered : Bool
  /-- True times since which P00.LT has carried a valid pattern, and TIMECOR without a gap of 1 s; R100; reset none. -/
  ltFrom : Option Nat
  corFrom : Option Nat
  /-- Reference cycle in which P00.LT last received a marker; R108; reset none. -/
  ltSeen : Option Nat
  /-- True time at which part S was heard; R113; reset none. -/
  corStepAt : Option Nat
  /-- The array second at which `stepNext` is applied; R113; reset 0. -/
  stepAt : Nat
  /-- The value that an armed load holds since ARM; none for the load registers at the boundary; R131; reset none. -/
  ldAt : Option Nat
  deriving DecidableEq, Repr

/-- Array time after reset (R531, Table 04-5). -/
def Tm.reset : Tm :=
  { now := 0, fifth := 0, cfg := 0x00020058, cfgNext := none, align := .free, base := .none, src := .none,
    ppsA := PpsIn.reset, ppsB := PpsIn.reset, active := none, split := false, splitRun := 0, splitSec := 0, steered := false, incoherent := false,
    badRun := 0, goodRun := 0, errs := [], resid := [], e := 0, stepNext := 0, stepRem := 0, missed := 0,
    markLost := false, markLostAt := 0, glitch := 0, laneAt := none, corSec := none, sndAlign := 0, sndErr := 65535,
    sndBase := 0, corDelay := 0, corUnknown := 0, ldHi := 0, ldLo := 0, armed := false, refused := false,
    stepped := false, skew := false, hspi := ⟨0, 0, 0, 0⟩, inband := ⟨0, 0, 0, 0⟩,
    tins := List.replicate 8 ⟨0, false, 0, 0, none, 0, 0⟩, holdAt := 0, second := 0, markBase := none, corStep := none, corStepAt := none,
    delayOk := false, lockLog := [], slewAt := none, ltFrom := none, corFrom := none, ltSeen := none, stepAt := 0, ldAt := none }

/-- What an SCLK_OUT completes and waits for (R466). -/
structure SclkOut where
  /-- The reference cycle before which a high phase that a change has cut completes; reset 0. -/
  till : Nat
  /-- The array time from which it follows its channel's sampling instants; reset 0. -/
  start : Nat
  deriving DecidableEq, Repr

/-- The clocks (R101, R464, R465). -/
structure Clk where
  /-- True time since reset release, ns; the model's own; reset 0. -/
  elapsed : Nat
  /-- Reference cycles since the sample clock first ran; R38; reset 0. -/
  cycles : Nat
  /-- REFCLK_P/N is present; reset true (log entry 6). -/
  refclk : Bool
  /-- The sample clock runs; R531; reset false. -/
  run : Bool
  /-- SCLK_VALID, 1; R464; reset 0. -/
  valid : Bool
  /-- True time at which the sample PLL's relock began; R464; reset none. -/
  relockAt : Option Nat
  /-- True time at which a failed relock is tried again; R465; reset none. -/
  retryAt : Option Nat
  /-- True time past `elapsed` that cycles of the internal oscillator have taken, ps; R465; the model's own; reset 0. -/
  oscPs : Nat
  /-- SCLK_OUT0 to SCLK_OUT3; R466. -/
  outs : List SclkOut
  deriving DecidableEq, Repr

end Sys2Proof.Machine
end

