-- ==== Sys2Proof/Machine/StoreState.lean ====
section
/-! DEFINITION. The state of triggers (06), captures and the capture store (07), the separator (08) and churn coding
(10). -/

namespace Sys2Proof.Machine

/-- A trigger as the distributor carries it (R172, R176, Table 06-12). -/
structure Trigger where
  /-- SOURCE, 16; Table 06-12. -/
  source : Nat
  /-- TRIG_ID, 16; R176. -/
  trigId : Nat
  /-- Array time of the stamp, 1/1,024 ns. -/
  stamp : Nat
  /-- NOT_LOCKED at the origin. -/
  notLocked : Bool
  /-- MISSED of the trigger. -/
  missed : Nat
  /-- ORIGIN for an array trigger. -/
  origin : Nat
  deriving DecidableEq, Repr

/-- A TRIG pin (R177, R178). -/
structure TrigPin where
  /-- TRIG_PIN_CFG, 32; Table 06-13; reset 0. -/
  cfg : Word
  /-- Synchronised level and the counts of R177. -/
  level : Bool
  /-- Array time of the last trigger; R177; reset none. -/
  last : Option Nat
  /-- MISSED, 8; R178; reset 0. -/
  missed : Nat
  deriving DecidableEq, Repr

/-- A member's event that a k-of-n group has still to evaluate or has not consumed (R180, R181). -/
structure KonEvent where
  /-- Member order: channels before pins. -/
  member : Nat
  stamp : Nat
  evaluated : Bool
  deriving DecidableEq, Repr

/-- A k-of-n group (R179 to R181). -/
structure Kon where
  /-- K; reset 0, the group is disabled. -/
  k : Nat
  /-- TRIG pin members, 8. -/
  pins : Nat
  units : List Nat
  /-- WIN in ns and KON_LAT in ns. -/
  win : Nat
  lat : Nat
  /-- R_CAP, R_EVT, R_ARR and ARR_GROUP as the route word gives them. -/
  route : Word
  events : List KonEvent
  /-- Array time before which events are discarded, R181. -/
  readyAt : Nat
  /-- MISSED, 8; R181; reset 0. -/
  missed : Nat
  deriving DecidableEq, Repr

/-- A group after reset. -/
def Kon.reset : Kon := ⟨0, 0, [], 1, 4000, 0, [], 0, 0⟩

/-- An array trigger acted on within the last second (R185): ORIGIN, TRIG_ID, STAMP and the true time. -/
structure ArrSeen where
  origin : Nat
  trigId : Nat
  stamp : Nat
  at' : Nat
  deriving DecidableEq, Repr

/-- Package-level trigger state (06). -/
structure Trg where
  /-- Eight TRIG pins; reset as TrigPin. -/
  pins : List TrigPin
  /-- Sixteen groups KON0 to KON15. -/
  kons : List Kon
  /-- Subscribed array groups, 256 bits; R185; reset none. -/
  groups : List Nat
  /-- TRIG_LAT in ns; R185; reset 200,000. -/
  lat : Nat
  /-- TRIG_ID counter, 16; R176; reset 0. -/
  nextId : Nat
  /-- True time of the last array trigger message; R183; reset none. -/
  lastMsg : Option Nat
  /-- MISSED for the next array trigger message; R183; reset 0. -/
  arrMissed : Nat
  /-- SUPPRESSED, 32: messages not sent under R183; R386; reset 0. -/
  suppressed : Nat
  /-- TRIG_BAD, whose width is DESIGN CHOICE 16 saturating (log entry 19; Table 14-6 has 4 bytes for it), and the late counts, 32; R186; reset 0. -/
  bad : Nat
  late : Nat
  lost : Nat
  seen : List ArrSeen
  deriving DecidableEq, Repr

/-- Triggers after reset. -/
def Trg.reset : Trg :=
  { pins := List.replicate 8 ⟨0, false, none, 0⟩, kons := List.replicate 16 Kon.reset, groups := [], lat := 200000,
    nextId := 0, lastMsg := none, arrMissed := 0, suppressed := 0, bad := 0, late := 0, lost := 0, seen := [] }

/-- A stored sample of a coach or of a history: source index, values and flags (R197, R199). -/
structure StoredSample where
  index : Nat
  v0 : Int
  v1 : Int
  flags : Byte
  /-- Word format of a raw sample (R200): 1 left-aligned, 2 offset binary, added. -/
  fmt : Nat
  deriving DecidableEq, Repr

/-- A train in progress or final (Table 07-5). -/
structure Train where
  trainId : Nat
  capture : Nat
  source : Nat
  stamp : Nat
  missed : Nat
  nCoach : Nat
  /-- LATE_TRIG, NOT_LOCKED and CUT. -/
  tflags : Nat
  /-- Channels whose coaches are still being written. -/
  open' : List Nat
  /-- Dies that have sent the record. -/
  sentBy : List Nat
  final : Bool
  deriving DecidableEq, Repr

/-- STATE of a coach (Table 07-6). -/
inductive CoachState where
  | filling
  | ready
  | sending
  | free
  deriving DecidableEq, Repr

/-- The code of Table 07-6. -/
def CoachState.code : CoachState → Nat
  | .filling => 0
  | .ready => 1
  | .sending => 2
  | .free => 3

/-- A coach (R199, R202). -/
structure Coach where
  /-- Sequence, 29; R202. -/
  seq : Nat
  capture : Nat
  ch : Nat
  churn : Nat
  src : Nat
  lateTrig : Bool
  notLocked : Bool
  source : Nat
  trainId : Nat
  /-- Trigger stamp, 1/1,024 ns. -/
  stamp : Nat
  twoWord : Bool
  decE : Nat
  step : Nat
  cut : Bool
  pre : Nat
  missed : Nat
  /-- First stored sample's source index and stored samples to be written. -/
  first : Nat
  len : Nat
  /-- Stored samples, oldest first. -/
  samples : List StoredSample
  /-- Churned payload, for a churned coach, once complete. -/
  payload : Option Bytes
  st : CoachState
  eccBad : Bool
  /-- Which uncorrectable ECC error the payload reads as; R191; none before one. -/
  asRead : Option Nat
  /-- Granules held, 1 KiB; R194. -/
  kib : Nat
  /-- AUTO_SEND or CAP_SEND asked for it before its train completed; R201. -/
  sendWanted : Bool
  /-- Port of the capture. -/
  port : Nat
  /-- SEQ of the packet that holds the coach's last bytes; R204. -/
  lastSeq : Option Word
  /-- Its number among the records of its COACH stream, once there; R204; none before. -/
  record : Option Nat
  deriving DecidableEq, Repr

/-- The part of an armed capture that one die keeps (R194, R195, R209). -/
structure CapDie where
  die : Nat
  /-- STEP, 3; R209; reset 0. -/
  step : Nat
  /-- WAIT, R194. -/
  wait : Bool
  /-- Granules and directory slots reserved for the next coaches; R194. -/
  reserved : Nat
  slots : Nat
  deriving DecidableEq, Repr

/-- The history and capture decimator of one channel of an armed capture (R195, R197). -/
structure CapChan where
  ch : Nat
  /-- Stored samples, newest first. -/
  hist : List StoredSample
  /-- Third-order CIC of each word: integrators and combs. -/
  cic0 : List Int
  cic1 : List Int
  /-- Union of flags since the last stored sample. -/
  flags : Byte
  /-- The last source index taken. -/
  lastIdx : Option Nat
  deriving DecidableEq, Repr

/-- A capture CAP0 to CAP31 (R192). -/
structure Capture where
  params : CapParams
  dies : List CapDie
  chans : List CapChan
  /-- Trains still to be made, none for continuous; CAP_DISARM without ABORT sets stopping. -/
  left : Option Nat
  stopping : Bool
  /-- Array time at which its last train completed; R195; reset none. -/
  doneAt : Option Nat
  /-- MISSED, 8; R196. -/
  missed : Nat
  /-- Trains made. -/
  made : Nat
  /-- The filling train, if one is. -/
  train : Option Train
  /-- Stamp and TRAIN_ID of the last train that started; R196; reset none. -/
  lastTrain : Option (Nat × Nat)
  deriving DecidableEq, Repr

/-- Spool states (Table 07-11). -/
inductive SpoolState where
  | fullRate
  | redOnly
  | limit
  deriving DecidableEq, Repr

/-- The capture store of a die (R188 to R212). -/
structure Store where
  /-- CAP_PART, 32; Table 07-1; reset 0x0300_009A. -/
  part : Word
  /-- CAP_WM, 32; Table 07-2; reset 0x4B32_5F32. -/
  wm : Word
  /-- Pages that left the coach area, the spool and the churn area; R191; reset 0. -/
  lostCoach : Nat
  lostSpool : Nat
  lostChurn : Nat
  /-- Retired page numbers; R404, R411; reset none. -/
  retired : List Nat
  /-- Correctable errors per page with their windows; R404. -/
  pageWin : List (Nat × FaultWin)
  /-- The address of the last error in each of them; Table 15-6. -/
  pageAddr : List (Nat × Nat)
  /-- What the spool keeps for P00's flows; R210; Table 07-11; reset FULL_RATE. -/
  spool : SpoolState
  /-- Next coach sequence, 29; R202; reset 0. -/
  nextCoach : Nat
  /-- The directory's coaches, in ascending sequence. -/
  coaches : List Coach
  /-- Trains of which the die holds coaches, with the record's state; R201. -/
  trains : List Train
  deriving DecidableEq, Repr

/-- A store after reset. -/
def Store.reset : Store :=
  { part := 0x0300009A, wm := 0x4B325F32, lostCoach := 0, lostSpool := 0, lostChurn := 0, retired := [], pageWin := [], pageAddr := [],
    spool := .fullRate, nextCoach := 0, coaches := [], trains := [] }

/-- A matrix set of a die (R219): rows written since the header, in ascending row order. -/
structure SepSet where
  /-- ROWS, 1 to 256; 0 while the set is empty. -/
  rows : Nat
  mgen : Nat
  /-- KEY of a fallback, 128 columns. -/
  key : List Nat
  data : List (Nat × SepRow)
  deriving DecidableEq, Repr

/-- An empty set. -/
def SepSet.empty : SepSet := ⟨0, 0, [], []⟩

/-- A switch of ACTIVE and SHADOW that has not started (R222): its tick, none for the next; XF_LEN; the scheduled action whose T it
waits for. -/
structure SepPend where
  start : Option Nat
  len : Nat
  job : Option Word
  deriving DecidableEq, Repr

/-- A matrix fade that runs (R221, R222): the tick it started at, its length and whether it ends with an exchange of sets. -/
structure SepFade where
  start : Nat
  len : Nat
  /-- The fallback selected before and after (0 none, 1 to 4), or a switch of ACTIVE and SHADOW. -/
  switch : Bool
  fbOld : Nat
  fbNew : Nat
  deriving DecidableEq, Repr

/-- The separator part of a die (R219 to R235). -/
structure SepDie where
  /-- ACTIVE; reset all-zero with ROWS 256 and MGEN 0 (R219). -/
  active : SepSet
  shadow : SepSet
  /-- FB0 to FB3. -/
  fb : List SepSet
  /-- Fallback in use: 0 none, 1 to 4. -/
  sel : Nat
  /-- A switch that is pending; R222; reset none. -/
  pend : Option SepPend
  /-- The fade that runs; R221, R222; reset none. -/
  fade : Option SepFade
  /-- The die added partials at the last tick; R235. -/
  added : Bool
  /-- Retired-column mask (all retired channels of the die) last reported in a SEP_MASK; R235. -/
  lastMask : List Nat
  /-- Fallback selection and in-service state last reported; R235. -/
  lastSel : Nat
  lastIn : Bool
  /-- Separator engines in service, 0 to 8; R409; reset 8. -/
  engines : Nat
  deriving DecidableEq, Repr

/-- A die's separator after reset: ACTIVE is taken as all-zero with 256 rows (R219). -/
def SepDie.reset : SepDie :=
  { active := ⟨256, 0, [], []⟩, shadow := SepSet.empty, fb := List.replicate 4 SepSet.empty, sel := 0, pend := none, fade := none,
    added := false, lastMask := [], lastSel := 0, lastIn := false, engines := 8 }

/-- What the hub keeps of a modal tick for the frames that may still pass (R225, R228, R232). -/
structure SepTick where
  j : Nat
  /-- ALIGN_STATE was LOCKED at the tick and the partials exist; R232. -/
  ready : Bool
  /-- BASE_STATE was HOLDOVER; R231. -/
  hold : Bool
  /-- The hub originates the tick's frame; R225. -/
  orig : Bool
  /-- ROWS, MGEN and FADE_W of the lowest die in service, and of each die that adds; R231. -/
  rows : Nat
  mgen : Nat
  fadeW : Nat
  all : List (Nat × Nat × Nat)
  /-- A die computes the incoming set alone; R409. -/
  alone : Bool
  reduced : Bool
  /-- DIEMASK, FBDIE and NRET of Table 08-3. -/
  dieMask : Nat
  fbDie : Nat
  nRet : Nat
  sflags : Byte
  /-- Row sums of all the hub's dies. -/
  sums : List Int
  /-- A frame of the tick has left P00; R229. -/
  sent : Bool
  deriving DecidableEq, Repr

/-- A MODAL frame that has gone out on P00 (R31). -/
structure SepPass where
  /-- Its size in bytes (R227). -/
  size : Nat
  /-- Its stamp, 1/1,024 ns. -/
  stamp : Nat
  /-- True time, ns. -/
  at' : Nat
  deriving DecidableEq, Repr

/-- The package level of the separator (R234). -/
structure Sep where
  /-- SEP_CTL, SEP_TICK, SEP_WAIT, SEP_FB, 32 each; Tables 08-4 and 08-5; resets 0, 0x30D4, 0x3D090, 0. -/
  ctl : Word
  tick : Word
  wait : Word
  fb : Word
  /-- The array instant from which EN acts as written, and how it acts before (R234). -/
  enFrom : Nat
  enWas : Bool
  /-- The array instant of the tick from which ORIG, WAIT and FB_XF act as written, and the words that act before (R234). -/
  cfgFrom : Nat
  ctlWas : Word
  waitWas : Word
  fbWas : Word
  /-- The next tick is the first after enabling, which has no partials; R232. -/
  warm : Bool
  /-- The last 64 ticks, newest first; R228. -/
  ticks : List SepTick
  /-- LATE_IN, MISMATCH, TIMEOUTS, REPLAYS, POS_CLASH, 16 saturating; R235; reset 0. -/
  lateIn : Nat
  mismatch : Nat
  timeouts : Nat
  replays : Nat
  posClash : Nat
  /-- The last two MODAL frames sent on P00, newest first; R31; the model's own; reset none. -/
  passed : List SepPass
  deriving DecidableEq, Repr

/-- The separator after reset. -/
def Sep.reset : Sep :=
  ⟨0, 0x000030D4, 0x0003D090, 0, 0, false, 0, 0, 0x0003D090, 0, false, [], 0, 0, 0, 0, 0, []⟩

/-- A saved churn state (R293). -/
structure SavedChurn where
  handle : Nat
  /-- Die whose churn area holds it. -/
  die : Nat
  use' : Nat
  /-- The image of Table 10-7, complete or as far as written. -/
  image : Bytes
  complete : Bool
  deriving DecidableEq, Repr

/-- A churn job (R294, R295). -/
structure ChurnJob where
  job : Nat
  die : Nat
  coach : Nat
  bufsz : Nat
  /-- What is still to be produced: the source samples that each block or sample of output consumes, and its bytes. -/
  todo : List (Nat × Bytes)
  /-- The decoder error that ends it: code of Table 10-6, block and byte offset; R292. -/
  fail : Option (Nat × Nat × Nat)
  /-- The buffer, and the source samples consumed. -/
  buf : Bytes
  used : Nat
  /-- State: 0 running, 1 output full, 2 done, 3 error; R395. -/
  st : Nat
  /-- True time at which it stopped; R295. -/
  stoppedAt : Nat
  deriving DecidableEq, Repr

/-- The churn part of a die (R269 to R295). -/
structure ChurnDie where
  /-- CHURN_CFG, 32; R272; reset 1. -/
  cfg : Word
  /-- Churn engines in service, of 4; R410; reset all. -/
  engines : List Bool
  /-- The CHK_FAIL counter, 32, per engine; R288; reset 0. -/
  fails : List Nat
  /-- True times of the mismatches of the last 1 s per engine, newest first; R288. -/
  mism : List (List Nat)
  deriving DecidableEq, Repr

end Sys2Proof.Machine
end

