-- ==== Sys2Proof/Machine/LinkState.lean ====
section
/-! DEFINITION. The state of ports and lanes (11), of Krenlink (12), of Krenmail and the doorbell window (13, 14). -/

namespace Sys2Proof.Machine

/-- PSTATE (Table 11-2). -/
inductive PState where
  | off
  | search
  | training
  | up
  | parked
  | wiring
  | test
  | plain
  | bypassed
  deriving DecidableEq, Repr

/-- The code of Table 11-2. -/
def PState.code : PState → Nat
  | .off => 0
  | .search => 1
  | .training => 2
  | .up => 3
  | .parked => 4
  | .wiring => 5
  | .test => 6
  | .plain => 7
  | .bypassed => 8

/-- Lane lock states (Table 11-4). -/
inductive LockState where
  | hunt
  | markWait
  | confirm
  | locked
  deriving DecidableEq, Repr

/-- A lane with its lock machine and its counters (R305, R307, R320, R321, Table 11-8). -/
structure Lane where
  lock : LockState
  /-- Valid headers in HUNT, or MARKs in MARK_CONFIRM, or MARKs missing in LOCKED; R305. -/
  count : Nat
  /-- True times, ns, of the invalid headers among the last 64 blocks, newest first; R305. -/
  recent : List Nat
  /-- Bit offset, 0 to 65, and offsets tried in this search; R307. -/
  offset : Nat
  tried : Nat
  /-- MCOUNT of the last MARK; R303. -/
  mcount : Nat
  /-- ALIGN_OFS; R307; reset 0. -/
  alignOfs : Nat
  /-- LANE_TEST, 32; Table 11-7; reset 0. -/
  test : Word
  bits : Nat
  err : Nat
  sync : Bool
  syncLoss : Nat
  invHdr : Nat
  lockLoss : Nat
  markGlitch : Nat
  alignFail : Nat
  retrain : Nat
  eyeW : Nat
  eyeH : Nat
  /-- A rate step has settled since the lane was margined; R443; reset false. -/
  eyeDue : Bool
  /-- Retired; R411; reset false. -/
  retired : Bool
  /-- Parked individually; R316; reset false. -/
  parked : Bool
  win : Option FaultWin
  /-- True time, ns, since which the checker counts bits; R321; reset none. -/
  syncAt : Option Nat
  /-- True time, ns, at which the present offset began to be tried; R307; reset 0. -/
  huntAt : Nat
  /-- True time, ns, of the last MARK in its slot; R305; reset 0. -/
  markAt : Nat
  /-- A lane that rejoins has passed its PRBS31 check; R317; reset false. -/
  passed : Bool
  /-- True time, ns, at which the lane was woken to rejoin an UP port: 2 ms to re-lock, then 1 ms of PRBS31; R317; reset none. -/
  wakeAt : Option Nat
  /-- The checker of a lane in near-end loopback: its register with bit 0 the newest, right bits in a row before sync, bits checked, and the
  places of the errors among the last 1,024; R321; reset 0. -/
  chk : BitVec 31
  chkRun : Nat
  chkPos : Nat
  chkErr : List Nat
  /-- The transmitter's scrambler, 58 bits, bit 0 the newest; R302; reset 0 (log entry 60). -/
  scr : BitVec 58
  /-- The last block sent: whether a control block, and its scrambled payload; the model's own. -/
  sent : Option (Bool × BitVec 64)
  /-- Bits of a burst that are still to be inverted, and payload bits sent; R322; reset 0. -/
  burst : Nat
  sentBits : Nat
  /-- The pattern generator's register, bit 0 the newest; R320; reset all ones (log entry 146). -/
  gen : BitVec 31
  /-- The last 66 line bits of a pattern sent, the first in bit 65; R320; the model's own; reset none. -/
  raw : Option (BitVec 66)
  deriving DecidableEq, Repr

/-- A lane after reset. -/
def Lane.reset : Lane :=
  { lock := .hunt, count := 0, recent := [], offset := 0, tried := 0, mcount := 0, alignOfs := 0, test := 0, bits := 0,
    err := 0, sync := false, syncLoss := 0, invHdr := 0, lockLoss := 0, markGlitch := 0, alignFail := 0, retrain := 0,
    eyeW := 0, eyeH := 0, eyeDue := false, retired := false, parked := false, win := none, syncAt := none, huntAt := 0, markAt := 0,
    passed := false, wakeAt := none, chk := 0, chkRun := 0, chkPos := 0, chkErr := [], scr := 0, sent := none,
    burst := 0, sentBits := 0, gen := 0x7FFFFFFF, raw := none }

/-- Why a step of R311 runs. -/
inductive StepCause where
  | stepUp
  | probe
  | retrain
  | settle
  deriving DecidableEq, Repr

/-- A rate step in progress (R311). -/
structure StepRun where
  target : Nat
  /-- MCOUNT[15:0] of the MARK after which the change is made; none once it is made. -/
  at' : Option Nat
  cause : StepCause
  /-- Rate and width before the step. -/
  fromRate : Nat
  fromWidth : Nat
  /-- Rates that passed with their widths, newest first. -/
  good : List (Nat × Nat)
  /-- Lanes that passed here, and there. -/
  own : Option (List Bool)
  peer : Option Nat
  /-- True time, ns, at which the change was made: the PRBS31 period of 1.5 ms runs from there; R311. -/
  since : Nat
  deriving DecidableEq, Repr

/-- A width change in progress (R318, R319): lanes asked for, and the width ordered with the MARK that carries it. At the downstream end one that
is not ordered is the peer's WIDTH, which waits for this end's answer. -/
structure WidthRun where
  want : Nat
  order : Option (Nat × Nat)
  /-- At the downstream end: the named MARK has come, and the next MARK that goes out carries the new WIDTH. -/
  armed : Bool
  deriving DecidableEq, Repr

/-- A packet of a link as its sender holds it (R330, R336). -/
structure Frame where
  cls : Nat
  kind : Nat
  dest : Nat
  src : Nat
  body : Bytes
  /-- The flow and SEQ that a STREAM packet of this hub carries. -/
  flow : Option (FlowKey × Word)
  /-- The sender has given the packet up: its trailer carries ABORT; R333. -/
  abort : Bool
  /-- The hub's own packet, not one that it forwards. -/
  own : Bool
  deriving DecidableEq, Repr

/-- The control blocks that wait for a port (R332, Table 12-4): code and payload. -/
structure CtlBlock where
  code : Nat
  payload : Nat
  deriving DecidableEq, Repr

/-- The link layer of a port (12). -/
structure Link where
  /-- Next SEQ, 16; R335; reset 0. -/
  txSeq : Nat
  /-- Held packets, oldest first, with their SEQ; R336. -/
  replay : List (Nat × Frame)
  /-- Packets of the replay that are still to be re-sent; R337. -/
  again : List (Nat × Frame)
  /-- New packets that wait, per class 1 to 4, oldest first. -/
  queues : List (List Frame)
  /-- Packets in progress with the blocks still to send, per class. -/
  active : List (Option (Frame × Nat × Option Nat))
  /-- The current class of R331 to the peer and from it; 0 before any SEL. -/
  txClass : Nat
  rxClass : Nat
  /-- SEQ expected, 16; R337; reset 0. -/
  rxSeq : Nat
  /-- A NAK has been sent for the SEQ expected; R337. -/
  nakOpen : Bool
  /-- The last NAK obeyed: SEQ and true time, ns; R337. -/
  lastNak : Option (Nat × Nat)
  /-- True times of NAK blocks within the last second; R314. -/
  naks : List Nat
  /-- Packets accepted since the last ACK; R338. -/
  unacked : Nat
  /-- Smoothed delay to an ACK, ns; R338; reset 5,000 (log entry 18). -/
  delay : Nat
  /-- True time of the last sent trailer per held SEQ, for the delay. -/
  sentAt : List (Nat × Nat)
  /-- True time of the last advance of ACK; R338. -/
  ackAt : Nat
  /-- Control blocks that wait; R332. -/
  ctl : List CtlBlock
  /-- PAUSE to the peer; R340; reset clear. -/
  pauseTx : Bool
  /-- The latest PAUSE received: none since UP; R340. -/
  pauseRx : Option Bool
  /-- True time of the last PAUSE received or of UP. -/
  pauseAt : Nat
  /-- The PAUSE watch has ended in clear; R340. -/
  pauseGone : Bool
  /-- LINK_ABORT, LINK_FRAME, INV_CTL, PAUSE_LOST, UNROUTABLE, 16 saturating; reset 0 (log entry 19). -/
  abort : Nat
  frame : Nat
  invCtl : Nat
  pauseLost : Nat
  unroutable : Nat
  /-- Cause and true time of the last NAK sent; R337. -/
  lastNakCause : Nat
  nakAt : Nat
  deriving DecidableEq, Repr

/-- A link layer after the port reaches UP (R335). -/
def Link.reset : Link :=
  { txSeq := 0, replay := [], again := [], queues := [[], [], [], []], active := [none, none, none, none],
    txClass := 0, rxClass := 0, rxSeq := 0, nakOpen := false, lastNak := none, naks := [], unacked := 0, delay := 5000,
    sentAt := [], ackAt := 0, ctl := [], pauseTx := false, pauseRx := none, pauseAt := 0, pauseGone := false,
    abort := 0, frame := 0, invCtl := 0, pauseLost := 0, unroutable := 0, lastNakCause := 0, nakAt := 0 }

/-- A port (11, 12). -/
structure Port where
  /-- LINK_CFG, 32; Table 11-1; reset 0x5307_03E8. -/
  cfg : Word
  /-- PSTATE; reset OFF. -/
  st : PState
  /-- Running rate and width; reset 0. -/
  rate : Nat
  width : Nat
  /-- PEER; reset 0. -/
  peer : Nat
  peerRate : Nat
  peerWidth : Nat
  peerLocked : Nat
  peerSerial : Option (BitVec 48)
  /-- MANUAL; R309; reset false. -/
  manual : Bool
  /-- L0, L1, L2 and LT. -/
  lanes : List Lane
  /-- True time at which SEARCH began; R316. -/
  searchAt : Nat
  /-- True time of UP or of the last retrain; R313. -/
  quietAt : Nat
  run : Option StepRun
  widthRun : Option WidthRun
  /-- The peer's ANSWER to the change asked for, while lanes of this end are still to pass their check; R317, R318; reset none. -/
  answered : Option Nat
  /-- A second request that waits for the present change: a rate (true) or a width; R315. -/
  asked : Option (Bool × Nat)
  /-- True time of this end's own unanswered request; R315. -/
  askedAt : Option Nat
  /-- Data lanes that have lost lock or failed their check since the last retrain ended; R314; reset none. -/
  lost : List Nat
  /-- MCOUNT of the last MARK sent; R303. -/
  mcount : Nat
  link : Link
  /-- LT_ASYM, 32, ps; R111; reset 0. -/
  asym : Word
  /-- DELAY measured, 1/1,024 ns; R111; reset 0. -/
  delay : Int
  /-- LT carries the pattern both ways. -/
  ltUp : Bool
  /-- True times of LT MARK_GLITCH in the last second; Table 15-1. -/
  ltGlitch : List Nat
  /-- Recorded at OPEN as leading to a hub; R344. -/
  recorded : Bool
  /-- Committed and pending address ranges; R341; none for empty. -/
  range : Option (Nat × Nat)
  pendRange : Option (Nat × Nat)
  /-- STRM_WM, 32; Table 09-10; reset 0x0040_0020. -/
  wm : Word
  /-- Occupancy lies between reaching HI and falling to LO; R256. -/
  hi : Bool
  /-- Frames that the hub forwards down through this port wait between HI and LO of its watermarks; R22, R257; reset false. -/
  fwdHi : Bool
  /-- An FCI pin holds the port; R258. -/
  fciHold : Bool
  /-- True time at which the port reached UP; R340. -/
  upAt : Nat
  /-- The array second that TIMECOR part A has announced; R110; reset 0. -/
  corSent : Nat
  /-- Blocks sent since the last MARK, over all lanes of the width; R303; reset 0. -/
  blk : Nat
  deriving DecidableEq, Repr

/-- A port after reset. -/
def Port.reset : Port :=
  { cfg := 0x530703E8, st := .off, rate := 0, width := 0, peer := 0, peerRate := 0, peerWidth := 0, peerLocked := 0,
    peerSerial := none, manual := false, lanes := List.replicate 4 Lane.reset, searchAt := 0, quietAt := 0,
    run := none, widthRun := none, answered := none, asked := none, askedAt := none, lost := [], mcount := 0, link := Link.reset,
    asym := 0, delay := 0, ltUp := false, ltGlitch := [], recorded := false, range := none, pendRange := none,
    wm := 0x00400020, hi := false, fwdHi := false, fciHold := false, upAt := 0, corSent := 0, blk := 0 }

/-- Addresses and enumeration (R341 to R348). -/
structure Enum where
  /-- Committed address; R341; reset 0xFFFE. -/
  addr : Nat
  /-- ROUND of the last OPEN; R343; reset 0, no round yet. -/
  round : Nat
  eligible : Bool
  pending : Option Nat
  /-- A TOKEN is out: ports still to ask in order, the port asked and NEXT before it, FULL. -/
  walk : Option (List Nat × Nat × Nat × Bool)
  /-- The token passes through transparently on P01. -/
  through : Bool
  /-- The hub claimed in this round. -/
  claimed : Bool
  /-- True time of the last ARRIVE sent; R347; reset none. -/
  arriveAt : Option Nat
  deriving DecidableEq, Repr

/-- A request in a place of its route (R355, R363). -/
structure Request where
  route : Route
  hdr : ReqHeader
  payload : Bytes
  /-- Service class; R367. -/
  svc : Nat
  /-- True time of intake, ns. -/
  at' : Nat
  /-- Order of intake. -/
  order : Nat
  /-- It has its place, and no core has compared its tag yet (R363, R417, R421). -/
  raw : Bool
  deriving DecidableEq, Repr

/-- A response (Table 13-2). -/
structure Response where
  route : Route
  opcode : Nat
  tag : Nat
  status : Nat
  retry : Nat
  reqId : Nat
  failDie : Nat
  orig : Nat
  payload : Bytes
  deriving DecidableEq, Repr

/-- An entry of the response cache (R362). -/
structure CacheEntry where
  reqId : Nat
  opcode : Nat
  tag : Nat
  status : Nat
  retry : Nat
  failDie : Nat
  payload : Bytes
  /-- True time of completion, ns. -/
  at' : Nat
  /-- The route of the response, and its mark: it has been handed over to that route, or there is none to hand over; R364, R417. -/
  route : Route
  handed : Bool
  deriving DecidableEq, Repr

/-- A scheduled action (R121 to R126). -/
structure Action where
  id : Word
  /-- T, 1/1,024 ns. -/
  t : Nat
  lateOk : Bool
  hdr : ReqHeader
  payload : Bytes
  /-- Array time of acceptance, and its place in the order of acceptance (R65, R125). -/
  accepted : Nat
  order : Nat
  /-- Committed to the data path (R418); armed (R125); run, and waiting for the first boundary of its targets (R65, R66, R126). -/
  committed : Bool
  armed : Bool
  held : Bool
  /-- Once it has run and waits for its targets: T's own boundary, and the hub was not LOCKED at T (R124, R126). -/
  own : Nat
  unlocked : Bool
  deriving DecidableEq, Repr

/-- The result of the last Krenmail command, as its response will carry it (Table 13-2). -/
structure Reply where
  status : Nat
  retry : Nat
  failDie : Nat
  payload : Bytes
  deriving DecidableEq, Repr

/-- A checkpoint of a core's state (R416), as far as core B needs it for what State does not keep elsewhere: the package manager's cache, the ids of
its scheduled actions and the next one. -/
structure Ckpt where
  gen : Nat
  cache : List CacheEntry
  actions : List Word
  nextAction : Word
  deriving DecidableEq, Repr

/-- What a core writes through between checkpoints (R416): a cache entry, with the marks of those handed over; the commit record of a request, by
its order of intake; an accepted action. -/
inductive Through where
  | cache (e : CacheEntry)
  | handed
  | commit (order : Nat)
  | action (id : Word)
  deriving DecidableEq, Repr

/-- Krenmail: routes, requests, cache, scheduled actions (13). -/
structure Mgmt where
  /-- Requests that wait, oldest first; R355; reset none. -/
  queue : List Request
  /-- The request that runs with its response formed; R368. -/
  running : Option (Request × Reply)
  /-- LOG_WRITE requests that wait for the logbook tag between two slices, with their responses so far; R368, R496; reset none. -/
  waiting : List (Request × Reply)
  /-- HSPI responses queued, oldest first, the first in the mailbox-out window; R356. -/
  outbox : List Response
  /-- In-band responses that hold a place until sent; R355. -/
  svcOut : List Response
  cache : List CacheEntry
  /-- Order counter of intake. -/
  order : Nat
  /-- SVC_DROP and DA_BAD, 16 saturating; R357, R349; reset 0 (log entry 19). -/
  svcDrop : Nat
  daBad : Nat
  actions : List Action
  /-- Accepted settings of channels and actions so far: the order of acceptance; R65, R125; reset 0. -/
  accepts : Nat
  /-- Next action id, 32; R403; reset 1 (log entry 20). -/
  nextAction : Word
  /-- The last Krenmail result. -/
  reply : Reply
  /-- Array times of the start and the end of the last gap of management; R418; reset none. -/
  gap : Option (Nat × Nat)
  deriving DecidableEq, Repr

/-- Krenmail after reset. -/
def Mgmt.reset : Mgmt :=
  { queue := [], running := none, waiting := [], outbox := [], svcOut := [], cache := [], order := 0, svcDrop := 0, daBad := 0,
    actions := [], accepts := 0, nextAction := 1, reply := ⟨0, 0, 255, []⟩, gap := none }

/-- The doorbell window's own registers (Tables 13-5 to 13-15). -/
structure Dbw where
  /-- DBW_FWREL, 32; reset 0. -/
  fwrel : Word
  /-- W1C bits of DBW_IRQ_STAT [7:2], 8; reset 0. -/
  irq : Byte
  /-- DBW_IRQ_EN, 32; reset 0. -/
  irqEn : Word
  /-- MBI_HEAD, MBI_TAIL, MBO_HEAD, MBO_TAIL, 16 each; reset 0. -/
  mbiHead : BitVec 16
  mbiTail : BitVec 16
  mboHead : BitVec 16
  mboTail : BitVec 16
  /-- MBI_CRC, 32; reset 0. -/
  mbiCrc : Word
  /-- MB_ERR CAUSE, 8, and COUNT, 16; reset 0. -/
  errCause : Nat
  errCount : Nat
  /-- ERR of the status byte; Table 13-17; reset 0. -/
  errSeen : Bool
  /-- Mailbox-in window, 4 KiB: (address, word) of the words that are not 0, addresses rising; reset all 0. -/
  mbi : List (Nat × Word)
  /-- The value of the last doorbell read, HSPI status byte or direct-access response; the model's own; reset 0. -/
  readout : List Word
  deriving DecidableEq, Repr

/-- The window after reset. -/
def Dbw.reset : Dbw :=
  { fwrel := 0, irq := 0, irqEn := 0, mbiHead := 0, mbiTail := 0, mboHead := 0, mboTail := 0, mbiCrc := 0,
    errCause := 0, errCount := 0, errSeen := false, mbi := [], readout := [] }

end Sys2Proof.Machine
end

