-- ==== Sys2Proof/Machine/SysState.lean ====
section
/-! DEFINITION. The state of dies and management cores (13, 15), of the audit converter (03), calibration (16), power
(17), start-up and seal (18), the logbook tag (19) and the test access port (18). -/

namespace Sys2Proof.Machine

/-- The variants (Table 00-1). -/
inductive Variant where
  | eh2
  | eh4
  | eh8
  deriving DecidableEq, Repr

/-- Dies of a variant (Table 00-1). -/
def Variant.dies : Variant → Nat
  | .eh2 => 2
  | .eh4 => 4
  | .eh8 => 8

/-- What the factory fixes in a part (Tables 00-1, 13-6, 19-2). -/
structure Ident where
  variant : Variant
  /-- SERIAL, 48; Table 19-2. -/
  serial : BitVec 48
  /-- UID, 64; Table 19-2. -/
  uid : BitVec 64
  /-- MFG_DATE, 32; Table 19-2. -/
  mfg : Word
  deriving DecidableEq, Repr

/-- An urgent audit entry that waits (R83). -/
structure Urgent where
  entry : Nat
  deriving DecidableEq, Repr

/-- What the urgent entries of a reference check have given, newest first: 16 of each are wanted (R430, R438). -/
structure RefRead where
  high : List Int
  low : List Int
  gap : List Int
  deriving DecidableEq, Repr

/-- The audit converter of a die (R76 to R94). -/
structure Audit where
  /-- AUD_CFG, 32; Table 03-9; reset 0x0000_0823. -/
  cfg : Word
  /-- AUDIT_FAULT, REF_FAULT; R92; reset 0. -/
  fault : Bool
  refFault : Bool
  /-- An AUD_CFG that waits for the start of the next run; R94; reset none. -/
  cfgNext : Option Word
  /-- An urgent entry is being converted; R84; reset false. -/
  serving : Bool
  /-- EXC_SEL: the channel whose driver the EXCMON points look at; R81; reset none. -/
  excSel : Option Nat
  /-- URG_MERGE, 8; R85; reset 0. -/
  urgMerge : Nat
  /-- Urgent entries that wait, oldest first, at most 8, and channels of the overflow set; R85. -/
  urgent : List Nat
  overflow : List Nat
  /-- A run is in progress; R79; reset false. -/
  running : Bool
  /-- The entry of the run that is being converted, chosen when the run reached it; none at the run's end; R79, R84; reset none. -/
  entry : Option Nat
  /-- The milk run pauses while the converter is calibrated; R437; reset false. -/
  paused : Bool
  /-- Signed sums of the 144 entries, as last read; R77. -/
  sums : List Int
  /-- Sum and number of the results of each internal point since the last telemetry refresh; R80, R455; reset 0. -/
  points : List (Int × Nat)
  /-- Raw sample extremes of the entry: clipped; R86. -/
  clips : List Bool
  /-- Channels that disagreed and channels compared in this run; R92. -/
  dis : List Nat
  cmp : List Nat
  /-- Runs completed; R76; true time at which the last run started; R451; reset 0. -/
  runs : Nat
  runAt : Nat
  /-- Audit converter constants of each gain: gain over 2^30 and offset over 2^16; R437; reset unity. -/
  consts : List (Nat × Int)
  /-- The pass in which it was calibrated last; R437; reset none. -/
  calPass : Option Nat
  /-- Its calibration in progress: true time of its start, and the sums of entries 141, 142 and 140 at audit gains 0, 1, … so far; R437; reset
  none. -/
  cal : Option (Nat × List Int)
  /-- A reference check in progress: the sums of the urgent entries 141, 142 and 143 so far; R438; reset none. -/
  ref : Option RefRead
  /-- True time at which AUDIT_FAULT set; Table 15-1. -/
  faultAt : Nat
  retired : Bool
  deriving DecidableEq, Repr

/-- A die's audit converter after reset. -/
def Audit.reset : Audit :=
  { cfg := 0x00000823, fault := false, refFault := false, cfgNext := none, serving := false, excSel := none, urgMerge := 0, urgent := [], overflow := [],
    running := false, entry := none, paused := false, sums := List.replicate 144 0, points := List.replicate 16 (0, 0), clips := List.replicate 144 false, dis := [], cmp := [], runs := 0, runAt := 0,
    consts := List.replicate 8 (1073741824, 0), calPass := none, cal := none, ref := none, faultAt := 0, retired := false }

/-- The sentinel's view of a die's cores (R352, R414 to R423). -/
structure Cores where
  /-- The die runs on core B; reset false. -/
  onB : Bool
  /-- HB_OK; R415; reset false. -/
  hbOk : Bool
  /-- A beat fell in the period in progress, and missed periods in a row; R415. -/
  beat : Bool
  missed : Nat
  /-- The standby has failed or been used up; R417, R423. -/
  noStandby : Bool
  standbyFailed : Bool
  /-- True time at which a failure was declared; R417; none outside a failover. -/
  declaredAt : Option Nat
  /-- True time of the last beat. -/
  lastBeat : Nat
  /-- DRILL pending, and a drill running since; R423. -/
  drill : Bool
  drillAt : Option Nat
  /-- The failover in progress: 0 core B has not beaten, 1 it beats, 2 it has settled what was running; R417; reset 0. -/
  stage : Nat
  /-- True time of the last beat before a failure was declared; R417; reset 0. -/
  gapFrom : Nat
  /-- The two halves of the checkpoint store, the pointer, which says the half that is committed, and what has been written through since; on
  VKEEP; R416; reset none, none, the first, nothing. -/
  halves : Option Ckpt × Option Ckpt
  pointer : Bool
  through : List Through
  /-- The verified copy of the running firmware in the standby's read-only SRAM; R416; reset none. -/
  copy : Option Image
  /-- The core's boot ROM has reported; R468. -/
  reported : Bool
  deriving DecidableEq, Repr

/-- A time-interval channel with its spare interpolator (R117, R118, R444). -/
structure TiuChan where
  /-- The second of the two interpolators is in use, and the first is the spare; reset false. -/
  second : Bool
  /-- The bin table in use: hits of each of the 32 phases in the test that it comes from; reset none, equal bins. -/
  bins : List Nat
  /-- True time at which the spare's test began; reset none. -/
  testAt : Option Nat
  /-- The spare's new bin table, which waits with it for a recorded edge; reset none. -/
  next : Option (List Nat)
  /-- max |DNL| and max |INL| in 0.001 bin as TIU_CAL told them, and whether INL is beyond ±0.25 bin; reset 0. -/
  dnl : Nat
  inl : Nat
  inlOver : Bool
  /-- The pass in which the spare was tested last; reset none. -/
  pass : Option Nat
  deriving DecidableEq, Repr

/-- A channel after reset. -/
def TiuChan.reset : TiuChan := ⟨false, [], none, none, 0, 0, false, none⟩

/-- A die (00, 13, 15, 17). -/
structure Die where
  /-- In service; R26, R404; reset false. -/
  inService : Bool
  frozen : Bool
  /-- Out of service through a fault (DIE_FAULT of Table 13-14); R412; reset false. -/
  faulted : Bool
  cores : Cores
  audit : Audit
  store : Store
  sep : SepDie
  churn : ChurnDie
  /-- Channel engines free in the spare pool, 0 to 135, and those retired or under retest; R408; reset 128 to 135. -/
  pool : List Nat
  enginesBad : List Nat
  /-- Engine fault windows: unit and window; R404. -/
  engWin : List (Word × FaultWin)
  /-- True time of the last die fault, and a restart in progress with the cause of the fault; Table 15-1. -/
  faultAt : Option Nat
  restartAt : Option (Nat × Nat)
  /-- Quadrants powered, 4; R453; reset all. -/
  quads : List Bool
  /-- Bay rails good; R446; reset false. -/
  rails : Bool
  /-- The time-interval channels; R117, R444. -/
  tiu : List TiuChan
  /-- The die's time counter differs from the lead's: ps; R425; reset 0. -/
  skewPs : Int
  /-- The die takes the lead's count at the next array second; R425; reset false. -/
  skewTake : Bool
  /-- True time since which its phase slews to the lead's; R425; reset none. -/
  skewFrom : Option Nat
  /-- The last telemetry readings; Table 17-5; reset 0. -/
  reading : DieReading
  /-- Merge counters of the 11 rows of Table 09-14, 8 saturating; R266; reset 0. -/
  xing : List Nat
  /-- True time of the event that the event crossings of the 11 rows carried last; R266; reset none. -/
  xingAt : List (Option Nat)
  deriving DecidableEq, Repr

/-- A die's cores after reset (R352). -/
def Cores.reset : Cores :=
  { onB := false, hbOk := false, beat := false, missed := 0, noStandby := false, standbyFailed := false,
    declaredAt := none, lastBeat := 0, drill := false, drillAt := none, stage := 0, gapFrom := 0, halves := (none, none),
    pointer := false, through := [], copy := none, reported := false }

/-- A die after reset. -/
def Die.reset : Die :=
  { inService := false, frozen := false, faulted := false,
    cores := Cores.reset,
    audit := Audit.reset, store := Store.reset, sep := SepDie.reset,
    churn := ⟨1, List.replicate 4 true, List.replicate 4 0, List.replicate 4 []⟩, pool := [128, 129, 130, 131, 132, 133, 134, 135], enginesBad := [],
    engWin := [], faultAt := none, restartAt := none, quads := List.replicate 4 true, rails := false,
    tiu := List.replicate 12 TiuChan.reset, skewPs := 0, skewTake := false, skewFrom := none, reading := ⟨0, 0, 0, 0, [0, 0, 0, 0], 0⟩, xing := List.replicate 11 0,
    xingAt := List.replicate 11 none }

/-- The slot that a calibration pass holds (R430). -/
structure Slot where
  die : Nat
  oct : Nat
  /-- The last step of Table 16-1 taken. -/
  step : Nat
  /-- CAL_CFG when the octet was taken; R436. -/
  cfg : Word
  /-- The reference trim, the trim code of the swap and the spare-segment map that the measurement leads to; R431, R434; none where EXCITATION is
  skipped. -/
  exc : Option (Int × Int × List (Nat × Nat))
  /-- The octet belongs to the start-up pass, or was requested (R435). -/
  pass : Bool
  byRequest : Bool
  /-- Channels that passed, failed on limits and were skipped, once released (CAL_DONE, R445). -/
  counts : Nat × Nat × Nat
  /-- True times of t0, the start of the reference check, and of the release (Table 16-1). -/
  t0 : Nat
  released : Nat
  deriving DecidableEq, Repr

/-- Calibration (16). -/
structure Cal where
  /-- CAL_CFG, 32; Table 16-2; reset 0x8014_180A. -/
  cfg : Word
  /-- Octets requested, in order; R435. -/
  requests : List Nat
  /-- Octets of the start-up pass still to be calibrated; R435. -/
  pass : List Nat
  /-- The start-up pass has ended; R478; octets of it are still to be calibrated, also after its suspension; R435, R438. -/
  passDone : Bool
  passRuns : Bool
  /-- Number of the pass: 0 the start-up pass, and one more as the background order begins anew; R437, R443, R444; reset 0. -/
  passNo : Nat
  /-- Data lanes that this pass has still to margin, in ascending port order, as port and lane; R443; reset none. -/
  margins : List (Nat × Nat)
  slots : List Slot
  /-- Slots that have released their octet, whose ramps run; Table 16-1 step 12; reset none. -/
  ramps : List Slot
  /-- True time of the last background start; R436; and the next octet of the background order. -/
  bgAt : Nat
  bgNext : Nat
  /-- The background octet that is due and waits behind the requests; R435; reset none. -/
  bgDue : Option Nat
  /-- True time at which it was named; R370; reset 0. -/
  bgDueAt : Nat
  /-- Suspended for the reference: true time of the last check; R438. -/
  suspended : Option Nat
  /-- The octet at the head after a failure of R438. -/
  failed : Option Nat
  deriving DecidableEq, Repr

/-- Power states (Table 17-2). -/
inductive PowerState where
  | run
  | doze
  | keep
  | off
  deriving DecidableEq, Repr

/-- The code of Table 17-2. -/
def PowerState.code : PowerState → Nat
  | .run => 0
  | .doze => 2
  | .keep => 3
  | .off => 3

/-- Power and thermal (17). -/
structure Pwr where
  /-- STATE requested; R450; reset Run. -/
  st : PowerState
  /-- True time of a PWR_STATE_SET to Keep; R398; reset none. -/
  keepAt : Option Nat
  /-- SHED, 0 to 5; R458; reset 0. -/
  shed : Nat
  /-- True time of the last change of SHED, and of that from below level 4 to it. -/
  shedAt : Nat
  shed4At : Nat
  /-- THERMAL_GRADIENT; R461; the temperature difference at the last queueing; true time within limits. -/
  gradient : Bool
  gradBase : Nat
  gradOkAt : Option Nat
  /-- VEXC_LOW; R449; reset false. -/
  vexcLow : Bool
  /-- VKEEP in mV, TJ_MAX in 0.1 °C; Table 17-5; reset 0. -/
  vkeepMv : Nat
  tjMax : Int
  /-- True time of the last refresh; Table 17-7 bit 8; reset none. -/
  refreshed : Option Nat
  /-- True time of an orderly shutdown's start and its cause; R448, R460. -/
  holdUp : Option Nat
  /-- THERMAL_OFF and Tj_max at the shutdown, on VKEEP; R460; reset clear. -/
  thermalOff : Option Int
  /-- VKEEP in range, and the true time since which it is so or not; R446, R484. -/
  vkeepOk : Bool
  vkeepAt : Nat
  /-- The hub stays off until RST_n or a VMAIN cycle; R460; reset false. -/
  stays : Bool
  /-- VIO_A and VIO_B are supplied; R503, R515; reset true (log entry 143). -/
  vioA : Bool
  vioB : Bool
  deriving DecidableEq, Repr

/-- PMBus (R456): PAGE, latched STATUS_WORD bits and the last read value. -/
structure Pmbus where
  /-- PAGE, 8; reset 0xFF. -/
  page : Nat
  /-- IOUT_OC and CML latched; VIN_UV and TEMPERATURE latched, with the pages for which; Table 17-7; reset clear. -/
  iout : Bool
  vin : List Nat
  temp : List Nat
  cml : Bool
  /-- Value of the last read; the model's own; reset 0. -/
  readout : Nat
  deriving DecidableEq, Repr

/-- Service levels (Table 18-4). -/
inductive Level where
  | off
  | boot
  | rough
  | full
  | degraded
  deriving DecidableEq, Repr

/-- The code of Table 18-4. -/
def Level.code : Level → Nat
  | .off => 0
  | .boot => 1
  | .rough => 2
  | .full => 3
  | .degraded => 4

/-- Start-up (18). -/
structure Boot where
  level : Level
  /-- Lead die; R353; reset 0. -/
  lead : Nat
  /-- True time of reset release; R467; reset none. -/
  tr : Option Nat
  /-- RST_n is high; reset true (log entry 5). -/
  rst : Bool
  /-- Bays that have started and their true times; R446. -/
  bays : List (Nat × Nat)
  /-- The firmware runs, and the image slot, none in network boot; R472, R475. -/
  running : Bool
  slot : Option Nat
  netboot : Bool
  /-- True time of the boot watchdog's start; R472. -/
  watchdog : Option Nat
  /-- A reset asked for: true time due; R381, R473. -/
  resetAt : Option Nat
  /-- Conditions of R478: the configuration is applied; P00 released for step-up and settled. -/
  cfgApplied : Bool
  p00Settled : Bool
  /-- P00 is released for step-up; R310, R478; reset false. -/
  p00Released : Bool
  /-- CFG_SPLIT; R424; reset false. -/
  cfgSplit : Bool
  /-- STARTUP_LATE written; R478. -/
  late : Bool
  /-- Records of start-up that wait for the firmware: unit, code, class and ARG0; R468, R469; reset none. -/
  notes : List (Word × Nat × Nat × Word)
  deriving DecidableEq, Repr

/-- The image of a configuration that flash keeps (R424): AFE sections and the package's settings as words. -/
structure CfgCopy where
  crcOk : Bool
  gen : Word
  /-- The stored AFE sections and descriptors of every channel. -/
  descs : List Desc
  /-- Streams enabled: SKIM, RAW. -/
  skims : List Nat
  raws : List Nat
  /-- Routes of flows. -/
  routes : List (FlowKey × Dest)
  caps : List CapParams
  time : Word
  sep : List Word
  /-- RED_CFG of every channel, LINK_CFG of every port, and the RAW group: what streams need. -/
  reds : List Word
  links : List Word
  rawGroup : List Nat
  /-- The other time settings (R478): PPS_COMP of A and B, LT_ASYM of every port, TIN_CFG of every input. -/
  pps : Word × Word
  asyms : List Word
  tins : List Word
  /-- The other settings of streams: churn modes (RAW, channel, mode), CHURN_CFG of every die, STRM_CFG, FC_CFG of every pin pair, and the
  watermarks of LOCAL and of every port. -/
  churns : List (Bool × Nat × Nat)
  churnCfg : List Word
  strmCfg : Word
  fc : List Word
  localWm : Word
  wms : List Word
  deriving DecidableEq, Repr

/-- A way to read the flash (R470, R524). -/
structure FlashRead where
  command : Nat
  addrBytes : Nat
  quad : Bool
  mhz : Nat
  deriving DecidableEq, Repr

/-- What a region of the flash holds (Table 18-2): a configuration copy, or an image (0 A, 1 B). -/
inductive FlashPart where
  | copy (n : Nat)
  | image (n : Nat)
  deriving DecidableEq, Repr

/-- A region of the flash map (Table 18-2). -/
structure FlashRegion where
  part : FlashPart
  base : Nat
  size : Nat
  deriving DecidableEq, Repr

/-- The external flash (R470): present, two image slots, three configuration copies, each in its region of the flash map. -/
structure Flash where
  present : Bool
  /-- How the boot ROM reads it; R470, R524; reset single-bit, command 0x03, 3-byte addresses, 10 MHz. -/
  read : FlashRead
  a : Option Image
  b : Option Image
  copies : List (Option CfgCopy)
  /-- The staging area of network boot; R476. -/
  staged : Option Image
  /-- Version floor SVN, on VKEEP; R474; reset 0. -/
  floor : Nat
  /-- Verifications done: the argument of free values. -/
  verified : Nat
  deriving DecidableEq, Repr

/-- The field seal (R479 to R484), on VKEEP. -/
structure Seal where
  /-- STATE: 0 FACTORY, 1 OPEN, 2 SEALED; shipped OPEN. -/
  st : Nat
  session : Bool
  /-- FAILS, 8 saturating. -/
  fails : Nat
  /-- End of the lockout, true time; none. -/
  lockUntil : Option Nat
  /-- LOCK_MIN as SEAL_CHG last announced it; Table 13-9; reset 0. -/
  lockSeen : Nat
  /-- The owner key; R481; shipped none. -/
  key : Option Bytes
  /-- The nonce held and its true time; R401. -/
  nonce : Option (BitVec 128 × Nat)
  /-- Nonces given; the argument of the free value. -/
  nonces : Nat
  deriving DecidableEq, Repr

/-- Who asked for a LOG_WRITE: the LOG_WRITE row itself, a request by its order of intake, or a scheduled action (R123, R368). -/
inductive LogOwner where
  | direct
  | request (order : Nat)
  | action (id : Word)
  deriving DecidableEq, Repr

/-- A LOG_WRITE whose blocks are not all written (R496). -/
structure LogJob where
  owner : LogOwner
  /-- Blocks still to write, in ascending order. -/
  blocks : List (Nat × Word)
  /-- True time of the first attempt at the first of them. -/
  since : Nat
  deriving DecidableEq, Repr

/-- The logbook tag (19). -/
structure Tag where
  /-- 2,048 blocks as (block, word) for those that differ from 0xFFFF_FFFF in the ring and from 0 elsewhere, rising. -/
  mem : List (Nat × Word)
  /-- Next LSEQ, 32; R486; reset 0. -/
  lseq : Nat
  /-- Ring entries that wait, at most 64; R488. -/
  queue : List (Nat × Bytes)
  /-- Records not queued since the last LOG_DROP, and since the last entry to ROUGH; R489; reset 0. -/
  lost : Nat
  dropped : Nat
  /-- True time of the last ring entry's start; R488; reset none. -/
  lastEntry : Option Nat
  /-- The block that the wired side is programming; R493; reset none. -/
  busy : Option Nat
  /-- Block writes of the ring entry in progress, the first one next; R487; reset none. -/
  ring : List (Nat × Word)
  /-- LOG_WRITEs in progress, the first one next; R496; reset none. -/
  writes : List LogJob
  /-- OWNER_LOCK's end, true time; R495; reset none. -/
  lockUntil : Option Nat
  /-- The RF field has been absent since; R495. -/
  quiet : Bool
  selected : Bool
  /-- The response of the last field command: none, or flags and bytes. -/
  answer : Option Bytes
  deriving DecidableEq, Repr

/-- A package ball as the boundary register covers it (R482, R501): a ball of the package-level field by its index of Table 20-4, a ball of a
lane pair (port, lane, transmit, positive leg), or another by a number of its own. -/
inductive TestBall where
  | field (i : Nat)
  | lane (p l : Nat) (tx pos : Bool)
  | other (n : Nat)
  deriving DecidableEq, Repr

/-- The kind of a ball and its number in it. -/
def TestBall.cell : TestBall → Nat × Nat
  | .field i => (0, i)
  | .lane p l tx pos => (1, ((4 * p + l) * 2 + (if tx then 1 else 0)) * 2 + (if pos then 1 else 0))
  | .other n => (2, n)

/-- What sets a ball's output: the system, the boundary cell's value, a pulse or a train of it (IEEE 1149.6), or nothing. -/
inductive BallDrive where
  | system
  | cell (v : Bool)
  | pulse (v : Bool)
  | train (v : Bool)
  | hiZ
  deriving DecidableEq, Repr

/-- The test access port (R482). -/
structure Tap where
  /-- Instruction, 8; reset IDCODE 0x01. -/
  ir : Nat
  /-- The register selected reads: IDCODE word, or BYPASS bit. -/
  dr : Word
  /-- Pins held by CLAMP, HIGHZ or EXTEST; reset none. -/
  pinMode : Nat
  /-- The boundary register, which covers every ball: which of the contents it has had stands in it, the argument of a free value, because no
  row shifts data (log entry 197); reset 0. -/
  cells : Nat
  deriving DecidableEq, Repr

/-- Stream-level settings of the package (09). -/
structure Strm where
  /-- STRM_CFG, 32; Table 09-8; reset 0x0000_012C. -/
  cfg : Word
  /-- FC_CFG of 4 pin pairs, 32; Table 09-11; reset 0; levels of FCI0 to FCI3. -/
  fc : List Word
  fci : List Bool
  fco : List Bool
  /-- The RAW group's ports; R262; reset none. -/
  rawGroup : List Nat
  /-- RAW flows stopped: die and quadrant; R263. -/
  stopped : List (Nat × Nat)
  /-- Flow routed to LOCAL; R255. -/
  localFlow : Option FlowKey
  /-- STRM_WM of LOCAL; reset 0x0018_0008. -/
  localWm : Word
  win : LocalWin
  /-- Entries discarded by queue resets; R268. -/
  qDiscard : Nat
  deriving DecidableEq, Repr

/-- Fault handling of the package (15). -/
structure Flt where
  /-- FLT_CH, FLT_LANE, FLT_ENG, FLT_MEM, 32; Table 15-2. -/
  ch : Word
  lane : Word
  eng : Word
  mem : Word
  /-- FAILOVERS, 6 saturating; R417; reset 0. -/
  failovers : Nat
  /-- COUPLER closed; R324; reset true. -/
  closed : Bool
  /-- Closed by LINK_COUPLER; R325; reset false. -/
  byHost : Bool
  /-- A LINK_COUPLER CLOSE waits for its DEPART; R348. -/
  closing : Option Nat
  /-- Units retired other than channels, lanes, pages. -/
  retired : List Word
  /-- Sentinel copies; R414. -/
  votes : List Bool
  /-- The MC_DRILL in progress: its action and its status so far; R423; reset none. -/
  drill : Option (Option Word × Nat)
  deriving DecidableEq, Repr

end Sys2Proof.Machine
end

