-- ==== Sys2Proof/Machine/State.lean ====
section
/-! DEFINITION. The state of the hub: everything the spec gives it (`Hub`) and the queue of commands that wait. -/

namespace Sys2Proof.Machine

/-- Everything that the spec gives the hub. -/
structure Hub where
  ident : Ident
  clk : Clk
  tm : Tm
  /-- One entry for each channel of the variant, in channel order (R4). -/
  chans : List Chan
  /-- One entry for each octet. -/
  octs : List Octet
  /-- REP0 to REP15 (R58). -/
  reps : List Rep
  dies : List Die
  trg : Trg
  /-- CAP0 to CAP31; none while not armed (R192). -/
  caps : List (Option Capture)
  /-- TRAIN_ID counter, 16; R196; reset 0. -/
  nextTrain : Nat
  saved : List SavedChurn
  jobs : List ChurnJob
  /-- Next handle of a saved state and next job number; R293, R294; reset 1 (log entry 20). -/
  nextHandle : Nat
  nextJob : Nat
  flows : List Flow
  strm : Strm
  hk : Hk
  sep : Sep
  /-- One entry for each port (R6). -/
  ports : List Port
  enm : Enum
  mgmt : Mgmt
  dbw : Dbw
  fseal : Seal
  flt : Flt
  cal : Cal
  pwr : Pwr
  pmbus : Pmbus
  boot : Boot
  flash : Flash
  tag : Tag
  tap : Tap
  /-- The model's own: free values taken so far (log entry 1). -/
  fresh : Nat
  deriving DecidableEq, Repr

/-- The state: the hub and the commands that wait, first in, first out. -/
structure State where
  hub : Hub
  pending : List Instr
  deriving DecidableEq, Repr

/-- Why a command stops the machine. The hub never stops: no command of the table raises it. -/
inductive Fault where
  /-- Raised by no command; kept so that the type is inhabited. Safe. -/
  | halted
  deriving DecidableEq, Repr

/-- Why a command is refused. -/
inductive Refusal where
  /-- Raised by exec for a command that has no meaning yet. Safe. -/
  | notModelled (mnemonic : String)
  deriving DecidableEq, Repr

/-- The flows of a die in the order of Table 09-2; COACH flows are made as captures name ports. -/
def dieFlows (d : Nat) : List Flow :=
  [Flow.init ⟨d, 0, 0⟩, Flow.init ⟨d, 1, 0⟩, Flow.init ⟨d, 2, 0⟩] ++
    (List.range 4).map (fun q => Flow.init ⟨d, 5, q⟩)

/-- The external flash as the part meets it first: blank, without an image or a stored configuration (log entry 7). -/
def Flash.shipped : Flash :=
  { present := true, read := ⟨0x03, 3, false, 10⟩, a := none, b := none, copies := [none, none, none], staged := none, floor := 0, verified := 0 }

/-- The tag at manufacture: the ring reads 0xFF, the identity area as Table 19-2 (derived from Ident), the rest 0. -/
def Tag.shipped : Tag :=
  { mem := [], lseq := 0, queue := [], lost := 0, dropped := 0, lastEntry := none, busy := none, ring := [], writes := [],
    lockUntil := none, quiet := false, selected := false, answer := none }

/-- The hub of a part with the given factory identity, right after reset. -/
def Hub.reset (id : Ident) : Hub :=
  { ident := id
    clk := ⟨0, 0, true, false, false, none, none, 0, List.replicate 4 ⟨0, 0⟩⟩
    tm := Tm.reset
    chans := List.replicate (128 * id.variant.dies) Chan.reset
    octs := List.replicate (16 * id.variant.dies) Octet.reset
    reps := List.replicate 16 Rep.reset
    dies := List.replicate id.variant.dies Die.reset
    trg := Trg.reset
    caps := List.replicate 32 none
    nextTrain := 0
    saved := []
    jobs := []
    nextHandle := 1
    nextJob := 1
    flows := (List.range id.variant.dies).flatMap dieFlows ++ [Flow.init ⟨0, 3, 0⟩]
    strm := { cfg := 0x0000012C, fc := [0, 0, 0, 0], fci := [false, false, false, false],
              fco := [false, false, false, false], rawGroup := [], stopped := [], localFlow := none,
              localWm := 0x00180008, win := ⟨[], [], false⟩, qDiscard := 0 }
    hk := ⟨0, [], 0, 0, 0, []⟩
    sep := Sep.reset
    ports := List.replicate (4 * id.variant.dies) Port.reset
    enm := ⟨0xFFFE, 0, false, none, none, false, false, none⟩
    mgmt := Mgmt.reset
    dbw := Dbw.reset
    fseal := ⟨1, false, 0, none, 0, none, none, 0⟩
    flt := { ch := 0x03000064, lane := 0x03000258, eng := 0x01000E10, mem := 0x100005A0, failovers := 0,
             closed := true, byHost := false, closing := none, retired := [], votes := [true, true, true], drill := none }
    cal := { cfg := 0x8014180A, requests := [], pass := [], passDone := false, passRuns := false, passNo := 0, margins := [],
             slots := [], ramps := [], bgAt := 0, bgNext := 0, bgDue := none, bgDueAt := 0,
             suspended := none, failed := none }
    pwr := { st := .run, keepAt := none, shed := 0, shedAt := 0, shed4At := 0, gradient := false, gradBase := 0, gradOkAt := none,
             vexcLow := false, vkeepMv := 0, tjMax := 0, refreshed := none, holdUp := none, thermalOff := none,
             vkeepOk := false, vkeepAt := 0, stays := false, vioA := true, vioB := true }
    pmbus := ⟨0xFF, false, [], [], false, 0⟩
    boot := { level := .off, lead := 0, tr := none, rst := true, bays := [], running := false, slot := none,
              netboot := false, watchdog := none, resetAt := none, cfgApplied := false, p00Settled := false, p00Released := false,
              cfgSplit := false, late := false, notes := [] }
    flash := Flash.shipped
    tag := Tag.shipped
    tap := ⟨1, 0, 0, 0⟩
    fresh := 0 }

/-- The factory identity of the part that State.reset is: an EH2-X, which the spec leaves to the part (log entry 4). -/
def Ident.shipped : Ident := ⟨.eh2, 0, 0xE000000000000000, 0⟩

/-- The machine right after reset, with no command waiting. -/
def State.reset : State := ⟨Hub.reset Ident.shipped, []⟩

end Sys2Proof.Machine
end

