-- ==== Sys2Proof/Machine/Ops.lean ====
section
/-! DEFINITION. The shared operations: numbers and places (00), array time as numbers and bytes (04), replies (13, 14),
units (15), items, packets and flows (09), HK records (15). -/

namespace Sys2Proof.Machine

/-- What a command answers. -/
abbrev Out := Host.Outcome State Fault Refusal

/-- A command's effect on the hub; the queue stays as it is. -/
def act (s : State) (f : Hub → Hub) : Out := .next { s with hub := f s.hub }

/-! ## Numbers and places (R4 to R7) -/

/-- Dies of the part. -/
def Hub.nDies (h : Hub) : Nat := h.ident.variant.dies
/-- Channels, octets, quadrants and ports of the part. -/
def Hub.nChans (h : Hub) : Nat := 128 * h.nDies
def Hub.nOcts (h : Hub) : Nat := 16 * h.nDies
def Hub.nPorts (h : Hub) : Nat := 4 * h.nDies

/-- Die, octet and quadrant of a channel (R4). -/
def chDie (c : Nat) : Nat := c / 128
def chOct (c : Nat) : Nat := c / 8
def chQuad (c : Nat) : Nat := c / 32

def Hub.ch (h : Hub) (c : Nat) : Chan := h.chans.getD c Chan.reset
def Hub.oct (h : Hub) (o : Nat) : Octet := h.octs.getD o Octet.reset
def Hub.die (h : Hub) (d : Nat) : Die := h.dies.getD d Die.reset
def Hub.prt (h : Hub) (p : Nat) : Port := h.ports.getD p Port.reset

def Hub.setCh (h : Hub) (c : Nat) (f : Chan → Chan) : Hub := { h with chans := modAt h.chans c f }
def Hub.setOct (h : Hub) (o : Nat) (f : Octet → Octet) : Hub := { h with octs := modAt h.octs o f }
def Hub.setDie (h : Hub) (d : Nat) (f : Die → Die) : Hub := { h with dies := modAt h.dies d f }
def Hub.setPort (h : Hub) (p : Nat) (f : Port → Port) : Hub := { h with ports := modAt h.ports p f }
def Hub.setLink (h : Hub) (p : Nat) (f : Link → Link) : Hub := h.setPort p fun q => { q with link := f q.link }
def Hub.setLane (h : Hub) (p l : Nat) (f : Lane → Lane) : Hub :=
  h.setPort p fun q => { q with lanes := modAt q.lanes l f }
def Hub.lane (h : Hub) (p l : Nat) : Lane := (h.prt p).lanes.getD l Lane.reset

/-- Every channel by its number. -/
def Hub.mapCh (h : Hub) (g : Nat → Chan → Chan) : Hub := { h with chans := h.chans.mapIdx g }

/-- An event crosses a die's clock domains on a row of Table 09-14: one within the latency of the last transfer merges into it (R266; log
entry 141). -/
def Hub.crossEvent (h : Hub) (d row latency : Nat) : Hub :=
  let now := h.clk.elapsed
  let busy := match (h.die d).xingAt.getD row none with | some t => decide (now < t + latency) | none => false
  h.setDie d fun x =>
    if busy then { x with xing := modAt x.xing row fun n => satInc 8 n } else { x with xingAt := modAt x.xingAt row fun _ => some now }

/-- Applies an operation to every die. -/
def Hub.mapDie (h : Hub) (f : Nat → Die → Die) : Hub := { h with dies := h.dies.mapIdx f }

/-- Apply an effect for every member of a list, first to last. -/
def forAll {α : Type} (l : List α) (f : α → Hub → Hub) (h : Hub) : Hub := l.foldl (fun g a => f a g) h

/-- The dies that a D command's DIEMASK names: none named means every die present (R377). -/
def Hub.named (h : Hub) (dies : List Nat) : List Nat := if dies.isEmpty then List.range h.nDies else dies

/-- The die cannot serve: out of service or frozen (R380). -/
def Hub.dieDown (h : Hub) (d : Nat) : Bool := !(h.die d).inService || (h.die d).frozen

/-- The quadrant is powered (R453). -/
def Hub.powered (h : Hub) (q : Nat) : Bool := (h.die (q / 4)).quads.getD (q % 4) false

/-! ## Array time (R95 to R99) -/

/-- Units of 1/1,024 ns in a second. -/
def fuSec : Nat := 1024000000000
/-- Units of 1/1,024 ns in a reference cycle of 8 ns. -/
def fuCycle : Nat := 8192

def secOf (t : Nat) : Nat := t / fuSec
def nsOf (t : Nat) : Nat := t % fuSec / 1024
def fracOf (t : Nat) : Nat := t % 1024
/-- SEC[31:24] (R97). -/
def eraOf (t : Nat) : Nat := secOf t / 2 ^ 24 % 256
/-- SEC[47:32] (R97). -/
def secHi (t : Nat) : Nat := secOf t / 2 ^ 32 % 2 ^ 16
/-- SEC[47:24], whose change is an era change (R98). -/
def eraAll (t : Nat) : Nat := secOf t / 2 ^ 24 % 2 ^ 24

/-- The compact stamp (Table 04-1). -/
def stamp (t : Nat) : Nat := (secOf t % 2 ^ 24) * 2 ^ 40 + nsOf t * 2 ^ 10 + fracOf t

/-- The compact stamp as bytes. -/
def stampB (t : Nat) : Bytes := be 8 (stamp t)

/-- An array time as the 12 bytes T of R379. -/
def instB (t : Nat) : Bytes := be 6 (secOf t) ++ be 4 (nsOf t) ++ be 2 (fracOf t)

/-- The array time that T names, in units of 1/1,024 ns. -/
def Instant.fu (t : Instant) : Nat := t.sec.toNat * fuSec + t.ns.toNat * 1024 + t.frac.toNat

/-- A T that names no instant, or has non-zero reserved bits (R379). -/
def Instant.bad (t : Instant) : Bool := decide (999999999 < t.ns.toNat) || decide (1023 < t.frac.toNat)

/-- The instant as a T. -/
def Instant.of (t : Nat) : Instant := ⟨BitVec.ofNat 48 (secOf t), BitVec.ofNat 32 (nsOf t), BitVec.ofNat 16 (fracOf t)⟩

/-- ALIGN_STATE is LOCKED (Table 04-5). -/
def Hub.locked (h : Hub) : Bool := h.tm.align == .locked

/-! ## Replies (Tables 13-2 and 14-1) -/

def St.ok : Nat := 0
def St.busy : Nat := 1
def St.late : Nat := 2
def St.badArg : Nat := 3
def St.isSealed : Nat := 4
def St.notFound : Nat := 5
def St.cached : Nat := 6
def St.abandoned : Nat := 7
def St.fault : Nat := 8
def St.unsupported : Nat := 9
def St.budget : Nat := 10
def St.duplicateTag : Nat := 11

/-- The result that a Krenmail command leaves for its response. -/
def Hub.withReply (h : Hub) (r : Reply) : Hub := { h with mgmt := { h.mgmt with reply := r } }

/-- A scheduled action by its id. -/
def Hub.findAction (h : Hub) (id : Word) : Option Action := h.mgmt.actions.find? fun (a : Action) => a.id == id

/-- OK with a payload. -/
def Hub.ok (h : Hub) (p : Bytes) : Hub := h.withReply ⟨St.ok, 0, 255, p⟩

/-- A status that is not OK, with nothing changed. -/
def Hub.refuse (h : Hub) (status : Nat) : Hub := h.withReply ⟨status, 0, 255, []⟩

/-- A status with the die behind it (FAIL_DIE of Table 13-2). -/
def Hub.refuseDie (h : Hub) (status die : Nat) : Hub := h.withReply ⟨status, 0, die, []⟩

/-- BUSY with RETRY_AFTER, never below 1 ms (R369). -/
def Hub.busy (h : Hub) (ms : Nat) : Hub := h.withReply ⟨St.busy, max 1 ms, 255, []⟩

/-- BUSY with the die behind it. -/
def Hub.busyDie (h : Hub) (ms die : Nat) : Hub := h.withReply ⟨St.busy, max 1 ms, die, []⟩

/-- Checks in order, each a status and the dies that fail it, 255 where no die is behind it: the first that fails refuses the request
with the lowest die, and nothing changes (R64, R359). -/
def Hub.checked (h : Hub) (tests : List (Nat × List Nat)) (k : Hub) : Hub :=
  match tests.find? fun t => !t.2.isEmpty with
  | some t => h.refuseDie t.1 ((leastOf t.2).getD 255)
  | none => k

/-- Dies that fail a check: all behind none of them. -/
def noDie (bad : Bool) : List Nat := if bad then [255] else []

/-- Goes on when none of the named dies is out of service or frozen; otherwise FAULT with the lowest (R380). -/
def Hub.onDies (h : Hub) (dies : List Nat) (k : Hub) : Hub :=
  match leastOf (dies.filter h.dieDown) with
  | some d => h.refuseDie St.fault d
  | none => k

/-- A D command: a die the variant lacks is BAD_ARG, a die that is down FAULT (R359), then the command on each die; a refusal by any die
refuses it on all, the lowest named (R359). -/
def Hub.overMask (h : Hub) (down : Nat → Bool) (dies : List Nat) (check : Nat → Option Nat) (k : List Nat → Hub) : Hub :=
  let ds := h.named dies
  if ds.any (fun d => decide (h.nDies ≤ d)) then h.refuse St.badArg
  else match leastOf (ds.filter down) with
    | some d => h.refuseDie St.fault d
    | none =>
      match ds.find? (fun d => (check d).isSome) with
      | some d => h.refuseDie ((check d).getD St.badArg) d
      | none => k ds

/-- A D command that changes its dies: one that is out of service or frozen answers FAULT (R359, R380, R420). -/
def Hub.onMask (h : Hub) (dies : List Nat) (check : Nat → Option Nat) (k : List Nat → Hub) : Hub := h.overMask h.dieDown dies check k

/-- A D command that reads its dies: one that is out of service answers FAULT (R359). -/
def Hub.readMask (h : Hub) (dies : List Nat) (k : List Nat → Hub) : Hub :=
  h.overMask (fun d => !(h.die d).inService) dies (fun _ => none) k

/-- A channel set that a command acts on: not empty, and every channel present (R379). -/
def Hub.badChs (h : Hub) (chs : List Nat) : Bool := chs.isEmpty || chs.any (fun c => decide (h.nChans ≤ c))

/-- The next argument of a free value. -/
def Hub.tick (h : Hub) : Hub := { h with fresh := h.fresh + 1 }

/-! ## Units of records (Table 15-5) -/

def unitWord (typ id : Nat) : Word := BitVec.ofNat 32 (typ * 2 ^ 28 + id % 2 ^ 28)
def unitChan (c : Nat) : Word := unitWord 0 c
def unitLane (p l : Nat) : Word := unitWord 1 (4 * p + l)
def unitEngine (d e : Nat) : Word := unitWord 2 (136 * d + e)
def unitDie (d : Nat) : Word := unitWord 3 d
def unitPage (d pg : Nat) : Word := unitWord 6 (3072 * d + pg)
def unitCore (d core : Nat) : Word := unitWord 7 (2 * d + core)
def unitOct (o : Nat) : Word := unitWord 8 o
def unitPort (p : Nat) : Word := unitWord 9 p
def unitCap (n : Nat) : Word := unitWord 10 n
def unitHub : Word := unitWord 12 0
def unitAudit (d : Nat) : Word := unitWord 13 d

/-! ## Items and packets (R14, R246, R247) -/

/-- Bytes of an item on the wire: header and payload in whole words. -/
def Item.size (i : Item) : Nat := 8 + 4 * ceilDiv i.payload.length 4

/-- The item's bytes (Table 00-5). -/
def Item.bytes (i : Item) : Bytes :=
  be 8 (i.typ * 2 ^ 56 + i.stream % 4096 * 2 ^ 44 + ceilDiv i.payload.length 4 % 4096 * 2 ^ 32 + i.first % 2 ^ 32) ++
    i.payload ++ pad (4 * ceilDiv i.payload.length 4 - i.payload.length)

def itemsSize (l : List Item) : Nat := (l.map Item.size).sum

/-- A packet's bytes on its link: header and pail contents (R247). -/
def Packet.size (p : Packet) : Nat := 32 + itemsSize p.items

/-- FLOW of Table 09-7. -/
def FlowKey.code (k : FlowKey) : Nat := k.die * 8192 + k.kind * 256 + k.inst

/-- The flow key that a FLOW word names. -/
def FlowKey.of (w : Nat) : FlowKey := ⟨w / 8192 % 8, w / 256 % 32, w % 256⟩

/-- The packet as the link carries it (Table 09-7). -/
def Packet.bytes (origin : Nat) (k : FlowKey) (p : Packet) : Bytes :=
  let body := p.items.flatMap Item.bytes
  let hd := be 2 origin ++ be 2 k.code ++ be 4 p.seq.toNat ++ be 2 (secHi p.covStart) ++ be 1 (eraOf p.covStart) ++
    be 1 (if p.resent then 1 else 0) ++ stampB p.covStart ++ be 4 ((p.covEnd - p.covStart) / 1024) ++
    be 2 (body.length / 4) ++ pad 2
  hd ++ be 4 (crc32 (hd ++ body)).toNat ++ body

def Hub.findFlow (h : Hub) (k : FlowKey) : Option Flow := h.flows.find? (fun f => f.key == k)

def Hub.setFlow (h : Hub) (k : FlowKey) (g : Flow → Flow) : Hub :=
  { h with flows := h.flows.map fun f => if f.key == k then g f else f }

/-- The flow is retained in the spool: SKIM, RED, DET and HK routed to P00 (Table 09-2, R210). -/
def Flow.spooled (f : Flow) : Bool := decide (f.key.kind ≤ 3) && f.dest == .port 0

/-- What the flow's yoke cannot take stays behind it: in the spool, or for COACH in the coach area (R204, R253). -/
def Flow.retained (f : Flow) : Bool := f.spooled || f.key.kind == 4

/-- The builder has no pail to close a packet into: a flow that is not retained has two closed pails, or is stopped, or the
reserve of LIMIT is full (R212, R251, R254, R263; log entry 26). A backlog that a change of route has left behind the yoke stands in line before
it (R391). -/
def Flow.full (f : Flow) : Bool := f.stuck || f.dest == .off || (!f.retained && decide (2 ≤ f.yoke.length + f.backlog.length))

/-- Packets that the spool holds for the flow: what waits for P00, and what P00 carries or has carried and is not acknowledged, wherever the flow
goes now (R210, R253, R391). -/
def Flow.content (f : Flow) : List Packet :=
  let sent := f.held ++ f.resend.filter (fun p => !(f.held.any fun q => q.seq == p.seq))
  (if f.spooled then f.yoke ++ f.backlog else []) ++ sent ++
    ((f.past.filter fun x => x.1 == 0 && !(sent.any fun q => q.seq == x.2.seq)).map Prod.snd)

/-- Spool occupancy of a die in bytes (R210). -/
def Hub.spoolBytes (h : Hub) (d : Nat) : Nat :=
  ((h.flows.filter fun f => f.key.die == d && decide (f.key.kind ≤ 3)).map fun f => (f.content.map Packet.size).sum).sum

/-- Spool pages of a die, less those that have left it (R191). -/
def Store.spoolPages (s : Store) : Nat := fld s.part 27 16 - s.lostSpool

/-- The next state of a die's spool at an occupancy (Table 07-11). -/
def Store.spoolNext (s : Store) (occ : Nat) : SpoolState :=
  let size := s.spoolPages * 16384
  let limit := size - 4 * 16384
  match s.spool with
  | .fullRate =>
    if limit ≤ occ then .limit else if fld s.wm 15 8 * size ≤ 100 * occ then .redOnly else .fullRate
  | .redOnly =>
    if limit ≤ occ then .limit else if 100 * occ < fld s.wm 7 0 * size then .fullRate else .redOnly
  | .limit => if occ < limit then .redOnly else .limit

/-- A FLUSH item (Table 09-5). -/
def flushItem (n : FlushNote) : Item :=
  ⟨4, 4095, 0, be 4 n.seqFirst.toNat ++ be 4 n.seqCount ++ be 6 (secOf n.covStart) ++ be 4 (nsOf n.covStart) ++
    be 6 (secOf n.covEnd) ++ be 4 (nsOf n.covEnd) ++ be 1 (if n.hard then 1 else 0) ++ pad 1 ++
    be 2 (sat 16 n.cutWords)⟩

/-- What the next packet of a flow opens with: a FLUSH item, then what waits to stand first (R261). -/
def Flow.opening (f : Flow) : List Item :=
  (match f.flush with | some n => [flushItem n] | none => []) ++ f.lead

/-- An ERA item (Table 04-2). -/
def eraItem (t cause : Nat) : Item := ⟨2, 4095, 0, be 2 (secHi t) ++ be 1 (eraOf t) ++ be 1 cause ++ pad 4⟩

/-- The ERA item that a packet opens with where it begins a new era (R98). -/
def eraLead (old new : Nat) : List Item := if eraAll old == eraAll new then [] else [eraItem new 1]

/-- Closes the filling packet of a flow at an instant: SEQ assigned, header fields set, and the packet put into the yoke; a retained
flow whose other pail is not empty, and one that has backlog, puts it into the backlog (R246, R251, R253). Where there is no pail for it
coverage runs on. -/
def Flow.close (f : Flow) (till : Nat) : Flow :=
  if f.full then f
  else
    let p : Packet := ⟨f.nextSeq, f.covStart, till, f.opening ++ f.filling, false, none, f.since⟩
    let g := { f with filling := [], lead := eraLead f.covStart till, flush := none, covStart := till, since := till, era := eraAll till,
                      nextSeq := f.nextSeq + 1, dest := f.destNext.getD f.dest, destNext := none }
    if (f.retained && !f.yoke.isEmpty) || !f.backlog.isEmpty then { g with backlog := f.backlog ++ [p] }
    else { g with yoke := f.yoke ++ [p] }

/-- The first instant of a whole ns after t: where coverage that holds a record of instant t ends. -/
def nsAfter (t : Nat) : Nat := (t / 1024 + 1) * 1024

/-- Where a packet that a record of instant t no longer fits ends: at the ns of t, and 1 ns after its start at least (R247; log entry
131). -/
def nsUpTo (start t : Nat) : Nat := max (start + 1024) (t / 1024 * 1024)

/-- A GAP item (Table 09-4). -/
def gapItem (stream t0 t1 cause : Nat) : Item :=
  ⟨3, stream, 0, be 6 (secOf t0) ++ be 4 (nsOf t0) ++ be 6 (secOf t1) ++ be 4 (nsOf t1) ++ be 1 cause ++ pad 3⟩

/-- A RATE item (Table 09-6): the rate as num / den samples a second. -/
def rateItem (stream num den words cause : Nat) : Item :=
  ⟨5, stream, 0, be 8 (if den = 0 then 0 else num * 2 ^ 32 / den) ++ be 1 words ++ be 1 cause ++ pad 6⟩

/-- Starts a flow at an instant: SEQ 0 carries an ERA item of cause 0 (R98, R246, R250). -/
def Flow.start (f : Flow) (t : Nat) : Flow :=
  if f.started then f
  else
    let c := if f.key.kind = 0 ∨ f.key.kind = 5 then t / (f.sw * 1024000) * (f.sw * 1024000) else t / 1024000000 * 1024000000
    { f with started := true, covStart := c, since := c, era := eraAll c, lead := eraItem c 0 :: f.lead }

/-- The end of the era that holds an instant (R97). -/
def eraEnd (t : Nat) : Nat := (t / (2 ^ 24 * fuSec) + 1) * (2 ^ 24 * fuSec)

/-- Closes a packet whose coverage has reached 1 s, or the era's end (R246); where there is no pail for it the packet stays open. -/
def Flow.advance1 (now : Nat) (f : Flow) : Flow :=
  let till := min (f.covStart + fuSec) (eraEnd f.covStart)
  if now < till then f
  else
    f.close till

/-- Closes every packet that is due by an instant without anything put into it (R246). -/
def Flow.advance (now : Nat) (f : Flow) : Flow :=
  if !f.started then f else iter (Flow.advance1 now) ((now - f.covStart) / fuSec + 2) f

/-- Bytes that the open packet has room for (R246, R251). -/
def Flow.fits (f : Flow) (n : Nat) : Bool := decide (itemsSize f.opening + itemsSize f.filling + n ≤ 16384)

/-- Puts an item where it stands at an instant: after what the filling packet holds, or at its front; a packet without room for it closes
first (R98, R246). -/
def Flow.mark (f : Flow) (t : Nat) (i : Item) : Flow :=
  if !f.started then f
  else
    let f := if f.fits i.size then f else f.close (nsUpTo f.covStart t)
    if f.filling.isEmpty then { f with lead := f.lead ++ [i] } else { f with filling := f.filling ++ [i] }

/-- The CAUSE of an ERA item; none of another. -/
def Item.eraCause (i : Item) : Option Nat := if i.typ == 2 then some (i.payload.getD 3 0).toNat else none

/-- A GAP item of a flow stands first in its next packet, behind the ERA item that SEQ 0 opens with and the GAP items of earlier intervals (R250,
R254; log entry 180). -/
def Flow.leadGap (g : Item) (f : Flow) : Flow :=
  let p := f.lead.span fun i => i.eraCause == some 0 || (i.typ == 3 && i.stream == 4095)
  { f with lead := p.1 ++ g :: p.2 }

/-- States a discarded interval in the packet that is next, where the builder has a pail again (R254, R263). -/
def Flow.stateGap (f : Flow) (till : Nat) : Flow :=
  match f.gapFrom with
  | some (t0, c) => if f.full then f else { f.leadGap (gapItem 4095 t0 till c) with gapFrom := none }
  | none => f

/-- Why a flow has no pail: no port, or a full yoke (R254, R263). -/
def Flow.gapCause (f : Flow) : Nat := if f.dest == .off then 4 else 5

/-- An interval that the builder discards for want of a pail joins the one that waits to be stated; where the cause is another, the interval so far
is stated and a new one begins (R254, R263). -/
def Flow.gapOn (f : Flow) (s b : Nat) : Flow :=
  match f.gapFrom with
  | none => { f with gapFrom := some (s, f.gapCause), gapTill := b }
  | some (t0, c) =>
    if c = f.gapCause then { f with gapFrom := some (min t0 s, c), gapTill := max f.gapTill b }
    else { f.leadGap (gapItem 4095 t0 (max t0 s) c) with gapFrom := some (max t0 s, f.gapCause), gapTill := b }

/-- A record that the builder has no pail for is discarded and counted, and the interval from the start of its block is stated later (R254). -/
def Flow.discard (f : Flow) (now since : Nat) : Flow := { f.gapOn since now with discarded := f.discarded + 1 }

/-- The packet that a record of this same instant has closed takes more of them, until it begins on the link: its coverage holds the instant
(R246). -/
def Flow.reopen (f : Flow) (now : Nat) : Flow :=
  let open' (p : Packet) (g : Flow) : Flow :=
    if f.filling.isEmpty && p.covEnd == f.covStart && p.covEnd == nsAfter now && p.seq + 1 == f.nextSeq && eraAll p.covStart == eraAll p.covEnd &&
        !(f.sending.any fun s => s.seq == p.seq) then
      { g with nextSeq := p.seq, covStart := p.covStart, since := p.since, era := eraAll p.covStart, filling := p.items ++ f.lead, lead := [] }
    else f
  match f.backlog.getLast?, f.yoke.getLast? with
  | some p, _ => open' p { f with backlog := f.backlog.dropLast }
  | none, some p => open' p { f with yoke := f.yoke.dropLast }
  | none, none => f

/-- A record of a block from `since` joins the filling packet, which closes once its coverage has reached 1 ms (R246). -/
def Flow.join (f : Flow) (now since : Nat) (i : Item) : Flow :=
  let f := { f with filling := f.filling ++ [i], since := min f.since since }
  if 1024000000 ≤ now - f.covStart then f.close (nsAfter now) else f

/-- Puts an item of a record flow into the filling packet, first closing a packet that it would not fit, and after it
closing a packet whose coverage has reached 1 ms (R246). While the yoke of a flow that is not retained is full, the item is
discarded and counted (R254). -/
def Flow.put (f : Flow) (now since : Nat) (i : Item) : Flow :=
  if !f.started then f
  else
    let r := f.reopen now
    if r.fits i.size && r.covStart != f.covStart then r.join now since i
    else
      let f := (f.stateGap now).advance now
      if !f.retained && f.full then f.discard now since
      else
        let g := if f.fits i.size then f else f.close (nsUpTo f.covStart now)
        if g.full && !(g.retained && g.fits i.size) then g.discard now since else g.join now since i

/-- What is no sample and no record: ERA, GAP, FLUSH and RATE items, which the reserve may hold (R210). -/
def Item.isNote (i : Item) : Bool := [2, 3, 4, 5].contains i.typ

/-- Records among items that leave their flow unsent are not carried: each stream's count is lower by them (R168, R208). -/
def Flow.uncount (l : List Item) (f : Flow) : Flow :=
  if f.key.kind = 0 then f
  else { f with records := f.records.map fun p => (p.1, p.2 - (l.filter fun (i : Item) => i.typ == 1 && i.stream == p.1).length) }

/-- The newest packet is taken back before it begins on the link: its SEQ is free again and its coverage open; what is no data
stands in the next packet, and LIMIT's uncovered interval begins with the earliest block that it held (R210, R212). -/
def Flow.unclose (f : Flow) : Flow :=
  let undo (p : Packet) (g : Flow) : Flow :=
    { g.uncount (p.items ++ f.filling) with
        nextSeq := p.seq, covStart := p.covStart, since := min p.since f.since, era := eraAll p.covStart, filling := [],
        lead := p.items.filter Item.isNote ++ f.lead.filter (fun i => i.eraCause != some 1) ++ f.filling.filter Item.isNote }
  match f.backlog.getLast?, f.yoke.getLast? with
  | some p, _ => undo p { f with backlog := f.backlog.dropLast }
  | none, some p => undo p { f with yoke := f.yoke.dropLast }
  | none, none => f

/-- Where the SEQ of each flow stands: what closes from now on has these and later ones. -/
abbrev Seqs := List (FlowKey × Word)
def Hub.seqs (h : Hub) : Seqs := h.flows.map fun f => (f.key, f.nextSeq)

/-- The newest packet holds data and has only now closed, since `was`: one that the spool has retained before stays (R27, R210). -/
def Flow.canUnclose (f : Flow) (was : Seqs) : Bool :=
  match (f.yoke ++ f.backlog).getLast?, was.find? fun x => x.1 == f.key with
  | some p, some (_, first) => f.spooled && decide (f.key.kind ≤ 2) && p.items.any (fun i => !i.isNote) &&
      !(f.sending.any fun s => s.seq == p.seq) && decide ((p.seq - first).toNat < (f.nextSeq - first).toNat)
  | _, _ => false

/-- LIMIT begins for a flow: the data of its open packet and sweep is not built, and the interval not covered begins with the earliest block that it
holds (R210, R212). RATE changes of the sweep stand as items. -/
def Flow.toLimit (f : Flow) (from' : Nat) : Flow :=
  if f.started && f.spooled && decide (f.key.kind ≤ 2) then
    { f.uncount f.filling with
             limitFrom := some (f.limitFrom.getD ((f.sweep.map (·.since)).foldl min (min (min f.covStart f.since) from'))),
             since := f.covStart, filling := [],
             lead := f.lead ++ f.filling.filter Item.isNote ++
               (f.sweep.filter fun x => x.wsize == 4).map fun x => (⟨5, x.stream, 0, x.bytes⟩ : Item),
             sweep := [] }
  else f

/-- Skim words per sample of the applied descriptor (R146): two for DEMOD_OUT 1 and 3. -/
def Chan.words (c : Chan) : Nat := if bitOf c.desc.ctl 15 && bitOf c.desc.ctl 13 then 2 else 1

/-- The instant from which LIMIT leaves a flow's streams uncovered at the latest: the first sample of a churn block or of a reduction block in
progress, or now (R212, R291). -/
def Hub.openFrom (h : Hub) (k : FlowKey) : Nat :=
  let from' (c : Nat) : Nat :=
    let x := h.ch c
    if k.kind = 0 then match x.churnSkim with
      | some u => if u.block.isEmpty then h.tm.now else u.firstAt
      | none => h.tm.now
    else if k.kind = 1 && x.skimEn && x.red.block.isSome then x.red.start
    else h.tm.now
  (((List.range 128).map (128 * k.die + ·)).map from').foldl min h.tm.now

/-- The die that builds a channel's SKIM and RED: its own, or the lead where its die is out of service (R412). -/
def Hub.builder (h : Hub) (c : Nat) : Nat := if (h.die (chDie c)).faulted then h.boot.lead else chDie c

/-- After a change of a die's spool content: the state of Table 07-11, and what entering or leaving a state begins for the
die's skim (R211, R212): in RED_ONLY skim ends at each channel's next block, in LIMIT at once, and on return to FULL_RATE
it resumes with the next block unless thermal shedding holds it (R459). Packets of data that have closed since `was` may be too much for the data
limit (R210). DESIGN CHOICE (log entry 164): the states hold for the flows that the spool retains. -/
def Hub.spoolTouch (h : Hub) (d : Nat) (was : Seqs) : Hub :=
  let st := (h.die d).store
  let size := st.spoolPages * 16384
  let nx := st.spoolNext (h.spoolBytes d)
  let h0 := h
  let h :=
    if nx = st.spool then h
    else
      let h := h.setDie d fun x => { x with store := { x.store with spool := nx } }
      let mine (c : Nat) : Bool := h.builder c == d
      let spooled := (h.findFlow ⟨d, 0, 0⟩).any Flow.spooled
      match nx with
      | .redOnly =>
        let h := h.mapCh fun c x => if mine c && spooled then { x with skimStart := none, skimStop := if x.skimBuilt then some (x.skimStop.getD 1) else x.skimStop } else x
        -- LIMIT is left: each flow states what it did not cover
        { h with flows := h.flows.map fun f =>
            match f.limitFrom with
            | some t0 => if f.key.die == d then { f with limitFrom := none, lead := f.lead ++ [gapItem 4095 t0 h.tm.now 1] } else f
            | none => f }
      | .limit =>
        -- data content over the limit is not retained, and no data is built any more
        let tooFull (h : Hub) : Bool := decide (size - 4 * 16384 < h.spoolBytes d)
        let newest (h : Hub) : Option Flow := (h.flows.filter fun f => f.key.die == d && f.canUnclose was).foldl
          (fun (o : Option Flow) f => match o with
            | none => some f
            | some g => if g.covStart ≤ f.covStart then some f else o) none
        let h := iter (fun (h : Hub) => if tooFull h then (match newest h with | some f => h.setFlow f.key Flow.unclose | none => h) else h)
          (h.flows.length + was.length * 8 + 1) h
        let h := { h with flows := h.flows.map fun (f : Flow) => if f.key.die == d then f.toLimit (h.openFrom f.key) else f }
        let h := h.mapCh fun c x =>
          if mine c && spooled then
            { x with skimBuilt := false, skimStop := none, skimStart := none,
                     churnSkim := x.churnSkim.map fun (u : ChurnUse) => { u with block := [], fresh := true } }
          else x
        h.setFlow ⟨d, 0, 0⟩ fun f =>
          (((List.range h.nChans).filter fun c => mine c && spooled && (h0.ch c).skimBuilt && (h0.ch c).skimEn).foldl
            (fun f c => f.mark h.tm.now (rateItem c 0 1 (h0.ch c).words 1)) f)
      | .fullRate => h.mapCh fun c x =>
          if mine c && h.pwr.shed < 5 && !x.skimBuilt then { x with skimStart := some 2 }
          -- a stop that thermal shedding holds stays (R459)
          else if mine c && h.pwr.shed < 5 then { x with skimStop := none } else x
  let full := nx = .limit && decide (size ≤ h.spoolBytes d + 32)
  { h with flows := h.flows.map fun f => if f.key.die == d && f.spooled then { f with stuck := full } else f }

/-! ## Watermarks (R256 to R258) -/

/-- Queues a control block for a port (R332). -/
def Hub.ctl (h : Hub) (p code payload : Nat) : Hub := h.setLink p fun k => { k with ctl := k.ctl ++ [⟨code, payload⟩] }

/-- Bytes that wait for a port (R256). -/
def Hub.portOcc (h : Hub) (p : Nat) : Nat :=
  ((h.flows.filter fun f => f.dest == .port p).map fun f =>
    ((f.yoke ++ f.backlog ++ f.resend).map Packet.size).sum).sum

/-- Bytes in the closed pails of the flow on the local window (R256). -/
def Hub.localOcc (h : Hub) : Nat :=
  (match h.strm.localFlow with
   | none => 0
   | some k => match h.findFlow k with
     | none => 0
     | some f => ((f.yoke.filter fun p => !(f.sending.any fun s => s.seq == p.seq)).map fun p => itemsSize p.items).sum) +
    4 * h.strm.win.words.length + itemsSize h.strm.win.items

/-- Asserted from HI until LO (R256). -/
def wmNext (wm : Word) (hi : Bool) (occ : Nat) : Bool :=
  if hi then decide (fld wm 15 0 * 1024 < occ) else decide (fld wm 31 16 * 1024 ≤ occ)

/-- The level of FCOn (R258). -/
def Hub.fcoLevel (h : Hub) (n : Nat) : Bool :=
  let w := h.strm.fc.getD n 0
  let hi := if bitOf w 5 then h.strm.win.hi else (h.prt (fld w 4 0)).hi
  (bitOf w 31 && hi) != bitOf w 29

/-- The supply of a pin bank, 0 VIO_A and 1 VIO_B: inputs of a bank without it read low, its outputs are at high impedance (R503). -/
def Hub.vio (h : Hub) (bank : Nat) : Bool := if bank = 0 then h.pwr.vioA else h.pwr.vioB

/-- What an output pin of a bank drives; none at high impedance (R503). -/
def Hub.drives (h : Hub) (bank : Nat) (level : Bool) : Option Bool := if h.vio bank then some level else none

/-- FCOn at its pin (R258, R503). -/
def Hub.fcoPin (h : Hub) (n : Nat) : Option Bool := h.drives 0 (h.fcoLevel n)

/-- BYP_EN drives low while the coupler is open and is released while it is closed, on VKEEP (R327). -/
def Hub.bypEnLow (h : Hub) : Bool := !h.flt.closed && h.pwr.vkeepOk

/-- Bytes of STREAM frames that wait to be forwarded through a port. -/
def Port.fwdOcc (q : Port) : Nat := ((q.link.queues.getD 3 []).map fun f => 8 * (2 + ceilDiv f.body.length 8)).sum

/-- What PAUSE states to the peer of a port: on P01 and the branches that P00 is between HI and LO; on P00 that a port which P00's
traffic is forwarded to is (R22, R257; log entry 132). -/
def Hub.pauses (h : Hub) (p : Nat) : Bool :=
  if p = 0 then (List.range h.nPorts).any fun i => i != 0 && (h.prt i).st == .up && ((h.prt i).hi || (h.prt i).fwdHi)
  else (h.prt 0).hi

/-- Brings every watermark state up to date: a change sends PAUSE on the hub-mode ports that are UP and whose traffic goes to the
port concerned, and the FCO pins follow (R257, R258). -/
def Hub.watermarks (h : Hub) : Hub :=
  let h := { h with ports := h.ports.mapIdx fun p (q : Port) =>
    { q with hi := wmNext q.wm q.hi (h.portOcc p), fwdHi := p != 0 && wmNext q.wm q.fwdHi q.fwdOcc } }
  let win : LocalWin := { h.strm.win with hi := wmNext h.strm.localWm h.strm.win.hi h.localOcc }
  let h := { h with strm := { h.strm with win := win } }
  let h := forAll (List.range h.nPorts) (fun i h =>
      let now := h.pauses i
      if (h.prt i).st == .up && (h.prt i).link.pauseTx != now then
        (h.setLink i fun k => { k with pauseTx := now }).ctl i 0x33 (if now then 2 ^ 55 else 0)
      else h) h
  { h with strm := { h.strm with fco := (List.range 4).map h.fcoLevel } }

/-- After a change of what a die's flows hold that closes no packet. -/
def Hub.flowTouch (h : Hub) (d : Nat) : Hub := (h.spoolTouch d []).watermarks

/-- After a die's builders may have closed packets, since `was`. -/
def Hub.flowBuilt (h : Hub) (d : Nat) (was : Seqs) : Hub := (h.spoolTouch d was).watermarks

/-- The record flows of data of a die are not built: SKIM, RED and DET in LIMIT, where the spool retains them (R210, R212). -/
def Hub.limited (h : Hub) (f : Flow) : Bool := (h.die f.key.die).store.spool == .limit && decide (f.key.kind ≤ 2) && f.spooled

/-- Records of a stream that a flow has carried. -/
def Flow.recordsOf (f : Flow) (stream : Nat) : Nat := ((f.records.find? fun p => p.1 == stream).map Prod.snd).getD 0

def Flow.setRecords (f : Flow) (stream n : Nat) : Flow :=
  { f with records := (f.records.filter fun p => p.1 != stream) ++ [(stream, n)] }

/-- A record put into a flow now, with FIRST, the number of records that the stream has carried; one that finds no pail is not carried (R168,
R208, R254, R426). `since` is the start of the block that it is of. -/
def Flow.record (f : Flow) (now since stream : Nat) (rcd : Bytes) : Flow :=
  let n := f.recordsOf stream
  let g := f.put now since ⟨1, stream, n % 2 ^ 32, rcd⟩
  if f.started && g.discarded == f.discarded then g.setRecords stream (n + 1) else g

/-- Emits a record of a stream about a block from `since` on; in LIMIT a die builds only ERA, RATE, GAP and HK items (R210, R212). -/
def Hub.emitSince (h : Hub) (k : FlowKey) (stream : Nat) (rcd : Bytes) (since : Nat) : Hub :=
  match h.findFlow k with
  | none => h
  | some f =>
    if h.limited f then h
    else ((h.setFlow k fun g => g.record h.tm.now since stream rcd).spoolTouch k.die [(k, (f.reopen h.tm.now).nextSeq)]).watermarks

/-- Emits a record of the present instant. -/
def Hub.emitRecord (h : Hub) (k : FlowKey) (stream : Nat) (rcd : Bytes) : Hub := h.emitSince k stream rcd h.tm.now

/-! ## HK records (R426, R427) -/

/-- The HK flow is built by the lead die (R353). -/
def Hub.hkKey (h : Hub) : FlowKey := ⟨h.boot.lead, 3, 0⟩

/-- In LIMIT the reserve of four pages has no room for n bytes more in the open HK packet (R212). -/
def Hub.reserveFull (h : Hub) (n : Nat) : Bool :=
  let d := h.boot.lead
  let open' := match h.findFlow h.hkKey with
    | some f => itemsSize f.opening + itemsSize f.filling
    | none => 0
  (h.die d).store.spool = .limit && decide ((h.die d).store.spoolPages * 16384 < h.spoolBytes d + 32 + open' + n)

/-- A record of the HK stream: header of Table 15-4 and payload. RSEQ advances. Before the flow starts a record waits (log entry 140). -/
def Hub.hkRecord (h : Hub) (t kind : Nat) (payload : Bytes) : Hub :=
  let hd := be 2 kind ++ be 2 payload.length ++ be 4 h.hk.rseq.toNat ++ stampB t
  let h := { h with hk := { h.hk with rseq := h.hk.rseq + 1 } }
  if (h.findFlow h.hkKey).any Flow.started then h.emitRecord h.hkKey 2320 (hd ++ payload)
  else { h with hk := { h.hk with early := h.hk.early ++ [hd ++ payload] } }

/-- The HK flow starts, with the records that waited for it (R246). -/
def Hub.startHk (h : Hub) : Hub :=
  let l := h.hk.early
  let h := { h with hk := { h.hk with early := [] } }
  forAll l (fun b h => h.emitRecord h.hkKey 2320 b) (h.setFlow h.hkKey fun f => f.start h.tm.now)

/-- The payload of an EVENT record (Table 15-5). -/
def eventB (unit : Word) (code cls count : Nat) (arg0 arg1 : Word) : Bytes :=
  be 4 unit.toNat ++ be 2 code ++ be 1 cls ++ be 1 (sat 8 count) ++ be 4 arg0.toNat ++ be 4 arg1.toNat

/-- Writes an HK record of a kind with a stamp. One that finds the reserve full is dropped and counted; the count travels in an HK_DROP
ahead of the next record that finds room (R212, Table 15-6). -/
def Hub.recordAt (h : Hub) (t kind : Nat) (payload : Bytes) : Hub :=
  if h.reserveFull (24 + payload.length + if h.hk.dropped = 0 then 0 else 48) then
    { h with hk := { h.hk with dropped := h.hk.dropped + 1, rseq := h.hk.rseq + 1 } }
  else
    let h := if h.hk.dropped = 0 then h
      else ({ h with hk := { h.hk with dropped := 0 } }).hkRecord h.tm.now 1 (eventB unitHub 0x0404 0 1 (BitVec.ofNat 32 (sat 32 h.hk.dropped)) 0)
    h.hkRecord t kind payload

/-- A record stamped with the present array time. -/
def Hub.record (h : Hub) (kind : Nat) (payload : Bytes) : Hub := h.recordAt h.tm.now kind payload

/-- Sets bits of DBW_IRQ_STAT that stay until written (Table 13-9). -/
def Hub.raise (h : Hub) (bit : Nat) : Hub := { h with dbw := { h.dbw with irq := h.dbw.irq ||| BitVec.ofNat 8 (2 ^ bit) } }

/-- Queues a ring entry of the logbook; a full queue of 64 counts it instead (R488, R489). -/
def Hub.logEntry (h : Hub) (t : Nat) (event : Bytes) : Hub :=
  if h.tag.queue.length < 64 then { h with tag := { h.tag with queue := h.tag.queue ++ [(t, event)] } }
  else { h with tag := { h.tag with lost := h.tag.lost + 1, dropped := satInc 32 h.tag.dropped } }

/-- Writes an EVENT record. A fault record (CLASS 1 to 4) is also kept for FLT_READ, counted in NEW_REC, raised in
DBW_IRQ_STAT and copied to the logbook's ring (R427). The count of dropped records travels ahead of it (R212). -/
def Hub.eventAt (h : Hub) (t : Nat) (unit : Word) (code cls count : Nat) (arg0 arg1 : Word) : Hub :=
  let h1 := h.recordAt t 1 (eventB unit code cls count arg0 arg1)
  let rs := h1.hk.rseq - 1
  if cls = 0 then h1
  else
    let r : EventRec := ⟨rs, t, unit, code, cls, sat 8 count, arg0, arg1⟩
    (({ h1 with hk := { h1.hk with faults := (r :: h1.hk.faults).take 1024, newRec := satInc 16 h1.hk.newRec } }).raise
      3).logEntry t (eventB unit code cls count arg0 arg1)

/-- An EVENT record stamped with the present array time. -/
def Hub.event (h : Hub) (unit : Word) (code cls count : Nat) (arg0 arg1 : Word) : Hub :=
  h.eventAt h.tm.now unit code cls count arg0 arg1

/-- A NOTICE (R427). -/
def Hub.notice (h : Hub) (unit : Word) (code : Nat) (arg0 arg1 : Word) : Hub := h.event unit code 0 1 arg0 arg1

/-- The timing lane runs: not on a port that is Off, parked or cut off by the coupler, and not where it is retired (R297, R299, R316). -/
def Port.ltRuns (q : Port) : Bool :=
  (match q.st with | .off | .parked | .bypassed => false | _ => true) && !(q.lanes.getD 3 Lane.reset).retired

/-- The line bits that a lane's injection inverts among its next n, the first in the most significant bit (R322). -/
def Lane.hits (l : Lane) (n : Nat) : BitVec n :=
  (List.range n).foldl (fun (acc : BitVec n) i =>
    let hit := decide (i < l.burst) || (fld l.test 22 20 == 3 && (l.sentBits + i) % 2 ^ fld l.test 5 0 == 0)
    (acc <<< 1) ||| BitVec.ofNat n (if hit then 1 else 0)) 0

/-- A lane has sent n bits that its injection may hit (R322). -/
def Lane.passHits (l : Lane) (n : Nat) : Lane := { l with burst := l.burst - n, sentBits := l.sentBits + n }

/-- A number as an argument of a record, 32 bits. -/
def argN (n : Nat) : Word := BitVec.ofNat 32 n
/-- A signed number as an argument of a record. -/
def argI (n : Int) : Word := BitVec.ofInt 32 n

/-- Sets LEVEL, raising LEVEL_CHG on a change (Table 13-9). -/
def Hub.setLevel (h : Hub) (l : Level) : Hub :=
  if h.boot.level = l then h else ({ h with boot := { h.boot with level := l } }).raise 4

/-- A change of ALIGN_STATE: a change to or from LOCKED is kept with its instant (R199). -/
def Tm.setAlign (t : Tm) (a : Align) : Tm :=
  { t with align := a, lockLog := if (a == .locked) == (t.align == .locked) then t.lockLog else (t.now, a == .locked) :: t.lockLog }

/-- ALIGN_STATE was LOCKED at an instant: the newest change at or before it; before the first there was none (Table 04-5). -/
def Tm.lockedAt (t : Tm) (at' : Nat) : Bool := ((t.lockLog.find? fun x => decide (x.1 ≤ at')).map Prod.snd).getD false

/-- Sets ALIGN_STATE, raising TIME_CHG on a change (Table 13-9). -/
def Hub.setAlign (h : Hub) (a : Align) : Hub :=
  if h.tm.align = a then h else ({ h with tm := h.tm.setAlign a }).raise 5

/-- Sets BASE_STATE, raising TIME_CHG on a change. -/
def Hub.setBase (h : Hub) (b : Base) : Hub :=
  if h.tm.base = b then h else ({ h with tm := { h.tm with base := b } }).raise 5

end Sys2Proof.Machine
end

