-- ==== Sys2Proof/Machine/Operands.lean ====
section
/-! DEFINITION. The fields of a channel's descriptor (02, 03, 05, 06), its rates, settling, headroom, engine load, and
the rules that a descriptor meets on its own. -/

namespace Sys2Proof.Machine

/-! ## Fields (Tables 02-6, 03-1, 05-3 to 05-6) -/

def Desc.mode (d : Desc) : Nat := fld d.afe.drive 2 0
def Desc.amp (d : Desc) : Nat := fld d.afe.drive 15 4
def Desc.zload (d : Desc) : Nat := if fld d.afe.load 31 16 = 0 then 250 else fld d.afe.load 31 16
def Desc.partner (d : Desc) : Nat := fld d.afe.load 9 0
def Desc.gain (d : Desc) : Nat := fld d.afe.input 2 0
def Desc.inSel (d : Desc) : Nat := fld d.afe.input 5 4
def Desc.leftAligned (d : Desc) : Bool := bitOf d.afe.input 6
def Desc.offsetBinary (d : Desc) : Bool := bitOf d.afe.input 7
def Desc.cmEn (d : Desc) : Bool := bitOf d.afe.cm 31
def Desc.cmDwell (d : Desc) : Nat := fld d.afe.cm 27 24
def Desc.cmHi (d : Desc) : Int := sfld d.afe.cm 17 9
def Desc.cmLo (d : Desc) : Int := sfld d.afe.cm 8 0
/-- EXC_MODE SINE or SLAVE_DRIVE: the driver drives (Table 02-2). -/
def Desc.drives (d : Desc) : Bool := d.mode == 1 || d.mode == 3
/-- EXC_MODE SLAVE or SLAVE_DRIVE: the reference is the partner's. -/
def Desc.slave (d : Desc) : Bool := d.mode == 2 || d.mode == 3
def Desc.nDiv (d : Desc) : Nat := fld d.conv 16 0
def Desc.audEn (d : Desc) : Bool := bitOf d.conv 31
def Desc.audTol (d : Desc) : Nat := fld d.conv 28 17
def Desc.demodEn (d : Desc) : Bool := bitOf d.ctl 15
def Desc.demodOut (d : Desc) : Nat := fld d.ctl 14 13
def Desc.cicEn (d : Desc) : Bool := bitOf d.ctl 12
def Desc.firEn (d : Desc) : Bool := bitOf d.ctl 11
def Desc.maEn (d : Desc) : Bool := bitOf d.ctl 10
def Desc.rsEn (d : Desc) : Bool := bitOf d.ctl 9
def Desc.cicK (d : Desc) : Nat := fld d.cic 18 16
def Desc.cicD (d : Desc) : Nat := if d.cicEn then fld d.cic 11 0 + 1 else 1
def Desc.firD (d : Desc) : Nat := if d.firEn then 2 ^ d.firDec else 1
def Desc.maL (d : Desc) : Nat := fld d.ma 15 0 + 1
def Desc.maBlock (d : Desc) : Bool := bitOf d.ma 31
def Desc.maD (d : Desc) : Nat := if d.maEn && d.maBlock then d.maL else 1
/-- The cumulative decimation M before the resampler (R149). -/
def Desc.decim (d : Desc) : Nat := d.cicD * d.firD * d.maD
/-- r as a fraction: RS_RATIO over 2^32, or 1 without the resampler. -/
def Desc.rsNum (d : Desc) : Nat := if d.rsEn then d.rs.toNat else 1
def Desc.rsDen (d : Desc) : Nat := if d.rsEn then 2 ^ 32 else 1
/-- ceil(32 / r), the span of the resampler (R144). -/
def Desc.rsSpan (d : Desc) : Nat := ceilDiv (32 * d.rsDen) d.rsNum
/-- Values that run through the stages after demodulation (R138). -/
def Desc.lanes (d : Desc) : Nat := if d.demodEn && d.demodOut != 0 then 2 else 1
/-- Skim words per sample (R146). -/
def Desc.words (d : Desc) : Nat := if d.demodEn && (d.demodOut == 1 || d.demodOut == 3) then 2 else 1
/-- The output is an amplitude (R145). -/
def Desc.amplitude (d : Desc) : Bool := d.demodEn && (d.demodOut == 2 || d.demodOut == 3)

def CoefSet.taps (c : CoefSet) : Nat := c.firTm1 + 1
def CoefSet.h (c : CoefSet) (n : Nat) : Int := sfld (c.firC.getD n 0) 17 0
def CoefSet.n0En (c : CoefSet) : Bool := bitOf c.n0q 31
def CoefSet.n1En (c : CoefSet) : Bool := bitOf c.n1q 31
def CoefSet.scaleM (c : CoefSet) : Int := sfld c.scale 31 8
def CoefSet.scaleE (c : CoefSet) : Int := sfld c.scale 5 0
def CoefSet.ofs (c : CoefSet) : Int := sfld c.offset 23 0
/-- Σ|h_n| over the taps, in units of 2^-16 (R147). -/
def CoefSet.absSum (c : CoefSet) : Nat := ((List.range c.taps).map fun n => (c.h n).natAbs).sum

/-! ## Rates: each a fraction of 125 MHz (R68, R133, R149) -/

/-- Reference cycles of a raw period, of the FIR's input, of the notches' input, of the resampler's input. -/
def Desc.cycF (d : Desc) : Nat := d.nDiv * d.cicD
def Desc.cycN (d : Desc) : Nat := d.nDiv * d.cicD * d.firD
def Desc.cycR (d : Desc) : Nat := d.nDiv * d.decim

/-- The skim rate as a fraction in samples a second. -/
def Desc.rate (d : Desc) : Nat × Nat := (125000000 * d.rsNum, d.cycR * d.rsDen)

/-- The period of raw samples in 1/1,024 ns. -/
def Desc.rawPeriod (d : Desc) : Nat := d.nDiv * fuCycle

/-- The instant of skim sample j in 1/1,024 ns, to the fine fraction (R149). -/
def Desc.skimInst (d : Desc) (j : Nat) : Nat :=
  if d.rsEn then j * 2 ^ 32 * d.cycR * fuCycle / d.rs.toNat else j * d.cycR * fuCycle

/-- The first skim index whose instant is at or after t (R123, R149). -/
def Desc.skimIdxAt (d : Desc) (t : Nat) : Nat :=
  ceilDiv (t * d.rsNum) (d.cycR * fuCycle * d.rsDen)

/-- The skim index that raw sample k completes, if it does (R143, R149). -/
def Desc.skimOf (d : Desc) (k : Nat) : Option Nat :=
  if k % d.decim ≠ 0 then none
  else
    let i := k / d.decim
    if d.rsEn then
      let j := ceilDiv (i * d.rs.toNat) (2 ^ 32)
      if j * 2 ^ 32 < (i + 1) * d.rs.toNat then some j else none
    else some i

/-! ## Settling (R152, Table 05-7) -/

/-- Settling of each stage 0 to 8 in its input samples; `ramp` is counted in raw samples. -/
def Desc.settles (d : Desc) (c : CoefSet) (ramp : Nat) : List (Nat × Nat) :=
  [(4 + ramp, d.nDiv), (0, d.nDiv),
   (if d.cicEn then d.cicK * d.cicD else 0, d.nDiv),
   (if d.firEn then c.taps - 1 else 0, d.cycF),
   (if c.n0En then notchSettle c.n0f.toNat (fld c.n0q 15 0) d.cycN else 0, d.cycN),
   (if c.n1En then notchSettle c.n1f.toNat (fld c.n1q 15 0) d.cycN else 0, d.cycN),
   (if d.maEn then d.maL else 0, d.cycN),
   (if d.rsEn then d.rsSpan else 0, d.cycR), (0, 1)]

/-- S of R152 for a change at stage j. -/
def Desc.settle (d : Desc) (j ramp : Nat) : Nat :=
  ceilDiv ((((d.settles d.coef ramp).drop j).map fun p => p.1 * p.2).sum * d.rsNum) (d.cycR * d.rsDen)

/-- 64 µs in raw samples, rounded up (R39, R152). -/
def Desc.rampRaw (d : Desc) (us : Nat) : Nat := ceilDiv (us * 125) d.nDiv

/-! ## Headroom (R147): bounds as fractions -/

/-- The bounds after each stage that changes the bound, in raw LSB as fractions. -/
def Desc.bounds (d : Desc) (c : CoefSet) : List (Nat × Nat) :=
  let b1 : Nat × Nat := if d.demodEn then (8448 * 2, 1) else (8448, 1)
  let b2 := if d.firEn then (b1.1 * c.absSum, b1.2 * 2 ^ 16) else b1
  let nt (en : Bool) (f q : Word) (b : Nat × Nat) : Nat × Nat :=
    if en then (b.1 * notchSum f.toNat (fld q 15 0) d.cycN, b.2 * 2 ^ 16) else b
  let b3 := nt c.n0En c.n0f c.n0q b2
  let b4 := nt c.n1En c.n1f c.n1q b3
  let b5 := if d.rsEn then (b4.1 * 106, b4.2 * 100) else b4
  [b1, b2, b3, b4, b5]

/-- The output bound of R147 in skim counts, rounded up (log entry 21). -/
def Desc.outBound (d : Desc) (c : CoefSet) : Nat :=
  let b := (d.bounds c).getLastD (0, 1)
  let e := (c.scaleE + 32).toNat
  let n := c.scaleM.natAbs * 2 ^ e * b.1
  let den := 2 ^ 54 * b.2
  (if d.amplitude then
    let r := isqrt (2 * n * n / (den * den))
    if r * r * den * den < 2 * n * n then r + 1 else r
   else ceilDiv n den) + c.ofs.natAbs

/-- Whether the descriptor's values can leave their fields (R147). -/
def Desc.overflows (d : Desc) (c : CoefSet) : Bool :=
  (d.bounds c).any (fun b => decide (32767 * b.2 < b.1)) ||
    (let b := (d.bounds c).getLastD (0, 1)
     let e := (c.scaleE + 32).toNat
     let n := c.scaleM.natAbs * 2 ^ e * b.1
     let den := 2 ^ 54 * b.2
     let room := 8388607 - c.ofs.natAbs
     if d.amplitude then decide (room * room * den * den < 2 * n * n) || decide (8388607 < c.ofs.natAbs)
     else decide (room * den < n) || decide (8388607 < c.ofs.natAbs))

/-! ## Engine load (R160, Table 05-8, Table 06-15) in cycles a second, as a fraction -/

/-- Sum of fractions. -/
def sumQ (l : List (Nat × Nat)) : Nat × Nat := l.foldl (fun a b => (a.1 * b.2 + b.1 * a.2, a.2 * b.2)) (0, 1)

def DetSec.kind (w : Word) : Nat := fld w 30 29
def DetSec.win (w : Word) : Nat := fld w 15 0 + 1

/-- The cost of one detector (Table 06-15). -/
def Desc.detCost (d : Desc) (w : Word) : List (Nat × Nat) :=
  let (n, m) := d.rate
  if !bitOf w 31 then []
  else match DetSec.kind w with
    | 0 => [(4 * n, m)]
    | 1 => [(6 * n, m), (60 * n, m * DetSec.win w)]
    | _ => [((if d.demodEn && d.demodOut == 1 then 46 else 6) * n, m)]

/-- The condition of the trigger unit is a detector's (Table 06-4). -/
def DetSec.onDet (s : DetSec) : Bool := decide (3 ≤ fld s.trg 30 28)
/-- The word of the detector that the condition names. -/
def DetSec.detWord (s : DetSec) : Word := if fld s.trg 30 28 ≤ 4 then s.deta else s.detb
/-- TAP is the skim (Table 06-4). -/
def DetSec.skimTap (s : DetSec) : Bool := bitOf s.trg 25

/-- The period of the unit's tap in 1/1,024 ns. -/
def Desc.tapPeriod (d : Desc) : Nat :=
  if d.det.skimTap then d.cycR * fuCycle * d.rsDen / d.rsNum else d.rawPeriod

/-- The cost of the trigger unit (Table 06-15). -/
def Desc.trgCost (d : Desc) : List (Nat × Nat) :=
  let t := d.det.trg
  let cond := fld t 30 28
  let (n, m) := if d.det.skimTap then d.rate else (125000000, d.nDiv)
  if !bitOf t 31 then []
  else if d.det.onDet then [(6 * d.rate.1, d.rate.2 * DetSec.win d.det.detWord)]
  else
    let per := if cond = 0 then 6 else 8
    let interp := cond ≤ 1 && !bitOf t 23
    let c := if bitOf t 24 then 60 else 20
    let trigs : Nat × Nat := if n ≤ 1000000 * m then (n, m) else (1000000, 1)
    (per * n, m) :: (if interp then [(c * trigs.1, trigs.2)] else [])

/-- The cost of the stages from stage `j` on, without control and intake. -/
def Desc.stageCost (d : Desc) (c : CoefSet) (j : Nat) : List (Nat × Nat) :=
  let l := d.lanes
  let raw := (125000000, d.nDiv)
  let (sn, sd) := d.rate
  let at' (i : Nat) (b : Bool) (x : List (Nat × Nat)) : List (Nat × Nat) := if decide (j ≤ i) && b then x else []
  at' 1 d.demodEn [(24 * raw.1, raw.2)] ++
  at' 2 d.cicEn [((2 + 2 * d.cicK) * l * raw.1, raw.2), ((4 + 4 * d.cicK) * l * 125000000, d.cycF)] ++
  at' 3 d.firEn [((ceilDiv c.taps 2 + 8) * l * 125000000, d.cycN)] ++
  at' 4 c.n0En [(12 * l * 125000000, d.cycN)] ++
  at' 5 c.n1En [(12 * l * 125000000, d.cycN)] ++
  at' 6 d.maEn [(6 * l * 125000000, d.cycN)] ++
  at' 7 d.rsEn [((d.rsSpan + 8) * l * sn, sd)] ++
  at' 8 d.amplitude [(40 * sn, sd)] ++
  at' 8 true [(8 * d.words * sn, sd)]

/-- The reduction's cost (R208): 10 a skim word and 40 a record. -/
def Desc.redCost (d : Desc) (red : Word) : List (Nat × Nat) :=
  let (sn, sd) := d.rate
  let blocks : Nat × Nat := if bitOf red 31 then (1000, fld red 13 0) else (sn, sd * 2 ^ fld red 20 16)
  [(10 * d.words * sn, sd), (40 * d.words * blocks.1, blocks.2)]

/-- The capture path's cost (R193): 10 a source sample per lane; `src` is 0 for raw. DEDUCED (log entry 124): R193 counts two lanes for a skim
of two words and else one, whatever the Lanes of Table 05-8. -/
def Desc.capCost (d : Desc) (src : Nat) : List (Nat × Nat) :=
  if src = 0 then [(10 * 125000000, d.nDiv)] else [(10 * d.words * d.rate.1, d.rate.2)]

/-- The steady load of a channel (R160). -/
def Desc.load (d : Desc) (skim : Bool) (red : Word) (cap : Option Nat) : Nat × Nat :=
  sumQ ([(20000000, 1), (12 * 125000000, d.nDiv)] ++ d.stageCost d.coef 0 ++ d.detCost d.det.deta ++
    d.detCost d.det.detb ++
    (if bitOf d.det.thr0l 31 then [(4 * d.rate.1, d.rate.2)] else []) ++
    (if bitOf d.det.thr1l 31 then [(4 * d.rate.1, d.rate.2)] else []) ++ d.trgCost ++
    (if skim then d.redCost red else []) ++ (match cap with | some s => d.capCost s | none => []))

/-- The first stage whose sets differ; 9 where none does (R152, R158). -/
def firstDiff (a b : CoefSet) : Nat :=
  if a.demod ≠ b.demod then 1
  else if a.firTm1 ≠ b.firTm1 || a.firC ≠ b.firC then 3
  else if a.n0f ≠ b.n0f || a.n0q ≠ b.n0q then 4
  else if a.n1f ≠ b.n1f || a.n1q ≠ b.n1q then 5
  else if a.scale ≠ b.scale || a.offset ≠ b.offset then 8
  else 9

/-- The load during a fade to the set b (R161). -/
def Desc.loadXf (d : Desc) (b : CoefSet) (skim : Bool) (red : Word) (cap : Option Nat) : Nat × Nat :=
  let p := d.load skim red cap
  sumQ [p, sumQ (d.stageCost b (firstDiff d.coef b))]

/-- A load above a number of tenths of a percent of 10^9 cycles a second. -/
def loadAbove (p : Nat × Nat) (permille : Nat) : Bool := decide (permille * 1000000 * p.2 < p.1)

/-- A load in units of 0.1%, rounded to the nearest (R162 and the worked loads of 05; log entry 21). -/
def loadUnits (p : Nat × Nat) : Nat := (p.1 + 500000 * p.2) / (1000000 * p.2)

/-! ## Value rules of a descriptor (BAD_ARG), those that look at no other channel -/

/-- The AFE section (R35 to R53, Table 02-6). -/
def AfeWords.bad (w : AfeWords) : Bool :=
  !onlyBits w.drive 0xFFFFFFF7 || !onlyBits w.load 0xFFFF03FF || !onlyBits w.input 0x000001F7 ||
  !onlyBits w.cm 0x8F03FFFF ||
  decide (4 ≤ fld w.drive 2 0) || decide (2 ≤ fld w.input 5 4) ||
  (fld w.drive 2 0 == 1 && (decide (w.freq.toNat < 17180) || decide (8589935 < w.freq.toNat))) ||
  decide (sfld w.cm 17 9 < -250) || decide (250 < sfld w.cm 17 9) || decide (sfld w.cm 8 0 < -250) ||
  decide (250 < sfld w.cm 8 0) || decide (sfld w.cm 17 9 ≤ sfld w.cm 8 0) ||
  (let z := if fld w.load 31 16 = 0 then 250 else fld w.load 31 16
   (fld w.drive 2 0 == 1 || fld w.drive 2 0 == 3) && decide (8192 * z < 500 * fld w.drive 15 4))

/-- A coefficient set's reserved bits and its values under a structure (R138 to R147). -/
def Desc.badCoef (d : Desc) (c : CoefSet) : Bool :=
  let notchBad (f q : Word) : Bool :=
    bitOf q 31 && (decide (fld q 15 0 < 50) || f == 0 || decide (125000000 * 500 ≤ f.toNat * d.cycN))
  !onlyBits c.demod 0xFFFF0000 || !onlyBits c.n0q 0x8000FFFF || !onlyBits c.n1q 0x8000FFFF ||
  !onlyBits c.scale 0xFFFFFF3F || !onlyBits c.offset 0x00FFFFFF || decide (127 < c.firTm1) ||
  c.firC.any (fun w => !onlyBits w 0x0003FFFF) || notchBad c.n0f c.n0q || notchBad c.n1f c.n1q || d.overflows c

/-- The DET section (R163, Tables 06-2 to 06-4): reserved bits always, values only while EN is 1. -/
def DetSec.bad (s : DetSec) : Bool :=
  let det (w : Word) : Bool := !onlyBits w 0xFFF0FFFF || (bitOf w 31 && fld w 30 29 == 3)
  let cond := fld s.trg 30 28
  let ta := sfld s.trga 23 0
  det s.deta || det s.detb || !onlyBits s.thr0l 0x80FFFFFF || !onlyBits s.thr0h 0x00FFFFFF ||
  !onlyBits s.thr1l 0x80FFFFFF || !onlyBits s.thr1h 0x00FFFFFF || !onlyBits s.trg 0xFFF8FFFF ||
  !onlyBits s.trga 0x00FFFFFF || !onlyBits s.trgb 0x00FFFFFF || !onlyBits s.trgh 0x00FFFFFF ||
  (bitOf s.trg 31 &&
    (cond == 7 || ((cond == 0 || cond == 2) && fld s.trg 27 26 == 3) ||
     (cond == 2 && (fld s.trg 15 8 == 0 || decide (ta ≤ 0))) ||
     (cond == 1 && decide (ta ≤ sfld s.trgb 23 0 + 2 * fld s.trgh 23 0)) ||
     (decide (3 ≤ cond) && !bitOf (DetSec.detWord s) 31)))

/-- A descriptor with the frequency word of its demodulation reference: every rule that looks at no other channel's
settings (R64, R68, R135 to R147, R163). -/
def Desc.bad (d : Desc) (refFreq : Nat) : Bool :=
  AfeWords.bad d.afe || !onlyBits d.conv 0x9FFFFFFF || decide (d.nDiv < 25) || decide (125000 < d.nDiv) ||
  !onlyBits d.ctl 0x0000FE00 || !onlyBits d.cic 0x00070FFF ||
  (d.cicEn && (d.cicK == 0 || decide (5 < d.cicK))) || (d.firEn && d.firDec == 3) || decide (3 < d.firDec) ||
  !onlyBits d.ma 0x8000FFFF || (d.rsEn && (d.rs == 0 || decide ((if d.lanes = 2 then 2048 else 4096) < d.rsSpan))) ||
  (d.demodEn && decide (9 * 2 ^ 32 < 20 * refFreq * d.nDiv)) ||
  decide (10 * d.rate.1 < d.rate.2) || decide (250000 * d.rate.2 < d.rate.1) ||
  d.badCoef d.coef || d.det.bad

/-- A RED_CFG out of range, or a block shorter than one skim period (R205, Table 07-8). -/
def Desc.badRed (d : Desc) (red : Word) : Bool :=
  !onlyBits red 0x801F3FFF || decide (20 < fld red 20 16) || fld red 13 0 == 0 || decide (10000 < fld red 13 0) ||
  (bitOf red 31 && decide (fld red 13 0 * d.rate.1 < 1000 * d.rate.2))

/-! ## The descriptor as words (Table 05-2) -/

/-- The 192 words of a descriptor in offset order. -/
def Desc.toWords (d : Desc) : List Word :=
  [d.afe.freq, d.afe.drive, d.afe.load, d.afe.input, d.afe.cm, d.conv, d.ctl, d.coef.demod, d.cic,
   BitVec.ofNat 32 (d.firDec * 256 + d.coef.firTm1), d.coef.n0f, d.coef.n0q, d.coef.n1f, d.coef.n1q, d.ma, d.rs,
   d.coef.scale, d.coef.offset] ++ List.replicate 6 0 ++
  [d.det.deta, d.det.detb, d.det.thr0l, d.det.thr0h, d.det.thr1l, d.det.thr1h, d.det.trg, d.det.trga, d.det.trgb,
   d.det.trgh] ++ List.replicate 30 0 ++ d.coef.firC

/-- The descriptor that 192 words give; none where a reserved word or a reserved bit of FIR_CFG is not zero. -/
def Desc.ofWords (w : List Word) : Option Desc :=
  let g (i : Nat) : Word := w.getD i 0
  if w.length ≠ 192 || ((w.drop 18).take 6).any (· != 0) || ((w.drop 34).take 30).any (· != 0) ||
      !onlyBits (g 9) 0x0000037F then none
  else some
    { afe := ⟨g 0, g 1, g 2, g 3, g 4⟩, conv := g 5, ctl := g 6, cic := g 8, firDec := fld (g 9) 9 8, ma := g 14,
      rs := g 15, det := ⟨g 24, g 25, g 26, g 27, g 28, g 29, g 30, g 31, g 32, g 33⟩,
      coef := { demod := g 7, firTm1 := fld (g 9) 6 0, n0f := g 10, n0q := g 11, n1f := g 12, n1q := g 13,
                scale := g 16, offset := g 17, firC := w.drop 64 } }

/-- The descriptor applied to a channel, with writes whose chain part waits for the CM state of earlier samples (R54, R65). -/
def Chan.applied (c : Chan) : Desc :=
  (c.unsettled.findSome? fun (w : RawWork) => match w with
    | .change _ b x _ => some (if x.desc.isSome then b else { b with coef := c.desc.coef })
    | _ => none).getD c.desc

/-- The latest accepted descriptor of a channel: what a check looks at (R64 to R66). -/
def Chan.latest (c : Chan) : Desc :=
  (c.writes ++ c.held.toList).foldl (fun d w =>
    match w.desc, w.afe with
    | some x, _ => x
    | none, some a => { d with afe := a }
    | none, none => d) c.applied

/-- The applied RED_CFG, likewise. -/
def Chan.appliedRed (c : Chan) : Word :=
  (c.unsettled.findSome? fun (w : RawWork) => match w with | .change _ _ x _ => x.red | _ => none).getD c.red.cfg

/-- The latest accepted RED_CFG. -/
def Chan.latestRed (c : Chan) : Word :=
  (c.writes ++ c.held.toList).foldl (fun r w => w.red.getD r) c.appliedRed

/-- The channel's octet is held by calibration, or every channel is held for VEXC (R432, R449). -/
def Hub.heldCh (h : Hub) (c : Nat) : Bool := (h.oct (chOct c)).held || h.pwr.vexcLow

end Sys2Proof.Machine
end

