-- ==== Sys2Proof/Machine/Chain.lean ====
section
/-! DEFINITION. The arithmetic of the channel chain (05): the stages of Table 05-1 on one lane, the two lanes, output
scaling and the blend of a fade. Values between stages are in units of 2^-16 raw LSB (R134). -/

namespace Sys2Proof.Machine

/-- An exact quotient brought to the chain's format: itself where it fits, else one of its two neighbours, which one the
spec leaves open (R134; log entry 10). -/
def chainRound (num : Int) (den : Nat) : Int := quantise num den

/-- Running sums of a CIC's integrators: each stage adds the one before it (R139). -/
def cicIntegrate : List Int → Int → List Int
  | [], _ => []
  | a :: r, v => (a + v) :: cicIntegrate r (a + v)

/-- Differences of a CIC's combs: the new delays and the output (R139). -/
def cicComb : List Int → Int → List Int × Int
  | [], v => ([], v)
  | a :: r, v => let p := cicComb r (v - a); (v :: p.1, p.2)

/-- One input of the CIC of order n and decimation D; an output where `out` (R139, R149). -/
def cicStep (n D : Nat) (integ comb : List Int) (v : Int) (out : Bool) : List Int × List Int × Option Int :=
  let i := if integ.length = n then integ else List.replicate n 0
  let c := if comb.length = n then comb else List.replicate n 0
  let i := cicIntegrate i v
  if out then
    let p := cicComb c (i.getLastD v)
    (i, p.1, some (chainRound p.2 (D ^ n)))
  else (i, c, none)

/-- The FIR's output from its inputs, newest first (R140). -/
def firOut (c : CoefSet) (ins : List Int) : Int :=
  chainRound (((List.range c.taps).map fun n => c.h n * ins.getD n 0).sum) (2 ^ 16)

/-- One input of a notch: state x1, x2, y1, y2 and the output (R141). DESIGN CHOICE (log entry 10): the notch's own y1 and y2 carry 64
fractional bits, so that what they lose leaves the null its depth; the output has the format of R134. -/
def notchStep (f q : Word) (cyc : Nat) (st : List Int) (v : Int) : List Int × Int :=
  let k := notchCoef f.toNat (fld q 15 0) cyc
  let x1 := st.getD 0 0; let x2 := st.getD 1 0; let y1 := st.getD 2 0; let y2 := st.getD 3 0
  let y := chainRound ((k.getD 0 0 * v + k.getD 1 0 * x1 + k.getD 2 0 * x2) * 2 ^ 48 - k.getD 3 0 * y1 - k.getD 4 0 * y2) (2 ^ 126)
  ([v, x1, y, y1], chainRound y (2 ^ 48))

/-- The resampler's output j from its inputs, newest first, the newest with index i (R143). -/
def rsOut (ratio : Nat) (span : Nat) (ins : List Int) (i j : Nat) : Int :=
  chainRound ((ratio : Int) * ((List.range span).map fun (n : Nat) =>
    kernelAt ((j : Int) * 2 ^ 32 - ((i : Int) - (n : Int)) * ratio) (2 ^ 32) * ins.getD n 0).sum) (2 ^ 94)

/-- Stages 2 to 7 on one lane for raw sample k with value v: the new state and the value of a completed skim sample
(R133, R139 to R143, R149). -/
def laneStep (d : Desc) (c : CoefSet) (s : LaneStages) (k : Nat) (v : Int) : LaneStages × Option Int :=
  let (integ, comb, v2) := if d.cicEn then cicStep d.cicK d.cicD s.integ s.comb v (k % d.cicD == 0)
    else (s.integ, s.comb, some v)
  let s := { s with integ := integ, comb := comb }
  match v2 with
  | none => (s, none)
  | some v =>
    let fir := if d.firEn then (v :: s.fir).take 128 else s.fir
    let s := { s with fir := fir }
    if k % (d.cicD * d.firD) ≠ 0 then (s, none)
    else
      let v := if d.firEn then firOut c fir else v
      let a := if c.n0En then notchStep c.n0f c.n0q d.cycN s.n0 v else (s.n0, v)
      let b := if c.n1En then notchStep c.n1f c.n1q d.cycN s.n1 a.2 else (s.n1, a.2)
      let ma := if d.maEn then (b.2 :: s.ma).take d.maL else s.ma
      let s := { s with n0 := a.1, n1 := b.1, ma := ma }
      if k % d.decim ≠ 0 then (s, none)
      else
        let v := if d.maEn then chainRound ma.sum d.maL else b.2
        if !d.rsEn then (s, some v)
        else
          let rs := (v :: s.rs).take d.rsSpan
          let s := { s with rs := rs }
          (s, (d.skimOf k).map fun j => rsOut d.rs.toNat d.rsSpan rs (k / d.decim) j)

/-- The reference phase of a raw sample from the accumulator (R137). -/
def demodPhase (c : CoefSet) (acc : BitVec 32) : BitVec 32 :=
  acc + (BitVec.ofNat 32 (fld c.demod 31 16)) <<< 16

/-- One raw sample through the chain: the new state and I and Q of a completed skim sample (R133, R137). -/
def chainStep (d : Desc) (c : CoefSet) (s : Stages) (k : Nat) (acc : BitVec 32) (x : Int) :
    Stages × Option (Int × Int) :=
  let ph := demodPhase c acc
  let vi := if d.demodEn then chainRound (2 * x * cosRef ph) (2 ^ 30) else x
  let a := laneStep d c s.i k vi
  if d.lanes = 2 then
    let b := laneStep d c s.q k (chainRound (-2 * x * sinRef ph) (2 ^ 30))
    (⟨a.1, b.1⟩, match a.2, b.2 with | some i, some q => some (i, q) | _, _ => none)
  else (⟨a.1, s.q⟩, a.2.map fun i => (i, 0))

/-- Y = round(V × SCALE_M × 2^(SCALE_E − 22)) + OFFSET of a value (R145). -/
def scaleVal (c : CoefSet) (v : Int) : Int :=
  roundHalf (v * c.scaleM * 2 ^ (c.scaleE + 32).toNat) (2 ^ 70) + c.ofs

/-- The same of the amplitude √(I² + Q²), exactly (R145). -/
def scaleAmp (c : CoefSet) (i q : Int) : Int :=
  let e := (c.scaleE + 32).toNat
  let r := roundSqrt (((i * i + q * q).toNat) * (c.scaleM * c.scaleM).toNat * 2 ^ (2 * e)) (2 ^ 140)
  (if c.scaleM < 0 then -(r : Int) else r) + c.ofs

/-- The phase word of R145: 0 for I = Q = 0. -/
def phaseWord (i q : Int) : Int :=
  phaseOf i q

/-- The skim words of I and Q (R145, R146). -/
def outWords (d : Desc) (c : CoefSet) (v : Int × Int) : Int × Int :=
  if !d.demodEn then (scaleVal c v.1, 0)
  else match d.demodOut with
    | 0 => (scaleVal c v.1, 0)
    | 1 => (scaleVal c v.1, scaleVal c v.2)
    | 2 => (scaleAmp c v.1 v.2, 0)
    | _ => (scaleAmp c v.1 v.2, phaseWord v.1 v.2)

/-- (1 − w) × old + w × new for w = n / m, rounded half away from zero (R157; log entry 10). -/
def blend (n m : Nat) (old new : Int) : Int :=
  roundHalf (((m : Int) - n) * old + n * new) m

/-- The blended words of a fade at weight n / m: scaled I, Q and amplitude are blended, the phase word comes from the
blended unscaled I and Q (R158). -/
def blendWords (d : Desc) (old new : CoefSet) (n m : Nat) (vo vn : Int × Int) : Int × Int :=
  let a := outWords d old vo
  let b := outWords d new vn
  if d.demodEn && d.demodOut == 3 then
    (blend n m a.1 b.1,
      phaseWord (((m : Int) - n) * vo.1 + n * vn.1) (((m : Int) - n) * vo.2 + n * vn.2))
  else (blend n m a.1 b.1, blend n m a.2 b.2)

/-- Stage state with stage j and every later stage cleared (R151). -/
def Stages.clearFrom (s : Stages) (j : Nat) : Stages :=
  let f (l : LaneStages) : LaneStages :=
    { integ := if j ≤ 2 then [] else l.integ, comb := if j ≤ 2 then [] else l.comb, fir := if j ≤ 3 then [] else l.fir,
      n0 := if j ≤ 4 then [] else l.n0, n1 := if j ≤ 5 then [] else l.n1, ma := if j ≤ 6 then [] else l.ma,
      rs := if j ≤ 7 then [] else l.rs }
  ⟨f s.i, f s.q⟩

end Sys2Proof.Machine
end

