-- ==== Sys2Proof/Machine/Flags.lean ====
section
/-! DEFINITION. Flags and status words: skim flags (R11 to R13), the raw word (R10), channel, octet, audit, time, link,
seal and doorbell status words. -/

namespace Sys2Proof.Machine

/-! ## Skim flags (Table 00-4) -/

def flagOR : Byte := 0x80
def flagCL : Byte := 0x40
def flagCM : Byte := 0x20
def flagST : Byte := 0x10
def flagAD : Byte := 0x08
def flagRD : Byte := 0x04
def flagRT : Byte := 0x02
def flagUC : Byte := 0x01

/-- The flag where the condition holds. -/
def flagIf (b : Bool) (f : Byte) : Byte := if b then f else 0

/-- A skim word (R11): a 24-bit value and its flags. -/
def skimWord (v : Int) (flags : Byte) : Word := BitVec.ofNat 32 (unsigned 24 v * 256 + flags.toNat)

/-- Word format of a channel: 1 for left alignment and 2 for offset binary, added (R10). -/
def Desc.fmt (d : Desc) : Nat := (if d.leftAligned then 1 else 0) + (if d.offsetBinary then 2 else 0)

/-- A raw word (R10, R73): value, OR and CL in an alignment and a coding. -/
def rawWord (fmt : Nat) (v : Int) (orF cl : Bool) : BitVec 16 :=
  let u := unsigned 14 v
  let code := if fmt.testBit 1 then (BitVec.ofNat 14 u ^^^ 0x2000).toNat else u
  let o := if orF then 1 else 0
  let c := if cl then 1 else 0
  BitVec.ofNat 16 (if fmt.testBit 0 then code * 4 + o * 2 + c else c * 32768 + o * 16384 + code)

/-- The flags of a raw entry in Table 00-4 order, as coaches union them (R199). -/
def RawEntry.flags (e : RawEntry) : Byte :=
  flagIf e.orFlag flagOR ||| flagIf e.cl flagCL ||| flagIf e.cm flagCM ||| flagIf e.ad flagAD ||| flagIf e.uc flagUC

/-! ## Status words -/

/-- ASTAT (R384): EXC_OL, GRD_OL of the octet, HELD. -/
def Hub.astat (h : Hub) (c : Nat) : Word :=
  setBit (setBit (setBit 0 31 (h.ch c).excOl) 30 (h.oct (chOct c)).guardOl) 29 (h.ch c).held.isSome

/-- AUD_STATUS (Table 03-7). -/
def AuditStat.word (a : AuditStat) : Word :=
  setFld (setFld (setFld (setBit (setBit (setBit 0 31 a.suspect) 30 a.adNow) 24 a.excAud) 29 25
    (a.window.filter id).length) 23 12 (sat 12 a.lastDiff)) 11 0 (sat 12 a.lastTol)

/-- REP_STATUS (R62): STALE of outputs 0 to 15. -/
def Hub.repStatus (h : Hub) : Word :=
  BitVec.ofNat 32 (ofBits ((List.range 16).filter fun n => (h.reps.getD n Rep.reset).stale))

/-- SRC_ACTIVE (Table 04-16). -/
def Hub.srcActive (h : Hub) : Nat :=
  match h.tm.src with
  | .lane => 1
  | .pps => match h.tm.active with | some 0 => 2 | some _ => 3 | none => 0
  | _ => 0

/-- Reference cycles that the high phase of SCLK_OUTn still has at an array time: floor(N / 2) from each sampling instant of channel 32 × n (R466). -/
def Hub.sclkHigh (h : Hub) (n t : Nat) : Nat :=
  let d := (h.ch (32 * n)).desc
  if h.clk.valid && h.powered n && decide ((h.clk.outs.getD n ⟨0, 0⟩).start ≤ t) then d.nDiv / 2 - t % d.rawPeriod / fuCycle else 0

/-- SCLK_OUTn (R466): the conversion clock of channel 32 × n; a high phase that a change has cut completes. -/
def Hub.sclkOut (h : Hub) (n : Nat) : Bool :=
  h.boot.rst && h.clk.run && (decide (h.clk.cycles < (h.clk.outs.getD n ⟨0, 0⟩).till) || decide (0 < h.sclkHigh n h.tm.now))

/-- Ahead of a change `back` cycles ago, the high phase that SCLK_OUTn is in is kept to its end (R464, R466; log entry 187). -/
def Hub.sclkHold (h : Hub) (n back : Nat) : Hub :=
  let k := h.sclkHigh n (h.tm.now - back * fuCycle)
  if k = 0 then h
  else { h with clk := { h.clk with outs := modAt h.clk.outs n fun o => { o with till := max o.till (h.clk.cycles - back + k) } } }

/-- After a change SCLK_OUTn restarts at its channel's first sampling instant from an array time on (R464, R466). -/
def Hub.sclkStart (h : Hub) (n t : Nat) : Hub :=
  let p := (h.ch (32 * n)).desc.rawPeriod
  { h with clk := { h.clk with outs := modAt h.clk.outs n fun o => { o with start := ceilDiv t p * p } } }

/-- SCLK_OUTn at its pin (R120, R503). -/
def Hub.sclkPin (h : Hub) (n : Nat) : Option Bool := h.drives 0 (h.sclkOut n)

/-- TIME_STATUS (Table 04-16). -/
def Hub.timeStatus (h : Hub) : Word :=
  let t := h.tm
  let w := setFld (setFld (setFld (setFld (setFld 0 31 29 t.align.code) 28 27 t.base.code) 26 25 h.srcActive) 24 23
    t.ppsA.st.code) 22 21 t.ppsB.st.code
  setBit (setBit (setBit (setBit (setBit (setBit (setBit (setBit w 20 t.split) 19 t.incoherent) 18 t.skew) 17 t.armed) 16
    t.refused) 15 t.stepped) 14 h.clk.valid) 13 t.markLost

/-- ERR_EST in ns (R116): the PPS estimate is formed in 1/1,024 ns and rounded up once (log entry 127). -/
def Hub.errEst (h : Hub) : Nat :=
  let t := h.tm
  let eNs := ceilDiv t.e.natAbs 1024
  if t.base = .none then 65535
  else sat 16 (match t.src with
    | .pps =>
      let n := max 1 t.resid.length
      ceilDiv (ceilSqrt (9 * (t.resid.map fun r => (r * r).toNat).sum) n + t.e.natAbs) 1024
    | _ => t.sndErr + eNs + (if t.align = .degraded then 2 else 0) +
      (if t.align = .holdover then (h.clk.elapsed - t.holdAt) / 5000 else 0))

/-- MBI_FREE: head and tail of the mailbox-in window agree (Table 13-11). -/
def Dbw.mbiFree (d : Dbw) : Bool := d.mbiHead == d.mbiTail

/-- DBW_IRQ_STAT (Table 13-9): latched bits and the bits that follow their conditions. -/
def Hub.irqStat (h : Hub) : Word :=
  let latched : Word := BitVec.ofNat 32 (h.dbw.irq.toNat % 256 / 4 * 4)
  setBit (setBit (setBit (setBit latched 9 (decide (0 < h.localOcc))) 8 h.strm.win.hi) 1 h.dbw.mbiFree) 0
    (h.dbw.mboHead != h.dbw.mboTail)

def Hub.setMgmt (h : Hub) (f : Mgmt → Mgmt) : Hub := { h with mgmt := f h.mgmt }

def Hub.setTag (h : Hub) (f : Tag → Tag) : Hub := { h with tag := f h.tag }

/-- The doorbell hardware is up and served: after reset release, with D0 not lost (Table 13-17, R354). -/
def Hub.hspiOn (h : Hub) : Bool := h.boot.tr.isSome && h.boot.rst && !(h.die 0).faulted

/-- The hub runs at ROUGH or above. -/
def Level.serves (l : Level) : Bool := l == .rough || l == .full || l == .degraded

/-- The die is in service with a running core. -/
def Hub.coreRuns (h : Hub) (d : Nat) : Bool := (h.die d).inService && !(h.die d).frozen

/-- Management runs: the firmware on the lead's core, outside the gap of a failover or of the lead's drill (R368, R417, R423). -/
def Hub.manages (h : Hub) : Bool :=
  h.boot.running && h.coreRuns h.boot.lead && (h.die h.boot.lead).cores.declaredAt.isNone && (h.die h.boot.lead).cores.drillAt.isNone

/-- Requests are compared, started and answered: by the firmware, or by the boot ROM in network boot (R353, R421, R475). -/
def Hub.serves (h : Hub) : Bool := h.manages || h.boot.netboot

/-- Class 3 work is shed: a class 3 request has waited past its limit (R370). -/
def Hub.sheds3 (h : Hub) : Bool :=
  h.mgmt.queue.any fun (x : Request) => x.svc == 3 && decide (x.at' + 1000000000 < h.clk.elapsed)

/-- IRQ_n is driven low: not while D0, whose hardware drives it, is out of service (R354, R372). -/
def Hub.irqLow (h : Hub) : Bool := (h.irqStat &&& h.dbw.irqEn) != 0 && h.boot.rst && h.vio 0 && !(h.die 0).faulted

/-- DBW_ID (Table 13-6). -/
def Ident.dbwId (i : Ident) : Word :=
  match i.variant with
  | .eh2 => 0x5E22B101
  | .eh4 => 0x5E44B101
  | .eh8 => 0x5E88B101

/-- IDCODE (R482). -/
def Ident.idcode (i : Ident) : Word :=
  match i.variant with
  | .eh2 => 0x15E2256F
  | .eh4 => 0x15E4456F
  | .eh8 => 0x15E8856F

/-- The dies for which a condition holds, as a mask. -/
def Hub.dieBits (h : Hub) (p : Die → Bool) : Nat := ofBits ((List.range h.nDies).filter fun d => p (h.die d))

/-- DBW_STATE (Table 13-8). -/
def Hub.dbwState (h : Hub) : Word :=
  setFld (setFld (setFld (setFld 0 31 24 (h.dieBits (·.inService))) 23 16 (h.dieBits (·.frozen))) 10 8 h.boot.lead) 2 0
    h.boot.level.code

/-- SENT_STATUS (Table 13-13). -/
def Hub.sentStatus (h : Hub) : Word :=
  setFld (setBit (setFld (setFld (setFld 0 31 24 (h.dieBits (·.cores.onB))) 23 16 (h.dieBits (·.cores.hbOk))) 15 8
    (h.dieBits (·.cores.drill))) 7 (h.flt.closed && h.boot.level != .off)) 5 0 (sat 6 h.flt.failovers)

/-- FAULT_SUMMARY (Table 13-14). -/
def Hub.faultSummary (h : Hub) : Word :=
  let w := setFld (setFld 0 23 16 (h.dieBits (·.faulted))) 15 0 h.hk.newRec
  setBit (setBit (setBit (setBit (setBit (setBit w 31 h.boot.cfgSplit) 30 h.pwr.gradient) 29
    (h.dies.any (·.audit.fault))) 28 (h.dies.any (·.audit.refFault))) 27
    (h.ports.any fun p => p.lanes.any (·.retired))) 26 (h.chans.any (·.retired.isSome))

/-- Minutes of lockout left, rounded up (R484). -/
def Hub.lockMin (h : Hub) : Nat :=
  match h.fseal.lockUntil with
  | none => 0
  | some t => ceilDiv (t - h.clk.elapsed) 60000000000

/-- SEAL_STATE (Table 13-15). -/
def Hub.sealWord (h : Hub) : Word :=
  setFld (setBit (setFld (setFld 0 31 16 (min 1440 h.lockMin)) 15 8 (sat 8 h.fseal.fails)) 2 h.fseal.session) 1 0
    h.fseal.st

/-- The seal behaves as OPEN (R479, Table 18-5). -/
def Hub.sealOpen (h : Hub) : Bool := h.fseal.st == 1 || (h.fseal.st == 2 && h.fseal.session)

/-- The debug instructions of the TAP carry JTAG debug: in FACTORY, OPEN, and SEALED with SESSION (R482). -/
def Hub.debugOn (h : Hub) : Bool := h.fseal.st == 0 || h.sealOpen

/-- A debug instruction in force acts as BYPASS from the moment the seal no longer permits it (R482). -/
def Hub.tapSeal (h : Hub) : Hub :=
  if 0x40 ≤ h.tap.ir ∧ h.tap.ir ≤ 0x4F ∧ !h.debugOn then { h with tap := { h.tap with dr := 0 } } else h

/-- LINK_STATUS (Table 11-2). -/
def Hub.linkStatus (h : Hub) (p : Nat) : Word :=
  let q := h.prt p
  let up := q.st == .up || q.st == .plain
  let w := setFld (setFld (setFld (setFld (setFld (setFld 0 31 28 q.st.code) 27 25 q.rate) 24 23
    (if up then q.width else 0)) 22 20 q.peer) 19 16
    (ofBits ((List.range 4).filter fun l => (h.lane p l).retired))) 15 12
    (ofBits ((List.range 4).filter fun l => if l = 3 then q.ltUp else (h.lane p l).lock == .locked))
  setBit (setBit w 11 q.manual) 10 (decide (p < 2) && h.flt.closed && h.boot.level != .off)

end Sys2Proof.Machine
end

