-- ==== Sys2Proof/Machine/ChurnCode.lean ====
section
/-! DEFINITION. The churn block and its decoder (R273 to R288, R292), and the encoder's choice of a block, which the
decoder checks (R284, R287, R288). -/

namespace Sys2Proof.Machine

/-- The errors of Table 10-6. -/
inductive ChurnErr where
  | illegalCode
  | beyondHistory
  | lengthOverrun
  | truncated
  deriving DecidableEq, Repr

/-- The code of Table 10-6. -/
def ChurnErr.code : ChurnErr → Nat
  | .illegalCode => 1
  | .beyondHistory => 2
  | .lengthOverrun => 3
  | .truncated => 4

/-- What a decoder answers: a value, or an error at a bit offset. -/
inductive Dec (α : Type) where
  | good (a : α)
  | bad (e : ChurnErr) (bit : Nat)
  deriving DecidableEq, Repr

/-- A decoded sample: value and flags. -/
abbrev Sample := Int × Nat

/-- Bits of a byte string, most significant first (R273). -/
def bitsOfBytes (b : Bytes) : List Bool := b.flatMap fun x => (List.range 8).map fun i => x.getLsbD (7 - i)

/-- A number from bits, most significant first. -/
def bitsNat (l : List Bool) : Nat := l.foldl (fun a b => 2 * a + if b then 1 else 0) 0

/-- Takes n bits. -/
def takeBits (n : Nat) (l : List Bool) : Option (Nat × List Bool) :=
  if l.length < n then none else some (bitsNat (l.take n), l.drop n)

/-- Bits of a value V and of the flags F of a source (R273); `raw` is a raw source. -/
def valBits (raw : Bool) : Nat := if raw then 14 else 24
def flagBits (raw : Bool) : Nat := if raw then 2 else 8
/-- Bytes of a source word. -/
def wordBytes (raw : Bool) : Nat := if raw then 2 else 4

/-- BUD of a fixed-ratio mode (R284). -/
def budget (raw : Bool) (mode : Nat) : Nat :=
  64 * wordBytes raw * (match mode with | 1 => 4 | 2 => 3 | _ => 2) / 8

/-- W_f of the FLOOR form (R286). -/
def floorBits (raw : Bool) (mode : Nat) : Nat := (8 * budget raw mode - 24) / 64

/-- The prediction for the next sample from the values before it, newest first (R276). -/
def predict (pred s : Nat) (ys : List Int) : Int :=
  let y (i : Nat) : Int := (ys.getD i 0) / ((2 ^ s : Nat) : Int)
  match pred with
  | 0 => 0
  | 1 => y 0
  | 2 => 2 * y 0 - y 1
  | _ => 3 * y 0 - 3 * y 1 + y 2

/-- The value rebuilt from a coded one (R275). -/
def rebuild (s : Nat) (v : Int) : Int := v * (2 ^ s : Nat) + (if s = 0 then 0 else 2 ^ (s - 1))

/-- Ones at the front, at most 16. -/
def countOnes : Nat → List Bool → Nat
  | 0, _ => 0
  | k + 1, true :: r => 1 + countOnes k r
  | _, _ => 0

/-- A Rice code of parameter k (R277). -/
def riceCode (V s k : Nat) (l : List Bool) : Option (Int × List Bool) :=
  let q := countOnes 16 l
  let un (u : Nat) : Int := if u % 2 = 0 then (u / 2 : Nat) else -(((u + 1) / 2 : Nat) : Int)
  if q = 16 then (takeBits (V + 4 - s) (l.drop 16)).map fun p => (un p.1, p.2)
  else match l.drop q with
    | [] => none
    | _ :: r => (takeBits k r).map fun p => (un (q * 2 ^ k + p.1), p.2)

/-- n samples at the prediction, each from those before it (RUN of Table 10-3). -/
def runPred (pred s : Nat) : Nat → List Int → List Int
  | 0, ys => ys
  | n + 1, ys => runPred pred s n (rebuild s (predict pred s ys) :: ys)

/-- n literal values (LIT of Table 10-3). -/
def litVals (bits s : Nat) : Nat → List Bool → List Int → Option (List Int × List Bool)
  | 0, l, ys => some (ys, l)
  | n + 1, l, ys =>
    match takeBits bits l with
    | none => none
    | some (v, r) => litVals bits s n r (rebuild s (signed bits v) :: ys)

/-- The tokens of a block (Table 10-3): `ys` holds this block's values newest first on top of the predictor state, `cs` which of them a
REPEAT has copied, `got` how many are of this block, `total` the bits of the block, `hist` the decoded blocks newest first, `depth` those
since FRESH. -/
def tokens (V pred s n total : Nat) (hist : List (List Sample)) (depth : Nat) :
    (fuel k got : Nat) → List Bool → List Bool → List Int → Dec (List Int × List Bool × List Bool)
  | 0, _, _, _, l, _ => .bad .truncated (total - l.length)
  | fuel + 1, k, got, cs, l, ys =>
    let here := total - l.length
    if n ≤ got then .good (ys, cs, l)
    else match l with
      | false :: r =>
        match riceCode V s k r with
        | none => .bad .truncated here
        | some (e, r) => tokens V pred s n total hist depth fuel k (got + 1) (false :: cs) r (rebuild s (predict pred s ys + e) :: ys)
      | true :: false :: r =>
        match takeBits 6 r with
        | none => .bad .truncated here
        | some (m, r) =>
          if n < got + m + 1 then .bad .lengthOverrun here
          else tokens V pred s n total hist depth fuel k (got + m + 1) (List.replicate (m + 1) false ++ cs) r (runPred pred s (m + 1) ys)
      | true :: true :: false :: r =>
        match takeBits 18 r with
        | none => .bad .truncated here
        | some (w, r) =>
          let dist := w / 4096
          let shift := w / 64 % 64
          let m := w % 64
          let src := (hist.getD (dist - 1) [])
          let idx := (List.range (m + 1)).map fun j => (got + j + shift) % 64
          if dist = 0 then .bad .illegalCode here
          else if depth < dist then .bad .beyondHistory here
          else if n < got + m + 1 || idx.any (fun i => decide (src.length ≤ i)) then .bad .lengthOverrun here
          else
            tokens V pred s n total hist depth fuel k (got + m + 1) (List.replicate (m + 1) true ++ cs) r
              (idx.foldl (fun ys i => (src.getD i (0, 0)).1 :: ys) ys)
      | true :: true :: true :: false :: r =>
        match takeBits 6 r with
        | none => .bad .truncated here
        | some (m, r) =>
          if n < got + m + 1 then .bad .lengthOverrun here
          else match litVals (V - s) s (m + 1) r ys with
            | none => .bad .truncated here
            | some (ys, r) =>
              tokens V pred s n total hist depth fuel k (got + m + 1) (List.replicate (m + 1) false ++ cs) r ys
      | true :: true :: true :: true :: false :: r =>
        match takeBits 5 r with
        | none => .bad .truncated here
        | some (k', r) =>
          if 27 < k' then .bad .illegalCode here else tokens V pred s n total hist depth fuel k' got cs r ys
      | true :: true :: true :: true :: true :: _ => .bad .illegalCode here
      | _ => .bad .truncated here

/-- Takes m fields of n bits. -/
def fields (n : Nat) : Nat → List Bool → Option (List Nat × List Bool)
  | 0, l => some ([], l)
  | m + 1, l =>
    match takeBits n l with
    | none => none
    | some (v, r) => (fields n m r).map fun p => (v :: p.1, p.2)

/-- A decoded block: its samples, which of them a REPEAT has copied, whether FRESH and PZERO are set, the bytes up to the end of its body
(R274), and whether all its padding is zero (R274, R284). -/
structure Block where
  samples : List Sample
  copied : List Bool
  fresh : Bool
  pzero : Bool
  shave : Nat
  size : Nat
  rawb : Bool
  zeros : Bool
  deriving DecidableEq, Repr

/-- A source word of a raw or skim source as R10 and R11 form it, right-aligned two's complement for raw (R274). -/
def srcWord (raw : Bool) (x : Sample) : Bytes :=
  if raw then be 2 ((x.2 % 2) * 32768 + (x.2 / 2 % 2) * 16384 + unsigned 14 x.1)
  else be 4 (unsigned 24 x.1 * 256 + x.2 % 256)

/-- The sample that a source word holds: raw flags are OR then CL (R273). -/
def srcSample (raw : Bool) (w : Nat) : Sample :=
  if raw then (signed 14 (w % 16384), (w / 16384 % 2) * 2 + w / 32768 % 2) else (signed 24 (w / 256 % 2 ^ 24), w % 256)

/-- The bytes rounded up that hold the bits used. -/
def usedBytes (total : Nat) (l : List Bool) : Nat := ceilDiv (total - l.length) 8

/-- Decodes one block of n samples from the front of a byte string (R274 to R286, R292). `y` is the predictor state,
newest first. A REPEAT may reach `depth` blocks back, none where the block itself is FRESH. -/
def decodeBlock (raw : Bool) (mode n : Nat) (hist : List (List Sample)) (depth : Nat) (y : List Int) (b : Bytes) :
    Dec Block :=
  let fr := decide (mode ≤ 3)
  let b := if fr then b.take (budget raw mode) else b
  let l := bitsOfBytes b
  let total := l.length
  let V := valBits raw
  let F := flagBits raw
  match takeBits 16 l with
  | none => .bad .truncated 0
  | some (hd, l) =>
    let rawb := hd / 32768 % 2 = 1
    let pred := hd / 8192 % 4
    let shave := hd / 512 % 16
    let fmode := hd / 128 % 4
    let k0 := hd / 4 % 32
    let fresh := hd / 2 % 2 = 1
    let pzero := hd % 2 = 1
    let depth := if fresh then 0 else depth
    let y0 := if pzero then [] else y
    if rawb then
      let e := if pred ≠ 0 then some 1 else if shave ≠ 0 then some 3 else if fmode ≠ 0 then some 7
        else if k0 ≠ 0 then some 9 else none
      match e with
      | some o => .bad .illegalCode o
      | none => match fields (8 * wordBytes raw) n l with
        | none => .bad .truncated (16 + l.length / (8 * wordBytes raw) * (8 * wordBytes raw))
        | some (ws, r) => .good ⟨ws.map (srcSample raw), [], fresh, pzero, 0, usedBytes total r, true, true⟩
    else if shave = 8 ∧ pred ≠ 0 then .bad .illegalCode 1
    else if 8 < shave then .bad .illegalCode 3
    else if fmode = 3 ∨ (shave = 8 ∧ fmode ≠ 1) then .bad .illegalCode 7
    else if 27 < k0 ∨ (shave = 8 ∧ k0 ≠ 0) then .bad .illegalCode 9
    else
      let zero (l : List Bool) : Bool := l.all (! ·)
      let fl : Option (List Nat × Bool × List Bool) := match fmode with
        | 0 => some (List.replicate n 0, true, l)
        | 1 => (takeBits F l).map fun p => (List.replicate n p.1, zero (p.2.take (8 - F)), p.2.drop (8 - F))
        | _ => (fields F n l).map fun p => (p.1, zero (p.2.take (p.2.length % 8)), p.2.drop (p.2.length % 8))
      let rest (l : List Bool) : Bool := zero (if fr then l else l.take (l.length % 8))
      match fl with
      | none => .bad .truncated (if fmode = 2 then 16 + l.length / F * F else 16)
      | some (fs, fz, r) =>
        let rd (f : Nat) : Nat := if !raw && decide (0 < shave) then f ||| flagRD.toNat else f
        if shave = 8 then
          let w := floorBits raw mode
          let s := V - w
          match fields w n r with
          | none => .bad .truncated (total - r.length % w)
          | some (vs, r) =>
            .good ⟨(vs.map fun v => rebuild s (signed w v)).zip (fs.map rd), [], fresh, pzero, 8, budget raw mode, false, fz && rest r⟩
        else
          match tokens V pred shave n total hist depth (r.length + 1) k0 0 [] r y0 with
          | .bad e o => .bad e o
          | .good (ys, cs, r) => .good ⟨((ys.take n).reverse).zip (fs.map rd), cs.reverse, fresh, pzero, shave,
              usedBytes total r, false, fz && rest r⟩

/-- The flags of a sample are a superset of others. -/
def flagsCover (a b : Nat) : Bool := (a ||| b) == a

/-- The comparison of R288 of one decoded sample with its input; a coded value is v >> s exactly, a copied one within the bound (R275,
R278). -/
def sampleOk (raw : Bool) (mode shave : Nat) (copied : Bool) (out inp : Sample) : Bool :=
  if shave = 0 then out == inp
  else
    let s := if shave = 8 then valBits raw - floorBits raw mode else shave
    decide ((out.1 - inp.1).natAbs ≤ 2 ^ (s - 1)) && flagsCover out.2 inp.2 &&
      (copied || out.1 == rebuild s (inp.1 / ((2 ^ s : Nat) : Int)))

/-- A block passes the self-check: it decodes to its input within the bound, carries FRESH and PZERO as R281 and R282 say, has zeros for
padding, and is not RAWB in FR (R274, R284, R286, R288). -/
def blockOk (raw : Bool) (mode : Nat) (fresh pzero : Bool) (hist : List (List Sample)) (depth : Nat) (y : List Int)
    (inp : List Sample) (b : Bytes) : Bool :=
  match decodeBlock raw mode inp.length hist depth y b with
  | .bad _ _ => false
  | .good k => k.fresh == fresh && k.pzero == pzero && k.samples.length == inp.length &&
      ((k.samples.zip inp).mapIdx fun i p => sampleOk raw mode k.shave (k.copied.getD i false) p.1 p.2).all id && k.zeros &&
      (decide (mode ≤ 3) && b.length == budget raw mode && !k.rawb ||
        decide (mode = 4) && k.shave == 0 && k.size == b.length)

/-- Header of a block with FRESH and PZERO (Table 10-2). -/
def blockHead (rawb : Bool) (shave fmode : Nat) (fresh pzero : Bool) : Nat :=
  (if rawb then 32768 else 0) + shave * 512 + fmode * 128 + (if fresh then 2 else 0) + (if pzero then 1 else 0)

/-- Bits as bytes, padded with zero bits. -/
def bytesOfBits (l : List Bool) : Bytes :=
  (List.range (ceilDiv l.length 8)).map fun i =>
    BitVec.ofNat 8 (bitsNat ((List.range 8).map fun j => l.getD (8 * i + j) false))

/-- A number as n bits, most significant first. -/
def natBits (n v : Nat) : List Bool := (List.range n).map fun i => v.testBit (n - 1 - i)

/-- The block from the checking path: RAWB in LL, FLOOR in FR (R286 to R288). -/
def checkedBlock (raw : Bool) (mode : Nat) (fresh pzero : Bool) (inp : List Sample) : Bytes :=
  if mode = 4 then be 2 (blockHead true 0 0 fresh pzero) ++ inp.flatMap (srcWord raw)
  else
    let w := floorBits raw mode
    let s := valBits raw - w
    let f := inp.foldl (fun a x => a ||| x.2) 0
    let body := bytesOfBits (inp.flatMap fun x => natBits w (unsigned w (x.1 / ((2 ^ s : Nat) : Int))))
    let b := be 2 (blockHead false 8 1 fresh pzero) ++ be 1 (if raw then f % 4 * 64 else f % 256) ++ body
    b ++ pad (budget raw mode - b.length)

/-! ## The encoder's search (R284) -/

/-- A choice of tokens for the first samples of a block: K0, the bits so far, and the tokens, newest first. -/
structure Path where
  k0 : Nat
  cost : Nat
  toks : List (List Bool)
  deriving DecidableEq, Repr

/-- A path with one token more. -/
def Path.add (p : Path) (t : List Bool) : Path := { p with cost := p.cost + t.length, toks := t :: p.toks }

/-- The shorter of two paths. -/
def shorter (a b : Option Path) : Option Path :=
  match a, b with
  | some p, some q => if p.cost ≤ q.cost then a else b
  | none, _ => b
  | _, none => a

/-- The shortest path for each Rice parameter 0 to 27, beside the last three decoded values, newest first and shifted as R276 uses them: what
may follow depends on these alone. -/
abbrev Reach := List Int × List (Option Path)

/-- Takes what a token reaches up. -/
def reachAdd (x : Reach) (l : List Reach) : List Reach :=
  if l.any fun y => y.1 == x.1 then l.map fun y => if y.1 == x.1 then (y.1, List.zipWith shorter y.2 x.2) else y else x :: l

/-- The Rice code of a residual (R277). -/
def riceBits (V s k : Nat) (e : Int) : List Bool :=
  let u := if 0 ≤ e then (2 * e).toNat else (-2 * e - 1).toNat
  let q := u / 2 ^ k
  if q < 16 then List.replicate q true ++ [false] ++ natBits k (u % 2 ^ k) else List.replicate 16 true ++ natBits (V + 4 - s) u

/-- The shifted values of the longest RUN: those that the prediction meets (Table 10-3). -/
def runOf (pred : Nat) : List Int → List Int → List Int
  | [], _ => []
  | v :: r, ys => if v = predict pred 0 ys then v :: runOf pred r (v :: ys) else []

/-- The shifted values of the longest REPEAT of a source block from position `i` on: those within the bound of R275. -/
def copyOf (s : Nat) (src : List Sample) : Nat → List Int → List Int
  | _, [] => []
  | i, v :: r =>
    match src[i % 64]? with
    | some x =>
      if (x.1 - v).natAbs ≤ (if s = 0 then 0 else 2 ^ (s - 1)) then x.1 / ((2 ^ s : Nat) : Int) :: copyOf s src (i + 1) r else []
    | none => []

/-- The beginnings of a list of values, from one value on. -/
def fronts (l : List Int) : List (List Int) := (List.range l.length).map fun m => l.take (m + 1)

/-- What each token that can come next reaches, with the samples that it codes, where `rest` is still to be coded from sample `i` on; a KSET
stands ahead of a RES, since no other token uses k (Table 10-3). -/
def reachNext (V s pred : Nat) (hist : List (List Sample)) (depth i : Nat) (rest : List Int) (x : Reach) : List (Nat × Reach) :=
  let sh := rest.map fun (v : Int) => v / ((2 ^ s : Nat) : Int)
  let after (vs : List Int) : List Int := (vs.reverse ++ x.1).take 3
  let lenm1 (vs : List Int) : List Bool := natBits 6 (vs.length - 1)
  let go (t : List Bool) (vs : List Int) : Nat × Reach := (vs.length, (after vs, x.2.map fun p => p.map (Path.add · t)))
  let res := match sh with
    | [] => []
    | v :: _ =>
      let code (k : Nat) : List Bool := false :: riceBits V s k (v - predict pred 0 x.1)
      let best := x.2.foldl shorter none
      [(1, (after [v], x.2.mapIdx fun k p =>
        shorter (p.map (Path.add · (code k))) (best.map (Path.add · ([true, true, true, true, false] ++ natBits 5 k ++ code k)))))]
  let run := (fronts (runOf pred sh x.1)).map fun vs => go ([true, false] ++ lenm1 vs) vs
  let lit := (fronts sh).map fun vs => go ([true, true, true, false] ++ lenm1 vs ++ vs.flatMap fun v => natBits (V - s) (unsigned (V - s) v)) vs
  let rep := (List.range (min 63 depth)).flatMap fun d => (List.range 64).flatMap fun j =>
    (fronts (copyOf s (hist.getD d []) (i + j) rest)).map fun vs =>
      go ([true, true, false] ++ natBits 6 (d + 1) ++ natBits 6 j ++ lenm1 vs) vs
  res ++ run ++ lit ++ rep

/-- Goes on to the end of the block from what reaches sample `i`, and each sample after it. -/
def walk (V s pred : Nat) (hist : List (List Sample)) (depth : Nat) : Nat → List Int → List (List Reach) → Option Path
  | _, [], l => (l.headD []).foldl (fun b x => x.2.foldl shorter b) none
  | _, _ :: _, [] => none
  | i, v :: r, here :: later =>
    walk V s pred hist depth (i + 1) r
      (here.foldl (fun l x => (reachNext V s pred hist depth i (v :: r) x).foldl (fun l t => modAt l (t.1 - 1) (reachAdd t.2)) l) later)

/-- The shortest tokens of a block at a SHAVE and a predictor, with the K0 ahead of them (R284). -/
def shortestTokens (V s pred : Nat) (hist : List (List Sample)) (depth : Nat) (y vs : List Int) : Option (Nat × List Bool) :=
  let y := (List.range 3).map fun i => y.getD i 0 / ((2 ^ s : Nat) : Int)
  let start : Reach := (y, (List.range 28).map fun k => some ⟨k, 0, []⟩)
  (walk V s pred hist depth 0 vs ([start] :: List.replicate vs.length [])).map fun p => (p.k0, p.toks.reverse.flatten)

/-- The flag section, in the shortest FMODE that holds the flags (Table 10-2). -/
def flagSection (raw : Bool) (inp : List Sample) : Nat × List Bool :=
  let F := flagBits raw
  let fs := inp.map fun x => x.2 % 2 ^ F
  let padded (l : List Bool) : List Bool := l ++ List.replicate (8 * ceilDiv l.length 8 - l.length) false
  if fs.all (· == 0) then (0, [])
  else if fs.all (· == fs.headD 0) then (1, padded (natBits F (fs.headD 0)))
  else (2, padded (fs.flatMap (natBits F)))

/-- The block at a SHAVE from 0 to 7, with the predictor and the tokens of the shortest body (R284). -/
def shavedBlock (raw fresh pzero : Bool) (hist : List (List Sample)) (depth : Nat) (y : List Int) (inp : List Sample) (s : Nat) : Option Bytes :=
  let (fm, fl) := flagSection raw inp
  let depth := if fresh then 0 else depth
  let y := if pzero then [] else y
  ((List.range 4).filterMap fun pred => (shortestTokens (valBits raw) s pred hist depth y (inp.map Prod.fst)).map fun t =>
    be 2 (blockHead false s fm fresh pzero + pred * 8192 + t.1 * 4) ++ bytesOfBits (fl ++ t.2)).foldl
    (fun b p => match b with | some q => if q.length ≤ p.length then b else some p | none => some p) none

/-- The first SHAVE from 0 to 7 whose shortest block fits the budget, with that block; none where FLOOR is due (R284, R286). -/
def firstFit (raw : Bool) (mode : Nat) (fresh pzero : Bool) (hist : List (List Sample)) (depth : Nat) (y : List Int)
    (inp : List Sample) : Option (Nat × Bytes) :=
  (List.range 8).findSome? fun s => match shavedBlock raw fresh pzero hist depth y inp s with
    | some b => if b.length ≤ budget raw mode then some (s, b) else none
    | none => none

/-- SHAVE of a block, and the bytes up to the end of its body. -/
def shaveAndSize (raw : Bool) (mode n : Nat) (hist : List (List Sample)) (depth : Nat) (y : List Int) (b : Bytes) : Nat × Nat :=
  match decodeBlock raw mode n hist depth y b with
  | .bad _ _ => (15, 0)
  | .good k => (k.shave, k.size)

/-- The form of a block's flag section: its FMODE, and the bytes that `len` bits of it take (Table 10-2). -/
def flagForm (len : Nat) (b : Bytes) : Nat × Bytes := (unbe (b.take 2) / 128 % 4, (b.drop 2).take (len / 8))

/-- The n-th block written, with whether a mismatch was counted: the block of a free value where it passes the self-check, else the checking
path's (R288). In FR it has the first SHAVE that fits, the flags as they are and the shortest body, in FLOOR form where none fits (R284,
R286); which of several shortest bodies is free. In LL a block that would not be smaller is RAWB (R287; log entry 17). -/
def encodeBlock (n : Nat) (raw : Bool) (mode : Nat) (fresh pzero : Bool) (hist : List (List Sample)) (depth : Nat)
    (y : List Int) (inp : List Sample) : Bytes × Bool :=
  let b := Config.churnBlock n mode (inp.map Prod.fst)
  if blockOk raw mode fresh pzero hist depth y inp b then
    if mode = 4 then (if inp.length * wordBytes raw ≤ b.length then checkedBlock raw mode fresh pzero inp else b, false)
    else match firstFit raw mode fresh pzero hist depth y inp with
      | none => (checkedBlock raw mode fresh pzero inp, false)
      | some (s, own) =>
        let len := (flagSection raw inp).2.length
        (if shaveAndSize raw mode inp.length hist depth y b = (s, own.length) ∧ flagForm len b = flagForm len own then b else own ++ pad (budget raw mode - own.length), false)
  else (checkedBlock raw mode fresh pzero inp, true)

/-- What the use holds after a block: decoded samples in history, the depth since FRESH, the predictor state (R279,
R280). -/
def decodedOf (raw : Bool) (mode : Nat) (hist : List (List Sample)) (depth : Nat) (y : List Int) (n : Nat) (b : Bytes) :
    List (List Sample) × Nat × List Int :=
  match decodeBlock raw mode n hist depth y b with
  | .bad _ _ => (hist, depth, y)
  | .good k =>
    ((k.samples :: hist).take 64, min 64 ((if k.fresh then 0 else depth) + 1),
      ((k.samples.reverse.map Prod.fst) ++ y).take 3)

end Sys2Proof.Machine
end

