-- ==== Sys2Proof/Machine/FaultOps.lean ====
section
/-! DEFINITION. Retry windows and retirement of channels and engines (R404 to R410). -/

namespace Sys2Proof.Machine

/-- A fault event in a window: a new window where none is open or the open one has ended (R404). -/
def FaultWin.hit (w : Option FaultWin) (now len allowed code : Nat) : FaultWin :=
  match w with
  | some x => if now < x.opened + x.length then { x with events := x.events + 1 } else ⟨now, len, allowed, 1, code, [code]⟩
  | none => ⟨now, len, allowed, 1, code, [code]⟩

/-- More recurrences than the window allows (Table 15-1): the opening event is no recurrence. -/
def FaultWin.over (w : FaultWin) : Bool := decide (w.allowed + 1 < w.events)

/-- The window's time is up. -/
def FaultWin.due (w : FaultWin) (now : Nat) : Bool := decide (w.opened + w.length ≤ now)

/-- Present conditions of a channel by their codes (Tables 15-1 and 15-6). -/
def Chan.present (c : Chan) (now code : Nat) : Bool :=
  (code == 0x0101 && (c.clamped || decide (now < c.clampEnd))) || (code == 0x0102 && c.cm.viol) || (code == 0x0103 && c.excOl) ||
    (code == 0x0108 && c.audit.suspect)

/-- The codes of the present conditions. -/
def Chan.presents (c : Chan) (now : Nat) : List Nat := [0x0101, 0x0102, 0x0103, 0x0108].filter fun k => c.present now k

def Chan.anyPresent (c : Chan) (now : Nat) : Bool := !(c.presents now).isEmpty

/-- ARG0 of a channel's fault record (Table 15-6). -/
def Chan.faultArg (c : Chan) (code : Nat) : Word :=
  if code = 0x0101 then argN c.clampCount else if code = 0x0102 then argN c.cmCount
  else if code = 0x0108 then argN (c.audit.window.filter id).length else 0

/-- The drive amplitude at a reference cycle, in 1/8,000 of an AMP code: a linear ramp of 64 µs, which is 8,000 cycles (R39; log
entry 102 on a ramp that starts within another). -/
def Chan.ampAt (c : Chan) (cycles : Nat) : Nat :=
  let t := min 8000 (cycles - c.rampAt)
  (((c.rampFrom : Int) * (8000 - t) + (c.rampTo : Int) * t) / 8000).toNat

/-- The amplitude a ramp leads to, in 1/8,000 of an AMP code: AMP for a driver that is on, else 0. -/
def Desc.rampGoal (d : Desc) (on : Bool) : Nat := if on && d.drives then d.amp * 8000 else 0

/-- The instant of the first of some armed AFE_SYNCs that name the channel (R40). -/
def firstSync (l : List SyncArm) : Option Nat := leastOf ((l.filter SyncArm.own).map SyncArm.at')

/-- The amplitude at a cycle `cycles` of array time `now` as a fraction of 1/8,000 AMP code: in the 64 µs before the instant of the first
armed AFE_SYNC that names the channel it falls linearly from where it stood to 0 (R39, R40). -/
def Chan.ampNow (c : Chan) (cycles now : Nat) : Nat × Nat :=
  match firstSync c.syncs with
  | some t =>
    if t ≤ now then (0, 1)
    else if t ≤ now + 65536000 then (c.ampAt (cycles - (now + 65536000 - t) / fuCycle) * (t - now), 65536000)
    else (c.ampAt cycles, 1)
  | none => (c.ampAt cycles, 1)

/-! ## The excitation reference of an octet (R34, R434) -/

/-- Steps of one trim LSB to the code of the swap, and of the whole change. -/
def ExcRef.toVia (r : ExcRef) : Nat := (r.via - r.code).natAbs
def ExcRef.steps (r : ExcRef) : Nat := r.toVia + (r.goal - r.via).natAbs

/-- The trim code after a number of steps: to the code of the swap, and on to the goal. -/
def ExcRef.codeAfter (r : ExcRef) (n : Nat) : Int :=
  let a := min n r.toVia
  let b := min (n - r.toVia) (r.goal - r.via).natAbs
  r.code + (if r.code ≤ r.via then (a : Int) else -(a : Int)) + (if r.via ≤ r.goal then (b : Int) else -(b : Int))

/-- Step i of a change begins: the steps are spread evenly over the span (R434). -/
def ExcRef.stepAt (r : ExcRef) (i : Nat) : Nat := r.start + i * r.span / max 1 r.steps

/-- Steps begun by a true time. -/
def ExcRef.begun (r : ExcRef) (t : Nat) : Nat := ((List.range r.steps).filter fun i => decide (r.stepAt i ≤ t)).length

/-- The trim code of the last step begun. -/
def ExcRef.codeAt (r : ExcRef) (t : Nat) : Int := r.codeAfter (r.begun t)

/-- The trim in 1/64,000 of an LSB: each step is ramped over 64 µs (R434). -/
def ExcRef.levelAt (r : ExcRef) (t : Nat) : Int :=
  r.code * 64000 + ((List.range r.steps).map fun i => (r.codeAfter (i + 1) - r.codeAfter i) * (min 64000 (t - r.stepAt i) : Nat)).sum

/-- Spare segments in use: the swap is made once the steps have come to its code (R434). -/
def ExcRef.segsAt (r : ExcRef) (t : Nat) : List (Nat × Nat) :=
  if decide (r.start ≤ t) && decide (r.toVia ≤ r.begun t) then r.segGoal else r.segs

/-- A new change starts from where the last one stands (R434). -/
def ExcRef.change (r : ExcRef) (goal via : Int) (segs : List (Nat × Nat)) (t span : Nat) : ExcRef :=
  ⟨r.codeAt t, goal, via, r.segsAt t, segs, t, span⟩

/-- A channel's accumulator some reference cycles before the present: before the last AFE_SYNC it ran on from what it held (R38,
R40). -/
def Chan.accBack (c : Chan) (cycles back : Nat) : BitVec 32 :=
  let at' : Int := (cycles : Int) - back
  if at' < c.accSet then c.accWas + BitVec.ofInt 32 ((c.desc.afe.freq.toNat : Int) * (at' - c.accSet))
  else c.acc + BitVec.ofInt 32 ((c.desc.afe.freq.toNat : Int) * (at' - c.accAt))

/-- A change of a channel marks its samples with ST from stage j on (R152, R153). -/
def Chan.settleFrom (c : Chan) (j ramp : Nat) : Chan :=
  { c with stLeft := max c.stLeft (c.desc.settle j ramp), rawStLeft := if j = 0 then max c.rawStLeft (4 + ramp) else c.rawStLeft }

/-- A change outside the channel marks its samples with ST, behind those that wait for their CM state (R49, R54, R153). -/
def Chan.settleBehind (c : Chan) (us : Nat) : Chan :=
  if c.unsettled.isEmpty then c.settleFrom 0 (c.desc.rampRaw us) else { c with unsettled := .settle us :: c.unsettled }

/-- The excitation driver's output phase (R37): its own accumulator, or the partner's in SLAVE_DRIVE, plus PHASE. -/
def Desc.drivePhase (d : Desc) (acc : BitVec 32) : BitVec 32 := acc + (BitVec.ofNat 32 (fld d.afe.drive 31 16)) <<< 16

/-- Ramps the drive off, or back to what the descriptor says, over 64 µs (R39, R407, R449). -/
def Chan.driveSet (c : Chan) (on : Bool) (cycles elapsed : Nat) : Chan :=
  let amp := c.ampAt cycles
  { c with driveOff := !on, rampFrom := amp, rampTo := c.desc.rampGoal on, rampAt := cycles, driveChanged := elapsed }

/-- The samples after a leave carry no AD tag (R89). -/
def AuditStat.untag (a : AuditStat) : AuditStat := { a with adNow := false, adWas := false }

/-- The front end of a channel that comes back: an empty raw history (R75), and no result that waits for it. -/
def Chan.resumeFront (x : Chan) : Chan := { x with hist := [], orTail := 0, auditWait := [] }

/-- The chain of a channel that comes back: cleared, to which no earlier sample contributes, and ST for the settling of a change at
stage 0 (R12, R152, R413, R433, R449, R451). What it produced last is no RT sample any more (R13). -/
def Chan.resume (x : Chan) : Chan :=
  { x with stages := Stages.clear, stLeft := max x.stLeft (x.desc.settle 0 0), rawStLeft := max x.rawStLeft 4,
           orLeft := 0, clLeft := 0, cmLeft := 0, adLeft := 0, trial := none }

/-- A channel leaves comparison: the samples after it carry no AD tag (R89); a retirement has frozen the rest of its status (R94). -/
def Chan.untag (x : Chan) : Chan := if x.retired.isSome then x else { x with audit := x.audit.untag }

/-- Retires a channel for a cause: RT from then on, the drive ramped off for EXC_OL; a spare engine that it ran on is free again
(R407, R408). -/
def Hub.retireChan (h : Hub) (c code count : Nat) : Hub :=
  let h := h.event (unitChan c) code 2 count ((h.ch c).faultArg code) 0
  let now := h.clk.elapsed
  let h := if code = 0x0103 then h.setCh c fun x => x.driveSet false h.clk.cycles now else h
  let h := match (h.ch c).spare with
    | some e =>
      if (h.die (chDie c)).enginesBad.contains e ∨ (h.die (chDie c)).pool.contains e then h
      else h.setDie (chDie c) fun x => { x with pool := x.pool ++ [e] }
    | none => h
  -- x_(k+1) of a cubic stamp does not follow a retirement (R175)
  h.setCh c fun x => { x with retired := some code, win := none, autoTried := false, clearSince := now, spare := none,
                              trig := { x.trig with cubic := x.trig.cubic.map fun w => { w with tNext := 0 } } }

/-- A clamp or a CM violation during an octet's hold skips the channel in its calibration (R439). -/
def Hub.skipInHold (h : Hub) (c code : Nat) : Hub :=
  if (h.oct (chOct c)).held && (h.ch c).calSkip.isNone && (code == 0x0101 || code == 0x0102) then
    h.setCh c fun x => { x with calSkip := some (if code = 0x0102 then 1 else 2) }
  else h

/-- A fault event of a channel (R404). -/
def Hub.chanFault (h : Hub) (c code : Nat) : Hub :=
  let h := h.skipInHold c code
  if (h.ch c).retired.isSome then h
  else
    let w := FaultWin.hit (h.ch c).win h.clk.elapsed (fld h.flt.ch 15 0 * 1000000) (fld h.flt.ch 31 24) code
    let w := if w.events = 1 then { w with lasting := code :: (h.ch c).presents h.clk.elapsed } else w
    if w.over then h.retireChan c code w.events else h.setCh c fun x => { x with win := some w }

/-- The condition of a code has cleared at a time: it has not lasted the open window (R404); where it is what retired the channel, it is
clear since then (R413). -/
def Chan.condClears (c : Chan) (code now : Nat) : Chan :=
  { c with win := c.win.map (fun w => { w with lasting := w.lasting.filter (· != code) }),
           clearSince := if c.retired = some code then now else c.clearSince }

/-- Close of a channel's window: permanent where a condition has lasted it all, a fresh window where one is present that has not, else
transient (R404). -/
def Hub.chanWindow (h : Hub) (c : Nat) : Hub :=
  match (h.ch c).win with
  | none => h
  | some w =>
    let l := (h.ch c).presents h.clk.elapsed
    if !w.due h.clk.elapsed then h
    else match l.find? w.lasting.contains, l with
    | some k, _ => h.retireChan c k w.events
    | none, k :: _ =>
      let w' : FaultWin := ⟨h.clk.elapsed, fld h.flt.ch 15 0 * 1000000, fld h.flt.ch 31 24, 1, k, l⟩
      h.setCh c fun x => { x with win := some w' }
    | none, [] => (h.event (unitChan c) w.code 1 w.events ((h.ch c).faultArg w.code) 0).setCh c fun x => { x with win := none }

/-- The engine that serves a channel, 0 to 135 of its die. -/
def Hub.engineOf (h : Hub) (c : Nat) : Nat := (h.ch c).spare.getD (c % 128)

/-- The channel that an engine of a die serves: one that is not retired, since a retired channel's engine is free (R407). -/
def Hub.servedBy (h : Hub) (d e : Nat) : Option Nat :=
  ((List.range 128).map fun i => 128 * d + i).find? fun c => (h.ch c).retired.isNone && h.engineOf c == e && !(h.die d).enginesBad.contains e &&
    !(h.die d).pool.contains e

/-- A spare takes a channel over with both coefficient sets: the lowest free one; with the pool empty the channel retires (R408). A fade ends
with it, the new set fully active (R159). -/
def Hub.spareChan (h : Hub) (c code : Nat) (readable : Bool) : Hub :=
  let d := chDie c
  match leastOf (h.die d).pool with
  | none => h.retireChan c code 1
  | some n =>
    let h := h.setDie d fun x => { x with pool := x.pool.filter (· != n) }
    let h := h.setCh c fun x =>
      let s := if readable then 2 else x.desc.settle 0 0
      { x with spare := some n, stages := if readable then x.stages else Stages.clear, stLeft := max x.stLeft s, trial := none,
               fade := none, shadow := (match x.fade with | some f => some f.old | none => x.shadow),
               -- in a hold the unit that the channel depends on has failed: what was measured is discarded (R440)
               meas := none }
    h.notice (unitChan c) 0x0F07 (argN n) (if readable then 0 else 1)

def Hub.engWin (h : Hub) (d : Nat) (u : Word) : Option FaultWin :=
  ((h.die d).engWin.find? fun p => p.1 == u).map Prod.snd

def Hub.setEngWin (h : Hub) (d : Nat) (u : Word) (w : Option FaultWin) : Hub :=
  h.setDie d fun x => { x with engWin := (x.engWin.filter fun p => p.1 != u) ++
    (match w with | some v => [(u, v)] | none => []) }

/-- Cycles a second of a churned use in samples (R270). -/
def churnRate (d : Desc) (raw : Bool) : Nat × Nat := if raw then (125000000, d.nDiv) else d.rate

/-- The load of a churn engine of a die in samples a second, as a fraction (R270). -/
def Hub.churnLoad (h : Hub) (d e : Nat) : Nat × Nat :=
  sumQ (((List.range 128).map fun i =>
    let c := h.ch (128 * d + i)
    let use (u : Option ChurnUse) (raw : Bool) : List (Nat × Nat) :=
      match u with | some x => if x.eng = e then [churnRate c.latest raw] else [] | none => []
    use c.churnRaw true ++ use c.churnSkim false ++
      (match c.churnCap with
       | some x =>
         if x.eng = e then
           (h.caps.filterMap id).filterMap fun k =>
             if k.params.churn ≠ 0 ∧ k.params.channels.contains (128 * d + i) then
               some (let r := churnRate c.latest (k.params.src == 0); (r.1, if k.params.src = 0 then r.2 * 2 ^ k.params.decE else r.2))
             else none
         else []
       | none => [])).flatten)

/-- Within the limit of R270. -/
def churnFits (p : Nat × Nat) : Bool := decide (p.1 ≤ 200000000 * p.2)

/-- Moves the churned uses of a failed engine to the others in ascending order as far as R270 allows; a use that none can take
goes on unchurned from the stream's next packet or the capture's next coach, with one notice for its channel (R410). -/
def Hub.moveChurn (h : Hub) (d e : Nat) : Hub :=
  let others := (List.range 4).filter fun i => i != e && (h.die d).churn.engines.getD i false
  let place (c : Nat) (get : Chan → Option ChurnUse) (set : Option ChurnUse → Chan → Chan) (h : Hub) : Hub :=
    match get (h.ch c) with
    | none => h
    | some u =>
      if u.eng ≠ e ∨ u.leaving then h
      else
        match others.find? (fun i => churnFits ((h.setCh c (set (some { u with eng := i }))).churnLoad d i)) with
        | some i => h.setCh c (set (some { u with eng := i }))
        | none => h.setCh c (set (some { u with leaving := true }))
  let leaves (x : Chan) : List Bool := [x.churnRaw, x.churnSkim, x.churnCap].map fun u => u.any ChurnUse.leaving
  forAll ((List.range 128).map fun i => 128 * d + i) (fun c h =>
    let g := place c (·.churnCap) (fun u x => { x with churnCap := u })
      (place c (·.churnSkim) (fun u x => { x with churnSkim := u })
        (place c (·.churnRaw) (fun u x => { x with churnRaw := u }) h))
    if leaves (g.ch c) = leaves (h.ch c) then g else g.notice (unitChan c) 0x0703 0 0) h

/-- What retiring an engine leaves: a channel engine's bench, a separator engine less, or churned uses moved (R407 to
R410). -/
def Hub.retireEngine (h : Hub) (d typ e : Nat) : Hub :=
  if typ = 4 then h.setDie d fun x => { x with sep := { x.sep with engines := x.sep.engines - 1 } }
  else if typ = 5 then
    (h.setDie d fun x => { x with churn := { x.churn with engines := modAt x.churn.engines e fun _ => false } }).moveChurn d e
  else h

/-- Unit word of an engine: type 2 channel, 4 separator, 5 churn (Table 15-5). -/
def engineUnit (d typ e : Nat) : Word :=
  if typ = 4 then unitWord 4 (8 * d + e) else if typ = 5 then unitWord 5 (4 * d + e) else unitEngine d e

/-- ARG0 of an engine's record: the address of an error in its memory, which no command carries, is free (Table 15-6; log entry 195). -/
def Hub.faultAddr (h : Hub) (code : Nat) : Word := if code = 0x0F03 then argN (Config.eccAddr h.fresh) else 0

/-- A failure of an engine with its repeated test: a channel engine is spared at once; permanent where the repeated test fails
or failures exceed N_ENG within WIN_ENG (Table 15-1, R405, R408). `readable` is false where its state cannot be read. -/
def Hub.engineFail (h : Hub) (d typ e code : Nat) (readable passes : Bool) : Hub :=
  let u := engineUnit d typ e
  let w := FaultWin.hit (h.engWin d u) h.clk.elapsed (fld h.flt.eng 15 0 * 1000000000) (fld h.flt.eng 31 24) code
  let served := if typ = 2 then h.servedBy d e else none
  let h := if typ = 2 then h.setDie d fun x => { x with enginesBad := e :: x.enginesBad.filter (· != e),
                                                        pool := x.pool.filter (· != e) } else h
  let h := match served with | some c => h.spareChan c code readable | none => h
  if !passes || decide (w.allowed < w.events) then
    let h := (h.event u code 2 w.events (h.faultAddr code) 0).setEngWin d u none
    ({ h with flt := { h.flt with retired := h.flt.retired ++ [u] } }).retireEngine d typ e
  else h.setEngWin d u (some w)

/-- Close of an engine's window: transient; a channel engine returns to the spare pool (R404, R405). -/
def Hub.engineWindow (h : Hub) (d typ e : Nat) : Hub :=
  let u := engineUnit d typ e
  match h.engWin d u with
  | none => h
  | some w =>
    if !w.due h.clk.elapsed then h
    else
      let h := if w.code = 0x0F03 then h.tick else h
      let h := (h.event u w.code 1 w.events (h.faultAddr w.code) 0).setEngWin d u none
      if typ = 2 then h.setDie d fun x => { x with enginesBad := x.enginesBad.filter (· != e), pool := x.pool ++ [e] } else h

end Sys2Proof.Machine
end

