-- ==== Sys2Proof/Machine/Flows.lean ====
section
/-! DEFINITION. What flows do with their samples and packets: sweeps, SET and churn items (09, 10), flushes,
acknowledgements, churn blocks, and what a step of array time does to packets (04). -/

namespace Sys2Proof.Machine

/-! ## Items of a sweep (R239, R240, R289) -/

/-- A stream's entries of a sweep with the number of RATE markers that follow an earlier entry of the stream: what comes
before a change and what after it. -/
def segmented (l : List SweepSample) : List (Nat × SweepSample) :=
  (l.foldl (fun (acc : List (Nat × SweepSample) × Nat × Bool) x =>
    let (out, seg, seen) := acc
    if x.wsize = 4 then
      let seg := if seen then seg + 1 else seg
      (out ++ [(seg, x)], seg, seen)
    else (out ++ [(seg, x)], seg, true)) ([], 0, false)).1

/-- The SET word (Table 09-3). -/
def setWord (wsize count : Nat) : Nat := wsize * 2 ^ 30 + count

/-- One SET item of a group: streams ascending with the same sample indices (R239). -/
def setItem (wsize : Nat) (streams : List Nat) (all : List SweepSample) : Item :=
  let lead := streams.headD 0
  let idx := (all.filter fun x => x.stream == lead && x.wsize == wsize).map (·.index)
  let mask := ofBits (streams.map fun s => s % 1024 % 128)
  let body := idx.flatMap fun i => streams.flatMap fun s =>
    ((all.find? fun x => x.stream == s && x.index == i && x.wsize == wsize).map (·.bytes)).getD []
  ⟨6, lead, idx.headD 0 % 2 ^ 32, be 4 (setWord wsize idx.length) ++ be 16 mask ++ body⟩

/-- The die, the samples' indices and the word size of one stream: what a group shares. -/
def groupKey (all : List SweepSample) (s : Nat) : List (Nat × Nat × Nat) :=
  (s % 1024 / 128, 0, 0) ::
    (all.filter fun x => x.stream == s && decide (x.wsize ≤ 2)).map fun x => (x.wsize, x.index, x.inst)

/-- A stream's samples are all that its grid has in a sweep from s to e: none before the first and none after the last lies in it. -/
def wholeSweep (all : List SweepSample) (s e stream : Nat) : Bool :=
  let mine := all.filter fun x => x.stream == stream && decide (x.wsize ≤ 2)
  match mine.head?, mine.getLast? with
  | some a, some z => decide (a.aux ≤ s) && (z.aux == 0 || decide (e ≤ 2 * z.inst + 2 - z.aux))
  | _, _ => false

/-- The SET items of one segment of a sweep from s to e: streams grouped by identical instants and word size; one whose indices are
not the whole sweep's has an item of its own (R240). -/
def setItems (all : List SweepSample) (s e : Nat) : List Item :=
  let streams := sortNat ((all.filter fun x => decide (x.wsize ≤ 2)).map (·.stream)).eraseDups
  let with' (a b : Nat) : Bool := a == b || (wholeSweep all s e a && wholeSweep all s e b && groupKey all a == groupKey all b)
  let firsts := streams.filter fun a => (streams.find? (with' a)) == some a
  firsts.map fun a =>
    setItem ((all.find? fun x => x.stream == a && decide (x.wsize ≤ 2)).map (·.wsize) |>.getD 0) (streams.filter (with' a)) all

/-- The CHURN word (Table 10-5) of consecutive blocks. -/
def churnWord (l : List SweepSample) : Nat :=
  let a := (l.headD ⟨0, 0, 0, 5, 0, [], 0⟩).aux
  let z := (l.getLastD ⟨0, 0, 0, 5, 0, [], 0⟩).aux
  a % 8 * 2 ^ 29 + (if 1024 ≤ a then 2 ^ 28 else 0) + z / 8 % 128 * 2 ^ 16 + l.length * 256

/-- A churn DATA item (R289). -/
def churnItem (l : List SweepSample) : Item :=
  let a := l.headD ⟨0, 0, 0, 5, 0, [], 0⟩
  ⟨1, a.stream, a.index % 2 ^ 32, be 4 (churnWord l) ++ l.flatMap (·.bytes)⟩

/-- Blocks of one stream cut into items: at 255 blocks, before 16,376 bytes, after a short block, at a change of mode and
ahead of a restored block (R289, R290). -/
def churnItems (l : List SweepSample) : List Item :=
  let r := l.foldl (fun (acc : List Item × List SweepSample) x =>
    let (done, run) := acc
    match run.getLast? with
    | none => (done, [x])
    | some y =>
      let size := 4 + ((run ++ [x]).map fun z => z.bytes.length).sum
      if 255 ≤ run.length || decide (16376 < size) || y.aux / 8 % 128 != 64 || y.aux % 8 != x.aux % 8 || decide (1024 ≤ x.aux)
      then (done ++ [churnItem run], [x]) else (done, run ++ [x])) ([], [])
  if r.2.isEmpty then r.1 else r.1 ++ [churnItem r.2]

/-- The items of a finished sweep: before a stream's RATE item what the stream had until then, after it the rest (R239,
R243, R289). -/
def sweepItems (l : List SweepSample) (s e : Nat) : List Item :=
  let streams := sortNat (l.map (·.stream)).eraseDups
  let seg := streams.flatMap fun s => segmented (l.filter fun x => x.stream == s)
  let n := (seg.map Prod.fst).foldl max 0 + 1
  (List.range n).flatMap fun i =>
    let here := (seg.filter fun p => p.1 == i).map Prod.snd
    ((here.filter fun x => x.wsize == 4).map fun x => (⟨5, x.stream, 0, x.bytes⟩ : Item)) ++ setItems here s e ++
      (streams.flatMap fun s => churnItems (here.filter fun x => x.stream == s && x.wsize == 5))

/-! ## Sweep length (R245) -/

/-- Samples of one sweep of sw µs at a rate num / den. -/
def sweepCount (sw num den : Nat) : Nat := ceilDiv (sw * num) (1000000 * den)

/-- The largest size of a churn block (R284, R287). -/
def churnMax (raw : Bool) (mode : Nat) : Nat := if mode ≤ 3 then budget raw mode else 64 * wordBytes raw + 2

/-- The largest content of one sweep of a SET flow, the RT samples of a lost die's channels that the lead builds among it (R245, R412). -/
def Hub.sweepMax (h : Hub) (k : FlowKey) (sw : Nat) : Nat :=
  let raw := k.kind == 5
  let dies := (List.range h.nDies).filter fun e => (if (h.die e).faulted then h.boot.lead else e) == k.die
  let chs := (dies.flatMap fun e => (List.range (if raw then 32 else 128)).map fun i => 128 * e + (if raw then 32 * k.inst else 0) + i).filter fun c =>
    if raw then (h.ch c).rawEn else (h.ch c).skimEn
  let use (c : Nat) : Option ChurnUse := if raw then (h.ch c).churnRaw else (h.ch c).churnSkim
  let rate (c : Nat) : Nat × Nat :=
    let d := (h.ch c).latest
    let r := if raw then (125000000, d.nDiv) else d.rate
    (r.1 / Nat.gcd r.1 r.2, r.2 / Nat.gcd r.1 r.2)
  let words (c : Nat) : Nat := if raw then 2 else 4 * (h.ch c).latest.words
  let plain := chs.filter fun c => (use c).isNone
  let groups := (plain.map fun c => (chDie c, rate c, words c)).eraseDups
  (groups.map fun g =>
    28 + 4 * ceilDiv (sweepCount sw g.2.1.1 g.2.1.2 * (plain.filter fun c => (chDie c, rate c, words c) == g).length * g.2.2) 4).sum +
  ((chs.filterMap fun c => (use c).map fun u => (c, u)).map fun p =>
    12 + (ceilDiv (sweepCount sw (rate p.1).1 (rate p.1).2) 64 + 1) * churnMax raw p.2.mode).sum

/-- SW in µs: the longest that fits 16,376 bytes (R245). -/
def Hub.sweepLen (h : Hub) (k : FlowKey) : Nat :=
  ([1000, 500, 250, 100, 50, 25, 10, 5].find? fun sw => decide (h.sweepMax k sw ≤ 16376)).getD 5

/-- SW recomputed for the SET flows of a die: at once for a flow that has not started, else at a whole second (R245). -/
def Hub.reSweep (h : Hub) (d : Nat) : Hub :=
  { h with flows := h.flows.map fun f =>
      if f.key.die == d && (f.key.kind == 0 || f.key.kind == 5) then
        let sw := h.sweepLen f.key
        if f.started then { f with swNext := if sw = f.sw then none else some sw } else { f with sw := sw }
      else f }

/-! ## Flush (R259 to R261) -/

/-- The packet is on its way out. -/
def Flow.busy (f : Flow) (p : Packet) : Bool := f.sending.any fun s => s.seq == p.seq

/-- Closed packets of a flow that have not begun on the link (R259). -/
def Flow.waiting (f : Flow) : List Packet := (f.yoke ++ f.backlog).filter fun p => !f.busy p

/-- ERA items that a flush does not take from the flow: of a change of era or a step, and of the flow's start where SEQ 0 has not
been given out (R98, R99, R250; log entry 133). -/
def Item.keptEra (hard : Bool) (i : Item) : Bool :=
  match i.eraCause with | some 0 => hard | some 1 | some 3 => true | _ => false

/-- Discards what a flush discards, at the instant `till` at which the builder resumes: a soft flush closes the filling packet
first, a hard flush drops it; a packet on its way out completes (R259 to R261). -/
def Flow.flushAt (f : Flow) (till : Nat) (hard : Bool) : Flow :=
  let start := (f.waiting.map Packet.covStart).headD f.covStart
  let g := if hard || decide (till ≤ f.covStart) then f else { f.close till with flush := f.flush }
  let gone := g.waiting
  let first := (gone.map Packet.seq).headD g.nextSeq
  let note : FlushNote := match f.flush with
    | some o => ⟨o.seqFirst, o.seqCount + gone.length, o.covStart, till, hard || o.hard, o.cutWords⟩
    | none => ⟨first, gone.length, start, till, hard, 0⟩
  { g with filling := [], lead := (f.lead ++ f.filling).filter (Item.keptEra hard) ++ eraLead f.covStart (max g.covStart till), yoke := g.yoke.filter g.busy,
           backlog := g.backlog.filter g.busy, covStart := max g.covStart till, since := max g.covStart till, era := eraAll till,
           flush := some note, softFlush := false, gapFrom := none,
           flushed := if gone.isEmpty then g.flushed else g.flushed ++ [(first, gone.length)] }

/-! ## Acknowledgement (R248, R249) -/

/-- a is before b, serially. -/
def seqBefore (a b : Word) : Bool := serialAfter 32 b.toNat a.toNat

/-- The newest sent packet of a flow, else the last acknowledged one. -/
def Flow.newest (f : Flow) : Word := f.held.foldl (fun a p => if seqBefore a p.seq then p.seq else a) f.lastAck

/-- Puts a packet among the re-sends in ascending SEQ, once (R249). -/
def Flow.again (f : Flow) (p : Packet) : Flow :=
  if f.resend.any (fun q => q.seq == p.seq) then f
  else
    let before := f.resend.filter fun q => seqBefore q.seq p.seq
    let after := f.resend.filter fun q => !seqBefore q.seq p.seq
    { f with resend := before ++ [{ p with resent := true }] ++ after }

/-- The packet that states the discard of a SEQ: the first SEQ after it that no flush has discarded (R261). -/
def Flow.carrier (f : Flow) (s : Word) : Word :=
  iter (fun s => match f.flushed.find? fun p => decide ((s - p.1).toNat < p.2) with
    | some p => p.1 + BitVec.ofNat 32 p.2
    | none => s) (f.flushed.length + 1) s

/-- The packets that a NAK range names: held ones, and for a discarded one the packet that carries the FLUSH item (R249,
R261). -/
def Flow.nakked (f : Flow) (first : Word) (count : Nat) : List Packet :=
  let inRange (s : Word) : Bool := decide ((s - first).toNat < count)
  let carriers := (f.flushed.filter fun p => (List.range p.2).any fun i => inRange (p.1 + BitVec.ofNat 32 i)).map fun p =>
    f.carrier p.1
  f.held.filter fun p => inRange p.seq || carriers.contains p.seq

/-- An acknowledgement that runs backward, or ahead of what was sent, is ignored (R248). -/
def Flow.ignores (f : Flow) (cum : Word) : Bool := seqBefore cum f.lastAck || seqBefore f.newest cum

/-- One entry of STRM_ACK (R248, R249): answers the flow, unchanged but for ACK_BAD where the entry is ignored. -/
def Flow.ack (f : Flow) (now age : Nat) (cum : Word) (naks : List (Word × Nat)) : Flow :=
  if f.ignores cum then { f with ackBad := satInc 16 f.ackBad }
  else
    let keep := fun (p : Packet) => seqBefore cum p.seq
    let f := { f with held := f.held.filter keep, resend := f.resend.filter keep, lastAck := cum }
    let named := naks.flatMap fun n => f.nakked n.1 n.2
    let old := f.held.filter fun p => match p.sentAt with
      | some t => decide (t + age * 1000000 < now)
      | none => false
    (named ++ old).foldl Flow.again f

/-! ## Churned streams (R281, R288 to R291, R293) -/

/-- The flow that carries a channel's SKIM or RAW stream (Tables 09-1 and 09-2). -/
def streamKey (raw : Bool) (c : Nat) : FlowKey := if raw then ⟨chDie c, 5, chQuad c % 4⟩ else ⟨chDie c, 0, 0⟩
def streamId (raw : Bool) (c : Nat) : Nat := if raw then 1024 + c else c

def Chan.use (c : Chan) (raw : Bool) : Option ChurnUse := if raw then c.churnRaw else c.churnSkim
def Chan.setUse (raw : Bool) (u : Option ChurnUse) (c : Chan) : Chan :=
  if raw then { c with churnRaw := u } else { c with churnSkim := u }

/-- After a hard flush the rest of the sweep in progress is cut (R260). -/
def Flow.cuts (f : Flow) (inst : Nat) : Bool := (f.flush.any fun n => n.hard) && decide (inst < f.covStart)

/-- A word of a producer that a hard flush cuts is counted (R242, R260; log entry 134). -/
def Flow.cutWords (f : Flow) (n : Nat) : Flow :=
  { f with flush := f.flush.map fun (o : FlushNote) => { o with cutWords := o.cutWords + n } }

/-- An entry reaches the sweep of a flow. -/
def Flow.gather (f : Flow) (x : SweepSample) : Flow :=
  if !f.started then f
  else if x.wsize ≠ 4 ∧ f.cuts x.inst then f.cutWords (max 1 x.wsize)
  else { f with sweep := f.sweep ++ [x] }

/-- The flow that a channel's stream goes to: where its die is out of service, the lead's, for RAW that of the same quadrant (R412, log
entry 169). -/
def Hub.streamOf (h : Hub) (raw : Bool) (c : Nat) : FlowKey := { streamKey raw c with die := h.builder c }

/-- Puts an entry into the sweep of its stream's flow. -/
def Hub.sweepPut (h : Hub) (raw : Bool) (c : Nat) (x : SweepSample) : Hub :=
  h.setFlow (h.streamOf raw c) fun f => f.gather x

/-- A RATE item of a channel's stream in its place among the stream's samples (R150, R243). -/
def Hub.sweepRate (h : Hub) (raw : Bool) (c inst num den words cause : Nat) : Hub :=
  h.sweepPut raw c ⟨streamId raw c, 0, inst, 4, 0, (rateItem 0 num den words cause).payload, inst⟩

/-- Counts a mismatch of a churn engine; the sixteenth within 1 s is a failure of the engine, and the next begin anew (R288, Table 15-1). -/
def Hub.churnMismatch (h : Hub) (d e : Nat) : Hub :=
  let el := h.clk.elapsed
  let l := el :: ((h.die d).churn.mism.getD e []).filter fun t => decide (el < t + 1000000000)
  let h := h.setDie d fun x => { x with churn := { x.churn with
    mism := modAt x.churn.mism e fun _ => if 16 ≤ l.length then [] else l
    fails := modAt x.churn.fails e fun n => (n + 1) % 2 ^ 32 } }
  if 16 ≤ l.length then
    let h := (h.event (unitWord 5 (4 * d + e)) 0x0701 1 16 (argN 16) 0).tick
    h.engineFail d 5 e 0x0701 true (Config.selfTestPass h.fresh (unitWord 5 (4 * d + e)))
  else h

/-- The image of a use's state (Table 10-7). -/
def ChurnUse.image (u : ChurnUse) (raw : Bool) (next : Nat) : Bytes :=
  let hd := be 1 1 ++ be 1 (if raw then 0 else 1) ++ be 1 u.mode ++ be 1 (min u.depth u.history.length) ++
    beInt 4 (u.y.getD 0 0) ++ beInt 4 (u.y.getD 1 0) ++ beInt 4 (u.y.getD 2 0) ++ be 8 next ++ pad 4
  let slot (b : List Sample) : Bytes :=
    let x := b.flatMap (srcWord raw)
    x ++ pad (64 * wordBytes raw - x.length)
  let kept := u.history.take (min u.depth u.history.length)
  let hist := pad ((64 - kept.length) * 64 * wordBytes raw) ++ (kept.reverse.flatMap slot)
  hd ++ be 4 (crc32 (hd ++ hist)).toNat ++ hist

/-- The state that an image holds, for a use that goes on from it (R293). -/
def ChurnUse.load (u : ChurnUse) (raw : Bool) (img : Bytes) : ChurnUse :=
  let b (o n : Nat) : Nat := unbe ((img.drop o).take n)
  let depth := min 64 (b 3 1)
  let w := wordBytes raw
  let block (i : Nat) : List Sample :=
    (List.range 64).map fun j => srcSample raw (b (32 + (64 - 1 - i) * 64 * w + j * w) w)
  { u with history := (List.range depth).map block, depth := depth, fresh := false, restored := true, restore := none,
           y := [signed 32 (b 4 4), signed 32 (b 8 4), signed 32 (b 12 4)] }

/-- Stores a state asked for by CHURN_SAVE at a block boundary (R293). -/
def Hub.churnCapture (h : Hub) (raw : Bool) (c next : Nat) : Hub :=
  match (h.ch c).use raw with
  | none => h
  | some u =>
    if u.save.isEmpty then h
    else
      let img := u.image raw next
      { h.setCh c (Chan.setUse raw (some { u with save := [] })) with
        saved := h.saved.map fun (x : SavedChurn) =>
          if u.save.contains x.handle then { x with image := img, complete := true } else x }

/-- Closes the open block of a churned stream at its last sample, whose instant decides the packet, and begins the next: the block is written
into the sweep, history and predictor follow, and a state asked for is stored (R288 to R291, R293). -/
def Hub.churnClose (h : Hub) (raw : Bool) (c : Nat) : Hub :=
  match (h.ch c).use raw with
  | none => h
  | some u =>
    if u.block.isEmpty then h
    else
      let n := u.block.length
      let (b, bad) := encodeBlock h.fresh raw u.mode u.fresh u.fresh u.history u.depth u.y u.block
      let (hist, depth, y) := decodedOf raw u.mode u.history u.depth u.y n b
      let aux := u.mode + 8 * n + (if u.restored then 1024 else 0)
      let h := h.tick.setCh c (Chan.setUse raw (some
        { u with block := [], history := hist, depth := depth, y := y, fresh := false, restored := false }))
      let h := h.sweepPut raw c ⟨streamId raw c, u.first, u.lastAt, 5, aux, b, u.firstAt⟩
      let h := if bad then h.churnMismatch (chDie c) u.eng else h
      h.churnCapture raw c (u.first + n)

/-- A segment of a churned stream ends: its block closes short, and the next carries FRESH and PZERO (R281, R290). -/
def Hub.churnBreak (h : Hub) (raw : Bool) (c : Nat) : Hub :=
  (h.churnClose raw c).setCh c fun x => x.setUse raw ((x.use raw).map fun u => { u with fresh := true })

/-- A block that is open where a new era begins, at `b`, ends there: no item covers samples of two eras (R98). DESIGN CHOICE (log entry 162): the
change ends the segment. -/
def Hub.churnEra (h : Hub) (raw : Bool) (c b : Nat) : Hub :=
  match (h.ch c).use raw with
  | some u => if !u.block.isEmpty && eraAll u.firstAt != eraAll b && decide (u.firstAt < b) then h.churnBreak raw c else h
  | none => h

/-- A sample of a churned stream (R289, R290): at a block boundary a state asked for is stored and a restored state loaded
ahead of the block's first sample (R293); the first of a new era begins a block (R98). -/
def Hub.churnTake (h : Hub) (raw : Bool) (c idx inst : Nat) (x : Sample) : Hub :=
  if (h.findFlow (streamKey raw c)).any (fun f => f.cuts inst) then h.setFlow (streamKey raw c) fun f => f.cutWords 1 else
  let h := h.churnEra raw c inst
  let h := match (h.ch c).use raw with
    | some u => if u.block.isEmpty then h.churnCapture raw c idx else h
    | none => h
  match (h.ch c).use raw with
  | none => h
  | some u =>
    let u := if u.block.isEmpty then { u with first := idx, firstAt := inst } else u
    let u := match u.block.isEmpty, u.restore with
      | true, some img => u.load raw img
      | _, _ => u
    let h := h.setCh c (Chan.setUse raw (some { u with block := u.block ++ [x], lastAt := inst }))
    if 63 ≤ u.block.length then h.churnClose raw c else h

/-! ## The end of a sweep (R245, R246, R254, R259) -/

/-- Writes an item of a sweep from s to b into the filling packet, which closes first where it has no room for it (R15, R251); where no pail is
left the item is discarded, but for a RATE item, which waits (R254). -/
def Flow.lay (s b : Nat) (f : Flow) (i : Item) : Flow :=
  let f := if f.fits i.size then f else f.close (nsUpTo f.covStart s)
  if !f.full then { f with filling := f.filling ++ [i] }
  else if i.typ = 5 then { f with lead := f.lead ++ [i] }
  else { f.gapOn s b with discarded := f.discarded + 1 }

/-- Writes the items of what the sweep from s holds before `b` into the filling packet, which closes first where it has no room for them
(log entry 131); where the builder has no pail, the whole sweep is discarded with its interval kept for a GAP item, that of a churn block which
began before the sweep in a GAP item of its stream, and only its RATE items wait (R246, R254, R263, R290; log entry 163). -/
def Flow.writeSweep (f : Flow) (s b : Nat) : Flow :=
  let s := max s f.sweepFrom
  let due := f.sweep.filter fun x => decide (x.inst < b)
  let rest := f.sweep.filter fun x => !decide (x.inst < b)
  if due.isEmpty then f
  else
    let items := sweepItems due s b
    let f := if f.full then f else f.stateGap f.gapTill
    let f := if f.fits (itemsSize items) then f else f.close (nsUpTo f.covStart s)
    if f.full then
      let g := f.gapOn s b
      { g with sweep := (due.filter fun x => x.wsize == 4) ++ rest, discarded := f.discarded + 1,
               lead := g.lead ++ (due.filter fun x => x.wsize == 5 && decide (x.since < s)).map fun x => gapItem x.stream x.since s f.gapCause }
    else
      let g := items.foldl (Flow.lay s b) { f with sweep := rest }
      { g with since := (due.map (·.since)).foldl min g.since }

/-- The end of the sweep at b: the sweep's items, then the packet closes at the first of R246 that applies; a soft flush takes
effect here (R259). `next` is the next sweep's largest content. -/
def Flow.sweepPart (f : Flow) (s b next : Nat) : Flow :=
  if !f.started || b ≤ f.covStart && f.sweep.all (fun x => !decide (x.inst < b)) then f
  else
    let f := ((f.stateGap f.gapTill).advance s).writeSweep s b
    let f := if f.full then { f with dest := f.destNext.getD f.dest, destNext := none } else f
    if f.softFlush then f.flushAt b false
    else if b ≤ f.covStart || f.full then f
    else
      let some' := !(f.filling.isEmpty && f.lead.isEmpty)
      if (decide (1024000000 ≤ b - f.covStart) && some') || decide (16384 < itemsSize f.opening + itemsSize f.filling + next) ||
          decide (fuSec ≤ b - f.covStart) || eraAll f.covStart != eraAll b then
        f.close b
      else f

/-- The sweep boundary at or before an instant. -/
def Flow.boundary (f : Flow) (now : Nat) : Nat := now / (f.sw * 1024000) * (f.sw * 1024000)

/-- The ends of the parts of w µs of a sweep from s to e. -/
def Flow.partsBy (f : Flow) (s e w : Nat) : List Nat :=
  (((List.range (f.sw / w)).map fun i => s + (i + 1) * w * 1024000).filter fun x => decide (x < e)) ++ [e]

/-- The content that a sweep has from one instant to another fits a pail, whose items are then no longer than R15 allows; what comes before
the sweep's start s belongs to its first part. -/
def Flow.partFits (f : Flow) (s p q : Nat) : Bool :=
  decide (itemsSize (sweepItems (f.sweep.filter fun x => decide (p ≤ x.inst ∨ p = s) && decide (x.inst < q)) p q) ≤ 16384)

/-- The instants at which the content of a sweep from s to e is written: e; where it would not fit a pail, since RATE items and items of single
channels come to it or since a shorter SW waits for its whole second, the ends of sweeps of the longest length of R245 whose contents fit (R15,
R245, R246; log entry 135). -/
def Flow.parts (f : Flow) (s e : Nat) : List Nat :=
  if f.partFits s s e then [e]
  else
    let fit (w : Nat) : Bool :=
      let l := f.partsBy s e w
      ((s :: l).zip l).all fun x => f.partFits s x.1 x.2
    f.partsBy s e (([500, 250, 100, 50, 25, 10].find? fun w => decide (w < f.sw) && fit w).getD 5)

/-- The end of the sweep at b. -/
def Flow.sweepEnd (f : Flow) (b next : Nat) : Flow :=
  let s := b - f.sw * 1024000
  ((f.parts s b).foldl (fun (a : Flow × Nat) e => (a.1.sweepPart a.2 e (if e = b then next else 16376), e)) (f, s)).1

/-- Every churned stream of a flow ends its segment (R281, R290). -/
def Hub.flowBreak (h : Hub) (k : FlowKey) : Hub :=
  forAll ((List.range 128).map (128 * k.die + ·)) (fun c h =>
    forAll [false, true] (fun raw h => if streamKey raw c = k then h.churnBreak raw c else h) h) h

/-- Every churned stream of the package ends its segment. -/
def Hub.allBreak (h : Hub) : Hub :=
  forAll (h.flows.map Flow.key) (fun k h => h.flowBreak k) h

/-- A block of a churned stream is open on the flow. -/
def Hub.opens (h : Hub) (k : FlowKey) : Bool :=
  (List.range 128).any fun i => [false, true].any fun raw =>
    streamKey raw (128 * k.die + i) == k && (match (h.ch (128 * k.die + i)).use raw with | some u => !u.block.isEmpty | none => false)

/-- Every churned stream of a flow ends the block that is open where a new era begins (R98). -/
def Hub.flowEra (h : Hub) (k : FlowKey) (b : Nat) : Hub :=
  forAll ((List.range 128).map (128 * k.die + ·)) (fun c h =>
    forAll [false, true] (fun raw h => if streamKey raw c = k then h.churnEra raw c b else h) h) h

/-- A discarded sweep from s takes the open blocks of a flow's churned streams with it: their samples from before it are stated in a GAP item of
the stream's own, and the next blocks carry FRESH and PZERO (R254, R281, R290; log entry 163). -/
def Hub.dropBlocks (h : Hub) (k : FlowKey) (s : Nat) : Hub :=
  forAll ((List.range 128).map (128 * k.die + ·)) (fun c h =>
    forAll [false, true] (fun raw h =>
      if streamKey raw c ≠ k then h
      else match (h.ch c).use raw with
        | none => h
        | some u =>
          let h := if u.block.isEmpty || decide (s ≤ u.firstAt) then h
            else h.setFlow k fun f => { f with lead := f.lead ++ [gapItem (streamId raw c) u.firstAt s f.gapCause] }
          h.setCh c (Chan.setUse raw (some { u with block := [], fresh := true }))) h) h

/-- Channels of a flow whose churned use no engine can take (R410). -/
def Hub.leavers (h : Hub) (k : FlowKey) : List Nat :=
  let raw := k.kind == 5
  ((List.range 128).map (128 * k.die + ·)).filter fun c =>
    streamKey raw c == k && (match (h.ch c).use raw with | some u => u.leaving | none => false)

/-- Sample index of the next sample of a channel's stream. -/
def Hub.nextSample (h : Hub) (raw : Bool) (c : Nat) : Nat :=
  let x := h.ch c
  if raw then match x.lastK with | some k => k + 1 | none => ceilDiv h.tm.now x.desc.rawPeriod
  else match x.lastJ with | some j => j + 1 | none => x.desc.skimIdxAt h.tm.now

/-- Such a use ends with its packet: its open block closes short, a state asked for is stored, and the stream goes on in SET items (R290, R293,
R410). -/
def Hub.leave (raw : Bool) (c : Nat) (h : Hub) : Hub :=
  let h := h.churnBreak raw c
  (h.churnCapture raw c (h.nextSample raw c)).setCh c (Chan.setUse raw none)

/-- Ends the sweep of a SET flow (R245): ahead of a soft flush and a new era churned streams close their open blocks, and a sweep that is discarded
for want of a pail takes them with it (R98, R254, R259, R290). -/
def Hub.sweepFlow (h : Hub) (k : FlowKey) : Hub :=
  match h.findFlow k with
  | none => h
  | some f =>
    if f.key.kind ≠ 0 ∧ f.key.kind ≠ 5 then h
    else
      let b := f.boundary h.tm.now
      let was := h.seqs
      let h := if f.started && f.softFlush then h.flowBreak k else h
      let h := if f.started && eraAll (b - 1) != eraAll b then h.flowEra k b else h
      let empty := f.started && f.full && !f.softFlush && !(f.sweep.any fun x => decide (x.inst < b)) && h.opens k
      let s := max (b - f.sw * 1024000) f.sweepFrom
      let h := if (f.sweepEnd b (h.sweepMax k f.sw)).nextSeq = f.nextSeq then h
        else forAll (h.leavers k) (Hub.leave (k.kind == 5)) h
      let h := h.setFlow k fun f => f.sweepEnd (f.boundary h.tm.now) (h.sweepMax k f.sw)
      let lost := (h.findFlow k).any fun g => g.discarded != f.discarded
      let h := if empty then h.setFlow k fun g => { g.gapOn s b with discarded := g.discarded + 1 }
        else h
      (if lost || empty then h.dropBlocks k s else h).flowBuilt k.die was

/-! ## Array time and packets (R98, R114, R246) -/

/-- What each flow does at an array second: packets due close, ERA items of the minute stand unless a step or load has given
the second one of its own, a new SW begins (R98, R245, R246). SET flows close at their sweeps. -/
def Flow.second (f : Flow) (now : Nat) (stepped : Bool) : Flow :=
  if !f.started then f
  else
    let f := if f.key.kind = 0 ∨ f.key.kind = 5 then f else (f.stateGap now).advance now
    let f := if secOf now % 60 = 0 && secOf now % 2 ^ 24 != 0 && !stepped then f.mark now (eraItem now 2) else f
    match f.swNext with
    | some sw => { f with sw := sw, swNext := none }
    | none => f

/-- What a count step or load does to a flow (R98, R114, R246): backward, the open packet closes at the step and coverage
stays; forward, coverage runs on over the skipped interval, which the flows of sampled streams state in a GAP item; an ERA
item of cause 3 follows. -/
def Flow.stepped (f : Flow) (old new : Nat) : Flow :=
  if !f.started then f
  else
    let set := f.key.kind == 0 || f.key.kind == 5
    let f := if set then
        let s := f.boundary old
        ((f.parts s (old + 1)).foldl (fun (a : Flow × Nat) e => (a.1.writeSweep a.2 e, e)) (f, s)).1
      else f
    let f := { f with sweepFrom := if new < old then old + 1 else new }
    let f :=
      if new < old then
        if f.covStart < old then f.close old else f
      else
        let f := f.advance (if set then f.boundary new else new)
        if (set || f.key.kind == 1 || f.key.kind == 2) && decide (old < new) then f.mark new (gapItem 4095 old new 3) else f
    f.mark (max f.covStart new) (eraItem new 3)

end Sys2Proof.Machine
end

