-- ==== Sys2Proof/Machine/Capture.lean ====
section
/-! DEFINITION. Captures, coaches and trains (07): steps and reservations, histories, the start and the filling of
trains, coaches as bytes, the COACH stream. -/

namespace Sys2Proof.Machine

/-! ## Sizes (R194, R195, R209) -/

/-- PRE of a capture (Table 07-3). -/
def CapParams.pre (p : CapParams) : Nat := min (p.len * p.prePct / 100) (p.len - 1)

/-- Source period of a channel in 1/1,024 ns, as a fraction (R195). -/
def srcPeriod (src : Nat) (d : Desc) : Nat × Nat :=
  if src = 0 then (d.rawPeriod, 1) else (d.cycR * fuCycle * d.rsDen, d.rsNum)

/-- The source index of an instant: ceil(t / P) (R123, R197). -/
def srcIdx (src : Nat) (d : Desc) (t : Nat) : Nat := if src = 0 then ceilDiv t d.rawPeriod else d.skimIdxAt t

/-- The instant of a source index. -/
def srcInst (src : Nat) (d : Desc) (i : Nat) : Nat := if src = 0 then i * d.rawPeriod else d.skimInst i

/-- Bytes of a stored sample (R194). -/
def srcBytes (src : Nat) (d : Desc) : Nat := if src = 0 then 2 else 4 * d.words

/-- B(n) of R194. -/
def coachPayload (churn w n : Nat) : Nat :=
  let blocks := ceilDiv n 64
  4 * ceilDiv (match churn with
    | 0 => n * w
    | 1 => blocks * 64 * w / 2
    | 2 => blocks * 64 * w * 3 / 8
    | 3 => blocks * 64 * w / 4
    | _ => n * w + 2 * blocks) 4

/-- Granules of one coach (R194). -/
def CapParams.coachKib (p : CapParams) (d : Desc) (step : Nat) : Nat :=
  ceilDiv (32 + coachPayload p.churn (srcBytes p.src d) (ceilDiv p.len (2 ^ (p.decE + step)))) 1024

/-- Stored samples of a channel's history (R195). -/
def CapParams.histLen (p : CapParams) (d : Desc) (step lat : Nat) : Nat :=
  let per := srcPeriod p.src d
  let e := if p.groups.isEmpty then 0 else ceilDiv (lat * 1024 * per.2) per.1
  ceilDiv (CapParams.pre p + e) (2 ^ (p.decE + step)) + 3

def CapParams.histKib (p : CapParams) (d : Desc) (step lat : Nat) : Nat :=
  ceilDiv (CapParams.histLen p d step lat * srcBytes p.src d) 1024

/-- Granules of a die's coach area (R188, R191). -/
def Store.coachKib (s : Store) : Nat := (3072 - fld s.part 27 16 - fld s.part 11 0 - s.lostCoach) * 16

/-- Channels of a capture on a die. -/
def CapParams.on (p : CapParams) (d : Nat) : List Nat := p.channels.filter fun c => chDie c == d

/-- A capture holds history of a channel: all of its channels', and once it rearms no more, those whose coaches still fill (R198). -/
def Capture.keepsHistory (c : Capture) (ch : Nat) : Bool := !c.stopping || (c.train.any fun (t : Train) => t.open'.contains ch)

/-- Granules of the coach area in use on a die (R209). -/
def Hub.coachUsed (h : Hub) (d : Nat) : Nat :=
  ((((h.die d).store.coaches.filter fun c => c.st != .free)).map Coach.kib).sum +
    (h.caps.map fun o => match o with
      | none => 0
      | some c => ((c.dies.filter fun x => x.die == d).map fun x =>
          x.reserved + (((CapParams.on c.params d).filter c.keepsHistory).map fun ch => CapParams.histKib c.params (h.ch ch).desc x.step h.trg.lat).sum).sum).sum

/-- The next STEP at an occupancy (Table 07-10); shedding level 4 sets 6 (Table 17-8). -/
def Hub.stepNext (h : Hub) (d step : Nat) : Nat :=
  let st := (h.die d).store
  let used := h.coachUsed d
  if 4 ≤ h.pwr.shed then 6
  else if fld st.wm 31 24 * st.coachKib ≤ 100 * used then min (step + 1) 6
  else if 100 * used ≤ fld st.wm 23 16 * st.coachKib then step - 1
  else step

def Hub.setCap (h : Hub) (n : Nat) (f : Capture → Capture) : Hub := { h with caps := modAt h.caps n (Option.map f) }

def Hub.cap (h : Hub) (n : Nat) : Option Capture := (h.caps.getD n none)

/-- The channel states of a capture at a step: histories restart (R195). -/
def capChanInit (c : Nat) : CapChan := ⟨c, [], [0, 0, 0, 0, 0, 0], [0, 0, 0, 0, 0, 0], 0, none⟩

/-- One die sets STEP where `eval` holds and reserves the next coaches of its channels, or enters WAIT with one CAP_FULL
record (R194, R209). -/
def Hub.reserveDie (n : Nat) (eval : Bool) (d : Nat) (h : Hub) : Hub :=
  match h.cap n with
  | none => h
  | some c =>
    match c.dies.find? (fun x => x.die == d) with
    | none => h
    | some x =>
      let step := if eval then h.stepNext d x.step else x.step
      let chs := CapParams.on c.params d
      let restart (y : CapChan) : CapChan := if chDie y.ch == d && step != x.step then capChanInit y.ch else y
      let h := if step = x.step then h else h.notice (unitCap n) 0x0402 (argN d) (argN step)
      let set (f : CapDie → CapDie) (h : Hub) : Hub :=
        h.setCap n fun c => { c with dies := c.dies.map fun y => if y.die == d then f y else y }
      let h := set (fun y => { y with step := step }) (h.setCap n fun c => { c with chans := c.chans.map restart })
      let h := if step = x.step then h
        else { h with chans := modAll h.chans chs fun _ z => { z with churnCap := z.churnCap.map fun (u : ChurnUse) =>
          { u with fresh := true } } }
      let need := (chs.map fun ch => CapParams.coachKib c.params (h.ch ch).desc step).sum
      let st := (h.die d).store
      -- slots that other reservations of the die will take come first (R202)
      let taken := (h.caps.map fun o => match o with
        | some k => ((k.dies.filter fun y => y.die == d).map CapDie.slots).sum
        | none => 0).sum - x.slots
      let slots := (List.range (taken + chs.length)).all fun i =>
        st.coaches.all fun y => y.st == .free || y.seq % 65536 != (st.nextCoach + i) % 65536
      if h.coachUsed d + need ≤ st.coachKib ∧ slots then
        set (fun y => { y with reserved := need, slots := chs.length, wait := false }) h
      else
        let h := if x.wait then h else h.notice (unitCap n) 0x0401 (argN d) 0
        set (fun y => { y with wait := true }) h

/-- Every die of a capture that has no reservation reserves (R194). -/
def Hub.reserve (h : Hub) (n : Nat) : Hub :=
  match h.cap n with
  | none => h
  | some c => forAll (c.dies.map CapDie.die) (Hub.reserveDie n true) h

/-- After space is freed on a die, captures that wait there try again (R194). -/
def Hub.retryWait (h : Hub) (d : Nat) : Hub :=
  forAll (List.range 32) (fun n h => match h.cap n with
    | some c => if c.dies.any (fun x => x.die == d && x.wait) then Hub.reserveDie n false d h else h
    | none => h) h

/-- A capture is ready (R195); shedding level 4 starts no new train after one second (Table 17-8). -/
def Hub.capReady (h : Hub) (n : Nat) : Bool :=
  match h.cap n with
  | none => false
  | some c =>
    c.train.isNone && !c.stopping && c.dies.all (fun x => !x.wait) &&
    c.chans.all (fun y =>
      let step := ((c.dies.find? fun x => x.die == chDie y.ch).map CapDie.step).getD 0
      decide (CapParams.histLen c.params (h.ch y.ch).desc step h.trg.lat ≤ y.hist.length)) &&
    (match c.doneAt with | some t => decide (t + 1024000 ≤ h.tm.now) | none => true) &&
    !(decide (4 ≤ h.pwr.shed) && decide (h.pwr.shed4At + 1000000000 ≤ h.clk.elapsed))

/-! ## Coaches as bytes (R199 to R201) -/

def Coach.id (d : Nat) (c : Coach) : Nat := d * 2 ^ 29 + c.seq % 2 ^ 29

/-- CHINFO of Table 07-4. -/
def Coach.chinfo (c : Coach) : Nat :=
  c.ch + c.churn * 1024 + c.src * 8192 + (if c.lateTrig then 16384 else 0) + (if c.notLocked then 32768 else 0)

/-- DEC of Table 07-4. -/
def Coach.dec (c : Coach) : Nat :=
  (if c.twoWord then 128 else 0) + c.decE * 16 + (if c.cut then 8 else 0) + c.step

/-- The union of the samples' flags; RD when STEP is above 0 (Table 07-4). -/
def Coach.sflags (c : Coach) : Byte :=
  c.samples.foldl (fun f s => f ||| s.flags) (flagIf (decide (0 < c.step)) flagRD)

/-- The unchurned payload: stored samples in order, padded to words (R200). -/
def Coach.plain (c : Coach) : Bytes :=
  let b := c.samples.flatMap fun s =>
    if c.src = 0 then be 2 (rawWord s.fmt s.v0 (s.flags &&& flagOR != 0) (s.flags &&& flagCL != 0)).toNat
    else be 4 (skimWord s.v0 s.flags).toNat ++ (if c.twoWord then be 4 (skimWord s.v1 s.flags).toNat else [])
  b ++ pad (4 * ceilDiv b.length 4 - b.length)

/-- The payload as it is delivered: after an uncorrectable error as it reads (R191; log entry 15). -/
def Coach.delivered (c : Coach) : Bytes :=
  let pay := c.payload.getD []
  match c.asRead with
  | some n => (List.range pay.length).map (Config.eccByte n)
  | none => pay

/-- The coach's bytes: header and payload (Table 07-4). -/
def Coach.bytes (d : Nat) (c : Coach) : Bytes :=
  let pay := c.payload.getD []
  let hd := be 4 (c.id d) ++ be 2 c.chinfo ++ be 2 c.source ++ be 2 c.trainId ++ be 2 (secHi c.stamp) ++ stampB c.stamp ++
    be 1 (eraOf c.stamp) ++ be 1 c.dec ++ be 2 (c.samples.length - 1) ++ be 2 c.pre ++ be 1 c.missed ++
    be 1 c.sflags.toNat
  hd ++ be 4 (crc32 (hd ++ pay)).toNat ++ c.delivered

/-- A train record's bytes (Table 07-5). -/
def Train.bytes (t : Train) : Bytes :=
  let b := be 2 t.trainId ++ be 2 t.source ++ be 2 (secHi t.stamp) ++ be 1 (eraOf t.stamp) ++ be 1 t.missed ++
    stampB t.stamp ++ be 2 t.nCoach ++ be 1 t.capture ++ be 1 t.tflags ++ pad 8
  b ++ be 4 (crc32 b).toNat

/-- A directory entry (Table 07-7). -/
def Coach.entry (d : Nat) (c : Coach) : Bytes :=
  be 4 (c.id d) ++ be 2 c.chinfo ++ be 2 c.trainId ++ be 1 (c.st.code + (if c.eccBad then 128 else 0)) ++ be 1 c.dec ++
    be 2 c.kib ++ be 4 (32 + (c.payload.getD c.plain).length) ++ stampB c.stamp

def Hub.setCoach (h : Hub) (d seq : Nat) (f : Coach → Coach) : Hub :=
  h.setDie d fun x => { x with store := { x.store with
    coaches := x.store.coaches.map fun c => if c.seq == seq then f c else c } }

def Hub.findCoach (h : Hub) (id : Nat) : Option (Nat × Coach) :=
  let d := id / 2 ^ 29 % 8
  if h.nDies ≤ d then none
  else ((h.die d).store.coaches.find? fun c => c.seq % 2 ^ 29 == id % 2 ^ 29).map fun c => (d, c)

/-! ## The COACH stream (R201, R204) -/

def Hub.coachKey (d port : Nat) : FlowKey := ⟨d, 4, port⟩

/-- Makes the COACH flow of a die and port and starts it, if it is not there (R246). -/
def Hub.needFlow (h : Hub) (k : FlowKey) (dest : Dest) : Hub :=
  match h.findFlow k with
  | some _ => h.setFlow k fun f => { f.start h.tm.now with dest := dest }
  | none => { h with flows := h.flows ++ [{ (Flow.init k).start h.tm.now with dest := dest }] }

/-- Cuts a record into the segments of R204, each with its segment word: kind of the first, then continuations. DESIGN CHOICE (log entry 159): a
record longer than 16,368 bytes is cut at every 16,368. -/
def segments (first : Nat) (b : Bytes) : List Bytes :=
  (List.range (max 1 (ceilDiv b.length 16368))).map fun i =>
    let kind := if i = 0 then first else 2
    be 4 (kind * 2 ^ 30 + i * 16368) ++ (b.drop (i * 16368)).take 16368

/-- Puts a record of the COACH stream into its flow and answers the SEQ of the packet that holds its end and the record's number. -/
def Hub.coachRecord (h : Hub) (k : FlowKey) (stream first : Nat) (b : Bytes) : Hub × Word × Nat :=
  match h.findFlow k with
  | none => (h, 0, 0)
  | some f =>
    let n := f.recordsOf stream
    let g := (segments first b).foldl (fun g s => g.put h.tm.now h.tm.now ⟨1, stream, n % 2 ^ 32, s⟩) f
    let seq := if g.filling.isEmpty then g.nextSeq - 1 else g.nextSeq
    (h.setFlow k fun _ => g.setRecords stream (n + 1), seq, n)

/-- A READY coach of a completed train enters SENDING, behind a copy of the train's record where the die has sent none
(R201). -/
def Hub.sendCoach (h : Hub) (d : Nat) (c : Coach) : Hub :=
  let k := Hub.coachKey d c.port
  let stream := 2064 + 8 * c.capture + d
  let h := match (h.die d).store.trains.find? fun t => t.trainId == c.trainId && t.capture == c.capture with
    | some t =>
      if t.sentBy.contains d then h
      else
        let h := (h.coachRecord k stream 0 t.bytes).1
        h.setDie d fun x => { x with store := { x.store with trains := x.store.trains.map fun (y : Train) =>
          if y.trainId == t.trainId && y.capture == t.capture then { y with sentBy := d :: y.sentBy } else y } }
    | none => h
  let p := h.coachRecord k stream 1 (c.bytes d)
  p.1.setCoach d c.seq fun y => { y with st := .sending, sendWanted := false, lastSeq := some p.2.1, record := some p.2.2 }

/-- READY coaches that were asked for and whose train is complete are sent, oldest first (R201). -/
def Hub.sendWanted (h : Hub) (d : Nat) : Hub :=
  (forAll ((h.die d).store.coaches.filter fun c => c.st == .ready && c.sendWanted) (fun c h =>
    if (h.die d).store.trains.any (fun t => t.trainId == c.trainId && t.capture == c.capture && t.final) then
      h.sendCoach d c else h) h).flowTouch d

/-- Frees coaches: slot and granules return (Table 07-6). -/
def Hub.freeCoach (h : Hub) (d seq : Nat) : Hub :=
  h.setCoach d seq fun c => { c with st := .free, samples := [], payload := none, kib := 0 }

/-! ## Trains (R196 to R198) -/

/-- The capture's dies. -/
def Capture.dieList (c : Capture) : List Nat := c.dies.map CapDie.die

/-- Disarms: reservations, histories that no coach uses and the churned uses of its channels go with it (R198, R271). -/
def Hub.disarm (h : Hub) (n : Nat) : Hub :=
  let ds := ((h.cap n).map Capture.dieList).getD []
  let chs := ((h.cap n).map fun (c : Capture) => c.params.channels).getD []
  forAll ds (fun d h => h.retryWait d) { h with
    caps := modAt h.caps n fun _ => none, chans := modAll h.chans chs fun _ x => { x with churnCap := none } }

/-- A train whose coaches are all complete is final: its record is sent ahead of its coaches, and the capture rearms, or
disarms after its last train with CAP_DONE (R198, R201). -/
def Hub.trainDone (h : Hub) (n : Nat) : Hub :=
  match h.cap n with
  | none => h
  | some c =>
    match c.train with
    | none => h
    | some t =>
      if !t.open'.isEmpty then h
      else
        let fin := { t with final := true, tflags := t.tflags ||| if h.tm.lockedAt t.stamp then 0 else 2 }
        let h := h.setCap n fun c => { c with train := none, doneAt := some h.tm.now, made := c.made + 1,
                                              left := c.left.map (· - 1) }
        let h := forAll c.dieList (fun d h => (h.setDie d fun x => { x with store := { x.store with
            trains := fin :: (x.store.trains.filter fun y =>
              x.store.coaches.any fun k => k.trainId == y.trainId && k.capture == y.capture && k.st != .free) } }).sendWanted
            d) h
        if c.left = some 1 then (h.disarm n).notice (unitCap n) 0x0403 (argN (c.made + 1)) 0
        else if c.stopping then h.disarm n
        else h.reserve n

/-- The stored samples as churn samples (R273, R282). -/
def Coach.churned (c : Coach) : List Sample :=
  c.samples.map fun (s : StoredSample) =>
    (s.v0, if c.src = 0 then (if s.flags &&& flagOR != 0 then 2 else 0) + (if s.flags &&& flagCL != 0 then 1 else 0)
           else s.flags.toNat)

/-- A list in pieces of n, the last perhaps shorter. -/
def pieces {α : Type} (n : Nat) (l : List α) : List (List α) :=
  (List.range (ceilDiv l.length n)).map fun i => (l.drop (i * n)).take n

/-- The payload of a churned coach with what the channel's use holds after it and the mismatches counted (R282, R283, R288). -/
def Coach.encode (c : Coach) (fresh0 : Nat) (u : ChurnUse) : Bytes × ChurnUse × Nat :=
  let raw := c.src == 0
  (pieces 64 c.churned).foldl (fun (acc : Bytes × ChurnUse × Nat) b =>
    let (out, u, bad) := acc
    let first := out.isEmpty
    let (bytes, miss) := encodeBlock (fresh0 + out.length) raw u.mode (first && u.fresh) first u.history u.depth u.y b
    let (hist, depth, y) := decodedOf raw u.mode u.history u.depth u.y b.length bytes
    (out ++ bytes, { u with history := hist, depth := depth, y := y, fresh := false },
      if miss then bad + 1 else bad)) ([], u, 0)

/-- Forms a coach's payload: blocks for a churned coach of a channel whose use runs, else the stored samples (R200, R410). -/
def Hub.coachPayload (h : Hub) (c : Coach) : Hub × Bytes × Nat :=
  match (if c.churn = 0 then none else (h.ch c.ch).churnCap) with
  | none => (h, c.plain, 0)
  | some u =>
    let (b, u', bad) := c.encode h.fresh { u with mode := c.churn }
    let h := h.setCh c.ch fun x => { x with churnCap := some { u' with fresh := c.cut, restored := false } }
    let h := { h with fresh := h.fresh + b.length + 1 }
    (iter (fun g => g.churnMismatch (chDie c.ch) u.eng) bad h, b ++ pad (4 * ceilDiv b.length 4 - b.length), c.churn)

/-- A coach is complete at its last stored sample: the payload is formed, and it is READY (Table 07-6). -/
def Hub.coachDone (h : Hub) (d seq : Nat) : Hub :=
  match (h.die d).store.coaches.find? (fun c => c.seq == seq) with
  | none => h
  | some c =>
    let (h, pay, churn) := h.coachPayload c
    -- the trigger point is known to have passed by now (R199)
    let un := !h.tm.lockedAt c.stamp
    let h := h.setCoach d seq fun c => { c with st := .ready, payload := some pay, churn := churn, notLocked := un }
    let h := h.setCap c.capture fun k => { k with train := k.train.map fun t =>
      { t with open' := t.open'.filter (· != c.ch),
               tflags := t.tflags ||| (if c.cut then 4 else 0) ||| (if un then 2 else 0) } }
    let freed := (h.cap c.capture).any Capture.stopping
    (if freed then h.retryWait d else h).trainDone c.capture

/-- The stored samples of a history from an index on, oldest first. -/
def CapChan.since (y : CapChan) (first : Nat) : List StoredSample :=
  (y.hist.filter fun s => decide (first ≤ s.index)).reverse

/-- A TRIG_LATE record: who sent the message, and by how many µs the record's stamp lies behind the last instant at which the message would
not have been late (R186, Table 15-6). -/
def Hub.trigLate (h : Hub) (t who limit : Nat) : Hub := h.eventAt t unitHub 0x0206 0 1 (argN who) (argN (ceilDiv (t - limit) 1024000))

/-- Starts the coach of one channel of a train (R197, R198). Where the history no longer holds the trigger sample of an array trigger,
the coach starts at the first source sample after arrival with PRE 0 and LATE_TRIG, and its TRIG_LATE record gives both instants: it is stamped
with that sample's, and its lateness leads back to STAMP + TRIG_LAT (R186; log entry 136). DESIGN CHOICE (log entry 137): where it holds the
trigger sample and not the first one, and for any other source, the coach starts with the oldest sample held. -/
def Hub.startCoach (n : Nat) (t : Trigger) (trainId missed : Nat) (y : CapChan)
    (h : Hub) : Hub :=
  match h.cap n with
  | none => h
  | some c =>
    let d := chDie y.ch
    let desc := (h.ch y.ch).desc
    let p := c.params
    let step := ((c.dies.find? fun x => x.die == d).map CapDie.step).getD 0
    let f := 2 ^ (p.decE + step)
    let k := srcIdx p.src desc t.stamp
    let trig := k / f * f
    let first := (k - CapParams.pre p) / f * f
    let next := max (match y.lastIdx with | some i => i + 1 | none => 0) (srcIdx p.src desc h.tm.now)
    let oldest := match y.hist.getLast? with
      | some s => s.index
      | none => ceilDiv next f * f
    let late := decide (trig < oldest) && t.source / 4096 == 4
    let start := if late then ceilDiv next f * f else max first oldest
    let st := (h.die d).store
    let len := ceilDiv p.len f
    let got := if late then [] else (y.since start).take len
    -- a use that no engine can take ends here (R410)
    let churns := (h.ch y.ch).churnCap.any fun (u : ChurnUse) => !u.leaving
    let h := if churns then h else h.setCh y.ch fun x => { x with churnCap := none }
    let coach : Coach :=
      { seq := st.nextCoach, capture := n, ch := y.ch, churn := if churns then p.churn else 0, src := p.src, lateTrig := late,
        notLocked := !h.tm.lockedAt t.stamp, source := t.source, trainId := trainId,
        stamp := if late then srcInst p.src desc next else t.stamp,
        twoWord := p.src == 1 && desc.words == 2, decE := p.decE, step := step, cut := false,
        pre := if late then 0 else (trig - start) / f, missed := missed, first := start, len := len, samples := got,
        payload := none, st := .filling, eccBad := false, asRead := none, kib := CapParams.coachKib p desc step,
        sendWanted := (p.opts / 2) % 2 == 1, port := p.port, lastSeq := none, record := none }
    let h := h.setDie d fun x => { x with store := { x.store with
      nextCoach := x.store.nextCoach + 1,
      coaches := (x.store.coaches.filter fun q => q.st != .free || q.seq + 65536 != x.store.nextCoach) ++ [coach] } }
    let h := h.setCap n fun c => { c with
      dies := c.dies.map (fun x => if x.die == d then { x with reserved := x.reserved - coach.kib, slots := x.slots - 1 } else x),
      train := c.train.map fun r => { r with
        nCoach := r.nCoach + 1, open' := y.ch :: r.open',
        tflags := r.tflags ||| (if late then 1 else 0) } }
    let chain := bitOf (h.die d).churn.cfg 0
    let h := h.setCh y.ch fun x => { x with churnCap := x.churnCap.map fun (u : ChurnUse) =>
      { u with fresh := u.fresh || u.restored || !chain } }
    if late then
      ({ h with trg := { h.trg with lost := h.trg.lost + 1 } }).trigLate coach.stamp (t.origin * 65536 + t.trigId) (t.stamp + h.trg.lat * 1024)
    else h

/-- The coach that a channel of a capture fills. -/
def Hub.fillingCoach (h : Hub) (n c : Nat) : Option Coach :=
  (h.die (chDie c)).store.coaches.find? fun k => k.ch == c && k.capture == n && k.st == .filling

/-- Completes the coach of a channel that the history has filled at its start; all coaches of the train have started before (R198, R201). -/
def Hub.coachFull (n c : Nat) (h : Hub) : Hub :=
  match h.fillingCoach n c with
  | some k => if k.len ≤ k.samples.length then h.coachDone (chDie c) k.seq else h
  | none => h

/-- Another trigger of the stamp that started a train: SOURCE becomes the lower of the two, in the record and in the coaches that have
not been sent (R196; log entry 138). -/
def Hub.capJoin (h : Hub) (n id source : Nat) (c : Capture) : Hub :=
  let low (x : Nat) : Nat := min x source
  let h := h.setCap n fun c => { c with train := c.train.map fun (r : Train) => { r with source := low r.source } }
  forAll c.dieList (fun d h => h.setDie d fun x => { x with store := { x.store with
    trains := x.store.trains.map fun (r : Train) =>
      if r.capture == n && r.trainId == id && r.sentBy.isEmpty then { r with source := low r.source } else r
    coaches := x.store.coaches.map fun (k : Coach) =>
      if k.capture == n && k.trainId == id && (k.st == .filling || k.st == .ready) then { k with source := low k.source } else k } }) h

/-- A trigger that reaches capture n: it joins the last train where it has its stamp, starts a train where the capture is ready, or
adds one to MISSED (R174, R196). -/
def Hub.capHit (n : Nat) (t : Trigger) (h : Hub) : Hub :=
  match h.cap n with
  | none => h
  | some c =>
    match (if (c.lastTrain.map Prod.fst) = some t.stamp then c.lastTrain else none) with
    | some (_, id) => h.capJoin n id t.source c
    | none =>
      if h.capReady n then
        let missed := satAdd 8 c.missed t.missed
        let id := h.nextTrain
        let tr : Train := ⟨id, n, t.source, t.stamp, missed, 0, 0, [], [], false⟩
        let h := { h with nextTrain := (id + 1) % 65536 }
        let h := h.setCap n fun c => { c with missed := 0, train := some tr, lastTrain := some (t.stamp, id) }
        (forAll c.params.channels (Hub.coachFull n) (forAll c.chans (Hub.startCoach n t id missed) h)).trainDone n
      else h.setCap n fun c => { c with missed := satAdd 8 c.missed 1 }

/-- A trigger reaches every armed capture that selects it (R192, R196). -/
def Hub.capFire (h : Hub) (t : Trigger) (sel : CapParams → Bool) : Hub :=
  forAll (List.range 32) (fun n h => match h.cap n with
    | some c => if sel c.params then Hub.capHit n t h else h
    | none => h) h

/-- The capture decimator on one word: integrators, combs and, at a stored sample, the value (R197). -/
def capCic (st : List Int) (f : Nat) (v : Int) (out : Bool) : List Int × Int :=
  let i1 := st.getD 0 0 + v
  let i2 := st.getD 1 0 + i1
  let i3 := st.getD 2 0 + i2
  if out then
    let d1 := i3 - st.getD 3 0
    let d2 := d1 - st.getD 4 0
    let d3 := d2 - st.getD 5 0
    ([i1, i2, i3, i3, d1, d2], roundHalf d3 (f * f * f))
  else ([i1, i2, i3, st.getD 3 0, st.getD 4 0, st.getD 5 0], 0)

/-- A source sample of a channel reaches capture n: the decimator, the history, and the coach that is filling (R195,
R197). DEDUCED (log entry 175): a stored sample's flags are the union over its F inputs, so one that holds an RT input is an RT sample, with
value 0 and no other flag (R13). -/
def Hub.capTake (n c idx : Nat) (v0 v1 : Int) (flags : Byte) (h : Hub) : Hub :=
  match h.cap n with
  | none => h
  | some cp =>
    match cp.chans.find? (fun y => y.ch == c) with
    | none => h
    | some y =>
      let d := chDie c
      let p := cp.params
      let step := ((cp.dies.find? fun x => x.die == d).map CapDie.step).getD 0
      let f := 2 ^ (p.decE + step)
      let out := idx % f == 0
      let a := capCic y.cic0 f v0 out
      let b := capCic y.cic1 f v1 out
      let all := y.flags ||| flags
      let rt := all &&& flagRT != 0
      let u := if rt then flagRT else all
      let fm := (h.ch c).desc.fmt
      let u' := if p.src = 1 ∧ 0 < step then u ||| flagRD else u
      let s : StoredSample := if f = 1 then ⟨idx, v0, v1, u', fm⟩ else if rt then ⟨idx, 0, 0, u', fm⟩
        else ⟨idx, a.2, b.2, u', fm⟩
      let keep := CapParams.histLen p (h.ch c).desc step h.trg.lat
      let y' := { y with cic0 := if f = 1 then y.cic0 else a.1, cic1 := if f = 1 then y.cic1 else b.1,
                         flags := if out then 0 else u, lastIdx := some idx,
                         hist := if out then (s :: y.hist).take keep else y.hist }
      let h := h.setCap n fun k => { k with chans := k.chans.map fun z => if z.ch == c then y' else z }
      if !out then h
      else match h.fillingCoach n c with
        | none => h
        | some k =>
          if idx < k.first then h
          else
            let h := h.setCoach d k.seq fun q => { q with samples := q.samples ++ [s] }
            if k.len ≤ k.samples.length + 1 then h.coachDone d k.seq else h

/-- A source sample of a channel reaches every capture that holds it with that source. -/
def Hub.capFeed (h : Hub) (src c idx : Nat) (v0 v1 : Int) (flags : Byte) : Hub :=
  forAll (List.range 32) (fun n h => match h.cap n with
    | some k => if k.params.src = src ∧ k.params.channels.contains c then Hub.capTake n c idx v0 v1 flags h else h
    | none => h) h

/-- Ends the filling coach of a channel at its last sample with CUT; one without a sample is not made (R198). DESIGN CHOICE (log entry 160): the
sequence number of a coach that is not made is not given to another. -/
def Hub.cutCoach (h : Hub) (n c : Nat) : Hub :=
  let d := chDie c
  match h.fillingCoach n c with
  | none => h
  | some k =>
    if k.samples.isEmpty then
      let h := h.setDie d fun x => { x with store := { x.store with
        coaches := x.store.coaches.filter fun q => q.seq != k.seq } }
      let h := h.setCap n fun q => { q with train := q.train.map fun t =>
        { t with nCoach := t.nCoach - 1, open' := t.open'.filter (· != c), tflags := t.tflags ||| 4 } }
      (h.trainDone n).retryWait d
    else (h.setCoach d k.seq fun q => { q with cut := true, len := q.samples.length }).coachDone d k.seq

/-- A change of a channel's source rate: the filling coach is cut and the history restarts (R195, R198). -/
def Hub.capRate (h : Hub) (src c : Nat) : Hub :=
  forAll (List.range 32) (fun n h => match h.cap n with
    | some k =>
      if k.params.src = src ∧ k.params.channels.contains c then
        (h.cutCoach n c).setCap n fun q => { q with chans := q.chans.map fun y => if y.ch == c then capChanInit c else y }
      else h
    | none => h) h

/-- A forward count step: every filling coach is cut (R114, R198), and histories restart, since indices are skipped (log entry 139). -/
def Hub.cutFilling (h : Hub) : Hub :=
  forAll (List.range 32) (fun n h => match h.cap n with
    | some k =>
      let h := forAll ((k.train.map Train.open').getD []) (fun c h => h.cutCoach n c) h
      h.setCap n fun q => { q with chans := q.chans.map fun y => capChanInit y.ch }
    | none => h) h

end Sys2Proof.Machine
end

