-- ==== Sys2Proof/Machine/Time.lean ====
section
/-! DEFINITION. Array time (04) and the clocks during relock (17): the reference cycle, steps and loads, sources, PPS, the
timing lane, the time-interval inputs. -/

namespace Sys2Proof.Machine

/-- A time brought to a coarser unit: exact where it fits, else one of the two neighbours (log entry 22). -/
def openRound (num : Int) (den : Nat) : Int :=
  if num % (den : Int) = 0 then num / (den : Int) else num / (den : Int) + Config.timeRound num den % 2

/-- Picoseconds as units of 1/1,024 ns, and back. -/
def psFu (ps : Int) : Int := openRound (ps * 1024) 1000
def fuPs (f : Int) : Int := openRound (f * 1000) 1024

/-- The clocks come from the internal oscillator: during a relock without REFCLK (R465). -/
def Hub.onOsc (h : Hub) : Bool := h.clk.run && !h.clk.valid && !h.clk.refclk

/-- One cycle of the 125 MHz reference (R38, R95, R107; log entry 8); one of the internal oscillator takes longer (R465). -/
def cycle (h : Hub) : Hub :=
  let c := h.clk
  if h.onOsc then
    let ps := c.oscPs + 8122 + Config.oscPeriod h.fresh % 256
    { h.tick with clk := { c with elapsed := c.elapsed + ps / 1000, oscPs := ps % 1000, cycles := c.cycles + 1 },
                  tm := { h.tm with now := h.tm.now + fuCycle } }
  else if c.run then
    { h with clk := { c with elapsed := c.elapsed + 8, cycles := c.cycles + 1 }, tm := { h.tm with now := h.tm.now + fuCycle } }
  else { h with clk := { c with elapsed := c.elapsed + 8 } }

def Hub.setTm (h : Hub) (f : Tm → Tm) : Hub := { h with tm := f h.tm }

/-- Array time moved by a signed number of units. -/
def moved (t : Nat) (d : Int) : Nat := ((t : Int) + d).toNat

/-- The settling that a step of array time marks with ST: a change at stage 0 that clears nothing (R114, R152). -/
def Chan.stepSt (c : Chan) : Chan :=
  { c with stLeft := max c.stLeft (c.desc.settle 0 0), rawStLeft := max c.rawStLeft 4 }

/-- STEPPED, the TIME_STEP record and ST on every channel (R114, Table 15-6). -/
def Hub.stepRecord (h : Hub) (c : Int) (remPs : Int) : Hub :=
  let lim : Int := 2147483648
  let big := decide (lim ≤ c) || decide (c < -lim)
  let c' := max (-lim) (min (lim - 1) c)
  let secs := max (-lim) (min (lim - 1) (c / 125000000))
  let h := h.mapCh fun _ x => x.stepSt
  (h.setTm fun t => { t with stepped := true }).notice unitHub 0x0204 (argI c') (argI (if big then secs else remPs))

/-- An interval that is kept in array time moves with a step. -/
def PpsIn.shift (p : PpsIn) (d : Int) : PpsIn := { p with last := p.last.map fun t => moved t d }

/-- A count step of c reference cycles (R114): flows, DDS accumulators, ST, the record. -/
def Hub.countStep (h : Hub) (c : Int) (remPs : Int) : Hub :=
  if c = 0 then h
  else
    let d := c * fuCycle
    let old := h.tm.now
    let new := moved old d
    let was := h.seqs
    let h := forAll (List.range 4) (fun n h => h.sclkHold n 0) h
    let h := if 0 < c then h.allBreak else h
    let before := h.flows.map Flow.discarded
    let h := { h with flows := h.flows.map fun (f : Flow) => f.stepped old new }
    -- a sweep cut short that found no pail takes its flow's open churn blocks with it (R254, R281)
    let h := forAll (h.flows.zip before) (fun x h => if x.1.discarded = x.2 then h else h.dropBlocks x.1.key (x.1.boundary old)) h
    let h := h.mapCh fun _ x => { x with acc := x.acc + BitVec.ofInt 32 (c * (x.desc.afe.freq.toNat : Int)) }
    let h := h.setTm fun t => { t with
      now := new, second := secOf new, ppsA := t.ppsA.shift d, ppsB := t.ppsB.shift d,
      tins := t.tins.map fun (i : Tin) => { i with last := i.last.map fun x => moved x d } }
    let h := forAll (List.range 4) (fun n h => h.sclkStart n (max new (((h.ch (32 * n)).lastAt.map (· + 1)).getD 0))) h
    let h := { h with trg := { h.trg with pins := h.trg.pins.map fun (p : TrigPin) =>
      { p with last := p.last.map fun x => moved x d } } }
    let h := if 0 < c then h.cutFilling else h
    let h := forAll (List.range h.nDies) (fun d h => h.flowBuilt d was) h
    h.stepRecord c remPs

/-- The value of an armed load: the load registers as ARM found them, or as they are at the boundary where ARM was written
again while it was pending (R131; log entry 129). -/
def Tm.loadValue (t : Tm) : Nat := t.ldAt.getD (t.ldHi * 2 ^ 32 + t.ldLo.toNat)

/-- A load: a count step of whole seconds (R130). -/
def Hub.loadSec (h : Hub) (loaded counted : Nat) : Hub :=
  h.countStep (((loaded : Int) - counted) * 125000000) 0

/-- Downstream ports that carry TIMECOR. -/
def Hub.downPorts (h : Hub) : List Nat :=
  (List.range h.nPorts).filter fun p => p != 0 && (h.prt p).st == .up

/-- The array second at which whole cycles of a step found now are applied: the next one, unless part A for it has gone out on
some port, ahead of which part S would have stood (R110, R113). -/
def Hub.stepSecond (h : Hub) : Nat :=
  let n := secOf h.tm.now + 1
  if h.tm.stepNext ≠ 0 then h.tm.stepAt
  else if h.downPorts.any fun p => decide (n = (h.prt p).corSent) then n + 1 else n

/-- A step of s units (R113): the remainder moves the phase at once, whole cycles wait for an array second and are announced
downstream in part S ahead of part A for it (`Hub.timecorDue`). The errors averaged so far are dropped (log entry 126). DESIGN CHOICE (log entry
183): an acquisition whose step is 0 emits its ERA items and neither sets STEPPED nor writes a TIME_STEP record. -/
def Hub.stepTime (h : Hub) (s : Int) : Hub :=
  let c := s.tdiv fuCycle
  let r := s - c * fuCycle
  let h := h.setTm fun t => { t with now := moved t.now r, errs := [], resid := t.resid, e := 0 }
  if c = 0 then
    let h := { h with flows := h.flows.map fun (f : Flow) => f.mark h.tm.now (eraItem h.tm.now 3) }
    if r = 0 then h else h.stepRecord 0 (fuPs r)
  else
    let h := h.mapCh fun _ x => x.stepSt
    let at' := h.stepSecond
    h.setTm fun t => { t with stepNext := t.stepNext + c, stepRem := fuPs r, stepAt := at' }

/-! ## Sources (R100 to R102) -/

/-- P00.LT has carried a valid pattern and TIMECOR for the last second (R100). -/
def Hub.laneGood (h : Hub) : Bool :=
  let past (x : Option Nat) : Bool := match x with | some t => decide (t + 1000000000 ≤ h.clk.elapsed) | none => false
  (h.prt 0).ltUp && !h.tm.markLost && past h.tm.ltFrom && past h.tm.corFrom &&
    (match h.tm.laneAt with | some t => decide (h.clk.elapsed ≤ t + 1000000000) | none => false)

/-- P00.LT carries a valid pattern (Table 04-5). -/
def Hub.laneValid (h : Hub) : Bool := (h.prt 0).ltUp && !h.tm.markLost

/-- A hub on the lane whose markers are missing while the clock is present: it stays in its state until DEGRADED (R109). -/
def Hub.laneStays (h : Hub) : Bool :=
  h.tm.src == .lane && h.tm.markLost && (h.prt 0).ltUp && h.tm.align != .degraded && h.tm.align != .holdover

/-- Records a TIMECOR block: since when they have come without a gap of 1 s (R100). -/
def Tm.corHeard (t : Tm) (now : Nat) : Tm :=
  let fresh := match t.laneAt with | some x => decide (x + 1000000000 < now) | none => true
  { t with laneAt := some now, corFrom := if fresh then some now else t.corFrom }

def Hub.ppsLocked (h : Hub) : Bool := h.tm.ppsA.st == .locked || h.tm.ppsB.st == .locked

/-- The source that SRC_SEL asks for (R100). -/
def Hub.wantedSource (h : Hub) : Source :=
  match fld h.tm.cfg 1 0 with
  | 1 => .lane
  | 2 => .pps
  | 3 => .free
  | _ => if h.laneGood || h.laneStays then .lane else if h.ppsLocked then .pps else .free

/-- The source is there to be acquired. -/
def Hub.sourceFound (h : Hub) : Source → Bool
  | .lane => h.laneValid
  | .pps => h.ppsLocked && h.clk.refclk && h.clk.valid
  | .free => h.clk.refclk && h.clk.valid
  | .none => false

/-- The relock sequence begins: SCLK_VALID clears, each SCLK_OUT completes its high phase, and a hub that runs on REFCLK is LOCKED no more (R102,
R464; log entry 25). -/
def Hub.startRelock (h : Hub) : Hub :=
  let h := forAll (List.range 4) (fun n h => h.sclkHold n 0) h
  let h := { h with clk := { h.clk with valid := false, relockAt := some h.clk.elapsed, retryAt := none } }
  if h.tm.src ≠ .lane ∧ (h.tm.align = .locked ∨ h.tm.align = .slewing) then
    (h.setTm fun t => { t with holdAt := h.clk.elapsed }).setAlign .holdover
  else h

/-- A LANE hub copies BASE_STATE from TIMECOR (Table 04-6). -/
def Hub.copyBase (h : Hub) (b : Nat) : Hub :=
  match b with
  | 0 => h.setBase .none
  | 1 => h.setBase .locked
  | 2 => h.setBase .holdover
  | _ => h

/-- Takes up a source: a reacquisition (R100, R102). On PPS the hub's own time base is steered with the first edge accepted from here on; until
then it was steered before or never (Table 04-6). Residuals belong to a source and are dropped (log entry 127). -/
def Hub.takeSource (h : Hub) (s : Source) : Hub :=
  let h := h.setTm fun t => { t with src := s, errs := [], resid := [], e := 0, delayOk := false, stepNext := 0 }
  let h := match s with
    | .free => h.setBase .none
    | .lane => h.copyBase h.tm.sndBase
    | .pps => h.setBase (if h.tm.steered then .holdover else .none)
    | .none => h
  if h.sourceFound s then h.setAlign .acquiring
  else if h.tm.align = .free then h
  else (h.setTm fun t => { t with holdAt := h.clk.elapsed }).setAlign .holdover

/-- Re-evaluates the source at an array second: a change is a reacquisition, and between LANE and a REFCLK-based source a
relock (R100, R464). A lane that is back is reacquired. -/
def Hub.evalSource (h : Hub) : Hub :=
  let w := h.wantedSource
  let s := h.tm.src
  if w = s then
    if (h.tm.align = .degraded ∨ h.tm.align = .holdover ∨ h.tm.align = .free) ∧ h.sourceFound s then
      h.takeSource s
    else h
  else
    let h := h.takeSource w
    if s ≠ .none ∧ ((s = .lane) ≠ (w = .lane)) then h.startRelock else h

/-! ## The array second (R98, R100, R113, R130) -/

/-- The die takes the lead's count: whole cycles go at once, and the phase slews from here on (R425). -/
def Die.takeCount (x : Die) (elapsed : Nat) : Die :=
  if x.skewTake then { x with skewPs := x.skewPs.tmod 8000, skewTake := false, skewFrom := some elapsed } else x

/-- The difference of the die's counter from the lead's at a true time, in ps: while it slews it goes to 0 in steps of 25 ps, four
in each ms (R425). -/
def Die.skewNow (x : Die) (elapsed : Nat) : Int :=
  match x.skewFrom with
  | none => x.skewPs
  | some t => x.skewPs.sign * (x.skewPs.natAbs - 25 * ((elapsed - t) * 4 / 1000000) : Nat)

/-- Sweeps and records that flows have discarded for want of a pail since the last array second are counted in HK, with a record for each flow
(R254; log entry 181). -/
def Hub.discardNotes (h : Hub) : Hub :=
  forAll (h.flows.filter fun f => decide (0 < f.discarded)) (fun f h =>
    (h.setFlow f.key fun g => { g with discarded := 0 }).notice (unitWord 11 f.key.code) 0x0603 (argN f.discarded) 0) h

/-- One array second, if one is due that has not been handled. -/
def Hub.arraySecond (h : Hub) : Hub :=
  let n := secOf h.tm.now
  if n ≤ h.tm.second then h
  else
    let h := h.setTm fun t => { t with second := n }
    let c := if h.tm.stepAt ≤ n then h.tm.stepNext else 0
    let h := if c = 0 then h
      else (h.setTm fun t => { t with stepNext := 0, errs := [] }).countStep c h.tm.stepRem
    let counted := secOf h.tm.now
    let load := decide (h.tm.src = .free ∧ h.tm.armed)
    let h := if load then (h.setTm fun t => { t with armed := false }).loadSec h.tm.loadValue counted else h
    let era := decide (c ≠ 0) || (load && h.tm.second != counted)
    let h := if h.tm.align = .acquiring ∧ (h.tm.src = .free ∨ c ≠ 0) ∧ (h.tm.src = .lane ∨ h.clk.valid) then h.setAlign .locked else h
    let h := match h.tm.cfgNext with
      | some w =>
        let changed := fld w 1 0 ≠ fld h.tm.cfg 1 0
        let h := h.setTm fun t => { t with cfg := w, cfgNext := none }
        if changed then h.startRelock else h
      | none => h
    let h := h.evalSource
    -- the sweep that ends with the second is written before a new SW begins (R245)
    let h := forAll (h.flows.map Flow.key) (fun k h => h.sweepFlow k) h
    let was := h.seqs
    let h := { h with flows := h.flows.map fun (f : Flow) => f.second h.tm.now era }
    let h := { h with dies := h.dies.map fun (d : Die) => d.takeCount h.clk.elapsed }
    (forAll (List.range h.nDies) (fun d h => h.flowBuilt d was) h).discardNotes

/-! ## PPS (R103 to R106) -/

def Hub.pps (h : Hub) (i : Nat) : PpsIn := if i = 0 then h.tm.ppsA else h.tm.ppsB
def Hub.setPps (h : Hub) (i : Nat) (f : PpsIn → PpsIn) : Hub :=
  h.setTm fun t => if i = 0 then { t with ppsA := f t.ppsA } else { t with ppsB := f t.ppsB }

/-- The array second nearest to an instant. -/
def nearestSec (t : Nat) : Nat := (t + fuSec / 2) / fuSec

/-- The active input after a change of the inputs' states (R105). DESIGN CHOICE (log entry 184): a change to none writes no PPS_ACTIVE record, whose
ARG0 is the new input; PPS_LOST tells of it. -/
def Hub.chooseActive (h : Hub) : Hub :=
  let pri := fld h.tm.cfg 5 5
  let oth := 1 - pri
  let pl := (h.pps pri).st == .locked
  let ol := (h.pps oth).st == .locked
  let nx : Option Nat :=
    if pl && (h.tm.active != some oth || !ol || decide (10 ≤ (h.pps pri).run)) then some pri
    else if ol then some oth else none
  if nx = h.tm.active then h
  else
    let h := h.setTm fun t => { t with active := nx, errs := [] }
    match nx with
    | some i => h.notice unitHub 0x0202 (argN i) 0
    | none => h

/-- Both inputs LOCKED: PPS_SPLIT sets beyond 1 µs and clears after 10 consecutive seconds of agreement (R105). -/
def Hub.checkSplit (h : Hub) (i : Nat) : Hub :=
  let a := h.pps i
  let b := h.pps (1 - i)
  if a.st = .locked ∧ b.st = .locked ∧ a.sec = b.sec then
    if 1024000 < (a.res - b.res).natAbs then h.setTm fun t => { t with split := true, splitRun := 0 }
    else
      let n := if h.tm.splitSec + 1 = a.sec then h.tm.splitRun + 1 else 1
      h.setTm fun t => { t with split := t.split && decide (n < 10), splitRun := if 10 ≤ n then 0 else n, splitSec := a.sec }
  else h

/-- REF_INCOHERENT from the interval between accepted edges of the active input (R106). -/
def Hub.checkCoherent (h : Hub) (interval : Option Nat) : Hub :=
  match interval with
  | none => h
  | some d =>
    let bad := decide (102400 < ((d : Int) - fuSec).natAbs)
    let b := if bad then h.tm.badRun + 1 else 0
    let g := if bad then 0 else h.tm.goodRun + 1
    let inc := if 3 ≤ b then true else if 10 ≤ g then false else h.tm.incoherent
    let h := h.setTm fun t => { t with incoherent := inc, badRun := b, goodRun := g }
    if inc && h.tm.src == .pps then h.setBase .holdover else h

/-- Corrects a phase error by a step or leaves it to slewing (R102, R113). `lane` moves LOCKED to SLEWING. -/
def Hub.correct (h : Hub) (e : Int) (lane : Bool) : Hub :=
  -- whole cycles that wait for their array second are corrected already
  let e := e + h.tm.stepNext * fuCycle
  if h.tm.align = .acquiring then
    if h.tm.src ≠ .lane ∧ !h.clk.valid then h else
    let h := h.stepTime (-e)
    if h.tm.stepNext = 0 then h.setAlign .locked else h
  else
    let thr := fld h.tm.cfg 27 16
    let h := if thr ≠ 0 ∧ thr * 1024 < e.natAbs then h.stepTime (-e) else h.setTm fun t => { t with e := e }
    if h.tm.align = .slewing ∧ 10 * h.tm.e.natAbs ≤ 512 then h.setAlign .locked
    else if lane && h.tm.align == .locked && decide (1024 < 10 * h.tm.e.natAbs) then h.setAlign .slewing else h

/-- An accepted edge (R104 to R106, R130). -/
def Hub.ppsAccept (h : Hub) (i t : Nat) (interval : Option Nat) : Hub :=
  let n := nearestSec t
  let e : Int := (t : Int) - n * fuSec
  let h := h.setPps i fun p => { p with sec := n, res := e, last := some t, run := p.run + 1 }
  let h := (h.chooseActive).checkSplit i
  if h.tm.active ≠ some i then h
  else
    let h := h.checkCoherent interval
    if h.tm.src ≠ .pps then h
    else
      let errs := (e :: h.tm.errs).take 16
      let h := h.setTm fun t => { t with errs := errs, resid := (e :: t.resid).take 64 }
      let h := if h.tm.incoherent ∨ h.tm.align = .holdover then h
        else ((h.setTm fun t => { t with steered := true }).setBase .locked).correct (openRound errs.sum errs.length) false
      if h.tm.armed then (h.setTm fun t => { t with armed := false }).loadSec h.tm.loadValue n else h

/-- A rising PPS edge `fu` units after the present cycle, less its compensation (R103, R104). -/
def Hub.ppsEdge (h : Hub) (i : Nat) (fu : Int) : Hub :=
  if 2 ≤ i ∨ !h.vio i ∨ !bitOf h.tm.cfg (3 + i) ∨ (i = 1 ∧ !(h.die 1).inService) then h
  else
    let p := h.pps i
    let t := moved h.tm.now (fu - psFu (p.comp.toInt))
    let win : Nat := 51200000
    let near (x : Nat) : Bool := decide (((t : Int) - x).natAbs ≤ win)
    let glitch (p : PpsIn) : PpsIn := { p with glitch := satInc 16 p.glitch }
    match p.st with
    | .idle | .lost => h.setPps i fun p => { p with st := .candidate, count := 0, last := some t }
    | .candidate =>
      if near ((p.last.getD 0) + fuSec) then
        if p.count + 1 = 3 then (h.setPps i fun p => { p with st := .locked, count := 0, run := 0 }).ppsAccept i t none
        else h.setPps i fun p => { p with count := p.count + 1, last := some t }
      else h.setPps i fun p => { glitch p with count := 0, last := some t }
    | .locked =>
      let last := p.last.getD 0
      if near ((nearestSec last + 1) * fuSec) then h.ppsAccept i t (some (t - last))
      else h.setPps i glitch

/-- A PPS input is lost (R104, R105, R412). -/
def Hub.ppsDrop (h : Hub) (i : Nat) : Hub :=
  match (h.pps i).st with
  | .candidate => h.setPps i fun p => { p with st := .idle }
  | .locked =>
    let h := ((h.setPps i fun p => { p with st := .lost, run := 0 }).setTm fun t => { t with splitRun := 0 }).notice unitHub 0x0201 (argN i) 0
    let h := h.chooseActive
    if h.tm.src = .pps ∧ h.tm.active = none ∧ h.tm.base = .locked then h.setBase .holdover else h
  | _ => h

/-- No accepted edge for 1.5 s (R104). -/
def Hub.ppsLost (h : Hub) (i : Nat) : Hub :=
  if 2 ≤ i ∨ h.tm.now < (h.pps i).last.getD 0 + fuSec / 2 * 3 then h else h.ppsDrop i

/-! ## The timing lane (R109 to R112) -/

/-- A marker is due in the present cycle: the first one, one before reference cycles count, or one a whole number of seconds after the last
that was taken (R109). -/
def Hub.markDue (h : Hub) : Bool :=
  match (if h.clk.run then h.tm.markBase else none) with
  | none => true
  | some b => decide (b < h.clk.cycles) && decide ((h.clk.cycles - b) % 125000000 = 0)

/-- An edge that a time-interval channel has recorded: a spare interpolator that waits with a new bin table takes over behind it, and no edge
is lost (R444). -/
def Hub.tiuEdge (h : Hub) (d n : Nat) : Hub :=
  match ((h.die d).tiu.getD n TiuChan.reset).next with
  | some b => h.setDie d fun x => { x with tiu := modAt x.tiu n fun t => { t with second := !t.second, bins := b, next := none } }
  | none => h

/-- A received marker with the fine part of every edge received in the last 100 ms, in 1/1,024 ns after its cycle: e is formed
with their mean (R109 to R113, R130). Without a measured edge nothing is corrected. A step of part S is for the marker that follows it, within
500 ms, and is dropped with that marker (R113; log entry 130). -/
def Hub.marker (h : Hub) (fine : List Int) : Hub :=
  let h := (h.setTm fun t => { t with ltSeen := some h.clk.cycles }).tiuEdge 0 0
  let mean := openRound fine.sum (max 1 fine.length)
  let t := h.tm
  if !h.markDue then
    h.setTm fun t => { t with glitch := satInc 16 t.glitch }
  else
    let h := h.setTm fun t => { t with
      markBase := some h.clk.cycles, missed := 0, markLost := false,
      ltFrom := if (h.prt 0).ltUp then t.ltFrom else some h.clk.elapsed }
    let h := h.setPort 0 fun p => { p with ltUp := true }
    let step := t.corStep.filter fun _ => t.corStepAt.any fun u => decide (h.clk.elapsed < u + 500000000)
    let h := h.setTm fun t => { t with corStep := none, corStepAt := none }
    if t.src ≠ .lane then h.setTm fun t => { t with corSec := none }
    else
      let at' : Int := (h.tm.now : Int) + mean - t.corDelay
      let n := nearestSec at'.toNat
      let h := match step with
        | some c => (h.setTm fun t => { t with markBase := t.markBase.map fun b => moved b (-c) }).countStep c 0
        | none =>
          if fine ≠ [] ∧ t.delayOk ∧ t.align ≠ .degraded ∧ t.align ≠ .holdover then h.correct (at' - n * fuSec) true else h
      match t.corSec with
      | some s =>
        let h := h.setTm fun t => { t with corSec := none }
        if s = n then h else h.loadSec s n
      | none => h

/-- Two expected markers are missing (R109). -/
def Hub.markLost (h : Hub) : Hub :=
  match h.tm.markBase with
  | none => h
  | some b =>
    if h.clk.cycles ≤ b + 250000000 ∨ h.tm.markLost then h
    else h.setTm fun t => { t with missed := 2, markLost := true, markLostAt := h.clk.elapsed }

/-- Leaves the lane for DEGRADED or HOLDOVER (Table 04-5). -/
def Hub.laneAway (h : Hub) (a : Align) : Hub :=
  let h := h.setTm fun t => { t with markBase := none, laneAt := none, corSec := none, corStep := none, corStepAt := none, delayOk := false,
                                     holdAt := if a = .holdover then h.clk.elapsed else t.holdAt }
  if h.tm.src = .lane then h.setAlign a else h

/-- MARK_LOST for 10 s while the received clock is present; without it the hub has left the lane already (R109). -/
def Hub.markLostTimeout (h : Hub) : Hub :=
  if !h.tm.markLost ∨ !(h.prt 0).ltUp ∨ h.tm.align = .holdover ∨ h.clk.elapsed < h.tm.markLostAt + 10000000000 then h else h.laneAway .degraded

/-- P00's link goes down: what a DEGRADED hub ran on is gone (Table 04-5). -/
def Hub.linkGone (h : Hub) : Hub := if h.tm.src = .lane ∧ h.tm.align = .degraded then h.laneAway .holdover else h

/-- The received timing-lane clock is lost (R109). -/
def Hub.clockLoss (h : Hub) : Hub :=
  ((h.setPort 0 fun p => { p with ltUp := false }).setTm fun t => { t with ltFrom := none, ltSeen := none }).laneAway (if (h.lane 0 0).lock == .locked then .degraded else .holdover)

/-- The one-way delay of a sending port in 1/1,024 ns (R111). -/
def delayOf (port rttPs : Nat) (asym : Word) : Int :=
  openRound (((rttPs : Int) - Config.turnPs) * 1024 + 2048 * ((Config.asymFacPs port).toInt + asym.toInt)) 2000

/-! ## The patterns of the timing lane (R107, R108) -/

/-- Table 04-8, first bit leftmost. -/
def ltOrdinary : BitVec 10 := 0b1111100000
def ltMarker : BitVec 10 := 0b1110000000

/-- What the LT transmitter of a port sends in the present reference cycle: the hub's own pattern, with the marker in the cycle
that its array second starts; on P00 the pattern that it receives, while it receives one (log entry 128). In TEST mode its injection inverts
bits of it, unless the lane is looped back (R322, R323). None before SCLK_VALID and in the Off state. -/
def Hub.ltOut (h : Hub) (p : Nat) : Option (BitVec 10) :=
  if !h.clk.run ∨ !h.clk.valid ∨ (h.prt p).st = .off ∨ (h.lane p 3).retired then none
  else
    let mark :=
      if p = 0 && (h.prt 0).ltUp then h.tm.ltSeen == some h.clk.cycles
      else decide (h.tm.now % fuSec < fuCycle)
    let l := h.lane p 3
    let hits := if (h.prt p).st = .test ∧ fld l.test 24 23 ≠ 1 then l.hits 10 else 0
    some ((if mark then ltMarker else ltOrdinary) ^^^ hits)

/-- The delay is measured, from edges that LT returns, and part B sent; beyond its field a record instead (R110, R111). DESIGN CHOICE (log entry
185): a delay that comes out negative, which the field cannot hold, is sent as 0. -/
def Hub.delayTick (h : Hub) (p rttPs : Nat) : Hub :=
  if p = 0 ∨ h.nPorts ≤ p ∨ !(h.prt p).ltRuns then h
  else
    let h := h.tiuEdge (p / 4) (p % 4)
    let d := delayOf p rttPs (h.prt p).asym
    let h := h.setPort p fun q => { q with delay := d, ltUp := true }
    if 2 ^ 32 ≤ d then h.notice unitHub 0x0203 (argN p) 0
    else if (h.prt p).st ≠ .up then h
    else h.ctl p 0x87 (2 ^ 52 + h.tm.base.code * 2 ^ 50 + d.toNat % 2 ^ 32 * 2 ^ 16 + h.errEst)

/-- One 25 ps step when the interval allows, and none while the active PPS is incoherent (R106, R113); |e| at most 50 ps ends SLEWING. In DEGRADED,
HOLDOVER and before an acquisition's step the phase is held (Table 04-5). -/
def Hub.slew (h : Hub) : Hub :=
  let rate := fld h.tm.cfg 15 6
  let ready := match h.tm.slewAt with
    | none => true
    | some t => decide (25 * 1000000000 ≤ (h.clk.elapsed - t) * rate)
  let e := h.tm.e
  if !ready ∨ 5 * e.natAbs < 128 ∨ (h.tm.src = .pps ∧ h.tm.incoherent) ∨ ¬(h.tm.align = .locked ∨ h.tm.align = .slewing) then h
  else
    -- 25 ps is 128 fifths of a unit: the phase in fifths moves by that much against the error
    let f : Int := (h.tm.fifth : Int) + (if 0 < e then -128 else 128)
    let q := f / 5
    let e' := openRound (if 0 < e then 5 * e - 128 else 5 * e + 128) 5
    let h := h.setTm fun t => { t with now := moved t.now q, fifth := (f % 5).toNat, slewAt := some h.clk.elapsed,
                                       e := e' }
    if h.tm.align = .slewing ∧ 10 * h.tm.e.natAbs ≤ 512 then h.setAlign .locked else h

/-! ## Time-interval inputs (R118 to R120) -/

/-- A TIN edge `ago` units of 1/1,024 ns before the present cycle: recorded or merged (R118 to R120). -/
def Hub.tinEdge (h : Hub) (i : Nat) (falling : Bool) (ago : Nat) : Hub :=
  if 8 ≤ i ∨ !h.vio (i / 4) ∨ !(h.die (i / 4)).inService then h
  else
    let set (f : Tin → Tin) (h : Hub) : Hub := h.setTm fun t => { t with tins := modAt t.tins i f }
    let h := set (fun x => { x with level := !falling }) h
    let x := h.tm.tins.getD i ⟨0, false, 0, 0, none, 0, 0⟩
    let pol := fld x.cfg 30 29
    if !bitOf x.cfg 31 ∨ (pol = 0 ∧ falling) ∨ (pol = 1 ∧ !falling) then h
    else
      let now := h.tm.now - ago
      let drained := (h.clk.elapsed - x.bufAt) / 100
      let buf := x.buf - drained
      let ready := match x.last with
        | none => true
        | some t => decide (max 8192 (fld x.cfg 15 0 * 1024) ≤ now - t)
      if !ready ∨ 16 ≤ buf then set (fun x => { x with merged := satInc 8 x.merged }) h
      else
        let d := i / 4
        let rcd := be 1 i ++ be 1 ((if falling then 1 else 0) + (if h.locked then 0 else 2)) ++ be 1 x.merged ++ pad 1 ++
          be 4 (x.count.toNat + 1) ++ stampB now
        let h := set (fun x => { x with count := x.count + 1, merged := 0, last := some now, buf := buf + 1,
                                        bufAt := if x.buf ≤ drained then h.clk.elapsed else x.bufAt + 100 * drained }) h
        (h.tiuEdge d (8 + i % 4)).emitRecord ⟨d, 2, 0⟩ (2056 + d) rcd

/-! ## Clocks (R101, R464, R465) -/

/-- The first edge on which the sample clock runs: array time and every accumulator are 0, and a FREE hub is LOCKED by it
(R38, R102, R531). -/
def Hub.firstEdge (h : Hub) : Hub :=
  let h := { h with clk := { h.clk with run := true, valid := true, cycles := 0, relockAt := none, retryAt := none, outs := List.replicate 4 ⟨0, 0⟩ } }
  let h := h.mapCh fun _ x => { x with acc := 0, accAt := 0 }
  let h := h.setTm fun t => { t with now := 0, fifth := 0, second := 0, markBase := none, ltSeen := none }
  let w := h.wantedSource
  let h := h.takeSource w
  if w = .free ∧ h.tm.align = .acquiring then h.setAlign .locked else h

/-- The clock that the sample PLL locks to is there: REFCLK, or with source LANE the one received on P00.LT, else on P00.L0 (Tables 04-4 and 04-5). -/
def Hub.pllSource (h : Hub) : Bool :=
  if h.tm.src = .lane then (h.prt 0).ltUp || (h.lane 0 0).lock == .locked else h.clk.refclk

/-- After 64 µs of continuous lock: the sample clock starts, or clocks switch back and each SCLK_OUT restarts at its channel's next sampling instant
(R464). -/
def Hub.sclkValid (h : Hub) : Hub :=
  if !h.clk.run then (if h.boot.tr.isSome ∧ (h.clk.refclk ∨ (h.prt 0).ltUp) then h.firstEdge else h)
  else match h.clk.relockAt with
    | none => h
    | some t =>
      if h.clk.elapsed < t + 64000 ∨ !h.pllSource then h
      else
        let us := (h.clk.elapsed - t) / 1000
        let h := forAll (List.range 4) (fun n h => h.sclkStart n h.tm.now) h
        ({ h with clk := { h.clk with valid := true, relockAt := none, retryAt := none } }).notice unitHub 0x0A06 0 (argN us)

/-- A relock: also REFCLK being back, or there for the first time where the sample clock waits for it (R101, R464). On a lane that is aligned it
is REFCLK that has returned, and else the received clock (log entry 186). -/
def Hub.relock (h : Hub) : Hub :=
  if !h.clk.run then { h with clk := { h.clk with refclk := true } }
  else
    let back := !h.clk.refclk && (h.tm.src != .lane || h.tm.align == .locked || h.tm.align == .slewing)
    let h := if back then { h with clk := { h.clk with refclk := true } } else h
    h.startRelock

/-- REFCLK is lost: a hub that runs on it holds its PLL and is no longer LOCKED (R101, Table 04-5; log entry 25). -/
def Hub.refclkLoss (h : Hub) : Hub :=
  let h := { h with clk := { h.clk with refclk := false } }
  if !h.clk.run ∨ h.tm.src = .lane then h
  else (h.setTm fun t => { t with holdAt := h.clk.elapsed }).setAlign .holdover

/-- Lock is not reached within 10 ms (R465). -/
def Hub.relockTimeout (h : Hub) : Hub :=
  match h.clk.relockAt with
  | none => h
  | some t =>
    if h.clk.elapsed < t + 10000000 then h
    else
      ({ h with clk := { h.clk with relockAt := none, retryAt := some (h.clk.elapsed + 1000000000) } }).notice unitHub 0x0A06 1
        (argN ((h.clk.elapsed - t) / 1000))

/-- A failed relock is tried again each second (R465). -/
def Hub.relockRetry (h : Hub) : Hub :=
  match h.clk.retryAt with
  | none => h
  | some t => if h.clk.elapsed < t then h
    else { h with clk := { h.clk with relockAt := some h.clk.elapsed, retryAt := none } }

/-! ## The time window (R127 to R131) -/

/-- Latches a shadow set (R128). -/
def Tm.latch (t : Tm) : Shadow := ⟨secHi t.now, nsOf t.now, fracOf t.now, eraOf t.now⟩

/-- ARM (R131). -/
def Hub.arm (h : Hub) : Hub :=
  h.setTm fun t =>
    if t.src = .lane then { t with refused := true }
    else { t with armed := true, ldAt := if t.armed then none else some (t.ldHi * 2 ^ 32 + t.ldLo.toNat) }

/-- A read of TIME_SEC_LO (R128, R129). -/
def Hub.readSecLo (h : Hub) (r : Route) : Hub :=
  let h := h.setTm fun t => match r with
    | .hspi => { t with hspi := t.latch }
    | .inband => { t with inband := t.latch }
  { h with dbw := { h.dbw with readout := [BitVec.ofNat 32 (secOf h.tm.now)] } }

/-! ## Commands (R383, Table 14-4) -/

/-- TIME_GET: the latched time, status, ERR_EST, and the glitch counters, which it clears (R383). -/
def Hub.timeGet (h : Hub) : Hub :=
  let t := h.tm
  let p := instB t.now ++ be 4 h.timeStatus.toNat ++ be 2 h.errEst ++ be 2 t.ppsA.glitch ++ be 2 t.ppsB.glitch ++
    be 2 t.glitch ++ be 4 (if t.src = .lane then t.corDelay else 0)
  (h.setTm fun t => { t with ppsA := { t.ppsA with glitch := 0 }, ppsB := { t.ppsB with glitch := 0 }, glitch := 0 }).ok p

def Hub.timeSet (h : Hub) (sec : BitVec 48) : Hub :=
  if h.tm.src = .lane then h.refuse St.badArg
  else
    (h.setTm fun t => { t with
      ldHi := sec.toNat / 2 ^ 32, ldLo := BitVec.ofNat 32 sec.toNat, armed := true, ldAt := some sec.toNat }).ok []

def Hub.timeCfgSet (h : Hub) (w : Word) : Hub :=
  if !onlyBits w 0x0FFFFFFB ∨ fld w 15 6 = 0 ∨ 1000 < fld w 15 6 then h.refuse St.badArg
  else (h.setTm fun t => { t with cfgNext := some w }).ok []

/-- The word as written, also while it waits for its array second (R100). -/
def Hub.timeCfgGet (h : Hub) : Hub := h.ok (be 4 (h.tm.cfgNext.getD h.tm.cfg).toNat)

def Hub.timePpsSet (h : Hub) (a b : Word) : Hub :=
  (h.setTm fun t => { t with ppsA := { t.ppsA with comp := a }, ppsB := { t.ppsB with comp := b } }).ok []

def Hub.timeAsymSet (h : Hub) (p : Nat) (v : Word) : Hub :=
  if p = 0 ∨ h.nPorts ≤ p then h.refuse St.badArg else h.onDies [p / 4] ((h.setPort p fun q => { q with asym := v }).ok [])

def Hub.timeTinSet (h : Hub) (i : Nat) (w : Word) : Hub :=
  if 8 ≤ i ∨ !onlyBits w 0xE000FFFF ∨ fld w 30 29 = 3 then h.refuse St.badArg
  else
    (h.setTm fun t => { t with tins := modAt t.tins i fun x =>
      { x with cfg := w, count := if bitOf w 31 && !bitOf x.cfg 31 then 0 else x.count } }).ok []

def Hub.timeTinGet (h : Hub) (i : Nat) : Hub :=
  if 8 ≤ i then h.refuse St.badArg
  else
    let x := h.tm.tins.getD i ⟨0, false, 0, 0, none, 0, 0⟩
    h.ok (be 4 x.cfg.toNat ++ be 1 (if x.level then 1 else 0) ++ pad 3 ++ be 4 x.count.toNat)

/-! ## Meanings -/

/-- TIME_GET (R383). -/
def execTimeGet (s : State) : Out := act s Hub.timeGet
/-- TIME_SET (R131, R383). -/
def execTimeSet (sec : BitVec 48) (s : State) : Out := act s fun h => h.timeSet sec
/-- TIME_CFG_SET (R100). -/
def execTimeCfgSet (w : Word) (s : State) : Out := act s fun h => h.timeCfgSet w
/-- TIME_CFG_GET (R100). -/
def execTimeCfgGet (s : State) : Out := act s Hub.timeCfgGet
/-- TIME_PPS_SET (R103). -/
def execTimePpsSet (a b : Word) (s : State) : Out := act s fun h => h.timePpsSet a b
/-- TIME_ASYM_SET (R111, R383). -/
def execTimeAsymSet (port : Nat) (v : Word) (s : State) : Out := act s fun h => h.timeAsymSet port v
/-- TIME_TIN_SET (R118). -/
def execTimeTinSet (input : Nat) (w : Word) (s : State) : Out := act s fun h => h.timeTinSet input w
/-- TIME_TIN_GET (R118). -/
def execTimeTinGet (input : Nat) (s : State) : Out := act s fun h => h.timeTinGet input
/-- ARRAY_SECOND (R100). -/
def execArraySecond (s : State) : Out := act s Hub.arraySecond
/-- PPS_EDGE (R104). -/
def execPpsEdge (input : Nat) (fu : Int) (s : State) : Out := act s fun h => h.ppsEdge input fu
/-- PPS_LOST (R104). -/
def execPpsLost (input : Nat) (s : State) : Out := act s fun h => h.ppsLost input
/-- MARK_LOST (R109). -/
def execMarkLost (s : State) : Out := act s Hub.markLost
/-- MARK_LOST_TIMEOUT (R109). -/
def execMarkLostTimeout (s : State) : Out := act s Hub.markLostTimeout
/-- TIMECOR_A (R110): the second that the next marker starts. -/
def execTimecorA (sndAlign : Nat) (sec : BitVec 48) (s : State) : Out :=
  act s fun h => h.setTm fun t => { t with sndAlign := sndAlign % 8, corSec := some sec.toNat }.corHeard h.clk.elapsed
/-- TIMECOR_B (R102, R110): a LANE hub copies BASE_STATE. -/
def execTimecorB (baseState delay errEst : Nat) (s : State) : Out :=
  act s fun h =>
    let h := h.setTm fun t => { t with sndBase := baseState % 4, corDelay := delay % 2 ^ 32, sndErr := sat 16 errEst,
                                       delayOk := true }.corHeard h.clk.elapsed
    if h.tm.src = .lane then h.copyBase baseState else h
/-- TIMECOR part S is received: kept for the marker, and passed on down the tree (R110, R113; log entry 130). -/
def Hub.timecorS (h : Hub) (step : Int) : Hub :=
  let h := h.setTm fun t => { t with corStep := some (signed 32 (unsigned 32 step)), corStepAt := some h.clk.elapsed }.corHeard h.clk.elapsed
  if h.tm.src = .lane then forAll h.downPorts (fun p h => h.ctl p 0x87 (2 * 2 ^ 52 + unsigned 32 step)) h else h
/-- TIMECOR_S (R113). -/
def execTimecorS (step : Int) (s : State) : Out := act s fun h => h.timecorS step
/-- TIMECOR_UNKNOWN (R110): parts 3 to 15 are ignored and counted. -/
def execTimecorUnknown (part : Nat) (s : State) : Out :=
  act s fun h => if 3 ≤ part ∧ part ≤ 15 then h.setTm fun t => { t with corUnknown := satInc 16 t.corUnknown } else h
/-- DELAY (R111). -/
def execDelay (port rttPs : Nat) (s : State) : Out := act s fun h => h.delayTick port rttPs
/-- SLEW (R113). -/
def execSlew (s : State) : Out := act s Hub.slew
/-- RELOCK (R464). -/
def execRelock (s : State) : Out := act s Hub.relock
/-- SCLK_VALID (R464, R531). -/
def execSclkValid (s : State) : Out := act s Hub.sclkValid
/-- RELOCK_TIMEOUT (R465). -/
def execRelockTimeout (s : State) : Out := act s Hub.relockTimeout
/-- RELOCK_RETRY (R465). -/
def execRelockRetry (s : State) : Out := act s Hub.relockRetry
/-- REFCLK_LOSS (R101). -/
def execRefclkLoss (s : State) : Out := act s Hub.refclkLoss
/-- TIN_EDGE (R119). -/
def execTinEdge (input : Nat) (edge : TinEdge) (s : State) : Out := act s fun h => h.tinEdge input edge.falling edge.ago
/-- ARM (R131). -/
def execArm (s : State) : Out := act s fun h => if h.hspiOn then h.arm else h
/-- CANCEL (R131): the armed load is cancelled. -/
def execCancel (s : State) : Out := act s fun h => if h.hspiOn then h.setTm fun t => { t with armed := false } else h

end Sys2Proof.Machine
end

