-- ==== Sys2Proof/Machine/Reduce.lean ====
section
/-! DEFINITION. Reduction blocks and their records (R205 to R208), and the stop and return of skim at a block boundary
(R212, R459). -/

namespace Sys2Proof.Machine

/-- The block that a skim sample belongs to (R206). -/
def redBlockOf (red : Word) (d : Desc) (j : Nat) : Nat :=
  if bitOf red 31 then d.skimInst j / (fld red 13 0 * 1024000000) else j / 2 ^ fld red 20 16

/-- First and last-but-one skim index of a block, and its start and end (R206). -/
def redFirst (red : Word) (d : Desc) (b : Nat) : Nat :=
  if bitOf red 31 then d.skimIdxAt (b * fld red 13 0 * 1024000000) else b * 2 ^ fld red 20 16
def redStart (red : Word) (d : Desc) (b : Nat) : Nat :=
  if bitOf red 31 then b * fld red 13 0 * 1024000000 else d.skimInst (b * 2 ^ fld red 20 16)

/-- Adds a sample to a block (R207). -/
def RedAcc.add (a : RedAcc) (v : Int) (f : Byte) : RedAcc :=
  let a := { a with flags := a.flags ||| f, seen := a.seen + 1,
                    orCount := if f &&& flagOR != 0 then satInc 16 a.orCount else a.orCount }
  if f &&& flagRT != 0 then a
  else { a with count := a.count + 1, sum := a.sum + v, sumSq := a.sumSq + (v * v).toNat,
                mn := if a.count = 0 then v else min a.mn v, mx := if a.count = 0 then v else max a.mx v }

/-- A RED record (Table 07-9). -/
def redRecord (c : Nat) (word : Nat) (cut spooled : Bool) (a : RedAcc) (expected start : Nat) : Bytes :=
  let n := a.count
  be 2 c ++ be 1 (word + (if cut then 2 else 0) + (if spooled then 4 else 0)) ++
    be 1 (a.flags ||| flagIf spooled flagRD).toNat ++
    beInt 4 a.mn ++ beInt 4 a.mx ++ beInt 4 (if n = 0 then 0 else roundHalf (a.sum * 256) n) ++
    be 4 (if n = 0 then 0 else roundSqrt (a.sumSq * 65536) n) ++ be 2 a.orCount ++ pad 2 ++ be 4 n ++ be 4 expected ++
    stampB start

/-- Ends the block in progress with a record for each skim word (R206, R208). `part` marks it PARTIAL. -/
def Hub.redClose (h : Hub) (c : Nat) (part : Bool) : Hub :=
  let x := h.ch c
  match x.red.block with
  | none => h
  | some b =>
    let expected := redFirst x.red.cfg x.desc (b + 1) - redFirst x.red.cfg x.desc b
    let start := redStart x.red.cfg x.desc b
    let k : FlowKey := ⟨h.builder c, 1, 0⟩
    let cut := part || x.red.cut
    let h := h.setCh c fun x => { x with red := { x.red with block := none, cut := part, acc0 := RedAcc.empty,
                                                             acc1 := RedAcc.empty } }
    let h := h.emitSince k (2048 + chDie c) (redRecord c 0 cut (!x.skimBuilt) x.red.acc0 expected start) start
    if x.desc.words = 2 then h.emitSince k (2048 + chDie c) (redRecord c 1 cut (!x.skimBuilt) x.red.acc1 expected start) start
    else h

/-- At a block boundary skim stops or returns as the spool state or shedding asked (R212, R459). -/
def Hub.skimTurn (h : Hub) (c j : Nat) : Hub :=
  let x := h.ch c
  let inst := x.desc.skimInst j
  match x.skimStop, x.skimStart with
  | some cause, _ =>
    let h := h.churnBreak false c
    let h := h.sweepRate false c inst 0 1 x.desc.words cause
    h.setCh c fun x => { x with skimBuilt := false, skimStop := none }
  | none, some cause =>
    let h := h.sweepRate false c inst x.desc.rate.1 x.desc.rate.2 x.desc.words cause
    h.setCh c fun x => { x with skimBuilt := true, skimStart := none }
  | none, none => h

/-- A skim sample of a channel whose SKIM is enabled enters its block (R205 to R207). -/
def Hub.redTake (h : Hub) (c j : Nat) (v0 v1 : Int) (f : Byte) : Hub :=
  let x := h.ch c
  if !x.skimEn then h
  else
    let b := redBlockOf x.red.cfg x.desc j
    let h := if x.red.block = some b then h
      else
        let late := x.red.cut && x.red.block.isNone && decide (redFirst x.red.cfg x.desc b < j)
        let h := (h.redClose c false).skimTurn c j
        h.setCh c fun x => { x with red := { x.red with block := some b, cut := late, start := redStart x.red.cfg x.desc b } }
    h.setCh c fun x => { x with red := { x.red with acc0 := x.red.acc0.add v0 f, acc1 := x.red.acc1.add v1 f } }

/-- Two skim periods after a block has ended its record is due (R208). -/
def Hub.redDue (h : Hub) (c : Nat) : Hub :=
  let x := h.ch c
  match x.red.block with
  | none => h
  | some b =>
    let per := srcPeriod 1 x.desc
    if (h.tm.now - redStart x.red.cfg x.desc (b + 1)) * per.2 < 2 * per.1 then h else h.redClose c false

/-- RED_RECORD (R208). -/
def execRedRecord (ch : Nat) (s : State) : Out := act s fun h => if h.nChans ≤ ch then h else h.redDue ch

end Sys2Proof.Machine
end

