-- ==== Sys2Proof/Machine/Streams.lean ====
section
/-! DEFINITION. The stream commands (09, and Table 14-10), RAW port groups, the local window, FC pins and crossings. -/

namespace Sys2Proof.Machine

/-- The armed capture that holds a channel (R192). -/
def Hub.capOf (h : Hub) (c : Nat) : Option Capture := (h.caps.filterMap id).find? fun k => k.params.channels.contains c

/-- The source of that capture: 0 raw, 1 skim. -/
def Hub.capSrc (h : Hub) (c : Nat) : Option Nat := (h.capOf c).map fun k => k.params.src

/-- A flow key that Table 09-2 defines on this part. -/
def Hub.flowOk (h : Hub) (k : FlowKey) : Bool :=
  decide (k.die < h.nDies) &&
    (match k.kind with
     | 0 | 1 | 2 => k.inst == 0
     | 3 => k.inst == 0 && k.die == h.boot.lead
     | 4 => decide (k.inst < h.nPorts)
     | 5 => decide (k.inst < 4)
     | _ => false)

/-- A branch port in PLAIN mode (R237, R258, R297). -/
def Hub.plainPort (h : Hub) (p : Nat) : Bool := decide (2 ≤ p ∧ p < h.nPorts) && fld (h.prt p).cfg 31 30 == 2

/-! ## RAW groups (R262, R263) -/

/-- RAW flows with an enabled channel, in ascending die and quadrant order. -/
def Hub.rawFlows (h : Hub) : List FlowKey :=
  ((List.range (4 * h.nDies)).filter fun q => (List.range 32).any fun i => (h.ch (32 * q + i)).rawEn).map fun q =>
    ⟨q / 4, 5, q % 4⟩

/-- Bits a second of a RAW flow with its packet headers, as a fraction (R262). -/
def Hub.rawLoad (h : Hub) (k : FlowKey) : Nat × Nat :=
  let sw := h.sweepLen k
  ((h.sweepMax k sw + 32) * 8 * 1000000, sw)

/-- Line rates in bits a second (Table 01-4). -/
def lineRate (r : Nat) : Nat := [1250000000, 3125000000, 6250000000, 12500000000, 25000000000].getD r 0

/-- Payload capacity of a plain port in bits a second times 66 (Table 01-4): at the rate and width that it runs, or is set to (R263). -/
def Hub.plainCap66 (h : Hub) (p : Nat) : Nat :=
  let q := h.prt p
  if q.st = .plain then lineRate q.rate * 64 * q.width else lineRate (fld q.cfg 22 20) * 64 * fld q.cfg 19 18

/-- Gives each flow to the port with the least load, the lowest among equals (R262): port, load. -/
def assignRaw : List (FlowKey × Nat × Nat) → List (Nat × Nat × Nat) → List (FlowKey × Nat) →
    List (FlowKey × Nat) × List (Nat × Nat × Nat)
  | [], ports, out => (out, ports)
  | (k, n, d) :: r, ports, out =>
    let least := ports.foldl (fun (b : Option (Nat × Nat × Nat)) x =>
      match b with
      | none => some x
      | some y => if x.2.1 * y.2.2 < y.2.1 * x.2.2 then some x else b) none
    match least with
    | none => (out, ports)
    | some (p, a, b) => assignRaw r (ports.map fun x => if x.1 = p then (p, a * d + n * b, b * d) else x) (out ++ [(k, p)])

/-- The assignment of the first n RAW flows to the ports, if every port can carry its share (R262). -/
def Hub.rawPlan (h : Hub) (ports : List Nat) (n : Nat) : Option (List (FlowKey × Nat)) :=
  let fl := (h.rawFlows.take n).map fun k => (k, (h.rawLoad k).1, (h.rawLoad k).2)
  let r := assignRaw fl (ports.map fun p => (p, 0, 1)) []
  if ports.isEmpty then (if fl.isEmpty then some [] else none)
  else if r.2.all (fun x => decide (x.2.1 * 66 ≤ h.plainCap66 x.1 * x.2.2)) then some r.1 else none

/-- Ports of the group that run. -/
def Hub.rawUp (h : Hub) : List Nat := h.strm.rawGroup.filter fun p => (h.prt p).st == .plain

/-- A flow goes elsewhere from its next packet boundary: at once where no packet is open (R263). -/
def Flow.moveTo (f : Flow) (d : Dest) : Flow :=
  if !f.started || f.full || f.dest == d || (f.filling.isEmpty && f.lead.isEmpty) then { f with dest := d, destNext := none }
  else { f with destNext := some d }

/-- Assigns the RAW flows to the group's running ports; those that no longer fit stop in descending order with a record, and
a stopped flow that fits again goes on with a GAP item (R263). -/
def Hub.rawReassign (h : Hub) : Hub :=
  let fl := h.rawFlows
  let ports := h.rawUp
  let n := ((List.range (fl.length + 1)).reverse.find? fun n => (h.rawPlan ports n).isSome).getD 0
  let plan := (h.rawPlan ports n).getD []
  let one (k : FlowKey) (h : Hub) : Hub :=
    match plan.find? (fun p => p.1 == k) with
    | some (_, p) =>
      { (h.setFlow k fun f => f.moveTo (.port p)) with
        strm := { h.strm with stopped := h.strm.stopped.filter (· != (k.die, k.inst)) } }
    | none =>
      if h.strm.stopped.contains (k.die, k.inst) then h
      else
        let h := h.setFlow k fun f => f.moveTo .off
        ({ h with strm := { h.strm with stopped := h.strm.stopped ++ [(k.die, k.inst)] } }).notice (unitWord 11 k.code) 0x0602 0 0
  forAll fl one h

/-- STRM_RAW_GROUP (R262, R393). -/
def Hub.strmRawGroup (h : Hub) (ports : List Nat) : Hub :=
  let cfg (p : Nat) : Nat × Nat := (fld (h.prt p).cfg 22 20, fld (h.prt p).cfg 19 18)
  if ports.isEmpty then
    if h.chans.any (·.rawEn) then h.refuse St.badArg
    else ({ h with strm := { h.strm with rawGroup := [] } }).ok []
  else if 8 < ports.length ∨ !ports.all h.plainPort ∨ ports.any (fun p => cfg p != cfg (ports.headD 0)) then h.refuse St.badArg
  else h.onDies (ports.map (· / 4))
    (if (h.rawPlan ports h.rawFlows.length).isNone then h.refuse St.budget
     else (({ h with strm := { h.strm with rawGroup := ports, stopped := [] } }).rawReassign).ok [])

/-! ## STRM_SET (R238, R240) -/

/-- A channel's SKIM is used by an enabled repeater output or an armed skim-source capture (R238). -/
def Hub.skimUsed (h : Hub) (c : Nat) : Bool :=
  h.reps.any (fun r => bitOf r.w.ctl 31 && fld r.w.ctl 17 8 == c) || h.capSrc c == some 1

/-- Every quadrant's RAW-enabled channels have one N (R240). -/
def Hub.rawSameN (h : Hub) : Bool :=
  (List.range (4 * h.nDies)).all fun q =>
    let on := ((List.range 32).map fun i => 32 * q + i).filter fun c => (h.ch c).rawEn
    on.all fun c => (h.ch c).latest.nDiv == (h.ch (on.headD 0)).latest.nDiv

/-- Enables SKIM of a channel (R238). -/
def Hub.skimOn (c : Nat) (h : Hub) : Hub :=
  if (h.ch c).skimEn then h
  else h.setCh c fun x => { x with skimEn := true, rateDue := some 5, red := { x.red with cut := false },
                                   churnSkim := x.churnSkim.map fun u => { u with fresh := true } }

/-- Disables SKIM: the churn block closes, the RATE item stands after the last sample, and the reduction block ends
(R206, R238). -/
def Hub.skimOff (c : Nat) (h : Hub) : Hub :=
  if !(h.ch c).skimEn then h
  else
    let h := h.churnBreak false c
    let h := h.sweepRate false c h.tm.now 0 1 (h.ch c).desc.words 4
    let h := h.redClose c true
    h.setCh c fun x => { x with skimEn := false, rateDue := none, red := { x.red with cut := false } }

/-- Enables RAW of channels; a flow starts with its first, with the sweeps that all of them need (R238, R245, R246). -/
def Hub.rawOn (chs : List Nat) (h : Hub) : Hub :=
  let new := chs.filter fun c => !(h.ch c).rawEn
  let h := { h with chans := modAll h.chans new fun _ x =>
    { x with rawEn := true, churnRaw := x.churnRaw.map fun (u : ChurnUse) => { u with fresh := true } } }
  let h := forAll (new.map chDie).eraseDups (fun d h => h.reSweep d) h
  forAll new (fun c h =>
    let h := h.setFlow (streamKey true c) fun f => f.start h.tm.now
    let h := h.sweepRate true c h.tm.now 125000000 (h.ch c).desc.nDiv 1 5
    if 3 ≤ h.pwr.shed then h.sweepRate true c h.tm.now 0 1 1 3 else h) h

/-- Disables RAW of a channel. -/
def Hub.rawOff (c : Nat) (h : Hub) : Hub :=
  if !(h.ch c).rawEn then h
  else
    let h := h.churnBreak true c
    let h := h.sweepRate true c h.tm.now 0 1 1 4
    h.setCh c fun x => { x with rawEn := false }

/-- STRM_SET (R238, R240). -/
def Hub.strmSet (h : Hub) (kind en : Nat) (chs : List Nat) : Hub :=
  if 1 < kind ∨ 1 < en ∨ h.badChs chs then h.refuse St.badArg
  else h.onDies (chs.map chDie)
    (if kind = 0 then
      if en = 1 then
        let tooMuch (c : Nat) : Bool := !(h.ch c).skimEn && loadAbove ((h.ch c).latest.load true (h.ch c).latestRed (h.capSrc c)) 900
        h.checked [(St.budget, (chs.filter tooMuch).map chDie)]
          (let h' := forAll chs Hub.skimOn h
           (forAll (chs.map chDie).eraseDups (fun d h => h.reSweep d) h').ok [])
      else
        h.checked [(St.badArg, (chs.filter h.skimUsed).map chDie)]
          (let h' := forAll chs Hub.skimOff h
           (forAll (chs.map chDie).eraseDups (fun d h => h.reSweep d) h').ok [])
    else if en = 1 then
      let h' := { h with chans := modAll h.chans chs fun _ x => { x with rawEn := true } }
      if !h'.rawSameN then h.refuse St.badArg
      else if (h'.rawPlan h.rawUp h'.rawFlows.length).isNone then h.refuse St.budget
      else ((Hub.rawOn chs h).rawReassign).ok []
    else
      let h' := forAll chs Hub.rawOff h
      ((forAll (chs.map chDie).eraseDups (fun d h => h.reSweep d) h').rawReassign).ok [])

/-! ## Routes and the local window (R237, R255, R391) -/

/-- A packet under way on a port leaves the pails, and completes there (R391). -/
def Flow.partWith (f : Flow) : Flow :=
  match f.sending, f.dest with
  | some p, .port i =>
    { f with sending := none, past := f.past ++ [(i, p)], yoke := f.yoke.filter (fun q => q.seq != p.seq),
             backlog := f.backlog.filter (fun q => q.seq != p.seq) }
  | _, _ => f

/-- A flow takes another destination: what has not begun goes there (R391). -/
def Flow.reroute (f : Flow) (d : Dest) : Flow := if f.dest == d then f else { f.partWith with dest := d }

/-- Puts a flow on the local window. -/
def Hub.toLocal (h : Hub) (k : FlowKey) : Hub :=
  if !h.flowOk k ∨ 3 < k.kind ∨ h.strm.localFlow.isSome then h.refuse St.badArg
  else
    ((({ h with strm := { h.strm with localFlow := some k } }).setFlow k fun f => f.reroute .localWindow).flowTouch
      k.die).ok []

/-- The packet on the window has been read, which counts as its acknowledgement; what P00 has sent before waits for its own (R29, R248, R255,
R391). -/
def Flow.readOut (f : Flow) : Flow :=
  match f.sending with
  | some p => { f with sending := none, yoke := f.yoke.filter (fun q => q.seq != p.seq), backlog := f.backlog.filter (fun q => q.seq != p.seq),
                       lastAck := if f.held.isEmpty then p.seq else f.lastAck }
  | none => f

/-- The window's flow gives up the pail that has been read. -/
def Hub.doneLocal (h : Hub) : Hub :=
  match h.strm.localFlow with
  | some k => if h.strm.win.items.isEmpty && h.strm.win.words.isEmpty then h.setFlow k Flow.readOut else h
  | none => h

/-- Gives a flow a port, taking it off the window; a packet that has begun there stays with the window. -/
def Hub.toPort (h : Hub) (k : FlowKey) (p : Nat) : Hub :=
  let h := if h.strm.localFlow = some k then h.setFlow k Flow.readOut else h
  let h := if h.strm.localFlow = some k then { h with strm := { h.strm with localFlow := none } } else h
  (h.setFlow k fun f => f.reroute (.port p)).flowTouch k.die

/-- STRM_ROUTE (R237, R391). -/
def Hub.strmRoute (h : Hub) (flow p : Nat) : Hub :=
  let k := FlowKey.of flow
  if !h.flowOk k ∨ 3 < k.kind then h.refuse St.badArg
  else if p = 0xFE then h.toLocal k
  else if p ≠ 0 ∧ !h.plainPort p then h.refuse St.badArg
  else h.onDies [p / 4] ((h.toPort k p).ok [])

/-- STRM_LOCAL (R255, R391): 0xFFFF returns the flow on the window to P00. -/
def Hub.strmLocal (h : Hub) (flow : Nat) : Hub :=
  if flow = 0xFFFF then
    match h.strm.localFlow with
    | some k => (h.toPort k 0).ok []
    | none => h.ok []
  else h.toLocal (FlowKey.of flow)

/-- A byte string as words, big-endian. -/
def wordsOf (b : Bytes) : List Word :=
  (List.range (ceilDiv b.length 4)).map fun i => BitVec.ofNat 32 (unbe (((b.drop (4 * i)).take 4) ++ pad (4 - min 4 (b.length - 4 * i))))

/-- Begins the oldest closed packet of the flow on the window (R255). -/
def Hub.drainLocal (h : Hub) : Hub :=
  match h.strm.localFlow with
  | none => h
  | some k => match h.findFlow k with
    | none => h
    | some f =>
      match f.yoke ++ f.backlog with
      | [] => h
      | p :: _ =>
        let w : LocalWin := { h.strm.win with items := p.items }
        { (h.setFlow k fun f => { f with sending := some p }) with strm := { h.strm with win := w } }

/-- Closed packets without items are passed over. -/
def Hub.drainFull : Nat → Hub → Hub
  | 0, h => h
  | n + 1, h => if h.strm.win.items.isEmpty then Hub.drainFull n h.doneLocal.drainLocal else h

/-- A read of 0x3000 (R255). -/
def Hub.readLocal (h : Hub) : Hub :=
  let put (h : Hub) (w : Word) : Hub := { h with dbw := { h.dbw with readout := [w] } }
  match h.strm.win.words with
  | w :: r =>
    let win : LocalWin := { h.strm.win with words := r }
    (put ({ h with strm := { h.strm with win := win } }).doneLocal w).watermarks
  | [] =>
    let waiting := ((h.strm.localFlow.bind h.findFlow).map fun f => f.yoke.length + f.backlog.length).getD 0
    let h := Hub.drainFull (waiting + 1) h
    match h.strm.win.items with
    | [] => (put h 0).watermarks
    | i :: r =>
      let ws := wordsOf i.bytes
      let win : LocalWin := { h.strm.win with words := ws.tail, items := r }
      (put { h with strm := { h.strm with win := win } } (ws.headD 0)).watermarks

/-! ## STRM_ACK (R248, R249, R392) -/

/-- Coaches whose last packet is acknowledged, or discarded, are freed (R204, Table 07-6). -/
def Hub.freeAcked (h : Hub) (k : FlowKey) (gone : Word → Bool) : Hub :=
  if k.kind ≠ 4 then h
  else
    let d := k.die
    let done := (h.die d).store.coaches.filter fun c => c.st == .sending && c.port == k.inst &&
      (match c.lastSeq with | some s => gone s | none => false)
    if done.isEmpty then h else (forAll done (fun c h => h.freeCoach d c.seq) h).retryWait d

/-- One entry of STRM_ACK. -/
def Hub.ackEntry (e : AckEntry) (h : Hub) : Hub :=
  let k := FlowKey.of e.flow
  match h.findFlow k with
  | none => h
  | some f =>
    let g := f.ack h.clk.elapsed (fld h.strm.cfg 15 0) e.seqCum e.naks
    let h := h.setFlow k fun _ => g
    let h := if f.ignores e.seqCum then h else h.freeAcked k fun s => !seqBefore e.seqCum s
    h.flowTouch k.die

/-- STRM_ACK (R248, R392). -/
def Hub.strmAck (h : Hub) (r : Route) (es : List AckEntry) : Hub :=
  if r = .hspi ∨ es.isEmpty ∨ 64 < es.length ∨ es.any (fun e => decide (16 < e.naks.length)) ∨
      es.any (fun e => !h.flowOk (FlowKey.of e.flow)) then h.refuse St.badArg
  else (forAll es Hub.ackEntry h).ok []

/-! ## Flush (R259 to R261) -/

/-- Flushes one flow. -/
def Hub.flushFlow (hard : Bool) (k : FlowKey) (h : Hub) : Hub :=
  match h.findFlow k with
  | none => h
  | some f =>
    if !f.started then h
    else
      let set := k.kind = 0 ∨ k.kind = 5
      let was := h.seqs
      let dropped (s : Word) : Bool := f.waiting.any fun p => p.seq == s
      -- a reader of the window keeps the item that it is in, and no more (R260)
      let h := if hard && h.strm.localFlow == some k then
          { (h.setFlow k fun f => { f with sending := none }) with strm := { h.strm with win := { h.strm.win with items := [] } } }
        else h
      let till := if set then f.boundary h.tm.now + f.sw * 1024000 else max f.covStart (nsAfter h.tm.now)
      let h := if set ∧ !hard then h.setFlow k fun f => { f with softFlush := true }
        else if set then
          let raw := decide (k.kind = 5)
          let h := h.setFlow k fun f => ({ f with sweep := f.sweep.filter fun x => x.wsize == 4 }).flushAt till true
          h.mapCh fun c x => if streamKey raw c == k then x.setUse raw ((x.use raw).map fun u =>
            { u with block := [], fresh := true }) else x
        else h.setFlow k fun f => f.flushAt till hard
      (h.freeAcked k dropped).flowBuilt k.die was

/-- STRM_FLUSH (R259, R260). -/
def Hub.strmFlush (h : Hub) (kind : Nat) (flows : List Nat) : Hub :=
  if 1 < kind ∨ flows.isEmpty ∨ flows.any (fun w => !h.flowOk (FlowKey.of w)) then h.refuse St.badArg
  else (forAll (flows.map FlowKey.of) (Hub.flushFlow (kind == 1)) h).ok []

/-! ## Watermarks, FC pins, crossings, STRM_CFG -/

/-- STRM_WM_SET (R256). -/
def Hub.strmWmSet (h : Hub) (p : Nat) (w : Word) : Hub :=
  let hi := fld w 31 16
  let lo := fld w 15 0
  if (p ≠ 0xFE ∧ h.nPorts ≤ p) ∨ hi < 2 ∨ lo < 1 ∨ hi ≤ lo ∨ (p = 0xFE ∧ 32 < hi) then h.refuse St.badArg
  else if p = 0xFE then (({ h with strm := { h.strm with localWm := w } }).watermarks).ok []
  else h.onDies [p / 4] (((h.setPort p fun q => { q with wm := w }).watermarks).ok [])

/-- STRM_WM_GET (R256): the occupancy in KiB, rounded up (log entry 21). -/
def Hub.strmWmGet (h : Hub) (p : Nat) : Hub :=
  if p = 0xFE then h.ok (be 4 h.strm.localWm.toNat ++ be 4 (ceilDiv h.localOcc 1024))
  else if h.nPorts ≤ p then h.refuse St.badArg
  else h.onDies [p / 4] (h.ok (be 4 (h.prt p).wm.toNat ++ be 4 (ceilDiv (h.portOcc p) 1024)))

/-- Which ports the FCI pins hold (R258). -/
def Hub.fciHolds (h : Hub) : Hub :=
  let held (p : Nat) : Bool := (List.range 4).any fun n =>
    let w := h.strm.fc.getD n 0
    bitOf w 30 && !bitOf w 5 && fld w 4 0 == p && (h.strm.fci.getD n false != bitOf w 29)
  { h with ports := h.ports.mapIdx fun p (q : Port) => { q with fciHold := held p } }

/-- STRM_FC_SET (R258). -/
def Hub.strmFcSet (h : Hub) (pair : Nat) (w : Word) : Hub :=
  if 4 ≤ pair ∨ !onlyBits w 0xE000003F ∨ (!bitOf w 5 && !h.plainPort (fld w 4 0)) then h.refuse St.badArg
  else h.onDies (if bitOf w 5 then [] else [fld w 4 0 / 4])
    (((({ h with strm := { h.strm with fc := modAt h.strm.fc pair fun _ => w } }).fciHolds).watermarks).ok [])

/-- FCI (R258). -/
def Hub.fci (h : Hub) (pin : Nat) (level : Bool) : Hub :=
  ({ h with strm := { h.strm with fci := modAt h.strm.fci pin fun _ => level && h.vio 0 } }).fciHolds

/-- STRM_XSTAT (R266). -/
def Hub.strmXstat (h : Hub) (dies : List Nat) : Hub :=
  h.readMask dies fun ds =>
    let p := ds.flatMap fun d => (h.die d).xing.flatMap (be 1) ++ pad 1
    (forAll ds (fun d h => h.setDie d fun x => { x with xing := List.replicate 11 0 }) h).ok p

/-- XING: a record for every merge counter that is not zero (R266). -/
def Hub.xing (h : Hub) : Hub :=
  forAll (List.range h.nDies) (fun d h =>
    forAll (List.range 11) (fun r h =>
      let n := (h.die d).xing.getD r 0
      if n = 0 then h else h.notice (unitDie d) 0x0601 (argN r) (argN n)) h) h

/-- STRM_CFG_SET (R249). -/
def Hub.strmCfgSet (h : Hub) (w : Word) : Hub :=
  if !onlyBits w 0x0000FFFF ∨ fld w 15 0 < 10 ∨ 10000 < fld w 15 0 then h.refuse St.badArg
  else ({ h with strm := { h.strm with cfg := w } }).ok []

/-! ## Meanings -/

/-- STRM_SET (R238). -/
def execStrmSet (kind en : Nat) (chs : List Nat) (s : State) : Out := act s fun h => h.strmSet kind en chs
/-- STRM_ROUTE (R237). -/
def execStrmRoute (flow port : Nat) (s : State) : Out := act s fun h => h.strmRoute flow port
/-- STRM_LOCAL (R255). -/
def execStrmLocal (flow : Nat) (s : State) : Out := act s fun h => h.strmLocal flow
/-- STRM_ACK (R248). -/
def execStrmAck (route : Route) (entries : List AckEntry) (s : State) : Out := act s fun h => h.strmAck route entries
/-- STRM_FLUSH (R259). -/
def execStrmFlush (kind : Nat) (flows : List Nat) (s : State) : Out := act s fun h => h.strmFlush kind flows
/-- STRM_WM_SET (R256). -/
def execStrmWmSet (port : Nat) (w : Word) (s : State) : Out := act s fun h => h.strmWmSet port w
/-- STRM_WM_GET (R256). -/
def execStrmWmGet (port : Nat) (s : State) : Out := act s fun h => h.strmWmGet port
/-- STRM_FC_SET (R258). -/
def execStrmFcSet (pair : Nat) (w : Word) (s : State) : Out := act s fun h => h.strmFcSet pair w
/-- STRM_RAW_GROUP (R262). -/
def execStrmRawGroup (ports : List Nat) (s : State) : Out := act s fun h => h.strmRawGroup ports
/-- STRM_XSTAT (R266). -/
def execStrmXstat (dies : List Nat) (s : State) : Out := act s fun h => h.strmXstat dies
/-- STRM_CFG_SET (R249). -/
def execStrmCfgSet (w : Word) (s : State) : Out := act s fun h => h.strmCfgSet w
/-- STRM_CFG_GET (R249). -/
def execStrmCfgGet (s : State) : Out := act s fun h => h.ok (be 4 h.strm.cfg.toNat)
/-- SWEEP (R245). -/
def execSweep (flow : Nat) (s : State) : Out := act s fun h => h.sweepFlow (FlowKey.of flow)
/-- FCI (R258). -/
def execFci (pin : Nat) (level : Bool) (s : State) : Out := act s fun h => h.fci pin level
/-- XING (R266). -/
def execXing (s : State) : Out := act s Hub.xing

end Sys2Proof.Machine
end

