-- ==== Sys2Proof/Machine/SepOps.lean ====
section
/-! DEFINITION. Matrix sets of the separator (08): completeness, columns in use, partials, and the rule that ties a column's
channel to the tick. -/

namespace Sys2Proof.Machine

/-- A set is complete when every row has been written since its header (R219). -/
def SepSet.complete (s : SepSet) : Bool := decide (0 < s.rows) && s.data.length == s.rows

/-- Columns with a non-zero coefficient. -/
def SepSet.columns (s : SepSet) : List Nat :=
  (List.range 128).filter fun c => s.data.any fun r => r.2.coef.getD c 0 != 0

/-- The sets of a die. -/
def SepDie.sets (d : SepDie) : List SepSet := d.active :: d.shadow :: d.fb

/-- Columns that hold a non-zero coefficient in any complete set of the die (R215). -/
def SepDie.usedColumns (d : SepDie) : List Nat :=
  (List.range 128).filter fun c => d.sets.any fun s => s.complete && s.data.any fun r => r.2.coef.getD c 0 != 0

/-- The set that a selection names: ACTIVE, or a fallback. -/
def SepDie.setOf (d : SepDie) (sel : Nat) : SepSet := if sel = 0 then d.active else d.fb.getD (sel - 1) SepSet.empty

/-- A channel meets the conditions of R215 for a tick. -/
def Hub.columnOk (h : Hub) (tick c : Nat) : Bool :=
  let d := (h.ch c).latest
  !d.rsEn && tick % d.cycR == 0 && h.powered (chQuad c)

/-- Every used column of a die meets R215. -/
def Hub.sepDieOk (h : Hub) (tick d : Nat) : Bool := (h.die d).sep.usedColumns.all fun i => h.columnOk tick (128 * d + i)

/-- The channels that are used columns meet R215. -/
def Hub.sepChsOk (h : Hub) (chs : List Nat) : Bool :=
  chs.all fun c => !(h.die (chDie c)).sep.usedColumns.contains (c % 128) || h.columnOk h.sep.tick.toNat c

/-- The exact sum of products of a row, over 2^(15 - E), rounded half away from zero (R217). -/
def SepRow.partialSum (r : SepRow) (x : List Int) : Int :=
  let s := ((r.coef.zip x).map fun p => p.1 * p.2).sum
  roundHalf (s * (2 ^ (r.exp + 64).toNat : Nat)) (2 ^ 79)

/-- B_r above 2^38 - 1 (R218). -/
def SepRow.tooLarge (r : SepRow) : Bool :=
  decide (274877906943 * 2 ^ 79 < (r.coef.map Int.natAbs).sum * 8388607 * 2 ^ (r.exp + 64).toNat)

/-- The partials of a set, row 0 first; a row that is not there adds 0. -/
def SepSet.partials (s : SepSet) (x : List Int) : List Int :=
  (List.range s.rows).map fun r => match s.data.find? (fun p => p.1 == r) with
    | some p => SepRow.partialSum p.2 x
    | none => 0

/-- The partials during a fade, w = n / len (R222). -/
def fadeSums (old new : List Int) (n len : Nat) : List Int :=
  (List.range (max old.length new.length)).map fun r =>
    roundHalf (((len : Int) - n) * old.getD r 0 + n * new.getD r 0) len

end Sys2Proof.Machine
end

