-- ==== Sys2Proof/Machine/LinkOps.lean ====
section
/-! DEFINITION. What the hub's own parts hand to the link layer: packets of its own (12). -/

namespace Sys2Proof.Machine

/-- The hub's address as packets carry it (R341). -/
def Hub.addr (h : Hub) : Nat := h.enm.addr

/-- The hub holds an address (R8, R341). -/
def Hub.addressed (h : Hub) : Bool := decide (1 ≤ h.enm.addr ∧ h.enm.addr ≤ 0xFFE)

/-- Lanes that carry the port's blocks now: the width, or L0 during bring-up and a step. -/
def Port.txWidth (q : Port) : Nat := if q.st = .up ∨ q.st = .plain then max 1 q.width else 1

/-- The PRBS31 period of a step: raw on every data lane (R311 step 3). -/
def Port.prbsPeriod (q : Port) : Bool :=
  q.st == .training && (match q.run with | some r => r.at'.isNone && r.own.isNone && r.cause != .settle | none => false)

/-- A lane that has been woken to rejoin an UP port has still to pass its check (R317). -/
def Lane.rejoins (l : Lane) : Bool := l.wakeAt.isSome && !l.parked && !l.passed && !l.retired

/-- The PRBS31 check of a lane that rejoins has begun: 2 ms after it woke. It ends 1 ms later (R317; log entry 194). -/
def Lane.checking (now : Nat) (l : Lane) : Bool := l.rejoins && (match l.wakeAt with | some t => decide (t + 2000000 ≤ now) | none => false)

/-- The link layer of the port is there: UP, or in a step that keeps its buffer and sequence (R312, R338). -/
def Port.linked (q : Port) : Bool := q.st == .up || (q.st == .training && q.run.isSome)

/-- Queues a packet for a port (R332). -/
def Hub.queue (h : Hub) (p : Nat) (f : Frame) : Hub :=
  h.setLink p fun k => { k with queues := modAt k.queues (f.cls - 1) fun q => q ++ [f] }

/-- Sends a packet of the hub's own to the concentrator on P00; an unaddressed hub, or one whose P00 has no link, sends none
(R23, R342; log entry 34). -/
def Hub.originate (h : Hub) (cls kind : Nat) (body : Bytes) : Hub :=
  if h.addressed && (h.prt 0).linked then h.queue 0 ⟨cls, kind, 0, h.addr, body, none, false, true⟩ else h

end Sys2Proof.Machine
end

