-- ==== Sys2Proof/Machine/Trigger.lean ====
section
/-! DEFINITION. Detectors, EA64 levels, trigger units, TRIG pins, k-of-n groups and array triggers (06). -/

namespace Sys2Proof.Machine

/-! ## Array trigger messages (R182 to R186) -/

/-- The bytes of Table 06-14. -/
def arrBytes (m : ArrMsg) : Bytes :=
  be 2 m.origin ++ be 2 m.trigId ++ be 2 m.source ++ be 1 m.group ++ be 1 (if m.notLocked then 1 else 0) ++ be 1 m.missed ++
    pad 1 ++ be 6 m.stamp.sec.toNat ++ be 4 m.stamp.ns.toNat ++ be 2 m.stamp.frac.toNat ++ pad 2

/-- Coaches that the hub has started. -/
def Hub.coachesMade (h : Hub) : Nat := (h.dies.map fun (x : Die) => x.store.nextCoach).sum

/-- From h to g the hub has started a coach whose trigger sample its history held. -/
def Hub.fromHistory (h g : Hub) : Bool := decide (h.coachesMade + g.trg.lost < g.coachesMade + h.trg.lost)

/-- Acts on a message (R185, R186): once per ORIGIN, TRIG_ID and STAMP within a second, on the captures armed on its group. A late message that
starts a coach from history is counted and recorded with its arrival; a coach that starts with LATE_TRIG writes its own record (R386; log entry
136). TRIG_BAD saturates at 16 bits (log entry 19). -/
def Hub.arrAct (h : Hub) (m : ArrMsg) : Hub :=
  let st := Instant.fu m.stamp
  let recent := h.trg.seen.filter fun (x : ArrSeen) => decide (h.clk.elapsed < x.at' + 1000000000)
  if !h.trg.groups.contains m.group then h
  else if recent.any (fun (x : ArrSeen) => x.origin == m.origin && x.trigId == m.trigId && x.stamp == st) then h
  else if h.tm.now + fuSec < st then { h with trg := { h.trg with bad := satInc 16 h.trg.bad } }
  else
    let h := { h with trg := { h.trg with seen := ⟨m.origin, m.trigId, st, h.clk.elapsed⟩ :: recent } }
    let limit := st + h.trg.lat * 1024
    let g := h.capFire ⟨0x4000 + m.origin % 4096, m.trigId, st, m.notLocked, m.missed, m.origin⟩
      fun p => p.groups.contains m.group
    if g.tm.now ≤ limit ∨ !h.fromHistory g then g
    else ({ g with trg := { g.trg with late := g.trg.late + 1 } }).trigLate g.tm.now (m.origin * 65536 + m.trigId) limit

/-- Originates a message: at most one in 100 µs, others are suppressed and counted; a group the hub subscribes to is delivered
to itself (R182, R183, R185). -/
def Hub.arrOriginate (h : Hub) (t : Trigger) (group : Nat) : Hub :=
  let soon := match h.trg.lastMsg with | some x => decide (h.clk.elapsed < x + 100000) | none => false
  if soon then
    { h with trg := { h.trg with suppressed := h.trg.suppressed + 1, arrMissed := satInc 8 h.trg.arrMissed } }
  else
    let m : ArrMsg := ⟨h.addr, t.trigId, t.source, group, t.notLocked, satAdd 8 t.missed h.trg.arrMissed, Instant.of t.stamp⟩
    let h := { h with trg := { h.trg with lastMsg := some h.clk.elapsed, arrMissed := 0 } }
    (h.originate 1 0 (arrBytes m)).arrAct m

/-! ## A trigger (R174, R176, R180) -/

/-- Puts a record into the DET stream of a die (R168). -/
def Hub.detRecord (h : Hub) (d : Nat) (b : Bytes) : Hub := h.emitRecord ⟨d, 2, 0⟩ (2056 + d) b

/-- A source is a member of a group: a channel by its number, a pin by 1,024 more than its own (R179). -/
def Kon.has (k : Kon) (who : Nat) : Bool := if who < 1024 then k.units.contains who else k.pins.testBit (who - 1024)

/-- A member's trigger joins the events of every group that has it (R180, R181). -/
def Hub.konEvent (h : Hub) (who stamp : Nat) : Hub :=
  let kons := h.trg.kons.map fun (k : Kon) =>
    if k.k != 0 && k.has who then { k with events := k.events ++ [⟨who, stamp, false⟩] } else k
  { h with trg := { h.trg with kons := kons } }

/-- A trigger of a source: its id, its record (R_EVT), its captures (R_CAP) and its message (R_ARR). `d` is the die whose DET
stream takes the record, `info` INFO without NOT_LOCKED. -/
def Hub.fire (h : Hub) (d source stamp missed info : Nat) (flags : Byte) (route : Word) (sel : CapParams → Bool) : Hub :=
  let id := h.trg.nextId
  let t : Trigger := ⟨source, id, stamp, !h.locked, missed, 0⟩
  let h := { h with trg := { h.trg with nextId := (id + 1) % 65536 } }
  let h := if bitOf route 21 then
      h.detRecord d (be 1 0x30 ++ be 1 (info + if h.locked then 0 else 32) ++ be 1 missed ++ be 1 flags.toNat ++ be 2 source ++
        be 2 id ++ stampB stamp)
    else h
  let h := if bitOf route 22 then h.capFire t sel else h
  if bitOf route 20 then h.arrOriginate t (fld route 7 0) else h

/-- A channel trigger unit's trigger. -/
def Hub.fireChan (h : Hub) (c stamp missed info : Nat) (flags : Byte) (route : Word) : Hub :=
  (h.fire (chDie c) c stamp missed info flags route fun p => p.units.contains c).konEvent c stamp

/-! ## Trigger units (R170 to R175) -/

/-- What a unit sees in a sample: the fire condition, the two re-arm conditions, the direction and the level crossed. -/
structure TrigLook where
  fire : Bool
  low : Bool
  high : Bool
  falling : Bool
  level : Int
  deriving DecidableEq, Repr

/-- Fire and re-arm conditions of Table 06-11; none while SLOPE still gathers history. `scale` is the weight of one unit of TA,
TB and TH. DESIGN CHOICE (log entry 125): with FREERUN, LEVEL either takes both ready terms as true. -/
def DetSec.look (s : DetSec) (u : TrigUnit) (scale : Int) (x : Int) : Option TrigLook :=
  let ta := sfld s.trga 23 0 * scale
  let tb := sfld s.trgb 23 0 * scale
  let th : Int := (fld s.trgh 23 0 : Int) * scale
  let dir := fld s.trg 27 26
  let up : TrigLook := ⟨decide (ta ≤ x), decide (x ≤ ta - th), false, false, ta⟩
  let down : TrigLook := ⟨decide (x ≤ ta), decide (ta + th ≤ x), false, true, ta⟩
  match fld s.trg 30 28 with
  | 0 =>
    if dir = 0 then some up
    else if dir = 1 then some down
    else
      let a := (u.readyLow || bitOf s.trg 23) && decide (ta ≤ x)
      let b := (u.readyHigh || bitOf s.trg 23) && decide (x ≤ ta)
      some ⟨a || b, decide (x ≤ ta - th), decide (ta + th ≤ x), !a, ta⟩
  | 1 => some ⟨decide (ta < x) || decide (x < tb), decide (tb + th ≤ x) && decide (x ≤ ta - th), false, decide (x < tb),
      if x < tb then tb else ta⟩
  | 2 =>
    let n := fld s.trg 15 8
    if u.hist.length < n then none
    else
      let d := x - u.hist.getD (n - 1) 0
      if dir = 0 then some ⟨decide (ta ≤ d), decide (d ≤ ta - th), false, false, 0⟩
      else if dir = 1 then some ⟨decide (d ≤ -ta), decide (-ta + th ≤ d), false, true, 0⟩
      else some ⟨decide (ta ≤ d.natAbs), decide ((d.natAbs : Int) ≤ ta - th), false, decide (d < 0), 0⟩
  | 3 | 5 => some up
  | _ => some down

/-- An evaluated sample joins the unit's history. DEDUCED (log entry 38): x_(k−n) of SLOPE is the n-th evaluated sample back, also across
samples that were not evaluated. -/
def TrigUnit.push (u : TrigUnit) (t : Nat) (x : Int) (f : Byte) : TrigUnit :=
  { u with hist := (x :: u.hist).take 256, flags := (f :: u.flags).take 3, lastInst := some t }

/-- One microsecond in 1/1,024 ns. -/
def fuUs : Nat := 1024000

/-- One evaluation (R171 to R174): the unit after it and, for a trigger, what it saw with the MISSED it carries. -/
def TrigUnit.eval (u : TrigUnit) (s : DetSec) (scale : Int) (t : Nat) (x : Int) : TrigUnit × Option (TrigLook × Nat) :=
  match s.look u scale x with
  | none => (u, none)
  | some l =>
    let timed := decide (u.since + fuUs ≤ t)
    let armed := u.readyLow || u.readyHigh
    let can := if bitOf s.trg 23 then timed else armed
    if can && l.fire then
      ({ u with readyLow := false, readyHigh := false, since := t, missed := 0, prevFire := true }, some (l, u.missed))
    else
      let m := if !can && l.fire && !u.prevFire then satInc 8 u.missed else u.missed
      let w : TrigUnit := { u with missed := m, prevFire := l.fire }
      (if !armed && timed then { w with readyLow := l.low, readyHigh := l.high } else w, none)

/-- The tap instant after the one at t (R175). -/
def Desc.nextTap (d : Desc) (t : Nat) : Nat := if d.det.skimTap then d.skimInst (d.skimIdxAt t + 1) else t + d.rawPeriod

/-- The crossing by linear interpolation between two samples (R175). -/
def linearStamp (t0 t1 : Nat) (x0 x1 level : Int) : Nat :=
  if x1 = x0 then t0
  else
    let num := if x1 < x0 then x0 - level else level - x0
    (t0 + roundHalf (num * ((t1 - t0 : Nat) : Int)) (x1 - x0).natAbs).toNat

/-- The crossing by the cubic (R175). -/
def cubicStamp (w : CubicWait) (p3 : Int) : Nat := w.tPrev + cubicCross w.p0 w.p1 w.p2 p3 w.level (w.tCur - w.tPrev)

/-- A cubic stamp that waits is formed, with x_(k+1) where it came at the next tap instant, linearly where it will not (R175). -/
def Hub.trigSettle (h : Hub) (c : Nat) (next : Option (Nat × Int × Byte)) : Hub :=
  match (h.ch c).trig.cubic with
  | none => h
  | some w =>
    let h := h.setCh c fun x => { x with trig := { x.trig with cubic := none } }
    match next.filter fun n => n.1 == w.tNext with
    | some (_, p3, f) => h.fireChan c (cubicStamp w p3) w.missed w.info (w.flags ||| w.flagsBefore ||| f) w.route
    | none => h.fireChan c (linearStamp w.tPrev w.tCur w.p1 w.p2 w.level) w.missed w.info w.flags w.route

/-- INFO of a trigger event record without NOT_LOCKED (Table 06-10). -/
def DetSec.info (s : DetSec) (l : TrigLook) : Nat :=
  fld s.trg 30 28 + (if l.falling then 8 else 0) + (if bitOf s.trg 23 then 16 else 0)

/-- A tap sample that the unit evaluates: t its instant, x its value, f its flags (R170 to R176). -/
def Hub.trigTake (h : Hub) (c t : Nat) (x : Int) (f : Byte) : Hub :=
  let h := h.trigSettle c (some (t, x, f))
  let s := (h.ch c).desc.det
  if !bitOf s.trg 31 || s.onDet then h
  else
    let u := (h.ch c).trig
    let (v, r) := u.eval s (if s.skimTap then 1 else 65536) t x
    let h := h.setCh c fun y => { y with trig := v.push t x f }
    match r with
    | none => h
    | some (l, missed) =>
      let flat := bitOf s.trg 23 || fld s.trg 30 28 == 2
      match flat, u.lastInst with
      | false, some t0 =>
        let f1 := f ||| u.flags.getD 0 0
        if bitOf s.trg 24 && decide (2 ≤ u.hist.length) then
          let w : CubicWait := ⟨u.hist.getD 1 0, u.hist.getD 0 0, x, l.level, t0, t, (h.ch c).desc.nextTap t, f1, u.flags.getD 1 0, s.info l, s.trg,
            missed⟩
          h.setCh c fun y => { y with trig := { y.trig with cubic := some w } }
        else h.fireChan c (linearStamp t0 t (u.hist.getD 0 0) x l.level) missed (s.info l) f1 s.trg
      | _, _ => h.fireChan c t missed (s.info l) f s.trg

/-- A tap instant that the unit does not evaluate (R170, R175). -/
def Hub.trigSkip (h : Hub) (c : Nat) : Hub := h.trigSettle c none

/-- A detector's output meets the trigger unit whose condition names the detector (R171), unless the unit evaluates nothing at the sample that
ended the window (R170). -/
def Hub.trigDet (h : Hub) (c : Nat) (second : Bool) (t : Nat) (v : Int) (f : Byte) (skip : Bool) : Hub :=
  let x := h.ch c
  let s := x.desc.det
  if !bitOf s.trg 31 || !s.onDet || (decide (5 ≤ fld s.trg 30 28) != second) || skip then h
  else
    let (u, r) := x.trig.eval s 1 t v
    let h := h.setCh c fun y => { y with trig := u }
    match r with
    | none => h
    | some (l, missed) => h.fireChan c t missed (s.info l) f s.trg

/-! ## Detectors (R165 to R168) -/

/-- The root of an exact fraction as a number, one of its two neighbours where it is not exact (log entry 41). -/
def rootOpen (num den : Nat) : Int :=
  let r := isqrt (num / den)
  if r * r * den = num then r else (r : Int) + Config.stageRound num den % 2

/-- The state of a detector after a sample (Table 06-5). DESIGN CHOICE (log entry 41): each root of an envelope with DEMOD_OUT 1 is cut to 16
fractional bits. -/
def detStep (d : Desc) (w : Word) (acc : Int) (first : Bool) (v0 v1 : Int) : Int :=
  let a : Int := v0.natAbs
  let dk := fld w 27 24
  match DetSec.kind w with
  | 0 => if bitOf w 28 then max a (acc - roundHalf acc (2 ^ dk)) else if first then a else max acc a
  | 1 => if bitOf w 28 then acc + roundHalf (v0 * v0 - acc) (2 ^ dk) else (if first then 0 else acc) + v0 * v0
  | _ =>
    if d.amplitude then (if first then 0 else acc) + v0
    else if d.demodEn && d.demodOut == 1 then (if first then 0 else acc) + isqrt ((v0 * v0 + v1 * v1).toNat * 2 ^ 32)
    else acc + roundHalf (a - acc) (2 ^ (if acc < a then dk else fld w 23 20))

/-- The output at the end of a window (Table 06-5). DESIGN CHOICE (log entry 41): a mean that is no whole number is one of its two neighbours. -/
def detOut (d : Desc) (w : Word) (acc : Int) : Int :=
  match DetSec.kind w with
  | 0 => acc
  | 1 => if bitOf w 28 then rootOpen acc.toNat 1 else rootOpen acc.toNat (DetSec.win w)
  | _ =>
    if d.amplitude then chainRound acc (DetSec.win w)
    else if d.demodEn && d.demodOut == 1 then chainRound acc (DetSec.win w * 2 ^ 16)
    else acc

/-- A skim sample through one detector of a channel (R165 to R168). DESIGN CHOICE (log entry 158): a window that misses a sample of its index range
gives no output. -/
def Hub.detTake (h : Hub) (c j t : Nat) (second : Bool) (v0 v1 : Int) (f : Byte) (skip : Bool) : Hub :=
  let x := h.ch c
  let w := if second then x.desc.det.detb else x.desc.det.deta
  let u := if second then x.detB else x.detA
  let win := DetSec.win w
  if !bitOf w 31 then h
  else
    let start := j % win == 0
    if !(u.begun && j == u.at' + 1) && !start then h.setCh c fun y =>
      if second then { y with detB := { u with begun := false } } else { y with detA := { u with begun := false } }
    else
      let u' : DetUnit := ⟨detStep x.desc w u.acc start v0 v1, (if start then 0 else u.flags) ||| f, if start then 1 else u.seen + 1,
        true, j⟩
      let h := h.setCh c fun y => if second then { y with detB := u' } else { y with detA := u' }
      if (j + 1) % win ≠ 0 then h
      else
        let v := detOut x.desc w u'.acc
        let b := be 1 (if second then 0x11 else 0x10) ++ be 1 (DetSec.kind w) ++ be 2 c ++ be 4 (skimWord v u'.flags).toNat ++
          stampB t
        (h.detRecord (chDie c) b).trigDet c second t v u'.flags skip

/-! ## EA64 levels (R169) -/

/-- A skim sample at one level: the state after it and the direction of an event. -/
def thrStep (level hyst : Word) (st : Option Bool) (x : Int) : Option Bool × Option Bool :=
  let l := sfld level 23 0
  let lo := l - fld hyst 23 0
  match st with
  | none => (if l ≤ x then some true else if x ≤ lo then some false else none, none)
  | some true => if x ≤ lo then (some false, some false) else (some true, none)
  | some false => if l ≤ x then (some true, some true) else (some false, none)

/-- One EA64 level of a channel. -/
def Hub.thrTake (h : Hub) (c t n : Nat) (v : Int) (f : Byte) : Hub :=
  let x := h.ch c
  let s := x.desc.det
  let level := if n = 0 then s.thr0l else s.thr1l
  let hyst := if n = 0 then s.thr0h else s.thr1h
  if !bitOf level 31 then h
  else
    let (st, ev) := thrStep level hyst (if n = 0 then x.thr0 else x.thr1) v
    let h := h.setCh c fun y => if n = 0 then { y with thr0 := st } else { y with thr1 := st }
    match ev with
    | none => h
    | some up => h.detRecord (chDie c) (be 1 0x20 ++ be 3 (secOf t % 2 ^ 24) ++ be 2 c ++
        be 1 ((if up then 1 else 0) + 2 * n) ++ be 1 f.toNat ++ beInt 4 v ++ be 4 (nsOf t / 1000))

/-! ## TRIG pins (R177, R178) -/

/-- The die of a pin. -/
def pinDie (pin : Nat) : Nat := pin / 4

/-- A level that a pin has shown for `run` engine cycles of 1 ns, this one included: with nine it counts, and is an edge where it differs
from the last level that counted; the stamp is the first cycle of the run (R177, R178; log entry 36). DESIGN CHOICE (log entry 161): COND
of a pin's record is 0, and its direction is the edge's. -/
def Hub.trigEdge (h : Hub) (pin : Nat) (falling : Bool) (run : Nat) : Hub :=
  if 8 ≤ pin ∨ !h.vio (pin / 4) ∨ run < 9 ∨ (h.die (pinDie pin)).faulted then h
  else
    let p := h.trg.pins.getD pin ⟨0, false, none, 0⟩
    let set (f : TrigPin → TrigPin) (h : Hub) : Hub := { h with trg := { h.trg with pins := modAt h.trg.pins pin f } }
    if p.level = !falling then h
    else
      let h := set (fun p => { p with level := !falling }) h
      let edge := fld p.cfg 30 29
      let stamp := (h.tm.now / 1024 - (run - 1)) * 1024
      if !bitOf p.cfg 31 || !(edge == 2 || (edge == 1) == falling) then h
      else if p.last.any (fun t => decide (stamp < t + fuUs)) then set (fun p => { p with missed := satInc 8 p.missed }) h
      else
        ((set (fun p => { p with last := some stamp, missed := 0 }) h).fire (pinDie pin) (0x1000 + pin) stamp p.missed
          (if falling then 8 else 0) 0 p.cfg fun q => q.pins.testBit pin).konEvent (1024 + pin) stamp

/-- TRIG_PIN_SET (R178). -/
def Hub.trigPinSet (h : Hub) (pin : Nat) (w : Word) : Hub :=
  if 8 ≤ pin ∨ !onlyBits w 0xE07000FF ∨ fld w 30 29 = 3 then h.refuse St.badArg
  else h.onDies [pinDie pin]
    (({ h with trg := { h.trg with pins := modAt h.trg.pins pin fun p => { p with cfg := w } } }).ok [])

/-- TRIG_PIN_GET (R178). -/
def Hub.trigPinGet (h : Hub) (pin : Nat) : Hub :=
  if 8 ≤ pin then h.refuse St.badArg
  else h.onDies [pinDie pin]
    (let p := h.trg.pins.getD pin ⟨0, false, none, 0⟩
     h.ok (be 4 p.cfg.toNat ++ be 1 (if p.level then 1 else 0) ++ be 1 p.missed ++ pad 2))

/-! ## k-of-n groups (R179 to R181) -/

/-- The worst availability of a channel's unit after its stamp, with the transit of the die ring, in 1/1,024 ns (R180, R182). -/
def Desc.worstAvail (d : Desc) : Nat :=
  let s := d.det
  let skim := s.skimTap || s.onDet
  let late := if skim then 1228800 else 180224
  let after := if s.onDet || fld s.trg 30 28 == 2 || bitOf s.trg 23 then 0
    else if bitOf s.trg 24 then 2 * d.tapPeriod else d.tapPeriod
  after + late + 512000

/-- No member of a group is too slow for it (R180). -/
def Hub.konMembersOk (h : Hub) (k : Kon) : Bool :=
  k.k == 0 || ((k.units.all fun c => !bitOf (h.ch c).desc.det.trg 31 || decide ((h.ch c).desc.worstAvail ≤ k.lat * 1024)) &&
    (k.pins == 0 || decide (614400 ≤ k.lat * 1024)))

/-- TRIG_KON_SET (R179, R180, R386). Events of a source that is no member any more go (R181; log entry 37). -/
def Hub.trigKonSet (h : Hub) (g pins k win lat : Nat) (route : Word) (units : List Nat) : Hub :=
  let new : Kon := { Kon.reset with k := k, pins := pins, units := units, win := win, lat := lat, route := route }
  if 16 ≤ g ∨ 256 ≤ pins ∨ win < 1 ∨ 1000000 < win ∨ lat < 4000 ∨ 10000000 < lat ∨ !onlyBits route 0x007000FF ∨
      units.any (fun c => decide (h.nChans ≤ c)) ∨ units.length + (bitsOf 8 pins).length < k then h.refuse St.badArg
  else
    let sup := { h with chans := h.chans.map fun (x : Chan) => { x with desc := x.latest } }
    if !sup.konMembersOk new then h.refuse St.badArg
    else h.onDies (units.map chDie) <|
      ({ h with trg := { h.trg with kons := modAt h.trg.kons g fun o =>
          { new with events := if k = 0 then [] else o.events.filter fun (e : KonEvent) => new.has e.member, readyAt := o.readyAt, missed := o.missed } } }).ok []

/-- Events in the order of evaluation: stamp, then member. -/
def KonEvent.before (a b : KonEvent) : Bool := decide (a.stamp < b.stamp) || (a.stamp == b.stamp && decide (a.member < b.member))

/-- The event a group evaluates next. -/
def Kon.next (k : Kon) : Option KonEvent :=
  (k.events.filter fun (e : KonEvent) => !e.evaluated).foldl (fun (o : Option KonEvent) e => match o with
    | none => some e
    | some b => if e.before b then some e else some b) none

/-- Evaluates the next event of a group, once its stamp plus KON_LAT has come (R180, R181). DESIGN CHOICE (log entry 161): COND and the direction
of a group's record are 0. -/
def Hub.konEval (h : Hub) (g : Nat) : Hub :=
  let k := h.trg.kons.getD g Kon.reset
  let set (f : Kon → Kon) (h : Hub) : Hub := { h with trg := { h.trg with kons := modAt h.trg.kons g f } }
  match k.next with
  | none => h
  | some e =>
    if h.tm.now < e.stamp + k.lat * 1024 then h
    else
      let rest := k.events.filter fun x => x != e
      if e.stamp < k.readyAt then set (fun k => { k with events := rest, missed := satInc 8 k.missed }) h
      else
        let live := rest.filter fun (x : KonEvent) => !x.evaluated || decide (e.stamp ≤ x.stamp + k.win * 1024)
        let counted := { e with evaluated := true } :: live.filter fun (x : KonEvent) => x.evaluated
        if ((counted.map KonEvent.member).eraseDups).length < k.k then
          set (fun k => { k with events := live ++ [{ e with evaluated := true }] }) h
        else
          (set (fun k => { k with events := live.filter fun (x : KonEvent) => !x.evaluated, readyAt := e.stamp + fuUs, missed := 0 })
            h).fire h.boot.lead (0x2000 + g) e.stamp k.missed 0 0 k.route fun q => q.kon.testBit g

/-! ## Array settings, TRIG_FORCE, TRIG_STATUS -/

/-- TRIG_ARR_SET (R185, R386): TRIG_LAT in µs, 0 for 200. -/
def Hub.trigArrSet (h : Hub) (groups : List Nat) (lat : Nat) : Hub :=
  let us := if lat = 0 then 200 else lat
  if us < 10 ∨ 10000 < us ∨ groups.any (fun g => decide (256 ≤ g)) then h.refuse St.badArg
  else ({ h with trg := { h.trg with groups := groups, lat := us * 1000 } }).ok []

/-- TRIG_FORCE (R186). -/
def Hub.trigForce (h : Hub) : Hub :=
  let id := h.trg.nextId
  (h.fire h.boot.lead 0x5000 h.tm.now 0 0 0 0x00600000 fun _ => true).ok (be 2 id ++ pad 2)

/-- TRIG_STATUS (R386). -/
def Hub.trigStatus (h : Hub) (clear : Nat) : Hub :=
  let t := h.trg
  let p := t.pins.flatMap (fun (p : TrigPin) => be 1 p.missed) ++ t.kons.flatMap (fun (k : Kon) => be 1 k.missed) ++
    be 4 (sat 32 t.bad) ++ be 4 (sat 32 t.late) ++ be 4 (sat 32 t.lost) ++ be 4 (sat 32 t.suppressed)
  let h := if clear = 0 then h
    else { h with trg := { t with bad := 0, late := 0, lost := 0, suppressed := 0,
                                  pins := t.pins.map (fun (p : TrigPin) => { p with missed := 0 }),
                                  kons := t.kons.map (fun (k : Kon) => { k with missed := 0 }) } }
  h.ok p

/-! ## Meanings -/

/-- TRIG_PIN_SET (R178). -/
def execTrigPinSet (pin : Nat) (w : Word) (s : State) : Out := act s fun h => h.trigPinSet pin w
/-- TRIG_PIN_GET (R178). -/
def execTrigPinGet (pin : Nat) (s : State) : Out := act s fun h => h.trigPinGet pin
/-- TRIG_KON_SET (R179). -/
def execTrigKonSet (group pins k win lat : Nat) (route : Word) (units : List Nat) (s : State) : Out :=
  act s fun h => h.trigKonSet group pins k win lat route units
/-- TRIG_ARR_SET (R185). -/
def execTrigArrSet (groups : List Nat) (lat : Nat) (s : State) : Out := act s fun h => h.trigArrSet groups lat
/-- TRIG_FORCE (R186). -/
def execTrigForce (s : State) : Out := act s Hub.trigForce
/-- TRIG_STATUS (R386). -/
def execTrigStatus (clear : Nat) (s : State) : Out := act s fun h => h.trigStatus clear
/-- TRIG_EDGE (R177). -/
def execTrigEdge (pin : Nat) (level : PinRun) (s : State) : Out := act s fun h => h.trigEdge pin level.falling level.run
/-- KON_EVALUATION (R180). -/
def execKonEvaluation (group : Nat) (s : State) : Out := act s fun h => h.konEval group

end Sys2Proof.Machine
end

