-- ==== Sys2Proof/Machine/Audit.lean ====
section
/-! DEFINITION. The audit converter (03): urgent requests, runs, comparisons, the doubt about the converter, CAL_AUDIT. -/

namespace Sys2Proof.Machine

def Hub.setAudit (h : Hub) (d : Nat) (f : Audit → Audit) : Hub := h.setDie d fun x => { x with audit := f x.audit }
def Hub.aud (h : Hub) (d : Nat) : Audit := (h.die d).audit

/-- AUD_MODE (Table 03-3). -/
def Audit.mode (a : Audit) : Nat := fld a.cfg 1 0
/-- Modes that visit the internal points, and that report over-range. -/
def Audit.visits (a : Audit) : Bool := a.mode == 1 || a.mode == 3
def Audit.reports (a : Audit) : Bool := a.mode == 2 || a.mode == 3

/-- Puts an octet among those requested (R397, R435): once, unless it is held, when it queues behind. -/
def Hub.calQueue (h : Hub) (o : Nat) : Hub :=
  if h.cal.requests.contains o then h else { h with cal := { h.cal with requests := h.cal.requests ++ [o] } }

/-! ## Urgent requests (R83 to R85) -/

/-- Requests an entry of a die: merged where it waits, queued, or put into the overflow set (R85). DEDUCED (log entry 114): the entry
that is being converted keeps its place among the 8, so a request for it merges. -/
def Hub.urgent (h : Hub) (d e : Nat) : Hub :=
  h.setAudit d fun a =>
    if a.urgent.contains e || a.overflow.contains e then { a with urgMerge := satInc 8 a.urgMerge }
    else if a.urgent.length < 8 then { a with urgent := a.urgent ++ [e] }
    else { a with overflow := insertNat e a.overflow }

/-- The urgent request of a channel. -/
def Hub.urgentChan (h : Hub) (c : Nat) : Hub := h.urgent (chDie c) (c % 128)

/-! ## The run (R77 to R79, R84) -/

/-- An entry belongs to the run (R79). -/
def Hub.inRun (h : Hub) (d e : Nat) : Bool :=
  if e < 128 then
    let c := 128 * d + e
    let x := h.ch c
    x.desc.audEn && x.desc.inSel == 0 && !(h.oct (chOct c)).held && h.powered (chQuad c) && x.retired.isNone
  else decide (e < 144) && (h.aud d).visits

/-- The entry that the run reaches from p on; none where the run has ended. -/
def Hub.runEntry (h : Hub) (d p : Nat) : Option Nat :=
  ((List.range 144).drop p).find? fun e => h.inRun d e

/-- The channel has main samples that stand for its pins (R83; log entry 43). -/
def Hub.mainSamples (h : Hub) (c : Nat) : Bool :=
  let x := h.ch c
  x.retired.isNone && !x.stopped && x.desc.inSel == 0 && !(h.oct (chOct c)).held && h.powered (chQuad c) && h.clk.run

/-- An exact product of a value v = num / den with a gain over 2^30 and an offset over 2^16 added, as a fraction (R86, R136). -/
def corrected (v : Int × Nat) (gain : Nat) (ofs : Int) : Int × Nat :=
  (v.1 * gain * 65536 + ofs * v.2 * 1073741824, v.2 * 1073741824 * 65536)

/-- The audit converter's comparison constants for a channel: those of its correction set, else the die's of its gain (R429,
R437). -/
def Hub.audConst (h : Hub) (c : Nat) : Nat × Int :=
  let x := h.ch c
  match x.corr.getD x.desc.gain none with
  | some k => (k.audGain, k.audOfs)
  | none => (h.aud (chDie c)).consts.getD x.desc.gain (1073741824, 0)

/-- A of R86: a result after the audit converter's own corrections and the channel's digital gain and offset. -/
def Hub.auditValue (h : Hub) (c : Nat) (s : Int) : Int :=
  let k := h.audConst c
  let n := (h.ch c).corrNow
  let v := corrected (corrected (s, 8) k.1 k.2) n.gain n.ofs
  roundHalf v.1 v.2

/-- A code within the converter's 14 bits, and the sum of an entry's codes (R77). -/
def auditClip (v : Int) : Int := max (-8192) (min 8191 v)
def auditSum (codes : List Int) : Int := (codes.map auditClip).sum

/-- Stores the result of an entry: the sum of 16 codes and, for a channel with main samples, what its comparison needs (R77,
R83, R86). A code outside 14 bits has clipped. -/
def Hub.auditStore (h : Hub) (d e : Nat) (codes : List Int) : Hub :=
  let s := auditSum codes
  let clipped := codes.any fun v => auditClip v != v
  let h := h.setAudit d fun a =>
    { a with sums := modAt a.sums e fun _ => s, clips := modAt a.clips e fun _ => clipped,
             points := if e < 128 then a.points else modAt a.points (e - 128) fun p => (p.1 + s, p.2 + 1) }
  let c := 128 * d + e
  if e < 128 then
    let v := h.auditValue c s
    let at' := h.clk.elapsed - 425
    let h := h.setCh c fun x =>
      { x with pinRead := some at', pinOver := if clipped || decide (8191 < v) || decide (v < -8192) then some at' else x.pinOver }
    if h.mainSamples c then
      h.setCh c fun x => { x with auditWait := x.auditWait ++ [AuditWait.mk s (h.tm.now - 435200) clipped] }
    else h
  else h

/-- In Doze a run starts every 10 ms only (R451). -/
def Hub.runRests (h : Hub) (d : Nat) : Bool := h.pwr.st == .doze && decide (h.clk.elapsed < (h.aud d).runAt + 10000000)

/-- The entry that the converter has for the run: the one it converts, or the first one of a run that now starts (R79, R451). -/
def Hub.runNow (h : Hub) (d : Nat) : Option Nat :=
  if (h.aud d).running then (h.aud d).entry else if h.runRests d then none else h.runEntry d 0

/-- The run goes on behind an entry: what stands next is decided now (R79). -/
def Hub.runOn (h : Hub) (d e : Nat) : Hub :=
  let n := h.runEntry d (e + 1)
  h.setAudit d fun a => { a with running := true, entry := n, runAt := if a.running then a.runAt else h.clk.elapsed }

/-- The entries of a reference check (R438). -/
def refEntries : List Nat := [141, 142, 143]

/-- A result for a reference check: 16 of each entry count (R430). -/
def RefRead.take (r : RefRead) (e : Nat) (s : Int) : RefRead :=
  let add (l : List Int) (n : Nat) : List Int := if e = n ∧ l.length < 16 then s :: l else l
  ⟨add r.high 141, add r.low 142, add r.gap 143⟩

/-- All 16 results of each entry are there. -/
def RefRead.full (r : RefRead) : Bool := r.high.length == 16 && r.low.length == 16 && r.gap.length == 16

/-- A reference check begins: its first round of urgent entries (R83, R430, R438). -/
def Hub.refBegin (h : Hub) (d : Nat) : Hub :=
  forAll refEntries (fun e h => h.urgent d e) (h.setAudit d fun a => { a with ref := some ⟨[], [], []⟩ })

/-- An urgent result for a reference check under way; once a round is complete the next one is requested, up to 16. -/
def Hub.refRound (h : Hub) (d e : Nat) (s : Int) : Hub :=
  match (h.aud d).ref with
  | some r =>
    if refEntries.contains e then
      let r := r.take e s
      let h := h.setAudit d fun a => { a with ref := some r }
      if r.high.length = r.low.length ∧ r.low.length = r.gap.length ∧ !r.full then forAll refEntries (fun e h => h.urgent d e) h else h
    else h
  | none => h

/-- The 16 conversions of an entry are complete (R77, R84): the urgent entry in progress, the calibration's (R437), or the run's. -/
def Hub.auditEntry (h : Hub) (d : Nat) (codes : List Int) : Hub :=
  let a := h.aud d
  if h.nDies ≤ d ∨ codes.length ≠ 16 ∨ a.retired ∨ !(h.die d).inService then h
  else if a.serving then
    match a.urgent with
    | [] => h.setAudit d fun a => { a with serving := false }
    | e :: r =>
      let h := h.auditStore d e codes
      let q := r ++ a.overflow.take 1
      let h := (h.setAudit d fun a => { a with urgent := q, overflow := a.overflow.drop 1 }).refRound d e (auditSum codes)
      let h := h.setAudit d fun a => { a with serving := !a.urgent.isEmpty }
      if a.running ∧ a.entry = some e then h.runOn d e else h
  else if a.paused then
    h.setAudit d fun a => { a with cal := a.cal.map fun x => if x.2.length < 24 then (x.1, x.2 ++ [auditSum codes]) else x }
  else match h.runNow d with
    | none => h
    | some e => (h.auditStore d e codes).runOn d e

/-- A pending urgent request takes the converter; the conversions of the entry in progress are discarded (R84). -/
def Hub.preEmption (h : Hub) (d : Nat) : Hub :=
  if h.nDies ≤ d ∨ (h.aud d).retired then h
  else h.setAudit d fun a => { a with serving := a.serving || !a.urgent.isEmpty }

/-! ## The comparison (R86 to R90, R93) -/

/-- The AUDIT_OR record (Table 03-8). -/
def auditOrB (c : Nat) (a : Int) (clipped : Bool) (ta : Nat) : Bytes :=
  be 2 c ++ beInt 2 a ++ be 1 (if clipped then 1 else 0) ++ pad 3 ++ stampB ta

/-- Counts a comparison toward SUSPECT (R90). -/
def Hub.countCompare (h : Hub) (c : Nat) (disagree : Bool) : Hub :=
  let d := chDie c
  let h := h.setCh c fun x => { x with audit := { x.audit with window := (disagree :: x.audit.window).take 16 } }
  let k := fld (h.aud d).cfg 12 8
  let n := ((h.ch c).audit.window.filter id).length
  if k = 0 ∨ n < k ∨ (h.ch c).audit.suspect then h
  else
    let h := h.setCh c fun x => { x with audit := { x.audit with suspect := true } }
    ((h.notice (unitChan c) 0x0108 (argN n) 0).calQueue (chOct c)).chanFault c 0x0108

/-- Whether the raw sample of an instant carries the AD tag: a tagged interval begins behind the comparison that disagrees and ends before
the one that agrees (R89). -/
def AuditStat.tagAt (a : AuditStat) (inst : Nat) : Bool :=
  if a.adAt < inst then a.adNow else if a.adAt = inst then a.adNow && a.adWas else a.adWas

/-- The comparison of a channel whose main samples have come (R86 to R90, R93). DESIGN CHOICE (log entry 157): a channel that a run compares
more than once counts once for R92, and as one that disagrees if any of its comparisons does. -/
def Hub.compare (h : Hub) (c : Nat) : Hub :=
  let x := h.ch c
  let d := chDie c
  match x.auditWait with
  | [] => h
  | w :: later =>
    let per := x.desc.rawPeriod
    let k := w.ta / per
    let at' (i : Nat) : Option RawEntry := x.hist.find? fun (e : RawEntry) => e.k == i
    if x.lastK.any (fun n => decide (n < k + 1)) then h
    else
      let h := h.setCh c fun x => { x with auditWait := later }
      if (h.aud d).paused then h
      else
      match at' (k - 1), at' k, at' (k + 1) with
      | some p, some q, some r =>
        let a := h.auditValue c w.s
        if p.orFlag || q.orFlag || r.orFlag then
          if (h.aud d).reports then h.record 2 (auditOrB c a w.clipped w.ta) else h
        else
          let m := roundHalf (q.x * per + (r.x - q.x) * ((w.ta - k * per : Nat) : Int)) (per * 65536)
          let bend := ceilDiv (r.x - 2 * q.x + p.x).natAbs (8 * 65536)
          let tol := x.desc.audTol + bend + 4
          let diff := (a - m).natAbs
          let bad := decide (tol < diff)
          let quiet := p.uc || q.uc || r.uc || x.uc || h.boot.level == .rough
          let clean := !(p.cl || q.cl || r.cl)
          let fault := (h.aud d).fault
          if x.retired.isSome then h
          else
            let ad := bad && (x.audit.adNow || !(quiet || fault))
            let h := h.setCh c fun x => { x with audit := { x.audit with
              lastDiff := sat 12 diff, lastTol := sat 12 tol, adNow := ad,
              adAt := h.tm.now, adWas := x.audit.tagAt h.tm.now } }
            if quiet || !clean then h
            else
              let add (l : List Nat) (b : Bool) : List Nat := if b && !l.contains c then c :: l else l
              let h := h.setAudit d fun a => { a with cmp := add a.cmp true, dis := add a.dis bad }
              if fault then h else h.countCompare c bad
      | _, _, _ => h

/-! ## The end of a run (R81, R82, R92) -/

/-- A point's reading in nV at the audit input (Table 03-4). -/
def Audit.nv (a : Audit) (e : Nat) : Int := a.sums.getD e 0 * 31250

/-- Sets AUDIT_FAULT: tagging stops, the record, the classification window (R82, R92, Table 15-1). -/
def Hub.auditFault (h : Hub) (d : Nat) : Hub :=
  if (h.aud d).fault then h
  else
    let now := h.clk.elapsed
    let h := h.setAudit d fun a => { a with fault := true, faultAt := now }
    let h := h.mapCh fun c x => if chDie c = d ∧ x.retired = none then { x with audit := x.audit.untag } else x
    (h.notice (unitAudit d) 0x0109 0 0).setEngWin d (unitAudit d) (some (FaultWin.hit (h.engWin d (unitAudit d)) now 3600000000000 0 0x0109))

/-- The driver whose EXCMON points the next run reads: the next one after `from'` in slice order that drives and has not changed
for 4 ms (R81). DESIGN CHOICE (log entry 115): where EXC_SEL names no channel, the search starts at slice 0. -/
def Hub.nextExc (h : Hub) (d : Nat) (from' : Option Nat) : Option Nat :=
  let start := (from'.map fun c => c % 128 + 1).getD 0
  ((List.range 128).map fun i => 128 * d + (start + i) % 128).find? fun c =>
    let x := h.ch c
    x.desc.drives && decide (x.driveChanged + 4000000 ≤ h.clk.elapsed)

/-- EXC_AUD of a channel, which a retirement has frozen (R94). -/
def Chan.setExcAud (x : Chan) (b : Bool) : Chan :=
  if x.retired.isSome then x else { x with audit := { x.audit with excAud := b } }

/-- The excitation monitor checks of a run (R81). -/
def Hub.excChecks (h : Hub) (d : Nat) : Hub :=
  let a := h.aud d
  match a.excSel with
  | none => h
  | some c =>
    if !bitOf a.cfg 5 || !a.visits then h
    else
      let want : Int := (h.ch c).desc.amp * 10000000000 / 4096
      let off := (4 * a.nv 138 - want).natAbs
      let bad := decide (want * 2 / 100 + 10000000 < off)
      let h := if bad then
          (h.setCh c fun x => x.setExcAud true).notice (unitChan c) 0x0106 (argI (a.sums.getD 138 0)) 0
        else h.setCh c fun x => x.setExcAud false
      if 20000000 < (a.nv 137 - 1000000000).natAbs then
        (h.notice (unitOct (chOct c)) 0x0107 (argI (a.sums.getD 137 0)) 0).calQueue (chOct c)
      else h

/-- The end of a run (R92): self-check, mass disagreement, EXC_SEL, the next run with the AUD_CFG that waits (R94). DESIGN CHOICE (log entry 179): the
REF_FAULT record names the die, since the reference is the die's, and the AUDIT_FAULT record the audit converter. -/
def Hub.milkRun (h : Hub) (d : Nat) : Hub :=
  let a := h.aud d
  if h.nDies ≤ d ∨ a.retired ∨ !(h.die d).inService ∨ !a.running ∨ a.entry.isSome ∨ a.serving ∨ a.paused then h
  else
    let self := !a.visits || (decide ((a.nv 143 - 1200000000).natAbs ≤ 12000000) && decide ((a.nv 140).natAbs ≤ 2000000))
    let n := a.cmp.length
    let k := a.dis.length
    let mass := decide (8 ≤ n) && decide (n < 2 * k)
    let vref := a.visits && decide (10240000 < (a.nv 128 - 2048000000).natAbs)
    let h := if mass && vref then
        (h.setAudit d fun a => { a with refFault := true }).notice (unitDie d) 0x010A (argI (a.sums.getD 128 0)) 0
      else h.setAudit d fun a => { a with refFault := a.refFault && mass }
    let h := if !self || (mass && !vref) then h.auditFault d
      else if a.fault && decide (4 * k < max 1 n) then h.setAudit d fun a => { a with fault := false }
      else h
    let h := h.excChecks d
    let sel := h.nextExc d a.excSel
    let h := h.setAudit d fun a => { a with runs := a.runs + 1, cmp := [], dis := [], excSel := sel,
                                            cfg := a.cfgNext.getD a.cfg, cfgNext := none }
    -- in Doze the next run waits for its 10 ms (R451)
    if h.pwr.st = .doze then h.setAudit d fun a => { a with running := false, entry := none }
    else
      let e := h.runEntry d 0
      h.setAudit d fun a => { a with entry := e, runAt := h.clk.elapsed }

/-! ## CAL_AUDIT commands (R94, R397) -/

/-- AUD_CFG as a write may have it (Table 03-6). -/
def badAudCfg (w : Word) : Bool := !onlyBits w 0x00001F23 || fld w 1 0 == 0 || decide (16 < fld w 12 8)

/-- CAL_AUDIT_SET (R94). -/
def Hub.calAuditSet (h : Hub) (dies : List Nat) (w : Word) : Hub :=
  h.onMask dies (fun _ => if badAudCfg w then some St.badArg else none) fun ds =>
    (forAll ds (fun d h => h.setAudit d fun a => { a with cfgNext := some w }) h).ok []

/-- CAL_AUDIT_GET (R94): the word last written. -/
def Hub.calAuditGet (h : Hub) (dies : List Nat) : Hub :=
  h.readMask dies fun ds => h.ok (ds.flatMap fun d => be 4 ((h.aud d).cfgNext.getD (h.aud d).cfg).toNat)

/-- CAL_AUDIT_READ (R94, R397). -/
def Hub.calAuditRead (h : Hub) (first count : Nat) : Hub :=
  let d := first / 128
  if h.nChans ≤ first ∨ 128 < count ∨ 128 * (d + 1) < first + count then h.refuse St.badArg
  else h.onDies [d]
    (let a := h.aud d
     h.ok (((List.range 16).flatMap fun i => beInt 4 (a.sums.getD (128 + i) 0)) ++ be 1 a.urgMerge ++
       be 1 (if a.fault then 1 else 0) ++ pad 2 ++
       (List.range count).flatMap fun i => be 4 ((h.ch (first + i)).audit.word).toNat))

/-- CAL_AUDIT_REQ (R83, R94). -/
def Hub.calAuditReq (h : Hub) (d : Nat) (es : List Nat) : Hub :=
  if h.nDies ≤ d ∨ es.isEmpty ∨ 8 < es.length ∨ es.any (fun e => decide (144 ≤ e)) then h.refuse St.badArg
  else h.onDies [d] ((forAll es (fun e h => h.urgent d e) h).ok [])

/-! ## Meanings -/

/-- AUDIT_ENTRY (R77). -/
def execAuditEntry (die : Nat) (codes : List Int) (s : State) : Out := act s fun h => h.auditEntry die codes
/-- PRE_EMPTION (R84). -/
def execPreEmption (die : Nat) (s : State) : Out := act s fun h => h.preEmption die
/-- COMPARISON (R86). -/
def execComparison (ch : Nat) (s : State) : Out := act s fun h => if h.nChans ≤ ch then h else h.compare ch
/-- MILK_RUN (R92). -/
def execMilkRun (die : Nat) (s : State) : Out := act s fun h => h.milkRun die
/-- CAL_AUDIT_SET (R94). -/
def execCalAuditSet (dies : List Nat) (w : Word) (s : State) : Out := act s fun h => h.calAuditSet dies w
/-- CAL_AUDIT_GET (R94). -/
def execCalAuditGet (dies : List Nat) (s : State) : Out := act s fun h => h.calAuditGet dies
/-- CAL_AUDIT_READ (R397). -/
def execCalAuditRead (first count : Nat) (s : State) : Out := act s fun h => h.calAuditRead first count
/-- CAL_AUDIT_REQ (R83). -/
def execCalAuditReq (die : Nat) (entries : List Nat) (s : State) : Out := act s fun h => h.calAuditReq die entries

end Sys2Proof.Machine
end

