-- ==== Sys2Proof/Machine/Afe.lean ====
section
/-! DEFINITION. The configuration of channels: the AFE and CHAN commands (02, 05, Tables 14-5 and 14-6). -/

namespace Sys2Proof.Machine

/-! ## Writes that wait for a boundary (R64 to R66) -/

/-- A write that a hold takes on top of the one it holds: the held values are replaced, and the scheduled actions of both keep their
records (R66, R126). -/
def ChanWrite.onto (w : ChanWrite) (o : Option ChanWrite) : ChanWrite :=
  let desc := match w.desc, w.afe, o.bind (·.desc) with
    | some d, _, _ => some d
    | none, some a, some d => some { d with afe := a }
    | none, none, d => d
    | none, some _, none => none
  let afe := match desc with
    | some _ => none
    | none => w.afe.orElse fun _ => o.bind (·.afe)
  { desc := desc, afe := afe, red := w.red.orElse fun _ => o.bind (·.red), notBefore := w.notBefore,
    actions := ((o.map (·.actions)).getD []) ++ w.actions, late := true, order := w.order }

/-- A write joins what a hold keeps, in the order of acceptance (R65, R66). -/
def Chan.hold (x : Chan) (w : ChanWrite) : Chan :=
  { x with held := some (match x.held with
      | some o => if w.order < o.order then o.onto (some w) else w.onto (some o)
      | none => w.onto none) }

/-- Accepts a write of a channel: held while its octet is calibrated, where a second write replaces the held values, else
waiting for the first conversion boundary. A scheduled write waits for its boundary in any case (R65, R66). -/
def Hub.accept (h : Hub) (c : Nat) (w : ChanWrite) : Hub :=
  let h := { h with mgmt := { h.mgmt with accepts := h.mgmt.accepts + 1 } }
  if (h.oct (chOct c)).held && w.actions.isEmpty then h.setCh c fun x => x.hold w
  else h.setCh c fun x => { x with writes := x.writes ++ [w] }

/-- The hub as it would be with a write in force: what cross-channel rules look at. -/
def Hub.supposing (h : Hub) (chs : List Nat) (f : Desc → Desc) : Hub :=
  { h with chans := modAll h.chans chs fun _ x => { x with desc := f x.latest, writes := [], held := none, unsettled := [] } }

/-- The reference frequency word of a channel: its own, or its partner's (Table 02-2). -/
def Hub.refFreq (h : Hub) (d : Desc) : Nat :=
  (if d.slave then (h.ch d.partner).latest.afe.freq else d.afe.freq).toNat

/-- Partners on one die, whose mode is OFF or SINE (R41), for every slave of the dies at hand. -/
def Hub.badPartners (h : Hub) (dies : List Nat) : List Nat :=
  dies.filter fun d => (List.range 128).any fun i =>
    let c := 128 * d + i
    let x := (h.ch c).latest
    x.slave && (decide (h.nChans ≤ x.partner) || chDie x.partner != d || (h.ch x.partner).latest.slave)

/-- The sum of AMP / ZLOAD of a die's driving channels (R42, R43). -/
def Hub.driveSum (h : Hub) (d : Nat) : Nat × Nat :=
  sumQ (((List.range 128).map fun i => (h.ch (128 * d + i)).latest).filterMap fun x =>
    if x.drives then some (x.amp, x.zload) else none)

/-- 200 mA of mean supply current, (2/π) × ΣIpk: Σ AMP/ZLOAD above 81.92 π (R43; π to 20 decimals). -/
def Hub.overDrive (h : Hub) (d : Nat) : Bool :=
  let p := h.driveSum d
  decide (8192 * 314159265358979323846 * p.2 < p.1 * 10000000000000000000000)

/-- A partner rule or the excitation budget of the dies of a channel set, after a write (R41 to R43). -/
def Hub.afeTests (h : Hub) (chs : List Nat) : List (Nat × List Nat) :=
  let ds := (chs.map chDie).eraseDups
  [(St.badArg, h.badPartners ds), (St.budget, ds.filter h.overDrive)]

/-- The place of a command in the order of acceptance: the next one, or that of the scheduled action that runs it (R65, R125). -/
def Hub.orderOf (h : Hub) (job : Option (Word × Nat)) : Nat :=
  ((job.bind fun j => h.findAction j.1).map Action.order).getD h.mgmt.accepts

/-- From when a command's boundaries count: at or after the instant of an action that has it ahead, else after the present (R65, R122). -/
def Hub.boundsFrom (h : Hub) (t : Option Nat) : Nat :=
  match t with
  | some v => if h.tm.now ≤ v then v else h.tm.now + 1
  | none => h.tm.now + 1

/-- AFE_SET (R63 to R66). -/
def Hub.afeSet (h : Hub) (chs : List Nat) (w : AfeWords) (notBefore : Nat) (job : Option (Word × Nat)) : Hub :=
  if h.badChs chs then h.refuse St.badArg
  else h.onDies (chs.map chDie)
    (let g := h.supposing chs fun d => { d with afe := w }
     let bad (c : Nat) : Bool := (g.ch c).desc.bad (g.refFreq (g.ch c).desc)
     h.checked ((St.badArg, (chs.filter bad).map chDie) :: g.afeTests chs)
       ((forAll chs (fun c g => g.accept c ⟨none, some w, none, notBefore, job.toList, false, h.orderOf job⟩) h).ok []))

def AfeWords.bytes (a : AfeWords) : Bytes := [a.freq, a.drive, a.load, a.input, a.cm].flatMap fun (w : Word) => be 4 w.toNat

/-- The descriptor that reads answer: the applied one, with the values that a hold keeps in place of it (R66, R384, R385). -/
def Chan.shown (x : Chan) : Desc :=
  match x.held with
  | some w => match w.desc, w.afe with
    | some d, _ => d
    | none, some a => { x.applied with afe := a }
    | none, none => x.applied
  | none => x.applied

/-- AFE_GET (R63, R384). -/
def Hub.afeGet (h : Hub) (c : Nat) : Hub :=
  if h.nChans ≤ c then h.refuse St.badArg
  else h.onDies [chDie c]
    (let x := h.ch c
     h.ok (AfeWords.bytes x.shown.afe ++ be 4 (h.astat c).toNat ++ be 2 x.clampCount ++ be 2 x.cmCount))

/-- A change of a channel's drive marks every channel that names it as partner too (R49). -/
def Hub.withSlaves (h : Hub) (chs : List Nat) : List Nat :=
  chs ++ ((List.range h.nChans).filter fun c => !chs.contains c && (h.ch c).desc.slave && chs.contains (h.ch c).desc.partner)

/-- AFE_SYNC is armed: from 64 µs before T the drives ramp down (R40, R125). -/
def Hub.afeSyncArm (h : Hub) (chs : List Nat) (t : Nat) (id : Word) : Hub :=
  { h with chans := modAll h.chans (h.withSlaves chs) fun c x => { x with syncs := x.syncs ++ [⟨t, chs.contains c, false, id⟩] } }

/-- An armed AFE_SYNC that fails its check at T or is withdrawn is armed no more: its outputs ramp back from where they stand, or on to 0 where
the next AFE_SYNC's ramp has begun (R39, R40, R403). -/
def Hub.syncDrops (h : Hub) (id : Word) : Hub :=
  h.mapCh fun _ x =>
    if x.syncs.any fun a => a.job == id then
      let a := x.ampNow h.clk.cycles h.tm.now
      let amp := a.1 / max 1 a.2
      let rest := x.syncs.filter fun a => a.job != id
      let goal := x.desc.rampGoal !x.driveOff
      let x := if x.syncs.any fun a => a.job == id && a.own then
          match firstSync rest with
          | some t =>
            if h.tm.now < t && decide (t ≤ h.tm.now + 65536000) then
              { x with rampFrom := amp * 65536000 / (t - h.tm.now), rampTo := amp * 65536000 / (t - h.tm.now), rampAt := h.clk.cycles }
            else { x with rampFrom := amp, rampTo := goal, rampAt := h.clk.cycles }
          | none => { x with rampFrom := amp, rampTo := goal, rampAt := h.clk.cycles }
        else x
      { x with syncs := rest }
    else x

/-- AFE_SYNC executes: accumulators to zero on one reference edge, driven outputs ramp back over 64 µs (R40). ST runs as of a
change whose ramp is 128 µs where it did not begin with the arming (R152). DESIGN CHOICE (log entry 153): where the arming came later than
64 µs before T, or not at all, the ramp down is cut short, and the output steps to 0. -/
def Hub.afeSync (h : Hub) (chs : List Nat) : Hub :=
  if h.badChs chs then h.refuse St.badArg
  else h.onDies (chs.map chDie)
    (let all := h.withSlaves chs
     let now := h.tm.now
     let due (x : Chan) : List SyncArm := x.syncs.filter fun a => decide (a.at' ≤ now)
     let h := { h with chans := modAll h.chans all fun _ x =>
       { (if (due x).any SyncArm.st then x else x.settleBehind 128) with
           syncs := x.syncs.filter fun a => decide (now < a.at'), driveChanged := if x.desc.drives then h.clk.elapsed else x.driveChanged } }
     ({ h with chans := modAll h.chans chs fun _ x =>
       { x with acc := 0, accAt := h.clk.cycles, accWas := x.accBack h.clk.cycles 0, accSet := h.clk.cycles, rampFrom := 0, rampTo := x.desc.rampGoal !x.driveOff, rampAt := h.clk.cycles } }).ok [])

/-- AFE_GUARD (R56). -/
def Hub.afeGuard (h : Hub) (octs : List Nat) (w : Word) : Hub :=
  if octs.isEmpty ∨ octs.any (fun o => decide (h.nOcts ≤ o)) ∨ !onlyBits w 0x00000073 then h.refuse St.badArg
  else h.onDies (octs.map (· / 16)) (({ h with octs := modAll h.octs octs fun _ o => { o with guard := w } }).ok [])

/-- The five words of a repeater output out of range (R58, Table 02-5). -/
def badRep (w : RepWords) : Bool :=
  let t := w.outa.toNat
  let f := w.outb.toNat
  !onlyBits w.ctl 0xC003FFFF || !onlyBits w.xlo 0x00FFFFFF || !onlyBits w.xhi 0x00FFFFFF || !onlyBits w.outa 0x00FFFFFF ||
  !onlyBits w.outb 0x00FFFFFF || w.xlo == w.xhi ||
  (if bitOf w.ctl 30 then decide (t < 1000) || decide (10000000 < t) || decide (f < 1000) || decide (10000000 < f)
   else decide (t < 1000) || decide (100000 < t))

/-- AFE_REP_SET (R58, R62). DESIGN CHOICE (log entry 154): an output that stays enabled keeps its width, NCO word and STALE until the next
sample, whatever the write changes. -/
def Hub.afeRepSet (h : Hub) (out : Nat) (w : RepWords) : Hub :=
  let src := fld w.ctl 17 8
  if 16 ≤ out ∨ badRep w ∨ h.nChans ≤ src ∨ !(h.ch src).skimEn then h.refuse St.badArg
  else h.onDies [out / 8, chDie src]
    (let en := bitOf w.ctl 31
     ({ h with reps := modAt h.reps out fun r =>
        let begins := en && (!bitOf r.w.ctl 31 || r.hiZ)
        { w := w, stale := if !en then false else if begins then true else r.stale, hiZ := false,
          waiting := if !en then true else if begins then true else r.waiting,
          width := if en && !begins then r.width else 0, next := if en && !begins then r.next else none,
          base := if en && !begins then r.base else h.clk.elapsed, nco := if en && !begins then r.nco else 0,
          phase := if en && !begins then r.phase else 0 } }).ok [])

/-- AFE_REP_GET (R62). -/
def Hub.afeRepGet (h : Hub) (out : Nat) : Hub :=
  if 16 ≤ out then h.refuse St.badArg
  else
    let w := (h.reps.getD out Rep.reset).w
    h.ok ([w.ctl, w.xlo, w.xhi, w.outa, w.outb, h.repStatus].flatMap fun (x : Word) => be 4 x.toNat)

/-- AFE_STATUS (R384). -/
def Hub.afeStatus (h : Hub) (first count : Nat) : Hub :=
  if count = 0 ∨ 500 < count ∨ h.nChans < first + count then h.refuse St.badArg
  else
    let cs := (List.range count).map (first + ·)
    h.onDies (cs.map chDie)
      (h.ok (cs.flatMap fun c => be 4 (h.astat c).toNat ++ be 2 (h.ch c).clampCount ++ be 2 (h.ch c).cmCount))

/-- AFE_CLEAR (R384). -/
def Hub.afeClear (h : Hub) (chs : List Nat) : Hub :=
  if h.badChs chs then h.refuse St.badArg
  else h.onDies (chs.map chDie)
    (({ h with chans := modAll h.chans chs fun _ x => { x with clampCount := 0, cmCount := 0 } }).ok [])

/-! ## CHAN commands (05) -/

/-- The shadow set that a CHAN_SET meets: a running fade's old set becomes the shadow (R159). -/
def Chan.shadowNow (c : Chan) : Option CoefSet := match c.fade with | some f => some f.old | none => c.shadow

/-- A churned use of a channel whose skim has two words, or a churn engine above its limit (R269, R270). -/
def Hub.churnTests (h : Hub) (chs : List Nat) : List (Nat × List Nat) :=
  let two (c : Nat) : Bool := (h.ch c).latest.words == 2 &&
    ((h.ch c).churnSkim.isSome || ((h.ch c).churnCap.isSome && h.capSrc c == some 1))
  [(St.badArg, (chs.filter two).map chDie),
   (St.budget, (chs.map chDie).eraseDups.filter fun d => (List.range 4).any fun e => !churnFits (h.churnLoad d e))]

/-- The checks of CHAN_SET on the hub as it would be, BAD_ARG before BUDGET (R64, R147, R159, R160, R163, R205, R215, R240, R269,
R270). -/
def Hub.chanTests (h g : Hub) (chs : List Nat) : List (Nat × List Nat) :=
  let bad (c : Nat) : Bool :=
    let d := (g.ch c).desc
    d.bad (g.refFreq d) || d.badRed (h.ch c).latestRed ||
      (match (h.ch c).shadowNow with | some s => d.badCoef s | none => false)
  let tooMuch (c : Nat) : Bool :=
    let x := h.ch c
    let d := (g.ch c).desc
    loadAbove (d.load x.skimEn x.latestRed (h.capSrc c)) 900 ||
      (match x.shadowNow with
        | some s => loadAbove ({ d with coef := s }.load x.skimEn x.latestRed (h.capSrc c)) 900 ||
            loadAbove (d.loadXf s x.skimEn x.latestRed (h.capSrc c)) 1000
        | none => false)
  let l := g.afeTests chs ++ g.churnTests chs
  let slow := g.trg.kons.any fun (k : Kon) => k.units.any (fun u => chs.contains u) && !g.konMembersOk k
  let noPlan := chs.any (fun c => (h.ch c).rawEn) && (g.rawPlan g.rawUp g.rawFlows.length).isNone
  let of (st : Nat) : List Nat := (l.filter fun t => t.1 == st).flatMap Prod.snd
  [(St.badArg, (chs.filter bad).map chDie ++ of St.badArg ++ noDie (!g.rawSameN || slow || !g.sepChsOk chs)),
   (St.budget, (chs.filter tooMuch).map chDie ++ of St.budget ++ noDie noPlan)]

/-- CHAN_SET (R64 to R66, R148, R159). -/
def Hub.chanSet (h : Hub) (chs : List Nat) (words : List Word) (notBefore : Nat) (job : Option (Word × Nat)) : Hub :=
  if h.badChs chs then h.refuse St.badArg
  else h.onDies (chs.map chDie)
    (match Desc.ofWords words with
     | none => h.refuse St.badArg
     | some d =>
       h.checked (h.chanTests (h.supposing chs fun _ => d) chs)
         ((forAll chs (fun c g => g.accept c ⟨some d, none, none, notBefore, job.toList, false, h.orderOf job⟩) h).ok []))

/-- CHAN_GET (R385). -/
def Hub.chanGet (h : Hub) (c : Nat) : Hub :=
  if h.nChans ≤ c then h.refuse St.badArg
  else h.onDies [chDie c] (h.ok ((h.ch c).shown.toWords.flatMap fun (w : Word) => be 4 w.toNat))

/-- A fraction of a signed numerator. -/
def addQ (a b : Int × Nat) : Int × Nat := (a.1 * b.2 + b.1 * a.2, a.2 * b.2)

/-- The total group delay at DC in ns, as a fraction (Table 05-7). -/
def Desc.groupDelay (d : Desc) (c : CoefSet) : Int × Nat :=
  let hs := (List.range c.taps).map fun n => c.h n
  let nh := ((List.range c.taps).map fun (n : Nat) => (n : Int) * c.h n).sum
  let fir : Int × Nat :=
    if !d.firEn then (0, 1)
    else if hs.sum = 0 then ((d.cycF * 8 * (c.taps - 1) : Nat), 2)
    else if hs.sum < 0 then (-nh * (d.cycF * 8 : Nat), hs.sum.natAbs)
    else (nh * (d.cycF * 8 : Nat), hs.sum.natAbs)
  let notch (en : Bool) (f q : Word) : Int × Nat :=
    if en then (let p := notchDelay f.toNat (fld q 15 0) d.cycN; ((p.1 : Int), p.2)) else (0, 1)
  [fir, notch c.n0En c.n0f c.n0q, notch c.n1En c.n1f c.n1q,
   if d.maEn then (((d.maL - 1) * d.cycN * 8 : Nat), 2) else (0, 1),
   if d.rsEn then ((16 * d.rsDen * d.cycR * 8 : Nat), d.rsNum) else (0, 1)].foldl addQ
     (if d.cicEn then (((d.cicK * (d.cicD - 1)) * d.nDiv * 8 : Nat), 2) else (0, 1))

/-- XF_STATE (Table 05-9). -/
def Chan.xfState (c : Chan) : Nat :=
  if c.fade.isSome then 3 else if c.switch.isSome then 2 else if c.shadow.isSome then 1 else 0

/-- CHAN_QUERY (R162). DESIGN CHOICE (log entry 152): while a fade runs, LOAD_XF is that of the fade in progress. -/
def Hub.chanQuery (h : Hub) (c : Nat) : Hub :=
  if h.nChans ≤ c then h.refuse St.badArg
  else h.onDies [chDie c]
    (let x := h.ch c
     let d := x.applied
     let red := x.appliedRed
     let r := d.rate
     let s := d.settle 0 0
     let gd := d.groupDelay d.coef
     let xf := match x.shadowNow with
       | some k => loadUnits (d.loadXf k x.skimEn red (h.capSrc c))
       | none => 0
     h.ok (be 8 (r.1 * 2 ^ 32 / r.2) ++ be 1 d.words ++ be 1 x.xfState ++ pad 2 ++ be 4 s ++
       beInt 8 (openRound (s * r.2 * 1000000000) r.1) ++ beInt 8 (openRound gd.1 gd.2) ++
       be 2 (loadUnits (d.load x.skimEn red (h.capSrc c))) ++ be 2 xf ++ be 4 (d.outBound d.coef)))

/-- The next skim index: behind the last one produced, and none that an earlier raw sample completes (R149). -/
def Chan.nextJ (c : Chan) (now : Nat) : Nat :=
  let i := ceilDiv (ceilDiv now c.desc.rawPeriod) c.desc.decim
  let j := if c.desc.rsEn then ceilDiv (i * c.desc.rs.toNat) (2 ^ 32) else i
  match c.lastJ with | some l => max (l + 1) j | none => j

/-- A switch of sets takes place at skim sample j with a copy of the stage state: the stages from the first that differs run twice; with XF_LEN 0 the
sets change places at once and ST follows (R152, R158). A sample from j on that is computed already, and waits for its instant, has the words of
the switch. -/
def Chan.startFade (c : Chan) (w : PendingSwitch) (new : CoefSet) (j : Nat) (copy : Stages) : Chan :=
  let old := c.desc.coef
  let was := c.stages
  let c := { c with switch := none, switched := w.job, trial := none, desc := { c.desc with coef := new }, stages := copy,
                    churnCap := c.churnCap.map fun (u : ChurnUse) => { u with restored := u.restored || old != new } }
  let s := ({ c.desc with coef := new } : Desc).settle (firstDiff old new) 0
  let waits := c.skimWait.any fun v => decide (j ≤ v.j) && v.alt.isSome
  let c := { c with skimWait := c.skimWait.map fun (v : SkimWait) => match v.alt with
    | some a => if j ≤ v.j then { v with v0 := a.1, v1 := a.2, flags := v.flags ||| flagIf (w.xfLen == 0 && decide (0 < s)) flagST, alt := none } else v
    | none => v }
  if w.xfLen = 0 then { c with shadow := some old, stLeft := max c.stLeft (if waits then s - 1 else s) }
  else { c with shadow := none, fade := some ⟨j, w.xfLen, old, was⟩ }

/-- The pending switch is for a skim sample up to j. -/
def PendingSwitch.reached (w : PendingSwitch) (j : Nat) : Bool := !w.s.any fun s => decide (j < s)

/-- The fade of a pending switch begins at skim sample j, or at the sample from which its set has run beside (R157, R158). DESIGN CHOICE (log
entry 116): the copy of the stage state is made at the first raw sample after skim sample s − 1. -/
def Chan.beginFade (c : Chan) (j : Nat) : Chan :=
  match c.switch, c.shadow with
  | some w, some new =>
    if (w.job.isSome && !w.armed) || !w.reached j then c
    else match c.trial with
      | some r => c.startFade w new r.s r.stages
      | none => c.startFade w new j c.stages
  | _, _ => c

/-- A switch that the hardware has not armed yet can still be withdrawn: from its sample on the shadow set runs beside, and what it gives waits with
the sample (R125, R157). -/
def Chan.beginTrial (c : Chan) (j : Nat) : Chan :=
  match c.switch, c.shadow with
  | some w, some _ =>
    if w.job.isSome && !w.armed && w.reached j && c.trial.isNone then { c with trial := some ⟨j, c.stages⟩ } else c
  | _, _ => c

/-- A switch that is armed now takes place at the sample from which its set has run beside (R157). -/
def Chan.endTrial (c : Chan) : Chan := match c.trial with | some r => c.beginFade r.s | none => c

/-- Milliseconds until the fade of a channel ends, at least 1: its last blended sample precedes sample s + XF_LEN (R156, R157). -/
def Chan.fadeMs (c : Chan) (now : Nat) : Nat :=
  let last := match c.fade, c.switch with
    | some f, _ => f.s + f.xfLen
    | none, some w => max (w.s.getD 0) (c.nextJ now) + w.xfLen
    | none, none => 0
  max 1 (ceilDiv (c.desc.skimInst last - now) 1024000000)

/-- A switch is pending or a fade runs (R156, R157). -/
def Chan.switching (c : Chan) : Bool := c.switch.isSome || c.fade.isSome

/-- The longest time until a fade of some channels ends (R156; log entry 152). -/
def Hub.fadesMs (h : Hub) (chs : List Nat) : Nat :=
  ((chs.filter fun c => (h.ch c).switching).map fun c => (h.ch c).fadeMs h.tm.now).foldl max 0

/-- The coefficient set of the 136 words of CHAN_COEF_LOAD. -/
def CoefSet.ofWords (w : List Word) : CoefSet :=
  let g (i : Nat) : Word := w.getD i 0
  { demod := g 1, firTm1 := fld (g 0) 6 0, n0f := g 2, n0q := g 3, n1f := g 4, n1q := g 5, scale := g 6, offset := g 7,
    firC := w.drop 8 }

/-- CHAN_COEF_LOAD (R156, R385). DESIGN CHOICE (log entry 152): with several channels switching, RETRY_AFTER is the longest of their
times. -/
def Hub.chanCoefLoad (h : Hub) (chs : List Nat) (words : List Word) : Hub :=
  if h.badChs chs ∨ words.length ≠ 136 ∨ !onlyBits (words.getD 0 0) 0x0000037F then h.refuse St.badArg
  else h.onDies (chs.map chDie)
    (let k := CoefSet.ofWords words
     let bad (c : Nat) : Bool := (h.ch c).desc.firDec != fld (words.getD 0 0) 9 8 || (h.ch c).latest.badCoef k
     let tooMuch (c : Nat) : Bool :=
       let x := h.ch c
       let d := x.latest
       loadAbove ({ d with coef := k }.load x.skimEn x.latestRed (h.capSrc c)) 900 ||
         loadAbove (d.loadXf k x.skimEn x.latestRed (h.capSrc c)) 1000
     h.checked [(St.badArg, (chs.filter bad).map chDie), (St.budget, (chs.filter tooMuch).map chDie)]
       (match chs.find? (fun c => (h.ch c).switching) with
        | some c => h.busyDie (h.fadesMs chs) (chDie c)
        | none => ({ h with chans := modAll h.chans chs fun _ x => { x with shadow := some k } }).ok []))

/-- CHAN_COEF_SWITCH (R157, R385): at the next skim sample, or at k_T of a scheduled action, whose switch has been pending since it was
accepted; one that a CHAN_SET has cancelled meanwhile is not there any more (log entry 117). -/
def Hub.chanCoefSwitch (h : Hub) (chs : List Nat) (xf : Nat) (t : Option Nat) (job : Option Word) : Hub :=
  if h.badChs chs ∨ 65535 < xf then h.refuse St.badArg
  else h.onDies (chs.map chDie)
    (let waits (c : Nat) : Bool := match (h.ch c).switch with | some w => w.job.isSome && w.job == job | none => false
     let begun (c : Nat) : Bool := job.isSome && (h.ch c).switched == job
     let mine (c : Nat) : Bool := waits c || begun c
     let busy (c : Nat) : Bool := (h.ch c).switching && !mine c
     let empty (c : Nat) : Bool := !busy c && !begun c && (h.ch c).shadow.isNone
     let gone (c : Nat) : Bool := (job.bind h.findAction).isSome && !mine c
     h.checked [(St.notFound, (chs.filter fun c => empty c || gone c).map chDie)]
       (match chs.find? busy with
        | some c => h.busyDie (h.fadesMs chs) (chDie c)
        | none =>
          ({ h with chans := modAll h.chans (chs.filter fun c => !begun c) fun _ x =>
              ({ x with switch := some ⟨t.map fun v => x.desc.skimIdxAt v, xf, none, false⟩ } : Chan).endTrial }).ok []))

/-- A scheduled switch is pending from its acceptance (R157). -/
def Hub.switchPends (h : Hub) (chs : List Nat) (xf t : Nat) (id : Word) : Hub :=
  { h with chans := modAll h.chans chs fun _ x => { x with switch := some ⟨some (x.desc.skimIdxAt t), xf, some id, false⟩ } }

/-- The hardware arms a scheduled switch: from now on it starts with its sample (R125, R157). -/
def Hub.switchArms (h : Hub) (id : Word) : Hub :=
  h.mapCh fun _ x => ({ x with switch := x.switch.map fun w => if w.job = some id then { w with armed := true } else w } : Chan).endTrial

/-- A scheduled switch of coefficient sets or of matrices that is withdrawn or fails a later check is pending no more. -/
def Hub.switchDrops (h : Hub) (id : Word) : Hub :=
  (h.mapCh fun _ x => match x.switch with
    | some w => if w.job = some id then { x with switch := none, trial := none } else x
    | none => x).mapDie fun _ x => match x.sep.pend with
    | some w => if w.job = some id then { x with sep := { x.sep with pend := none } } else x
    | none => x

/-- A fade that has reached skim sample s + XF_LEN has ended: the former active set is the shadow (R157, R158). -/
def Chan.endFade (c : Chan) (j : Nat) : Chan :=
  match c.fade with
  | some f => if f.s + f.xfLen ≤ j then { c with fade := none, shadow := some f.old } else c
  | none => c

/-! ## Meanings -/

/-- AFE_SET (R63). -/
def execAfeSet (chs : List Nat) (w : AfeWords) (s : State) : Out := act s fun h => h.afeSet chs w (h.boundsFrom none) none
/-- AFE_GET (R384). -/
def execAfeGet (ch : Nat) (s : State) : Out := act s fun h => h.afeGet ch
/-- AFE_SYNC (R40): the execution of the scheduled action; a direct request is refused at its start (R378). -/
def execAfeSync (chs : List Nat) (s : State) : Out := act s fun h => h.afeSync chs
/-- AFE_GUARD (R56). -/
def execAfeGuard (octs : List Nat) (w : Word) (s : State) : Out := act s fun h => h.afeGuard octs w
/-- AFE_REP_SET (R58). -/
def execAfeRepSet (out : Nat) (w : RepWords) (s : State) : Out := act s fun h => h.afeRepSet out w
/-- AFE_REP_GET (R62). -/
def execAfeRepGet (out : Nat) (s : State) : Out := act s fun h => h.afeRepGet out
/-- AFE_STATUS (R384). -/
def execAfeStatus (first count : Nat) (s : State) : Out := act s fun h => h.afeStatus first count
/-- AFE_CLEAR (R384). -/
def execAfeClear (chs : List Nat) (s : State) : Out := act s fun h => h.afeClear chs
/-- CHAN_SET (R148). -/
def execChanSet (chs : List Nat) (desc : List Word) (s : State) : Out := act s fun h => h.chanSet chs desc (h.boundsFrom none) none
/-- CHAN_GET (R385). -/
def execChanGet (ch : Nat) (s : State) : Out := act s fun h => h.chanGet ch
/-- CHAN_QUERY (R162). -/
def execChanQuery (ch : Nat) (s : State) : Out := act s fun h => h.chanQuery ch
/-- CHAN_COEF_LOAD (R156). -/
def execChanCoefLoad (chs : List Nat) (words : List Word) (s : State) : Out := act s fun h => h.chanCoefLoad chs words
/-- CHAN_COEF_SWITCH (R157). -/
def execChanCoefSwitch (chs : List Nat) (xfLen : Nat) (s : State) : Out := act s fun h => h.chanCoefSwitch chs xfLen none none
/-- FADE (R158). -/
def execFade (ch : Nat) (s : State) : Out :=
  act s fun h => if h.nChans ≤ ch then h else h.setCh ch fun x => x.beginFade (x.nextJ h.tm.now)

end Sys2Proof.Machine
end

