-- ==== Sys2Proof/Machine/Convert.lean ====
section
/-! DEFINITION. Conversions (02, 03, 05): what waits for a boundary, raw samples, skim samples and where they go; the
conditions of the front end. -/

namespace Sys2Proof.Machine

/-! ## References, drives and guards (R37 to R40, R56, R137, Table 02-2) -/

/-- The reference of a channel's demodulation and of its drive: its partner's accumulator for a slave, else its own (Table 02-2). DESIGN CHOICE (log
entry 177): it changes with EXC_MODE and PARTNER at the boundary, for an amplitude that still ramps too. -/
def Hub.refAcc (h : Hub) (c back : Nat) : BitVec 32 :=
  let x := h.ch c
  (if x.desc.slave then h.ch x.desc.partner else x).accBack h.clk.cycles back

/-- The differential voltage of an excitation output in V, as a fraction: (Vpp / 2) × cos of the output phase, with the amplitude as the
ramps and the octet's reference trim leave it (R34, R37, R39, R40, R434). None where the output is at high impedance: EXC_MODE OFF or
SLAVE, once its ramp has ended (Table 02-2), or a quadrant gated off (R453). -/
def Hub.driveOut (h : Hub) (c : Nat) : Option (Int × Nat) :=
  let x := h.ch c
  let a := x.ampNow h.clk.cycles h.tm.now
  if (!x.desc.drives && a.1 == 0) || !h.powered (chQuad c) then none
  else
    let trim := 2560000000 + (h.oct (chOct c)).exc.levelAt h.clk.elapsed
    some ((a.1 : Int) * 10 * cosRef (x.desc.drivePhase (h.refAcc c 0)) * trim, 8000 * a.2 * 8192 * 2 ^ 30 * 2560000000)

/-- The common-mode voltage that a conversion sees joins what its octet's guard follows: in OCTET_CM the mean over the slices on SENSOR,
which stays where there is none (R56). -/
def Hub.guardTake (h : Hub) (c : Nat) (mv : Int) : Hub :=
  let h := h.setCh c fun x => { x with cmMv := mv }
  let o := chOct c
  let on := if (h.oct o).held then []
    else ((List.range 8).map fun i => h.ch (8 * o + i)).filter fun (x : Chan) => x.desc.inSel == 0
  if on.isEmpty then h
  else h.setOct o fun q => { q with guardAt := ((on.map fun (x : Chan) => x.cmMv).sum, on.length) }

/-- The voltage of an octet's guard in mV, as a fraction, within its ±5 V; none at high impedance (R56, Table 02-4). -/
def Hub.guardLevel (h : Hub) (o : Nat) : Option (Int × Nat) :=
  let q := h.oct o
  let lim (v : Int × Nat) : Int × Nat := (max (-5000 * (v.2 : Int)) (min (5000 * (v.2 : Int)) v.1), v.2)
  match fld q.guard 1 0 with
  | 0 => none
  | 1 => some (lim q.guardAt)
  | 2 => some (lim ((h.ch (8 * o + fld q.guard 6 4)).cmMv, 1))
  | _ => some (0, 1)

/-! ## Outputs of a skim sample -/

/-- The width or the NCO word of a repeater for a skim value (R59). -/
def repOut (w : RepWords) (x : Int) : Nat :=
  let lo := sfld w.xlo 23 0
  let hi := sfld w.xhi 23 0
  let den := (hi - lo).natAbs
  let num : Nat := min den ((if hi < lo then lo - x else x - lo).toNat)
  if !bitOf w.ctl 30 then
    let t := w.outa.toNat
    let v := (roundHalf ((num * t : Nat) : Int) den).toNat
    if v < 10 then 0 else if t < v + 10 then t else v
  else
    let a : Int := w.outa.toNat
    let b : Int := w.outb.toNat
    (roundHalf ((a * den + num * (b - a)) * 2 ^ 32) (den * 1000000000)).toNat

/-- PWM: the width of the period in progress at a true time (R60). -/
def Rep.widthAt (r : Rep) (t : Nat) : Nat :=
  match r.next with
  | some (w, start) => if start ≤ t then w else r.width
  | none => r.width

/-- PWM: a new width, which starts with the next period; of several within a period the last stands (R60). -/
def Rep.newWidth (r : Rep) (w t : Nat) : Rep :=
  let per := max 1 r.w.outa.toNat
  { r with width := r.widthAt t, next := some (w, r.base + ((t - r.base) / per + 1) * per) }

/-- FREQ: the NCO's phase at a true time, on its 1 GHz clock (R59). -/
def Rep.phaseAt (r : Rep) (t : Nat) : BitVec 32 := r.phase + BitVec.ofNat 32 (r.nco * (t - r.base))

/-- FREQ: a new NCO word, without a phase step (R60). -/
def Rep.newNco (r : Rep) (nco t : Nat) : Rep := { r with phase := r.phaseAt t, base := t, nco := nco }

/-- The level of a repeater output; none at high impedance (R59, R60, R62). DEDUCED (log entry 118): a square wave is high in the first
half of the NCO's turn. -/
def Rep.level (r : Rep) (t : Nat) : Option Bool :=
  if r.hiZ then none
  else if !bitOf r.w.ctl 31 || r.waiting then some false
  else if bitOf r.w.ctl 30 then some !(r.phaseAt t).msb
  else some (decide ((t - r.base) % max 1 r.w.outa.toNat < r.widthAt t))

/-- REPn at its pin: REP0 to REP7 are of bank VIO_A, REP8 to REP15 of VIO_B (R503). -/
def Hub.repPin (h : Hub) (n : Nat) : Option Bool :=
  match (h.reps.getD n Rep.reset).level h.clk.elapsed with
  | some v => h.drives (n / 8) v
  | none => none

/-- A skim sample reaches a repeater output (R59 to R62). DESIGN CHOICE (log entry 178): REP_STALE is written when STALE becomes set by a flagged
sample, not while it is set since EN was. -/
def Hub.repTake (v : Int) (f : Byte) (n : Nat) (h : Hub) : Hub :=
  let r := h.reps.getD n Rep.reset
  let set (g : Rep → Rep) (h : Hub) : Hub := { h with reps := modAt h.reps n g }
  if f &&& BitVec.ofNat 8 (fld r.w.ctl 7 0) != 0 then
    if r.stale then h
    else (set (fun r => { r with stale := true }) h).notice unitHub 0x0105 (argN n) (argN f.toNat)
  else
    let o := repOut r.w v
    set (fun r => { (if bitOf r.w.ctl 30 then r.newNco o h.clk.elapsed else r.newWidth o h.clk.elapsed) with
      stale := false, waiting := false }) h

/-- The outputs that follow a channel. -/
def Hub.repsOf (h : Hub) (c : Nat) : List Nat :=
  (List.range 16).filter fun n =>
    let r := h.reps.getD n Rep.reset
    bitOf r.w.ctl 31 && !r.hiZ && fld r.w.ctl 17 8 == c

/-- A sample enters the SKIM stream while it is built (R150, R212, R239, R243, R412). -/
def Hub.skimStream (h : Hub) (c j inst : Nat) (v0 v1 : Int) (f : Byte) : Hub :=
  let x := h.ch c
  if !x.skimEn || !x.skimBuilt then h
  else
    let h := match x.rateDue with
      | some cause =>
        (h.sweepRate false c inst x.desc.rate.1 x.desc.rate.2 x.desc.words cause).setCh c fun x => { x with rateDue := none }
      | none => h
    let b := be 4 (skimWord v0 f).toNat ++ (if x.desc.words = 2 then be 4 (skimWord v1 f).toNat else [])
    let s : SweepSample := ⟨c, j, inst, x.desc.words, if j = 0 then 0 else min inst (x.desc.skimInst (j - 1) + 1), b, inst⟩
    if x.churnSkim.isSome && !(h.die (chDie c)).faulted then h.churnTake false c j inst (v0, f.toNat)
    else h.sweepPut false c s

/-- The trigger unit of a channel evaluates nothing (R170). -/
def Hub.trigBlind (h : Hub) (c : Nat) : Bool := (h.ch c).desc.inSel != 0 || (h.oct (chOct c)).held || (h.ch c).retired.isSome

/-- A skim sample of a channel goes to everything that takes it: repeaters, reduction, stream, captures, detectors, EA64 levels
and the trigger unit on the skim tap, unless that passes it by (R170). -/
def Hub.skimOut (h : Hub) (c j inst : Nat) (v0 v1 : Int) (f : Byte) (skip : Bool) : Hub :=
  let h := h.setCh c fun x => { x with lastJ := some j, skim0 := v0, skim1 := v1, skimFlags := f, skims := ((inst, v0, f) :: x.skims).take 32 }
  let h := forAll (h.repsOf c) (Hub.repTake v0 f) h
  let h := (h.redTake c j v0 v1 f).skimStream c j inst v0 v1 f
  if (h.die (chDie c)).faulted then h
  else
    let h := h.capFeed 1 c j v0 v1 f
    let h := ((((h.detTake c j inst false v0 v1 f skip).detTake c j inst true v0 v1 f skip).thrTake c inst 0 v0 f).thrTake c inst 1 v0 f)
    let x := h.ch c
    if !x.desc.det.skimTap then h
    else if skip || (bitOf x.desc.det.trg 19 && (f &&& flagST != 0)) then h.trigSkip c
    else h.trigTake c inst v0 f

/-- A skim sample waits for its instant, or goes out where that has come: with the resampler it can lie after the last input that it uses
(R143, R149, R150). DESIGN CHOICE (log entry 176): a sample that waits counts as produced when it was computed, so a direct switch of sets (R157)
or a change starts with the one after it. -/
def Hub.skimDone (h : Hub) (c inst : Nat) (w : SkimWait) : Hub :=
  let h := h.setCh c fun x => { x with lastJ := some w.j }
  if w.at' ≤ inst then h.skimOut c w.j w.at' w.v0 w.v1 w.flags w.skip
  else h.setCh c fun x => { x with skimWait := some w }

/-- A skim sample whose instant has come goes out. -/
def Hub.skimDue (h : Hub) (c inst : Nat) : Hub :=
  match (h.ch c).skimWait with
  | some w =>
    if w.at' ≤ inst then (h.setCh c fun x => { x with skimWait := none }).skimOut c w.j w.at' w.v0 w.v1 w.flags w.skip
    else h
  | none => h

/-! ## A raw sample through intake and chain (R10, R12, R136, R154) -/

/-- A raw sample goes to the RAW stream, to raw captures and to the trigger unit on the intake tap. -/
def Hub.rawOut (h : Hub) (c : Nat) (e : RawEntry) (f : Byte) (skip : Bool) : Hub :=
  let x := h.ch c
  let inst := e.k * x.desc.rawPeriod
  let h := if !x.rawEn || decide (3 ≤ h.pwr.shed) then h
    else if x.churnRaw.isSome && !(h.die (chDie c)).faulted then h.churnTake true c e.k inst (e.val, (if e.orFlag then 2 else 0) + if e.cl then 1 else 0)
    else h.sweepPut true c ⟨1024 + c, e.k, inst, 0, if e.k = 0 then 0 else inst - x.desc.rawPeriod + 1, be 2 (rawWord x.desc.fmt e.val e.orFlag e.cl).toNat, inst⟩
  let h := h.capFeed 0 c e.k e.val 0 f
  let x := h.ch c
  if x.desc.det.skimTap ∨ (h.die (chDie c)).faulted then h
  else if skip || (bitOf x.desc.det.trg 19 && decide (0 < x.rawStLeft)) then h.trigSkip c
  else h.trigTake c inst e.x f

/-- The correction of the present raw sample with its ramp (R136, R433): the state after it. -/
def Chan.correct (c : Chan) : Chan :=
  let k := c.corrNow
  if k.left = 0 then
    if k.clearsUc then { c with uc := false, corrNow := { k with clearsUc := false } } else c
  else
    let i : Int := k.total - k.left + 1
    let g := chainRound ((k.fromGain : Int) * (k.total - i) + (k.toGain : Int) * i) k.total
    let o := chainRound (k.fromOfs * (k.total - i) + k.toOfs * i) k.total
    { c with corrNow := { k with gain := g.toNat, ofs := o, left := k.left - 1 } }

/-- The intake value of a converter code (R136). -/
def Chan.intake (c : Chan) (v : Int) : Int := chainRound (v * c.corrNow.gain) 16384 + c.corrNow.ofs

/-- A flagged raw sample marks the skim samples of the S periods it can reach (R154). DESIGN CHOICE (log entry 119): where settings change
inside the run, S is the one of the flagged sample's time. -/
def Chan.mark (c : Chan) (e : RawEntry) : Chan :=
  let s := c.desc.settle 0 0
  { c with orLeft := if e.orFlag then s else c.orLeft, clLeft := if e.cl then s else c.clLeft,
           cmLeft := if e.cm then s else c.cmLeft, adLeft := if e.ad then s else c.adLeft, rawStLeft := c.rawStLeft - 1 }

/-- The flags of the skim sample now produced (R12, Table 00-4). DESIGN CHOICE (log entry 155): the 16 significant bits of ROUGH (R477) are no
reduced resolution in the sense of RD. -/
def Hub.skimFlagsNow (h : Hub) (c : Nat) : Byte :=
  let x := h.ch c
  flagIf (decide (0 < x.orLeft)) flagOR ||| flagIf (decide (0 < x.clLeft)) flagCL ||| flagIf (decide (0 < x.cmLeft)) flagCM |||
    flagIf (decide (0 < x.stLeft) || (!h.clk.valid && !h.clk.refclk)) flagST ||| flagIf (decide (0 < x.adLeft)) flagAD |||
    flagIf (x.uc || h.boot.level == .rough) flagUC

/-- One skim sample less under each run of flags. -/
def Chan.countFlags (c : Chan) : Chan :=
  { c with orLeft := c.orLeft - 1, clLeft := c.clLeft - 1, cmLeft := c.cmLeft - 1, adLeft := c.adLeft - 1, stLeft := c.stLeft - 1 }

/-- In ROUGH a skim value keeps 16 significant bits (R477). -/
def Hub.roughen (h : Hub) (v : Int) : Int := if h.boot.level = .rough then roundHalf v 256 * 256 else v

/-- The shadow set's run beside the active one for a switch that is not armed yet: its stages, and the words of a completed skim sample as the
switch will have them (R157, R158). -/
def Hub.chainTrial (h : Hub) (c k : Nat) (acc : BitVec 32) (x : Int) (old : Option (Int × Int)) : Hub × Option (Int × Int) :=
  let y := h.ch c
  match y.trial, y.switch, y.shadow with
  | some r, some w, some new =>
    let (st, v) := chainStep y.desc new r.stages k acc x
    let words := match v, old, y.desc.skimOf k with
      | some v, some vo, some j =>
        some (if j < r.s + w.xfLen then blendWords y.desc y.desc.coef new (j - r.s) w.xfLen vo v else outWords y.desc new v)
      | _, _, _ => none
    (h.setCh c fun y => { y with trial := some { r with stages := st } }, words)
  | _, _, _ => (h, none)

/-- The chain on one intake value with the reference accumulator of its instant: the stages, a fade's second run, and the words of a
completed skim sample, with those that a switch not armed yet will give it (R133, R137, R157, R158). -/
def Hub.chain (h : Hub) (c k : Nat) (acc : BitVec 32) (x : Int) : Hub × Option (Nat × (Int × Int) × Option (Int × Int)) :=
  let h := h.setCh c fun y =>
    let j := y.nextJ (k * y.desc.rawPeriod)
    (y.beginFade j).beginTrial j
  let y := h.ch c
  let d := y.desc
  let (st, v) := chainStep d d.coef y.stages k acc x
  let h := h.setCh c fun y => { y with stages := st }
  match y.fade with
  | none =>
    let (h, alt) := h.chainTrial c k acc x v
    (h, match v, d.skimOf k with
    | some v, some j => some (j, outWords d d.coef v, alt)
    | _, _ => none)
  | some f =>
    let (so, vo) := chainStep d f.old f.stages k acc x
    let h := h.setCh c fun y => { y with fade := some { f with stages := so } }
    match v, vo, d.skimOf k with
    | some v, some vo, some j =>
      if f.s + f.xfLen ≤ j then (h.setCh c fun y => y.endFade j, some (j, outWords d d.coef v, none))
      else (h, some (j, blendWords d f.old d.coef (j - f.s) f.xfLen vo v, none))
    | _, _, _ => (h, none)

/-- A settled raw sample: outputs at the raw rate, then the chain and the skim sample it completes. -/
def Hub.rawStep (h : Hub) (c : Nat) (e : RawEntry) (acc : BitVec 32) (skip : Bool) : Hub :=
  let inst := e.k * (h.ch c).desc.rawPeriod
  let h := (h.skimDue c inst).rawOut c e e.flags skip
  let h := h.setCh c fun x => x.mark e
  let (h, o) := h.chain c e.k acc e.x
  match o with
  | none => h
  | some (j, w, alt) =>
    let f := h.skimFlagsNow c
    let h := h.setCh c Chan.countFlags
    h.skimDone c inst ⟨j, (h.ch c).desc.skimInst j, h.roughen w.1, h.roughen w.2, f, skip, alt.map fun a => (h.roughen a.1, h.roughen a.2)⟩

/-- The skim index that raw sample k completes. -/
def Hub.skimAt (h : Hub) (c k : Nat) : Option Nat := (h.ch c).desc.skimOf k

/-- A skim sample counts toward a fade, and a pending switch starts at it, also where the chain does not run (R159). -/
def Hub.fadeCount (h : Hub) (c j : Nat) : Hub := h.setCh c fun x => (x.beginFade j).endFade j

/-- A raw sample of a retired channel, or of one whose die is out of service: RT with value 0 (R13, R407, R412). -/
def Hub.rtStep (h : Hub) (c k : Nat) : Hub :=
  let inst := k * (h.ch c).desc.rawPeriod
  let e : RawEntry := ⟨k, 0, 0, false, false, false, false, false⟩
  let h := h.skimDue c inst
  let h := if (h.die (chDie c)).faulted then h else h.trigSkip c
  let h := h.rawOut c e flagRT true
  match h.skimAt c k with
  | some j => (h.fadeCount c j).skimDone c inst ⟨j, (h.ch c).desc.skimInst j, 0, 0, flagRT, true, none⟩
  | none => h

/-- A raw sample during a hold: the last sensor raw word and the last skim value repeat, the latter with ST (R432, R449; log
entry 46). A fade counts the repeated samples and a pending switch starts at one of them (R159). What is held is no RT sample, also where the channel
has come back during the hold (R13). DESIGN CHOICE (log entry 120): which
cause an ST sample has (R13, R153) is reported by CAL_DONE, VEXC_LOW and SPARED for held samples; a settling run gets no record of its
own. -/
def Hub.holdStep (h : Hub) (c k : Nat) (skip : Bool) : Hub :=
  let x := h.ch c
  let inst := k * x.desc.rawPeriod
  let ad := !(h.oct (chOct c)).held && x.audit.tagAt inst
  let e : RawEntry := match x.lastRaw with
    | some l => { l with k := k, cm := false, ad := ad }
    | none => ⟨k, 0, 0, false, false, false, false, x.uc⟩
  -- x_(k+1) of a cubic stamp does not follow across a hold (R175)
  let h := ((h.skimDue c inst).trigSkip c).rawOut c e (e.flags ||| flagST) skip
  let x := h.ch c
  match h.skimAt c k with
  | some j =>
    let h := (h.fadeCount c j).setCh c Chan.countFlags
    h.skimDone c inst ⟨j, x.desc.skimInst j, x.skim0, x.skim1, (x.skimFlags &&& 0xFC) ||| flagST ||| flagIf (x.uc || h.boot.level == .rough) flagUC, skip, none⟩
  | none => h

/-! ## The common-mode window (R53 to R55) -/

/-- Recognition of a violation (R55): counted, an urgent audit unless a clamp onset on this conversion has asked for one, a fault
event. -/
def Hub.cmRecognised (h : Hub) (c : Nat) : Hub :=
  let new := (h.ch c).clampNew
  let h := h.setCh c fun x => { x with cmCount := satInc 16 x.cmCount }
  (if new then h else h.urgentChan c).chanFault c 0x0102

/-- One conversion of the window (R54): recognition, the end of a violation and the state after it. -/
def Desc.cmStep (d : Desc) (s : CmState) (mv : Int) : CmState × Bool × Bool :=
  let out := decide (mv < d.cmLo * 20) || decide (d.cmHi * 20 < mv)
  let inside := decide (d.cmLo * 20 + 40 ≤ mv) && decide (mv ≤ d.cmHi * 20 - 40)
  if !d.cmEn then (⟨false, 0, 0⟩, false, false)
  else if !s.viol then
    if !out then (⟨false, 0, 0⟩, false, false)
    else if d.cmDwell + 1 ≤ s.outRun + 1 then (⟨true, 0, 0⟩, true, false) else (⟨false, s.outRun + 1, 0⟩, false, false)
  else if !inside then (⟨true, 0, 0⟩, false, false)
  else if d.cmDwell + 1 ≤ s.inRun + 1 then (⟨false, 0, 0⟩, false, true) else (⟨true, 0, s.inRun + 1⟩, false, false)

/-! ## Writes at their boundary (R49, R65, R72, R148 to R153, R159, R164) -/

/-- The first stage that holds a changed field outside the coefficient set; 9 where none does (R151). -/
def Desc.firstStage (a b : Desc) : Nat :=
  if a.nDiv ≠ b.nDiv then 0
  else if a.demodEn ≠ b.demodEn ∨ a.demodOut ≠ b.demodOut then 1
  else if a.cicEn ≠ b.cicEn ∨ a.cic ≠ b.cic then 2
  else if a.firEn ≠ b.firEn ∨ a.firDec ≠ b.firDec then 3
  else if a.maEn ≠ b.maEn ∨ a.ma ≠ b.ma then 6
  else if a.rsEn ≠ b.rsEn ∨ a.rs ≠ b.rs then 7
  else 9

/-- A field of R49 changes. -/
def Desc.afeChange (a b : Desc) : Bool :=
  a.afe.freq != b.afe.freq || a.afe.drive != b.afe.drive || a.partner != b.partner || a.gain != b.gain || a.inSel != b.inSel

/-- EXC_MODE or AMP changes: the ramp of R39 counts into the settling. -/
def Desc.ramps (a b : Desc) : Bool := a.mode != b.mode || a.amp != b.amp

/-- A change that restarts the converter (R72). -/
def Desc.restarts (a b : Desc) : Bool :=
  a.nDiv != b.nDiv || a.gain != b.gain || a.inSel != b.inSel || a.offsetBinary != b.offsetBinary

/-- The skim rates differ. -/
def Desc.newRate (a b : Desc) : Bool := a.rate.1 * b.rate.2 != b.rate.1 * a.rate.2

/-- Ends what the old configuration has in progress: reduction block, churn segments, coaches, a cubic stamp (R150, R198, R206,
R281). -/
def Hub.endOld (h : Hub) (c inst : Nat) (a b : Desc) (red : Option Word) : Hub :=
  let rate := a.newRate b
  let n := a.nDiv != b.nDiv
  let h := if rate || red.isSome then h.redClose c true else h
  let h := if rate then (h.churnBreak false c).capRate 1 c else h
  let h := if n then (h.churnBreak true c).capRate 0 c else h
  if a.det.trg != b.det.trg || a.det.trga != b.det.trga || a.det.trgb != b.det.trgb || a.det.trgh != b.det.trgh ||
      rate || a.inSel != b.inSel then h.trigSkip c
  else h

/-- Units of the DET section whose fields change, or which a new skim rate restarts, are cleared (R164); a trigger unit's re-arm timer then
runs from the first sample at the new rate. DEDUCED (log entry 121): a unit whose condition is a detector's takes skim values whatever its
TAP, so a new skim rate clears it too. -/
def Chan.clearDet (x : Chan) (a b : Desc) (inst : Nat) : Chan :=
  let rate := a.newRate b
  let trg := a.det.trg != b.det.trg || a.det.trga != b.det.trga || a.det.trgb != b.det.trgb || a.det.trgh != b.det.trgh
  { x with detA := if rate || a.det.deta != b.det.deta then DetUnit.clear else x.detA,
           detB := if rate || a.det.detb != b.det.detb then DetUnit.clear else x.detB,
           thr0 := if a.det.thr0l != b.det.thr0l || a.det.thr0h != b.det.thr0h then none else x.thr0,
           thr1 := if a.det.thr1l != b.det.thr1l || a.det.thr1h != b.det.thr1h then none else x.thr1,
           trig := if trg || (rate && (b.det.skimTap || b.det.onDet)) then
               TrigUnit.clear x.trig.missed (if rate && (b.det.skimTap || b.det.onDet) then b.skimInst (b.skimIdxAt inst) else inst)
             else x.trig }

/-- The front end of a channel after a change from a to b at a boundary (R39, R53, R65, R72, R89). -/
def Chan.changeFront (x : Chan) (a b : Desc) (cycles elapsed back : Nat) : Chan :=
  let x := if cycles - back < x.accSet then
      { x with accWas := x.accBack cycles back + BitVec.ofInt 32 ((b.afe.freq.toNat : Int) * ((x.accSet : Int) - (cycles - back : Nat))) }
    else { x with acc := x.accBack cycles back, accAt := cycles - back }
  let amp := x.ampAt (cycles - back)
  let x := if a.ramps b then { x with rampFrom := amp, rampTo := b.rampGoal !x.driveOff, rampAt := cycles - back } else x
  let x := if a.ramps b || a.afe.freq != b.afe.freq || a.afe.drive != b.afe.drive || (b.mode == 3 && a.partner != b.partner) then
      { x with driveChanged := elapsed } else x
  let x := if a.restarts b then { x with hist := [], orTail := 0, auditWait := [] } else x
  let x := if a.cmEn && !b.cmEn && x.cm.viol then x.condClears 0x0102 elapsed else x
  let x := if a.cmEn != b.cmEn then ({ x with cm := ⟨false, 0, 0⟩ } : Chan) else x
  let x := if a.audEn && !b.audEn then { x.untag with auditWait := [] } else x
  { x with desc := { x.desc with afe := b.afe, conv := b.conv } }

/-- The chain of a channel after the change, when the samples before it have gone through (R150 to R153, R159, R164, R283). -/
def Chan.changeChain (x : Chan) (a b : Desc) (inst : Nat) : Chan :=
  let j := a.firstStage b
  let d := { b with afe := x.desc.afe, conv := x.desc.conv }
  let x := ({ x with stages := if j < 9 then x.stages.clearFrom j else x.stages, desc := d }).clearDet a b inst
  let x := if a.newRate b then { x with lastJ := none, rateDue := if x.skimEn && x.skimBuilt then some 0 else x.rateDue } else x
  let first := min j (if a.afeChange b then 0 else firstDiff a.coef b.coef)
  let x := if a = b then x else
    { x with churnCap := x.churnCap.map fun (u : ChurnUse) => { u with restored := true } }
  if first < 9 then x.settleFrom first (if a.ramps b then b.rampRaw 64 else 0) else x

/-- A new GAIN takes its correction set, or UC and a place in the calibration queue (R429). -/
def Hub.takeGain (h : Hub) (c : Nat) : Hub :=
  let x := h.ch c
  match x.corr.getD x.desc.gain none with
  | some k =>
    h.setCh c fun x => { x with uc := false, corrNow := ⟨k.dgain, k.dofs, k.dgain, k.dofs, k.dgain, k.dofs, 0, 0, false⟩ }
  | none => (h.setCh c fun x => { x with uc := true, corrNow := CorrNow.unity }).calQueue (chOct c)

/-- A CHAN_SET completes a fade and cancels a pending switch (R159). -/
def Hub.endSwitch (h : Hub) (c : Nat) : Hub :=
  let x := h.ch c
  let h := match x.fade with
    | some f => h.setCh c fun x => { x with fade := none, shadow := some f.old }
    | none => h
  if x.switch.isSome then (h.setCh c fun x => { x with switch := none, trial := none }).notice (unitChan c) 0x0301 0 0 else h

/-- An action leaves the table, and with it the switch that it holds pending and the AFE_SYNC that it has armed. -/
def Hub.dropAction (h : Hub) (id : Word) : Hub :=
  (({ h with mgmt := { h.mgmt with actions := h.mgmt.actions.filter fun (a : Action) => a.id != id } }).switchDrops id).syncDrops id

/-- A scheduled action is done: it leaves the table with its record, stamped with an instant. NOT_LOCKED is of T, or of now where T lies ahead
(R124, R126, Table 15-6). -/
def Hub.schedDone (h : Hub) (t : Nat) (id : Word) (status lateUs : Nat) : Hub :=
  let off := match h.findAction id with
    | some a => if a.held then a.unlocked else !h.tm.lockedAt a.t
    | none => !h.locked
  (h.dropAction id).eventAt t unitHub 0x0205 0 1 id (argN (status * 2 ^ 24 + (if off then 2 ^ 23 else 0) + sat 23 lateUs))

/-- A scheduled action's record, stamped with the instant at which it first took effect on a target; LATE where that lies behind T's own
boundary or a calibration delayed it (R66, R126, Table 15-6). Later targets find the action gone. -/
def Hub.writeDone (inst : Nat) (late : Bool) (a : Word × Nat) (h : Hub) : Hub :=
  match h.findAction a.1 with
  | none => h
  | some x => h.schedDone inst a.1 (if late || decide (x.own < inst) then St.late else St.ok) ((inst - a.2) / 1024000)

/-- Ends the skim stream at its old rate: a resampled sample that waits goes out where its instant lies before the boundary, and else
gives way to the first one at the new rate (R150). -/
def Hub.endRate (h : Hub) (c inst : Nat) : Hub := (h.skimDue c (inst - 1)).setCh c fun x => { x with skimWait := none }

/-- At a new rate with the resampler, the first index at or after the boundary can lie before the first new input: it stands on the
cleared stage (R149, R150). -/
def Hub.firstRs (h : Hub) (c inst : Nat) : Hub :=
  let d := (h.ch c).desc
  let j := d.skimIdxAt inst
  let i := j * 2 ^ 32 / max 1 d.rs.toNat
  if d.rsEn && decide (i * d.cycR * fuCycle < inst) then
    let w := outWords d d.coef (0, 0)
    let f := h.skimFlagsNow c
    (h.setCh c Chan.countFlags).skimDone c 0 ⟨j, d.skimInst j, h.roughen w.1, h.roughen w.2, f, h.trigBlind c, none⟩
  else h

/-- Channels of an octet. -/
def octChans (o : Nat) : List Nat := (List.range 8).map fun i => 8 * o + i

/-- The chain's part of a write at the boundary `inst` (R65, R150, R151): it runs when what came before it has gone through. After a change
of N the first raw sample of the new configuration is the first on the new grid (R72). -/
def Hub.changeChain (c : Nat) (a b : Desc) (w : ChanWrite) (inst : Nat) (h : Hub) : Hub :=
  let now := (h.ch c).desc.coef
  let a := { a with coef := now }
  let b := if w.desc.isSome then b else { b with coef := now }
  let start := ceilDiv inst b.rawPeriod * b.rawPeriod
  let h := if a.newRate b then h.endRate c start else h
  let h := if w.desc.isSome then h.endSwitch c else h
  let h := h.endOld c inst a b w.red
  let h := h.setCh c fun x => x.changeChain a b inst
  let h := match w.red with
    | some r => h.setCh c fun x => { x with red := { x.red with cfg := r, cut := true } }
    | none => h
  let h := if a.nDiv ≠ b.nDiv ∧ (h.ch c).rawEn then h.sweepRate true c inst 125000000 b.nDiv 1 0 else h
  let h := if a.newRate b ∨ a.words ≠ b.words then h.reSweep (chDie c) else h
  if a.newRate b then h.firstRs c start else h

/-! ## Work in the order of the conversions, and the common-mode window (R53, R54) -/

/-- One piece of raw work, once what comes before it is settled. -/
def Hub.workStep (c : Nat) (w : RawWork) (h : Hub) : Hub :=
  match w with
  | .sample e acc skip => h.rawStep c e acc skip
  | .held k skip => h.holdStep c k skip
  | .gone k => h.rtStep c k
  | .change a b w inst => h.changeChain c a b w inst
  | .resume => h.setCh c Chan.resume
  | .settle us => h.setCh c fun x => x.settleFrom 0 (x.desc.rampRaw us)

/-- Runs raw work whose CM state is settled, oldest first. -/
def Hub.settleRaw (h : Hub) (c : Nat) (l : List RawWork) : Hub := forAll l (Hub.workStep c) h

/-- Sets CM of a sample. -/
def RawWork.setCm (b : Bool) : RawWork → RawWork
  | .sample e acc skip => .sample { e with cm := b } acc skip
  | w => w

/-- The work is that of a conversion. -/
def RawWork.converts : RawWork → Bool
  | .change .. | .resume | .settle _ => false
  | _ => true

/-- Sets CM of the samples among the first n conversions of a list. -/
def cmFirst (b : Bool) : Nat → List RawWork → List RawWork
  | _, [] => []
  | 0, l => l
  | n + 1, w :: r => w.setCm b :: cmFirst b (if w.converts then n else n + 1) r

/-- The newest work up to the k-th conversion, and what is older. -/
def splitWork : Nat → List RawWork → List RawWork × List RawWork
  | 0, l => ([], l)
  | _, [] => ([], [])
  | k + 1, w :: r => let p := splitWork (if w.converts then k else k + 1) r; (w :: p.1, p.2)

/-- The window on one conversion at a true time, of whatever kind, with the work that joins what is not settled yet; what is settled
runs on. A recognised violation marks its whole run outside, and its end clears at the first conversion of the inside run (R47, R53, R54,
R432). -/
def Hub.cmTake (h : Hub) (c : Nat) (el : Nat) (mv : Int) (work : RawWork) : Hub :=
  let x := h.ch c
  let (s, rec', fin) := x.desc.cmStep x.cm mv
  let all := work :: x.unsettled
  let since := if x.cm.inRun = 0 then el else x.cmIn
  let wait := if rec' then cmFirst true (x.cm.outRun + 1) all else if fin then cmFirst false (x.cm.inRun + 1) all
    else if s.viol && s.inRun == 0 then all.map (RawWork.setCm true) else all
  let (keep, run) := splitWork (if s.viol then s.inRun else s.outRun) wait
  let h := h.setCh c fun x => { x with cm := s, cmIn := since, unsettled := keep, cmSeen := if s.viol || x.cm.viol then some el else x.cmSeen }
  let h := if rec' then h.cmRecognised c else h
  let h := if fin then h.setCh c fun x => x.condClears 0x0102 since else h
  (h.settleRaw c run.reverse).setCh c fun x => { x with clampNew := false }

/-- Settles all that waits. `cm` says whether its samples carry CM; without it the raw history is cleared before a later conversion decides
that, and it is a free value (R54, R72; log entry 42). -/
def Hub.flushRaw (h : Hub) (c : Nat) (cm : Option Bool) : Hub :=
  let x := h.ch c
  let open' := Config.cmOpen h.fresh
  let l := if x.unsettled.isEmpty then [] else x.unsettled.map fun (w : RawWork) => w.setCm (cm.getD open')
  ((if x.unsettled.isEmpty || cm.isSome then h else h.tick).setCh c fun x => { x with unsettled := [] }).settleRaw c l.reverse

/-- Work that belongs between two conversions: at once where nothing waits. -/
def Hub.joinWork (h : Hub) (c : Nat) (w : RawWork) : Hub :=
  if (h.ch c).unsettled.isEmpty then h.workStep c w
  else h.setCh c fun x => { x with unsettled := w :: x.unsettled }

/-- A channel comes back, once what waited for its CM state has gone through (R433, R449, R451). -/
def Hub.resumeChan (h : Hub) (c : Nat) : Hub := (h.setCh c Chan.resumeFront).joinWork c .resume

/-- An octet's hold ends: the chain restarts as for a change at stage 0, and held writes apply at the next boundary (R66, R89, R433,
R440). -/
def Hub.endHold (h : Hub) (o : Nat) : Hub :=
  let h := h.setOct o fun q => { q with held := false }
  forAll (octChans o) (fun c h => (h.resumeChan c).setCh c fun x =>
    { x.untag with matrix := false, writes := x.writes ++ x.held.toList, held := none }) h

/-- Applies one write at the boundary `inst`. -/
def Hub.applyWrite (c inst : Nat) (w : ChanWrite) (h : Hub) : Hub :=
  let a := (h.ch c).applied
  let b := match w.desc, w.afe with
    | some d, _ => d
    | none, some f => { a with afe := f }
    | none, none => a
  let back := (h.tm.now - inst) / fuCycle
  let el := h.clk.elapsed - (h.tm.now - inst) / 1024
  let h := if a.cmEn && !b.cmEn then h.flushRaw c (some (h.ch c).cm.viol) else if a.restarts b then h.flushRaw c none else h
  let out := a.nDiv != b.nDiv && decide (c < 128 ∧ c % 32 = 0)
  let h := if out then h.sclkHold (c / 32) back else h
  let h := h.setCh c fun x => x.changeFront a b h.clk.cycles el back
  let h := if out then h.sclkStart (c / 32) inst else h
  let h := h.joinWork c (.change a b w inst)
  let h := if a.gain ≠ b.gain then h.takeGain c else h
  let h := if a.afe.freq ≠ b.afe.freq ∨ a.afe.drive ≠ b.afe.drive then
      let ref := a.afe.freq != b.afe.freq
      { h with chans := modAll h.chans ((h.withSlaves [c]).drop 1) fun _ x =>
          { x.settleBehind (if a.ramps b then 64 else 0) with driveChanged := if ref && x.desc.mode == 3 then el else x.driveChanged } }
    else h
  forAll w.actions (Hub.writeDone inst w.late) h

/-- A write goes behind those accepted before it (R65). -/
def byOrder (w : ChanWrite) : List ChanWrite → List ChanWrite
  | [] => [w]
  | x :: r => if w.order < x.order then w :: x :: r else x :: byOrder w r

/-- The writes of a channel that are due at the boundary, in the order accepted, and the others (R65). -/
def Chan.dueWrites (x : Chan) (inst : Nat) : List ChanWrite × List ChanWrite :=
  ((x.writes.filter fun (w : ChanWrite) => decide (w.notBefore ≤ inst)).foldl (fun l w => byOrder w l) [],
   x.writes.filter fun (w : ChanWrite) => !decide (w.notBefore ≤ inst))

/-- The writes that are due at the boundary apply. -/
def Hub.applyDue (h : Hub) (c inst : Nat) : Hub :=
  let p := (h.ch c).dueWrites inst
  if p.1.isEmpty then h else forAll p.1 (Hub.applyWrite c inst) (h.setCh c fun x => { x with writes := p.2 })

/-- Writes whose boundary falls into a hold of the octet join what the hold keeps (R66). -/
def Hub.holdDue (h : Hub) (c inst : Nat) : Hub :=
  let p := (h.ch c).dueWrites inst
  if p.1.isEmpty then h else h.setCh c fun x => p.1.foldl Chan.hold { x with writes := p.2 }

/-! ## A conversion (R67 to R75) -/

/-- The clamp's engagement, or the 2 µs recovery after it, overlaps a tracking phase [track, el], which began 150 ns after the sampling
instant before (R51, R71). -/
def Chan.clampIn (x : Chan) (track el : Nat) : Bool :=
  (decide (x.clampAt ≤ el) && (x.clamped || decide (track < x.clampEnd))) || decide (track < x.clampPrev)

/-- The raw sample of a channel at index k, taken at true time el: over-range, clamp and audit tags, history, and on through the window
(R51, R74, R75, R83, R136). -/
def Hub.sample (h : Hub) (c k el : Nat) (code cmMv : Int) : Hub :=
  let x := h.ch c
  let inst := k * x.desc.rawPeriod
  let clipped := decide (8191 < code) || decide (code < -8192)
  let val := max (-8192) (min 8191 code)
  let orF := clipped || decide (0 < x.orTail)
  let cl := x.clampIn (match x.lastAt with | some t => t + 150 | none => el + 150 - x.desc.nDiv * 8) el
  let onset := orF && (match x.lastOr with | some t => decide (t + 1000000 ≤ el) | none => true)
  let y := x.correct
  let e : RawEntry := ⟨k, val, y.intake val, orF, cl, false, y.audit.tagAt inst, y.uc⟩
  let h := h.setCh c fun _ =>
    { y with lastK := some k, lastAt := some el, orTail := if clipped then 2 else y.orTail - 1, lastOr := if orF then some el else y.lastOr,
             hist := (e :: y.hist).take 32, lastRaw := some e }
  let h := if onset && (h.aud (chDie c)).reports then h.urgentChan c else h
  h.cmTake c el cmMv (.sample e (h.refAcc c ((h.tm.now - inst) / fuCycle)) (h.trigBlind c))

/-- An armed AFE_SYNC marks the channel from 64 µs before its instant (R40, R152). -/
def Hub.syncSt (h : Hub) (c inst : Nat) : Hub :=
  let begins (a : SyncArm) : Bool := decide (a.at' ≤ inst + 65536000) && !a.st
  if (h.ch c).syncs.any begins then
    h.setCh c fun x => { x.settleBehind 128 with syncs := x.syncs.map fun a => if begins a then { a with st := true } else a }
  else h

/-- The channel feeds something: a stream, an armed capture, its trigger unit, a repeater output or a separator column (R451). -/
def Hub.feeds (h : Hub) (c : Nat) : Bool :=
  let x := h.ch c
  x.skimEn || x.rawEn || (h.capOf c).isSome || bitOf x.desc.det.trg 31 || !(h.repsOf c).isEmpty ||
    (h.die (chDie c)).sep.usedColumns.contains (c % 128)

/-- The channel converts: its clock runs, its quadrant is powered, its die has started (R453, R531). -/
def Hub.converts (h : Hub) (c : Nat) : Bool :=
  let d := h.die (chDie c)
  h.clk.run && (d.faulted || (d.inService && h.powered (chQuad c)))

/-- A code of ZERO or GAIN, by its time in ns after t0, enters the mean of its step (R428, Table 16-1). DESIGN CHOICE (log entry 199): the first half of
the GAIN step measures +0.75 of full scale, the second half −0.75. -/
def CalMeas.take (m : CalMeas) (t : Nat) (v : Int) : CalMeas :=
  let add (p : Int × Nat) : Int × Nat := (p.1 + v, p.2 + 1)
  if t < 12000000 then { m with zero := add m.zero }
  else if t < 32000000 then { m with plus := add m.plus }
  else if t < 52000000 then { m with minus := add m.minus }
  else m

/-- A conversion of a channel whose octet is held for calibration: INPUT_SEL stands at CALMATRIX, and the code is one of the slot's
measurements (R428, R430, R432). -/
def Hub.calTake (h : Hub) (c el : Nat) (code : Int) : Hub :=
  match h.cal.slots.find? fun (s : Slot) => s.oct == chOct c with
  | some s =>
    if (h.oct (chOct c)).held then h.setCh c fun x =>
      { x with matrix := true, meas := x.meas.map fun m => m.take (el - s.t0) (max (-8192) (min 8191 code)) }
    else h
  | none => h

/-- Where INPUT_SEL stands (R47): at the matrix while calibration has it there. -/
def Chan.inputSel (x : Chan) : Nat := if x.matrix then 2 else x.desc.inSel

/-- A conversion of a channel: the converter's code as its quantiser needed it, and the common-mode voltage in mV (R65, R69, R72,
R74). Nothing happens where the channel has already taken the sample of this instant. DESIGN CHOICE (log entry 156): while VEXC is low a
write waits in the queue of R65, without HELD, and applies at the first boundary after the release. A channel out of service keeps its last
grid and drive: what is written to it waits for its return (R380, R407). -/
def Hub.conversion (h : Hub) (c : Nat) (code cmMv : Int) : Hub :=
  let per := (h.ch c).desc.rawPeriod
  let k := h.tm.now / per
  if h.nChans ≤ c ∨ !h.converts c ∨ (h.ch c).lastK.any (fun l => decide (k ≤ l)) then h
  else if h.pwr.st = .doze ∧ !h.feeds c then h.setCh c fun x => { x with stopped := true, lastAt := none }
  else
    let h := if (h.ch c).stopped then (h.resumeChan c).setCh c fun x => { x with stopped := false } else h
    let inst := k * per
    let held := h.heldCh c
    let gone := (h.ch c).retired.isSome || (h.die (chDie c)).faulted
    let h := (if gone then h else if (h.oct (chOct c)).held then h.holdDue c inst else if held then h else h.applyDue c inst).guardTake c cmMv
    let per' := (h.ch c).desc.rawPeriod
    let k' := inst / per'
    if per' ≠ per ∧ inst % per' ≠ 0 then h.setCh c fun x => { x with lastK := some k' }
    else
      let h := h.syncSt c inst
      let el := h.clk.elapsed - (h.tm.now - inst) / 1024
      if gone then (h.setCh c fun x => { x with lastK := some k', lastAt := some el }).cmTake c el cmMv (.gone k')
      else if held then ((h.calTake c el code).setCh c fun x => { x with lastK := some k', lastAt := some el }).cmTake c el cmMv (.held k' (h.trigBlind c))
      else h.sample c k' el code cmMv

/-! ## Clamps, drivers, guards (R44, R50 to R52, R57) -/

/-- A clamp engages: an onset unless its 2 µs recovery still runs (R52). -/
def Hub.clamp (h : Hub) (c : Nat) : Hub :=
  let x := h.ch c
  if h.nChans ≤ c ∨ x.clamped then h
  else if h.clk.elapsed < x.clampEnd then h.setCh c fun x => { x with clamped := true }
  else
    let h := h.setCh c fun x =>
      { x.condClears 0x0101 x.clampEnd with
          clamped := true, clampNew := true, clampCount := satInc 16 x.clampCount, clampAt := h.clk.elapsed, clampPrev := x.clampEnd }
    (h.urgentChan c).chanFault c 0x0101

/-- A clamp releases: its 2 µs recovery begins, after which the condition has cleared; a channel that another condition has retired
goes on waiting for that one (R51, R52, R413). -/
def Hub.clampRelease (h : Hub) (c : Nat) : Hub :=
  if h.nChans ≤ c ∨ !(h.ch c).clamped then h
  else h.setCh c fun x =>
    { x with clamped := false, clampEnd := h.clk.elapsed + 2000,
             clearSince := if x.retired.getD 0x0101 = 0x0101 then h.clk.elapsed + 2000 else x.clearSince }

/-- A driver clips (R44). -/
def Hub.excOl (h : Hub) (c : Nat) : Hub :=
  if h.nChans ≤ c ∨ (h.ch c).excOl then h
  else ((h.setCh c fun x => { x with excOl := true }).notice (unitChan c) 0x0103 0 0).chanFault c 0x0103

/-- The load is back within the driver's limit (R44, R384). -/
def Hub.excOlEnd (h : Hub) (c : Nat) : Hub :=
  h.setCh c fun x => if x.excOl then { x.condClears 0x0103 h.clk.elapsed with excOl := false } else x

/-- A guard limits its current (R57). -/
def Hub.grdOl (h : Hub) (o : Nat) : Hub :=
  if h.nOcts ≤ o ∨ (h.oct o).guardOl then h
  else (h.setOct o fun x => { x with guardOl := true }).notice (unitOct o) 0x0104 0 0

/-! ## Meanings -/

/-- CONVERSION (R71). -/
def execConversion (ch : Nat) (code cmMv : Int) (s : State) : Out := act s fun h => h.conversion ch code cmMv
/-- CLAMP (R52). -/
def execClamp (ch : Nat) (s : State) : Out := act s fun h => h.clamp ch
/-- CLAMP_RELEASE (R52). -/
def execClampRelease (ch : Nat) (s : State) : Out := act s fun h => h.clampRelease ch
/-- EXC_OL (R44). -/
def execExcOl (ch : Nat) (s : State) : Out := act s fun h => h.excOl ch
/-- EXC_OL_END (R44). -/
def execExcOlEnd (ch : Nat) (s : State) : Out := act s fun h => h.excOlEnd ch
/-- GRD_OL (R57). -/
def execGrdOl (oct : Nat) (s : State) : Out := act s fun h => h.grdOl oct
/-- GRD_OL_END (R57). -/
def execGrdOlEnd (oct : Nat) (s : State) : Out :=
  act s fun h => h.setOct oct fun o => { o with guardOl := false }

end Sys2Proof.Machine
end

