-- ==== Sys2Proof/Machine/Churn.lean ====
section
/-! DEFINITION. The churn commands (10, Table 14-11): uses and the churn area, saved states, decoding of coaches, jobs. -/

namespace Sys2Proof.Machine

/-! ## The churn area (R188, R271) -/

/-- Bytes of the churn area of a die (R188, R191). -/
def Store.churnBytes (s : Store) : Nat := (fld s.part 11 0 - s.lostChurn) * 16384

/-- History of a churned use (R271). -/
def histBytes (raw : Bool) : Nat := if raw then 8192 else 16384

/-- A saved state (Table 10-7). -/
def stateBytes (raw : Bool) : Nat := 32 + histBytes raw

/-- Bytes of the churn area in use on a die (R271, R293, R294). -/
def Hub.churnUsed (h : Hub) (d : Nat) : Nat :=
  ((List.range 128).map fun i =>
    let x := h.ch (128 * d + i)
    (if x.churnRaw.isSome then 8192 else 0) + (if x.churnSkim.isSome then 16384 else 0) +
      (if x.churnCap.isSome then histBytes (h.capSrc (128 * d + i) != some 1) else 0)).sum +
  ((h.saved.filter fun (x : SavedChurn) => x.die == d).map fun (x : SavedChurn) => stateBytes (x.use' == 0)).sum +
  ((h.jobs.filter fun (j : ChurnJob) => j.die == d).map ChurnJob.bufsz).sum

/-- The churn area of a die holds what is in use. -/
def Hub.churnRoom (h : Hub) (d : Nat) : Bool := decide (h.churnUsed d ≤ (h.die d).store.churnBytes)

/-- The engine that takes a new churned use of a channel: its quadrant's while that is in service, else the next of the others
in ascending order (R269, R410). -/
def Hub.churnEngine (h : Hub) (c : Nat) : Nat :=
  let own := chQuad c % 4
  let up (e : Nat) : Bool := (h.die (chDie c)).churn.engines.getD e false
  if up own then own else ((List.range 4).find? fun e => up e).getD own

/-- A use at its start (R281, R282). -/
def ChurnUse.new (eng mode : Nat) : ChurnUse :=
  { eng := eng, mode := mode, block := [], first := 0, firstAt := 0, lastAt := 0, history := [], depth := 0, y := [], fresh := true, restore := none,
    restored := false, save := [], leaving := false }

/-! ## CHURN_SET, CHURN_CFG_SET -/

/-- Sets the mode of one use: a segment ends where the mode changes (R281, R290). -/
def Hub.churnMode (raw : Bool) (mode c : Nat) (h : Hub) : Hub :=
  match (h.ch c).use raw with
  | some u =>
    if u.mode = mode ∧ !u.leaving then h
    else
      let h := (h.churnBreak raw c).churnCapture raw c (h.nextSample raw c)
      if mode = 0 then h.setCh c (Chan.setUse raw none)
      else h.setCh c fun x => x.setUse raw ((x.use raw).map fun u =>
        { u with mode := mode, eng := if u.leaving then h.churnEngine c else u.eng, leaving := false })
  | none =>
    if mode = 0 then h else h.setCh c (Chan.setUse raw (some (ChurnUse.new (h.churnEngine c) mode)))

/-- CHURN_SET (R189, R269 to R271); a mode that raises the RAW load above what its ports carry is refused (R32). -/
def Hub.churnSet (h : Hub) (use' mode : Nat) (chs : List Nat) : Hub :=
  let raw := use' == 0
  if 1 < use' ∨ 4 < mode ∨ h.badChs chs then h.refuse St.badArg
  else h.onDies (chs.map chDie)
    (let ds := (chs.map chDie).eraseDups
     let bad (c : Nat) : Bool := mode != 0 && ((!raw && (h.ch c).latest.words == 2) || (h.die (chDie c)).store.churnBytes == 0)
     let g := forAll chs (Hub.churnMode raw mode) h
     let tooMuch (d : Nat) : Bool := mode != 0 && (!g.churnRoom d || (List.range 4).any fun e => !churnFits (g.churnLoad d e))
     let grows (k : FlowKey) : Bool := decide ((h.rawLoad k).1 * (g.rawLoad k).2 < (g.rawLoad k).1 * (h.rawLoad k).2)
     let noPlan := raw && h.rawFlows.any grows && (g.rawPlan g.rawUp g.rawFlows.length).isNone
     h.checked [(St.badArg, (chs.filter bad).map chDie), (St.budget, ds.filter tooMuch ++ noDie noPlan)]
       (let g := forAll ds (fun d h => h.reSweep d) g
        (if raw then g.rawReassign else g).ok []))

/-- CHURN_CFG_SET (R272). -/
def Hub.churnCfgSet (h : Hub) (dies : List Nat) (w : Word) : Hub :=
  h.onMask dies (fun _ => if onlyBits w 1 then none else some St.badArg) fun ds =>
    ({ h with dies := modAll h.dies ds fun _ x => { x with churn := { x.churn with cfg := w } } }).ok []

/-- CHURN_CFG_GET (R272). -/
def Hub.churnCfgGet (h : Hub) (dies : List Nat) : Hub :=
  h.readMask dies fun ds => h.ok (ds.flatMap fun d => be 4 (h.die d).churn.cfg.toNat)

/-! ## Saved states (R293, R394) -/

/-- The first number from `n` on, from 1 to `top`, that none of a list has. -/
def freeNumber (top n : Nat) (usedNow : List Nat) : Nat :=
  (((List.range (usedNow.length + 1)).map fun i => (n + i - 1) % top + 1).find? fun k => !usedNow.contains k).getD n

/-- A new saved state on a die: its handle is the next that is free (log entry 20). -/
def Hub.newState (h : Hub) (d use' : Nat) (img : Bytes) (complete : Bool) : Hub × Nat :=
  let n := freeNumber 65534 h.nextHandle (h.saved.map fun (x : SavedChurn) => x.handle)
  ({ h with saved := h.saved ++ [⟨n, d, use', img, complete⟩], nextHandle := n % 65534 + 1 }, n)

def Hub.findState (h : Hub) (n : Nat) : Option SavedChurn := h.saved.find? fun (x : SavedChurn) => x.handle == n

/-- The sample index of the next block of a churned stream (R293). -/
def Hub.nextBlock (h : Hub) (raw : Bool) (c : Nat) : Nat :=
  match (h.ch c).use raw with
  | some u => if u.block.isEmpty then h.nextSample raw c else u.first + 64
  | none => 0

/-- CHURN_SAVE (R293): the state is stored at the next block boundary. -/
def Hub.churnSave (h : Hub) (c use' : Nat) : Hub :=
  let raw := use' == 0
  if h.nChans ≤ c ∨ 1 < use' then h.refuse St.badArg
  else h.onDies [chDie c]
    (match (h.ch c).use raw with
     | none => h.refuse St.badArg
     | some u =>
       let (g, n) := h.newState (chDie c) use' [] false
       if !g.churnRoom (chDie c) then h.refuse St.budget
       else
         let next := h.nextBlock raw c
         (g.setCh c (Chan.setUse raw (some { u with save := u.save ++ [n] }))).ok (be 2 n ++ pad 2 ++ be 8 next))

/-- CHURN_STATE_CAPTURE (R293): at a block boundary what was asked for is stored. -/
def Hub.churnStateCapture (h : Hub) (c use' : Nat) : Hub :=
  let raw := use' == 0
  match (h.ch c).use raw with
  | some u => if u.block.isEmpty then h.churnCapture raw c (h.nextSample raw c) else h
  | none => h

/-- Milliseconds until the block boundary at which a state is stored, at least 1. -/
def Hub.saveMs (h : Hub) (n : Nat) : Nat :=
  let wait (raw : Bool) (c : Nat) : Option Nat :=
    match (h.ch c).use raw with
    | some u =>
      if u.save.contains n then
        let d := (h.ch c).desc
        let left := 64 - u.block.length
        some (if raw then ceilDiv (left * d.nDiv) 125000 else ceilDiv (left * d.rate.2 * 1000) d.rate.1)
      else none
    | none => none
  max 1 (((List.range h.nChans).findSome? fun c => (wait true c).orElse fun _ => wait false c).getD 1)

/-- CHURN_STATE_READ (R293, R394). -/
def Hub.churnStateRead (h : Hub) (n off count : Nat) : Hub :=
  match h.findState n with
  | none => h.refuse St.notFound
  | some s =>
    if 4080 < count then h.refuse St.badArg
    else if !s.complete then h.busy (h.saveMs n)
    else h.ok ((s.image.drop off).take count)

/-- CHURN_STATE_WRITE (R394): handle 0xFFFF allocates a state on the lowest die with room (log entry 47). -/
def Hub.churnStateWrite (h : Hub) (n use' off : Nat) (data : Bytes) : Hub :=
  let put (img : Bytes) : Bytes := img.take off ++ data ++ img.drop (off + data.length)
  if n = 0xFFFF then
    if 1 < use' ∨ 4072 < data.length ∨ stateBytes (use' == 0) < off + data.length then h.refuse St.badArg
    else
      let img := (List.range (stateBytes (use' == 0))).map (Config.scratchByte h.fresh)
      match (List.range h.nDies).find? (fun d => !h.dieDown d && ((h.newState d use' img true).1).churnRoom d) with
      | none => h.refuse St.budget
      | some d =>
        let (g, k) := h.tick.newState d use' (put img) true
        g.ok (be 2 k ++ pad 2)
  else match h.findState n with
    | none => h.refuse St.notFound
    | some s =>
      if 4072 < data.length ∨ stateBytes (s.use' == 0) < off + data.length then h.refuse St.badArg
      else if !s.complete then h.ok (be 2 n ++ pad 2)
      else ({ h with saved := h.saved.map fun (x : SavedChurn) => if x.handle = n then { x with image := put x.image } else x }).ok
        (be 2 n ++ pad 2)

/-- The CRC and SRC of an image fit a stream (R293). -/
def imageOk (raw : Bool) (img : Bytes) : Bool :=
  img.length == stateBytes raw && unbe ((img.drop 1).take 1) == (if raw then 0 else 1) &&
    unbe ((img.drop 28).take 4) == (crc32 (img.take 28 ++ img.drop 32)).toNat

/-- CHURN_RESTORE (R293, R394): a later restore replaces one that has not reached its block. -/
def Hub.churnRestore (h : Hub) (c use' n : Nat) : Hub :=
  let raw := use' == 0
  if h.nChans ≤ c ∨ 1 < use' then h.refuse St.badArg
  else h.onDies [chDie c]
    (match h.findState n, (h.ch c).use raw with
     | none, _ => h.refuse St.notFound
     | some _, none => h.refuse St.badArg
     | some s, some u =>
       if !imageOk raw s.image then h.refuse St.badArg
       else (h.setCh c (Chan.setUse raw (some { u with restore := some s.image }))).ok [])

/-- CHURN_STATE_FREE (R293). -/
def Hub.churnStateFree (h : Hub) (n : Nat) : Hub :=
  match h.findState n with
  | none => h.refuse St.notFound
  | some _ => ({ h with saved := h.saved.filter fun (x : SavedChurn) => x.handle != n }).ok []

/-! ## Decoding a coach (R203, R292) -/

/-- The blocks of a churned payload from block `i` at byte `o` on: decoded samples, and the error that ends them (R292). -/
def decodeBlocks (raw : Bool) (mode n : Nat) : (blocks i o : Nat) → List (List Sample) → Nat → List Int → Bytes →
    List Sample → List Sample × Option (Nat × Nat × Nat)
  | 0, _, _, _, _, _, _, out => (out, none)
  | k + 1, i, o, hist, depth, y, b, out =>
    let m := min 64 (n - 64 * i)
    match decodeBlock raw mode m hist depth y b with
    | .bad e bit => (out, some (e.code, i, o + bit / 8))
    | .good x =>
      let size := if mode ≤ 3 then budget raw mode else x.size
      decodeBlocks raw mode n k (i + 1) (o + size) ((x.samples :: hist).take 64) (min 64 ((if x.fresh then 0 else depth) + 1))
        (((x.samples.reverse.map Prod.fst) ++ y).take 3) (b.drop size) (out ++ x.samples)

/-- A coach's stored samples as a DECODE job gives them, and the error that ends them: the words of R294, decoded from the
payload for a churned coach (R203; log entry 48). -/
def Coach.decoded (c : Coach) : List Bytes × Option (Nat × Nat × Nat) :=
  let raw := c.src == 0
  if c.churn = 0 then
    let b := c.delivered
    let w := if raw then 2 else if c.twoWord then 8 else 4
    let word (i : Nat) (s : StoredSample) : Bytes :=
      let x := (b.drop (i * w)).take w
      if !raw then x
      else
        let u := unbe x
        let v := if s.fmt.testBit 0 then u / 4 else u % 16384
        let orF := if s.fmt.testBit 0 then u / 2 % 2 else u / 16384 % 2
        let cl := if s.fmt.testBit 0 then u % 2 else u / 32768 % 2
        srcWord true (signed 14 (if s.fmt.testBit 1 then (v + 8192) % 16384 else v), orF * 2 + cl)
    (c.samples.mapIdx word, none)
  else
    let n := c.samples.length
    let r := decodeBlocks raw c.churn n (ceilDiv n 64) 0 0 [] 0 [] c.delivered []
    (r.1.map (srcWord raw), r.2)

/-! ## Jobs (R294, R295, R395) -/

def Hub.findJob (h : Hub) (n : Nat) : Option ChurnJob := h.jobs.find? fun (j : ChurnJob) => j.job == n

def Hub.setJob (h : Hub) (n : Nat) (f : ChurnJob → ChurnJob) : Hub :=
  { h with jobs := h.jobs.map fun (j : ChurnJob) => if j.job == n then f j else j }

/-- What an ENCODE job produces: blocks with FRESH and PZERO on the first (R294), each with whether a mismatch was counted (R288). -/
def Coach.jobBlocks (c : Coach) (fresh0 mode : Nat) : List (Nat × Bytes × Bool) :=
  let raw := c.src == 0
  ((pieces 64 c.churned).foldl (fun (acc : List (Nat × Bytes × Bool) × ChurnUse × Nat) b =>
    let (out, u, n) := acc
    let first := out.isEmpty
    let (bytes, miss) := encodeBlock n raw mode first first u.history u.depth u.y b
    let (hist, depth, y) := decodedOf raw mode u.history u.depth u.y b.length bytes
    (out ++ [(b.length, bytes, miss)], { u with history := hist, depth := depth, y := y }, n + 1))
    ([], ChurnUse.new 0 mode, fresh0)).1

/-- CHURN_JOB_START (R294, R395). DESIGN CHOICE (log entry 165): the engine that serves the coach's channel encodes, and its mismatches count there. -/
def Hub.churnJobStart (h : Hub) (coach op mode bufsz : Nat) : Hub :=
  match h.findCoach coach with
  | none => h.refuse St.notFound
  | some (d, c) => h.onDies [d]
    (if c.st = .free then h.refuse St.notFound
     else if 1 < op ∨ c.st ≠ .ready ∨ bufsz < 1024 ∨ 1048576 < bufsz ∨ (op = 0 ∧ (c.churn ≠ 0 ∨ mode = 0 ∨ 4 < mode ∨ c.twoWord)) ∨
         (op = 1 ∧ c.churn = 0) ∨ (h.die d).store.churnBytes = 0 then h.refuse St.badArg
     else if 8 ≤ h.jobs.length then h.tick.busy (Config.retryEstimate h.fresh 2)
     else
       let n := freeNumber 65535 h.nextJob (h.jobs.map fun (j : ChurnJob) => j.job)
       let dec := c.decoded
       let blocks := if op = 0 then c.jobBlocks h.fresh mode else []
       let bad := (blocks.filter fun b => b.2.2).length
       let todo := if op = 0 then blocks.map fun b => (b.1, b.2.1) else dec.1.map fun b => (1, b)
       let j : ChurnJob := ⟨n, d, coach, bufsz, todo, if op = 1 then dec.2 else none, [], 0, 0, 0⟩
       let g := { h with jobs := h.jobs ++ [j], nextJob := n % 65535 + 1, fresh := h.fresh + todo.length }
       if !g.churnRoom d then h.refuse St.budget
       else (iter (fun (g : Hub) => g.churnMismatch d (g.churnEngine c.ch)) bad g).ok (be 2 n ++ pad 2))

/-- CHURN_JOB_READ (R295, R395). -/
def Hub.churnJobRead (h : Hub) (n off count : Nat) : Hub :=
  match h.findJob n with
  | none => h.refuse St.notFound
  | some j =>
    if 4064 < count then h.refuse St.badArg
    else
      let e := if j.st = 3 then j.fail.getD (0, 0, 0) else (0, 0, 0)
      h.ok (be 1 j.st ++ be 1 e.1 ++ be 2 e.2.1 ++ be 4 e.2.2 ++ be 4 j.used ++ be 4 j.buf.length ++ (j.buf.drop off).take count)

/-- CHURN_JOB_RESUME (R295, R395). -/
def Hub.churnJobResume (h : Hub) (n bufsz : Nat) : Hub :=
  match h.findJob n with
  | none => h.refuse St.notFound
  | some j =>
    if j.st ≠ 1 ∨ bufsz < 1024 ∨ 1048576 < bufsz then h.refuse St.badArg
    else
      let g := h.setJob n fun j => { j with buf := [], bufsz := bufsz, st := 0 }
      if !g.churnRoom j.die then h.refuse St.budget else g.ok []

/-- CHURN_JOB_END (R295). -/
def Hub.churnJobEnd (h : Hub) (n : Nat) : Hub :=
  match h.findJob n with
  | none => h.refuse St.notFound
  | some _ => ({ h with jobs := h.jobs.filter fun (j : ChurnJob) => j.job != n }).ok []

/-- JOB_END (R295): a job left in OUT_FULL for 600 s ends with a record. -/
def Hub.jobEnd (h : Hub) (n : Nat) : Hub :=
  match h.findJob n with
  | none => h
  | some j =>
    if j.st ≠ 1 ∨ h.clk.elapsed < j.stoppedAt + 600000000000 then h
    else ({ h with jobs := h.jobs.filter fun (j : ChurnJob) => j.job != n }).notice unitHub 0x0702 (argN n) 0

/-- Moves output into a buffer while it takes the next piece. -/
def fillBuf (room : Nat) : List (Nat × Bytes) → Bytes → Nat → List (Nat × Bytes) × Bytes × Nat
  | [], b, u => ([], b, u)
  | p :: r, b, u => if b.length + p.2.length ≤ room then fillBuf room r (b ++ p.2) (u + p.1) else (p :: r, b, u)

/-- JOB_STOP (R292, R295). -/
def Hub.jobStop (h : Hub) (n : Nat) : Hub :=
  match h.findJob n with
  | none => h
  | some j =>
    if j.st ≠ 0 then h
    else
      let (todo, buf, used) := fillBuf j.bufsz j.todo j.buf j.used
      let st := if !todo.isEmpty then 1 else if j.fail.isSome then 3 else 2
      h.setJob n fun j => { j with todo := todo, buf := buf, used := used, st := st, stoppedAt := h.clk.elapsed }

/-! ## Meanings -/

/-- CHURN_SET (R269). -/
def execChurnSet (use mode : Nat) (chs : List Nat) (s : State) : Out := act s fun h => h.churnSet use mode chs
/-- CHURN_CFG_SET (R272). -/
def execChurnCfgSet (dies : List Nat) (w : Word) (s : State) : Out := act s fun h => h.churnCfgSet dies w
/-- CHURN_CFG_GET (R272). -/
def execChurnCfgGet (dies : List Nat) (s : State) : Out := act s fun h => h.churnCfgGet dies
/-- CHURN_SAVE (R293). -/
def execChurnSave (ch use : Nat) (s : State) : Out := act s fun h => h.churnSave ch use
/-- CHURN_STATE_CAPTURE (R293). -/
def execChurnStateCapture (ch use : Nat) (s : State) : Out := act s fun h => h.churnStateCapture ch use
/-- CHURN_STATE_READ (R394). -/
def execChurnStateRead (handle offset count : Nat) (s : State) : Out := act s fun h => h.churnStateRead handle offset count
/-- CHURN_STATE_WRITE (R394). -/
def execChurnStateWrite (handle use offset : Nat) (data : Bytes) (s : State) : Out :=
  act s fun h => h.churnStateWrite handle use offset data
/-- CHURN_RESTORE (R293). -/
def execChurnRestore (ch use handle : Nat) (s : State) : Out := act s fun h => h.churnRestore ch use handle
/-- CHURN_STATE_FREE (R293). -/
def execChurnStateFree (handle : Nat) (s : State) : Out := act s fun h => h.churnStateFree handle
/-- CHURN_JOB_START (R294). -/
def execChurnJobStart (coach : Word) (op mode bufsz : Nat) (s : State) : Out :=
  act s fun h => h.churnJobStart coach.toNat op mode bufsz
/-- CHURN_JOB_READ (R295). -/
def execChurnJobRead (job offset count : Nat) (s : State) : Out := act s fun h => h.churnJobRead job offset count
/-- CHURN_JOB_RESUME (R295). -/
def execChurnJobResume (job bufsz : Nat) (s : State) : Out := act s fun h => h.churnJobResume job bufsz
/-- CHURN_JOB_END (R295). -/
def execChurnJobEnd (job : Nat) (s : State) : Out := act s fun h => h.churnJobEnd job
/-- JOB_END (R295). -/
def execJobEnd (job : Nat) (s : State) : Out := act s fun h => h.jobEnd job
/-- JOB_STOP (R295). -/
def execJobStop (job : Nat) (s : State) : Out := act s fun h => h.jobStop job

end Sys2Proof.Machine
end

