-- ==== Sys2Proof/Machine/CapCmd.lean ====
section
/-! DEFINITION. The capture commands (07, Tables 14-7 and 14-8): arming, the directory and readout, the store's partition and
watermarks, reduction settings. -/

namespace Sys2Proof.Machine

/-! ## Arming (R192 to R198, R387) -/

/-- Parameters outside Table 07-3, or naming what the part lacks (R193). -/
def Hub.badCap (h : Hub) (p : CapParams) : Bool :=
  decide (31 < p.capture) || decide (1 < p.src) || decide (6 < p.decE) || decide (4 < p.churn) || decide (100 < p.prePct) ||
  decide (3 < p.opts) || decide (65535 < p.count) || decide (p.len < 16) || decide (65536 < p.len) ||
  !(p.port == 0 || h.plainPort p.port) || decide (255 < p.pins) || decide (65535 < p.kon) || h.badChs p.channels ||
  p.units.any (fun c => decide (h.nChans ≤ c)) || p.groups.any (fun g => decide (256 ≤ g))

/-- The refusals of R193 and R269 that look at the present state. -/
def Hub.capConflict (h : Hub) (p : CapParams) : List Nat :=
  noDie (h.cap p.capture).isSome ++ (p.channels.filter fun c =>
    (h.capOf c).isSome || (p.src == 1 && !(h.ch c).skimEn) ||
    (p.churn != 0 && (h.die (chDie c)).store.churnBytes == 0) ||
    (p.churn != 0 && p.src == 1 && (h.ch c).latest.words == 2)).map chDie

/-- The capture as armed, before it reserves anything: STEP 0 on each die (log entry 49). -/
def CapParams.armed (p : CapParams) : Capture :=
  { params := p, dies := (p.channels.map chDie).eraseDups.map fun d => ⟨d, 0, false, 0, 0⟩,
    chans := p.channels.map capChanInit, left := if p.count = 0 then none else some p.count, stopping := false,
    doneAt := none, missed := 0, made := 0, train := none, lastTrain := none }

/-- Puts the capture in place, with the churned uses of its channels (R269, R271). -/
def Hub.capInstall (h : Hub) (p : CapParams) : Hub :=
  let h := { h with caps := modAt h.caps p.capture fun _ => some (CapParams.armed p) }
  if p.churn = 0 then h
  else forAll p.channels (fun c h => h.setCh c fun x => { x with churnCap := some (ChurnUse.new (h.churnEngine c) p.churn) }) h

/-- What CAP_ARM exceeds: the channels' load, an empty coach area, a churn engine, the churn area or four COACH ports on a die (R193,
R237, R270, R271). -/
def Hub.capOver (h g : Hub) (p : CapParams) : List Nat :=
  let ds := (p.channels.map chDie).eraseDups
  (p.channels.filter fun c => loadAbove ((h.ch c).latest.load (h.ch c).skimEn (h.ch c).latestRed (some p.src)) 900).map chDie ++
  ds.filter fun d =>
    decide ((h.die d).store.coachKib <
      ((CapParams.on p d).map fun c => CapParams.coachKib p (h.ch c).desc 0 + CapParams.histKib p (h.ch c).desc 0 h.trg.lat).sum) ||
    (p.churn != 0 && (!g.churnRoom d || (List.range 4).any fun e => !churnFits (g.churnLoad d e))) ||
    (let ports := ((h.flows.filter fun f => f.key.die == d && f.key.kind == 4).map fun f => f.key.inst).eraseDups
     !ports.contains p.port && decide (4 ≤ ports.length))

/-- CAP_ARM (R193). -/
def Hub.capArm (h : Hub) (p : CapParams) : Hub :=
  if h.badCap p then h.refuse St.badArg
  else h.onDies (p.port / 4 :: (p.channels ++ p.units).map chDie)
    (let g := h.capInstall p
     h.checked [(St.badArg, h.capConflict p), (St.budget, h.capOver g p)]
       (let g := forAll (p.channels.map chDie).eraseDups (fun d h => h.needFlow (Hub.coachKey d p.port) (.port p.port)) g
        (g.reserve p.capture).ok []))

/-- CAP_DISARM (R198, R387): filling trains complete, or with ABORT end at once with CUT; reservations and history that no coach uses are released
at once, and captures that wait for room try again. -/
def Hub.capDisarm (h : Hub) (n abort : Nat) : Hub :=
  match h.cap n with
  | none => h.refuse St.notFound
  | some c => h.onDies c.dieList
    (let h := h.setCap n fun c => { c with stopping := true, dies := c.dies.map fun x => { x with reserved := 0, slots := 0, wait := false } }
     match c.train with
     | none => (h.disarm n).ok []
     | some t => if abort = 0 then (forAll c.dieList (fun d h => h.retryWait d) h).ok [] else (forAll t.open' (fun c h => h.cutCoach n c) h).ok [])

/-- CAP_TRIG at its boundary (R387): a source of class 3 with the action's id and its instant. -/
def Hub.capTrig (h : Hub) (n : Nat) (id : Word) (t : Nat) : Hub :=
  match h.cap n with
  | none => h.refuse St.notFound
  | some c =>
    if c.params.opts % 2 = 0 then h.refuse St.badArg
    else (h.fire h.boot.lead (0x3000 + id.toNat % 4096) t 0 0 0 0x00400000 fun p => p.capture == n).ok []

/-- CAP_STATUS (R192). -/
def Hub.capStatus (h : Hub) (n : Nat) : Hub :=
  if 31 < n then h.refuse St.badArg
  else match h.cap n with
    | none => h.ok (pad 12)
    | some c =>
      let get (d : Nat) : CapDie := (c.dies.find? fun x => x.die == d).getD ⟨d, 0, false, 0, 0⟩
      h.ok (be 1 1 ++ be 1 (ofBits ((List.range 8).filter fun d => (get d).wait)) ++ be 2 c.made ++
        (List.range 8).flatMap fun d => be 1 (get d).step)

/-- RESERVATION_RETRY (R194). -/
def Hub.retryAll (h : Hub) : Hub := forAll (List.range h.nDies) (fun d h => h.retryWait d) h

/-! ## Partition and watermarks (R188 to R190) -/

/-- Why a die refuses a partition (R189). DESIGN CHOICE (log entry 189): whatever the churn area holds is churn state, the history of a live churned
stream among it. -/
def Hub.partCheck (h : Hub) (w : Word) (d : Nat) : Option Nat :=
  let sp := fld w 27 16
  let cp := fld w 11 0
  let st := (h.die d).store
  let caps := (h.caps.filterMap id).filter fun c => c.dieList.contains d
  let chs := (List.range 128).map fun i => h.ch (128 * d + i)
  let churned := chs.any (fun c => c.churnRaw.isSome || c.churnSkim.isSome) || h.jobs.any (fun (j : ChurnJob) => j.die == d) ||
    caps.any (fun c => c.params.churn != 0)
  if !onlyBits w 0x0FFF0FFF || decide (sp < 64) || decide (3072 < sp + cp) || !(cp == 0 || (decide (130 ≤ cp) && decide (cp ≤ 512))) then
    some St.badArg
  else if cp = 0 ∧ churned then some St.badArg
  else if !caps.isEmpty || st.coaches.any (fun c => c.st != .free) ||
      decide ((sp - st.lostSpool) * 16384 < h.spoolBytes d) || decide (0 < h.churnUsed d) then some St.busy
  else none

/-- CAP_PART_SET (R188, R189): BUSY carries 100 ms. -/
def Hub.capPartSet (h : Hub) (dies : List Nat) (w : Word) : Hub :=
  let g := h.onMask dies (h.partCheck w) fun ds =>
    (forAll ds (fun d h => h.flowTouch d)
      { h with dies := modAll h.dies ds fun _ x => { x with store := { x.store with part := w } } }).ok []
  if g.mgmt.reply.status = St.busy then g.withReply { g.mgmt.reply with retry := 100 } else g

/-- CAP_PART_GET (R188). -/
def Hub.capPartGet (h : Hub) (dies : List Nat) : Hub :=
  h.readMask dies fun ds => h.ok (ds.flatMap fun d => be 4 (h.die d).store.part.toNat)

/-- CAP_WM_SET (R190). -/
def Hub.capWmSet (h : Hub) (dies : List Nat) (w : Word) : Hub :=
  let bad (hi lo : Nat) : Bool := decide (lo < 1) || decide (hi ≤ lo) || decide (100 < hi)
  h.onMask dies (fun _ => if bad (fld w 31 24) (fld w 23 16) || bad (fld w 15 8) (fld w 7 0) then some St.badArg else none) fun ds =>
    ({ h with dies := modAll h.dies ds fun _ x => { x with store := { x.store with wm := w } } }).ok []

/-- CAP_WM_GET (R190). -/
def Hub.capWmGet (h : Hub) (dies : List Nat) : Hub :=
  h.readMask dies fun ds => h.ok (ds.flatMap fun d => be 4 (h.die d).store.wm.toNat)

/-! ## The directory and readout (R202, R203, R388, R389) -/

/-- A CAP_LIST that breaks a rule of R388 or R379. -/
def Hub.badQuery (h : Hub) (q : CapQuery) : Bool :=
  Instant.bad q.timeFrom || Instant.bad q.timeTo || (decide (31 < q.capture) && q.capture != 0xFF) ||
    (decide (h.nChans ≤ q.ch) && q.ch != 0xFFFF) || decide (15 < q.states) || decide (1 < q.trainAny)

/-- A coach meets a query's filters (R388). -/
def CapQuery.takes (q : CapQuery) (d : Nat) (c : Coach) : Bool :=
  (q.after == 0xFFFFFFFF || decide (q.after.toNat < c.id d)) && (q.capture == 0xFF || q.capture == c.capture) &&
  q.states.testBit c.st.code && (q.ch == 0xFFFF || q.ch == c.ch) && (q.trainAny == 1 || q.trainId == c.trainId) &&
  decide (Instant.fu q.timeFrom ≤ c.stamp) && (Instant.fu q.timeTo == 0 || decide (c.stamp ≤ Instant.fu q.timeTo))

/-- The coaches of a die in ascending COACH_ID. -/
def Hub.coachesOf (h : Hub) (d : Nat) : List Coach :=
  let l := (h.die d).store.coaches
  (sortNat (l.map fun c => c.seq % 2 ^ 29)).filterMap fun n => l.find? fun c => c.seq % 2 ^ 29 == n

/-- CAP_LIST (R388). -/
def Hub.capList (h : Hub) (dies : List Nat) (q : CapQuery) : Hub :=
  let run := h.overMask (fun d => !(h.die d).inService) dies (fun _ => if h.badQuery q then some St.badArg else none) fun ds =>
    h.ok ((((ds.flatMap fun d => (h.coachesOf d).map fun c => (d, c)).filter fun p => CapQuery.takes q p.1 p.2).take 170).flatMap
      fun p => p.2.entry p.1)
  if q.ch != 0xFFFF && decide (q.ch < h.nChans) then h.onDies [chDie q.ch] run else run

/-- Milliseconds until the last stored sample of a filling coach, at least 1 (R203). -/
def Hub.fillMs (h : Hub) (c : Coach) : Nat :=
  let d := (h.ch c.ch).desc
  let last := srcInst c.src d (c.first + (c.len - 1) * 2 ^ (c.decE + c.step))
  max 1 (ceilDiv (last - h.tm.now) 1024000000)

/-- CAP_READ (R203, R389, R292). -/
def Hub.capRead (h : Hub) (id off count decode : Nat) : Hub :=
  match h.findCoach id with
  | none => h.refuse St.notFound
  | some (d, c) => h.onDies [d]
    (if 1 < decode ∨ (if decode = 1 then 4072 else 4080) < count then h.refuse St.badArg
     else match c.st with
       | .free => h.refuse St.notFound
       | .filling => h.busyDie (h.fillMs c) d
       | _ =>
         if decode = 0 then h.ok (((c.bytes d).drop off).take count)
         else
           let r := c.decoded
           let e := r.2.getD (0, 0, 0)
           h.ok (be 1 e.1 ++ pad 1 ++ be 2 e.2.1 ++ be 4 e.2.2 ++ ((r.1.flatten).drop off).take count))

/-- A coach is held by a churn job (R294). -/
def Hub.inJob (h : Hub) (id : Nat) : Bool := h.jobs.any fun (j : ChurnJob) => j.coach == id

/-- The named coaches with their dies; none where one is unknown or free. -/
def Hub.allCoaches (h : Hub) (ids : List Word) : Option (List (Nat × Coach)) :=
  ids.foldr (fun w acc => match acc, h.findCoach w.toNat with
    | some l, some p => if p.2.st = .free then none else some (p :: l)
    | _, _ => none) (some [])

/-- CAP_FREE (R203, R389). -/
def Hub.capFree (h : Hub) (ids : List Word) : Hub :=
  match h.allCoaches ids with
  | none => h.refuse St.notFound
  | some l => h.onDies (l.map Prod.fst)
    (let held (p : Nat × Coach) : Bool := h.inJob (p.2.id p.1)
     let busy := l.filter fun p => held p || p.2.st == .sending
     h.checked [(St.badArg, (l.filter fun p => p.2.st == .filling).map Prod.fst)]
       (match leastOf (busy.map Prod.fst) with
        | some d => h.busyDie (if l.any held then 1000 else 100) d
        | none =>
          let g := forAll l (fun p h => h.freeCoach p.1 p.2.seq) h
          (forAll (l.map Prod.fst).eraseDups (fun d h => h.retryWait d) g).ok []))

/-- CAP_SEND (R201, R203, R389). -/
def Hub.capSend (h : Hub) (ids : List Word) : Hub :=
  match h.allCoaches ids with
  | none => h.refuse St.notFound
  | some l => h.onDies (l.map Prod.fst)
    (h.checked [(St.badArg, (l.filter fun p => p.2.st != .ready).map Prod.fst)]
      (let g := forAll l (fun p h => h.setCoach p.1 p.2.seq fun c => { c with sendWanted := true }) h
       (forAll (l.map Prod.fst).eraseDups (fun d h => (h.sendWanted d).flowTouch d) g).ok []))

/-! ## Reduction settings (R205) -/

/-- CAP_RED_SET (R65, R205, R208). -/
def Hub.capRedSet (h : Hub) (chs : List Nat) (w : Word) (notBefore : Nat) : Hub :=
  if h.badChs chs then h.refuse St.badArg
  else h.onDies (chs.map chDie)
    (let tooMuch (c : Nat) : Bool := loadAbove ((h.ch c).latest.load (h.ch c).skimEn w (h.capSrc c)) 900
     h.checked [(St.badArg, (chs.filter fun c => (h.ch c).latest.badRed w).map chDie), (St.budget, (chs.filter tooMuch).map chDie)]
      ((forAll chs (fun c g => g.accept c ⟨none, none, some w, notBefore, [], false, h.mgmt.accepts⟩) h).ok []))

/-- CAP_RED_GET (R205): the held word while one waits under R66. -/
def Hub.capRedGet (h : Hub) (c : Nat) : Hub :=
  if h.nChans ≤ c then h.refuse St.badArg
  else h.onDies [chDie c] (h.ok (be 4 (((h.ch c).held.bind (·.red)).getD (h.ch c).appliedRed).toNat))

/-! ## Meanings -/

/-- CAP_ARM (R193). -/
def execCapArm (p : CapParams) (s : State) : Out := act s fun h => h.capArm p
/-- CAP_DISARM (R198). -/
def execCapDisarm (capture abort : Nat) (s : State) : Out := act s fun h => h.capDisarm capture abort
/-- CAP_TRIG (R387): its execution at the present instant, outside any scheduled action with an id of 0. -/
def execCapTrig (capture : Nat) (s : State) : Out := act s fun h => h.capTrig capture 0 h.tm.now
/-- CAP_STATUS (R192). -/
def execCapStatus (capture : Nat) (s : State) : Out := act s fun h => h.capStatus capture
/-- CAP_PART_SET (R189). -/
def execCapPartSet (dies : List Nat) (w : Word) (s : State) : Out := act s fun h => h.capPartSet dies w
/-- CAP_PART_GET (R188). -/
def execCapPartGet (dies : List Nat) (s : State) : Out := act s fun h => h.capPartGet dies
/-- CAP_WM_SET (R190). -/
def execCapWmSet (dies : List Nat) (w : Word) (s : State) : Out := act s fun h => h.capWmSet dies w
/-- CAP_WM_GET (R190). -/
def execCapWmGet (dies : List Nat) (s : State) : Out := act s fun h => h.capWmGet dies
/-- CAP_LIST (R388). -/
def execCapList (dies : List Nat) (q : CapQuery) (s : State) : Out := act s fun h => h.capList dies q
/-- CAP_READ (R203). -/
def execCapRead (coach : Word) (offset count decode : Nat) (s : State) : Out :=
  act s fun h => h.capRead coach.toNat offset count decode
/-- CAP_FREE (R389). -/
def execCapFree (coaches : List Word) (s : State) : Out := act s fun h => h.capFree coaches
/-- CAP_SEND (R389). -/
def execCapSend (coaches : List Word) (s : State) : Out := act s fun h => h.capSend coaches
/-- CAP_RED_SET (R205). -/
def execCapRedSet (chs : List Nat) (w : Word) (s : State) : Out := act s fun h => h.capRedSet chs w (h.boundsFrom none)
/-- CAP_RED_GET (R205). -/
def execCapRedGet (ch : Nat) (s : State) : Out := act s fun h => h.capRedGet ch
/-- RESERVATION_RETRY (R194). -/
def execReservationRetry (s : State) : Out := act s Hub.retryAll

end Sys2Proof.Machine
end

