-- ==== Sys2Proof/Machine/Separator.lean ====
section
/-! DEFINITION. The separator (08, Table 14-9): matrix loads and switches, the modal tick, modal frames. -/

namespace Sys2Proof.Machine

/-! ## Configuration (R213, R228, R234) -/

/-- A tick in units of 1/1,024 ns (R213). -/
def Sep.tickFu (s : Sep) : Nat := s.tick.toNat * fuCycle

/-- EN as it acts at an instant (R234). -/
def Sep.en (s : Sep) (t : Nat) : Bool := if t < s.enFrom then s.enWas else bitOf s.ctl 31

/-- ORIG as it acts at an instant (R234). -/
def Sep.origAt (s : Sep) (t : Nat) : Bool := bitOf (if t < s.cfgFrom then s.ctlWas else s.ctl) 30

/-- The deadline of the tick that stands at an instant (R228, R234). -/
def Sep.deadline (s : Sep) (t : Nat) : Nat := t + fld (if t < s.cfgFrom then s.waitWas else s.wait) 23 0 * 1024

/-- FB_XF as it acts at an instant (R234). -/
def Sep.fbXf (s : Sep) (t : Nat) : Nat := fld (if t < s.cfgFrom then s.fbWas else s.fb) 15 0

/-- The first tick of a period after an instant. -/
def tickAfter (period t : Nat) : Nat := t / period + 1

/-- The tick at which a request acts: the first after acceptance, or ceil(T / tick period) of a scheduled action, unless that tick has
passed (R122, R222). -/
def actTick (period now : Nat) : Option Nat → Nat
  | none => tickAfter period now
  | some t => if now ≤ ceilDiv t period * period then ceilDiv t period else tickAfter period now

/-- Chain position (Table 08-4). -/
def Sep.pos (s : Sep) : Nat := fld s.ctl 5 0

/-- Words that break R213, R228, R234 or R215. -/
def Hub.badSepCfg (h : Hub) (ctl tick wait fb : Word) : Bool :=
  !onlyBits ctl 0xC000003F || !onlyBits wait 0x00FFFFFF || !onlyBits fb 0x0000FFFF || decide (tick.toNat < 1250) ||
  decide (125000000 < tick.toNat) || decide (wait.toNat < 3500) || decide (63 * 8 * tick.toNat ≤ wait.toNat) ||
  (bitOf h.sep.ctl 31 && (tick != h.sep.tick || fld ctl 5 0 != h.sep.pos)) ||
  (List.range h.nDies).any fun d => !h.sepDieOk tick.toNat d

/-- SEP_CFG_SET (R234): EN, WAIT, ORIG and FB_XF act from the first tick after acceptance, or a scheduled action's tick; a gated
quadrant's engines need 1 ms from acceptance (log entry 53). The counters clear when EN goes from 0 to 1 (R390). -/
def Hub.sepCfgSet (h : Hub) (ctl tick wait fb : Word) (t : Option Nat) (accepted : Nat) : Hub :=
  if h.badSepCfg ctl tick wait fb then h.refuse St.badArg
  else
    let s := h.sep
    let was := s.en h.tm.now
    let on := bitOf ctl 31 && !bitOf s.ctl 31
    let gated := h.dies.any fun x => x.inService && x.quads.any not
    let p := tick.toNat * fuCycle
    let first := actTick p h.tm.now t
    let from' := if bitOf ctl 31 = bitOf s.ctl 31 then s.enFrom
      else (if on && gated then max first (ceilDiv (accepted + 1024000000) p) else first) * p
    let open' := decide (h.tm.now < s.cfgFrom)
    let s := { s with
      ctl := ctl, tick := tick, wait := wait, fb := fb, enFrom := from', enWas := if bitOf ctl 31 = bitOf s.ctl 31 then s.enWas else was,
      cfgFrom := first * p, ctlWas := if open' then s.ctlWas else s.ctl, waitWas := if open' then s.waitWas else s.wait,
      fbWas := if open' then s.fbWas else s.fb }
    let s := if on then { s with warm := true, ticks := [], lateIn := 0, mismatch := 0, timeouts := 0, replays := 0, posClash := 0 }
      else s
    ({ h with sep := s }).ok []

/-- SEP_CFG_GET (R234). -/
def Hub.sepCfgGet (h : Hub) : Hub :=
  h.ok (be 4 h.sep.ctl.toNat ++ be 4 h.sep.tick.toNat ++ be 4 h.sep.wait.toNat ++ be 4 h.sep.fb.toNat)

/-! ## Loads and switches (R217 to R222, R390) -/

/-- The next tick after an instant. -/
def Hub.nextTick (h : Hub) : Nat := h.tm.now / h.sep.tickFu + 1

/-- Milliseconds until the fade of a die that runs or is pending ends, at least 1 (R220). -/
def Hub.sepFadeMs (h : Hub) (d : Nat) : Nat :=
  let x := (h.die d).sep
  let ends := (x.fade.map fun f => f.start + f.len).orElse fun _ => x.pend.map fun w => w.start.getD h.nextTick + w.len
  match ends with
  | none => 1
  | some e => max 1 (ceilDiv (e * h.sep.tickFu - h.tm.now) 1024000000)

/-- A switch is pending or a fade runs (R220, R222). -/
def SepDie.busy (s : SepDie) : Bool := s.pend.isSome || s.fade.isSome

/-- The set that SET of SEP_LOAD names: 1 SHADOW, 2 to 5 the fallbacks. -/
def SepDie.load (s : SepDie) (set : Nat) : SepSet := if set = 1 then s.shadow else s.fb.getD (set - 2) SepSet.empty

def SepDie.store (s : SepDie) (set : Nat) (v : SepSet) : SepDie :=
  if set = 1 then { s with shadow := v } else { s with fb := modAt s.fb (set - 2) fun _ => v }

/-- Puts a row into a set in ascending row order. -/
def insertRow (n : Nat) (r : SepRow) : List (Nat × SepRow) → List (Nat × SepRow)
  | [] => [(n, r)]
  | p :: l => if n < p.1 then (n, r) :: p :: l else if n = p.1 then (n, r) :: l else p :: insertRow n r l

/-- The set as a load leaves it (R219). -/
def SepSet.write (s : SepSet) : SepLoadOp → SepSet
  | .header rows mgen key => ⟨rows, mgen, key, []⟩
  | .rows first rs => { s with data := (rs.mapIdx fun i r => (first + i, r)).foldl (fun l p => insertRow p.1 p.2 l) s.data }

/-- A load that breaks R217 to R220 or R390 for a set. -/
def SepSet.badLoad (s : SepSet) (set : Nat) : SepLoadOp → Bool
  | .header rows mgen key => decide (rows = 0) || decide (256 < rows) || decide (255 < mgen) || key.any (fun c => decide (128 ≤ c))
  | .rows first rs =>
    rs.isEmpty || decide (15 < rs.length) || decide (s.rows < first + rs.length) ||
    rs.any fun (r : SepRow) => r.coef.length != 128 || decide (r.exp < -64) || decide (8 < r.exp) || SepRow.tooLarge r ||
      (set != 1 && s.key.any fun c => r.coef.getD c 0 != 0)

/-- Why a die refuses a load (R215, R220). -/
def Hub.loadCheck (h : Hub) (set : Nat) (op : SepLoadOp) (d : Nat) : Option Nat :=
  let x := (h.die d).sep
  let s := x.load set
  if set = 0 ∨ 5 < set ∨ s.badLoad set op then some St.badArg
  else if !(h.setDie d fun y => { y with sep := x.store set (s.write op) }).sepDieOk h.sep.tick.toNat d then some St.badArg
  else if set = 1 ∧ x.busy then some St.busy
  else none

/-- SEP_LOAD (R219, R220, R390). -/
def Hub.sepLoad (h : Hub) (dies : List Nat) (set : Nat) (op : SepLoadOp) : Hub :=
  let g := h.onMask dies (h.loadCheck set op) fun ds =>
    ({ h with dies := modAll h.dies ds fun _ x => { x with sep := x.sep.store set ((x.sep.load set).write op) } }).ok []
  if g.mgmt.reply.status = St.busy then g.withReply { g.mgmt.reply with retry := h.sepFadeMs g.mgmt.reply.failDie } else g

/-- Why a die refuses a switch (R222); the switch of a scheduled action does not stand in its own way. -/
def Hub.switchCheck (h : Hub) (xf : Nat) (job : Option Word) (d : Nat) : Option Nat :=
  let x := (h.die d).sep
  let mine : Bool := match x.pend with | some w => w.job.isSome && w.job == job | none => false
  if !x.shadow.complete then some St.notFound
  else if 65535 < xf ∨ (0 < xf ∧ x.active.rows ≠ x.shadow.rows) then some St.badArg
  else if x.fade.isSome ∨ (x.pend.isSome ∧ !mine) then some St.busy
  else none

/-- SEP_SWITCH (R222): pending until the next tick, or a scheduled action's; the first tick after acceptance where that has passed
(R122). -/
def Hub.sepSwitch (h : Hub) (dies : List Nat) (xf : Nat) (t : Option Nat) (job : Option Word) : Hub :=
  let start := t.map fun v => actTick h.sep.tickFu h.tm.now (some v)
  let g := h.onMask dies (h.switchCheck xf job) fun ds =>
    ({ h with dies := modAll h.dies ds fun _ x => { x with sep := { x.sep with pend := some ⟨start, xf, none⟩ } } }).ok []
  if g.mgmt.reply.status = St.busy then g.withReply { g.mgmt.reply with retry := h.sepFadeMs g.mgmt.reply.failDie } else g

/-- A scheduled switch is pending from its acceptance (R222). -/
def Hub.sepPends (h : Hub) (dies : List Nat) (xf t : Nat) (id : Word) : Hub :=
  { h with dies := modAll h.dies (h.named dies) fun _ x =>
      { x with sep := { x.sep with pend := some ⟨some (actTick h.sep.tickFu h.tm.now (some t)), xf, some id⟩ } } }

/-! ## Fallbacks (R221) -/

/-- The retired columns of a die (R235). -/
def Hub.retCols (h : Hub) (d : Nat) : List Nat := (List.range 128).filter fun c => (h.ch (128 * d + c)).retired.isSome

/-- RET_d of a die (R221). -/
def Hub.retMask (h : Hub) (d : Nat) : List Nat :=
  (h.die d).sep.active.columns.filter fun c => (h.ch (128 * d + c)).retired.isSome

/-- The selection for a set of retired columns: 0 for ACTIVE (R221). -/
def SepDie.choose (s : SepDie) (ret : List Nat) : Nat :=
  if ret.isEmpty then 0
  else
    let ok := (List.range 4).filter fun i =>
      let f := s.fb.getD i SepSet.empty
      f.complete && f.mgen == s.active.mgen && f.rows == s.active.rows && ret.all fun c => f.key.contains c
    let size (i : Nat) : Nat := (s.fb.getD i SepSet.empty).key.length
    match ok with
    | [] => 0
    | a :: r => (r.foldl (fun b i => if size i < size b then i else b) a) + 1

/-! ## The tick (R213 to R216, R221, R222, R232, R235) -/

/-- Ends a fade whose last tick has passed (R222): after a switch the former ACTIVE is the SHADOW. -/
def SepDie.endFade (s : SepDie) (j : Nat) : SepDie :=
  match s.fade with
  | none => s
  | some f =>
    if j < f.start + f.len then s
    else if f.switch then
      { s with active := s.shadow, shadow := if s.active.data.isEmpty then SepSet.empty else s.active, sel := 0, fade := none }
    else { s with sel := f.fbNew, fade := none }

/-- Tick j of a die's fades: one that is over ends, and a pending switch starts at its tick; with XF_LEN 0 it is over at once (R222).
A scheduled switch starts only when its action has been carried out. -/
def SepDie.advance (s : SepDie) (j : Nat) : SepDie :=
  let s := s.endFade j
  match s.pend with
  | none => s
  | some w =>
    if w.job.isSome ∨ j < w.start.getD j ∨ s.fade.isSome then s
    else SepDie.endFade { s with pend := none, fade := some ⟨w.start.getD j, w.len, true, 0, 0⟩ } j

/-- Moves to the selection of the present retired columns while no fade runs (R221). -/
def SepDie.reselect (s : SepDie) (j xf : Nat) (ret : List Nat) : SepDie :=
  match s.fade with
  | some _ => s
  | none =>
    let want := s.choose ret
    if want = s.sel then s
    else if xf = 0 then { s with sel := want }
    else { s with fade := some ⟨j, xf, false, s.sel, want⟩ }

/-- The skim sample of a channel at an instant: among the last ones, or among those whose raw samples still wait for their CM state. DESIGN CHOICE
(log entry 54): such a sample has the CM flag that is known at the tick. -/
def Hub.sampleAt (h : Hub) (c t : Nat) : Option (Int × Byte) :=
  let x := h.ch c
  match x.skims.find? fun s => s.1 == t with
  | some s => some s.2
  | none =>
    if x.unsettled.isEmpty then none
    else (((h.settleRaw c x.unsettled.reverse).ch c).skims.find? fun s => s.1 == t).map Prod.snd

/-- The column inputs of a die for a tick instant: value and flags; 0 where no sample stands there or it carries RT (R214; log
entry 54). -/
def Hub.columnInputs (h : Hub) (d t : Nat) : List (Int × Byte) :=
  (List.range 128).map fun c =>
    match h.sampleAt (128 * d + c) t with
    | some (v, f) => (if f &&& flagRT != 0 then 0 else v, f)
    | none => (0, 0)

/-- What one die gives for a tick. -/
structure DieTick where
  /-- Partials; none where the die adds nothing. -/
  sums : Option (List Int)
  rows : Nat
  mgen : Nat
  fadeW : Nat
  alone : Bool
  flags : Byte
  reduced : Bool
  fb : Bool
  ret : Nat
  deriving DecidableEq, Repr

/-- The die's separator engines meet the ready time outside a fade (R409). -/
def SepDie.serves (s : SepDie) : Bool := decide (s.active.rows * 128 ≤ 9200 * s.engines)

/-- The partials of a die at tick j, with what the frame says of them (R217, R222, R233, R409). DESIGN CHOICE (log entry 191): where rows are loaded
to a fallback that a running FB_XF fade leaves, the fade's old side takes the rows that the set then has (R220). -/
def SepDie.at' (s : SepDie) (up : Bool) (j : Nat) (ret : List Nat) (x : List (Int × Byte)) : DieTick :=
  let vals := x.map Prod.fst
  let flagsOf (m : SepSet) : Byte := m.columns.foldl (fun a c => a ||| (x.getD c (0, 0)).2) 0
  let cap (f : Nat) : Bool := decide (s.active.rows * 128 * f ≤ 9200 * s.engines)
  let used := s.active.columns
  let (old, new, n, len) : SepSet × SepSet × Nat × Nat := match s.fade with
    | some f =>
      if f.switch then (s.setOf s.sel, s.shadow, j - f.start, f.len)
      else (s.setOf f.fbOld, s.setOf f.fbNew, j - f.start, f.len)
    | none => (s.setOf s.sel, s.setOf s.sel, 1, 1)
  let head := match s.fade with | some f => if f.switch then s.shadow else s.active | none => s.active
  let fading := decide (n < len)
  let alone := fading && !cap 2 && cap 1
  let can := if fading then cap 2 || cap 1 else cap 1
  let on := up && can
  let sums := if !fading || alone then new.partials vals else fadeSums (old.partials vals) (new.partials vals) n len
  let fb := s.sel != 0 || (match s.fade with | some f => !f.switch | none => false)
  { sums := if on then some (sums.take head.rows) else none, rows := head.rows, mgen := head.mgen,
    fadeW := if fading then n * 65535 / len else 65535, alone := alone,
    flags := if !fading || alone then flagsOf new else flagsOf old ||| flagsOf new,
    reduced := (!on && !used.isEmpty) || !ret.isEmpty || fb, fb := fb, ret := ret.length }

/-- Sum of row lists of differing lengths. -/
def addRows (a b : List Int) : List Int :=
  (List.range (max a.length b.length)).map fun r => a.getD r 0 + b.getD r 0

/-- The numbers of a set as n bytes in the CHMAP bit order (R379). -/
def chmapB (n : Nat) (l : List Nat) : Bytes :=
  (List.range n).map fun i => BitVec.ofNat 8 (ofBits ((List.range 8).filter fun b => l.contains (8 * i + b)))

/-- The fade state of R235. DESIGN CHOICE (log entry 190): a SHADOW that has a header or rows and is not complete has code 0. -/
def SepDie.fadeState (s : SepDie) (now : Nat) : Nat :=
  if s.fade.any fun f => decide (now < f.start + f.len) then 3
  else if s.pend.isSome then 2
  else if s.shadow.complete then 1 else 0

/-- The per-die part of SEP_STATUS (Table 14-9). -/
def Hub.sepPart (h : Hub) (d : Nat) : Bytes :=
  let s := (h.die d).sep
  let j := h.tm.now / h.sep.tickFu
  let c (n : Nat) : Bytes := be 2 (sat 16 n)
  be 1 s.active.mgen ++ be 1 (s.fadeState j) ++ be 1 s.sel ++ be 1 (if s.added then 1 else 0) ++ be 2 s.active.rows ++ pad 2 ++
    chmapB 16 (h.retCols d) ++ c h.sep.lateIn ++ c h.sep.mismatch ++ c h.sep.timeouts ++ c h.sep.replays ++ c h.sep.posClash ++
    pad 2

/-- SEP_STATUS (R235). -/
def Hub.sepStatus (h : Hub) (dies : List Nat) : Hub :=
  h.readMask dies fun ds => h.ok (ds.flatMap h.sepPart)

/-- A SEP_MASK record where a die's retired columns, selection or in-service state have changed (R235); a die whose engines cannot meet the
ready time counts as out of service (R409). -/
def Hub.sepMask (t d : Nat) (h : Hub) : Hub :=
  let s := (h.die d).sep
  let ret := h.retCols d
  let up := (h.die d).inService && s.serves
  if ret = s.lastMask ∧ s.sel = s.lastSel ∧ up = s.lastIn then h
  else
    (h.recordAt t 4 (be 1 d ++ pad 3 ++ h.sepPart d)).setDie d fun x =>
      { x with sep := { x.sep with lastMask := ret, lastSel := s.sel, lastIn := up } }

/-- One die's tick. -/
def Hub.sepDieTick (j : Nat) (acc : Hub × List (Nat × DieTick)) (d : Nat) : Hub × List (Nat × DieTick) :=
  let (h, out) := acc
  let h := h.setDie d fun x => { x with sep := x.sep.advance j }
  let h := h.setDie d fun x => { x with sep := x.sep.reselect j (h.sep.fbXf (j * h.sep.tickFu)) (h.retMask d) }
  let x := h.die d
  let r := x.sep.at' x.inService j (h.retMask d) (h.columnInputs d (j * h.sep.tickFu))
  (h, out ++ [(d, r)])

/-- What the hub keeps of a tick from what its dies give (R231 to R233). -/
def tickOf (j : Nat) (ready hold orig : Bool) (l : List (Nat × DieTick)) : SepTick :=
  let adds := l.filter fun p => p.2.sums.isSome
  let hd := (adds.head?.orElse fun _ => l.head?).map Prod.snd
  { j := j, ready := ready, hold := hold, orig := orig, rows := (hd.map DieTick.rows).getD 256, mgen := (hd.map DieTick.mgen).getD 0,
    fadeW := (hd.map DieTick.fadeW).getD 65535, all := adds.map fun p => (p.2.rows, p.2.mgen, p.2.fadeW),
    alone := adds.any fun p => p.2.alone, reduced := l.any fun p => p.2.reduced,
    dieMask := ofBits (adds.map Prod.fst), fbDie := ofBits ((adds.filter fun p => p.2.fb).map Prod.fst),
    nRet := (l.map fun p => p.2.ret).sum, sflags := (adds.map fun p => p.2.flags).foldl (· ||| ·) 0,
    sums := (adds.map fun p => p.2.sums.getD []).foldl addRows [], sent := false }

/-! ## Frames (R225, R228 to R233) -/

/-- The hub looks at a frame of a tick as it passes (R232): the frame as it leaves, and whether the position clashed. -/
def SepTick.addTo (k : Option SepTick) (pos : Nat) (f : ModalFrame) : ModalFrame × Bool :=
  let bit := BitVec.ofNat 64 (2 ^ pos)
  let hold := f.baseHold || (match k with | some r => r.hold | none => false)
  let f := { f with baseHold := hold }
  if (f.contrib ||| f.notLocked) &&& bit != 0 then (f, true)
  else match k with
    | some r =>
      if r.ready then
        let n := min f.rows r.sums.length
        let sums := f.sums.mapIdx fun i s => if i < n then s + r.sums.getD i 0 else s
        let differs := r.alone || r.all.any fun a => a.1 != f.rows || a.2.1 != f.mgen || a.2.2 != f.fadeW
        let ext := 2 ^ 63 + pos * 2 ^ 56 + r.dieMask * 2 ^ 48 + r.fbDie * 2 ^ 40 + min r.nRet 1023 * 2 ^ 30
        let busy := f.ext.getLsbD 63
        ({ f with
            sums := sums, contrib := f.contrib ||| bit, sflags := f.sflags ||| r.sflags,
            reduced := if r.reduced then f.reduced ||| bit else f.reduced,
            gendiff := if differs then f.gendiff ||| bit else f.gendiff,
            ext := if !r.reduced then f.ext else if busy then f.ext ||| BitVec.ofNat 64 (2 ^ 62) else BitVec.ofNat 64 ext }, false)
      else ({ f with notLocked := f.notLocked ||| bit }, false)
    | none => ({ f with notLocked := f.notLocked ||| bit }, false)

/-- A modal frame's bytes (Table 08-2). -/
def frameBytes (f : ModalFrame) : Bytes :=
  be 4 f.seq.toNat ++ be 2 (secHi f.stamp) ++ be 1 (eraOf f.stamp) ++
    be 1 ((if f.timeout then 1 else 0) + (if f.baseHold then 2 else 0) + (if f.fading then 4 else 0)) ++ stampB f.stamp ++
    be 2 f.rows ++ be 1 f.mgen ++ be 1 f.sflags.toNat ++ be 2 f.fadeW ++ pad 2 ++ be 8 f.contrib.toNat ++ be 8 f.notLocked.toNat ++
    be 8 f.reduced.toNat ++ be 8 f.gendiff.toNat ++ be 8 f.ext.toNat ++ f.sums.flatMap (beInt 6)

/-- Marks the frame of a tick as sent. -/
def Sep.markSent (s : Sep) (j : Nat) : Sep := { s with ticks := s.ticks.map fun (r : SepTick) => if r.j = j then { r with sent := true } else r }

/-- A MODAL frame goes out on P00. -/
def Hub.sendModal (h : Hub) (f : ModalFrame) : Hub :=
  let p : SepPass := ⟨(frameBytes f).length, f.stamp, h.clk.elapsed⟩
  ({ h with sep := { h.sep with passed := (p :: h.sep.passed).take 2 } }).originate 2 0 (frameBytes f)

/-- A frame passes the hub and leaves on P00 (R232, R224); what each die has added is kept for ADDED (R235). -/
def Hub.passFrame (h : Hub) (f : ModalFrame) : Hub :=
  let j := f.stamp / h.sep.tickFu
  let r := h.sep.ticks.find? fun (r : SepTick) => r.j == j
  let (g, clash) := SepTick.addTo r h.sep.pos f
  let h := h.mapDie fun d x =>
    { x with sep := { x.sep with added := !clash && (match r with | some k => k.ready && k.dieMask.testBit d | none => false) } }
  let h := { h with sep := { h.sep.markSent j with posClash := if clash then satInc 16 h.sep.posClash else h.sep.posClash } }
  let h := if clash then h.notice unitHub 0x0501 f.seq 0 else h
  h.sendModal g

/-- The frame that the hub builds for a tick (R225). -/
def buildFrame (r : SepTick) (tickFu : Nat) (timedOut : Bool) : ModalFrame :=
  { seq := BitVec.ofNat 32 r.j, stamp := r.j * tickFu, timeout := timedOut, baseHold := r.hold,
    fading := decide (r.fadeW < 65535), rows := r.rows, mgen := r.mgen, sflags := 0, fadeW := r.fadeW, contrib := 0, notLocked := 0,
    reduced := 0, gendiff := 0, ext := 0, sums := List.replicate r.rows 0 }

/-- TICK (R213): every die forms its partials, and an originating hub sends the frame. -/
def Hub.modalTick (h : Hub) : Hub :=
  let j := h.tm.now / h.sep.tickFu
  if (h.sep.ticks.head?.map SepTick.j) = some j then h
  else
    let (h, l) := (List.range h.nDies).foldl (Hub.sepDieTick j) (h, [])
    let en := h.sep.en (j * h.sep.tickFu)
    let orig := h.sep.origAt (j * h.sep.tickFu) || (h.prt 1).st != .up
    let r := tickOf j (h.locked && !h.sep.warm) (h.tm.base == .holdover) (en && orig) l
    let h := { h with
      dies := h.dies.map fun (x : Die) => { x with sep := { x.sep with added := x.sep.added && en } },
      sep := { h.sep with ticks := (r :: h.sep.ticks).take 64, warm := h.sep.warm && !en } }
    let h := forAll (List.range h.nDies) (Hub.sepMask (j * h.sep.tickFu)) h
    if en && orig then h.passFrame (buildFrame r h.sep.tickFu false) else h

/-- The hub takes a frame on P01 for the tick that it names: it forwards the frame, with EN set after adding to it (R225, R228,
R232). -/
def Hub.takesFrame (h : Hub) (f : ModalFrame) : Bool :=
  let s := h.sep
  let j := f.stamp / s.tickFu
  let here := h.tm.now / s.tickFu
  !s.en h.tm.now ||
    (!s.origAt h.tm.now && !(s.ticks.head?.any fun (r : SepTick) => r.orig) && f.stamp % s.tickFu == 0 && f.seq == BitVec.ofNat 32 j &&
      decide (j ≤ here ∧ here ≤ j + 63 ∧ h.tm.now ≤ s.deadline f.stamp) && !(s.ticks.any fun (r : SepTick) => r.j == j && r.sent))

/-- The outgoing copy of a frame that the link must replay: abandoned with zeros and an ABORT trailer (R230, R333). How much of the
copy had gone out is a free value; it takes nothing of the tick, whose frame is the replay's (log entry 56). -/
def Hub.abandonCopy (h : Hub) (f : ModalFrame) : Hub :=
  if h.takesFrame f then
    let h := h.tick
    let b := frameBytes f
    let gone := 8 * (Config.copiedBlocks h.fresh % (b.length / 8 + 1))
    if h.addressed && (h.prt 0).linked then h.queue 0 ⟨2, 0, 0, h.addr, b.take gone ++ pad (b.length - gone), none, true, true⟩ else h
  else h

/-- A frame accepted by the link on P01 (R225, R228, R232); EN 0 forwards it unchanged. A hub in network boot forwards nothing (R475). -/
def Hub.modalArrive (h : Hub) (f : ModalFrame) : Hub :=
  let s := h.sep
  let late (h : Hub) : Hub := { h with sep := { h.sep with lateIn := satInc 16 h.sep.lateIn } }
  let miss (h : Hub) : Hub := { h with sep := { h.sep with mismatch := satInc 16 h.sep.mismatch } }
  if h.boot.netboot then h
  else if !s.en h.tm.now then h.sendModal f
  else
    let j := f.stamp / s.tickFu
    if s.origAt h.tm.now || (s.ticks.head?.any fun (r : SepTick) => r.orig) then miss h
    else if f.stamp % s.tickFu ≠ 0 ∨ f.seq ≠ BitVec.ofNat 32 j then miss h
    else if h.takesFrame f then h.passFrame f
    else late h

/-- TIMEOUT (R229): the oldest tick whose deadline has passed without a frame; nothing where none is due. -/
def Hub.modalTimeout (h : Hub) : Hub :=
  let s := h.sep
  if !s.en h.tm.now then h
  else
    match s.ticks.reverse.find? (fun (r : SepTick) => !r.sent && !r.orig && s.en (r.j * s.tickFu) &&
        decide (s.deadline (r.j * s.tickFu) < h.tm.now)) with
    | none => h
    | some r =>
      ({ h with sep := { s with timeouts := satInc 16 s.timeouts } }).passFrame (buildFrame r s.tickFu true)

/-! ## Meanings -/

/-- SEP_LOAD (R390). -/
def execSepLoad (dies : List Nat) (set : Nat) (op : SepLoadOp) (s : State) : Out := act s fun h => h.sepLoad dies set op
/-- SEP_SWITCH (R222). -/
def execSepSwitch (dies : List Nat) (xfLen : Nat) (s : State) : Out := act s fun h => h.sepSwitch dies xfLen none none
/-- SEP_CFG_SET (R234). -/
def execSepCfgSet (ctl tick wait fb : Word) (s : State) : Out := act s fun h => h.sepCfgSet ctl tick wait fb none h.tm.now
/-- SEP_CFG_GET (R234). -/
def execSepCfgGet (s : State) : Out := act s Hub.sepCfgGet
/-- SEP_STATUS (R235). -/
def execSepStatus (dies : List Nat) (s : State) : Out := act s fun h => h.sepStatus dies
/-- TICK (R213). -/
def execTick (s : State) : Out := act s Hub.modalTick
/-- TIMEOUT (R229). -/
def execTimeout (s : State) : Out := act s Hub.modalTimeout

end Sys2Proof.Machine
end

