-- ==== Sys2Proof/Machine/PortOps.lean ====
section
/-! DEFINITION. Ports and lanes: start and loss of a port, rate steps, width changes, lane faults and the coupler (11, 15). -/

namespace Sys2Proof.Machine

/-! ## A port's limits (R297 to R299, R458) -/

/-- MODE of LINK_CFG. -/
def Port.mode (q : Port) : Nat := fld q.cfg 31 30
/-- MAX_RATE and MAX_WIDTH. -/
def Port.maxRate (q : Port) : Nat := fld q.cfg 28 26
def Port.maxWidth (q : Port) : Nat := fld q.cfg 25 24

/-- The upstream end of a link is the end that faces away from the concentrator's side: every port but P00 (R310, R315). -/
def upstream (p : Nat) : Bool := p != 0

/-- Widest width that the lanes in service allow (R299). -/
def Port.laneWidth (q : Port) : Nat :=
  if (q.lanes.getD 0 Lane.reset).retired then 0
  else if (q.lanes.getD 1 Lane.reset).retired then 1
  else if (q.lanes.getD 2 Lane.reset).retired then 2 else 3

/-- Payload capacity at a rate and width in bits a second, times 66 (Table 01-4). -/
def capacity66 (r w : Nat) : Nat := lineRate r * 64 * w

/-- The lowest rate whose capacity keeps the load, a fraction of bits a second, within 90% (Table 17-8). -/
def shedRate (load : Nat × Nat) (w : Nat) : Nat :=
  ((List.range 5).find? fun r => decide (load.1 * 660 ≤ capacity66 r w * 9 * load.2)).getD 4

/-- SKIM and RED of an enabled channel in bits a second, whether its skim is built now or not (R31, R206): 4 bytes for each skim word, 40 for the record of each word's block. -/
def Chan.steady (x : Chan) : List (Nat × Nat) :=
  let d := x.desc
  let blocks : Nat × Nat :=
    if bitOf x.red.cfg 31 then (1000, max 1 (fld x.red.cfg 13 0)) else (d.rate.1, d.rate.2 * 2 ^ fld x.red.cfg 20 16)
  if x.skimEn then
    [(32 * d.words * d.rate.1, d.rate.2), (320 * d.words * blocks.1, blocks.2)]
  else []

/-- L_h of this hub in bits a second (R31). -/
def Hub.ownLoad (h : Hub) : Nat × Nat :=
  sumQ ((Config.eventLoad h.pwr.shedAt, 1) :: h.chans.flatMap Chan.steady)

/-- The MODAL term: frame size × tick rate, counted once (R31, R227): the size of the frames that the hub has sent in the last second, the ACTIVE
set's ahead of the first; with EN 0 the rate at which they pass it (R232; log entry 192). -/
def Hub.modalLoad (h : Hub) : Nat × Nat :=
  let l := h.sep.passed.filter fun p => decide (h.clk.elapsed ≤ p.at' + 1000000000)
  if h.sep.en h.tm.now then
    (((l.head?.map SepPass.size).getD (64 + 6 * (h.die 0).sep.active.rows)) * 8 * 125000000, h.sep.tick.toNat)
  else match l with
    | a :: b :: _ => if b.stamp < a.stamp then (a.size * 8 * fuSec, a.stamp - b.stamp) else (0, 1)
    | _ => (0, 1)

/-- The steady load of a port (R31): of every hub that reaches the concentrator through it, and MODAL once on the chain pair. -/
def Hub.steadyLoad (h : Hub) (p : Nat) : Nat × Nat :=
  let n := h.pwr.shedAt
  if p = 0 then
    let below := ((List.range h.nPorts).filter fun q => q != 0 && (h.prt q).mode == 1 && (h.prt q).st == .up).map fun q => Config.loadBelow n q
    sumQ [h.ownLoad, h.modalLoad, (below.sum, 1)]
  else if p = 1 then sumQ [h.modalLoad, (Config.loadBelow n 1, 1)]
  else (Config.loadBelow n p, 1)

/-- Shedding acts on the port: under LINK_MANUAL it does not (R458). -/
def Hub.shedAt (h : Hub) (p level : Nat) : Bool := decide (level ≤ h.pwr.shed) && !(h.prt p).manual

/-- The highest rate that the port may run (R308, R311, R458). -/
def Hub.rateCap (h : Hub) (p : Nat) : Nat :=
  let q := h.prt p
  let m := min q.maxRate q.peerRate
  if h.shedAt p 2 then min m (shedRate (h.steadyLoad p) (max 1 q.width)) else m

/-- The widest width that the port may run (R299, R308, R458). -/
def Hub.widthCap (h : Hub) (p : Nat) : Nat :=
  let q := h.prt p
  let m := min (min q.maxWidth q.peerWidth) q.laneWidth
  if h.shedAt p 1 && decide ((h.steadyLoad p).1 * 66 ≤ capacity66 q.rate 1 * (h.steadyLoad p).2) then min m 1 else m

/-! ## Control blocks (Tables 12-5 and 12-6) -/

/-- ROLE of a port (Table 12-5). -/
def roleOf (p : Nat) : Nat := if p = 0 then 2 else if p = 1 then 3 else 4

/-- Data lanes L0 to L2 that are locked. -/
def Port.lockedMask (q : Port) : Nat :=
  ofBits ((List.range 3).filter fun l => (q.lanes.getD l Lane.reset).lock == .locked && !(q.lanes.getD l Lane.reset).retired)

/-- TRAIN HELLO and TRAIN SERIAL. -/
def helloBits (p : Nat) (q : Port) : Nat :=
  roleOf p * 2 ^ 49 + q.maxRate * 2 ^ 46 + q.maxWidth * 2 ^ 44 + q.lockedMask * 2 ^ 41
def serialBits (sn : BitVec 48) : Nat := 2 ^ 52 + sn.toNat

/-- TRAIN STEP, RESULT and REQUEST. -/
def stepBits (rate mcount : Nat) : Nat := 2 * 2 ^ 52 + rate * 2 ^ 49 + mcount % 65536
def resultBits (rate lanes : Nat) : Nat := 3 * 2 ^ 52 + rate * 2 ^ 49 + lanes * 2 ^ 46
def requestBits (rate : Nat) : Nat := 4 * 2 ^ 52 + rate * 2 ^ 49

/-- A lane set as a control block holds it, L2..L0. -/
def laneField (lanes : List Bool) : Nat := ofBits ((List.range 3).filter fun l => lanes.getD l false)

/-! ## Loss and start of a port (R297, R298, R308, R338) -/

/-- A lane's search begins again at its present offset (R307). -/
def Lane.hunt (now : Nat) (l : Lane) : Lane :=
  { l with lock := .hunt, count := 0, recent := [], tried := 0, huntAt := now, passed := false, wakeAt := none }

/-- A parked lane wakes to rejoin its port (R317). -/
def Lane.wake (now : Nat) (l : Lane) : Lane := { l.hunt now with parked := false, wakeAt := some now }

/-- The lanes of a new width: those outside it park, to hunt again when they wake (R316). -/
def Port.parkOutside (q : Port) (now w : Nat) : List Lane :=
  q.lanes.mapIdx fun i l => if w ≤ i ∧ i < 3 then { l.hunt now with parked := true } else l

/-- Lane power states (Table 11-6). -/
inductive LanePower where
  | active
  | idle
  | park
  | off
  deriving DecidableEq, Repr

/-- The power state of a lane of port p (Table 11-6): Off with its port off or retired, Park with its port or alone; a data lane of the width is
Active while packets are in progress, and Idle with IDLE and MARK blocks only; a lane that trains, tests or is LT is Active. P00's circuits stay
Active behind a closed coupler, since it is never Off or parked while its MODE is HUB, nor its LT (R316). -/
def Port.lanePower (p : Nat) (q : Port) (i : Nat) : LanePower :=
  let l := q.lanes.getD i Lane.reset
  if p = 0 ∧ q.mode = 1 ∧ q.st ≠ .off ∧ (i = 3 ∨ (q.st = .bypassed ∧ !l.retired)) then .active else
  match q.st with
  | .off | .bypassed => .off
  | .parked => .park
  | .up | .plain =>
    if l.retired then .off
    else if i = 3 then .active
    else if l.parked then .park
    else if i < q.width && (q.link.active.any Option.isSome) then .active else .idle
  | _ => if l.retired then .off else if l.parked then .park else .active

/-- A link layer for a new link: counters stay (R335, R338). -/
def Link.restart (k : Link) : Link :=
  { Link.reset with abort := k.abort, frame := k.frame, invCtl := k.invCtl, pauseLost := k.pauseLost, unroutable := k.unroutable }

/-- Flows whose packet was on its way out of the port keep it for sending again: a new one in its pail or backlog, one that was
being re-sent among the re-sends (R338). One whose flow has gone elsewhere stays P00's to send again, or goes ahead of the flow's pails (R391; log
entry 182). -/
def Hub.unsend (h : Hub) (p : Nat) : Hub :=
  let k := (h.prt p).link
  let out (key : FlowKey) (seq : Word) : Bool := ((k.active.filterMap id).map Prod.fst ++ k.queues.flatten).any fun fr => fr.flow == some (key, seq)
  let back (f : Flow) : Flow := match f.sending with
    | some k =>
      if !out f.key k.seq then f
      else if f.held.any fun x => x.seq == k.seq then ({ f with sending := none }).again k else { f with sending := none }
    | none => f
  let left (f : Flow) : Flow :=
    let gone := (f.past.filter fun x => x.1 == p && out f.key x.2.seq).map Prod.snd
    let g : Flow := { f with past := f.past.filter fun x => !(x.1 == p && out f.key x.2.seq) }
    if p ≠ 0 then { g with yoke := gone ++ g.yoke }
    else gone.foldl (fun g k => (if g.held.any (fun x => x.seq == k.seq) then g else { g with held := g.held ++ [k] }).again k) g
  { h with flows := h.flows.map fun (f : Flow) => left (back f) }

/-- Entries that a reset of the port's queues discards are counted in HK (R268). -/
def Hub.discardNote (h : Hub) (p n : Nat) : Hub :=
  if n = 0 then h
  else ({ h with strm := { h.strm with qDiscard := h.strm.qDiscard + n } }).notice (unitPort p) 0x0603 (argN n) 0

/-- The port leaves what it was: its link, its run and its lanes' locks are gone, and LT's where it does not run on (R297, R312, R338). A claim that
P00's hub had not yet committed is void (R347). -/
def Hub.portLost (h : Hub) (p : Nat) (st : PState) : Hub :=
  let gone := let k := (h.prt p).link; (k.active.filterMap id).length + k.queues.flatten.length
  let h := (h.unsend p).discardNote p gone
  let h := h.setPort p fun q =>
    { q with st := st, rate := 0, width := 0, peer := 0, peerRate := 0, peerWidth := 0, peerLocked := 0, peerSerial := none,
             lanes := q.lanes.mapIdx fun i l => if i < 3 then { l.hunt h.clk.elapsed with parked := false, mcount := 0 } else l,
             searchAt := h.clk.elapsed, run := none, widthRun := none, asked := none, askedAt := none, lost := [], mcount := 0, blk := 0,
             link := q.link.restart }
  let h := h.setPort p fun q => { q with ltUp := q.ltUp && (p == 0 || q.ltRuns) }
  if p = 0 then ({ h with enm := { h.enm with eligible := false, walk := none, through := false, pending := none,
                                              claimed := h.enm.claimed && h.enm.pending.isNone }, mgmt := { h.mgmt with svcOut := [] } }).linkGone
  else h

/-- The port begins what its MODE says, where it can: not while its die is out of service, its quadrant gated, the coupler
closed or its L0 retired (R297, R299, R300, R324, R412). P00 in HUB mode is never Off: with L0 retired it searches, and stays down (R316). -/
def Hub.portStart (h : Hub) (p : Nat) : Hub :=
  let q := h.prt p
  let fixR := fld q.cfg 22 20
  let fixW := min (fld q.cfg 19 18) q.laneWidth
  let st : PState :=
    if p < 2 && h.flt.closed then .bypassed
    else if !(h.die (p / 4)).inService || !h.powered p then .off
    else match q.mode with
      | 1 => if q.laneWidth = 0 ∧ p ≠ 0 then .off else .search
      | 2 => if q.laneWidth = 0 then .off else .plain
      | 3 => if q.laneWidth = 0 then .off else .test
      | _ => .off
  let h := h.portLost p st
  let h := if st = .plain then h.setPort p fun q => { q with rate := fixR, width := fixW }
    else if st = .test then h.setPort p fun q => { q with rate := fixR } else h
  (if h.strm.rawGroup.contains p then h.rawReassign else h).watermarks

/-- Takes a port down for as long as its cause holds. -/
def Hub.portDown (h : Hub) (p : Nat) (st : PState) : Hub :=
  let h := h.portLost p st
  (if h.strm.rawGroup.contains p then h.rawReassign else h).watermarks

/-- A packet that has begun goes on as zeros and ends with ABORT: its source is gone (R333). -/
def abandon (f : Frame) (left : Nat) : Frame :=
  let sent := 8 * (2 + ceilDiv f.body.length 8 - left - 1)
  { f with body := f.body.take sent ++ pad (f.body.length - sent), flow := none, abort := true }

/-- The packets of a die's flows that are on their way out of the ports lose their source (R333). -/
def Hub.vanish (h : Hub) (d : Nat) : Hub :=
  let mine (f : Frame) : Bool := match f.flow with | some (k, _) => k.die == d | none => false
  { h with ports := h.ports.map fun (q : Port) =>
      { q with link := { q.link with active := q.link.active.map fun a => match a with
          | some (f, left, none) => if mine f then some (abandon f left, left, none) else some (f, left, none)
          | x => x } } }

/-! ## A rate step (R311, R312) -/

/-- Entries that a relock discards: what is on its way through the port's queues. They are counted in HK, and the packets
are begun again, a MODAL frame among them (R268, R312). -/
def Hub.queuesReset (h : Hub) (p : Nat) : Hub :=
  let k := (h.prt p).link
  let cut := k.active.filterMap id
  let fresh := cut.filter fun a => a.2.2.isNone && !a.1.abort
  let h := h.setLink p fun k =>
    { k with active := [none, none, none, none], txClass := 0, rxClass := 0, again := k.replay,
             queues := k.queues.mapIdx fun i q => (fresh.filter fun a => a.1.cls == i + 1).map Prod.fst ++ q }
  h.discardNote p cut.length

/-- The change is made: the data lanes relock at the target rate (R311 steps 2 and 3), and every lane goes on in its present slot (R303). -/
def Hub.enterStep (h : Hub) (p : Nat) : Hub :=
  match (h.prt p).run with
  | none => h
  | some r =>
    (h.queuesReset p).setPort p fun q =>
      { q with st := .training, rate := r.target, width := 0, widthRun := none, blk := q.blk / q.txWidth,
               run := some { r with at' := none, own := none, peer := none, since := h.clk.elapsed },
               lanes := q.lanes.mapIdx fun i l => if i < 3 then { l.hunt h.clk.elapsed with parked := false } else l }

/-- The upstream end begins a step: STEP names the MARK of its own after which the change is made (R310, R311, R314). -/
def Hub.startStep (h : Hub) (p rate : Nat) (cause : StepCause) (good : List (Nat × Nat)) : Hub :=
  let q := h.prt p
  let m := (q.mcount + 2) % 65536
  let h := h.ctl p 0x66 (stepBits rate m)
  let r : StepRun := { target := rate, at' := some m, cause := cause, fromRate := q.rate, fromWidth := q.width, good := good,
                       own := none, peer := none, since := h.clk.elapsed }
  h.setPort p fun q => { q with run := some r, askedAt := some h.clk.elapsed, quietAt := h.clk.elapsed }

/-- The port goes back to traffic at a rate and a width as a rate step settles, and its data lanes are to be margined (R443); lanes outside the width park, the lanes keep their slot, and striping begins with L0
(R303, R312, R316); PAUSE states what holds now (R340). -/
def Hub.portReturn (h : Hub) (p rate width : Nat) : Hub :=
  let now := h.clk.elapsed
  let h := h.setPort p fun q =>
    { q with st := .up, rate := rate, width := width, run := none, widthRun := none, askedAt := none, quietAt := now,
             blk := q.blk * width, lanes := modAll (q.parkOutside now width) [0, 1, 2] fun _ x => { x with eyeDue := true },
             link := { q.link with again := q.link.replay, pauseAt := now, pauseGone := false, ackAt := now } }
  (if p = 0 ∧ h.boot.p00Released then { h with boot := { h.boot with p00Settled := true } } else h).watermarks

/-- The best of the rates that passed: the largest capacity, the lower rate on a tie (R311). -/
def bestOf (l : List (Nat × Nat)) : Option (Nat × Nat) :=
  l.foldl (fun (b : Option (Nat × Nat)) x =>
    match b with
    | none => some x
    | some y =>
      let cx := lineRate x.1 * x.2
      let cy := lineRate y.1 * y.2
      if cy < cx ∨ (cx = cy ∧ x.1 < y.1) then some x else b) none

/-- Lanes L0 up to the first that did not pass at both ends. -/
def passWidth (own : List Bool) (peer : Nat) : Nat :=
  let ok (l : Nat) : Bool := own.getD l false && peer.testBit l
  if !ok 0 then 0 else if !ok 1 then 1 else if !ok 2 then 2 else 3

/-! ## Lane faults (R404, R411, R422) -/

/-- LEVEL follows the dies and the lanes of P00 and P01 (R422). -/
def Hub.reLevel (h : Hub) : Hub :=
  if h.boot.level = .full ∨ h.boot.level = .degraded then
    let bad := (List.range h.nDies).any h.dieDown || ((h.prt 0).lanes ++ (h.prt 1).lanes).any (·.retired)
    h.setLevel (if bad then .degraded else .full)
  else h

/-- The coupler closes: the circuits of P00 and P01 are cut off from the balls (R324, R326). -/
def Hub.closeCoupler (h : Hub) (byHost : Bool) : Hub :=
  let h := { h with flt := { h.flt with closed := true, byHost := byHost, closing := none } }
  ((h.portDown 0 .bypassed).portDown 1 .bypassed).clockLoss

/-- A cause of Table 11-9 other than LINK_COUPLER is present. -/
def Hub.couplerCause (h : Hub) : Bool :=
  !h.boot.rst || h.pwr.holdUp.isSome || !(h.die 0).inService || !h.pwr.vkeepOk

/-- The coupler opens where no cause is present, and P00 and P01 come up (R325, R326). -/
def Hub.openCoupler (h : Hub) : Hub :=
  if h.couplerCause then h
  else (({ h with flt := { h.flt with closed := false, byHost := false, closing := none } }).portStart 0).portStart 1

/-- Lanes that this end can accept: locked, in service, within MAX_WIDTH, and those outside the width past their PRBS31 check (R317). -/
def Port.accepts (q : Port) : Nat :=
  ofBits ((List.range (min 3 q.maxWidth)).filter fun l =>
    q.lockedMask.testBit l && (decide (l < q.width) || (q.lanes.getD l Lane.reset).passed))

/-- Parked lanes that a wider width needs wake (R317). -/
def Port.wakeTo (q : Port) (now w : Nat) : List Lane :=
  q.lanes.mapIdx fun i l => if q.width ≤ i ∧ i < min w 3 ∧ l.parked ∧ !l.retired then l.wake now else l

/-- This end wants the port at a width; behind a change that runs it waits, in place of an older width, but not of a retrain. The upstream end
wakes what lanes it has for it, as the peer does (R315, R317, R318). -/
def Hub.askWidth (h : Hub) (p w : Nat) : Hub :=
  let q := h.prt p
  if q.run.isSome ∨ q.widthRun.isSome then
    h.setPort p fun q => { q with asked := match q.asked with | some (true, r) => some (true, r) | _ => some (false, w) }
  else if q.st ≠ .up ∨ w = q.width ∨ w = 0 then h
  else
    let h := h.ctl p 0x78 (w * 2 ^ 50)
    h.setPort p fun q =>
      { q with askedAt := some h.clk.elapsed, answered := none, widthRun := if upstream p then some ⟨w, none, false⟩ else none,
               lanes := if upstream p then q.wakeTo h.clk.elapsed w else q.lanes }

/-- A PLAIN port runs at FIX_WIDTH as far as its lanes in service allow; its group's flows follow (R263, R299, R300). -/
def Hub.plainWidth (h : Hub) (p : Nat) : Hub :=
  let q := h.prt p
  let w := min (fld q.cfg 19 18) q.laneWidth
  if q.st ≠ .plain ∨ q.width = w then h
  else
    let h := h.setPort p fun q => { q with width := w, blk := 0 }
    if h.strm.rawGroup.contains p then h.rawReassign else h

/-- A lane of a port's width has been retired: the port narrows (R299, R314, R318). -/
def Hub.narrow (h : Hub) (p : Nat) : Hub :=
  let q := h.prt p
  if q.st = .up then (if q.laneWidth < q.width ∧ !q.manual then h.askWidth p q.laneWidth else h)
  else h.plainWidth p

/-- A lane is retired for a cause: a record, and what it leaves (R299, R411). -/
def Hub.retireLane (h : Hub) (p l code count : Nat) (loopbackOk : Bool) : Hub :=
  let h := h.event (unitLane p l) code 2 count (if code = 0x0F04 then argN count else 0) 0
  let h := h.setLane p l fun x => { x with retired := true, win := none }
  let h := if l = 0 ∧ p < 2 then h.crossEvent 0 10 378 else h
  let h :=
    if l = 0 then
      if p < 2 && !loopbackOk then h.closeCoupler false
      else h.portDown p (if p = 0 ∧ (h.prt 0).mode = 1 then .search else .off)
    else if l = 3 ∧ p = 0 then
      ((h.setPort 0 fun q => { q with ltUp := false }).setTm fun t => { t with ltFrom := none, ltSeen := none }).laneAway .degraded
    else if l < 3 then h.narrow p
    else h
  h.reLevel

/-- A fault event of a lane: a retrain, a failed check or a loss of LT's pattern; more than N_LANE in WIN_LANE is permanent
(Table 15-1). -/
def Hub.laneFault (h : Hub) (p l : Nat) : Hub :=
  if (h.lane p l).retired then h
  else
    let w := FaultWin.hit (h.lane p l).win h.clk.elapsed (fld h.flt.lane 15 0 * 1000000000) (fld h.flt.lane 31 24) 0x0F04
    if w.allowed < w.events then
      let h := h.tick
      h.retireLane p l 0x0F04 w.events (Config.selfTestPass h.fresh (unitLane p l))
    else h.setLane p l fun x => { x with win := some w }

/-- A lane's condition has cleared: its window no longer sees it whole (R404). -/
def Lane.mended (l : Lane) : Lane := { l with win := l.win.map fun (w : FaultWin) => { w with lasting := [] } }

/-- A marker on P00.LT. One that is ignored counts as a glitch; more than 16 of them in a second are a fault event. A retired lane
takes none (R109, R404, R411, Table 15-1). -/
def Hub.ltMarker (h : Hub) (fine : List Int) : Hub :=
  if (h.lane 0 3).retired then h
  else if h.markDue then (h.marker fine).setLane 0 3 fun l => if (h.prt 0).ltUp then l else l.mended
  else
    let now := h.clk.elapsed
    let l := now :: (h.prt 0).ltGlitch.filter fun t => decide (now < t + 1000000000)
    let g := (h.marker fine).setPort 0 fun q => { q with ltGlitch := if 16 < l.length then [] else l }
    if 16 < l.length then g.laneFault 0 3 else g

/-- The pattern of P00.LT is lost: a fault event of the lane (R109, R404). -/
def Hub.ltLost (h : Hub) : Hub := if (h.prt 0).ltUp then h.clockLoss.laneFault 0 3 else h.clockLoss

/-- A lane that made or failed a retrain (R314). -/
def Hub.laneRetrain (p : Nat) (h : Hub) (l : Nat) : Hub :=
  (h.setLane p l fun x => { x with retrain := satInc 16 x.retrain }).laneFault p l

/-- A retrain has ended: it counts once on every lane that lost lock or failed its check (R314). -/
def Hub.countLost (h : Hub) (p : Nat) : Hub :=
  let l := (h.prt p).lost.eraseDups
  l.foldl (Hub.laneRetrain p) (h.setPort p fun q => { q with lost := [] })

/-! ## Retrains and width changes (R314, R315, R318, R319) -/

/-- A width change that has been ordered runs (R315, R319). -/
def Port.ordered (q : Port) : Bool := match q.widthRun with | some ⟨_, some _, _⟩ => true | _ => false

/-- This end wants the port at a rate: the upstream end begins, the downstream end asks; a change under way goes first, one of the width that has
only been asked for gives way (R310, R314, R315). -/
def Hub.askRate (h : Hub) (p rate : Nat) : Hub :=
  let q := h.prt p
  if q.run.isSome ∨ q.ordered then h.setPort p fun q => { q with asked := some (true, rate) }
  else if q.st ≠ .up then h
  else
    if upstream p then (h.setPort p fun q => { q with widthRun := none }).startStep p rate .retrain []
    else (h.ctl p 0x66 (requestBits rate)).setPort p fun q => { q with askedAt := some h.clk.elapsed }

/-- A retrain at the present rate, if the firmware may (R309, R314). -/
def Hub.retrain (h : Hub) (p : Nat) : Hub := if (h.prt p).manual then h else h.askRate p (h.prt p).rate

/-- A limit that has been lowered below the running value: a retrain, or a width change (R298, R299, R314, R318). -/
def Hub.keepLimits (h : Hub) (p : Nat) : Hub :=
  let q := h.prt p
  if q.st ≠ .up ∨ q.manual ∨ q.run.isSome then h
  else if h.rateCap p < q.rate then h.askRate p (h.rateCap p)
  else if h.widthCap p < q.width ∧ q.widthRun.isNone then h.askWidth p (h.widthCap p)
  else h

/-- A request that waited is looked at again against the new state, and the limits with it (R298, R315). A step up that P00's release holds
goes on waiting (R310); on a manual port the host's own request is carried out (R309). -/
def Hub.reAsk (h : Hub) (p : Nat) : Hub :=
  match (h.prt p).asked with
  | none => h.keepLimits p
  | some (isRate, v) =>
    let manual := (h.prt p).manual
    if isRate ∧ (h.prt p).rate < v ∧ p = 0 ∧ !h.boot.p00Released ∧ !manual then h.keepLimits p
    else
      let higher := decide ((h.prt p).rate < v)
      let h := h.setPort p fun q => { q with asked := none }
      if isRate then (if manual then h.askRate p v else if higher then h.keepLimits p else h.askRate p (min v (h.rateCap p)))
      else (if v ≠ (h.prt p).width then h.askWidth p (min v (h.widthCap p)) else h).keepLimits p

/-- The width in force changes at a MARK; lanes that leave park (R316, R319). -/
def Hub.applyWidth (h : Hub) (p w : Nat) : Hub :=
  let h := h.setPort p fun q =>
    { q with width := w, widthRun := none, askedAt := none, blk := 0, lanes := q.parkOutside h.clk.elapsed w }
  h.reAsk p

/-- The width that the port has, or is about to have (R319). -/
def Port.widthSoon (q : Port) : Nat :=
  match q.widthRun with
  | some ⟨_, some (w, _), _⟩ => max q.width w
  | _ => q.width

/-- The two ends have settled which lanes they can carry, once no lane of this end has still to pass its check (R317, R318): the downstream end
answers the peer's WIDTH; the upstream end, with the peer's answer, orders the smaller width at the MARK two MARKs on (R319). Where that is the
present width, lanes that were woken park again. -/
def Hub.widthSettle (h : Hub) (p : Nat) : Hub :=
  let q := h.prt p
  if q.st ≠ .up ∨ q.lanes.any Lane.rejoins then h
  else match q.widthRun, q.answered with
  | some ⟨w, none, _⟩, got =>
    if !upstream p then
      let h := (h.ctl p 0x78 (2 * 2 ^ 52 + q.accepts * 2 ^ 49)).setPort p fun q => { q with widthRun := none }
      if q.asked.isSome then h.reAsk p else h
    else match got with
    | some lanes =>
      let w := min w (passWidth ((List.range 3).map fun l => q.accepts.testBit l) lanes)
      if w = 0 ∨ w = q.width then
        (h.setPort p fun q =>
          { q with widthRun := none, askedAt := none, answered := none, lanes := q.parkOutside h.clk.elapsed q.width }).reAsk p
      else
        let m := (q.mcount + 2) % 65536
        (h.ctl p 0x78 (2 ^ 52 + w * 2 ^ 50 + m)).setPort p fun q => { q with widthRun := some ⟨w, some (w, m), false⟩, answered := none }
    | none => h
  | _, _ => h

/-- A data lane has lost lock (R305, R314, R319): in the width of an UP port, or in the width that has been ordered, which is then abandoned, a
retrain follows, or the one that is on its way counts the lane too. The downstream end, which does not hear the MARK of a STEP without L0, makes
the change at once (R326). In SEARCH the peer that L0 brought is gone. -/
def Hub.lockLost (h : Hub) (p l : Nat) : Hub :=
  let q := h.prt p
  if q.st = .search ∧ l = 0 then
    h.setPort p fun q => { q with peer := 0, peerRate := 0, peerWidth := 0, peerLocked := 0, peerSerial := none }
  else if q.st ≠ .up ∨ q.widthSoon ≤ l then h
  else match q.run with
  | some r =>
    let h := if r.cause = .retrain ∧ !q.manual then h.setPort p fun q => { q with lost := l :: q.lost } else h
    if l = 0 ∧ !upstream p then h.enterStep p else h
  | none =>
    if q.manual then h else (h.setPort p fun q => { q with lost := l :: q.lost, widthRun := none }).retrain p

/-- The TRAIN REQUEST of the downstream end has gone out (R310). Without L0 it hears no STEP, and makes the change that it has asked for now
(R326). DESIGN CHOICE (log entry 193): the spec does not say how such an end learns of the step. -/
def Hub.requestSent (h : Hub) (p rate : Nat) : Hub :=
  let q := h.prt p
  if upstream p ∨ q.st ≠ .up ∨ q.run.isSome ∨ (q.lanes.getD 0 Lane.reset).lock = .locked then h
  else
    let r : StepRun := { target := rate, at' := none, cause := .retrain, fromRate := q.rate, fromWidth := q.width, good := [], own := none,
                         peer := none, since := h.clk.elapsed }
    (h.setPort p fun q => { q with run := some r, quietAt := h.clk.elapsed }).enterStep p

/-! ## A port comes UP (R308, R340, R347) -/

/-- ARRIVE of this hub (Table 12-8). -/
def Hub.arriveBits (h : Hub) : Nat := h.nDies * 2 ^ 48 + h.ident.serial.toNat

/-- Sends ARRIVE where P00 is UP (R347). -/
def Hub.sendArrive (h : Hub) : Hub :=
  if (h.prt 0).st = .up then
    let h := h.ctl 0 0xB4 h.arriveBits
    { h with enm := { h.enm with arriveAt := some h.clk.elapsed } }
  else h

/-- PAUSE in the present state (R340). -/
def pauseBits (st : Bool) : Nat := if st then 2 ^ 55 else 0

/-- A port above P00 steps up from its rate, if its limits allow (R310, R311). -/
def Hub.stepUp (h : Hub) (p : Nat) : Hub :=
  let q := h.prt p
  if upstream p && q.st == .up && q.run.isNone && !q.manual && decide (q.rate < h.rateCap p) then
    h.startStep p (q.rate + 1) .stepUp [(q.rate, q.width)]
  else h

/-- The port reaches UP at LR0: PAUSE goes first, an unaddressed hub sends ARRIVE on P00, and other ports step up (R308, R310,
R335, R340, R347). What has queued for the port before is discarded and counted (R268). -/
def Hub.portUp (h : Hub) (p w : Nat) : Hub :=
  let now := h.clk.elapsed
  let st := h.pauses p
  let h := h.discardNote p (h.prt p).link.queues.flatten.length
  let h := h.setPort p fun q =>
    let k : Link := { q.link.restart with ctl := [⟨0x33, pauseBits st⟩], pauseTx := st, pauseAt := now, ackAt := now }
    { q with st := .up, rate := 0, width := w, upAt := now, quietAt := now, link := k, blk := q.blk * w,
             lanes := q.parkOutside now w }
  let h := if p = 0 ∧ !h.addressed then h.sendArrive else h
  let h := if p = 0 ∧ h.boot.p00Released ∧ h.rateCap 0 = 0 then { h with boot := { h.boot with p00Settled := true } } else h
  h.stepUp p

/-- Both ends have exchanged what they need: the port comes UP with the width that both can run (R308, R475). -/
def Hub.tryUp (h : Hub) (p : Nat) : Hub :=
  let q := h.prt p
  let both (l : Nat) : Bool := q.lockedMask.testBit l && q.peerLocked.testBit l
  let lanes := if !both 0 then 0 else if !both 1 then 1 else if !both 2 then 2 else 3
  let w := min (h.widthCap p) lanes
  let w := if h.boot.netboot then min w 1 else w
  if q.st = .search ∧ q.peer ≠ 0 ∧ q.peerSerial.isSome ∧ 0 < w then h.portUp p w else h

/-- One reference cycle with nothing commanded: a LINK_COUPLER CLOSE whose DEPART has not gone out takes effect 10 µs after its
acceptance (Table 11-9; log entry 8). -/
def Hub.idle (h : Hub) : Hub :=
  let h := cycle h
  -- an injection on LT of a TEST port meets the ten bits of the cycle (R322)
  let h := { h with ports := h.ports.map fun (q : Port) =>
    if q.st = PState.test then { q with lanes := modAt q.lanes 3 fun l => if fld l.test 24 23 = 1 then l else l.passHits 10 } else q }
  match h.flt.closing with
  | some t => if t + 10000 ≤ h.clk.elapsed then h.closeCoupler true else h
  | none => h

end Sys2Proof.Machine
end

