-- ==== Sys2Proof/Machine/Lanes.lean ====
section
/-! DEFINITION. Lanes and ports: the LINK commands, lane lock, bring-up, steps, width changes, tests (11). -/

namespace Sys2Proof.Machine

/-! ## The LINK commands (R297, R309, R320, R325, R396) -/

/-- Goes on with a port that is there on a die that serves (R380). -/
def Hub.onPort (h : Hub) (p : Nat) (k : Hub) : Hub := if h.nPorts ≤ p then h.refuse St.badArg else h.onDies [p / 4] k

/-- A value of LINK_CFG that Table 11-1 refuses. -/
def badLinkCfg (w : Word) : Bool :=
  !onlyBits w 0xDF7FFFFF || decide (4 < fld w 28 26) || fld w 25 24 == 0 || decide (4 < fld w 22 20) || fld w 19 18 == 0 ||
    fld w 15 0 == 0

/-- An armed capture names the port (R193). -/
def Hub.capNames (h : Hub) (p : Nat) : Bool := h.caps.any fun o => match o with | some k => k.params.port == p && p != 0 | none => false

/-- LINK_CFG_SET (R297, R298). -/
def Hub.linkCfgSet (h : Hub) (p : Nat) (w : Word) : Hub :=
  h.onPort p
    (let q := h.prt p
     let mode := fld w 31 30
     if badLinkCfg w ∨ (p < 2 ∧ (mode = 0 ∨ mode = 2)) ∨ (mode ≠ 2 ∧ h.capNames p) then h.refuse St.badArg
     else if p < 2 ∧ mode = 3 ∧ !h.sealOpen then h.refuse St.isSealed
     else
       let restart := mode ≠ q.mode ∨ fld w 22 18 ≠ fld q.cfg 22 18 ∨ (q.st = .wiring ∧ w ≠ q.cfg)
       let leaves := q.mode = 3 ∧ mode ≠ 3
       let h := h.setPort p fun q =>
         { q with cfg := w, lanes := if leaves then q.lanes.map fun (l : Lane) => { l with test := 0, sync := false, syncAt := none } else q.lanes }
       let h :=
         if restart then h.portStart p
         else if q.st = .up ∧ !q.manual then
           let h := if fld w 28 26 < q.rate then h.askRate p (fld w 28 26) else h
           if fld w 25 24 < q.width then h.askWidth p (fld w 25 24) else h
         -- in a step the limits are looked at when it ends (R315)
         else h
       h.ok [])

/-- LINK_CFG_GET. -/
def Hub.linkCfgGet (h : Hub) (p : Nat) : Hub := h.onPort p (h.ok (be 4 (h.prt p).cfg.toNat))

/-- LINK_STATUS: the status word and ALIGN_OFS of L0 to L2. -/
def Hub.linkStatusGet (h : Hub) (p : Nat) : Hub :=
  h.onPort p (h.ok (be 4 (h.linkStatus p).toNat ++ (List.range 3).flatMap (fun l => be 1 (h.lane p l).alignOfs) ++ pad 1))

/-- A port goes back to the firmware: bring-up starts again (R309). -/
def Hub.handBack (p : Nat) (h : Hub) : Hub :=
  if (h.prt p).manual then (h.setPort p fun q => { q with manual := false }).portStart p else h

/-- Leaving OPEN hands every port back (R309). -/
def Hub.handAllBack (h : Hub) : Hub := forAll (List.range h.nPorts) Hub.handBack h

/-- LINK_MANUAL (R309): what the firmware still waits for it gives up. -/
def Hub.linkManual (h : Hub) (p on : Nat) : Hub :=
  h.onPort p
    (if 1 < on then h.refuse St.badArg
     else if !h.sealOpen then h.refuse St.isSealed
     else if on = 1 then
       (h.setPort p fun q =>
         { q with manual := true, asked := none, askedAt := none, lost := [], answered := none,
                  widthRun := match q.widthRun with | some ⟨_, none, _⟩ => none | r => r }).ok []
     else (h.handBack p).ok [])

/-- The receiver slips by one bit (R307). -/
def Lane.slip (now : Nat) (l : Lane) : Lane := { l with lock := .hunt, count := 0, recent := [], offset := (l.offset + 1) % 66, huntAt := now }

/-- The search goes to its next offset; with the 66th the lane has failed to align (R307). -/
def Lane.nextOffset (now : Nat) (l : Lane) : Lane :=
  { l.slip now with tried := l.tried + 1, alignFail := if l.tried = 65 then satInc 16 l.alignFail else l.alignFail }

/-- LINK_SLIP (R309, R396). -/
def Hub.linkSlip (h : Hub) (p l : Nat) : Hub :=
  h.onPort p
    (if 2 < l then h.refuse St.badArg
     else if !h.sealOpen then h.refuse St.isSealed
     else if !(h.prt p).manual then h.refuse St.badArg
     else (h.setLane p l (Lane.slip h.clk.elapsed)).ok [])

/-- The data lanes of a port that is not UP relock at the rate that the host has ordered (R309; log entry 65). -/
def Hub.relockAt (h : Hub) (p r : Nat) : Hub :=
  h.setPort p fun q => { q with rate := r, lanes := q.lanes.mapIdx fun i l => if i < 3 then l.hunt h.clk.elapsed else l }

/-- LINK_RATE (R309, R311, R396): a port that is not UP relocks at the rate; in a step the order waits for its end (R315; log entry 65). -/
def Hub.linkRate (h : Hub) (p r : Nat) : Hub :=
  h.onPort p
    (if 4 < r then h.refuse St.badArg
     else if !h.sealOpen then h.refuse St.isSealed
     else if !(h.prt p).manual then h.refuse St.badArg
     else if (h.prt p).st = .up ∨ (h.prt p).run.isSome then (h.askRate p r).ok []
     else (h.relockAt p r).ok [])

/-- LINK_WIDTH (R318, R396). -/
def Hub.linkWidth (h : Hub) (p w : Nat) : Hub :=
  h.onPort p
    (if w = 0 ∨ 3 < w ∨ !(h.prt p).manual then h.refuse St.badArg
     else (h.askWidth p w).ok [])

/-- The line rate of a lane: LT runs at LR0 (R296). -/
def Hub.laneRate (h : Hub) (p l : Nat) : Nat := lineRate (if l = 3 then 0 else (h.prt p).rate)

/-- Brings a lane's counters up to the present (R321, R323): the bits that its checker has seen since, in sync with a pattern from outside, and as
many errors among them as the line made, a free number, of at least `least`; for LT outside near-end loopback the cycles of 8 ns that matched
neither row of Table 04-8 (log entry 62). -/
def Hub.countBits (h : Hub) (p l least : Nat) : Hub :=
  let x := h.lane p l
  let now := h.clk.elapsed
  let errs (h : Hub) (n : Nat) : Nat := max least (Config.prbsErrors h.fresh % (n + 1))
  match x.sync, x.syncAt with
  | true, some t =>
    let h := h.tick
    let n := (now - t) * h.laneRate p l / 1000000000
    h.setLane p l fun x => { x with bits := satAdd 48 x.bits n, err := satAdd 48 x.err (errs h n), syncAt := some now }
  | _, t =>
    if l = 3 ∧ fld x.test 24 23 ≠ 1 ∧ (h.prt p).ltRuns then
      let h := h.tick
      h.setLane p l fun x => { x with err := satAdd 48 x.err (errs h ((now - t.getD 0) / 8)), syncAt := some now }
    else h

/-- A LANE_TEST word that Table 11-7 refuses. -/
def badLaneTest (w : Word) : Bool :=
  !onlyBits w 0xFFFFF03F || decide (4 < fld w 31 29) || decide (4 < fld w 28 26) || fld w 24 23 == 3 || decide (3 < fld w 22 20) ||
    (fld w 22 20 == 2 && fld w 19 12 == 0) || (fld w 22 20 == 3 && (decide (fld w 5 0 < 10) || decide (40 < fld w 5 0)))

/-- LINK_TEST_SET (R320, R322): single and burst injections act at the next bit and read back as 0. A generator that is selected starts with all
ones, and a checker that is selected, or that hears another source, loads itself anew (log entry 146). -/
def Hub.linkTestSet (h : Hub) (p l : Nat) (w : Word) : Hub :=
  h.onPort p
    (let q := h.prt p
     if 3 < l ∨ badLaneTest w ∨ (q.mode ≠ 3 ∧ fld w 31 23 &&& 0x1FB ≠ 0) then h.refuse St.badArg
     else if q.mode = 1 ∧ fld w 22 20 ≠ 0 ∧ !h.sealOpen then h.refuse St.isSealed
     else
       let h := h.countBits p l 0
       let x := h.lane p l
       let n := if fld w 22 20 = 1 then 1 else if fld w 22 20 = 2 then fld w 19 12 else 0
       let stays := fld w 28 23 == fld x.test 28 23
       (h.setLane p l fun x =>
         { x with test := if n = 0 then w else setFld w 22 20 0, sync := x.sync && stays, syncAt := if stays then x.syncAt else none,
                  chkRun := if stays then x.chkRun else 0, gen := if fld w 31 29 = fld x.test 31 29 then x.gen else 0x7FFFFFFF,
                  burst := if n = 0 then x.burst else n, sentBits := 0 }).ok [])

/-- LINK_LANE_GET (R321; log entry 66). -/
def Hub.linkLaneGet (h : Hub) (p l clear : Nat) : Hub :=
  h.onPort p
    (if 3 < l ∨ 1 < clear then h.refuse St.badArg
     else
       let h := h.countBits p l 0
       let x := h.lane p l
       let b := be 6 x.bits ++ be 6 x.err ++ be 1 (if x.sync then 1 else 0) ++ pad 1 ++ be 2 x.syncLoss ++ be 4 x.invHdr ++
         be 2 x.lockLoss ++ be 2 x.markGlitch ++ be 2 x.alignFail ++ be 2 x.retrain ++ be 2 x.eyeW ++ be 2 x.eyeH
       let h := if clear = 1 then h.setLane p l fun x =>
           { x with bits := 0, err := 0, syncLoss := 0, invHdr := 0, lockLoss := 0, markGlitch := 0, alignFail := 0, retrain := 0,
                    eyeW := 0, eyeH := 0 }
         else h
       h.ok b)

/-- DEPART of this hub (Table 12-8). -/
def Hub.departBits (h : Hub) (cause : Nat) : Nat := h.addr * 2 ^ 40 + cause * 2 ^ 32 + h.ident.serial.toNat % 2 ^ 32

/-- LINK_COUPLER (R325, R348, R396): CLOSE sends DEPART first where P00 is UP (log entry 72). -/
def Hub.linkCoupler (h : Hub) (op : Nat) : Hub :=
  let f := h.flt
  if 1 < op then h.refuse St.badArg
  else if op = 0 then
    if f.closed ∧ !f.byHost then h.refuse St.fault
    else if f.closed then
      if h.couplerCause then h.refuse St.fault else h.openCoupler.ok []
    else h.ok []
  else if f.closed ∨ f.closing.isSome then h.ok []
  else if (h.prt 0).st = .up then
    (({ h with flt := { f with closing := some h.clk.elapsed } }).ctl 0 0xCC (h.departBits 2)).ok []
  else (h.closeCoupler true).ok []

/-! ## Lane lock (Table 11-4) -/

/-- Lanes that have still to pass in the step in progress all have: this end's result goes out (R311 step 5). -/
def StepRun.ready (r : StepRun) (q : Port) : Bool :=
  match r.own with
  | some own => (List.range 3).all fun l => !own.getD l false || (q.lanes.getD l Lane.reset).lock == .locked
  | none => false

/-- What both ends' results decide (R311, R313, R314): on with the next rate, back to traffic, one step further without a test,
down a rate, or to SEARCH. Where this end's L0 has failed, the rate has failed, whatever the peer says. The downstream end then waits for
STEP, which no MARK stands for until it comes; without L0 it cannot hear one, and goes on at once (R326). On a manual port the firmware
makes no further change of rate: the port returns to traffic where the rate has passed, and waits for the host where it has not, or carries out what the
host has ordered meanwhile (R309, R315). -/
def Hub.stepDone (h : Hub) (p : Nat) : Hub :=
  match (h.prt p).run with
  | none => h
  | some r =>
    match r.own, (if (r.own.getD []).getD 0 false then r.peer else some 0) with
    | some own, some peer =>
      let w := min (passWidth own peer) (h.widthCap p)
      let failed := [0, 1, 2].filter fun l => decide (l < r.fromWidth) && !own.getD l false
      let h := if r.cause = .retrain then h.setPort p fun q => { q with lost := q.lost ++ failed } else h
      let good := if 0 < w then (r.target, w) :: r.good else r.good
      let again (rate : Nat) (cause : StepCause) (h : Hub) : Hub :=
        let m := ((h.prt p).mcount + 2) % 65536
        let next : StepRun := { r with target := rate, at' := some (if upstream p then m else 65536), cause := cause, good := good,
                                       own := none, peer := none, since := h.clk.elapsed }
        let h := h.setPort p fun q => { q with run := some next }
        if upstream p then h.ctl p 0x66 (stepBits rate m)
        else if (h.lane p 0).lock == .locked then h else h.enterStep p
      if (h.prt p).st ≠ .training then h
      else if (h.prt p).manual then
        if 0 < w then ((h.portReturn p r.target w).countLost p).reAsk p
        else match (h.prt p).asked with
          | some (true, v) => (h.setPort p fun q => { q with run := none, asked := none }).relockAt p v
          | _ => h.setPort p fun q => { q with run := none }
      else if 0 < w then
        if r.cause ≠ .retrain ∧ r.target < h.rateCap p then again (r.target + 1) r.cause h
        else match bestOf good with
          | some (br, bw) => if br = r.target then ((h.portReturn p br bw).countLost p).reAsk p else again br .settle h
          | none => h
      else if r.cause = .retrain then
        if r.target = 0 then (h.countLost p).portStart p else again (r.target - 1) .retrain h
      else match bestOf good with
        | some (br, _) => again br .settle h
        | none => h.portStart p
    | _, _ => h

/-- The skew of a lane to L0 is within 8 block periods, by MCOUNT and the times of their last MARKs (R304; log entry 58). -/
def Port.skewOk (q : Port) (i : Nat) : Bool :=
  let a := q.lanes.getD 0 Lane.reset
  let b := q.lanes.getD i Lane.reset
  let marks := signed 40 ((b.mcount + 2 ^ 40 - a.mcount) % 2 ^ 40)
  let apart : Int := ((b.markAt : Int) - a.markAt) * lineRate q.rate - marks * (1024 * 66 * 1000000000)
  decide (apart.natAbs ≤ 8 * 66 * 1000000000)

/-- This end knows which lanes passed: without an error, and with their skew within the limit after they have locked. RESULT goes out (R304,
R311). -/
def Hub.sendResult (h : Hub) (p : Nat) : Hub :=
  match (h.prt p).run with
  | some r =>
    match r.own with
    | some own =>
      let own := own.mapIdx fun l ok => ok && (h.prt p).skewOk l
      ((h.setPort p fun q => { q with run := some { r with own := some own } }).ctl p 0x66 (resultBits r.target (laneField own))).stepDone p
    | none => h
  | none => h

/-- A port that settles goes back to traffic once every lane of its width has locked (R311). -/
def Hub.settled (h : Hub) (p : Nat) : Hub :=
  match (h.prt p).run with
  | some r =>
    match r.good.find? (fun g => g.1 == r.target) with
    | some (br, bw) =>
      let w := min bw (h.widthCap p)
      if (List.range w).all fun i => (h.lane p i).lock == .locked then ((h.portReturn p br w).countLost p).reAsk p else h
    | none => h
  | none => h

/-- A lane has locked (R305, R307, R308, R311). -/
def Hub.laneLocked (h : Hub) (p l : Nat) : Hub :=
  let h := h.setLane p l fun x => { x.mended with lock := .locked, alignOfs := x.offset, count := 0, recent := [], tried := 0 }
  let q := h.prt p
  match q.st, q.run with
  | .search, _ => h.tryUp p
  | .training, some r =>
    if r.at'.isSome then h
    else if r.cause = .settle then h.settled p
    else if r.ready q then h.sendResult p else h
  | _, _ => h

/-- The firmware may slip the lane (R309). -/
def Hub.slips (h : Hub) (p l : Nat) : Hub :=
  h.setLane p l fun x => if (h.prt p).manual then { x with lock := .hunt, count := 0, recent := [] } else x.nextOffset h.clk.elapsed

/-- The port's data receivers run on blocks: not in PLAIN, TEST, PARKED, BYPASSED or OFF (R300, R316, R320, R324), nor while PRBS31 comes raw
(R311). -/
def Port.receives (q : Port) : Bool :=
  match q.st with
  | .search | .wiring | .up => true
  | .training => !q.prbsPeriod
  | _ => false

/-- A lane's lock machine runs (Table 11-4): its port receives blocks, and the lane is in service, awake and not in the check of R317. -/
def Hub.locks (h : Hub) (p l : Nat) : Bool :=
  let x := h.lane p l
  (h.prt p).receives && !x.retired && !x.parked && !x.checking h.clk.elapsed

/-- 64 consecutive valid headers (Table 11-4). -/
def Hub.validHeaders (h : Hub) (p l : Nat) : Hub :=
  let x := h.lane p l
  if h.locks p l ∧ x.lock = .hunt ∧ x.tried < 66 then h.setLane p l fun x => { x with lock := .markWait, count := 0 } else h

/-- The length of 64 blocks on the port's data lanes in ns (Table 09-13). -/
def Hub.window64 (h : Hub) (p : Nat) : Nat := 64 * 66 * 1000000000 / lineRate (h.prt p).rate

/-- Loss of lock of a locked lane: its search begins (R305, R307). -/
def Hub.loseLock (h : Hub) (p l : Nat) : Hub :=
  (h.setLane p l fun x => { x with lock := .hunt, count := 0, recent := [], tried := 0, huntAt := h.clk.elapsed, lockLoss := satInc 16 x.lockLoss }).lockLost p l

/-- An invalid header (Table 11-4). -/
def Hub.invalidHeader (h : Hub) (p l : Nat) : Hub :=
  if !h.locks p l then h else
  let now := h.clk.elapsed
  let win := h.window64 p
  let h := h.setLane p l fun x =>
    { x with invHdr := satInc 32 x.invHdr, recent := (now :: x.recent.filter fun t => decide (now < t + win)).take 16 }
  let x := h.lane p l
  match x.lock with
  | .hunt => if x.tried < 66 then h.slips p l else h
  | .markWait | .confirm =>
    if 16 ≤ x.recent.length then h.setLane p l fun x => { x with lock := .hunt, count := 0, recent := [] } else h
  | .locked => if 16 ≤ x.recent.length then h.loseLock p l else h

/-- The step that a received MARK of L0 carries, at the downstream end, and a width change, which its own next MARK then carries (R311, R319;
log entry 69). -/
def Hub.atMark (h : Hub) (p mcount : Nat) : Hub :=
  let q := h.prt p
  let h := match q.run with
    | some r => if r.at' = some (mcount % 65536) then h.enterStep p else h
    | none => h
  match q.widthRun with
  | some ⟨w, some (o, m), _⟩ =>
    if m = mcount % 65536 ∧ (h.prt p).st = .up then h.setPort p fun q => { q with widthRun := some ⟨w, some (o, m), true⟩ } else h
  | _ => h

/-- How many slots of 1,024 blocks after a lane's last MARK the present is, where it is at one: to one reference cycle, in which true time
moves (R305; log entry 58). -/
def Hub.markSlot (h : Hub) (p l : Nat) : Option Nat :=
  let r := lineRate (h.prt p).rate
  let t := (h.clk.elapsed - (h.lane p l).markAt) * r
  let slot := 1024 * 66 * 1000000000
  let k := (t + slot / 2) / slot
  if t ≤ k * slot + 8 * r ∧ k * slot ≤ t + 8 * r then some k else none

/-- A MARK block (Table 11-4; log entries 58 and 70): in MARK_CONFIRM it comes exactly 1,024 blocks after the last, in LOCKED at that spacing with
no more than two missing. -/
def Hub.markBlock (h : Hub) (p l mcount : Nat) : Hub :=
  let x := h.lane p l
  let now := h.clk.elapsed
  let slot := h.markSlot p l
  if !h.locks p l then h
  else match x.lock with
  | .hunt => h
  | .markWait => h.setLane p l fun x => { x with lock := .confirm, count := 1, mcount := mcount, markAt := now }
  | .confirm =>
    if slot ≠ some 1 then h.setLane p l fun x => { x with lock := .markWait, count := 0 }
    else
      let h := h.setLane p l fun x => { x with count := x.count + 1, mcount := mcount, markAt := now }
      if x.count + 1 < 3 then h else h.laneLocked p l
  | .locked =>
    if slot.all fun k => decide (k = 0 ∨ 3 < k) then h.setLane p l fun x => { x with markGlitch := satInc 16 x.markGlitch }
    else
      let h := h.setLane p l fun x => { x with mcount := mcount, markAt := now }
      if l = 0 ∧ !upstream p then h.atMark p mcount else h

/-- In MARK_CONFIRM no MARK where expected (Table 11-4). -/
def Hub.noMark (h : Hub) (p l : Nat) : Hub :=
  if h.locks p l ∧ (h.lane p l).lock = .confirm then h.setLane p l fun x => { x with lock := .markWait, count := 0 } else h

/-- 1,088 blocks without a MARK, or three missing in lock (Table 11-4). -/
def Hub.markWaitTimeout (h : Hub) (p l : Nat) : Hub :=
  if !h.locks p l then h
  else match (h.lane p l).lock with
  | .markWait => h.slips p l
  | .locked => h.loseLock p l
  | _ => h

/-- An offset that has not locked in 400 µs (R307). -/
def Hub.offsetTimeout (h : Hub) (p l : Nat) : Hub :=
  let x := h.lane p l
  if x.lock = .locked ∨ 66 ≤ x.tried ∨ 2 < l ∨ !h.locks p l ∨ h.clk.elapsed < x.huntAt + 400000 then h else h.slips p l

/-- All 66 offsets have failed and 1 ms has passed: the search begins again from the present offset, and in a step the lane has failed its
check (R307, R311). Where a port settles, it does so without the lane; with L0 gone, or at a downstream end that waits for STEP without L0, it
begins again in SEARCH, as its neighbour does (R314, R326; log entry 193). -/
def Hub.alignFail (h : Hub) (p l : Nat) : Hub :=
  if !h.locks p l ∨ (h.lane p l).tried < 66 ∨ h.clk.elapsed < (h.lane p l).huntAt + 1000000 then h
  else
    let h := h.setLane p l fun x => { x with tried := 0, huntAt := h.clk.elapsed }
    match (h.prt p).run with
    | some r =>
      match r.own with
      | some own =>
        if !own.getD l false then h
        else
          let h := h.setPort p fun q => { q with run := some { r with own := some (modAt own l fun _ => false) } }
          match (h.prt p).run with
          | some r' => if r'.ready (h.prt p) then h.sendResult p else h
          | none => h
      | none =>
        if (h.prt p).st ≠ .training then h
        else if r.at'.isSome then (if l = 0 ∧ !upstream p then (h.countLost p).portStart p else h)
        else if r.cause ≠ .settle then h
        else if l = 0 then (h.countLost p).portStart p
        else
          let good := r.good.map fun g => if g.1 = r.target then (g.1, min g.2 l) else g
          (h.setPort p fun q => { q with run := some { r with good := good } }).settled p
    | none => h

/-! ## Bring-up (R308, R17) -/

/-- TRAIN HELLO: what the peer is and can, and the wiring check of R17. -/
def Hub.hello (h : Hub) (p role maxRate maxWidth locked : Nat) : Hub :=
  let q := h.prt p
  let fits := if p = 0 then role == 1 || role == 3 || role == 4 else role == 2
  let h := if q.st = .wiring ∧ role ≠ q.peer then h.portStart p else h
  if (h.prt p).st ≠ .search then h
  else
    let h := h.setPort p fun q => { q with peer := role, peerRate := min 4 maxRate, peerWidth := maxWidth, peerLocked := locked }
    if fits then h.tryUp p
    else (h.setPort p fun q => { q with st := .wiring }).notice (unitPort p) 0x0801 (argN role) 0

/-- TRAIN SERIAL: the exchange is complete. -/
def Hub.serial (h : Hub) (p : Nat) (sn : BitVec 48) : Hub :=
  if (h.prt p).st ≠ .search then h else (h.setPort p fun q => { q with peerSerial := some sn }).tryUp p

/-! ## Steps and retrains (R310 to R315) -/

/-- TRAIN STEP from the upstream end. On P00 a step up waits for the start-up sequence (R310; log entry 71); this end's own
request gives way (R315). On a manual port a step is made that the host has asked for (R309). -/
def Hub.trainStep (h : Hub) (p rate mcount : Nat) : Hub :=
  let q := h.prt p
  if upstream p ∨ 4 < rate ∨ (q.manual ∧ q.askedAt.isNone) then h
  else if q.st = .training then
    match q.run with
    | some r =>
      let settle := r.good.any fun g => g.1 == rate
      let next : StepRun := { r with target := rate, at' := some (mcount % 65536),
                                     cause := if r.cause = .settle ∧ !settle then .stepUp else r.cause, own := none, peer := none,
                                     since := h.clk.elapsed }
      let h := h.setPort p fun q => { q with run := some next }
      if (h.lane p 0).lock == .locked then h else h.enterStep p
    | none => h
  else if q.st ≠ .up then h
  else if q.rate < rate ∧ !h.boot.p00Released then h.setPort p fun q => { q with asked := some (true, rate) }
  else
    let up := q.rate < rate
    let r : StepRun := { target := rate, at' := some (mcount % 65536), cause := if up then .stepUp else .retrain, fromRate := q.rate,
                         fromWidth := q.width, good := if up then [(q.rate, q.width)] else [], own := none, peer := none,
                         since := h.clk.elapsed }
    let h := h.setPort p fun q => { q with run := some r, askedAt := none, quietAt := h.clk.elapsed }
    if (h.lane p 0).lock == .locked then h else h.enterStep p

/-- P00 is released for step-up: a STEP that waited goes on (R310, R478). -/
def Hub.releaseP00 (h : Hub) : Hub :=
  let h := { h with boot := { h.boot with p00Released := true } }
  let q := h.prt 0
  match q.asked with
  | some (true, r) =>
    let h := h.setPort 0 fun q => { q with asked := none }
    h.trainStep 0 r ((h.lane 0 0).mcount + 2)
  | _ =>
    if q.st = .up ∧ q.run.isNone ∧ h.rateCap 0 ≤ q.rate then { h with boot := { h.boot with p00Settled := true } } else h

/-- The PRBS31 period ends: after 1.5 ms of a step, or the 1 ms of a lane that rejoins. `passed` names the lanes with no error in its last 1.0 ms.
In a step the lanes return to blocks (R311); a lane that rejoins an UP port has then passed at this end and joins by a width change, or parks
again (R317, R319). -/
def Hub.prbsCheck (h : Hub) (p : Nat) (passed : List Bool) : Hub :=
  let q := h.prt p
  match q.st, q.run with
  | .training, some r =>
    if r.cause = .settle ∨ r.own.isSome ∨ r.at'.isSome ∨ h.clk.elapsed < r.since + 1500000 then h
    else
      let own := (List.range 3).map fun l => passed.getD l false && !(q.lanes.getD l Lane.reset).retired
      let h := h.setPort p fun q =>
        { q with run := some { r with own := some own }, blk := 0, lanes := q.lanes.mapIdx fun i l => if i < 3 then l.hunt h.clk.elapsed else l }
      match (h.prt p).run with
      | some r' => if r'.ready (h.prt p) then h.sendResult p else h
      | none => h
  | .up, _ =>
    let now := h.clk.elapsed
    let timeUp (x : Lane) : Bool := x.rejoins && (match x.wakeAt with | some t => decide (t + 3000000 ≤ now) | none => false)
    (h.setPort p fun q =>
      { q with lanes := q.lanes.mapIdx fun i x =>
          if !timeUp x then x
          else if passed.getD i false && x.lock == .locked then { x with passed := true }
          else { x.hunt now with parked := true } }).widthSettle p
  | _, _ => h

/-- TRAIN RESULT from the other end. -/
def Hub.result (h : Hub) (p rate lanes : Nat) : Hub :=
  match (h.prt p).run with
  | some r =>
    if r.target ≠ rate ∨ r.cause = .settle ∨ (h.prt p).st ≠ .training then h
    else (h.setPort p fun q => { q with run := some { r with peer := some (lanes % 8) } }).stepDone p
  | none => h

/-- This end wins a collision of requests: it is the upstream end of the link, or, where the role exchange has not completed, it has the higher
serial number (R315). -/
def Hub.wins (h : Hub) (p : Nat) : Bool :=
  let q := h.prt p
  match q.peer, q.peerSerial with
  | 0, some sn => decide (sn.toNat < h.ident.serial.toNat)
  | _, _ => upstream p

/-- This end's own request is unanswered, or it was sent within 16 µs (R315). -/
def Hub.collides (h : Hub) (p : Nat) : Bool :=
  let q := h.prt p
  let open' := match q.run, q.widthRun with
    | some r, _ => r.at'.isSome
    | none, some ⟨_, none, _⟩ => true
    | _, _ => false
  open' || (match q.askedAt with | some t => decide (h.clk.elapsed ≤ t + 16000) | none => false)

/-- TRAIN REQUEST from the downstream end (R310, R315): where this end has asked for a retrain itself, its own wins. -/
def Hub.trainRequest (h : Hub) (p rate : Nat) : Hub :=
  let q := h.prt p
  if !upstream p ∨ 4 < rate ∨ q.manual ∨ (h.wins p ∧ h.collides p ∧ q.run.isSome) then h
  else h.askRate p rate

/-- PROBE (R313). -/
def Hub.probe (h : Hub) (p : Nat) : Hub :=
  let q := h.prt p
  if !upstream p ∨ !bitOf q.cfg 17 ∨ q.st ≠ .up ∨ q.run.isSome ∨ q.manual ∨ 2 ≤ h.pwr.shed ∨
      h.clk.elapsed < q.quietAt + 600000000000 then h
  else if q.rate < h.rateCap p then h.startStep p (q.rate + 1) .probe [(q.rate, q.width)]
  else if q.width < h.widthCap p then (h.askWidth p (q.width + 1)).setPort p fun q => { q with quietAt := h.clk.elapsed }
  else h

/-! ## Power states of a port (R316, R451) -/

/-- PARK: a HUB port other than P00 that has searched for PARK_IDLE, with no peer there: none has been heard, and no lane is locked. -/
def Hub.parkPort (h : Hub) (p : Nat) : Hub :=
  let q := h.prt p
  if p = 0 ∨ q.st ≠ .search ∨ q.mode ≠ 1 ∨ q.peer ≠ 0 ∨ q.lockedMask ≠ 0 ∨ (!bitOf q.cfg 16 && h.pwr.st != .doze) ∨
      h.clk.elapsed < q.searchAt + fld q.cfg 15 0 * 1000000 then h
  else h.portLost p .parked

/-- Signal on a parked port's L0. -/
def Hub.signalDetect (h : Hub) (p : Nat) : Hub := if (h.prt p).st = .parked then h.portStart p else h

/-! ## Width changes (R315, R318, R319) -/

/-- WIDTH REQUEST: the upstream end begins a change, the downstream end answers with its lanes, once those that it wakes have passed their check. The loser of a collision withdraws its own
(R315); on a manual port the firmware answers where the host has asked (R309). -/
def Hub.widthRequest (h : Hub) (p w : Nat) : Hub :=
  let q := h.prt p
  if q.st ≠ .up ∨ (q.manual ∧ (upstream p ∨ q.askedAt.isNone)) ∨ w = 0 then h
  else if upstream p then
    if h.wins p ∧ h.collides p ∧ (q.widthRun.isSome ∨ q.run.isSome) then h else h.askWidth p (min w (h.widthCap p))
  else
    let h := h.setPort p fun q =>
      { q with askedAt := if q.manual then q.askedAt else none, widthRun := some ⟨w, none, false⟩, lanes := q.wakeTo h.clk.elapsed w }
    h.widthSettle p

/-- WIDTH ANSWER at the upstream end: the smaller width is ordered at the MARK two MARKs on, once this end's lanes have passed too. -/
def Hub.answer (h : Hub) (p lanes : Nat) : Hub :=
  match (h.prt p).widthRun with
  | some ⟨_, none, _⟩ => if upstream p then (h.setPort p fun q => { q with answered := some lanes }).widthSettle p else h
  | _ => h

/-- WIDTH ORDER at the downstream end; on a manual port of a change that the host has asked for (R309). -/
def Hub.order (h : Hub) (p w mcount : Nat) : Hub :=
  if upstream p ∨ (h.prt p).st ≠ .up ∨ w = 0 ∨ 3 < w ∨ ((h.prt p).manual ∧ (h.prt p).askedAt.isNone) then h
  else h.setPort p fun q => { q with askedAt := none, widthRun := some ⟨w, some (w, mcount % 65536), false⟩ }

/-- The elastic buffer overruns (R463, Table 17-10). -/
def Hub.elasticSlip (h : Hub) (p l : Nat) : Hub := (h.notice (unitPort p) 0x0A05 (argN l) 0).retrain p

/-! ## Pattern checkers (R321) -/

/-- The checker declares sync with a pattern from outside: it runs on a data lane of a port in TEST mode with CHK set. In near-end loopback it
finds its sync itself, LT's too (R321, R323). -/
def Hub.prbsSync (h : Hub) (p l : Nat) : Hub :=
  let t := (h.lane p l).test
  if (h.prt p).st ≠ .test ∨ fld t 28 26 = 0 ∨ fld t 24 23 = 1 ∨ l = 3 ∨ (h.lane p l).sync then h
  else h.setLane p l fun x => { x with sync := true, syncAt := some h.clk.elapsed }

/-- The checker loses sync: more than 256 errors of a window of 1,024 bits were counted (log entry 62). -/
def Hub.syncLoss (h : Hub) (p l : Nat) : Hub :=
  if !(h.lane p l).sync ∨ (h.lane p l).syncAt.isNone then h
  else
    (h.countBits p l 257).setLane p l fun x => { x with sync := false, syncAt := none, syncLoss := satInc 16 x.syncLoss }

/-! ## Meanings -/

/-- LINK_CFG_SET (R297). -/
def execLinkCfgSet (port : Nat) (w : Word) (s : State) : Out := act s fun h => h.linkCfgSet port w
/-- LINK_CFG_GET (R297). -/
def execLinkCfgGet (port : Nat) (s : State) : Out := act s fun h => h.linkCfgGet port
/-- LINK_STATUS (R297). -/
def execLinkStatus (port : Nat) (s : State) : Out := act s fun h => h.linkStatusGet port
/-- LINK_MANUAL (R309). -/
def execLinkManual (port on : Nat) (s : State) : Out := act s fun h => h.linkManual port on
/-- LINK_SLIP (R396). -/
def execLinkSlip (port lane : Nat) (s : State) : Out := act s fun h => h.linkSlip port lane
/-- LINK_RATE (R396). -/
def execLinkRate (port rate : Nat) (s : State) : Out := act s fun h => h.linkRate port rate
/-- LINK_WIDTH (R318). -/
def execLinkWidth (port width : Nat) (s : State) : Out := act s fun h => h.linkWidth port width
/-- LINK_TEST_SET (R320). -/
def execLinkTestSet (port lane : Nat) (w : Word) (s : State) : Out := act s fun h => h.linkTestSet port lane w
/-- LINK_LANE_GET (R321). -/
def execLinkLaneGet (port lane clear : Nat) (s : State) : Out := act s fun h => h.linkLaneGet port lane clear
/-- LINK_COUPLER (R325). -/
def execLinkCoupler (op : Nat) (s : State) : Out := act s fun h => h.linkCoupler op
/-- OFFSET_TIMEOUT (R307). -/
def execOffsetTimeout (port lane : Nat) (s : State) : Out := act s fun h => h.offsetTimeout port lane
/-- ALIGN_FAIL (R307). -/
def execAlignFail (port lane : Nat) (s : State) : Out := act s fun h => h.alignFail port lane
/-- MARK (R305). -/
def execMark (port lane _width mcount : Nat) (s : State) : Out := act s fun h => h.markBlock port lane mcount
/-- INVALID_HEADER (R305). -/
def execInvalidHeader (port lane : Nat) (s : State) : Out := act s fun h => h.invalidHeader port lane
/-- MARK_WAIT_TIMEOUT (R305). -/
def execMarkWaitTimeout (port lane : Nat) (s : State) : Out := act s fun h => h.markWaitTimeout port lane
/-- VALID_HEADERS (R305). -/
def execValidHeaders (port lane : Nat) (s : State) : Out := act s fun h => h.validHeaders port lane
/-- NO_MARK_WHERE_EXPECTED (R305). -/
def execNoMarkWhereExpected (port lane : Nat) (s : State) : Out := act s fun h => h.noMark port lane
/-- HELLO (R308). -/
def execHello (port role maxRate maxWidth locked : Nat) (s : State) : Out := act s fun h => h.hello port role maxRate maxWidth locked
/-- SERIAL (R308). -/
def execSerial (port : Nat) (sn : BitVec 48) (s : State) : Out := act s fun h => h.serial port sn
/-- STEP (R311). -/
def execTrainStep (port rate mcount : Nat) (s : State) : Out := act s fun h => h.trainStep port rate mcount
/-- PRBS_CHECK (R311). -/
def execPrbsCheck (port : Nat) (passed : List Bool) (s : State) : Out := act s fun h => h.prbsCheck port passed
/-- RESULT (R311). -/
def execResult (port rate lanes : Nat) (s : State) : Out := act s fun h => h.result port rate lanes
/-- TRAIN_REQUEST (R310). -/
def execTrainRequest (port rate : Nat) (s : State) : Out := act s fun h => h.trainRequest port rate
/-- PROBE (R313). -/
def execProbe (port : Nat) (s : State) : Out := act s fun h => h.probe port
/-- PARK (R316). -/
def execPark (port : Nat) (s : State) : Out := act s fun h => h.parkPort port
/-- SIGNAL_DETECT (R316). -/
def execSignalDetect (port : Nat) (s : State) : Out := act s fun h => h.signalDetect port
/-- WIDTH_REQUEST (R318). -/
def execWidthRequest (port width : Nat) (s : State) : Out := act s fun h => h.widthRequest port width
/-- ORDER (R319). -/
def execOrder (port width mcount : Nat) (s : State) : Out := act s fun h => h.order port width mcount
/-- ANSWER (R318). -/
def execAnswer (port lanes : Nat) (s : State) : Out := act s fun h => h.answer port lanes
/-- MARKER (R109). -/
def execMarker (fine : List Int) (s : State) : Out := act s fun h => h.ltMarker fine
/-- CLOCK_LOSS (R109). -/
def execClockLoss (s : State) : Out := act s Hub.ltLost
/-- ELASTIC_SLIP (R463). -/
def execElasticSlip (port lane : Nat) (s : State) : Out := act s fun h => h.elasticSlip port lane
/-- PRBS_SYNC (R321). -/
def execPrbsSync (port lane : Nat) (s : State) : Out := act s fun h => h.prbsSync port lane
/-- SYNC_LOSS (R321). -/
def execSyncLoss (port lane : Nat) (s : State) : Out := act s fun h => h.syncLoss port lane

end Sys2Proof.Machine
end

