-- ==== Sys2Proof/Machine/Krenlink.lean ====
section
/-! DEFINITION. Krenlink: packet blocks and the sender, acceptance and retransmission, PAUSE, routing, enumeration (12). -/

namespace Sys2Proof.Machine

/-! ## Packets as blocks (Tables 12-2 and 12-3, R330) -/

/-- LEN: header, body and trailer blocks. -/
def Frame.blocks (f : Frame) : Nat := 2 + ceilDiv f.body.length 8
/-- PAD: padding bytes in the last body block. -/
def Frame.padding (f : Frame) : Nat := 8 * ceilDiv f.body.length 8 - f.body.length

/-- The header block. -/
def Frame.header (f : Frame) : Nat :=
  f.cls * 2 ^ 60 + f.kind * 2 ^ 56 + f.dest * 2 ^ 40 + f.src * 2 ^ 24 + f.blocks * 2 ^ 12

/-- The trailer block with a SEQ: CRC-32 over header, body and the trailer's upper half; of a packet given up, with ABORT, the CRC
inverted bit by bit and no SEQ (R333). -/
def Frame.trailer (f : Frame) (seq : Nat) : Nat :=
  let top := (if f.abort then 2 ^ 12 else seq * 2 ^ 16) + f.padding * 2 ^ 13
  let crc := (crc32 (be 8 f.header ++ f.body ++ pad f.padding ++ be 4 top)).toNat
  top * 2 ^ 32 + if f.abort then 2 ^ 32 - 1 - crc else crc

/-- Block i of the packet. -/
def Frame.block (f : Frame) (i seq : Nat) : Nat :=
  if i = 0 then f.header
  else if i + 1 = f.blocks then f.trailer seq
  else unbe (((f.body ++ pad f.padding).drop (8 * (i - 1))).take 8)

/-- The scrambler x^58 + x^39 + 1 over 64 payload bits, the most significant first (R302): new state and sent bits. -/
def scramble (st : BitVec 58) (d : BitVec 64) : BitVec 58 × BitVec 64 :=
  (List.range 64).foldl (fun (acc : BitVec 58 × BitVec 64) i =>
    let b := d.getMsbD i != (acc.1.getLsbD 38 != acc.1.getLsbD 57)
    let bit : Nat := if b then 1 else 0
    ((acc.1 <<< 1) ||| BitVec.ofNat 58 bit, (acc.2 <<< 1) ||| BitVec.ofNat 64 bit)) (st, 0)

/-- The descrambler of a receiver over 64 payload bits (R302): new state, which holds received bits, and recovered bits. -/
def descramble (st : BitVec 58) (s : BitVec 64) : BitVec 58 × BitVec 64 :=
  (List.range 64).foldl (fun (acc : BitVec 58 × BitVec 64) i =>
    let r := s.getMsbD i
    let b := r != (acc.1.getLsbD 38 != acc.1.getLsbD 57)
    ((acc.1 <<< 1) ||| BitVec.ofNat 58 (if r then 1 else 0), (acc.2 <<< 1) ||| BitVec.ofNat 64 (if b then 1 else 0))) (st, 0)

/-- A lane sends a block (R301, R302, R322). -/
def Lane.put (l : Lane) (control : Bool) (payload : Nat) : Lane :=
  let (st, bits) := scramble l.scr (BitVec.ofNat 64 payload)
  { l.passHits 64 with scr := st, sent := some (control, bits ^^^ l.hits 64) }

/-- Degree and tap of PRBS7, PRBS15, PRBS23 and PRBS31 by the code of GEN (R320). -/
def prbsTaps (gen : Nat) : Nat × Nat :=
  match gen with
  | 1 => (7, 6)
  | 2 => (15, 14)
  | 3 => (23, 18)
  | _ => (31, 28)

/-- A lane sends 66 line bits that are no block, with its injection where that may hit them: in TEST mode any bit, on a HUB port payload bits
alone (R322). -/
def Lane.sendRaw (inject : Bool) (b : BitVec 66) (l : Lane) : Lane :=
  if inject then { l.passHits 66 with raw := some (b ^^^ l.hits 66) } else { l with raw := some b }

/-- A lane sends the next 66 bits of a pattern raw, inverted where asked (R320). -/
def Lane.pattern (gen : Nat) (inv inject : Bool) (l : Lane) : Lane :=
  let (n, m) := prbsTaps gen
  let r := (List.range 66).foldl (fun (a : BitVec 31 × BitVec 66) _ =>
    let b := a.1.getLsbD (n - 1) != a.1.getLsbD (m - 1)
    ((a.1 <<< 1) ||| (if b then 1 else 0), (a.2 <<< 1) ||| (if b != inv then 1 else 0))) (l.gen, 0)
  { l with gen := r.1 }.sendRaw inject r.2

/-- The checker meets a received bit (R321): before sync it loads itself from what it receives, and declares sync after 64 right bits in a row;
in sync it counts, and loses sync with more than 256 errors among 1,024 bits. -/
def Lane.checkBit (n m : Nat) (l : Lane) (b : Bool) : Lane :=
  let want := l.chk.getLsbD (n - 1) != l.chk.getLsbD (m - 1)
  let load (x : Bool) : BitVec 31 := (l.chk <<< 1) ||| (if x then 1 else 0)
  if l.sync then
    let errs := (if b = want then l.chkErr else l.chkPos :: l.chkErr).filter fun t => decide (l.chkPos < t + 1024)
    let l := { l with bits := satInc 48 l.bits, err := if b = want then l.err else satInc 48 l.err, chk := load want, chkPos := l.chkPos + 1,
                      chkErr := errs }
    if 256 < errs.length then { l with sync := false, syncLoss := satInc 16 l.syncLoss, chkRun := 0, chkPos := 0, chkErr := [] } else l
  else
    let run := if b = want then l.chkRun + 1 else 0
    { l with chk := load b, chkRun := run, sync := decide (64 ≤ run), chkPos := 0, chkErr := [] }

/-- The checker of a lane in near-end loopback meets what the lane has just sent (R321, R323). -/
def Lane.checkLoop (l : Lane) : Lane :=
  match l.raw with
  | some r =>
    if fld l.test 28 26 = 0 then l
    else
      let t := prbsTaps (fld l.test 28 26)
      (List.range 66).foldl (fun l i => l.checkBit t.1 t.2 (r.getMsbD i != bitOf l.test 25)) l
  | none => l

/-- What the lanes of a port in TEST mode do in 66 line bits (R320, R322, R323): in near-end loopback a lane's checker meets the lane's own
pattern; in far-end loopback the lane sends the bits that it has recovered, rx, with its injection; with GEN off it sends nothing that the spec names; LT
has its generator and checker in near-end loopback alone. -/
def Port.patterns (rx : Nat → BitVec 66) (q : Port) : Port :=
  { q with lanes := q.lanes.mapIdx fun i (l : Lane) =>
      let gen := fld l.test 31 29
      let loop := fld l.test 24 23
      if i = 3 ∧ loop ≠ 1 then l
      else
        let l := if loop = 2 then l.sendRaw true (rx i)
          else if gen = 0 then { l.passHits 66 with raw := none } else l.pattern gen (bitOf l.test 25) true
        if loop = 1 then l.checkLoop else l }

/-- Data lanes that are up outside the width: all of them in bring-up and in a step, and in UP those that rejoin (R303, R308, R317). -/
def Port.sideLanes (q : Port) (w : Nat) : List Nat :=
  if q.st = .plain then []
  else (List.range 3).filter fun l => decide (w ≤ l) && !(q.lanes.getD l Lane.reset).parked && !(q.lanes.getD l Lane.reset).retired

/-! ## What a port may start (R332, R336) -/

/-- A class's share of the replay buffer in bytes (Table 12-1). -/
def classShare (cls : Nat) : Nat := [131072, 126976, 131072, 114688].getD (cls - 1) 0

/-- Bytes that are held for replay. -/
def Link.heldBytes (k : Link) : Nat := (k.replay.map fun x => 8 * x.2.blocks).sum

/-- STREAM packets may not begin: the peer's latest PAUSE is set, none has come yet, or FCI holds the port (R258, R332, R340). -/
def Port.streamHeld (q : Port) : Bool :=
  q.fciHold || (q.st == .up && !q.link.pauseGone && q.link.pauseRx != some false)

/-- The flow has a pail or a backlog for the port, which Table 09-2 lets it leave on: P00, or a branch port in PLAIN mode (R237). -/
def Hub.feedsPort (h : Hub) (p : Nat) (f : Flow) : Bool :=
  f.dest == .port p && (p == 0 || (h.prt p).st == .plain) && !(f.yoke.isEmpty && f.backlog.isEmpty)

/-- No packet of the flow is under way on a port. -/
def Flow.idleOn (f : Flow) (p : Nat) : Bool := !(f.past.any fun x => x.1 == p) && (f.dest != .port p || f.sending.isNone)

/-- Flows that have a packet for the port: re-sends, which go out on P00 whatever the flow's route is now, and pails (R237, R249, R253, R391). -/
def Hub.readyFlows (h : Hub) (p : Nat) : List Flow :=
  h.flows.filter fun f => f.idleOn p && ((p == 0 && !f.resend.isEmpty) || (f.sending.isNone && h.feedsPort p f))

/-- The packet that a flow sends next, and the flow after it has begun (R249, R253). -/
def Flow.take (f : Flow) (p : Nat) : Option (Packet × Flow) :=
  match (if p = 0 then f.resend else []) with
  | k :: r => some (k, if f.dest = .port 0 then { f with resend := r, sending := some k } else { f with resend := r, past := f.past ++ [(0, k)] })
  | [] =>
    match f.yoke ++ f.backlog with
    | k :: _ => some (k, { f with sending := some k })
    | [] => none

/-- A frame fits the class's share, and the hub may send packets: it has an address on HUB ports (R336, R342). -/
def Hub.mayStart (h : Hub) (p : Nat) (f : Frame) : Bool :=
  let k := (h.prt p).link
  (h.prt p).st == .plain || (h.addressed && decide (k.heldBytes + 8 * f.blocks ≤ classShare f.cls))

/-- The next new packet of a class: from its queue, and for STREAM also from the flows (R332; log entry 24). -/
def Hub.nextNew (h : Hub) (p cls : Nat) : Option (Frame × Hub) :=
  let q := h.prt p
  let queue := q.link.queues.getD (cls - 1) []
  let fromQueue (_ : Unit) : Option (Frame × Hub) :=
    match queue with
    | f :: r =>
      if h.mayStart p f then some (f, h.setLink p fun k => { k with queues := modAt k.queues (cls - 1) fun _ => r }) else none
    | [] => none
  if cls ≠ 4 then fromQueue ()
  else if q.streamHeld then none
  else
    let fl := h.readyFlows p
    let n := fl.length + (if queue.isEmpty then 0 else 1)
    let h' := if 1 < n then h.tick else h
    let i := if 1 < n then Config.pickFlow h'.fresh % n else 0
    match fl[i]? with
    | none => fromQueue ()
    | some f =>
      match f.take p with
      | none => none
      | some (k, g) =>
        let fr : Frame := ⟨4, 0, 0, h.addr, k.bytes h.addr f.key, some (f.key, k.seq), false, true⟩
        if h.mayStart p fr then some (fr, h'.setFlow f.key fun _ => g) else none

/-- Starts what class a port sends from next: a packet in progress, a replay, or a new packet (R332, R336); on a HUB port of an unaddressed hub
nothing (R342). Replays go before any new packet and
one after another, in SEQ order; a packet that is already under way in the class of the next replay ends first, since a class's packets
follow one another (R331; log entry 166). -/
def Hub.pickClass (h : Hub) (p : Nat) : Option (Nat × Hub) :=
  let k := (h.prt p).link
  let start (cls : Nat) (f : Frame) (seq : Option Nat) (h : Hub) : Hub :=
    h.setLink p fun k => { k with active := modAt k.active (cls - 1) fun _ => some (f, f.blocks, seq) }
  let try1 (cls : Nat) : Option (Nat × Hub) :=
    match k.active.getD (cls - 1) none with
    | some _ => some (cls, h)
    | none => (h.nextNew p cls).map fun x => (cls, start cls x.1 none x.2)
  if (h.prt p).st ≠ .plain ∧ !h.addressed then none else
  let replaying (cls : Nat) : Bool := match k.active.getD (cls - 1) none with | some (_, _, s) => s.isSome | none => false
  match [1, 2, 3, 4].find? replaying, k.again with
  | some cls, _ => some (cls, h)
  | none, (s, f) :: r =>
    if (k.active.getD (f.cls - 1) none).isSome then some (f.cls, h)
    else some (f.cls, start f.cls f (some s) (h.setLink p fun k => { k with again := r }))
  | none, [] => [1, 2, 3, 4].findSome? try1

/-! ## The end of a packet (R335, R336, R248, R204) -/

/-- The packet of a flow that is under way on a port under a SEQ. -/
def Flow.underWay (f : Flow) (p : Nat) (seq : Word) : Option Packet :=
  ((f.past.find? fun x => x.1 == p && x.2.seq == seq).map Prod.snd).orElse fun _ => f.sending.filter fun k => k.seq == seq

/-- It is under way no more, and in no pail. -/
def Flow.arrive (f : Flow) (p : Nat) (seq : Word) : Flow :=
  if f.past.any fun x => x.1 == p && x.2.seq == seq then { f with past := f.past.filter fun x => !(x.1 == p && x.2.seq == seq) }
  else { f with sending := none, yoke := f.yoke.filter (fun x => x.seq != seq), backlog := f.backlog.filter fun x => x.seq != seq }

/-- A stream packet of this hub has gone out: on a HUB port it is held until it is acknowledged end to end, wherever its flow goes now; on a
PLAIN port sending it counts as its acknowledgement (R27, R29, R204, R248, R391). -/
def Hub.streamSent (h : Hub) (p : Nat) (key : FlowKey) (seq : Word) : Hub :=
  match h.findFlow key with
  | none => h
  | some f =>
    match f.underWay p seq with
    | none => h
    | some k =>
      let k : Packet := { k with sentAt := some h.clk.elapsed }
      let g := f.arrive p seq
      if (h.prt p).st = .plain then
        ((h.setFlow key fun _ => { g with lastAck := if g.held.isEmpty && seqBefore g.lastAck k.seq then k.seq else g.lastAck }).freeAcked key fun s =>
          !seqBefore k.seq s).flowTouch key.die
      else
        -- a re-sent packet that has been acknowledged meanwhile is gone (R248)
        (h.setFlow key fun _ =>
          { g with held := if f.held.any (fun x => x.seq == k.seq) then f.held.map fun x => if x.seq == k.seq then k else x
                           else if seqBefore f.lastAck k.seq then f.held ++ [k] else f.held }).flowTouch key.die

/-- The trailer has gone out (R335, R336). -/
def Hub.frameSent (h : Hub) (p : Nat) (f : Frame) (seq : Option Nat) : Hub :=
  let now := h.clk.elapsed
  let hub := (h.prt p).st != .plain
  let h := h.setLink p fun k =>
    let k := { k with active := modAt k.active (f.cls - 1) fun _ => none }
    if !hub || f.abort then k
    else match seq with
      | some s => if k.replay.any fun x => x.1 == s then { k with sentAt := (k.sentAt.filter fun x => x.1 != s) ++ [(s, now)] } else k
      | none =>
        { k with txSeq := (k.txSeq + 1) % 65536, replay := k.replay ++ [(k.txSeq, f)],
                 again := if k.again.isEmpty then [] else k.again ++ [(k.txSeq, f)], sentAt := k.sentAt ++ [(k.txSeq, now)],
                 ackAt := if k.replay.isEmpty then now else k.ackAt }
  match f.flow, seq with
  | some (key, s), none => h.streamSent p key s
  | none, none =>
    -- a Krenmail response of this hub has left: its place is free (R355)
    if p = 0 ∧ f.cls = 3 ∧ f.kind = 0 ∧ f.own then { h with mgmt := { h.mgmt with svcOut := h.mgmt.svcOut.tail } }
    else h
  | _, _ => h

/-! ## BLOCK_BOUNDARY (R303, R332) -/

/-- TIMECOR part A for the next second, once from 100 ms to 10 ms before it, with part S ahead of it where the hub steps there;
a load that the next counted second takes is named in part A (R110, R113, R130). -/
def Hub.timecorDue (h : Hub) (p : Nat) : Hub :=
  let next := secOf h.tm.now + 1
  let left := next * fuSec - h.tm.now
  if upstream p && (h.prt p).st == .up && (h.prt p).corSent != next && decide (left ≤ fuSec / 10) && decide (fuSec / 100 ≤ left) then
    let s := if h.tm.stepNext ≠ 0 ∧ h.tm.stepAt = next then h.ctl p 0x87 (2 * 2 ^ 52 + unsigned 32 h.tm.stepNext) else h
    let sec := if h.tm.src = .free ∧ h.tm.armed then h.tm.loadValue else next
    (s.ctl p 0x87 (h.tm.align.code * 2 ^ 49 + sec % 2 ^ 48)).setPort p fun q => { q with corSent := next }
  else h

/-- The control block that goes next on a lane: TIMECOR goes on L0 only (R110, R332). -/
def takeCtl (lane : Nat) : List CtlBlock → Option (CtlBlock × List CtlBlock)
  | [] => none
  | c :: r =>
    if c.code = 0x87 ∧ lane ≠ 0 then (takeCtl lane r).map fun x => (x.1, c :: x.2) else some (c, r)

/-- What follows the sending of a control block at this end: a DEPART of LINK_COUPLER closes the coupler (R348), and a downstream end that has asked
for a retrain without its L0 begins it (R310). -/
def Hub.ctlSent (h : Hub) (p : Nat) (c : CtlBlock) : Hub :=
  if p = 0 ∧ c.code = 0xCC ∧ h.flt.closing.isSome ∧ c.payload = h.departBits 2 then h.closeCoupler true
  else if c.code = 0x66 ∧ c.payload / 2 ^ 52 = 4 then h.requestSent p (c.payload / 2 ^ 49 % 8)
  else h

/-- Data lanes outside the width send a block each, and PRBS31 in the check of a lane that rejoins (R303, R317). -/
def Hub.sideBlock (h : Hub) (p : Nat) (b : Nat → Nat) : Hub :=
  forAll ((h.prt p).sideLanes (h.prt p).txWidth) (fun i h => h.setLane p i fun l =>
    if l.checking h.clk.elapsed then l.pattern 4 false false else l.put true (b i)) h

/-- The MARK slot of a lane (R303, R311, R319). With L0's MARK, MCOUNT advances and what was named for it happens; the downstream end makes its
change of width at the first MARK that it sends after it has received the one named (log entry 69). -/
def Hub.sendMark (h : Hub) (p lane : Nat) : Hub :=
  let h := if lane = 0 then h.setPort p fun q => { q with mcount := (q.mcount + 1) % 2 ^ 40 } else h
  let q := h.prt p
  let due := match q.widthRun with
    | some ⟨_, some (_, m), armed⟩ => if upstream p then m == q.mcount % 65536 else armed
    | _ => false
  let w := match q.widthRun with | some ⟨_, some (w, _), _⟩ => if due then w else max 1 q.width | _ => max 1 q.width
  let body := 0x2D * 2 ^ 56 + lane * 2 ^ 48 + w * 2 ^ 40 + q.mcount
  let h := h.setLane p lane fun l => l.put true body
  let last := decide (lane + 1 = q.txWidth)
  let mark (i : Nat) : Nat := 0x2D * 2 ^ 56 + i * 2 ^ 48 + w * 2 ^ 40 + q.mcount
  let h := if last then h.sideBlock p mark else h
  let h := if last then h.setPort p fun q => { q with blk := 0 } else h
  let h := if last && due && q.st == .up then h.applyWidth p w else h
  match (h.prt p).run with
  | some r => if last && upstream p && r.at' == some (q.mcount % 65536) then h.enterStep p else h
  | none => h

/-- The port sends blocks now: not during the PRBS test of a step (R311). -/
def Port.sends (q : Port) : Bool :=
  match q.st with
  | .up | .plain | .search | .wiring => true
  | .training => (match q.run with | some r => r.at'.isSome || r.own.isSome || r.cause == .settle | none => false)
  | _ => false

/-- One block of a packet of a class (R330, R335). -/
def Hub.sendPacketBlock (h : Hub) (p lane cls : Nat) : Hub :=
  let k := (h.prt p).link
  match k.active.getD (cls - 1) none with
  | none => h
  | some (f, left, seq) =>
    let s := if (h.prt p).st = .plain then 0 else seq.getD k.txSeq
    let h := h.setLane p lane fun l => l.put false (f.block (f.blocks - left) s)
    if left ≤ 1 then h.frameSent p f seq
    else h.setLink p fun k => { k with active := modAt k.active (cls - 1) fun _ => some (f, left - 1, seq) }

/-- BLOCK_BOUNDARY: the next block of a port, on the lane whose turn it is; lanes outside the width send IDLE with the last lane of it
(R303, R332). In SEARCH the TRAIN blocks of R308 take turns on all data lanes (log entry 67). In TEST mode and in the PRBS31 period of a
step the lanes send the next 66 bits of their patterns (R311, R320). -/
def Hub.blockBoundary (h : Hub) (p : Nat) : Hub :=
  if h.nPorts ≤ p then h
  else if (h.prt p).st = .test then h.tick.setPort p (Port.patterns fun i => Config.received h.tick.fresh i)
  else if (h.prt p).prbsPeriod then
    forAll [0, 1, 2] (fun l h => h.setLane p l fun x => if x.retired then x else x.pattern 4 false false) h
  else if !(h.prt p).sends then h
  else
    let q := h.prt p
    let w := q.txWidth
    let lane := q.blk % w
    let h := h.setPort p fun q => { q with blk := q.blk + 1 }
    let side (b : Nat) (h : Hub) : Hub :=
      if lane + 1 = w then h.sideBlock p (fun _ => b) else h
    if 1023 ≤ q.blk / w then h.sendMark p lane
    else if q.st = .search ∨ q.st = .wiring then
      let b := if q.blk % 2 = 0 then helloBits p q else serialBits h.ident.serial
      side (0x66 * 2 ^ 56 + b) (h.setLane p lane fun l => l.put true (0x66 * 2 ^ 56 + b))
    else
      let h := side (0x1E * 2 ^ 56) (h.timecorDue p)
      match takeCtl lane (h.prt p).link.ctl with
      | some (c, r) =>
        ((h.setLink p fun k => { k with ctl := r }).setLane p lane fun l => l.put true (c.code * 2 ^ 56 + c.payload)).ctlSent p c
      | none =>
        match (if q.st = .training then none else h.pickClass p) with
        | some (cls, h') =>
          if (h'.prt p).link.txClass = cls then h'.sendPacketBlock p lane cls
          else (h'.setLink p fun k => { k with txClass := cls }).setLane p lane fun l => l.put true (0x1E * 2 ^ 56 + cls * 2 ^ 52)
        | none => h.setLane p lane fun l => l.put true (0x1E * 2 ^ 56)

/-! ## Acceptance and retransmission (R331 to R338) -/

/-- The replay timeout in ns (R338). -/
def Link.timeout (k : Link) : Nat := max 20000 (min 10000000 (4 * k.delay))

/-- ACK of the last SEQ accepted; one that still waits is replaced (R338). -/
def Hub.sendAck (h : Hub) (p : Nat) : Hub :=
  h.setLink p fun k =>
    { k with unacked := 0, ctl := (k.ctl.filter fun c => c.code != 0x4B) ++ [⟨0x4B, (k.rxSeq + 65535) % 65536 * 2 ^ 40⟩] }

/-- A NAK block sent or received; more than 16 in a second lead to a retrain (R314, R337). -/
def Hub.countNak (h : Hub) (p : Nat) : Hub :=
  let now := h.clk.elapsed
  let h := h.setLink p fun k => { k with naks := (now :: k.naks.filter fun t => decide (now < t + 1000000000)).take 17 }
  if 16 < (h.prt p).link.naks.length then (h.setLink p fun k => { k with naks := [] }).retrain p else h

/-- Sends a NAK for the SEQ expected (R337, Table 12-4). -/
def Hub.sendNak (h : Hub) (p cause : Nat) : Hub :=
  (h.setLink p fun k =>
    { k with nakOpen := true, lastNakCause := cause, nakAt := h.clk.elapsed,
             ctl := k.ctl ++ [⟨0x55, k.rxSeq * 2 ^ 40 + cause * 2 ^ 32⟩] }).countNak p

/-- A packet that is not accepted: a NAK, unless one is out for the SEQ expected (R337). -/
def Hub.notAccepted (h : Hub) (p cause : Nat) : Hub := if (h.prt p).link.nakOpen then h else h.sendNak p cause

/-- A packet arrives on a HUB port (R331, R333, R334, R337, R338): the hub after it, and whether it was accepted. -/
def Hub.receive (h : Hub) (p : Nat) (k : PacketIn) : Hub × Bool :=
  let l := (h.prt p).link
  if (h.prt p).st ≠ .up then (h, false)
  else if l.rxClass = 0 ∨ k.cls ≠ l.rxClass ∨ k.lenBlocks < 3 then
    ((h.setLink p fun l => { l with frame := satInc 16 l.frame }).notAccepted p 3, false)
  else if k.aborted then
    let h := h.setLink p fun l => { l with abort := satInc 16 l.abort }
    (if k.cls = 2 ∧ p = 1 then { h with sep := { h.sep with replays := satInc 16 h.sep.replays } } else h, false)
  else if !k.crcGood then (h.notAccepted p 1, false)
  else if k.seq ≠ l.rxSeq then (h.notAccepted p 2, false)
  else ((h.setLink p fun l => { l with rxSeq := (l.rxSeq + 1) % 65536, nakOpen := false, unacked := l.unacked + 1 }).sendAck p, true)

/-- ACK (R338): frees what it names, and measures the delay. -/
def Hub.ackBlock (h : Hub) (p seq : Nat) : Hub :=
  let now := h.clk.elapsed
  h.setLink p fun k =>
    let freed (s : Nat) : Bool := !serialAfter 16 s seq
    let n := k.replay.filter fun x => !freed x.1
    let meas := (k.sentAt.find? fun x => x.1 == seq).map fun x => now - x.2
    { k with replay := n, again := k.again.filter fun x => !freed x.1, sentAt := k.sentAt.filter fun x => !freed x.1,
             ackAt := if n.length = k.replay.length then k.ackAt else now,
             delay := match meas with | some d => Config.smoothDelay k.delay d | none => k.delay }

/-- NAK (R337): replays from the SEQ named; a repeat within a replay timeout is ignored. -/
def Hub.nakBlock (h : Hub) (p seq : Nat) : Hub :=
  if (h.prt p).st ≠ .up then h
  else
    let now := h.clk.elapsed
    let k := (h.prt p).link
    let repeated := match k.lastNak with | some (s, t) => s == seq && decide (now < t + k.timeout) | none => false
    let h := if repeated then h
      else h.setLink p fun k => { k with lastNak := some (seq, now), again := k.replay.filter fun x => x.1 == seq || serialAfter 16 x.1 seq }
    h.countNak p

/-- No ACK has advanced for the replay timeout (R338). -/
def Hub.replayTimeout (h : Hub) (p : Nat) : Hub :=
  let k := (h.prt p).link
  if (h.prt p).st ≠ .up ∨ k.replay.isEmpty ∨ h.clk.elapsed < k.ackAt + k.timeout then h
  else h.setLink p fun k => { k with again := k.replay, ackAt := h.clk.elapsed }

/-- While it waits for the SEQ expected, the receiver repeats its NAK (R337). -/
def Hub.nakRepeat (h : Hub) (p : Nat) : Hub :=
  let k := (h.prt p).link
  if (h.prt p).st ≠ .up ∨ !k.nakOpen ∨ h.clk.elapsed < k.nakAt + k.timeout then h else h.sendNak p k.lastNakCause

/-! ## PAUSE (R340) -/

/-- A PAUSE block. -/
def Hub.pauseBlock (h : Hub) (p : Nat) (st : Bool) : Hub :=
  h.setLink p fun k => { k with pauseRx := some st, pauseAt := h.clk.elapsed, pauseGone := false }

/-- PAUSE in the present state, every 16 µs. -/
def Hub.pauseRepeat (h : Hub) (p : Nat) : Hub :=
  if (h.prt p).st ≠ .up then h
  else h.setLink p fun k => { k with ctl := (k.ctl.filter fun c => c.code != 0x33) ++ [⟨0x33, pauseBits k.pauseTx⟩] }

/-- No PAUSE for 100 µs while the link is up: the peer is taken as clear. -/
def Hub.pauseLost (h : Hub) (p : Nat) : Hub :=
  let k := (h.prt p).link
  if (h.prt p).st ≠ .up ∨ k.pauseGone ∨ h.clk.elapsed < k.pauseAt + 100000 then h
  else h.setLink p fun k => { k with pauseGone := true, pauseLost := satInc 16 k.pauseLost }

/-- A control block of no known meaning (R339). -/
def Hub.invCtl (h : Hub) (p : Nat) : Hub := h.setLink p fun k => { k with invCtl := satInc 16 k.invCtl }

/-! ## Routing (R341, R342) -/

/-- Where a packet goes: delivered here, and forwarded on ports (Table 12-7). None: it cannot be routed. -/
def Hub.route (h : Hub) (p dest : Nat) : Option (Bool × List Nat) :=
  if p = 0 then
    if dest = 0xFFFF then
      -- every branch port that is UP, and P01, on which a packet waits out a step (R312)
      let down := (List.range h.nPorts).filter fun q =>
        q != 0 && (h.prt q).mode == 1 && (if q = 1 then (h.prt q).linked else (h.prt q).st == .up)
      some (true, if h.addressed then down else [])
    else if h.addressed ∧ dest = h.addr then some (true, [])
    else
      match (List.range h.nPorts).find? fun q => match (h.prt q).range with
          | some (a, b) => decide (a ≤ dest ∧ dest ≤ b)
          | none => false with
      | some q => some (false, [q])
      | none => none
  else if dest = 0 then some (false, [0]) else none

/-- An accepted packet goes its way; what is delivered here is what `deliver` does with it. -/
def Hub.routed (h : Hub) (p : Nat) (k : PacketIn) (deliver : Hub → Hub) : Hub :=
  match h.route p k.dest with
  | none => h.setLink p fun l => { l with unroutable := satInc 16 l.unroutable }
  | some (here, out) =>
    let f : Frame := ⟨k.cls, k.kind, k.dest, k.src, k.body, none, false, false⟩
    let h := (forAll (if h.boot.netboot then [] else out) (fun q h => h.queue q f) h).watermarks
    if here then deliver h else h

/-- Items of unknown TYPE in a run of items, skipped by their LEN (R15, Table 00-6). -/
def unknownItems : Nat → Bytes → Nat
  | 0, _ => 0
  | n + 1, b =>
    if b.length < 8 then 0
    else (if 6 < fieldAt b 0 1 then 1 else 0) + unknownItems n (b.drop (8 + 4 * (fieldAt b 2 2 % 4096)))

/-- The hub meets the items of a STREAM packet addressed to it: it has a use for none, and counts in HK those whose TYPE it does not
know (R15, Table 15-6). -/
def Hub.streamIn (h : Hub) (k : PacketIn) : Hub :=
  let n := unknownItems k.body.length (k.body.drop 32)
  if n = 0 then h
  else ({ h with hk := { h.hk with itemSkip := h.hk.itemSkip + n } }).notice unitHub 0x0604 (argN n) 0

/-- A packet arrives: accepted by the link, then routed. -/
def Hub.packet (h : Hub) (p : Nat) (k : PacketIn) (deliver : Hub → Hub) : Hub :=
  match h.receive p k with
  | (h, true) => h.routed p k deliver
  | (h, false) => h

/-- A MODAL frame arrives (R25, R228, Table 01-1): P01 alone carries it in. The copy of one that the link does not accept is given up
on P00 (R230). -/
def Hub.modalPacket (h : Hub) (p : Nat) (k : PacketIn) (f : ModalFrame) : Hub :=
  match h.receive p k with
  | (h, true) =>
    if p = 1 ∧ k.dest = 0 then h.modalArrive f else h.setLink p fun l => { l with unroutable := satInc 16 l.unroutable }
  | (g, false) =>
    if p = 1 ∧ !h.boot.netboot ∧ k.dest = 0 ∧ k.cls = 2 ∧ (h.prt p).st = .up ∧ (h.prt p).link.rxClass = 2 ∧ 3 ≤ k.lenBlocks then g.abandonCopy f else g

/-! ## Enumeration (R343 to R348) -/

/-- A SEARCH block's payload (Table 12-8). -/
def searchBits (phase round next : Nat) (full : Bool) : Nat :=
  phase * 2 ^ 52 + round * 2 ^ 44 + next * 2 ^ 28 + if full then 2 ^ 27 else 0

/-- Ports recorded at OPEN, in the order in which the token takes them: P01, then branch ports rising. -/
def Hub.recordedPorts (h : Hub) : List Nat := (List.range h.nPorts).filter fun p => p != 0 && (h.prt p).recorded

/-- SEARCH OPEN (R344). -/
def Hub.searchOpen (h : Hub) (round : Nat) : Hub :=
  if (h.prt 0).st ≠ .up ∨ round = 0 ∨ 255 < round then h
  else
    let child (p : Nat) : Bool :=
      p != 0 && !h.boot.netboot && (h.prt p).mode == 1 && (h.prt p).st == .up && (h.prt p).peer == 2
    let h := { h with
      enm := { h.enm with round := round, eligible := true, pending := none, walk := none, through := false, claimed := false },
      ports := h.ports.mapIdx fun p (q : Port) => { q with recorded := child p, pendRange := none } }
    forAll h.recordedPorts (fun p h => h.ctl p 0x99 (searchBits 0 round 0 false)) h

/-- The token goes on: to the next recorded port, or back on P00 (R345). -/
def Hub.passToken (h : Hub) (rest : List Nat) (n : Nat) (full : Bool) : Hub :=
  match rest with
  | p :: r =>
    ({ h with enm := { h.enm with walk := some (r, p, n, full) } }).ctl p 0x99 (searchBits 1 h.enm.round n full)
  | [] => ({ h with enm := { h.enm with walk := none } }).ctl 0 0x99 (searchBits 2 h.enm.round n full)

/-- The two CLAIM parts of this hub (Table 12-8): the concentrator's address and its port are 0; below a P01 the PORT is 1, and what else the
hub cannot know is free (log entry 61). -/
def Hub.sendClaim (h : Hub) (a : Nat) : Hub :=
  let direct := (h.prt 0).peer == 1
  let h := if direct then h else h.tick
  let free := (Config.parentBits h.fresh).toNat
  let parent := if direct then 0 else if (h.prt 0).peer = 3 then free / 32 * 32 + 1 else free
  (h.ctl 0 0xAA (h.enm.round * 2 ^ 44 + a * 2 ^ 28 + parent * 2 ^ 7)).ctl 0 0xAA (2 ^ 52 + h.ident.serial.toNat)

/-- SEARCH TOKEN on P00 (R345). -/
def Hub.token (h : Hub) (round next : Nat) (full : Bool) : Hub :=
  if round ≠ h.enm.round ∨ (h.prt 0).st ≠ .up then h
  else if !h.enm.eligible then
    if (h.prt 1).recorded then
      ({ h with enm := { h.enm with through := true } }).ctl 1 0x99 (searchBits 1 round next full)
    else h.ctl 0 0x99 (searchBits 2 round next full)
  else if next ≤ 0xFFE then
    (({ h with enm := { h.enm with pending := some next, claimed := true } }).sendClaim next).passToken h.recordedPorts (next + 1) full
  else ({ h with enm := { h.enm with pending := none } }).passToken h.recordedPorts next true

/-- SEARCH RETURN on a downstream port (R345). -/
def Hub.searchReturn (h : Hub) (p round n2 : Nat) (full : Bool) : Hub :=
  if round ≠ h.enm.round then h
  else if h.enm.through ∧ p = 1 then
    ({ h with enm := { h.enm with through := false } }).ctl 0 0x99 (searchBits 2 round n2 full)
  else
    match h.enm.walk with
    | some (rest, asked, n, f) =>
      if asked ≠ p then h
      else
        (h.setPort p fun q => { q with pendRange := if n2 ≤ n then none else some (n, n2 - 1) }).passToken rest n2 (f || full)
    | none => h

/-- SEARCH CLOSE (R346, R347): addresses and ranges are committed, and a hub that claimed nothing sends ARRIVE. One that has claimed in the round
and committed keeps its address at a further CLOSE of it. -/
def Hub.searchClose (h : Hub) (round : Nat) : Hub :=
  if round ≠ h.enm.round then h
  else
    let h := forAll h.recordedPorts (fun p h => h.ctl p 0x99 (searchBits 3 round 0 false)) h
    let mine := if h.enm.eligible then h.enm.pending else none
    if !h.enm.eligible && h.enm.claimed then h else
    let h := { h with
      enm := { h.enm with addr := mine.getD 0xFFFE, eligible := false, pending := none, walk := none, through := false,
                          arriveAt := if mine.isSome then none else h.enm.arriveAt },
      ports := h.ports.map fun (q : Port) =>
        { q with range := if mine.isSome then q.pendRange else none, pendRange := none } }
    if mine.isSome then h else h.sendArrive

/-- A CLAIM, ARRIVE or DEPART block from below goes on upward (R343, R344, R475). -/
def Hub.upward (h : Hub) (p code : Nat) (payload : BitVec 56) : Hub :=
  if p = 0 ∨ h.boot.netboot ∨ (h.prt 0).st ≠ .up then h else h.ctl 0 code payload.toNat

/-- CLAIM: part 0 of another round is ignored. -/
def Hub.claimBlock (h : Hub) (p : Nat) (payload : BitVec 56) : Hub :=
  let v := payload.toNat
  if v / 2 ^ 52 = 0 ∧ v / 2 ^ 44 % 256 ≠ h.enm.round then h else h.upward p 0xAA payload

/-- ARRIVE is repeated every second until the hub claims an address (R347). -/
def Hub.arriveRepeat (h : Hub) : Hub :=
  match h.enm.arriveAt with
  | some t => if h.addressed ∨ h.enm.pending.isSome ∨ h.clk.elapsed < t + 1000000000 then h else h.sendArrive
  | none => h

/-! ## Meanings -/

/-- BLOCK_BOUNDARY (R332). -/
def execBlockBoundary (port : Nat) (s : State) : Out := act s fun h => h.blockBoundary port
/-- IDLE (R331). -/
def execIdle (port sel : Nat) (s : State) : Out :=
  act s fun h => if 1 ≤ sel ∧ sel ≤ 4 then h.setLink port fun k => { k with rxClass := sel } else h
/-- TRIG (R184). -/
def execTrig (port : Nat) (p : PacketIn) (m : ArrMsg) (s : State) : Out := act s fun h => h.packet port p fun h => h.arrAct m
/-- STREAM (R342). -/
def execStream (port : Nat) (p : PacketIn) (s : State) : Out := act s fun h => h.packet port p fun h => h.streamIn p
/-- MODAL_FRAME (R228). -/
def execModalFrame (p : PacketIn) (f : ModalFrame) (s : State) : Out := act s fun h => h.modalPacket 1 p f
/-- ACK (R338). -/
def execAck (port seq : Nat) (s : State) : Out := act s fun h => h.ackBlock port seq
/-- NAK (R337). -/
def execNak (port seq _cause : Nat) (s : State) : Out := act s fun h => h.nakBlock port seq
/-- REPLAY_TIMEOUT (R338). -/
def execReplayTimeout (port : Nat) (s : State) : Out := act s fun h => h.replayTimeout port
/-- ACK_TIMER (R338). -/
def execAckTimer (port : Nat) (s : State) : Out := act s fun h => if (h.prt port).st = .up then h.sendAck port else h
/-- NAK_REPEAT (R337). -/
def execNakRepeat (port : Nat) (s : State) : Out := act s fun h => h.nakRepeat port
/-- PAUSE (R340). -/
def execPause (port : Nat) (st : Bool) (s : State) : Out := act s fun h => h.pauseBlock port st
/-- PAUSE_REPEAT (R340). -/
def execPauseRepeat (port : Nat) (s : State) : Out := act s fun h => h.pauseRepeat port
/-- PAUSE_LOST (R340). -/
def execPauseLost (port : Nat) (s : State) : Out := act s fun h => h.pauseLost port
/-- INV_CTL (R339). -/
def execInvCtl (port : Nat) (s : State) : Out := act s fun h => h.invCtl port
/-- OPEN (R344). -/
def execSearchOpen (round : Nat) (s : State) : Out := act s fun h => h.searchOpen round
/-- TOKEN (R345). -/
def execToken (round next : Nat) (full : Bool) (s : State) : Out := act s fun h => h.token round next full
/-- RETURN (R345). -/
def execSearchReturn (port round next : Nat) (full : Bool) (s : State) : Out := act s fun h => h.searchReturn port round next full
/-- CLOSE (R346). -/
def execSearchClose (round : Nat) (s : State) : Out := act s fun h => h.searchClose round
/-- CLAIM (R344). -/
def execClaim (port : Nat) (payload : BitVec 56) (s : State) : Out := act s fun h => h.claimBlock port payload
/-- ARRIVE (R344, R347). -/
def execArrive (port : Nat) (payload : BitVec 56) (s : State) : Out := act s fun h => h.upward port 0xB4 payload
/-- ARRIVE_REPEAT (R347). -/
def execArriveRepeat (s : State) : Out := act s Hub.arriveRepeat
/-- DEPART (R348). -/
def execDepart (port : Nat) (payload : BitVec 56) (s : State) : Out := act s fun h => h.upward port 0xCC payload

end Sys2Proof.Machine
end

