-- ==== Sys2Proof/Machine/Payload.lean ====
section
/-! DEFINITION. Krenmail requests as bytes: what each opcode is (14, R376, R377) and the command that a payload spells. -/

namespace Sys2Proof.Machine

/-! ## Opcodes (Tables 14-2 to 14-18) -/

/-- What the Class column says of a command: its service class, and the letters I, D, S and S only. -/
structure CmdInfo where
  cls : Nat
  idem : Bool
  mask : Bool
  sched : Bool
  schedOnly : Bool
  deriving DecidableEq, Repr

/-- Classes of the verbs of a group, first verb first (R367). -/
def groupInfo (g : Nat) : List CmdInfo :=
  let c (n : Nat) : CmdInfo := ⟨n, false, false, false, false⟩
  let i (n : Nat) : CmdInfo := ⟨n, true, false, false, false⟩
  let d (n : Nat) : CmdInfo := ⟨n, false, true, false, false⟩
  let di (n : Nat) : CmdInfo := ⟨n, true, true, false, false⟩
  let s (n : Nat) : CmdInfo := ⟨n, false, false, true, false⟩
  let so (n : Nat) : CmdInfo := ⟨n, false, false, true, true⟩
  let ds (n : Nat) : CmdInfo := ⟨n, false, true, true, false⟩
  let dso (n : Nat) : CmdInfo := ⟨n, false, true, true, true⟩
  match g with
  | 0x01 => [i 3, i 0, c 3, c 3, c 3, c 3]
  | 0x02 => [c 1, c 1, c 1, i 1, c 1, c 1, c 1, i 1]
  | 0x03 => [s 2, i 2, so 2, c 2, c 2, i 2, i 2, c 2]
  | 0x04 => [s 2, i 2, i 2, c 2, s 2]
  | 0x05 => [c 2, i 2, c 2, c 2, c 2, c 2]
  | 0x06 => [s 2, s 2, so 2, i 2, d 2, di 2, d 2, di 2, di 2, i 2, c 2, c 2, c 2, i 2]
  | 0x07 => [d 2, ds 2, s 2, i 2, di 2]
  | 0x08 => [c 2, c 2, c 2, i 2, c 2, c 2, i 2, c 2, c 2, d 2, c 2, i 2]
  | 0x09 => [c 2, d 2, di 2, c 2, i 2, c 2, c 2, c 2, c 2, i 2, c 2, c 2]
  | 0x0A => [c 2, i 2, i 2, c 2, c 2, c 2, c 2, c 2, c 2, s 0]
  | 0x0B => [d 3, di 3, i 3, c 3, c 3, c 3, i 3, i 3]
  | 0x0C => [c 0, c 0, i 0, i 0]
  | 0x0D => [i 3, c 3, i 3, c 3, c 3, dso 3]
  | 0x0E => [i 3, s 3]
  | 0x0F => [i 0, c 0, c 0, c 0, c 0, c 0]
  | 0x10 => [c 1, c 1, i 1]
  | _ => []

/-- The command that an opcode names; none for an unknown group or verb (R359). -/
def cmdInfo (op : Nat) : Option CmdInfo := if op % 256 = 0 then none else (groupInfo (op / 256))[op % 256 - 1]?

/-! ## Fields of a payload -/

/-- A word at an offset. -/
def wordAt (b : Bytes) (o : Nat) : Word := BitVec.ofNat 32 (fieldAt b o 4)
/-- n words from an offset. -/
def wordsAt (b : Bytes) (o n : Nat) : List Word := (List.range n).map fun i => wordAt b (o + 4 * i)
/-- A set in the CHMAP bit order of n bytes at an offset (R379). -/
def mapAt (b : Bytes) (o n : Nat) : List Nat := mapBits ((b.drop o).take n)
/-- An array time T at an offset (R379). -/
def instAt (b : Bytes) (o : Nat) : Instant :=
  ⟨BitVec.ofNat 48 (fieldAt b o 6), BitVec.ofNat 32 (fieldAt b (o + 6) 4), BitVec.ofNat 16 (fieldAt b (o + 10) 2)⟩

/-- The payload has its layout's length, and its pad bytes, given as (offset, bytes), are zero (R376). -/
def laid (b : Bytes) (n : Nat) (pads : List (Nat × Nat)) (i : Instr) : Option Instr :=
  if b.length = n ∧ pads.all (fun p => fieldAt b p.1 p.2 == 0) then some i else none

/-- A request header (Table 13-1). -/
def headerAt (b : Bytes) (o : Nat) : ReqHeader :=
  { opcode := fieldAt b o 2, tag := fieldAt b (o + 2) 2, reqId := fieldAt b (o + 4) 1, cls := fieldAt b (o + 5) 1,
    length := fieldAt b (o + 6) 2, lifetime := fieldAt b (o + 8) 4, dieMask := fieldAt b (o + 12) 4 }

/-- A matrix row record (Table 08-1); its second byte is zero. -/
def sepRowAt (b : Bytes) (o : Nat) : SepRow :=
  ⟨signed 8 (fieldAt b o 1), (List.range 128).map fun c => signed 16 (fieldAt b (o + 2 + 2 * c) 2)⟩

/-- The entries of STRM_ACK (Table 14-10): `n` entries from an offset, and where they end. -/
def ackEntries (b : Bytes) : Nat → Nat → Option (List AckEntry × Nat)
  | 0, o => some ([], o)
  | n + 1, o =>
    if b.length < o + 8 ∨ fieldAt b (o + 3) 1 ≠ 0 then none
    else
      let k := fieldAt b (o + 2) 1
      match ackEntries b n (o + 8 + 8 * k) with
      | some (r, e) =>
        some (⟨fieldAt b o 2, wordAt b (o + 4),
          (List.range k).map fun i => (wordAt b (o + 8 + 8 * i), fieldAt b (o + 12 + 8 * i) 4)⟩ :: r, e)
      | none => none

/-! ## From bytes to commands (R376, Tables 14-2 to 14-18) -/

/-- SYS and TIME. -/
def parseSysTime (op : Nat) (b : Bytes) : Option Instr :=
  match op with
  | 0x0101 => laid b 0 [] .sysInfo
  | 0x0102 => laid b 4 [(1, 1)] (.sysReqstat (fieldAt b 0 1) (fieldAt b 2 2))
  | 0x0103 => laid b 4 [] (.sysReset (wordAt b 0))
  | 0x0104 => laid b 0 [] .sysCfgSave
  | 0x0105 => laid b (max 8 b.length) [(1, 3)] (.sysFwWrite (fieldAt b 0 1) (fieldAt b 4 4) (b.drop 8))
  | 0x0106 => laid b 4 [(1, 3)] (.sysFwCommit (fieldAt b 0 1))
  | 0x0201 => laid b 0 [] .timeGet
  | 0x0202 => laid b 8 [(6, 2)] (.timeSet (BitVec.ofNat 48 (fieldAt b 0 6)))
  | 0x0203 => laid b 4 [] (.timeCfgSet (wordAt b 0))
  | 0x0204 => laid b 0 [] .timeCfgGet
  | 0x0205 => laid b 8 [] (.timePpsSet (wordAt b 0) (wordAt b 4))
  | 0x0206 => laid b 8 [(1, 3)] (.timeAsymSet (fieldAt b 0 1) (wordAt b 4))
  | 0x0207 => laid b 8 [(1, 3)] (.timeTinSet (fieldAt b 0 1) (wordAt b 4))
  | 0x0208 => laid b 4 [(1, 3)] (.timeTinGet (fieldAt b 0 1))
  | _ => none

/-- AFE, CHAN and TRIG. -/
def parseChan (op : Nat) (b : Bytes) : Option Instr :=
  match op with
  | 0x0301 => laid b 148 []
      (.afeSet (mapAt b 0 128) ⟨wordAt b 128, wordAt b 132, wordAt b 136, wordAt b 140, wordAt b 144⟩)
  | 0x0302 => laid b 4 [(2, 2)] (.afeGet (fieldAt b 0 2))
  | 0x0303 => laid b 128 [] (.afeSync (mapAt b 0 128))
  | 0x0304 => laid b 20 [] (.afeGuard (mapAt b 0 16) (wordAt b 16))
  | 0x0305 => laid b 24 [(1, 3)]
      (.afeRepSet (fieldAt b 0 1) ⟨wordAt b 4, wordAt b 8, wordAt b 12, wordAt b 16, wordAt b 20⟩)
  | 0x0306 => laid b 4 [(1, 3)] (.afeRepGet (fieldAt b 0 1))
  | 0x0307 => laid b 4 [] (.afeStatus (fieldAt b 0 2) (fieldAt b 2 2))
  | 0x0308 => laid b 128 [] (.afeClear (mapAt b 0 128))
  | 0x0401 => laid b 896 [] (.chanSet (mapAt b 0 128) (wordsAt b 128 192))
  | 0x0402 => laid b 4 [(2, 2)] (.chanGet (fieldAt b 0 2))
  | 0x0403 => laid b 4 [(2, 2)] (.chanQuery (fieldAt b 0 2))
  | 0x0404 => laid b 672 [] (.chanCoefLoad (mapAt b 0 128) (wordsAt b 128 136))
  | 0x0405 => laid b 132 [(130, 2)] (.chanCoefSwitch (mapAt b 0 128) (fieldAt b 128 2))
  | 0x0501 => laid b 8 [(1, 3)] (.trigPinSet (fieldAt b 0 1) (wordAt b 4))
  | 0x0502 => laid b 4 [(1, 3)] (.trigPinGet (fieldAt b 0 1))
  | 0x0503 => laid b 144 []
      (.trigKonSet (fieldAt b 0 1) (fieldAt b 1 1) (fieldAt b 2 2) (fieldAt b 4 4) (fieldAt b 8 4) (wordAt b 12) (mapAt b 16 128))
  | 0x0504 => laid b 36 [] (.trigArrSet (mapAt b 0 32) (fieldAt b 32 4))
  | 0x0505 => laid b 0 [] .trigForce
  | 0x0506 => laid b 4 [(1, 3)] (.trigStatus (fieldAt b 0 1))
  | _ => none

/-- CAP and SEP. -/
def parseCap (op : Nat) (dies : List Nat) (b : Bytes) : Option Instr :=
  match op with
  | 0x0601 => laid b 304 []
      (.capArm { capture := fieldAt b 0 1, src := fieldAt b 1 1, decE := fieldAt b 2 1, churn := fieldAt b 3 1,
                 prePct := fieldAt b 4 1, opts := fieldAt b 5 1, count := fieldAt b 6 2, len := fieldAt b 8 4,
                 port := fieldAt b 12 1, pins := fieldAt b 13 1, kon := fieldAt b 14 2, channels := mapAt b 16 128,
                 units := mapAt b 144 128, groups := mapAt b 272 32 })
  | 0x0602 => laid b 4 [(2, 2)] (.capDisarm (fieldAt b 0 1) (fieldAt b 1 1))
  | 0x0603 => laid b 4 [(1, 3)] (.capTrig (fieldAt b 0 1))
  | 0x0604 => laid b 4 [(1, 3)] (.capStatus (fieldAt b 0 1))
  | 0x0605 => laid b 4 [] (.capPartSet dies (wordAt b 0))
  | 0x0606 => laid b 0 [] (.capPartGet dies)
  | 0x0607 => laid b 4 [] (.capWmSet dies (wordAt b 0))
  | 0x0608 => laid b 0 [] (.capWmGet dies)
  | 0x0609 => laid b 36 [(11, 1)]
      (.capList dies { after := wordAt b 0, capture := fieldAt b 4 1, states := fieldAt b 5 1, ch := fieldAt b 6 2,
                       trainId := fieldAt b 8 2, trainAny := fieldAt b 10 1, timeFrom := instAt b 12, timeTo := instAt b 24 })
  | 0x060A => laid b 12 [(11, 1)] (.capRead (wordAt b 0) (fieldAt b 4 4) (fieldAt b 8 2) (fieldAt b 10 1))
  | 0x060B => laid b (4 + 4 * fieldAt b 0 2) [(2, 2)] (.capFree (wordsAt b 4 (fieldAt b 0 2)))
  | 0x060C => laid b (4 + 4 * fieldAt b 0 2) [(2, 2)] (.capSend (wordsAt b 4 (fieldAt b 0 2)))
  | 0x060D => laid b 132 [] (.capRedSet (mapAt b 0 128) (wordAt b 128))
  | 0x060E => laid b 4 [(2, 2)] (.capRedGet (fieldAt b 0 2))
  | 0x0701 =>
    if fieldAt b 1 1 = 0 then
      laid b 24 [(5, 3)] (.sepLoad dies (fieldAt b 0 1) (.header (fieldAt b 2 2) (fieldAt b 4 1) (mapAt b 8 16)))
    else if fieldAt b 1 1 = 1 then
      let n := fieldAt b 4 1
      laid b (8 + 258 * n) ((5, 3) :: (List.range n).map fun i => (8 + 258 * i + 1, 1))
        (.sepLoad dies (fieldAt b 0 1) (.rows (fieldAt b 2 2) ((List.range n).map fun i => sepRowAt b (8 + 258 * i))))
    else none
  | 0x0702 => laid b 4 [(2, 2)] (.sepSwitch dies (fieldAt b 0 2))
  | 0x0703 => laid b 16 [] (.sepCfgSet (wordAt b 0) (wordAt b 4) (wordAt b 8) (wordAt b 12))
  | 0x0704 => laid b 0 [] .sepCfgGet
  | 0x0705 => laid b 0 [] (.sepStatus dies)
  | _ => none

/-- STRM and CHURN. -/
def parseStrm (op : Nat) (dies : List Nat) (route : Route) (b : Bytes) : Option Instr :=
  match op with
  | 0x0801 => laid b 132 [(2, 2)] (.strmSet (fieldAt b 0 1) (fieldAt b 1 1) (mapAt b 4 128))
  | 0x0802 => laid b 4 [(3, 1)] (.strmRoute (fieldAt b 0 2) (fieldAt b 2 1))
  | 0x0803 => laid b 4 [(2, 2)] (.strmLocal (fieldAt b 0 2))
  | 0x0804 =>
    match ackEntries b (fieldAt b 0 1) 4 with
    | some (es, e) => laid b e [(1, 3)] (.strmAck route es)
    | none => none
  | 0x0805 => laid b (4 + 2 * fieldAt b 2 2) [(1, 1)]
      (.strmFlush (fieldAt b 0 1) ((List.range (fieldAt b 2 2)).map fun i => fieldAt b (4 + 2 * i) 2))
  | 0x0806 => laid b 8 [(1, 3)] (.strmWmSet (fieldAt b 0 1) (wordAt b 4))
  | 0x0807 => laid b 4 [(1, 3)] (.strmWmGet (fieldAt b 0 1))
  | 0x0808 => laid b 8 [(1, 3)] (.strmFcSet (fieldAt b 0 1) (wordAt b 4))
  | 0x0809 => laid b 4 [] (.strmRawGroup (bitsOf 32 (fieldAt b 0 4)))
  | 0x080A => laid b 0 [] (.strmXstat dies)
  | 0x080B => laid b 4 [] (.strmCfgSet (wordAt b 0))
  | 0x080C => laid b 0 [] .strmCfgGet
  | 0x0901 => laid b 132 [(2, 2)] (.churnSet (fieldAt b 0 1) (fieldAt b 1 1) (mapAt b 4 128))
  | 0x0902 => laid b 4 [] (.churnCfgSet dies (wordAt b 0))
  | 0x0903 => laid b 0 [] (.churnCfgGet dies)
  | 0x0904 => laid b 4 [(3, 1)] (.churnSave (fieldAt b 0 2) (fieldAt b 2 1))
  | 0x0905 => laid b 12 [(2, 2), (10, 2)] (.churnStateRead (fieldAt b 0 2) (fieldAt b 4 4) (fieldAt b 8 2))
  | 0x0906 => laid b (max 8 b.length) [(3, 1)] (.churnStateWrite (fieldAt b 0 2) (fieldAt b 2 1) (fieldAt b 4 4) (b.drop 8))
  | 0x0907 => laid b 8 [(3, 1), (6, 2)] (.churnRestore (fieldAt b 0 2) (fieldAt b 2 1) (fieldAt b 4 2))
  | 0x0908 => laid b 4 [(2, 2)] (.churnStateFree (fieldAt b 0 2))
  | 0x0909 => laid b 12 [(6, 2)] (.churnJobStart (wordAt b 0) (fieldAt b 4 1) (fieldAt b 5 1) (fieldAt b 8 4))
  | 0x090A => laid b 12 [(2, 2), (10, 2)] (.churnJobRead (fieldAt b 0 2) (fieldAt b 4 4) (fieldAt b 8 2))
  | 0x090B => laid b 8 [(2, 2)] (.churnJobResume (fieldAt b 0 2) (fieldAt b 4 4))
  | 0x090C => laid b 4 [(2, 2)] (.churnJobEnd (fieldAt b 0 2))
  | _ => none

/-- LINK, CAL, PWR, FLT, LOG, SEAL and SCHED. -/
def parseRest (op : Nat) (dies : List Nat) (lateOk : Bool) (b : Bytes) : Option Instr :=
  match op with
  | 0x0A01 => laid b 8 [(1, 3)] (.linkCfgSet (fieldAt b 0 1) (wordAt b 4))
  | 0x0A02 => laid b 4 [(1, 3)] (.linkCfgGet (fieldAt b 0 1))
  | 0x0A03 => laid b 4 [(1, 3)] (.linkStatus (fieldAt b 0 1))
  | 0x0A04 => laid b 4 [(2, 2)] (.linkManual (fieldAt b 0 1) (fieldAt b 1 1))
  | 0x0A05 => laid b 4 [(2, 2)] (.linkSlip (fieldAt b 0 1) (fieldAt b 1 1))
  | 0x0A06 => laid b 4 [(2, 2)] (.linkRate (fieldAt b 0 1) (fieldAt b 1 1))
  | 0x0A07 => laid b 4 [(2, 2)] (.linkWidth (fieldAt b 0 1) (fieldAt b 1 1))
  | 0x0A08 => laid b 8 [(2, 2)] (.linkTestSet (fieldAt b 0 1) (fieldAt b 1 1) (wordAt b 4))
  | 0x0A09 => laid b 4 [(3, 1)] (.linkLaneGet (fieldAt b 0 1) (fieldAt b 1 1) (fieldAt b 2 1))
  | 0x0A0A => laid b 4 [(1, 3)] (.linkCoupler (fieldAt b 0 1))
  | 0x0B01 => laid b 4 [] (.calAuditSet dies (wordAt b 0))
  | 0x0B02 => laid b 0 [] (.calAuditGet dies)
  | 0x0B03 => laid b 4 [] (.calAuditRead (fieldAt b 0 2) (fieldAt b 2 2))
  | 0x0B04 => laid b (2 + 2 * fieldAt b 1 1) []
      (.calAuditReq (fieldAt b 0 1) ((List.range (fieldAt b 1 1)).map fun i => fieldAt b (2 + 2 * i) 2))
  | 0x0B05 => laid b 16 [] (.calRun (mapAt b 0 16))
  | 0x0B06 => laid b 4 [] (.calCfgSet (wordAt b 0))
  | 0x0B07 => laid b 0 [] .calCfgGet
  | 0x0B08 => laid b 4 [] (.calReport (fieldAt b 0 2) (fieldAt b 2 2))
  | 0x0C01 => laid b 4 [(1, 3)] (.pwrStateSet (fieldAt b 0 1))
  | 0x0C02 => laid b 4 [] (.pwrGate (bitsOf 32 (fieldAt b 0 4)))
  | 0x0C03 => laid b 0 [] .pwrGet
  | 0x0C04 => laid b 0 [] .pwrTelem
  | 0x0D01 => laid b 8 [(6, 2)] (.fltRead (wordAt b 0) (fieldAt b 4 2))
  | 0x0D02 => laid b 16 [] (.fltCfgSet (wordAt b 0) (wordAt b 4) (wordAt b 8) (wordAt b 12))
  | 0x0D03 => laid b 0 [] .fltCfgGet
  | 0x0D04 => laid b 4 [] (.fltRetire (wordAt b 0))
  | 0x0D05 => laid b 4 [] (.fltRestore (wordAt b 0))
  | 0x0D06 => laid b 0 [] (.mcDrill dies)
  | 0x0E01 => laid b 4 [] (.logRead (fieldAt b 0 2) (fieldAt b 2 2))
  | 0x0E02 => laid b (4 + 4 * fieldAt b 2 2) [] (.logWrite (fieldAt b 0 2) (wordsAt b 4 (fieldAt b 2 2)))
  | 0x0F01 => laid b 0 [] .sealGet
  | 0x0F02 => laid b 0 [] .sealNonce
  | 0x0F03 => laid b 32 [] (.sealUnseal b)
  | 0x0F04 => laid b 0 [] .sealClose
  | 0x0F05 => laid b 4 [(1, 3)] (.sealSet (fieldAt b 0 1))
  | 0x0F06 => laid b 32 [] (.sealKeySet b)
  | 0x1001 => laid b (max 28 b.length) [] (.schedAdd lateOk (instAt b 0) (headerAt b 12) (b.drop 28))
  | 0x1002 => laid b 4 [] (.schedCancel (wordAt b 0))
  | 0x1003 => laid b 4 [] (.schedList (wordAt b 0))
  | _ => none

/-- The command that an opcode and a payload spell; none where the payload breaks its layout (R376). -/
def parseCmd (op : Nat) (dies : List Nat) (route : Route) (lateOk : Bool) (b : Bytes) : Option Instr :=
  if op < 0x0300 then parseSysTime op b
  else if op < 0x0600 then parseChan op b
  else if op < 0x0800 then parseCap op dies b
  else if op < 0x0A00 then parseStrm op dies route b
  else parseRest op dies lateOk b

end Sys2Proof.Machine
end

