-- ==== Sys2Proof/Machine/Doorbell.lean ====
section
/-! DEFINITION. The doorbell window and the intake of requests: registers, HSPI and direct access, mailboxes, tags, the response
cache (12, 13). -/

namespace Sys2Proof.Machine

/-! ## Errors and service (R354, R373 to R375, Table 13-12) -/

/-- MB_ERR records an error. -/
def Hub.mbError (h : Hub) (cause : Nat) : Hub :=
  ({ h with dbw := { h.dbw with errCause := cause, errCount := satInc 16 h.dbw.errCount, errSeen := true } }).raise 2

/-! ## Headers (Tables 13-1 and 13-2) -/

def ReqHeader.bytes (r : ReqHeader) : Bytes :=
  be 2 r.opcode ++ be 2 r.tag ++ be 1 r.reqId ++ be 1 r.cls ++ be 2 r.length ++ be 4 r.lifetime ++ be 4 r.dieMask

/-- IDEM is set and the command is marked idempotent (R361). -/
def ReqHeader.idem (r : ReqHeader) : Bool :=
  r.cls.testBit 0 && (match cmdInfo r.opcode with | some i => i.idem | none => false)

/-- PRIO. -/
def ReqHeader.prio (r : ReqHeader) : Nat := r.cls / 4 % 4

/-- LIFETIME in ns; 0 means 10 s. -/
def ReqHeader.life (r : ReqHeader) : Nat := (if r.lifetime = 0 then 10000 else r.lifetime) * 1000000

/-- The response's bytes less the CRC. -/
def Response.bytes (r : Response) : Bytes :=
  be 2 r.opcode ++ be 2 r.tag ++ be 2 r.status ++ be 2 r.payload.length ++ be 4 r.retry ++ be 1 r.reqId ++ be 1 r.failDie ++
    be 2 r.orig ++ r.payload

/-- The response to a request. -/
def respond (q : ReqHeader) (route : Route) (r : Reply) : Response :=
  { route := route, opcode := q.opcode, tag := q.tag, status := r.status, retry := r.retry, reqId := q.reqId, failDie := r.failDie,
    orig := 0, payload := r.payload }

/-! ## Registers of the window (Table 13-5) -/

/-- A word of the mailbox-in window. -/
def Dbw.mbiWord (d : Dbw) (i : Nat) : Word := ((d.mbi.find? fun x => x.1 == i).map Prod.snd).getD 0

/-- The window with a word written; words of 0 are not listed. -/
def mbiPut (i : Nat) (w : Word) : List (Nat × Word) → List (Nat × Word)
  | [] => if w = 0 then [] else [(i, w)]
  | (j, v) :: r =>
    if i < j then (if w = 0 then (j, v) :: r else (i, w) :: (j, v) :: r)
    else if i = j then (if w = 0 then r else (i, w) :: r)
    else (j, v) :: mbiPut i w r

/-- The mailbox-in window as bytes. -/
def Dbw.mbiBytes (d : Dbw) : Bytes := (List.range 1024).flatMap fun i => be 4 (d.mbiWord i).toNat

/-- The response in the mailbox-out window as bytes. -/
def Hub.mboBytes (h : Hub) : Bytes := match h.mgmt.outbox with | r :: _ => r.bytes | [] => []

/-- MBO_CRC. -/
def Hub.mboCrc (h : Hub) : Word := match h.mgmt.outbox with | r :: _ => crc32 r.bytes | [] => 0

/-- A read of FAULT_SUMMARY clears NEW_REC (R427). -/
def Hub.readSummary (h : Hub) : Word × Hub := (h.faultSummary, { h with hk := { h.hk with newRec := 0 } })

/-- A read of MB_ERR clears it. -/
def Hub.readMbErr (h : Hub) : Word × Hub :=
  (BitVec.ofNat 32 (h.dbw.errCause * 2 ^ 24 + h.dbw.errCount), { h with dbw := { h.dbw with errCause := 0, errCount := 0 } })

/-- A read of a word of the window by a route (R128, R129, R255, R371, Table 04-14). -/
def Hub.readReg (h : Hub) (r : Route) (a : Nat) : Word × Hub :=
  let sh : Shadow := match r with | .hspi => h.tm.hspi | .inband => h.tm.inband
  let top (f : Hub → Hub) : Word × Hub := (((f h).dbw.readout).headD 0, f h)
  if a = 0x3000 then top Hub.readLocal
  else if 0x2000 ≤ a ∧ a < 0x3000 then
    (wordAt (h.mboBytes ++ pad 4) (a - 0x2000), h)
  else if 0x1000 ≤ a ∧ a < 0x2000 then (h.dbw.mbiWord ((a - 0x1000) / 4), h)
  else match a with
    | 0x0000 => (h.ident.dbwId, h)
    | 0x0004 => (h.dbw.fwrel, h)
    | 0x0008 => (h.dbwState, h)
    | 0x000C => (h.irqStat, h)
    | 0x0010 => (h.dbw.irqEn, h)
    | 0x0018 => (h.dbw.mbiHead.zeroExtend 32, h)
    | 0x001C => (h.dbw.mbiTail.zeroExtend 32, h)
    | 0x0020 => (h.dbw.mboHead.zeroExtend 32, h)
    | 0x0024 => (h.dbw.mboTail.zeroExtend 32, h)
    | 0x0028 => (h.dbw.mbiCrc, h)
    | 0x002C => (h.mboCrc, h)
    | 0x0030 => h.readMbErr
    | 0x0040 => (BitVec.ofNat 32 sh.hi, h)
    | 0x0044 => top fun h => h.readSecLo r
    | 0x0048 => (BitVec.ofNat 32 sh.ns, h)
    | 0x004C => (BitVec.ofNat 32 sh.frac, h)
    | 0x0050 => (BitVec.ofNat 32 sh.era, h)
    | 0x0054 => (h.timeStatus, h)
    | 0x0058 => (BitVec.ofNat 32 h.tm.ldHi, h)
    | 0x005C => (h.tm.ldLo, h)
    | 0x0060 => (if h.tm.armed then 1 else 0, h)
    | 0x0080 => (h.sentStatus, h)
    | 0x0084 => h.readSummary
    | 0x0088 => (h.sealWord, h)
    | _ => (0, h)

/-- SUBMIT: while the window is occupied it is ignored and recorded (R356). -/
def Hub.submit (h : Hub) : Hub :=
  if h.dbw.mbiFree then { h with dbw := { h.dbw with mbiTail := h.dbw.mbiTail + 1 } } else h.mbError 3

/-- RELEASE: the response in the window and its place are freed (R356). -/
def Hub.release (h : Hub) : Hub :=
  match h.mgmt.outbox with
  | _ :: r => { h with mgmt := { h.mgmt with outbox := r }, dbw := { h.dbw with mboHead := h.dbw.mboHead + 1 } }
  | [] => h.mbError 7

/-- A write of DBW_IRQ_STAT clears the W1C bits written with one (R372). -/
def Hub.writeIrqStat (h : Hub) (w : Word) : Hub :=
  { h with dbw := { h.dbw with irq := h.dbw.irq &&& ~~~(BitVec.ofNat 8 (w.toNat % 256 / 4 * 4)) } }

/-- CANCEL of an armed load (R131). -/
def Hub.cancelLoad (h : Hub) : Hub := h.setTm fun t => { t with armed := false }

/-- What a write of a word answers (R350, R373): 0 done, 1 no register there, 2 nothing writable. -/
def Hub.writeReg (h : Hub) (a : Nat) (w : Word) : Nat × Hub :=
  if 0x1000 ≤ a ∧ a < 0x2000 then
    (0, if h.dbw.mbiFree then { h with dbw := { h.dbw with mbi := mbiPut ((a - 0x1000) / 4) w h.dbw.mbi } } else h.mbError 4)
  else if 0x2000 ≤ a ∧ a ≤ 0x3000 then (2, h)
  else match a with
    | 0x000C => (0, h.writeIrqStat w)
    | 0x0010 => (0, { h with dbw := { h.dbw with irqEn := w &&& 0x3FF } })
    | 0x0014 =>
      let h := if bitOf w 1 then h.release else h
      (0, if bitOf w 0 then h.submit else h)
    | 0x0028 => (0, { h with dbw := { h.dbw with mbiCrc := w } })
    | 0x0054 => (0, h.setTm fun t => { t with refused := t.refused && !bitOf w 16, stepped := t.stepped && !bitOf w 15 })
    | 0x0058 => (0, h.setTm fun t => { t with ldHi := fld w 15 0 })
    | 0x005C => (0, h.setTm fun t => { t with ldLo := w })
    | 0x0060 =>
      let h := if bitOf w 1 then h.cancelLoad else h
      (0, if bitOf w 0 then h.arm else h)
    | _ =>
      if [0x0000, 0x0004, 0x0008, 0x0018, 0x001C, 0x0020, 0x0024, 0x002C, 0x0030, 0x0040, 0x0044, 0x0048, 0x004C, 0x0050, 0x0080,
          0x0084, 0x0088].contains a then (2, h) else (1, h)

/-! ## HSPI transactions (R374, R375) -/

/-- The address after a word: it wraps within the 64-byte block below 0x1000 and within the 4 KiB window of a mailbox, and does not
advance at 0x3000 (R375). -/
def hspiNext (a : Nat) : Nat :=
  if a < 0x1000 then a / 64 * 64 + (a + 4) % 64
  else if a < 0x3000 then a / 4096 * 4096 + (a + 4) % 4096
  else a

/-- Words written whole from an address on; what holds no register or nothing writable records NO_REG (R373). -/
def Hub.hspiWrites : List Word → Nat → Hub → Hub
  | [], _, h => h
  | w :: r, a, h =>
    let x := h.writeReg a w
    Hub.hspiWrites r (hspiNext a) (if x.1 = 0 then x.2 else x.2.mbError 6)

/-- Words read from an address on. -/
def Hub.hspiReads : Nat → Nat → Hub → List Word × Hub
  | 0, _, h => ([], h)
  | n + 1, a, h =>
    let x := h.readReg .hspi a
    let y := Hub.hspiReads n (hspiNext a) x.2
    (x.1 :: y.1, y.2)

/-- Leaves read values for the host. -/
def Hub.shown (h : Hub) (l : List Word) : Hub := { h with dbw := { h.dbw with readout := l } }

/-- The HSPI status byte (Table 13-17); ERR clears. -/
def Hub.hspiStatus (h : Hub) : Hub :=
  let b (x : Bool) (n : Nat) : Nat := if x then 2 ^ n else 0
  let v := h.boot.level.code * 32 + 16 + b h.dbw.errSeen 3 + b h.irqLow 2 + b h.dbw.mbiFree 1 + b (h.dbw.mboHead != h.dbw.mboTail) 0
  ({ h with dbw := { h.dbw with errSeen := false } }).shown [BitVec.ofNat 32 v]

/-- The command byte of an HSPI transaction with an address, its words, and the words read (Table 13-16). -/
def HspiOp.cmd : HspiOp → Byte × List Word × Nat
  | .write quad l => (if quad then 0x32 else 0x02, l, 0)
  | .read quad n => (if quad then 0x6B else 0x0B, [], n)
  | .other cmd => (cmd, [], 0)

/-- An HSPI transaction: its command byte, its address, the words of a write that are clocked in whole, and the words of a read that are
clocked out. A word cut short is in neither list: it is discarded, or has no effect. Another command byte is ignored until CS_n rises, and
so is a misaligned address, with ALIGN; before UP and with D0 out of service nothing is served (R354, R374, R375, Tables 13-16 and
13-17). -/
def Hub.hspi (h : Hub) (cmd : Byte) (a : Nat) (words : List Word) (n : Nat) : Hub :=
  if !h.hspiOn then h
  else if cmd = 0x05 then h.hspiStatus
  else if cmd = 0x0B ∨ cmd = 0x6B then
    if a % 4 ≠ 0 then h.mbError 5
    else
      let r := Hub.hspiReads n a h
      r.2.shown r.1
  else if cmd = 0x02 ∨ cmd = 0x32 then
    if a % 4 ≠ 0 then h.mbError 5 else Hub.hspiWrites words a h
  else h

/-- The HSPI pins that the hub drives are at high impedance: D0 is out of service, or VIO_A is not supplied (R354, R503). -/
def Hub.hspiHiZ (h : Hub) : Bool := (h.die 0).faulted || !h.vio 0

/-! ## Direct access (R349, R350) -/

/-- One operation of a direct-access request: its operation word in the response (Table 12-10). -/
def Hub.directOp (h : Hub) (w : Nat) : Nat × Hub :=
  let op := w / 2 ^ 62 % 4
  let a := w / 2 ^ 32 % 65536
  let data := BitVec.ofNat 32 (w % 2 ^ 32)
  let out (stat v : Nat) : Nat := op * 2 ^ 62 + stat * 2 ^ 60 + a * 2 ^ 32 + v
  if 2 ≤ op then (out 3 0, h)
  else if a % 4 ≠ 0 ∨ 0x3FFC < a then (out 1 0, h)
  else if op = 0 then
    let r := h.readReg .inband a
    (out 0 r.1.toNat, r.2)
  else
    let r := h.writeReg a data
    (out r.1 0, r.2)

/-- The doorbell hardware executes a request's operations in order and answers (R349). -/
def Hub.direct (h : Hub) (k : PacketIn) : Hub :=
  let n := fieldAt k.body 2 1
  if k.src ≠ 0 ∨ n = 0 ∨ 128 < n ∨ k.body.length ≠ 8 + 8 * n then
    { h with mgmt := { h.mgmt with daBad := satInc 16 h.mgmt.daBad } }
  else
    let r := (List.range n).foldl (fun (acc : Hub × Bytes) i =>
      let o := acc.1.directOp (fieldAt k.body (8 + 8 * i) 8)
      (o.2, acc.2 ++ be 8 o.1)) (h, [])
    r.1.originate 3 2 (be 2 (fieldAt k.body 0 2) ++ be 1 n ++ pad 5 ++ r.2)

/-! ## The response cache (R362) -/

/-- The entry of a response (R362); one ABANDONED has no response to hand over (R364). -/
def CacheEntry.of (r : Response) (t : Nat) : CacheEntry :=
  ⟨r.reqId, r.opcode, r.tag, r.status, r.retry, r.failDie, r.payload, t, r.route, r.status == St.abandoned⟩

/-- The response that an entry holds. -/
def CacheEntry.response (e : CacheEntry) : Response :=
  { route := e.route, opcode := e.opcode, tag := e.tag, status := e.status, retry := e.retry, reqId := e.reqId, failDie := e.failDie, orig := 0,
    payload := e.payload }

/-- The lead's core writes an entry through to its checkpoint store (R416). -/
def Hub.writeThrough (h : Hub) (e : Through) : Hub :=
  h.setDie h.boot.lead fun x => { x with cores := { x.cores with through := x.cores.through ++ [e] } }

/-- The id that a new entry drops from a full cache: a ninth id drops the one whose newest entry is oldest (R362). -/
def cacheVictim (c : List CacheEntry) (e : CacheEntry) : Option Nat :=
  let ids := (c.map CacheEntry.reqId).eraseDups
  if ids.contains e.reqId || ids.length < 8 then none else ids.getLast?

/-- The cache with an entry, newest first, at most 64 of one requester id (R362). -/
def cacheWith (c : List CacheEntry) (e : CacheEntry) : List CacheEntry :=
  let c := match cacheVictim c e with | some v => c.filter fun (x : CacheEntry) => x.reqId != v | none => c
  let mine := (e :: c.filter fun (x : CacheEntry) => x.reqId == e.reqId).take 64
  mine ++ c.filter fun (x : CacheEntry) => x.reqId != e.reqId

/-- Adds an entry, newest first: at most 64 of one requester id and 8 ids (R362); it is written through before its response is handed over
(R416). -/
def Hub.cachePut (h : Hub) (e : CacheEntry) : Hub :=
  let victim := cacheVictim h.mgmt.cache e
  let h := ({ h with mgmt := { h.mgmt with cache := cacheWith h.mgmt.cache e } }).writeThrough (.cache e)
  match victim with
  | some v => h.notice unitHub 0x0802 (argN v) 0
  | none => h

/-- Entries go 120 s after completion. -/
def Hub.cacheExpiry (h : Hub) : Hub :=
  { h with mgmt := { h.mgmt with cache := h.mgmt.cache.filter fun x => decide (h.clk.elapsed < x.at' + 120000000000) } }

/-! ## Places and responses (R355, R356, R357) -/

/-- Requests that have started and have not completed: the running one and those between two slices (R368). -/
def Mgmt.started (m : Mgmt) : List Request := (m.running.toList ++ m.waiting).map Prod.fst

/-- Places of a route that are held: by requests that wait or run, and by responses that have not left. -/
def Hub.placesUsed (h : Hub) (r : Route) : Nat :=
  (h.mgmt.queue.filter fun x => x.route == r).length + (h.mgmt.started.filter fun x => x.route == r).length +
    (match r with | .hspi => h.mgmt.outbox.length | .inband => h.mgmt.svcOut.length)

/-- A response goes to its route: the mailbox-out window's queue, or an SVC packet for P00 (R355 to R357). An in-band response
that P00 has no link for is lost, and its place freed (log entry 74). -/
def Hub.send (h : Hub) (r : Response) : Hub :=
  match r.route with
  | .hspi =>
    { h with mgmt := { h.mgmt with outbox := h.mgmt.outbox ++ [r] }, dbw := { h.dbw with mboTail := h.dbw.mboTail + 1 } }
  | .inband =>
    if h.addressed && (h.prt 0).linked then
      ({ h with mgmt := { h.mgmt with svcOut := h.mgmt.svcOut ++ [r] } }).originate 3 0 (r.bytes ++ be 4 (crc32 r.bytes).toNat)
    else h

/-! ## Intake (R355 to R357, R359, R363, R369, Table 13-3) -/

/-- Commands that network boot serves (R475). -/
def netCmd (op : Nat) : Bool := [0x0101, 0x0102, 0x0105, 0x0106, 0x0F01].contains op

/-- Wait limits in ms (Table 13-4). -/
def waitLimit (cls : Nat) : Nat := [0, 50, 200, 1000].getD cls 0

/-- The core marks the entries whose responses it has handed over, with its beat (R417; log entry 170). -/
def Hub.markHanded (h : Hub) : Hub :=
  if h.mgmt.cache.all CacheEntry.handed then h
  else ({ h with mgmt := { h.mgmt with cache := h.mgmt.cache.map fun (e : CacheEntry) => { e with handed := true } } }).writeThrough .handed

/-- Core B sends the responses again whose entries bear no mark, oldest first (R417). -/
def Hub.handAgain (h : Hub) : Hub :=
  (forAll (h.mgmt.cache.filter fun (e : CacheEntry) => !e.handed).reverse (fun (e : CacheEntry) h => h.send e.response) h).markHanded

/-- Compares a request that was taken in at a true time, and queues it as new or answers it at once (R363, R369). The estimates of R369
are free values (log entry 14). -/
def Hub.takeOn (h : Hub) (route : Route) (q : ReqHeader) (payload : Bytes) (t : Nat) : Hub :=
  let h := h.cacheExpiry
  let m := h.mgmt
  let answer (r : Reply) : Response := respond q route r
  let same (x : ReqHeader) : Bool := x.reqId == q.reqId && x.tag == q.tag
  match m.cache.find? (fun e => e.reqId == q.reqId && e.tag == q.tag) with
  | some e =>
    if e.opcode = q.opcode then
      h.send { answer ⟨St.cached, 0, e.failDie, e.payload⟩ with orig := e.status }
    else h.send (answer ⟨St.duplicateTag, 0, 255, []⟩)
  | none =>
    let reroute (x : Request) : Request := if same x.hdr then { x with route := route } else x
    match ((m.queue.filter fun (x : Request) => !x.raw) ++ m.started).find? fun (x : Request) => same x.hdr with
    | some x =>
      if x.hdr.opcode = q.opcode then
        { h with mgmt := { m with
            queue := m.queue.map fun (x : Request) => if x.raw then x else reroute x,
            running := m.running.map fun x => (reroute x.1, x.2), waiting := m.waiting.map fun x => (reroute x.1, x.2) } }
      else h.send (answer ⟨St.duplicateTag, 0, 255, []⟩)
    | none =>
      match cmdInfo q.opcode with
      | none =>
        let r := answer ⟨St.unsupported, 0, 255, []⟩
        (h.cachePut (CacheEntry.of r h.clk.elapsed)).send r
      | some i =>
        let h := h.tick
        let est := Config.waitEstimate h.fresh i.cls
        let free := 32 - (h.placesUsed route + 1)
        let retry (ms : Nat) : Reply := ⟨St.busy, max 1 ms, 255, []⟩
        if h.boot.netboot ∧ !netCmd q.opcode then h.send (answer (retry 1000))
        else if 1 ≤ i.cls ∧ free < 5 then
          let waiting := (m.queue ++ m.started).any fun x => x.route == route
          h.send (answer (retry (if route = .hspi ∧ !waiting then 1 else Config.retryEstimate h.fresh i.cls)))
        else if 1 ≤ i.cls ∧ waitLimit i.cls < est then h.send (answer (retry (est - waitLimit i.cls)))
        else
          let x : Request := ⟨route, q, payload, i.cls, t, m.order, false⟩
          { h with mgmt := { h.mgmt with queue := h.mgmt.queue ++ [x], order := m.order + 1 } }

/-- Requests that took their places while no core managed are compared, oldest first (R363, R417, R421). -/
def Hub.admitRaw (h : Hub) : Hub :=
  forAll (h.mgmt.queue.filter Request.raw)
    (fun (x : Request) h =>
      ({ h with mgmt := { h.mgmt with queue := h.mgmt.queue.filter fun (y : Request) => y.order != x.order } }).takeOn x.route x.hdr x.payload x.at')
    h

/-- A request takes its place. The firmware compares it at once, or, in a gap or with no running core, once it manages again: until then
no request is answered (R355, R363, R417, R421, log entry 167). -/
def Hub.takeIn (h : Hub) (route : Route) (q : ReqHeader) (payload : Bytes) : Hub :=
  if h.serves then h.admitRaw.takeOn route q payload h.clk.elapsed
  else
    let x : Request := ⟨route, q, payload, 0, h.clk.elapsed, h.mgmt.order, true⟩
    { h with mgmt := { h.mgmt with queue := h.mgmt.queue ++ [x], order := h.mgmt.order + 1 } }

/-- INTAKE: the request in the mailbox-in window is taken once a place is free (R355, R356, R359). -/
def Hub.intake (h : Hub) : Hub :=
  if h.dbw.mbiFree ∨ !h.hspiOn ∨ 32 ≤ h.placesUsed .hspi then h
  else
    let b := h.dbw.mbiBytes
    let q := headerAt b 0
    let crc := h.dbw.mbiCrc
    let h := { h with dbw := { h.dbw with mbiHead := h.dbw.mbiHead + 1 } }
    if 4080 < q.length then h.mbError 2
    else if crc32 (b.take (16 + q.length)) ≠ crc then h.mbError 1
    else h.takeIn .hspi q ((b.drop 16).take q.length)

/-- A Krenmail packet is taken in at its trailer, or discarded and counted; LENGTH and CRC errors are recorded in MB_ERR too (R355,
R357, R359, log entry 147). -/
def Hub.svcTake (h : Hub) (k : PacketIn) : Hub :=
  let q := headerAt k.body 0
  let drop (h : Hub) : Hub := { h with mgmt := { h.mgmt with svcDrop := satInc 16 h.mgmt.svcDrop } }
  if k.src ≠ 0 ∨ 32 ≤ h.placesUsed .inband then drop h
  else if 16 ≤ k.body.length ∧ 4080 < q.length then drop (h.mbError 2)
  else if k.body.length < 20 + q.length ∨
      (crc32 (k.body.take (16 + q.length))).toNat ≠ fieldAt k.body (16 + q.length) 4 then drop (h.mbError 1)
  else h.takeIn .inband q ((k.body.drop 16).take q.length)

/-- An SVC packet that is delivered here goes by its KIND (Table 12-2). -/
def Hub.svcDeliver (k : PacketIn) (h : Hub) : Hub :=
  match k.kind with
  | 0 => h.svcTake k
  | 1 => h.direct k
  | _ => h

/-- LIFETIME: requests that have not started in time are discarded, each with an ABANDONED entry (R363, R364); in a gap, once the firmware
manages again. -/
def Hub.lifetime (h : Hub) : Hub :=
  if !h.serves then h else
  let h := h.admitRaw
  let late (x : Request) : Bool := decide (x.at' + ReqHeader.life x.hdr ≤ h.clk.elapsed)
  let gone := h.mgmt.queue.filter late
  let h := { h with mgmt := { h.mgmt with queue := h.mgmt.queue.filter fun x => !late x } }
  forAll (gone.filter fun x => !ReqHeader.idem x.hdr) (fun x h =>
    h.cachePut (CacheEntry.of (respond x.hdr x.route ⟨St.abandoned, 0, 255, []⟩) h.clk.elapsed)) h

/-- The blocks of a LOG_WRITE request are not all written: it has not completed (R496). -/
def Hub.writing (h : Hub) (x : Request) : Bool := h.tag.writes.any fun (j : LogJob) => j.owner == .request x.order

/-- What a command does 10 ms after its response waits for that: a reset (R381, R476) or Keep (R398). -/
def Hub.afterResponse (h : Hub) (op : Nat) : Hub :=
  if op = 0x0103 ∨ op = 0x0106 then { h with boot := { h.boot with resetAt := h.boot.resetAt.map fun _ => h.clk.elapsed + 10000000 } }
  else if op = 0x0C01 then { h with pwr := { h.pwr with keepAt := h.pwr.keepAt.map fun _ => h.clk.elapsed } }
  else h

/-- The response to a command of some opcodes has still to be sent. -/
def Mgmt.owes (m : Mgmt) (ops : List Nat) : Bool := match m.running with | some (x, _) => ops.contains x.hdr.opcode | none => false

/-- A request completes: its response is cached unless it is idempotent or BUSY, and queued (R363, R368). -/
def Hub.finish (h : Hub) (x : Request) (r : Reply) : Hub :=
  let resp := respond x.hdr x.route r
  let h := if ReqHeader.idem x.hdr || r.status == St.busy || r.status == St.duplicateTag then h
    else h.cachePut (CacheEntry.of resp h.clk.elapsed)
  (h.send resp).afterResponse (if r.status = St.ok then x.hdr.opcode else 0)

/-- The running request completes. -/
def Hub.completion (h : Hub) : Hub :=
  match h.mgmt.running with
  | none => h
  | some (x, r) => ({ h with mgmt := { h.mgmt with running := none } }).finish x r

/-- The first LOG_WRITE between slices whose blocks are written, or whose second is over, completes (R496). -/
def Hub.finishWrite (h : Hub) : Hub :=
  match h.mgmt.waiting.find? fun (p : Request × Reply) => !h.writing p.1 with
  | some (x, r) =>
    ({ h with mgmt := { h.mgmt with waiting := h.mgmt.waiting.filter fun (p : Request × Reply) => p.1.order != x.order } }).finish x r
  | none => h

/-! ## LOG_WRITE on the wired side of the tag (R400, R496) -/

/-- OWNER_LOCK is held (R495). -/
def Hub.tagLocked (h : Hub) : Bool := match h.tag.lockUntil with | some t => decide (h.clk.elapsed < t) | none => false

/-- 1 s has passed since the first attempt at its next block (R496). -/
def LogJob.expired (j : LogJob) (now : Nat) : Bool := decide (j.since + 1000000000 ≤ now)

/-- An instant fell in the last gap of management (R418). -/
def Mgmt.inGap (m : Mgmt) (t : Nat) : Bool := match m.gap with | some (a, b) => decide (a ≤ t ∧ t < b) | none => false

/-- Management resumes after a gap since a true time (R418, R423). -/
def Hub.gapEnds (h : Hub) (since : Nat) : Hub :=
  { h with mgmt := { h.mgmt with gap := some (h.tm.now - (h.clk.elapsed - since) * 1024, h.tm.now) } }

/-- An action of the management plane that has run is done, as of the instant it started: LATE where that was more than 1 ms after its T, or its T
fell in a gap of management (R123, R126, R418). -/
def Hub.planeDone (h : Hub) (id : Word) (status : Nat) : Hub :=
  match h.findAction id with
  | some a =>
    let late := status == St.ok && (decide (a.t + 1024000000 < a.own) || h.mgmt.inGap a.t)
    h.schedDone a.own id (if late then St.late else status) (if status = St.ok then (a.own - a.t) / 1024000 else 0)
  | none => h

/-- A LOG_WRITE leaves the wired side's list, and the next one makes its first attempt; a scheduled one is done with a status (R400). -/
def Hub.jobEnds (h : Hub) (j : LogJob) (status : Nat) : Hub :=
  let h := h.setTag fun t => { t with writes := match t.writes with
    | _ :: k :: r => { k with since := h.clk.elapsed } :: r
    | _ => [] }
  match j.owner with
  | .action id => h.planeDone id status
  | _ => h

/-- The reply of a request that has started. -/
def Mgmt.answers (m : Mgmt) (order : Nat) (r : Reply) : Mgmt :=
  let fix (p : Request × Reply) : Request × Reply := if p.1.order = order then (p.1, r) else p
  { m with running := m.running.map fix, waiting := m.waiting.map fix }

/-- A LOG_WRITE whose next block is still not written, nor being programmed, 1 s after its first attempt ends with BUSY; what is written
stays (R400, R496). -/
def Hub.writeExpiry (h : Hub) : Hub :=
  match h.tag.writes with
  | [] => h
  | j :: _ =>
    if !h.serves ∨ !j.expired h.clk.elapsed ∨ (h.tag.busy.isSome ∧ h.tag.ring.isEmpty) then h
    else
      let h := h.tick
      let h := match j.owner with
        | .request n => h.setMgmt fun m => m.answers n ⟨St.busy, max 1 (Config.retryEstimate h.fresh 3), 255, []⟩
        | _ => h
      h.jobEnds j St.busy

/-- The wired side starts its next block: of the ring entry, else of a LOG_WRITE that the lock does not hold up (R495, R496). -/
def Hub.tagNext (h : Hub) : Hub :=
  let h := h.writeExpiry
  if h.tag.busy.isSome then h
  else match h.tag.ring, h.tag.writes with
    | (n, _) :: _, _ => h.setTag fun t => { t with busy := some n }
    | [], j :: _ =>
      match j.blocks with
      | (n, _) :: _ => if h.tagLocked ∨ j.expired h.clk.elapsed then h else h.setTag fun t => { t with busy := some n }
      | [] => h
    | [], [] => h

/-- Core A may issue output until it is held in reset, 2 ms after the declaration at the latest (R417, Table 15-3). -/
def Hub.overlap (h : Hub) : Bool :=
  match (h.die h.boot.lead).cores.declaredAt with
  | some t => decide (h.clk.elapsed ≤ t + 2000000) && (h.die h.boot.lead).cores.stage == 1
  | none => false

/-- REQUEST_COMPLETION: the running request completes, or a LOG_WRITE whose blocks are written (R363, R368, R496). -/
def Hub.requestCompletion (h : Hub) : Hub :=
  match h.mgmt.running with
  | some (x, _) => if h.writing x then h.finishWrite else h.completion
  | none => h.finishWrite

/-! ## Meanings -/

/-- SUBMIT (R356). -/
def execSubmit (s : State) : Out := act s fun h => if h.hspiOn then h.submit else h
/-- RELEASE (R356). -/
def execRelease (s : State) : Out := act s fun h => if h.hspiOn then h.release else h
/-- INTAKE (R355). -/
def execIntake (s : State) : Out := act s Hub.intake
/-- SVC (R357). -/
def execSvc (port : Nat) (p : PacketIn) (s : State) : Out := act s fun h => h.packet port p (Hub.svcDeliver p)
/-- SVC_FORWARD (R342). -/
def execSvcForward (port : Nat) (p : PacketIn) (s : State) : Out := act s fun h => h.packet port p (Hub.svcDeliver p)
/-- DIRECT_ACCESS (R349). -/
def execDirectAccess (port : Nat) (p : PacketIn) (s : State) : Out := act s fun h => h.packet port p (Hub.svcDeliver p)
/-- LIFETIME (R364). -/
def execLifetime (s : State) : Out := act s Hub.lifetime
/-- CACHE_EXPIRY (R362). -/
def execCacheExpiry (s : State) : Out := act s Hub.cacheExpiry
/-- REQUEST_COMPLETION (R368). -/
def execRequestCompletion (s : State) : Out :=
  act s fun h => if h.serves then h.tagNext.requestCompletion else if h.overlap then h.completion else h
/-- MB_ERR (R356). -/
def execMbErr (s : State) : Out := act s fun h => h.hspi 0x0B 0x30 [] 1
/-- NEW_REC (R427). -/
def execNewRec (s : State) : Out := act s fun h => h.hspi 0x0B 0x84 [] 1
/-- DBW_IRQ_STAT (R372). -/
def execDbwIrqStat (w : Word) (s : State) : Out := act s fun h => if h.hspiOn then h.writeIrqStat w else h
/-- REGISTER_WRITE (R373 to R375; log entry 75). -/
def execRegisterWrite (addr : Nat) (w : HspiOp) (s : State) : Out := act s fun h => h.hspi (HspiOp.cmd w).1 addr (HspiOp.cmd w).2.1 (HspiOp.cmd w).2.2
/-- TIME_SEC_LO (R128, R129): an HSPI read, or a read of an in-band direct access. -/
def execTimeSecLo (route : Route) (s : State) : Out :=
  act s fun h => match route with
    | .hspi => h.hspi 0x0B 0x44 [] 1
    | .inband => if h.hspiOn then h.readSecLo .inband else h
/-- LOCAL_STREAM_WINDOW (R255). -/
def execLocalStreamWindow (s : State) : Out := act s fun h => h.hspi 0x0B 0x3000 [] 1
/-- HSPI_STATUS (R374). -/
def execHspiStatus (s : State) : Out := act s fun h => h.hspi 0x05 0 [] 0

end Sys2Proof.Machine
end

