-- ==== Sys2Proof/Machine/Faults.lean ====
section
/-! DEFINITION. Faults: loss and return of a die, windows, tests, ECC, restoring, the sentinel and failover (15), FLT commands
(14). -/

namespace Sys2Proof.Machine

/-! ## Cores and their checkpoints (R416, R419, R423) -/

def Hub.setCores (h : Hub) (d : Nat) (f : Cores → Cores) : Hub := h.setDie d fun x => { x with cores := f x.cores }

/-- The core of a die that is not active: 0 A, 1 B. -/
def Cores.other (c : Cores) : Nat := if c.onB then 0 else 1

/-- An image slot of the flash. -/
def Flash.slot (f : Flash) (n : Nat) : Option Image := if n = 0 then f.a else f.b

/-- The running image (R472, R475). -/
def Hub.image (h : Hub) : Option Image := match h.boot.slot with | some n => h.flash.slot n | none => h.flash.staged

/-- The last complete checkpoint: the half that the pointer names (R416). -/
def Cores.ckpt (c : Cores) : Ckpt := (if c.pointer then c.halves.2 else c.halves.1).getD ⟨0, [], [], 1⟩

/-- A checkpoint: the core writes its full state into the older half, then commits it with one pointer write; commit records of requests that have
not completed stay (R416). -/
def Cores.save (c : Cores) (k : Ckpt) (started : List Nat) : Cores :=
  { c with halves := if c.pointer then (some k, c.halves.2) else (c.halves.1, some k), pointer := !c.pointer,
           through := c.through.filter fun t => match t with | .commit n => started.contains n | _ => false }

/-- Die d's active core writes a checkpoint; the package manager's state is the lead's (R353, R416). -/
def Hub.saveCkpt (h : Hub) (d : Nat) : Hub :=
  let gen := (h.die d).cores.ckpt.gen + 1
  let k : Ckpt := if d = h.boot.lead then ⟨gen, h.mgmt.cache, h.mgmt.actions.map Action.id, h.mgmt.nextAction⟩ else ⟨gen, [], [], 1⟩
  h.setCores d fun c => c.save k (h.mgmt.started.map Request.order)

/-- What has been written through since is put on the checkpoint (R416). -/
def Ckpt.redo (k : Ckpt) (t : Through) : Ckpt :=
  match t with
  | .cache e => { k with cache := cacheWith k.cache e }
  | .handed => { k with cache := k.cache.map fun (e : CacheEntry) => { e with handed := true } }
  | .action id => { k with actions := k.actions ++ [id], nextAction := if id = 0xFFFFFFFF then 1 else id + 1 }
  | .commit _ => k

/-- The package manager's state is restored from die d's store: an action that the data path holds committed goes on anyhow (R416 to R418,
R421). -/
def Hub.restoreFrom (h : Hub) (d : Nat) : Hub :=
  let c := (h.die d).cores
  let k := c.through.foldl Ckpt.redo c.ckpt
  h.setMgmt fun m => { m with cache := k.cache, nextAction := k.nextAction,
                              actions := m.actions.filter fun (a : Action) => a.committed || k.actions.contains a.id }

/-- The request that ran at the failure is settled from its commit record in die d's store: where that shows the commit its response is formed,
cached and sent, and else it is ABANDONED and has none (R364, R419). -/
def Hub.settleRunning (h : Hub) (d : Nat) : Hub :=
  match h.mgmt.running with
  | none => h
  | some (x, r) =>
    let committed := (h.die d).cores.through.contains (.commit x.order)
    if h.writing x then h.setMgmt fun m => { m with running := none, waiting := m.waiting ++ [(x, r)] }
    else if committed then h.completion
    else
      let h := { h with mgmt := { h.mgmt with running := none } }
      if ReqHeader.idem x.hdr then h
      else h.cachePut (CacheEntry.of (respond x.hdr x.route ⟨St.abandoned, 0, 255, []⟩) h.clk.elapsed)

/-- Microseconds, rounded up (log entry 21). -/
def usOf (ns : Nat) : Nat := ceilDiv ns 1000

/-- The next die of a drill begins, with a final checkpoint of core A, the lead last; after the last one the action is done (R423). -/
def Hub.drillNext (h : Hub) : Hub :=
  match h.flt.drill with
  | none => h
  | some (id, status) =>
    let waits := (List.range h.nDies).filter fun d => (h.die d).cores.drill
    let others := waits.filter (· != h.boot.lead)
    match others ++ waits.filter (· == h.boot.lead) with
    | d :: _ => ((h.saveCkpt d).setCores d fun c => { c with drillAt := some h.clk.elapsed }).raise 7
    | [] =>
      let h := { h with flt := { h.flt with drill := none } }
      match id with
      | some i => h.planeDone i status
      | none => h

/-- A die that is lost or frozen in a drill has no part in it any more: the action ends with FAULT, and the drill goes on with the next die (R423;
log entry 196). -/
def Hub.drillDrop (h : Hub) (d : Nat) : Hub :=
  if !(h.die d).cores.drill then h
  else
    let was := (h.die d).cores.drillAt.isSome
    let h := h.setCores d fun c => { c with drill := false, drillAt := none }
    let h := { h with flt := { h.flt with drill := h.flt.drill.map fun (x : Option Word × Nat) => (x.1, St.fault) } }
    if was then h.drillNext else h

/-! ## The lead role (R353, R421) -/

/-- A die's counter is not compared any more, or is the lead's own: it has no skew (R425). -/
def Hub.notSkewed (h : Hub) (d : Nat) : Hub :=
  let h := h.setDie d fun x => { x with skewPs := 0, skewTake := false, skewFrom := none }
  h.setTm fun t => { t with skew := h.dies.any fun (x : Die) => x.skewPs != 0 }

/-- What a flow still holds for its receiver: packets that wait, are under way or are not yet acknowledged. -/
def Flow.leftover (f g : Flow) : Flow :=
  { g with yoke := f.yoke, backlog := f.backlog, resend := f.resend, held := f.held, sending := f.sending, past := f.past }

/-- The lead role goes to the lowest-numbered die in service whose core runs; the new lead's HK flow starts at SEQ 0, and the
old lead's packets stay until acknowledged, as do those of a time when the new lead was lead before (R353, R421). Its counter is the one that
the others are compared with (R425), and it writes a checkpoint of the state that it has taken over (R416). -/
def Hub.moveLead (h : Hub) : Hub :=
  match (List.range h.nDies).find? h.coreRuns with
  | none => h
  | some n =>
    let old := h.boot.lead
    if n = old then h
    else
      let dest := match h.findFlow ⟨old, 3, 0⟩ with | some f => f.dest | none => Dest.port 0
      let h := h.setFlow ⟨old, 3, 0⟩ fun f =>
        if f.started then
          let f := (f.stateGap h.tm.now).advance h.tm.now
          let g := f.close (max (f.covStart + 1024) (nsAfter h.tm.now))
          { g with started := false }
        else f
      let g : Flow := { Flow.init ⟨n, 3, 0⟩ with dest := dest }
      let g := match h.findFlow ⟨n, 3, 0⟩ with | some f => f.leftover g | none => g
      let h := { h with boot := { h.boot with lead := n }, flows := h.flows.filter (fun (f : Flow) => f.key != FlowKey.mk n 3 0) ++ [g] }
      let h := if h.boot.level.serves then h.startHk else h
      (((h.notSkewed n).saveCkpt n).notice unitHub 0x0F0E (argN n) (argN old))

/-! ## Loss and return of a die (R412, R413) -/

/-- A capture goes on without the channels of a lost die, and disarms where it has no others (log entry 77). -/
def Hub.capLoseDie (d n : Nat) (h : Hub) : Hub :=
  match h.cap n with
  | none => h
  | some c =>
    if !c.dies.any (fun x => x.die == d) then h
    else
      let mine := CapParams.on c.params d
      let h := h.setCap n fun c => { c with
        dies := c.dies.filter (fun x => x.die != d), chans := c.chans.filter (fun y => chDie y.ch != d),
        params := { c.params with channels := c.params.channels.filter fun i => chDie i != d },
        train := c.train.map fun (t : Train) =>
          { t with open' := t.open'.filter (fun i => chDie i != d), nCoach := t.nCoach - mine.length, tflags := t.tflags ||| 4 } }
      let h := { h with chans := modAll h.chans mine fun _ x => { x with churnCap := none } }
      if (c.dies.filter fun x => x.die != d).isEmpty then h.disarm n else h.trainDone n

/-- A flow whose packets are lost (R412). -/
def Flow.lose (f : Flow) : Flow :=
  { f with started := false, filling := [], lead := [], yoke := [], backlog := [], resend := [], sending := none, past := [], held := [],
           flush := none, softFlush := false, gapFrom := none, limitFrom := none, stuck := false, sweep := [] }

/-- The octet may be calibrated: its die in service and not frozen, its quadrant powered (R435); and its die has an audit converter, which
checks the reference (R438; log entry 200). -/
def Hub.calOk (h : Hub) (o : Nat) : Bool :=
  decide (o < h.nOcts) && !h.dieDown (o / 16) && h.powered (o / 4) && !(h.aud (o / 16)).retired

/-- The octets of the part that may be calibrated. -/
def Hub.eligible (h : Hub) : List Nat := (List.range h.nOcts).filter h.calOk

/-- The start-up pass has ended: no octet of it is left, also where the last ones were lost. The end of its last octet's slot counts as a
background start, after a suspension too (R435, R436, R438). -/
def Hub.passEnds (h : Hub) : Hub :=
  if h.cal.passRuns && (h.cal.pass.filter h.calOk).isEmpty && !h.cal.slots.any (fun (s : Slot) => s.pass) then
    { h with cal := { h.cal with passRuns := false, passDone := true, pass := [], bgAt := h.clk.elapsed } }
  else h

/-- Ends the calibration slots of a die with nothing changed; held writes apply (R432, R440). -/
def Hub.abortSlots (h : Hub) (d : Nat) : Hub :=
  let mine := (h.cal.slots.filter fun (s : Slot) => s.die == d).map Slot.oct
  let k : Cal := { h.cal with slots := h.cal.slots.filter fun (s : Slot) => s.die != d }
  let h := forAll (mine.filter fun o => (h.oct o).held) (fun o h => h.endHold o) (({ h with cal := k }).setAudit d fun a => { a with ref := none, cal := none, paused := false })
  h.mapCh fun c x => if mine.contains (chOct c) then { x with calSkip := none, meas := none } else x

/-- The skim of a channel of a lost die, as the spool state of the lead, which builds it now, and shedding allow (R212, R412, R459). -/
def Hub.leadSkim (h : Hub) (x : Chan) : Chan :=
  let built := (h.die h.boot.lead).store.spool == .fullRate && decide (h.pwr.shed < 5)
  { x with skimStop := none, skimBuilt := x.skimBuilt && built, skimStart := if built ∧ !x.skimBuilt then some 2 else none }

/-- A die goes out of service (R412). -/
def Hub.dieOut (h : Hub) (d : Nat) : Hub :=
  let h := (((h.drillDrop d).abortSlots d).vanish d).notSkewed d
  let h := h.setDie d fun x =>
    { x with inService := false, faulted := true, restartAt := none,
             store := { x.store with coaches := [], trains := [], spool := .fullRate, pageWin := [], pageAddr := [] },
             cores := { x.cores with hbOk := false, beat := false, missed := 0, declaredAt := none } }
  let h := forAll (List.range 32) (Hub.capLoseDie d) h
  let h := { h with flows := h.flows.map (fun (f : Flow) => if f.key.die == d then f.lose else f),
                    saved := h.saved.filter (fun (x : SavedChurn) => x.die != d),
                    jobs := h.jobs.filter fun (j : ChurnJob) => j.die != d }
  let h := if d = 0 then (((h.closeCoupler false).portDown 2 .off).portDown 3 .off)
    else forAll [4 * d, 4 * d + 1, 4 * d + 2, 4 * d + 3] (fun p h => h.portDown p .off) h
  let reps := h.reps.mapIdx fun i (r : Rep) => if 8 ≤ i then { r with hiZ := true } else r
  let h := (if d = 1 then ({ h with reps := reps }).ppsDrop 1 else h).moveLead
  let h := h.mapCh fun c x =>
    -- the samples of a channel before and after the loss do not follow one another (R175)
    let x := if chDie c = d then { x with trig := { x.trig with cubic := x.trig.cubic.map fun w => { w with tNext := 0 } } } else x
    if (h.die (chDie c)).faulted then h.leadSkim x else x
  -- the lead carries the lost die's channels in its SET flows now (R245, R412)
  (({ h with cal := { h.cal with ramps := h.cal.ramps.filter fun (s : Slot) => s.die != d } }).reSweep h.boot.lead).reLevel.passEnds

/-- A die is back with its last configuration (R413). -/
def Hub.dieIn (h : Hub) (d : Nat) : Hub :=
  let h := h.setDie d fun x => { x with inService := true, faulted := false, restartAt := none, cores := { x.cores with copy := h.image } }
  let h := forAll ((List.range 128).map fun i => 128 * d + i) (fun c h =>
    (h.resumeChan c).setCh c fun x => { x with skimStart := if x.skimBuilt ∨ 5 ≤ h.pwr.shed then x.skimStart else some 2, skimStop := none }) h
  let h := { h with flows := h.flows.map fun (f : Flow) =>
    if f.key.die == d && (decide (f.key.kind ≤ 2) || (f.key.kind == 5 && h.rawFlows.contains f.key)) then f.start h.tm.now else f }
  let h := forAll [4 * d, 4 * d + 1, 4 * d + 2, 4 * d + 3] (fun p h => h.portStart p) h
  let reps := h.reps.mapIdx fun i (r : Rep) => if 8 ≤ i then { r with hiZ := false, waiting := true } else r
  let h := if d = 1 then { h with reps := reps } else h
  let h := h.mapCh fun c x => if chDie c = d then { x with trig := { x.trig with cubic := x.trig.cubic.map fun w => { w with tNext := 0 } } } else x
  let h := h.moveLead
  ((h.reSweep d).reSweep h.boot.lead).reLevel

/-- DIE_FAULT: out of service; the first fault in 24 h restarts, a second is permanent (Table 15-1). -/
def Hub.dieFault (h : Hub) (d cause : Nat) : Hub :=
  if h.nDies ≤ d ∨ !(h.die d).inService then h
  else
    let now := h.clk.elapsed
    let second := match (h.die d).faultAt with | some t => decide (now < t + 86400000000000) | none => false
    let h := (h.dieOut d).setDie d fun x => { x with faultAt := some now, restartAt := if second then none else some (now, cause) }
    if second then
      let h := h.event (unitDie d) 0x0F06 2 2 (argN cause) 0
      { h with flt := { h.flt with retired := h.flt.retired ++ [unitDie d] } }
    else h

/-- DIE_RESTART: within 10 s and with its self-test passed the fault was transient, else permanent (Table 15-1). -/
def Hub.dieRestart (h : Hub) (d : Nat) (passed : Bool) : Hub :=
  match (h.die d).restartAt with
  | none => h
  | some (t, cause) =>
    if passed && decide (h.clk.elapsed ≤ t + 10000000000) then (h.dieIn d).event (unitDie d) 0x0F06 1 1 (argN cause) 0
    else
      let h := (h.setDie d fun x => { x with restartAt := none }).event (unitDie d) 0x0F06 2 1 (argN cause) 0
      { h with flt := { h.flt with retired := h.flt.retired ++ [unitDie d] } }

/-! ## Windows (R404) -/

/-- A lane's condition is present: the pattern of P00.LT is lost, or a data lane that its port runs on is not locked. -/
def Hub.laneDown (h : Hub) (p l : Nat) : Bool :=
  let q := h.prt p
  if l = 3 then p == 0 && !q.ltUp
  else (h.lane p l).lock != .locked && (q.st == .training || (q.st == .up && decide (l < q.width)))

/-- Close of a lane's window: permanent where the condition has lasted it all, a fresh window where it is present, else transient. -/
def Hub.laneWindow (h : Hub) (p l : Nat) : Hub :=
  match (h.lane p l).win with
  | none => h
  | some w =>
    let now := h.clk.elapsed
    if !w.due now then h
    else if h.laneDown p l then
      if w.lasting.contains w.code then
        let h := h.tick
        h.retireLane p l w.code w.events (Config.selfTestPass h.fresh (unitLane p l))
      else h.setLane p l fun x =>
        { x with win := some ⟨now, fld h.flt.lane 15 0 * 1000000000, fld h.flt.lane 31 24, 1, w.code, [w.code]⟩ }
    else (h.event (unitLane p l) w.code 1 w.events (argN w.events) 0).setLane p l fun x => { x with win := none }

/-- Close of a page's window. -/
def Hub.pageWindow (h : Hub) (d pg : Nat) : Hub :=
  match (h.die d).store.pageWin.find? (fun x => x.1 == pg) with
  | none => h
  | some (_, w) =>
    if !w.due h.clk.elapsed then h
    else
      let addr := ((h.die d).store.pageAddr.find? fun x => x.1 == pg).map Prod.snd
      (h.event (unitPage d pg) 0x0F02 1 w.events (argN (addr.getD 0)) 0).setDie d fun x =>
        { x with store := { x.store with pageWin := x.store.pageWin.filter (fun y => y.1 != pg),
                                         pageAddr := x.store.pageAddr.filter fun y => y.1 != pg } }

/-- Close of the hour of an AUDIT_FAULT: held for all of it, it is permanent; one that set within it opens a fresh hour (R404, Table
15-1). -/
def Hub.auditWindow (h : Hub) (d : Nat) : Hub :=
  let u := unitAudit d
  match h.engWin d u with
  | none => h
  | some w =>
    if !w.due h.clk.elapsed then h
    else if (h.aud d).fault then
      if (h.aud d).faultAt ≤ w.opened then
        let h := (((h.event u 0x0109 2 w.events 0 0).setEngWin d u none).abortSlots d).setAudit d fun a => { a with retired := true }
        ({ h with flt := { h.flt with retired := h.flt.retired ++ [u] } }).passEnds
      else h.setEngWin d u (some ⟨h.clk.elapsed, 3600000000000, 0, 1, 0x0109, [0x0109]⟩)
    else (h.event u 0x0109 1 w.events 0 0).setEngWin d u none

/-- TYPE and ID of a UNIT (Table 15-5). -/
def unitType (u : Word) : Nat := u.toNat / 2 ^ 28
def unitId (u : Word) : Nat := u.toNat % 2 ^ 28

/-- WINDOW_CLOSE: the unit is classified (R404). -/
def Hub.windowClose (h : Hub) (u : Word) : Hub :=
  let i := unitId u
  match unitType u with
  | 0 => h.chanWindow i
  | 1 => h.laneWindow (i / 4) (i % 4)
  | 2 => h.engineWindow (i / 136) 2 (i % 136)
  | 4 => h.engineWindow (i / 8) 4 (i % 8)
  | 5 => h.engineWindow (i / 4) 5 (i % 4)
  | 6 => h.pageWindow (i / 3072) (i % 3072)
  | 13 => h.auditWindow i
  | _ => h

/-! ## Tests of engines (R405) -/

/-- An engine of a test by its number: 0 to 135 channel, 136 to 143 separator, 144 to 147 churn (log entry 78). -/
def testEngine (n : Nat) : Nat × Nat := if n < 136 then (2, n) else if n < 144 then (4, n - 136) else (5, n - 144)

/-- One engine that failed its test, with its repeated test. -/
def Hub.testFailed (d n : Nat) (h : Hub) : Hub :=
  let t := testEngine n
  let u := engineUnit d t.1 t.2
  if 148 ≤ n ∨ h.flt.retired.contains u then h
  else
    let h := h.tick
    h.engineFail d t.1 t.2 0x0F01 true (Config.selfTestPass h.fresh u)

/-- SIGNATURE_TEST: the engines of a die that failed the test of this second (R405). -/
def Hub.signatureTest (h : Hub) (d : Nat) (failed : List Nat) : Hub :=
  if h.nDies ≤ d ∨ !(h.die d).inService then h else forAll failed (Hub.testFailed d) h

/-- An uncorrectable error in the local memory of an engine, by its number of `testEngine` (R404, R408, Table 15-1). -/
def Hub.localEcc (h : Hub) (d e : Nat) : Hub :=
  let t := testEngine e
  let u := engineUnit d t.1 t.2
  if h.nDies ≤ d ∨ 148 ≤ e ∨ !(h.die d).inService ∨ h.flt.retired.contains u then h
  else
    let h := h.tick
    h.engineFail d t.1 t.2 0x0F03 false (Config.selfTestPass h.fresh u)

/-! ## ECC errors of the store (R191, R404) -/

/-- The area of a page by its number: the coach area first, then the spool, then the churn area (log entry 76). -/
def Store.area (s : Store) (pg : Nat) : Nat :=
  let coach := 3072 - fld s.part 27 16 - fld s.part 11 0
  if pg < coach then 0 else if pg < coach + fld s.part 27 16 then 1 else 2

/-- A page leaves its area. -/
def Store.losePage (s : Store) (pg : Nat) : Store :=
  let s : Store :=
    { s with retired := s.retired ++ [pg], pageWin := s.pageWin.filter (fun y => y.1 != pg), pageAddr := s.pageAddr.filter fun y => y.1 != pg }
  match s.area pg with
  | 0 => { s with lostCoach := s.lostCoach + 1 }
  | 1 => { s with lostSpool := s.lostSpool + 1 }
  | _ => { s with lostChurn := s.lostChurn + 1 }

/-- A coach that an uncorrectable error hits: ECC_BAD, and its bytes as they read (R191). -/
def Coach.damage (c : Coach) (n : Nat) : Coach := { c with eccBad := true, asRead := some n }

/-- The segment of a COACH record as it reads after the record's bytes have changed (R191, R204). -/
def Item.reread (stream record : Nat) (b : Bytes) (i : Item) : Item :=
  if i.typ = 1 ∧ i.stream = stream ∧ i.first = record % 2 ^ 32 then
    { i with payload := i.payload.take 4 ++ (b.drop (fieldAt i.payload 0 4 % 2 ^ 30)).take (i.payload.length - 4) }
  else i

/-- Packets of a COACH flow are read from the coach area, also when they are sent again (R191, R204). -/
def Flow.reread (stream record : Nat) (b : Bytes) (f : Flow) : Flow :=
  let fix (p : Packet) : Packet := { p with items := p.items.map (Item.reread stream record b) }
  { f with filling := f.filling.map (Item.reread stream record b), yoke := f.yoke.map fix, backlog := f.backlog.map fix,
           resend := f.resend.map fix, held := f.held.map fix, sending := f.sending.map fix, past := f.past.map fun x => (x.1, fix x.2) }

/-- A spool packet that an uncorrectable error hits: in its place goes a GAP of cause STORE_ECC over its coverage (R191). -/
def Packet.damage (p : Packet) : Packet := { p with items := [gapItem 4095 p.covStart p.covEnd 2] }

/-- What an uncorrectable error on a page hits: one of the coaches or spool packets that its area holds, or nothing. -/
def Hub.eccHit (h : Hub) (d area n : Nat) : Hub :=
  if area = 0 then
    let l := (h.die d).store.coaches.filter fun (c : Coach) => c.st != .free
    match l[Config.eccVictim n % (l.length + 1)]? with
    | some c =>
      let h := h.setCoach d c.seq fun x => x.damage n
      match c.record with
      | some r => h.setFlow (Hub.coachKey d c.port) fun f => f.reread (2064 + 8 * c.capture + d) r ((c.damage n).bytes d)
      | none => h
    | none => h
  else if area = 1 then
    let l := (h.flows.filter fun (f : Flow) => f.key.die == d && decide (f.key.kind ≤ 3)).flatMap fun (f : Flow) => f.content.map fun p => (f.key, p.seq)
    match l[Config.eccVictim n % (l.length + 1)]? with
    | some (k, seq) =>
      let fix (q : List Packet) : List Packet := q.map fun (p : Packet) => if p.seq == seq then p.damage else p
      h.setFlow k fun f => { f with
        yoke := fix f.yoke, backlog := fix f.backlog, resend := fix f.resend, held := fix f.held,
        sending := f.sending.map (fun p => if p.seq == seq then p.damage else p),
        past := f.past.map fun x => if x.2.seq == seq then (x.1, x.2.damage) else x }
    | none => h
  else h

/-- ECC_ERROR: a correctable one counts, and N_CE of them or an uncorrectable one retire the page (R191, R404); COUNT is
of the page's open window (R427). -/
def Hub.eccError (h : Hub) (d pg : Nat) (unc : Bool) (addr : Nat) : Hub :=
  if h.nDies ≤ d ∨ 3072 ≤ pg ∨ !(h.die d).inService ∨ (h.die d).store.retired.contains pg then h
  else
    let st := (h.die d).store
    let retire (code count : Nat) (h : Hub) : Hub :=
      let h := (h.event (unitPage d pg) code 2 count (argN addr) 0).setDie d fun x => { x with store := x.store.losePage pg }
      h.flowTouch d
    let w := FaultWin.hit ((st.pageWin.find? fun x => x.1 == pg).map Prod.snd) h.clk.elapsed (fld h.flt.mem 15 0 * 60000000000)
      (fld h.flt.mem 31 24) 0x0F02
    if unc then
      let h := h.tick
      retire 0x0F03 w.events (h.eccHit d (st.area pg) h.fresh)
    else
      if w.allowed ≤ w.events then retire 0x0F02 w.events h
      else h.setDie d fun x => { x with store := { x.store with
        pageWin := (x.store.pageWin.filter fun y => y.1 != pg) ++ [(pg, w)],
        pageAddr := (x.store.pageAddr.filter fun y => y.1 != pg) ++ [(pg, addr)] } }

/-! ## Restoring a channel (R413) -/

/-- The engine a channel can run on when it is restored: its own, where it is sound and serves no other channel, or a spare of its die;
none where there is none. -/
def Hub.freeEngine (h : Hub) (c : Nat) : Option Nat :=
  let d := h.die (chDie c)
  let e := c % 128
  if !d.enginesBad.contains e && !d.pool.contains e && (h.servedBy (chDie c) e).isNone then some e else leastOf d.pool

/-- A retired channel comes back at a conversion boundary with its stored corrections; its octet is calibrated ahead of the
background order (R413). -/
def Hub.restoreChan (h : Hub) (c e : Nat) : Hub :=
  let code := (h.ch c).retired.getD 0
  let h := h.setDie (chDie c) fun x => { x with pool := x.pool.filter (· != e) }
  let h := (h.resumeChan c).setCh c fun x =>
    let y := if x.driveOff then x.driveSet (!h.pwr.vexcLow) h.clk.cycles h.clk.elapsed else x
    { y with retired := none, win := none, autoTried := false, selfTestFails := 0, spare := if e = c % 128 then none else some e,
             audit := { y.audit.untag with suspect := false, window := [] } }
  (h.event (unitChan c) code 3 0 0 0).calQueue (chOct c)

/-- Restores a channel where its self-test passes, and answers whether it did (R413). -/
def Hub.tryRestore (h : Hub) (c : Nat) : Hub × Bool :=
  let h := h.tick
  match h.freeEngine c with
  | some e => if Config.selfTestPass h.fresh (unitChan c) then (h.restoreChan c e, true) else (h.event (unitChan c) 0x0F01 2 0 0 0, false)
  | none => (h.event (unitChan c) 0x0F01 2 0 0 0, false)

/-- AUTO_RESTORE: the condition that retired the channel has stayed clear for 10 s (R413). -/
def Hub.autoRestore (h : Hub) (c : Nat) : Hub :=
  let x := h.ch c
  if h.nChans ≤ c ∨ !bitOf h.flt.ch 23 ∨ !(x.retired == some 0x0101 || x.retired == some 0x0102) ∨ x.autoTried ∨
      x.retired.any (x.present h.clk.elapsed) ∨ h.clk.elapsed < x.clearSince + 10000000000 ∨
      h.dieDown (chDie c) then h
  else
    let r := h.tryRestore c
    if r.2 then r.1 else r.1.setCh c fun x => { x with autoTried := true }

/-! ## The sentinel, checkpoints and failover (R414 to R423) -/

/-- Held values of a frozen die are dropped, and so are the scheduled writes among them (R420). -/
def Hub.dropHeld (h : Hub) (d : Nat) : Hub :=
  let ids := ((h.chans.zipIdx.filter fun p => chDie p.2 == d).flatMap fun p =>
    (p.1.held.toList.flatMap fun (w : ChanWrite) => w.actions.map Prod.fst)).eraseDups
  let h := h.mapCh fun c x => if chDie c == d then { x with held := none } else x
  forAll (ids.filter fun id => (h.findAction id).isSome) (fun id h => h.schedDone h.tm.now id St.fault 0) h

/-- A die whose core does not start is frozen (R420). Where it was the lead, the new lead restores the package manager's state from its
checkpoint store, hands over again what bears no mark, and settles the requests that were running (R417, R419, R421). -/
def Hub.freeze (h : Hub) (d : Nat) : Hub :=
  let u := unitCore d (h.die d).cores.other
  let since := (h.die d).cores.gapFrom
  let h := ((((h.drillDrop d).dropHeld d).abortSlots d).notSkewed d).setDie d fun x =>
    { x with frozen := true, cores := { x.cores with hbOk := false, beat := false, declaredAt := none, noStandby := true,
                                                     standbyFailed := true } }
  let was := h.boot.lead
  let h := if d = was then h.restoreFrom d else h
  let h := h.moveLead
  let h := if h.boot.lead = was then h else (h.handAgain.settleRunning d).gapEnds since
  ((h.event u 0x0F09 2 1 0 0).raise 7).reLevel.passEnds

/-- MC_DRILL at its T (R423). -/
def Hub.mcDrill (h : Hub) (dies : List Nat) (id : Option Word) : Hub :=
  h.onMask dies (fun d => if (h.die d).frozen ∨ (h.die d).cores.standbyFailed ∨ (h.die d).cores.noStandby then some St.fault else none)
    fun ds =>
      let h := { h with flt := { h.flt with drill := some (id, St.ok) } }
      ((forAll ds (fun d h => h.setCores d fun c => { c with drill := true }) h).drillNext).ok []

/-- A step of Table 15-3 that core B takes at one of its beats: at a free one, and at the last beat ahead of the step's bound at the latest
(R417, log entry 170). -/
def Hub.failoverDue (h : Hub) (t bound : Nat) : Bool := Config.failoverStep h.fresh || decide (t + bound ≤ h.clk.elapsed + 500000)

/-- A beat of core B after a failure was declared at a true time. With its first one it has restored the checkpoint, or its start-up check has failed
and the die is frozen (R420); then, within 5 ms, it hands over again the responses that bear no mark and settles what was running; then, its check
of the data path passed, within 35 ms, it resumes intake, which ends the gap, and the FAILOVER record is written (R417, R419, Table 15-3). -/
def Hub.failoverBeat (h : Hub) (d t : Nat) : Hub :=
  let c := (h.die d).cores
  let h := h.tick
  if c.stage = 0 then
    if Config.selfTestPass h.fresh (unitCore d (if c.onB then 1 else 0)) then
      let h := h.setCores d fun c => { c with stage := 1 }
      if d = h.boot.lead then h.restoreFrom d else h
    else (h.setCores d fun c => { c with onB := !c.onB, stage := 0 }).freeze d
  else if c.stage = 1 then
    if h.failoverDue t 5000000 then
      let h := h.setCores d fun c => { c with stage := 2 }
      if d = h.boot.lead then h.handAgain.settleRunning d else h
    else h
  else if h.failoverDue t 35000000 then
    ((if d = h.boot.lead then h.gapEnds c.gapFrom else h).setCores d fun c => { c with declaredAt := none, stage := 0 }).event (unitCore d c.other) 0x0F08 4 1 (argN (if c.onB then 1 else 0))
      (argN (usOf (h.clk.elapsed - c.gapFrom)))
  else h

/-- HEARTBEAT: a beat, which crosses to the sentinel (R266); in a failover core B goes on with its steps, and its first beat in a drill ends
the die's part (R415, R417, R423). -/
def Hub.heartbeat (h : Hub) (d : Nat) : Hub :=
  if h.nDies ≤ d ∨ !h.coreRuns d then h
  else
    let h := h.crossEvent d 9 381
    let now := h.clk.elapsed
    let c := (h.die d).cores
    let beat (h : Hub) : Hub := h.setCores d fun c => { c with beat := true, missed := 0, hbOk := true, lastBeat := now }
    match c.drillAt, c.declaredAt with
    | some t, _ =>
      let h := (beat h).setCores d fun c => { c with onB := !c.onB, drill := false, drillAt := none }
      let h := if d = h.boot.lead then (h.restoreFrom d).gapEnds t else h
      (h.notice (unitCore d (if (h.die d).cores.onB then 1 else 0)) 0x0F0A (argN (usOf (now - t))) 0).drillNext
    | none, some t => (beat h).failoverBeat d t
    | none, none => if d = h.boot.lead then (beat h).markHanded else beat h

/-- SENTINEL_PERIOD: eight missed periods declare a failure: HALT, the standby released, ON_B, FAILOVERS and FAILOVER
(R415, R417). A die without a standby is frozen (log entry 79). -/
def Hub.sentinelPeriod (h : Hub) (d : Nat) : Hub :=
  if h.nDies ≤ d ∨ !h.coreRuns d ∨ (h.die d).cores.drillAt.isSome ∨ (h.die d).cores.declaredAt.isSome then h
  else
    let c := (h.die d).cores
    if c.beat then h.setCores d fun c => { c with beat := false, missed := 0, hbOk := true }
    else if c.missed + 1 < 8 then h.setCores d fun c => { c with missed := c.missed + 1 }
    else if c.noStandby ∨ c.standbyFailed ∨ c.copy.isNone then (h.setCores d fun c => { c with missed := 0, gapFrom := c.lastBeat }).freeze d
    else
      let h := h.setCores d fun c =>
        { c with missed := 0, hbOk := false, onB := !c.onB, noStandby := true, declaredAt := some h.clk.elapsed, stage := 0,
                 gapFrom := c.lastBeat }
      ({ h with flt := { h.flt with failovers := satInc 6 h.flt.failovers } }).raise 7

/-- STANDBY_TIMEOUT: at 35 ms the released core has been silent, or its start-up check has not let it resume intake (R420, R423). -/
def Hub.standbyTimeout (h : Hub) (d : Nat) : Hub :=
  let c := (h.die d).cores
  match c.drillAt, c.declaredAt with
  | some t, _ =>
    if h.clk.elapsed < t + 35000000 then h
    else
      let h := h.setCores d fun c => { c with drill := false, drillAt := none, standbyFailed := true, beat := false, missed := 0 }
      let h := h.event (unitCore d c.other) 0x0F09 2 1 0 0
      let h := if d = h.boot.lead then (h.restoreFrom d).gapEnds t else h
      ({ h with flt := { h.flt with drill := h.flt.drill.map fun (x : Option Word × Nat) => (x.1, St.fault) } }).drillNext
  | none, some t =>
    if h.clk.elapsed < t + 35000000 then h
    else
      (h.setCores d fun c => { c with onB := !c.onB, stage := 0 }).freeze d
  | none, none => h

/-- CHECKPOINT (R416). -/
def Hub.checkpoint (h : Hub) (d : Nat) : Hub :=
  if h.nDies ≤ d ∨ !h.coreRuns d ∨ (h.die d).cores.declaredAt.isSome then h else h.saveCkpt d

/-- SENT_VOTE: the copy takes what the other two agree on (R414). -/
def Hub.sentVote (h : Hub) (copy : Nat) : Hub :=
  if 3 ≤ copy then h
  else ({ h with flt := { h.flt with votes := modAt h.flt.votes copy fun _ => true } }).notice unitHub 0x0F0D (argN copy) 0

/-- TIME_SKEW (R425): more than 2 ns takes the lead's count at the next array second, and the phase slews from then on; a slew under way
goes on meanwhile. -/
def Hub.timeSkew (h : Hub) (d : Nat) (diffPs : Int) : Hub :=
  if h.nDies ≤ d ∨ d = h.boot.lead ∨ !(h.die d).inService then h
  else
    let h := forAll [4, 5, 6, 7] (fun n h => h.tiuEdge d n) h
    let was := (h.die d).skewPs
    let bad := decide (2000 < diffPs.natAbs)
    let next := if bad then diffPs else if diffPs.natAbs ≤ 30 then 0 else if was = 0 then 0 else diffPs
    let h := h.setDie d fun x =>
      { x with skewPs := next, skewTake := bad || (x.skewTake && next != 0),
               skewFrom := if next = 0 then none else x.skewFrom.map fun _ => h.clk.elapsed }
    let h := h.setTm fun t => { t with skew := h.dies.any fun (x : Die) => x.skewPs != 0 }
    if bad && was == 0 then h.notice (unitDie d) 0x0F0C (argI diffPs) 0 else h

/-! ## FLT commands (R399, R406, R413) -/

/-- FLT_READ: whole fault records in RSEQ order from FROM. -/
def Hub.fltRead (h : Hub) (first : Word) (max' : Nat) : Hub :=
  let l := (h.hk.faults.filter fun (r : EventRec) => r.rseq == first || serialAfter 32 r.rseq.toNat first.toNat).reverse.take (min max' 127)
  h.ok (l.flatMap fun (r : EventRec) =>
    be 2 1 ++ be 2 16 ++ be 4 r.rseq.toNat ++ stampB r.stamp ++ eventB r.unit r.code r.cls r.count r.arg0 r.arg1)

/-- Values that Table 15-2 does not take. -/
def badFlt (ch lane eng mem : Word) : Bool :=
  !onlyBits ch 0xFF80FFFF || fld ch 31 24 == 0 || decide (fld ch 15 0 < 10) ||
    !onlyBits lane 0xFF00FFFF || fld lane 31 24 == 0 || fld lane 15 0 == 0 ||
    !onlyBits eng 0xFF00FFFF || fld eng 31 24 == 0 || fld eng 15 0 == 0 ||
    !onlyBits mem 0xFF00FFFF || decide (fld mem 31 24 < 2) || fld mem 15 0 == 0

def Hub.fltCfgSet (h : Hub) (ch lane eng mem : Word) : Hub :=
  if badFlt ch lane eng mem then h.refuse St.badArg
  else ({ h with flt := { h.flt with ch := ch, lane := lane, eng := eng, mem := mem } }).ok []

def Hub.fltCfgGet (h : Hub) : Hub := h.ok ([h.flt.ch, h.flt.lane, h.flt.eng, h.flt.mem].flatMap fun (w : Word) => be 4 w.toNat)

/-- FLT_RETIRE: as a permanent fault would, with HOST_RETIRE (R399). -/
def Hub.fltRetire (h : Hub) (u : Word) : Hub :=
  let i := unitId u
  let bad := h.refuse St.badArg
  match unitType u with
  | 0 =>
    if h.nChans ≤ i then bad
    else h.onDies [chDie i] (if (h.ch i).retired.isSome then h.ok [] else (h.retireChan i 0x0F0F 0).ok [])
  | 1 =>
    let p := i / 4
    let l := i % 4
    let left := (List.range 3).filter fun k => !(h.lane p k).retired
    if h.nPorts ≤ p then bad
    else h.onDies [p / 4]
      (if (h.lane p l).retired then h.ok [] else if p = 0 ∧ left = [l] then bad else (h.retireLane p l 0x0F0F 0 true).ok [])
  | 2 =>
    let d := i / 136
    let e := i % 136
    if h.nDies ≤ d then bad
    else if h.flt.retired.contains u then h.ok []
    else h.onDies [d] <|
      let served := h.servedBy d e
      let h := h.setDie d fun x => { x with enginesBad := e :: x.enginesBad.filter (· != e), pool := x.pool.filter (· != e) }
      let h := match served with | some c => h.spareChan c 0x0F0F true | none => h
      let h := (h.event u 0x0F0F 2 0 0 0).setEngWin d u none
      ({ h with flt := { h.flt with retired := h.flt.retired ++ [u] } }).ok []
  | 3 =>
    if i = 0 ∨ h.nDies ≤ i then bad
    else if h.flt.retired.contains u then h.ok []
    else if (h.die i).frozen then h.refuseDie St.fault i
    else
      let h := if (h.die i).inService then h.dieOut i else h.setDie i fun x => { x with faulted := true, restartAt := none }
      let h := h.event u 0x0F0F 2 0 0 0
      ({ h with flt := { h.flt with retired := h.flt.retired ++ [u] } }).ok []
  | _ => bad

/-- The self-test of a restore, and what follows (R413): a failure leaves the unit retired with a SELFTEST record and FAULT. -/
def Hub.restoreWith (h : Hub) (u : Word) (k : Hub → Hub) : Hub :=
  let h := h.tick
  if Config.selfTestPass h.fresh u then
    (k { h with flt := { h.flt with retired := h.flt.retired.filter fun (x : Word) => x != u } }).ok []
  else (h.event u 0x0F01 2 0 0 0).refuse St.fault

/-- FLT_RESTORE (R399, R413). -/
def Hub.fltRestore (h : Hub) (u : Word) : Hub :=
  let i := unitId u
  let bad := h.refuse St.badArg
  match unitType u with
  | 0 =>
    if h.nChans ≤ i then bad
    else h.onDies [chDie i]
      (if (h.ch i).retired.isNone then bad
       else
         let r := h.tryRestore i
         if r.2 then r.1.ok [] else r.1.refuse St.fault)
  | 1 =>
    let p := i / 4
    let l := i % 4
    if h.nPorts ≤ p then bad
    else h.onDies [p / 4]
      (if !(h.lane p l).retired then bad
       else h.restoreWith u fun h =>
         let h := h.setLane p l fun x => { x.hunt h.clk.elapsed with retired := false, win := none, parked := (h.prt p).st == .up && decide (l < 3) }
         let h := h.event u 0x0F0F 3 0 0 0
         (if l = 0 then h.portStart p else h.plainWidth p).reLevel)
  | 2 =>
    let d := i / 136
    let e := i % 136
    if h.nDies ≤ d ∨ !h.flt.retired.contains u then bad
    else h.onDies [d] <| h.restoreWith u fun h =>
      (h.event u 0x0F01 3 0 0 0).setDie d fun x =>
        { x with enginesBad := x.enginesBad.filter (· != e), pool := x.pool ++ [e] }
  | 3 =>
    if h.nDies ≤ i ∨ !h.flt.retired.contains u then bad
    else if (h.die i).frozen then h.refuseDie St.fault i
    else h.restoreWith u fun h => ((h.dieIn i).setDie i fun x => { x with faultAt := none }).event u 0x0F06 3 0 0 0
  | _ => bad

/-! ## Meanings -/

/-- FLT_READ (R399). -/
def execFltRead (first : Word) (max' : Nat) (s : State) : Out := act s fun h => h.fltRead first max'
/-- FLT_CFG_SET (R406). -/
def execFltCfgSet (ch lane eng mem : Word) (s : State) : Out := act s fun h => h.fltCfgSet ch lane eng mem
/-- FLT_CFG_GET (R406). -/
def execFltCfgGet (s : State) : Out := act s Hub.fltCfgGet
/-- FLT_RETIRE (R399). -/
def execFltRetire (unit : Word) (s : State) : Out := act s fun h => h.fltRetire unit
/-- FLT_RESTORE (R413). -/
def execFltRestore (unit : Word) (s : State) : Out := act s fun h => h.fltRestore unit
/-- MC_DRILL (R423). -/
def execMcDrill (dies : List Nat) (s : State) : Out := act s fun h => h.mcDrill dies none
/-- HEARTBEAT (R415). -/
def execHeartbeat (die : Nat) (s : State) : Out := act s fun h => h.heartbeat die
/-- SENTINEL_PERIOD (R415). -/
def execSentinelPeriod (die : Nat) (s : State) : Out := act s fun h => h.sentinelPeriod die
/-- STANDBY_TIMEOUT (R420). -/
def execStandbyTimeout (die : Nat) (s : State) : Out := act s fun h => h.standbyTimeout die
/-- CHECKPOINT (R416). -/
def execCheckpoint (die : Nat) (s : State) : Out := act s fun h => h.checkpoint die
/-- WINDOW_CLOSE (R404). -/
def execWindowClose (unit : Word) (s : State) : Out := act s fun h => h.windowClose unit
/-- SIGNATURE_TEST (R405). -/
def execSignatureTest (die : Nat) (failed : List Nat) (s : State) : Out := act s fun h => h.signatureTest die failed
/-- DIE_FAULT (R404). -/
def execDieFault (die cause : Nat) (s : State) : Out := act s fun h => h.dieFault die cause
/-- DIE_RESTART (R404). -/
def execDieRestart (die : Nat) (passed : Bool) (s : State) : Out := act s fun h => h.dieRestart die passed
/-- ECC_ERROR (R191). -/
def execEccError (die page : Nat) (uncorrectable : Bool) (addr : Nat) (s : State) : Out :=
  act s fun h => h.eccError die page uncorrectable addr
/-- LOCAL_MEMORY_ECC_ERROR (R404). -/
def execLocalMemoryEccError (die engine : Nat) (s : State) : Out := act s fun h => h.localEcc die engine
/-- SENT_VOTE (R414). -/
def execSentVote (copy : Nat) (s : State) : Out := act s fun h => h.sentVote copy
/-- AUTO_RESTORE (R413). -/
def execAutoRestore (ch : Nat) (s : State) : Out := act s fun h => h.autoRestore ch
/-- TIME_SKEW (R425). -/
def execTimeSkew (die : Nat) (diffPs : Int) (s : State) : Out := act s fun h => h.timeSkew die diffPs

end Sys2Proof.Machine
end

