-- ==== Sys2Proof/Machine/Calibrate.lean ====
section
/-! DEFINITION. Calibration (16): the order of octets, the reference, an octet's slot, results, CAL commands. -/

namespace Sys2Proof.Machine

def Hub.setCal (h : Hub) (f : Cal → Cal) : Hub := { h with cal := f h.cal }

/-! ## Order (R435, R436) -/

/-- LIM_GAIN and LIM_OFS in 0.01 ppm, INTERVAL_H, BG_EN (Table 16-2). -/
def limGain (cfg : Word) : Nat := fld cfg 23 16 * 100
def limOfs (cfg : Word) : Nat := fld cfg 7 0 * 100
def Cal.interval (k : Cal) : Nat := fld k.cfg 15 8
def Cal.bgEn (k : Cal) : Bool := bitOf k.cfg 31

/-- The octet that is a die's turn: its own of the start-up pass, else, where no octet of the package is held, the head of the queue (R435,
R438). While class 3 sheds, the background octet that is due waits, for 1 h at most (R370). -/
def Hub.turnOf (h : Hub) (d : Nat) : Option Nat :=
  let k := h.cal
  if k.slots.any (fun (s : Slot) => s.die == d) ∨ k.suspended.isSome then none
  else
    let pass := k.pass.filter h.calOk
    if !pass.isEmpty then pass.find? fun o => o / 16 == d
    else if !k.slots.isEmpty then none
    else
      let late := h.sheds3 && decide (h.clk.elapsed < k.bgDueAt + 3600000000000)
      match (k.failed.toList ++ k.requests ++ (if h.pwr.st = .doze || late then [] else k.bgDue.toList)).find? h.calOk with
      | some o => if o / 16 = d then some o else none
      | none => none

/-- The audit converter of a die is calibrated for this pass, and at start-up its time-interval unit too (R435, R437, R444). -/
def Hub.calReady (h : Hub) (d : Nat) : Bool :=
  (h.aud d).calPass == some h.cal.passNo && (h.cal.passNo != 0 || (h.die d).tiu.all fun (t : TiuChan) => t.pass.isSome)

/-- The octet that a slot on a die takes next. -/
def Hub.nextOctet (h : Hub) (d : Nat) : Option Nat := if h.calReady d then h.turnOf d else none

/-- The octet leaves the queue that it stood in. -/
def Hub.takeOctet (h : Hub) (o : Nat) : Hub :=
  h.setCal fun k =>
    { k with failed := if k.failed = some o then none else k.failed, requests := k.requests.filter (· != o),
             bgDue := if k.bgDue = some o then none else k.bgDue }

/-- A pass begins: its number, and the data lanes that it margins, in ascending port order (R443). The first octet slot that it gives a die is
preceded by the calibration of the die's audit converter, and each die's time-interval unit is tested once in it (R437, R444). -/
def Hub.newPass (h : Hub) : Hub :=
  h.setCal fun k => { k with passNo := k.passNo + 1,
                             margins := (List.range h.nPorts).flatMap fun p => [(p, 0), (p, 1), (p, 2)] }

/-- BACKGROUND: INTERVAL_H / n hours after the last background octet's slot began, the next eligible octet that was not calibrated by request
lately; it takes the place of one named before that is not eligible any more (R436). -/
def Hub.background (h : Hub) : Hub :=
  let k := h.cal
  let l := h.eligible
  let hour := 3600000000000
  let recent (o : Nat) : Bool :=
    (h.oct o).byRequest && (match (h.oct o).lastCal with
      | some t => decide (h.clk.elapsed < t + k.interval * hour / 2)
      | none => false)
  let order := (l.filter (k.bgNext ≤ ·)) ++ l.filter (· < k.bgNext)
  if !k.bgEn ∨ !k.passDone ∨ !k.pass.isEmpty ∨ h.pwr.st = .doze ∨ k.bgDue.any h.calOk ∨ l.isEmpty ∨
      h.clk.elapsed < k.bgAt + k.interval * hour / l.length then h
  else match order.find? (fun o => !recent o) with
    | some o =>
      -- the background order begins anew: a pass (R437)
      let h := if k.bgNext = 0 ∨ o < k.bgNext then h.newPass else h
      h.setCal fun k => { k with bgDue := some o, bgDueAt := h.clk.elapsed, bgNext := o + 1 }
    | none => h.setCal fun k => { k with bgAt := h.clk.elapsed }

/-! ## The reference (R438) -/

/-- The failure that a check of the reference shows: ABSENT, DEVIATION or NOISY; the difference in µV. -/
def refFails (diffUv : Int) (noisy : Bool) : Option Nat :=
  if diffUv < 410000 then some 0
  else if 20480 < (diffUv - 4096000).natAbs then some 1
  else if noisy then some 2 else none

/-- CALREF_H less CALREF_L of each of the 16 rounds, in units of 31.25 µV (Table 03-4). -/
def RefRead.diffs (r : RefRead) : List Int := (r.high.zip r.low).map fun x => 2 * x.1 - x.2

/-- The mean difference in µV against the bandgap, nominally 1.200 V; 0 without a bandgap (R438). DEDUCED (log entry 204). -/
def RefRead.diffUv (r : RefRead) : Int :=
  let b := r.gap.sum
  if b ≤ 0 then 0 else roundHalf (r.diffs.sum * 1200000) b.toNat

/-- The rms of the 16 results about their mean exceeds 50 ppm of it (R438). -/
def RefRead.noisy (r : RefRead) : Bool :=
  let s := r.diffs.sum
  decide (2500 * (s * s) < (16 * (r.diffs.map fun x => x * x).sum - s * s) * 1000000000000)

/-- The failure of a check, from what its entries gave. -/
def RefRead.fails (r : RefRead) : Option Nat := refFails r.diffUv r.noisy

/-- The check that a die's audit converter has completed; none while entries are missing. -/
def Hub.refDone (h : Hub) (d : Nat) : Option RefRead := (h.aud d).ref.filter RefRead.full

/-- The check's results have been looked at. -/
def Hub.refEnd (h : Hub) (d : Nat) : Hub := h.setAudit d fun a => { a with ref := none }

/-- REF_INVALID: the octet's channels are ABORTED, it goes to the head of the queue, and calibration is suspended (R438). A suspension ends
the start-up pass for R478, and its octets stay queued. -/
def Hub.refInvalid (h : Hub) (o cause : Nat) (diffUv : Int) : Hub :=
  let h := h.mapCh fun c x => if chOct c == o then { x with qResult := 4, qStamp := h.tm.now, calSkip := none, meas := none } else x
  let h := h.setCal fun k =>
    { k with failed := if k.pass.contains o then k.failed else some o, suspended := some h.clk.elapsed, passDone := true,
             slots := k.slots.filter fun (s : Slot) => s.oct != o,
             pass := if k.pass.contains o then o :: k.pass.filter (· != o) else k.pass }
  h.notice unitHub 0x0902 (argN cause) (argI diffUv)

/-- REF_RECHECK, every 60 s: a die's audit converter begins the check, and its end is looked at (R438; log entry 205). -/
def Hub.refRecheck (h : Hub) (d : Nat) (done : Bool) : Hub :=
  match h.cal.suspended with
  | none => h
  | some t =>
    if h.clk.elapsed < t + 60000000000 ∨ h.nDies ≤ d ∨ !h.boot.running ∨ h.dieDown d ∨ (h.aud d).retired ∨ h.cal.slots.any (fun (s : Slot) => s.die == d) then h
    else if !done then (if (h.aud d).ref.isSome then h else h.refBegin d)
    else match h.refDone d with
      | some r => (h.refEnd d).setCal fun k => { k with suspended := if r.fails.isSome then some h.clk.elapsed else none }
      | none => h

/-! ## A slot (Table 16-1) -/

def Hub.slotOf (h : Hub) (d : Nat) : Option Slot := h.cal.slots.find? fun (s : Slot) => s.die == d

def Hub.setSlot (h : Hub) (d : Nat) (f : Slot → Slot) : Hub :=
  h.setCal fun k => { k with slots := k.slots.map fun (s : Slot) => if s.die == d then f s else s }

/-- Step 1 begins at t0: the octet is taken, with CAL_CFG as it is then, and the entries of the check are requested (R430, R436, R438). -/
def Hub.slotStart (h : Hub) (d : Nat) : Hub :=
  match h.nextOctet d with
  | none => h
  | some o =>
    let bg := h.cal.bgDue == some o
    let pass := h.cal.pass.contains o
    let s : Slot := { die := d, oct := o, step := 0, cfg := h.cal.cfg, exc := none, pass := pass, byRequest := !pass && !bg,
                      counts := (0, 0, 0), t0 := h.clk.elapsed, released := 0 }
    ((h.takeOctet o).setCal fun k =>
      { k with slots := k.slots ++ [s], bgAt := if bg then h.clk.elapsed else k.bgAt }).refBegin d

/-- Step 1 ends: where the check fails, the slot is aborted before any hold (R438). -/
def Hub.slotCheck (h : Hub) (s : Slot) : Hub :=
  match h.refDone s.die with
  | none => h
  | some r =>
    let h := h.refEnd s.die
    match r.fails with
    | some cause => h.refInvalid s.oct cause r.diffUv
    | none => h.setSlot s.die fun s => { s with step := 1 }

/-- A true time lies within the 10 ms before another (R439). -/
def within10ms (t : Option Nat) (now : Nat) : Bool := t.any fun t => decide (now ≤ t + 10000000)

/-- Channels of a slot's octet without a reading of their pins in the pre-check window (R439). -/
def Hub.unread (h : Hub) (s : Slot) : List Nat :=
  (octChans s.oct).filter fun c => (h.ch c).retired.isNone && !within10ms (h.ch c).pinRead h.clk.elapsed

/-- The cause for which the pre-check skips a channel: a CM violation, a clamp engagement or pins beyond full scale in the window
(R439). -/
def Chan.inputState (x : Chan) (now : Nat) : Option Nat :=
  if x.cm.viol || within10ms x.cmSeen now then some 1
  else if x.clamped || (decide (0 < x.clampEnd) && within10ms (some (x.clampEnd - 2000)) now) then some 2
  else if within10ms x.pinOver now then some 3 else none

/-- Step 2: a channel without a reading of its pins in the window is given an urgent entry, and the check waits for it; then the channels
whose pins were out of state are skipped (R83, R439). -/
def Hub.slotPreCheck (h : Hub) (s : Slot) : Hub :=
  let l := h.unread s
  if !l.isEmpty then
    forAll (l.filter fun c => !(h.aud s.die).urgent.contains (c % 128) && !(h.aud s.die).overflow.contains (c % 128)) (fun c h => h.urgentChan c) h
  else
    let h := h.mapCh fun c x => if chOct c == s.oct then { x with calSkip := x.inputState h.clk.elapsed } else x
    h.setSlot s.die fun s => { s with step := 2 }

/-- Step 3: the hold begins; the AD tags of its channels stop (R89, R432). A violation or a clamp present as it begins is one during the
hold (R439). -/
def Hub.slotHold (h : Hub) (s : Slot) : Hub :=
  let h := h.mapCh fun c x =>
    if chOct c == s.oct && x.retired.isNone then
      { x with audit := x.audit.untag, auditWait := [], meas := some CalMeas.start,
               calSkip := x.calSkip.or (if x.cm.viol then some 1 else if x.clamped then some 2 else none) }
    else x
  (h.setOct s.oct fun o => { o with held := true }).setSlot s.die fun s => { s with step := 3 }

/-- A step of the slot has ended: what it measured of each channel of the octet, and the step. -/
def Hub.slotStep (h : Hub) (s : Slot) (n : Nat) (f : Nat → Chan → CalMeas → CalMeas) : Hub :=
  (h.mapCh fun c x => if chOct c == s.oct then { x with meas := x.meas.map (f (c % 8) x) } else x).setSlot s.die
    fun s => { s with step := n }

/-! ### Redundant elements (R431) -/

/-- The element of a list that none is better than, the first of equals. -/
def bestOfList (better : Int → Int → Bool) : List (Int × Nat) → Option (Int × Nat)
  | [] => none
  | x :: r => match bestOfList better r with
    | some y => if better y.1 x.1 then some y else some x
    | none => some x

/-- The worst segments, n at most, each with the spare of the smallest error that is left: worst first. -/
def pairWorst : Nat → List (Int × Nat) → List (Int × Nat) → List (Nat × Nat)
  | 0, _, _ => []
  | n + 1, bad, spares =>
    match bestOfList (fun a b => decide (b.natAbs < a.natAbs)) bad, bestOfList (fun a b => decide (a.natAbs < b.natAbs)) spares with
    | some b, some s => (b.2, s.2) :: pairWorst n (bad.erase b) (spares.erase s)
    | _, _ => []

/-- Segments beyond a limit. -/
def badSegs (limit : Nat) (segs : List Int) : List (Int × Nat) := segs.zipIdx.filter fun x => decide (limit < x.1.natAbs)

/-- The spare-segment map that errors lead to: segments beyond the limit, the worst as far as the n spares reach (R431; log entry 206). -/
def chooseSegs (limit n : Nat) (segs spares : List Int) : List (Nat × Nat) :=
  pairWorst n (badSegs limit segs) (spares.take n).zipIdx

/-- The tap whose gain is nearest nominal, the lowest of equals (R431). -/
def nearestTap (gains : List Nat) : Nat :=
  ((bestOfList (fun a b => decide (a.natAbs < b.natAbs)) ((gains.take 8).zipIdx.map fun x => ((x.1 : Int) - 1073741824, x.2))).map Prod.snd).getD 0

/-- The elements in use: of the correction set of the present gain (R429; log entry 206). -/
def Chan.elements (x : Chan) : List (Nat × Nat) × Nat :=
  match x.corr.getD x.desc.gain none with
  | some k => (k.spares, k.tap)
  | none => ([], 0)

/-- Step 6: 0.25 LSB is the limit of a converter's unit segment (R431). -/
def CalMeas.segment (m : CalMeas) (e : SegMeas) : CalMeas :=
  { m with spares := chooseSegs 250 4 e.segs e.spares, segFail := (badSegs 250 e.segs).length }

/-- Step 7. -/
def CalMeas.taps (m : CalMeas) (was : Nat) (gains : List Nat) : CalMeas :=
  let t := nearestTap gains
  { m with tap := t, tapGain := gains.getD t 1073741824, tapWas := gains.getD was 1073741824 }

/-- The trim code at which the segments are swapped: of those at which the two sets differ by less than one trim LSB of 25 ppm, the one that
lengthens the way from the present code to the goal least (R434; log entry 207). -/
def swapCode (diffs : List (Int × Int)) (code goal : Int) : Option Int :=
  let way (v : Int) : Int := ((v - code).natAbs + (goal - v).natAbs : Nat)
  (bestOfList (fun a b => decide (a < b))
    ((diffs.zipIdx.filter fun x => decide (x.1.2.natAbs < 25)).map fun x => (way x.1.1, x.2))).bind fun x => (diffs[x.2]?).map Prod.fst

/-- What the octet's reference is brought to: the trim that makes EXCMON0 1.000 V, in steps of 0.0025%, and the segment map; without a code
at which the two sets agree the segments stay (R431, R434; log entries 123, 207). -/
def excPlan (m : ExcMeas) (r : ExcRef) (t : Nat) : Int × Int × List (Nat × Nat) :=
  let code := r.codeAt t
  let goal := code + roundHalf (1000000 - (m.excmonUv : Int)) 25
  let now := r.segsAt t
  let segs := chooseSegs 500 2 m.segs m.spares
  if segs = now then (goal, code, now)
  else match swapCode m.diffs code goal with
    | some v => (goal, v, segs)
    | none => (goal, code, now)

/-- What is wrong with a channel's excitation measurement as step 8 makes it: no drive (0, residuals 0), a skip with its cause, or none (R430,
R439, R440). -/
def Chan.excSkip (x : Chan) (noExc : Bool) : Option Nat :=
  if !x.desc.drives then some 0 else if x.excOl then some 5 else if noExc then some 4 else none

/-- Step 8: EXCMON0 off by more than 2% skips EXCITATION for the octet (R440). -/
def Hub.slotExc (h : Hub) (s : Slot) (m : ExcMeas) : Hub :=
  let no := decide (20000 < ((1000000 : Int) - m.excmonUv).natAbs)
  let plan := excPlan m (h.oct s.oct).exc h.clk.elapsed
  (h.slotStep s 8 fun i x k =>
    let e := m.slices.getD i (0, 0)
    { k with excSkip := x.excSkip no, ampRes := e.1, phRes := e.2 }).setSlot s.die fun s => { s with exc := if no then none else some plan }

/-- Raw samples of T_R: 1,024 skim periods, at most 10 ms (R433). -/
def Desc.rampLen (d : Desc) : Nat := max 1 (min (1024 * d.cycR * d.rsDen / d.rsNum) 1250000 / d.nDiv)

/-- T_R in ns (R433). -/
def Desc.rampNs (d : Desc) : Nat := min (1024 * d.cycR * 8 * d.rsDen / d.rsNum) 10000000

/-- The correction set that calibration may store: with it |x_k| stays within 8,448 raw LSB for every code (R136). DEDUCED (log entry 122):
a gain and an offset beyond that are limited to it. -/
def limitCorr (k : Nat × Int) : Nat × Int :=
  let g := min k.1 1107296256
  let room : Int := 8448 * 65536 - 1 - ((8192 * g * 65536 + 1073741823) / 1073741824 : Nat)
  (g, max (-(max 0 room)) (min (max 0 room) k.2))

/-- RESULT of a measured channel (R441) under a CAL_CFG: 0 PASS, 1 FAIL_LIMIT, 2 FAIL_SELFTEST. -/
def CalMeas.judge (m : CalMeas) (cfg : Word) : Nat :=
  if !m.selfTest ∨ 4 < m.segFail then 2
  else if m.gainRes.natAbs ≤ limGain cfg ∧ m.ofsRes.natAbs ≤ limOfs cfg ∧
      (m.excSkip.isSome ∨ (m.ampRes.natAbs ≤ 1000 ∧ m.phRes.natAbs ≤ 50)) then 0
  else 1

/-- The gain over 2^30 and the offset over 2^16 that bring the means of GAIN to ±0.75 of full scale, ±6,144 LSB, and the mean of ZERO to 0,
with the elements that measured them; none without codes or where the two means stand the wrong way round (R428, R430; log entry 199). -/
def CalMeas.set (m : CalMeas) : Option (Nat × Int) :=
  let den := m.plus.1 * m.minus.2 - m.minus.1 * m.plus.2
  if m.plus.2 = 0 ∨ m.minus.2 = 0 ∨ m.zero.2 = 0 ∨ den ≤ 0 then none
  else
    let g := (roundHalf (12288 * 1073741824 * (m.plus.2 * m.minus.2 : Nat)) den.toNat).toNat
    some (g, -(roundHalf (m.zero.1 * g) (m.zero.2 * 16384)))

/-- What the new elements make of a code: gain as a fraction, and offset over 2^16 raw LSB; nothing changes where the elements are those in
use (R431, R433; log entry 203). -/
structure ElementChange where
  num : Nat
  den : Nat
  ofs : Int
  deriving DecidableEq, Repr

/-- The change from the elements in use to those chosen. -/
def CalMeas.change (m : CalMeas) (old : List (Nat × Nat) × Nat) (n : Nat) : ElementChange :=
  let segs : Nat := if m.spares = old.1 then 1073741824 else Config.segGain n
  ⟨m.tapGain * segs, m.tapWas * 1073741824, if m.spares = old.1 ∧ m.tap = old.2 then 0 else Config.segOfs n⟩

/-- The correction with which the new elements give what a correction gave with the old ones (R433). -/
def ElementChange.carry (e : ElementChange) (k : Nat × Int) : Nat × Int :=
  let g := (roundHalf ((k.1 : Int) * e.den) (max 1 e.num)).toNat
  (g, k.2 - roundHalf (e.ofs * g) 1073741824)

/-- Step 11 for one measured channel: its result, its new set and the ramp to it, from the bridging correction or, with UC, from unity (R429,
R433, R441). -/
def Hub.slotResult (cfg : Word) (c : Nat) (m : CalMeas) (h : Hub) : Hub :=
  let h := h.tick
  let x := h.ch c
  let res := m.judge cfg
  let cause := m.excSkip.getD 0
  let len := x.desc.rampLen
  let k := (h.aud (chDie c)).consts.getD x.desc.gain (1073741824, 0)
  let e := m.change x.elements h.fresh
  let use := if res = 2 then x.elements else (m.spares, m.tap)
  let h := h.setCh c fun x =>
    let y : Chan := { x with
      qResult := res, qGain := x.desc.gain, qCause := cause, qStamp := h.tm.now,
      qElements := min 4 use.1.length + use.2 % 8 * 8 + min 2 (h.oct (chOct c)).exc.segGoal.length * 64,
      qGainRes := m.gainRes, qOfsRes := m.ofsRes,
      qAmpRes := if m.excSkip.isNone then m.ampRes else 0, qPhRes := if m.excSkip.isNone then m.phRes else 0,
      selfTestFails := if res = 2 then x.selfTestFails + 1 else 0 }
    if res = 2 then y
    else
      let y := if res = 0 then { y.condClears 0x0108 h.clk.elapsed with audit := { y.audit with suspect := false, window := [] } } else y
      match m.set with
      | some set =>
        let new := limitCorr (e.carry set)
        let from' : Nat × Int := if x.uc then (1073741824, 0) else limitCorr (e.carry (x.corrNow.gain, x.corrNow.ofs))
        { y with corr := modAt y.corr x.desc.gain fun _ => some ⟨new.1, new.2, m.spares, m.tap, k.1, k.2⟩,
                 corrNow := ⟨from'.1, from'.2, from'.1, from'.2, new.1, new.2, len, len, x.uc⟩ }
      | none => y
  let h := if cause ≠ 0 then h.notice (unitChan c) 0x0903 (argN cause) 0 else h
  let h := if res = 1 then h.notice (unitChan c) 0x0904 (argI m.gainRes) (argI m.ofsRes) else h
  if res = 0 then h
  else if x.audit.suspect then h.retireChan c 0x0108 1
  else if res = 2 then (if 1 ≤ x.selfTestFails then h.retireChan c 0x0F01 2 else h.chanFault c 0x0F01)
  else h

/-- A channel that the slot skips keeps everything (R439). -/
def Hub.slotSkip (c cause : Nat) (h : Hub) : Hub :=
  (h.setCh c fun x => { x with qResult := 3, qCause := cause, qStamp := h.tm.now }).notice (unitChan c) 0x0903 (argN cause) 0

/-- One channel at release: retired ones are discarded, as are those that a unit has failed; skipped ones are reported, the others judged (R439
to R441). -/
def Hub.slotChannel (cfg : Word) (c : Nat) (h : Hub) : Hub :=
  let x := h.ch c
  let g := match x.calSkip, x.meas with
    | some cause, _ => if x.retired.isSome then h else Hub.slotSkip c cause h
    | none, some m => if x.retired.isSome then h else Hub.slotResult cfg c m h
    | none, none => h
  g.setCh c fun x => { x with calSkip := none, meas := none }

/-- At release the octet's reference goes to its new trim and segments in steps spread over T_R of the slowest driving channel (R434). -/
def Hub.excRelease (h : Hub) (s : Slot) : Hub :=
  match s.exc with
  | none => h
  | some (goal, via, segs) =>
    let span := (((octChans s.oct).filter fun c => (h.ch c).desc.drives).map fun c => (h.ch c).desc.rampNs).foldl max 0
    h.setOct s.oct fun q => { q with exc := q.exc.change goal via segs h.clk.elapsed span }

/-- Steps 10 and 11: the re-check; then the release, with which the slot of 150 ms ends and the ramps run on (R430, R433, R438). -/
def Hub.slotRelease (h : Hub) (s : Slot) : Hub :=
  match h.refDone s.die with
  | none => h
  | some r =>
    let h := h.refEnd s.die
    match r.fails with
    | some cause => (h.endHold s.oct).refInvalid s.oct cause r.diffUv
    | none =>
      let chs := octChans s.oct
      let skipped := chs.filter fun c => (h.ch c).retired.isNone && (h.ch c).calSkip.isSome
      let live := chs.filter fun c => (h.ch c).retired.isNone && (h.ch c).calSkip.isNone && (h.ch c).meas.isSome
      let excOnly := live.any fun c => ((h.ch c).meas.bind CalMeas.excSkip).any (· != 0)
      let h := forAll chs (Hub.slotChannel s.cfg) (h.excRelease s)
      let num (r : Nat) : Nat := (live.filter fun c => (h.ch c).qResult == r).length
      let again := !skipped.isEmpty || excOnly
      let now := h.clk.elapsed
      let h := (h.endHold s.oct).setOct s.oct fun q =>
        { q with lastCal := some now, byRequest := s.byRequest,
                 requeueAt := if again && !q.requeued then some (now + 600000000000) else none, requeued := false }
      (h.setCal fun k =>
        { k with pass := k.pass.filter (· != s.oct), slots := k.slots.filter fun (x : Slot) => x.die != s.die,
                 ramps := k.ramps ++ [{ s with step := 11, counts := (num 0, num 1, skipped.length), released := now }] }).passEnds

/-- T_R of every channel of the octet has passed since the release (R433, Table 16-1 step 12). -/
def Hub.rampOver (h : Hub) (s : Slot) : Bool :=
  (octChans s.oct).all fun c => decide (s.released + (h.ch c).desc.rampNs ≤ h.clk.elapsed)

/-- Step 12: CAL_DONE of the die's oldest octet whose ramps are complete (R445). -/
def Hub.slotDone (h : Hub) (d : Nat) : Hub :=
  match h.cal.ramps.find? fun (s : Slot) => s.die == d && h.rampOver s with
  | none => h
  | some s =>
    (h.setCal fun k => { k with ramps := k.ramps.erase s }).notice (unitOct s.oct) 0x0901 (argN s.counts.1)
      (argN (s.counts.2.1 * 256 + s.counts.2.2))

/-! ## The audit converter, the time-interval unit, margining (R437, R443, R444) -/

/-- The calibration sequencer of a die runs: firmware, the die's core and the sample clock. -/
def Hub.calRuns (h : Hub) (d : Nat) : Bool := decide (d < h.nDies) && h.boot.running && !h.dieDown d

/-- The audit converter's calibration begins, as the die's first octet of the pass comes to its turn: the milk run pauses (R437). -/
def Hub.auditBegin (h : Hub) (d : Nat) : Hub :=
  if (h.turnOf d).isNone ∨ (h.aud d).calPass = some h.cal.passNo ∨ (h.aud d).paused then h
  else h.setAudit d fun a => { a with paused := true, cal := some (h.clk.elapsed, []) }

/-- Its end, 2 ms later and with the 24 entries measured: the constants of each audit gain (R437). -/
def Hub.auditCal (h : Hub) (d : Nat) : Hub :=
  match (h.aud d).cal with
  | some (t, l) =>
    if h.clk.elapsed < t + 2000000 ∨ l.length < 24 then h
    else h.setAudit d fun a =>
      { a with consts := (List.range 8).map fun g => Config.auditConst g (l.getD (3 * g) 0) (l.getD (3 * g + 1) 0) (l.getD (3 * g + 2) 0),
               calPass := some h.cal.passNo, paused := false, cal := none }
  | none => h

def Hub.tiuOf (h : Hub) (d n : Nat) : TiuChan := (h.die d).tiu.getD n TiuChan.reset
def Hub.setTiu (h : Hub) (d n : Nat) (f : TiuChan → TiuChan) : Hub := h.setDie d fun x => { x with tiu := modAt x.tiu n f }

/-- The spare interpolator of a channel begins its code-density test, once in a pass (R444). -/
def Hub.tiuStart (h : Hub) (d n : Nat) : Hub :=
  if (h.tiuOf d n).pass = some h.cal.passNo ∨ (h.tiuOf d n).testAt.isSome then h
  else h.setTiu d n fun t => { t with testAt := some h.clk.elapsed }

/-- max |DNL| in 0.001 bin of 2,000,000 hits over 32 phases. -/
def tiuDnl (hits : List Nat) : Nat := (hits.map fun n => (roundHalf ((32 * n : Nat) - 2000000) 2000).natAbs).foldl max 0

/-- The test's end, 40 ms later and with all its hits: the spare waits with its bin table for a recorded edge, and TIU_CAL tells of the channel,
whether or not INL is within ±0.25 bin (R444; log entry 208). -/
def Hub.tiuDone (h : Hub) (d n : Nat) (hits : List Nat) (inl : Nat) : Hub :=
  match (h.tiuOf d n).testAt with
  | some t =>
    if h.clk.elapsed < t + 40000000 ∨ hits.length ≠ 32 ∨ hits.sum ≠ 2000000 then h
    else
      let dnl := tiuDnl hits
      (h.setTiu d n fun t => { t with testAt := none, next := some hits, dnl := dnl, inl := inl, inlOver := decide (250 < inl),
                                      pass := some h.cal.passNo }).notice
        (unitDie d) 0x0906 (argN n) (argN (sat 16 dnl * 65536 + sat 16 inl))
  | none => h

/-- A point of the sweep is open: an error ratio below 10⁻⁶ over 10⁷ bits (R443). -/
def EyePoint.isOpen (e : Sys2Proof.EyePoint) : Bool := decide (10000000 ≤ e.bits) && decide (e.errors * 1000000 < e.bits)

/-- The extent of numbers. -/
def extent (l : List Int) : Nat := match l.max?, l.min? with | some a, some b => (a - b).toNat | _, _ => 0

/-- EYE_W in 0.001 UI and EYE_H in mV: the widths of the open region along the data slicer's threshold and along its phase (R443; log entry
201). -/
def eyeOf (points : List EyePoint) : Nat × Nat :=
  let l := points.filter EyePoint.isOpen
  (extent ((l.filter fun (e : Sys2Proof.EyePoint) => e.mv == 0).map Sys2Proof.EyePoint.phase),
   extent ((l.filter fun (e : Sys2Proof.EyePoint) => e.phase == 0).map Sys2Proof.EyePoint.mv))

/-- A data lane can be margined: it carries traffic. -/
def Hub.hasEye (h : Hub) (x : Nat × Nat) : Bool :=
  decide (x.1 < h.nPorts) && decide (x.2 < 3) && (h.die (x.1 / 4)).inService && (h.prt x.1).st == .up && !(h.lane x.1 x.2).retired &&
    !(h.lane x.1 x.2).parked && (h.lane x.1 x.2).lock == .locked

/-- A lane is margined: after a rate step that has settled, and once per pass in ascending port order, where one that cannot be is passed over
(R443). -/
def Hub.margin (h : Hub) (p l : Nat) (points : List EyePoint) : Hub :=
  if !h.hasEye (p, l) ∨ (!(h.lane p l).eyeDue ∧ h.cal.margins.find? h.hasEye ≠ some (p, l)) then h
  else
    let e := eyeOf points
    let h := (h.setLane p l fun x => { x with eyeW := sat 16 e.1, eyeH := sat 16 e.2, eyeDue := false }).setCal fun k =>
      { k with margins := if k.margins.find? h.hasEye = some (p, l) then (k.margins.dropWhile (· != (p, l))).drop 1 else k.margins }
    if e.1 < 250 ∨ e.2 < 30 then h.notice (unitPort p) 0x0905 (argN l) (argN (sat 16 e.1 * 65536 + sat 16 e.2)) else h

/-- CAL_SLOT: a stage of a die's slot, in the order of Table 16-1 and not before its time in ms after t0, or one of the calibrations beside it;
one out of order or ahead of its time does nothing. -/
def Hub.calSlot (h : Hub) (d : Nat) (e : CalEvent) : Hub :=
  if !h.calRuns d then h
  else
    let at' (n ms : Nat) (k : Slot → Hub) : Hub :=
      match h.slotOf d with
      | some s => if s.step = n ∧ s.t0 + ms * 1000000 ≤ h.clk.elapsed then k s else h
      | none => h
    match e with
    | .auditBegin => h.auditBegin d
    | .audit => h.auditCal d
    | .refStart => h.slotStart d
    | .refCheck => at' 0 0 fun s => h.slotCheck s
    | .preCheck => at' 1 0 fun s => h.slotPreCheck s
    | .hold => at' 2 2 fun s => h.slotHold s
    | .zero => at' 3 12 fun s => h.slotStep s 4 fun _ _ m => m
    | .gain l => at' 4 52 fun s => h.slotStep s 5 fun i _ m => { m with gainRes := (l.getD i (0, 0)).1, ofsRes := (l.getD i (0, 0)).2 }
    | .segment l => at' 5 102 fun s => h.slotStep s 6 fun i _ m => m.segment (l.getD i ⟨[], []⟩)
    | .tap l => at' 6 122 fun s => h.slotStep s 7 fun i x m => m.taps x.elements.2 (l.getD i [])
    | .excitation m => at' 7 142 fun s => h.slotExc s m
    | .selfTest l => at' 8 147 fun s => (h.slotStep s 9 fun i _ m => { m with selfTest := l.getD i false }).refBegin d
    | .release => at' 9 150 fun s => h.slotRelease s
    | .rampDone => h.slotDone d
    | .tiuStart n => if n < 12 then h.tiuStart d n else h
    | .tiu n hits inl => if n < 12 then h.tiuDone d n hits inl else h
    | .margin p l points => if p / 4 = d then h.margin p l points else h

/-- REQUEUE: an octet with skipped channels is queued once more after 10 min (R439). -/
def Hub.requeue (h : Hub) (o : Nat) : Hub :=
  match (h.oct o).requeueAt with
  | none => h
  | some t =>
    if h.clk.elapsed < t ∨ h.nOcts ≤ o then h
    else (h.setOct o fun q => { q with requeueAt := none, requeued := true }).calQueue o

/-! ## CAL commands (R397, R436, R442) -/

/-- CAL_RUN. -/
def Hub.calRun (h : Hub) (octs : List Nat) : Hub :=
  if octs.isEmpty ∨ octs.any (fun o => decide (h.nOcts ≤ o)) then h.refuse St.badArg
  else h.onDies (octs.map (· / 16)) ((forAll octs (fun o h => h.calQueue o) h).ok [])

def badCalCfg (w : Word) : Bool := !onlyBits w 0x80FFFFFF || fld w 23 16 == 0 || fld w 15 8 == 0 || fld w 7 0 == 0

/-- CAL_CFG_SET; BG_EN newly set counts its interval from the write (R436). -/
def Hub.calCfgSet (h : Hub) (w : Word) : Hub :=
  if badCalCfg w then h.refuse St.badArg
  else (h.setCal fun k => { k with cfg := w, bgAt := if bitOf w 31 && !k.bgEn then h.clk.elapsed else k.bgAt }).ok []

def Hub.calCfgGet (h : Hub) : Hub := h.ok (be 4 h.cal.cfg.toNat)

/-- A channel's quality record (Table 16-3). -/
def Chan.quality (x : Chan) (c : Nat) : Bytes :=
  be 2 c ++ be 1 x.qResult ++ be 1 x.qElements ++ be 1 x.qGain ++ be 1 x.qCause ++ beInt 2 x.qPhRes ++ beInt 4 x.qGainRes ++
    beInt 4 x.qOfsRes ++ beInt 2 x.qAmpRes ++ pad 2 ++ be 4 x.corrNow.gain ++ beInt 4 x.corrNow.ofs ++ be 2 (secHi x.qStamp) ++
    be 1 (eraOf x.qStamp) ++ pad 1 ++ stampB x.qStamp

/-- CAL_REPORT. -/
def Hub.calReport (h : Hub) (first count : Nat) : Hub :=
  if 102 < count ∨ h.nChans < first + count then h.refuse St.badArg
  else
    let chs := (List.range count).map (first + ·)
    h.onDies (chs.map chDie) (h.ok (chs.flatMap fun c => (h.ch c).quality c))

/-! ## Meanings -/

/-- CAL_RUN (R397). -/
def execCalRun (octs : List Nat) (s : State) : Out := act s fun h => h.calRun octs
/-- CAL_CFG_SET (R436). -/
def execCalCfgSet (w : Word) (s : State) : Out := act s fun h => h.calCfgSet w
/-- CAL_CFG_GET (R436). -/
def execCalCfgGet (s : State) : Out := act s Hub.calCfgGet
/-- CAL_REPORT (R442). -/
def execCalReport (first count : Nat) (s : State) : Out := act s fun h => h.calReport first count
/-- CAL_SLOT (R430). -/
def execCalSlot (die : Nat) (ev : CalEvent) (s : State) : Out := act s fun h => h.calSlot die ev
/-- BACKGROUND (R436). -/
def execBackground (s : State) : Out := act s Hub.background
/-- REF_RECHECK (R438). -/
def execRefRecheck (die : Nat) (done : Bool) (s : State) : Out := act s fun h => h.refRecheck die done
/-- REQUEUE (R439). -/
def execRequeue (oct : Nat) (s : State) : Out := act s fun h => h.requeue oct

end Sys2Proof.Machine
end

