-- ==== Sys2Proof/Machine/Power.lean ====
section
/-! DEFINITION. Power and thermal (17): reset of the dies, power states, gating, telemetry, shedding, shutdown, VEXC, PMBus. -/

namespace Sys2Proof.Machine

def Hub.setPwr (h : Hub) (f : Pwr → Pwr) : Hub := { h with pwr := f h.pwr }

/-! ## Reset of the dies (R467) -/

/-- The block of a LOG_WRITE that is being programmed: an access in progress always completes (R493). -/
def Tag.inHand (t : Tag) : List LogJob :=
  match t.busy, t.ring, t.writes with
  | some n, [], j :: _ => if j.blocks.isEmpty then [] else [{ j with owner := .direct, blocks := (j.blocks.take 1).filter fun b => b.1 == n }]
  | _, _, _ => []

/-- What a reset of the dies leaves: everything as at reset but the part, true time, the pins, the flash, the tag's memory and what
VKEEP keeps, the checkpoint stores and a hold-up under way among it. A tag lock is the tag's own; the queue of ring entries is discarded (R467, R474, R479, R484, R488, R495,
R416, R448). -/
def Hub.resetDies (h : Hub) : Hub :=
  let r := Hub.reset h.ident
  Hub.tapSeal { r with
    clk := { r.clk with elapsed := h.clk.elapsed, refclk := h.clk.refclk }
    fseal := { h.fseal with session := false, nonce := none }
    flash := { h.flash with staged := none }
    tag := { h.tag with queue := [], lost := 0, writes := h.tag.inHand }
    pwr := { r.pwr with holdUp := h.pwr.holdUp, thermalOff := h.pwr.thermalOff, stays := h.pwr.stays, vkeepOk := h.pwr.vkeepOk, vkeepAt := h.pwr.vkeepAt, vioA := h.pwr.vioA, vioB := h.pwr.vioB }
    boot := { r.boot with rst := h.boot.rst, bays := h.boot.bays }
    dies := r.dies.zipWith (fun (n o : Die) =>
      { n with rails := o.rails, cores := { n.cores with halves := o.cores.halves, pointer := o.cores.pointer, through := o.cores.through } }) h.dies
    tap := h.tap
    fresh := h.fresh }

/-- The regulators turn off: no bay runs (R448, R452). -/
def Hub.railsOff (h : Hub) : Hub :=
  let h := h.resetDies
  { h with boot := { h.boot with bays := [] }, pwr := { h.pwr with holdUp := none }, dies := h.dies.map fun (x : Die) => { x with rails := false } }

/-! ## Power states (R398, R450 to R452) -/

/-- The hub is in Keep, which it leaves only through a reset or a VMAIN cycle (R398, R452). -/
def Hub.inKeep (h : Hub) : Bool := h.pwr.st == .keep && h.pwr.keepAt.isNone

/-- PWR_STATE_SET; in Keep nothing acts on it. -/
def Hub.pwrStateSet (h : Hub) (st : Nat) : Hub :=
  if h.inKeep then h else
  match st with
  | 0 => (h.setPwr fun p => { p with st := .run, keepAt := none }).ok []
  | 2 => (h.setPwr fun p => { p with st := .doze, keepAt := none }).ok []
  | 3 => (h.setPwr fun p => { p with st := .keep, keepAt := some h.clk.elapsed }).ok []
  | _ => h.refuse St.badArg

/-- KEEP_ENTRY: 10 ms after the response the data path stops, the regulators turn off and the coupler closes; no DEPART goes out (R452). -/
def Hub.keepEntry (h : Hub) : Hub :=
  match h.pwr.keepAt with
  | none => h
  | some t => if h.clk.elapsed < t + 10000000 ∨ h.mgmt.owes [0x0C01] then h else h.railsOff.setPwr fun p => { p with st := .keep }

/-- QMAP of the powered quadrants. -/
def Hub.qmap (h : Hub) : Nat := ofBits ((List.range (4 * h.nDies)).filter h.powered)

/-- STATE as PWR_GET reports it (R450). -/
def Hub.pwrCode (h : Hub) : Nat := if h.octs.any (·.held) then 1 else h.pwr.st.code

def Hub.pwrGet (h : Hub) : Hub := h.ok (be 1 h.pwrCode ++ be 1 h.pwr.shed ++ pad 2 ++ be 4 h.qmap)

/-- A quadrant that may not be powered down (R398). -/
def Hub.needed (h : Hub) (q : Nat) : Bool :=
  q == 0 || q == 1 ||
    ((List.range 32).map fun i => 32 * q + i).any fun c =>
      (h.ch c).skimEn || (h.capOf c).isSome || (h.die (q / 4)).sep.usedColumns.contains (c % 128)

/-- A quadrant goes off: its slots of calibration end, its port is Off, its channels stop, and its slices drive nothing (R440,
R453). -/
def Hub.quadOff (q : Nat) (h : Hub) : Hub :=
  let d := q / 4
  let h := if h.cal.slots.any (fun (s : Slot) => s.oct / 4 == q) then h.abortSlots d else h
  let h := if q < 4 then h.sclkHold q 0 else h
  let h := h.setDie d fun x => { x with quads := modAt x.quads (q % 4) fun _ => false }
  let h := h.mapCh fun c x => if chQuad c == q then { x with rampFrom := 0, rampTo := 0 } else x
  h.passEnds.portDown q .off

/-- A quadrant comes on: its channels restart as from Doze, their drives ramp up, and its port starts (R39, R453). -/
def Hub.quadOn (q : Nat) (h : Hub) : Hub :=
  let h := h.setDie (q / 4) fun x => { x with quads := modAt x.quads (q % 4) fun _ => true }
  let h := h.mapCh fun c x => if chQuad c == q then
      { x with stopped := true, lastAt := none, rampFrom := 0, rampTo := x.desc.rampGoal !x.driveOff, rampAt := h.clk.cycles,
               driveChanged := h.clk.elapsed } else x
  let h := if q < 4 then h.sclkStart q h.tm.now else h
  h.portStart q

/-- The two separator engines of a quadrant are powered: with the quadrant, or while EN is set (R453). -/
def Hub.sepPowered (h : Hub) (q : Nat) : Bool := h.powered q || h.sep.en h.tm.now

/-- PWR_GATE (R398, R453). -/
def Hub.pwrGate (h : Hub) (quads : List Nat) : Hub :=
  let all := List.range (4 * h.nDies)
  let off := all.filter fun q => h.powered q && !quads.contains q
  let on := all.filter fun q => !h.powered q && quads.contains q
  if quads.any (fun q => decide (4 * h.nDies ≤ q)) ∨ off.any h.needed then h.refuse St.badArg
  else h.onDies ((off ++ on).map (· / 4)) ((forAll on Hub.quadOn (forAll off Hub.quadOff h)).ok [])

/-! ## Telemetry (R455, R457, R461, R462) -/

/-- Tj of a die: its highest sensor (R455). -/
def DieReading.tj (r : DieReading) : Int := r.temps.foldl max (r.temps.headD 0)

/-- Largest and smallest of a list of numbers. -/
def maxOf (l : List Int) : Int := l.foldl max (l.headD 0)
def minOf (l : List Int) : Int := l.foldl min (l.headD 0)

/-- Dies in service. -/
def Hub.live (h : Hub) : List Nat := (List.range h.nDies).filter fun d => (h.die d).inService

/-- VMAIN of a bay in mV: the reading of its lower die (R461). -/
def Hub.bayMv (h : Hub) (b : Nat) : Nat := (h.die (2 * b)).reading.vmainMv

/-- Bays of the part. -/
def Hub.nBays (h : Hub) : Nat := h.nDies / 2

/-- The lowest bay (R456, R462). -/
def Hub.lowBay (h : Hub) : Nat :=
  ((List.range h.nBays).foldl (fun (m : Option Nat) b =>
    match m with
    | some a => if h.bayMv b < h.bayMv a then some b else m
    | none => some b) none).getD 0

/-- The telemetry payload (Table 17-5). -/
def Hub.telemBytes (h : Hub) : Bytes :=
  let p := h.pwr
  let flags := (if p.gradient then 1 else 0) + (if p.vexcLow then 2 else 0) + (if h.clk.valid then 4 else 0)
  be 2 p.vkeepMv ++ beInt 2 p.tjMax ++ be 1 p.shed ++ be 1 flags ++ pad 2 ++
    (List.range h.nDies).flatMap fun d =>
      let x := h.die d
      let r := x.reading
      be 1 d ++ be 1 ((if x.inService then 1 else 0) + (if x.frozen then 2 else 0)) ++
        be 1 (ofBits ((List.range 4).filter fun q => x.quads.getD q false)) ++ pad 1 ++ be 2 r.vmainMv ++ be 2 r.imainMa ++
        be 2 r.vexcMv ++ be 2 r.iexcMa ++ ((List.range 4).flatMap fun i => beInt 2 (r.temps.getD i 0)) ++ be 2 r.pdieMw ++ pad 2

def Hub.pwrTelem (h : Hub) : Hub := h.ok h.telemBytes

/-- TELEM and MGT_LOAD: the lead die's records of each second (R370, R455). -/
def Hub.telem (h : Hub) : Hub := if h.manages then h.record 5 h.telemBytes else h

def Hub.mgtLoad (h : Hub) (loads : List Nat) : Hub :=
  if h.manages then h.record 3 ((List.range 12).flatMap fun i => be 2 (loads.getD i 0)) else h

/-- The octets that the gradient rule queues: of the hottest and the coldest die and of the dies of the lowest bay (R462). -/
def Hub.gradientQueue (h : Hub) : Hub :=
  let tj (d : Nat) : Int := DieReading.tj (h.die d).reading
  let hot := h.live.find? fun d => tj d == maxOf (h.live.map tj)
  let cold := h.live.find? fun d => tj d == minOf (h.live.map tj)
  let b := h.lowBay
  let ds := (hot.toList ++ cold.toList ++ [2 * b, 2 * b + 1]).eraseDups
  forAll (h.eligible.filter fun o => ds.contains (o / 16)) (fun o h => h.calQueue o) h

/-- The differences of R461: temperature of the dies in service in 0.1 °C, VMAIN of any two bays in mV. -/
def Hub.gradients (h : Hub) : Nat × Nat :=
  let t := h.live.map fun d => DieReading.tj (h.die d).reading
  let v := (List.range h.nBays).map fun b => (h.bayMv b : Int)
  ((maxOf t - minOf t).toNat, (maxOf v - minOf v).toNat)

/-- THERMAL_GRADIENT sets, grows and clears (R461, R462). -/
def Hub.gradientCheck (h : Hub) : Hub :=
  let (dt, dv) := h.gradients
  let p := h.pwr
  if !p.gradient then
    if 350 < dt ∨ 165 < dv then
      ((h.setPwr fun p => { p with gradient := true, gradBase := dt, gradOkAt := none }).notice unitHub 0x0A03 (argN dt) (argN dv)).gradientQueue
    else h
  else
    let h := if p.gradBase + 100 ≤ dt then (h.setPwr fun p => { p with gradBase := dt }).gradientQueue else h
    if dt ≤ 300 ∧ dv ≤ 132 then
      let since := p.gradOkAt.getD h.clk.elapsed
      if since + 10000000000 ≤ h.clk.elapsed then
        (h.setPwr fun p => { p with gradient := false, gradOkAt := none }).gradientQueue
      else h.setPwr fun p => { p with gradOkAt := some since }
    else h.setPwr fun p => { p with gradOkAt := none }

/-- VMAIN rating of the variant in mA (Table 21-3). -/
def Variant.ratingMa : Variant → Nat
  | .eh2 => 5000
  | .eh4 => 10000
  | .eh8 => 20000

/-- Latches of STATUS_WORD that a reading sets: pages 0 to 7 for dies, 255 for the package (Table 17-7). -/
def Hub.pmbusLatch (h : Hub) : Hub :=
  let ds := List.range h.nDies
  let uv := ds.filter fun d => decide (h.bayMv (d / 2) < 3135)
  let hot := h.live.filter fun d => decide (1150 ≤ DieReading.tj (h.die d).reading)
  let pages (l : List Nat) : List Nat := if l.isEmpty then [] else l ++ [255]
  let sum := (ds.map fun d => (h.die d).reading.imainMa).sum
  { h with pmbus := { h.pmbus with
      iout := h.pmbus.iout || decide (h.ident.variant.ratingMa < sum)
      vin := (h.pmbus.vin ++ pages uv).eraseDups
      temp := (h.pmbus.temp ++ pages hot).eraseDups } }

/-- Telemetry of a die: what its regulators' sensors give; in modes INT and BOTH the temperatures, VMAIN and VEXC are the means of the
internal points over the refresh interval (R80, R455, Table 03-4), the last values where none was converted (log entry 145). -/
def Audit.telemetry (a : Audit) (old r : DieReading) : DieReading :=
  if !a.visits || a.retired then r
  else
    let mean (e : Nat) (last : Int) (f : Int → Nat → Int) : Int :=
      let p := a.points.getD (e - 128) (0, 0)
      if p.2 = 0 then last else f p.1 p.2
    let temp (i : Nat) : Int := mean (133 + i) (old.temps.getD i 0) fun s n => roundHalf ((650000 + 50000) * 4 * n - 125 * s) (800 * n)
    { r with
      vmainMv := (mean 129 old.vmainMv fun s n => roundHalf s (16 * n)).toNat,
      vexcMv := (mean 130 old.vexcMv fun s n => roundHalf s (8 * n)).toNat,
      temps := (List.range 4).map temp }

/-- While class 3 sheds, telemetry is refreshed after up to ten of its intervals; by how many is a free value (R370, log entry 168). -/
def Hub.telemWaits (h : Hub) : Bool :=
  h.sheds3 && h.pwr.refreshed.any fun t => decide (h.clk.elapsed < t + 10000000 * (1 + Config.telemStretch h.fresh % 10))

/-- TELEMETRY_REFRESH, every 10 ms: not during a failover gap of the lead (R370, R455, R457). -/
def Hub.telemetryRefresh (h : Hub) (vkeepMv : Nat) (l : List DieReading) : Hub :=
  if !h.manages ∨ h.telemWaits then h
  else
    let h := { h.tick with dies := h.dies.mapIdx fun d (x : Die) => match l[d]? with
      | some r =>
        { x with reading := x.audit.telemetry x.reading r, audit := { x.audit with points := List.replicate 16 (0, 0) } }
      | none => x }
    let h := h.setPwr fun p =>
      { p with vkeepMv := vkeepMv, refreshed := some h.clk.elapsed,
               tjMax := maxOf (h.live.map fun d => DieReading.tj (h.die d).reading) }
    h.pmbusLatch.gradientCheck

/-! ## Shutdown (R448, R460) -/

/-- An orderly shutdown begins where the regulators run: DEPART goes out on P00 within the hold-up (R348, R448). -/
def Hub.holdUpStart (h : Hub) (cause : Nat) : Hub :=
  if h.pwr.holdUp.isSome ∨ (h.boot.tr.isNone ∧ h.boot.bays.isEmpty) then h
  else
    let h := if (h.prt 0).st = .up then h.setLink 0 fun k => { k with ctl := ⟨0xCC, h.departBits cause⟩ :: k.ctl } else h
    h.setPwr fun p => { p with holdUp := some h.clk.elapsed }

/-- VMAIN falls: an orderly shutdown begins; in Keep, where nothing runs, Keep is left (R398, R448). -/
def Hub.vmainFall (h : Hub) : Hub :=
  let h := h.setPwr fun p => { p with stays := false }
  if h.inKeep then h.setPwr fun p => { p with st := .off } else h.holdUpStart 0

/-- HOLD_UP_END: the coupler is closed and the regulators turn off (R448). -/
def Hub.holdUpEnd (h : Hub) : Hub :=
  match h.pwr.holdUp with
  | none => h
  | some t =>
    if h.clk.elapsed < t + 200000 then h
    else h.railsOff

/-! ## Shedding (R458 to R460, Table 17-8) -/

/-- HUB ports on which shedding acts. -/
def Hub.shedPorts (h : Hub) : List Nat :=
  (List.range h.nPorts).filter fun p => (h.prt p).mode == 1 && (h.prt p).st == .up && !(h.prt p).manual

/-- Level 1: ports whose load fits width 1 are narrowed. -/
def Hub.shedWidth (p : Nat) (h : Hub) : Hub :=
  let w := h.widthCap p
  if w < (h.prt p).width then h.askWidth p w else h

/-- Level 2: ports step down to the lowest rate that carries their load. -/
def Hub.shedRateAt (p : Nat) (h : Hub) : Hub :=
  let r := h.rateCap p
  if r < (h.prt p).rate then h.askRate p r else h

/-- Channels that send RAW. -/
def Hub.rawChans (h : Hub) : List Nat := (List.range h.nChans).filter fun c => (h.ch c).rawEn

/-- Level 3: RAW stops behind a RATE item of rate 0. -/
def Hub.rawShed (c : Nat) (h : Hub) : Hub := (h.churnBreak true c).sweepRate true c h.tm.now 0 1 1 3

/-- Level 3 ends: RAW goes on behind a RATE item. -/
def Hub.rawBack (c : Nat) (h : Hub) : Hub :=
  let h := h.setCh c fun x => { x with churnRaw := x.churnRaw.map fun (u : ChurnUse) => { u with fresh := true } }
  h.sweepRate true c h.tm.now 125000000 (h.ch c).desc.nDiv 1 3

/-- Level 5: skim stops at each channel's next block, and resumes at one, where the spool allows it (R459). -/
def Hub.skimShed (h : Hub) : Hub := h.mapCh fun _ x => if x.skimBuilt then { x with skimStop := some 3, skimStart := none } else { x with skimStart := none }
def Hub.skimBack (h : Hub) : Hub :=
  h.mapCh fun c x =>
    if (h.die (h.builder c)).store.spool = .fullRate then
      (if x.skimBuilt then { x with skimStop := none } else { x with skimStart := some 3 })
    else x

/-- SHED takes a level, with its record and what it begins or ends. -/
def Hub.setShed (h : Hub) (n : Nat) : Hub :=
  let old := h.pwr.shed
  let h := (h.setPwr fun p =>
    { p with shed := n, shedAt := h.clk.elapsed, shed4At := if old < 4 then h.clk.elapsed else p.shed4At }).notice unitHub 0x0A02 (argN n) (argI h.pwr.tjMax)
  let h := if old < 1 ∧ 1 ≤ n then forAll h.shedPorts Hub.shedWidth h else h
  let h := if old < 2 ∧ 2 ≤ n then forAll h.shedPorts Hub.shedRateAt h else h
  let h := if old < 3 ∧ 3 ≤ n then forAll h.rawChans Hub.rawShed h else h
  let h := if old < 5 ∧ 5 ≤ n then h.skimShed else h
  let h := if 5 ≤ old ∧ n < 5 then h.skimBack else h
  if 3 ≤ old ∧ n < 3 then forAll h.rawChans Hub.rawBack h else h

/-- SHED_EVALUATION, every 100 ms (R458, R460): temperatures in 0.1 °C. After a thermal shutdown the hub stays off until RST_n or a VMAIN cycle. -/
def Hub.shedEvaluation (h : Hub) : Hub :=
  let p := h.pwr
  if !h.boot.running then h
  else if 1300 ≤ p.tjMax then (h.setPwr fun p => { p with thermalOff := some (p.thermalOff.getD p.tjMax), stays := true }).holdUpStart 1
  else if 1150 ≤ p.tjMax ∧ p.shed < 5 ∧ p.shedAt + 1000000000 ≤ h.clk.elapsed then h.setShed (p.shed + 1)
  else if p.tjMax ≤ 1100 ∧ 0 < p.shed ∧ p.shedAt + 10000000000 ≤ h.clk.elapsed then h.setShed (p.shed - 1)
  else h

/-! ## Excitation supply (R449) -/

/-- VEXC_LOW: drives ramp to zero, skim is held, a record. -/
def Hub.vexcLow (h : Hub) (mv : Nat) : Hub :=
  if 10500 ≤ mv ∨ h.pwr.vexcLow ∨ h.boot.tr.isNone then h
  else
    let h := h.mapCh fun _ x => x.driveSet false h.clk.cycles h.clk.elapsed
    (h.setPwr fun p => { p with vexcLow := true }).notice unitHub 0x0A01 (argN mv) 1

/-- VEXC_RESTORE: drives ramp back but for those that a retirement ramped off, and the channels are released. -/
def Hub.vexcRestore (h : Hub) (mv : Nat) : Hub :=
  if mv < 10800 ∨ !h.pwr.vexcLow then h
  else
    let h := h.mapCh fun _ x => if x.retired = some 0x0103 then x else x.driveSet true h.clk.cycles h.clk.elapsed
    let h := forAll ((List.range h.nChans).filter fun c => !(h.oct (chOct c)).held) (fun c h => h.resumeChan c) h
    (h.setPwr fun p => { p with vexcLow := false }).notice unitHub 0x0A01 (argN mv) 0

/-! ## PMBus (R456, R457, R523) -/

def Hub.setPmbus (h : Hub) (f : Pmbus → Pmbus) : Hub := { h with pmbus := f h.pmbus }

/-- The value of the last PMBus read. -/
def Hub.pmbusOut (h : Hub) (v : Nat) : Hub := h.setPmbus fun p => { p with readout := v }

/-- PAGE names the package. -/
def Hub.pkgPage (h : Hub) : Bool := h.pmbus.page == 255

def Hub.pageReading (h : Hub) : DieReading := (h.die h.pmbus.page).reading

/-- Mantissa of a value in thousandths at exponent e - 16. -/
def linearMant (v : Int) (e : Nat) : Int := roundHalf (v * 65536) (1000 * 2 ^ e)

/-- A value in thousandths as LINEAR11: a 5-bit exponent, at which the 11-bit mantissa holds it, then the mantissa (R456; log entry 89). -/
def linear11 (v : Int) : Nat :=
  let least := ((List.range 32).find? fun e => decide ((linearMant v e).natAbs ≤ 1023)).getD 31
  let e := min 31 (least + Config.linearSlack v)
  (e + 16) % 32 * 2048 + unsigned 11 (linearMant v e)

/-- A reading in thousandths, as LINEAR11. -/
def Hub.linear (h : Hub) (v : Int) : Hub := h.pmbusOut (linear11 v)

/-- A sum over the dies, or the page's die. -/
def Hub.pageSum (h : Hub) (f : DieReading → Nat) : Nat :=
  if h.pkgPage then ((List.range h.nDies).map fun d => f (h.die d).reading).sum else f h.pageReading

/-- PAGE: 255 or a die present. -/
def Hub.setPage (h : Hub) (write : Option Byte) (pec : Pec) : Hub :=
  match write with
  | none => h.pmbusOut h.pmbus.page
  | some b =>
    if pec = .bad then h.setPmbus fun p => { p with cml := true }
    else if b.toNat = 255 ∨ b.toNat < h.nDies then h.setPmbus fun p => { p with page := b.toNat }
    else h.setPmbus fun p => { p with cml := true }

/-- CLEAR_FAULTS. -/
def Hub.clearFaults (h : Hub) (pec : Pec) : Hub :=
  h.setPmbus fun p => if pec = .bad then { p with cml := true } else { p with iout := false, vin := [], temp := [], cml := false }

/-- STATUS_WORD (Table 17-7). -/
def Hub.statusWord (h : Hub) : Nat :=
  let p := h.pmbus
  let vin := p.vin.contains p.page
  let bad := if h.pkgPage then h.dies.any (fun (x : Die) => !x.rails) else !(h.die p.page).rails
  let stale := match h.pwr.refreshed with | some t => decide (t + 20000000 < h.clk.elapsed) | none => true
  ofBits ((if p.iout then [14, 4] else []) ++ (if vin then [13, 3] else []) ++ (if h.pwr.gradient || h.pwr.vexcLow then [12] else []) ++
    (if bad then [11] else []) ++ (if stale then [8] else []) ++ (if h.inKeep then [6] else []) ++
    (if p.temp.contains p.page then [2] else []) ++ (if p.cml then [1] else []))

/-- MFR_READ_VKEEP: on the package page only. -/
def Hub.readVkeep (h : Hub) : Hub := if h.pkgPage then h.linear h.pwr.vkeepMv else h.setPmbus fun p => { p with cml := true }

/-! ## Meanings -/

/-- PWR_STATE_SET (R398). -/
def execPwrStateSet (st : Nat) (s : State) : Out := act s fun h => h.pwrStateSet st
/-- KEEP_ENTRY (R452). -/
def execKeepEntry (s : State) : Out := act s Hub.keepEntry
/-- PWR_GATE (R453). -/
def execPwrGate (quads : List Nat) (s : State) : Out := act s fun h => h.pwrGate quads
/-- PWR_GET (R450). -/
def execPwrGet (s : State) : Out := act s Hub.pwrGet
/-- PWR_TELEM (R455). -/
def execPwrTelem (s : State) : Out := act s Hub.pwrTelem
/-- TELEM (R455). -/
def execTelem (s : State) : Out := act s Hub.telem
/-- MGT_LOAD (R370). -/
def execMgtLoad (loads : List Nat) (s : State) : Out := act s fun h => h.mgtLoad loads
/-- TELEMETRY_REFRESH (R455). -/
def execTelemetryRefresh (vkeepMv : Nat) (dies : List DieReading) (s : State) : Out := act s fun h => h.telemetryRefresh vkeepMv dies
/-- SHED_EVALUATION (R458). -/
def execShedEvaluation (s : State) : Out := act s Hub.shedEvaluation
/-- VMAIN_FALL (R448). -/
def execVmainFall (s : State) : Out := act s Hub.vmainFall
/-- HOLD_UP_END (R448). -/
def execHoldUpEnd (s : State) : Out := act s Hub.holdUpEnd
/-- VEXC_LOW (R449). -/
def execVexcLow (mv : Nat) (s : State) : Out := act s fun h => h.vexcLow mv
/-- VEXC_RESTORE (R449). -/
def execVexcRestore (mv : Nat) (s : State) : Out := act s fun h => h.vexcRestore mv
/-- PAGE (R456). -/
def execPage (write : Option Byte) (pec : Pec) (s : State) : Out := act s fun h => h.setPage write pec
/-- CLEAR_FAULTS (R456). -/
def execClearFaults (pec : Pec) (s : State) : Out := act s fun h => h.clearFaults pec
/-- CAPABILITY (R456). -/
def execCapability (s : State) : Out := act s fun h => h.pmbusOut 0xA0
/-- STATUS_WORD (R456). -/
def execStatusWord (s : State) : Out := act s fun h => h.pmbusOut h.statusWord
/-- READ_VIN (R456). -/
def execReadVin (s : State) : Out := act s fun h => h.linear (h.bayMv (if h.pkgPage then h.lowBay else h.pmbus.page / 2))
/-- READ_IOUT (R456). -/
def execReadIout (s : State) : Out := act s fun h => h.linear (h.pageSum DieReading.imainMa)
/-- READ_TEMPERATURE_1 (R456). -/
def execReadTemperature1 (s : State) : Out :=
  act s fun h => h.linear ((if h.pkgPage then h.pwr.tjMax else DieReading.tj h.pageReading) * 100)
/-- PMBUS_REVISION (R456). -/
def execPmbusRevision (s : State) : Out := act s fun h => h.pmbusOut 0x33
/-- MFR_READ_VEXC (R456). -/
def execMfrReadVexc (s : State) : Out :=
  act s fun h => h.linear (if h.pkgPage then (h.die 0).reading.vexcMv else h.pageReading.vexcMv)
/-- MFR_READ_IEXC (R456). -/
def execMfrReadIexc (s : State) : Out := act s fun h => h.linear (h.pageSum DieReading.iexcMa)
/-- MFR_READ_VKEEP (R456). -/
def execMfrReadVkeep (s : State) : Out := act s Hub.readVkeep
/-- MFR_READ_POWER (R456). -/
def execMfrReadPower (s : State) : Out := act s fun h => h.linear (h.pageSum DieReading.pdieMw)
/-- MFR_SHED (R456). -/
def execMfrShed (s : State) : Out := act s fun h => h.pmbusOut h.pwr.shed
/-- PMBUS_UNSUPPORTED: acknowledged, discarded, CML set (R456). -/
def execPmbusUnsupported (_code : Nat) (s : State) : Out := act s fun h => h.setPmbus fun p => { p with cml := true }
/-- BUS_TIMEOUT: the transaction in progress is discarded, and CML is not set (R523). -/
def execBusTimeout (s : State) : Out := act s fun h => h

end Sys2Proof.Machine
end

