-- ==== Sys2Proof/Machine/Logbook.lean ====
section
/-! DEFINITION. The logbook tag (19): its memory, the fault ring, LOG commands, the field commands. -/

namespace Sys2Proof.Machine

/-! ## Memory (R485, R486, Tables 19-1 to 19-3) -/

def Variant.number : Variant → Nat
  | .eh2 => 2
  | .eh4 => 4
  | .eh8 => 8

/-- The identity area (Table 19-2). -/
def Ident.area (i : Ident) : Bytes :=
  let b := be 6 i.serial.toNat ++ be 1 i.variant.number ++ be 1 0xB1 ++ be 4 i.dbwId.toNat ++ be 4 i.idcode.toNat ++
    be 4 i.mfg.toNat ++ be 8 i.uid.toNat ++ pad 224
  b ++ be 4 (crc32 b).toNat

/-- What a block reads as that nothing has written: the ring 0xFF as manufactured, the rest 0 (log entry 90). -/
def blankBlock (n : Nat) : Word := if 64 ≤ n ∧ n < 1600 then 0xFFFFFFFF else 0

/-- The owner notes. -/
def ownerNote (n : Nat) : Bool := decide (1600 ≤ n ∧ n < 1984)

/-- A block of the tag. -/
def Hub.block (h : Hub) (n : Nat) : Word :=
  if n < 64 then wordAt h.ident.area (4 * n)
  else ((h.tag.mem.find? fun x => x.1 == n).map Prod.snd).getD (blankBlock n)

/-- Memory with a block written; blocks that read as blank are not listed. -/
def tagPut (n : Nat) (w : Word) : List (Nat × Word) → List (Nat × Word)
  | [] => if w = blankBlock n then [] else [(n, w)]
  | (m, v) :: r =>
    if n < m then (if w = blankBlock n then (m, v) :: r else (n, w) :: (m, v) :: r)
    else if n = m then (if w = blankBlock n then r else (n, w) :: r)
    else (m, v) :: tagPut n w r

/-- Writes a block outside the identity area. -/
def Hub.putBlock (h : Hub) (n : Nat) (w : Word) : Hub :=
  if 64 ≤ n ∧ n < 2048 then h.setTag fun t => { t with mem := tagPut n w t.mem } else h

/-- Blocks as bytes. -/
def Hub.blockBytes (h : Hub) (first count : Nat) : Bytes := (List.range count).flatMap fun i => be 4 (h.block (first + i)).toNat

/-! ## The wired side (R487, R493, R496) -/

/-- BLOCK_WRITE_TIME: the block that is being programmed is written (R493). -/
def Hub.blockWritten (h : Hub) (n : Nat) : Hub :=
  if h.tag.busy ≠ some n then h
  else
    let h := h.setTag fun t => { t with busy := none }
    match h.tag.ring, h.tag.writes with
    | (m, w) :: r, _ => if m = n then ((h.putBlock n w).setTag fun t => { t with ring := r }).tagNext else h.tagNext
    | [], j :: q =>
      match j.blocks with
      | (m, w) :: r =>
        if m ≠ n then h.tagNext
        else if r.isEmpty then ((h.putBlock n w).jobEnds j St.ok).tagNext
        else ((h.putBlock n w).setTag fun t => { t with writes := { j with blocks := r, since := h.clk.elapsed } :: q }).tagNext
      | [] => h
    | [], [] => h

/-- RING_ENTRY: the oldest queued entry goes to slot LSEQ mod 192, its first block invalid, then blocks 2 to 8, then LSEQ (R486 to
R488). -/
def Hub.ringEntry (h : Hub) : Hub :=
  let early : Bool := match h.tag.lastEntry with | some t => decide (h.clk.elapsed < t + 1000000000) | none => false
  match h.tag.queue with
  | [] => h
  | (t, ev) :: rest =>
    if early ∨ !h.tag.ring.isEmpty ∨ h.sheds3 ∨ h.pwr.holdUp.isSome ∨ !h.manages then h
    else
      let q := h.tag.lseq
      let base := 64 + 8 * (q % 192)
      let b := be 2 (secHi t) ++ be 1 (eraOf t) ++ pad 1 ++ stampB t ++ ev
      let body := (List.range 7).map fun i => (base + 1 + i, wordAt b (4 * i))
      (h.setTag fun x => { x with queue := rest, lseq := q + 1, lastEntry := some h.clk.elapsed,
                                  ring := (base, 0xFFFFFFFF) :: body ++ [(base, BitVec.ofNat 32 q)] }).tagNext

/-- LOG_DROP: once the queue has room, an entry with the number of records not queued (R489). -/
def Hub.logDrop (h : Hub) : Hub :=
  if h.tag.lost = 0 ∨ 64 ≤ h.tag.queue.length then h
  else h.setTag fun t =>
    { t with lost := 0, queue := t.queue ++ [(h.tm.now, eventB unitHub 0x0C01 0 1 (argN t.lost) 0)] }

/-- The tag configuration area, rewritten at entry to ROUGH, block by block as the tag is free (Table 19-3, R488, R493). -/
def Hub.tagRough (h : Hub) : Hub :=
  let boots := satInc 32 (h.block 1984).toNat
  let drop := satAdd 32 (h.block 1990).toNat h.tag.dropped
  let t := h.tm.now
  let b := be 4 boots ++ be 4 h.dbw.fwrel.toNat ++ be 4 h.sealWord.toNat ++ be 2 (secHi t) ++ be 1 (eraOf t) ++ pad 1 ++ stampB t ++
    be 4 drop
  (h.setTag fun x => { x with dropped := 0, ring := x.ring ++ (List.range 7).map fun i => (1984 + i, wordAt b (4 * i)) }).tagNext

/-! ## LOG commands (R400, R496) -/

/-- LOG_READ: BUSY for owner notes under the lock. -/
def Hub.logRead (h : Hub) (first count : Nat) : Hub :=
  if count = 0 ∨ 1020 < count ∨ 2048 < first + count then h.refuse St.badArg
  else if h.tagLocked ∧ ((List.range count).any fun i => ownerNote (first + i)) then
    let h := h.tick
    h.busy (Config.retryEstimate h.fresh 3)
  else h.ok (h.blockBytes first count)

/-- LOG_WRITE: owner notes alone, in ascending order; its response or its SCHED_DONE record waits for the blocks (R400, R496). One that
finds another in progress waits behind it. -/
def Hub.logWrite (h : Hub) (first : Nat) (data : List Word) (owner : LogOwner) : Hub :=
  let n := data.length
  if n = 0 ∨ 1018 < n ∨ first < 1600 ∨ 1984 < first + n then h.refuse St.badArg
  else
    let j : LogJob := ⟨owner, data.zipIdx.map fun p => (first + p.2, p.1), h.clk.elapsed⟩
    ((h.setTag fun t => { t with writes := t.writes ++ [j] }).tagNext).ok []

/-! ## Field commands (R490 to R495; the frame is that of ISO/IEC 15693, log entry 91) -/

/-- What the tag answers: flags and bytes less the CRC, or nothing. -/
def Hub.tagSay (h : Hub) (a : Option Bytes) : Hub := h.setTag fun t => { t with answer := a }
def Hub.tagOk (h : Hub) (b : Bytes) : Hub := h.tagSay (some (0 :: b))
def Hub.tagErr (h : Hub) (code : Byte) : Hub := h.tagSay (some [1, code])

/-- The request is for this tag: by its mode and state; one that asks for two subcarriers gets no response (R490). -/
def Hub.tagFor (h : Hub) (r : TagReq) : Bool :=
  !r.twoSub && (match r.mode with
    | .nonAddressed => !h.tag.quiet
    | .addressed u => u == h.ident.uid
    | .selected => h.tag.selected)

/-- Runs a command that is for this tag. -/
def Hub.onTag (h : Hub) (r : TagReq) (k : Hub → Hub) : Hub := if h.tagFor r then k h else h.tagSay none

/-- UID as the tag sends it, least significant byte first. -/
def Ident.uidBytes (i : Ident) : Bytes := (be 8 i.uid.toNat).reverse

/-- INVENTORY: AFI 0x00 or none, the mask as far as it goes; a quiet tag does not answer. -/
def Hub.inventory (h : Hub) (r : TagReq) (afi : Option Byte) (maskLen : Nat) (mask : BitVec 64) : Hub :=
  let afiBad : Bool := match afi with | some a => a != 0 | none => false
  let hit := h.ident.uid.toNat % 2 ^ maskLen == mask.toNat % 2 ^ maskLen
  if r.twoSub ∨ h.tag.quiet ∨ !hit ∨ afiBad then h.tagSay none
  else h.tagOk (0 :: h.ident.uidBytes)

/-- STAY_QUIET: addressed, no response. -/
def Hub.stayQuiet (h : Hub) (r : TagReq) : Hub :=
  match r.mode with
  | .addressed u =>
    (if u = h.ident.uid ∧ !r.twoSub then h.setTag fun t => { t with quiet := true, selected := false } else h).tagSay none
  | _ => h.tagSay none

/-- SELECT: the tag that it addresses; any other that was selected leaves that state. -/
def Hub.tagSelect (h : Hub) (r : TagReq) : Hub :=
  match r.mode with
  | .addressed u =>
    if r.twoSub then h.tagSay none
    else if u = h.ident.uid then (h.setTag fun t => { t with selected := true, quiet := false }).tagOk []
    else (h.setTag fun t => { t with selected := false }).tagSay none
  | _ => h.tagSay none

/-- RESET_TO_READY. -/
def Hub.tagReady (h : Hub) (r : TagReq) : Hub :=
  h.onTag r fun h => (h.setTag fun t => { t with selected := false, quiet := false }).tagOk []

/-- A block that the wired side or the hub uses (R494). -/
def Hub.inUse (h : Hub) (first count : Nat) : Bool :=
  match h.tag.busy with | some n => decide (first ≤ n ∧ n < first + count) | none => false

/-- A read of blocks below a limit. -/
def Hub.tagRead (h : Hub) (r : TagReq) (limit first count : Nat) : Hub :=
  h.onTag r fun h =>
    if 64 < count ∨ limit < first + count then h.tagErr 0x10
    else if h.inUse first count then h.tagErr 0xA1
    else h.tagOk (h.blockBytes first count)

/-- A write of one block: owner notes alone, not while the wired side uses it, and in a field that is strong enough (R491, R494,
R525). -/
def Hub.tagWrite (h : Hub) (r : TagReq) (limit n : Nat) (w : Word) : Hub :=
  h.onTag r fun h =>
    if limit ≤ n then h.tagErr 0x10
    else if !ownerNote n then h.tagErr 0x12
    else if h.inUse n 1 then h.tagErr 0xA1
    else if !r.writeField then h.tagErr 0x13
    else (h.putBlock n w).tagOk []

/-- Security status of blocks (R491). -/
def Hub.tagSecurity (h : Hub) (r : TagReq) (limit first count : Nat) : Hub :=
  h.onTag r fun h =>
    if limit < first + count then h.tagErr 0x10
    else h.tagOk ((List.range count).map fun i => if ownerNote (first + i) then 0x00 else 0x01)

/-- System information: DSFID and AFI 0x00, the blocks of 4 bytes, the IC reference. -/
def Hub.tagInfo (h : Hub) (r : TagReq) (size : Bytes) : Hub :=
  h.onTag r fun h => h.tagOk (0x0F :: h.ident.uidBytes ++ [0, 0] ++ size ++ [Config.icReference])

/-- The IC manufacturer code: byte 6 of the UID (R492). -/
def Ident.icMfr (i : Ident) : Byte := (i.uid >>> 48).truncate 8

/-- A custom command: with another manufacturer's code it gets no response (R492). -/
def Hub.tagCustom (h : Hub) (r : TagReq) (mfr : Byte) (k : Hub → Hub) : Hub :=
  if mfr = h.ident.icMfr then h.onTag r k else h.tagSay none

/-- OWNER_LOCK (R495). -/
def Hub.ownerLock (h : Hub) (r : TagReq) (mfr : Byte) (seconds : Nat) : Hub :=
  h.tagCustom r mfr fun h =>
    if 60 < seconds then h.tagErr 0xA2
    else if seconds = 0 then ((h.setTag fun t => { t with lockUntil := none }).tagNext).tagOk []
    else (h.setTag fun t => { t with lockUntil := some (h.clk.elapsed + seconds * 1000000000) }).tagOk []

/-- The newest slot of the ring with its LSEQ (R486). -/
def Hub.newest (h : Hub) : Option (Nat × Nat) :=
  (List.range 192).foldl (fun (m : Option (Nat × Nat)) s =>
    let q := (h.block (64 + 8 * s)).toNat
    if q = 0xFFFFFFFF then m
    else match m with
      | some (_, p) => if p < q then some (s, q) else m
      | none => some (s, q)) none

/-- LOG_STATUS (R492). -/
def Hub.logStatus (h : Hub) (r : TagReq) (mfr : Byte) : Hub :=
  h.tagCustom r mfr fun h =>
    let p := h.newest.getD (0xFF, 0xFFFFFFFF)
    let left := match h.tag.lockUntil with | some t => ceilDiv (t - h.clk.elapsed) 1000000000 | none => 0
    let hub := (if h.pwr.vkeepOk then 1 else 0) + (if h.boot.running then 2 else 0) + (if h.tag.writes.isEmpty then 0 else 4)
    h.tagOk (be 1 p.1 ++ be 4 p.2 ++ be 1 left ++ be 1 hub)

/-- Any other command code (R490 to R492). -/
def Hub.tagUnsupported (h : Hub) (r : TagReq) (code : Nat) (mfr : Byte) : Hub :=
  if 1 ≤ code ∧ code ≤ 0x9F then h.onTag r fun h => h.tagErr 0x01
  else if code = 0xA1 ∨ (0xA3 ≤ code ∧ code ≤ 0xDF) then h.tagCustom r mfr fun h => h.tagErr 0x01
  else h.tagSay none

/-- LOCK_EXPIRY: the seconds of OWNER_LOCK have run out. -/
def Hub.lockExpiry (h : Hub) : Hub :=
  match h.tag.lockUntil with
  | none => h
  | some t => if h.clk.elapsed < t then h else (h.setTag fun t => { t with lockUntil := none }).tagNext

/-- FIELD_ABSENT for 1 s: the lock goes, and the tag is ready when a field returns. -/
def Hub.fieldAbsent (h : Hub) : Hub := (h.setTag fun t => { t with lockUntil := none, quiet := false, selected := false }).tagNext

/-! ## Meanings -/

/-- LOG_READ (R496). -/
def execLogRead (block count : Nat) (s : State) : Out := act s fun h => h.logRead block count
/-- LOG_WRITE (R496). -/
def execLogWrite (block : Nat) (data : List Word) (s : State) : Out := act s fun h => h.logWrite block data .direct
/-- RING_ENTRY (R487). -/
def execRingEntry (s : State) : Out := act s Hub.ringEntry
/-- LOG_DROP (R489). -/
def execLogDrop (s : State) : Out := act s Hub.logDrop
/-- LOCK_EXPIRY (R495). -/
def execLockExpiry (s : State) : Out := act s Hub.lockExpiry
/-- FIELD_ABSENT (R495). -/
def execFieldAbsent (s : State) : Out := act s Hub.fieldAbsent
/-- BLOCK_WRITE_TIME (R493). -/
def execBlockWriteTime (block : Nat) (s : State) : Out := act s fun h => h.blockWritten block
/-- INVENTORY (R490). -/
def execInventory (r : TagReq) (afi : Option Byte) (_slots16 : Bool) (maskLen : Nat) (mask : BitVec 64) (s : State) : Out :=
  act s fun h => h.inventory r afi maskLen mask
/-- STAY_QUIET (R490). -/
def execStayQuiet (r : TagReq) (s : State) : Out := act s fun h => h.stayQuiet r
/-- READ_SINGLE_BLOCK (R491). -/
def execReadSingleBlock (r : TagReq) (block : Nat) (s : State) : Out := act s fun h => h.tagRead r 256 block 1
/-- WRITE_SINGLE_BLOCK (R491). -/
def execWriteSingleBlock (r : TagReq) (block : Nat) (data : Word) (s : State) : Out := act s fun h => h.tagWrite r 256 block data
/-- READ_MULTIPLE_BLOCKS (R491). -/
def execReadMultipleBlocks (r : TagReq) (first count : Nat) (s : State) : Out := act s fun h => h.tagRead r 256 first count
/-- SELECT (R490). -/
def execSelect (r : TagReq) (s : State) : Out := act s fun h => h.tagSelect r
/-- RESET_TO_READY (R490). -/
def execResetToReady (r : TagReq) (s : State) : Out := act s fun h => h.tagReady r
/-- GET_SYSTEM_INFO (R490). -/
def execGetSystemInfo (r : TagReq) (s : State) : Out := act s fun h => h.tagInfo r [0xFF, 3]
/-- GET_MULTIPLE_BLOCK_SECURITY_STATUS (R491). -/
def execGetMultipleBlockSecurityStatus (r : TagReq) (first count : Nat) (s : State) : Out :=
  act s fun h => h.tagSecurity r 256 first count
/-- EXT_READ_SINGLE_BLOCK (R491). -/
def execExtReadSingleBlock (r : TagReq) (block : Nat) (s : State) : Out := act s fun h => h.tagRead r 2048 block 1
/-- EXT_WRITE_SINGLE_BLOCK (R491). -/
def execExtWriteSingleBlock (r : TagReq) (block : Nat) (data : Word) (s : State) : Out := act s fun h => h.tagWrite r 2048 block data
/-- EXT_READ_MULTIPLE_BLOCKS (R491). -/
def execExtReadMultipleBlocks (r : TagReq) (first count : Nat) (s : State) : Out := act s fun h => h.tagRead r 2048 first count
/-- EXT_GET_SYSTEM_INFO (R490). -/
def execExtGetSystemInfo (r : TagReq) (s : State) : Out := act s fun h => h.tagInfo r [0xFF, 0x07, 3]
/-- EXT_GET_MULTIPLE_BLOCK_SECURITY_STATUS (R491). -/
def execExtGetMultipleBlockSecurityStatus (r : TagReq) (first count : Nat) (s : State) : Out :=
  act s fun h => h.tagSecurity r 2048 first count
/-- OWNER_LOCK (R495). -/
def execOwnerLock (r : TagReq) (mfr : Byte) (seconds : Nat) (s : State) : Out := act s fun h => h.ownerLock r mfr seconds
/-- LOG_STATUS (R492). -/
def execLogStatus (r : TagReq) (mfr : Byte) (s : State) : Out := act s fun h => h.logStatus r mfr
/-- TAG_UNSUPPORTED (R490). -/
def execTagUnsupported (r : TagReq) (code : Nat) (mfr : Byte) (s : State) : Out := act s fun h => h.tagUnsupported r code mfr

end Sys2Proof.Machine
end

