-- ==== Sys2Proof/Machine/Boot.lean ====
section
/-! DEFINITION. Start-up, firmware images, stored configuration, service levels, the field seal and the test access port (18, with
R381, R382, R401 of 14 and R424 of 15). -/

namespace Sys2Proof.Machine

def Hub.setBoot (h : Hub) (f : Boot → Boot) : Hub := { h with boot := f h.boot }

/-- A record of start-up: written once the firmware runs (R468, R469). -/
def Hub.bootNote (h : Hub) (u : Word) (code cls : Nat) (arg0 : Word) : Hub :=
  if h.boot.running then h.event u code cls 1 arg0 0 else h.setBoot fun b => { b with notes := b.notes ++ [(u, code, cls, arg0)] }

/-! ## Power-up and reset (R446, R447, R467, Table 18-1) -/

/-- Reset release: bay 0 reports its rails good and RST_n is high; LEVEL becomes BOOT (R467). -/
def Hub.releaseReset (h : Hub) : Hub :=
  if h.boot.tr.isNone && h.boot.rst && (h.die 0).rails && h.pwr.vkeepOk then
    (h.setBoot fun b => { b with tr := some h.clk.elapsed }).setLevel .boot
  else h

/-- VKEEP enters its range: the sentinel starts, and a lockout that VKEEP's absence stopped goes on (R467, R484). -/
def Hub.vkeep (h : Hub) : Hub :=
  if h.pwr.vkeepOk then h
  else
    let gone := h.clk.elapsed - h.pwr.vkeepAt
    { h with pwr := { h.pwr with vkeepOk := true, vkeepAt := h.clk.elapsed }, fseal := { h.fseal with lockUntil := h.fseal.lockUntil.map (· + gone) } }

/-- VKEEP leaves its range: the hub resets at once, the coupler closes, and a block write that was going on is cut (R448, R487). What
VKEEP kept of checkpoints and of a thermal shutdown is lost (R416, R460). -/
def Hub.vkeepLoss (h : Hub) : Hub :=
  if !h.pwr.vkeepOk then h
  else
    let h := h.railsOff
    let h := { h with dies := h.dies.map fun (x : Die) =>
      { x with cores := { x.cores with halves := (none, none), pointer := false, through := [] } } }
    { h with pwr := { h.pwr with thermalOff := none, vkeepOk := false, vkeepAt := h.clk.elapsed, st := .off }, tag := { h.tag with ring := [], busy := none } }

/-- BAY_0_STARTS: VKEEP has been in its range for 1 ms, and no bay runs (R446); not in Keep (R398), nor after a thermal shutdown (R460). -/
def Hub.bay0Starts (h : Hub) : Hub :=
  if h.pwr.vkeepOk && decide (h.pwr.vkeepAt + 1000000 ≤ h.clk.elapsed) && h.boot.bays.isEmpty && !h.inKeep && !h.pwr.stays then
    (h.setBoot fun b => { b with bays := [(0, h.clk.elapsed)] }).setPwr fun p => { p with st := .run, keepAt := none }
  else h

/-- True time at which a bay has started. -/
def Hub.bayStart (h : Hub) (b : Nat) : Option Nat := (h.boot.bays.find? fun x => x.1 == b).map Prod.snd

/-- BAY_RAILS_GOOD, within 5 ms of the bay's start: its dies are powered, and the next bay starts 2 ms later (R446, R447). -/
def Hub.bayGood (h : Hub) (b : Nat) : Hub :=
  match h.bayStart b with
  | none => h
  | some t =>
    if h.clk.elapsed < t ∨ t + 5000000 < h.clk.elapsed ∨ (h.die (2 * b)).rails ∨ (h.die (2 * b)).faulted then h
    else
      let h := { h with dies := modAll h.dies [2 * b, 2 * b + 1] fun _ x => { x with rails := true } }
      let h := if b + 1 < h.nBays then h.setBoot fun q => { q with bays := q.bays ++ [(b + 1, h.clk.elapsed + 2000000)] } else h
      if b = 0 then h.releaseReset else h

/-- BAY_TIMEOUT: a bay that is not good 5 ms after its start is left off, its dies out of service (R447). -/
def Hub.bayTimeout (h : Hub) (b : Nat) : Hub :=
  match h.bayStart b with
  | none => h
  | some t =>
    if h.clk.elapsed < t + 5000000 ∨ (h.die (2 * b)).rails ∨ (h.die (2 * b)).faulted then h
    else
      forAll [2 * b, 2 * b + 1] (fun d h =>
        let h := (h.setDie d fun x => { x with faulted := true }).bootNote (unitDie d) 0x0F06 2 1
        { h with flt := { h.flt with retired := h.flt.retired ++ [unitDie d] } }) h

/-- The package is reset as by RST_n low, and released (R381). -/
def Hub.packageReset (h : Hub) : Hub := h.resetDies.releaseReset

/-- PACKAGE_RESET: 10 ms after the response to SYS_RESET or to a network-boot commit (R381, R476). -/
def Hub.resetDue (h : Hub) : Hub :=
  match h.boot.resetAt with
  | some t => if t ≤ h.clk.elapsed ∧ !h.mgmt.owes [0x0103, 0x0106] then h.packageReset else h
  | none => h

/-- BOOT_WATCHDOG: the firmware has not reached ROUGH within 1 s (R472). -/
def Hub.bootWatchdog (h : Hub) : Hub :=
  match h.boot.watchdog with
  | some t => if t + 1000000000 ≤ h.clk.elapsed ∧ h.boot.level = .boot then h.packageReset else h
  | none => h

/-- The supplies of the pin banks change: what is high on a bank that loses its supply reads low from then on (R503, R515). -/
def Hub.setVio (h : Hub) (a b : Bool) : Hub :=
  let lost (bank : Nat) : Bool := h.vio bank && !(if bank = 0 then a else b)
  let pins := (List.range 8).filter fun i => lost (i / 4)
  let h := forAll (pins.filter fun i => (h.tm.tins[i]?).any Tin.level) (fun i h => h.tinEdge i true 0) h
  let h := forAll pins (fun i h => h.trigEdge i true 9) h
  let h := if lost 0 then forAll [0, 1, 2, 3] (fun i h => h.fci i false) h else h
  { h with pwr := { h.pwr with vioA := a, vioB := b } }

/-- RST_N: the level of RST_n and the supplies of the pin banks. Low holds the dies in reset and closes the coupler; high releases them
(R467). RST_n is of bank VIO_A and reads low without its supply (R503). -/
def Hub.rstN (h : Hub) (level vioA vioB : Bool) : Hub :=
  let h := h.setVio vioA vioB
  if level && vioA then (h.setBoot fun b => { b with rst := true }).releaseReset
  else (h.resetDies.setPwr fun p => { p with stays := false }).setBoot fun b => { b with rst := false }

/-- SYS_RESET (R381). -/
def Hub.sysReset (h : Hub) (confirm : Word) : Hub :=
  if confirm ≠ 0xA5A55A5A then h.refuse St.badArg
  else (h.setBoot fun b => { b with resetAt := some (h.clk.elapsed + 10000000) }).ok []

/-! ## Firmware images (R470 to R474, Table 18-3) -/

/-- LENGTH, SVN and SIGNED of an image's header. -/
def Image.len (i : Image) : Nat := fieldAt i.header 12 4
def Image.svn (i : Image) : Nat := fieldAt i.header 16 1
def Image.signed (i : Image) : Bool := (fieldAt i.header 17 1).testBit 0

/-- SHA-256 as the header holds it, and an HMAC as a request carries it: 32 bytes (R471, R483). -/
def hashBytes (b : Bytes) : Bytes := be 32 (Config.sha256 b).toNat
def macBytes (key message : Bytes) : Bytes := be 32 (Config.hmacSha256 key message).toNat

/-- MAGIC, LENGTH and HASH hold (R471). -/
def Image.sound (i : Image) : Bool :=
  fieldAt i.header 0 4 == 0x5E465700 && decide (1 ≤ Image.len i) && decide (Image.len i ≤ 2096640) &&
    decide (Image.len i ≤ i.body.length) && (i.header.drop 32).take 32 == hashBytes (i.body.take (Image.len i))

/-- The signature is acceptable in a stored seal state (R471). -/
def Image.signedFor (i : Image) (st : Nat) : Bool :=
  Config.ecdsaOk (hashBytes (i.header.take 64)) ((i.header.drop 64).take 64) || (!Image.signed i && decide (st ≤ 1))

/-- The image is valid (R471). -/
def Image.valid (i : Image) (st floor : Nat) : Bool :=
  Image.sound i && Image.signedFor i st && (st != 2 || decide (floor ≤ Image.svn i))

/-- What the flash map of Table 18-2 names: the configuration copies 0 to 2 and the images A and B. -/
def flashMap : List FlashRegion :=
  [⟨.copy 0, 0x010000, 0x10000⟩, ⟨.copy 1, 0x020000, 0x10000⟩, ⟨.copy 2, 0x030000, 0x10000⟩, ⟨.image 0, 0x100000, 0x200000⟩,
   ⟨.image 1, 0x300000, 0x200000⟩]

/-- What an address of the flash belongs to: the hub touches no address outside the map (R470). -/
def flashPart (addr : Nat) : Option FlashPart :=
  (flashMap.find? fun (r : FlashRegion) => decide (r.base ≤ addr) && decide (addr < r.base + r.size)).map FlashRegion.part

/-- The first address of a part, and its bytes. -/
def FlashPart.base (p : FlashPart) : Nat := ((flashMap.find? fun (r : FlashRegion) => r.part == p).map FlashRegion.base).getD 0
def FlashPart.size (p : FlashPart) : Nat := ((flashMap.find? fun (r : FlashRegion) => r.part == p).map FlashRegion.size).getD 0

/-- The bytes that a write of an image's slot programs, by their addresses in the flash (Table 18-2). -/
def imageCells (n off : Nat) (data : Bytes) : List (Nat × Byte) := data.zipIdx.map fun x => ((FlashPart.image n).base + off + x.2, x.1)

def Flash.put (f : Flash) (n : Nat) (i : Image) : Flash := if n = 0 then { f with a := some i } else { f with b := some i }

/-- Clears the lowest set bit of TRY. -/
def clearLowest (b : Byte) : Byte := b &&& (b - 1)

/-- The boot ROM may start the image in a slot (R472). -/
def Hub.usable (h : Hub) (n : Nat) : Option Image :=
  (h.flash.slot n).filter fun (i : Image) =>
    Image.valid i h.fseal.st h.flash.floor && (i.confirmed == 0 || i.tryBits != 0)

/-- The slot that the boot ROM picks: the higher GEN, A on a tie (R472). -/
def Hub.pickSlot (h : Hub) : Option (Nat × Image) :=
  match h.usable 0, h.usable 1 with
  | some a, some b => if a.gen.toNat < b.gen.toNat then some (1, b) else some (0, a)
  | some a, none => some (0, a)
  | none, some b => some (1, b)
  | none, none => none

/-- Image selection (R472), else network boot (R475): the coupler opens where the loopback of P00 and P01 passes. -/
def Hub.selectImage (h : Hub) : Hub :=
  match if h.flash.present then h.pickSlot else none with
  | some (n, i) =>
    let j : Image := if i.confirmed = 0 then i else { i with tryBits := clearLowest i.tryBits }
    ({ h with flash := h.flash.put n j }).setBoot fun b => { b with slot := some n, watchdog := some h.clk.elapsed }
  | none =>
    let h := (h.setBoot fun b => { b with netboot := true }).tick
    if Config.selfTestPass h.fresh (unitPort 0) then h.openCoupler else h

/-- A die's boot ROM has run its core self-tests (R469). -/
def Hub.dieReports (coreB dead : List Nat) (d : Nat) (h : Hub) : Hub :=
  let bad := dead.contains d
  let onB := coreB.contains d
  let h := h.setDie d fun x =>
    { x with inService := true, frozen := bad, cores := { x.cores with reported := true, onB := onB, noStandby := onB || bad } }
  let h := if onB || bad then h.raise 7 else h
  if bad then h.bootNote (unitCore d 1) 0x0F09 2 0 else h

/-- The start-up configuration reaches a channel: it exists, and its die is not frozen. A frozen die keeps the reset configuration (R469,
R420). -/
def Hub.takesCfg (h : Hub) (c : Nat) : Bool := decide (c < h.nChans) && !(h.die (chDie c)).frozen

/-- A die that reports while the firmware already runs joins: its ports start, and once the hub serves its streams do (R468). -/
def Hub.joins (d : Nat) (h : Hub) : Hub :=
  let h := h.setDie d fun x => { x with cores := { x.cores with copy := if x.frozen then none else h.image } }
  if h.boot.level = .boot then (forAll [4 * d, 4 * d + 1, 4 * d + 2, 4 * d + 3] (fun p h => h.portStart p) h).moveLead
  else
    let chs := ((List.range 128).map fun i => 128 * d + i).filter fun c => h.takesCfg c && h.powered (chQuad c)
    (forAll chs Hub.skimOn (h.dieIn d)).reSweep d

/-- How the boot ROM reads the flash: without a valid SFDP table with command 0x03; else the table's quad read, or single-bit reads at
25 MHz where that needs more dummy clocks than the boot ROM can give, or the table names none (R470, R524; log entry 144). -/
def flashRead : Option Sfdp → FlashRead
  | none => ⟨0x03, 3, false, 10⟩
  | some t =>
    let width := if t.addr4 then 4 else 3
    match t.quad with
    | some (cmd, dummy) => if dummy ≤ Config.bootDummy then ⟨cmd, width, true, 50⟩ else ⟨0x03, width, false, 25⟩
    | none => ⟨0x03, width, false, 25⟩

/-- BOOT_ROM: the dies that report, the lead, and the image (R468, R469, R472; log entry 148). -/
def Hub.bootRom (h : Hub) (coreA coreB dead : List Nat) (flashOk : Bool) (sfdp : Option Sfdp) : Hub :=
  let here := (List.range h.nDies).filter fun d =>
    (coreA ++ coreB ++ dead).contains d && (h.die d).rails && !(h.die d).faulted && !(h.die d).cores.reported &&
      decide (h.clk.elapsed < h.boot.tr.getD 0 + 250000000)
  if h.boot.tr.isNone then h
  else if h.boot.running then forAll here (fun d h => (Hub.dieReports coreB dead d h).joins d) h
  else if h.boot.level ≠ .boot then h
  else
    let h := forAll here (Hub.dieReports coreB dead) h
    let lead := ((List.range h.nDies).find? h.coreRuns).getD 0
    let h := { h with flows := h.flows.filter (fun (f : Flow) => f.key.kind != 3) ++ [Flow.init ⟨lead, 3, 0⟩] }
    let h := h.setBoot fun b => { b with lead := lead }
    let h := { h with flash := { h.flash with present := flashOk, read := flashRead sfdp } }
    if !(h.die 0).inService ∨ h.boot.netboot ∨ h.boot.watchdog.isSome then h else h.selectImage

/-- DIE_BOOT_TIMEOUT: a die that has not reported by t_r + 250 ms is out of service (R468). -/
def Hub.dieBootTimeout (h : Hub) (d : Nat) : Hub :=
  match h.boot.tr with
  | none => h
  | some t =>
    if h.clk.elapsed < t + 250000000 ∨ h.nDies ≤ d ∨ (h.die d).cores.reported ∨ (h.die d).faulted then h
    else
      let h := (h.setDie d fun x => { x with faulted := true }).bootNote (unitDie d) 0x0F06 2 2
      { h with flt := { h.flt with retired := h.flt.retired ++ [unitDie d] } }

/-- A header or body that holds bytes up to a length: flash reads as itself where nothing has been written (log entry 15). -/
def fillTo (img base n : Nat) (b : Bytes) : Bytes :=
  b ++ (List.range (n - b.length)).map fun i => Config.flashByte img (base + b.length + i)

/-- A list with bytes laid over it from an offset. -/
def overlay (b : Bytes) (off : Nat) (data : Bytes) : Bytes := b.take off ++ data ++ b.drop (off + data.length)

/-- An image with bytes written at an offset of its slot (Table 18-3). -/
def Image.write (i : Image) (img off : Nat) (data : Bytes) : Image :=
  if off < 128 then { i with header := overlay i.header off data }
  else { i with body := overlay (fillTo img 512 (off - 512 + data.length) i.body) (off - 512) data }

/-- A slot's image, or what blank flash holds. -/
def imageOr (img : Nat) (i : Option Image) : Image :=
  i.getD { header := fillTo img 0 128 [], body := [], tryBits := Config.flashByte img 128, confirmed := Config.flashByte img 129,
           gen := BitVec.ofNat 32 (unbe ((List.range 4).map fun k => Config.flashByte img (132 + k))) }

/-- SYS_FW_WRITE (R473, R476, R382): what is written lies in the image's region of the flash map (R470). -/
def Hub.fwWrite (h : Hub) (img off : Nat) (data : Bytes) : Hub :=
  let last := off + data.length
  if 1 < img ∨ h.boot.slot = some img ∨ 4072 < data.length ∨ !(decide (last ≤ 128) || (decide (512 ≤ off) && decide (last ≤ (FlashPart.image img).size))) then
    h.refuse St.badArg
  else if h.flash.present then
    ({ h with flash := h.flash.put img (Image.write (imageOr img (h.flash.slot img)) img off data) }).ok []
  else if h.boot.netboot then
    ({ h with flash := { h.flash with staged := some (Image.write (imageOr 2 h.flash.staged) 2 off data) } }).ok []
  else h.refuse St.fault

/-- GEN of the running image. -/
def Hub.runningGen (h : Hub) : Option Word :=
  match h.boot.slot with
  | some n => (h.flash.slot n).map Image.gen
  | none => h.flash.staged.map Image.gen

/-- The status of a commit: the image is checked under R471 against the stored seal state (R382, R473). -/
def Hub.commitStatus (h : Hub) (i : Image) : Nat :=
  if !Image.sound i then St.badArg
  else if !Image.signedFor i h.fseal.st then (if h.fseal.st = 2 then St.isSealed else St.badArg)
  else if !Image.valid i h.fseal.st h.flash.floor then St.badArg
  else St.ok

/-- SYS_FW_COMMIT (R473, R476). -/
def Hub.fwCommit (h : Hub) (img : Nat) : Hub :=
  let toSlot := h.flash.present
  if 1 < img ∨ h.boot.slot = some img then h.refuse St.badArg
  else if !toSlot && !h.boot.netboot then h.refuse St.fault
  else match if toSlot then h.flash.slot img else h.flash.staged with
    | none => h.refuse St.badArg
    | some i =>
      let st := h.commitStatus i
      if st ≠ St.ok then h.refuse st
      else
        let h := h.tick
        let gen := match h.runningGen with | some g => g + 1 | none => Config.netbootGen h.fresh
        let j : Image := { i with gen := gen, tryBits := 0x07, confirmed := 0xFF }
        let now := h.clk.elapsed
        if toSlot then
          let h := { h with flash := h.flash.put img j }
          (if h.boot.netboot then h.setBoot fun b => { b with resetAt := some (now + 10000000) } else h).ok []
        else
          (({ h with flash := { h.flash with staged := some j } }).setBoot fun b =>
            { b with netboot := false, slot := none, tr := some now, watchdog := some now }).ok []

/-! ## Stored configuration (R424, R381) -/

/-- Copies whose CRC holds. -/
def Flash.goodCopies (f : Flash) : List CfgCopy := (f.copies.filterMap id).filter CfgCopy.crcOk

/-- The highest generation of the good copies. -/
def Flash.topGen (f : Flash) : Nat := (f.goodCopies.map fun (c : CfgCopy) => c.gen.toNat).foldl max 0

/-- The copy that is used: of the highest generation; none where two of it differ (R424). -/
def Flash.winner (f : Flash) : Option CfgCopy :=
  match f.goodCopies.filter fun (c : CfgCopy) => c.gen.toNat == f.topGen with
  | c :: r => if r.all fun x => x == c then some c else none
  | [] => none

/-- The present configuration. -/
def Hub.cfgNow (h : Hub) (gen : Word) : CfgCopy :=
  let all := List.range h.nChans
  { crcOk := true, gen := gen, descs := h.chans.map Chan.latest, skims := all.filter fun c => (h.ch c).skimEn,
    raws := all.filter fun c => (h.ch c).rawEn,
    routes := (h.flows.filter fun (f : Flow) => decide (f.key.kind ≤ 3)).map fun (f : Flow) => (f.key, f.dest),
    caps := (h.caps.filterMap id).map Capture.params, time := h.tm.cfgNext.getD h.tm.cfg,
    sep := [h.sep.ctl, h.sep.tick, h.sep.wait, h.sep.fb], reds := h.chans.map Chan.latestRed, links := h.ports.map Port.cfg,
    rawGroup := h.strm.rawGroup, pps := (h.tm.ppsA.comp, h.tm.ppsB.comp), asyms := h.ports.map Port.asym, tins := h.tm.tins.map Tin.cfg,
    churns := all.flatMap fun c => [true, false].filterMap fun raw =>
      ((h.ch c).use raw).bind fun (u : ChurnUse) => if u.leaving then none else some (raw, c, u.mode),
    churnCfg := h.dies.map fun (x : Die) => x.churn.cfg, strmCfg := h.strm.cfg, fc := h.strm.fc, localWm := h.strm.localWm,
    wms := h.ports.map Port.wm }

/-- SYS_CFG_SAVE: all three copies at the highest generation plus 1; each is verified (R381, R424). -/
def Hub.cfgSave (h : Hub) : Hub :=
  let top := h.flash.topGen
  if !h.flash.present ∨ top = 0xFFFFFFFF then h.refuse St.fault
  else
    let c := h.cfgNow (BitVec.ofNat 32 (top + 1))
    let n := h.flash.verified
    let ok (i : Nat) : Bool := Config.flashVerify n i
    let h := { h with flash := { h.flash with
      verified := n + 1, copies := (List.range 3).map fun i => some { c with crcOk := ok i } } }
    if (List.range 3).all ok then (h.setBoot fun b => { b with cfgSplit := false }).ok (be 4 c.gen.toNat) else h.refuse St.fault

/-- The copies are read as the firmware starts: a split is recorded, else the winner is written over the other copies (R424). -/
def Hub.readCopies (h : Hub) : Hub :=
  if !h.flash.present ∨ h.flash.goodCopies.isEmpty then h
  else match h.flash.winner with
    | some c => { h with flash := { h.flash with copies := [some c, some c, some c] } }
    | none => (h.setBoot fun b => { b with cfgSplit := true }).notice unitHub 0x0F0B (argN h.flash.topGen) 0

/-- The stored configuration that applies. -/
def Hub.stored (h : Hub) : Option CfgCopy := if h.boot.cfgSplit || !h.flash.present then none else h.flash.winner

/-- Gives a flow the destination that was stored. -/
def Hub.applyRoute (r : FlowKey × Dest) (h : Hub) : Hub :=
  match r.2 with
  | .port p => h.toPort r.1 p
  | .localWindow => h.toLocal r.1
  | .off => (h.setFlow r.1 fun f => f.reroute .off).flowTouch r.1.die

/-- Applies the whole stored configuration (R478): descriptors and RED_CFG take effect under R65; the settings that it holds are those
of `CfgCopy`, and a frozen die takes none (R469; log entry 88). -/
def Hub.applyCfg (h : Hub) (c : CfgCopy) : Hub :=
  let keep := h.mgmt.reply
  let all := List.range h.nChans
  let h := forAll c.links.zipIdx (fun x h => if x.2 < h.nPorts ∧ x.1 ≠ (h.prt x.2).cfg then h.linkCfgSet x.2 x.1 else h) h
  let h := (h.timeCfgSet c.time).timePpsSet c.pps.1 c.pps.2
  let h := forAll c.asyms.zipIdx (fun x h => if x.2 < h.nPorts then h.timeAsymSet x.2 x.1 else h) h
  let h := forAll c.tins.zipIdx (fun x h => h.timeTinSet x.2 x.1) h
  let h := h.strmCfgSet c.strmCfg
  let h := forAll c.fc.zipIdx (fun x h => h.strmFcSet x.2 x.1) h
  let h := forAll ((c.localWm, 0xFE) :: c.wms.zipIdx) (fun x h => h.strmWmSet x.2 x.1) h
  let h := forAll c.churnCfg.zipIdx (fun x h => if h.coreRuns x.2 then h.churnCfgSet [x.2] x.1 else h) h
  let h := forAll c.descs.zipIdx (fun x h =>
    if h.takesCfg x.2 then h.accept x.2 ⟨some x.1, none, some (c.reds.getD x.2 (h.ch x.2).red.cfg), 0, [], false, h.clk.elapsed⟩ else h) h
  let h := forAll c.routes Hub.applyRoute h
  let h := forAll (all.filter fun i => !c.skims.contains i) Hub.skimOff h
  let h := forAll (all.filter fun i => h.takesCfg i && c.skims.contains i) Hub.skimOn h
  let h := if c.rawGroup.isEmpty then h else h.strmRawGroup c.rawGroup
  let h := Hub.rawOn (if h.strm.rawGroup.isEmpty then [] else c.raws.filter h.takesCfg) h
  let h := forAll c.churns (fun x h => if h.takesCfg x.2.1 then h.churnSet (if x.1 then 0 else 1) x.2.2 [x.2.1] else h) h
  let h := forAll c.caps (fun p h => h.capArm p) h
  let h := h.sepCfgSet (c.sep.getD 0 0) (c.sep.getD 1 0) (c.sep.getD 2 0) (c.sep.getD 3 0) none h.tm.now
  h.withReply keep

/-! ## Service levels (R477, R478, Table 18-4) -/

/-- FIRMWARE_START: step 8 of Table 18-1 (R424, R468, R325). -/
def Hub.firmwareStart (h : Hub) (loopbackOk : Bool) : Hub :=
  if h.boot.watchdog.isNone ∨ h.boot.running ∨ !(h.die 0).inService then h
  else
    let img := h.image
    let rel := match img with | some i => wordAt i.header 4 | none => 0
    let h := { h with dbw := { h.dbw with fwrel := setBit rel 15 (h.boot.slot == some 1) } }
    let notes := h.boot.notes
    let h := h.setBoot fun b => { b with running := true, notes := [] }
    let h := { h with dies := h.dies.map fun (x : Die) => if x.inService && !x.frozen then { x with cores := { x.cores with copy := img } } else x }
    let h := forAll notes (fun (n : Word × Nat × Nat × Word) h => h.event n.1 n.2.1 n.2.2.1 1 n.2.2.2 0) h
    let h := h.readCopies
    let h := match h.stored with
      | some c => forAll c.descs.zipIdx (fun x h => if h.takesCfg x.2 then h.accept x.2 ⟨none, some x.1.afe, none, 0, [], false, h.clk.elapsed⟩ else h) h
      | none => h
    let h := { h with reps := h.reps.map fun (r : Rep) => { r with hiZ := false } }
    let h := if loopbackOk then h.openCoupler else h.retireLane 0 0 0x0F05 1 false
    forAll ((List.range h.nPorts).drop 2) (fun p h => h.portStart p) h

/-- Starts the HK flow and the SKIM, RED and DET flows of the dies in service (R246); RAW flows start as channels take them up. -/
def Hub.startFlows (h : Hub) : Hub :=
  let now := h.tm.now
  ({ h with flows := h.flows.map fun (f : Flow) =>
      if decide (f.key.kind ≤ 2) && (h.die f.key.die).inService then f.start now else f }).startHk

/-- The image that runs is confirmed, and the version floor follows it on a SEALED part (R472, R474). -/
def Hub.confirmImage (h : Hub) : Hub :=
  let img := match h.boot.slot with | some n => h.flash.slot n | none => h.flash.staged
  match img with
  | none => h
  | some i =>
    let j : Image := { i with confirmed := 0 }
    let f := match h.boot.slot with | some n => h.flash.put n j | none => { h.flash with staged := some j }
    { h with flash := if h.fseal.st = 2 then { f with floor := max f.floor (Image.svn i) } else f }

/-- THERMAL_OFF is recorded at the next start-up and cleared (R460). -/
def Hub.thermalNote (h : Hub) : Hub :=
  match h.pwr.thermalOff with
  | some t => (h.setPwr fun p => { p with thermalOff := none }).notice unitHub 0x0A04 (argI t) 0
  | none => h

/-- ROUGH: every channel of a powered quadrant delivers skim to P00, and the start-up pass begins (R435, R472, R477). -/
def Hub.rough (h : Hub) : Hub :=
  if !h.boot.running ∨ h.boot.level ≠ .boot then h
  else
    let h := (h.setLevel .rough).setBoot fun b => { b with watchdog := none }
    let h := h.startFlows.thermalNote
    let chs := (List.range h.nChans).filter fun c => h.takesCfg c && (h.die (chDie c)).inService && h.powered (chQuad c)
    let h := forAll chs Hub.skimOn h
    let h := forAll (List.range h.nDies) (fun d h => h.reSweep d) h
    let h := h.confirmImage.tagRough
    (h.newPass.setCal fun k => { k with passNo := 0, pass := h.eligible, passRuns := true }).passEnds

/-- The stored configuration is applied once the start-up pass has ended, and P00 is released for step-up (R310, R478; log entry
88). -/
def Hub.applyStored (h : Hub) : Hub :=
  if h.cal.passDone && !h.boot.cfgApplied then
    let h := match h.stored with | some c => h.applyCfg c | none => h
    (h.setBoot fun b => { b with cfgApplied := true }).releaseP00
  else h

/-- FULL: a step of start-up after ROUGH; FULL or DEGRADED once the conditions of R478 hold. -/
def Hub.full (h : Hub) : Hub :=
  if !h.boot.level.serves then h
  else
    let h := h.applyStored
    if h.boot.level = .rough ∧ h.cal.passDone ∧ h.boot.cfgApplied ∧ h.boot.p00Settled then (h.setLevel .full).reLevel else h

/-- Bound of R478 in ns. -/
def Variant.bound : Variant → Nat
  | .eh2 => 8000000000
  | .eh4 => 12000000000
  | .eh8 => 20000000000

/-- STARTUP_LATE (R478). -/
def Hub.startupLate (h : Hub) : Hub :=
  match h.boot.tr with
  | none => h
  | some t =>
    if h.boot.level ≠ .rough ∨ h.clk.elapsed < t + h.ident.variant.bound then h
    else
      let unmet := (if h.cal.passDone then 0 else 1) + (if h.boot.cfgApplied then 0 else 2) + (if h.boot.p00Settled then 0 else 4)
      (((h.notice unitHub 0x0B01 (argN unmet) 0).setBoot fun b => { b with late := true }).setLevel .full).reLevel

/-- SYS_INFO (Table 14-2). -/
def Hub.sysInfo (h : Hub) : Hub :=
  h.ok (be 6 h.ident.serial.toNat ++ be 1 h.ident.variant.number ++ be 1 0xB1 ++ be 4 h.dbw.fwrel.toNat ++ be 1 h.boot.level.code ++
    be 1 (h.dieBits Die.inService) ++ be 1 h.boot.lead ++ pad 1)

/-! ## The field seal (R401, R479 to R484) -/

def Hub.setSeal (h : Hub) (f : Seal → Seal) : Hub := { h with fseal := f h.fseal }

/-- A change of SEAL_STATE raises SEAL_CHG; a port under LINK_MANUAL is handed back when OPEN is left (R309, R480). -/
def Hub.sealStep (h : Hub) (f : Seal → Seal) : Hub :=
  let w := h.sealWord
  let opened := h.sealOpen
  let h := h.setSeal f
  let h := h.setSeal fun q => { q with lockSeen := h.lockMin }
  let h := if opened && !h.sealOpen then h.handAllBack else h
  let h := h.tapSeal
  if h.sealWord = w then h else h.raise 6

/-- A lockout runs (R484). -/
def Hub.lockedOut (h : Hub) : Bool := match h.fseal.lockUntil with | some t => decide (h.clk.elapsed < t) | none => false

/-- The nonce held, where it has not expired (R401). -/
def Hub.nonceHeld (h : Hub) : Option (BitVec 128) :=
  match h.fseal.nonce with
  | some (n, t) => if h.clk.elapsed < t + 60000000000 then some n else none
  | none => none

/-- SEAL_NONCE. -/
def Hub.sealNonce (h : Hub) : Hub :=
  if h.lockedOut then h.refuse St.isSealed
  else
    let n := Config.nonce h.fseal.nonces
    (h.setSeal fun q => { q with nonce := some (n, h.clk.elapsed), nonces := q.nonces + 1 }).ok (be 16 n.toNat)

/-- Minutes of the lockout that a number of failures starts (R484). -/
def lockMinutes (fails : Nat) : Nat := if fails < 5 then 0 else min (10 * 2 ^ (fails - 5)) 1440

/-- SEAL_UNSEAL (R483, R484). -/
def Hub.sealUnseal (h : Hub) (mac : Bytes) : Hub :=
  match h.nonceHeld with
  | none => (h.setSeal fun q => { q with nonce := none }).refuse St.notFound
  | some n =>
    let good := match h.fseal.key with
      | some k => mac == macBytes k (be 16 n.toNat ++ be 6 h.ident.serial.toNat)
      | none => false
    if good then (h.sealStep fun q => { q with nonce := none, session := q.session || q.st == 2, fails := 0 }).ok []
    else
      let fails := satInc 8 h.fseal.fails
      let m := lockMinutes fails
      (h.sealStep fun q =>
        { q with nonce := none, fails := fails, lockUntil := if m = 0 then q.lockUntil else some (h.clk.elapsed + m * 60000000000) }).refuse
          St.isSealed

/-- SEAL_CLOSE. -/
def Hub.sealClose (h : Hub) : Hub := (h.sealStep fun q => { q with session := false }).ok []

/-- A permitted transition of the stored state (Table 18-6). -/
def Seal.permits (q : Seal) (st : Nat) : Bool :=
  (q.st == 0 && st == 1) || (q.st == 1 && st == 2) || (q.st == 2 && q.session && st == 1)

/-- SEAL_SET (R480). -/
def Hub.sealSet (h : Hub) (st : Nat) : Hub :=
  let old := h.fseal.st
  if 2 < st ∨ (st = 2 ∧ h.fseal.key = none) then h.refuse St.badArg
  else if st = old then h.ok []
  else if !h.fseal.permits st then h.refuse St.isSealed
  else ((h.sealStep fun q => { q with st := st, session := false }).notice unitHub 0x0B02 (argN old) (argN st)).ok []

/-- SEAL_KEY_SET (R481). -/
def Hub.sealKeySet (h : Hub) (key : Bytes) : Hub :=
  if h.fseal.st = 2 ∧ !h.fseal.session then h.refuse St.isSealed
  else (h.sealStep fun q => { q with key := some key, fails := 0, lockUntil := none }).ok []

/-- NONCE_EXPIRY (R401). -/
def Hub.nonceExpiry (h : Hub) : Hub := if h.nonceHeld.isSome then h else h.setSeal fun q => { q with nonce := none }

/-- LOCKOUT: the count-down, and its end where its time is up; FAILS keeps its value (R484). The minutes shown are part of SEAL_STATE: each
change of them raises SEAL_CHG (Table 13-9). -/
def Hub.lockout (h : Hub) : Hub :=
  match h.fseal.lockUntil with
  | some t =>
    let h := if h.pwr.vkeepOk && decide (t ≤ h.clk.elapsed) then h.setSeal fun q => { q with lockUntil := none } else h
    if h.pwr.vkeepOk ∧ h.lockMin ≠ h.fseal.lockSeen then (h.setSeal fun q => { q with lockSeen := h.lockMin }).raise 6 else h
  | none => h

/-! ## Test access port (R482, Table 18-7) -/

/-- An instruction is in force: its pins (1 EXTEST, 2 HIGHZ, 3 CLAMP, 4 EXTEST_PULSE, 5 EXTEST_TRAIN, 0 the system's). -/
def Hub.tapIs (h : Hub) (ir pins : Nat) (dr : Word) : Hub := { h with tap := ⟨ir, dr, pins, h.tap.cells⟩ }

/-- BYPASS: one bit that captures 0. -/
def Hub.tapBypass (h : Hub) (ir : Nat) : Hub := h.tapIs ir 0 0

/-- SAMPLE/PRELOAD: the boundary register captures the balls and takes what is shifted in, which no row carries: what it then holds and
shows is free (log entries 15, 197). -/
def Hub.tapSample (h : Hub) : Hub :=
  let h := h.tick
  { h with tap := ⟨0x02, Config.scanWord h.fresh, 0, h.fresh⟩ }

/-- A ball's boundary cell sees no ball: of P00 and P01 while the coupler is closed (R482). -/
def Hub.cellCut (h : Hub) : TestBall → Bool
  | .lane p _ _ _ => decide (p < 2) && h.flt.closed
  | _ => false

/-- What sets a ball's output under the instruction in force: EXTEST, EXTEST_PULSE, EXTEST_TRAIN and CLAMP drive the preloaded cell,
HIGHZ floats every ball, the others leave the ball to the system. The pulses and trains are of the lanes' transmit balls (R482, IEEE
1149.6; log entry 197). -/
def Hub.ballDrive (h : Hub) (b : TestBall) : BallDrive :=
  let v := Config.boundary h.tap.cells b.cell.1 b.cell.2
  if h.cellCut b then .system
  else match h.tap.pinMode with
    | 1 | 3 => .cell v
    | 2 => .hiZ
    | 4 => (match b with | .lane _ _ true _ => .pulse v | _ => .cell v)
    | 5 => (match b with | .lane _ _ true _ => .train v | _ => .cell v)
    | _ => .system

/-- The level of a package-level ball that the hub drives, by its index of Table 20-4; none is undriven. -/
def Hub.fieldPin (h : Hub) (i : Nat) : Option Bool :=
  match h.ballDrive (.field i) with
  | .cell v | .pulse v | .train v => some v
  | .hiZ => none
  | .system =>
    if 22 ≤ i ∧ i ≤ 25 then h.sclkPin (i - 22)
    else if 26 ≤ i ∧ i ≤ 41 then h.repPin (i - 26)
    else if 42 ≤ i ∧ i ≤ 45 then h.drives 0 (h.strm.fco.getD (i - 42) false)
    else if i = 51 ∧ h.irqLow then some false
    else none

/-- A debug instruction: BYPASS where debug is not permitted or the code is not one of 0x40 to 0x4F; else the instruction is in force,
and what its register holds is open: the spec gives the operations of JTAG debug no effect (log entry 94). -/
def Hub.tapDebug (h : Hub) (code : Nat) : Hub :=
  if h.debugOn ∧ 0x40 ≤ code ∧ code ≤ 0x4F then
    let h := h.tick
    h.tapIs code 0 (Config.scanWord h.fresh)
  else h.tapBypass code

/-! ## Meanings -/

/-- VKEEP (R467). -/
def execVkeep (s : State) : Out := act s Hub.vkeep
/-- VKEEP_LOSS (R448). -/
def execVkeepLoss (s : State) : Out := act s Hub.vkeepLoss
/-- BAY_0_STARTS (R446). -/
def execBay0Starts (s : State) : Out := act s Hub.bay0Starts
/-- BAY_RAILS_GOOD (R446). -/
def execBayRailsGood (bay : Nat) (s : State) : Out := act s fun h => h.bayGood bay
/-- BAY_TIMEOUT (R447). -/
def execBayTimeout (bay : Nat) (s : State) : Out := act s fun h => h.bayTimeout bay
/-- RST_N (R467). -/
def execRstN (pins : ResetPins) (s : State) : Out := act s fun h => h.rstN pins.high pins.vioA pins.vioB
/-- PACKAGE_RESET (R381). -/
def execPackageReset (s : State) : Out := act s Hub.resetDue
/-- BOOT_ROM (R469). -/
def execBootRom (coreA coreB dead : List Nat) (flash : FlashSeen) (s : State) : Out :=
  act s fun h => h.bootRom coreA coreB dead flash.ok flash.sfdp
/-- DIE_BOOT_TIMEOUT (R468). -/
def execDieBootTimeout (die : Nat) (s : State) : Out := act s fun h => h.dieBootTimeout die
/-- BOOT_WATCHDOG (R472). -/
def execBootWatchdog (s : State) : Out := act s Hub.bootWatchdog
/-- FIRMWARE_START (R472). -/
def execFirmwareStart (loopbackOk : Bool) (s : State) : Out := act s fun h => h.firmwareStart loopbackOk
/-- ROUGH (R477). -/
def execRough (s : State) : Out := act s Hub.rough
/-- FULL (R478). -/
def execFull (s : State) : Out := act s Hub.full
/-- STARTUP_LATE (R478). -/
def execStartupLate (s : State) : Out := act s Hub.startupLate
/-- SYS_INFO (R376). -/
def execSysInfo (s : State) : Out := act s Hub.sysInfo
/-- SYS_RESET (R381). -/
def execSysReset (confirm : Word) (s : State) : Out := act s fun h => h.sysReset confirm
/-- SYS_CFG_SAVE (R424). -/
def execSysCfgSave (s : State) : Out := act s Hub.cfgSave
/-- SYS_FW_WRITE (R473). -/
def execSysFwWrite (image offset : Nat) (data : Bytes) (s : State) : Out := act s fun h => h.fwWrite image offset data
/-- SYS_FW_COMMIT (R473). -/
def execSysFwCommit (image : Nat) (s : State) : Out := act s fun h => h.fwCommit image
/-- SEAL_GET (R479). -/
def execSealGet (s : State) : Out := act s fun h => h.ok (be 4 h.sealWord.toNat)
/-- SEAL_NONCE (R401). -/
def execSealNonce (s : State) : Out := act s Hub.sealNonce
/-- SEAL_UNSEAL (R483). -/
def execSealUnseal (mac : Bytes) (s : State) : Out := act s fun h => h.sealUnseal mac
/-- SEAL_CLOSE (R401). -/
def execSealClose (s : State) : Out := act s Hub.sealClose
/-- SEAL_SET (R480). -/
def execSealSet (st : Nat) (s : State) : Out := act s fun h => h.sealSet st
/-- SEAL_KEY_SET (R481). -/
def execSealKeySet (key : Bytes) (s : State) : Out := act s fun h => h.sealKeySet key
/-- NONCE_EXPIRY (R401). -/
def execNonceExpiry (s : State) : Out := act s Hub.nonceExpiry
/-- LOCKOUT (R484). -/
def execLockout (s : State) : Out := act s Hub.lockout
/-- EXTEST (R482). -/
def execExtest (s : State) : Out := act s fun h => h.tapIs 0x00 1 0
/-- IDCODE (R482). -/
def execIdcode (s : State) : Out := act s fun h => h.tapIs 0x01 0 h.ident.idcode
/-- SAMPLE/PRELOAD (R482). -/
def execSamplePreload (s : State) : Out := act s Hub.tapSample
/-- HIGHZ (R482). -/
def execHighz (s : State) : Out := act s fun h => h.tapIs 0x05 2 0
/-- CLAMP (R482). -/
def execClampInstruction (s : State) : Out := act s fun h => h.tapIs 0x06 3 0
/-- EXTEST_PULSE (R482). -/
def execExtestPulse (s : State) : Out := act s fun h => h.tapIs 0x09 4 0
/-- EXTEST_TRAIN (R482). -/
def execExtestTrain (s : State) : Out := act s fun h => h.tapIs 0x0A 5 0
/-- DEBUG_INSTRUCTION (R482). -/
def execDebugInstruction (code : Nat) (s : State) : Out := act s fun h => h.tapDebug code
/-- BYPASS (R482). -/
def execBypass (s : State) : Out := act s fun h => h.tapBypass 0xFF

end Sys2Proof.Machine
end

