-- ==== Sys2Proof/Machine/Krenmail.lean ====
section
/-! DEFINITION. The package manager: running a request (13, R359, R365, R368) and scheduled actions (R121 to R126, R402, R403,
R418). -/

namespace Sys2Proof.Machine

/-! ## SYS_REQSTAT (R365) -/

/-- State and status of a request by its id and tag. -/
def Hub.requestState (h : Hub) (reqId tag : Nat) : Option (Nat × Nat) :=
  let m := h.cacheExpiry.mgmt
  let same (x : ReqHeader) : Bool := x.reqId == reqId && x.tag == tag
  if m.queue.any fun (x : Request) => same x.hdr then some (0, 0)
  else if m.started.any fun (x : Request) => same x.hdr then some (1, 0)
  else match m.cache.find? fun (e : CacheEntry) => e.reqId == reqId && e.tag == tag with
    | some e => some (if e.status = St.abandoned then 3 else 2, e.status)
    | none => none

def Hub.reqstat (h : Hub) (reqId tag : Nat) : Hub :=
  match h.requestState reqId tag with
  | some (s, st) => h.ok (be 1 s ++ pad 1 ++ be 2 st)
  | none => h.refuse St.notFound

/-! ## A command's rules and effect -/

/-- Runs a Krenmail command other than those of SCHED; `job` is the scheduled action and its T where one runs it (R123). What is not
a Krenmail command is not reached by an opcode. -/
def Hub.runCmd (h : Hub) (job : Option (Word × Nat)) (i : Instr) : Hub :=
  let t := job.map Prod.snd
  let from' := t.getD h.tm.now
  match i with
  | .sysInfo => h.sysInfo
  | .sysReqstat r g => h.reqstat r g
  | .sysReset w => h.sysReset w
  | .sysCfgSave => h.cfgSave
  | .sysFwWrite m o d => h.fwWrite m o d
  | .sysFwCommit m => h.fwCommit m
  | .timeGet => h.timeGet
  | .timeSet v => h.timeSet v
  | .timeCfgSet w => h.timeCfgSet w
  | .timeCfgGet => h.timeCfgGet
  | .timePpsSet a b => h.timePpsSet a b
  | .timeAsymSet p v => h.timeAsymSet p v
  | .timeTinSet n w => h.timeTinSet n w
  | .timeTinGet n => h.timeTinGet n
  | .afeSet c w => h.afeSet c w (h.boundsFrom t) job
  | .afeGet c => h.afeGet c
  | .afeSync c => h.afeSync c
  | .afeGuard o w => h.afeGuard o w
  | .afeRepSet o w => h.afeRepSet o w
  | .afeRepGet o => h.afeRepGet o
  | .afeStatus a b => h.afeStatus a b
  | .afeClear c => h.afeClear c
  | .chanSet c w => h.chanSet c w (h.boundsFrom t) job
  | .chanGet c => h.chanGet c
  | .chanQuery c => h.chanQuery c
  | .chanCoefLoad c w => h.chanCoefLoad c w
  | .chanCoefSwitch c x => h.chanCoefSwitch c x t (job.map Prod.fst)
  | .trigPinSet p w => h.trigPinSet p w
  | .trigPinGet p => h.trigPinGet p
  | .trigKonSet g p k w l r u => h.trigKonSet g p k w l r u
  | .trigArrSet g l => h.trigArrSet g l
  | .trigForce => h.trigForce
  | .trigStatus c => h.trigStatus c
  | .capArm p => h.capArm p
  | .capDisarm n a => h.capDisarm n a
  | .capTrig n => h.capTrig n ((job.map Prod.fst).getD 0) from'
  | .capStatus n => h.capStatus n
  | .capPartSet d w => h.capPartSet d w
  | .capPartGet d => h.capPartGet d
  | .capWmSet d w => h.capWmSet d w
  | .capWmGet d => h.capWmGet d
  | .capList d q => h.capList d q
  | .capRead c o n d => h.capRead c.toNat o n d
  | .capFree c => h.capFree c
  | .capSend c => h.capSend c
  | .capRedSet c w => h.capRedSet c w (h.boundsFrom none)
  | .capRedGet c => h.capRedGet c
  | .sepLoad d n o => h.sepLoad d n o
  | .sepSwitch d x => h.sepSwitch d x t (job.map Prod.fst)
  | .sepCfgSet a b c d => h.sepCfgSet a b c d t (((job.bind fun j => h.findAction j.1).map Action.accepted).getD h.tm.now)
  | .sepCfgGet => h.sepCfgGet
  | .sepStatus d => h.sepStatus d
  | .strmSet k e c => h.strmSet k e c
  | .strmRoute f p => h.strmRoute f p
  | .strmLocal f => h.strmLocal f
  | .strmAck r e => h.strmAck r e
  | .strmFlush k f => h.strmFlush k f
  | .strmWmSet p w => h.strmWmSet p w
  | .strmWmGet p => h.strmWmGet p
  | .strmFcSet p w => h.strmFcSet p w
  | .strmRawGroup p => h.strmRawGroup p
  | .strmXstat d => h.strmXstat d
  | .strmCfgSet w => h.strmCfgSet w
  | .strmCfgGet => h.ok (be 4 h.strm.cfg.toNat)
  | .churnSet u m c => h.churnSet u m c
  | .churnCfgSet d w => h.churnCfgSet d w
  | .churnCfgGet d => h.churnCfgGet d
  | .churnSave c u => h.churnSave c u
  | .churnStateRead a o n => h.churnStateRead a o n
  | .churnStateWrite a u o d => h.churnStateWrite a u o d
  | .churnRestore c u a => h.churnRestore c u a
  | .churnStateFree a => h.churnStateFree a
  | .churnJobStart c o m b => h.churnJobStart c.toNat o m b
  | .churnJobRead j o n => h.churnJobRead j o n
  | .churnJobResume j b => h.churnJobResume j b
  | .churnJobEnd j => h.churnJobEnd j
  | .linkCfgSet p w => h.linkCfgSet p w
  | .linkCfgGet p => h.linkCfgGet p
  | .linkStatus p => h.linkStatusGet p
  | .linkManual p o => h.linkManual p o
  | .linkSlip p l => h.linkSlip p l
  | .linkRate p r => h.linkRate p r
  | .linkWidth p w => h.linkWidth p w
  | .linkTestSet p l w => h.linkTestSet p l w
  | .linkLaneGet p l c => h.linkLaneGet p l c
  | .linkCoupler o => h.linkCoupler o
  | .calAuditSet d w => h.calAuditSet d w
  | .calAuditGet d => h.calAuditGet d
  | .calAuditRead f n => h.calAuditRead f n
  | .calAuditReq d e => h.calAuditReq d e
  | .calRun o => h.calRun o
  | .calCfgSet w => h.calCfgSet w
  | .calCfgGet => h.calCfgGet
  | .calReport f n => h.calReport f n
  | .pwrStateSet v => h.pwrStateSet v
  | .pwrGate q => h.pwrGate q
  | .pwrGet => h.pwrGet
  | .pwrTelem => h.pwrTelem
  | .fltRead f m => h.fltRead f m
  | .fltCfgSet a b c d => h.fltCfgSet a b c d
  | .fltCfgGet => h.fltCfgGet
  | .fltRetire u => h.fltRetire u
  | .fltRestore u => h.fltRestore u
  | .mcDrill d => h.mcDrill d (job.map Prod.fst)
  | .logRead b n => h.logRead b n
  | .logWrite b d =>
    let owner : LogOwner := match job, h.mgmt.running with
      | some j, _ => .action j.1
      | none, some (x, _) => .request x.order
      | none, none => .direct
    h.logWrite b d owner
  | .sealGet => h.ok (be 4 h.sealWord.toNat)
  | .sealNonce => h.sealNonce
  | .sealUnseal m => h.sealUnseal m
  | .sealClose => h.sealClose
  | .sealSet v => h.sealSet v
  | .sealKeySet k => h.sealKeySet k
  | _ => h.refuse St.unsupported

/-- The dies that a DIEMASK names. -/
def ReqHeader.dies (r : ReqHeader) : List Nat := bitsOf 32 r.dieMask

/-- The DIEMASK names a die that the variant lacks (R359 check 2). -/
def Hub.badMask (h : Hub) (r : ReqHeader) : Bool := (ReqHeader.dies r).any fun d => decide (h.nDies ≤ d)

/-- A DIEMASK on a command without D (R377). -/
def ReqHeader.strayMask (r : ReqHeader) (i : CmdInfo) : Bool := !i.mask && r.dieMask != 0

/-- The lowest die out of service that the mask names; DIEMASK 0 of a D command names all (R359 check 3, R377). -/
def Hub.downDie (h : Hub) (r : ReqHeader) (i : CmdInfo) : Option Nat :=
  let l := if i.mask then h.named (ReqHeader.dies r) else ReqHeader.dies r
  leastOf (l.filter fun d => !(h.die d).inService)

/-- A command by its header and payload: dies out of service, then its mask and layout, then its own rules (R359 checks 3 and 4,
R376, R377). -/
def Hub.command (h : Hub) (job : Option (Word × Nat)) (r : ReqHeader) (i : CmdInfo) (cmd : Option Instr) : Hub :=
  match h.downDie r i with
  | some d => h.refuseDie St.fault d
  | none =>
    if ReqHeader.strayMask r i ∨ (i.schedOnly ∧ job.isNone) then h.refuse St.badArg
    else match cmd with
      | some c => h.runCmd job c
      | none => h.refuse St.badArg

/-! ## Scheduled actions -/

/-- What an action runs. -/
def Action.cmd (a : Action) : Option Instr := parseCmd a.hdr.opcode (ReqHeader.dies a.hdr) .inband false a.payload

/-- The action is one of the management plane (R123). -/
def Action.onPlane (a : Action) : Bool := a.hdr.opcode == 0x0D06 || a.hdr.opcode == 0x0E02

/-- An action's command on the hub. -/
def Hub.actionRun (h : Hub) (a : Action) : Hub :=
  match cmdInfo a.hdr.opcode with
  | some i => h.command (some (a.id, a.t)) a.hdr i a.cmd
  | none => h.refuse St.unsupported

/-- The result of checking an action against the present state; nothing changes (R403). -/
def Hub.actionCheck (h : Hub) (a : Action) : Reply := (h.actionRun a).mgmt.reply

/-- Breaches of R402 by an inner header. -/
def Hub.badInner (h : Hub) (r : ReqHeader) (payload : Bytes) : Bool :=
  match cmdInfo r.opcode with
  | none => true
  | some i =>
    !i.sched || r.tag != 0 || r.reqId != 0 || r.cls != 0 || r.lifetime != 0 || r.length != payload.length ||
      decide (4052 < r.length) || h.badMask r || ReqHeader.strayMask r i

/-- 1 ms, 500 µs and 150 ms in units of 1/1,024 ns. -/
def fuMs : Nat := 1024000000
def fuArm : Nat := 512000000
def fuCommit : Nat := 153600000000

/-- The id after one: 0 is not given (R403). -/
def nextActionId (i : Word) : Word := if i = 0xFFFFFFFF then 1 else i + 1

/-- SCHED_ADD (R121, R122, R402, R403). An action whose T is nearer than 150 ms is committed at once (R418). -/
def Hub.schedAdd (h : Hub) (lateOk : Bool) (t : Instant) (r : ReqHeader) (payload : Bytes) : Hub :=
  let now := h.tm.now
  let at' := Instant.fu t
  if Instant.bad t ∨ h.badInner r payload then h.refuse St.badArg
  else if at' < now + fuMs ∧ !lateOk then h.refuse St.late
  else
    let id := h.mgmt.nextAction
    let a : Action := { id := id, t := at', lateOk := lateOk, hdr := r, payload := payload, accepted := now, order := h.mgmt.accepts, committed := false,
                        armed := false, held := false, own := at', unlocked := false }
    let c := h.actionCheck a
    if c.status ≠ St.ok then h.withReply { c with payload := [] }
    else if 256 ≤ h.mgmt.actions.length then
      let due := (h.mgmt.actions.map Action.t).foldl min ((h.mgmt.actions.map Action.t).headD 0)
      h.busy (ceilDiv (due - now) fuMs)
    else
      let a := { a with committed := !a.onPlane && decide (at' < now + fuCommit) }
      let h := (h.setMgmt fun m => { m with actions := m.actions ++ [a], accepts := m.accepts + 1, nextAction := nextActionId id }).writeThrough (.action id)
      let h := match a.cmd with
        | some (.chanCoefSwitch chs xf) => h.switchPends chs xf (max at' now) id
        | some (.sepSwitch dies xf) => h.sepPends dies xf at' id
        | _ => h
      h.ok (be 4 id.toNat)

def Hub.setAction (h : Hub) (id : Word) (f : Action → Action) : Hub :=
  h.setMgmt fun m => { m with actions := m.actions.map fun (a : Action) => if a.id = id then f a else a }

/-- SCHED_CANCEL, up to 500 µs before T (R125). -/
def Hub.schedCancel (h : Hub) (id : Word) : Hub :=
  match h.findAction id with
  | none => h.refuse St.notFound
  | some a => if a.t < h.tm.now + fuArm then h.refuse St.late else (h.dropAction id).ok []

/-- SCHED_LIST (R403). -/
def Hub.schedList (h : Hub) (after : Word) : Hub :=
  let l := h.mgmt.actions.filter fun (a : Action) => decide (after.toNat < a.id.toNat)
  let ids := sortNat (l.map fun (a : Action) => a.id.toNat)
  h.ok ((ids.take 204).flatMap fun n =>
    match l.find? fun (a : Action) => a.id.toNat == n with
    | some a => be 4 n ++ be 2 a.hdr.opcode ++ pad 2 ++ instB a.t
    | none => [])

/-- COMMIT, 150 ms before T: checked again, and committed or ended (R403, R418). -/
def Hub.commit (h : Hub) (id : Word) : Hub :=
  match h.findAction id with
  | none => h
  | some a =>
    if a.committed ∨ a.onPlane ∨ !h.manages ∨ h.tm.now + fuCommit < a.t then h
    else
      let c := h.actionCheck a
      if c.status = St.ok then h.setAction id fun x => { x with committed := true }
      else h.schedDone h.tm.now id c.status 0

/-- ACTION_ARM, 500 µs before T: the hardware arms a committed action; AFE_SYNC's ramp begins from here (R40, R125). -/
def Hub.actionArm (h : Hub) (id : Word) : Hub :=
  match h.findAction id with
  | none => h
  | some a =>
    if !a.committed ∨ a.armed ∨ h.tm.now + fuArm < a.t then h
    else
      let h := h.setAction id fun x => { x with armed := true }
      match a.cmd with
      | some (.afeSync chs) => if h.tm.now < a.t then h.afeSyncArm chs a.t id else h
      | some (.chanCoefSwitch _ _) => h.switchArms id
      | _ => h

/-- The smallest of some instants, or one of its own. -/
def earliest (t : Nat) (l : List Nat) : Nat := l.foldl min (l.headD t)

/-- The channels that a command acts on, each with its first boundary at or after an instant (R123). -/
def Hub.chanBounds (h : Hub) (i : Instr) (t : Nat) : List (Nat × Nat) :=
  let up (p : Nat) : Nat := ceilDiv t p * p
  let caps (p : CapParams) : List (Nat × Nat) :=
    p.channels.map fun c => (c, srcInst p.src (h.ch c).desc (srcIdx p.src (h.ch c).desc t))
  let capOf (n : Nat) : List (Nat × Nat) := match h.cap n with | some c => caps c.params | none => []
  match i with
  | .afeSet chs _ | .chanSet chs _ => chs.map fun c => (c, up (h.ch c).applied.rawPeriod)
  | .chanCoefSwitch chs _ => chs.map fun c => (c, (h.ch c).desc.skimInst ((h.ch c).desc.skimIdxAt t))
  | .afeSync chs => chs.map fun c => (c, up fuCycle)
  | .capArm p => caps p
  | .capDisarm n _ => capOf n
  | .capTrig n => capOf n
  | _ => []

/-- The first boundary at or after an instant, on the target that has it first (R123). -/
def Hub.boundaryOf (h : Hub) (i : Instr) (t : Nat) : Nat :=
  let up (p : Nat) : Nat := ceilDiv t p * p
  match i with
  | .sepSwitch _ _ => up h.sep.tickFu
  | .sepCfgSet _ tick _ _ => up (tick.toNat * fuCycle)
  | .linkCoupler _ => up fuCycle
  | i => earliest t ((h.chanBounds i t).map Prod.snd)

/-- A setting of an earlier acceptance waits for a conversion of the channel at or before an action's boundary, and the channel converts: it takes
effect first (R65, R125). -/
def Hub.settingFirst (h : Hub) (order : Nat) (b : Nat × Nat) : Bool :=
  let x := h.ch b.1
  let per := x.applied.rawPeriod
  h.converts b.1 && !h.heldCh b.1 && !x.stopped && x.retired.isNone && !(h.die (chDie b.1)).faulted &&
    x.writes.any fun w => decide (w.order < order) && decide (ceilDiv w.notBefore per * per ≤ b.2)

/-- An action of an earlier acceptance that is due on the same boundary of a channel that both name, or whose setting waits for that boundary: it
takes effect first (R125). Settings among themselves keep their order where they wait. -/
def Hub.waitsFor (h : Hub) (a : Action) : Bool :=
  match a.cmd with
  | none => false
  | some i =>
    let setting := match i with | .afeSet .. | .chanSet .. => true | _ => false
    (!setting && (h.chanBounds i a.t).any (h.settingFirst a.order)) ||
    (h.mgmt.actions.takeWhile fun (b : Action) => b.id != a.id).any fun (b : Action) =>
      b.committed && !b.held && decide (b.t ≤ h.tm.now) &&
        (match b.cmd with
         | some j => (h.chanBounds j b.t).any fun x => (h.chanBounds i a.t).contains x
         | none => false)

/-- The hub as the data path sees it: a committed action survives any failure of the cores (R418). -/
def Hub.thawed (h : Hub) : Hub := { h with dies := h.dies.map fun (x : Die) => { x with frozen := false } }

/-- The dies are frozen as in another state. -/
def Hub.frozenAs (h o : Hub) : Hub := { h with dies := h.dies.mapIdx fun d (x : Die) => { x with frozen := (o.die d).frozen } }

/-- SCHEDULED_ACTION: at its boundary the action is checked a last time and takes effect, with its SCHED_DONE record (R123, R126,
R403). A drill writes its record at its end, and a LOG_WRITE once its
blocks are written or BUSY ends it (R400); settings of channels wait for the first conversion boundary of a target, which a hold can
delay, and write it there (R65, R66, R423). -/
def Hub.scheduled (h : Hub) (id : Word) : Hub :=
  match h.findAction id with
  | none => h
  | some a =>
    let runs : Bool := if a.onPlane then h.manages && h.flt.drill.isNone else a.committed
    if a.held then h.tagNext
    else if !runs ∨ h.tm.now < a.t ∨ h.waitsFor a then h
    else
      let keep := h.mgmt.reply
      let g := if a.committed then (h.thawed.actionRun a).frozenAs h else h.actionRun a
      let r := g.mgmt.reply
      let own := match a.cmd with | some i => h.boundaryOf i a.t | none => a.t
      let done := match a.cmd with | some i => h.boundaryOf i (max a.t h.tm.now) | none => h.tm.now
      let late := if a.onPlane then decide (a.t + fuMs < h.tm.now) else decide (own < done)
      let wait := g.setAction id fun x => { x with held := true, own := own, unlocked := !h.tm.lockedAt a.t }
      if r.status ≠ St.ok then (h.schedDone h.tm.now id r.status 0).withReply keep
      else match a.cmd with
        | some (.afeSet _ _) | some (.chanSet _ _) => wait.withReply keep
        | some (.logWrite _ _) | some (.mcDrill _) => (wait.setAction id fun x => { x with own := h.tm.now }).withReply keep
        | _ => (g.schedDone done id (if late then St.late else St.ok) ((done - a.t) / 1024000)).withReply keep

/-! ## The next request (R359, R368) -/

/-- A request goes before another: by class, PRIO, order of intake. -/
def Request.before (a b : Request) : Bool :=
  decide (a.svc < b.svc) ||
    (a.svc == b.svc &&
      (decide (ReqHeader.prio b.hdr < ReqHeader.prio a.hdr) ||
        (ReqHeader.prio a.hdr == ReqHeader.prio b.hdr && decide (a.order < b.order))))

/-- The first of a list of requests. -/
def firstRequest : List Request → Option Request
  | [] => none
  | x :: r => match firstRequest r with
    | some y => if y.before x then some y else some x
    | none => some x

/-- A Krenmail command as its request runs it. -/
def Hub.runDirect (h : Hub) (r : ReqHeader) (i : CmdInfo) (cmd : Option Instr) : Hub :=
  match (if (h.downDie r i).isNone ∧ !ReqHeader.strayMask r i then cmd else none) with
  | some (.schedAdd l t q p) => h.schedAdd l t q p
  | some (.schedCancel id) => h.schedCancel id
  | some (.schedList a) => h.schedList a
  | _ => h.command none r i cmd

/-- A command that was answered OK has committed something: every one but those that only read (R361, R416). -/
def commitsWith (op status : Nat) : Bool :=
  status == St.ok && op != 0x0201 && (op == 0x0804 || (match cmdInfo op with | some i => !i.idem | none => false))

/-- The checks of R359 that are made at the start, then the command. -/
def Hub.runRequest (h : Hub) (x : Request) : Hub :=
  let r := x.hdr
  match cmdInfo r.opcode with
  | none => h.refuse St.unsupported
  | some i =>
    if h.boot.netboot && !netCmd r.opcode then h.busy 1000
    else if 16 ≤ r.cls ∨ 120000 < r.lifetime ∨ h.badMask r then h.refuse St.badArg
    else h.runDirect r i (parseCmd r.opcode (ReqHeader.dies r) x.route (r.cls.testBit 1) x.payload)

/-- A running LOG_WRITE whose blocks are not all written steps aside at the end of its slice (R368). -/
def Hub.stepAside (h : Hub) : Hub :=
  match h.mgmt.running with
  | some (x, r) => if h.writing x then h.setMgmt fun m => { m with running := none, waiting := m.waiting ++ [(x, r)] } else h
  | none => h

/-- The request names a die whose core is in its gap: that die's part waits for its agent, and so does the request (R417, R419; log entry 170). -/
def Hub.waitsDie (h : Hub) (x : Request) : Bool :=
  let away := (List.range h.nDies).filter fun d => (h.die d).cores.declaredAt.isSome || (h.die d).cores.drillAt.isSome
  !away.isEmpty &&
    (let r := (({ h with dies := h.dies.mapIdx fun d (y : Die) => { y with frozen := y.frozen || away.contains d } }).runRequest x).mgmt.reply
     r.status == St.fault && away.contains r.failDie)

/-- REQUEST_START: the next request by class, PRIO and order runs; its result waits for its completion (R368). Requests that came in
while no core managed are compared first (R363, R417, R421). What it commits is on record before it acts (R416). -/
def Hub.requestStart (h : Hub) : Hub :=
  if !h.serves ∨ h.stepAside.mgmt.running.isSome then h
  else
    let h := h.tagNext.stepAside.admitRaw
    let live (x : Request) : Bool := decide (h.clk.elapsed < x.at' + ReqHeader.life x.hdr)
    match firstRequest (h.mgmt.queue.filter fun x => live x && !h.waitsDie x) with
    | none => h
    | some x =>
      let h := h.setMgmt fun m => { m with queue := m.queue.filter fun (y : Request) => y.order != x.order, running := some (x, ⟨0, 0, 255, []⟩) }
      let g := h.runRequest x
      let g := g.setMgmt fun m => { m with running := m.running.map fun p => (p.1, m.reply) }
      if commitsWith x.hdr.opcode g.mgmt.reply.status then g.writeThrough (.commit x.order) else g

/-! ## Meanings -/

/-- SYS_REQSTAT (R365). -/
def execSysReqstat (reqId tag : Nat) (s : State) : Out := act s fun h => h.reqstat reqId tag
/-- SCHED_ADD (R403). -/
def execSchedAdd (lateOk : Bool) (t : Instant) (inner : ReqHeader) (payload : Bytes) (s : State) : Out :=
  act s fun h => h.schedAdd lateOk t inner payload
/-- SCHED_CANCEL (R125). -/
def execSchedCancel (id : Word) (s : State) : Out := act s fun h => h.schedCancel id
/-- SCHED_LIST (R403). -/
def execSchedList (after : Word) (s : State) : Out := act s fun h => h.schedList after
/-- COMMIT (R418). -/
def execCommit (id : Word) (s : State) : Out := act s fun h => h.commit id
/-- ACTION_ARM (R125). -/
def execActionArm (id : Word) (s : State) : Out := act s fun h => h.actionArm id
/-- SCHEDULED_ACTION (R123). -/
def execScheduledAction (id : Word) (s : State) : Out := act s fun h => h.scheduled id
/-- REQUEST_START (R368). -/
def execRequestStart (s : State) : Out := act s Hub.requestStart

end Sys2Proof.Machine
end

