-- ==== Sys2Proof/Machine/Dispatch.lean ====
section
/-! DEFINITION. Dispatch: one arm per command, each a direct call of its meaning. -/

namespace Sys2Proof.Machine

/-- The effect of a command on everything but the queue. -/
def exec (i : Instr) (s : State) : Host.Outcome State Fault Refusal :=
  match i with
  | .sysInfo => Sys2Proof.Machine.execSysInfo s
  | .sysReqstat reqId tag => Sys2Proof.Machine.execSysReqstat reqId tag s
  | .sysReset confirm => Sys2Proof.Machine.execSysReset confirm s
  | .packageReset => Sys2Proof.Machine.execPackageReset s
  | .sysCfgSave => Sys2Proof.Machine.execSysCfgSave s
  | .sysFwWrite image offset data => Sys2Proof.Machine.execSysFwWrite image offset data s
  | .sysFwCommit image => Sys2Proof.Machine.execSysFwCommit image s
  | .timeGet => Sys2Proof.Machine.execTimeGet s
  | .timeSet sec => Sys2Proof.Machine.execTimeSet sec s
  | .timeCfgSet w => Sys2Proof.Machine.execTimeCfgSet w s
  | .timeCfgGet => Sys2Proof.Machine.execTimeCfgGet s
  | .timePpsSet a b => Sys2Proof.Machine.execTimePpsSet a b s
  | .timeAsymSet port v => Sys2Proof.Machine.execTimeAsymSet port v s
  | .timeTinSet input w => Sys2Proof.Machine.execTimeTinSet input w s
  | .timeTinGet input => Sys2Proof.Machine.execTimeTinGet input s
  | .afeSet chs w => Sys2Proof.Machine.execAfeSet chs w s
  | .afeGet ch => Sys2Proof.Machine.execAfeGet ch s
  | .afeSync chs => Sys2Proof.Machine.execAfeSync chs s
  | .afeGuard octs w => Sys2Proof.Machine.execAfeGuard octs w s
  | .afeRepSet out w => Sys2Proof.Machine.execAfeRepSet out w s
  | .afeRepGet out => Sys2Proof.Machine.execAfeRepGet out s
  | .afeStatus first count => Sys2Proof.Machine.execAfeStatus first count s
  | .afeClear chs => Sys2Proof.Machine.execAfeClear chs s
  | .chanSet chs desc => Sys2Proof.Machine.execChanSet chs desc s
  | .chanGet ch => Sys2Proof.Machine.execChanGet ch s
  | .chanQuery ch => Sys2Proof.Machine.execChanQuery ch s
  | .chanCoefLoad chs words => Sys2Proof.Machine.execChanCoefLoad chs words s
  | .chanCoefSwitch chs xfLen => Sys2Proof.Machine.execChanCoefSwitch chs xfLen s
  | .fade ch => Sys2Proof.Machine.execFade ch s
  | .trigPinSet pin w => Sys2Proof.Machine.execTrigPinSet pin w s
  | .trigPinGet pin => Sys2Proof.Machine.execTrigPinGet pin s
  | .trigKonSet group pins k win lat route units => Sys2Proof.Machine.execTrigKonSet group pins k win lat route units s
  | .trigArrSet groups lat => Sys2Proof.Machine.execTrigArrSet groups lat s
  | .trigForce => Sys2Proof.Machine.execTrigForce s
  | .trigStatus clear => Sys2Proof.Machine.execTrigStatus clear s
  | .capArm p => Sys2Proof.Machine.execCapArm p s
  | .capDisarm capture abort => Sys2Proof.Machine.execCapDisarm capture abort s
  | .capTrig capture => Sys2Proof.Machine.execCapTrig capture s
  | .capStatus capture => Sys2Proof.Machine.execCapStatus capture s
  | .capPartSet dies w => Sys2Proof.Machine.execCapPartSet dies w s
  | .capPartGet dies => Sys2Proof.Machine.execCapPartGet dies s
  | .capWmSet dies w => Sys2Proof.Machine.execCapWmSet dies w s
  | .capWmGet dies => Sys2Proof.Machine.execCapWmGet dies s
  | .capList dies q => Sys2Proof.Machine.execCapList dies q s
  | .capRead coach offset count decode => Sys2Proof.Machine.execCapRead coach offset count decode s
  | .capFree coaches => Sys2Proof.Machine.execCapFree coaches s
  | .capSend coaches => Sys2Proof.Machine.execCapSend coaches s
  | .capRedSet chs w => Sys2Proof.Machine.execCapRedSet chs w s
  | .capRedGet ch => Sys2Proof.Machine.execCapRedGet ch s
  | .sepLoad dies set op => Sys2Proof.Machine.execSepLoad dies set op s
  | .sepSwitch dies xfLen => Sys2Proof.Machine.execSepSwitch dies xfLen s
  | .sepCfgSet ctl tick wait fb => Sys2Proof.Machine.execSepCfgSet ctl tick wait fb s
  | .sepCfgGet => Sys2Proof.Machine.execSepCfgGet s
  | .sepStatus dies => Sys2Proof.Machine.execSepStatus dies s
  | .strmSet kind en chs => Sys2Proof.Machine.execStrmSet kind en chs s
  | .strmRoute flow port => Sys2Proof.Machine.execStrmRoute flow port s
  | .strmLocal flow => Sys2Proof.Machine.execStrmLocal flow s
  | .strmAck route entries => Sys2Proof.Machine.execStrmAck route entries s
  | .strmFlush kind flows => Sys2Proof.Machine.execStrmFlush kind flows s
  | .strmWmSet port w => Sys2Proof.Machine.execStrmWmSet port w s
  | .strmWmGet port => Sys2Proof.Machine.execStrmWmGet port s
  | .strmFcSet pair w => Sys2Proof.Machine.execStrmFcSet pair w s
  | .strmRawGroup ports => Sys2Proof.Machine.execStrmRawGroup ports s
  | .strmXstat dies => Sys2Proof.Machine.execStrmXstat dies s
  | .strmCfgSet w => Sys2Proof.Machine.execStrmCfgSet w s
  | .strmCfgGet => Sys2Proof.Machine.execStrmCfgGet s
  | .churnSet use mode chs => Sys2Proof.Machine.execChurnSet use mode chs s
  | .churnCfgSet dies w => Sys2Proof.Machine.execChurnCfgSet dies w s
  | .churnCfgGet dies => Sys2Proof.Machine.execChurnCfgGet dies s
  | .churnSave ch use => Sys2Proof.Machine.execChurnSave ch use s
  | .churnStateCapture ch use => Sys2Proof.Machine.execChurnStateCapture ch use s
  | .churnStateRead handle offset count => Sys2Proof.Machine.execChurnStateRead handle offset count s
  | .churnStateWrite handle use offset data => Sys2Proof.Machine.execChurnStateWrite handle use offset data s
  | .churnRestore ch use handle => Sys2Proof.Machine.execChurnRestore ch use handle s
  | .churnStateFree handle => Sys2Proof.Machine.execChurnStateFree handle s
  | .churnJobStart coach op mode bufsz => Sys2Proof.Machine.execChurnJobStart coach op mode bufsz s
  | .churnJobRead job offset count => Sys2Proof.Machine.execChurnJobRead job offset count s
  | .churnJobResume job bufsz => Sys2Proof.Machine.execChurnJobResume job bufsz s
  | .churnJobEnd job => Sys2Proof.Machine.execChurnJobEnd job s
  | .jobEnd job => Sys2Proof.Machine.execJobEnd job s
  | .linkCfgSet port w => Sys2Proof.Machine.execLinkCfgSet port w s
  | .linkCfgGet port => Sys2Proof.Machine.execLinkCfgGet port s
  | .linkStatus port => Sys2Proof.Machine.execLinkStatus port s
  | .linkManual port on => Sys2Proof.Machine.execLinkManual port on s
  | .linkSlip port lane => Sys2Proof.Machine.execLinkSlip port lane s
  | .linkRate port rate => Sys2Proof.Machine.execLinkRate port rate s
  | .linkWidth port width => Sys2Proof.Machine.execLinkWidth port width s
  | .linkTestSet port lane w => Sys2Proof.Machine.execLinkTestSet port lane w s
  | .linkLaneGet port lane clear => Sys2Proof.Machine.execLinkLaneGet port lane clear s
  | .linkCoupler op => Sys2Proof.Machine.execLinkCoupler op s
  | .calAuditSet dies w => Sys2Proof.Machine.execCalAuditSet dies w s
  | .calAuditGet dies => Sys2Proof.Machine.execCalAuditGet dies s
  | .calAuditRead first count => Sys2Proof.Machine.execCalAuditRead first count s
  | .calAuditReq die entries => Sys2Proof.Machine.execCalAuditReq die entries s
  | .calRun octs => Sys2Proof.Machine.execCalRun octs s
  | .calCfgSet w => Sys2Proof.Machine.execCalCfgSet w s
  | .calCfgGet => Sys2Proof.Machine.execCalCfgGet s
  | .calReport first count => Sys2Proof.Machine.execCalReport first count s
  | .pwrStateSet st => Sys2Proof.Machine.execPwrStateSet st s
  | .keepEntry => Sys2Proof.Machine.execKeepEntry s
  | .pwrGate quads => Sys2Proof.Machine.execPwrGate quads s
  | .pwrGet => Sys2Proof.Machine.execPwrGet s
  | .pwrTelem => Sys2Proof.Machine.execPwrTelem s
  | .fltRead first max => Sys2Proof.Machine.execFltRead first max s
  | .fltCfgSet ch lane eng mem => Sys2Proof.Machine.execFltCfgSet ch lane eng mem s
  | .fltCfgGet => Sys2Proof.Machine.execFltCfgGet s
  | .fltRetire unit => Sys2Proof.Machine.execFltRetire unit s
  | .fltRestore unit => Sys2Proof.Machine.execFltRestore unit s
  | .mcDrill dies => Sys2Proof.Machine.execMcDrill dies s
  | .logRead block count => Sys2Proof.Machine.execLogRead block count s
  | .logWrite block data => Sys2Proof.Machine.execLogWrite block data s
  | .sealGet => Sys2Proof.Machine.execSealGet s
  | .sealNonce => Sys2Proof.Machine.execSealNonce s
  | .sealUnseal mac => Sys2Proof.Machine.execSealUnseal mac s
  | .sealClose => Sys2Proof.Machine.execSealClose s
  | .sealSet st => Sys2Proof.Machine.execSealSet st s
  | .sealKeySet key => Sys2Proof.Machine.execSealKeySet key s
  | .schedAdd lateOk t inner payload => Sys2Proof.Machine.execSchedAdd lateOk t inner payload s
  | .schedCancel id => Sys2Proof.Machine.execSchedCancel id s
  | .schedList after => Sys2Proof.Machine.execSchedList after s
  | .commit id => Sys2Proof.Machine.execCommit id s
  | .actionArm id => Sys2Proof.Machine.execActionArm id s
  | .scheduledAction id => Sys2Proof.Machine.execScheduledAction id s
  | .submit => Sys2Proof.Machine.execSubmit s
  | .release => Sys2Proof.Machine.execRelease s
  | .intake => Sys2Proof.Machine.execIntake s
  | .svc port p => Sys2Proof.Machine.execSvc port p s
  | .requestStart => Sys2Proof.Machine.execRequestStart s
  | .lifetime => Sys2Proof.Machine.execLifetime s
  | .cacheExpiry => Sys2Proof.Machine.execCacheExpiry s
  | .arm => Sys2Proof.Machine.execArm s
  | .cancel => Sys2Proof.Machine.execCancel s
  | .timeSecLo route => Sys2Proof.Machine.execTimeSecLo route s
  | .localStreamWindow => Sys2Proof.Machine.execLocalStreamWindow s
  | .mbErr => Sys2Proof.Machine.execMbErr s
  | .newRec => Sys2Proof.Machine.execNewRec s
  | .dbwIrqStat w => Sys2Proof.Machine.execDbwIrqStat w s
  | .registerWrite addr w => Sys2Proof.Machine.execRegisterWrite addr w s
  | .hspiStatus => Sys2Proof.Machine.execHspiStatus s
  | .directAccess port p => Sys2Proof.Machine.execDirectAccess port p s
  | .conversion ch code cmMv => Sys2Proof.Machine.execConversion ch code cmMv s
  | .reservationRetry => Sys2Proof.Machine.execReservationRetry s
  | .clamp ch => Sys2Proof.Machine.execClamp ch s
  | .excOl ch => Sys2Proof.Machine.execExcOl ch s
  | .grdOl oct => Sys2Proof.Machine.execGrdOl oct s
  | .auditEntry die codes => Sys2Proof.Machine.execAuditEntry die codes s
  | .preEmption die => Sys2Proof.Machine.execPreEmption die s
  | .comparison ch => Sys2Proof.Machine.execComparison ch s
  | .milkRun die => Sys2Proof.Machine.execMilkRun die s
  | .arraySecond => Sys2Proof.Machine.execArraySecond s
  | .ppsEdge input fu => Sys2Proof.Machine.execPpsEdge input fu s
  | .ppsLost input => Sys2Proof.Machine.execPpsLost input s
  | .marker fine => Sys2Proof.Machine.execMarker fine s
  | .markLost => Sys2Proof.Machine.execMarkLost s
  | .markLostTimeout => Sys2Proof.Machine.execMarkLostTimeout s
  | .clockLoss => Sys2Proof.Machine.execClockLoss s
  | .timecorA sndAlign sec => Sys2Proof.Machine.execTimecorA sndAlign sec s
  | .timecorB baseState delay errEst => Sys2Proof.Machine.execTimecorB baseState delay errEst s
  | .timecorS step => Sys2Proof.Machine.execTimecorS step s
  | .timecorUnknown part => Sys2Proof.Machine.execTimecorUnknown part s
  | .delay port rttPs => Sys2Proof.Machine.execDelay port rttPs s
  | .slew => Sys2Proof.Machine.execSlew s
  | .relock => Sys2Proof.Machine.execRelock s
  | .sclkValid => Sys2Proof.Machine.execSclkValid s
  | .relockTimeout => Sys2Proof.Machine.execRelockTimeout s
  | .relockRetry => Sys2Proof.Machine.execRelockRetry s
  | .tinEdge input edge => Sys2Proof.Machine.execTinEdge input edge s
  | .trigEdge pin level => Sys2Proof.Machine.execTrigEdge pin level s
  | .konEvaluation group => Sys2Proof.Machine.execKonEvaluation group s
  | .redRecord ch => Sys2Proof.Machine.execRedRecord ch s
  | .sweep flow => Sys2Proof.Machine.execSweep flow s
  | .fci pin level => Sys2Proof.Machine.execFci pin level s
  | .tick => Sys2Proof.Machine.execTick s
  | .modalFrame p f => Sys2Proof.Machine.execModalFrame p f s
  | .timeout => Sys2Proof.Machine.execTimeout s
  | .xing => Sys2Proof.Machine.execXing s
  | .mgtLoad loads => Sys2Proof.Machine.execMgtLoad loads s
  | .telem => Sys2Proof.Machine.execTelem s
  | .telemetryRefresh vkeepMv dies => Sys2Proof.Machine.execTelemetryRefresh vkeepMv dies s
  | .shedEvaluation => Sys2Proof.Machine.execShedEvaluation s
  | .offsetTimeout port lane => Sys2Proof.Machine.execOffsetTimeout port lane s
  | .alignFail port lane => Sys2Proof.Machine.execAlignFail port lane s
  | .mark port lane width mcount => Sys2Proof.Machine.execMark port lane width mcount s
  | .invalidHeader port lane => Sys2Proof.Machine.execInvalidHeader port lane s
  | .markWaitTimeout port lane => Sys2Proof.Machine.execMarkWaitTimeout port lane s
  | .hello port role maxRate maxWidth locked => Sys2Proof.Machine.execHello port role maxRate maxWidth locked s
  | .serial port sn => Sys2Proof.Machine.execSerial port sn s
  | .trainStep port rate mcount => Sys2Proof.Machine.execTrainStep port rate mcount s
  | .prbsCheck port passed => Sys2Proof.Machine.execPrbsCheck port passed s
  | .result port rate lanes => Sys2Proof.Machine.execResult port rate lanes s
  | .trainRequest port rate => Sys2Proof.Machine.execTrainRequest port rate s
  | .probe port => Sys2Proof.Machine.execProbe port s
  | .park port => Sys2Proof.Machine.execPark port s
  | .signalDetect port => Sys2Proof.Machine.execSignalDetect port s
  | .widthRequest port width => Sys2Proof.Machine.execWidthRequest port width s
  | .order port width mcount => Sys2Proof.Machine.execOrder port width mcount s
  | .answer port lanes => Sys2Proof.Machine.execAnswer port lanes s
  | .elasticSlip port lane => Sys2Proof.Machine.execElasticSlip port lane s
  | .idle port sel => Sys2Proof.Machine.execIdle port sel s
  | .trig port p m => Sys2Proof.Machine.execTrig port p m s
  | .stream port p => Sys2Proof.Machine.execStream port p s
  | .ack port seq => Sys2Proof.Machine.execAck port seq s
  | .nak port seq cause => Sys2Proof.Machine.execNak port seq cause s
  | .replayTimeout port => Sys2Proof.Machine.execReplayTimeout port s
  | .ackTimer port => Sys2Proof.Machine.execAckTimer port s
  | .pause port st => Sys2Proof.Machine.execPause port st s
  | .pauseRepeat port => Sys2Proof.Machine.execPauseRepeat port s
  | .pauseLost port => Sys2Proof.Machine.execPauseLost port s
  | .searchOpen round => Sys2Proof.Machine.execSearchOpen round s
  | .token round next full => Sys2Proof.Machine.execToken round next full s
  | .searchReturn port round next full => Sys2Proof.Machine.execSearchReturn port round next full s
  | .searchClose round => Sys2Proof.Machine.execSearchClose round s
  | .claim port payload => Sys2Proof.Machine.execClaim port payload s
  | .arrive port payload => Sys2Proof.Machine.execArrive port payload s
  | .arriveRepeat => Sys2Proof.Machine.execArriveRepeat s
  | .depart port payload => Sys2Proof.Machine.execDepart port payload s
  | .holdUpEnd => Sys2Proof.Machine.execHoldUpEnd s
  | .vkeep => Sys2Proof.Machine.execVkeep s
  | .vkeepLoss => Sys2Proof.Machine.execVkeepLoss s
  | .bayRailsGood bay => Sys2Proof.Machine.execBayRailsGood bay s
  | .bayTimeout bay => Sys2Proof.Machine.execBayTimeout bay s
  | .vmainFall => Sys2Proof.Machine.execVmainFall s
  | .vexcLow mv => Sys2Proof.Machine.execVexcLow mv s
  | .vexcRestore mv => Sys2Proof.Machine.execVexcRestore mv s
  | .rstN pins => Sys2Proof.Machine.execRstN pins s
  | .bootRom coreA coreB dead flash => Sys2Proof.Machine.execBootRom coreA coreB dead flash s
  | .dieBootTimeout die => Sys2Proof.Machine.execDieBootTimeout die s
  | .bootWatchdog => Sys2Proof.Machine.execBootWatchdog s
  | .firmwareStart loopbackOk => Sys2Proof.Machine.execFirmwareStart loopbackOk s
  | .rough => Sys2Proof.Machine.execRough s
  | .full => Sys2Proof.Machine.execFull s
  | .startupLate => Sys2Proof.Machine.execStartupLate s
  | .nonceExpiry => Sys2Proof.Machine.execNonceExpiry s
  | .lockout => Sys2Proof.Machine.execLockout s
  | .heartbeat die => Sys2Proof.Machine.execHeartbeat die s
  | .sentinelPeriod die => Sys2Proof.Machine.execSentinelPeriod die s
  | .standbyTimeout die => Sys2Proof.Machine.execStandbyTimeout die s
  | .checkpoint die => Sys2Proof.Machine.execCheckpoint die s
  | .windowClose unit => Sys2Proof.Machine.execWindowClose unit s
  | .signatureTest die failed => Sys2Proof.Machine.execSignatureTest die failed s
  | .dieFault die cause => Sys2Proof.Machine.execDieFault die cause s
  | .eccError die page uncorrectable addr => Sys2Proof.Machine.execEccError die page uncorrectable addr s
  | .sentVote copy => Sys2Proof.Machine.execSentVote copy s
  | .autoRestore ch => Sys2Proof.Machine.execAutoRestore ch s
  | .timeSkew die diffPs => Sys2Proof.Machine.execTimeSkew die diffPs s
  | .calSlot die ev => Sys2Proof.Machine.execCalSlot die ev s
  | .background => Sys2Proof.Machine.execBackground s
  | .refRecheck diffUv noisePpm => Sys2Proof.Machine.execRefRecheck diffUv noisePpm s
  | .requeue oct => Sys2Proof.Machine.execRequeue oct s
  | .ringEntry => Sys2Proof.Machine.execRingEntry s
  | .logDrop => Sys2Proof.Machine.execLogDrop s
  | .lockExpiry => Sys2Proof.Machine.execLockExpiry s
  | .fieldAbsent => Sys2Proof.Machine.execFieldAbsent s
  | .inventory r afi slots16 maskLen mask => Sys2Proof.Machine.execInventory r afi slots16 maskLen mask s
  | .stayQuiet r => Sys2Proof.Machine.execStayQuiet r s
  | .readSingleBlock r block => Sys2Proof.Machine.execReadSingleBlock r block s
  | .writeSingleBlock r block data => Sys2Proof.Machine.execWriteSingleBlock r block data s
  | .readMultipleBlocks r first count => Sys2Proof.Machine.execReadMultipleBlocks r first count s
  | .select r => Sys2Proof.Machine.execSelect r s
  | .resetToReady r => Sys2Proof.Machine.execResetToReady r s
  | .getSystemInfo r => Sys2Proof.Machine.execGetSystemInfo r s
  | .getMultipleBlockSecurityStatus r first count => Sys2Proof.Machine.execGetMultipleBlockSecurityStatus r first count s
  | .extReadSingleBlock r block => Sys2Proof.Machine.execExtReadSingleBlock r block s
  | .extWriteSingleBlock r block data => Sys2Proof.Machine.execExtWriteSingleBlock r block data s
  | .extReadMultipleBlocks r first count => Sys2Proof.Machine.execExtReadMultipleBlocks r first count s
  | .extGetSystemInfo r => Sys2Proof.Machine.execExtGetSystemInfo r s
  | .extGetMultipleBlockSecurityStatus r first count => Sys2Proof.Machine.execExtGetMultipleBlockSecurityStatus r first count s
  | .ownerLock r mfr seconds => Sys2Proof.Machine.execOwnerLock r mfr seconds s
  | .logStatus r mfr => Sys2Proof.Machine.execLogStatus r mfr s
  | .tagUnsupported r code mfr => Sys2Proof.Machine.execTagUnsupported r code mfr s
  | .page write pec => Sys2Proof.Machine.execPage write pec s
  | .clearFaults pec => Sys2Proof.Machine.execClearFaults pec s
  | .capability => Sys2Proof.Machine.execCapability s
  | .statusWord => Sys2Proof.Machine.execStatusWord s
  | .readVin => Sys2Proof.Machine.execReadVin s
  | .readIout => Sys2Proof.Machine.execReadIout s
  | .readTemperature1 => Sys2Proof.Machine.execReadTemperature1 s
  | .pmbusRevision => Sys2Proof.Machine.execPmbusRevision s
  | .mfrReadVexc => Sys2Proof.Machine.execMfrReadVexc s
  | .mfrReadIexc => Sys2Proof.Machine.execMfrReadIexc s
  | .mfrReadVkeep => Sys2Proof.Machine.execMfrReadVkeep s
  | .mfrReadPower => Sys2Proof.Machine.execMfrReadPower s
  | .mfrShed => Sys2Proof.Machine.execMfrShed s
  | .pmbusUnsupported code => Sys2Proof.Machine.execPmbusUnsupported code s
  | .busTimeout => Sys2Proof.Machine.execBusTimeout s
  | .extest => Sys2Proof.Machine.execExtest s
  | .idcode => Sys2Proof.Machine.execIdcode s
  | .samplePreload => Sys2Proof.Machine.execSamplePreload s
  | .highz => Sys2Proof.Machine.execHighz s
  | .clampInstruction => Sys2Proof.Machine.execClampInstruction s
  | .extestPulse => Sys2Proof.Machine.execExtestPulse s
  | .extestTrain => Sys2Proof.Machine.execExtestTrain s
  | .debugInstruction code => Sys2Proof.Machine.execDebugInstruction code s
  | .bypass => Sys2Proof.Machine.execBypass s
  | .blockBoundary port => Sys2Proof.Machine.execBlockBoundary port s
  | .svcForward port p => Sys2Proof.Machine.execSvcForward port p s
  | .invCtl port => Sys2Proof.Machine.execInvCtl port s
  | .validHeaders port lane => Sys2Proof.Machine.execValidHeaders port lane s
  | .noMarkWhereExpected port lane => Sys2Proof.Machine.execNoMarkWhereExpected port lane s
  | .nakRepeat port => Sys2Proof.Machine.execNakRepeat port s
  | .prbsSync port lane => Sys2Proof.Machine.execPrbsSync port lane s
  | .syncLoss port lane => Sys2Proof.Machine.execSyncLoss port lane s
  | .jobStop job => Sys2Proof.Machine.execJobStop job s
  | .requestCompletion => Sys2Proof.Machine.execRequestCompletion s
  | .refclkLoss => Sys2Proof.Machine.execRefclkLoss s
  | .localMemoryEccError die engine => Sys2Proof.Machine.execLocalMemoryEccError die engine s
  | .dieRestart die passed => Sys2Proof.Machine.execDieRestart die passed s
  | .bay0Starts => Sys2Proof.Machine.execBay0Starts s
  | .clampRelease ch => Sys2Proof.Machine.execClampRelease ch s
  | .excOlEnd ch => Sys2Proof.Machine.execExcOlEnd ch s
  | .grdOlEnd oct => Sys2Proof.Machine.execGrdOlEnd oct s
  | .blockWriteTime block => Sys2Proof.Machine.execBlockWriteTime block s

end Sys2Proof.Machine
end

