-- ==== Sys2Proof/Safety.lean ====
section
/-! DEFINITION. What counts as a safe answer of a command, and the conditions on the state in which the statements say that a
command has its effect. -/

namespace Sys2Proof

open Sys2Proof.Machine

/-- The command at hand answers a next state. -/
def Completes (o : Host.Outcome Machine.State Machine.Fault Machine.Refusal) : Prop := ∃ t, o = .next t

/-- The lists of the hub have the lengths that the variant and the spec give them (R2, R4, R6, R58, R117, R177, R179, R192). An
invariant of every step. -/
def Shaped (h : Hub) : Prop :=
  h.chans.length = h.nChans ∧ h.octs.length = h.nOcts ∧ h.dies.length = h.nDies ∧ h.ports.length = h.nPorts ∧
  h.reps.length = 16 ∧ h.trg.pins.length = 8 ∧ h.trg.kons.length = 16 ∧ h.caps.length = 32 ∧ h.tm.tins.length = 8 ∧
  h.strm.fc.length = 4 ∧ h.strm.fci.length = 4

/-- The canonical form of the tag's memory (R485): addresses strictly rising and inside the tag's written areas, and no entry that
equals what an unlisted block reads as. -/
abbrev TagMemory.wf (m : List (Nat × Word)) : Prop :=
  (m.map Prod.fst).Pairwise (· < ·) ∧ ∀ x ∈ m, 64 ≤ x.1 ∧ x.1 < 2048 ∧ x.2 ≠ blankBlock x.1

/-- The canonical form of the mailbox-in window (R356): word addresses strictly rising and inside 4 KiB, and no entry of 0. -/
abbrev Mailbox.wf (m : List (Nat × Word)) : Prop :=
  (m.map Prod.fst).Pairwise (· < ·) ∧ ∀ x ∈ m, x.1 < 1024 ∧ x.2 ≠ 0

/-- What every step keeps: the lengths of the hub's lists and the canonical form of its two memories. -/
def Inv (s : Machine.State) : Prop := Shaped s.hub ∧ TagMemory.wf s.hub.tag.mem ∧ Mailbox.wf s.hub.dbw.mbi

/-- A channel set that can be served: not empty, without repeats, every channel present and on a die that is in service and not
frozen (R5, R379, R380). -/
def Served (h : Hub) (chs : List Nat) : Prop :=
  Shaped h ∧ chs ≠ [] ∧ chs.Nodup ∧ ∀ c ∈ chs, c < h.nChans ∧ h.dieDown (chDie c) = false

/-- A set of dies that a D command can read: every die present and in service (R359, R377). -/
def Named (h : Hub) (dies : List Nat) : Prop := Shaped h ∧ ∀ d ∈ h.named dies, d < h.nDies ∧ (h.die d).inService = true

/-- A set of dies that a D command can change: every die present, in service and not frozen (R359, R377, R380). -/
def NamedUp (h : Hub) (dies : List Nat) : Prop := Shaped h ∧ ∀ d ∈ h.named dies, d < h.nDies ∧ h.dieDown d = false

/-- A die that is present, in service and not frozen. -/
def DieUp (h : Hub) (d : Nat) : Prop := Shaped h ∧ d < h.nDies ∧ h.dieDown d = false

/-- The packet is the next one that the link of a port accepts (R331, R334, R337). -/
def Accepted (h : Hub) (p : Nat) (k : PacketIn) : Prop :=
  (h.prt p).st = .up ∧ (h.prt p).link.rxClass ≠ 0 ∧ k.cls = (h.prt p).link.rxClass ∧ 3 ≤ k.lenBlocks ∧ k.aborted = false ∧
  k.crcGood = true ∧ k.seq = (h.prt p).link.rxSeq

/-- A request that no place and no cache entry knows (R363). -/
def Fresh (h : Hub) (q : ReqHeader) : Prop :=
  (∀ e ∈ h.mgmt.cache, e.reqId ≠ q.reqId ∨ e.tag ≠ q.tag) ∧
  (∀ x ∈ h.mgmt.queue, x.hdr.reqId ≠ q.reqId ∨ x.hdr.tag ≠ q.tag) ∧
  (∀ x ∈ h.mgmt.started, x.hdr.reqId ≠ q.reqId ∨ x.hdr.tag ≠ q.tag)

/-- A lane of a port that is present. -/
def LaneThere (h : Hub) (p l : Nat) : Prop := ∃ q, h.ports[p]? = some q ∧ l < q.lanes.length

/-- A port that is present, on a die in service and not frozen (R380). -/
def PortUp (h : Hub) (p : Nat) : Prop := Shaped h ∧ p < h.nPorts ∧ h.dieDown (p / 4) = false

end Sys2Proof
end

