-- ==== Sys2Proof/Certificates/Slice0/Obligations.lean ====
section
/-! DEFINITION. The statements for the provers, family by family of commands; each docstring names the rules of spec/ that a
statement formalises. A statement about a free value (Sys2Proof/Config.lean) holds for every value of it. -/

open Sys2Proof Sys2Proof.Machine

/-- Settings of array time: what TIME_SET, TIME_CFG_SET, TIME_PPS_SET, TIME_ASYM_SET and TIME_TIN_SET leave, when they refuse,
and that nothing else changes (R64, R100, R103, R111, R118, R131, R383). It says that these complete: TIME_SET, TIME_CFG_SET,
TIME_PPS_SET, TIME_ASYM_SET, TIME_TIN_SET. -/
def Obligations.TimeSettings : Prop := ∀ s : State,
  (∀ sec, s.hub.tm.src ≠ .lane →
    exec (.timeSet sec) s = .next ⟨({ s.hub with tm := { s.hub.tm with
      ldHi := sec.toNat / 2 ^ 32, ldLo := BitVec.ofNat 32 sec.toNat, armed := true, ldAt := some sec.toNat } }).ok [],
      s.pending⟩) ∧
  (∀ sec, s.hub.tm.src = .lane → exec (.timeSet sec) s = .next ⟨s.hub.refuse St.badArg, s.pending⟩) ∧
  (∀ w : Word, onlyBits w 0x0FFFFFFB = true → 1 ≤ fld w 15 6 → fld w 15 6 ≤ 1000 →
    exec (.timeCfgSet w) s =
      .next ⟨({ s.hub with tm := { s.hub.tm with cfgNext := some w } }).ok [], s.pending⟩) ∧
  (∀ w : Word, onlyBits w 0x0FFFFFFB = false ∨ fld w 15 6 = 0 ∨ 1000 < fld w 15 6 →
    exec (.timeCfgSet w) s = .next ⟨s.hub.refuse St.badArg, s.pending⟩) ∧
  (∀ a b : Word, exec (.timePpsSet a b) s = .next ⟨({ s.hub with tm := { s.hub.tm with
      ppsA := { s.hub.tm.ppsA with comp := a }, ppsB := { s.hub.tm.ppsB with comp := b } } }).ok [], s.pending⟩) ∧
  (∀ p v, p ≠ 0 → p < s.hub.nPorts → s.hub.dieDown (p / 4) = false →
    exec (.timeAsymSet p v) s = .next ⟨({ s.hub with ports := s.hub.ports.modify p fun q => { q with asym := v } }).ok [], s.pending⟩) ∧
  (∀ p v, p ≠ 0 → p < s.hub.nPorts → s.hub.dieDown (p / 4) = true →
    exec (.timeAsymSet p v) s = .next ⟨s.hub.refuseDie St.fault (p / 4), s.pending⟩) ∧
  (∀ p v, p = 0 ∨ s.hub.nPorts ≤ p → exec (.timeAsymSet p v) s = .next ⟨s.hub.refuse St.badArg, s.pending⟩) ∧
  (∀ i (w : Word), i < 8 → onlyBits w 0xE000FFFF = true → fld w 30 29 ≠ 3 →
    exec (.timeTinSet i w) s = .next ⟨({ s.hub with tm := { s.hub.tm with tins := s.hub.tm.tins.modify i fun x =>
      { x with cfg := w, count := if bitOf w 31 && !bitOf x.cfg 31 then 0 else x.count } } }).ok [], s.pending⟩) ∧
  (∀ i (w : Word), 8 ≤ i ∨ onlyBits w 0xE000FFFF = false ∨ fld w 30 29 = 3 →
    exec (.timeTinSet i w) s = .next ⟨s.hub.refuse St.badArg, s.pending⟩)

/-- Reads of array time: TIME_GET answers the time, its status and the glitch counters and clears those; TIME_CFG_GET and
TIME_TIN_GET change nothing; TIME_SEC_LO latches the shadow set of its own route alone, and nothing while the window is not
served (R128, R129, R354, R383). It says that these complete: TIME_GET, TIME_CFG_GET, TIME_TIN_GET, TIME_SEC_LO. -/
def Obligations.TimeReads : Prop := ∀ s : State,
  exec .timeGet s = .next ⟨({ s.hub with tm := { s.hub.tm with
      ppsA := { s.hub.tm.ppsA with glitch := 0 }, ppsB := { s.hub.tm.ppsB with glitch := 0 }, glitch := 0 } }).ok
    (instB s.hub.tm.now ++ be 4 s.hub.timeStatus.toNat ++ be 2 s.hub.errEst ++ be 2 s.hub.tm.ppsA.glitch ++
      be 2 s.hub.tm.ppsB.glitch ++ be 2 s.hub.tm.glitch ++ be 4 (if s.hub.tm.src = Source.lane then s.hub.tm.corDelay else 0)), s.pending⟩ ∧
  exec .timeCfgGet s = .next ⟨s.hub.ok (be 4 (s.hub.tm.cfgNext.getD s.hub.tm.cfg).toNat), s.pending⟩ ∧
  (∀ i x, i < 8 → s.hub.tm.tins[i]? = some x →
    exec (.timeTinGet i) s = .next ⟨s.hub.ok (be 4 x.cfg.toNat ++ be 1 (if x.level then 1 else 0) ++ pad 3 ++ be 4 x.count.toNat), s.pending⟩) ∧
  (∀ i, 8 ≤ i → exec (.timeTinGet i) s = .next ⟨s.hub.refuse St.badArg, s.pending⟩) ∧
  (s.hub.hspiOn = true → exec (.timeSecLo .hspi) s = .next ⟨{ s.hub with
    tm := { s.hub.tm with hspi := ⟨secHi s.hub.tm.now, nsOf s.hub.tm.now, fracOf s.hub.tm.now, eraOf s.hub.tm.now⟩ }
    dbw := { s.hub.dbw with readout := [BitVec.ofNat 32 (secOf s.hub.tm.now)] } }, s.pending⟩) ∧
  (s.hub.hspiOn = true → exec (.timeSecLo .inband) s = .next ⟨{ s.hub with
    tm := { s.hub.tm with inband := ⟨secHi s.hub.tm.now, nsOf s.hub.tm.now, fracOf s.hub.tm.now, eraOf s.hub.tm.now⟩ }
    dbw := { s.hub.dbw with readout := [BitVec.ofNat 32 (secOf s.hub.tm.now)] } }, s.pending⟩) ∧
  (∀ r, s.hub.hspiOn = false → exec (.timeSecLo r) s = .next s)

/-- ARM and CANCEL: in LANE the hub takes its seconds from the tree and a load is refused; in FREE and PPS a load is armed, and
CANCEL takes it back; while the window is not served neither does anything (R131, R354). It says that these complete: ARM,
CANCEL. -/
def Obligations.LoadArming : Prop := ∀ s : State,
  (s.hub.hspiOn = true → s.hub.tm.src = .lane →
    exec .arm s = .next ⟨{ s.hub with tm := { s.hub.tm with refused := true } }, s.pending⟩) ∧
  (s.hub.hspiOn = true → s.hub.tm.src ≠ .lane →
    exec .arm s = .next ⟨{ s.hub with tm := { s.hub.tm with
      armed := true, ldAt := if s.hub.tm.armed then none else some (s.hub.tm.ldHi * 2 ^ 32 + s.hub.tm.ldLo.toNat) } }, s.pending⟩) ∧
  (s.hub.hspiOn = true → exec .cancel s = .next ⟨{ s.hub with tm := { s.hub.tm with armed := false } }, s.pending⟩) ∧
  (s.hub.hspiOn = false → exec .arm s = .next s ∧ exec .cancel s = .next s)

/-- The first edge on which the sample clock runs: array time is SEC 0, NS 0 and FRAC 0, and every DDS accumulator is 0; while
the clock runs, a cycle adds 8 ns; RST_n low stops the clock, so the same holds after every later reset (R531). It says that
these complete: SCLK_VALID, RST_N. -/
def Obligations.ArrayTimeAfterReset : Prop := ∀ s : State,
  (s.hub.clk.run = false → s.hub.boot.tr.isSome = true → (s.hub.clk.refclk = true ∨ (s.hub.prt 0).ltUp = true) →
    ∃ t, exec .sclkValid s = .next t ∧ t.hub.clk.run = true ∧ t.hub.clk.valid = true ∧ t.hub.clk.cycles = 0 ∧
      secOf t.hub.tm.now = 0 ∧ nsOf t.hub.tm.now = 0 ∧ fracOf t.hub.tm.now = 0 ∧
      ∀ x ∈ t.hub.chans, x.acc = 0) ∧
  (s.pending = [] → s.hub.clk.run = true → ∃ t, step s = .next t ∧ t.hub.tm.now = s.hub.tm.now + 8 * 1024) ∧
  (∀ vioA vioB, ∃ t, exec (.rstN ⟨false, vioA, vioB⟩) s = .next t ∧ t.hub.clk.run = false)

/-- PPS edges (Table 04-7): an edge on an enabled input begins a candidate, a second one that is not a second later is a glitch,
the fourth in a row locks the input; an edge outside the window of a locked input is a glitch and changes nothing else. A PPS
input without an accepted edge for 1.5 s is lost: a candidate becomes idle, a locked input LOST, and the other input stays as
it is (R104, R105). Both statements are of either input; a disabled input takes no edge. It says that these complete:
PPS_EDGE, PPS_LOST. -/
def Obligations.PpsInputs : Prop :=
  (∀ (s : State) (i : Nat) (fu : Int),
  let h := s.hub
  let p := h.pps i
  let t := moved h.tm.now (fu - psFu p.comp.toInt)
  i < 2 → bitOf h.tm.cfg (3 + i) = true → h.vio i = true → (i = 1 → (h.die 1).inService = true) →
  ((p.st = .idle ∨ p.st = .lost) → exec (.ppsEdge i fu) s = .next ⟨h.setPps i fun q =>
    { q with st := .candidate, count := 0, last := some t }, s.pending⟩) ∧
  (∀ l, p.st = .candidate → p.last = some l → p.count < 2 → ((t : Int) - (l + fuSec)).natAbs ≤ 51200000 →
    exec (.ppsEdge i fu) s = .next ⟨h.setPps i fun q => { q with count := p.count + 1, last := some t }, s.pending⟩) ∧
  (∀ l, p.st = .candidate → p.last = some l → 51200000 < ((t : Int) - (l + fuSec)).natAbs →
    exec (.ppsEdge i fu) s = .next ⟨h.setPps i fun q =>
      { q with glitch := satInc 16 p.glitch, count := 0, last := some t }, s.pending⟩) ∧
  (∀ l, p.st = .candidate → p.last = some l → p.count = 2 → ((t : Int) - (l + fuSec)).natAbs ≤ 51200000 →
    ∃ u, exec (.ppsEdge i fu) s = .next u ∧ (u.hub.pps i).st = .locked) ∧
  (∀ l, p.st = .locked → p.last = some l → 51200000 < ((t : Int) - ((nearestSec l + 1) * fuSec)).natAbs →
    exec (.ppsEdge i fu) s = .next ⟨h.setPps i fun q => { q with glitch := satInc 16 p.glitch }, s.pending⟩)) ∧
  (∀ (s : State) (i : Nat) (fu : Int), i < 2 → bitOf s.hub.tm.cfg (3 + i) = false → exec (.ppsEdge i fu) s = .next s) ∧
  (∀ (s : State) (i l : Nat),
  i < 2 → (s.hub.pps i).last = some l → l + fuSec / 2 * 3 ≤ s.hub.tm.now →
  ((s.hub.pps i).st = .candidate → exec (.ppsLost i) s = .next ⟨s.hub.setPps i fun q => { q with st := .idle }, s.pending⟩) ∧
  ((s.hub.pps i).st = .locked → ∃ t, exec (.ppsLost i) s = .next t ∧ (t.hub.pps i).st = .lost ∧ (t.hub.pps i).run = 0 ∧
    t.hub.pps (1 - i) = s.hub.pps (1 - i) ∧ t.hub.tm.now = s.hub.tm.now))

/-- What TIMECOR brings (R110): part A the second that the next marker starts and the sender's ALIGN_STATE, part B its
BASE_STATE, delay and error, part S a step; parts 3 to 15 are ignored and counted. A hub that does not follow the lane keeps
its own BASE_STATE. Markers (R109): one that comes a whole number of 125,000,000 cycles after the last is taken and ends
MARK_LOST; any other is a glitch, counted with those of the last second for the lane's fault window (R404). More than two
expected markers without one set MARK_LOST, and 10 s of it take a LANE hub to DEGRADED while the received clock is there. A
step of part S waits for the next marker, and goes with it. It says that these complete: MARKER, MARK_LOST,
MARK_LOST_TIMEOUT, CLOCK_LOSS, TIMECOR_A, TIMECOR_B, TIMECOR_S, TIMECOR_UNKNOWN. -/
def Obligations.TimingLane : Prop :=
  (∀ s : State,
  let heard := s.hub.tm.corHeard s.hub.clk.elapsed
  heard.laneAt = some s.hub.clk.elapsed ∧
  (∀ a (sec : BitVec 48), exec (.timecorA a sec) s = .next ⟨{ s.hub with tm := { heard with
    sndAlign := a % 8, corSec := some sec.toNat } }, s.pending⟩) ∧
  (∀ b d e, s.hub.tm.src ≠ .lane → exec (.timecorB b d e) s = .next ⟨{ s.hub with tm := { heard with
    sndBase := b % 4, corDelay := d % 2 ^ 32, sndErr := min e 65535, delayOk := true } }, s.pending⟩) ∧
  (∀ b d e, s.hub.tm.src = .lane → ∃ t, exec (.timecorB b d e) s = .next t ∧ t.hub.tm = { heard with
    sndBase := b % 4, corDelay := d % 2 ^ 32, sndErr := min e 65535, delayOk := true
    base := match b with
      | 0 => .none
      | 1 => .locked
      | 2 => .holdover
      | _ => s.hub.tm.base }) ∧
  (∀ c : Int, s.hub.tm.src ≠ .lane → exec (.timecorS c) s = .next ⟨{ s.hub with tm := { heard with
    corStep := some (signed 32 (unsigned 32 c)), corStepAt := some s.hub.clk.elapsed } }, s.pending⟩) ∧
  (∀ c : Int, s.hub.tm.src = .lane → ∃ t, exec (.timecorS c) s = .next t ∧
    t.hub.tm = { heard with corStep := some (signed 32 (unsigned 32 c)), corStepAt := some s.hub.clk.elapsed } ∧
    ∀ p q, p ≠ 0 → s.hub.ports[p]? = some q → p < s.hub.nPorts → q.st = .up → ∃ q', t.hub.ports[p]? = some q' ∧
      q'.link.ctl = q.link.ctl ++ [⟨0x87, 2 * 2 ^ 52 + unsigned 32 c⟩]) ∧
  (∀ p, 3 ≤ p → p ≤ 15 → exec (.timecorUnknown p) s = .next ⟨{ s.hub with tm := { s.hub.tm with
    corUnknown := satInc 16 s.hub.tm.corUnknown } }, s.pending⟩)) ∧
  (∀ (s : State) (b : Nat) (fine : List Int) (q : Port),
  let recent := s.hub.clk.elapsed :: q.ltGlitch.filter fun t => decide (s.hub.clk.elapsed < t + 1000000000)
  let win := FaultWin.hit (s.hub.lane 0 3).win s.hub.clk.elapsed (fld s.hub.flt.lane 15 0 * 1000000000)
    (fld s.hub.flt.lane 31 24) 0x0F04
  s.hub.ports[0]? = some q →
  ((s.hub.lane 0 3).retired = false → s.hub.clk.run = true → s.hub.tm.markBase = some b →
    (s.hub.clk.cycles ≤ b ∨ (s.hub.clk.cycles - b) % 125000000 ≠ 0) → recent.length ≤ 16 →
    exec (.marker fine) s = .next ⟨({ s.hub with
      ports := modAt s.hub.ports 0 (fun p => { p with ltGlitch := recent }),
      tm := { s.hub.tm with ltSeen := some s.hub.clk.cycles, glitch := satInc 16 s.hub.tm.glitch } }).tiuEdge 0 0, s.pending⟩) ∧
  ((s.hub.lane 0 3).retired = false → s.hub.clk.run = true → s.hub.tm.markBase = some b →
    (s.hub.clk.cycles ≤ b ∨ (s.hub.clk.cycles - b) % 125000000 ≠ 0) → 16 < recent.length → win.events ≤ win.allowed →
    ∃ t, exec (.marker fine) s = .next t ∧ (t.hub.prt 0).ltGlitch = [] ∧
      (3 < q.lanes.length → (t.hub.lane 0 3).win = some win) ∧
      t.hub.tm = { s.hub.tm with ltSeen := some s.hub.clk.cycles, glitch := satInc 16 s.hub.tm.glitch }) ∧
  ((s.hub.lane 0 3).retired = false → s.hub.tm.src = .lane → s.hub.tm.markBase = some b → b < s.hub.clk.cycles →
    (s.hub.clk.cycles - b) % 125000000 = 0 → ∃ t, exec (.marker fine) s = .next t ∧ (t.hub.prt 0).ltUp = true ∧
      t.hub.tm.missed = 0 ∧ t.hub.tm.markLost = false) ∧
  ((s.hub.lane 0 3).retired = false → s.hub.tm.src ≠ .lane → s.hub.tm.markBase = some b → b < s.hub.clk.cycles →
    (s.hub.clk.cycles - b) % 125000000 = 0 → ∃ t, exec (.marker fine) s = .next t ∧ (t.hub.prt 0).ltUp = true ∧
      t.hub.tm = { s.hub.tm with
        ltSeen := some s.hub.clk.cycles
        markBase := some s.hub.clk.cycles
        missed := 0
        markLost := false
        corSec := none
        corStep := none
        corStepAt := none
        ltFrom := if q.ltUp then s.hub.tm.ltFrom else some s.hub.clk.elapsed } ∧
      t.hub.chans = s.hub.chans ∧ t.hub.flows = s.hub.flows) ∧
  ((s.hub.lane 0 3).retired = true → exec (.marker fine) s = .next s) ∧
  (s.hub.tm.markBase = some b → b + 250000000 < s.hub.clk.cycles → s.hub.tm.markLost = false →
    exec .markLost s = .next ⟨{ s.hub with tm := { s.hub.tm with
      missed := 2, markLost := true, markLostAt := s.hub.clk.elapsed } }, s.pending⟩) ∧
  (q.ltUp = false ∨ s.hub.tm.align = .holdover → exec .markLostTimeout s = .next s) ∧
  (s.hub.tm.markLost = true → s.hub.tm.markLostAt + 10000000000 ≤ s.hub.clk.elapsed → s.hub.tm.src = .lane → q.ltUp = true →
    s.hub.tm.align ≠ .holdover →
    ∃ t, exec .markLostTimeout s = .next t ∧ t.hub.tm.align = .degraded ∧ t.hub.tm.markBase = none ∧
      t.hub.tm.now = s.hub.tm.now) ∧
  (s.hub.tm.src = .lane → q.ltUp = false ∨ (s.hub.lane 0 3).retired = true ∨ win.events ≤ win.allowed →
    ((s.hub.lane 0 0).lock ≠ .locked → ∃ t, exec .clockLoss s = .next t ∧ t.hub.tm.align = .holdover ∧
      t.hub.tm.holdAt = s.hub.clk.elapsed ∧ (t.hub.prt 0).ltUp = false ∧ t.hub.tm.now = s.hub.tm.now) ∧
    ((s.hub.lane 0 0).lock = .locked → ∃ t, exec .clockLoss s = .next t ∧ t.hub.tm.align = .degraded ∧
      (t.hub.prt 0).ltUp = false ∧ t.hub.tm.now = s.hub.tm.now)))

/-- Clocks (R101, R102, R464, R465): a relock clears SCLK_VALID and starts now, and a hub on REFCLK is LOCKED no more; 64 µs of
lock on a clock that is there make the clock valid again, with a record; without lock after 10 ms the relock has failed, with
a record, and is tried again a second later. Losing REFCLK takes a hub that runs on it to HOLDOVER. Phase correction (R113):
at most one step of 25 ps each 25 / SLEW_MAX seconds, against the error, and none for an error below 25 ps or while the
active PPS is incoherent (R106); array time moves by no more than 26 of its units; while the hub is neither LOCKED nor
SLEWING the phase is held. It says that these complete: SLEW, RELOCK, SCLK_VALID, RELOCK_TIMEOUT, RELOCK_RETRY, REFCLK_LOSS.
-/
def Obligations.ClocksAndSlewing : Prop :=
  (∀ (s : State) (t0 : Nat),
  (s.hub.clk.run = true → s.hub.clk.refclk = true → ∃ t, exec .relock s = .next t ∧ t.hub.clk.valid = false ∧
    t.hub.clk.relockAt = some s.hub.clk.elapsed ∧ t.hub.clk.retryAt = none ∧ t.hub.clk.refclk = true ∧ t.hub.chans = s.hub.chans ∧
    t.hub.tm.now = s.hub.tm.now ∧
    (s.hub.tm.src ≠ .lane → s.hub.tm.align = .locked ∨ s.hub.tm.align = .slewing → t.hub.tm.align = .holdover) ∧
    (s.hub.tm.src = .lane → t.hub.tm = s.hub.tm)) ∧
  (s.hub.clk.run = true → s.hub.clk.relockAt = some t0 → t0 + 64000 ≤ s.hub.clk.elapsed → s.hub.pllSource = true →
    let g := forAll (List.range 4) (fun n (h : Hub) => h.sclkStart n s.hub.tm.now) s.hub
    exec .sclkValid s = .next ⟨({ g with clk := { g.clk with valid := true, relockAt := none, retryAt := none } }).notice
      unitHub 0x0A06 0 (argN ((s.hub.clk.elapsed - t0) / 1000)), s.pending⟩) ∧
  (s.hub.clk.run = true → s.hub.clk.relockAt = some t0 → s.hub.clk.elapsed < t0 + 64000 ∨ s.hub.pllSource = false →
    exec .sclkValid s = .next s) ∧
  (s.hub.clk.relockAt = some t0 → t0 + 10000000 ≤ s.hub.clk.elapsed →
    exec .relockTimeout s = .next ⟨({ s.hub with clk := { s.hub.clk with
      relockAt := none, retryAt := some (s.hub.clk.elapsed + 1000000000) } }).notice
      unitHub 0x0A06 1 (argN ((s.hub.clk.elapsed - t0) / 1000)), s.pending⟩) ∧
  (s.hub.clk.retryAt = some t0 → t0 ≤ s.hub.clk.elapsed →
    exec .relockRetry s = .next ⟨{ s.hub with clk := { s.hub.clk with
      relockAt := some s.hub.clk.elapsed, retryAt := none } }, s.pending⟩) ∧
  (s.hub.clk.run = true → s.hub.tm.src ≠ .lane → ∃ t, exec .refclkLoss s = .next t ∧ t.hub.clk.refclk = false ∧
    t.hub.tm.align = .holdover ∧ t.hub.tm.holdAt = s.hub.clk.elapsed ∧ t.hub.tm.now = s.hub.tm.now) ∧
  (s.hub.clk.run = true → s.hub.tm.src = .lane →
    exec .refclkLoss s = .next ⟨{ s.hub with clk := { s.hub.clk with refclk := false } }, s.pending⟩)) ∧
  (∀ s : State,
  (5 * s.hub.tm.e.natAbs < 128 → exec .slew s = .next s) ∧
  (s.hub.tm.src = .pps → s.hub.tm.incoherent = true → exec .slew s = .next s) ∧
  (s.hub.tm.align ≠ .locked → s.hub.tm.align ≠ .slewing → exec .slew s = .next s) ∧
  (∀ t0, s.hub.tm.slewAt = some t0 → (s.hub.clk.elapsed - t0) * fld s.hub.tm.cfg 15 6 < 25 * 1000000000 →
    exec .slew s = .next s) ∧
  (∀ t0, s.hub.tm.slewAt = some t0 → 25 * 1000000000 ≤ (s.hub.clk.elapsed - t0) * fld s.hub.tm.cfg 15 6 →
    128 ≤ 5 * s.hub.tm.e.natAbs → 26 ≤ s.hub.tm.now → s.hub.tm.fifth < 5 →
    ¬(s.hub.tm.src = .pps ∧ s.hub.tm.incoherent = true) → s.hub.tm.align = .locked ∨ s.hub.tm.align = .slewing →
    ∃ t, exec .slew s = .next t ∧ t.hub.tm.slewAt = some s.hub.clk.elapsed ∧
      5 * (t.hub.tm.now : Int) + t.hub.tm.fifth =
        5 * (s.hub.tm.now : Int) + s.hub.tm.fifth + (if 0 < s.hub.tm.e then -128 else 128)))

/-- The array second (R100, R130): a second that has been handled is not handled again; one that is due brings a TIME_CFG that
waits into force; a FREE hub loads an armed second at it. The delay of a downstream port (R111): kept for the port, and sent
in part B to a port that is UP; one beyond the field is recorded instead. P00 has none, nor has a port whose timing lane does
not run. An edge that is recorded lets a spare interpolator take over that waits for it (R444). A time-interval edge (R119,
R120): of a selected polarity and outside the hold-off it is counted and put into the DET stream of its die as a record;
within the hold-off it is merged; of another polarity it leaves only the level. It says that these complete: ARRAY_SECOND,
DELAY, TIN_EDGE. -/
def Obligations.SecondsDelaysAndEdges : Prop :=
  (∀ s : State,
  (secOf s.hub.tm.now ≤ s.hub.tm.second → exec .arraySecond s = .next s) ∧
  (∀ w, s.hub.tm.second < secOf s.hub.tm.now → s.hub.tm.stepNext = 0 → s.hub.tm.armed = false → s.hub.tm.cfgNext = some w →
    ∃ t, exec .arraySecond s = .next t ∧ t.hub.tm.cfg = w ∧ t.hub.tm.cfgNext = none ∧ t.hub.tm.second = secOf s.hub.tm.now ∧
      t.hub.tm.now = s.hub.tm.now) ∧
  (s.hub.tm.second < secOf s.hub.tm.now → s.hub.tm.stepNext = 0 → s.hub.tm.armed = true → s.hub.tm.src = .free →
    ∃ t, exec .arraySecond s = .next t ∧ t.hub.tm.armed = false ∧
      secOf t.hub.tm.now = s.hub.tm.loadValue ∧ nsOf t.hub.tm.now = nsOf s.hub.tm.now)) ∧
  (∀ (s : State) (p rtt : Nat) (q : Port),
  p ≠ 0 → p < s.hub.nPorts → s.hub.ports[p]? = some q →
  (q.ltRuns = false → exec (.delay p rtt) s = .next s) ∧
  (q.ltRuns = true →
  (2 ^ 32 ≤ delayOf p rtt q.asym → exec (.delay p rtt) s = .next ⟨(({ s.hub with
    ports := s.hub.ports.modify p fun q' => { q' with delay := delayOf p rtt q.asym, ltUp := true } }).tiuEdge (p / 4) (p % 4)).notice
    unitHub 0x0203 (argN p) 0, s.pending⟩) ∧
  (delayOf p rtt q.asym < 2 ^ 32 → q.st = .up → ∃ t q', exec (.delay p rtt) s = .next t ∧ t.hub.ports[p]? = some q' ∧
    q'.delay = delayOf p rtt q.asym ∧ q'.link.ctl = q.link.ctl ++ [⟨0x87, 2 ^ 52 + s.hub.tm.base.code * 2 ^ 50 +
      (delayOf p rtt q.asym).toNat % 2 ^ 32 * 2 ^ 16 + s.hub.errEst⟩] ∧ t.hub.tm = s.hub.tm) ∧
  (delayOf p rtt q.asym < 2 ^ 32 → q.st ≠ .up → exec (.delay p rtt) s = .next ⟨({ s.hub with
    ports := s.hub.ports.modify p fun q' => { q' with delay := delayOf p rtt q.asym, ltUp := true } }).tiuEdge (p / 4) (p % 4),
    s.pending⟩))) ∧
  (∀ (s : State) (rtt : Nat), exec (.delay 0 rtt) s = .next s) ∧
  (∀ (s : State) (i ago : Nat) (fall : Bool) (x : Tin),
  i < 8 → s.hub.vio (i / 4) = true → (s.hub.die (i / 4)).inService = true → s.hub.tm.tins[i]? = some x →
  ((bitOf x.cfg 31 = false ∨ (fld x.cfg 30 29 = 0 ∧ fall = true) ∨ (fld x.cfg 30 29 = 1 ∧ fall = false)) →
    exec (.tinEdge i ⟨fall, ago⟩) s = .next ⟨{ s.hub with tm := { s.hub.tm with
      tins := s.hub.tm.tins.modify i fun y => { y with level := !fall } } }, s.pending⟩) ∧
  (bitOf x.cfg 31 = true → ¬(fld x.cfg 30 29 = 0 ∧ fall = true) → ¬(fld x.cfg 30 29 = 1 ∧ fall = false) →
    let at' := s.hub.tm.now - ago
    let drained := (s.hub.clk.elapsed - x.bufAt) / 100
    (((∃ t0, x.last = some t0 ∧ at' - t0 < max 8192 (fld x.cfg 15 0 * 1024)) ∨ 16 ≤ x.buf - drained) →
      exec (.tinEdge i ⟨fall, ago⟩) s = .next ⟨{ s.hub with tm := { s.hub.tm with
        tins := s.hub.tm.tins.modify i fun y => { y with level := !fall, merged := satInc 8 y.merged } } }, s.pending⟩) ∧
    ((∀ t0, x.last = some t0 → max 8192 (fld x.cfg 15 0 * 1024) ≤ at' - t0) → x.buf - drained < 16 →
      exec (.tinEdge i ⟨fall, ago⟩) s = .next ⟨(({ s.hub with tm := { s.hub.tm with
        tins := s.hub.tm.tins.modify i fun y => { y with
          level := !fall
          count := x.count + 1
          merged := 0
          last := some at'
          buf := x.buf - drained + 1
          bufAt := if x.buf ≤ drained then s.hub.clk.elapsed else x.bufAt + 100 * drained } } }).tiuEdge (i / 4) (8 + i % 4)).emitRecord ⟨i / 4, 2, 0⟩
            (2056 + i / 4) (be 1 i ++ be 1 ((if fall then 1 else 0) + (if s.hub.locked then 0 else 2)) ++ be 1 x.merged ++ pad 1 ++
              be 4 (x.count.toNat + 1) ++ stampB at'), s.pending⟩)))

/-- AFE_SET with five words that keep the rules: OK; each named channel has the write waiting for its next conversion boundary,
or, while its octet is calibrated, in what the hold keeps, and nothing else changes (R63 to R66). AFE_SET refused: a SINE
frequency outside 0x431C to 0x83126F, a window limit outside −5 V to +5 V, or a lower limit not below the upper one answers
BAD_ARG, the sum of the drives beyond the budget BUDGET, no channel or one that the part lacks BAD_ARG, a die out of service
FAULT, and each changes nothing but the reply (R36, R43, R53, R64, R379, R380). It says that these complete: AFE_SET. -/
def Obligations.AfeSets : Prop :=
  (∀ (s : State) (chs : List Nat) (w : AfeWords),
  Served s.hub chs →
  let g := s.hub.supposing chs fun d => { d with afe := w }
  (∀ c ∈ chs, (g.ch c).desc.bad (g.refFreq (g.ch c).desc) = false) →
  g.badPartners (chs.map chDie).eraseDups = [] → (∀ d ∈ chs.map chDie, g.overDrive d = false) →
  exec (.afeSet chs w) s = .next ⟨({ s.hub with
    chans := modAll s.hub.chans chs (fun c x =>
      let v : ChanWrite := ⟨none, some w, none, s.hub.tm.now + 1, [], false, s.hub.mgmt.accepts⟩
      if (s.hub.oct (chOct c)).held then x.hold v else { x with writes := x.writes ++ [v] })
    mgmt := { s.hub.mgmt with accepts := s.hub.mgmt.accepts + chs.length } }).ok [], s.pending⟩) ∧
  (∀ (s : State) (chs : List Nat) (w : AfeWords),
  Served s.hub chs →
  ((fld w.drive 2 0 = 1 ∧ (w.freq.toNat < 0x431C ∨ 0x83126F < w.freq.toNat)) ∨
    sfld w.cm 17 9 < -250 ∨ 250 < sfld w.cm 17 9 ∨ sfld w.cm 8 0 < -250 ∨ 250 < sfld w.cm 8 0 ∨
    sfld w.cm 17 9 ≤ sfld w.cm 8 0) →
  ∃ d, exec (.afeSet chs w) s = .next ⟨s.hub.refuseDie St.badArg d, s.pending⟩) ∧
  (∀ (s : State) (chs : List Nat) (w : AfeWords),
  let g := s.hub.supposing chs fun d => { d with afe := w }
  (Served s.hub chs → (∀ c ∈ chs, (g.ch c).desc.bad (g.refFreq (g.ch c).desc) = false) →
    g.badPartners (chs.map chDie).eraseDups = [] → (∃ d ∈ chs.map chDie, g.overDrive d = true) →
    ∃ d, exec (.afeSet chs w) s = .next ⟨s.hub.refuseDie St.budget d, s.pending⟩) ∧
  ((chs = [] ∨ ∃ c ∈ chs, s.hub.nChans ≤ c) → exec (.afeSet chs w) s = .next ⟨s.hub.refuse St.badArg, s.pending⟩) ∧
  (chs ≠ [] → (∀ c ∈ chs, c < s.hub.nChans) → (∃ c ∈ chs, s.hub.dieDown (chDie c) = true) →
    ∃ d, exec (.afeSet chs w) s = .next ⟨s.hub.refuseDie St.fault d, s.pending⟩))

/-- Reads of the front end and of the chain change nothing but the reply (R62, R63, R162, R384, R385): AFE_GET and CHAN_GET
answer the applied words, or those that a hold keeps in their place, AFE_GET and AFE_STATUS with the status word and the two
counters; CHAN_QUERY answers rate, words, state of the switch, settling, load and bound of the output; AFE_REP_GET an
output's five words. It says that these complete: AFE_GET, AFE_REP_GET, AFE_STATUS, CHAN_GET, CHAN_QUERY. -/
def Obligations.ChannelReads : Prop := ∀ (s : State) (c : Nat),
  Served s.hub [c] →
  (exec (.afeGet c) s = .next ⟨s.hub.ok (AfeWords.bytes (s.hub.ch c).shown.afe ++ be 4 (s.hub.astat c).toNat ++
    be 2 (s.hub.ch c).clampCount ++ be 2 (s.hub.ch c).cmCount), s.pending⟩) ∧
  (exec (.chanGet c) s = .next ⟨s.hub.ok ((s.hub.ch c).shown.toWords.flatMap fun (w : Word) => be 4 w.toNat), s.pending⟩) ∧
  ((s.hub.ch c).held = none → (s.hub.ch c).unsettled = [] → (s.hub.ch c).shown = (s.hub.ch c).desc) ∧
  (∀ k, (s.hub.ch c).held.bind ChanWrite.desc = some k → (s.hub.ch c).shown = k) ∧
  (∀ v a, (s.hub.ch c).held = some v → v.desc = none → v.afe = some a → (s.hub.ch c).shown = { (s.hub.ch c).applied with afe := a }) ∧
  (∃ p, exec (.chanQuery c) s = .next ⟨s.hub.ok p, s.pending⟩ ∧ p.length = 40 ∧
    p.take 8 = be 8 ((s.hub.ch c).applied.rate.1 * 2 ^ 32 / (s.hub.ch c).applied.rate.2) ∧
    p.drop 8 = be 1 (s.hub.ch c).applied.words ++ be 1 (s.hub.ch c).xfState ++ p.drop 10 ∧
    p.drop 12 = be 4 ((s.hub.ch c).applied.settle 0 0) ++ p.drop 16 ∧
    p.drop 32 = be 2 (loadUnits ((s.hub.ch c).applied.load (s.hub.ch c).skimEn (s.hub.ch c).appliedRed (s.hub.capSrc c))) ++ p.drop 34 ∧
    p.drop 36 = be 4 ((s.hub.ch c).applied.outBound (s.hub.ch c).applied.coef)) ∧
  (∀ first n, 1 ≤ n → n ≤ 500 → first + n ≤ s.hub.nChans → (∀ i < n, s.hub.dieDown (chDie (first + i)) = false) →
    exec (.afeStatus first n) s = .next ⟨s.hub.ok (((List.range n).map (first + ·)).flatMap fun i => be 4 (s.hub.astat i).toNat ++
      be 2 (s.hub.ch i).clampCount ++ be 2 (s.hub.ch i).cmCount), s.pending⟩) ∧
  (∀ n r, n < 16 → s.hub.reps[n]? = some r → exec (.afeRepGet n) s = .next ⟨s.hub.ok
    ([r.w.ctl, r.w.xlo, r.w.xhi, r.w.outa, r.w.outb, s.hub.repStatus].flatMap fun (x : Word) => be 4 x.toNat), s.pending⟩)

/-- AFE_CLEAR clears the two counters of the channels named, AFE_GUARD sets the guard word of the octets named, AFE_REP_SET sets
an output, which is low and STALE from the moment EN is set until a sample and not STALE where EN is clear, and which keeps
what it has while EN stays set (the model's choice, log entry 154), and nothing else changes (R56, R58, R62, R384). AFE_SYNC
at its instant: the accumulators of every channel named are 0 on the same reference edge, and driven outputs start their ramp
from 0; no other channel's accumulator changes (R40). It says that these complete: AFE_SYNC, AFE_GUARD, AFE_REP_SET,
AFE_CLEAR. -/
def Obligations.FrontEndSettings : Prop :=
  (∀ (s : State),
  (∀ chs, Served s.hub chs → exec (.afeClear chs) s = .next ⟨({ s.hub with
      chans := modAll s.hub.chans chs fun _ x => { x with clampCount := 0, cmCount := 0 } }).ok [], s.pending⟩) ∧
  (∀ octs (w : Word), octs ≠ [] → (∀ o ∈ octs, o < s.hub.nOcts ∧ s.hub.dieDown (o / 16) = false) →
    onlyBits w 0x00000073 = true → exec (.afeGuard octs w) s = .next ⟨({ s.hub with
      octs := modAll s.hub.octs octs fun _ o => { o with guard := w } }).ok [], s.pending⟩) ∧
  (∀ n (w : RepWords) r, n < 16 → badRep w = false → Served s.hub [fld w.ctl 17 8] → DieUp s.hub (n / 8) →
    (s.hub.ch (fld w.ctl 17 8)).skimEn = true → s.hub.reps[n]? = some r → bitOf w.ctl 31 = true →
    bitOf r.w.ctl 31 = true → r.hiZ = false →
    exec (.afeRepSet n w) s = .next ⟨({ s.hub with reps := s.hub.reps.modify n fun _ => { r with w := w } }).ok [], s.pending⟩) ∧
  (∀ n (w : RepWords) r, n < 16 → badRep w = false → Served s.hub [fld w.ctl 17 8] → DieUp s.hub (n / 8) →
    (s.hub.ch (fld w.ctl 17 8)).skimEn = true → s.hub.reps[n]? = some r → bitOf w.ctl 31 = true →
    (bitOf r.w.ctl 31 = false ∨ r.hiZ = true) →
    exec (.afeRepSet n w) s = .next ⟨({ s.hub with reps := s.hub.reps.modify n fun _ =>
      { w := w, stale := true, hiZ := false, waiting := true, width := 0, next := none, base := s.hub.clk.elapsed, nco := 0, phase := 0 } }).ok [], s.pending⟩) ∧
  (∀ n (w : RepWords), n < 16 → badRep w = false → Served s.hub [fld w.ctl 17 8] → DieUp s.hub (n / 8) →
    (s.hub.ch (fld w.ctl 17 8)).skimEn = true → bitOf w.ctl 31 = false →
    exec (.afeRepSet n w) s = .next ⟨({ s.hub with reps := s.hub.reps.modify n fun _ =>
      { w := w, stale := false, hiZ := false, waiting := true, width := 0, next := none, base := s.hub.clk.elapsed, nco := 0, phase := 0 } }).ok [], s.pending⟩)) ∧
  (∀ (s : State) (chs : List Nat),
  Served s.hub chs → ∃ t, exec (.afeSync chs) s = .next t ∧ t.hub.chans.length = s.hub.chans.length ∧
    (∀ (c : Nat) (x : Chan), t.hub.chans[c]? = some x → c ∈ chs →
      x.acc = 0 ∧ x.accAt = s.hub.clk.cycles ∧ x.rampFrom = 0 ∧ ∀ a ∈ x.syncs, s.hub.tm.now < a.at') ∧
    (∀ (c : Nat) (x y : Chan), t.hub.chans[c]? = some x → s.hub.chans[c]? = some y → c ∉ chs →
      x.acc = y.acc ∧ x.accAt = y.accAt ∧ x.desc = y.desc) ∧
    t.hub.tm = s.hub.tm ∧ t.hub.flows = s.hub.flows)

/-- CHAN_SET with a descriptor that keeps every rule: OK, and each named channel has the descriptor waiting for its next
boundary, or, while its octet is calibrated, in what the hold keeps; one that breaks a rule answers BAD_ARG or BUDGET, and
words that are no descriptor answer BAD_ARG, with nothing else changed (R64, R65, R66, R148). It says that these complete:
CHAN_SET. -/
def Obligations.ChanSetAccepted : Prop := ∀ (s : State) (chs : List Nat) (ws : List Word),
  Served s.hub chs →
  (∀ d, Desc.ofWords ws = some d → (∀ x ∈ s.hub.chanTests (s.hub.supposing chs fun _ => d) chs, x.2 = []) →
    exec (.chanSet chs ws) s = .next ⟨({ s.hub with
      chans := modAll s.hub.chans chs (fun c x =>
        let v : ChanWrite := ⟨some d, none, none, s.hub.tm.now + 1, [], false, s.hub.mgmt.accepts⟩
        if (s.hub.oct (chOct c)).held then x.hold v else { x with writes := x.writes ++ [v] })
      mgmt := { s.hub.mgmt with accepts := s.hub.mgmt.accepts + chs.length } }).ok [], s.pending⟩) ∧
  (∀ d, Desc.ofWords ws = some d → (∃ x ∈ s.hub.chanTests (s.hub.supposing chs fun _ => d) chs, x.2 ≠ []) →
    ∃ st e, exec (.chanSet chs ws) s = .next ⟨s.hub.refuseDie st e, s.pending⟩ ∧ (st = St.badArg ∨ st = St.budget)) ∧
  (Desc.ofWords ws = none → exec (.chanSet chs ws) s = .next ⟨s.hub.refuse St.badArg, s.pending⟩)

/-- A write to a channel whose octet is being calibrated is accepted and held; a second one replaces the held values, which reads
show, and the applied words stay until the hold ends (R66): CHAN_SET, AFE_SET and CAP_RED_SET. It says that these complete:
AFE_SET, CHAN_SET, CAP_RED_SET. -/
def Obligations.HeldWrites : Prop := ∀ (s : State) (c : Nat) (ws : List Word) (d : Desc) (x : Chan),
  Served s.hub [c] → (s.hub.oct (chOct c)).held = true → s.hub.chans[c]? = some x →
  (∀ o, x.held = some o → o.order ≤ s.hub.mgmt.accepts) →
  (Desc.ofWords ws = some d → (∀ y ∈ s.hub.chanTests (s.hub.supposing [c] fun _ => d) [c], y.2 = []) →
    ∃ t y v, exec (.chanSet [c] ws) s = .next t ∧ t.hub.mgmt.reply.status = St.ok ∧ t.hub.chans[c]? = some y ∧
      y.held = some v ∧ v.desc = some d ∧ y.shown = d ∧ y.desc = x.desc ∧ y.writes = x.writes) ∧
  (∀ w : AfeWords,
    let g := s.hub.supposing [c] fun d => { d with afe := w }
    (g.ch c).desc.bad (g.refFreq (g.ch c).desc) = false → g.badPartners [chDie c] = [] → g.overDrive (chDie c) = false →
    ∃ t y, exec (.afeSet [c] w) s = .next t ∧ t.hub.mgmt.reply.status = St.ok ∧ t.hub.chans[c]? = some y ∧
      y.shown = { x.shown with afe := w } ∧ y.desc = x.desc ∧ y.writes = x.writes) ∧
  (∀ w : Word, x.latest.badRed w = false → loadAbove (x.latest.load x.skimEn w (s.hub.capSrc c)) 900 = false →
    ∃ t y v, exec (.capRedSet [c] w) s = .next t ∧ t.hub.mgmt.reply.status = St.ok ∧ t.hub.chans[c]? = some y ∧
      y.held = some v ∧ v.red = some w ∧ y.shown = x.shown ∧ y.red = x.red ∧ y.writes = x.writes)

/-- Coefficient sets (R155, R156, R157): CHAN_COEF_LOAD fills the shadow alone; a switch of a loaded shadow waits for its first
sample; a load or a switch during a switch is BUSY with the time until its end; a switch with an empty shadow is NOT_FOUND; a
set that breaks a rule is BAD_ARG, one that loads an engine too much BUDGET. A switch begins at the sample it is for and not
before. The switch of coefficient sets begins (R158): with XF_LEN 0 the two sets change places at once; otherwise the shadow
becomes the active set, and the old set and its copy of the stage state run on beside it. A shadow set that has run beside
since its first sample, because the hardware had not armed its switch yet, takes over as it has run. It says that these
complete: CHAN_COEF_LOAD, CHAN_COEF_SWITCH, FADE. -/
def Obligations.CoefficientSets : Prop :=
  (∀ (s : State) (chs : List Nat) (ws : List Word) (xf : Nat),
  Served s.hub chs → xf ≤ 65535 → ws.length = 136 → onlyBits (ws.getD 0 0) 0x0000037F = true →
  let bad := fun c => (s.hub.ch c).desc.firDec ≠ fld (ws.getD 0 0) 9 8 ∨ (s.hub.ch c).latest.badCoef (CoefSet.ofWords ws) = true
  let tooMuch := fun c =>
    let x := s.hub.ch c
    loadAbove ({ x.latest with coef := CoefSet.ofWords ws }.load x.skimEn x.latestRed (s.hub.capSrc c)) 900 = true ∨
      loadAbove (x.latest.loadXf (CoefSet.ofWords ws) x.skimEn x.latestRed (s.hub.capSrc c)) 1000 = true
  ((∃ c ∈ chs, bad c) → ∃ d, exec (.chanCoefLoad chs ws) s = .next ⟨s.hub.refuseDie St.badArg d, s.pending⟩) ∧
  ((∀ c ∈ chs, ¬bad c) → (∃ c ∈ chs, tooMuch c) →
    ∃ d, exec (.chanCoefLoad chs ws) s = .next ⟨s.hub.refuseDie St.budget d, s.pending⟩) ∧
  ((∀ c ∈ chs, ¬bad c ∧ ¬tooMuch c) → (∀ c ∈ chs, (s.hub.ch c).switching = false) → exec (.chanCoefLoad chs ws) s =
    .next ⟨({ s.hub with chans := modAll s.hub.chans chs fun _ x => { x with shadow := some (CoefSet.ofWords ws) } }).ok [],
      s.pending⟩) ∧
  ((∀ c ∈ chs, ¬bad c ∧ ¬tooMuch c) → (∃ c ∈ chs, (s.hub.ch c).switching = true) →
    ∃ c ∈ chs, exec (.chanCoefLoad chs ws) s = .next ⟨s.hub.busyDie (s.hub.fadesMs chs) (chDie c), s.pending⟩) ∧
  ((∀ c ∈ chs, (s.hub.ch c).switching = true ∨ (s.hub.ch c).shadow.isSome = true) → (∃ c ∈ chs, (s.hub.ch c).switching = true) →
    ∃ c ∈ chs, exec (.chanCoefSwitch chs xf) s = .next ⟨s.hub.busyDie (s.hub.fadesMs chs) (chDie c), s.pending⟩) ∧
  ((∃ c ∈ chs, (s.hub.ch c).switching = false ∧ (s.hub.ch c).shadow = none) →
    ∃ d, exec (.chanCoefSwitch chs xf) s = .next ⟨s.hub.refuseDie St.notFound d, s.pending⟩) ∧
  ((∀ c ∈ chs, (s.hub.ch c).switching = false ∧ (s.hub.ch c).shadow.isSome = true) →
    exec (.chanCoefSwitch chs xf) s = .next ⟨({ s.hub with chans := modAll s.hub.chans chs fun _ x =>
      { x with switch := some ⟨none, xf, none, false⟩ } }).ok [], s.pending⟩)) ∧
  (∀ (s : State) (c : Nat) (x : Chan) (w : PendingSwitch),
  s.hub.chans[c]? = some x → x.switch = some w → (w.job.isSome = true ∧ w.armed = false ∨ (∃ v, w.s = some v ∧ x.nextJ s.hub.tm.now < v)) →
  exec (.fade c) s = .next s) ∧
  (∀ (s : State) (c : Nat) (x : Chan) (new : CoefSet) (w : PendingSwitch),
  c < s.hub.nChans → s.hub.chans[c]? = some x → x.switch = some w → (w.job = none ∨ w.armed = true) →
  (∀ v, w.s = some v → v ≤ x.nextJ s.hub.tm.now) → x.shadow = some new →
  let run := x.trial.getD ⟨x.nextJ s.hub.tm.now, x.stages⟩
  ∃ t y, exec (.fade c) s = .next t ∧ t.hub.chans[c]? = some y ∧ y.desc.coef = new ∧ y.switch = none ∧ y.trial = none ∧
    y.stages = run.stages ∧
    (w.xfLen = 0 → y.shadow = some x.desc.coef ∧ y.fade = x.fade) ∧
    (w.xfLen ≠ 0 → y.shadow = none ∧ y.fade = some ⟨run.s, w.xfLen, x.desc.coef, x.stages⟩) ∧
    (∀ i, i ≠ c → t.hub.chans[i]? = s.hub.chans[i]?))

/-- A conversion that a channel of a running hub takes (R69, R73, R74, R75): its raw sample index is the number of periods since
the epoch; its code is clipped to 14 bits; over-range marks it and the two after it; it stands first in the raw history of
32. A second command within one period changes nothing. A write that waits takes effect at the conversion boundary, not
before (R65): from the next conversion on, the channel has the five words of AFE_SET, and the write no longer waits.
Front-end conditions (R44, R51, R52, R57): the onset of a clamp event counts it; its release starts the 2 µs recovery; a
driver that clips and a guard that limits set their bits, the guard's with a record; their ends clear the bits. It says that
these complete: CONVERSION, CLAMP, EXC_OL, GRD_OL, CLAMP_RELEASE, EXC_OL_END, GRD_OL_END. -/
def Obligations.Conversions : Prop :=
  (∀ (s : State) (c : Nat) (x : Chan) (code mv : Int),
  let h := s.hub
  let k := h.tm.now / x.desc.rawPeriod
  Shaped h → h.chans[c]? = some x → h.clk.run = true → (h.die (chDie c)).faulted = false → (h.die (chDie c)).inService = true →
  h.powered (chQuad c) = true →
  (∀ l, x.lastK = some l → k ≤ l → exec (.conversion c code mv) s = .next s) ∧
  ((∀ l, x.lastK = some l → l < k) → x.writes = [] → x.syncs = [] → x.stopped = false → x.retired = none →
    h.heldCh c = false → (h.pwr.st ≠ .doze ∨ h.feeds c = true) →
    ∃ t y e, exec (.conversion c code mv) s = .next t ∧ t.hub.chans[c]? = some y ∧ y.lastK = some k ∧
      y.hist = (e :: x.hist).take 32 ∧ e.k = k ∧ e.val = max (-8192) (min 8191 code) ∧
      e.orFlag = (decide (8191 < code) || decide (code < -8192) || decide (0 < x.orTail)) ∧
      y.orTail = (if 8191 < code ∨ code < -8192 then 2 else x.orTail - 1) ∧ t.hub.tm.now = s.hub.tm.now)) ∧
  (∀ (s : State) (c : Nat) (x : Chan) (w : AfeWords) (nb el : Nat) (code mv : Int),
  let h := s.hub
  let k := h.tm.now / x.desc.rawPeriod
  Shaped h → h.chans[c]? = some x → h.clk.run = true → (h.die (chDie c)).faulted = false → (h.die (chDie c)).inService = true →
  h.powered (chQuad c) = true → (∀ l, x.lastK = some l → l < k) → x.writes = [⟨none, some w, none, nb, [], false, el⟩] →
  nb ≤ k * x.desc.rawPeriod → x.retired = none → x.stopped = false → h.heldCh c = false → (h.pwr.st ≠ .doze ∨ h.feeds c = true) →
  ∃ t y, exec (.conversion c code mv) s = .next t ∧ t.hub.chans[c]? = some y ∧ y.desc.afe = w ∧ y.writes = [] ∧
    y.desc.conv = x.applied.conv) ∧
  (∀ (s : State) (c : Nat) (x : Chan),
  Shaped s.hub → s.hub.chans[c]? = some x →
  (x.clamped = false → x.clampEnd ≤ s.hub.clk.elapsed → ∃ t y, exec (.clamp c) s = .next t ∧ t.hub.chans[c]? = some y ∧
    y.clamped = true ∧ y.clampCount = satInc 16 x.clampCount ∧ y.desc = x.desc ∧ y.hist = x.hist) ∧
  (x.clamped = false → s.hub.clk.elapsed < x.clampEnd → exec (.clamp c) s = .next ⟨{ s.hub with
    chans := s.hub.chans.modify c fun y => { y with clamped := true } }, s.pending⟩) ∧
  (x.clamped = true → exec (.clampRelease c) s = .next ⟨{ s.hub with chans := s.hub.chans.modify c fun y =>
    { y with clamped := false, clampEnd := s.hub.clk.elapsed + 2000, clearSince :=
      if x.retired = none ∨ x.retired = some 0x0101 then s.hub.clk.elapsed + 2000 else x.clearSince } }, s.pending⟩) ∧
  (x.excOl = false → ∃ t y, exec (.excOl c) s = .next t ∧ t.hub.chans[c]? = some y ∧ y.excOl = true ∧ y.desc = x.desc) ∧
  (x.excOl = true → ∃ t y, exec (.excOlEnd c) s = .next t ∧ t.hub.chans[c]? = some y ∧ y.excOl = false ∧
    y.desc = x.desc ∧ t.hub.octs = s.hub.octs) ∧
  (∀ o, o < s.hub.nOcts → (s.hub.oct o).guardOl = false → exec (.grdOl o) s = .next ⟨({ s.hub with
    octs := s.hub.octs.modify o fun y => { y with guardOl := true } }).notice (unitOct o) 0x0104 0 0, s.pending⟩) ∧
  (∀ o, exec (.grdOlEnd o) s = .next ⟨{ s.hub with octs := s.hub.octs.modify o fun y => { y with guardOl := false } }, s.pending⟩))

/-- The audit converter's entries (R77, R83, R84): 16 codes complete an entry of the run, whose signed sum is kept, and the run
goes on with the next entry; a pending urgent request takes the converter; the readings of a reference check are kept, and
those of the converter's own calibration (R437, R438). Urgent requests (R83, R85, R94): CAL_AUDIT_REQ puts an entry that does
not wait behind those that do, up to eight, and beyond that into the overflow set; an entry that already waits is merged and
counted; several entries all wait afterwards, and what waited still does; an entry that there is not, none or more than eight
of them answer BAD_ARG. It says that these complete: CAL_AUDIT_REQ, AUDIT_ENTRY, PRE_EMPTION. -/
def Obligations.AuditEntries : Prop :=
  (∀ (s : State) (d : Nat) (x : Die) (codes : List Int),
  Shaped s.hub → s.hub.dies[d]? = some x → x.audit.retired = false → x.inService = true →
  (∀ e, codes.length = 16 → (∀ v ∈ codes, -8192 ≤ v ∧ v ≤ 8191) → x.audit.serving = false → x.audit.paused = false →
    s.hub.runNow d = some e →
    ∃ t y, exec (.auditEntry d codes) s = .next t ∧ t.hub.dies[d]? = some y ∧ y.audit.running = true ∧
      y.audit.entry = s.hub.runEntry d (e + 1) ∧ y.audit.sums = x.audit.sums.modify e (fun _ => codes.sum) ∧ t.hub.flows = s.hub.flows) ∧
  (∀ e r rr, codes.length = 16 → (∀ v ∈ codes, -8192 ≤ v ∧ v ≤ 8191) → x.audit.serving = true → x.audit.urgent = e :: r →
    x.audit.ref = some rr → refEntries.contains e = true → ∃ t y, exec (.auditEntry d codes) s = .next t ∧ t.hub.dies[d]? = some y ∧
      y.audit.ref = some (rr.take e codes.sum) ∧ y.audit.sums = x.audit.sums.modify e (fun _ => codes.sum)) ∧
  (∀ e l, codes.length = 16 → (∀ v ∈ codes, -8192 ≤ v ∧ v ≤ 8191) → x.audit.serving = false → x.audit.paused = true →
    x.audit.cal = some (e, l) → l.length < 24 → exec (.auditEntry d codes) s = .next ⟨{ s.hub with dies := s.hub.dies.modify d fun y =>
      { y with audit := { y.audit with cal := some (e, l ++ [codes.sum]) } } }, s.pending⟩) ∧
  (∀ e r, codes.length = 16 → (∀ v ∈ codes, -8192 ≤ v ∧ v ≤ 8191) → x.audit.serving = true → x.audit.urgent = e :: r →
    x.audit.ref = none →
    ∃ t y, exec (.auditEntry d codes) s = .next t ∧ t.hub.dies[d]? = some y ∧ y.audit.urgent = r ++ x.audit.overflow.take 1 ∧
      y.audit.overflow = x.audit.overflow.drop 1 ∧ y.audit.sums = x.audit.sums.modify e (fun _ => codes.sum)) ∧
  (exec (.preEmption d) s = .next ⟨{ s.hub with dies := s.hub.dies.modify d fun y => { y with audit :=
    { y.audit with serving := y.audit.serving || !y.audit.urgent.isEmpty } } }, s.pending⟩)) ∧
  (∀ (s : State) (d e : Nat) (x : Die),
  DieUp s.hub d → s.hub.dies[d]? = some x → e < 144 →
  ((x.audit.urgent.contains e || x.audit.overflow.contains e) = true →
    exec (.calAuditReq d [e]) s = .next ⟨({ s.hub with dies := s.hub.dies.modify d fun y => { y with audit :=
      { y.audit with urgMerge := satInc 8 x.audit.urgMerge } } }).ok [], s.pending⟩) ∧
  ((x.audit.urgent.contains e || x.audit.overflow.contains e) = false → x.audit.urgent.length < 8 →
    exec (.calAuditReq d [e]) s = .next ⟨({ s.hub with dies := s.hub.dies.modify d fun y => { y with audit :=
      { y.audit with urgent := x.audit.urgent ++ [e] } } }).ok [], s.pending⟩) ∧
  ((x.audit.urgent.contains e || x.audit.overflow.contains e) = false → 8 ≤ x.audit.urgent.length →
    exec (.calAuditReq d [e]) s = .next ⟨({ s.hub with dies := s.hub.dies.modify d fun y => { y with audit :=
      { y.audit with overflow := insertNat e x.audit.overflow } } }).ok [], s.pending⟩)) ∧
  (∀ (s : State) (d : Nat) (es : List Nat) (x : Die),
  DieUp s.hub d → s.hub.dies[d]? = some x → es ≠ [] → es.length ≤ 8 → (∀ e ∈ es, e < 144) →
  ∃ t y, exec (.calAuditReq d es) s = .next t ∧ t.hub.mgmt.reply = ⟨St.ok, 0, 255, []⟩ ∧ t.hub.dies[d]? = some y ∧
    (∀ e ∈ es, e ∈ y.audit.urgent ∨ e ∈ y.audit.overflow) ∧ (∀ e ∈ x.audit.urgent, e ∈ y.audit.urgent) ∧
    (∀ e ∈ x.audit.overflow, e ∈ y.audit.overflow)) ∧
  (∀ (s : State) (d : Nat) (es : List Nat), s.hub.nDies ≤ d ∨ es = [] ∨ 8 < es.length ∨ (∃ e ∈ es, 144 ≤ e) →
    exec (.calAuditReq d es) s = .next ⟨s.hub.refuse St.badArg, s.pending⟩)

/-- The comparison of audit and main never replaces or corrects the main value (R91): raw history, descriptor and skim stay; the
result that waited is used up once the sample after it has come, and not before. The end of an audit run (R76, R94): the run
is counted, the next begins at its first entry, in Doze once its 10 ms are over (R451), and an AUD_CFG that waits takes
effect; while entries of the run are left nothing happens. CAL_AUDIT_SET, CAL_AUDIT_GET and CAL_AUDIT_READ (R94, R397): the
word waits for the start of the next run on each die named; a mode of 0, a SUSP_K above 16 or a reserved bit answers BAD_ARG;
the reads change nothing but the reply. A reduction block (R206, R208): its record is due two skim periods after its end,
then the block closes with a record for each skim word; before that nothing happens. It says that these complete:
CAL_AUDIT_SET, CAL_AUDIT_GET, CAL_AUDIT_READ, COMPARISON, MILK_RUN, RED_RECORD. -/
def Obligations.AuditComparisons : Prop :=
  (∀ (s : State) (c : Nat) (x : Chan) (w : AuditWait) (later : List AuditWait),
  Shaped s.hub → s.hub.chans[c]? = some x → x.auditWait = w :: later →
  (∀ k, x.lastK = some k → k < w.ta / x.desc.rawPeriod + 1 → exec (.comparison c) s = .next s) ∧
  ((∀ k, x.lastK = some k → w.ta / x.desc.rawPeriod + 1 ≤ k) → ∃ t y, exec (.comparison c) s = .next t ∧
    t.hub.chans[c]? = some y ∧ y.auditWait = later ∧ y.hist = x.hist ∧ y.lastK = x.lastK ∧ y.desc = x.desc ∧ y.skim0 = x.skim0 ∧
    y.skim1 = x.skim1)) ∧
  (∀ (s : State) (d : Nat) (x : Die),
  Shaped s.hub → s.hub.dies[d]? = some x → x.audit.retired = false → x.inService = true → x.audit.serving = false →
  (x.audit.running = false ∨ x.audit.entry.isSome = true ∨ x.audit.paused = true → exec (.milkRun d) s = .next s) ∧
  (x.audit.running = true → x.audit.entry = none → x.audit.paused = false → s.hub.pwr.st = .doze →
    ∃ t y, exec (.milkRun d) s = .next t ∧ t.hub.dies[d]? = some y ∧ y.audit.runs = x.audit.runs + 1 ∧ y.audit.running = false ∧
    y.audit.entry = none ∧ y.audit.runAt = x.audit.runAt) ∧
  (x.audit.running = true → x.audit.entry = none → x.audit.paused = false → s.hub.pwr.st ≠ .doze →
    ∃ t y, exec (.milkRun d) s = .next t ∧ t.hub.dies[d]? = some y ∧
    y.audit.runs = x.audit.runs + 1 ∧ y.audit.entry = t.hub.runEntry d 0 ∧ y.audit.cmp = [] ∧ y.audit.dis = [] ∧
    y.audit.cfg = x.audit.cfgNext.getD x.audit.cfg ∧ y.audit.cfgNext = none ∧ t.hub.tm = s.hub.tm)) ∧
  (∀ (s : State) (dies : List Nat) (w : Word),
  (NamedUp s.hub dies → badAudCfg w = false → exec (.calAuditSet dies w) s = .next ⟨({ s.hub with
    dies := modAll s.hub.dies (s.hub.named dies) fun _ y => { y with audit := { y.audit with cfgNext := some w } } }).ok [],
    s.pending⟩) ∧
  (NamedUp s.hub dies → badAudCfg w = true →
    ∃ d ∈ s.hub.named dies, exec (.calAuditSet dies w) s = .next ⟨s.hub.refuseDie St.badArg d, s.pending⟩) ∧
  (Named s.hub dies → exec (.calAuditGet dies) s = .next ⟨s.hub.ok ((s.hub.named dies).flatMap fun d =>
    be 4 ((s.hub.aud d).cfgNext.getD (s.hub.aud d).cfg).toNat), s.pending⟩) ∧
  (∀ c n, c < s.hub.nChans → n ≤ 128 → c + n ≤ 128 * (c / 128 + 1) → s.hub.dieDown (c / 128) = false →
    ∃ p, exec (.calAuditRead c n) s = .next ⟨s.hub.ok p, s.pending⟩ ∧ p.length = 68 + 4 * n ∧
      p.drop 68 = (List.range n).flatMap fun i => be 4 (s.hub.ch (c + i)).audit.word.toNat)) ∧
  (∀ (s : State) (c b : Nat) (x : Chan),
  Shaped s.hub → s.hub.chans[c]? = some x → x.red.block = some b →
  let per := srcPeriod 1 x.desc
  let start := redStart x.red.cfg x.desc b
  let past := s.hub.tm.now - redStart x.red.cfg x.desc (b + 1)
  let expected := redFirst x.red.cfg x.desc (b + 1) - redFirst x.red.cfg x.desc b
  let ended : Hub := { s.hub with chans := s.hub.chans.modify c fun y => { y with red := { y.red with
    block := none, cut := false, acc0 := RedAcc.empty, acc1 := RedAcc.empty } } }
  let key : FlowKey := ⟨s.hub.builder c, 1, 0⟩
  let first := ended.emitSince key (2048 + chDie c) (redRecord c 0 x.red.cut (!x.skimBuilt) x.red.acc0 expected start) start
  (past * per.2 < 2 * per.1 → exec (.redRecord c) s = .next s) ∧
  (2 * per.1 ≤ past * per.2 → x.desc.words = 1 → exec (.redRecord c) s = .next ⟨first, s.pending⟩) ∧
  (2 * per.1 ≤ past * per.2 → x.desc.words = 2 → exec (.redRecord c) s = .next
    ⟨first.emitSince key (2048 + chDie c) (redRecord c 1 x.red.cut (!x.skimBuilt) x.red.acc1 expected start) start, s.pending⟩) ∧
  (2 * per.1 ≤ past * per.2 → ∃ t y, exec (.redRecord c) s = .next t ∧ t.hub.chans[c]? = some y ∧ y.red.block = none ∧
    y.red.acc0 = RedAcc.empty ∧ y.red.acc1 = RedAcc.empty ∧ y.red.cfg = x.red.cfg ∧ y.desc = x.desc ∧ y.hist = x.hist)) ∧
  (∀ (s : State) (c : Nat), (s.hub.ch c).red.block = none → exec (.redRecord c) s = .next s)

/-- An EA64 level (R169): it rises at or above LEVEL, falls at or below LEVEL − HYST, and otherwise keeps its side; the first
sample after enabling raises nothing; an event always changes the side, so that two events in a row have opposite directions.
A trigger unit (R171, R172, R173, R174): a unit that is not ready does not fire, and fires in free run only 1 µs after the
last trigger; firing leaves it not ready with MISSED 0; an occurrence while it is not ready adds one to MISSED, up to 255; a
fire condition that merely stays true adds nothing. -/
def Obligations.DetectorAndTriggerRules : Prop :=
  (∀ (level hyst : Word) (st : Option Bool) (v : Int),
  ((thrStep level hyst none v).2 = none) ∧
  (sfld level 23 0 ≤ v → thrStep level hyst (some false) v = (some true, some true)) ∧
  (v < sfld level 23 0 → thrStep level hyst (some false) v = (some false, none)) ∧
  (v ≤ sfld level 23 0 - fld hyst 23 0 → thrStep level hyst (some true) v = (some false, some false)) ∧
  (sfld level 23 0 - fld hyst 23 0 < v → thrStep level hyst (some true) v = (some true, none)) ∧
  (∀ up, (thrStep level hyst st v).2 = some up → st = some (!up) ∧ (thrStep level hyst st v).1 = some up)) ∧
  (∀ (u : TrigUnit) (d : DetSec) (scale : Int) (t : Nat) (x : Int) (l : TrigLook),
  d.look u scale x = some l →
  (bitOf d.trg 23 = false → u.readyLow = false → u.readyHigh = false → (u.eval d scale t x).2 = none) ∧
  (bitOf d.trg 23 = true → t < u.since + fuUs → (u.eval d scale t x).2 = none) ∧
  (bitOf d.trg 23 = true → u.since + fuUs ≤ t → l.fire = true → (u.eval d scale t x).2 = some (l, u.missed)) ∧
  (bitOf d.trg 23 = false → u.readyLow = true ∨ u.readyHigh = true → l.fire = true →
    (u.eval d scale t x).2 = some (l, u.missed) ∧ (u.eval d scale t x).1.readyLow = false ∧
    (u.eval d scale t x).1.readyHigh = false ∧ (u.eval d scale t x).1.missed = 0 ∧ (u.eval d scale t x).1.since = t) ∧
  (bitOf d.trg 23 = false → u.readyLow = false → u.readyHigh = false → l.fire = true → u.prevFire = false →
    (u.eval d scale t x).1.missed = satInc 8 u.missed) ∧
  (bitOf d.trg 23 = false → u.readyLow = false → u.readyHigh = false → l.fire = true → u.prevFire = true →
    (u.eval d scale t x).1.missed = u.missed))

/-- Settings of triggers (R178, R179, R181, R185, R386): what TRIG_PIN_SET, TRIG_KON_SET and TRIG_ARR_SET store (events of a
source that is no member any more go), when they answer BAD_ARG and change nothing, and what TRIG_PIN_GET reads. TRIG_STATUS
answers the counters and clears them only where CLEAR is set; TRIG_FORCE answers the trigger id that it used, and the next
trigger has the next id, mod 65,536 (R176, R186, R386). It says that these complete: TRIG_PIN_SET, TRIG_PIN_GET,
TRIG_KON_SET, TRIG_ARR_SET, TRIG_FORCE, TRIG_STATUS. -/
def Obligations.TriggerSettings : Prop :=
  (∀ s : State,
  (∀ pin (w : Word), pin < 8 → onlyBits w 0xE07000FF = true → fld w 30 29 ≠ 3 → DieUp s.hub (pinDie pin) →
    exec (.trigPinSet pin w) s = .next ⟨({ s.hub with trg := { s.hub.trg with
      pins := s.hub.trg.pins.modify pin fun p => { p with cfg := w } } }).ok [], s.pending⟩) ∧
  (∀ pin (w : Word), 8 ≤ pin ∨ onlyBits w 0xE07000FF = false ∨ fld w 30 29 = 3 →
    exec (.trigPinSet pin w) s = .next ⟨s.hub.refuse St.badArg, s.pending⟩) ∧
  (∀ pin p, s.hub.trg.pins[pin]? = some p → pin < 8 → DieUp s.hub (pinDie pin) → exec (.trigPinGet pin) s = .next ⟨s.hub.ok
    (be 4 p.cfg.toNat ++ be 1 (if p.level then 1 else 0) ++ be 1 p.missed ++ pad 2), s.pending⟩) ∧
  (∀ g pins k win lat (route : Word) units, g < 16 → pins < 256 → 1 ≤ win → win ≤ 1000000 → 4000 ≤ lat → lat ≤ 10000000 →
    onlyBits route 0x007000FF = true → (∀ c ∈ units, c < s.hub.nChans ∧ s.hub.dieDown (chDie c) = false) →
    k ≤ units.length + (bitsOf 8 pins).length → k ≠ 0 →
    ({ s.hub with chans := s.hub.chans.map fun (x : Chan) => { x with desc := x.latest } }).konMembersOk
      ⟨k, pins, units, win, lat, route, [], 0, 0⟩ = true →
    exec (.trigKonSet g pins k win lat route units) s = .next ⟨({ s.hub with trg := { s.hub.trg with
      kons := s.hub.trg.kons.modify g fun o => ⟨k, pins, units, win, lat, route,
        o.events.filter fun (e : KonEvent) => Kon.has ⟨k, pins, units, win, lat, route, [], 0, 0⟩ e.member, o.readyAt, o.missed⟩ } }).ok [],
      s.pending⟩) ∧
  (∀ g pins win lat (route : Word) units, g < 16 → pins < 256 → 1 ≤ win → win ≤ 1000000 → 4000 ≤ lat → lat ≤ 10000000 →
    onlyBits route 0x007000FF = true → (∀ c ∈ units, c < s.hub.nChans ∧ s.hub.dieDown (chDie c) = false) →
    exec (.trigKonSet g pins 0 win lat route units) s = .next ⟨({ s.hub with trg := { s.hub.trg with
      kons := s.hub.trg.kons.modify g fun o => ⟨0, pins, units, win, lat, route, [], o.readyAt, o.missed⟩ } }).ok [],
      s.pending⟩) ∧
  (∀ g pins k win lat (route : Word) units, 16 ≤ g ∨ 256 ≤ pins ∨ win < 1 ∨ 1000000 < win ∨ lat < 4000 ∨ 10000000 < lat ∨
    onlyBits route 0x007000FF = false ∨ (∃ c ∈ units, s.hub.nChans ≤ c) ∨ units.length + (bitsOf 8 pins).length < k ∨
    ({ s.hub with chans := s.hub.chans.map fun (x : Chan) => { x with desc := x.latest } }).konMembersOk
      ⟨k, pins, units, win, lat, route, [], 0, 0⟩ = false →
    exec (.trigKonSet g pins k win lat route units) s = .next ⟨s.hub.refuse St.badArg, s.pending⟩) ∧
  (∀ groups us, 10 ≤ us → us ≤ 10000 → (∀ g ∈ groups, g < 256) →
    exec (.trigArrSet groups us) s = .next ⟨({ s.hub with trg := { s.hub.trg with groups := groups, lat := us * 1000 } }).ok [],
      s.pending⟩) ∧
  (∀ groups, (∀ g ∈ groups, g < 256) → exec (.trigArrSet groups 0) s = .next ⟨({ s.hub with trg := { s.hub.trg with
    groups := groups, lat := 200000 } }).ok [], s.pending⟩) ∧
  (∀ groups us, (us ≠ 0 ∧ us < 10) ∨ 10000 < us ∨ (∃ g ∈ groups, 256 ≤ g) →
    exec (.trigArrSet groups us) s = .next ⟨s.hub.refuse St.badArg, s.pending⟩)) ∧
  (∀ s : State,
  let p := s.hub.trg.pins.flatMap (fun (q : TrigPin) => be 1 q.missed) ++ s.hub.trg.kons.flatMap (fun (k : Kon) => be 1 k.missed) ++
    be 4 (sat 32 s.hub.trg.bad) ++ be 4 (sat 32 s.hub.trg.late) ++ be 4 (sat 32 s.hub.trg.lost) ++ be 4 (sat 32 s.hub.trg.suppressed)
  (exec (.trigStatus 0) s = .next ⟨s.hub.ok p, s.pending⟩) ∧
  (∀ n, n ≠ 0 → exec (.trigStatus n) s = .next ⟨({ s.hub with trg := { s.hub.trg with
    bad := 0, late := 0, lost := 0, suppressed := 0, pins := s.hub.trg.pins.map (fun (q : TrigPin) => { q with missed := 0 })
    kons := s.hub.trg.kons.map (fun (k : Kon) => { k with missed := 0 }) } }).ok p, s.pending⟩) ∧
  (∃ t, exec .trigForce s = .next t ∧ t.hub.trg.nextId = (s.hub.trg.nextId + 1) % 65536 ∧
    t.hub.mgmt.reply = ⟨St.ok, 0, 255, be 2 s.hub.trg.nextId ++ pad 2⟩ ∧ t.hub.tm = s.hub.tm))

/-- A TRIG pin (R177, R178): a level shown for nine cycles of 1 ns that is not the pin's present one is taken over, stamped with
the first of its cycles, and a shorter one changes nothing; an edge that is not selected leaves no more than that; a selected
edge within 1 µs of the pin's last trigger adds to MISSED; a later one triggers, is the last, clears MISSED and uses one
trigger id. It says that these complete: TRIG_EDGE. -/
def Obligations.TriggerPins : Prop := ∀ (s : State) (pin run : Nat) (fall : Bool) (p : TrigPin),
  let stamp := (s.hub.tm.now / 1024 - (run - 1)) * 1024
  let sel := bitOf p.cfg 31 && (fld p.cfg 30 29 == 2 || (fld p.cfg 30 29 == 1) == fall)
  s.hub.trg.pins[pin]? = some p → pin < 8 → (s.hub.die (pinDie pin)).faulted = false → p.level = fall →
  s.hub.vio (pin / 4) = true →
  (run < 9 → exec (.trigEdge pin ⟨fall, run⟩) s = .next s) ∧
  (9 ≤ run → sel = false → exec (.trigEdge pin ⟨fall, run⟩) s = .next ⟨{ s.hub with trg := { s.hub.trg with
    pins := s.hub.trg.pins.modify pin fun q => { q with level := !fall } } }, s.pending⟩) ∧
  (∀ t0, 9 ≤ run → sel = true → p.last = some t0 → stamp < t0 + fuUs → exec (.trigEdge pin ⟨fall, run⟩) s = .next ⟨{ s.hub with
    trg := { s.hub.trg with pins := s.hub.trg.pins.modify pin fun q =>
      { q with level := !fall, missed := satInc 8 p.missed } } }, s.pending⟩) ∧
  (9 ≤ run → sel = true → (∀ t0, p.last = some t0 → t0 + fuUs ≤ stamp) → ∃ t q, exec (.trigEdge pin ⟨fall, run⟩) s = .next t ∧
    t.hub.trg.pins[pin]? = some q ∧ q.last = some stamp ∧ q.missed = 0 ∧ q.level = !fall ∧ q.cfg = p.cfg ∧
    t.hub.trg.nextId = (s.hub.trg.nextId + 1) % 65536)

/-- A k-of-n group (R180, R181): an event is evaluated only once its stamp plus KON_LAT has come; an event stamped before the
group is ready again is discarded and counted in MISSED; when K members have events within WIN the group fires, is not ready
for 1 µs after the stamp, and the events counted are gone. It says that these complete: KON_EVALUATION. -/
def Obligations.KonGroups : Prop := ∀ (s : State) (g : Nat) (k : Kon) (e : KonEvent),
  s.hub.trg.kons[g]? = some k → k.next = some e →
  let live := (k.events.filter fun x => x != e).filter fun (x : KonEvent) => !x.evaluated || decide (e.stamp ≤ x.stamp + k.win * 1024)
  let counted := { e with evaluated := true } :: live.filter fun (x : KonEvent) => x.evaluated
  (s.hub.tm.now < e.stamp + k.lat * 1024 → exec (.konEvaluation g) s = .next s) ∧
  (e.stamp + k.lat * 1024 ≤ s.hub.tm.now → e.stamp < k.readyAt → exec (.konEvaluation g) s = .next ⟨{ s.hub with
    trg := { s.hub.trg with kons := s.hub.trg.kons.modify g fun o =>
      { o with events := k.events.filter (fun x => x != e), missed := satInc 8 k.missed } } }, s.pending⟩) ∧
  (e.stamp + k.lat * 1024 ≤ s.hub.tm.now → k.readyAt ≤ e.stamp → ((counted.map KonEvent.member).eraseDups).length < k.k →
    exec (.konEvaluation g) s = .next ⟨{ s.hub with trg := { s.hub.trg with kons := s.hub.trg.kons.modify g fun o =>
      { o with events := live ++ [{ e with evaluated := true }] } } }, s.pending⟩) ∧
  (e.stamp + k.lat * 1024 ≤ s.hub.tm.now → k.readyAt ≤ e.stamp → k.k ≤ ((counted.map KonEvent.member).eraseDups).length →
    ∃ t o, exec (.konEvaluation g) s = .next t ∧ t.hub.trg.kons[g]? = some o ∧ o.readyAt = e.stamp + fuUs ∧ o.missed = 0 ∧
      o.events = live.filter (fun (x : KonEvent) => !x.evaluated) ∧ t.hub.trg.nextId = (s.hub.trg.nextId + 1) % 65536)

/-- CAP_ARM that breaks no rule (R193): the capture stands armed with its parameters, no train made, and no other capture
changes. CAP_ARM refused (R5, R193, R380): parameters out of range, or a channel that the part lacks, answer BAD_ARG and
change nothing; so does a capture that is armed already, or channels that another one holds; what exceeds a limit of a die
answers BUDGET, and a die of its channels, of its trigger units or of its port that is down FAULT. It says that these
complete: CAP_ARM. -/
def Obligations.Captures : Prop :=
  (∀ (s : State) (p : CapParams),
  Shaped s.hub → s.hub.badCap p = false → (∀ d ∈ p.port / 4 :: (p.channels ++ p.units).map chDie, s.hub.dieDown d = false) →
  s.hub.capConflict p = [] → s.hub.capOver (s.hub.capInstall p) p = [] →
  ∃ t c, exec (.capArm p) s = .next t ∧ t.hub.mgmt.reply = ⟨St.ok, 0, 255, []⟩ ∧ t.hub.caps[p.capture]? = some (some c) ∧
    c.params = p ∧ c.made = 0 ∧ c.train = none ∧ c.stopping = false ∧
    c.left = (if p.count = 0 then none else some p.count) ∧
    (∀ n, n ≠ p.capture → t.hub.caps[n]? = s.hub.caps[n]?) ∧ t.hub.tm = s.hub.tm) ∧
  (∀ (s : State) (p : CapParams),
  (31 < p.capture ∨ p.len < 16 ∨ 65536 < p.len ∨ 6 < p.decE ∨ 100 < p.prePct ∨ p.channels = [] ∨ (∃ c ∈ p.channels, s.hub.nChans ≤ c) →
    exec (.capArm p) s = .next ⟨s.hub.refuse St.badArg, s.pending⟩) ∧
  (s.hub.badCap p = true → exec (.capArm p) s = .next ⟨s.hub.refuse St.badArg, s.pending⟩) ∧
  (s.hub.badCap p = false → (∀ d ∈ p.port / 4 :: (p.channels ++ p.units).map chDie, s.hub.dieDown d = false) →
    ((s.hub.cap p.capture).isSome = true ∨ s.hub.capConflict p ≠ []) →
    ∃ d, exec (.capArm p) s = .next ⟨s.hub.refuseDie St.badArg d, s.pending⟩) ∧
  (s.hub.badCap p = false → (∀ d ∈ p.port / 4 :: (p.channels ++ p.units).map chDie, s.hub.dieDown d = false) →
    s.hub.capConflict p = [] → s.hub.capOver (s.hub.capInstall p) p ≠ [] →
    ∃ d, exec (.capArm p) s = .next ⟨s.hub.refuseDie St.budget d, s.pending⟩) ∧
  (s.hub.badCap p = false → (∃ d ∈ p.port / 4 :: (p.channels ++ p.units).map chDie, s.hub.dieDown d = true) →
    ∃ d, exec (.capArm p) s = .next ⟨s.hub.refuseDie St.fault d, s.pending⟩))

/-- CAP_DISARM and CAP_TRIG (R198, R387): a capture between trains is disarmed at once; one whose train fills stops after it, its
reservations given up, so that captures that wait for room on its dies are tried again, and with ABORT it ends its train and
is disarmed at once; a CAP_TRIG is a trigger with an id of its own; an unknown capture is NOT_FOUND. A capture that waits for
space on a die reserves as soon as it is tried again with enough of it (R194); where none waits nothing changes. It says that
these complete: CAP_DISARM, CAP_TRIG, RESERVATION_RETRY. -/
def Obligations.CaptureStops : Prop :=
  (∀ (s : State) (n ab : Nat),
  (s.hub.cap n = none → exec (.capDisarm n ab) s = .next ⟨s.hub.refuse St.notFound, s.pending⟩ ∧
    exec (.capTrig n) s = .next ⟨s.hub.refuse St.notFound, s.pending⟩) ∧
  (∀ c, s.hub.caps[n]? = some (some c) → (∀ d ∈ c.dieList, s.hub.dieDown d = false) → c.train = none →
    ∃ t, exec (.capDisarm n ab) s = .next t ∧ t.hub.caps[n]? = some none ∧ t.hub.mgmt.reply.status = St.ok ∧
      t.hub.tm = s.hub.tm) ∧
  (∀ c tr, s.hub.caps[n]? = some (some c) → (∀ d ∈ c.dieList, s.hub.dieDown d = false) → c.train = some tr →
    exec (.capDisarm n 0) s = .next ⟨(forAll c.dieList (fun d (h : Hub) => h.retryWait d) (s.hub.setCap n fun c => { c with
      stopping := true, dies := c.dies.map fun x => { x with reserved := 0, slots := 0, wait := false } })).ok [], s.pending⟩) ∧
  (∀ c tr, s.hub.caps[n]? = some (some c) → (∀ d ∈ c.dieList, s.hub.dieDown d = false) → c.train = some tr → ab ≠ 0 →
    tr.open' ≠ [] → tr.open'.Nodup → (∀ i ∈ tr.open', (s.hub.fillingCoach n i).isSome = true) →
    (∀ d, ((s.hub.die d).store.coaches.map Coach.seq).Nodup) →
    ∃ t, exec (.capDisarm n ab) s = .next t ∧ t.hub.caps[n]? = some none ∧ t.hub.mgmt.reply = ⟨St.ok, 0, 255, []⟩) ∧
  (∀ c, s.hub.cap n = some c → c.params.opts % 2 = 0 → exec (.capTrig n) s = .next ⟨s.hub.refuse St.badArg, s.pending⟩) ∧
  (∀ c, s.hub.cap n = some c → c.params.opts % 2 = 1 → ∃ t, exec (.capTrig n) s = .next t ∧
    t.hub.trg.nextId = (s.hub.trg.nextId + 1) % 65536 ∧ t.hub.mgmt.reply = ⟨St.ok, 0, 255, []⟩)) ∧
  (∀ (s : State),
  ((∀ n c, s.hub.cap n = some c → ∀ x ∈ c.dies, x.wait = false) → exec .reservationRetry s = .next s) ∧
  (∀ n c x, n < 32 → s.hub.caps[n]? = some (some c) → c.dies = [x] → x.wait = true → x.die < s.hub.nDies →
    (∀ m k, m ≠ n → s.hub.cap m = some k → ∀ y ∈ k.dies, y.wait = false) →
    let need := ((CapParams.on c.params x.die).map fun ch => CapParams.coachKib c.params (s.hub.ch ch).desc x.step).sum
    s.hub.coachUsed x.die + need ≤ (s.hub.die x.die).store.coachKib →
    let taken := (s.hub.caps.map fun o => match o with
      | some k => ((k.dies.filter fun y => y.die == x.die).map CapDie.slots).sum
      | none => 0).sum - x.slots
    (∀ i < taken + (CapParams.on c.params x.die).length, ∀ y ∈ (s.hub.die x.die).store.coaches,
      y.st = .free ∨ y.seq % 65536 ≠ ((s.hub.die x.die).store.nextCoach + i) % 65536) →
    ∃ t k, exec .reservationRetry s = .next t ∧ t.hub.caps[n]? = some (some k) ∧
      k.dies = [{ x with reserved := need, slots := (CapParams.on c.params x.die).length, wait := false }] ∧ k.params = c.params))

/-- Reads of captures change nothing but the reply: CAP_STATUS, CAP_PART_GET, CAP_WM_GET, CAP_LIST and CAP_RED_GET (R188, R190,
R192, R205, R388). Settings of the store, CAP_PART_SET, CAP_WM_SET and CAP_RED_SET (R188, R189, R190, R205): a partition that
every named die can take is taken by each; one that some die refuses changes nothing on any, and answers that die's status,
with 100 ms of BUSY; watermarks in order are taken by each, others answer BAD_ARG; RED_CFG waits for the boundary of each
channel, or in its octet's hold; a word that breaks a rule answers BAD_ARG or BUDGET. A die that the part lacks answers
BAD_ARG, and one that is down FAULT; a frozen die is read and not changed (R359, R380, R420). It says that these complete:
CAP_STATUS, CAP_PART_SET, CAP_PART_GET, CAP_WM_SET, CAP_WM_GET, CAP_LIST, CAP_RED_SET, CAP_RED_GET. -/
def Obligations.CaptureReadsAndStore : Prop :=
  (∀ (s : State),
  (∀ n, n ≤ 31 → s.hub.cap n = none → exec (.capStatus n) s = .next ⟨s.hub.ok (pad 12), s.pending⟩) ∧
  (∀ n, 31 < n → exec (.capStatus n) s = .next ⟨s.hub.refuse St.badArg, s.pending⟩) ∧
  (∀ n c, n ≤ 31 → s.hub.cap n = some c →
    let on := fun d => (c.dies.find? fun x => x.die == d).getD ⟨d, 0, false, 0, 0⟩
    exec (.capStatus n) s = .next ⟨s.hub.ok (be 1 1 ++ be 1 (ofBits ((List.range 8).filter fun d => (on d).wait)) ++ be 2 c.made ++
      (List.range 8).flatMap fun d => be 1 (on d).step), s.pending⟩) ∧
  (∀ dies, Named s.hub dies → exec (.capPartGet dies) s = .next ⟨s.hub.ok ((s.hub.named dies).flatMap fun d =>
    be 4 (s.hub.die d).store.part.toNat), s.pending⟩) ∧
  (∀ dies, Named s.hub dies → exec (.capWmGet dies) s = .next ⟨s.hub.ok ((s.hub.named dies).flatMap fun d =>
    be 4 (s.hub.die d).store.wm.toNat), s.pending⟩) ∧
  (∀ dies q, Named s.hub dies → s.hub.badQuery q = false → (q.ch = 0xFFFF ∨ s.hub.dieDown (chDie q.ch) = false) →
    exec (.capList dies q) s = .next ⟨s.hub.ok
      (((((s.hub.named dies).flatMap fun d => (s.hub.coachesOf d).map fun c => (d, c)).filter fun p =>
        CapQuery.takes q p.1 p.2).take 170).flatMap fun p => p.2.entry p.1), s.pending⟩) ∧
  (∀ dies q, Named s.hub dies → s.hub.badQuery q = true → (q.ch < s.hub.nChans → s.hub.dieDown (chDie q.ch) = false) →
    ∃ d ∈ s.hub.named dies, exec (.capList dies q) s = .next ⟨s.hub.refuseDie St.badArg d, s.pending⟩) ∧
  (∀ dies q, q.ch < s.hub.nChans → s.hub.dieDown (chDie q.ch) = true →
    exec (.capList dies q) s = .next ⟨s.hub.refuseDie St.fault (chDie q.ch), s.pending⟩) ∧
  (∀ c x, Served s.hub [c] → s.hub.chans[c]? = some x →
    exec (.capRedGet c) s = .next ⟨s.hub.ok (be 4 ((x.held.bind ChanWrite.red).getD x.appliedRed).toNat), s.pending⟩) ∧
  (∀ c, s.hub.nChans ≤ c → exec (.capRedGet c) s = .next ⟨s.hub.refuse St.badArg, s.pending⟩)) ∧
  (∀ (s : State) (dies : List Nat) (w : Word),
  NamedUp s.hub dies →
  ((∀ d ∈ s.hub.named dies, s.hub.partCheck w d = none) → ∃ t, exec (.capPartSet dies w) s = .next t ∧
    t.hub.mgmt.reply = ⟨St.ok, 0, 255, []⟩ ∧ t.hub.tm = s.hub.tm ∧ t.hub.caps = s.hub.caps ∧
    (∀ d ∈ s.hub.named dies, ∃ x, t.hub.dies[d]? = some x ∧ x.store.part = w) ∧
    (∀ (d : Nat) x y, s.hub.dies[d]? = some x → t.hub.dies[d]? = some y →
      y.store.wm = x.store.wm ∧ y.store.coaches = x.store.coaches ∧ (d ∉ s.hub.named dies → y.store.part = x.store.part))) ∧
  ((∃ d ∈ s.hub.named dies, s.hub.partCheck w d ≠ none) → ∃ d ∈ s.hub.named dies, ∃ st, s.hub.partCheck w d = some st ∧
    exec (.capPartSet dies w) s = .next ⟨s.hub.withReply ⟨st, if st = St.busy then 100 else 0, d, []⟩, s.pending⟩) ∧
  (1 ≤ fld w 23 16 → fld w 23 16 < fld w 31 24 → fld w 31 24 ≤ 100 → 1 ≤ fld w 7 0 → fld w 7 0 < fld w 15 8 → fld w 15 8 ≤ 100 →
    exec (.capWmSet dies w) s = .next ⟨({ s.hub with dies := modAll s.hub.dies (s.hub.named dies) fun _ x =>
      { x with store := { x.store with wm := w } } }).ok [], s.pending⟩) ∧
  (fld w 23 16 = 0 ∨ fld w 31 24 ≤ fld w 23 16 ∨ 100 < fld w 31 24 ∨ fld w 7 0 = 0 ∨ fld w 15 8 ≤ fld w 7 0 ∨ 100 < fld w 15 8 →
    ∃ d ∈ s.hub.named dies, exec (.capWmSet dies w) s = .next ⟨s.hub.refuseDie St.badArg d, s.pending⟩)) ∧
  (∀ (s : State) (chs : List Nat) (w : Word),
  Served s.hub chs →
  let tooMuch := fun c => loadAbove ((s.hub.ch c).latest.load (s.hub.ch c).skimEn w (s.hub.capSrc c)) 900 = true
  ((∀ c ∈ chs, (s.hub.ch c).latest.badRed w = false) → (∀ c ∈ chs, ¬tooMuch c) →
    exec (.capRedSet chs w) s = .next ⟨({ s.hub with
      chans := modAll s.hub.chans chs (fun c x =>
        let v : ChanWrite := ⟨none, none, some w, s.hub.tm.now + 1, [], false, s.hub.mgmt.accepts⟩
        if (s.hub.oct (chOct c)).held then x.hold v else { x with writes := x.writes ++ [v] })
      mgmt := { s.hub.mgmt with accepts := s.hub.mgmt.accepts + chs.length } }).ok [], s.pending⟩) ∧
  ((∃ c ∈ chs, (s.hub.ch c).latest.badRed w = true) →
    ∃ d, exec (.capRedSet chs w) s = .next ⟨s.hub.refuseDie St.badArg d, s.pending⟩) ∧
  ((∀ c ∈ chs, (s.hub.ch c).latest.badRed w = false) → (∃ c ∈ chs, tooMuch c) →
    ∃ d, exec (.capRedSet chs w) s = .next ⟨s.hub.refuseDie St.budget d, s.pending⟩)) ∧
  (∀ (s : State) (dies : List Nat) (w : Word) (q : CapQuery),
  let many : Prop := ∃ d ∈ s.hub.named dies, s.hub.nDies ≤ d
  let down (i : Instr) : Prop := ∃ d, exec i s = .next ⟨s.hub.refuseDie St.fault d, s.pending⟩
  (many → ∀ i ∈ [Instr.capPartSet dies w, .capPartGet dies, .capWmSet dies w, .capWmGet dies],
    exec i s = .next ⟨s.hub.refuse St.badArg, s.pending⟩) ∧
  (¬many → (∃ d ∈ s.hub.named dies, s.hub.dieDown d = true) → down (.capPartSet dies w) ∧ down (.capWmSet dies w)) ∧
  (¬many → (∃ d ∈ s.hub.named dies, (s.hub.die d).inService = false) → down (.capPartGet dies) ∧ down (.capWmGet dies)) ∧
  (q.ch = 0xFFFF → (many → exec (.capList dies q) s = .next ⟨s.hub.refuse St.badArg, s.pending⟩) ∧
    (¬many → (∃ d ∈ s.hub.named dies, (s.hub.die d).inService = false) → down (.capList dies q))))

/-- Coaches (R203, R389). CAP_READ of a coach that is ready or being sent answers its bytes from OFFSET on, with DECODE its
decoded samples behind the decoder's error; of one that fills BUSY; of one that is free or unknown NOT_FOUND; a COUNT or
DECODE out of range answers BAD_ARG; nothing changes. CAP_FREE and CAP_SEND act on all the coaches named or on none: CAP_FREE
frees ready coaches that no job holds, with their granules, and CAP_SEND asks for ready ones; an unknown or free coach
answers NOT_FOUND, one that fills BAD_ARG; one that is being sent, or that a job holds, answers CAP_FREE with BUSY, 1,000 ms
where a job holds one and else 100 ms; one that is being sent answers CAP_SEND with BAD_ARG. It says that these complete:
CAP_READ, CAP_FREE, CAP_SEND. -/
def Obligations.Coaches : Prop :=
  (∀ (s : State) (id : Word) (d off n dec : Nat) (c : Coach),
  s.hub.findCoach id.toNat = some (d, c) → DieUp s.hub d →
  (c.st = .ready ∨ c.st = .sending → n ≤ 4080 →
    exec (.capRead id off n 0) s = .next ⟨s.hub.ok (((c.bytes d).drop off).take n), s.pending⟩) ∧
  (c.st = .ready ∨ c.st = .sending → n ≤ 4072 →
    let e := c.decoded.2.getD (0, 0, 0)
    exec (.capRead id off n 1) s = .next ⟨s.hub.ok (be 1 e.1 ++ pad 1 ++ be 2 e.2.1 ++ be 4 e.2.2 ++
      ((c.decoded.1.flatten).drop off).take n), s.pending⟩) ∧
  (c.st = .filling → dec ≤ 1 → n ≤ (if dec = 1 then 4072 else 4080) →
    exec (.capRead id off n dec) s = .next ⟨s.hub.busyDie (s.hub.fillMs c) d, s.pending⟩) ∧
  (c.st = .free → dec ≤ 1 → n ≤ (if dec = 1 then 4072 else 4080) →
    exec (.capRead id off n dec) s = .next ⟨s.hub.refuse St.notFound, s.pending⟩) ∧
  (1 < dec ∨ (if dec = 1 then 4072 else 4080) < n → exec (.capRead id off n dec) s = .next ⟨s.hub.refuse St.badArg, s.pending⟩)) ∧
  (∀ (s : State) (id : Word) (off n dec : Nat), s.hub.findCoach id.toNat = none →
    exec (.capRead id off n dec) s = .next ⟨s.hub.refuse St.notFound, s.pending⟩) ∧
  (∀ (s : State) (ids : List Word),
  (s.hub.allCoaches ids = none → exec (.capFree ids) s = .next ⟨s.hub.refuse St.notFound, s.pending⟩ ∧
    exec (.capSend ids) s = .next ⟨s.hub.refuse St.notFound, s.pending⟩) ∧
  ∀ l, s.hub.allCoaches ids = some l → (∀ p ∈ l, DieUp s.hub p.1) →
  let held := fun (p : Nat × Coach) => s.hub.inJob (p.2.id p.1) = true
  ((∀ p ∈ l, p.2.st = .ready ∧ ¬held p) → ∃ t, exec (.capFree ids) s = .next t ∧ t.hub.mgmt.reply = ⟨St.ok, 0, 255, []⟩ ∧
    ∀ p ∈ l, ∃ x, t.hub.dies[p.1]? = some x ∧ ∀ y ∈ x.store.coaches, y.seq = p.2.seq → y.st = .free ∧ y.kib = 0) ∧
  ((∃ p ∈ l, p.2.st = .filling) → ∃ d, exec (.capFree ids) s = .next ⟨s.hub.refuseDie St.badArg d, s.pending⟩) ∧
  ((∀ p ∈ l, p.2.st ≠ .filling) → (∃ p ∈ l, held p) → ∃ d, exec (.capFree ids) s = .next ⟨s.hub.busyDie 1000 d, s.pending⟩) ∧
  ((∀ p ∈ l, p.2.st ≠ .filling ∧ ¬held p) → (∃ p ∈ l, p.2.st = .sending) →
    ∃ d, exec (.capFree ids) s = .next ⟨s.hub.busyDie 100 d, s.pending⟩) ∧
  ((∀ p ∈ l, p.2.st = .ready) → ∃ t, exec (.capSend ids) s = .next t ∧ t.hub.mgmt.reply = ⟨St.ok, 0, 255, []⟩ ∧
    ∀ p ∈ l, ∃ x, t.hub.dies[p.1]? = some x ∧ ∀ y ∈ x.store.coaches, y.seq = p.2.seq → y.sendWanted = true ∨ y.st = .sending) ∧
  ((∃ p ∈ l, p.2.st ≠ .ready) → ∃ d, exec (.capSend ids) s = .next ⟨s.hub.refuseDie St.badArg d, s.pending⟩))

/-- CHURN_SET (R269, R270, R281): where the area and the engines have room, each use that begins takes the mode and begins with a
fresh block on the engine that serves its channel's quadrant, and mode 0 ends the use, each without a change of any
descriptor; a use or mode out of range, a channel the variant lacks or, for a mode, a die without a churn area or skim of two
words answers BAD_ARG and changes nothing, as does a use that the area or an engine has no room for, with BUDGET (a RAW use
also needs a placement of the RAW flows, R32). CHURN_CFG_SET stores the word of each die named, or answers BAD_ARG and
changes nothing for a reserved bit; CHURN_CFG_GET reads it (R272). It says that these complete: CHURN_SET, CHURN_CFG_SET,
CHURN_CFG_GET. -/
def Obligations.ChurnSettings : Prop :=
  (∀ (s : State) (use mode : Nat) (chs : List Nat),
  let after (m : Nat) : Hub := forAll chs (Hub.churnMode (use == 0) m) s.hub
  let planned (m : Nat) : Prop := ((after m).rawPlan (after m).rawUp (after m).rawFlows.length).isSome = true
  Served s.hub chs → use ≤ 1 → mode ≤ 4 →
  (mode ≠ 0 → (∀ c ∈ chs, (s.hub.ch c).use (use == 0) = none ∧ (use = 1 → (s.hub.ch c).latest.words ≠ 2) ∧
      (s.hub.die (chDie c)).store.churnBytes ≠ 0 ∧ (after mode).churnRoom (chDie c) = true ∧
      (∀ e < 4, churnFits ((after mode).churnLoad (chDie c) e) = true)) →
    (use = 0 → planned mode) → ∃ t, exec (.churnSet use mode chs) s = .next t ∧ t.hub.mgmt.reply = ⟨St.ok, 0, 255, []⟩ ∧
      ∀ c ∈ chs, ∃ y u, t.hub.chans[c]? = some y ∧ y.use (use == 0) = some u ∧ u.mode = mode ∧ u.fresh = true ∧
        u.eng = s.hub.churnEngine c ∧ y.desc = (s.hub.ch c).desc) ∧
  ((use = 0 → planned 0) → ∃ t, exec (.churnSet use 0 chs) s = .next t ∧ t.hub.mgmt.reply = ⟨St.ok, 0, 255, []⟩ ∧
    ∀ c ∈ chs, ∃ y, t.hub.chans[c]? = some y ∧ y.use (use == 0) = none ∧ y.desc = (s.hub.ch c).desc) ∧
  (mode ≠ 0 → (∃ c ∈ chs, (use = 1 ∧ (s.hub.ch c).latest.words = 2) ∨ (s.hub.die (chDie c)).store.churnBytes = 0) →
    ∃ d, exec (.churnSet use mode chs) s = .next ⟨s.hub.refuseDie St.badArg d, s.pending⟩) ∧
  (mode ≠ 0 → (∀ c ∈ chs, (use = 1 → (s.hub.ch c).latest.words ≠ 2) ∧ (s.hub.die (chDie c)).store.churnBytes ≠ 0) →
    (∃ c ∈ chs, (after mode).churnRoom (chDie c) = false ∨ ∃ e < 4, churnFits ((after mode).churnLoad (chDie c) e) = false) →
    ∃ d, exec (.churnSet use mode chs) s = .next ⟨s.hub.refuseDie St.budget d, s.pending⟩)) ∧
  (∀ (s : State) (u m : Nat) (chs : List Nat), 1 < u ∨ 4 < m ∨ chs = [] ∨ (∃ c ∈ chs, s.hub.nChans ≤ c) →
    exec (.churnSet u m chs) s = .next ⟨s.hub.refuse St.badArg, s.pending⟩) ∧
  (∀ (s : State) (dies : List Nat) (w : Word),
  (NamedUp s.hub dies → onlyBits w 1 = true → exec (.churnCfgSet dies w) s = .next ⟨({ s.hub with
      dies := (modAll s.hub.dies (s.hub.named dies) fun _ x => { x with churn := { x.churn with cfg := w } }) }).ok [], s.pending⟩) ∧
  (NamedUp s.hub dies → s.hub.named dies ≠ [] → onlyBits w 1 = false →
    ∃ d ∈ s.hub.named dies, exec (.churnCfgSet dies w) s = .next ⟨s.hub.refuseDie St.badArg d, s.pending⟩) ∧
  (Named s.hub dies → exec (.churnCfgGet dies) s = .next ⟨s.hub.ok ((s.hub.named dies).flatMap fun d =>
    be 4 (s.hub.die d).churn.cfg.toNat), s.pending⟩))

/-- Saved states (R293, R394): CHURN_SAVE asks for a new handle, which the next block boundary fills, and answers the index of
the block that follows; a state that is complete is read, written over, restored from and freed by its handle, and a read
before that is BUSY; CHURN_STATE_WRITE with handle 0xFFFF makes a new state; a write past the end, a stream that is not
churned and an image whose CRC or SRC does not fit answer BAD_ARG, an area without room BUDGET, an unknown handle NOT_FOUND,
and change nothing. CHURN_STATE_CAPTURE (R293): at a block boundary the states asked for of a use are stored and no longer
asked for; within a block nothing happens. Jobs (R294, R295, R395): CHURN_JOB_START on a ready coach begins an empty running
job, ENCODE of an unchurned and DECODE of a churned one; JOB_STOP fills its buffer and stops it; reading changes nothing; a
job that stopped with its buffer full goes on after CHURN_JOB_RESUME with an empty one, and another job does not; ending
removes it; 600 s full end it with a record. It says that these complete: CHURN_SAVE, CHURN_STATE_CAPTURE, CHURN_STATE_READ,
CHURN_STATE_WRITE, CHURN_RESTORE, CHURN_STATE_FREE, CHURN_JOB_START, CHURN_JOB_READ, CHURN_JOB_RESUME, CHURN_JOB_END,
JOB_END, JOB_STOP. -/
def Obligations.ChurnStates : Prop :=
  (∀ (s : State) (n c : Nat) (x : SavedChurn) (use : Nat) (u : ChurnUse),
  (Served s.hub [c] → use ≤ 1 → (s.hub.ch c).use (use == 0) = some u →
    ((s.hub.newState (chDie c) use [] false).1.churnRoom (chDie c) = true → ∃ t y k, exec (.churnSave c use) s = .next t ∧
      t.hub.saved = s.hub.saved ++ [⟨k, chDie c, use, [], false⟩] ∧ t.hub.chans[c]? = some y ∧
      y.use (use == 0) = some { u with save := u.save ++ [k] } ∧
      t.hub.mgmt.reply = ⟨St.ok, 0, 255, be 2 k ++ pad 2 ++ be 8 (s.hub.nextBlock (use == 0) c)⟩) ∧
    ((s.hub.newState (chDie c) use [] false).1.churnRoom (chDie c) = false →
      exec (.churnSave c use) s = .next ⟨s.hub.refuse St.budget, s.pending⟩)) ∧
  (Served s.hub [c] → (s.hub.ch c).use (use == 0) = none → exec (.churnSave c use) s = .next ⟨s.hub.refuse St.badArg, s.pending⟩) ∧
  (s.hub.findState n = some x → n ≠ 0xFFFF →
    (∀ off k, x.complete = true → k ≤ 4080 → exec (.churnStateRead n off k) s = .next ⟨s.hub.ok ((x.image.drop off).take k), s.pending⟩) ∧
    (∀ off k, x.complete = false → k ≤ 4080 → exec (.churnStateRead n off k) s = .next ⟨s.hub.busy (s.hub.saveMs n), s.pending⟩) ∧
    (∀ off k, 4080 < k → exec (.churnStateRead n off k) s = .next ⟨s.hub.refuse St.badArg, s.pending⟩) ∧
    (∀ us off (data : Bytes), x.complete = true → data.length ≤ 4072 → off + data.length ≤ stateBytes (x.use' == 0) →
      exec (.churnStateWrite n us off data) s = .next ⟨({ s.hub with
        saved := s.hub.saved.map fun (y : SavedChurn) =>
          if y.handle = n then { y with image := y.image.take off ++ data ++ y.image.drop (off + data.length) } else y }).ok
          (be 2 n ++ pad 2), s.pending⟩) ∧
    (∀ us off (data : Bytes), 4072 < data.length ∨ stateBytes (x.use' == 0) < off + data.length →
      exec (.churnStateWrite n us off data) s = .next ⟨s.hub.refuse St.badArg, s.pending⟩) ∧
    (Served s.hub [c] → use ≤ 1 → (s.hub.ch c).use (use == 0) = some u →
      exec (.churnRestore c use n) s = .next (if imageOk (use == 0) x.image = true then ⟨({ s.hub with
        chans := s.hub.chans.modify c (Chan.setUse (use == 0) (some { u with restore := some x.image })) }).ok [], s.pending⟩
        else ⟨s.hub.refuse St.badArg, s.pending⟩)) ∧
    exec (.churnStateFree n) s = .next ⟨({ s.hub with
      saved := (s.hub.saved.filter fun (y : SavedChurn) => y.handle != n) }).ok [], s.pending⟩) ∧
  (s.hub.findState n = none → n ≠ 0xFFFF → ∀ off k us data,
    exec (.churnStateRead n off k) s = .next ⟨s.hub.refuse St.notFound, s.pending⟩ ∧
    exec (.churnStateWrite n us off data) s = .next ⟨s.hub.refuse St.notFound, s.pending⟩ ∧
    (Served s.hub [c] → us ≤ 1 → exec (.churnRestore c us n) s = .next ⟨s.hub.refuse St.notFound, s.pending⟩) ∧
    exec (.churnStateFree n) s = .next ⟨s.hub.refuse St.notFound, s.pending⟩) ∧
  (∀ off (data : Bytes), use ≤ 1 → data.length ≤ 4072 → off + data.length ≤ stateBytes (use == 0) →
    (∃ d < s.hub.nDies, s.hub.dieDown d = false ∧ (s.hub.newState d use [] true).1.churnRoom d = true) →
    ∃ t k d img, exec (.churnStateWrite 0xFFFF use off data) s = .next t ∧
      t.hub.saved = s.hub.saved ++ [⟨k, d, use, img, true⟩] ∧ img.length = stateBytes (use == 0) ∧
      (img.drop off).take data.length = data ∧ t.hub.mgmt.reply = ⟨St.ok, 0, 255, be 2 k ++ pad 2⟩ ∧ t.hub.chans = s.hub.chans) ∧
  (∀ off (data : Bytes), use ≤ 1 → data.length ≤ 4072 → off + data.length ≤ stateBytes (use == 0) →
    (∀ d < s.hub.nDies, s.hub.dieDown d = false → (s.hub.newState d use [] true).1.churnRoom d = false) →
    exec (.churnStateWrite 0xFFFF use off data) s = .next ⟨s.hub.refuse St.budget, s.pending⟩)) ∧
  (∀ (s : State) (c use n : Nat) (u : ChurnUse) (x : SavedChurn),
  Shaped s.hub → c < s.hub.nChans → (s.hub.ch c).use (use == 0) = some u →
  (u.block ≠ [] → exec (.churnStateCapture c use) s = .next s) ∧
  (u.block = [] → n ∈ u.save → x ∈ s.hub.saved → x.handle = n → ∃ t y, exec (.churnStateCapture c use) s = .next t ∧
    t.hub.chans[c]? = some y ∧ y.use (use == 0) = some { u with save := [] } ∧
    { x with image := u.image (use == 0) (s.hub.nextSample (use == 0) c), complete := true } ∈ t.hub.saved)) ∧
  (∀ (s : State) (n : Nat) (j : ChurnJob),
  (∀ (id : Word) op mode d (c : Coach) buf, s.hub.findCoach id.toNat = some (d, c) → DieUp s.hub d → c.st = .ready →
    (op = 0 ∧ c.churn = 0 ∧ 1 ≤ mode ∧ mode ≤ 4 ∧ c.twoWord = false) ∨ (op = 1 ∧ c.churn ≠ 0) →
    1024 ≤ buf → buf ≤ 1048576 → (s.hub.die d).store.churnBytes ≠ 0 → s.hub.jobs.length < 8 →
    s.hub.churnUsed d + buf ≤ (s.hub.die d).store.churnBytes → ∃ t k, exec (.churnJobStart id op mode buf) s = .next t ∧
      k ∈ t.hub.jobs ∧ k.die = d ∧ k.coach = id.toNat ∧ k.st = 0 ∧ k.buf = [] ∧ k.used = 0 ∧ k.bufsz = buf ∧
      t.hub.mgmt.reply = ⟨St.ok, 0, 255, be 2 k.job ++ pad 2⟩) ∧
  (∀ (id : Word) op mode d (c : Coach) buf, s.hub.findCoach id.toNat = some (d, c) → DieUp s.hub d → c.st ≠ .free →
    1 < op ∨ c.st ≠ .ready ∨ buf < 1024 ∨ 1048576 < buf ∨ (op = 0 ∧ (c.churn ≠ 0 ∨ mode = 0 ∨ 4 < mode ∨ c.twoWord = true)) ∨
      (op = 1 ∧ c.churn = 0) → exec (.churnJobStart id op mode buf) s = .next ⟨s.hub.refuse St.badArg, s.pending⟩) ∧
  (s.hub.findJob n = some j →
    (∀ off k, k ≤ 4064 → j.st ≠ 3 → exec (.churnJobRead n off k) s = .next ⟨s.hub.ok (be 1 j.st ++ be 1 0 ++ be 2 0 ++ be 4 0 ++
      be 4 j.used ++ be 4 j.buf.length ++ (j.buf.drop off).take k), s.pending⟩) ∧
    (∀ off k e, k ≤ 4064 → j.st = 3 → j.fail = some e → exec (.churnJobRead n off k) s = .next ⟨s.hub.ok (be 1 3 ++ be 1 e.1 ++
      be 2 e.2.1 ++ be 4 e.2.2 ++ be 4 j.used ++ be 4 j.buf.length ++ (j.buf.drop off).take k), s.pending⟩) ∧
    (∀ buf, j.st = 1 → 1024 ≤ buf → buf ≤ 1048576 → (s.hub.setJob n fun k => { k with buf := [], bufsz := buf, st := 0 }).churnRoom
        j.die = true → exec (.churnJobResume n buf) s =
      .next ⟨(s.hub.setJob n fun k => { k with buf := [], bufsz := buf, st := 0 }).ok [], s.pending⟩) ∧
    (∀ buf, j.st = 1 → 1024 ≤ buf → buf ≤ 1048576 → (s.hub.setJob n fun k => { k with buf := [], bufsz := buf, st := 0 }).churnRoom
        j.die = false → exec (.churnJobResume n buf) s = .next ⟨s.hub.refuse St.budget, s.pending⟩) ∧
    (∀ buf, j.st ≠ 1 ∨ buf < 1024 ∨ 1048576 < buf → exec (.churnJobResume n buf) s = .next ⟨s.hub.refuse St.badArg, s.pending⟩) ∧
    exec (.churnJobEnd n) s = .next ⟨({ s.hub with
      jobs := (s.hub.jobs.filter fun (k : ChurnJob) => k.job != n) }).ok [], s.pending⟩ ∧
    (j.st = 1 → j.stoppedAt + 600000000000 ≤ s.hub.clk.elapsed → exec (.jobEnd n) s = .next ⟨({ s.hub with
      jobs := (s.hub.jobs.filter fun (k : ChurnJob) => k.job != n) }).notice unitHub 0x0702 (argN n) 0, s.pending⟩) ∧
    (j.st ≠ 1 ∨ s.hub.clk.elapsed < j.stoppedAt + 600000000000 → exec (.jobEnd n) s = .next s) ∧
    (j.st = 0 → ∃ t k, exec (.jobStop n) s = .next t ∧ t.hub.findJob n = some k ∧ k.st ≠ 0 ∧ k.stoppedAt = s.hub.clk.elapsed ∧
      (k.st = 1 ↔ k.todo ≠ []) ∧ (k.st = 3 → j.fail ≠ none)) ∧
    (j.st ≠ 0 → exec (.jobStop n) s = .next s)) ∧
  (s.hub.findJob n = none → ∀ off k buf,
    exec (.churnJobRead n off k) s = .next ⟨s.hub.refuse St.notFound, s.pending⟩ ∧
    exec (.churnJobResume n buf) s = .next ⟨s.hub.refuse St.notFound, s.pending⟩ ∧
    exec (.churnJobEnd n) s = .next ⟨s.hub.refuse St.notFound, s.pending⟩))

/-- SEP_CFG_SET (R234): words that keep the rules are stored; WAIT, ORIG and FB_XF act from the next tick on, and a change of EN
too, or 1 ms later where EN = 1 needs a gated quadrant; EN = 1 after 0 clears the counters (R390). Words that break a rule, a
change of TICK_DIV or POS while EN = 1 among them, answer BAD_ARG and change nothing. SEP_CFG_GET reads the words. SEP_LOAD,
SEP_SWITCH and SEP_STATUS (R219, R220, R222, R235): a load that every named die takes changes the set named and no other; a
switch that every named die takes is pending until its first tick; a refusal by one die changes nothing on any and answers
that die's status, with the time until its fade ends where it is BUSY; a switch with a shadow that is not complete is
NOT_FOUND. A die that the variant lacks answers BAD_ARG, and one that is down FAULT (R359, R380). It says that these
complete: SEP_LOAD, SEP_SWITCH, SEP_CFG_SET, SEP_CFG_GET, SEP_STATUS. -/
def Obligations.SeparatorSettings : Prop :=
  (∀ (s : State) (ctl tick wait fb : Word),
  let p := tick.toNat * fuCycle
  let old := s.hub.sep
  let first := s.hub.tm.now / p + 1
  let waits := decide (s.hub.tm.now < old.cfgFrom)
  let new : Sep := { old with
    ctl := ctl, tick := tick, wait := wait, fb := fb, cfgFrom := first * p,
    ctlWas := if waits then old.ctlWas else old.ctl, waitWas := if waits then old.waitWas else old.wait,
    fbWas := if waits then old.fbWas else old.fb }
  (s.hub.badSepCfg ctl tick wait fb = false → bitOf ctl 31 = bitOf old.ctl 31 →
    exec (.sepCfgSet ctl tick wait fb) s = .next ⟨({ s.hub with sep := new }).ok [], s.pending⟩) ∧
  (s.hub.badSepCfg ctl tick wait fb = false → bitOf ctl 31 = false → bitOf old.ctl 31 = true →
    exec (.sepCfgSet ctl tick wait fb) s = .next ⟨({ s.hub with sep := { new with
      enFrom := first * p, enWas := old.en s.hub.tm.now } }).ok [], s.pending⟩) ∧
  (s.hub.badSepCfg ctl tick wait fb = false → bitOf ctl 31 = true → bitOf old.ctl 31 = false →
    let gated := s.hub.dies.any fun x => x.inService && x.quads.any not
    exec (.sepCfgSet ctl tick wait fb) s = .next ⟨({ s.hub with sep := { new with
      enFrom := (if gated then max first (ceilDiv (s.hub.tm.now + 1024000000) p) else first) * p, enWas := old.en s.hub.tm.now,
      warm := true, ticks := [], lateIn := 0, mismatch := 0, timeouts := 0, replays := 0, posClash := 0 } }).ok [], s.pending⟩) ∧
  (s.hub.badSepCfg ctl tick wait fb = true → exec (.sepCfgSet ctl tick wait fb) s = .next ⟨s.hub.refuse St.badArg, s.pending⟩) ∧
  (bitOf old.ctl 31 = true → (tick ≠ old.tick ∨ fld ctl 5 0 ≠ fld old.ctl 5 0) → s.hub.badSepCfg ctl tick wait fb = true) ∧
  exec .sepCfgGet s = .next ⟨s.hub.ok (be 4 old.ctl.toNat ++ be 4 old.tick.toNat ++ be 4 old.wait.toNat ++
    be 4 old.fb.toNat), s.pending⟩) ∧
  (∀ (s : State) (dies : List Nat) (set xf : Nat) (op : SepLoadOp),
  (NamedUp s.hub dies → (∀ d ∈ s.hub.named dies, s.hub.loadCheck set op d = none) →
    exec (.sepLoad dies set op) s = .next ⟨({ s.hub with dies := modAll s.hub.dies (s.hub.named dies) fun _ x =>
      { x with sep := x.sep.store set ((x.sep.load set).write op) } }).ok [], s.pending⟩) ∧
  (NamedUp s.hub dies → (∃ d ∈ s.hub.named dies, s.hub.loadCheck set op d ≠ none) →
    ∃ d ∈ s.hub.named dies, ∃ st, s.hub.loadCheck set op d = some st ∧ exec (.sepLoad dies set op) s =
      .next ⟨s.hub.withReply ⟨st, if st = St.busy then s.hub.sepFadeMs d else 0, d, []⟩, s.pending⟩) ∧
  (NamedUp s.hub dies → (∀ d ∈ s.hub.named dies, s.hub.switchCheck xf none d = none) →
    exec (.sepSwitch dies xf) s = .next ⟨({ s.hub with dies := modAll s.hub.dies (s.hub.named dies) fun _ x =>
      { x with sep := { x.sep with pend := some ⟨none, xf, none⟩ } } }).ok [], s.pending⟩) ∧
  (NamedUp s.hub dies → (∃ d ∈ s.hub.named dies, s.hub.switchCheck xf none d ≠ none) →
    ∃ d ∈ s.hub.named dies, ∃ st, s.hub.switchCheck xf none d = some st ∧ exec (.sepSwitch dies xf) s =
      .next ⟨s.hub.withReply ⟨st, if st = St.busy then s.hub.sepFadeMs d else 0, d, []⟩, s.pending⟩) ∧
  (∀ d, (s.hub.die d).sep.shadow.complete = false → s.hub.switchCheck xf none d = some St.notFound) ∧
  (Named s.hub dies → exec (.sepStatus dies) s = .next ⟨s.hub.ok ((s.hub.named dies).flatMap s.hub.sepPart), s.pending⟩) ∧
  ((∃ d ∈ s.hub.named dies, s.hub.nDies ≤ d) → ∀ i ∈ [Instr.sepLoad dies set op, .sepSwitch dies xf, .sepStatus dies],
    exec i s = .next ⟨s.hub.refuse St.badArg, s.pending⟩) ∧
  ((∀ d ∈ s.hub.named dies, d < s.hub.nDies) → (∃ d ∈ s.hub.named dies, s.hub.dieDown d = true) →
    ∀ i ∈ [Instr.sepLoad dies set op, .sepSwitch dies xf], ∃ d, exec i s = .next ⟨s.hub.refuseDie St.fault d, s.pending⟩))

/-- What a hub with EN = 1 does to a frame that passes (R232): its position is taken, and the frame stays as it was but for
BASE_HOLD; or its partials are there, and they are added to the rows that both have and its CONTRIB bit is set; or it adds
nothing and sets its NOTLOCKED bit. BASE_HOLD is set where the hub is in holdover at the tick, and is never cleared. -/
def Obligations.FramePasses : Prop := ∀ (k : Option SepTick) (pos : Nat) (f : ModalFrame),
  let g := SepTick.addTo k pos f
  let bit := BitVec.ofNat 64 (2 ^ pos)
  (g.1.baseHold = (f.baseHold || (match k with | some r => r.hold | none => false))) ∧
  (((f.contrib ||| f.notLocked) &&& bit) ≠ 0 → g.2 = true ∧ g.1 = { f with baseHold := g.1.baseHold }) ∧
  (((f.contrib ||| f.notLocked) &&& bit) = 0 → ∀ r, k = some r → r.ready = true → g.2 = false ∧
    g.1.contrib = f.contrib ||| bit ∧ g.1.notLocked = f.notLocked ∧ g.1.sflags = f.sflags ||| r.sflags ∧ g.1.seq = f.seq ∧
    g.1.stamp = f.stamp ∧ g.1.rows = f.rows ∧ g.1.mgen = f.mgen ∧ g.1.fadeW = f.fadeW ∧ g.1.sums.length = f.sums.length ∧
    ∀ (i : Nat) (v : Int), f.sums[i]? = some v → g.1.sums[i]? =
      some (if i < min f.rows r.sums.length then v + r.sums.getD i 0 else v)) ∧
  (((f.contrib ||| f.notLocked) &&& bit) = 0 → (∀ r, k = some r → r.ready = false) → g.2 = false ∧
    g.1 = { f with baseHold := g.1.baseHold, notLocked := f.notLocked ||| bit })

/-- The modal tick and its timeout (R213, R225, R229): a tick that has been taken is not taken again; a tick is kept with its
partials, and its frame has left P00 where the hub originates; the oldest tick whose deadline passes without a frame is
counted in TIMEOUTS and its frame sent, once; with EN 0, or no such tick, TIMEOUT changes nothing. It says that these
complete: TICK, TIMEOUT. -/
def Obligations.ModalTicks : Prop := ∀ (s : State),
  let j := s.hub.tm.now / s.hub.sep.tickFu
  let due (r : SepTick) : Bool := !r.sent && !r.orig && s.hub.sep.en (r.j * s.hub.sep.tickFu) &&
    decide (s.hub.sep.deadline (r.j * s.hub.sep.tickFu) < s.hub.tm.now)
  (s.hub.sep.ticks.head?.map SepTick.j = some j → exec .tick s = .next s) ∧
  (s.hub.sep.ticks.head?.map SepTick.j ≠ some j → ∃ t r l, exec .tick s = .next t ∧ t.hub.sep.ticks = r :: l ∧ l.length ≤ 63 ∧
    r.j = j ∧ r.orig = (s.hub.sep.en (j * s.hub.sep.tickFu) && (s.hub.sep.origAt (j * s.hub.sep.tickFu) || (s.hub.prt 1).st != .up)) ∧
    r.sent = r.orig ∧ r.ready = (s.hub.locked && !s.hub.sep.warm) ∧ t.hub.tm = s.hub.tm) ∧
  (s.hub.sep.en s.hub.tm.now = false ∨ (∀ r ∈ s.hub.sep.ticks, due r = false) → exec .timeout s = .next s) ∧
  (∀ newer older r, s.hub.sep.en s.hub.tm.now = true → s.hub.sep.ticks = newer ++ r :: older → due r = true →
    (∀ q ∈ older, due q = false) → 0 < s.hub.sep.tick.toNat → ∃ t, exec .timeout s = .next t ∧ t.hub.sep.timeouts = satInc 16 s.hub.sep.timeouts ∧
      t.hub.sep.ticks.length = s.hub.sep.ticks.length ∧ (∀ q ∈ t.hub.sep.ticks, q.j = r.j → q.sent = true))

/-- STRM_SET (R32, R238, R240): values out of range and absent channels answer BAD_ARG; enabling SKIM within the engines' load
sets it on the named channels alone, and above it answers BUDGET; disabling SKIM that no repeater and no capture uses clears
it on them alone, and answers BAD_ARG where one does; RAW is enabled and disabled on the named channels alone, but two
channels of one quadrant with different N answer BAD_ARG, and RAW that the ports cannot carry answers BUDGET; a die that is
down answers FAULT (R380). STRM_ROUTE and STRM_LOCAL (R237, R255, R391): a flow goes to the port or to the local window that
is named, the flow on the window to P00 with 0xFFFF, and no other flow changes its way; RAW and COACH flows, ports that are
neither P00 nor a plain branch port, and a second flow for the window answer BAD_ARG. It says that these complete: STRM_SET,
STRM_ROUTE, STRM_LOCAL. -/
def Obligations.StreamEnables : Prop :=
  (∀ (s : State) (kind en : Nat) (chs : List Nat),
  let tooMuch (c : Nat) : Prop := (s.hub.ch c).skimEn = false ∧
    loadAbove ((s.hub.ch c).latest.load true (s.hub.ch c).latestRed (s.hub.capSrc c)) 900 = true
  let raw : Hub := { s.hub with chans := modAll s.hub.chans chs fun _ x => { x with rawEn := true } }
  ((1 < kind ∨ 1 < en ∨ chs = [] ∨ (∃ c ∈ chs, s.hub.nChans ≤ c)) →
    exec (.strmSet kind en chs) s = .next ⟨s.hub.refuse St.badArg, s.pending⟩) ∧
  (kind ≤ 1 → en ≤ 1 → (∀ c ∈ chs, c < s.hub.nChans) → (∃ c ∈ chs, s.hub.dieDown (chDie c) = true) →
    ∃ d, exec (.strmSet kind en chs) s = .next ⟨s.hub.refuseDie St.fault d, s.pending⟩) ∧
  (Served s.hub chs →
    ((∀ c ∈ chs, ¬tooMuch c) → ∃ t, exec (.strmSet 0 1 chs) s = .next t ∧ t.hub.mgmt.reply = ⟨St.ok, 0, 255, []⟩ ∧
      (∀ c ∈ chs, ∃ x, t.hub.chans[c]? = some x ∧ x.skimEn = true ∧ x.desc = (s.hub.ch c).desc) ∧
      (∀ c, c ∉ chs → t.hub.chans[c]? = s.hub.chans[c]?) ∧ t.hub.tm = s.hub.tm ∧ t.hub.ports = s.hub.ports) ∧
    ((∃ c ∈ chs, tooMuch c) → ∃ d, exec (.strmSet 0 1 chs) s = .next ⟨s.hub.refuseDie St.budget d, s.pending⟩) ∧
    ((∀ c ∈ chs, s.hub.skimUsed c = false) → ∃ t, exec (.strmSet 0 0 chs) s = .next t ∧ t.hub.mgmt.reply = ⟨St.ok, 0, 255, []⟩ ∧
      ∀ (c : Nat) x, s.hub.chans[c]? = some x → ∃ y, t.hub.chans[c]? = some y ∧ y.rawEn = x.rawEn ∧
        y.skimEn = (x.skimEn && !chs.contains c)) ∧
    ((∃ c ∈ chs, s.hub.skimUsed c = true) → ∃ d, exec (.strmSet 0 0 chs) s = .next ⟨s.hub.refuseDie St.badArg d, s.pending⟩) ∧
    (raw.rawSameN = true → (raw.rawPlan s.hub.rawUp raw.rawFlows.length).isSome = true → ∃ t, exec (.strmSet 1 1 chs) s = .next t ∧
      t.hub.mgmt.reply = ⟨St.ok, 0, 255, []⟩ ∧ ∀ (c : Nat) x, s.hub.chans[c]? = some x → ∃ y, t.hub.chans[c]? = some y ∧
        y.skimEn = x.skimEn ∧ y.rawEn = (x.rawEn || chs.contains c)) ∧
    (raw.rawSameN = false → exec (.strmSet 1 1 chs) s = .next ⟨s.hub.refuse St.badArg, s.pending⟩) ∧
    (raw.rawSameN = true → raw.rawPlan s.hub.rawUp raw.rawFlows.length = none →
      exec (.strmSet 1 1 chs) s = .next ⟨s.hub.refuse St.budget, s.pending⟩) ∧
    (∃ t, exec (.strmSet 1 0 chs) s = .next t ∧ t.hub.mgmt.reply = ⟨St.ok, 0, 255, []⟩ ∧
      ∀ (c : Nat) x, s.hub.chans[c]? = some x → ∃ y, t.hub.chans[c]? = some y ∧ y.skimEn = x.skimEn ∧
        y.rawEn = (x.rawEn && !chs.contains c))) ∧
  ((∃ a ∈ chs, ∃ b ∈ chs, chQuad a = chQuad b ∧ (s.hub.ch a).latest.nDiv ≠ (s.hub.ch b).latest.nDiv) → Served s.hub chs →
    raw.rawSameN = false)) ∧
  (∀ (s : State) (flow p : Nat),
  let k := FlowKey.of flow
  (s.hub.flowOk k = false ∨ 3 < k.kind ∨ (p ≠ 0xFE ∧ p ≠ 0 ∧ s.hub.plainPort p = false) →
    exec (.strmRoute flow p) s = .next ⟨s.hub.refuse St.badArg, s.pending⟩) ∧
  (s.hub.flowOk k = true → k.kind ≤ 3 → p ≠ 0xFE → (p = 0 ∨ s.hub.plainPort p = true) → s.hub.dieDown (p / 4) = false →
    ∃ t, exec (.strmRoute flow p) s = .next t ∧ t.hub.mgmt.reply = ⟨St.ok, 0, 255, []⟩ ∧
      (∀ f, s.hub.findFlow k = some f → ∃ g, t.hub.findFlow k = some g ∧ g.dest = .port p) ∧
      (∀ j, j ≠ k → (t.hub.findFlow j).map Flow.dest = (s.hub.findFlow j).map Flow.dest) ∧
      t.hub.strm.localFlow = (if s.hub.strm.localFlow = some k then none else s.hub.strm.localFlow) ∧ t.hub.tm = s.hub.tm) ∧
  (s.hub.flowOk k = true → k.kind ≤ 3 → p ≠ 0xFE → (p = 0 ∨ s.hub.plainPort p = true) → s.hub.dieDown (p / 4) = true →
    exec (.strmRoute flow p) s = .next ⟨s.hub.refuseDie St.fault (p / 4), s.pending⟩) ∧
  (s.hub.flowOk k = true → k.kind ≤ 3 → s.hub.strm.localFlow = none → flow ≠ 0xFFFF →
    ∃ t, exec (.strmLocal flow) s = .next t ∧ exec (.strmRoute flow 0xFE) s = .next t ∧ t.hub.mgmt.reply = ⟨St.ok, 0, 255, []⟩ ∧
      t.hub.strm.localFlow = some k ∧ (∀ f, s.hub.findFlow k = some f → ∃ g, t.hub.findFlow k = some g ∧ g.dest = .localWindow) ∧
      (∀ j, j ≠ k → (t.hub.findFlow j).map Flow.dest = (s.hub.findFlow j).map Flow.dest)) ∧
  (s.hub.strm.localFlow.isSome = true ∨ s.hub.flowOk k = false ∨ 3 < k.kind → flow ≠ 0xFFFF →
    exec (.strmLocal flow) s = .next ⟨s.hub.refuse St.badArg, s.pending⟩ ∧
    exec (.strmRoute flow 0xFE) s = .next ⟨s.hub.refuse St.badArg, s.pending⟩) ∧
  (s.hub.strm.localFlow = none → exec (.strmLocal 0xFFFF) s = .next ⟨s.hub.ok [], s.pending⟩) ∧
  (∀ f, s.hub.strm.localFlow = some k → s.hub.findFlow k = some f → ∃ t g, exec (.strmLocal 0xFFFF) s = .next t ∧
    t.hub.mgmt.reply = ⟨St.ok, 0, 255, []⟩ ∧ t.hub.strm.localFlow = none ∧ t.hub.findFlow k = some g ∧ g.dest = .port 0))

/-- STRM_ACK and STRM_FLUSH (R248, R249, R259 to R261, R392): a request that came by the host bus, or without entries, with more
than 64, or with a flow that the part lacks answers BAD_ARG; the entries act one after the other; a cumulative
acknowledgement releases what it covers, one that runs backward or ahead is only counted. The flows of a flush are flushed
one after the other; a flush of a record flow discards what is filling and what waits, but for a packet on its way out, and
leaves a FLUSH note; so does a hard flush of SKIM or RAW, with the samples of its sweep, and a soft one waits for the
boundary; a flow that has not started is left as it is. SWEEP and the local stream window (R245, R255): after the end of its
sweep a SET flow that has started holds no sample from before the boundary, and a flow of records is left as it is; a read of
the window gives the next word of the item in hand, then the next item's first, or 0 with nothing waiting; it begins the
oldest packet, and the read of its last word acknowledges it; while the window is not served a read does nothing (R354). It
says that these complete: STRM_ACK, STRM_FLUSH, LOCAL_STREAM_WINDOW, SWEEP. -/
def Obligations.AcknowledgeAndSweep : Prop :=
  (∀ (s : State) (es : List AckEntry) (e : AckEntry) (f : Flow),
  let k := FlowKey.of e.flow
  (exec (.strmAck .hspi es) s = .next ⟨s.hub.refuse St.badArg, s.pending⟩) ∧
  (∀ r, es = [] ∨ 64 < es.length ∨ (∃ x ∈ es, 16 < x.naks.length ∨ s.hub.flowOk (FlowKey.of x.flow) = false) →
    exec (.strmAck r es) s = .next ⟨s.hub.refuse St.badArg, s.pending⟩) ∧
  (∀ r, r ≠ .hspi → es ≠ [] → es.length ≤ 64 → (∀ x ∈ es, x.naks.length ≤ 16 ∧ s.hub.flowOk (FlowKey.of x.flow) = true) →
    exec (.strmAck r es) s = .next ⟨(forAll es Hub.ackEntry s.hub).ok [], s.pending⟩) ∧
  (s.hub.flowOk k = true → e.naks.length ≤ 16 → s.hub.findFlow k = some f →
    ∃ t g, exec (.strmAck .inband [e]) s = .next t ∧ t.hub.mgmt.reply = ⟨St.ok, 0, 255, []⟩ ∧ t.hub.findFlow k = some g ∧
      (if seqBefore e.seqCum f.lastAck = true ∨ seqBefore f.newest e.seqCum = true then
        g.lastAck = f.lastAck ∧ g.held = f.held ∧ g.ackBad = satInc 16 f.ackBad
      else g.lastAck = e.seqCum ∧ g.held = (f.held.filter fun p => seqBefore e.seqCum p.seq) ∧ g.ackBad = f.ackBad))) ∧
  (∀ (s : State) (kind w : Nat) (ws : List Nat) (f : Flow),
  let k := FlowKey.of w
  (1 < kind ∨ ws = [] ∨ (∃ x ∈ ws, s.hub.flowOk (FlowKey.of x) = false) →
    exec (.strmFlush kind ws) s = .next ⟨s.hub.refuse St.badArg, s.pending⟩) ∧
  (kind ≤ 1 → ws ≠ [] → (∀ x ∈ ws, s.hub.flowOk (FlowKey.of x) = true) →
    exec (.strmFlush kind ws) s = .next ⟨(forAll (ws.map FlowKey.of) (Hub.flushFlow (kind == 1)) s.hub).ok [], s.pending⟩) ∧
  (kind ≤ 1 → s.hub.flowOk k = true → s.hub.findFlow k = some f → f.started = false →
    exec (.strmFlush kind [w]) s = .next ⟨s.hub.ok [], s.pending⟩) ∧
  (kind ≤ 1 → s.hub.flowOk k = true → ((k.kind ≠ 0 ∧ k.kind ≠ 5) ∨ kind = 1) → s.hub.findFlow k = some f → f.started = true →
    (s.hub.die k.die).store.spool = .limit ∨ s.hub.spoolBytes k.die < (s.hub.die k.die).store.spoolPages * 16384 - 65536 →
    ∃ t g n, exec (.strmFlush kind [w]) s = .next t ∧ t.hub.mgmt.reply = ⟨St.ok, 0, 255, []⟩ ∧ t.hub.findFlow k = some g ∧
      g.filling = [] ∧ (∀ p ∈ g.yoke ++ g.backlog, f.busy p = true) ∧ g.flush = some n ∧ (kind = 1 → n.hard = true) ∧
      g.held = f.held ∧ f.waiting.length ≤ n.seqCount ∧ ((k.kind = 0 ∨ k.kind = 5) → ∀ x ∈ g.sweep, x.wsize = 4)) ∧
  (s.hub.flowOk k = true → k.kind = 0 ∨ k.kind = 5 → s.hub.findFlow k = some f → f.started = true →
    ∃ t g, exec (.strmFlush 0 [w]) s = .next t ∧ t.hub.mgmt.reply = ⟨St.ok, 0, 255, []⟩ ∧ t.hub.findFlow k = some g ∧
      g.softFlush = true ∧ g.held = f.held)) ∧
  (∀ (s : State) (flow : Nat) (f : Flow) (p : Packet) (l : List Packet) (w : Word) (r : List Word) (i : Item) (is : List Item),
  let k := FlowKey.of flow
  (s.hub.findFlow k = none → exec (.sweep flow) s = .next s) ∧
  (s.hub.findFlow k = some f → f.key.kind ≠ 0 → f.key.kind ≠ 5 → exec (.sweep flow) s = .next s) ∧
  (s.hub.findFlow k = some f → (f.key.kind = 0 ∨ f.key.kind = 5) → f.started = true →
    ∃ t g, exec (.sweep flow) s = .next t ∧ t.hub.findFlow k = some g ∧
      (∀ x ∈ g.sweep, x.wsize ≠ 4 → f.boundary s.hub.tm.now ≤ x.inst) ∧ t.hub.tm = s.hub.tm) ∧
  (s.hub.hspiOn = false → exec .localStreamWindow s = .next s) ∧
  (s.hub.hspiOn = true → s.hub.strm.win.words = w :: r → ∃ t, exec .localStreamWindow s = .next t ∧ t.hub.dbw.readout = [w] ∧ t.hub.strm.win.words = r ∧
    t.hub.strm.win.items = s.hub.strm.win.items ∧
    (r ≠ [] ∨ s.hub.strm.win.items ≠ [] ∨ s.hub.strm.localFlow = none → t.hub.flows = s.hub.flows)) ∧
  (s.hub.hspiOn = true → s.hub.strm.win.words = [w] → s.hub.strm.win.items = [] → s.hub.strm.localFlow = some k → s.hub.findFlow k = some f →
    f.sending = some p → ∃ t g, exec .localStreamWindow s = .next t ∧ t.hub.dbw.readout = [w] ∧ t.hub.findFlow k = some g ∧
      g.sending = none ∧ g.lastAck = (if f.held.isEmpty then p.seq else f.lastAck) ∧ (∀ q ∈ g.yoke ++ g.backlog, q.seq ≠ p.seq)) ∧
  (s.hub.hspiOn = true → s.hub.strm.win.words = [] → s.hub.strm.win.items = i :: is → ∃ t, exec .localStreamWindow s = .next t ∧
    t.hub.dbw.readout = [(wordsOf i.bytes).headD 0] ∧ t.hub.strm.win.words = (wordsOf i.bytes).tail ∧ t.hub.strm.win.items = is ∧
    t.hub.flows = s.hub.flows) ∧
  (s.hub.hspiOn = true → s.hub.strm.win.words = [] → s.hub.strm.win.items = [] → s.hub.strm.localFlow = none → ∃ t, exec .localStreamWindow s = .next t ∧
    t.hub.dbw.readout = [0] ∧ t.hub.flows = s.hub.flows) ∧
  (s.hub.hspiOn = true → s.hub.strm.win.words = [] → s.hub.strm.win.items = [] → s.hub.strm.localFlow = some k → s.hub.findFlow k = some f →
    f.sending = none → f.yoke ++ f.backlog = [] → ∃ t, exec .localStreamWindow s = .next t ∧ t.hub.dbw.readout = [0]) ∧
  (s.hub.hspiOn = true → s.hub.strm.win.words = [] → s.hub.strm.win.items = [] → s.hub.strm.localFlow = some k → s.hub.findFlow k = some f →
    f.sending = none → f.yoke ++ f.backlog = p :: l → p.items ≠ [] → ∃ t g, exec .localStreamWindow s = .next t ∧
      t.hub.findFlow k = some g ∧ g.sending = some p ∧ g.yoke = f.yoke ∧ g.backlog = f.backlog ∧ g.lastAck = f.lastAck ∧
      t.hub.strm.win.items = p.items.tail ∧ t.hub.dbw.readout = [(wordsOf ((p.items.headD ⟨0, 0, 0, []⟩).bytes)).headD 0]))

/-- Watermarks, FC pins, STRM_CFG, STRM_XSTAT and XING (R249, R256, R258, R266): good values are stored in the place named and
the others keep theirs; values out of range, ports that the part lacks, and an FC word that names a port that is no plain
branch port answer BAD_ARG; a port on a die that is down answers FAULT (R380); an FCI level holds exactly the ports whose
pair is used as an input and asserted; the merge counters are read and cleared; XING writes the record of the one that is not
zero, and clears none. It says that these complete: STRM_WM_SET, STRM_WM_GET, STRM_FC_SET, STRM_XSTAT, STRM_CFG_SET,
STRM_CFG_GET, FCI, XING. -/
def Obligations.StreamSettings : Prop := ∀ (s : State) (p pair pin : Nat) (w : Word) (lvl : Bool) (dies : List Nat),
  (PortUp s.hub p → p ≠ 0xFE → 2 ≤ fld w 31 16 → 1 ≤ fld w 15 0 → fld w 15 0 < fld w 31 16 →
    ∃ t q, exec (.strmWmSet p w) s = .next t ∧ t.hub.mgmt.reply = ⟨St.ok, 0, 255, []⟩ ∧ t.hub.ports[p]? = some q ∧ q.wm = w ∧
      q.cfg = (s.hub.prt p).cfg ∧ (∀ i, i ≠ p → (t.hub.ports[i]?).map Port.wm = (s.hub.ports[i]?).map Port.wm)) ∧
  (2 ≤ fld w 31 16 → fld w 31 16 ≤ 32 → 1 ≤ fld w 15 0 → fld w 15 0 < fld w 31 16 →
    ∃ t, exec (.strmWmSet 0xFE w) s = .next t ∧ t.hub.mgmt.reply = ⟨St.ok, 0, 255, []⟩ ∧ t.hub.strm.localWm = w ∧
      t.hub.ports.map Port.wm = s.hub.ports.map Port.wm) ∧
  ((s.hub.nPorts ≤ p ∧ p ≠ 0xFE) ∨ fld w 31 16 < 2 ∨ fld w 15 0 < 1 ∨ fld w 31 16 ≤ fld w 15 0 ∨ (p = 0xFE ∧ 32 < fld w 31 16) →
    exec (.strmWmSet p w) s = .next ⟨s.hub.refuse St.badArg, s.pending⟩) ∧
  (PortUp s.hub p → p ≠ 0xFE → exec (.strmWmGet p) s = .next ⟨s.hub.ok (be 4 (s.hub.prt p).wm.toNat ++
    be 4 (ceilDiv (s.hub.portOcc p) 1024)), s.pending⟩) ∧
  (exec (.strmWmGet 0xFE) s = .next ⟨s.hub.ok (be 4 s.hub.strm.localWm.toNat ++ be 4 (ceilDiv s.hub.localOcc 1024)), s.pending⟩) ∧
  (s.hub.nPorts ≤ p → p ≠ 0xFE → exec (.strmWmGet p) s = .next ⟨s.hub.refuse St.badArg, s.pending⟩) ∧
  (p < s.hub.nPorts → p ≠ 0xFE → s.hub.dieDown (p / 4) = true →
    exec (.strmWmGet p) s = .next ⟨s.hub.refuseDie St.fault (p / 4), s.pending⟩) ∧
  (Shaped s.hub → pair < 4 → onlyBits w 0xE000003F = true →
    (bitOf w 5 = true ∨ (s.hub.plainPort (fld w 4 0) = true ∧ s.hub.dieDown (fld w 4 0 / 4) = false)) →
    ∃ t, exec (.strmFcSet pair w) s = .next t ∧ t.hub.mgmt.reply = ⟨St.ok, 0, 255, []⟩ ∧ t.hub.strm.fc[pair]? = some w ∧
      (∀ i, i ≠ pair → t.hub.strm.fc[i]? = s.hub.strm.fc[i]?)) ∧
  (4 ≤ pair ∨ onlyBits w 0xE000003F = false ∨ (bitOf w 5 = false ∧ s.hub.plainPort (fld w 4 0) = false) →
    exec (.strmFcSet pair w) s = .next ⟨s.hub.refuse St.badArg, s.pending⟩) ∧
  (∃ t, exec (.fci pin lvl) s = .next t ∧ t.hub.strm.fci = modAt s.hub.strm.fci pin (fun _ => lvl && s.hub.pwr.vioA) ∧ t.hub.strm.fc = s.hub.strm.fc ∧
    ∀ i q, t.hub.ports[i]? = some q → (q.fciHold = true ↔ ∃ n < 4, bitOf (s.hub.strm.fc.getD n 0) 30 = true ∧
      bitOf (s.hub.strm.fc.getD n 0) 5 = false ∧ fld (s.hub.strm.fc.getD n 0) 4 0 = i ∧
      t.hub.strm.fci.getD n false ≠ bitOf (s.hub.strm.fc.getD n 0) 29)) ∧
  (Named s.hub dies → ∃ t, exec (.strmXstat dies) s = .next t ∧ t.hub.mgmt.reply = ⟨St.ok, 0, 255, (s.hub.named dies).flatMap
      fun d => (s.hub.die d).xing.flatMap (be 1) ++ pad 1⟩ ∧
    (∀ d ∈ s.hub.named dies, ∃ x, t.hub.dies[d]? = some x ∧ x.xing = List.replicate 11 0) ∧
    (∀ d, d ∉ s.hub.named dies → t.hub.dies[d]? = s.hub.dies[d]?)) ∧
  (∀ d r, d < s.hub.nDies → r < 11 → (s.hub.die d).xing.getD r 0 ≠ 0 →
    (∀ e i, e < s.hub.nDies → i < 11 → (e ≠ d ∨ i ≠ r) → (s.hub.die e).xing.getD i 0 = 0) →
    exec .xing s = .next ⟨s.hub.notice (unitDie d) 0x0601 (argN r) (argN ((s.hub.die d).xing.getD r 0)), s.pending⟩) ∧
  ((∀ d i, d < s.hub.nDies → i < 11 → (s.hub.die d).xing.getD i 0 = 0) → exec .xing s = .next s) ∧
  (∃ t, exec .xing s = .next t ∧ t.hub.dies.map Die.xing = s.hub.dies.map Die.xing ∧ t.hub.tm = s.hub.tm) ∧
  (onlyBits w 0x0000FFFF = true → 10 ≤ fld w 15 0 → fld w 15 0 ≤ 10000 → exec (.strmCfgSet w) s = .next ⟨({ s.hub with
    strm := { s.hub.strm with cfg := w } }).ok [], s.pending⟩) ∧
  (onlyBits w 0x0000FFFF = false ∨ fld w 15 0 < 10 ∨ 10000 < fld w 15 0 →
    exec (.strmCfgSet w) s = .next ⟨s.hub.refuse St.badArg, s.pending⟩) ∧
  (exec .strmCfgGet s = .next ⟨s.hub.ok (be 4 s.hub.strm.cfg.toNat), s.pending⟩)

/-- The RAW group (R262, R393): STRM_RAW_GROUP replaces the hub's one group by ports that RAW may leave on (R24, R262); PORTS = 0
dissolves it, and answers BAD_ARG while a channel has RAW enabled; more than eight ports, one that is not a branch port in
PLAIN, or ports of different rates or widths answer BAD_ARG, ports that cannot carry the RAW flows BUDGET, and a port on a
die that is down FAULT (R380), and change nothing else. It says that these complete: STRM_RAW_GROUP. -/
def Obligations.RawGroup : Prop := ∀ (s : State) (ports : List Nat),
  let alike := ∀ i ∈ ports, s.hub.plainPort i = true ∧ fld (s.hub.prt i).cfg 22 18 = fld (s.hub.prt (ports.headD 0)).cfg 22 18
  (s.hub.chans.any (·.rawEn) = true → exec (.strmRawGroup []) s = .next ⟨s.hub.refuse St.badArg, s.pending⟩) ∧
  (s.hub.chans.any (·.rawEn) = false → exec (.strmRawGroup []) s = .next ⟨({ s.hub with
    strm := { s.hub.strm with rawGroup := [] } }).ok [], s.pending⟩) ∧
  (8 < ports.length ∨ (∃ i ∈ ports, s.hub.plainPort i = false ∨
      fld (s.hub.prt i).cfg 22 18 ≠ fld (s.hub.prt (ports.headD 0)).cfg 22 18) →
    exec (.strmRawGroup ports) s = .next ⟨s.hub.refuse St.badArg, s.pending⟩) ∧
  (ports ≠ [] → ports.length ≤ 8 → alike → (∀ i ∈ ports, s.hub.dieDown (i / 4) = false) →
    (s.hub.rawPlan ports s.hub.rawFlows.length).isSome = true →
    ∃ t, exec (.strmRawGroup ports) s = .next t ∧ t.hub.mgmt.reply = ⟨St.ok, 0, 255, []⟩ ∧ t.hub.strm.rawGroup = ports) ∧
  (ports ≠ [] → ports.length ≤ 8 → alike → (∀ i ∈ ports, s.hub.dieDown (i / 4) = false) →
    s.hub.rawPlan ports s.hub.rawFlows.length = none → exec (.strmRawGroup ports) s = .next ⟨s.hub.refuse St.budget, s.pending⟩) ∧
  (ports ≠ [] → ports.length ≤ 8 → alike → (∃ i ∈ ports, s.hub.dieDown (i / 4) = true) →
    ∃ d, exec (.strmRawGroup ports) s = .next ⟨s.hub.refuseDie St.fault d, s.pending⟩)

/-- LINK_CFG_SET, LINK_CFG_GET and LINK_STATUS (R5, R297, R298, R380): a port that the part lacks, values outside Table 11-1, OFF
or PLAIN for P00 and P01, and a mode other than PLAIN for the port of an armed capture answer BAD_ARG; TEST on P00 or P01 of
a sealed hub answers SEALED; a die that is down answers FAULT; a word that restarts nothing and lowers no limit is stored and
nothing else changes; a limit lowered below the running value begins a retrain or a width change; a change of MODE, FIX_RATE
or FIX_WIDTH takes the port to what the new word says. LINK_MANUAL, LINK_SLIP, LINK_RATE and LINK_WIDTH (R309, R318, R396):
on a sealed hub the first three answer SEALED; on a port that is not manual the last three answer BAD_ARG; on a manual port
each acts on its port alone, an order given while a change runs waits for its end, and LINK_MANUAL off starts its bring-up
anew. It says that these complete: LINK_CFG_SET, LINK_CFG_GET, LINK_STATUS, LINK_MANUAL, LINK_SLIP, LINK_RATE, LINK_WIDTH. -/
def Obligations.PortSettings : Prop :=
  (∀ (s : State) (p : Nat) (w : Word),
  let q := s.hub.prt p
  let mode := fld w 31 30
  let bad : Prop := badLinkCfg w = true ∨ (p < 2 ∧ (mode = 0 ∨ mode = 2)) ∨ (mode ≠ 2 ∧ s.hub.capNames p = true)
  let held : Prop := p < 2 ∧ mode = 3 ∧ s.hub.sealOpen = false
  let restarts : Prop := mode ≠ fld q.cfg 31 30 ∨ fld w 22 18 ≠ fld q.cfg 22 18 ∨ (q.st = .wiring ∧ w ≠ q.cfg)
  (s.hub.nPorts ≤ p → ∀ i ∈ [Instr.linkCfgSet p w, .linkCfgGet p, .linkStatus p], exec i s = .next ⟨s.hub.refuse St.badArg, s.pending⟩) ∧
  (p < s.hub.nPorts → s.hub.dieDown (p / 4) = true → ∀ i ∈ [Instr.linkCfgSet p w, .linkCfgGet p, .linkStatus p],
    exec i s = .next ⟨s.hub.refuseDie St.fault (p / 4), s.pending⟩) ∧
  (PortUp s.hub p →
    (bad → exec (.linkCfgSet p w) s = .next ⟨s.hub.refuse St.badArg, s.pending⟩) ∧
    (¬bad → held → exec (.linkCfgSet p w) s = .next ⟨s.hub.refuse St.isSealed, s.pending⟩) ∧
    (¬bad → ¬held → ¬restarts → (q.st ≠ .up ∨ q.manual = true ∨ (q.rate ≤ fld w 28 26 ∧ q.width ≤ fld w 25 24)) →
      exec (.linkCfgSet p w) s = .next ⟨(s.hub.setPort p fun x => { x with cfg := w }).ok [], s.pending⟩) ∧
    (¬bad → ¬held → ¬restarts → q.st = .up → q.manual = false → q.run = none → q.widthRun = none →
      (fld w 28 26 < q.rate ∨ fld w 25 24 < q.width) → ∃ t x, exec (.linkCfgSet p w) s = .next t ∧
        t.hub.mgmt.reply = ⟨St.ok, 0, 255, []⟩ ∧ t.hub.ports[p]? = some x ∧ x.cfg = w ∧ x.st = .up ∧
        x.askedAt = some s.hub.clk.elapsed ∧ (fld w 28 26 < q.rate → p ≠ 0 → ∃ r, x.run = some r ∧ r.target = fld w 28 26)) ∧
    (¬bad → ¬held → restarts → ∃ t x, exec (.linkCfgSet p w) s = .next t ∧ t.hub.mgmt.reply = ⟨St.ok, 0, 255, []⟩ ∧
      t.hub.ports[p]? = some x ∧ x.cfg = w ∧ x.run = none ∧
      x.st = (if p < 2 ∧ s.hub.flt.closed = true then .bypassed else if s.hub.powered p = false then .off
        else if mode = 1 then (if q.laneWidth = 0 ∧ p ≠ 0 then .off else .search) else if q.laneWidth = 0 ∨ mode = 0 then .off
        else if mode = 2 then .plain else .test) ∧
      (x.st = .plain → x.rate = fld w 22 20 ∧ x.width = min (fld w 19 18) q.laneWidth)) ∧
    exec (.linkCfgGet p) s = .next ⟨s.hub.ok (be 4 q.cfg.toNat), s.pending⟩ ∧
    exec (.linkStatus p) s = .next ⟨s.hub.ok (be 4 (s.hub.linkStatus p).toNat ++ be 1 (s.hub.lane p 0).alignOfs ++
      be 1 (s.hub.lane p 1).alignOfs ++ be 1 (s.hub.lane p 2).alignOfs ++ pad 1), s.pending⟩)) ∧
  (∀ (s : State) (p on l r w : Nat),
  let q := s.hub.prt p
  let now := s.hub.clk.elapsed
  let all := [Instr.linkManual p on, .linkSlip p l, .linkRate p r, .linkWidth p w]
  (s.hub.nPorts ≤ p → ∀ i ∈ all, exec i s = .next ⟨s.hub.refuse St.badArg, s.pending⟩) ∧
  (p < s.hub.nPorts → s.hub.dieDown (p / 4) = true → ∀ i ∈ all, exec i s = .next ⟨s.hub.refuseDie St.fault (p / 4), s.pending⟩) ∧
  (PortUp s.hub p →
    (1 < on → exec (.linkManual p on) s = .next ⟨s.hub.refuse St.badArg, s.pending⟩) ∧
    (2 < l → exec (.linkSlip p l) s = .next ⟨s.hub.refuse St.badArg, s.pending⟩) ∧
    (4 < r → exec (.linkRate p r) s = .next ⟨s.hub.refuse St.badArg, s.pending⟩) ∧
    (w = 0 ∨ 3 < w ∨ q.manual = false → exec (.linkWidth p w) s = .next ⟨s.hub.refuse St.badArg, s.pending⟩) ∧
    (s.hub.sealOpen = false → on ≤ 1 → l ≤ 2 → r ≤ 4 → ∀ i ∈ [Instr.linkManual p on, .linkSlip p l, .linkRate p r],
      exec i s = .next ⟨s.hub.refuse St.isSealed, s.pending⟩) ∧
    (s.hub.sealOpen = true → exec (.linkManual p 1) s = .next ⟨(s.hub.setPort p fun x => { x with
      manual := true, asked := none, askedAt := none, lost := [], answered := none,
      widthRun := match x.widthRun with | some ⟨_, none, _⟩ => none | v => v }).ok [], s.pending⟩) ∧
    (s.hub.sealOpen = true → q.manual = false → exec (.linkManual p 0) s = .next ⟨s.hub.ok [], s.pending⟩) ∧
    (s.hub.sealOpen = true → q.manual = true → ∃ t x, exec (.linkManual p 0) s = .next t ∧ t.hub.mgmt.reply = ⟨St.ok, 0, 255, []⟩ ∧
      t.hub.ports[p]? = some x ∧ x.manual = false ∧ x.cfg = q.cfg ∧ x.run = none ∧ x.st ≠ .up) ∧
    (s.hub.sealOpen = true → q.manual = false → l ≤ 2 → r ≤ 4 → ∀ i ∈ [Instr.linkSlip p l, .linkRate p r],
      exec i s = .next ⟨s.hub.refuse St.badArg, s.pending⟩) ∧
    (s.hub.sealOpen = true → q.manual = true → l ≤ 2 → exec (.linkSlip p l) s = .next ⟨(s.hub.setLane p l fun y => { y with
      lock := .hunt, count := 0, recent := [], offset := (y.offset + 1) % 66, huntAt := now }).ok [], s.pending⟩) ∧
    (s.hub.sealOpen = true → q.manual = true → r ≤ 4 → q.st ≠ .up → q.run = none → ∃ t x, exec (.linkRate p r) s = .next t ∧
      t.hub.mgmt.reply = ⟨St.ok, 0, 255, []⟩ ∧ t.hub.ports[p]? = some x ∧ x.rate = r ∧ x.st = q.st ∧
      (∀ i, i ≠ p → t.hub.ports[i]? = s.hub.ports[i]?)) ∧
    (s.hub.sealOpen = true → q.manual = true → r ≤ 4 → q.st = .up → q.run = none → q.ordered = false → ∃ t x, exec (.linkRate p r) s = .next t ∧
      t.hub.mgmt.reply = ⟨St.ok, 0, 255, []⟩ ∧ t.hub.ports[p]? = some x ∧ x.askedAt = some now ∧ x.rate = q.rate ∧
      (p ≠ 0 → ∃ y, x.run = some y ∧ y.target = r) ∧ (p = 0 → x.link.ctl = q.link.ctl ++ [⟨0x66, requestBits r⟩]) ∧
      (∀ i, i ≠ p → t.hub.ports[i]? = s.hub.ports[i]?)) ∧
    (q.manual = true → 1 ≤ w → w ≤ 3 → w ≠ q.width → q.st = .up → q.run = none → q.widthRun = none → ∃ t x,
      exec (.linkWidth p w) s = .next t ∧ t.hub.mgmt.reply = ⟨St.ok, 0, 255, []⟩ ∧ t.hub.ports[p]? = some x ∧
      x.askedAt = some now ∧ x.width = q.width ∧ x.link.ctl = q.link.ctl ++ [⟨0x78, w * 2 ^ 50⟩] ∧
      (p ≠ 0 → x.widthRun = some ⟨w, none, false⟩ ∧ x.lanes = q.wakeTo now w) ∧
      (∀ i, i ≠ p → t.hub.ports[i]? = s.hub.ports[i]?)) ∧
    (q.manual = true → 1 ≤ w → w ≤ 3 → (w = q.width ∨ q.st ≠ .up) → q.run = none → q.widthRun = none →
      exec (.linkWidth p w) s = .next ⟨s.hub.ok [], s.pending⟩) ∧
    (s.hub.sealOpen = true → q.manual = true → r ≤ 4 → q.run ≠ none ∨ (q.st = .up ∧ q.ordered = true) → exec (.linkRate p r) s =
      .next ⟨(s.hub.setPort p fun x => { x with asked := some (true, r) }).ok [], s.pending⟩) ∧
    (q.manual = true → 1 ≤ w → w ≤ 3 → (q.run ≠ none ∨ q.widthRun ≠ none) → (∀ v, q.asked ≠ some (true, v)) →
      exec (.linkWidth p w) s = .next ⟨(s.hub.setPort p fun x => { x with asked := some (false, w) }).ok [], s.pending⟩)))

/-- LINK_TEST_SET, LINK_LANE_GET, PRBS_SYNC and SYNC_LOSS (R320, R321, R322, R323): values outside Table 11-7, and patterns or
loops on a port that is not in TEST, answer BAD_ARG; an injection into a HUB port of a hub that is not OPEN answers SEALED;
else the word is stored in the lane named, with a single or burst injection reading back as 0; a read answers the counters of
Table 11-8 and clears them where it is asked to, the bits and errors counted up to then (a free number of errors, log entry
62); a data lane's checker that hears a pattern from outside declares sync once, and its loss is counted. LINK_COUPLER (R325,
R348, R396): a request that matches the coupler's state does nothing; OPEN answers FAULT where another cause keeps it closed,
and else opens it; CLOSE with P00 not UP cuts off P00 and P01 at once; with P00 UP the DEPART goes out first. It says that
these complete: LINK_TEST_SET, LINK_LANE_GET, LINK_COUPLER, PRBS_SYNC, SYNC_LOSS. -/
def Obligations.LaneTestsAndCoupler : Prop :=
  (∀ (s : State) (p l clear : Nat) (w : Word),
  let x := s.hub.lane p l
  let mode := fld (s.hub.prt p).cfg 31 30
  let bad : Prop := 3 < l ∨ badLaneTest w = true ∨ (mode ≠ 3 ∧ (fld w 31 26 ≠ 0 ∨ fld w 24 23 ≠ 0))
  let sealed : Prop := mode = 1 ∧ fld w 22 20 ≠ 0 ∧ s.hub.sealOpen = false
  let g := s.hub.countBits p l 0
  let y := g.lane p l
  let b := be 6 y.bits ++ be 6 y.err ++ be 1 (if y.sync then 1 else 0) ++ pad 1 ++ be 2 y.syncLoss ++ be 4 y.invHdr ++
    be 2 y.lockLoss ++ be 2 y.markGlitch ++ be 2 y.alignFail ++ be 2 y.retrain ++ be 2 y.eyeW ++ be 2 y.eyeH
  (PortUp s.hub p →
    (bad → exec (.linkTestSet p l w) s = .next ⟨s.hub.refuse St.badArg, s.pending⟩) ∧
    (¬bad → sealed → exec (.linkTestSet p l w) s = .next ⟨s.hub.refuse St.isSealed, s.pending⟩) ∧
    (¬bad → ¬sealed → LaneThere s.hub p l → ∃ t z, exec (.linkTestSet p l w) s = .next t ∧ t.hub.mgmt.reply = ⟨St.ok, 0, 255, []⟩ ∧
      t.hub.lane p l = z ∧ z.test = (if fld w 22 20 = 1 ∨ (fld w 22 20 = 2 ∧ fld w 19 12 ≠ 0) then setFld w 22 20 0 else w) ∧
      (fld w 22 20 = 1 → z.burst = 1) ∧ (fld w 22 20 = 2 → z.burst = fld w 19 12) ∧ z.lock = x.lock ∧
      (∀ i, i ≠ p → t.hub.ports[i]? = s.hub.ports[i]?)) ∧
    (l ≤ 3 → exec (.linkLaneGet p l 0) s = .next ⟨g.ok b, s.pending⟩ ∧
      exec (.linkLaneGet p l 1) s = .next ⟨(g.setLane p l fun z => { z with
        bits := 0, err := 0, syncLoss := 0, invHdr := 0, lockLoss := 0, markGlitch := 0, alignFail := 0, retrain := 0,
        eyeW := 0, eyeH := 0 }).ok b, s.pending⟩) ∧
    (3 < l ∨ 1 < clear → exec (.linkLaneGet p l clear) s = .next ⟨s.hub.refuse St.badArg, s.pending⟩)) ∧
  ((x.sync = false ∨ x.syncAt = none) → (l ≠ 3 ∨ fld x.test 24 23 = 1 ∨ (s.hub.prt p).ltRuns = false) → g = s.hub) ∧
  (∀ t0, LaneThere s.hub p l → x.sync = true → x.syncAt = some t0 →
    let n := (s.hub.clk.elapsed - t0) * s.hub.laneRate p l / 1000000000
    y.bits = satAdd 48 x.bits n ∧ y.err = satAdd 48 x.err (Config.prbsErrors g.fresh % (n + 1)) ∧ y.syncAt = some s.hub.clk.elapsed) ∧
  ((s.hub.prt p).st = .test → fld x.test 28 26 ≠ 0 → fld x.test 24 23 ≠ 1 → l ≠ 3 → x.sync = false →
    exec (.prbsSync p l) s = .next ⟨s.hub.setLane p l fun z => { z with sync := true, syncAt := some s.hub.clk.elapsed }, s.pending⟩) ∧
  ((s.hub.prt p).st ≠ .test ∨ fld x.test 28 26 = 0 ∨ fld x.test 24 23 = 1 ∨ l = 3 ∨ x.sync = true → exec (.prbsSync p l) s = .next s) ∧
  (x.sync = false ∨ x.syncAt = none → exec (.syncLoss p l) s = .next s) ∧
  (LaneThere s.hub p l → x.sync = true → x.syncAt ≠ none → ∃ t, exec (.syncLoss p l) s = .next t ∧ (t.hub.lane p l).sync = false ∧
    (t.hub.lane p l).syncLoss = satInc 16 x.syncLoss)) ∧
  (∀ (s : State) (op : Nat),
  (1 < op → exec (.linkCoupler op) s = .next ⟨s.hub.refuse St.badArg, s.pending⟩) ∧
  (s.hub.flt.closed = true → s.hub.flt.byHost = false ∨ s.hub.couplerCause = true →
    exec (.linkCoupler 0) s = .next ⟨s.hub.refuse St.fault, s.pending⟩) ∧
  (s.hub.flt.closed = true → s.hub.flt.byHost = true → s.hub.couplerCause = false → ∃ t, exec (.linkCoupler 0) s = .next t ∧
    t.hub.mgmt.reply = ⟨St.ok, 0, 255, []⟩ ∧ t.hub.flt.closed = false ∧ t.hub.flt.byHost = false ∧ t.hub.flt.closing = none) ∧
  (s.hub.flt.closed = false → exec (.linkCoupler 0) s = .next ⟨s.hub.ok [], s.pending⟩) ∧
  (s.hub.flt.closed = true ∨ s.hub.flt.closing ≠ none → exec (.linkCoupler 1) s = .next ⟨s.hub.ok [], s.pending⟩) ∧
  (Shaped s.hub → s.hub.flt.closed = false → s.hub.flt.closing = none → (s.hub.prt 0).st ≠ .up → ∃ t, exec (.linkCoupler 1) s = .next t ∧
    t.hub.mgmt.reply = ⟨St.ok, 0, 255, []⟩ ∧ t.hub.flt.closed = true ∧ t.hub.flt.byHost = true ∧
    (t.hub.prt 0).st = .bypassed ∧ (t.hub.prt 1).st = .bypassed) ∧
  (Shaped s.hub → s.hub.flt.closed = false → s.hub.flt.closing = none → (s.hub.prt 0).st = .up → ∃ t, exec (.linkCoupler 1) s = .next t ∧
    t.hub.mgmt.reply = ⟨St.ok, 0, 255, []⟩ ∧ t.hub.flt.closing = some s.hub.clk.elapsed ∧ t.hub.flt.closed = false ∧
    (t.hub.prt 0).link.ctl = (s.hub.prt 0).link.ctl ++ [⟨0xCC, s.hub.departBits 2⟩]))

/-- The lane lock machine (R303, R305, R307): HUNT to MARK_WAIT with 64 valid headers, and on to the next offset with an invalid
one; MARK_WAIT to MARK_CONFIRM with a MARK; three MARKs at 1,024 spacing lock the lane and give ALIGN_OFS; a MARK elsewhere
is counted in lock and goes back to MARK_WAIT before it; an offset that does not lock in 400 µs, or in 1,088 blocks of
MARK_WAIT, moves on by one bit, and the 66th counts ALIGN_FAIL; 1 ms later the search begins again; sixteen invalid headers
within 64 blocks, and three MARKs missing in lock, lose lock. On a manual port the firmware does not slip (R309). A port that
runs on no blocks (PLAIN, TEST, PARKED, BYPASSED, OFF) has no such events (R300, R316, R320, R324), nor has a lane that is
retired, parked or in its PRBS31 check (R316, R317). A port that settles, or waits for STEP, without its L0 begins again
(R326; log entry 193). It says that these complete: OFFSET_TIMEOUT, ALIGN_FAIL, MARK, INVALID_HEADER, MARK_WAIT_TIMEOUT,
VALID_HEADERS, NO_MARK_WHERE_EXPECTED. -/
def Obligations.LaneLock : Prop := ∀ (s : State) (p l w m : Nat),
  let q := s.hub.prt p
  let x := s.hub.lane p l
  let slot := s.hub.markSlot p l
  let now := s.hub.clk.elapsed
  let near := x.recent.filter fun t => decide (now < t + s.hub.window64 p)
  let here : Prop := q.receives = true ∧ x.retired = false ∧ x.parked = false ∧ x.checking now = false
  let hunts (y : Lane) : Lane := { y with lock := .hunt, count := 0, recent := [] }
  let moves (y : Lane) : Lane := if q.manual then hunts y else { hunts y with
    offset := (y.offset + 1) % 66, huntAt := now, tried := y.tried + 1, alignFail := if y.tried = 65 then satInc 16 y.alignFail else y.alignFail }
  (¬here → exec (.validHeaders p l) s = .next s ∧ exec (.mark p l w m) s = .next s ∧ exec (.invalidHeader p l) s = .next s ∧
    exec (.offsetTimeout p l) s = .next s ∧ exec (.markWaitTimeout p l) s = .next s ∧ exec (.noMarkWhereExpected p l) s = .next s ∧
    exec (.alignFail p l) s = .next s) ∧
  (here → x.lock = .hunt → x.tried < 66 → exec (.validHeaders p l) s = .next ⟨s.hub.setLane p l
    fun y => { y with lock := .markWait, count := 0 }, s.pending⟩) ∧
  (x.lock ≠ .hunt ∨ 66 ≤ x.tried ∨ x.retired = true ∨ x.parked = true → exec (.validHeaders p l) s = .next s) ∧
  (x.retired = true ∨ x.parked = true ∨ x.lock = .hunt → exec (.mark p l w m) s = .next s) ∧
  (here → x.lock = .markWait → exec (.mark p l w m) s = .next ⟨s.hub.setLane p l
    fun y => { y with lock := .confirm, count := 1, mcount := m, markAt := now }, s.pending⟩) ∧
  (here → x.lock = .confirm → slot ≠ some 1 → exec (.mark p l w m) s = .next ⟨s.hub.setLane p l
    fun y => { y with lock := .markWait, count := 0 }, s.pending⟩) ∧
  (here → x.lock = .confirm → slot = some 1 → x.count < 2 → exec (.mark p l w m) s = .next ⟨s.hub.setLane p l
    fun y => { y with count := y.count + 1, mcount := m, markAt := now }, s.pending⟩) ∧
  (here → LaneThere s.hub p l → x.lock = .confirm → slot = some 1 → 2 ≤ x.count → ∃ t, exec (.mark p l w m) s = .next t ∧
    (t.hub.lane p l).alignOfs = x.offset ∧ (q.st ≠ .search → q.st ≠ .training → (t.hub.lane p l).lock = .locked ∧
      (t.hub.lane p l).mcount = m)) ∧
  (here → x.lock = .locked → (slot = none ∨ (∃ k, slot = some k ∧ (k = 0 ∨ 3 < k))) → exec (.mark p l w m) s = .next ⟨s.hub.setLane p l
    fun y => { y with markGlitch := satInc 16 y.markGlitch }, s.pending⟩) ∧
  (∀ k, here → x.lock = .locked → slot = some k → 1 ≤ k → k ≤ 3 → (l ≠ 0 ∨ p ≠ 0) → exec (.mark p l w m) s = .next
    ⟨s.hub.setLane p l fun y => { y with mcount := m, markAt := now }, s.pending⟩) ∧
  (∀ k, here → x.lock = .locked → slot = some k → 1 ≤ k → k ≤ 3 → l = 0 → p = 0 → LaneThere s.hub 0 0 → ∃ t,
    exec (.mark p l w m) s = .next t ∧ (t.hub.lane 0 0).mcount = m ∧ (t.hub.lane 0 0).markGlitch = x.markGlitch) ∧
  (here → x.lock = .confirm → exec (.noMarkWhereExpected p l) s = .next ⟨s.hub.setLane p l fun y => { y with
    lock := .markWait, count := 0 }, s.pending⟩) ∧
  (x.lock ≠ .confirm → exec (.noMarkWhereExpected p l) s = .next s) ∧
  (here → x.lock = .markWait → exec (.markWaitTimeout p l) s = .next ⟨s.hub.setLane p l moves, s.pending⟩) ∧
  (here → LaneThere s.hub p l → x.lock = .locked → ∃ t, exec (.markWaitTimeout p l) s = .next t ∧ (t.hub.lane p l).lock = .hunt ∧
    (t.hub.lane p l).lockLoss = satInc 16 x.lockLoss ∧ (t.hub.lane p l).huntAt = now) ∧
  (x.lock = .hunt ∨ x.lock = .confirm → exec (.markWaitTimeout p l) s = .next s) ∧
  (here → x.lock ≠ .locked → x.tried < 66 → l ≤ 2 → x.huntAt + 400000 ≤ now →
    exec (.offsetTimeout p l) s = .next ⟨s.hub.setLane p l moves, s.pending⟩) ∧
  (x.lock = .locked ∨ 66 ≤ x.tried ∨ 2 < l ∨ now < x.huntAt + 400000 → exec (.offsetTimeout p l) s = .next s) ∧
  (x.tried < 66 ∨ now < x.huntAt + 1000000 → exec (.alignFail p l) s = .next s) ∧
  (here → 66 ≤ x.tried → x.huntAt + 1000000 ≤ now → (q.run = none ∨ ∃ r own, q.run = some r ∧ r.own = some own ∧ own.getD l false = false) →
    exec (.alignFail p l) s = .next ⟨s.hub.setLane p l fun y => { y with tried := 0, huntAt := now }, s.pending⟩) ∧
  (∀ r, here → 66 ≤ x.tried → x.huntAt + 1000000 ≤ now → q.run = some r → r.own = none →
    (q.st ≠ .training ∨ (r.at' ≠ none ∧ (l ≠ 0 ∨ p ≠ 0)) ∨ (r.at' = none ∧ r.cause ≠ .settle)) →
    exec (.alignFail p l) s = .next ⟨s.hub.setLane p l fun y => { y with tried := 0, huntAt := now }, s.pending⟩) ∧
  (∀ r, here → LaneThere s.hub p 0 → 66 ≤ x.tried → x.huntAt + 1000000 ≤ now → q.run = some r → r.own = none → q.st = .training → l = 0 →
    ((r.at' ≠ none ∧ p = 0) ∨ (r.at' = none ∧ r.cause = .settle)) →
    ∃ t z, exec (.alignFail p l) s = .next t ∧ t.hub.ports[p]? = some z ∧ z.run = none ∧ z.st ≠ .training ∧ z.st ≠ .up) ∧
  (∀ r own, here → 66 ≤ x.tried → x.huntAt + 1000000 ≤ now → q.run = some r → r.own = some own → own.getD l false = true →
    l ≠ 0 → own.getD 0 false = true → (s.hub.lane p 0).lock ≠ .locked →
    exec (.alignFail p l) s = .next ⟨(s.hub.setLane p l fun y => { y with tried := 0, huntAt := now }).setPort p fun z => { z with
      run := some { r with own := some (modAt own l fun _ => false) } }, s.pending⟩) ∧
  (here → LaneThere s.hub p l → x.lock = .hunt → ∃ t, exec (.invalidHeader p l) s = .next t ∧
    (t.hub.lane p l).lock = .hunt ∧ (t.hub.lane p l).invHdr = satInc 32 x.invHdr ∧
    (t.hub.lane p l).offset = (if x.tried < 66 ∧ q.manual = false then (x.offset + 1) % 66 else x.offset)) ∧
  (here → LaneThere s.hub p l → x.lock = .markWait ∨ x.lock = .confirm → ∃ t, exec (.invalidHeader p l) s = .next t ∧
    (t.hub.lane p l).lock = (if 15 ≤ near.length then .hunt else x.lock) ∧ (t.hub.lane p l).invHdr = satInc 32 x.invHdr ∧
    (t.hub.lane p l).lockLoss = x.lockLoss) ∧
  (here → LaneThere s.hub p l → x.lock = .locked → near.length < 15 → ∃ t, exec (.invalidHeader p l) s = .next t ∧
    (t.hub.lane p l).lock = .locked ∧ (t.hub.lane p l).invHdr = satInc 32 x.invHdr ∧ (t.hub.lane p l).recent = now :: near) ∧
  (here → LaneThere s.hub p l → x.lock = .locked → 15 ≤ near.length → ∃ t, exec (.invalidHeader p l) s = .next t ∧
    (t.hub.lane p l).lock = .hunt ∧ (t.hub.lane p l).invHdr = satInc 32 x.invHdr ∧ (t.hub.lane p l).lockLoss = satInc 16 x.lockLoss)

/-- Bring-up (R17, R308, R310, R316): in SEARCH, HELLO from a role that fits and SERIAL are kept, and with both, and lanes locked
at both ends, the port comes UP at LR0; from a role that does not fit the port stops in WIRING_ERR with a notice, until HELLO
names another role; a port other than P00 that has searched for PARK_IDLE with no peer there parks, and a signal wakes it.
Rate steps, retrains and width changes (R310 to R319, R463): who may begin, ask and answer. A STEP to the downstream end
begins a run to its rate at its MARK, but a step up waits until P00 is released; a REQUEST to the upstream end makes it begin
one; a PROBE begins one to the next rate, or wakes the next lane at the highest, once the port has been quiet for 600 s; the
check of the PRBS31 period is kept until L0 locks again; RESULT is kept in a run at its rate, and with both ends' results the
port returns to traffic; a lane that rejoins has passed or parks once its PRBS31 check is over; width changes are asked, and
answered or ordered once no lane has still to pass, answered and ordered by the ends that may; the end that is not spoken to
does nothing. It says that these complete: HELLO, SERIAL, STEP, PRBS_CHECK, RESULT, TRAIN_REQUEST, PROBE, PARK,
SIGNAL_DETECT, WIDTH_REQUEST, ORDER, ANSWER, ELASTIC_SLIP. -/
def Obligations.BringUpAndSteps : Prop :=
  (∀ (s : State) (p role mr mw lk : Nat) (sn : BitVec 48),
  let q := s.hub.prt p
  let now := s.hub.clk.elapsed
  let fits := if p = 0 then role = 1 ∨ role = 3 ∨ role = 4 else role = 2
  let opens : Prop := q.mode = 1 ∧ (q.laneWidth ≠ 0 ∨ p = 0) ∧ (s.hub.die (p / 4)).inService = true ∧ s.hub.powered p = true ∧
    (p < 2 → s.hub.flt.closed = false)
  let both (lock : Nat) (l : Nat) : Bool := q.lockedMask.testBit l && lock.testBit l
  let lanes (lock : Nat) : Nat := if !both lock 0 then 0 else if !both lock 1 then 1 else if !both lock 2 then 2 else 3
  let width (rate wide lock : Nat) : Nat :=
    let w := min ((s.hub.setPort p fun x => { x with peerRate := rate, peerWidth := wide }).widthCap p) (lanes lock)
    if s.hub.boot.netboot then min w 1 else w
  (q.st ≠ .search → exec (.serial p sn) s = .next s) ∧
  (q.st ≠ .search → (q.st ≠ .wiring ∨ role = q.peer) → exec (.hello p role mr mw lk) s = .next s) ∧
  (p < s.hub.ports.length → q.st = .wiring → role ≠ q.peer → opens → fits → ∃ t x, exec (.hello p role mr mw lk) s = .next t ∧
    t.hub.ports[p]? = some x ∧ x.st = .search ∧ x.peer = role ∧ x.peerSerial = none) ∧
  (q.st = .search → q.peerSerial = none ∨ role = 0 ∨ width (min 4 mr) mw lk = 0 → fits → exec (.hello p role mr mw lk) s =
    .next ⟨s.hub.setPort p fun x => { x with peer := role, peerRate := min 4 mr, peerWidth := mw, peerLocked := lk }, s.pending⟩) ∧
  (p < s.hub.ports.length → q.st = .search → q.peerSerial ≠ none → fits → 0 < width (min 4 mr) mw lk → ∃ t x,
    exec (.hello p role mr mw lk) s = .next t ∧ t.hub.ports[p]? = some x ∧ x.st = .up ∧ x.rate = 0 ∧
      x.width = width (min 4 mr) mw lk ∧ x.peer = role ∧ x.upAt = now) ∧
  (p < s.hub.ports.length → s.hub.hk.dropped = 0 → q.st = .search → ¬ fits → ∃ t x, exec (.hello p role mr mw lk) s = .next t ∧ t.hub.ports[p]? = some x ∧
    x.st = .wiring ∧ x.peer = role ∧ t.hub.hk.rseq = s.hub.hk.rseq + 1) ∧
  (q.st = .search → q.peer = 0 ∨ width q.peerRate q.peerWidth q.peerLocked = 0 → exec (.serial p sn) s =
    .next ⟨s.hub.setPort p fun x => { x with peerSerial := some sn }, s.pending⟩) ∧
  (p < s.hub.ports.length → q.st = .search → q.peer ≠ 0 → 0 < width q.peerRate q.peerWidth q.peerLocked → ∃ t x,
    exec (.serial p sn) s = .next t ∧ t.hub.ports[p]? = some x ∧ x.st = .up ∧ x.rate = 0 ∧
      x.width = width q.peerRate q.peerWidth q.peerLocked ∧ x.peerSerial = some sn ∧ x.upAt = now) ∧
  (p < s.hub.ports.length → p ≠ 0 → q.st = .search → q.mode = 1 → q.peer = 0 → q.lockedMask = 0 → (bitOf q.cfg 16 = true ∨ s.hub.pwr.st = .doze) →
    q.searchAt + fld q.cfg 15 0 * 1000000 ≤ now → ∃ t x, exec (.park p) s = .next t ∧ t.hub.ports[p]? = some x ∧
      x.st = .parked ∧ x.cfg = q.cfg ∧ (∀ i, i ≠ p → (t.hub.ports[i]?).map Port.st = (s.hub.ports[i]?).map Port.st)) ∧
  (p = 0 ∨ q.st ≠ .search ∨ q.mode ≠ 1 ∨ q.peer ≠ 0 ∨ q.lockedMask ≠ 0 ∨ (bitOf q.cfg 16 = false ∧ s.hub.pwr.st ≠ .doze) ∨
    now < q.searchAt + fld q.cfg 15 0 * 1000000 → exec (.park p) s = .next s) ∧
  (q.st ≠ .parked → exec (.signalDetect p) s = .next s) ∧
  (p < s.hub.ports.length → q.st = .parked → opens → ∃ t x, exec (.signalDetect p) s = .next t ∧ t.hub.ports[p]? = some x ∧
    x.st = .search ∧ x.searchAt = now)) ∧
  (∀ (s : State) (p rate m w lanes l : Nat) (passed : List Bool),
  let q := s.hub.prt p
  let now := s.hub.clk.elapsed
  let there : Prop := p < s.hub.ports.length
  let mayAct : Prop := q.manual = false ∨ q.askedAt ≠ none
  let ends (x : Lane) : Prop := x.rejoins = true ∧ ∃ u, x.wakeAt = some u ∧ u + 3000000 ≤ now
  let woken : Port := { q with lanes := q.wakeTo now w }
  let settles : Prop := p ≠ 0 ∧ q.st = .up ∧ ∀ x ∈ q.lanes, x.rejoins = false
  let pass (i : Nat) : Bool := passed.getD i false && !(q.lanes.getD i Lane.reset).retired
  (p ≠ 0 → exec (.trainStep p rate m) s = .next s ∧ exec (.order p w m) s = .next s) ∧
  (4 < rate ∨ (q.st ≠ .up ∧ q.st ≠ .training) ∨ (q.manual = true ∧ q.askedAt = none) → exec (.trainStep p rate m) s = .next s) ∧
  (p = 0 → rate ≤ 4 → mayAct → q.st = .up → (rate ≤ q.rate ∨ s.hub.boot.p00Released = true) → (s.hub.lane p 0).lock = .locked →
    exec (.trainStep p rate m) s = .next ⟨s.hub.setPort p fun x => { x with
      run := some (StepRun.mk rate (some (m % 65536)) (if q.rate < rate then .stepUp else .retrain) q.rate q.width
        (if q.rate < rate then [(q.rate, q.width)] else []) none none now),
      askedAt := none, quietAt := now }, s.pending⟩) ∧
  (p = 0 → there → rate ≤ 4 → mayAct → q.st = .up → (rate ≤ q.rate ∨ s.hub.boot.p00Released = true) →
    (s.hub.lane p 0).lock ≠ .locked → ∃ t x r, exec (.trainStep p rate m) s = .next t ∧ t.hub.ports[p]? = some x ∧ x.st = .training ∧
      x.rate = rate ∧ x.run = some r ∧ r.target = rate ∧ r.at' = none) ∧
  (p = 0 → rate ≤ 4 → mayAct → q.st = .up → q.rate < rate → s.hub.boot.p00Released = false →
    exec (.trainStep p rate m) s = .next ⟨s.hub.setPort p fun x => { x with asked := some (true, rate) }, s.pending⟩) ∧
  (∀ r, p = 0 → there → rate ≤ 4 → mayAct → q.st = .training → q.run = some r → ∃ t x y, exec (.trainStep p rate m) s = .next t ∧
    t.hub.ports[p]? = some x ∧ x.st = .training ∧ x.run = some y ∧ y.target = rate ∧ y.good = r.good ∧ y.own = none ∧ y.peer = none) ∧
  (p = 0 ∨ 4 < rate ∨ q.manual = true ∨ (q.run ≠ none ∧ (s.hub.wins p && s.hub.collides p) = true) →
    exec (.trainRequest p rate) s = .next s) ∧
  (there → p ≠ 0 → rate ≤ 4 → q.manual = false → q.st = .up → q.run = none → q.ordered = false →
    ∃ t x r, exec (.trainRequest p rate) s = .next t ∧ t.hub.ports[p]? = some x ∧ x.run = some r ∧ r.target = rate ∧
      r.at' = some ((q.mcount + 2) % 65536) ∧ r.cause = .retrain ∧ x.link.ctl = q.link.ctl ++ [⟨0x66, stepBits rate ((q.mcount + 2) % 65536)⟩]) ∧
  (p ≠ 0 → rate ≤ 4 → q.manual = false → (q.run ≠ none ∧ (s.hub.wins p && s.hub.collides p) = false) ∨ (q.run = none ∧ q.ordered = true) →
    exec (.trainRequest p rate) s = .next ⟨s.hub.setPort p fun x => { x with asked := some (true, rate) }, s.pending⟩) ∧
  (there → p ≠ 0 → bitOf q.cfg 17 = true → q.st = .up → q.run = none → q.manual = false → s.hub.pwr.shed < 2 →
    q.quietAt + 600000000000 ≤ now →
    (q.rate < s.hub.rateCap p → ∃ t x r, exec (.probe p) s = .next t ∧ t.hub.ports[p]? = some x ∧ x.run = some r ∧
      r.target = q.rate + 1 ∧ r.cause = .probe ∧ r.good = [(q.rate, q.width)]) ∧
    (s.hub.rateCap p ≤ q.rate → q.width < s.hub.widthCap p → q.widthRun = none → ∃ t, exec (.probe p) s = .next t ∧
      (t.hub.prt p).widthRun = some ⟨q.width + 1, none, false⟩ ∧
      (LaneThere s.hub p q.width → (s.hub.lane p q.width).parked = true → (t.hub.lane p q.width).parked = false ∧ (t.hub.lane p q.width).lock = .hunt) ∧
      (t.hub.prt p).quietAt = now) ∧
    (s.hub.rateCap p ≤ q.rate → s.hub.widthCap p ≤ q.width → exec (.probe p) s = .next s)) ∧
  (p = 0 ∨ bitOf q.cfg 17 = false ∨ q.st ≠ .up ∨ q.run ≠ none ∨ q.manual = true ∨ 2 ≤ s.hub.pwr.shed ∨
    now < q.quietAt + 600000000000 → exec (.probe p) s = .next s) ∧
  (q.run = none ∨ q.st ≠ .training → exec (.result p rate lanes) s = .next s) ∧
  (∀ r, q.run = some r → r.target ≠ rate ∨ r.cause = .settle → exec (.result p rate lanes) s = .next s) ∧
  (∀ r, q.st = .training → q.run = some r → r.target = rate → r.cause ≠ .settle → r.own = none →
    exec (.result p rate lanes) s = .next ⟨s.hub.setPort p fun x => { x with
      run := some { r with peer := some (lanes % 8) } }, s.pending⟩) ∧
  (∀ r own, let v := min (passWidth own (lanes % 8)) (s.hub.widthCap p)
    there → q.st = .training → q.run = some r → r.target = rate → r.cause = .retrain → r.own = some own → q.manual = false →
    r.good = [] → q.asked = none → q.lost = [] → (∀ i < r.fromWidth, own.getD i false = true) → 0 < v → own.getD 0 false = true → ∃ t x,
    exec (.result p rate lanes) s = .next t ∧ t.hub.ports[p]? = some x ∧ x.st = .up ∧ x.rate = rate ∧ x.width = v) ∧
  (∀ r, there → q.lanes.length = 4 → q.st = .training → q.run = some r → r.cause ≠ .settle → r.own = none →
    r.at' = none → r.since + 1500000 ≤ now → pass 0 = true → ∃ t x r', exec (.prbsCheck p passed) s = .next t ∧ t.hub.ports[p]? = some x ∧ x.st = .training ∧
      x.run = some r' ∧ r'.own = some [pass 0, pass 1, pass 2] ∧ r'.target = r.target) ∧
  (∀ r, q.st = .training → q.run = some r → now < r.since + 1500000 → exec (.prbsCheck p passed) s = .next s) ∧
  (q.st = .up → q.widthRun = none → (∀ x ∈ q.lanes, ¬ends x) → exec (.prbsCheck p passed) s = .next s) ∧
  (LaneThere s.hub p l → q.st = .up → q.widthRun = none → ends (s.hub.lane p l) → ∃ t, exec (.prbsCheck p passed) s = .next t ∧
    (t.hub.prt p).width = q.width ∧ t.hub.lane p l = (if passed.getD l false = true ∧ (s.hub.lane p l).lock = .locked
      then { s.hub.lane p l with passed := true } else { (s.hub.lane p l).hunt now with parked := true })) ∧
  (q.st ≠ .up ∨ w = 0 ∨ (q.manual = true ∧ (p ≠ 0 ∨ q.askedAt = none)) → exec (.widthRequest p w) s = .next s) ∧
  (p ≠ 0 → q.st = .up → q.manual = false → q.run = none → q.widthRun = none → w ≠ 0 →
    min w (s.hub.widthCap p) ≠ 0 → min w (s.hub.widthCap p) ≠ q.width → there →
    ∃ t x, exec (.widthRequest p w) s = .next t ∧ t.hub.ports[p]? = some x ∧ x.widthRun = some ⟨min w (s.hub.widthCap p), none, false⟩ ∧
      x.width = q.width) ∧
  (p = 0 → there → q.st = .up → mayAct → w ≠ 0 → (∀ x ∈ woken.lanes, x.rejoins = false) → q.asked = none →
    ∃ t x, exec (.widthRequest p w) s = .next t ∧ t.hub.ports[p]? = some x ∧
    x.width = q.width ∧ x.widthRun = none ∧ x.link.ctl = q.link.ctl ++ [⟨0x78, 2 * 2 ^ 52 + woken.accepts * 2 ^ 49⟩]) ∧
  (p = 0 → there → q.st = .up → mayAct → w ≠ 0 → (∃ x ∈ woken.lanes, x.rejoins = true) →
    ∃ t x, exec (.widthRequest p w) s = .next t ∧ t.hub.ports[p]? = some x ∧
    x.width = q.width ∧ x.widthRun = some ⟨w, none, false⟩ ∧ x.lanes = woken.lanes ∧ x.link = q.link) ∧
  (p = 0 ∨ (∀ v b, q.widthRun ≠ some ⟨v, none, b⟩) → exec (.answer p lanes) s = .next s) ∧
  (∀ b, let v := min w (passWidth ((List.range 3).map fun i => q.accepts.testBit i) lanes)
    there → settles → q.widthRun = some ⟨w, none, b⟩ → v ≠ 0 → v ≠ q.width →
    ∃ t x, exec (.answer p lanes) s = .next t ∧ t.hub.ports[p]? = some x ∧ x.width = q.width ∧
      x.widthRun = some ⟨v, some (v, (q.mcount + 2) % 65536), false⟩) ∧
  (∀ b, let v := min w (passWidth ((List.range 3).map fun i => q.accepts.testBit i) lanes)
    settles → q.widthRun = some ⟨w, none, b⟩ → v = 0 ∨ v = q.width → q.asked = none →
    (q.manual = true ∨ (q.rate ≤ s.hub.rateCap p ∧ q.width ≤ s.hub.widthCap p)) → exec (.answer p lanes) s =
      .next ⟨s.hub.setPort p fun x => { x with
        widthRun := none, askedAt := none, answered := none, lanes := q.parkOutside now q.width }, s.pending⟩) ∧
  (∀ b, p ≠ 0 → q.st = .up → q.widthRun = some ⟨w, none, b⟩ → (∃ x ∈ q.lanes, x.rejoins = true) → exec (.answer p lanes) s =
    .next ⟨s.hub.setPort p fun x => { x with answered := some lanes }, s.pending⟩) ∧
  (p = 0 → q.st = .up → 1 ≤ w → w ≤ 3 → mayAct → exec (.order p w m) s = .next ⟨s.hub.setPort p fun x => { x with
    askedAt := none, widthRun := some ⟨w, some (w, m % 65536), false⟩ }, s.pending⟩) ∧
  (q.st ≠ .up ∨ w = 0 ∨ 3 < w ∨ (q.manual = true ∧ q.askedAt = none) → exec (.order p w m) s = .next s) ∧
  (s.hub.hk.dropped = 0 → q.manual = true → ∃ t, exec (.elasticSlip p l) s = .next t ∧ t.hub.hk.rseq = s.hub.hk.rseq + 1 ∧
    t.hub.ports.map Port.run = s.hub.ports.map Port.run) ∧
  (there → s.hub.hk.dropped = 0 → q.manual = false → q.st = .up → q.run = none → q.ordered = false → p ≠ 0 → ∃ t x r, exec (.elasticSlip p l) s = .next t ∧
    t.hub.hk.rseq = s.hub.hk.rseq + 1 ∧ t.hub.ports[p]? = some x ∧ x.run = some r ∧ r.target = q.rate ∧ r.cause = .retrain))

/-- Acceptance (R331, R333, R334, R335, R337, R338): a packet on a port that is not UP has no effect; one with the SEQ expected,
the class in force and a good CRC moves the SEQ expected on and queues an ACK; one out of sequence or with a bad CRC is
answered by one NAK for the SEQ expected and no more; one that ends in ABORT, or does not frame, is counted. IDLE sets the
class. Routing (R342, Table 12-7): an accepted packet is queued with its body on each port of its row, and on no other; one
that has no row is counted and dropped; a MODAL frame that is not for the concentrator is too. It says that these complete:
MODAL_FRAME, IDLE, TRIG, STREAM. -/
def Obligations.PacketsAccepted : Prop :=
  (∀ (s : State) (p sel : Nat) (k : PacketIn) (m : ArrMsg) (f : ModalFrame),
  let l := (s.hub.prt p).link
  let up : Prop := (s.hub.prt p).st = .up
  let framed : Prop := l.rxClass ≠ 0 ∧ k.cls = l.rxClass ∧ 3 ≤ k.lenBlocks
  let few : Prop := (l.naks.filter fun t => decide (s.hub.clk.elapsed < t + 1000000000)).length < 16
  (¬up → exec (.stream p k) s = .next s ∧ exec (.trig p k m) s = .next s) ∧
  ((s.hub.prt 1).st ≠ .up → exec (.modalFrame k f) s = .next s) ∧
  (Accepted s.hub p k →
    (∃ t, exec (.stream p k) s = .next t ∧ (t.hub.prt p).link.rxSeq = (l.rxSeq + 1) % 65536 ∧ (t.hub.prt p).link.nakOpen = false ∧
      CtlBlock.mk 0x4B (l.rxSeq % 65536 * 2 ^ 40) ∈ (t.hub.prt p).link.ctl ∧ t.hub.tm = s.hub.tm) ∧
    (∃ t, exec (.trig p k m) s = .next t ∧ (t.hub.prt p).link.rxSeq = (l.rxSeq + 1) % 65536 ∧ (t.hub.prt p).link.nakOpen = false) ∧
    (p = 1 → ∃ t, exec (.modalFrame k f) s = .next t ∧ (t.hub.prt p).link.rxSeq = (l.rxSeq + 1) % 65536 ∧
      (k.dest ≠ 0 → (t.hub.prt p).link.unroutable = satInc 16 l.unroutable ∧ t.hub.sep = s.hub.sep))) ∧
  (up → framed → k.aborted = false → (k.crcGood = false ∨ k.seq ≠ l.rxSeq) →
    (l.nakOpen = true → exec (.stream p k) s = .next s ∧ exec (.trig p k m) s = .next s) ∧
    (l.nakOpen = false → few → ∀ i ∈ [Instr.stream p k, .trig p k m], ∃ t, exec i s = .next t ∧ (t.hub.prt p).link.rxSeq = l.rxSeq ∧
      (t.hub.prt p).link.nakOpen = true ∧
      (t.hub.prt p).link.ctl = l.ctl ++ [⟨0x55, l.rxSeq * 2 ^ 40 + (if k.crcGood then 2 else 1) * 2 ^ 32⟩])) ∧
  (up → framed → k.aborted = true → ∀ i ∈ [Instr.stream p k, .trig p k m], exec i s = .next ⟨
    (let h := s.hub.setLink p fun x => { x with abort := satInc 16 x.abort }
     if k.cls = 2 ∧ p = 1 then { h with sep := { h.sep with replays := satInc 16 h.sep.replays } } else h), s.pending⟩) ∧
  (up → ¬framed → ∀ i ∈ [Instr.stream p k, .trig p k m],
    (l.nakOpen = true → exec i s = .next ⟨s.hub.setLink p fun x => { x with frame := satInc 16 x.frame }, s.pending⟩) ∧
    (l.nakOpen = false → few → ∃ t, exec i s = .next t ∧ (t.hub.prt p).link.frame = satInc 16 l.frame ∧
      (t.hub.prt p).link.nakOpen = true ∧ (t.hub.prt p).link.ctl = l.ctl ++ [⟨0x55, l.rxSeq * 2 ^ 40 + 3 * 2 ^ 32⟩])) ∧
  (p = 1 → up → framed → k.aborted = false → (k.crcGood = false ∨ k.seq ≠ l.rxSeq) → l.nakOpen = true →
    (k.cls ≠ 2 ∨ k.dest ≠ 0 ∨ s.hub.takesFrame f = false) → exec (.modalFrame k f) s = .next s) ∧
  (1 ≤ sel → sel ≤ 4 → exec (.idle p sel) s = .next ⟨s.hub.setLink p fun x => { x with rxClass := sel }, s.pending⟩) ∧
  (sel = 0 ∨ 4 < sel → exec (.idle p sel) s = .next s)) ∧
  (∀ (s : State) (p : Nat) (k : PacketIn) (m : ArrMsg),
  let fr : Frame := ⟨k.cls, k.kind, k.dest, k.src, k.body, none, false, false⟩
  let waits (h : Hub) (i : Nat) : List Frame := (h.prt i).link.queues.getD (k.cls - 1) []
  Shaped s.hub → Accepted s.hub p k → p < s.hub.nPorts → k.cls ≤ 4 → s.hub.boot.netboot = false →
  (∀ i < s.hub.nPorts, (s.hub.prt i).link.queues.length = 4) →
  (s.hub.route p k.dest = none → ∀ i ∈ [Instr.stream p k, .trig p k m], ∃ t, exec i s = .next t ∧
    (∀ j < s.hub.nPorts, waits t.hub j = waits s.hub j) ∧
    (t.hub.prt p).link.unroutable = satInc 16 (s.hub.prt p).link.unroutable) ∧
  (∀ here out, s.hub.route p k.dest = some (here, out) →
    (∃ t, exec (.stream p k) s = .next t ∧ (t.hub.prt p).link.unroutable = (s.hub.prt p).link.unroutable ∧
      ∀ j < s.hub.nPorts, waits t.hub j = waits s.hub j ++ (if out.contains j then [fr] else [])) ∧
    (here = false → ∃ t, exec (.trig p k m) s = .next t ∧
      ∀ j < s.hub.nPorts, waits t.hub j = waits s.hub j ++ (if out.contains j then [fr] else [])))) ∧
  (∀ (h : Hub) (p dest : Nat),
  (p ≠ 0 → h.route p dest = if dest = 0 then some (false, [0]) else none) ∧
  (h.addressed = true → dest = h.addr → h.route 0 dest = some (true, [])) ∧
  (h.addressed = false → h.route 0 0xFFFF = some (true, [])) ∧
  (h.addressed = true → ∃ out, h.route 0 0xFFFF = some (true, out) ∧ ∀ q, q ∈ out ↔ q < h.nPorts ∧ q ≠ 0 ∧ (h.prt q).mode = 1 ∧
    (if q = 1 then (h.prt q).linked = true else (h.prt q).st = .up)) ∧
  (∀ out, h.route 0 dest = some (false, out) → ∃ q a b, out = [q] ∧ q < h.nPorts ∧ (h.prt q).range = some (a, b) ∧ a ≤ dest ∧ dest ≤ b) ∧
  (h.route 0 dest = none → ∀ q a b, q < h.nPorts → (h.prt q).range = some (a, b) → ¬(a ≤ dest ∧ dest ≤ b)))

/-- Retransmission and PAUSE (R337 to R340): ACK frees what it names; NAK replays from the SEQ named, and a repeat of it within a
replay timeout replays nothing more; the replay timeout replays everything held; NAK_REPEAT repeats the open NAK; PAUSE is
kept, is repeated in its present state, and is taken as clear 100 µs after it was last heard; unknown control blocks are
counted. It says that these complete: ACK, NAK, REPLAY_TIMEOUT, ACK_TIMER, PAUSE, PAUSE_REPEAT, PAUSE_LOST, INV_CTL,
NAK_REPEAT. -/
def Obligations.Retransmission : Prop := ∀ (s : State) (p seq cause : Nat) (st : Bool),
  let l := (s.hub.prt p).link
  let up : Prop := (s.hub.prt p).st = .up
  let there : Prop := p < s.hub.ports.length
  let now := s.hub.clk.elapsed
  (there → ∃ t x, exec (.ack p seq) s = .next t ∧ t.hub = s.hub.setLink p (fun _ => x) ∧
    x.replay = (l.replay.filter fun y => serialAfter 16 y.1 seq) ∧ x.again = (l.again.filter fun y => serialAfter 16 y.1 seq) ∧
    x.rxSeq = l.rxSeq ∧ x.txSeq = l.txSeq ∧ x.ackAt = (if x.replay.length = l.replay.length then l.ackAt else now)) ∧
  (¬ up → exec (.nak p seq cause) s = .next s ∧ exec (.replayTimeout p) s = .next s ∧ exec (.nakRepeat p) s = .next s ∧
    exec (.ackTimer p) s = .next s ∧ exec (.pauseRepeat p) s = .next s ∧ exec (.pauseLost p) s = .next s) ∧
  (up → there → (∀ u, l.lastNak = some (seq, u) → u + l.timeout ≤ now) → ∃ t, exec (.nak p seq cause) s = .next t ∧
    (t.hub.prt p).link.again = (l.replay.filter fun y => y.1 == seq || serialAfter 16 y.1 seq) ∧
    (t.hub.prt p).link.replay = l.replay ∧ (t.hub.prt p).link.lastNak = some (seq, now)) ∧
  (∀ u, up → there → l.lastNak = some (seq, u) → now < u + l.timeout → ∃ t,
    exec (.nak p seq cause) s = .next t ∧ (t.hub.prt p).link.again = l.again ∧ (t.hub.prt p).link.lastNak = l.lastNak) ∧
  (up → l.replay ≠ [] → l.ackAt + l.timeout ≤ now → exec (.replayTimeout p) s = .next ⟨s.hub.setLink p fun x => { x with
    again := x.replay, ackAt := now }, s.pending⟩) ∧
  (l.replay = [] ∨ now < l.ackAt + l.timeout → exec (.replayTimeout p) s = .next s) ∧
  (20000 ≤ l.timeout ∧ l.timeout ≤ 10000000) ∧
  (up → there → l.nakOpen = true → l.nakAt + l.timeout ≤ now → ∃ t, exec (.nakRepeat p) s = .next t ∧
    (⟨0x55, l.rxSeq * 2 ^ 40 + l.lastNakCause * 2 ^ 32⟩ : CtlBlock) ∈ (t.hub.prt p).link.ctl ∧ (t.hub.prt p).link.nakAt = now ∧
    (t.hub.prt p).link.rxSeq = l.rxSeq) ∧
  (l.nakOpen = false ∨ now < l.nakAt + l.timeout → exec (.nakRepeat p) s = .next s) ∧
  (up → exec (.ackTimer p) s = .next ⟨s.hub.setLink p fun x => { x with
    unacked := 0, ctl := (x.ctl.filter fun c => c.code != 0x4B) ++ [⟨0x4B, (x.rxSeq + 65535) % 65536 * 2 ^ 40⟩] }, s.pending⟩) ∧
  (exec (.pause p st) s = .next ⟨s.hub.setLink p fun x => { x with
    pauseRx := some st, pauseAt := now, pauseGone := false }, s.pending⟩) ∧
  (up → exec (.pauseRepeat p) s = .next ⟨s.hub.setLink p fun x => { x with
    ctl := (x.ctl.filter fun c => c.code != 0x33) ++ [⟨0x33, if x.pauseTx then 2 ^ 55 else 0⟩] }, s.pending⟩) ∧
  (up → l.pauseGone = false → l.pauseAt + 100000 ≤ now → exec (.pauseLost p) s = .next ⟨s.hub.setLink p fun x => { x with
    pauseGone := true, pauseLost := satInc 16 x.pauseLost }, s.pending⟩) ∧
  (l.pauseGone = true ∨ now < l.pauseAt + 100000 → exec (.pauseLost p) s = .next s) ∧
  (exec (.invCtl p) s = .next ⟨s.hub.setLink p fun x => { x with invCtl := satInc 16 x.invCtl }, s.pending⟩)

/-- Enumeration (R343 to R348): OPEN begins a round and records the ports that lead to hubs; the first TOKEN of the round gives
this hub the address that it carries and goes on to the next recorded port, the next one passes through; RETURN gives the
port asked its range and sends the token on; CLOSE commits address and ranges, and a hub that claimed nothing has none; a
message of another round has no effect; CLAIM, ARRIVE and DEPART from below go up unchanged; ARRIVE of this hub is repeated
each second until it has claimed. BLOCK_BOUNDARY (R110, R301, R303, R308, R311, R320, R332): a port that does not send blocks
sends none; in TEST mode and in the PRBS period of a step its lanes send their patterns; in SEARCH the blocks of R308 take
turns on all its data lanes; the 1,024th block of a lane is its MARK, and L0's moves MCOUNT on; TIMECOR of the next second is
queued once; a control block that waits goes before any packet; then a packet's next block goes, with SEL before it where the
class changes; with nothing to send, or without an address, an IDLE goes, and lanes up outside the width send IDLE, or PRBS31
in the check of one that rejoins. It says that these complete: OPEN, TOKEN, RETURN, CLOSE, CLAIM, ARRIVE, ARRIVE_REPEAT,
DEPART, BLOCK_BOUNDARY. -/
def Obligations.Enumeration : Prop :=
  (∀ (s : State) (p round next n2 : Nat) (full : Bool) (b : BitVec 56),
  let e := s.hub.enm
  let up0 : Prop := (s.hub.prt 0).st = .up
  let code (phase n : Nat) (f : Bool) : CtlBlock := ⟨0x99, phase * 2 ^ 52 + round * 2 ^ 44 + n * 2 ^ 28 + if f then 2 ^ 27 else 0⟩
  let asks (n : Nat) (f : Bool) (l : List Nat) : Option (List Nat × Nat × Nat × Bool) := match l with | i :: r => some (r, i, n, f) | [] => none
  (¬ up0 ∨ round = 0 ∨ 255 < round → exec (.searchOpen round) s = .next s) ∧
  (up0 → 1 ≤ round → round ≤ 255 → ∃ t, exec (.searchOpen round) s = .next t ∧ t.hub.enm.round = round ∧ t.hub.enm.eligible = true ∧
    t.hub.enm.pending = none ∧ t.hub.enm.claimed = false ∧ t.hub.enm.addr = e.addr ∧
    ∀ (i : Nat) q, t.hub.ports[i]? = some q → q.pendRange = none ∧
      (q.recorded = true ↔ i ≠ 0 ∧ s.hub.boot.netboot = false ∧ (s.hub.prt i).mode = 1 ∧ (s.hub.prt i).st = .up ∧
        (s.hub.prt i).peer = 2)) ∧
  (round ≠ e.round ∨ ¬ up0 → exec (.token round next full) s = .next s) ∧
  (round = e.round → up0 → e.eligible = true → next ≤ 0xFFE → ∃ t, exec (.token round next full) s = .next t ∧
    t.hub.enm.pending = some next ∧ t.hub.enm.claimed = true ∧ t.hub.enm.addr = e.addr ∧
    t.hub.enm.walk = asks (next + 1) full s.hub.recordedPorts) ∧
  (round = e.round → up0 → e.eligible = true → 0xFFE < next → ∃ t, exec (.token round next full) s = .next t ∧
    t.hub.enm.pending = none ∧ t.hub.enm.claimed = e.claimed ∧ t.hub.enm.addr = e.addr ∧
    t.hub.enm.walk = asks next true s.hub.recordedPorts) ∧
  (round = e.round → up0 → e.eligible = false → (s.hub.prt 1).recorded = false → exec (.token round next full) s = .next
    ⟨s.hub.setLink 0 fun k => { k with ctl := k.ctl ++ [code 2 next full] }, s.pending⟩) ∧
  (round = e.round → up0 → e.eligible = false → (s.hub.prt 1).recorded = true → exec (.token round next full) s = .next
    ⟨({ s.hub with enm := { e with through := true } }).setLink 1 fun k => { k with ctl := k.ctl ++ [code 1 next full] }, s.pending⟩) ∧
  (round ≠ e.round → exec (.searchReturn p round n2 full) s = .next s ∧ exec (.searchClose round) s = .next s) ∧
  (round = e.round → e.through = true → p = 1 → exec (.searchReturn p round n2 full) s = .next
    ⟨({ s.hub with enm := { e with through := false } }).setLink 0 fun k => { k with ctl := k.ctl ++ [code 2 n2 full] }, s.pending⟩) ∧
  (e.through = false ∨ p ≠ 1 → (∀ rest n fl, e.walk ≠ some (rest, p, n, fl)) → exec (.searchReturn p round n2 full) s = .next s) ∧
  (∀ rest n fl, round = e.round → (e.through = false ∨ p ≠ 1) → e.walk = some (rest, p, n, fl) → p < s.hub.ports.length → ∃ t q,
    exec (.searchReturn p round n2 full) s = .next t ∧ t.hub.ports[p]? = some q ∧
    q.pendRange = (if n2 ≤ n then none else some (n, n2 - 1)) ∧ t.hub.enm.walk = asks n2 (fl || full) rest) ∧
  (∀ a, round = e.round → e.eligible = true → e.pending = some a → ∃ t, exec (.searchClose round) s = .next t ∧ t.hub.enm.addr = a ∧
    t.hub.enm.eligible = false ∧ t.hub.enm.arriveAt = none ∧
    t.hub.ports.map Port.range = s.hub.ports.map Port.pendRange) ∧
  (round = e.round → (e.eligible = true ∧ e.pending = none) ∨ (e.eligible = false ∧ e.claimed = false) → ∃ t,
    exec (.searchClose round) s = .next t ∧ t.hub.enm.addr = 0xFFFE ∧ t.hub.enm.eligible = false ∧ ∀ q ∈ t.hub.ports, q.range = none) ∧
  (round = e.round → e.eligible = false → e.claimed = true → ∃ t, exec (.searchClose round) s = .next t ∧ t.hub.enm = e ∧
    t.hub.ports.map Port.range = s.hub.ports.map Port.range) ∧
  (p = 0 ∨ s.hub.boot.netboot = true ∨ ¬ up0 → exec (.claim p b) s = .next s ∧ exec (.arrive p b) s = .next s ∧
    exec (.depart p b) s = .next s) ∧
  (p ≠ 0 → s.hub.boot.netboot = false → up0 → exec (.arrive p b) s = .next ⟨s.hub.ctl 0 0xB4 b.toNat, s.pending⟩ ∧
    exec (.depart p b) s = .next ⟨s.hub.ctl 0 0xCC b.toNat, s.pending⟩ ∧
    (b.toNat / 2 ^ 52 ≠ 0 ∨ b.toNat / 2 ^ 44 % 256 = e.round → exec (.claim p b) s = .next ⟨s.hub.ctl 0 0xAA b.toNat, s.pending⟩)) ∧
  (b.toNat / 2 ^ 52 = 0 → b.toNat / 2 ^ 44 % 256 ≠ e.round → exec (.claim p b) s = .next s) ∧
  (∀ u, e.arriveAt = some u → e.pending = none → s.hub.addressed = false → up0 → u + 1000000000 ≤ s.hub.clk.elapsed → ∃ t,
    exec .arriveRepeat s = .next t ∧ t.hub.enm.arriveAt = some s.hub.clk.elapsed ∧
    (t.hub.prt 0).link.ctl = (s.hub.prt 0).link.ctl ++ [⟨0xB4, s.hub.nDies * 2 ^ 48 + s.hub.ident.serial.toNat⟩]) ∧
  (e.arriveAt = none ∨ s.hub.addressed = true ∨ e.pending ≠ none ∨ ¬up0 ∨ (∃ u, e.arriveAt = some u ∧ s.hub.clk.elapsed < u + 1000000000) →
    exec .arriveRepeat s = .next s)) ∧
  (∀ (s : State) (p cls left : Nat) (c : CtlBlock) (r : List CtlBlock) (f : Frame) (seq : Option Nat),
  let q := s.hub.prt p
  let lane := q.blk % q.txWidth
  let next := secOf s.hub.tm.now + 1
  let side (b : Nat) (h : Hub) : Hub :=
    if lane + 1 = q.txWidth then h.sideBlock p (fun _ => b) else h
  let sides : Hub := side (0x1E * 2 ^ 56) (s.hub.setPort p fun x => { x with blk := x.blk + 1 })
  let sent (x : Nat) (h : Hub) : Hub := h.setLane p lane fun y => y.put true x
  let inSlot : Prop := Shaped s.hub ∧ p < s.hub.nPorts ∧ (q.st = .up ∨ q.st = .plain) ∧ q.blk / q.txWidth < 1023
  let noCor : Prop := p = 0 ∨ q.st = .plain ∨ q.corSent = next
  let mayRun : Prop := q.st = .plain ∨ s.hub.addressed = true
  let quiet : Prop := q.link.ctl = [] ∧ q.link.again = [] ∧ q.link.queues = [[], [], [], []] ∧ s.hub.readyFlows p = []
  (s.hub.nPorts ≤ p ∨ (q.st ≠ .test ∧ q.prbsPeriod = false ∧ q.sends = false) → exec (.blockBoundary p) s = .next s) ∧
  (p < s.hub.nPorts → q.st = .test → exec (.blockBoundary p) s =
    .next ⟨s.hub.tick.setPort p (Port.patterns fun i => Config.received s.hub.tick.fresh i), s.pending⟩) ∧
  (p < s.hub.nPorts → q.prbsPeriod = true → exec (.blockBoundary p) s = .next ⟨forAll [0, 1, 2] (fun l h =>
    h.setLane p l fun x => if x.retired then x else x.pattern 4 false false) s.hub, s.pending⟩) ∧
  (Shaped s.hub → p < s.hub.nPorts → q.st = .search ∨ q.st = .wiring → q.blk < 1023 →
    let b := 0x66 * 2 ^ 56 + (if q.blk % 2 = 0 then helloBits p q else serialBits s.hub.ident.serial)
    exec (.blockBoundary p) s = .next ⟨((s.hub.setPort p fun x => { x with blk := x.blk + 1 }).setLane p 0 fun y =>
      y.put true b).sideBlock p (fun _ => b), s.pending⟩) ∧
  (Shaped s.hub → p < s.hub.nPorts → q.st ≠ .test → q.prbsPeriod = false → q.sends = true → 1023 ≤ q.blk / q.txWidth →
    ∃ t, exec (.blockBoundary p) s = .next t ∧ (t.hub.prt p).mcount = (if lane = 0 then (q.mcount + 1) % 2 ^ 40 else q.mcount) ∧
      (q.run = none → q.widthRun = none → (t.hub.prt p).blk = (if lane + 1 = q.txWidth then 0 else q.blk + 1) ∧
        (t.hub.prt p).link = q.link)) ∧
  (inSlot → p ≠ 0 → q.st = .up → q.corSent ≠ next → next * fuSec - s.hub.tm.now ≤ fuSec / 10 →
    fuSec / 100 ≤ next * fuSec - s.hub.tm.now → ∃ t, exec (.blockBoundary p) s = .next t ∧ (t.hub.prt p).corSent = next) ∧
  (inSlot → noCor → q.link.ctl = c :: r → c.code ≠ 0x87 → (p ≠ 0 ∨ (c.code ≠ 0xCC ∧ c.code ≠ 0x66)) →
    exec (.blockBoundary p) s = .next ⟨sent (c.code * 2 ^ 56 + c.payload) (sides.setLink p fun k => { k with ctl := r }), s.pending⟩) ∧
  (inSlot → noCor → q.link.ctl = [] → q.st = .up → s.hub.addressed = false →
    exec (.blockBoundary p) s = .next ⟨sent (0x1E * 2 ^ 56) sides, s.pending⟩) ∧
  (inSlot → noCor → quiet → mayRun → 1 ≤ cls → cls ≤ 4 →
    q.link.active = ([none, none, none, none] : List (Option (Frame × Nat × Option Nat))).set (cls - 1) (some (f, left, seq)) →
    (q.link.txClass = cls → 1 < left → exec (.blockBoundary p) s = .next ⟨(sides.setLane p lane fun y =>
      y.put false (f.block (f.blocks - left) (if q.st = .plain then 0 else seq.getD q.link.txSeq))).setLink p fun k => { k with
        active := modAt k.active (cls - 1) fun _ => some (f, left - 1, seq) }, s.pending⟩) ∧
    (q.link.txClass ≠ cls → exec (.blockBoundary p) s = .next ⟨sent (0x1E * 2 ^ 56 + cls * 2 ^ 52) (sides.setLink p fun k => { k with
      txClass := cls }), s.pending⟩)) ∧
  (inSlot → noCor → quiet → mayRun → 1 ≤ cls → cls ≤ 4 → q.link.txClass = cls → left ≤ 1 →
    q.link.active = ([none, none, none, none] : List (Option (Frame × Nat × Option Nat))).set (cls - 1) (some (f, left, seq)) → f.cls = cls →
    ∃ t, exec (.blockBoundary p) s = .next t ∧ (t.hub.prt p).link.active = [none, none, none, none] ∧
      (q.st = .up → seq = none → f.abort = false → (t.hub.prt p).link.txSeq = (q.link.txSeq + 1) % 65536 ∧
        (t.hub.prt p).link.replay = q.link.replay ++ [(q.link.txSeq, f)])) ∧
  (∀ fs, inSlot → noCor → q.link.ctl = [] → q.link.again = [] → q.link.active = [none, none, none, none] → 1 ≤ cls → cls ≤ 3 →
    q.link.queues = ([[], [], [], []] : List (List Frame)).set (cls - 1) (f :: fs) → s.hub.mayStart p f = true → ∃ t,
    exec (.blockBoundary p) s = .next t ∧ (t.hub.prt p).link.txClass = cls ∧
      (t.hub.prt p).link.queues = ([[], [], [], []] : List (List Frame)).set (cls - 1) fs ∧
      (t.hub.prt p).link.active = ([none, none, none, none] : List (Option (Frame × Nat × Option Nat))).set (cls - 1)
        (some (f, if q.link.txClass = cls then f.blocks - 1 else f.blocks, none))) ∧
  (inSlot → noCor → quiet → q.link.active = [none, none, none, none] →
    exec (.blockBoundary p) s = .next ⟨sent (0x1E * 2 ^ 56) sides, s.pending⟩))

/-- CAL_RUN, CAL_CFG_SET, CAL_CFG_GET and CAL_REPORT (R397, R436, R442): octets are queued once, behind those that wait; an octet
that the part lacks, or values out of range, answer BAD_ARG; where a die of what is named cannot serve, CAL_RUN and
CAL_REPORT answer FAULT with the lowest such die; BG_EN newly set counts its interval from the write; a report gives one
record of 40 bytes for each channel, in order, each as Table 16-3 lays it out. No form changes anything else. It says that
these complete: CAL_RUN, CAL_CFG_SET, CAL_CFG_GET, CAL_REPORT. -/
def Obligations.CalibrationCommands : Prop := ∀ (s : State) (octs : List Nat) (w : Word) (first n d : Nat),
  (octs = [] ∨ (∃ o ∈ octs, s.hub.nOcts ≤ o) → exec (.calRun octs) s = .next ⟨s.hub.refuse St.badArg, s.pending⟩) ∧
  (octs ≠ [] → octs.Nodup → (∀ o ∈ octs, o < s.hub.nOcts ∧ s.hub.dieDown (o / 16) = false) →
    exec (.calRun octs) s = .next ⟨({ s.hub with
    cal := { s.hub.cal with requests := s.hub.cal.requests ++ octs.filter fun o => !s.hub.cal.requests.contains o } }).ok [],
    s.pending⟩) ∧
  ((∀ o ∈ octs, o < s.hub.nOcts ∧ (s.hub.dieDown (o / 16) = true → d ≤ o / 16)) → (∃ o ∈ octs, o / 16 = d) → s.hub.dieDown d = true →
    exec (.calRun octs) s = .next ⟨s.hub.refuseDie St.fault d, s.pending⟩) ∧
  (badCalCfg w = true → exec (.calCfgSet w) s = .next ⟨s.hub.refuse St.badArg, s.pending⟩) ∧
  (badCalCfg w = false → exec (.calCfgSet w) s = .next ⟨({ s.hub with
    cal := { s.hub.cal with cfg := w, bgAt := if bitOf w 31 && !bitOf s.hub.cal.cfg 31 then s.hub.clk.elapsed else s.hub.cal.bgAt } }).ok [],
    s.pending⟩) ∧
  (exec .calCfgGet s = .next ⟨s.hub.ok (be 4 s.hub.cal.cfg.toNat), s.pending⟩) ∧
  (102 < n ∨ s.hub.nChans < first + n → exec (.calReport first n) s = .next ⟨s.hub.refuse St.badArg, s.pending⟩) ∧
  (n ≤ 102 → first + n ≤ s.hub.nChans → (∀ i < n, s.hub.dieDown (chDie (first + i)) = true → d ≤ chDie (first + i)) →
    (∃ i < n, chDie (first + i) = d) → s.hub.dieDown d = true →
    exec (.calReport first n) s = .next ⟨s.hub.refuseDie St.fault d, s.pending⟩) ∧
  (n ≤ 102 → first + n ≤ s.hub.nChans → (∀ i < n, s.hub.dieDown (chDie (first + i)) = false) → ∃ b, b.length = 40 * n ∧
    exec (.calReport first n) s = .next ⟨s.hub.ok b, s.pending⟩ ∧
    ∀ i < n, (b.drop (40 * i)).take 40 = (s.hub.ch (first + i)).quality (first + i))

/-- CAL_SLOT (R430, R431, R433, R435, R437 to R441, R443, R444, Table 16-1): a slot takes the octet that is next, with CAL_CFG as
it is then, and its audit converter reads the reference before and after the octet is measured; a reference out of range
suspends calibration, aborts the octet and ends its hold. Channels without a recent reading of their pins are given an urgent
entry before the input states of step 2 skip channels. The octet is held from step 3 (its AD tags stop, R432); the steps keep
their order and their times after t0, and what they measure is kept with the channels: the redundant elements are chosen
worst first and nearest nominal. At the release the results are judged, the correction sets of those that pass or miss a
limit are stored, the writes that waited go on to be applied, and the slot ends; CAL_DONE follows once the ramps are over. A
stage out of order, ahead of its time, or where the die's sequencer does not run has no effect. The audit converter of a die
is calibrated ahead of its first slot of a pass, over 2 ms and 24 entries; a time-interval channel's spare takes a test of 40
ms and 2,000,000 hits once in a pass, and takes over at a recorded edge; a lane's margins are taken once in a pass in port
order and after a rate step. The order of calibration (R370, R435, R436, R438, R439): the start-up pass first, then the octet
that failed, then the requests in their order, then the background octet; a background octet is named once its interval is
over and none waits, the next one that was not calibrated by request lately; a suspended calibration looks at the reference
again every 60 s; an octet with skipped channels is queued once more when its time has come. It says that these complete:
CAL_SLOT, BACKGROUND, REF_RECHECK, REQUEUE. -/
def Obligations.CalibrationSlots : Prop :=
  (∀ (s : State) (d : Nat) (gl : List (Int × Int)) (sl : List SegMeas) (tl : List (List Nat)) (em : ExcMeas) (pl : List Bool),
  let now := s.hub.clk.elapsed
  let runs : Prop := s.hub.calRuns d = true
  let table : List (CalEvent × Nat × Nat) := [(.refCheck, 0, 0), (.preCheck, 1, 0), (.hold, 2, 2), (.zero, 3, 12), (.gain gl, 4, 52),
    (.segment sl, 5, 102), (.tap tl, 6, 122), (.excitation em, 7, 142), (.selfTest pl, 8, 147), (.release, 9, 150)]
  let at' (x : Slot) (n ms : Nat) : Prop := runs ∧ s.hub.slotOf d = some x ∧ x.step = n ∧ x.t0 + ms * 1000000 ≤ now
  let slotTo (f : Slot → Slot) : Cal := { s.hub.cal with slots := s.hub.cal.slots.map fun (x : Slot) => if x.die = d then f x else x }
  let step (n : Nat) : Cal := slotTo fun y => { y with step := n }
  let measured (o : Nat) (f : Nat → Chan → CalMeas → CalMeas) : List Chan := s.hub.chans.mapIdx fun c a =>
    if chOct c = o then { a with meas := a.meas.map (f (c % 8) a) } else a
  let asked (t : State) : Prop := (t.hub.aud d).ref = some ⟨[], [], []⟩ ∧
    ∀ e ∈ refEntries, e ∈ (t.hub.aud d).urgent ++ (t.hub.aud d).overflow
  Shaped s.hub →
  (¬runs → ∀ e, exec (.calSlot d e) s = .next s) ∧
  (s.hub.nextOctet d = none → exec (.calSlot d .refStart) s = .next s) ∧
  (∀ o, runs → s.hub.nextOctet d = some o → ∃ t x, exec (.calSlot d .refStart) s = .next t ∧ t.hub.cal.slots = s.hub.cal.slots ++ [x] ∧
    x.die = d ∧ x.oct = o ∧ x.step = 0 ∧ x.cfg = s.hub.cal.cfg ∧ x.t0 = now ∧ t.hub.cal.requests = s.hub.cal.requests.filter (· != o) ∧
    t.hub.cal.failed ≠ some o ∧ t.hub.cal.bgDue ≠ some o ∧ t.hub.cal.bgAt = (if s.hub.cal.bgDue = some o then now else s.hub.cal.bgAt) ∧
    asked t ∧ t.hub.octs = s.hub.octs ∧ t.hub.chans = s.hub.chans) ∧
  (s.hub.slotOf d = none → ∀ r ∈ table, exec (.calSlot d r.1) s = .next s) ∧
  (∀ x, s.hub.slotOf d = some x → ∀ r ∈ table, x.step ≠ r.2.1 ∨ now < x.t0 + r.2.2 * 1000000 → exec (.calSlot d r.1) s = .next s) ∧
  (s.hub.refDone d = none → exec (.calSlot d .refCheck) s = .next s ∧ exec (.calSlot d .release) s = .next s) ∧
  (∀ x r, at' x 0 0 → s.hub.refDone d = some r → r.fails = none → exec (.calSlot d .refCheck) s = .next ⟨{ s.hub with
    dies := s.hub.dies.modify d fun y => { y with audit := { y.audit with ref := none } }
    cal := step 1 }, s.pending⟩) ∧
  (∀ x r k, at' x 0 0 → s.hub.refDone d = some r → r.fails = some k → ∃ t, exec (.calSlot d .refCheck) s = .next t ∧
    t.hub.cal.suspended = some now ∧ t.hub.cal.passDone = true ∧ (t.hub.cal.failed = some x.oct ∨ t.hub.cal.pass.head? = some x.oct) ∧
    (∀ y ∈ t.hub.cal.slots, y.oct ≠ x.oct) ∧ (∀ (c : Nat) a, chOct c = x.oct → t.hub.chans[c]? = some a → a.qResult = 4) ∧
    t.hub.octs = s.hub.octs) ∧
  (∀ x, at' x 1 0 → s.hub.unread x = [] → exec (.calSlot d .preCheck) s = .next ⟨{ s.hub with
    chans := s.hub.chans.mapIdx fun c a => if chOct c = x.oct then { a with calSkip := a.inputState now } else a,
    cal := step 2 }, s.pending⟩) ∧
  (∀ x, at' x 1 0 → x.oct / 16 = d → s.hub.unread x ≠ [] → ∃ t, exec (.calSlot d .preCheck) s = .next t ∧ t.hub.chans = s.hub.chans ∧
    t.hub.cal = s.hub.cal ∧ ∀ c < s.hub.nChans, chOct c = x.oct → (s.hub.ch c).retired = none →
      within10ms (s.hub.ch c).pinRead now = false → c % 128 ∈ (t.hub.aud d).urgent ++ (t.hub.aud d).overflow) ∧
  (∀ x, at' x 2 2 → exec (.calSlot d .hold) s = .next ⟨{ s.hub with
    chans := s.hub.chans.mapIdx fun c a => if chOct c = x.oct ∧ a.retired = none
      then { a with
        audit := { a.audit with adNow := false, adWas := false }
        auditWait := []
        meas := some CalMeas.start
        calSkip := a.calSkip.or (if a.cm.viol then some 1 else if a.clamped then some 2 else none) }
      else a,
    octs := s.hub.octs.modify x.oct fun o => { o with held := true },
    cal := step 3 }, s.pending⟩) ∧
  (∀ x, at' x 3 12 → exec (.calSlot d .zero) s = .next ⟨{ s.hub with cal := step 4 }, s.pending⟩) ∧
  (∀ x, at' x 4 52 → exec (.calSlot d (.gain gl)) s = .next ⟨{ s.hub with
    chans := measured x.oct (fun i _ m => { m with gainRes := (gl.getD i (0, 0)).1, ofsRes := (gl.getD i (0, 0)).2 }),
    cal := step 5 }, s.pending⟩) ∧
  (∀ x, at' x 5 102 → exec (.calSlot d (.segment sl)) s = .next ⟨{ s.hub with
    chans := measured x.oct (fun i _ m => m.segment (sl.getD i ⟨[], []⟩)), cal := step 6 }, s.pending⟩) ∧
  (∀ x, at' x 6 122 → exec (.calSlot d (.tap tl)) s = .next ⟨{ s.hub with
    chans := measured x.oct (fun i a m => m.taps a.elements.2 (tl.getD i [])), cal := step 7 }, s.pending⟩) ∧
  (∀ x, at' x 7 142 →
    let no := decide (em.excmonUv < 980000 ∨ 1020000 < em.excmonUv)
    exec (.calSlot d (.excitation em)) s = .next ⟨{ s.hub with
      chans := measured x.oct (fun i a m => { m with
        excSkip := if a.desc.drives = false then some 0 else if a.excOl then some 5 else if no then some 4 else none
        ampRes := (em.slices.getD i (0, 0)).1
        phRes := (em.slices.getD i (0, 0)).2 }),
      cal := slotTo fun y => { y with step := 8, exc := if no then none else some (excPlan em (s.hub.oct x.oct).exc now) } },
      s.pending⟩) ∧
  (∀ x, at' x 8 147 → ∃ t, exec (.calSlot d (.selfTest pl)) s = .next t ∧ asked t ∧ t.hub.cal = step 9 ∧
    t.hub.chans = measured x.oct (fun i _ m => { m with selfTest := pl.getD i false })) ∧
  (∀ x r, at' x 9 150 → s.hub.refDone d = some r → x.oct < s.hub.nOcts → r.fails = none → ∃ t o y,
    exec (.calSlot d .release) s = .next t ∧ t.hub.octs[x.oct]? = some o ∧ o.held = false ∧ o.lastCal = some now ∧
    o.byRequest = x.byRequest ∧ t.hub.cal.ramps = s.hub.cal.ramps ++ [y] ∧ y.die = d ∧ y.oct = x.oct ∧ y.step = 11 ∧ y.released = now ∧
    t.hub.cal.slots = s.hub.cal.slots.filter (fun (z : Slot) => z.die != d) ∧
    (∀ (c : Nat) a b, chOct c = x.oct → s.hub.chans[c]? = some a → t.hub.chans[c]? = some b → b.held = none ∧
      b.writes = a.writes ++ a.held.toList ∧ b.calSkip = none ∧ b.meas = none ∧ b.matrix = false ∧
      (∀ k, a.retired = none → a.calSkip = some k → b.qResult = 3 ∧ b.qCause = k ∧ b.corr = a.corr ∧ b.corrNow = a.corrNow) ∧
      (∀ m, a.retired = none → a.calSkip = none → a.meas = some m → b.qResult = m.judge x.cfg ∧ b.qStamp = s.hub.tm.now ∧
        (b.qResult = 2 ∨ m.set = none → b.corr = a.corr ∧ b.corrNow = a.corrNow) ∧
        (∀ v, b.qResult ≠ 2 → m.set = some v → ∃ n, let k := limitCorr ((m.change a.elements n).carry v)
          b.corrNow.toGain = k.1 ∧ b.corrNow.toOfs = k.2 ∧ b.corrNow.left = a.desc.rampLen ∧
          (∀ z, a.corr[a.desc.gain]? = some z → ∃ w, b.corr[a.desc.gain]? = some (some w) ∧ w.dgain = k.1 ∧ w.dofs = k.2 ∧
            w.spares = m.spares ∧ w.tap = m.tap)))) ∧
    (∀ (c : Nat) a b, chOct c ≠ x.oct → s.hub.chans[c]? = some a → t.hub.chans[c]? = some b → b = a)) ∧
  (∀ x r k, at' x 9 150 → s.hub.refDone d = some r → x.oct < s.hub.nOcts → r.fails = some k → ∃ t o,
    exec (.calSlot d .release) s = .next t ∧ t.hub.octs[x.oct]? = some o ∧ o.held = false ∧
    t.hub.cal.suspended = some now ∧ (∀ y ∈ t.hub.cal.slots, y.oct ≠ x.oct) ∧
    (∀ (c : Nat) a b, chOct c = x.oct → s.hub.chans[c]? = some a → t.hub.chans[c]? = some b → b.held = none ∧
      b.writes = a.writes ++ a.held.toList ∧ b.qResult = 4 ∧ b.calSkip = none ∧ b.meas = none ∧ b.corr = a.corr ∧ b.corrNow = a.corrNow) ∧
    (∀ (c : Nat) a b, chOct c ≠ x.oct → s.hub.chans[c]? = some a → t.hub.chans[c]? = some b → b = a)) ∧
  (runs → s.hub.cal.ramps.find? (fun (y : Slot) => y.die == d && s.hub.rampOver y) = none → exec (.calSlot d .rampDone) s = .next s) ∧
  (∀ x, runs → s.hub.cal.ramps.find? (fun (y : Slot) => y.die == d && s.hub.rampOver y) = some x → ∃ t,
    exec (.calSlot d .rampDone) s = .next t ∧ t.hub.cal = { s.hub.cal with ramps := s.hub.cal.ramps.erase x } ∧
    t.hub.chans = s.hub.chans ∧ t.hub.octs = s.hub.octs ∧ (s.hub.hk.dropped = 0 → t.hub.hk.rseq = s.hub.hk.rseq + 1))) ∧
  (∀ (uv : Int) (noisy : Bool), (refFails uv noisy = none ↔ 4075520 ≤ uv ∧ uv ≤ 4116480 ∧ noisy = false) ∧
    (refFails uv noisy = some 0 ↔ uv < 410000) ∧ (refFails uv noisy = some 2 ↔ 4075520 ≤ uv ∧ uv ≤ 4116480 ∧ noisy = true)) ∧
  (∀ (m : CalMeas) (cfg : Word) (e : SegMeas) (gains : List Nat),
    (m.judge cfg = 0 ↔ m.selfTest = true ∧ m.segFail ≤ 4 ∧ m.gainRes.natAbs ≤ fld cfg 23 16 * 100 ∧ m.ofsRes.natAbs ≤ fld cfg 7 0 * 100 ∧
      (m.excSkip = none → m.ampRes.natAbs ≤ 1000 ∧ m.phRes.natAbs ≤ 50)) ∧
    (m.judge cfg = 2 ↔ m.selfTest = false ∨ 4 < m.segFail) ∧
    (m.segment e).segFail = (e.segs.filter fun v => decide (250 < v.natAbs)).length ∧
    (m.segment e).spares.length = min (m.segment e).segFail (min 4 e.spares.length) ∧
    (∀ p ∈ (m.segment e).spares, ∃ v, e.segs[p.1]? = some v ∧ 250 < v.natAbs ∧ p.2 < min 4 e.spares.length) ∧
    (∀ (i g : Nat), i < 8 → gains[i]? = some g → ∃ v, gains[nearestTap gains]? = some v ∧
      ((v : Int) - 1073741824).natAbs ≤ ((g : Int) - 1073741824).natAbs)) ∧
  (∀ (s : State) (d n p l inl : Nat) (hits : List Nat) (points : List EyePoint) (x : Die),
  let now := s.hub.clk.elapsed
  let aud (f : Audit → Audit) : Hub := { s.hub with dies := s.hub.dies.modify d fun y => { y with audit := f y.audit } }
  let tiu (f : TiuChan → TiuChan) : Hub := { s.hub with dies := s.hub.dies.modify d fun y => { y with tiu := y.tiu.modify n f } }
  let due : Prop := (s.hub.lane p l).eyeDue = true ∨ s.hub.cal.margins.find? s.hub.hasEye = some (p, l)
  Shaped s.hub → s.hub.calRuns d = true → s.hub.dies[d]? = some x →
  (s.hub.turnOf d = none ∨ x.audit.calPass = some s.hub.cal.passNo ∨ x.audit.paused = true → exec (.calSlot d .auditBegin) s = .next s) ∧
  (s.hub.turnOf d ≠ none → x.audit.calPass ≠ some s.hub.cal.passNo → x.audit.paused = false → exec (.calSlot d .auditBegin) s =
    .next ⟨aud fun a => { a with paused := true, cal := some (now, []) }, s.pending⟩) ∧
  (x.audit.cal = none → exec (.calSlot d .audit) s = .next s) ∧
  (∀ t0 r, x.audit.cal = some (t0, r) → now < t0 + 2000000 ∨ r.length < 24 → exec (.calSlot d .audit) s = .next s) ∧
  (∀ t0 r, x.audit.cal = some (t0, r) → t0 + 2000000 ≤ now → 24 ≤ r.length → exec (.calSlot d .audit) s = .next ⟨aud fun a => { a with
    consts := (List.range 8).map fun g => Config.auditConst g (r.getD (3 * g) 0) (r.getD (3 * g + 1) 0) (r.getD (3 * g + 2) 0)
    calPass := some s.hub.cal.passNo
    paused := false
    cal := none }, s.pending⟩) ∧
  (12 ≤ n → exec (.calSlot d (.tiuStart n)) s = .next s ∧ exec (.calSlot d (.tiu n hits inl)) s = .next s) ∧
  (∀ u, n < 12 → x.tiu[n]? = some u →
    (u.pass = some s.hub.cal.passNo ∨ u.testAt ≠ none → exec (.calSlot d (.tiuStart n)) s = .next s) ∧
    (u.pass ≠ some s.hub.cal.passNo → u.testAt = none → exec (.calSlot d (.tiuStart n)) s =
      .next ⟨tiu fun y => { y with testAt := some now }, s.pending⟩) ∧
    (u.testAt = none ∨ (∃ t0, u.testAt = some t0 ∧ now < t0 + 40000000) ∨ hits.length ≠ 32 ∨ hits.sum ≠ 2000000 →
      exec (.calSlot d (.tiu n hits inl)) s = .next s) ∧
    (∀ t0, u.testAt = some t0 → t0 + 40000000 ≤ now → hits.length = 32 → hits.sum = 2000000 → ∃ t y v,
      exec (.calSlot d (.tiu n hits inl)) s = .next t ∧ t.hub.dies[d]? = some y ∧ y.tiu[n]? = some v ∧ v.next = some hits ∧
      v.testAt = none ∧ v.inl = inl ∧ v.pass = some s.hub.cal.passNo ∧ (v.inlOver = true ↔ 250 < inl) ∧ v.bins = u.bins ∧
      v.second = u.second ∧ t.hub.chans = s.hub.chans ∧ (s.hub.hk.dropped = 0 → t.hub.hk.rseq = s.hub.hk.rseq + 1)) ∧
    (∀ b, u.next = some b → s.hub.tiuEdge d n = tiu fun y => { y with second := !y.second, bins := b, next := none }) ∧
    (u.next = none → s.hub.tiuEdge d n = s.hub)) ∧
  (p / 4 ≠ d ∨ s.hub.hasEye (p, l) = false ∨ ¬due → exec (.calSlot d (.margin p l points)) s = .next s) ∧
  (p / 4 = d → s.hub.hasEye (p, l) = true → due → ∃ t, exec (.calSlot d (.margin p l points)) s = .next t ∧
    t.hub.ports = s.hub.ports.modify p (fun q => { q with lanes := q.lanes.modify l fun y => { y with
      eyeW := sat 16 (eyeOf points).1, eyeH := sat 16 (eyeOf points).2, eyeDue := false } }) ∧
    t.hub.cal.margins = (if s.hub.cal.margins.find? s.hub.hasEye = some (p, l)
      then (s.hub.cal.margins.dropWhile (· != (p, l))).drop 1 else s.hub.cal.margins) ∧
    (250 ≤ (eyeOf points).1 → 30 ≤ (eyeOf points).2 → t.hub.hk = s.hub.hk) ∧
    ((eyeOf points).1 < 250 ∨ (eyeOf points).2 < 30 → s.hub.hk.dropped = 0 → t.hub.hk.rseq = s.hub.hk.rseq + 1))) ∧
  (∀ (s : State) (o d : Nat) (done : Bool),
  let now := s.hub.clk.elapsed
  let hour := 3600000000000
  let k := s.hub.cal
  let recent (a : Nat) : Prop := (s.hub.oct a).byRequest = true ∧ ∃ u, (s.hub.oct a).lastCal = some u ∧ now < u + fld k.cfg 15 8 * hour / 2
  let free : Prop := k.slots = [] ∧ k.suspended = none ∧ k.pass.filter s.hub.calOk = [] ∧ s.hub.calReady d = true
  let due : Prop := bitOf k.cfg 31 = true ∧ k.passDone = true ∧ k.pass = [] ∧ s.hub.pwr.st ≠ .doze ∧ (∀ a, k.bgDue = some a → s.hub.calOk a = false) ∧
    s.hub.eligible ≠ [] ∧ k.bgAt + fld k.cfg 15 8 * hour / s.hub.eligible.length ≤ now
  let can : Prop := d < s.hub.nDies ∧ s.hub.boot.running = true ∧ s.hub.dieDown d = false ∧ (s.hub.aud d).retired = false ∧
    ∀ x ∈ k.slots, x.die ≠ d
  (k.suspended ≠ none ∨ s.hub.calReady d = false ∨ (∃ x ∈ k.slots, x.die = d) → s.hub.nextOctet d = none) ∧
  (k.suspended = none → s.hub.calReady d = true → (∀ x ∈ k.slots, x.die ≠ d) → ∀ a,
    (k.pass.filter s.hub.calOk).find? (fun x => x / 16 == d) = some a → s.hub.nextOctet d = some a) ∧
  (free → ∀ a, (k.failed.toList ++ k.requests).find? s.hub.calOk = some a → a / 16 = d → s.hub.nextOctet d = some a) ∧
  (free → (∀ a ∈ k.failed.toList ++ k.requests, s.hub.calOk a = false) → ∀ a, k.bgDue = some a → s.hub.calOk a = true →
    s.hub.pwr.st ≠ .doze → (s.hub.sheds3 = false ∨ k.bgDueAt + hour ≤ now) → a / 16 = d → s.hub.nextOctet d = some a) ∧
  (¬due → exec .background s = .next s) ∧
  (due → (∃ a ∈ s.hub.eligible, ¬recent a) → ∃ b, b ∈ s.hub.eligible ∧ ¬recent b ∧
    (let g := if k.bgNext = 0 ∨ b < k.bgNext then s.hub.newPass else s.hub
     exec .background s = .next ⟨{ g with cal := { g.cal with bgDue := some b, bgDueAt := now, bgNext := b + 1 } }, s.pending⟩) ∧
    (∀ a ∈ s.hub.eligible, ¬recent a → k.bgNext ≤ a → k.bgNext ≤ b ∧ b ≤ a)) ∧
  (due → (∀ a ∈ s.hub.eligible, recent a) →
    exec .background s = .next ⟨{ s.hub with cal := { k with bgAt := now } }, s.pending⟩) ∧
  (k.suspended = none ∨ ¬can → exec (.refRecheck d done) s = .next s) ∧
  (∀ u, k.suspended = some u → now < u + 60000000000 → exec (.refRecheck d done) s = .next s) ∧
  (∀ u, Shaped s.hub → k.suspended = some u → u + 60000000000 ≤ now → can →
    ((s.hub.aud d).ref ≠ none → exec (.refRecheck d false) s = .next s) ∧
    ((s.hub.aud d).ref = none → ∃ t, exec (.refRecheck d false) s = .next t ∧ t.hub.cal = k ∧ t.hub.chans = s.hub.chans ∧
      (t.hub.aud d).ref = some ⟨[], [], []⟩ ∧ ∀ e ∈ refEntries, e ∈ (t.hub.aud d).urgent ++ (t.hub.aud d).overflow) ∧
    (s.hub.refDone d = none → exec (.refRecheck d true) s = .next s) ∧
    (∀ r, s.hub.refDone d = some r → exec (.refRecheck d true) s = .next ⟨{ s.hub with
      dies := s.hub.dies.modify d fun y => { y with audit := { y.audit with ref := none } }
      cal := { k with suspended := if r.fails = none then none else some now } }, s.pending⟩)) ∧
  ((s.hub.oct o).requeueAt = none ∨ s.hub.nOcts ≤ o → exec (.requeue o) s = .next s) ∧
  (∀ u, (s.hub.oct o).requeueAt = some u → now < u → exec (.requeue o) s = .next s) ∧
  (∀ u, Shaped s.hub → o < s.hub.nOcts → (s.hub.oct o).requeueAt = some u → u ≤ now → exec (.requeue o) s = .next ⟨{ s.hub with
    octs := s.hub.octs.modify o fun x => { x with requeueAt := none, requeued := true },
    cal := { k with requests := if k.requests.contains o then k.requests else k.requests ++ [o] } }, s.pending⟩))

/-- Power states (R398, R450 to R453): PWR_STATE_SET stores Run, Doze or Keep and answers BAD_ARG otherwise; Keep is entered 10
ms later, with the coupler closed, the rails off and the seal, the flash and the logbook kept; in Keep no PWR_STATE_SET acts.
PWR_GATE leaves on what is named and answers BAD_ARG where a quadrant in use would go off or the part lacks one, and FAULT
with the lowest die that cannot serve of those whose quadrants change; the reads give the state. The excitation supply
(R449): below 10.5 V every drive ramps to zero and a record is written, once; from 10.8 V the condition ends, and every drive
ramps back but for those that EXC_OL ramped off; between the two thresholds, and while the hub is in reset, nothing changes.
Telemetry, shedding and shutdown (R370, R448, R449, R455, R458, R460): a refresh takes the readings and the time; TELEM and
MGT_LOAD write one record each; none of them acts while no management runs, and a refresh may wait while class 3 sheds; from
115.0 °C shedding goes up by one a second, at or below 110.0 °C down by one each 10 s, and at 130.0 °C an orderly shutdown
begins; at level 5 skim stops; VMAIN falling begins a shutdown, or ends Keep; 200 µs after its start the rails are off, and
the hub stays off after a shutdown at 130.0 °C. It says that these complete: PWR_STATE_SET, KEEP_ENTRY, PWR_GATE, PWR_GET,
PWR_TELEM, MGT_LOAD, TELEM, TELEMETRY_REFRESH, SHED_EVALUATION, HOLD_UP_END, VMAIN_FALL, VEXC_LOW, VEXC_RESTORE. -/
def Obligations.PowerAndShedding : Prop :=
  (∀ (s : State) (n d : Nat) (quads : List Nat),
  let now := s.hub.clk.elapsed
  let lacks : Prop := ∃ q ∈ quads, 4 * s.hub.nDies ≤ q
  let inUse : Prop := ∃ q < 4 * s.hub.nDies, s.hub.powered q = true ∧ q ∉ quads ∧ s.hub.needed q = true
  let changes (q : Nat) : Prop := q < 4 * s.hub.nDies ∧ ¬(s.hub.powered q = true ↔ q ∈ quads)
  (s.hub.inKeep = true → exec (.pwrStateSet n) s = .next s) ∧
  (s.hub.inKeep = false →
    (n = 1 ∨ 3 < n → exec (.pwrStateSet n) s = .next ⟨s.hub.refuse St.badArg, s.pending⟩) ∧
    (exec (.pwrStateSet 0) s = .next ⟨({ s.hub with pwr := { s.hub.pwr with st := .run, keepAt := none } }).ok [], s.pending⟩) ∧
    (exec (.pwrStateSet 2) s = .next ⟨({ s.hub with pwr := { s.hub.pwr with st := .doze, keepAt := none } }).ok [], s.pending⟩) ∧
    (exec (.pwrStateSet 3) s = .next ⟨({ s.hub with pwr := { s.hub.pwr with st := .keep, keepAt := some now } }).ok [], s.pending⟩)) ∧
  (s.hub.pwr.keepAt = none → exec .keepEntry s = .next s) ∧
  (∀ u, s.hub.pwr.keepAt = some u → (now < u + 10000000 ∨ s.hub.mgmt.owes [0x0C01] = true) → exec .keepEntry s = .next s) ∧
  (∀ u, s.hub.pwr.keepAt = some u → u + 10000000 ≤ now → s.hub.mgmt.owes [0x0C01] = false → ∃ t, exec .keepEntry s = .next t ∧ t.hub.inKeep = true ∧
    t.hub.flt.closed = true ∧ t.hub.boot.bays = [] ∧ t.hub.boot.level = .off ∧ (∀ x ∈ t.hub.dies, x.rails = false) ∧
    t.hub.fseal.st = s.hub.fseal.st ∧ t.hub.fseal.key = s.hub.fseal.key ∧ t.hub.tag.mem = s.hub.tag.mem ∧
    t.hub.flash = { s.hub.flash with staged := none } ∧ t.hub.clk.elapsed = now ∧ t.hub.ident = s.hub.ident) ∧
  (lacks ∨ inUse → exec (.pwrGate quads) s = .next ⟨s.hub.refuse St.badArg, s.pending⟩) ∧
  (¬lacks → ¬inUse → (∀ q, changes q → s.hub.dieDown (q / 4) = true → d ≤ q / 4) → (∃ q, changes q ∧ q / 4 = d) → s.hub.dieDown d = true →
    exec (.pwrGate quads) s = .next ⟨s.hub.refuseDie St.fault d, s.pending⟩) ∧
  (Shaped s.hub → ¬lacks → ¬inUse → (∀ q, changes q → s.hub.dieDown (q / 4) = false) →
    ∃ t, exec (.pwrGate quads) s = .next t ∧ t.hub.mgmt.reply = ⟨St.ok, 0, 255, []⟩ ∧
      ∀ q < 4 * s.hub.nDies, q % 4 < (s.hub.die (q / 4)).quads.length → (t.hub.powered q = true ↔ q ∈ quads)) ∧
  (exec .pwrGet s = .next ⟨s.hub.ok (be 1 s.hub.pwrCode ++ be 1 s.hub.pwr.shed ++ pad 2 ++ be 4 s.hub.qmap), s.pending⟩) ∧
  (∃ b, exec .pwrTelem s = .next ⟨s.hub.ok b, s.pending⟩ ∧ b.length = 8 + 24 * s.hub.nDies ∧
    b.take 5 = be 2 s.hub.pwr.vkeepMv ++ beInt 2 s.hub.pwr.tjMax ++ be 1 s.hub.pwr.shed ∧
    ∀ i < s.hub.nDies, (b.drop (8 + 24 * i)).take 1 = be 1 i ∧
      (b.drop (12 + 24 * i)).take 2 = be 2 (s.hub.die i).reading.vmainMv)) ∧
  (∀ (s : State) (mv : Nat),
  (10500 ≤ mv ∨ s.hub.pwr.vexcLow = true ∨ s.hub.boot.tr = none → exec (.vexcLow mv) s = .next s) ∧
  (mv < 10800 ∨ s.hub.pwr.vexcLow = false → exec (.vexcRestore mv) s = .next s) ∧
  (mv < 10500 → s.hub.pwr.vexcLow = false → s.hub.boot.tr.isSome = true → ∃ t, exec (.vexcLow mv) s = .next t ∧
    t.hub.pwr = { s.hub.pwr with vexcLow := true } ∧ t.hub.chans.length = s.hub.chans.length ∧
    (∀ x ∈ t.hub.chans, x.driveOff = true ∧ x.rampTo = 0 ∧ x.rampAt = s.hub.clk.cycles) ∧
    (s.hub.hk.dropped = 0 → t.hub.hk.rseq = s.hub.hk.rseq + 1)) ∧
  (10800 ≤ mv → s.hub.pwr.vexcLow = true → ∃ t, exec (.vexcRestore mv) s = .next t ∧ t.hub.pwr = { s.hub.pwr with vexcLow := false } ∧
    (s.hub.hk.dropped = 0 → t.hub.hk.rseq = s.hub.hk.rseq + 1) ∧
    ∀ (c : Nat) x y, s.hub.chans[c]? = some x → t.hub.chans[c]? = some y → y.writes = x.writes ∧ y.held = x.held ∧
      (x.retired ≠ some 0x0103 → y.driveOff = false ∧ y.rampTo = (if x.desc.drives then 8000 * x.desc.amp else 0)) ∧
      (x.retired = some 0x0103 → y.driveOff = x.driveOff ∧ y.rampTo = x.rampTo))) ∧
  (∀ (s : State) (mv : Nat) (rs : List DieReading) (loads : List Nat),
  let p := s.hub.pwr
  let now := s.hub.clk.elapsed
  let falls : Hub := { s.hub with pwr := { p with stays := false } }
  let on : Prop := s.hub.boot.tr.isSome = true ∨ s.hub.boot.bays ≠ []
  (s.hub.manages = false → exec .telem s = .next s ∧ exec (.mgtLoad loads) s = .next s ∧ exec (.telemetryRefresh mv rs) s = .next s) ∧
  (s.hub.manages = true →
    (∀ i ∈ [Instr.telem, .mgtLoad loads], ∃ t, exec i s = .next t ∧ t.hub.tm = s.hub.tm ∧ t.hub.pwr = s.hub.pwr ∧
      (s.hub.hk.dropped = 0 → t.hub.hk.rseq = s.hub.hk.rseq + 1)) ∧
    (s.hub.telemWaits = true → exec (.telemetryRefresh mv rs) s = .next s) ∧
    (s.hub.telemWaits = false → ∃ t,
      exec (.telemetryRefresh mv rs) s = .next t ∧ t.hub.pwr.vkeepMv = mv ∧ t.hub.pwr.refreshed = some now ∧ t.hub.tm = s.hub.tm ∧
      (∀ (d : Nat) x r, s.hub.dies[d]? = some x → rs[d]? = some r → ∃ y, t.hub.dies[d]? = some y ∧ (∀ q ∈ y.audit.points, q = (0, 0)) ∧
        y.reading = x.audit.telemetry x.reading r ∧ (x.audit.visits = false ∨ x.audit.retired = true → y.reading = r)) ∧
      (∀ (d : Nat) x, s.hub.dies[d]? = some x → rs[d]? = none → ∃ y, t.hub.dies[d]? = some y ∧ y.reading = x.reading))) ∧
  (s.hub.boot.running = false → exec .shedEvaluation s = .next s) ∧
  (s.hub.boot.running = true →
    (1300 ≤ p.tjMax → ∃ t, exec .shedEvaluation s = .next t ∧
      t.hub.pwr = { p with thermalOff := some (p.thermalOff.getD p.tjMax), stays := true,
                           holdUp := if p.holdUp = none ∧ on then some now else p.holdUp }) ∧
    (1150 ≤ p.tjMax → p.tjMax < 1300 → p.shed < 5 → p.shedAt + 1000000000 ≤ now → ∃ t,
      exec .shedEvaluation s = .next t ∧ t.hub.pwr = { p with shed := p.shed + 1, shedAt := now, shed4At := if p.shed < 4 then now else p.shed4At } ∧
      t.hub.tm = s.hub.tm ∧
      (p.shed = 4 → ∀ x ∈ t.hub.chans, (x.skimBuilt = true → x.skimStop = some 3) ∧ x.skimStart = none)) ∧
    (1150 ≤ p.tjMax → p.tjMax < 1300 → (5 ≤ p.shed ∨ now < p.shedAt + 1000000000) → exec .shedEvaluation s = .next s) ∧
    (p.tjMax ≤ 1100 → 0 < p.shed → p.shedAt + 10000000000 ≤ now → ∃ t,
      exec .shedEvaluation s = .next t ∧ t.hub.pwr = { p with shed := p.shed - 1, shedAt := now, shed4At := if p.shed < 4 then now else p.shed4At } ∧
      t.hub.tm = s.hub.tm) ∧
    (p.tjMax ≤ 1100 → (p.shed = 0 ∨ now < p.shedAt + 10000000000) → exec .shedEvaluation s = .next s) ∧
    (1100 < p.tjMax → p.tjMax < 1150 → exec .shedEvaluation s = .next s)) ∧
  (s.hub.inKeep = true → exec .vmainFall s = .next ⟨{ falls with pwr := { falls.pwr with st := .off } }, s.pending⟩) ∧
  (s.hub.inKeep = false → p.holdUp.isSome = true ∨ ¬on → exec .vmainFall s = .next ⟨falls, s.pending⟩) ∧
  (s.hub.inKeep = false → p.holdUp = none → on → (s.hub.prt 0).st ≠ .up → exec .vmainFall s = .next ⟨{ falls with
    pwr := { falls.pwr with holdUp := some now } }, s.pending⟩) ∧
  (s.hub.inKeep = false → p.holdUp = none → on → (s.hub.prt 0).st = .up → ∃ t, exec .vmainFall s = .next t ∧
    t.hub.pwr = { falls.pwr with holdUp := some now } ∧ (t.hub.prt 0).link.ctl = ⟨0xCC, s.hub.departBits 0⟩ :: (s.hub.prt 0).link.ctl) ∧
  (p.holdUp = none → exec .holdUpEnd s = .next s) ∧
  (∀ u, p.holdUp = some u → now < u + 200000 → exec .holdUpEnd s = .next s) ∧
  (∀ u, p.holdUp = some u → u + 200000 ≤ now → ∃ t, exec .holdUpEnd s = .next t ∧ t.hub.boot.bays = [] ∧ t.hub.boot.level = .off ∧
    t.hub.flt.closed = true ∧ (∀ x ∈ t.hub.dies, x.rails = false) ∧ t.hub.pwr.thermalOff = p.thermalOff ∧ t.hub.pwr.holdUp = none ∧
    t.hub.pwr.stays = p.stays ∧ t.hub.tag.mem = s.hub.tag.mem))

/-- PMBus (R456, R457, R523): PAGE takes 0xFF or a die that is present, and otherwise sets CML; a bad PEC changes nothing but
CML; CLEAR_FAULTS clears what is latched; each read gives its value of Table 17-6 and changes nothing else; a code that is
not there sets CML; a bus timeout changes nothing. The bits of STATUS_WORD are those of Table 17-7. It says that these
complete: PAGE, CLEAR_FAULTS, CAPABILITY, STATUS_WORD, READ_VIN, READ_IOUT, READ_TEMPERATURE_1, PMBUS_REVISION,
MFR_READ_VEXC, MFR_READ_IEXC, MFR_READ_VKEEP, MFR_READ_POWER, MFR_SHED, PMBUS_UNSUPPORTED, BUS_TIMEOUT. -/
def Obligations.Pmbus : Prop := ∀ (s : State) (b : Byte) (pec : Pec) (code : Nat),
  let m := s.hub.pmbus
  let pkg := m.page = 255
  let r := (s.hub.die m.page).reading
  let all (f : DieReading → Nat) : Nat := ((List.range s.hub.nDies).map fun d => f (s.hub.die d).reading).sum
  let gives (c : Instr) (v : Nat) : Prop := exec c s = .next ⟨{ s.hub with pmbus := { m with readout := v } }, s.pending⟩
  let cml : Hub := { s.hub with pmbus := { m with cml := true } }
  (gives (.page none pec) m.page) ∧
  (pec ≠ .bad → (b = 0xFF ∨ b.toNat < s.hub.nDies) → exec (.page (some b) pec) s = .next ⟨{ s.hub with
    pmbus := { m with page := b.toNat } }, s.pending⟩) ∧
  (pec = .bad ∨ (b ≠ 0xFF ∧ s.hub.nDies ≤ b.toNat) → exec (.page (some b) pec) s = .next ⟨cml, s.pending⟩) ∧
  (exec (.clearFaults .bad) s = .next ⟨cml, s.pending⟩) ∧
  (pec ≠ .bad → exec (.clearFaults pec) s = .next ⟨{ s.hub with
    pmbus := { m with iout := false, vin := [], temp := [], cml := false } }, s.pending⟩) ∧
  gives .capability 0xA0 ∧ gives .pmbusRevision 0x33 ∧ gives .mfrShed s.hub.pwr.shed ∧ gives .statusWord s.hub.statusWord ∧
  (pkg → gives .readVin (linear11 (s.hub.bayMv s.hub.lowBay)) ∧
    gives .readIout (linear11 (all DieReading.imainMa)) ∧
    gives .readTemperature1 (linear11 (s.hub.pwr.tjMax * 100)) ∧
    gives .mfrReadVexc (linear11 (s.hub.die 0).reading.vexcMv) ∧
    gives .mfrReadIexc (linear11 (all DieReading.iexcMa)) ∧
    gives .mfrReadVkeep (linear11 s.hub.pwr.vkeepMv) ∧
    gives .mfrReadPower (linear11 (all DieReading.pdieMw))) ∧
  (¬ pkg → gives .readVin (linear11 (s.hub.die (2 * (m.page / 2))).reading.vmainMv) ∧
    gives .readIout (linear11 r.imainMa) ∧
    gives .readTemperature1 (linear11 (DieReading.tj r * 100)) ∧
    gives .mfrReadVexc (linear11 r.vexcMv) ∧ gives .mfrReadIexc (linear11 r.iexcMa) ∧
    gives .mfrReadPower (linear11 r.pdieMw) ∧ exec .mfrReadVkeep s = .next ⟨cml, s.pending⟩) ∧
  (exec (.pmbusUnsupported code) s = .next ⟨cml, s.pending⟩) ∧ exec .busTimeout s = .next s ∧
  (let b := s.hub.statusWord.testBit
   b 14 = m.iout ∧ b 4 = m.iout ∧ b 13 = m.vin.contains m.page ∧ b 3 = m.vin.contains m.page ∧
   (b 12 = true ↔ s.hub.pwr.gradient = true ∨ s.hub.pwr.vexcLow = true) ∧
   (pkg → (b 11 = true ↔ ∃ x ∈ s.hub.dies, x.rails = false)) ∧ (¬ pkg → b 11 = !(s.hub.die m.page).rails) ∧
   (b 8 = true ↔ ∀ u, s.hub.pwr.refreshed = some u → u + 20000000 < s.hub.clk.elapsed) ∧ b 6 = s.hub.inKeep ∧
   b 2 = m.temp.contains m.page ∧ b 1 = m.cml ∧
   ∀ i, i ∉ [14, 13, 12, 11, 8, 6, 4, 3, 2, 1] → b i = false)

/-- FLT_READ, FLT_CFG_SET, FLT_CFG_GET, FLT_RETIRE and FLT_RESTORE (R399, R406, R407, R413): records are read whole, from FROM on
and at most as many as asked; values out of Table 15-2 and units that cannot be named (a die's number, D0, the last lane of
P00) answer BAD_ARG; a channel, lane, engine or die that is retired reads so, and what is retired already stays as it is; a
unit of a die that cannot serve answers FAULT; a unit that is not retired cannot be restored; one restored is in service
again, a channel is calibrated ahead of the background order, and one whose self-test fails stays retired and answers FAULT.
Windows, tests and restoring (R191, R404, R405, R408, R413): a window that is not there or not due does not close; at its
close a condition that has lasted all of it retires its channel, lane or audit converter, one that is there but has not
lasted opens a fresh window, and else the fault was transient; an engine that fails its test, or whose memory fails, is out
of use at once, and is retired where its repeated test fails; an uncorrectable error, or as many correctable ones as N_CE,
retires its page; a channel restores itself only where that is enabled, once. It says that these complete: FLT_READ,
FLT_CFG_SET, FLT_CFG_GET, FLT_RETIRE, FLT_RESTORE, WINDOW_CLOSE, SIGNATURE_TEST, ECC_ERROR, AUTO_RESTORE,
LOCAL_MEMORY_ECC_ERROR. -/
def Obligations.FaultsAndTests : Prop :=
  (∀ (s : State) (ch lane eng mem first u : Word) (n c : Nat),
  let pass := Config.selfTestPass (s.hub.fresh + 1) (unitChan c)
  (exec (.fltRead first n) s = .next ⟨s.hub.ok (((s.hub.hk.faults.filter fun (r : EventRec) =>
    r.rseq == first || serialAfter 32 r.rseq.toNat first.toNat).reverse.take (min n 127)).flatMap fun (r : EventRec) =>
      be 2 1 ++ be 2 16 ++ be 4 r.rseq.toNat ++ stampB r.stamp ++ eventB r.unit r.code r.cls r.count r.arg0 r.arg1), s.pending⟩) ∧
  (badFlt ch lane eng mem = true → exec (.fltCfgSet ch lane eng mem) s = .next ⟨s.hub.refuse St.badArg, s.pending⟩) ∧
  (badFlt ch lane eng mem = false → exec (.fltCfgSet ch lane eng mem) s = .next ⟨({ s.hub with
    flt := { s.hub.flt with ch := ch, lane := lane, eng := eng, mem := mem } }).ok [], s.pending⟩) ∧
  (exec .fltCfgGet s = .next ⟨s.hub.ok (be 4 s.hub.flt.ch.toNat ++ be 4 s.hub.flt.lane.toNat ++ be 4 s.hub.flt.eng.toNat ++
    be 4 s.hub.flt.mem.toNat), s.pending⟩) ∧
  (3 < unitType u → ∀ i ∈ [Instr.fltRetire u, .fltRestore u], exec i s = .next ⟨s.hub.refuse St.badArg, s.pending⟩) ∧
  (unitType u = 0 → s.hub.nChans ≤ unitId u →
    ∀ i ∈ [Instr.fltRetire u, .fltRestore u], exec i s = .next ⟨s.hub.refuse St.badArg, s.pending⟩) ∧
  (c < s.hub.nChans → s.hub.dieDown (chDie c) = true → ∀ i ∈ [Instr.fltRetire (unitChan c), .fltRestore (unitChan c)],
    exec i s = .next ⟨s.hub.refuseDie St.fault (chDie c), s.pending⟩) ∧
  (Shaped s.hub → c < s.hub.nChans → s.hub.dieDown (chDie c) = false → (s.hub.ch c).retired = none →
    ∃ t x, exec (.fltRetire (unitChan c)) s = .next t ∧ t.hub.mgmt.reply = ⟨St.ok, 0, 255, []⟩ ∧ t.hub.chans[c]? = some x ∧
      x.retired = some 0x0F0F ∧ x.win = none ∧ (∀ i, i ≠ c → (t.hub.chans[i]?).map Chan.retired = (s.hub.chans[i]?).map Chan.retired) ∧
      t.hub.hk.faults.length = min 1024 (s.hub.hk.faults.length + 1)) ∧
  (c < s.hub.nChans → s.hub.dieDown (chDie c) = false → (s.hub.ch c).retired.isSome = true →
    exec (.fltRetire (unitChan c)) s = .next ⟨s.hub.ok [], s.pending⟩) ∧
  (c < s.hub.nChans → s.hub.dieDown (chDie c) = false → (s.hub.ch c).retired = none →
    exec (.fltRestore (unitChan c)) s = .next ⟨s.hub.refuse St.badArg, s.pending⟩) ∧
  (Shaped s.hub → c < s.hub.nChans → s.hub.dieDown (chDie c) = false → (s.hub.ch c).retired.isSome = true →
    (s.hub.freeEngine c).isSome = true → ∃ t x, exec (.fltRestore (unitChan c)) s = .next t ∧ t.hub.chans[c]? = some x ∧
      t.hub.mgmt.reply.status = (if pass then St.ok else St.fault) ∧ x.retired = (if pass then none else (s.hub.ch c).retired) ∧
      (pass = true → x.audit.suspect = false ∧ chOct c ∈ t.hub.cal.requests)) ∧
  (Shaped s.hub → c < s.hub.nChans → s.hub.dieDown (chDie c) = false → (s.hub.ch c).retired.isSome = true →
    s.hub.freeEngine c = none → ∃ t x, exec (.fltRestore (unitChan c)) s = .next t ∧ t.hub.chans[c]? = some x ∧
      t.hub.mgmt.reply = ⟨St.fault, 0, 255, []⟩ ∧ x.retired = (s.hub.ch c).retired)) ∧
  (∀ (s : State) (u : Word) (p l d e : Nat),
  let pass (u : Word) : Prop := Config.selfTestPass (s.hub.fresh + 1) u = true
  let retired (u : Word) : Prop := u ∈ s.hub.flt.retired
  (unitType u = 1 → s.hub.nPorts ≤ unitId u / 4 →
    ∀ i ∈ [Instr.fltRetire u, .fltRestore u], exec i s = .next ⟨s.hub.refuse St.badArg, s.pending⟩) ∧
  (p < s.hub.nPorts → l < 4 → s.hub.dieDown (p / 4) = true → ∀ i ∈ [Instr.fltRetire (unitLane p l), .fltRestore (unitLane p l)],
    exec i s = .next ⟨s.hub.refuseDie St.fault (p / 4), s.pending⟩) ∧
  (PortUp s.hub p → LaneThere s.hub p l → l < 4 →
    ((s.hub.lane p l).retired = true → exec (.fltRetire (unitLane p l)) s = .next ⟨s.hub.ok [], s.pending⟩) ∧
    ((s.hub.lane p l).retired = false → p = 0 → (∀ k < 3, (s.hub.lane 0 k).retired = false ↔ k = l) →
      exec (.fltRetire (unitLane p l)) s = .next ⟨s.hub.refuse St.badArg, s.pending⟩) ∧
    ((s.hub.lane p l).retired = false → (p = 0 → ∃ k < 3, k ≠ l ∧ (s.hub.lane 0 k).retired = false) →
      ∃ t q x, exec (.fltRetire (unitLane p l)) s = .next t ∧ t.hub.mgmt.reply = ⟨St.ok, 0, 255, []⟩ ∧ t.hub.ports[p]? = some q ∧
        q.lanes[l]? = some x ∧ x.retired = true ∧ (l = 0 → q.st ≠ .up) ∧ (p = 0 → l = 3 → q.ltUp = false)) ∧
    ((s.hub.lane p l).retired = false → exec (.fltRestore (unitLane p l)) s = .next ⟨s.hub.refuse St.badArg, s.pending⟩) ∧
    ((s.hub.lane p l).retired = true → ∃ t q x, exec (.fltRestore (unitLane p l)) s = .next t ∧ t.hub.ports[p]? = some q ∧
      q.lanes[l]? = some x ∧ (pass (unitLane p l) → t.hub.mgmt.reply = ⟨St.ok, 0, 255, []⟩ ∧ x.retired = false) ∧
      (¬pass (unitLane p l) → t.hub.mgmt.reply = ⟨St.fault, 0, 255, []⟩ ∧ x.retired = true))) ∧
  (unitType u = 2 → s.hub.nDies ≤ unitId u / 136 →
    ∀ i ∈ [Instr.fltRetire u, .fltRestore u], exec i s = .next ⟨s.hub.refuse St.badArg, s.pending⟩) ∧
  (d < s.hub.nDies → e < 136 →
    (retired (unitEngine d e) → exec (.fltRetire (unitEngine d e)) s = .next ⟨s.hub.ok [], s.pending⟩) ∧
    (¬retired (unitEngine d e) → exec (.fltRestore (unitEngine d e)) s = .next ⟨s.hub.refuse St.badArg, s.pending⟩) ∧
    (s.hub.dieDown d = true → ¬retired (unitEngine d e) →
      exec (.fltRetire (unitEngine d e)) s = .next ⟨s.hub.refuseDie St.fault d, s.pending⟩) ∧
    (s.hub.dieDown d = true → retired (unitEngine d e) →
      exec (.fltRestore (unitEngine d e)) s = .next ⟨s.hub.refuseDie St.fault d, s.pending⟩)) ∧
  (Shaped s.hub → d < s.hub.nDies → e < 136 → s.hub.dieDown d = false →
    (¬retired (unitEngine d e) → ∃ t y, exec (.fltRetire (unitEngine d e)) s = .next t ∧ t.hub.mgmt.reply = ⟨St.ok, 0, 255, []⟩ ∧ t.hub.dies[d]? = some y ∧
        e ∈ y.enginesBad ∧ e ∉ y.pool ∧ t.hub.flt.retired = s.hub.flt.retired ++ [unitEngine d e]) ∧
    (retired (unitEngine d e) → ∃ t y, exec (.fltRestore (unitEngine d e)) s = .next t ∧ t.hub.dies[d]? = some y ∧
      (pass (unitEngine d e) → t.hub.mgmt.reply = ⟨St.ok, 0, 255, []⟩ ∧ e ∉ y.enginesBad ∧ e ∈ y.pool ∧
        t.hub.flt.retired = s.hub.flt.retired.filter (· != unitEngine d e)) ∧
      (¬pass (unitEngine d e) → t.hub.mgmt.reply = ⟨St.fault, 0, 255, []⟩ ∧ y.enginesBad = (s.hub.die d).enginesBad ∧
        y.pool = (s.hub.die d).pool ∧ t.hub.flt.retired = s.hub.flt.retired))) ∧
  (unitType u = 3 → (unitId u = 0 ∨ s.hub.nDies ≤ unitId u) → exec (.fltRetire u) s = .next ⟨s.hub.refuse St.badArg, s.pending⟩) ∧
  (unitType u = 3 → (s.hub.nDies ≤ unitId u ∨ ¬retired u) → exec (.fltRestore u) s = .next ⟨s.hub.refuse St.badArg, s.pending⟩) ∧
  (Shaped s.hub → d < s.hub.nDies →
    (d ≠ 0 → retired (unitDie d) → exec (.fltRetire (unitDie d)) s = .next ⟨s.hub.ok [], s.pending⟩) ∧
    (d ≠ 0 → ¬retired (unitDie d) → (s.hub.die d).frozen = false → ∃ t x, exec (.fltRetire (unitDie d)) s = .next t ∧ t.hub.mgmt.reply = ⟨St.ok, 0, 255, []⟩ ∧
      t.hub.dies[d]? = some x ∧ x.inService = false ∧ x.faulted = true ∧ x.restartAt = none ∧
      t.hub.flt.retired = s.hub.flt.retired ++ [unitDie d]) ∧
    ((s.hub.die d).frozen = true → (d ≠ 0 → ¬retired (unitDie d) → exec (.fltRetire (unitDie d)) s =
        .next ⟨s.hub.refuseDie St.fault d, s.pending⟩) ∧
      (retired (unitDie d) → exec (.fltRestore (unitDie d)) s = .next ⟨s.hub.refuseDie St.fault d, s.pending⟩)) ∧
    (retired (unitDie d) → (s.hub.die d).frozen = false → ∃ t x, exec (.fltRestore (unitDie d)) s = .next t ∧ t.hub.dies[d]? = some x ∧
      (pass (unitDie d) → t.hub.mgmt.reply = ⟨St.ok, 0, 255, []⟩ ∧ x.inService = true ∧ x.faulted = false ∧ x.faultAt = none ∧
        t.hub.flt.retired = s.hub.flt.retired.filter (· != unitDie d)) ∧
      (¬pass (unitDie d) → t.hub.mgmt.reply = ⟨St.fault, 0, 255, []⟩ ∧ x.inService = (s.hub.die d).inService ∧
        t.hub.flt.retired = s.hub.flt.retired)))) ∧
  (∀ (s : State) (u : Word) (d e pg c p l : Nat),
  let x := s.hub.ch c
  let now := s.hub.clk.elapsed
  let sec := 1000000000
  let open' (w : Option FaultWin) : Prop := ∃ v, w = some v ∧ v.opened + v.length ≤ now
  let page := (s.hub.die d).store.pageWin.find? (fun y => y.1 == pg)
  (unitType u = 3 ∨ (6 < unitType u ∧ unitType u ≠ 13) → exec (.windowClose u) s = .next s) ∧
  (c < s.hub.nChans → ¬open' x.win → exec (.windowClose (unitChan c)) s = .next s) ∧
  (p < s.hub.nPorts → l < 4 → ¬open' (s.hub.lane p l).win → exec (.windowClose (unitLane p l)) s = .next s) ∧
  (d < s.hub.nDies → e < 136 → ¬open' (s.hub.engWin d (unitEngine d e)) → exec (.windowClose (unitEngine d e)) s = .next s) ∧
  (d < s.hub.nDies → e < 8 → ¬open' (s.hub.engWin d (engineUnit d 4 e)) → exec (.windowClose (engineUnit d 4 e)) s = .next s) ∧
  (d < s.hub.nDies → e < 4 → ¬open' (s.hub.engWin d (engineUnit d 5 e)) → exec (.windowClose (engineUnit d 5 e)) s = .next s) ∧
  (d < s.hub.nDies → pg < 3072 → ¬open' (page.map Prod.snd) → exec (.windowClose (unitPage d pg)) s = .next s) ∧
  (d < s.hub.nDies → ¬open' (s.hub.engWin d (unitAudit d)) → exec (.windowClose (unitAudit d)) s = .next s) ∧
  (∀ w, Shaped s.hub → c < s.hub.nChans → x.win = some w → w.opened + w.length ≤ now →
    ((∃ k ∈ x.presents now, k ∈ w.lasting) → ∃ t y, exec (.windowClose (unitChan c)) s = .next t ∧ t.hub.chans[c]? = some y ∧
      y.win = none ∧ (∃ k ∈ x.presents now, k ∈ w.lasting ∧ y.retired = some k)) ∧
    ((∀ k ∈ x.presents now, k ∉ w.lasting) → ∀ k r, x.presents now = k :: r →
      exec (.windowClose (unitChan c)) s = .next ⟨{ s.hub with chans := s.hub.chans.modify c fun y => { y with
        win := some ⟨now, fld s.hub.flt.ch 15 0 * 1000000, fld s.hub.flt.ch 31 24, 1, k, k :: r⟩ } }, s.pending⟩) ∧
    (x.presents now = [] → ∃ t y, exec (.windowClose (unitChan c)) s = .next t ∧ t.hub.chans[c]? = some y ∧
      y.win = none ∧ y.retired = x.retired ∧ (s.hub.hk.dropped = 0 → t.hub.hk.rseq = s.hub.hk.rseq + 1))) ∧
  (∀ w, Shaped s.hub → p < s.hub.nPorts → l < 4 → LaneThere s.hub p l → (s.hub.lane p l).win = some w → w.opened + w.length ≤ now →
    (s.hub.laneDown p l = true → w.code ∈ w.lasting → ∃ t q y, exec (.windowClose (unitLane p l)) s = .next t ∧
      t.hub.ports[p]? = some q ∧ q.lanes[l]? = some y ∧ y.retired = true ∧ y.win = none) ∧
    (s.hub.laneDown p l = true → w.code ∉ w.lasting → exec (.windowClose (unitLane p l)) s = .next ⟨s.hub.setLane p l fun y => { y with
      win := some ⟨now, fld s.hub.flt.lane 15 0 * sec, fld s.hub.flt.lane 31 24, 1, w.code, [w.code]⟩ }, s.pending⟩) ∧
    (s.hub.laneDown p l = false → ∃ t q y, exec (.windowClose (unitLane p l)) s = .next t ∧ t.hub.ports[p]? = some q ∧
      q.lanes[l]? = some y ∧ y = { s.hub.lane p l with win := none })) ∧
  (∀ w, Shaped s.hub → d < s.hub.nDies →
    (e < 136 → s.hub.engWin d (unitEngine d e) = some w → w.opened + w.length ≤ now → ∃ t y,
      exec (.windowClose (unitEngine d e)) s = .next t ∧ t.hub.dies[d]? = some y ∧ e ∉ y.enginesBad ∧ e ∈ y.pool ∧
        t.hub.engWin d (unitEngine d e) = none ∧ t.hub.flt.retired = s.hub.flt.retired) ∧
    (e < 8 → s.hub.engWin d (engineUnit d 4 e) = some w → w.opened + w.length ≤ now → ∃ t,
      exec (.windowClose (engineUnit d 4 e)) s = .next t ∧ t.hub.engWin d (engineUnit d 4 e) = none ∧ t.hub.flt.retired = s.hub.flt.retired) ∧
    (e < 4 → s.hub.engWin d (engineUnit d 5 e) = some w → w.opened + w.length ≤ now → ∃ t,
      exec (.windowClose (engineUnit d 5 e)) s = .next t ∧ t.hub.engWin d (engineUnit d 5 e) = none ∧ t.hub.flt.retired = s.hub.flt.retired) ∧
    (pg < 3072 → page = some (pg, w) → w.opened + w.length ≤ now → ∃ t y, exec (.windowClose (unitPage d pg)) s = .next t ∧
      t.hub.dies[d]? = some y ∧ (∀ v ∈ y.store.pageWin, v.1 ≠ pg) ∧ y.store.retired = (s.hub.die d).store.retired) ∧
    (s.hub.engWin d (unitAudit d) = some w → w.opened + w.length ≤ now → ∃ t y, exec (.windowClose (unitAudit d)) s = .next t ∧
      t.hub.dies[d]? = some y ∧
      ((s.hub.die d).audit.fault = true → (s.hub.die d).audit.faultAt ≤ w.opened → y.audit.retired = true ∧
        t.hub.flt.retired = s.hub.flt.retired ++ [unitAudit d]) ∧
      ((s.hub.die d).audit.fault = true → w.opened < (s.hub.die d).audit.faultAt → y.audit = (s.hub.die d).audit ∧
        t.hub.engWin d (unitAudit d) = some ⟨now, 3600 * sec, 0, 1, 0x0109, [0x0109]⟩) ∧
      ((s.hub.die d).audit.fault = false → y.audit = (s.hub.die d).audit ∧ t.hub.engWin d (unitAudit d) = none)))) ∧
  (∀ (s : State) (failed : List Nat) (d e pg addr c : Nat) (unc : Bool),
  let x := s.hub.ch c
  let now := s.hub.clk.elapsed
  let pass := Config.selfTestPass (s.hub.fresh + 1) (unitChan c)
  let gone (e : Nat) : Prop := engineUnit d (testEngine e).1 (testEngine e).2 ∈ s.hub.flt.retired
  (s.hub.nDies ≤ d ∨ (s.hub.die d).inService = false → exec (.signatureTest d failed) s = .next s ∧
    exec (.localMemoryEccError d e) s = .next s ∧ exec (.eccError d pg unc addr) s = .next s) ∧
  (exec (.signatureTest d []) s = .next s) ∧
  (148 ≤ e ∨ gone e → exec (.signatureTest d [e]) s = .next s ∧ exec (.localMemoryEccError d e) s = .next s) ∧
  (3072 ≤ pg ∨ (s.hub.die d).store.retired.contains pg = true → exec (.eccError d pg unc addr) s = .next s) ∧
  (Shaped s.hub → d < s.hub.nDies → (s.hub.die d).inService = true →
    (∃ t y, exec (.signatureTest d failed) s = .next t ∧ t.hub.dies[d]? = some y ∧
      ∀ e ∈ failed, e < 136 → ¬gone e → e ∈ y.enginesBad ∧ e ∉ y.pool) ∧
    (e < 148 → ¬gone e → ∀ i ∈ [Instr.signatureTest d [e], .localMemoryEccError d e], ∃ t y,
      exec i s = .next t ∧ t.hub.dies[d]? = some y ∧ (e < 136 → e ∈ y.enginesBad ∧ e ∉ y.pool) ∧
      (Config.selfTestPass (s.hub.fresh + 1) (engineUnit d (testEngine e).1 (testEngine e).2) = false →
        t.hub.flt.retired = s.hub.flt.retired ++ [engineUnit d (testEngine e).1 (testEngine e).2] ∧
        (136 ≤ e → e < 144 → y.sep.engines = (s.hub.die d).sep.engines - 1) ∧
        (144 ≤ e → e - 144 < y.churn.engines.length → y.churn.engines[e - 144]? = some false)))) ∧
  (Shaped s.hub → d < s.hub.nDies → (s.hub.die d).inService = true → pg < 3072 → (s.hub.die d).store.retired.contains pg = false →
    (∃ t y, exec (.eccError d pg true addr) s = .next t ∧ t.hub.dies[d]? = some y ∧
      y.store.retired = (s.hub.die d).store.retired ++ [pg]) ∧
    ((∀ w ∈ (s.hub.die d).store.pageWin, w.1 ≠ pg) → 2 ≤ fld s.hub.flt.mem 31 24 → ∃ t y, exec (.eccError d pg false addr) s = .next t ∧
      t.hub.dies[d]? = some y ∧ y.store.retired = (s.hub.die d).store.retired ∧ (∃ w ∈ y.store.pageWin, w.1 = pg ∧ w.2.events = 1)) ∧
    (∀ w, (s.hub.die d).store.pageWin.find? (fun y => y.1 == pg) = some (pg, w) → now < w.opened + w.length →
      (w.events + 1 < w.allowed → ∃ t y, exec (.eccError d pg false addr) s = .next t ∧ t.hub.dies[d]? = some y ∧
        y.store.retired = (s.hub.die d).store.retired ∧ (pg, { w with events := w.events + 1 }) ∈ y.store.pageWin) ∧
      (w.allowed ≤ w.events + 1 → ∃ t y, exec (.eccError d pg false addr) s = .next t ∧ t.hub.dies[d]? = some y ∧
        y.store.retired = (s.hub.die d).store.retired ++ [pg]))) ∧
  (s.hub.nChans ≤ c ∨ bitOf s.hub.flt.ch 23 = false ∨ (x.retired ≠ some 0x0101 ∧ x.retired ≠ some 0x0102) ∨ x.autoTried = true ∨
    (∃ k, x.retired = some k ∧ x.present now k = true) ∨ now < x.clearSince + 10000000000 ∨ s.hub.dieDown (chDie c) = true →
    exec (.autoRestore c) s = .next s) ∧
  (∀ k, Shaped s.hub → c < s.hub.nChans → bitOf s.hub.flt.ch 23 = true → (k = 0x0101 ∨ k = 0x0102) → x.retired = some k →
    x.autoTried = false → x.present now k = false → x.clearSince + 10000000000 ≤ now →
    s.hub.dieDown (chDie c) = false → ∃ t y, exec (.autoRestore c) s = .next t ∧ t.hub.chans[c]? = some y ∧
      (pass = true → (s.hub.freeEngine c).isSome = true → y.retired = none) ∧
      ((pass = false ∨ s.hub.freeEngine c = none) → y.retired = x.retired ∧ y.autoTried = true)))

/-- Loss and return of a die (R353, R404, R412, R413): a die that fails leaves service with its flows stopped, and the lead role
goes to the lowest die whose core runs; the first failure in 24 h restarts it and a second is permanent; a restart in time
brings it back, and one that is late or fails is permanent; a die that is not in service does not fail, and one that does not
restart is not brought back. The sentinel and failover (R414 to R417, R420, R423, R425): a beat clears the count of missed
periods; eight missed periods release the standby, change ON_B, count FAILOVERS and raise FAILOVER, or freeze a die that has
no standby; core B takes the steps of Table 15-3 at its beats, each within its bound, and resumes intake at the last (log
entry 170); a checkpoint fills the older half and commits it; a standby that is silent for 35 ms freezes the die, or ends the
drill as failed; MC_DRILL answers BAD_ARG for a die that the part lacks and FAULT for one that cannot serve or has no
standby, and starts with a die that is not the lead where one is named; core B's first beat in a drill ends the die's part; a
vote puts the copy right; a skew beyond 2 ns is recorded and is taken at the next array second. It says that these complete:
MC_DRILL, HEARTBEAT, SENTINEL_PERIOD, STANDBY_TIMEOUT, CHECKPOINT, DIE_FAULT, SENT_VOTE, TIME_SKEW, DIE_RESTART. -/
def Obligations.DieLossAndFailover : Prop :=
  (∀ (s : State) (d cause : Nat) (passed : Bool),
  let now := s.hub.clk.elapsed
  let last := (s.hub.die d).faultAt
  (s.hub.nDies ≤ d ∨ (s.hub.die d).inService = false → exec (.dieFault d cause) s = .next s) ∧
  (Shaped s.hub → d < s.hub.nDies → (s.hub.die d).inService = true → ∃ t x, exec (.dieFault d cause) s = .next t ∧
    t.hub.dies[d]? = some x ∧ x.inService = false ∧ x.faulted = true ∧ x.faultAt = some now ∧
    (∀ f ∈ t.hub.flows, f.key.die = d → f.started = false) ∧
    ((∀ u, last = some u → u + 86400000000000 ≤ now) → x.restartAt = some (now, cause) ∧ t.hub.flt.retired = s.hub.flt.retired) ∧
    (∀ u, last = some u → now < u + 86400000000000 → x.restartAt = none ∧ t.hub.flt.retired = s.hub.flt.retired ++ [unitDie d]) ∧
    ((∃ i < s.hub.nDies, i ≠ d ∧ s.hub.coreRuns i = true) → t.hub.coreRuns t.hub.boot.lead = true ∧
      ∀ i < t.hub.boot.lead, t.hub.coreRuns i = false)) ∧
  ((s.hub.die d).restartAt = none → exec (.dieRestart d passed) s = .next s) ∧
  (∀ u k, Shaped s.hub → d < s.hub.nDies → (s.hub.die d).restartAt = some (u, k) → passed = true → now ≤ u + 10000000000 →
    ∃ t x, exec (.dieRestart d passed) s = .next t ∧ t.hub.dies[d]? = some x ∧ x.inService = true ∧ x.faulted = false ∧
      x.restartAt = none ∧ t.hub.flt.retired = s.hub.flt.retired) ∧
  (∀ u k, Shaped s.hub → d < s.hub.nDies → (s.hub.die d).restartAt = some (u, k) → (passed = false ∨ u + 10000000000 < now) →
    ∃ t x, exec (.dieRestart d passed) s = .next t ∧ t.hub.dies[d]? = some x ∧ x.inService = (s.hub.die d).inService ∧
      x.restartAt = none ∧ t.hub.flt.retired = s.hub.flt.retired ++ [unitDie d])) ∧
  (∀ (s : State) (d : Nat),
  let c := (s.hub.die d).cores
  let now := s.hub.clk.elapsed
  let beats (k : Cores) : Prop := k.beat = true ∧ k.missed = 0 ∧ k.hbOk = true ∧ k.lastBeat = now
  let due (u bound : Nat) : Prop := Config.failoverStep (s.hub.fresh + 1) = true ∨ u + bound ≤ now + 500000
  let starts := Config.selfTestPass (s.hub.fresh + 1) (unitCore d (if c.onB = true then 1 else 0))
  let declared : Cores := { c with
    missed := 0, hbOk := false, onB := !c.onB, noStandby := true, declaredAt := some now, stage := 0, gapFrom := c.lastBeat }
  (s.hub.nDies ≤ d ∨ s.hub.coreRuns d = false → exec (.heartbeat d) s = .next s ∧ exec (.sentinelPeriod d) s = .next s ∧
    exec (.checkpoint d) s = .next s) ∧
  (c.drillAt.isSome = true ∨ c.declaredAt.isSome = true → exec (.sentinelPeriod d) s = .next s) ∧
  (c.declaredAt.isSome = true → exec (.checkpoint d) s = .next s) ∧
  (Shaped s.hub → d < s.hub.nDies → s.hub.coreRuns d = true →
    (c.drillAt = none → c.declaredAt = none →
      (d ≠ s.hub.boot.lead ∨ s.hub.mgmt.cache.all CacheEntry.handed = true →
        exec (.heartbeat d) s = .next ⟨(s.hub.crossEvent d 9 381).setDie d fun x => { x with
          cores := { x.cores with beat := true, missed := 0, hbOk := true, lastBeat := now } }, s.pending⟩) ∧
      (d = s.hub.boot.lead → ∃ t x, exec (.heartbeat d) s = .next t ∧ t.hub.dies[d]? = some x ∧ beats x.cores ∧
        t.hub.mgmt = { s.hub.mgmt with cache := s.hub.mgmt.cache.map fun (e : CacheEntry) => { e with handed := true } }) ∧
      (c.beat = true → exec (.sentinelPeriod d) s = .next ⟨s.hub.setDie d fun x => { x with
        cores := { x.cores with beat := false, missed := 0, hbOk := true } }, s.pending⟩) ∧
      (c.beat = false → c.missed < 7 → exec (.sentinelPeriod d) s = .next ⟨s.hub.setDie d fun x => { x with
        cores := { x.cores with missed := x.cores.missed + 1 } }, s.pending⟩) ∧
      (c.beat = false → 7 ≤ c.missed → c.noStandby = false → c.standbyFailed = false → c.copy.isSome = true → ∃ t x,
        exec (.sentinelPeriod d) s = .next t ∧ t.hub.dies[d]? = some x ∧ x.cores = declared ∧
        x.frozen = false ∧ t.hub.flt.failovers = satInc 6 s.hub.flt.failovers ∧ t.hub.dbw.irq = s.hub.dbw.irq ||| 0x80) ∧
      (c.beat = false → 7 ≤ c.missed → (c.noStandby = true ∨ c.standbyFailed = true ∨ c.copy = none) → ∃ t x,
        exec (.sentinelPeriod d) s = .next t ∧ t.hub.dies[d]? = some x ∧ x.frozen = true ∧ x.cores.onB = c.onB)) ∧
    (c.declaredAt = none → ∃ t x, exec (.checkpoint d) s = .next t ∧ t.hub.dies[d]? = some x ∧ x.cores.pointer = (!c.pointer) ∧
      (∃ k, x.cores.halves = (if c.pointer = true then (some k, c.halves.2) else (c.halves.1, some k)) ∧ k.gen = c.ckpt.gen + 1 ∧
        (d = s.hub.boot.lead → k.cache = s.hub.mgmt.cache ∧ k.actions = s.hub.mgmt.actions.map Action.id ∧
          k.nextAction = s.hub.mgmt.nextAction)) ∧
      (∀ y ∈ x.cores.through, y ∈ c.through ∧ ∃ n, y = .commit n) ∧
      (∀ i, i ≠ d → t.hub.dies[i]? = s.hub.dies[i]?)) ∧
    (∀ u, c.drillAt = none → c.declaredAt = some u → ∃ t x, exec (.heartbeat d) s = .next t ∧ t.hub.dies[d]? = some x ∧
      (c.stage = 0 → starts = false → x.frozen = true ∧ x.cores.declaredAt = none ∧ x.cores.onB = !c.onB) ∧
      ((c.stage = 0 → starts = true) → beats x.cores ∧ x.cores.onB = c.onB) ∧
      (c.stage = 0 → starts = true → x.cores.stage = 1 ∧ x.cores.declaredAt = some u) ∧
      (c.stage = 1 → due u 5000000 → x.cores.stage = 2 ∧ x.cores.declaredAt = some u ∧
        (d = s.hub.boot.lead → (∀ y r, s.hub.mgmt.running = some (y, r) → s.hub.writing y = false → t.hub.mgmt.running = none))) ∧
      (c.stage = 1 → ¬due u 5000000 → x.cores.stage = 1 ∧ x.cores.declaredAt = some u) ∧
      (2 ≤ c.stage → due u 35000000 → x.cores.stage = 0 ∧ x.cores.declaredAt = none) ∧
      (2 ≤ c.stage → ¬due u 35000000 → x.cores.stage = c.stage ∧ x.cores.declaredAt = some u)) ∧
    (∀ u, c.drillAt = some u → ∃ t x, exec (.heartbeat d) s = .next t ∧ t.hub.dies[d]? = some x ∧ x.cores.onB = !c.onB ∧
      x.cores.drill = false ∧ x.cores.drillAt = none ∧ x.cores.standbyFailed = c.standbyFailed)) ∧
  (c.drillAt = none → c.declaredAt = none → exec (.standbyTimeout d) s = .next s) ∧
  (∀ u, (c.drillAt = some u ∨ (c.drillAt = none ∧ c.declaredAt = some u)) → now < u + 35000000 → exec (.standbyTimeout d) s = .next s) ∧
  (∀ u, Shaped s.hub → d < s.hub.nDies → c.drillAt = some u → u + 35000000 ≤ now → ∃ t x,
    exec (.standbyTimeout d) s = .next t ∧ t.hub.dies[d]? = some x ∧ x.cores.standbyFailed = true ∧ x.cores.drillAt = none ∧
    x.cores.drill = false ∧ x.cores.onB = c.onB ∧ x.frozen = (s.hub.die d).frozen) ∧
  (∀ u, Shaped s.hub → d < s.hub.nDies → c.drillAt = none → c.declaredAt = some u → u + 35000000 ≤ now → ∃ t x,
    exec (.standbyTimeout d) s = .next t ∧ t.hub.dies[d]? = some x ∧ x.frozen = true ∧ x.cores.declaredAt = none ∧
    x.cores.onB = !c.onB)) ∧
  (∀ (s : State) (d copy : Nat) (diff : Int) (dies : List Nat),
  let now := s.hub.clk.elapsed
  let bars (i : Nat) : Prop := (s.hub.die i).cores.standbyFailed = true ∨ (s.hub.die i).cores.noStandby = true
  ((∃ i ∈ s.hub.named dies, s.hub.nDies ≤ i) → exec (.mcDrill dies) s = .next ⟨s.hub.refuse St.badArg, s.pending⟩) ∧
  ((∀ i ∈ s.hub.named dies, i < s.hub.nDies) → (∃ i ∈ s.hub.named dies, s.hub.dieDown i = true ∨ bars i) → ∃ i ∈ s.hub.named dies,
    (s.hub.dieDown i = true ∨ bars i) ∧ exec (.mcDrill dies) s = .next ⟨s.hub.refuseDie St.fault i, s.pending⟩) ∧
  (NamedUp s.hub dies → (∀ x ∈ s.hub.dies, x.cores.drill = false) → (∀ i ∈ s.hub.named dies, ¬bars i) → s.hub.named dies ≠ [] →
    ∃ t i x, exec (.mcDrill dies) s = .next t ∧ t.hub.mgmt.reply = ⟨St.ok, 0, 255, []⟩ ∧ t.hub.flt.drill = some (none, 0) ∧
      i ∈ s.hub.named dies ∧ ((∃ j ∈ s.hub.named dies, j ≠ s.hub.boot.lead) → i ≠ s.hub.boot.lead) ∧ t.hub.dies[i]? = some x ∧
      x.cores.drillAt = some now ∧ x.cores.pointer = (!(s.hub.die i).cores.pointer) ∧
      (∀ j < s.hub.nDies, (t.hub.die j).cores.drill = true ↔ j ∈ s.hub.named dies)) ∧
  (3 ≤ copy → exec (.sentVote copy) s = .next s) ∧
  (copy < 3 → ∃ t, exec (.sentVote copy) s = .next t ∧ t.hub.flt = { s.hub.flt with votes := s.hub.flt.votes.modify copy fun _ => true } ∧
    (s.hub.hk.dropped = 0 → t.hub.hk.rseq = s.hub.hk.rseq + 1)) ∧
  (d = s.hub.boot.lead ∨ s.hub.nDies ≤ d ∨ (s.hub.die d).inService = false → exec (.timeSkew d diff) s = .next s) ∧
  (Shaped s.hub → d < s.hub.nDies → d ≠ s.hub.boot.lead → (s.hub.die d).inService = true →
    (2000 < diff.natAbs → ∃ t x, exec (.timeSkew d diff) s = .next t ∧ t.hub.dies[d]? = some x ∧ x.skewPs = diff ∧ x.skewTake = true ∧
      t.hub.tm.skew = true ∧ ((s.hub.die d).skewPs = 0 → s.hub.hk.dropped = 0 → t.hub.hk.rseq = s.hub.hk.rseq + 1) ∧
      ((s.hub.die d).skewPs ≠ 0 → t.hub.hk = s.hub.hk)) ∧
    (diff.natAbs ≤ 30 → ∃ t x, exec (.timeSkew d diff) s = .next t ∧ t.hub.dies[d]? = some x ∧ x.skewPs = 0 ∧ x.skewTake = false ∧
      t.hub.hk = s.hub.hk) ∧
    (30 < diff.natAbs → diff.natAbs ≤ 2000 → ∃ t x, exec (.timeSkew d diff) s = .next t ∧ t.hub.dies[d]? = some x ∧
      x.skewPs = (if (s.hub.die d).skewPs = 0 then 0 else diff) ∧ t.hub.hk = s.hub.hk)))

/-- The wired side of the logbook (R486 to R489, R493, R495, R496): LOG_READ gives four bytes for each block, and BUSY for owner
notes under the lock; LOG_WRITE takes owner notes alone and starts with its first block where the tag is free, or waits
behind the write in progress or the lock; a ring entry goes to its slot with the slot's first block invalid until the last,
not within 1 s of the one before, during a shutdown, while class 3 sheds or where no management runs; a block is written when
its time is up and no other block changes, and then the next one starts; what was dropped is stated once there is room; the
lock ends with its time or 1 s after the field, and the write that it held up starts. It says that these complete: LOG_READ,
LOG_WRITE, RING_ENTRY, LOG_DROP, LOCK_EXPIRY, FIELD_ABSENT, BLOCK_WRITE_TIME. -/
def Obligations.LogbookWiredSide : Prop := ∀ (s : State) (a n : Nat) (data : List Word) (w : Word) (r : List (Nat × Word)),
  let g := s.hub.tag
  let now := s.hub.clk.elapsed
  let job : LogJob := ⟨.direct, data.zipIdx.map (fun (p : Word × Nat) => (a + p.2, p.1)), now⟩
  let noted : Prop := ∃ i < n, 1600 ≤ a + i ∧ a + i < 1984
  let starts (t : State) : Prop := ∀ j q m v b, g.ring = [] → g.busy = none → g.writes = j :: q → j.blocks = (m, v) :: b →
    j.expired now = false → t.hub.tag.busy = some m
  let begins : Prop := g.queue ≠ [] ∧ (∀ u, g.lastEntry = some u → u + 1000000000 ≤ now) ∧ g.ring = [] ∧ s.hub.sheds3 = false ∧
    s.hub.pwr.holdUp = none ∧ s.hub.manages = true
  (n = 0 ∨ 1020 < n ∨ 2048 < a + n → exec (.logRead a n) s = .next ⟨s.hub.refuse St.badArg, s.pending⟩) ∧
  (1 ≤ n → n ≤ 1020 → a + n ≤ 2048 → (s.hub.tagLocked = false ∨ ¬noted) → ∃ b, exec (.logRead a n) s = .next ⟨s.hub.ok b, s.pending⟩ ∧
    b.length = 4 * n ∧ ∀ i < n, (b.drop (4 * i)).take 4 = be 4 (s.hub.block (a + i)).toNat) ∧
  (1 ≤ n → n ≤ 1020 → a + n ≤ 2048 → s.hub.tagLocked = true → noted → ∃ t, exec (.logRead a n) s = .next t ∧
    t.hub.mgmt.reply.status = St.busy ∧ 1 ≤ t.hub.mgmt.reply.retry ∧ t.hub.mgmt.reply.payload = [] ∧ t.hub.tag = g) ∧
  (data = [] ∨ 1018 < data.length ∨ a < 1600 ∨ 1984 < a + data.length →
    exec (.logWrite a data) s = .next ⟨s.hub.refuse St.badArg, s.pending⟩) ∧
  (data ≠ [] → data.length ≤ 1018 → 1600 ≤ a → a + data.length ≤ 1984 →
    (g.writes = [] → g.busy = none → g.ring = [] → s.hub.tagLocked = false → exec (.logWrite a data) s =
      .next ⟨({ s.hub with tag := { g with writes := [job], busy := some a } }).ok [], s.pending⟩) ∧
    (g.writes = [] → g.ring = [] → (g.busy ≠ none ∨ s.hub.tagLocked = true) → exec (.logWrite a data) s =
      .next ⟨({ s.hub with tag := { g with writes := [job] } }).ok [], s.pending⟩) ∧
    (g.writes ≠ [] → g.busy ≠ none → (∀ j ∈ g.writes, j.expired now = false) → exec (.logWrite a data) s =
      .next ⟨({ s.hub with tag := { g with writes := g.writes ++ [job] } }).ok [], s.pending⟩) ∧
    (∃ t, exec (.logWrite a data) s = .next t ∧ t.hub.mgmt.reply = ⟨St.ok, 0, 255, []⟩ ∧ t.hub.tag.mem = g.mem ∧
      (t.hub.tag.writes.map LogJob.blocks).getLast? = some job.blocks)) ∧
  (¬begins → exec .ringEntry s = .next s) ∧
  (begins → ∃ t, exec .ringEntry s = .next t ∧ t.hub.tag.queue = g.queue.tail ∧ t.hub.tag.lastEntry = some now ∧
      t.hub.tag.lseq = g.lseq + 1 ∧ t.hub.tag.ring.length = 9 ∧ t.hub.tag.busy = some (g.busy.getD (64 + 8 * (g.lseq % 192))) ∧
      (t.hub.tag.ring.map Prod.fst = ([0, 1, 2, 3, 4, 5, 6, 7, 0] : List Nat).map (64 + 8 * (g.lseq % 192) + ·)) ∧
      t.hub.tag.ring.head? = some (64 + 8 * (g.lseq % 192), 0xFFFFFFFF) ∧
      t.hub.tag.ring.getLast? = some (64 + 8 * (g.lseq % 192), BitVec.ofNat 32 g.lseq) ∧ t.hub.tag.mem = g.mem) ∧
  (g.busy ≠ some a → exec (.blockWriteTime a) s = .next s) ∧
  (g.busy = some a → g.ring = (a, w) :: r → 64 ≤ a → a < 2048 → TagMemory.wf g.mem → ∃ t, exec (.blockWriteTime a) s = .next t ∧
    t.hub.block a = w ∧ (∀ m, m ≠ a → t.hub.block m = s.hub.block m) ∧ t.hub.tag.ring = r ∧ TagMemory.wf t.hub.tag.mem ∧
    (∀ m v q, r = (m, v) :: q → t.hub.tag.busy = some m)) ∧
  (∀ o u q, g.busy = some a → g.ring = [] → g.writes = ⟨o, (a, w) :: r, u⟩ :: q → 64 ≤ a → a < 2048 → TagMemory.wf g.mem →
    ∃ t, exec (.blockWriteTime a) s = .next t ∧ t.hub.block a = w ∧ (∀ m, m ≠ a → t.hub.block m = s.hub.block m) ∧
    t.hub.tag.ring = [] ∧ TagMemory.wf t.hub.tag.mem ∧
    (r ≠ [] → t.hub.tag.writes = ⟨o, r, now⟩ :: q ∧ (s.hub.tagLocked = false → ∃ v, r.head? = some v ∧ t.hub.tag.busy = some v.1) ∧
      (s.hub.tagLocked = true → t.hub.tag.busy = none)) ∧
    (r = [] → t.hub.tag.writes.map LogJob.blocks = q.map LogJob.blocks)) ∧
  (g.lost = 0 ∨ 64 ≤ g.queue.length → exec .logDrop s = .next s) ∧
  (g.lost ≠ 0 → g.queue.length < 64 → exec .logDrop s = .next ⟨{ s.hub with tag := { g with
    lost := 0, queue := g.queue ++ [(s.hub.tm.now, eventB unitHub 0x0C01 0 1 (argN g.lost) 0)] } }, s.pending⟩) ∧
  (g.lockUntil = none → exec .lockExpiry s = .next s) ∧
  (∀ u, g.lockUntil = some u → now < u → exec .lockExpiry s = .next s) ∧
  (∀ u, g.lockUntil = some u → u ≤ now → ∃ t, exec .lockExpiry s = .next t ∧ t.hub.tag.lockUntil = none ∧
    t.hub.tag.mem = g.mem ∧ t.hub.tag.ring = g.ring ∧ starts t) ∧
  (∃ t, exec .fieldAbsent s = .next t ∧ t.hub.tag.lockUntil = none ∧ t.hub.tag.quiet = false ∧ t.hub.tag.selected = false ∧
    t.hub.tag.mem = g.mem ∧ t.hub.tag.ring = g.ring ∧ starts t)

/-- The field commands (R490 to R495, R525): a command that is not for this tag gets no response and changes nothing; reads give
a flag byte and the blocks, 0x10 beyond the tag or 64 blocks, and 0xA1 where the wired side is writing one of them; the field
writes owner notes alone, in a field strong enough, and not the block that the wired side is writing; the identity, the ring
and the configuration answer 0x12; OWNER_LOCK takes up to 60 s, and 0 s ends the lock; a custom command with another
manufacturer's code gets no response, and a code that the tag lacks answers 0x01, or nothing where the tag does not know its
class; SELECT and STAY_QUIET act on the tag that they address, and INVENTORY is answered by a tag that is not quiet and that
the mask and AFI match. It says that these complete: INVENTORY, STAY_QUIET, READ_SINGLE_BLOCK, WRITE_SINGLE_BLOCK,
READ_MULTIPLE_BLOCKS, SELECT, RESET_TO_READY, GET_SYSTEM_INFO, GET_MULTIPLE_BLOCK_SECURITY_STATUS, EXT_READ_SINGLE_BLOCK,
EXT_WRITE_SINGLE_BLOCK, EXT_READ_MULTIPLE_BLOCKS, EXT_GET_SYSTEM_INFO, EXT_GET_MULTIPLE_BLOCK_SECURITY_STATUS, OWNER_LOCK,
LOG_STATUS, TAG_UNSUPPORTED. -/
def Obligations.FieldCommands : Prop := ∀ (s : State) (r : TagReq) (a n : Nat) (w : Word) (sl : Bool) (ml : Nat) (mask : BitVec 64)
    (afi : Option Byte) (mfr : Byte),
  let h := s.hub
  let gives (c : Instr) (x : Option Bytes) : Prop := exec c s = .next ⟨{ h with tag := { h.tag with answer := x } }, s.pending⟩
  let uses (k : Nat) : Prop := ∃ b, h.tag.busy = some b ∧ a ≤ b ∧ b < a + k
  let ours : Prop := mfr = Ident.icMfr h.ident
  let newest := h.newest.getD (0xFF, 0xFFFFFFFF)
  let left := match h.tag.lockUntil with | some u => ceilDiv (u - h.clk.elapsed) 1000000000 | none => 0
  let onHub := (if h.pwr.vkeepOk then 1 else 0) + (if h.boot.running then 2 else 0) + (if h.tag.writes = [] then 0 else 4)
  (h.tagFor r = false → gives (.readSingleBlock r a) none ∧ gives (.writeSingleBlock r a w) none ∧ gives (.readMultipleBlocks r a n) none ∧
    gives (.resetToReady r) none ∧ gives (.getSystemInfo r) none ∧ gives (.getMultipleBlockSecurityStatus r a n) none ∧
    gives (.extReadSingleBlock r a) none ∧ gives (.extWriteSingleBlock r a w) none ∧ gives (.extReadMultipleBlocks r a n) none ∧
    gives (.extGetSystemInfo r) none ∧ gives (.extGetMultipleBlockSecurityStatus r a n) none ∧ gives (.ownerLock r mfr n) none ∧
    gives (.logStatus r mfr) none ∧ gives (.tagUnsupported r a mfr) none) ∧
  (h.tagFor r = true →
    (¬uses 1 → a < 256 → gives (.readSingleBlock r a) (some (0 :: be 4 (h.block a).toNat))) ∧
    (¬uses 1 → a < 2048 → gives (.extReadSingleBlock r a) (some (0 :: be 4 (h.block a).toNat))) ∧
    (uses 1 → (a < 256 → gives (.readSingleBlock r a) (some [1, 0xA1])) ∧ (a < 2048 → gives (.extReadSingleBlock r a) (some [1, 0xA1]))) ∧
    (256 ≤ a → gives (.readSingleBlock r a) (some [1, 0x10]) ∧ gives (.writeSingleBlock r a w) (some [1, 0x10])) ∧
    (2048 ≤ a → gives (.extReadSingleBlock r a) (some [1, 0x10]) ∧ gives (.extWriteSingleBlock r a w) (some [1, 0x10])) ∧
    (¬uses n → n ≤ 64 → a + n ≤ 256 → gives (.readMultipleBlocks r a n) (some (0 :: h.blockBytes a n))) ∧
    (¬uses n → n ≤ 64 → a + n ≤ 2048 → gives (.extReadMultipleBlocks r a n) (some (0 :: h.blockBytes a n))) ∧
    (uses n → n ≤ 64 → (a + n ≤ 256 → gives (.readMultipleBlocks r a n) (some [1, 0xA1])) ∧
      (a + n ≤ 2048 → gives (.extReadMultipleBlocks r a n) (some [1, 0xA1]))) ∧
    (64 < n ∨ 256 < a + n → gives (.readMultipleBlocks r a n) (some [1, 0x10])) ∧
    (64 < n ∨ 2048 < a + n → gives (.extReadMultipleBlocks r a n) (some [1, 0x10])) ∧
    (a < 256 → gives (.writeSingleBlock r a w) (some [1, 0x12])) ∧
    (a < 1600 ∨ (1984 ≤ a ∧ a < 2048) → gives (.extWriteSingleBlock r a w) (some [1, 0x12])) ∧
    (1600 ≤ a → a < 1984 → uses 1 → gives (.extWriteSingleBlock r a w) (some [1, 0xA1])) ∧
    (1600 ≤ a → a < 1984 → ¬uses 1 → r.writeField = false → gives (.extWriteSingleBlock r a w) (some [1, 0x13])) ∧
    (1600 ≤ a → a < 1984 → ¬uses 1 → r.writeField = true → TagMemory.wf h.tag.mem → ∃ t, exec (.extWriteSingleBlock r a w) s = .next t ∧
      t.hub.tag.answer = some [0] ∧ t.hub.block a = w ∧ (∀ m, m ≠ a → t.hub.block m = h.block m) ∧ TagMemory.wf t.hub.tag.mem ∧
      t.hub.tag.writes = h.tag.writes ∧ t.hub.tag.ring = h.tag.ring ∧ t.hub.tag.busy = h.tag.busy) ∧
    (a + n ≤ 256 → gives (.getMultipleBlockSecurityStatus r a n) (some (0 :: List.replicate n 0x01))) ∧
    (256 < a + n → gives (.getMultipleBlockSecurityStatus r a n) (some [1, 0x10])) ∧
    (2048 < a + n → gives (.extGetMultipleBlockSecurityStatus r a n) (some [1, 0x10])) ∧
    (a + n ≤ 2048 → gives (.extGetMultipleBlockSecurityStatus r a n)
      (some (0 :: (List.range n).map fun i => if 1600 ≤ a + i ∧ a + i < 1984 then 0x00 else 0x01))) ∧
    (gives (.getSystemInfo r) (some ([0, 0x0F] ++ (be 8 h.ident.uid.toNat).reverse ++ [0, 0, 0xFF, 3, Config.icReference]))) ∧
    (gives (.extGetSystemInfo r) (some ([0, 0x0F] ++ (be 8 h.ident.uid.toNat).reverse ++ [0, 0, 0xFF, 0x07, 3, Config.icReference]))) ∧
    (exec (.resetToReady r) s = .next ⟨{ h with
      tag := { h.tag with selected := false, quiet := false, answer := some [0] } }, s.pending⟩) ∧
    (ours → 60 < n → gives (.ownerLock r mfr n) (some [1, 0xA2])) ∧
    (ours → 1 ≤ n → n ≤ 60 → exec (.ownerLock r mfr n) s = .next ⟨{ h with
      tag := { h.tag with lockUntil := some (h.clk.elapsed + n * 1000000000), answer := some [0] } }, s.pending⟩) ∧
    (ours → ∃ t, exec (.ownerLock r mfr 0) s = .next t ∧ t.hub.tag.lockUntil = none ∧ t.hub.tag.answer = some [0] ∧
      t.hub.tag.mem = h.tag.mem) ∧
    (ours → gives (.logStatus r mfr) (some (0 :: be 1 newest.1 ++ be 4 newest.2 ++ be 1 left ++ be 1 onHub))) ∧
    (1 ≤ a → a ≤ 0x9F → gives (.tagUnsupported r a mfr) (some [1, 0x01])) ∧
    (ours → (a = 0xA1 ∨ (0xA3 ≤ a ∧ a ≤ 0xDF)) → gives (.tagUnsupported r a mfr) (some [1, 0x01]))) ∧
  (a = 0 ∨ a = 0xA0 ∨ a = 0xA2 ∨ 0xDF < a → gives (.tagUnsupported r a mfr) none) ∧
  (¬ours → gives (.ownerLock r mfr n) none ∧ gives (.logStatus r mfr) none ∧ (0xA0 ≤ a → gives (.tagUnsupported r a mfr) none)) ∧
  (r.mode = .addressed h.ident.uid → r.twoSub = false →
    (exec (.select r) s = .next ⟨{ h with tag := { h.tag with selected := true, quiet := false, answer := some [0] } }, s.pending⟩) ∧
    (exec (.stayQuiet r) s = .next ⟨{ h with tag := { h.tag with quiet := true, selected := false, answer := none } }, s.pending⟩)) ∧
  (∀ u, u ≠ h.ident.uid → r.mode = .addressed u → gives (.stayQuiet r) none ∧ (r.twoSub = false →
    exec (.select r) s = .next ⟨{ h with tag := { h.tag with selected := false, answer := none } }, s.pending⟩)) ∧
  (r.mode = .nonAddressed ∨ r.mode = .selected ∨ r.twoSub = true → gives (.select r) none ∧ gives (.stayQuiet r) none) ∧
  (h.tag.quiet = true ∨ r.twoSub = true ∨ (∃ b, afi = some b ∧ b ≠ 0) ∨ mask.toNat % 2 ^ ml ≠ h.ident.uid.toNat % 2 ^ ml →
    gives (.inventory r afi sl ml mask) none) ∧
  (h.tag.quiet = false → r.twoSub = false → (afi = none ∨ afi = some 0) → mask.toNat % 2 ^ ml = h.ident.uid.toNat % 2 ^ ml →
    gives (.inventory r afi sl ml mask) (some (0 :: 0 :: (be 8 h.ident.uid.toNat).reverse)))

/-- Power-up and reset (R381, R446 to R448, R467, R472): VKEEP in range starts the sentinel; bay 0 starts 1 ms later, each bay's
dies are powered as its rails are good, and a bay that is not good in 5 ms is left off; with bay 0 good and RST_n high the
hub is at BOOT; in Keep and after a shutdown at 130.0 °C no bay starts; RST_n low, and the loss of VKEEP, reset it with the
coupler closed, and keep the seal, the logbook and the version floor; a package reset and the boot watchdog's do the same and
start again. Start-up to FULL (R353, R468, R469, R472, R477, R478): the boot ROM brings the dies that report into service,
those whose cores both failed frozen, and gives the lead role to the lowest whose core runs; a die that has not reported in
250 ms is out of service; the firmware starts once; ROUGH follows BOOT alone, enables skim on every powered channel and
begins the start-up pass; FULL waits for its conditions and is DEGRADED where a die or a lane of P00 or P01 is missing;
STARTUP_LATE ends the wait. It says that these complete: PACKAGE_RESET, VKEEP, VKEEP_LOSS, BAY_RAILS_GOOD, BAY_TIMEOUT,
RST_N, BOOT_ROM, DIE_BOOT_TIMEOUT, BOOT_WATCHDOG, FIRMWARE_START, ROUGH, FULL, STARTUP_LATE, BAY_0_STARTS. -/
def Obligations.StartAndReset : Prop :=
  (∀ (s : State) (b : Nat) (level va vb : Bool),
  let now := s.hub.clk.elapsed
  let h := s.hub
  let kept (t : Machine.State) : Prop := t.hub.flt.closed = true ∧ t.hub.fseal.st = h.fseal.st ∧ t.hub.fseal.key = h.fseal.key ∧
    t.hub.fseal.session = false ∧ t.hub.tag.mem = h.tag.mem ∧ t.hub.flash.floor = h.flash.floor ∧ t.hub.flash.a = h.flash.a ∧
    t.hub.flash.b = h.flash.b ∧ t.hub.ident = h.ident ∧ t.hub.mgmt = Mgmt.reset ∧ t.hub.tm = Tm.reset
  (h.pwr.vkeepOk = true → exec .vkeep s = .next s) ∧
  (h.pwr.vkeepOk = false → exec .vkeep s = .next ⟨{ h with
    pwr := { h.pwr with vkeepOk := true, vkeepAt := now }
    fseal := { h.fseal with lockUntil := h.fseal.lockUntil.map (· + (now - h.pwr.vkeepAt)) } }, s.pending⟩) ∧
  (h.pwr.vkeepOk = false → exec .vkeepLoss s = .next s) ∧
  (h.pwr.vkeepOk = true → ∃ t, exec .vkeepLoss s = .next t ∧ kept t ∧ t.hub.pwr.vkeepOk = false ∧ t.hub.pwr.thermalOff = none ∧ t.hub.boot.bays = [] ∧
    t.hub.boot.level = .off ∧ t.hub.tag.ring = [] ∧ (∀ x ∈ t.hub.dies, x.rails = false)) ∧
  (h.pwr.vkeepOk = false ∨ h.boot.bays ≠ [] ∨ now < h.pwr.vkeepAt + 1000000 ∨ h.inKeep = true ∨ h.pwr.stays = true →
    exec .bay0Starts s = .next s) ∧
  (h.pwr.vkeepOk = true → h.boot.bays = [] → h.pwr.vkeepAt + 1000000 ≤ now → h.inKeep = false → h.pwr.stays = false → exec .bay0Starts s = .next ⟨{ h with
    boot := { h.boot with bays := [(0, now)] }
    pwr := { h.pwr with st := .run, keepAt := none } }, s.pending⟩) ∧
  (h.bayStart b = none → exec (.bayRailsGood b) s = .next s ∧ exec (.bayTimeout b) s = .next s) ∧
  ((h.die (2 * b)).rails = true → exec (.bayRailsGood b) s = .next s ∧ exec (.bayTimeout b) s = .next s) ∧
  (∀ u, h.bayStart b = some u → (now < u ∨ u + 5000000 < now) → exec (.bayRailsGood b) s = .next s) ∧
  ((h.die (2 * b)).faulted = true → exec (.bayRailsGood b) s = .next s ∧ exec (.bayTimeout b) s = .next s) ∧
  (∀ u, h.bayStart b = some u → Shaped h → b < h.nBays → u ≤ now → now ≤ u + 5000000 → (h.die (2 * b)).rails = false →
    (h.die (2 * b)).faulted = false → ∃ t,
    exec (.bayRailsGood b) s = .next t ∧ (t.hub.die (2 * b)).rails = true ∧ (t.hub.die (2 * b + 1)).rails = true ∧
    (b + 1 < h.nBays → (b + 1, now + 2000000) ∈ t.hub.boot.bays) ∧
    (b = 0 → h.boot.tr = none → h.boot.rst = true → h.pwr.vkeepOk = true → t.hub.boot.tr = some now ∧ t.hub.boot.level = .boot)) ∧
  (∀ u, h.bayStart b = some u → now < u + 5000000 → exec (.bayTimeout b) s = .next s) ∧
  (∀ u, h.bayStart b = some u → Shaped h → b < h.nBays → u + 5000000 ≤ now → (h.die (2 * b)).rails = false →
    (h.die (2 * b)).faulted = false → ∃ t, exec (.bayTimeout b) s = .next t ∧ (t.hub.die (2 * b)).faulted = true ∧
    (t.hub.die (2 * b + 1)).faulted = true ∧ t.hub.flt.retired = h.flt.retired ++ [unitDie (2 * b), unitDie (2 * b + 1)]) ∧
  (h.boot.tr = none → ((h.die 0).rails = false ∨ h.pwr.vkeepOk = false) → ∃ t, exec (.rstN ⟨true, true, vb⟩) s = .next t ∧
    t.hub.boot.rst = true ∧ t.hub.boot.tr = none ∧ t.hub.pwr.vioB = vb) ∧
  (level = false ∨ va = false → ∃ t, exec (.rstN ⟨level, va, vb⟩) s = .next t ∧ kept t ∧ t.hub.boot.rst = false ∧ t.hub.boot.level = .off ∧
    t.hub.pwr.stays = false ∧
    t.hub.boot.tr = none ∧ t.hub.pwr.vioA = va ∧ t.hub.pwr.vioB = vb ∧ (Shaped h → t.hub.dies.map Die.rails = h.dies.map Die.rails)) ∧
  (h.boot.tr = none → (h.die 0).rails = true → h.pwr.vkeepOk = true → ∃ t, exec (.rstN ⟨true, true, vb⟩) s = .next t ∧
    t.hub.boot.rst = true ∧ t.hub.boot.tr = some now ∧ t.hub.boot.level = .boot ∧ t.hub.pwr.vioA = true ∧ t.hub.pwr.vioB = vb) ∧
  (∀ u, h.boot.tr = some u → h.boot.rst = true → h.pwr.vioA = true → h.pwr.vioB = vb → exec (.rstN ⟨true, true, vb⟩) s = .next s) ∧
  (h.boot.resetAt = none → exec .packageReset s = .next s) ∧
  (∀ u, h.boot.resetAt = some u → (now < u ∨ h.mgmt.owes [0x0103, 0x0106] = true) → exec .packageReset s = .next s) ∧
  (∀ u, h.boot.resetAt = some u → u ≤ now → h.mgmt.owes [0x0103, 0x0106] = false → ∃ t, exec .packageReset s = .next t ∧ kept t ∧ t.hub.boot.resetAt = none ∧
    t.hub.boot.running = false) ∧
  (∀ u, h.boot.resetAt = some u → u ≤ now → h.mgmt.owes [0x0103, 0x0106] = false → Shaped h → h.boot.rst = true → (h.die 0).rails = true → h.pwr.vkeepOk = true → ∃ t,
    exec .packageReset s = .next t ∧ kept t ∧ t.hub.boot.level = .boot ∧ t.hub.boot.tr = some now ∧ t.hub.boot.resetAt = none) ∧
  (h.boot.watchdog = none ∨ h.boot.level ≠ .boot → exec .bootWatchdog s = .next s) ∧
  (∀ u, h.boot.watchdog = some u → now < u + 1000000000 → exec .bootWatchdog s = .next s) ∧
  (∀ u, h.boot.watchdog = some u → u + 1000000000 ≤ now → h.boot.level = .boot → ∃ t, exec .bootWatchdog s = .next t ∧ kept t ∧
    t.hub.boot.watchdog = none)) ∧
  (∀ (s : State) (coreA coreB dead : List Nat) (ok : Bool) (sfdp : Option Sfdp) (d : Nat),
  let now := s.hub.clk.elapsed
  let h := s.hub
  let bad := (List.range h.nDies).any h.dieDown || ((h.prt 0).lanes ++ (h.prt 1).lanes).any (·.retired)
  let reports (i : Nat) : Prop := i < h.nDies ∧ i ∈ coreA ++ coreB ++ dead ∧ (h.die i).rails = true ∧ (h.die i).faulted = false ∧
    (h.die i).cores.reported = false
  let brought (t : Machine.State) (i : Nat) : Prop :=
    (t.hub.die i).inService = true ∧ (t.hub.die i).frozen = dead.contains i ∧ (t.hub.die i).cores.onB = coreB.contains i
  (h.boot.tr = none ∨ (h.boot.running = false ∧ h.boot.level ≠ .boot) → exec (.bootRom coreA coreB dead ⟨ok, sfdp⟩) s = .next s) ∧
  (∀ u, h.boot.tr = some u → h.boot.running = true → u + 250000000 ≤ now → exec (.bootRom coreA coreB dead ⟨ok, sfdp⟩) s = .next s) ∧
  (∀ u, Shaped h → h.boot.tr = some u → h.boot.running = true → now < u + 250000000 → ∃ t,
    exec (.bootRom coreA coreB dead ⟨ok, sfdp⟩) s = .next t ∧ ∀ i, reports i → brought t i) ∧
  (∀ u, h.boot.tr = some u → h.boot.level = .boot → h.boot.running = false → Shaped h → ∃ t,
    exec (.bootRom coreA coreB dead ⟨ok, sfdp⟩) s = .next t ∧ (now < u + 250000000 → ∀ i, reports i → brought t i) ∧
    (u + 250000000 ≤ now → t.hub.dies = h.dies) ∧
    (∀ i < t.hub.boot.lead, t.hub.coreRuns i = false) ∧ t.hub.flash.present = ok ∧
    (sfdp = none → t.hub.flash.read = ⟨0x03, 3, false, 10⟩) ∧
    (∀ a4, sfdp = some ⟨a4, none⟩ → t.hub.flash.read = ⟨0x03, if a4 then 4 else 3, false, 25⟩) ∧
    (∀ a4 c n, sfdp = some ⟨a4, some (c, n)⟩ → t.hub.flash.read =
      if n ≤ Config.bootDummy then ⟨c, if a4 then 4 else 3, true, 50⟩ else ⟨0x03, if a4 then 4 else 3, false, 25⟩)) ∧
  (h.boot.tr = none ∨ h.nDies ≤ d ∨ (h.die d).cores.reported = true ∨ (h.die d).faulted = true → exec (.dieBootTimeout d) s = .next s) ∧
  (∀ u, h.boot.tr = some u → now < u + 250000000 → exec (.dieBootTimeout d) s = .next s) ∧
  (∀ u, h.boot.tr = some u → Shaped h → d < h.nDies → u + 250000000 ≤ now → (h.die d).cores.reported = false → (h.die d).faulted = false →
    ∃ t, exec (.dieBootTimeout d) s = .next t ∧ (t.hub.die d).faulted = true ∧ t.hub.flt.retired = h.flt.retired ++ [unitDie d]) ∧
  (h.boot.watchdog = none ∨ h.boot.running = true ∨ (h.die 0).inService = false → exec (.firmwareStart ok) s = .next s) ∧
  (h.boot.watchdog.isSome = true → h.boot.running = false → (h.die 0).inService = true → ∃ t, exec (.firmwareStart ok) s = .next t ∧
    t.hub.boot.running = true ∧ t.hub.boot.notes = [] ∧ (∀ x ∈ t.hub.reps, x.hiZ = false)) ∧
  (h.boot.running = false ∨ h.boot.level ≠ .boot → exec .rough s = .next s) ∧
  (Shaped h → h.boot.running = true → h.boot.level = .boot → ∃ t, exec .rough s = .next t ∧ t.hub.boot.level = .rough ∧
    t.hub.boot.watchdog = none ∧ (∀ (c : Nat) x, t.hub.chans[c]? = some x → (h.die (chDie c)).inService = true →
      (h.die (chDie c)).frozen = false → h.powered (chQuad c) = true → x.skimEn = true) ∧ (h.eligible ≠ [] → t.hub.cal.pass = h.eligible) ∧
    (h.eligible = [] → h.cal.slots = [] → t.hub.cal.passDone = true)) ∧
  (h.boot.level.serves = false ∨ (h.boot.level = .rough ∧ h.cal.passDone = false) → exec .full s = .next s) ∧
  (h.boot.level.serves = true → h.boot.cfgApplied = true → (h.boot.level ≠ .rough ∨ h.boot.p00Settled = false) →
    exec .full s = .next s) ∧
  (h.boot.level.serves = true → h.cal.passDone = true → h.boot.cfgApplied = false → ∃ t, exec .full s = .next t ∧
    t.hub.boot.cfgApplied = true ∧ t.hub.boot.p00Released = true) ∧
  (h.boot.level = .rough → h.cal.passDone = true → h.boot.cfgApplied = true → h.boot.p00Settled = true → ∃ t, exec .full s = .next t ∧
    t.hub.boot.level = (if bad then .degraded else .full) ∧ t.hub.tm = h.tm ∧ t.hub.chans = h.chans) ∧
  (h.boot.tr = none ∨ h.boot.level ≠ .rough → exec .startupLate s = .next s) ∧
  (∀ u, h.boot.tr = some u → now < u + h.ident.variant.bound → exec .startupLate s = .next s) ∧
  (∀ u, h.boot.tr = some u → h.boot.level = .rough → u + h.ident.variant.bound ≤ now → ∃ t, exec .startupLate s = .next t ∧
    t.hub.boot.late = true ∧ t.hub.boot.level = (if bad then .degraded else .full) ∧ (h.hk.dropped = 0 → t.hub.hk.rseq = h.hk.rseq + 1)))

/-- The SYS commands (R365, R381, R382, R424, R473, R476): SYS_INFO gives the part's numbers; SYS_RESET takes its constant alone;
the state of a request is found by its id and tag among those that wait, those that have started and the cache, and NOT_FOUND
else; a configuration is saved with the next generation, each copy marked as it verifies, and answers FAULT where one does
not, without a flash and after the last generation; an image is written into a slot that is not the running one, or in
network boot without a flash into memory; a commit of an image that does not hold answers BAD_ARG, or SEALED for its
signature on a SEALED part, and of one that does makes it the newest with its three tries, to be booted at the next reset, or
starts it from memory. It says that these complete: SYS_INFO, SYS_REQSTAT, SYS_RESET, SYS_CFG_SAVE, SYS_FW_WRITE,
SYS_FW_COMMIT. -/
def Obligations.SystemCommands : Prop := ∀ (s : State) (w : Word) (id tag img off : Nat) (data : Bytes),
  let h := s.hub
  let now := h.clk.elapsed
  let same (x : Request) : Bool := x.hdr.reqId == id && x.hdr.tag == tag
  let verified (i : Nat) : Bool := Config.flashVerify h.flash.verified i
  let inSlot : Prop := off + data.length ≤ 128 ∨ (512 ≤ off ∧ off + data.length ≤ 2097152)
  let own : Prop := 1 < img ∨ h.boot.slot = some img
  let source := if h.flash.present then h.flash.slot img else h.flash.staged
  (cmdInfo 0x0102 = some ⟨0, true, false, false, false⟩) ∧
  (exec .sysInfo s = .next ⟨h.ok (be 6 h.ident.serial.toNat ++ be 1 h.ident.variant.number ++ be 1 0xB1 ++ be 4 h.dbw.fwrel.toNat ++
    be 1 h.boot.level.code ++ be 1 (h.dieBits Die.inService) ++ be 1 h.boot.lead ++ [0]), s.pending⟩) ∧
  (w ≠ 0xA5A55A5A → exec (.sysReset w) s = .next ⟨h.refuse St.badArg, s.pending⟩) ∧
  (exec (.sysReset 0xA5A55A5A) s = .next ⟨({ h with
    boot := { h.boot with resetAt := some (now + 10000000) } }).ok [], s.pending⟩) ∧
  (h.mgmt.queue.any same = true → exec (.sysReqstat id tag) s = .next ⟨h.ok [0, 0, 0, 0], s.pending⟩) ∧
  (h.mgmt.queue.any same = false → h.mgmt.started.any same = true → exec (.sysReqstat id tag) s = .next ⟨h.ok [1, 0, 0, 0], s.pending⟩) ∧
  (h.mgmt.queue.any same = false → h.mgmt.started.any same = false →
    ((∀ e ∈ h.mgmt.cache, e.reqId = id → e.tag = tag → e.at' + 120000000000 ≤ now) →
      exec (.sysReqstat id tag) s = .next ⟨h.refuse St.notFound, s.pending⟩) ∧
    (∀ e ∈ h.mgmt.cache, e.reqId = id → e.tag = tag → now < e.at' + 120000000000 →
      (∀ k ∈ h.mgmt.cache, k.reqId = id → k.tag = tag → k = e) →
      exec (.sysReqstat id tag) s = .next ⟨h.ok (be 1 (if e.status = St.abandoned then 3 else 2) ++ [0] ++ be 2 e.status), s.pending⟩)) ∧
  (h.flash.present = false ∨ h.flash.topGen = 0xFFFFFFFF → exec .sysCfgSave s = .next ⟨h.refuse St.fault, s.pending⟩) ∧
  (h.flash.present = true → h.flash.topGen < 0xFFFFFFFF → ∃ t, exec .sysCfgSave s = .next t ∧
    t.hub.mgmt.reply = (if verified 0 && verified 1 && verified 2 then ⟨St.ok, 0, 255, be 4 (h.flash.topGen + 1)⟩ else ⟨St.fault, 0, 255, []⟩) ∧
    t.hub.flash.copies.length = 3 ∧ (∀ i c, t.hub.flash.copies[i]? = some c → ∃ x, c = some x ∧ x.crcOk = verified i ∧
      x.gen = BitVec.ofNat 32 (h.flash.topGen + 1) ∧ x.links = h.ports.map Port.cfg ∧ x.descs = h.chans.map Chan.latest ∧
      x.sep = [h.sep.ctl, h.sep.tick, h.sep.wait, h.sep.fb]) ∧ t.hub.chans = h.chans ∧ t.hub.tm = h.tm) ∧
  (own ∨ 4072 < data.length ∨ ¬inSlot → exec (.sysFwWrite img off data) s = .next ⟨h.refuse St.badArg, s.pending⟩) ∧
  (¬own → data.length ≤ 4072 → inSlot →
    (h.flash.present = false → h.boot.netboot = false → exec (.sysFwWrite img off data) s = .next ⟨h.refuse St.fault, s.pending⟩) ∧
    (h.flash.present = false → h.boot.netboot = true → ∃ t i, exec (.sysFwWrite img off data) s = .next t ∧
      t.hub.mgmt.reply = ⟨St.ok, 0, 255, []⟩ ∧ t.hub.flash = { h.flash with staged := some i } ∧
      (off + data.length ≤ 128 → 0 < data.length → off ≤ (imageOr 2 h.flash.staged).header.length →
        (i.header.drop off).take data.length = data)) ∧
    (h.flash.present = true → ∃ t i, exec (.sysFwWrite img off data) s = .next t ∧ t.hub.mgmt.reply = ⟨St.ok, 0, 255, []⟩ ∧
      t.hub.flash.slot img = some i ∧ t.hub.flash.slot (1 - img) = h.flash.slot (1 - img) ∧
      (off + data.length ≤ 128 → 0 < data.length → off ≤ (imageOr img (h.flash.slot img)).header.length →
        (i.header.drop off).take data.length = data) ∧
      (512 ≤ off → i.header = (imageOr img (h.flash.slot img)).header ∧ (i.body.drop (off - 512)).take data.length = data))) ∧
  (own → exec (.sysFwCommit img) s = .next ⟨h.refuse St.badArg, s.pending⟩) ∧
  (¬own → h.flash.present = false → h.boot.netboot = false → exec (.sysFwCommit img) s = .next ⟨h.refuse St.fault, s.pending⟩) ∧
  (¬own → (h.flash.present = true ∨ h.boot.netboot = true) →
    (source = none → exec (.sysFwCommit img) s = .next ⟨h.refuse St.badArg, s.pending⟩) ∧
    (∀ i, source = some i →
      (Image.sound i = false ∨ (Image.signedFor i h.fseal.st = false ∧ h.fseal.st ≠ 2) ∨
        (Image.signedFor i h.fseal.st = true ∧ Image.valid i h.fseal.st h.flash.floor = false) →
        exec (.sysFwCommit img) s = .next ⟨h.refuse St.badArg, s.pending⟩) ∧
      (Image.sound i = true → Image.signedFor i h.fseal.st = false → h.fseal.st = 2 →
        exec (.sysFwCommit img) s = .next ⟨h.refuse St.isSealed, s.pending⟩) ∧
      (Image.valid i h.fseal.st h.flash.floor = true → ∃ t j, exec (.sysFwCommit img) s = .next t ∧
        t.hub.mgmt.reply = ⟨St.ok, 0, 255, []⟩ ∧ j.tryBits = 0x07 ∧ j.confirmed = 0xFF ∧ j.body = i.body ∧ j.header = i.header ∧
        (∀ g, h.runningGen = some g → j.gen = g + 1) ∧
        (h.flash.present = true → t.hub.flash.slot img = some j ∧ t.hub.flash.slot (1 - img) = h.flash.slot (1 - img) ∧
          t.hub.boot = { h.boot with resetAt := if h.boot.netboot then some (now + 10000000) else h.boot.resetAt }) ∧
        (h.flash.present = false → t.hub.flash = { h.flash with staged := some j } ∧
          t.hub.boot = { h.boot with netboot := false, slot := none, tr := some now, watchdog := some now }))))

/-- The field seal (R309, R401, R479 to R481, R483, R484, Table 18-6): a nonce is given outside a lockout; unsealing needs a
nonce that is held, uses it up, and opens a session only with the right code; a failure counts, and from the fifth one a
lockout runs, whose minutes left are announced as they change; the stored state moves only as Table 18-6 permits, and SEALED
only with a key; a key is taken where the part is not sealed or a session is open. The test access port (R482, Table 18-7):
each instruction puts its own register in force and touches nothing else; a debug instruction of a part that is sealed
without a session, or a code that is none, selects BYPASS. It says that these complete: SEAL_GET, SEAL_NONCE, SEAL_UNSEAL,
SEAL_CLOSE, SEAL_SET, SEAL_KEY_SET, NONCE_EXPIRY, LOCKOUT, EXTEST, IDCODE, SAMPLE_PRELOAD, HIGHZ, CLAMP_INSTRUCTION,
EXTEST_PULSE, EXTEST_TRAIN, DEBUG_INSTRUCTION, BYPASS. -/
def Obligations.SealAndTestPort : Prop :=
  (∀ (s : State) (mac key : Bytes) (st : Nat),
  let h := s.hub
  let q := h.fseal
  (exec .sealGet s = .next ⟨h.ok (be 4 h.sealWord.toNat), s.pending⟩) ∧
  (h.lockedOut = true → exec .sealNonce s = .next ⟨h.refuse St.isSealed, s.pending⟩) ∧
  (h.lockedOut = false → ∃ n, exec .sealNonce s = .next ⟨({ h with
    fseal := { q with nonce := some (n, h.clk.elapsed), nonces := q.nonces + 1 } }).ok (be 16 n.toNat), s.pending⟩) ∧
  (h.nonceHeld = none → exec (.sealUnseal mac) s = .next ⟨({ h with
    fseal := { q with nonce := none } }).refuse St.notFound, s.pending⟩) ∧
  (∀ n k, h.nonceHeld = some n → q.key = some k → mac = macBytes k (be 16 n.toNat ++ be 6 h.ident.serial.toNat) → ∃ t,
    exec (.sealUnseal mac) s = .next t ∧ t.hub.mgmt.reply = ⟨St.ok, 0, 255, []⟩ ∧ t.hub.fseal.nonce = none ∧ t.hub.fseal.fails = 0 ∧
    t.hub.fseal.session = (q.session || q.st == 2) ∧ t.hub.fseal.st = q.st) ∧
  (∀ n, h.nonceHeld = some n → (∀ k, q.key = some k → mac ≠ macBytes k (be 16 n.toNat ++ be 6 h.ident.serial.toNat)) → ∃ t,
    exec (.sealUnseal mac) s = .next t ∧ t.hub.mgmt.reply = ⟨St.isSealed, 0, 255, []⟩ ∧ t.hub.fseal.nonce = none ∧
    t.hub.fseal.fails = min (q.fails + 1) 255 ∧ t.hub.fseal.session = q.session ∧ t.hub.fseal.st = q.st ∧
    (q.fails < 4 → t.hub.fseal.lockUntil = q.lockUntil) ∧
    (q.fails = 4 → t.hub.fseal.lockUntil = some (h.clk.elapsed + 10 * 60000000000)) ∧
    (4 ≤ q.fails → t.hub.fseal.lockUntil = some (h.clk.elapsed + min (10 * 2 ^ (min (q.fails + 1) 255 - 5)) 1440 * 60000000000))) ∧
  (∃ t, exec .sealClose s = .next t ∧ t.hub.mgmt.reply = ⟨St.ok, 0, 255, []⟩ ∧
    t.hub.fseal = { q with session := false, lockSeen := h.lockMin } ∧ (t.hub.sealWord ≠ h.sealWord → t.hub.dbw.irq.getLsbD 6 = true)) ∧
  (2 < st ∨ (st = 2 ∧ q.key = none) → exec (.sealSet st) s = .next ⟨h.refuse St.badArg, s.pending⟩) ∧
  (st ≤ 2 → (st = 2 → q.key.isSome = true) → st = q.st → exec (.sealSet st) s = .next ⟨h.ok [], s.pending⟩) ∧
  (st ≤ 2 → (st = 2 → q.key.isSome = true) → st ≠ q.st → ¬ (q.st = 0 ∧ st = 1) → ¬ (q.st = 1 ∧ st = 2) →
    ¬ (q.st = 2 ∧ q.session = true ∧ st = 1) → exec (.sealSet st) s = .next ⟨h.refuse St.isSealed, s.pending⟩) ∧
  ((q.st = 0 ∧ st = 1) ∨ (q.st = 1 ∧ st = 2 ∧ q.key.isSome = true) ∨ (q.st = 2 ∧ q.session = true ∧ st = 1) → ∃ t,
    exec (.sealSet st) s = .next t ∧ t.hub.mgmt.reply = ⟨St.ok, 0, 255, []⟩ ∧ t.hub.fseal = { q with st := st, session := false, lockSeen := h.lockMin } ∧
    t.hub.dbw.irq.getLsbD 6 = true ∧ (st = 2 → 0x40 ≤ h.tap.ir → h.tap.ir ≤ 0x4F → t.hub.tap = { h.tap with dr := 0 }) ∧
    ((∀ x ∈ h.ports, x.manual = false) → h.hk.dropped = 0 → t.hub.hk.rseq = h.hk.rseq + 1)) ∧
  (q.st = 2 → q.session = false → exec (.sealKeySet key) s = .next ⟨h.refuse St.isSealed, s.pending⟩) ∧
  ((q.st ≠ 2 ∨ q.session = true) → ∃ t, exec (.sealKeySet key) s = .next t ∧ t.hub.mgmt.reply = ⟨St.ok, 0, 255, []⟩ ∧
    t.hub.fseal = { q with key := some key, fails := 0, lockUntil := none, lockSeen := 0 }) ∧
  (h.nonceHeld.isSome = true → exec .nonceExpiry s = .next s) ∧
  (h.nonceHeld = none → exec .nonceExpiry s = .next ⟨{ h with fseal := { q with nonce := none } }, s.pending⟩) ∧
  (q.lockUntil = none ∨ h.pwr.vkeepOk = false → exec .lockout s = .next s) ∧
  (∀ u, q.lockUntil = some u → h.pwr.vkeepOk = true →
    (u ≤ h.clk.elapsed → q.lockSeen ≠ 0 → exec .lockout s = .next ⟨{ h with
      fseal := { q with lockUntil := none, lockSeen := 0 }
      dbw := { h.dbw with irq := h.dbw.irq ||| 0x40 } }, s.pending⟩) ∧
    (u ≤ h.clk.elapsed → q.lockSeen = 0 → exec .lockout s = .next ⟨{ h with fseal := { q with lockUntil := none } }, s.pending⟩) ∧
    (h.clk.elapsed < u → h.lockMin ≠ q.lockSeen → exec .lockout s = .next ⟨{ h with
      fseal := { q with lockSeen := h.lockMin }
      dbw := { h.dbw with irq := h.dbw.irq ||| 0x40 } }, s.pending⟩) ∧
    (h.clk.elapsed < u → h.lockMin = q.lockSeen → exec .lockout s = .next s))) ∧
  (∀ (s : State) (code : Nat),
  let port (c : Instr) (ir pins : Nat) (dr : Word) : Prop := exec c s = .next ⟨{ s.hub with tap := ⟨ir, dr, pins, s.hub.tap.cells⟩ }, s.pending⟩
  port .extest 0x00 1 0 ∧ port .idcode 0x01 0 s.hub.ident.idcode ∧ port .highz 0x05 2 0 ∧ port .clampInstruction 0x06 3 0 ∧
  port .extestPulse 0x09 4 0 ∧ port .extestTrain 0x0A 5 0 ∧ port .bypass 0xFF 0 0 ∧
  (∃ t, exec .samplePreload s = .next t ∧ t.hub.tap.ir = 0x02 ∧ t.hub.tap.pinMode = 0 ∧ t.hub.tap.cells = s.hub.fresh + 1 ∧
    t.hub.mgmt = s.hub.mgmt) ∧
  (s.hub.fseal.st = 2 → s.hub.fseal.session = false → port (.debugInstruction code) code 0 0) ∧
  (code < 0x40 ∨ 0x4F < code → port (.debugInstruction code) code 0 0) ∧
  ((s.hub.fseal.st ≤ 1 ∨ (s.hub.fseal.st = 2 ∧ s.hub.fseal.session = true)) → 0x40 ≤ code → code ≤ 0x4F → ∃ t, exec (.debugInstruction code) s = .next t ∧
    t.hub.tap.ir = code ∧ t.hub.tap.pinMode = 0 ∧ t.hub.tap.cells = s.hub.tap.cells ∧ t.hub.mgmt = s.hub.mgmt))

/-- The doorbell window (R131, R354, R356, R371 to R375, R427, Tables 13-5 to 13-17): while the hardware is not served nothing
happens; SUBMIT and RELEASE move their pointers, or are recorded in MB_ERR; a read of MB_ERR or FAULT_SUMMARY gives and
clears it; interrupt bits clear where one is written; a write of a register does what the register's access codes say:
DBW_DOORBELL releases, then submits, CONTROL of the time registers cancels, then arms; one that is not aligned, or where
nothing is writable, is recorded; a transaction's words go to addresses that advance within their block, one with another
command byte is ignored, and a read shows the words that it clocks out; a word of the mailbox-in window reads as it was
written, and an occupied window takes none; the status byte gives LEVEL and the flags, and clears ERR. It says that these
complete: SUBMIT, RELEASE, MB_ERR, NEW_REC, DBW_IRQ_STAT, REGISTER_WRITE, HSPI_STATUS. -/
def Obligations.DoorbellWindow : Prop := ∀ (s : State) (w : Word) (a n : Nat) (op : HspiOp) (quad : Bool) (l : List Word) (c : Byte),
  let h := s.hub
  let b := h.dbw
  let err (t : Machine.State) (cause : Nat) : Prop := t.hub.dbw.errCause = cause ∧ t.hub.dbw.errCount = satInc 16 b.errCount ∧
    t.hub.dbw.errSeen = true ∧ t.hub.dbw.irq = b.irq ||| 0x04 ∧ t.hub.mgmt = h.mgmt ∧ t.hub.tm = h.tm ∧ t.hub.dbw.mbi = b.mbi ∧
    t.hub.dbw.irqEn = b.irqEn
  let writable : List Nat := [0x0C, 0x10, 0x14, 0x28, 0x54, 0x58, 0x5C, 0x60]
  let wr (a : Nat) : Instr := .registerWrite a (.write quad [w])
  let reads (a : Nat) (v : Word) : Prop := exec (.registerWrite a (.read quad 1)) s = .next ⟨h.shown [v], s.pending⟩
  let freed := if bitOf w 1 then h.release else h
  let free := if bitOf w 1 then h.cancelLoad else h
  (h.hspiOn = false → exec .submit s = .next s ∧ exec .release s = .next s ∧ exec .mbErr s = .next s ∧ exec .newRec s = .next s ∧
    exec (.dbwIrqStat w) s = .next s ∧ exec (.registerWrite a op) s = .next s ∧ exec .hspiStatus s = .next s) ∧
  (h.hspiOn = true →
    (b.mbiHead = b.mbiTail → exec .submit s = .next ⟨{ h with dbw := { b with mbiTail := b.mbiTail + 1 } }, s.pending⟩) ∧
    (b.mbiHead ≠ b.mbiTail → ∃ t, exec .submit s = .next t ∧ err t 3 ∧ t.hub.dbw.mbiTail = b.mbiTail) ∧
    (∀ r l, h.mgmt.outbox = r :: l → exec .release s = .next ⟨{ h with
      mgmt := { h.mgmt with outbox := l }
      dbw := { b with mboHead := b.mboHead + 1 } }, s.pending⟩) ∧
    (h.mgmt.outbox = [] → ∃ t, exec .release s = .next t ∧ err t 7) ∧
    (exec .mbErr s = .next ⟨{ h with
      dbw := { b with errCause := 0, errCount := 0, readout := [BitVec.ofNat 32 (b.errCause * 2 ^ 24 + b.errCount)] } }, s.pending⟩) ∧
    (exec .newRec s = .next ⟨{ h with
      hk := { h.hk with newRec := 0 }
      dbw := { b with readout := [h.faultSummary] } }, s.pending⟩) ∧
    (∃ t, exec (.dbwIrqStat w) s = .next t ∧ t.hub = { h with dbw := { b with irq := t.hub.dbw.irq } } ∧
      ∀ i < 8, t.hub.dbw.irq.getLsbD i = (b.irq.getLsbD i && !(decide (2 ≤ i) && w.getLsbD i))) ∧
    (a % 4 ≠ 0 → ∀ o ∈ [HspiOp.write quad l, .read quad n], ∃ t, exec (.registerWrite a o) s = .next t ∧ err t 5) ∧
    (c ∉ [0x05, 0x0B, 0x6B, 0x02, 0x32] → exec (.registerWrite a (.other c)) s = .next s) ∧
    (a % 4 = 0 → ∃ t, exec (wr a) s = .next t ∧ ∀ q,
      exec (.registerWrite a (.write q (w :: l))) s = exec (.registerWrite (hspiNext a) (.write q l)) t) ∧
    (a % 4 = 0 → ∃ t, exec (.registerWrite a (.read quad n)) s = .next t ∧ t.hub.dbw.readout.length = n) ∧
    (hspiNext a = if a < 0x1000 then a / 64 * 64 + (a + 4) % 64 else if a < 0x3000 then a / 4096 * 4096 + (a + 4) % 4096 else a) ∧
    reads 0x10 b.irqEn ∧ reads 0x0C h.irqStat ∧ reads 0x28 b.mbiCrc ∧ reads 0x54 h.timeStatus ∧ reads 0x5C h.tm.ldLo ∧ reads 0x88 h.sealWord ∧
    (a < 1024 → reads (0x1000 + 4 * a) (b.mbiWord a) ∧ reads (0x2000 + 4 * a) (wordAt (h.mboBytes ++ pad 4) (4 * a))) ∧
    (a % 4 = 0 → a ∉ writable → (a < 0x1000 ∨ 0x2000 ≤ a) → ∃ t, exec (wr a) s = .next t ∧ err t 6) ∧
    (exec (wr 0x0C) s = exec (.dbwIrqStat w) s) ∧
    (exec (wr 0x10) s = .next ⟨{ h with dbw := { b with irqEn := w &&& 0x3FF } }, s.pending⟩) ∧
    (exec (wr 0x14) s = .next ⟨if bitOf w 0 then freed.submit else freed, s.pending⟩) ∧
    (exec (wr 0x28) s = .next ⟨{ h with dbw := { b with mbiCrc := w } }, s.pending⟩) ∧
    (exec (wr 0x54) s = .next ⟨{ h with
      tm := { h.tm with refused := h.tm.refused && !bitOf w 16, stepped := h.tm.stepped && !bitOf w 15 } }, s.pending⟩) ∧
    (exec (wr 0x58) s = .next ⟨{ h with tm := { h.tm with ldHi := fld w 15 0 } }, s.pending⟩) ∧
    (exec (wr 0x5C) s = .next ⟨{ h with tm := { h.tm with ldLo := w } }, s.pending⟩) ∧
    (exec (wr 0x60) s = .next ⟨if bitOf w 0 then free.arm else free, s.pending⟩) ∧
    (a < 1024 → b.mbiHead = b.mbiTail → Mailbox.wf b.mbi → ∃ t, exec (wr (0x1000 + 4 * a)) s = .next t ∧
      t.hub.dbw.mbiWord a = w ∧ (∀ i, i ≠ a → t.hub.dbw.mbiWord i = b.mbiWord i) ∧ Mailbox.wf t.hub.dbw.mbi ∧
      t.hub.mgmt = h.mgmt ∧ t.hub.dbw.irq = b.irq) ∧
    (a < 1024 → b.mbiHead ≠ b.mbiTail → ∃ t, exec (wr (0x1000 + 4 * a)) s = .next t ∧ err t 4) ∧
    (∃ t v, exec .hspiStatus s = .next t ∧ t.hub.dbw.readout = [v] ∧ t.hub.dbw.errSeen = false ∧ v.toNat / 32 = h.boot.level.code ∧
      bitOf v 4 = true ∧ bitOf v 3 = b.errSeen ∧ bitOf v 2 = h.irqLow ∧ bitOf v 1 = (b.mbiHead == b.mbiTail) ∧
      bitOf v 0 = (b.mboHead != b.mboTail) ∧ t.hub.dbw.irq = b.irq ∧ t.hub.mgmt = h.mgmt))

/-- Requests come in (R349, R355 to R357, R359, R363, R369, R421, R475, Tables 12-7, 12-10): one that is new and whole takes a
place at the end of the queue, by the mailbox or by an SVC packet, where its class has room and no longer wait than its
limit; while no core manages it takes a place uncompared and is not answered; one that is known is answered from the cache,
or DUPLICATE_TAG for another opcode, one that is unknown UNSUPPORTED, one without room or that network boot does not serve
BUSY; one too long or with a bad CRC is recorded in MB_ERR, and counted as SVC_DROP on P00; a packet for another hub goes on;
a direct access writes the doorbell registers, and one from elsewhere than the concentrator or of another form is counted.
Requests run and end (R359, R362 to R364, R367, R368): the next one is of the lowest class, then the highest PRIO, then the
first taken in; an unknown opcode is UNSUPPORTED, reserved bits of CLASS are BAD_ARG; the response is formed, kept in the
cache where it is to be, and queued; a LOG_WRITE whose blocks are not written lets others run; a request that has not started
within its LIFETIME is discarded as ABANDONED; a cache entry goes 120 s after its completion. One that names a die whose core
is in its gap waits for it (R419; the model's choice, log entry 167). It says that these complete: INTAKE, SVC,
REQUEST_START, LIFETIME, CACHE_EXPIRY, DIRECT_ACCESS, SVC_FORWARD, REQUEST_COMPLETION. -/
def Obligations.Requests : Prop :=
  (∀ (s : State) (k : PacketIn) (i : CmdInfo) (p q v : Nat),
  let h := s.hub
  let m := h.mgmt
  let now := h.clk.elapsed
  let b := h.dbw.mbiBytes
  let r := headerAt b 0
  let x := headerAt k.body 0
  let unexpired := m.cache.filter fun e => decide (now < e.at' + 120000000000)
  let compared : Prop := h.serves = true ∧ ∀ y ∈ m.queue, y.raw = false
  let whole : Prop := r.length ≤ 4080 ∧ crc32 (b.take (16 + r.length)) = h.dbw.mbiCrc
  let taken : Prop := h.dbw.mbiFree = false ∧ h.hspiOn = true ∧ h.placesUsed .hspi < 32
  let served (op : Nat) : Prop := h.boot.netboot = false ∨ netCmd op = true
  let room (n : Nat) : Prop := i.cls = 0 ∨ (n + 6 ≤ 32 ∧ Config.waitEstimate (h.fresh + 1) i.cls ≤ waitLimit i.cls)
  let svcHere : Prop := Accepted h 0 k ∧ h.addressed = true ∧ k.dest = h.addr ∧ k.kind = 0
  let svcWhole : Prop := 20 + x.length ≤ k.body.length ∧ x.length ≤ 4080 ∧
    (crc32 (k.body.take (16 + x.length))).toNat = fieldAt k.body (16 + x.length) 4
  (h.dbw.mbiFree = true ∨ h.hspiOn = false ∨ 32 ≤ h.placesUsed .hspi → exec .intake s = .next s) ∧
  (taken →
    (4080 < r.length → ∃ t, exec .intake s = .next t ∧ t.hub.dbw.errCause = 2 ∧ t.hub.mgmt = m ∧
      t.hub.dbw.mbiHead = h.dbw.mbiHead + 1) ∧
    (r.length ≤ 4080 → crc32 (b.take (16 + r.length)) ≠ h.dbw.mbiCrc → ∃ t, exec .intake s = .next t ∧ t.hub.dbw.errCause = 1 ∧
      t.hub.mgmt = m ∧ t.hub.dbw.mbiHead = h.dbw.mbiHead + 1) ∧
    (whole → h.serves = false → exec .intake s = .next ⟨{ h with
      dbw := { h.dbw with mbiHead := h.dbw.mbiHead + 1 }
      mgmt := { m with
        queue := m.queue ++ [⟨.hspi, r, (b.drop 16).take r.length, 0, now, m.order, true⟩], order := m.order + 1 } }, s.pending⟩) ∧
    (whole → compared → Fresh h r → cmdInfo r.opcode = some i → served r.opcode → room (h.placesUsed .hspi) →
      ∃ t, exec .intake s = .next t ∧ t.hub.dbw.mbiHead = h.dbw.mbiHead + 1 ∧
      t.hub.mgmt = { m with
        cache := unexpired
        queue := m.queue ++ [⟨.hspi, r, (b.drop 16).take r.length, i.cls, now, m.order, false⟩], order := m.order + 1 }) ∧
    (whole → compared → Fresh h r → cmdInfo r.opcode = some i → ¬(served r.opcode ∧ room (h.placesUsed .hspi)) →
      ∃ t y, exec .intake s = .next t ∧ t.hub.dbw.mbiHead = h.dbw.mbiHead + 1 ∧ y.status = St.busy ∧ 1 ≤ y.retry ∧ y.tag = r.tag ∧
      y.reqId = r.reqId ∧ t.hub.mgmt = { m with cache := unexpired, outbox := m.outbox ++ [y] }) ∧
    (whole → compared → Fresh h r → cmdInfo r.opcode = none → ∃ t y, exec .intake s = .next t ∧ y.status = St.unsupported ∧
      y.tag = r.tag ∧ y.reqId = r.reqId ∧ t.hub.mgmt.queue = m.queue ∧ t.hub.mgmt.outbox = m.outbox ++ [y]) ∧
    (∀ e, whole → compared → unexpired.find? (fun e => e.reqId == r.reqId && e.tag == r.tag) = some e → ∃ t y,
      exec .intake s = .next t ∧ t.hub.mgmt.queue = m.queue ∧ t.hub.mgmt.outbox = m.outbox ++ [y] ∧ y.tag = r.tag ∧
      (e.opcode = r.opcode → y.status = St.cached ∧ y.orig = e.status ∧ y.payload = e.payload) ∧
      (e.opcode ≠ r.opcode → y.status = St.duplicateTag ∧ y.payload = []))) ∧
  ((h.prt p).st ≠ .up → exec (.svc p k) s = .next s ∧ exec (.svcForward p k) s = .next s ∧ exec (.directAccess p k) s = .next s) ∧
  (svcHere → k.src = 0 → h.placesUsed .inband < 32 → svcWhole → compared → Fresh h x → cmdInfo x.opcode = some i → served x.opcode →
    room (h.placesUsed .inband) → ∃ t, exec (.svc 0 k) s = .next t ∧
      (t.hub.prt 0).link.rxSeq = ((h.prt 0).link.rxSeq + 1) % 65536 ∧
      t.hub.mgmt = { m with
        cache := unexpired
        queue := m.queue ++ [⟨.inband, x, (k.body.drop 16).take x.length, i.cls, now, m.order, false⟩], order := m.order + 1 }) ∧
  (svcHere → k.src = 0 → h.placesUsed .inband < 32 → svcWhole → h.serves = false → ∃ t, exec (.svc 0 k) s = .next t ∧
      t.hub.mgmt = { m with
        queue := m.queue ++ [⟨.inband, x, (k.body.drop 16).take x.length, 0, now, m.order, true⟩], order := m.order + 1 }) ∧
  (svcHere → (k.src ≠ 0 ∨ 32 ≤ h.placesUsed .inband) → ∃ t, exec (.svc 0 k) s = .next t ∧
    t.hub.mgmt = { m with svcDrop := satInc 16 m.svcDrop } ∧ t.hub.dbw = h.dbw) ∧
  (svcHere → k.src = 0 → h.placesUsed .inband < 32 → ¬svcWhole → ∃ t, exec (.svc 0 k) s = .next t ∧
    t.hub.mgmt = { m with svcDrop := satInc 16 m.svcDrop } ∧
    t.hub.dbw.errCause = (if 16 ≤ k.body.length ∧ 4080 < x.length then 2 else 1)) ∧
  (∀ a z, Shaped h → Accepted h 0 k → k.cls = 3 → h.boot.netboot = false → k.dest ≠ 0xFFFF → k.dest ≠ h.addr → q < h.nPorts → q ≠ 0 →
    (h.prt q).range = some (a, z) → a ≤ k.dest → k.dest ≤ z → (∀ i < q, (h.prt i).range = none) → (h.prt q).link.queues.length = 4 →
    ∃ t, exec (.svcForward 0 k) s = .next t ∧ t.hub.mgmt = m ∧
      (t.hub.prt q).link.queues.getD 2 [] = (h.prt q).link.queues.getD 2 [] ++ [⟨3, k.kind, k.dest, k.src, k.body, none, false, false⟩]) ∧
  (∀ a, Accepted h 0 k → h.addressed = true → k.dest = h.addr → k.kind = 1 → k.src = 0 → k.body.length = 16 → fieldAt k.body 2 1 = 1 →
    fieldAt k.body 8 8 = 2 ^ 62 + a * 2 ^ 32 + v → a < 65536 → v < 2 ^ 32 →
    (a = 0x10 → ∃ t, exec (.directAccess 0 k) s = .next t ∧
      t.hub.dbw.irqEn = BitVec.ofNat 32 v &&& 0x3FF ∧ t.hub.mgmt = m ∧ t.hub.dbw.irq = h.dbw.irq) ∧
    ((a % 4 ≠ 0 ∨ 0x3FFC < a) → ∃ t, exec (.directAccess 0 k) s = .next t ∧ t.hub.dbw = h.dbw ∧ t.hub.mgmt = m ∧ t.hub.tm = h.tm)) ∧
  (Accepted h 0 k → h.addressed = true → k.dest = h.addr → k.kind = 1 →
    (k.src ≠ 0 ∨ fieldAt k.body 2 1 = 0 ∨ 128 < fieldAt k.body 2 1 ∨ k.body.length ≠ 8 + 8 * fieldAt k.body 2 1) →
    ∃ t, exec (.directAccess 0 k) s = .next t ∧ t.hub.mgmt = { m with daBad := satInc 16 m.daBad } ∧ t.hub.dbw = h.dbw)) ∧
  (∀ (s : State) (x : Request) (r : Reply),
  let h := s.hub
  let m := h.mgmt
  let now := h.clk.elapsed
  let live (y : Request) : Bool := decide (now < y.at' + ReqHeader.life y.hdr)
  let tagIdle : Prop := h.tag.writes = [] ∧ (h.tag.ring = [] ∨ h.tag.busy ≠ none)
  let compared : Prop := h.serves = true ∧ ∀ y ∈ m.queue, y.raw = false
  let plain : Prop := r.status ≠ St.ok ∨ x.hdr.opcode ∉ [0x0103, 0x0106, 0x0C01]
  let kept : Prop := ReqHeader.idem x.hdr = false ∧ r.status ≠ St.busy ∧ r.status ≠ St.duplicateTag
  (h.serves = false → exec .requestStart s = .next s ∧ exec .lifetime s = .next s ∧
    (h.overlap = false → exec .requestCompletion s = .next s) ∧
    (h.overlap = true → m.running = none → exec .requestCompletion s = .next s) ∧
    (h.overlap = true → m.running = some (x, r) → x.route = .hspi → ¬kept → plain → exec .requestCompletion s = .next ⟨{ h with
      mgmt := { m with running := none, outbox := m.outbox ++ [respond x.hdr .hspi r] }
      dbw := { h.dbw with mboTail := h.dbw.mboTail + 1 } }, s.pending⟩)) ∧
  (m.running = some (x, r) → h.writing x = false → exec .requestStart s = .next s) ∧
  (tagIdle → compared → m.running = none → m.queue.filter live = [] → exec .requestStart s = .next s) ∧
  (∀ (l : List Request) (y : Request), firstRequest l = some y → y ∈ l ∧ (∀ z ∈ l, y.svc ≤ z.svc) ∧ ∀ z ∈ l, z.before y = false) ∧
  (tagIdle → compared → m.running = none → (∀ y ∈ m.queue, live y = true → h.waitsDie y = true) → exec .requestStart s = .next s) ∧
  (tagIdle → compared → m.running = none → (∀ y ∈ m.queue, h.waitsDie y = false) → firstRequest (m.queue.filter live) = some x →
    (∃ t u, exec .requestStart s = .next t ∧ t.hub.mgmt.running = some (x, u) ∧ t.hub.mgmt.reply = u ∧
      (t.hub.mgmt.queue = m.queue.filter fun y => y.order != x.order) ∧
      (Shaped h → h.boot.lead < h.nDies → commitsWith x.hdr.opcode u.status = true →
        .commit x.order ∈ (t.hub.die t.hub.boot.lead).cores.through)) ∧
    (cmdInfo x.hdr.opcode = none → ∃ t, exec .requestStart s = .next t ∧
      t.hub.mgmt.running = some (x, ⟨St.unsupported, 0, 255, []⟩) ∧ t.hub.chans = h.chans) ∧
    (∀ i, cmdInfo x.hdr.opcode = some i → h.boot.netboot = true → netCmd x.hdr.opcode = false → ∃ t, exec .requestStart s = .next t ∧
      t.hub.mgmt.running = some (x, ⟨St.busy, 1000, 255, []⟩) ∧ t.hub.chans = h.chans) ∧
    (∀ i, cmdInfo x.hdr.opcode = some i → (h.boot.netboot = false ∨ netCmd x.hdr.opcode = true) →
      (16 ≤ x.hdr.cls ∨ 120000 < x.hdr.lifetime ∨ h.badMask x.hdr = true) → ∃ t, exec .requestStart s = .next t ∧
      t.hub.mgmt.running = some (x, ⟨St.badArg, 0, 255, []⟩) ∧ t.hub.chans = h.chans) ∧
    (x.hdr.opcode = 0x0101 → x.hdr.cls < 16 → x.hdr.lifetime ≤ 120000 → x.hdr.dieMask = 0 → x.payload = [] →
      ∃ t b, exec .requestStart s = .next t ∧ t.hub.mgmt.running = some (x, ⟨St.ok, 0, 255, b⟩) ∧ b.length = 16)) ∧
  (tagIdle → h.serves = true →
    (m.running = none → m.waiting = [] → exec .requestCompletion s = .next s) ∧
    (m.running = some (x, r) → x.route = .hspi → ¬kept → plain → exec .requestCompletion s = .next ⟨{ h with
      mgmt := { m with running := none, outbox := m.outbox ++ [respond x.hdr .hspi r] }
      dbw := { h.dbw with mboTail := h.dbw.mboTail + 1 } }, s.pending⟩) ∧
    (m.running = some (x, r) → kept → ∃ t e, exec .requestCompletion s = .next t ∧ t.hub.mgmt.running = none ∧
      t.hub.mgmt.cache.head? = some e ∧ e.reqId = x.hdr.reqId ∧ e.tag = x.hdr.tag ∧ e.opcode = x.hdr.opcode ∧
      e.status = r.status ∧ e.payload = r.payload ∧ e.at' = now ∧
      t.hub.boot.resetAt = (if r.status = St.ok ∧ x.hdr.opcode ∈ [0x0103, 0x0106] then h.boot.resetAt.map fun _ => now + 10000000
        else h.boot.resetAt) ∧
      t.hub.pwr.keepAt = (if r.status = St.ok ∧ x.hdr.opcode = 0x0C01 then h.pwr.keepAt.map fun _ => now else h.pwr.keepAt) ∧
      (x.route = .hspi → t.hub.mgmt.outbox = m.outbox ++ [respond x.hdr .hspi r] ∧ t.hub.mgmt.svcOut = m.svcOut) ∧
      (x.route = .inband → t.hub.mgmt.outbox = m.outbox ∧
        t.hub.mgmt.svcOut = if h.addressed && (h.prt 0).linked then m.svcOut ++ [respond x.hdr .inband r] else m.svcOut)) ∧
    (∀ l, m.running = none → m.waiting = (x, r) :: l → (∀ y ∈ l, y.1.order ≠ x.order) → x.route = .hspi → ∃ t,
      exec .requestCompletion s = .next t ∧ t.hub.mgmt.waiting = l ∧ t.hub.mgmt.outbox = m.outbox ++ [respond x.hdr .hspi r])) ∧
  (h.serves = true → h.tag.busy ≠ none → h.tag.ring = [] → (∀ y ∈ m.running.toList ++ m.waiting, h.writing y.1 = true) →
    exec .requestCompletion s = .next s) ∧
  (compared → ∃ t, exec .lifetime s = .next t ∧ t.hub.mgmt.queue = m.queue.filter live ∧
    t.hub.mgmt.running = m.running ∧ t.hub.mgmt.outbox = m.outbox) ∧
  (compared → m.queue = [x] → x.at' + ReqHeader.life x.hdr ≤ now → ReqHeader.idem x.hdr = false → ∃ t e,
    exec .lifetime s = .next t ∧ t.hub.mgmt.cache.head? = some e ∧ e.status = St.abandoned ∧ e.reqId = x.hdr.reqId ∧ e.tag = x.hdr.tag) ∧
  (exec .cacheExpiry s = .next ⟨{ h with
    mgmt := { m with cache := m.cache.filter fun e => decide (now < e.at' + 120000000000) } }, s.pending⟩))

/-- Scheduled actions (R121 to R126, R402, R403, R418): an action whose T is no instant, or whose inner request breaks a rule,
answers BAD_ARG, and one nearer than 1 ms without LATE_OK answers LATE; one that does not check well answers what the check
does, and one that finds 256 waiting BUSY; one that checks well is listed with the next id, and runs nothing yet; it is
cancelled up to 500 µs before its T; 150 ms before T it is checked again and committed, or ends with a record; it is armed
500 µs before T; at its T it runs once: one that does not check well, or is done at once, leaves the list with its record;
settings of channels, a LOG_WRITE and a drill stay until they are done; a committed action runs although a core has failed,
and one of the management plane (a LOG_WRITE, a drill) waits for management and is never committed. It says that these
complete: SCHED_ADD, SCHED_CANCEL, SCHED_LIST, COMMIT, ACTION_ARM, SCHEDULED_ACTION. -/
def Obligations.ScheduledActions : Prop := ∀ (s : State) (late : Bool) (t0 : Instant) (r : ReqHeader) (pl : Bytes) (id : Word) (a : Action),
  let h := s.hub
  let m := h.mgmt
  let now := h.tm.now
  let at' := Instant.fu t0
  let new : Action := ⟨m.nextAction, at', late, r, pl, now, m.accepts, false, false, false, at', false⟩
  let found : Prop := h.findAction id = some a
  let mayRun : Prop := (a.onPlane = true ∧ h.manages = true ∧ h.flt.drill = none) ∨ (a.onPlane = false ∧ a.committed = true)
  let due : Prop := found ∧ a.held = false ∧ mayRun ∧ a.t ≤ now ∧ h.waitsFor a = false
  let ran : Hub := if a.committed then (h.thawed.actionRun a).frozenAs h else h.actionRun a
  let sets (i : Instr) : Prop := ∃ c, (∃ w, i = .chanSet c w) ∨ (∃ w, i = .afeSet c w)
  let lasts (i : Instr) : Prop := (∃ b w, i = .logWrite b w) ∨ (∃ d, i = .mcDrill d)
  let waits (own : Nat) : Hub := (ran.setAction id fun x => { x with held := true, own := own, unlocked := !h.tm.lockedAt a.t }).withReply m.reply
  (Instant.bad t0 = true ∨ h.badInner r pl = true → exec (.schedAdd late t0 r pl) s = .next ⟨h.refuse St.badArg, s.pending⟩) ∧
  (Instant.bad t0 = false → h.badInner r pl = false → at' < now + 1024000000 → late = false →
    exec (.schedAdd late t0 r pl) s = .next ⟨h.refuse St.late, s.pending⟩) ∧
  (Instant.bad t0 = false → h.badInner r pl = false → (now + 1024000000 ≤ at' ∨ late = true) →
    ((h.actionCheck new).status ≠ St.ok → exec (.schedAdd late t0 r pl) s =
      .next ⟨h.withReply { h.actionCheck new with payload := [] }, s.pending⟩) ∧
    ((h.actionCheck new).status = St.ok → 256 ≤ m.actions.length → ∃ n, 1 ≤ n ∧ exec (.schedAdd late t0 r pl) s =
      .next ⟨h.withReply ⟨St.busy, n, 255, []⟩, s.pending⟩) ∧
    ((h.actionCheck new).status = St.ok → m.actions.length < 256 → ∃ t, exec (.schedAdd late t0 r pl) s = .next t ∧
      t.hub.mgmt = { m with
        actions := m.actions ++ [{ new with committed := !new.onPlane && decide (at' < now + 153600000000) }]
        accepts := m.accepts + 1
        nextAction := if m.nextAction = 0xFFFFFFFF then 1 else m.nextAction + 1
        reply := ⟨St.ok, 0, 255, be 4 m.nextAction.toNat⟩ } ∧
      t.hub.chans.map Chan.desc = h.chans.map Chan.desc ∧ t.hub.tm = h.tm ∧ t.hub.flows = h.flows ∧
      (r.opcode ≠ 0x0405 → r.opcode ≠ 0x0702 →
        t.hub = { h.writeThrough (.action m.nextAction) with mgmt := t.hub.mgmt }))) ∧
  (h.findAction id = none → exec (.schedCancel id) s = .next ⟨h.refuse St.notFound, s.pending⟩ ∧ exec (.commit id) s = .next s ∧
    exec (.actionArm id) s = .next s ∧ exec (.scheduledAction id) s = .next s) ∧
  (found → a.t < now + 512000000 → exec (.schedCancel id) s = .next ⟨h.refuse St.late, s.pending⟩) ∧
  (found → now + 512000000 ≤ a.t → ∃ t, exec (.schedCancel id) s = .next t ∧
    t.hub.mgmt = { m with
      actions := m.actions.filter fun y => y.id != id
      reply := ⟨St.ok, 0, 255, []⟩ } ∧
    (∀ x ∈ t.hub.chans, ∀ w, x.switch = some w → w.job ≠ some id) ∧ t.hub.chans.map Chan.desc = h.chans.map Chan.desc ∧
    t.hub.tm = h.tm ∧ t.hub.flows = h.flows) ∧
  ((∀ y ∈ m.actions, y.id.toNat ≤ id.toNat) → exec (.schedList id) s = .next ⟨h.ok [], s.pending⟩) ∧
  (m.actions = [a] → id.toNat < a.id.toNat → exec (.schedList id) s = .next ⟨h.ok (be 4 a.id.toNat ++ be 2 a.hdr.opcode ++ [0, 0] ++
    instB a.t), s.pending⟩) ∧
  (∃ b n, exec (.schedList id) s = .next ⟨h.ok b, s.pending⟩ ∧ b.length = 20 * n ∧ n ≤ 204) ∧
  (found → (a.committed = true ∨ a.onPlane = true ∨ h.manages = false ∨ now + 153600000000 < a.t) → exec (.commit id) s = .next s) ∧
  (found → a.committed = false → a.onPlane = false → h.manages = true → a.t ≤ now + 153600000000 →
    ((h.actionCheck a).status = St.ok → exec (.commit id) s = .next ⟨{ h with
      mgmt := { m with actions := m.actions.map fun y => if y.id = id then { y with committed := true } else y } }, s.pending⟩) ∧
    ((h.actionCheck a).status ≠ St.ok → ∃ t, exec (.commit id) s = .next t ∧ t.hub.findAction id = none ∧
      t.hub.chans.map Chan.desc = h.chans.map Chan.desc ∧ (h.hk.dropped = 0 → t.hub.hk.rseq = h.hk.rseq + 1))) ∧
  (found → (a.committed = false ∨ a.armed = true ∨ now + 512000000 < a.t) → exec (.actionArm id) s = .next s) ∧
  (found → a.committed = true → a.armed = false → a.t ≤ now + 512000000 → ∃ t, exec (.actionArm id) s = .next t ∧
    t.hub.mgmt = { m with actions := m.actions.map fun y => if y.id = id then { y with armed := true } else y } ∧
    t.hub.chans.map Chan.desc = h.chans.map Chan.desc ∧ (a.hdr.opcode ≠ 0x0303 → a.hdr.opcode ≠ 0x0405 → t.hub.chans = h.chans)) ∧
  (found → a.held = true → h.tag.writes = [] → (h.tag.ring = [] ∨ h.tag.busy ≠ none) → exec (.scheduledAction id) s = .next s) ∧
  (found → a.held = false → (¬mayRun ∨ now < a.t ∨ h.waitsFor a = true) → exec (.scheduledAction id) s = .next s) ∧
  (due → ran.mgmt.reply.status ≠ St.ok →
    exec (.scheduledAction id) s = .next ⟨(h.schedDone now id ran.mgmt.reply.status 0).withReply m.reply, s.pending⟩) ∧
  (due → ran.mgmt.reply.status = St.ok → ∀ i, a.cmd = some i →
    (sets i → exec (.scheduledAction id) s = .next ⟨waits (h.boundaryOf i a.t), s.pending⟩) ∧
    (lasts i → ∃ t, exec (.scheduledAction id) s = .next t ∧ t.hub.mgmt.reply = m.reply ∧
      t.hub.mgmt.actions.map (fun y => (y.id, y.held, y.own)) = ran.mgmt.actions.map fun y =>
        (y.id, y.held || decide (y.id = id), if y.id = id then now else y.own)) ∧
    (¬sets i → ¬lasts i → exec (.scheduledAction id) s = .next ⟨(ran.schedDone (h.boundaryOf i (max a.t now)) id
      (if a.onPlane = true ∧ a.t + 1024000000 < now ∨ a.onPlane = false ∧ h.boundaryOf i a.t < h.boundaryOf i (max a.t now)
        then St.late else St.ok) ((h.boundaryOf i (max a.t now) - a.t) / 1024000)).withReply m.reply, s.pending⟩))

/-- A step runs the command at the front of the queue with the queue's rest. -/
def Obligations.StepRunsTheFrontCommand : Prop := ∀ (c : Instr) (r : List Instr) (h : Hub), step ⟨h, c :: r⟩ = exec c ⟨h, r⟩

/-- With no command waiting a step is one cycle of the reference, which moves array time by 8 ns where the sample clock runs and
true time always, by the free period of the internal oscillator, of about 97 % of the reference's frequency, where the sample
clock runs from that (R465, log entry 188) (R38, R95, R107; log entry 8); nothing else changes but an injection on LT of a
TEST port, which meets the ten bits of the cycle (R322), and a coupler that waits to close, which closes 10 µs after its
command where its DEPART has not gone (Table 11-9). -/
def Obligations.EmptyQueueIsOneReferenceCycle : Prop := ∀ (h : Hub),
  let ported (h : Hub) : Hub := { h with ports := h.ports.map fun q => if q.st = .test then
    { q with lanes := q.lanes.modify 3 fun l => if fld l.test 24 23 = 1 then l else l.passHits 10 } else q }
  let on : Hub := { h with
    clk := { h.clk with elapsed := h.clk.elapsed + 8, cycles := h.clk.cycles + 1 }
    tm := { h.tm with now := h.tm.now + 8 * 1024 } }
  let off : Hub := { h with clk := { h.clk with elapsed := h.clk.elapsed + 8 } }
  let waits : Prop := ∀ u, h.flt.closing = some u → h.clk.elapsed + 8 < u + 10000
  let ps := h.clk.oscPs + 8122 + Config.oscPeriod h.fresh % 256
  let osc : Hub := { h with
    fresh := h.fresh + 1
    clk := { h.clk with elapsed := h.clk.elapsed + ps / 1000, oscPs := ps % 1000, cycles := h.clk.cycles + 1 }
    tm := { h.tm with now := h.tm.now + 8 * 1024 } }
  (h.onOsc = true ↔ h.clk.run = true ∧ h.clk.valid = false ∧ h.clk.refclk = false) ∧
  (∃ g, step ⟨h, []⟩ = .next ⟨g, []⟩ ∧ g.clk.elapsed = h.clk.elapsed + (if h.onOsc then ps / 1000 else 8)) ∧
  (h.onOsc = true → (∀ u, h.flt.closing = some u → h.clk.elapsed + ps / 1000 < u + 10000) → step ⟨h, []⟩ = .next ⟨ported osc, []⟩) ∧
  (h.onOsc = false → waits → h.clk.run = true → step ⟨h, []⟩ = .next ⟨ported on, []⟩) ∧
  (waits → h.clk.run = false → step ⟨h, []⟩ = .next ⟨ported off, []⟩) ∧
  ((∀ q ∈ h.ports, q.st ≠ .test) → h.onOsc = false → waits → h.clk.run = true → step ⟨h, []⟩ = .next ⟨on, []⟩) ∧
  (h.onOsc = false → ¬waits → ∃ g, step ⟨h, []⟩ = .next ⟨g, []⟩ ∧ g.flt.closed = true ∧ g.flt.byHost = true)

/-- Every command answers a next state, in every state, and leaves the queue to the step. -/
def Obligations.EveryCommandAnswers : Prop := ∀ (c : Instr) (s : State), ∃ h, exec c s = .next ⟨h, s.pending⟩

/-- The state after reset meets the invariant. -/
def Obligations.ResetMeetsInvariant : Prop := Inv State.reset

/-- Every step keeps the invariant: the lists of the hub keep the lengths that the variant gives them (R2, R4, R6), the tag's
memory and the mailbox-in window their canonical form, and the part stays the part that it is. -/
def Obligations.EveryStepKeepsInvariant : Prop := ∀ (s t : State), Inv s → step s = .next t → Inv t ∧ t.hub.ident = s.hub.ident
end

