-- ==== Sys2Proof/Laws/State.lean ====
section
/-! SUPPORT. What each named update of the hub leaves in each field. Every lemma is true by definition. -/

namespace Sys2Proof.Machine

/-! ### setTm -/
@[simp] theorem Hub.setTm_ident (h : Hub) (f : Tm → Tm) : (h.setTm f).ident = h.ident := rfl
@[simp] theorem Hub.setTm_clk (h : Hub) (f : Tm → Tm) : (h.setTm f).clk = h.clk := rfl
@[simp] theorem Hub.setTm_tm (h : Hub) (f : Tm → Tm) : (h.setTm f).tm = f h.tm := rfl
@[simp] theorem Hub.setTm_chans (h : Hub) (f : Tm → Tm) : (h.setTm f).chans = h.chans := rfl
@[simp] theorem Hub.setTm_octs (h : Hub) (f : Tm → Tm) : (h.setTm f).octs = h.octs := rfl
@[simp] theorem Hub.setTm_reps (h : Hub) (f : Tm → Tm) : (h.setTm f).reps = h.reps := rfl
@[simp] theorem Hub.setTm_dies (h : Hub) (f : Tm → Tm) : (h.setTm f).dies = h.dies := rfl
@[simp] theorem Hub.setTm_trg (h : Hub) (f : Tm → Tm) : (h.setTm f).trg = h.trg := rfl
@[simp] theorem Hub.setTm_caps (h : Hub) (f : Tm → Tm) : (h.setTm f).caps = h.caps := rfl
@[simp] theorem Hub.setTm_nextTrain (h : Hub) (f : Tm → Tm) : (h.setTm f).nextTrain = h.nextTrain := rfl
@[simp] theorem Hub.setTm_saved (h : Hub) (f : Tm → Tm) : (h.setTm f).saved = h.saved := rfl
@[simp] theorem Hub.setTm_jobs (h : Hub) (f : Tm → Tm) : (h.setTm f).jobs = h.jobs := rfl
@[simp] theorem Hub.setTm_nextHandle (h : Hub) (f : Tm → Tm) : (h.setTm f).nextHandle = h.nextHandle := rfl
@[simp] theorem Hub.setTm_nextJob (h : Hub) (f : Tm → Tm) : (h.setTm f).nextJob = h.nextJob := rfl
@[simp] theorem Hub.setTm_flows (h : Hub) (f : Tm → Tm) : (h.setTm f).flows = h.flows := rfl
@[simp] theorem Hub.setTm_strm (h : Hub) (f : Tm → Tm) : (h.setTm f).strm = h.strm := rfl
@[simp] theorem Hub.setTm_hk (h : Hub) (f : Tm → Tm) : (h.setTm f).hk = h.hk := rfl
@[simp] theorem Hub.setTm_sep (h : Hub) (f : Tm → Tm) : (h.setTm f).sep = h.sep := rfl
@[simp] theorem Hub.setTm_ports (h : Hub) (f : Tm → Tm) : (h.setTm f).ports = h.ports := rfl
@[simp] theorem Hub.setTm_enm (h : Hub) (f : Tm → Tm) : (h.setTm f).enm = h.enm := rfl
@[simp] theorem Hub.setTm_mgmt (h : Hub) (f : Tm → Tm) : (h.setTm f).mgmt = h.mgmt := rfl
@[simp] theorem Hub.setTm_dbw (h : Hub) (f : Tm → Tm) : (h.setTm f).dbw = h.dbw := rfl
@[simp] theorem Hub.setTm_fseal (h : Hub) (f : Tm → Tm) : (h.setTm f).fseal = h.fseal := rfl
@[simp] theorem Hub.setTm_flt (h : Hub) (f : Tm → Tm) : (h.setTm f).flt = h.flt := rfl
@[simp] theorem Hub.setTm_cal (h : Hub) (f : Tm → Tm) : (h.setTm f).cal = h.cal := rfl
@[simp] theorem Hub.setTm_pwr (h : Hub) (f : Tm → Tm) : (h.setTm f).pwr = h.pwr := rfl
@[simp] theorem Hub.setTm_pmbus (h : Hub) (f : Tm → Tm) : (h.setTm f).pmbus = h.pmbus := rfl
@[simp] theorem Hub.setTm_boot (h : Hub) (f : Tm → Tm) : (h.setTm f).boot = h.boot := rfl
@[simp] theorem Hub.setTm_flash (h : Hub) (f : Tm → Tm) : (h.setTm f).flash = h.flash := rfl
@[simp] theorem Hub.setTm_tag (h : Hub) (f : Tm → Tm) : (h.setTm f).tag = h.tag := rfl
@[simp] theorem Hub.setTm_tap (h : Hub) (f : Tm → Tm) : (h.setTm f).tap = h.tap := rfl
@[simp] theorem Hub.setTm_fresh (h : Hub) (f : Tm → Tm) : (h.setTm f).fresh = h.fresh := rfl

/-! ### setBoot -/
@[simp] theorem Hub.setBoot_ident (h : Hub) (f : Boot → Boot) : (h.setBoot f).ident = h.ident := rfl
@[simp] theorem Hub.setBoot_clk (h : Hub) (f : Boot → Boot) : (h.setBoot f).clk = h.clk := rfl
@[simp] theorem Hub.setBoot_tm (h : Hub) (f : Boot → Boot) : (h.setBoot f).tm = h.tm := rfl
@[simp] theorem Hub.setBoot_chans (h : Hub) (f : Boot → Boot) : (h.setBoot f).chans = h.chans := rfl
@[simp] theorem Hub.setBoot_octs (h : Hub) (f : Boot → Boot) : (h.setBoot f).octs = h.octs := rfl
@[simp] theorem Hub.setBoot_reps (h : Hub) (f : Boot → Boot) : (h.setBoot f).reps = h.reps := rfl
@[simp] theorem Hub.setBoot_dies (h : Hub) (f : Boot → Boot) : (h.setBoot f).dies = h.dies := rfl
@[simp] theorem Hub.setBoot_trg (h : Hub) (f : Boot → Boot) : (h.setBoot f).trg = h.trg := rfl
@[simp] theorem Hub.setBoot_caps (h : Hub) (f : Boot → Boot) : (h.setBoot f).caps = h.caps := rfl
@[simp] theorem Hub.setBoot_nextTrain (h : Hub) (f : Boot → Boot) : (h.setBoot f).nextTrain = h.nextTrain := rfl
@[simp] theorem Hub.setBoot_saved (h : Hub) (f : Boot → Boot) : (h.setBoot f).saved = h.saved := rfl
@[simp] theorem Hub.setBoot_jobs (h : Hub) (f : Boot → Boot) : (h.setBoot f).jobs = h.jobs := rfl
@[simp] theorem Hub.setBoot_nextHandle (h : Hub) (f : Boot → Boot) : (h.setBoot f).nextHandle = h.nextHandle := rfl
@[simp] theorem Hub.setBoot_nextJob (h : Hub) (f : Boot → Boot) : (h.setBoot f).nextJob = h.nextJob := rfl
@[simp] theorem Hub.setBoot_flows (h : Hub) (f : Boot → Boot) : (h.setBoot f).flows = h.flows := rfl
@[simp] theorem Hub.setBoot_strm (h : Hub) (f : Boot → Boot) : (h.setBoot f).strm = h.strm := rfl
@[simp] theorem Hub.setBoot_hk (h : Hub) (f : Boot → Boot) : (h.setBoot f).hk = h.hk := rfl
@[simp] theorem Hub.setBoot_sep (h : Hub) (f : Boot → Boot) : (h.setBoot f).sep = h.sep := rfl
@[simp] theorem Hub.setBoot_ports (h : Hub) (f : Boot → Boot) : (h.setBoot f).ports = h.ports := rfl
@[simp] theorem Hub.setBoot_enm (h : Hub) (f : Boot → Boot) : (h.setBoot f).enm = h.enm := rfl
@[simp] theorem Hub.setBoot_mgmt (h : Hub) (f : Boot → Boot) : (h.setBoot f).mgmt = h.mgmt := rfl
@[simp] theorem Hub.setBoot_dbw (h : Hub) (f : Boot → Boot) : (h.setBoot f).dbw = h.dbw := rfl
@[simp] theorem Hub.setBoot_fseal (h : Hub) (f : Boot → Boot) : (h.setBoot f).fseal = h.fseal := rfl
@[simp] theorem Hub.setBoot_flt (h : Hub) (f : Boot → Boot) : (h.setBoot f).flt = h.flt := rfl
@[simp] theorem Hub.setBoot_cal (h : Hub) (f : Boot → Boot) : (h.setBoot f).cal = h.cal := rfl
@[simp] theorem Hub.setBoot_pwr (h : Hub) (f : Boot → Boot) : (h.setBoot f).pwr = h.pwr := rfl
@[simp] theorem Hub.setBoot_pmbus (h : Hub) (f : Boot → Boot) : (h.setBoot f).pmbus = h.pmbus := rfl
@[simp] theorem Hub.setBoot_boot (h : Hub) (f : Boot → Boot) : (h.setBoot f).boot = f h.boot := rfl
@[simp] theorem Hub.setBoot_flash (h : Hub) (f : Boot → Boot) : (h.setBoot f).flash = h.flash := rfl
@[simp] theorem Hub.setBoot_tag (h : Hub) (f : Boot → Boot) : (h.setBoot f).tag = h.tag := rfl
@[simp] theorem Hub.setBoot_tap (h : Hub) (f : Boot → Boot) : (h.setBoot f).tap = h.tap := rfl
@[simp] theorem Hub.setBoot_fresh (h : Hub) (f : Boot → Boot) : (h.setBoot f).fresh = h.fresh := rfl

/-! ### setSeal -/
@[simp] theorem Hub.setSeal_ident (h : Hub) (f : Seal → Seal) : (h.setSeal f).ident = h.ident := rfl
@[simp] theorem Hub.setSeal_clk (h : Hub) (f : Seal → Seal) : (h.setSeal f).clk = h.clk := rfl
@[simp] theorem Hub.setSeal_tm (h : Hub) (f : Seal → Seal) : (h.setSeal f).tm = h.tm := rfl
@[simp] theorem Hub.setSeal_chans (h : Hub) (f : Seal → Seal) : (h.setSeal f).chans = h.chans := rfl
@[simp] theorem Hub.setSeal_octs (h : Hub) (f : Seal → Seal) : (h.setSeal f).octs = h.octs := rfl
@[simp] theorem Hub.setSeal_reps (h : Hub) (f : Seal → Seal) : (h.setSeal f).reps = h.reps := rfl
@[simp] theorem Hub.setSeal_dies (h : Hub) (f : Seal → Seal) : (h.setSeal f).dies = h.dies := rfl
@[simp] theorem Hub.setSeal_trg (h : Hub) (f : Seal → Seal) : (h.setSeal f).trg = h.trg := rfl
@[simp] theorem Hub.setSeal_caps (h : Hub) (f : Seal → Seal) : (h.setSeal f).caps = h.caps := rfl
@[simp] theorem Hub.setSeal_nextTrain (h : Hub) (f : Seal → Seal) : (h.setSeal f).nextTrain = h.nextTrain := rfl
@[simp] theorem Hub.setSeal_saved (h : Hub) (f : Seal → Seal) : (h.setSeal f).saved = h.saved := rfl
@[simp] theorem Hub.setSeal_jobs (h : Hub) (f : Seal → Seal) : (h.setSeal f).jobs = h.jobs := rfl
@[simp] theorem Hub.setSeal_nextHandle (h : Hub) (f : Seal → Seal) : (h.setSeal f).nextHandle = h.nextHandle := rfl
@[simp] theorem Hub.setSeal_nextJob (h : Hub) (f : Seal → Seal) : (h.setSeal f).nextJob = h.nextJob := rfl
@[simp] theorem Hub.setSeal_flows (h : Hub) (f : Seal → Seal) : (h.setSeal f).flows = h.flows := rfl
@[simp] theorem Hub.setSeal_strm (h : Hub) (f : Seal → Seal) : (h.setSeal f).strm = h.strm := rfl
@[simp] theorem Hub.setSeal_hk (h : Hub) (f : Seal → Seal) : (h.setSeal f).hk = h.hk := rfl
@[simp] theorem Hub.setSeal_sep (h : Hub) (f : Seal → Seal) : (h.setSeal f).sep = h.sep := rfl
@[simp] theorem Hub.setSeal_ports (h : Hub) (f : Seal → Seal) : (h.setSeal f).ports = h.ports := rfl
@[simp] theorem Hub.setSeal_enm (h : Hub) (f : Seal → Seal) : (h.setSeal f).enm = h.enm := rfl
@[simp] theorem Hub.setSeal_mgmt (h : Hub) (f : Seal → Seal) : (h.setSeal f).mgmt = h.mgmt := rfl
@[simp] theorem Hub.setSeal_dbw (h : Hub) (f : Seal → Seal) : (h.setSeal f).dbw = h.dbw := rfl
@[simp] theorem Hub.setSeal_fseal (h : Hub) (f : Seal → Seal) : (h.setSeal f).fseal = f h.fseal := rfl
@[simp] theorem Hub.setSeal_flt (h : Hub) (f : Seal → Seal) : (h.setSeal f).flt = h.flt := rfl
@[simp] theorem Hub.setSeal_cal (h : Hub) (f : Seal → Seal) : (h.setSeal f).cal = h.cal := rfl
@[simp] theorem Hub.setSeal_pwr (h : Hub) (f : Seal → Seal) : (h.setSeal f).pwr = h.pwr := rfl
@[simp] theorem Hub.setSeal_pmbus (h : Hub) (f : Seal → Seal) : (h.setSeal f).pmbus = h.pmbus := rfl
@[simp] theorem Hub.setSeal_boot (h : Hub) (f : Seal → Seal) : (h.setSeal f).boot = h.boot := rfl
@[simp] theorem Hub.setSeal_flash (h : Hub) (f : Seal → Seal) : (h.setSeal f).flash = h.flash := rfl
@[simp] theorem Hub.setSeal_tag (h : Hub) (f : Seal → Seal) : (h.setSeal f).tag = h.tag := rfl
@[simp] theorem Hub.setSeal_tap (h : Hub) (f : Seal → Seal) : (h.setSeal f).tap = h.tap := rfl
@[simp] theorem Hub.setSeal_fresh (h : Hub) (f : Seal → Seal) : (h.setSeal f).fresh = h.fresh := rfl

/-! ### setCal -/
@[simp] theorem Hub.setCal_ident (h : Hub) (f : Cal → Cal) : (h.setCal f).ident = h.ident := rfl
@[simp] theorem Hub.setCal_clk (h : Hub) (f : Cal → Cal) : (h.setCal f).clk = h.clk := rfl
@[simp] theorem Hub.setCal_tm (h : Hub) (f : Cal → Cal) : (h.setCal f).tm = h.tm := rfl
@[simp] theorem Hub.setCal_chans (h : Hub) (f : Cal → Cal) : (h.setCal f).chans = h.chans := rfl
@[simp] theorem Hub.setCal_octs (h : Hub) (f : Cal → Cal) : (h.setCal f).octs = h.octs := rfl
@[simp] theorem Hub.setCal_reps (h : Hub) (f : Cal → Cal) : (h.setCal f).reps = h.reps := rfl
@[simp] theorem Hub.setCal_dies (h : Hub) (f : Cal → Cal) : (h.setCal f).dies = h.dies := rfl
@[simp] theorem Hub.setCal_trg (h : Hub) (f : Cal → Cal) : (h.setCal f).trg = h.trg := rfl
@[simp] theorem Hub.setCal_caps (h : Hub) (f : Cal → Cal) : (h.setCal f).caps = h.caps := rfl
@[simp] theorem Hub.setCal_nextTrain (h : Hub) (f : Cal → Cal) : (h.setCal f).nextTrain = h.nextTrain := rfl
@[simp] theorem Hub.setCal_saved (h : Hub) (f : Cal → Cal) : (h.setCal f).saved = h.saved := rfl
@[simp] theorem Hub.setCal_jobs (h : Hub) (f : Cal → Cal) : (h.setCal f).jobs = h.jobs := rfl
@[simp] theorem Hub.setCal_nextHandle (h : Hub) (f : Cal → Cal) : (h.setCal f).nextHandle = h.nextHandle := rfl
@[simp] theorem Hub.setCal_nextJob (h : Hub) (f : Cal → Cal) : (h.setCal f).nextJob = h.nextJob := rfl
@[simp] theorem Hub.setCal_flows (h : Hub) (f : Cal → Cal) : (h.setCal f).flows = h.flows := rfl
@[simp] theorem Hub.setCal_strm (h : Hub) (f : Cal → Cal) : (h.setCal f).strm = h.strm := rfl
@[simp] theorem Hub.setCal_hk (h : Hub) (f : Cal → Cal) : (h.setCal f).hk = h.hk := rfl
@[simp] theorem Hub.setCal_sep (h : Hub) (f : Cal → Cal) : (h.setCal f).sep = h.sep := rfl
@[simp] theorem Hub.setCal_ports (h : Hub) (f : Cal → Cal) : (h.setCal f).ports = h.ports := rfl
@[simp] theorem Hub.setCal_enm (h : Hub) (f : Cal → Cal) : (h.setCal f).enm = h.enm := rfl
@[simp] theorem Hub.setCal_mgmt (h : Hub) (f : Cal → Cal) : (h.setCal f).mgmt = h.mgmt := rfl
@[simp] theorem Hub.setCal_dbw (h : Hub) (f : Cal → Cal) : (h.setCal f).dbw = h.dbw := rfl
@[simp] theorem Hub.setCal_fseal (h : Hub) (f : Cal → Cal) : (h.setCal f).fseal = h.fseal := rfl
@[simp] theorem Hub.setCal_flt (h : Hub) (f : Cal → Cal) : (h.setCal f).flt = h.flt := rfl
@[simp] theorem Hub.setCal_cal (h : Hub) (f : Cal → Cal) : (h.setCal f).cal = f h.cal := rfl
@[simp] theorem Hub.setCal_pwr (h : Hub) (f : Cal → Cal) : (h.setCal f).pwr = h.pwr := rfl
@[simp] theorem Hub.setCal_pmbus (h : Hub) (f : Cal → Cal) : (h.setCal f).pmbus = h.pmbus := rfl
@[simp] theorem Hub.setCal_boot (h : Hub) (f : Cal → Cal) : (h.setCal f).boot = h.boot := rfl
@[simp] theorem Hub.setCal_flash (h : Hub) (f : Cal → Cal) : (h.setCal f).flash = h.flash := rfl
@[simp] theorem Hub.setCal_tag (h : Hub) (f : Cal → Cal) : (h.setCal f).tag = h.tag := rfl
@[simp] theorem Hub.setCal_tap (h : Hub) (f : Cal → Cal) : (h.setCal f).tap = h.tap := rfl
@[simp] theorem Hub.setCal_fresh (h : Hub) (f : Cal → Cal) : (h.setCal f).fresh = h.fresh := rfl

/-! ### setPwr -/
@[simp] theorem Hub.setPwr_ident (h : Hub) (f : Pwr → Pwr) : (h.setPwr f).ident = h.ident := rfl
@[simp] theorem Hub.setPwr_clk (h : Hub) (f : Pwr → Pwr) : (h.setPwr f).clk = h.clk := rfl
@[simp] theorem Hub.setPwr_tm (h : Hub) (f : Pwr → Pwr) : (h.setPwr f).tm = h.tm := rfl
@[simp] theorem Hub.setPwr_chans (h : Hub) (f : Pwr → Pwr) : (h.setPwr f).chans = h.chans := rfl
@[simp] theorem Hub.setPwr_octs (h : Hub) (f : Pwr → Pwr) : (h.setPwr f).octs = h.octs := rfl
@[simp] theorem Hub.setPwr_reps (h : Hub) (f : Pwr → Pwr) : (h.setPwr f).reps = h.reps := rfl
@[simp] theorem Hub.setPwr_dies (h : Hub) (f : Pwr → Pwr) : (h.setPwr f).dies = h.dies := rfl
@[simp] theorem Hub.setPwr_trg (h : Hub) (f : Pwr → Pwr) : (h.setPwr f).trg = h.trg := rfl
@[simp] theorem Hub.setPwr_caps (h : Hub) (f : Pwr → Pwr) : (h.setPwr f).caps = h.caps := rfl
@[simp] theorem Hub.setPwr_nextTrain (h : Hub) (f : Pwr → Pwr) : (h.setPwr f).nextTrain = h.nextTrain := rfl
@[simp] theorem Hub.setPwr_saved (h : Hub) (f : Pwr → Pwr) : (h.setPwr f).saved = h.saved := rfl
@[simp] theorem Hub.setPwr_jobs (h : Hub) (f : Pwr → Pwr) : (h.setPwr f).jobs = h.jobs := rfl
@[simp] theorem Hub.setPwr_nextHandle (h : Hub) (f : Pwr → Pwr) : (h.setPwr f).nextHandle = h.nextHandle := rfl
@[simp] theorem Hub.setPwr_nextJob (h : Hub) (f : Pwr → Pwr) : (h.setPwr f).nextJob = h.nextJob := rfl
@[simp] theorem Hub.setPwr_flows (h : Hub) (f : Pwr → Pwr) : (h.setPwr f).flows = h.flows := rfl
@[simp] theorem Hub.setPwr_strm (h : Hub) (f : Pwr → Pwr) : (h.setPwr f).strm = h.strm := rfl
@[simp] theorem Hub.setPwr_hk (h : Hub) (f : Pwr → Pwr) : (h.setPwr f).hk = h.hk := rfl
@[simp] theorem Hub.setPwr_sep (h : Hub) (f : Pwr → Pwr) : (h.setPwr f).sep = h.sep := rfl
@[simp] theorem Hub.setPwr_ports (h : Hub) (f : Pwr → Pwr) : (h.setPwr f).ports = h.ports := rfl
@[simp] theorem Hub.setPwr_enm (h : Hub) (f : Pwr → Pwr) : (h.setPwr f).enm = h.enm := rfl
@[simp] theorem Hub.setPwr_mgmt (h : Hub) (f : Pwr → Pwr) : (h.setPwr f).mgmt = h.mgmt := rfl
@[simp] theorem Hub.setPwr_dbw (h : Hub) (f : Pwr → Pwr) : (h.setPwr f).dbw = h.dbw := rfl
@[simp] theorem Hub.setPwr_fseal (h : Hub) (f : Pwr → Pwr) : (h.setPwr f).fseal = h.fseal := rfl
@[simp] theorem Hub.setPwr_flt (h : Hub) (f : Pwr → Pwr) : (h.setPwr f).flt = h.flt := rfl
@[simp] theorem Hub.setPwr_cal (h : Hub) (f : Pwr → Pwr) : (h.setPwr f).cal = h.cal := rfl
@[simp] theorem Hub.setPwr_pwr (h : Hub) (f : Pwr → Pwr) : (h.setPwr f).pwr = f h.pwr := rfl
@[simp] theorem Hub.setPwr_pmbus (h : Hub) (f : Pwr → Pwr) : (h.setPwr f).pmbus = h.pmbus := rfl
@[simp] theorem Hub.setPwr_boot (h : Hub) (f : Pwr → Pwr) : (h.setPwr f).boot = h.boot := rfl
@[simp] theorem Hub.setPwr_flash (h : Hub) (f : Pwr → Pwr) : (h.setPwr f).flash = h.flash := rfl
@[simp] theorem Hub.setPwr_tag (h : Hub) (f : Pwr → Pwr) : (h.setPwr f).tag = h.tag := rfl
@[simp] theorem Hub.setPwr_tap (h : Hub) (f : Pwr → Pwr) : (h.setPwr f).tap = h.tap := rfl
@[simp] theorem Hub.setPwr_fresh (h : Hub) (f : Pwr → Pwr) : (h.setPwr f).fresh = h.fresh := rfl

/-! ### setPmbus -/
@[simp] theorem Hub.setPmbus_ident (h : Hub) (f : Pmbus → Pmbus) : (h.setPmbus f).ident = h.ident := rfl
@[simp] theorem Hub.setPmbus_clk (h : Hub) (f : Pmbus → Pmbus) : (h.setPmbus f).clk = h.clk := rfl
@[simp] theorem Hub.setPmbus_tm (h : Hub) (f : Pmbus → Pmbus) : (h.setPmbus f).tm = h.tm := rfl
@[simp] theorem Hub.setPmbus_chans (h : Hub) (f : Pmbus → Pmbus) : (h.setPmbus f).chans = h.chans := rfl
@[simp] theorem Hub.setPmbus_octs (h : Hub) (f : Pmbus → Pmbus) : (h.setPmbus f).octs = h.octs := rfl
@[simp] theorem Hub.setPmbus_reps (h : Hub) (f : Pmbus → Pmbus) : (h.setPmbus f).reps = h.reps := rfl
@[simp] theorem Hub.setPmbus_dies (h : Hub) (f : Pmbus → Pmbus) : (h.setPmbus f).dies = h.dies := rfl
@[simp] theorem Hub.setPmbus_trg (h : Hub) (f : Pmbus → Pmbus) : (h.setPmbus f).trg = h.trg := rfl
@[simp] theorem Hub.setPmbus_caps (h : Hub) (f : Pmbus → Pmbus) : (h.setPmbus f).caps = h.caps := rfl
@[simp] theorem Hub.setPmbus_nextTrain (h : Hub) (f : Pmbus → Pmbus) : (h.setPmbus f).nextTrain = h.nextTrain := rfl
@[simp] theorem Hub.setPmbus_saved (h : Hub) (f : Pmbus → Pmbus) : (h.setPmbus f).saved = h.saved := rfl
@[simp] theorem Hub.setPmbus_jobs (h : Hub) (f : Pmbus → Pmbus) : (h.setPmbus f).jobs = h.jobs := rfl
@[simp] theorem Hub.setPmbus_nextHandle (h : Hub) (f : Pmbus → Pmbus) : (h.setPmbus f).nextHandle = h.nextHandle := rfl
@[simp] theorem Hub.setPmbus_nextJob (h : Hub) (f : Pmbus → Pmbus) : (h.setPmbus f).nextJob = h.nextJob := rfl
@[simp] theorem Hub.setPmbus_flows (h : Hub) (f : Pmbus → Pmbus) : (h.setPmbus f).flows = h.flows := rfl
@[simp] theorem Hub.setPmbus_strm (h : Hub) (f : Pmbus → Pmbus) : (h.setPmbus f).strm = h.strm := rfl
@[simp] theorem Hub.setPmbus_hk (h : Hub) (f : Pmbus → Pmbus) : (h.setPmbus f).hk = h.hk := rfl
@[simp] theorem Hub.setPmbus_sep (h : Hub) (f : Pmbus → Pmbus) : (h.setPmbus f).sep = h.sep := rfl
@[simp] theorem Hub.setPmbus_ports (h : Hub) (f : Pmbus → Pmbus) : (h.setPmbus f).ports = h.ports := rfl
@[simp] theorem Hub.setPmbus_enm (h : Hub) (f : Pmbus → Pmbus) : (h.setPmbus f).enm = h.enm := rfl
@[simp] theorem Hub.setPmbus_mgmt (h : Hub) (f : Pmbus → Pmbus) : (h.setPmbus f).mgmt = h.mgmt := rfl
@[simp] theorem Hub.setPmbus_dbw (h : Hub) (f : Pmbus → Pmbus) : (h.setPmbus f).dbw = h.dbw := rfl
@[simp] theorem Hub.setPmbus_fseal (h : Hub) (f : Pmbus → Pmbus) : (h.setPmbus f).fseal = h.fseal := rfl
@[simp] theorem Hub.setPmbus_flt (h : Hub) (f : Pmbus → Pmbus) : (h.setPmbus f).flt = h.flt := rfl
@[simp] theorem Hub.setPmbus_cal (h : Hub) (f : Pmbus → Pmbus) : (h.setPmbus f).cal = h.cal := rfl
@[simp] theorem Hub.setPmbus_pwr (h : Hub) (f : Pmbus → Pmbus) : (h.setPmbus f).pwr = h.pwr := rfl
@[simp] theorem Hub.setPmbus_pmbus (h : Hub) (f : Pmbus → Pmbus) : (h.setPmbus f).pmbus = f h.pmbus := rfl
@[simp] theorem Hub.setPmbus_boot (h : Hub) (f : Pmbus → Pmbus) : (h.setPmbus f).boot = h.boot := rfl
@[simp] theorem Hub.setPmbus_flash (h : Hub) (f : Pmbus → Pmbus) : (h.setPmbus f).flash = h.flash := rfl
@[simp] theorem Hub.setPmbus_tag (h : Hub) (f : Pmbus → Pmbus) : (h.setPmbus f).tag = h.tag := rfl
@[simp] theorem Hub.setPmbus_tap (h : Hub) (f : Pmbus → Pmbus) : (h.setPmbus f).tap = h.tap := rfl
@[simp] theorem Hub.setPmbus_fresh (h : Hub) (f : Pmbus → Pmbus) : (h.setPmbus f).fresh = h.fresh := rfl

/-! ### setTag -/
@[simp] theorem Hub.setTag_ident (h : Hub) (f : Tag → Tag) : (h.setTag f).ident = h.ident := rfl
@[simp] theorem Hub.setTag_clk (h : Hub) (f : Tag → Tag) : (h.setTag f).clk = h.clk := rfl
@[simp] theorem Hub.setTag_tm (h : Hub) (f : Tag → Tag) : (h.setTag f).tm = h.tm := rfl
@[simp] theorem Hub.setTag_chans (h : Hub) (f : Tag → Tag) : (h.setTag f).chans = h.chans := rfl
@[simp] theorem Hub.setTag_octs (h : Hub) (f : Tag → Tag) : (h.setTag f).octs = h.octs := rfl
@[simp] theorem Hub.setTag_reps (h : Hub) (f : Tag → Tag) : (h.setTag f).reps = h.reps := rfl
@[simp] theorem Hub.setTag_dies (h : Hub) (f : Tag → Tag) : (h.setTag f).dies = h.dies := rfl
@[simp] theorem Hub.setTag_trg (h : Hub) (f : Tag → Tag) : (h.setTag f).trg = h.trg := rfl
@[simp] theorem Hub.setTag_caps (h : Hub) (f : Tag → Tag) : (h.setTag f).caps = h.caps := rfl
@[simp] theorem Hub.setTag_nextTrain (h : Hub) (f : Tag → Tag) : (h.setTag f).nextTrain = h.nextTrain := rfl
@[simp] theorem Hub.setTag_saved (h : Hub) (f : Tag → Tag) : (h.setTag f).saved = h.saved := rfl
@[simp] theorem Hub.setTag_jobs (h : Hub) (f : Tag → Tag) : (h.setTag f).jobs = h.jobs := rfl
@[simp] theorem Hub.setTag_nextHandle (h : Hub) (f : Tag → Tag) : (h.setTag f).nextHandle = h.nextHandle := rfl
@[simp] theorem Hub.setTag_nextJob (h : Hub) (f : Tag → Tag) : (h.setTag f).nextJob = h.nextJob := rfl
@[simp] theorem Hub.setTag_flows (h : Hub) (f : Tag → Tag) : (h.setTag f).flows = h.flows := rfl
@[simp] theorem Hub.setTag_strm (h : Hub) (f : Tag → Tag) : (h.setTag f).strm = h.strm := rfl
@[simp] theorem Hub.setTag_hk (h : Hub) (f : Tag → Tag) : (h.setTag f).hk = h.hk := rfl
@[simp] theorem Hub.setTag_sep (h : Hub) (f : Tag → Tag) : (h.setTag f).sep = h.sep := rfl
@[simp] theorem Hub.setTag_ports (h : Hub) (f : Tag → Tag) : (h.setTag f).ports = h.ports := rfl
@[simp] theorem Hub.setTag_enm (h : Hub) (f : Tag → Tag) : (h.setTag f).enm = h.enm := rfl
@[simp] theorem Hub.setTag_mgmt (h : Hub) (f : Tag → Tag) : (h.setTag f).mgmt = h.mgmt := rfl
@[simp] theorem Hub.setTag_dbw (h : Hub) (f : Tag → Tag) : (h.setTag f).dbw = h.dbw := rfl
@[simp] theorem Hub.setTag_fseal (h : Hub) (f : Tag → Tag) : (h.setTag f).fseal = h.fseal := rfl
@[simp] theorem Hub.setTag_flt (h : Hub) (f : Tag → Tag) : (h.setTag f).flt = h.flt := rfl
@[simp] theorem Hub.setTag_cal (h : Hub) (f : Tag → Tag) : (h.setTag f).cal = h.cal := rfl
@[simp] theorem Hub.setTag_pwr (h : Hub) (f : Tag → Tag) : (h.setTag f).pwr = h.pwr := rfl
@[simp] theorem Hub.setTag_pmbus (h : Hub) (f : Tag → Tag) : (h.setTag f).pmbus = h.pmbus := rfl
@[simp] theorem Hub.setTag_boot (h : Hub) (f : Tag → Tag) : (h.setTag f).boot = h.boot := rfl
@[simp] theorem Hub.setTag_flash (h : Hub) (f : Tag → Tag) : (h.setTag f).flash = h.flash := rfl
@[simp] theorem Hub.setTag_tag (h : Hub) (f : Tag → Tag) : (h.setTag f).tag = f h.tag := rfl
@[simp] theorem Hub.setTag_tap (h : Hub) (f : Tag → Tag) : (h.setTag f).tap = h.tap := rfl
@[simp] theorem Hub.setTag_fresh (h : Hub) (f : Tag → Tag) : (h.setTag f).fresh = h.fresh := rfl

/-! ### setMgmt -/
@[simp] theorem Hub.setMgmt_ident (h : Hub) (f : Mgmt → Mgmt) : (h.setMgmt f).ident = h.ident := rfl
@[simp] theorem Hub.setMgmt_clk (h : Hub) (f : Mgmt → Mgmt) : (h.setMgmt f).clk = h.clk := rfl
@[simp] theorem Hub.setMgmt_tm (h : Hub) (f : Mgmt → Mgmt) : (h.setMgmt f).tm = h.tm := rfl
@[simp] theorem Hub.setMgmt_chans (h : Hub) (f : Mgmt → Mgmt) : (h.setMgmt f).chans = h.chans := rfl
@[simp] theorem Hub.setMgmt_octs (h : Hub) (f : Mgmt → Mgmt) : (h.setMgmt f).octs = h.octs := rfl
@[simp] theorem Hub.setMgmt_reps (h : Hub) (f : Mgmt → Mgmt) : (h.setMgmt f).reps = h.reps := rfl
@[simp] theorem Hub.setMgmt_dies (h : Hub) (f : Mgmt → Mgmt) : (h.setMgmt f).dies = h.dies := rfl
@[simp] theorem Hub.setMgmt_trg (h : Hub) (f : Mgmt → Mgmt) : (h.setMgmt f).trg = h.trg := rfl
@[simp] theorem Hub.setMgmt_caps (h : Hub) (f : Mgmt → Mgmt) : (h.setMgmt f).caps = h.caps := rfl
@[simp] theorem Hub.setMgmt_nextTrain (h : Hub) (f : Mgmt → Mgmt) : (h.setMgmt f).nextTrain = h.nextTrain := rfl
@[simp] theorem Hub.setMgmt_saved (h : Hub) (f : Mgmt → Mgmt) : (h.setMgmt f).saved = h.saved := rfl
@[simp] theorem Hub.setMgmt_jobs (h : Hub) (f : Mgmt → Mgmt) : (h.setMgmt f).jobs = h.jobs := rfl
@[simp] theorem Hub.setMgmt_nextHandle (h : Hub) (f : Mgmt → Mgmt) : (h.setMgmt f).nextHandle = h.nextHandle := rfl
@[simp] theorem Hub.setMgmt_nextJob (h : Hub) (f : Mgmt → Mgmt) : (h.setMgmt f).nextJob = h.nextJob := rfl
@[simp] theorem Hub.setMgmt_flows (h : Hub) (f : Mgmt → Mgmt) : (h.setMgmt f).flows = h.flows := rfl
@[simp] theorem Hub.setMgmt_strm (h : Hub) (f : Mgmt → Mgmt) : (h.setMgmt f).strm = h.strm := rfl
@[simp] theorem Hub.setMgmt_hk (h : Hub) (f : Mgmt → Mgmt) : (h.setMgmt f).hk = h.hk := rfl
@[simp] theorem Hub.setMgmt_sep (h : Hub) (f : Mgmt → Mgmt) : (h.setMgmt f).sep = h.sep := rfl
@[simp] theorem Hub.setMgmt_ports (h : Hub) (f : Mgmt → Mgmt) : (h.setMgmt f).ports = h.ports := rfl
@[simp] theorem Hub.setMgmt_enm (h : Hub) (f : Mgmt → Mgmt) : (h.setMgmt f).enm = h.enm := rfl
@[simp] theorem Hub.setMgmt_mgmt (h : Hub) (f : Mgmt → Mgmt) : (h.setMgmt f).mgmt = f h.mgmt := rfl
@[simp] theorem Hub.setMgmt_dbw (h : Hub) (f : Mgmt → Mgmt) : (h.setMgmt f).dbw = h.dbw := rfl
@[simp] theorem Hub.setMgmt_fseal (h : Hub) (f : Mgmt → Mgmt) : (h.setMgmt f).fseal = h.fseal := rfl
@[simp] theorem Hub.setMgmt_flt (h : Hub) (f : Mgmt → Mgmt) : (h.setMgmt f).flt = h.flt := rfl
@[simp] theorem Hub.setMgmt_cal (h : Hub) (f : Mgmt → Mgmt) : (h.setMgmt f).cal = h.cal := rfl
@[simp] theorem Hub.setMgmt_pwr (h : Hub) (f : Mgmt → Mgmt) : (h.setMgmt f).pwr = h.pwr := rfl
@[simp] theorem Hub.setMgmt_pmbus (h : Hub) (f : Mgmt → Mgmt) : (h.setMgmt f).pmbus = h.pmbus := rfl
@[simp] theorem Hub.setMgmt_boot (h : Hub) (f : Mgmt → Mgmt) : (h.setMgmt f).boot = h.boot := rfl
@[simp] theorem Hub.setMgmt_flash (h : Hub) (f : Mgmt → Mgmt) : (h.setMgmt f).flash = h.flash := rfl
@[simp] theorem Hub.setMgmt_tag (h : Hub) (f : Mgmt → Mgmt) : (h.setMgmt f).tag = h.tag := rfl
@[simp] theorem Hub.setMgmt_tap (h : Hub) (f : Mgmt → Mgmt) : (h.setMgmt f).tap = h.tap := rfl
@[simp] theorem Hub.setMgmt_fresh (h : Hub) (f : Mgmt → Mgmt) : (h.setMgmt f).fresh = h.fresh := rfl

/-! ### setCh -/
@[simp] theorem Hub.setCh_ident (h : Hub) (c : Nat) (f : Chan → Chan) : (h.setCh c f).ident = h.ident := rfl
@[simp] theorem Hub.setCh_clk (h : Hub) (c : Nat) (f : Chan → Chan) : (h.setCh c f).clk = h.clk := rfl
@[simp] theorem Hub.setCh_tm (h : Hub) (c : Nat) (f : Chan → Chan) : (h.setCh c f).tm = h.tm := rfl
@[simp] theorem Hub.setCh_chans (h : Hub) (c : Nat) (f : Chan → Chan) : (h.setCh c f).chans = h.chans.modify c f := rfl
@[simp] theorem Hub.setCh_octs (h : Hub) (c : Nat) (f : Chan → Chan) : (h.setCh c f).octs = h.octs := rfl
@[simp] theorem Hub.setCh_reps (h : Hub) (c : Nat) (f : Chan → Chan) : (h.setCh c f).reps = h.reps := rfl
@[simp] theorem Hub.setCh_dies (h : Hub) (c : Nat) (f : Chan → Chan) : (h.setCh c f).dies = h.dies := rfl
@[simp] theorem Hub.setCh_trg (h : Hub) (c : Nat) (f : Chan → Chan) : (h.setCh c f).trg = h.trg := rfl
@[simp] theorem Hub.setCh_caps (h : Hub) (c : Nat) (f : Chan → Chan) : (h.setCh c f).caps = h.caps := rfl
@[simp] theorem Hub.setCh_nextTrain (h : Hub) (c : Nat) (f : Chan → Chan) : (h.setCh c f).nextTrain = h.nextTrain := rfl
@[simp] theorem Hub.setCh_saved (h : Hub) (c : Nat) (f : Chan → Chan) : (h.setCh c f).saved = h.saved := rfl
@[simp] theorem Hub.setCh_jobs (h : Hub) (c : Nat) (f : Chan → Chan) : (h.setCh c f).jobs = h.jobs := rfl
@[simp] theorem Hub.setCh_nextHandle (h : Hub) (c : Nat) (f : Chan → Chan) : (h.setCh c f).nextHandle = h.nextHandle := rfl
@[simp] theorem Hub.setCh_nextJob (h : Hub) (c : Nat) (f : Chan → Chan) : (h.setCh c f).nextJob = h.nextJob := rfl
@[simp] theorem Hub.setCh_flows (h : Hub) (c : Nat) (f : Chan → Chan) : (h.setCh c f).flows = h.flows := rfl
@[simp] theorem Hub.setCh_strm (h : Hub) (c : Nat) (f : Chan → Chan) : (h.setCh c f).strm = h.strm := rfl
@[simp] theorem Hub.setCh_hk (h : Hub) (c : Nat) (f : Chan → Chan) : (h.setCh c f).hk = h.hk := rfl
@[simp] theorem Hub.setCh_sep (h : Hub) (c : Nat) (f : Chan → Chan) : (h.setCh c f).sep = h.sep := rfl
@[simp] theorem Hub.setCh_ports (h : Hub) (c : Nat) (f : Chan → Chan) : (h.setCh c f).ports = h.ports := rfl
@[simp] theorem Hub.setCh_enm (h : Hub) (c : Nat) (f : Chan → Chan) : (h.setCh c f).enm = h.enm := rfl
@[simp] theorem Hub.setCh_mgmt (h : Hub) (c : Nat) (f : Chan → Chan) : (h.setCh c f).mgmt = h.mgmt := rfl
@[simp] theorem Hub.setCh_dbw (h : Hub) (c : Nat) (f : Chan → Chan) : (h.setCh c f).dbw = h.dbw := rfl
@[simp] theorem Hub.setCh_fseal (h : Hub) (c : Nat) (f : Chan → Chan) : (h.setCh c f).fseal = h.fseal := rfl
@[simp] theorem Hub.setCh_flt (h : Hub) (c : Nat) (f : Chan → Chan) : (h.setCh c f).flt = h.flt := rfl
@[simp] theorem Hub.setCh_cal (h : Hub) (c : Nat) (f : Chan → Chan) : (h.setCh c f).cal = h.cal := rfl
@[simp] theorem Hub.setCh_pwr (h : Hub) (c : Nat) (f : Chan → Chan) : (h.setCh c f).pwr = h.pwr := rfl
@[simp] theorem Hub.setCh_pmbus (h : Hub) (c : Nat) (f : Chan → Chan) : (h.setCh c f).pmbus = h.pmbus := rfl
@[simp] theorem Hub.setCh_boot (h : Hub) (c : Nat) (f : Chan → Chan) : (h.setCh c f).boot = h.boot := rfl
@[simp] theorem Hub.setCh_flash (h : Hub) (c : Nat) (f : Chan → Chan) : (h.setCh c f).flash = h.flash := rfl
@[simp] theorem Hub.setCh_tag (h : Hub) (c : Nat) (f : Chan → Chan) : (h.setCh c f).tag = h.tag := rfl
@[simp] theorem Hub.setCh_tap (h : Hub) (c : Nat) (f : Chan → Chan) : (h.setCh c f).tap = h.tap := rfl
@[simp] theorem Hub.setCh_fresh (h : Hub) (c : Nat) (f : Chan → Chan) : (h.setCh c f).fresh = h.fresh := rfl

/-! ### mapCh -/
@[simp] theorem Hub.mapCh_ident (h : Hub) (g : Nat → Chan → Chan) : (h.mapCh g).ident = h.ident := rfl
@[simp] theorem Hub.mapCh_clk (h : Hub) (g : Nat → Chan → Chan) : (h.mapCh g).clk = h.clk := rfl
@[simp] theorem Hub.mapCh_tm (h : Hub) (g : Nat → Chan → Chan) : (h.mapCh g).tm = h.tm := rfl
@[simp] theorem Hub.mapCh_chans (h : Hub) (g : Nat → Chan → Chan) : (h.mapCh g).chans = h.chans.mapIdx g := rfl
@[simp] theorem Hub.mapCh_octs (h : Hub) (g : Nat → Chan → Chan) : (h.mapCh g).octs = h.octs := rfl
@[simp] theorem Hub.mapCh_reps (h : Hub) (g : Nat → Chan → Chan) : (h.mapCh g).reps = h.reps := rfl
@[simp] theorem Hub.mapCh_dies (h : Hub) (g : Nat → Chan → Chan) : (h.mapCh g).dies = h.dies := rfl
@[simp] theorem Hub.mapCh_trg (h : Hub) (g : Nat → Chan → Chan) : (h.mapCh g).trg = h.trg := rfl
@[simp] theorem Hub.mapCh_caps (h : Hub) (g : Nat → Chan → Chan) : (h.mapCh g).caps = h.caps := rfl
@[simp] theorem Hub.mapCh_nextTrain (h : Hub) (g : Nat → Chan → Chan) : (h.mapCh g).nextTrain = h.nextTrain := rfl
@[simp] theorem Hub.mapCh_saved (h : Hub) (g : Nat → Chan → Chan) : (h.mapCh g).saved = h.saved := rfl
@[simp] theorem Hub.mapCh_jobs (h : Hub) (g : Nat → Chan → Chan) : (h.mapCh g).jobs = h.jobs := rfl
@[simp] theorem Hub.mapCh_nextHandle (h : Hub) (g : Nat → Chan → Chan) : (h.mapCh g).nextHandle = h.nextHandle := rfl
@[simp] theorem Hub.mapCh_nextJob (h : Hub) (g : Nat → Chan → Chan) : (h.mapCh g).nextJob = h.nextJob := rfl
@[simp] theorem Hub.mapCh_flows (h : Hub) (g : Nat → Chan → Chan) : (h.mapCh g).flows = h.flows := rfl
@[simp] theorem Hub.mapCh_strm (h : Hub) (g : Nat → Chan → Chan) : (h.mapCh g).strm = h.strm := rfl
@[simp] theorem Hub.mapCh_hk (h : Hub) (g : Nat → Chan → Chan) : (h.mapCh g).hk = h.hk := rfl
@[simp] theorem Hub.mapCh_sep (h : Hub) (g : Nat → Chan → Chan) : (h.mapCh g).sep = h.sep := rfl
@[simp] theorem Hub.mapCh_ports (h : Hub) (g : Nat → Chan → Chan) : (h.mapCh g).ports = h.ports := rfl
@[simp] theorem Hub.mapCh_enm (h : Hub) (g : Nat → Chan → Chan) : (h.mapCh g).enm = h.enm := rfl
@[simp] theorem Hub.mapCh_mgmt (h : Hub) (g : Nat → Chan → Chan) : (h.mapCh g).mgmt = h.mgmt := rfl
@[simp] theorem Hub.mapCh_dbw (h : Hub) (g : Nat → Chan → Chan) : (h.mapCh g).dbw = h.dbw := rfl
@[simp] theorem Hub.mapCh_fseal (h : Hub) (g : Nat → Chan → Chan) : (h.mapCh g).fseal = h.fseal := rfl
@[simp] theorem Hub.mapCh_flt (h : Hub) (g : Nat → Chan → Chan) : (h.mapCh g).flt = h.flt := rfl
@[simp] theorem Hub.mapCh_cal (h : Hub) (g : Nat → Chan → Chan) : (h.mapCh g).cal = h.cal := rfl
@[simp] theorem Hub.mapCh_pwr (h : Hub) (g : Nat → Chan → Chan) : (h.mapCh g).pwr = h.pwr := rfl
@[simp] theorem Hub.mapCh_pmbus (h : Hub) (g : Nat → Chan → Chan) : (h.mapCh g).pmbus = h.pmbus := rfl
@[simp] theorem Hub.mapCh_boot (h : Hub) (g : Nat → Chan → Chan) : (h.mapCh g).boot = h.boot := rfl
@[simp] theorem Hub.mapCh_flash (h : Hub) (g : Nat → Chan → Chan) : (h.mapCh g).flash = h.flash := rfl
@[simp] theorem Hub.mapCh_tag (h : Hub) (g : Nat → Chan → Chan) : (h.mapCh g).tag = h.tag := rfl
@[simp] theorem Hub.mapCh_tap (h : Hub) (g : Nat → Chan → Chan) : (h.mapCh g).tap = h.tap := rfl
@[simp] theorem Hub.mapCh_fresh (h : Hub) (g : Nat → Chan → Chan) : (h.mapCh g).fresh = h.fresh := rfl

/-! ### setOct -/
@[simp] theorem Hub.setOct_ident (h : Hub) (o : Nat) (f : Octet → Octet) : (h.setOct o f).ident = h.ident := rfl
@[simp] theorem Hub.setOct_clk (h : Hub) (o : Nat) (f : Octet → Octet) : (h.setOct o f).clk = h.clk := rfl
@[simp] theorem Hub.setOct_tm (h : Hub) (o : Nat) (f : Octet → Octet) : (h.setOct o f).tm = h.tm := rfl
@[simp] theorem Hub.setOct_chans (h : Hub) (o : Nat) (f : Octet → Octet) : (h.setOct o f).chans = h.chans := rfl
@[simp] theorem Hub.setOct_octs (h : Hub) (o : Nat) (f : Octet → Octet) : (h.setOct o f).octs = h.octs.modify o f := rfl
@[simp] theorem Hub.setOct_reps (h : Hub) (o : Nat) (f : Octet → Octet) : (h.setOct o f).reps = h.reps := rfl
@[simp] theorem Hub.setOct_dies (h : Hub) (o : Nat) (f : Octet → Octet) : (h.setOct o f).dies = h.dies := rfl
@[simp] theorem Hub.setOct_trg (h : Hub) (o : Nat) (f : Octet → Octet) : (h.setOct o f).trg = h.trg := rfl
@[simp] theorem Hub.setOct_caps (h : Hub) (o : Nat) (f : Octet → Octet) : (h.setOct o f).caps = h.caps := rfl
@[simp] theorem Hub.setOct_nextTrain (h : Hub) (o : Nat) (f : Octet → Octet) : (h.setOct o f).nextTrain = h.nextTrain := rfl
@[simp] theorem Hub.setOct_saved (h : Hub) (o : Nat) (f : Octet → Octet) : (h.setOct o f).saved = h.saved := rfl
@[simp] theorem Hub.setOct_jobs (h : Hub) (o : Nat) (f : Octet → Octet) : (h.setOct o f).jobs = h.jobs := rfl
@[simp] theorem Hub.setOct_nextHandle (h : Hub) (o : Nat) (f : Octet → Octet) : (h.setOct o f).nextHandle = h.nextHandle := rfl
@[simp] theorem Hub.setOct_nextJob (h : Hub) (o : Nat) (f : Octet → Octet) : (h.setOct o f).nextJob = h.nextJob := rfl
@[simp] theorem Hub.setOct_flows (h : Hub) (o : Nat) (f : Octet → Octet) : (h.setOct o f).flows = h.flows := rfl
@[simp] theorem Hub.setOct_strm (h : Hub) (o : Nat) (f : Octet → Octet) : (h.setOct o f).strm = h.strm := rfl
@[simp] theorem Hub.setOct_hk (h : Hub) (o : Nat) (f : Octet → Octet) : (h.setOct o f).hk = h.hk := rfl
@[simp] theorem Hub.setOct_sep (h : Hub) (o : Nat) (f : Octet → Octet) : (h.setOct o f).sep = h.sep := rfl
@[simp] theorem Hub.setOct_ports (h : Hub) (o : Nat) (f : Octet → Octet) : (h.setOct o f).ports = h.ports := rfl
@[simp] theorem Hub.setOct_enm (h : Hub) (o : Nat) (f : Octet → Octet) : (h.setOct o f).enm = h.enm := rfl
@[simp] theorem Hub.setOct_mgmt (h : Hub) (o : Nat) (f : Octet → Octet) : (h.setOct o f).mgmt = h.mgmt := rfl
@[simp] theorem Hub.setOct_dbw (h : Hub) (o : Nat) (f : Octet → Octet) : (h.setOct o f).dbw = h.dbw := rfl
@[simp] theorem Hub.setOct_fseal (h : Hub) (o : Nat) (f : Octet → Octet) : (h.setOct o f).fseal = h.fseal := rfl
@[simp] theorem Hub.setOct_flt (h : Hub) (o : Nat) (f : Octet → Octet) : (h.setOct o f).flt = h.flt := rfl
@[simp] theorem Hub.setOct_cal (h : Hub) (o : Nat) (f : Octet → Octet) : (h.setOct o f).cal = h.cal := rfl
@[simp] theorem Hub.setOct_pwr (h : Hub) (o : Nat) (f : Octet → Octet) : (h.setOct o f).pwr = h.pwr := rfl
@[simp] theorem Hub.setOct_pmbus (h : Hub) (o : Nat) (f : Octet → Octet) : (h.setOct o f).pmbus = h.pmbus := rfl
@[simp] theorem Hub.setOct_boot (h : Hub) (o : Nat) (f : Octet → Octet) : (h.setOct o f).boot = h.boot := rfl
@[simp] theorem Hub.setOct_flash (h : Hub) (o : Nat) (f : Octet → Octet) : (h.setOct o f).flash = h.flash := rfl
@[simp] theorem Hub.setOct_tag (h : Hub) (o : Nat) (f : Octet → Octet) : (h.setOct o f).tag = h.tag := rfl
@[simp] theorem Hub.setOct_tap (h : Hub) (o : Nat) (f : Octet → Octet) : (h.setOct o f).tap = h.tap := rfl
@[simp] theorem Hub.setOct_fresh (h : Hub) (o : Nat) (f : Octet → Octet) : (h.setOct o f).fresh = h.fresh := rfl

/-! ### setDie -/
@[simp] theorem Hub.setDie_ident (h : Hub) (d : Nat) (f : Die → Die) : (h.setDie d f).ident = h.ident := rfl
@[simp] theorem Hub.setDie_clk (h : Hub) (d : Nat) (f : Die → Die) : (h.setDie d f).clk = h.clk := rfl
@[simp] theorem Hub.setDie_tm (h : Hub) (d : Nat) (f : Die → Die) : (h.setDie d f).tm = h.tm := rfl
@[simp] theorem Hub.setDie_chans (h : Hub) (d : Nat) (f : Die → Die) : (h.setDie d f).chans = h.chans := rfl
@[simp] theorem Hub.setDie_octs (h : Hub) (d : Nat) (f : Die → Die) : (h.setDie d f).octs = h.octs := rfl
@[simp] theorem Hub.setDie_reps (h : Hub) (d : Nat) (f : Die → Die) : (h.setDie d f).reps = h.reps := rfl
@[simp] theorem Hub.setDie_dies (h : Hub) (d : Nat) (f : Die → Die) : (h.setDie d f).dies = h.dies.modify d f := rfl
@[simp] theorem Hub.setDie_trg (h : Hub) (d : Nat) (f : Die → Die) : (h.setDie d f).trg = h.trg := rfl
@[simp] theorem Hub.setDie_caps (h : Hub) (d : Nat) (f : Die → Die) : (h.setDie d f).caps = h.caps := rfl
@[simp] theorem Hub.setDie_nextTrain (h : Hub) (d : Nat) (f : Die → Die) : (h.setDie d f).nextTrain = h.nextTrain := rfl
@[simp] theorem Hub.setDie_saved (h : Hub) (d : Nat) (f : Die → Die) : (h.setDie d f).saved = h.saved := rfl
@[simp] theorem Hub.setDie_jobs (h : Hub) (d : Nat) (f : Die → Die) : (h.setDie d f).jobs = h.jobs := rfl
@[simp] theorem Hub.setDie_nextHandle (h : Hub) (d : Nat) (f : Die → Die) : (h.setDie d f).nextHandle = h.nextHandle := rfl
@[simp] theorem Hub.setDie_nextJob (h : Hub) (d : Nat) (f : Die → Die) : (h.setDie d f).nextJob = h.nextJob := rfl
@[simp] theorem Hub.setDie_flows (h : Hub) (d : Nat) (f : Die → Die) : (h.setDie d f).flows = h.flows := rfl
@[simp] theorem Hub.setDie_strm (h : Hub) (d : Nat) (f : Die → Die) : (h.setDie d f).strm = h.strm := rfl
@[simp] theorem Hub.setDie_hk (h : Hub) (d : Nat) (f : Die → Die) : (h.setDie d f).hk = h.hk := rfl
@[simp] theorem Hub.setDie_sep (h : Hub) (d : Nat) (f : Die → Die) : (h.setDie d f).sep = h.sep := rfl
@[simp] theorem Hub.setDie_ports (h : Hub) (d : Nat) (f : Die → Die) : (h.setDie d f).ports = h.ports := rfl
@[simp] theorem Hub.setDie_enm (h : Hub) (d : Nat) (f : Die → Die) : (h.setDie d f).enm = h.enm := rfl
@[simp] theorem Hub.setDie_mgmt (h : Hub) (d : Nat) (f : Die → Die) : (h.setDie d f).mgmt = h.mgmt := rfl
@[simp] theorem Hub.setDie_dbw (h : Hub) (d : Nat) (f : Die → Die) : (h.setDie d f).dbw = h.dbw := rfl
@[simp] theorem Hub.setDie_fseal (h : Hub) (d : Nat) (f : Die → Die) : (h.setDie d f).fseal = h.fseal := rfl
@[simp] theorem Hub.setDie_flt (h : Hub) (d : Nat) (f : Die → Die) : (h.setDie d f).flt = h.flt := rfl
@[simp] theorem Hub.setDie_cal (h : Hub) (d : Nat) (f : Die → Die) : (h.setDie d f).cal = h.cal := rfl
@[simp] theorem Hub.setDie_pwr (h : Hub) (d : Nat) (f : Die → Die) : (h.setDie d f).pwr = h.pwr := rfl
@[simp] theorem Hub.setDie_pmbus (h : Hub) (d : Nat) (f : Die → Die) : (h.setDie d f).pmbus = h.pmbus := rfl
@[simp] theorem Hub.setDie_boot (h : Hub) (d : Nat) (f : Die → Die) : (h.setDie d f).boot = h.boot := rfl
@[simp] theorem Hub.setDie_flash (h : Hub) (d : Nat) (f : Die → Die) : (h.setDie d f).flash = h.flash := rfl
@[simp] theorem Hub.setDie_tag (h : Hub) (d : Nat) (f : Die → Die) : (h.setDie d f).tag = h.tag := rfl
@[simp] theorem Hub.setDie_tap (h : Hub) (d : Nat) (f : Die → Die) : (h.setDie d f).tap = h.tap := rfl
@[simp] theorem Hub.setDie_fresh (h : Hub) (d : Nat) (f : Die → Die) : (h.setDie d f).fresh = h.fresh := rfl

/-! ### setPort -/
@[simp] theorem Hub.setPort_ident (h : Hub) (p : Nat) (f : Port → Port) : (h.setPort p f).ident = h.ident := rfl
@[simp] theorem Hub.setPort_clk (h : Hub) (p : Nat) (f : Port → Port) : (h.setPort p f).clk = h.clk := rfl
@[simp] theorem Hub.setPort_tm (h : Hub) (p : Nat) (f : Port → Port) : (h.setPort p f).tm = h.tm := rfl
@[simp] theorem Hub.setPort_chans (h : Hub) (p : Nat) (f : Port → Port) : (h.setPort p f).chans = h.chans := rfl
@[simp] theorem Hub.setPort_octs (h : Hub) (p : Nat) (f : Port → Port) : (h.setPort p f).octs = h.octs := rfl
@[simp] theorem Hub.setPort_reps (h : Hub) (p : Nat) (f : Port → Port) : (h.setPort p f).reps = h.reps := rfl
@[simp] theorem Hub.setPort_dies (h : Hub) (p : Nat) (f : Port → Port) : (h.setPort p f).dies = h.dies := rfl
@[simp] theorem Hub.setPort_trg (h : Hub) (p : Nat) (f : Port → Port) : (h.setPort p f).trg = h.trg := rfl
@[simp] theorem Hub.setPort_caps (h : Hub) (p : Nat) (f : Port → Port) : (h.setPort p f).caps = h.caps := rfl
@[simp] theorem Hub.setPort_nextTrain (h : Hub) (p : Nat) (f : Port → Port) : (h.setPort p f).nextTrain = h.nextTrain := rfl
@[simp] theorem Hub.setPort_saved (h : Hub) (p : Nat) (f : Port → Port) : (h.setPort p f).saved = h.saved := rfl
@[simp] theorem Hub.setPort_jobs (h : Hub) (p : Nat) (f : Port → Port) : (h.setPort p f).jobs = h.jobs := rfl
@[simp] theorem Hub.setPort_nextHandle (h : Hub) (p : Nat) (f : Port → Port) : (h.setPort p f).nextHandle = h.nextHandle := rfl
@[simp] theorem Hub.setPort_nextJob (h : Hub) (p : Nat) (f : Port → Port) : (h.setPort p f).nextJob = h.nextJob := rfl
@[simp] theorem Hub.setPort_flows (h : Hub) (p : Nat) (f : Port → Port) : (h.setPort p f).flows = h.flows := rfl
@[simp] theorem Hub.setPort_strm (h : Hub) (p : Nat) (f : Port → Port) : (h.setPort p f).strm = h.strm := rfl
@[simp] theorem Hub.setPort_hk (h : Hub) (p : Nat) (f : Port → Port) : (h.setPort p f).hk = h.hk := rfl
@[simp] theorem Hub.setPort_sep (h : Hub) (p : Nat) (f : Port → Port) : (h.setPort p f).sep = h.sep := rfl
@[simp] theorem Hub.setPort_ports (h : Hub) (p : Nat) (f : Port → Port) : (h.setPort p f).ports = h.ports.modify p f := rfl
@[simp] theorem Hub.setPort_enm (h : Hub) (p : Nat) (f : Port → Port) : (h.setPort p f).enm = h.enm := rfl
@[simp] theorem Hub.setPort_mgmt (h : Hub) (p : Nat) (f : Port → Port) : (h.setPort p f).mgmt = h.mgmt := rfl
@[simp] theorem Hub.setPort_dbw (h : Hub) (p : Nat) (f : Port → Port) : (h.setPort p f).dbw = h.dbw := rfl
@[simp] theorem Hub.setPort_fseal (h : Hub) (p : Nat) (f : Port → Port) : (h.setPort p f).fseal = h.fseal := rfl
@[simp] theorem Hub.setPort_flt (h : Hub) (p : Nat) (f : Port → Port) : (h.setPort p f).flt = h.flt := rfl
@[simp] theorem Hub.setPort_cal (h : Hub) (p : Nat) (f : Port → Port) : (h.setPort p f).cal = h.cal := rfl
@[simp] theorem Hub.setPort_pwr (h : Hub) (p : Nat) (f : Port → Port) : (h.setPort p f).pwr = h.pwr := rfl
@[simp] theorem Hub.setPort_pmbus (h : Hub) (p : Nat) (f : Port → Port) : (h.setPort p f).pmbus = h.pmbus := rfl
@[simp] theorem Hub.setPort_boot (h : Hub) (p : Nat) (f : Port → Port) : (h.setPort p f).boot = h.boot := rfl
@[simp] theorem Hub.setPort_flash (h : Hub) (p : Nat) (f : Port → Port) : (h.setPort p f).flash = h.flash := rfl
@[simp] theorem Hub.setPort_tag (h : Hub) (p : Nat) (f : Port → Port) : (h.setPort p f).tag = h.tag := rfl
@[simp] theorem Hub.setPort_tap (h : Hub) (p : Nat) (f : Port → Port) : (h.setPort p f).tap = h.tap := rfl
@[simp] theorem Hub.setPort_fresh (h : Hub) (p : Nat) (f : Port → Port) : (h.setPort p f).fresh = h.fresh := rfl

/-! ### setCap -/
@[simp] theorem Hub.setCap_ident (h : Hub) (n : Nat) (f : Capture → Capture) : (h.setCap n f).ident = h.ident := rfl
@[simp] theorem Hub.setCap_clk (h : Hub) (n : Nat) (f : Capture → Capture) : (h.setCap n f).clk = h.clk := rfl
@[simp] theorem Hub.setCap_tm (h : Hub) (n : Nat) (f : Capture → Capture) : (h.setCap n f).tm = h.tm := rfl
@[simp] theorem Hub.setCap_chans (h : Hub) (n : Nat) (f : Capture → Capture) : (h.setCap n f).chans = h.chans := rfl
@[simp] theorem Hub.setCap_octs (h : Hub) (n : Nat) (f : Capture → Capture) : (h.setCap n f).octs = h.octs := rfl
@[simp] theorem Hub.setCap_reps (h : Hub) (n : Nat) (f : Capture → Capture) : (h.setCap n f).reps = h.reps := rfl
@[simp] theorem Hub.setCap_dies (h : Hub) (n : Nat) (f : Capture → Capture) : (h.setCap n f).dies = h.dies := rfl
@[simp] theorem Hub.setCap_trg (h : Hub) (n : Nat) (f : Capture → Capture) : (h.setCap n f).trg = h.trg := rfl
@[simp] theorem Hub.setCap_caps (h : Hub) (n : Nat) (f : Capture → Capture) : (h.setCap n f).caps = h.caps.modify n (Option.map f) := rfl
@[simp] theorem Hub.setCap_nextTrain (h : Hub) (n : Nat) (f : Capture → Capture) : (h.setCap n f).nextTrain = h.nextTrain := rfl
@[simp] theorem Hub.setCap_saved (h : Hub) (n : Nat) (f : Capture → Capture) : (h.setCap n f).saved = h.saved := rfl
@[simp] theorem Hub.setCap_jobs (h : Hub) (n : Nat) (f : Capture → Capture) : (h.setCap n f).jobs = h.jobs := rfl
@[simp] theorem Hub.setCap_nextHandle (h : Hub) (n : Nat) (f : Capture → Capture) : (h.setCap n f).nextHandle = h.nextHandle := rfl
@[simp] theorem Hub.setCap_nextJob (h : Hub) (n : Nat) (f : Capture → Capture) : (h.setCap n f).nextJob = h.nextJob := rfl
@[simp] theorem Hub.setCap_flows (h : Hub) (n : Nat) (f : Capture → Capture) : (h.setCap n f).flows = h.flows := rfl
@[simp] theorem Hub.setCap_strm (h : Hub) (n : Nat) (f : Capture → Capture) : (h.setCap n f).strm = h.strm := rfl
@[simp] theorem Hub.setCap_hk (h : Hub) (n : Nat) (f : Capture → Capture) : (h.setCap n f).hk = h.hk := rfl
@[simp] theorem Hub.setCap_sep (h : Hub) (n : Nat) (f : Capture → Capture) : (h.setCap n f).sep = h.sep := rfl
@[simp] theorem Hub.setCap_ports (h : Hub) (n : Nat) (f : Capture → Capture) : (h.setCap n f).ports = h.ports := rfl
@[simp] theorem Hub.setCap_enm (h : Hub) (n : Nat) (f : Capture → Capture) : (h.setCap n f).enm = h.enm := rfl
@[simp] theorem Hub.setCap_mgmt (h : Hub) (n : Nat) (f : Capture → Capture) : (h.setCap n f).mgmt = h.mgmt := rfl
@[simp] theorem Hub.setCap_dbw (h : Hub) (n : Nat) (f : Capture → Capture) : (h.setCap n f).dbw = h.dbw := rfl
@[simp] theorem Hub.setCap_fseal (h : Hub) (n : Nat) (f : Capture → Capture) : (h.setCap n f).fseal = h.fseal := rfl
@[simp] theorem Hub.setCap_flt (h : Hub) (n : Nat) (f : Capture → Capture) : (h.setCap n f).flt = h.flt := rfl
@[simp] theorem Hub.setCap_cal (h : Hub) (n : Nat) (f : Capture → Capture) : (h.setCap n f).cal = h.cal := rfl
@[simp] theorem Hub.setCap_pwr (h : Hub) (n : Nat) (f : Capture → Capture) : (h.setCap n f).pwr = h.pwr := rfl
@[simp] theorem Hub.setCap_pmbus (h : Hub) (n : Nat) (f : Capture → Capture) : (h.setCap n f).pmbus = h.pmbus := rfl
@[simp] theorem Hub.setCap_boot (h : Hub) (n : Nat) (f : Capture → Capture) : (h.setCap n f).boot = h.boot := rfl
@[simp] theorem Hub.setCap_flash (h : Hub) (n : Nat) (f : Capture → Capture) : (h.setCap n f).flash = h.flash := rfl
@[simp] theorem Hub.setCap_tag (h : Hub) (n : Nat) (f : Capture → Capture) : (h.setCap n f).tag = h.tag := rfl
@[simp] theorem Hub.setCap_tap (h : Hub) (n : Nat) (f : Capture → Capture) : (h.setCap n f).tap = h.tap := rfl
@[simp] theorem Hub.setCap_fresh (h : Hub) (n : Nat) (f : Capture → Capture) : (h.setCap n f).fresh = h.fresh := rfl

/-! ### setFlow -/
@[simp] theorem Hub.setFlow_ident (h : Hub) (k : FlowKey) (g : Flow → Flow) : (h.setFlow k g).ident = h.ident := rfl
@[simp] theorem Hub.setFlow_clk (h : Hub) (k : FlowKey) (g : Flow → Flow) : (h.setFlow k g).clk = h.clk := rfl
@[simp] theorem Hub.setFlow_tm (h : Hub) (k : FlowKey) (g : Flow → Flow) : (h.setFlow k g).tm = h.tm := rfl
@[simp] theorem Hub.setFlow_chans (h : Hub) (k : FlowKey) (g : Flow → Flow) : (h.setFlow k g).chans = h.chans := rfl
@[simp] theorem Hub.setFlow_octs (h : Hub) (k : FlowKey) (g : Flow → Flow) : (h.setFlow k g).octs = h.octs := rfl
@[simp] theorem Hub.setFlow_reps (h : Hub) (k : FlowKey) (g : Flow → Flow) : (h.setFlow k g).reps = h.reps := rfl
@[simp] theorem Hub.setFlow_dies (h : Hub) (k : FlowKey) (g : Flow → Flow) : (h.setFlow k g).dies = h.dies := rfl
@[simp] theorem Hub.setFlow_trg (h : Hub) (k : FlowKey) (g : Flow → Flow) : (h.setFlow k g).trg = h.trg := rfl
@[simp] theorem Hub.setFlow_caps (h : Hub) (k : FlowKey) (g : Flow → Flow) : (h.setFlow k g).caps = h.caps := rfl
@[simp] theorem Hub.setFlow_nextTrain (h : Hub) (k : FlowKey) (g : Flow → Flow) : (h.setFlow k g).nextTrain = h.nextTrain := rfl
@[simp] theorem Hub.setFlow_saved (h : Hub) (k : FlowKey) (g : Flow → Flow) : (h.setFlow k g).saved = h.saved := rfl
@[simp] theorem Hub.setFlow_jobs (h : Hub) (k : FlowKey) (g : Flow → Flow) : (h.setFlow k g).jobs = h.jobs := rfl
@[simp] theorem Hub.setFlow_nextHandle (h : Hub) (k : FlowKey) (g : Flow → Flow) : (h.setFlow k g).nextHandle = h.nextHandle := rfl
@[simp] theorem Hub.setFlow_nextJob (h : Hub) (k : FlowKey) (g : Flow → Flow) : (h.setFlow k g).nextJob = h.nextJob := rfl
@[simp] theorem Hub.setFlow_flows (h : Hub) (k : FlowKey) (g : Flow → Flow) : (h.setFlow k g).flows = h.flows.map fun f => if f.key == k then g f else f := rfl
@[simp] theorem Hub.setFlow_strm (h : Hub) (k : FlowKey) (g : Flow → Flow) : (h.setFlow k g).strm = h.strm := rfl
@[simp] theorem Hub.setFlow_hk (h : Hub) (k : FlowKey) (g : Flow → Flow) : (h.setFlow k g).hk = h.hk := rfl
@[simp] theorem Hub.setFlow_sep (h : Hub) (k : FlowKey) (g : Flow → Flow) : (h.setFlow k g).sep = h.sep := rfl
@[simp] theorem Hub.setFlow_ports (h : Hub) (k : FlowKey) (g : Flow → Flow) : (h.setFlow k g).ports = h.ports := rfl
@[simp] theorem Hub.setFlow_enm (h : Hub) (k : FlowKey) (g : Flow → Flow) : (h.setFlow k g).enm = h.enm := rfl
@[simp] theorem Hub.setFlow_mgmt (h : Hub) (k : FlowKey) (g : Flow → Flow) : (h.setFlow k g).mgmt = h.mgmt := rfl
@[simp] theorem Hub.setFlow_dbw (h : Hub) (k : FlowKey) (g : Flow → Flow) : (h.setFlow k g).dbw = h.dbw := rfl
@[simp] theorem Hub.setFlow_fseal (h : Hub) (k : FlowKey) (g : Flow → Flow) : (h.setFlow k g).fseal = h.fseal := rfl
@[simp] theorem Hub.setFlow_flt (h : Hub) (k : FlowKey) (g : Flow → Flow) : (h.setFlow k g).flt = h.flt := rfl
@[simp] theorem Hub.setFlow_cal (h : Hub) (k : FlowKey) (g : Flow → Flow) : (h.setFlow k g).cal = h.cal := rfl
@[simp] theorem Hub.setFlow_pwr (h : Hub) (k : FlowKey) (g : Flow → Flow) : (h.setFlow k g).pwr = h.pwr := rfl
@[simp] theorem Hub.setFlow_pmbus (h : Hub) (k : FlowKey) (g : Flow → Flow) : (h.setFlow k g).pmbus = h.pmbus := rfl
@[simp] theorem Hub.setFlow_boot (h : Hub) (k : FlowKey) (g : Flow → Flow) : (h.setFlow k g).boot = h.boot := rfl
@[simp] theorem Hub.setFlow_flash (h : Hub) (k : FlowKey) (g : Flow → Flow) : (h.setFlow k g).flash = h.flash := rfl
@[simp] theorem Hub.setFlow_tag (h : Hub) (k : FlowKey) (g : Flow → Flow) : (h.setFlow k g).tag = h.tag := rfl
@[simp] theorem Hub.setFlow_tap (h : Hub) (k : FlowKey) (g : Flow → Flow) : (h.setFlow k g).tap = h.tap := rfl
@[simp] theorem Hub.setFlow_fresh (h : Hub) (k : FlowKey) (g : Flow → Flow) : (h.setFlow k g).fresh = h.fresh := rfl

/-! ### withReply -/
@[simp] theorem Hub.withReply_ident (h : Hub) (r : Reply) : (h.withReply r).ident = h.ident := rfl
@[simp] theorem Hub.withReply_clk (h : Hub) (r : Reply) : (h.withReply r).clk = h.clk := rfl
@[simp] theorem Hub.withReply_tm (h : Hub) (r : Reply) : (h.withReply r).tm = h.tm := rfl
@[simp] theorem Hub.withReply_chans (h : Hub) (r : Reply) : (h.withReply r).chans = h.chans := rfl
@[simp] theorem Hub.withReply_octs (h : Hub) (r : Reply) : (h.withReply r).octs = h.octs := rfl
@[simp] theorem Hub.withReply_reps (h : Hub) (r : Reply) : (h.withReply r).reps = h.reps := rfl
@[simp] theorem Hub.withReply_dies (h : Hub) (r : Reply) : (h.withReply r).dies = h.dies := rfl
@[simp] theorem Hub.withReply_trg (h : Hub) (r : Reply) : (h.withReply r).trg = h.trg := rfl
@[simp] theorem Hub.withReply_caps (h : Hub) (r : Reply) : (h.withReply r).caps = h.caps := rfl
@[simp] theorem Hub.withReply_nextTrain (h : Hub) (r : Reply) : (h.withReply r).nextTrain = h.nextTrain := rfl
@[simp] theorem Hub.withReply_saved (h : Hub) (r : Reply) : (h.withReply r).saved = h.saved := rfl
@[simp] theorem Hub.withReply_jobs (h : Hub) (r : Reply) : (h.withReply r).jobs = h.jobs := rfl
@[simp] theorem Hub.withReply_nextHandle (h : Hub) (r : Reply) : (h.withReply r).nextHandle = h.nextHandle := rfl
@[simp] theorem Hub.withReply_nextJob (h : Hub) (r : Reply) : (h.withReply r).nextJob = h.nextJob := rfl
@[simp] theorem Hub.withReply_flows (h : Hub) (r : Reply) : (h.withReply r).flows = h.flows := rfl
@[simp] theorem Hub.withReply_strm (h : Hub) (r : Reply) : (h.withReply r).strm = h.strm := rfl
@[simp] theorem Hub.withReply_hk (h : Hub) (r : Reply) : (h.withReply r).hk = h.hk := rfl
@[simp] theorem Hub.withReply_sep (h : Hub) (r : Reply) : (h.withReply r).sep = h.sep := rfl
@[simp] theorem Hub.withReply_ports (h : Hub) (r : Reply) : (h.withReply r).ports = h.ports := rfl
@[simp] theorem Hub.withReply_enm (h : Hub) (r : Reply) : (h.withReply r).enm = h.enm := rfl
@[simp] theorem Hub.withReply_mgmt (h : Hub) (r : Reply) : (h.withReply r).mgmt = { h.mgmt with reply := r } := rfl
@[simp] theorem Hub.withReply_dbw (h : Hub) (r : Reply) : (h.withReply r).dbw = h.dbw := rfl
@[simp] theorem Hub.withReply_fseal (h : Hub) (r : Reply) : (h.withReply r).fseal = h.fseal := rfl
@[simp] theorem Hub.withReply_flt (h : Hub) (r : Reply) : (h.withReply r).flt = h.flt := rfl
@[simp] theorem Hub.withReply_cal (h : Hub) (r : Reply) : (h.withReply r).cal = h.cal := rfl
@[simp] theorem Hub.withReply_pwr (h : Hub) (r : Reply) : (h.withReply r).pwr = h.pwr := rfl
@[simp] theorem Hub.withReply_pmbus (h : Hub) (r : Reply) : (h.withReply r).pmbus = h.pmbus := rfl
@[simp] theorem Hub.withReply_boot (h : Hub) (r : Reply) : (h.withReply r).boot = h.boot := rfl
@[simp] theorem Hub.withReply_flash (h : Hub) (r : Reply) : (h.withReply r).flash = h.flash := rfl
@[simp] theorem Hub.withReply_tag (h : Hub) (r : Reply) : (h.withReply r).tag = h.tag := rfl
@[simp] theorem Hub.withReply_tap (h : Hub) (r : Reply) : (h.withReply r).tap = h.tap := rfl
@[simp] theorem Hub.withReply_fresh (h : Hub) (r : Reply) : (h.withReply r).fresh = h.fresh := rfl

/-! ### ok -/
@[simp] theorem Hub.ok_ident (h : Hub) (p : Bytes) : (h.ok p).ident = h.ident := rfl
@[simp] theorem Hub.ok_clk (h : Hub) (p : Bytes) : (h.ok p).clk = h.clk := rfl
@[simp] theorem Hub.ok_tm (h : Hub) (p : Bytes) : (h.ok p).tm = h.tm := rfl
@[simp] theorem Hub.ok_chans (h : Hub) (p : Bytes) : (h.ok p).chans = h.chans := rfl
@[simp] theorem Hub.ok_octs (h : Hub) (p : Bytes) : (h.ok p).octs = h.octs := rfl
@[simp] theorem Hub.ok_reps (h : Hub) (p : Bytes) : (h.ok p).reps = h.reps := rfl
@[simp] theorem Hub.ok_dies (h : Hub) (p : Bytes) : (h.ok p).dies = h.dies := rfl
@[simp] theorem Hub.ok_trg (h : Hub) (p : Bytes) : (h.ok p).trg = h.trg := rfl
@[simp] theorem Hub.ok_caps (h : Hub) (p : Bytes) : (h.ok p).caps = h.caps := rfl
@[simp] theorem Hub.ok_nextTrain (h : Hub) (p : Bytes) : (h.ok p).nextTrain = h.nextTrain := rfl
@[simp] theorem Hub.ok_saved (h : Hub) (p : Bytes) : (h.ok p).saved = h.saved := rfl
@[simp] theorem Hub.ok_jobs (h : Hub) (p : Bytes) : (h.ok p).jobs = h.jobs := rfl
@[simp] theorem Hub.ok_nextHandle (h : Hub) (p : Bytes) : (h.ok p).nextHandle = h.nextHandle := rfl
@[simp] theorem Hub.ok_nextJob (h : Hub) (p : Bytes) : (h.ok p).nextJob = h.nextJob := rfl
@[simp] theorem Hub.ok_flows (h : Hub) (p : Bytes) : (h.ok p).flows = h.flows := rfl
@[simp] theorem Hub.ok_strm (h : Hub) (p : Bytes) : (h.ok p).strm = h.strm := rfl
@[simp] theorem Hub.ok_hk (h : Hub) (p : Bytes) : (h.ok p).hk = h.hk := rfl
@[simp] theorem Hub.ok_sep (h : Hub) (p : Bytes) : (h.ok p).sep = h.sep := rfl
@[simp] theorem Hub.ok_ports (h : Hub) (p : Bytes) : (h.ok p).ports = h.ports := rfl
@[simp] theorem Hub.ok_enm (h : Hub) (p : Bytes) : (h.ok p).enm = h.enm := rfl
@[simp] theorem Hub.ok_mgmt (h : Hub) (p : Bytes) : (h.ok p).mgmt = { h.mgmt with reply := ⟨St.ok, 0, 255, p⟩ } := rfl
@[simp] theorem Hub.ok_dbw (h : Hub) (p : Bytes) : (h.ok p).dbw = h.dbw := rfl
@[simp] theorem Hub.ok_fseal (h : Hub) (p : Bytes) : (h.ok p).fseal = h.fseal := rfl
@[simp] theorem Hub.ok_flt (h : Hub) (p : Bytes) : (h.ok p).flt = h.flt := rfl
@[simp] theorem Hub.ok_cal (h : Hub) (p : Bytes) : (h.ok p).cal = h.cal := rfl
@[simp] theorem Hub.ok_pwr (h : Hub) (p : Bytes) : (h.ok p).pwr = h.pwr := rfl
@[simp] theorem Hub.ok_pmbus (h : Hub) (p : Bytes) : (h.ok p).pmbus = h.pmbus := rfl
@[simp] theorem Hub.ok_boot (h : Hub) (p : Bytes) : (h.ok p).boot = h.boot := rfl
@[simp] theorem Hub.ok_flash (h : Hub) (p : Bytes) : (h.ok p).flash = h.flash := rfl
@[simp] theorem Hub.ok_tag (h : Hub) (p : Bytes) : (h.ok p).tag = h.tag := rfl
@[simp] theorem Hub.ok_tap (h : Hub) (p : Bytes) : (h.ok p).tap = h.tap := rfl
@[simp] theorem Hub.ok_fresh (h : Hub) (p : Bytes) : (h.ok p).fresh = h.fresh := rfl

/-! ### refuse -/
@[simp] theorem Hub.refuse_ident (h : Hub) (st : Nat) : (h.refuse st).ident = h.ident := rfl
@[simp] theorem Hub.refuse_clk (h : Hub) (st : Nat) : (h.refuse st).clk = h.clk := rfl
@[simp] theorem Hub.refuse_tm (h : Hub) (st : Nat) : (h.refuse st).tm = h.tm := rfl
@[simp] theorem Hub.refuse_chans (h : Hub) (st : Nat) : (h.refuse st).chans = h.chans := rfl
@[simp] theorem Hub.refuse_octs (h : Hub) (st : Nat) : (h.refuse st).octs = h.octs := rfl
@[simp] theorem Hub.refuse_reps (h : Hub) (st : Nat) : (h.refuse st).reps = h.reps := rfl
@[simp] theorem Hub.refuse_dies (h : Hub) (st : Nat) : (h.refuse st).dies = h.dies := rfl
@[simp] theorem Hub.refuse_trg (h : Hub) (st : Nat) : (h.refuse st).trg = h.trg := rfl
@[simp] theorem Hub.refuse_caps (h : Hub) (st : Nat) : (h.refuse st).caps = h.caps := rfl
@[simp] theorem Hub.refuse_nextTrain (h : Hub) (st : Nat) : (h.refuse st).nextTrain = h.nextTrain := rfl
@[simp] theorem Hub.refuse_saved (h : Hub) (st : Nat) : (h.refuse st).saved = h.saved := rfl
@[simp] theorem Hub.refuse_jobs (h : Hub) (st : Nat) : (h.refuse st).jobs = h.jobs := rfl
@[simp] theorem Hub.refuse_nextHandle (h : Hub) (st : Nat) : (h.refuse st).nextHandle = h.nextHandle := rfl
@[simp] theorem Hub.refuse_nextJob (h : Hub) (st : Nat) : (h.refuse st).nextJob = h.nextJob := rfl
@[simp] theorem Hub.refuse_flows (h : Hub) (st : Nat) : (h.refuse st).flows = h.flows := rfl
@[simp] theorem Hub.refuse_strm (h : Hub) (st : Nat) : (h.refuse st).strm = h.strm := rfl
@[simp] theorem Hub.refuse_hk (h : Hub) (st : Nat) : (h.refuse st).hk = h.hk := rfl
@[simp] theorem Hub.refuse_sep (h : Hub) (st : Nat) : (h.refuse st).sep = h.sep := rfl
@[simp] theorem Hub.refuse_ports (h : Hub) (st : Nat) : (h.refuse st).ports = h.ports := rfl
@[simp] theorem Hub.refuse_enm (h : Hub) (st : Nat) : (h.refuse st).enm = h.enm := rfl
@[simp] theorem Hub.refuse_mgmt (h : Hub) (st : Nat) : (h.refuse st).mgmt = { h.mgmt with reply := ⟨st, 0, 255, []⟩ } := rfl
@[simp] theorem Hub.refuse_dbw (h : Hub) (st : Nat) : (h.refuse st).dbw = h.dbw := rfl
@[simp] theorem Hub.refuse_fseal (h : Hub) (st : Nat) : (h.refuse st).fseal = h.fseal := rfl
@[simp] theorem Hub.refuse_flt (h : Hub) (st : Nat) : (h.refuse st).flt = h.flt := rfl
@[simp] theorem Hub.refuse_cal (h : Hub) (st : Nat) : (h.refuse st).cal = h.cal := rfl
@[simp] theorem Hub.refuse_pwr (h : Hub) (st : Nat) : (h.refuse st).pwr = h.pwr := rfl
@[simp] theorem Hub.refuse_pmbus (h : Hub) (st : Nat) : (h.refuse st).pmbus = h.pmbus := rfl
@[simp] theorem Hub.refuse_boot (h : Hub) (st : Nat) : (h.refuse st).boot = h.boot := rfl
@[simp] theorem Hub.refuse_flash (h : Hub) (st : Nat) : (h.refuse st).flash = h.flash := rfl
@[simp] theorem Hub.refuse_tag (h : Hub) (st : Nat) : (h.refuse st).tag = h.tag := rfl
@[simp] theorem Hub.refuse_tap (h : Hub) (st : Nat) : (h.refuse st).tap = h.tap := rfl
@[simp] theorem Hub.refuse_fresh (h : Hub) (st : Nat) : (h.refuse st).fresh = h.fresh := rfl

/-! ### refuseDie -/
@[simp] theorem Hub.refuseDie_ident (h : Hub) (st d : Nat) : (h.refuseDie st d).ident = h.ident := rfl
@[simp] theorem Hub.refuseDie_clk (h : Hub) (st d : Nat) : (h.refuseDie st d).clk = h.clk := rfl
@[simp] theorem Hub.refuseDie_tm (h : Hub) (st d : Nat) : (h.refuseDie st d).tm = h.tm := rfl
@[simp] theorem Hub.refuseDie_chans (h : Hub) (st d : Nat) : (h.refuseDie st d).chans = h.chans := rfl
@[simp] theorem Hub.refuseDie_octs (h : Hub) (st d : Nat) : (h.refuseDie st d).octs = h.octs := rfl
@[simp] theorem Hub.refuseDie_reps (h : Hub) (st d : Nat) : (h.refuseDie st d).reps = h.reps := rfl
@[simp] theorem Hub.refuseDie_dies (h : Hub) (st d : Nat) : (h.refuseDie st d).dies = h.dies := rfl
@[simp] theorem Hub.refuseDie_trg (h : Hub) (st d : Nat) : (h.refuseDie st d).trg = h.trg := rfl
@[simp] theorem Hub.refuseDie_caps (h : Hub) (st d : Nat) : (h.refuseDie st d).caps = h.caps := rfl
@[simp] theorem Hub.refuseDie_nextTrain (h : Hub) (st d : Nat) : (h.refuseDie st d).nextTrain = h.nextTrain := rfl
@[simp] theorem Hub.refuseDie_saved (h : Hub) (st d : Nat) : (h.refuseDie st d).saved = h.saved := rfl
@[simp] theorem Hub.refuseDie_jobs (h : Hub) (st d : Nat) : (h.refuseDie st d).jobs = h.jobs := rfl
@[simp] theorem Hub.refuseDie_nextHandle (h : Hub) (st d : Nat) : (h.refuseDie st d).nextHandle = h.nextHandle := rfl
@[simp] theorem Hub.refuseDie_nextJob (h : Hub) (st d : Nat) : (h.refuseDie st d).nextJob = h.nextJob := rfl
@[simp] theorem Hub.refuseDie_flows (h : Hub) (st d : Nat) : (h.refuseDie st d).flows = h.flows := rfl
@[simp] theorem Hub.refuseDie_strm (h : Hub) (st d : Nat) : (h.refuseDie st d).strm = h.strm := rfl
@[simp] theorem Hub.refuseDie_hk (h : Hub) (st d : Nat) : (h.refuseDie st d).hk = h.hk := rfl
@[simp] theorem Hub.refuseDie_sep (h : Hub) (st d : Nat) : (h.refuseDie st d).sep = h.sep := rfl
@[simp] theorem Hub.refuseDie_ports (h : Hub) (st d : Nat) : (h.refuseDie st d).ports = h.ports := rfl
@[simp] theorem Hub.refuseDie_enm (h : Hub) (st d : Nat) : (h.refuseDie st d).enm = h.enm := rfl
@[simp] theorem Hub.refuseDie_mgmt (h : Hub) (st d : Nat) : (h.refuseDie st d).mgmt = { h.mgmt with reply := ⟨st, 0, d, []⟩ } := rfl
@[simp] theorem Hub.refuseDie_dbw (h : Hub) (st d : Nat) : (h.refuseDie st d).dbw = h.dbw := rfl
@[simp] theorem Hub.refuseDie_fseal (h : Hub) (st d : Nat) : (h.refuseDie st d).fseal = h.fseal := rfl
@[simp] theorem Hub.refuseDie_flt (h : Hub) (st d : Nat) : (h.refuseDie st d).flt = h.flt := rfl
@[simp] theorem Hub.refuseDie_cal (h : Hub) (st d : Nat) : (h.refuseDie st d).cal = h.cal := rfl
@[simp] theorem Hub.refuseDie_pwr (h : Hub) (st d : Nat) : (h.refuseDie st d).pwr = h.pwr := rfl
@[simp] theorem Hub.refuseDie_pmbus (h : Hub) (st d : Nat) : (h.refuseDie st d).pmbus = h.pmbus := rfl
@[simp] theorem Hub.refuseDie_boot (h : Hub) (st d : Nat) : (h.refuseDie st d).boot = h.boot := rfl
@[simp] theorem Hub.refuseDie_flash (h : Hub) (st d : Nat) : (h.refuseDie st d).flash = h.flash := rfl
@[simp] theorem Hub.refuseDie_tag (h : Hub) (st d : Nat) : (h.refuseDie st d).tag = h.tag := rfl
@[simp] theorem Hub.refuseDie_tap (h : Hub) (st d : Nat) : (h.refuseDie st d).tap = h.tap := rfl
@[simp] theorem Hub.refuseDie_fresh (h : Hub) (st d : Nat) : (h.refuseDie st d).fresh = h.fresh := rfl

/-! ### busy -/
@[simp] theorem Hub.busy_ident (h : Hub) (ms : Nat) : (h.busy ms).ident = h.ident := rfl
@[simp] theorem Hub.busy_clk (h : Hub) (ms : Nat) : (h.busy ms).clk = h.clk := rfl
@[simp] theorem Hub.busy_tm (h : Hub) (ms : Nat) : (h.busy ms).tm = h.tm := rfl
@[simp] theorem Hub.busy_chans (h : Hub) (ms : Nat) : (h.busy ms).chans = h.chans := rfl
@[simp] theorem Hub.busy_octs (h : Hub) (ms : Nat) : (h.busy ms).octs = h.octs := rfl
@[simp] theorem Hub.busy_reps (h : Hub) (ms : Nat) : (h.busy ms).reps = h.reps := rfl
@[simp] theorem Hub.busy_dies (h : Hub) (ms : Nat) : (h.busy ms).dies = h.dies := rfl
@[simp] theorem Hub.busy_trg (h : Hub) (ms : Nat) : (h.busy ms).trg = h.trg := rfl
@[simp] theorem Hub.busy_caps (h : Hub) (ms : Nat) : (h.busy ms).caps = h.caps := rfl
@[simp] theorem Hub.busy_nextTrain (h : Hub) (ms : Nat) : (h.busy ms).nextTrain = h.nextTrain := rfl
@[simp] theorem Hub.busy_saved (h : Hub) (ms : Nat) : (h.busy ms).saved = h.saved := rfl
@[simp] theorem Hub.busy_jobs (h : Hub) (ms : Nat) : (h.busy ms).jobs = h.jobs := rfl
@[simp] theorem Hub.busy_nextHandle (h : Hub) (ms : Nat) : (h.busy ms).nextHandle = h.nextHandle := rfl
@[simp] theorem Hub.busy_nextJob (h : Hub) (ms : Nat) : (h.busy ms).nextJob = h.nextJob := rfl
@[simp] theorem Hub.busy_flows (h : Hub) (ms : Nat) : (h.busy ms).flows = h.flows := rfl
@[simp] theorem Hub.busy_strm (h : Hub) (ms : Nat) : (h.busy ms).strm = h.strm := rfl
@[simp] theorem Hub.busy_hk (h : Hub) (ms : Nat) : (h.busy ms).hk = h.hk := rfl
@[simp] theorem Hub.busy_sep (h : Hub) (ms : Nat) : (h.busy ms).sep = h.sep := rfl
@[simp] theorem Hub.busy_ports (h : Hub) (ms : Nat) : (h.busy ms).ports = h.ports := rfl
@[simp] theorem Hub.busy_enm (h : Hub) (ms : Nat) : (h.busy ms).enm = h.enm := rfl
@[simp] theorem Hub.busy_mgmt (h : Hub) (ms : Nat) : (h.busy ms).mgmt = { h.mgmt with reply := ⟨St.busy, max 1 ms, 255, []⟩ } := rfl
@[simp] theorem Hub.busy_dbw (h : Hub) (ms : Nat) : (h.busy ms).dbw = h.dbw := rfl
@[simp] theorem Hub.busy_fseal (h : Hub) (ms : Nat) : (h.busy ms).fseal = h.fseal := rfl
@[simp] theorem Hub.busy_flt (h : Hub) (ms : Nat) : (h.busy ms).flt = h.flt := rfl
@[simp] theorem Hub.busy_cal (h : Hub) (ms : Nat) : (h.busy ms).cal = h.cal := rfl
@[simp] theorem Hub.busy_pwr (h : Hub) (ms : Nat) : (h.busy ms).pwr = h.pwr := rfl
@[simp] theorem Hub.busy_pmbus (h : Hub) (ms : Nat) : (h.busy ms).pmbus = h.pmbus := rfl
@[simp] theorem Hub.busy_boot (h : Hub) (ms : Nat) : (h.busy ms).boot = h.boot := rfl
@[simp] theorem Hub.busy_flash (h : Hub) (ms : Nat) : (h.busy ms).flash = h.flash := rfl
@[simp] theorem Hub.busy_tag (h : Hub) (ms : Nat) : (h.busy ms).tag = h.tag := rfl
@[simp] theorem Hub.busy_tap (h : Hub) (ms : Nat) : (h.busy ms).tap = h.tap := rfl
@[simp] theorem Hub.busy_fresh (h : Hub) (ms : Nat) : (h.busy ms).fresh = h.fresh := rfl

/-! ### busyDie -/
@[simp] theorem Hub.busyDie_ident (h : Hub) (ms d : Nat) : (h.busyDie ms d).ident = h.ident := rfl
@[simp] theorem Hub.busyDie_clk (h : Hub) (ms d : Nat) : (h.busyDie ms d).clk = h.clk := rfl
@[simp] theorem Hub.busyDie_tm (h : Hub) (ms d : Nat) : (h.busyDie ms d).tm = h.tm := rfl
@[simp] theorem Hub.busyDie_chans (h : Hub) (ms d : Nat) : (h.busyDie ms d).chans = h.chans := rfl
@[simp] theorem Hub.busyDie_octs (h : Hub) (ms d : Nat) : (h.busyDie ms d).octs = h.octs := rfl
@[simp] theorem Hub.busyDie_reps (h : Hub) (ms d : Nat) : (h.busyDie ms d).reps = h.reps := rfl
@[simp] theorem Hub.busyDie_dies (h : Hub) (ms d : Nat) : (h.busyDie ms d).dies = h.dies := rfl
@[simp] theorem Hub.busyDie_trg (h : Hub) (ms d : Nat) : (h.busyDie ms d).trg = h.trg := rfl
@[simp] theorem Hub.busyDie_caps (h : Hub) (ms d : Nat) : (h.busyDie ms d).caps = h.caps := rfl
@[simp] theorem Hub.busyDie_nextTrain (h : Hub) (ms d : Nat) : (h.busyDie ms d).nextTrain = h.nextTrain := rfl
@[simp] theorem Hub.busyDie_saved (h : Hub) (ms d : Nat) : (h.busyDie ms d).saved = h.saved := rfl
@[simp] theorem Hub.busyDie_jobs (h : Hub) (ms d : Nat) : (h.busyDie ms d).jobs = h.jobs := rfl
@[simp] theorem Hub.busyDie_nextHandle (h : Hub) (ms d : Nat) : (h.busyDie ms d).nextHandle = h.nextHandle := rfl
@[simp] theorem Hub.busyDie_nextJob (h : Hub) (ms d : Nat) : (h.busyDie ms d).nextJob = h.nextJob := rfl
@[simp] theorem Hub.busyDie_flows (h : Hub) (ms d : Nat) : (h.busyDie ms d).flows = h.flows := rfl
@[simp] theorem Hub.busyDie_strm (h : Hub) (ms d : Nat) : (h.busyDie ms d).strm = h.strm := rfl
@[simp] theorem Hub.busyDie_hk (h : Hub) (ms d : Nat) : (h.busyDie ms d).hk = h.hk := rfl
@[simp] theorem Hub.busyDie_sep (h : Hub) (ms d : Nat) : (h.busyDie ms d).sep = h.sep := rfl
@[simp] theorem Hub.busyDie_ports (h : Hub) (ms d : Nat) : (h.busyDie ms d).ports = h.ports := rfl
@[simp] theorem Hub.busyDie_enm (h : Hub) (ms d : Nat) : (h.busyDie ms d).enm = h.enm := rfl
@[simp] theorem Hub.busyDie_mgmt (h : Hub) (ms d : Nat) : (h.busyDie ms d).mgmt = { h.mgmt with reply := ⟨St.busy, max 1 ms, d, []⟩ } := rfl
@[simp] theorem Hub.busyDie_dbw (h : Hub) (ms d : Nat) : (h.busyDie ms d).dbw = h.dbw := rfl
@[simp] theorem Hub.busyDie_fseal (h : Hub) (ms d : Nat) : (h.busyDie ms d).fseal = h.fseal := rfl
@[simp] theorem Hub.busyDie_flt (h : Hub) (ms d : Nat) : (h.busyDie ms d).flt = h.flt := rfl
@[simp] theorem Hub.busyDie_cal (h : Hub) (ms d : Nat) : (h.busyDie ms d).cal = h.cal := rfl
@[simp] theorem Hub.busyDie_pwr (h : Hub) (ms d : Nat) : (h.busyDie ms d).pwr = h.pwr := rfl
@[simp] theorem Hub.busyDie_pmbus (h : Hub) (ms d : Nat) : (h.busyDie ms d).pmbus = h.pmbus := rfl
@[simp] theorem Hub.busyDie_boot (h : Hub) (ms d : Nat) : (h.busyDie ms d).boot = h.boot := rfl
@[simp] theorem Hub.busyDie_flash (h : Hub) (ms d : Nat) : (h.busyDie ms d).flash = h.flash := rfl
@[simp] theorem Hub.busyDie_tag (h : Hub) (ms d : Nat) : (h.busyDie ms d).tag = h.tag := rfl
@[simp] theorem Hub.busyDie_tap (h : Hub) (ms d : Nat) : (h.busyDie ms d).tap = h.tap := rfl
@[simp] theorem Hub.busyDie_fresh (h : Hub) (ms d : Nat) : (h.busyDie ms d).fresh = h.fresh := rfl

/-! ### tick -/
@[simp] theorem Hub.tick_ident (h : Hub) : h.tick.ident = h.ident := rfl
@[simp] theorem Hub.tick_clk (h : Hub) : h.tick.clk = h.clk := rfl
@[simp] theorem Hub.tick_tm (h : Hub) : h.tick.tm = h.tm := rfl
@[simp] theorem Hub.tick_chans (h : Hub) : h.tick.chans = h.chans := rfl
@[simp] theorem Hub.tick_octs (h : Hub) : h.tick.octs = h.octs := rfl
@[simp] theorem Hub.tick_reps (h : Hub) : h.tick.reps = h.reps := rfl
@[simp] theorem Hub.tick_dies (h : Hub) : h.tick.dies = h.dies := rfl
@[simp] theorem Hub.tick_trg (h : Hub) : h.tick.trg = h.trg := rfl
@[simp] theorem Hub.tick_caps (h : Hub) : h.tick.caps = h.caps := rfl
@[simp] theorem Hub.tick_nextTrain (h : Hub) : h.tick.nextTrain = h.nextTrain := rfl
@[simp] theorem Hub.tick_saved (h : Hub) : h.tick.saved = h.saved := rfl
@[simp] theorem Hub.tick_jobs (h : Hub) : h.tick.jobs = h.jobs := rfl
@[simp] theorem Hub.tick_nextHandle (h : Hub) : h.tick.nextHandle = h.nextHandle := rfl
@[simp] theorem Hub.tick_nextJob (h : Hub) : h.tick.nextJob = h.nextJob := rfl
@[simp] theorem Hub.tick_flows (h : Hub) : h.tick.flows = h.flows := rfl
@[simp] theorem Hub.tick_strm (h : Hub) : h.tick.strm = h.strm := rfl
@[simp] theorem Hub.tick_hk (h : Hub) : h.tick.hk = h.hk := rfl
@[simp] theorem Hub.tick_sep (h : Hub) : h.tick.sep = h.sep := rfl
@[simp] theorem Hub.tick_ports (h : Hub) : h.tick.ports = h.ports := rfl
@[simp] theorem Hub.tick_enm (h : Hub) : h.tick.enm = h.enm := rfl
@[simp] theorem Hub.tick_mgmt (h : Hub) : h.tick.mgmt = h.mgmt := rfl
@[simp] theorem Hub.tick_dbw (h : Hub) : h.tick.dbw = h.dbw := rfl
@[simp] theorem Hub.tick_fseal (h : Hub) : h.tick.fseal = h.fseal := rfl
@[simp] theorem Hub.tick_flt (h : Hub) : h.tick.flt = h.flt := rfl
@[simp] theorem Hub.tick_cal (h : Hub) : h.tick.cal = h.cal := rfl
@[simp] theorem Hub.tick_pwr (h : Hub) : h.tick.pwr = h.pwr := rfl
@[simp] theorem Hub.tick_pmbus (h : Hub) : h.tick.pmbus = h.pmbus := rfl
@[simp] theorem Hub.tick_boot (h : Hub) : h.tick.boot = h.boot := rfl
@[simp] theorem Hub.tick_flash (h : Hub) : h.tick.flash = h.flash := rfl
@[simp] theorem Hub.tick_tag (h : Hub) : h.tick.tag = h.tag := rfl
@[simp] theorem Hub.tick_tap (h : Hub) : h.tick.tap = h.tap := rfl
@[simp] theorem Hub.tick_fresh (h : Hub) : h.tick.fresh = h.fresh + 1 := rfl

/-! ### raise -/
@[simp] theorem Hub.raise_ident (h : Hub) (b : Nat) : (h.raise b).ident = h.ident := rfl
@[simp] theorem Hub.raise_clk (h : Hub) (b : Nat) : (h.raise b).clk = h.clk := rfl
@[simp] theorem Hub.raise_tm (h : Hub) (b : Nat) : (h.raise b).tm = h.tm := rfl
@[simp] theorem Hub.raise_chans (h : Hub) (b : Nat) : (h.raise b).chans = h.chans := rfl
@[simp] theorem Hub.raise_octs (h : Hub) (b : Nat) : (h.raise b).octs = h.octs := rfl
@[simp] theorem Hub.raise_reps (h : Hub) (b : Nat) : (h.raise b).reps = h.reps := rfl
@[simp] theorem Hub.raise_dies (h : Hub) (b : Nat) : (h.raise b).dies = h.dies := rfl
@[simp] theorem Hub.raise_trg (h : Hub) (b : Nat) : (h.raise b).trg = h.trg := rfl
@[simp] theorem Hub.raise_caps (h : Hub) (b : Nat) : (h.raise b).caps = h.caps := rfl
@[simp] theorem Hub.raise_nextTrain (h : Hub) (b : Nat) : (h.raise b).nextTrain = h.nextTrain := rfl
@[simp] theorem Hub.raise_saved (h : Hub) (b : Nat) : (h.raise b).saved = h.saved := rfl
@[simp] theorem Hub.raise_jobs (h : Hub) (b : Nat) : (h.raise b).jobs = h.jobs := rfl
@[simp] theorem Hub.raise_nextHandle (h : Hub) (b : Nat) : (h.raise b).nextHandle = h.nextHandle := rfl
@[simp] theorem Hub.raise_nextJob (h : Hub) (b : Nat) : (h.raise b).nextJob = h.nextJob := rfl
@[simp] theorem Hub.raise_flows (h : Hub) (b : Nat) : (h.raise b).flows = h.flows := rfl
@[simp] theorem Hub.raise_strm (h : Hub) (b : Nat) : (h.raise b).strm = h.strm := rfl
@[simp] theorem Hub.raise_hk (h : Hub) (b : Nat) : (h.raise b).hk = h.hk := rfl
@[simp] theorem Hub.raise_sep (h : Hub) (b : Nat) : (h.raise b).sep = h.sep := rfl
@[simp] theorem Hub.raise_ports (h : Hub) (b : Nat) : (h.raise b).ports = h.ports := rfl
@[simp] theorem Hub.raise_enm (h : Hub) (b : Nat) : (h.raise b).enm = h.enm := rfl
@[simp] theorem Hub.raise_mgmt (h : Hub) (b : Nat) : (h.raise b).mgmt = h.mgmt := rfl
@[simp] theorem Hub.raise_dbw (h : Hub) (b : Nat) : (h.raise b).dbw = { h.dbw with irq := h.dbw.irq ||| BitVec.ofNat 8 (2 ^ b) } := rfl
@[simp] theorem Hub.raise_fseal (h : Hub) (b : Nat) : (h.raise b).fseal = h.fseal := rfl
@[simp] theorem Hub.raise_flt (h : Hub) (b : Nat) : (h.raise b).flt = h.flt := rfl
@[simp] theorem Hub.raise_cal (h : Hub) (b : Nat) : (h.raise b).cal = h.cal := rfl
@[simp] theorem Hub.raise_pwr (h : Hub) (b : Nat) : (h.raise b).pwr = h.pwr := rfl
@[simp] theorem Hub.raise_pmbus (h : Hub) (b : Nat) : (h.raise b).pmbus = h.pmbus := rfl
@[simp] theorem Hub.raise_boot (h : Hub) (b : Nat) : (h.raise b).boot = h.boot := rfl
@[simp] theorem Hub.raise_flash (h : Hub) (b : Nat) : (h.raise b).flash = h.flash := rfl
@[simp] theorem Hub.raise_tag (h : Hub) (b : Nat) : (h.raise b).tag = h.tag := rfl
@[simp] theorem Hub.raise_tap (h : Hub) (b : Nat) : (h.raise b).tap = h.tap := rfl
@[simp] theorem Hub.raise_fresh (h : Hub) (b : Nat) : (h.raise b).fresh = h.fresh := rfl

/-! ### setLink -/
@[simp] theorem Hub.setLink_ident (h : Hub) (p : Nat) (f : Link → Link) : (h.setLink p f).ident = h.ident := rfl
@[simp] theorem Hub.setLink_clk (h : Hub) (p : Nat) (f : Link → Link) : (h.setLink p f).clk = h.clk := rfl
@[simp] theorem Hub.setLink_tm (h : Hub) (p : Nat) (f : Link → Link) : (h.setLink p f).tm = h.tm := rfl
@[simp] theorem Hub.setLink_chans (h : Hub) (p : Nat) (f : Link → Link) : (h.setLink p f).chans = h.chans := rfl
@[simp] theorem Hub.setLink_octs (h : Hub) (p : Nat) (f : Link → Link) : (h.setLink p f).octs = h.octs := rfl
@[simp] theorem Hub.setLink_reps (h : Hub) (p : Nat) (f : Link → Link) : (h.setLink p f).reps = h.reps := rfl
@[simp] theorem Hub.setLink_dies (h : Hub) (p : Nat) (f : Link → Link) : (h.setLink p f).dies = h.dies := rfl
@[simp] theorem Hub.setLink_trg (h : Hub) (p : Nat) (f : Link → Link) : (h.setLink p f).trg = h.trg := rfl
@[simp] theorem Hub.setLink_caps (h : Hub) (p : Nat) (f : Link → Link) : (h.setLink p f).caps = h.caps := rfl
@[simp] theorem Hub.setLink_nextTrain (h : Hub) (p : Nat) (f : Link → Link) : (h.setLink p f).nextTrain = h.nextTrain := rfl
@[simp] theorem Hub.setLink_saved (h : Hub) (p : Nat) (f : Link → Link) : (h.setLink p f).saved = h.saved := rfl
@[simp] theorem Hub.setLink_jobs (h : Hub) (p : Nat) (f : Link → Link) : (h.setLink p f).jobs = h.jobs := rfl
@[simp] theorem Hub.setLink_nextHandle (h : Hub) (p : Nat) (f : Link → Link) : (h.setLink p f).nextHandle = h.nextHandle := rfl
@[simp] theorem Hub.setLink_nextJob (h : Hub) (p : Nat) (f : Link → Link) : (h.setLink p f).nextJob = h.nextJob := rfl
@[simp] theorem Hub.setLink_flows (h : Hub) (p : Nat) (f : Link → Link) : (h.setLink p f).flows = h.flows := rfl
@[simp] theorem Hub.setLink_strm (h : Hub) (p : Nat) (f : Link → Link) : (h.setLink p f).strm = h.strm := rfl
@[simp] theorem Hub.setLink_hk (h : Hub) (p : Nat) (f : Link → Link) : (h.setLink p f).hk = h.hk := rfl
@[simp] theorem Hub.setLink_sep (h : Hub) (p : Nat) (f : Link → Link) : (h.setLink p f).sep = h.sep := rfl
@[simp] theorem Hub.setLink_ports (h : Hub) (p : Nat) (f : Link → Link) : (h.setLink p f).ports = h.ports.modify p fun q => { q with link := f q.link } := rfl
@[simp] theorem Hub.setLink_enm (h : Hub) (p : Nat) (f : Link → Link) : (h.setLink p f).enm = h.enm := rfl
@[simp] theorem Hub.setLink_mgmt (h : Hub) (p : Nat) (f : Link → Link) : (h.setLink p f).mgmt = h.mgmt := rfl
@[simp] theorem Hub.setLink_dbw (h : Hub) (p : Nat) (f : Link → Link) : (h.setLink p f).dbw = h.dbw := rfl
@[simp] theorem Hub.setLink_fseal (h : Hub) (p : Nat) (f : Link → Link) : (h.setLink p f).fseal = h.fseal := rfl
@[simp] theorem Hub.setLink_flt (h : Hub) (p : Nat) (f : Link → Link) : (h.setLink p f).flt = h.flt := rfl
@[simp] theorem Hub.setLink_cal (h : Hub) (p : Nat) (f : Link → Link) : (h.setLink p f).cal = h.cal := rfl
@[simp] theorem Hub.setLink_pwr (h : Hub) (p : Nat) (f : Link → Link) : (h.setLink p f).pwr = h.pwr := rfl
@[simp] theorem Hub.setLink_pmbus (h : Hub) (p : Nat) (f : Link → Link) : (h.setLink p f).pmbus = h.pmbus := rfl
@[simp] theorem Hub.setLink_boot (h : Hub) (p : Nat) (f : Link → Link) : (h.setLink p f).boot = h.boot := rfl
@[simp] theorem Hub.setLink_flash (h : Hub) (p : Nat) (f : Link → Link) : (h.setLink p f).flash = h.flash := rfl
@[simp] theorem Hub.setLink_tag (h : Hub) (p : Nat) (f : Link → Link) : (h.setLink p f).tag = h.tag := rfl
@[simp] theorem Hub.setLink_tap (h : Hub) (p : Nat) (f : Link → Link) : (h.setLink p f).tap = h.tap := rfl
@[simp] theorem Hub.setLink_fresh (h : Hub) (p : Nat) (f : Link → Link) : (h.setLink p f).fresh = h.fresh := rfl

/-! ### setLane -/
@[simp] theorem Hub.setLane_ident (h : Hub) (p l : Nat) (f : Lane → Lane) : (h.setLane p l f).ident = h.ident := rfl
@[simp] theorem Hub.setLane_clk (h : Hub) (p l : Nat) (f : Lane → Lane) : (h.setLane p l f).clk = h.clk := rfl
@[simp] theorem Hub.setLane_tm (h : Hub) (p l : Nat) (f : Lane → Lane) : (h.setLane p l f).tm = h.tm := rfl
@[simp] theorem Hub.setLane_chans (h : Hub) (p l : Nat) (f : Lane → Lane) : (h.setLane p l f).chans = h.chans := rfl
@[simp] theorem Hub.setLane_octs (h : Hub) (p l : Nat) (f : Lane → Lane) : (h.setLane p l f).octs = h.octs := rfl
@[simp] theorem Hub.setLane_reps (h : Hub) (p l : Nat) (f : Lane → Lane) : (h.setLane p l f).reps = h.reps := rfl
@[simp] theorem Hub.setLane_dies (h : Hub) (p l : Nat) (f : Lane → Lane) : (h.setLane p l f).dies = h.dies := rfl
@[simp] theorem Hub.setLane_trg (h : Hub) (p l : Nat) (f : Lane → Lane) : (h.setLane p l f).trg = h.trg := rfl
@[simp] theorem Hub.setLane_caps (h : Hub) (p l : Nat) (f : Lane → Lane) : (h.setLane p l f).caps = h.caps := rfl
@[simp] theorem Hub.setLane_nextTrain (h : Hub) (p l : Nat) (f : Lane → Lane) : (h.setLane p l f).nextTrain = h.nextTrain := rfl
@[simp] theorem Hub.setLane_saved (h : Hub) (p l : Nat) (f : Lane → Lane) : (h.setLane p l f).saved = h.saved := rfl
@[simp] theorem Hub.setLane_jobs (h : Hub) (p l : Nat) (f : Lane → Lane) : (h.setLane p l f).jobs = h.jobs := rfl
@[simp] theorem Hub.setLane_nextHandle (h : Hub) (p l : Nat) (f : Lane → Lane) : (h.setLane p l f).nextHandle = h.nextHandle := rfl
@[simp] theorem Hub.setLane_nextJob (h : Hub) (p l : Nat) (f : Lane → Lane) : (h.setLane p l f).nextJob = h.nextJob := rfl
@[simp] theorem Hub.setLane_flows (h : Hub) (p l : Nat) (f : Lane → Lane) : (h.setLane p l f).flows = h.flows := rfl
@[simp] theorem Hub.setLane_strm (h : Hub) (p l : Nat) (f : Lane → Lane) : (h.setLane p l f).strm = h.strm := rfl
@[simp] theorem Hub.setLane_hk (h : Hub) (p l : Nat) (f : Lane → Lane) : (h.setLane p l f).hk = h.hk := rfl
@[simp] theorem Hub.setLane_sep (h : Hub) (p l : Nat) (f : Lane → Lane) : (h.setLane p l f).sep = h.sep := rfl
@[simp] theorem Hub.setLane_ports (h : Hub) (p l : Nat) (f : Lane → Lane) : (h.setLane p l f).ports = h.ports.modify p fun q => { q with lanes := q.lanes.modify l f } := rfl
@[simp] theorem Hub.setLane_enm (h : Hub) (p l : Nat) (f : Lane → Lane) : (h.setLane p l f).enm = h.enm := rfl
@[simp] theorem Hub.setLane_mgmt (h : Hub) (p l : Nat) (f : Lane → Lane) : (h.setLane p l f).mgmt = h.mgmt := rfl
@[simp] theorem Hub.setLane_dbw (h : Hub) (p l : Nat) (f : Lane → Lane) : (h.setLane p l f).dbw = h.dbw := rfl
@[simp] theorem Hub.setLane_fseal (h : Hub) (p l : Nat) (f : Lane → Lane) : (h.setLane p l f).fseal = h.fseal := rfl
@[simp] theorem Hub.setLane_flt (h : Hub) (p l : Nat) (f : Lane → Lane) : (h.setLane p l f).flt = h.flt := rfl
@[simp] theorem Hub.setLane_cal (h : Hub) (p l : Nat) (f : Lane → Lane) : (h.setLane p l f).cal = h.cal := rfl
@[simp] theorem Hub.setLane_pwr (h : Hub) (p l : Nat) (f : Lane → Lane) : (h.setLane p l f).pwr = h.pwr := rfl
@[simp] theorem Hub.setLane_pmbus (h : Hub) (p l : Nat) (f : Lane → Lane) : (h.setLane p l f).pmbus = h.pmbus := rfl
@[simp] theorem Hub.setLane_boot (h : Hub) (p l : Nat) (f : Lane → Lane) : (h.setLane p l f).boot = h.boot := rfl
@[simp] theorem Hub.setLane_flash (h : Hub) (p l : Nat) (f : Lane → Lane) : (h.setLane p l f).flash = h.flash := rfl
@[simp] theorem Hub.setLane_tag (h : Hub) (p l : Nat) (f : Lane → Lane) : (h.setLane p l f).tag = h.tag := rfl
@[simp] theorem Hub.setLane_tap (h : Hub) (p l : Nat) (f : Lane → Lane) : (h.setLane p l f).tap = h.tap := rfl
@[simp] theorem Hub.setLane_fresh (h : Hub) (p l : Nat) (f : Lane → Lane) : (h.setLane p l f).fresh = h.fresh := rfl

/-! ### LEVEL, ALIGN_STATE and BASE_STATE, which raise an interrupt on a change -/
@[simp] theorem Hub.setLevel_ident (h : Hub) (x : Level) : (h.setLevel x).ident = h.ident := by unfold Hub.setLevel; split <;> rfl
@[simp] theorem Hub.setLevel_clk (h : Hub) (x : Level) : (h.setLevel x).clk = h.clk := by unfold Hub.setLevel; split <;> rfl
@[simp] theorem Hub.setLevel_tm (h : Hub) (x : Level) : (h.setLevel x).tm = h.tm := by unfold Hub.setLevel; split <;> rfl
@[simp] theorem Hub.setLevel_chans (h : Hub) (x : Level) : (h.setLevel x).chans = h.chans := by unfold Hub.setLevel; split <;> rfl
@[simp] theorem Hub.setLevel_octs (h : Hub) (x : Level) : (h.setLevel x).octs = h.octs := by unfold Hub.setLevel; split <;> rfl
@[simp] theorem Hub.setLevel_reps (h : Hub) (x : Level) : (h.setLevel x).reps = h.reps := by unfold Hub.setLevel; split <;> rfl
@[simp] theorem Hub.setLevel_dies (h : Hub) (x : Level) : (h.setLevel x).dies = h.dies := by unfold Hub.setLevel; split <;> rfl
@[simp] theorem Hub.setLevel_trg (h : Hub) (x : Level) : (h.setLevel x).trg = h.trg := by unfold Hub.setLevel; split <;> rfl
@[simp] theorem Hub.setLevel_caps (h : Hub) (x : Level) : (h.setLevel x).caps = h.caps := by unfold Hub.setLevel; split <;> rfl
@[simp] theorem Hub.setLevel_nextTrain (h : Hub) (x : Level) : (h.setLevel x).nextTrain = h.nextTrain := by unfold Hub.setLevel; split <;> rfl
@[simp] theorem Hub.setLevel_saved (h : Hub) (x : Level) : (h.setLevel x).saved = h.saved := by unfold Hub.setLevel; split <;> rfl
@[simp] theorem Hub.setLevel_jobs (h : Hub) (x : Level) : (h.setLevel x).jobs = h.jobs := by unfold Hub.setLevel; split <;> rfl
@[simp] theorem Hub.setLevel_nextHandle (h : Hub) (x : Level) : (h.setLevel x).nextHandle = h.nextHandle := by unfold Hub.setLevel; split <;> rfl
@[simp] theorem Hub.setLevel_nextJob (h : Hub) (x : Level) : (h.setLevel x).nextJob = h.nextJob := by unfold Hub.setLevel; split <;> rfl
@[simp] theorem Hub.setLevel_flows (h : Hub) (x : Level) : (h.setLevel x).flows = h.flows := by unfold Hub.setLevel; split <;> rfl
@[simp] theorem Hub.setLevel_strm (h : Hub) (x : Level) : (h.setLevel x).strm = h.strm := by unfold Hub.setLevel; split <;> rfl
@[simp] theorem Hub.setLevel_hk (h : Hub) (x : Level) : (h.setLevel x).hk = h.hk := by unfold Hub.setLevel; split <;> rfl
@[simp] theorem Hub.setLevel_sep (h : Hub) (x : Level) : (h.setLevel x).sep = h.sep := by unfold Hub.setLevel; split <;> rfl
@[simp] theorem Hub.setLevel_ports (h : Hub) (x : Level) : (h.setLevel x).ports = h.ports := by unfold Hub.setLevel; split <;> rfl
@[simp] theorem Hub.setLevel_enm (h : Hub) (x : Level) : (h.setLevel x).enm = h.enm := by unfold Hub.setLevel; split <;> rfl
@[simp] theorem Hub.setLevel_mgmt (h : Hub) (x : Level) : (h.setLevel x).mgmt = h.mgmt := by unfold Hub.setLevel; split <;> rfl
@[simp] theorem Hub.setLevel_fseal (h : Hub) (x : Level) : (h.setLevel x).fseal = h.fseal := by unfold Hub.setLevel; split <;> rfl
@[simp] theorem Hub.setLevel_flt (h : Hub) (x : Level) : (h.setLevel x).flt = h.flt := by unfold Hub.setLevel; split <;> rfl
@[simp] theorem Hub.setLevel_cal (h : Hub) (x : Level) : (h.setLevel x).cal = h.cal := by unfold Hub.setLevel; split <;> rfl
@[simp] theorem Hub.setLevel_pwr (h : Hub) (x : Level) : (h.setLevel x).pwr = h.pwr := by unfold Hub.setLevel; split <;> rfl
@[simp] theorem Hub.setLevel_pmbus (h : Hub) (x : Level) : (h.setLevel x).pmbus = h.pmbus := by unfold Hub.setLevel; split <;> rfl
@[simp] theorem Hub.setLevel_flash (h : Hub) (x : Level) : (h.setLevel x).flash = h.flash := by unfold Hub.setLevel; split <;> rfl
@[simp] theorem Hub.setLevel_tag (h : Hub) (x : Level) : (h.setLevel x).tag = h.tag := by unfold Hub.setLevel; split <;> rfl
@[simp] theorem Hub.setLevel_tap (h : Hub) (x : Level) : (h.setLevel x).tap = h.tap := by unfold Hub.setLevel; split <;> rfl
@[simp] theorem Hub.setLevel_fresh (h : Hub) (x : Level) : (h.setLevel x).fresh = h.fresh := by unfold Hub.setLevel; split <;> rfl
@[simp] theorem Hub.setLevel_boot (h : Hub) (x : Level) : (h.setLevel x).boot = { h.boot with level := x } := by
  unfold Hub.setLevel; split
  · rename_i e; subst e; rfl
  · rfl
theorem Hub.setLevel_dbw (h : Hub) (x : Level) : (h.setLevel x).dbw =
    if h.boot.level = x then h.dbw else { h.dbw with irq := h.dbw.irq ||| BitVec.ofNat 8 (2 ^ 4) } := by
  unfold Hub.setLevel; split <;> rfl
@[simp] theorem Hub.setAlign_ident (h : Hub) (x : Align) : (h.setAlign x).ident = h.ident := by unfold Hub.setAlign; split <;> rfl
@[simp] theorem Hub.setAlign_clk (h : Hub) (x : Align) : (h.setAlign x).clk = h.clk := by unfold Hub.setAlign; split <;> rfl
@[simp] theorem Hub.setAlign_chans (h : Hub) (x : Align) : (h.setAlign x).chans = h.chans := by unfold Hub.setAlign; split <;> rfl
@[simp] theorem Hub.setAlign_octs (h : Hub) (x : Align) : (h.setAlign x).octs = h.octs := by unfold Hub.setAlign; split <;> rfl
@[simp] theorem Hub.setAlign_reps (h : Hub) (x : Align) : (h.setAlign x).reps = h.reps := by unfold Hub.setAlign; split <;> rfl
@[simp] theorem Hub.setAlign_dies (h : Hub) (x : Align) : (h.setAlign x).dies = h.dies := by unfold Hub.setAlign; split <;> rfl
@[simp] theorem Hub.setAlign_trg (h : Hub) (x : Align) : (h.setAlign x).trg = h.trg := by unfold Hub.setAlign; split <;> rfl
@[simp] theorem Hub.setAlign_caps (h : Hub) (x : Align) : (h.setAlign x).caps = h.caps := by unfold Hub.setAlign; split <;> rfl
@[simp] theorem Hub.setAlign_nextTrain (h : Hub) (x : Align) : (h.setAlign x).nextTrain = h.nextTrain := by unfold Hub.setAlign; split <;> rfl
@[simp] theorem Hub.setAlign_saved (h : Hub) (x : Align) : (h.setAlign x).saved = h.saved := by unfold Hub.setAlign; split <;> rfl
@[simp] theorem Hub.setAlign_jobs (h : Hub) (x : Align) : (h.setAlign x).jobs = h.jobs := by unfold Hub.setAlign; split <;> rfl
@[simp] theorem Hub.setAlign_nextHandle (h : Hub) (x : Align) : (h.setAlign x).nextHandle = h.nextHandle := by unfold Hub.setAlign; split <;> rfl
@[simp] theorem Hub.setAlign_nextJob (h : Hub) (x : Align) : (h.setAlign x).nextJob = h.nextJob := by unfold Hub.setAlign; split <;> rfl
@[simp] theorem Hub.setAlign_flows (h : Hub) (x : Align) : (h.setAlign x).flows = h.flows := by unfold Hub.setAlign; split <;> rfl
@[simp] theorem Hub.setAlign_strm (h : Hub) (x : Align) : (h.setAlign x).strm = h.strm := by unfold Hub.setAlign; split <;> rfl
@[simp] theorem Hub.setAlign_hk (h : Hub) (x : Align) : (h.setAlign x).hk = h.hk := by unfold Hub.setAlign; split <;> rfl
@[simp] theorem Hub.setAlign_sep (h : Hub) (x : Align) : (h.setAlign x).sep = h.sep := by unfold Hub.setAlign; split <;> rfl
@[simp] theorem Hub.setAlign_ports (h : Hub) (x : Align) : (h.setAlign x).ports = h.ports := by unfold Hub.setAlign; split <;> rfl
@[simp] theorem Hub.setAlign_enm (h : Hub) (x : Align) : (h.setAlign x).enm = h.enm := by unfold Hub.setAlign; split <;> rfl
@[simp] theorem Hub.setAlign_mgmt (h : Hub) (x : Align) : (h.setAlign x).mgmt = h.mgmt := by unfold Hub.setAlign; split <;> rfl
@[simp] theorem Hub.setAlign_fseal (h : Hub) (x : Align) : (h.setAlign x).fseal = h.fseal := by unfold Hub.setAlign; split <;> rfl
@[simp] theorem Hub.setAlign_flt (h : Hub) (x : Align) : (h.setAlign x).flt = h.flt := by unfold Hub.setAlign; split <;> rfl
@[simp] theorem Hub.setAlign_cal (h : Hub) (x : Align) : (h.setAlign x).cal = h.cal := by unfold Hub.setAlign; split <;> rfl
@[simp] theorem Hub.setAlign_pwr (h : Hub) (x : Align) : (h.setAlign x).pwr = h.pwr := by unfold Hub.setAlign; split <;> rfl
@[simp] theorem Hub.setAlign_pmbus (h : Hub) (x : Align) : (h.setAlign x).pmbus = h.pmbus := by unfold Hub.setAlign; split <;> rfl
@[simp] theorem Hub.setAlign_boot (h : Hub) (x : Align) : (h.setAlign x).boot = h.boot := by unfold Hub.setAlign; split <;> rfl
@[simp] theorem Hub.setAlign_flash (h : Hub) (x : Align) : (h.setAlign x).flash = h.flash := by unfold Hub.setAlign; split <;> rfl
@[simp] theorem Hub.setAlign_tag (h : Hub) (x : Align) : (h.setAlign x).tag = h.tag := by unfold Hub.setAlign; split <;> rfl
@[simp] theorem Hub.setAlign_tap (h : Hub) (x : Align) : (h.setAlign x).tap = h.tap := by unfold Hub.setAlign; split <;> rfl
@[simp] theorem Hub.setAlign_fresh (h : Hub) (x : Align) : (h.setAlign x).fresh = h.fresh := by unfold Hub.setAlign; split <;> rfl
@[simp] theorem Tm.setAlign_align (t : Tm) (x : Align) : (t.setAlign x).align = x := rfl
@[simp] theorem Tm.setAlign_base (t : Tm) (x : Align) : (t.setAlign x).base = t.base := rfl
@[simp] theorem Tm.setAlign_now (t : Tm) (x : Align) : (t.setAlign x).now = t.now := rfl
@[simp] theorem Hub.setAlign_tm (h : Hub) (x : Align) : (h.setAlign x).tm = h.tm.setAlign x := by
  unfold Hub.setAlign; split
  · rename_i e; subst e; simp [Tm.setAlign]
  · rfl
theorem Hub.setAlign_dbw (h : Hub) (x : Align) : (h.setAlign x).dbw =
    if h.tm.align = x then h.dbw else { h.dbw with irq := h.dbw.irq ||| BitVec.ofNat 8 (2 ^ 5) } := by
  unfold Hub.setAlign; split <;> rfl
@[simp] theorem Hub.setBase_ident (h : Hub) (x : Base) : (h.setBase x).ident = h.ident := by unfold Hub.setBase; split <;> rfl
@[simp] theorem Hub.setBase_clk (h : Hub) (x : Base) : (h.setBase x).clk = h.clk := by unfold Hub.setBase; split <;> rfl
@[simp] theorem Hub.setBase_chans (h : Hub) (x : Base) : (h.setBase x).chans = h.chans := by unfold Hub.setBase; split <;> rfl
@[simp] theorem Hub.setBase_octs (h : Hub) (x : Base) : (h.setBase x).octs = h.octs := by unfold Hub.setBase; split <;> rfl
@[simp] theorem Hub.setBase_reps (h : Hub) (x : Base) : (h.setBase x).reps = h.reps := by unfold Hub.setBase; split <;> rfl
@[simp] theorem Hub.setBase_dies (h : Hub) (x : Base) : (h.setBase x).dies = h.dies := by unfold Hub.setBase; split <;> rfl
@[simp] theorem Hub.setBase_trg (h : Hub) (x : Base) : (h.setBase x).trg = h.trg := by unfold Hub.setBase; split <;> rfl
@[simp] theorem Hub.setBase_caps (h : Hub) (x : Base) : (h.setBase x).caps = h.caps := by unfold Hub.setBase; split <;> rfl
@[simp] theorem Hub.setBase_nextTrain (h : Hub) (x : Base) : (h.setBase x).nextTrain = h.nextTrain := by unfold Hub.setBase; split <;> rfl
@[simp] theorem Hub.setBase_saved (h : Hub) (x : Base) : (h.setBase x).saved = h.saved := by unfold Hub.setBase; split <;> rfl
@[simp] theorem Hub.setBase_jobs (h : Hub) (x : Base) : (h.setBase x).jobs = h.jobs := by unfold Hub.setBase; split <;> rfl
@[simp] theorem Hub.setBase_nextHandle (h : Hub) (x : Base) : (h.setBase x).nextHandle = h.nextHandle := by unfold Hub.setBase; split <;> rfl
@[simp] theorem Hub.setBase_nextJob (h : Hub) (x : Base) : (h.setBase x).nextJob = h.nextJob := by unfold Hub.setBase; split <;> rfl
@[simp] theorem Hub.setBase_flows (h : Hub) (x : Base) : (h.setBase x).flows = h.flows := by unfold Hub.setBase; split <;> rfl
@[simp] theorem Hub.setBase_strm (h : Hub) (x : Base) : (h.setBase x).strm = h.strm := by unfold Hub.setBase; split <;> rfl
@[simp] theorem Hub.setBase_hk (h : Hub) (x : Base) : (h.setBase x).hk = h.hk := by unfold Hub.setBase; split <;> rfl
@[simp] theorem Hub.setBase_sep (h : Hub) (x : Base) : (h.setBase x).sep = h.sep := by unfold Hub.setBase; split <;> rfl
@[simp] theorem Hub.setBase_ports (h : Hub) (x : Base) : (h.setBase x).ports = h.ports := by unfold Hub.setBase; split <;> rfl
@[simp] theorem Hub.setBase_enm (h : Hub) (x : Base) : (h.setBase x).enm = h.enm := by unfold Hub.setBase; split <;> rfl
@[simp] theorem Hub.setBase_mgmt (h : Hub) (x : Base) : (h.setBase x).mgmt = h.mgmt := by unfold Hub.setBase; split <;> rfl
@[simp] theorem Hub.setBase_fseal (h : Hub) (x : Base) : (h.setBase x).fseal = h.fseal := by unfold Hub.setBase; split <;> rfl
@[simp] theorem Hub.setBase_flt (h : Hub) (x : Base) : (h.setBase x).flt = h.flt := by unfold Hub.setBase; split <;> rfl
@[simp] theorem Hub.setBase_cal (h : Hub) (x : Base) : (h.setBase x).cal = h.cal := by unfold Hub.setBase; split <;> rfl
@[simp] theorem Hub.setBase_pwr (h : Hub) (x : Base) : (h.setBase x).pwr = h.pwr := by unfold Hub.setBase; split <;> rfl
@[simp] theorem Hub.setBase_pmbus (h : Hub) (x : Base) : (h.setBase x).pmbus = h.pmbus := by unfold Hub.setBase; split <;> rfl
@[simp] theorem Hub.setBase_boot (h : Hub) (x : Base) : (h.setBase x).boot = h.boot := by unfold Hub.setBase; split <;> rfl
@[simp] theorem Hub.setBase_flash (h : Hub) (x : Base) : (h.setBase x).flash = h.flash := by unfold Hub.setBase; split <;> rfl
@[simp] theorem Hub.setBase_tag (h : Hub) (x : Base) : (h.setBase x).tag = h.tag := by unfold Hub.setBase; split <;> rfl
@[simp] theorem Hub.setBase_tap (h : Hub) (x : Base) : (h.setBase x).tap = h.tap := by unfold Hub.setBase; split <;> rfl
@[simp] theorem Hub.setBase_fresh (h : Hub) (x : Base) : (h.setBase x).fresh = h.fresh := by unfold Hub.setBase; split <;> rfl
@[simp] theorem Hub.setBase_tm (h : Hub) (x : Base) : (h.setBase x).tm = { h.tm with base := x } := by
  unfold Hub.setBase; split
  · rename_i e; subst e; rfl
  · rfl
theorem Hub.setBase_dbw (h : Hub) (x : Base) : (h.setBase x).dbw =
    if h.tm.base = x then h.dbw else { h.dbw with irq := h.dbw.irq ||| BitVec.ofNat 8 (2 ^ 5) } := by
  unfold Hub.setBase; split <;> rfl

end Sys2Proof.Machine
end

