-- ==== Sys2Proof/Laws/Records.lean ====
section
/-! SUPPORT. What writing a record, an item or a control block leaves alone: everything but channels (their skim state), dies (their
spool state), flows, ports, streams, records, the doorbell's interrupt bits and the tag's queue. -/

namespace Sys2Proof.Machine

/-- A view of the hub that every effect of a list keeps is kept by the whole run. -/
theorem forAll_keeps {α β : Type} (g : Hub → β) (f : α → Hub → Hub) (hf : ∀ a h, g (f a h) = g h) (l : List α) (h : Hub) :
    g (forAll l f h) = g h := by
  unfold forAll
  induction l generalizing h with
  | nil => rfl
  | cons a l ih => simp only [List.foldl_cons]; rw [ih, hf]

/-- A property that every effect of a list keeps is kept by the whole run. -/
theorem forAll_inv {α : Type} (P : Hub → Prop) (f : α → Hub → Hub) (l : List α) (hf : ∀ a ∈ l, ∀ h, P h → P (f a h)) (h : Hub)
    (h0 : P h) : P (forAll l f h) := by
  unfold forAll
  induction l generalizing h with
  | nil => exact h0
  | cons a l ih =>
    simp only [List.foldl_cons]
    exact ih (fun b hb => hf b (List.mem_cons_of_mem _ hb)) _ (hf a List.mem_cons_self h h0)

/-- The hub without what records and flows may change. -/
def Hub.still (h : Hub) : Hub :=
  { h with chans := [], dies := [], flows := [], ports := [], strm := (Hub.reset Ident.shipped).strm, hk := ⟨0, [], 0, 0, 0, []⟩,
           dbw := Dbw.reset, tag := Tag.shipped }

theorem Hub.setPort_still (h : Hub) (p : Nat) (f : Port → Port) : (h.setPort p f).still = h.still := rfl
theorem Hub.ctl_still (h : Hub) (p c v : Nat) : (h.ctl p c v).still = h.still := rfl
theorem Hub.setDie_still (h : Hub) (d : Nat) (f : Die → Die) : (h.setDie d f).still = h.still := rfl
theorem Hub.setFlow_still (h : Hub) (k : FlowKey) (f : Flow → Flow) : (h.setFlow k f).still = h.still := rfl
theorem Hub.raise_still (h : Hub) (b : Nat) : (h.raise b).still = h.still := rfl

theorem Hub.mapCh_still (h : Hub) (g : Nat → Chan → Chan) : (h.mapCh g).still = h.still := rfl
theorem Hub.flows_still (h : Hub) (l : List Flow) : ({ h with flows := l } : Hub).still = h.still := rfl
theorem Hub.hk_still (h : Hub) (x : Hk) : ({ h with hk := x } : Hub).still = h.still := rfl

/-- A view that an effect keeps is kept by any number of it. -/
theorem iter_keeps {α β : Type} (g : α → β) (f : α → α) (hf : ∀ a, g (f a) = g a) (n : Nat) (a : α) : g (iter f n a) = g a := by
  induction n generalizing a with
  | zero => rfl
  | succ n ih => rw [iter, ih, hf]

theorem Hub.spoolTouch_still (h : Hub) (d : Nat) (b : Seqs) : (h.spoolTouch d b).still = h.still := by
  unfold Hub.spoolTouch
  simp only
  rw [Hub.flows_still]
  split
  · rfl
  · split
    · rfl
    · rw [Hub.setFlow_still, Hub.mapCh_still, Hub.flows_still, iter_keeps Hub.still]
      · rfl
      · intro a; split
        · split <;> rfl
        · rfl
    · rfl

theorem Hub.watermarks_still (h : Hub) : h.watermarks.still = h.still := by
  unfold Hub.watermarks
  simp only
  show (forAll _ _ _).still = _
  rw [forAll_keeps Hub.still]
  · rfl
  · intro a h; split <;> rfl

theorem Hub.flowTouch_still (h : Hub) (d : Nat) : (h.flowTouch d).still = h.still := by
  unfold Hub.flowTouch; rw [Hub.watermarks_still, Hub.spoolTouch_still]

theorem Hub.flowBuilt_still (h : Hub) (d : Nat) (was : Seqs) : (h.flowBuilt d was).still = h.still := by
  unfold Hub.flowBuilt; rw [Hub.watermarks_still, Hub.spoolTouch_still]

theorem Hub.emitSince_still (h : Hub) (k : FlowKey) (st : Nat) (r : Bytes) (t : Nat) : (h.emitSince k st r t).still = h.still := by
  unfold Hub.emitSince; split
  · rfl
  · split
    · rfl
    · rw [Hub.watermarks_still, Hub.spoolTouch_still, Hub.setFlow_still]

theorem Hub.emitRecord_still (h : Hub) (k : FlowKey) (st : Nat) (r : Bytes) : (h.emitRecord k st r).still = h.still :=
  Hub.emitSince_still _ _ _ _ _

theorem Hub.hkRecord_still (h : Hub) (t k : Nat) (p : Bytes) : (h.hkRecord t k p).still = h.still := by
  unfold Hub.hkRecord; simp only; split
  · rw [Hub.emitRecord_still]; rfl
  · rfl

theorem Hub.recordAt_still (h : Hub) (t k : Nat) (p : Bytes) : (h.recordAt t k p).still = h.still := by
  unfold Hub.recordAt
  by_cases hd : h.hk.dropped = 0
  · simp only [hd, ↓reduceIte]; split
    · rfl
    · rw [Hub.hkRecord_still]
  · simp only [hd, ↓reduceIte]; split
    · rfl
    · rw [Hub.hkRecord_still, Hub.hkRecord_still, Hub.hk_still]

theorem Hub.record_still (h : Hub) (k : Nat) (p : Bytes) : (h.record k p).still = h.still := Hub.recordAt_still _ _ _ _

theorem Hub.logEntry_still (h : Hub) (t : Nat) (e : Bytes) : (h.logEntry t e).still = h.still := by
  unfold Hub.logEntry; split <;> rfl

theorem Hub.eventAt_still (h : Hub) (t : Nat) (u : Word) (c k n : Nat) (a b : Word) : (h.eventAt t u c k n a b).still = h.still := by
  unfold Hub.eventAt; simp only; split
  · rw [Hub.recordAt_still]
  · rw [Hub.logEntry_still, Hub.raise_still, Hub.hk_still, Hub.recordAt_still]

theorem Hub.event_still (h : Hub) (u : Word) (c k n : Nat) (a b : Word) : (h.event u c k n a b).still = h.still :=
  Hub.eventAt_still _ _ _ _ _ _ _ _

theorem Hub.notice_still (h : Hub) (u : Word) (c : Nat) (a b : Word) : (h.notice u c a b).still = h.still := Hub.event_still _ _ _ _ _ _ _

end Sys2Proof.Machine
end

