-- ==== Sys2Proof/Laws/Fields.lean ====
section
/-! SUPPORT. Field by field, what the record and flow operations leave alone. -/

namespace Sys2Proof.Machine

theorem Hub.still_ident {a b : Hub} (e : a.still = b.still) : a.ident = b.ident := by
  have e' := congrArg Hub.ident e; exact e'
theorem Hub.still_clk {a b : Hub} (e : a.still = b.still) : a.clk = b.clk := by
  have e' := congrArg Hub.clk e; exact e'
theorem Hub.still_tm {a b : Hub} (e : a.still = b.still) : a.tm = b.tm := by
  have e' := congrArg Hub.tm e; exact e'
theorem Hub.still_octs {a b : Hub} (e : a.still = b.still) : a.octs = b.octs := by
  have e' := congrArg Hub.octs e; exact e'
theorem Hub.still_reps {a b : Hub} (e : a.still = b.still) : a.reps = b.reps := by
  have e' := congrArg Hub.reps e; exact e'
theorem Hub.still_trg {a b : Hub} (e : a.still = b.still) : a.trg = b.trg := by
  have e' := congrArg Hub.trg e; exact e'
theorem Hub.still_caps {a b : Hub} (e : a.still = b.still) : a.caps = b.caps := by
  have e' := congrArg Hub.caps e; exact e'
theorem Hub.still_nextTrain {a b : Hub} (e : a.still = b.still) : a.nextTrain = b.nextTrain := by
  have e' := congrArg Hub.nextTrain e; exact e'
theorem Hub.still_saved {a b : Hub} (e : a.still = b.still) : a.saved = b.saved := by
  have e' := congrArg Hub.saved e; exact e'
theorem Hub.still_jobs {a b : Hub} (e : a.still = b.still) : a.jobs = b.jobs := by
  have e' := congrArg Hub.jobs e; exact e'
theorem Hub.still_nextHandle {a b : Hub} (e : a.still = b.still) : a.nextHandle = b.nextHandle := by
  have e' := congrArg Hub.nextHandle e; exact e'
theorem Hub.still_nextJob {a b : Hub} (e : a.still = b.still) : a.nextJob = b.nextJob := by
  have e' := congrArg Hub.nextJob e; exact e'
theorem Hub.still_sep {a b : Hub} (e : a.still = b.still) : a.sep = b.sep := by
  have e' := congrArg Hub.sep e; exact e'
theorem Hub.still_enm {a b : Hub} (e : a.still = b.still) : a.enm = b.enm := by
  have e' := congrArg Hub.enm e; exact e'
theorem Hub.still_mgmt {a b : Hub} (e : a.still = b.still) : a.mgmt = b.mgmt := by
  have e' := congrArg Hub.mgmt e; exact e'
theorem Hub.still_fseal {a b : Hub} (e : a.still = b.still) : a.fseal = b.fseal := by
  have e' := congrArg Hub.fseal e; exact e'
theorem Hub.still_flt {a b : Hub} (e : a.still = b.still) : a.flt = b.flt := by
  have e' := congrArg Hub.flt e; exact e'
theorem Hub.still_cal {a b : Hub} (e : a.still = b.still) : a.cal = b.cal := by
  have e' := congrArg Hub.cal e; exact e'
theorem Hub.still_pwr {a b : Hub} (e : a.still = b.still) : a.pwr = b.pwr := by
  have e' := congrArg Hub.pwr e; exact e'
theorem Hub.still_pmbus {a b : Hub} (e : a.still = b.still) : a.pmbus = b.pmbus := by
  have e' := congrArg Hub.pmbus e; exact e'
theorem Hub.still_boot {a b : Hub} (e : a.still = b.still) : a.boot = b.boot := by
  have e' := congrArg Hub.boot e; exact e'
theorem Hub.still_flash {a b : Hub} (e : a.still = b.still) : a.flash = b.flash := by
  have e' := congrArg Hub.flash e; exact e'
theorem Hub.still_tap {a b : Hub} (e : a.still = b.still) : a.tap = b.tap := by
  have e' := congrArg Hub.tap e; exact e'
theorem Hub.still_fresh {a b : Hub} (e : a.still = b.still) : a.fresh = b.fresh := by
  have e' := congrArg Hub.fresh e; exact e'

/-! ### ctl -/
@[simp] theorem Hub.ctl_ident (h : Hub) (p c v : Nat) : (h.ctl p c v).ident = h.ident :=
  Hub.still_ident (Hub.ctl_still h p c v)
@[simp] theorem Hub.ctl_clk (h : Hub) (p c v : Nat) : (h.ctl p c v).clk = h.clk :=
  Hub.still_clk (Hub.ctl_still h p c v)
@[simp] theorem Hub.ctl_tm (h : Hub) (p c v : Nat) : (h.ctl p c v).tm = h.tm :=
  Hub.still_tm (Hub.ctl_still h p c v)
@[simp] theorem Hub.ctl_octs (h : Hub) (p c v : Nat) : (h.ctl p c v).octs = h.octs :=
  Hub.still_octs (Hub.ctl_still h p c v)
@[simp] theorem Hub.ctl_reps (h : Hub) (p c v : Nat) : (h.ctl p c v).reps = h.reps :=
  Hub.still_reps (Hub.ctl_still h p c v)
@[simp] theorem Hub.ctl_trg (h : Hub) (p c v : Nat) : (h.ctl p c v).trg = h.trg :=
  Hub.still_trg (Hub.ctl_still h p c v)
@[simp] theorem Hub.ctl_caps (h : Hub) (p c v : Nat) : (h.ctl p c v).caps = h.caps :=
  Hub.still_caps (Hub.ctl_still h p c v)
@[simp] theorem Hub.ctl_nextTrain (h : Hub) (p c v : Nat) : (h.ctl p c v).nextTrain = h.nextTrain :=
  Hub.still_nextTrain (Hub.ctl_still h p c v)
@[simp] theorem Hub.ctl_saved (h : Hub) (p c v : Nat) : (h.ctl p c v).saved = h.saved :=
  Hub.still_saved (Hub.ctl_still h p c v)
@[simp] theorem Hub.ctl_jobs (h : Hub) (p c v : Nat) : (h.ctl p c v).jobs = h.jobs :=
  Hub.still_jobs (Hub.ctl_still h p c v)
@[simp] theorem Hub.ctl_nextHandle (h : Hub) (p c v : Nat) : (h.ctl p c v).nextHandle = h.nextHandle :=
  Hub.still_nextHandle (Hub.ctl_still h p c v)
@[simp] theorem Hub.ctl_nextJob (h : Hub) (p c v : Nat) : (h.ctl p c v).nextJob = h.nextJob :=
  Hub.still_nextJob (Hub.ctl_still h p c v)
@[simp] theorem Hub.ctl_sep (h : Hub) (p c v : Nat) : (h.ctl p c v).sep = h.sep :=
  Hub.still_sep (Hub.ctl_still h p c v)
@[simp] theorem Hub.ctl_enm (h : Hub) (p c v : Nat) : (h.ctl p c v).enm = h.enm :=
  Hub.still_enm (Hub.ctl_still h p c v)
@[simp] theorem Hub.ctl_mgmt (h : Hub) (p c v : Nat) : (h.ctl p c v).mgmt = h.mgmt :=
  Hub.still_mgmt (Hub.ctl_still h p c v)
@[simp] theorem Hub.ctl_fseal (h : Hub) (p c v : Nat) : (h.ctl p c v).fseal = h.fseal :=
  Hub.still_fseal (Hub.ctl_still h p c v)
@[simp] theorem Hub.ctl_flt (h : Hub) (p c v : Nat) : (h.ctl p c v).flt = h.flt :=
  Hub.still_flt (Hub.ctl_still h p c v)
@[simp] theorem Hub.ctl_cal (h : Hub) (p c v : Nat) : (h.ctl p c v).cal = h.cal :=
  Hub.still_cal (Hub.ctl_still h p c v)
@[simp] theorem Hub.ctl_pwr (h : Hub) (p c v : Nat) : (h.ctl p c v).pwr = h.pwr :=
  Hub.still_pwr (Hub.ctl_still h p c v)
@[simp] theorem Hub.ctl_pmbus (h : Hub) (p c v : Nat) : (h.ctl p c v).pmbus = h.pmbus :=
  Hub.still_pmbus (Hub.ctl_still h p c v)
@[simp] theorem Hub.ctl_boot (h : Hub) (p c v : Nat) : (h.ctl p c v).boot = h.boot :=
  Hub.still_boot (Hub.ctl_still h p c v)
@[simp] theorem Hub.ctl_flash (h : Hub) (p c v : Nat) : (h.ctl p c v).flash = h.flash :=
  Hub.still_flash (Hub.ctl_still h p c v)
@[simp] theorem Hub.ctl_tap (h : Hub) (p c v : Nat) : (h.ctl p c v).tap = h.tap :=
  Hub.still_tap (Hub.ctl_still h p c v)
@[simp] theorem Hub.ctl_fresh (h : Hub) (p c v : Nat) : (h.ctl p c v).fresh = h.fresh :=
  Hub.still_fresh (Hub.ctl_still h p c v)

/-! ### spoolTouch -/
@[simp] theorem Hub.spoolTouch_ident (h : Hub) (d : Nat) (b : Seqs) : (h.spoolTouch d b).ident = h.ident :=
  Hub.still_ident (Hub.spoolTouch_still h d b)
@[simp] theorem Hub.spoolTouch_clk (h : Hub) (d : Nat) (b : Seqs) : (h.spoolTouch d b).clk = h.clk :=
  Hub.still_clk (Hub.spoolTouch_still h d b)
@[simp] theorem Hub.spoolTouch_tm (h : Hub) (d : Nat) (b : Seqs) : (h.spoolTouch d b).tm = h.tm :=
  Hub.still_tm (Hub.spoolTouch_still h d b)
@[simp] theorem Hub.spoolTouch_octs (h : Hub) (d : Nat) (b : Seqs) : (h.spoolTouch d b).octs = h.octs :=
  Hub.still_octs (Hub.spoolTouch_still h d b)
@[simp] theorem Hub.spoolTouch_reps (h : Hub) (d : Nat) (b : Seqs) : (h.spoolTouch d b).reps = h.reps :=
  Hub.still_reps (Hub.spoolTouch_still h d b)
@[simp] theorem Hub.spoolTouch_trg (h : Hub) (d : Nat) (b : Seqs) : (h.spoolTouch d b).trg = h.trg :=
  Hub.still_trg (Hub.spoolTouch_still h d b)
@[simp] theorem Hub.spoolTouch_caps (h : Hub) (d : Nat) (b : Seqs) : (h.spoolTouch d b).caps = h.caps :=
  Hub.still_caps (Hub.spoolTouch_still h d b)
@[simp] theorem Hub.spoolTouch_nextTrain (h : Hub) (d : Nat) (b : Seqs) : (h.spoolTouch d b).nextTrain = h.nextTrain :=
  Hub.still_nextTrain (Hub.spoolTouch_still h d b)
@[simp] theorem Hub.spoolTouch_saved (h : Hub) (d : Nat) (b : Seqs) : (h.spoolTouch d b).saved = h.saved :=
  Hub.still_saved (Hub.spoolTouch_still h d b)
@[simp] theorem Hub.spoolTouch_jobs (h : Hub) (d : Nat) (b : Seqs) : (h.spoolTouch d b).jobs = h.jobs :=
  Hub.still_jobs (Hub.spoolTouch_still h d b)
@[simp] theorem Hub.spoolTouch_nextHandle (h : Hub) (d : Nat) (b : Seqs) : (h.spoolTouch d b).nextHandle = h.nextHandle :=
  Hub.still_nextHandle (Hub.spoolTouch_still h d b)
@[simp] theorem Hub.spoolTouch_nextJob (h : Hub) (d : Nat) (b : Seqs) : (h.spoolTouch d b).nextJob = h.nextJob :=
  Hub.still_nextJob (Hub.spoolTouch_still h d b)
@[simp] theorem Hub.spoolTouch_sep (h : Hub) (d : Nat) (b : Seqs) : (h.spoolTouch d b).sep = h.sep :=
  Hub.still_sep (Hub.spoolTouch_still h d b)
@[simp] theorem Hub.spoolTouch_enm (h : Hub) (d : Nat) (b : Seqs) : (h.spoolTouch d b).enm = h.enm :=
  Hub.still_enm (Hub.spoolTouch_still h d b)
@[simp] theorem Hub.spoolTouch_mgmt (h : Hub) (d : Nat) (b : Seqs) : (h.spoolTouch d b).mgmt = h.mgmt :=
  Hub.still_mgmt (Hub.spoolTouch_still h d b)
@[simp] theorem Hub.spoolTouch_fseal (h : Hub) (d : Nat) (b : Seqs) : (h.spoolTouch d b).fseal = h.fseal :=
  Hub.still_fseal (Hub.spoolTouch_still h d b)
@[simp] theorem Hub.spoolTouch_flt (h : Hub) (d : Nat) (b : Seqs) : (h.spoolTouch d b).flt = h.flt :=
  Hub.still_flt (Hub.spoolTouch_still h d b)
@[simp] theorem Hub.spoolTouch_cal (h : Hub) (d : Nat) (b : Seqs) : (h.spoolTouch d b).cal = h.cal :=
  Hub.still_cal (Hub.spoolTouch_still h d b)
@[simp] theorem Hub.spoolTouch_pwr (h : Hub) (d : Nat) (b : Seqs) : (h.spoolTouch d b).pwr = h.pwr :=
  Hub.still_pwr (Hub.spoolTouch_still h d b)
@[simp] theorem Hub.spoolTouch_pmbus (h : Hub) (d : Nat) (b : Seqs) : (h.spoolTouch d b).pmbus = h.pmbus :=
  Hub.still_pmbus (Hub.spoolTouch_still h d b)
@[simp] theorem Hub.spoolTouch_boot (h : Hub) (d : Nat) (b : Seqs) : (h.spoolTouch d b).boot = h.boot :=
  Hub.still_boot (Hub.spoolTouch_still h d b)
@[simp] theorem Hub.spoolTouch_flash (h : Hub) (d : Nat) (b : Seqs) : (h.spoolTouch d b).flash = h.flash :=
  Hub.still_flash (Hub.spoolTouch_still h d b)
@[simp] theorem Hub.spoolTouch_tap (h : Hub) (d : Nat) (b : Seqs) : (h.spoolTouch d b).tap = h.tap :=
  Hub.still_tap (Hub.spoolTouch_still h d b)
@[simp] theorem Hub.spoolTouch_fresh (h : Hub) (d : Nat) (b : Seqs) : (h.spoolTouch d b).fresh = h.fresh :=
  Hub.still_fresh (Hub.spoolTouch_still h d b)

/-! ### watermarks -/
@[simp] theorem Hub.watermarks_ident (h : Hub) : h.watermarks.ident = h.ident :=
  Hub.still_ident (Hub.watermarks_still h)
@[simp] theorem Hub.watermarks_clk (h : Hub) : h.watermarks.clk = h.clk :=
  Hub.still_clk (Hub.watermarks_still h)
@[simp] theorem Hub.watermarks_tm (h : Hub) : h.watermarks.tm = h.tm :=
  Hub.still_tm (Hub.watermarks_still h)
@[simp] theorem Hub.watermarks_octs (h : Hub) : h.watermarks.octs = h.octs :=
  Hub.still_octs (Hub.watermarks_still h)
@[simp] theorem Hub.watermarks_reps (h : Hub) : h.watermarks.reps = h.reps :=
  Hub.still_reps (Hub.watermarks_still h)
@[simp] theorem Hub.watermarks_trg (h : Hub) : h.watermarks.trg = h.trg :=
  Hub.still_trg (Hub.watermarks_still h)
@[simp] theorem Hub.watermarks_caps (h : Hub) : h.watermarks.caps = h.caps :=
  Hub.still_caps (Hub.watermarks_still h)
@[simp] theorem Hub.watermarks_nextTrain (h : Hub) : h.watermarks.nextTrain = h.nextTrain :=
  Hub.still_nextTrain (Hub.watermarks_still h)
@[simp] theorem Hub.watermarks_saved (h : Hub) : h.watermarks.saved = h.saved :=
  Hub.still_saved (Hub.watermarks_still h)
@[simp] theorem Hub.watermarks_jobs (h : Hub) : h.watermarks.jobs = h.jobs :=
  Hub.still_jobs (Hub.watermarks_still h)
@[simp] theorem Hub.watermarks_nextHandle (h : Hub) : h.watermarks.nextHandle = h.nextHandle :=
  Hub.still_nextHandle (Hub.watermarks_still h)
@[simp] theorem Hub.watermarks_nextJob (h : Hub) : h.watermarks.nextJob = h.nextJob :=
  Hub.still_nextJob (Hub.watermarks_still h)
@[simp] theorem Hub.watermarks_sep (h : Hub) : h.watermarks.sep = h.sep :=
  Hub.still_sep (Hub.watermarks_still h)
@[simp] theorem Hub.watermarks_enm (h : Hub) : h.watermarks.enm = h.enm :=
  Hub.still_enm (Hub.watermarks_still h)
@[simp] theorem Hub.watermarks_mgmt (h : Hub) : h.watermarks.mgmt = h.mgmt :=
  Hub.still_mgmt (Hub.watermarks_still h)
@[simp] theorem Hub.watermarks_fseal (h : Hub) : h.watermarks.fseal = h.fseal :=
  Hub.still_fseal (Hub.watermarks_still h)
@[simp] theorem Hub.watermarks_flt (h : Hub) : h.watermarks.flt = h.flt :=
  Hub.still_flt (Hub.watermarks_still h)
@[simp] theorem Hub.watermarks_cal (h : Hub) : h.watermarks.cal = h.cal :=
  Hub.still_cal (Hub.watermarks_still h)
@[simp] theorem Hub.watermarks_pwr (h : Hub) : h.watermarks.pwr = h.pwr :=
  Hub.still_pwr (Hub.watermarks_still h)
@[simp] theorem Hub.watermarks_pmbus (h : Hub) : h.watermarks.pmbus = h.pmbus :=
  Hub.still_pmbus (Hub.watermarks_still h)
@[simp] theorem Hub.watermarks_boot (h : Hub) : h.watermarks.boot = h.boot :=
  Hub.still_boot (Hub.watermarks_still h)
@[simp] theorem Hub.watermarks_flash (h : Hub) : h.watermarks.flash = h.flash :=
  Hub.still_flash (Hub.watermarks_still h)
@[simp] theorem Hub.watermarks_tap (h : Hub) : h.watermarks.tap = h.tap :=
  Hub.still_tap (Hub.watermarks_still h)
@[simp] theorem Hub.watermarks_fresh (h : Hub) : h.watermarks.fresh = h.fresh :=
  Hub.still_fresh (Hub.watermarks_still h)

/-! ### flowTouch -/
@[simp] theorem Hub.flowTouch_ident (h : Hub) (d : Nat) : (h.flowTouch d).ident = h.ident :=
  Hub.still_ident (Hub.flowTouch_still h d)
@[simp] theorem Hub.flowTouch_clk (h : Hub) (d : Nat) : (h.flowTouch d).clk = h.clk :=
  Hub.still_clk (Hub.flowTouch_still h d)
@[simp] theorem Hub.flowTouch_tm (h : Hub) (d : Nat) : (h.flowTouch d).tm = h.tm :=
  Hub.still_tm (Hub.flowTouch_still h d)
@[simp] theorem Hub.flowTouch_octs (h : Hub) (d : Nat) : (h.flowTouch d).octs = h.octs :=
  Hub.still_octs (Hub.flowTouch_still h d)
@[simp] theorem Hub.flowTouch_reps (h : Hub) (d : Nat) : (h.flowTouch d).reps = h.reps :=
  Hub.still_reps (Hub.flowTouch_still h d)
@[simp] theorem Hub.flowTouch_trg (h : Hub) (d : Nat) : (h.flowTouch d).trg = h.trg :=
  Hub.still_trg (Hub.flowTouch_still h d)
@[simp] theorem Hub.flowTouch_caps (h : Hub) (d : Nat) : (h.flowTouch d).caps = h.caps :=
  Hub.still_caps (Hub.flowTouch_still h d)
@[simp] theorem Hub.flowTouch_nextTrain (h : Hub) (d : Nat) : (h.flowTouch d).nextTrain = h.nextTrain :=
  Hub.still_nextTrain (Hub.flowTouch_still h d)
@[simp] theorem Hub.flowTouch_saved (h : Hub) (d : Nat) : (h.flowTouch d).saved = h.saved :=
  Hub.still_saved (Hub.flowTouch_still h d)
@[simp] theorem Hub.flowTouch_jobs (h : Hub) (d : Nat) : (h.flowTouch d).jobs = h.jobs :=
  Hub.still_jobs (Hub.flowTouch_still h d)
@[simp] theorem Hub.flowTouch_nextHandle (h : Hub) (d : Nat) : (h.flowTouch d).nextHandle = h.nextHandle :=
  Hub.still_nextHandle (Hub.flowTouch_still h d)
@[simp] theorem Hub.flowTouch_nextJob (h : Hub) (d : Nat) : (h.flowTouch d).nextJob = h.nextJob :=
  Hub.still_nextJob (Hub.flowTouch_still h d)
@[simp] theorem Hub.flowTouch_sep (h : Hub) (d : Nat) : (h.flowTouch d).sep = h.sep :=
  Hub.still_sep (Hub.flowTouch_still h d)
@[simp] theorem Hub.flowTouch_enm (h : Hub) (d : Nat) : (h.flowTouch d).enm = h.enm :=
  Hub.still_enm (Hub.flowTouch_still h d)
@[simp] theorem Hub.flowTouch_mgmt (h : Hub) (d : Nat) : (h.flowTouch d).mgmt = h.mgmt :=
  Hub.still_mgmt (Hub.flowTouch_still h d)
@[simp] theorem Hub.flowTouch_fseal (h : Hub) (d : Nat) : (h.flowTouch d).fseal = h.fseal :=
  Hub.still_fseal (Hub.flowTouch_still h d)
@[simp] theorem Hub.flowTouch_flt (h : Hub) (d : Nat) : (h.flowTouch d).flt = h.flt :=
  Hub.still_flt (Hub.flowTouch_still h d)
@[simp] theorem Hub.flowTouch_cal (h : Hub) (d : Nat) : (h.flowTouch d).cal = h.cal :=
  Hub.still_cal (Hub.flowTouch_still h d)
@[simp] theorem Hub.flowTouch_pwr (h : Hub) (d : Nat) : (h.flowTouch d).pwr = h.pwr :=
  Hub.still_pwr (Hub.flowTouch_still h d)
@[simp] theorem Hub.flowTouch_pmbus (h : Hub) (d : Nat) : (h.flowTouch d).pmbus = h.pmbus :=
  Hub.still_pmbus (Hub.flowTouch_still h d)
@[simp] theorem Hub.flowTouch_boot (h : Hub) (d : Nat) : (h.flowTouch d).boot = h.boot :=
  Hub.still_boot (Hub.flowTouch_still h d)
@[simp] theorem Hub.flowTouch_flash (h : Hub) (d : Nat) : (h.flowTouch d).flash = h.flash :=
  Hub.still_flash (Hub.flowTouch_still h d)
@[simp] theorem Hub.flowTouch_tap (h : Hub) (d : Nat) : (h.flowTouch d).tap = h.tap :=
  Hub.still_tap (Hub.flowTouch_still h d)
@[simp] theorem Hub.flowTouch_fresh (h : Hub) (d : Nat) : (h.flowTouch d).fresh = h.fresh :=
  Hub.still_fresh (Hub.flowTouch_still h d)

/-! ### flowBuilt -/
@[simp] theorem Hub.flowBuilt_ident (h : Hub) (d : Nat) (was : Seqs) : (h.flowBuilt d was).ident = h.ident :=
  Hub.still_ident (Hub.flowBuilt_still h d was)
@[simp] theorem Hub.flowBuilt_clk (h : Hub) (d : Nat) (was : Seqs) : (h.flowBuilt d was).clk = h.clk :=
  Hub.still_clk (Hub.flowBuilt_still h d was)
@[simp] theorem Hub.flowBuilt_tm (h : Hub) (d : Nat) (was : Seqs) : (h.flowBuilt d was).tm = h.tm :=
  Hub.still_tm (Hub.flowBuilt_still h d was)
@[simp] theorem Hub.flowBuilt_octs (h : Hub) (d : Nat) (was : Seqs) : (h.flowBuilt d was).octs = h.octs :=
  Hub.still_octs (Hub.flowBuilt_still h d was)
@[simp] theorem Hub.flowBuilt_reps (h : Hub) (d : Nat) (was : Seqs) : (h.flowBuilt d was).reps = h.reps :=
  Hub.still_reps (Hub.flowBuilt_still h d was)
@[simp] theorem Hub.flowBuilt_trg (h : Hub) (d : Nat) (was : Seqs) : (h.flowBuilt d was).trg = h.trg :=
  Hub.still_trg (Hub.flowBuilt_still h d was)
@[simp] theorem Hub.flowBuilt_caps (h : Hub) (d : Nat) (was : Seqs) : (h.flowBuilt d was).caps = h.caps :=
  Hub.still_caps (Hub.flowBuilt_still h d was)
@[simp] theorem Hub.flowBuilt_nextTrain (h : Hub) (d : Nat) (was : Seqs) : (h.flowBuilt d was).nextTrain = h.nextTrain :=
  Hub.still_nextTrain (Hub.flowBuilt_still h d was)
@[simp] theorem Hub.flowBuilt_saved (h : Hub) (d : Nat) (was : Seqs) : (h.flowBuilt d was).saved = h.saved :=
  Hub.still_saved (Hub.flowBuilt_still h d was)
@[simp] theorem Hub.flowBuilt_jobs (h : Hub) (d : Nat) (was : Seqs) : (h.flowBuilt d was).jobs = h.jobs :=
  Hub.still_jobs (Hub.flowBuilt_still h d was)
@[simp] theorem Hub.flowBuilt_nextHandle (h : Hub) (d : Nat) (was : Seqs) : (h.flowBuilt d was).nextHandle = h.nextHandle :=
  Hub.still_nextHandle (Hub.flowBuilt_still h d was)
@[simp] theorem Hub.flowBuilt_nextJob (h : Hub) (d : Nat) (was : Seqs) : (h.flowBuilt d was).nextJob = h.nextJob :=
  Hub.still_nextJob (Hub.flowBuilt_still h d was)
@[simp] theorem Hub.flowBuilt_sep (h : Hub) (d : Nat) (was : Seqs) : (h.flowBuilt d was).sep = h.sep :=
  Hub.still_sep (Hub.flowBuilt_still h d was)
@[simp] theorem Hub.flowBuilt_enm (h : Hub) (d : Nat) (was : Seqs) : (h.flowBuilt d was).enm = h.enm :=
  Hub.still_enm (Hub.flowBuilt_still h d was)
@[simp] theorem Hub.flowBuilt_mgmt (h : Hub) (d : Nat) (was : Seqs) : (h.flowBuilt d was).mgmt = h.mgmt :=
  Hub.still_mgmt (Hub.flowBuilt_still h d was)
@[simp] theorem Hub.flowBuilt_fseal (h : Hub) (d : Nat) (was : Seqs) : (h.flowBuilt d was).fseal = h.fseal :=
  Hub.still_fseal (Hub.flowBuilt_still h d was)
@[simp] theorem Hub.flowBuilt_flt (h : Hub) (d : Nat) (was : Seqs) : (h.flowBuilt d was).flt = h.flt :=
  Hub.still_flt (Hub.flowBuilt_still h d was)
@[simp] theorem Hub.flowBuilt_cal (h : Hub) (d : Nat) (was : Seqs) : (h.flowBuilt d was).cal = h.cal :=
  Hub.still_cal (Hub.flowBuilt_still h d was)
@[simp] theorem Hub.flowBuilt_pwr (h : Hub) (d : Nat) (was : Seqs) : (h.flowBuilt d was).pwr = h.pwr :=
  Hub.still_pwr (Hub.flowBuilt_still h d was)
@[simp] theorem Hub.flowBuilt_pmbus (h : Hub) (d : Nat) (was : Seqs) : (h.flowBuilt d was).pmbus = h.pmbus :=
  Hub.still_pmbus (Hub.flowBuilt_still h d was)
@[simp] theorem Hub.flowBuilt_boot (h : Hub) (d : Nat) (was : Seqs) : (h.flowBuilt d was).boot = h.boot :=
  Hub.still_boot (Hub.flowBuilt_still h d was)
@[simp] theorem Hub.flowBuilt_flash (h : Hub) (d : Nat) (was : Seqs) : (h.flowBuilt d was).flash = h.flash :=
  Hub.still_flash (Hub.flowBuilt_still h d was)
@[simp] theorem Hub.flowBuilt_tap (h : Hub) (d : Nat) (was : Seqs) : (h.flowBuilt d was).tap = h.tap :=
  Hub.still_tap (Hub.flowBuilt_still h d was)
@[simp] theorem Hub.flowBuilt_fresh (h : Hub) (d : Nat) (was : Seqs) : (h.flowBuilt d was).fresh = h.fresh :=
  Hub.still_fresh (Hub.flowBuilt_still h d was)

/-! ### emitSince -/
@[simp] theorem Hub.emitSince_ident (h : Hub) (k : FlowKey) (n : Nat) (r : Bytes) (t : Nat) : (h.emitSince k n r t).ident = h.ident :=
  Hub.still_ident (Hub.emitSince_still h k n r t)
@[simp] theorem Hub.emitSince_clk (h : Hub) (k : FlowKey) (n : Nat) (r : Bytes) (t : Nat) : (h.emitSince k n r t).clk = h.clk :=
  Hub.still_clk (Hub.emitSince_still h k n r t)
@[simp] theorem Hub.emitSince_tm (h : Hub) (k : FlowKey) (n : Nat) (r : Bytes) (t : Nat) : (h.emitSince k n r t).tm = h.tm :=
  Hub.still_tm (Hub.emitSince_still h k n r t)
@[simp] theorem Hub.emitSince_octs (h : Hub) (k : FlowKey) (n : Nat) (r : Bytes) (t : Nat) : (h.emitSince k n r t).octs = h.octs :=
  Hub.still_octs (Hub.emitSince_still h k n r t)
@[simp] theorem Hub.emitSince_reps (h : Hub) (k : FlowKey) (n : Nat) (r : Bytes) (t : Nat) : (h.emitSince k n r t).reps = h.reps :=
  Hub.still_reps (Hub.emitSince_still h k n r t)
@[simp] theorem Hub.emitSince_trg (h : Hub) (k : FlowKey) (n : Nat) (r : Bytes) (t : Nat) : (h.emitSince k n r t).trg = h.trg :=
  Hub.still_trg (Hub.emitSince_still h k n r t)
@[simp] theorem Hub.emitSince_caps (h : Hub) (k : FlowKey) (n : Nat) (r : Bytes) (t : Nat) : (h.emitSince k n r t).caps = h.caps :=
  Hub.still_caps (Hub.emitSince_still h k n r t)
@[simp] theorem Hub.emitSince_nextTrain (h : Hub) (k : FlowKey) (n : Nat) (r : Bytes) (t : Nat) : (h.emitSince k n r t).nextTrain = h.nextTrain :=
  Hub.still_nextTrain (Hub.emitSince_still h k n r t)
@[simp] theorem Hub.emitSince_saved (h : Hub) (k : FlowKey) (n : Nat) (r : Bytes) (t : Nat) : (h.emitSince k n r t).saved = h.saved :=
  Hub.still_saved (Hub.emitSince_still h k n r t)
@[simp] theorem Hub.emitSince_jobs (h : Hub) (k : FlowKey) (n : Nat) (r : Bytes) (t : Nat) : (h.emitSince k n r t).jobs = h.jobs :=
  Hub.still_jobs (Hub.emitSince_still h k n r t)
@[simp] theorem Hub.emitSince_nextHandle (h : Hub) (k : FlowKey) (n : Nat) (r : Bytes) (t : Nat) : (h.emitSince k n r t).nextHandle = h.nextHandle :=
  Hub.still_nextHandle (Hub.emitSince_still h k n r t)
@[simp] theorem Hub.emitSince_nextJob (h : Hub) (k : FlowKey) (n : Nat) (r : Bytes) (t : Nat) : (h.emitSince k n r t).nextJob = h.nextJob :=
  Hub.still_nextJob (Hub.emitSince_still h k n r t)
@[simp] theorem Hub.emitSince_sep (h : Hub) (k : FlowKey) (n : Nat) (r : Bytes) (t : Nat) : (h.emitSince k n r t).sep = h.sep :=
  Hub.still_sep (Hub.emitSince_still h k n r t)
@[simp] theorem Hub.emitSince_enm (h : Hub) (k : FlowKey) (n : Nat) (r : Bytes) (t : Nat) : (h.emitSince k n r t).enm = h.enm :=
  Hub.still_enm (Hub.emitSince_still h k n r t)
@[simp] theorem Hub.emitSince_mgmt (h : Hub) (k : FlowKey) (n : Nat) (r : Bytes) (t : Nat) : (h.emitSince k n r t).mgmt = h.mgmt :=
  Hub.still_mgmt (Hub.emitSince_still h k n r t)
@[simp] theorem Hub.emitSince_fseal (h : Hub) (k : FlowKey) (n : Nat) (r : Bytes) (t : Nat) : (h.emitSince k n r t).fseal = h.fseal :=
  Hub.still_fseal (Hub.emitSince_still h k n r t)
@[simp] theorem Hub.emitSince_flt (h : Hub) (k : FlowKey) (n : Nat) (r : Bytes) (t : Nat) : (h.emitSince k n r t).flt = h.flt :=
  Hub.still_flt (Hub.emitSince_still h k n r t)
@[simp] theorem Hub.emitSince_cal (h : Hub) (k : FlowKey) (n : Nat) (r : Bytes) (t : Nat) : (h.emitSince k n r t).cal = h.cal :=
  Hub.still_cal (Hub.emitSince_still h k n r t)
@[simp] theorem Hub.emitSince_pwr (h : Hub) (k : FlowKey) (n : Nat) (r : Bytes) (t : Nat) : (h.emitSince k n r t).pwr = h.pwr :=
  Hub.still_pwr (Hub.emitSince_still h k n r t)
@[simp] theorem Hub.emitSince_pmbus (h : Hub) (k : FlowKey) (n : Nat) (r : Bytes) (t : Nat) : (h.emitSince k n r t).pmbus = h.pmbus :=
  Hub.still_pmbus (Hub.emitSince_still h k n r t)
@[simp] theorem Hub.emitSince_boot (h : Hub) (k : FlowKey) (n : Nat) (r : Bytes) (t : Nat) : (h.emitSince k n r t).boot = h.boot :=
  Hub.still_boot (Hub.emitSince_still h k n r t)
@[simp] theorem Hub.emitSince_flash (h : Hub) (k : FlowKey) (n : Nat) (r : Bytes) (t : Nat) : (h.emitSince k n r t).flash = h.flash :=
  Hub.still_flash (Hub.emitSince_still h k n r t)
@[simp] theorem Hub.emitSince_tap (h : Hub) (k : FlowKey) (n : Nat) (r : Bytes) (t : Nat) : (h.emitSince k n r t).tap = h.tap :=
  Hub.still_tap (Hub.emitSince_still h k n r t)
@[simp] theorem Hub.emitSince_fresh (h : Hub) (k : FlowKey) (n : Nat) (r : Bytes) (t : Nat) : (h.emitSince k n r t).fresh = h.fresh :=
  Hub.still_fresh (Hub.emitSince_still h k n r t)

/-! ### emitRecord -/
@[simp] theorem Hub.emitRecord_ident (h : Hub) (k : FlowKey) (n : Nat) (r : Bytes) : (h.emitRecord k n r).ident = h.ident :=
  Hub.still_ident (Hub.emitRecord_still h k n r)
@[simp] theorem Hub.emitRecord_clk (h : Hub) (k : FlowKey) (n : Nat) (r : Bytes) : (h.emitRecord k n r).clk = h.clk :=
  Hub.still_clk (Hub.emitRecord_still h k n r)
@[simp] theorem Hub.emitRecord_tm (h : Hub) (k : FlowKey) (n : Nat) (r : Bytes) : (h.emitRecord k n r).tm = h.tm :=
  Hub.still_tm (Hub.emitRecord_still h k n r)
@[simp] theorem Hub.emitRecord_octs (h : Hub) (k : FlowKey) (n : Nat) (r : Bytes) : (h.emitRecord k n r).octs = h.octs :=
  Hub.still_octs (Hub.emitRecord_still h k n r)
@[simp] theorem Hub.emitRecord_reps (h : Hub) (k : FlowKey) (n : Nat) (r : Bytes) : (h.emitRecord k n r).reps = h.reps :=
  Hub.still_reps (Hub.emitRecord_still h k n r)
@[simp] theorem Hub.emitRecord_trg (h : Hub) (k : FlowKey) (n : Nat) (r : Bytes) : (h.emitRecord k n r).trg = h.trg :=
  Hub.still_trg (Hub.emitRecord_still h k n r)
@[simp] theorem Hub.emitRecord_caps (h : Hub) (k : FlowKey) (n : Nat) (r : Bytes) : (h.emitRecord k n r).caps = h.caps :=
  Hub.still_caps (Hub.emitRecord_still h k n r)
@[simp] theorem Hub.emitRecord_nextTrain (h : Hub) (k : FlowKey) (n : Nat) (r : Bytes) : (h.emitRecord k n r).nextTrain = h.nextTrain :=
  Hub.still_nextTrain (Hub.emitRecord_still h k n r)
@[simp] theorem Hub.emitRecord_saved (h : Hub) (k : FlowKey) (n : Nat) (r : Bytes) : (h.emitRecord k n r).saved = h.saved :=
  Hub.still_saved (Hub.emitRecord_still h k n r)
@[simp] theorem Hub.emitRecord_jobs (h : Hub) (k : FlowKey) (n : Nat) (r : Bytes) : (h.emitRecord k n r).jobs = h.jobs :=
  Hub.still_jobs (Hub.emitRecord_still h k n r)
@[simp] theorem Hub.emitRecord_nextHandle (h : Hub) (k : FlowKey) (n : Nat) (r : Bytes) : (h.emitRecord k n r).nextHandle = h.nextHandle :=
  Hub.still_nextHandle (Hub.emitRecord_still h k n r)
@[simp] theorem Hub.emitRecord_nextJob (h : Hub) (k : FlowKey) (n : Nat) (r : Bytes) : (h.emitRecord k n r).nextJob = h.nextJob :=
  Hub.still_nextJob (Hub.emitRecord_still h k n r)
@[simp] theorem Hub.emitRecord_sep (h : Hub) (k : FlowKey) (n : Nat) (r : Bytes) : (h.emitRecord k n r).sep = h.sep :=
  Hub.still_sep (Hub.emitRecord_still h k n r)
@[simp] theorem Hub.emitRecord_enm (h : Hub) (k : FlowKey) (n : Nat) (r : Bytes) : (h.emitRecord k n r).enm = h.enm :=
  Hub.still_enm (Hub.emitRecord_still h k n r)
@[simp] theorem Hub.emitRecord_mgmt (h : Hub) (k : FlowKey) (n : Nat) (r : Bytes) : (h.emitRecord k n r).mgmt = h.mgmt :=
  Hub.still_mgmt (Hub.emitRecord_still h k n r)
@[simp] theorem Hub.emitRecord_fseal (h : Hub) (k : FlowKey) (n : Nat) (r : Bytes) : (h.emitRecord k n r).fseal = h.fseal :=
  Hub.still_fseal (Hub.emitRecord_still h k n r)
@[simp] theorem Hub.emitRecord_flt (h : Hub) (k : FlowKey) (n : Nat) (r : Bytes) : (h.emitRecord k n r).flt = h.flt :=
  Hub.still_flt (Hub.emitRecord_still h k n r)
@[simp] theorem Hub.emitRecord_cal (h : Hub) (k : FlowKey) (n : Nat) (r : Bytes) : (h.emitRecord k n r).cal = h.cal :=
  Hub.still_cal (Hub.emitRecord_still h k n r)
@[simp] theorem Hub.emitRecord_pwr (h : Hub) (k : FlowKey) (n : Nat) (r : Bytes) : (h.emitRecord k n r).pwr = h.pwr :=
  Hub.still_pwr (Hub.emitRecord_still h k n r)
@[simp] theorem Hub.emitRecord_pmbus (h : Hub) (k : FlowKey) (n : Nat) (r : Bytes) : (h.emitRecord k n r).pmbus = h.pmbus :=
  Hub.still_pmbus (Hub.emitRecord_still h k n r)
@[simp] theorem Hub.emitRecord_boot (h : Hub) (k : FlowKey) (n : Nat) (r : Bytes) : (h.emitRecord k n r).boot = h.boot :=
  Hub.still_boot (Hub.emitRecord_still h k n r)
@[simp] theorem Hub.emitRecord_flash (h : Hub) (k : FlowKey) (n : Nat) (r : Bytes) : (h.emitRecord k n r).flash = h.flash :=
  Hub.still_flash (Hub.emitRecord_still h k n r)
@[simp] theorem Hub.emitRecord_tap (h : Hub) (k : FlowKey) (n : Nat) (r : Bytes) : (h.emitRecord k n r).tap = h.tap :=
  Hub.still_tap (Hub.emitRecord_still h k n r)
@[simp] theorem Hub.emitRecord_fresh (h : Hub) (k : FlowKey) (n : Nat) (r : Bytes) : (h.emitRecord k n r).fresh = h.fresh :=
  Hub.still_fresh (Hub.emitRecord_still h k n r)

/-! ### recordAt -/
@[simp] theorem Hub.recordAt_ident (h : Hub) (t k : Nat) (p : Bytes) : (h.recordAt t k p).ident = h.ident :=
  Hub.still_ident (Hub.recordAt_still h t k p)
@[simp] theorem Hub.recordAt_clk (h : Hub) (t k : Nat) (p : Bytes) : (h.recordAt t k p).clk = h.clk :=
  Hub.still_clk (Hub.recordAt_still h t k p)
@[simp] theorem Hub.recordAt_tm (h : Hub) (t k : Nat) (p : Bytes) : (h.recordAt t k p).tm = h.tm :=
  Hub.still_tm (Hub.recordAt_still h t k p)
@[simp] theorem Hub.recordAt_octs (h : Hub) (t k : Nat) (p : Bytes) : (h.recordAt t k p).octs = h.octs :=
  Hub.still_octs (Hub.recordAt_still h t k p)
@[simp] theorem Hub.recordAt_reps (h : Hub) (t k : Nat) (p : Bytes) : (h.recordAt t k p).reps = h.reps :=
  Hub.still_reps (Hub.recordAt_still h t k p)
@[simp] theorem Hub.recordAt_trg (h : Hub) (t k : Nat) (p : Bytes) : (h.recordAt t k p).trg = h.trg :=
  Hub.still_trg (Hub.recordAt_still h t k p)
@[simp] theorem Hub.recordAt_caps (h : Hub) (t k : Nat) (p : Bytes) : (h.recordAt t k p).caps = h.caps :=
  Hub.still_caps (Hub.recordAt_still h t k p)
@[simp] theorem Hub.recordAt_nextTrain (h : Hub) (t k : Nat) (p : Bytes) : (h.recordAt t k p).nextTrain = h.nextTrain :=
  Hub.still_nextTrain (Hub.recordAt_still h t k p)
@[simp] theorem Hub.recordAt_saved (h : Hub) (t k : Nat) (p : Bytes) : (h.recordAt t k p).saved = h.saved :=
  Hub.still_saved (Hub.recordAt_still h t k p)
@[simp] theorem Hub.recordAt_jobs (h : Hub) (t k : Nat) (p : Bytes) : (h.recordAt t k p).jobs = h.jobs :=
  Hub.still_jobs (Hub.recordAt_still h t k p)
@[simp] theorem Hub.recordAt_nextHandle (h : Hub) (t k : Nat) (p : Bytes) : (h.recordAt t k p).nextHandle = h.nextHandle :=
  Hub.still_nextHandle (Hub.recordAt_still h t k p)
@[simp] theorem Hub.recordAt_nextJob (h : Hub) (t k : Nat) (p : Bytes) : (h.recordAt t k p).nextJob = h.nextJob :=
  Hub.still_nextJob (Hub.recordAt_still h t k p)
@[simp] theorem Hub.recordAt_sep (h : Hub) (t k : Nat) (p : Bytes) : (h.recordAt t k p).sep = h.sep :=
  Hub.still_sep (Hub.recordAt_still h t k p)
@[simp] theorem Hub.recordAt_enm (h : Hub) (t k : Nat) (p : Bytes) : (h.recordAt t k p).enm = h.enm :=
  Hub.still_enm (Hub.recordAt_still h t k p)
@[simp] theorem Hub.recordAt_mgmt (h : Hub) (t k : Nat) (p : Bytes) : (h.recordAt t k p).mgmt = h.mgmt :=
  Hub.still_mgmt (Hub.recordAt_still h t k p)
@[simp] theorem Hub.recordAt_fseal (h : Hub) (t k : Nat) (p : Bytes) : (h.recordAt t k p).fseal = h.fseal :=
  Hub.still_fseal (Hub.recordAt_still h t k p)
@[simp] theorem Hub.recordAt_flt (h : Hub) (t k : Nat) (p : Bytes) : (h.recordAt t k p).flt = h.flt :=
  Hub.still_flt (Hub.recordAt_still h t k p)
@[simp] theorem Hub.recordAt_cal (h : Hub) (t k : Nat) (p : Bytes) : (h.recordAt t k p).cal = h.cal :=
  Hub.still_cal (Hub.recordAt_still h t k p)
@[simp] theorem Hub.recordAt_pwr (h : Hub) (t k : Nat) (p : Bytes) : (h.recordAt t k p).pwr = h.pwr :=
  Hub.still_pwr (Hub.recordAt_still h t k p)
@[simp] theorem Hub.recordAt_pmbus (h : Hub) (t k : Nat) (p : Bytes) : (h.recordAt t k p).pmbus = h.pmbus :=
  Hub.still_pmbus (Hub.recordAt_still h t k p)
@[simp] theorem Hub.recordAt_boot (h : Hub) (t k : Nat) (p : Bytes) : (h.recordAt t k p).boot = h.boot :=
  Hub.still_boot (Hub.recordAt_still h t k p)
@[simp] theorem Hub.recordAt_flash (h : Hub) (t k : Nat) (p : Bytes) : (h.recordAt t k p).flash = h.flash :=
  Hub.still_flash (Hub.recordAt_still h t k p)
@[simp] theorem Hub.recordAt_tap (h : Hub) (t k : Nat) (p : Bytes) : (h.recordAt t k p).tap = h.tap :=
  Hub.still_tap (Hub.recordAt_still h t k p)
@[simp] theorem Hub.recordAt_fresh (h : Hub) (t k : Nat) (p : Bytes) : (h.recordAt t k p).fresh = h.fresh :=
  Hub.still_fresh (Hub.recordAt_still h t k p)

/-! ### record -/
@[simp] theorem Hub.record_ident (h : Hub) (k : Nat) (p : Bytes) : (h.record k p).ident = h.ident :=
  Hub.still_ident (Hub.record_still h k p)
@[simp] theorem Hub.record_clk (h : Hub) (k : Nat) (p : Bytes) : (h.record k p).clk = h.clk :=
  Hub.still_clk (Hub.record_still h k p)
@[simp] theorem Hub.record_tm (h : Hub) (k : Nat) (p : Bytes) : (h.record k p).tm = h.tm :=
  Hub.still_tm (Hub.record_still h k p)
@[simp] theorem Hub.record_octs (h : Hub) (k : Nat) (p : Bytes) : (h.record k p).octs = h.octs :=
  Hub.still_octs (Hub.record_still h k p)
@[simp] theorem Hub.record_reps (h : Hub) (k : Nat) (p : Bytes) : (h.record k p).reps = h.reps :=
  Hub.still_reps (Hub.record_still h k p)
@[simp] theorem Hub.record_trg (h : Hub) (k : Nat) (p : Bytes) : (h.record k p).trg = h.trg :=
  Hub.still_trg (Hub.record_still h k p)
@[simp] theorem Hub.record_caps (h : Hub) (k : Nat) (p : Bytes) : (h.record k p).caps = h.caps :=
  Hub.still_caps (Hub.record_still h k p)
@[simp] theorem Hub.record_nextTrain (h : Hub) (k : Nat) (p : Bytes) : (h.record k p).nextTrain = h.nextTrain :=
  Hub.still_nextTrain (Hub.record_still h k p)
@[simp] theorem Hub.record_saved (h : Hub) (k : Nat) (p : Bytes) : (h.record k p).saved = h.saved :=
  Hub.still_saved (Hub.record_still h k p)
@[simp] theorem Hub.record_jobs (h : Hub) (k : Nat) (p : Bytes) : (h.record k p).jobs = h.jobs :=
  Hub.still_jobs (Hub.record_still h k p)
@[simp] theorem Hub.record_nextHandle (h : Hub) (k : Nat) (p : Bytes) : (h.record k p).nextHandle = h.nextHandle :=
  Hub.still_nextHandle (Hub.record_still h k p)
@[simp] theorem Hub.record_nextJob (h : Hub) (k : Nat) (p : Bytes) : (h.record k p).nextJob = h.nextJob :=
  Hub.still_nextJob (Hub.record_still h k p)
@[simp] theorem Hub.record_sep (h : Hub) (k : Nat) (p : Bytes) : (h.record k p).sep = h.sep :=
  Hub.still_sep (Hub.record_still h k p)
@[simp] theorem Hub.record_enm (h : Hub) (k : Nat) (p : Bytes) : (h.record k p).enm = h.enm :=
  Hub.still_enm (Hub.record_still h k p)
@[simp] theorem Hub.record_mgmt (h : Hub) (k : Nat) (p : Bytes) : (h.record k p).mgmt = h.mgmt :=
  Hub.still_mgmt (Hub.record_still h k p)
@[simp] theorem Hub.record_fseal (h : Hub) (k : Nat) (p : Bytes) : (h.record k p).fseal = h.fseal :=
  Hub.still_fseal (Hub.record_still h k p)
@[simp] theorem Hub.record_flt (h : Hub) (k : Nat) (p : Bytes) : (h.record k p).flt = h.flt :=
  Hub.still_flt (Hub.record_still h k p)
@[simp] theorem Hub.record_cal (h : Hub) (k : Nat) (p : Bytes) : (h.record k p).cal = h.cal :=
  Hub.still_cal (Hub.record_still h k p)
@[simp] theorem Hub.record_pwr (h : Hub) (k : Nat) (p : Bytes) : (h.record k p).pwr = h.pwr :=
  Hub.still_pwr (Hub.record_still h k p)
@[simp] theorem Hub.record_pmbus (h : Hub) (k : Nat) (p : Bytes) : (h.record k p).pmbus = h.pmbus :=
  Hub.still_pmbus (Hub.record_still h k p)
@[simp] theorem Hub.record_boot (h : Hub) (k : Nat) (p : Bytes) : (h.record k p).boot = h.boot :=
  Hub.still_boot (Hub.record_still h k p)
@[simp] theorem Hub.record_flash (h : Hub) (k : Nat) (p : Bytes) : (h.record k p).flash = h.flash :=
  Hub.still_flash (Hub.record_still h k p)
@[simp] theorem Hub.record_tap (h : Hub) (k : Nat) (p : Bytes) : (h.record k p).tap = h.tap :=
  Hub.still_tap (Hub.record_still h k p)
@[simp] theorem Hub.record_fresh (h : Hub) (k : Nat) (p : Bytes) : (h.record k p).fresh = h.fresh :=
  Hub.still_fresh (Hub.record_still h k p)

/-! ### logEntry -/
@[simp] theorem Hub.logEntry_ident (h : Hub) (t : Nat) (e : Bytes) : (h.logEntry t e).ident = h.ident :=
  Hub.still_ident (Hub.logEntry_still h t e)
@[simp] theorem Hub.logEntry_clk (h : Hub) (t : Nat) (e : Bytes) : (h.logEntry t e).clk = h.clk :=
  Hub.still_clk (Hub.logEntry_still h t e)
@[simp] theorem Hub.logEntry_tm (h : Hub) (t : Nat) (e : Bytes) : (h.logEntry t e).tm = h.tm :=
  Hub.still_tm (Hub.logEntry_still h t e)
@[simp] theorem Hub.logEntry_octs (h : Hub) (t : Nat) (e : Bytes) : (h.logEntry t e).octs = h.octs :=
  Hub.still_octs (Hub.logEntry_still h t e)
@[simp] theorem Hub.logEntry_reps (h : Hub) (t : Nat) (e : Bytes) : (h.logEntry t e).reps = h.reps :=
  Hub.still_reps (Hub.logEntry_still h t e)
@[simp] theorem Hub.logEntry_trg (h : Hub) (t : Nat) (e : Bytes) : (h.logEntry t e).trg = h.trg :=
  Hub.still_trg (Hub.logEntry_still h t e)
@[simp] theorem Hub.logEntry_caps (h : Hub) (t : Nat) (e : Bytes) : (h.logEntry t e).caps = h.caps :=
  Hub.still_caps (Hub.logEntry_still h t e)
@[simp] theorem Hub.logEntry_nextTrain (h : Hub) (t : Nat) (e : Bytes) : (h.logEntry t e).nextTrain = h.nextTrain :=
  Hub.still_nextTrain (Hub.logEntry_still h t e)
@[simp] theorem Hub.logEntry_saved (h : Hub) (t : Nat) (e : Bytes) : (h.logEntry t e).saved = h.saved :=
  Hub.still_saved (Hub.logEntry_still h t e)
@[simp] theorem Hub.logEntry_jobs (h : Hub) (t : Nat) (e : Bytes) : (h.logEntry t e).jobs = h.jobs :=
  Hub.still_jobs (Hub.logEntry_still h t e)
@[simp] theorem Hub.logEntry_nextHandle (h : Hub) (t : Nat) (e : Bytes) : (h.logEntry t e).nextHandle = h.nextHandle :=
  Hub.still_nextHandle (Hub.logEntry_still h t e)
@[simp] theorem Hub.logEntry_nextJob (h : Hub) (t : Nat) (e : Bytes) : (h.logEntry t e).nextJob = h.nextJob :=
  Hub.still_nextJob (Hub.logEntry_still h t e)
@[simp] theorem Hub.logEntry_sep (h : Hub) (t : Nat) (e : Bytes) : (h.logEntry t e).sep = h.sep :=
  Hub.still_sep (Hub.logEntry_still h t e)
@[simp] theorem Hub.logEntry_enm (h : Hub) (t : Nat) (e : Bytes) : (h.logEntry t e).enm = h.enm :=
  Hub.still_enm (Hub.logEntry_still h t e)
@[simp] theorem Hub.logEntry_mgmt (h : Hub) (t : Nat) (e : Bytes) : (h.logEntry t e).mgmt = h.mgmt :=
  Hub.still_mgmt (Hub.logEntry_still h t e)
@[simp] theorem Hub.logEntry_fseal (h : Hub) (t : Nat) (e : Bytes) : (h.logEntry t e).fseal = h.fseal :=
  Hub.still_fseal (Hub.logEntry_still h t e)
@[simp] theorem Hub.logEntry_flt (h : Hub) (t : Nat) (e : Bytes) : (h.logEntry t e).flt = h.flt :=
  Hub.still_flt (Hub.logEntry_still h t e)
@[simp] theorem Hub.logEntry_cal (h : Hub) (t : Nat) (e : Bytes) : (h.logEntry t e).cal = h.cal :=
  Hub.still_cal (Hub.logEntry_still h t e)
@[simp] theorem Hub.logEntry_pwr (h : Hub) (t : Nat) (e : Bytes) : (h.logEntry t e).pwr = h.pwr :=
  Hub.still_pwr (Hub.logEntry_still h t e)
@[simp] theorem Hub.logEntry_pmbus (h : Hub) (t : Nat) (e : Bytes) : (h.logEntry t e).pmbus = h.pmbus :=
  Hub.still_pmbus (Hub.logEntry_still h t e)
@[simp] theorem Hub.logEntry_boot (h : Hub) (t : Nat) (e : Bytes) : (h.logEntry t e).boot = h.boot :=
  Hub.still_boot (Hub.logEntry_still h t e)
@[simp] theorem Hub.logEntry_flash (h : Hub) (t : Nat) (e : Bytes) : (h.logEntry t e).flash = h.flash :=
  Hub.still_flash (Hub.logEntry_still h t e)
@[simp] theorem Hub.logEntry_tap (h : Hub) (t : Nat) (e : Bytes) : (h.logEntry t e).tap = h.tap :=
  Hub.still_tap (Hub.logEntry_still h t e)
@[simp] theorem Hub.logEntry_fresh (h : Hub) (t : Nat) (e : Bytes) : (h.logEntry t e).fresh = h.fresh :=
  Hub.still_fresh (Hub.logEntry_still h t e)

/-! ### event -/
@[simp] theorem Hub.event_ident (h : Hub) (u : Word) (c k n : Nat) (a b : Word) : (h.event u c k n a b).ident = h.ident :=
  Hub.still_ident (Hub.event_still h u c k n a b)
@[simp] theorem Hub.event_clk (h : Hub) (u : Word) (c k n : Nat) (a b : Word) : (h.event u c k n a b).clk = h.clk :=
  Hub.still_clk (Hub.event_still h u c k n a b)
@[simp] theorem Hub.event_tm (h : Hub) (u : Word) (c k n : Nat) (a b : Word) : (h.event u c k n a b).tm = h.tm :=
  Hub.still_tm (Hub.event_still h u c k n a b)
@[simp] theorem Hub.event_octs (h : Hub) (u : Word) (c k n : Nat) (a b : Word) : (h.event u c k n a b).octs = h.octs :=
  Hub.still_octs (Hub.event_still h u c k n a b)
@[simp] theorem Hub.event_reps (h : Hub) (u : Word) (c k n : Nat) (a b : Word) : (h.event u c k n a b).reps = h.reps :=
  Hub.still_reps (Hub.event_still h u c k n a b)
@[simp] theorem Hub.event_trg (h : Hub) (u : Word) (c k n : Nat) (a b : Word) : (h.event u c k n a b).trg = h.trg :=
  Hub.still_trg (Hub.event_still h u c k n a b)
@[simp] theorem Hub.event_caps (h : Hub) (u : Word) (c k n : Nat) (a b : Word) : (h.event u c k n a b).caps = h.caps :=
  Hub.still_caps (Hub.event_still h u c k n a b)
@[simp] theorem Hub.event_nextTrain (h : Hub) (u : Word) (c k n : Nat) (a b : Word) : (h.event u c k n a b).nextTrain = h.nextTrain :=
  Hub.still_nextTrain (Hub.event_still h u c k n a b)
@[simp] theorem Hub.event_saved (h : Hub) (u : Word) (c k n : Nat) (a b : Word) : (h.event u c k n a b).saved = h.saved :=
  Hub.still_saved (Hub.event_still h u c k n a b)
@[simp] theorem Hub.event_jobs (h : Hub) (u : Word) (c k n : Nat) (a b : Word) : (h.event u c k n a b).jobs = h.jobs :=
  Hub.still_jobs (Hub.event_still h u c k n a b)
@[simp] theorem Hub.event_nextHandle (h : Hub) (u : Word) (c k n : Nat) (a b : Word) : (h.event u c k n a b).nextHandle = h.nextHandle :=
  Hub.still_nextHandle (Hub.event_still h u c k n a b)
@[simp] theorem Hub.event_nextJob (h : Hub) (u : Word) (c k n : Nat) (a b : Word) : (h.event u c k n a b).nextJob = h.nextJob :=
  Hub.still_nextJob (Hub.event_still h u c k n a b)
@[simp] theorem Hub.event_sep (h : Hub) (u : Word) (c k n : Nat) (a b : Word) : (h.event u c k n a b).sep = h.sep :=
  Hub.still_sep (Hub.event_still h u c k n a b)
@[simp] theorem Hub.event_enm (h : Hub) (u : Word) (c k n : Nat) (a b : Word) : (h.event u c k n a b).enm = h.enm :=
  Hub.still_enm (Hub.event_still h u c k n a b)
@[simp] theorem Hub.event_mgmt (h : Hub) (u : Word) (c k n : Nat) (a b : Word) : (h.event u c k n a b).mgmt = h.mgmt :=
  Hub.still_mgmt (Hub.event_still h u c k n a b)
@[simp] theorem Hub.event_fseal (h : Hub) (u : Word) (c k n : Nat) (a b : Word) : (h.event u c k n a b).fseal = h.fseal :=
  Hub.still_fseal (Hub.event_still h u c k n a b)
@[simp] theorem Hub.event_flt (h : Hub) (u : Word) (c k n : Nat) (a b : Word) : (h.event u c k n a b).flt = h.flt :=
  Hub.still_flt (Hub.event_still h u c k n a b)
@[simp] theorem Hub.event_cal (h : Hub) (u : Word) (c k n : Nat) (a b : Word) : (h.event u c k n a b).cal = h.cal :=
  Hub.still_cal (Hub.event_still h u c k n a b)
@[simp] theorem Hub.event_pwr (h : Hub) (u : Word) (c k n : Nat) (a b : Word) : (h.event u c k n a b).pwr = h.pwr :=
  Hub.still_pwr (Hub.event_still h u c k n a b)
@[simp] theorem Hub.event_pmbus (h : Hub) (u : Word) (c k n : Nat) (a b : Word) : (h.event u c k n a b).pmbus = h.pmbus :=
  Hub.still_pmbus (Hub.event_still h u c k n a b)
@[simp] theorem Hub.event_boot (h : Hub) (u : Word) (c k n : Nat) (a b : Word) : (h.event u c k n a b).boot = h.boot :=
  Hub.still_boot (Hub.event_still h u c k n a b)
@[simp] theorem Hub.event_flash (h : Hub) (u : Word) (c k n : Nat) (a b : Word) : (h.event u c k n a b).flash = h.flash :=
  Hub.still_flash (Hub.event_still h u c k n a b)
@[simp] theorem Hub.event_tap (h : Hub) (u : Word) (c k n : Nat) (a b : Word) : (h.event u c k n a b).tap = h.tap :=
  Hub.still_tap (Hub.event_still h u c k n a b)
@[simp] theorem Hub.event_fresh (h : Hub) (u : Word) (c k n : Nat) (a b : Word) : (h.event u c k n a b).fresh = h.fresh :=
  Hub.still_fresh (Hub.event_still h u c k n a b)

/-! ### notice -/
@[simp] theorem Hub.notice_ident (h : Hub) (u : Word) (c : Nat) (a b : Word) : (h.notice u c a b).ident = h.ident :=
  Hub.still_ident (Hub.notice_still h u c a b)
@[simp] theorem Hub.notice_clk (h : Hub) (u : Word) (c : Nat) (a b : Word) : (h.notice u c a b).clk = h.clk :=
  Hub.still_clk (Hub.notice_still h u c a b)
@[simp] theorem Hub.notice_tm (h : Hub) (u : Word) (c : Nat) (a b : Word) : (h.notice u c a b).tm = h.tm :=
  Hub.still_tm (Hub.notice_still h u c a b)
@[simp] theorem Hub.notice_octs (h : Hub) (u : Word) (c : Nat) (a b : Word) : (h.notice u c a b).octs = h.octs :=
  Hub.still_octs (Hub.notice_still h u c a b)
@[simp] theorem Hub.notice_reps (h : Hub) (u : Word) (c : Nat) (a b : Word) : (h.notice u c a b).reps = h.reps :=
  Hub.still_reps (Hub.notice_still h u c a b)
@[simp] theorem Hub.notice_trg (h : Hub) (u : Word) (c : Nat) (a b : Word) : (h.notice u c a b).trg = h.trg :=
  Hub.still_trg (Hub.notice_still h u c a b)
@[simp] theorem Hub.notice_caps (h : Hub) (u : Word) (c : Nat) (a b : Word) : (h.notice u c a b).caps = h.caps :=
  Hub.still_caps (Hub.notice_still h u c a b)
@[simp] theorem Hub.notice_nextTrain (h : Hub) (u : Word) (c : Nat) (a b : Word) : (h.notice u c a b).nextTrain = h.nextTrain :=
  Hub.still_nextTrain (Hub.notice_still h u c a b)
@[simp] theorem Hub.notice_saved (h : Hub) (u : Word) (c : Nat) (a b : Word) : (h.notice u c a b).saved = h.saved :=
  Hub.still_saved (Hub.notice_still h u c a b)
@[simp] theorem Hub.notice_jobs (h : Hub) (u : Word) (c : Nat) (a b : Word) : (h.notice u c a b).jobs = h.jobs :=
  Hub.still_jobs (Hub.notice_still h u c a b)
@[simp] theorem Hub.notice_nextHandle (h : Hub) (u : Word) (c : Nat) (a b : Word) : (h.notice u c a b).nextHandle = h.nextHandle :=
  Hub.still_nextHandle (Hub.notice_still h u c a b)
@[simp] theorem Hub.notice_nextJob (h : Hub) (u : Word) (c : Nat) (a b : Word) : (h.notice u c a b).nextJob = h.nextJob :=
  Hub.still_nextJob (Hub.notice_still h u c a b)
@[simp] theorem Hub.notice_sep (h : Hub) (u : Word) (c : Nat) (a b : Word) : (h.notice u c a b).sep = h.sep :=
  Hub.still_sep (Hub.notice_still h u c a b)
@[simp] theorem Hub.notice_enm (h : Hub) (u : Word) (c : Nat) (a b : Word) : (h.notice u c a b).enm = h.enm :=
  Hub.still_enm (Hub.notice_still h u c a b)
@[simp] theorem Hub.notice_mgmt (h : Hub) (u : Word) (c : Nat) (a b : Word) : (h.notice u c a b).mgmt = h.mgmt :=
  Hub.still_mgmt (Hub.notice_still h u c a b)
@[simp] theorem Hub.notice_fseal (h : Hub) (u : Word) (c : Nat) (a b : Word) : (h.notice u c a b).fseal = h.fseal :=
  Hub.still_fseal (Hub.notice_still h u c a b)
@[simp] theorem Hub.notice_flt (h : Hub) (u : Word) (c : Nat) (a b : Word) : (h.notice u c a b).flt = h.flt :=
  Hub.still_flt (Hub.notice_still h u c a b)
@[simp] theorem Hub.notice_cal (h : Hub) (u : Word) (c : Nat) (a b : Word) : (h.notice u c a b).cal = h.cal :=
  Hub.still_cal (Hub.notice_still h u c a b)
@[simp] theorem Hub.notice_pwr (h : Hub) (u : Word) (c : Nat) (a b : Word) : (h.notice u c a b).pwr = h.pwr :=
  Hub.still_pwr (Hub.notice_still h u c a b)
@[simp] theorem Hub.notice_pmbus (h : Hub) (u : Word) (c : Nat) (a b : Word) : (h.notice u c a b).pmbus = h.pmbus :=
  Hub.still_pmbus (Hub.notice_still h u c a b)
@[simp] theorem Hub.notice_boot (h : Hub) (u : Word) (c : Nat) (a b : Word) : (h.notice u c a b).boot = h.boot :=
  Hub.still_boot (Hub.notice_still h u c a b)
@[simp] theorem Hub.notice_flash (h : Hub) (u : Word) (c : Nat) (a b : Word) : (h.notice u c a b).flash = h.flash :=
  Hub.still_flash (Hub.notice_still h u c a b)
@[simp] theorem Hub.notice_tap (h : Hub) (u : Word) (c : Nat) (a b : Word) : (h.notice u c a b).tap = h.tap :=
  Hub.still_tap (Hub.notice_still h u c a b)
@[simp] theorem Hub.notice_fresh (h : Hub) (u : Word) (c : Nat) (a b : Word) : (h.notice u c a b).fresh = h.fresh :=
  Hub.still_fresh (Hub.notice_still h u c a b)

/-! ### eventAt -/
@[simp] theorem Hub.eventAt_ident (h : Hub) (t : Nat) (u : Word) (c k n : Nat) (a b : Word) : (h.eventAt t u c k n a b).ident = h.ident :=
  Hub.still_ident (Hub.eventAt_still h t u c k n a b)
@[simp] theorem Hub.eventAt_clk (h : Hub) (t : Nat) (u : Word) (c k n : Nat) (a b : Word) : (h.eventAt t u c k n a b).clk = h.clk :=
  Hub.still_clk (Hub.eventAt_still h t u c k n a b)
@[simp] theorem Hub.eventAt_tm (h : Hub) (t : Nat) (u : Word) (c k n : Nat) (a b : Word) : (h.eventAt t u c k n a b).tm = h.tm :=
  Hub.still_tm (Hub.eventAt_still h t u c k n a b)
@[simp] theorem Hub.eventAt_octs (h : Hub) (t : Nat) (u : Word) (c k n : Nat) (a b : Word) : (h.eventAt t u c k n a b).octs = h.octs :=
  Hub.still_octs (Hub.eventAt_still h t u c k n a b)
@[simp] theorem Hub.eventAt_reps (h : Hub) (t : Nat) (u : Word) (c k n : Nat) (a b : Word) : (h.eventAt t u c k n a b).reps = h.reps :=
  Hub.still_reps (Hub.eventAt_still h t u c k n a b)
@[simp] theorem Hub.eventAt_trg (h : Hub) (t : Nat) (u : Word) (c k n : Nat) (a b : Word) : (h.eventAt t u c k n a b).trg = h.trg :=
  Hub.still_trg (Hub.eventAt_still h t u c k n a b)
@[simp] theorem Hub.eventAt_caps (h : Hub) (t : Nat) (u : Word) (c k n : Nat) (a b : Word) : (h.eventAt t u c k n a b).caps = h.caps :=
  Hub.still_caps (Hub.eventAt_still h t u c k n a b)
@[simp] theorem Hub.eventAt_nextTrain (h : Hub) (t : Nat) (u : Word) (c k n : Nat) (a b : Word) : (h.eventAt t u c k n a b).nextTrain = h.nextTrain :=
  Hub.still_nextTrain (Hub.eventAt_still h t u c k n a b)
@[simp] theorem Hub.eventAt_saved (h : Hub) (t : Nat) (u : Word) (c k n : Nat) (a b : Word) : (h.eventAt t u c k n a b).saved = h.saved :=
  Hub.still_saved (Hub.eventAt_still h t u c k n a b)
@[simp] theorem Hub.eventAt_jobs (h : Hub) (t : Nat) (u : Word) (c k n : Nat) (a b : Word) : (h.eventAt t u c k n a b).jobs = h.jobs :=
  Hub.still_jobs (Hub.eventAt_still h t u c k n a b)
@[simp] theorem Hub.eventAt_nextHandle (h : Hub) (t : Nat) (u : Word) (c k n : Nat) (a b : Word) : (h.eventAt t u c k n a b).nextHandle = h.nextHandle :=
  Hub.still_nextHandle (Hub.eventAt_still h t u c k n a b)
@[simp] theorem Hub.eventAt_nextJob (h : Hub) (t : Nat) (u : Word) (c k n : Nat) (a b : Word) : (h.eventAt t u c k n a b).nextJob = h.nextJob :=
  Hub.still_nextJob (Hub.eventAt_still h t u c k n a b)
@[simp] theorem Hub.eventAt_sep (h : Hub) (t : Nat) (u : Word) (c k n : Nat) (a b : Word) : (h.eventAt t u c k n a b).sep = h.sep :=
  Hub.still_sep (Hub.eventAt_still h t u c k n a b)
@[simp] theorem Hub.eventAt_enm (h : Hub) (t : Nat) (u : Word) (c k n : Nat) (a b : Word) : (h.eventAt t u c k n a b).enm = h.enm :=
  Hub.still_enm (Hub.eventAt_still h t u c k n a b)
@[simp] theorem Hub.eventAt_mgmt (h : Hub) (t : Nat) (u : Word) (c k n : Nat) (a b : Word) : (h.eventAt t u c k n a b).mgmt = h.mgmt :=
  Hub.still_mgmt (Hub.eventAt_still h t u c k n a b)
@[simp] theorem Hub.eventAt_fseal (h : Hub) (t : Nat) (u : Word) (c k n : Nat) (a b : Word) : (h.eventAt t u c k n a b).fseal = h.fseal :=
  Hub.still_fseal (Hub.eventAt_still h t u c k n a b)
@[simp] theorem Hub.eventAt_flt (h : Hub) (t : Nat) (u : Word) (c k n : Nat) (a b : Word) : (h.eventAt t u c k n a b).flt = h.flt :=
  Hub.still_flt (Hub.eventAt_still h t u c k n a b)
@[simp] theorem Hub.eventAt_cal (h : Hub) (t : Nat) (u : Word) (c k n : Nat) (a b : Word) : (h.eventAt t u c k n a b).cal = h.cal :=
  Hub.still_cal (Hub.eventAt_still h t u c k n a b)
@[simp] theorem Hub.eventAt_pwr (h : Hub) (t : Nat) (u : Word) (c k n : Nat) (a b : Word) : (h.eventAt t u c k n a b).pwr = h.pwr :=
  Hub.still_pwr (Hub.eventAt_still h t u c k n a b)
@[simp] theorem Hub.eventAt_pmbus (h : Hub) (t : Nat) (u : Word) (c k n : Nat) (a b : Word) : (h.eventAt t u c k n a b).pmbus = h.pmbus :=
  Hub.still_pmbus (Hub.eventAt_still h t u c k n a b)
@[simp] theorem Hub.eventAt_boot (h : Hub) (t : Nat) (u : Word) (c k n : Nat) (a b : Word) : (h.eventAt t u c k n a b).boot = h.boot :=
  Hub.still_boot (Hub.eventAt_still h t u c k n a b)
@[simp] theorem Hub.eventAt_flash (h : Hub) (t : Nat) (u : Word) (c k n : Nat) (a b : Word) : (h.eventAt t u c k n a b).flash = h.flash :=
  Hub.still_flash (Hub.eventAt_still h t u c k n a b)
@[simp] theorem Hub.eventAt_tap (h : Hub) (t : Nat) (u : Word) (c k n : Nat) (a b : Word) : (h.eventAt t u c k n a b).tap = h.tap :=
  Hub.still_tap (Hub.eventAt_still h t u c k n a b)
@[simp] theorem Hub.eventAt_fresh (h : Hub) (t : Nat) (u : Word) (c k n : Nat) (a b : Word) : (h.eventAt t u c k n a b).fresh = h.fresh :=
  Hub.still_fresh (Hub.eventAt_still h t u c k n a b)

end Sys2Proof.Machine
end

