-- ==== Sys2Proof/Laws/Memory.lean ====
section
/-! SUPPORT. The two addressed memories of the hub, the tag (19) and the mailbox-in window (13): a write keeps the canonical
form, a read after it gives the word written, and every other address reads as before. -/

namespace Sys2Proof.Machine

/-- A write of the tag adds no address but its own. -/
theorem tagPut_keys (n : Nat) (w : Word) (m : List (Nat × Word)) (x : Nat × Word) (hx : x ∈ tagPut n w m) :
    x ∈ m ∨ (x = (n, w) ∧ w ≠ blankBlock n) := by
  induction m with
  | nil => simp only [tagPut] at hx; split at hx <;> simp_all
  | cons a r ih =>
    obtain ⟨k, v⟩ := a
    simp only [tagPut] at hx
    split at hx
    · split at hx <;> simp_all <;> tauto
    · split at hx
      · split at hx <;> simp_all <;> tauto
      · rcases List.mem_cons.1 hx with h | h
        · exact .inl (h ▸ List.mem_cons_self ..)
        · rcases ih h with h | h
          · exact .inl (List.mem_cons_of_mem _ h)
          · exact .inr h

/-- A write of the tag keeps the addresses rising. -/
theorem tagPut_rising (n : Nat) (w : Word) (m : List (Nat × Word)) (h : (m.map Prod.fst).Pairwise (· < ·)) :
    ((tagPut n w m).map Prod.fst).Pairwise (· < ·) := by
  induction m with
  | nil => simp only [tagPut]; split <;> simp
  | cons a r ih =>
    obtain ⟨k, v⟩ := a
    have hr := (List.pairwise_cons.1 h).2
    have hk := (List.pairwise_cons.1 h).1
    simp only [tagPut]
    split
    · split
      · exact h
      · refine List.pairwise_cons.2 ⟨?_, h⟩
        intro b hb
        rcases List.mem_cons.1 hb with e | e
        · simp_all
        · have := hk b e; simp_all; omega
    · split
      · split
        · exact hr
        · subst_vars; exact List.pairwise_cons.2 ⟨hk, hr⟩
      · refine List.pairwise_cons.2 ⟨?_, ih hr⟩
        intro b hb
        obtain ⟨x, hx, rfl⟩ := List.mem_map.1 hb
        rcases tagPut_keys n w r x hx with e | ⟨e, -⟩
        · exact hk _ (List.mem_map_of_mem e)
        · subst e; simp_all; omega

/-- A write of the tag to an area that it may change keeps the canonical form. -/
theorem tagPut_wf (n : Nat) (w : Word) (m : List (Nat × Word)) (h : TagMemory.wf m) (a : 64 ≤ n) (b : n < 2048) :
    TagMemory.wf (tagPut n w m) := by
  refine ⟨tagPut_rising n w m h.1, fun x hx => ?_⟩
  rcases tagPut_keys n w m x hx with e | ⟨e, e'⟩
  · exact h.2 x e
  · subst e; exact ⟨a, b, e'⟩

/-- A read of the block just written gives the word written. -/
theorem tagPut_same (n : Nat) (w : Word) (m : List (Nat × Word)) (h : (m.map Prod.fst).Pairwise (· < ·)) :
    (((tagPut n w m).find? fun x => x.1 == n).map Prod.snd).getD (blankBlock n) = w := by
  have gt : ∀ r : List (Nat × Word), (∀ x ∈ r, n < x.1) → (r.find? fun x => x.1 == n) = none := by
    intro r hr; rw [List.find?_eq_none]; intro x hx; have := hr x hx; simp; omega
  induction m with
  | nil => simp only [tagPut]; split <;> simp_all
  | cons a r ih =>
    obtain ⟨k, v⟩ := a
    have hr := (List.pairwise_cons.1 h).2
    have hk : ∀ x ∈ r, k < x.1 := fun x hx => (List.pairwise_cons.1 h).1 _ (List.mem_map_of_mem hx)
    simp only [tagPut]
    split
    · split
      · rename_i l e
        rw [gt _ (by intro x hx; rcases List.mem_cons.1 hx with q | q; · subst q; exact l
                     · exact Nat.lt_trans l (hk x q))]
        exact e.symm
      · simp
    · split
      · rename_i e; subst e
        split
        · rename_i e
          rw [gt r hk]; exact e.symm
        · simp
      · rename_i l e
        rw [List.find?_cons_of_neg (by simpa using fun q => e q.symm)]
        exact ih hr

/-- A read of another block gives what it gave before. -/
theorem tagPut_other (n i : Nat) (w : Word) (m : List (Nat × Word)) (e : i ≠ n) :
    ((tagPut n w m).find? fun x => x.1 == i) = m.find? fun x => x.1 == i := by
  induction m with
  | nil => simp only [tagPut]; split <;> simp [Ne.symm e]
  | cons a r ih =>
    obtain ⟨k, v⟩ := a
    simp only [tagPut]
    split
    · split
      · rfl
      · rw [List.find?_cons_of_neg (by simpa using Ne.symm e)]
    · split
      · rename_i q; subst q
        split
        · rw [List.find?_cons_of_neg (by simpa using Ne.symm e)]
        · rw [List.find?_cons_of_neg (by simpa using Ne.symm e), List.find?_cons_of_neg (by simpa using Ne.symm e)]
      · by_cases q : k = i
        · subst q; simp
        · rw [List.find?_cons_of_neg (by simpa using q), List.find?_cons_of_neg (by simpa using q), ih]

/-- A write of the window adds no address but its own. -/
theorem mbiPut_keys (n : Nat) (w : Word) (m : List (Nat × Word)) (x : Nat × Word) (hx : x ∈ mbiPut n w m) :
    x ∈ m ∨ (x = (n, w) ∧ w ≠ 0) := by
  induction m with
  | nil => simp only [mbiPut] at hx; split at hx <;> simp_all
  | cons a r ih =>
    obtain ⟨k, v⟩ := a
    simp only [mbiPut] at hx
    split at hx
    · split at hx <;> simp_all <;> tauto
    · split at hx
      · split at hx <;> simp_all <;> tauto
      · rcases List.mem_cons.1 hx with h | h
        · exact .inl (h ▸ List.mem_cons_self ..)
        · rcases ih h with h | h
          · exact .inl (List.mem_cons_of_mem _ h)
          · exact .inr h

/-- A write of the window keeps the addresses rising. -/
theorem mbiPut_rising (n : Nat) (w : Word) (m : List (Nat × Word)) (h : (m.map Prod.fst).Pairwise (· < ·)) :
    ((mbiPut n w m).map Prod.fst).Pairwise (· < ·) := by
  induction m with
  | nil => simp only [mbiPut]; split <;> simp
  | cons a r ih =>
    obtain ⟨k, v⟩ := a
    have hr := (List.pairwise_cons.1 h).2
    have hk := (List.pairwise_cons.1 h).1
    simp only [mbiPut]
    split
    · split
      · exact h
      · refine List.pairwise_cons.2 ⟨?_, h⟩
        intro b hb
        rcases List.mem_cons.1 hb with e | e
        · simp_all
        · have := hk b e; simp_all; omega
    · split
      · split
        · exact hr
        · subst_vars; exact List.pairwise_cons.2 ⟨hk, hr⟩
      · refine List.pairwise_cons.2 ⟨?_, ih hr⟩
        intro b hb
        obtain ⟨x, hx, rfl⟩ := List.mem_map.1 hb
        rcases mbiPut_keys n w r x hx with e | ⟨e, -⟩
        · exact hk _ (List.mem_map_of_mem e)
        · subst e; simp_all; omega

/-- A write inside the window keeps the canonical form. -/
theorem mbiPut_wf (n : Nat) (w : Word) (m : List (Nat × Word)) (h : Mailbox.wf m) (b : n < 1024) :
    Mailbox.wf (mbiPut n w m) := by
  refine ⟨mbiPut_rising n w m h.1, fun x hx => ?_⟩
  rcases mbiPut_keys n w m x hx with e | ⟨e, e'⟩
  · exact h.2 x e
  · subst e; exact ⟨b, e'⟩

/-- A read of another word gives what it gave before. -/
theorem mbiPut_other (n i : Nat) (w : Word) (m : List (Nat × Word)) (e : i ≠ n) :
    ((mbiPut n w m).find? fun x => x.1 == i) = m.find? fun x => x.1 == i := by
  induction m with
  | nil => simp only [mbiPut]; split <;> simp [Ne.symm e]
  | cons a r ih =>
    obtain ⟨k, v⟩ := a
    simp only [mbiPut]
    split
    · split
      · rfl
      · rw [List.find?_cons_of_neg (by simpa using Ne.symm e)]
    · split
      · rename_i q; subst q
        split
        · rw [List.find?_cons_of_neg (by simpa using Ne.symm e)]
        · rw [List.find?_cons_of_neg (by simpa using Ne.symm e), List.find?_cons_of_neg (by simpa using Ne.symm e)]
      · by_cases q : k = i
        · subst q; simp
        · rw [List.find?_cons_of_neg (by simpa using q), List.find?_cons_of_neg (by simpa using q), ih]

/-- Writing a block keeps the canonical form of the tag, and touches nothing else of the hub. -/
theorem Hub.putBlock_spec (h : Hub) (n : Nat) (w : Word) (q : TagMemory.wf h.tag.mem) :
    TagMemory.wf (h.putBlock n w).tag.mem ∧ { h.putBlock n w with tag := h.tag } = h := by
  unfold Hub.putBlock
  split
  · rename_i e; exact ⟨tagPut_wf n w _ q e.1 e.2, rfl⟩
  · exact ⟨q, rfl⟩

end Sys2Proof.Machine
end

