-- ==== Sys2Proof/Laws/Shared.lean ====
section
/-! SUPPORT. One lemma for each shared operation that says what it can do: the descrambler undoes the scrambler, a D command refuses or
runs on its dies, the doorbell window is silent while it is off, a request out of service only takes a place. -/

namespace Sys2Proof.Machine

/-! ## The scrambler and the descrambler (R302) -/

/-- A word built by shifting in one bit a step, the first bit uppermost. -/
def shiftIn (b : Nat → Bool) (n : Nat) : BitVec 64 :=
  (List.range n).foldl (fun acc i => (acc <<< 1) ||| BitVec.ofNat 64 (if b i then 1 else 0)) 0

theorem shiftIn_succ (b : Nat → Bool) (n : Nat) :
    shiftIn b (n + 1) = (shiftIn b n <<< 1) ||| BitVec.ofNat 64 (if b n then 1 else 0) := by
  simp [shiftIn, List.range_succ]

theorem getLsbD_shiftIn (b : Nat → Bool) (n j : Nat) (hn : n ≤ 64) : (shiftIn b n).getLsbD j = (decide (j < n) && b (n - 1 - j)) := by
  induction n generalizing j with
  | zero => simp [shiftIn]
  | succ n ih =>
    rw [shiftIn_succ, BitVec.getLsbD_or, BitVec.getLsbD_shiftLeft]
    cases j with
    | zero => cases h : b n <;> simp [h]
    | succ j =>
      have h1 : (BitVec.ofNat 64 (if b n then 1 else 0)).getLsbD (j + 1) = false := by
        cases b n <;> simp [BitVec.getLsbD_ofNat, Nat.testBit_succ]
      rw [h1, Nat.add_sub_cancel, ih j (by omega)]
      by_cases hj : j < n
      · have : n - (j + 1) = n - 1 - j := by omega
        simp [hj, this, show j + 1 < 64 by omega]
      · simp [hj]

theorem getMsbD_shiftIn (b : Nat → Bool) (i : Nat) (hi : i < 64) : (shiftIn b 64).getMsbD i = b i := by
  rw [BitVec.getMsbD_eq_getLsbD, getLsbD_shiftIn b 64 _ (by omega)]
  have : 64 - 1 - (64 - 1 - i) = i := by omega
  simp [hi, this, show 64 - 1 - i < 64 by omega]

theorem shiftIn_getMsbD (d : BitVec 64) : shiftIn d.getMsbD 64 = d := by
  apply BitVec.eq_of_getLsbD_eq
  intro j hj
  rw [getLsbD_shiftIn _ _ _ (by omega), BitVec.getMsbD_eq_getLsbD]
  have : 64 - 1 - (64 - 1 - j) = j := by omega
  simp [hj, this, show 64 - 1 - j < 64 by omega]

/-- One step of either shift register: the state takes in a bit. -/
abbrev pushBit (st : BitVec 58) (b : Bool) : BitVec 58 := (st <<< 1) ||| BitVec.ofNat 58 (if b then 1 else 0)

/-- What the taps of a state give. -/
abbrev tapBit (st : BitVec 58) : Bool := st.getLsbD 38 != st.getLsbD 57

/-- The scrambler's state before bit `n`. -/
def scrState (st : BitVec 58) (d : BitVec 64) : Nat → BitVec 58
  | 0 => st
  | n + 1 => pushBit (scrState st d n) (d.getMsbD n != tapBit (scrState st d n))

/-- The bit sent for bit `n`. -/
def sentBit (st : BitVec 58) (d : BitVec 64) (n : Nat) : Bool := d.getMsbD n != tapBit (scrState st d n)

/-- Both folds at once: the state is the scrambler's, and the output the bits shifted in. -/
theorem fold_bits (st : BitVec 58) (state : Nat → BitVec 58) (out : Nat → Bool) (f : BitVec 58 × BitVec 64 → Nat → BitVec 58 × BitVec 64)
    (h0 : state 0 = st) (N : Nat) (hf : ∀ n < N, ∀ o, f (state n, o) n = (state (n + 1), (o <<< 1) ||| BitVec.ofNat 64 (if out n then 1 else 0))) :
    ∀ n ≤ N, (List.range n).foldl f (st, 0) = (state n, shiftIn out n) := by
  intro n hn
  induction n with
  | zero => simp [h0, shiftIn]
  | succ n ih =>
    rw [List.range_succ, List.foldl_append, ih (by omega), shiftIn_succ]
    simpa using hf n (by omega) _

theorem scramble_eq (st : BitVec 58) (d : BitVec 64) : scramble st d = (scrState st d 64, shiftIn (sentBit st d) 64) :=
  fold_bits st (scrState st d) (sentBit st d) _ rfl 64 (fun _ _ _ => rfl) 64 (by omega)

/-- A receiver in the sender's state recovers the payload and reaches the sender's new state: the two stay together (R302). -/
theorem descramble_scramble (st : BitVec 58) (d : BitVec 64) : descramble st (scramble st d).2 = ((scramble st d).1, d) := by
  have key := fold_bits st (scrState st d) d.getMsbD (fun (acc : BitVec 58 × BitVec 64) i =>
    let r := (shiftIn (sentBit st d) 64).getMsbD i
    let b := r != (acc.1.getLsbD 38 != acc.1.getLsbD 57)
    ((acc.1 <<< 1) ||| BitVec.ofNat 58 (if r then 1 else 0), (acc.2 <<< 1) ||| BitVec.ofNat 64 (if b then 1 else 0))) rfl 64
    (fun n hn o => by
      have hb : (sentBit st d n != tapBit (scrState st d n)) = d.getMsbD n := by
        unfold sentBit
        cases d.getMsbD n <;> cases tapBit (scrState st d n) <;> rfl
      simp only [getMsbD_shiftIn _ n hn]
      rw [show (sentBit st d n != ((scrState st d n).getLsbD 38 != (scrState st d n).getLsbD 57)) = d.getMsbD n from hb]
      rfl) 64 (by omega)
  rw [scramble_eq]
  exact key.trans (by rw [shiftIn_getMsbD])

/-! ## Commands on dies (R359, R380) -/

/-- All that a command on a set of dies can do: BAD_ARG for an absent die, FAULT for one that is down, the refusal of a die, or its
effect on the dies named. -/
theorem Hub.overMask_cases (h : Hub) (down : Nat → Bool) (dies : List Nat) (check : Nat → Option Nat) (k : List Nat → Hub) :
    (h.overMask down dies check k = h.refuse St.badArg ∧ ∃ d ∈ h.named dies, h.nDies ≤ d) ∨
    ((∀ d ∈ h.named dies, d < h.nDies) ∧
      ((∃ d, leastOf ((h.named dies).filter down) = some d ∧ h.overMask down dies check k = h.refuseDie St.fault d) ∨
        (leastOf ((h.named dies).filter down) = none ∧
          ((∃ d ∈ h.named dies, ∃ e, check d = some e ∧ h.overMask down dies check k = h.refuseDie e d) ∨
            ((∀ d ∈ h.named dies, check d = none) ∧ h.overMask down dies check k = k (h.named dies)))))) := by
  unfold Hub.overMask
  by_cases ha : ((h.named dies).any fun d => decide (h.nDies ≤ d)) = true
  · left
    simp only [ha, if_true, true_and]
    simpa using ha
  · right
    simp only [ha]
    refine ⟨by simpa using ha, ?_⟩
    cases hl : leastOf ((h.named dies).filter down) with
    | some d => exact .inl ⟨d, rfl, rfl⟩
    | none =>
      refine .inr ⟨rfl, ?_⟩
      cases hc : (h.named dies).find? fun d => (check d).isSome with
      | some d =>
        left
        obtain ⟨e, he⟩ := Option.isSome_iff_exists.1 (List.find?_some (p := fun d => (check d).isSome) hc)
        exact ⟨d, List.mem_of_find?_eq_some hc, e, he, by simp [he]⟩
      | none => exact .inr ⟨by simpa using hc, rfl⟩

/-- All that the check of a command's dies can do. -/
theorem Hub.onDies_cases (h : Hub) (dies : List Nat) (k : Hub) :
    (∃ d, leastOf (dies.filter h.dieDown) = some d ∧ h.onDies dies k = h.refuseDie St.fault d) ∨
    (leastOf (dies.filter h.dieDown) = none ∧ h.onDies dies k = k) := by
  unfold Hub.onDies
  cases leastOf (dies.filter h.dieDown) with
  | some d => exact .inl ⟨d, rfl, rfl⟩
  | none => exact .inr ⟨rfl, rfl⟩

/-! ## The flash map (R470) -/

/-- No two regions of the flash map overlap. -/
theorem flashMap_apart : flashMap.Pairwise fun (a b : FlashRegion) => a.base + a.size ≤ b.base := by decide

/-! ## Calibration's elements (R431, R433, R434) -/

/-- Elements that stay change nothing: a correction carried to them is itself (R433). -/
theorem ElementChange.carry_same (m : CalMeas) (old : List (Nat × Nat) × Nat) (n : Nat) (k : Nat × Int) (segs : m.spares = old.1)
    (tap : m.tap = old.2) (gain : m.tapGain = m.tapWas) (pos : 0 < m.tapWas) : (m.change old n).carry k = k := by
  have d0 : 0 < m.tapWas * 1073741824 := by omega
  have e : roundHalf ((k.1 : Int) * (m.tapWas * 1073741824 : Nat)) (m.tapWas * 1073741824) = k.1 := by
    generalize m.tapWas * 1073741824 = d at d0 ⊢
    unfold roundHalf
    rw [Int.natAbs_mul, Int.natAbs_natCast, Int.natAbs_natCast, if_neg (by have := Int.mul_nonneg (Int.natCast_nonneg k.1) (Int.natCast_nonneg d); omega)]
    have : 2 * (k.1 * d) + d = d + 2 * d * k.1 := by ring
    rw [this, Nat.add_mul_div_left _ _ (by omega), Nat.div_eq_of_lt (by omega), Nat.zero_add]
  have z : roundHalf (0 * ((roundHalf ((k.1 : Int) * (m.tapWas * 1073741824 : Nat)) (m.tapWas * 1073741824)).toNat : Int)) 1073741824 = 0 := by
    rw [Int.zero_mul]; rfl
  unfold ElementChange.carry CalMeas.change
  simp only [segs, tap, gain, and_self, ↓reduceIte, Nat.max_eq_right (show 1 ≤ m.tapWas * 1073741824 by omega)]
  rw [z, e]
  simp

/-- The steps of a change lead from its first code to its goal (R434). -/
theorem ExcRef.codeAfter_zero (r : ExcRef) : r.codeAfter 0 = r.code := by simp [ExcRef.codeAfter]

theorem ExcRef.codeAfter_steps (r : ExcRef) : r.codeAfter r.steps = r.goal := by
  unfold ExcRef.codeAfter ExcRef.steps ExcRef.toVia
  simp only
  split <;> split <;> omega

/-- No more spares are used than there are (R431). -/
theorem chooseSegs_length (limit n : Nat) (segs spares : List Int) : (chooseSegs limit n segs spares).length ≤ n := by
  unfold chooseSegs
  generalize badSegs limit segs = bad
  generalize (spares.take n).zipIdx = sp
  induction n generalizing bad sp with
  | zero => simp [pairWorst]
  | succ n ih =>
    unfold pairWorst
    split
    · simpa using ih _ _
    · simp

/-! ## The test access port (R482) -/

/-- A change of the seal touches nothing of the port but what a debug instruction reads. -/
theorem Hub.tapSeal_cases (h : Hub) : h.tapSeal = h ∨
    (0x40 ≤ h.tap.ir ∧ h.tap.ir ≤ 0x4F ∧ h.debugOn = false ∧ h.tapSeal = { h with tap := { h.tap with dr := 0 } }) := by
  unfold Hub.tapSeal
  split
  · rename_i c
    exact .inr ⟨c.1, c.2.1, by simpa using c.2.2, rfl⟩
  · exact .inl rfl

/-! ## The time-interval unit (R444) -/

/-- An edge does nothing but put a spare into service that waits for one. -/
theorem Hub.tiuEdge_cases (h : Hub) (d n : Nat) : h.tiuEdge d n = h ∨
    ∃ b, ((h.die d).tiu.getD n TiuChan.reset).next = some b ∧
      h.tiuEdge d n = h.setDie d fun x => { x with tiu := modAt x.tiu n fun t => { t with second := !t.second, bins := b, next := none } } := by
  unfold Hub.tiuEdge
  cases ((h.die d).tiu.getD n TiuChan.reset).next with
  | some b => exact .inr ⟨b, rfl, rfl⟩
  | none => exact .inl rfl

/-! ## The doorbell window and the requests -/

/-- While the window is off, no transaction does anything (R354, R374). -/
theorem Hub.hspi_off (h : Hub) (cmd : Byte) (a : Nat) (ws : List Word) (n : Nat) (off : h.hspiOn = false) : h.hspi cmd a ws n = h := by
  simp [Hub.hspi, off]

/-- A command byte of no row is ignored (R374). -/
theorem Hub.hspi_unknown (h : Hub) (cmd : Byte) (a : Nat) (ws : List Word) (n : Nat) (u : cmd ∉ [0x05, 0x0B, 0x6B, 0x02, 0x32]) :
    h.hspi cmd a ws n = h := by
  simp only [List.mem_cons, List.not_mem_nil, or_false, not_or] at u
  obtain ⟨u1, u2, u3, u4, u5⟩ := u
  unfold Hub.hspi
  rw [if_neg u1, if_neg (not_or.2 ⟨u2, u3⟩), if_neg (not_or.2 ⟨u4, u5⟩), ite_self]

/-- Where no requests are served, a request takes its place and nothing else happens (R355, R417, R421). -/
theorem Hub.takeIn_waits (h : Hub) (r : Route) (q : ReqHeader) (p : Bytes) (off : h.serves = false) :
    h.takeIn r q p = { h with mgmt := { h.mgmt with
      queue := h.mgmt.queue ++ [⟨r, q, p, 0, h.clk.elapsed, h.mgmt.order, true⟩], order := h.mgmt.order + 1 } } := by
  simp [Hub.takeIn, off]

/-- A write that has not expired stays. -/
theorem Hub.writeExpiry_live (h : Hub) (live : ∀ j ∈ h.tag.writes, j.expired h.clk.elapsed = false) : h.writeExpiry = h := by
  unfold Hub.writeExpiry
  cases hw : h.tag.writes with
  | nil => rfl
  | cons j l => simp [live j (by simp [hw])]

/-- While a block is being written the wired side starts no other (R496). -/
theorem Hub.tagNext_busy (h : Hub) (busy : h.tag.busy.isSome = true) (live : ∀ j ∈ h.tag.writes, j.expired h.clk.elapsed = false) :
    h.tagNext = h := by
  simp [Hub.tagNext, h.writeExpiry_live live, busy]

end Sys2Proof.Machine
end

