-- ==== Sys2Proof/Machine/Package.lean ====
section
/-! DEFINITION. The package: ball names, the tile map, the package-level pins and their banks (20, R498 to R503, R507). Nothing of it
changes; no command acts on it. -/

namespace Sys2Proof.Machine

/-! ## Ball names (R498) -/

/-- The letters of a row's name, in order. -/
def rowLetters : List Char := ['A', 'B', 'C', 'D', 'E', 'F', 'G', 'H', 'J', 'K', 'L', 'M', 'N', 'P', 'T', 'U', 'V', 'W', 'Y']

/-- The name of a row, counted from 1: one letter up to row 19, then two. -/
def rowName (r : Nat) : List Char :=
  if r ≤ 19 then [rowLetters.getD (r - 1) 'A']
  else [rowLetters.getD ((r - 20) / 19) 'A', rowLetters.getD ((r - 20) % 19) 'A']

/-- A ball by its row and column, counted from 1. -/
structure Ball where
  row : Nat
  col : Nat
  deriving DecidableEq, Repr

/-- A ball's name: its row's letters, then its column. -/
def Ball.name (b : Ball) : String := String.ofList (rowName b.row) ++ toString b.col

/-! ## The tile map (R499, R500, Tables 20-2 and 20-3) -/

/-- The slot of a quadrant's tile, by row and column counted from 1. -/
def Variant.slot (v : Variant) (d q : Nat) : Nat × Nat :=
  let block (f : Nat × Nat) : Nat × Nat := (f.1 + q / 2, f.2 + q % 2)
  match v with
  | .eh2 =>
    if d = 0 then [(1, 1), (1, 2), (1, 3), (2, 3)].getD q (1, 1) else [(3, 3), (3, 2), (3, 1), (2, 1)].getD q (3, 3)
  | .eh4 => block ([(1, 1), (1, 3), (3, 1), (3, 3)].getD d (1, 1))
  | .eh8 => block ([(5, 1), (5, 3), (5, 5), (3, 5), (1, 5), (1, 3), (1, 1), (3, 1)].getD d (5, 1))

/-- The shift of a slot row's tiles, in rows and columns. -/
def Variant.shift (v : Variant) (slotRow : Nat) : Nat × Nat :=
  match v with
  | .eh2 => (2, 2)
  | .eh4 => (if slotRow ≤ 2 then 0 else 5, 0)
  | .eh8 => (0, 0)

/-- A ball of a quadrant's tile, by its local row and column from 0. -/
def Variant.tile (v : Variant) (d q i j : Nat) : Ball :=
  let s := v.slot d q
  let m := v.shift s.1
  ⟨16 * (s.1 - 1) + i + 1 + m.1, 16 * (s.2 - 1) + j + 1 + m.2⟩

/-- A channel's local number in its quadrant: 8 × octet + slice. -/
def localChan (c : Nat) : Nat := c % 32

/-- The CH balls of a channel, and its EXC balls: the negative one where `neg`. -/
def Variant.chBall (v : Variant) (c : Nat) (neg : Bool) : Ball :=
  v.tile (c / 128) (c / 32 % 4) (2 * (localChan c / 8)) (2 * (localChan c % 8) + if neg then 1 else 0)
def Variant.excBall (v : Variant) (c : Nat) (neg : Bool) : Ball :=
  v.tile (c / 128) (c / 32 % 4) (2 * (localChan c / 8) + 1) (2 * (localChan c % 8) + if neg then 1 else 0)

/-- The guard ball of an octet. -/
def Variant.grdBall (v : Variant) (o : Nat) : Ball := v.tile (o / 16) (o / 4 % 4) 9 (4 * (o % 4))

/-- A lane's balls: L0 to L2, LT as lane 3; transmit or receive. -/
def Variant.laneBall (v : Variant) (p l : Nat) (receive neg : Bool) : Ball :=
  v.tile (p / 4) (p % 4) (if receive then 13 else 11) (4 * l + if neg then 1 else 0)

/-- What a ball of a tile is. -/
inductive TileBall where
  | ch (c : Nat) (neg : Bool)
  | exc (c : Nat) (neg : Bool)
  | grd (oct : Nat)
  | tx (lane : Nat) (neg : Bool)
  | rx (lane : Nat) (neg : Bool)
  | agnd
  | vexc
  | vmain
  | vss
  deriving DecidableEq, Repr

/-- The ball at a local row and column, channels and octets numbered within the quadrant (Table 20-3). -/
def tileBall (i j : Nat) : TileBall :=
  if i < 8 then
    let c := 8 * (i / 2) + j / 2
    if i % 2 = 0 then .ch c (j % 2 == 1) else .exc c (j % 2 == 1)
  else match i with
    | 8 => .agnd
    | 9 => if j % 4 = 0 then .grd (j / 4) else if j % 4 = 2 then .vexc else .vss
    | 10 => if j % 4 = 2 then .vexc else .vss
    | 11 => if j % 4 < 2 then .tx (j / 4) (j % 4 == 1) else .vss
    | 13 => if j % 4 < 2 then .rx (j / 4) (j % 4 == 1) else .vss
    | 14 => .vmain
    | 15 => if j % 3 = 0 then .vmain else .vss
    | _ => .vss

/-! ## Package-level pins (R501, R502, Table 20-4) -/

/-- The ball of a field position, filled in row-major order: the 192 package-level balls, then VMAIN. -/
def Variant.field (v : Variant) (n : Nat) : Ball :=
  match v with
  | .eh2 => ⟨19 + n / 16, 19 + n % 16⟩
  | .eh4 => ⟨33 + n / 64, 1 + n % 64⟩
  | .eh8 => ⟨33 + n / 32, 33 + n % 32⟩

/-- Types of pins. -/
inductive PinType where
  | input
  | inputPd
  | inputPu
  | output
  | inOut
  | openDrain
  | differential
  | analogue
  | supply
  deriving DecidableEq, Repr

/-- Supplies that power pins: VIO_A and VIO_B, of D0 and D1, and VKEEP. -/
inductive Bank where
  | vioA
  | vioB
  | vkeep
  | none
  deriving DecidableEq, Repr

/-- Pins of one kind: the first index of the field and how many follow. -/
structure Pins where
  name : String
  first : Nat
  count : Nat
  typ : PinType
  bank : Bank
  deriving DecidableEq, Repr

/-- Table 20-4. -/
def packagePins : List Pins :=
  [⟨"REFCLK", 0, 2, .differential, .none⟩, ⟨"VSS", 2, 2, .supply, .none⟩, ⟨"PPS_IN", 4, 1, .inputPd, .vioA⟩,
   ⟨"PPS_IN_B", 5, 1, .inputPd, .vioB⟩, ⟨"TIN0", 6, 4, .inputPd, .vioA⟩, ⟨"TIN4", 10, 4, .inputPd, .vioB⟩,
   ⟨"TRIG0", 14, 4, .inputPd, .vioA⟩, ⟨"TRIG4", 18, 4, .inputPd, .vioB⟩, ⟨"SCLK_OUT", 22, 4, .output, .vioA⟩,
   ⟨"REP0", 26, 8, .output, .vioA⟩, ⟨"REP8", 34, 8, .output, .vioB⟩, ⟨"FCO", 42, 4, .output, .vioA⟩,
   ⟨"FCI", 46, 4, .inputPd, .vioA⟩, ⟨"BYP_EN", 50, 1, .openDrain, .vkeep⟩, ⟨"IRQ_n", 51, 1, .openDrain, .vioA⟩,
   ⟨"RST_n", 52, 1, .input, .vioA⟩, ⟨"HSPI_CS_n", 53, 1, .inputPu, .vioA⟩, ⟨"HSPI_SCK", 54, 1, .inputPd, .vioA⟩,
   ⟨"HSPI_IO", 55, 4, .inOut, .vioA⟩, ⟨"I2C", 59, 2, .openDrain, .vioA⟩, ⟨"TCK TMS TDI", 61, 3, .inputPu, .vioA⟩,
   ⟨"TDO", 64, 1, .output, .vioA⟩, ⟨"TRST_n", 65, 1, .inputPd, .vioA⟩, ⟨"FL_CS_n FL_SCK", 66, 2, .output, .vioA⟩] ++
  [⟨"FL_IO", 68, 4, .inOut, .vioA⟩, ⟨"CALREF", 72, 2, .analogue, .none⟩, ⟨"ANT", 74, 2, .analogue, .none⟩,
   ⟨"VKEEP", 76, 4, .supply, .none⟩, ⟨"VIO_A", 80, 12, .supply, .none⟩, ⟨"VIO_B", 92, 12, .supply, .none⟩,
   ⟨"AGND", 104, 14, .supply, .none⟩, ⟨"VSS", 118, 74, .supply, .none⟩]

/-- The entry of Table 20-4 that a field index belongs to; VMAIN from 192 on. -/
def pinAt (n : Nat) : Option Pins := packagePins.find? fun p => decide (p.first ≤ n ∧ n < p.first + p.count)

/-- Balls populated: the tiles, the field, and on the EH2 the 19 VSS anchors of each corner (R501, Table 20-1). -/
def Variant.balls (v : Variant) : Nat := v.dies * 4 * 256 + 192 + 32 * v.dies + match v with | .eh2 => 76 | _ => 0

/-- With the coupler closed, the ball that a lane ball of P00 or P01 connects to: receive to the other port's transmit (R507). -/
def Variant.through (v : Variant) (p l : Nat) (receive neg : Bool) : Ball := v.laneBall (1 - p) l (!receive) neg

end Sys2Proof.Machine
end

