-- ==== Sys2Proof/Tests/Slice0.lean ====
section
/-! SUPPORT. The model's own tests: ill-formed commands that WellFormed refuses, worked examples of the spec, single commands, and
states that meet the hypotheses of the statements clause by clause. -/

namespace Sys2Proof.Tests

open Sys2Proof.Machine

set_option Elab.async false
set_option linter.unusedVariables false

/-- A state from a hub, with no command waiting. -/
def st (h : Hub) : State := ⟨h, []⟩

/-- An EH2 that runs: its dies report, its clock runs, the firmware serves at FULL, and array time stands at 5.1 s. -/
def up : Hub :=
  let h := Hub.reset Ident.shipped
  { h with
    clk := { h.clk with elapsed := 5000000000, cycles := 625000000, run := true, valid := true }
    tm := { h.tm with now := 5222400000000, src := .free, second := 5 }
    dies := h.dies.map fun x => { x with inService := true, rails := true, cores := { x.cores with hbOk := true, reported := true, copy := some ⟨[], [], 0, 0, 0⟩ } }
    pwr := { h.pwr with vkeepOk := true }
    boot := { h.boot with level := .full, tr := some 0, running := true, cfgApplied := true, p00Settled := true } }

/-- `up` with its array time, its clocks, its channel 0, its die 0, its octet 0 or its port 0 or 1 changed. -/
def upTm (f : Tm → Tm) : State := st { up with tm := f up.tm }
def upClk (f : Clk → Clk) (g : Tm → Tm) : State := st { up with clk := f up.clk, tm := g up.tm }
def upCh (f : Chan → Chan) : State := st (up.setCh 0 f)
def upDie (f : Die → Die) : State := st (up.setDie 0 f)
def upPort (p : Nat) (f : Port → Port) : State := st (up.setPort p f)

/-! ## Ill-formed commands -/

/-- One command for each check of WellFormed, with an operand that its carrier cannot hold: none is well-formed. -/
theorem test_illFormed : [Instr.sysReqstat 256 0, .sysFwWrite 0 (2 ^ 32) [], .chanSet [1024] [], .chanSet [3, 3] [],
    .chanCoefSwitch [0] (2 ^ 32), .afeGuard [128] 0, .chanGet 65536, .strmSet 256 0 [], .churnSet 0 256 [], .capPartGet [8],
    .sepSwitch [0] 65536, .pwrGate [32], .calRun [128], .sealUnseal [], .sealKeySet [0], .registerWrite 65536 (.write false [0]),
    .schedAdd false ⟨0, 0, 0⟩ ⟨0, 0, 0, 0, 1, 0, 0⟩ [],
    .inventory ⟨.nonAddressed, false, false⟩ none false 65 0].all (fun i => !WellFormed i) = true := by decide +kernel

theorem test_wellFormed : [Instr.chanSet [0, 1023] [], .sepSwitch [0, 7] 65535, .sysInfo].all WellFormed = true := by decide +kernel

/-! ## Worked examples of the spec -/

/-- Channel 301 (R4): die 2, octet 37, and the RAW port 2 × 4 + 1. -/
theorem test_channel301 : chDie 301 = 2 ∧ chOct 301 = 37 ∧ chQuad 301 = 9 := by decide

/-- The check value of the IEEE 802.3 polynomial over "123456789" (R199). -/
theorem test_crc32 : crc32 [0x31, 0x32, 0x33, 0x34, 0x35, 0x36, 0x37, 0x38, 0x39] = 0xCBF43926 := by decide +kernel

/-- The crossing of R175: u = 0.25 of 1 µs is 250 ns after t_(k−1). -/
theorem test_linearStamp : linearStamp 0 (1000 * 1024) 900 1300 1000 = 250 * 1024 := by decide +kernel

/-- PWM at three tenths of 20,000 ns is 6,000 ns (R59). -/
theorem test_pwmWidth : repOut ⟨0x80000000, 0, 1000, 20000, 0⟩ 300 = 6000 := by decide +kernel

/-- The strain bridge of chapter 05: N = 1,250, k = 3, D = 100 and L = 10. -/
def bridge : Desc := { Desc.reset with conv := 0x804004E2, ctl := 0x00009400, cic := 0x00030063, ma := 0x80000009 }

/-- Its skim sample j stands at j × 10 ms (R149), and its load is 24,424,200 cycles/s with RED blocks of 100 ms (R160). -/
theorem test_bridge : bridge.skimInst 3 = 30000000 * 1024 ∧ (bridge.load true 0x80000064 none).1 =
    24424200 * (bridge.load true 0x80000064 none).2 := by decide +kernel

/-- The block of chapter 10: samples 0 and 1 are 103 and 101 after a last value of 100, and samples 2 to 63 are copied. -/
theorem test_churnBlock : (match decodeBlock true 4 64 [(List.range 64).map fun i => ((i : Int), 0)] 1 [100]
      [0x20, 0x08, 0x51, 0xE0, 0x40, 0xF4] with
    | .good b => (b.samples.take 3, b.samples.length, b.size, b.zeros)
    | .bad _ _ => ([], 0, 0, false)) = ([(103, 0), (101, 0), (2, 0)], 64, 6, true) := by decide +kernel

/-- Had LENM1 been 62, LENGTH_OVERRUN at byte 3. -/
theorem test_churnOverrun : (match decodeBlock true 4 64 [(List.range 64).map fun i => ((i : Int), 0)] 1 [100]
      [0x20, 0x08, 0x51, 0xE0, 0x40, 0xF8] with
    | .good _ => none
    | .bad e bit => some (e, bit / 8)) = some (.lengthOverrun, 3) := by decide +kernel

/-- The balls of channel 301 and of octet 37 on an EH8 (R533, R536): CH0301_P, EXC0301_P and GRD037. -/
theorem test_ballsOf301 : (Variant.eh8.chBall 301 false).name = "CK91" ∧ (Variant.eh8.excBall 301 false).name = "CL91" ∧
    (Variant.eh8.grdBall 37).name = "CV85" := by decide +kernel

/-- How many balls a variant's package has. -/
theorem test_ballCounts : [Variant.eh2, .eh4, .eh8].map Variant.balls = [2380, 4416, 8640] := by decide +kernel

/-! ## Single commands -/

/-- The reply of a command, and the hub after it. -/
def after (i : Instr) (s : State) : Hub :=
  match exec i s with
  | .next t => t.hub
  | _ => s.hub

/-- SYS_RESET takes the one value of R381 and refuses every other with BAD_ARG. -/
theorem test_sysReset : (after (.sysReset 0) (st up)).mgmt.reply.status = St.badArg ∧
    (after (.sysReset 0xA5A55A5A) (st up)).mgmt.reply.status = St.ok := by decide +kernel

/-- A channel that an EH2 does not have is refused with BAD_ARG, and nothing changes (R5). -/
theorem test_absentChannel : (after (.chanGet 300) (st up)).mgmt.reply.status = St.badArg ∧
    (after (.chanGet 300) (st up)).chans = up.chans := by decide +kernel

/-- The registers hold what was written to them (R100). -/
theorem test_timeCfg : (after (.timeCfgSet 0x0000FA03) (st up)).mgmt.reply.status = St.ok ∧
    (after .timeCfgGet ⟨after (.timeCfgSet 0x0000FA03) (st up), []⟩).mgmt.reply.payload = be 4 0x0000FA03 := by decide +kernel

/-- The word that a table row spells is none, so the queue stays as it is. -/
theorem test_noWord : ((st up).withFetchWord 32 0).pending = [] := by decide +kernel

/-! ## States and operands of the witnesses: small changes of `up` -/

def idleTin : Tin := ⟨0, false, 0, 0, none, 0, 0⟩
def idlePin : TrigPin := ⟨0, false, none, 0⟩
def lane : State := upTm fun t => { t with src := .lane }
def early : State := st { Hub.reset Ident.shipped with boot := { (Hub.reset Ident.shipped).boot with tr := some 0 } }
def pps (s : PpsState) (count ago : Nat) : State :=
  upTm fun t => { t with cfg := 0x00020058, ppsA := { t.ppsA with st := s, count := count, last := some (t.now - ago) } }
def q0 : Port := up.prt 0
def ret03 : State := upPort 0 fun q => { q with lanes := q.lanes.modify 3 fun l => { l with retired := true } }
def lock00 : State := st ({ up with tm := { up.tm with src := .lane } }.setPort 0 fun q => { q with lanes := q.lanes.modify 0 fun l => { l with lock := .locked } })
def rl (a : Option Nat) : State := upClk (fun c => { c with relockAt := a, retryAt := a }) id
def tin0 (f : Tin → Tin) : State := upTm fun t => { t with tins := t.tins.modify 0 f }
def heldOct (w : ChanWrite) : State := st ((up.setOct 0 fun o => { o with held := true }).setCh 0 fun x => { x with held := some w })
def ws0 : List Word := Desc.toWords Desc.reset
def cw0 : List Word := [0, 0, 0xC350, 0xBB8, 0xEA60, 0xBB8, 0x40000009, 0, 0x10000] ++ List.replicate 127 0
def octHeld : State := st (up.setOct 0 fun o => { o with held := true })
def sw (w : PendingSwitch) : State := upCh fun x => { x with shadow := some CoefSet.reset, switch := some w }
def aud (f : Audit → Audit) : State := upDie fun x => { x with audit := f x.audit }
def wait0 (ta : Nat) : AuditWait := ⟨0, ta, false⟩
def sparse (f : Chan → Chan) : State := upCh f
def trigCh : DetSec := { DetSec.reset with trg := 0x80800000 }
def pin0 (f : TrigPin → TrigPin) : State := st { up with trg := { up.trg with pins := up.trg.pins.modify 0 f } }
def kon0 (k : Kon) : State := st { up with trg := { up.trg with kons := up.trg.kons.set 0 k } }
def ev (a b : Nat) : KonEvent := ⟨a, b, false⟩
def cap : CapParams := ⟨31, 0, 0, 0, 50, 0, 1, 16, 0, 0, 0, [0], [0], []⟩
def capSt (c : Capture) : State := st { up with caps := up.caps.set 31 (some c) }
def cap0 : Capture := CapParams.armed cap
def qAny : CapQuery := ⟨0xFFFFFFFF, 0xFF, 15, 0xFFFF, 0, 1, ⟨0, 0, 0⟩, ⟨0, 0, 0⟩⟩
def train0 : Train := ⟨0, 31, 0, 0, 0, 1, 0, [0], [], false⟩
def redOn (b : Nat) : State := upCh fun x => { x with skimEn := true, red := { x.red with cfg := 0, block := some b } }
def coach (s : CoachState) : Coach :=
  ⟨5, 31, 0, 1, 0, false, false, 0, 0, 0, false, 0, 0, false, 0, 0, 0, 16, [], none, s, false, none, 1, false, 0, none, none⟩
def coachSt (s : CoachState) : State := upDie fun x => { x with store := { x.store with coaches := [coach s] } }
def churned (u : ChurnUse) : State := upCh fun x => { x with churnRaw := some u, rawEn := true }
def cuse : ChurnUse := ChurnUse.new 0 1
def savedSt (x : SavedChurn) : State := st { up with saved := [x] }
def savedCh (x : SavedChurn) (u : ChurnUse) : State := st { up.setCh 0 (fun y => { y with churnRaw := some u }) with saved := [x] }
def sv : SavedChurn := ⟨1, 0, 0, List.replicate 8224 0, true⟩
def img : Bytes := let h := pad 28; h ++ be 4 (crc32 (h ++ pad 8192)).toNat ++ pad 8192
def job1 (st : Nat) : ChurnJob := ⟨1, 0, 5, 1024, [], none, [], 0, st, 0⟩
def jobSt (st1 : Nat) : State := st { up with jobs := [job1 st1] }
def sep (f : Sep → Sep) : State := st { up with sep := f up.sep }
def row0 : SepRow := ⟨0, List.replicate 128 0⟩
def frame : ModalFrame := ⟨0, 0, false, false, false, 16, 0, 0, 65535, 0, 0, 0, 0, 0, List.replicate 16 0⟩
def tk (ready : Bool) : SepTick := ⟨5, ready, false, false, 16, 0, 65535, [(16, 0, 65535)], true, false, 1, 0, 0, 0, List.replicate 16 3, false⟩
def rep0 : State := st { up with reps := up.reps.set 0 { Rep.reset with w := ⟨0x80000000, 0, 1, 1000, 0⟩ } }
def fl (k : FlowKey) (f : Flow → Flow) : State := st (up.setFlow k fun x => f { x with started := true })
def sk0 : FlowKey := ⟨0, 0, 0⟩
def red0 : FlowKey := ⟨0, 1, 0⟩
def packet : Packet := ⟨0, 0, 1024, [⟨0x01, 0, 0, []⟩], false, none, 0⟩
def ack0 (w : Nat) : AckEntry := ⟨w, 0, []⟩
def win (w : List Word) (is : List Item) (k : Option FlowKey) (f : Flow → Flow) : State :=
  st { up.setFlow red0 (fun x => f { x with started := true, dest := .localWindow }) with strm := { up.strm with win := ⟨w, is, false⟩, localFlow := k } }
def plainHub : Hub := up.setPort 2 fun q => { q with cfg := 0x930703E8, st := .plain }
def rawCh : State := upCh fun x => { x with rawEn := true }
def xingSt : State := upDie fun x => { x with xing := x.xing.set 10 3 }
def tick5 (f : SepTick → SepTick) : State := sep fun x => { x with ctl := 0x80000005, ticks := [f (tk true)] }
def sealedBy (n : Nat) (f : Hub → Hub) : State := st (f { up with fseal := { up.fseal with st := n } })
def seatPort (p : Nat) (f : Port → Port) : State := st (up.setPort p f)
def pup (p : Nat) (f : Link → Link) : State := upPort p fun q => { q with st := .up, width := 3, rate := 4, peerRate := 4, peerWidth := 3, link := f { q.link with rxClass := 3 } }
def ln (p l : Nat) (s : PState) (f : Lane → Lane) : State := upPort p fun q => { q with st := s, lanes := q.lanes.modify l f }
def upLock (p : Nat) (f : Port → Port) : State :=
  upPort p fun q => f { q with st := .up, width := 3, rate := 4, peerRate := 4, peerWidth := 3, lanes := q.lanes.map fun x => { x with lock := .locked } }
def cpl (f : Flt → Flt) : State := st { up with flt := f up.flt }
def srun : StepRun := ⟨3, none, .stepUp, 4, 3, [], none, none, 0⟩
def train (p : Nat) (r : StepRun) : State := upPort p fun q => { q with st := .training, run := some r }
def pk (c : Nat) : PacketIn := ⟨c, 1, 0, 1, 3, 0, true, false, []⟩
def arr : ArrMsg := ⟨1, 1, 0, 0, false, 0, ⟨5, 0, 0⟩⟩
def up0 (f : Hub → Hub) : State := st (f (up.setPort 0 fun q => { q with st := .up, width := 1 }))
def enm (f : Enum → Enum) : State := up0 fun h => { h with enm := f h.enm }
def cal (f : Cal → Cal) : State := st { up with cal := f up.cal }
def slot (n : Nat) : Slot := ⟨0, 0, n, up.cal.cfg, none, true, false, (8, 0, 0), 0, 0⟩
def slotSt (n : Nat) (held : Bool) : State := st { up.setOct 0 (fun o => { o with held := held }) with cal := { up.cal with slots := [slot n] } }
def m0 : CalMeas := ⟨(0, 1), (0, 1), (0, 1), 20000, 1000, [], 4, 0, 1073741824, 0, none, 1000, 50, true⟩
def pwr (f : Pwr → Pwr) : State := st { up with pwr := f up.pwr }
def boot (f : Boot → Boot) : State := st { up with boot := f up.boot }
def flt (f : Flt → Flt) : State := st { up with flt := f up.flt }
def ret0 : State := upCh fun x => { x with retired := some 257 }
def fw (n : Nat) : FaultWin := ⟨0, n, 5, 1, 257, []⟩
def auto : State := st { (up.setCh 0 fun x => { x with retired := some 258, clearSince := 0 }) with flt := { up.flt with ch := 0x03800064 }, clk := { up.clk with elapsed := 10000000000 } }
def cores (f : Cores → Cores) : State := upDie fun x => { x with cores := f x.cores }
def rd : DieReading := ⟨12000, 1000, 12000, 100, [400], 3000⟩
def upLink0 : State := st (up.setPort 0 fun q => { q with st := .up })
def drillable : State := st { up with dies := up.dies.map fun x => { x with cores := { x.cores with drill := false } } }
def tag (f : Tag → Tag) : State := st { up with tag := f up.tag }
def rq (m : TagMode) : TagReq := ⟨m, false, true⟩
def starting (f : Boot → Boot) (g : Die → Die) : State :=
  let h := Hub.reset Ident.shipped
  st { h with
    clk := { h.clk with elapsed := 250000000 }
    dies := h.dies.map fun x => g { x with rails := true }
    pwr := { h.pwr with vkeepOk := true }
    boot := f { h.boot with level := .boot, tr := some 0, bays := [(0, 0)] } }
def sealed (f : Seal → Seal) : State := st { up with fseal := f up.fseal }
def hreq (op : Nat) : ReqHeader := ⟨op, 7, 1, 0, 0, 0, 0⟩
def request (op : Nat) (r : Route) : Request := ⟨r, hreq op, [], 0, 5000000000, 0, false⟩
def mgmt (f : Mgmt → Mgmt) : State := st { up with mgmt := f up.mgmt }
def cached : CacheEntry := ⟨1, 0x0C03, 7, 0, 0, 255, [], 5000000000, .hspi, true⟩
def cells (b : Bytes) : List (Nat × Word) := (List.range 8).filterMap fun i => if wordAt b (4 * i) = 0 then none else some (i, wordAt b (4 * i))
def mbx (b : Bytes) (crc : Word) : State :=
  st { up with dbw := { up.dbw with mbiTail := 1, mbiCrc := crc, mbi := cells b } }
def addrd (f : Link → Link) : State :=
  st { up.setPort 0 (fun q => { q with st := .up, link := f { q.link with rxClass := 3 } }) with enm := { up.enm with addr := 5 } }
def svcBody : Bytes := let h := ReqHeader.bytes (hreq 0x0C03); h ++ be 4 (crc32 h).toNat
def svcPk (kind src : Nat) (b : Bytes) : PacketIn := ⟨3, kind, 5, src, 3, 0, true, false, b⟩
def fwdHub : State := st ({ up with enm := { up.enm with addr := 5 } }.setPort 0 (fun q => { q with st := .up, link := { q.link with rxClass := 3 } }) |>.setPort 1 fun q => { q with range := some (6, 9) })
def daBody (src : Nat) : Bytes := be 2 0 ++ be 1 1 ++ pad 5 ++ be 8 (2 ^ 62 + src * 2 ^ 32 + 0x3FF)
def resp : Response := ⟨.hspi, 0x0C03, 7, 0, 0, 1, 255, 0, []⟩
def wordsB (l : List Word) : Bytes := l.flatMap fun w => be 4 w.toNat
def afeBody : Bytes := [1] ++ pad 127 ++ wordsB [0x00053E2D, 0, 0, 0x00000100, 0x8201F506]
def sepBody : Bytes := wordsB [0x4000003F, 1250, 3500, 65535]
def ihdr (op n : Nat) : ReqHeader := ⟨op, 0, 0, 0, n, 0, 0⟩
def act (op : Nat) (b : Bytes) (t : Nat) (com : Bool) : Action :=
  { id := 1, t := t, lateOk := true, hdr := ihdr op b.length, payload := b, accepted := 0, order := 0, committed := com, armed := false, held := false, own := t, unlocked := false }
def acts (a : Action) : State := mgmt fun m => { m with actions := [a] }
def now : Nat := up.tm.now
def soon : Instant := Instant.of (now + 1024000000)
def img0 : Image := ⟨pad 128, [], 0, 0, 0⟩
def slotB (i : Image) : State := st { up with flash := { up.flash with b := some i, a := some i }, boot := { up.boot with slot := some 0 } }
def pk0 : PacketIn := ⟨3, 1, 0, 1, 3, 0, true, false, []⟩
def die1gone : Hub := up.setDie 1 fun x => { x with inService := false }
def glitch : State := upClk (fun c => { c with elapsed := 5000000000 }) (fun t => { t with markBase := some 500000001 })
def octHeldBy (w : ChanWrite) : State := heldOct w
def heavy : State := upCh fun x => { x with desc := { Desc.reset with conv := 0x80400019, ctl := 0x0000A800 } }
def cwLong : List Word := [127, 0, 0xC350, 0xBB8, 0xEA60, 0xBB8, 0x20000009, 0, 0x8000] ++ List.replicate 127 0
def heldAfe : ChanWrite := ⟨none, some { AfeWords.reset with load := 1 }, none, 0, [], false, 0⟩
def heldDesc : ChanWrite := ⟨some Desc.reset, none, none, 0, [], false, 0⟩
def conv1 : State := upCh fun x => { x with writes := [⟨none, some { AfeWords.reset with load := 1 }, none, 0, [], false, 0⟩] }
def repOn : State := st { up.setCh 255 (fun x => { x with skimEn := true }) with reps := up.reps.set 15 { Rep.reset with w := ⟨0x80000000, 0, 1, 1000, 0⟩, hiZ := false } }
def red2 : State := st (up.setCh 0 fun x => { x with desc := { Desc.reset with ctl := 0x0000B000 }, skimEn := true, red := { x.red with cfg := 0, block := some 5097 } })
def partSt (w : Word) (f : Hub → Hub) : State := st (f { up with dies := up.dies.map fun x => { x with store := { x.store with part := w } } })
def tooHeavy : State := upCh fun x => { x with desc := { Desc.reset with conv := 0x80400019, ctl := 0x0000A800, coef := CoefSet.ofWords cwLong } }
def inJobSt (s : CoachState) : State := st { (coachSt s).hub with jobs := [job1 0] }
def capFill : State := st { up.setDie 0 (fun x => { x with store := { x.store with coaches := [coach .filling] } }) with caps := up.caps.set 31 (some { cap0 with train := some train0 }) }
def job3 : ChurnJob := { job1 3 with fail := some (1, 2, 3) }
def plainCoach : Coach := { coach .ready with churn := 0 }
def plainCoachSt : State := upDie fun x => { x with store := { x.store with coaches := [plainCoach] } }
def rawPort : Hub := { plainHub.setPort 2 (fun q => { q with rate := 4, width := 3 }) with strm := { plainHub.strm with rawGroup := [2] } }
def twoN : State := upCh fun x => { x with desc := { x.desc with conv := 0x8040007E } }
def allRaw : Hub := ({ rawPort with chans := rawPort.chans.map fun x => { x with rawEn := true } } : Hub).setPort 2 fun q => { q with rate := 0, width := 1 }
def plain6 : Hub := (die1gone.setPort 6 fun q => { q with cfg := 0x930703E8, st := .plain })
def it : Item := ⟨0x01, 0, 0, [1, 2, 3, 4]⟩
def manual7 (f : Port → Port) : State := upLock 7 fun q => f { q with manual := true }
def slot1 : Nat := (1024 * 66 * 1000000000 + 5 * lineRate 0) / lineRate 0
def mk (p l : Nat) (s : PState) (f : Lane → Lane) : State :=
  st (up.setPort p fun q => { q with st := s, lanes := q.lanes.modify l fun x => f { x with markAt := 5000000000 - slot1 } })
def ownRun : StepRun := { srun with own := some [true, true, true] }
def hs (f : Port → Port) : State := upLock 7 fun q => f { q with st := .search }
def p0 (f : Port → Port) : State := upPort 0 fun q => f { q with st := .up, width := 3, rate := 4, peerRate := 4, peerWidth := 3 }
def rtRun : StepRun := { srun with cause := .retrain, own := some [true, true, true] }
def late (s : State) : State := st { s.hub with clk := { s.hub.clk with elapsed := 600000000000 } }
def fr : Frame := ⟨3, 1, 0, 1, [], none, false, true⟩
def tx0 (f : Link → Link) : State := st (up.setPort 0 fun q => { q with st := .up, width := 1, link := f q.link })
def addr5 : Hub := { up with enm := { up.enm with addr := 5 } }
def slotOfSt (x : Slot) (held : Bool) : State := st { up.setOct 0 (fun o => { o with held := held }) with cal := { up.cal with slots := [x] } }
def keep : State := pwr fun p => { p with st := .keep }
def bg (f : Octet → Octet) : State := st { up with cal := { up.cal with passDone := true }, clk := { up.clk with elapsed := 2700000000000 }, octs := up.octs.map f }
def waiting3 : Request := { request 0x0C03 .hspi with svc := 3, at' := 0 }
def shedding : State := st { up with mgmt := { up.mgmt with queue := [waiting3] }, pwr := { up.pwr with refreshed := some 5000000000 } }
def die0gone : Hub := up.setDie 0 fun x => { x with inService := false }
def p0lanes (r : List Nat) : State := upPort 0 fun q => { q with lanes := (List.range q.lanes.length).map fun i => { (q.lanes.getD i Lane.reset) with retired := r.contains i } }
def fretired (u : Word) : State := flt fun f => { f with retired := [u] }
def engW (u : Word) (w : FaultWin) : State := upDie fun x => { x with engWin := [(u, w)] }
def laneW (w : FaultWin) (st' : LockState) : State := upPort 0 fun q => { q with st := .training, lanes := q.lanes.modify 1 fun l => { l with win := some w, lock := st' } }
def pageW (w : FaultWin) : State := upDie fun x => { x with store := { x.store with pageWin := [(3071, w)] } }
def chW (f : Chan → Chan) (w : FaultWin) : State := upCh fun x => f { x with win := some w }
def die0ret : State := st { die1gone with flt := { up.flt with retired := [unitDie 1] } }
def dg (f : Die → Die) : State := st (up.setDie 1 f)
def tagBusy (b : Nat) : State := tag fun t => { t with busy := some b }
def lj (u : Nat) (b : List (Nat × Word)) : LogJob := ⟨.direct, b, u⟩
def bayAt (u : Nat) : State := boot fun b => { b with bays := [(0, u)] }
def noFw (h : Hub) : State := st { h with boot := { h.boot with running := false } }
def net (h : Hub) : State := st { h with boot := { h.boot with running := false, netboot := true } }
def mbxReq (op : Nat) : State := let h := ReqHeader.bytes (hreq op); mbx h (crc32 h)
def info (c : Nat) : CmdInfo := (cmdInfo c).getD ⟨0, false, false, false, false⟩
def lt0 (f : Tm → Tm) : State := st ({ up with tm := f { up.tm with src := .lane, markLost := true }, clk := { up.clk with elapsed := 10000000000 } }.setPort 0 fun q => { q with ltUp := true })
def unserved : State := boot fun b => { b with rst := false }
def seek7 : State := upPort 7 fun q => { q with st := .search }
def em0 : ExcMeas := ⟨1000000, [], [], [], []⟩
def rOk : RefRead := ⟨List.replicate 16 2048, List.replicate 16 0, List.replicate 16 1200⟩
def rBad : RefRead := ⟨List.replicate 16 0, List.replicate 16 0, List.replicate 16 1200⟩
def sref (x : Slot) (held : Bool) (r : Option RefRead) (f : Chan → Chan) : State :=
  st (({ up with cal := { up.cal with slots := [x] } }.setOct 0 fun o => { o with held := held }).setDie 0 (fun y => { y with audit := { y.audit with ref := r } }) |>.setCh 0 f)
def rdy (f : Cal → Cal) (g : Die → Die) : State :=
  st { up with cal := f { up.cal with passNo := 1 }, dies := up.dies.map fun x => g { x with audit := { x.audit with calPass := some 1 } } }
def pre : Slot := { slot 1 with t0 := 4999000000 }
def ended : Slot := { slot 9 with t0 := 4850000000 }
def ramped : State := cal fun k => { k with ramps := [{ slot 11 with released := 4900000000 }] }
def hits0 : List Nat := List.replicate 32 62500
def tiu7 (f : TiuChan → TiuChan) : State := upDie fun x => { x with tiu := x.tiu.modify 7 f }
def eyes (b : Bool) (m : List (Nat × Nat)) : State :=
  st { (upLock 7 fun q => { q with lanes := q.lanes.map fun x => { x with lock := .locked, eyeDue := b } }).hub with cal := { up.cal with margins := m } }
def susp (r : Option RefRead) : State :=
  st { up.setDie 0 (fun y => { y with audit := { y.audit with ref := r } }) with cal := { up.cal with suspended := some 0 }, clk := { up.clk with elapsed := 60000000000 } }
def tx5 (f : Link → Link) : State := st ((addr5).setPort 0 fun q => { q with st := .up, width := 1, link := f q.link })
def gapOf (f : Mgmt → Mgmt) : State := st { (cores fun c => { c with declaredAt := some 5000000000, stage := 1 }).hub with mgmt := f up.mgmt }
def away1 (q : List Request) : State := st { (dg fun x => { x with cores := { x.cores with declaredAt := some 5000000000 } }).hub with mgmt := { up.mgmt with queue := q } }
def onB : Hub := { up with clk := { up.clk with valid := false, refclk := false } }
def frozen1 (l : List Word) : State := st { (dg fun x => { x with frozen := true }).hub with flt := { up.flt with retired := l } }
def waking (q : Port → Port) : State := upLock 7 fun x => q { x with width := 2, lanes := x.lanes.modify 2 fun l => { l with wakeAt := some 4997000000 } }
def waking0 : State := upLock 0 fun x => { x with width := 2, lanes := x.lanes.modify 2 fun l => { l with parked := true } }

/-! ## Operands, by the statement that takes them -/

def loadArming1 : State := upTm fun t => { t with armed := true }
def ppsInputs1 : State := pps .candidate 1 (fuSec - 51200000)
def ppsInputs2 : Nat := up.tm.now - (fuSec - 51200000)
def ppsInputs3 : State := pps .candidate 1 (fuSec - 51200001)
def ppsInputs4 : Nat := up.tm.now - (fuSec - 51200001)
def ppsInputs5 : State := pps .candidate 2 (fuSec + 51200000)
def ppsInputs6 : Nat := up.tm.now - (fuSec + 51200000)
def ppsInputs7 : State := upTm fun t => { t with cfg := 0 }
def ppsInputs8 : State := pps .candidate 1 (fuSec / 2 * 3)
def ppsInputs9 : Nat := up.tm.now - fuSec / 2 * 3
def ppsInputs10 : State := pps .locked 1 (fuSec / 2 * 3)
def timingLane1 : State := upTm fun t => { t with markBase := some 500000001 }
def timingLane2 : State := st (glitch.hub.setPort 0 fun q => { q with ltGlitch := List.replicate 16 4000000001 })
def timingLane3 : Port := (glitch.hub.setPort 0 fun q => { q with ltGlitch := List.replicate 16 4000000001 }).prt 0
def timingLane4 : State := upTm fun t => { t with src := .lane, markBase := some 500000000 }
def timingLane5 : State := upTm fun t => { t with markBase := some 500000000 }
def timingLane6 : Port := (up.setPort 0 fun q => { q with lanes := q.lanes.modify 3 fun l => { l with retired := true } }).prt 0
def timingLane7 : State := upTm fun t => { t with markBase := some 374999999 }
def timingLane8 : State := lt0 fun t => { t with align := .holdover }
def timingLane9 : Port := { q0 with ltUp := true }
def clocksAndSlewing1 : State := st { (rl (some 4990000000)).hub with tm := { up.tm with src := .lane } }
def clocksAndSlewing2 : State := upTm fun t => { t with e := 25 }
def clocksAndSlewing3 : State := upTm fun t => { t with e := 100, src := .pps, incoherent := true }
def clocksAndSlewing4 : State := upTm fun t => { t with align := .degraded, e := 100 }
def clocksAndSlewing5 : State := upTm fun t => { t with e := 100, slewAt := some 4999999999 }
def clocksAndSlewing6 : State := upTm fun t => { t with align := .locked, e := 26, cfg := 0x0002FA18, slewAt := some 4975000000 }
def secondsDelaysAndEdges1 : State := upTm fun t => { t with second := 4, cfgNext := some 0x00020058 }
def secondsDelaysAndEdges2 : State := upTm fun t => { t with second := 4, armed := true, ldHi := 1, ldLo := 7 }
def secondsDelaysAndEdges3 : State := upPort 7 fun q => { q with st := .parked }
def secondsDelaysAndEdges4 : Port := { up.prt 7 with st := .parked }
def secondsDelaysAndEdges5 : Port := { up.prt 7 with st := .search }
def secondsDelaysAndEdges6 : State := upPort 7 fun q => { q with st := .up }
def secondsDelaysAndEdges7 : Port := (upPort 7 fun q => { q with st := .up }).hub.prt 7
def secondsDelaysAndEdges8 : State := tin0 fun x => { x with cfg := 0xC0000000, last := some (up.tm.now - 8191) }
def secondsDelaysAndEdges9 : Tin := ⟨0xC0000000, false, 0, 0, some (up.tm.now - 8191), 0, 0⟩
def secondsDelaysAndEdges10 : State := tin0 fun x => { x with cfg := 0xC0000000, last := some (up.tm.now - 8192) }
def secondsDelaysAndEdges11 : Tin := ⟨0xC0000000, false, 0, 0, some (up.tm.now - 8192), 0, 0⟩
def afeSets1 : AfeWords := { AfeWords.reset with cm := 0 }
def afeSets2 : AfeWords := { AfeWords.reset with drive := 0xFFF1 }
def channelReads1 : AfeWords := { AfeWords.reset with load := 1 }
def frontEndSettings1 : RepWords := ⟨0x8000FF00, 0, 1, 1000, 0⟩
def frontEndSettings2 : Rep := { Rep.reset with w := ⟨0x80000000, 0, 1, 1000, 0⟩, hiZ := false }
def frontEndSettings3 : State := st (up.setCh 255 fun x => { x with skimEn := true })
def frontEndSettings4 : RepWords := ⟨0x4000FF00, 0, 1, 1000, 10000000⟩
def chanSetAccepted1 : List Word := Desc.toWords { Desc.reset with conv := 0x80400000 }
def chanSetAccepted2 : Desc := { Desc.reset with conv := 0x80400000 }
def heldWrites1 : Chan := (heldOct heldDesc).hub.ch 0
def coefficientSets1 : State := sw ⟨none, 0, none, false⟩
def coefficientSets2 : State := upCh fun x => { x with shadow := some CoefSet.reset }
def coefficientSets3 : State := sw ⟨some 6000, 10, none, false⟩
def coefficientSets4 : Chan := (sw ⟨some 6000, 10, none, false⟩).hub.ch 0
def coefficientSets5 : PendingSwitch := ⟨some 6000, 10, none, false⟩
def coefficientSets6 : State := sw ⟨some 5000, 10, some 1, false⟩
def coefficientSets7 : Chan := (sw ⟨some 5000, 10, some 1, false⟩).hub.ch 0
def coefficientSets8 : PendingSwitch := ⟨some 5000, 10, some 1, false⟩
def coefficientSets9 : State := sw ⟨none, 10, none, false⟩
def coefficientSets10 : Chan := (sw ⟨none, 10, none, false⟩).hub.ch 0
def coefficientSets11 : PendingSwitch := ⟨none, 10, none, false⟩
def coefficientSets12 : State := sw ⟨some 5000, 0, some 1, true⟩
def coefficientSets13 : Chan := (sw ⟨some 5000, 0, some 1, true⟩).hub.ch 0
def coefficientSets14 : PendingSwitch := ⟨some 5000, 0, some 1, true⟩
def conversions1 : State := upCh fun x => { x with lastK := some 5100000 }
def conversions2 : Chan := (upCh fun x => { x with lastK := some 5100000 }).hub.ch 0
def conversions3 : State := upCh fun x => { x with clampEnd := 5000000001 }
def conversions4 : Chan := (upCh fun x => { x with clampEnd := 5000000001 }).hub.ch 0
def conversions5 : State := upCh fun x => { x with clamped := true }
def conversions6 : Chan := (upCh fun x => { x with clamped := true }).hub.ch 0
def conversions7 : State := upCh fun x => { x with excOl := true }
def conversions8 : Chan := (upCh fun x => { x with excOl := true }).hub.ch 0
def auditEntries1 : List Int := List.replicate 16 (-8192)
def auditEntries2 : State := aud fun a => { a with serving := true, urgent := [141], ref := some ⟨[], [], []⟩ }
def auditEntries3 : Die := (aud fun a => { a with serving := true, urgent := [141], ref := some ⟨[], [], []⟩ }).hub.die 0
def auditEntries4 : List Int := List.replicate 16 8191
def auditEntries5 : State := aud fun a => { a with paused := true, cal := some (5, List.replicate 23 0) }
def auditEntries6 : Die := (aud fun a => { a with paused := true, cal := some (5, List.replicate 23 0) }).hub.die 0
def auditEntries7 : State := aud fun a => { a with serving := true, urgent := [5], overflow := [7] }
def auditEntries8 : Die := (aud fun a => { a with serving := true, urgent := [5], overflow := [7] }).hub.die 0
def auditEntries9 : State := aud fun a => { a with urgent := [143] }
def auditEntries10 : Die := (aud fun a => { a with urgent := [143] }).hub.die 0
def auditEntries11 : State := aud fun a => { a with urgent := [1, 2, 3, 4, 5, 6, 7, 8] }
def auditEntries12 : Die := (aud fun a => { a with urgent := [1, 2, 3, 4, 5, 6, 7, 8] }).hub.die 0
def auditEntries13 : List Nat := [0, 1, 2, 3, 4, 5, 6, 7]
def auditComparisons1 : State := upCh fun x => { x with auditWait := [wait0 1024000], lastK := some 1 }
def auditComparisons2 : Chan := (upCh fun x => { x with auditWait := [wait0 1024000], lastK := some 1 }).hub.ch 0
def auditComparisons3 : State := upCh fun x => { x with auditWait := [wait0 1024000], lastK := some 2 }
def auditComparisons4 : Chan := (upCh fun x => { x with auditWait := [wait0 1024000], lastK := some 2 }).hub.ch 0
def auditComparisons5 : State := st { (aud fun a => { a with running := true }).hub with pwr := { up.pwr with st := .doze } }
def auditComparisons6 : Die := (aud fun a => { a with running := true }).hub.die 0
def auditComparisons7 : State := aud fun a => { a with running := true }
def auditComparisons8 : Chan := (redOn 5098).hub.ch 0
def auditComparisons9 : Chan := (redOn 5097).hub.ch 0
def detectorAndTriggerRules1 : DetSec := { DetSec.reset with trg := 0x80000000 }
def detectorAndTriggerRules2 : TrigLook := ⟨true, false, false, false, 0⟩
def detectorAndTriggerRules3 : TrigUnit := { TrigUnit.clear 0 0 with readyLow := true }
def detectorAndTriggerRules4 : TrigUnit := { TrigUnit.clear 0 0 with prevFire := false }
def triggerPins1 : State := pin0 fun p => { p with cfg := 0xC0000000, last := some (up.tm.now - 1024000) }
def triggerPins2 : TrigPin := (pin0 fun p => { p with cfg := 0xC0000000, last := some (up.tm.now - 1024000) }).hub.trg.pins.getD 0 idlePin
def triggerPins3 : State := pin0 fun p => { p with cfg := 0xC0000000 }
def triggerPins4 : TrigPin := (pin0 fun p => { p with cfg := 0xC0000000 }).hub.trg.pins.getD 0 idlePin
def konGroups1 : State := kon0 { Kon.reset with k := 1, events := [ev 1 (up.tm.now - 4095999)] }
def konGroups2 : Kon := { Kon.reset with k := 1, events := [ev 1 (up.tm.now - 4095999)] }
def konGroups3 : KonEvent := ev 1 (up.tm.now - 4095999)
def konGroups4 : State := kon0 { Kon.reset with k := 1, readyAt := 11, events := [ev 1 10] }
def konGroups5 : Kon := { Kon.reset with k := 1, readyAt := 11, events := [ev 1 10] }
def konGroups6 : State := kon0 { Kon.reset with k := 2, events := [ev 1 10] }
def konGroups7 : Kon := { Kon.reset with k := 2, events := [ev 1 10] }
def konGroups8 : State := kon0 { Kon.reset with k := 1, events := [ev 1 10] }
def konGroups9 : Kon := { Kon.reset with k := 1, events := [ev 1 10] }
def captures1 : CapParams := { cap with capture := 32 }
def captures2 : CapParams := { cap with channels := [0, 128] }
def captureStops1 : State := capSt { cap0 with train := some train0 }
def captureStops2 : Capture := { cap0 with train := some train0 }
def captureStops3 : State := capSt { cap0 with params := { cap with opts := 1 } }
def captureStops4 : Capture := { cap0 with params := { cap with opts := 1 } }
def captureStops5 : State := capSt { cap0 with dies := [⟨0, 0, true, 0, 0⟩] }
def captureStops6 : Capture := { cap0 with dies := [⟨0, 0, true, 0, 0⟩] }
def captureReadsAndStore1 : CapQuery := { qAny with capture := 32 }
def captureReadsAndStore2 : CapQuery := { qAny with ch := 128 }
def churnSettings1 : State := upCh fun x => { x with churnRaw := some cuse }
def churnStates1 : State := partSt 0x03000001 fun h => h.setCh 0 fun x => { x with churnRaw := some cuse, rawEn := true }
def churnStates2 : State := savedSt { sv with complete := false }
def churnStates3 : SavedChurn := { sv with complete := false }
def churnStates4 : Bytes := List.replicate 4073 0
def churnStates5 : State := savedCh { sv with image := img } cuse
def churnStates6 : SavedChurn := { sv with image := img }
def churnStates7 : State := churned { cuse with block := [(1, 0)] }
def churnStates8 : ChurnUse := { cuse with block := [(1, 0)] }
def churnStates9 : State := savedCh { sv with complete := false } { cuse with save := [1] }
def churnStates10 : ChurnUse := { cuse with save := [1] }
def churnStates11 : State := st { up with jobs := [job3] }
def churnStates12 : State := partSt 0x03000001 fun h => { h with jobs := [job1 1] }
def churnStates13 : State := st { up with jobs := [job1 1], clk := { up.clk with elapsed := 600000000000 } }
def separatorSettings1 : State := sep fun x => { x with ctl := 0x80000000 }
def separatorSettings2 : State := upDie fun x => { x with sep := { x.sep with shadow := ⟨16, 1, [], (List.range 16).map fun i => (i, row0)⟩ } }
def framePasses1 : ModalFrame := { frame with notLocked := 32 }
def modalTicks1 : State := sep fun x => { x with ticks := [{ tk true with j := 51000 }] }
def streamEnables1 : State := win [] [] (some red0) id
def streamEnables2 : Flow := ((win [] [] (some red0) id).hub.findFlow red0).getD (Flow.init red0)
def acknowledgeAndSweep1 : List AckEntry := List.replicate 65 (ack0 256)
def acknowledgeAndSweep2 : Flow := ((fl red0 id).hub.findFlow red0).getD (Flow.init red0)
def acknowledgeAndSweep3 : Flow := (up.findFlow red0).getD (Flow.init red0)
def acknowledgeAndSweep4 : Flow := ((fl sk0 id).hub.findFlow sk0).getD (Flow.init red0)
def acknowledgeAndSweep5 : State := win [7, 8] [] (some red0) id
def acknowledgeAndSweep6 : Flow := ((win [7, 8] [] (some red0) id).hub.findFlow red0).getD (Flow.init red0)
def acknowledgeAndSweep7 : State := win [7] [] (some red0) fun f => { f with sending := some packet }
def acknowledgeAndSweep8 : Flow := ((win [7] [] (some red0) fun f => { f with sending := some packet }).hub.findFlow red0).getD (Flow.init red0)
def acknowledgeAndSweep9 : State := win [] [it] (some red0) id
def acknowledgeAndSweep10 : Flow := ((win [] [it] (some red0) id).hub.findFlow red0).getD (Flow.init red0)
def acknowledgeAndSweep11 : State := win [] [] (some red0) fun f => { f with yoke := [packet] }
def acknowledgeAndSweep12 : Flow := ((win [] [] (some red0) fun f => { f with yoke := [packet] }).hub.findFlow red0).getD (Flow.init red0)
def rawGroup1 : State := st (plain6.setPort 2 fun q => { q with cfg := 0x930703E8, st := .plain })
def portSettings1 : State := upLock 7 fun q => { q with cfg := 0x530703E8 }
def portSettings2 : State := upPort 7 fun q => { q with manual := true }
def portSettings3 : State := manual7 fun q => { q with width := 2 }
def portSettings4 : State := manual7 fun q => { q with run := some srun }
def laneTestsAndCoupler1 : State := sealedBy 2 fun h => h.setPort 7 fun q => { q with cfg := 0x530703E8 }
def laneTestsAndCoupler2 : State := upPort 7 fun q => { q with cfg := 0xD30703E8, st := .test }
def laneTestsAndCoupler3 : State := ln 7 0 .test fun x => { x with sync := true, syncAt := some 4999999999 }
def laneTestsAndCoupler4 : State := upPort 7 fun q => { q with st := .test, lanes := q.lanes.modify 0 fun x => { x with test := 0x04000000 } }
def laneTestsAndCoupler5 : State := ln 7 0 .test fun x => { x with sync := true, syncAt := some 0 }
def laneTestsAndCoupler6 : State := cpl fun f => { f with byHost := true }
def laneTestsAndCoupler7 : State := cpl fun f => { f with closed := false }
def laneTestsAndCoupler8 : State := st { (upLock 0 id).hub with flt := { up.flt with closed := false } }
def laneLock1 : State := ln 7 0 .search fun x => { x with tried := 65 }
def laneLock2 : State := ln 7 0 .search fun x => { x with lock := .locked }
def laneLock3 : State := ln 7 0 .search fun x => { x with lock := .markWait }
def laneLock4 : State := ln 7 0 .search fun x => { x with lock := .confirm, mcount := 5 }
def laneLock5 : State := mk 7 0 .search fun x => { x with lock := .confirm, mcount := 2 ^ 40 - 1, count := 1 }
def laneLock6 : State := mk 7 0 .wiring fun x => { x with lock := .confirm, mcount := 4, count := 2 }
def laneLock7 : State := ln 7 0 .up fun x => { x with lock := .locked, mcount := 5 }
def laneLock8 : State := mk 7 0 .up fun x => { x with lock := .locked, mcount := 5 }
def laneLock9 : State := mk 0 0 .up fun x => { x with lock := .locked, mcount := 5 }
def laneLock10 : State := ln 7 0 .up fun x => { x with lock := .confirm }
def laneLock11 : State := ln 7 0 .up fun x => { x with lock := .locked }
def laneLock12 : State := ln 7 2 .search fun x => { x with tried := 65 }
def laneLock13 : State := ln 7 2 .search fun x => { x with lock := .locked }
def laneLock14 : State := ln 7 2 .search fun x => { x with tried := 66 }
def laneLock15 : State := upPort 7 fun q => { q with st := .training, run := some { srun with cause := .settle, at' := some 5 }, lanes := q.lanes.modify 1 fun x => { x with tried := 66 } }
def laneLock16 : StepRun := { srun with cause := .settle, at' := some 5 }
def laneLock17 : State := upPort 7 fun q => { q with st := .training, run := some { srun with cause := .settle }, lanes := q.lanes.modify 0 fun x => { x with tried := 66 } }
def laneLock18 : StepRun := { srun with cause := .settle }
def laneLock19 : State := upPort 7 fun q => { q with st := .training, run := some ownRun, lanes := q.lanes.modify 1 fun x => { x with tried := 66 } }
def laneLock20 : State := ln 7 0 .search fun x => { x with lock := .markWait, recent := List.replicate 14 5000000000 }
def laneLock21 : State := ln 7 0 .search fun x => { x with lock := .confirm, recent := List.replicate 15 5000000000 }
def laneLock22 : State := ln 7 2 .up fun x => { x with lock := .locked, recent := List.replicate 14 5000000000 }
def laneLock23 : State := ln 7 2 .wiring fun x => { x with lock := .locked, recent := List.replicate 15 5000000000 }
def bringUpAndSteps1 : State := hs fun q => { q with peerSerial := some 9 }
def bringUpAndSteps2 : State := hs fun q => { q with peer := 2, peerLocked := 7 }
def bringUpAndSteps3 : State := upPort 7 fun q => { q with st := .search, searchAt := 4000000000 }
def bringUpAndSteps4 : State := p0 fun q => { q with rate := 3 }
def bringUpAndSteps5 : State := upLock 7 fun q => { q with run := some srun }
def bringUpAndSteps6 : State := st { (upLock 7 fun q => { q with rate := 3 }).hub with clk := { up.clk with elapsed := 600000000000 } }
def bringUpAndSteps7 : State := late (upLock 7 fun q => { q with width := 2 })
def bringUpAndSteps8 : State := upLock 7 fun q => { q with st := .training, run := some rtRun }
def bringUpAndSteps9 : State := train 7 { srun with since := 4998500001 }
def bringUpAndSteps10 : StepRun := { srun with since := 4998500001 }
def bringUpAndSteps11 : State := upLock 7 fun q => { q with width := 2 }
def bringUpAndSteps12 : State := upLock 0 fun q => { q with width := 2 }
def bringUpAndSteps13 : State := upLock 7 fun q => { q with width := 2, widthRun := some ⟨3, none, false⟩, lanes := q.lanes.map fun x => { x with passed := true } }
def bringUpAndSteps14 : State := upLock 7 fun q => { q with widthRun := some ⟨3, none, false⟩ }
def bringUpAndSteps15 : State := waking fun q => { q with widthRun := some ⟨3, none, false⟩ }
def packetsAccepted1 : State := pup 7 fun k => { k with rxClass := 1 }
def packetsAccepted2 : State := pup 1 fun k => { k with rxClass := 2 }
def packetsAccepted3 : State := pup 7 fun k => { k with rxSeq := 65535, nakOpen := true }
def packetsAccepted4 : State := pup 7 fun k => { k with rxSeq := 65535 }
def packetsAccepted5 : PacketIn := { pk 3 with aborted := true }
def packetsAccepted6 : Instr := .trig 7 { pk 3 with aborted := true } arr
def packetsAccepted7 : State := pup 7 fun k => { k with nakOpen := true }
def packetsAccepted8 : PacketIn := { pk 3 with lenBlocks := 2 }
def packetsAccepted9 : Instr := .stream 7 { pk 3 with lenBlocks := 2 }
def packetsAccepted10 : State := pup 1 fun k => { k with rxClass := 2, nakOpen := true, rxSeq := 7 }
def packetsAccepted11 : PacketIn := { pk 2 with dest := 5 }
def packetsAccepted12 : PacketIn := { pk 3 with dest := 5 }
def packetsAccepted13 : Instr := .trig 7 { pk 3 with dest := 5 } arr
def packetsAccepted14 : PacketIn := { pk 3 with dest := 65535 }
def retransmission1 : State := pup 7 fun k => { k with replay := [(65535, ⟨3, 1, 0, 1, [], none, false, true⟩)] }
def retransmission2 : State := pup 7 fun k => { k with replay := [(5, ⟨3, 1, 0, 1, [], none, false, true⟩)] }
def retransmission3 : State := pup 7 fun k => { k with lastNak := some (5, 4999990000) }
def retransmission4 : State := pup 7 fun k => { k with pauseAt := 4999900000 }
def retransmission5 : State := pup 7 fun k => { k with pauseAt := 4999900001 }
def enumeration1 : State := enm fun e => { e with round := 3, eligible := true }
def enumeration2 : State := enm fun e => { e with round := 3 }
def enumeration3 : State := st ((enm fun e => { e with round := 3 }).hub.setPort 1 fun q => { q with recorded := true })
def enumeration4 : State := enm fun e => { e with round := 3, through := true }
def enumeration5 : State := enm fun e => { e with round := 3, walk := some ([], 7, 5, false) }
def enumeration6 : State := enm fun e => { e with round := 3, eligible := true, pending := some 5 }
def enumeration7 : State := enm fun e => { e with round := 3, claimed := true }
def enumeration8 : State := enm fun e => { e with round := 255 }
def enumeration9 : State := enm fun e => { e with arriveAt := some 4000000000 }
def enumeration10 : State := upPort 7 fun q => { q with st := .search, blk := 1022 }
def enumeration11 : State := upPort 7 fun q => { q with st := .up, width := 3, blk := 3069 }
def enumeration12 : State := st { (upPort 7 fun q => { q with st := .up, width := 3 }).hub with tm := { up.tm with now := 5 * fuSec + fuSec / 20 * 19 } }
def enumeration13 : State := st (up.setPort 0 fun q => { q with st := .up, width := 1, blk := 1022, link := { q.link with ctl := [⟨85, 7⟩] } })
def enumeration14 : State := tx0 fun k => { k with active := [none, none, some (fr, 2, none), none], txClass := 3 }
def enumeration15 : State := tx5 fun k => { k with active := [none, none, some (fr, 2, none), none], txClass := 3 }
def enumeration16 : State := tx5 fun k => { k with active := [none, none, some (fr, 2, none), none], txClass := 0 }
def enumeration17 : State := tx5 fun k => { k with active := [none, none, some (fr, 1, none), none], txClass := 3 }
def enumeration18 : State := tx5 fun k => { k with active := [none, none, some (fr, 1, some 5), none], txClass := 3 }
def enumeration19 : State := st (addr5.setPort 0 fun q => { q with st := .up, width := 1, link := { q.link with queues := [[], [], [fr], []] } })
def calibrationSlots1 : State := rdy (fun k => { k with requests := [3] }) id
def calibrationSlots2 : State := rdy (fun k => { k with bgDue := some 31 }) id
def calibrationSlots3 : State := slotOfSt { slot 2 with t0 := 4998000001 } false
def calibrationSlots4 : Slot := { slot 2 with t0 := 4998000001 }
def calibrationSlots5 : State := sref (slot 0) false (some rOk) id
def calibrationSlots6 : State := sref (slot 0) false (some rBad) id
def calibrationSlots7 : State := st { (slotOfSt pre false).hub with chans := up.chans.map fun x => { x with pinRead := some 4990000000 } }
def calibrationSlots8 : State := slotOfSt { slot 2 with t0 := 4998000000 } false
def calibrationSlots9 : Slot := { slot 2 with t0 := 4998000000 }
def calibrationSlots10 : State := slotOfSt { slot 3 with t0 := 4988000000 } true
def calibrationSlots11 : Slot := { slot 3 with t0 := 4988000000 }
def calibrationSlots12 : State := sref { slot 4 with t0 := 4948000000 } true none fun x => { x with meas := some m0 }
def calibrationSlots13 : Slot := { slot 4 with t0 := 4948000000 }
def calibrationSlots14 : State := sref { slot 5 with t0 := 4898000000 } true none fun x => { x with meas := some m0 }
def calibrationSlots15 : List SegMeas := [⟨[300, 0, -251], [9, 1]⟩]
def calibrationSlots16 : Slot := { slot 5 with t0 := 4898000000 }
def calibrationSlots17 : State := sref { slot 6 with t0 := 4878000000 } true none fun x => { x with meas := some m0 }
def calibrationSlots18 : Slot := { slot 6 with t0 := 4878000000 }
def calibrationSlots19 : State := sref { slot 7 with t0 := 4858000000 } true none fun x => { x with meas := some m0 }
def calibrationSlots20 : Slot := { slot 7 with t0 := 4858000000 }
def calibrationSlots21 : ExcMeas := ⟨1020001, [(1, 2)], [501], [3], [(2, 24)]⟩
def calibrationSlots22 : State := sref { slot 8 with t0 := 4853000000 } true none fun x => { x with meas := some m0 }
def calibrationSlots23 : Slot := { slot 8 with t0 := 4853000000 }
def calibrationSlots24 : State := sref ended true (some rOk) fun x => { x with meas := some m0 }
def calibrationSlots25 : State := sref ended true (some rOk) fun x => { x with meas := some { m0 with zero := (0, 1), plus := (6144, 1), minus := (-6144, 1) } }
def calibrationSlots26 : State := sref ended true (some rOk) fun x => { x with meas := some { m0 with selfTest := false }, calSkip := none }
def calibrationSlots27 : State := sref ended true (some rOk) fun x => { x with meas := some m0, calSkip := some 1 }
def calibrationSlots28 : State := sref ended true (some rBad) fun x => { x with meas := some m0 }
def calibrationSlots29 : Slot := { slot 11 with released := 4900000000 }
def calibrationSlots30 : SegMeas := ⟨[300, 0, -251], [9, 1]⟩
def calibrationSlots31 : State := cal fun k => { k with requests := [3], passNo := 1 }
def calibrationSlots32 : State := aud fun a => { a with paused := true, cal := some (0, List.replicate 23 5) }
def calibrationSlots33 : Die := (aud fun a => { a with paused := true, cal := some (0, List.replicate 23 5) }).hub.die 0
def calibrationSlots34 : State := aud fun a => { a with paused := true, cal := some (4998000000, List.replicate 24 5) }
def calibrationSlots35 : Die := (aud fun a => { a with paused := true, cal := some (4998000000, List.replicate 24 5) }).hub.die 0
def calibrationSlots36 : State := tiu7 fun t => { t with testAt := some 0 }
def calibrationSlots37 : Die := (tiu7 fun t => { t with testAt := some 0 }).hub.die 0
def calibrationSlots38 : TiuChan := { TiuChan.reset with testAt := some 0 }
def calibrationSlots39 : State := tiu7 fun t => { t with testAt := some 4960000001 }
def calibrationSlots40 : Die := (tiu7 fun t => { t with testAt := some 4960000001 }).hub.die 0
def calibrationSlots41 : TiuChan := { TiuChan.reset with testAt := some 4960000001 }
def calibrationSlots42 : State := tiu7 fun t => { t with testAt := some 4960000000 }
def calibrationSlots43 : Die := (tiu7 fun t => { t with testAt := some 4960000000 }).hub.die 0
def calibrationSlots44 : TiuChan := { TiuChan.reset with testAt := some 4960000000 }
def calibrationSlots45 : State := tiu7 fun t => { t with next := some hits0 }
def calibrationSlots46 : Die := (tiu7 fun t => { t with next := some hits0 }).hub.die 0
def calibrationSlots47 : TiuChan := { TiuChan.reset with next := some hits0 }
def calibrationSlots48 : List EyePoint := [⟨0, 0, 10000000, 9⟩, ⟨250, 0, 10000000, 0⟩, ⟨0, 30, 10000000, 0⟩]
def calibrationSlots49 : State := eyes false [(7, 0), (7, 1)]
def calibrationSlots50 : State := rdy (fun k => { k with suspended := some 0 }) id
def calibrationSlots51 : State := rdy (fun k => { k with pass := [3, 17] }) id
def calibrationSlots52 : State := rdy (fun k => { k with bgDue := some 3 }) id
def calibrationSlots53 : State := bg fun o => { o with byRequest := true, lastCal := some 2600000000000 }
def calibrationSlots54 : State := cal fun k => { k with suspended := some 0 }
def calibrationSlots55 : State := susp (some ⟨[], [], []⟩)
def calibrationSlots56 : State := st (up.setOct 31 fun o => { o with requeueAt := some 5000000001 })
def calibrationSlots57 : State := st (up.setOct 31 fun o => { o with requeueAt := some 5000000000 })
def powerAndShedding1 : State := pwr fun p => { p with keepAt := some 4990000001 }
def powerAndShedding2 : State := pwr fun p => { p with keepAt := some 4990000000 }
def powerAndShedding3 : State := pwr fun p => { p with vexcLow := true }
def powerAndShedding4 : State := boot fun b => { b with running := false }
def powerAndShedding5 : State := pwr fun p => { p with tjMax := 1300 }
def powerAndShedding6 : State := pwr fun p => { p with tjMax := 1150, shed := 4, shedAt := 4000000000 }
def powerAndShedding7 : State := pwr fun p => { p with tjMax := 1150, shed := 5 }
def powerAndShedding8 : State := st { up with pwr := { up.pwr with tjMax := 1100, shed := 1 }, clk := { up.clk with elapsed := 10000000000 } }
def powerAndShedding9 : State := pwr fun p => { p with tjMax := 1100, shed := 0 }
def powerAndShedding10 : State := pwr fun p => { p with tjMax := 1149 }
def powerAndShedding11 : State := pwr fun p => { p with holdUp := some 0 }
def powerAndShedding12 : State := pwr fun p => { p with holdUp := some 4999800001 }
def powerAndShedding13 : State := pwr fun p => { p with holdUp := some 4999800000 }
def pmbus1 : State := st { up with pmbus := { up.pmbus with page := 1 } }
def faultsAndTests1 : Instr := .fltRetire 0x40000000
def faultsAndTests2 : Instr := .fltRestore 0xFF000000
def faultsAndTests3 : Instr := .fltRetire (unitChan 256)
def faultsAndTests4 : Instr := .fltRetire (unitChan 128)
def faultsAndTests5 : Instr := .fltRestore (unitChan 255)
def faultsAndTests6 : State := st ((up.setDie 0 fun x => { x with enginesBad := List.range 136, pool := [] }).setCh 0 fun x => { x with retired := some 257 })
def faultsAndTests7 : Instr := .fltRetire (unitLane 8 0)
def faultsAndTests8 : Instr := .fltRestore (unitLane 7 3)
def faultsAndTests9 : Instr := .fltRetire (unitEngine 2 0)
def faultsAndTests10 : State := fretired (unitEngine 1 135)
def faultsAndTests11 : State := st { die1gone with flt := { up.flt with retired := [unitEngine 1 135] } }
def faultsAndTests12 : State := upCh fun x => { x with win := some (fw 5000000001) }
def faultsAndTests13 : State := laneW (fw 5000000001) .locked
def faultsAndTests14 : State := engW (unitEngine 0 135) (fw 5000000001)
def faultsAndTests15 : State := engW (engineUnit 0 4 7) (fw 5000000001)
def faultsAndTests16 : State := engW (engineUnit 0 5 3) (fw 5000000001)
def faultsAndTests17 : State := pageW (fw 5000000001)
def faultsAndTests18 : State := engW (unitAudit 0) (fw 5000000001)
def faultsAndTests19 : State := chW (fun x => { x with clamped := true }) { fw 5000000000 with lasting := [257] }
def faultsAndTests20 : FaultWin := { fw 5000000000 with lasting := [257] }
def faultsAndTests21 : State := chW (fun x => { x with clamped := true }) (fw 5000000000)
def faultsAndTests22 : State := chW (fun x => { x with excOl := true, audit := { x.audit with suspect := true } }) (fw 5000000000)
def faultsAndTests23 : State := upCh fun x => { x with win := some (fw 5000000000) }
def faultsAndTests24 : State := laneW { fw 5000000000 with lasting := [257] } .hunt
def faultsAndTests25 : State := laneW (fw 5000000000) .hunt
def faultsAndTests26 : State := laneW (fw 5000000000) .locked
def faultsAndTests27 : State := engW (unitEngine 0 135) (fw 5000000000)
def faultsAndTests28 : State := engW (engineUnit 0 4 7) (fw 5000000000)
def faultsAndTests29 : State := engW (engineUnit 0 5 3) (fw 5000000000)
def faultsAndTests30 : State := pageW (fw 5000000000)
def faultsAndTests31 : State := st ({ (engW (unitAudit 0) (fw 5000000000)).hub with }.setDie 0 fun x => { x with audit := { x.audit with fault := true, faultAt := 0 } })
def faultsAndTests32 : State := st ({ (engW (unitAudit 0) (fw 5000000000)).hub with }.setDie 0 fun x => { x with audit := { x.audit with fault := true, faultAt := 1 } })
def faultsAndTests33 : State := engW (unitAudit 0) (fw 5000000000)
def faultsAndTests34 : State := fretired (engineUnit 1 5 3)
def faultsAndTests35 : State := upDie fun x => { x with store := { x.store with retired := [7] } }
def faultsAndTests36 : State := pageW ⟨0, 5000000001, 3, 1, 0x0501, []⟩
def faultsAndTests37 : FaultWin := ⟨0, 5000000001, 3, 1, 0x0501, []⟩
def faultsAndTests38 : State := pageW ⟨0, 5000000001, 2, 1, 0x0501, []⟩
def faultsAndTests39 : FaultWin := ⟨0, 5000000001, 2, 1, 0x0501, []⟩
def dieLossAndFailover1 : State := upDie fun x => { x with inService := false, faulted := true, restartAt := some (0, 0x0701) }
def dieLossAndFailover2 : State := cores fun c => { c with drillAt := some 0 }
def dieLossAndFailover3 : State := cores fun c => { c with declaredAt := some 0 }
def dieLossAndFailover4 : State := mgmt fun m => { m with cache := [{ cached with handed := false }] }
def dieLossAndFailover5 : State := cores fun c => { c with beat := true }
def dieLossAndFailover6 : State := cores fun c => { c with missed := 6 }
def dieLossAndFailover7 : State := cores fun c => { c with missed := 7 }
def dieLossAndFailover8 : State := cores fun c => { c with missed := 7, noStandby := true }
def dieLossAndFailover9 : State := cores fun c => { c with pointer := true }
def dieLossAndFailover10 : State := cores fun c => { c with declaredAt := some 4980000000, stage := 1 }
def dieLossAndFailover11 : State := cores fun c => { c with declaredAt := some 4980000000, stage := 2 }
def dieLossAndFailover12 : State := cores fun c => { c with declaredAt := some 4964999999, stage := 2 }
def dieLossAndFailover13 : State := cores fun c => { c with declaredAt := some 4965000001 }
def dieLossAndFailover14 : State := cores fun c => { c with drillAt := some 4965000000 }
def dieLossAndFailover15 : State := cores fun c => { c with declaredAt := some 4965000000 }
def dieLossAndFailover16 : State := cores fun c => { c with noStandby := true }
def dieLossAndFailover17 : State := dg fun x => { x with skewPs := 2500 }
def logbookWiredSide1 : State := tag fun t => { t with lockUntil := some 5000000001 }
def logbookWiredSide2 : State := tag fun t => { t with busy := some 1601, writes := [lj 5000000000 [(1601, 5)], lj 5000000000 [(1700, 5)]] }
def logbookWiredSide3 : State := tag fun t => { t with busy := some 1601, writes := [lj 0 [(1601, 5)]] }
def logbookWiredSide4 : State := tag fun t => { t with lockUntil := some 5000000001, writes := [lj 0 [(1601, 5)]] }
def logbookWiredSide5 : State := tag fun t => { t with queue := [(0, List.replicate 24 0)] }
def logbookWiredSide6 : State := tag fun t => { t with busy := some 2047, ring := [(2047, 9)] }
def logbookWiredSide7 : State := tag fun t => { t with busy := some 1983, writes := [lj 0 [(1983, 9)], lj 5 [(1600, 1)]] }
def logbookWiredSide8 : State := tag fun t => { t with busy := some 1600, lockUntil := some 5000000001, writes := [⟨.request 4, [(1600, 9), (1601, 2)], 0⟩] }
def logbookWiredSide9 : State := tag fun t => { t with busy := some 1600, writes := [⟨.action 4, [(1600, 9), (1601, 2)], 0⟩] }
def logbookWiredSide10 : State := tag fun t => { t with lost := 1 }
def logbookWiredSide11 : State := tag fun t => { t with lockUntil := some 5000000000 }
def fieldCommands1 : State := tag fun t => { t with busy := some 64 }
def fieldCommands2 : TagReq := rq (.addressed up.ident.uid)
def fieldCommands3 : TagReq := ⟨.nonAddressed, false, false⟩
def fieldCommands4 : State := tag fun t => { t with lockUntil := some 6000000000 }
def fieldCommands5 : TagReq := rq (.addressed (up.ident.uid + 1))
def fieldCommands6 : State := tag fun t => { t with selected := true }
def fieldCommands7 : State := tag fun t => { t with quiet := true }
def startAndReset1 : State := pwr fun p => { p with vkeepOk := false }
def startAndReset2 : State := pwr fun p => { p with vkeepAt := 4999000000 }
def startAndReset3 : State := upDie fun x => { x with faulted := true }
def startAndReset4 : State := st { (starting id fun x => { x with rails := false }).hub with clk := { up.clk with elapsed := 5000000 } }
def startAndReset5 : State := starting (fun b => { b with bays := [(0, 245000001)] }) id
def startAndReset6 : State := starting (fun b => { b with bays := [(0, 245000000)] }) fun x => { x with rails := false }
def startAndReset7 : State := starting (fun b => { b with tr := none }) fun x => { x with rails := false }
def startAndReset8 : State := st { (starting (fun b => { b with tr := none }) id).hub with pwr := { up.pwr with vkeepOk := false } }
def startAndReset9 : State := starting (fun b => { b with tr := none, rst := false }) id
def startAndReset10 : State := boot fun b => { b with resetAt := some 5000000001 }
def startAndReset11 : State := boot fun b => { b with resetAt := some 5000000000 }
def startAndReset12 : State := boot fun b => { b with watchdog := some 4000000001 }
def startAndReset13 : State := st { (starting (fun b => { b with watchdog := some 0 }) id).hub with clk := { up.clk with elapsed := 1000000000 } }
def startAndReset14 : State := boot fun b => { b with tr := none }
def startAndReset15 : State := st { (starting (fun b => { b with running := true, level := .rough }) id).hub with clk := { up.clk with elapsed := 249999999 } }
def startAndReset16 : Option Sfdp := some ⟨false, some (0xEB, 6)⟩
def startAndReset17 : State := st { up with clk := { up.clk with elapsed := 249999999 } }
def startAndReset18 : State := starting (fun b => { b with watchdog := some 0 }) fun x => { x with inService := true }
def startAndReset19 : State := starting (fun b => { b with running := true }) id
def startAndReset20 : State := boot fun b => { b with level := .rough }
def startAndReset21 : State := boot fun b => { b with level := .degraded }
def startAndReset22 : State := boot fun b => { b with level := .rough, p00Settled := false }
def startAndReset23 : State := st { up with boot := { up.boot with level := .rough, cfgApplied := false }, cal := { up.cal with passDone := true } }
def startAndReset24 : State := st { up with boot := { up.boot with level := .rough }, cal := { up.cal with passDone := true } }
def startAndReset25 : State := st { up with boot := { up.boot with level := .rough }, clk := { up.clk with elapsed := 8000000000 } }
def systemCommands1 : State := mgmt fun m => { m with queue := [request 0x0C03 .hspi] }
def systemCommands2 : State := mgmt fun m => { m with running := some (request 0x0C03 .hspi, ⟨0, 0, 255, []⟩) }
def systemCommands3 : State := mgmt fun m => { m with waiting := [(request 0x0C03 .hspi, ⟨0, 0, 255, []⟩)] }
def systemCommands4 : State := st { up with mgmt := { up.mgmt with cache := [{ cached with at' := 0 }] }, clk := { up.clk with elapsed := 119999999999 } }
def systemCommands5 : CacheEntry := { cached with at' := 0 }
def systemCommands6 : State := st { up with flash := { up.flash with present := false } }
def systemCommands7 : State := st { up with flash := { up.flash with present := false }, boot := { up.boot with netboot := true } }
def systemCommands8 : Bytes := List.replicate 4072 1
def systemCommands9 : State := boot fun b => { b with slot := some 1 }
def systemCommands10 : State := st { up with flash := { up.flash with present := true } }
def sealAndTestPort1 : State := sealed fun f => { f with lockUntil := some 5000000001 }
def sealAndTestPort2 : State := sealed fun f => { f with lockUntil := some 5000000000 }
def sealAndTestPort3 : State := sealed fun f => { f with nonce := none }
def sealAndTestPort4 : State := sealed fun f => { f with nonce := some (9, 0), key := some [1] }
def sealAndTestPort5 : Bytes := macBytes [1] (be 16 9 ++ be 6 up.ident.serial.toNat)
def sealAndTestPort6 : State := sealed fun f => { f with nonce := some (9, 0) }
def sealAndTestPort7 : State := sealed fun f => { f with key := some [] }
def sealAndTestPort8 : State := sealed fun f => { f with st := 0 }
def sealAndTestPort9 : State := sealed fun f => { f with st := 2, session := true }
def sealAndTestPort10 : State := sealed fun f => { f with st := 2 }
def sealAndTestPort11 : State := st { up with fseal := { up.fseal with nonce := some (9, 0) }, clk := { up.clk with elapsed := 60000000000 } }
def sealAndTestPort12 : State := sealed fun f => { f with lockUntil := some 5000000000, lockSeen := 1 }
def sealAndTestPort13 : State := sealed fun f => { f with lockUntil := some 5000000001, lockSeen := 2 }
def sealAndTestPort14 : State := sealed fun f => { f with lockUntil := some 5000000001, lockSeen := 1 }
def doorbellWindow1 : State := boot fun b => { b with rst := false }
def doorbellWindow2 : State := mgmt fun m => { m with outbox := [resp] }
def requests1 : CmdInfo := ⟨0, true, false, false, false⟩
def requests2 : State := mbx (ReqHeader.bytes { hreq 0x0C03 with length := 4081 }) 0
def requests3 : State := mbx (ReqHeader.bytes (hreq 0x0C03)) 0
def requests4 : State := noFw (mbxReq 0x0C03).hub
def requests5 : State := mbx (ReqHeader.bytes (hreq 0x0C03)) (crc32 (ReqHeader.bytes (hreq 0x0C03)))
def requests6 : State := net (mbxReq 0x0C03).hub
def requests7 : State := st { (mbxReq 0x0E02).hub with mgmt := { up.mgmt with outbox := List.replicate 27 resp } }
def requests8 : State := st { (mbxReq 0x0C03).hub with mgmt := { up.mgmt with cache := [cached] } }
def requests9 : State := st { (mbxReq 0x0C01).hub with mgmt := { up.mgmt with cache := [cached] } }
def requests10 : PacketIn := svcPk 0 0 (ReqHeader.bytes { hreq 0x0C03 with length := 4081 })
def requests11 : PacketIn := { svcPk 0 0 [] with dest := 9 }
def requests12 : PacketIn := svcPk 1 0 (daBody 16)
def requests13 : PacketIn := svcPk 1 0 (daBody 65532)
def requests14 : State := gapOf fun m => { m with running := some (request 257 .hspi, ⟨St.busy, 5, 255, []⟩) }
def requests15 : State := mgmt fun m => { m with running := some (request 257 .hspi, ⟨0, 0, 255, []⟩) }
def requests16 : List Request := [{ request 257 .hspi with svc := 1, order := 1 }, request 0x0C03 .hspi]
def requests17 : Request := { request 257 .hspi with svc := 1, order := 1 }
def requests18 : State := away1 [{ request 0x0D04 .hspi with payload := be 4 (unitDie 1).toNat }]
def requests19 : State := mgmt fun m => { m with queue := [request 257 .hspi] }
def requests20 : State := mgmt fun m => { m with queue := [request 0xFF01 .hspi] }
def requests21 : State := net (mgmt fun m => { m with queue := [request 0x0C03 .hspi] }).hub
def requests22 : State := mgmt fun m => { m with queue := [{ request 257 .hspi with hdr := { hreq 257 with cls := 16 } }] }
def requests23 : Request := { request 257 .hspi with hdr := { hreq 257 with cls := 16 } }
def requests24 : CmdInfo := ⟨3, true, false, false, false⟩
def requests25 : State := mgmt fun m => { m with running := some (request 257 .hspi, ⟨St.busy, 5, 255, []⟩) }
def requests26 : State := mgmt fun m => { m with running := some (request 0x0C01 .hspi, ⟨0, 0, 255, []⟩) }
def requests27 : State := mgmt fun m => { m with waiting := [(request 0x0E02 .hspi, ⟨0, 0, 255, []⟩), ({ request 0x0E02 .hspi with order := 1 }, ⟨0, 0, 255, []⟩)] }
def requests28 : List (Request × Reply) := [({ request 0x0E02 .hspi with order := 1 }, ⟨0, 0, 255, []⟩)]
def requests29 : State := st { up with tag := { up.tag with busy := some 1600, writes := [⟨.request 0, [(1600, 7)], 5000000000⟩] }, mgmt := { up.mgmt with running := some (request 0x0E02 .hspi, ⟨0, 0, 255, []⟩) } }
def requests30 : State := mgmt fun m => { m with queue := [request 257 .hspi, { request 0x0C01 .hspi with at' := 0, order := 1, hdr := { hreq 0x0C01 with lifetime := 5000 } }] }
def requests31 : State := mgmt fun m => { m with queue := [{ request 0x0C01 .hspi with at' := 0, hdr := { hreq 0x0C01 with lifetime := 5000 } }] }
def requests32 : Request := { request 0x0C01 .hspi with at' := 0, hdr := { hreq 0x0C01 with lifetime := 5000 } }
def scheduledActions1 : Action := act 769 afeBody now false
def scheduledActions2 : Instant := Instant.of (now + 1023999999)
def scheduledActions3 : State := mgmt fun m => { m with actions := List.replicate 256 (act 769 afeBody now true) }
def scheduledActions4 : State := acts (act 769 afeBody (now + 511999999) false)
def scheduledActions5 : Action := act 769 afeBody (now + 511999999) false
def scheduledActions6 : State := acts (act 769 afeBody (now + 512000000) false)
def scheduledActions7 : Action := act 769 afeBody (now + 512000000) false
def scheduledActions8 : State := acts (act 769 afeBody (now + 153600000001) false)
def scheduledActions9 : Action := act 769 afeBody (now + 153600000001) false
def scheduledActions10 : State := acts (act 769 afeBody (now + 153600000000) false)
def scheduledActions11 : Action := act 769 afeBody (now + 153600000000) false
def scheduledActions12 : State := acts (act 769 [] (now + 153600000000) false)
def scheduledActions13 : Action := act 769 [] (now + 153600000000) false
def scheduledActions14 : State := acts (act 769 afeBody (now + 512000001) true)
def scheduledActions15 : Action := act 769 afeBody (now + 512000001) true
def scheduledActions16 : State := acts (act 769 afeBody (now + 512000000) true)
def scheduledActions17 : Action := act 769 afeBody (now + 512000000) true
def scheduledActions18 : State := acts { act 0x0E02 (be 2 1600 ++ be 2 1 ++ be 4 7) now false with held := true }
def scheduledActions19 : Action := { act 0x0E02 (be 2 1600 ++ be 2 1 ++ be 4 7) now false with held := true }
def scheduledActions20 : State := acts (act 769 afeBody (now + 1) true)
def scheduledActions21 : Action := act 769 afeBody (now + 1) true
def scheduledActions22 : State := acts (act 769 [] now true)
def scheduledActions23 : State := acts (act 769 afeBody now true)
def scheduledActions24 : Action := act 769 afeBody now true
def scheduledActions25 : Instr := .afeSet [0] ⟨0x00053e2d, 0, 0, 0x00000100, 0x8201f506⟩
def scheduledActions26 : State := acts (act 0x0E02 (be 2 1600 ++ be 2 1 ++ be 4 7) now false)
def scheduledActions27 : Action := act 0x0E02 (be 2 1600 ++ be 2 1 ++ be 4 7) now false
def scheduledActions28 : State := acts (act 0x0D06 [] now false)
def scheduledActions29 : Action := act 0x0D06 [] now false
def scheduledActions30 : State := acts (act 1795 sepBody now true)
def scheduledActions31 : Action := act 1795 sepBody now true
def scheduledActions32 : Instr := .sepCfgSet 0x4000003F 1250 3500 65535
def emptyQueueIsOneReferenceCycle1 : Hub := { up with flt := { up.flt with closing := some 4999990009 } }
def emptyQueueIsOneReferenceCycle2 : Hub := Hub.reset Ident.shipped
def emptyQueueIsOneReferenceCycle3 : Hub := { up with flt := { up.flt with closing := some 4999990008 } }
def everyStepKeepsInvariant1 : State := st { up with clk := { up.clk with elapsed := 0 } }

/-! ## Hypotheses of the statements, clause by clause

Each theorem below shows, for one statement, states and operands at which the hypotheses of its clauses hold together; the first and the
last value of a range where the clause has one. -/

theorem ne_of_isNone {α : Type} {x : Option α} {y : α} (h : x.isNone = true) : x ≠ some y := by
  rintro rfl
  cases h

/-- Obligations.TimeSettings. -/
theorem witness_TimeSettings :
    ((st up).hub.tm.src ≠ Source.lane) ∧
    (lane.hub.tm.src = Source.lane) ∧
    (onlyBits 268433923 268435451 = true ∧ 1 ≤ fld 268433923 15 6 ∧ fld 268433923 15 6 ≤ 1000) ∧
    ((onlyBits 68 268435451 = false ∨ fld 68 15 6 = 0 ∨ 1000 < fld 68 15 6)) ∧
    ((onlyBits 64067 268435451 = false ∨ fld 64067 15 6 = 0 ∨ 1000 < fld 64067 15 6)) ∧
    ((onlyBits 3 268435451 = false ∨ fld 3 15 6 = 0 ∨ 1000 < fld 3 15 6)) ∧
    (7 ≠ 0 ∧ 7 < (st up).hub.nPorts ∧ (st up).hub.dieDown (7 / 4) = false) ∧
    (7 ≠ 0 ∧ 7 < (st die1gone).hub.nPorts ∧ (st die1gone).hub.dieDown (7 / 4) = true) ∧
    ((8 = 0 ∨ (st up).hub.nPorts ≤ 8)) ∧
    ((0 = 0 ∨ (st up).hub.nPorts ≤ 0)) ∧
    (7 < 8 ∧ onlyBits 3221291007 3758161919 = true ∧ fld 3221291007 30 29 ≠ 3) ∧
    ((8 ≤ 8 ∨ onlyBits 0 3758161919 = false ∨ fld 0 30 29 = 3)) ∧
    ((8 ≤ 7 ∨ onlyBits 3758096384 3758161919 = false ∨ fld 3758096384 30 29 = 3)) := by
  and_intros <;> decide +kernel

/-- Obligations.TimeReads. -/
theorem witness_TimeReads :
    (7 < 8 ∧ (st up).hub.tm.tins[7]? = some idleTin) ∧
    (8 ≤ 8) ∧
    ((st up).hub.hspiOn = true) ∧
    ((st up).hub.hspiOn = true) ∧
    (unserved.hub.hspiOn = false) ∧
    (unserved.hub.hspiOn = false) := by
  and_intros <;> decide +kernel

/-- Obligations.LoadArming. -/
theorem witness_LoadArming :
    (lane.hub.hspiOn = true ∧ lane.hub.tm.src = Source.lane) ∧
    ((st up).hub.hspiOn = true ∧ (st up).hub.tm.src ≠ Source.lane) ∧
    (loadArming1.hub.hspiOn = true) ∧
    (unserved.hub.hspiOn = false) := by
  and_intros <;> decide +kernel

/-- Obligations.ArrayTimeAfterReset. -/
theorem witness_ArrayTimeAfterReset :
    (early.hub.clk.run = false ∧ early.hub.boot.tr.isSome = true ∧ (early.hub.clk.refclk = true ∨ (early.hub.prt 0).ltUp =
      true)) ∧
    ((st up).pending = [] ∧ (st up).hub.clk.run = true) := by
  and_intros <;> decide +kernel

/-- Obligations.PpsInputs. -/
theorem witness_PpsInputs :
    (0 < 2 ∧ bitOf (pps PpsState.idle 0 0).hub.tm.cfg (3 + 0) = true ∧ (pps PpsState.idle 0 0).hub.vio 0 = true ∧ (0 = 1 →
      ((pps PpsState.idle 0 0).hub.die 1).inService = true) ∧ (((pps PpsState.idle 0 0).hub.pps 0).st = PpsState.idle ∨ ((pps
      PpsState.idle 0 0).hub.pps 0).st = PpsState.lost)) ∧
    (0 < 2 ∧ bitOf (pps PpsState.lost 0 0).hub.tm.cfg (3 + 0) = true ∧ (pps PpsState.lost 0 0).hub.vio 0 = true ∧ (0 = 1 →
      ((pps PpsState.lost 0 0).hub.die 1).inService = true) ∧ (((pps PpsState.lost 0 0).hub.pps 0).st = PpsState.idle ∨ ((pps
      PpsState.lost 0 0).hub.pps 0).st = PpsState.lost)) ∧
    (0 < 2 ∧ bitOf ppsInputs1.hub.tm.cfg (3 + 0) = true ∧ ppsInputs1.hub.vio 0 = true ∧ (0 = 1 → (ppsInputs1.hub.die
      1).inService = true) ∧ (ppsInputs1.hub.pps 0).st = PpsState.candidate ∧ (ppsInputs1.hub.pps 0).last = some ppsInputs2 ∧
      (ppsInputs1.hub.pps 0).count < 2 ∧ ((↑(moved ppsInputs1.hub.tm.now (0 - psFu (BitVec.toInt (ppsInputs1.hub.pps 0).comp)))
      : ℤ) - ((↑ppsInputs2 : ℤ) + (↑fuSec : ℤ))).natAbs ≤ 51200000) ∧
    (0 < 2 ∧ bitOf ppsInputs3.hub.tm.cfg (3 + 0) = true ∧ ppsInputs3.hub.vio 0 = true ∧ (0 = 1 → (ppsInputs3.hub.die
      1).inService = true) ∧ (ppsInputs3.hub.pps 0).st = PpsState.candidate ∧ (ppsInputs3.hub.pps 0).last = some ppsInputs4 ∧
      51200000 < ((↑(moved ppsInputs3.hub.tm.now (0 - psFu (BitVec.toInt (ppsInputs3.hub.pps 0).comp))) : ℤ) - ((↑ppsInputs4 :
      ℤ) + (↑fuSec : ℤ))).natAbs) ∧
    (0 < 2 ∧ bitOf ppsInputs5.hub.tm.cfg (3 + 0) = true ∧ ppsInputs5.hub.vio 0 = true ∧ (0 = 1 → (ppsInputs5.hub.die
      1).inService = true) ∧ (ppsInputs5.hub.pps 0).st = PpsState.candidate ∧ (ppsInputs5.hub.pps 0).last = some ppsInputs6 ∧
      (ppsInputs5.hub.pps 0).count = 2 ∧ ((↑(moved ppsInputs5.hub.tm.now (0 - psFu (BitVec.toInt (ppsInputs5.hub.pps 0).comp)))
      : ℤ) - ((↑ppsInputs6 : ℤ) + (↑fuSec : ℤ))).natAbs ≤ 51200000) ∧
    (0 < 2 ∧ bitOf (pps PpsState.locked 3 fuSec).hub.tm.cfg (3 + 0) = true ∧ (pps PpsState.locked 3 fuSec).hub.vio 0 = true ∧
      (0 = 1 → ((pps PpsState.locked 3 fuSec).hub.die 1).inService = true) ∧ ((pps PpsState.locked 3 fuSec).hub.pps 0).st =
      PpsState.locked ∧ ((pps PpsState.locked 3 fuSec).hub.pps 0).last = some (up.tm.now - fuSec) ∧ 51200000 < ((↑(moved (pps
      PpsState.locked 3 fuSec).hub.tm.now (0 - psFu (BitVec.toInt ((pps PpsState.locked 3 fuSec).hub.pps 0).comp))) : ℤ) -
      ((↑(nearestSec (up.tm.now - fuSec)) : ℤ) + 1) * (↑fuSec : ℤ)).natAbs) ∧
    (1 < 2 ∧ bitOf ppsInputs7.hub.tm.cfg (3 + 1) = false) ∧
    (0 < 2 ∧ (ppsInputs8.hub.pps 0).last = some ppsInputs9 ∧ ppsInputs9 + fuSec / 2 * 3 ≤ ppsInputs8.hub.tm.now ∧
      (ppsInputs8.hub.pps 0).st = PpsState.candidate) ∧
    (0 < 2 ∧ (ppsInputs10.hub.pps 0).last = some ppsInputs9 ∧ ppsInputs9 + fuSec / 2 * 3 ≤ ppsInputs10.hub.tm.now ∧
      (ppsInputs10.hub.pps 0).st = PpsState.locked) := by
  and_intros <;> decide +kernel

/-- Obligations.TimingLane. -/
theorem witness_TimingLane :
    ((st up).hub.tm.src ≠ Source.lane) ∧
    (lane.hub.tm.src = Source.lane) ∧
    ((st up).hub.tm.src ≠ Source.lane) ∧
    (lane.hub.tm.src = Source.lane) ∧
    (3 ≤ 3 ∧ 3 ≤ 15) ∧
    (3 ≤ 15 ∧ 15 ≤ 15) ∧
    (timingLane1.hub.ports[0]? = some q0 ∧ (timingLane1.hub.lane 0 3).retired = false ∧ timingLane1.hub.clk.run = true ∧
      timingLane1.hub.tm.markBase = some 500000001 ∧ (timingLane1.hub.clk.cycles ≤ 500000001 ∨ (timingLane1.hub.clk.cycles -
      500000001) % 125000000 ≠ 0) ∧ (timingLane1.hub.clk.elapsed :: List.filter (fun t => decide (timingLane1.hub.clk.elapsed <
      t + 1000000000)) q0.ltGlitch).length ≤ 16) ∧
    (timingLane2.hub.ports[0]? = some timingLane3 ∧ (timingLane2.hub.lane 0 3).retired = false ∧ timingLane2.hub.clk.run = true
      ∧ timingLane2.hub.tm.markBase = some 500000001 ∧ (timingLane2.hub.clk.cycles ≤ 500000001 ∨ (timingLane2.hub.clk.cycles -
      500000001) % 125000000 ≠ 0) ∧ 16 < (timingLane2.hub.clk.elapsed :: List.filter (fun t => decide
      (timingLane2.hub.clk.elapsed < t + 1000000000)) timingLane3.ltGlitch).length ∧ (FaultWin.hit (timingLane2.hub.lane 0
      3).win timingLane2.hub.clk.elapsed (fld timingLane2.hub.flt.lane 15 0 * 1000000000) (fld timingLane2.hub.flt.lane 31 24)
      3844).events ≤ (FaultWin.hit (timingLane2.hub.lane 0 3).win timingLane2.hub.clk.elapsed (fld timingLane2.hub.flt.lane 15 0
      * 1000000000) (fld timingLane2.hub.flt.lane 31 24) 3844).allowed) ∧
    (timingLane4.hub.ports[0]? = some q0 ∧ (timingLane4.hub.lane 0 3).retired = false ∧ timingLane4.hub.tm.src = Source.lane ∧
      timingLane4.hub.tm.markBase = some 500000000 ∧ 500000000 < timingLane4.hub.clk.cycles ∧ (timingLane4.hub.clk.cycles -
      500000000) % 125000000 = 0) ∧
    (timingLane5.hub.ports[0]? = some q0 ∧ (timingLane5.hub.lane 0 3).retired = false ∧ timingLane5.hub.tm.src ≠ Source.lane ∧
      timingLane5.hub.tm.markBase = some 500000000 ∧ 500000000 < timingLane5.hub.clk.cycles ∧ (timingLane5.hub.clk.cycles -
      500000000) % 125000000 = 0) ∧
    (ret03.hub.ports[0]? = some timingLane6 ∧ (ret03.hub.lane 0 3).retired = true) ∧
    (timingLane7.hub.ports[0]? = some q0 ∧ timingLane7.hub.tm.markBase = some 374999999 ∧ 374999999 + 250000000 <
      timingLane7.hub.clk.cycles ∧ timingLane7.hub.tm.markLost = false) ∧
    ((st up).hub.ports[0]? = some q0 ∧ (q0.ltUp = false ∨ (st up).hub.tm.align = Align.holdover)) ∧
    (timingLane8.hub.ports[0]? = some timingLane9 ∧ (timingLane9.ltUp = false ∨ timingLane8.hub.tm.align = Align.holdover)) ∧
    ((lt0 id).hub.ports[0]? = some timingLane9 ∧ (lt0 id).hub.tm.markLost = true ∧ (lt0 id).hub.tm.markLostAt + 10000000000 ≤
      (lt0 id).hub.clk.elapsed ∧ (lt0 id).hub.tm.src = Source.lane ∧ timingLane9.ltUp = true ∧ (lt0 id).hub.tm.align ≠
      Align.holdover) ∧
    (lane.hub.ports[0]? = some q0 ∧ lane.hub.tm.src = Source.lane ∧ (q0.ltUp = false ∨ (lane.hub.lane 0 3).retired = true ∨
      (FaultWin.hit (lane.hub.lane 0 3).win lane.hub.clk.elapsed (fld lane.hub.flt.lane 15 0 * 1000000000) (fld
      lane.hub.flt.lane 31 24) 3844).events ≤ (FaultWin.hit (lane.hub.lane 0 3).win lane.hub.clk.elapsed (fld lane.hub.flt.lane
      15 0 * 1000000000) (fld lane.hub.flt.lane 31 24) 3844).allowed) ∧ (lane.hub.lane 0 0).lock ≠ LockState.locked) ∧
    (lock00.hub.ports[0]? = some (lock00.hub.prt 0) ∧ lock00.hub.tm.src = Source.lane ∧ ((lock00.hub.prt 0).ltUp = false ∨
      (lock00.hub.lane 0 3).retired = true ∨ (FaultWin.hit (lock00.hub.lane 0 3).win lock00.hub.clk.elapsed (fld
      lock00.hub.flt.lane 15 0 * 1000000000) (fld lock00.hub.flt.lane 31 24) 3844).events ≤ (FaultWin.hit (lock00.hub.lane 0
      3).win lock00.hub.clk.elapsed (fld lock00.hub.flt.lane 15 0 * 1000000000) (fld lock00.hub.flt.lane 31 24) 3844).allowed) ∧
      (lock00.hub.lane 0 0).lock = LockState.locked) := by
  and_intros <;> decide +kernel

/-- Obligations.ClocksAndSlewing. -/
theorem witness_ClocksAndSlewing :
    ((st up).hub.clk.run = true ∧ (st up).hub.clk.refclk = true) ∧
    ((rl (some 4990000000)).hub.clk.run = true ∧ (rl (some 4990000000)).hub.clk.relockAt = some 4990000000 ∧ 4990000000 + 64000
      ≤ (rl (some 4990000000)).hub.clk.elapsed ∧ (rl (some 4990000000)).hub.pllSource = true) ∧
    ((rl (some 4999936001)).hub.clk.run = true ∧ (rl (some 4999936001)).hub.clk.relockAt = some 4999936001 ∧ ((rl (some
      4999936001)).hub.clk.elapsed < 4999936001 + 64000 ∨ (rl (some 4999936001)).hub.pllSource = false)) ∧
    (clocksAndSlewing1.hub.clk.run = true ∧ clocksAndSlewing1.hub.clk.relockAt = some 4990000000 ∧
      (clocksAndSlewing1.hub.clk.elapsed < 4990000000 + 64000 ∨ clocksAndSlewing1.hub.pllSource = false)) ∧
    ((rl (some 4990000000)).hub.clk.relockAt = some 4990000000 ∧ 4990000000 + 10000000 ≤ (rl (some 4990000000)).hub.clk.elapsed) ∧
    ((rl (some 5000000000)).hub.clk.retryAt = some 5000000000 ∧ 5000000000 ≤ (rl (some 5000000000)).hub.clk.elapsed) ∧
    ((st up).hub.clk.run = true ∧ (st up).hub.tm.src ≠ Source.lane) ∧
    (lane.hub.clk.run = true ∧ lane.hub.tm.src = Source.lane) ∧
    (5 * clocksAndSlewing2.hub.tm.e.natAbs < 128) ∧
    (clocksAndSlewing3.hub.tm.src = Source.pps ∧ clocksAndSlewing3.hub.tm.incoherent = true) ∧
    (clocksAndSlewing4.hub.tm.align ≠ Align.locked ∧ clocksAndSlewing4.hub.tm.align ≠ Align.slewing) ∧
    (clocksAndSlewing5.hub.tm.slewAt = some 4999999999 ∧ (clocksAndSlewing5.hub.clk.elapsed - 4999999999) * fld
      clocksAndSlewing5.hub.tm.cfg 15 6 < 25 * 1000000000) ∧
    (clocksAndSlewing6.hub.tm.slewAt = some 4975000000 ∧ 25 * 1000000000 ≤ (clocksAndSlewing6.hub.clk.elapsed - 4975000000) *
      fld clocksAndSlewing6.hub.tm.cfg 15 6 ∧ 128 ≤ 5 * clocksAndSlewing6.hub.tm.e.natAbs ∧ 26 ≤ clocksAndSlewing6.hub.tm.now ∧
      clocksAndSlewing6.hub.tm.fifth < 5 ∧ (¬(clocksAndSlewing6.hub.tm.src = Source.pps ∧ clocksAndSlewing6.hub.tm.incoherent =
      true)) ∧ (clocksAndSlewing6.hub.tm.align = Align.locked ∨ clocksAndSlewing6.hub.tm.align = Align.slewing)) := by
  and_intros <;> decide +kernel

/-- Obligations.SecondsDelaysAndEdges. -/
theorem witness_SecondsDelaysAndEdges :
    (secOf (st up).hub.tm.now ≤ (st up).hub.tm.second) ∧
    (secondsDelaysAndEdges1.hub.tm.second < secOf secondsDelaysAndEdges1.hub.tm.now ∧ secondsDelaysAndEdges1.hub.tm.stepNext =
      0 ∧ secondsDelaysAndEdges1.hub.tm.armed = false ∧ secondsDelaysAndEdges1.hub.tm.cfgNext = some 131160) ∧
    (secondsDelaysAndEdges2.hub.tm.second < secOf secondsDelaysAndEdges2.hub.tm.now ∧ secondsDelaysAndEdges2.hub.tm.stepNext =
      0 ∧ secondsDelaysAndEdges2.hub.tm.armed = true ∧ secondsDelaysAndEdges2.hub.tm.src = Source.free) ∧
    (7 ≠ 0 ∧ 7 < secondsDelaysAndEdges3.hub.nPorts ∧ secondsDelaysAndEdges3.hub.ports[7]? = some secondsDelaysAndEdges4 ∧
      secondsDelaysAndEdges4.ltRuns = false) ∧
    (0 < 8 ∧ (st up).hub.vio (0 / 4) = true ∧ ((st up).hub.die (0 / 4)).inService = true ∧ (st up).hub.tm.tins[0]? = some
      idleTin ∧ (bitOf idleTin.cfg 31 = false ∨ fld idleTin.cfg 30 29 = 0 ∧ false = true ∨ fld idleTin.cfg 30 29 = 1 ∧ false =
      false)) ∧
    (0 < 8 ∧ secondsDelaysAndEdges8.hub.vio (0 / 4) = true ∧ (secondsDelaysAndEdges8.hub.die (0 / 4)).inService = true ∧
      secondsDelaysAndEdges8.hub.tm.tins[0]? = some secondsDelaysAndEdges9 ∧ bitOf secondsDelaysAndEdges9.cfg 31 = true ∧ (¬(fld
      secondsDelaysAndEdges9.cfg 30 29 = 0 ∧ true = true)) ∧ (¬(fld secondsDelaysAndEdges9.cfg 30 29 = 1 ∧ true = false)) ∧ ((∃
      t0, secondsDelaysAndEdges9.last = some t0 ∧ secondsDelaysAndEdges8.hub.tm.now - 0 - t0 < max 8192 (fld
      secondsDelaysAndEdges9.cfg 15 0 * 1024)) ∨ 16 ≤ secondsDelaysAndEdges9.buf - (secondsDelaysAndEdges8.hub.clk.elapsed -
      secondsDelaysAndEdges9.bufAt) / 100)) ∧
    (0 < 8 ∧ secondsDelaysAndEdges10.hub.vio (0 / 4) = true ∧ (secondsDelaysAndEdges10.hub.die (0 / 4)).inService = true ∧
      secondsDelaysAndEdges10.hub.tm.tins[0]? = some secondsDelaysAndEdges11 ∧ bitOf secondsDelaysAndEdges11.cfg 31 = true ∧
      (¬(fld secondsDelaysAndEdges11.cfg 30 29 = 0 ∧ true = true)) ∧ (¬(fld secondsDelaysAndEdges11.cfg 30 29 = 1 ∧ true =
      false)) ∧ (∀ (t0 : ℕ), secondsDelaysAndEdges11.last = some t0 → max 8192 (fld secondsDelaysAndEdges11.cfg 15 0 * 1024) ≤
      secondsDelaysAndEdges10.hub.tm.now - 0 - t0) ∧ secondsDelaysAndEdges11.buf - (secondsDelaysAndEdges10.hub.clk.elapsed -
      secondsDelaysAndEdges11.bufAt) / 100 < 16) := by
  and_intros <;> decide +kernel

/-- Obligations.AfeSets. -/
theorem witness_AfeSets :
    (Served (st up).hub [0] ∧ (∀ c ∈ [0], (((st up).hub.supposing [0] fun d =>
      { afe := AfeWords.reset, conv := d.conv, ctl := d.ctl, cic := d.cic, firDec := d.firDec, ma := d.ma, rs := d.rs, det := d.det, coef := d.coef }).ch
      c).desc.bad (((st up).hub.supposing [0] fun d =>
      { afe := AfeWords.reset, conv := d.conv, ctl := d.ctl, cic := d.cic, firDec := d.firDec, ma := d.ma, rs := d.rs, det := d.det, coef := d.coef }).refFreq
      (((st up).hub.supposing [0] fun d =>
      { afe := AfeWords.reset, conv := d.conv, ctl := d.ctl, cic := d.cic, firDec := d.firDec, ma := d.ma, rs := d.rs, det := d.det, coef := d.coef }).ch
      c).desc) = false) ∧ ((st up).hub.supposing [0] fun d =>
      { afe := AfeWords.reset, conv := d.conv, ctl := d.ctl, cic := d.cic, firDec := d.firDec, ma := d.ma, rs := d.rs, det := d.det, coef := d.coef }).badPartners
      (List.map chDie [0]).eraseDups = [] ∧ (∀ d ∈ List.map chDie [0], ((st up).hub.supposing [0] fun d =>
      { afe := AfeWords.reset, conv := d.conv, ctl := d.ctl, cic := d.cic, firDec := d.firDec, ma := d.ma, rs := d.rs, det := d.det, coef := d.coef }).overDrive
      d = false)) ∧
    (Served (st up).hub [255, 3] ∧ (∀ c ∈ [255, 3], (((st up).hub.supposing [255, 3] fun d =>
      { afe := AfeWords.reset, conv := d.conv, ctl := d.ctl, cic := d.cic, firDec := d.firDec, ma := d.ma, rs := d.rs, det := d.det, coef := d.coef }).ch
      c).desc.bad (((st up).hub.supposing [255, 3] fun d =>
      { afe := AfeWords.reset, conv := d.conv, ctl := d.ctl, cic := d.cic, firDec := d.firDec, ma := d.ma, rs := d.rs, det := d.det, coef := d.coef }).refFreq
      (((st up).hub.supposing [255, 3] fun d =>
      { afe := AfeWords.reset, conv := d.conv, ctl := d.ctl, cic := d.cic, firDec := d.firDec, ma := d.ma, rs := d.rs, det := d.det, coef := d.coef }).ch
      c).desc) = false) ∧ ((st up).hub.supposing [255, 3] fun d =>
      { afe := AfeWords.reset, conv := d.conv, ctl := d.ctl, cic := d.cic, firDec := d.firDec, ma := d.ma, rs := d.rs, det := d.det, coef := d.coef }).badPartners
      (List.map chDie [255, 3]).eraseDups = [] ∧ (∀ d ∈ List.map chDie [255, 3], ((st up).hub.supposing [255, 3] fun d =>
      { afe := AfeWords.reset, conv := d.conv, ctl := d.ctl, cic := d.cic, firDec := d.firDec, ma := d.ma, rs := d.rs, det := d.det, coef := d.coef }).overDrive
      d = false)) ∧
    (Served (st up).hub [0] ∧ (fld afeSets1.drive 2 0 = 1 ∧ (BitVec.toNat afeSets1.freq < 17180 ∨ 8589935 < BitVec.toNat
      afeSets1.freq) ∨ sfld afeSets1.cm 17 9 < -250 ∨ 250 < sfld afeSets1.cm 17 9 ∨ sfld afeSets1.cm 8 0 < -250 ∨ 250 < sfld
      afeSets1.cm 8 0 ∨ sfld afeSets1.cm 17 9 ≤ sfld afeSets1.cm 8 0)) ∧
    (Served (st up).hub (List.range 16) ∧ (∀ c ∈ List.range 16, (((st up).hub.supposing (List.range 16) fun d =>
      { afe := afeSets2, conv := d.conv, ctl := d.ctl, cic := d.cic, firDec := d.firDec, ma := d.ma, rs := d.rs, det := d.det, coef := d.coef }).ch
      c).desc.bad (((st up).hub.supposing (List.range 16) fun d =>
      { afe := afeSets2, conv := d.conv, ctl := d.ctl, cic := d.cic, firDec := d.firDec, ma := d.ma, rs := d.rs, det := d.det, coef := d.coef }).refFreq
      (((st up).hub.supposing (List.range 16) fun d =>
      { afe := afeSets2, conv := d.conv, ctl := d.ctl, cic := d.cic, firDec := d.firDec, ma := d.ma, rs := d.rs, det := d.det, coef := d.coef }).ch
      c).desc) = false) ∧ ((st up).hub.supposing (List.range 16) fun d =>
      { afe := afeSets2, conv := d.conv, ctl := d.ctl, cic := d.cic, firDec := d.firDec, ma := d.ma, rs := d.rs, det := d.det, coef := d.coef }).badPartners
      (List.map chDie (List.range 16)).eraseDups = [] ∧ (∃ d ∈ List.map chDie (List.range 16), ((st up).hub.supposing
      (List.range 16) fun d =>
      { afe := afeSets2, conv := d.conv, ctl := d.ctl, cic := d.cic, firDec := d.firDec, ma := d.ma, rs := d.rs, det := d.det, coef := d.coef }).overDrive
      d = true)) ∧
    (([0, 256] = [] ∨ ∃ c ∈ [0, 256], (st up).hub.nChans ≤ c)) ∧
    ([0, 128] ≠ [] ∧ (∀ c ∈ [0, 128], c < (st die1gone).hub.nChans) ∧ (∃ c ∈ [0, 128], (st die1gone).hub.dieDown (chDie c) =
      true)) := by
  and_intros <;> first | decide +kernel | (unfold Served Shaped; decide +kernel)

/-- Obligations.ChannelReads. -/
theorem witness_ChannelReads :
    (Served (st up).hub [0]) ∧
    (Served (st up).hub [255]) ∧
    (Served (st up).hub [0] ∧ ((st up).hub.ch 0).held = none ∧ ((st up).hub.ch 0).unsettled = []) ∧
    (Served (heldOct heldDesc).hub [0] ∧ ((heldOct heldDesc).hub.ch 0).held.bind ChanWrite.desc = some Desc.reset) ∧
    (Served (heldOct heldAfe).hub [0] ∧ ((heldOct heldAfe).hub.ch 0).held = some heldAfe ∧ heldAfe.desc = none ∧ heldAfe.afe =
      some channelReads1) ∧
    (Served (st up).hub [0]) ∧
    (Served (st up).hub [0] ∧ 1 ≤ 256 ∧ 256 ≤ 500 ∧ 0 + 256 ≤ (st up).hub.nChans ∧ (∀ i < 256, (st up).hub.dieDown (chDie (0 +
      i)) = false)) ∧
    (Served (st up).hub [0] ∧ 1 ≤ 1 ∧ 1 ≤ 500 ∧ 255 + 1 ≤ (st up).hub.nChans ∧ (∀ i < 1, (st up).hub.dieDown (chDie (255 + i))
      = false)) ∧
    (Served (st up).hub [0] ∧ 15 < 16 ∧ (st up).hub.reps[15]? = some Rep.reset) := by
  and_intros <;> first | decide +kernel | (unfold Served Shaped; decide +kernel)

/-- Obligations.FrontEndSettings. -/
theorem witness_FrontEndSettings :
    (Served (st up).hub [0, 255]) ∧
    ([0, 31] ≠ [] ∧ (∀ o ∈ [0, 31], o < (st up).hub.nOcts ∧ (st up).hub.dieDown (o / 16) = false) ∧ onlyBits 115 115 = true) ∧
    (15 < 16 ∧ badRep frontEndSettings1 = false ∧ Served repOn.hub [fld frontEndSettings1.ctl 17 8] ∧ DieUp repOn.hub (15 / 8)
      ∧ (repOn.hub.ch (fld frontEndSettings1.ctl 17 8)).skimEn = true ∧ repOn.hub.reps[15]? = some frontEndSettings2 ∧ bitOf
      frontEndSettings1.ctl 31 = true ∧ bitOf frontEndSettings2.w.ctl 31 = true ∧ frontEndSettings2.hiZ = false) ∧
    (15 < 16 ∧ badRep frontEndSettings1 = false ∧ Served frontEndSettings3.hub [fld frontEndSettings1.ctl 17 8] ∧ DieUp
      frontEndSettings3.hub (15 / 8) ∧ (frontEndSettings3.hub.ch (fld frontEndSettings1.ctl 17 8)).skimEn = true ∧
      frontEndSettings3.hub.reps[15]? = some Rep.reset ∧ bitOf frontEndSettings1.ctl 31 = true ∧ (bitOf Rep.reset.w.ctl 31 =
      false ∨ Rep.reset.hiZ = true)) ∧
    (15 < 16 ∧ badRep frontEndSettings4 = false ∧ Served frontEndSettings3.hub [fld frontEndSettings4.ctl 17 8] ∧ DieUp
      frontEndSettings3.hub (15 / 8) ∧ (frontEndSettings3.hub.ch (fld frontEndSettings4.ctl 17 8)).skimEn = true ∧ bitOf
      frontEndSettings4.ctl 31 = false) ∧
    (Served (st up).hub [0, 9]) := by
  and_intros <;> first | decide +kernel | (unfold Served Shaped; decide +kernel) | (unfold DieUp Shaped; decide +kernel)

/-- Obligations.ChanSetAccepted. -/
theorem witness_ChanSetAccepted :
    (Served (st up).hub [0, 255] ∧ Desc.ofWords ws0 = some Desc.reset ∧ (∀ x ∈ (st up).hub.chanTests ((st up).hub.supposing [0,
      255] fun x => Desc.reset) [0, 255], x.2 = [])) ∧
    (Served (st up).hub [0] ∧ Desc.ofWords chanSetAccepted1 = some chanSetAccepted2 ∧ (∃ x ∈ (st up).hub.chanTests ((st
      up).hub.supposing [0] fun x => chanSetAccepted2) [0], x.2 ≠ [])) ∧
    (Served (st up).hub [0] ∧ Desc.ofWords [] = none) := by
  and_intros <;> first | decide +kernel | (unfold Served Shaped; decide +kernel)

/-- Obligations.HeldWrites. -/
theorem witness_HeldWrites :
    (Served octHeld.hub [0] ∧ (octHeld.hub.oct (chOct 0)).held = true ∧ octHeld.hub.chans[0]? = some (octHeld.hub.ch 0) ∧ (∀ (o
      : ChanWrite), (octHeld.hub.ch 0).held = some o → o.order ≤ octHeld.hub.mgmt.accepts) ∧ Desc.ofWords ws0 = some Desc.reset
      ∧ (∀ y ∈ octHeld.hub.chanTests (octHeld.hub.supposing [0] fun x => Desc.reset) [0], y.2 = [])) ∧
    (Served octHeld.hub [0] ∧ (octHeld.hub.oct (chOct 0)).held = true ∧ octHeld.hub.chans[0]? = some (octHeld.hub.ch 0) ∧ (∀ (o
      : ChanWrite), (octHeld.hub.ch 0).held = some o → o.order ≤ octHeld.hub.mgmt.accepts) ∧ ((octHeld.hub.supposing [0] fun d
      =>
      { afe := AfeWords.reset, conv := d.conv, ctl := d.ctl, cic := d.cic, firDec := d.firDec, ma := d.ma, rs := d.rs, det := d.det, coef := d.coef }).ch
      0).desc.bad ((octHeld.hub.supposing [0] fun d =>
      { afe := AfeWords.reset, conv := d.conv, ctl := d.ctl, cic := d.cic, firDec := d.firDec, ma := d.ma, rs := d.rs, det := d.det, coef := d.coef }).refFreq
      ((octHeld.hub.supposing [0] fun d =>
      { afe := AfeWords.reset, conv := d.conv, ctl := d.ctl, cic := d.cic, firDec := d.firDec, ma := d.ma, rs := d.rs, det := d.det, coef := d.coef }).ch
      0).desc) = false ∧ (octHeld.hub.supposing [0] fun d =>
      { afe := AfeWords.reset, conv := d.conv, ctl := d.ctl, cic := d.cic, firDec := d.firDec, ma := d.ma, rs := d.rs, det := d.det, coef := d.coef }).badPartners
      [chDie 0] = [] ∧ (octHeld.hub.supposing [0] fun d =>
      { afe := AfeWords.reset, conv := d.conv, ctl := d.ctl, cic := d.cic, firDec := d.firDec, ma := d.ma, rs := d.rs, det := d.det, coef := d.coef }).overDrive
      (chDie 0) = false) ∧
    (Served (heldOct heldDesc).hub [0] ∧ ((heldOct heldDesc).hub.oct (chOct 0)).held = true ∧ (heldOct heldDesc).hub.chans[0]?
      = some heldWrites1 ∧ (∀ (o : ChanWrite), heldWrites1.held = some o → o.order ≤ (heldOct heldDesc).hub.mgmt.accepts) ∧
      (((heldOct heldDesc).hub.supposing [0] fun d =>
      { afe := AfeWords.reset, conv := d.conv, ctl := d.ctl, cic := d.cic, firDec := d.firDec, ma := d.ma, rs := d.rs, det := d.det, coef := d.coef }).ch
      0).desc.bad (((heldOct heldDesc).hub.supposing [0] fun d =>
      { afe := AfeWords.reset, conv := d.conv, ctl := d.ctl, cic := d.cic, firDec := d.firDec, ma := d.ma, rs := d.rs, det := d.det, coef := d.coef }).refFreq
      (((heldOct heldDesc).hub.supposing [0] fun d =>
      { afe := AfeWords.reset, conv := d.conv, ctl := d.ctl, cic := d.cic, firDec := d.firDec, ma := d.ma, rs := d.rs, det := d.det, coef := d.coef }).ch
      0).desc) = false ∧ ((heldOct heldDesc).hub.supposing [0] fun d =>
      { afe := AfeWords.reset, conv := d.conv, ctl := d.ctl, cic := d.cic, firDec := d.firDec, ma := d.ma, rs := d.rs, det := d.det, coef := d.coef }).badPartners
      [chDie 0] = [] ∧ ((heldOct heldDesc).hub.supposing [0] fun d =>
      { afe := AfeWords.reset, conv := d.conv, ctl := d.ctl, cic := d.cic, firDec := d.firDec, ma := d.ma, rs := d.rs, det := d.det, coef := d.coef }).overDrive
      (chDie 0) = false) ∧
    (Served octHeld.hub [0] ∧ (octHeld.hub.oct (chOct 0)).held = true ∧ octHeld.hub.chans[0]? = some (octHeld.hub.ch 0) ∧ (∀ (o
      : ChanWrite), (octHeld.hub.ch 0).held = some o → o.order ≤ octHeld.hub.mgmt.accepts) ∧ (octHeld.hub.ch 0).latest.badRed
      2147483748 = false ∧ loadAbove ((octHeld.hub.ch 0).latest.load (octHeld.hub.ch 0).skimEn 2147483748 (octHeld.hub.capSrc
      0)) 900 = false) := by
  and_intros <;> first | decide +kernel | (unfold Served Shaped; decide +kernel)

/-- Obligations.CoefficientSets. -/
theorem witness_CoefficientSets :
    (Served (st up).hub [0] ∧ 0 ≤ 65535 ∧ (768 :: List.drop 1 cw0).length = 136 ∧ onlyBits ((768 :: List.drop 1 cw0).getD 0 0)
      895 = true ∧ (∃ c ∈ [0], ((st up).hub.ch c).desc.firDec ≠ fld ((768 :: List.drop 1 cw0).getD 0 0) 9 8 ∨ ((st up).hub.ch
      c).latest.badCoef (CoefSet.ofWords (768 :: List.drop 1 cw0)) = true)) ∧
    (Served heavy.hub [0] ∧ 0 ≤ 65535 ∧ cwLong.length = 136 ∧ onlyBits (cwLong.getD 0 0) 895 = true ∧ (∀ c ∈ [0],
      ¬((heavy.hub.ch c).desc.firDec ≠ fld (cwLong.getD 0 0) 9 8 ∨ (heavy.hub.ch c).latest.badCoef (CoefSet.ofWords cwLong) =
      true)) ∧ (∃ c ∈ [0], loadAbove
      ({ afe := (heavy.hub.ch c).latest.afe, conv := (heavy.hub.ch c).latest.conv, ctl := (heavy.hub.ch c).latest.ctl, cic := (heavy.hub.ch c).latest.cic, firDec := (heavy.hub.ch c).latest.firDec, ma := (heavy.hub.ch c).latest.ma, rs := (heavy.hub.ch c).latest.rs, det := (heavy.hub.ch c).latest.det, coef := CoefSet.ofWords cwLong : Desc }.load
      (heavy.hub.ch c).skimEn (heavy.hub.ch c).latestRed (heavy.hub.capSrc c)) 900 = true ∨ loadAbove ((heavy.hub.ch
      c).latest.loadXf (CoefSet.ofWords cwLong) (heavy.hub.ch c).skimEn (heavy.hub.ch c).latestRed (heavy.hub.capSrc c)) 1000 =
      true)) ∧
    (Served (st up).hub [0, 255] ∧ 0 ≤ 65535 ∧ cw0.length = 136 ∧ onlyBits (cw0.getD 0 0) 895 = true ∧ (∀ c ∈ [0, 255], ¬(((st
      up).hub.ch c).desc.firDec ≠ fld (cw0.getD 0 0) 9 8 ∨ ((st up).hub.ch c).latest.badCoef (CoefSet.ofWords cw0) = true) ∧
      ¬(loadAbove
      ({ afe := ((st up).hub.ch c).latest.afe, conv := ((st up).hub.ch c).latest.conv, ctl := ((st up).hub.ch c).latest.ctl, cic := ((st up).hub.ch c).latest.cic, firDec := ((st up).hub.ch c).latest.firDec, ma := ((st up).hub.ch c).latest.ma, rs := ((st up).hub.ch c).latest.rs, det := ((st up).hub.ch c).latest.det, coef := CoefSet.ofWords cw0 : Desc }.load
      ((st up).hub.ch c).skimEn ((st up).hub.ch c).latestRed ((st up).hub.capSrc c)) 900 = true ∨ loadAbove (((st up).hub.ch
      c).latest.loadXf (CoefSet.ofWords cw0) ((st up).hub.ch c).skimEn ((st up).hub.ch c).latestRed ((st up).hub.capSrc c)) 1000
      = true)) ∧ (∀ c ∈ [0, 255], ((st up).hub.ch c).switching = false)) ∧
    (Served coefficientSets1.hub [0, 1] ∧ 65535 ≤ 65535 ∧ cw0.length = 136 ∧ onlyBits (cw0.getD 0 0) 895 = true ∧ (∀ c ∈ [0,
      1], ¬((coefficientSets1.hub.ch c).desc.firDec ≠ fld (cw0.getD 0 0) 9 8 ∨ (coefficientSets1.hub.ch c).latest.badCoef
      (CoefSet.ofWords cw0) = true) ∧ ¬(loadAbove
      ({ afe := (coefficientSets1.hub.ch c).latest.afe, conv := (coefficientSets1.hub.ch c).latest.conv, ctl := (coefficientSets1.hub.ch c).latest.ctl, cic := (coefficientSets1.hub.ch c).latest.cic, firDec := (coefficientSets1.hub.ch c).latest.firDec, ma := (coefficientSets1.hub.ch c).latest.ma, rs := (coefficientSets1.hub.ch c).latest.rs, det := (coefficientSets1.hub.ch c).latest.det, coef := CoefSet.ofWords cw0 : Desc }.load
      (coefficientSets1.hub.ch c).skimEn (coefficientSets1.hub.ch c).latestRed (coefficientSets1.hub.capSrc c)) 900 = true ∨
      loadAbove ((coefficientSets1.hub.ch c).latest.loadXf (CoefSet.ofWords cw0) (coefficientSets1.hub.ch c).skimEn
      (coefficientSets1.hub.ch c).latestRed (coefficientSets1.hub.capSrc c)) 1000 = true)) ∧ (∃ c ∈ [0, 1],
      (coefficientSets1.hub.ch c).switching = true)) ∧
    (Served coefficientSets1.hub [0] ∧ 65535 ≤ 65535 ∧ cw0.length = 136 ∧ onlyBits (cw0.getD 0 0) 895 = true ∧ (∀ c ∈ [0],
      (coefficientSets1.hub.ch c).switching = true ∨ (coefficientSets1.hub.ch c).shadow.isSome = true) ∧ (∃ c ∈ [0],
      (coefficientSets1.hub.ch c).switching = true)) ∧
    (Served (st up).hub [255] ∧ 0 ≤ 65535 ∧ cw0.length = 136 ∧ onlyBits (cw0.getD 0 0) 895 = true ∧ (∃ c ∈ [255], ((st
      up).hub.ch c).switching = false ∧ ((st up).hub.ch c).shadow = none)) ∧
    (Served coefficientSets2.hub [0] ∧ 65535 ≤ 65535 ∧ cw0.length = 136 ∧ onlyBits (cw0.getD 0 0) 895 = true ∧ (∀ c ∈ [0],
      (coefficientSets2.hub.ch c).switching = false ∧ (coefficientSets2.hub.ch c).shadow.isSome = true)) ∧
    (coefficientSets3.hub.chans[0]? = some coefficientSets4 ∧ coefficientSets4.switch = some coefficientSets5 ∧
      (coefficientSets5.job.isSome = true ∧ coefficientSets5.armed = false ∨ ∃ v, coefficientSets5.s = some v ∧
      coefficientSets4.nextJ coefficientSets3.hub.tm.now < v)) ∧
    (coefficientSets6.hub.chans[0]? = some coefficientSets7 ∧ coefficientSets7.switch = some coefficientSets8 ∧
      (coefficientSets8.job.isSome = true ∧ coefficientSets8.armed = false ∨ ∃ v, coefficientSets8.s = some v ∧
      coefficientSets7.nextJ coefficientSets6.hub.tm.now < v)) ∧
    (0 < coefficientSets9.hub.nChans ∧ coefficientSets9.hub.chans[0]? = some coefficientSets10 ∧ coefficientSets10.switch =
      some coefficientSets11 ∧ (coefficientSets11.job = none ∨ coefficientSets11.armed = true) ∧ (∀ (v : ℕ), coefficientSets11.s
      = some v → v ≤ coefficientSets10.nextJ coefficientSets9.hub.tm.now) ∧ coefficientSets10.shadow = some CoefSet.reset) ∧
    (0 < coefficientSets12.hub.nChans ∧ coefficientSets12.hub.chans[0]? = some coefficientSets13 ∧ coefficientSets13.switch =
      some coefficientSets14 ∧ (coefficientSets14.job = none ∨ coefficientSets14.armed = true) ∧ (∀ (v : ℕ), coefficientSets14.s
      = some v → v ≤ coefficientSets13.nextJ coefficientSets12.hub.tm.now) ∧ coefficientSets13.shadow = some CoefSet.reset) := by
  and_intros <;> first | decide +kernel | (unfold Served Shaped; decide +kernel)

/-- Obligations.Conversions. -/
theorem witness_Conversions :
    (Shaped conversions1.hub ∧ conversions1.hub.chans[0]? = some conversions2 ∧ conversions1.hub.clk.run = true ∧
      (conversions1.hub.die (chDie 0)).faulted = false ∧ (conversions1.hub.die (chDie 0)).inService = true ∧
      conversions1.hub.powered (chQuad 0) = true ∧ conversions2.lastK = some 5100000 ∧ conversions1.hub.tm.now /
      conversions2.desc.rawPeriod ≤ 5100000) ∧
    (Shaped (st up).hub ∧ (st up).hub.chans[0]? = some (up.ch 0) ∧ (st up).hub.clk.run = true ∧ ((st up).hub.die (chDie
      0)).faulted = false ∧ ((st up).hub.die (chDie 0)).inService = true ∧ (st up).hub.powered (chQuad 0) = true ∧ (∀ (l : ℕ),
      (up.ch 0).lastK = some l → l < (st up).hub.tm.now / (up.ch 0).desc.rawPeriod) ∧ (up.ch 0).writes = [] ∧ (up.ch 0).syncs =
      [] ∧ (up.ch 0).stopped = false ∧ (up.ch 0).retired = none ∧ (st up).hub.heldCh 0 = false ∧ ((st up).hub.pwr.st ≠
      PowerState.doze ∨ (st up).hub.feeds 0 = true)) ∧
    (Shaped conv1.hub ∧ conv1.hub.chans[0]? = some (conv1.hub.ch 0) ∧ conv1.hub.clk.run = true ∧ (conv1.hub.die (chDie
      0)).faulted = false ∧ (conv1.hub.die (chDie 0)).inService = true ∧ conv1.hub.powered (chQuad 0) = true ∧ (∀ (l : ℕ),
      (conv1.hub.ch 0).lastK = some l → l < conv1.hub.tm.now / (conv1.hub.ch 0).desc.rawPeriod) ∧ (conv1.hub.ch 0).writes =
      [{ desc := none, afe := some channelReads1, red := none, notBefore := 0, actions := [], late := false, order := 0 }] ∧ 0 ≤
      conv1.hub.tm.now / (conv1.hub.ch 0).desc.rawPeriod * (conv1.hub.ch 0).desc.rawPeriod ∧ (conv1.hub.ch 0).retired = none ∧
      (conv1.hub.ch 0).stopped = false ∧ conv1.hub.heldCh 0 = false ∧ (conv1.hub.pwr.st ≠ PowerState.doze ∨ conv1.hub.feeds 0 =
      true)) ∧
    (Shaped (st up).hub ∧ (st up).hub.chans[0]? = some (up.ch 0) ∧ (up.ch 0).clamped = false ∧ (up.ch 0).clampEnd ≤ (st
      up).hub.clk.elapsed) ∧
    (Shaped conversions3.hub ∧ conversions3.hub.chans[0]? = some conversions4 ∧ conversions4.clamped = false ∧
      conversions3.hub.clk.elapsed < conversions4.clampEnd) ∧
    (Shaped conversions5.hub ∧ conversions5.hub.chans[0]? = some conversions6 ∧ conversions6.clamped = true) ∧
    (Shaped (st up).hub ∧ (st up).hub.chans[0]? = some (up.ch 0) ∧ (up.ch 0).excOl = false) ∧
    (Shaped conversions7.hub ∧ conversions7.hub.chans[0]? = some conversions8 ∧ conversions8.excOl = true) ∧
    (Shaped (st up).hub ∧ (st up).hub.chans[0]? = some (up.ch 0) ∧ 31 < (st up).hub.nOcts ∧ ((st up).hub.oct 31).guardOl =
      false) ∧
    (Shaped (st up).hub ∧ (st up).hub.chans[0]? = some (up.ch 0)) := by
  and_intros <;> first | decide +kernel | (unfold Shaped; decide +kernel)

/-- Obligations.AuditEntries. -/
theorem witness_AuditEntries :
    (Shaped (st up).hub ∧ (st up).hub.dies[0]? = some (up.die 0) ∧ (up.die 0).audit.retired = false ∧ (up.die 0).inService =
      true ∧ auditEntries1.length = 16 ∧ (∀ v ∈ auditEntries1, -8192 ≤ v ∧ v ≤ 8191) ∧ (up.die 0).audit.serving = false ∧
      (up.die 0).audit.paused = false ∧ (st up).hub.runNow 0 = some 0) ∧
    (Shaped auditEntries2.hub ∧ auditEntries2.hub.dies[0]? = some auditEntries3 ∧ auditEntries3.audit.retired = false ∧
      auditEntries3.inService = true ∧ auditEntries4.length = 16 ∧ (∀ v ∈ auditEntries4, -8192 ≤ v ∧ v ≤ 8191) ∧
      auditEntries3.audit.serving = true ∧ auditEntries3.audit.urgent = [141] ∧ auditEntries3.audit.ref = some
      { high := [], low := [], gap := [] } ∧ refEntries.contains 141 = true) ∧
    (Shaped auditEntries5.hub ∧ auditEntries5.hub.dies[0]? = some auditEntries6 ∧ auditEntries6.audit.retired = false ∧
      auditEntries6.inService = true ∧ auditEntries1.length = 16 ∧ (∀ v ∈ auditEntries1, -8192 ≤ v ∧ v ≤ 8191) ∧
      auditEntries6.audit.serving = false ∧ auditEntries6.audit.paused = true ∧ auditEntries6.audit.cal = some (5,
      List.replicate 23 0) ∧ (List.replicate 23 0).length < 24) ∧
    (Shaped auditEntries7.hub ∧ auditEntries7.hub.dies[0]? = some auditEntries8 ∧ auditEntries8.audit.retired = false ∧
      auditEntries8.inService = true ∧ auditEntries4.length = 16 ∧ (∀ v ∈ auditEntries4, -8192 ≤ v ∧ v ≤ 8191) ∧
      auditEntries8.audit.serving = true ∧ auditEntries8.audit.urgent = [5] ∧ auditEntries8.audit.ref = none) ∧
    (Shaped (st up).hub ∧ (st up).hub.dies[0]? = some (up.die 0) ∧ (up.die 0).audit.retired = false ∧ (up.die 0).inService =
      true) ∧
    (DieUp auditEntries9.hub 0 ∧ auditEntries9.hub.dies[0]? = some auditEntries10 ∧ 143 < 144 ∧
      (auditEntries10.audit.urgent.contains 143 || auditEntries10.audit.overflow.contains 143) = true) ∧
    (DieUp (st up).hub 0 ∧ (st up).hub.dies[0]? = some (up.die 0) ∧ 143 < 144 ∧ ((up.die 0).audit.urgent.contains 143 ||
      (up.die 0).audit.overflow.contains 143) = false ∧ (up.die 0).audit.urgent.length < 8) ∧
    (DieUp auditEntries11.hub 0 ∧ auditEntries11.hub.dies[0]? = some auditEntries12 ∧ 143 < 144 ∧
      (auditEntries12.audit.urgent.contains 143 || auditEntries12.audit.overflow.contains 143) = false ∧ 8 ≤
      auditEntries12.audit.urgent.length) ∧
    (DieUp (st up).hub 1 ∧ (st up).hub.dies[1]? = some (up.die 1) ∧ [0, 143] ≠ [] ∧ [0, 143].length ≤ 8 ∧ (∀ e ∈ [0, 143], e <
      144)) ∧
    (DieUp auditEntries11.hub 0 ∧ auditEntries11.hub.dies[0]? = some auditEntries12 ∧ auditEntries13 ≠ [] ∧
      auditEntries13.length ≤ 8 ∧ (∀ e ∈ auditEntries13, e < 144)) ∧
    (((st up).hub.nDies ≤ 2 ∨ [0] = [] ∨ 8 < [0].length ∨ ∃ e ∈ [0], 144 ≤ e)) ∧
    (((st up).hub.nDies ≤ 0 ∨ [144] = [] ∨ 8 < [144].length ∨ ∃ e ∈ [144], 144 ≤ e)) := by
  and_intros <;> first | decide +kernel | (unfold Shaped; decide +kernel) | (unfold DieUp Shaped; decide +kernel)

/-- Obligations.AuditComparisons. -/
theorem witness_AuditComparisons :
    (Shaped auditComparisons1.hub ∧ auditComparisons1.hub.chans[0]? = some auditComparisons2 ∧ auditComparisons2.auditWait =
      [wait0 1024000] ∧ auditComparisons2.lastK = some 1 ∧ 1 < (wait0 1024000).ta / auditComparisons2.desc.rawPeriod + 1) ∧
    (Shaped auditComparisons3.hub ∧ auditComparisons3.hub.chans[0]? = some auditComparisons4 ∧ auditComparisons4.auditWait =
      [wait0 1024000] ∧ (∀ (k : ℕ), auditComparisons4.lastK = some k → (wait0 1024000).ta / auditComparisons4.desc.rawPeriod + 1
      ≤ k)) ∧
    (Shaped (st up).hub ∧ (st up).hub.dies[0]? = some (up.die 0) ∧ (up.die 0).audit.retired = false ∧ (up.die 0).inService =
      true ∧ (up.die 0).audit.serving = false ∧ ((up.die 0).audit.running = false ∨ (up.die 0).audit.entry.isSome = true ∨
      (up.die 0).audit.paused = true)) ∧
    (Shaped auditComparisons5.hub ∧ auditComparisons5.hub.dies[0]? = some auditComparisons6 ∧ auditComparisons6.audit.retired =
      false ∧ auditComparisons6.inService = true ∧ auditComparisons6.audit.serving = false ∧ auditComparisons6.audit.running =
      true ∧ auditComparisons6.audit.entry = none ∧ auditComparisons6.audit.paused = false ∧ auditComparisons5.hub.pwr.st =
      PowerState.doze) ∧
    (Shaped auditComparisons7.hub ∧ auditComparisons7.hub.dies[0]? = some auditComparisons6 ∧ auditComparisons6.audit.retired =
      false ∧ auditComparisons6.inService = true ∧ auditComparisons6.audit.serving = false ∧ auditComparisons6.audit.running =
      true ∧ auditComparisons6.audit.entry = none ∧ auditComparisons6.audit.paused = false ∧ auditComparisons7.hub.pwr.st ≠
      PowerState.doze) ∧
    (NamedUp (st up).hub [0, 1] ∧ badAudCfg 4130 = false) ∧
    (NamedUp (st up).hub [1] ∧ badAudCfg 4386 = true) ∧
    (Named (st up).hub [1]) ∧
    (255 < (st up).hub.nChans ∧ 1 ≤ 128 ∧ 255 + 1 ≤ 128 * (255 / 128 + 1) ∧ (st up).hub.dieDown (255 / 128) = false) ∧
    (Shaped (redOn 5098).hub ∧ (redOn 5098).hub.chans[0]? = some auditComparisons8 ∧ auditComparisons8.red.block = some 5098 ∧
      ((redOn 5098).hub.tm.now - redStart auditComparisons8.red.cfg auditComparisons8.desc (5098 + 1)) * (srcPeriod 1
      auditComparisons8.desc).2 < 2 * (srcPeriod 1 auditComparisons8.desc).1) ∧
    (Shaped (redOn 5097).hub ∧ (redOn 5097).hub.chans[0]? = some auditComparisons9 ∧ auditComparisons9.red.block = some 5097 ∧
      2 * (srcPeriod 1 auditComparisons9.desc).1 ≤ ((redOn 5097).hub.tm.now - redStart auditComparisons9.red.cfg
      auditComparisons9.desc (5097 + 1)) * (srcPeriod 1 auditComparisons9.desc).2 ∧ auditComparisons9.desc.words = 1) ∧
    (Shaped red2.hub ∧ red2.hub.chans[0]? = some (red2.hub.ch 0) ∧ (red2.hub.ch 0).red.block = some 5097 ∧ 2 * (srcPeriod 1
      (red2.hub.ch 0).desc).1 ≤ (red2.hub.tm.now - redStart (red2.hub.ch 0).red.cfg (red2.hub.ch 0).desc (5097 + 1)) *
      (srcPeriod 1 (red2.hub.ch 0).desc).2 ∧ (red2.hub.ch 0).desc.words = 2) ∧
    (Shaped (redOn 5097).hub ∧ (redOn 5097).hub.chans[0]? = some auditComparisons9 ∧ auditComparisons9.red.block = some 5097 ∧
      2 * (srcPeriod 1 auditComparisons9.desc).1 ≤ ((redOn 5097).hub.tm.now - redStart auditComparisons9.red.cfg
      auditComparisons9.desc (5097 + 1)) * (srcPeriod 1 auditComparisons9.desc).2) ∧
    (((st up).hub.ch 255).red.block = none) := by
  and_intros <;> first
    | decide +kernel
    | (unfold Shaped; decide +kernel)
    | (unfold NamedUp Shaped; decide +kernel)
    | (unfold Named Shaped; decide +kernel)

/-- Obligations.DetectorAndTriggerRules. -/
theorem witness_DetectorAndTriggerRules :
    (sfld 5 23 0 ≤ 5) ∧
    (4 < sfld 5 23 0) ∧
    (3 ≤ sfld 5 23 0 - ↑(fld 2 23 0)) ∧
    (sfld 5 23 0 - ↑(fld 2 23 0) < 4) ∧
    ((thrStep 5 2 (some false) 5).2 = some true) ∧
    (detectorAndTriggerRules1.look (TrigUnit.clear 0 0) 1 5 = some detectorAndTriggerRules2 ∧ bitOf
      detectorAndTriggerRules1.trg 23 = false ∧ (TrigUnit.clear 0 0).readyLow = false ∧ (TrigUnit.clear 0 0).readyHigh = false) ∧
    (trigCh.look (TrigUnit.clear 0 0) 1 5 = some detectorAndTriggerRules2 ∧ bitOf trigCh.trg 23 = true ∧ fuUs - 1 <
      (TrigUnit.clear 0 0).since + fuUs) ∧
    (trigCh.look (TrigUnit.clear 0 0) 1 5 = some detectorAndTriggerRules2 ∧ bitOf trigCh.trg 23 = true ∧ (TrigUnit.clear 0
      0).since + fuUs ≤ fuUs ∧ detectorAndTriggerRules2.fire = true) ∧
    (detectorAndTriggerRules1.look detectorAndTriggerRules3 1 5 = some detectorAndTriggerRules2 ∧ bitOf
      detectorAndTriggerRules1.trg 23 = false ∧ (detectorAndTriggerRules3.readyLow = true ∨ detectorAndTriggerRules3.readyHigh =
      true) ∧ detectorAndTriggerRules2.fire = true) ∧
    (detectorAndTriggerRules1.look detectorAndTriggerRules4 1 5 = some detectorAndTriggerRules2 ∧ bitOf
      detectorAndTriggerRules1.trg 23 = false ∧ detectorAndTriggerRules4.readyLow = false ∧ detectorAndTriggerRules4.readyHigh =
      false ∧ detectorAndTriggerRules2.fire = true ∧ detectorAndTriggerRules4.prevFire = false) ∧
    (detectorAndTriggerRules1.look (TrigUnit.clear 0 0) 1 5 = some detectorAndTriggerRules2 ∧ bitOf
      detectorAndTriggerRules1.trg 23 = false ∧ (TrigUnit.clear 0 0).readyLow = false ∧ (TrigUnit.clear 0 0).readyHigh = false ∧
      detectorAndTriggerRules2.fire = true ∧ (TrigUnit.clear 0 0).prevFire = true) := by
  and_intros <;> decide +kernel

/-- Obligations.TriggerSettings. -/
theorem witness_TriggerSettings :
    (7 < 8 ∧ onlyBits 3221225472 3765436671 = true ∧ fld 3221225472 30 29 ≠ 3 ∧ DieUp (st up).hub (pinDie 7)) ∧
    ((8 ≤ 8 ∨ onlyBits 0 3765436671 = false ∨ fld 0 30 29 = 3)) ∧
    ((8 ≤ 7 ∨ onlyBits 3758096384 3765436671 = false ∨ fld 3758096384 30 29 = 3)) ∧
    ((st up).hub.trg.pins[7]? = some idlePin ∧ 7 < 8 ∧ DieUp (st up).hub (pinDie 7)) ∧
    (15 < 16 ∧ 255 < 256 ∧ 1 ≤ 1 ∧ 1 ≤ 1000000 ∧ 4000 ≤ 4000 ∧ 4000 ≤ 10000000 ∧ onlyBits 0 7340287 = true ∧ (∀ c ∈ [255], c <
      (st up).hub.nChans ∧ (st up).hub.dieDown (chDie c) = false)) ∧
    (10 ≤ 10 ∧ 10 ≤ 10000 ∧ (∀ g ∈ [255], g < 256)) ∧
    (10 ≤ 10000 ∧ 10000 ≤ 10000 ∧ (∀ g ∈ [255], g < 256)) ∧
    ((∀ g ∈ [255], g < 256)) ∧
    ((9 ≠ 0 ∧ 9 < 10 ∨ 10000 < 9 ∨ ∃ g ∈ [0], 256 ≤ g)) ∧
    ((0 ≠ 0 ∧ 0 < 10 ∨ 10000 < 0 ∨ ∃ g ∈ [256], 256 ≤ g)) ∧
    (1 ≠ 0) := by
  and_intros <;> first | decide +kernel | (unfold DieUp Shaped; decide +kernel)

/-- Obligations.TriggerPins. -/
theorem witness_TriggerPins :
    ((st up).hub.trg.pins[0]? = some idlePin ∧ 0 < 8 ∧ ((st up).hub.die (pinDie 0)).faulted = false ∧ idlePin.level = false ∧
      (st up).hub.vio (0 / 4) = true ∧ 8 < 9) ∧
    ((st up).hub.trg.pins[0]? = some idlePin ∧ 0 < 8 ∧ ((st up).hub.die (pinDie 0)).faulted = false ∧ idlePin.level = false ∧
      (st up).hub.vio (0 / 4) = true ∧ 9 ≤ 9 ∧ (bitOf idlePin.cfg 31 && (fld idlePin.cfg 30 29 == 2 || (fld idlePin.cfg 30 29 ==
      1) == false)) = false) ∧
    (triggerPins1.hub.trg.pins[0]? = some triggerPins2 ∧ 0 < 8 ∧ (triggerPins1.hub.die (pinDie 0)).faulted = false ∧
      triggerPins2.level = false ∧ triggerPins1.hub.vio (0 / 4) = true ∧ 9 ≤ 9 ∧ (bitOf triggerPins2.cfg 31 && (fld
      triggerPins2.cfg 30 29 == 2 || (fld triggerPins2.cfg 30 29 == 1) == false)) = true ∧ triggerPins2.last = some (up.tm.now -
      1024000) ∧ (triggerPins1.hub.tm.now / 1024 - (9 - 1)) * 1024 < up.tm.now - 1024000 + fuUs) ∧
    (triggerPins3.hub.trg.pins[0]? = some triggerPins4 ∧ 0 < 8 ∧ (triggerPins3.hub.die (pinDie 0)).faulted = false ∧
      triggerPins4.level = false ∧ triggerPins3.hub.vio (0 / 4) = true ∧ 9 ≤ 9 ∧ (bitOf triggerPins4.cfg 31 && (fld
      triggerPins4.cfg 30 29 == 2 || (fld triggerPins4.cfg 30 29 == 1) == false)) = true ∧ (∀ (t0 : ℕ), triggerPins4.last = some
      t0 → t0 + fuUs ≤ (triggerPins3.hub.tm.now / 1024 - (9 - 1)) * 1024)) := by
  and_intros <;> decide +kernel

/-- Obligations.KonGroups. -/
theorem witness_KonGroups :
    (konGroups1.hub.trg.kons[0]? = some konGroups2 ∧ konGroups2.next = some konGroups3 ∧ konGroups1.hub.tm.now <
      konGroups3.stamp + konGroups2.lat * 1024) ∧
    (konGroups4.hub.trg.kons[0]? = some konGroups5 ∧ konGroups5.next = some (ev 1 10) ∧ (ev 1 10).stamp + konGroups5.lat * 1024
      ≤ konGroups4.hub.tm.now ∧ (ev 1 10).stamp < konGroups5.readyAt) ∧
    (konGroups6.hub.trg.kons[0]? = some konGroups7 ∧ konGroups7.next = some (ev 1 10) ∧ (ev 1 10).stamp + konGroups7.lat * 1024
      ≤ konGroups6.hub.tm.now ∧ konGroups7.readyAt ≤ (ev 1 10).stamp ∧ (List.map KonEvent.member
      ({ member := (ev 1 10).member, stamp := (ev 1 10).stamp, evaluated := true } :: List.filter (fun x => x.evaluated)
      (List.filter (fun x => !x.evaluated || decide ((ev 1 10).stamp ≤ x.stamp + konGroups7.win * 1024)) (List.filter (fun x =>
      x != ev 1 10) konGroups7.events)))).eraseDups.length < konGroups7.k) ∧
    (konGroups8.hub.trg.kons[0]? = some konGroups9 ∧ konGroups9.next = some (ev 1 10) ∧ (ev 1 10).stamp + konGroups9.lat * 1024
      ≤ konGroups8.hub.tm.now ∧ konGroups9.readyAt ≤ (ev 1 10).stamp ∧ konGroups9.k ≤ (List.map KonEvent.member
      ({ member := (ev 1 10).member, stamp := (ev 1 10).stamp, evaluated := true } :: List.filter (fun x => x.evaluated)
      (List.filter (fun x => !x.evaluated || decide ((ev 1 10).stamp ≤ x.stamp + konGroups9.win * 1024)) (List.filter (fun x =>
      x != ev 1 10) konGroups9.events)))).eraseDups.length) := by
  and_intros <;> decide +kernel

/-- Obligations.Captures. -/
theorem witness_Captures :
    (Shaped (st up).hub ∧ (st up).hub.badCap cap = false ∧ (∀ d ∈ cap.port / 4 :: List.map chDie (cap.channels ++ cap.units),
      (st up).hub.dieDown d = false) ∧ (st up).hub.capConflict cap = [] ∧ (st up).hub.capOver ((st up).hub.capInstall cap) cap =
      []) ∧
    ((31 < captures1.capture ∨ captures1.len < 16 ∨ 65536 < captures1.len ∨ 6 < captures1.decE ∨ 100 < captures1.prePct ∨
      captures1.channels = [] ∨ ∃ c ∈ captures1.channels, (st up).hub.nChans ≤ c)) ∧
    ((st up).hub.badCap captures1 = true) ∧
    ((capSt cap0).hub.badCap cap = false ∧ (∀ d ∈ cap.port / 4 :: List.map chDie (cap.channels ++ cap.units), (capSt
      cap0).hub.dieDown d = false) ∧ (((capSt cap0).hub.cap cap.capture).isSome = true ∨ (capSt cap0).hub.capConflict cap ≠ [])) ∧
    ((partSt 201326592 id).hub.badCap cap = false ∧ (∀ d ∈ cap.port / 4 :: List.map chDie (cap.channels ++ cap.units), (partSt
      201326592 id).hub.dieDown d = false) ∧ (partSt 201326592 id).hub.capConflict cap = [] ∧ (partSt 201326592 id).hub.capOver
      ((partSt 201326592 id).hub.capInstall cap) cap ≠ []) ∧
    ((st die1gone).hub.badCap captures2 = false ∧ (∃ d ∈ captures2.port / 4 :: List.map chDie (captures2.channels ++
      captures2.units), (st die1gone).hub.dieDown d = true)) := by
  and_intros <;> first | decide +kernel | (unfold Shaped; decide +kernel)

/-- Obligations.CaptureStops. -/
theorem witness_CaptureStops :
    ((st up).hub.cap 31 = none) ∧
    ((capSt cap0).hub.caps[31]? = some (some cap0) ∧ (∀ d ∈ cap0.dieList, (capSt cap0).hub.dieDown d = false) ∧ cap0.train =
      none) ∧
    (captureStops1.hub.caps[31]? = some (some captureStops2) ∧ (∀ d ∈ captureStops2.dieList, captureStops1.hub.dieDown d =
      false) ∧ captureStops2.train = some train0) ∧
    ((capSt cap0).hub.cap 31 = some cap0 ∧ cap0.params.opts % 2 = 0) ∧
    (captureStops3.hub.cap 31 = some captureStops4 ∧ captureStops4.params.opts % 2 = 1) := by
  and_intros <;> decide +kernel

/-- Obligations.CaptureReadsAndStore. -/
theorem witness_CaptureReadsAndStore :
    (31 ≤ 31 ∧ (st up).hub.cap 31 = none) ∧
    (31 < 32) ∧
    (31 ≤ 31 ∧ (capSt cap0).hub.cap 31 = some cap0) ∧
    (Named (st up).hub [0, 1]) ∧
    (Named (st up).hub [0, 1]) ∧
    (Named (st up).hub [0, 1] ∧ (st up).hub.badQuery qAny = false ∧ (qAny.ch = 65535 ∨ (st up).hub.dieDown (chDie qAny.ch) =
      false)) ∧
    (Named (st up).hub [0, 1] ∧ (st up).hub.badQuery captureReadsAndStore1 = true ∧ (captureReadsAndStore1.ch < (st
      up).hub.nChans → (st up).hub.dieDown (chDie captureReadsAndStore1.ch) = false)) ∧
    (captureReadsAndStore2.ch < (st die1gone).hub.nChans ∧ (st die1gone).hub.dieDown (chDie captureReadsAndStore2.ch) = true) ∧
    (Served (st up).hub [255] ∧ (st up).hub.chans[255]? = some (up.ch 255)) ∧
    ((st up).hub.nChans ≤ 256) ∧
    (NamedUp (st up).hub [0] ∧ (∀ d ∈ (st up).hub.named [0], (st up).hub.partCheck 50331802 d = none)) ∧
    (NamedUp (st up).hub [0] ∧ (∃ d ∈ (st up).hub.named [0], (st up).hub.partCheck 4026531840 d ≠ none)) ∧
    (NamedUp (st up).hub [0] ∧ 1 ≤ fld 1684210177 23 16 ∧ fld 1684210177 23 16 < fld 1684210177 31 24 ∧ fld 1684210177 31 24 ≤
      100 ∧ 1 ≤ fld 1684210177 7 0 ∧ fld 1684210177 7 0 < fld 1684210177 15 8 ∧ fld 1684210177 15 8 ≤ 100) ∧
    (NamedUp (st up).hub [0] ∧ (fld 16843265 23 16 = 0 ∨ fld 16843265 31 24 ≤ fld 16843265 23 16 ∨ 100 < fld 16843265 31 24 ∨
      fld 16843265 7 0 = 0 ∨ fld 16843265 15 8 ≤ fld 16843265 7 0 ∨ 100 < fld 16843265 15 8)) ∧
    (Served (st up).hub [0] ∧ (∀ c ∈ [0], ((st up).hub.ch c).latest.badRed 2147493648 = false) ∧ (∀ c ∈ [0], ¬loadAbove (((st
      up).hub.ch c).latest.load ((st up).hub.ch c).skimEn 2147493648 ((st up).hub.capSrc c)) 900 = true)) ∧
    (Served (st up).hub [0] ∧ (∃ c ∈ [0], ((st up).hub.ch c).latest.badRed 2147483648 = true)) ∧
    (Served tooHeavy.hub [0] ∧ (∀ c ∈ [0], (tooHeavy.hub.ch c).latest.badRed 2147483748 = false) ∧ (∃ c ∈ [0], loadAbove
      ((tooHeavy.hub.ch c).latest.load (tooHeavy.hub.ch c).skimEn 2147483748 (tooHeavy.hub.capSrc c)) 900 = true)) ∧
    ((∃ d ∈ (st up).hub.named [2], (st up).hub.nDies ≤ d) ∧ Instr.capPartGet [2] ∈ [Instr.capPartSet [2] 0, Instr.capPartGet
      [2], Instr.capWmSet [2] 0, Instr.capWmGet [2]]) ∧
    ((¬∃ d ∈ (st die1gone).hub.named [1], (st die1gone).hub.nDies ≤ d) ∧ (∃ d ∈ (st die1gone).hub.named [1], (st
      die1gone).hub.dieDown d = true)) ∧
    ((¬∃ d ∈ (st die1gone).hub.named [1], (st die1gone).hub.nDies ≤ d) ∧ (∃ d ∈ (st die1gone).hub.named [1], ((st
      die1gone).hub.die d).inService = false)) ∧
    (qAny.ch = 65535 ∧ (∃ d ∈ (st up).hub.named [2], (st up).hub.nDies ≤ d)) ∧
    (qAny.ch = 65535 ∧ (¬∃ d ∈ (st die1gone).hub.named [0, 1], (st die1gone).hub.nDies ≤ d) ∧ (∃ d ∈ (st die1gone).hub.named
      [0, 1], ((st die1gone).hub.die d).inService = false)) := by
  and_intros <;> first
    | decide +kernel
    | (unfold Served Shaped; decide +kernel)
    | (unfold NamedUp Shaped; decide +kernel)
    | (unfold Named Shaped; decide +kernel)

/-- Obligations.Coaches. -/
theorem witness_Coaches :
    ((coachSt CoachState.ready).hub.findCoach (BitVec.toNat (5 : Word)) = some ((0 : ℕ), coach CoachState.ready) ∧ DieUp
      (coachSt CoachState.ready).hub 0 ∧ ((coach CoachState.ready).st = CoachState.ready ∨ (coach CoachState.ready).st =
      CoachState.sending) ∧ 4080 ≤ 4080) ∧
    ((coachSt CoachState.ready).hub.findCoach (BitVec.toNat (5 : Word)) = some ((0 : ℕ), coach CoachState.ready) ∧ DieUp
      (coachSt CoachState.ready).hub 0 ∧ ((coach CoachState.ready).st = CoachState.ready ∨ (coach CoachState.ready).st =
      CoachState.sending) ∧ 4072 ≤ 4072) ∧
    ((coachSt CoachState.filling).hub.findCoach (BitVec.toNat (5 : Word)) = some ((0 : ℕ), coach CoachState.filling) ∧ DieUp
      (coachSt CoachState.filling).hub 0 ∧ (coach CoachState.filling).st = CoachState.filling ∧ 0 ≤ 1 ∧ 4080 ≤ if 0 = 1 then
      4072 else 4080) ∧
    ((coachSt CoachState.free).hub.findCoach (BitVec.toNat (5 : Word)) = some ((0 : ℕ), coach CoachState.free) ∧ DieUp (coachSt
      CoachState.free).hub 0 ∧ (coach CoachState.free).st = CoachState.free ∧ 0 ≤ 1 ∧ 4080 ≤ if 0 = 1 then 4072 else 4080) ∧
    ((coachSt CoachState.ready).hub.findCoach (BitVec.toNat (5 : Word)) = some ((0 : ℕ), coach CoachState.ready) ∧ DieUp
      (coachSt CoachState.ready).hub 0 ∧ (1 < 1 ∨ (if 1 = 1 then 4072 else 4080) < 4073)) ∧
    ((coachSt CoachState.ready).hub.findCoach (BitVec.toNat (5 : Word)) = some ((0 : ℕ), coach CoachState.ready) ∧ DieUp
      (coachSt CoachState.ready).hub 0 ∧ (1 < 2 ∨ (if 2 = 1 then 4072 else 4080) < 0)) ∧
    ((st up).hub.findCoach (BitVec.toNat (5 : Word)) = none) ∧
    ((st up).hub.allCoaches [5] = none) ∧
    ((coachSt CoachState.ready).hub.allCoaches [5] = some [(0, coach CoachState.ready)] ∧ (∀ p ∈ [(0, coach CoachState.ready)],
      DieUp (coachSt CoachState.ready).hub p.1) ∧ (∀ p ∈ [(0, coach CoachState.ready)], p.2.st = CoachState.ready ∧ ¬(coachSt
      CoachState.ready).hub.inJob (Coach.id p.1 p.2) = true)) ∧
    ((coachSt CoachState.filling).hub.allCoaches [5] = some [(0, coach CoachState.filling)] ∧ (∀ p ∈ [(0, coach
      CoachState.filling)], DieUp (coachSt CoachState.filling).hub p.1) ∧ (∃ p ∈ [(0, coach CoachState.filling)], p.2.st =
      CoachState.filling)) ∧
    ((inJobSt CoachState.ready).hub.allCoaches [5] = some [(0, coach CoachState.ready)] ∧ (∀ p ∈ [(0, coach CoachState.ready)],
      DieUp (inJobSt CoachState.ready).hub p.1) ∧ (∀ p ∈ [(0, coach CoachState.ready)], p.2.st ≠ CoachState.filling) ∧ (∃ p ∈
      [(0, coach CoachState.ready)], (inJobSt CoachState.ready).hub.inJob (Coach.id p.1 p.2) = true)) ∧
    ((coachSt CoachState.sending).hub.allCoaches [5] = some [(0, coach CoachState.sending)] ∧ (∀ p ∈ [(0, coach
      CoachState.sending)], DieUp (coachSt CoachState.sending).hub p.1) ∧ (∀ p ∈ [(0, coach CoachState.sending)], p.2.st ≠
      CoachState.filling ∧ ¬(coachSt CoachState.sending).hub.inJob (Coach.id p.1 p.2) = true) ∧ (∃ p ∈ [(0, coach
      CoachState.sending)], p.2.st = CoachState.sending)) ∧
    ((coachSt CoachState.ready).hub.allCoaches [5] = some [(0, coach CoachState.ready)] ∧ (∀ p ∈ [(0, coach CoachState.ready)],
      DieUp (coachSt CoachState.ready).hub p.1) ∧ (∀ p ∈ [(0, coach CoachState.ready)], p.2.st = CoachState.ready)) ∧
    ((coachSt CoachState.filling).hub.allCoaches [5] = some [(0, coach CoachState.filling)] ∧ (∀ p ∈ [(0, coach
      CoachState.filling)], DieUp (coachSt CoachState.filling).hub p.1) ∧ (∃ p ∈ [(0, coach CoachState.filling)], p.2.st ≠
      CoachState.ready)) := by
  and_intros <;> first | decide +kernel | (unfold DieUp Shaped; decide +kernel)

/-- Obligations.ChurnSettings. -/
theorem witness_ChurnSettings :
    (Served (st up).hub [255] ∧ 0 ≤ 1 ∧ 4 ≤ 4 ∧ 4 ≠ 0 ∧ (∀ c ∈ [255], ((st up).hub.ch c).use (0 == 0) = none ∧ (0 = 1 → ((st
      up).hub.ch c).latest.words ≠ 2) ∧ ((st up).hub.die (chDie c)).store.churnBytes ≠ 0 ∧ (forAll [255] (Hub.churnMode (0 == 0)
      4) (st up).hub).churnRoom (chDie c) = true ∧ ∀ e < 4, churnFits ((forAll [255] (Hub.churnMode (0 == 0) 4) (st
      up).hub).churnLoad (chDie c) e) = true) ∧ (0 = 0 → ((forAll [255] (Hub.churnMode (0 == 0) 4) (st up).hub).rawPlan (forAll
      [255] (Hub.churnMode (0 == 0) 4) (st up).hub).rawUp (forAll [255] (Hub.churnMode (0 == 0) 4) (st
      up).hub).rawFlows.length).isSome = true)) ∧
    (Served (st up).hub [0] ∧ 1 ≤ 1 ∧ 1 ≤ 4 ∧ 1 ≠ 0 ∧ (∀ c ∈ [0], ((st up).hub.ch c).use (1 == 0) = none ∧ (1 = 1 → ((st
      up).hub.ch c).latest.words ≠ 2) ∧ ((st up).hub.die (chDie c)).store.churnBytes ≠ 0 ∧ (forAll [0] (Hub.churnMode (1 == 0)
      1) (st up).hub).churnRoom (chDie c) = true ∧ ∀ e < 4, churnFits ((forAll [0] (Hub.churnMode (1 == 0) 1) (st
      up).hub).churnLoad (chDie c) e) = true) ∧ (1 = 0 → ((forAll [0] (Hub.churnMode (1 == 0) 1) (st up).hub).rawPlan (forAll
      [0] (Hub.churnMode (1 == 0) 1) (st up).hub).rawUp (forAll [0] (Hub.churnMode (1 == 0) 1) (st
      up).hub).rawFlows.length).isSome = true)) ∧
    (Served churnSettings1.hub [0] ∧ 0 ≤ 1 ∧ 0 ≤ 4 ∧ (0 = 0 → ((forAll [0] (Hub.churnMode (0 == 0) 0)
      churnSettings1.hub).rawPlan (forAll [0] (Hub.churnMode (0 == 0) 0) churnSettings1.hub).rawUp (forAll [0] (Hub.churnMode (0
      == 0) 0) churnSettings1.hub).rawFlows.length).isSome = true)) ∧
    (Served (st up).hub [0] ∧ 1 ≤ 1 ∧ 0 ≤ 4 ∧ (1 = 0 → ((forAll [0] (Hub.churnMode (1 == 0) 0) (st up).hub).rawPlan (forAll [0]
      (Hub.churnMode (1 == 0) 0) (st up).hub).rawUp (forAll [0] (Hub.churnMode (1 == 0) 0) (st up).hub).rawFlows.length).isSome
      = true)) ∧
    (Served (partSt 50331648 id).hub [0] ∧ 0 ≤ 1 ∧ 1 ≤ 4 ∧ 1 ≠ 0 ∧ (∃ c ∈ [0], 0 = 1 ∧ ((partSt 50331648 id).hub.ch
      c).latest.words = 2 ∨ ((partSt 50331648 id).hub.die (chDie c)).store.churnBytes = 0)) ∧
    (Served (partSt 50331649 id).hub [0, 1, 2] ∧ 0 ≤ 1 ∧ 1 ≤ 4 ∧ 1 ≠ 0 ∧ (∀ c ∈ [0, 1, 2], (0 = 1 → ((partSt 50331649
      id).hub.ch c).latest.words ≠ 2) ∧ ((partSt 50331649 id).hub.die (chDie c)).store.churnBytes ≠ 0) ∧ (∃ c ∈ [0, 1, 2],
      (forAll [0, 1, 2] (Hub.churnMode (0 == 0) 1) (partSt 50331649 id).hub).churnRoom (chDie c) = false ∨ ∃ e < 4, churnFits
      ((forAll [0, 1, 2] (Hub.churnMode (0 == 0) 1) (partSt 50331649 id).hub).churnLoad (chDie c) e) = false)) ∧
    ((1 < 2 ∨ 4 < 0 ∨ [0] = [] ∨ ∃ c ∈ [0], (st up).hub.nChans ≤ c)) ∧
    ((1 < 0 ∨ 4 < 5 ∨ [0] = [] ∨ ∃ c ∈ [0], (st up).hub.nChans ≤ c)) ∧
    (NamedUp (st up).hub [0, 1] ∧ onlyBits 1 1 = true) ∧
    (NamedUp (st up).hub [1] ∧ (st up).hub.named [1] ≠ [] ∧ onlyBits 2 1 = false) ∧
    (Named (st up).hub [0, 1]) := by
  and_intros <;> first
    | decide +kernel
    | (unfold Served Shaped; decide +kernel)
    | (unfold NamedUp Shaped; decide +kernel)
    | (unfold Named Shaped; decide +kernel)

/-- Obligations.ChurnStates. -/
theorem witness_ChurnStates :
    (Served (churned cuse).hub [0] ∧ 0 ≤ 1 ∧ ((churned cuse).hub.ch 0).use (0 == 0) = some cuse ∧ ((churned cuse).hub.newState
      (chDie 0) 0 [] false).1.churnRoom (chDie 0) = true) ∧
    (Served churnStates1.hub [0] ∧ 0 ≤ 1 ∧ (churnStates1.hub.ch 0).use (0 == 0) = some cuse ∧ (churnStates1.hub.newState (chDie
      0) 0 [] false).1.churnRoom (chDie 0) = false) ∧
    (Served (st up).hub [0] ∧ ((st up).hub.ch 0).use (1 == 0) = none) ∧
    ((savedSt sv).hub.findState 1 = some sv ∧ 1 ≠ 65535 ∧ sv.complete = true ∧ 4080 ≤ 4080) ∧
    (churnStates2.hub.findState 1 = some churnStates3 ∧ 1 ≠ 65535 ∧ churnStates3.complete = false ∧ 4080 ≤ 4080) ∧
    ((savedSt sv).hub.findState 1 = some sv ∧ 1 ≠ 65535 ∧ 4080 < 4081) ∧
    ((savedSt sv).hub.findState 1 = some sv ∧ 1 ≠ 65535 ∧ sv.complete = true ∧ (List.replicate 8 0).length ≤ 4072 ∧ 8216 +
      (List.replicate 8 0).length ≤ stateBytes (sv.use' == 0)) ∧
    ((savedSt sv).hub.findState 1 = some sv ∧ 1 ≠ 65535 ∧ (4072 < (List.replicate 8 0).length ∨ stateBytes (sv.use' == 0) <
      8217 + (List.replicate 8 0).length)) ∧
    ((savedSt sv).hub.findState 1 = some sv ∧ 1 ≠ 65535 ∧ (4072 < List.length churnStates4 ∨ stateBytes (sv.use' == 0) < 0 +
      List.length churnStates4)) ∧
    (churnStates5.hub.findState 1 = some churnStates6 ∧ 1 ≠ 65535 ∧ Served churnStates5.hub [0] ∧ 0 ≤ 1 ∧ (churnStates5.hub.ch
      0).use (0 == 0) = some cuse) ∧
    ((savedSt sv).hub.findState 1 = some sv ∧ 1 ≠ 65535) ∧
    ((savedSt sv).hub.findState 2 = none ∧ 2 ≠ 65535) ∧
    ((savedSt sv).hub.findState 2 = none ∧ 2 ≠ 65535) ∧
    ((savedSt sv).hub.findState 2 = none ∧ 2 ≠ 65535 ∧ Served (savedSt sv).hub [0] ∧ 1 ≤ 1) ∧
    ((savedSt sv).hub.findState 2 = none ∧ 2 ≠ 65535) ∧
    (0 ≤ 1 ∧ [0].length ≤ 4072 ∧ 0 + [0].length ≤ stateBytes (0 == 0) ∧ (∃ d < (st up).hub.nDies, (st up).hub.dieDown d = false
      ∧ ((st up).hub.newState d 0 [] true).1.churnRoom d = true)) ∧
    (1 ≤ 1 ∧ [0].length ≤ 4072 ∧ 0 + [0].length ≤ stateBytes (1 == 0) ∧ (∀ d < (partSt 50331648 id).hub.nDies, (partSt 50331648
      id).hub.dieDown d = false → ((partSt 50331648 id).hub.newState d 1 [] true).1.churnRoom d = false)) ∧
    (Shaped churnStates7.hub ∧ 0 < churnStates7.hub.nChans ∧ (churnStates7.hub.ch 0).use (0 == 0) = some churnStates8 ∧
      churnStates8.block ≠ []) ∧
    (Shaped churnStates9.hub ∧ 0 < churnStates9.hub.nChans ∧ (churnStates9.hub.ch 0).use (0 == 0) = some churnStates10 ∧
      churnStates10.block = [] ∧ 1 ∈ churnStates10.save ∧ churnStates3 ∈ churnStates9.hub.saved ∧ churnStates3.handle = 1) ∧
    ((coachSt CoachState.ready).hub.findCoach (BitVec.toNat (5 : Word)) = some ((0 : ℕ), coach CoachState.ready) ∧ DieUp
      (coachSt CoachState.ready).hub 0 ∧ (coach CoachState.ready).st = CoachState.ready ∧ (1 = 0 ∧ (coach
      CoachState.ready).churn = 0 ∧ 1 ≤ 0 ∧ 0 ≤ 4 ∧ (coach CoachState.ready).twoWord = false ∨ 1 = 1 ∧ (coach
      CoachState.ready).churn ≠ 0) ∧ 1024 ≤ 1024 ∧ 1024 ≤ 1048576 ∧ ((coachSt CoachState.ready).hub.die 0).store.churnBytes ≠ 0
      ∧ (coachSt CoachState.ready).hub.jobs.length < 8 ∧ (coachSt CoachState.ready).hub.churnUsed 0 + 1024 ≤ ((coachSt
      CoachState.ready).hub.die 0).store.churnBytes) ∧
    (plainCoachSt.hub.findCoach (BitVec.toNat (5 : Word)) = some ((0 : ℕ), plainCoach) ∧ DieUp plainCoachSt.hub 0 ∧
      plainCoach.st = CoachState.ready ∧ (0 = 0 ∧ plainCoach.churn = 0 ∧ 1 ≤ 1 ∧ 1 ≤ 4 ∧ plainCoach.twoWord = false ∨ 0 = 1 ∧
      plainCoach.churn ≠ 0) ∧ 1024 ≤ 1024 ∧ 1024 ≤ 1048576 ∧ (plainCoachSt.hub.die 0).store.churnBytes ≠ 0 ∧
      plainCoachSt.hub.jobs.length < 8 ∧ plainCoachSt.hub.churnUsed 0 + 1024 ≤ (plainCoachSt.hub.die 0).store.churnBytes) ∧
    (plainCoachSt.hub.findCoach (BitVec.toNat (5 : Word)) = some ((0 : ℕ), plainCoach) ∧ DieUp plainCoachSt.hub 0 ∧
      plainCoach.st = CoachState.ready ∧ (0 = 0 ∧ plainCoach.churn = 0 ∧ 1 ≤ 4 ∧ 4 ≤ 4 ∧ plainCoach.twoWord = false ∨ 0 = 1 ∧
      plainCoach.churn ≠ 0) ∧ 1024 ≤ 1048576 ∧ 1048576 ≤ 1048576 ∧ (plainCoachSt.hub.die 0).store.churnBytes ≠ 0 ∧
      plainCoachSt.hub.jobs.length < 8 ∧ plainCoachSt.hub.churnUsed 0 + 1048576 ≤ (plainCoachSt.hub.die 0).store.churnBytes) ∧
    ((coachSt CoachState.ready).hub.findCoach (BitVec.toNat (5 : Word)) = some ((0 : ℕ), coach CoachState.ready) ∧ DieUp
      (coachSt CoachState.ready).hub 0 ∧ (coach CoachState.ready).st ≠ CoachState.free ∧ (1 < 2 ∨ (coach CoachState.ready).st ≠
      CoachState.ready ∨ 1024 < 1024 ∨ 1048576 < 1024 ∨ 2 = 0 ∧ ((coach CoachState.ready).churn ≠ 0 ∨ 1 = 0 ∨ 4 < 1 ∨ (coach
      CoachState.ready).twoWord = true) ∨ 2 = 1 ∧ (coach CoachState.ready).churn = 0)) ∧
    ((coachSt CoachState.ready).hub.findCoach (BitVec.toNat (5 : Word)) = some ((0 : ℕ), coach CoachState.ready) ∧ DieUp
      (coachSt CoachState.ready).hub 0 ∧ (coach CoachState.ready).st ≠ CoachState.free ∧ (1 < 0 ∨ (coach CoachState.ready).st ≠
      CoachState.ready ∨ 1023 < 1024 ∨ 1048576 < 1023 ∨ 0 = 0 ∧ ((coach CoachState.ready).churn ≠ 0 ∨ 1 = 0 ∨ 4 < 1 ∨ (coach
      CoachState.ready).twoWord = true) ∨ 0 = 1 ∧ (coach CoachState.ready).churn = 0)) ∧
    ((jobSt 0).hub.findJob 1 = some (job1 0) ∧ 4064 ≤ 4064 ∧ (job1 0).st ≠ 3) ∧
    (churnStates11.hub.findJob 1 = some job3 ∧ 4064 ≤ 4064 ∧ job3.st = 3 ∧ job3.fail = some (1, 2, 3)) ∧
    ((jobSt 1).hub.findJob 1 = some (job1 1) ∧ (job1 1).st = 1 ∧ 1024 ≤ 1024 ∧ 1024 ≤ 1048576 ∧ ((jobSt 1).hub.setJob 1 fun k
      =>
      { job := k.job, die := k.die, coach := k.coach, bufsz := 1024, todo := k.todo, fail := k.fail, buf := [], used := k.used, st := 0, stoppedAt := k.stoppedAt }).churnRoom
      (job1 1).die = true) ∧
    (churnStates12.hub.findJob 1 = some (job1 1) ∧ (job1 1).st = 1 ∧ 1024 ≤ 1048576 ∧ 1048576 ≤ 1048576 ∧
      (churnStates12.hub.setJob 1 fun k =>
      { job := k.job, die := k.die, coach := k.coach, bufsz := 1048576, todo := k.todo, fail := k.fail, buf := [], used := k.used, st := 0, stoppedAt := k.stoppedAt }).churnRoom
      (job1 1).die = false) ∧
    ((jobSt 0).hub.findJob 1 = some (job1 0) ∧ ((job1 0).st ≠ 1 ∨ 1024 < 1024 ∨ 1048576 < 1024)) ∧
    ((jobSt 0).hub.findJob 1 = some (job1 0)) ∧
    (churnStates13.hub.findJob 1 = some (job1 1) ∧ (job1 1).st = 1 ∧ (job1 1).stoppedAt + 600000000000 ≤
      churnStates13.hub.clk.elapsed) ∧
    ((jobSt 1).hub.findJob 1 = some (job1 1) ∧ ((job1 1).st ≠ 1 ∨ (jobSt 1).hub.clk.elapsed < (job1 1).stoppedAt +
      600000000000)) ∧
    ((jobSt 0).hub.findJob 1 = some (job1 0) ∧ (job1 0).st = 0) ∧
    ((jobSt 1).hub.findJob 1 = some (job1 1) ∧ (job1 1).st ≠ 0) ∧
    ((st up).hub.findJob 1 = none) := by
  and_intros <;> first
    | decide +kernel
    | (unfold Served Shaped; decide +kernel)
    | (unfold Shaped; decide +kernel)
    | (unfold DieUp Shaped; decide +kernel)
    | rfl
    | exact List.mem_singleton.2 rfl

/-- Obligations.SeparatorSettings. -/
theorem witness_SeparatorSettings :
    ((st up).hub.badSepCfg 1073741887 1250 3500 65535 = false ∧ bitOf 1073741887 31 = bitOf (st up).hub.sep.ctl 31) ∧
    (separatorSettings1.hub.badSepCfg 1073741824 12500 3500 0 = false ∧ bitOf 1073741824 31 = false ∧ bitOf
      separatorSettings1.hub.sep.ctl 31 = true) ∧
    ((st up).hub.badSepCfg 2147483648 125000000 3500 0 = false ∧ bitOf 2147483648 31 = true ∧ bitOf (st up).hub.sep.ctl 31 =
      false) ∧
    (separatorSettings1.hub.badSepCfg 2147483648 1250 3500 0 = true) ∧
    (bitOf separatorSettings1.hub.sep.ctl 31 = true ∧ (1250 ≠ separatorSettings1.hub.sep.tick ∨ fld 2147483648 5 0 ≠ fld
      separatorSettings1.hub.sep.ctl 5 0)) ∧
    (bitOf separatorSettings1.hub.sep.ctl 31 = true ∧ (12500 ≠ separatorSettings1.hub.sep.tick ∨ fld 2147483649 5 0 ≠ fld
      separatorSettings1.hub.sep.ctl 5 0)) ∧
    (NamedUp (st up).hub [0] ∧ (∀ d ∈ (st up).hub.named [0], (st up).hub.loadCheck 1 (SepLoadOp.header 16 1 []) d = none)) ∧
    (NamedUp (st up).hub [0] ∧ (∃ d ∈ (st up).hub.named [0], (st up).hub.loadCheck 6 (SepLoadOp.header 16 1 []) d ≠ none)) ∧
    (NamedUp separatorSettings2.hub [0] ∧ (∀ d ∈ separatorSettings2.hub.named [0], separatorSettings2.hub.switchCheck 0 none d
      = none)) ∧
    (NamedUp (st up).hub [0] ∧ (∃ d ∈ (st up).hub.named [0], (st up).hub.switchCheck 0 none d ≠ none)) ∧
    (((st up).hub.die 0).sep.shadow.complete = false) ∧
    (Named (st up).hub [0, 1]) ∧
    ((∃ d ∈ (st up).hub.named [2], (st up).hub.nDies ≤ d) ∧ Instr.sepStatus [2] ∈ [Instr.sepLoad [2] 0 (SepLoadOp.header 16 1
      []), Instr.sepSwitch [2] 0, Instr.sepStatus [2]]) ∧
    ((∀ d ∈ (st die1gone).hub.named [1], d < (st die1gone).hub.nDies) ∧ (∃ d ∈ (st die1gone).hub.named [1], (st
      die1gone).hub.dieDown d = true) ∧ Instr.sepSwitch [1] 0 ∈ [Instr.sepLoad [1] 0 (SepLoadOp.header 16 1 []), Instr.sepSwitch
      [1] 0]) := by
  and_intros <;> first | decide +kernel | (unfold NamedUp Shaped; decide +kernel) | (unfold Named Shaped; decide +kernel)

/-- Obligations.FramePasses. -/
theorem witness_FramePasses :
    ((framePasses1.contrib ||| framePasses1.notLocked) &&& BitVec.ofNat 64 (2 ^ 5) ≠ 0) ∧
    ((frame.contrib ||| frame.notLocked) &&& BitVec.ofNat 64 (2 ^ 63) = 0 ∧ some (tk true) = some (tk true) ∧ (tk true).ready =
      true) ∧
    ((frame.contrib ||| frame.notLocked) &&& BitVec.ofNat 64 (2 ^ 63) = 0 ∧ some (tk true) = some (tk true) ∧ (tk true).ready =
      true) ∧
    ((frame.contrib ||| frame.notLocked) &&& BitVec.ofNat 64 (2 ^ 63) = 0 ∧ some (tk true) = some (tk true) ∧ (tk true).ready =
      true) ∧
    ((frame.contrib ||| frame.notLocked) &&& BitVec.ofNat 64 (2 ^ 63) = 0 ∧ some (tk true) = some (tk true) ∧ (tk true).ready =
      true) ∧
    ((frame.contrib ||| frame.notLocked) &&& BitVec.ofNat 64 (2 ^ 63) = 0 ∧ some (tk true) = some (tk true) ∧ (tk true).ready =
      true) ∧
    ((frame.contrib ||| frame.notLocked) &&& BitVec.ofNat 64 (2 ^ 63) = 0 ∧ some (tk true) = some (tk true) ∧ (tk true).ready =
      true) ∧
    ((frame.contrib ||| frame.notLocked) &&& BitVec.ofNat 64 (2 ^ 63) = 0 ∧ some (tk true) = some (tk true) ∧ (tk true).ready =
      true) ∧
    ((frame.contrib ||| frame.notLocked) &&& BitVec.ofNat 64 (2 ^ 63) = 0 ∧ some (tk true) = some (tk true) ∧ (tk true).ready =
      true) ∧
    ((frame.contrib ||| frame.notLocked) &&& BitVec.ofNat 64 (2 ^ 63) = 0 ∧ some (tk true) = some (tk true) ∧ (tk true).ready =
      true) ∧
    ((frame.contrib ||| frame.notLocked) &&& BitVec.ofNat 64 (2 ^ 63) = 0 ∧ some (tk true) = some (tk true) ∧ (tk true).ready =
      true) ∧
    ((frame.contrib ||| frame.notLocked) &&& BitVec.ofNat 64 (2 ^ 63) = 0 ∧ some (tk true) = some (tk true) ∧ (tk true).ready =
      true ∧ frame.sums[15]? = some 0) ∧
    ((frame.contrib ||| frame.notLocked) &&& BitVec.ofNat 64 (2 ^ 63) = 0 ∧ (∀ (r : SepTick), some (tk false) = some r →
      r.ready = false)) := by
  and_intros <;> decide +kernel

/-- Obligations.ModalTicks. -/
theorem witness_ModalTicks :
    (Option.map SepTick.j modalTicks1.hub.sep.ticks.head? = some (modalTicks1.hub.tm.now / modalTicks1.hub.sep.tickFu)) ∧
    (Option.map SepTick.j (st up).hub.sep.ticks.head? ≠ some ((st up).hub.tm.now / (st up).hub.sep.tickFu)) ∧
    (((st up).hub.sep.en (st up).hub.tm.now = false ∨ ∀ r ∈ (st up).hub.sep.ticks, (!r.sent && !r.orig && (st up).hub.sep.en
      (r.j * (st up).hub.sep.tickFu) && decide ((st up).hub.sep.deadline (r.j * (st up).hub.sep.tickFu) < (st up).hub.tm.now)) =
      false)) ∧
    ((tick5 id).hub.sep.en (tick5 id).hub.tm.now = true ∧ (tick5 id).hub.sep.ticks = [] ++ [tk true] ∧ (!(tk true).sent && !(tk
      true).orig && (tick5 id).hub.sep.en ((tk true).j * (tick5 id).hub.sep.tickFu) && decide ((tick5 id).hub.sep.deadline ((tk
      true).j * (tick5 id).hub.sep.tickFu) < (tick5 id).hub.tm.now)) = true ∧ (∀ q ∈ [], (!SepTick.sent q && !SepTick.orig q &&
      Sep.en (Hub.sep (State.hub (tick5 id))) (SepTick.j q * Sep.tickFu (Hub.sep (State.hub (tick5 id)))) && decide
      (Sep.deadline (Hub.sep (State.hub (tick5 id))) (SepTick.j q * Sep.tickFu (Hub.sep (State.hub (tick5 id)))) < Tm.now
      (Hub.tm (State.hub (tick5 id))))) = false) ∧ 0 < BitVec.toNat (tick5 id).hub.sep.tick) := by
  and_intros <;> decide +kernel

/-- Obligations.StreamEnables. -/
theorem witness_StreamEnables :
    ((1 < 0 ∨ 1 < 1 ∨ [256] = [] ∨ ∃ c ∈ [256], (st up).hub.nChans ≤ c)) ∧
    (0 ≤ 1 ∧ 1 ≤ 1 ∧ (∀ c ∈ [0, 128], c < (st die1gone).hub.nChans) ∧ (∃ c ∈ [0, 128], (st die1gone).hub.dieDown (chDie c) =
      true)) ∧
    (Served (st up).hub [0, 255] ∧ (∀ c ∈ [0, 255], ¬(((st up).hub.ch c).skimEn = false ∧ loadAbove (((st up).hub.ch
      c).latest.load true ((st up).hub.ch c).latestRed ((st up).hub.capSrc c)) 900 = true))) ∧
    (Served tooHeavy.hub [0] ∧ (∃ c ∈ [0], (tooHeavy.hub.ch c).skimEn = false ∧ loadAbove ((tooHeavy.hub.ch c).latest.load true
      (tooHeavy.hub.ch c).latestRed (tooHeavy.hub.capSrc c)) 900 = true)) ∧
    (Served (st up).hub [0, 255] ∧ (∀ c ∈ [0, 255], (st up).hub.skimUsed c = false)) ∧
    (Served rep0.hub [0] ∧ (∃ c ∈ [0], rep0.hub.skimUsed c = true)) ∧
    (Served (st rawPort).hub [0] ∧
      { ident := (st rawPort).hub.ident, clk := (st rawPort).hub.clk, tm := (st rawPort).hub.tm, chans := modAll (st rawPort).hub.chans [0] fun x x_1 => { desc := x_1.desc, writes := x_1.writes, held := x_1.held, shadow := x_1.shadow, acc := x_1.acc, accAt := x_1.accAt, accSet := x_1.accSet, accWas := x_1.accWas, syncs := x_1.syncs, rampFrom := x_1.rampFrom, rampTo := x_1.rampTo, rampAt := x_1.rampAt, driveOff := x_1.driveOff, driveChanged := x_1.driveChanged, excOl := x_1.excOl, clamped := x_1.clamped, clampEnd := x_1.clampEnd, clampAt := x_1.clampAt, clampPrev := x_1.clampPrev, cmSeen := x_1.cmSeen, pinRead := x_1.pinRead, pinOver := x_1.pinOver, cmMv := x_1.cmMv, clampNew := x_1.clampNew, clampCount := x_1.clampCount, cmCount := x_1.cmCount, cm := x_1.cm, cmIn := x_1.cmIn, lastK := x_1.lastK, lastAt := x_1.lastAt, orTail := x_1.orTail, lastOr := x_1.lastOr, hist := x_1.hist, unsettled := x_1.unsettled, stages := x_1.stages, switch := x_1.switch, switched := x_1.switched, trial := x_1.trial, fade := x_1.fade, stLeft := x_1.stLeft, rawStLeft := x_1.rawStLeft, orLeft := x_1.orLeft, clLeft := x_1.clLeft, cmLeft := x_1.cmLeft, adLeft := x_1.adLeft, lastJ := x_1.lastJ, skimWait := x_1.skimWait, skim0 := x_1.skim0, skim1 := x_1.skim1, skimFlags := x_1.skimFlags, skims := x_1.skims, lastRaw := x_1.lastRaw, uc := x_1.uc, corr := x_1.corr, corrNow := x_1.corrNow, audit := x_1.audit, auditWait := x_1.auditWait, detA := x_1.detA, detB := x_1.detB, thr0 := x_1.thr0, thr1 := x_1.thr1, trig := x_1.trig, red := x_1.red, skimEn := x_1.skimEn, rawEn := true, skimBuilt := x_1.skimBuilt, skimStop := x_1.skimStop, skimStart := x_1.skimStart, rateDue := x_1.rateDue, churnRaw := x_1.churnRaw, churnSkim := x_1.churnSkim, churnCap := x_1.churnCap, retired := x_1.retired, autoTried := x_1.autoTried, clearSince := x_1.clearSince, win := x_1.win, selfTestFails := x_1.selfTestFails, spare := x_1.spare, stopped := x_1.stopped, qResult := x_1.qResult, qElements := x_1.qElements, qGain := x_1.qGain, qCause := x_1.qCause, qPhRes := x_1.qPhRes, qGainRes := x_1.qGainRes, qOfsRes := x_1.qOfsRes, qAmpRes := x_1.qAmpRes, qStamp := x_1.qStamp, calSkip := x_1.calSkip, meas := x_1.meas, matrix := x_1.matrix : Chan }, octs := (st rawPort).hub.octs, reps := (st rawPort).hub.reps, dies := (st rawPort).hub.dies, trg := (st rawPort).hub.trg, caps := (st rawPort).hub.caps, nextTrain := (st rawPort).hub.nextTrain, saved := (st rawPort).hub.saved, jobs := (st rawPort).hub.jobs, nextHandle := (st rawPort).hub.nextHandle, nextJob := (st rawPort).hub.nextJob, flows := (st rawPort).hub.flows, strm := (st rawPort).hub.strm, hk := (st rawPort).hub.hk, sep := (st rawPort).hub.sep, ports := (st rawPort).hub.ports, enm := (st rawPort).hub.enm, mgmt := (st rawPort).hub.mgmt, dbw := (st rawPort).hub.dbw, fseal := (st rawPort).hub.fseal, flt := (st rawPort).hub.flt, cal := (st rawPort).hub.cal, pwr := (st rawPort).hub.pwr, pmbus := (st rawPort).hub.pmbus, boot := (st rawPort).hub.boot, flash := (st rawPort).hub.flash, tag := (st rawPort).hub.tag, tap := (st rawPort).hub.tap, fresh := (st rawPort).hub.fresh : Hub }.rawSameN
      = true ∧
      ({ ident := (st rawPort).hub.ident, clk := (st rawPort).hub.clk, tm := (st rawPort).hub.tm, chans := modAll (st rawPort).hub.chans [0] fun x x_1 => { desc := x_1.desc, writes := x_1.writes, held := x_1.held, shadow := x_1.shadow, acc := x_1.acc, accAt := x_1.accAt, accSet := x_1.accSet, accWas := x_1.accWas, syncs := x_1.syncs, rampFrom := x_1.rampFrom, rampTo := x_1.rampTo, rampAt := x_1.rampAt, driveOff := x_1.driveOff, driveChanged := x_1.driveChanged, excOl := x_1.excOl, clamped := x_1.clamped, clampEnd := x_1.clampEnd, clampAt := x_1.clampAt, clampPrev := x_1.clampPrev, cmSeen := x_1.cmSeen, pinRead := x_1.pinRead, pinOver := x_1.pinOver, cmMv := x_1.cmMv, clampNew := x_1.clampNew, clampCount := x_1.clampCount, cmCount := x_1.cmCount, cm := x_1.cm, cmIn := x_1.cmIn, lastK := x_1.lastK, lastAt := x_1.lastAt, orTail := x_1.orTail, lastOr := x_1.lastOr, hist := x_1.hist, unsettled := x_1.unsettled, stages := x_1.stages, switch := x_1.switch, switched := x_1.switched, trial := x_1.trial, fade := x_1.fade, stLeft := x_1.stLeft, rawStLeft := x_1.rawStLeft, orLeft := x_1.orLeft, clLeft := x_1.clLeft, cmLeft := x_1.cmLeft, adLeft := x_1.adLeft, lastJ := x_1.lastJ, skimWait := x_1.skimWait, skim0 := x_1.skim0, skim1 := x_1.skim1, skimFlags := x_1.skimFlags, skims := x_1.skims, lastRaw := x_1.lastRaw, uc := x_1.uc, corr := x_1.corr, corrNow := x_1.corrNow, audit := x_1.audit, auditWait := x_1.auditWait, detA := x_1.detA, detB := x_1.detB, thr0 := x_1.thr0, thr1 := x_1.thr1, trig := x_1.trig, red := x_1.red, skimEn := x_1.skimEn, rawEn := true, skimBuilt := x_1.skimBuilt, skimStop := x_1.skimStop, skimStart := x_1.skimStart, rateDue := x_1.rateDue, churnRaw := x_1.churnRaw, churnSkim := x_1.churnSkim, churnCap := x_1.churnCap, retired := x_1.retired, autoTried := x_1.autoTried, clearSince := x_1.clearSince, win := x_1.win, selfTestFails := x_1.selfTestFails, spare := x_1.spare, stopped := x_1.stopped, qResult := x_1.qResult, qElements := x_1.qElements, qGain := x_1.qGain, qCause := x_1.qCause, qPhRes := x_1.qPhRes, qGainRes := x_1.qGainRes, qOfsRes := x_1.qOfsRes, qAmpRes := x_1.qAmpRes, qStamp := x_1.qStamp, calSkip := x_1.calSkip, meas := x_1.meas, matrix := x_1.matrix : Chan }, octs := (st rawPort).hub.octs, reps := (st rawPort).hub.reps, dies := (st rawPort).hub.dies, trg := (st rawPort).hub.trg, caps := (st rawPort).hub.caps, nextTrain := (st rawPort).hub.nextTrain, saved := (st rawPort).hub.saved, jobs := (st rawPort).hub.jobs, nextHandle := (st rawPort).hub.nextHandle, nextJob := (st rawPort).hub.nextJob, flows := (st rawPort).hub.flows, strm := (st rawPort).hub.strm, hk := (st rawPort).hub.hk, sep := (st rawPort).hub.sep, ports := (st rawPort).hub.ports, enm := (st rawPort).hub.enm, mgmt := (st rawPort).hub.mgmt, dbw := (st rawPort).hub.dbw, fseal := (st rawPort).hub.fseal, flt := (st rawPort).hub.flt, cal := (st rawPort).hub.cal, pwr := (st rawPort).hub.pwr, pmbus := (st rawPort).hub.pmbus, boot := (st rawPort).hub.boot, flash := (st rawPort).hub.flash, tag := (st rawPort).hub.tag, tap := (st rawPort).hub.tap, fresh := (st rawPort).hub.fresh : Hub }.rawPlan
      (st rawPort).hub.rawUp
      { ident := (st rawPort).hub.ident, clk := (st rawPort).hub.clk, tm := (st rawPort).hub.tm, chans := modAll (st rawPort).hub.chans [0] fun x x_1 => { desc := x_1.desc, writes := x_1.writes, held := x_1.held, shadow := x_1.shadow, acc := x_1.acc, accAt := x_1.accAt, accSet := x_1.accSet, accWas := x_1.accWas, syncs := x_1.syncs, rampFrom := x_1.rampFrom, rampTo := x_1.rampTo, rampAt := x_1.rampAt, driveOff := x_1.driveOff, driveChanged := x_1.driveChanged, excOl := x_1.excOl, clamped := x_1.clamped, clampEnd := x_1.clampEnd, clampAt := x_1.clampAt, clampPrev := x_1.clampPrev, cmSeen := x_1.cmSeen, pinRead := x_1.pinRead, pinOver := x_1.pinOver, cmMv := x_1.cmMv, clampNew := x_1.clampNew, clampCount := x_1.clampCount, cmCount := x_1.cmCount, cm := x_1.cm, cmIn := x_1.cmIn, lastK := x_1.lastK, lastAt := x_1.lastAt, orTail := x_1.orTail, lastOr := x_1.lastOr, hist := x_1.hist, unsettled := x_1.unsettled, stages := x_1.stages, switch := x_1.switch, switched := x_1.switched, trial := x_1.trial, fade := x_1.fade, stLeft := x_1.stLeft, rawStLeft := x_1.rawStLeft, orLeft := x_1.orLeft, clLeft := x_1.clLeft, cmLeft := x_1.cmLeft, adLeft := x_1.adLeft, lastJ := x_1.lastJ, skimWait := x_1.skimWait, skim0 := x_1.skim0, skim1 := x_1.skim1, skimFlags := x_1.skimFlags, skims := x_1.skims, lastRaw := x_1.lastRaw, uc := x_1.uc, corr := x_1.corr, corrNow := x_1.corrNow, audit := x_1.audit, auditWait := x_1.auditWait, detA := x_1.detA, detB := x_1.detB, thr0 := x_1.thr0, thr1 := x_1.thr1, trig := x_1.trig, red := x_1.red, skimEn := x_1.skimEn, rawEn := true, skimBuilt := x_1.skimBuilt, skimStop := x_1.skimStop, skimStart := x_1.skimStart, rateDue := x_1.rateDue, churnRaw := x_1.churnRaw, churnSkim := x_1.churnSkim, churnCap := x_1.churnCap, retired := x_1.retired, autoTried := x_1.autoTried, clearSince := x_1.clearSince, win := x_1.win, selfTestFails := x_1.selfTestFails, spare := x_1.spare, stopped := x_1.stopped, qResult := x_1.qResult, qElements := x_1.qElements, qGain := x_1.qGain, qCause := x_1.qCause, qPhRes := x_1.qPhRes, qGainRes := x_1.qGainRes, qOfsRes := x_1.qOfsRes, qAmpRes := x_1.qAmpRes, qStamp := x_1.qStamp, calSkip := x_1.calSkip, meas := x_1.meas, matrix := x_1.matrix : Chan }, octs := (st rawPort).hub.octs, reps := (st rawPort).hub.reps, dies := (st rawPort).hub.dies, trg := (st rawPort).hub.trg, caps := (st rawPort).hub.caps, nextTrain := (st rawPort).hub.nextTrain, saved := (st rawPort).hub.saved, jobs := (st rawPort).hub.jobs, nextHandle := (st rawPort).hub.nextHandle, nextJob := (st rawPort).hub.nextJob, flows := (st rawPort).hub.flows, strm := (st rawPort).hub.strm, hk := (st rawPort).hub.hk, sep := (st rawPort).hub.sep, ports := (st rawPort).hub.ports, enm := (st rawPort).hub.enm, mgmt := (st rawPort).hub.mgmt, dbw := (st rawPort).hub.dbw, fseal := (st rawPort).hub.fseal, flt := (st rawPort).hub.flt, cal := (st rawPort).hub.cal, pwr := (st rawPort).hub.pwr, pmbus := (st rawPort).hub.pmbus, boot := (st rawPort).hub.boot, flash := (st rawPort).hub.flash, tag := (st rawPort).hub.tag, tap := (st rawPort).hub.tap, fresh := (st rawPort).hub.fresh : Hub }.rawFlows.length).isSome
      = true) ∧
    (Served twoN.hub [0, 1] ∧
      { ident := twoN.hub.ident, clk := twoN.hub.clk, tm := twoN.hub.tm, chans := modAll twoN.hub.chans [0, 1] fun x x_1 => { desc := x_1.desc, writes := x_1.writes, held := x_1.held, shadow := x_1.shadow, acc := x_1.acc, accAt := x_1.accAt, accSet := x_1.accSet, accWas := x_1.accWas, syncs := x_1.syncs, rampFrom := x_1.rampFrom, rampTo := x_1.rampTo, rampAt := x_1.rampAt, driveOff := x_1.driveOff, driveChanged := x_1.driveChanged, excOl := x_1.excOl, clamped := x_1.clamped, clampEnd := x_1.clampEnd, clampAt := x_1.clampAt, clampPrev := x_1.clampPrev, cmSeen := x_1.cmSeen, pinRead := x_1.pinRead, pinOver := x_1.pinOver, cmMv := x_1.cmMv, clampNew := x_1.clampNew, clampCount := x_1.clampCount, cmCount := x_1.cmCount, cm := x_1.cm, cmIn := x_1.cmIn, lastK := x_1.lastK, lastAt := x_1.lastAt, orTail := x_1.orTail, lastOr := x_1.lastOr, hist := x_1.hist, unsettled := x_1.unsettled, stages := x_1.stages, switch := x_1.switch, switched := x_1.switched, trial := x_1.trial, fade := x_1.fade, stLeft := x_1.stLeft, rawStLeft := x_1.rawStLeft, orLeft := x_1.orLeft, clLeft := x_1.clLeft, cmLeft := x_1.cmLeft, adLeft := x_1.adLeft, lastJ := x_1.lastJ, skimWait := x_1.skimWait, skim0 := x_1.skim0, skim1 := x_1.skim1, skimFlags := x_1.skimFlags, skims := x_1.skims, lastRaw := x_1.lastRaw, uc := x_1.uc, corr := x_1.corr, corrNow := x_1.corrNow, audit := x_1.audit, auditWait := x_1.auditWait, detA := x_1.detA, detB := x_1.detB, thr0 := x_1.thr0, thr1 := x_1.thr1, trig := x_1.trig, red := x_1.red, skimEn := x_1.skimEn, rawEn := true, skimBuilt := x_1.skimBuilt, skimStop := x_1.skimStop, skimStart := x_1.skimStart, rateDue := x_1.rateDue, churnRaw := x_1.churnRaw, churnSkim := x_1.churnSkim, churnCap := x_1.churnCap, retired := x_1.retired, autoTried := x_1.autoTried, clearSince := x_1.clearSince, win := x_1.win, selfTestFails := x_1.selfTestFails, spare := x_1.spare, stopped := x_1.stopped, qResult := x_1.qResult, qElements := x_1.qElements, qGain := x_1.qGain, qCause := x_1.qCause, qPhRes := x_1.qPhRes, qGainRes := x_1.qGainRes, qOfsRes := x_1.qOfsRes, qAmpRes := x_1.qAmpRes, qStamp := x_1.qStamp, calSkip := x_1.calSkip, meas := x_1.meas, matrix := x_1.matrix : Chan }, octs := twoN.hub.octs, reps := twoN.hub.reps, dies := twoN.hub.dies, trg := twoN.hub.trg, caps := twoN.hub.caps, nextTrain := twoN.hub.nextTrain, saved := twoN.hub.saved, jobs := twoN.hub.jobs, nextHandle := twoN.hub.nextHandle, nextJob := twoN.hub.nextJob, flows := twoN.hub.flows, strm := twoN.hub.strm, hk := twoN.hub.hk, sep := twoN.hub.sep, ports := twoN.hub.ports, enm := twoN.hub.enm, mgmt := twoN.hub.mgmt, dbw := twoN.hub.dbw, fseal := twoN.hub.fseal, flt := twoN.hub.flt, cal := twoN.hub.cal, pwr := twoN.hub.pwr, pmbus := twoN.hub.pmbus, boot := twoN.hub.boot, flash := twoN.hub.flash, tag := twoN.hub.tag, tap := twoN.hub.tap, fresh := twoN.hub.fresh : Hub }.rawSameN
      = false) ∧
    (Served (st up).hub [0] ∧
      { ident := (st up).hub.ident, clk := (st up).hub.clk, tm := (st up).hub.tm, chans := modAll (st up).hub.chans [0] fun x x_1 => { desc := x_1.desc, writes := x_1.writes, held := x_1.held, shadow := x_1.shadow, acc := x_1.acc, accAt := x_1.accAt, accSet := x_1.accSet, accWas := x_1.accWas, syncs := x_1.syncs, rampFrom := x_1.rampFrom, rampTo := x_1.rampTo, rampAt := x_1.rampAt, driveOff := x_1.driveOff, driveChanged := x_1.driveChanged, excOl := x_1.excOl, clamped := x_1.clamped, clampEnd := x_1.clampEnd, clampAt := x_1.clampAt, clampPrev := x_1.clampPrev, cmSeen := x_1.cmSeen, pinRead := x_1.pinRead, pinOver := x_1.pinOver, cmMv := x_1.cmMv, clampNew := x_1.clampNew, clampCount := x_1.clampCount, cmCount := x_1.cmCount, cm := x_1.cm, cmIn := x_1.cmIn, lastK := x_1.lastK, lastAt := x_1.lastAt, orTail := x_1.orTail, lastOr := x_1.lastOr, hist := x_1.hist, unsettled := x_1.unsettled, stages := x_1.stages, switch := x_1.switch, switched := x_1.switched, trial := x_1.trial, fade := x_1.fade, stLeft := x_1.stLeft, rawStLeft := x_1.rawStLeft, orLeft := x_1.orLeft, clLeft := x_1.clLeft, cmLeft := x_1.cmLeft, adLeft := x_1.adLeft, lastJ := x_1.lastJ, skimWait := x_1.skimWait, skim0 := x_1.skim0, skim1 := x_1.skim1, skimFlags := x_1.skimFlags, skims := x_1.skims, lastRaw := x_1.lastRaw, uc := x_1.uc, corr := x_1.corr, corrNow := x_1.corrNow, audit := x_1.audit, auditWait := x_1.auditWait, detA := x_1.detA, detB := x_1.detB, thr0 := x_1.thr0, thr1 := x_1.thr1, trig := x_1.trig, red := x_1.red, skimEn := x_1.skimEn, rawEn := true, skimBuilt := x_1.skimBuilt, skimStop := x_1.skimStop, skimStart := x_1.skimStart, rateDue := x_1.rateDue, churnRaw := x_1.churnRaw, churnSkim := x_1.churnSkim, churnCap := x_1.churnCap, retired := x_1.retired, autoTried := x_1.autoTried, clearSince := x_1.clearSince, win := x_1.win, selfTestFails := x_1.selfTestFails, spare := x_1.spare, stopped := x_1.stopped, qResult := x_1.qResult, qElements := x_1.qElements, qGain := x_1.qGain, qCause := x_1.qCause, qPhRes := x_1.qPhRes, qGainRes := x_1.qGainRes, qOfsRes := x_1.qOfsRes, qAmpRes := x_1.qAmpRes, qStamp := x_1.qStamp, calSkip := x_1.calSkip, meas := x_1.meas, matrix := x_1.matrix : Chan }, octs := (st up).hub.octs, reps := (st up).hub.reps, dies := (st up).hub.dies, trg := (st up).hub.trg, caps := (st up).hub.caps, nextTrain := (st up).hub.nextTrain, saved := (st up).hub.saved, jobs := (st up).hub.jobs, nextHandle := (st up).hub.nextHandle, nextJob := (st up).hub.nextJob, flows := (st up).hub.flows, strm := (st up).hub.strm, hk := (st up).hub.hk, sep := (st up).hub.sep, ports := (st up).hub.ports, enm := (st up).hub.enm, mgmt := (st up).hub.mgmt, dbw := (st up).hub.dbw, fseal := (st up).hub.fseal, flt := (st up).hub.flt, cal := (st up).hub.cal, pwr := (st up).hub.pwr, pmbus := (st up).hub.pmbus, boot := (st up).hub.boot, flash := (st up).hub.flash, tag := (st up).hub.tag, tap := (st up).hub.tap, fresh := (st up).hub.fresh : Hub }.rawSameN
      = true ∧
      { ident := (st up).hub.ident, clk := (st up).hub.clk, tm := (st up).hub.tm, chans := modAll (st up).hub.chans [0] fun x x_1 => { desc := x_1.desc, writes := x_1.writes, held := x_1.held, shadow := x_1.shadow, acc := x_1.acc, accAt := x_1.accAt, accSet := x_1.accSet, accWas := x_1.accWas, syncs := x_1.syncs, rampFrom := x_1.rampFrom, rampTo := x_1.rampTo, rampAt := x_1.rampAt, driveOff := x_1.driveOff, driveChanged := x_1.driveChanged, excOl := x_1.excOl, clamped := x_1.clamped, clampEnd := x_1.clampEnd, clampAt := x_1.clampAt, clampPrev := x_1.clampPrev, cmSeen := x_1.cmSeen, pinRead := x_1.pinRead, pinOver := x_1.pinOver, cmMv := x_1.cmMv, clampNew := x_1.clampNew, clampCount := x_1.clampCount, cmCount := x_1.cmCount, cm := x_1.cm, cmIn := x_1.cmIn, lastK := x_1.lastK, lastAt := x_1.lastAt, orTail := x_1.orTail, lastOr := x_1.lastOr, hist := x_1.hist, unsettled := x_1.unsettled, stages := x_1.stages, switch := x_1.switch, switched := x_1.switched, trial := x_1.trial, fade := x_1.fade, stLeft := x_1.stLeft, rawStLeft := x_1.rawStLeft, orLeft := x_1.orLeft, clLeft := x_1.clLeft, cmLeft := x_1.cmLeft, adLeft := x_1.adLeft, lastJ := x_1.lastJ, skimWait := x_1.skimWait, skim0 := x_1.skim0, skim1 := x_1.skim1, skimFlags := x_1.skimFlags, skims := x_1.skims, lastRaw := x_1.lastRaw, uc := x_1.uc, corr := x_1.corr, corrNow := x_1.corrNow, audit := x_1.audit, auditWait := x_1.auditWait, detA := x_1.detA, detB := x_1.detB, thr0 := x_1.thr0, thr1 := x_1.thr1, trig := x_1.trig, red := x_1.red, skimEn := x_1.skimEn, rawEn := true, skimBuilt := x_1.skimBuilt, skimStop := x_1.skimStop, skimStart := x_1.skimStart, rateDue := x_1.rateDue, churnRaw := x_1.churnRaw, churnSkim := x_1.churnSkim, churnCap := x_1.churnCap, retired := x_1.retired, autoTried := x_1.autoTried, clearSince := x_1.clearSince, win := x_1.win, selfTestFails := x_1.selfTestFails, spare := x_1.spare, stopped := x_1.stopped, qResult := x_1.qResult, qElements := x_1.qElements, qGain := x_1.qGain, qCause := x_1.qCause, qPhRes := x_1.qPhRes, qGainRes := x_1.qGainRes, qOfsRes := x_1.qOfsRes, qAmpRes := x_1.qAmpRes, qStamp := x_1.qStamp, calSkip := x_1.calSkip, meas := x_1.meas, matrix := x_1.matrix : Chan }, octs := (st up).hub.octs, reps := (st up).hub.reps, dies := (st up).hub.dies, trg := (st up).hub.trg, caps := (st up).hub.caps, nextTrain := (st up).hub.nextTrain, saved := (st up).hub.saved, jobs := (st up).hub.jobs, nextHandle := (st up).hub.nextHandle, nextJob := (st up).hub.nextJob, flows := (st up).hub.flows, strm := (st up).hub.strm, hk := (st up).hub.hk, sep := (st up).hub.sep, ports := (st up).hub.ports, enm := (st up).hub.enm, mgmt := (st up).hub.mgmt, dbw := (st up).hub.dbw, fseal := (st up).hub.fseal, flt := (st up).hub.flt, cal := (st up).hub.cal, pwr := (st up).hub.pwr, pmbus := (st up).hub.pmbus, boot := (st up).hub.boot, flash := (st up).hub.flash, tag := (st up).hub.tag, tap := (st up).hub.tap, fresh := (st up).hub.fresh : Hub }.rawPlan
      (st up).hub.rawUp
      { ident := (st up).hub.ident, clk := (st up).hub.clk, tm := (st up).hub.tm, chans := modAll (st up).hub.chans [0] fun x x_1 => { desc := x_1.desc, writes := x_1.writes, held := x_1.held, shadow := x_1.shadow, acc := x_1.acc, accAt := x_1.accAt, accSet := x_1.accSet, accWas := x_1.accWas, syncs := x_1.syncs, rampFrom := x_1.rampFrom, rampTo := x_1.rampTo, rampAt := x_1.rampAt, driveOff := x_1.driveOff, driveChanged := x_1.driveChanged, excOl := x_1.excOl, clamped := x_1.clamped, clampEnd := x_1.clampEnd, clampAt := x_1.clampAt, clampPrev := x_1.clampPrev, cmSeen := x_1.cmSeen, pinRead := x_1.pinRead, pinOver := x_1.pinOver, cmMv := x_1.cmMv, clampNew := x_1.clampNew, clampCount := x_1.clampCount, cmCount := x_1.cmCount, cm := x_1.cm, cmIn := x_1.cmIn, lastK := x_1.lastK, lastAt := x_1.lastAt, orTail := x_1.orTail, lastOr := x_1.lastOr, hist := x_1.hist, unsettled := x_1.unsettled, stages := x_1.stages, switch := x_1.switch, switched := x_1.switched, trial := x_1.trial, fade := x_1.fade, stLeft := x_1.stLeft, rawStLeft := x_1.rawStLeft, orLeft := x_1.orLeft, clLeft := x_1.clLeft, cmLeft := x_1.cmLeft, adLeft := x_1.adLeft, lastJ := x_1.lastJ, skimWait := x_1.skimWait, skim0 := x_1.skim0, skim1 := x_1.skim1, skimFlags := x_1.skimFlags, skims := x_1.skims, lastRaw := x_1.lastRaw, uc := x_1.uc, corr := x_1.corr, corrNow := x_1.corrNow, audit := x_1.audit, auditWait := x_1.auditWait, detA := x_1.detA, detB := x_1.detB, thr0 := x_1.thr0, thr1 := x_1.thr1, trig := x_1.trig, red := x_1.red, skimEn := x_1.skimEn, rawEn := true, skimBuilt := x_1.skimBuilt, skimStop := x_1.skimStop, skimStart := x_1.skimStart, rateDue := x_1.rateDue, churnRaw := x_1.churnRaw, churnSkim := x_1.churnSkim, churnCap := x_1.churnCap, retired := x_1.retired, autoTried := x_1.autoTried, clearSince := x_1.clearSince, win := x_1.win, selfTestFails := x_1.selfTestFails, spare := x_1.spare, stopped := x_1.stopped, qResult := x_1.qResult, qElements := x_1.qElements, qGain := x_1.qGain, qCause := x_1.qCause, qPhRes := x_1.qPhRes, qGainRes := x_1.qGainRes, qOfsRes := x_1.qOfsRes, qAmpRes := x_1.qAmpRes, qStamp := x_1.qStamp, calSkip := x_1.calSkip, meas := x_1.meas, matrix := x_1.matrix : Chan }, octs := (st up).hub.octs, reps := (st up).hub.reps, dies := (st up).hub.dies, trg := (st up).hub.trg, caps := (st up).hub.caps, nextTrain := (st up).hub.nextTrain, saved := (st up).hub.saved, jobs := (st up).hub.jobs, nextHandle := (st up).hub.nextHandle, nextJob := (st up).hub.nextJob, flows := (st up).hub.flows, strm := (st up).hub.strm, hk := (st up).hub.hk, sep := (st up).hub.sep, ports := (st up).hub.ports, enm := (st up).hub.enm, mgmt := (st up).hub.mgmt, dbw := (st up).hub.dbw, fseal := (st up).hub.fseal, flt := (st up).hub.flt, cal := (st up).hub.cal, pwr := (st up).hub.pwr, pmbus := (st up).hub.pmbus, boot := (st up).hub.boot, flash := (st up).hub.flash, tag := (st up).hub.tag, tap := (st up).hub.tap, fresh := (st up).hub.fresh : Hub }.rawFlows.length
      = none) ∧
    (Served rawCh.hub [0]) ∧
    ((∃ a ∈ [0, 1], ∃ b ∈ [0, 1], chQuad a = chQuad b ∧ (twoN.hub.ch a).latest.nDiv ≠ (twoN.hub.ch b).latest.nDiv) ∧ Served
      twoN.hub [0, 1]) ∧
    (((st up).hub.flowOk (FlowKey.of 1024) = false ∨ 3 < (FlowKey.of 1024).kind ∨ 0 ≠ 254 ∧ 0 ≠ 0 ∧ (st up).hub.plainPort 0 =
      false)) ∧
    (((st up).hub.flowOk (FlowKey.of 0) = false ∨ 3 < (FlowKey.of 0).kind ∨ 1 ≠ 254 ∧ 1 ≠ 0 ∧ (st up).hub.plainPort 1 = false)) ∧
    ((st plainHub).hub.flowOk (FlowKey.of 768) = true ∧ (FlowKey.of 768).kind ≤ 3 ∧ 2 ≠ 254 ∧ (2 = 0 ∨ (st
      plainHub).hub.plainPort 2 = true) ∧ (st plainHub).hub.dieDown (2 / 4) = false) ∧
    ((st plain6).hub.flowOk (FlowKey.of 256) = true ∧ (FlowKey.of 256).kind ≤ 3 ∧ 6 ≠ 254 ∧ (6 = 0 ∨ (st plain6).hub.plainPort
      6 = true) ∧ (st plain6).hub.dieDown (6 / 4) = true) ∧
    ((st up).hub.flowOk (FlowKey.of 256) = true ∧ (FlowKey.of 256).kind ≤ 3 ∧ (st up).hub.strm.localFlow = none ∧ 256 ≠ 65535) ∧
    ((streamEnables1.hub.strm.localFlow.isSome = true ∨ streamEnables1.hub.flowOk (FlowKey.of 0) = false ∨ 3 < (FlowKey.of
      0).kind) ∧ 0 ≠ 65535) ∧
    ((st up).hub.strm.localFlow = none) ∧
    (streamEnables1.hub.strm.localFlow = some (FlowKey.of 256) ∧ streamEnables1.hub.findFlow (FlowKey.of 256) = some
      streamEnables2) := by
  and_intros <;> first | decide +kernel | (unfold Served Shaped; decide +kernel)

/-- Obligations.AcknowledgeAndSweep. -/
theorem witness_AcknowledgeAndSweep :
    ((acknowledgeAndSweep1 = [] ∨ 64 < acknowledgeAndSweep1.length ∨ ∃ x ∈ acknowledgeAndSweep1, 16 < x.naks.length ∨ (st
      up).hub.flowOk (FlowKey.of x.flow) = false)) ∧
    (Route.inband ≠ Route.hspi ∧ [ack0 256, ack0 0] ≠ [] ∧ [ack0 256, ack0 0].length ≤ 64 ∧ (∀ x ∈ [ack0 256, ack0 0],
      x.naks.length ≤ 16 ∧ (fl red0 id).hub.flowOk (FlowKey.of x.flow) = true)) ∧
    ((fl red0 id).hub.flowOk (FlowKey.of (ack0 256).flow) = true ∧ (ack0 256).naks.length ≤ 16 ∧ (fl red0 id).hub.findFlow
      (FlowKey.of (ack0 256).flow) = some acknowledgeAndSweep2) ∧
    ((1 < 2 ∨ [0] = [] ∨ ∃ x ∈ [0], (st up).hub.flowOk (FlowKey.of x) = false)) ∧
    (1 ≤ 1 ∧ [256, 0] ≠ [] ∧ (∀ x ∈ [256, 0], (fl red0 id).hub.flowOk (FlowKey.of x) = true)) ∧
    (0 ≤ 1 ∧ (st up).hub.flowOk (FlowKey.of 256) = true ∧ (st up).hub.findFlow (FlowKey.of 256) = some acknowledgeAndSweep3 ∧
      acknowledgeAndSweep3.started = false) ∧
    (0 ≤ 1 ∧ (fl red0 id).hub.flowOk (FlowKey.of 256) = true ∧ ((FlowKey.of 256).kind ≠ 0 ∧ (FlowKey.of 256).kind ≠ 5 ∨ 0 = 1)
      ∧ (fl red0 id).hub.findFlow (FlowKey.of 256) = some acknowledgeAndSweep2 ∧ acknowledgeAndSweep2.started = true ∧ (((fl
      red0 id).hub.die (FlowKey.of 256).die).store.spool = SpoolState.limit ∨ (fl red0 id).hub.spoolBytes (FlowKey.of 256).die <
      ((fl red0 id).hub.die (FlowKey.of 256).die).store.spoolPages * 16384 - 65536)) ∧
    (1 ≤ 1 ∧ (fl sk0 id).hub.flowOk (FlowKey.of 0) = true ∧ ((FlowKey.of 0).kind ≠ 0 ∧ (FlowKey.of 0).kind ≠ 5 ∨ 1 = 1) ∧ (fl
      sk0 id).hub.findFlow (FlowKey.of 0) = some acknowledgeAndSweep4 ∧ acknowledgeAndSweep4.started = true ∧ (((fl sk0
      id).hub.die (FlowKey.of 0).die).store.spool = SpoolState.limit ∨ (fl sk0 id).hub.spoolBytes (FlowKey.of 0).die < ((fl sk0
      id).hub.die (FlowKey.of 0).die).store.spoolPages * 16384 - 65536)) ∧
    ((fl sk0 id).hub.flowOk (FlowKey.of 0) = true ∧ ((FlowKey.of 0).kind = 0 ∨ (FlowKey.of 0).kind = 5) ∧ (fl sk0
      id).hub.findFlow (FlowKey.of 0) = some acknowledgeAndSweep4 ∧ acknowledgeAndSweep4.started = true) ∧
    ((st up).hub.findFlow (FlowKey.of 1024) = none) ∧
    ((st up).hub.findFlow (FlowKey.of 256) = some acknowledgeAndSweep3 ∧ acknowledgeAndSweep3.key.kind ≠ 0 ∧
      acknowledgeAndSweep3.key.kind ≠ 5) ∧
    ((fl sk0 id).hub.findFlow (FlowKey.of 0) = some acknowledgeAndSweep4 ∧ (acknowledgeAndSweep4.key.kind = 0 ∨
      acknowledgeAndSweep4.key.kind = 5) ∧ acknowledgeAndSweep4.started = true) ∧
    (unserved.hub.hspiOn = false) ∧
    (acknowledgeAndSweep5.hub.hspiOn = true ∧ acknowledgeAndSweep5.hub.strm.win.words = [7, 8]) ∧
    (acknowledgeAndSweep7.hub.hspiOn = true ∧ acknowledgeAndSweep7.hub.strm.win.words = [7] ∧
      acknowledgeAndSweep7.hub.strm.win.items = [] ∧ acknowledgeAndSweep7.hub.strm.localFlow = some (FlowKey.of 256) ∧
      acknowledgeAndSweep7.hub.findFlow (FlowKey.of 256) = some acknowledgeAndSweep8 ∧ acknowledgeAndSweep8.sending = some
      packet) ∧
    (acknowledgeAndSweep9.hub.hspiOn = true ∧ acknowledgeAndSweep9.hub.strm.win.words = [] ∧
      acknowledgeAndSweep9.hub.strm.win.items = [it]) ∧
    ((st up).hub.hspiOn = true ∧ (st up).hub.strm.win.words = [] ∧ (st up).hub.strm.win.items = [] ∧ (st up).hub.strm.localFlow
      = none) ∧
    (streamEnables1.hub.hspiOn = true ∧ streamEnables1.hub.strm.win.words = [] ∧ streamEnables1.hub.strm.win.items = [] ∧
      streamEnables1.hub.strm.localFlow = some (FlowKey.of 256) ∧ streamEnables1.hub.findFlow (FlowKey.of 256) = some
      streamEnables2 ∧ streamEnables2.sending = none ∧ streamEnables2.yoke ++ streamEnables2.backlog = []) ∧
    (acknowledgeAndSweep11.hub.hspiOn = true ∧ acknowledgeAndSweep11.hub.strm.win.words = [] ∧
      acknowledgeAndSweep11.hub.strm.win.items = [] ∧ acknowledgeAndSweep11.hub.strm.localFlow = some (FlowKey.of 256) ∧
      acknowledgeAndSweep11.hub.findFlow (FlowKey.of 256) = some acknowledgeAndSweep12 ∧ acknowledgeAndSweep12.sending = none ∧
      acknowledgeAndSweep12.yoke ++ acknowledgeAndSweep12.backlog = [packet] ∧ packet.items ≠ []) := by
  and_intros <;> decide +kernel

/-- Obligations.StreamSettings. -/
theorem witness_StreamSettings :
    (PortUp (st up).hub 7 ∧ 7 ≠ 254 ∧ 2 ≤ fld 131073 31 16 ∧ 1 ≤ fld 131073 15 0 ∧ fld 131073 15 0 < fld 131073 31 16) ∧
    (2 ≤ fld 131073 31 16 ∧ fld 131073 31 16 ≤ 32 ∧ 1 ≤ fld 131073 15 0 ∧ fld 131073 15 0 < fld 131073 31 16) ∧
    (((st up).hub.nPorts ≤ 254 ∧ 254 ≠ 254 ∨ fld 2162689 31 16 < 2 ∨ fld 2162689 15 0 < 1 ∨ fld 2162689 31 16 ≤ fld 2162689 15
      0 ∨ 254 = 254 ∧ 32 < fld 2162689 31 16)) ∧
    (((st up).hub.nPorts ≤ 8 ∧ 8 ≠ 254 ∨ fld 131073 31 16 < 2 ∨ fld 131073 15 0 < 1 ∨ fld 131073 31 16 ≤ fld 131073 15 0 ∨ 8 =
      254 ∧ 32 < fld 131073 31 16)) ∧
    (PortUp (st up).hub 7 ∧ 7 ≠ 254) ∧
    ((st up).hub.nPorts ≤ 8 ∧ 8 ≠ 254) ∧
    (7 < (st die1gone).hub.nPorts ∧ 7 ≠ 254 ∧ (st die1gone).hub.dieDown (7 / 4) = true) ∧
    (Shaped (st plainHub).hub ∧ 3 < 4 ∧ onlyBits 3758096386 3758096447 = true ∧ (bitOf 3758096386 5 = true ∨ (st
      plainHub).hub.plainPort (fld 3758096386 4 0) = true ∧ (st plainHub).hub.dieDown (fld 3758096386 4 0 / 4) = false)) ∧
    (Shaped (st plainHub).hub ∧ 3 < 4 ∧ onlyBits 32 3758096447 = true ∧ (bitOf 32 5 = true ∨ (st plainHub).hub.plainPort (fld
      32 4 0) = true ∧ (st plainHub).hub.dieDown (fld 32 4 0 / 4) = false)) ∧
    ((4 ≤ 0 ∨ onlyBits 2 3758096447 = false ∨ bitOf 2 5 = false ∧ (st up).hub.plainPort (fld 2 4 0) = false)) ∧
    (Named (st up).hub [1]) ∧
    (0 < xingSt.hub.nDies ∧ 10 < 11 ∧ (xingSt.hub.die 0).xing.getD 10 0 ≠ 0 ∧ (∀ (e i : ℕ), e < xingSt.hub.nDies → i < 11 → e ≠
      0 ∨ i ≠ 10 → (xingSt.hub.die e).xing.getD i 0 = 0)) ∧
    ((∀ (d i : ℕ), d < (st up).hub.nDies → i < 11 → ((st up).hub.die d).xing.getD i 0 = 0)) ∧
    (onlyBits 10 65535 = true ∧ 10 ≤ fld 10 15 0 ∧ fld 10 15 0 ≤ 10000) ∧
    (onlyBits 10000 65535 = true ∧ 10 ≤ fld 10000 15 0 ∧ fld 10000 15 0 ≤ 10000) ∧
    ((onlyBits 9 65535 = false ∨ fld 9 15 0 < 10 ∨ 10000 < fld 9 15 0)) := by
  and_intros <;> first
    | decide +kernel
    | (unfold Shaped; decide +kernel)
    | (unfold Named Shaped; decide +kernel)
    | (unfold PortUp Shaped; decide +kernel)
    | (intro e i he; revert i; revert he; revert e; decide +kernel)

/-- Obligations.RawGroup. -/
theorem witness_RawGroup :
    ((rawCh.hub.chans.any fun x => x.rawEn) = true) ∧
    (((st up).hub.chans.any fun x => x.rawEn) = false) ∧
    ((8 < [2].length ∨ ∃ i ∈ [2], (st up).hub.plainPort i = false ∨ fld ((st up).hub.prt i).cfg 22 18 ≠ fld ((st up).hub.prt
      ([2].headD 0)).cfg 22 18)) ∧
    ([2] ≠ [] ∧ [2].length ≤ 8 ∧ (∀ i ∈ [2], (st plainHub).hub.plainPort i = true ∧ fld ((st plainHub).hub.prt i).cfg 22 18 =
      fld ((st plainHub).hub.prt ([2].headD 0)).cfg 22 18) ∧ (∀ i ∈ [2], (st plainHub).hub.dieDown (i / 4) = false) ∧ ((st
      plainHub).hub.rawPlan [2] (st plainHub).hub.rawFlows.length).isSome = true) ∧
    ([2] ≠ [] ∧ [2].length ≤ 8 ∧ (∀ i ∈ [2], (st allRaw).hub.plainPort i = true ∧ fld ((st allRaw).hub.prt i).cfg 22 18 = fld
      ((st allRaw).hub.prt ([2].headD 0)).cfg 22 18) ∧ (∀ i ∈ [2], (st allRaw).hub.dieDown (i / 4) = false) ∧ (st
      allRaw).hub.rawPlan [2] (st allRaw).hub.rawFlows.length = none) ∧
    ([2, 6] ≠ [] ∧ [2, 6].length ≤ 8 ∧ (∀ i ∈ [2, 6], rawGroup1.hub.plainPort i = true ∧ fld (rawGroup1.hub.prt i).cfg 22 18 =
      fld (rawGroup1.hub.prt ([2, 6].headD 0)).cfg 22 18) ∧ (∃ i ∈ [2, 6], rawGroup1.hub.dieDown (i / 4) = true)) := by
  and_intros <;> decide +kernel

/-- Obligations.PortSettings. -/
theorem witness_PortSettings :
    ((st up).hub.nPorts ≤ 8 ∧ Instr.linkStatus 8 ∈ [Instr.linkCfgSet 8 0, Instr.linkCfgGet 8, Instr.linkStatus 8]) ∧
    (7 < (st die1gone).hub.nPorts ∧ (st die1gone).hub.dieDown (7 / 4) = true ∧ Instr.linkStatus 7 ∈ [Instr.linkCfgSet 7 0,
      Instr.linkCfgGet 7, Instr.linkStatus 7]) ∧
    (PortUp (st up).hub 0 ∧ (badLinkCfg 319226856 = true ∨ 0 < 2 ∧ (fld 319226856 31 30 = 0 ∨ fld 319226856 31 30 = 2) ∨ fld
      319226856 31 30 ≠ 2 ∧ (st up).hub.capNames 0 = true)) ∧
    (PortUp (st up).hub 7 ∧ (badLinkCfg 318768104 = true ∨ 7 < 2 ∧ (fld 318768104 31 30 = 0 ∨ fld 318768104 31 30 = 2) ∨ fld
      318768104 31 30 ≠ 2 ∧ (st up).hub.capNames 7 = true)) ∧
    (PortUp (sealedBy 2 id).hub 1 ∧ (¬(badLinkCfg 3540452328 = true ∨ 1 < 2 ∧ (fld 3540452328 31 30 = 0 ∨ fld 3540452328 31 30
      = 2) ∨ fld 3540452328 31 30 ≠ 2 ∧ (sealedBy 2 id).hub.capNames 1 = true)) ∧ 1 < 2 ∧ fld 3540452328 31 30 = 3 ∧ (sealedBy 2
      id).hub.sealOpen = false) ∧
    (PortUp (st up).hub 2 ∧ (¬(badLinkCfg 1191642088 = true ∨ 2 < 2 ∧ (fld 1191642088 31 30 = 0 ∨ fld 1191642088 31 30 = 2) ∨
      fld 1191642088 31 30 ≠ 2 ∧ (st up).hub.capNames 2 = true)) ∧ (¬(2 < 2 ∧ fld 1191642088 31 30 = 3 ∧ (st up).hub.sealOpen =
      false)) ∧ (¬(fld 1191642088 31 30 ≠ fld ((st up).hub.prt 2).cfg 31 30 ∨ fld 1191642088 22 18 ≠ fld ((st up).hub.prt 2).cfg
      22 18 ∨ ((st up).hub.prt 2).st = PState.wiring ∧ 1191642088 ≠ ((st up).hub.prt 2).cfg)) ∧ (((st up).hub.prt 2).st ≠
      PState.up ∨ ((st up).hub.prt 2).manual = true ∨ ((st up).hub.prt 2).rate ≤ fld 1191642088 28 26 ∧ ((st up).hub.prt
      2).width ≤ fld 1191642088 25 24)) ∧
    (PortUp portSettings1.hub 7 ∧ (¬(badLinkCfg 1325859816 = true ∨ 7 < 2 ∧ (fld 1325859816 31 30 = 0 ∨ fld 1325859816 31 30 =
      2) ∨ fld 1325859816 31 30 ≠ 2 ∧ portSettings1.hub.capNames 7 = true)) ∧ (¬(7 < 2 ∧ fld 1325859816 31 30 = 3 ∧
      portSettings1.hub.sealOpen = false)) ∧ (¬(fld 1325859816 31 30 ≠ fld (portSettings1.hub.prt 7).cfg 31 30 ∨ fld 1325859816
      22 18 ≠ fld (portSettings1.hub.prt 7).cfg 22 18 ∨ (portSettings1.hub.prt 7).st = PState.wiring ∧ 1325859816 ≠
      (portSettings1.hub.prt 7).cfg)) ∧ (portSettings1.hub.prt 7).st = PState.up ∧ (portSettings1.hub.prt 7).manual = false ∧
      (portSettings1.hub.prt 7).run = none ∧ (portSettings1.hub.prt 7).widthRun = none ∧ (fld 1325859816 28 26 <
      (portSettings1.hub.prt 7).rate ∨ fld 1325859816 25 24 < (portSettings1.hub.prt 7).width)) ∧
    (PortUp portSettings1.hub 7 ∧ (¬(badLinkCfg 1376191464 = true ∨ 7 < 2 ∧ (fld 1376191464 31 30 = 0 ∨ fld 1376191464 31 30 =
      2) ∨ fld 1376191464 31 30 ≠ 2 ∧ portSettings1.hub.capNames 7 = true)) ∧ (¬(7 < 2 ∧ fld 1376191464 31 30 = 3 ∧
      portSettings1.hub.sealOpen = false)) ∧ (¬(fld 1376191464 31 30 ≠ fld (portSettings1.hub.prt 7).cfg 31 30 ∨ fld 1376191464
      22 18 ≠ fld (portSettings1.hub.prt 7).cfg 22 18 ∨ (portSettings1.hub.prt 7).st = PState.wiring ∧ 1376191464 ≠
      (portSettings1.hub.prt 7).cfg)) ∧ (portSettings1.hub.prt 7).st = PState.up ∧ (portSettings1.hub.prt 7).manual = false ∧
      (portSettings1.hub.prt 7).run = none ∧ (portSettings1.hub.prt 7).widthRun = none ∧ (fld 1376191464 28 26 <
      (portSettings1.hub.prt 7).rate ∨ fld 1376191464 25 24 < (portSettings1.hub.prt 7).width)) ∧
    (PortUp (st up).hub 2 ∧ (¬(badLinkCfg 2466710504 = true ∨ 2 < 2 ∧ (fld 2466710504 31 30 = 0 ∨ fld 2466710504 31 30 = 2) ∨
      fld 2466710504 31 30 ≠ 2 ∧ (st up).hub.capNames 2 = true)) ∧ (¬(2 < 2 ∧ fld 2466710504 31 30 = 3 ∧ (st up).hub.sealOpen =
      false)) ∧ (fld 2466710504 31 30 ≠ fld ((st up).hub.prt 2).cfg 31 30 ∨ fld 2466710504 22 18 ≠ fld ((st up).hub.prt 2).cfg
      22 18 ∨ ((st up).hub.prt 2).st = PState.wiring ∧ 2466710504 ≠ ((st up).hub.prt 2).cfg)) ∧
    (PortUp (st up).hub 7 ∧ (¬(badLinkCfg 319226856 = true ∨ 7 < 2 ∧ (fld 319226856 31 30 = 0 ∨ fld 319226856 31 30 = 2) ∨ fld
      319226856 31 30 ≠ 2 ∧ (st up).hub.capNames 7 = true)) ∧ (¬(7 < 2 ∧ fld 319226856 31 30 = 3 ∧ (st up).hub.sealOpen =
      false)) ∧ (fld 319226856 31 30 ≠ fld ((st up).hub.prt 7).cfg 31 30 ∨ fld 319226856 22 18 ≠ fld ((st up).hub.prt 7).cfg 22
      18 ∨ ((st up).hub.prt 7).st = PState.wiring ∧ 319226856 ≠ ((st up).hub.prt 7).cfg)) ∧
    (PortUp (st up).hub 7) ∧
    ((st up).hub.nPorts ≤ 8 ∧ Instr.linkSlip 8 0 ∈ [Instr.linkManual 8 0, Instr.linkSlip 8 0, Instr.linkRate 8 0,
      Instr.linkWidth 8 1]) ∧
    (7 < (st die1gone).hub.nPorts ∧ (st die1gone).hub.dieDown (7 / 4) = true ∧ Instr.linkWidth 7 1 ∈ [Instr.linkManual 7 0,
      Instr.linkSlip 7 0, Instr.linkRate 7 0, Instr.linkWidth 7 1]) ∧
    (PortUp (st up).hub 7 ∧ 1 < 2) ∧
    (PortUp (st up).hub 7 ∧ 2 < 3) ∧
    (PortUp (st up).hub 7 ∧ 4 < 5) ∧
    (PortUp (st up).hub 7 ∧ (1 = 0 ∨ 3 < 1 ∨ ((st up).hub.prt 7).manual = false)) ∧
    (PortUp (manual7 id).hub 7 ∧ (4 = 0 ∨ 3 < 4 ∨ ((manual7 id).hub.prt 7).manual = false)) ∧
    (PortUp (sealedBy 2 id).hub 7 ∧ (sealedBy 2 id).hub.sealOpen = false ∧ 1 ≤ 1 ∧ 2 ≤ 2 ∧ 4 ≤ 4 ∧ Instr.linkManual 7 1 ∈
      [Instr.linkManual 7 1, Instr.linkSlip 7 2, Instr.linkRate 7 4]) ∧
    (PortUp (st up).hub 7 ∧ (st up).hub.sealOpen = true) ∧
    (PortUp (st up).hub 7 ∧ (st up).hub.sealOpen = true ∧ ((st up).hub.prt 7).manual = false) ∧
    (PortUp (manual7 id).hub 7 ∧ (manual7 id).hub.sealOpen = true ∧ ((manual7 id).hub.prt 7).manual = true) ∧
    (PortUp (st up).hub 7 ∧ (st up).hub.sealOpen = true ∧ ((st up).hub.prt 7).manual = false ∧ 2 ≤ 2 ∧ 4 ≤ 4 ∧ Instr.linkSlip 7
      2 ∈ [Instr.linkSlip 7 2, Instr.linkRate 7 4]) ∧
    (PortUp portSettings2.hub 7 ∧ portSettings2.hub.sealOpen = true ∧ (portSettings2.hub.prt 7).manual = true ∧ 2 ≤ 2) ∧
    (PortUp portSettings2.hub 7 ∧ portSettings2.hub.sealOpen = true ∧ (portSettings2.hub.prt 7).manual = true ∧ 4 ≤ 4 ∧
      (portSettings2.hub.prt 7).st ≠ PState.up ∧ (portSettings2.hub.prt 7).run = none) ∧
    (PortUp (manual7 id).hub 7 ∧ (manual7 id).hub.sealOpen = true ∧ ((manual7 id).hub.prt 7).manual = true ∧ 0 ≤ 4 ∧ ((manual7
      id).hub.prt 7).st = PState.up ∧ ((manual7 id).hub.prt 7).run = none ∧ ((manual7 id).hub.prt 7).ordered = false) ∧
    (PortUp portSettings3.hub 7 ∧ (portSettings3.hub.prt 7).manual = true ∧ 1 ≤ 3 ∧ 3 ≤ 3 ∧ 3 ≠ (portSettings3.hub.prt 7).width
      ∧ (portSettings3.hub.prt 7).st = PState.up ∧ (portSettings3.hub.prt 7).run = none ∧ (portSettings3.hub.prt 7).widthRun =
      none) ∧
    (PortUp portSettings2.hub 7 ∧ (portSettings2.hub.prt 7).manual = true ∧ 1 ≤ 3 ∧ 3 ≤ 3 ∧ (3 = (portSettings2.hub.prt
      7).width ∨ (portSettings2.hub.prt 7).st ≠ PState.up) ∧ (portSettings2.hub.prt 7).run = none ∧ (portSettings2.hub.prt
      7).widthRun = none) ∧
    (PortUp (manual7 id).hub 7 ∧ ((manual7 id).hub.prt 7).manual = true ∧ 1 ≤ 3 ∧ 3 ≤ 3 ∧ (3 = ((manual7 id).hub.prt 7).width ∨
      ((manual7 id).hub.prt 7).st ≠ PState.up) ∧ ((manual7 id).hub.prt 7).run = none ∧ ((manual7 id).hub.prt 7).widthRun = none) ∧
    (PortUp portSettings4.hub 7 ∧ portSettings4.hub.sealOpen = true ∧ (portSettings4.hub.prt 7).manual = true ∧ 4 ≤ 4 ∧
      ((portSettings4.hub.prt 7).run ≠ none ∨ (portSettings4.hub.prt 7).st = PState.up ∧ (portSettings4.hub.prt 7).ordered =
      true)) ∧
    (PortUp portSettings4.hub 7 ∧ (portSettings4.hub.prt 7).manual = true ∧ 1 ≤ 1 ∧ 1 ≤ 3 ∧ ((portSettings4.hub.prt 7).run ≠
      none ∨ (portSettings4.hub.prt 7).widthRun ≠ none) ∧ (∀ (v : ℕ), (portSettings4.hub.prt 7).asked ≠ some (true, v))) := by
  and_intros <;> first
    | decide +kernel
    | (unfold PortUp Shaped; decide +kernel)
    | (exact .inr fun _ _ => ne_of_isNone (by decide +kernel))
    | (intros; exact ne_of_isNone (by decide +kernel))

/-- Obligations.LaneTestsAndCoupler. -/
theorem witness_LaneTestsAndCoupler :
    (PortUp (st up).hub 7 ∧ (3 < 4 ∨ badLaneTest 0 = true ∨ fld ((st up).hub.prt 7).cfg 31 30 ≠ 3 ∧ (fld 0 31 26 ≠ 0 ∨ fld 0 24
      23 ≠ 0))) ∧
    (PortUp (st up).hub 7 ∧ (3 < 0 ∨ badLaneTest 64 = true ∨ fld ((st up).hub.prt 7).cfg 31 30 ≠ 3 ∧ (fld 64 31 26 ≠ 0 ∨ fld 64
      24 23 ≠ 0))) ∧
    (PortUp laneTestsAndCoupler1.hub 7 ∧ (¬(3 < 0 ∨ badLaneTest 1048576 = true ∨ fld (laneTestsAndCoupler1.hub.prt 7).cfg 31 30
      ≠ 3 ∧ (fld 1048576 31 26 ≠ 0 ∨ fld 1048576 24 23 ≠ 0))) ∧ fld (laneTestsAndCoupler1.hub.prt 7).cfg 31 30 = 1 ∧ fld 1048576
      22 20 ≠ 0 ∧ laneTestsAndCoupler1.hub.sealOpen = false) ∧
    (PortUp laneTestsAndCoupler2.hub 7 ∧ (¬(3 < 3 ∨ badLaneTest 536870912 = true ∨ fld (laneTestsAndCoupler2.hub.prt 7).cfg 31
      30 ≠ 3 ∧ (fld 536870912 31 26 ≠ 0 ∨ fld 536870912 24 23 ≠ 0))) ∧ (¬(fld (laneTestsAndCoupler2.hub.prt 7).cfg 31 30 = 1 ∧
      fld 536870912 22 20 ≠ 0 ∧ laneTestsAndCoupler2.hub.sealOpen = false)) ∧ LaneThere laneTestsAndCoupler2.hub 7 3) ∧
    (PortUp laneTestsAndCoupler2.hub 7 ∧ (¬(3 < 0 ∨ badLaneTest 3145738 = true ∨ fld (laneTestsAndCoupler2.hub.prt 7).cfg 31 30
      ≠ 3 ∧ (fld 3145738 31 26 ≠ 0 ∨ fld 3145738 24 23 ≠ 0))) ∧ (¬(fld (laneTestsAndCoupler2.hub.prt 7).cfg 31 30 = 1 ∧ fld
      3145738 22 20 ≠ 0 ∧ laneTestsAndCoupler2.hub.sealOpen = false)) ∧ LaneThere laneTestsAndCoupler2.hub 7 0) ∧
    (PortUp (st up).hub 7 ∧ 3 ≤ 3) ∧
    (PortUp (st up).hub 7 ∧ (3 < 4 ∨ 1 < 0)) ∧
    (PortUp (st up).hub 7 ∧ (3 < 0 ∨ 1 < 2)) ∧
    ((((st up).hub.lane 7 0).sync = false ∨ ((st up).hub.lane 7 0).syncAt = none) ∧ (0 ≠ 3 ∨ fld ((st up).hub.lane 7 0).test 24
      23 = 1 ∨ ((st up).hub.prt 7).ltRuns = false)) ∧
    (LaneThere laneTestsAndCoupler3.hub 7 0 ∧ (laneTestsAndCoupler3.hub.lane 7 0).sync = true ∧ (laneTestsAndCoupler3.hub.lane
      7 0).syncAt = some 4999999999) ∧
    ((laneTestsAndCoupler4.hub.prt 7).st = PState.test ∧ fld (laneTestsAndCoupler4.hub.lane 7 0).test 28 26 ≠ 0 ∧ fld
      (laneTestsAndCoupler4.hub.lane 7 0).test 24 23 ≠ 1 ∧ 0 ≠ 3 ∧ (laneTestsAndCoupler4.hub.lane 7 0).sync = false) ∧
    ((((st up).hub.prt 7).st ≠ PState.test ∨ fld ((st up).hub.lane 7 0).test 28 26 = 0 ∨ fld ((st up).hub.lane 7 0).test 24 23
      = 1 ∨ 0 = 3 ∨ ((st up).hub.lane 7 0).sync = true)) ∧
    ((((st up).hub.lane 7 0).sync = false ∨ ((st up).hub.lane 7 0).syncAt = none)) ∧
    (LaneThere laneTestsAndCoupler5.hub 7 0 ∧ (laneTestsAndCoupler5.hub.lane 7 0).sync = true ∧ (laneTestsAndCoupler5.hub.lane
      7 0).syncAt ≠ none) ∧
    (1 < 2) ∧
    ((st up).hub.flt.closed = true ∧ ((st up).hub.flt.byHost = false ∨ (st up).hub.couplerCause = true)) ∧
    (laneTestsAndCoupler6.hub.flt.closed = true ∧ laneTestsAndCoupler6.hub.flt.byHost = true ∧
      laneTestsAndCoupler6.hub.couplerCause = false) ∧
    (laneTestsAndCoupler7.hub.flt.closed = false) ∧
    (((st up).hub.flt.closed = true ∨ (st up).hub.flt.closing ≠ none)) ∧
    (Shaped laneTestsAndCoupler7.hub ∧ laneTestsAndCoupler7.hub.flt.closed = false ∧ laneTestsAndCoupler7.hub.flt.closing =
      none ∧ (laneTestsAndCoupler7.hub.prt 0).st ≠ PState.up) ∧
    (Shaped laneTestsAndCoupler8.hub ∧ laneTestsAndCoupler8.hub.flt.closed = false ∧ laneTestsAndCoupler8.hub.flt.closing =
      none ∧ (laneTestsAndCoupler8.hub.prt 0).st = PState.up) := by
  and_intros <;> first
    | decide +kernel
    | (unfold Shaped; decide +kernel)
    | (unfold PortUp Shaped; decide +kernel)
    | exact ⟨_, rfl, by decide +kernel⟩

/-- Obligations.LaneLock. -/
theorem witness_LaneLock :
    ((¬(((st up).hub.prt 7).receives = true ∧ ((st up).hub.lane 7 0).retired = false ∧ ((st up).hub.lane 7 0).parked = false ∧
      Lane.checking (st up).hub.clk.elapsed ((st up).hub.lane 7 0) = false))) ∧
    ((laneLock1.hub.prt 7).receives = true ∧ (laneLock1.hub.lane 7 0).retired = false ∧ (laneLock1.hub.lane 7 0).parked = false
      ∧ Lane.checking laneLock1.hub.clk.elapsed (laneLock1.hub.lane 7 0) = false ∧ (laneLock1.hub.lane 7 0).lock =
      LockState.hunt ∧ (laneLock1.hub.lane 7 0).tried < 66) ∧
    (((laneLock2.hub.lane 7 0).lock ≠ LockState.hunt ∨ 66 ≤ (laneLock2.hub.lane 7 0).tried ∨ (laneLock2.hub.lane 7 0).retired =
      true ∨ (laneLock2.hub.lane 7 0).parked = true)) ∧
    ((((ln 7 0 PState.search id).hub.lane 7 0).retired = true ∨ ((ln 7 0 PState.search id).hub.lane 7 0).parked = true ∨ ((ln 7
      0 PState.search id).hub.lane 7 0).lock = LockState.hunt)) ∧
    ((laneLock3.hub.prt 7).receives = true ∧ (laneLock3.hub.lane 7 0).retired = false ∧ (laneLock3.hub.lane 7 0).parked = false
      ∧ Lane.checking laneLock3.hub.clk.elapsed (laneLock3.hub.lane 7 0) = false ∧ (laneLock3.hub.lane 7 0).lock =
      LockState.markWait) ∧
    ((laneLock4.hub.prt 7).receives = true ∧ (laneLock4.hub.lane 7 0).retired = false ∧ (laneLock4.hub.lane 7 0).parked = false
      ∧ Lane.checking laneLock4.hub.clk.elapsed (laneLock4.hub.lane 7 0) = false ∧ (laneLock4.hub.lane 7 0).lock =
      LockState.confirm ∧ laneLock4.hub.markSlot 7 0 ≠ some 1) ∧
    ((laneLock5.hub.prt 7).receives = true ∧ (laneLock5.hub.lane 7 0).retired = false ∧ (laneLock5.hub.lane 7 0).parked = false
      ∧ Lane.checking laneLock5.hub.clk.elapsed (laneLock5.hub.lane 7 0) = false ∧ (laneLock5.hub.lane 7 0).lock =
      LockState.confirm ∧ laneLock5.hub.markSlot 7 0 = some 1 ∧ (laneLock5.hub.lane 7 0).count < 2) ∧
    ((laneLock6.hub.prt 7).receives = true ∧ (laneLock6.hub.lane 7 0).retired = false ∧ (laneLock6.hub.lane 7 0).parked = false
      ∧ Lane.checking laneLock6.hub.clk.elapsed (laneLock6.hub.lane 7 0) = false ∧ LaneThere laneLock6.hub 7 0 ∧
      (laneLock6.hub.lane 7 0).lock = LockState.confirm ∧ laneLock6.hub.markSlot 7 0 = some 1 ∧ 2 ≤ (laneLock6.hub.lane 7
      0).count) ∧
    ((laneLock7.hub.prt 7).receives = true ∧ (laneLock7.hub.lane 7 0).retired = false ∧ (laneLock7.hub.lane 7 0).parked = false
      ∧ Lane.checking laneLock7.hub.clk.elapsed (laneLock7.hub.lane 7 0) = false ∧ (laneLock7.hub.lane 7 0).lock =
      LockState.locked ∧ (laneLock7.hub.markSlot 7 0 = none ∨ ∃ k, laneLock7.hub.markSlot 7 0 = some k ∧ (k = 0 ∨ 3 < k))) ∧
    ((laneLock7.hub.prt 7).receives = true ∧ (laneLock7.hub.lane 7 0).retired = false ∧ (laneLock7.hub.lane 7 0).parked = false
      ∧ Lane.checking laneLock7.hub.clk.elapsed (laneLock7.hub.lane 7 0) = false ∧ (laneLock7.hub.lane 7 0).lock =
      LockState.locked ∧ (laneLock7.hub.markSlot 7 0 = none ∨ ∃ k, laneLock7.hub.markSlot 7 0 = some k ∧ (k = 0 ∨ 3 < k))) ∧
    ((laneLock8.hub.prt 7).receives = true ∧ (laneLock8.hub.lane 7 0).retired = false ∧ (laneLock8.hub.lane 7 0).parked = false
      ∧ Lane.checking laneLock8.hub.clk.elapsed (laneLock8.hub.lane 7 0) = false ∧ (laneLock8.hub.lane 7 0).lock =
      LockState.locked ∧ laneLock8.hub.markSlot 7 0 = some 1 ∧ 1 ≤ 1 ∧ 1 ≤ 3 ∧ (0 ≠ 0 ∨ 7 ≠ 0)) ∧
    ((laneLock9.hub.prt 0).receives = true ∧ (laneLock9.hub.lane 0 0).retired = false ∧ (laneLock9.hub.lane 0 0).parked = false
      ∧ Lane.checking laneLock9.hub.clk.elapsed (laneLock9.hub.lane 0 0) = false ∧ (laneLock9.hub.lane 0 0).lock =
      LockState.locked ∧ laneLock9.hub.markSlot 0 0 = some 1 ∧ 1 ≤ 1 ∧ 1 ≤ 3 ∧ 0 = 0 ∧ 0 = 0 ∧ LaneThere laneLock9.hub 0 0) ∧
    ((laneLock10.hub.prt 7).receives = true ∧ (laneLock10.hub.lane 7 0).retired = false ∧ (laneLock10.hub.lane 7 0).parked =
      false ∧ Lane.checking laneLock10.hub.clk.elapsed (laneLock10.hub.lane 7 0) = false ∧ (laneLock10.hub.lane 7 0).lock =
      LockState.confirm) ∧
    (((st up).hub.lane 7 0).lock ≠ LockState.confirm) ∧
    ((laneLock3.hub.prt 7).receives = true ∧ (laneLock3.hub.lane 7 0).retired = false ∧ (laneLock3.hub.lane 7 0).parked = false
      ∧ Lane.checking laneLock3.hub.clk.elapsed (laneLock3.hub.lane 7 0) = false ∧ (laneLock3.hub.lane 7 0).lock =
      LockState.markWait) ∧
    ((laneLock11.hub.prt 7).receives = true ∧ (laneLock11.hub.lane 7 0).retired = false ∧ (laneLock11.hub.lane 7 0).parked =
      false ∧ Lane.checking laneLock11.hub.clk.elapsed (laneLock11.hub.lane 7 0) = false ∧ LaneThere laneLock11.hub 7 0 ∧
      (laneLock11.hub.lane 7 0).lock = LockState.locked) ∧
    ((((ln 7 0 PState.search id).hub.lane 7 0).lock = LockState.hunt ∨ ((ln 7 0 PState.search id).hub.lane 7 0).lock =
      LockState.confirm)) ∧
    ((laneLock12.hub.prt 7).receives = true ∧ (laneLock12.hub.lane 7 2).retired = false ∧ (laneLock12.hub.lane 7 2).parked =
      false ∧ Lane.checking laneLock12.hub.clk.elapsed (laneLock12.hub.lane 7 2) = false ∧ (laneLock12.hub.lane 7 2).lock ≠
      LockState.locked ∧ (laneLock12.hub.lane 7 2).tried < 66 ∧ 2 ≤ 2 ∧ (laneLock12.hub.lane 7 2).huntAt + 400000 ≤
      laneLock12.hub.clk.elapsed) ∧
    (((laneLock13.hub.lane 7 2).lock = LockState.locked ∨ 66 ≤ (laneLock13.hub.lane 7 2).tried ∨ 2 < 2 ∨
      laneLock13.hub.clk.elapsed < (laneLock13.hub.lane 7 2).huntAt + 400000)) ∧
    (((laneLock12.hub.lane 7 2).tried < 66 ∨ laneLock12.hub.clk.elapsed < (laneLock12.hub.lane 7 2).huntAt + 1000000)) ∧
    ((laneLock14.hub.prt 7).receives = true ∧ (laneLock14.hub.lane 7 2).retired = false ∧ (laneLock14.hub.lane 7 2).parked =
      false ∧ Lane.checking laneLock14.hub.clk.elapsed (laneLock14.hub.lane 7 2) = false ∧ 66 ≤ (laneLock14.hub.lane 7 2).tried
      ∧ (laneLock14.hub.lane 7 2).huntAt + 1000000 ≤ laneLock14.hub.clk.elapsed ∧ ((laneLock14.hub.prt 7).run = none ∨ ∃ r own,
      (laneLock14.hub.prt 7).run = some r ∧ r.own = some own ∧ own.getD 2 false = false)) ∧
    ((laneLock15.hub.prt 7).receives = true ∧ (laneLock15.hub.lane 7 1).retired = false ∧ (laneLock15.hub.lane 7 1).parked =
      false ∧ Lane.checking laneLock15.hub.clk.elapsed (laneLock15.hub.lane 7 1) = false ∧ 66 ≤ (laneLock15.hub.lane 7 1).tried
      ∧ (laneLock15.hub.lane 7 1).huntAt + 1000000 ≤ laneLock15.hub.clk.elapsed ∧ (laneLock15.hub.prt 7).run = some laneLock16 ∧
      laneLock16.own = none ∧ ((laneLock15.hub.prt 7).st ≠ PState.training ∨ laneLock16.at' ≠ none ∧ (1 ≠ 0 ∨ 7 ≠ 0) ∨
      laneLock16.at' = none ∧ laneLock16.cause ≠ StepCause.settle)) ∧
    ((laneLock17.hub.prt 7).receives = true ∧ (laneLock17.hub.lane 7 0).retired = false ∧ (laneLock17.hub.lane 7 0).parked =
      false ∧ Lane.checking laneLock17.hub.clk.elapsed (laneLock17.hub.lane 7 0) = false ∧ LaneThere laneLock17.hub 7 0 ∧ 66 ≤
      (laneLock17.hub.lane 7 0).tried ∧ (laneLock17.hub.lane 7 0).huntAt + 1000000 ≤ laneLock17.hub.clk.elapsed ∧
      (laneLock17.hub.prt 7).run = some laneLock18 ∧ laneLock18.own = none ∧ (laneLock17.hub.prt 7).st = PState.training ∧ 0 = 0
      ∧ (laneLock18.at' ≠ none ∧ 7 = 0 ∨ laneLock18.at' = none ∧ laneLock18.cause = StepCause.settle)) ∧
    ((laneLock19.hub.prt 7).receives = true ∧ (laneLock19.hub.lane 7 1).retired = false ∧ (laneLock19.hub.lane 7 1).parked =
      false ∧ Lane.checking laneLock19.hub.clk.elapsed (laneLock19.hub.lane 7 1) = false ∧ 66 ≤ (laneLock19.hub.lane 7 1).tried
      ∧ (laneLock19.hub.lane 7 1).huntAt + 1000000 ≤ laneLock19.hub.clk.elapsed ∧ (laneLock19.hub.prt 7).run = some ownRun ∧
      ownRun.own = some [true, true, true] ∧ [true, true, true].getD 1 false = true ∧ 1 ≠ 0 ∧ [true, true, true].getD 0 false =
      true ∧ (laneLock19.hub.lane 7 0).lock ≠ LockState.locked) ∧
    (((ln 7 0 PState.search id).hub.prt 7).receives = true ∧ ((ln 7 0 PState.search id).hub.lane 7 0).retired = false ∧ ((ln 7
      0 PState.search id).hub.lane 7 0).parked = false ∧ Lane.checking (ln 7 0 PState.search id).hub.clk.elapsed ((ln 7 0
      PState.search id).hub.lane 7 0) = false ∧ LaneThere (ln 7 0 PState.search id).hub 7 0 ∧ ((ln 7 0 PState.search
      id).hub.lane 7 0).lock = LockState.hunt) ∧
    ((laneLock20.hub.prt 7).receives = true ∧ (laneLock20.hub.lane 7 0).retired = false ∧ (laneLock20.hub.lane 7 0).parked =
      false ∧ Lane.checking laneLock20.hub.clk.elapsed (laneLock20.hub.lane 7 0) = false ∧ LaneThere laneLock20.hub 7 0 ∧
      ((laneLock20.hub.lane 7 0).lock = LockState.markWait ∨ (laneLock20.hub.lane 7 0).lock = LockState.confirm)) ∧
    ((laneLock21.hub.prt 7).receives = true ∧ (laneLock21.hub.lane 7 0).retired = false ∧ (laneLock21.hub.lane 7 0).parked =
      false ∧ Lane.checking laneLock21.hub.clk.elapsed (laneLock21.hub.lane 7 0) = false ∧ LaneThere laneLock21.hub 7 0 ∧
      ((laneLock21.hub.lane 7 0).lock = LockState.markWait ∨ (laneLock21.hub.lane 7 0).lock = LockState.confirm)) ∧
    ((laneLock22.hub.prt 7).receives = true ∧ (laneLock22.hub.lane 7 2).retired = false ∧ (laneLock22.hub.lane 7 2).parked =
      false ∧ Lane.checking laneLock22.hub.clk.elapsed (laneLock22.hub.lane 7 2) = false ∧ LaneThere laneLock22.hub 7 2 ∧
      (laneLock22.hub.lane 7 2).lock = LockState.locked ∧ (List.filter (fun t => decide (laneLock22.hub.clk.elapsed < t +
      laneLock22.hub.window64 7)) (laneLock22.hub.lane 7 2).recent).length < 15) ∧
    ((laneLock23.hub.prt 7).receives = true ∧ (laneLock23.hub.lane 7 2).retired = false ∧ (laneLock23.hub.lane 7 2).parked =
      false ∧ Lane.checking laneLock23.hub.clk.elapsed (laneLock23.hub.lane 7 2) = false ∧ LaneThere laneLock23.hub 7 2 ∧
      (laneLock23.hub.lane 7 2).lock = LockState.locked ∧ 15 ≤ (List.filter (fun t => decide (laneLock23.hub.clk.elapsed < t +
      laneLock23.hub.window64 7)) (laneLock23.hub.lane 7 2).recent).length) := by
  and_intros <;> first
    | decide +kernel
    | exact ⟨_, rfl, by decide +kernel⟩
    | exact .inl (by decide +kernel)
    | (intro _ _ h; exact absurd h (ne_of_isNone (by decide +kernel)))

/-- Obligations.BringUpAndSteps. -/
theorem witness_BringUpAndSteps :
    (((st up).hub.prt 7).st ≠ PState.search) ∧
    (((st up).hub.prt 7).st ≠ PState.search ∧ (((st up).hub.prt 7).st ≠ PState.wiring ∨ 2 = ((st up).hub.prt 7).peer)) ∧
    (7 < (ln 7 0 PState.wiring id).hub.ports.length ∧ ((ln 7 0 PState.wiring id).hub.prt 7).st = PState.wiring ∧ 2 ≠ ((ln 7 0
      PState.wiring id).hub.prt 7).peer ∧ ((ln 7 0 PState.wiring id).hub.prt 7).mode = 1 ∧ (((ln 7 0 PState.wiring id).hub.prt
      7).laneWidth ≠ 0 ∨ 7 = 0) ∧ ((ln 7 0 PState.wiring id).hub.die (7 / 4)).inService = true ∧ (ln 7 0 PState.wiring
      id).hub.powered 7 = true ∧ (7 < 2 → (ln 7 0 PState.wiring id).hub.flt.closed = false) ∧ (if 7 = 0 then 2 = 1 ∨ 2 = 3 ∨ 2 =
      4 else 2 = 2)) ∧
    (((ln 7 0 PState.search id).hub.prt 7).st = PState.search ∧ (((ln 7 0 PState.search id).hub.prt 7).peerSerial = none ∨ 2 =
      0 ∨ (if (ln 7 0 PState.search id).hub.boot.netboot = true then min (min (((ln 7 0 PState.search id).hub.setPort 7 fun x =>
      { cfg := x.cfg, st := x.st, rate := x.rate, width := x.width, peer := x.peer, peerRate := min 4 4, peerWidth := 3, peerLocked := x.peerLocked, peerSerial := x.peerSerial, manual := x.manual, lanes := x.lanes, searchAt := x.searchAt, quietAt := x.quietAt, run := x.run, widthRun := x.widthRun, answered := x.answered, asked := x.asked, askedAt := x.askedAt, lost := x.lost, mcount := x.mcount, link := x.link, asym := x.asym, delay := x.delay, ltUp := x.ltUp, ltGlitch := x.ltGlitch, recorded := x.recorded, range := x.range, pendRange := x.pendRange, wm := x.wm, hi := x.hi, fwdHi := x.fwdHi, fciHold := x.fciHold, upAt := x.upAt, corSent := x.corSent, blk := x.blk }).widthCap
      7) (if (!(((ln 7 0 PState.search id).hub.prt 7).lockedMask.testBit 0 && Nat.testBit 0 0)) = true then 0 else if (!(((ln 7
      0 PState.search id).hub.prt 7).lockedMask.testBit 1 && Nat.testBit 0 1)) = true then 1 else if (!(((ln 7 0 PState.search
      id).hub.prt 7).lockedMask.testBit 2 && Nat.testBit 0 2)) = true then 2 else 3)) 1 else min (((ln 7 0 PState.search
      id).hub.setPort 7 fun x =>
      { cfg := x.cfg, st := x.st, rate := x.rate, width := x.width, peer := x.peer, peerRate := min 4 4, peerWidth := 3, peerLocked := x.peerLocked, peerSerial := x.peerSerial, manual := x.manual, lanes := x.lanes, searchAt := x.searchAt, quietAt := x.quietAt, run := x.run, widthRun := x.widthRun, answered := x.answered, asked := x.asked, askedAt := x.askedAt, lost := x.lost, mcount := x.mcount, link := x.link, asym := x.asym, delay := x.delay, ltUp := x.ltUp, ltGlitch := x.ltGlitch, recorded := x.recorded, range := x.range, pendRange := x.pendRange, wm := x.wm, hi := x.hi, fwdHi := x.fwdHi, fciHold := x.fciHold, upAt := x.upAt, corSent := x.corSent, blk := x.blk }).widthCap
      7) (if (!(((ln 7 0 PState.search id).hub.prt 7).lockedMask.testBit 0 && Nat.testBit 0 0)) = true then 0 else if (!(((ln 7
      0 PState.search id).hub.prt 7).lockedMask.testBit 1 && Nat.testBit 0 1)) = true then 1 else if (!(((ln 7 0 PState.search
      id).hub.prt 7).lockedMask.testBit 2 && Nat.testBit 0 2)) = true then 2 else 3)) = 0) ∧ (if 7 = 0 then 2 = 1 ∨ 2 = 3 ∨ 2 =
      4 else 2 = 2)) ∧
    (((ln 0 0 PState.search id).hub.prt 0).st = PState.search ∧ (((ln 0 0 PState.search id).hub.prt 0).peerSerial = none ∨ 4 =
      0 ∨ (if (ln 0 0 PState.search id).hub.boot.netboot = true then min (min (((ln 0 0 PState.search id).hub.setPort 0 fun x =>
      { cfg := x.cfg, st := x.st, rate := x.rate, width := x.width, peer := x.peer, peerRate := min 4 4, peerWidth := 3, peerLocked := x.peerLocked, peerSerial := x.peerSerial, manual := x.manual, lanes := x.lanes, searchAt := x.searchAt, quietAt := x.quietAt, run := x.run, widthRun := x.widthRun, answered := x.answered, asked := x.asked, askedAt := x.askedAt, lost := x.lost, mcount := x.mcount, link := x.link, asym := x.asym, delay := x.delay, ltUp := x.ltUp, ltGlitch := x.ltGlitch, recorded := x.recorded, range := x.range, pendRange := x.pendRange, wm := x.wm, hi := x.hi, fwdHi := x.fwdHi, fciHold := x.fciHold, upAt := x.upAt, corSent := x.corSent, blk := x.blk }).widthCap
      0) (if (!(((ln 0 0 PState.search id).hub.prt 0).lockedMask.testBit 0 && Nat.testBit 0 0)) = true then 0 else if (!(((ln 0
      0 PState.search id).hub.prt 0).lockedMask.testBit 1 && Nat.testBit 0 1)) = true then 1 else if (!(((ln 0 0 PState.search
      id).hub.prt 0).lockedMask.testBit 2 && Nat.testBit 0 2)) = true then 2 else 3)) 1 else min (((ln 0 0 PState.search
      id).hub.setPort 0 fun x =>
      { cfg := x.cfg, st := x.st, rate := x.rate, width := x.width, peer := x.peer, peerRate := min 4 4, peerWidth := 3, peerLocked := x.peerLocked, peerSerial := x.peerSerial, manual := x.manual, lanes := x.lanes, searchAt := x.searchAt, quietAt := x.quietAt, run := x.run, widthRun := x.widthRun, answered := x.answered, asked := x.asked, askedAt := x.askedAt, lost := x.lost, mcount := x.mcount, link := x.link, asym := x.asym, delay := x.delay, ltUp := x.ltUp, ltGlitch := x.ltGlitch, recorded := x.recorded, range := x.range, pendRange := x.pendRange, wm := x.wm, hi := x.hi, fwdHi := x.fwdHi, fciHold := x.fciHold, upAt := x.upAt, corSent := x.corSent, blk := x.blk }).widthCap
      0) (if (!(((ln 0 0 PState.search id).hub.prt 0).lockedMask.testBit 0 && Nat.testBit 0 0)) = true then 0 else if (!(((ln 0
      0 PState.search id).hub.prt 0).lockedMask.testBit 1 && Nat.testBit 0 1)) = true then 1 else if (!(((ln 0 0 PState.search
      id).hub.prt 0).lockedMask.testBit 2 && Nat.testBit 0 2)) = true then 2 else 3)) = 0) ∧ (if 0 = 0 then 4 = 1 ∨ 4 = 3 ∨ 4 =
      4 else 4 = 2)) ∧
    (7 < bringUpAndSteps1.hub.ports.length ∧ (bringUpAndSteps1.hub.prt 7).st = PState.search ∧ (bringUpAndSteps1.hub.prt
      7).peerSerial ≠ none ∧ (if 7 = 0 then 2 = 1 ∨ 2 = 3 ∨ 2 = 4 else 2 = 2) ∧ 0 < if bringUpAndSteps1.hub.boot.netboot = true
      then min (min ((bringUpAndSteps1.hub.setPort 7 fun x =>
      { cfg := x.cfg, st := x.st, rate := x.rate, width := x.width, peer := x.peer, peerRate := min 4 4, peerWidth := 3, peerLocked := x.peerLocked, peerSerial := x.peerSerial, manual := x.manual, lanes := x.lanes, searchAt := x.searchAt, quietAt := x.quietAt, run := x.run, widthRun := x.widthRun, answered := x.answered, asked := x.asked, askedAt := x.askedAt, lost := x.lost, mcount := x.mcount, link := x.link, asym := x.asym, delay := x.delay, ltUp := x.ltUp, ltGlitch := x.ltGlitch, recorded := x.recorded, range := x.range, pendRange := x.pendRange, wm := x.wm, hi := x.hi, fwdHi := x.fwdHi, fciHold := x.fciHold, upAt := x.upAt, corSent := x.corSent, blk := x.blk }).widthCap
      7) (if (!((bringUpAndSteps1.hub.prt 7).lockedMask.testBit 0 && Nat.testBit 7 0)) = true then 0 else if
      (!((bringUpAndSteps1.hub.prt 7).lockedMask.testBit 1 && Nat.testBit 7 1)) = true then 1 else if
      (!((bringUpAndSteps1.hub.prt 7).lockedMask.testBit 2 && Nat.testBit 7 2)) = true then 2 else 3)) 1 else min
      ((bringUpAndSteps1.hub.setPort 7 fun x =>
      { cfg := x.cfg, st := x.st, rate := x.rate, width := x.width, peer := x.peer, peerRate := min 4 4, peerWidth := 3, peerLocked := x.peerLocked, peerSerial := x.peerSerial, manual := x.manual, lanes := x.lanes, searchAt := x.searchAt, quietAt := x.quietAt, run := x.run, widthRun := x.widthRun, answered := x.answered, asked := x.asked, askedAt := x.askedAt, lost := x.lost, mcount := x.mcount, link := x.link, asym := x.asym, delay := x.delay, ltUp := x.ltUp, ltGlitch := x.ltGlitch, recorded := x.recorded, range := x.range, pendRange := x.pendRange, wm := x.wm, hi := x.hi, fwdHi := x.fwdHi, fciHold := x.fciHold, upAt := x.upAt, corSent := x.corSent, blk := x.blk }).widthCap
      7) (if (!((bringUpAndSteps1.hub.prt 7).lockedMask.testBit 0 && Nat.testBit 7 0)) = true then 0 else if
      (!((bringUpAndSteps1.hub.prt 7).lockedMask.testBit 1 && Nat.testBit 7 1)) = true then 1 else if
      (!((bringUpAndSteps1.hub.prt 7).lockedMask.testBit 2 && Nat.testBit 7 2)) = true then 2 else 3)) ∧
    (7 < (ln 7 0 PState.search id).hub.ports.length ∧ (ln 7 0 PState.search id).hub.hk.dropped = 0 ∧ ((ln 7 0 PState.search
      id).hub.prt 7).st = PState.search ∧ (¬if 7 = 0 then 1 = 1 ∨ 1 = 3 ∨ 1 = 4 else 1 = 2)) ∧
    (0 < (ln 0 0 PState.search id).hub.ports.length ∧ (ln 0 0 PState.search id).hub.hk.dropped = 0 ∧ ((ln 0 0 PState.search
      id).hub.prt 0).st = PState.search ∧ (¬if 0 = 0 then 2 = 1 ∨ 2 = 3 ∨ 2 = 4 else 2 = 2)) ∧
    (((ln 7 0 PState.search id).hub.prt 7).st = PState.search ∧ (((ln 7 0 PState.search id).hub.prt 7).peer = 0 ∨ (if (ln 7 0
      PState.search id).hub.boot.netboot = true then min (min (((ln 7 0 PState.search id).hub.setPort 7 fun x =>
      { cfg := x.cfg, st := x.st, rate := x.rate, width := x.width, peer := x.peer, peerRate := ((ln 7 0 PState.search id).hub.prt 7).peerRate, peerWidth := ((ln 7 0 PState.search id).hub.prt 7).peerWidth, peerLocked := x.peerLocked, peerSerial := x.peerSerial, manual := x.manual, lanes := x.lanes, searchAt := x.searchAt, quietAt := x.quietAt, run := x.run, widthRun := x.widthRun, answered := x.answered, asked := x.asked, askedAt := x.askedAt, lost := x.lost, mcount := x.mcount, link := x.link, asym := x.asym, delay := x.delay, ltUp := x.ltUp, ltGlitch := x.ltGlitch, recorded := x.recorded, range := x.range, pendRange := x.pendRange, wm := x.wm, hi := x.hi, fwdHi := x.fwdHi, fciHold := x.fciHold, upAt := x.upAt, corSent := x.corSent, blk := x.blk }).widthCap
      7) (if (!(((ln 7 0 PState.search id).hub.prt 7).lockedMask.testBit 0 && ((ln 7 0 PState.search id).hub.prt
      7).peerLocked.testBit 0)) = true then 0 else if (!(((ln 7 0 PState.search id).hub.prt 7).lockedMask.testBit 1 && ((ln 7 0
      PState.search id).hub.prt 7).peerLocked.testBit 1)) = true then 1 else if (!(((ln 7 0 PState.search id).hub.prt
      7).lockedMask.testBit 2 && ((ln 7 0 PState.search id).hub.prt 7).peerLocked.testBit 2)) = true then 2 else 3)) 1 else min
      (((ln 7 0 PState.search id).hub.setPort 7 fun x =>
      { cfg := x.cfg, st := x.st, rate := x.rate, width := x.width, peer := x.peer, peerRate := ((ln 7 0 PState.search id).hub.prt 7).peerRate, peerWidth := ((ln 7 0 PState.search id).hub.prt 7).peerWidth, peerLocked := x.peerLocked, peerSerial := x.peerSerial, manual := x.manual, lanes := x.lanes, searchAt := x.searchAt, quietAt := x.quietAt, run := x.run, widthRun := x.widthRun, answered := x.answered, asked := x.asked, askedAt := x.askedAt, lost := x.lost, mcount := x.mcount, link := x.link, asym := x.asym, delay := x.delay, ltUp := x.ltUp, ltGlitch := x.ltGlitch, recorded := x.recorded, range := x.range, pendRange := x.pendRange, wm := x.wm, hi := x.hi, fwdHi := x.fwdHi, fciHold := x.fciHold, upAt := x.upAt, corSent := x.corSent, blk := x.blk }).widthCap
      7) (if (!(((ln 7 0 PState.search id).hub.prt 7).lockedMask.testBit 0 && ((ln 7 0 PState.search id).hub.prt
      7).peerLocked.testBit 0)) = true then 0 else if (!(((ln 7 0 PState.search id).hub.prt 7).lockedMask.testBit 1 && ((ln 7 0
      PState.search id).hub.prt 7).peerLocked.testBit 1)) = true then 1 else if (!(((ln 7 0 PState.search id).hub.prt
      7).lockedMask.testBit 2 && ((ln 7 0 PState.search id).hub.prt 7).peerLocked.testBit 2)) = true then 2 else 3)) = 0)) ∧
    (7 < bringUpAndSteps2.hub.ports.length ∧ (bringUpAndSteps2.hub.prt 7).st = PState.search ∧ (bringUpAndSteps2.hub.prt
      7).peer ≠ 0 ∧ 0 < if bringUpAndSteps2.hub.boot.netboot = true then min (min ((bringUpAndSteps2.hub.setPort 7 fun x =>
      { cfg := x.cfg, st := x.st, rate := x.rate, width := x.width, peer := x.peer, peerRate := (bringUpAndSteps2.hub.prt 7).peerRate, peerWidth := (bringUpAndSteps2.hub.prt 7).peerWidth, peerLocked := x.peerLocked, peerSerial := x.peerSerial, manual := x.manual, lanes := x.lanes, searchAt := x.searchAt, quietAt := x.quietAt, run := x.run, widthRun := x.widthRun, answered := x.answered, asked := x.asked, askedAt := x.askedAt, lost := x.lost, mcount := x.mcount, link := x.link, asym := x.asym, delay := x.delay, ltUp := x.ltUp, ltGlitch := x.ltGlitch, recorded := x.recorded, range := x.range, pendRange := x.pendRange, wm := x.wm, hi := x.hi, fwdHi := x.fwdHi, fciHold := x.fciHold, upAt := x.upAt, corSent := x.corSent, blk := x.blk }).widthCap
      7) (if (!((bringUpAndSteps2.hub.prt 7).lockedMask.testBit 0 && (bringUpAndSteps2.hub.prt 7).peerLocked.testBit 0)) = true
      then 0 else if (!((bringUpAndSteps2.hub.prt 7).lockedMask.testBit 1 && (bringUpAndSteps2.hub.prt 7).peerLocked.testBit 1))
      = true then 1 else if (!((bringUpAndSteps2.hub.prt 7).lockedMask.testBit 2 && (bringUpAndSteps2.hub.prt
      7).peerLocked.testBit 2)) = true then 2 else 3)) 1 else min ((bringUpAndSteps2.hub.setPort 7 fun x =>
      { cfg := x.cfg, st := x.st, rate := x.rate, width := x.width, peer := x.peer, peerRate := (bringUpAndSteps2.hub.prt 7).peerRate, peerWidth := (bringUpAndSteps2.hub.prt 7).peerWidth, peerLocked := x.peerLocked, peerSerial := x.peerSerial, manual := x.manual, lanes := x.lanes, searchAt := x.searchAt, quietAt := x.quietAt, run := x.run, widthRun := x.widthRun, answered := x.answered, asked := x.asked, askedAt := x.askedAt, lost := x.lost, mcount := x.mcount, link := x.link, asym := x.asym, delay := x.delay, ltUp := x.ltUp, ltGlitch := x.ltGlitch, recorded := x.recorded, range := x.range, pendRange := x.pendRange, wm := x.wm, hi := x.hi, fwdHi := x.fwdHi, fciHold := x.fciHold, upAt := x.upAt, corSent := x.corSent, blk := x.blk }).widthCap
      7) (if (!((bringUpAndSteps2.hub.prt 7).lockedMask.testBit 0 && (bringUpAndSteps2.hub.prt 7).peerLocked.testBit 0)) = true
      then 0 else if (!((bringUpAndSteps2.hub.prt 7).lockedMask.testBit 1 && (bringUpAndSteps2.hub.prt 7).peerLocked.testBit 1))
      = true then 1 else if (!((bringUpAndSteps2.hub.prt 7).lockedMask.testBit 2 && (bringUpAndSteps2.hub.prt
      7).peerLocked.testBit 2)) = true then 2 else 3)) ∧
    (7 < bringUpAndSteps3.hub.ports.length ∧ 7 ≠ 0 ∧ (bringUpAndSteps3.hub.prt 7).st = PState.search ∧
      (bringUpAndSteps3.hub.prt 7).mode = 1 ∧ (bringUpAndSteps3.hub.prt 7).peer = 0 ∧ (bringUpAndSteps3.hub.prt 7).lockedMask =
      0 ∧ (bitOf (bringUpAndSteps3.hub.prt 7).cfg 16 = true ∨ bringUpAndSteps3.hub.pwr.st = PowerState.doze) ∧
      (bringUpAndSteps3.hub.prt 7).searchAt + fld (bringUpAndSteps3.hub.prt 7).cfg 15 0 * 1000000 ≤
      bringUpAndSteps3.hub.clk.elapsed) ∧
    ((7 = 0 ∨ ((st up).hub.prt 7).st ≠ PState.search ∨ ((st up).hub.prt 7).mode ≠ 1 ∨ ((st up).hub.prt 7).peer ≠ 0 ∨ ((st
      up).hub.prt 7).lockedMask ≠ 0 ∨ bitOf ((st up).hub.prt 7).cfg 16 = false ∧ (st up).hub.pwr.st ≠ PowerState.doze ∨ (st
      up).hub.clk.elapsed < ((st up).hub.prt 7).searchAt + fld ((st up).hub.prt 7).cfg 15 0 * 1000000)) ∧
    (((st up).hub.prt 7).st ≠ PState.parked) ∧
    (7 < (ln 7 0 PState.parked id).hub.ports.length ∧ ((ln 7 0 PState.parked id).hub.prt 7).st = PState.parked ∧ ((ln 7 0
      PState.parked id).hub.prt 7).mode = 1 ∧ (((ln 7 0 PState.parked id).hub.prt 7).laneWidth ≠ 0 ∨ 7 = 0) ∧ ((ln 7 0
      PState.parked id).hub.die (7 / 4)).inService = true ∧ (ln 7 0 PState.parked id).hub.powered 7 = true ∧ (7 < 2 → (ln 7 0
      PState.parked id).hub.flt.closed = false)) ∧
    (7 ≠ 0) ∧
    ((4 < 5 ∨ ((st up).hub.prt 0).st ≠ PState.up ∧ ((st up).hub.prt 0).st ≠ PState.training ∨ ((st up).hub.prt 0).manual = true
      ∧ ((st up).hub.prt 0).askedAt = none)) ∧
    (0 = 0 ∧ 4 ≤ 4 ∧ (((upLock 0 id).hub.prt 0).manual = false ∨ ((upLock 0 id).hub.prt 0).askedAt ≠ none) ∧ ((upLock 0
      id).hub.prt 0).st = PState.up ∧ (4 ≤ ((upLock 0 id).hub.prt 0).rate ∨ (upLock 0 id).hub.boot.p00Released = true) ∧
      ((upLock 0 id).hub.lane 0 0).lock = LockState.locked) ∧
    (0 = 0 ∧ 0 < (p0 id).hub.ports.length ∧ 4 ≤ 4 ∧ (((p0 id).hub.prt 0).manual = false ∨ ((p0 id).hub.prt 0).askedAt ≠ none) ∧
      ((p0 id).hub.prt 0).st = PState.up ∧ (4 ≤ ((p0 id).hub.prt 0).rate ∨ (p0 id).hub.boot.p00Released = true) ∧ ((p0
      id).hub.lane 0 0).lock ≠ LockState.locked) ∧
    (0 = 0 ∧ 4 ≤ 4 ∧ ((bringUpAndSteps4.hub.prt 0).manual = false ∨ (bringUpAndSteps4.hub.prt 0).askedAt ≠ none) ∧
      (bringUpAndSteps4.hub.prt 0).st = PState.up ∧ (bringUpAndSteps4.hub.prt 0).rate < 4 ∧
      bringUpAndSteps4.hub.boot.p00Released = false) ∧
    (0 = 0 ∧ 0 < (train 0 srun).hub.ports.length ∧ 4 ≤ 4 ∧ (((train 0 srun).hub.prt 0).manual = false ∨ ((train 0 srun).hub.prt
      0).askedAt ≠ none) ∧ ((train 0 srun).hub.prt 0).st = PState.training ∧ ((train 0 srun).hub.prt 0).run = some srun) ∧
    ((0 = 0 ∨ 4 < 0 ∨ ((st up).hub.prt 0).manual = true ∨ ((st up).hub.prt 0).run ≠ none ∧ ((st up).hub.wins 0 && (st
      up).hub.collides 0) = true)) ∧
    (7 < (upLock 7 id).hub.ports.length ∧ 7 ≠ 0 ∧ 4 ≤ 4 ∧ ((upLock 7 id).hub.prt 7).manual = false ∧ ((upLock 7 id).hub.prt
      7).st = PState.up ∧ ((upLock 7 id).hub.prt 7).run = none ∧ ((upLock 7 id).hub.prt 7).ordered = false) ∧
    (7 ≠ 0 ∧ 4 ≤ 4 ∧ (bringUpAndSteps5.hub.prt 7).manual = false ∧ ((bringUpAndSteps5.hub.prt 7).run ≠ none ∧
      (bringUpAndSteps5.hub.wins 7 && bringUpAndSteps5.hub.collides 7) = false ∨ (bringUpAndSteps5.hub.prt 7).run = none ∧
      (bringUpAndSteps5.hub.prt 7).ordered = true)) ∧
    (7 < bringUpAndSteps6.hub.ports.length ∧ 7 ≠ 0 ∧ bitOf (bringUpAndSteps6.hub.prt 7).cfg 17 = true ∧
      (bringUpAndSteps6.hub.prt 7).st = PState.up ∧ (bringUpAndSteps6.hub.prt 7).run = none ∧ (bringUpAndSteps6.hub.prt
      7).manual = false ∧ bringUpAndSteps6.hub.pwr.shed < 2 ∧ (bringUpAndSteps6.hub.prt 7).quietAt + 600000000000 ≤
      bringUpAndSteps6.hub.clk.elapsed ∧ (bringUpAndSteps6.hub.prt 7).rate < bringUpAndSteps6.hub.rateCap 7) ∧
    (7 < bringUpAndSteps7.hub.ports.length ∧ 7 ≠ 0 ∧ bitOf (bringUpAndSteps7.hub.prt 7).cfg 17 = true ∧
      (bringUpAndSteps7.hub.prt 7).st = PState.up ∧ (bringUpAndSteps7.hub.prt 7).run = none ∧ (bringUpAndSteps7.hub.prt
      7).manual = false ∧ bringUpAndSteps7.hub.pwr.shed < 2 ∧ (bringUpAndSteps7.hub.prt 7).quietAt + 600000000000 ≤
      bringUpAndSteps7.hub.clk.elapsed ∧ bringUpAndSteps7.hub.rateCap 7 ≤ (bringUpAndSteps7.hub.prt 7).rate ∧
      (bringUpAndSteps7.hub.prt 7).width < bringUpAndSteps7.hub.widthCap 7 ∧ (bringUpAndSteps7.hub.prt 7).widthRun = none) ∧
    (7 < (late (upLock 7 id)).hub.ports.length ∧ 7 ≠ 0 ∧ bitOf ((late (upLock 7 id)).hub.prt 7).cfg 17 = true ∧ ((late (upLock
      7 id)).hub.prt 7).st = PState.up ∧ ((late (upLock 7 id)).hub.prt 7).run = none ∧ ((late (upLock 7 id)).hub.prt 7).manual =
      false ∧ (late (upLock 7 id)).hub.pwr.shed < 2 ∧ ((late (upLock 7 id)).hub.prt 7).quietAt + 600000000000 ≤ (late (upLock 7
      id)).hub.clk.elapsed ∧ (late (upLock 7 id)).hub.rateCap 7 ≤ ((late (upLock 7 id)).hub.prt 7).rate ∧ (late (upLock 7
      id)).hub.widthCap 7 ≤ ((late (upLock 7 id)).hub.prt 7).width) ∧
    ((7 = 0 ∨ bitOf ((st up).hub.prt 7).cfg 17 = false ∨ ((st up).hub.prt 7).st ≠ PState.up ∨ ((st up).hub.prt 7).run ≠ none ∨
      ((st up).hub.prt 7).manual = true ∨ 2 ≤ (st up).hub.pwr.shed ∨ (st up).hub.clk.elapsed < ((st up).hub.prt 7).quietAt +
      600000000000)) ∧
    ((((st up).hub.prt 7).run = none ∨ ((st up).hub.prt 7).st ≠ PState.training)) ∧
    (((train 7 srun).hub.prt 7).run = some srun ∧ (srun.target ≠ 2 ∨ srun.cause = StepCause.settle)) ∧
    (((train 7 srun).hub.prt 7).st = PState.training ∧ ((train 7 srun).hub.prt 7).run = some srun ∧ srun.target = 3 ∧
      srun.cause ≠ StepCause.settle ∧ srun.own = none) ∧
    (7 < bringUpAndSteps8.hub.ports.length ∧ (bringUpAndSteps8.hub.prt 7).st = PState.training ∧ (bringUpAndSteps8.hub.prt
      7).run = some rtRun ∧ rtRun.target = 3 ∧ rtRun.cause = StepCause.retrain ∧ rtRun.own = some [true, true, true] ∧
      (bringUpAndSteps8.hub.prt 7).manual = false ∧ rtRun.good = [] ∧ (bringUpAndSteps8.hub.prt 7).asked = none ∧
      (bringUpAndSteps8.hub.prt 7).lost = [] ∧ (∀ i < rtRun.fromWidth, [true, true, true].getD i false = true) ∧ 0 < min
      (passWidth [true, true, true] (7 % 8)) (bringUpAndSteps8.hub.widthCap 7) ∧ [true, true, true].getD 0 false = true) ∧
    (7 < (train 7 srun).hub.ports.length ∧ ((train 7 srun).hub.prt 7).lanes.length = 4 ∧ ((train 7 srun).hub.prt 7).st =
      PState.training ∧ ((train 7 srun).hub.prt 7).run = some srun ∧ srun.cause ≠ StepCause.settle ∧ srun.own = none ∧ srun.at'
      = none ∧ srun.since + 1500000 ≤ (train 7 srun).hub.clk.elapsed ∧ ([true, true, true].getD 0 false && !(((train 7
      srun).hub.prt 7).lanes.getD 0 Lane.reset).retired) = true) ∧
    ((bringUpAndSteps9.hub.prt 7).st = PState.training ∧ (bringUpAndSteps9.hub.prt 7).run = some bringUpAndSteps10 ∧
      bringUpAndSteps9.hub.clk.elapsed < bringUpAndSteps10.since + 1500000) ∧
    (((upLock 7 id).hub.prt 7).st = PState.up ∧ ((upLock 7 id).hub.prt 7).widthRun = none ∧ (∀ x ∈ ((upLock 7 id).hub.prt
      7).lanes, ¬(x.rejoins = true ∧ ∃ u, x.wakeAt = some u ∧ u + 3000000 ≤ (upLock 7 id).hub.clk.elapsed))) ∧
    (LaneThere (waking id).hub 7 2 ∧ ((waking id).hub.prt 7).st = PState.up ∧ ((waking id).hub.prt 7).widthRun = none ∧
      ((waking id).hub.lane 7 2).rejoins = true ∧ (∃ u, ((waking id).hub.lane 7 2).wakeAt = some u ∧ u + 3000000 ≤ (waking
      id).hub.clk.elapsed)) ∧
    (LaneThere (waking id).hub 7 2 ∧ ((waking id).hub.prt 7).st = PState.up ∧ ((waking id).hub.prt 7).widthRun = none ∧
      ((waking id).hub.lane 7 2).rejoins = true ∧ (∃ u, ((waking id).hub.lane 7 2).wakeAt = some u ∧ u + 3000000 ≤ (waking
      id).hub.clk.elapsed)) ∧
    ((((st up).hub.prt 7).st ≠ PState.up ∨ 3 = 0 ∨ ((st up).hub.prt 7).manual = true ∧ (7 ≠ 0 ∨ ((st up).hub.prt 7).askedAt =
      none))) ∧
    ((((upLock 7 id).hub.prt 7).st ≠ PState.up ∨ 0 = 0 ∨ ((upLock 7 id).hub.prt 7).manual = true ∧ (7 ≠ 0 ∨ ((upLock 7
      id).hub.prt 7).askedAt = none))) ∧
    (7 ≠ 0 ∧ (bringUpAndSteps11.hub.prt 7).st = PState.up ∧ (bringUpAndSteps11.hub.prt 7).manual = false ∧
      (bringUpAndSteps11.hub.prt 7).run = none ∧ (bringUpAndSteps11.hub.prt 7).widthRun = none ∧ 3 ≠ 0 ∧ min 3
      (bringUpAndSteps11.hub.widthCap 7) ≠ 0 ∧ min 3 (bringUpAndSteps11.hub.widthCap 7) ≠ (bringUpAndSteps11.hub.prt 7).width ∧
      7 < bringUpAndSteps11.hub.ports.length) ∧
    (0 = 0 ∧ 0 < bringUpAndSteps12.hub.ports.length ∧ (bringUpAndSteps12.hub.prt 0).st = PState.up ∧
      ((bringUpAndSteps12.hub.prt 0).manual = false ∨ (bringUpAndSteps12.hub.prt 0).askedAt ≠ none) ∧ 2 ≠ 0 ∧ (∀ x ∈
      { cfg := (bringUpAndSteps12.hub.prt 0).cfg, st := (bringUpAndSteps12.hub.prt 0).st, rate := (bringUpAndSteps12.hub.prt 0).rate, width := (bringUpAndSteps12.hub.prt 0).width, peer := (bringUpAndSteps12.hub.prt 0).peer, peerRate := (bringUpAndSteps12.hub.prt 0).peerRate, peerWidth := (bringUpAndSteps12.hub.prt 0).peerWidth, peerLocked := (bringUpAndSteps12.hub.prt 0).peerLocked, peerSerial := (bringUpAndSteps12.hub.prt 0).peerSerial, manual := (bringUpAndSteps12.hub.prt 0).manual, lanes := (bringUpAndSteps12.hub.prt 0).wakeTo bringUpAndSteps12.hub.clk.elapsed 2, searchAt := (bringUpAndSteps12.hub.prt 0).searchAt, quietAt := (bringUpAndSteps12.hub.prt 0).quietAt, run := (bringUpAndSteps12.hub.prt 0).run, widthRun := (bringUpAndSteps12.hub.prt 0).widthRun, answered := (bringUpAndSteps12.hub.prt 0).answered, asked := (bringUpAndSteps12.hub.prt 0).asked, askedAt := (bringUpAndSteps12.hub.prt 0).askedAt, lost := (bringUpAndSteps12.hub.prt 0).lost, mcount := (bringUpAndSteps12.hub.prt 0).mcount, link := (bringUpAndSteps12.hub.prt 0).link, asym := (bringUpAndSteps12.hub.prt 0).asym, delay := (bringUpAndSteps12.hub.prt 0).delay, ltUp := (bringUpAndSteps12.hub.prt 0).ltUp, ltGlitch := (bringUpAndSteps12.hub.prt 0).ltGlitch, recorded := (bringUpAndSteps12.hub.prt 0).recorded, range := (bringUpAndSteps12.hub.prt 0).range, pendRange := (bringUpAndSteps12.hub.prt 0).pendRange, wm := (bringUpAndSteps12.hub.prt 0).wm, hi := (bringUpAndSteps12.hub.prt 0).hi, fwdHi := (bringUpAndSteps12.hub.prt 0).fwdHi, fciHold := (bringUpAndSteps12.hub.prt 0).fciHold, upAt := (bringUpAndSteps12.hub.prt 0).upAt, corSent := (bringUpAndSteps12.hub.prt 0).corSent, blk := (bringUpAndSteps12.hub.prt 0).blk : Port }.lanes,
      x.rejoins = false) ∧ (bringUpAndSteps12.hub.prt 0).asked = none) ∧
    (0 = 0 ∧ 0 < waking0.hub.ports.length ∧ (waking0.hub.prt 0).st = PState.up ∧ ((waking0.hub.prt 0).manual = false ∨
      (waking0.hub.prt 0).askedAt ≠ none) ∧ 3 ≠ 0 ∧ (∃ x ∈
      { cfg := (waking0.hub.prt 0).cfg, st := (waking0.hub.prt 0).st, rate := (waking0.hub.prt 0).rate, width := (waking0.hub.prt 0).width, peer := (waking0.hub.prt 0).peer, peerRate := (waking0.hub.prt 0).peerRate, peerWidth := (waking0.hub.prt 0).peerWidth, peerLocked := (waking0.hub.prt 0).peerLocked, peerSerial := (waking0.hub.prt 0).peerSerial, manual := (waking0.hub.prt 0).manual, lanes := (waking0.hub.prt 0).wakeTo waking0.hub.clk.elapsed 3, searchAt := (waking0.hub.prt 0).searchAt, quietAt := (waking0.hub.prt 0).quietAt, run := (waking0.hub.prt 0).run, widthRun := (waking0.hub.prt 0).widthRun, answered := (waking0.hub.prt 0).answered, asked := (waking0.hub.prt 0).asked, askedAt := (waking0.hub.prt 0).askedAt, lost := (waking0.hub.prt 0).lost, mcount := (waking0.hub.prt 0).mcount, link := (waking0.hub.prt 0).link, asym := (waking0.hub.prt 0).asym, delay := (waking0.hub.prt 0).delay, ltUp := (waking0.hub.prt 0).ltUp, ltGlitch := (waking0.hub.prt 0).ltGlitch, recorded := (waking0.hub.prt 0).recorded, range := (waking0.hub.prt 0).range, pendRange := (waking0.hub.prt 0).pendRange, wm := (waking0.hub.prt 0).wm, hi := (waking0.hub.prt 0).hi, fwdHi := (waking0.hub.prt 0).fwdHi, fciHold := (waking0.hub.prt 0).fciHold, upAt := (waking0.hub.prt 0).upAt, corSent := (waking0.hub.prt 0).corSent, blk := (waking0.hub.prt 0).blk : Port }.lanes,
      x.rejoins = true)) ∧
    ((7 = 0 ∨ ∀ (v : ℕ) (b : Bool), ((st up).hub.prt 7).widthRun ≠ some { want := v, order := none, armed := b })) ∧
    (7 < bringUpAndSteps13.hub.ports.length ∧ 7 ≠ 0 ∧ (bringUpAndSteps13.hub.prt 7).st = PState.up ∧ (∀ x ∈
      (bringUpAndSteps13.hub.prt 7).lanes, x.rejoins = false) ∧ (bringUpAndSteps13.hub.prt 7).widthRun = some
      { want := 3, order := none, armed := false } ∧ min 3 (passWidth (List.map (fun i => (bringUpAndSteps13.hub.prt
      7).accepts.testBit i) (List.range 3)) 7) ≠ 0 ∧ min 3 (passWidth (List.map (fun i => (bringUpAndSteps13.hub.prt
      7).accepts.testBit i) (List.range 3)) 7) ≠ (bringUpAndSteps13.hub.prt 7).width) ∧
    (7 ≠ 0 ∧ (bringUpAndSteps14.hub.prt 7).st = PState.up ∧ (∀ x ∈ (bringUpAndSteps14.hub.prt 7).lanes, x.rejoins = false) ∧
      (bringUpAndSteps14.hub.prt 7).widthRun = some { want := 3, order := none, armed := false } ∧ (min 3 (passWidth (List.map
      (fun i => (bringUpAndSteps14.hub.prt 7).accepts.testBit i) (List.range 3)) 7) = 0 ∨ min 3 (passWidth (List.map (fun i =>
      (bringUpAndSteps14.hub.prt 7).accepts.testBit i) (List.range 3)) 7) = (bringUpAndSteps14.hub.prt 7).width) ∧
      (bringUpAndSteps14.hub.prt 7).asked = none ∧ ((bringUpAndSteps14.hub.prt 7).manual = true ∨ (bringUpAndSteps14.hub.prt
      7).rate ≤ bringUpAndSteps14.hub.rateCap 7 ∧ (bringUpAndSteps14.hub.prt 7).width ≤ bringUpAndSteps14.hub.widthCap 7)) ∧
    (7 ≠ 0 ∧ (bringUpAndSteps15.hub.prt 7).st = PState.up ∧ (bringUpAndSteps15.hub.prt 7).widthRun = some
      { want := 3, order := none, armed := false } ∧ (∃ x ∈ (bringUpAndSteps15.hub.prt 7).lanes, x.rejoins = true)) ∧
    (0 = 0 ∧ ((upLock 0 id).hub.prt 0).st = PState.up ∧ 1 ≤ 3 ∧ 3 ≤ 3 ∧ (((upLock 0 id).hub.prt 0).manual = false ∨ ((upLock 0
      id).hub.prt 0).askedAt ≠ none)) ∧
    ((((st up).hub.prt 0).st ≠ PState.up ∨ 0 = 0 ∨ 3 < 0 ∨ ((st up).hub.prt 0).manual = true ∧ ((st up).hub.prt 0).askedAt =
      none)) ∧
    (portSettings2.hub.hk.dropped = 0 ∧ (portSettings2.hub.prt 7).manual = true) ∧
    (7 < (upLock 7 id).hub.ports.length ∧ (upLock 7 id).hub.hk.dropped = 0 ∧ ((upLock 7 id).hub.prt 7).manual = false ∧
      ((upLock 7 id).hub.prt 7).st = PState.up ∧ ((upLock 7 id).hub.prt 7).run = none ∧ ((upLock 7 id).hub.prt 7).ordered =
      false ∧ 7 ≠ 0) := by
  and_intros <;> first
    | decide +kernel
    | exact ⟨_, rfl, by decide +kernel⟩
    | (exact .inr fun _ _ => ne_of_isNone (by decide +kernel))
    | (intros; exact ne_of_isNone (by decide +kernel))

/-- Obligations.PacketsAccepted. -/
theorem witness_PacketsAccepted :
    ((¬((st up).hub.prt 7).st = PState.up)) ∧
    (((st up).hub.prt 1).st ≠ PState.up) ∧
    (Accepted (pup 7 id).hub 7 (pk 3)) ∧
    (Accepted packetsAccepted1.hub 7 (pk 1)) ∧
    (Accepted packetsAccepted2.hub 1 (pk 2) ∧ 1 = 1) ∧
    ((packetsAccepted3.hub.prt 7).st = PState.up ∧ (packetsAccepted3.hub.prt 7).link.rxClass ≠ 0 ∧ (pk 3).cls =
      (packetsAccepted3.hub.prt 7).link.rxClass ∧ 3 ≤ (pk 3).lenBlocks ∧ (pk 3).aborted = false ∧ ((pk 3).crcGood = false ∨ (pk
      3).seq ≠ (packetsAccepted3.hub.prt 7).link.rxSeq) ∧ (packetsAccepted3.hub.prt 7).link.nakOpen = true) ∧
    ((packetsAccepted4.hub.prt 7).st = PState.up ∧ (packetsAccepted4.hub.prt 7).link.rxClass ≠ 0 ∧ (pk 3).cls =
      (packetsAccepted4.hub.prt 7).link.rxClass ∧ 3 ≤ (pk 3).lenBlocks ∧ (pk 3).aborted = false ∧ ((pk 3).crcGood = false ∨ (pk
      3).seq ≠ (packetsAccepted4.hub.prt 7).link.rxSeq) ∧ (packetsAccepted4.hub.prt 7).link.nakOpen = false ∧ (List.filter (fun
      t => decide (packetsAccepted4.hub.clk.elapsed < t + 1000000000)) (packetsAccepted4.hub.prt 7).link.naks).length < 16 ∧
      Instr.stream 7 (pk 3) ∈ [Instr.stream 7 (pk 3), Instr.trig 7 (pk 3) arr]) ∧
    (((pup 7 id).hub.prt 7).st = PState.up ∧ ((pup 7 id).hub.prt 7).link.rxClass ≠ 0 ∧ packetsAccepted5.cls = ((pup 7
      id).hub.prt 7).link.rxClass ∧ 3 ≤ packetsAccepted5.lenBlocks ∧ packetsAccepted5.aborted = true ∧ packetsAccepted6 ∈
      [Instr.stream 7 packetsAccepted5, Instr.trig 7 packetsAccepted5 arr]) ∧
    ((packetsAccepted7.hub.prt 7).st = PState.up ∧ (¬((packetsAccepted7.hub.prt 7).link.rxClass ≠ 0 ∧ packetsAccepted8.cls =
      (packetsAccepted7.hub.prt 7).link.rxClass ∧ 3 ≤ packetsAccepted8.lenBlocks)) ∧ packetsAccepted9 ∈ [Instr.stream 7
      packetsAccepted8, Instr.trig 7 packetsAccepted8 arr] ∧ (packetsAccepted7.hub.prt 7).link.nakOpen = true) ∧
    (((pup 7 id).hub.prt 7).st = PState.up ∧ (¬(((pup 7 id).hub.prt 7).link.rxClass ≠ 0 ∧ packetsAccepted8.cls = ((pup 7
      id).hub.prt 7).link.rxClass ∧ 3 ≤ packetsAccepted8.lenBlocks)) ∧ packetsAccepted9 ∈ [Instr.stream 7 packetsAccepted8,
      Instr.trig 7 packetsAccepted8 arr] ∧ ((pup 7 id).hub.prt 7).link.nakOpen = false ∧ (List.filter (fun t => decide ((pup 7
      id).hub.clk.elapsed < t + 1000000000)) ((pup 7 id).hub.prt 7).link.naks).length < 16) ∧
    (1 = 1 ∧ (packetsAccepted10.hub.prt 1).st = PState.up ∧ (packetsAccepted10.hub.prt 1).link.rxClass ≠ 0 ∧
      packetsAccepted11.cls = (packetsAccepted10.hub.prt 1).link.rxClass ∧ 3 ≤ packetsAccepted11.lenBlocks ∧
      packetsAccepted11.aborted = false ∧ (packetsAccepted11.crcGood = false ∨ packetsAccepted11.seq ≠
      (packetsAccepted10.hub.prt 1).link.rxSeq) ∧ (packetsAccepted10.hub.prt 1).link.nakOpen = true ∧ (packetsAccepted11.cls ≠ 2
      ∨ packetsAccepted11.dest ≠ 0 ∨ packetsAccepted10.hub.takesFrame frame = false)) ∧
    (1 ≤ 4 ∧ 4 ≤ 4) ∧
    ((5 = 0 ∨ 4 < 5)) ∧
    (Shaped (pup 7 id).hub ∧ Accepted (pup 7 id).hub 7 packetsAccepted12 ∧ 7 < (pup 7 id).hub.nPorts ∧ packetsAccepted12.cls ≤
      4 ∧ (pup 7 id).hub.boot.netboot = false ∧ (∀ i < (pup 7 id).hub.nPorts, ((pup 7 id).hub.prt i).link.queues.length = 4) ∧
      (pup 7 id).hub.route 7 packetsAccepted12.dest = none ∧ packetsAccepted13 ∈ [Instr.stream 7 packetsAccepted12, Instr.trig 7
      packetsAccepted12 arr]) ∧
    (Shaped (pup 7 id).hub ∧ Accepted (pup 7 id).hub 7 (pk 3) ∧ 7 < (pup 7 id).hub.nPorts ∧ (pk 3).cls ≤ 4 ∧ (pup 7
      id).hub.boot.netboot = false ∧ (∀ i < (pup 7 id).hub.nPorts, ((pup 7 id).hub.prt i).link.queues.length = 4) ∧ (pup 7
      id).hub.route 7 (pk 3).dest = some (false, [0])) ∧
    (Shaped (pup 0 id).hub ∧ Accepted (pup 0 id).hub 0 packetsAccepted14 ∧ 0 < (pup 0 id).hub.nPorts ∧ packetsAccepted14.cls ≤
      4 ∧ (pup 0 id).hub.boot.netboot = false ∧ (∀ i < (pup 0 id).hub.nPorts, ((pup 0 id).hub.prt i).link.queues.length = 4) ∧
      (pup 0 id).hub.route 0 packetsAccepted14.dest = some (true, [])) ∧
    (Shaped (pup 7 id).hub ∧ Accepted (pup 7 id).hub 7 (pk 3) ∧ 7 < (pup 7 id).hub.nPorts ∧ (pk 3).cls ≤ 4 ∧ (pup 7
      id).hub.boot.netboot = false ∧ (∀ i < (pup 7 id).hub.nPorts, ((pup 7 id).hub.prt i).link.queues.length = 4) ∧ (pup 7
      id).hub.route 7 (pk 3).dest = some (false, [0]) ∧ false = false) ∧
    (7 ≠ 0) ∧
    (addr5.addressed = true ∧ 5 = addr5.addr) ∧
    (up.addressed = false) ∧
    (addr5.addressed = true) ∧
    (fwdHub.hub.route 0 6 = some (false, [1])) ∧
    (fwdHub.hub.route 0 9 = some (false, [1])) ∧
    (fwdHub.hub.route 0 10 = none ∧ 1 < fwdHub.hub.nPorts ∧ (fwdHub.hub.prt 1).range = some (6, 9)) := by
  and_intros <;> first | decide +kernel | (unfold Shaped; decide +kernel) | (unfold Accepted; decide +kernel)

/-- Obligations.Retransmission. -/
theorem witness_Retransmission :
    (7 < retransmission1.hub.ports.length) ∧
    ((¬((st up).hub.prt 7).st = PState.up)) ∧
    ((retransmission2.hub.prt 7).st = PState.up ∧ 7 < retransmission2.hub.ports.length ∧ (∀ (u : ℕ), (retransmission2.hub.prt
      7).link.lastNak = some (5, u) → u + (retransmission2.hub.prt 7).link.timeout ≤ retransmission2.hub.clk.elapsed)) ∧
    ((retransmission3.hub.prt 7).st = PState.up ∧ 7 < retransmission3.hub.ports.length ∧ (retransmission3.hub.prt
      7).link.lastNak = some (5, 4999990000) ∧ retransmission3.hub.clk.elapsed < 4999990000 + (retransmission3.hub.prt
      7).link.timeout) ∧
    ((retransmission2.hub.prt 7).st = PState.up ∧ (retransmission2.hub.prt 7).link.replay ≠ [] ∧ (retransmission2.hub.prt
      7).link.ackAt + (retransmission2.hub.prt 7).link.timeout ≤ retransmission2.hub.clk.elapsed) ∧
    ((((st up).hub.prt 7).link.replay = [] ∨ (st up).hub.clk.elapsed < ((st up).hub.prt 7).link.ackAt + ((st up).hub.prt
      7).link.timeout)) ∧
    ((packetsAccepted7.hub.prt 7).st = PState.up ∧ 7 < packetsAccepted7.hub.ports.length ∧ (packetsAccepted7.hub.prt
      7).link.nakOpen = true ∧ (packetsAccepted7.hub.prt 7).link.nakAt + (packetsAccepted7.hub.prt 7).link.timeout ≤
      packetsAccepted7.hub.clk.elapsed) ∧
    ((((st up).hub.prt 7).link.nakOpen = false ∨ (st up).hub.clk.elapsed < ((st up).hub.prt 7).link.nakAt + ((st up).hub.prt
      7).link.timeout)) ∧
    (((pup 7 id).hub.prt 7).st = PState.up) ∧
    (((pup 7 id).hub.prt 7).st = PState.up) ∧
    ((retransmission4.hub.prt 7).st = PState.up ∧ (retransmission4.hub.prt 7).link.pauseGone = false ∧ (retransmission4.hub.prt
      7).link.pauseAt + 100000 ≤ retransmission4.hub.clk.elapsed) ∧
    (((retransmission5.hub.prt 7).link.pauseGone = true ∨ retransmission5.hub.clk.elapsed < (retransmission5.hub.prt
      7).link.pauseAt + 100000)) := by
  and_intros <;> first | decide +kernel | (intro _ h; exact absurd h (ne_of_isNone (by decide +kernel)))

/-- Obligations.Enumeration. -/
theorem witness_Enumeration :
    ((¬((up0 id).hub.prt 0).st = PState.up ∨ 256 = 0 ∨ 255 < 256)) ∧
    (((up0 id).hub.prt 0).st = PState.up ∧ 1 ≤ 255 ∧ 255 ≤ 255) ∧
    ((1 ≠ (up0 id).hub.enm.round ∨ ¬((up0 id).hub.prt 0).st = PState.up)) ∧
    (3 = enumeration1.hub.enm.round ∧ (enumeration1.hub.prt 0).st = PState.up ∧ enumeration1.hub.enm.eligible = true ∧ 4094 ≤
      4094) ∧
    (3 = enumeration1.hub.enm.round ∧ (enumeration1.hub.prt 0).st = PState.up ∧ enumeration1.hub.enm.eligible = true ∧ 4094 <
      4095) ∧
    (3 = enumeration2.hub.enm.round ∧ (enumeration2.hub.prt 0).st = PState.up ∧ enumeration2.hub.enm.eligible = false ∧
      (enumeration2.hub.prt 1).recorded = false) ∧
    (3 = enumeration3.hub.enm.round ∧ (enumeration3.hub.prt 0).st = PState.up ∧ enumeration3.hub.enm.eligible = false ∧
      (enumeration3.hub.prt 1).recorded = true) ∧
    (4 ≠ enumeration2.hub.enm.round) ∧
    (3 = enumeration4.hub.enm.round ∧ enumeration4.hub.enm.through = true ∧ 1 = 1) ∧
    ((enumeration2.hub.enm.through = false ∨ 7 ≠ 1) ∧ (∀ (rest : List ℕ) (n : ℕ) (fl : Bool), enumeration2.hub.enm.walk ≠ some
      (rest, 7, n, fl))) ∧
    (3 = enumeration5.hub.enm.round ∧ (enumeration5.hub.enm.through = false ∨ 7 ≠ 1) ∧ enumeration5.hub.enm.walk = some ([], 7,
      5, false) ∧ 7 < enumeration5.hub.ports.length) ∧
    (3 = enumeration6.hub.enm.round ∧ enumeration6.hub.enm.eligible = true ∧ enumeration6.hub.enm.pending = some 5) ∧
    (3 = enumeration1.hub.enm.round ∧ (enumeration1.hub.enm.eligible = true ∧ enumeration1.hub.enm.pending = none ∨
      enumeration1.hub.enm.eligible = false ∧ enumeration1.hub.enm.claimed = false)) ∧
    (3 = enumeration7.hub.enm.round ∧ enumeration7.hub.enm.eligible = false ∧ enumeration7.hub.enm.claimed = true) ∧
    ((7 = 0 ∨ (st up).hub.boot.netboot = true ∨ ¬((st up).hub.prt 0).st = PState.up)) ∧
    (7 ≠ 0 ∧ (up0 id).hub.boot.netboot = false ∧ ((up0 id).hub.prt 0).st = PState.up) ∧
    (7 ≠ 0 ∧ (up0 id).hub.boot.netboot = false ∧ ((up0 id).hub.prt 0).st = PState.up) ∧
    (7 ≠ 0 ∧ enumeration8.hub.boot.netboot = false ∧ (enumeration8.hub.prt 0).st = PState.up ∧ (BitVec.toNat (4486007441326080
      : BitVec (56 : ℕ)) / (2 : ℕ) ^ (52 : ℕ) ≠ (0 : ℕ) ∨ BitVec.toNat (4486007441326080 : BitVec (56 : ℕ)) / (2 : ℕ) ^ (44 : ℕ)
      % (256 : ℕ) = enumeration8.hub.enm.round)) ∧
    (BitVec.toNat (0 : BitVec (56 : ℕ)) / (2 : ℕ) ^ (52 : ℕ) = (0 : ℕ) ∧ BitVec.toNat (0 : BitVec (56 : ℕ)) / (2 : ℕ) ^ (44 :
      ℕ) % (256 : ℕ) ≠ enumeration8.hub.enm.round) ∧
    (enumeration9.hub.enm.arriveAt = some 4000000000 ∧ enumeration9.hub.enm.pending = none ∧ enumeration9.hub.addressed = false
      ∧ (enumeration9.hub.prt 0).st = PState.up ∧ 4000000000 + 1000000000 ≤ enumeration9.hub.clk.elapsed) ∧
    (((st up).hub.enm.arriveAt = none ∨ (st up).hub.addressed = true ∨ (st up).hub.enm.pending ≠ none ∨ ¬((st up).hub.prt 0).st
      = PState.up ∨ ∃ u, (st up).hub.enm.arriveAt = some u ∧ (st up).hub.clk.elapsed < u + 1000000000)) ∧
    (((st up).hub.nPorts ≤ 8 ∨ ((st up).hub.prt 8).st ≠ PState.test ∧ ((st up).hub.prt 8).prbsPeriod = false ∧ ((st up).hub.prt
      8).sends = false)) ∧
    (((st up).hub.nPorts ≤ 7 ∨ ((st up).hub.prt 7).st ≠ PState.test ∧ ((st up).hub.prt 7).prbsPeriod = false ∧ ((st up).hub.prt
      7).sends = false)) ∧
    (7 < (ln 7 0 PState.test id).hub.nPorts ∧ ((ln 7 0 PState.test id).hub.prt 7).st = PState.test) ∧
    (7 < (train 7 srun).hub.nPorts ∧ ((train 7 srun).hub.prt 7).prbsPeriod = true) ∧
    (Shaped enumeration10.hub ∧ 7 < enumeration10.hub.nPorts ∧ ((enumeration10.hub.prt 7).st = PState.search ∨
      (enumeration10.hub.prt 7).st = PState.wiring) ∧ (enumeration10.hub.prt 7).blk < 1023) ∧
    (Shaped enumeration11.hub ∧ 7 < enumeration11.hub.nPorts ∧ (enumeration11.hub.prt 7).st ≠ PState.test ∧
      (enumeration11.hub.prt 7).prbsPeriod = false ∧ (enumeration11.hub.prt 7).sends = true ∧ 1023 ≤ (enumeration11.hub.prt
      7).blk / (enumeration11.hub.prt 7).txWidth) ∧
    (Shaped enumeration12.hub ∧ 7 < enumeration12.hub.nPorts ∧ ((enumeration12.hub.prt 7).st = PState.up ∨
      (enumeration12.hub.prt 7).st = PState.plain) ∧ (enumeration12.hub.prt 7).blk / (enumeration12.hub.prt 7).txWidth < 1023 ∧
      7 ≠ 0 ∧ (enumeration12.hub.prt 7).st = PState.up ∧ (enumeration12.hub.prt 7).corSent ≠ secOf enumeration12.hub.tm.now + 1
      ∧ (secOf enumeration12.hub.tm.now + 1) * fuSec - enumeration12.hub.tm.now ≤ fuSec / 10 ∧ fuSec / 100 ≤ (secOf
      enumeration12.hub.tm.now + 1) * fuSec - enumeration12.hub.tm.now) ∧
    (Shaped enumeration13.hub ∧ 0 < enumeration13.hub.nPorts ∧ ((enumeration13.hub.prt 0).st = PState.up ∨
      (enumeration13.hub.prt 0).st = PState.plain) ∧ (enumeration13.hub.prt 0).blk / (enumeration13.hub.prt 0).txWidth < 1023 ∧
      (0 = 0 ∨ (enumeration13.hub.prt 0).st = PState.plain ∨ (enumeration13.hub.prt 0).corSent = secOf enumeration13.hub.tm.now
      + 1) ∧ (enumeration13.hub.prt 0).link.ctl = [{ code := 85, payload := 7 }] ∧ { code := 85, payload := 7 : CtlBlock }.code
      ≠ 135 ∧ (0 ≠ 0 ∨ { code := 85, payload := 7 : CtlBlock }.code ≠ 204 ∧ { code := 85, payload := 7 : CtlBlock }.code ≠ 102)) ∧
    (Shaped enumeration14.hub ∧ 0 < enumeration14.hub.nPorts ∧ ((enumeration14.hub.prt 0).st = PState.up ∨
      (enumeration14.hub.prt 0).st = PState.plain) ∧ (enumeration14.hub.prt 0).blk / (enumeration14.hub.prt 0).txWidth < 1023 ∧
      (0 = 0 ∨ (enumeration14.hub.prt 0).st = PState.plain ∨ (enumeration14.hub.prt 0).corSent = secOf enumeration14.hub.tm.now
      + 1) ∧ (enumeration14.hub.prt 0).link.ctl = [] ∧ (enumeration14.hub.prt 0).st = PState.up ∧ enumeration14.hub.addressed =
      false) ∧
    (Shaped enumeration15.hub ∧ 0 < enumeration15.hub.nPorts ∧ ((enumeration15.hub.prt 0).st = PState.up ∨
      (enumeration15.hub.prt 0).st = PState.plain) ∧ (enumeration15.hub.prt 0).blk / (enumeration15.hub.prt 0).txWidth < 1023 ∧
      (0 = 0 ∨ (enumeration15.hub.prt 0).st = PState.plain ∨ (enumeration15.hub.prt 0).corSent = secOf enumeration15.hub.tm.now
      + 1) ∧ (enumeration15.hub.prt 0).link.ctl = [] ∧ (enumeration15.hub.prt 0).link.again = [] ∧ (enumeration15.hub.prt
      0).link.queues = [[], [], [], []] ∧ enumeration15.hub.readyFlows 0 = [] ∧ ((enumeration15.hub.prt 0).st = PState.plain ∨
      enumeration15.hub.addressed = true) ∧ 1 ≤ 3 ∧ 3 ≤ 4 ∧ (enumeration15.hub.prt 0).link.active = [none, none, none, none].set
      (3 - 1) (some (fr, 2, none)) ∧ (enumeration15.hub.prt 0).link.txClass = 3 ∧ 1 < 2) ∧
    (Shaped enumeration16.hub ∧ 0 < enumeration16.hub.nPorts ∧ ((enumeration16.hub.prt 0).st = PState.up ∨
      (enumeration16.hub.prt 0).st = PState.plain) ∧ (enumeration16.hub.prt 0).blk / (enumeration16.hub.prt 0).txWidth < 1023 ∧
      (0 = 0 ∨ (enumeration16.hub.prt 0).st = PState.plain ∨ (enumeration16.hub.prt 0).corSent = secOf enumeration16.hub.tm.now
      + 1) ∧ (enumeration16.hub.prt 0).link.ctl = [] ∧ (enumeration16.hub.prt 0).link.again = [] ∧ (enumeration16.hub.prt
      0).link.queues = [[], [], [], []] ∧ enumeration16.hub.readyFlows 0 = [] ∧ ((enumeration16.hub.prt 0).st = PState.plain ∨
      enumeration16.hub.addressed = true) ∧ 1 ≤ 3 ∧ 3 ≤ 4 ∧ (enumeration16.hub.prt 0).link.active = [none, none, none, none].set
      (3 - 1) (some (fr, 2, none)) ∧ (enumeration16.hub.prt 0).link.txClass ≠ 3) ∧
    (Shaped enumeration17.hub ∧ 0 < enumeration17.hub.nPorts ∧ ((enumeration17.hub.prt 0).st = PState.up ∨
      (enumeration17.hub.prt 0).st = PState.plain) ∧ (enumeration17.hub.prt 0).blk / (enumeration17.hub.prt 0).txWidth < 1023 ∧
      (0 = 0 ∨ (enumeration17.hub.prt 0).st = PState.plain ∨ (enumeration17.hub.prt 0).corSent = secOf enumeration17.hub.tm.now
      + 1) ∧ (enumeration17.hub.prt 0).link.ctl = [] ∧ (enumeration17.hub.prt 0).link.again = [] ∧ (enumeration17.hub.prt
      0).link.queues = [[], [], [], []] ∧ enumeration17.hub.readyFlows 0 = [] ∧ ((enumeration17.hub.prt 0).st = PState.plain ∨
      enumeration17.hub.addressed = true) ∧ 1 ≤ 3 ∧ 3 ≤ 4 ∧ (enumeration17.hub.prt 0).link.txClass = 3 ∧ 1 ≤ 1 ∧
      (enumeration17.hub.prt 0).link.active = [none, none, none, none].set (3 - 1) (some (fr, 1, none)) ∧ fr.cls = 3) ∧
    (Shaped enumeration18.hub ∧ 0 < enumeration18.hub.nPorts ∧ ((enumeration18.hub.prt 0).st = PState.up ∨
      (enumeration18.hub.prt 0).st = PState.plain) ∧ (enumeration18.hub.prt 0).blk / (enumeration18.hub.prt 0).txWidth < 1023 ∧
      (0 = 0 ∨ (enumeration18.hub.prt 0).st = PState.plain ∨ (enumeration18.hub.prt 0).corSent = secOf enumeration18.hub.tm.now
      + 1) ∧ (enumeration18.hub.prt 0).link.ctl = [] ∧ (enumeration18.hub.prt 0).link.again = [] ∧ (enumeration18.hub.prt
      0).link.queues = [[], [], [], []] ∧ enumeration18.hub.readyFlows 0 = [] ∧ ((enumeration18.hub.prt 0).st = PState.plain ∨
      enumeration18.hub.addressed = true) ∧ 1 ≤ 3 ∧ 3 ≤ 4 ∧ (enumeration18.hub.prt 0).link.txClass = 3 ∧ 1 ≤ 1 ∧
      (enumeration18.hub.prt 0).link.active = [none, none, none, none].set (3 - 1) (some (fr, 1, some 5)) ∧ fr.cls = 3) ∧
    (Shaped enumeration19.hub ∧ 0 < enumeration19.hub.nPorts ∧ ((enumeration19.hub.prt 0).st = PState.up ∨
      (enumeration19.hub.prt 0).st = PState.plain) ∧ (enumeration19.hub.prt 0).blk / (enumeration19.hub.prt 0).txWidth < 1023 ∧
      (0 = 0 ∨ (enumeration19.hub.prt 0).st = PState.plain ∨ (enumeration19.hub.prt 0).corSent = secOf enumeration19.hub.tm.now
      + 1) ∧ (enumeration19.hub.prt 0).link.ctl = [] ∧ (enumeration19.hub.prt 0).link.again = [] ∧ (enumeration19.hub.prt
      0).link.active = [none, none, none, none] ∧ 1 ≤ 3 ∧ 3 ≤ 3 ∧ (enumeration19.hub.prt 0).link.queues = [[], [], [], []].set
      (3 - 1) [fr] ∧ enumeration19.hub.mayStart 0 fr = true) ∧
    (Shaped (up0 id).hub ∧ 0 < (up0 id).hub.nPorts ∧ (((up0 id).hub.prt 0).st = PState.up ∨ ((up0 id).hub.prt 0).st =
      PState.plain) ∧ ((up0 id).hub.prt 0).blk / ((up0 id).hub.prt 0).txWidth < 1023 ∧ (0 = 0 ∨ ((up0 id).hub.prt 0).st =
      PState.plain ∨ ((up0 id).hub.prt 0).corSent = secOf (up0 id).hub.tm.now + 1) ∧ ((up0 id).hub.prt 0).link.ctl = [] ∧ ((up0
      id).hub.prt 0).link.again = [] ∧ ((up0 id).hub.prt 0).link.queues = [[], [], [], []] ∧ (up0 id).hub.readyFlows 0 = [] ∧
      ((up0 id).hub.prt 0).link.active = [none, none, none, none]) := by
  and_intros <;> first | decide +kernel | (unfold Shaped; decide +kernel) | (intros; exact ne_of_isNone (by decide +kernel))

/-- Obligations.CalibrationCommands. -/
theorem witness_CalibrationCommands :
    (([32] = [] ∨ ∃ o ∈ [32], (st up).hub.nOcts ≤ o)) ∧
    ([0, 31] ≠ [] ∧ [0, 31].Nodup ∧ (∀ o ∈ [0, 31], o < (st up).hub.nOcts ∧ (st up).hub.dieDown (o / 16) = false)) ∧
    ((∀ o ∈ [0, 16], o < (st die1gone).hub.nOcts ∧ ((st die1gone).hub.dieDown (o / 16) = true → 1 ≤ o / 16)) ∧ (∃ o ∈ [0, 16],
      o / 16 = 1) ∧ (st die1gone).hub.dieDown 1 = true) ∧
    (badCalCfg 16777216 = true) ∧
    (badCalCfg 2147549441 = false) ∧
    ((102 < 2 ∨ (st up).hub.nChans < 255 + 2)) ∧
    ((102 < 103 ∨ (st up).hub.nChans < 0 + 103)) ∧
    (2 ≤ 102 ∧ 127 + 2 ≤ (st die1gone).hub.nChans ∧ (∀ i < 2, (st die1gone).hub.dieDown (chDie (127 + i)) = true → 1 ≤ chDie
      (127 + i)) ∧ (∃ i < 2, chDie (127 + i) = 1) ∧ (st die1gone).hub.dieDown 1 = true) ∧
    (102 ≤ 102 ∧ 154 + 102 ≤ (st up).hub.nChans ∧ (∀ i < 102, (st up).hub.dieDown (chDie (154 + i)) = false)) := by
  and_intros <;> decide +kernel

/-- Obligations.CalibrationSlots. -/
theorem witness_CalibrationSlots :
    (Shaped (st up).hub ∧ (¬(st up).hub.calRuns 2 = true)) ∧
    (Shaped (st up).hub ∧ (st up).hub.nextOctet 0 = none) ∧
    (Shaped calibrationSlots1.hub ∧ calibrationSlots1.hub.calRuns 0 = true ∧ calibrationSlots1.hub.nextOctet 0 = some 3) ∧
    (Shaped calibrationSlots2.hub ∧ calibrationSlots2.hub.calRuns 1 = true ∧ calibrationSlots2.hub.nextOctet 1 = some 31) ∧
    (Shaped (st up).hub ∧ (st up).hub.slotOf 0 = none ∧ (CalEvent.hold, 2, 2) ∈ [(CalEvent.refCheck, 0, 0), (CalEvent.preCheck,
      1, 0), (CalEvent.hold, 2, 2), (CalEvent.zero, 3, 12), (CalEvent.gain [], 4, 52), (CalEvent.segment [], 5, 102),
      (CalEvent.tap [], 6, 122), (CalEvent.excitation em0, 7, 142), (CalEvent.selfTest [], 8, 147), (CalEvent.release, 9, 150)]) ∧
    (Shaped (slotSt 2 false).hub ∧ (slotSt 2 false).hub.slotOf 0 = some (slot 2) ∧ (CalEvent.preCheck, 1, 0) ∈
      [(CalEvent.refCheck, 0, 0), (CalEvent.preCheck, 1, 0), (CalEvent.hold, 2, 2), (CalEvent.zero, 3, 12), (CalEvent.gain [],
      4, 52), (CalEvent.segment [], 5, 102), (CalEvent.tap [], 6, 122), (CalEvent.excitation em0, 7, 142), (CalEvent.selfTest
      [], 8, 147), (CalEvent.release, 9, 150)] ∧ ((slot 2).step ≠ (CalEvent.preCheck, 1, 0).2.1 ∨ (slotSt 2
      false).hub.clk.elapsed < (slot 2).t0 + (CalEvent.preCheck, 1, 0).2.2 * 1000000)) ∧
    (Shaped calibrationSlots3.hub ∧ calibrationSlots3.hub.slotOf 0 = some calibrationSlots4 ∧ (CalEvent.hold, 2, 2) ∈
      [(CalEvent.refCheck, 0, 0), (CalEvent.preCheck, 1, 0), (CalEvent.hold, 2, 2), (CalEvent.zero, 3, 12), (CalEvent.gain [],
      4, 52), (CalEvent.segment [], 5, 102), (CalEvent.tap [], 6, 122), (CalEvent.excitation em0, 7, 142), (CalEvent.selfTest
      [], 8, 147), (CalEvent.release, 9, 150)] ∧ (calibrationSlots4.step ≠ (CalEvent.hold, 2, 2).2.1 ∨
      calibrationSlots3.hub.clk.elapsed < calibrationSlots4.t0 + (CalEvent.hold, 2, 2).2.2 * 1000000)) ∧
    (Shaped (slotSt 0 false).hub ∧ (slotSt 0 false).hub.refDone 0 = none) ∧
    (Shaped calibrationSlots5.hub ∧ calibrationSlots5.hub.calRuns 0 = true ∧ calibrationSlots5.hub.slotOf 0 = some (slot 0) ∧
      (slot 0).step = 0 ∧ (slot 0).t0 + 0 * 1000000 ≤ calibrationSlots5.hub.clk.elapsed ∧ calibrationSlots5.hub.refDone 0 = some
      rOk ∧ rOk.fails = none) ∧
    (Shaped calibrationSlots6.hub ∧ calibrationSlots6.hub.calRuns 0 = true ∧ calibrationSlots6.hub.slotOf 0 = some (slot 0) ∧
      (slot 0).step = 0 ∧ (slot 0).t0 + 0 * 1000000 ≤ calibrationSlots6.hub.clk.elapsed ∧ calibrationSlots6.hub.refDone 0 = some
      rBad ∧ rBad.fails = some 0) ∧
    (Shaped calibrationSlots7.hub ∧ calibrationSlots7.hub.calRuns 0 = true ∧ calibrationSlots7.hub.slotOf 0 = some pre ∧
      pre.step = 1 ∧ pre.t0 + 0 * 1000000 ≤ calibrationSlots7.hub.clk.elapsed ∧ calibrationSlots7.hub.unread pre = []) ∧
    (Shaped (slotOfSt pre false).hub ∧ (slotOfSt pre false).hub.calRuns 0 = true ∧ (slotOfSt pre false).hub.slotOf 0 = some pre
      ∧ pre.step = 1 ∧ pre.t0 + 0 * 1000000 ≤ (slotOfSt pre false).hub.clk.elapsed ∧ pre.oct / 16 = 0 ∧ (slotOfSt pre
      false).hub.unread pre ≠ []) ∧
    (Shaped calibrationSlots8.hub ∧ calibrationSlots8.hub.calRuns 0 = true ∧ calibrationSlots8.hub.slotOf 0 = some
      calibrationSlots9 ∧ calibrationSlots9.step = 2 ∧ calibrationSlots9.t0 + 2 * 1000000 ≤ calibrationSlots8.hub.clk.elapsed) ∧
    (Shaped calibrationSlots10.hub ∧ calibrationSlots10.hub.calRuns 0 = true ∧ calibrationSlots10.hub.slotOf 0 = some
      calibrationSlots11 ∧ calibrationSlots11.step = 3 ∧ calibrationSlots11.t0 + 12 * 1000000 ≤
      calibrationSlots10.hub.clk.elapsed) ∧
    (Shaped calibrationSlots12.hub ∧ calibrationSlots12.hub.calRuns 0 = true ∧ calibrationSlots12.hub.slotOf 0 = some
      calibrationSlots13 ∧ calibrationSlots13.step = 4 ∧ calibrationSlots13.t0 + 52 * 1000000 ≤
      calibrationSlots12.hub.clk.elapsed) ∧
    (Shaped calibrationSlots14.hub ∧ calibrationSlots14.hub.calRuns 0 = true ∧ calibrationSlots14.hub.slotOf 0 = some
      calibrationSlots16 ∧ calibrationSlots16.step = 5 ∧ calibrationSlots16.t0 + 102 * 1000000 ≤
      calibrationSlots14.hub.clk.elapsed) ∧
    (Shaped calibrationSlots17.hub ∧ calibrationSlots17.hub.calRuns 0 = true ∧ calibrationSlots17.hub.slotOf 0 = some
      calibrationSlots18 ∧ calibrationSlots18.step = 6 ∧ calibrationSlots18.t0 + 122 * 1000000 ≤
      calibrationSlots17.hub.clk.elapsed) ∧
    (Shaped calibrationSlots19.hub ∧ calibrationSlots19.hub.calRuns 0 = true ∧ calibrationSlots19.hub.slotOf 0 = some
      calibrationSlots20 ∧ calibrationSlots20.step = 7 ∧ calibrationSlots20.t0 + 142 * 1000000 ≤
      calibrationSlots19.hub.clk.elapsed) ∧
    (Shaped calibrationSlots19.hub ∧ calibrationSlots19.hub.calRuns 0 = true ∧ calibrationSlots19.hub.slotOf 0 = some
      calibrationSlots20 ∧ calibrationSlots20.step = 7 ∧ calibrationSlots20.t0 + 142 * 1000000 ≤
      calibrationSlots19.hub.clk.elapsed) ∧
    (Shaped calibrationSlots22.hub ∧ calibrationSlots22.hub.calRuns 0 = true ∧ calibrationSlots22.hub.slotOf 0 = some
      calibrationSlots23 ∧ calibrationSlots23.step = 8 ∧ calibrationSlots23.t0 + 147 * 1000000 ≤
      calibrationSlots22.hub.clk.elapsed) ∧
    (Shaped calibrationSlots24.hub ∧ calibrationSlots24.hub.calRuns 0 = true ∧ calibrationSlots24.hub.slotOf 0 = some ended ∧
      ended.step = 9 ∧ ended.t0 + 150 * 1000000 ≤ calibrationSlots24.hub.clk.elapsed ∧ calibrationSlots24.hub.refDone 0 = some
      rOk ∧ ended.oct < calibrationSlots24.hub.nOcts ∧ rOk.fails = none) ∧
    (Shaped calibrationSlots25.hub ∧ calibrationSlots25.hub.calRuns 0 = true ∧ calibrationSlots25.hub.slotOf 0 = some ended ∧
      ended.step = 9 ∧ ended.t0 + 150 * 1000000 ≤ calibrationSlots25.hub.clk.elapsed ∧ calibrationSlots25.hub.refDone 0 = some
      rOk ∧ ended.oct < calibrationSlots25.hub.nOcts ∧ rOk.fails = none) ∧
    (Shaped calibrationSlots26.hub ∧ calibrationSlots26.hub.calRuns 0 = true ∧ calibrationSlots26.hub.slotOf 0 = some ended ∧
      ended.step = 9 ∧ ended.t0 + 150 * 1000000 ≤ calibrationSlots26.hub.clk.elapsed ∧ calibrationSlots26.hub.refDone 0 = some
      rOk ∧ ended.oct < calibrationSlots26.hub.nOcts ∧ rOk.fails = none) ∧
    (Shaped calibrationSlots27.hub ∧ calibrationSlots27.hub.calRuns 0 = true ∧ calibrationSlots27.hub.slotOf 0 = some ended ∧
      ended.step = 9 ∧ ended.t0 + 150 * 1000000 ≤ calibrationSlots27.hub.clk.elapsed ∧ calibrationSlots27.hub.refDone 0 = some
      rOk ∧ ended.oct < calibrationSlots27.hub.nOcts ∧ rOk.fails = none) ∧
    (Shaped calibrationSlots28.hub ∧ calibrationSlots28.hub.calRuns 0 = true ∧ calibrationSlots28.hub.slotOf 0 = some ended ∧
      ended.step = 9 ∧ ended.t0 + 150 * 1000000 ≤ calibrationSlots28.hub.clk.elapsed ∧ calibrationSlots28.hub.refDone 0 = some
      rBad ∧ ended.oct < calibrationSlots28.hub.nOcts ∧ rBad.fails = some 0) ∧
    (Shaped (st up).hub ∧ (st up).hub.calRuns 0 = true ∧ List.find? (fun y => y.die == 0 && (st up).hub.rampOver y) (st
      up).hub.cal.ramps = none) ∧
    (Shaped ramped.hub ∧ ramped.hub.calRuns 0 = true ∧ List.find? (fun y => y.die == 0 && ramped.hub.rampOver y)
      ramped.hub.cal.ramps = some calibrationSlots29) ∧
    ((0, 1) ∈ (m0.segment calibrationSlots30).spares) ∧
    (0 < 8 ∧ [1, 1073741825][0]? = some 1) ∧
    (Shaped (st up).hub ∧ (st up).hub.calRuns 0 = true ∧ (st up).hub.dies[0]? = some (up.die 0) ∧ ((st up).hub.turnOf 0 = none
      ∨ (up.die 0).audit.calPass = some (st up).hub.cal.passNo ∨ (up.die 0).audit.paused = true)) ∧
    (Shaped calibrationSlots31.hub ∧ calibrationSlots31.hub.calRuns 0 = true ∧ calibrationSlots31.hub.dies[0]? = some (up.die
      0) ∧ calibrationSlots31.hub.turnOf 0 ≠ none ∧ (up.die 0).audit.calPass ≠ some calibrationSlots31.hub.cal.passNo ∧ (up.die
      0).audit.paused = false) ∧
    (Shaped (st up).hub ∧ (st up).hub.calRuns 0 = true ∧ (st up).hub.dies[0]? = some (up.die 0) ∧ (up.die 0).audit.cal = none) ∧
    (Shaped calibrationSlots32.hub ∧ calibrationSlots32.hub.calRuns 0 = true ∧ calibrationSlots32.hub.dies[0]? = some
      calibrationSlots33 ∧ calibrationSlots33.audit.cal = some (0, List.replicate 23 5) ∧ (calibrationSlots32.hub.clk.elapsed <
      0 + 2000000 ∨ (List.replicate 23 5).length < 24)) ∧
    (Shaped calibrationSlots34.hub ∧ calibrationSlots34.hub.calRuns 0 = true ∧ calibrationSlots34.hub.dies[0]? = some
      calibrationSlots35 ∧ calibrationSlots35.audit.cal = some (4998000000, List.replicate 24 5) ∧ 4998000000 + 2000000 ≤
      calibrationSlots34.hub.clk.elapsed ∧ 24 ≤ (List.replicate 24 5).length) ∧
    (Shaped (st up).hub ∧ (st up).hub.calRuns 0 = true ∧ (st up).hub.dies[0]? = some (up.die 0) ∧ 12 ≤ 12) ∧
    (Shaped calibrationSlots36.hub ∧ calibrationSlots36.hub.calRuns 0 = true ∧ calibrationSlots36.hub.dies[0]? = some
      calibrationSlots37 ∧ 7 < 12 ∧ calibrationSlots37.tiu[7]? = some calibrationSlots38 ∧ (calibrationSlots38.pass = some
      calibrationSlots36.hub.cal.passNo ∨ calibrationSlots38.testAt ≠ none)) ∧
    (Shaped (st up).hub ∧ (st up).hub.calRuns 1 = true ∧ (st up).hub.dies[1]? = some (up.die 1) ∧ 11 < 12 ∧ (up.die 1).tiu[11]?
      = some TiuChan.reset ∧ TiuChan.reset.pass ≠ some (st up).hub.cal.passNo ∧ TiuChan.reset.testAt = none) ∧
    (Shaped calibrationSlots39.hub ∧ calibrationSlots39.hub.calRuns 0 = true ∧ calibrationSlots39.hub.dies[0]? = some
      calibrationSlots40 ∧ 7 < 12 ∧ calibrationSlots40.tiu[7]? = some calibrationSlots41 ∧ (calibrationSlots41.testAt = none ∨
      (∃ t0, calibrationSlots41.testAt = some t0 ∧ calibrationSlots39.hub.clk.elapsed < t0 + 40000000) ∨ hits0.length ≠ 32 ∨
      hits0.sum ≠ 2000000)) ∧
    (Shaped calibrationSlots42.hub ∧ calibrationSlots42.hub.calRuns 0 = true ∧ calibrationSlots42.hub.dies[0]? = some
      calibrationSlots43 ∧ 7 < 12 ∧ calibrationSlots43.tiu[7]? = some calibrationSlots44 ∧ calibrationSlots44.testAt = some
      4960000000 ∧ 4960000000 + 40000000 ≤ calibrationSlots42.hub.clk.elapsed ∧ hits0.length = 32 ∧ hits0.sum = 2000000) ∧
    (Shaped calibrationSlots45.hub ∧ calibrationSlots45.hub.calRuns 0 = true ∧ calibrationSlots45.hub.dies[0]? = some
      calibrationSlots46 ∧ 7 < 12 ∧ calibrationSlots46.tiu[7]? = some calibrationSlots47 ∧ calibrationSlots47.next = some hits0) ∧
    (Shaped (st up).hub ∧ (st up).hub.calRuns 0 = true ∧ (st up).hub.dies[0]? = some (up.die 0) ∧ 7 < 12 ∧ (up.die 0).tiu[7]? =
      some TiuChan.reset ∧ TiuChan.reset.next = none) ∧
    (Shaped (eyes true []).hub ∧ (eyes true []).hub.calRuns 0 = true ∧ (eyes true []).hub.dies[0]? = some (up.die 0) ∧ (7 / 4 ≠
      0 ∨ (eyes true []).hub.hasEye (7, 1) = false ∨ ¬(((eyes true []).hub.lane 7 1).eyeDue = true ∨ List.find? (eyes true
      []).hub.hasEye (eyes true []).hub.cal.margins = some (7, 1)))) ∧
    (Shaped (eyes true []).hub ∧ (eyes true []).hub.calRuns 1 = true ∧ (eyes true []).hub.dies[1]? = some (up.die 1) ∧ 7 / 4 =
      1 ∧ (eyes true []).hub.hasEye (7, 2) = true ∧ (((eyes true []).hub.lane 7 2).eyeDue = true ∨ List.find? (eyes true
      []).hub.hasEye (eyes true []).hub.cal.margins = some (7, 2))) ∧
    (Shaped calibrationSlots49.hub ∧ calibrationSlots49.hub.calRuns 1 = true ∧ calibrationSlots49.hub.dies[1]? = some (up.die
      1) ∧ 7 / 4 = 1 ∧ calibrationSlots49.hub.hasEye (7, 0) = true ∧ ((calibrationSlots49.hub.lane 7 0).eyeDue = true ∨
      List.find? calibrationSlots49.hub.hasEye calibrationSlots49.hub.cal.margins = some (7, 0))) ∧
    ((calibrationSlots50.hub.cal.suspended ≠ none ∨ calibrationSlots50.hub.calReady 0 = false ∨ ∃ x ∈
      calibrationSlots50.hub.cal.slots, x.die = 0)) ∧
    (calibrationSlots51.hub.cal.suspended = none ∧ calibrationSlots51.hub.calReady 0 = true ∧ (∀ x ∈
      calibrationSlots51.hub.cal.slots, x.die ≠ 0) ∧ List.find? (fun x => x / 16 == 0) (List.filter calibrationSlots51.hub.calOk
      calibrationSlots51.hub.cal.pass) = some 3) ∧
    (calibrationSlots1.hub.cal.slots = [] ∧ calibrationSlots1.hub.cal.suspended = none ∧ List.filter
      calibrationSlots1.hub.calOk calibrationSlots1.hub.cal.pass = [] ∧ calibrationSlots1.hub.calReady 0 = true ∧ List.find?
      calibrationSlots1.hub.calOk (calibrationSlots1.hub.cal.failed.toList ++ calibrationSlots1.hub.cal.requests) = some 3 ∧ 3 /
      16 = 0) ∧
    (calibrationSlots52.hub.cal.slots = [] ∧ calibrationSlots52.hub.cal.suspended = none ∧ List.filter
      calibrationSlots52.hub.calOk calibrationSlots52.hub.cal.pass = [] ∧ calibrationSlots52.hub.calReady 0 = true ∧ (∀ a ∈
      calibrationSlots52.hub.cal.failed.toList ++ calibrationSlots52.hub.cal.requests, calibrationSlots52.hub.calOk a = false) ∧
      calibrationSlots52.hub.cal.bgDue = some 3 ∧ calibrationSlots52.hub.calOk 3 = true ∧ calibrationSlots52.hub.pwr.st ≠
      PowerState.doze ∧ (calibrationSlots52.hub.sheds3 = false ∨ calibrationSlots52.hub.cal.bgDueAt + 3600000000000 ≤
      calibrationSlots52.hub.clk.elapsed) ∧ 3 / 16 = 0) ∧
    ((¬(bitOf (st up).hub.cal.cfg 31 = true ∧ (st up).hub.cal.passDone = true ∧ (st up).hub.cal.pass = [] ∧ (st up).hub.pwr.st
      ≠ PowerState.doze ∧ (∀ (a : ℕ), (st up).hub.cal.bgDue = some a → (st up).hub.calOk a = false) ∧ (st up).hub.eligible ≠ []
      ∧ (st up).hub.cal.bgAt + fld (st up).hub.cal.cfg 15 8 * 3600000000000 / (st up).hub.eligible.length ≤ (st
      up).hub.clk.elapsed))) ∧
    (bitOf (bg id).hub.cal.cfg 31 = true ∧ (bg id).hub.cal.passDone = true ∧ (bg id).hub.cal.pass = [] ∧ (bg id).hub.pwr.st ≠
      PowerState.doze ∧ (∀ (a : ℕ), (bg id).hub.cal.bgDue = some a → (bg id).hub.calOk a = false) ∧ (bg id).hub.eligible ≠ [] ∧
      (bg id).hub.cal.bgAt + fld (bg id).hub.cal.cfg 15 8 * 3600000000000 / (bg id).hub.eligible.length ≤ (bg
      id).hub.clk.elapsed ∧ (∃ a ∈ (bg id).hub.eligible, ¬(((bg id).hub.oct a).byRequest = true ∧ ∃ u, ((bg id).hub.oct
      a).lastCal = some u ∧ (bg id).hub.clk.elapsed < u + fld (bg id).hub.cal.cfg 15 8 * 3600000000000 / 2))) ∧
    (bitOf calibrationSlots53.hub.cal.cfg 31 = true ∧ calibrationSlots53.hub.cal.passDone = true ∧
      calibrationSlots53.hub.cal.pass = [] ∧ calibrationSlots53.hub.pwr.st ≠ PowerState.doze ∧ (∀ (a : ℕ),
      calibrationSlots53.hub.cal.bgDue = some a → calibrationSlots53.hub.calOk a = false) ∧ calibrationSlots53.hub.eligible ≠ []
      ∧ calibrationSlots53.hub.cal.bgAt + fld calibrationSlots53.hub.cal.cfg 15 8 * 3600000000000 /
      calibrationSlots53.hub.eligible.length ≤ calibrationSlots53.hub.clk.elapsed ∧ (∀ a ∈ calibrationSlots53.hub.eligible,
      (calibrationSlots53.hub.oct a).byRequest = true ∧ ∃ u, (calibrationSlots53.hub.oct a).lastCal = some u ∧
      calibrationSlots53.hub.clk.elapsed < u + fld calibrationSlots53.hub.cal.cfg 15 8 * 3600000000000 / 2)) ∧
    (((st up).hub.cal.suspended = none ∨ ¬(0 < (st up).hub.nDies ∧ (st up).hub.boot.running = true ∧ (st up).hub.dieDown 0 =
      false ∧ ((st up).hub.aud 0).retired = false ∧ ∀ x ∈ (st up).hub.cal.slots, x.die ≠ 0))) ∧
    (calibrationSlots54.hub.cal.suspended = some 0 ∧ calibrationSlots54.hub.clk.elapsed < 0 + 60000000000) ∧
    (Shaped calibrationSlots55.hub ∧ calibrationSlots55.hub.cal.suspended = some 0 ∧ 0 + 60000000000 ≤
      calibrationSlots55.hub.clk.elapsed ∧ 0 < calibrationSlots55.hub.nDies ∧ calibrationSlots55.hub.boot.running = true ∧
      calibrationSlots55.hub.dieDown 0 = false ∧ (calibrationSlots55.hub.aud 0).retired = false ∧ (∀ x ∈
      calibrationSlots55.hub.cal.slots, x.die ≠ 0) ∧ (calibrationSlots55.hub.aud 0).ref ≠ none) ∧
    (Shaped (susp none).hub ∧ (susp none).hub.cal.suspended = some 0 ∧ 0 + 60000000000 ≤ (susp none).hub.clk.elapsed ∧ 0 <
      (susp none).hub.nDies ∧ (susp none).hub.boot.running = true ∧ (susp none).hub.dieDown 0 = false ∧ ((susp none).hub.aud
      0).retired = false ∧ (∀ x ∈ (susp none).hub.cal.slots, x.die ≠ 0) ∧ ((susp none).hub.aud 0).ref = none) ∧
    (Shaped (susp none).hub ∧ (susp none).hub.cal.suspended = some 0 ∧ 0 + 60000000000 ≤ (susp none).hub.clk.elapsed ∧ 0 <
      (susp none).hub.nDies ∧ (susp none).hub.boot.running = true ∧ (susp none).hub.dieDown 0 = false ∧ ((susp none).hub.aud
      0).retired = false ∧ (∀ x ∈ (susp none).hub.cal.slots, x.die ≠ 0) ∧ (susp none).hub.refDone 0 = none) ∧
    (Shaped (susp (some rOk)).hub ∧ (susp (some rOk)).hub.cal.suspended = some 0 ∧ 0 + 60000000000 ≤ (susp (some
      rOk)).hub.clk.elapsed ∧ 0 < (susp (some rOk)).hub.nDies ∧ (susp (some rOk)).hub.boot.running = true ∧ (susp (some
      rOk)).hub.dieDown 0 = false ∧ ((susp (some rOk)).hub.aud 0).retired = false ∧ (∀ x ∈ (susp (some rOk)).hub.cal.slots,
      x.die ≠ 0) ∧ (susp (some rOk)).hub.refDone 0 = some rOk) ∧
    (Shaped (susp (some rBad)).hub ∧ (susp (some rBad)).hub.cal.suspended = some 0 ∧ 0 + 60000000000 ≤ (susp (some
      rBad)).hub.clk.elapsed ∧ 0 < (susp (some rBad)).hub.nDies ∧ (susp (some rBad)).hub.boot.running = true ∧ (susp (some
      rBad)).hub.dieDown 0 = false ∧ ((susp (some rBad)).hub.aud 0).retired = false ∧ (∀ x ∈ (susp (some rBad)).hub.cal.slots,
      x.die ≠ 0) ∧ (susp (some rBad)).hub.refDone 0 = some rBad) ∧
    ((((st up).hub.oct 31).requeueAt = none ∨ (st up).hub.nOcts ≤ 31)) ∧
    ((calibrationSlots56.hub.oct 31).requeueAt = some 5000000001 ∧ calibrationSlots56.hub.clk.elapsed < 5000000001) ∧
    (Shaped calibrationSlots57.hub ∧ 31 < calibrationSlots57.hub.nOcts ∧ (calibrationSlots57.hub.oct 31).requeueAt = some
      5000000000 ∧ 5000000000 ≤ calibrationSlots57.hub.clk.elapsed) := by
  and_intros <;> first | decide +kernel | (unfold Shaped; decide +kernel)

/-- Obligations.PowerAndShedding. -/
theorem witness_PowerAndShedding :
    (keep.hub.inKeep = true) ∧
    ((st up).hub.inKeep = false ∧ (1 = 1 ∨ 3 < 1)) ∧
    ((st up).hub.inKeep = false ∧ (4 = 1 ∨ 3 < 4)) ∧
    ((st up).hub.inKeep = false) ∧
    ((st up).hub.pwr.keepAt = none) ∧
    (powerAndShedding1.hub.pwr.keepAt = some 4990000001 ∧ (powerAndShedding1.hub.clk.elapsed < 4990000001 + 10000000 ∨
      powerAndShedding1.hub.mgmt.owes [3073] = true)) ∧
    (powerAndShedding2.hub.pwr.keepAt = some 4990000000 ∧ 4990000000 + 10000000 ≤ powerAndShedding2.hub.clk.elapsed ∧
      powerAndShedding2.hub.mgmt.owes [3073] = false) ∧
    (((∃ q ∈ [8], 4 * (st up).hub.nDies ≤ q) ∨ ∃ q < 4 * (st up).hub.nDies, (st up).hub.powered q = true ∧ q ∉ [8] ∧ (st
      up).hub.needed q = true)) ∧
    (((∃ q ∈ [1], 4 * (st up).hub.nDies ≤ q) ∨ ∃ q < 4 * (st up).hub.nDies, (st up).hub.powered q = true ∧ q ∉ [1] ∧ (st
      up).hub.needed q = true)) ∧
    ((¬∃ q ∈ [0, 1, 2, 3], 4 * (st die1gone).hub.nDies ≤ q) ∧ (¬∃ q < 4 * (st die1gone).hub.nDies, (st die1gone).hub.powered q
      = true ∧ q ∉ [0, 1, 2, 3] ∧ (st die1gone).hub.needed q = true) ∧ (∀ (q : ℕ), q < 4 * (st die1gone).hub.nDies ∧ ¬((st
      die1gone).hub.powered q = true ↔ q ∈ [0, 1, 2, 3]) → (st die1gone).hub.dieDown (q / 4) = true → 1 ≤ q / 4) ∧ (∃ q, (q < 4
      * (st die1gone).hub.nDies ∧ ¬((st die1gone).hub.powered q = true ↔ q ∈ [0, 1, 2, 3])) ∧ q / 4 = 1) ∧ (st
      die1gone).hub.dieDown 1 = true) ∧
    (Shaped (st up).hub ∧ (¬∃ q ∈ [0, 1], 4 * (st up).hub.nDies ≤ q) ∧ (¬∃ q < 4 * (st up).hub.nDies, (st up).hub.powered q =
      true ∧ q ∉ [0, 1] ∧ (st up).hub.needed q = true) ∧ (∀ (q : ℕ), q < 4 * (st up).hub.nDies ∧ ¬((st up).hub.powered q = true
      ↔ q ∈ [0, 1]) → (st up).hub.dieDown (q / 4) = false)) ∧
    (Shaped (st up).hub ∧ (¬∃ q ∈ [0, 1, 7], 4 * (st up).hub.nDies ≤ q) ∧ (¬∃ q < 4 * (st up).hub.nDies, (st up).hub.powered q
      = true ∧ q ∉ [0, 1, 7] ∧ (st up).hub.needed q = true) ∧ (∀ (q : ℕ), q < 4 * (st up).hub.nDies ∧ ¬((st up).hub.powered q =
      true ↔ q ∈ [0, 1, 7]) → (st up).hub.dieDown (q / 4) = false)) ∧
    ((10500 ≤ 10500 ∨ (st up).hub.pwr.vexcLow = true ∨ (st up).hub.boot.tr = none)) ∧
    ((10800 < 10800 ∨ (st up).hub.pwr.vexcLow = false)) ∧
    (10499 < 10500 ∧ (st up).hub.pwr.vexcLow = false ∧ (st up).hub.boot.tr.isSome = true) ∧
    (10800 ≤ 10800 ∧ powerAndShedding3.hub.pwr.vexcLow = true) ∧
    (powerAndShedding4.hub.manages = false) ∧
    ((st up).hub.manages = true ∧ Instr.mgtLoad [1, 2] ∈ [Instr.telem, Instr.mgtLoad [1, 2]]) ∧
    ((st up).hub.manages = true ∧ Instr.telem ∈ [Instr.telem, Instr.mgtLoad []]) ∧
    ((st up).hub.manages = true ∧ (st up).hub.telemWaits = false) ∧
    (powerAndShedding4.hub.boot.running = false) ∧
    (powerAndShedding5.hub.boot.running = true ∧ 1300 ≤ powerAndShedding5.hub.pwr.tjMax) ∧
    (powerAndShedding6.hub.boot.running = true ∧ 1150 ≤ powerAndShedding6.hub.pwr.tjMax ∧ powerAndShedding6.hub.pwr.tjMax <
      1300 ∧ powerAndShedding6.hub.pwr.shed < 5 ∧ powerAndShedding6.hub.pwr.shedAt + 1000000000 ≤
      powerAndShedding6.hub.clk.elapsed) ∧
    (powerAndShedding7.hub.boot.running = true ∧ 1150 ≤ powerAndShedding7.hub.pwr.tjMax ∧ powerAndShedding7.hub.pwr.tjMax <
      1300 ∧ (5 ≤ powerAndShedding7.hub.pwr.shed ∨ powerAndShedding7.hub.clk.elapsed < powerAndShedding7.hub.pwr.shedAt +
      1000000000)) ∧
    (powerAndShedding8.hub.boot.running = true ∧ powerAndShedding8.hub.pwr.tjMax ≤ 1100 ∧ 0 < powerAndShedding8.hub.pwr.shed ∧
      powerAndShedding8.hub.pwr.shedAt + 10000000000 ≤ powerAndShedding8.hub.clk.elapsed) ∧
    (powerAndShedding9.hub.boot.running = true ∧ powerAndShedding9.hub.pwr.tjMax ≤ 1100 ∧ (powerAndShedding9.hub.pwr.shed = 0 ∨
      powerAndShedding9.hub.clk.elapsed < powerAndShedding9.hub.pwr.shedAt + 10000000000)) ∧
    (powerAndShedding10.hub.boot.running = true ∧ 1100 < powerAndShedding10.hub.pwr.tjMax ∧ powerAndShedding10.hub.pwr.tjMax <
      1150) ∧
    (keep.hub.inKeep = true) ∧
    (powerAndShedding11.hub.inKeep = false ∧ (powerAndShedding11.hub.pwr.holdUp.isSome = true ∨
      ¬(powerAndShedding11.hub.boot.tr.isSome = true ∨ powerAndShedding11.hub.boot.bays ≠ []))) ∧
    ((st up).hub.inKeep = false ∧ (st up).hub.pwr.holdUp = none ∧ ((st up).hub.boot.tr.isSome = true ∨ (st up).hub.boot.bays ≠
      []) ∧ ((st up).hub.prt 0).st ≠ PState.up) ∧
    (upLink0.hub.inKeep = false ∧ upLink0.hub.pwr.holdUp = none ∧ (upLink0.hub.boot.tr.isSome = true ∨ upLink0.hub.boot.bays ≠
      []) ∧ (upLink0.hub.prt 0).st = PState.up) ∧
    ((st up).hub.pwr.holdUp = none) ∧
    (powerAndShedding12.hub.pwr.holdUp = some 4999800001 ∧ powerAndShedding12.hub.clk.elapsed < 4999800001 + 200000) ∧
    (powerAndShedding13.hub.pwr.holdUp = some 4999800000 ∧ 4999800000 + 200000 ≤ powerAndShedding13.hub.clk.elapsed) := by
  and_intros <;> first
    | decide +kernel
    | (unfold Shaped; decide +kernel)
    | (intro q hq; obtain ⟨h1, h2⟩ := hq; revert h2; revert h1; revert q; decide +kernel)
    | exact ⟨4, by decide +kernel⟩

/-- Obligations.Pmbus. -/
theorem witness_Pmbus :
    (Pec.good ≠ Pec.bad ∧ ((1 : Byte) = (255 : Byte) ∨ BitVec.toNat (1 : Byte) < (st up).hub.nDies)) ∧
    ((Pec.unused = Pec.bad ∨ (2 : Byte) ≠ (255 : Byte) ∧ (st up).hub.nDies ≤ BitVec.toNat (2 : Byte))) ∧
    (Pec.unused ≠ Pec.bad) ∧
    ((st up).hub.pmbus.page = 255) ∧
    ((¬pmbus1.hub.pmbus.page = 255)) ∧
    ((st up).hub.pmbus.page = 255) ∧
    ((¬pmbus1.hub.pmbus.page = 255)) ∧
    (15 ∉ [14, 13, 12, 11, 8, 6, 4, 3, 2, 1]) := by
  and_intros <;> decide +kernel

/-- Obligations.FaultsAndTests. -/
theorem witness_FaultsAndTests :
    (badFlt 0 0 0 0 = true) ∧
    (badFlt 25165834 16777217 16777217 33554433 = false) ∧
    (3 < unitType 1073741824 ∧ faultsAndTests1 ∈ [Instr.fltRetire 1073741824, Instr.fltRestore 1073741824]) ∧
    (3 < unitType 4278190080 ∧ faultsAndTests2 ∈ [Instr.fltRetire 4278190080, Instr.fltRestore 4278190080]) ∧
    (unitType (unitChan 256) = 0 ∧ (st up).hub.nChans ≤ unitId (unitChan 256) ∧ faultsAndTests3 ∈ [Instr.fltRetire (unitChan
      256), Instr.fltRestore (unitChan 256)]) ∧
    (128 < (st die1gone).hub.nChans ∧ (st die1gone).hub.dieDown (chDie 128) = true ∧ faultsAndTests4 ∈ [Instr.fltRetire
      (unitChan 128), Instr.fltRestore (unitChan 128)]) ∧
    (255 < (st die1gone).hub.nChans ∧ (st die1gone).hub.dieDown (chDie 255) = true ∧ faultsAndTests5 ∈ [Instr.fltRetire
      (unitChan 255), Instr.fltRestore (unitChan 255)]) ∧
    (Shaped (st up).hub ∧ 255 < (st up).hub.nChans ∧ (st up).hub.dieDown (chDie 255) = false ∧ ((st up).hub.ch 255).retired =
      none) ∧
    (0 < ret0.hub.nChans ∧ ret0.hub.dieDown (chDie 0) = false ∧ (ret0.hub.ch 0).retired.isSome = true) ∧
    (0 < (st up).hub.nChans ∧ (st up).hub.dieDown (chDie 0) = false ∧ ((st up).hub.ch 0).retired = none) ∧
    (Shaped ret0.hub ∧ 0 < ret0.hub.nChans ∧ ret0.hub.dieDown (chDie 0) = false ∧ (ret0.hub.ch 0).retired.isSome = true ∧
      (ret0.hub.freeEngine 0).isSome = true) ∧
    (Shaped faultsAndTests6.hub ∧ 0 < faultsAndTests6.hub.nChans ∧ faultsAndTests6.hub.dieDown (chDie 0) = false ∧
      (faultsAndTests6.hub.ch 0).retired.isSome = true ∧ faultsAndTests6.hub.freeEngine 0 = none) ∧
    (unitType (unitLane 8 0) = 1 ∧ (st up).hub.nPorts ≤ unitId (unitLane 8 0) / 4 ∧ faultsAndTests7 ∈ [Instr.fltRetire
      (unitLane 8 0), Instr.fltRestore (unitLane 8 0)]) ∧
    (7 < (st die1gone).hub.nPorts ∧ 3 < 4 ∧ (st die1gone).hub.dieDown (7 / 4) = true ∧ faultsAndTests8 ∈ [Instr.fltRetire
      (unitLane 7 3), Instr.fltRestore (unitLane 7 3)]) ∧
    (PortUp (p0lanes [3]).hub 0 ∧ LaneThere (p0lanes [3]).hub 0 3 ∧ 3 < 4 ∧ ((p0lanes [3]).hub.lane 0 3).retired = true) ∧
    (PortUp (p0lanes [1, 2]).hub 0 ∧ LaneThere (p0lanes [1, 2]).hub 0 0 ∧ 0 < 4 ∧ ((p0lanes [1, 2]).hub.lane 0 0).retired =
      false ∧ 0 = 0 ∧ (∀ k < 3, ((p0lanes [1, 2]).hub.lane 0 k).retired = false ↔ k = 0)) ∧
    (PortUp (st up).hub 0 ∧ LaneThere (st up).hub 0 0 ∧ 0 < 4 ∧ ((st up).hub.lane 0 0).retired = false ∧ (0 = 0 → ∃ k < 3, k ≠
      0 ∧ ((st up).hub.lane 0 k).retired = false)) ∧
    (PortUp (st up).hub 7 ∧ LaneThere (st up).hub 7 2 ∧ 2 < 4 ∧ ((st up).hub.lane 7 2).retired = false ∧ (7 = 0 → ∃ k < 3, k ≠
      2 ∧ ((st up).hub.lane 0 k).retired = false)) ∧
    (PortUp (p0lanes [0, 2]).hub 0 ∧ LaneThere (p0lanes [0, 2]).hub 0 3 ∧ 3 < 4 ∧ ((p0lanes [0, 2]).hub.lane 0 3).retired =
      false ∧ (0 = 0 → ∃ k < 3, k ≠ 3 ∧ ((p0lanes [0, 2]).hub.lane 0 k).retired = false)) ∧
    (PortUp (st up).hub 7 ∧ LaneThere (st up).hub 7 2 ∧ 2 < 4 ∧ ((st up).hub.lane 7 2).retired = false) ∧
    (PortUp (p0lanes [3]).hub 0 ∧ LaneThere (p0lanes [3]).hub 0 3 ∧ 3 < 4 ∧ ((p0lanes [3]).hub.lane 0 3).retired = true) ∧
    (unitType (unitEngine 2 0) = 2 ∧ (st up).hub.nDies ≤ unitId (unitEngine 2 0) / 136 ∧ faultsAndTests9 ∈ [Instr.fltRetire
      (unitEngine 2 0), Instr.fltRestore (unitEngine 2 0)]) ∧
    (1 < faultsAndTests10.hub.nDies ∧ 135 < 136 ∧ unitEngine 1 135 ∈ faultsAndTests10.hub.flt.retired) ∧
    (1 < (st up).hub.nDies ∧ 135 < 136 ∧ unitEngine 1 135 ∉ (st up).hub.flt.retired) ∧
    (0 < (st up).hub.nDies ∧ 5 < 136 ∧ unitEngine 0 5 ∉ (st up).hub.flt.retired) ∧
    (1 < (st die1gone).hub.nDies ∧ 135 < 136 ∧ (st die1gone).hub.dieDown 1 = true ∧ unitEngine 1 135 ∉ (st
      die1gone).hub.flt.retired) ∧
    (1 < faultsAndTests11.hub.nDies ∧ 135 < 136 ∧ faultsAndTests11.hub.dieDown 1 = true ∧ unitEngine 1 135 ∈
      faultsAndTests11.hub.flt.retired) ∧
    (Shaped (st up).hub ∧ 1 < (st up).hub.nDies ∧ 135 < 136 ∧ (st up).hub.dieDown 1 = false ∧ unitEngine 1 135 ∉ (st
      up).hub.flt.retired) ∧
    (Shaped faultsAndTests10.hub ∧ 1 < faultsAndTests10.hub.nDies ∧ 135 < 136 ∧ faultsAndTests10.hub.dieDown 1 = false ∧
      unitEngine 1 135 ∈ faultsAndTests10.hub.flt.retired) ∧
    (unitType (unitDie 0) = 3 ∧ (unitId (unitDie 0) = 0 ∨ (st up).hub.nDies ≤ unitId (unitDie 0))) ∧
    (unitType (unitDie 1) = 3 ∧ ((st up).hub.nDies ≤ unitId (unitDie 1) ∨ unitDie 1 ∉ (st up).hub.flt.retired)) ∧
    (Shaped die0ret.hub ∧ 1 < die0ret.hub.nDies ∧ 1 ≠ 0 ∧ unitDie 1 ∈ die0ret.hub.flt.retired) ∧
    (Shaped (st up).hub ∧ 1 < (st up).hub.nDies ∧ 1 ≠ 0 ∧ unitDie 1 ∉ (st up).hub.flt.retired ∧ ((st up).hub.die 1).frozen =
      false) ∧
    (Shaped (frozen1 []).hub ∧ 1 < (frozen1 []).hub.nDies ∧ ((frozen1 []).hub.die 1).frozen = true ∧ 1 ≠ 0 ∧ unitDie 1 ∉
      (frozen1 []).hub.flt.retired) ∧
    (Shaped (frozen1 [unitDie 1]).hub ∧ 1 < (frozen1 [unitDie 1]).hub.nDies ∧ ((frozen1 [unitDie 1]).hub.die 1).frozen = true ∧
      unitDie 1 ∈ (frozen1 [unitDie 1]).hub.flt.retired) ∧
    (Shaped die0ret.hub ∧ 1 < die0ret.hub.nDies ∧ unitDie 1 ∈ die0ret.hub.flt.retired ∧ (die0ret.hub.die 1).frozen = false) ∧
    ((unitType 3758096384 = 3 ∨ 6 < unitType 3758096384 ∧ unitType 3758096384 ≠ 13)) ∧
    (0 < faultsAndTests12.hub.nChans ∧ (¬∃ v, (faultsAndTests12.hub.ch 0).win = some v ∧ v.opened + v.length ≤
      faultsAndTests12.hub.clk.elapsed)) ∧
    (0 < faultsAndTests13.hub.nPorts ∧ 1 < 4 ∧ (¬∃ v, (faultsAndTests13.hub.lane 0 1).win = some v ∧ v.opened + v.length ≤
      faultsAndTests13.hub.clk.elapsed)) ∧
    (7 < (st up).hub.nPorts ∧ 3 < 4 ∧ (¬∃ v, ((st up).hub.lane 7 3).win = some v ∧ v.opened + v.length ≤ (st
      up).hub.clk.elapsed)) ∧
    (0 < faultsAndTests14.hub.nDies ∧ 135 < 136 ∧ (¬∃ v, faultsAndTests14.hub.engWin 0 (unitEngine 0 135) = some v ∧ v.opened +
      v.length ≤ faultsAndTests14.hub.clk.elapsed)) ∧
    (0 < faultsAndTests15.hub.nDies ∧ 7 < 8 ∧ (¬∃ v, faultsAndTests15.hub.engWin 0 (engineUnit 0 4 7) = some v ∧ v.opened +
      v.length ≤ faultsAndTests15.hub.clk.elapsed)) ∧
    (0 < faultsAndTests16.hub.nDies ∧ 3 < 4 ∧ (¬∃ v, faultsAndTests16.hub.engWin 0 (engineUnit 0 5 3) = some v ∧ v.opened +
      v.length ≤ faultsAndTests16.hub.clk.elapsed)) ∧
    (0 < faultsAndTests17.hub.nDies ∧ 3071 < 3072 ∧ (¬∃ v, Option.map Prod.snd (List.find? (fun y => y.1 == 3071)
      (faultsAndTests17.hub.die 0).store.pageWin) = some v ∧ v.opened + v.length ≤ faultsAndTests17.hub.clk.elapsed)) ∧
    (0 < faultsAndTests18.hub.nDies ∧ (¬∃ v, faultsAndTests18.hub.engWin 0 (unitAudit 0) = some v ∧ v.opened + v.length ≤
      faultsAndTests18.hub.clk.elapsed)) ∧
    (Shaped faultsAndTests19.hub ∧ 0 < faultsAndTests19.hub.nChans ∧ (faultsAndTests19.hub.ch 0).win = some faultsAndTests20 ∧
      faultsAndTests20.opened + faultsAndTests20.length ≤ faultsAndTests19.hub.clk.elapsed ∧ (∃ k ∈ (faultsAndTests19.hub.ch
      0).presents faultsAndTests19.hub.clk.elapsed, k ∈ faultsAndTests20.lasting)) ∧
    (Shaped faultsAndTests21.hub ∧ 0 < faultsAndTests21.hub.nChans ∧ (faultsAndTests21.hub.ch 0).win = some (fw 5000000000) ∧
      (fw 5000000000).opened + (fw 5000000000).length ≤ faultsAndTests21.hub.clk.elapsed ∧ (∀ k ∈ (faultsAndTests21.hub.ch
      0).presents faultsAndTests21.hub.clk.elapsed, k ∉ (fw 5000000000).lasting) ∧ (faultsAndTests21.hub.ch 0).presents
      faultsAndTests21.hub.clk.elapsed = [257]) ∧
    (Shaped faultsAndTests22.hub ∧ 0 < faultsAndTests22.hub.nChans ∧ (faultsAndTests22.hub.ch 0).win = some (fw 5000000000) ∧
      (fw 5000000000).opened + (fw 5000000000).length ≤ faultsAndTests22.hub.clk.elapsed ∧ (∀ k ∈ (faultsAndTests22.hub.ch
      0).presents faultsAndTests22.hub.clk.elapsed, k ∉ (fw 5000000000).lasting) ∧ (faultsAndTests22.hub.ch 0).presents
      faultsAndTests22.hub.clk.elapsed = [259, 264]) ∧
    (Shaped faultsAndTests23.hub ∧ 0 < faultsAndTests23.hub.nChans ∧ (faultsAndTests23.hub.ch 0).win = some (fw 5000000000) ∧
      (fw 5000000000).opened + (fw 5000000000).length ≤ faultsAndTests23.hub.clk.elapsed ∧ (faultsAndTests23.hub.ch 0).presents
      faultsAndTests23.hub.clk.elapsed = []) ∧
    (Shaped faultsAndTests24.hub ∧ 0 < faultsAndTests24.hub.nPorts ∧ 1 < 4 ∧ LaneThere faultsAndTests24.hub 0 1 ∧
      (faultsAndTests24.hub.lane 0 1).win = some faultsAndTests20 ∧ faultsAndTests20.opened + faultsAndTests20.length ≤
      faultsAndTests24.hub.clk.elapsed ∧ faultsAndTests24.hub.laneDown 0 1 = true ∧ faultsAndTests20.code ∈
      faultsAndTests20.lasting) ∧
    (Shaped faultsAndTests25.hub ∧ 0 < faultsAndTests25.hub.nPorts ∧ 1 < 4 ∧ LaneThere faultsAndTests25.hub 0 1 ∧
      (faultsAndTests25.hub.lane 0 1).win = some (fw 5000000000) ∧ (fw 5000000000).opened + (fw 5000000000).length ≤
      faultsAndTests25.hub.clk.elapsed ∧ faultsAndTests25.hub.laneDown 0 1 = true ∧ (fw 5000000000).code ∉ (fw
      5000000000).lasting) ∧
    (Shaped faultsAndTests26.hub ∧ 0 < faultsAndTests26.hub.nPorts ∧ 1 < 4 ∧ LaneThere faultsAndTests26.hub 0 1 ∧
      (faultsAndTests26.hub.lane 0 1).win = some (fw 5000000000) ∧ (fw 5000000000).opened + (fw 5000000000).length ≤
      faultsAndTests26.hub.clk.elapsed ∧ faultsAndTests26.hub.laneDown 0 1 = false) ∧
    (Shaped faultsAndTests27.hub ∧ 0 < faultsAndTests27.hub.nDies ∧ 135 < 136 ∧ faultsAndTests27.hub.engWin 0 (unitEngine 0
      135) = some (fw 5000000000) ∧ (fw 5000000000).opened + (fw 5000000000).length ≤ faultsAndTests27.hub.clk.elapsed) ∧
    (Shaped faultsAndTests28.hub ∧ 0 < faultsAndTests28.hub.nDies ∧ 7 < 8 ∧ faultsAndTests28.hub.engWin 0 (engineUnit 0 4 7) =
      some (fw 5000000000) ∧ (fw 5000000000).opened + (fw 5000000000).length ≤ faultsAndTests28.hub.clk.elapsed) ∧
    (Shaped faultsAndTests29.hub ∧ 0 < faultsAndTests29.hub.nDies ∧ 3 < 4 ∧ faultsAndTests29.hub.engWin 0 (engineUnit 0 5 3) =
      some (fw 5000000000) ∧ (fw 5000000000).opened + (fw 5000000000).length ≤ faultsAndTests29.hub.clk.elapsed) ∧
    (Shaped faultsAndTests30.hub ∧ 0 < faultsAndTests30.hub.nDies ∧ 3071 < 3072 ∧ List.find? (fun y => y.1 == 3071)
      (faultsAndTests30.hub.die 0).store.pageWin = some (3071, fw 5000000000) ∧ (fw 5000000000).opened + (fw 5000000000).length
      ≤ faultsAndTests30.hub.clk.elapsed) ∧
    (Shaped faultsAndTests31.hub ∧ 0 < faultsAndTests31.hub.nDies ∧ faultsAndTests31.hub.engWin 0 (unitAudit 0) = some (fw
      5000000000) ∧ (fw 5000000000).opened + (fw 5000000000).length ≤ faultsAndTests31.hub.clk.elapsed) ∧
    (Shaped faultsAndTests32.hub ∧ 0 < faultsAndTests32.hub.nDies ∧ faultsAndTests32.hub.engWin 0 (unitAudit 0) = some (fw
      5000000000) ∧ (fw 5000000000).opened + (fw 5000000000).length ≤ faultsAndTests32.hub.clk.elapsed) ∧
    (Shaped faultsAndTests33.hub ∧ 0 < faultsAndTests33.hub.nDies ∧ faultsAndTests33.hub.engWin 0 (unitAudit 0) = some (fw
      5000000000) ∧ (fw 5000000000).opened + (fw 5000000000).length ≤ faultsAndTests33.hub.clk.elapsed) ∧
    (((st up).hub.nDies ≤ 2 ∨ ((st up).hub.die 2).inService = false)) ∧
    ((148 ≤ 148 ∨ engineUnit 0 (testEngine 148).1 (testEngine 148).2 ∈ (st up).hub.flt.retired)) ∧
    ((148 ≤ 147 ∨ engineUnit 1 (testEngine 147).1 (testEngine 147).2 ∈ faultsAndTests34.hub.flt.retired)) ∧
    ((3072 ≤ 7 ∨ (faultsAndTests35.hub.die 0).store.retired.contains 7 = true)) ∧
    (Shaped (st up).hub ∧ 1 < (st up).hub.nDies ∧ ((st up).hub.die 1).inService = true) ∧
    (Shaped (st up).hub ∧ 1 < (st up).hub.nDies ∧ ((st up).hub.die 1).inService = true ∧ 3071 < 3072 ∧ ((st up).hub.die
      1).store.retired.contains 3071 = false) ∧
    (Shaped (st up).hub ∧ 1 < (st up).hub.nDies ∧ ((st up).hub.die 1).inService = true ∧ 3071 < 3072 ∧ ((st up).hub.die
      1).store.retired.contains 3071 = false ∧ (∀ w ∈ ((st up).hub.die 1).store.pageWin, w.1 ≠ 3071) ∧ 2 ≤ fld (st
      up).hub.flt.mem 31 24) ∧
    (Shaped faultsAndTests36.hub ∧ 0 < faultsAndTests36.hub.nDies ∧ (faultsAndTests36.hub.die 0).inService = true ∧ 3071 < 3072
      ∧ (faultsAndTests36.hub.die 0).store.retired.contains 3071 = false ∧ List.find? (fun y => y.1 == 3071)
      (faultsAndTests36.hub.die 0).store.pageWin = some (3071, faultsAndTests37) ∧ faultsAndTests36.hub.clk.elapsed <
      faultsAndTests37.opened + faultsAndTests37.length ∧ faultsAndTests37.events + 1 < faultsAndTests37.allowed) ∧
    (Shaped faultsAndTests38.hub ∧ 0 < faultsAndTests38.hub.nDies ∧ (faultsAndTests38.hub.die 0).inService = true ∧ 3071 < 3072
      ∧ (faultsAndTests38.hub.die 0).store.retired.contains 3071 = false ∧ List.find? (fun y => y.1 == 3071)
      (faultsAndTests38.hub.die 0).store.pageWin = some (3071, faultsAndTests39) ∧ faultsAndTests38.hub.clk.elapsed <
      faultsAndTests39.opened + faultsAndTests39.length ∧ faultsAndTests39.allowed ≤ faultsAndTests39.events + 1) ∧
    (((st up).hub.nChans ≤ 0 ∨ bitOf (st up).hub.flt.ch 23 = false ∨ ((st up).hub.ch 0).retired ≠ some 257 ∧ ((st up).hub.ch
      0).retired ≠ some 258 ∨ ((st up).hub.ch 0).autoTried = true ∨ (∃ k, ((st up).hub.ch 0).retired = some k ∧ ((st up).hub.ch
      0).present (st up).hub.clk.elapsed k = true) ∨ (st up).hub.clk.elapsed < ((st up).hub.ch 0).clearSince + 10000000000 ∨ (st
      up).hub.dieDown (chDie 0) = true)) ∧
    (Shaped auto.hub ∧ 0 < auto.hub.nChans ∧ bitOf auto.hub.flt.ch 23 = true ∧ (258 = 257 ∨ 258 = 258) ∧ (auto.hub.ch
      0).retired = some 258 ∧ (auto.hub.ch 0).autoTried = false ∧ (auto.hub.ch 0).present auto.hub.clk.elapsed 258 = false ∧
      (auto.hub.ch 0).clearSince + 10000000000 ≤ auto.hub.clk.elapsed ∧ auto.hub.dieDown (chDie 0) = false) := by
  and_intros <;> first
    | decide +kernel
    | (unfold Shaped; decide +kernel)
    | (unfold PortUp Shaped; decide +kernel)
    | exact ⟨_, rfl, by decide +kernel⟩

/-- Obligations.DieLossAndFailover. -/
theorem witness_DieLossAndFailover :
    (((st up).hub.nDies ≤ 2 ∨ ((st up).hub.die 2).inService = false)) ∧
    (Shaped (st up).hub ∧ 1 < (st up).hub.nDies ∧ ((st up).hub.die 1).inService = true) ∧
    (((st up).hub.die 1).restartAt = none) ∧
    (Shaped dieLossAndFailover1.hub ∧ 0 < dieLossAndFailover1.hub.nDies ∧ (dieLossAndFailover1.hub.die 0).restartAt = some (0,
      1793) ∧ true = true ∧ dieLossAndFailover1.hub.clk.elapsed ≤ 0 + 10000000000) ∧
    (Shaped dieLossAndFailover1.hub ∧ 0 < dieLossAndFailover1.hub.nDies ∧ (dieLossAndFailover1.hub.die 0).restartAt = some (0,
      1793) ∧ (false = false ∨ 0 + 10000000000 < dieLossAndFailover1.hub.clk.elapsed)) ∧
    (((st up).hub.nDies ≤ 2 ∨ (st up).hub.coreRuns 2 = false)) ∧
    (((dieLossAndFailover2.hub.die 0).cores.drillAt.isSome = true ∨ (dieLossAndFailover2.hub.die 0).cores.declaredAt.isSome =
      true)) ∧
    (((dieLossAndFailover3.hub.die 0).cores.drillAt.isSome = true ∨ (dieLossAndFailover3.hub.die 0).cores.declaredAt.isSome =
      true)) ∧
    ((dieLossAndFailover3.hub.die 0).cores.declaredAt.isSome = true) ∧
    (Shaped (st up).hub ∧ 1 < (st up).hub.nDies ∧ (st up).hub.coreRuns 1 = true ∧ ((st up).hub.die 1).cores.drillAt = none ∧
      ((st up).hub.die 1).cores.declaredAt = none ∧ (1 ≠ (st up).hub.boot.lead ∨ (st up).hub.mgmt.cache.all CacheEntry.handed =
      true)) ∧
    (Shaped (st up).hub ∧ 0 < (st up).hub.nDies ∧ (st up).hub.coreRuns 0 = true ∧ ((st up).hub.die 0).cores.drillAt = none ∧
      ((st up).hub.die 0).cores.declaredAt = none ∧ 0 = (st up).hub.boot.lead) ∧
    (Shaped dieLossAndFailover4.hub ∧ 0 < dieLossAndFailover4.hub.nDies ∧ dieLossAndFailover4.hub.coreRuns 0 = true ∧
      (dieLossAndFailover4.hub.die 0).cores.drillAt = none ∧ (dieLossAndFailover4.hub.die 0).cores.declaredAt = none ∧ 0 =
      dieLossAndFailover4.hub.boot.lead) ∧
    (Shaped dieLossAndFailover5.hub ∧ 0 < dieLossAndFailover5.hub.nDies ∧ dieLossAndFailover5.hub.coreRuns 0 = true ∧
      (dieLossAndFailover5.hub.die 0).cores.drillAt = none ∧ (dieLossAndFailover5.hub.die 0).cores.declaredAt = none ∧
      (dieLossAndFailover5.hub.die 0).cores.beat = true) ∧
    (Shaped dieLossAndFailover6.hub ∧ 0 < dieLossAndFailover6.hub.nDies ∧ dieLossAndFailover6.hub.coreRuns 0 = true ∧
      (dieLossAndFailover6.hub.die 0).cores.drillAt = none ∧ (dieLossAndFailover6.hub.die 0).cores.declaredAt = none ∧
      (dieLossAndFailover6.hub.die 0).cores.beat = false ∧ (dieLossAndFailover6.hub.die 0).cores.missed < 7) ∧
    (Shaped dieLossAndFailover7.hub ∧ 0 < dieLossAndFailover7.hub.nDies ∧ dieLossAndFailover7.hub.coreRuns 0 = true ∧
      (dieLossAndFailover7.hub.die 0).cores.drillAt = none ∧ (dieLossAndFailover7.hub.die 0).cores.declaredAt = none ∧
      (dieLossAndFailover7.hub.die 0).cores.beat = false ∧ 7 ≤ (dieLossAndFailover7.hub.die 0).cores.missed ∧
      (dieLossAndFailover7.hub.die 0).cores.noStandby = false ∧ (dieLossAndFailover7.hub.die 0).cores.standbyFailed = false ∧
      (dieLossAndFailover7.hub.die 0).cores.copy.isSome = true) ∧
    (Shaped dieLossAndFailover8.hub ∧ 0 < dieLossAndFailover8.hub.nDies ∧ dieLossAndFailover8.hub.coreRuns 0 = true ∧
      (dieLossAndFailover8.hub.die 0).cores.drillAt = none ∧ (dieLossAndFailover8.hub.die 0).cores.declaredAt = none ∧
      (dieLossAndFailover8.hub.die 0).cores.beat = false ∧ 7 ≤ (dieLossAndFailover8.hub.die 0).cores.missed ∧
      ((dieLossAndFailover8.hub.die 0).cores.noStandby = true ∨ (dieLossAndFailover8.hub.die 0).cores.standbyFailed = true ∨
      (dieLossAndFailover8.hub.die 0).cores.copy = none)) ∧
    (Shaped (st up).hub ∧ 1 < (st up).hub.nDies ∧ (st up).hub.coreRuns 1 = true ∧ ((st up).hub.die 1).cores.declaredAt = none) ∧
    (Shaped dieLossAndFailover9.hub ∧ 0 < dieLossAndFailover9.hub.nDies ∧ dieLossAndFailover9.hub.coreRuns 0 = true ∧
      (dieLossAndFailover9.hub.die 0).cores.declaredAt = none) ∧
    (Shaped dieLossAndFailover10.hub ∧ 0 < dieLossAndFailover10.hub.nDies ∧ dieLossAndFailover10.hub.coreRuns 0 = true ∧
      (dieLossAndFailover10.hub.die 0).cores.drillAt = none ∧ (dieLossAndFailover10.hub.die 0).cores.declaredAt = some
      4980000000) ∧
    (Shaped dieLossAndFailover11.hub ∧ 0 < dieLossAndFailover11.hub.nDies ∧ dieLossAndFailover11.hub.coreRuns 0 = true ∧
      (dieLossAndFailover11.hub.die 0).cores.drillAt = none ∧ (dieLossAndFailover11.hub.die 0).cores.declaredAt = some
      4980000000) ∧
    (Shaped dieLossAndFailover12.hub ∧ 0 < dieLossAndFailover12.hub.nDies ∧ dieLossAndFailover12.hub.coreRuns 0 = true ∧
      (dieLossAndFailover12.hub.die 0).cores.drillAt = none ∧ (dieLossAndFailover12.hub.die 0).cores.declaredAt = some
      4964999999) ∧
    (Shaped dieLossAndFailover2.hub ∧ 0 < dieLossAndFailover2.hub.nDies ∧ dieLossAndFailover2.hub.coreRuns 0 = true ∧
      (dieLossAndFailover2.hub.die 0).cores.drillAt = some 0) ∧
    (((st up).hub.die 1).cores.drillAt = none ∧ ((st up).hub.die 1).cores.declaredAt = none) ∧
    (((dieLossAndFailover13.hub.die 0).cores.drillAt = some 4965000001 ∨ (dieLossAndFailover13.hub.die 0).cores.drillAt = none
      ∧ (dieLossAndFailover13.hub.die 0).cores.declaredAt = some 4965000001) ∧ dieLossAndFailover13.hub.clk.elapsed < 4965000001
      + 35000000) ∧
    (Shaped dieLossAndFailover14.hub ∧ 0 < dieLossAndFailover14.hub.nDies ∧ (dieLossAndFailover14.hub.die 0).cores.drillAt =
      some 4965000000 ∧ 4965000000 + 35000000 ≤ dieLossAndFailover14.hub.clk.elapsed) ∧
    (Shaped dieLossAndFailover15.hub ∧ 0 < dieLossAndFailover15.hub.nDies ∧ (dieLossAndFailover15.hub.die 0).cores.drillAt =
      none ∧ (dieLossAndFailover15.hub.die 0).cores.declaredAt = some 4965000000 ∧ 4965000000 + 35000000 ≤
      dieLossAndFailover15.hub.clk.elapsed) ∧
    ((∃ i ∈ (st up).hub.named [0, 2], (st up).hub.nDies ≤ i)) ∧
    ((∀ i ∈ (st die1gone).hub.named [0, 1], i < (st die1gone).hub.nDies) ∧ (∃ i ∈ (st die1gone).hub.named [0, 1], (st
      die1gone).hub.dieDown i = true ∨ ((st die1gone).hub.die i).cores.standbyFailed = true ∨ ((st die1gone).hub.die
      i).cores.noStandby = true)) ∧
    ((∀ i ∈ dieLossAndFailover16.hub.named [0], i < dieLossAndFailover16.hub.nDies) ∧ (∃ i ∈ dieLossAndFailover16.hub.named
      [0], dieLossAndFailover16.hub.dieDown i = true ∨ (dieLossAndFailover16.hub.die i).cores.standbyFailed = true ∨
      (dieLossAndFailover16.hub.die i).cores.noStandby = true)) ∧
    (NamedUp drillable.hub [] ∧ (∀ x ∈ drillable.hub.dies, x.cores.drill = false) ∧ (∀ i ∈ drillable.hub.named [],
      ¬((drillable.hub.die i).cores.standbyFailed = true ∨ (drillable.hub.die i).cores.noStandby = true)) ∧ drillable.hub.named
      [] ≠ []) ∧
    (NamedUp drillable.hub [0] ∧ (∀ x ∈ drillable.hub.dies, x.cores.drill = false) ∧ (∀ i ∈ drillable.hub.named [0],
      ¬((drillable.hub.die i).cores.standbyFailed = true ∨ (drillable.hub.die i).cores.noStandby = true)) ∧ drillable.hub.named
      [0] ≠ []) ∧
    (3 ≤ 3) ∧
    (2 < 3) ∧
    ((0 = (st up).hub.boot.lead ∨ (st up).hub.nDies ≤ 0 ∨ ((st up).hub.die 0).inService = false)) ∧
    (Shaped (st up).hub ∧ 1 < (st up).hub.nDies ∧ 1 ≠ (st up).hub.boot.lead ∧ ((st up).hub.die 1).inService = true ∧ 2000 <
      Int.natAbs 2001) ∧
    (Shaped (st up).hub ∧ 1 < (st up).hub.nDies ∧ 1 ≠ (st up).hub.boot.lead ∧ ((st up).hub.die 1).inService = true ∧
      (-30).natAbs ≤ 30) ∧
    (Shaped (st up).hub ∧ 1 < (st up).hub.nDies ∧ 1 ≠ (st up).hub.boot.lead ∧ ((st up).hub.die 1).inService = true ∧ 30 <
      (-31).natAbs ∧ (-31).natAbs ≤ 2000) ∧
    (Shaped dieLossAndFailover17.hub ∧ 1 < dieLossAndFailover17.hub.nDies ∧ 1 ≠ dieLossAndFailover17.hub.boot.lead ∧
      (dieLossAndFailover17.hub.die 1).inService = true ∧ 30 < Int.natAbs 2000 ∧ Int.natAbs 2000 ≤ 2000) := by
  and_intros <;> first | decide +kernel | (unfold Shaped; decide +kernel) | (unfold NamedUp Shaped; decide +kernel)

/-- Obligations.LogbookWiredSide. -/
theorem witness_LogbookWiredSide :
    ((2 = 0 ∨ 1020 < 2 ∨ 2048 < 2047 + 2)) ∧
    (1 ≤ 1020 ∧ 1020 ≤ 1020 ∧ 1028 + 1020 ≤ 2048 ∧ ((st up).hub.tagLocked = false ∨ ¬∃ i < 1020, 1600 ≤ 1028 + i ∧ 1028 + i <
      1984)) ∧
    (1 ≤ 1 ∧ 1 ≤ 1020 ∧ 1983 + 1 ≤ 2048 ∧ logbookWiredSide1.hub.tagLocked = true ∧ (∃ i < 1, 1600 ≤ 1983 + i ∧ 1983 + i < 1984)) ∧
    (([(1 : Word)] = [] ∨ (1018 : ℕ) < [(1 : Word)].length ∨ (1599 : ℕ) < (1600 : ℕ) ∨ (1984 : ℕ) < (1599 : ℕ) + [(1 :
      Word)].length)) ∧
    (([(1 : Word), (2 : Word)] = [] ∨ (1018 : ℕ) < [(1 : Word), (2 : Word)].length ∨ (1983 : ℕ) < (1600 : ℕ) ∨ (1984 : ℕ) <
      (1983 : ℕ) + [(1 : Word), (2 : Word)].length)) ∧
    (List.replicate (384 : ℕ) (1 : Word) ≠ [] ∧ (List.replicate 384 1).length ≤ 1018 ∧ 1600 ≤ 1600 ∧ 1600 + (List.replicate 384
      1).length ≤ 1984 ∧ (st up).hub.tag.writes = [] ∧ (st up).hub.tag.busy = none ∧ (st up).hub.tag.ring = [] ∧ (st
      up).hub.tagLocked = false) ∧
    ([(1 : Word)] ≠ [] ∧ [1].length ≤ 1018 ∧ 1600 ≤ 1600 ∧ 1600 + [1].length ≤ 1984 ∧ (tagBusy 64).hub.tag.writes = [] ∧
      (tagBusy 64).hub.tag.ring = [] ∧ ((tagBusy 64).hub.tag.busy ≠ none ∨ (tagBusy 64).hub.tagLocked = true)) ∧
    ([(1 : Word)] ≠ [] ∧ [1].length ≤ 1018 ∧ 1600 ≤ 1600 ∧ 1600 + [1].length ≤ 1984 ∧ logbookWiredSide1.hub.tag.writes = [] ∧
      logbookWiredSide1.hub.tag.ring = [] ∧ (logbookWiredSide1.hub.tag.busy ≠ none ∨ logbookWiredSide1.hub.tagLocked = true)) ∧
    ([(1 : Word)] ≠ [] ∧ [1].length ≤ 1018 ∧ 1600 ≤ 1983 ∧ 1983 + [1].length ≤ 1984 ∧ logbookWiredSide2.hub.tag.writes ≠ [] ∧
      logbookWiredSide2.hub.tag.busy ≠ none ∧ (∀ j ∈ logbookWiredSide2.hub.tag.writes, j.expired
      logbookWiredSide2.hub.clk.elapsed = false)) ∧
    ([(1 : Word)] ≠ [] ∧ [1].length ≤ 1018 ∧ 1600 ≤ 1983 ∧ 1983 + [1].length ≤ 1984) ∧
    ([(1 : Word)] ≠ [] ∧ [1].length ≤ 1018 ∧ 1600 ≤ 1983 ∧ 1983 + [1].length ≤ 1984) ∧
    ((¬((st up).hub.tag.queue ≠ [] ∧ (∀ (u : ℕ), (st up).hub.tag.lastEntry = some u → u + 1000000000 ≤ (st up).hub.clk.elapsed)
      ∧ (st up).hub.tag.ring = [] ∧ (st up).hub.sheds3 = false ∧ (st up).hub.pwr.holdUp = none ∧ (st up).hub.manages = true))) ∧
    (logbookWiredSide5.hub.tag.queue ≠ [] ∧ (∀ (u : ℕ), logbookWiredSide5.hub.tag.lastEntry = some u → u + 1000000000 ≤
      logbookWiredSide5.hub.clk.elapsed) ∧ logbookWiredSide5.hub.tag.ring = [] ∧ logbookWiredSide5.hub.sheds3 = false ∧
      logbookWiredSide5.hub.pwr.holdUp = none ∧ logbookWiredSide5.hub.manages = true) ∧
    ((st up).hub.tag.busy ≠ some 64) ∧
    (logbookWiredSide6.hub.tag.busy = some 2047 ∧ logbookWiredSide6.hub.tag.ring = [(2047, 9)] ∧ 64 ≤ 2047 ∧ 2047 < 2048 ∧
      TagMemory.wf logbookWiredSide6.hub.tag.mem) ∧
    (logbookWiredSide7.hub.tag.busy = some 1983 ∧ logbookWiredSide7.hub.tag.ring = [] ∧ logbookWiredSide7.hub.tag.writes =
      [{ owner := LogOwner.direct, blocks := [(1983, 9)], since := 0 }, lj 5 [(1600, 1)]] ∧ 64 ≤ 1983 ∧ 1983 < 2048 ∧
      TagMemory.wf logbookWiredSide7.hub.tag.mem) ∧
    (logbookWiredSide8.hub.tag.busy = some 1600 ∧ logbookWiredSide8.hub.tag.ring = [] ∧ logbookWiredSide8.hub.tag.writes =
      [{ owner := LogOwner.request 4, blocks := [(1600, 9), (1601, 2)], since := 0 }] ∧ 64 ≤ 1600 ∧ 1600 < 2048 ∧ TagMemory.wf
      logbookWiredSide8.hub.tag.mem) ∧
    (logbookWiredSide9.hub.tag.busy = some 1600 ∧ logbookWiredSide9.hub.tag.ring = [] ∧ logbookWiredSide9.hub.tag.writes =
      [{ owner := LogOwner.action 4, blocks := [(1600, 9), (1601, 2)], since := 0 }] ∧ 64 ≤ 1600 ∧ 1600 < 2048 ∧ TagMemory.wf
      logbookWiredSide9.hub.tag.mem) ∧
    (((st up).hub.tag.lost = 0 ∨ 64 ≤ (st up).hub.tag.queue.length)) ∧
    (logbookWiredSide10.hub.tag.lost ≠ 0 ∧ logbookWiredSide10.hub.tag.queue.length < 64) ∧
    ((st up).hub.tag.lockUntil = none) ∧
    (logbookWiredSide1.hub.tag.lockUntil = some 5000000001 ∧ logbookWiredSide1.hub.clk.elapsed < 5000000001) ∧
    (logbookWiredSide11.hub.tag.lockUntil = some 5000000000 ∧ 5000000000 ≤ logbookWiredSide11.hub.clk.elapsed) := by
  and_intros <;> decide +kernel

/-- Obligations.FieldCommands. -/
theorem witness_FieldCommands :
    ((st up).hub.tagFor (rq TagMode.selected) = false) ∧
    ((st up).hub.tagFor (rq TagMode.nonAddressed) = true ∧ (¬∃ b, (st up).hub.tag.busy = some b ∧ 255 ≤ b ∧ b < 255 + 1) ∧ 255
      < 256) ∧
    ((st up).hub.tagFor (rq TagMode.nonAddressed) = true ∧ (¬∃ b, (st up).hub.tag.busy = some b ∧ 2047 ≤ b ∧ b < 2047 + 1) ∧
      2047 < 2048) ∧
    (fieldCommands1.hub.tagFor (rq TagMode.nonAddressed) = true ∧ (∃ b, fieldCommands1.hub.tag.busy = some b ∧ 64 ≤ b ∧ b < 64
      + 1) ∧ 64 < 256) ∧
    ((tagBusy 2047).hub.tagFor fieldCommands2 = true ∧ (∃ b, (tagBusy 2047).hub.tag.busy = some b ∧ 2047 ≤ b ∧ b < 2047 + 1) ∧
      2047 < 2048) ∧
    ((st up).hub.tagFor (rq TagMode.nonAddressed) = true ∧ 256 ≤ 256) ∧
    ((st up).hub.tagFor (rq TagMode.nonAddressed) = true ∧ 2048 ≤ 2048) ∧
    ((tagBusy 256).hub.tagFor (rq TagMode.nonAddressed) = true ∧ (¬∃ b, (tagBusy 256).hub.tag.busy = some b ∧ 192 ≤ b ∧ b < 192
      + 64) ∧ 64 ≤ 64 ∧ 192 + 64 ≤ 256) ∧
    ((tagBusy 1983).hub.tagFor (rq TagMode.nonAddressed) = true ∧ (¬∃ b, (tagBusy 1983).hub.tag.busy = some b ∧ 1984 ≤ b ∧ b <
      1984 + 64) ∧ 64 ≤ 64 ∧ 1984 + 64 ≤ 2048) ∧
    ((tagBusy 255).hub.tagFor (rq TagMode.nonAddressed) = true ∧ (∃ b, (tagBusy 255).hub.tag.busy = some b ∧ 192 ≤ b ∧ b < 192
      + 64) ∧ 64 ≤ 64 ∧ 192 + 64 ≤ 256) ∧
    ((tagBusy 2047).hub.tagFor (rq TagMode.nonAddressed) = true ∧ (∃ b, (tagBusy 2047).hub.tag.busy = some b ∧ 1984 ≤ b ∧ b <
      1984 + 64) ∧ 64 ≤ 64 ∧ 1984 + 64 ≤ 2048) ∧
    ((tagBusy 100).hub.tagFor (rq TagMode.nonAddressed) = true ∧ (64 < 65 ∨ 256 < 64 + 65)) ∧
    ((st up).hub.tagFor (rq TagMode.nonAddressed) = true ∧ (64 < 64 ∨ 256 < 193 + 64)) ∧
    ((st up).hub.tagFor (rq TagMode.nonAddressed) = true ∧ (64 < 64 ∨ 2048 < 1985 + 64)) ∧
    ((st up).hub.tagFor (rq TagMode.nonAddressed) = true ∧ 255 < 256) ∧
    ((st up).hub.tagFor (rq TagMode.nonAddressed) = true ∧ (1599 < 1600 ∨ 1984 ≤ 1599 ∧ 1599 < 2048)) ∧
    ((st up).hub.tagFor (rq TagMode.nonAddressed) = true ∧ (1984 < 1600 ∨ 1984 ≤ 1984 ∧ 1984 < 2048)) ∧
    ((tagBusy 1983).hub.tagFor (rq TagMode.nonAddressed) = true ∧ 1600 ≤ 1983 ∧ 1983 < 1984 ∧ (∃ b, (tagBusy 1983).hub.tag.busy
      = some b ∧ 1983 ≤ b ∧ b < 1983 + 1)) ∧
    ((st up).hub.tagFor fieldCommands3 = true ∧ 1600 ≤ 1983 ∧ 1983 < 1984 ∧ (¬∃ b, (st up).hub.tag.busy = some b ∧ 1983 ≤ b ∧ b
      < 1983 + 1) ∧ fieldCommands3.writeField = false) ∧
    ((st up).hub.tagFor (rq TagMode.nonAddressed) = true ∧ 1600 ≤ 1600 ∧ 1600 < 1984 ∧ (¬∃ b, (st up).hub.tag.busy = some b ∧
      1600 ≤ b ∧ b < 1600 + 1) ∧ (rq TagMode.nonAddressed).writeField = true ∧ TagMemory.wf (st up).hub.tag.mem) ∧
    ((st up).hub.tagFor (rq TagMode.nonAddressed) = true ∧ 192 + 64 ≤ 256) ∧
    ((st up).hub.tagFor (rq TagMode.nonAddressed) = true ∧ 256 < 193 + 64) ∧
    ((st up).hub.tagFor (rq TagMode.nonAddressed) = true ∧ 2048 < 1985 + 64) ∧
    ((st up).hub.tagFor (rq TagMode.nonAddressed) = true ∧ 192 + 64 ≤ 2048) ∧
    ((st up).hub.tagFor (rq TagMode.nonAddressed) = true) ∧
    ((st up).hub.tagFor (rq TagMode.nonAddressed) = true) ∧
    ((st up).hub.tagFor (rq TagMode.nonAddressed) = true) ∧
    ((st up).hub.tagFor (rq TagMode.nonAddressed) = true ∧ up.ident.icMfr = (st up).hub.ident.icMfr ∧ 60 < 61) ∧
    ((st up).hub.tagFor (rq TagMode.nonAddressed) = true ∧ up.ident.icMfr = (st up).hub.ident.icMfr ∧ 1 ≤ 60 ∧ 60 ≤ 60) ∧
    (fieldCommands4.hub.tagFor (rq TagMode.nonAddressed) = true ∧ up.ident.icMfr = fieldCommands4.hub.ident.icMfr) ∧
    ((st up).hub.tagFor (rq TagMode.nonAddressed) = true ∧ up.ident.icMfr = (st up).hub.ident.icMfr) ∧
    ((st up).hub.tagFor (rq TagMode.nonAddressed) = true ∧ 1 ≤ 159 ∧ 159 ≤ 159) ∧
    ((st up).hub.tagFor (rq TagMode.nonAddressed) = true ∧ up.ident.icMfr = (st up).hub.ident.icMfr ∧ (161 = 161 ∨ 163 ≤ 161 ∧
      161 ≤ 223)) ∧
    ((st up).hub.tagFor (rq TagMode.nonAddressed) = true ∧ up.ident.icMfr = (st up).hub.ident.icMfr ∧ (223 = 161 ∨ 163 ≤ 223 ∧
      223 ≤ 223)) ∧
    ((162 = 0 ∨ 162 = 160 ∨ 162 = 162 ∨ 223 < 162)) ∧
    ((224 = 0 ∨ 224 = 160 ∨ 224 = 162 ∨ 223 < 224)) ∧
    ((¬up.ident.icMfr + 1 = (st up).hub.ident.icMfr)) ∧
    ((¬up.ident.icMfr + 1 = (st up).hub.ident.icMfr)) ∧
    ((¬up.ident.icMfr + 1 = (st up).hub.ident.icMfr) ∧ 160 ≤ 160) ∧
    (fieldCommands2.mode = TagMode.addressed (st up).hub.ident.uid ∧ fieldCommands2.twoSub = false) ∧
    (up.ident.uid + 1 ≠ (st up).hub.ident.uid ∧ fieldCommands5.mode = TagMode.addressed (up.ident.uid + 1)) ∧
    (up.ident.uid + 1 ≠ fieldCommands6.hub.ident.uid ∧ fieldCommands5.mode = TagMode.addressed (up.ident.uid + 1) ∧
      fieldCommands5.twoSub = false) ∧
    (((rq TagMode.nonAddressed).mode = TagMode.nonAddressed ∨ (rq TagMode.nonAddressed).mode = TagMode.selected ∨ (rq
      TagMode.nonAddressed).twoSub = true)) ∧
    ((fieldCommands7.hub.tag.quiet = true ∨ (rq TagMode.nonAddressed).twoSub = true ∨ (∃ b, none = some b ∧ b ≠ (0 : Byte)) ∨
      BitVec.toNat (0 : BitVec (64 : ℕ)) % (2 : ℕ) ^ (0 : ℕ) ≠ fieldCommands7.hub.ident.uid.toNat % (2 : ℕ) ^ (0 : ℕ))) ∧
    ((st up).hub.tag.quiet = false ∧ (rq TagMode.nonAddressed).twoSub = false ∧ (some (0 : Byte) = none ∨ some (0 : Byte) =
      some (0 : Byte)) ∧ up.ident.uid.toNat % 2 ^ 64 = (st up).hub.ident.uid.toNat % 2 ^ 64) := by
  and_intros <;> decide +kernel

/-- Obligations.StartAndReset. -/
theorem witness_StartAndReset :
    ((st up).hub.pwr.vkeepOk = true) ∧
    (startAndReset1.hub.pwr.vkeepOk = false) ∧
    (startAndReset1.hub.pwr.vkeepOk = false) ∧
    ((st up).hub.pwr.vkeepOk = true) ∧
    ((startAndReset1.hub.pwr.vkeepOk = false ∨ startAndReset1.hub.boot.bays ≠ [] ∨ startAndReset1.hub.clk.elapsed <
      startAndReset1.hub.pwr.vkeepAt + 1000000 ∨ startAndReset1.hub.inKeep = true ∨ startAndReset1.hub.pwr.stays = true)) ∧
    (startAndReset2.hub.pwr.vkeepOk = true ∧ startAndReset2.hub.boot.bays = [] ∧ startAndReset2.hub.pwr.vkeepAt + 1000000 ≤
      startAndReset2.hub.clk.elapsed ∧ startAndReset2.hub.inKeep = false ∧ startAndReset2.hub.pwr.stays = false) ∧
    ((st up).hub.bayStart 0 = none) ∧
    (((st up).hub.die (2 * 0)).rails = true) ∧
    ((bayAt 5000000001).hub.bayStart 0 = some 5000000001 ∧ ((bayAt 5000000001).hub.clk.elapsed < 5000000001 ∨ 5000000001 +
      5000000 < (bayAt 5000000001).hub.clk.elapsed)) ∧
    ((startAndReset3.hub.die (2 * 0)).faulted = true) ∧
    (startAndReset4.hub.bayStart 0 = some 0 ∧ Shaped startAndReset4.hub ∧ 0 < startAndReset4.hub.nBays ∧ 0 ≤
      startAndReset4.hub.clk.elapsed ∧ startAndReset4.hub.clk.elapsed ≤ 0 + 5000000 ∧ (startAndReset4.hub.die (2 * 0)).rails =
      false ∧ (startAndReset4.hub.die (2 * 0)).faulted = false) ∧
    (startAndReset5.hub.bayStart 0 = some 245000001 ∧ startAndReset5.hub.clk.elapsed < 245000001 + 5000000) ∧
    (startAndReset6.hub.bayStart 0 = some 245000000 ∧ Shaped startAndReset6.hub ∧ 0 < startAndReset6.hub.nBays ∧ 245000000 +
      5000000 ≤ startAndReset6.hub.clk.elapsed ∧ (startAndReset6.hub.die (2 * 0)).rails = false ∧ (startAndReset6.hub.die (2 *
      0)).faulted = false) ∧
    (startAndReset7.hub.boot.tr = none ∧ ((startAndReset7.hub.die 0).rails = false ∨ startAndReset7.hub.pwr.vkeepOk = false)) ∧
    (startAndReset8.hub.boot.tr = none ∧ ((startAndReset8.hub.die 0).rails = false ∨ startAndReset8.hub.pwr.vkeepOk = false)) ∧
    ((true = false ∨ false = false)) ∧
    (startAndReset9.hub.boot.tr = none ∧ (startAndReset9.hub.die 0).rails = true ∧ startAndReset9.hub.pwr.vkeepOk = true) ∧
    ((st up).hub.boot.tr = some 0 ∧ (st up).hub.boot.rst = true ∧ (st up).hub.pwr.vioA = true ∧ (st up).hub.pwr.vioB = true) ∧
    ((st up).hub.boot.resetAt = none) ∧
    (startAndReset10.hub.boot.resetAt = some 5000000001 ∧ (startAndReset10.hub.clk.elapsed < 5000000001 ∨
      startAndReset10.hub.mgmt.owes [259, 262] = true)) ∧
    (startAndReset11.hub.boot.resetAt = some 5000000000 ∧ 5000000000 ≤ startAndReset11.hub.clk.elapsed ∧
      startAndReset11.hub.mgmt.owes [259, 262] = false) ∧
    (startAndReset11.hub.boot.resetAt = some 5000000000 ∧ 5000000000 ≤ startAndReset11.hub.clk.elapsed ∧
      startAndReset11.hub.mgmt.owes [259, 262] = false ∧ Shaped startAndReset11.hub ∧ startAndReset11.hub.boot.rst = true ∧
      (startAndReset11.hub.die 0).rails = true ∧ startAndReset11.hub.pwr.vkeepOk = true) ∧
    (((st up).hub.boot.watchdog = none ∨ (st up).hub.boot.level ≠ Level.boot)) ∧
    (startAndReset12.hub.boot.watchdog = some 4000000001 ∧ startAndReset12.hub.clk.elapsed < 4000000001 + 1000000000) ∧
    (startAndReset13.hub.boot.watchdog = some 0 ∧ 0 + 1000000000 ≤ startAndReset13.hub.clk.elapsed ∧
      startAndReset13.hub.boot.level = Level.boot) ∧
    ((startAndReset14.hub.boot.tr = none ∨ startAndReset14.hub.boot.running = false ∧ startAndReset14.hub.boot.level ≠
      Level.boot)) ∧
    ((st up).hub.boot.tr = some 0 ∧ (st up).hub.boot.running = true ∧ 0 + 250000000 ≤ (st up).hub.clk.elapsed) ∧
    (Shaped startAndReset15.hub ∧ startAndReset15.hub.boot.tr = some 0 ∧ startAndReset15.hub.boot.running = true ∧
      startAndReset15.hub.clk.elapsed < 0 + 250000000) ∧
    ((starting id id).hub.boot.tr = some 0 ∧ (starting id id).hub.boot.level = Level.boot ∧ (starting id id).hub.boot.running =
      false ∧ Shaped (starting id id).hub) ∧
    ((starting id id).hub.boot.tr = some 0 ∧ (starting id id).hub.boot.level = Level.boot ∧ (starting id id).hub.boot.running =
      false ∧ Shaped (starting id id).hub) ∧
    (((st up).hub.boot.tr = none ∨ (st up).hub.nDies ≤ 2 ∨ ((st up).hub.die 2).cores.reported = true ∨ ((st up).hub.die
      2).faulted = true)) ∧
    (((st up).hub.boot.tr = none ∨ (st up).hub.nDies ≤ 0 ∨ ((st up).hub.die 0).cores.reported = true ∨ ((st up).hub.die
      0).faulted = true)) ∧
    (startAndReset17.hub.boot.tr = some 0 ∧ startAndReset17.hub.clk.elapsed < 0 + 250000000) ∧
    ((starting id id).hub.boot.tr = some 0 ∧ Shaped (starting id id).hub ∧ 1 < (starting id id).hub.nDies ∧ 0 + 250000000 ≤
      (starting id id).hub.clk.elapsed ∧ ((starting id id).hub.die 1).cores.reported = false ∧ ((starting id id).hub.die
      1).faulted = false) ∧
    (((st up).hub.boot.watchdog = none ∨ (st up).hub.boot.running = true ∨ ((st up).hub.die 0).inService = false)) ∧
    (startAndReset18.hub.boot.watchdog.isSome = true ∧ startAndReset18.hub.boot.running = false ∧ (startAndReset18.hub.die
      0).inService = true) ∧
    (((st up).hub.boot.running = false ∨ (st up).hub.boot.level ≠ Level.boot)) ∧
    (Shaped startAndReset19.hub ∧ startAndReset19.hub.boot.running = true ∧ startAndReset19.hub.boot.level = Level.boot) ∧
    ((startAndReset20.hub.boot.level.serves = false ∨ startAndReset20.hub.boot.level = Level.rough ∧
      startAndReset20.hub.cal.passDone = false)) ∧
    (startAndReset21.hub.boot.level.serves = true ∧ startAndReset21.hub.boot.cfgApplied = true ∧
      (startAndReset21.hub.boot.level ≠ Level.rough ∨ startAndReset21.hub.boot.p00Settled = false)) ∧
    (startAndReset22.hub.boot.level.serves = true ∧ startAndReset22.hub.boot.cfgApplied = true ∧
      (startAndReset22.hub.boot.level ≠ Level.rough ∨ startAndReset22.hub.boot.p00Settled = false)) ∧
    (startAndReset23.hub.boot.level.serves = true ∧ startAndReset23.hub.cal.passDone = true ∧
      startAndReset23.hub.boot.cfgApplied = false) ∧
    (startAndReset24.hub.boot.level = Level.rough ∧ startAndReset24.hub.cal.passDone = true ∧
      startAndReset24.hub.boot.cfgApplied = true ∧ startAndReset24.hub.boot.p00Settled = true) ∧
    (((st up).hub.boot.tr = none ∨ (st up).hub.boot.level ≠ Level.rough)) ∧
    (startAndReset20.hub.boot.tr = some 0 ∧ startAndReset20.hub.clk.elapsed < 0 + startAndReset20.hub.ident.variant.bound) ∧
    (startAndReset25.hub.boot.tr = some 0 ∧ startAndReset25.hub.boot.level = Level.rough ∧ 0 +
      startAndReset25.hub.ident.variant.bound ≤ startAndReset25.hub.clk.elapsed) := by
  and_intros <;> first | decide +kernel | (unfold Shaped; decide +kernel)

/-- Obligations.SystemCommands. -/
theorem witness_SystemCommands :
    ((0 : Word) ≠ (2779077210 : Word)) ∧
    ((systemCommands1.hub.mgmt.queue.any fun x => x.hdr.reqId == 1 && x.hdr.tag == 7) = true) ∧
    ((systemCommands2.hub.mgmt.queue.any fun x => x.hdr.reqId == 1 && x.hdr.tag == 7) = false ∧
      (systemCommands2.hub.mgmt.started.any fun x => x.hdr.reqId == 1 && x.hdr.tag == 7) = true) ∧
    ((systemCommands3.hub.mgmt.queue.any fun x => x.hdr.reqId == 1 && x.hdr.tag == 7) = false ∧
      (systemCommands3.hub.mgmt.started.any fun x => x.hdr.reqId == 1 && x.hdr.tag == 7) = true) ∧
    (((st up).hub.mgmt.queue.any fun x => x.hdr.reqId == 1 && x.hdr.tag == 7) = false ∧ ((st up).hub.mgmt.started.any fun x =>
      x.hdr.reqId == 1 && x.hdr.tag == 7) = false ∧ (∀ e ∈ (st up).hub.mgmt.cache, e.reqId = 1 → e.tag = 7 → e.at' +
      120000000000 ≤ (st up).hub.clk.elapsed)) ∧
    ((systemCommands4.hub.mgmt.queue.any fun x => x.hdr.reqId == 1 && x.hdr.tag == 7) = false ∧
      (systemCommands4.hub.mgmt.started.any fun x => x.hdr.reqId == 1 && x.hdr.tag == 7) = false ∧ systemCommands5 ∈
      systemCommands4.hub.mgmt.cache ∧ systemCommands5.reqId = 1 ∧ systemCommands5.tag = 7 ∧ systemCommands4.hub.clk.elapsed <
      systemCommands5.at' + 120000000000 ∧ (∀ k ∈ systemCommands4.hub.mgmt.cache, k.reqId = 1 → k.tag = 7 → k = systemCommands5)) ∧
    ((systemCommands6.hub.flash.present = false ∨ systemCommands6.hub.flash.topGen = 4294967295)) ∧
    ((st up).hub.flash.present = true ∧ (st up).hub.flash.topGen < 4294967295) ∧
    (((1 < 2 ∨ (st up).hub.boot.slot = some 2) ∨ 4072 < [0].length ∨ ¬(0 + [0].length ≤ 128 ∨ 512 ≤ 0 ∧ 0 + [0].length ≤
      2097152))) ∧
    ((¬(1 < 1 ∨ systemCommands6.hub.boot.slot = some 1)) ∧ (List.replicate 8 1).length ≤ 4072 ∧ (120 + (List.replicate 8
      1).length ≤ 128 ∨ 512 ≤ 120 ∧ 120 + (List.replicate 8 1).length ≤ 2097152) ∧ systemCommands6.hub.flash.present = false ∧
      systemCommands6.hub.boot.netboot = false) ∧
    ((¬(1 < 0 ∨ systemCommands6.hub.boot.slot = some 0)) ∧ [0].length ≤ 4072 ∧ (512 + [0].length ≤ 128 ∨ 512 ≤ 512 ∧ 512 +
      [0].length ≤ 2097152) ∧ systemCommands6.hub.flash.present = false ∧ systemCommands6.hub.boot.netboot = false) ∧
    ((¬(1 < 1 ∨ systemCommands7.hub.boot.slot = some 1)) ∧ (List.replicate 8 1).length ≤ 4072 ∧ (120 + (List.replicate 8
      1).length ≤ 128 ∨ 512 ≤ 120 ∧ 120 + (List.replicate 8 1).length ≤ 2097152) ∧ systemCommands7.hub.flash.present = false ∧
      systemCommands7.hub.boot.netboot = true) ∧
    ((¬(1 < 1 ∨ systemCommands7.hub.boot.slot = some 1)) ∧ List.length systemCommands8 ≤ 4072 ∧ (2093080 + List.length
      systemCommands8 ≤ 128 ∨ 512 ≤ 2093080 ∧ 2093080 + List.length systemCommands8 ≤ 2097152) ∧
      systemCommands7.hub.flash.present = false ∧ systemCommands7.hub.boot.netboot = true) ∧
    ((¬(1 < 1 ∨ (st up).hub.boot.slot = some 1)) ∧ (List.replicate 8 1).length ≤ 4072 ∧ (120 + (List.replicate 8 1).length ≤
      128 ∨ 512 ≤ 120 ∧ 120 + (List.replicate 8 1).length ≤ 2097152) ∧ (st up).hub.flash.present = true) ∧
    ((¬(1 < 1 ∨ (st up).hub.boot.slot = some 1)) ∧ List.length systemCommands8 ≤ 4072 ∧ (2093080 + List.length systemCommands8
      ≤ 128 ∨ 512 ≤ 2093080 ∧ 2093080 + List.length systemCommands8 ≤ 2097152) ∧ (st up).hub.flash.present = true) ∧
    ((1 < 1 ∨ systemCommands9.hub.boot.slot = some 1)) ∧
    ((¬(1 < 1 ∨ systemCommands6.hub.boot.slot = some 1)) ∧ systemCommands6.hub.flash.present = false ∧
      systemCommands6.hub.boot.netboot = false) ∧
    ((¬(1 < 1 ∨ systemCommands10.hub.boot.slot = some 1)) ∧ (systemCommands10.hub.flash.present = true ∨
      systemCommands10.hub.boot.netboot = true) ∧ (if systemCommands10.hub.flash.present = true then
      systemCommands10.hub.flash.slot 1 else systemCommands10.hub.flash.staged) = none) ∧
    ((¬(1 < 0 ∨ systemCommands7.hub.boot.slot = some 0)) ∧ (systemCommands7.hub.flash.present = true ∨
      systemCommands7.hub.boot.netboot = true) ∧ (if systemCommands7.hub.flash.present = true then
      systemCommands7.hub.flash.slot 0 else systemCommands7.hub.flash.staged) = none) ∧
    ((¬(1 < 1 ∨ (slotB img0).hub.boot.slot = some 1)) ∧ ((slotB img0).hub.flash.present = true ∨ (slotB img0).hub.boot.netboot
      = true) ∧ (if (slotB img0).hub.flash.present = true then (slotB img0).hub.flash.slot 1 else (slotB img0).hub.flash.staged)
      = some img0 ∧ (Image.sound img0 = false ∨ Image.signedFor img0 (slotB img0).hub.fseal.st = false ∧ (slotB
      img0).hub.fseal.st ≠ 2 ∨ Image.signedFor img0 (slotB img0).hub.fseal.st = true ∧ Image.valid img0 (slotB
      img0).hub.fseal.st (slotB img0).hub.flash.floor = false)) := by
  and_intros <;> decide +kernel

/-- Obligations.SealAndTestPort. -/
theorem witness_SealAndTestPort :
    (sealAndTestPort1.hub.lockedOut = true) ∧
    (sealAndTestPort2.hub.lockedOut = false) ∧
    (sealAndTestPort3.hub.nonceHeld = none) ∧
    (sealAndTestPort4.hub.nonceHeld = some 9 ∧ sealAndTestPort4.hub.fseal.key = some [1] ∧ sealAndTestPort5 = macBytes [(1 :
      Byte)] (be (16 : ℕ) (BitVec.toNat (9 : BitVec (128 : ℕ))) ++ be (6 : ℕ) sealAndTestPort4.hub.ident.serial.toNat)) ∧
    (sealAndTestPort6.hub.nonceHeld = some 9 ∧ (∀ (k : Bytes), sealAndTestPort6.hub.fseal.key = some k → [] ≠ macBytes k (be
      (16 : ℕ) (BitVec.toNat (9 : BitVec (128 : ℕ))) ++ be (6 : ℕ) sealAndTestPort6.hub.ident.serial.toNat))) ∧
    ((2 < 2 ∨ 2 = 2 ∧ (st up).hub.fseal.key = none)) ∧
    (1 ≤ 2 ∧ (1 = 2 → (st up).hub.fseal.key.isSome = true) ∧ 1 = (st up).hub.fseal.st) ∧
    (0 ≤ 2 ∧ (0 = 2 → (st up).hub.fseal.key.isSome = true) ∧ 0 ≠ (st up).hub.fseal.st ∧ (¬((st up).hub.fseal.st = 0 ∧ 0 = 1)) ∧
      (¬((st up).hub.fseal.st = 1 ∧ 0 = 2)) ∧ (¬((st up).hub.fseal.st = 2 ∧ (st up).hub.fseal.session = true ∧ 0 = 1))) ∧
    ((sealAndTestPort7.hub.fseal.st = 0 ∧ 2 = 1 ∨ sealAndTestPort7.hub.fseal.st = 1 ∧ 2 = 2 ∧
      sealAndTestPort7.hub.fseal.key.isSome = true ∨ sealAndTestPort7.hub.fseal.st = 2 ∧ sealAndTestPort7.hub.fseal.session =
      true ∧ 2 = 1)) ∧
    ((sealAndTestPort8.hub.fseal.st = 0 ∧ 1 = 1 ∨ sealAndTestPort8.hub.fseal.st = 1 ∧ 1 = 2 ∧
      sealAndTestPort8.hub.fseal.key.isSome = true ∨ sealAndTestPort8.hub.fseal.st = 2 ∧ sealAndTestPort8.hub.fseal.session =
      true ∧ 1 = 1)) ∧
    ((sealAndTestPort9.hub.fseal.st = 0 ∧ 1 = 1 ∨ sealAndTestPort9.hub.fseal.st = 1 ∧ 1 = 2 ∧
      sealAndTestPort9.hub.fseal.key.isSome = true ∨ sealAndTestPort9.hub.fseal.st = 2 ∧ sealAndTestPort9.hub.fseal.session =
      true ∧ 1 = 1)) ∧
    (sealAndTestPort10.hub.fseal.st = 2 ∧ sealAndTestPort10.hub.fseal.session = false) ∧
    ((sealAndTestPort9.hub.fseal.st ≠ 2 ∨ sealAndTestPort9.hub.fseal.session = true)) ∧
    (sealAndTestPort6.hub.nonceHeld.isSome = true) ∧
    (sealAndTestPort11.hub.nonceHeld = none) ∧
    (((st up).hub.fseal.lockUntil = none ∨ (st up).hub.pwr.vkeepOk = false)) ∧
    (sealAndTestPort12.hub.fseal.lockUntil = some 5000000000 ∧ sealAndTestPort12.hub.pwr.vkeepOk = true ∧ 5000000000 ≤
      sealAndTestPort12.hub.clk.elapsed ∧ sealAndTestPort12.hub.fseal.lockSeen ≠ 0) ∧
    (sealAndTestPort2.hub.fseal.lockUntil = some 5000000000 ∧ sealAndTestPort2.hub.pwr.vkeepOk = true ∧ 5000000000 ≤
      sealAndTestPort2.hub.clk.elapsed ∧ sealAndTestPort2.hub.fseal.lockSeen = 0) ∧
    (sealAndTestPort13.hub.fseal.lockUntil = some 5000000001 ∧ sealAndTestPort13.hub.pwr.vkeepOk = true ∧
      sealAndTestPort13.hub.clk.elapsed < 5000000001 ∧ sealAndTestPort13.hub.lockMin ≠ sealAndTestPort13.hub.fseal.lockSeen) ∧
    (sealAndTestPort14.hub.fseal.lockUntil = some 5000000001 ∧ sealAndTestPort14.hub.pwr.vkeepOk = true ∧
      sealAndTestPort14.hub.clk.elapsed < 5000000001 ∧ sealAndTestPort14.hub.lockMin = sealAndTestPort14.hub.fseal.lockSeen) ∧
    (sealAndTestPort10.hub.fseal.st = 2 ∧ sealAndTestPort10.hub.fseal.session = false) ∧
    ((63 < 64 ∨ 79 < 63)) ∧
    ((80 < 64 ∨ 79 < 80)) ∧
    (((st up).hub.fseal.st ≤ 1 ∨ (st up).hub.fseal.st = 2 ∧ (st up).hub.fseal.session = true) ∧ 64 ≤ 79 ∧ 79 ≤ 79) := by
  and_intros <;> first | decide +kernel | rfl

/-- Obligations.DoorbellWindow. -/
theorem witness_DoorbellWindow :
    (doorbellWindow1.hub.hspiOn = false) ∧
    ((st up).hub.hspiOn = true ∧ (st up).hub.dbw.mbiHead = (st up).hub.dbw.mbiTail) ∧
    ((mbx [] 0).hub.hspiOn = true ∧ (mbx [] 0).hub.dbw.mbiHead ≠ (mbx [] 0).hub.dbw.mbiTail) ∧
    (doorbellWindow2.hub.hspiOn = true ∧ doorbellWindow2.hub.mgmt.outbox = [resp]) ∧
    ((st up).hub.hspiOn = true ∧ (st up).hub.mgmt.outbox = []) ∧
    ((st up).hub.hspiOn = true) ∧
    ((st up).hub.hspiOn = true) ∧
    ((st up).hub.hspiOn = true) ∧
    ((st up).hub.hspiOn = true ∧ 3 % 4 ≠ 0 ∧ HspiOp.read false 0 ∈ [HspiOp.write false [], HspiOp.read false 0]) ∧
    ((st up).hub.hspiOn = true ∧ (255 : Byte) ∉ [(5 : Byte), (11 : Byte), (107 : Byte), (2 : Byte), (50 : Byte)]) ∧
    ((st up).hub.hspiOn = true ∧ 4156 % 4 = 0) ∧
    ((st up).hub.hspiOn = true ∧ 8188 % 4 = 0) ∧
    ((st up).hub.hspiOn = true ∧ 92 % 4 = 0) ∧
    ((st up).hub.hspiOn = true ∧ 48 % 4 = 0) ∧
    ((st up).hub.hspiOn = true ∧ 12288 % 4 = 0) ∧
    ((st up).hub.hspiOn = true) ∧
    ((st up).hub.hspiOn = true) ∧
    ((st up).hub.hspiOn = true) ∧
    ((st up).hub.hspiOn = true) ∧
    ((st up).hub.hspiOn = true) ∧
    ((st up).hub.hspiOn = true) ∧
    ((st up).hub.hspiOn = true) ∧
    (doorbellWindow2.hub.hspiOn = true ∧ 1023 < 1024) ∧
    (doorbellWindow2.hub.hspiOn = true ∧ 1 < 1024) ∧
    ((st up).hub.hspiOn = true ∧ 0 % 4 = 0 ∧ 0 ∉ [12, 16, 20, 40, 84, 88, 92, 96] ∧ (0 < 4096 ∨ 8192 ≤ 0)) ∧
    ((st up).hub.hspiOn = true ∧ 8192 % 4 = 0 ∧ 8192 ∉ [12, 16, 20, 40, 84, 88, 92, 96] ∧ (8192 < 4096 ∨ 8192 ≤ 8192)) ∧
    ((st up).hub.hspiOn = true) ∧
    ((st up).hub.hspiOn = true) ∧
    ((st up).hub.hspiOn = true) ∧
    ((st up).hub.hspiOn = true) ∧
    ((st up).hub.hspiOn = true) ∧
    ((st up).hub.hspiOn = true) ∧
    ((st up).hub.hspiOn = true) ∧
    ((st up).hub.hspiOn = true) ∧
    ((st up).hub.hspiOn = true ∧ 1023 < 1024 ∧ (st up).hub.dbw.mbiHead = (st up).hub.dbw.mbiTail ∧ Mailbox.wf (st
      up).hub.dbw.mbi) ∧
    ((mbx [] 0).hub.hspiOn = true ∧ 1023 < 1024 ∧ (mbx [] 0).hub.dbw.mbiHead ≠ (mbx [] 0).hub.dbw.mbiTail) ∧
    ((st up).hub.hspiOn = true) := by
  and_intros <;> decide +kernel

/-- Obligations.Requests. -/
theorem witness_Requests :
    (((st up).hub.dbw.mbiFree = true ∨ (st up).hub.hspiOn = false ∨ 32 ≤ (st up).hub.placesUsed Route.hspi)) ∧
    (requests2.hub.dbw.mbiFree = false ∧ requests2.hub.hspiOn = true ∧ requests2.hub.placesUsed Route.hspi < 32 ∧ 4080 <
      (headerAt requests2.hub.dbw.mbiBytes 0).length) ∧
    (requests3.hub.dbw.mbiFree = false ∧ requests3.hub.hspiOn = true ∧ requests3.hub.placesUsed Route.hspi < 32 ∧ (headerAt
      requests3.hub.dbw.mbiBytes 0).length ≤ 4080 ∧ crc32 (List.take (16 + (headerAt requests3.hub.dbw.mbiBytes 0).length)
      requests3.hub.dbw.mbiBytes) ≠ requests3.hub.dbw.mbiCrc) ∧
    (requests4.hub.dbw.mbiFree = false ∧ requests4.hub.hspiOn = true ∧ requests4.hub.placesUsed Route.hspi < 32 ∧ (headerAt
      requests4.hub.dbw.mbiBytes 0).length ≤ 4080 ∧ crc32 (List.take (16 + (headerAt requests4.hub.dbw.mbiBytes 0).length)
      requests4.hub.dbw.mbiBytes) = requests4.hub.dbw.mbiCrc ∧ requests4.hub.serves = false) ∧
    (requests5.hub.dbw.mbiFree = false ∧ requests5.hub.hspiOn = true ∧ requests5.hub.placesUsed Route.hspi < 32 ∧ (headerAt
      requests5.hub.dbw.mbiBytes 0).length ≤ 4080 ∧ crc32 (List.take (16 + (headerAt requests5.hub.dbw.mbiBytes 0).length)
      requests5.hub.dbw.mbiBytes) = requests5.hub.dbw.mbiCrc ∧ requests5.hub.serves = true ∧ (∀ y ∈ requests5.hub.mgmt.queue,
      y.raw = false) ∧ Fresh requests5.hub (headerAt requests5.hub.dbw.mbiBytes 0) ∧ cmdInfo (headerAt
      requests5.hub.dbw.mbiBytes 0).opcode = some requests1 ∧ (requests5.hub.boot.netboot = false ∨ netCmd (headerAt
      requests5.hub.dbw.mbiBytes 0).opcode = true) ∧ (requests1.cls = 0 ∨ requests5.hub.placesUsed Route.hspi + 6 ≤ 32 ∧
      Config.waitEstimate (requests5.hub.fresh + 1) requests1.cls ≤ waitLimit requests1.cls)) ∧
    (requests6.hub.dbw.mbiFree = false ∧ requests6.hub.hspiOn = true ∧ requests6.hub.placesUsed Route.hspi < 32 ∧ (headerAt
      requests6.hub.dbw.mbiBytes 0).length ≤ 4080 ∧ crc32 (List.take (16 + (headerAt requests6.hub.dbw.mbiBytes 0).length)
      requests6.hub.dbw.mbiBytes) = requests6.hub.dbw.mbiCrc ∧ requests6.hub.serves = true ∧ (∀ y ∈ requests6.hub.mgmt.queue,
      y.raw = false) ∧ Fresh requests6.hub (headerAt requests6.hub.dbw.mbiBytes 0) ∧ cmdInfo (headerAt
      requests6.hub.dbw.mbiBytes 0).opcode = some (info 3075) ∧ (¬((requests6.hub.boot.netboot = false ∨ netCmd (headerAt
      requests6.hub.dbw.mbiBytes 0).opcode = true) ∧ ((info 3075).cls = 0 ∨ requests6.hub.placesUsed Route.hspi + 6 ≤ 32 ∧
      Config.waitEstimate (requests6.hub.fresh + 1) (info 3075).cls ≤ waitLimit (info 3075).cls)))) ∧
    (requests7.hub.dbw.mbiFree = false ∧ requests7.hub.hspiOn = true ∧ requests7.hub.placesUsed Route.hspi < 32 ∧ (headerAt
      requests7.hub.dbw.mbiBytes 0).length ≤ 4080 ∧ crc32 (List.take (16 + (headerAt requests7.hub.dbw.mbiBytes 0).length)
      requests7.hub.dbw.mbiBytes) = requests7.hub.dbw.mbiCrc ∧ requests7.hub.serves = true ∧ (∀ y ∈ requests7.hub.mgmt.queue,
      y.raw = false) ∧ Fresh requests7.hub (headerAt requests7.hub.dbw.mbiBytes 0) ∧ cmdInfo (headerAt
      requests7.hub.dbw.mbiBytes 0).opcode = some (info 3586) ∧ (¬((requests7.hub.boot.netboot = false ∨ netCmd (headerAt
      requests7.hub.dbw.mbiBytes 0).opcode = true) ∧ ((info 3586).cls = 0 ∨ requests7.hub.placesUsed Route.hspi + 6 ≤ 32 ∧
      Config.waitEstimate (requests7.hub.fresh + 1) (info 3586).cls ≤ waitLimit (info 3586).cls)))) ∧
    ((mbxReq 65281).hub.dbw.mbiFree = false ∧ (mbxReq 65281).hub.hspiOn = true ∧ (mbxReq 65281).hub.placesUsed Route.hspi < 32
      ∧ (headerAt (mbxReq 65281).hub.dbw.mbiBytes 0).length ≤ 4080 ∧ crc32 (List.take (16 + (headerAt (mbxReq
      65281).hub.dbw.mbiBytes 0).length) (mbxReq 65281).hub.dbw.mbiBytes) = (mbxReq 65281).hub.dbw.mbiCrc ∧ (mbxReq
      65281).hub.serves = true ∧ (∀ y ∈ (mbxReq 65281).hub.mgmt.queue, y.raw = false) ∧ Fresh (mbxReq 65281).hub (headerAt
      (mbxReq 65281).hub.dbw.mbiBytes 0) ∧ cmdInfo (headerAt (mbxReq 65281).hub.dbw.mbiBytes 0).opcode = none) ∧
    (requests8.hub.dbw.mbiFree = false ∧ requests8.hub.hspiOn = true ∧ requests8.hub.placesUsed Route.hspi < 32 ∧ (headerAt
      requests8.hub.dbw.mbiBytes 0).length ≤ 4080 ∧ crc32 (List.take (16 + (headerAt requests8.hub.dbw.mbiBytes 0).length)
      requests8.hub.dbw.mbiBytes) = requests8.hub.dbw.mbiCrc ∧ requests8.hub.serves = true ∧ (∀ y ∈ requests8.hub.mgmt.queue,
      y.raw = false) ∧ List.find? (fun e => e.reqId == (headerAt requests8.hub.dbw.mbiBytes 0).reqId && e.tag == (headerAt
      requests8.hub.dbw.mbiBytes 0).tag) (List.filter (fun e => decide (requests8.hub.clk.elapsed < e.at' + 120000000000))
      requests8.hub.mgmt.cache) = some cached) ∧
    (requests9.hub.dbw.mbiFree = false ∧ requests9.hub.hspiOn = true ∧ requests9.hub.placesUsed Route.hspi < 32 ∧ (headerAt
      requests9.hub.dbw.mbiBytes 0).length ≤ 4080 ∧ crc32 (List.take (16 + (headerAt requests9.hub.dbw.mbiBytes 0).length)
      requests9.hub.dbw.mbiBytes) = requests9.hub.dbw.mbiCrc ∧ requests9.hub.serves = true ∧ (∀ y ∈ requests9.hub.mgmt.queue,
      y.raw = false) ∧ List.find? (fun e => e.reqId == (headerAt requests9.hub.dbw.mbiBytes 0).reqId && e.tag == (headerAt
      requests9.hub.dbw.mbiBytes 0).tag) (List.filter (fun e => decide (requests9.hub.clk.elapsed < e.at' + 120000000000))
      requests9.hub.mgmt.cache) = some cached) ∧
    (((st up).hub.prt 0).st ≠ PState.up) ∧
    (Accepted (addrd id).hub 0 (svcPk 0 0 svcBody) ∧ (addrd id).hub.addressed = true ∧ (svcPk 0 0 svcBody).dest = (addrd
      id).hub.addr ∧ (svcPk 0 0 svcBody).kind = 0 ∧ (svcPk 0 0 svcBody).src = 0 ∧ (addrd id).hub.placesUsed Route.inband < 32 ∧
      20 + (headerAt (svcPk 0 0 svcBody).body 0).length ≤ List.length (svcPk 0 0 svcBody).body ∧ (headerAt (svcPk 0 0
      svcBody).body 0).length ≤ 4080 ∧ BitVec.toNat (crc32 (List.take (16 + (headerAt (svcPk 0 0 svcBody).body 0).length) (svcPk
      0 0 svcBody).body)) = fieldAt (svcPk 0 0 svcBody).body (16 + (headerAt (svcPk 0 0 svcBody).body 0).length) 4 ∧ (addrd
      id).hub.serves = true ∧ (∀ y ∈ (addrd id).hub.mgmt.queue, y.raw = false) ∧ Fresh (addrd id).hub (headerAt (svcPk 0 0
      svcBody).body 0) ∧ cmdInfo (headerAt (svcPk 0 0 svcBody).body 0).opcode = some requests1 ∧ ((addrd id).hub.boot.netboot =
      false ∨ netCmd (headerAt (svcPk 0 0 svcBody).body 0).opcode = true) ∧ (requests1.cls = 0 ∨ (addrd id).hub.placesUsed
      Route.inband + 6 ≤ 32 ∧ Config.waitEstimate ((addrd id).hub.fresh + 1) requests1.cls ≤ waitLimit requests1.cls)) ∧
    (Accepted (noFw (addrd id).hub).hub 0 (svcPk 0 0 svcBody) ∧ (noFw (addrd id).hub).hub.addressed = true ∧ (svcPk 0 0
      svcBody).dest = (noFw (addrd id).hub).hub.addr ∧ (svcPk 0 0 svcBody).kind = 0 ∧ (svcPk 0 0 svcBody).src = 0 ∧ (noFw (addrd
      id).hub).hub.placesUsed Route.inband < 32 ∧ 20 + (headerAt (svcPk 0 0 svcBody).body 0).length ≤ List.length (svcPk 0 0
      svcBody).body ∧ (headerAt (svcPk 0 0 svcBody).body 0).length ≤ 4080 ∧ BitVec.toNat (crc32 (List.take (16 + (headerAt
      (svcPk 0 0 svcBody).body 0).length) (svcPk 0 0 svcBody).body)) = fieldAt (svcPk 0 0 svcBody).body (16 + (headerAt (svcPk 0
      0 svcBody).body 0).length) 4 ∧ (noFw (addrd id).hub).hub.serves = false) ∧
    (Accepted (addrd id).hub 0 (svcPk 0 7 []) ∧ (addrd id).hub.addressed = true ∧ (svcPk 0 7 []).dest = (addrd id).hub.addr ∧
      (svcPk 0 7 []).kind = 0 ∧ ((svcPk 0 7 []).src ≠ 0 ∨ 32 ≤ (addrd id).hub.placesUsed Route.inband)) ∧
    (Accepted (addrd id).hub 0 (svcPk 0 0 []) ∧ (addrd id).hub.addressed = true ∧ (svcPk 0 0 []).dest = (addrd id).hub.addr ∧
      (svcPk 0 0 []).kind = 0 ∧ (svcPk 0 0 []).src = 0 ∧ (addrd id).hub.placesUsed Route.inband < 32 ∧ (¬(20 + (headerAt (svcPk
      0 0 []).body 0).length ≤ List.length (svcPk 0 0 []).body ∧ (headerAt (svcPk 0 0 []).body 0).length ≤ 4080 ∧ BitVec.toNat
      (crc32 (List.take (16 + (headerAt (svcPk 0 0 []).body 0).length) (svcPk 0 0 []).body)) = fieldAt (svcPk 0 0 []).body (16 +
      (headerAt (svcPk 0 0 []).body 0).length) 4))) ∧
    (Accepted (addrd id).hub 0 requests10 ∧ (addrd id).hub.addressed = true ∧ requests10.dest = (addrd id).hub.addr ∧
      requests10.kind = 0 ∧ requests10.src = 0 ∧ (addrd id).hub.placesUsed Route.inband < 32 ∧ (¬(20 + (headerAt requests10.body
      0).length ≤ List.length requests10.body ∧ (headerAt requests10.body 0).length ≤ 4080 ∧ BitVec.toNat (crc32 (List.take (16
      + (headerAt requests10.body 0).length) requests10.body)) = fieldAt requests10.body (16 + (headerAt requests10.body
      0).length) 4))) ∧
    (Shaped fwdHub.hub ∧ Accepted fwdHub.hub 0 requests11 ∧ requests11.cls = 3 ∧ fwdHub.hub.boot.netboot = false ∧
      requests11.dest ≠ 65535 ∧ requests11.dest ≠ fwdHub.hub.addr ∧ 1 < fwdHub.hub.nPorts ∧ 1 ≠ 0 ∧ (fwdHub.hub.prt 1).range =
      some (6, 9) ∧ 6 ≤ requests11.dest ∧ requests11.dest ≤ 9 ∧ (∀ i < 1, (fwdHub.hub.prt i).range = none) ∧ (fwdHub.hub.prt
      1).link.queues.length = 4) ∧
    (Accepted (addrd id).hub 0 requests12 ∧ (addrd id).hub.addressed = true ∧ requests12.dest = (addrd id).hub.addr ∧
      requests12.kind = 1 ∧ requests12.src = 0 ∧ List.length requests12.body = 16 ∧ fieldAt requests12.body 2 1 = 1 ∧ fieldAt
      requests12.body 8 8 = 2 ^ 62 + 16 * 2 ^ 32 + 1023 ∧ 16 < 65536 ∧ 1023 < 2 ^ 32 ∧ 16 = 16) ∧
    (Accepted (addrd id).hub 0 (svcPk 1 0 (daBody 3)) ∧ (addrd id).hub.addressed = true ∧ (svcPk 1 0 (daBody 3)).dest = (addrd
      id).hub.addr ∧ (svcPk 1 0 (daBody 3)).kind = 1 ∧ (svcPk 1 0 (daBody 3)).src = 0 ∧ List.length (svcPk 1 0 (daBody 3)).body
      = 16 ∧ fieldAt (svcPk 1 0 (daBody 3)).body 2 1 = 1 ∧ fieldAt (svcPk 1 0 (daBody 3)).body 8 8 = 2 ^ 62 + 3 * 2 ^ 32 + 1023
      ∧ 3 < 65536 ∧ 1023 < 2 ^ 32 ∧ (3 % 4 ≠ 0 ∨ 16380 < 3)) ∧
    (Accepted (addrd id).hub 0 requests13 ∧ (addrd id).hub.addressed = true ∧ requests13.dest = (addrd id).hub.addr ∧
      requests13.kind = 1 ∧ requests13.src = 0 ∧ List.length requests13.body = 16 ∧ fieldAt requests13.body 2 1 = 1 ∧ fieldAt
      requests13.body 8 8 = 2 ^ 62 + 65532 * 2 ^ 32 + 1023 ∧ 65532 < 65536 ∧ 1023 < 2 ^ 32 ∧ (65532 % 4 ≠ 0 ∨ 16380 < 65532)) ∧
    (Accepted (addrd id).hub 0 (svcPk 1 7 []) ∧ (addrd id).hub.addressed = true ∧ (svcPk 1 7 []).dest = (addrd id).hub.addr ∧
      (svcPk 1 7 []).kind = 1 ∧ ((svcPk 1 7 []).src ≠ 0 ∨ fieldAt (svcPk 1 7 []).body 2 1 = 0 ∨ 128 < fieldAt (svcPk 1 7
      []).body 2 1 ∨ List.length (svcPk 1 7 []).body ≠ 8 + 8 * fieldAt (svcPk 1 7 []).body 2 1)) ∧
    ((noFw up).hub.serves = false) ∧
    ((noFw up).hub.serves = false) ∧
    ((noFw up).hub.serves = false ∧ (noFw up).hub.overlap = false) ∧
    ((gapOf id).hub.serves = false ∧ (gapOf id).hub.overlap = true ∧ (gapOf id).hub.mgmt.running = none) ∧
    (requests14.hub.serves = false ∧ requests14.hub.overlap = true ∧ requests14.hub.mgmt.running = some (request 257
      Route.hspi, { status := St.busy, retry := 5, failDie := 255, payload := [] }) ∧ (request 257 Route.hspi).route =
      Route.hspi ∧ (¬(ReqHeader.idem (request 257 Route.hspi).hdr = false ∧
      { status := St.busy, retry := 5, failDie := 255, payload := [] : Reply }.status ≠ St.busy ∧
      { status := St.busy, retry := 5, failDie := 255, payload := [] : Reply }.status ≠ St.duplicateTag)) ∧
      ({ status := St.busy, retry := 5, failDie := 255, payload := [] : Reply }.status ≠ St.ok ∨ (request 257
      Route.hspi).hdr.opcode ∉ [259, 262, 3073])) ∧
    (requests15.hub.mgmt.running = some (request 257 Route.hspi, { status := 0, retry := 0, failDie := 255, payload := [] }) ∧
      requests15.hub.writing (request 257 Route.hspi) = false) ∧
    ((st up).hub.tag.writes = [] ∧ ((st up).hub.tag.ring = [] ∨ (st up).hub.tag.busy ≠ none) ∧ (st up).hub.serves = true ∧ (∀ y
      ∈ (st up).hub.mgmt.queue, y.raw = false) ∧ (st up).hub.mgmt.running = none ∧ List.filter (fun y => decide ((st
      up).hub.clk.elapsed < y.at' + ReqHeader.life y.hdr)) (st up).hub.mgmt.queue = []) ∧
    (firstRequest [request 3075 Route.hspi] = some (request 3075 Route.hspi)) ∧
    (firstRequest [request 3075 Route.hspi] = some (request 3075 Route.hspi) ∧ request 3075 Route.hspi ∈ [request 3075
      Route.hspi]) ∧
    (firstRequest requests16 = some (request 3075 Route.hspi) ∧ requests17 ∈ requests16) ∧
    (requests18.hub.tag.writes = [] ∧ (requests18.hub.tag.ring = [] ∨ requests18.hub.tag.busy ≠ none) ∧ requests18.hub.serves =
      true ∧ (∀ y ∈ requests18.hub.mgmt.queue, y.raw = false) ∧ requests18.hub.mgmt.running = none ∧ (∀ y ∈
      requests18.hub.mgmt.queue, decide (requests18.hub.clk.elapsed < y.at' + ReqHeader.life y.hdr) = true →
      requests18.hub.waitsDie y = true)) ∧
    (requests19.hub.tag.writes = [] ∧ (requests19.hub.tag.ring = [] ∨ requests19.hub.tag.busy ≠ none) ∧ requests19.hub.serves =
      true ∧ (∀ y ∈ requests19.hub.mgmt.queue, y.raw = false) ∧ requests19.hub.mgmt.running = none ∧ (∀ y ∈
      requests19.hub.mgmt.queue, requests19.hub.waitsDie y = false) ∧ firstRequest (List.filter (fun y => decide
      (requests19.hub.clk.elapsed < y.at' + ReqHeader.life y.hdr)) requests19.hub.mgmt.queue) = some (request 257 Route.hspi)) ∧
    (requests20.hub.tag.writes = [] ∧ (requests20.hub.tag.ring = [] ∨ requests20.hub.tag.busy ≠ none) ∧ requests20.hub.serves =
      true ∧ (∀ y ∈ requests20.hub.mgmt.queue, y.raw = false) ∧ requests20.hub.mgmt.running = none ∧ (∀ y ∈
      requests20.hub.mgmt.queue, requests20.hub.waitsDie y = false) ∧ firstRequest (List.filter (fun y => decide
      (requests20.hub.clk.elapsed < y.at' + ReqHeader.life y.hdr)) requests20.hub.mgmt.queue) = some (request 65281 Route.hspi)
      ∧ cmdInfo (request 65281 Route.hspi).hdr.opcode = none) ∧
    (requests21.hub.tag.writes = [] ∧ (requests21.hub.tag.ring = [] ∨ requests21.hub.tag.busy ≠ none) ∧ requests21.hub.serves =
      true ∧ (∀ y ∈ requests21.hub.mgmt.queue, y.raw = false) ∧ requests21.hub.mgmt.running = none ∧ (∀ y ∈
      requests21.hub.mgmt.queue, requests21.hub.waitsDie y = false) ∧ firstRequest (List.filter (fun y => decide
      (requests21.hub.clk.elapsed < y.at' + ReqHeader.life y.hdr)) requests21.hub.mgmt.queue) = some (request 3075 Route.hspi) ∧
      cmdInfo (request 3075 Route.hspi).hdr.opcode = some (info 3075) ∧ requests21.hub.boot.netboot = true ∧ netCmd (request
      3075 Route.hspi).hdr.opcode = false) ∧
    (requests22.hub.tag.writes = [] ∧ (requests22.hub.tag.ring = [] ∨ requests22.hub.tag.busy ≠ none) ∧ requests22.hub.serves =
      true ∧ (∀ y ∈ requests22.hub.mgmt.queue, y.raw = false) ∧ requests22.hub.mgmt.running = none ∧ (∀ y ∈
      requests22.hub.mgmt.queue, requests22.hub.waitsDie y = false) ∧ firstRequest (List.filter (fun y => decide
      (requests22.hub.clk.elapsed < y.at' + ReqHeader.life y.hdr)) requests22.hub.mgmt.queue) = some requests23 ∧ cmdInfo
      requests23.hdr.opcode = some requests24 ∧ (requests22.hub.boot.netboot = false ∨ netCmd requests23.hdr.opcode = true) ∧
      (16 ≤ requests23.hdr.cls ∨ 120000 < requests23.hdr.lifetime ∨ requests22.hub.badMask requests23.hdr = true)) ∧
    (requests19.hub.tag.writes = [] ∧ (requests19.hub.tag.ring = [] ∨ requests19.hub.tag.busy ≠ none) ∧ requests19.hub.serves =
      true ∧ (∀ y ∈ requests19.hub.mgmt.queue, y.raw = false) ∧ requests19.hub.mgmt.running = none ∧ (∀ y ∈
      requests19.hub.mgmt.queue, requests19.hub.waitsDie y = false) ∧ firstRequest (List.filter (fun y => decide
      (requests19.hub.clk.elapsed < y.at' + ReqHeader.life y.hdr)) requests19.hub.mgmt.queue) = some (request 257 Route.hspi) ∧
      (request 257 Route.hspi).hdr.opcode = 257 ∧ (request 257 Route.hspi).hdr.cls < 16 ∧ (request 257 Route.hspi).hdr.lifetime
      ≤ 120000 ∧ (request 257 Route.hspi).hdr.dieMask = 0 ∧ (request 257 Route.hspi).payload = []) ∧
    ((st up).hub.tag.writes = [] ∧ ((st up).hub.tag.ring = [] ∨ (st up).hub.tag.busy ≠ none) ∧ (st up).hub.serves = true ∧ (st
      up).hub.mgmt.running = none ∧ (st up).hub.mgmt.waiting = []) ∧
    (requests25.hub.tag.writes = [] ∧ (requests25.hub.tag.ring = [] ∨ requests25.hub.tag.busy ≠ none) ∧ requests25.hub.serves =
      true ∧ requests25.hub.mgmt.running = some (request 257 Route.hspi,
      { status := St.busy, retry := 5, failDie := 255, payload := [] }) ∧ (request 257 Route.hspi).route = Route.hspi ∧
      (¬(ReqHeader.idem (request 257 Route.hspi).hdr = false ∧
      { status := St.busy, retry := 5, failDie := 255, payload := [] : Reply }.status ≠ St.busy ∧
      { status := St.busy, retry := 5, failDie := 255, payload := [] : Reply }.status ≠ St.duplicateTag)) ∧
      ({ status := St.busy, retry := 5, failDie := 255, payload := [] : Reply }.status ≠ St.ok ∨ (request 257
      Route.hspi).hdr.opcode ∉ [259, 262, 3073])) ∧
    (requests26.hub.tag.writes = [] ∧ (requests26.hub.tag.ring = [] ∨ requests26.hub.tag.busy ≠ none) ∧ requests26.hub.serves =
      true ∧ requests26.hub.mgmt.running = some (request 3073 Route.hspi,
      { status := 0, retry := 0, failDie := 255, payload := [] }) ∧ ReqHeader.idem (request 3073 Route.hspi).hdr = false ∧
      { status := 0, retry := 0, failDie := 255, payload := [] : Reply }.status ≠ St.busy ∧
      { status := 0, retry := 0, failDie := 255, payload := [] : Reply }.status ≠ St.duplicateTag) ∧
    (requests27.hub.tag.writes = [] ∧ (requests27.hub.tag.ring = [] ∨ requests27.hub.tag.busy ≠ none) ∧ requests27.hub.serves =
      true ∧ requests27.hub.mgmt.running = none ∧ requests27.hub.mgmt.waiting = (request 3586 Route.hspi,
      { status := 0, retry := 0, failDie := 255, payload := [] }) :: requests28 ∧ (∀ y ∈ requests28, y.1.order ≠ (request 3586
      Route.hspi).order) ∧ (request 3586 Route.hspi).route = Route.hspi) ∧
    (requests29.hub.serves = true ∧ requests29.hub.tag.busy ≠ none ∧ requests29.hub.tag.ring = [] ∧ (∀ y ∈
      requests29.hub.mgmt.running.toList ++ requests29.hub.mgmt.waiting, requests29.hub.writing y.1 = true)) ∧
    (requests30.hub.serves = true ∧ (∀ y ∈ requests30.hub.mgmt.queue, y.raw = false)) ∧
    (requests31.hub.serves = true ∧ (∀ y ∈ requests31.hub.mgmt.queue, y.raw = false) ∧ requests31.hub.mgmt.queue = [requests32]
      ∧ requests32.at' + ReqHeader.life requests32.hdr ≤ requests31.hub.clk.elapsed ∧ ReqHeader.idem requests32.hdr = false) := by
  and_intros <;> first
    | decide +kernel
    | (unfold Shaped; decide +kernel)
    | (unfold Accepted; decide +kernel)
    | (unfold Fresh; decide +kernel)

/-- Obligations.ScheduledActions. -/
theorem witness_ScheduledActions :
    ((Instant.bad { sec := 0, ns := 1000000000, frac := 0 } = true ∨ (st up).hub.badInner (ihdr 769 148) afeBody = true)) ∧
    (Instant.bad scheduledActions2 = false ∧ (st up).hub.badInner (ihdr 769 148) afeBody = false ∧ Instant.fu scheduledActions2
      < (st up).hub.tm.now + 1024000000 ∧ false = false) ∧
    (Instant.bad soon = false ∧ (st die0gone).hub.badInner (ihdr 769 148) afeBody = false ∧ ((st die0gone).hub.tm.now +
      1024000000 ≤ Instant.fu soon ∨ false = true) ∧ ((st die0gone).hub.actionCheck
      { id := (st die0gone).hub.mgmt.nextAction, t := Instant.fu soon, lateOk := false, hdr := ihdr 769 148, payload := afeBody, accepted := (st die0gone).hub.tm.now, order := (st die0gone).hub.mgmt.accepts, committed := false, armed := false, held := false, own := Instant.fu soon, unlocked := false }).status
      ≠ St.ok) ∧
    (Instant.bad soon = false ∧ scheduledActions3.hub.badInner (ihdr 769 148) afeBody = false ∧ (scheduledActions3.hub.tm.now +
      1024000000 ≤ Instant.fu soon ∨ false = true) ∧ (scheduledActions3.hub.actionCheck
      { id := scheduledActions3.hub.mgmt.nextAction, t := Instant.fu soon, lateOk := false, hdr := ihdr 769 148, payload := afeBody, accepted := scheduledActions3.hub.tm.now, order := scheduledActions3.hub.mgmt.accepts, committed := false, armed := false, held := false, own := Instant.fu soon, unlocked := false }).status
      = St.ok ∧ 256 ≤ scheduledActions3.hub.mgmt.actions.length) ∧
    (Instant.bad soon = false ∧ (st up).hub.badInner (ihdr 769 148) afeBody = false ∧ ((st up).hub.tm.now + 1024000000 ≤
      Instant.fu soon ∨ false = true) ∧ ((st up).hub.actionCheck
      { id := (st up).hub.mgmt.nextAction, t := Instant.fu soon, lateOk := false, hdr := ihdr 769 148, payload := afeBody, accepted := (st up).hub.tm.now, order := (st up).hub.mgmt.accepts, committed := false, armed := false, held := false, own := Instant.fu soon, unlocked := false }).status
      = St.ok ∧ (st up).hub.mgmt.actions.length < 256) ∧
    ((st up).hub.findAction 1 = none) ∧
    (scheduledActions4.hub.findAction 1 = some scheduledActions5 ∧ scheduledActions5.t < scheduledActions4.hub.tm.now +
      512000000) ∧
    (scheduledActions6.hub.findAction 1 = some scheduledActions7 ∧ scheduledActions6.hub.tm.now + 512000000 ≤
      scheduledActions7.t) ∧
    ((∀ y ∈ (st up).hub.mgmt.actions, BitVec.toNat y.id ≤ BitVec.toNat (0 : Word))) ∧
    (scheduledActions6.hub.mgmt.actions = [scheduledActions7] ∧ BitVec.toNat (0 : Word) < BitVec.toNat scheduledActions7.id) ∧
    (scheduledActions8.hub.findAction 1 = some scheduledActions9 ∧ (scheduledActions9.committed = true ∨
      scheduledActions9.onPlane = true ∨ scheduledActions8.hub.manages = false ∨ scheduledActions8.hub.tm.now + 153600000000 <
      scheduledActions9.t)) ∧
    (scheduledActions10.hub.findAction 1 = some scheduledActions11 ∧ scheduledActions11.committed = false ∧
      scheduledActions11.onPlane = false ∧ scheduledActions10.hub.manages = true ∧ scheduledActions11.t ≤
      scheduledActions10.hub.tm.now + 153600000000 ∧ (scheduledActions10.hub.actionCheck scheduledActions11).status = St.ok) ∧
    (scheduledActions12.hub.findAction 1 = some scheduledActions13 ∧ scheduledActions13.committed = false ∧
      scheduledActions13.onPlane = false ∧ scheduledActions12.hub.manages = true ∧ scheduledActions13.t ≤
      scheduledActions12.hub.tm.now + 153600000000 ∧ (scheduledActions12.hub.actionCheck scheduledActions13).status ≠ St.ok) ∧
    (scheduledActions14.hub.findAction 1 = some scheduledActions15 ∧ (scheduledActions15.committed = false ∨
      scheduledActions15.armed = true ∨ scheduledActions14.hub.tm.now + 512000000 < scheduledActions15.t)) ∧
    (scheduledActions16.hub.findAction 1 = some scheduledActions17 ∧ scheduledActions17.committed = true ∧
      scheduledActions17.armed = false ∧ scheduledActions17.t ≤ scheduledActions16.hub.tm.now + 512000000) ∧
    (scheduledActions18.hub.findAction 1 = some scheduledActions19 ∧ scheduledActions19.held = true ∧
      scheduledActions18.hub.tag.writes = [] ∧ (scheduledActions18.hub.tag.ring = [] ∨ scheduledActions18.hub.tag.busy ≠ none)) ∧
    (scheduledActions20.hub.findAction 1 = some scheduledActions21 ∧ scheduledActions21.held = false ∧
      (¬(scheduledActions21.onPlane = true ∧ scheduledActions20.hub.manages = true ∧ scheduledActions20.hub.flt.drill = none ∨
      scheduledActions21.onPlane = false ∧ scheduledActions21.committed = true) ∨ scheduledActions20.hub.tm.now <
      scheduledActions21.t ∨ scheduledActions20.hub.waitsFor scheduledActions21 = true)) ∧
    (scheduledActions22.hub.findAction 1 = some (act 769 [] now true) ∧ (act 769 [] now true).held = false ∧ ((act 769 [] now
      true).onPlane = true ∧ scheduledActions22.hub.manages = true ∧ scheduledActions22.hub.flt.drill = none ∨ (act 769 [] now
      true).onPlane = false ∧ (act 769 [] now true).committed = true) ∧ (act 769 [] now true).t ≤ scheduledActions22.hub.tm.now
      ∧ scheduledActions22.hub.waitsFor (act 769 [] now true) = false ∧ (if (act 769 [] now true).committed = true then
      (scheduledActions22.hub.thawed.actionRun (act 769 [] now true)).frozenAs scheduledActions22.hub else
      scheduledActions22.hub.actionRun (act 769 [] now true)).mgmt.reply.status ≠ St.ok) ∧
    (scheduledActions23.hub.findAction 1 = some scheduledActions24 ∧ scheduledActions24.held = false ∧
      (scheduledActions24.onPlane = true ∧ scheduledActions23.hub.manages = true ∧ scheduledActions23.hub.flt.drill = none ∨
      scheduledActions24.onPlane = false ∧ scheduledActions24.committed = true) ∧ scheduledActions24.t ≤
      scheduledActions23.hub.tm.now ∧ scheduledActions23.hub.waitsFor scheduledActions24 = false ∧ (if
      scheduledActions24.committed = true then (scheduledActions23.hub.thawed.actionRun scheduledActions24).frozenAs
      scheduledActions23.hub else scheduledActions23.hub.actionRun scheduledActions24).mgmt.reply.status = St.ok ∧
      scheduledActions24.cmd = some scheduledActions25 ∧ (∃ c, (∃ w, scheduledActions25 = Instr.chanSet c w) ∨ ∃ w,
      scheduledActions25 = Instr.afeSet c w)) ∧
    (scheduledActions26.hub.findAction 1 = some scheduledActions27 ∧ scheduledActions27.held = false ∧
      (scheduledActions27.onPlane = true ∧ scheduledActions26.hub.manages = true ∧ scheduledActions26.hub.flt.drill = none ∨
      scheduledActions27.onPlane = false ∧ scheduledActions27.committed = true) ∧ scheduledActions27.t ≤
      scheduledActions26.hub.tm.now ∧ scheduledActions26.hub.waitsFor scheduledActions27 = false ∧ (if
      scheduledActions27.committed = true then (scheduledActions26.hub.thawed.actionRun scheduledActions27).frozenAs
      scheduledActions26.hub else scheduledActions26.hub.actionRun scheduledActions27).mgmt.reply.status = St.ok ∧
      scheduledActions27.cmd = some (Instr.logWrite 1600 [7]) ∧ ((∃ b w, Instr.logWrite 1600 [7] = Instr.logWrite b w) ∨ ∃ d,
      Instr.logWrite 1600 [7] = Instr.mcDrill d)) ∧
    (scheduledActions28.hub.findAction 1 = some scheduledActions29 ∧ scheduledActions29.held = false ∧
      (scheduledActions29.onPlane = true ∧ scheduledActions28.hub.manages = true ∧ scheduledActions28.hub.flt.drill = none ∨
      scheduledActions29.onPlane = false ∧ scheduledActions29.committed = true) ∧ scheduledActions29.t ≤
      scheduledActions28.hub.tm.now ∧ scheduledActions28.hub.waitsFor scheduledActions29 = false ∧ (if
      scheduledActions29.committed = true then (scheduledActions28.hub.thawed.actionRun scheduledActions29).frozenAs
      scheduledActions28.hub else scheduledActions28.hub.actionRun scheduledActions29).mgmt.reply.status = St.ok ∧
      scheduledActions29.cmd = some (Instr.mcDrill []) ∧ ((∃ b w, Instr.mcDrill [] = Instr.logWrite b w) ∨ ∃ d, Instr.mcDrill []
      = Instr.mcDrill d)) ∧
    (scheduledActions30.hub.findAction 1 = some scheduledActions31 ∧ scheduledActions31.held = false ∧
      (scheduledActions31.onPlane = true ∧ scheduledActions30.hub.manages = true ∧ scheduledActions30.hub.flt.drill = none ∨
      scheduledActions31.onPlane = false ∧ scheduledActions31.committed = true) ∧ scheduledActions31.t ≤
      scheduledActions30.hub.tm.now ∧ scheduledActions30.hub.waitsFor scheduledActions31 = false ∧ (if
      scheduledActions31.committed = true then (scheduledActions30.hub.thawed.actionRun scheduledActions31).frozenAs
      scheduledActions30.hub else scheduledActions30.hub.actionRun scheduledActions31).mgmt.reply.status = St.ok ∧
      scheduledActions31.cmd = some scheduledActions32 ∧ (¬∃ c, (∃ w, scheduledActions32 = Instr.chanSet c w) ∨ ∃ w,
      scheduledActions32 = Instr.afeSet c w) ∧ (¬((∃ b w, scheduledActions32 = Instr.logWrite b w) ∨ ∃ d, scheduledActions32 =
      Instr.mcDrill d))) := by
  and_intros <;> first
    | decide +kernel
    | exact ⟨[0], .inr ⟨_, rfl⟩⟩
    | exact .inl ⟨_, _, rfl⟩
    | exact .inr ⟨_, rfl⟩
    | (rintro ⟨_, ⟨_, h⟩ | ⟨_, h⟩⟩ <;> simp [scheduledActions32] at h)
    | (rintro (⟨_, _, h⟩ | ⟨_, h⟩) <;> simp [scheduledActions32] at h)

/-- Obligations.EmptyQueueIsOneReferenceCycle. -/
theorem witness_EmptyQueueIsOneReferenceCycle :
    (onB.onOsc = true ∧ (∀ (u : ℕ), onB.flt.closing = some u → onB.clk.elapsed + (onB.clk.oscPs + 8122 + Config.oscPeriod
      onB.fresh % 256) / 1000 < u + 10000)) ∧
    (emptyQueueIsOneReferenceCycle1.onOsc = false ∧ (∀ (u : ℕ), emptyQueueIsOneReferenceCycle1.flt.closing = some u →
      emptyQueueIsOneReferenceCycle1.clk.elapsed + 8 < u + 10000) ∧ emptyQueueIsOneReferenceCycle1.clk.run = true) ∧
    ((∀ (u : ℕ), emptyQueueIsOneReferenceCycle2.flt.closing = some u → emptyQueueIsOneReferenceCycle2.clk.elapsed + 8 < u +
      10000) ∧ emptyQueueIsOneReferenceCycle2.clk.run = false) ∧
    ((∀ q ∈ up.ports, q.st ≠ PState.test) ∧ up.onOsc = false ∧ (∀ (u : ℕ), up.flt.closing = some u → up.clk.elapsed + 8 < u +
      10000) ∧ up.clk.run = true) ∧
    (emptyQueueIsOneReferenceCycle3.onOsc = false ∧ (¬∀ (u : ℕ), emptyQueueIsOneReferenceCycle3.flt.closing = some u →
      emptyQueueIsOneReferenceCycle3.clk.elapsed + 8 < u + 10000)) := by
  and_intros <;> decide +kernel

/-- Obligations.ResetMeetsInvariant. -/
theorem witness_ResetMeetsInvariant :
    True := by
  decide +kernel

/-! ## Witnesses that need more than evaluation -/

/-- A k-of-n group of these pins and units. -/
def member (pins k win lat : Nat) (units : List Nat) : Kon := ⟨k, pins, units, win, lat, 0, [], 0, 0⟩

/-- Obligations.TriggerSettings: a group's members at both ends of each range, and members that its rules refuse. -/
theorem witness_TriggerSettings_members :
    let latest := { up with chans := up.chans.map fun (x : Chan) => { x with desc := x.latest } }
    (15 < 16 ∧ 255 < 256 ∧ 1 ≤ 1 ∧ 1 ≤ 1000000 ∧ 4000 ≤ 4000 ∧ 4000 ≤ 10000000 ∧ onlyBits 0 0x007000FF = true ∧
      (∀ c ∈ ([] : List Nat), c < up.nChans ∧ up.dieDown (chDie c) = false) ∧
      8 ≤ ([] : List Nat).length + (bitsOf 8 255).length ∧ 8 ≠ 0 ∧ latest.konMembersOk (member 255 8 1 4000 []) = true) ∧
    (0 < 16 ∧ 3 < 256 ∧ 1 ≤ 1000000 ∧ 1000000 ≤ 1000000 ∧ 4000 ≤ 10000000 ∧ 10000000 ≤ 10000000 ∧
      onlyBits 0 0x007000FF = true ∧ (∀ c ∈ [255], c < up.nChans ∧ up.dieDown (chDie c) = false) ∧
      1 ≤ [255].length + (bitsOf 8 3).length ∧ 1 ≠ 0 ∧ latest.konMembersOk (member 3 1 1000000 10000000 [255]) = true) ∧
    (16 ≤ 15 ∨ 256 ≤ 255 ∨ 0 < 1 ∨ 1000000 < 0 ∨ 4000 < 4000 ∨ 10000000 < 4000 ∨ onlyBits 0 0x007000FF = false ∨
      (∃ c ∈ ([] : List Nat), up.nChans ≤ c) ∨ ([] : List Nat).length + (bitsOf 8 255).length < 8 ∨
      latest.konMembersOk (member 255 8 0 4000 []) = false) := by decide +kernel

theorem noCapture (n : Nat) (c : Capture) : (st up).hub.cap n ≠ some c := by
  have h : ∀ o ∈ (st up).hub.caps, o = none := by decide +kernel
  intro hc
  unfold Hub.cap at hc
  rw [List.getD_eq_getElem?_getD] at hc
  cases ho : (st up).hub.caps[n]? with
  | none => simp [ho] at hc
  | some o => simp [ho, h o (List.mem_of_getElem? ho)] at hc

/-- Obligations.CaptureStops: no capture waits for a reservation. -/
theorem witness_CaptureStops_idle : ∀ n c, (st up).hub.cap n = some c → ∀ x ∈ c.dies, x.wait = false :=
  fun n c h => absurd h (noCapture n c)

/-- A capture that waits on die 0, with room for its coaches. -/
def waits : CapDie := ⟨0, 0, true, 0, 0⟩
def waitingCap : Capture := { cap0 with dies := [waits] }

/-- Obligations.CaptureStops: a capture that waits alone, and room for what it needs. -/
theorem witness_CaptureStops_waits : let s := capSt waitingCap
    (31 < 32 ∧ s.hub.caps[31]? = some (some waitingCap) ∧ waitingCap.dies = [waits] ∧ waits.wait = true ∧ waits.die < s.hub.nDies) ∧
    (∀ m < 32, ∀ k, m ≠ 31 → s.hub.cap m = some k → ∀ y ∈ k.dies, y.wait = false) ∧
    s.hub.coachUsed 0 + ((CapParams.on waitingCap.params 0).map fun ch =>
      CapParams.coachKib waitingCap.params (s.hub.ch ch).desc waits.step).sum ≤ (s.hub.die 0).store.coachKib ∧
    ∀ i, ∀ y ∈ (s.hub.die 0).store.coaches, y.st = .free ∨ y.seq % 65536 ≠ ((s.hub.die 0).store.nextCoach + i) % 65536 := by
  have h0 : ((capSt waitingCap).hub.die 0).store.coaches = [] := by decide +kernel
  refine ⟨by decide +kernel, ?_, by decide +kernel, by simp [h0]⟩
  have h : ∀ m < 32, m ≠ 31 → ((capSt waitingCap).hub.cap m).isNone = true := by decide +kernel
  exact fun m hm k hne hk => absurd hk (ne_of_isNone (h m hm hne))

/-- Obligations.CaptureStops: an open capture whose coaches have different numbers. -/
theorem witness_CaptureStops_open : let c : Capture := { cap0 with train := some train0 }
    capFill.hub.caps[31]? = some (some c) ∧ (∀ d ∈ c.dieList, capFill.hub.dieDown d = false) ∧ c.train = some train0 ∧ 1 ≠ 0 ∧
    train0.open' ≠ [] ∧ train0.open'.Nodup ∧ (∀ i ∈ train0.open', (capFill.hub.fillingCoach 31 i).isSome = true) ∧
    ∀ d, (List.map Coach.seq (capFill.hub.die d).store.coaches).Nodup := by
  refine ⟨by decide +kernel, by decide +kernel, by decide +kernel, by decide +kernel, by decide +kernel, by decide +kernel,
    by decide +kernel, fun d => ?_⟩
  by_cases h : d < 2
  · exact (by decide +kernel : ∀ d < 2, (List.map Coach.seq (capFill.hub.die d).store.coaches).Nodup) d h
  · have hl : capFill.hub.dies.length = 2 := by decide +kernel
    rw [Hub.die, List.getD_eq_getElem?_getD, List.getElem?_eq_none (by omega)]
    exact List.nodup_nil

/-- Obligations.PowerAndShedding: telemetry that waits while requests of class 3 wait. -/
theorem witness_PowerAndShedding_telemetry : shedding.hub.manages = true ∧ shedding.hub.telemWaits = true := by
  refine ⟨by decide +kernel, ?_⟩
  have h1 : shedding.hub.sheds3 = true := by decide +kernel
  have h2 : shedding.hub.pwr.refreshed = some 5000000000 := by decide +kernel
  have h3 : shedding.hub.clk.elapsed = 5000000000 := by decide +kernel
  simp [Hub.telemWaits, h1, h2, h3]

/-- Obligations.EveryStepKeepsInvariant: a hub that meets the invariant, with no command waiting. -/
theorem witness_EveryStepKeepsInvariant : Inv (st up) ∧ step (st up) = .next (st up.idle) := by
  refine ⟨?_, rfl⟩
  unfold Inv Shaped
  decide +kernel

/-- A round trip whose delay is 2^32 units of 1/1,024 ns, less 64 where `k` is 1, whatever the port's trims. -/
def trip (k : Nat) : Nat := Config.turnPs + (125 * (2 ^ 26 - k) - 2 * (Config.asymFacPs 1).toInt).toNat

theorem delayOf_trip (k : Nat) (h : k ≤ 1) : delayOf 1 (trip k) 0 = 2 ^ 32 - 64 * k := by
  have h1 := (Config.asymFacPs 1).toInt_lt
  have h2 := (Config.asymFacPs 1).le_toInt
  have h3 : (((trip k : Nat) : Int) - Config.turnPs) * 1024 + 2048 * ((Config.asymFacPs 1).toInt + (0 : Word).toInt) =
      (2 ^ 32 - 64 * k) * 2000 := by
    have h0 : (0 : Word).toInt = 0 := by decide
    simp only [trip, h0]; omega
  unfold delayOf openRound
  simp only [h3]
  rw [if_pos (by simp)]
  omega

/-- Port 1 while it searches. -/
def seek1 : State := upPort 1 fun q => { q with st := .search }

/-- Obligations.SecondsDelaysAndEdges: delays at either side of 2^32, on a port that is UP and on one that searches. -/
theorem witness_SecondsDelaysAndEdges_delay :
    (1 ≠ 0 ∧ 1 < (pup 1 id).hub.nPorts ∧ (pup 1 id).hub.ports[1]? = some ((pup 1 id).hub.prt 1) ∧
      ((pup 1 id).hub.prt 1).ltRuns = true ∧ 2 ^ 32 ≤ delayOf 1 (trip 0) ((pup 1 id).hub.prt 1).asym) ∧
    (delayOf 1 (trip 1) ((pup 1 id).hub.prt 1).asym < 2 ^ 32 ∧ ((pup 1 id).hub.prt 1).st = .up) ∧
    (1 < seek1.hub.nPorts ∧ seek1.hub.ports[1]? = some (seek1.hub.prt 1) ∧ (seek1.hub.prt 1).ltRuns = true ∧
      delayOf 1 (trip 1) (seek1.hub.prt 1).asym < 2 ^ 32 ∧ (seek1.hub.prt 1).st ≠ .up) := by
  have h0 : (seek1.hub.prt 1).asym = 0 := by decide +kernel
  have h1 : ((pup 1 id).hub.prt 1).asym = 0 := by decide +kernel
  rw [h0, h1, delayOf_trip 0 (by decide), delayOf_trip 1 (by decide)]
  decide +kernel

/-- Obligations.FaultsAndTests: an engine of each kind that is not retired, and the two commands that fail it. -/
theorem witness_FaultsAndTests_engines : ∀ e ∈ [135, 143, 147],
    Shaped (st up).hub ∧ 1 < (st up).hub.nDies ∧ ((st up).hub.die 1).inService = true ∧ e < 148 ∧
    ¬engineUnit 1 (testEngine e).1 (testEngine e).2 ∈ (st up).hub.flt.retired ∧
    Instr.signatureTest 1 [e] ∈ [Instr.signatureTest 1 [e], .localMemoryEccError 1 e] ∧
    Instr.localMemoryEccError 1 e ∈ [Instr.signatureTest 1 [e], .localMemoryEccError 1 e] := by
  unfold Shaped
  decide +kernel

/-- An image whose header holds the hash of its body: unsigned, or with `signature`. -/
def goodImage (signature : Bytes) : Image :=
  { header := be 4 0x5E465700 ++ pad 8 ++ be 4 1 ++ pad 16 ++ hashBytes [0] ++ signature, body := [0], tryBits := 0xFF, confirmed := 0xFF, gen := 0 }

/-- A hub that runs slot 0, with this image in slot 1. -/
def committed (i : Image) : State :=
  st { up with flash := { up.flash with present := true, a := some img0, b := some i }, boot := { up.boot with slot := some 0 } }

theorem goodImage_sound (b : Bytes) : Image.sound (goodImage b) = true := by
  have h0 : Image.len (goodImage b) = 1 := rfl
  have h1 : ((goodImage b).header.drop 32).take 32 = hashBytes ((goodImage b).body.take 1) := rfl
  have h2 : fieldAt (goodImage b).header 0 4 = 0x5E465700 := rfl
  have h5 : (goodImage b).body.length = 1 := rfl
  simp [Image.sound, h0, h1, h2, h5]

/-- Obligations.SystemCommands: an image that commits. -/
theorem witness_SystemCommands_commit : let s := committed (goodImage (pad 64))
    ¬(1 < 1 ∨ s.hub.boot.slot = some 1) ∧ (s.hub.flash.present = true ∨ s.hub.boot.netboot = true) ∧
    (if s.hub.flash.present then s.hub.flash.slot 1 else s.hub.flash.staged) = some (goodImage (pad 64)) ∧
    Image.valid (goodImage (pad 64)) s.hub.fseal.st s.hub.flash.floor = true := by
  refine ⟨by decide +kernel, by decide +kernel, rfl, ?_⟩
  have h3 : Image.signed (goodImage (pad 64)) = false := rfl
  have h4 : (committed (goodImage (pad 64))).hub.fseal.st = 1 := by rfl
  have hg : Image.signedFor (goodImage (pad 64)) 1 = true := by simp [Image.signedFor, h3]
  simp [Image.valid, h4, goodImage_sound, hg]

/-- Obligations.SystemCommands: in a sealed hub, an image whose signature the check of the spec's algorithm, which no state holds,
does not accept. -/
theorem witness_SystemCommands_unsigned (b : Bytes) (no : Config.ecdsaOk (hashBytes ((goodImage b).header.take 64))
      (((goodImage b).header.drop 64).take 64) = false) :
    let h := { (committed (goodImage b)).hub with fseal := { up.fseal with st := 2 } }
    ¬(1 < 1 ∨ h.boot.slot = some 1) ∧ (h.flash.present = true ∨ h.boot.netboot = true) ∧
    (if h.flash.present then h.flash.slot 1 else h.flash.staged) = some (goodImage b) ∧ Image.sound (goodImage b) = true ∧
    Image.signedFor (goodImage b) h.fseal.st = false ∧ h.fseal.st = 2 := by
  refine ⟨by show ¬(1 < 1 ∨ (some 0 : Option Nat) = some 1); decide, .inl rfl, rfl, goodImage_sound b, ?_, rfl⟩
  simp [Image.signedFor, no]

end Sys2Proof.Tests
end

