-- ==== Sys2Proof/Proofs/SystemCommands.lean ====
section
/-! PROOFS. The SYS commands: what each of their meanings does, case by case, and from that Obligations.SystemCommands. -/

namespace Sys2Proof.Machine

/-! ## The arms -/

theorem exec_sysInfo (s : State) : exec .sysInfo s = .next ⟨s.hub.sysInfo, s.pending⟩ := rfl
theorem exec_sysReset (w : Word) (s : State) : exec (.sysReset w) s = .next ⟨s.hub.sysReset w, s.pending⟩ := rfl
theorem exec_sysReqstat (id tag : Nat) (s : State) :
    exec (.sysReqstat id tag) s = .next ⟨s.hub.reqstat id tag, s.pending⟩ := rfl
theorem exec_sysCfgSave (s : State) : exec .sysCfgSave s = .next ⟨s.hub.cfgSave, s.pending⟩ := rfl
theorem exec_sysFwWrite (img off : Nat) (data : Bytes) (s : State) :
    exec (.sysFwWrite img off data) s = .next ⟨s.hub.fwWrite img off data, s.pending⟩ := rfl
theorem exec_sysFwCommit (img : Nat) (s : State) : exec (.sysFwCommit img) s = .next ⟨s.hub.fwCommit img, s.pending⟩ := rfl

/-! ## SYS_RESET -/

theorem Hub.sysReset_wrong (h : Hub) {w : Word} (wrong : w ≠ 0xA5A55A5A) : h.sysReset w = h.refuse St.badArg := if_pos wrong

theorem Hub.sysReset_right (h : Hub) :
    h.sysReset 0xA5A55A5A = ({ h with boot := { h.boot with resetAt := some (h.clk.elapsed + 10000000) } }).ok [] :=
  if_neg (not_not_intro rfl)

/-! ## SYS_REQSTAT -/

/-- A request is the one that SYS_REQSTAT names. -/
def Request.named (id tag : Nat) (x : Request) : Bool := x.hdr.reqId == id && x.hdr.tag == tag

/-- The cache entry that SYS_REQSTAT finds among those that have not expired. -/
def Hub.cached (h : Hub) (id tag : Nat) : Option CacheEntry :=
  h.cacheExpiry.mgmt.cache.find? fun (e : CacheEntry) => e.reqId == id && e.tag == tag

theorem Hub.mem_cacheExpiry (h : Hub) (e : CacheEntry) :
    e ∈ h.cacheExpiry.mgmt.cache ↔ e ∈ h.mgmt.cache ∧ h.clk.elapsed < e.at' + 120000000000 := by
  simp [Hub.cacheExpiry]

theorem Hub.cached_eq_none (h : Hub) {id tag : Nat}
    (gone : ∀ e ∈ h.mgmt.cache, e.reqId = id → e.tag = tag → e.at' + 120000000000 ≤ h.clk.elapsed) : h.cached id tag = none := by
  rw [Hub.cached, List.find?_eq_none]
  intro e mem named
  obtain ⟨inCache, live⟩ := (h.mem_cacheExpiry e).1 mem
  obtain ⟨hid, htag⟩ : e.reqId = id ∧ e.tag = tag := by simpa using named
  exact absurd (gone e inCache hid htag) (Nat.not_le.2 live)

theorem Hub.cached_eq_some (h : Hub) {e : CacheEntry} (mem : e ∈ h.mgmt.cache) (live : h.clk.elapsed < e.at' + 120000000000)
    (only : ∀ k ∈ h.mgmt.cache, k.reqId = e.reqId → k.tag = e.tag → k = e) : h.cached e.reqId e.tag = some e := by
  obtain ⟨k, found⟩ : ∃ k, h.cached e.reqId e.tag = some k :=
    Option.isSome_iff_exists.1 (List.find?_isSome.2 ⟨e, (h.mem_cacheExpiry e).2 ⟨mem, live⟩, by simp⟩)
  obtain ⟨hid, htag⟩ : k.reqId = e.reqId ∧ k.tag = e.tag := by simpa using List.find?_some found
  have inCache := ((h.mem_cacheExpiry k).1 (List.mem_of_find?_eq_some found)).1
  rw [found, only k inCache hid htag]

/-- A request is looked for among those that wait, then among those that have started, then in the cache (R365; log entry 106). -/
theorem Hub.requestState_eq (h : Hub) (id tag : Nat) : h.requestState id tag =
    if h.mgmt.queue.any (Request.named id tag) then some (0, 0)
    else if h.mgmt.started.any (Request.named id tag) then some (1, 0)
    else (h.cached id tag).map fun e => (if e.status = St.abandoned then 3 else 2, e.status) := by
  have inCache : (h.cached id tag).map (fun e => (if e.status = St.abandoned then 3 else 2, e.status)) =
      match h.cached id tag with
      | some e => some (if e.status = St.abandoned then 3 else 2, e.status)
      | none => none := by
    cases h.cached id tag <;> rfl
  rw [inCache]
  rfl

theorem Hub.reqstat_queued (h : Hub) {id tag : Nat} (waits : h.mgmt.queue.any (Request.named id tag) = true) :
    h.reqstat id tag = h.ok [0, 0, 0, 0] := by
  rw [Hub.reqstat, h.requestState_eq, if_pos waits]
  rfl

theorem Hub.reqstat_started (h : Hub) {id tag : Nat} (idle : h.mgmt.queue.any (Request.named id tag) = false)
    (runs : h.mgmt.started.any (Request.named id tag) = true) : h.reqstat id tag = h.ok [1, 0, 0, 0] := by
  rw [Hub.reqstat, h.requestState_eq, if_neg (ne_true_of_eq_false idle), if_pos runs]
  rfl

/-- A request that neither waits nor has started is looked for in the cache alone. -/
theorem Hub.requestState_ended (h : Hub) {id tag : Nat} (idle : h.mgmt.queue.any (Request.named id tag) = false)
    (ended : h.mgmt.started.any (Request.named id tag) = false) :
    h.requestState id tag = (h.cached id tag).map fun e => (if e.status = St.abandoned then 3 else 2, e.status) := by
  rw [h.requestState_eq, if_neg (ne_true_of_eq_false idle), if_neg (ne_true_of_eq_false ended)]

theorem Hub.reqstat_unknown (h : Hub) {id tag : Nat} (idle : h.mgmt.queue.any (Request.named id tag) = false)
    (ended : h.mgmt.started.any (Request.named id tag) = false)
    (gone : ∀ e ∈ h.mgmt.cache, e.reqId = id → e.tag = tag → e.at' + 120000000000 ≤ h.clk.elapsed) :
    h.reqstat id tag = h.refuse St.notFound := by
  rw [Hub.reqstat, h.requestState_ended idle ended, h.cached_eq_none gone]
  rfl

theorem Hub.reqstat_cached (h : Hub) {e : CacheEntry} (idle : h.mgmt.queue.any (Request.named e.reqId e.tag) = false)
    (ended : h.mgmt.started.any (Request.named e.reqId e.tag) = false) (mem : e ∈ h.mgmt.cache)
    (live : h.clk.elapsed < e.at' + 120000000000) (only : ∀ k ∈ h.mgmt.cache, k.reqId = e.reqId → k.tag = e.tag → k = e) :
    h.reqstat e.reqId e.tag = h.ok (be 1 (if e.status = St.abandoned then 3 else 2) ++ [0] ++ be 2 e.status) := by
  rw [Hub.reqstat, h.requestState_ended idle ended, h.cached_eq_some mem live only]
  rfl

/-! ## SYS_CFG_SAVE -/

theorem Hub.cfgSave_refuses (h : Hub) (no : h.flash.present = false ∨ h.flash.topGen = 0xFFFFFFFF) :
    h.cfgSave = h.refuse St.fault := if_pos (by simpa using no)

/-- The flash after a save: three copies of the next generation, each marked as it verifies. -/
def Hub.savedFlash (h : Hub) : Flash :=
  { h.flash with
    verified := h.flash.verified + 1
    copies := (List.range 3).map fun i => some { h.cfgNow (BitVec.ofNat 32 (h.flash.topGen + 1)) with
      crcOk := Config.flashVerify h.flash.verified i } }

theorem Hub.cfgSave_eq (h : Hub) (here : h.flash.present = true) (room : h.flash.topGen < 0xFFFFFFFF) :
    h.cfgSave = if (List.range 3).all (Config.flashVerify h.flash.verified) then
        (({ h with flash := h.savedFlash }).setBoot fun b => { b with cfgSplit := false }).ok (be 4 (h.flash.topGen + 1))
      else ({ h with flash := h.savedFlash }).refuse St.fault := by
  have last : (BitVec.ofNat 32 (h.flash.topGen + 1)).toNat = h.flash.topGen + 1 :=
    Nat.mod_eq_of_lt (by omega)
  have saves : ¬((!h.flash.present) = true ∨ h.flash.topGen = 0xFFFFFFFF) := by simp [here, room.ne]
  conv_rhs => rw [← last]
  exact if_neg saves

theorem Hub.cfgSave_reply (h : Hub) (here : h.flash.present = true) (room : h.flash.topGen < 0xFFFFFFFF) :
    h.cfgSave.mgmt.reply = if Config.flashVerify h.flash.verified 0 && Config.flashVerify h.flash.verified 1 &&
        Config.flashVerify h.flash.verified 2 then ⟨St.ok, 0, 255, be 4 (h.flash.topGen + 1)⟩ else ⟨St.fault, 0, 255, []⟩ := by
  have all : (List.range 3).all (Config.flashVerify h.flash.verified) = (Config.flashVerify h.flash.verified 0 &&
      Config.flashVerify h.flash.verified 1 && Config.flashVerify h.flash.verified 2) := by
    simp [List.range_succ, Bool.and_assoc]
  rw [h.cfgSave_eq here room, all]
  split <;> rfl

/-- Whatever verifies, a save changes the flash, and neither the channels nor array time. -/
theorem Hub.cfgSave_frame (h : Hub) (here : h.flash.present = true) (room : h.flash.topGen < 0xFFFFFFFF) :
    h.cfgSave.flash = h.savedFlash ∧ h.cfgSave.chans = h.chans ∧ h.cfgSave.tm = h.tm := by
  rw [h.cfgSave_eq here room]
  split <;> exact ⟨rfl, rfl, rfl⟩

theorem Hub.savedFlash_copies_length (h : Hub) : h.savedFlash.copies.length = 3 := rfl

theorem Hub.savedFlash_copy (h : Hub) {i : Nat} {c : Option CfgCopy} (held : h.savedFlash.copies[i]? = some c) :
    c = some { h.cfgNow (BitVec.ofNat 32 (h.flash.topGen + 1)) with crcOk := Config.flashVerify h.flash.verified i } := by
  obtain ⟨inside, rfl⟩ := List.getElem?_eq_some_iff.1 held
  simp [Hub.savedFlash]

/-! ## Image slots and their bytes -/

theorem Flash.slot_put_same (f : Flash) (n : Nat) (i : Image) : (f.put n i).slot n = some i := by
  by_cases a : n = 0 <;> simp [Flash.put, Flash.slot, a]

theorem Flash.slot_put_other (f : Flash) {n : Nat} (i : Image) (two : n ≤ 1) : (f.put n i).slot (1 - n) = f.slot (1 - n) := by
  obtain rfl | rfl := Nat.le_one_iff_eq_zero_or_eq_one.1 two <;> rfl

theorem overlay_reads_back {b : Bytes} {off : Nat} (data : Bytes) (inside : off ≤ b.length) :
    ((overlay b off data).drop off).take data.length = data := by
  rw [overlay, List.append_assoc, List.drop_left' (List.length_take_of_le inside), List.take_left]

theorem le_length_fillTo (img base n : Nat) (b : Bytes) : n ≤ (fillTo img base n b).length := by
  simp only [fillTo, List.length_append, List.length_map, List.length_range]
  omega

theorem Image.write_header_reads_back (i : Image) (img : Nat) {off : Nat} {data : Bytes} (fits : off + data.length ≤ 128)
    (nonempty : 0 < data.length) (inside : off ≤ i.header.length) :
    ((Image.write i img off data).header.drop off).take data.length = data := by
  rw [Image.write, if_pos (by omega)]
  exact overlay_reads_back data inside

theorem Image.write_body_keeps_header (i : Image) (img : Nat) {off : Nat} (data : Bytes) (body : 512 ≤ off) :
    (Image.write i img off data).header = i.header := by
  rw [Image.write, if_neg (by omega)]

theorem Image.write_body_reads_back (i : Image) (img : Nat) {off : Nat} (data : Bytes) (body : 512 ≤ off) :
    ((Image.write i img off data).body.drop (off - 512)).take data.length = data := by
  rw [Image.write, if_neg (by omega)]
  exact overlay_reads_back data (by have := le_length_fillTo img 512 (off - 512 + data.length) i.body; omega)

/-! ## SYS_FW_WRITE -/

/-- No image is written into slot `img`: there is no such slot, or the running image is in it (R473). -/
def Hub.slotBarred (h : Hub) (img : Nat) : Prop := 1 < img ∨ h.boot.slot = some img

/-- Bytes at an offset of a slot lie in its header or in its body (Table 18-3; log entry 98). -/
def inImage (off n : Nat) : Prop := off + n ≤ 128 ∨ (512 ≤ off ∧ off + n ≤ 2097152)

theorem Hub.slot_le_one (h : Hub) {img : Nat} (free : ¬h.slotBarred img) : img ≤ 1 := Nat.not_lt.1 fun high => free (.inl high)

theorem image_size {img : Nat} (two : img ≤ 1) : (FlashPart.image img).size = 2097152 := by
  obtain rfl | rfl := Nat.le_one_iff_eq_zero_or_eq_one.1 two <;> rfl

/-- What SYS_FW_WRITE refuses, with the size of the image's region as a number. -/
theorem Hub.fwWrite_check (h : Hub) (img off : Nat) (data : Bytes) :
    (1 < img ∨ h.boot.slot = some img ∨ 4072 < data.length ∨
      (!(decide (off + data.length ≤ 128) || (decide (512 ≤ off) && decide (off + data.length ≤ (FlashPart.image img).size)))) = true) ↔
    (h.slotBarred img ∨ 4072 < data.length ∨ ¬inImage off data.length) := by
  rcases Nat.lt_or_ge 1 img with high | two
  · simp [Hub.slotBarred, high]
  · simp [Hub.slotBarred, inImage, image_size two, or_assoc, imp_iff_not_or]

theorem Hub.fwWrite_refuses (h : Hub) {img off : Nat} {data : Bytes}
    (bad : h.slotBarred img ∨ 4072 < data.length ∨ ¬inImage off data.length) : h.fwWrite img off data = h.refuse St.badArg :=
  if_pos ((h.fwWrite_check img off data).2 bad)

section Writes
variable (h : Hub) {img off : Nat} {data : Bytes} (free : ¬h.slotBarred img) (short : data.length ≤ 4072)
  (fits : inImage off data.length)
include free short fits

/-- A write that is not refused goes to the slot, in network boot without a flash to memory, and without both fails. -/
theorem Hub.fwWrite_eq : h.fwWrite img off data =
    if h.flash.present then ({ h with flash := h.flash.put img (Image.write (imageOr img (h.flash.slot img)) img off data) }).ok []
    else if h.boot.netboot then
      ({ h with flash := { h.flash with staged := some (Image.write (imageOr 2 h.flash.staged) 2 off data) } }).ok []
    else h.refuse St.fault :=
  if_neg fun bad => ((h.fwWrite_check img off data).1 bad).elim free fun bad => bad.elim (Nat.not_lt.2 short) fun out => out fits

theorem Hub.fwWrite_toSlot (here : h.flash.present = true) : h.fwWrite img off data =
    ({ h with flash := h.flash.put img (Image.write (imageOr img (h.flash.slot img)) img off data) }).ok [] :=
  (h.fwWrite_eq free short fits).trans (if_pos here)

theorem Hub.fwWrite_toMemory (gone : h.flash.present = false) (net : h.boot.netboot = true) : h.fwWrite img off data =
    ({ h with flash := { h.flash with staged := some (Image.write (imageOr 2 h.flash.staged) 2 off data) } }).ok [] := by
  simp [h.fwWrite_eq free short fits, gone, net]

theorem Hub.fwWrite_nowhere (gone : h.flash.present = false) (image : h.boot.netboot = false) :
    h.fwWrite img off data = h.refuse St.fault := by
  simp [h.fwWrite_eq free short fits, gone, image]

end Writes

/-! ## SYS_FW_COMMIT -/

theorem Image.valid_parts {i : Image} {st floor : Nat} (valid : Image.valid i st floor = true) :
    Image.sound i = true ∧ Image.signedFor i st = true := by
  rw [Image.valid, Bool.and_eq_true, Bool.and_eq_true] at valid
  exact valid.1

theorem Hub.commitStatus_valid (h : Hub) {i : Image} (valid : Image.valid i h.fseal.st h.flash.floor = true) :
    h.commitStatus i = St.ok := by
  obtain ⟨sound, signed⟩ := Image.valid_parts valid
  simp [Hub.commitStatus, sound, signed, valid]

theorem Hub.commitStatus_sealed (h : Hub) {i : Image} (sound : Image.sound i = true)
    (unsigned : Image.signedFor i h.fseal.st = false) (shut : h.fseal.st = 2) : h.commitStatus i = St.isSealed := by
  rw [shut] at unsigned
  simp [Hub.commitStatus, sound, unsigned, shut]

theorem Hub.commitStatus_bad (h : Hub) {i : Image} (bad : Image.sound i = false ∨
    (Image.signedFor i h.fseal.st = false ∧ h.fseal.st ≠ 2) ∨
    (Image.signedFor i h.fseal.st = true ∧ Image.valid i h.fseal.st h.flash.floor = false)) : h.commitStatus i = St.badArg := by
  obtain unsound | ⟨unsigned, notSealed⟩ | ⟨signed, invalid⟩ := bad
  · simp [Hub.commitStatus, unsound]
  · simp [Hub.commitStatus, unsigned, notSealed]
  · simp [Hub.commitStatus, signed, invalid]

/-- The image that is committed: where the commit finds it (R473, R476). -/
def Hub.commitSource (h : Hub) (img : Nat) : Option Image := if h.flash.present then h.flash.slot img else h.flash.staged

/-- An image as its commit leaves it: the newest, with three tries, to be confirmed. -/
def Hub.asNewest (h : Hub) (i : Image) : Image :=
  { i with
    gen := match h.runningGen with | some g => g + 1 | none => Config.netbootGen (h.fresh + 1)
    tryBits := 0x07
    confirmed := 0xFF }

theorem Hub.asNewest_gen (h : Hub) (i : Image) {g : Word} (runs : h.runningGen = some g) : (h.asNewest i).gen = g + 1 := by
  simp [Hub.asNewest, runs]

/-- The hub after a commit that holds: from a slot the image is booted at the next reset, from memory it starts. -/
def Hub.afterCommit (h : Hub) (img : Nat) (i : Image) : Hub :=
  if h.flash.present then
    let g := { h.tick with flash := h.flash.put img (h.asNewest i) }
    (if h.boot.netboot then g.setBoot fun b => { b with resetAt := some (h.clk.elapsed + 10000000) } else g).ok []
  else
    (({ h.tick with flash := { h.flash with staged := some (h.asNewest i) } }).setBoot fun b =>
      { b with netboot := false, slot := none, tr := some h.clk.elapsed, watchdog := some h.clk.elapsed }).ok []

theorem Hub.afterCommit_reply (h : Hub) (img : Nat) (i : Image) : (h.afterCommit img i).mgmt.reply = ⟨St.ok, 0, 255, []⟩ := by
  unfold Hub.afterCommit
  split <;> rfl

theorem Hub.afterCommit_toSlot (h : Hub) (img : Nat) (i : Image) (here : h.flash.present = true) :
    (h.afterCommit img i).flash = h.flash.put img (h.asNewest i) ∧
    (h.afterCommit img i).boot = { h.boot with
      resetAt := if h.boot.netboot then some (h.clk.elapsed + 10000000) else h.boot.resetAt } := by
  rw [Hub.afterCommit, if_pos here]
  split <;> exact ⟨rfl, rfl⟩

theorem Hub.afterCommit_toMemory (h : Hub) (img : Nat) (i : Image) (gone : h.flash.present = false) :
    (h.afterCommit img i).flash = { h.flash with staged := some (h.asNewest i) } ∧
    (h.afterCommit img i).boot = { h.boot with
      netboot := false, slot := none, tr := some h.clk.elapsed, watchdog := some h.clk.elapsed } := by
  rw [Hub.afterCommit, if_neg (ne_true_of_eq_false gone)]
  exact ⟨rfl, rfl⟩

theorem Hub.fwCommit_barred (h : Hub) {img : Nat} (barred : h.slotBarred img) : h.fwCommit img = h.refuse St.badArg := if_pos barred

theorem Hub.fwCommit_nowhere (h : Hub) {img : Nat} (free : ¬h.slotBarred img) (gone : h.flash.present = false)
    (image : h.boot.netboot = false) : h.fwCommit img = h.refuse St.fault :=
  (if_neg free).trans (if_pos (by simp [gone, image]))

section Commits
variable (h : Hub) {img : Nat} (free : ¬h.slotBarred img) (place : h.flash.present = true ∨ h.boot.netboot = true)
include free place

/-- A commit that has a place to commit to asks for the image's status. -/
theorem Hub.fwCommit_eq : h.fwCommit img = (h.commitSource img).elim (h.refuse St.badArg) fun i =>
    if h.commitStatus i ≠ St.ok then h.refuse (h.commitStatus i) else h.afterCommit img i := by
  have served : ¬((!h.flash.present && !h.boot.netboot) = true) := by simpa [imp_iff_not_or] using place
  refine ((if_neg free).trans (if_neg served)).trans ?_
  unfold Hub.commitSource
  cases if h.flash.present then h.flash.slot img else h.flash.staged <;> rfl

theorem Hub.fwCommit_empty (empty : h.commitSource img = none) : h.fwCommit img = h.refuse St.badArg := by
  rw [h.fwCommit_eq free place, empty]
  rfl

theorem Hub.fwCommit_fails {i : Image} (held : h.commitSource img = some i) (bad : h.commitStatus i ≠ St.ok) :
    h.fwCommit img = h.refuse (h.commitStatus i) := by
  rw [h.fwCommit_eq free place, held]
  exact if_pos bad

theorem Hub.fwCommit_holds {i : Image} (held : h.commitSource img = some i) (good : h.commitStatus i = St.ok) :
    h.fwCommit img = h.afterCommit img i := by
  rw [h.fwCommit_eq free place, held]
  exact if_neg (not_not_intro good)

end Commits

end Sys2Proof.Machine

open Sys2Proof Sys2Proof.Machine

/-- Settles O51, command by command: each clause is one case of the command's meaning. Where R365, R381, R382, R424, R473 and R476 leave
a case open the clause is the model's own choice: log entries 97 (what a save keeps), 98 (offsets, SEALED), 100 (the version floor) and
106 (STATUS of a request that has not ended). -/
theorem systemCommands : Obligations.SystemCommands := by
  intro s w id tag img off data h now same verified inSlot own source
  refine ⟨rfl, exec_sysInfo s, ?reset, ?resets, ?queued, ?started, ?ended, ?noSave, ?saves, ?noWrite, ?writes, ?barred, ?nowhere, ?commits⟩
  case reset =>
    intro wrong
    rw [exec_sysReset, h.sysReset_wrong wrong]
  case resets => rw [exec_sysReset, h.sysReset_right]
  case queued =>
    intro waits
    rw [exec_sysReqstat, h.reqstat_queued waits]
  case started =>
    intro idle runs
    rw [exec_sysReqstat, h.reqstat_started idle runs]
  case ended =>
    intro idle ended
    constructor
    · intro gone
      rw [exec_sysReqstat, h.reqstat_unknown idle ended gone]
    · rintro e mem rfl rfl live only
      rw [exec_sysReqstat, h.reqstat_cached idle ended mem live only]
  case noSave =>
    intro no
    rw [exec_sysCfgSave, h.cfgSave_refuses no]
  case saves =>
    intro here room
    obtain ⟨flash, chans, tm⟩ := h.cfgSave_frame here room
    refine ⟨_, exec_sysCfgSave s, h.cfgSave_reply here room, flash ▸ h.savedFlash_copies_length, ?_, chans, tm⟩
    intro i c held
    exact ⟨_, h.savedFlash_copy (flash ▸ held), rfl, rfl, rfl, rfl, rfl⟩
  case noWrite =>
    intro bad
    rw [exec_sysFwWrite, h.fwWrite_refuses bad]
  case writes =>
    intro free short fits
    refine ⟨fun gone image => ?_, fun gone net => ?_, fun here => ?_⟩
    · rw [exec_sysFwWrite, h.fwWrite_nowhere free short fits gone image]
    · rw [exec_sysFwWrite, h.fwWrite_toMemory free short fits gone net]
      exact ⟨_, _, rfl, rfl, rfl, Image.write_header_reads_back _ 2⟩
    · rw [exec_sysFwWrite, h.fwWrite_toSlot free short fits here]
      exact ⟨_, _, rfl, rfl, h.flash.slot_put_same img _, h.flash.slot_put_other _ (h.slot_le_one free),
        Image.write_header_reads_back _ img,
        fun body => ⟨Image.write_body_keeps_header _ img data body, Image.write_body_reads_back _ img data body⟩⟩
  case barred =>
    intro barred
    rw [exec_sysFwCommit, h.fwCommit_barred barred]
  case nowhere =>
    intro free gone image
    rw [exec_sysFwCommit, h.fwCommit_nowhere free gone image]
  case commits =>
    intro free place
    refine ⟨fun empty => ?_, fun i held => ⟨fun bad => ?_, fun sound unsigned shut => ?_, fun valid => ?_⟩⟩
    · rw [exec_sysFwCommit, h.fwCommit_empty free place empty]
    · have status := h.commitStatus_bad bad
      rw [exec_sysFwCommit, h.fwCommit_fails free place held (status ▸ by decide), status]
    · have status := h.commitStatus_sealed sound unsigned shut
      rw [exec_sysFwCommit, h.fwCommit_fails free place held (status ▸ by decide), status]
    · rw [exec_sysFwCommit, h.fwCommit_holds free place held (h.commitStatus_valid valid)]
      refine ⟨_, h.asNewest i, rfl, h.afterCommit_reply img i, rfl, rfl, rfl, rfl, fun g => h.asNewest_gen i, ?_, ?_⟩
      · intro here
        obtain ⟨flash, boot⟩ := h.afterCommit_toSlot img i here
        exact ⟨flash ▸ h.flash.slot_put_same img _, flash ▸ h.flash.slot_put_other _ (h.slot_le_one free), boot⟩
      · exact h.afterCommit_toMemory img i
end

