-- ==== Sys2Proof/Proofs/RawGroup.lean ====
section
/-! PROOFS. STRM_RAW_GROUP (R262, R393): the reassignment of the flows keeps the group, the command's checks one by one, and from that
Obligations.RawGroup. -/

namespace Sys2Proof.Machine

/-! ## Moving flows and writing records keep the RAW group -/

/-- The ports of the hub's one RAW group (R262, R393). A name of its own and not the bare projection: under it the kernel compares two hubs
as they stand, where a projection makes it evaluate the spool's limits. -/
def Hub.group (h : Hub) : List Nat := h.strm.rawGroup

theorem Hub.flows_group (h : Hub) (l : List Flow) : ({ h with flows := l } : Hub).group = h.group := rfl
theorem Hub.hk_group (h : Hub) (x : Hk) : ({ h with hk := x } : Hub).group = h.group := rfl
theorem Hub.setFlow_group (h : Hub) (k : FlowKey) (g : Flow → Flow) : (h.setFlow k g).group = h.group := rfl
theorem Hub.mapCh_group (h : Hub) (g : Nat → Chan → Chan) : (h.mapCh g).group = h.group := rfl

theorem Hub.spoolTouch_group (h : Hub) (d : Nat) (was : Seqs) : (h.spoolTouch d was).group = h.group := by
  unfold Hub.spoolTouch
  simp only
  rw [Hub.flows_group]
  split
  · rfl
  · split
    case h_1 => rfl
    case h_2 =>
      rw [Hub.setFlow_group, Hub.mapCh_group, Hub.flows_group, iter_keeps Hub.group]
      · rfl
      · intro g
        split
        · split <;> rfl
        · rfl
    case h_3 => rfl

theorem Hub.watermarks_group (h : Hub) : h.watermarks.group = h.group := by
  unfold Hub.watermarks
  refine forAll_keeps Hub.group _ (fun p g => ?_) _ _
  dsimp only
  split <;> rfl

theorem Hub.emitRecord_group (h : Hub) (k : FlowKey) (stream : Nat) (rcd : Bytes) : (h.emitRecord k stream rcd).group = h.group := by
  unfold Hub.emitRecord Hub.emitSince
  split
  · rfl
  · split
    · rfl
    · rw [Hub.watermarks_group, Hub.spoolTouch_group, Hub.setFlow_group]

theorem Hub.hkRecord_group (h : Hub) (t kind : Nat) (p : Bytes) : (h.hkRecord t kind p).group = h.group := by
  unfold Hub.hkRecord
  simp only
  split
  · rw [Hub.emitRecord_group, Hub.hk_group]
  · rfl

theorem Hub.record_group (h : Hub) (kind : Nat) (p : Bytes) : (h.record kind p).group = h.group := by
  unfold Hub.record Hub.recordAt
  by_cases noneDropped : h.hk.dropped = 0
  · simp only [noneDropped, ↓reduceIte]
    split
    · rfl
    · exact Hub.hkRecord_group _ _ _ _
  · simp only [noneDropped, ↓reduceIte]
    split
    · rfl
    · rw [Hub.hkRecord_group, Hub.hkRecord_group, Hub.hk_group]

/-- A NOTICE is a record alone: it is no fault to keep or to log (R427). -/
theorem Hub.notice_eq_record (h : Hub) (unit : Word) (code : Nat) (arg0 arg1 : Word) :
    h.notice unit code arg0 arg1 = h.record 1 (eventB unit code 0 1 arg0 arg1) := by
  unfold Hub.notice Hub.event Hub.eventAt
  exact if_pos rfl

theorem Hub.rawReassign_group (h : Hub) : h.rawReassign.group = h.group := by
  unfold Hub.rawReassign
  refine forAll_keeps Hub.group _ (fun k g => ?_) _ h
  split
  · rfl
  · split
    · rfl
    · rw [Hub.notice_eq_record, Hub.record_group]
      rfl

/-! ## The checks -/

/-- RATE and WIDTH of LINK_CFG stand side by side (Table 11-1): ports are alike in both where the joint field is the same. -/
theorem rate_width_eq_iff (v w : Word) : (fld v 22 20, fld v 19 18) = (fld w 22 20, fld w 19 18) ↔ fld v 22 18 = fld w 22 18 := by
  simp only [fld, Prod.mk.injEq, Nat.shiftRight_eq_div_pow]
  omega

theorem Hub.onDies_up (h : Hub) {dies : List Nat} (up : ∀ d ∈ dies, h.dieDown d = false) (k : Hub) : h.onDies dies k = k := by
  have noneDown : dies.filter h.dieDown = [] := by simpa using up
  rw [Hub.onDies, noneDown]
  rfl

theorem Hub.onDies_down (h : Hub) {dies : List Nat} (down : ∃ d ∈ dies, h.dieDown d = true) (k : Hub) :
    ∃ d, h.onDies dies k = h.refuseDie St.fault d := by
  obtain ⟨d, -, refused⟩ | ⟨noDown, -⟩ := h.onDies_cases dies k
  · exact ⟨d, refused⟩
  · obtain ⟨d, named, isDown⟩ := down
    have empty : dies.filter h.dieDown = [] := List.min?_eq_none_iff.1 noDown
    exact absurd isDown (List.filter_eq_nil_iff.1 empty d named)

/-! ## STRM_RAW_GROUP -/

theorem exec_strmRawGroup (ports : List Nat) (s : State) :
    exec (.strmRawGroup ports) s = .next ⟨s.hub.strmRawGroup ports, s.pending⟩ := rfl

/-- The ports of a request are unfit to form a group: too many, one that is not a branch port in PLAIN, or not all alike (R24, R262). -/
def Hub.rawUnfit (h : Hub) (ports : List Nat) : Prop :=
  8 < ports.length ∨ ∃ i ∈ ports, h.plainPort i = false ∨ fld (h.prt i).cfg 22 18 ≠ fld (h.prt (ports.headD 0)).cfg 22 18

/-- The command's own test of the ports. -/
theorem Hub.rawUnfit_iff (h : Hub) (ports : List Nat) :
    h.rawUnfit ports ↔ 8 < ports.length ∨ (!ports.all h.plainPort) = true ∨
      ports.any (fun p => (fld (h.prt p).cfg 22 20, fld (h.prt p).cfg 19 18) !=
        (fld (h.prt (ports.headD 0)).cfg 22 20, fld (h.prt (ports.headD 0)).cfg 19 18)) = true := by
  simp only [Hub.rawUnfit, ← rate_width_eq_iff, ne_eq, Bool.not_eq_true', List.all_eq_false, List.any_eq_true, bne_iff_ne,
    Bool.not_eq_true, and_or_left, exists_or]

theorem Hub.not_rawUnfit (h : Hub) {ports : List Nat} (few : ports.length ≤ 8)
    (alike : ∀ i ∈ ports, h.plainPort i = true ∧ fld (h.prt i).cfg 22 18 = fld (h.prt (ports.headD 0)).cfg 22 18) :
    ¬h.rawUnfit ports := by
  rintro (many | ⟨i, mem, notPlain | differs⟩)
  · exact absurd few (Nat.not_le.2 many)
  · exact absurd (alike i mem).1 (ne_true_of_eq_false notPlain)
  · exact differs (alike i mem).2

theorem Hub.rawUnfit.ne_nil {h : Hub} {ports : List Nat} (unfit : h.rawUnfit ports) : ports ≠ [] := by
  rintro rfl
  simp [Hub.rawUnfit] at unfit

/-- The hub once a group is formed and the flows are assigned to its ports (R262). -/
def Hub.withRawGroup (h : Hub) (ports : List Nat) : Hub :=
  ({ h with strm := { h.strm with rawGroup := ports, stopped := [] } } : Hub).rawReassign

theorem Hub.withRawGroup_group (h : Hub) (ports : List Nat) : (h.withRawGroup ports).group = ports :=
  Hub.rawReassign_group _

theorem Hub.strmRawGroup_dissolve_refused (h : Hub) (raw : h.chans.any (·.rawEn) = true) : h.strmRawGroup [] = h.refuse St.badArg :=
  if_pos raw

theorem Hub.strmRawGroup_dissolve (h : Hub) (idle : h.chans.any (·.rawEn) = false) :
    h.strmRawGroup [] = ({ h with strm := { h.strm with rawGroup := [] } } : Hub).ok [] :=
  if_neg (ne_true_of_eq_false idle)

theorem Hub.strmRawGroup_unfit (h : Hub) {ports : List Nat} (unfit : h.rawUnfit ports) : h.strmRawGroup ports = h.refuse St.badArg := by
  rw [Hub.strmRawGroup, if_neg (by simpa using unfit.ne_nil), if_pos ((h.rawUnfit_iff ports).1 unfit)]

/-- Ports that are fit to form a group meet two more checks: their dies, then their capacity. -/
theorem Hub.strmRawGroup_fit (h : Hub) {ports : List Nat} (nonempty : ports ≠ []) (fit : ¬h.rawUnfit ports) :
    h.strmRawGroup ports = h.onDies (ports.map (· / 4))
      (if (h.rawPlan ports h.rawFlows.length).isNone then h.refuse St.budget else (h.withRawGroup ports).ok []) := by
  rw [Hub.strmRawGroup, if_neg (by simpa using nonempty), if_neg (mt (h.rawUnfit_iff ports).2 fit)]
  rfl

section Forms

variable (h : Hub) {ports : List Nat} (nonempty : ports ≠ []) (fit : ¬h.rawUnfit ports)
include nonempty fit

theorem Hub.strmRawGroup_up (up : ∀ i ∈ ports, h.dieDown (i / 4) = false) : h.strmRawGroup ports =
    if (h.rawPlan ports h.rawFlows.length).isNone then h.refuse St.budget else (h.withRawGroup ports).ok [] := by
  rw [h.strmRawGroup_fit nonempty fit, h.onDies_up (by simpa using up)]

theorem Hub.strmRawGroup_down (down : ∃ i ∈ ports, h.dieDown (i / 4) = true) :
    ∃ d, h.strmRawGroup ports = h.refuseDie St.fault d := by
  rw [h.strmRawGroup_fit nonempty fit]
  exact h.onDies_down (by simpa using down) _

end Forms

end Sys2Proof.Machine

open Sys2Proof Sys2Proof.Machine

/-- Settles O34, check by check in the order in which the command makes them (R24, R262, R380, R393). -/
theorem rawGroup : Obligations.RawGroup := by
  intro s ports alike
  refine ⟨?stays, ?dissolves, ?unfit, ?forms, ?budget, ?down⟩
  case stays =>
    intro raw
    rw [exec_strmRawGroup, s.hub.strmRawGroup_dissolve_refused raw]
  case dissolves =>
    intro idle
    rw [exec_strmRawGroup, s.hub.strmRawGroup_dissolve idle]
  case unfit =>
    intro unfit
    rw [exec_strmRawGroup, s.hub.strmRawGroup_unfit unfit]
  case forms =>
    intro nonempty few same up plan
    have carried : ¬(s.hub.rawPlan ports s.hub.rawFlows.length).isNone = true := by
      simpa [Option.isSome_iff_ne_none] using plan
    rw [exec_strmRawGroup, s.hub.strmRawGroup_up nonempty (s.hub.not_rawUnfit few same) up, if_neg carried]
    exact ⟨_, rfl, rfl, s.hub.withRawGroup_group ports⟩
  case budget =>
    intro nonempty few same up exceeds
    rw [exec_strmRawGroup, s.hub.strmRawGroup_up nonempty (s.hub.not_rawUnfit few same) up, exceeds]
    rfl
  case down =>
    intro nonempty few same down
    obtain ⟨d, refused⟩ := s.hub.strmRawGroup_down nonempty (s.hub.not_rawUnfit few same) down
    exact ⟨d, by rw [exec_strmRawGroup, refused]⟩
end

section
/-! PROOFS. The form of a hub (the part, the lengths of its lists, its two addressed memories): what each meaning of the model leaves of it,
function by function in the order of the model, and from that Obligations.EveryStepKeepsInvariant. -/

namespace Sys2Proof.Machine

/-- What the invariant of a hub speaks of: the part, the lengths of the hub's lists, and its two addressed memories. -/
structure Form where
  ident : Ident
  chans : Nat
  octs : Nat
  dies : Nat
  ports : Nat
  reps : Nat
  pins : Nat
  kons : Nat
  caps : Nat
  tins : Nat
  fc : Nat
  fci : Nat
  tag : List (Nat × Word)
  mbi : List (Nat × Word)

/-- The form of a hub. -/
def Hub.form (h : Hub) : Form :=
  ⟨h.ident, h.chans.length, h.octs.length, h.dies.length, h.ports.length, h.reps.length, h.trg.pins.length, h.trg.kons.length,
    h.caps.length, h.tm.tins.length, h.strm.fc.length, h.strm.fci.length, h.tag.mem, h.dbw.mbi⟩

/-- An update of a hub's fields keeps the form where it keeps the lengths and the two memories. -/
theorem Hub.form_update (h : Hub) {clk : Clk} {tm : Tm} {chans : List Chan} {octs : List Octet} {reps : List Rep} {dies : List Die}
    {trg : Trg} {caps : List (Option Capture)} {nextTrain : Nat} {saved : List SavedChurn} {jobs : List ChurnJob} {nextHandle nextJob : Nat}
    {flows : List Flow} {strm : Strm} {hk : Hk} {sep : Sep} {ports : List Port} {enm : Enum} {mgmt : Mgmt} {dbw : Dbw} {fseal : Seal}
    {flt : Flt} {cal : Cal} {pwr : Pwr} {pmbus : Pmbus} {boot : Boot} {flash : Flash} {tag : Tag} {tap : Tap} {fresh : Nat}
    (tins : tm.tins.length = h.tm.tins.length) (chs : chans.length = h.chans.length) (os : octs.length = h.octs.length)
    (rs : reps.length = h.reps.length) (ds : dies.length = h.dies.length) (pins : trg.pins.length = h.trg.pins.length)
    (kons : trg.kons.length = h.trg.kons.length) (cs : caps.length = h.caps.length) (fc : strm.fc.length = h.strm.fc.length)
    (fci : strm.fci.length = h.strm.fci.length) (ps : ports.length = h.ports.length) (mbi : dbw.mbi = h.dbw.mbi)
    (mem : tag.mem = h.tag.mem) :
    (Hub.mk h.ident clk tm chans octs reps dies trg caps nextTrain saved jobs nextHandle nextJob flows strm hk sep ports enm mgmt dbw
      fseal flt cal pwr pmbus boot flash tag tap fresh).form = h.form := by
  simp only [Hub.form, tins, chs, os, rs, ds, pins, kons, cs, fc, fci, ps, mbi, mem]

theorem forAll_form {α : Type} (f : α → Hub → Hub) (keeps : ∀ a g, (f a g).form = g.form) (l : List α) (h : Hub) :
    (forAll l f h).form = h.form := forAll_keeps Hub.form f keeps l h

theorem iter_form (f : Hub → Hub) (keeps : ∀ g, (f g).form = g.form) (n : Nat) (h : Hub) :
    (iter f n h).form = h.form := iter_keeps Hub.form f keeps n h

theorem Hub.setTm_form (h : Hub) (f : Tm → Tm) (keeps : (f h.tm).tins.length = h.tm.tins.length) : (h.setTm f).form = h.form := by
  simp only [Hub.setTm, ↓Hub.form_update, keeps]

theorem Hub.setMgmt_form (h : Hub) (f : Mgmt → Mgmt) : (h.setMgmt f).form = h.form := by simp only [Hub.setMgmt, ↓Hub.form_update]

theorem Hub.setTag_form (h : Hub) (f : Tag → Tag) (keeps : (f h.tag).mem = h.tag.mem) : (h.setTag f).form = h.form := by
  simp only [Hub.setTag, ↓Hub.form_update, keeps]

theorem Hub.withReply_form (h : Hub) (r : Reply) : (h.withReply r).form = h.form := by simp only [Hub.withReply, ↓Hub.form_update]

theorem Hub.refuse_form (h : Hub) (st : Nat) : (h.refuse st).form = h.form := by simp only [Hub.refuse, ↓Hub.withReply_form]

theorem Hub.refuseDie_form (h : Hub) (st d : Nat) : (h.refuseDie st d).form = h.form := by simp only [Hub.refuseDie, ↓Hub.withReply_form]

theorem Hub.checked_form (h : Hub) (tests : List (Nat × List Nat)) (k : Hub) (keeps : k.form = h.form) :
    (h.checked tests k).form = h.form := by
  unfold Hub.checked
  split
  · exact h.refuseDie_form _ _
  · exact keeps

theorem Hub.onDies_form (h : Hub) (dies : List Nat) (k : Hub) (keeps : k.form = h.form) : (h.onDies dies k).form = h.form := by
  obtain ⟨d, -, refused⟩ | ⟨-, runs⟩ := h.onDies_cases dies k
  · rw [refused, Hub.refuseDie_form]
  · rw [runs, keeps]

theorem Hub.overMask_form (h : Hub) (down : Nat → Bool) (dies : List Nat) (check : Nat → Option Nat) (k : List Nat → Hub)
    (keeps : ∀ ds, (k ds).form = h.form) : (h.overMask down dies check k).form = h.form := by
  obtain ⟨bad, -⟩ | ⟨-, ⟨d, -, refused⟩ | ⟨-, ⟨d, -, e, -, refused⟩ | ⟨-, runs⟩⟩⟩ := h.overMask_cases down dies check k
  · rw [bad, Hub.refuse_form]
  · rw [refused, Hub.refuseDie_form]
  · rw [refused, Hub.refuseDie_form]
  · rw [runs, keeps]

theorem Hub.onMask_form (h : Hub) (dies : List Nat) (check : Nat → Option Nat) (k : List Nat → Hub)
    (keeps : ∀ ds, (k ds).form = h.form) : (h.onMask dies check k).form = h.form := h.overMask_form _ dies check k keeps

theorem Hub.readMask_form (h : Hub) (dies : List Nat) (k : List Nat → Hub)
    (keeps : ∀ ds, (k ds).form = h.form) : (h.readMask dies k).form = h.form := h.overMask_form _ dies _ k keeps

theorem Hub.onPort_form (h : Hub) (p : Nat) (k : Hub) (keeps : k.form = h.form) : (h.onPort p k).form = h.form := by
  unfold Hub.onPort
  simp only [↓apply_ite Hub.form, ↓Hub.refuse_form, ↓Hub.onDies_form, keeps, ite_self]

theorem Tm.setAlign_tins (t : Tm) (a : Align) : (t.setAlign a).tins = t.tins := by unfold Tm.setAlign; rfl

theorem modAll_length {α : Type} (l : List α) (is : List Nat) (f : Nat → α → α) : (modAll l is f).length = l.length := by
  simp only [modAll, List.length_mapIdx]

/-! ### Ops -/

theorem Hub.setCh_form (h : Hub) (c : Nat) (f : Chan → Chan) : (h.setCh c f).form = h.form := by
  simp only [Hub.setCh, ↓Hub.form_update, modAt, List.length_modify]

theorem Hub.setOct_form (h : Hub) (o : Nat) (f : Octet → Octet) : (h.setOct o f).form = h.form := by
  simp only [Hub.setOct, ↓Hub.form_update, modAt, List.length_modify]

theorem Hub.setDie_form (h : Hub) (d : Nat) (f : Die → Die) : (h.setDie d f).form = h.form := by
  simp only [Hub.setDie, ↓Hub.form_update, modAt, List.length_modify]

theorem Hub.setPort_form (h : Hub) (p : Nat) (f : Port → Port) : (h.setPort p f).form = h.form := by
  simp only [Hub.setPort, ↓Hub.form_update, modAt, List.length_modify]

theorem Hub.setLink_form (h : Hub) (p : Nat) (f : Link → Link) : (h.setLink p f).form = h.form := by
  simp only [Hub.setLink, ↓Hub.setPort_form]

theorem Hub.setLane_form (h : Hub) (p l : Nat) (f : Lane → Lane) : (h.setLane p l f).form = h.form := by
  simp only [Hub.setLane, ↓Hub.setPort_form, modAt]

theorem Hub.mapCh_form (h : Hub) (g : Nat → Chan → Chan) : (h.mapCh g).form = h.form := by
  simp only [Hub.mapCh, ↓Hub.form_update, List.length_mapIdx]

theorem Hub.crossEvent_form (h : Hub) (d row latency : Nat) : (h.crossEvent d row latency).form = h.form := by
  simp only [Hub.crossEvent, ↓Hub.setDie_form, modAt]

theorem Hub.mapDie_form (h : Hub) (f : Nat → Die → Die) : (h.mapDie f).form = h.form := by
  simp only [Hub.mapDie, ↓Hub.form_update, List.length_mapIdx]

theorem Hub.ok_form (h : Hub) (p : Bytes) : (h.ok p).form = h.form := by
  simp only [Hub.ok, ↓Hub.withReply_form]

theorem Hub.busy_form (h : Hub) (ms : Nat) : (h.busy ms).form = h.form := by
  simp only [Hub.busy, ↓Hub.withReply_form]

theorem Hub.busyDie_form (h : Hub) (ms die : Nat) : (h.busyDie ms die).form = h.form := by
  simp only [Hub.busyDie, ↓Hub.withReply_form]

theorem Hub.tick_form (h : Hub) : h.tick.form = h.form := by
  simp only [Hub.tick, ↓Hub.form_update]

theorem Hub.setFlow_form (h : Hub) (k : FlowKey) (g : Flow → Flow) : (h.setFlow k g).form = h.form := by
  simp only [Hub.setFlow, ↓Hub.form_update]

theorem Hub.spoolTouch_form (h : Hub) (d : Nat) (was : Seqs) : (h.spoolTouch d was).form = h.form := by
  unfold Hub.spoolTouch
  simp only [↓Hub.form_update]
  split
  · rfl
  · split
    · simp only [↓Hub.form_update, ↓Hub.mapCh_form, ↓Hub.setDie_form]
    · simp only [↓Hub.setFlow_form, ↓Hub.mapCh_form, ↓Hub.form_update]
      refine (iter_form _ (fun g => ?_) _ _).trans (h.setDie_form d _)
      split
      · split
        · exact g.setFlow_form _ _
        · rfl
      · rfl
    · simp only [↓Hub.mapCh_form, ↓Hub.setDie_form]

theorem Hub.ctl_form (h : Hub) (p code payload : Nat) : (h.ctl p code payload).form = h.form := by
  simp only [Hub.ctl, ↓Hub.setLink_form]

theorem Hub.watermarks_form (h : Hub) : h.watermarks.form = h.form := by
  simp only [Hub.watermarks, ↓Hub.ctl_form, ↓Hub.setLink_form, ↓forAll_form, ↓Hub.form_update, ↓apply_ite Hub.form, ite_self,
    List.length_mapIdx, implies_true]

theorem Hub.flowTouch_form (h : Hub) (d : Nat) : (h.flowTouch d).form = h.form := by
  simp only [Hub.flowTouch, ↓Hub.spoolTouch_form, ↓Hub.watermarks_form]

theorem Hub.flowBuilt_form (h : Hub) (d : Nat) (was : Seqs) : (h.flowBuilt d was).form = h.form := by
  simp only [Hub.flowBuilt, ↓Hub.spoolTouch_form, ↓Hub.watermarks_form]

theorem Hub.emitSince_form (h : Hub) (k : FlowKey) (stream : Nat) (rcd : Bytes) (since : Nat) :
    (h.emitSince k stream rcd since).form = h.form := by
  unfold Hub.emitSince
  split <;> simp only [↓Hub.setFlow_form, ↓Hub.spoolTouch_form, ↓Hub.watermarks_form, ↓apply_ite Hub.form, ite_self]

theorem Hub.emitRecord_form (h : Hub) (k : FlowKey) (stream : Nat) (rcd : Bytes) : (h.emitRecord k stream rcd).form = h.form := by
  simp only [Hub.emitRecord, ↓Hub.emitSince_form]

theorem Hub.hkRecord_form (h : Hub) (t kind : Nat) (payload : Bytes) : (h.hkRecord t kind payload).form = h.form := by
  simp only [Hub.hkRecord, ↓Hub.emitRecord_form, ↓Hub.form_update, ↓apply_ite Hub.form, ite_self]

theorem Hub.startHk_form (h : Hub) : h.startHk.form = h.form := by
  simp only [Hub.startHk, ↓Hub.emitRecord_form, ↓Hub.setFlow_form, ↓forAll_form, ↓Hub.form_update, implies_true]

theorem Hub.recordAt_form (h : Hub) (t kind : Nat) (payload : Bytes) : (h.recordAt t kind payload).form = h.form := by
  simp only [Hub.recordAt, ↓Hub.hkRecord_form, ↓Hub.form_update, ↓apply_ite Hub.form, ite_self]

theorem Hub.record_form (h : Hub) (kind : Nat) (payload : Bytes) : (h.record kind payload).form = h.form := by
  simp only [Hub.record, ↓Hub.recordAt_form]

theorem Hub.raise_form (h : Hub) (bit : Nat) : (h.raise bit).form = h.form := by
  simp only [Hub.raise, ↓Hub.form_update]

theorem Hub.logEntry_form (h : Hub) (t : Nat) (event : Bytes) : (h.logEntry t event).form = h.form := by
  simp only [Hub.logEntry, ↓Hub.form_update, ↓apply_ite Hub.form, ite_self]

theorem Hub.eventAt_form (h : Hub) (t : Nat) (unit : Word) (code cls count : Nat) (arg0 arg1 : Word) :
    (h.eventAt t unit code cls count arg0 arg1).form = h.form := by
  simp only [Hub.eventAt, ↓Hub.logEntry_form, ↓Hub.raise_form, ↓Hub.recordAt_form, ↓Hub.form_update, ↓apply_ite Hub.form, ite_self]

theorem Hub.event_form (h : Hub) (unit : Word) (code cls count : Nat) (arg0 arg1 : Word) :
    (h.event unit code cls count arg0 arg1).form = h.form := by
  simp only [Hub.event, ↓Hub.eventAt_form]

theorem Hub.notice_form (h : Hub) (unit : Word) (code : Nat) (arg0 arg1 : Word) : (h.notice unit code arg0 arg1).form = h.form := by
  simp only [Hub.notice, ↓Hub.event_form]

theorem Hub.setLevel_form (h : Hub) (l : Level) : (h.setLevel l).form = h.form := by
  simp only [Hub.setLevel, ↓Hub.raise_form, ↓Hub.form_update, ↓apply_ite Hub.form, ite_self]

theorem Hub.setAlign_form (h : Hub) (a : Align) : (h.setAlign a).form = h.form := by
  unfold Hub.setAlign
  split
  · rfl
  · simp only [↓Hub.raise_form, ↓Hub.form_update, Tm.setAlign_tins]

theorem Hub.setBase_form (h : Hub) (b : Base) : (h.setBase b).form = h.form := by
  simp only [Hub.setBase, ↓Hub.raise_form, ↓Hub.form_update, ↓apply_ite Hub.form, ite_self]

/-! ### Flags -/

theorem Hub.sclkHold_form (h : Hub) (n back : Nat) : (h.sclkHold n back).form = h.form := by
  simp only [Hub.sclkHold, ↓Hub.form_update, ↓apply_ite Hub.form, ite_self, modAt]

theorem Hub.sclkStart_form (h : Hub) (n t : Nat) : (h.sclkStart n t).form = h.form := by
  simp only [Hub.sclkStart, ↓Hub.form_update, modAt]

theorem Hub.tapSeal_form (h : Hub) : h.tapSeal.form = h.form := by
  simp only [Hub.tapSeal, ↓Hub.form_update, ↓apply_ite Hub.form, ite_self]

/-! ### FaultOps -/

theorem Hub.retireChan_form (h : Hub) (c code count : Nat) : (h.retireChan c code count).form = h.form := by
  unfold Hub.retireChan
  dsimp only
  repeat' split
  all_goals simp only [↓Hub.event_form, ↓Hub.setCh_form, ↓Hub.setDie_form]

theorem Hub.skipInHold_form (h : Hub) (c code : Nat) : (h.skipInHold c code).form = h.form := by
  simp only [Hub.skipInHold, ↓Hub.setCh_form, ↓apply_ite Hub.form, ite_self]

theorem Hub.chanFault_form (h : Hub) (c code : Nat) : (h.chanFault c code).form = h.form := by
  simp only [Hub.chanFault, ↓Hub.retireChan_form, ↓Hub.setCh_form, ↓Hub.skipInHold_form, ↓apply_ite Hub.form, ite_self]

theorem Hub.chanWindow_form (h : Hub) (c : Nat) : (h.chanWindow c).form = h.form := by
  unfold Hub.chanWindow
  dsimp only
  repeat' split
  all_goals simp only [↓Hub.event_form, ↓Hub.retireChan_form, ↓Hub.setCh_form]

theorem Hub.spareChan_form (h : Hub) (c code : Nat) (readable : Bool) : (h.spareChan c code readable).form = h.form := by
  unfold Hub.spareChan
  dsimp only
  repeat' split
  all_goals simp only [↓Hub.notice_form, ↓Hub.retireChan_form, ↓Hub.setCh_form, ↓Hub.setDie_form]

theorem Hub.setEngWin_form (h : Hub) (d : Nat) (u : Word) (w : Option FaultWin) : (h.setEngWin d u w).form = h.form := by
  simp only [Hub.setEngWin, ↓Hub.setDie_form]

/-- What the failure of engine `e` does to one use of a channel: it goes to an engine with room, or leaves (R290). -/
def Hub.placeUse (h : Hub) (d e c : Nat) (others : List Nat) (get : Chan → Option ChurnUse) (put : Option ChurnUse → Chan → Chan) : Hub :=
  match get (h.ch c) with
  | none => h
  | some u =>
    if u.eng ≠ e ∨ u.leaving then h
    else match others.find? (fun i => churnFits ((h.setCh c (put (some { u with eng := i }))).churnLoad d i)) with
      | some i => h.setCh c (put (some { u with eng := i }))
      | none => h.setCh c (put (some { u with leaving := true }))

/-- What it does to the three uses of a channel. -/
def Hub.placeUses (h : Hub) (d e c : Nat) (others : List Nat) : Hub :=
  ((h.placeUse d e c others (·.churnRaw) fun u x => { x with churnRaw := u }).placeUse d e c others
    (·.churnSkim) fun u x => { x with churnSkim := u }).placeUse d e c others (·.churnCap) fun u x => { x with churnCap := u }

def Chan.leavings (x : Chan) : List Bool := [x.churnRaw, x.churnSkim, x.churnCap].map fun u => u.any ChurnUse.leaving

theorem Hub.moveChurn_eq (h : Hub) (d e : Nat) : h.moveChurn d e =
    forAll ((List.range 128).map fun i => 128 * d + i) (fun c g =>
      let k := g.placeUses d e c ((List.range 4).filter fun i => i != e && (h.die d).churn.engines.getD i false)
      if (k.ch c).leavings = (g.ch c).leavings then k else k.notice (unitChan c) 0x0703 0 0) h := rfl

theorem Hub.placeUse_form (h : Hub) (d e c : Nat) (others : List Nat) (get : Chan → Option ChurnUse)
    (put : Option ChurnUse → Chan → Chan) : (h.placeUse d e c others get put).form = h.form := by
  unfold Hub.placeUse
  split
  · rfl
  · split
    · rfl
    · split <;> exact h.setCh_form _ _

theorem Hub.moveChurn_form (h : Hub) (d e : Nat) : (h.moveChurn d e).form = h.form := by
  rw [h.moveChurn_eq]
  refine forAll_form _ (fun c g => ?_) _ _
  simp only [Hub.placeUses, ↓apply_ite Hub.form, ↓Hub.notice_form, ↓Hub.placeUse_form, ite_self]

theorem Hub.retireEngine_form (h : Hub) (d typ e : Nat) : (h.retireEngine d typ e).form = h.form := by
  simp only [Hub.retireEngine, ↓Hub.moveChurn_form, ↓Hub.setDie_form, ↓apply_ite Hub.form, ite_self, modAt]

theorem Hub.engineFail_form (h : Hub) (d typ e code : Nat) (readable passes : Bool) :
    (h.engineFail d typ e code readable passes).form = h.form := by
  unfold Hub.engineFail
  dsimp only
  repeat' split
  all_goals simp only [↓Hub.event_form, ↓Hub.retireEngine_form, ↓Hub.setDie_form, ↓Hub.setEngWin_form, ↓Hub.spareChan_form,
    ↓Hub.form_update]

theorem Hub.engineWindow_form (h : Hub) (d typ e : Nat) : (h.engineWindow d typ e).form = h.form := by
  unfold Hub.engineWindow
  dsimp only
  repeat' split
  all_goals simp only [↓Hub.event_form, ↓Hub.setDie_form, ↓Hub.setEngWin_form, ↓Hub.tick_form]

/-! ### Flows -/

theorem Hub.reSweep_form (h : Hub) (d : Nat) : (h.reSweep d).form = h.form := by
  simp only [Hub.reSweep, ↓Hub.form_update]

theorem Hub.sweepPut_form (h : Hub) (raw : Bool) (c : Nat) (x : SweepSample) : (h.sweepPut raw c x).form = h.form := by
  simp only [Hub.sweepPut, ↓Hub.setFlow_form]

theorem Hub.sweepRate_form (h : Hub) (raw : Bool) (c inst num den words cause : Nat) :
    (h.sweepRate raw c inst num den words cause).form = h.form := by
  simp only [Hub.sweepRate, ↓Hub.sweepPut_form]

theorem Hub.churnMismatch_form (h : Hub) (d e : Nat) : (h.churnMismatch d e).form = h.form := by
  simp only [Hub.churnMismatch, ↓Hub.engineFail_form, ↓Hub.event_form, ↓Hub.setDie_form, ↓Hub.tick_form, ↓apply_ite Hub.form, ite_self,
    modAt]

theorem Hub.churnCapture_form (h : Hub) (raw : Bool) (c next : Nat) : (h.churnCapture raw c next).form = h.form := by
  unfold Hub.churnCapture
  split <;> simp only [↓Hub.setCh_form, ↓Hub.form_update, ↓apply_ite Hub.form, ite_self]

theorem Hub.churnClose_form (h : Hub) (raw : Bool) (c : Nat) : (h.churnClose raw c).form = h.form := by
  unfold Hub.churnClose
  split <;> simp only [↓Hub.churnCapture_form, ↓Hub.churnMismatch_form, ↓Hub.setCh_form, ↓Hub.sweepPut_form, ↓Hub.tick_form, ↓apply_ite
    Hub.form, ite_self]

theorem Hub.churnBreak_form (h : Hub) (raw : Bool) (c : Nat) : (h.churnBreak raw c).form = h.form := by
  simp only [Hub.churnBreak, ↓Hub.churnClose_form, ↓Hub.setCh_form]

theorem Hub.churnEra_form (h : Hub) (raw : Bool) (c b : Nat) : (h.churnEra raw c b).form = h.form := by
  unfold Hub.churnEra
  split <;> simp only [↓Hub.churnBreak_form, ↓apply_ite Hub.form, ite_self]

theorem Hub.churnTake_form (h : Hub) (raw : Bool) (c idx inst : Nat) (x : Sample) : (h.churnTake raw c idx inst x).form = h.form := by
  unfold Hub.churnTake
  dsimp only
  repeat' split
  all_goals simp only [↓Hub.churnCapture_form, ↓Hub.churnClose_form, ↓Hub.churnEra_form, ↓Hub.setCh_form, ↓Hub.setFlow_form]

theorem Hub.flowBreak_form (h : Hub) (k : FlowKey) : (h.flowBreak k).form = h.form := by
  simp only [Hub.flowBreak, ↓Hub.churnBreak_form, ↓forAll_form, ↓apply_ite Hub.form, ite_self, implies_true]

theorem Hub.allBreak_form (h : Hub) : h.allBreak.form = h.form := by
  simp only [Hub.allBreak, ↓Hub.flowBreak_form, ↓forAll_form, implies_true]

theorem Hub.flowEra_form (h : Hub) (k : FlowKey) (b : Nat) : (h.flowEra k b).form = h.form := by
  simp only [Hub.flowEra, ↓Hub.churnEra_form, ↓forAll_form, ↓apply_ite Hub.form, ite_self, implies_true]

theorem Hub.dropBlocks_form (h : Hub) (k : FlowKey) (s : Nat) : (h.dropBlocks k s).form = h.form := by
  refine forAll_form _ (fun c g => forAll_form _ (fun raw g => ?_) _ _) _ _
  split
  · rfl
  · split
    · rfl
    · simp only [↓Hub.setCh_form, ↓apply_ite Hub.form, ↓Hub.setFlow_form, ite_self]

theorem Hub.leave_form (raw : Bool) (c : Nat) (h : Hub) : (Hub.leave raw c h).form = h.form := by
  simp only [Hub.leave, ↓Hub.churnBreak_form, ↓Hub.churnCapture_form, ↓Hub.setCh_form]

theorem Hub.sweepFlow_form (h : Hub) (k : FlowKey) : (h.sweepFlow k).form = h.form := by
  unfold Hub.sweepFlow
  split <;> simp only [↓Hub.dropBlocks_form, ↓Hub.flowBreak_form, ↓Hub.flowBuilt_form, ↓Hub.flowEra_form, ↓Hub.leave_form,
    ↓Hub.setFlow_form, ↓forAll_form, ↓apply_ite Hub.form, ite_self, implies_true]

/-! ### Capture -/

theorem Hub.setCap_form (h : Hub) (n : Nat) (f : Capture → Capture) : (h.setCap n f).form = h.form := by
  simp only [Hub.setCap, ↓Hub.form_update, modAt, List.length_modify]

theorem Hub.reserveDie_form (n : Nat) (eval : Bool) (d : Nat) (h : Hub) : (Hub.reserveDie n eval d h).form = h.form := by
  unfold Hub.reserveDie
  repeat' split
  all_goals simp only [↓Hub.notice_form, ↓Hub.setCap_form, modAll_length, ↓Hub.form_update, ↓apply_ite Hub.form, ite_self]

theorem Hub.reserve_form (h : Hub) (n : Nat) : (h.reserve n).form = h.form := by
  unfold Hub.reserve
  split <;> simp only [↓Hub.reserveDie_form, ↓forAll_form, implies_true]

theorem Hub.retryWait_form (h : Hub) (d : Nat) : (h.retryWait d).form = h.form := by
  refine forAll_form _ (fun n g => ?_) _ _
  split <;> simp only [↓apply_ite Hub.form, ↓Hub.reserveDie_form, ite_self]

theorem Hub.setCoach_form (h : Hub) (d seq : Nat) (f : Coach → Coach) : (h.setCoach d seq f).form = h.form := by
  simp only [Hub.setCoach, ↓Hub.setDie_form]

theorem Hub.needFlow_form (h : Hub) (k : FlowKey) (dest : Dest) : (h.needFlow k dest).form = h.form := by
  unfold Hub.needFlow
  split <;> simp only [↓Hub.setFlow_form, ↓Hub.form_update]

theorem Hub.coachRecord_form (h : Hub) (k : FlowKey) (stream first : Nat) (b : Bytes) :
    (h.coachRecord k stream first b).1.form = h.form := by
  unfold Hub.coachRecord
  split
  · rfl
  · exact h.setFlow_form _ _

theorem Hub.sendCoach_form (h : Hub) (d : Nat) (c : Coach) : (h.sendCoach d c).form = h.form := by
  unfold Hub.sendCoach
  simp only [↓Hub.setCoach_form, ↓Hub.coachRecord_form]
  split
  · simp only [↓apply_ite Hub.form, ↓Hub.setDie_form, ↓Hub.coachRecord_form, ite_self]
  · rfl

theorem Hub.sendWanted_form (h : Hub) (d : Nat) : (h.sendWanted d).form = h.form := by
  simp only [Hub.sendWanted, ↓Hub.flowTouch_form, ↓Hub.sendCoach_form, ↓forAll_form, ↓apply_ite Hub.form, ite_self, implies_true]

theorem Hub.freeCoach_form (h : Hub) (d seq : Nat) : (h.freeCoach d seq).form = h.form := by
  simp only [Hub.freeCoach, ↓Hub.setCoach_form]

theorem Hub.disarm_form (h : Hub) (n : Nat) : (h.disarm n).form = h.form := by
  simp only [Hub.disarm, ↓Hub.retryWait_form, modAll_length, ↓forAll_form, ↓Hub.form_update, modAt, List.length_modify, implies_true]

theorem Hub.trainDone_form (h : Hub) (n : Nat) : (h.trainDone n).form = h.form := by
  unfold Hub.trainDone
  repeat' split
  all_goals simp only [↓Hub.disarm_form, ↓Hub.notice_form, ↓Hub.reserve_form, ↓Hub.sendWanted_form, ↓Hub.setCap_form, ↓Hub.setDie_form,
    ↓forAll_form, implies_true]

theorem Hub.coachPayload_form (h : Hub) (c : Coach) : (h.coachPayload c).1.form = h.form := by
  unfold Hub.coachPayload
  split
  · rfl
  · simp only [↓iter_form, ↓Hub.churnMismatch_form, ↓Hub.form_update, ↓Hub.setCh_form, implies_true]

theorem Hub.coachDone_form (h : Hub) (d seq : Nat) : (h.coachDone d seq).form = h.form := by
  unfold Hub.coachDone
  split
  · rfl
  · next c _ =>
    have paid := h.coachPayload_form c
    generalize h.coachPayload c = formed at paid ⊢
    obtain ⟨g, pay, churn⟩ := formed
    simp only [↓Hub.trainDone_form, ↓apply_ite Hub.form, ↓Hub.retryWait_form, ↓Hub.setCap_form, ↓Hub.setCoach_form, ite_self]
    exact paid

theorem Hub.trigLate_form (h : Hub) (t who limit : Nat) : (h.trigLate t who limit).form = h.form := by
  simp only [Hub.trigLate, ↓Hub.eventAt_form]

theorem Hub.startCoach_form (n : Nat) (t : Trigger) (trainId missed : Nat) (y : CapChan) (h : Hub) :
    (Hub.startCoach n t trainId missed y h).form = h.form := by
  unfold Hub.startCoach
  split <;> simp only [↓Hub.setCap_form, ↓Hub.setCh_form, ↓Hub.setDie_form, ↓Hub.trigLate_form, ↓Hub.form_update, ↓apply_ite Hub.form,
    ite_self]

theorem Hub.coachFull_form (n c : Nat) (h : Hub) : (Hub.coachFull n c h).form = h.form := by
  unfold Hub.coachFull
  split <;> simp only [↓Hub.coachDone_form, ↓apply_ite Hub.form, ite_self]

theorem Hub.capJoin_form (h : Hub) (n id source : Nat) (c : Capture) : (h.capJoin n id source c).form = h.form := by
  simp only [Hub.capJoin, ↓Hub.setCap_form, ↓Hub.setDie_form, ↓forAll_form, implies_true]

theorem Hub.capHit_form (n : Nat) (t : Trigger) (h : Hub) : (Hub.capHit n t h).form = h.form := by
  unfold Hub.capHit
  repeat' split
  all_goals simp only [↓Hub.capJoin_form, ↓Hub.coachFull_form, ↓Hub.setCap_form, ↓Hub.startCoach_form, ↓Hub.trainDone_form, ↓forAll_form,
    ↓Hub.form_update, implies_true]

theorem Hub.capFire_form (h : Hub) (t : Trigger) (sel : CapParams → Bool) : (h.capFire t sel).form = h.form := by
  refine forAll_form _ (fun n g => ?_) _ _
  split <;> simp only [↓apply_ite Hub.form, ↓Hub.capHit_form, ite_self]

theorem Hub.capTake_form (n c idx : Nat) (v0 v1 : Int) (flags : Byte) (h : Hub) : (Hub.capTake n c idx v0 v1 flags h).form = h.form := by
  unfold Hub.capTake
  split
  · rfl
  · split
    · rfl
    · extract_lets d p step f out a b all rt u fm u' s keep y' g
      have kept : g.form = h.form := h.setCap_form _ _
      split
      · exact kept
      · split
        · exact kept
        · split
          · exact kept
          · dsimp only
            split
            · rw [Hub.coachDone_form, Hub.setCoach_form, kept]
            · rw [Hub.setCoach_form, kept]

theorem Hub.capFeed_form (h : Hub) (src c idx : Nat) (v0 v1 : Int) (flags : Byte) : (h.capFeed src c idx v0 v1 flags).form = h.form := by
  refine forAll_form _ (fun n g => ?_) _ _
  split <;> simp only [↓apply_ite Hub.form, ↓Hub.capTake_form, ite_self]

theorem Hub.cutCoach_form (h : Hub) (n c : Nat) : (h.cutCoach n c).form = h.form := by
  unfold Hub.cutCoach
  split <;> simp only [↓Hub.coachDone_form, ↓Hub.retryWait_form, ↓Hub.setCap_form, ↓Hub.setCoach_form, ↓Hub.setDie_form,
    ↓Hub.trainDone_form, ↓apply_ite Hub.form, ite_self]

theorem Hub.capRate_form (h : Hub) (src c : Nat) : (h.capRate src c).form = h.form := by
  refine forAll_form _ (fun n g => ?_) _ _
  split <;> simp only [↓apply_ite Hub.form, ↓Hub.setCap_form, ↓Hub.cutCoach_form, ite_self]

theorem Hub.cutFilling_form (h : Hub) : h.cutFilling.form = h.form := by
  refine forAll_form _ (fun n g => ?_) _ _
  split <;> simp only [↓Hub.setCap_form, ↓forAll_form, ↓Hub.cutCoach_form, implies_true]

/-! ### Time -/

theorem cycle_form (h : Hub) : (cycle h).form = h.form := by
  unfold cycle
  dsimp only
  split
  · simp only [Hub.tick, ↓Hub.form_update]
  · split <;> simp only [↓Hub.form_update]

theorem Hub.stepRecord_form (h : Hub) (c : Int) (remPs : Int) : (h.stepRecord c remPs).form = h.form := by
  simp only [Hub.stepRecord, ↓Hub.mapCh_form, ↓Hub.notice_form, ↓Hub.setTm_form]

theorem Hub.countStep_form (h : Hub) (c : Int) (remPs : Int) : (h.countStep c remPs).form = h.form := by
  simp only [Hub.countStep, ↓Hub.allBreak_form, ↓Hub.cutFilling_form, ↓Hub.dropBlocks_form, ↓Hub.flowBuilt_form, ↓Hub.mapCh_form,
    ↓Hub.sclkHold_form, ↓Hub.sclkStart_form, ↓Hub.stepRecord_form, ↓Hub.setTm_form, ↓forAll_form, ↓Hub.form_update, ↓apply_ite Hub.form,
    ite_self, List.length_map, implies_true]

theorem Hub.loadSec_form (h : Hub) (loaded counted : Nat) : (h.loadSec loaded counted).form = h.form := by
  simp only [Hub.loadSec, ↓Hub.countStep_form]

theorem Hub.stepTime_form (h : Hub) (s : Int) : (h.stepTime s).form = h.form := by
  simp only [Hub.stepTime, ↓Hub.mapCh_form, ↓Hub.stepRecord_form, ↓Hub.setTm_form, ↓Hub.form_update, ↓apply_ite Hub.form, ite_self]

theorem Hub.startRelock_form (h : Hub) : h.startRelock.form = h.form := by
  simp only [Hub.startRelock, ↓Hub.sclkHold_form, ↓Hub.setAlign_form, ↓Hub.setTm_form, ↓forAll_form, ↓Hub.form_update, ↓apply_ite Hub.form,
    ite_self, implies_true]

theorem Hub.copyBase_form (h : Hub) (b : Nat) : (h.copyBase b).form = h.form := by
  unfold Hub.copyBase
  split <;> simp only [↓Hub.setBase_form]

theorem Hub.takeSource_form (h : Hub) (s : Source) : (h.takeSource s).form = h.form := by
  unfold Hub.takeSource
  split <;> simp only [↓Hub.copyBase_form, ↓Hub.setAlign_form, ↓Hub.setBase_form, ↓Hub.setTm_form, ↓apply_ite Hub.form, ite_self]

theorem Hub.evalSource_form (h : Hub) : h.evalSource.form = h.form := by
  simp only [Hub.evalSource, ↓Hub.startRelock_form, ↓Hub.takeSource_form, ↓apply_ite Hub.form, ite_self]

theorem Hub.discardNotes_form (h : Hub) : h.discardNotes.form = h.form := by
  simp only [Hub.discardNotes, ↓Hub.notice_form, ↓Hub.setFlow_form, ↓forAll_form, implies_true]

theorem Hub.arraySecond_form (h : Hub) : h.arraySecond.form = h.form := by
  unfold Hub.arraySecond
  extract_lets n h1 c h2 counted load h3 era h4 h5 h6 h7 was h8 h9
  split
  · rfl
  · have step : h2.form = h.form := by
      unfold h2 h1
      simp only [↓apply_ite Hub.form, ↓Hub.countStep_form, ↓Hub.setTm_form, ite_self]
    have loaded : h3.form = h2.form := by
      unfold h3
      simp only [↓apply_ite Hub.form, ↓Hub.loadSec_form, ↓Hub.setTm_form, ite_self]
    have aligned : h4.form = h3.form := by
      unfold h4
      simp only [↓apply_ite Hub.form, ↓Hub.setAlign_form, ite_self]
    have configured : h5.form = h4.form := by
      unfold h5
      split
      · simp only [↓apply_ite Hub.form, ↓Hub.startRelock_form, ↓Hub.setTm_form, ite_self]
      · rfl
    have swept : h7.form = h5.form := by
      unfold h7 h6
      simp only [↓forAll_form, ↓Hub.sweepFlow_form, ↓Hub.evalSource_form, implies_true]
    have counted : h9.form = h7.form := by
      unfold h9 h8
      simp only [↓Hub.form_update, List.length_map]
    simp only [↓Hub.discardNotes_form, ↓forAll_form, ↓Hub.flowBuilt_form, implies_true]
    rw [counted, swept, configured, aligned, loaded, step]

theorem Hub.setPps_form (h : Hub) (i : Nat) (f : PpsIn → PpsIn) : (h.setPps i f).form = h.form := by
  unfold Hub.setPps
  split <;> simp only [↓Hub.setTm_form]

theorem Hub.chooseActive_form (h : Hub) : h.chooseActive.form = h.form := by
  unfold Hub.chooseActive
  dsimp only
  repeat' split
  all_goals simp only [↓Hub.notice_form, ↓Hub.setTm_form]

theorem Hub.checkSplit_form (h : Hub) (i : Nat) : (h.checkSplit i).form = h.form := by
  simp only [Hub.checkSplit, ↓Hub.setTm_form, ↓apply_ite Hub.form, ite_self]

theorem Hub.checkCoherent_form (h : Hub) (interval : Option Nat) : (h.checkCoherent interval).form = h.form := by
  unfold Hub.checkCoherent
  split <;> simp only [↓Hub.setBase_form, ↓Hub.setTm_form, ↓apply_ite Hub.form, ite_self]

theorem Hub.correct_form (h : Hub) (e : Int) (lane : Bool) : (h.correct e lane).form = h.form := by
  simp only [Hub.correct, ↓Hub.setAlign_form, ↓Hub.stepTime_form, ↓Hub.setTm_form, ↓apply_ite Hub.form, ite_self]

theorem Hub.ppsAccept_form (h : Hub) (i t : Nat) (interval : Option Nat) : (h.ppsAccept i t interval).form = h.form := by
  simp only [Hub.ppsAccept, ↓Hub.checkCoherent_form, ↓Hub.checkSplit_form, ↓Hub.chooseActive_form, ↓Hub.correct_form, ↓Hub.loadSec_form,
    ↓Hub.setBase_form, ↓Hub.setPps_form, ↓Hub.setTm_form, ↓apply_ite Hub.form, ite_self]

theorem Hub.ppsEdge_form (h : Hub) (i : Nat) (fu : Int) : (h.ppsEdge i fu).form = h.form := by
  unfold Hub.ppsEdge
  dsimp only
  repeat' split
  all_goals simp only [↓Hub.ppsAccept_form, ↓Hub.setPps_form]

theorem Hub.ppsDrop_form (h : Hub) (i : Nat) : (h.ppsDrop i).form = h.form := by
  unfold Hub.ppsDrop
  split <;> simp only [↓Hub.chooseActive_form, ↓Hub.notice_form, ↓Hub.setBase_form, ↓Hub.setPps_form, ↓Hub.setTm_form, ↓apply_ite Hub.form,
    ite_self]

theorem Hub.ppsLost_form (h : Hub) (i : Nat) : (h.ppsLost i).form = h.form := by
  simp only [Hub.ppsLost, ↓Hub.ppsDrop_form, ↓apply_ite Hub.form, ite_self]

theorem Hub.tiuEdge_form (h : Hub) (d n : Nat) : (h.tiuEdge d n).form = h.form := by
  unfold Hub.tiuEdge
  split <;> simp only [↓Hub.setDie_form]

theorem Hub.marker_form (h : Hub) (fine : List Int) : (h.marker fine).form = h.form := by
  unfold Hub.marker
  dsimp only
  repeat' split
  all_goals simp only [↓Hub.correct_form, ↓Hub.countStep_form, ↓Hub.loadSec_form, ↓Hub.setPort_form, ↓Hub.tiuEdge_form, ↓Hub.setTm_form]

theorem Hub.markLost_form (h : Hub) : h.markLost.form = h.form := by
  unfold Hub.markLost
  split <;> simp only [↓Hub.setTm_form, ↓apply_ite Hub.form, ite_self]

theorem Hub.laneAway_form (h : Hub) (a : Align) : (h.laneAway a).form = h.form := by
  simp only [Hub.laneAway, ↓Hub.setAlign_form, ↓Hub.setTm_form, ↓apply_ite Hub.form, ite_self]

theorem Hub.markLostTimeout_form (h : Hub) : h.markLostTimeout.form = h.form := by
  simp only [Hub.markLostTimeout, ↓Hub.laneAway_form, ↓apply_ite Hub.form, ite_self]

theorem Hub.linkGone_form (h : Hub) : h.linkGone.form = h.form := by
  simp only [Hub.linkGone, ↓Hub.laneAway_form, ↓apply_ite Hub.form, ite_self]

theorem Hub.clockLoss_form (h : Hub) : h.clockLoss.form = h.form := by
  simp only [Hub.clockLoss, ↓Hub.laneAway_form, ↓Hub.setPort_form, ↓Hub.setTm_form]

theorem Hub.delayTick_form (h : Hub) (p rttPs : Nat) : (h.delayTick p rttPs).form = h.form := by
  simp only [Hub.delayTick, ↓Hub.ctl_form, ↓Hub.notice_form, ↓Hub.setPort_form, ↓Hub.tiuEdge_form, ↓apply_ite Hub.form, ite_self]

theorem Hub.slew_form (h : Hub) : h.slew.form = h.form := by
  simp only [Hub.slew, ↓Hub.setAlign_form, ↓Hub.setTm_form, ↓apply_ite Hub.form, ite_self]

theorem Hub.tinEdge_form (h : Hub) (i : Nat) (falling : Bool) (ago : Nat) : (h.tinEdge i falling ago).form = h.form := by
  unfold Hub.tinEdge
  simp only [↓Hub.emitRecord_form, ↓Hub.tiuEdge_form, ↓Hub.setTm_form, ↓apply_ite Hub.form, ite_self, modAt, List.length_modify]

theorem Hub.firstEdge_form (h : Hub) : h.firstEdge.form = h.form := by
  simp only [Hub.firstEdge, ↓Hub.mapCh_form, ↓Hub.setAlign_form, ↓Hub.takeSource_form, ↓Hub.setTm_form, ↓Hub.form_update, ↓apply_ite
    Hub.form, ite_self]

theorem Hub.sclkValid_form (h : Hub) : h.sclkValid.form = h.form := by
  unfold Hub.sclkValid
  repeat' split
  all_goals simp only [↓Hub.firstEdge_form, ↓Hub.notice_form, ↓Hub.sclkStart_form, ↓forAll_form, ↓Hub.form_update, implies_true]

theorem Hub.relock_form (h : Hub) : h.relock.form = h.form := by
  simp only [Hub.relock, ↓Hub.startRelock_form, ↓Hub.form_update, ↓apply_ite Hub.form, ite_self]

theorem Hub.refclkLoss_form (h : Hub) : h.refclkLoss.form = h.form := by
  simp only [Hub.refclkLoss, ↓Hub.setAlign_form, ↓Hub.setTm_form, ↓Hub.form_update, ↓apply_ite Hub.form, ite_self]

theorem Hub.relockTimeout_form (h : Hub) : h.relockTimeout.form = h.form := by
  unfold Hub.relockTimeout
  split <;> simp only [↓Hub.notice_form, ↓Hub.form_update, ↓apply_ite Hub.form, ite_self]

theorem Hub.relockRetry_form (h : Hub) : h.relockRetry.form = h.form := by
  unfold Hub.relockRetry
  split <;> simp only [↓Hub.form_update, ↓apply_ite Hub.form, ite_self]

theorem Hub.arm_form (h : Hub) : h.arm.form = h.form := by
  unfold Hub.arm
  rw [Hub.setTm_form]
  split <;> rfl

theorem Hub.readSecLo_form (h : Hub) (r : Route) : (h.readSecLo r).form = h.form := by
  unfold Hub.readSecLo
  split <;> simp only [↓Hub.setTm_form, ↓Hub.form_update]

theorem Hub.timeGet_form (h : Hub) : h.timeGet.form = h.form := by
  simp only [Hub.timeGet, ↓Hub.ok_form, ↓Hub.setTm_form]

theorem Hub.timeSet_form (h : Hub) (sec : BitVec 48) : (h.timeSet sec).form = h.form := by
  simp only [Hub.timeSet, ↓Hub.ok_form, ↓Hub.refuse_form, ↓Hub.setTm_form, ↓apply_ite Hub.form, ite_self]

theorem Hub.timeCfgSet_form (h : Hub) (w : Word) : (h.timeCfgSet w).form = h.form := by
  simp only [Hub.timeCfgSet, ↓Hub.ok_form, ↓Hub.refuse_form, ↓Hub.setTm_form, ↓apply_ite Hub.form, ite_self]

theorem Hub.timeCfgGet_form (h : Hub) : h.timeCfgGet.form = h.form := by
  simp only [Hub.timeCfgGet, ↓Hub.ok_form]

theorem Hub.timePpsSet_form (h : Hub) (a b : Word) : (h.timePpsSet a b).form = h.form := by
  simp only [Hub.timePpsSet, ↓Hub.ok_form, ↓Hub.setTm_form]

theorem Hub.timeAsymSet_form (h : Hub) (p : Nat) (v : Word) : (h.timeAsymSet p v).form = h.form := by
  simp only [Hub.timeAsymSet, ↓Hub.ok_form, ↓Hub.refuse_form, ↓Hub.setPort_form, ↓Hub.onDies_form, ↓apply_ite Hub.form, ite_self]

theorem Hub.timeTinSet_form (h : Hub) (i : Nat) (w : Word) : (h.timeTinSet i w).form = h.form := by
  simp only [Hub.timeTinSet, ↓Hub.ok_form, ↓Hub.refuse_form, ↓Hub.setTm_form, ↓apply_ite Hub.form, ite_self, modAt, List.length_modify]

theorem Hub.timeTinGet_form (h : Hub) (i : Nat) : (h.timeTinGet i).form = h.form := by
  simp only [Hub.timeTinGet, ↓Hub.ok_form, ↓Hub.refuse_form, ↓apply_ite Hub.form, ite_self]

theorem Tm.corHeard_tins (t : Tm) (now : Nat) : (t.corHeard now).tins = t.tins := by unfold Tm.corHeard; rfl

theorem Hub.timecorS_form (h : Hub) (step : Int) : (h.timecorS step).form = h.form := by
  simp only [Hub.timecorS, ↓apply_ite Hub.form, ↓forAll_form, ↓Hub.ctl_form, ↓Hub.setTm_form, Tm.corHeard_tins, ite_self, implies_true]

/-! ### Reduce -/

theorem Hub.redClose_form (h : Hub) (c : Nat) (part : Bool) : (h.redClose c part).form = h.form := by
  unfold Hub.redClose
  dsimp only
  repeat' split
  all_goals simp only [↓Hub.emitSince_form, ↓Hub.setCh_form]

theorem Hub.skimTurn_form (h : Hub) (c j : Nat) : (h.skimTurn c j).form = h.form := by
  unfold Hub.skimTurn
  dsimp only
  repeat' split
  all_goals simp only [↓Hub.churnBreak_form, ↓Hub.setCh_form, ↓Hub.sweepRate_form]

theorem Hub.redTake_form (h : Hub) (c j : Nat) (v0 v1 : Int) (f : Byte) : (h.redTake c j v0 v1 f).form = h.form := by
  simp only [Hub.redTake, ↓Hub.redClose_form, ↓Hub.setCh_form, ↓Hub.skimTurn_form, ↓apply_ite Hub.form, ite_self]

theorem Hub.redDue_form (h : Hub) (c : Nat) : (h.redDue c).form = h.form := by
  unfold Hub.redDue
  dsimp only
  repeat' split
  all_goals simp only [↓Hub.redClose_form]

/-! ### Streams -/

theorem Hub.rawReassign_form (h : Hub) : h.rawReassign.form = h.form := by
  refine forAll_form _ (fun k g => ?_) _ _
  dsimp only
  split
  · simp only [Hub.setFlow, ↓Hub.form_update]
  · simp only [Hub.setFlow, ↓apply_ite Hub.form, ↓Hub.notice_form, ↓Hub.form_update, ite_self]

theorem Hub.strmRawGroup_form (h : Hub) (ports : List Nat) : (h.strmRawGroup ports).form = h.form := by
  simp only [Hub.strmRawGroup, ↓Hub.ok_form, ↓Hub.rawReassign_form, ↓Hub.refuse_form, ↓Hub.onDies_form, ↓Hub.form_update, ↓apply_ite
    Hub.form, ite_self]

theorem Hub.skimOn_form (c : Nat) (h : Hub) : (Hub.skimOn c h).form = h.form := by
  simp only [Hub.skimOn, ↓Hub.setCh_form, ↓apply_ite Hub.form, ite_self]

theorem Hub.skimOff_form (c : Nat) (h : Hub) : (Hub.skimOff c h).form = h.form := by
  simp only [Hub.skimOff, ↓Hub.churnBreak_form, ↓Hub.redClose_form, ↓Hub.setCh_form, ↓Hub.sweepRate_form, ↓apply_ite Hub.form, ite_self]

theorem Hub.rawOn_form (chs : List Nat) (h : Hub) : (Hub.rawOn chs h).form = h.form := by
  simp only [Hub.rawOn, ↓Hub.reSweep_form, ↓Hub.setFlow_form, ↓Hub.sweepRate_form, modAll_length, ↓forAll_form, ↓Hub.form_update,
    ↓apply_ite Hub.form, ite_self, implies_true]

theorem Hub.rawOff_form (c : Nat) (h : Hub) : (Hub.rawOff c h).form = h.form := by
  simp only [Hub.rawOff, ↓Hub.churnBreak_form, ↓Hub.setCh_form, ↓Hub.sweepRate_form, ↓apply_ite Hub.form, ite_self]

theorem Hub.strmSet_form (h : Hub) (kind en : Nat) (chs : List Nat) : (h.strmSet kind en chs).form = h.form := by
  unfold Hub.strmSet
  split
  · exact h.refuse_form _
  · refine h.onDies_form _ _ ?_
    simp only [↓apply_ite Hub.form, ↓Hub.checked_form, ↓Hub.ok_form, ↓Hub.refuse_form, ↓Hub.rawReassign_form, ↓forAll_form,
      ↓Hub.reSweep_form, ↓Hub.skimOn_form, ↓Hub.skimOff_form, ↓Hub.rawOn_form, ↓Hub.rawOff_form, ite_self, implies_true]

theorem Hub.toLocal_form (h : Hub) (k : FlowKey) : (h.toLocal k).form = h.form := by
  simp only [Hub.toLocal, ↓Hub.flowTouch_form, ↓Hub.ok_form, ↓Hub.refuse_form, ↓Hub.setFlow_form, ↓Hub.form_update, ↓apply_ite Hub.form,
    ite_self]

theorem Hub.doneLocal_form (h : Hub) : h.doneLocal.form = h.form := by
  unfold Hub.doneLocal
  split <;> simp only [↓Hub.setFlow_form, ↓apply_ite Hub.form, ite_self]

theorem Hub.toPort_form (h : Hub) (k : FlowKey) (p : Nat) : (h.toPort k p).form = h.form := by
  simp only [Hub.toPort, ↓Hub.flowTouch_form, ↓Hub.setFlow_form, ↓Hub.form_update, ↓apply_ite Hub.form, ite_self]

theorem Hub.strmRoute_form (h : Hub) (flow p : Nat) : (h.strmRoute flow p).form = h.form := by
  simp only [Hub.strmRoute, ↓Hub.ok_form, ↓Hub.refuse_form, ↓Hub.toLocal_form, ↓Hub.toPort_form, ↓Hub.onDies_form, ↓apply_ite Hub.form,
    ite_self]

theorem Hub.strmLocal_form (h : Hub) (flow : Nat) : (h.strmLocal flow).form = h.form := by
  unfold Hub.strmLocal
  repeat' split
  all_goals simp only [↓Hub.ok_form, ↓Hub.toLocal_form, ↓Hub.toPort_form]

theorem Hub.drainLocal_form (h : Hub) : h.drainLocal.form = h.form := by
  unfold Hub.drainLocal
  split
  · rfl
  · split
    · rfl
    · split
      · rfl
      · simp only [↓Hub.form_update, Hub.setFlow]

theorem Hub.drainFull_form (n : Nat) (h : Hub) : (Hub.drainFull n h).form = h.form := by
  induction n generalizing h with
  | zero => rfl
  | succ n ih => simp only [Hub.drainFull, ↓apply_ite Hub.form, ih, ↓Hub.drainLocal_form, ↓Hub.doneLocal_form, ite_self]

theorem Hub.readLocal_form (h : Hub) : h.readLocal.form = h.form := by
  unfold Hub.readLocal
  dsimp only
  split
  · simp only [↓Hub.watermarks_form, ↓Hub.form_update, ↓Hub.doneLocal_form]
  · split <;> simp only [↓Hub.watermarks_form, ↓Hub.form_update, ↓Hub.drainFull_form]

theorem Hub.freeAcked_form (h : Hub) (k : FlowKey) (gone : Word → Bool) : (h.freeAcked k gone).form = h.form := by
  simp only [Hub.freeAcked, ↓Hub.freeCoach_form, ↓Hub.retryWait_form, ↓forAll_form, ↓apply_ite Hub.form, ite_self, implies_true]

theorem Hub.ackEntry_form (e : AckEntry) (h : Hub) : (Hub.ackEntry e h).form = h.form := by
  unfold Hub.ackEntry
  dsimp only
  repeat' split
  all_goals simp only [↓Hub.flowTouch_form, ↓Hub.freeAcked_form, ↓Hub.setFlow_form]

theorem Hub.strmAck_form (h : Hub) (r : Route) (es : List AckEntry) : (h.strmAck r es).form = h.form := by
  simp only [Hub.strmAck, ↓Hub.ackEntry_form, ↓Hub.ok_form, ↓Hub.refuse_form, ↓forAll_form, ↓apply_ite Hub.form, ite_self, implies_true]

theorem Hub.flushFlow_form (hard : Bool) (k : FlowKey) (h : Hub) : (Hub.flushFlow hard k h).form = h.form := by
  unfold Hub.flushFlow
  split
  · rfl
  · simp only [Hub.setFlow, ↓apply_ite Hub.form, ↓Hub.flowBuilt_form, ↓Hub.freeAcked_form, ↓Hub.mapCh_form, ↓Hub.form_update,
      ite_self]

theorem Hub.strmFlush_form (h : Hub) (kind : Nat) (flows : List Nat) : (h.strmFlush kind flows).form = h.form := by
  simp only [Hub.strmFlush, ↓Hub.flushFlow_form, ↓Hub.ok_form, ↓Hub.refuse_form, ↓forAll_form, ↓apply_ite Hub.form, ite_self, implies_true]

theorem Hub.strmWmSet_form (h : Hub) (p : Nat) (w : Word) : (h.strmWmSet p w).form = h.form := by
  simp only [Hub.strmWmSet, ↓Hub.ok_form, ↓Hub.refuse_form, ↓Hub.setPort_form, ↓Hub.watermarks_form, ↓Hub.onDies_form, ↓Hub.form_update,
    ↓apply_ite Hub.form, ite_self]

theorem Hub.strmWmGet_form (h : Hub) (p : Nat) : (h.strmWmGet p).form = h.form := by
  simp only [Hub.strmWmGet, ↓Hub.ok_form, ↓Hub.refuse_form, ↓Hub.onDies_form, ↓apply_ite Hub.form, ite_self]

theorem Hub.fciHolds_form (h : Hub) : h.fciHolds.form = h.form := by
  simp only [Hub.fciHolds, ↓Hub.form_update, List.length_mapIdx]

theorem Hub.strmFcSet_form (h : Hub) (pair : Nat) (w : Word) : (h.strmFcSet pair w).form = h.form := by
  simp only [Hub.strmFcSet, ↓Hub.fciHolds_form, ↓Hub.ok_form, ↓Hub.refuse_form, ↓Hub.watermarks_form, ↓Hub.onDies_form, ↓Hub.form_update,
    ↓apply_ite Hub.form, ite_self, modAt, List.length_modify]

theorem Hub.fci_form (h : Hub) (pin : Nat) (level : Bool) : (h.fci pin level).form = h.form := by
  simp only [Hub.fci, ↓Hub.fciHolds_form, ↓Hub.form_update, modAt, List.length_modify]

theorem Hub.strmXstat_form (h : Hub) (dies : List Nat) : (h.strmXstat dies).form = h.form := by
  simp only [Hub.strmXstat, ↓Hub.ok_form, ↓Hub.setDie_form, ↓Hub.readMask_form, ↓forAll_form, implies_true]

theorem Hub.xing_form (h : Hub) : h.xing.form = h.form := by
  simp only [Hub.xing, ↓Hub.notice_form, ↓forAll_form, ↓apply_ite Hub.form, ite_self, implies_true]

theorem Hub.strmCfgSet_form (h : Hub) (w : Word) : (h.strmCfgSet w).form = h.form := by
  simp only [Hub.strmCfgSet, ↓Hub.ok_form, ↓Hub.refuse_form, ↓Hub.form_update, ↓apply_ite Hub.form, ite_self]

/-! ### LinkOps -/

theorem Hub.queue_form (h : Hub) (p : Nat) (f : Frame) : (h.queue p f).form = h.form := by
  simp only [Hub.queue, ↓Hub.setLink_form, modAt]

theorem Hub.originate_form (h : Hub) (cls kind : Nat) (body : Bytes) : (h.originate cls kind body).form = h.form := by
  simp only [Hub.originate, ↓Hub.queue_form, ↓apply_ite Hub.form, ite_self]

/-! ### Trigger -/

theorem Hub.arrAct_form (h : Hub) (m : ArrMsg) : (h.arrAct m).form = h.form := by
  simp only [Hub.arrAct, ↓Hub.capFire_form, ↓Hub.trigLate_form, ↓Hub.form_update, ↓apply_ite Hub.form, ite_self]

theorem Hub.arrOriginate_form (h : Hub) (t : Trigger) (group : Nat) : (h.arrOriginate t group).form = h.form := by
  simp only [Hub.arrOriginate, ↓Hub.arrAct_form, ↓Hub.originate_form, ↓Hub.form_update, ↓apply_ite Hub.form, ite_self]

theorem Hub.detRecord_form (h : Hub) (d : Nat) (b : Bytes) : (h.detRecord d b).form = h.form := by
  simp only [Hub.detRecord, ↓Hub.emitRecord_form]

theorem Hub.konEvent_form (h : Hub) (who stamp : Nat) : (h.konEvent who stamp).form = h.form := by
  simp only [Hub.konEvent, ↓Hub.form_update, List.length_map]

theorem Hub.fire_form (h : Hub) (d source stamp missed info : Nat) (flags : Byte) (route : Word) (sel : CapParams → Bool) :
    (h.fire d source stamp missed info flags route sel).form = h.form := by
  simp only [Hub.fire, ↓Hub.arrOriginate_form, ↓Hub.capFire_form, ↓Hub.detRecord_form, ↓Hub.form_update, ↓apply_ite Hub.form, ite_self]

theorem Hub.fireChan_form (h : Hub) (c stamp missed info : Nat) (flags : Byte) (route : Word) :
    (h.fireChan c stamp missed info flags route).form = h.form := by
  simp only [Hub.fireChan, ↓Hub.fire_form, ↓Hub.konEvent_form]

theorem Hub.trigSettle_form (h : Hub) (c : Nat) (next : Option (Nat × Int × Byte)) : (h.trigSettle c next).form = h.form := by
  unfold Hub.trigSettle
  repeat' split
  all_goals simp only [↓Hub.fireChan_form, ↓Hub.setCh_form]

theorem Hub.trigTake_form (h : Hub) (c t : Nat) (x : Int) (f : Byte) : (h.trigTake c t x f).form = h.form := by
  unfold Hub.trigTake
  dsimp only
  repeat' split
  all_goals simp only [↓Hub.fireChan_form, ↓Hub.setCh_form, ↓Hub.trigSettle_form]

theorem Hub.trigSkip_form (h : Hub) (c : Nat) : (h.trigSkip c).form = h.form := by
  simp only [Hub.trigSkip, ↓Hub.trigSettle_form]

theorem Hub.trigDet_form (h : Hub) (c : Nat) (second : Bool) (t : Nat) (v : Int) (f : Byte) (skip : Bool) :
    (h.trigDet c second t v f skip).form = h.form := by
  unfold Hub.trigDet
  dsimp only
  repeat' split
  all_goals simp only [↓Hub.fireChan_form, ↓Hub.setCh_form]

theorem Hub.detTake_form (h : Hub) (c j t : Nat) (second : Bool) (v0 v1 : Int) (f : Byte) (skip : Bool) :
    (h.detTake c j t second v0 v1 f skip).form = h.form := by
  simp only [Hub.detTake, ↓Hub.detRecord_form, ↓Hub.setCh_form, ↓Hub.trigDet_form, ↓apply_ite Hub.form, ite_self]

theorem Hub.thrTake_form (h : Hub) (c t n : Nat) (v : Int) (f : Byte) : (h.thrTake c t n v f).form = h.form := by
  unfold Hub.thrTake
  dsimp only
  repeat' split
  all_goals simp only [↓Hub.detRecord_form, ↓Hub.setCh_form]

theorem Hub.trigEdge_form (h : Hub) (pin : Nat) (falling : Bool) (run : Nat) : (h.trigEdge pin falling run).form = h.form := by
  simp only [Hub.trigEdge, ↓Hub.fire_form, ↓Hub.konEvent_form, ↓Hub.form_update, ↓apply_ite Hub.form, ite_self, modAt, List.length_modify]

theorem Hub.trigPinSet_form (h : Hub) (pin : Nat) (w : Word) : (h.trigPinSet pin w).form = h.form := by
  simp only [Hub.trigPinSet, ↓Hub.ok_form, ↓Hub.refuse_form, ↓Hub.onDies_form, ↓Hub.form_update, ↓apply_ite Hub.form, ite_self, modAt,
    List.length_modify]

theorem Hub.trigPinGet_form (h : Hub) (pin : Nat) : (h.trigPinGet pin).form = h.form := by
  simp only [Hub.trigPinGet, ↓Hub.ok_form, ↓Hub.refuse_form, ↓Hub.onDies_form, ↓apply_ite Hub.form, ite_self]

theorem Hub.trigKonSet_form (h : Hub) (g pins k win lat : Nat) (route : Word) (units : List Nat) :
    (h.trigKonSet g pins k win lat route units).form = h.form := by
  simp only [Hub.trigKonSet, ↓Hub.ok_form, ↓Hub.refuse_form, ↓Hub.onDies_form, ↓Hub.form_update, ↓apply_ite Hub.form, ite_self, modAt,
    List.length_modify]

theorem Hub.konEval_form (h : Hub) (g : Nat) : (h.konEval g).form = h.form := by
  unfold Hub.konEval
  dsimp only
  repeat' split
  all_goals simp only [↓Hub.fire_form, ↓Hub.form_update, modAt, List.length_modify]

theorem Hub.trigArrSet_form (h : Hub) (groups : List Nat) (lat : Nat) : (h.trigArrSet groups lat).form = h.form := by
  simp only [Hub.trigArrSet, ↓Hub.ok_form, ↓Hub.refuse_form, ↓Hub.form_update, ↓apply_ite Hub.form, ite_self]

theorem Hub.trigForce_form (h : Hub) : h.trigForce.form = h.form := by
  simp only [Hub.trigForce, ↓Hub.fire_form, ↓Hub.ok_form]

theorem Hub.trigStatus_form (h : Hub) (clear : Nat) : (h.trigStatus clear).form = h.form := by
  simp only [Hub.trigStatus, ↓Hub.ok_form, ↓Hub.form_update, ↓apply_ite Hub.form, ite_self, List.length_map]

/-! ### Audit -/

theorem Hub.setAudit_form (h : Hub) (d : Nat) (f : Audit → Audit) : (h.setAudit d f).form = h.form := by
  simp only [Hub.setAudit, ↓Hub.setDie_form]

theorem Hub.calQueue_form (h : Hub) (o : Nat) : (h.calQueue o).form = h.form := by
  simp only [Hub.calQueue, ↓Hub.form_update, ↓apply_ite Hub.form, ite_self]

theorem Hub.urgent_form (h : Hub) (d e : Nat) : (h.urgent d e).form = h.form := by
  simp only [Hub.urgent, ↓Hub.setAudit_form]

theorem Hub.urgentChan_form (h : Hub) (c : Nat) : (h.urgentChan c).form = h.form := by
  simp only [Hub.urgentChan, ↓Hub.urgent_form]

theorem Hub.auditStore_form (h : Hub) (d e : Nat) (codes : List Int) : (h.auditStore d e codes).form = h.form := by
  unfold Hub.auditStore
  simp only [↓Hub.setAudit_form, ↓Hub.setCh_form, ↓apply_ite Hub.form, ite_self, modAt]

theorem Hub.runOn_form (h : Hub) (d e : Nat) : (h.runOn d e).form = h.form := by
  simp only [Hub.runOn, ↓Hub.setAudit_form]

theorem Hub.refBegin_form (h : Hub) (d : Nat) : (h.refBegin d).form = h.form := by
  simp only [Hub.refBegin, ↓Hub.setAudit_form, ↓Hub.urgent_form, ↓forAll_form, implies_true]

theorem Hub.refRound_form (h : Hub) (d e : Nat) (s : Int) : (h.refRound d e s).form = h.form := by
  unfold Hub.refRound
  split <;> simp only [↓Hub.setAudit_form, ↓Hub.urgent_form, ↓forAll_form, ↓apply_ite Hub.form, ite_self, implies_true]

theorem Hub.auditEntry_form (h : Hub) (d : Nat) (codes : List Int) : (h.auditEntry d codes).form = h.form := by
  unfold Hub.auditEntry
  dsimp only
  repeat' split
  all_goals simp only [↓Hub.auditStore_form, ↓Hub.refRound_form, ↓Hub.runOn_form, ↓Hub.setAudit_form]

theorem Hub.preEmption_form (h : Hub) (d : Nat) : (h.preEmption d).form = h.form := by
  simp only [Hub.preEmption, ↓Hub.setAudit_form, ↓apply_ite Hub.form, ite_self]

theorem Hub.countCompare_form (h : Hub) (c : Nat) (disagree : Bool) : (h.countCompare c disagree).form = h.form := by
  simp only [Hub.countCompare, ↓Hub.calQueue_form, ↓Hub.chanFault_form, ↓Hub.notice_form, ↓Hub.setCh_form, ↓apply_ite Hub.form, ite_self]

theorem Hub.compare_form (h : Hub) (c : Nat) : (h.compare c).form = h.form := by
  unfold Hub.compare
  extract_lets x d per at' add
  split
  · rfl
  · extract_lets k g a fault
    have kept : g.form = h.form := h.setCh_form _ _
    split
    · rfl
    · split
      · exact kept
      · split
        · extract_lets m bend tol diff bad quiet clean ad g1 g2
          have differs : g1.form = h.form := (g.setCh_form _ _).trans kept
          have counted : g2.form = h.form := (g1.setAudit_form _ _).trans differs
          simp only [↓apply_ite Hub.form, ↓Hub.record_form, ↓Hub.countCompare_form, kept, differs, counted, ite_self]
        · exact kept

theorem Hub.auditFault_form (h : Hub) (d : Nat) : (h.auditFault d).form = h.form := by
  simp only [Hub.auditFault, ↓Hub.mapCh_form, ↓Hub.notice_form, ↓Hub.setAudit_form, ↓Hub.setEngWin_form, ↓apply_ite Hub.form, ite_self]

theorem Hub.excChecks_form (h : Hub) (d : Nat) : (h.excChecks d).form = h.form := by
  unfold Hub.excChecks
  dsimp only
  repeat' split
  all_goals simp only [↓Hub.calQueue_form, ↓Hub.notice_form, ↓Hub.setCh_form]

theorem Hub.milkRun_form (h : Hub) (d : Nat) : (h.milkRun d).form = h.form := by
  simp only [Hub.milkRun, ↓Hub.auditFault_form, ↓Hub.excChecks_form, ↓Hub.notice_form, ↓Hub.setAudit_form, ↓apply_ite Hub.form, ite_self]

theorem Hub.calAuditSet_form (h : Hub) (dies : List Nat) (w : Word) : (h.calAuditSet dies w).form = h.form := by
  simp only [Hub.calAuditSet, ↓Hub.ok_form, ↓Hub.setAudit_form, ↓Hub.onMask_form, ↓forAll_form, implies_true]

theorem Hub.calAuditGet_form (h : Hub) (dies : List Nat) : (h.calAuditGet dies).form = h.form := by
  simp only [Hub.calAuditGet, ↓Hub.ok_form, ↓Hub.readMask_form, implies_true]

theorem Hub.calAuditRead_form (h : Hub) (first count : Nat) : (h.calAuditRead first count).form = h.form := by
  simp only [Hub.calAuditRead, ↓Hub.ok_form, ↓Hub.refuse_form, ↓Hub.onDies_form, ↓apply_ite Hub.form, ite_self]

theorem Hub.calAuditReq_form (h : Hub) (d : Nat) (es : List Nat) : (h.calAuditReq d es).form = h.form := by
  simp only [Hub.calAuditReq, ↓Hub.ok_form, ↓Hub.refuse_form, ↓Hub.urgent_form, ↓Hub.onDies_form, ↓forAll_form, ↓apply_ite Hub.form,
    ite_self, implies_true]

/-! ### Afe -/

theorem Hub.accept_form (h : Hub) (c : Nat) (w : ChanWrite) : (h.accept c w).form = h.form := by
  simp only [Hub.accept, ↓Hub.setCh_form, ↓Hub.form_update, ↓apply_ite Hub.form, ite_self]

theorem Hub.supposing_form (h : Hub) (chs : List Nat) (f : Desc → Desc) : (h.supposing chs f).form = h.form := by
  simp only [Hub.supposing, modAll_length, ↓Hub.form_update]

theorem Hub.afeSet_form (h : Hub) (chs : List Nat) (w : AfeWords) (notBefore : Nat) (job : Option (Word × Nat)) :
    (h.afeSet chs w notBefore job).form = h.form := by
  unfold Hub.afeSet
  split
  · exact h.refuse_form _
  · exact h.onDies_form _ _ (h.checked_form _ _ (by simp only [↓Hub.ok_form, ↓forAll_form, ↓Hub.accept_form, implies_true]))

theorem Hub.afeGet_form (h : Hub) (c : Nat) : (h.afeGet c).form = h.form := by
  simp only [Hub.afeGet, ↓Hub.ok_form, ↓Hub.refuse_form, ↓Hub.onDies_form, ↓apply_ite Hub.form, ite_self]

theorem Hub.afeSyncArm_form (h : Hub) (chs : List Nat) (t : Nat) (id : Word) : (h.afeSyncArm chs t id).form = h.form := by
  simp only [Hub.afeSyncArm, modAll_length, ↓Hub.form_update]

theorem Hub.syncDrops_form (h : Hub) (id : Word) : (h.syncDrops id).form = h.form := by
  simp only [Hub.syncDrops, ↓Hub.mapCh_form]

theorem Hub.afeSync_form (h : Hub) (chs : List Nat) : (h.afeSync chs).form = h.form := by
  simp only [Hub.afeSync, ↓Hub.ok_form, ↓Hub.refuse_form, ↓Hub.onDies_form, modAll_length, ↓Hub.form_update, ↓apply_ite Hub.form, ite_self]

theorem Hub.afeGuard_form (h : Hub) (octs : List Nat) (w : Word) : (h.afeGuard octs w).form = h.form := by
  simp only [Hub.afeGuard, ↓Hub.ok_form, ↓Hub.refuse_form, ↓Hub.onDies_form, modAll_length, ↓Hub.form_update, ↓apply_ite Hub.form, ite_self]

theorem Hub.afeRepSet_form (h : Hub) (out : Nat) (w : RepWords) : (h.afeRepSet out w).form = h.form := by
  simp only [Hub.afeRepSet, ↓Hub.ok_form, ↓Hub.refuse_form, ↓Hub.onDies_form, ↓Hub.form_update, ↓apply_ite Hub.form, ite_self, modAt,
    List.length_modify]

theorem Hub.afeRepGet_form (h : Hub) (out : Nat) : (h.afeRepGet out).form = h.form := by
  simp only [Hub.afeRepGet, ↓Hub.ok_form, ↓Hub.refuse_form, ↓apply_ite Hub.form, ite_self]

theorem Hub.afeStatus_form (h : Hub) (first count : Nat) : (h.afeStatus first count).form = h.form := by
  simp only [Hub.afeStatus, ↓Hub.ok_form, ↓Hub.refuse_form, ↓Hub.onDies_form, ↓apply_ite Hub.form, ite_self]

theorem Hub.afeClear_form (h : Hub) (chs : List Nat) : (h.afeClear chs).form = h.form := by
  simp only [Hub.afeClear, ↓Hub.ok_form, ↓Hub.refuse_form, ↓Hub.onDies_form, modAll_length, ↓Hub.form_update, ↓apply_ite Hub.form, ite_self]

theorem Hub.chanSet_form (h : Hub) (chs : List Nat) (words : List Word) (notBefore : Nat) (job : Option (Word × Nat)) :
    (h.chanSet chs words notBefore job).form = h.form := by
  unfold Hub.chanSet
  split
  · exact h.refuse_form _
  · refine h.onDies_form _ _ ?_
    split
    · exact h.refuse_form _
    · simp only [↓Hub.checked_form, ↓Hub.ok_form, ↓forAll_form, ↓Hub.accept_form, implies_true]

theorem Hub.chanGet_form (h : Hub) (c : Nat) : (h.chanGet c).form = h.form := by
  simp only [Hub.chanGet, ↓Hub.ok_form, ↓Hub.refuse_form, ↓Hub.onDies_form, ↓apply_ite Hub.form, ite_self]

theorem Hub.chanQuery_form (h : Hub) (c : Nat) : (h.chanQuery c).form = h.form := by
  simp only [Hub.chanQuery, ↓Hub.ok_form, ↓Hub.refuse_form, ↓Hub.onDies_form, ↓apply_ite Hub.form, ite_self]

theorem Hub.chanCoefLoad_form (h : Hub) (chs : List Nat) (words : List Word) : (h.chanCoefLoad chs words).form = h.form := by
  unfold Hub.chanCoefLoad
  split
  · exact h.refuse_form _
  · refine h.onDies_form _ _ (h.checked_form _ _ ?_)
    split <;> simp only [↓Hub.busyDie_form, ↓Hub.ok_form, ↓Hub.form_update, modAll_length]

theorem Hub.chanCoefSwitch_form (h : Hub) (chs : List Nat) (xf : Nat) (t : Option Nat) (job : Option Word) :
    (h.chanCoefSwitch chs xf t job).form = h.form := by
  unfold Hub.chanCoefSwitch
  split
  · exact h.refuse_form _
  · refine h.onDies_form _ _ (h.checked_form _ _ ?_)
    split <;> simp only [↓Hub.busyDie_form, ↓Hub.ok_form, ↓Hub.form_update, modAll_length]

theorem Hub.switchPends_form (h : Hub) (chs : List Nat) (xf t : Nat) (id : Word) : (h.switchPends chs xf t id).form = h.form := by
  simp only [Hub.switchPends, modAll_length, ↓Hub.form_update]

theorem Hub.switchArms_form (h : Hub) (id : Word) : (h.switchArms id).form = h.form := by
  simp only [Hub.switchArms, ↓Hub.mapCh_form]

theorem Hub.switchDrops_form (h : Hub) (id : Word) : (h.switchDrops id).form = h.form := by
  simp only [Hub.switchDrops, ↓Hub.mapCh_form, ↓Hub.mapDie_form]

/-! ### Convert -/

theorem Hub.guardTake_form (h : Hub) (c : Nat) (mv : Int) : (h.guardTake c mv).form = h.form := by
  simp only [Hub.guardTake, ↓Hub.setCh_form, ↓Hub.setOct_form, ↓apply_ite Hub.form, ite_self]

theorem Hub.repTake_form (v : Int) (f : Byte) (n : Nat) (h : Hub) : (Hub.repTake v f n h).form = h.form := by
  simp only [Hub.repTake, ↓Hub.notice_form, ↓Hub.form_update, ↓apply_ite Hub.form, ite_self, modAt, List.length_modify]

theorem Hub.skimStream_form (h : Hub) (c j inst : Nat) (v0 v1 : Int) (f : Byte) : (h.skimStream c j inst v0 v1 f).form = h.form := by
  unfold Hub.skimStream
  dsimp only
  repeat' split
  all_goals simp only [↓Hub.churnTake_form, ↓Hub.setCh_form, ↓Hub.sweepPut_form, ↓Hub.sweepRate_form]

theorem Hub.skimOut_form (h : Hub) (c j inst : Nat) (v0 v1 : Int) (f : Byte) (skip : Bool) :
    (h.skimOut c j inst v0 v1 f skip).form = h.form := by
  simp only [Hub.skimOut, ↓Hub.capFeed_form, ↓Hub.detTake_form, ↓Hub.redTake_form, ↓Hub.repTake_form, ↓Hub.setCh_form,
    ↓Hub.skimStream_form, ↓Hub.thrTake_form, ↓Hub.trigSkip_form, ↓Hub.trigTake_form, ↓forAll_form, ↓apply_ite Hub.form, ite_self,
    implies_true]

theorem Hub.skimDone_form (h : Hub) (c inst : Nat) (w : SkimWait) : (h.skimDone c inst w).form = h.form := by
  simp only [Hub.skimDone, ↓Hub.setCh_form, ↓Hub.skimOut_form, ↓apply_ite Hub.form, ite_self]

theorem Hub.skimDue_form (h : Hub) (c inst : Nat) : (h.skimDue c inst).form = h.form := by
  unfold Hub.skimDue
  split <;> simp only [↓Hub.setCh_form, ↓Hub.skimOut_form, ↓apply_ite Hub.form, ite_self]

theorem Hub.rawOut_form (h : Hub) (c : Nat) (e : RawEntry) (f : Byte) (skip : Bool) : (h.rawOut c e f skip).form = h.form := by
  simp only [Hub.rawOut, ↓Hub.capFeed_form, ↓Hub.churnTake_form, ↓Hub.sweepPut_form, ↓Hub.trigSkip_form, ↓Hub.trigTake_form, ↓apply_ite
    Hub.form, ite_self]

theorem Hub.chainTrial_form (h : Hub) (c k : Nat) (acc : BitVec 32) (x : Int) (old : Option (Int × Int)) :
    (h.chainTrial c k acc x old).1.form = h.form := by
  unfold Hub.chainTrial
  dsimp only
  split
  · exact h.setCh_form _ _
  · rfl

theorem Hub.chain_form (h : Hub) (c k : Nat) (acc : BitVec 32) (x : Int) : (h.chain c k acc x).1.form = h.form := by
  unfold Hub.chain
  dsimp only
  split
  · simp only [↓Hub.chainTrial_form, ↓Hub.setCh_form]
  · split
    · split <;> simp only [↓Hub.setCh_form]
    · simp only [↓Hub.setCh_form]

theorem Hub.rawStep_form (h : Hub) (c : Nat) (e : RawEntry) (acc : BitVec 32) (skip : Bool) : (h.rawStep c e acc skip).form = h.form := by
  unfold Hub.rawStep
  dsimp only
  split <;> simp only [↓Hub.skimDone_form, ↓Hub.chain_form, ↓Hub.setCh_form, ↓Hub.rawOut_form, ↓Hub.skimDue_form]

theorem Hub.fadeCount_form (h : Hub) (c j : Nat) : (h.fadeCount c j).form = h.form := by
  simp only [Hub.fadeCount, ↓Hub.setCh_form]

theorem Hub.rtStep_form (h : Hub) (c k : Nat) : (h.rtStep c k).form = h.form := by
  unfold Hub.rtStep
  dsimp only
  repeat' split
  all_goals simp only [↓Hub.fadeCount_form, ↓Hub.rawOut_form, ↓Hub.skimDone_form, ↓Hub.skimDue_form, ↓Hub.trigSkip_form]

theorem Hub.holdStep_form (h : Hub) (c k : Nat) (skip : Bool) : (h.holdStep c k skip).form = h.form := by
  unfold Hub.holdStep
  dsimp only
  repeat' split
  all_goals simp only [↓Hub.fadeCount_form, ↓Hub.rawOut_form, ↓Hub.setCh_form, ↓Hub.skimDone_form, ↓Hub.skimDue_form, ↓Hub.trigSkip_form]

theorem Hub.cmRecognised_form (h : Hub) (c : Nat) : (h.cmRecognised c).form = h.form := by
  simp only [Hub.cmRecognised, ↓Hub.chanFault_form, ↓Hub.setCh_form, ↓Hub.urgentChan_form, ↓apply_ite Hub.form, ite_self]

theorem Hub.endOld_form (h : Hub) (c inst : Nat) (a b : Desc) (red : Option Word) : (h.endOld c inst a b red).form = h.form := by
  simp only [Hub.endOld, ↓Hub.capRate_form, ↓Hub.churnBreak_form, ↓Hub.redClose_form, ↓Hub.trigSkip_form, ↓apply_ite Hub.form, ite_self]

theorem Hub.takeGain_form (h : Hub) (c : Nat) : (h.takeGain c).form = h.form := by
  unfold Hub.takeGain
  dsimp only
  repeat' split
  all_goals simp only [↓Hub.calQueue_form, ↓Hub.setCh_form]

theorem Hub.endSwitch_form (h : Hub) (c : Nat) : (h.endSwitch c).form = h.form := by
  unfold Hub.endSwitch
  dsimp only
  repeat' split
  all_goals simp only [↓Hub.notice_form, ↓Hub.setCh_form]

theorem Hub.dropAction_form (h : Hub) (id : Word) : (h.dropAction id).form = h.form := by
  simp only [Hub.dropAction, ↓Hub.switchDrops_form, ↓Hub.syncDrops_form, ↓Hub.form_update]

theorem Hub.schedDone_form (h : Hub) (t : Nat) (id : Word) (status lateUs : Nat) : (h.schedDone t id status lateUs).form = h.form := by
  simp only [Hub.schedDone, ↓Hub.dropAction_form, ↓Hub.eventAt_form]

theorem Hub.writeDone_form (inst : Nat) (late : Bool) (a : Word × Nat) (h : Hub) : (Hub.writeDone inst late a h).form = h.form := by
  unfold Hub.writeDone
  split <;> simp only [↓Hub.schedDone_form]

theorem Hub.endRate_form (h : Hub) (c inst : Nat) : (h.endRate c inst).form = h.form := by
  simp only [Hub.endRate, ↓Hub.setCh_form, ↓Hub.skimDue_form]

theorem Hub.firstRs_form (h : Hub) (c inst : Nat) : (h.firstRs c inst).form = h.form := by
  simp only [Hub.firstRs, ↓Hub.setCh_form, ↓Hub.skimDone_form, ↓apply_ite Hub.form, ite_self]

theorem Hub.changeChain_form (c : Nat) (a b : Desc) (w : ChanWrite) (inst : Nat) (h : Hub) :
    (Hub.changeChain c a b w inst h).form = h.form := by
  unfold Hub.changeChain
  dsimp only
  repeat' split
  all_goals simp only [↓Hub.endOld_form, ↓Hub.endRate_form, ↓Hub.endSwitch_form, ↓Hub.firstRs_form, ↓Hub.reSweep_form, ↓Hub.setCh_form,
    ↓Hub.sweepRate_form]

theorem Hub.workStep_form (c : Nat) (w : RawWork) (h : Hub) : (Hub.workStep c w h).form = h.form := by
  unfold Hub.workStep
  split <;> simp only [↓Hub.changeChain_form, ↓Hub.holdStep_form, ↓Hub.rawStep_form, ↓Hub.rtStep_form, ↓Hub.setCh_form]

theorem Hub.settleRaw_form (h : Hub) (c : Nat) (l : List RawWork) : (h.settleRaw c l).form = h.form := by
  simp only [Hub.settleRaw, ↓Hub.workStep_form, ↓forAll_form, implies_true]

theorem Hub.cmTake_form (h : Hub) (c : Nat) (el : Nat) (mv : Int) (work : RawWork) : (h.cmTake c el mv work).form = h.form := by
  simp only [Hub.cmTake, ↓Hub.cmRecognised_form, ↓Hub.setCh_form, ↓Hub.settleRaw_form, ↓apply_ite Hub.form, ite_self]

theorem Hub.flushRaw_form (h : Hub) (c : Nat) (cm : Option Bool) : (h.flushRaw c cm).form = h.form := by
  simp only [Hub.flushRaw, ↓Hub.setCh_form, ↓Hub.settleRaw_form, ↓Hub.tick_form, ↓apply_ite Hub.form, ite_self]

theorem Hub.joinWork_form (h : Hub) (c : Nat) (w : RawWork) : (h.joinWork c w).form = h.form := by
  simp only [Hub.joinWork, ↓Hub.setCh_form, ↓Hub.workStep_form, ↓apply_ite Hub.form, ite_self]

theorem Hub.resumeChan_form (h : Hub) (c : Nat) : (h.resumeChan c).form = h.form := by
  simp only [Hub.resumeChan, ↓Hub.joinWork_form, ↓Hub.setCh_form]

theorem Hub.endHold_form (h : Hub) (o : Nat) : (h.endHold o).form = h.form := by
  simp only [Hub.endHold, ↓Hub.resumeChan_form, ↓Hub.setCh_form, ↓Hub.setOct_form, ↓forAll_form, implies_true]

theorem Hub.applyWrite_form (c inst : Nat) (w : ChanWrite) (h : Hub) : (Hub.applyWrite c inst w h).form = h.form := by
  simp only [Hub.applyWrite, ↓Hub.flushRaw_form, ↓Hub.joinWork_form, ↓Hub.sclkHold_form, ↓Hub.sclkStart_form, ↓Hub.setCh_form,
    ↓Hub.takeGain_form, ↓Hub.writeDone_form, modAll_length, ↓forAll_form, ↓Hub.form_update, ↓apply_ite Hub.form, ite_self, implies_true]

theorem Hub.applyDue_form (h : Hub) (c inst : Nat) : (h.applyDue c inst).form = h.form := by
  simp only [Hub.applyDue, ↓Hub.applyWrite_form, ↓Hub.setCh_form, ↓forAll_form, ↓apply_ite Hub.form, ite_self, implies_true]

theorem Hub.holdDue_form (h : Hub) (c inst : Nat) : (h.holdDue c inst).form = h.form := by
  simp only [Hub.holdDue, ↓Hub.setCh_form, ↓apply_ite Hub.form, ite_self]

theorem Hub.sample_form (h : Hub) (c k el : Nat) (code cmMv : Int) : (h.sample c k el code cmMv).form = h.form := by
  simp only [Hub.sample, ↓Hub.cmTake_form, ↓Hub.setCh_form, ↓Hub.urgentChan_form, ↓apply_ite Hub.form, ite_self]

theorem Hub.syncSt_form (h : Hub) (c inst : Nat) : (h.syncSt c inst).form = h.form := by
  simp only [Hub.syncSt, ↓Hub.setCh_form, ↓apply_ite Hub.form, ite_self]

theorem Hub.calTake_form (h : Hub) (c el : Nat) (code : Int) : (h.calTake c el code).form = h.form := by
  unfold Hub.calTake
  split <;> simp only [↓Hub.setCh_form, ↓apply_ite Hub.form, ite_self]

theorem Hub.conversion_form (h : Hub) (c : Nat) (code cmMv : Int) : (h.conversion c code cmMv).form = h.form := by
  simp only [Hub.conversion, ↓Hub.applyDue_form, ↓Hub.calTake_form, ↓Hub.cmTake_form, ↓Hub.guardTake_form, ↓Hub.holdDue_form,
    ↓Hub.resumeChan_form, ↓Hub.sample_form, ↓Hub.setCh_form, ↓Hub.syncSt_form, ↓apply_ite Hub.form, ite_self]

theorem Hub.clamp_form (h : Hub) (c : Nat) : (h.clamp c).form = h.form := by
  simp only [Hub.clamp, ↓Hub.chanFault_form, ↓Hub.setCh_form, ↓Hub.urgentChan_form, ↓apply_ite Hub.form, ite_self]

theorem Hub.clampRelease_form (h : Hub) (c : Nat) : (h.clampRelease c).form = h.form := by
  simp only [Hub.clampRelease, ↓Hub.setCh_form, ↓apply_ite Hub.form, ite_self]

theorem Hub.excOl_form (h : Hub) (c : Nat) : (h.excOl c).form = h.form := by
  simp only [Hub.excOl, ↓Hub.chanFault_form, ↓Hub.notice_form, ↓Hub.setCh_form, ↓apply_ite Hub.form, ite_self]

theorem Hub.excOlEnd_form (h : Hub) (c : Nat) : (h.excOlEnd c).form = h.form := by
  simp only [Hub.excOlEnd, ↓Hub.setCh_form]

theorem Hub.grdOl_form (h : Hub) (o : Nat) : (h.grdOl o).form = h.form := by
  simp only [Hub.grdOl, ↓Hub.notice_form, ↓Hub.setOct_form, ↓apply_ite Hub.form, ite_self]

/-! ### Churn -/

theorem Hub.churnMode_form (raw : Bool) (mode c : Nat) (h : Hub) : (Hub.churnMode raw mode c h).form = h.form := by
  unfold Hub.churnMode
  split <;> simp only [↓Hub.churnBreak_form, ↓Hub.churnCapture_form, ↓Hub.setCh_form, ↓apply_ite Hub.form, ite_self]

theorem Hub.churnSet_form (h : Hub) (use' mode : Nat) (chs : List Nat) : (h.churnSet use' mode chs).form = h.form := by
  unfold Hub.churnSet
  dsimp only
  split
  · exact h.refuse_form _
  · refine h.onDies_form _ _ (h.checked_form _ _ ?_)
    simp only [↓apply_ite Hub.form, ↓Hub.ok_form, ↓Hub.rawReassign_form, ↓forAll_form, ↓Hub.reSweep_form, ↓Hub.churnMode_form, ite_self,
      implies_true]

theorem Hub.churnCfgSet_form (h : Hub) (dies : List Nat) (w : Word) : (h.churnCfgSet dies w).form = h.form := by
  simp only [Hub.churnCfgSet, ↓Hub.ok_form, ↓Hub.onMask_form, modAll_length, ↓Hub.form_update, implies_true]

theorem Hub.churnCfgGet_form (h : Hub) (dies : List Nat) : (h.churnCfgGet dies).form = h.form := by
  simp only [Hub.churnCfgGet, ↓Hub.ok_form, ↓Hub.readMask_form, implies_true]

theorem Hub.newState_form (h : Hub) (d use' : Nat) (img : Bytes) (complete : Bool) : (h.newState d use' img complete).1.form = h.form := by
  simp only [Hub.newState, ↓Hub.form_update]

theorem Hub.churnSave_form (h : Hub) (c use' : Nat) : (h.churnSave c use').form = h.form := by
  unfold Hub.churnSave
  split
  · exact h.refuse_form _
  · refine h.onDies_form _ _ ?_
    split
    · exact h.refuse_form _
    · simp only [↓apply_ite Hub.form, ↓Hub.refuse_form, ↓Hub.ok_form, ↓Hub.setCh_form, ↓Hub.newState_form, ite_self]

theorem Hub.churnStateCapture_form (h : Hub) (c use' : Nat) : (h.churnStateCapture c use').form = h.form := by
  unfold Hub.churnStateCapture
  dsimp only
  repeat' split
  all_goals simp only [↓Hub.churnCapture_form]

theorem Hub.churnStateRead_form (h : Hub) (n off count : Nat) : (h.churnStateRead n off count).form = h.form := by
  unfold Hub.churnStateRead
  split <;> simp only [↓Hub.busy_form, ↓Hub.ok_form, ↓Hub.refuse_form, ↓apply_ite Hub.form, ite_self]

theorem Hub.churnStateWrite_form (h : Hub) (n use' off : Nat) (data : Bytes) : (h.churnStateWrite n use' off data).form = h.form := by
  unfold Hub.churnStateWrite
  dsimp only
  split
  · split
    · exact h.refuse_form _
    · split
      · exact h.refuse_form _
      · simp only [↓Hub.ok_form, ↓Hub.newState_form, ↓Hub.tick_form]
  · split
    · exact h.refuse_form _
    · simp only [↓apply_ite Hub.form, ↓Hub.refuse_form, ↓Hub.ok_form, ↓Hub.form_update, ite_self]

theorem Hub.churnRestore_form (h : Hub) (c use' n : Nat) : (h.churnRestore c use' n).form = h.form := by
  unfold Hub.churnRestore
  dsimp only
  repeat' split
  all_goals simp only [↓Hub.ok_form, ↓Hub.refuse_form, ↓Hub.setCh_form, ↓Hub.onDies_form]

theorem Hub.churnStateFree_form (h : Hub) (n : Nat) : (h.churnStateFree n).form = h.form := by
  unfold Hub.churnStateFree
  split <;> simp only [↓Hub.ok_form, ↓Hub.refuse_form, ↓Hub.form_update]

theorem Hub.setJob_form (h : Hub) (n : Nat) (f : ChurnJob → ChurnJob) : (h.setJob n f).form = h.form := by
  simp only [Hub.setJob, ↓Hub.form_update]

theorem Hub.churnJobStart_form (h : Hub) (coach op mode bufsz : Nat) : (h.churnJobStart coach op mode bufsz).form = h.form := by
  unfold Hub.churnJobStart
  split <;> simp only [↓Hub.busy_form, ↓Hub.churnMismatch_form, ↓Hub.ok_form, ↓Hub.refuse_form, ↓Hub.tick_form, ↓Hub.onDies_form,
    ↓iter_form, ↓Hub.form_update, ↓apply_ite Hub.form, ite_self, implies_true]

theorem Hub.churnJobRead_form (h : Hub) (n off count : Nat) : (h.churnJobRead n off count).form = h.form := by
  unfold Hub.churnJobRead
  split <;> simp only [↓Hub.ok_form, ↓Hub.refuse_form, ↓apply_ite Hub.form, ite_self]

theorem Hub.churnJobResume_form (h : Hub) (n bufsz : Nat) : (h.churnJobResume n bufsz).form = h.form := by
  unfold Hub.churnJobResume
  split <;> simp only [↓Hub.ok_form, ↓Hub.refuse_form, ↓Hub.setJob_form, ↓apply_ite Hub.form, ite_self]

theorem Hub.churnJobEnd_form (h : Hub) (n : Nat) : (h.churnJobEnd n).form = h.form := by
  unfold Hub.churnJobEnd
  split <;> simp only [↓Hub.ok_form, ↓Hub.refuse_form, ↓Hub.form_update]

theorem Hub.jobEnd_form (h : Hub) (n : Nat) : (h.jobEnd n).form = h.form := by
  unfold Hub.jobEnd
  split <;> simp only [↓Hub.notice_form, ↓Hub.form_update, ↓apply_ite Hub.form, ite_self]

theorem Hub.jobStop_form (h : Hub) (n : Nat) : (h.jobStop n).form = h.form := by
  unfold Hub.jobStop
  split <;> simp only [↓Hub.setJob_form, ↓apply_ite Hub.form, ite_self]

/-! ### CapCmd -/

theorem Hub.capInstall_form (h : Hub) (p : CapParams) : (h.capInstall p).form = h.form := by
  simp only [Hub.capInstall, ↓Hub.setCh_form, ↓forAll_form, ↓Hub.form_update, ↓apply_ite Hub.form, ite_self, modAt, List.length_modify,
    implies_true]

theorem Hub.capArm_form (h : Hub) (p : CapParams) : (h.capArm p).form = h.form := by
  unfold Hub.capArm
  split
  · exact h.refuse_form _
  · refine h.onDies_form _ _ (h.checked_form _ _ ?_)
    simp only [↓Hub.ok_form, ↓Hub.reserve_form, ↓forAll_form, ↓Hub.needFlow_form, ↓Hub.capInstall_form, implies_true]

theorem Hub.capDisarm_form (h : Hub) (n abort : Nat) : (h.capDisarm n abort).form = h.form := by
  unfold Hub.capDisarm
  repeat' split
  all_goals simp only [↓Hub.cutCoach_form, ↓Hub.disarm_form, ↓Hub.ok_form, ↓Hub.refuse_form, ↓Hub.retryWait_form, ↓Hub.setCap_form,
    ↓Hub.onDies_form, ↓forAll_form, implies_true]

theorem Hub.capTrig_form (h : Hub) (n : Nat) (id : Word) (t : Nat) : (h.capTrig n id t).form = h.form := by
  unfold Hub.capTrig
  split <;> simp only [↓Hub.fire_form, ↓Hub.ok_form, ↓Hub.refuse_form, ↓apply_ite Hub.form, ite_self]

theorem Hub.capStatus_form (h : Hub) (n : Nat) : (h.capStatus n).form = h.form := by
  unfold Hub.capStatus
  repeat' split
  all_goals simp only [↓Hub.ok_form, ↓Hub.refuse_form]

theorem Hub.retryAll_form (h : Hub) : h.retryAll.form = h.form := by
  simp only [Hub.retryAll, ↓Hub.retryWait_form, ↓forAll_form, implies_true]

theorem Hub.capPartSet_form (h : Hub) (dies : List Nat) (w : Word) : (h.capPartSet dies w).form = h.form := by
  simp only [Hub.capPartSet, ↓Hub.flowTouch_form, ↓Hub.ok_form, ↓Hub.withReply_form, ↓Hub.onMask_form, modAll_length, ↓forAll_form,
    ↓Hub.form_update, ↓apply_ite Hub.form, ite_self, implies_true]

theorem Hub.capPartGet_form (h : Hub) (dies : List Nat) : (h.capPartGet dies).form = h.form := by
  simp only [Hub.capPartGet, ↓Hub.ok_form, ↓Hub.readMask_form, implies_true]

theorem Hub.capWmSet_form (h : Hub) (dies : List Nat) (w : Word) : (h.capWmSet dies w).form = h.form := by
  simp only [Hub.capWmSet, ↓Hub.ok_form, ↓Hub.onMask_form, modAll_length, ↓Hub.form_update, implies_true]

theorem Hub.capWmGet_form (h : Hub) (dies : List Nat) : (h.capWmGet dies).form = h.form := by
  simp only [Hub.capWmGet, ↓Hub.ok_form, ↓Hub.readMask_form, implies_true]

theorem Hub.capList_form (h : Hub) (dies : List Nat) (q : CapQuery) : (h.capList dies q).form = h.form := by
  simp only [Hub.capList, ↓apply_ite Hub.form, ↓Hub.onDies_form, ↓Hub.overMask_form, ↓Hub.ok_form, ite_self, implies_true]

theorem Hub.capRead_form (h : Hub) (id off count decode : Nat) : (h.capRead id off count decode).form = h.form := by
  unfold Hub.capRead
  repeat' split
  all_goals simp only [↓Hub.busyDie_form, ↓Hub.ok_form, ↓Hub.refuse_form, ↓Hub.onDies_form]

theorem Hub.capFree_form (h : Hub) (ids : List Word) : (h.capFree ids).form = h.form := by
  unfold Hub.capFree
  split
  · exact h.refuse_form _
  · refine h.onDies_form _ _ (h.checked_form _ _ ?_)
    split <;> simp only [↓Hub.busyDie_form, ↓Hub.ok_form, ↓forAll_form, ↓Hub.retryWait_form, ↓Hub.freeCoach_form, implies_true]

theorem Hub.capSend_form (h : Hub) (ids : List Word) : (h.capSend ids).form = h.form := by
  unfold Hub.capSend
  split
  · exact h.refuse_form _
  · refine h.onDies_form _ _ (h.checked_form _ _ ?_)
    simp only [↓Hub.ok_form, ↓forAll_form, ↓Hub.flowTouch_form, ↓Hub.sendWanted_form, ↓Hub.setCoach_form, implies_true]

theorem Hub.capRedSet_form (h : Hub) (chs : List Nat) (w : Word) (notBefore : Nat) : (h.capRedSet chs w notBefore).form = h.form := by
  unfold Hub.capRedSet
  split
  · exact h.refuse_form _
  · exact h.onDies_form _ _ (h.checked_form _ _ (by simp only [↓Hub.ok_form, ↓forAll_form, ↓Hub.accept_form, implies_true]))

theorem Hub.capRedGet_form (h : Hub) (c : Nat) : (h.capRedGet c).form = h.form := by
  simp only [Hub.capRedGet, ↓Hub.ok_form, ↓Hub.refuse_form, ↓Hub.onDies_form, ↓apply_ite Hub.form, ite_self]

/-! ### Separator -/

theorem Hub.sepCfgSet_form (h : Hub) (ctl tick wait fb : Word) (t : Option Nat) (accepted : Nat) :
    (h.sepCfgSet ctl tick wait fb t accepted).form = h.form := by
  simp only [Hub.sepCfgSet, ↓Hub.ok_form, ↓Hub.refuse_form, ↓Hub.form_update, ↓apply_ite Hub.form, ite_self]

theorem Hub.sepCfgGet_form (h : Hub) : h.sepCfgGet.form = h.form := by
  simp only [Hub.sepCfgGet, ↓Hub.ok_form]

theorem Hub.sepLoad_form (h : Hub) (dies : List Nat) (set : Nat) (op : SepLoadOp) : (h.sepLoad dies set op).form = h.form := by
  simp only [Hub.sepLoad, ↓Hub.ok_form, ↓Hub.withReply_form, ↓Hub.onMask_form, modAll_length, ↓Hub.form_update, ↓apply_ite Hub.form,
    ite_self, implies_true]

theorem Hub.sepSwitch_form (h : Hub) (dies : List Nat) (xf : Nat) (t : Option Nat) (job : Option Word) :
    (h.sepSwitch dies xf t job).form = h.form := by
  simp only [Hub.sepSwitch, ↓Hub.ok_form, ↓Hub.withReply_form, ↓Hub.onMask_form, modAll_length, ↓Hub.form_update, ↓apply_ite Hub.form,
    ite_self, implies_true]

theorem Hub.sepPends_form (h : Hub) (dies : List Nat) (xf t : Nat) (id : Word) : (h.sepPends dies xf t id).form = h.form := by
  simp only [Hub.sepPends, modAll_length, ↓Hub.form_update]

theorem Hub.sepStatus_form (h : Hub) (dies : List Nat) : (h.sepStatus dies).form = h.form := by
  simp only [Hub.sepStatus, ↓Hub.ok_form, ↓Hub.readMask_form, implies_true]

theorem Hub.sepMask_form (t d : Nat) (h : Hub) : (Hub.sepMask t d h).form = h.form := by
  simp only [Hub.sepMask, ↓Hub.recordAt_form, ↓Hub.setDie_form, ↓apply_ite Hub.form, ite_self]

theorem Hub.sendModal_form (h : Hub) (f : ModalFrame) : (h.sendModal f).form = h.form := by
  simp only [Hub.sendModal, ↓Hub.originate_form, ↓Hub.form_update]

theorem Hub.passFrame_form (h : Hub) (f : ModalFrame) : (h.passFrame f).form = h.form := by
  simp only [Hub.passFrame, ↓Hub.mapDie_form, ↓Hub.notice_form, ↓Hub.sendModal_form, ↓Hub.form_update, ↓apply_ite Hub.form, ite_self]

theorem Hub.sepDieTick_form (j : Nat) (acc : Hub × List (Nat × DieTick)) (d : Nat) : (Hub.sepDieTick j acc d).1.form = acc.1.form := by
  simp only [Hub.sepDieTick, ↓Hub.setDie_form]

theorem Hub.sepDieTicks_form (j : Nat) (ds : List Nat) (acc : Hub × List (Nat × DieTick)) :
    (ds.foldl (Hub.sepDieTick j) acc).1.form = acc.1.form := by
  induction ds generalizing acc with
  | nil => rfl
  | cons d ds ih => rw [List.foldl_cons, ih, Hub.sepDieTick_form]

theorem Hub.modalTick_form (h : Hub) : h.modalTick.form = h.form := by
  unfold Hub.modalTick
  dsimp only
  split
  · rfl
  · have ticked := Hub.sepDieTicks_form (h.tm.now / h.sep.tickFu) (List.range h.nDies) (h, [])
    generalize List.foldl _ _ _ = run at ticked ⊢
    obtain ⟨g, l⟩ := run
    simpa only [↓apply_ite Hub.form, ↓Hub.passFrame_form, ↓forAll_form, ↓Hub.sepMask_form, ↓Hub.form_update, List.length_map,
      ite_self, implies_true] using ticked

theorem Hub.abandonCopy_form (h : Hub) (f : ModalFrame) : (h.abandonCopy f).form = h.form := by
  simp only [Hub.abandonCopy, ↓Hub.queue_form, ↓Hub.tick_form, ↓apply_ite Hub.form, ite_self]

theorem Hub.modalArrive_form (h : Hub) (f : ModalFrame) : (h.modalArrive f).form = h.form := by
  simp only [Hub.modalArrive, ↓Hub.passFrame_form, ↓Hub.sendModal_form, ↓Hub.form_update, ↓apply_ite Hub.form, ite_self]

theorem Hub.modalTimeout_form (h : Hub) : h.modalTimeout.form = h.form := by
  unfold Hub.modalTimeout
  dsimp only
  repeat' split
  all_goals simp only [↓Hub.passFrame_form, ↓Hub.form_update]

/-! ### PortOps -/

theorem Hub.unsend_form (h : Hub) (p : Nat) : (h.unsend p).form = h.form := by
  simp only [Hub.unsend, ↓Hub.form_update]

theorem Hub.discardNote_form (h : Hub) (p n : Nat) : (h.discardNote p n).form = h.form := by
  simp only [Hub.discardNote, ↓Hub.notice_form, ↓Hub.form_update, ↓apply_ite Hub.form, ite_self]

theorem Hub.portLost_form (h : Hub) (p : Nat) (st : PState) : (h.portLost p st).form = h.form := by
  simp only [Hub.portLost, ↓Hub.discardNote_form, ↓Hub.linkGone_form, ↓Hub.setPort_form, ↓Hub.unsend_form, ↓Hub.form_update, ↓apply_ite
    Hub.form, ite_self]

theorem Hub.portStart_form (h : Hub) (p : Nat) : (h.portStart p).form = h.form := by
  simp only [Hub.portStart, ↓Hub.portLost_form, ↓Hub.rawReassign_form, ↓Hub.setPort_form, ↓Hub.watermarks_form, ↓apply_ite Hub.form,
    ite_self]

theorem Hub.portDown_form (h : Hub) (p : Nat) (st : PState) : (h.portDown p st).form = h.form := by
  simp only [Hub.portDown, ↓Hub.portLost_form, ↓Hub.rawReassign_form, ↓Hub.watermarks_form, ↓apply_ite Hub.form, ite_self]

theorem Hub.vanish_form (h : Hub) (d : Nat) : (h.vanish d).form = h.form := by
  simp only [Hub.vanish, ↓Hub.form_update, List.length_map]

theorem Hub.queuesReset_form (h : Hub) (p : Nat) : (h.queuesReset p).form = h.form := by
  simp only [Hub.queuesReset, ↓Hub.discardNote_form, ↓Hub.setLink_form]

theorem Hub.enterStep_form (h : Hub) (p : Nat) : (h.enterStep p).form = h.form := by
  unfold Hub.enterStep
  split <;> simp only [↓Hub.queuesReset_form, ↓Hub.setPort_form]

theorem Hub.startStep_form (h : Hub) (p rate : Nat) (cause : StepCause) (good : List (Nat × Nat)) :
    (h.startStep p rate cause good).form = h.form := by
  simp only [Hub.startStep, ↓Hub.ctl_form, ↓Hub.setPort_form]

theorem Hub.portReturn_form (h : Hub) (p rate width : Nat) : (h.portReturn p rate width).form = h.form := by
  simp only [Hub.portReturn, ↓Hub.setPort_form, ↓Hub.watermarks_form, ↓Hub.form_update, ↓apply_ite Hub.form, ite_self]

theorem Hub.reLevel_form (h : Hub) : h.reLevel.form = h.form := by
  simp only [Hub.reLevel, ↓Hub.setLevel_form, ↓apply_ite Hub.form, ite_self]

theorem Hub.closeCoupler_form (h : Hub) (byHost : Bool) : (h.closeCoupler byHost).form = h.form := by
  simp only [Hub.closeCoupler, ↓Hub.clockLoss_form, ↓Hub.portDown_form, ↓Hub.form_update]

theorem Hub.openCoupler_form (h : Hub) : h.openCoupler.form = h.form := by
  simp only [Hub.openCoupler, ↓Hub.portStart_form, ↓Hub.form_update, ↓apply_ite Hub.form, ite_self]

theorem Hub.askWidth_form (h : Hub) (p w : Nat) : (h.askWidth p w).form = h.form := by
  simp only [Hub.askWidth, ↓Hub.ctl_form, ↓Hub.setPort_form, ↓apply_ite Hub.form, ite_self]

theorem Hub.plainWidth_form (h : Hub) (p : Nat) : (h.plainWidth p).form = h.form := by
  simp only [Hub.plainWidth, ↓Hub.rawReassign_form, ↓Hub.setPort_form, ↓apply_ite Hub.form, ite_self]

theorem Hub.narrow_form (h : Hub) (p : Nat) : (h.narrow p).form = h.form := by
  simp only [Hub.narrow, ↓Hub.askWidth_form, ↓Hub.plainWidth_form, ↓apply_ite Hub.form, ite_self]

theorem Hub.retireLane_form (h : Hub) (p l code count : Nat) (loopbackOk : Bool) :
    (h.retireLane p l code count loopbackOk).form = h.form := by
  simp only [Hub.retireLane, ↓Hub.closeCoupler_form, ↓Hub.crossEvent_form, ↓Hub.event_form, ↓Hub.laneAway_form, ↓Hub.narrow_form,
    ↓Hub.portDown_form, ↓Hub.reLevel_form, ↓Hub.setLane_form, ↓Hub.setPort_form, ↓Hub.setTm_form, ↓apply_ite Hub.form, ite_self]

theorem Hub.laneFault_form (h : Hub) (p l : Nat) : (h.laneFault p l).form = h.form := by
  simp only [Hub.laneFault, ↓Hub.retireLane_form, ↓Hub.setLane_form, ↓Hub.tick_form, ↓apply_ite Hub.form, ite_self]

theorem Hub.ltMarker_form (h : Hub) (fine : List Int) : (h.ltMarker fine).form = h.form := by
  simp only [Hub.ltMarker, ↓Hub.laneFault_form, ↓Hub.marker_form, ↓Hub.setLane_form, ↓Hub.setPort_form, ↓apply_ite Hub.form, ite_self]

theorem Hub.ltLost_form (h : Hub) : h.ltLost.form = h.form := by
  simp only [Hub.ltLost, ↓Hub.clockLoss_form, ↓Hub.laneFault_form, ↓apply_ite Hub.form, ite_self]

theorem Hub.laneRetrain_form (p : Nat) (h : Hub) (l : Nat) : (Hub.laneRetrain p h l).form = h.form := by
  simp only [Hub.laneRetrain, ↓Hub.laneFault_form, ↓Hub.setLane_form]

theorem Hub.countLost_form (h : Hub) (p : Nat) : (h.countLost p).form = h.form :=
  (forAll_form _ (fun l g => g.laneRetrain_form p l) _ _).trans (h.setPort_form _ _)

theorem Hub.askRate_form (h : Hub) (p rate : Nat) : (h.askRate p rate).form = h.form := by
  simp only [Hub.askRate, ↓Hub.ctl_form, ↓Hub.setPort_form, ↓Hub.startStep_form, ↓apply_ite Hub.form, ite_self]

theorem Hub.retrain_form (h : Hub) (p : Nat) : (h.retrain p).form = h.form := by
  simp only [Hub.retrain, ↓Hub.askRate_form, ↓apply_ite Hub.form, ite_self]

theorem Hub.keepLimits_form (h : Hub) (p : Nat) : (h.keepLimits p).form = h.form := by
  simp only [Hub.keepLimits, ↓Hub.askRate_form, ↓Hub.askWidth_form, ↓apply_ite Hub.form, ite_self]

theorem Hub.reAsk_form (h : Hub) (p : Nat) : (h.reAsk p).form = h.form := by
  unfold Hub.reAsk
  split <;> simp only [↓Hub.askRate_form, ↓Hub.askWidth_form, ↓Hub.keepLimits_form, ↓Hub.setPort_form, ↓apply_ite Hub.form, ite_self]

theorem Hub.applyWidth_form (h : Hub) (p w : Nat) : (h.applyWidth p w).form = h.form := by
  simp only [Hub.applyWidth, ↓Hub.reAsk_form, ↓Hub.setPort_form]

theorem Hub.widthSettle_form (h : Hub) (p : Nat) : (h.widthSettle p).form = h.form := by
  unfold Hub.widthSettle
  dsimp only
  repeat' split
  all_goals simp only [↓Hub.ctl_form, ↓Hub.reAsk_form, ↓Hub.setPort_form]

theorem Hub.lockLost_form (h : Hub) (p l : Nat) : (h.lockLost p l).form = h.form := by
  unfold Hub.lockLost
  dsimp only
  repeat' split
  all_goals simp only [↓Hub.enterStep_form, ↓Hub.retrain_form, ↓Hub.setPort_form]

theorem Hub.requestSent_form (h : Hub) (p rate : Nat) : (h.requestSent p rate).form = h.form := by
  simp only [Hub.requestSent, ↓Hub.enterStep_form, ↓Hub.setPort_form, ↓apply_ite Hub.form, ite_self]

theorem Hub.sendArrive_form (h : Hub) : h.sendArrive.form = h.form := by
  simp only [Hub.sendArrive, ↓Hub.ctl_form, ↓Hub.form_update, ↓apply_ite Hub.form, ite_self]

theorem Hub.stepUp_form (h : Hub) (p : Nat) : (h.stepUp p).form = h.form := by
  simp only [Hub.stepUp, ↓Hub.startStep_form, ↓apply_ite Hub.form, ite_self]

theorem Hub.portUp_form (h : Hub) (p w : Nat) : (h.portUp p w).form = h.form := by
  simp only [Hub.portUp, ↓Hub.discardNote_form, ↓Hub.sendArrive_form, ↓Hub.setPort_form, ↓Hub.stepUp_form, ↓Hub.form_update, ↓apply_ite
    Hub.form, ite_self]

theorem Hub.tryUp_form (h : Hub) (p : Nat) : (h.tryUp p).form = h.form := by
  simp only [Hub.tryUp, ↓Hub.portUp_form, ↓apply_ite Hub.form, ite_self]

theorem Hub.idle_form (h : Hub) : h.idle.form = h.form := by
  unfold Hub.idle
  dsimp only
  repeat' split
  all_goals simp only [↓Hub.closeCoupler_form, ↓cycle_form, ↓Hub.form_update, modAt, List.length_map]

/-! ### Lanes -/

theorem Hub.linkCfgSet_form (h : Hub) (p : Nat) (w : Word) : (h.linkCfgSet p w).form = h.form := by
  simp only [Hub.linkCfgSet, ↓Hub.askRate_form, ↓Hub.askWidth_form, ↓Hub.ok_form, ↓Hub.portStart_form, ↓Hub.refuse_form, ↓Hub.setPort_form,
    ↓Hub.onPort_form, ↓apply_ite Hub.form, ite_self]

theorem Hub.linkCfgGet_form (h : Hub) (p : Nat) : (h.linkCfgGet p).form = h.form := by
  simp only [Hub.linkCfgGet, ↓Hub.ok_form, ↓Hub.onPort_form]

theorem Hub.linkStatusGet_form (h : Hub) (p : Nat) : (h.linkStatusGet p).form = h.form := by
  simp only [Hub.linkStatusGet, ↓Hub.ok_form, ↓Hub.onPort_form]

theorem Hub.handBack_form (p : Nat) (h : Hub) : (Hub.handBack p h).form = h.form := by
  simp only [Hub.handBack, ↓Hub.portStart_form, ↓Hub.setPort_form, ↓apply_ite Hub.form, ite_self]

theorem Hub.handAllBack_form (h : Hub) : h.handAllBack.form = h.form := by
  simp only [Hub.handAllBack, ↓Hub.handBack_form, ↓forAll_form, implies_true]

theorem Hub.linkManual_form (h : Hub) (p on : Nat) : (h.linkManual p on).form = h.form := by
  simp only [Hub.linkManual, ↓Hub.handBack_form, ↓Hub.ok_form, ↓Hub.refuse_form, ↓Hub.setPort_form, ↓Hub.onPort_form, ↓apply_ite Hub.form,
    ite_self]

theorem Hub.linkSlip_form (h : Hub) (p l : Nat) : (h.linkSlip p l).form = h.form := by
  simp only [Hub.linkSlip, ↓Hub.ok_form, ↓Hub.refuse_form, ↓Hub.setLane_form, ↓Hub.onPort_form, ↓apply_ite Hub.form, ite_self]

theorem Hub.relockAt_form (h : Hub) (p r : Nat) : (h.relockAt p r).form = h.form := by
  simp only [Hub.relockAt, ↓Hub.setPort_form]

theorem Hub.linkRate_form (h : Hub) (p r : Nat) : (h.linkRate p r).form = h.form := by
  simp only [Hub.linkRate, ↓Hub.askRate_form, ↓Hub.ok_form, ↓Hub.refuse_form, ↓Hub.relockAt_form, ↓Hub.onPort_form, ↓apply_ite Hub.form,
    ite_self]

theorem Hub.linkWidth_form (h : Hub) (p w : Nat) : (h.linkWidth p w).form = h.form := by
  simp only [Hub.linkWidth, ↓Hub.askWidth_form, ↓Hub.ok_form, ↓Hub.refuse_form, ↓Hub.onPort_form, ↓apply_ite Hub.form, ite_self]

theorem Hub.countBits_form (h : Hub) (p l least : Nat) : (h.countBits p l least).form = h.form := by
  unfold Hub.countBits
  dsimp only
  repeat' split
  all_goals simp only [↓Hub.setLane_form, ↓Hub.tick_form]

theorem Hub.linkTestSet_form (h : Hub) (p l : Nat) (w : Word) : (h.linkTestSet p l w).form = h.form := by
  simp only [Hub.linkTestSet, ↓Hub.countBits_form, ↓Hub.ok_form, ↓Hub.refuse_form, ↓Hub.setLane_form, ↓Hub.onPort_form, ↓apply_ite
    Hub.form, ite_self]

theorem Hub.linkLaneGet_form (h : Hub) (p l clear : Nat) : (h.linkLaneGet p l clear).form = h.form := by
  simp only [Hub.linkLaneGet, ↓Hub.countBits_form, ↓Hub.ok_form, ↓Hub.refuse_form, ↓Hub.setLane_form, ↓Hub.onPort_form, ↓apply_ite
    Hub.form, ite_self]

theorem Hub.linkCoupler_form (h : Hub) (op : Nat) : (h.linkCoupler op).form = h.form := by
  simp only [Hub.linkCoupler, ↓Hub.closeCoupler_form, ↓Hub.ctl_form, ↓Hub.ok_form, ↓Hub.openCoupler_form, ↓Hub.refuse_form,
    ↓Hub.form_update, ↓apply_ite Hub.form, ite_self]

theorem Hub.stepDone_form (h : Hub) (p : Nat) : (h.stepDone p).form = h.form := by
  unfold Hub.stepDone
  split
  · rfl
  · split
    · extract_lets w failed h1 good again
      have lost : h1.form = h.form := by
        unfold h1
        simp only [↓apply_ite Hub.form, ↓Hub.setPort_form, ite_self]
      have again_form (rate : Nat) (cause : StepCause) (g : Hub) : (again rate cause g).form = g.form := by
        simp only [again, ↓apply_ite Hub.form, ↓Hub.ctl_form, ↓Hub.enterStep_form, ↓Hub.setPort_form, ite_self]
      repeat' split
      all_goals simp only [again_form, ↓Hub.reAsk_form, ↓Hub.countLost_form, ↓Hub.portReturn_form, ↓Hub.relockAt_form,
        ↓Hub.portStart_form, ↓Hub.setPort_form, lost]
    · rfl

theorem Hub.sendResult_form (h : Hub) (p : Nat) : (h.sendResult p).form = h.form := by
  unfold Hub.sendResult
  repeat' split
  all_goals simp only [↓Hub.ctl_form, ↓Hub.setPort_form, ↓Hub.stepDone_form]

theorem Hub.settled_form (h : Hub) (p : Nat) : (h.settled p).form = h.form := by
  unfold Hub.settled
  repeat' split
  all_goals simp only [↓Hub.countLost_form, ↓Hub.portReturn_form, ↓Hub.reAsk_form, ↓apply_ite Hub.form, ite_self]

theorem Hub.laneLocked_form (h : Hub) (p l : Nat) : (h.laneLocked p l).form = h.form := by
  unfold Hub.laneLocked
  dsimp only
  repeat' split
  all_goals simp only [↓Hub.sendResult_form, ↓Hub.setLane_form, ↓Hub.settled_form, ↓Hub.tryUp_form]

theorem Hub.slips_form (h : Hub) (p l : Nat) : (h.slips p l).form = h.form := by
  simp only [Hub.slips, ↓Hub.setLane_form]

theorem Hub.validHeaders_form (h : Hub) (p l : Nat) : (h.validHeaders p l).form = h.form := by
  simp only [Hub.validHeaders, ↓Hub.setLane_form, ↓apply_ite Hub.form, ite_self]

theorem Hub.loseLock_form (h : Hub) (p l : Nat) : (h.loseLock p l).form = h.form := by
  simp only [Hub.loseLock, ↓Hub.lockLost_form, ↓Hub.setLane_form]

theorem Hub.invalidHeader_form (h : Hub) (p l : Nat) : (h.invalidHeader p l).form = h.form := by
  unfold Hub.invalidHeader
  dsimp only
  repeat' split
  all_goals simp only [↓Hub.loseLock_form, ↓Hub.setLane_form, ↓Hub.slips_form]

theorem Hub.atMark_form (h : Hub) (p mcount : Nat) : (h.atMark p mcount).form = h.form := by
  unfold Hub.atMark
  dsimp only
  repeat' split
  all_goals simp only [↓Hub.enterStep_form, ↓Hub.setPort_form]

theorem Hub.markBlock_form (h : Hub) (p l mcount : Nat) : (h.markBlock p l mcount).form = h.form := by
  unfold Hub.markBlock
  dsimp only
  repeat' split
  all_goals simp only [↓Hub.atMark_form, ↓Hub.laneLocked_form, ↓Hub.setLane_form]

theorem Hub.noMark_form (h : Hub) (p l : Nat) : (h.noMark p l).form = h.form := by
  simp only [Hub.noMark, ↓Hub.setLane_form, ↓apply_ite Hub.form, ite_self]

theorem Hub.markWaitTimeout_form (h : Hub) (p l : Nat) : (h.markWaitTimeout p l).form = h.form := by
  unfold Hub.markWaitTimeout
  repeat' split
  all_goals simp only [↓Hub.loseLock_form, ↓Hub.slips_form]

theorem Hub.offsetTimeout_form (h : Hub) (p l : Nat) : (h.offsetTimeout p l).form = h.form := by
  simp only [Hub.offsetTimeout, ↓Hub.slips_form, ↓apply_ite Hub.form, ite_self]

theorem Hub.alignFail_form (h : Hub) (p l : Nat) : (h.alignFail p l).form = h.form := by
  unfold Hub.alignFail
  dsimp only
  repeat' split
  all_goals simp only [↓Hub.countLost_form, ↓Hub.portStart_form, ↓Hub.sendResult_form, ↓Hub.setLane_form, ↓Hub.setPort_form,
    ↓Hub.settled_form]

theorem Hub.hello_form (h : Hub) (p role maxRate maxWidth locked : Nat) : (h.hello p role maxRate maxWidth locked).form = h.form := by
  simp only [Hub.hello, ↓Hub.notice_form, ↓Hub.portStart_form, ↓Hub.setPort_form, ↓Hub.tryUp_form, ↓apply_ite Hub.form, ite_self]

theorem Hub.serial_form (h : Hub) (p : Nat) (sn : BitVec 48) : (h.serial p sn).form = h.form := by
  simp only [Hub.serial, ↓Hub.setPort_form, ↓Hub.tryUp_form, ↓apply_ite Hub.form, ite_self]

theorem Hub.trainStep_form (h : Hub) (p rate mcount : Nat) : (h.trainStep p rate mcount).form = h.form := by
  unfold Hub.trainStep
  dsimp only
  repeat' split
  all_goals simp only [↓Hub.enterStep_form, ↓Hub.setPort_form]

theorem Hub.releaseP00_form (h : Hub) : h.releaseP00.form = h.form := by
  unfold Hub.releaseP00
  dsimp only
  repeat' split
  all_goals simp only [↓Hub.setPort_form, ↓Hub.trainStep_form, ↓Hub.form_update]

theorem Hub.prbsCheck_form (h : Hub) (p : Nat) (passed : List Bool) : (h.prbsCheck p passed).form = h.form := by
  unfold Hub.prbsCheck
  dsimp only
  repeat' split
  all_goals simp only [↓Hub.sendResult_form, ↓Hub.setPort_form, ↓Hub.widthSettle_form]

theorem Hub.result_form (h : Hub) (p rate lanes : Nat) : (h.result p rate lanes).form = h.form := by
  unfold Hub.result
  split <;> simp only [↓Hub.setPort_form, ↓Hub.stepDone_form, ↓apply_ite Hub.form, ite_self]

theorem Hub.trainRequest_form (h : Hub) (p rate : Nat) : (h.trainRequest p rate).form = h.form := by
  simp only [Hub.trainRequest, ↓Hub.askRate_form, ↓apply_ite Hub.form, ite_self]

theorem Hub.probe_form (h : Hub) (p : Nat) : (h.probe p).form = h.form := by
  simp only [Hub.probe, ↓Hub.askWidth_form, ↓Hub.setPort_form, ↓Hub.startStep_form, ↓apply_ite Hub.form, ite_self]

theorem Hub.parkPort_form (h : Hub) (p : Nat) : (h.parkPort p).form = h.form := by
  simp only [Hub.parkPort, ↓Hub.portLost_form, ↓apply_ite Hub.form, ite_self]

theorem Hub.signalDetect_form (h : Hub) (p : Nat) : (h.signalDetect p).form = h.form := by
  simp only [Hub.signalDetect, ↓Hub.portStart_form, ↓apply_ite Hub.form, ite_self]

theorem Hub.widthRequest_form (h : Hub) (p w : Nat) : (h.widthRequest p w).form = h.form := by
  simp only [Hub.widthRequest, ↓Hub.askWidth_form, ↓Hub.setPort_form, ↓Hub.widthSettle_form, ↓apply_ite Hub.form, ite_self]

theorem Hub.answer_form (h : Hub) (p lanes : Nat) : (h.answer p lanes).form = h.form := by
  unfold Hub.answer
  split <;> simp only [↓Hub.setPort_form, ↓Hub.widthSettle_form, ↓apply_ite Hub.form, ite_self]

theorem Hub.order_form (h : Hub) (p w mcount : Nat) : (h.order p w mcount).form = h.form := by
  simp only [Hub.order, ↓Hub.setPort_form, ↓apply_ite Hub.form, ite_self]

theorem Hub.elasticSlip_form (h : Hub) (p l : Nat) : (h.elasticSlip p l).form = h.form := by
  simp only [Hub.elasticSlip, ↓Hub.notice_form, ↓Hub.retrain_form]

theorem Hub.prbsSync_form (h : Hub) (p l : Nat) : (h.prbsSync p l).form = h.form := by
  simp only [Hub.prbsSync, ↓Hub.setLane_form, ↓apply_ite Hub.form, ite_self]

theorem Hub.syncLoss_form (h : Hub) (p l : Nat) : (h.syncLoss p l).form = h.form := by
  simp only [Hub.syncLoss, ↓Hub.countBits_form, ↓Hub.setLane_form, ↓apply_ite Hub.form, ite_self]

/-! ### Krenlink -/

theorem Hub.streamSent_form (h : Hub) (p : Nat) (key : FlowKey) (seq : Word) : (h.streamSent p key seq).form = h.form := by
  unfold Hub.streamSent
  repeat' split
  all_goals simp only [↓Hub.flowTouch_form, ↓Hub.freeAcked_form, ↓Hub.setFlow_form]

theorem Hub.frameSent_form (h : Hub) (p : Nat) (f : Frame) (seq : Option Nat) : (h.frameSent p f seq).form = h.form := by
  unfold Hub.frameSent
  repeat' split
  all_goals simp only [↓Hub.setLink_form, ↓Hub.streamSent_form, ↓Hub.form_update, modAt]

theorem Hub.timecorDue_form (h : Hub) (p : Nat) : (h.timecorDue p).form = h.form := by
  simp only [Hub.timecorDue, ↓Hub.ctl_form, ↓Hub.setPort_form, ↓apply_ite Hub.form, ite_self]

theorem Hub.ctlSent_form (h : Hub) (p : Nat) (c : CtlBlock) : (h.ctlSent p c).form = h.form := by
  simp only [Hub.ctlSent, ↓Hub.closeCoupler_form, ↓Hub.requestSent_form, ↓apply_ite Hub.form, ite_self]

theorem Hub.sideBlock_form (h : Hub) (p : Nat) (b : Nat → Nat) : (h.sideBlock p b).form = h.form := by
  simp only [Hub.sideBlock, ↓Hub.setLane_form, ↓forAll_form, implies_true]

theorem Hub.sendMark_form (h : Hub) (p lane : Nat) : (h.sendMark p lane).form = h.form := by
  unfold Hub.sendMark
  dsimp only
  repeat' split
  all_goals simp only [↓Hub.applyWidth_form, ↓Hub.enterStep_form, ↓Hub.setLane_form, ↓Hub.setPort_form, ↓Hub.sideBlock_form, ↓apply_ite
    Hub.form, ite_self]

theorem Hub.sendPacketBlock_form (h : Hub) (p lane cls : Nat) : (h.sendPacketBlock p lane cls).form = h.form := by
  unfold Hub.sendPacketBlock
  dsimp only
  repeat' split
  all_goals simp only [↓Hub.frameSent_form, ↓Hub.setLane_form, ↓Hub.setLink_form]

theorem Hub.nextNew_form (h : Hub) (p cls : Nat) {f : Frame} {g : Hub} (next : h.nextNew p cls = some (f, g)) : g.form = h.form := by
  unfold Hub.nextNew at next
  extract_lets q queue fromQueue fl n h' i at next
  clear_value queue
  have queued (u : Unit) (first : fromQueue u = some (f, g)) : g.form = h.form := by
    unfold fromQueue at first
    split at first
    · split at first
      · obtain ⟨-, rfl⟩ := by simpa using first
        exact h.setLink_form _ _
      · cases first
    · cases first
  have ticked : h'.form = h.form := by
    simp only [h', ↓apply_ite Hub.form, ↓Hub.tick_form, ite_self]
  split at next
  · exact queued () next
  · split at next
    · cases next
    · split at next
      · exact queued () next
      · split at next
        · cases next
        · dsimp only at next
          split at next
          · obtain ⟨-, rfl⟩ := by simpa using next
            exact (h'.setFlow_form _ _).trans ticked
          · cases next

theorem Hub.pickClass_form (h : Hub) (p : Nat) {cls : Nat} {g : Hub} (picked : h.pickClass p = some (cls, g)) : g.form = h.form := by
  unfold Hub.pickClass at picked
  extract_lets k start try1 replaying at picked
  have begun (cls : Nat) (f : Frame) (seq : Option Nat) (g : Hub) : (start cls f seq g).form = g.form := g.setLink_form _ _
  have tried (i : Nat) (first : try1 i = some (cls, g)) : g.form = h.form := by
    unfold try1 at first
    split at first
    · cases first; rfl
    · obtain ⟨⟨f, k⟩, next, same⟩ := Option.map_eq_some_iff.1 first
      cases same
      exact (begun _ _ _ _).trans (h.nextNew_form p _ next)
  split at picked
  · cases picked
  · split at picked
    · cases picked; rfl
    · split at picked
      · cases picked; rfl
      · cases picked
        exact (begun _ _ _ _).trans (h.setLink_form _ _)
    · obtain ⟨c, -, first⟩ := List.exists_of_findSome?_eq_some picked
      exact tried c first

theorem Hub.blockBoundary_form (h : Hub) (p : Nat) : (h.blockBoundary p).form = h.form := by
  unfold Hub.blockBoundary
  split
  · rfl
  · split
    · simp only [↓Hub.setPort_form, ↓Hub.tick_form]
    · split
      · refine forAll_form _ (fun l g => g.setLane_form _ _ _) _ _
      · split
        · rfl
        · extract_lets q w lane h1 side b h2
          have counted : h1.form = h.form := h.setPort_form _ _
          have side_form (b : Nat) (g : Hub) : (side b g).form = g.form := by
            simp only [side, ↓apply_ite Hub.form, ↓Hub.sideBlock_form, ite_self]
          have timed : h2.form = h.form := by
            simp only [h2, ↓side_form, ↓Hub.timecorDue_form, counted]
          split
          · simp only [↓Hub.sendMark_form, counted]
          · split
            · simp only [side_form, ↓Hub.setLane_form, counted]
            · split
              · simp only [↓Hub.ctlSent_form, ↓Hub.setLane_form, ↓Hub.setLink_form, timed]
              · split
                · next cls h' picked =>
                  have same : h'.form = h.form := by
                    split at picked
                    · cases picked
                    · exact (Hub.pickClass_form _ _ picked).trans timed
                  simp only [↓apply_ite Hub.form, ↓Hub.sendPacketBlock_form, ↓Hub.setLane_form, ↓Hub.setLink_form, same, ite_self]
                · simp only [↓Hub.setLane_form, timed]

theorem Hub.sendAck_form (h : Hub) (p : Nat) : (h.sendAck p).form = h.form := by
  simp only [Hub.sendAck, ↓Hub.setLink_form]

theorem Hub.countNak_form (h : Hub) (p : Nat) : (h.countNak p).form = h.form := by
  simp only [Hub.countNak, ↓Hub.retrain_form, ↓Hub.setLink_form, ↓apply_ite Hub.form, ite_self]

theorem Hub.sendNak_form (h : Hub) (p cause : Nat) : (h.sendNak p cause).form = h.form := by
  simp only [Hub.sendNak, ↓Hub.countNak_form, ↓Hub.setLink_form]

theorem Hub.notAccepted_form (h : Hub) (p cause : Nat) : (h.notAccepted p cause).form = h.form := by
  simp only [Hub.notAccepted, ↓Hub.sendNak_form, ↓apply_ite Hub.form, ite_self]

theorem Hub.ackBlock_form (h : Hub) (p seq : Nat) : (h.ackBlock p seq).form = h.form := by
  simp only [Hub.ackBlock, ↓Hub.setLink_form]

theorem Hub.nakBlock_form (h : Hub) (p seq : Nat) : (h.nakBlock p seq).form = h.form := by
  simp only [Hub.nakBlock, ↓Hub.countNak_form, ↓Hub.setLink_form, ↓apply_ite Hub.form, ite_self]

theorem Hub.replayTimeout_form (h : Hub) (p : Nat) : (h.replayTimeout p).form = h.form := by
  simp only [Hub.replayTimeout, ↓Hub.setLink_form, ↓apply_ite Hub.form, ite_self]

theorem Hub.nakRepeat_form (h : Hub) (p : Nat) : (h.nakRepeat p).form = h.form := by
  simp only [Hub.nakRepeat, ↓Hub.sendNak_form, ↓apply_ite Hub.form, ite_self]

theorem Hub.pauseBlock_form (h : Hub) (p : Nat) (st : Bool) : (h.pauseBlock p st).form = h.form := by
  simp only [Hub.pauseBlock, ↓Hub.setLink_form]

theorem Hub.pauseRepeat_form (h : Hub) (p : Nat) : (h.pauseRepeat p).form = h.form := by
  simp only [Hub.pauseRepeat, ↓Hub.setLink_form, ↓apply_ite Hub.form, ite_self]

theorem Hub.pauseLost_form (h : Hub) (p : Nat) : (h.pauseLost p).form = h.form := by
  simp only [Hub.pauseLost, ↓Hub.setLink_form, ↓apply_ite Hub.form, ite_self]

theorem Hub.invCtl_form (h : Hub) (p : Nat) : (h.invCtl p).form = h.form := by
  simp only [Hub.invCtl, ↓Hub.setLink_form]

theorem Hub.streamIn_form (h : Hub) (k : PacketIn) : (h.streamIn k).form = h.form := by
  simp only [Hub.streamIn, ↓Hub.notice_form, ↓Hub.form_update, ↓apply_ite Hub.form, ite_self]

theorem Hub.receive_form (h : Hub) (p : Nat) (k : PacketIn) : (h.receive p k).1.form = h.form := by
  unfold Hub.receive
  dsimp only
  repeat' split
  all_goals simp only [↓Hub.notAccepted_form, ↓Hub.sendAck_form, ↓Hub.setLink_form, ↓Hub.form_update]

theorem Hub.modalPacket_form (h : Hub) (p : Nat) (k : PacketIn) (f : ModalFrame) : (h.modalPacket p k f).form = h.form := by
  have received := h.receive_form p k
  unfold Hub.modalPacket
  generalize h.receive p k = r at received ⊢
  obtain ⟨g, accepted⟩ := r
  cases accepted <;> simpa only [↓apply_ite Hub.form, ↓Hub.modalArrive_form, ↓Hub.abandonCopy_form, ↓Hub.setLink_form, ite_self] using
    received

theorem Hub.searchOpen_form (h : Hub) (round : Nat) : (h.searchOpen round).form = h.form := by
  simp only [Hub.searchOpen, ↓Hub.ctl_form, ↓forAll_form, ↓Hub.form_update, ↓apply_ite Hub.form, ite_self, List.length_mapIdx, implies_true]

theorem Hub.passToken_form (h : Hub) (rest : List Nat) (n : Nat) (full : Bool) : (h.passToken rest n full).form = h.form := by
  unfold Hub.passToken
  split <;> simp only [↓Hub.ctl_form, ↓Hub.form_update]

theorem Hub.sendClaim_form (h : Hub) (a : Nat) : (h.sendClaim a).form = h.form := by
  simp only [Hub.sendClaim, ↓Hub.ctl_form, ↓Hub.tick_form, ↓apply_ite Hub.form, ite_self]

theorem Hub.token_form (h : Hub) (round next : Nat) (full : Bool) : (h.token round next full).form = h.form := by
  simp only [Hub.token, ↓Hub.ctl_form, ↓Hub.passToken_form, ↓Hub.sendClaim_form, ↓Hub.form_update, ↓apply_ite Hub.form, ite_self]

theorem Hub.searchReturn_form (h : Hub) (p round n2 : Nat) (full : Bool) : (h.searchReturn p round n2 full).form = h.form := by
  unfold Hub.searchReturn
  repeat' split
  all_goals simp only [↓Hub.ctl_form, ↓Hub.passToken_form, ↓Hub.setPort_form, ↓Hub.form_update]

theorem Hub.searchClose_form (h : Hub) (round : Nat) : (h.searchClose round).form = h.form := by
  simp only [Hub.searchClose, ↓Hub.ctl_form, ↓Hub.sendArrive_form, ↓forAll_form, ↓Hub.form_update, ↓apply_ite Hub.form, ite_self,
    List.length_map, implies_true]

theorem Hub.upward_form (h : Hub) (p code : Nat) (payload : BitVec 56) : (h.upward p code payload).form = h.form := by
  simp only [Hub.upward, ↓Hub.ctl_form, ↓apply_ite Hub.form, ite_self]

theorem Hub.claimBlock_form (h : Hub) (p : Nat) (payload : BitVec 56) : (h.claimBlock p payload).form = h.form := by
  simp only [Hub.claimBlock, ↓Hub.upward_form, ↓apply_ite Hub.form, ite_self]

theorem Hub.arriveRepeat_form (h : Hub) : h.arriveRepeat.form = h.form := by
  unfold Hub.arriveRepeat
  split <;> simp only [↓Hub.sendArrive_form, ↓apply_ite Hub.form, ite_self]

/-! ### Doorbell -/

theorem Hub.mbError_form (h : Hub) (cause : Nat) : (h.mbError cause).form = h.form := by
  simp only [Hub.mbError, ↓Hub.raise_form, ↓Hub.form_update]

theorem Hub.submit_form (h : Hub) : h.submit.form = h.form := by
  simp only [Hub.submit, ↓Hub.mbError_form, ↓Hub.form_update, ↓apply_ite Hub.form, ite_self]

theorem Hub.release_form (h : Hub) : h.release.form = h.form := by
  unfold Hub.release
  split <;> simp only [↓Hub.mbError_form, ↓Hub.form_update]

theorem Hub.writeIrqStat_form (h : Hub) (w : Word) : (h.writeIrqStat w).form = h.form := by
  simp only [Hub.writeIrqStat, ↓Hub.form_update]

theorem Hub.cancelLoad_form (h : Hub) : h.cancelLoad.form = h.form := by
  simp only [Hub.cancelLoad, ↓Hub.setTm_form]

theorem Hub.shown_form (h : Hub) (l : List Word) : (h.shown l).form = h.form := by
  simp only [Hub.shown, ↓Hub.form_update]

theorem Hub.hspiStatus_form (h : Hub) : h.hspiStatus.form = h.form := by
  simp only [Hub.hspiStatus, ↓Hub.shown_form, ↓Hub.form_update]

theorem Hub.readSummary_form (h : Hub) : h.readSummary.2.form = h.form := by simp only [Hub.readSummary, ↓Hub.form_update]

theorem Hub.readMbErr_form (h : Hub) : h.readMbErr.2.form = h.form := by simp only [Hub.readMbErr, ↓Hub.form_update]

theorem Hub.readReg_form (h : Hub) (r : Route) (a : Nat) : (h.readReg r a).2.form = h.form := by
  unfold Hub.readReg
  dsimp only
  repeat' split
  all_goals simp only [↓Hub.readLocal_form, ↓Hub.readSecLo_form, ↓Hub.readSummary_form, ↓Hub.readMbErr_form]

theorem Hub.hspiReads_form (n a : Nat) (h : Hub) : (Hub.hspiReads n a h).2.form = h.form := by
  induction n generalizing a h with
  | zero => rfl
  | succ n ih => simp only [Hub.hspiReads, ↓ih, ↓Hub.readReg_form]

theorem Hub.writeThrough_form (h : Hub) (e : Through) : (h.writeThrough e).form = h.form := by
  simp only [Hub.writeThrough, ↓Hub.setDie_form]

theorem Hub.cachePut_form (h : Hub) (e : CacheEntry) : (h.cachePut e).form = h.form := by
  unfold Hub.cachePut
  dsimp only
  repeat' split
  all_goals simp only [↓Hub.notice_form, ↓Hub.writeThrough_form, ↓Hub.form_update]

theorem Hub.cacheExpiry_form (h : Hub) : h.cacheExpiry.form = h.form := by
  simp only [Hub.cacheExpiry, ↓Hub.form_update]

theorem Hub.send_form (h : Hub) (r : Response) : (h.send r).form = h.form := by
  unfold Hub.send
  split <;> simp only [↓Hub.originate_form, ↓Hub.form_update, ↓apply_ite Hub.form, ite_self]

theorem Hub.markHanded_form (h : Hub) : h.markHanded.form = h.form := by
  simp only [Hub.markHanded, ↓Hub.writeThrough_form, ↓Hub.form_update, ↓apply_ite Hub.form, ite_self]

theorem Hub.handAgain_form (h : Hub) : h.handAgain.form = h.form := by
  simp only [Hub.handAgain, ↓Hub.markHanded_form, ↓Hub.send_form, ↓forAll_form, implies_true]

theorem Hub.takeOn_form (h : Hub) (route : Route) (q : ReqHeader) (payload : Bytes) (t : Nat) :
    (h.takeOn route q payload t).form = h.form := by
  unfold Hub.takeOn
  dsimp only
  repeat' split
  all_goals simp only [↓Hub.cacheExpiry_form, ↓Hub.cachePut_form, ↓Hub.send_form, ↓Hub.tick_form, ↓Hub.form_update]

theorem Hub.admitRaw_form (h : Hub) : h.admitRaw.form = h.form := by
  simp only [Hub.admitRaw, ↓Hub.takeOn_form, ↓forAll_form, ↓Hub.form_update, implies_true]

theorem Hub.takeIn_form (h : Hub) (route : Route) (q : ReqHeader) (payload : Bytes) : (h.takeIn route q payload).form = h.form := by
  simp only [Hub.takeIn, ↓Hub.admitRaw_form, ↓Hub.takeOn_form, ↓Hub.form_update, ↓apply_ite Hub.form, ite_self]

theorem Hub.intake_form (h : Hub) : h.intake.form = h.form := by
  simp only [Hub.intake, ↓Hub.mbError_form, ↓Hub.takeIn_form, ↓Hub.form_update, ↓apply_ite Hub.form, ite_self]

theorem Hub.svcTake_form (h : Hub) (k : PacketIn) : (h.svcTake k).form = h.form := by
  simp only [Hub.svcTake, ↓Hub.mbError_form, ↓Hub.takeIn_form, ↓Hub.form_update, ↓apply_ite Hub.form, ite_self]

theorem Hub.lifetime_form (h : Hub) : h.lifetime.form = h.form := by
  simp only [Hub.lifetime, ↓Hub.admitRaw_form, ↓Hub.cachePut_form, ↓forAll_form, ↓Hub.form_update, ↓apply_ite Hub.form, ite_self,
    implies_true]

theorem Hub.afterResponse_form (h : Hub) (op : Nat) : (h.afterResponse op).form = h.form := by
  simp only [Hub.afterResponse, ↓Hub.form_update, ↓apply_ite Hub.form, ite_self]

theorem Hub.finish_form (h : Hub) (x : Request) (r : Reply) : (h.finish x r).form = h.form := by
  simp only [Hub.finish, ↓Hub.afterResponse_form, ↓Hub.cachePut_form, ↓Hub.send_form, ↓apply_ite Hub.form, ite_self]

theorem Hub.completion_form (h : Hub) : h.completion.form = h.form := by
  unfold Hub.completion
  split <;> simp only [↓Hub.finish_form, ↓Hub.form_update]

theorem Hub.finishWrite_form (h : Hub) : h.finishWrite.form = h.form := by
  unfold Hub.finishWrite
  split <;> simp only [↓Hub.finish_form, ↓Hub.form_update]

theorem Hub.gapEnds_form (h : Hub) (since : Nat) : (h.gapEnds since).form = h.form := by
  simp only [Hub.gapEnds, ↓Hub.form_update]

theorem Hub.planeDone_form (h : Hub) (id : Word) (status : Nat) : (h.planeDone id status).form = h.form := by
  unfold Hub.planeDone
  split <;> simp only [↓Hub.schedDone_form]

theorem Hub.jobEnds_form (h : Hub) (j : LogJob) (status : Nat) : (h.jobEnds j status).form = h.form := by
  unfold Hub.jobEnds
  split <;> simp only [↓Hub.planeDone_form, ↓Hub.setTag_form]

theorem Hub.writeExpiry_form (h : Hub) : h.writeExpiry.form = h.form := by
  unfold Hub.writeExpiry
  repeat' split
  all_goals simp only [↓Hub.jobEnds_form, ↓Hub.tick_form, ↓Hub.setMgmt_form]

theorem Hub.tagNext_form (h : Hub) : h.tagNext.form = h.form := by
  unfold Hub.tagNext
  dsimp only
  repeat' split
  all_goals simp only [↓Hub.writeExpiry_form, ↓Hub.setTag_form]

theorem Hub.requestCompletion_form (h : Hub) : h.requestCompletion.form = h.form := by
  unfold Hub.requestCompletion
  split <;> simp only [↓Hub.completion_form, ↓Hub.finishWrite_form, ↓apply_ite Hub.form, ite_self]

/-! ### Faults -/

theorem Hub.setCores_form (h : Hub) (d : Nat) (f : Cores → Cores) : (h.setCores d f).form = h.form := by
  simp only [Hub.setCores, ↓Hub.setDie_form]

theorem Hub.saveCkpt_form (h : Hub) (d : Nat) : (h.saveCkpt d).form = h.form := by
  simp only [Hub.saveCkpt, ↓Hub.setCores_form]

theorem Hub.restoreFrom_form (h : Hub) (d : Nat) : (h.restoreFrom d).form = h.form := by
  simp only [Hub.restoreFrom, ↓Hub.setMgmt_form]

theorem Hub.settleRunning_form (h : Hub) (d : Nat) : (h.settleRunning d).form = h.form := by
  unfold Hub.settleRunning
  split <;> simp only [↓Hub.cachePut_form, ↓Hub.completion_form, ↓Hub.setMgmt_form, ↓Hub.form_update, ↓apply_ite Hub.form, ite_self]

theorem Hub.drillNext_form (h : Hub) : h.drillNext.form = h.form := by
  unfold Hub.drillNext
  dsimp only
  repeat' split
  all_goals simp only [↓Hub.planeDone_form, ↓Hub.raise_form, ↓Hub.saveCkpt_form, ↓Hub.setCores_form, ↓Hub.form_update]

theorem Hub.drillDrop_form (h : Hub) (d : Nat) : (h.drillDrop d).form = h.form := by
  simp only [Hub.drillDrop, ↓Hub.drillNext_form, ↓Hub.setCores_form, ↓Hub.form_update, ↓apply_ite Hub.form, ite_self]

theorem Hub.notSkewed_form (h : Hub) (d : Nat) : (h.notSkewed d).form = h.form := by
  simp only [Hub.notSkewed, ↓Hub.setDie_form, ↓Hub.setTm_form]

theorem Hub.moveLead_form (h : Hub) : h.moveLead.form = h.form := by
  unfold Hub.moveLead
  split <;> simp only [↓Hub.notSkewed_form, ↓Hub.notice_form, ↓Hub.saveCkpt_form, ↓Hub.setFlow_form, ↓Hub.startHk_form, ↓Hub.form_update,
    ↓apply_ite Hub.form, ite_self]

theorem Hub.capLoseDie_form (d n : Nat) (h : Hub) : (Hub.capLoseDie d n h).form = h.form := by
  unfold Hub.capLoseDie
  split <;> simp only [↓Hub.disarm_form, ↓Hub.setCap_form, ↓Hub.trainDone_form, modAll_length, ↓Hub.form_update, ↓apply_ite Hub.form,
    ite_self]

theorem Hub.passEnds_form (h : Hub) : h.passEnds.form = h.form := by
  simp only [Hub.passEnds, ↓Hub.form_update, ↓apply_ite Hub.form, ite_self]

theorem Hub.abortSlots_form (h : Hub) (d : Nat) : (h.abortSlots d).form = h.form := by
  simp only [Hub.abortSlots, ↓Hub.endHold_form, ↓Hub.mapCh_form, ↓Hub.setAudit_form, ↓forAll_form, ↓Hub.form_update, implies_true]

theorem Hub.dieOut_form (h : Hub) (d : Nat) : (h.dieOut d).form = h.form := by
  simp only [Hub.dieOut, ↓Hub.abortSlots_form, ↓Hub.capLoseDie_form, ↓Hub.closeCoupler_form, ↓Hub.drillDrop_form, ↓Hub.mapCh_form,
    ↓Hub.moveLead_form, ↓Hub.notSkewed_form, ↓Hub.passEnds_form, ↓Hub.portDown_form, ↓Hub.ppsDrop_form, ↓Hub.reLevel_form,
    ↓Hub.reSweep_form, ↓Hub.setDie_form, ↓Hub.vanish_form, ↓forAll_form, ↓Hub.form_update, ↓apply_ite Hub.form, ite_self,
    List.length_mapIdx, implies_true]

theorem Hub.dieIn_form (h : Hub) (d : Nat) : (h.dieIn d).form = h.form := by
  simp only [Hub.dieIn, ↓Hub.mapCh_form, ↓Hub.moveLead_form, ↓Hub.portStart_form, ↓Hub.reLevel_form, ↓Hub.reSweep_form,
    ↓Hub.resumeChan_form, ↓Hub.setCh_form, ↓Hub.setDie_form, ↓forAll_form, ↓Hub.form_update, ↓apply_ite Hub.form, ite_self,
    List.length_mapIdx, implies_true]

theorem Hub.dieFault_form (h : Hub) (d cause : Nat) : (h.dieFault d cause).form = h.form := by
  simp only [Hub.dieFault, ↓Hub.dieOut_form, ↓Hub.event_form, ↓Hub.setDie_form, ↓Hub.form_update, ↓apply_ite Hub.form, ite_self]

theorem Hub.dieRestart_form (h : Hub) (d : Nat) (passed : Bool) : (h.dieRestart d passed).form = h.form := by
  unfold Hub.dieRestart
  split <;> simp only [↓Hub.dieIn_form, ↓Hub.event_form, ↓Hub.setDie_form, ↓Hub.form_update, ↓apply_ite Hub.form, ite_self]

theorem Hub.laneWindow_form (h : Hub) (p l : Nat) : (h.laneWindow p l).form = h.form := by
  unfold Hub.laneWindow
  split <;> simp only [↓Hub.event_form, ↓Hub.retireLane_form, ↓Hub.setLane_form, ↓Hub.tick_form, ↓apply_ite Hub.form, ite_self]

theorem Hub.pageWindow_form (h : Hub) (d pg : Nat) : (h.pageWindow d pg).form = h.form := by
  unfold Hub.pageWindow
  split <;> simp only [↓Hub.event_form, ↓Hub.setDie_form, ↓apply_ite Hub.form, ite_self]

theorem Hub.auditWindow_form (h : Hub) (d : Nat) : (h.auditWindow d).form = h.form := by
  unfold Hub.auditWindow
  dsimp only
  repeat' split
  all_goals simp only [↓Hub.abortSlots_form, ↓Hub.event_form, ↓Hub.passEnds_form, ↓Hub.setAudit_form, ↓Hub.setEngWin_form, ↓Hub.form_update]

theorem Hub.windowClose_form (h : Hub) (u : Word) : (h.windowClose u).form = h.form := by
  unfold Hub.windowClose
  split <;> simp only [↓Hub.auditWindow_form, ↓Hub.chanWindow_form, ↓Hub.engineWindow_form, ↓Hub.laneWindow_form, ↓Hub.pageWindow_form]

theorem Hub.testFailed_form (d n : Nat) (h : Hub) : (Hub.testFailed d n h).form = h.form := by
  simp only [Hub.testFailed, ↓Hub.engineFail_form, ↓Hub.tick_form, ↓apply_ite Hub.form, ite_self]

theorem Hub.signatureTest_form (h : Hub) (d : Nat) (failed : List Nat) : (h.signatureTest d failed).form = h.form := by
  simp only [Hub.signatureTest, ↓Hub.testFailed_form, ↓forAll_form, ↓apply_ite Hub.form, ite_self, implies_true]

theorem Hub.localEcc_form (h : Hub) (d e : Nat) : (h.localEcc d e).form = h.form := by
  simp only [Hub.localEcc, ↓Hub.engineFail_form, ↓Hub.tick_form, ↓apply_ite Hub.form, ite_self]

theorem Hub.eccHit_form (h : Hub) (d area n : Nat) : (h.eccHit d area n).form = h.form := by
  unfold Hub.eccHit
  dsimp only
  repeat' split
  all_goals simp only [↓Hub.setCoach_form, ↓Hub.setFlow_form]

theorem Hub.eccError_form (h : Hub) (d pg : Nat) (unc : Bool) (addr : Nat) : (h.eccError d pg unc addr).form = h.form := by
  simp only [Hub.eccError, ↓Hub.eccHit_form, ↓Hub.event_form, ↓Hub.flowTouch_form, ↓Hub.setDie_form, ↓Hub.tick_form, ↓apply_ite Hub.form,
    ite_self]

theorem Hub.restoreChan_form (h : Hub) (c e : Nat) : (h.restoreChan c e).form = h.form := by
  simp only [Hub.restoreChan, ↓Hub.calQueue_form, ↓Hub.event_form, ↓Hub.resumeChan_form, ↓Hub.setCh_form, ↓Hub.setDie_form]

theorem Hub.tryRestore_form (h : Hub) (c : Nat) : (h.tryRestore c).1.form = h.form := by
  unfold Hub.tryRestore
  dsimp only
  split
  · split <;> simp only [↓Hub.restoreChan_form, ↓Hub.event_form, ↓Hub.tick_form]
  · simp only [↓Hub.event_form, ↓Hub.tick_form]

theorem Hub.autoRestore_form (h : Hub) (c : Nat) : (h.autoRestore c).form = h.form := by
  simp only [Hub.autoRestore, ↓apply_ite Hub.form, ↓Hub.setCh_form, ↓Hub.tryRestore_form, ite_self]

theorem Hub.dropHeld_form (h : Hub) (d : Nat) : (h.dropHeld d).form = h.form := by
  simp only [Hub.dropHeld, ↓Hub.mapCh_form, ↓Hub.schedDone_form, ↓forAll_form, implies_true]

theorem Hub.freeze_form (h : Hub) (d : Nat) : (h.freeze d).form = h.form := by
  simp only [Hub.freeze, ↓Hub.abortSlots_form, ↓Hub.drillDrop_form, ↓Hub.dropHeld_form, ↓Hub.event_form, ↓Hub.gapEnds_form,
    ↓Hub.handAgain_form, ↓Hub.moveLead_form, ↓Hub.notSkewed_form, ↓Hub.passEnds_form, ↓Hub.raise_form, ↓Hub.reLevel_form,
    ↓Hub.restoreFrom_form, ↓Hub.setDie_form, ↓Hub.settleRunning_form, ↓apply_ite Hub.form, ite_self]

theorem Hub.mcDrill_form (h : Hub) (dies : List Nat) (id : Option Word) : (h.mcDrill dies id).form = h.form := by
  simp only [Hub.mcDrill, ↓Hub.drillNext_form, ↓Hub.ok_form, ↓Hub.setCores_form, ↓Hub.onMask_form, ↓forAll_form, ↓Hub.form_update,
    implies_true]

theorem Hub.failoverBeat_form (h : Hub) (d t : Nat) : (h.failoverBeat d t).form = h.form := by
  simp only [Hub.failoverBeat, ↓Hub.event_form, ↓Hub.freeze_form, ↓Hub.gapEnds_form, ↓Hub.handAgain_form, ↓Hub.restoreFrom_form,
    ↓Hub.setCores_form, ↓Hub.settleRunning_form, ↓Hub.tick_form, ↓apply_ite Hub.form, ite_self]

theorem Hub.heartbeat_form (h : Hub) (d : Nat) : (h.heartbeat d).form = h.form := by
  unfold Hub.heartbeat
  dsimp only
  repeat' split
  all_goals simp only [↓Hub.crossEvent_form, ↓Hub.drillNext_form, ↓Hub.failoverBeat_form, ↓Hub.gapEnds_form, ↓Hub.markHanded_form,
    ↓Hub.notice_form, ↓Hub.restoreFrom_form, ↓Hub.setCores_form]

theorem Hub.sentinelPeriod_form (h : Hub) (d : Nat) : (h.sentinelPeriod d).form = h.form := by
  simp only [Hub.sentinelPeriod, ↓Hub.freeze_form, ↓Hub.raise_form, ↓Hub.setCores_form, ↓Hub.form_update, ↓apply_ite Hub.form, ite_self]

theorem Hub.standbyTimeout_form (h : Hub) (d : Nat) : (h.standbyTimeout d).form = h.form := by
  unfold Hub.standbyTimeout
  dsimp only
  repeat' split
  all_goals simp only [↓Hub.drillNext_form, ↓Hub.event_form, ↓Hub.freeze_form, ↓Hub.gapEnds_form, ↓Hub.restoreFrom_form,
    ↓Hub.setCores_form, ↓Hub.form_update]

theorem Hub.checkpoint_form (h : Hub) (d : Nat) : (h.checkpoint d).form = h.form := by
  simp only [Hub.checkpoint, ↓Hub.saveCkpt_form, ↓apply_ite Hub.form, ite_self]

theorem Hub.sentVote_form (h : Hub) (copy : Nat) : (h.sentVote copy).form = h.form := by
  simp only [Hub.sentVote, ↓Hub.notice_form, ↓Hub.form_update, ↓apply_ite Hub.form, ite_self, modAt]

theorem Hub.timeSkew_form (h : Hub) (d : Nat) (diffPs : Int) : (h.timeSkew d diffPs).form = h.form := by
  simp only [Hub.timeSkew, ↓Hub.notice_form, ↓Hub.setDie_form, ↓Hub.tiuEdge_form, ↓Hub.setTm_form, ↓forAll_form, ↓apply_ite Hub.form,
    ite_self, implies_true]

theorem Hub.fltRead_form (h : Hub) (first : Word) (max' : Nat) : (h.fltRead first max').form = h.form := by
  simp only [Hub.fltRead, ↓Hub.ok_form]

theorem Hub.fltCfgSet_form (h : Hub) (ch lane eng mem : Word) : (h.fltCfgSet ch lane eng mem).form = h.form := by
  simp only [Hub.fltCfgSet, ↓Hub.ok_form, ↓Hub.refuse_form, ↓Hub.form_update, ↓apply_ite Hub.form, ite_self]

theorem Hub.fltCfgGet_form (h : Hub) : h.fltCfgGet.form = h.form := by
  simp only [Hub.fltCfgGet, ↓Hub.ok_form]

theorem Hub.fltRetire_form (h : Hub) (u : Word) : (h.fltRetire u).form = h.form := by
  unfold Hub.fltRetire
  dsimp only
  repeat' split
  all_goals simp only [↓Hub.dieOut_form, ↓Hub.event_form, ↓Hub.ok_form, ↓Hub.refuse_form, ↓Hub.refuseDie_form, ↓Hub.retireChan_form,
    ↓Hub.retireLane_form, ↓Hub.setDie_form, ↓Hub.setEngWin_form, ↓Hub.spareChan_form, ↓Hub.onDies_form, ↓Hub.form_update]

theorem Hub.restoreWith_form (h : Hub) (u : Word) (k : Hub → Hub) (keeps : ∀ g, (k g).form = g.form) :
    (h.restoreWith u k).form = h.form := by
  simp only [Hub.restoreWith, ↓apply_ite Hub.form, ↓Hub.ok_form, ↓Hub.refuse_form, ↓Hub.event_form, keeps, ↓Hub.form_update,
    ↓Hub.tick_form, ite_self]

theorem Hub.fltRestore_form (h : Hub) (u : Word) : (h.fltRestore u).form = h.form := by
  unfold Hub.fltRestore
  dsimp only
  split
  · simp only [↓apply_ite Hub.form, ↓Hub.refuse_form, ↓Hub.onDies_form, ↓Hub.ok_form, ↓Hub.tryRestore_form, ite_self]
  · simp only [↓apply_ite Hub.form, ↓Hub.refuse_form, ↓Hub.onDies_form, ↓Hub.restoreWith_form, ↓Hub.reLevel_form, ↓Hub.portStart_form,
      ↓Hub.plainWidth_form, ↓Hub.event_form, ↓Hub.setLane_form, ite_self, implies_true]
  · simp only [↓apply_ite Hub.form, ↓Hub.refuse_form, ↓Hub.onDies_form, ↓Hub.restoreWith_form, ↓Hub.setDie_form, ↓Hub.event_form,
      ite_self, implies_true]
  · simp only [↓apply_ite Hub.form, ↓Hub.refuse_form, ↓Hub.refuseDie_form, ↓Hub.restoreWith_form, ↓Hub.setDie_form, ↓Hub.event_form,
      ↓Hub.dieIn_form, ite_self, implies_true]
  · exact h.refuse_form _

/-! ### Calibrate -/

theorem Hub.setCal_form (h : Hub) (f : Cal → Cal) : (h.setCal f).form = h.form := by
  simp only [Hub.setCal, ↓Hub.form_update]

theorem Hub.takeOctet_form (h : Hub) (o : Nat) : (h.takeOctet o).form = h.form := by
  simp only [Hub.takeOctet, ↓Hub.setCal_form]

theorem Hub.newPass_form (h : Hub) : h.newPass.form = h.form := by
  simp only [Hub.newPass, ↓Hub.setCal_form]

theorem Hub.background_form (h : Hub) : h.background.form = h.form := by
  unfold Hub.background
  dsimp only
  repeat' split
  all_goals simp only [↓Hub.newPass_form, ↓Hub.setCal_form]

theorem Hub.refEnd_form (h : Hub) (d : Nat) : (h.refEnd d).form = h.form := by
  simp only [Hub.refEnd, ↓Hub.setAudit_form]

theorem Hub.refInvalid_form (h : Hub) (o cause : Nat) (diffUv : Int) : (h.refInvalid o cause diffUv).form = h.form := by
  simp only [Hub.refInvalid, ↓Hub.mapCh_form, ↓Hub.notice_form, ↓Hub.setCal_form]

theorem Hub.refRecheck_form (h : Hub) (d : Nat) (done : Bool) : (h.refRecheck d done).form = h.form := by
  unfold Hub.refRecheck
  repeat' split
  all_goals simp only [↓Hub.refBegin_form, ↓Hub.refEnd_form, ↓Hub.setCal_form]

theorem Hub.setSlot_form (h : Hub) (d : Nat) (f : Slot → Slot) : (h.setSlot d f).form = h.form := by
  simp only [Hub.setSlot, ↓Hub.setCal_form]

theorem Hub.slotStart_form (h : Hub) (d : Nat) : (h.slotStart d).form = h.form := by
  unfold Hub.slotStart
  split <;> simp only [↓Hub.refBegin_form, ↓Hub.setCal_form, ↓Hub.takeOctet_form]

theorem Hub.slotCheck_form (h : Hub) (s : Slot) : (h.slotCheck s).form = h.form := by
  unfold Hub.slotCheck
  repeat' split
  all_goals simp only [↓Hub.refEnd_form, ↓Hub.refInvalid_form, ↓Hub.setSlot_form]

theorem Hub.slotPreCheck_form (h : Hub) (s : Slot) : (h.slotPreCheck s).form = h.form := by
  simp only [Hub.slotPreCheck, ↓Hub.mapCh_form, ↓Hub.setSlot_form, ↓Hub.urgentChan_form, ↓forAll_form, ↓apply_ite Hub.form, ite_self,
    implies_true]

theorem Hub.slotHold_form (h : Hub) (s : Slot) : (h.slotHold s).form = h.form := by
  simp only [Hub.slotHold, ↓Hub.mapCh_form, ↓Hub.setOct_form, ↓Hub.setSlot_form]

theorem Hub.slotStep_form (h : Hub) (s : Slot) (n : Nat) (f : Nat → Chan → CalMeas → CalMeas) : (h.slotStep s n f).form = h.form := by
  simp only [Hub.slotStep, ↓Hub.mapCh_form, ↓Hub.setSlot_form]

theorem Hub.slotExc_form (h : Hub) (s : Slot) (m : ExcMeas) : (h.slotExc s m).form = h.form := by
  simp only [Hub.slotExc, ↓Hub.setSlot_form, ↓Hub.slotStep_form]

theorem Hub.slotResult_form (cfg : Word) (c : Nat) (m : CalMeas) (h : Hub) : (Hub.slotResult cfg c m h).form = h.form := by
  simp only [Hub.slotResult, ↓Hub.chanFault_form, ↓Hub.notice_form, ↓Hub.retireChan_form, ↓Hub.setCh_form, ↓Hub.tick_form, ↓apply_ite
    Hub.form, ite_self, modAt]

theorem Hub.slotSkip_form (c cause : Nat) (h : Hub) : (Hub.slotSkip c cause h).form = h.form := by
  simp only [Hub.slotSkip, ↓Hub.notice_form, ↓Hub.setCh_form]

theorem Hub.slotChannel_form (cfg : Word) (c : Nat) (h : Hub) : (Hub.slotChannel cfg c h).form = h.form := by
  unfold Hub.slotChannel
  dsimp only
  repeat' split
  all_goals simp only [↓Hub.setCh_form, ↓Hub.slotResult_form, ↓Hub.slotSkip_form]

theorem Hub.excRelease_form (h : Hub) (s : Slot) : (h.excRelease s).form = h.form := by
  unfold Hub.excRelease
  split <;> simp only [↓Hub.setOct_form]

theorem Hub.slotRelease_form (h : Hub) (s : Slot) : (h.slotRelease s).form = h.form := by
  unfold Hub.slotRelease
  repeat' split
  all_goals simp only [↓Hub.endHold_form, ↓Hub.excRelease_form, ↓Hub.passEnds_form, ↓Hub.refEnd_form, ↓Hub.refInvalid_form,
    ↓Hub.setCal_form, ↓Hub.setOct_form, ↓Hub.slotChannel_form, ↓forAll_form, implies_true]

theorem Hub.slotDone_form (h : Hub) (d : Nat) : (h.slotDone d).form = h.form := by
  unfold Hub.slotDone
  split <;> simp only [↓Hub.notice_form, ↓Hub.setCal_form]

theorem Hub.auditBegin_form (h : Hub) (d : Nat) : (h.auditBegin d).form = h.form := by
  simp only [Hub.auditBegin, ↓Hub.setAudit_form, ↓apply_ite Hub.form, ite_self]

theorem Hub.auditCal_form (h : Hub) (d : Nat) : (h.auditCal d).form = h.form := by
  unfold Hub.auditCal
  split <;> simp only [↓Hub.setAudit_form, ↓apply_ite Hub.form, ite_self]

theorem Hub.setTiu_form (h : Hub) (d n : Nat) (f : TiuChan → TiuChan) : (h.setTiu d n f).form = h.form := by
  simp only [Hub.setTiu, ↓Hub.setDie_form, modAt]

theorem Hub.tiuStart_form (h : Hub) (d n : Nat) : (h.tiuStart d n).form = h.form := by
  simp only [Hub.tiuStart, ↓Hub.setTiu_form, ↓apply_ite Hub.form, ite_self]

theorem Hub.tiuDone_form (h : Hub) (d n : Nat) (hits : List Nat) (inl : Nat) : (h.tiuDone d n hits inl).form = h.form := by
  unfold Hub.tiuDone
  split <;> simp only [↓Hub.notice_form, ↓Hub.setTiu_form, ↓apply_ite Hub.form, ite_self]

theorem Hub.margin_form (h : Hub) (p l : Nat) (points : List EyePoint) : (h.margin p l points).form = h.form := by
  simp only [Hub.margin, ↓Hub.notice_form, ↓Hub.setCal_form, ↓Hub.setLane_form, ↓apply_ite Hub.form, ite_self]

theorem Hub.calSlot_form (h : Hub) (d : Nat) (e : CalEvent) : (h.calSlot d e).form = h.form := by
  unfold Hub.calSlot
  repeat' split
  all_goals simp only [↓Hub.auditBegin_form, ↓Hub.auditCal_form, ↓Hub.margin_form, ↓Hub.refBegin_form, ↓Hub.slotCheck_form,
    ↓Hub.slotDone_form, ↓Hub.slotExc_form, ↓Hub.slotHold_form, ↓Hub.slotPreCheck_form, ↓Hub.slotRelease_form, ↓Hub.slotStart_form,
    ↓Hub.slotStep_form, ↓Hub.tiuDone_form, ↓Hub.tiuStart_form, ↓apply_ite Hub.form, ite_self]

theorem Hub.requeue_form (h : Hub) (o : Nat) : (h.requeue o).form = h.form := by
  unfold Hub.requeue
  split <;> simp only [↓Hub.calQueue_form, ↓Hub.setOct_form, ↓apply_ite Hub.form, ite_self]

theorem Hub.calRun_form (h : Hub) (octs : List Nat) : (h.calRun octs).form = h.form := by
  simp only [Hub.calRun, ↓Hub.calQueue_form, ↓Hub.ok_form, ↓Hub.refuse_form, ↓Hub.onDies_form, ↓forAll_form, ↓apply_ite Hub.form, ite_self,
    implies_true]

theorem Hub.calCfgSet_form (h : Hub) (w : Word) : (h.calCfgSet w).form = h.form := by
  simp only [Hub.calCfgSet, ↓Hub.ok_form, ↓Hub.refuse_form, ↓Hub.setCal_form, ↓apply_ite Hub.form, ite_self]

theorem Hub.calCfgGet_form (h : Hub) : h.calCfgGet.form = h.form := by
  simp only [Hub.calCfgGet, ↓Hub.ok_form]

theorem Hub.calReport_form (h : Hub) (first count : Nat) : (h.calReport first count).form = h.form := by
  simp only [Hub.calReport, ↓Hub.ok_form, ↓Hub.refuse_form, ↓Hub.onDies_form, ↓apply_ite Hub.form, ite_self]

/-! ### Power -/

theorem Hub.setPwr_form (h : Hub) (f : Pwr → Pwr) : (h.setPwr f).form = h.form := by
  simp only [Hub.setPwr, ↓Hub.form_update]

theorem Hub.pwrStateSet_form (h : Hub) (st : Nat) : (h.pwrStateSet st).form = h.form := by
  unfold Hub.pwrStateSet
  repeat' split
  all_goals simp only [↓Hub.ok_form, ↓Hub.refuse_form, ↓Hub.setPwr_form]

theorem Hub.pwrGet_form (h : Hub) : h.pwrGet.form = h.form := by
  simp only [Hub.pwrGet, ↓Hub.ok_form]

theorem Hub.quadOff_form (q : Nat) (h : Hub) : (Hub.quadOff q h).form = h.form := by
  simp only [Hub.quadOff, ↓Hub.abortSlots_form, ↓Hub.mapCh_form, ↓Hub.passEnds_form, ↓Hub.portDown_form, ↓Hub.sclkHold_form,
    ↓Hub.setDie_form, ↓apply_ite Hub.form, ite_self, modAt]

theorem Hub.quadOn_form (q : Nat) (h : Hub) : (Hub.quadOn q h).form = h.form := by
  simp only [Hub.quadOn, ↓Hub.mapCh_form, ↓Hub.portStart_form, ↓Hub.sclkStart_form, ↓Hub.setDie_form, ↓apply_ite Hub.form, ite_self, modAt]

theorem Hub.pwrGate_form (h : Hub) (quads : List Nat) : (h.pwrGate quads).form = h.form := by
  simp only [Hub.pwrGate, ↓Hub.ok_form, ↓Hub.quadOff_form, ↓Hub.quadOn_form, ↓Hub.refuse_form, ↓Hub.onDies_form, ↓forAll_form, ↓apply_ite
    Hub.form, ite_self, implies_true]

theorem Hub.pwrTelem_form (h : Hub) : h.pwrTelem.form = h.form := by
  simp only [Hub.pwrTelem, ↓Hub.ok_form]

theorem Hub.telem_form (h : Hub) : h.telem.form = h.form := by
  simp only [Hub.telem, ↓Hub.record_form, ↓apply_ite Hub.form, ite_self]

theorem Hub.mgtLoad_form (h : Hub) (loads : List Nat) : (h.mgtLoad loads).form = h.form := by
  simp only [Hub.mgtLoad, ↓Hub.record_form, ↓apply_ite Hub.form, ite_self]

theorem Hub.gradientQueue_form (h : Hub) : h.gradientQueue.form = h.form := by
  simp only [Hub.gradientQueue, ↓Hub.calQueue_form, ↓forAll_form, implies_true]

theorem Hub.gradientCheck_form (h : Hub) : h.gradientCheck.form = h.form := by
  simp only [Hub.gradientCheck, ↓Hub.gradientQueue_form, ↓Hub.notice_form, ↓Hub.setPwr_form, ↓apply_ite Hub.form, ite_self]

theorem Hub.pmbusLatch_form (h : Hub) : h.pmbusLatch.form = h.form := by
  simp only [Hub.pmbusLatch, ↓Hub.form_update]

theorem Hub.telemetryRefresh_form (h : Hub) (vkeepMv : Nat) (l : List DieReading) : (h.telemetryRefresh vkeepMv l).form = h.form := by
  simp only [Hub.telemetryRefresh, Hub.tick, ↓apply_ite Hub.form, ↓Hub.gradientCheck_form, ↓Hub.pmbusLatch_form, ↓Hub.setPwr_form,
    ↓Hub.form_update, List.length_mapIdx, ite_self]

theorem Hub.holdUpStart_form (h : Hub) (cause : Nat) : (h.holdUpStart cause).form = h.form := by
  simp only [Hub.holdUpStart, ↓Hub.setLink_form, ↓Hub.setPwr_form, ↓apply_ite Hub.form, ite_self]

theorem Hub.vmainFall_form (h : Hub) : h.vmainFall.form = h.form := by
  simp only [Hub.vmainFall, ↓Hub.holdUpStart_form, ↓Hub.setPwr_form, ↓apply_ite Hub.form, ite_self]

theorem Hub.shedWidth_form (p : Nat) (h : Hub) : (Hub.shedWidth p h).form = h.form := by
  simp only [Hub.shedWidth, ↓Hub.askWidth_form, ↓apply_ite Hub.form, ite_self]

theorem Hub.shedRateAt_form (p : Nat) (h : Hub) : (Hub.shedRateAt p h).form = h.form := by
  simp only [Hub.shedRateAt, ↓Hub.askRate_form, ↓apply_ite Hub.form, ite_self]

theorem Hub.rawShed_form (c : Nat) (h : Hub) : (Hub.rawShed c h).form = h.form := by
  simp only [Hub.rawShed, ↓Hub.churnBreak_form, ↓Hub.sweepRate_form]

theorem Hub.rawBack_form (c : Nat) (h : Hub) : (Hub.rawBack c h).form = h.form := by
  simp only [Hub.rawBack, ↓Hub.setCh_form, ↓Hub.sweepRate_form]

theorem Hub.skimShed_form (h : Hub) : h.skimShed.form = h.form := by
  simp only [Hub.skimShed, ↓Hub.mapCh_form]

theorem Hub.skimBack_form (h : Hub) : h.skimBack.form = h.form := by
  simp only [Hub.skimBack, ↓Hub.mapCh_form]

theorem Hub.setShed_form (h : Hub) (n : Nat) : (h.setShed n).form = h.form := by
  simp only [Hub.setShed, ↓Hub.notice_form, ↓Hub.rawBack_form, ↓Hub.rawShed_form, ↓Hub.setPwr_form, ↓Hub.shedRateAt_form,
    ↓Hub.shedWidth_form, ↓Hub.skimBack_form, ↓Hub.skimShed_form, ↓forAll_form, ↓apply_ite Hub.form, ite_self, implies_true]

theorem Hub.shedEvaluation_form (h : Hub) : h.shedEvaluation.form = h.form := by
  simp only [Hub.shedEvaluation, ↓Hub.holdUpStart_form, ↓Hub.setPwr_form, ↓Hub.setShed_form, ↓apply_ite Hub.form, ite_self]

theorem Hub.vexcLow_form (h : Hub) (mv : Nat) : (h.vexcLow mv).form = h.form := by
  simp only [Hub.vexcLow, ↓Hub.mapCh_form, ↓Hub.notice_form, ↓Hub.setPwr_form, ↓apply_ite Hub.form, ite_self]

theorem Hub.vexcRestore_form (h : Hub) (mv : Nat) : (h.vexcRestore mv).form = h.form := by
  simp only [Hub.vexcRestore, ↓Hub.mapCh_form, ↓Hub.notice_form, ↓Hub.resumeChan_form, ↓Hub.setPwr_form, ↓forAll_form, ↓apply_ite Hub.form,
    ite_self, implies_true]

theorem Hub.setPmbus_form (h : Hub) (f : Pmbus → Pmbus) : (h.setPmbus f).form = h.form := by
  simp only [Hub.setPmbus, ↓Hub.form_update]

theorem Hub.pmbusOut_form (h : Hub) (v : Nat) : (h.pmbusOut v).form = h.form := by
  simp only [Hub.pmbusOut, ↓Hub.setPmbus_form]

theorem Hub.linear_form (h : Hub) (v : Int) : (h.linear v).form = h.form := by
  simp only [Hub.linear, ↓Hub.pmbusOut_form]

theorem Hub.setPage_form (h : Hub) (write : Option Byte) (pec : Pec) : (h.setPage write pec).form = h.form := by
  unfold Hub.setPage
  split <;> simp only [↓Hub.pmbusOut_form, ↓Hub.setPmbus_form, ↓apply_ite Hub.form, ite_self]

theorem Hub.clearFaults_form (h : Hub) (pec : Pec) : (h.clearFaults pec).form = h.form := by
  simp only [Hub.clearFaults, ↓Hub.setPmbus_form]

theorem Hub.readVkeep_form (h : Hub) : h.readVkeep.form = h.form := by
  simp only [Hub.readVkeep, ↓Hub.linear_form, ↓Hub.setPmbus_form, ↓apply_ite Hub.form, ite_self]

/-! ### Logbook -/

theorem Hub.ringEntry_form (h : Hub) : h.ringEntry.form = h.form := by
  unfold Hub.ringEntry
  repeat' split
  all_goals simp only [↓Hub.tagNext_form, ↓Hub.setTag_form, ↓apply_ite Hub.form, ite_self]

theorem Hub.logDrop_form (h : Hub) : h.logDrop.form = h.form := by
  simp only [Hub.logDrop, ↓Hub.setTag_form, ↓apply_ite Hub.form, ite_self]

theorem Hub.tagRough_form (h : Hub) : h.tagRough.form = h.form := by
  simp only [Hub.tagRough, ↓Hub.tagNext_form, ↓Hub.setTag_form]

theorem Hub.logRead_form (h : Hub) (first count : Nat) : (h.logRead first count).form = h.form := by
  simp only [Hub.logRead, ↓Hub.busy_form, ↓Hub.ok_form, ↓Hub.refuse_form, ↓Hub.tick_form, ↓apply_ite Hub.form, ite_self]

theorem Hub.logWrite_form (h : Hub) (first : Nat) (data : List Word) (owner : LogOwner) : (h.logWrite first data owner).form = h.form := by
  simp only [Hub.logWrite, ↓Hub.ok_form, ↓Hub.refuse_form, ↓Hub.tagNext_form, ↓Hub.setTag_form, ↓apply_ite Hub.form, ite_self]

theorem Hub.tagSay_form (h : Hub) (a : Option Bytes) : (h.tagSay a).form = h.form := by
  simp only [Hub.tagSay, ↓Hub.setTag_form]

theorem Hub.tagOk_form (h : Hub) (b : Bytes) : (h.tagOk b).form = h.form := by
  simp only [Hub.tagOk, ↓Hub.tagSay_form]

theorem Hub.tagErr_form (h : Hub) (code : Byte) : (h.tagErr code).form = h.form := by
  simp only [Hub.tagErr, ↓Hub.tagSay_form]

theorem Hub.onTag_form (h : Hub) (r : TagReq) (k : Hub → Hub) (keeps : ∀ g, (k g).form = g.form) : (h.onTag r k).form = h.form := by
  simp only [Hub.onTag, ↓apply_ite Hub.form, ↓Hub.tagSay_form, keeps, ite_self]

theorem Hub.inventory_form (h : Hub) (r : TagReq) (afi : Option Byte) (maskLen : Nat) (mask : BitVec 64) :
    (h.inventory r afi maskLen mask).form = h.form := by
  simp only [Hub.inventory, ↓Hub.tagOk_form, ↓Hub.tagSay_form, ↓apply_ite Hub.form, ite_self]

theorem Hub.stayQuiet_form (h : Hub) (r : TagReq) : (h.stayQuiet r).form = h.form := by
  unfold Hub.stayQuiet
  split <;> simp only [↓Hub.tagSay_form, ↓Hub.setTag_form, ↓apply_ite Hub.form, ite_self]

theorem Hub.tagSelect_form (h : Hub) (r : TagReq) : (h.tagSelect r).form = h.form := by
  unfold Hub.tagSelect
  split <;> simp only [↓Hub.tagOk_form, ↓Hub.tagSay_form, ↓Hub.setTag_form, ↓apply_ite Hub.form, ite_self]

theorem Hub.tagReady_form (h : Hub) (r : TagReq) : (h.tagReady r).form = h.form := by
  simp only [Hub.tagReady, ↓Hub.onTag_form, ↓Hub.tagOk_form, ↓Hub.setTag_form, implies_true]

theorem Hub.tagRead_form (h : Hub) (r : TagReq) (limit first count : Nat) : (h.tagRead r limit first count).form = h.form := by
  simp only [Hub.tagRead, ↓Hub.onTag_form, ↓Hub.tagErr_form, ↓Hub.tagOk_form, ↓apply_ite Hub.form, ite_self, implies_true]

theorem Hub.tagSecurity_form (h : Hub) (r : TagReq) (limit first count : Nat) : (h.tagSecurity r limit first count).form = h.form := by
  simp only [Hub.tagSecurity, ↓Hub.onTag_form, ↓Hub.tagErr_form, ↓Hub.tagOk_form, ↓apply_ite Hub.form, ite_self, implies_true]

theorem Hub.tagInfo_form (h : Hub) (r : TagReq) (size : Bytes) : (h.tagInfo r size).form = h.form := by
  simp only [Hub.tagInfo, ↓Hub.onTag_form, ↓Hub.tagOk_form, implies_true]

theorem Hub.tagCustom_form (h : Hub) (r : TagReq) (mfr : Byte) (k : Hub → Hub) (keeps : ∀ g, (k g).form = g.form) :
    (h.tagCustom r mfr k).form = h.form := by
  simp only [Hub.tagCustom, ↓apply_ite Hub.form, ↓Hub.tagSay_form, ↓Hub.onTag_form, keeps, ite_self, implies_true]

theorem Hub.ownerLock_form (h : Hub) (r : TagReq) (mfr : Byte) (seconds : Nat) : (h.ownerLock r mfr seconds).form = h.form := by
  simp only [Hub.ownerLock, ↓Hub.tagCustom_form, ↓Hub.tagErr_form, ↓Hub.tagNext_form, ↓Hub.tagOk_form, ↓Hub.setTag_form, ↓apply_ite
    Hub.form, ite_self, implies_true]

theorem Hub.logStatus_form (h : Hub) (r : TagReq) (mfr : Byte) : (h.logStatus r mfr).form = h.form := by
  simp only [Hub.logStatus, ↓Hub.tagCustom_form, ↓Hub.tagOk_form, implies_true]

theorem Hub.tagUnsupported_form (h : Hub) (r : TagReq) (code : Nat) (mfr : Byte) : (h.tagUnsupported r code mfr).form = h.form := by
  simp only [Hub.tagUnsupported, ↓Hub.onTag_form, ↓Hub.tagCustom_form, ↓Hub.tagErr_form, ↓Hub.tagSay_form, ↓apply_ite Hub.form, ite_self,
    implies_true]

theorem Hub.lockExpiry_form (h : Hub) : h.lockExpiry.form = h.form := by
  unfold Hub.lockExpiry
  split <;> simp only [↓Hub.tagNext_form, ↓Hub.setTag_form, ↓apply_ite Hub.form, ite_self]

theorem Hub.fieldAbsent_form (h : Hub) : h.fieldAbsent.form = h.form := by
  simp only [Hub.fieldAbsent, ↓Hub.tagNext_form, ↓Hub.setTag_form]

/-! ### Boot -/

theorem Hub.setBoot_form (h : Hub) (f : Boot → Boot) : (h.setBoot f).form = h.form := by
  simp only [Hub.setBoot, ↓Hub.form_update]

theorem Hub.bootNote_form (h : Hub) (u : Word) (code cls : Nat) (arg0 : Word) : (h.bootNote u code cls arg0).form = h.form := by
  simp only [Hub.bootNote, ↓Hub.event_form, ↓Hub.setBoot_form, ↓apply_ite Hub.form, ite_self]

theorem Hub.releaseReset_form (h : Hub) : h.releaseReset.form = h.form := by
  simp only [Hub.releaseReset, ↓Hub.setBoot_form, ↓Hub.setLevel_form, ↓apply_ite Hub.form, ite_self]

theorem Hub.vkeep_form (h : Hub) : h.vkeep.form = h.form := by
  simp only [Hub.vkeep, ↓Hub.form_update, ↓apply_ite Hub.form, ite_self]

theorem Hub.bay0Starts_form (h : Hub) : h.bay0Starts.form = h.form := by
  simp only [Hub.bay0Starts, ↓Hub.setBoot_form, ↓Hub.setPwr_form, ↓apply_ite Hub.form, ite_self]

theorem Hub.bayGood_form (h : Hub) (b : Nat) : (h.bayGood b).form = h.form := by
  unfold Hub.bayGood
  split <;> simp only [↓Hub.releaseReset_form, ↓Hub.setBoot_form, modAll_length, ↓Hub.form_update, ↓apply_ite Hub.form, ite_self]

theorem Hub.bayTimeout_form (h : Hub) (b : Nat) : (h.bayTimeout b).form = h.form := by
  unfold Hub.bayTimeout
  split <;> simp only [↓Hub.bootNote_form, ↓Hub.setDie_form, ↓forAll_form, ↓Hub.form_update, ↓apply_ite Hub.form, ite_self, implies_true]

theorem Hub.setVio_form (h : Hub) (a b : Bool) : (h.setVio a b).form = h.form := by
  simp only [Hub.setVio, ↓Hub.fci_form, ↓Hub.tinEdge_form, ↓Hub.trigEdge_form, ↓forAll_form, ↓Hub.form_update, ↓apply_ite Hub.form,
    ite_self, implies_true]

theorem Hub.sysReset_form (h : Hub) (confirm : Word) : (h.sysReset confirm).form = h.form := by
  simp only [Hub.sysReset, ↓Hub.ok_form, ↓Hub.refuse_form, ↓Hub.setBoot_form, ↓apply_ite Hub.form, ite_self]

theorem Hub.selectImage_form (h : Hub) : h.selectImage.form = h.form := by
  unfold Hub.selectImage
  split <;> simp only [↓Hub.openCoupler_form, ↓Hub.setBoot_form, ↓Hub.tick_form, ↓Hub.form_update, ↓apply_ite Hub.form, ite_self]

theorem Hub.dieReports_form (coreB dead : List Nat) (d : Nat) (h : Hub) : (Hub.dieReports coreB dead d h).form = h.form := by
  simp only [Hub.dieReports, ↓Hub.bootNote_form, ↓Hub.raise_form, ↓Hub.setDie_form, ↓apply_ite Hub.form, ite_self]

theorem Hub.joins_form (d : Nat) (h : Hub) : (Hub.joins d h).form = h.form := by
  simp only [Hub.joins, ↓Hub.dieIn_form, ↓Hub.moveLead_form, ↓Hub.portStart_form, ↓Hub.reSweep_form, ↓Hub.setDie_form, ↓Hub.skimOn_form,
    ↓forAll_form, ↓apply_ite Hub.form, ite_self, implies_true]

theorem Hub.bootRom_form (h : Hub) (coreA coreB dead : List Nat) (flashOk : Bool) (sfdp : Option Sfdp) :
    (h.bootRom coreA coreB dead flashOk sfdp).form = h.form := by
  simp only [Hub.bootRom, ↓Hub.dieReports_form, ↓Hub.joins_form, ↓Hub.selectImage_form, ↓Hub.setBoot_form, ↓forAll_form, ↓Hub.form_update,
    ↓apply_ite Hub.form, ite_self, implies_true]

theorem Hub.dieBootTimeout_form (h : Hub) (d : Nat) : (h.dieBootTimeout d).form = h.form := by
  unfold Hub.dieBootTimeout
  split <;> simp only [↓Hub.bootNote_form, ↓Hub.setDie_form, ↓Hub.form_update, ↓apply_ite Hub.form, ite_self]

theorem Hub.fwWrite_form (h : Hub) (img off : Nat) (data : Bytes) : (h.fwWrite img off data).form = h.form := by
  simp only [Hub.fwWrite, ↓Hub.ok_form, ↓Hub.refuse_form, ↓Hub.form_update, ↓apply_ite Hub.form, ite_self]

theorem Hub.fwCommit_form (h : Hub) (img : Nat) : (h.fwCommit img).form = h.form := by
  unfold Hub.fwCommit
  dsimp only
  repeat' split
  all_goals simp only [↓Hub.ok_form, ↓Hub.refuse_form, ↓Hub.setBoot_form, ↓Hub.tick_form, ↓Hub.form_update]

theorem Hub.cfgSave_form (h : Hub) : h.cfgSave.form = h.form := by
  simp only [Hub.cfgSave, ↓Hub.ok_form, ↓Hub.refuse_form, ↓Hub.setBoot_form, ↓Hub.form_update, ↓apply_ite Hub.form, ite_self]

theorem Hub.readCopies_form (h : Hub) : h.readCopies.form = h.form := by
  unfold Hub.readCopies
  repeat' split
  all_goals simp only [↓Hub.notice_form, ↓Hub.setBoot_form, ↓Hub.form_update]

theorem Hub.applyRoute_form (r : FlowKey × Dest) (h : Hub) : (Hub.applyRoute r h).form = h.form := by
  unfold Hub.applyRoute
  split <;> simp only [↓Hub.flowTouch_form, ↓Hub.setFlow_form, ↓Hub.toLocal_form, ↓Hub.toPort_form]

theorem Hub.applyCfg_form (h : Hub) (c : CfgCopy) : (h.applyCfg c).form = h.form := by
  simp only [Hub.applyCfg, ↓Hub.accept_form, ↓Hub.applyRoute_form, ↓Hub.capArm_form, ↓Hub.churnCfgSet_form, ↓Hub.churnSet_form,
    ↓Hub.linkCfgSet_form, ↓Hub.rawOn_form, ↓Hub.sepCfgSet_form, ↓Hub.skimOff_form, ↓Hub.skimOn_form, ↓Hub.strmCfgSet_form,
    ↓Hub.strmFcSet_form, ↓Hub.strmRawGroup_form, ↓Hub.strmWmSet_form, ↓Hub.timeAsymSet_form, ↓Hub.timeCfgSet_form, ↓Hub.timePpsSet_form,
    ↓Hub.timeTinSet_form, ↓Hub.withReply_form, ↓forAll_form, ↓apply_ite Hub.form, ite_self, implies_true]

theorem Hub.firmwareStart_form (h : Hub) (loopbackOk : Bool) : (h.firmwareStart loopbackOk).form = h.form := by
  unfold Hub.firmwareStart
  dsimp only
  repeat' split
  all_goals simp only [↓Hub.accept_form, ↓Hub.event_form, ↓Hub.openCoupler_form, ↓Hub.portStart_form, ↓Hub.readCopies_form,
    ↓Hub.retireLane_form, ↓Hub.setBoot_form, ↓forAll_form, ↓Hub.form_update, ↓apply_ite Hub.form, ite_self, List.length_map, implies_true]

theorem Hub.startFlows_form (h : Hub) : h.startFlows.form = h.form := by
  simp only [Hub.startFlows, ↓Hub.startHk_form, ↓Hub.form_update]

theorem Hub.confirmImage_form (h : Hub) : h.confirmImage.form = h.form := by
  unfold Hub.confirmImage
  dsimp only
  repeat' split
  all_goals simp only [↓Hub.form_update]

theorem Hub.thermalNote_form (h : Hub) : h.thermalNote.form = h.form := by
  unfold Hub.thermalNote
  split <;> simp only [↓Hub.notice_form, ↓Hub.setPwr_form]

theorem Hub.rough_form (h : Hub) : h.rough.form = h.form := by
  simp only [Hub.rough, ↓Hub.confirmImage_form, ↓Hub.newPass_form, ↓Hub.passEnds_form, ↓Hub.reSweep_form, ↓Hub.setBoot_form,
    ↓Hub.setCal_form, ↓Hub.setLevel_form, ↓Hub.skimOn_form, ↓Hub.startFlows_form, ↓Hub.tagRough_form, ↓Hub.thermalNote_form, ↓forAll_form,
    ↓apply_ite Hub.form, ite_self, implies_true]

theorem Hub.applyStored_form (h : Hub) : h.applyStored.form = h.form := by
  unfold Hub.applyStored
  repeat' split
  all_goals simp only [↓Hub.applyCfg_form, ↓Hub.releaseP00_form, ↓Hub.setBoot_form]

theorem Hub.full_form (h : Hub) : h.full.form = h.form := by
  simp only [Hub.full, ↓Hub.applyStored_form, ↓Hub.reLevel_form, ↓Hub.setLevel_form, ↓apply_ite Hub.form, ite_self]

theorem Hub.startupLate_form (h : Hub) : h.startupLate.form = h.form := by
  unfold Hub.startupLate
  split <;> simp only [↓Hub.notice_form, ↓Hub.reLevel_form, ↓Hub.setBoot_form, ↓Hub.setLevel_form, ↓apply_ite Hub.form, ite_self]

theorem Hub.sysInfo_form (h : Hub) : h.sysInfo.form = h.form := by
  simp only [Hub.sysInfo, ↓Hub.ok_form]

theorem Hub.setSeal_form (h : Hub) (f : Seal → Seal) : (h.setSeal f).form = h.form := by
  simp only [Hub.setSeal, ↓Hub.form_update]

theorem Hub.sealStep_form (h : Hub) (f : Seal → Seal) : (h.sealStep f).form = h.form := by
  simp only [Hub.sealStep, ↓Hub.handAllBack_form, ↓Hub.raise_form, ↓Hub.setSeal_form, ↓Hub.tapSeal_form, ↓apply_ite Hub.form, ite_self]

theorem Hub.sealNonce_form (h : Hub) : h.sealNonce.form = h.form := by
  simp only [Hub.sealNonce, ↓Hub.ok_form, ↓Hub.refuse_form, ↓Hub.setSeal_form, ↓apply_ite Hub.form, ite_self]

theorem Hub.sealUnseal_form (h : Hub) (mac : Bytes) : (h.sealUnseal mac).form = h.form := by
  unfold Hub.sealUnseal
  split <;> simp only [↓Hub.ok_form, ↓Hub.refuse_form, ↓Hub.sealStep_form, ↓Hub.setSeal_form, ↓apply_ite Hub.form, ite_self]

theorem Hub.sealClose_form (h : Hub) : h.sealClose.form = h.form := by
  simp only [Hub.sealClose, ↓Hub.ok_form, ↓Hub.sealStep_form]

theorem Hub.sealSet_form (h : Hub) (st : Nat) : (h.sealSet st).form = h.form := by
  simp only [Hub.sealSet, ↓Hub.notice_form, ↓Hub.ok_form, ↓Hub.refuse_form, ↓Hub.sealStep_form, ↓apply_ite Hub.form, ite_self]

theorem Hub.sealKeySet_form (h : Hub) (key : Bytes) : (h.sealKeySet key).form = h.form := by
  simp only [Hub.sealKeySet, ↓Hub.ok_form, ↓Hub.refuse_form, ↓Hub.sealStep_form, ↓apply_ite Hub.form, ite_self]

theorem Hub.nonceExpiry_form (h : Hub) : h.nonceExpiry.form = h.form := by
  simp only [Hub.nonceExpiry, ↓Hub.setSeal_form, ↓apply_ite Hub.form, ite_self]

theorem Hub.lockout_form (h : Hub) : h.lockout.form = h.form := by
  unfold Hub.lockout
  split <;> simp only [↓Hub.raise_form, ↓Hub.setSeal_form, ↓apply_ite Hub.form, ite_self]

theorem Hub.tapIs_form (h : Hub) (ir pins : Nat) (dr : Word) : (h.tapIs ir pins dr).form = h.form := by
  simp only [Hub.tapIs, ↓Hub.form_update]

theorem Hub.tapBypass_form (h : Hub) (ir : Nat) : (h.tapBypass ir).form = h.form := by
  simp only [Hub.tapBypass, ↓Hub.tapIs_form]

theorem Hub.tapSample_form (h : Hub) : h.tapSample.form = h.form := by
  simp only [Hub.tapSample, ↓Hub.tick_form, ↓Hub.form_update]

theorem Hub.tapDebug_form (h : Hub) (code : Nat) : (h.tapDebug code).form = h.form := by
  simp only [Hub.tapDebug, ↓Hub.tapBypass_form, ↓Hub.tapIs_form, ↓Hub.tick_form, ↓apply_ite Hub.form, ite_self]

/-! ### Krenmail -/

theorem Hub.reqstat_form (h : Hub) (reqId tag : Nat) : (h.reqstat reqId tag).form = h.form := by
  unfold Hub.reqstat
  split <;> simp only [↓Hub.ok_form, ↓Hub.refuse_form]

theorem Hub.runCmd_form (h : Hub) (job : Option (Word × Nat)) (i : Instr) : (h.runCmd job i).form = h.form := by
  cases i with
  | sysInfo => exact Hub.sysInfo_form ..
  | sysReqstat => exact Hub.reqstat_form ..
  | sysReset => exact Hub.sysReset_form ..
  | sysCfgSave => exact Hub.cfgSave_form ..
  | sysFwWrite => exact Hub.fwWrite_form ..
  | sysFwCommit => exact Hub.fwCommit_form ..
  | timeGet => exact Hub.timeGet_form ..
  | timeSet => exact Hub.timeSet_form ..
  | timeCfgSet => exact Hub.timeCfgSet_form ..
  | timeCfgGet => exact Hub.timeCfgGet_form ..
  | timePpsSet => exact Hub.timePpsSet_form ..
  | timeAsymSet => exact Hub.timeAsymSet_form ..
  | timeTinSet => exact Hub.timeTinSet_form ..
  | timeTinGet => exact Hub.timeTinGet_form ..
  | afeSet => exact Hub.afeSet_form ..
  | afeGet => exact Hub.afeGet_form ..
  | afeSync => exact Hub.afeSync_form ..
  | afeGuard => exact Hub.afeGuard_form ..
  | afeRepSet => exact Hub.afeRepSet_form ..
  | afeRepGet => exact Hub.afeRepGet_form ..
  | afeStatus => exact Hub.afeStatus_form ..
  | afeClear => exact Hub.afeClear_form ..
  | chanSet => exact Hub.chanSet_form ..
  | chanGet => exact Hub.chanGet_form ..
  | chanQuery => exact Hub.chanQuery_form ..
  | chanCoefLoad => exact Hub.chanCoefLoad_form ..
  | chanCoefSwitch => exact Hub.chanCoefSwitch_form ..
  | trigPinSet => exact Hub.trigPinSet_form ..
  | trigPinGet => exact Hub.trigPinGet_form ..
  | trigKonSet => exact Hub.trigKonSet_form ..
  | trigArrSet => exact Hub.trigArrSet_form ..
  | trigForce => exact Hub.trigForce_form ..
  | trigStatus => exact Hub.trigStatus_form ..
  | capArm => exact Hub.capArm_form ..
  | capDisarm => exact Hub.capDisarm_form ..
  | capTrig => exact Hub.capTrig_form ..
  | capStatus => exact Hub.capStatus_form ..
  | capPartSet => exact Hub.capPartSet_form ..
  | capPartGet => exact Hub.capPartGet_form ..
  | capWmSet => exact Hub.capWmSet_form ..
  | capWmGet => exact Hub.capWmGet_form ..
  | capList => exact Hub.capList_form ..
  | capRead => exact Hub.capRead_form ..
  | capFree => exact Hub.capFree_form ..
  | capSend => exact Hub.capSend_form ..
  | capRedSet => exact Hub.capRedSet_form ..
  | capRedGet => exact Hub.capRedGet_form ..
  | sepLoad => exact Hub.sepLoad_form ..
  | sepSwitch => exact Hub.sepSwitch_form ..
  | sepCfgSet => exact Hub.sepCfgSet_form ..
  | sepCfgGet => exact Hub.sepCfgGet_form ..
  | sepStatus => exact Hub.sepStatus_form ..
  | strmSet => exact Hub.strmSet_form ..
  | strmRoute => exact Hub.strmRoute_form ..
  | strmLocal => exact Hub.strmLocal_form ..
  | strmAck => exact Hub.strmAck_form ..
  | strmFlush => exact Hub.strmFlush_form ..
  | strmWmSet => exact Hub.strmWmSet_form ..
  | strmWmGet => exact Hub.strmWmGet_form ..
  | strmFcSet => exact Hub.strmFcSet_form ..
  | strmRawGroup => exact Hub.strmRawGroup_form ..
  | strmXstat => exact Hub.strmXstat_form ..
  | strmCfgSet => exact Hub.strmCfgSet_form ..
  | strmCfgGet => exact Hub.ok_form ..
  | churnSet => exact Hub.churnSet_form ..
  | churnCfgSet => exact Hub.churnCfgSet_form ..
  | churnCfgGet => exact Hub.churnCfgGet_form ..
  | churnSave => exact Hub.churnSave_form ..
  | churnStateRead => exact Hub.churnStateRead_form ..
  | churnStateWrite => exact Hub.churnStateWrite_form ..
  | churnRestore => exact Hub.churnRestore_form ..
  | churnStateFree => exact Hub.churnStateFree_form ..
  | churnJobStart => exact Hub.churnJobStart_form ..
  | churnJobRead => exact Hub.churnJobRead_form ..
  | churnJobResume => exact Hub.churnJobResume_form ..
  | churnJobEnd => exact Hub.churnJobEnd_form ..
  | linkCfgSet => exact Hub.linkCfgSet_form ..
  | linkCfgGet => exact Hub.linkCfgGet_form ..
  | linkStatus => exact Hub.linkStatusGet_form ..
  | linkManual => exact Hub.linkManual_form ..
  | linkSlip => exact Hub.linkSlip_form ..
  | linkRate => exact Hub.linkRate_form ..
  | linkWidth => exact Hub.linkWidth_form ..
  | linkTestSet => exact Hub.linkTestSet_form ..
  | linkLaneGet => exact Hub.linkLaneGet_form ..
  | linkCoupler => exact Hub.linkCoupler_form ..
  | calAuditSet => exact Hub.calAuditSet_form ..
  | calAuditGet => exact Hub.calAuditGet_form ..
  | calAuditRead => exact Hub.calAuditRead_form ..
  | calAuditReq => exact Hub.calAuditReq_form ..
  | calRun => exact Hub.calRun_form ..
  | calCfgSet => exact Hub.calCfgSet_form ..
  | calCfgGet => exact Hub.calCfgGet_form ..
  | calReport => exact Hub.calReport_form ..
  | pwrStateSet => exact Hub.pwrStateSet_form ..
  | pwrGate => exact Hub.pwrGate_form ..
  | pwrGet => exact Hub.pwrGet_form ..
  | pwrTelem => exact Hub.pwrTelem_form ..
  | fltRead => exact Hub.fltRead_form ..
  | fltCfgSet => exact Hub.fltCfgSet_form ..
  | fltCfgGet => exact Hub.fltCfgGet_form ..
  | fltRetire => exact Hub.fltRetire_form ..
  | fltRestore => exact Hub.fltRestore_form ..
  | mcDrill => exact Hub.mcDrill_form ..
  | logRead => exact Hub.logRead_form ..
  | logWrite => exact Hub.logWrite_form ..
  | sealGet => exact Hub.ok_form ..
  | sealNonce => exact Hub.sealNonce_form ..
  | sealUnseal => exact Hub.sealUnseal_form ..
  | sealClose => exact Hub.sealClose_form ..
  | sealSet => exact Hub.sealSet_form ..
  | sealKeySet => exact Hub.sealKeySet_form ..
  | _ => exact h.refuse_form _

theorem Hub.command_form (h : Hub) (job : Option (Word × Nat)) (r : ReqHeader) (i : CmdInfo) (cmd : Option Instr) :
    (h.command job r i cmd).form = h.form := by
  unfold Hub.command
  repeat' split
  all_goals simp only [↓Hub.refuse_form, ↓Hub.refuseDie_form, ↓Hub.runCmd_form]

theorem Hub.actionRun_form (h : Hub) (a : Action) : (h.actionRun a).form = h.form := by
  unfold Hub.actionRun
  split <;> simp only [↓Hub.command_form, ↓Hub.refuse_form]

theorem Hub.schedAdd_form (h : Hub) (lateOk : Bool) (t : Instant) (r : ReqHeader) (payload : Bytes) :
    (h.schedAdd lateOk t r payload).form = h.form := by
  unfold Hub.schedAdd
  dsimp only
  repeat' split
  all_goals simp only [↓Hub.busy_form, ↓Hub.ok_form, ↓Hub.refuse_form, ↓Hub.sepPends_form, ↓Hub.switchPends_form, ↓Hub.withReply_form,
    ↓Hub.writeThrough_form, ↓Hub.setMgmt_form]

theorem Hub.setAction_form (h : Hub) (id : Word) (f : Action → Action) : (h.setAction id f).form = h.form := by
  simp only [Hub.setAction, ↓Hub.setMgmt_form]

theorem Hub.schedCancel_form (h : Hub) (id : Word) : (h.schedCancel id).form = h.form := by
  unfold Hub.schedCancel
  split <;> simp only [↓Hub.dropAction_form, ↓Hub.ok_form, ↓Hub.refuse_form, ↓apply_ite Hub.form, ite_self]

theorem Hub.schedList_form (h : Hub) (after : Word) : (h.schedList after).form = h.form := by
  simp only [Hub.schedList, ↓Hub.ok_form]

theorem Hub.commit_form (h : Hub) (id : Word) : (h.commit id).form = h.form := by
  unfold Hub.commit
  split <;> simp only [↓Hub.schedDone_form, ↓Hub.setAction_form, ↓apply_ite Hub.form, ite_self]

theorem Hub.actionArm_form (h : Hub) (id : Word) : (h.actionArm id).form = h.form := by
  unfold Hub.actionArm
  repeat' split
  all_goals simp only [↓Hub.afeSyncArm_form, ↓Hub.setAction_form, ↓Hub.switchArms_form, ↓apply_ite Hub.form, ite_self]

theorem Hub.thawed_form (h : Hub) : h.thawed.form = h.form := by
  simp only [Hub.thawed, ↓Hub.form_update, List.length_map]

theorem Hub.frozenAs_form (h o : Hub) : (h.frozenAs o).form = h.form := by
  simp only [Hub.frozenAs, ↓Hub.form_update, List.length_mapIdx]

theorem Hub.scheduled_form (h : Hub) (id : Word) : (h.scheduled id).form = h.form := by
  unfold Hub.scheduled
  repeat' split
  all_goals simp only [↓Hub.actionRun_form, ↓Hub.frozenAs_form, ↓Hub.schedDone_form, ↓Hub.setAction_form, ↓Hub.tagNext_form,
    ↓Hub.thawed_form, ↓Hub.withReply_form, ↓apply_ite Hub.form, ite_self]

theorem Hub.runDirect_form (h : Hub) (r : ReqHeader) (i : CmdInfo) (cmd : Option Instr) : (h.runDirect r i cmd).form = h.form := by
  unfold Hub.runDirect
  split <;> simp only [↓Hub.command_form, ↓Hub.schedAdd_form, ↓Hub.schedCancel_form, ↓Hub.schedList_form]

theorem Hub.runRequest_form (h : Hub) (x : Request) : (h.runRequest x).form = h.form := by
  unfold Hub.runRequest
  dsimp only
  repeat' split
  all_goals simp only [↓Hub.busy_form, ↓Hub.refuse_form, ↓Hub.runDirect_form]

theorem Hub.stepAside_form (h : Hub) : h.stepAside.form = h.form := by
  unfold Hub.stepAside
  split <;> simp only [↓Hub.setMgmt_form, ↓apply_ite Hub.form, ite_self]

theorem Hub.requestStart_form (h : Hub) : h.requestStart.form = h.form := by
  unfold Hub.requestStart
  dsimp only
  repeat' split
  all_goals simp only [↓Hub.admitRaw_form, ↓Hub.runRequest_form, ↓Hub.stepAside_form, ↓Hub.tagNext_form, ↓Hub.writeThrough_form,
    ↓Hub.setMgmt_form]

/-! ## What a step may do to a hub -/

/-- The invariant as a property of the hub. -/
def Hub.Fits (h : Hub) : Prop := Shaped h ∧ TagMemory.wf h.tag.mem ∧ Mailbox.wf h.dbw.mbi

/-- `g` is a hub that may come after `h`: the same part, and the invariant holds where it held. -/
def Hub.Follows (g h : Hub) : Prop := h.Fits → g.Fits ∧ g.ident = h.ident

theorem Hub.Follows.trans {f g h : Hub} (fg : f.Follows g) (gh : g.Follows h) : f.Follows h := fun fits =>
  have ⟨gFits, gIdent⟩ := gh fits
  have ⟨fFits, fIdent⟩ := fg gFits
  ⟨fFits, fIdent.trans gIdent⟩

theorem Hub.follows_of_form {g h : Hub} (same : g.form = h.form) : g.Follows h := by
  simp only [Hub.form, Form.mk.injEq] at same
  obtain ⟨ident, chans, octs, dies, ports, reps, pins, kons, caps, tins, fc, fci, tag, mbi⟩ := same
  rintro ⟨shaped, tagWf, mbiWf⟩
  refine ⟨⟨?_, tag ▸ tagWf, mbi ▸ mbiWf⟩, ident⟩
  simpa only [Shaped, Hub.nChans, Hub.nOcts, Hub.nPorts, Hub.nDies, ident, chans, octs, dies, ports, reps, pins, kons, caps, tins, fc,
    fci] using shaped

theorem Hub.Follows.form {f g h : Hub} (gh : g.Follows h) (same : f.form = g.form) : f.Follows h := (Hub.follows_of_form same).trans gh

/-! ## The tag's blocks, the doorbell window, the reset -/

theorem Hub.putBlock_follows (h : Hub) (n : Nat) (w : Word) : (h.putBlock n w).Follows h := by
  rintro ⟨shaped, tagWf, mbiWf⟩
  unfold Hub.putBlock
  split
  · next written => exact ⟨⟨shaped, tagPut_wf n w _ tagWf written.1 written.2, mbiWf⟩, rfl⟩
  · exact ⟨⟨shaped, tagWf, mbiWf⟩, rfl⟩

theorem Hub.blockWritten_follows (h : Hub) (n : Nat) : (h.blockWritten n).Follows h := by
  unfold Hub.blockWritten
  split
  · exact Hub.follows_of_form rfl
  · extract_lets g
    have freed : g.form = h.form := h.setTag_form _ rfl
    have put (w : Word) {k : Hub} (same : k.form = (g.putBlock n w).form) : k.Follows h :=
      ((g.putBlock_follows n w).form same).trans (Hub.follows_of_form freed)
    have next : g.tagNext.Follows h := Hub.follows_of_form (g.tagNext_form.trans freed)
    split
    · split
      · exact put _ ((Hub.tagNext_form _).trans (Hub.setTag_form _ _ rfl))
      · exact next
    · split
      · split
        · exact next
        · split
          · exact put _ ((Hub.tagNext_form _).trans (Hub.jobEnds_form ..))
          · exact put _ ((Hub.tagNext_form _).trans (Hub.setTag_form _ _ rfl))
      · exact Hub.follows_of_form freed
    · exact Hub.follows_of_form freed

theorem Hub.tagWrite_follows (h : Hub) (r : TagReq) (limit n : Nat) (w : Word) : (h.tagWrite r limit n w).Follows h := by
  have refused (c : Byte) : (h.tagErr c).Follows h := Hub.follows_of_form (h.tagErr_form c)
  unfold Hub.tagWrite Hub.onTag
  split
  · dsimp only
    split
    · exact refused _
    · split
      · exact refused _
      · split
        · exact refused _
        · split
          · exact refused _
          · exact (h.putBlock_follows n w).form (Hub.tagOk_form _ _)
  · exact Hub.follows_of_form (h.tagSay_form _)

theorem Hub.writeReg_follows (h : Hub) (a : Nat) (w : Word) : (h.writeReg a w).2.Follows h := by
  unfold Hub.writeReg
  split
  · next inWindow =>
    split
    · rintro ⟨shaped, tagWf, mbiWf⟩
      exact ⟨⟨shaped, tagWf, mbiPut_wf _ w _ mbiWf (by omega)⟩, rfl⟩
    · exact Hub.follows_of_form (h.mbError_form 4)
  · refine Hub.follows_of_form ?_
    dsimp only
    repeat' split
    all_goals simp only [↓Hub.writeIrqStat_form, ↓Hub.submit_form, ↓Hub.release_form, ↓Hub.setTm_form, ↓Hub.arm_form,
      ↓Hub.cancelLoad_form, ↓Hub.form_update]

theorem Hub.hspiWrites_follows (ws : List Word) (a : Nat) (h : Hub) : (Hub.hspiWrites ws a h).Follows h := by
  induction ws generalizing a h with
  | nil => exact Hub.follows_of_form rfl
  | cons w ws ih =>
    rw [Hub.hspiWrites]
    refine (ih _ _).trans ((h.writeReg_follows a w).form ?_)
    simp only [↓apply_ite Hub.form, ↓Hub.mbError_form, ite_self]

theorem Hub.hspi_follows (h : Hub) (cmd : Byte) (a : Nat) (ws : List Word) (n : Nat) : (h.hspi cmd a ws n).Follows h := by
  unfold Hub.hspi
  split
  · exact Hub.follows_of_form rfl
  · split
    · exact Hub.follows_of_form h.hspiStatus_form
    · split
      · refine Hub.follows_of_form ?_
        simp only [↓apply_ite Hub.form, ↓Hub.mbError_form, ↓Hub.shown_form, ↓Hub.hspiReads_form, ite_self]
      · split
        · split
          · exact Hub.follows_of_form (h.mbError_form 5)
          · exact Hub.hspiWrites_follows ws a h
        · exact Hub.follows_of_form rfl

theorem Hub.directOp_follows (h : Hub) (w : Nat) : (h.directOp w).2.Follows h := by
  unfold Hub.directOp
  dsimp only
  split
  · exact Hub.follows_of_form rfl
  · split
    · exact Hub.follows_of_form rfl
    · split
      · exact Hub.follows_of_form (h.readReg_form _ _)
      · exact h.writeReg_follows _ _

/-- Operations one after the other, each of which may follow the hub that it finds. -/
theorem Hub.foldl_follows {α β : Type} (f : Hub × β → α → Hub × β) (each : ∀ acc a, (f acc a).1.Follows acc.1) (l : List α) (acc :
    Hub × β) :
    (l.foldl f acc).1.Follows acc.1 := by
  induction l generalizing acc with
  | nil => exact Hub.follows_of_form rfl
  | cons a l ih => exact (ih _).trans (each acc a)

theorem Hub.direct_follows (h : Hub) (k : PacketIn) : (h.direct k).Follows h := by
  unfold Hub.direct
  dsimp only
  split
  · exact Hub.follows_of_form (Hub.form_update h rfl rfl rfl rfl rfl rfl rfl rfl rfl rfl rfl rfl rfl)
  · refine Hub.Follows.form ?_ (Hub.originate_form _ _ _ _)
    exact Hub.foldl_follows _ (fun acc i => acc.1.directOp_follows _) _ (h, [])

theorem Hub.svcDeliver_follows (k : PacketIn) (h : Hub) : (Hub.svcDeliver k h).Follows h := by
  unfold Hub.svcDeliver
  split
  · exact Hub.follows_of_form (h.svcTake_form k)
  · exact h.direct_follows k
  · exact Hub.follows_of_form rfl

theorem Hub.packet_follows (h : Hub) (p : Nat) (k : PacketIn) (deliver : Hub → Hub) (delivers : ∀ g, (deliver g).Follows g) :
    (h.packet p k deliver).Follows h := by
  have received := h.receive_form p k
  unfold Hub.packet
  generalize h.receive p k = r at received ⊢
  obtain ⟨g, accepted⟩ := r
  cases accepted with
  | false => exact Hub.follows_of_form received
  | true =>
    refine Hub.Follows.trans ?_ (Hub.follows_of_form received)
    dsimp only
    unfold Hub.routed
    split
    · exact Hub.follows_of_form (g.setLink_form _ _)
    · dsimp only
      have queued (out : List Nat) (f : Frame) : (forAll (if g.boot.netboot then [] else out) (fun q h => h.queue q f) g).watermarks.form =
        g.form := by
        simp only [↓Hub.watermarks_form, ↓forAll_form, ↓Hub.queue_form, implies_true]
      split
      · exact (delivers _).trans (Hub.follows_of_form (queued _ _))
      · exact Hub.follows_of_form (queued _ _)

theorem Hub.resetDies_follows (h : Hub) : h.resetDies.Follows h := by
  refine (Hub.follows_of_form (Hub.tapSeal_form _)).trans ?_
  rintro ⟨⟨-, -, dies, -⟩, tagWf, -⟩
  have diesKept (f : Die → Die → Die) : ((Hub.reset h.ident).dies.zipWith f h.dies).length = h.nDies := by
    rw [List.length_zipWith, dies]
    exact (congrArg (min · h.nDies) List.length_replicate).trans (Nat.min_self _)
  exact ⟨⟨⟨List.length_replicate, List.length_replicate, diesKept _, List.length_replicate, rfl, rfl, rfl, rfl, rfl, rfl, rfl⟩, tagWf,
    List.Pairwise.nil, by simp [Hub.reset, Dbw.reset]⟩, rfl⟩

theorem Hub.railsOff_follows (h : Hub) : h.railsOff.Follows h :=
  h.resetDies_follows.form (Hub.form_update h.resetDies rfl rfl rfl rfl (List.length_map _) rfl rfl rfl rfl rfl rfl rfl rfl)

theorem Hub.keepEntry_follows (h : Hub) : h.keepEntry.Follows h := by
  unfold Hub.keepEntry
  split
  · exact Hub.follows_of_form rfl
  · split
    · exact Hub.follows_of_form rfl
    · exact h.railsOff_follows.form (Hub.setPwr_form _ _)

theorem Hub.holdUpEnd_follows (h : Hub) : h.holdUpEnd.Follows h := by
  unfold Hub.holdUpEnd
  split
  · exact Hub.follows_of_form rfl
  · split
    · exact Hub.follows_of_form rfl
    · exact h.railsOff_follows

theorem Hub.vkeepLoss_follows (h : Hub) : h.vkeepLoss.Follows h := by
  unfold Hub.vkeepLoss
  split
  · exact Hub.follows_of_form rfl
  · refine h.railsOff_follows.form ?_
    simp only [↓Hub.form_update, List.length_map]

theorem Hub.packageReset_follows (h : Hub) : h.packageReset.Follows h := h.resetDies_follows.form (Hub.releaseReset_form _)

theorem Hub.resetDue_follows (h : Hub) : h.resetDue.Follows h := by
  unfold Hub.resetDue
  split
  · split
    · exact h.packageReset_follows
    · exact Hub.follows_of_form rfl
  · exact Hub.follows_of_form rfl

theorem Hub.bootWatchdog_follows (h : Hub) : h.bootWatchdog.Follows h := by
  unfold Hub.bootWatchdog
  split
  · split
    · exact h.packageReset_follows
    · exact Hub.follows_of_form rfl
  · exact Hub.follows_of_form rfl

theorem Hub.rstN_follows (h : Hub) (level vioA vioB : Bool) : (h.rstN level vioA vioB).Follows h := by
  unfold Hub.rstN
  extract_lets g
  have supplied : g.Follows h := Hub.follows_of_form (h.setVio_form _ _)
  split
  · exact supplied.form (by simp only [↓Hub.releaseReset_form, ↓Hub.setBoot_form])
  · exact (g.resetDies_follows.trans supplied).form (by simp only [↓Hub.setBoot_form, ↓Hub.setPwr_form])

/-! ## Every command and every step -/

/-- What the outcome of a command leaves: a hub that may come after the one of the state. -/
def Leaves (s : State) (o : Out) : Prop := ∀ t, o = .next t → t.hub.Follows s.hub

theorem Leaves.of_follows {s : State} {g : Hub} (follows : g.Follows s.hub) : Leaves s (.next ⟨g, s.pending⟩) := by
  rintro t ⟨⟩
  exact follows

theorem Leaves.of_form {s : State} {g : Hub} (same : g.form = s.hub.form) : Leaves s (.next ⟨g, s.pending⟩) :=
  .of_follows (Hub.follows_of_form same)

theorem form_ite {c : Prop} [Decidable c] {a b h : Hub} (pos : a.form = h.form) (neg : b.form = h.form) :
    (if c then a else b).form = h.form := by
  split
  · exact pos
  · exact neg

theorem exec_leaves (c : Instr) (s : State) : Leaves s (exec c s) := by
  cases c with
  | sysInfo => exact .of_form s.hub.sysInfo_form
  | sysReqstat => exact .of_form (s.hub.reqstat_form ..)
  | sysReset => exact .of_form (s.hub.sysReset_form ..)
  | packageReset => exact .of_follows s.hub.resetDue_follows
  | sysCfgSave => exact .of_form s.hub.cfgSave_form
  | sysFwWrite => exact .of_form (s.hub.fwWrite_form ..)
  | sysFwCommit => exact .of_form (s.hub.fwCommit_form ..)
  | timeGet => exact .of_form s.hub.timeGet_form
  | timeSet => exact .of_form (s.hub.timeSet_form ..)
  | timeCfgSet => exact .of_form (s.hub.timeCfgSet_form ..)
  | timeCfgGet => exact .of_form s.hub.timeCfgGet_form
  | timePpsSet => exact .of_form (s.hub.timePpsSet_form ..)
  | timeAsymSet => exact .of_form (s.hub.timeAsymSet_form ..)
  | timeTinSet => exact .of_form (s.hub.timeTinSet_form ..)
  | timeTinGet => exact .of_form (s.hub.timeTinGet_form ..)
  | afeSet => exact .of_form (s.hub.afeSet_form ..)
  | afeGet => exact .of_form (s.hub.afeGet_form ..)
  | afeSync => exact .of_form (s.hub.afeSync_form ..)
  | afeGuard => exact .of_form (s.hub.afeGuard_form ..)
  | afeRepSet => exact .of_form (s.hub.afeRepSet_form ..)
  | afeRepGet => exact .of_form (s.hub.afeRepGet_form ..)
  | afeStatus => exact .of_form (s.hub.afeStatus_form ..)
  | afeClear => exact .of_form (s.hub.afeClear_form ..)
  | chanSet => exact .of_form (s.hub.chanSet_form ..)
  | chanGet => exact .of_form (s.hub.chanGet_form ..)
  | chanQuery => exact .of_form (s.hub.chanQuery_form ..)
  | chanCoefLoad => exact .of_form (s.hub.chanCoefLoad_form ..)
  | chanCoefSwitch => exact .of_form (s.hub.chanCoefSwitch_form ..)
  | fade => exact .of_form (form_ite rfl (s.hub.setCh_form ..))
  | trigPinSet => exact .of_form (s.hub.trigPinSet_form ..)
  | trigPinGet => exact .of_form (s.hub.trigPinGet_form ..)
  | trigKonSet => exact .of_form (s.hub.trigKonSet_form ..)
  | trigArrSet => exact .of_form (s.hub.trigArrSet_form ..)
  | trigForce => exact .of_form s.hub.trigForce_form
  | trigStatus => exact .of_form (s.hub.trigStatus_form ..)
  | capArm => exact .of_form (s.hub.capArm_form ..)
  | capDisarm => exact .of_form (s.hub.capDisarm_form ..)
  | capTrig => exact .of_form (s.hub.capTrig_form ..)
  | capStatus => exact .of_form (s.hub.capStatus_form ..)
  | capPartSet => exact .of_form (s.hub.capPartSet_form ..)
  | capPartGet => exact .of_form (s.hub.capPartGet_form ..)
  | capWmSet => exact .of_form (s.hub.capWmSet_form ..)
  | capWmGet => exact .of_form (s.hub.capWmGet_form ..)
  | capList => exact .of_form (s.hub.capList_form ..)
  | capRead => exact .of_form (s.hub.capRead_form ..)
  | capFree => exact .of_form (s.hub.capFree_form ..)
  | capSend => exact .of_form (s.hub.capSend_form ..)
  | capRedSet => exact .of_form (s.hub.capRedSet_form ..)
  | capRedGet => exact .of_form (s.hub.capRedGet_form ..)
  | sepLoad => exact .of_form (s.hub.sepLoad_form ..)
  | sepSwitch => exact .of_form (s.hub.sepSwitch_form ..)
  | sepCfgSet => exact .of_form (s.hub.sepCfgSet_form ..)
  | sepCfgGet => exact .of_form s.hub.sepCfgGet_form
  | sepStatus => exact .of_form (s.hub.sepStatus_form ..)
  | strmSet => exact .of_form (s.hub.strmSet_form ..)
  | strmRoute => exact .of_form (s.hub.strmRoute_form ..)
  | strmLocal => exact .of_form (s.hub.strmLocal_form ..)
  | strmAck => exact .of_form (s.hub.strmAck_form ..)
  | strmFlush => exact .of_form (s.hub.strmFlush_form ..)
  | strmWmSet => exact .of_form (s.hub.strmWmSet_form ..)
  | strmWmGet => exact .of_form (s.hub.strmWmGet_form ..)
  | strmFcSet => exact .of_form (s.hub.strmFcSet_form ..)
  | strmRawGroup => exact .of_form (s.hub.strmRawGroup_form ..)
  | strmXstat => exact .of_form (s.hub.strmXstat_form ..)
  | strmCfgSet => exact .of_form (s.hub.strmCfgSet_form ..)
  | strmCfgGet => exact .of_form (s.hub.ok_form ..)
  | churnSet => exact .of_form (s.hub.churnSet_form ..)
  | churnCfgSet => exact .of_form (s.hub.churnCfgSet_form ..)
  | churnCfgGet => exact .of_form (s.hub.churnCfgGet_form ..)
  | churnSave => exact .of_form (s.hub.churnSave_form ..)
  | churnStateCapture => exact .of_form (s.hub.churnStateCapture_form ..)
  | churnStateRead => exact .of_form (s.hub.churnStateRead_form ..)
  | churnStateWrite => exact .of_form (s.hub.churnStateWrite_form ..)
  | churnRestore => exact .of_form (s.hub.churnRestore_form ..)
  | churnStateFree => exact .of_form (s.hub.churnStateFree_form ..)
  | churnJobStart => exact .of_form (s.hub.churnJobStart_form ..)
  | churnJobRead => exact .of_form (s.hub.churnJobRead_form ..)
  | churnJobResume => exact .of_form (s.hub.churnJobResume_form ..)
  | churnJobEnd => exact .of_form (s.hub.churnJobEnd_form ..)
  | jobEnd => exact .of_form (s.hub.jobEnd_form ..)
  | linkCfgSet => exact .of_form (s.hub.linkCfgSet_form ..)
  | linkCfgGet => exact .of_form (s.hub.linkCfgGet_form ..)
  | linkStatus => exact .of_form (s.hub.linkStatusGet_form ..)
  | linkManual => exact .of_form (s.hub.linkManual_form ..)
  | linkSlip => exact .of_form (s.hub.linkSlip_form ..)
  | linkRate => exact .of_form (s.hub.linkRate_form ..)
  | linkWidth => exact .of_form (s.hub.linkWidth_form ..)
  | linkTestSet => exact .of_form (s.hub.linkTestSet_form ..)
  | linkLaneGet => exact .of_form (s.hub.linkLaneGet_form ..)
  | linkCoupler => exact .of_form (s.hub.linkCoupler_form ..)
  | calAuditSet => exact .of_form (s.hub.calAuditSet_form ..)
  | calAuditGet => exact .of_form (s.hub.calAuditGet_form ..)
  | calAuditRead => exact .of_form (s.hub.calAuditRead_form ..)
  | calAuditReq => exact .of_form (s.hub.calAuditReq_form ..)
  | calRun => exact .of_form (s.hub.calRun_form ..)
  | calCfgSet => exact .of_form (s.hub.calCfgSet_form ..)
  | calCfgGet => exact .of_form s.hub.calCfgGet_form
  | calReport => exact .of_form (s.hub.calReport_form ..)
  | pwrStateSet => exact .of_form (s.hub.pwrStateSet_form ..)
  | keepEntry => exact .of_follows s.hub.keepEntry_follows
  | pwrGate => exact .of_form (s.hub.pwrGate_form ..)
  | pwrGet => exact .of_form s.hub.pwrGet_form
  | pwrTelem => exact .of_form s.hub.pwrTelem_form
  | fltRead => exact .of_form (s.hub.fltRead_form ..)
  | fltCfgSet => exact .of_form (s.hub.fltCfgSet_form ..)
  | fltCfgGet => exact .of_form s.hub.fltCfgGet_form
  | fltRetire => exact .of_form (s.hub.fltRetire_form ..)
  | fltRestore => exact .of_form (s.hub.fltRestore_form ..)
  | mcDrill => exact .of_form (s.hub.mcDrill_form ..)
  | logRead => exact .of_form (s.hub.logRead_form ..)
  | logWrite => exact .of_form (s.hub.logWrite_form ..)
  | sealGet => exact .of_form (s.hub.ok_form ..)
  | sealNonce => exact .of_form s.hub.sealNonce_form
  | sealUnseal => exact .of_form (s.hub.sealUnseal_form ..)
  | sealClose => exact .of_form s.hub.sealClose_form
  | sealSet => exact .of_form (s.hub.sealSet_form ..)
  | sealKeySet => exact .of_form (s.hub.sealKeySet_form ..)
  | schedAdd => exact .of_form (s.hub.schedAdd_form ..)
  | schedCancel => exact .of_form (s.hub.schedCancel_form ..)
  | schedList => exact .of_form (s.hub.schedList_form ..)
  | commit => exact .of_form (s.hub.commit_form ..)
  | actionArm => exact .of_form (s.hub.actionArm_form ..)
  | scheduledAction => exact .of_form (s.hub.scheduled_form ..)
  | submit => exact .of_form (form_ite (s.hub.submit_form) rfl)
  | release => exact .of_form (form_ite (s.hub.release_form) rfl)
  | intake => exact .of_form s.hub.intake_form
  | svc => exact .of_follows (s.hub.packet_follows _ _ _ (Hub.svcDeliver_follows _))
  | requestStart => exact .of_form s.hub.requestStart_form
  | lifetime => exact .of_form s.hub.lifetime_form
  | cacheExpiry => exact .of_form s.hub.cacheExpiry_form
  | arm => exact .of_form (form_ite (s.hub.arm_form) rfl)
  | cancel => exact .of_form (form_ite (Hub.setTm_form _ _ rfl) rfl)
  | timeSecLo route => 
    cases route with
    | hspi => exact .of_follows (s.hub.hspi_follows _ _ _ _)
    | inband => exact .of_form (form_ite (s.hub.readSecLo_form ..) rfl)
  | localStreamWindow => exact .of_follows (s.hub.hspi_follows _ _ _ _)
  | mbErr => exact .of_follows (s.hub.hspi_follows _ _ _ _)
  | newRec => exact .of_follows (s.hub.hspi_follows _ _ _ _)
  | dbwIrqStat => exact .of_form (form_ite (s.hub.writeIrqStat_form ..) rfl)
  | registerWrite => exact .of_follows (s.hub.hspi_follows _ _ _ _)
  | hspiStatus => exact .of_follows (s.hub.hspi_follows _ _ _ _)
  | directAccess => exact .of_follows (s.hub.packet_follows _ _ _ (Hub.svcDeliver_follows _))
  | conversion => exact .of_form (s.hub.conversion_form ..)
  | reservationRetry => exact .of_form s.hub.retryAll_form
  | clamp => exact .of_form (s.hub.clamp_form ..)
  | excOl => exact .of_form (s.hub.excOl_form ..)
  | grdOl => exact .of_form (s.hub.grdOl_form ..)
  | auditEntry => exact .of_form (s.hub.auditEntry_form ..)
  | preEmption => exact .of_form (s.hub.preEmption_form ..)
  | comparison => exact .of_form (form_ite rfl (s.hub.compare_form ..))
  | milkRun => exact .of_form (s.hub.milkRun_form ..)
  | arraySecond => exact .of_form s.hub.arraySecond_form
  | ppsEdge => exact .of_form (s.hub.ppsEdge_form ..)
  | ppsLost => exact .of_form (s.hub.ppsLost_form ..)
  | marker => exact .of_form (s.hub.ltMarker_form ..)
  | markLost => exact .of_form s.hub.markLost_form
  | markLostTimeout => exact .of_form s.hub.markLostTimeout_form
  | clockLoss => exact .of_form s.hub.ltLost_form
  | timecorA => exact .of_form (s.hub.setTm_form _ (congrArg List.length (Tm.corHeard_tins _ _)))
  | timecorB =>
    have heard (x : Tm → Tm) (same : ∀ t, (x t).tins = t.tins) :
        (s.hub.setTm fun t => (x t).corHeard s.hub.clk.elapsed).form = s.hub.form :=
      s.hub.setTm_form _ (by rw [Tm.corHeard_tins, same])
    exact .of_form (form_ite ((Hub.copyBase_form ..).trans (heard _ fun _ => rfl)) (heard _ fun _ => rfl))
  | timecorS => exact .of_form (s.hub.timecorS_form ..)
  | timecorUnknown => exact .of_form (form_ite (Hub.setTm_form _ _ rfl) rfl)
  | delay => exact .of_form (s.hub.delayTick_form ..)
  | slew => exact .of_form s.hub.slew_form
  | relock => exact .of_form s.hub.relock_form
  | sclkValid => exact .of_form s.hub.sclkValid_form
  | relockTimeout => exact .of_form s.hub.relockTimeout_form
  | relockRetry => exact .of_form s.hub.relockRetry_form
  | tinEdge => exact .of_form (s.hub.tinEdge_form ..)
  | trigEdge => exact .of_form (s.hub.trigEdge_form ..)
  | konEvaluation => exact .of_form (s.hub.konEval_form ..)
  | redRecord => exact .of_form (form_ite rfl (s.hub.redDue_form ..))
  | sweep => exact .of_form (s.hub.sweepFlow_form ..)
  | fci => exact .of_form (s.hub.fci_form ..)
  | tick => exact .of_form s.hub.modalTick_form
  | modalFrame => exact .of_form (s.hub.modalPacket_form ..)
  | timeout => exact .of_form s.hub.modalTimeout_form
  | xing => exact .of_form s.hub.xing_form
  | mgtLoad => exact .of_form (s.hub.mgtLoad_form ..)
  | telem => exact .of_form s.hub.telem_form
  | telemetryRefresh => exact .of_form (s.hub.telemetryRefresh_form ..)
  | shedEvaluation => exact .of_form s.hub.shedEvaluation_form
  | offsetTimeout => exact .of_form (s.hub.offsetTimeout_form ..)
  | alignFail => exact .of_form (s.hub.alignFail_form ..)
  | mark => exact .of_form (s.hub.markBlock_form ..)
  | invalidHeader => exact .of_form (s.hub.invalidHeader_form ..)
  | markWaitTimeout => exact .of_form (s.hub.markWaitTimeout_form ..)
  | hello => exact .of_form (s.hub.hello_form ..)
  | serial => exact .of_form (s.hub.serial_form ..)
  | trainStep => exact .of_form (s.hub.trainStep_form ..)
  | prbsCheck => exact .of_form (s.hub.prbsCheck_form ..)
  | result => exact .of_form (s.hub.result_form ..)
  | trainRequest => exact .of_form (s.hub.trainRequest_form ..)
  | probe => exact .of_form (s.hub.probe_form ..)
  | park => exact .of_form (s.hub.parkPort_form ..)
  | signalDetect => exact .of_form (s.hub.signalDetect_form ..)
  | widthRequest => exact .of_form (s.hub.widthRequest_form ..)
  | order => exact .of_form (s.hub.order_form ..)
  | answer => exact .of_form (s.hub.answer_form ..)
  | elasticSlip => exact .of_form (s.hub.elasticSlip_form ..)
  | idle => exact .of_form (form_ite (s.hub.setLink_form ..) rfl)
  | trig => exact .of_follows (s.hub.packet_follows _ _ _ fun g => Hub.follows_of_form (g.arrAct_form _))
  | stream => exact .of_follows (s.hub.packet_follows _ _ _ fun g => Hub.follows_of_form (g.streamIn_form _))
  | ack => exact .of_form (s.hub.ackBlock_form ..)
  | nak => exact .of_form (s.hub.nakBlock_form ..)
  | replayTimeout => exact .of_form (s.hub.replayTimeout_form ..)
  | ackTimer => exact .of_form (form_ite (s.hub.sendAck_form ..) rfl)
  | pause => exact .of_form (s.hub.pauseBlock_form ..)
  | pauseRepeat => exact .of_form (s.hub.pauseRepeat_form ..)
  | pauseLost => exact .of_form (s.hub.pauseLost_form ..)
  | searchOpen => exact .of_form (s.hub.searchOpen_form ..)
  | token => exact .of_form (s.hub.token_form ..)
  | searchReturn => exact .of_form (s.hub.searchReturn_form ..)
  | searchClose => exact .of_form (s.hub.searchClose_form ..)
  | claim => exact .of_form (s.hub.claimBlock_form ..)
  | arrive => exact .of_form (s.hub.upward_form ..)
  | arriveRepeat => exact .of_form s.hub.arriveRepeat_form
  | depart => exact .of_form (s.hub.upward_form ..)
  | holdUpEnd => exact .of_follows s.hub.holdUpEnd_follows
  | vkeep => exact .of_form s.hub.vkeep_form
  | vkeepLoss => exact .of_follows s.hub.vkeepLoss_follows
  | bayRailsGood => exact .of_form (s.hub.bayGood_form ..)
  | bayTimeout => exact .of_form (s.hub.bayTimeout_form ..)
  | vmainFall => exact .of_form s.hub.vmainFall_form
  | vexcLow => exact .of_form (s.hub.vexcLow_form ..)
  | vexcRestore => exact .of_form (s.hub.vexcRestore_form ..)
  | rstN => exact .of_follows (s.hub.rstN_follows _ _ _)
  | bootRom => exact .of_form (s.hub.bootRom_form ..)
  | dieBootTimeout => exact .of_form (s.hub.dieBootTimeout_form ..)
  | bootWatchdog => exact .of_follows s.hub.bootWatchdog_follows
  | firmwareStart => exact .of_form (s.hub.firmwareStart_form ..)
  | rough => exact .of_form s.hub.rough_form
  | full => exact .of_form s.hub.full_form
  | startupLate => exact .of_form s.hub.startupLate_form
  | nonceExpiry => exact .of_form s.hub.nonceExpiry_form
  | lockout => exact .of_form s.hub.lockout_form
  | heartbeat => exact .of_form (s.hub.heartbeat_form ..)
  | sentinelPeriod => exact .of_form (s.hub.sentinelPeriod_form ..)
  | standbyTimeout => exact .of_form (s.hub.standbyTimeout_form ..)
  | checkpoint => exact .of_form (s.hub.checkpoint_form ..)
  | windowClose => exact .of_form (s.hub.windowClose_form ..)
  | signatureTest => exact .of_form (s.hub.signatureTest_form ..)
  | dieFault => exact .of_form (s.hub.dieFault_form ..)
  | eccError => exact .of_form (s.hub.eccError_form ..)
  | sentVote => exact .of_form (s.hub.sentVote_form ..)
  | autoRestore => exact .of_form (s.hub.autoRestore_form ..)
  | timeSkew => exact .of_form (s.hub.timeSkew_form ..)
  | calSlot => exact .of_form (s.hub.calSlot_form ..)
  | background => exact .of_form s.hub.background_form
  | refRecheck => exact .of_form (s.hub.refRecheck_form ..)
  | requeue => exact .of_form (s.hub.requeue_form ..)
  | ringEntry => exact .of_form s.hub.ringEntry_form
  | logDrop => exact .of_form s.hub.logDrop_form
  | lockExpiry => exact .of_form s.hub.lockExpiry_form
  | fieldAbsent => exact .of_form s.hub.fieldAbsent_form
  | inventory => exact .of_form (s.hub.inventory_form ..)
  | stayQuiet => exact .of_form (s.hub.stayQuiet_form ..)
  | readSingleBlock => exact .of_form (s.hub.tagRead_form ..)
  | writeSingleBlock => exact .of_follows (s.hub.tagWrite_follows _ _ _ _)
  | readMultipleBlocks => exact .of_form (s.hub.tagRead_form ..)
  | select => exact .of_form (s.hub.tagSelect_form ..)
  | resetToReady => exact .of_form (s.hub.tagReady_form ..)
  | getSystemInfo => exact .of_form (s.hub.tagInfo_form ..)
  | getMultipleBlockSecurityStatus => exact .of_form (s.hub.tagSecurity_form ..)
  | extReadSingleBlock => exact .of_form (s.hub.tagRead_form ..)
  | extWriteSingleBlock => exact .of_follows (s.hub.tagWrite_follows _ _ _ _)
  | extReadMultipleBlocks => exact .of_form (s.hub.tagRead_form ..)
  | extGetSystemInfo => exact .of_form (s.hub.tagInfo_form ..)
  | extGetMultipleBlockSecurityStatus => exact .of_form (s.hub.tagSecurity_form ..)
  | ownerLock => exact .of_form (s.hub.ownerLock_form ..)
  | logStatus => exact .of_form (s.hub.logStatus_form ..)
  | tagUnsupported => exact .of_form (s.hub.tagUnsupported_form ..)
  | page => exact .of_form (s.hub.setPage_form ..)
  | clearFaults => exact .of_form (s.hub.clearFaults_form ..)
  | capability => exact .of_form (s.hub.pmbusOut_form ..)
  | statusWord => exact .of_form (s.hub.pmbusOut_form ..)
  | readVin => exact .of_form (s.hub.linear_form ..)
  | readIout => exact .of_form (s.hub.linear_form ..)
  | readTemperature1 => exact .of_form (s.hub.linear_form ..)
  | pmbusRevision => exact .of_form (s.hub.pmbusOut_form ..)
  | mfrReadVexc => exact .of_form (s.hub.linear_form ..)
  | mfrReadIexc => exact .of_form (s.hub.linear_form ..)
  | mfrReadVkeep => exact .of_form s.hub.readVkeep_form
  | mfrReadPower => exact .of_form (s.hub.linear_form ..)
  | mfrShed => exact .of_form (s.hub.pmbusOut_form ..)
  | pmbusUnsupported => exact .of_form (s.hub.setPmbus_form ..)
  | busTimeout => exact .of_form rfl
  | extest => exact .of_form (s.hub.tapIs_form ..)
  | idcode => exact .of_form (s.hub.tapIs_form ..)
  | samplePreload => exact .of_form s.hub.tapSample_form
  | highz => exact .of_form (s.hub.tapIs_form ..)
  | clampInstruction => exact .of_form (s.hub.tapIs_form ..)
  | extestPulse => exact .of_form (s.hub.tapIs_form ..)
  | extestTrain => exact .of_form (s.hub.tapIs_form ..)
  | debugInstruction => exact .of_form (s.hub.tapDebug_form ..)
  | bypass => exact .of_form (s.hub.tapBypass_form ..)
  | blockBoundary => exact .of_form (s.hub.blockBoundary_form ..)
  | svcForward => exact .of_follows (s.hub.packet_follows _ _ _ (Hub.svcDeliver_follows _))
  | invCtl => exact .of_form (s.hub.invCtl_form ..)
  | validHeaders => exact .of_form (s.hub.validHeaders_form ..)
  | noMarkWhereExpected => exact .of_form (s.hub.noMark_form ..)
  | nakRepeat => exact .of_form (s.hub.nakRepeat_form ..)
  | prbsSync => exact .of_form (s.hub.prbsSync_form ..)
  | syncLoss => exact .of_form (s.hub.syncLoss_form ..)
  | jobStop => exact .of_form (s.hub.jobStop_form ..)
  | requestCompletion => 
    exact .of_form (form_ite ((Hub.requestCompletion_form _).trans (Hub.tagNext_form _)) (form_ite (Hub.completion_form _) rfl))
  | refclkLoss => exact .of_form s.hub.refclkLoss_form
  | localMemoryEccError => exact .of_form (s.hub.localEcc_form ..)
  | dieRestart => exact .of_form (s.hub.dieRestart_form ..)
  | bay0Starts => exact .of_form s.hub.bay0Starts_form
  | clampRelease => exact .of_form (s.hub.clampRelease_form ..)
  | excOlEnd => exact .of_form (s.hub.excOlEnd_form ..)
  | grdOlEnd => exact .of_form (s.hub.setOct_form ..)
  | blockWriteTime => exact .of_follows (s.hub.blockWritten_follows _)

theorem step_leaves (s : State) : Leaves s (step s) := by
  unfold step
  split
  · exact .of_form s.hub.idle_form
  · exact exec_leaves _ _

end Sys2Proof.Machine

open Sys2Proof Sys2Proof.Machine

/-- Settles O60. The case split is over the commands: each command's meaning keeps the form of the hub (its lengths, its two memories and
the part that it is), but for the writes of a block of the tag, the writes of the mailbox-in window and the resets, which keep the
invariant itself. -/
theorem everyStepKeepsInvariant : Obligations.EveryStepKeepsInvariant := by
  intro s t inv next
  exact step_leaves s t next inv
end

section
/-! PROOFS. Steps and the state after reset: Obligations.StepRunsTheFrontCommand, EveryCommandAnswers, ResetMeetsInvariant and
EmptyQueueIsOneReferenceCycle. -/

namespace Sys2Proof.Machine

/-! ## The coupler closes: neither the clocks nor the fault settings that it does not name -/

theorem Hub.rawReassign_still (h : Hub) : h.rawReassign.still = h.still := by
  refine forAll_keeps Hub.still _ (fun k g => ?_) _ h
  dsimp only
  split
  · rfl
  · split
    · rfl
    · exact Hub.notice_still ..

@[simp] theorem Hub.rawReassign_clk (h : Hub) : h.rawReassign.clk = h.clk := Hub.still_clk h.rawReassign_still
@[simp] theorem Hub.rawReassign_flt (h : Hub) : h.rawReassign.flt = h.flt := Hub.still_flt h.rawReassign_still

@[simp] theorem Hub.laneAway_clk (h : Hub) (a : Align) : (h.laneAway a).clk = h.clk := by
  unfold Hub.laneAway
  dsimp only
  rw [apply_ite Hub.clk, Hub.setAlign_clk, ite_self, Hub.setTm_clk]
@[simp] theorem Hub.laneAway_flt (h : Hub) (a : Align) : (h.laneAway a).flt = h.flt := by
  unfold Hub.laneAway
  dsimp only
  rw [apply_ite Hub.flt, Hub.setAlign_flt, ite_self, Hub.setTm_flt]

@[simp] theorem Hub.clockLoss_clk (h : Hub) : h.clockLoss.clk = h.clk := by simp [Hub.clockLoss]
@[simp] theorem Hub.clockLoss_flt (h : Hub) : h.clockLoss.flt = h.flt := by simp [Hub.clockLoss]

@[simp] theorem Hub.discardNote_clk (h : Hub) (p n : Nat) : (h.discardNote p n).clk = h.clk := by
  unfold Hub.discardNote
  split <;> simp
@[simp] theorem Hub.discardNote_flt (h : Hub) (p n : Nat) : (h.discardNote p n).flt = h.flt := by
  unfold Hub.discardNote
  split <;> simp

/-- A port goes down: its peer is forgotten, and on P00 the hub's place in the tree. -/
theorem Hub.portLost_clk_flt (h : Hub) (p : Nat) (st : PState) : (h.portLost p st).clk = h.clk ∧ (h.portLost p st).flt = h.flt := by
  unfold Hub.portLost
  dsimp only
  split
  · unfold Hub.linkGone
    split <;> simp [Hub.unsend]
  · simp [Hub.unsend]

theorem Hub.portDown_clk_flt (h : Hub) (p : Nat) (st : PState) : (h.portDown p st).clk = h.clk ∧ (h.portDown p st).flt = h.flt := by
  obtain ⟨clk, flt⟩ := h.portLost_clk_flt p st
  unfold Hub.portDown
  dsimp only
  split <;> simp [clk, flt]

theorem Hub.closeCoupler_clk (h : Hub) (byHost : Bool) : (h.closeCoupler byHost).clk = h.clk := by
  simp [Hub.closeCoupler, (Hub.portDown_clk_flt _ _ _).1]
theorem Hub.closeCoupler_flt (h : Hub) (byHost : Bool) :
    (h.closeCoupler byHost).flt = { h.flt with closed := true, byHost := byHost, closing := none } := by
  simp [Hub.closeCoupler, (Hub.portDown_clk_flt _ _ _).2]

/-! ## One cycle of the reference -/

/-- The ten bits of a cycle pass an injection on LT of each TEST port (R322). -/
def Hub.ltPassed (h : Hub) : Hub :=
  { h with ports := h.ports.map fun q => if q.st = .test then
      { q with lanes := q.lanes.modify 3 fun l => if fld l.test 24 23 = 1 then l else l.passHits 10 } else q }

theorem Hub.ltPassed_of_no_test (h : Hub) (noTest : ∀ q ∈ h.ports, q.st ≠ .test) : h.ltPassed = h := by
  have same : h.ports.map (fun q => if q.st = .test then
      { q with lanes := q.lanes.modify 3 fun l => if fld l.test 24 23 = 1 then l else l.passHits 10 } else q) = h.ports :=
    (List.map_congr_left fun q mem => if_neg (noTest q mem)).trans (List.map_id _)
  rw [Hub.ltPassed, same]

/-- The cycle, then an injection on LT, then a coupler that has waited 10 µs for its DEPART closes (Table 11-9). -/
theorem Hub.idle_eq (h : Hub) : h.idle = match (cycle h).flt.closing with
    | some t => if t + 10000 ≤ (cycle h).clk.elapsed then (cycle h).ltPassed.closeCoupler true else (cycle h).ltPassed
    | none => (cycle h).ltPassed := rfl

theorem step_idle (h : Hub) : step ⟨h, []⟩ = .next ⟨h.idle, []⟩ := rfl

theorem cycle_flt (h : Hub) : (cycle h).flt = h.flt := by
  unfold cycle
  dsimp only
  split
  · rfl
  · split <;> rfl

theorem Hub.idle_waits (h : Hub) (waits : ∀ u, h.flt.closing = some u → (cycle h).clk.elapsed < u + 10000) : h.idle = (cycle h).ltPassed := by
  rw [h.idle_eq, cycle_flt]
  split
  · next u closing => exact if_neg (Nat.not_le.2 (waits u closing))
  · rfl

theorem Hub.idle_closes (h : Hub) {u : Nat} (closing : h.flt.closing = some u) (due : u + 10000 ≤ (cycle h).clk.elapsed) :
    h.idle = (cycle h).ltPassed.closeCoupler true := by
  rw [h.idle_eq, cycle_flt, closing]
  exact if_pos due

theorem Hub.idle_clk (h : Hub) : h.idle.clk = (cycle h).clk := by
  rw [h.idle_eq]
  split
  · split
    · exact Hub.closeCoupler_clk _ _
    · rfl
  · rfl

theorem Hub.onOsc_iff (h : Hub) : h.onOsc = true ↔ h.clk.run = true ∧ h.clk.valid = false ∧ h.clk.refclk = false := by
  simp [Hub.onOsc, and_assoc]

/-- The free period of the oscillator in ps, with what is left over from the cycles before it (log entry 188). -/
def Hub.oscPeriod (h : Hub) : Nat := h.clk.oscPs + 8122 + Config.oscPeriod h.fresh % 256

theorem cycle_onOsc (h : Hub) (osc : h.onOsc = true) : cycle h = { h with
    fresh := h.fresh + 1
    clk := { h.clk with elapsed := h.clk.elapsed + h.oscPeriod / 1000, oscPs := h.oscPeriod % 1000, cycles := h.clk.cycles + 1 }
    tm := { h.tm with now := h.tm.now + 8 * 1024 } } := if_pos osc

theorem cycle_run (h : Hub) (ref : h.onOsc = false) (run : h.clk.run = true) : cycle h = { h with
    clk := { h.clk with elapsed := h.clk.elapsed + 8, cycles := h.clk.cycles + 1 }
    tm := { h.tm with now := h.tm.now + 8 * 1024 } } :=
  (if_neg (ne_true_of_eq_false ref)).trans (if_pos run)

theorem cycle_stopped (h : Hub) (stopped : h.clk.run = false) :
    cycle h = { h with clk := { h.clk with elapsed := h.clk.elapsed + 8 } } := by
  have ref : ¬h.onOsc = true := fun osc => absurd (h.onOsc_iff.1 osc).1 (ne_true_of_eq_false stopped)
  exact (if_neg ref).trans (if_neg (ne_true_of_eq_false stopped))

theorem cycle_elapsed (h : Hub) : (cycle h).clk.elapsed = h.clk.elapsed + if h.onOsc then h.oscPeriod / 1000 else 8 := by
  unfold cycle
  dsimp only
  split
  · rfl
  · split <;> rfl

end Sys2Proof.Machine

open Sys2Proof Sys2Proof.Machine

/-- Settles O56: the front command is what the step's match takes. -/
theorem stepRunsTheFrontCommand : Obligations.StepRunsTheFrontCommand := fun _ _ _ => rfl

/-- Settles O57: a step on an empty queue is `Hub.idle`, whose parts are the cycle, the injection on LT and the coupler that waits. -/
theorem emptyQueueIsOneReferenceCycle : Obligations.EmptyQueueIsOneReferenceCycle := by
  intro h ported on off waits ps osc
  have ref (still : h.onOsc = false) : (cycle h).clk.elapsed = h.clk.elapsed + 8 := by simp [cycle_elapsed, still]
  have waiting (still : h.onOsc = false) (w : waits) : h.idle = (cycle h).ltPassed :=
    h.idle_waits fun u closing => (ref still).symm ▸ w u closing
  have running (still : h.onOsc = false) (w : waits) (run : h.clk.run = true) : h.idle = ported on := by
    rw [waiting still w, cycle_run h still run]
    rfl
  refine ⟨h.onOsc_iff, ⟨h.idle, rfl, ?elapsed⟩, ?onOsc, ?runs, ?stopped, ?noTest, ?closes⟩
  case elapsed =>
    rw [h.idle_clk]
    exact cycle_elapsed h
  case onOsc =>
    intro oscillates w
    have idle := h.idle_waits fun u closing => by simpa [cycle_elapsed, oscillates, Hub.oscPeriod] using w u closing
    rw [step_idle, idle, cycle_onOsc h oscillates]
    rfl
  case runs =>
    intro still w run
    rw [step_idle, running still w run]
  case stopped =>
    intro w stopped
    have still : h.onOsc = false := Bool.eq_false_iff.2 fun osc => absurd (h.onOsc_iff.1 osc).1 (ne_true_of_eq_false stopped)
    rw [step_idle, waiting still w, cycle_stopped h stopped]
    rfl
  case noTest =>
    intro noTest still w run
    have plain : ported on = on := on.ltPassed_of_no_test noTest
    rw [step_idle, running still w run, plain]
  case closes =>
    intro still late
    obtain ⟨u, closing, due⟩ : ∃ u, h.flt.closing = some u ∧ u + 10000 ≤ h.clk.elapsed + 8 := by
      simpa only [waits, not_forall, not_lt, exists_prop] using late
    have idle := h.idle_closes closing ((ref still).symm ▸ due)
    exact ⟨h.idle, rfl, by rw [idle, Hub.closeCoupler_flt], by rw [idle, Hub.closeCoupler_flt]⟩

/-- Settles O58: every arm is an effect on the hub alone (`act`). -/
theorem everyCommandAnswers : Obligations.EveryCommandAnswers := by
  intro c s
  cases c <;> exact ⟨_, rfl⟩

/-- Settles O59: the lists of a hub right after reset are made with the variant's lengths, and both memories are blank. -/
theorem resetMeetsInvariant : Obligations.ResetMeetsInvariant := by
  have shaped : Shaped (Hub.reset Ident.shipped) :=
    ⟨List.length_replicate, List.length_replicate, List.length_replicate, List.length_replicate, rfl, rfl, rfl, rfl, rfl, rfl, rfl⟩
  exact ⟨shaped, ⟨List.Pairwise.nil, List.forall_mem_nil _⟩, List.Pairwise.nil, List.forall_mem_nil _⟩

end

section
/-! PROOFS. What leaves array time as it is. -/

namespace Sys2Proof.Machine

theorem forAll_tm {α : Type} (f : α → Hub → Hub) (hf : ∀ a h, (f a h).tm = h.tm) (l : List α) (h : Hub) :
    (forAll l f h).tm = h.tm := forAll_keeps Hub.tm f hf l h
theorem iter_tm (f : Hub → Hub) (hf : ∀ h, (f h).tm = h.tm) (n : Nat) (h : Hub) : (iter f n h).tm = h.tm :=
  iter_keeps Hub.tm f hf n h
theorem Hub.tm_mk (x0 x1 x2 x3 x4 x5 x6 x7 x8 x9 x10 x11 x12 x13 x14 x15 x16 x17 x18 x19 x20 x21 x22 x23 x24 x25 x26 x27 x28 x29 x30 x31) :
    (Hub.mk x0 x1 x2 x3 x4 x5 x6 x7 x8 x9 x10 x11 x12 x13 x14 x15 x16 x17 x18 x19 x20 x21 x22 x23 x24 x25 x26 x27 x28 x29 x30 x31).tm = x2
    := rfl

@[simp] theorem Hub.sweepPut_tm (h : Hub) (raw : Bool) (c : Nat) (x : SweepSample) : (h.sweepPut raw c x).tm = h.tm := by
  simp only [Hub.sweepPut, ↓Hub.setFlow_tm]
@[simp] theorem Hub.retireChan_tm (h : Hub) (c code count : Nat) : (h.retireChan c code count).tm = h.tm := by
  unfold Hub.retireChan
  dsimp only
  repeat' split
  all_goals simp only [↓Hub.event_tm, ↓Hub.setCh_tm, ↓Hub.setDie_tm]
@[simp] theorem Hub.spareChan_tm (h : Hub) (c code : Nat) (readable : Bool) : (h.spareChan c code readable).tm = h.tm := by
  unfold Hub.spareChan
  dsimp only
  repeat' split
  all_goals simp only [↓Hub.notice_tm, ↓Hub.retireChan_tm, ↓Hub.setCh_tm, ↓Hub.setDie_tm]
@[simp] theorem Hub.setEngWin_tm (h : Hub) (d : Nat) (u : Word) (w : Option FaultWin) : (h.setEngWin d u w).tm = h.tm := by
  simp only [Hub.setEngWin, ↓Hub.setDie_tm]
@[simp] theorem Hub.placeUse_tm (h : Hub) (d e c : Nat) (others : List Nat) (get : Chan → Option ChurnUse) (put :
    Option ChurnUse → Chan → Chan) : (h.placeUse d e c others get put).tm = h.tm := by
  unfold Hub.placeUse
  split
  · rfl
  · split
    · rfl
    · split <;> exact h.setCh_tm _ _
@[simp] theorem Hub.moveChurn_tm (h : Hub) (d e : Nat) : (h.moveChurn d e).tm = h.tm := by
  rw [h.moveChurn_eq]
  refine forAll_tm _ (fun c g => ?_) _ _
  simp only [Hub.placeUses, ↓apply_ite Hub.tm, ↓Hub.notice_tm, ↓Hub.placeUse_tm, ite_self]
@[simp] theorem Hub.retireEngine_tm (h : Hub) (d typ e : Nat) : (h.retireEngine d typ e).tm = h.tm := by
  simp only [Hub.retireEngine, ↓Hub.moveChurn_tm, ↓Hub.setDie_tm, ↓apply_ite Hub.tm, ite_self, modAt]
@[simp] theorem Hub.engineFail_tm (h : Hub) (d typ e code : Nat) (readable passes : Bool) :
    (h.engineFail d typ e code readable passes).tm = h.tm := by
  unfold Hub.engineFail
  dsimp only
  repeat' split
  all_goals simp only [↓Hub.event_tm, ↓Hub.retireEngine_tm, ↓Hub.setDie_tm, ↓Hub.setEngWin_tm, ↓Hub.spareChan_tm,
    ↓Hub.tm_mk]
@[simp] theorem Hub.churnMismatch_tm (h : Hub) (d e : Nat) : (h.churnMismatch d e).tm = h.tm := by
  simp only [Hub.churnMismatch, ↓Hub.engineFail_tm, ↓Hub.event_tm, ↓Hub.setDie_tm, ↓Hub.tick_tm, ↓apply_ite Hub.tm, ite_self,
    modAt]
@[simp] theorem Hub.churnCapture_tm (h : Hub) (raw : Bool) (c next : Nat) : (h.churnCapture raw c next).tm = h.tm := by
  unfold Hub.churnCapture
  split <;> simp only [↓Hub.setCh_tm, ↓Hub.tm_mk, ↓apply_ite Hub.tm, ite_self]
@[simp] theorem Hub.churnClose_tm (h : Hub) (raw : Bool) (c : Nat) : (h.churnClose raw c).tm = h.tm := by
  unfold Hub.churnClose
  split <;> simp only [↓Hub.churnCapture_tm, ↓Hub.churnMismatch_tm, ↓Hub.setCh_tm, ↓Hub.sweepPut_tm, ↓Hub.tick_tm, ↓apply_ite
    Hub.tm, ite_self]
@[simp] theorem Hub.churnBreak_tm (h : Hub) (raw : Bool) (c : Nat) : (h.churnBreak raw c).tm = h.tm := by
  simp only [Hub.churnBreak, ↓Hub.churnClose_tm, ↓Hub.setCh_tm]
@[simp] theorem Hub.flowBreak_tm (h : Hub) (k : FlowKey) : (h.flowBreak k).tm = h.tm := by
  simp only [Hub.flowBreak, ↓Hub.churnBreak_tm, ↓forAll_tm, ↓apply_ite Hub.tm, ite_self, implies_true]
@[simp] theorem Hub.allBreak_tm (h : Hub) : h.allBreak.tm = h.tm := by
  simp only [Hub.allBreak, ↓Hub.flowBreak_tm, ↓forAll_tm, implies_true]
@[simp] theorem Hub.dropBlocks_tm (h : Hub) (k : FlowKey) (s : Nat) : (h.dropBlocks k s).tm = h.tm := by
  refine forAll_tm _ (fun c g => forAll_tm _ (fun raw g => ?_) _ _) _ _
  split
  · rfl
  · split
    · rfl
    · simp only [↓Hub.setCh_tm, ↓apply_ite Hub.tm, ↓Hub.setFlow_tm, ite_self]
@[simp] theorem Hub.reserveDie_tm (n : Nat) (eval : Bool) (d : Nat) (h : Hub) : (Hub.reserveDie n eval d h).tm = h.tm := by
  unfold Hub.reserveDie
  repeat' split
  all_goals simp only [↓Hub.notice_tm, ↓Hub.setCap_tm, ↓Hub.tm_mk, ↓apply_ite Hub.tm, ite_self]
@[simp] theorem Hub.retryWait_tm (h : Hub) (d : Nat) : (h.retryWait d).tm = h.tm := by
  refine forAll_tm _ (fun n g => ?_) _ _
  split <;> simp only [↓apply_ite Hub.tm, ↓Hub.reserveDie_tm, ite_self]
@[simp] theorem Hub.setCoach_tm (h : Hub) (d seq : Nat) (f : Coach → Coach) : (h.setCoach d seq f).tm = h.tm := by
  simp only [Hub.setCoach, ↓Hub.setDie_tm]
@[simp] theorem Hub.reserve_tm (h : Hub) (n : Nat) : (h.reserve n).tm = h.tm := by
  unfold Hub.reserve
  split <;> simp only [↓Hub.reserveDie_tm, ↓forAll_tm, implies_true]
@[simp] theorem Hub.coachRecord_tm (h : Hub) (k : FlowKey) (stream first : Nat) (b : Bytes) :
    (h.coachRecord k stream first b).1.tm = h.tm := by
  unfold Hub.coachRecord
  split
  · rfl
  · exact h.setFlow_tm _ _
@[simp] theorem Hub.sendCoach_tm (h : Hub) (d : Nat) (c : Coach) : (h.sendCoach d c).tm = h.tm := by
  unfold Hub.sendCoach
  simp only [↓Hub.setCoach_tm, ↓Hub.coachRecord_tm]
  split
  · simp only [↓apply_ite Hub.tm, ↓Hub.setDie_tm, ↓Hub.coachRecord_tm, ite_self]
  · rfl
@[simp] theorem Hub.sendWanted_tm (h : Hub) (d : Nat) : (h.sendWanted d).tm = h.tm := by
  simp only [Hub.sendWanted, ↓Hub.flowTouch_tm, ↓Hub.sendCoach_tm, ↓forAll_tm, ↓apply_ite Hub.tm, ite_self, implies_true]
@[simp] theorem Hub.disarm_tm (h : Hub) (n : Nat) : (h.disarm n).tm = h.tm := by
  simp only [Hub.disarm, ↓Hub.retryWait_tm, ↓forAll_tm, ↓Hub.tm_mk, modAt, implies_true]
@[simp] theorem Hub.trainDone_tm (h : Hub) (n : Nat) : (h.trainDone n).tm = h.tm := by
  unfold Hub.trainDone
  repeat' split
  all_goals simp only [↓Hub.disarm_tm, ↓Hub.notice_tm, ↓Hub.reserve_tm, ↓Hub.sendWanted_tm, ↓Hub.setCap_tm, ↓Hub.setDie_tm,
    ↓forAll_tm, implies_true]
@[simp] theorem Hub.coachPayload_tm (h : Hub) (c : Coach) : (h.coachPayload c).1.tm = h.tm := by
  unfold Hub.coachPayload
  split
  · rfl
  · simp only [↓iter_tm, ↓Hub.churnMismatch_tm, ↓Hub.tm_mk, ↓Hub.setCh_tm, implies_true]
@[simp] theorem Hub.coachDone_tm (h : Hub) (d seq : Nat) : (h.coachDone d seq).tm = h.tm := by
  unfold Hub.coachDone
  split
  · rfl
  · next c _ =>
    have paid := h.coachPayload_tm c
    generalize h.coachPayload c = formed at paid ⊢
    obtain ⟨g, pay, churn⟩ := formed
    simp only [↓Hub.trainDone_tm, ↓apply_ite Hub.tm, ↓Hub.retryWait_tm, ↓Hub.setCap_tm, ↓Hub.setCoach_tm, ite_self]
    exact paid
@[simp] theorem Hub.cutCoach_tm (h : Hub) (n c : Nat) : (h.cutCoach n c).tm = h.tm := by
  unfold Hub.cutCoach
  split <;> simp only [↓Hub.coachDone_tm, ↓Hub.retryWait_tm, ↓Hub.setCap_tm, ↓Hub.setCoach_tm, ↓Hub.setDie_tm,
    ↓Hub.trainDone_tm, ↓apply_ite Hub.tm, ite_self]
@[simp] theorem Hub.cutFilling_tm (h : Hub) : h.cutFilling.tm = h.tm := by
  refine forAll_tm _ (fun n g => ?_) _ _
  split <;> simp only [↓Hub.setCap_tm, ↓forAll_tm, ↓Hub.cutCoach_tm, implies_true]
@[simp] theorem Hub.sclkHold_tm (h : Hub) (n back : Nat) : (h.sclkHold n back).tm = h.tm := by
  simp only [Hub.sclkHold, ↓Hub.tm_mk, ↓apply_ite Hub.tm, ite_self, modAt]
@[simp] theorem Hub.sclkStart_tm (h : Hub) (n t : Nat) : (h.sclkStart n t).tm = h.tm := by
  simp only [Hub.sclkStart, ↓Hub.tm_mk, modAt]

end Sys2Proof.Machine
end


section
/-! PROOFS. Settings and reads of array time, its start, and the PPS inputs: Obligations.TimeSettings, TimeReads, LoadArming,
ArrayTimeAfterReset and PpsInputs. -/

namespace Sys2Proof.Machine

/-! ## A command's answer, from what it makes of the hub -/

theorem next_congr {h k : Hub} {p : List Instr} (made : h = k) : (.next ⟨h, p⟩ : Out) = .next ⟨k, p⟩ := by rw [made]

theorem next_same {s : State} {h : Hub} (same : h = s.hub) : (.next ⟨h, s.pending⟩ : Out) = .next s := by rw [same]

/-! ## Settings of array time -/

theorem Hub.timeSet_lane (h : Hub) (sec : BitVec 48) (lane : h.tm.src = .lane) : h.timeSet sec = h.refuse St.badArg := if_pos lane

theorem Hub.timeSet_armed (h : Hub) (sec : BitVec 48) (other : h.tm.src ≠ .lane) :
    h.timeSet sec = (h.setTm fun t => { t with
      ldHi := sec.toNat / 2 ^ 32, ldLo := BitVec.ofNat 32 sec.toNat, armed := true, ldAt := some sec.toNat }).ok [] := if_neg other

theorem Hub.timeCfgSet_kept (h : Hub) {w : Word} (bits : onlyBits w 0x0FFFFFFB = true) (low : 1 ≤ fld w 15 6) (high : fld w 15 6 ≤ 1000) :
    h.timeCfgSet w = (h.setTm fun t => { t with cfgNext := some w }).ok [] := by
  refine if_neg ?_
  rw [bits]
  simp only [Bool.not_true, Bool.false_eq_true, false_or]
  omega

theorem Hub.timeCfgSet_bad (h : Hub) {w : Word} (bad : onlyBits w 0x0FFFFFFB = false ∨ fld w 15 6 = 0 ∨ 1000 < fld w 15 6) :
    h.timeCfgSet w = h.refuse St.badArg := if_pos (by simpa using bad)

theorem Hub.timeAsymSet_branch (h : Hub) {p : Nat} (v : Word) (branch : p ≠ 0) (present : p < h.nPorts) :
    h.timeAsymSet p v = h.onDies [p / 4] ((h.setPort p fun q => { q with asym := v }).ok []) :=
  if_neg (not_or.2 ⟨branch, Nat.not_le.2 present⟩)

theorem Hub.onDies_one_down (h : Hub) {d : Nat} (down : h.dieDown d = true) (k : Hub) : h.onDies [d] k = h.refuseDie St.fault d := by
  rw [Hub.onDies, List.filter_cons_of_pos down]
  rfl

theorem Hub.timeTinSet_kept (h : Hub) {i : Nat} {w : Word} (input : i < 8) (bits : onlyBits w 0xE000FFFF = true) (edges : fld w 30 29 ≠ 3) :
    h.timeTinSet i w = (h.setTm fun t => { t with tins := modAt t.tins i fun x =>
      { x with cfg := w, count := if bitOf w 31 && !bitOf x.cfg 31 then 0 else x.count } }).ok [] :=
  by
  refine if_neg ?_
  rw [bits]
  simp [edges, input]

theorem Hub.timeTinSet_bad (h : Hub) {i : Nat} {w : Word} (bad : 8 ≤ i ∨ onlyBits w 0xE000FFFF = false ∨ fld w 30 29 = 3) :
    h.timeTinSet i w = h.refuse St.badArg := if_pos (by simpa using bad)

/-! ## Reads -/

theorem Hub.timeTinGet_input (h : Hub) {i : Nat} {x : Tin} (input : i < 8) (there : h.tm.tins[i]? = some x) :
    h.timeTinGet i = h.ok (be 4 x.cfg.toNat ++ be 1 (if x.level then 1 else 0) ++ pad 3 ++ be 4 x.count.toNat) := by
  rw [Hub.timeTinGet, if_neg (Nat.not_le.2 input), List.getD_eq_getElem?_getD, there]
  rfl

/-- An HSPI read of one register of the time window shows what `Hub.readReg` reads of it. -/
theorem Hub.hspi_secLo (h : Hub) (on : h.hspiOn = true) : h.hspi 0x0B 0x44 [] 1 = h.readSecLo .hspi := by
  rw [Hub.hspi, on]
  rfl

/-! ## The sample clock starts and stops -/

/-- The clocks, the channels and array time: what a change of the source or of the alignment leaves. -/
def Hub.ticking (h : Hub) : Clk × List Chan × Nat := (h.clk, h.chans, h.tm.now)

@[simp] theorem Hub.setAlign_ticking (h : Hub) (a : Align) : (h.setAlign a).ticking = h.ticking := by simp [Hub.ticking]
@[simp] theorem Hub.setBase_ticking (h : Hub) (b : Base) : (h.setBase b).ticking = h.ticking := by simp [Hub.ticking]
@[simp] theorem Hub.copyBase_ticking (h : Hub) (b : Nat) : (h.copyBase b).ticking = h.ticking := by
  unfold Hub.copyBase
  split <;> simp
@[simp] theorem Hub.takeSource_ticking (h : Hub) (s : Source) : (h.takeSource s).ticking = h.ticking := by
  unfold Hub.takeSource
  extract_lets taken based
  have kept : based.ticking = h.ticking := by
    cases s <;> simp only [based, Hub.setBase_ticking, Hub.copyBase_ticking] <;> rfl
  clear_value based
  split_ifs
  · exact (Hub.setAlign_ticking ..).trans kept
  · exact kept
  · exact (Hub.setAlign_ticking ..).trans kept

/-- The first edge of the sample clock starts the count of cycles, array time and every accumulator at 0 (R531). -/
theorem Hub.firstEdge_ticking (h : Hub) : h.firstEdge.ticking =
    ({ h.clk with run := true, valid := true, cycles := 0, relockAt := none, retryAt := none, outs := List.replicate 4 ⟨0, 0⟩ },
      h.chans.mapIdx fun _ x => { x with acc := 0, accAt := 0 }, 0) := by
  unfold Hub.firstEdge
  extract_lets clk running zeroed timed wanted sourced
  have kept : sourced.ticking = timed.ticking := Hub.takeSource_ticking _ _
  split
  · exact (Hub.setAlign_ticking ..).trans kept
  · exact kept

theorem Hub.sclkValid_first (h : Hub) (stopped : h.clk.run = false) (booted : h.boot.tr.isSome = true)
    (source : h.clk.refclk = true ∨ (h.prt 0).ltUp = true) : h.sclkValid = h.firstEdge := by
  rw [Hub.sclkValid, if_pos (by rw [stopped]; rfl), if_pos ⟨booted, source⟩]

theorem Hub.tapSeal_clk (h : Hub) : h.tapSeal.clk = h.clk := by
  unfold Hub.tapSeal
  split <;> rfl

theorem Hub.rstN_low_clk (h : Hub) (vioA vioB : Bool) : (h.rstN false vioA vioB).clk.run = false :=
  congrArg Clk.run (Hub.tapSeal_clk _)

/-! ## The couplers and the ports leave array time -/

@[simp] theorem Hub.laneAway_now (h : Hub) (a : Align) : (h.laneAway a).tm.now = h.tm.now := by
  unfold Hub.laneAway
  dsimp only
  rw [apply_ite Hub.tm, Hub.setAlign_tm, apply_ite Tm.now]
  exact ite_self _

@[simp] theorem Hub.discardNote_tm (h : Hub) (p n : Nat) : (h.discardNote p n).tm = h.tm := by
  unfold Hub.discardNote
  split <;> simp

theorem Hub.portLost_now (h : Hub) (p : Nat) (st : PState) : (h.portLost p st).tm.now = h.tm.now := by
  unfold Hub.portLost
  dsimp only
  split
  · unfold Hub.linkGone
    split <;> simp [Hub.unsend]
  · simp [Hub.unsend]

theorem Hub.portDown_now (h : Hub) (p : Nat) (st : PState) : (h.portDown p st).tm.now = h.tm.now := by
  have lost := h.portLost_now p st
  unfold Hub.portDown
  dsimp only
  split
  · rw [Hub.watermarks_tm, Hub.still_tm (Hub.rawReassign_still _), lost]
  · rw [Hub.watermarks_tm, lost]

theorem Hub.closeCoupler_now (h : Hub) (byHost : Bool) : (h.closeCoupler byHost).tm.now = h.tm.now := by
  simp [Hub.closeCoupler, Hub.clockLoss, Hub.portDown_now]

theorem cycle_now (h : Hub) (run : h.clk.run = true) : (cycle h).tm.now = h.tm.now + 8 * 1024 := by
  cases osc : h.onOsc with
  | true => rw [cycle_onOsc h osc]
  | false => rw [cycle_run h osc run]

theorem Hub.ltPassed_tm (h : Hub) : h.ltPassed.tm = h.tm := rfl

theorem Hub.idle_now (h : Hub) : h.idle.tm.now = (cycle h).tm.now := by
  rw [h.idle_eq]
  split
  · split
    · rw [Hub.closeCoupler_now, Hub.ltPassed_tm]
    · rw [Hub.ltPassed_tm]
  · rw [Hub.ltPassed_tm]

/-! ## PPS inputs (R103 to R106) -/

@[simp] theorem Hub.setPps_pps (h : Hub) (i : Nat) (f : PpsIn → PpsIn) : (h.setPps i f).pps i = f (h.pps i) := by
  by_cases first : i = 0 <;> simp [Hub.setPps, Hub.pps, first]

theorem Hub.setPps_congr (h : Hub) {i : Nat} {f g : PpsIn → PpsIn} (same : f (h.pps i) = g (h.pps i)) : h.setPps i f = h.setPps i g := by
  by_cases first : i = 0 <;> simp_all [Hub.setPps, Hub.setTm, Hub.pps]

theorem Hub.setPps_other (h : Hub) {i : Nat} (input : i < 2) (f : PpsIn → PpsIn) : (h.setPps i f).pps (1 - i) = h.pps (1 - i) := by
  obtain rfl | rfl : i = 0 ∨ i = 1 := by omega
  all_goals rfl

@[simp] theorem Hub.setPps_now (h : Hub) (i : Nat) (f : PpsIn → PpsIn) : (h.setPps i f).tm.now = h.tm.now := by
  by_cases first : i = 0 <;> simp [Hub.setPps, first]

/-- The states of the two inputs, and what is known of missing markers: what a correction of array time leaves. -/
def Tm.watched (t : Tm) : PpsState × PpsState × Nat × Bool := (t.ppsA.st, t.ppsB.st, t.missed, t.markLost)

theorem Hub.pps_st_of_watched {h k : Hub} (same : k.tm.watched = h.tm.watched) (i : Nat) : (k.pps i).st = (h.pps i).st := by
  simp only [Tm.watched, Prod.mk.injEq] at same
  obtain ⟨first, second, -⟩ := same
  unfold Hub.pps
  split
  · exact first
  · exact second

@[simp] theorem Tm.setAlign_watched (t : Tm) (a : Align) : (t.setAlign a).watched = t.watched := rfl

/-! ### An accepted edge leaves the states -/

theorem Hub.stepRecord_tm (h : Hub) (c remPs : Int) : (h.stepRecord c remPs).tm = { h.tm with stepped := true } := by
  simp only [Hub.stepRecord, Hub.notice_tm, Hub.setTm_tm, Hub.mapCh_tm]

/-- A count step moves array time, and with it what is kept in array time (R114). -/
theorem Hub.countStep_tm (h : Hub) {c : Int} (some : c ≠ 0) (remPs : Int) : (h.countStep c remPs).tm = { h.tm with
    now := moved h.tm.now (c * fuCycle)
    second := secOf (moved h.tm.now (c * fuCycle))
    ppsA := h.tm.ppsA.shift (c * fuCycle)
    ppsB := h.tm.ppsB.shift (c * fuCycle)
    tins := h.tm.tins.map fun i => { i with last := i.last.map fun x => moved x (c * fuCycle) }
    stepped := true } := by
  simp only [Hub.countStep, if_neg some, ↓Hub.stepRecord_tm, ↓forAll_tm, ↓Hub.flowBuilt_tm, ↓Hub.sclkStart_tm, ↓Hub.setTm_tm,
    ↓apply_ite Hub.tm, ↓Hub.cutFilling_tm, ↓Hub.tm_mk, ↓Hub.mapCh_tm, ↓Hub.dropBlocks_tm, ↓Hub.allBreak_tm, ↓Hub.sclkHold_tm,
    ite_self, implies_true]

theorem Hub.countStep_watched (h : Hub) (c remPs : Int) : (h.countStep c remPs).tm.watched = h.tm.watched := by
  by_cases none : c = 0
  · rw [none]
    rfl
  · rw [h.countStep_tm none]
    rfl

theorem Hub.setTm_watched (h : Hub) {f : Tm → Tm} (kept : (f h.tm).watched = h.tm.watched) :
    (h.setTm f).tm.watched = h.tm.watched := kept

theorem Hub.setAlign_watched (h : Hub) (a : Align) : (h.setAlign a).tm.watched = h.tm.watched := by rw [Hub.setAlign_tm]; rfl
theorem Hub.setBase_watched (h : Hub) (b : Base) : (h.setBase b).tm.watched = h.tm.watched := by rw [Hub.setBase_tm]; rfl

theorem Hub.stepTime_watched (h : Hub) (d : Int) : (h.stepTime d).tm.watched = h.tm.watched := by
  unfold Hub.stepTime
  dsimp only
  split_ifs
  · rfl
  · rw [Hub.stepRecord_tm]
    rfl
  · rfl

theorem Hub.correct_watched (h : Hub) (e : Int) (lane : Bool) : (h.correct e lane).tm.watched = h.tm.watched := by
  unfold Hub.correct
  extract_lets error stepped threshold phased
  have step : stepped.tm.watched = h.tm.watched := Hub.stepTime_watched _ _
  have phase : phased.tm.watched = h.tm.watched := by
    unfold phased
    split
    · exact Hub.stepTime_watched _ _
    · rfl
  clear_value stepped phased
  split_ifs
  · rfl
  · exact (Hub.setAlign_watched ..).trans step
  · exact step
  · exact (Hub.setAlign_watched ..).trans phase
  · exact (Hub.setAlign_watched ..).trans phase
  · exact phase

theorem Hub.checkCoherent_watched (h : Hub) (interval : Option Nat) : (h.checkCoherent interval).tm.watched = h.tm.watched := by
  cases interval with
  | none => rfl
  | some d =>
    unfold Hub.checkCoherent
    dsimp -zeta only
    extract_lets bad run good incoherent noted
    split
    · exact Hub.setBase_watched _ _
    · rfl

theorem Hub.checkSplit_watched (h : Hub) (i : Nat) : (h.checkSplit i).tm.watched = h.tm.watched := by
  unfold Hub.checkSplit
  dsimp only
  split_ifs <;> rfl

/-- What a change of the active input leaves of array time's state (R105). -/
theorem Hub.chooseActive_tm (h : Hub) : ∃ active errs, h.chooseActive.tm = { h.tm with active := active, errs := errs } := by
  unfold Hub.chooseActive
  extract_lets pri oth pl ol nx chosen
  have made : chosen.tm = { h.tm with active := nx, errs := [] } := rfl
  clear_value chosen nx
  split_ifs
  · exact ⟨_, _, rfl⟩
  · cases nx with
    | some i => exact ⟨_, _, (Hub.notice_tm ..).trans made⟩
    | none => exact ⟨_, _, made⟩

theorem Hub.chooseActive_watched (h : Hub) : h.chooseActive.tm.watched = h.tm.watched := by
  obtain ⟨active, errs, tm⟩ := h.chooseActive_tm
  rw [tm]
  rfl

theorem Hub.loadSec_watched (h : Hub) (loaded counted : Nat) : (h.loadSec loaded counted).tm.watched = h.tm.watched :=
  h.countStep_watched _ _

/-- An accepted edge leaves the states of both inputs. -/
theorem Hub.ppsAccept_watched (h : Hub) (i t : Nat) (interval : Option Nat) : (h.ppsAccept i t interval).tm.watched = h.tm.watched := by
  unfold Hub.ppsAccept
  extract_lets _ _ edged checked coherent _ averaged steered
  have edge : edged.tm.watched = h.tm.watched := by
    unfold edged Hub.setPps
    rw [Hub.setTm_tm]
    split <;> rfl
  have check : checked.tm.watched = h.tm.watched :=
    ((Hub.checkSplit_watched _ _).trans (Hub.chooseActive_watched _)).trans edge
  have cohere : coherent.tm.watched = h.tm.watched := (Hub.checkCoherent_watched _ _).trans check
  have average : averaged.tm.watched = h.tm.watched := cohere
  have steer : steered.tm.watched = h.tm.watched := by
    unfold steered
    split
    · exact average
    · exact (Hub.correct_watched _ _ _).trans ((Hub.setBase_watched _ _).trans average)
  clear_value checked coherent averaged steered
  split_ifs
  · exact check
  · exact cohere
  · exact (Hub.loadSec_watched _ _ _).trans steer
  · exact steer

/-! ### Edges -/

section Edges

variable (h : Hub) {i : Nat} (fu : Int) (input : i < 2)

/-- What an edge at a time does on an input that takes edges (Table 04-7). -/
def Hub.ppsTaken (h : Hub) (i t : Nat) : Hub :=
  let p := h.pps i
  let near (x : Nat) : Bool := decide (((t : Int) - x).natAbs ≤ 51200000)
  let glitch (p : PpsIn) : PpsIn := { p with glitch := satInc 16 p.glitch }
  match p.st with
  | .idle | .lost => h.setPps i fun p => { p with st := .candidate, count := 0, last := some t }
  | .candidate =>
    if near ((p.last.getD 0) + fuSec) then
      if p.count + 1 = 3 then (h.setPps i fun p => { p with st := .locked, count := 0, run := 0 }).ppsAccept i t none
      else h.setPps i fun p => { p with count := p.count + 1, last := some t }
    else h.setPps i fun p => { glitch p with count := 0, last := some t }
  | .locked =>
    let last := p.last.getD 0
    if near ((nearestSec last + 1) * fuSec) then h.ppsAccept i t (some (t - last))
    else h.setPps i glitch

include input in
theorem Hub.ppsEdge_taken (enabled : bitOf h.tm.cfg (3 + i) = true) (supplied : h.vio i = true)
    (served : i = 1 → (h.die 1).inService = true) :
    h.ppsEdge i fu = h.ppsTaken i (moved h.tm.now (fu - psFu (h.pps i).comp.toInt)) := by
  refine if_neg ?_
  rw [enabled, supplied]
  rintro (far | off | off | ⟨second, out⟩)
  · omega
  · exact Bool.noConfusion off
  · exact Bool.noConfusion off
  · rw [served second] at out
    exact Bool.noConfusion out

theorem Hub.ppsEdge_disabled (disabled : bitOf h.tm.cfg (3 + i) = false) : h.ppsEdge i fu = h :=
  if_pos (.inr (.inr (.inl (by rw [disabled]; rfl))))

variable {t l : Nat}

theorem Hub.ppsTaken_begins (idle : (h.pps i).st = .idle ∨ (h.pps i).st = .lost) :
    h.ppsTaken i t = h.setPps i fun q => { q with st := .candidate, count := 0, last := some t } := by
  obtain idle | lost := idle
  · simp only [Hub.ppsTaken, idle]
  · simp only [Hub.ppsTaken, lost]

variable (candidate : (h.pps i).st = .candidate) (last : (h.pps i).last = some l)
include candidate last

theorem Hub.ppsTaken_counts (few : (h.pps i).count < 2) (near : ((t : Int) - (l + fuSec)).natAbs ≤ 51200000) :
    h.ppsTaken i t = h.setPps i fun q => { q with count := q.count + 1, last := some t } := by
  have more : ¬(h.pps i).count + 1 = 3 := by omega
  simp [Hub.ppsTaken, candidate, last, near, more]

theorem Hub.ppsTaken_glitch (far : 51200000 < ((t : Int) - (l + fuSec)).natAbs) :
    h.ppsTaken i t = h.setPps i fun q => { q with glitch := satInc 16 q.glitch, count := 0, last := some t } := by
  simp [Hub.ppsTaken, candidate, last, far]

theorem Hub.ppsTaken_locks (third : (h.pps i).count = 2) (near : ((t : Int) - (l + fuSec)).natAbs ≤ 51200000) :
    ((h.ppsTaken i t).pps i).st = .locked := by
  have accepted : h.ppsTaken i t = (h.setPps i fun p => { p with st := .locked, count := 0, run := 0 }).ppsAccept i t none := by
    simp [Hub.ppsTaken, candidate, last, near, third]
  rw [accepted, Hub.pps_st_of_watched (Hub.ppsAccept_watched ..), Hub.setPps_pps]

end Edges

theorem Hub.ppsTaken_outside (h : Hub) {i t l : Nat} (locked : (h.pps i).st = .locked) (last : (h.pps i).last = some l)
    (far : 51200000 < ((t : Int) - ((nearestSec l + 1) * fuSec)).natAbs) :
    h.ppsTaken i t = h.setPps i fun q => { q with glitch := satInc 16 q.glitch } := by
  simp [Hub.ppsTaken, locked, last, far]

/-! ### Loss of an input -/

theorem Hub.ppsLost_late (h : Hub) {i l : Nat} (input : i < 2) (last : (h.pps i).last = some l) (late : l + fuSec / 2 * 3 ≤ h.tm.now) :
    h.ppsLost i = h.ppsDrop i := by
  refine if_neg (not_or.2 ⟨Nat.not_le.2 input, ?_⟩)
  rw [last]
  exact Nat.not_lt.2 late

theorem Hub.ppsDrop_candidate (h : Hub) {i : Nat} (candidate : (h.pps i).st = .candidate) :
    h.ppsDrop i = h.setPps i fun q => { q with st := .idle } := by
  simp only [Hub.ppsDrop, candidate]

/-- A locked input that is lost changes array time's state in nothing but itself, the choice of the active input and BASE_STATE. -/
theorem Hub.ppsDrop_locked (h : Hub) {i : Nat} (locked : (h.pps i).st = .locked) : ∃ active errs split base,
    (h.ppsDrop i).tm = { (h.setPps i fun p => { p with st := .lost, run := 0 }).tm with
      active := active, errs := errs, splitRun := split, base := base } := by
  unfold Hub.ppsDrop
  rw [locked]
  dsimp -zeta only
  extract_lets told chosen
  obtain ⟨active, errs, chose⟩ := told.chooseActive_tm
  have tell : told.tm = { (h.setPps i fun p => { p with st := .lost, run := 0 }).tm with splitRun := 0 } := Hub.notice_tm ..
  have choice : chosen.tm = { told.tm with active := active, errs := errs } := chose
  clear_value told chosen
  split_ifs
  · exact ⟨active, errs, _, .holdover, by rw [Hub.setBase_tm, choice, tell]⟩
  · exact ⟨active, errs, _, _, by rw [choice, tell]⟩

end Sys2Proof.Machine

open Sys2Proof Sys2Proof.Machine

/-- Settles O1, check by check of each command (R100, R103, R111, R118, R131). -/
theorem timeSettings : Obligations.TimeSettings := by
  intro s
  refine ⟨fun sec other => next_congr (s.hub.timeSet_armed sec other), fun sec lane => next_congr (s.hub.timeSet_lane sec lane),
    fun w bits low high => next_congr (s.hub.timeCfgSet_kept bits low high), fun w bad => next_congr (s.hub.timeCfgSet_bad bad),
    fun a b => rfl, fun p v branch present up => ?asym, fun p v branch present down => ?asymDown,
    fun p v absent => next_congr (if_pos absent), fun i w input bits edges => next_congr (s.hub.timeTinSet_kept input bits edges),
    fun i w bad => next_congr (s.hub.timeTinSet_bad bad)⟩
  case asym =>
    exact next_congr ((s.hub.timeAsymSet_branch v branch present).trans (s.hub.onDies_up (by simpa using up) _))
  case asymDown =>
    exact next_congr ((s.hub.timeAsymSet_branch v branch present).trans (s.hub.onDies_one_down down _))

/-- Settles O2: each read is a reply of the state's own fields (R128, R129, R383). -/
theorem timeReads : Obligations.TimeReads := by
  intro s
  refine ⟨rfl, rfl, fun i x input there => next_congr (s.hub.timeTinGet_input input there), fun i absent => next_congr (if_pos absent),
    fun on => next_congr (s.hub.hspi_secLo on), fun on => next_congr (if_pos on), fun r off => ?off⟩
  case off =>
    cases r with
    | hspi => exact next_same (s.hub.hspi_off _ _ _ _ off)
    | inband => exact next_same (if_neg (ne_true_of_eq_false off))

/-- Settles O3 by the window's state and the source (R131, R354). -/
theorem loadArming : Obligations.LoadArming := by
  intro s
  refine ⟨fun on lane => next_congr ((if_pos on).trans ?refused), fun on other => next_congr ((if_pos on).trans ?armed), fun on => next_congr (if_pos on),
    fun off => ⟨next_same (if_neg (ne_true_of_eq_false off)), next_same (if_neg (ne_true_of_eq_false off))⟩⟩
  case refused => rw [Hub.arm, Hub.setTm, if_pos lane]
  case armed => rw [Hub.arm, Hub.setTm, if_neg other]


/-- Settles O4: `Hub.firstEdge` starts all of it at 0, a step on an empty queue is `Hub.idle`, and a reset begins with the clock stopped. -/
theorem arrayTimeAfterReset : Obligations.ArrayTimeAfterReset := by
  intro s
  refine ⟨fun stopped booted source => ?first, fun idle run => ?counts, fun vioA vioB => ⟨_, rfl, s.hub.rstN_low_clk vioA vioB⟩⟩
  case first =>
    have started := s.hub.firstEdge_ticking
    simp only [Hub.ticking, Prod.mk.injEq] at started
    obtain ⟨clk, chans, now⟩ := started
    refine ⟨⟨s.hub.firstEdge, s.pending⟩, next_congr (s.hub.sclkValid_first stopped booted source), ?_⟩
    dsimp only
    rw [clk, chans, now]
    refine ⟨rfl, rfl, rfl, rfl, rfl, rfl, fun x mem => ?_⟩
    obtain ⟨i, below, rfl⟩ := List.mem_mapIdx.1 mem
    rfl
  case counts =>
    obtain ⟨h, pending⟩ := s
    subst idle
    exact ⟨_, step_idle h, h.idle_now.trans (cycle_now h run)⟩

/-- Settles O5: an input that takes edges follows Table 04-7, state by state. -/
theorem ppsInputs : Obligations.PpsInputs := by
  refine ⟨fun s i fu => ?edges, fun s i fu input disabled => next_same (s.hub.ppsEdge_disabled fu disabled),
    fun s i l input last late => ⟨fun candidate => ?idle, fun locked => ?lost⟩⟩
  case edges =>
    intro h p t input enabled supplied served
    have taken : h.ppsEdge i fu = h.ppsTaken i t := h.ppsEdge_taken fu input enabled supplied served
    refine ⟨fun idle => next_congr (taken.trans (h.ppsTaken_begins idle)),
      fun l candidate last few near => next_congr (taken.trans ?counts), fun l candidate last far => next_congr (taken.trans ?glitch),
      fun l candidate last third near => ⟨_, next_congr taken, h.ppsTaken_locks candidate last third near⟩,
      fun l locked last far => next_congr (taken.trans ?outside)⟩
    case counts => exact (h.ppsTaken_counts candidate last few near).trans (h.setPps_congr rfl)
    case glitch => exact (h.ppsTaken_glitch candidate last far).trans (h.setPps_congr rfl)
    case outside => exact (h.ppsTaken_outside locked last far).trans (h.setPps_congr rfl)
  case idle =>
    exact next_congr ((s.hub.ppsLost_late input last late).trans (s.hub.ppsDrop_candidate candidate))
  case lost =>
    obtain ⟨active, errs, split, base, dropped⟩ := s.hub.ppsDrop_locked locked
    refine ⟨_, next_congr (s.hub.ppsLost_late input last late), ?_⟩
    have inputs (j : Nat) : (s.hub.ppsDrop i).pps j = (s.hub.setPps i fun p => { p with st := .lost, run := 0 }).pps j := by
      simp only [Hub.pps, dropped]
    dsimp only
    rw [inputs, inputs, Hub.setPps_pps, s.hub.setPps_other input, dropped]
    exact ⟨rfl, rfl, rfl, s.hub.setPps_now i _⟩

end

section
/-! PROOFS. The ports without their traffic: what records, notices, flows and captures leave of them. -/

namespace Sys2Proof.Machine

/-- A port without its traffic: its link and the levels of its queues. -/
def Port.core (q : Port) : Port := { q with link := Link.reset, hi := false, fwdHi := false }

/-- The ports of a hub without their traffic. -/
def Hub.portCores (h : Hub) : List Port := h.ports.map Port.core

theorem forAll_portCores {α : Type} (f : α → Hub → Hub) (keeps : ∀ a h, (f a h).portCores = h.portCores) (l : List α) (h : Hub) :
    (forAll l f h).portCores = h.portCores := forAll_keeps Hub.portCores f keeps l h
theorem iter_portCores (f : Hub → Hub) (keeps : ∀ h, (f h).portCores = h.portCores) (n : Nat) (h : Hub) :
    (iter f n h).portCores = h.portCores := iter_keeps Hub.portCores f keeps n h

/-- An update of a hub's fields leaves the cores of the ports that it leaves. -/
theorem Hub.portCores_mk (h : Hub) {clk : Clk} {tm : Tm} {chans : List Chan} {octs : List Octet} {reps : List Rep} {dies : List Die}
    {trg : Trg} {caps : List (Option Capture)} {nextTrain : Nat} {saved : List SavedChurn} {jobs : List ChurnJob} {nextHandle nextJob : Nat}
    {flows : List Flow} {strm : Strm} {hk : Hk} {sep : Sep} {enm : Enum} {mgmt : Mgmt} {dbw : Dbw} {fseal : Seal}
    {flt : Flt} {cal : Cal} {pwr : Pwr} {pmbus : Pmbus} {boot : Boot} {flash : Flash} {tag : Tag} {tap : Tap} {fresh : Nat} {ident : Ident}
      :
    (Hub.mk ident clk tm chans octs reps dies trg caps nextTrain saved jobs nextHandle nextJob flows strm hk sep h.ports enm mgmt dbw
      fseal flt cal pwr pmbus boot flash tag tap fresh).portCores = h.portCores := rfl

theorem Hub.setPort_portCores (h : Hub) (p : Nat) {f : Port → Port} (kept : ∀ q, (f q).core = q.core) :
    (h.setPort p f).portCores = h.portCores := by
  refine List.ext_getElem? fun i => ?_
  simp only [Hub.portCores, Hub.setPort_ports, List.getElem?_map, List.getElem?_modify]
  cases h.ports[i]? with
  | none => rfl
  | some q =>
    by_cases named : p = i
    · simp [named, kept]
    · simp [named]

@[simp] theorem Hub.setLink_portCores (h : Hub) (p : Nat) (f : Link → Link) : (h.setLink p f).portCores = h.portCores :=
  h.setPort_portCores p fun _ => rfl

@[simp] theorem Hub.ctl_portCores (h : Hub) (p code payload : Nat) : (h.ctl p code payload).portCores = h.portCores :=
  h.setLink_portCores p _

@[simp] theorem Hub.watermarks_portCores (h : Hub) : h.watermarks.portCores = h.portCores := by
  have levels : (h.ports.mapIdx fun p (q : Port) =>
      { q with hi := wmNext q.wm q.hi (h.portOcc p), fwdHi := p != 0 && wmNext q.wm q.fwdHi q.fwdOcc }).map Port.core = h.portCores :=
    List.ext_getElem? fun i => by
      simp only [Hub.portCores, List.getElem?_map, List.getElem?_mapIdx, Option.map_map]
      rfl
  unfold Hub.watermarks
  dsimp only
  show (forAll _ _ _).portCores = _
  refine Eq.trans (forAll_portCores _ (fun i g => ?_) _ _) levels
  split
  · rw [Hub.ctl_portCores, Hub.setLink_portCores]
  · rfl

@[simp] theorem Hub.mapCh_portCores (h : Hub) (g : Nat → Chan → Chan) : (h.mapCh g).portCores = h.portCores :=
  congrArg (List.map Port.core) (Hub.mapCh_ports ..)
@[simp] theorem Hub.setDie_portCores (h : Hub) (d : Nat) (f : Die → Die) : (h.setDie d f).portCores = h.portCores :=
  congrArg (List.map Port.core) (Hub.setDie_ports ..)
@[simp] theorem Hub.setFlow_portCores (h : Hub) (k : FlowKey) (g : Flow → Flow) : (h.setFlow k g).portCores = h.portCores :=
  congrArg (List.map Port.core) (Hub.setFlow_ports ..)
@[simp] theorem Hub.spoolTouch_portCores (h : Hub) (d : Nat) (was : Seqs) : (h.spoolTouch d was).portCores = h.portCores := by
  unfold Hub.spoolTouch
  simp only [↓Hub.portCores_mk]
  split
  · rfl
  · split
    · simp only [↓Hub.portCores_mk, ↓Hub.mapCh_portCores, ↓Hub.setDie_portCores]
    · simp only [↓Hub.setFlow_portCores, ↓Hub.mapCh_portCores, ↓Hub.portCores_mk]
      refine (iter_portCores _ (fun g => ?_) _ _).trans (h.setDie_portCores d _)
      split
      · split
        · exact g.setFlow_portCores _ _
        · rfl
      · rfl
    · simp only [↓Hub.mapCh_portCores, ↓Hub.setDie_portCores]
@[simp] theorem Hub.flowBuilt_portCores (h : Hub) (d : Nat) (was : Seqs) : (h.flowBuilt d was).portCores = h.portCores := by
  simp only [Hub.flowBuilt, ↓Hub.spoolTouch_portCores, ↓Hub.watermarks_portCores]
@[simp] theorem Hub.sclkHold_portCores (h : Hub) (n back : Nat) : (h.sclkHold n back).portCores = h.portCores := by
  simp only [Hub.sclkHold, ↓Hub.portCores_mk, ↓apply_ite Hub.portCores, ite_self, modAt]
@[simp] theorem Hub.sclkStart_portCores (h : Hub) (n t : Nat) : (h.sclkStart n t).portCores = h.portCores := by
  simp only [Hub.sclkStart, ↓Hub.portCores_mk, modAt]
@[simp] theorem Hub.setCh_portCores (h : Hub) (c : Nat) (f : Chan → Chan) : (h.setCh c f).portCores = h.portCores :=
  congrArg (List.map Port.core) (Hub.setCh_ports ..)
@[simp] theorem Hub.tick_portCores (h : Hub) : h.tick.portCores = h.portCores :=
  congrArg (List.map Port.core) (Hub.tick_ports ..)
@[simp] theorem Hub.sweepPut_portCores (h : Hub) (raw : Bool) (c : Nat) (x : SweepSample) :
    (h.sweepPut raw c x).portCores = h.portCores := by
  simp only [Hub.sweepPut, ↓Hub.setFlow_portCores]
@[simp] theorem Hub.emitSince_portCores (h : Hub) (k : FlowKey) (stream : Nat) (rcd : Bytes) (since : Nat) :
    (h.emitSince k stream rcd since).portCores = h.portCores := by
  unfold Hub.emitSince
  split <;> simp only [↓Hub.setFlow_portCores, ↓Hub.spoolTouch_portCores, ↓Hub.watermarks_portCores, ↓apply_ite Hub.portCores, ite_self]
@[simp] theorem Hub.emitRecord_portCores (h : Hub) (k : FlowKey) (stream : Nat) (rcd : Bytes) :
    (h.emitRecord k stream rcd).portCores = h.portCores := by
  simp only [Hub.emitRecord, ↓Hub.emitSince_portCores]
@[simp] theorem Hub.hkRecord_portCores (h : Hub) (t kind : Nat) (payload : Bytes) :
    (h.hkRecord t kind payload).portCores = h.portCores := by
  simp only [Hub.hkRecord, ↓Hub.emitRecord_portCores, ↓Hub.portCores_mk, ↓apply_ite Hub.portCores, ite_self]
@[simp] theorem Hub.recordAt_portCores (h : Hub) (t kind : Nat) (payload : Bytes) :
    (h.recordAt t kind payload).portCores = h.portCores := by
  simp only [Hub.recordAt, ↓Hub.hkRecord_portCores, ↓Hub.portCores_mk, ↓apply_ite Hub.portCores, ite_self]
@[simp] theorem Hub.raise_portCores (h : Hub) (bit : Nat) : (h.raise bit).portCores = h.portCores :=
  congrArg (List.map Port.core) (Hub.raise_ports ..)
@[simp] theorem Hub.logEntry_portCores (h : Hub) (t : Nat) (event : Bytes) : (h.logEntry t event).portCores = h.portCores := by
  simp only [Hub.logEntry, ↓Hub.portCores_mk, ↓apply_ite Hub.portCores, ite_self]
@[simp] theorem Hub.eventAt_portCores (h : Hub) (t : Nat) (unit : Word) (code cls count : Nat) (arg0 arg1 : Word) :
    (h.eventAt t unit code cls count arg0 arg1).portCores = h.portCores := by
  simp only [Hub.eventAt, ↓Hub.logEntry_portCores, ↓Hub.raise_portCores, ↓Hub.recordAt_portCores, ↓Hub.portCores_mk, ↓apply_ite
    Hub.portCores, ite_self]
@[simp] theorem Hub.event_portCores (h : Hub) (unit : Word) (code cls count : Nat) (arg0 arg1 : Word) :
    (h.event unit code cls count arg0 arg1).portCores = h.portCores := by
  simp only [Hub.event, ↓Hub.eventAt_portCores]
@[simp] theorem Hub.notice_portCores (h : Hub) (unit : Word) (code : Nat) (arg0 arg1 : Word) :
    (h.notice unit code arg0 arg1).portCores = h.portCores := by
  simp only [Hub.notice, ↓Hub.event_portCores]
@[simp] theorem Hub.retireChan_portCores (h : Hub) (c code count : Nat) : (h.retireChan c code count).portCores = h.portCores := by
  unfold Hub.retireChan
  dsimp only
  repeat' split
  all_goals simp only [↓Hub.event_portCores, ↓Hub.setCh_portCores, ↓Hub.setDie_portCores]
@[simp] theorem Hub.spareChan_portCores (h : Hub) (c code : Nat) (readable : Bool) :
    (h.spareChan c code readable).portCores = h.portCores := by
  unfold Hub.spareChan
  dsimp only
  repeat' split
  all_goals simp only [↓Hub.notice_portCores, ↓Hub.retireChan_portCores, ↓Hub.setCh_portCores, ↓Hub.setDie_portCores]
@[simp] theorem Hub.setEngWin_portCores (h : Hub) (d : Nat) (u : Word) (w : Option FaultWin) :
    (h.setEngWin d u w).portCores = h.portCores := by
  simp only [Hub.setEngWin, ↓Hub.setDie_portCores]
@[simp] theorem Hub.placeUse_portCores (h : Hub) (d e c : Nat) (others : List Nat) (get : Chan → Option ChurnUse) (put :
    Option ChurnUse → Chan → Chan) : (h.placeUse d e c others get put).portCores = h.portCores := by
  unfold Hub.placeUse
  split
  · rfl
  · split
    · rfl
    · split <;> exact h.setCh_portCores _ _
@[simp] theorem Hub.moveChurn_portCores (h : Hub) (d e : Nat) : (h.moveChurn d e).portCores = h.portCores := by
  rw [h.moveChurn_eq]
  refine forAll_portCores _ (fun c g => ?_) _ _
  simp only [Hub.placeUses, ↓apply_ite Hub.portCores, ↓Hub.notice_portCores, ↓Hub.placeUse_portCores, ite_self]
@[simp] theorem Hub.retireEngine_portCores (h : Hub) (d typ e : Nat) : (h.retireEngine d typ e).portCores = h.portCores := by
  simp only [Hub.retireEngine, ↓Hub.moveChurn_portCores, ↓Hub.setDie_portCores, ↓apply_ite Hub.portCores, ite_self, modAt]
@[simp] theorem Hub.engineFail_portCores (h : Hub) (d typ e code : Nat) (readable passes : Bool) :
    (h.engineFail d typ e code readable passes).portCores = h.portCores := by
  unfold Hub.engineFail
  dsimp only
  repeat' split
  all_goals simp only [↓Hub.event_portCores, ↓Hub.retireEngine_portCores, ↓Hub.setDie_portCores, ↓Hub.setEngWin_portCores,
    ↓Hub.spareChan_portCores,
    ↓Hub.portCores_mk]
@[simp] theorem Hub.churnMismatch_portCores (h : Hub) (d e : Nat) : (h.churnMismatch d e).portCores = h.portCores := by
  simp only [Hub.churnMismatch, ↓Hub.engineFail_portCores, ↓Hub.event_portCores, ↓Hub.setDie_portCores, ↓Hub.tick_portCores, ↓apply_ite
    Hub.portCores, ite_self,
    modAt]
@[simp] theorem Hub.churnCapture_portCores (h : Hub) (raw : Bool) (c next : Nat) : (h.churnCapture raw c next).portCores = h.portCores := by
  unfold Hub.churnCapture
  split <;> simp only [↓Hub.setCh_portCores, ↓Hub.portCores_mk, ↓apply_ite Hub.portCores, ite_self]
@[simp] theorem Hub.churnClose_portCores (h : Hub) (raw : Bool) (c : Nat) : (h.churnClose raw c).portCores = h.portCores := by
  unfold Hub.churnClose
  split <;> simp only [↓Hub.churnCapture_portCores, ↓Hub.churnMismatch_portCores, ↓Hub.setCh_portCores, ↓Hub.sweepPut_portCores,
    ↓Hub.tick_portCores, ↓apply_ite
    Hub.portCores, ite_self]
@[simp] theorem Hub.churnBreak_portCores (h : Hub) (raw : Bool) (c : Nat) : (h.churnBreak raw c).portCores = h.portCores := by
  simp only [Hub.churnBreak, ↓Hub.churnClose_portCores, ↓Hub.setCh_portCores]
@[simp] theorem Hub.flowBreak_portCores (h : Hub) (k : FlowKey) : (h.flowBreak k).portCores = h.portCores := by
  simp only [Hub.flowBreak, ↓Hub.churnBreak_portCores, ↓forAll_portCores, ↓apply_ite Hub.portCores, ite_self, implies_true]
@[simp] theorem Hub.allBreak_portCores (h : Hub) : h.allBreak.portCores = h.portCores := by
  simp only [Hub.allBreak, ↓Hub.flowBreak_portCores, ↓forAll_portCores, implies_true]
@[simp] theorem Hub.dropBlocks_portCores (h : Hub) (k : FlowKey) (s : Nat) : (h.dropBlocks k s).portCores = h.portCores := by
  refine forAll_portCores _ (fun c g => forAll_portCores _ (fun raw g => ?_) _ _) _ _
  split
  · rfl
  · split
    · rfl
    · simp only [↓Hub.setCh_portCores, ↓apply_ite Hub.portCores, ↓Hub.setFlow_portCores, ite_self]
@[simp] theorem Hub.setCap_portCores (h : Hub) (n : Nat) (f : Capture → Capture) : (h.setCap n f).portCores = h.portCores :=
  congrArg (List.map Port.core) (Hub.setCap_ports ..)
@[simp] theorem Hub.reserveDie_portCores (n : Nat) (eval : Bool) (d : Nat) (h : Hub) :
    (Hub.reserveDie n eval d h).portCores = h.portCores := by
  unfold Hub.reserveDie
  repeat' split
  all_goals simp only [↓Hub.notice_portCores, ↓Hub.setCap_portCores, ↓Hub.portCores_mk, ↓apply_ite Hub.portCores, ite_self]
@[simp] theorem Hub.retryWait_portCores (h : Hub) (d : Nat) : (h.retryWait d).portCores = h.portCores := by
  refine forAll_portCores _ (fun n g => ?_) _ _
  split <;> simp only [↓apply_ite Hub.portCores, ↓Hub.reserveDie_portCores, ite_self]
@[simp] theorem Hub.setCoach_portCores (h : Hub) (d seq : Nat) (f : Coach → Coach) : (h.setCoach d seq f).portCores = h.portCores := by
  simp only [Hub.setCoach, ↓Hub.setDie_portCores]
@[simp] theorem Hub.reserve_portCores (h : Hub) (n : Nat) : (h.reserve n).portCores = h.portCores := by
  unfold Hub.reserve
  split <;> simp only [↓Hub.reserveDie_portCores, ↓forAll_portCores, implies_true]
@[simp] theorem Hub.flowTouch_portCores (h : Hub) (d : Nat) : (h.flowTouch d).portCores = h.portCores := by
  simp only [Hub.flowTouch, ↓Hub.spoolTouch_portCores, ↓Hub.watermarks_portCores]
@[simp] theorem Hub.record_portCores (h : Hub) (kind : Nat) (payload : Bytes) : (h.record kind payload).portCores = h.portCores := by
  simp only [Hub.record, ↓Hub.recordAt_portCores]
@[simp] theorem Hub.coachRecord_portCores (h : Hub) (k : FlowKey) (stream first : Nat) (b : Bytes) :
    (h.coachRecord k stream first b).1.portCores = h.portCores := by
  unfold Hub.coachRecord
  split
  · rfl
  · exact h.setFlow_portCores _ _
@[simp] theorem Hub.sendCoach_portCores (h : Hub) (d : Nat) (c : Coach) : (h.sendCoach d c).portCores = h.portCores := by
  unfold Hub.sendCoach
  simp only [↓Hub.setCoach_portCores, ↓Hub.coachRecord_portCores]
  split
  · simp only [↓apply_ite Hub.portCores, ↓Hub.setDie_portCores, ↓Hub.coachRecord_portCores, ite_self]
  · rfl
@[simp] theorem Hub.sendWanted_portCores (h : Hub) (d : Nat) : (h.sendWanted d).portCores = h.portCores := by
  simp only [Hub.sendWanted, ↓Hub.flowTouch_portCores, ↓Hub.sendCoach_portCores, ↓forAll_portCores, ↓apply_ite Hub.portCores, ite_self,
    implies_true]
@[simp] theorem Hub.disarm_portCores (h : Hub) (n : Nat) : (h.disarm n).portCores = h.portCores := by
  simp only [Hub.disarm, ↓Hub.retryWait_portCores, ↓forAll_portCores, ↓Hub.portCores_mk, modAt, implies_true]
@[simp] theorem Hub.trainDone_portCores (h : Hub) (n : Nat) : (h.trainDone n).portCores = h.portCores := by
  unfold Hub.trainDone
  repeat' split
  all_goals simp only [↓Hub.disarm_portCores, ↓Hub.notice_portCores, ↓Hub.reserve_portCores, ↓Hub.sendWanted_portCores,
    ↓Hub.setCap_portCores, ↓Hub.setDie_portCores,
    ↓forAll_portCores, implies_true]
@[simp] theorem Hub.coachPayload_portCores (h : Hub) (c : Coach) : (h.coachPayload c).1.portCores = h.portCores := by
  unfold Hub.coachPayload
  split
  · rfl
  · simp only [↓iter_portCores, ↓Hub.churnMismatch_portCores, ↓Hub.portCores_mk, ↓Hub.setCh_portCores, implies_true]
@[simp] theorem Hub.coachDone_portCores (h : Hub) (d seq : Nat) : (h.coachDone d seq).portCores = h.portCores := by
  unfold Hub.coachDone
  split
  · rfl
  · next c _ =>
    have paid := h.coachPayload_portCores c
    generalize h.coachPayload c = formed at paid ⊢
    obtain ⟨g, pay, churn⟩ := formed
    simp only [↓Hub.trainDone_portCores, ↓apply_ite Hub.portCores, ↓Hub.retryWait_portCores, ↓Hub.setCap_portCores,
      ↓Hub.setCoach_portCores, ite_self]
    exact paid
@[simp] theorem Hub.cutCoach_portCores (h : Hub) (n c : Nat) : (h.cutCoach n c).portCores = h.portCores := by
  unfold Hub.cutCoach
  split <;> simp only [↓Hub.coachDone_portCores, ↓Hub.retryWait_portCores, ↓Hub.setCap_portCores, ↓Hub.setCoach_portCores,
    ↓Hub.setDie_portCores,
    ↓Hub.trainDone_portCores, ↓apply_ite Hub.portCores, ite_self]
@[simp] theorem Hub.cutFilling_portCores (h : Hub) : h.cutFilling.portCores = h.portCores := by
  refine forAll_portCores _ (fun n g => ?_) _ _
  split <;> simp only [↓Hub.setCap_portCores, ↓forAll_portCores, ↓Hub.cutCoach_portCores, implies_true]
@[simp] theorem Hub.setTm_portCores (h : Hub) (f : Tm → Tm) : (h.setTm f).portCores = h.portCores :=
  congrArg (List.map Port.core) (Hub.setTm_ports ..)
@[simp] theorem Hub.stepRecord_portCores (h : Hub) (c : Int) (remPs : Int) : (h.stepRecord c remPs).portCores = h.portCores := by
  simp only [Hub.stepRecord, ↓Hub.mapCh_portCores, ↓Hub.notice_portCores, ↓Hub.setTm_portCores]
@[simp] theorem Hub.countStep_portCores (h : Hub) (c : Int) (remPs : Int) : (h.countStep c remPs).portCores = h.portCores := by
  simp only [Hub.countStep, ↓Hub.allBreak_portCores, ↓Hub.cutFilling_portCores, ↓Hub.dropBlocks_portCores, ↓Hub.flowBuilt_portCores,
    ↓Hub.mapCh_portCores,
    ↓Hub.sclkHold_portCores, ↓Hub.sclkStart_portCores, ↓Hub.stepRecord_portCores, ↓Hub.setTm_portCores, ↓forAll_portCores,
      ↓Hub.portCores_mk, ↓apply_ite Hub.portCores,
    ite_self, implies_true]
@[simp] theorem Hub.stepTime_portCores (h : Hub) (s : Int) : (h.stepTime s).portCores = h.portCores := by
  simp only [Hub.stepTime, ↓Hub.mapCh_portCores, ↓Hub.stepRecord_portCores, ↓Hub.setTm_portCores, ↓Hub.portCores_mk, ↓apply_ite
    Hub.portCores, ite_self]
@[simp] theorem Hub.setAlign_portCores (h : Hub) (a : Align) : (h.setAlign a).portCores = h.portCores :=
  congrArg (List.map Port.core) (Hub.setAlign_ports ..)
@[simp] theorem Hub.correct_portCores (h : Hub) (e : Int) (lane : Bool) : (h.correct e lane).portCores = h.portCores := by
  simp only [Hub.correct, ↓Hub.setAlign_portCores, ↓Hub.stepTime_portCores, ↓Hub.setTm_portCores, ↓apply_ite Hub.portCores, ite_self]
@[simp] theorem Hub.loadSec_portCores (h : Hub) (loaded counted : Nat) : (h.loadSec loaded counted).portCores = h.portCores := by
  simp only [Hub.loadSec, ↓Hub.countStep_portCores]
@[simp] theorem Hub.setBase_portCores (h : Hub) (b : Base) : (h.setBase b).portCores = h.portCores :=
  congrArg (List.map Port.core) (Hub.setBase_ports ..)
@[simp] theorem Hub.tiuEdge_portCores (h : Hub) (d n : Nat) : (h.tiuEdge d n).portCores = h.portCores := by
  unfold Hub.tiuEdge
  split <;> simp only [↓Hub.setDie_portCores]
@[simp] theorem Hub.laneAway_portCores (h : Hub) (a : Align) : (h.laneAway a).portCores = h.portCores := by
  simp only [Hub.laneAway, ↓Hub.setAlign_portCores, ↓Hub.setTm_portCores, ↓apply_ite Hub.portCores, ite_self]
@[simp] theorem Hub.churnEra_portCores (h : Hub) (raw : Bool) (c b : Nat) : (h.churnEra raw c b).portCores = h.portCores := by
  unfold Hub.churnEra
  split <;> simp only [↓Hub.churnBreak_portCores, ↓apply_ite Hub.portCores, ite_self]
@[simp] theorem Hub.flowEra_portCores (h : Hub) (k : FlowKey) (b : Nat) : (h.flowEra k b).portCores = h.portCores := by
  simp only [Hub.flowEra, ↓Hub.churnEra_portCores, ↓forAll_portCores, ↓apply_ite Hub.portCores, ite_self, implies_true]
@[simp] theorem Hub.leave_portCores (raw : Bool) (c : Nat) (h : Hub) : (Hub.leave raw c h).portCores = h.portCores := by
  simp only [Hub.leave, ↓Hub.churnBreak_portCores, ↓Hub.churnCapture_portCores, ↓Hub.setCh_portCores]
@[simp] theorem Hub.sweepFlow_portCores (h : Hub) (k : FlowKey) : (h.sweepFlow k).portCores = h.portCores := by
  unfold Hub.sweepFlow
  split <;> simp only [↓Hub.dropBlocks_portCores, ↓Hub.flowBreak_portCores, ↓Hub.flowBuilt_portCores, ↓Hub.flowEra_portCores,
    ↓Hub.leave_portCores,
    ↓Hub.setFlow_portCores, ↓forAll_portCores, ↓apply_ite Hub.portCores, ite_self, implies_true]
@[simp] theorem Hub.startRelock_portCores (h : Hub) : h.startRelock.portCores = h.portCores := by
  simp only [Hub.startRelock, ↓Hub.sclkHold_portCores, ↓Hub.setAlign_portCores, ↓Hub.setTm_portCores, ↓forAll_portCores, ↓Hub.portCores_mk,
    ↓apply_ite Hub.portCores,
    ite_self, implies_true]
@[simp] theorem Hub.copyBase_portCores (h : Hub) (b : Nat) : (h.copyBase b).portCores = h.portCores := by
  unfold Hub.copyBase
  split <;> simp only [↓Hub.setBase_portCores]
@[simp] theorem Hub.takeSource_portCores (h : Hub) (s : Source) : (h.takeSource s).portCores = h.portCores := by
  unfold Hub.takeSource
  split <;> simp only [↓Hub.copyBase_portCores, ↓Hub.setAlign_portCores, ↓Hub.setBase_portCores, ↓Hub.setTm_portCores, ↓apply_ite
    Hub.portCores, ite_self]
@[simp] theorem Hub.evalSource_portCores (h : Hub) : h.evalSource.portCores = h.portCores := by
  simp only [Hub.evalSource, ↓Hub.startRelock_portCores, ↓Hub.takeSource_portCores, ↓apply_ite Hub.portCores, ite_self]
@[simp] theorem Hub.discardNotes_portCores (h : Hub) : h.discardNotes.portCores = h.portCores := by
  simp only [Hub.discardNotes, ↓Hub.notice_portCores, ↓Hub.setFlow_portCores, ↓forAll_portCores, implies_true]

end Sys2Proof.Machine
end


section
/-! PROOFS. The timing lane: Obligations.TimingLane. -/

namespace Sys2Proof.Machine

/-! ## Ports by their number -/

theorem Hub.prt_of_getElem? (h : Hub) {p : Nat} {q : Port} (there : h.ports[p]? = some q) : h.prt p = q := by
  rw [Hub.prt, List.getD_eq_getElem?_getD, there]
  rfl

theorem Hub.prt_core (h : Hub) (p : Nat) : (h.prt p).core = h.portCores.getD p Port.reset.core := by
  rw [Hub.prt, Hub.portCores, List.getD_map]

theorem Hub.prt_core_of_portCores {h k : Hub} (same : k.portCores = h.portCores) (p : Nat) : (k.prt p).core = (h.prt p).core := by
  rw [Hub.prt_core, same, ← Hub.prt_core]

theorem Hub.prt_ltUp_of_portCores {h k : Hub} (same : k.portCores = h.portCores) (p : Nat) : (k.prt p).ltUp = (h.prt p).ltUp := by
  have cores := congrArg Port.ltUp (Hub.prt_core_of_portCores same p)
  exact cores

/-- A change of a port shows in no view of the ports that it keeps. -/
theorem Hub.setPort_prt_view {α : Type} (h : Hub) (p i : Nat) {f : Port → Port} {view : Port → α} (kept : ∀ q, view (f q) = view q) :
    view ((h.setPort p f).prt i) = view (h.prt i) := by
  simp only [Hub.prt, Hub.setPort_ports, List.getD_eq_getElem?_getD, List.getElem?_modify]
  cases h.ports[i]? with
  | none => rfl
  | some q =>
    by_cases named : p = i
    · simp [named, kept]
    · simp [named]

theorem Hub.setPort_lane (h : Hub) (p i l : Nat) {f : Port → Port} (kept : ∀ q, (f q).lanes = q.lanes) :
    (h.setPort p f).lane i l = h.lane i l :=
  congrArg (fun lanes : List Lane => lanes.getD l Lane.reset) (h.setPort_prt_view p i (view := Port.lanes) kept)

theorem Hub.setPort_getElem?_same (h : Hub) {p : Nat} {q : Port} (there : h.ports[p]? = some q) (f : Port → Port) :
    (h.setPort p f).ports[p]? = some (f q) := by
  rw [Hub.setPort_ports, List.getElem?_modify, there]
  simp

theorem Hub.setPort_getElem?_other (h : Hub) {p i : Nat} (other : p ≠ i) (f : Port → Port) : (h.setPort p f).ports[i]? = h.ports[i]? := by
  rw [Hub.setPort_ports, List.getElem?_modify]
  simp [other]

theorem Hub.setPort_prt_same (h : Hub) {p : Nat} {q : Port} (there : h.ports[p]? = some q) (f : Port → Port) : (h.setPort p f).prt p = f q :=
  Hub.prt_of_getElem? _ (h.setPort_getElem?_same there f)

theorem Hub.setLane_lane_same (h : Hub) {p l : Nat} {q : Port} (there : h.ports[p]? = some q) (has : l < q.lanes.length) (f : Lane → Lane) :
    (h.setLane p l f).lane p l = f (h.lane p l) := by
  rw [Hub.lane, Hub.setLane, h.setPort_prt_same there, Hub.lane, h.prt_of_getElem? there, modAt]
  simp [has]

/-! ## TIMECOR (R110) -/

/-- The base state that a LANE hub copies (Table 04-6). -/
theorem Hub.copyBase_tm (h : Hub) (b : Nat) : (h.copyBase b).tm = { h.tm with
    base := match b with | 0 => .none | 1 => .locked | 2 => .holdover | _ => h.tm.base } := by
  unfold Hub.copyBase
  split <;> simp only [Hub.setBase_tm]

/-- A control block sent on each of several ports, each named once, is queued on each of them. -/
theorem forAll_ctl_getElem? {l : List Nat} (once : l.Nodup) (code payload : Nat) {p : Nat} (named : p ∈ l) (h : Hub) {q : Port}
    (there : h.ports[p]? = some q) : ∃ q', (forAll l (fun i g => g.ctl i code payload) h).ports[p]? = some q' ∧
      q'.link.ctl = q.link.ctl ++ [⟨code, payload⟩] := by
  have kept (l : List Nat) (not : p ∉ l) (h : Hub) : (forAll l (fun i g => g.ctl i code payload) h).ports[p]? = h.ports[p]? := by
    refine forAll_inv (fun g => g.ports[p]? = h.ports[p]?) _ l (fun i mem g same => ?_) h rfl
    exact (g.setPort_getElem?_other (ne_of_mem_of_not_mem mem not) _).trans same
  induction l generalizing h with
  | nil => exact absurd named List.not_mem_nil
  | cons i l ih =>
    obtain ⟨fresh, once⟩ := List.nodup_cons.1 once
    obtain rfl | named := List.mem_cons.1 named
    · exact ⟨_, (kept l fresh _).trans (h.setPort_getElem?_same there _), rfl⟩
    · have other : i ≠ p := fun e => fresh (e ▸ named)
      exact ih once named (h.ctl i code payload) ((h.setPort_getElem?_other other _).trans there)

theorem Hub.mem_downPorts (h : Hub) {p : Nat} {q : Port} (branch : p ≠ 0) (there : h.ports[p]? = some q) (present : p < h.nPorts)
    (up : q.st = .up) : p ∈ h.downPorts := by
  have state : (h.prt p).st = .up := by rw [h.prt_of_getElem? there, up]
  simp [Hub.downPorts, branch, present, state]

theorem Hub.downPorts_nodup (h : Hub) : h.downPorts.Nodup := List.nodup_range.filter _

/-! ## Fault events of a lane (R404, Table 15-1) -/

/-- The window of a lane with one more event. -/
def Hub.laneHit (h : Hub) (p l : Nat) : FaultWin :=
  FaultWin.hit (h.lane p l).win h.clk.elapsed (fld h.flt.lane 15 0 * 1000000000) (fld h.flt.lane 31 24) 0x0F04

theorem Hub.laneFault_kept (h : Hub) {p l : Nat} (inService : (h.lane p l).retired = false)
    (few : (h.laneHit p l).events ≤ (h.laneHit p l).allowed) :
    h.laneFault p l = h.setLane p l fun x => { x with win := some (h.laneHit p l) } :=
  (if_neg (ne_true_of_eq_false inService)).trans (if_neg (Nat.not_lt.2 few))

theorem Hub.laneFault_retired (h : Hub) {p l : Nat} (retired : (h.lane p l).retired = true) : h.laneFault p l = h := if_pos retired

/-! ## Markers (R109) -/

theorem Hub.setTm_tiuEdge (h : Hub) (f : Tm → Tm) (d n : Nat) : (h.setTm f).tiuEdge d n = (h.tiuEdge d n).setTm f := by
  have same : (h.setTm f).die d = h.die d := rfl
  unfold Hub.tiuEdge
  rw [same]
  split <;> rfl

theorem Hub.setPort_tiuEdge (h : Hub) (p : Nat) (f : Port → Port) (d n : Nat) : (h.setPort p f).tiuEdge d n = (h.tiuEdge d n).setPort p f := by
  have same : (h.setPort p f).die d = h.die d := rfl
  unfold Hub.tiuEdge
  rw [same]
  split <;> rfl

@[simp] theorem Hub.tiuEdge_tm (h : Hub) (d n : Nat) : (h.tiuEdge d n).tm = h.tm := by
  unfold Hub.tiuEdge
  split <;> rfl
@[simp] theorem Hub.tiuEdge_clk (h : Hub) (d n : Nat) : (h.tiuEdge d n).clk = h.clk := by
  unfold Hub.tiuEdge
  split <;> rfl
@[simp] theorem Hub.tiuEdge_flt (h : Hub) (d n : Nat) : (h.tiuEdge d n).flt = h.flt := by
  unfold Hub.tiuEdge
  split <;> rfl
@[simp] theorem Hub.tiuEdge_ports (h : Hub) (d n : Nat) : (h.tiuEdge d n).ports = h.ports := by
  unfold Hub.tiuEdge
  split <;> rfl
@[simp] theorem Hub.tiuEdge_chans (h : Hub) (d n : Nat) : (h.tiuEdge d n).chans = h.chans := by
  unfold Hub.tiuEdge
  split <;> rfl
@[simp] theorem Hub.tiuEdge_flows (h : Hub) (d n : Nat) : (h.tiuEdge d n).flows = h.flows := by
  unfold Hub.tiuEdge
  split <;> rfl

/-- The hub as a received marker finds it: its cycle is kept, and its edge is recorded. -/
def Hub.markSeen (h : Hub) : Hub := (h.setTm fun t => { t with ltSeen := some h.clk.cycles }).tiuEdge 0 0

theorem Hub.markSeen_tm (h : Hub) : h.markSeen.tm = { h.tm with ltSeen := some h.clk.cycles } := Hub.tiuEdge_tm ..

theorem Hub.markSeen_markDue (h : Hub) : h.markSeen.markDue = h.markDue := by
  simp only [Hub.markDue, Hub.markSeen, Hub.tiuEdge_tm, Hub.tiuEdge_clk, Hub.setTm_tm, Hub.setTm_clk]

section Markers

variable (h : Hub) {b : Nat} (fine : List Int) (based : h.tm.markBase = some b)

include based in
theorem Hub.markDue_eq_false (run : h.clk.run = true) (off : h.clk.cycles ≤ b ∨ (h.clk.cycles - b) % 125000000 ≠ 0) : h.markDue = false := by
  simp only [Hub.markDue, run, based, if_true, Bool.and_eq_false_iff, decide_eq_false_iff_not, Nat.not_lt]
  exact off

include based in
theorem Hub.markDue_eq_true (after : b < h.clk.cycles) (whole : (h.clk.cycles - b) % 125000000 = 0) : h.markDue = true := by
  cases run : h.clk.run <;> simp [Hub.markDue, run, based, after, whole]

theorem Hub.marker_ignored (ignored : h.markDue = false) :
    h.marker fine = h.markSeen.setTm fun t => { t with glitch := satInc 16 t.glitch } :=
  if_pos (by rw [← Hub.markSeen, Hub.markSeen_markDue, ignored]; rfl)

/-- The hub once a marker has been taken, before what it corrects. -/
def Hub.markTaken (h : Hub) : Hub :=
  let g := h.markSeen
  let g := g.setTm fun t => { t with
    markBase := some g.clk.cycles, missed := 0, markLost := false,
    ltFrom := if (g.prt 0).ltUp then g.tm.ltFrom else some g.clk.elapsed }
  let g := g.setPort 0 fun p => { p with ltUp := true }
  g.setTm fun t => { t with corStep := none, corStepAt := none }

theorem Hub.marker_other (due : h.markDue = true) (other : h.tm.src ≠ .lane) :
    h.marker fine = h.markTaken.setTm fun t => { t with corSec := none } := by
  have takes : ¬(!h.markSeen.markDue) = true := by simp [Hub.markSeen_markDue, due]
  refine (if_neg takes).trans (if_pos ?_)
  rw [← Hub.markSeen, Hub.markSeen_tm]
  exact other

/-- On a LANE hub a marker that is taken corrects array time, and loads the second that part A announced. -/
theorem Hub.marker_lane (due : h.markDue = true) (lane : h.tm.src = .lane) :
    (h.marker fine).tm.watched = h.markTaken.tm.watched ∧ (h.marker fine).portCores = h.markTaken.portCores := by
  unfold Hub.marker
  extract_lets seen mean t based up step taken arrival n corrected
  have takes : ¬(!seen.markDue) = true := by
    have same : seen.markDue = h.markDue := h.markSeen_markDue
    simp [same, due]
  have onLane : ¬t.src ≠ .lane := by
    have same : t = h.markSeen.tm := rfl
    rw [same, Hub.markSeen_tm]
    exact not_not.2 lane
  have kept : corrected.tm.watched = taken.tm.watched ∧ corrected.portCores = taken.portCores := by
    unfold corrected
    clear_value step
    cases step with
    | some c => exact ⟨Hub.countStep_watched _ _ _, Hub.countStep_portCores _ _ _⟩
    | none =>
      dsimp only
      split
      · exact ⟨Hub.correct_watched _ _ _, Hub.correct_portCores _ _ _⟩
      · exact ⟨rfl, rfl⟩
  simp only [if_neg takes, if_neg onLane]
  clear_value corrected
  split
  · split
    · exact kept
    · exact ⟨(Hub.loadSec_watched _ _ _).trans kept.1, (Hub.loadSec_portCores _ _ _).trans kept.2⟩
  · exact kept

end Markers

theorem Hub.markTaken_ltUp (h : Hub) {q : Port} (there : h.ports[0]? = some q) : (h.markTaken.prt 0).ltUp = true := by
  have seen : h.markSeen.ports[0]? = some q := by rw [Hub.markSeen, Hub.tiuEdge_ports, Hub.setTm_ports, there]
  exact congrArg Port.ltUp (h.markSeen.setPort_prt_same seen _)

theorem Hub.lane_of_ports {h k : Hub} (same : k.ports = h.ports) (p l : Nat) : k.lane p l = h.lane p l := by
  rw [Hub.lane, Hub.prt, same]
  rfl

theorem Hub.markSeen_prt (h : Hub) (p : Nat) : h.markSeen.prt p = h.prt p := by
  rw [Hub.prt, Hub.markSeen, Hub.tiuEdge_ports]
  rfl

theorem Hub.markTaken_tm (h : Hub) {q : Port} (there : h.ports[0]? = some q) : h.markTaken.tm = { h.tm with
    ltSeen := some h.clk.cycles
    markBase := some h.clk.cycles
    missed := 0
    markLost := false
    corStep := none
    corStepAt := none
    ltFrom := if q.ltUp then h.tm.ltFrom else some h.clk.elapsed } := by
  have clk : h.markSeen.clk = h.clk := Hub.tiuEdge_clk ..
  simp only [Hub.markTaken, Hub.setTm_tm, Hub.setPort_tm, h.markSeen_tm, clk, h.markSeen_prt, h.prt_of_getElem? there]

theorem Hub.markTaken_chans (h : Hub) : h.markTaken.chans = h.chans := Hub.tiuEdge_chans ..
theorem Hub.markTaken_flows (h : Hub) : h.markTaken.flows = h.flows := Hub.tiuEdge_flows ..

/-- A retired LT takes no marker (R411). -/
theorem Hub.ltMarker_retired (h : Hub) (fine : List Int) (retired : (h.lane 0 3).retired = true) : h.ltMarker fine = h := if_pos retired

section Service

variable (h : Hub) (fine : List Int) (inService : (h.lane 0 3).retired = false)
include inService

theorem Hub.ltMarker_due (due : h.markDue = true) :
    h.ltMarker fine = (h.marker fine).setLane 0 3 fun l => if (h.prt 0).ltUp then l else l.mended :=
  (if_neg (ne_true_of_eq_false inService)).trans (if_pos due)

theorem Hub.ltMarker_due_ltUp (due : h.markDue = true) : ((h.ltMarker fine).prt 0).ltUp = ((h.marker fine).prt 0).ltUp := by
  rw [h.ltMarker_due fine inService due]
  exact Hub.setPort_prt_view (h.marker fine) 0 0 (view := Port.ltUp) fun _ => rfl

/-- The markers of the last second that were glitches, with this one. -/
def Hub.ltRecent (h : Hub) : List Nat :=
  h.clk.elapsed :: (h.prt 0).ltGlitch.filter fun t => decide (h.clk.elapsed < t + 1000000000)

variable (ignored : h.markDue = false)
include ignored

theorem Hub.ltMarker_few (few : h.ltRecent.length ≤ 16) :
    h.ltMarker fine = (h.marker fine).setPort 0 fun q => { q with ltGlitch := h.ltRecent } := by
  refine ((if_neg (ne_true_of_eq_false inService)).trans (if_neg (ne_true_of_eq_false ignored))).trans
    ((if_neg (Nat.not_lt.2 few)).trans ?_)
  unfold Hub.ltRecent at few ⊢
  rw [if_neg (Nat.not_lt.2 few)]

theorem Hub.ltMarker_many (many : 16 < h.ltRecent.length) :
    h.ltMarker fine = ((h.marker fine).setPort 0 fun q => { q with ltGlitch := [] }).laneFault 0 3 := by
  refine ((if_neg (ne_true_of_eq_false inService)).trans (if_neg (ne_true_of_eq_false ignored))).trans
    ((if_pos many).trans ?_)
  unfold Hub.ltRecent at many
  rw [if_pos many]

end Service

/-! ## Loss of the markers and of the clock -/

theorem Hub.markLost_now (h : Hub) {b : Nat} (based : h.tm.markBase = some b) (late : b + 250000000 < h.clk.cycles)
    (known : h.tm.markLost = false) :
    h.markLost = h.setTm fun t => { t with missed := 2, markLost := true, markLostAt := h.clk.elapsed } := by
  rw [Hub.markLost, based]
  exact if_neg (not_or.2 ⟨Nat.not_le.2 late, ne_true_of_eq_false known⟩)

theorem Hub.laneAway_lane (h : Hub) (a : Align) (lane : h.tm.src = .lane) : (h.laneAway a).tm =
    Tm.setAlign { h.tm with markBase := none, laneAt := none, corSec := none, corStep := none, corStepAt := none, delayOk := false,
                            holdAt := if a = .holdover then h.clk.elapsed else h.tm.holdAt } a := by
  unfold Hub.laneAway
  extract_lets left
  have onLane : left.tm.src = .lane := lane
  rw [if_pos onLane, Hub.setAlign_tm]
  rfl

@[simp] theorem Hub.laneAway_ports (h : Hub) (a : Align) : (h.laneAway a).ports = h.ports := by
  unfold Hub.laneAway
  dsimp only
  rw [apply_ite Hub.ports, Hub.setAlign_ports, ite_self, Hub.setTm_ports]

/-- The loss of the received clock: DEGRADED where L0 still gives one, else HOLDOVER. -/
theorem Hub.clockLoss_lane (h : Hub) (lane : h.tm.src = .lane) :
    (h.clockLoss.tm.align = if (h.lane 0 0).lock = .locked then .degraded else .holdover) ∧
    ((h.lane 0 0).lock ≠ .locked → h.clockLoss.tm.holdAt = h.clk.elapsed) := by
  have onLane : ((h.setPort 0 fun p => { p with ltUp := false }).setTm fun t => { t with ltFrom := none, ltSeen := none }).tm.src = .lane := lane
  unfold Hub.clockLoss
  rw [Hub.laneAway_lane _ _ onLane]
  refine ⟨?_, fun unlocked => ?_⟩
  · simp
  · have hold : (if ((h.lane 0 0).lock == .locked) = true then Align.degraded else .holdover) = .holdover := by simp [unlocked]
    rw [hold]
    rfl

theorem Hub.clockLoss_now (h : Hub) : h.clockLoss.tm.now = h.tm.now := by simp [Hub.clockLoss]

theorem Hub.clockLoss_ports (h : Hub) : h.clockLoss.ports = h.ports.modify 0 fun p => { p with ltUp := false } := by
  simp [Hub.clockLoss]

theorem Hub.clockLoss_lanes (h : Hub) (p l : Nat) : h.clockLoss.lane p l = h.lane p l := by
  have same : h.clockLoss.lane p l = (h.setPort 0 fun p => { p with ltUp := false }).lane p l := by
    rw [Hub.lane, Hub.prt, h.clockLoss_ports]
    rfl
  rw [same]
  exact h.setPort_lane 0 p l fun _ => rfl

/-- The loss of the pattern is the loss of its clock, and beside that a fault event of the lane that shows in its window alone. -/
theorem Hub.ltLost_eq (h : Hub) (kept : (h.prt 0).ltUp = false ∨ (h.lane 0 3).retired = true ∨
    (h.laneHit 0 3).events ≤ (h.laneHit 0 3).allowed) :
    ∃ f : Lane → Lane, h.ltLost = h.clockLoss.setLane 0 3 f ∨ h.ltLost = h.clockLoss := by
  refine ⟨fun x => { x with win := some (h.clockLoss.laneHit 0 3) }, ?_⟩
  have hit : h.clockLoss.laneHit 0 3 = h.laneHit 0 3 := by
    rw [Hub.laneHit, h.clockLoss_lanes, Hub.clockLoss_clk, Hub.clockLoss_flt, ← Hub.laneHit]
  cases up : (h.prt 0).ltUp with
  | false => exact .inr (if_neg (ne_true_of_eq_false up))
  | true =>
    have faulted : h.ltLost = h.clockLoss.laneFault 0 3 := if_pos up
    cases retired : (h.lane 0 3).retired with
    | true => exact .inr (faulted.trans (Hub.laneFault_retired _ (by rw [h.clockLoss_lanes, retired])))
    | false =>
      simp only [up, retired, Bool.true_eq_false, Bool.false_eq_true, false_or] at kept
      exact .inl (faulted.trans (Hub.laneFault_kept _ (by rw [h.clockLoss_lanes, retired]) (by rw [hit]; exact kept)))

theorem Hub.ltLost_view (h : Hub) (kept : (h.prt 0).ltUp = false ∨ (h.lane 0 3).retired = true ∨
    (h.laneHit 0 3).events ≤ (h.laneHit 0 3).allowed) : h.ltLost.tm = h.clockLoss.tm ∧ (h.ltLost.prt 0).ltUp = (h.clockLoss.prt 0).ltUp := by
  obtain ⟨f, faulted | plain⟩ := h.ltLost_eq kept
  · rw [faulted]
    exact ⟨rfl, Hub.setPort_prt_view _ 0 0 (view := Port.ltUp) fun _ => rfl⟩
  · rw [plain]
    exact ⟨rfl, rfl⟩

end Sys2Proof.Machine

open Sys2Proof Sys2Proof.Machine

/-- Settles O6, command by command (R109, R110, R404). That the count of glitches begins anew with the fault event that it makes, and that
this event has LT's code 0x0F04, is the model's choice (log entry 149). -/
theorem timingLane : Obligations.TimingLane := by
  refine ⟨?timecor, ?markers⟩
  case timecor =>
    intro s heard
    refine ⟨rfl, fun a sec => rfl, fun b d e other => next_congr (if_neg other), fun b d e lane => ⟨_, next_congr (if_pos lane), ?base⟩,
      fun c other => next_congr (if_neg other), fun c lane => ⟨_, next_congr (if_pos lane), ?kept, fun p q branch there present up => ?sent⟩,
      fun p low high => next_congr (if_pos ⟨low, high⟩)⟩
    case base => exact Hub.copyBase_tm _ _
    case kept => exact forAll_tm _ (fun p g => Hub.ctl_tm _ _ _ _) _ _
    case sent =>
      have named := s.hub.mem_downPorts branch there present up
      exact forAll_ctl_getElem? s.hub.downPorts_nodup _ _ named (s.hub.setTm _) there
  case markers =>
    intro s b fine q recent win there
    have port : s.hub.prt 0 = q := s.hub.prt_of_getElem? there
    have recents : s.hub.ltRecent = recent := by rw [Hub.ltRecent, port]
    refine ⟨fun inService run based off few => next_congr ?few, fun inService run based off many kept => ?many,
      fun inService lane based after whole => ?lane, fun inService other based after whole => ?other,
      fun retired => next_same (s.hub.ltMarker_retired fine retired), fun based late known => next_congr (s.hub.markLost_now based late known),
      fun away => next_same ?away, fun lost late lane up notHold => ?degraded, fun lane kept => ?clock⟩
    case few =>
      have ignored := s.hub.markDue_eq_false based run off
      show s.hub.ltMarker fine = _
      rw [s.hub.ltMarker_few fine inService ignored (recents ▸ few), s.hub.marker_ignored fine ignored, Hub.markSeen, ← Hub.setTm_tiuEdge,
        ← Hub.setPort_tiuEdge, recents]
      rfl
    case many =>
      have ignored := s.hub.markDue_eq_false based run off
      have marked := s.hub.marker_ignored fine ignored
      have ports : (s.hub.marker fine).ports = s.hub.ports := by
        rw [marked]
        exact Hub.tiuEdge_ports ..
      have faulted := s.hub.ltMarker_many fine inService ignored (recents ▸ many)
      obtain ⟨g, emptied⟩ : ∃ g, g = (s.hub.marker fine).setPort 0 fun q => { q with ltGlitch := [] } := ⟨_, rfl⟩
      rw [← emptied] at faulted
      have here : g.ports[0]? = some { q with ltGlitch := [] } := by
        rw [emptied]
        exact Hub.setPort_getElem?_same _ (by rw [ports, there]) _
      have lane : g.lane 0 3 = s.hub.lane 0 3 := by
        rw [emptied]
        exact (Hub.setPort_lane _ 0 0 3 (by intro; rfl)).trans (Hub.lane_of_ports ports 0 3)
      have tm : g.tm = { s.hub.tm with ltSeen := some s.hub.clk.cycles, glitch := satInc 16 s.hub.tm.glitch } := by
        rw [emptied, marked, Hub.setPort_tm, Hub.setTm_tm, Hub.markSeen_tm]
      have hit : g.laneHit 0 3 = win := by
        have clk : g.clk = s.hub.clk := by rw [emptied, marked]; exact Hub.tiuEdge_clk ..
        have flt : g.flt = s.hub.flt := by rw [emptied, marked]; exact Hub.tiuEdge_flt ..
        rw [Hub.laneHit, lane, clk, flt]
      rw [g.laneFault_kept (by rw [lane, inService]) (by rw [hit]; exact kept), hit] at faulted
      refine ⟨_, next_congr faulted, ?_, fun has => ?_, tm⟩
      · exact (Hub.setPort_prt_view g 0 0 (view := Port.ltGlitch) (by intro; rfl)).trans (congrArg Port.ltGlitch (g.prt_of_getElem? here))
      · exact congrArg Lane.win (g.setLane_lane_same here has _)
    case lane =>
      have due := s.hub.markDue_eq_true based after whole
      obtain ⟨watched, cores⟩ := s.hub.marker_lane fine due lane
      refine ⟨_, rfl, ?up, ?_⟩
      case up =>
        exact (s.hub.ltMarker_due_ltUp fine inService due).trans ((Hub.prt_ltUp_of_portCores cores 0).trans (s.hub.markTaken_ltUp there))
      rw [s.hub.markTaken_tm there] at watched
      simp only [Tm.watched, Prod.mk.injEq] at watched
      obtain ⟨-, -, missed, lost⟩ := watched
      have marks : (s.hub.ltMarker fine).tm = (s.hub.marker fine).tm := by
        rw [s.hub.ltMarker_due fine inService due]
        rfl
      exact ⟨by rw [marks]; exact missed, by rw [marks]; exact lost⟩
    case other =>
      have due := s.hub.markDue_eq_true based after whole
      have made := s.hub.ltMarker_due fine inService due
      rw [s.hub.marker_other fine due other] at made
      refine ⟨_, next_congr made, ?_, ?_, s.hub.markTaken_chans, s.hub.markTaken_flows⟩
      · exact (Hub.setPort_prt_view _ 0 0 (view := Port.ltUp) (by intro; rfl)).trans (s.hub.markTaken_ltUp there)
      · refine Eq.trans (b := { s.hub.markTaken.tm with corSec := none }) rfl ?_
        rw [s.hub.markTaken_tm there]
    case away =>
      refine if_pos ?_
      rw [port]
      obtain silent | holdover := away
      · exact .inr (.inl (by rw [silent]; rfl))
      · exact .inr (.inr (.inl holdover))
    case degraded =>
      have away : s.hub.markLostTimeout = s.hub.laneAway .degraded := by
        refine if_neg ?_
        rw [port, lost, up]
        rintro (known | silent | holdover | early)
        · exact Bool.noConfusion known
        · exact Bool.noConfusion silent
        · exact notHold holdover
        · exact absurd late (Nat.not_le.2 early)
      refine ⟨_, next_congr away, ?_⟩
      dsimp only
      rw [s.hub.laneAway_lane .degraded lane]
      exact ⟨rfl, rfl, rfl⟩
    case clock =>
      obtain ⟨tm, ltUp⟩ := s.hub.ltLost_view (by rw [port]; exact kept)
      obtain ⟨align, hold⟩ := s.hub.clockLoss_lane lane
      have silent : (s.hub.ltLost.prt 0).ltUp = false := by
        rw [ltUp, Hub.prt_of_getElem? _ (q := { q with ltUp := false }) (by rw [s.hub.clockLoss_ports, List.getElem?_modify, there]; rfl)]
      have now : s.hub.ltLost.tm.now = s.hub.tm.now := by rw [tm, s.hub.clockLoss_now]
      refine ⟨fun unlocked => ⟨_, rfl, ?_, ?_, silent, now⟩, fun locked => ⟨_, rfl, ?_, silent, now⟩⟩
      · rw [tm, align, if_neg unlocked]
      · rw [tm, hold unlocked]
      · rw [tm, align, if_pos locked]

end

section
/-! PROOFS. The clocks during a relock, and slewing: Obligations.ClocksAndSlewing. -/

namespace Sys2Proof.Machine

/-! ## Relock (R102, R464, R465) -/

/-- The clocks without the outputs. -/
def Clk.core (c : Clk) : Clk := { c with outs := [] }

/-- What holding and starting the clock outputs leave. -/
def Hub.unclocked (h : Hub) : Hub := { h with clk := h.clk.core }

theorem Hub.sclkHold_unclocked (h : Hub) (n back : Nat) : (h.sclkHold n back).unclocked = h.unclocked := by
  unfold Hub.sclkHold
  dsimp only
  split <;> rfl

theorem Hub.sclkHolds_unclocked (h : Hub) (l : List Nat) : (forAll l (fun n h => h.sclkHold n 0) h).unclocked = h.unclocked :=
  forAll_keeps Hub.unclocked _ (fun n g => g.sclkHold_unclocked n 0) l h

/-- A hub with the outputs of its clocks held, as a relock begins. -/
def Hub.held (h : Hub) : Hub :=
  let g := forAll (List.range 4) (fun n h => h.sclkHold n 0) h
  { g with clk := { g.clk with valid := false, relockAt := some g.clk.elapsed, retryAt := none } }

/-- A relock stops the clocks; a hub on REFCLK that was aligned goes to HOLDOVER. -/
theorem Hub.startRelock_eq (h : Hub) : h.startRelock =
    if h.held.tm.src ≠ .lane ∧ (h.held.tm.align = .locked ∨ h.held.tm.align = .slewing) then
      (h.held.setTm fun t => { t with holdAt := h.held.clk.elapsed }).setAlign .holdover
    else h.held := rfl

theorem Hub.held_unclocked (h : Hub) : h.held.unclocked =
    { h with clk := { h.clk.core with valid := false, relockAt := some h.clk.elapsed, retryAt := none } } := by
  have outs := h.sclkHolds_unclocked (List.range 4)
  have made (g : Hub) (same : g.unclocked = h.unclocked) :
      ({ g with clk := { g.clk with valid := false, relockAt := some g.clk.elapsed, retryAt := none } } : Hub).unclocked =
      { h with clk := { h.clk.core with valid := false, relockAt := some h.clk.elapsed, retryAt := none } } := by
    have redone := congrArg (fun k : Hub => { k with clk := { k.clk with valid := false, relockAt := some k.clk.elapsed, retryAt := none } }) same
    exact redone
  exact made _ outs

theorem Hub.held_tm (h : Hub) : h.held.tm = h.tm := by
  have same := congrArg Hub.tm h.held_unclocked
  exact same
theorem Hub.held_chans (h : Hub) : h.held.chans = h.chans := by
  have same := congrArg Hub.chans h.held_unclocked
  exact same
theorem Hub.held_clk (h : Hub) : h.held.clk.core = { h.clk.core with valid := false, relockAt := some h.clk.elapsed, retryAt := none } :=
  congrArg Hub.clk h.held_unclocked

theorem Hub.startRelock_clk (h : Hub) : h.startRelock.clk = h.held.clk := by
  rw [h.startRelock_eq, apply_ite Hub.clk, Hub.setAlign_clk, Hub.setTm_clk, ite_self]
theorem Hub.startRelock_chans (h : Hub) : h.startRelock.chans = h.chans := by
  rw [h.startRelock_eq, apply_ite Hub.chans, Hub.setAlign_chans, Hub.setTm_chans, ite_self, h.held_chans]
theorem Hub.startRelock_now (h : Hub) : h.startRelock.tm.now = h.tm.now := by
  rw [h.startRelock_eq, apply_ite Hub.tm, Hub.setAlign_tm, apply_ite Tm.now, Tm.setAlign_now, Hub.setTm_tm, ite_self, h.held_tm]
theorem Hub.startRelock_holdover (h : Hub) (other : h.tm.src ≠ .lane) (aligned : h.tm.align = .locked ∨ h.tm.align = .slewing) :
    h.startRelock.tm.align = .holdover := by
  rw [h.startRelock_eq, h.held_tm, if_pos ⟨other, aligned⟩, Hub.setAlign_tm]
  rfl
theorem Hub.startRelock_lane (h : Hub) (lane : h.tm.src = .lane) : h.startRelock.tm = h.tm := by
  rw [h.startRelock_eq, h.held_tm, if_neg (fun away => away.1 lane), h.held_tm]

theorem Hub.relock_refclk (h : Hub) (run : h.clk.run = true) (refclk : h.clk.refclk = true) : h.relock = h.startRelock := by
  refine (if_neg (by rw [run]; decide)).trans ?_
  simp only [refclk, Bool.not_true, Bool.false_and, Bool.false_eq_true, if_false]

theorem sclkStarts_now (l : List Nat) (h : Hub) :
    forAll l (fun n g => g.sclkStart n g.tm.now) h = forAll l (fun n g => g.sclkStart n h.tm.now) h := by
  have same (l : List Nat) (t : Nat) (g : Hub) (now : g.tm.now = t) :
      forAll l (fun n g => g.sclkStart n g.tm.now) g = forAll l (fun n g => g.sclkStart n t) g := by
    induction l generalizing g with
    | nil => rfl
    | cons n l ih =>
      subst now
      exact ih (g.sclkStart n g.tm.now) rfl
  exact same l h.tm.now h rfl

/-- Lock on a clock that is there ends a relock, with a record. -/
theorem Hub.sclkValid_locked (h : Hub) {t : Nat} (run : h.clk.run = true) (relock : h.clk.relockAt = some t)
    (due : t + 64000 ≤ h.clk.elapsed) (source : h.pllSource = true) :
    let g := forAll (List.range 4) (fun n (g : Hub) => g.sclkStart n h.tm.now) h
    h.sclkValid = ({ g with clk := { g.clk with valid := true, relockAt := none, retryAt := none } }).notice unitHub 0x0A06 0
      (argN ((h.clk.elapsed - t) / 1000)) := by
  have late : ¬(h.clk.elapsed < t + 64000 ∨ (!h.pllSource) = true) := by
    rw [source]
    simpa using due
  intro g
  unfold Hub.sclkValid
  rw [if_neg (by rw [run]; decide), relock]
  refine (if_neg late).trans ?_
  dsimp only
  rw [sclkStarts_now]

theorem Hub.sclkValid_waits (h : Hub) {t : Nat} (run : h.clk.run = true) (relock : h.clk.relockAt = some t)
    (waits : h.clk.elapsed < t + 64000 ∨ h.pllSource = false) : h.sclkValid = h := by
  unfold Hub.sclkValid
  rw [if_neg (by rw [run]; decide), relock]
  exact if_pos (by simpa using waits)

theorem Hub.relockTimeout_late (h : Hub) {t : Nat} (relock : h.clk.relockAt = some t) (late : t + 10000000 ≤ h.clk.elapsed) :
    h.relockTimeout = ({ h with clk := { h.clk with relockAt := none, retryAt := some (h.clk.elapsed + 1000000000) } }).notice unitHub 0x0A06 1
      (argN ((h.clk.elapsed - t) / 1000)) := by
  rw [Hub.relockTimeout, relock]
  exact if_neg (Nat.not_lt.2 late)

theorem Hub.relockRetry_due (h : Hub) {t : Nat} (retry : h.clk.retryAt = some t) (due : t ≤ h.clk.elapsed) :
    h.relockRetry = { h with clk := { h.clk with relockAt := some h.clk.elapsed, retryAt := none } } := by
  rw [Hub.relockRetry, retry]
  exact if_neg (Nat.not_lt.2 due)

theorem Hub.refclkLoss_away (h : Hub) (run : h.clk.run = true) (other : h.tm.src ≠ .lane) : h.refclkLoss =
    (({ h with clk := { h.clk with refclk := false } } : Hub).setTm fun t => { t with holdAt := h.clk.elapsed }).setAlign .holdover := by
  refine if_neg ?_
  rw [run]
  simpa using other

/-! ## Slewing (R113) -/

/-- A time whose step of 25 ps may be taken: the interval since the last one is over. -/
def Hub.slewReady (h : Hub) : Bool :=
  match h.tm.slewAt with
  | none => true
  | some t => decide (25 * 1000000000 ≤ (h.clk.elapsed - t) * fld h.tm.cfg 15 6)

/-- Nothing is corrected by a step (R106, R113, Table 04-5). -/
def Hub.phaseHeld (h : Hub) : Prop :=
  h.slewReady = false ∨ 5 * h.tm.e.natAbs < 128 ∨ (h.tm.src = .pps ∧ h.tm.incoherent = true) ∨ ¬(h.tm.align = .locked ∨ h.tm.align = .slewing)

theorem Hub.slew_held (h : Hub) (held : h.phaseHeld) : h.slew = h := by
  refine if_pos ?_
  obtain unready | rest := held
  · exact .inl (congrArg (!·) unready)
  · exact .inr rest

/-- Array time in fifths of a unit after a step of 25 ps, which is 128 of them, against the error. -/
def Tm.stepped25 (t : Tm) : Int := (t.fifth : Int) + (if 0 < t.e then -128 else 128)

/-- A step of 25 ps is kept with its time; what follows it changes no more than the alignment. -/
theorem Hub.slew_steps (h : Hub) (free : ¬h.phaseHeld) : h.slew.tm.slewAt = some h.clk.elapsed ∧
    h.slew.tm.now = moved h.tm.now (h.tm.stepped25 / 5) ∧ h.slew.tm.fifth = (h.tm.stepped25 % 5).toNat := by
  have goes : ¬((!h.slewReady) = true ∨ 5 * h.tm.e.natAbs < 128 ∨ (h.tm.src = .pps ∧ h.tm.incoherent = true) ∨
      ¬(h.tm.align = .locked ∨ h.tm.align = .slewing)) := by
    simpa [Hub.phaseHeld] using free
  unfold Hub.slew
  extract_lets rate ready e f q e' phased
  rw [if_neg (show ¬((!ready) = true ∨ _) from goes)]
  have step : phased.tm.slewAt = some h.clk.elapsed ∧ phased.tm.now = moved h.tm.now (h.tm.stepped25 / 5) ∧
      phased.tm.fifth = (h.tm.stepped25 % 5).toNat := ⟨rfl, rfl, rfl⟩
  clear_value phased
  split_ifs
  · rw [Hub.setAlign_tm]
    exact step
  · exact step

/-- The fifths of a unit are carried: whole units move array time, the rest is kept. -/
theorem Tm.stepped25_carried (t : Tm) (early : 26 ≤ t.now) (rest : t.fifth < 5) :
    5 * (moved t.now (t.stepped25 / 5) : Int) + (t.stepped25 % 5).toNat = 5 * (t.now : Int) + t.fifth + (if 0 < t.e then -128 else 128) := by
  unfold moved Tm.stepped25
  split <;> omega

end Sys2Proof.Machine

open Sys2Proof Sys2Proof.Machine

/-- Settles O7, case by case of each event (R101, R102, R113, R464, R465). That the relock or the loss of REFCLK takes a hub on REFCLK to
HOLDOVER is the model's reading (log entry 25, beside 23 and 186). -/
theorem clocksAndSlewing : Obligations.ClocksAndSlewing := by
  refine ⟨fun s t0 => ⟨fun run refclk => ?relock, fun run relock due source => next_congr (s.hub.sclkValid_locked run relock due source),
    fun run relock waits => next_same (s.hub.sclkValid_waits run relock waits),
    fun relock late => next_congr (s.hub.relockTimeout_late relock late), fun retry due => next_congr (s.hub.relockRetry_due retry due),
    fun run other => ?away, fun run lane => next_congr (if_pos (.inr lane))⟩,
    fun s => ⟨fun small => ?held1, fun pps incoherent => ?held2, fun unlocked notSlewing => ?held3, fun t0 last early => ?held4,
      fun t0 last due large early rest coherent aligned => ?steps⟩⟩
  case relock =>
    have clk := s.hub.held_clk
    rw [← s.hub.startRelock_clk] at clk
    simp only [Clk.core, Clk.mk.injEq] at clk
    obtain ⟨-, -, refclkKept, -, valid, relockAt, retryAt, -, -⟩ := clk
    exact ⟨_, next_congr (s.hub.relock_refclk run refclk), valid, relockAt, retryAt, refclkKept.trans refclk, s.hub.startRelock_chans,
      s.hub.startRelock_now, s.hub.startRelock_holdover, s.hub.startRelock_lane⟩
  case away =>
    refine ⟨_, next_congr (s.hub.refclkLoss_away run other), ?_⟩
    dsimp only
    rw [Hub.setAlign_clk, Hub.setAlign_tm]
    exact ⟨rfl, rfl, rfl, rfl⟩
  case held1 => exact next_same (s.hub.slew_held (.inr (.inl small)))
  case held2 => exact next_same (s.hub.slew_held (.inr (.inr (.inl ⟨pps, incoherent⟩))))
  case held3 => exact next_same (s.hub.slew_held (.inr (.inr (.inr (not_or.2 ⟨unlocked, notSlewing⟩)))))
  case held4 =>
    refine next_same (s.hub.slew_held (.inl ?_))
    simp only [Hub.slewReady, last]
    exact decide_eq_false (Nat.not_le.2 early)
  case steps =>
    have ready : s.hub.slewReady = true := by simp [Hub.slewReady, last, due]
    have free : ¬s.hub.phaseHeld := by
      rintro (unready | small | incoherent | unaligned)
      · exact absurd ready (ne_true_of_eq_false unready)
      · omega
      · exact coherent incoherent
      · exact unaligned aligned
    obtain ⟨slewAt, now, fifth⟩ := s.hub.slew_steps free
    refine ⟨_, rfl, slewAt, ?_⟩
    show 5 * (s.hub.slew.tm.now : Int) + s.hub.slew.tm.fifth = _
    rw [now, fifth]
    exact s.hub.tm.stepped25_carried early rest

end

section
/-! PROOFS. The array second, the delay of a port and the time-interval edges: Obligations.SecondsDelaysAndEdges. -/

namespace Sys2Proof.Machine

/-! ## The array second (R98, R100, R130) -/

/-- What the choice of the source leaves: array time, its second, the settings and an armed load. -/
def Tm.calendar (t : Tm) : Nat × Nat × Word × Option Word × Bool := (t.now, t.second, t.cfg, t.cfgNext, t.armed)

theorem Hub.setAlign_calendar (h : Hub) (a : Align) : (h.setAlign a).tm.calendar = h.tm.calendar := by rw [Hub.setAlign_tm]; rfl
theorem Hub.setBase_calendar (h : Hub) (b : Base) : (h.setBase b).tm.calendar = h.tm.calendar := by rw [Hub.setBase_tm]; rfl

theorem Hub.takeSource_calendar (h : Hub) (s : Source) : (h.takeSource s).tm.calendar = h.tm.calendar := by
  unfold Hub.takeSource
  extract_lets taken based
  have kept : based.tm.calendar = h.tm.calendar := by
    cases s with
    | free => exact Hub.setBase_calendar _ _
    | pps => exact Hub.setBase_calendar _ _
    | none => rfl
    | lane =>
      unfold based
      dsimp only
      rw [Hub.copyBase_tm]
      rfl
  clear_value based
  split_ifs
  · exact (Hub.setAlign_calendar ..).trans kept
  · exact kept
  · exact (Hub.setAlign_calendar ..).trans kept

theorem Hub.startRelock_calendar (h : Hub) : h.startRelock.tm.calendar = h.tm.calendar := by
  rw [h.startRelock_eq]
  split
  · rw [Hub.setAlign_calendar, Hub.setTm_tm, h.held_tm]
    rfl
  · rw [h.held_tm]

theorem Hub.evalSource_calendar (h : Hub) : h.evalSource.tm.calendar = h.tm.calendar := by
  unfold Hub.evalSource
  dsimp only
  split_ifs
  · exact h.takeSource_calendar _
  · rfl
  · exact (Hub.startRelock_calendar _).trans (h.takeSource_calendar _)
  · exact h.takeSource_calendar _

@[simp] theorem Hub.churnEra_tm (h : Hub) (raw : Bool) (c b : Nat) : (h.churnEra raw c b).tm = h.tm := by
  unfold Hub.churnEra
  split <;> simp only [↓Hub.churnBreak_tm, ↓apply_ite Hub.tm, ite_self]
@[simp] theorem Hub.flowEra_tm (h : Hub) (k : FlowKey) (b : Nat) : (h.flowEra k b).tm = h.tm := by
  simp only [Hub.flowEra, ↓Hub.churnEra_tm, ↓forAll_tm, ↓apply_ite Hub.tm, ite_self, implies_true]
@[simp] theorem Hub.leave_tm (raw : Bool) (c : Nat) (h : Hub) : (Hub.leave raw c h).tm = h.tm := by
  simp only [Hub.leave, ↓Hub.churnBreak_tm, ↓Hub.churnCapture_tm, ↓Hub.setCh_tm]
@[simp] theorem Hub.sweepFlow_tm (h : Hub) (k : FlowKey) : (h.sweepFlow k).tm = h.tm := by
  unfold Hub.sweepFlow
  split <;> simp only [↓Hub.dropBlocks_tm, ↓Hub.flowBreak_tm, ↓Hub.flowBuilt_tm, ↓Hub.flowEra_tm, ↓Hub.leave_tm,
    ↓Hub.setFlow_tm, ↓forAll_tm, ↓apply_ite Hub.tm, ite_self, implies_true]
@[simp] theorem Hub.discardNotes_tm (h : Hub) : h.discardNotes.tm = h.tm := by
  simp only [Hub.discardNotes, ↓Hub.notice_tm, ↓Hub.setFlow_tm, ↓forAll_tm, implies_true]

/-- The hub once an armed load of a FREE hub has been made at the second that begins (R130). -/
def Hub.secondLoaded (h : Hub) : Hub :=
  let g := h.setTm fun t => { t with second := secOf h.tm.now }
  if g.tm.src = .free ∧ g.tm.armed then (g.setTm fun t => { t with armed := false }).loadSec g.tm.loadValue (secOf g.tm.now) else g

/-- TIME_CFG that waits comes into force, and a change of the source's selection begins a relock (R100). -/
def Hub.cfgApplied (h : Hub) : Hub :=
  match h.tm.cfgNext with
  | some w =>
    let changed := fld w 1 0 ≠ fld h.tm.cfg 1 0
    let g := h.setTm fun t => { t with cfg := w, cfgNext := none }
    if changed then g.startRelock else g
  | none => h

theorem Hub.cfgApplied_calendar (h : Hub) :
    h.cfgApplied.tm.calendar = (h.tm.now, h.tm.second, h.tm.cfgNext.getD h.tm.cfg, none, h.tm.armed) := by
  unfold Hub.cfgApplied
  cases next : h.tm.cfgNext with
  | none =>
    dsimp only
    rw [Tm.calendar, next]
    rfl
  | some w =>
    dsimp only
    split
    · exact Hub.startRelock_calendar _
    · rfl

/-- At an array second no step waits for, the load is all that moves array time; TIME_CFG that waits comes into force. -/
theorem Hub.arraySecond_calendar (h : Hub) (due : h.tm.second < secOf h.tm.now) (noStep : h.tm.stepNext = 0) :
    h.arraySecond.tm.calendar = (h.secondLoaded.tm.now, h.secondLoaded.tm.second,
      h.secondLoaded.tm.cfgNext.getD h.secondLoaded.tm.cfg, none, h.secondLoaded.tm.armed) := by
  unfold Hub.arraySecond
  extract_lets n begun c stepped counted load loaded era aligned configured sourced swept was flowed counting
  rw [if_neg (Nat.not_le.2 due)]
  have still : c = 0 := by
    have next : begun.tm.stepNext = 0 := noStep
    unfold c
    rw [next, ite_self]
  have noneStepped : stepped = begun := if_pos still
  have load : loaded = h.secondLoaded := by
    unfold loaded load counted
    rw [noneStepped]
    simp only [decide_eq_true_eq]
    rfl
  have align : aligned.tm.calendar = loaded.tm.calendar := by
    unfold aligned
    split
    · exact Hub.setAlign_calendar _ _
    · rfl
  have configure : configured = aligned.cfgApplied := rfl
  have flow : counting.tm = swept.tm := by
    unfold counting flowed
    rfl
  rw [Hub.discardNotes_tm, forAll_tm _ (fun d g => Hub.flowBuilt_tm _ _ _), flow]
  unfold swept
  rw [forAll_tm _ (fun k g => Hub.sweepFlow_tm _ _)]
  unfold sourced
  rw [Hub.evalSource_calendar, configure, Hub.cfgApplied_calendar, ← load]
  simp only [Tm.calendar, Prod.mk.injEq] at align
  obtain ⟨now, second, cfg, next, armed⟩ := align
  rw [now, second, cfg, next, armed]

/-- Without an armed load array time stays. -/
theorem Hub.secondLoaded_unarmed (h : Hub) (unarmed : h.tm.armed = false) :
    h.secondLoaded = h.setTm fun t => { t with second := secOf h.tm.now } :=
  if_neg fun load => absurd load.2 (ne_true_of_eq_false unarmed)

/-- The second that a load names replaces the one counted, and the part of the second stays (R130). -/
theorem moved_seconds (t loaded : Nat) :
    secOf (moved t (((loaded : Int) - secOf t) * 125000000 * fuCycle)) = loaded ∧
    nsOf (moved t (((loaded : Int) - secOf t) * 125000000 * fuCycle)) = nsOf t := by
  have split : moved t (((loaded : Int) - secOf t) * 125000000 * fuCycle) = loaded * fuSec + t % fuSec := by
    have parts := Nat.div_add_mod t fuSec
    simp only [moved, secOf, fuSec, fuCycle] at parts ⊢
    omega
  rw [split]
  have below : t % fuSec < fuSec := Nat.mod_lt _ (by decide)
  simp only [secOf, nsOf, fuSec] at below ⊢
  omega

theorem Hub.loadSec_tm (h : Hub) (loaded : Nat) : ∃ t : Tm, (h.loadSec loaded (secOf h.tm.now)).tm = t ∧ t.armed = h.tm.armed ∧
    secOf t.now = loaded ∧ nsOf t.now = nsOf h.tm.now := by
  refine ⟨_, rfl, ?_⟩
  obtain ⟨second, rest⟩ := moved_seconds h.tm.now loaded
  unfold Hub.loadSec
  by_cases same : ((loaded : Int) - secOf h.tm.now) * 125000000 = 0
  · rw [same, Int.zero_mul] at second rest
    have here : moved h.tm.now 0 = h.tm.now := by simp [moved]
    rw [here] at second rest
    rw [same]
    exact ⟨rfl, second, rest⟩
  · rw [Hub.countStep_tm _ same]
    exact ⟨rfl, second, rest⟩

theorem Hub.secondLoaded_armed (h : Hub) (armed : h.tm.armed = true) (free : h.tm.src = .free) : h.secondLoaded.tm.armed = false ∧
    secOf h.secondLoaded.tm.now = h.tm.loadValue ∧ nsOf h.secondLoaded.tm.now = nsOf h.tm.now := by
  have load : h.secondLoaded = _ := if_pos ⟨free, armed⟩
  rw [load]
  obtain ⟨t, made, kept, second, rest⟩ := Hub.loadSec_tm
    ((h.setTm fun t => { t with second := secOf h.tm.now }).setTm fun t => { t with armed := false }) h.tm.loadValue
  refine ⟨?_, ?_, ?_⟩
  · exact (congrArg Tm.armed made).trans kept
  · exact (congrArg (fun t : Tm => secOf t.now) made).trans second
  · exact (congrArg (fun t : Tm => nsOf t.now) made).trans rest

/-! ## The delay of a port (R111) -/

/-- The hub once the delay of a port is measured, from an edge that the time-interval unit has recorded. -/
def Hub.delayed (h : Hub) (p : Nat) (d : Int) : Hub :=
  (h.setPort p fun q => { q with delay := d, ltUp := true }).tiuEdge (p / 4) (p % 4)

theorem Hub.delayed_getElem? (h : Hub) {p : Nat} {q : Port} (there : h.ports[p]? = some q) (d : Int) :
    (h.delayed p d).ports[p]? = some { q with delay := d, ltUp := true } := by
  rw [Hub.delayed, Hub.tiuEdge_ports]
  exact h.setPort_getElem?_same there _

theorem Hub.errEst_congr {h k : Hub} (tm : k.tm = h.tm) (clk : k.clk = h.clk) : k.errEst = h.errEst := by
  rw [Hub.errEst, Hub.errEst, tm, clk]

section Delay

variable (h : Hub) {p : Nat} (rtt : Nat) {q : Port} (branch : p ≠ 0) (present : p < h.nPorts) (there : h.ports[p]? = some q)

include there in
theorem Hub.delayTick_silent (silent : q.ltRuns = false) : h.delayTick p rtt = h := by
  refine if_pos (.inr (.inr ?_))
  rw [h.prt_of_getElem? there, silent]
  rfl

theorem Hub.delayTick_P00 : h.delayTick 0 rtt = h := if_pos (.inl rfl)

include branch present there in
theorem Hub.delayTick_runs (runs : q.ltRuns = true) : h.delayTick p rtt =
    if 2 ^ 32 ≤ delayOf p rtt q.asym then (h.delayed p (delayOf p rtt q.asym)).notice unitHub 0x0203 (argN p) 0
    else if q.st ≠ .up then h.delayed p (delayOf p rtt q.asym)
    else (h.delayed p (delayOf p rtt q.asym)).ctl p 0x87
      (2 ^ 52 + h.tm.base.code * 2 ^ 50 + (delayOf p rtt q.asym).toNat % 2 ^ 32 * 2 ^ 16 + h.errEst) := by
  have port := h.prt_of_getElem? there
  have goes : ¬(p = 0 ∨ h.nPorts ≤ p ∨ (!(h.prt p).ltRuns) = true) := by
    rw [port, runs]
    rintro (first | absent | silent)
    · exact branch first
    · exact absurd present (Nat.not_lt.2 absent)
    · exact Bool.noConfusion silent
  have edge : (h.tiuEdge (p / 4) (p % 4)).prt p = q := by
    rw [Hub.prt, Hub.tiuEdge_ports]
    exact port
  have made : (h.tiuEdge (p / 4) (p % 4)).setPort p (fun q' => { q' with delay := delayOf p rtt q.asym, ltUp := true }) =
      h.delayed p (delayOf p rtt q.asym) := (h.setPort_tiuEdge ..).symm
  have st : ((h.delayed p (delayOf p rtt q.asym)).prt p).st = q.st := by
    rw [Hub.prt_of_getElem? _ (h.delayed_getElem? there _)]
  have tm : (h.delayed p (delayOf p rtt q.asym)).tm = h.tm := Hub.tiuEdge_tm ..
  have err : (h.delayed p (delayOf p rtt q.asym)).errEst = h.errEst := Hub.errEst_congr tm (Hub.tiuEdge_clk ..)
  unfold Hub.delayTick
  rw [if_neg goes]
  dsimp only
  rw [edge, made, st, tm, err]

end Delay

/-! ## Time-interval edges (R119, R120) -/

theorem Tin.taken {x : Tin} {fall : Bool} (on : bitOf x.cfg 31 = true) (rising : ¬(fld x.cfg 30 29 = 0 ∧ fall = true))
    (falling : ¬(fld x.cfg 30 29 = 1 ∧ fall = false)) :
    ¬((!bitOf x.cfg 31) = true ∨ (fld x.cfg 30 29 = 0 ∧ fall = true) ∨ (fld x.cfg 30 29 = 1 ∧ (!fall) = true)) := by
  rw [on]
  rintro (off | rises | falls)
  · exact Bool.noConfusion off
  · exact rising rises
  · exact falling (by simpa using falls)

/-- Changes of an entry that agree on what it is leave the same list. -/
theorem modify_eq_of_getElem? {α : Type} {l : List α} {i : Nat} {x : α} (there : l[i]? = some x) {f g : α → α} (same : f x = g x) :
    l.modify i f = l.modify i g := by
  refine List.ext_getElem? fun j => ?_
  rw [List.getElem?_modify, List.getElem?_modify]
  by_cases named : i = j
  · subst named
    simp [there, same]
  · simp [named]

section Edges

variable (h : Hub) {i ago : Nat} {fall : Bool} {x : Tin}

/-- The hub with the level that an edge of a time-interval input leaves. -/
def Hub.tinLevel (h : Hub) (i : Nat) (fall : Bool) : Hub :=
  h.setTm fun t => { t with tins := t.tins.modify i fun y => { y with level := !fall } }

variable (input : i < 8) (supplied : h.vio (i / 4) = true) (served : (h.die (i / 4)).inService = true) (there : h.tm.tins[i]? = some x)
include input supplied served there

theorem Hub.tinEdge_eq : h.tinEdge i fall ago =
    if (!bitOf x.cfg 31) = true ∨ (fld x.cfg 30 29 = 0 ∧ fall = true) ∨ (fld x.cfg 30 29 = 1 ∧ (!fall) = true) then h.tinLevel i fall
    else if (!match x.last with | none => true | some t => decide (max 8192 (fld x.cfg 15 0 * 1024) ≤ h.tm.now - ago - t)) = true ∨
        16 ≤ x.buf - (h.clk.elapsed - x.bufAt) / 100 then
      (h.tinLevel i fall).setTm fun t => { t with tins := modAt t.tins i fun y => { y with merged := satInc 8 y.merged } }
    else
      (((h.tinLevel i fall).setTm fun t => { t with tins := modAt t.tins i fun y => { y with
          count := y.count + 1
          merged := 0
          last := some (h.tm.now - ago)
          buf := x.buf - (h.clk.elapsed - x.bufAt) / 100 + 1
          bufAt := if y.buf ≤ (h.clk.elapsed - x.bufAt) / 100 then h.clk.elapsed else y.bufAt + 100 * ((h.clk.elapsed - x.bufAt) / 100) } }).tiuEdge
        (i / 4) (8 + i % 4)).emitRecord ⟨i / 4, 2, 0⟩ (2056 + i / 4)
      (be 1 i ++ be 1 ((if fall then 1 else 0) + (if h.locked then 0 else 2)) ++ be 1 x.merged ++ pad 1 ++ be 4 (x.count.toNat + 1) ++
        stampB (h.tm.now - ago)) := by
  have goes : ¬(8 ≤ i ∨ (!h.vio (i / 4)) = true ∨ (!(h.die (i / 4)).inService) = true) := by
    rw [supplied, served]
    simpa using input
  have tin : (h.tinLevel i fall).tm.tins.getD i ⟨0, false, 0, 0, none, 0, 0⟩ = { x with level := !fall } := by
    rw [List.getD_eq_getElem?_getD]
    simp [Hub.tinLevel, there]
  refine (if_neg goes).trans ?_
  extract_lets set levelled y pol
  have same : y = { x with level := !fall } := tin
  clear_value y
  subst same

  rfl

theorem Hub.tinEdge_other (other : bitOf x.cfg 31 = false ∨ (fld x.cfg 30 29 = 0 ∧ fall = true) ∨ (fld x.cfg 30 29 = 1 ∧ fall = false)) :
    h.tinEdge i fall ago = h.tinLevel i fall :=
  (h.tinEdge_eq input supplied served there).trans (if_pos (by simpa using other))

section Taken

variable (on : bitOf x.cfg 31 = true) (rising : ¬(fld x.cfg 30 29 = 0 ∧ fall = true)) (falling : ¬(fld x.cfg 30 29 = 1 ∧ fall = false))
include on rising falling

theorem Hub.tinEdge_merged (unready : (∃ t0, x.last = some t0 ∧ h.tm.now - ago - t0 < max 8192 (fld x.cfg 15 0 * 1024)) ∨
      16 ≤ x.buf - (h.clk.elapsed - x.bufAt) / 100) :
    h.tinEdge i fall ago =
      h.setTm fun t => { t with tins := t.tins.modify i fun y => { y with level := !fall, merged := satInc 8 y.merged } } := by
  rw [h.tinEdge_eq input supplied served there, if_neg (Tin.taken on rising falling), if_pos]
  · simp only [Hub.tinLevel, Hub.setTm, modAt, List.modify_modify_eq]
    rfl
  · obtain ⟨t0, last, soon⟩ | full := unready
    · left
      simpa [last] using soon
    · exact .inr full

theorem Hub.tinEdge_recorded (ready : ∀ t0, x.last = some t0 → max 8192 (fld x.cfg 15 0 * 1024) ≤ h.tm.now - ago - t0)
    (room : x.buf - (h.clk.elapsed - x.bufAt) / 100 < 16) :
    h.tinEdge i fall ago = ((h.setTm fun t => { t with tins := t.tins.modify i fun y => { y with
          level := !fall
          count := x.count + 1
          merged := 0
          last := some (h.tm.now - ago)
          buf := x.buf - (h.clk.elapsed - x.bufAt) / 100 + 1
          bufAt := if x.buf ≤ (h.clk.elapsed - x.bufAt) / 100 then h.clk.elapsed else x.bufAt + 100 * ((h.clk.elapsed - x.bufAt) / 100) } }).tiuEdge
        (i / 4) (8 + i % 4)).emitRecord ⟨i / 4, 2, 0⟩ (2056 + i / 4)
      (be 1 i ++ be 1 ((if fall then 1 else 0) + (if h.locked then 0 else 2)) ++ be 1 x.merged ++ pad 1 ++ be 4 (x.count.toNat + 1) ++
        stampB (h.tm.now - ago)) := by
  have open' : ¬((!match x.last with | none => true | some t => decide (max 8192 (fld x.cfg 15 0 * 1024) ≤ h.tm.now - ago - t)) = true ∨
      16 ≤ x.buf - (h.clk.elapsed - x.bufAt) / 100) := by
    rintro (unready | full)
    · cases last : x.last with
      | none => simp [last] at unready
      | some t0 => simp [last, ready t0 last] at unready
    · omega
  rw [h.tinEdge_eq input supplied served there, if_neg (Tin.taken on rising falling), if_neg open']
  simp only [Hub.tinLevel, Hub.setTm, modAt, List.modify_modify_eq]
  rw [modify_eq_of_getElem? there]
  rfl

end Taken

end Edges


end Sys2Proof.Machine

open Sys2Proof Sys2Proof.Machine

/-- Settles O8, event by event (R100, R111, R119, R120, R130, R444). That a delay that comes out negative is sent as 0 in part B is the
model's choice (log entry 185). -/
theorem secondsDelaysAndEdges : Obligations.SecondsDelaysAndEdges := by
  refine ⟨fun s => ⟨fun handled => next_same (if_pos handled), fun w due noStep unarmed waits => ?config, fun due noStep armed free => ?load⟩,
    fun s p rtt q branch present there => ⟨fun silent => next_same (s.hub.delayTick_silent rtt there silent),
      fun runs => ⟨fun far => next_congr ?far, fun near up => ?sent, fun near down => next_congr ?down⟩⟩,
    fun s rtt => next_same (s.hub.delayTick_P00 rtt), fun s i ago fall x input supplied served there => ⟨fun other => next_congr ?other,
      fun on rising falling => ⟨fun unready => next_congr ?merged, fun out room => next_congr ?recorded⟩⟩⟩
  case config =>
    have calendar := s.hub.arraySecond_calendar due noStep
    rw [s.hub.secondLoaded_unarmed unarmed] at calendar
    simp only [Tm.calendar, Prod.mk.injEq] at calendar
    obtain ⟨now, second, cfg, next, -⟩ := calendar
    exact ⟨_, rfl, by rw [cfg]; exact congrArg (Option.getD · _) waits, next, second, now⟩
  case load =>
    have calendar := s.hub.arraySecond_calendar due noStep
    simp only [Tm.calendar, Prod.mk.injEq] at calendar
    obtain ⟨now, -, -, -, unarmed⟩ := calendar
    obtain ⟨disarmed, second, rest⟩ := s.hub.secondLoaded_armed armed free
    exact ⟨_, rfl, unarmed.trans disarmed, by rw [now, second], by rw [now, rest]⟩
  case far => exact (s.hub.delayTick_runs rtt branch present there runs).trans (if_pos far)
  case sent =>
    have sent := (s.hub.delayTick_runs rtt branch present there runs).trans ((if_neg (Int.not_le.2 near)).trans (if_neg (not_not.2 up)))
    refine ⟨_, _, next_congr sent, Hub.setPort_getElem?_same _ (s.hub.delayed_getElem? there _) _, rfl, rfl, ?_⟩
    exact (Hub.ctl_tm ..).trans (Hub.tiuEdge_tm ..)
  case down => exact (s.hub.delayTick_runs rtt branch present there runs).trans ((if_neg (Int.not_le.2 near)).trans (if_pos down))
  case other => exact s.hub.tinEdge_other input supplied served there other
  case merged => exact s.hub.tinEdge_merged input supplied served there on rising falling unready
  case recorded => exact s.hub.tinEdge_recorded input supplied served there on rising falling out room

end

section
/-! PROOFS. The checks that requests have in common, and the lists that they change. -/

namespace Sys2Proof.Machine

/-! ## Byte strings (R9) -/

@[simp] theorem be_length (n v : Nat) : (be n v).length = n := by
  induction n with
  | zero => rfl
  | succ n ih => rw [be, List.length_cons, ih]
@[simp] theorem beInt_length (n : Nat) (v : Int) : (beInt n v).length = n := be_length _ _
@[simp] theorem pad_length (n : Nat) : (pad n).length = n := List.length_replicate

/-! ## Changes at several places of a list -/

theorem modAll_getElem? {α : Type} (l : List α) (is : List Nat) (f : Nat → α → α) (i : Nat) :
    (modAll l is f)[i]? = l[i]?.map fun a => if i ∈ is then f i a else a := by
  simp only [modAll, List.getElem?_mapIdx, List.contains_iff_mem]

theorem modAll_getElem?_mem {α : Type} {l : List α} {is : List Nat} (f : Nat → α → α) {i : Nat} {a : α} (there : l[i]? = some a)
    (named : i ∈ is) : (modAll l is f)[i]? = some (f i a) := by
  rw [modAll_getElem?, there]
  simp [named]

theorem modAll_getElem?_notMem {α : Type} (l : List α) {is : List Nat} (f : Nat → α → α) {i : Nat} (other : i ∉ is) :
    (modAll l is f)[i]? = l[i]? := by
  rw [modAll_getElem?]
  cases l[i]? <;> simp [other]

theorem modAll_nil {α : Type} (l : List α) (f : Nat → α → α) : modAll l [] f = l :=
  List.ext_getElem? fun _ => modAll_getElem?_notMem l f List.not_mem_nil

theorem modAll_cons {α : Type} (l : List α) {i : Nat} {is : List Nat} (fresh : i ∉ is) (f : Nat → α → α) :
    modAll l (i :: is) f = modAll (l.modify i (f i)) is f := by
  refine List.ext_getElem? fun j => ?_
  rw [modAll_getElem?, modAll_getElem?, List.getElem?_modify]
  cases l[j]? with
  | none => rfl
  | some a =>
    by_cases named : i = j
    · subst named
      simp [fresh]
    · have other : j ≠ i := Ne.symm named
      simp [named, other]

theorem modAll_singleton {α : Type} (l : List α) (i : Nat) (f : Nat → α → α) : modAll l [i] f = l.modify i (f i) := by
  rw [modAll_cons l List.not_mem_nil, modAll_nil]

/-- A change of each of several channels, each named once, is one change of the list. -/
theorem forAll_setCh {l : List Nat} (once : l.Nodup) (f : Nat → Chan → Chan) (h : Hub) :
    forAll l (fun c g => g.setCh c (f c)) h = { h with chans := modAll h.chans l f } := by
  induction l generalizing h with
  | nil => rw [modAll_nil]; rfl
  | cons c l ih =>
    obtain ⟨fresh, once⟩ := List.nodup_cons.1 once
    rw [modAll_cons _ fresh]
    exact ih once (h.setCh c (f c))

/-! ## Dies and channels that can serve (R379, R380) -/

theorem Hub.badChs_eq_false (h : Hub) {chs : List Nat} (nonempty : chs ≠ []) (present : ∀ c ∈ chs, c < h.nChans) : h.badChs chs = false := by
  simpa [Hub.badChs, nonempty] using present

theorem Hub.badChs_eq_true (h : Hub) {chs : List Nat} (bad : chs = [] ∨ ∃ c ∈ chs, h.nChans ≤ c) : h.badChs chs = true := by
  simpa [Hub.badChs] using bad

theorem Hub.badChs_served {h : Hub} {chs : List Nat} (served : Served h chs) : h.badChs chs = false := by
  obtain ⟨-, nonempty, -, present⟩ := served
  exact h.badChs_eq_false nonempty fun c named => (present c named).1

theorem Hub.onDies_served {h : Hub} {chs : List Nat} (served : Served h chs) (k : Hub) : h.onDies (chs.map chDie) k = k := by
  obtain ⟨-, -, -, present⟩ := served
  refine h.onDies_up (fun d named => ?_) k
  obtain ⟨c, mem, rfl⟩ := List.mem_map.1 named
  exact (present c mem).2

theorem Hub.onDies_one_up (h : Hub) {d : Nat} (up : h.dieDown d = false) (k : Hub) : h.onDies [d] k = k :=
  h.onDies_up (by simpa using up) k

/-- A command over channels that can serve comes to its own checks. -/
theorem Hub.overChs_served {h : Hub} {chs : List Nat} (served : Served h chs) (k : Hub) :
    (if h.badChs chs then h.refuse St.badArg else h.onDies (chs.map chDie) k) = k := by
  rw [Hub.badChs_served served, h.onDies_served served]
  rfl

end Sys2Proof.Machine

namespace Sys2Proof

open Machine

theorem Served.present {h : Hub} {c : Nat} (served : Served h [c]) : c < h.nChans := (served.2.2.2 c List.mem_cons_self).1
theorem Served.up {h : Hub} {c : Nat} (served : Served h [c]) : h.dieDown (chDie c) = false := (served.2.2.2 c List.mem_cons_self).2
theorem Served.nodup {h : Hub} {chs : List Nat} (served : Served h chs) : chs.Nodup := served.2.2.1
theorem Served.ne_nil {h : Hub} {chs : List Nat} (served : Served h chs) : chs ≠ [] := served.2.1
theorem Served.shaped {h : Hub} {chs : List Nat} (served : Served h chs) : Shaped h := served.1

theorem Served.there {h : Hub} {chs : List Nat} (served : Served h chs) {c : Nat} (named : c ∈ chs) : h.chans[c]? = some (h.ch c) := by
  have below : c < h.chans.length := served.1.1 ▸ (served.2.2.2 c named).1
  rw [Hub.ch, List.getD_eq_getElem?_getD, List.getElem?_eq_getElem below]
  rfl

end Sys2Proof

namespace Sys2Proof.Machine

/-! ## Checks in their order (R64, R359) -/

theorem Hub.checked_nil (h k : Hub) : h.checked [] k = k := rfl

theorem Hub.checked_pass (h : Hub) (st : Nat) (l : List (Nat × List Nat)) (k : Hub) : h.checked ((st, []) :: l) k = h.checked l k := rfl

theorem Hub.checked_fail (h : Hub) {st : Nat} {dies : List Nat} (fails : dies ≠ []) (l : List (Nat × List Nat)) (k : Hub) :
    h.checked ((st, dies) :: l) k = h.refuseDie st ((leastOf dies).getD 255) := by
  have found : ((st, dies) :: l).find? (fun t => !t.2.isEmpty) = some (st, dies) := List.find?_cons_of_pos (by simpa using fails)
  rw [Hub.checked, found]

theorem Hub.checked_all (h : Hub) {tests : List (Nat × List Nat)} (pass : ∀ t ∈ tests, t.2 = []) (k : Hub) : h.checked tests k = k := by
  have noneFails : tests.find? (fun t => !t.2.isEmpty) = none := List.find?_eq_none.2 fun t mem => by simp [pass t mem]
  rw [Hub.checked, noneFails]

theorem Hub.checked_some (h : Hub) {tests : List (Nat × List Nat)} (fails : ∃ t ∈ tests, t.2 ≠ []) (k : Hub) :
    ∃ t ∈ tests, ∃ d, h.checked tests k = h.refuseDie t.1 d := by
  cases found : tests.find? (fun t => !t.2.isEmpty) with
  | none =>
    obtain ⟨t, mem, fails⟩ := fails
    exact absurd (by simpa using List.find?_eq_none.1 found t mem) fails
  | some t => exact ⟨t, List.mem_of_find?_eq_some found, (leastOf t.2).getD 255, by rw [Hub.checked, found]⟩

theorem filter_map_ne_nil {α β : Type} {l : List α} {p : α → Bool} (g : α → β) (some : ∃ a ∈ l, p a = true) : (l.filter p).map g ≠ [] := by
  obtain ⟨a, mem, holds⟩ := some
  exact List.ne_nil_of_mem (List.mem_map_of_mem (List.mem_filter.2 ⟨mem, holds⟩))

theorem filter_map_eq_nil {α β : Type} {l : List α} {p : α → Bool} (g : α → β) (none : ∀ a ∈ l, p a = false) : (l.filter p).map g = [] := by
  rw [List.filter_eq_nil_iff.2 fun a mem => ne_true_of_eq_false (none a mem)]
  rfl

end Sys2Proof.Machine
end

section
/-! PROOFS. Settings and reads of channels: Obligations.AfeSets, ChannelReads, FrontEndSettings, ChanSetAccepted and HeldWrites. -/

namespace Sys2Proof.Machine

/-! ## Accepted writes (R65, R66) -/

/-- A channel with an accepted write: in what the hold of its octet keeps, or waiting for its boundary. -/
def Hub.taken (h : Hub) (w : ChanWrite) (c : Nat) (x : Chan) : Chan :=
  if (h.oct (chOct c)).held then x.hold w else { x with writes := x.writes ++ [w] }

theorem Hub.accept_eq (h : Hub) (c : Nat) {w : ChanWrite} (direct : w.actions = []) :
    h.accept c w = ({ h with mgmt := { h.mgmt with accepts := h.mgmt.accepts + 1 } } : Hub).setCh c (h.taken w c) := by
  have octs : ({ h with mgmt := { h.mgmt with accepts := h.mgmt.accepts + 1 } } : Hub).oct (chOct c) = h.oct (chOct c) := rfl
  unfold Hub.accept Hub.taken
  rw [direct]
  dsimp only
  rw [octs]
  cases (h.oct (chOct c)).held <;> rfl

theorem forAll_accept {l : List Nat} (once : l.Nodup) {w : ChanWrite} (direct : w.actions = []) (h : Hub) :
    forAll l (fun c g => g.accept c w) h =
      { h with chans := modAll h.chans l (h.taken w), mgmt := { h.mgmt with accepts := h.mgmt.accepts + l.length } } := by
  induction l generalizing h with
  | nil => rw [modAll_nil]; rfl
  | cons c l ih =>
    obtain ⟨fresh, once⟩ := List.nodup_cons.1 once
    show forAll l _ (h.accept c w) = _
    rw [h.accept_eq c direct, ih once, modAll_cons _ fresh, List.length_cons, Nat.add_comm l.length, ← Nat.add_assoc]
    rfl

/-! ## A hub as it would be -/

theorem Hub.supposing_ch (h : Hub) {chs : List Nat} (served : Served h chs) (f : Desc → Desc) {c : Nat} (named : c ∈ chs) :
    ((h.supposing chs f).ch c).desc = f (h.ch c).latest := by
  have there := modAll_getElem?_mem (fun _ (x : Chan) => { x with desc := f x.latest, writes := [], held := none, unsettled := [] })
    (served.there named) named
  rw [Hub.ch, Hub.supposing, List.getD_eq_getElem?_getD, there]
  rfl

/-! ## AFE_SET (R63 to R66) -/

section AfeSet

variable {h : Hub} {chs : List Nat} (served : Served h chs) (w : AfeWords)

/-- The hub with the five words in force on the channels named. -/
def Hub.withAfe (h : Hub) (chs : List Nat) (w : AfeWords) : Hub := h.supposing chs fun d => { d with afe := w }

/-- The words break a rule on a channel. -/
def Hub.badAfe (h : Hub) (chs : List Nat) (w : AfeWords) (c : Nat) : Bool :=
  ((h.withAfe chs w).ch c).desc.bad ((h.withAfe chs w).refFreq ((h.withAfe chs w).ch c).desc)

include served

theorem Hub.afeSet_served (notBefore : Nat) : h.afeSet chs w notBefore none =
    h.checked ((St.badArg, (chs.filter (h.badAfe chs w)).map chDie) :: (h.withAfe chs w).afeTests chs)
      (({ h with chans := modAll h.chans chs (h.taken ⟨none, some w, none, notBefore, [], false, h.mgmt.accepts⟩),
                 mgmt := { h.mgmt with accepts := h.mgmt.accepts + chs.length } } : Hub).ok []) := by
  rw [← forAll_accept served.nodup rfl]
  exact h.overChs_served served _

theorem Hub.badAfe_of_bad (bad : AfeWords.bad w = true) {c : Nat} (named : c ∈ chs) : h.badAfe chs w c = true := by
  rw [Hub.badAfe, Hub.withAfe, h.supposing_ch served _ named]
  simp [Desc.bad, bad]

theorem Hub.afeSet_bad (bad : AfeWords.bad w = true) (notBefore : Nat) :
    ∃ d, h.afeSet chs w notBefore none = h.refuseDie St.badArg d := by
  obtain ⟨c, named⟩ := List.exists_mem_of_ne_nil chs served.ne_nil
  rw [Hub.afeSet_served served]
  exact ⟨_, h.checked_fail (filter_map_ne_nil chDie ⟨c, named, Hub.badAfe_of_bad served w bad named⟩) _ _⟩

variable (good : ∀ c ∈ chs, h.badAfe chs w c = false) (partners : (h.withAfe chs w).badPartners (chs.map chDie).eraseDups = [])
include good partners

theorem Hub.afeSet_kept (budget : ∀ d ∈ chs.map chDie, (h.withAfe chs w).overDrive d = false) (notBefore : Nat) :
    h.afeSet chs w notBefore none =
      ({ h with chans := modAll h.chans chs (h.taken ⟨none, some w, none, notBefore, [], false, h.mgmt.accepts⟩),
                mgmt := { h.mgmt with accepts := h.mgmt.accepts + chs.length } } : Hub).ok [] := by
  have within : (chs.map chDie).eraseDups.filter (h.withAfe chs w).overDrive = [] :=
    List.filter_eq_nil_iff.2 fun d mem => ne_true_of_eq_false (budget d (List.mem_eraseDups.1 mem))
  rw [Hub.afeSet_served served, filter_map_eq_nil _ good, Hub.checked_pass, Hub.afeTests, partners, Hub.checked_pass, within,
    Hub.checked_pass, Hub.checked_nil]

theorem Hub.afeSet_budget (above : ∃ d ∈ chs.map chDie, (h.withAfe chs w).overDrive d = true) (notBefore : Nat) :
    ∃ d, h.afeSet chs w notBefore none = h.refuseDie St.budget d := by
  obtain ⟨d, mem, above⟩ := above
  have beyond : (chs.map chDie).eraseDups.filter (h.withAfe chs w).overDrive ≠ [] :=
    List.ne_nil_of_mem (List.mem_filter.2 ⟨List.mem_eraseDups.2 mem, above⟩)
  rw [Hub.afeSet_served served, filter_map_eq_nil _ good, Hub.checked_pass, Hub.afeTests, partners, Hub.checked_pass]
  exact ⟨_, h.checked_fail beyond _ _⟩

end AfeSet

/-- Words outside the limits of a SINE frequency or of the input window are bad (R36, R53). -/
theorem AfeWords.bad_of_limits (w : AfeWords)
    (outside : (fld w.drive 2 0 = 1 ∧ (w.freq.toNat < 0x431C ∨ 0x83126F < w.freq.toNat)) ∨ sfld w.cm 17 9 < -250 ∨ 250 < sfld w.cm 17 9 ∨
      sfld w.cm 8 0 < -250 ∨ 250 < sfld w.cm 8 0 ∨ sfld w.cm 17 9 ≤ sfld w.cm 8 0) : AfeWords.bad w = true := by
  simp only [AfeWords.bad, Bool.or_eq_true, Bool.and_eq_true, decide_eq_true_eq, beq_iff_eq]
  tauto

theorem Hub.onDies_chs_down (h : Hub) {chs : List Nat} (down : ∃ c ∈ chs, h.dieDown (chDie c) = true) (k : Hub) :
    ∃ d, h.onDies (chs.map chDie) k = h.refuseDie St.fault d := by
  obtain ⟨c, mem, down⟩ := down
  exact h.onDies_down ⟨chDie c, List.mem_map_of_mem mem, down⟩ k

/-! ## Reads of a channel -/

theorem Hub.overCh_served {h : Hub} {c : Nat} (served : Served h [c]) (k : Hub) :
    (if h.nChans ≤ c then h.refuse St.badArg else h.onDies [chDie c] k) = k := by
  rw [if_neg (Nat.not_le.2 served.present), h.onDies_one_up served.up]

theorem Chan.applied_of_settled (x : Chan) (settled : x.unsettled = []) : x.applied = x.desc := by rw [Chan.applied, settled]; rfl

theorem Chan.shown_none (x : Chan) (free : x.held = none) : x.shown = x.applied := by rw [Chan.shown, free]

theorem Chan.shown_desc (x : Chan) {v : ChanWrite} (held : x.held = some v) {d : Desc} (desc : v.desc = some d) : x.shown = d := by
  rw [Chan.shown, held]
  dsimp only
  rw [desc]

theorem Chan.shown_afe (x : Chan) {v : ChanWrite} (held : x.held = some v) (noDesc : v.desc = none) {a : AfeWords} (afe : v.afe = some a) :
    x.shown = { x.applied with afe := a } := by
  rw [Chan.shown, held]
  dsimp only
  rw [noDesc, afe]

/-- The 40 bytes of CHAN_QUERY (Table 05-8). -/
def Hub.queryBytes (h : Hub) (c : Nat) : Bytes :=
  let x := h.ch c
  let d := x.applied
  let xf := match x.shadowNow with
    | some k => loadUnits (d.loadXf k x.skimEn x.appliedRed (h.capSrc c))
    | none => 0
  be 8 (d.rate.1 * 2 ^ 32 / d.rate.2) ++ be 1 d.words ++ be 1 x.xfState ++ pad 2 ++ be 4 (d.settle 0 0) ++
    beInt 8 (openRound (d.settle 0 0 * d.rate.2 * 1000000000) d.rate.1) ++ beInt 8 (openRound (d.groupDelay d.coef).1 (d.groupDelay d.coef).2) ++
    be 2 (loadUnits (d.load x.skimEn x.appliedRed (h.capSrc c))) ++ be 2 xf ++ be 4 (d.outBound d.coef)

/-- Fields of a reply that stand one behind the other, at their offsets. -/
theorem queryFields {rate words xf spare settle time delay load loadXf bound : Bytes} (l0 : rate.length = 8) (l1 : words.length = 1)
    (l2 : xf.length = 1) (l3 : spare.length = 2) (l4 : settle.length = 4) (l5 : time.length = 8) (l6 : delay.length = 8) (l7 : load.length = 2)
    (l8 : loadXf.length = 2) (l9 : bound.length = 4) :
    let p := rate ++ words ++ xf ++ spare ++ settle ++ time ++ delay ++ load ++ loadXf ++ bound
    p.length = 40 ∧ p.take 8 = rate ∧ p.drop 8 = words ++ xf ++ p.drop 10 ∧ p.drop 12 = settle ++ p.drop 16 ∧ p.drop 32 = load ++ p.drop 34 ∧
      p.drop 36 = bound := by
  have spent {l : Bytes} {n : Nat} (k : Nat) (length : l.length = n) (short : n ≤ k) : l.drop k = [] :=
    List.drop_of_length_le (by rw [length]; exact short)
  simp [List.drop_append, spent _ l0, spent _ l1, spent _ l2, spent _ l3, spent _ l4, spent _ l5,
    spent _ l6, spent _ l7, l0, l1, l2, l3, l4, l5, l6, l7, l8, l9]

theorem Hub.chanQuery_served {h : Hub} {c : Nat} (served : Served h [c]) : h.chanQuery c = h.ok (h.queryBytes c) :=
  Hub.overCh_served served _

/-! ## Guards and repeater outputs (R56, R58) -/

theorem Hub.afeGuard_kept (h : Hub) {octs : List Nat} {w : Word} (nonempty : octs ≠ []) (present : ∀ o ∈ octs, o < h.nOcts ∧ h.dieDown (o / 16) = false)
    (bits : onlyBits w 0x00000073 = true) : h.afeGuard octs w = ({ h with octs := modAll h.octs octs fun _ o => { o with guard := w } } : Hub).ok [] := by
  have up (d : Nat) (mem : d ∈ octs.map (· / 16)) : h.dieDown d = false := by
    obtain ⟨o, named, rfl⟩ := List.mem_map.1 mem
    exact (present o named).2
  refine (if_neg ?_).trans (h.onDies_up up _)
  rintro (none | absent | reserved)
  · exact nonempty (List.isEmpty_iff.1 none)
  · obtain ⟨o, named, far⟩ := List.any_eq_true.1 absent
    exact absurd (present o named).1 (Nat.not_lt.2 (of_decide_eq_true far))
  · rw [bits] at reserved
    exact Bool.noConfusion reserved

section Rep

variable (h : Hub) {n : Nat} {w : RepWords} (output : n < 16) (good : badRep w = false) (src : Served h [fld w.ctl 17 8])
  (die : DieUp h (n / 8)) (skim : (h.ch (fld w.ctl 17 8)).skimEn = true)

/-- An output with new words: one whose EN is newly set begins without a width, and is STALE until a sample. -/
def Rep.written (w : RepWords) (elapsed : Nat) (r : Rep) : Rep :=
  let en := bitOf w.ctl 31
  let begins := en && (!bitOf r.w.ctl 31 || r.hiZ)
  { w := w, stale := if !en then false else if begins then true else r.stale, hiZ := false,
    waiting := if !en then true else if begins then true else r.waiting,
    width := if en && !begins then r.width else 0, next := if en && !begins then r.next else none,
    base := if en && !begins then r.base else elapsed, nco := if en && !begins then r.nco else 0,
    phase := if en && !begins then r.phase else 0 }

include output good src die skim in
theorem Hub.afeRepSet_kept : h.afeRepSet n w = ({ h with reps := h.reps.modify n (Rep.written w h.clk.elapsed) } : Hub).ok [] := by
  obtain ⟨-, -, up⟩ := die
  refine (if_neg ?_).trans (h.onDies_up (by simpa using ⟨up, src.up⟩) _)
  rw [good, skim]
  rintro (far | bad | absent | off)
  · exact absurd output (Nat.not_lt.2 far)
  · exact Bool.noConfusion bad
  · exact absurd src.present (Nat.not_lt.2 absent)
  · exact Bool.noConfusion off

variable {r : Rep} {elapsed : Nat}

theorem Rep.written_goesOn (en : bitOf w.ctl 31 = true) (was : bitOf r.w.ctl 31 = true) (driven : r.hiZ = false) :
    Rep.written w elapsed r = { r with w := w } := by
  simp [Rep.written, en, was, driven]

theorem Rep.written_begins (en : bitOf w.ctl 31 = true) (was : bitOf r.w.ctl 31 = false ∨ r.hiZ = true) : Rep.written w elapsed r =
    { w := w, stale := true, hiZ := false, waiting := true, width := 0, next := none, base := elapsed, nco := 0, phase := 0 } := by
  obtain off | floating := was
  · simp [Rep.written, en, off]
  · simp [Rep.written, en, floating]

theorem Rep.written_off (off : bitOf w.ctl 31 = false) : Rep.written w elapsed =
    fun _ => { w := w, stale := false, hiZ := false, waiting := true, width := 0, next := none, base := elapsed, nco := 0, phase := 0 } := by
  funext r
  simp [Rep.written, off]

end Rep

/-! ## AFE_SYNC (R40) -/

theorem Hub.withSlaves_mem (h : Hub) {chs : List Nat} {c : Nat} (named : c ∈ chs) : c ∈ h.withSlaves chs :=
  List.mem_append_left _ named

/-- A channel that AFE_SYNC marks: its syncs that are due are spent, and its settling is marked. -/
def Hub.syncMarked (h : Hub) (x : Chan) : Chan :=
  { (if (x.syncs.filter fun a => decide (a.at' ≤ h.tm.now)).any SyncArm.st then x else x.settleBehind 128) with
    syncs := x.syncs.filter fun a => decide (h.tm.now < a.at'), driveChanged := if x.desc.drives then h.clk.elapsed else x.driveChanged }

theorem Chan.settleBehind_phase (x : Chan) (us : Nat) :
    (x.settleBehind us).acc = x.acc ∧ (x.settleBehind us).accAt = x.accAt ∧ (x.settleBehind us).desc = x.desc := by
  unfold Chan.settleBehind
  split <;> exact ⟨rfl, rfl, rfl⟩

theorem Hub.syncMarked_phase (h : Hub) (x : Chan) :
    (h.syncMarked x).acc = x.acc ∧ (h.syncMarked x).accAt = x.accAt ∧ (h.syncMarked x).desc = x.desc := by
  unfold Hub.syncMarked
  dsimp only
  split
  · exact ⟨rfl, rfl, rfl⟩
  · exact x.settleBehind_phase 128

/-- A channel whose accumulator starts at 0. -/
def Hub.syncStarted (h : Hub) (x : Chan) : Chan :=
  { x with acc := 0, accAt := h.clk.cycles, accWas := x.accBack h.clk.cycles 0, accSet := h.clk.cycles, rampFrom := 0,
           rampTo := x.desc.rampGoal !x.driveOff, rampAt := h.clk.cycles }

theorem Hub.afeSync_served {h : Hub} {chs : List Nat} (served : Served h chs) : h.afeSync chs =
    ({ h with chans := modAll (modAll h.chans (h.withSlaves chs) fun _ => h.syncMarked) chs fun _ => h.syncStarted } : Hub).ok [] := by
  unfold Hub.afeSync
  rw [h.overChs_served served]
  extract_lets all now due marked
  have mark : marked = { h with chans := modAll h.chans (h.withSlaves chs) fun _ => h.syncMarked } := rfl
  clear_value marked
  subst mark
  rfl

/-! ## CHAN_SET (R64 to R66, R148) -/

section ChanSet

variable {h : Hub} {chs : List Nat} (served : Served h chs) {ws : List Word}
include served

theorem Hub.chanSet_noDesc (noDesc : Desc.ofWords ws = none) (notBefore : Nat) : h.chanSet chs ws notBefore none = h.refuse St.badArg := by
  unfold Hub.chanSet
  rw [h.overChs_served served, noDesc]

variable {d : Desc} (desc : Desc.ofWords ws = some d)
include desc

theorem Hub.chanSet_desc (notBefore : Nat) : h.chanSet chs ws notBefore none =
    h.checked (h.chanTests (h.supposing chs fun _ => d) chs)
      (({ h with chans := modAll h.chans chs (h.taken ⟨some d, none, none, notBefore, [], false, h.mgmt.accepts⟩),
                 mgmt := { h.mgmt with accepts := h.mgmt.accepts + chs.length } } : Hub).ok []) := by
  rw [← forAll_accept served.nodup rfl]
  unfold Hub.chanSet
  rw [h.overChs_served served, desc]
  rfl

theorem Hub.chanSet_kept (pass : ∀ x ∈ h.chanTests (h.supposing chs fun _ => d) chs, x.2 = []) (notBefore : Nat) :
    h.chanSet chs ws notBefore none =
      ({ h with chans := modAll h.chans chs (h.taken ⟨some d, none, none, notBefore, [], false, h.mgmt.accepts⟩),
                mgmt := { h.mgmt with accepts := h.mgmt.accepts + chs.length } } : Hub).ok [] := by
  rw [Hub.chanSet_desc served desc, h.checked_all pass]

theorem Hub.chanSet_refused (fails : ∃ x ∈ h.chanTests (h.supposing chs fun _ => d) chs, x.2 ≠ []) (notBefore : Nat) :
    ∃ st e, h.chanSet chs ws notBefore none = h.refuseDie st e ∧ (st = St.badArg ∨ st = St.budget) := by
  obtain ⟨t, mem, e, refused⟩ := h.checked_some fails _
  refine ⟨t.1, e, (Hub.chanSet_desc served desc notBefore).trans refused, ?_⟩
  rw [Hub.chanTests, List.mem_cons, List.mem_singleton] at mem
  obtain rfl | rfl := mem
  · exact .inl rfl
  · exact .inr rfl

end ChanSet

/-! ## Held writes (R66) -/

/-- A hold takes an accepted write over what it holds: no write that it holds came later. -/
theorem Chan.hold_held (x : Chan) (w : ChanWrite) (earlier : ∀ o, x.held = some o → o.order ≤ w.order) :
    (x.hold w).held = some (w.onto x.held) := by
  unfold Chan.hold
  cases held : x.held with
  | none => rfl
  | some o => exact congrArg some (if_neg (Nat.not_lt.2 (earlier o held)))

theorem Chan.hold_applied (x : Chan) (w : ChanWrite) : (x.hold w).applied = x.applied := rfl

theorem ChanWrite.onto_desc (w : ChanWrite) {d : Desc} (desc : w.desc = some d) (o : Option ChanWrite) : (w.onto o).desc = some d := by
  simp only [ChanWrite.onto, desc]

/-- The five words of a held write are shown beside what was shown before. -/
theorem Chan.shown_hold_afe (x : Chan) {w : ChanWrite} (earlier : ∀ o, x.held = some o → o.order ≤ w.order) (noDesc : w.desc = none)
    {a : AfeWords} (afe : w.afe = some a) : (x.hold w).shown = { x.shown with afe := a } := by
  have held := x.hold_held w earlier
  cases was : x.held with
  | none =>
    rw [was] at held
    rw [Chan.shown_afe _ held (by simp [ChanWrite.onto, noDesc, afe]) (a := a) (by simp [ChanWrite.onto, noDesc, afe]), x.shown_none was]
    rfl
  | some o =>
    rw [was] at held
    cases desc : o.desc with
    | some d =>
      rw [Chan.shown_desc _ held (d := { d with afe := a }) (by simp [ChanWrite.onto, noDesc, afe, desc]), x.shown_desc was desc]
    | none =>
      rw [Chan.shown_afe _ held (by simp [ChanWrite.onto, noDesc, afe, desc]) (a := a) (by simp [ChanWrite.onto, noDesc, afe, desc])]
      cases words : o.afe with
      | some b => rw [x.shown_afe was desc words]; rfl
      | none =>
        have plain : x.shown = x.applied := by
          rw [Chan.shown, was]
          dsimp only
          rw [desc, words]
        rw [plain]
        rfl

/-- A write of the reduction word alone shows in no descriptor. -/
theorem Chan.shown_hold_red (x : Chan) {w : ChanWrite} (earlier : ∀ o, x.held = some o → o.order ≤ w.order) (noDesc : w.desc = none)
    (noAfe : w.afe = none) : (x.hold w).shown = x.shown := by
  have held := x.hold_held w earlier
  unfold Chan.shown
  rw [held, x.hold_applied]
  cases was : x.held with
  | none => simp [ChanWrite.onto, noDesc, noAfe]
  | some o => cases desc : o.desc <;> cases words : o.afe <;> simp [ChanWrite.onto, noDesc, noAfe, desc, words]

theorem Hub.taken_held (h : Hub) {c : Nat} (held : (h.oct (chOct c)).held = true) (w : ChanWrite) (x : Chan) : h.taken w c x = x.hold w :=
  if_pos held

/-! ## CAP_RED_SET -/

theorem Hub.capRedSet_kept {h : Hub} {chs : List Nat} (served : Served h chs) {w : Word} (good : ∀ c ∈ chs, (h.ch c).latest.badRed w = false)
    (within : ∀ c ∈ chs, loadAbove ((h.ch c).latest.load (h.ch c).skimEn w (h.capSrc c)) 900 = false) (notBefore : Nat) :
    h.capRedSet chs w notBefore =
      ({ h with chans := modAll h.chans chs (h.taken ⟨none, none, some w, notBefore, [], false, h.mgmt.accepts⟩),
                mgmt := { h.mgmt with accepts := h.mgmt.accepts + chs.length } } : Hub).ok [] := by
  rw [← forAll_accept served.nodup rfl]
  unfold Hub.capRedSet
  rw [h.overChs_served served, filter_map_eq_nil _ good, Hub.checked_pass, filter_map_eq_nil _ within, Hub.checked_pass, Hub.checked_nil]

end Sys2Proof.Machine

open Sys2Proof Sys2Proof.Machine

/-- Settles O9, check by check (R36, R43, R53, R63 to R66, R379, R380). -/
theorem afeSets : Obligations.AfeSets := by
  refine ⟨?kept, ?limits, ?rest⟩
  case kept =>
    intro s chs w served g good partners budget
    exact next_congr (Hub.afeSet_kept served w good partners budget _)
  case limits =>
    intro s chs w served outside
    obtain ⟨d, refused⟩ := Hub.afeSet_bad served w (AfeWords.bad_of_limits w outside) (s.hub.boundsFrom none)
    exact ⟨d, next_congr refused⟩
  case rest =>
    intro s chs w g
    refine ⟨fun served good partners above => ?budget, fun bad => next_congr (if_pos (s.hub.badChs_eq_true bad)),
      fun nonempty present down => ?down⟩
    case budget =>
      obtain ⟨d, refused⟩ := Hub.afeSet_budget served w good partners above (s.hub.boundsFrom none)
      exact ⟨d, next_congr refused⟩
    case down =>
      have named := ne_true_of_eq_false (s.hub.badChs_eq_false nonempty present)
      obtain ⟨d, refused⟩ := s.hub.onDies_chs_down down _
      exact ⟨d, next_congr ((if_neg named).trans refused)⟩

/-- Settles O10: each read is a reply of the state's own fields (R62, R63, R162, R384, R385). -/
theorem channelReads : Obligations.ChannelReads := by
  intro s c served
  refine ⟨next_congr (Hub.overCh_served served _), next_congr (Hub.overCh_served served _), fun free settled => ?settled, fun k held => ?desc,
    fun v a held noDesc afe => (s.hub.ch c).shown_afe held noDesc afe, ⟨s.hub.queryBytes c, next_congr (Hub.chanQuery_served served), ?query⟩,
    fun first n some few present up => next_congr ?status, fun n r output there => next_congr ?rep⟩
  case settled => rw [Chan.shown_none _ free, Chan.applied_of_settled _ settled]
  case desc =>
    obtain ⟨v, isHeld, desc⟩ := Option.bind_eq_some_iff.1 held
    exact (s.hub.ch c).shown_desc isHeld desc
  case query =>
    exact queryFields (be_length ..) (be_length ..) (be_length ..) (pad_length _) (be_length ..) (beInt_length ..) (beInt_length ..)
      (be_length ..) (be_length ..) (be_length ..)
  case status =>
    refine (if_neg ?_).trans (s.hub.onDies_up (by simpa using up) _)
    omega
  case rep =>
    refine (if_neg (Nat.not_le.2 output)).trans ?_
    rw [List.getD_eq_getElem?_getD, there]
    rfl

/-- Settles O11: three settings, and the accumulators that AFE_SYNC starts on one reference edge (R40, R56, R58, R62). -/
theorem frontEndSettings : Obligations.FrontEndSettings := by
  refine ⟨fun s => ⟨fun chs served => next_congr (s.hub.overChs_served served _),
    fun octs w nonempty present bits => next_congr (s.hub.afeGuard_kept nonempty present bits),
    fun n w r output good src die skim there en was driven => ?goesOn, fun n w r output good src die skim there en was => ?begins,
    fun n w output good src die skim off => ?off⟩, fun s chs served => ?sync⟩
  case goesOn =>
    refine next_congr ((s.hub.afeRepSet_kept output good src die skim).trans ?_)
    rw [modify_eq_of_getElem? there (g := fun _ => { r with w := w }) (Rep.written_goesOn en was driven)]
  case begins =>
    refine next_congr ((s.hub.afeRepSet_kept output good src die skim).trans ?_)
    rw [modify_eq_of_getElem? there (g := fun _ => _) (Rep.written_begins en was)]
  case off =>
    refine next_congr ((s.hub.afeRepSet_kept output good src die skim).trans ?_)
    rw [Rep.written_off off]
  case sync =>
    refine ⟨_, next_congr (Hub.afeSync_served served), ?length, fun c x there named => ?named, fun c x y there was other => ?other, rfl, rfl⟩
    case length => exact (modAll_length _ _ _).trans (modAll_length _ _ _)
    case named =>
      have was := served.there named
      have marked := modAll_getElem?_mem (fun _ => s.hub.syncMarked) was (s.hub.withSlaves_mem named)
      have started := modAll_getElem?_mem (fun _ => s.hub.syncStarted) marked named
      obtain rfl := Option.some.inj (there.symm.trans started)
      exact ⟨rfl, rfl, rfl, fun a mem => of_decide_eq_true (List.mem_filter.1 mem).2⟩
    case other =>
      have same := (modAll_getElem?_notMem _ (fun _ => s.hub.syncStarted) other).symm.trans there
      rw [modAll_getElem?, was] at same
      obtain rfl := Option.some.inj same
      split
      · exact s.hub.syncMarked_phase y
      · exact ⟨rfl, rfl, rfl⟩

/-- Settles O12: the tests of CHAN_SET are two, BAD_ARG and BUDGET, and a write that passes them is accepted (R64 to R66, R148). -/
theorem chanSetAccepted : Obligations.ChanSetAccepted := fun s chs ws served =>
  ⟨fun d desc pass => next_congr (Hub.chanSet_kept served desc pass _),
    fun d desc fails => by
      obtain ⟨st, e, refused, which⟩ := Hub.chanSet_refused served desc fails (s.hub.boundsFrom none)
      exact ⟨st, e, next_congr refused, which⟩,
    fun noDesc => next_congr (Hub.chanSet_noDesc served noDesc _)⟩

/-- Settles O13: an accepted write of a channel whose octet is held goes into what the hold keeps, over what it holds (R66). -/
theorem heldWrites : Obligations.HeldWrites := by
  intro s c ws d x served held there earlier
  have channel : s.hub.ch c = x := Option.some.inj ((served.there List.mem_cons_self).symm.trans there)
  have kept (w : ChanWrite) : (modAll s.hub.chans [c] (s.hub.taken w))[c]? = some (x.hold w) :=
    (modAll_getElem?_mem (s.hub.taken w) there List.mem_cons_self).trans (congrArg some (s.hub.taken_held held w x))
  refine ⟨fun desc pass => ?chanSet, ?afeSet, fun w good within => ?redSet⟩
  case chanSet =>
    have holds := x.hold_held ⟨some d, none, none, s.hub.boundsFrom none, [], false, s.hub.mgmt.accepts⟩ earlier
    refine ⟨_, _, _, next_congr (Hub.chanSet_kept served desc pass _), rfl, kept _, holds, ChanWrite.onto_desc _ rfl _, ?_, rfl, rfl⟩
    exact Chan.shown_desc _ holds (ChanWrite.onto_desc _ rfl _)
  case afeSet =>
    intro w g good partners within
    have dies : ([c].map chDie).eraseDups = [chDie c] := rfl
    refine ⟨_, _, next_congr (Hub.afeSet_kept served w (List.forall_mem_singleton.2 good) (dies ▸ partners) (List.forall_mem_singleton.2 within) _), rfl,
      kept _, ?_, rfl, rfl⟩
    exact x.shown_hold_afe earlier rfl rfl
  case redSet =>
    have holds := x.hold_held ⟨none, none, some w, s.hub.boundsFrom none, [], false, s.hub.mgmt.accepts⟩ earlier
    refine ⟨_, _, _, next_congr (Hub.capRedSet_kept served (by simpa [channel] using good) (by simpa [channel] using within) _), rfl,
      kept _, holds, rfl, ?_, rfl, rfl⟩
    exact x.shown_hold_red earlier rfl rfl

end

section
/-! PROOFS. Coefficient sets: Obligations.CoefficientSets. -/

namespace Sys2Proof.Machine

/-! ## A hub whose dies serve -/

/-- The shipped hub after reset with its dies in service. -/
def Hub.serving : Hub :=
  { Hub.reset Ident.shipped with dies := (Hub.reset Ident.shipped).dies.map fun x => { x with inService := true } }

theorem Hub.serving_dies : Hub.serving.dies = List.replicate 2 { Die.reset with inService := true } := by
  unfold Hub.serving
  exact List.map_replicate

theorem Hub.serving_shaped : Shaped Hub.serving := by
  refine ⟨List.length_replicate, List.length_replicate, ?_, List.length_replicate, rfl, rfl, rfl, rfl, rfl, rfl, rfl⟩
  rw [Hub.serving_dies, List.length_replicate]
  rfl

theorem Hub.serving_up {d : Nat} (present : d < 2) : Hub.serving.dieDown d = false := by
  have die : Hub.serving.die d = { Die.reset with inService := true } := by
    rw [Hub.die, Hub.serving_dies, List.getD_eq_getElem?_getD, List.getElem?_replicate_of_lt present]
    rfl
  rw [Hub.dieDown, die]
  rfl

/-- Served channels stay so where a channel is changed. -/
theorem Hub.serving_setCh (f : Chan → Chan) : Served (Hub.serving.setCh 0 f) [0] := by
  obtain ⟨chans, octs, dies, ports, rest⟩ := Hub.serving_shaped
  refine ⟨⟨?_, octs, dies, ports, rest⟩, List.cons_ne_nil _ _, List.nodup_singleton _,
    List.forall_mem_singleton.2 ⟨Nat.zero_lt_succ 255, Hub.serving_up (by decide)⟩⟩
  exact (List.length_modify ..).trans chans

theorem Hub.serving_setCh_ch (f : Chan → Chan) : (Hub.serving.setCh 0 f).ch 0 = f Chan.reset := by
  rw [Hub.ch, Hub.setCh_chans, List.getD_eq_getElem?_getD, List.getElem?_modify]
  rfl

/-- Two changes of a channel that leave the same hub leave the same channel. -/
theorem Hub.modCh_inj {h : Hub} {f g : Chan → Chan} {c : Nat} {x : Chan} (there : h.chans[c]? = some x)
    (same : ({ h with chans := modAll h.chans [c] fun _ x => f x } : Hub).ok [] =
      ({ h with chans := modAll h.chans [c] fun _ x => g x } : Hub).ok []) : f x = g x := by
  have changed := congrArg (fun k : Hub => k.chans[c]?) same
  have left := modAll_getElem?_mem (fun _ x => f x) there (List.mem_singleton_self c)
  have right := modAll_getElem?_mem (fun _ x => g x) there (List.mem_singleton_self c)
  exact Option.some.inj (left.symm.trans (Eq.trans changed right))

/-! ## A switch that meets a set on trial (R157) -/

/-- A switch of loaded shadows is accepted on every channel named. -/
theorem Hub.chanCoefSwitch_loaded {h : Hub} {chs : List Nat} (served : Served h chs) {xf : Nat} (short : xf ≤ 65535)
    (loaded : ∀ c ∈ chs, (h.ch c).switching = false ∧ (h.ch c).shadow.isSome = true) : h.chanCoefSwitch chs xf none none =
      ({ h with chans := modAll h.chans chs fun _ x =>
        ({ x with switch := some ⟨none, xf, none, false⟩ } : Chan).endTrial } : Hub).ok [] := by
  have guard : ¬(h.badChs chs = true ∨ 65535 < xf) := by
    rw [Hub.badChs_served served]
    simpa using short
  unfold Hub.chanCoefSwitch
  rw [if_neg guard, Hub.onDies_served served]
  extract_lets waits begun mine busy empty gone
  have notEmpty : (chs.filter fun c => empty c || gone c) = [] := List.filter_eq_nil_iff.2 fun c named => by
    obtain ⟨-, some⟩ := loaded c named
    simp [empty, gone, Option.isNone_iff_eq_none, Option.isSome_iff_ne_none.1 some]
  have free : chs.find? busy = none := List.find?_eq_none.2 fun c named => by
    simp [busy, (loaded c named).1]
  have all : (chs.filter fun c => !begun c) = chs := List.filter_eq_self.2 fun c _ => rfl
  rw [notEmpty, free, all]
  rfl

/-- A loaded channel without a switch whose shadow set nevertheless runs on trial. -/
def Chan.strayTrial (x : Chan) : Chan := { x with shadow := some x.desc.coef, trial := some ⟨0, x.stages⟩ }

/-- A hub with such a channel. -/
def strayHub : Hub := Hub.serving.setCh 0 Chan.strayTrial

theorem strayHub_chans : strayHub.chans[0]? = some (Chan.strayTrial Chan.reset) := by
  rw [strayHub, Hub.setCh_chans, List.getElem?_modify]
  rfl

theorem strayHub_ch : strayHub.ch 0 = Chan.strayTrial Chan.reset := Hub.serving_setCh_ch _

/-- A switch accepted beside a set on trial takes place at once. -/
theorem Chan.strayTrial_endTrial (x : Chan) (xf : Nat) :
    ({ x.strayTrial with switch := some ⟨none, xf, none, false⟩ } : Chan).endTrial.switch = none := by
  unfold Chan.endTrial Chan.beginFade Chan.startFade
  dsimp only [Chan.strayTrial]
  rw [if_neg (by simp [PendingSwitch.reached])]
  split <;> rfl

end Sys2Proof.Machine

open Sys2Proof Sys2Proof.Machine

/-- Refutes O14: of an accepted CHAN_COEF_SWITCH it says that the switch is pending, also where a set runs on trial without a switch of its
own; there the model begins the fade at once (`Chan.endTrial`; that a set on trial takes over as it has run is the model's choice, log entry
116), and no switch is pending. The clause lacks the hypothesis that no set is on trial. -/
theorem not_coefficientSets : ¬Obligations.CoefficientSets := by
  rintro ⟨settings, -⟩
  have served : Served strayHub [0] := Hub.serving_setCh _
  have loaded : ∀ c ∈ [0], (strayHub.ch c).switching = false ∧ (strayHub.ch c).shadow.isSome = true :=
    List.forall_mem_singleton.2 (by rw [strayHub_ch]; exact ⟨rfl, rfl⟩)
  obtain ⟨-, -, -, -, -, -, accepted⟩ := 
    settings ⟨strayHub, []⟩ [0] (List.replicate 136 0) 0 served (Nat.zero_le _) List.length_replicate rfl
  have claimed := accepted loaded
  have made := next_congr (p := []) (Hub.chanCoefSwitch_loaded served (Nat.zero_le _) loaded)
  have same := congrArg State.hub (Host.Outcome.next.inj (claimed.symm.trans made))
  have differ := congrArg Chan.switch (Hub.modCh_inj strayHub_chans same)
  rw [Chan.strayTrial_endTrial] at differ
  exact Option.some_ne_none _ differ

end

section
/-! PROOFS. Views of the lists of a hub: what a change of some of their elements leaves; the core of a channel. -/

namespace Sys2Proof.Machine

/-! ## Changes of a list that a view of its elements does not see -/

theorem map_modAt_of_keeps {α β : Type} {view : α → β} {f : α → α} (keeps : ∀ a, view (f a) = view a) (l : List α) (i : Nat) :
    (modAt l i f).map view = l.map view := by
  refine List.ext_getElem? fun j => ?_
  rw [modAt, List.getElem?_map, List.getElem?_map, List.getElem?_modify]
  cases l[j]? with
  | none => rfl
  | some a => by_cases named : i = j <;> simp [named, keeps]

theorem map_mapIdx_of_keeps {α β : Type} {view : α → β} {f : Nat → α → α} (keeps : ∀ i a, view (f i a) = view a) (l : List α) :
    (l.mapIdx f).map view = l.map view := by
  refine List.ext_getElem? fun j => ?_
  rw [List.getElem?_map, List.getElem?_map, List.getElem?_mapIdx]
  cases l[j]? with
  | none => rfl
  | some a => simp [keeps]

theorem map_modAll_of_keeps {α β : Type} {view : α → β} {f : Nat → α → α} (keeps : ∀ i a, view (f i a) = view a) (l : List α)
    (is : List Nat) : (modAll l is f).map view = l.map view :=
  map_mapIdx_of_keeps (fun i a => by split <;> simp [keeps]) l

theorem map_map_of_keeps {α β : Type} {view : α → β} {f : α → α} (keeps : ∀ a, view (f a) = view a) (l : List α) :
    (l.map f).map view = l.map view := by
  rw [List.map_map]
  exact List.map_congr_left fun a _ => keeps a

/-- What a view of a list keeps, it keeps at each place. -/
theorem getElem?_of_map {α β : Type} {view : α → β} {l m : List α} (same : m.map view = l.map view) {i : Nat} {a : α}
    (there : l[i]? = some a) : ∃ b, m[i]? = some b ∧ view b = view a := by
  have e := congrArg (fun l : List β => l[i]?) same
  simp only [List.getElem?_map, there, Option.map_some, Option.map_eq_some_iff] at e
  exact e

/-! ## The core of a channel -/

/-- What a channel's conversions leave at its front end: the applied words there, the writes that wait and the samples taken. -/
def Chan.front (x : Chan) := (x.desc.afe, x.desc.conv, x.writes, x.lastK, x.orTail, x.hist)

/-- What outputs, records, triggers, captures and faults leave of a channel: its front, the conditions at it, the descriptor,
the comparisons that wait and the skim sample last produced. -/
def Chan.core (x : Chan) := (x.front, x.desc, x.excOl, x.clamped, x.clampCount, x.auditWait,
  x.skim0, x.skim1)

theorem Chan.core_eq (x : Chan) : x.core = ((x.desc.afe, x.desc.conv, x.writes, x.lastK, x.orTail, x.hist), x.desc,
    x.excOl, x.clamped, x.clampCount, x.auditWait, x.skim0, x.skim1) := by
  cases x
  rfl

/-- The cores of a hub's channels. -/
def Hub.chanCores (h : Hub) := h.chans.map Chan.core

theorem forAll_chanCores {α : Type} (f : α → Hub → Hub) (keeps : ∀ a h, (f a h).chanCores = h.chanCores) (l : List α) (h : Hub) :
    (forAll l f h).chanCores = h.chanCores := forAll_keeps Hub.chanCores f keeps l h
theorem iter_chanCores (f : Hub → Hub) (keeps : ∀ h, (f h).chanCores = h.chanCores) (n : Nat) (h : Hub) :
    (iter f n h).chanCores = h.chanCores := iter_keeps Hub.chanCores f keeps n h

theorem Hub.map_core_chans (h : Hub) : h.chans.map Chan.core = h.chanCores := rfl

theorem Hub.chanCores_mk {clk : Clk} {tm : Tm} {chans : List Chan} {octs : List Octet} {reps : List Rep} {dies : List Die}
    {trg : Trg} {caps : List (Option Capture)} {nextTrain : Nat} {saved : List SavedChurn} {jobs : List ChurnJob} {nextHandle nextJob : Nat}
    {flows : List Flow} {strm : Strm} {hk : Hk} {sep : Sep} {ports : List Port} {enm : Enum} {mgmt : Mgmt} {dbw : Dbw} {fseal : Seal}
    {flt : Flt} {cal : Cal} {pwr : Pwr} {pmbus : Pmbus} {boot : Boot} {flash : Flash} {tag : Tag} {tap : Tap} {fresh : Nat} {ident : Ident}
      :
    (Hub.mk ident clk tm chans octs reps dies trg caps nextTrain saved jobs nextHandle nextJob flows strm hk sep ports enm mgmt dbw
      fseal flt cal pwr pmbus boot flash tag tap fresh).chanCores = chans.map Chan.core := rfl

theorem Hub.setCh_chanCores (h : Hub) (c : Nat) {f : Chan → Chan} (keeps : ∀ x, (f x).core = x.core) :
    (h.setCh c f).chanCores = h.chanCores := map_modAt_of_keeps keeps _ _

theorem Hub.mapCh_chanCores (h : Hub) {f : Nat → Chan → Chan} (keeps : ∀ i x, (f i x).core = x.core) :
    (h.mapCh f).chanCores = h.chanCores := map_mapIdx_of_keeps keeps _

@[simp] theorem Chan.setUse_core (raw : Bool) (u : Option ChurnUse) (x : Chan) : (x.setUse raw u).core = x.core := by
  cases raw <;> rfl

@[simp] theorem Chan.driveSet_core (x : Chan) (on : Bool) (cycles el : Nat) : (x.driveSet on cycles el).core = x.core := rfl

@[simp] theorem Hub.setDie_chanCores (h : Hub) (d : Nat) (f : Die → Die) : (h.setDie d f).chanCores = h.chanCores :=
  congrArg (List.map Chan.core) (Hub.setDie_chans ..)
@[simp] theorem Hub.setFlow_chanCores (h : Hub) (k : FlowKey) (g : Flow → Flow) : (h.setFlow k g).chanCores = h.chanCores :=
  congrArg (List.map Chan.core) (Hub.setFlow_chans ..)

@[simp] theorem Hub.spoolTouch_chanCores (h : Hub) (d : Nat) (was : Seqs) : (h.spoolTouch d was).chanCores = h.chanCores := by
  unfold Hub.spoolTouch
  simp only [↓Hub.chanCores_mk, ↓Hub.map_core_chans]
  split
  · rfl
  · split
    · rw [Hub.chanCores_mk, Hub.map_core_chans, Hub.mapCh_chanCores _ fun _ _ => by split <;> rfl, Hub.setDie_chanCores]
    · rw [Hub.setFlow_chanCores, Hub.mapCh_chanCores _ fun _ _ => by split <;> rfl, Hub.chanCores_mk, Hub.map_core_chans]
      refine (iter_chanCores _ (fun g => ?_) _ _).trans (h.setDie_chanCores d _)
      split
      · split
        · exact g.setFlow_chanCores _ _
        · rfl
      · rfl
    · rw [Hub.mapCh_chanCores _ fun _ _ => ?_, Hub.setDie_chanCores]
      split
      · rfl
      · split <;> rfl

@[simp] theorem Hub.sweepPut_chanCores (h : Hub) (raw : Bool) (c : Nat) (x : SweepSample) :
    (h.sweepPut raw c x).chanCores = h.chanCores := by
  simp only [Hub.sweepPut, ↓Hub.setFlow_chanCores]
@[simp] theorem Hub.churnCapture_chanCores (h : Hub) (raw : Bool) (c next : Nat) : (h.churnCapture raw c next).chanCores = h.chanCores := by
  unfold Hub.churnCapture
  split <;> simp only [↓Hub.setCh_chanCores, ↓Hub.chanCores_mk, ↓apply_ite Hub.chanCores, ite_self, implies_true, ↓Hub.setCh_chanCores,
    ↓Hub.map_core_chans, ↓Chan.setUse_core, Chan.core_eq]
@[simp] theorem Hub.tick_chanCores (h : Hub) : h.tick.chanCores = h.chanCores :=
  congrArg (List.map Chan.core) (Hub.tick_chans ..)
@[simp] theorem Hub.setLink_chanCores (h : Hub) (p : Nat) (f : Link → Link) : (h.setLink p f).chanCores = h.chanCores :=
  congrArg (List.map Chan.core) (Hub.setLink_chans ..)
@[simp] theorem Hub.ctl_chanCores (h : Hub) (p code payload : Nat) : (h.ctl p code payload).chanCores = h.chanCores := by
  simp only [Hub.ctl, ↓Hub.setLink_chanCores]
@[simp] theorem Hub.watermarks_chanCores (h : Hub) : h.watermarks.chanCores = h.chanCores := by
  simp only [Hub.watermarks, ↓Hub.ctl_chanCores, ↓Hub.setLink_chanCores, ↓forAll_chanCores, ↓Hub.chanCores_mk, ↓apply_ite Hub.chanCores,
    ite_self, implies_true, ↓Hub.map_core_chans]
@[simp] theorem Hub.emitSince_chanCores (h : Hub) (k : FlowKey) (stream : Nat) (rcd : Bytes) (since : Nat) :
    (h.emitSince k stream rcd since).chanCores = h.chanCores := by
  unfold Hub.emitSince
  split <;> simp only [↓Hub.setFlow_chanCores, ↓Hub.spoolTouch_chanCores, ↓Hub.watermarks_chanCores, ↓apply_ite Hub.chanCores, ite_self]
@[simp] theorem Hub.emitRecord_chanCores (h : Hub) (k : FlowKey) (stream : Nat) (rcd : Bytes) :
    (h.emitRecord k stream rcd).chanCores = h.chanCores := by
  simp only [Hub.emitRecord, ↓Hub.emitSince_chanCores]
@[simp] theorem Hub.hkRecord_chanCores (h : Hub) (t kind : Nat) (payload : Bytes) :
    (h.hkRecord t kind payload).chanCores = h.chanCores := by
  simp only [Hub.hkRecord, ↓Hub.emitRecord_chanCores, ↓Hub.chanCores_mk, ↓apply_ite Hub.chanCores, ite_self, ↓Hub.map_core_chans]
@[simp] theorem Hub.recordAt_chanCores (h : Hub) (t kind : Nat) (payload : Bytes) :
    (h.recordAt t kind payload).chanCores = h.chanCores := by
  simp only [Hub.recordAt, ↓Hub.hkRecord_chanCores, ↓Hub.chanCores_mk, ↓apply_ite Hub.chanCores, ite_self, ↓Hub.map_core_chans]
@[simp] theorem Hub.raise_chanCores (h : Hub) (bit : Nat) : (h.raise bit).chanCores = h.chanCores :=
  congrArg (List.map Chan.core) (Hub.raise_chans ..)
@[simp] theorem Hub.logEntry_chanCores (h : Hub) (t : Nat) (event : Bytes) : (h.logEntry t event).chanCores = h.chanCores := by
  simp only [Hub.logEntry, ↓Hub.chanCores_mk, ↓apply_ite Hub.chanCores, ite_self, ↓Hub.map_core_chans]
@[simp] theorem Hub.eventAt_chanCores (h : Hub) (t : Nat) (unit : Word) (code cls count : Nat) (arg0 arg1 : Word) :
    (h.eventAt t unit code cls count arg0 arg1).chanCores = h.chanCores := by
  simp only [Hub.eventAt, ↓Hub.logEntry_chanCores, ↓Hub.raise_chanCores, ↓Hub.recordAt_chanCores, ↓Hub.chanCores_mk, ↓apply_ite
    Hub.chanCores, ite_self, ↓Hub.map_core_chans]
@[simp] theorem Hub.event_chanCores (h : Hub) (unit : Word) (code cls count : Nat) (arg0 arg1 : Word) :
    (h.event unit code cls count arg0 arg1).chanCores = h.chanCores := by
  simp only [Hub.event, ↓Hub.eventAt_chanCores]
@[simp] theorem Hub.notice_chanCores (h : Hub) (unit : Word) (code : Nat) (arg0 arg1 : Word) :
    (h.notice unit code arg0 arg1).chanCores = h.chanCores := by
  simp only [Hub.notice, ↓Hub.event_chanCores]
@[simp] theorem Hub.retireChan_chanCores (h : Hub) (c code count : Nat) : (h.retireChan c code count).chanCores = h.chanCores := by
  unfold Hub.retireChan
  dsimp only
  repeat' split
  all_goals simp only [↓Hub.event_chanCores, ↓Hub.setCh_chanCores, ↓Hub.setDie_chanCores, implies_true, ↓Hub.setCh_chanCores,
    ↓Chan.driveSet_core, Chan.core_eq]
@[simp] theorem Hub.spareChan_chanCores (h : Hub) (c code : Nat) (readable : Bool) :
    (h.spareChan c code readable).chanCores = h.chanCores := by
  unfold Hub.spareChan
  dsimp only
  repeat' split
  all_goals simp only [↓Hub.notice_chanCores, ↓Hub.retireChan_chanCores, ↓Hub.setCh_chanCores, ↓Hub.setDie_chanCores, implies_true,
    ↓Hub.setCh_chanCores, Chan.core_eq]
@[simp] theorem Hub.setEngWin_chanCores (h : Hub) (d : Nat) (u : Word) (w : Option FaultWin) :
    (h.setEngWin d u w).chanCores = h.chanCores := by
  simp only [Hub.setEngWin, ↓Hub.setDie_chanCores]
theorem Hub.placeUse_chanCores (h : Hub) (d e c : Nat) (others : List Nat) (get : Chan → Option ChurnUse)
    {put : Option ChurnUse → Chan → Chan} (keeps : ∀ u x, (put u x).core = x.core) :
    (h.placeUse d e c others get put).chanCores = h.chanCores := by
  unfold Hub.placeUse
  split
  · rfl
  · split
    · rfl
    · split <;> exact h.setCh_chanCores _ (keeps _)
@[simp] theorem Hub.moveChurn_chanCores (h : Hub) (d e : Nat) : (h.moveChurn d e).chanCores = h.chanCores := by
  rw [h.moveChurn_eq]
  refine forAll_chanCores _ (fun c g => ?_) _ _
  simp only [Hub.placeUses, ↓apply_ite Hub.chanCores, ↓Hub.notice_chanCores, ↓Hub.placeUse_chanCores, Chan.core_eq, implies_true, ite_self]
@[simp] theorem Hub.retireEngine_chanCores (h : Hub) (d typ e : Nat) : (h.retireEngine d typ e).chanCores = h.chanCores := by
  simp only [Hub.retireEngine, ↓Hub.moveChurn_chanCores, ↓Hub.setDie_chanCores, ↓apply_ite Hub.chanCores, ite_self, modAt]
@[simp] theorem Hub.engineFail_chanCores (h : Hub) (d typ e code : Nat) (readable passes : Bool) :
    (h.engineFail d typ e code readable passes).chanCores = h.chanCores := by
  unfold Hub.engineFail
  dsimp only
  repeat' split
  all_goals simp only [↓Hub.event_chanCores, ↓Hub.retireEngine_chanCores, ↓Hub.setDie_chanCores, ↓Hub.setEngWin_chanCores,
    ↓Hub.spareChan_chanCores, ↓Hub.chanCores_mk, ↓Hub.map_core_chans]
@[simp] theorem Hub.churnMismatch_chanCores (h : Hub) (d e : Nat) : (h.churnMismatch d e).chanCores = h.chanCores := by
  simp only [Hub.churnMismatch, ↓Hub.engineFail_chanCores, ↓Hub.event_chanCores, ↓Hub.setDie_chanCores, ↓Hub.tick_chanCores, ↓apply_ite
    Hub.chanCores, ite_self,
    modAt]
@[simp] theorem Hub.churnClose_chanCores (h : Hub) (raw : Bool) (c : Nat) : (h.churnClose raw c).chanCores = h.chanCores := by
  unfold Hub.churnClose
  split <;> simp only [↓Hub.churnCapture_chanCores, ↓Hub.churnMismatch_chanCores, ↓Hub.setCh_chanCores, ↓Hub.sweepPut_chanCores,
    ↓Hub.tick_chanCores, ↓apply_ite Hub.chanCores, ite_self, implies_true, ↓Hub.setCh_chanCores, ↓Chan.setUse_core, Chan.core_eq]
@[simp] theorem Hub.churnBreak_chanCores (h : Hub) (raw : Bool) (c : Nat) : (h.churnBreak raw c).chanCores = h.chanCores := by
  simp only [Hub.churnBreak, ↓Hub.churnClose_chanCores, ↓Hub.setCh_chanCores, implies_true, ↓Hub.setCh_chanCores, ↓Chan.setUse_core,
    Chan.core_eq]
@[simp] theorem Hub.churnEra_chanCores (h : Hub) (raw : Bool) (c b : Nat) : (h.churnEra raw c b).chanCores = h.chanCores := by
  unfold Hub.churnEra
  split <;> simp only [↓Hub.churnBreak_chanCores, ↓apply_ite Hub.chanCores, ite_self]
@[simp] theorem Hub.churnTake_chanCores (h : Hub) (raw : Bool) (c idx inst : Nat) (x : Sample) :
    (h.churnTake raw c idx inst x).chanCores = h.chanCores := by
  unfold Hub.churnTake
  dsimp only
  repeat' split
  all_goals simp only [↓Hub.churnCapture_chanCores, ↓Hub.churnClose_chanCores, ↓Hub.churnEra_chanCores, ↓Hub.setCh_chanCores,
    ↓Hub.setFlow_chanCores, implies_true, ↓Hub.setCh_chanCores, ↓Chan.setUse_core, Chan.core_eq]
@[simp] theorem Hub.setCap_chanCores (h : Hub) (n : Nat) (f : Capture → Capture) : (h.setCap n f).chanCores = h.chanCores :=
  congrArg (List.map Chan.core) (Hub.setCap_chans ..)
@[simp] theorem Hub.setCoach_chanCores (h : Hub) (d seq : Nat) (f : Coach → Coach) : (h.setCoach d seq f).chanCores = h.chanCores := by
  simp only [Hub.setCoach, ↓Hub.setDie_chanCores]
@[simp] theorem Hub.reserveDie_chanCores (n : Nat) (eval : Bool) (d : Nat) (h : Hub) :
    (Hub.reserveDie n eval d h).chanCores = h.chanCores := by
  unfold Hub.reserveDie
  dsimp only
  repeat' split
  all_goals simp only [↓Hub.notice_chanCores, ↓Hub.setCap_chanCores, ↓Hub.chanCores_mk, implies_true, ↓map_modAll_of_keeps,
    ↓Hub.map_core_chans, Chan.core_eq]
@[simp] theorem Hub.retryWait_chanCores (h : Hub) (d : Nat) : (h.retryWait d).chanCores = h.chanCores := by
  refine forAll_chanCores _ (fun n g => ?_) _ _
  split <;> simp only [↓apply_ite Hub.chanCores, ↓Hub.reserveDie_chanCores, ite_self]
@[simp] theorem Hub.reserve_chanCores (h : Hub) (n : Nat) : (h.reserve n).chanCores = h.chanCores := by
  unfold Hub.reserve
  split <;> simp only [↓Hub.reserveDie_chanCores, ↓forAll_chanCores, implies_true]
@[simp] theorem Hub.flowTouch_chanCores (h : Hub) (d : Nat) : (h.flowTouch d).chanCores = h.chanCores := by
  simp only [Hub.flowTouch, ↓Hub.spoolTouch_chanCores, ↓Hub.watermarks_chanCores]
@[simp] theorem Hub.record_chanCores (h : Hub) (kind : Nat) (payload : Bytes) : (h.record kind payload).chanCores = h.chanCores := by
  simp only [Hub.record, ↓Hub.recordAt_chanCores]
@[simp] theorem Hub.coachRecord_chanCores (h : Hub) (k : FlowKey) (stream first : Nat) (b : Bytes) :
    (h.coachRecord k stream first b).1.chanCores = h.chanCores := by
  unfold Hub.coachRecord
  split
  · rfl
  · exact h.setFlow_chanCores _ _
@[simp] theorem Hub.sendCoach_chanCores (h : Hub) (d : Nat) (c : Coach) : (h.sendCoach d c).chanCores = h.chanCores := by
  unfold Hub.sendCoach
  simp only [↓Hub.setCoach_chanCores, ↓Hub.coachRecord_chanCores]
  split
  · simp only [↓apply_ite Hub.chanCores, ↓Hub.setDie_chanCores, ↓Hub.coachRecord_chanCores, ite_self]
  · rfl
@[simp] theorem Hub.sendWanted_chanCores (h : Hub) (d : Nat) : (h.sendWanted d).chanCores = h.chanCores := by
  simp only [Hub.sendWanted, ↓Hub.flowTouch_chanCores, ↓Hub.sendCoach_chanCores, ↓forAll_chanCores, ↓apply_ite Hub.chanCores, ite_self,
    implies_true]
@[simp] theorem Hub.disarm_chanCores (h : Hub) (n : Nat) : (h.disarm n).chanCores = h.chanCores := by
  simp only [Hub.disarm, ↓Hub.retryWait_chanCores, ↓forAll_chanCores, ↓Hub.chanCores_mk, implies_true, ↓map_modAll_of_keeps,
    ↓Hub.map_core_chans, Chan.core_eq]
@[simp] theorem Hub.trainDone_chanCores (h : Hub) (n : Nat) : (h.trainDone n).chanCores = h.chanCores := by
  unfold Hub.trainDone
  repeat' split
  all_goals simp only [↓Hub.disarm_chanCores, ↓Hub.notice_chanCores, ↓Hub.reserve_chanCores, ↓Hub.sendWanted_chanCores,
    ↓Hub.setCap_chanCores, ↓Hub.setDie_chanCores,
    ↓forAll_chanCores, implies_true]
@[simp] theorem Hub.coachPayload_chanCores (h : Hub) (c : Coach) : (h.coachPayload c).1.chanCores = h.chanCores := by
  unfold Hub.coachPayload
  split <;> simp only [↓Hub.churnMismatch_chanCores, ↓Hub.setCh_chanCores, ↓iter_chanCores, ↓Hub.chanCores_mk, implies_true,
    ↓Hub.setCh_chanCores, ↓Hub.map_core_chans, Chan.core_eq]
@[simp] theorem Hub.coachDone_chanCores (h : Hub) (d seq : Nat) : (h.coachDone d seq).chanCores = h.chanCores := by
  unfold Hub.coachDone
  split
  · rfl
  · next c _ =>
    have paid := h.coachPayload_chanCores c
    generalize h.coachPayload c = formed at paid ⊢
    obtain ⟨g, pay, churn⟩ := formed
    simp only [↓Hub.trainDone_chanCores, ↓apply_ite Hub.chanCores, ↓Hub.retryWait_chanCores, ↓Hub.setCap_chanCores,
      ↓Hub.setCoach_chanCores, ite_self]
    exact paid
@[simp] theorem Hub.capTake_chanCores (n c idx : Nat) (v0 v1 : Int) (flags : Byte) (h : Hub) :
    (Hub.capTake n c idx v0 v1 flags h).chanCores = h.chanCores := by
  unfold Hub.capTake
  split
  · rfl
  · split
    · rfl
    · extract_lets d p step f out a b all rt u fm u' s keep y' g
      have kept : g.chanCores = h.chanCores := h.setCap_chanCores _ _
      split
      · exact kept
      · split
        · exact kept
        · split
          · exact kept
          · dsimp only
            split
            · rw [Hub.coachDone_chanCores, Hub.setCoach_chanCores, kept]
            · rw [Hub.setCoach_chanCores, kept]
@[simp] theorem Hub.capFeed_chanCores (h : Hub) (src c idx : Nat) (v0 v1 : Int) (flags : Byte) :
    (h.capFeed src c idx v0 v1 flags).chanCores = h.chanCores := by
  refine forAll_chanCores _ (fun n g => ?_) _ _
  split <;> simp only [↓apply_ite Hub.chanCores, ↓Hub.capTake_chanCores, ite_self]
@[simp] theorem Hub.konEvent_chanCores (h : Hub) (who stamp : Nat) : (h.konEvent who stamp).chanCores = h.chanCores := by
  simp only [Hub.konEvent, ↓Hub.chanCores_mk, ↓Hub.map_core_chans]
@[simp] theorem Hub.trigLate_chanCores (h : Hub) (t who limit : Nat) : (h.trigLate t who limit).chanCores = h.chanCores := by
  simp only [Hub.trigLate, ↓Hub.eventAt_chanCores]
@[simp] theorem Hub.startCoach_chanCores (n : Nat) (t : Trigger) (trainId missed : Nat) (y : CapChan) (h : Hub) :
    (Hub.startCoach n t trainId missed y h).chanCores = h.chanCores := by
  unfold Hub.startCoach
  split <;> simp only [↓Hub.setCap_chanCores, ↓Hub.setCh_chanCores, ↓Hub.setDie_chanCores, ↓Hub.trigLate_chanCores, ↓Hub.chanCores_mk,
    ↓apply_ite Hub.chanCores, ite_self, implies_true, ↓Hub.setCh_chanCores, ↓Hub.map_core_chans, Chan.core_eq]
@[simp] theorem Hub.coachFull_chanCores (n c : Nat) (h : Hub) : (Hub.coachFull n c h).chanCores = h.chanCores := by
  unfold Hub.coachFull
  split <;> simp only [↓Hub.coachDone_chanCores, ↓apply_ite Hub.chanCores, ite_self]
@[simp] theorem Hub.capJoin_chanCores (h : Hub) (n id source : Nat) (c : Capture) : (h.capJoin n id source c).chanCores = h.chanCores := by
  simp only [Hub.capJoin, ↓Hub.setCap_chanCores, ↓Hub.setDie_chanCores, ↓forAll_chanCores, implies_true]
@[simp] theorem Hub.capHit_chanCores (n : Nat) (t : Trigger) (h : Hub) : (Hub.capHit n t h).chanCores = h.chanCores := by
  unfold Hub.capHit
  dsimp only
  repeat' split
  all_goals simp only [↓Hub.capJoin_chanCores, ↓Hub.coachFull_chanCores, ↓Hub.setCap_chanCores, ↓Hub.startCoach_chanCores,
    ↓Hub.trainDone_chanCores, ↓forAll_chanCores, ↓Hub.chanCores_mk, implies_true, ↓Hub.map_core_chans]
@[simp] theorem Hub.capFire_chanCores (h : Hub) (t : Trigger) (sel : CapParams → Bool) : (h.capFire t sel).chanCores = h.chanCores := by
  refine forAll_chanCores _ (fun n g => ?_) _ _
  split <;> simp only [↓apply_ite Hub.chanCores, ↓Hub.capHit_chanCores, ite_self]
@[simp] theorem Hub.queue_chanCores (h : Hub) (p : Nat) (f : Frame) : (h.queue p f).chanCores = h.chanCores := by
  simp only [Hub.queue, ↓Hub.setLink_chanCores, modAt]
@[simp] theorem Hub.originate_chanCores (h : Hub) (cls kind : Nat) (body : Bytes) :
    (h.originate cls kind body).chanCores = h.chanCores := by
  simp only [Hub.originate, ↓Hub.queue_chanCores, ↓apply_ite Hub.chanCores, ite_self]
@[simp] theorem Hub.arrAct_chanCores (h : Hub) (m : ArrMsg) : (h.arrAct m).chanCores = h.chanCores := by
  simp only [Hub.arrAct, ↓Hub.capFire_chanCores, ↓Hub.trigLate_chanCores, ↓Hub.chanCores_mk, ↓apply_ite Hub.chanCores, ite_self,
    ↓Hub.map_core_chans]
@[simp] theorem Hub.arrOriginate_chanCores (h : Hub) (t : Trigger) (group : Nat) : (h.arrOriginate t group).chanCores = h.chanCores := by
  simp only [Hub.arrOriginate, ↓Hub.arrAct_chanCores, ↓Hub.originate_chanCores, ↓Hub.chanCores_mk, ↓apply_ite Hub.chanCores, ite_self,
    ↓Hub.map_core_chans]
@[simp] theorem Hub.detRecord_chanCores (h : Hub) (d : Nat) (b : Bytes) : (h.detRecord d b).chanCores = h.chanCores := by
  simp only [Hub.detRecord, ↓Hub.emitRecord_chanCores]
@[simp] theorem Hub.fire_chanCores (h : Hub) (d source stamp missed info : Nat) (flags : Byte) (route : Word) (sel : CapParams → Bool) :
    (h.fire d source stamp missed info flags route sel).chanCores = h.chanCores := by
  simp only [Hub.fire, ↓Hub.arrOriginate_chanCores, ↓Hub.capFire_chanCores, ↓Hub.detRecord_chanCores, ↓Hub.chanCores_mk, ↓apply_ite
    Hub.chanCores, ite_self, ↓Hub.map_core_chans]
@[simp] theorem Hub.fireChan_chanCores (h : Hub) (c stamp missed info : Nat) (flags : Byte) (route : Word) :
    (h.fireChan c stamp missed info flags route).chanCores = h.chanCores := by
  simp only [Hub.fireChan, ↓Hub.fire_chanCores, ↓Hub.konEvent_chanCores]
@[simp] theorem Hub.trigSettle_chanCores (h : Hub) (c : Nat) (next : Option (Nat × Int × Byte)) :
    (h.trigSettle c next).chanCores = h.chanCores := by
  unfold Hub.trigSettle
  dsimp only
  repeat' split
  all_goals simp only [↓Hub.fireChan_chanCores, ↓Hub.setCh_chanCores, implies_true, ↓Hub.setCh_chanCores, Chan.core_eq]
@[simp] theorem Hub.trigTake_chanCores (h : Hub) (c t : Nat) (x : Int) (f : Byte) : (h.trigTake c t x f).chanCores = h.chanCores := by
  unfold Hub.trigTake
  dsimp only
  repeat' split
  all_goals simp only [↓Hub.fireChan_chanCores, ↓Hub.setCh_chanCores, ↓Hub.trigSettle_chanCores, implies_true, ↓Hub.setCh_chanCores,
    Chan.core_eq]
@[simp] theorem Hub.trigSkip_chanCores (h : Hub) (c : Nat) : (h.trigSkip c).chanCores = h.chanCores := by
  simp only [Hub.trigSkip, ↓Hub.trigSettle_chanCores]
@[simp] theorem Hub.rawOut_chanCores (h : Hub) (c : Nat) (e : RawEntry) (f : Byte) (skip : Bool) :
    (h.rawOut c e f skip).chanCores = h.chanCores := by
  simp only [Hub.rawOut, ↓Hub.capFeed_chanCores, ↓Hub.churnTake_chanCores, ↓Hub.sweepPut_chanCores, ↓Hub.trigSkip_chanCores,
    ↓Hub.trigTake_chanCores, ↓apply_ite
    Hub.chanCores, ite_self]
@[simp] theorem Hub.repTake_chanCores (v : Int) (f : Byte) (n : Nat) (h : Hub) : (Hub.repTake v f n h).chanCores = h.chanCores := by
  simp only [Hub.repTake, ↓Hub.notice_chanCores, ↓Hub.chanCores_mk, ↓apply_ite Hub.chanCores, ite_self, ↓Hub.map_core_chans]
@[simp] theorem Hub.sweepRate_chanCores (h : Hub) (raw : Bool) (c inst num den words cause : Nat) :
    (h.sweepRate raw c inst num den words cause).chanCores = h.chanCores := by
  simp only [Hub.sweepRate, ↓Hub.sweepPut_chanCores]
@[simp] theorem Hub.skimStream_chanCores (h : Hub) (c j inst : Nat) (v0 v1 : Int) (f : Byte) :
    (h.skimStream c j inst v0 v1 f).chanCores = h.chanCores := by
  unfold Hub.skimStream
  dsimp only
  repeat' split
  all_goals simp only [↓Hub.churnTake_chanCores, ↓Hub.setCh_chanCores, ↓Hub.sweepPut_chanCores, ↓Hub.sweepRate_chanCores, implies_true,
    ↓Hub.setCh_chanCores, Chan.core_eq]
@[simp] theorem Hub.trigDet_chanCores (h : Hub) (c : Nat) (second : Bool) (t : Nat) (v : Int) (f : Byte) (skip : Bool) :
    (h.trigDet c second t v f skip).chanCores = h.chanCores := by
  unfold Hub.trigDet
  dsimp only
  repeat' split
  all_goals simp only [↓Hub.fireChan_chanCores, ↓Hub.setCh_chanCores, implies_true, ↓Hub.setCh_chanCores, Chan.core_eq]
@[simp] theorem Hub.detTake_chanCores (h : Hub) (c j t : Nat) (second : Bool) (v0 v1 : Int) (f : Byte) (skip : Bool) :
    (h.detTake c j t second v0 v1 f skip).chanCores = h.chanCores := by
  simp only [Hub.detTake, ↓Hub.detRecord_chanCores, ↓Hub.setCh_chanCores, ↓Hub.trigDet_chanCores, ↓apply_ite Hub.chanCores, ite_self,
    implies_true, ↓Hub.setCh_chanCores, ↓apply_ite Chan.core, Chan.core_eq]
@[simp] theorem Hub.thrTake_chanCores (h : Hub) (c t n : Nat) (v : Int) (f : Byte) : (h.thrTake c t n v f).chanCores = h.chanCores := by
  unfold Hub.thrTake
  dsimp only
  repeat' split
  all_goals simp only [↓Hub.detRecord_chanCores, ↓Hub.setCh_chanCores, implies_true, ↓Hub.setCh_chanCores, Chan.core_eq]
@[simp] theorem Hub.redClose_chanCores (h : Hub) (c : Nat) (part : Bool) : (h.redClose c part).chanCores = h.chanCores := by
  unfold Hub.redClose
  dsimp only
  repeat' split
  all_goals simp only [↓Hub.emitSince_chanCores, ↓Hub.setCh_chanCores, implies_true, ↓Hub.setCh_chanCores, Chan.core_eq]
@[simp] theorem Hub.skimTurn_chanCores (h : Hub) (c j : Nat) : (h.skimTurn c j).chanCores = h.chanCores := by
  unfold Hub.skimTurn
  dsimp only
  repeat' split
  all_goals simp only [↓Hub.churnBreak_chanCores, ↓Hub.setCh_chanCores, ↓Hub.sweepRate_chanCores, implies_true, ↓Hub.setCh_chanCores,
    Chan.core_eq]
@[simp] theorem Hub.redTake_chanCores (h : Hub) (c j : Nat) (v0 v1 : Int) (f : Byte) : (h.redTake c j v0 v1 f).chanCores = h.chanCores := by
  simp only [Hub.redTake, ↓Hub.redClose_chanCores, ↓Hub.setCh_chanCores, ↓Hub.skimTurn_chanCores, ↓apply_ite Hub.chanCores, ite_self,
    implies_true, ↓Hub.setCh_chanCores, Chan.core_eq]
@[simp] theorem Hub.skipInHold_chanCores (h : Hub) (c code : Nat) : (h.skipInHold c code).chanCores = h.chanCores := by
  simp only [Hub.skipInHold, ↓Hub.setCh_chanCores, ↓apply_ite Hub.chanCores, ite_self, implies_true, ↓Hub.setCh_chanCores, Chan.core_eq]
@[simp] theorem Hub.chanFault_chanCores (h : Hub) (c code : Nat) : (h.chanFault c code).chanCores = h.chanCores := by
  simp only [Hub.chanFault, ↓Hub.retireChan_chanCores, ↓Hub.setCh_chanCores, ↓Hub.skipInHold_chanCores, ↓apply_ite Hub.chanCores, ite_self,
    implies_true, ↓Hub.setCh_chanCores, Chan.core_eq]
@[simp] theorem Hub.setAudit_chanCores (h : Hub) (d : Nat) (f : Audit → Audit) : (h.setAudit d f).chanCores = h.chanCores := by
  simp only [Hub.setAudit, ↓Hub.setDie_chanCores]
@[simp] theorem Hub.urgent_chanCores (h : Hub) (d e : Nat) : (h.urgent d e).chanCores = h.chanCores := by
  simp only [Hub.urgent, ↓Hub.setAudit_chanCores]
@[simp] theorem Hub.urgentChan_chanCores (h : Hub) (c : Nat) : (h.urgentChan c).chanCores = h.chanCores := by
  simp only [Hub.urgentChan, ↓Hub.urgent_chanCores]
@[simp] theorem Hub.reSweep_chanCores (h : Hub) (d : Nat) : (h.reSweep d).chanCores = h.chanCores := by
  simp only [Hub.reSweep, ↓Hub.chanCores_mk, ↓Hub.map_core_chans]
@[simp] theorem Hub.calQueue_chanCores (h : Hub) (o : Nat) : (h.calQueue o).chanCores = h.chanCores := by
  simp only [Hub.calQueue, ↓Hub.chanCores_mk, ↓apply_ite Hub.chanCores, ite_self, ↓Hub.map_core_chans]
@[simp] theorem Hub.cmRecognised_chanCores (h : Hub) (c : Nat) : (h.cmRecognised c).chanCores = h.chanCores := by
  simp only [Hub.cmRecognised, ↓Hub.chanFault_chanCores, ↓Hub.setCh_chanCores, ↓Hub.urgentChan_chanCores, ↓apply_ite Hub.chanCores,
    ite_self, implies_true, ↓Hub.setCh_chanCores, Chan.core_eq]
@[simp] theorem Hub.cutCoach_chanCores (h : Hub) (n c : Nat) : (h.cutCoach n c).chanCores = h.chanCores := by
  unfold Hub.cutCoach
  split <;> simp only [↓Hub.coachDone_chanCores, ↓Hub.retryWait_chanCores, ↓Hub.setCap_chanCores, ↓Hub.setCoach_chanCores,
    ↓Hub.setDie_chanCores,
    ↓Hub.trainDone_chanCores, ↓apply_ite Hub.chanCores, ite_self]
@[simp] theorem Hub.capRate_chanCores (h : Hub) (src c : Nat) : (h.capRate src c).chanCores = h.chanCores := by
  refine forAll_chanCores _ (fun n g => ?_) _ _
  split <;> simp only [↓apply_ite Hub.chanCores, ↓Hub.setCap_chanCores, ↓Hub.cutCoach_chanCores, ite_self]
@[simp] theorem Hub.endOld_chanCores (h : Hub) (c inst : Nat) (a b : Desc) (red : Option Word) :
    (h.endOld c inst a b red).chanCores = h.chanCores := by
  simp only [Hub.endOld, ↓Hub.capRate_chanCores, ↓Hub.churnBreak_chanCores, ↓Hub.redClose_chanCores, ↓Hub.trigSkip_chanCores, ↓apply_ite
    Hub.chanCores, ite_self]

@[simp] theorem Hub.guardTake_tm (h : Hub) (c : Nat) (mv : Int) : (h.guardTake c mv).tm = h.tm := by
  simp only [Hub.guardTake, ↓Hub.setCh_tm, ↓Hub.setOct_tm, ↓apply_ite Hub.tm, ite_self]
@[simp] theorem Hub.skipInHold_tm (h : Hub) (c code : Nat) : (h.skipInHold c code).tm = h.tm := by
  simp only [Hub.skipInHold, ↓Hub.setCh_tm, ↓apply_ite Hub.tm, ite_self]
@[simp] theorem Hub.chanFault_tm (h : Hub) (c code : Nat) : (h.chanFault c code).tm = h.tm := by
  simp only [Hub.chanFault, ↓Hub.retireChan_tm, ↓Hub.setCh_tm, ↓Hub.skipInHold_tm, ↓apply_ite Hub.tm, ite_self]
@[simp] theorem Hub.setAudit_tm (h : Hub) (d : Nat) (f : Audit → Audit) : (h.setAudit d f).tm = h.tm := by
  simp only [Hub.setAudit, ↓Hub.setDie_tm]
@[simp] theorem Hub.urgent_tm (h : Hub) (d e : Nat) : (h.urgent d e).tm = h.tm := by
  simp only [Hub.urgent, ↓Hub.setAudit_tm]
@[simp] theorem Hub.urgentChan_tm (h : Hub) (c : Nat) : (h.urgentChan c).tm = h.tm := by
  simp only [Hub.urgentChan, ↓Hub.urgent_tm]
@[simp] theorem Hub.cmRecognised_tm (h : Hub) (c : Nat) : (h.cmRecognised c).tm = h.tm := by
  simp only [Hub.cmRecognised, ↓Hub.chanFault_tm, ↓Hub.setCh_tm, ↓Hub.urgentChan_tm, ↓apply_ite Hub.tm, ite_self]
@[simp] theorem Hub.capTake_tm (n c idx : Nat) (v0 v1 : Int) (flags : Byte) (h : Hub) :
    (Hub.capTake n c idx v0 v1 flags h).tm = h.tm := by
  unfold Hub.capTake
  split
  · rfl
  · split
    · rfl
    · extract_lets d p step f out a b all rt u fm u' s keep y' g
      have kept : g.tm = h.tm := h.setCap_tm _ _
      split
      · exact kept
      · split
        · exact kept
        · split
          · exact kept
          · dsimp only
            split
            · rw [Hub.coachDone_tm, Hub.setCoach_tm, kept]
            · rw [Hub.setCoach_tm, kept]
@[simp] theorem Hub.capFeed_tm (h : Hub) (src c idx : Nat) (v0 v1 : Int) (flags : Byte) : (h.capFeed src c idx v0 v1 flags).tm = h.tm := by
  refine forAll_tm _ (fun n g => ?_) _ _
  split <;> simp only [↓apply_ite Hub.tm, ↓Hub.capTake_tm, ite_self]
@[simp] theorem Hub.redClose_tm (h : Hub) (c : Nat) (part : Bool) : (h.redClose c part).tm = h.tm := by
  unfold Hub.redClose
  dsimp only
  repeat' split
  all_goals simp only [↓Hub.emitSince_tm, ↓Hub.setCh_tm]
@[simp] theorem Hub.sweepRate_tm (h : Hub) (raw : Bool) (c inst num den words cause : Nat) :
    (h.sweepRate raw c inst num den words cause).tm = h.tm := by
  simp only [Hub.sweepRate, ↓Hub.sweepPut_tm]
@[simp] theorem Hub.skimTurn_tm (h : Hub) (c j : Nat) : (h.skimTurn c j).tm = h.tm := by
  unfold Hub.skimTurn
  dsimp only
  repeat' split
  all_goals simp only [↓Hub.churnBreak_tm, ↓Hub.setCh_tm, ↓Hub.sweepRate_tm]
@[simp] theorem Hub.redTake_tm (h : Hub) (c j : Nat) (v0 v1 : Int) (f : Byte) : (h.redTake c j v0 v1 f).tm = h.tm := by
  simp only [Hub.redTake, ↓Hub.redClose_tm, ↓Hub.setCh_tm, ↓Hub.skimTurn_tm, ↓apply_ite Hub.tm, ite_self]
@[simp] theorem Hub.konEvent_tm (h : Hub) (who stamp : Nat) : (h.konEvent who stamp).tm = h.tm := by
  simp only [Hub.konEvent, ↓Hub.tm_mk]
@[simp] theorem Hub.trigLate_tm (h : Hub) (t who limit : Nat) : (h.trigLate t who limit).tm = h.tm := by
  simp only [Hub.trigLate, ↓Hub.eventAt_tm]
@[simp] theorem Hub.startCoach_tm (n : Nat) (t : Trigger) (trainId missed : Nat) (y : CapChan) (h : Hub) :
    (Hub.startCoach n t trainId missed y h).tm = h.tm := by
  unfold Hub.startCoach
  split <;> simp only [↓Hub.setCap_tm, ↓Hub.setCh_tm, ↓Hub.setDie_tm, ↓Hub.trigLate_tm, ↓Hub.tm_mk, ↓apply_ite Hub.tm,
    ite_self]
@[simp] theorem Hub.coachFull_tm (n c : Nat) (h : Hub) : (Hub.coachFull n c h).tm = h.tm := by
  unfold Hub.coachFull
  split <;> simp only [↓Hub.coachDone_tm, ↓apply_ite Hub.tm, ite_self]
@[simp] theorem Hub.capJoin_tm (h : Hub) (n id source : Nat) (c : Capture) : (h.capJoin n id source c).tm = h.tm := by
  refine (forAll_tm _ (fun d g => ?_) _ _).trans (Hub.setCap_tm ..)
  exact Hub.setDie_tm ..
@[simp] theorem Hub.capHit_tm (n : Nat) (t : Trigger) (h : Hub) : (Hub.capHit n t h).tm = h.tm := by
  unfold Hub.capHit
  repeat' split
  all_goals simp only [↓Hub.capJoin_tm, ↓Hub.coachFull_tm, ↓Hub.setCap_tm, ↓Hub.startCoach_tm, ↓Hub.trainDone_tm, ↓forAll_tm,
    ↓Hub.tm_mk, implies_true]
@[simp] theorem Hub.capFire_tm (h : Hub) (t : Trigger) (sel : CapParams → Bool) : (h.capFire t sel).tm = h.tm := by
  refine forAll_tm _ (fun n g => ?_) _ _
  split <;> simp only [↓apply_ite Hub.tm, ↓Hub.capHit_tm, ite_self]
@[simp] theorem Hub.queue_tm (h : Hub) (p : Nat) (f : Frame) : (h.queue p f).tm = h.tm := by
  simp only [Hub.queue, ↓Hub.setLink_tm, modAt]
@[simp] theorem Hub.originate_tm (h : Hub) (cls kind : Nat) (body : Bytes) : (h.originate cls kind body).tm = h.tm := by
  simp only [Hub.originate, ↓Hub.queue_tm, ↓apply_ite Hub.tm, ite_self]
@[simp] theorem Hub.arrAct_tm (h : Hub) (m : ArrMsg) : (h.arrAct m).tm = h.tm := by
  simp only [Hub.arrAct, ↓Hub.capFire_tm, ↓Hub.trigLate_tm, ↓Hub.tm_mk, ↓apply_ite Hub.tm, ite_self]
@[simp] theorem Hub.arrOriginate_tm (h : Hub) (t : Trigger) (group : Nat) : (h.arrOriginate t group).tm = h.tm := by
  simp only [Hub.arrOriginate, ↓Hub.arrAct_tm, ↓Hub.originate_tm, ↓Hub.tm_mk, ↓apply_ite Hub.tm, ite_self]
@[simp] theorem Hub.detRecord_tm (h : Hub) (d : Nat) (b : Bytes) : (h.detRecord d b).tm = h.tm := by
  simp only [Hub.detRecord, ↓Hub.emitRecord_tm]
@[simp] theorem Hub.fire_tm (h : Hub) (d source stamp missed info : Nat) (flags : Byte) (route : Word) (sel : CapParams → Bool) :
    (h.fire d source stamp missed info flags route sel).tm = h.tm := by
  simp only [Hub.fire, ↓Hub.arrOriginate_tm, ↓Hub.capFire_tm, ↓Hub.detRecord_tm, ↓Hub.tm_mk, ↓apply_ite Hub.tm, ite_self]
@[simp] theorem Hub.fireChan_tm (h : Hub) (c stamp missed info : Nat) (flags : Byte) (route : Word) :
    (h.fireChan c stamp missed info flags route).tm = h.tm := by
  simp only [Hub.fireChan, ↓Hub.fire_tm, ↓Hub.konEvent_tm]
@[simp] theorem Hub.trigSettle_tm (h : Hub) (c : Nat) (next : Option (Nat × Int × Byte)) : (h.trigSettle c next).tm = h.tm := by
  unfold Hub.trigSettle
  repeat' split
  all_goals simp only [↓Hub.fireChan_tm, ↓Hub.setCh_tm]
@[simp] theorem Hub.trigTake_tm (h : Hub) (c t : Nat) (x : Int) (f : Byte) : (h.trigTake c t x f).tm = h.tm := by
  unfold Hub.trigTake
  dsimp only
  repeat' split
  all_goals simp only [↓Hub.fireChan_tm, ↓Hub.setCh_tm, ↓Hub.trigSettle_tm]
@[simp] theorem Hub.trigSkip_tm (h : Hub) (c : Nat) : (h.trigSkip c).tm = h.tm := by
  simp only [Hub.trigSkip, ↓Hub.trigSettle_tm]
@[simp] theorem Hub.trigDet_tm (h : Hub) (c : Nat) (second : Bool) (t : Nat) (v : Int) (f : Byte) (skip : Bool) :
    (h.trigDet c second t v f skip).tm = h.tm := by
  unfold Hub.trigDet
  dsimp only
  repeat' split
  all_goals simp only [↓Hub.fireChan_tm, ↓Hub.setCh_tm]
@[simp] theorem Hub.detTake_tm (h : Hub) (c j t : Nat) (second : Bool) (v0 v1 : Int) (f : Byte) (skip : Bool) :
    (h.detTake c j t second v0 v1 f skip).tm = h.tm := by
  simp only [Hub.detTake, ↓Hub.detRecord_tm, ↓Hub.setCh_tm, ↓Hub.trigDet_tm, ↓apply_ite Hub.tm, ite_self]
@[simp] theorem Hub.thrTake_tm (h : Hub) (c t n : Nat) (v : Int) (f : Byte) : (h.thrTake c t n v f).tm = h.tm := by
  unfold Hub.thrTake
  dsimp only
  repeat' split
  all_goals simp only [↓Hub.detRecord_tm, ↓Hub.setCh_tm]
@[simp] theorem Hub.repTake_tm (v : Int) (f : Byte) (n : Nat) (h : Hub) : (Hub.repTake v f n h).tm = h.tm := by
  simp only [Hub.repTake, ↓Hub.notice_tm, ↓Hub.tm_mk, ↓apply_ite Hub.tm, ite_self, modAt]
@[simp] theorem Hub.churnTake_tm (h : Hub) (raw : Bool) (c idx inst : Nat) (x : Sample) : (h.churnTake raw c idx inst x).tm = h.tm := by
  unfold Hub.churnTake
  dsimp only
  repeat' split
  all_goals simp only [↓Hub.churnCapture_tm, ↓Hub.churnClose_tm, ↓Hub.churnEra_tm, ↓Hub.setCh_tm, ↓Hub.setFlow_tm]
@[simp] theorem Hub.skimStream_tm (h : Hub) (c j inst : Nat) (v0 v1 : Int) (f : Byte) : (h.skimStream c j inst v0 v1 f).tm = h.tm := by
  unfold Hub.skimStream
  dsimp only
  repeat' split
  all_goals simp only [↓Hub.churnTake_tm, ↓Hub.setCh_tm, ↓Hub.sweepPut_tm, ↓Hub.sweepRate_tm]
@[simp] theorem Hub.skimOut_tm (h : Hub) (c j inst : Nat) (v0 v1 : Int) (f : Byte) (skip : Bool) :
    (h.skimOut c j inst v0 v1 f skip).tm = h.tm := by
  simp only [Hub.skimOut, ↓Hub.capFeed_tm, ↓Hub.detTake_tm, ↓Hub.redTake_tm, ↓Hub.repTake_tm, ↓Hub.setCh_tm,
    ↓Hub.skimStream_tm, ↓Hub.thrTake_tm, ↓Hub.trigSkip_tm, ↓Hub.trigTake_tm, ↓forAll_tm, ↓apply_ite Hub.tm, ite_self,
    implies_true]
@[simp] theorem Hub.skimDone_tm (h : Hub) (c inst : Nat) (w : SkimWait) : (h.skimDone c inst w).tm = h.tm := by
  simp only [Hub.skimDone, ↓Hub.setCh_tm, ↓Hub.skimOut_tm, ↓apply_ite Hub.tm, ite_self]
@[simp] theorem Hub.skimDue_tm (h : Hub) (c inst : Nat) : (h.skimDue c inst).tm = h.tm := by
  unfold Hub.skimDue
  split <;> simp only [↓Hub.setCh_tm, ↓Hub.skimOut_tm, ↓apply_ite Hub.tm, ite_self]
@[simp] theorem Hub.rawOut_tm (h : Hub) (c : Nat) (e : RawEntry) (f : Byte) (skip : Bool) : (h.rawOut c e f skip).tm = h.tm := by
  simp only [Hub.rawOut, ↓Hub.capFeed_tm, ↓Hub.churnTake_tm, ↓Hub.sweepPut_tm, ↓Hub.trigSkip_tm, ↓Hub.trigTake_tm, ↓apply_ite
    Hub.tm, ite_self]
@[simp] theorem Hub.chainTrial_tm (h : Hub) (c k : Nat) (acc : BitVec 32) (x : Int) (old : Option (Int × Int)) :
    (h.chainTrial c k acc x old).1.tm = h.tm := by
  unfold Hub.chainTrial
  dsimp only
  split
  · exact h.setCh_tm _ _
  · rfl
@[simp] theorem Hub.chain_tm (h : Hub) (c k : Nat) (acc : BitVec 32) (x : Int) : (h.chain c k acc x).1.tm = h.tm := by
  unfold Hub.chain
  dsimp only
  split
  · simp only [↓Hub.chainTrial_tm, ↓Hub.setCh_tm]
  · split
    · split <;> simp only [↓Hub.setCh_tm]
    · simp only [↓Hub.setCh_tm]
@[simp] theorem Hub.rawStep_tm (h : Hub) (c : Nat) (e : RawEntry) (acc : BitVec 32) (skip : Bool) : (h.rawStep c e acc skip).tm = h.tm := by
  unfold Hub.rawStep
  dsimp only
  split <;> simp only [↓Hub.skimDone_tm, ↓Hub.chain_tm, ↓Hub.setCh_tm, ↓Hub.rawOut_tm, ↓Hub.skimDue_tm]
@[simp] theorem Hub.fadeCount_tm (h : Hub) (c j : Nat) : (h.fadeCount c j).tm = h.tm := by
  simp only [Hub.fadeCount, ↓Hub.setCh_tm]
@[simp] theorem Hub.rtStep_tm (h : Hub) (c k : Nat) : (h.rtStep c k).tm = h.tm := by
  unfold Hub.rtStep
  dsimp only
  repeat' split
  all_goals simp only [↓Hub.fadeCount_tm, ↓Hub.rawOut_tm, ↓Hub.skimDone_tm, ↓Hub.skimDue_tm, ↓Hub.trigSkip_tm]
@[simp] theorem Hub.holdStep_tm (h : Hub) (c k : Nat) (skip : Bool) : (h.holdStep c k skip).tm = h.tm := by
  unfold Hub.holdStep
  dsimp only
  repeat' split
  all_goals simp only [↓Hub.fadeCount_tm, ↓Hub.rawOut_tm, ↓Hub.setCh_tm, ↓Hub.skimDone_tm, ↓Hub.skimDue_tm, ↓Hub.trigSkip_tm]
@[simp] theorem Hub.reSweep_tm (h : Hub) (d : Nat) : (h.reSweep d).tm = h.tm := by
  simp only [Hub.reSweep, ↓Hub.tm_mk]
@[simp] theorem Hub.capRate_tm (h : Hub) (src c : Nat) : (h.capRate src c).tm = h.tm := by
  refine forAll_tm _ (fun n g => ?_) _ _
  split <;> simp only [↓apply_ite Hub.tm, ↓Hub.setCap_tm, ↓Hub.cutCoach_tm, ite_self]
@[simp] theorem Hub.endOld_tm (h : Hub) (c inst : Nat) (a b : Desc) (red : Option Word) : (h.endOld c inst a b red).tm = h.tm := by
  simp only [Hub.endOld, ↓Hub.capRate_tm, ↓Hub.churnBreak_tm, ↓Hub.redClose_tm, ↓Hub.trigSkip_tm, ↓apply_ite Hub.tm, ite_self]
@[simp] theorem Hub.endSwitch_tm (h : Hub) (c : Nat) : (h.endSwitch c).tm = h.tm := by
  unfold Hub.endSwitch
  dsimp only
  repeat' split
  all_goals simp only [↓Hub.notice_tm, ↓Hub.setCh_tm]
@[simp] theorem Hub.endRate_tm (h : Hub) (c inst : Nat) : (h.endRate c inst).tm = h.tm := by
  simp only [Hub.endRate, ↓Hub.setCh_tm, ↓Hub.skimDue_tm]
@[simp] theorem Hub.firstRs_tm (h : Hub) (c inst : Nat) : (h.firstRs c inst).tm = h.tm := by
  simp only [Hub.firstRs, ↓Hub.setCh_tm, ↓Hub.skimDone_tm, ↓apply_ite Hub.tm, ite_self]
@[simp] theorem Hub.changeChain_tm (c : Nat) (a b : Desc) (w : ChanWrite) (inst : Nat) (h : Hub) :
    (Hub.changeChain c a b w inst h).tm = h.tm := by
  unfold Hub.changeChain
  dsimp only
  repeat' split
  all_goals simp only [↓Hub.endOld_tm, ↓Hub.endRate_tm, ↓Hub.endSwitch_tm, ↓Hub.firstRs_tm, ↓Hub.reSweep_tm, ↓Hub.setCh_tm,
    ↓Hub.sweepRate_tm]
@[simp] theorem Hub.workStep_tm (c : Nat) (w : RawWork) (h : Hub) : (Hub.workStep c w h).tm = h.tm := by
  unfold Hub.workStep
  split <;> simp only [↓Hub.changeChain_tm, ↓Hub.holdStep_tm, ↓Hub.rawStep_tm, ↓Hub.rtStep_tm, ↓Hub.setCh_tm]
@[simp] theorem Hub.settleRaw_tm (h : Hub) (c : Nat) (l : List RawWork) : (h.settleRaw c l).tm = h.tm := by
  simp only [Hub.settleRaw, ↓Hub.workStep_tm, ↓forAll_tm, implies_true]
@[simp] theorem Hub.cmTake_tm (h : Hub) (c : Nat) (el : Nat) (mv : Int) (work : RawWork) : (h.cmTake c el mv work).tm = h.tm := by
  simp only [Hub.cmTake, ↓Hub.cmRecognised_tm, ↓Hub.setCh_tm, ↓Hub.settleRaw_tm, ↓apply_ite Hub.tm, ite_self]
@[simp] theorem Hub.joinWork_tm (h : Hub) (c : Nat) (w : RawWork) : (h.joinWork c w).tm = h.tm := by
  simp only [Hub.joinWork, ↓Hub.setCh_tm, ↓Hub.workStep_tm, ↓apply_ite Hub.tm, ite_self]
@[simp] theorem Hub.resumeChan_tm (h : Hub) (c : Nat) : (h.resumeChan c).tm = h.tm := by
  simp only [Hub.resumeChan, ↓Hub.joinWork_tm, ↓Hub.setCh_tm]
@[simp] theorem Hub.calQueue_tm (h : Hub) (o : Nat) : (h.calQueue o).tm = h.tm := by
  simp only [Hub.calQueue, ↓Hub.tm_mk, ↓apply_ite Hub.tm, ite_self]
@[simp] theorem Hub.takeGain_tm (h : Hub) (c : Nat) : (h.takeGain c).tm = h.tm := by
  unfold Hub.takeGain
  dsimp only
  repeat' split
  all_goals simp only [↓Hub.calQueue_tm, ↓Hub.setCh_tm]
@[simp] theorem Hub.syncDrops_tm (h : Hub) (id : Word) : (h.syncDrops id).tm = h.tm := by
  simp only [Hub.syncDrops, ↓Hub.mapCh_tm]
@[simp] theorem Hub.mapDie_tm (h : Hub) (f : Nat → Die → Die) : (h.mapDie f).tm = h.tm := by
  simp only [Hub.mapDie, ↓Hub.tm_mk]
@[simp] theorem Hub.switchDrops_tm (h : Hub) (id : Word) : (h.switchDrops id).tm = h.tm := by
  simp only [Hub.switchDrops, ↓Hub.mapCh_tm, ↓Hub.mapDie_tm]
@[simp] theorem Hub.dropAction_tm (h : Hub) (id : Word) : (h.dropAction id).tm = h.tm := by
  simp only [Hub.dropAction, ↓Hub.switchDrops_tm, ↓Hub.syncDrops_tm, ↓Hub.tm_mk]
@[simp] theorem Hub.schedDone_tm (h : Hub) (t : Nat) (id : Word) (status lateUs : Nat) : (h.schedDone t id status lateUs).tm = h.tm := by
  simp only [Hub.schedDone, ↓Hub.dropAction_tm, ↓Hub.eventAt_tm]
@[simp] theorem Hub.writeDone_tm (inst : Nat) (late : Bool) (a : Word × Nat) (h : Hub) : (Hub.writeDone inst late a h).tm = h.tm := by
  unfold Hub.writeDone
  split <;> simp only [↓Hub.schedDone_tm]
@[simp] theorem Hub.flushRaw_tm (h : Hub) (c : Nat) (cm : Option Bool) : (h.flushRaw c cm).tm = h.tm := by
  simp only [Hub.flushRaw, ↓Hub.setCh_tm, ↓Hub.settleRaw_tm, ↓Hub.tick_tm, ↓apply_ite Hub.tm, ite_self]
@[simp] theorem Hub.applyWrite_tm (c inst : Nat) (w : ChanWrite) (h : Hub) : (Hub.applyWrite c inst w h).tm = h.tm := by
  simp only [Hub.applyWrite, ↓Hub.flushRaw_tm, ↓Hub.joinWork_tm, ↓Hub.sclkHold_tm, ↓Hub.sclkStart_tm, ↓Hub.setCh_tm,
    ↓Hub.takeGain_tm, ↓Hub.writeDone_tm, ↓forAll_tm, ↓Hub.tm_mk, ↓apply_ite Hub.tm, ite_self, implies_true]
@[simp] theorem Hub.applyDue_tm (h : Hub) (c inst : Nat) : (h.applyDue c inst).tm = h.tm := by
  simp only [Hub.applyDue, ↓Hub.applyWrite_tm, ↓Hub.setCh_tm, ↓forAll_tm, ↓apply_ite Hub.tm, ite_self, implies_true]
@[simp] theorem Hub.holdDue_tm (h : Hub) (c inst : Nat) : (h.holdDue c inst).tm = h.tm := by
  simp only [Hub.holdDue, ↓Hub.setCh_tm, ↓apply_ite Hub.tm, ite_self]
@[simp] theorem Hub.sample_tm (h : Hub) (c k el : Nat) (code cmMv : Int) : (h.sample c k el code cmMv).tm = h.tm := by
  simp only [Hub.sample, ↓Hub.cmTake_tm, ↓Hub.setCh_tm, ↓Hub.urgentChan_tm, ↓apply_ite Hub.tm, ite_self]
@[simp] theorem Hub.syncSt_tm (h : Hub) (c inst : Nat) : (h.syncSt c inst).tm = h.tm := by
  simp only [Hub.syncSt, ↓Hub.setCh_tm, ↓apply_ite Hub.tm, ite_self]
@[simp] theorem Hub.calTake_tm (h : Hub) (c el : Nat) (code : Int) : (h.calTake c el code).tm = h.tm := by
  unfold Hub.calTake
  split <;> simp only [↓Hub.setCh_tm, ↓apply_ite Hub.tm, ite_self]
@[simp] theorem Hub.conversion_tm (h : Hub) (c : Nat) (code cmMv : Int) : (h.conversion c code cmMv).tm = h.tm := by
  simp only [Hub.conversion, ↓Hub.applyDue_tm, ↓Hub.calTake_tm, ↓Hub.cmTake_tm, ↓Hub.guardTake_tm, ↓Hub.holdDue_tm,
    ↓Hub.resumeChan_tm, ↓Hub.sample_tm, ↓Hub.setCh_tm, ↓Hub.syncSt_tm, ↓apply_ite Hub.tm, ite_self]
@[simp] theorem Hub.clamp_tm (h : Hub) (c : Nat) : (h.clamp c).tm = h.tm := by
  simp only [Hub.clamp, ↓Hub.chanFault_tm, ↓Hub.setCh_tm, ↓Hub.urgentChan_tm, ↓apply_ite Hub.tm, ite_self]
@[simp] theorem Hub.excOl_tm (h : Hub) (c : Nat) : (h.excOl c).tm = h.tm := by
  simp only [Hub.excOl, ↓Hub.chanFault_tm, ↓Hub.notice_tm, ↓Hub.setCh_tm, ↓apply_ite Hub.tm, ite_self]
@[simp] theorem Hub.countCompare_tm (h : Hub) (c : Nat) (disagree : Bool) : (h.countCompare c disagree).tm = h.tm := by
  simp only [Hub.countCompare, ↓Hub.calQueue_tm, ↓Hub.chanFault_tm, ↓Hub.notice_tm, ↓Hub.setCh_tm, ↓apply_ite Hub.tm, ite_self]
@[simp] theorem Hub.compare_tm (h : Hub) (c : Nat) : (h.compare c).tm = h.tm := by
  unfold Hub.compare
  extract_lets x d per at' add
  split
  · rfl
  · extract_lets k g a fault
    have kept : g.tm = h.tm := h.setCh_tm _ _
    split
    · rfl
    · split
      · exact kept
      · split
        · extract_lets m bend tol diff bad quiet clean ad g1 g2
          have differs : g1.tm = h.tm := (g.setCh_tm _ _).trans kept
          have counted : g2.tm = h.tm := (g1.setAudit_tm _ _).trans differs
          simp only [↓apply_ite Hub.tm, ↓Hub.record_tm, ↓Hub.countCompare_tm, kept, differs, counted, ite_self]
        · exact kept
@[simp] theorem Hub.auditFault_tm (h : Hub) (d : Nat) : (h.auditFault d).tm = h.tm := by
  simp only [Hub.auditFault, ↓Hub.mapCh_tm, ↓Hub.notice_tm, ↓Hub.setAudit_tm, ↓Hub.setEngWin_tm, ↓apply_ite Hub.tm, ite_self]
@[simp] theorem Hub.excChecks_tm (h : Hub) (d : Nat) : (h.excChecks d).tm = h.tm := by
  unfold Hub.excChecks
  dsimp only
  repeat' split
  all_goals simp only [↓Hub.calQueue_tm, ↓Hub.notice_tm, ↓Hub.setCh_tm]
@[simp] theorem Hub.milkRun_tm (h : Hub) (d : Nat) : (h.milkRun d).tm = h.tm := by
  simp only [Hub.milkRun, ↓Hub.auditFault_tm, ↓Hub.excChecks_tm, ↓Hub.notice_tm, ↓Hub.setAudit_tm, ↓apply_ite Hub.tm, ite_self]

/-! ## The fronts of the channels -/

/-- The fronts of a hub's channels. -/
def Hub.chanFronts (h : Hub) := h.chans.map Chan.front

theorem Chan.front_eq (x : Chan) : x.front = (x.desc.afe, x.desc.conv, x.writes, x.lastK, x.orTail, x.hist) := by
  cases x
  rfl

theorem Chan.front_of_core {x y : Chan} (same : y.core = x.core) : y.front = x.front := congrArg Prod.fst same

theorem Hub.chanFronts_eq (h : Hub) : h.chanFronts = h.chanCores.map Prod.fst := by
  rw [Hub.chanFronts, Hub.chanCores, List.map_map]
  rfl

theorem Hub.chanFronts_of_cores {h g : Hub} (same : g.chanCores = h.chanCores) : g.chanFronts = h.chanFronts := by
  rw [Hub.chanFronts_eq, Hub.chanFronts_eq, same]

theorem forAll_chanFronts {α : Type} (f : α → Hub → Hub) (keeps : ∀ a h, (f a h).chanFronts = h.chanFronts) (l : List α) (h : Hub) :
    (forAll l f h).chanFronts = h.chanFronts := forAll_keeps Hub.chanFronts f keeps l h
theorem iter_chanFronts (f : Hub → Hub) (keeps : ∀ h, (f h).chanFronts = h.chanFronts) (n : Nat) (h : Hub) :
    (iter f n h).chanFronts = h.chanFronts := iter_keeps Hub.chanFronts f keeps n h

theorem Hub.map_front_chans (h : Hub) : h.chans.map Chan.front = h.chanFronts := rfl

theorem Hub.chanFronts_mk {clk : Clk} {tm : Tm} {chans : List Chan} {octs : List Octet} {reps : List Rep} {dies : List Die}
    {trg : Trg} {caps : List (Option Capture)} {nextTrain : Nat} {saved : List SavedChurn} {jobs : List ChurnJob} {nextHandle nextJob : Nat}
    {flows : List Flow} {strm : Strm} {hk : Hk} {sep : Sep} {ports : List Port} {enm : Enum} {mgmt : Mgmt} {dbw : Dbw} {fseal : Seal}
    {flt : Flt} {cal : Cal} {pwr : Pwr} {pmbus : Pmbus} {boot : Boot} {flash : Flash} {tag : Tag} {tap : Tap} {fresh : Nat} {ident : Ident}
      :
    (Hub.mk ident clk tm chans octs reps dies trg caps nextTrain saved jobs nextHandle nextJob flows strm hk sep ports enm mgmt dbw
      fseal flt cal pwr pmbus boot flash tag tap fresh).chanFronts = chans.map Chan.front := rfl

theorem Hub.setCh_chanFronts (h : Hub) (c : Nat) {f : Chan → Chan} (keeps : ∀ x, (f x).front = x.front) :
    (h.setCh c f).chanFronts = h.chanFronts := map_modAt_of_keeps keeps _ _

theorem Hub.mapCh_chanFronts (h : Hub) {f : Nat → Chan → Chan} (keeps : ∀ i x, (f i x).front = x.front) :
    (h.mapCh f).chanFronts = h.chanFronts := map_mapIdx_of_keeps keeps _

@[simp] theorem Chan.startFade_front (x : Chan) (w : PendingSwitch) (new : CoefSet) (j : Nat) (copy : Stages) :
    (x.startFade w new j copy).front = x.front := by
  unfold Chan.startFade
  dsimp only
  split <;> rfl

@[simp] theorem Chan.beginFade_front (x : Chan) (j : Nat) : (x.beginFade j).front = x.front := by
  unfold Chan.beginFade
  split
  · split
    · rfl
    · split <;> exact Chan.startFade_front ..
  · rfl

@[simp] theorem Chan.endFade_front (x : Chan) (j : Nat) : (x.endFade j).front = x.front := by
  unfold Chan.endFade
  split
  · split <;> rfl
  · rfl

@[simp] theorem Chan.beginTrial_front (x : Chan) (j : Nat) : (x.beginTrial j).front = x.front := by
  unfold Chan.beginTrial
  split
  · split <;> rfl
  · rfl

@[simp] theorem Chan.mark_front (x : Chan) (e : RawEntry) : (x.mark e).front = x.front := rfl
@[simp] theorem Chan.countFlags_front (x : Chan) : x.countFlags.front = x.front := rfl
@[simp] theorem Chan.resume_front (x : Chan) : x.resume.front = x.front := rfl
@[simp] theorem Chan.settleFrom_front (x : Chan) (j ramp : Nat) : (x.settleFrom j ramp).front = x.front := rfl
@[simp] theorem Chan.condClears_front (x : Chan) (code now : Nat) : (x.condClears code now).front = x.front := rfl

@[simp] theorem Chan.settleBehind_front (x : Chan) (us : Nat) : (x.settleBehind us).front = x.front := by
  unfold Chan.settleBehind
  split <;> rfl

@[simp] theorem Chan.changeChain_front (x : Chan) (a b : Desc) (inst : Nat) : (x.changeChain a b inst).front = x.front := by
  unfold Chan.changeChain
  extract_lets j d y z first u
  have cleared : y.front = x.front := rfl
  have dated : z.front = x.front := by
    unfold z
    split <;> exact cleared
  have counted : u.front = x.front := by
    unfold u
    split <;> exact dated
  split <;> exact counted

@[simp] theorem Hub.mapDie_chanFronts (h : Hub) (g : Nat → Die → Die) : (h.mapDie g).chanFronts = h.chanFronts := rfl

@[simp] theorem Hub.switchDrops_chanFronts (h : Hub) (id : Word) : (h.switchDrops id).chanFronts = h.chanFronts := by
  rw [Hub.switchDrops, Hub.mapDie_chanFronts, Hub.mapCh_chanFronts _ fun _ _ => ?_]
  split
  · split <;> rfl
  · rfl

@[simp] theorem Hub.syncDrops_chanFronts (h : Hub) (id : Word) : (h.syncDrops id).chanFronts = h.chanFronts := by
  rw [Hub.syncDrops, Hub.mapCh_chanFronts _ fun _ x => ?_]
  split
  · extract_lets a amp rest goal y
    have kept : y.front = x.front := by
      unfold y
      split
      · split
        · split <;> rfl
        · rfl
      · rfl
    exact kept
  · rfl

@[simp] theorem Hub.syncSt_chanFronts (h : Hub) (c inst : Nat) : (h.syncSt c inst).chanFronts = h.chanFronts := by
  unfold Hub.syncSt
  dsimp only
  split
  · exact h.setCh_chanFronts c fun x => x.settleBehind_front 128
  · rfl

@[simp] theorem Hub.capFeed_chanFronts (h : Hub) (src c idx : Nat) (v0 v1 : Int) (flags : Byte) :
    (h.capFeed src c idx v0 v1 flags).chanFronts = h.chanFronts :=
  Hub.chanFronts_of_cores (Hub.capFeed_chanCores ..)
@[simp] theorem Hub.redTake_chanFronts (h : Hub) (c j : Nat) (v0 v1 : Int) (f : Byte) : (h.redTake c j v0 v1 f).chanFronts = h.chanFronts :=
  Hub.chanFronts_of_cores (Hub.redTake_chanCores ..)
@[simp] theorem Hub.trigTake_chanFronts (h : Hub) (c t : Nat) (x : Int) (f : Byte) : (h.trigTake c t x f).chanFronts = h.chanFronts :=
  Hub.chanFronts_of_cores (Hub.trigTake_chanCores ..)
@[simp] theorem Hub.trigSkip_chanFronts (h : Hub) (c : Nat) : (h.trigSkip c).chanFronts = h.chanFronts :=
  Hub.chanFronts_of_cores (Hub.trigSkip_chanCores ..)
@[simp] theorem Hub.detTake_chanFronts (h : Hub) (c j t : Nat) (second : Bool) (v0 v1 : Int) (f : Byte) (skip : Bool) :
    (h.detTake c j t second v0 v1 f skip).chanFronts = h.chanFronts :=
  Hub.chanFronts_of_cores (Hub.detTake_chanCores ..)
@[simp] theorem Hub.thrTake_chanFronts (h : Hub) (c t n : Nat) (v : Int) (f : Byte) : (h.thrTake c t n v f).chanFronts = h.chanFronts :=
  Hub.chanFronts_of_cores (Hub.thrTake_chanCores ..)
@[simp] theorem Hub.repTake_chanFronts (v : Int) (f : Byte) (n : Nat) (h : Hub) : (Hub.repTake v f n h).chanFronts = h.chanFronts :=
  Hub.chanFronts_of_cores (Hub.repTake_chanCores ..)
@[simp] theorem Hub.skimStream_chanFronts (h : Hub) (c j inst : Nat) (v0 v1 : Int) (f : Byte) :
    (h.skimStream c j inst v0 v1 f).chanFronts = h.chanFronts :=
  Hub.chanFronts_of_cores (Hub.skimStream_chanCores ..)
@[simp] theorem Hub.skimOut_chanFronts (h : Hub) (c j inst : Nat) (v0 v1 : Int) (f : Byte) (skip : Bool) :
    (h.skimOut c j inst v0 v1 f skip).chanFronts = h.chanFronts := by
  simp only [Hub.skimOut, ↓Hub.capFeed_chanFronts, ↓Hub.detTake_chanFronts, ↓Hub.redTake_chanFronts, ↓Hub.repTake_chanFronts,
    ↓Hub.setCh_chanFronts, ↓Hub.skimStream_chanFronts, ↓Hub.thrTake_chanFronts, ↓Hub.trigSkip_chanFronts, ↓Hub.trigTake_chanFronts,
    ↓forAll_chanFronts, ↓apply_ite Hub.chanFronts, ite_self, implies_true, ↓Hub.setCh_chanFronts, Chan.front_eq]
@[simp] theorem Hub.skimDone_chanFronts (h : Hub) (c inst : Nat) (w : SkimWait) : (h.skimDone c inst w).chanFronts = h.chanFronts := by
  simp only [Hub.skimDone, ↓Hub.setCh_chanFronts, ↓Hub.skimOut_chanFronts, ↓apply_ite Hub.chanFronts, ite_self, implies_true,
    ↓Hub.setCh_chanFronts, Chan.front_eq]
@[simp] theorem Hub.skimDue_chanFronts (h : Hub) (c inst : Nat) : (h.skimDue c inst).chanFronts = h.chanFronts := by
  unfold Hub.skimDue
  split <;> simp only [↓Hub.setCh_chanFronts, ↓Hub.skimOut_chanFronts, ↓apply_ite Hub.chanFronts, ite_self, implies_true,
    ↓Hub.setCh_chanFronts, Chan.front_eq]
@[simp] theorem Hub.rawOut_chanFronts (h : Hub) (c : Nat) (e : RawEntry) (f : Byte) (skip : Bool) :
    (h.rawOut c e f skip).chanFronts = h.chanFronts :=
  Hub.chanFronts_of_cores (Hub.rawOut_chanCores ..)
@[simp] theorem Hub.chainTrial_chanFronts (h : Hub) (c k : Nat) (acc : BitVec 32) (x : Int) (old : Option (Int × Int)) :
    (h.chainTrial c k acc x old).1.chanFronts = h.chanFronts := by
  unfold Hub.chainTrial
  dsimp only
  split
  · exact h.setCh_chanFronts c fun _ => rfl
  · rfl
@[simp] theorem Hub.chain_chanFronts (h : Hub) (c k : Nat) (acc : BitVec 32) (x : Int) :
    (h.chain c k acc x).1.chanFronts = h.chanFronts := by
  unfold Hub.chain
  extract_lets begun y d
  have kept : begun.chanFronts = h.chanFronts := h.setCh_chanFronts c fun y => by
    rw [Chan.beginTrial_front, Chan.beginFade_front]
  clear_value y d begun
  dsimp only
  have stepped (f : Chan → Chan) (keeps : ∀ y, (f y).front = y.front) : (begun.setCh c f).chanFronts = h.chanFronts :=
    (begun.setCh_chanFronts c keeps).trans kept
  split
  · rw [Hub.chainTrial_chanFronts]
    exact stepped _ fun _ => rfl
  · split
    · split
      · rw [Hub.setCh_chanFronts _ _ fun y => y.endFade_front _]
        exact Eq.trans (Hub.setCh_chanFronts _ _ (by intro; rfl)) (stepped _ (by intro; rfl))
      · exact Eq.trans (Hub.setCh_chanFronts _ _ (by intro; rfl)) (stepped _ (by intro; rfl))
    · exact Eq.trans (Hub.setCh_chanFronts _ _ (by intro; rfl)) (stepped _ (by intro; rfl))
@[simp] theorem Hub.rawStep_chanFronts (h : Hub) (c : Nat) (e : RawEntry) (acc : BitVec 32) (skip : Bool) :
    (h.rawStep c e acc skip).chanFronts = h.chanFronts := by
  unfold Hub.rawStep
  extract_lets inst out marked
  have kept : marked.chanFronts = h.chanFronts := by
    unfold marked out
    rw [Hub.setCh_chanFronts _ _ fun x => x.mark_front e, Hub.rawOut_chanFronts, Hub.skimDue_chanFronts]
  have chained := (marked.chain_chanFronts c e.k acc e.x).trans kept
  clear_value marked
  dsimp only
  split
  · exact chained
  · rw [Hub.skimDone_chanFronts, Hub.setCh_chanFronts _ _ Chan.countFlags_front, chained]
@[simp] theorem Hub.fadeCount_chanFronts (h : Hub) (c j : Nat) : (h.fadeCount c j).chanFronts = h.chanFronts := by
  simp only [Hub.fadeCount, ↓Hub.setCh_chanFronts, implies_true, ↓Hub.setCh_chanFronts, ↓Chan.beginFade_front, ↓Chan.endFade_front,
    Chan.front_eq]
@[simp] theorem Hub.rtStep_chanFronts (h : Hub) (c k : Nat) : (h.rtStep c k).chanFronts = h.chanFronts := by
  unfold Hub.rtStep
  dsimp only
  repeat' split
  all_goals simp only [↓Hub.fadeCount_chanFronts, ↓Hub.rawOut_chanFronts, ↓Hub.skimDone_chanFronts, ↓Hub.skimDue_chanFronts,
    ↓Hub.trigSkip_chanFronts]
@[simp] theorem Hub.holdStep_chanFronts (h : Hub) (c k : Nat) (skip : Bool) : (h.holdStep c k skip).chanFronts = h.chanFronts := by
  unfold Hub.holdStep
  dsimp only
  repeat' split
  all_goals simp only [↓Hub.fadeCount_chanFronts, ↓Hub.rawOut_chanFronts, ↓Hub.setCh_chanFronts, ↓Hub.skimDone_chanFronts,
    ↓Hub.skimDue_chanFronts, ↓Hub.trigSkip_chanFronts, implies_true, ↓Hub.setCh_chanFronts, ↓Chan.countFlags_front, Chan.front_eq]
@[simp] theorem Hub.reSweep_chanFronts (h : Hub) (d : Nat) : (h.reSweep d).chanFronts = h.chanFronts :=
  Hub.chanFronts_of_cores (Hub.reSweep_chanCores ..)
@[simp] theorem Hub.sweepRate_chanFronts (h : Hub) (raw : Bool) (c inst num den words cause : Nat) :
    (h.sweepRate raw c inst num den words cause).chanFronts = h.chanFronts :=
  Hub.chanFronts_of_cores (Hub.sweepRate_chanCores ..)
@[simp] theorem Hub.endOld_chanFronts (h : Hub) (c inst : Nat) (a b : Desc) (red : Option Word) :
    (h.endOld c inst a b red).chanFronts = h.chanFronts :=
  Hub.chanFronts_of_cores (Hub.endOld_chanCores ..)
@[simp] theorem Hub.notice_chanFronts (h : Hub) (unit : Word) (code : Nat) (arg0 arg1 : Word) :
    (h.notice unit code arg0 arg1).chanFronts = h.chanFronts :=
  Hub.chanFronts_of_cores (Hub.notice_chanCores ..)
@[simp] theorem Hub.endSwitch_chanFronts (h : Hub) (c : Nat) : (h.endSwitch c).chanFronts = h.chanFronts := by
  unfold Hub.endSwitch
  dsimp only
  repeat' split
  all_goals simp only [↓Hub.notice_chanFronts, ↓Hub.setCh_chanFronts, implies_true, ↓Hub.setCh_chanFronts, Chan.front_eq]
@[simp] theorem Hub.endRate_chanFronts (h : Hub) (c inst : Nat) : (h.endRate c inst).chanFronts = h.chanFronts := by
  simp only [Hub.endRate, ↓Hub.setCh_chanFronts, ↓Hub.skimDue_chanFronts, implies_true, ↓Hub.setCh_chanFronts, Chan.front_eq]
@[simp] theorem Hub.firstRs_chanFronts (h : Hub) (c inst : Nat) : (h.firstRs c inst).chanFronts = h.chanFronts := by
  simp only [Hub.firstRs, ↓Hub.setCh_chanFronts, ↓Hub.skimDone_chanFronts, ↓apply_ite Hub.chanFronts, ite_self, implies_true,
    ↓Hub.setCh_chanFronts, ↓Chan.countFlags_front, Chan.front_eq]
@[simp] theorem Hub.changeChain_chanFronts (c : Nat) (a b : Desc) (w : ChanWrite) (inst : Nat) (h : Hub) :
    (Hub.changeChain c a b w inst h).chanFronts = h.chanFronts := by
  unfold Hub.changeChain
  dsimp only
  repeat' split
  all_goals simp only [↓Hub.endOld_chanFronts, ↓Hub.endRate_chanFronts, ↓Hub.endSwitch_chanFronts, ↓Hub.firstRs_chanFronts,
    ↓Hub.reSweep_chanFronts, ↓Hub.setCh_chanFronts, ↓Hub.sweepRate_chanFronts, implies_true, ↓Hub.setCh_chanFronts,
    ↓Chan.changeChain_front, Chan.front_eq]
@[simp] theorem Hub.workStep_chanFronts (c : Nat) (w : RawWork) (h : Hub) : (Hub.workStep c w h).chanFronts = h.chanFronts := by
  unfold Hub.workStep
  split <;> simp only [↓Hub.changeChain_chanFronts, ↓Hub.holdStep_chanFronts, ↓Hub.rawStep_chanFronts, ↓Hub.rtStep_chanFronts,
    ↓Hub.setCh_chanFronts, implies_true, ↓Hub.setCh_chanFronts, ↓Chan.resume_front, ↓Chan.settleFrom_front, Chan.front_eq]
@[simp] theorem Hub.settleRaw_chanFronts (h : Hub) (c : Nat) (l : List RawWork) : (h.settleRaw c l).chanFronts = h.chanFronts := by
  simp only [Hub.settleRaw, ↓Hub.workStep_chanFronts, ↓forAll_chanFronts, implies_true]
@[simp] theorem Hub.cmRecognised_chanFronts (h : Hub) (c : Nat) : (h.cmRecognised c).chanFronts = h.chanFronts :=
  Hub.chanFronts_of_cores (Hub.cmRecognised_chanCores ..)
@[simp] theorem Hub.cmTake_chanFronts (h : Hub) (c : Nat) (el : Nat) (mv : Int) (work : RawWork) :
    (h.cmTake c el mv work).chanFronts = h.chanFronts := by
  simp only [Hub.cmTake, ↓Hub.cmRecognised_chanFronts, ↓Hub.setCh_chanFronts, ↓Hub.settleRaw_chanFronts, ↓apply_ite Hub.chanFronts,
    ite_self, implies_true, ↓Hub.setCh_chanFronts, ↓Chan.condClears_front, Chan.front_eq]
@[simp] theorem Hub.setOct_chanFronts (h : Hub) (o : Nat) (f : Octet → Octet) : (h.setOct o f).chanFronts = h.chanFronts := by
  simp only [Hub.setOct, ↓Hub.chanFronts_mk, ↓Hub.map_front_chans]
@[simp] theorem Hub.guardTake_chanFronts (h : Hub) (c : Nat) (mv : Int) : (h.guardTake c mv).chanFronts = h.chanFronts := by
  simp only [Hub.guardTake, ↓Hub.setCh_chanFronts, ↓Hub.setOct_chanFronts, ↓apply_ite Hub.chanFronts, ite_self, implies_true,
    ↓Hub.setCh_chanFronts, Chan.front_eq]
@[simp] theorem Hub.calTake_chanFronts (h : Hub) (c el : Nat) (code : Int) : (h.calTake c el code).chanFronts = h.chanFronts := by
  unfold Hub.calTake
  split <;> simp only [↓Hub.setCh_chanFronts, ↓apply_ite Hub.chanFronts, ite_self, implies_true, ↓Hub.setCh_chanFronts, Chan.front_eq]
@[simp] theorem Hub.urgentChan_chanFronts (h : Hub) (c : Nat) : (h.urgentChan c).chanFronts = h.chanFronts :=
  Hub.chanFronts_of_cores (Hub.urgentChan_chanCores ..)
@[simp] theorem Hub.sclkHold_chanFronts (h : Hub) (n back : Nat) : (h.sclkHold n back).chanFronts = h.chanFronts := by
  simp only [Hub.sclkHold, ↓Hub.chanFronts_mk, ↓apply_ite Hub.chanFronts, ite_self, ↓Hub.map_front_chans]
@[simp] theorem Hub.sclkStart_chanFronts (h : Hub) (n t : Nat) : (h.sclkStart n t).chanFronts = h.chanFronts := by
  simp only [Hub.sclkStart, ↓Hub.chanFronts_mk, ↓Hub.map_front_chans]
@[simp] theorem Hub.calQueue_chanFronts (h : Hub) (o : Nat) : (h.calQueue o).chanFronts = h.chanFronts :=
  Hub.chanFronts_of_cores (Hub.calQueue_chanCores ..)
@[simp] theorem Hub.takeGain_chanFronts (h : Hub) (c : Nat) : (h.takeGain c).chanFronts = h.chanFronts := by
  unfold Hub.takeGain
  dsimp only
  repeat' split
  all_goals simp only [↓Hub.calQueue_chanFronts, ↓Hub.setCh_chanFronts, implies_true, ↓Hub.setCh_chanFronts, Chan.front_eq]
@[simp] theorem Hub.withReply_chanFronts (h : Hub) (r : Reply) : (h.withReply r).chanFronts = h.chanFronts := by
  simp only [Hub.withReply, ↓Hub.chanFronts_mk, ↓Hub.map_front_chans]
@[simp] theorem Hub.ok_chanFronts (h : Hub) (p : Bytes) : (h.ok p).chanFronts = h.chanFronts := by
  simp only [Hub.ok, ↓Hub.withReply_chanFronts]
@[simp] theorem Hub.eventAt_chanFronts (h : Hub) (t : Nat) (unit : Word) (code cls count : Nat) (arg0 arg1 : Word) :
    (h.eventAt t unit code cls count arg0 arg1).chanFronts = h.chanFronts :=
  Hub.chanFronts_of_cores (Hub.eventAt_chanCores ..)
@[simp] theorem Hub.dropAction_chanFronts (h : Hub) (id : Word) : (h.dropAction id).chanFronts = h.chanFronts := by
  simp only [Hub.dropAction, ↓Hub.switchDrops_chanFronts, ↓Hub.syncDrops_chanFronts, ↓Hub.chanFronts_mk, ↓Hub.map_front_chans]
@[simp] theorem Hub.schedDone_chanFronts (h : Hub) (t : Nat) (id : Word) (status lateUs : Nat) :
    (h.schedDone t id status lateUs).chanFronts = h.chanFronts := by
  simp only [Hub.schedDone, ↓Hub.dropAction_chanFronts, ↓Hub.eventAt_chanFronts]
@[simp] theorem Hub.writeDone_chanFronts (inst : Nat) (late : Bool) (a : Word × Nat) (h : Hub) :
    (Hub.writeDone inst late a h).chanFronts = h.chanFronts := by
  unfold Hub.writeDone
  split <;> simp only [↓Hub.schedDone_chanFronts]

end Sys2Proof.Machine

end




section
/-! PROOFS. Conversions and the conditions of the front end: Obligations.Conversions. -/

namespace Sys2Proof.Machine

theorem ite_keeps {α β : Type} (view : α → β) {p : Prop} [Decidable p] {a b : α} {v : β} (left : view a = v) (right : view b = v) :
    view (if p then a else b) = v := by
  split
  · exact left
  · exact right

/-! ## Elements of the lists of a hub -/

theorem Hub.ch_of_getElem? {h : Hub} {c : Nat} {x : Chan} (there : h.chans[c]? = some x) : h.ch c = x := by
  rw [Hub.ch, List.getD_eq_getElem?_getD, there]
  rfl

theorem Hub.lt_nChans {h : Hub} (shaped : Shaped h) {c : Nat} {x : Chan} (there : h.chans[c]? = some x) : c < h.nChans := by
  obtain ⟨chans, -⟩ := shaped
  exact chans ▸ (List.getElem?_eq_some_iff.1 there).1

theorem Hub.setCh_getElem?_same {h : Hub} {c : Nat} {x : Chan} (there : h.chans[c]? = some x) (f : Chan → Chan) :
    (h.setCh c f).chans[c]? = some (f x) := by
  rw [Hub.setCh_chans, List.getElem?_modify, there]
  simp

theorem Hub.getElem?_of_fronts {h g : Hub} (same : g.chanFronts = h.chanFronts) {c : Nat} {x : Chan} (there : h.chans[c]? = some x) :
    ∃ y, g.chans[c]? = some y ∧ y.front = x.front := getElem?_of_map same there

theorem Hub.getElem?_of_cores {h g : Hub} (same : g.chanCores = h.chanCores) {c : Nat} {x : Chan} (there : h.chans[c]? = some x) :
    ∃ y, g.chans[c]? = some y ∧ y.core = x.core := getElem?_of_map same there

theorem Chan.fields_of_front {x : Chan} {afe : AfeWords} {conv : Word} {writes : List ChanWrite} {last : Option Nat} {tail : Nat}
    {hist : List RawEntry} (same : x.front = (afe, conv, writes, last, tail, hist)) :
    x.desc.afe = afe ∧ x.desc.conv = conv ∧ x.writes = writes ∧ x.lastK = last ∧ x.orTail = tail ∧ x.hist = hist := by
  rw [Chan.front_eq] at same
  simpa using same

theorem Chan.fields_of_core {x y : Chan} (same : y.core = x.core) :
    y.desc = x.desc ∧ y.writes = x.writes ∧ y.lastK = x.lastK ∧ y.hist = x.hist ∧ y.excOl = x.excOl ∧ y.clamped = x.clamped ∧
      y.clampCount = x.clampCount ∧ y.auditWait = x.auditWait ∧ y.skim0 = x.skim0 ∧ y.skim1 = x.skim1 := by
  simp only [Chan.core_eq, Prod.mk.injEq] at same
  tauto

/-! ## A conversion (R67 to R75) -/

theorem Hub.guardTake_chans (h : Hub) (c : Nat) (mv : Int) :
    (h.guardTake c mv).chans = h.chans.modify c fun x => { x with cmMv := mv } := by
  unfold Hub.guardTake
  extract_lets g o on
  split <;> rfl

theorem Hub.guardTake_clk (h : Hub) (c : Nat) (mv : Int) : (h.guardTake c mv).clk = h.clk := by
  unfold Hub.guardTake
  extract_lets g o on
  split <;> rfl

/-- The raw sample that a conversion takes, and what it leaves at the front end. -/
theorem Hub.sample_front {h : Hub} {c : Nat} {x : Chan} (there : h.chans[c]? = some x) (k el : Nat) (code mv : Int) :
    ∃ y e, (h.sample c k el code mv).chans[c]? = some y ∧
      y.front = (x.desc.afe, x.desc.conv, x.writes, some k, if 8191 < code ∨ code < -8192 then 2 else x.orTail - 1,
        (e :: x.hist).take 32) ∧
      e.k = k ∧ e.val = max (-8192) (min 8191 code) ∧
      e.orFlag = (decide (8191 < code) || decide (code < -8192) || decide (0 < x.orTail)) := by
  unfold Hub.sample
  rw [Hub.ch_of_getElem? there]
  extract_lets own inst clipped val orF cl onset z e g g1
  have corrected : z.front = x.front := by
    unfold z Chan.correct
    dsimp only
    split
    · split <;> rfl
    · rfl
  have stands := Hub.setCh_getElem?_same there fun _ =>
    { z with lastK := some k, lastAt := some el, orTail := if clipped then 2 else z.orTail - 1,
             lastOr := if orF then some el else z.lastOr, hist := (e :: z.hist).take 32, lastRaw := some e }
  have same : (g1.cmTake c el mv (.sample e (g1.refAcc c ((g1.tm.now - inst) / fuCycle)) (g1.trigBlind c))).chanFronts = g.chanFronts := by
    rw [Hub.cmTake_chanFronts]
    unfold g1
    split
    · exact g.urgentChan_chanFronts c
    · rfl
  obtain ⟨y, found, front⟩ := Hub.getElem?_of_fronts same stands
  refine ⟨y, e, found, front.trans ?_, rfl, rfl, rfl⟩
  rw [Chan.front_eq] at corrected ⊢
  simp only [Chan.front_eq, Prod.mk.injEq] at corrected
  obtain ⟨afe, conv, writes, -, tail, hist⟩ := corrected
  dsimp only
  rw [afe, conv, writes, tail, hist]
  simp [clipped]

section Conversion

variable {h : Hub} {c : Nat} {x : Chan} (shaped : Shaped h) (there : h.chans[c]? = some x) (code mv : Int)

include there in
/-- A second command within one period changes nothing. -/
theorem Hub.conversion_again {l : Nat} (taken : x.lastK = some l) (same : h.tm.now / x.desc.rawPeriod ≤ l) :
    h.conversion c code mv = h := by
  unfold Hub.conversion
  rw [Hub.ch_of_getElem? there]
  dsimp only
  rw [if_pos (Or.inr (Or.inr ?_))]
  rw [taken]
  simpa using same

variable (run : h.clk.run = true) (sound : (h.die (chDie c)).faulted = false) (serves : (h.die (chDie c)).inService = true)
  (powered : h.powered (chQuad c) = true)

include shaped there run serves powered

theorem Hub.conversion_goes (later : ∀ l, x.lastK = some l → l < h.tm.now / x.desc.rawPeriod) :
    ¬(h.nChans ≤ c ∨ (!h.converts c) = true ∨ (x.lastK.any fun l => decide (h.tm.now / x.desc.rawPeriod ≤ l)) = true) := by
  have converts : h.converts c = true := by simp [Hub.converts, run, serves, powered]
  have bound := Hub.lt_nChans shaped there
  have fresh : (x.lastK.any fun l => decide (h.tm.now / x.desc.rawPeriod ≤ l)) = false := by
    cases taken : x.lastK with
    | none => rfl
    | some l => simpa using later l taken
  rw [converts, fresh]
  simp [bound]

/-- What a conversion is where the channel runs: the writes that are due apply, then the sample of its instant is taken unless that is none of
the new grid (R65, R72). -/
def Hub.takeSample (h : Hub) (c inst per : Nat) (code mv : Int) : Hub :=
  let per' := (h.ch c).desc.rawPeriod
  let g := h.syncSt c inst
  if per' ≠ per ∧ inst % per' ≠ 0 then h.setCh c fun x => { x with lastK := some (inst / per') }
  else g.sample c (inst / per') (g.clk.elapsed - (g.tm.now - inst) / 1024) code mv

include sound in
theorem Hub.conversion_runs (later : ∀ l, x.lastK = some l → l < h.tm.now / x.desc.rawPeriod) (goes : x.stopped = false)
    (kept : x.retired = none) (free : h.heldCh c = false) (awake : h.pwr.st ≠ .doze ∨ h.feeds c = true) :
    h.conversion c code mv = ((h.applyDue c (h.tm.now / x.desc.rawPeriod * x.desc.rawPeriod)).guardTake c mv).takeSample c
      (h.tm.now / x.desc.rawPeriod * x.desc.rawPeriod) x.desc.rawPeriod code mv := by
  have held : (h.oct (chOct c)).held = false := (Bool.or_eq_false_iff.1 free).1
  unfold Hub.conversion
  rw [Hub.ch_of_getElem? there]
  extract_lets per k h1 inst closed gone h2 per' k' g el
  rw [if_neg (Hub.conversion_goes shaped there run serves powered later),
    if_neg (by simpa [← not_imp_comm, imp_iff_not_or] using awake)]
  have runs : h1 = h := if_neg (by simp [goes])
  clear_value h1
  subst runs
  have open' : closed = false := free
  have stays : gone = false := by
    unfold gone
    rw [Hub.ch_of_getElem? there, kept, sound]
    rfl
  have guards : h2 = (h1.applyDue c inst).guardTake c mv := by
    unfold h2
    rw [stays, held, open']
    rfl
  clear_value h2
  subst guards
  rw [stays, open', if_neg Bool.false_ne_true, if_neg Bool.false_ne_true]
  rfl

include sound in
/-- A conversion of a channel for which nothing waits is the sample of its instant. -/
theorem Hub.conversion_plain (later : ∀ l, x.lastK = some l → l < h.tm.now / x.desc.rawPeriod) (writes : x.writes = [])
    (syncs : x.syncs = []) (goes : x.stopped = false) (kept : x.retired = none) (free : h.heldCh c = false)
    (awake : h.pwr.st ≠ .doze ∨ h.feeds c = true) :
    h.conversion c code mv = (h.guardTake c mv).sample c (h.tm.now / x.desc.rawPeriod)
      (h.clk.elapsed - (h.tm.now - h.tm.now / x.desc.rawPeriod * x.desc.rawPeriod) / 1024) code mv := by
  rw [Hub.conversion_runs shaped there code mv run sound serves powered later goes kept free awake]
  have due (inst : Nat) : h.applyDue c inst = h := by
    rw [Hub.applyDue, Hub.ch_of_getElem? there, Chan.dueWrites, writes]
    rfl
  have seen : (h.guardTake c mv).chans[c]? = some { x with cmMv := mv } := by
    rw [Hub.guardTake_chans, List.getElem?_modify, there]
    simp
  have quiet (inst : Nat) : (h.guardTake c mv).syncSt c inst = h.guardTake c mv := by
    unfold Hub.syncSt
    rw [Hub.ch_of_getElem? seen]
    dsimp only
    rw [syncs]
    rfl
  have index : h.tm.now / x.desc.rawPeriod * x.desc.rawPeriod / x.desc.rawPeriod = h.tm.now / x.desc.rawPeriod := by
    rcases Nat.eq_zero_or_pos x.desc.rawPeriod with none | some
    · rw [none, Nat.div_zero, Nat.div_zero]
    · exact Nat.mul_div_cancel _ some
  rw [due, Hub.takeSample, Hub.ch_of_getElem? seen]
  dsimp only
  rw [if_neg fun differ => differ.1 rfl, quiet, Hub.guardTake_clk, Hub.guardTake_tm, index]

end Conversion

/-! ## AFE_SET's words at their boundary (R65) -/

/-- What the channel's front end is set to, and the writes that still wait for it. -/
def Chan.inputs (x : Chan) := (x.desc.afe, x.desc.conv, x.writes)

theorem Chan.inputs_of_front {x y : Chan} (same : y.front = x.front) : y.inputs = x.inputs :=
  congrArg (fun f : AfeWords × Word × List ChanWrite × Option Nat × Nat × List RawEntry => (f.1, f.2.1, f.2.2.1)) same

theorem Chan.changeFront_inputs (x : Chan) (a b : Desc) (cycles elapsed back : Nat) :
    (x.changeFront a b cycles elapsed back).inputs = (b.afe, b.conv, x.writes) := by
  unfold Chan.changeFront
  extract_lets x1 amp x2 x3 x4 x5 x6 x7 x8
  have h1 : x1.writes = x.writes := ite_keeps Chan.writes rfl rfl
  have h2 : x2.writes = x.writes := ite_keeps Chan.writes h1 h1
  have h3 : x3.writes = x.writes := ite_keeps Chan.writes h2 h2
  have h4 : x4.writes = x.writes := ite_keeps Chan.writes h3 h3
  have h5 : x5.writes = x.writes := ite_keeps Chan.writes h4 h4
  have h6 : x6.writes = x.writes := ite_keeps Chan.writes h5 h5
  have h7 : x7.writes = x.writes := ite_keeps Chan.writes h6 h6
  have h8 : x8.writes = x.writes := ite_keeps Chan.writes h7 h6
  exact congrArg (fun l => (b.afe, b.conv, l)) h8

@[simp] theorem Hub.tick_chanFronts (h : Hub) : h.tick.chanFronts = h.chanFronts := rfl

@[simp] theorem Hub.flushRaw_chanFronts (h : Hub) (c : Nat) (cm : Option Bool) : (h.flushRaw c cm).chanFronts = h.chanFronts := by
  unfold Hub.flushRaw
  dsimp only
  rw [Hub.settleRaw_chanFronts, Hub.setCh_chanFronts _ _ (by intro; rfl)]
  split
  · rfl
  · exact h.tick_chanFronts

@[simp] theorem Hub.joinWork_chanFronts (h : Hub) (c : Nat) (w : RawWork) : (h.joinWork c w).chanFronts = h.chanFronts := by
  unfold Hub.joinWork
  split
  · exact h.workStep_chanFronts c w
  · exact h.setCh_chanFronts c (by intro; rfl)

theorem Hub.applyWrite_inputs {h : Hub} {c : Nat} {x : Chan} (there : h.chans[c]? = some x) (inst : Nat) {w : ChanWrite} {f : AfeWords}
    (front : w.desc = none) (words : w.afe = some f) (direct : w.actions = []) :
    ∃ y, (Hub.applyWrite c inst w h).chans[c]? = some y ∧ y.inputs = (f, x.applied.conv, x.writes) := by
  unfold Hub.applyWrite
  rw [Hub.ch_of_getElem? there, front, words, direct]
  extract_lets a b back el h1 out h2 h3 h4 h5 h6 ref h7
  have flushed : h1.chanFronts = h.chanFronts :=
    ite_keeps Hub.chanFronts (h.flushRaw_chanFronts c _) (ite_keeps Hub.chanFronts (h.flushRaw_chanFronts c _) rfl)
  have held : h2.chanFronts = h.chanFronts := ite_keeps Hub.chanFronts ((h1.sclkHold_chanFronts _ _).trans flushed) flushed
  obtain ⟨y, found, same⟩ := Hub.getElem?_of_fronts held there
  have changed := Hub.setCh_getElem?_same found fun x => x.changeFront a b h2.clk.cycles el back
  have started : h4.chanFronts = h3.chanFronts := ite_keeps Hub.chanFronts (h3.sclkStart_chanFronts _ _) rfl
  have joined : h6.chanFronts = h3.chanFronts := by
    have work : h5.chanFronts = h3.chanFronts := (h4.joinWork_chanFronts c _).trans started
    exact ite_keeps Hub.chanFronts ((h5.takeGain_chanFronts c).trans work) work
  have slaves : h7.chanFronts = h3.chanFronts := by
    refine ite_keeps Hub.chanFronts ?_ joined
    rw [Hub.chanFronts_mk]
    exact (map_modAll_of_keeps (by intro _ x; exact x.settleBehind_front _) _ _).trans joined
  obtain ⟨z, last, front'⟩ := Hub.getElem?_of_fronts slaves changed
  refine ⟨z, last, (Chan.inputs_of_front front').trans ?_⟩
  rw [Chan.changeFront_inputs]
  have writes : y.writes = x.writes := congrArg (fun f : AfeWords × Word × List ChanWrite × Option Nat × Nat × List RawEntry => f.2.2.1) same
  rw [writes]

/-- A sample, or none on the new grid, leaves what the front end is set to and the writes that wait. -/
theorem Hub.takeSample_inputs {h : Hub} {c : Nat} {x : Chan} (there : h.chans[c]? = some x) (inst per : Nat) (code mv : Int) :
    ∃ y, (h.takeSample c inst per code mv).chans[c]? = some y ∧ y.inputs = x.inputs := by
  unfold Hub.takeSample
  dsimp only
  split
  · exact ⟨_, Hub.setCh_getElem?_same there _, rfl⟩
  · obtain ⟨y, found, same⟩ := Hub.getElem?_of_fronts (h.syncSt_chanFronts c inst) there
    obtain ⟨z, e, last, front, -⟩ := Hub.sample_front found (inst / (h.ch c).desc.rawPeriod)
      ((h.syncSt c inst).clk.elapsed - ((h.syncSt c inst).tm.now - inst) / 1024) code mv
    refine ⟨z, last, Eq.trans ?_ (Chan.inputs_of_front same)⟩
    exact congrArg (fun f : AfeWords × Word × List ChanWrite × Option Nat × Nat × List RawEntry => (f.1, f.2.1, f.2.2.1)) front

/-- The one write that waits applies at its boundary. -/
theorem Hub.applyDue_one {h : Hub} {c : Nat} {x : Chan} (there : h.chans[c]? = some x) {inst : Nat} {w : ChanWrite} {f : AfeWords}
    (waits : x.writes = [w]) (due : w.notBefore ≤ inst) (front : w.desc = none) (words : w.afe = some f) (direct : w.actions = []) :
    ∃ y, (h.applyDue c inst).chans[c]? = some y ∧ y.inputs = (f, x.applied.conv, []) := by
  have split : x.dueWrites inst = ([w], []) := by
    simp [Chan.dueWrites, waits, due, byOrder]
  rw [Hub.applyDue, Hub.ch_of_getElem? there, split]
  exact Hub.applyWrite_inputs (Hub.setCh_getElem?_same there fun x => { x with writes := [] }) inst front words direct

/-! ## Clamps and drivers (R44, R50 to R52) -/

@[simp] theorem Chan.condClears_core (x : Chan) (code now : Nat) : (x.condClears code now).core = x.core := rfl

section Conditions

variable {h : Hub} {c : Nat} {x : Chan} (shaped : Shaped h) (there : h.chans[c]? = some x)

include shaped there

theorem Hub.clamp_onset (free : x.clamped = false) (over' : x.clampEnd ≤ h.clk.elapsed) : ∃ y, (h.clamp c).chans[c]? = some y ∧
    y.clamped = true ∧ y.clampCount = satInc 16 x.clampCount ∧ y.desc = x.desc ∧ y.hist = x.hist := by
  have bound := Hub.lt_nChans shaped there
  unfold Hub.clamp
  rw [Hub.ch_of_getElem? there]
  extract_lets own g
  rw [if_neg (by simp [own, free, bound]), if_neg (Nat.not_lt.2 over')]
  have same : ((g.urgentChan c).chanFault c 0x0101).chanCores = g.chanCores := by
    rw [Hub.chanFault_chanCores, Hub.urgentChan_chanCores]
  obtain ⟨y, found, core⟩ := Hub.getElem?_of_cores same (Hub.setCh_getElem?_same there _)
  obtain ⟨desc, -, -, hist, -, clamped, count, -⟩ := Chan.fields_of_core core
  exact ⟨y, found, clamped, count, desc, hist⟩

theorem Hub.clamp_recovering (free : x.clamped = false) (within : h.clk.elapsed < x.clampEnd) :
    h.clamp c = h.setCh c fun y => { y with clamped := true } := by
  have bound := Hub.lt_nChans shaped there
  unfold Hub.clamp
  rw [Hub.ch_of_getElem? there]
  dsimp only
  rw [if_neg (by simp [free, bound]), if_pos within]

theorem Hub.clampRelease_clamped (clamped : x.clamped = true) : h.clampRelease c = h.setCh c fun y =>
    { y with clamped := false, clampEnd := h.clk.elapsed + 2000,
             clearSince := if x.retired = none ∨ x.retired = some 0x0101 then h.clk.elapsed + 2000 else x.clearSince } := by
  have bound := Hub.lt_nChans shaped there
  unfold Hub.clampRelease
  rw [Hub.ch_of_getElem? there, if_neg (by simp [clamped, bound])]
  refine congrArg (fun l => { h with chans := l }) (modify_eq_of_getElem? there ?_)
  cases x.retired <;> simp

theorem Hub.excOl_onset (free : x.excOl = false) : ∃ y, (h.excOl c).chans[c]? = some y ∧ y.excOl = true ∧ y.desc = x.desc := by
  have bound := Hub.lt_nChans shaped there
  unfold Hub.excOl
  rw [Hub.ch_of_getElem? there, if_neg (by simp [free, bound])]
  have same (g : Hub) : ((g.notice (unitChan c) 0x0103 0 0).chanFault c 0x0103).chanCores = g.chanCores := by
    rw [Hub.chanFault_chanCores, Hub.notice_chanCores]
  obtain ⟨y, found, core⟩ := Hub.getElem?_of_cores (same _) (Hub.setCh_getElem?_same there fun x => { x with excOl := true })
  obtain ⟨desc, -, -, -, overload, -⟩ := Chan.fields_of_core core
  exact ⟨y, found, overload, desc⟩

end Conditions

end Sys2Proof.Machine

open Sys2Proof Sys2Proof.Machine

/-- Settles O15: a conversion is the writes that are due and then the sample of its instant (`Hub.conversion_runs`), and all that follows a
sample leaves the fronts of the channels (`Hub.cmTake_chanFronts`). -/
theorem conversions : Obligations.Conversions := by
  unfold Obligations.Conversions
  refine ⟨?_, ?_, ?_⟩
  · intro s c x code mv h k shaped there run sound serves powered
    refine ⟨fun l taken same => next_same (Hub.conversion_again there code mv taken same), ?_⟩
    intro later writes syncs goes kept free awake
    have seen : (h.guardTake c mv).chans[c]? = some { x with cmMv := mv } := by
      rw [Hub.guardTake_chans, List.getElem?_modify, there]
      simp
    obtain ⟨y, e, found, front, entry⟩ := Hub.sample_front seen k (h.clk.elapsed - (h.tm.now - k * x.desc.rawPeriod) / 1024) code mv
    rw [← Hub.conversion_plain shaped there code mv run sound serves powered later writes syncs goes kept free awake] at found
    obtain ⟨-, -, -, last, tail, hist⟩ := Chan.fields_of_front front
    obtain ⟨index, value, flag⟩ := entry
    exact ⟨_, y, e, rfl, found, last, hist, index, value, flag, tail, congrArg Tm.now (h.conversion_tm c code mv)⟩
  · intro s c x w nb el code mv h k shaped there run sound serves powered later waits due kept goes free awake
    obtain ⟨y, applied, inputs⟩ := Hub.applyDue_one there waits due rfl rfl rfl
    have guarded : ((h.applyDue c (k * x.desc.rawPeriod)).guardTake c mv).chans[c]? = some { y with cmMv := mv } := by
      rw [Hub.guardTake_chans, List.getElem?_modify, applied]
      simp
    obtain ⟨z, found, same⟩ := Hub.takeSample_inputs guarded (k * x.desc.rawPeriod) x.desc.rawPeriod code mv
    rw [← Hub.conversion_runs shaped there code mv run sound serves powered later goes kept free awake] at found
    have all : (z.desc.afe, z.desc.conv, z.writes) = (w, x.applied.conv, []) := same.trans inputs
    simp only [Prod.mk.injEq] at all
    obtain ⟨afe, conv, writes⟩ := all
    exact ⟨_, z, rfl, found, afe, writes, conv⟩
  · intro s c x shaped there
    refine ⟨?_, ?_, ?_, ?_, ?_, ?_, ?_⟩
    · intro free past
      exact ⟨_, _, rfl, (Hub.clamp_onset shaped there free past).choose_spec⟩
    · exact fun free within => next_congr (Hub.clamp_recovering shaped there free within)
    · exact fun clamped => next_congr (Hub.clampRelease_clamped shaped there clamped)
    · intro free
      exact ⟨_, _, rfl, (Hub.excOl_onset shaped there free).choose_spec⟩
    · intro overload
      refine ⟨_, _, rfl, Hub.setCh_getElem?_same there _, ?_⟩
      rw [if_pos overload]
      exact ⟨rfl, rfl, rfl⟩
    · intro o present free
      refine next_congr ?_
      exact if_neg (by simp [present, free])
    · exact fun o => rfl

end

section
/-! PROOFS. What events, records, captures and failing engines leave of a die. -/

namespace Sys2Proof.Machine

/-- A die without its store, its engines and what their faults have left: what events, records, captures and failing engines leave. -/
def Die.core (x : Die) : Die :=
  { x with store := Store.reset, churn := Die.reset.churn, pool := [], enginesBad := [], engWin := [], sep := { x.sep with engines := 0 } }

theorem Die.core_eq (x : Die) : x.core =
    { x with store := Store.reset, churn := Die.reset.churn, pool := [], enginesBad := [], engWin := [], sep := { x.sep with engines := 0 }
      } := by
  cases x
  rfl

/-- The cores of a hub's dies. -/
def Hub.dieCores (h : Hub) := h.dies.map Die.core

theorem forAll_dieCores {α : Type} (f : α → Hub → Hub) (keeps : ∀ a h, (f a h).dieCores = h.dieCores) (l : List α) (h : Hub) :
    (forAll l f h).dieCores = h.dieCores := forAll_keeps Hub.dieCores f keeps l h
theorem iter_dieCores (f : Hub → Hub) (keeps : ∀ h, (f h).dieCores = h.dieCores) (n : Nat) (h : Hub) :
    (iter f n h).dieCores = h.dieCores := iter_keeps Hub.dieCores f keeps n h

theorem Hub.map_core_dies (h : Hub) : h.dies.map Die.core = h.dieCores := rfl

theorem Hub.dieCores_mk {clk : Clk} {tm : Tm} {chans : List Chan} {octs : List Octet} {reps : List Rep} {dies : List Die}
    {trg : Trg} {caps : List (Option Capture)} {nextTrain : Nat} {saved : List SavedChurn} {jobs : List ChurnJob} {nextHandle nextJob : Nat}
    {flows : List Flow} {strm : Strm} {hk : Hk} {sep : Sep} {ports : List Port} {enm : Enum} {mgmt : Mgmt} {dbw : Dbw} {fseal : Seal}
    {flt : Flt} {cal : Cal} {pwr : Pwr} {pmbus : Pmbus} {boot : Boot} {flash : Flash} {tag : Tag} {tap : Tap} {fresh : Nat} {ident : Ident}
      :
    (Hub.mk ident clk tm chans octs reps dies trg caps nextTrain saved jobs nextHandle nextJob flows strm hk sep ports enm mgmt dbw
      fseal flt cal pwr pmbus boot flash tag tap fresh).dieCores = dies.map Die.core := rfl

theorem Hub.setDie_dieCores (h : Hub) (d : Nat) {f : Die → Die} (keeps : ∀ x, (f x).core = x.core) :
    (h.setDie d f).dieCores = h.dieCores := map_modAt_of_keeps keeps _ _

@[simp] theorem Hub.setFlow_dieCores (h : Hub) (k : FlowKey) (g : Flow → Flow) : (h.setFlow k g).dieCores = h.dieCores :=
  congrArg (List.map Die.core) (Hub.setFlow_dies ..)
@[simp] theorem Hub.mapCh_dieCores (h : Hub) (f : Nat → Chan → Chan) : (h.mapCh f).dieCores = h.dieCores :=
  congrArg (List.map Die.core) (Hub.mapCh_dies ..)

@[simp] theorem Hub.spoolTouch_dieCores (h : Hub) (d : Nat) (was : Seqs) : (h.spoolTouch d was).dieCores = h.dieCores := by
  unfold Hub.spoolTouch
  simp only [↓Hub.dieCores_mk, ↓Hub.map_core_dies]
  split
  · rfl
  · split
    · rw [Hub.dieCores_mk, Hub.map_core_dies, Hub.mapCh_dieCores, Hub.setDie_dieCores _ _ (by intro; rfl)]
    · rw [Hub.setFlow_dieCores, Hub.mapCh_dieCores, Hub.dieCores_mk, Hub.map_core_dies]
      refine (iter_dieCores _ (fun g => ?_) _ _).trans (h.setDie_dieCores d (by intro; rfl))
      split
      · split
        · exact g.setFlow_dieCores _ _
        · rfl
      · rfl
    · rw [Hub.mapCh_dieCores, Hub.setDie_dieCores _ _ (by intro; rfl)]

@[simp] theorem Hub.setLink_dieCores (h : Hub) (p : Nat) (f : Link → Link) : (h.setLink p f).dieCores = h.dieCores :=
  congrArg (List.map Die.core) (Hub.setLink_dies ..)
@[simp] theorem Hub.ctl_dieCores (h : Hub) (p code payload : Nat) : (h.ctl p code payload).dieCores = h.dieCores := by
  simp only [Hub.ctl, ↓Hub.setLink_dieCores]
@[simp] theorem Hub.watermarks_dieCores (h : Hub) : h.watermarks.dieCores = h.dieCores := by
  simp only [Hub.watermarks, ↓Hub.ctl_dieCores, ↓Hub.setLink_dieCores, ↓forAll_dieCores, ↓Hub.dieCores_mk, ↓apply_ite Hub.dieCores,
    ite_self, implies_true, ↓Hub.map_core_dies]
@[simp] theorem Hub.emitSince_dieCores (h : Hub) (k : FlowKey) (stream : Nat) (rcd : Bytes) (since : Nat) :
    (h.emitSince k stream rcd since).dieCores = h.dieCores := by
  unfold Hub.emitSince
  split <;> simp only [↓Hub.setFlow_dieCores, ↓Hub.spoolTouch_dieCores, ↓Hub.watermarks_dieCores, ↓apply_ite Hub.dieCores, ite_self]
@[simp] theorem Hub.emitRecord_dieCores (h : Hub) (k : FlowKey) (stream : Nat) (rcd : Bytes) :
    (h.emitRecord k stream rcd).dieCores = h.dieCores := by
  simp only [Hub.emitRecord, ↓Hub.emitSince_dieCores]
@[simp] theorem Hub.hkRecord_dieCores (h : Hub) (t kind : Nat) (payload : Bytes) : (h.hkRecord t kind payload).dieCores = h.dieCores := by
  simp only [Hub.hkRecord, ↓Hub.emitRecord_dieCores, ↓Hub.dieCores_mk, ↓apply_ite Hub.dieCores, ite_self, ↓Hub.map_core_dies]
@[simp] theorem Hub.recordAt_dieCores (h : Hub) (t kind : Nat) (payload : Bytes) : (h.recordAt t kind payload).dieCores = h.dieCores := by
  simp only [Hub.recordAt, ↓Hub.hkRecord_dieCores, ↓Hub.dieCores_mk, ↓apply_ite Hub.dieCores, ite_self, ↓Hub.map_core_dies]
@[simp] theorem Hub.raise_dieCores (h : Hub) (bit : Nat) : (h.raise bit).dieCores = h.dieCores :=
  congrArg (List.map Die.core) (Hub.raise_dies ..)
@[simp] theorem Hub.logEntry_dieCores (h : Hub) (t : Nat) (event : Bytes) : (h.logEntry t event).dieCores = h.dieCores := by
  simp only [Hub.logEntry, ↓Hub.dieCores_mk, ↓apply_ite Hub.dieCores, ite_self, ↓Hub.map_core_dies]
@[simp] theorem Hub.eventAt_dieCores (h : Hub) (t : Nat) (unit : Word) (code cls count : Nat) (arg0 arg1 : Word) :
    (h.eventAt t unit code cls count arg0 arg1).dieCores = h.dieCores := by
  simp only [Hub.eventAt, ↓Hub.logEntry_dieCores, ↓Hub.raise_dieCores, ↓Hub.recordAt_dieCores, ↓Hub.dieCores_mk, ↓apply_ite Hub.dieCores,
    ite_self, ↓Hub.map_core_dies]
@[simp] theorem Hub.event_dieCores (h : Hub) (unit : Word) (code cls count : Nat) (arg0 arg1 : Word) :
    (h.event unit code cls count arg0 arg1).dieCores = h.dieCores := by
  simp only [Hub.event, ↓Hub.eventAt_dieCores]
@[simp] theorem Hub.notice_dieCores (h : Hub) (unit : Word) (code : Nat) (arg0 arg1 : Word) :
    (h.notice unit code arg0 arg1).dieCores = h.dieCores := by
  simp only [Hub.notice, ↓Hub.event_dieCores]
@[simp] theorem Hub.setCh_dieCores (h : Hub) (c : Nat) (f : Chan → Chan) : (h.setCh c f).dieCores = h.dieCores :=
  congrArg (List.map Die.core) (Hub.setCh_dies ..)
@[simp] theorem Hub.retireChan_dieCores (h : Hub) (c code count : Nat) : (h.retireChan c code count).dieCores = h.dieCores := by
  unfold Hub.retireChan
  dsimp only
  repeat' split
  all_goals simp only [↓Hub.event_dieCores, ↓Hub.setCh_dieCores, ↓Hub.setDie_dieCores, implies_true, ↓Hub.setDie_dieCores, Die.core_eq]
@[simp] theorem Hub.skipInHold_dieCores (h : Hub) (c code : Nat) : (h.skipInHold c code).dieCores = h.dieCores := by
  simp only [Hub.skipInHold, ↓Hub.setCh_dieCores, ↓apply_ite Hub.dieCores, ite_self]
@[simp] theorem Hub.chanFault_dieCores (h : Hub) (c code : Nat) : (h.chanFault c code).dieCores = h.dieCores := by
  simp only [Hub.chanFault, ↓Hub.retireChan_dieCores, ↓Hub.setCh_dieCores, ↓Hub.skipInHold_dieCores, ↓apply_ite Hub.dieCores, ite_self]
@[simp] theorem Hub.sweepPut_dieCores (h : Hub) (raw : Bool) (c : Nat) (x : SweepSample) : (h.sweepPut raw c x).dieCores = h.dieCores := by
  simp only [Hub.sweepPut, ↓Hub.setFlow_dieCores]
@[simp] theorem Hub.churnCapture_dieCores (h : Hub) (raw : Bool) (c next : Nat) : (h.churnCapture raw c next).dieCores = h.dieCores := by
  unfold Hub.churnCapture
  split <;> simp only [↓Hub.setCh_dieCores, ↓Hub.dieCores_mk, ↓apply_ite Hub.dieCores, ite_self, ↓Hub.map_core_dies]
@[simp] theorem Hub.tick_dieCores (h : Hub) : h.tick.dieCores = h.dieCores :=
  congrArg (List.map Die.core) (Hub.tick_dies ..)
@[simp] theorem Hub.spareChan_dieCores (h : Hub) (c code : Nat) (readable : Bool) :
    (h.spareChan c code readable).dieCores = h.dieCores := by
  unfold Hub.spareChan
  dsimp only
  repeat' split
  all_goals simp only [↓Hub.notice_dieCores, ↓Hub.retireChan_dieCores, ↓Hub.setCh_dieCores, ↓Hub.setDie_dieCores, implies_true,
    ↓Hub.setDie_dieCores, Die.core_eq]
@[simp] theorem Hub.setEngWin_dieCores (h : Hub) (d : Nat) (u : Word) (w : Option FaultWin) :
    (h.setEngWin d u w).dieCores = h.dieCores := by
  simp only [Hub.setEngWin, ↓Hub.setDie_dieCores, implies_true, ↓Hub.setDie_dieCores, Die.core_eq]
@[simp] theorem Hub.placeUse_dieCores (h : Hub) (d e c : Nat) (others : List Nat) (get : Chan → Option ChurnUse) (put :
    Option ChurnUse → Chan → Chan) : (h.placeUse d e c others get put).dieCores = h.dieCores := by
  unfold Hub.placeUse
  split
  · rfl
  · split
    · rfl
    · split <;> exact h.setCh_dieCores _ _
@[simp] theorem Hub.moveChurn_dieCores (h : Hub) (d e : Nat) : (h.moveChurn d e).dieCores = h.dieCores := by
  rw [h.moveChurn_eq]
  refine forAll_dieCores _ (fun c g => ?_) _ _
  simp only [Hub.placeUses, ↓apply_ite Hub.dieCores, ↓Hub.notice_dieCores, ↓Hub.placeUse_dieCores, ite_self]
@[simp] theorem Hub.retireEngine_dieCores (h : Hub) (d typ e : Nat) : (h.retireEngine d typ e).dieCores = h.dieCores := by
  simp only [Hub.retireEngine, ↓Hub.moveChurn_dieCores, ↓Hub.setDie_dieCores, ↓apply_ite Hub.dieCores, ite_self, implies_true,
    ↓Hub.setDie_dieCores, Die.core_eq]
@[simp] theorem Hub.engineFail_dieCores (h : Hub) (d typ e code : Nat) (readable passes : Bool) :
    (h.engineFail d typ e code readable passes).dieCores = h.dieCores := by
  unfold Hub.engineFail
  dsimp only
  repeat' split
  all_goals simp only [↓Hub.event_dieCores, ↓Hub.retireEngine_dieCores, ↓Hub.setDie_dieCores, ↓Hub.setEngWin_dieCores,
    ↓Hub.spareChan_dieCores, ↓Hub.dieCores_mk, implies_true, ↓Hub.setDie_dieCores, ↓Hub.map_core_dies, Die.core_eq]
@[simp] theorem Hub.churnMismatch_dieCores (h : Hub) (d e : Nat) : (h.churnMismatch d e).dieCores = h.dieCores := by
  simp only [Hub.churnMismatch, ↓Hub.engineFail_dieCores, ↓Hub.event_dieCores, ↓Hub.setDie_dieCores, ↓Hub.tick_dieCores, ↓apply_ite
    Hub.dieCores, ite_self, implies_true, ↓Hub.setDie_dieCores, Die.core_eq]
@[simp] theorem Hub.churnClose_dieCores (h : Hub) (raw : Bool) (c : Nat) : (h.churnClose raw c).dieCores = h.dieCores := by
  unfold Hub.churnClose
  split <;> simp only [↓Hub.churnCapture_dieCores, ↓Hub.churnMismatch_dieCores, ↓Hub.setCh_dieCores, ↓Hub.sweepPut_dieCores,
    ↓Hub.tick_dieCores, ↓apply_ite
    Hub.dieCores, ite_self]
@[simp] theorem Hub.churnBreak_dieCores (h : Hub) (raw : Bool) (c : Nat) : (h.churnBreak raw c).dieCores = h.dieCores := by
  simp only [Hub.churnBreak, ↓Hub.churnClose_dieCores, ↓Hub.setCh_dieCores]
@[simp] theorem Hub.churnEra_dieCores (h : Hub) (raw : Bool) (c b : Nat) : (h.churnEra raw c b).dieCores = h.dieCores := by
  unfold Hub.churnEra
  split <;> simp only [↓Hub.churnBreak_dieCores, ↓apply_ite Hub.dieCores, ite_self]
@[simp] theorem Hub.churnTake_dieCores (h : Hub) (raw : Bool) (c idx inst : Nat) (x : Sample) :
    (h.churnTake raw c idx inst x).dieCores = h.dieCores := by
  unfold Hub.churnTake
  dsimp only
  repeat' split
  all_goals simp only [↓Hub.churnCapture_dieCores, ↓Hub.churnClose_dieCores, ↓Hub.churnEra_dieCores, ↓Hub.setCh_dieCores,
    ↓Hub.setFlow_dieCores]
@[simp] theorem Hub.setCap_dieCores (h : Hub) (n : Nat) (f : Capture → Capture) : (h.setCap n f).dieCores = h.dieCores :=
  congrArg (List.map Die.core) (Hub.setCap_dies ..)
@[simp] theorem Hub.setCoach_dieCores (h : Hub) (d seq : Nat) (f : Coach → Coach) : (h.setCoach d seq f).dieCores = h.dieCores := by
  simp only [Hub.setCoach, ↓Hub.setDie_dieCores, implies_true, ↓Hub.setDie_dieCores, Die.core_eq]
@[simp] theorem Hub.reserveDie_dieCores (n : Nat) (eval : Bool) (d : Nat) (h : Hub) :
    (Hub.reserveDie n eval d h).dieCores = h.dieCores := by
  unfold Hub.reserveDie
  dsimp only
  repeat' split
  all_goals simp only [↓Hub.notice_dieCores, ↓Hub.setCap_dieCores, ↓Hub.dieCores_mk, ↓Hub.map_core_dies]
@[simp] theorem Hub.retryWait_dieCores (h : Hub) (d : Nat) : (h.retryWait d).dieCores = h.dieCores := by
  refine forAll_dieCores _ (fun n g => ?_) _ _
  split <;> simp only [↓apply_ite Hub.dieCores, ↓Hub.reserveDie_dieCores, ite_self]
@[simp] theorem Hub.reserve_dieCores (h : Hub) (n : Nat) : (h.reserve n).dieCores = h.dieCores := by
  unfold Hub.reserve
  split <;> simp only [↓Hub.reserveDie_dieCores, ↓forAll_dieCores, implies_true]
@[simp] theorem Hub.flowTouch_dieCores (h : Hub) (d : Nat) : (h.flowTouch d).dieCores = h.dieCores := by
  simp only [Hub.flowTouch, ↓Hub.spoolTouch_dieCores, ↓Hub.watermarks_dieCores]
@[simp] theorem Hub.record_dieCores (h : Hub) (kind : Nat) (payload : Bytes) : (h.record kind payload).dieCores = h.dieCores := by
  simp only [Hub.record, ↓Hub.recordAt_dieCores]
@[simp] theorem Hub.coachRecord_dieCores (h : Hub) (k : FlowKey) (stream first : Nat) (b : Bytes) :
    (h.coachRecord k stream first b).1.dieCores = h.dieCores := by
  unfold Hub.coachRecord
  split
  · rfl
  · exact h.setFlow_dieCores _ _
@[simp] theorem Hub.sendCoach_dieCores (h : Hub) (d : Nat) (c : Coach) : (h.sendCoach d c).dieCores = h.dieCores := by
  unfold Hub.sendCoach
  split <;> simp only [↓Hub.coachRecord_dieCores, ↓Hub.setCoach_dieCores, ↓Hub.setDie_dieCores, ↓apply_ite Hub.dieCores, ite_self,
    implies_true, ↓Hub.setDie_dieCores, Die.core_eq]
@[simp] theorem Hub.sendWanted_dieCores (h : Hub) (d : Nat) : (h.sendWanted d).dieCores = h.dieCores := by
  simp only [Hub.sendWanted, ↓Hub.flowTouch_dieCores, ↓Hub.sendCoach_dieCores, ↓forAll_dieCores, ↓apply_ite Hub.dieCores, ite_self,
    implies_true]
@[simp] theorem Hub.disarm_dieCores (h : Hub) (n : Nat) : (h.disarm n).dieCores = h.dieCores := by
  simp only [Hub.disarm, ↓Hub.retryWait_dieCores, ↓forAll_dieCores, ↓Hub.dieCores_mk, implies_true, ↓Hub.map_core_dies]
@[simp] theorem Hub.trainDone_dieCores (h : Hub) (n : Nat) : (h.trainDone n).dieCores = h.dieCores := by
  unfold Hub.trainDone
  dsimp only
  repeat' split
  all_goals simp only [↓Hub.disarm_dieCores, ↓Hub.notice_dieCores, ↓Hub.reserve_dieCores, ↓Hub.sendWanted_dieCores, ↓Hub.setCap_dieCores,
    ↓Hub.setDie_dieCores, ↓forAll_dieCores, implies_true, ↓Hub.setDie_dieCores, Die.core_eq]
@[simp] theorem Hub.coachPayload_dieCores (h : Hub) (c : Coach) : (h.coachPayload c).1.dieCores = h.dieCores := by
  unfold Hub.coachPayload
  split <;> simp only [↓Hub.churnMismatch_dieCores, ↓Hub.setCh_dieCores, ↓iter_dieCores, ↓Hub.dieCores_mk, implies_true, ↓Hub.map_core_dies]
@[simp] theorem Hub.coachDone_dieCores (h : Hub) (d seq : Nat) : (h.coachDone d seq).dieCores = h.dieCores := by
  unfold Hub.coachDone
  split
  · rfl
  · next c _ =>
    have paid := h.coachPayload_dieCores c
    generalize h.coachPayload c = formed at paid ⊢
    obtain ⟨g, pay, churn⟩ := formed
    simp only [↓Hub.trainDone_dieCores, ↓apply_ite Hub.dieCores, ↓Hub.retryWait_dieCores, ↓Hub.setCap_dieCores, ↓Hub.setCoach_dieCores,
      ite_self]
    exact paid
@[simp] theorem Hub.capTake_dieCores (n c idx : Nat) (v0 v1 : Int) (flags : Byte) (h : Hub) :
    (Hub.capTake n c idx v0 v1 flags h).dieCores = h.dieCores := by
  unfold Hub.capTake
  split
  · rfl
  · split
    · rfl
    · extract_lets d p step f out a b all rt u fm u' s keep y' g
      have kept : g.dieCores = h.dieCores := h.setCap_dieCores _ _
      split
      · exact kept
      · split
        · exact kept
        · split
          · exact kept
          · dsimp only
            split
            · rw [Hub.coachDone_dieCores, Hub.setCoach_dieCores, kept]
            · rw [Hub.setCoach_dieCores, kept]
@[simp] theorem Hub.capFeed_dieCores (h : Hub) (src c idx : Nat) (v0 v1 : Int) (flags : Byte) :
    (h.capFeed src c idx v0 v1 flags).dieCores = h.dieCores := by
  refine forAll_dieCores _ (fun n g => ?_) _ _
  split <;> simp only [↓apply_ite Hub.dieCores, ↓Hub.capTake_dieCores, ite_self]
@[simp] theorem Hub.konEvent_dieCores (h : Hub) (who stamp : Nat) : (h.konEvent who stamp).dieCores = h.dieCores := by
  simp only [Hub.konEvent, ↓Hub.dieCores_mk, ↓Hub.map_core_dies]
@[simp] theorem Hub.trigLate_dieCores (h : Hub) (t who limit : Nat) : (h.trigLate t who limit).dieCores = h.dieCores := by
  simp only [Hub.trigLate, ↓Hub.eventAt_dieCores]
@[simp] theorem Hub.startCoach_dieCores (n : Nat) (t : Trigger) (trainId missed : Nat) (y : CapChan) (h : Hub) :
    (Hub.startCoach n t trainId missed y h).dieCores = h.dieCores := by
  unfold Hub.startCoach
  split <;> simp only [↓Hub.setCap_dieCores, ↓Hub.setCh_dieCores, ↓Hub.setDie_dieCores, ↓Hub.trigLate_dieCores, ↓Hub.dieCores_mk,
    ↓apply_ite Hub.dieCores, ite_self, implies_true, ↓Hub.setDie_dieCores, ↓Hub.map_core_dies, Die.core_eq]
@[simp] theorem Hub.coachFull_dieCores (n c : Nat) (h : Hub) : (Hub.coachFull n c h).dieCores = h.dieCores := by
  unfold Hub.coachFull
  split <;> simp only [↓Hub.coachDone_dieCores, ↓apply_ite Hub.dieCores, ite_self]
@[simp] theorem Hub.capJoin_dieCores (h : Hub) (n id source : Nat) (c : Capture) : (h.capJoin n id source c).dieCores = h.dieCores := by
  simp only [Hub.capJoin, ↓Hub.setCap_dieCores, ↓Hub.setDie_dieCores, ↓forAll_dieCores, implies_true, ↓Hub.setDie_dieCores, Die.core_eq]
@[simp] theorem Hub.capHit_dieCores (n : Nat) (t : Trigger) (h : Hub) : (Hub.capHit n t h).dieCores = h.dieCores := by
  unfold Hub.capHit
  dsimp only
  repeat' split
  all_goals simp only [↓Hub.capJoin_dieCores, ↓Hub.coachFull_dieCores, ↓Hub.setCap_dieCores, ↓Hub.startCoach_dieCores,
    ↓Hub.trainDone_dieCores, ↓forAll_dieCores, ↓Hub.dieCores_mk, implies_true, ↓Hub.map_core_dies]
@[simp] theorem Hub.capFire_dieCores (h : Hub) (t : Trigger) (sel : CapParams → Bool) : (h.capFire t sel).dieCores = h.dieCores := by
  refine forAll_dieCores _ (fun n g => ?_) _ _
  split <;> simp only [↓apply_ite Hub.dieCores, ↓Hub.capHit_dieCores, ite_self]
@[simp] theorem Hub.queue_dieCores (h : Hub) (p : Nat) (f : Frame) : (h.queue p f).dieCores = h.dieCores := by
  simp only [Hub.queue, ↓Hub.setLink_dieCores, modAt]
@[simp] theorem Hub.originate_dieCores (h : Hub) (cls kind : Nat) (body : Bytes) : (h.originate cls kind body).dieCores = h.dieCores := by
  simp only [Hub.originate, ↓Hub.queue_dieCores, ↓apply_ite Hub.dieCores, ite_self]
@[simp] theorem Hub.arrAct_dieCores (h : Hub) (m : ArrMsg) : (h.arrAct m).dieCores = h.dieCores := by
  simp only [Hub.arrAct, ↓Hub.capFire_dieCores, ↓Hub.trigLate_dieCores, ↓Hub.dieCores_mk, ↓apply_ite Hub.dieCores, ite_self,
    ↓Hub.map_core_dies]
@[simp] theorem Hub.arrOriginate_dieCores (h : Hub) (t : Trigger) (group : Nat) : (h.arrOriginate t group).dieCores = h.dieCores := by
  simp only [Hub.arrOriginate, ↓Hub.arrAct_dieCores, ↓Hub.originate_dieCores, ↓Hub.dieCores_mk, ↓apply_ite Hub.dieCores, ite_self,
    ↓Hub.map_core_dies]
@[simp] theorem Hub.detRecord_dieCores (h : Hub) (d : Nat) (b : Bytes) : (h.detRecord d b).dieCores = h.dieCores := by
  simp only [Hub.detRecord, ↓Hub.emitRecord_dieCores]
@[simp] theorem Hub.fire_dieCores (h : Hub) (d source stamp missed info : Nat) (flags : Byte) (route : Word) (sel : CapParams → Bool) :
    (h.fire d source stamp missed info flags route sel).dieCores = h.dieCores := by
  simp only [Hub.fire, ↓Hub.arrOriginate_dieCores, ↓Hub.capFire_dieCores, ↓Hub.detRecord_dieCores, ↓Hub.dieCores_mk, ↓apply_ite
    Hub.dieCores, ite_self, ↓Hub.map_core_dies]
@[simp] theorem Hub.fireChan_dieCores (h : Hub) (c stamp missed info : Nat) (flags : Byte) (route : Word) :
    (h.fireChan c stamp missed info flags route).dieCores = h.dieCores := by
  simp only [Hub.fireChan, ↓Hub.fire_dieCores, ↓Hub.konEvent_dieCores]
@[simp] theorem Hub.trigSettle_dieCores (h : Hub) (c : Nat) (next : Option (Nat × Int × Byte)) :
    (h.trigSettle c next).dieCores = h.dieCores := by
  unfold Hub.trigSettle
  repeat' split
  all_goals simp only [↓Hub.fireChan_dieCores, ↓Hub.setCh_dieCores]
@[simp] theorem Hub.trigTake_dieCores (h : Hub) (c t : Nat) (x : Int) (f : Byte) : (h.trigTake c t x f).dieCores = h.dieCores := by
  unfold Hub.trigTake
  dsimp only
  repeat' split
  all_goals simp only [↓Hub.fireChan_dieCores, ↓Hub.setCh_dieCores, ↓Hub.trigSettle_dieCores]
@[simp] theorem Hub.trigSkip_dieCores (h : Hub) (c : Nat) : (h.trigSkip c).dieCores = h.dieCores := by
  simp only [Hub.trigSkip, ↓Hub.trigSettle_dieCores]
@[simp] theorem Hub.rawOut_dieCores (h : Hub) (c : Nat) (e : RawEntry) (f : Byte) (skip : Bool) :
    (h.rawOut c e f skip).dieCores = h.dieCores := by
  simp only [Hub.rawOut, ↓Hub.capFeed_dieCores, ↓Hub.churnTake_dieCores, ↓Hub.sweepPut_dieCores, ↓Hub.trigSkip_dieCores,
    ↓Hub.trigTake_dieCores, ↓apply_ite
    Hub.dieCores, ite_self]
@[simp] theorem Hub.redClose_dieCores (h : Hub) (c : Nat) (part : Bool) : (h.redClose c part).dieCores = h.dieCores := by
  unfold Hub.redClose
  dsimp only
  repeat' split
  all_goals simp only [↓Hub.emitSince_dieCores, ↓Hub.setCh_dieCores]
@[simp] theorem Hub.sweepRate_dieCores (h : Hub) (raw : Bool) (c inst num den words cause : Nat) :
    (h.sweepRate raw c inst num den words cause).dieCores = h.dieCores := by
  simp only [Hub.sweepRate, ↓Hub.sweepPut_dieCores]
@[simp] theorem Hub.skimTurn_dieCores (h : Hub) (c j : Nat) : (h.skimTurn c j).dieCores = h.dieCores := by
  unfold Hub.skimTurn
  dsimp only
  repeat' split
  all_goals simp only [↓Hub.churnBreak_dieCores, ↓Hub.setCh_dieCores, ↓Hub.sweepRate_dieCores]
@[simp] theorem Hub.redTake_dieCores (h : Hub) (c j : Nat) (v0 v1 : Int) (f : Byte) : (h.redTake c j v0 v1 f).dieCores = h.dieCores := by
  simp only [Hub.redTake, ↓Hub.redClose_dieCores, ↓Hub.setCh_dieCores, ↓Hub.skimTurn_dieCores, ↓apply_ite Hub.dieCores, ite_self]
@[simp] theorem Hub.trigDet_dieCores (h : Hub) (c : Nat) (second : Bool) (t : Nat) (v : Int) (f : Byte) (skip : Bool) :
    (h.trigDet c second t v f skip).dieCores = h.dieCores := by
  unfold Hub.trigDet
  dsimp only
  repeat' split
  all_goals simp only [↓Hub.fireChan_dieCores, ↓Hub.setCh_dieCores]
@[simp] theorem Hub.detTake_dieCores (h : Hub) (c j t : Nat) (second : Bool) (v0 v1 : Int) (f : Byte) (skip : Bool) :
    (h.detTake c j t second v0 v1 f skip).dieCores = h.dieCores := by
  simp only [Hub.detTake, ↓Hub.detRecord_dieCores, ↓Hub.setCh_dieCores, ↓Hub.trigDet_dieCores, ↓apply_ite Hub.dieCores, ite_self]
@[simp] theorem Hub.thrTake_dieCores (h : Hub) (c t n : Nat) (v : Int) (f : Byte) : (h.thrTake c t n v f).dieCores = h.dieCores := by
  unfold Hub.thrTake
  dsimp only
  repeat' split
  all_goals simp only [↓Hub.detRecord_dieCores, ↓Hub.setCh_dieCores]
@[simp] theorem Hub.repTake_dieCores (v : Int) (f : Byte) (n : Nat) (h : Hub) : (Hub.repTake v f n h).dieCores = h.dieCores := by
  simp only [Hub.repTake, ↓Hub.notice_dieCores, ↓Hub.dieCores_mk, ↓apply_ite Hub.dieCores, ite_self, ↓Hub.map_core_dies]
@[simp] theorem Hub.skimStream_dieCores (h : Hub) (c j inst : Nat) (v0 v1 : Int) (f : Byte) :
    (h.skimStream c j inst v0 v1 f).dieCores = h.dieCores := by
  unfold Hub.skimStream
  dsimp only
  repeat' split
  all_goals simp only [↓Hub.churnTake_dieCores, ↓Hub.setCh_dieCores, ↓Hub.sweepPut_dieCores, ↓Hub.sweepRate_dieCores]
@[simp] theorem Hub.skimOut_dieCores (h : Hub) (c j inst : Nat) (v0 v1 : Int) (f : Byte) (skip : Bool) :
    (h.skimOut c j inst v0 v1 f skip).dieCores = h.dieCores := by
  simp only [Hub.skimOut, ↓Hub.capFeed_dieCores, ↓Hub.detTake_dieCores, ↓Hub.redTake_dieCores, ↓Hub.repTake_dieCores, ↓Hub.setCh_dieCores,
    ↓Hub.skimStream_dieCores, ↓Hub.thrTake_dieCores, ↓Hub.trigSkip_dieCores, ↓Hub.trigTake_dieCores, ↓forAll_dieCores, ↓apply_ite
      Hub.dieCores, ite_self,
    implies_true]
@[simp] theorem Hub.cutCoach_dieCores (h : Hub) (n c : Nat) : (h.cutCoach n c).dieCores = h.dieCores := by
  unfold Hub.cutCoach
  split <;> simp only [↓Hub.coachDone_dieCores, ↓Hub.retryWait_dieCores, ↓Hub.setCap_dieCores, ↓Hub.setCoach_dieCores,
    ↓Hub.setDie_dieCores, ↓Hub.trainDone_dieCores, ↓apply_ite Hub.dieCores, ite_self, implies_true, ↓Hub.setDie_dieCores, Die.core_eq]
@[simp] theorem Hub.capRate_dieCores (h : Hub) (src c : Nat) : (h.capRate src c).dieCores = h.dieCores := by
  refine forAll_dieCores _ (fun n g => ?_) _ _
  split <;> simp only [↓apply_ite Hub.dieCores, ↓Hub.setCap_dieCores, ↓Hub.cutCoach_dieCores, ite_self]
@[simp] theorem Hub.endOld_dieCores (h : Hub) (c inst : Nat) (a b : Desc) (red : Option Word) :
    (h.endOld c inst a b red).dieCores = h.dieCores := by
  simp only [Hub.endOld, ↓Hub.capRate_dieCores, ↓Hub.churnBreak_dieCores, ↓Hub.redClose_dieCores, ↓Hub.trigSkip_dieCores, ↓apply_ite
    Hub.dieCores, ite_self]
@[simp] theorem Hub.calQueue_dieCores (h : Hub) (o : Nat) : (h.calQueue o).dieCores = h.dieCores := by
  simp only [Hub.calQueue, ↓Hub.dieCores_mk, ↓apply_ite Hub.dieCores, ite_self, ↓Hub.map_core_dies]
@[simp] theorem Hub.takeGain_dieCores (h : Hub) (c : Nat) : (h.takeGain c).dieCores = h.dieCores := by
  unfold Hub.takeGain
  dsimp only
  repeat' split
  all_goals simp only [↓Hub.calQueue_dieCores, ↓Hub.setCh_dieCores]

end Sys2Proof.Machine

end


section
/-! PROOFS. The audit converter and reduction records: Obligations.AuditEntries and AuditComparisons. -/

namespace Sys2Proof.Machine

/-! ## Dies, one and several (R359, R377) -/

theorem Hub.die_of_getElem? {h : Hub} {d : Nat} {x : Die} (there : h.dies[d]? = some x) : h.die d = x := by
  rw [Hub.die, List.getD_eq_getElem?_getD, there]
  rfl

theorem Hub.lt_nDies {h : Hub} (shaped : Shaped h) {d : Nat} {x : Die} (there : h.dies[d]? = some x) : d < h.nDies := by
  obtain ⟨-, -, dies, -⟩ := shaped
  exact dies ▸ (List.getElem?_eq_some_iff.1 there).1

theorem Hub.setDie_getElem?_same {h : Hub} {d : Nat} {x : Die} (there : h.dies[d]? = some x) (f : Die → Die) :
    (h.setDie d f).dies[d]? = some (f x) := by
  rw [Hub.setDie_dies, List.getElem?_modify, there]
  simp

theorem Hub.setAudit_getElem?_same {h : Hub} {d : Nat} {x : Die} (there : h.dies[d]? = some x) (f : Audit → Audit) :
    (h.setAudit d f).dies[d]? = some { x with audit := f x.audit } := Hub.setDie_getElem?_same there _

theorem Hub.getElem?_of_dieCores {h g : Hub} (same : g.dieCores = h.dieCores) {d : Nat} {x : Die} (there : h.dies[d]? = some x) :
    ∃ y, g.dies[d]? = some y ∧ y.core = x.core := getElem?_of_map same there

theorem Hub.setAudit_of_getElem? {h : Hub} {d : Nat} {x : Die} (there : h.dies[d]? = some x) {f g : Audit → Audit}
    (same : f x.audit = g x.audit) : h.setAudit d f = h.setAudit d g :=
  congrArg (fun l => { h with dies := l }) (modify_eq_of_getElem? there (congrArg (fun a : Audit => ({ x with audit := a } : Die)) same))

/-- A command over dies that can serve, none of which refuses it, runs. -/
theorem Hub.overMask_runs {h : Hub} {dies : List Nat} {down : Nat → Bool} (up : ∀ d ∈ h.named dies, d < h.nDies ∧ down d = false)
    {check : Nat → Option Nat} (passes : ∀ d ∈ h.named dies, check d = none) (k : List Nat → Hub) :
    h.overMask down dies check k = k (h.named dies) := by
  obtain ⟨-, d, named, absent⟩ | ⟨-, ⟨d, least, -⟩ | ⟨-, ⟨d, named, e, fails, -⟩ | ⟨-, runs⟩⟩⟩ := h.overMask_cases down dies check k
  · exact absurd (up d named).1 (Nat.not_lt.2 absent)
  · have noneDown : (h.named dies).filter down = [] := List.filter_eq_nil_iff.2 fun d named => by simp [(up d named).2]
    rw [noneDown] at least
    exact absurd least (by simp [leastOf])
  · exact absurd fails (by simp [passes d named])
  · exact runs

/-- A command over dies that can serve, one of which refuses it, answers the status of one that does. -/
theorem Hub.overMask_refuses {h : Hub} {dies : List Nat} {down : Nat → Bool} (up : ∀ d ∈ h.named dies, d < h.nDies ∧ down d = false)
    {check : Nat → Option Nat} (fails : ∃ d ∈ h.named dies, check d ≠ none) (k : List Nat → Hub) :
    ∃ d ∈ h.named dies, ∃ st, check d = some st ∧ h.overMask down dies check k = h.refuseDie st d := by
  obtain ⟨-, d, named, absent⟩ | ⟨-, ⟨d, least, -⟩ | ⟨-, ⟨d, named, e, refuses, answer⟩ | ⟨passes, -⟩⟩⟩ := h.overMask_cases down dies check k
  · exact absurd (up d named).1 (Nat.not_lt.2 absent)
  · have noneDown : (h.named dies).filter down = [] := List.filter_eq_nil_iff.2 fun d named => by simp [(up d named).2]
    rw [noneDown] at least
    exact absurd least (by simp [leastOf])
  · exact ⟨d, named, e, refuses, answer⟩
  · obtain ⟨d, named, fails⟩ := fails
    exact absurd (passes d named) fails

theorem Hub.onMask_runs {h : Hub} {dies : List Nat} (up : NamedUp h dies) {check : Nat → Option Nat}
    (passes : ∀ d ∈ h.named dies, check d = none) (k : List Nat → Hub) : h.onMask dies check k = k (h.named dies) :=
  Hub.overMask_runs up.2 passes k

theorem Hub.onMask_refuses {h : Hub} {dies : List Nat} (up : NamedUp h dies) {check : Nat → Option Nat}
    (fails : ∃ d ∈ h.named dies, check d ≠ none) (k : List Nat → Hub) :
    ∃ d ∈ h.named dies, ∃ st, check d = some st ∧ h.onMask dies check k = h.refuseDie st d := Hub.overMask_refuses up.2 fails k

theorem Hub.readMask_runs {h : Hub} {dies : List Nat} (up : Named h dies) (k : List Nat → Hub) : h.readMask dies k = k (h.named dies) :=
  Hub.overMask_runs (fun d named => ⟨(up.2 d named).1, by simp [(up.2 d named).2]⟩) (fun _ _ => rfl) k

/-- The same change made of each of several dies, once or more, is one change of the list. -/
theorem forAll_setDie {f : Die → Die} (idem : ∀ x, f (f x) = f x) (l : List Nat) (h : Hub) :
    forAll l (fun d g => g.setDie d f) h = { h with dies := modAll h.dies l fun _ => f } := by
  induction l generalizing h with
  | nil => rw [modAll_nil]; rfl
  | cons d l ih =>
    refine (ih (h.setDie d f)).trans (congrArg (fun l => { h with dies := l }) (List.ext_getElem? fun i => ?_))
    rw [modAll_getElem?, modAll_getElem?, Hub.setDie_dies, List.getElem?_modify]
    cases h.dies[i]? with
    | none => rfl
    | some x => by_cases named : i ∈ l <;> by_cases first : d = i <;> simp [named, first, idem, eq_comm]

/-! ## Urgent requests (R83 to R85) -/

/-- What an urgent request of an entry makes of an audit converter. -/
def Audit.request (a : Audit) (e : Nat) : Audit :=
  if a.urgent.contains e || a.overflow.contains e then { a with urgMerge := satInc 8 a.urgMerge }
  else if a.urgent.length < 8 then { a with urgent := a.urgent ++ [e] }
  else { a with overflow := insertNat e a.overflow }

theorem Hub.urgent_eq (h : Hub) (d e : Nat) : h.urgent d e = h.setAudit d fun a => a.request e := rfl

theorem mem_insertNat {a b : Nat} {l : List Nat} : b ∈ insertNat a l ↔ b = a ∨ b ∈ l := by
  induction l with
  | nil => simp [insertNat]
  | cons c l ih =>
    unfold insertNat
    split
    · simp
    · rw [List.mem_cons, ih, List.mem_cons]
      tauto

/-- What an audit converter keeps whose requests alone change: all but its queues. -/
def Audit.unqueued (a : Audit) : Audit := { a with urgent := [], overflow := [], urgMerge := 0 }

theorem Audit.request_unqueued (a : Audit) (e : Nat) : (a.request e).unqueued = a.unqueued := by
  unfold Audit.request
  split
  · rfl
  · split <;> rfl

/-- The entries that wait at an audit converter. -/
def Audit.waits (a : Audit) (e : Nat) : Prop := e ∈ a.urgent ∨ e ∈ a.overflow

theorem Audit.request_waits (a : Audit) (e : Nat) : (a.request e).waits e := by
  unfold Audit.request Audit.waits
  split
  case isTrue merged => simpa using merged
  case isFalse =>
    split
    · exact Or.inl (by simp)
    · exact Or.inr (mem_insertNat.2 (Or.inl rfl))

theorem Audit.request_urgent (a : Audit) (e : Nat) {i : Nat} (waits : i ∈ a.urgent) : i ∈ (a.request e).urgent := by
  unfold Audit.request
  split
  · exact waits
  · split
    · exact List.mem_append_left _ waits
    · exact waits

theorem Audit.request_overflow (a : Audit) (e : Nat) {i : Nat} (waits : i ∈ a.overflow) : i ∈ (a.request e).overflow := by
  unfold Audit.request
  split
  · exact waits
  · split
    · exact waits
    · exact mem_insertNat.2 (Or.inr waits)

/-- Several requests: each then waits, and what waited still does; nothing else of the converter changes. -/
theorem Hub.urgents {h : Hub} {d : Nat} {x : Die} (there : h.dies[d]? = some x) (es : List Nat) :
    ∃ a : Audit, (forAll es (fun e g => g.urgent d e) h).dies[d]? = some { x with audit := a } ∧ (∀ e ∈ es, a.waits e) ∧
      (∀ e ∈ x.audit.urgent, e ∈ a.urgent) ∧ (∀ e ∈ x.audit.overflow, e ∈ a.overflow) ∧ a.unqueued = x.audit.unqueued := by
  induction es generalizing h x with
  | nil => exact ⟨x.audit, there, by simp, fun _ => id, fun _ => id, rfl⟩
  | cons e es ih =>
    obtain ⟨a, found, all, urgent, overflow, rest⟩ := ih (Hub.setAudit_getElem?_same there fun a => a.request e)
    refine ⟨a, found, ?_, fun i waits => urgent i (x.audit.request_urgent e waits),
      fun i waits => overflow i (x.audit.request_overflow e waits), rest.trans (x.audit.request_unqueued e)⟩
    refine List.forall_mem_cons.2 ⟨?_, all⟩
    exact (x.audit.request_waits e).imp (urgent e) (overflow e)

theorem Hub.calAuditReq_runs {h : Hub} {d : Nat} (up : DieUp h d) {es : List Nat} (some : es ≠ []) (few : es.length ≤ 8)
    (entries : ∀ e ∈ es, e < 144) : h.calAuditReq d es = (forAll es (fun e g => g.urgent d e) h).ok [] := by
  obtain ⟨-, present, serves⟩ := up
  unfold Hub.calAuditReq
  rw [if_neg, Hub.onDies_one_up h serves]
  simpa [some, few, present] using entries

/-! ## Entries of the run (R77 to R79, R84) -/

theorem auditSum_of_range {codes : List Int} (range : ∀ v ∈ codes, -8192 ≤ v ∧ v ≤ 8191) : auditSum codes = codes.sum := by
  have same : codes.map auditClip = codes := by
    refine (List.map_congr_left fun v mem => ?_).trans codes.map_id
    obtain ⟨low, high⟩ := range v mem
    show max (-8192) (min 8191 v) = v
    omega
  rw [auditSum, same]

/-- The results of an entry in an audit converter. -/
def Audit.stored (a : Audit) (e : Nat) (codes : List Int) : Audit :=
  { a with sums := modAt a.sums e fun _ => auditSum codes,
           clips := modAt a.clips e fun _ => codes.any fun v => auditClip v != v,
           points := if e < 128 then a.points else modAt a.points (e - 128) fun p => (p.1 + auditSum codes, p.2 + 1) }

theorem Hub.auditStore_dies (h : Hub) (d e : Nat) (codes : List Int) :
    (h.auditStore d e codes).dies = (h.setAudit d fun a => a.stored e codes).dies := by
  unfold Hub.auditStore
  extract_lets s clipped g c v at' g'
  split
  · split <;> rfl
  · rfl

/-- The settings of a channel that decide whether the run takes it. -/
def Chan.audited (x : Chan) := (x.desc, x.retired)

theorem Hub.setCh_ch_view {α : Type} (h : Hub) (c i : Nat) {f : Chan → Chan} {view : Chan → α} (keeps : ∀ x, view (f x) = view x) :
    view ((h.setCh c f).ch i) = view (h.ch i) := by
  simp only [Hub.ch, Hub.setCh_chans, List.getD_eq_getElem?_getD, List.getElem?_modify]
  cases h.chans[i]? with
  | none => rfl
  | some q => by_cases named : c = i <;> simp [named, keeps]

theorem Hub.setDie_die_view {α : Type} (h : Hub) (d i : Nat) {f : Die → Die} {view : Die → α} (keeps : ∀ x, view (f x) = view x) :
    view ((h.setDie d f).die i) = view (h.die i) := by
  simp only [Hub.die, Hub.setDie_dies, List.getD_eq_getElem?_getD, List.getElem?_modify]
  cases h.dies[i]? with
  | none => rfl
  | some q => by_cases named : d = i <;> simp [named, keeps]

theorem Hub.auditStore_audited (h : Hub) (d e : Nat) (codes : List Int) (c : Nat) :
    ((h.auditStore d e codes).ch c).audited = (h.ch c).audited := by
  unfold Hub.auditStore
  extract_lets s clipped g c' v at' g'
  have read : (g'.ch c).audited = (h.ch c).audited := g.setCh_ch_view c' c (by intro; rfl)
  split
  · split
    · exact (g'.setCh_ch_view c' c (by intro; rfl)).trans read
    · exact read
  · rfl

theorem Hub.auditStore_octs (h : Hub) (d e : Nat) (codes : List Int) : (h.auditStore d e codes).octs = h.octs := by
  unfold Hub.auditStore
  extract_lets s clipped g c v at' g'
  split
  · split <;> rfl
  · rfl

theorem Hub.auditStore_flows (h : Hub) (d e : Nat) (codes : List Int) : (h.auditStore d e codes).flows = h.flows := by
  unfold Hub.auditStore
  extract_lets s clipped g c v at' g'
  split
  · split <;> rfl
  · rfl

/-- The run reaches the same entry where channels, holds, power and mode are the same. -/
theorem Hub.runEntry_congr {h g : Hub} (chans : ∀ c, (g.ch c).audited = (h.ch c).audited) (octs : g.octs = h.octs)
    (quads : ∀ d, (g.die d).quads = (h.die d).quads) {d : Nat} (visits : (g.aud d).visits = (h.aud d).visits) (p : Nat) :
    g.runEntry d p = h.runEntry d p := by
  have same (e : Nat) : g.inRun d e = h.inRun d e := by
    have settings := chans (128 * d + e)
    simp only [Chan.audited, Prod.mk.injEq] at settings
    obtain ⟨desc, retired⟩ := settings
    unfold Hub.inRun Hub.powered Hub.oct
    dsimp only
    rw [visits, quads, desc, retired, octs]
  unfold Hub.runEntry
  rw [funext same]

theorem Hub.setAudit_quads (h : Hub) (d i : Nat) (f : Audit → Audit) : ((h.setAudit d f).die i).quads = (h.die i).quads :=
  h.setDie_die_view d i (by intro; rfl)

theorem Hub.aud_of_getElem? {h : Hub} {d : Nat} {x : Die} (there : h.dies[d]? = some x) : h.aud d = x.audit := by
  rw [Hub.aud, Hub.die_of_getElem? there]

theorem Hub.refRound_free {h : Hub} {d : Nat} (free : (h.aud d).ref = none) (e : Nat) (v : Int) : h.refRound d e v = h := by
  rw [Hub.refRound, free]

section Entry

variable {h : Hub} {d : Nat} {x : Die} (shaped : Shaped h) (there : h.dies[d]? = some x) (sound : x.audit.retired = false)
  (serves : x.inService = true) {codes : List Int} (all : codes.length = 16) (range : ∀ v ∈ codes, -8192 ≤ v ∧ v ≤ 8191)

include there in
theorem Hub.auditStore_getElem? (e : Nat) (codes : List Int) :
    (h.auditStore d e codes).dies[d]? = some { x with audit := x.audit.stored e codes } := by
  rw [Hub.auditStore_dies]
  exact Hub.setAudit_getElem?_same there _

include there in
theorem Hub.auditStore_runEntry (e p : Nat) (codes : List Int) : (h.auditStore d e codes).runEntry d p = h.runEntry d p := by
  refine Hub.runEntry_congr (h.auditStore_audited d e codes) (h.auditStore_octs d e codes) (fun i => ?_) ?_ p
  · have die : (h.auditStore d e codes).die i = (h.setAudit d fun a => a.stored e codes).die i := by
      rw [Hub.die, Hub.die, Hub.auditStore_dies]
    rw [die]
    exact h.setAudit_quads d i _
  · rw [Hub.aud_of_getElem? (Hub.auditStore_getElem? there e codes), Hub.aud_of_getElem? there]
    rfl

include shaped there sound serves all

theorem Hub.auditEntry_goes : ¬(h.nDies ≤ d ∨ codes.length ≠ 16 ∨ (h.aud d).retired = true ∨ (!(h.die d).inService) = true) := by
  rw [Hub.aud_of_getElem? there, Hub.die_of_getElem? there]
  simp [Hub.lt_nDies shaped there, all, sound, serves]

include range

/-- The entry of the run: its sum is kept and the run goes on with the next one. -/
theorem Hub.auditEntry_run {e : Nat} (idle : x.audit.serving = false) (unpaused : x.audit.paused = false) (next : h.runNow d = some e) :
    ∃ y, (h.auditEntry d codes).dies[d]? = some y ∧ y.audit.running = true ∧ y.audit.entry = h.runEntry d (e + 1) ∧
      y.audit.sums = x.audit.sums.modify e (fun _ => codes.sum) ∧ (h.auditEntry d codes).flows = h.flows := by
  have path : h.auditEntry d codes = (h.auditStore d e codes).runOn d e := by
    unfold Hub.auditEntry
    dsimp only
    rw [if_neg (Hub.auditEntry_goes shaped there sound serves all), Hub.aud_of_getElem? there, if_neg (by simp [idle]),
      if_neg (by simp [unpaused]), next]
  rw [path]
  refine ⟨_, Hub.setAudit_getElem?_same (Hub.auditStore_getElem? there e codes) _, rfl, Hub.auditStore_runEntry there e (e + 1) codes, ?_,
    h.auditStore_flows d e codes⟩
  exact congrArg (fun v => modAt x.audit.sums e fun _ => v) (auditSum_of_range range)

/-- The reading of a converter that is calibrated. -/
theorem Hub.auditEntry_cal {e : Nat} {l : List Int} (idle : x.audit.serving = false) (paused : x.audit.paused = true)
    (cal : x.audit.cal = some (e, l)) (few : l.length < 24) :
    h.auditEntry d codes = h.setAudit d fun a => { a with cal := some (e, l ++ [codes.sum]) } := by
  unfold Hub.auditEntry
  dsimp only
  rw [if_neg (Hub.auditEntry_goes shaped there sound serves all), Hub.aud_of_getElem? there, if_neg (by simp [idle]), if_pos paused]
  refine Hub.setAudit_of_getElem? there ?_
  rw [cal, Option.map_some, if_pos few, auditSum_of_range range]

omit shaped there sound serves all range in
/-- The converter goes on behind an urgent entry: its queues, what a reference check has read and the sums stay. -/
theorem Hub.auditEntry_behind {g : Hub} {y : Die} (found : g.dies[d]? = some y) (run : Prop) [Decidable run] (e : Nat) :
    ∃ z, (if run then (g.setAudit d fun a => { a with serving := !a.urgent.isEmpty }).runOn d e
        else g.setAudit d fun a => { a with serving := !a.urgent.isEmpty }).dies[d]? = some z ∧
      z.audit.urgent = y.audit.urgent ∧ z.audit.overflow = y.audit.overflow ∧ z.audit.ref = y.audit.ref ∧ z.audit.sums = y.audit.sums := by
  have serving := Hub.setAudit_getElem?_same found fun a => { a with serving := !a.urgent.isEmpty }
  split
  · exact ⟨_, Hub.setAudit_getElem?_same serving _, rfl, rfl, rfl, rfl⟩
  · exact ⟨_, serving, rfl, rfl, rfl, rfl⟩

omit range in
theorem Hub.auditEntry_urgent {e : Nat} {r : List Nat} (serving : x.audit.serving = true) (urgent : x.audit.urgent = e :: r) :
    h.auditEntry d codes =
      (let g := ((h.auditStore d e codes).setAudit d fun a =>
          { a with urgent := r ++ x.audit.overflow.take 1, overflow := a.overflow.drop 1 }).refRound d e (auditSum codes)
       if x.audit.running ∧ x.audit.entry = some e then (g.setAudit d fun a => { a with serving := !a.urgent.isEmpty }).runOn d e
       else g.setAudit d fun a => { a with serving := !a.urgent.isEmpty }) := by
  unfold Hub.auditEntry
  dsimp only
  rw [if_neg (Hub.auditEntry_goes shaped there sound serves all), Hub.aud_of_getElem? there, if_pos serving, urgent]

/-- An urgent entry outside a reference check: it leaves the queue, which the overflow set fills up. -/
theorem Hub.auditEntry_unchecked {e : Nat} {r : List Nat} (serving : x.audit.serving = true) (urgent : x.audit.urgent = e :: r)
    (check : x.audit.ref = none) : ∃ y, (h.auditEntry d codes).dies[d]? = some y ∧ y.audit.urgent = r ++ x.audit.overflow.take 1 ∧
      y.audit.overflow = x.audit.overflow.drop 1 ∧ y.audit.sums = x.audit.sums.modify e (fun _ => codes.sum) := by
  rw [Hub.auditEntry_urgent shaped there sound serves all serving urgent]
  dsimp only
  have taken := Hub.setAudit_getElem?_same (Hub.auditStore_getElem? there e codes) fun a =>
    { a with urgent := r ++ x.audit.overflow.take 1, overflow := a.overflow.drop 1 }
  rw [Hub.refRound_free (by rw [Hub.aud_of_getElem? taken]; exact check)]
  obtain ⟨z, found, queue, overflow, -, sums⟩ := Hub.auditEntry_behind taken (x.audit.running = true ∧ x.audit.entry = some e) e
  exact ⟨z, found, queue, overflow, sums.trans (congrArg (fun v => modAt x.audit.sums e fun _ => v) (auditSum_of_range range))⟩

/-- An urgent entry of a reference check: the check takes its reading. -/
theorem Hub.auditEntry_checked {e : Nat} {r : List Nat} {rr : RefRead} (serving : x.audit.serving = true) (urgent : x.audit.urgent = e :: r)
    (check : x.audit.ref = some rr) (entry : refEntries.contains e = true) : ∃ y, (h.auditEntry d codes).dies[d]? = some y ∧
      y.audit.ref = some (rr.take e codes.sum) ∧ y.audit.sums = x.audit.sums.modify e (fun _ => codes.sum) := by
  rw [Hub.auditEntry_urgent shaped there sound serves all serving urgent]
  dsimp only
  have taken := Hub.setAudit_getElem?_same (Hub.auditStore_getElem? there e codes) fun a =>
    { a with urgent := r ++ x.audit.overflow.take 1, overflow := a.overflow.drop 1 }
  have read := Hub.setAudit_getElem?_same taken fun a => { a with ref := some (rr.take e (auditSum codes)) }
  obtain ⟨y, round, ref, sums⟩ : ∃ y, (((h.auditStore d e codes).setAudit d fun a =>
      { a with urgent := r ++ x.audit.overflow.take 1, overflow := a.overflow.drop 1 }).refRound d e (auditSum codes)).dies[d]? = some y ∧
      y.audit.ref = some (rr.take e (auditSum codes)) ∧ y.audit.sums = (x.audit.stored e codes).sums := by
    unfold Hub.refRound
    rw [Hub.aud_of_getElem? taken]
    dsimp only [Audit.stored]
    rw [check]
    dsimp only
    rw [if_pos entry]
    split
    · obtain ⟨a, found, -, -, -, rest⟩ := Hub.urgents read refEntries
      have kept := congrArg (fun a : Audit => (a.ref, a.sums)) rest
      exact ⟨_, found, congrArg Prod.fst kept, congrArg Prod.snd kept⟩
    · exact ⟨_, read, rfl, rfl⟩
  obtain ⟨z, found, -, -, checked, stored⟩ := Hub.auditEntry_behind round (x.audit.running = true ∧ x.audit.entry = some e) e
  refine ⟨z, found, ?_, ?_⟩
  · rw [checked, ref, auditSum_of_range range]
  · rw [stored, sums]
    exact congrArg (fun v => modAt x.audit.sums e fun _ => v) (auditSum_of_range range)

end Entry

end Sys2Proof.Machine

open Sys2Proof Sys2Proof.Machine

/-- Settles O16: an entry is stored (`Hub.auditStore_getElem?`) and leaves what decides the run's next entry (`Hub.auditStore_runEntry`);
requests of urgent entries are one change of the converter's queues each (`Hub.urgents`). -/
theorem auditEntries : Obligations.AuditEntries := by
  unfold Obligations.AuditEntries
  refine ⟨?_, ?_, ?_, ?_⟩
  · intro s d x codes shaped there sound serves
    refine ⟨?_, ?_, ?_, ?_, ?_⟩
    · intro e all range idle unpaused next
      obtain ⟨y, found, rest⟩ := Hub.auditEntry_run shaped there sound serves all range idle unpaused next
      exact ⟨_, y, rfl, found, rest⟩
    · intro e r rr all range serving urgent check entry
      obtain ⟨y, found, rest⟩ := Hub.auditEntry_checked shaped there sound serves all range serving urgent check entry
      exact ⟨_, y, rfl, found, rest⟩
    · exact fun e l all range idle paused cal few =>
        next_congr (Hub.auditEntry_cal shaped there sound serves all range idle paused cal few)
    · intro e r all range serving urgent check
      obtain ⟨y, found, rest⟩ := Hub.auditEntry_unchecked shaped there sound serves all range serving urgent check
      exact ⟨_, y, rfl, found, rest⟩
    · refine next_congr (if_neg ?_)
      rw [Hub.aud_of_getElem? there]
      simp [Hub.lt_nDies shaped there, sound]
  · intro s d e x up there entry
    have runs (f : Audit → Audit) (request : x.audit.request e = f x.audit) :
        exec (.calAuditReq d [e]) s = .next ⟨(s.hub.setAudit d f).ok [], s.pending⟩ := by
      refine next_congr ((Hub.calAuditReq_runs up (List.cons_ne_nil _ _) (by simp) (by simpa using entry)).trans ?_)
      have changed : s.hub.setAudit d (fun a => a.request e) = s.hub.setAudit d f := Hub.setAudit_of_getElem? there request
      exact congrArg (fun g : Hub => g.ok []) changed
    refine ⟨fun waits => runs (fun a => { a with urgMerge := satInc 8 x.audit.urgMerge }) (if_pos waits), fun fresh room => ?_, fun fresh full => ?_⟩
    · refine runs (fun a => { a with urgent := x.audit.urgent ++ [e] }) ?_
      rw [Audit.request, if_neg (Bool.eq_false_iff.1 fresh), if_pos room]
    · refine runs (fun a => { a with overflow := insertNat e x.audit.overflow }) ?_
      rw [Audit.request, if_neg (Bool.eq_false_iff.1 fresh), if_neg (Nat.not_lt.2 full)]
  · intro s d es x up there some few entries
    obtain ⟨a, found, all, urgent, overflow, -⟩ := Hub.urgents there es
    refine ⟨_, _, next_congr (Hub.calAuditReq_runs up some few entries), rfl, found, all, urgent, overflow⟩
  · intro s d es bad
    refine next_congr (if_pos ?_)
    simpa using bad

end

section
/-! PROOFS. Comparisons, the end of an audit run and reduction records: Obligations.AuditComparisons. -/

namespace Sys2Proof.Machine

/-! ## What records leave of a channel's reduction -/

/-- What a record leaves of a channel: its core and its reduction. -/
def Chan.reduced (x : Chan) := (x.core, x.red)

theorem Chan.reduced_eq (x : Chan) : x.reduced = (((x.desc.afe, x.desc.conv, x.writes, x.lastK, x.orTail, x.hist), x.desc,
    x.excOl, x.clamped, x.clampCount, x.auditWait, x.skim0, x.skim1), x.red) := by
  cases x
  rfl

/-- What records leave of a hub's channels. -/
def Hub.chanReds (h : Hub) := h.chans.map Chan.reduced

theorem forAll_chanReds {α : Type} (f : α → Hub → Hub) (keeps : ∀ a h, (f a h).chanReds = h.chanReds) (l : List α) (h : Hub) :
    (forAll l f h).chanReds = h.chanReds := forAll_keeps Hub.chanReds f keeps l h
theorem iter_chanReds (f : Hub → Hub) (keeps : ∀ h, (f h).chanReds = h.chanReds) (n : Nat) (h : Hub) :
    (iter f n h).chanReds = h.chanReds := iter_keeps Hub.chanReds f keeps n h

theorem Hub.map_reduced_chans (h : Hub) : h.chans.map Chan.reduced = h.chanReds := rfl

theorem Hub.chanReds_mk {clk : Clk} {tm : Tm} {chans : List Chan} {octs : List Octet} {reps : List Rep} {dies : List Die}
    {trg : Trg} {caps : List (Option Capture)} {nextTrain : Nat} {saved : List SavedChurn} {jobs : List ChurnJob} {nextHandle nextJob : Nat}
    {flows : List Flow} {strm : Strm} {hk : Hk} {sep : Sep} {ports : List Port} {enm : Enum} {mgmt : Mgmt} {dbw : Dbw} {fseal : Seal}
    {flt : Flt} {cal : Cal} {pwr : Pwr} {pmbus : Pmbus} {boot : Boot} {flash : Flash} {tag : Tag} {tap : Tap} {fresh : Nat} {ident : Ident}
      :
    (Hub.mk ident clk tm chans octs reps dies trg caps nextTrain saved jobs nextHandle nextJob flows strm hk sep ports enm mgmt dbw
      fseal flt cal pwr pmbus boot flash tag tap fresh).chanReds = chans.map Chan.reduced := rfl

theorem Hub.setCh_chanReds (h : Hub) (c : Nat) {f : Chan → Chan} (keeps : ∀ x, (f x).reduced = x.reduced) :
    (h.setCh c f).chanReds = h.chanReds := map_modAt_of_keeps keeps _ _

theorem Hub.mapCh_chanReds (h : Hub) {f : Nat → Chan → Chan} (keeps : ∀ i x, (f i x).reduced = x.reduced) :
    (h.mapCh f).chanReds = h.chanReds := map_mapIdx_of_keeps keeps _
@[simp] theorem Hub.setDie_chanReds (h : Hub) (d : Nat) (f : Die → Die) : (h.setDie d f).chanReds = h.chanReds :=
  congrArg (List.map Chan.reduced) (Hub.setDie_chans ..)
@[simp] theorem Hub.setFlow_chanReds (h : Hub) (k : FlowKey) (g : Flow → Flow) : (h.setFlow k g).chanReds = h.chanReds :=
  congrArg (List.map Chan.reduced) (Hub.setFlow_chans ..)

@[simp] theorem Hub.spoolTouch_chanReds (h : Hub) (d : Nat) (was : Seqs) : (h.spoolTouch d was).chanReds = h.chanReds := by
  unfold Hub.spoolTouch
  simp only [↓Hub.chanReds_mk, ↓Hub.map_reduced_chans]
  split
  · rfl
  · split
    · rw [Hub.chanReds_mk, Hub.map_reduced_chans, Hub.mapCh_chanReds _ fun _ _ => by split <;> rfl, Hub.setDie_chanReds]
    · rw [Hub.setFlow_chanReds, Hub.mapCh_chanReds _ fun _ _ => by split <;> rfl, Hub.chanReds_mk, Hub.map_reduced_chans]
      refine (iter_chanReds _ (fun g => ?_) _ _).trans (h.setDie_chanReds d _)
      split
      · split
        · exact g.setFlow_chanReds _ _
        · rfl
      · rfl
    · rw [Hub.mapCh_chanReds _ fun _ _ => ?_, Hub.setDie_chanReds]
      split
      · rfl
      · split <;> rfl

/-! ## The run of an audit converter -/

/-- What the end of a run sets of an audit converter only at its last. -/
def Die.auditRun (x : Die) := (x.audit.runs, x.audit.cfg, x.audit.cfgNext, x.audit.runAt)

theorem Die.auditRun_eq (x : Die) : x.auditRun = (x.audit.runs, x.audit.cfg, x.audit.cfgNext, x.audit.runAt) := by
  cases x
  rfl

/-- Those of all dies. -/
def Hub.auditRuns (h : Hub) := h.dies.map Die.auditRun

theorem Hub.auditRuns_of_cores {h g : Hub} (same : g.dieCores = h.dieCores) : g.auditRuns = h.auditRuns := by
  have views (k : Hub) : k.auditRuns = k.dieCores.map Die.auditRun := by
    rw [Hub.auditRuns, Hub.dieCores, List.map_map]
    rfl
  rw [views, views, same]

theorem forAll_auditRuns {α : Type} (f : α → Hub → Hub) (keeps : ∀ a h, (f a h).auditRuns = h.auditRuns) (l : List α) (h : Hub) :
    (forAll l f h).auditRuns = h.auditRuns := forAll_keeps Hub.auditRuns f keeps l h
theorem iter_auditRuns (f : Hub → Hub) (keeps : ∀ h, (f h).auditRuns = h.auditRuns) (n : Nat) (h : Hub) :
    (iter f n h).auditRuns = h.auditRuns := iter_keeps Hub.auditRuns f keeps n h

theorem Hub.map_auditRun_dies (h : Hub) : h.dies.map Die.auditRun = h.auditRuns := rfl

theorem Hub.auditRuns_mk {clk : Clk} {tm : Tm} {chans : List Chan} {octs : List Octet} {reps : List Rep} {dies : List Die}
    {trg : Trg} {caps : List (Option Capture)} {nextTrain : Nat} {saved : List SavedChurn} {jobs : List ChurnJob} {nextHandle nextJob : Nat}
    {flows : List Flow} {strm : Strm} {hk : Hk} {sep : Sep} {ports : List Port} {enm : Enum} {mgmt : Mgmt} {dbw : Dbw} {fseal : Seal}
    {flt : Flt} {cal : Cal} {pwr : Pwr} {pmbus : Pmbus} {boot : Boot} {flash : Flash} {tag : Tag} {tap : Tap} {fresh : Nat} {ident : Ident}
      :
    (Hub.mk ident clk tm chans octs reps dies trg caps nextTrain saved jobs nextHandle nextJob flows strm hk sep ports enm mgmt dbw
      fseal flt cal pwr pmbus boot flash tag tap fresh).auditRuns = dies.map Die.auditRun := rfl

theorem Hub.setDie_auditRuns (h : Hub) (d : Nat) {f : Die → Die} (keeps : ∀ x, (f x).auditRun = x.auditRun) :
    (h.setDie d f).auditRuns = h.auditRuns := map_modAt_of_keeps keeps _ _

theorem Hub.setAudit_auditRuns (h : Hub) (d : Nat) {f : Audit → Audit} (keeps : ∀ a, ((f a).runs, (f a).cfg, (f a).cfgNext, (f a).runAt) =
    (a.runs, a.cfg, a.cfgNext, a.runAt)) : (h.setAudit d f).auditRuns = h.auditRuns := h.setDie_auditRuns d fun x => keeps x.audit

@[simp] theorem Hub.setLink_chanReds (h : Hub) (p : Nat) (f : Link → Link) : (h.setLink p f).chanReds = h.chanReds :=
  congrArg (List.map Chan.reduced) (Hub.setLink_chans ..)
@[simp] theorem Hub.ctl_chanReds (h : Hub) (p code payload : Nat) : (h.ctl p code payload).chanReds = h.chanReds := by
  simp only [Hub.ctl, ↓Hub.setLink_chanReds]
@[simp] theorem Hub.watermarks_chanReds (h : Hub) : h.watermarks.chanReds = h.chanReds := by
  simp only [Hub.watermarks, ↓Hub.ctl_chanReds, ↓Hub.setLink_chanReds, ↓forAll_chanReds, ↓Hub.chanReds_mk, ↓apply_ite Hub.chanReds,
    ite_self, implies_true, ↓Hub.map_reduced_chans]
@[simp] theorem Hub.emitSince_chanReds (h : Hub) (k : FlowKey) (stream : Nat) (rcd : Bytes) (since : Nat) :
    (h.emitSince k stream rcd since).chanReds = h.chanReds := by
  unfold Hub.emitSince
  split <;> simp only [↓Hub.setFlow_chanReds, ↓Hub.spoolTouch_chanReds, ↓Hub.watermarks_chanReds, ↓apply_ite Hub.chanReds, ite_self]

@[simp] theorem Hub.countCompare_chanCores (h : Hub) (c : Nat) (disagree : Bool) : (h.countCompare c disagree).chanCores = h.chanCores := by
  simp only [Hub.countCompare, ↓Hub.calQueue_chanCores, ↓Hub.chanFault_chanCores, ↓Hub.notice_chanCores, ↓Hub.setCh_chanCores, ↓apply_ite
    Hub.chanCores, ite_self, implies_true, ↓Hub.setCh_chanCores, Chan.core_eq]

@[simp] theorem Hub.mapCh_auditRuns (h : Hub) (g : Nat → Chan → Chan) : (h.mapCh g).auditRuns = h.auditRuns :=
  Hub.auditRuns_of_cores (Hub.mapCh_dieCores ..)
@[simp] theorem Hub.notice_auditRuns (h : Hub) (unit : Word) (code : Nat) (arg0 arg1 : Word) :
    (h.notice unit code arg0 arg1).auditRuns = h.auditRuns :=
  Hub.auditRuns_of_cores (Hub.notice_dieCores ..)
@[simp] theorem Hub.setEngWin_auditRuns (h : Hub) (d : Nat) (u : Word) (w : Option FaultWin) :
    (h.setEngWin d u w).auditRuns = h.auditRuns :=
  Hub.auditRuns_of_cores (Hub.setEngWin_dieCores ..)
@[simp] theorem Hub.auditFault_auditRuns (h : Hub) (d : Nat) : (h.auditFault d).auditRuns = h.auditRuns := by
  simp only [Hub.auditFault, ↓Hub.mapCh_auditRuns, ↓Hub.notice_auditRuns, ↓Hub.setAudit_auditRuns, ↓Hub.setEngWin_auditRuns, ↓apply_ite
    Hub.auditRuns, ite_self, implies_true, ↓Hub.setAudit_auditRuns]
@[simp] theorem Hub.setCh_auditRuns (h : Hub) (c : Nat) (f : Chan → Chan) : (h.setCh c f).auditRuns = h.auditRuns :=
  Hub.auditRuns_of_cores (Hub.setCh_dieCores ..)
@[simp] theorem Hub.calQueue_auditRuns (h : Hub) (o : Nat) : (h.calQueue o).auditRuns = h.auditRuns :=
  Hub.auditRuns_of_cores (Hub.calQueue_dieCores ..)
@[simp] theorem Hub.excChecks_auditRuns (h : Hub) (d : Nat) : (h.excChecks d).auditRuns = h.auditRuns := by
  unfold Hub.excChecks
  dsimp only
  repeat' split
  all_goals simp only [↓Hub.calQueue_auditRuns, ↓Hub.notice_auditRuns, ↓Hub.setCh_auditRuns]

theorem forAll_pwr {α : Type} (f : α → Hub → Hub) (hf : ∀ a h, (f a h).pwr = h.pwr) (l : List α) (h : Hub) :
    (forAll l f h).pwr = h.pwr := forAll_keeps Hub.pwr f hf l h
theorem iter_pwr (f : Hub → Hub) (hf : ∀ h, (f h).pwr = h.pwr) (n : Nat) (h : Hub) : (iter f n h).pwr = h.pwr :=
  iter_keeps Hub.pwr f hf n h
theorem Hub.pwr_mk (x0 x1 x2 x3 x4 x5 x6 x7 x8 x9 x10 x11 x12 x13 x14 x15 x16 x17 x18 x19 x20 x21 x22 x23 x24 x25 x26 x27 x28 x29 x30 x31)
    : (Hub.mk x0 x1 x2 x3 x4 x5 x6 x7 x8 x9 x10 x11 x12 x13 x14 x15 x16 x17 x18 x19 x20 x21 x22 x23 x24 x25 x26 x27 x28 x29 x30 x31).pwr =
    x25 := rfl

@[simp] theorem Hub.setEngWin_pwr (h : Hub) (d : Nat) (u : Word) (w : Option FaultWin) : (h.setEngWin d u w).pwr = h.pwr := by
  simp only [Hub.setEngWin, ↓Hub.setDie_pwr]
@[simp] theorem Hub.setAudit_pwr (h : Hub) (d : Nat) (f : Audit → Audit) : (h.setAudit d f).pwr = h.pwr := by
  simp only [Hub.setAudit, ↓Hub.setDie_pwr]
@[simp] theorem Hub.auditFault_pwr (h : Hub) (d : Nat) : (h.auditFault d).pwr = h.pwr := by
  simp only [Hub.auditFault, ↓Hub.mapCh_pwr, ↓Hub.notice_pwr, ↓Hub.setAudit_pwr, ↓Hub.setEngWin_pwr, ↓apply_ite Hub.pwr, ite_self]
@[simp] theorem Hub.calQueue_pwr (h : Hub) (o : Nat) : (h.calQueue o).pwr = h.pwr := by
  simp only [Hub.calQueue, ↓Hub.pwr_mk, ↓apply_ite Hub.pwr, ite_self]
@[simp] theorem Hub.excChecks_pwr (h : Hub) (d : Nat) : (h.excChecks d).pwr = h.pwr := by
  unfold Hub.excChecks
  dsimp only
  repeat' split
  all_goals simp only [↓Hub.calQueue_pwr, ↓Hub.notice_pwr, ↓Hub.setCh_pwr]

/-! ## The comparison (R86 to R91) -/

theorem Hub.compare_early {h : Hub} {c : Nat} {x : Chan} (there : h.chans[c]? = some x) {w : AuditWait} {later : List AuditWait}
    (waits : x.auditWait = w :: later) {k : Nat} (last : x.lastK = some k) (early : k < w.ta / x.desc.rawPeriod + 1) : h.compare c = h := by
  unfold Hub.compare
  rw [Hub.ch_of_getElem? there]
  dsimp only
  rw [waits]
  dsimp only
  rw [last]
  exact if_pos (by simpa using early)

/-- A comparison uses up the result that it is for; what follows leaves the cores of the channels. -/
theorem Hub.compare_chanCores {h : Hub} {c : Nat} {x : Chan} (there : h.chans[c]? = some x) {w : AuditWait} {later : List AuditWait}
    (waits : x.auditWait = w :: later) (come : ∀ k, x.lastK = some k → w.ta / x.desc.rawPeriod + 1 ≤ k) :
    (h.compare c).chanCores = (h.setCh c fun x => { x with auditWait := later }).chanCores := by
  have due : ¬(x.lastK.any fun n => decide (n < w.ta / x.desc.rawPeriod + 1)) = true := by
    cases last : x.lastK with
    | none => simp
    | some k => simpa using come k last
  unfold Hub.compare
  rw [Hub.ch_of_getElem? there]
  extract_lets own d per at' add
  rw [waits]
  dsimp -zeta only
  extract_lets k g a fault
  have used : g.chanCores = (h.setCh c fun x => { x with auditWait := later }).chanCores := rfl
  rw [if_neg due]
  clear_value g at' fault a
  split
  · exact used
  · split
    · extract_lets m bend tol diff bad quiet clean ad g1 g2
      have differs : g1.chanCores = g.chanCores := g.setCh_chanCores c (by intro; simp only [Chan.core_eq])
      have counted : g2.chanCores = g.chanCores := (g1.setAudit_chanCores d _).trans differs
      simp only [↓apply_ite Hub.chanCores, ↓Hub.record_chanCores, ↓Hub.countCompare_chanCores, used, differs, counted, ite_self]
    · exact used

/-! ## The end of a run (R76, R92, R451) -/

theorem Hub.setAudit_runEntry {h : Hub} {d : Nat} {x : Die} (there : h.dies[d]? = some x) {f : Audit → Audit}
    (mode : (f x.audit).visits = x.audit.visits) (p : Nat) : (h.setAudit d f).runEntry d p = h.runEntry d p := by
  refine Hub.runEntry_congr (h := h) (g := h.setAudit d f) (fun _ => rfl) rfl (fun i => h.setAudit_quads d i f) ?_ p
  rw [Hub.aud_of_getElem? (Hub.setAudit_getElem?_same there f), Hub.aud_of_getElem? there]
  exact mode

section MilkRun

variable {h : Hub} {d : Nat} {x : Die} (shaped : Shaped h) (there : h.dies[d]? = some x) (sound : x.audit.retired = false)
  (serves : x.inService = true) (idle : x.audit.serving = false)

include there in
theorem Hub.milkRun_rests (rests : x.audit.running = false ∨ x.audit.entry.isSome = true ∨ x.audit.paused = true) : h.milkRun d = h := by
  unfold Hub.milkRun
  rw [Hub.aud_of_getElem? there]
  refine if_pos ?_
  rcases rests with off | left | paused
  · simp [off]
  · simp [left]
  · simp [paused]

/-- What the end of a run makes of the converter, with the EXCMON point of the next run. -/
def Audit.nextRun (sel : Option Nat) (a : Audit) : Audit :=
  { a with runs := a.runs + 1, cmp := [], dis := [], excSel := sel, cfg := a.cfgNext.getD a.cfg, cfgNext := none }

include shaped there sound serves idle in
/-- The checks at the end of a run leave its count, its settings and the supply's state; then the next run is prepared. -/
theorem Hub.milkRun_ends (running : x.audit.running = true) (over' : x.audit.entry = none) (goes : x.audit.paused = false) :
    ∃ (g : Hub) (sel : Option Nat), g.auditRuns = h.auditRuns ∧ g.pwr = h.pwr ∧ h.milkRun d =
      (let k := g.setAudit d (Audit.nextRun sel)
       if k.pwr.st = .doze then k.setAudit d fun a => { a with running := false, entry := none }
       else k.setAudit d fun a => { a with entry := k.runEntry d 0, runAt := k.clk.elapsed }) := by
  unfold Hub.milkRun
  rw [Hub.aud_of_getElem? there, Hub.die_of_getElem? there]
  extract_lets a self n k mass vref g1 g2 g3 sel g4 e
  have first : g1.auditRuns = h.auditRuns ∧ g1.pwr = h.pwr := by
    unfold g1
    split
    · exact ⟨(Hub.notice_auditRuns ..).trans (h.setAudit_auditRuns d (by intro; rfl)), (Hub.notice_pwr ..).trans (h.setAudit_pwr d _)⟩
    · exact ⟨h.setAudit_auditRuns d (by intro; rfl), h.setAudit_pwr d _⟩
  have second : g2.auditRuns = h.auditRuns ∧ g2.pwr = h.pwr := by
    unfold g2
    split
    · exact ⟨(g1.auditFault_auditRuns d).trans first.1, (g1.auditFault_pwr d).trans first.2⟩
    · split
      · exact ⟨(g1.setAudit_auditRuns d (by intro; rfl)).trans first.1, (g1.setAudit_pwr d _).trans first.2⟩
      · exact first
  have third : g3.auditRuns = h.auditRuns ∧ g3.pwr = h.pwr :=
    ⟨(g2.excChecks_auditRuns d).trans second.1, (g2.excChecks_pwr d).trans second.2⟩
  clear_value g3
  refine ⟨g3, sel, third.1, third.2, ?_⟩
  clear_value sel
  rw [if_neg]
  · rfl
  · simp [a, Hub.lt_nDies shaped there, sound, serves, running, over', idle, goes]

include shaped there sound serves idle in
/-- In Doze the next run waits for its time. -/
theorem Hub.milkRun_doze (running : x.audit.running = true) (over' : x.audit.entry = none) (goes : x.audit.paused = false)
    (doze : h.pwr.st = .doze) : ∃ y, (h.milkRun d).dies[d]? = some y ∧ y.audit.runs = x.audit.runs + 1 ∧ y.audit.running = false ∧
      y.audit.entry = none ∧ y.audit.runAt = x.audit.runAt := by
  obtain ⟨g, sel, runs, pwr, ends⟩ := Hub.milkRun_ends shaped there sound serves idle running over' goes
  obtain ⟨y, found, same⟩ := getElem?_of_map runs there
  simp only [Die.auditRun_eq, Prod.mk.injEq] at same
  obtain ⟨count, -, -, at'⟩ := same
  have next := Hub.setAudit_getElem?_same found (Audit.nextRun sel)
  rw [ends]
  dsimp only
  rw [if_pos ((congrArg Pwr.st ((g.setAudit_pwr d _).trans pwr)).trans doze)]
  exact ⟨_, Hub.setAudit_getElem?_same next _, congrArg (· + 1) count, rfl, rfl, at'⟩

include shaped there sound serves idle in
/-- Otherwise the next run begins at its first entry, with the settings that waited. -/
theorem Hub.milkRun_next (running : x.audit.running = true) (over' : x.audit.entry = none) (goes : x.audit.paused = false)
    (awake : h.pwr.st ≠ .doze) : ∃ y, (h.milkRun d).dies[d]? = some y ∧ y.audit.runs = x.audit.runs + 1 ∧
      y.audit.entry = (h.milkRun d).runEntry d 0 ∧ y.audit.cmp = [] ∧ y.audit.dis = [] ∧ y.audit.cfg = x.audit.cfgNext.getD x.audit.cfg ∧
      y.audit.cfgNext = none := by
  obtain ⟨g, sel, runs, pwr, ends⟩ := Hub.milkRun_ends shaped there sound serves idle running over' goes
  obtain ⟨y, found, same⟩ := getElem?_of_map runs there
  simp only [Die.auditRun_eq, Prod.mk.injEq] at same
  obtain ⟨count, cfg, cfgNext, -⟩ := same
  have next := Hub.setAudit_getElem?_same found (Audit.nextRun sel)
  have begun := Hub.setAudit_getElem?_same next fun a =>
    { a with entry := (g.setAudit d (Audit.nextRun sel)).runEntry d 0, runAt := (g.setAudit d (Audit.nextRun sel)).clk.elapsed }
  have entry := Hub.setAudit_runEntry next (f := fun a =>
    { a with entry := (g.setAudit d (Audit.nextRun sel)).runEntry d 0, runAt := (g.setAudit d (Audit.nextRun sel)).clk.elapsed }) rfl 0
  rw [ends]
  dsimp only
  rw [if_neg fun doze => awake (((congrArg Pwr.st ((g.setAudit_pwr d _).trans pwr)).symm).trans doze)]
  refine ⟨_, begun, congrArg (· + 1) count, entry.symm, rfl, rfl, ?_, rfl⟩
  show y.audit.cfgNext.getD y.audit.cfg = _
  rw [cfgNext, cfg]

end MilkRun

/-! ## CAL_AUDIT_SET and the reads (R94, R397) -/

theorem Hub.calAuditSet_good {h : Hub} {dies : List Nat} (up : NamedUp h dies) {w : Word} (good : badAudCfg w = false) :
    h.calAuditSet dies w = ({ h with dies := modAll h.dies (h.named dies) fun _ y =>
      { y with audit := { y.audit with cfgNext := some w } } } : Hub).ok [] := by
  refine (Hub.onMask_runs up (fun d _ => by simp [good]) _).trans ?_
  exact congrArg (fun g : Hub => g.ok []) (forAll_setDie (f := fun y => { y with audit := { y.audit with cfgNext := some w } })
    (fun _ => rfl) (h.named dies) h)

theorem Hub.nDies_pos (h : Hub) : 0 < h.nDies := by
  unfold Hub.nDies
  cases h.ident.variant <;> decide

theorem Hub.named_ne_nil (h : Hub) (dies : List Nat) : h.named dies ≠ [] := by
  unfold Hub.named
  split
  · simpa using Nat.pos_iff_ne_zero.1 h.nDies_pos
  · rename_i some
    simpa using some

theorem Hub.calAuditSet_bad {h : Hub} {dies : List Nat} (up : NamedUp h dies) {w : Word} (bad : badAudCfg w = true) :
    ∃ d ∈ h.named dies, h.calAuditSet dies w = h.refuseDie St.badArg d := by
  obtain ⟨d, first⟩ := List.exists_mem_of_ne_nil _ (h.named_ne_nil dies)
  obtain ⟨e, named, st, status, answer⟩ := Hub.onMask_refuses up (check := fun _ => if badAudCfg w then some St.badArg else none)
    ⟨d, first, by simp [bad]⟩ fun ds => (forAll ds (fun d h => h.setAudit d fun a => { a with cfgNext := some w }) h).ok []
  rw [bad, if_pos rfl] at status
  cases status
  exact ⟨e, named, answer⟩

/-- The payload of CAL_AUDIT_READ ahead of the channels' words. -/
def Audit.internalPoints (a : Audit) : Bytes :=
  ((List.range 16).flatMap fun i => beInt 4 (a.sums.getD (128 + i) 0)) ++ be 1 a.urgMerge ++ be 1 (if a.fault then 1 else 0) ++ pad 2

theorem Audit.internalPoints_length (a : Audit) : a.internalPoints.length = 68 := by
  have points : ((List.range 16).flatMap fun i => beInt 4 (a.sums.getD (128 + i) 0)).length = 64 := by
    rw [List.length_flatMap]
    simp [List.map_const']
  unfold Audit.internalPoints
  rw [List.length_append, List.length_append, List.length_append, points, be_length, be_length, pad_length]

theorem flatMap_be_length (f : Nat → Nat) (n : Nat) : ((List.range n).flatMap fun i => be 4 (f i)).length = 4 * n := by
  rw [List.length_flatMap]
  simp [List.map_const', Nat.mul_comm]

theorem Hub.calAuditRead_there (h : Hub) {c n : Nat} (present : c < h.nChans) (few : n ≤ 128) (within : c + n ≤ 128 * (c / 128 + 1))
    (serves : h.dieDown (c / 128) = false) : h.calAuditRead c n = h.ok ((h.aud (c / 128)).internalPoints ++
      (List.range n).flatMap fun i => be 4 (h.ch (c + i)).audit.word.toNat) := by
  unfold Hub.calAuditRead
  dsimp only
  rw [if_neg (by omega), Hub.onDies_one_up h serves]
  rfl

/-! ## Reduction records (R206, R208) -/

section Reduction

variable {h : Hub} {c b : Nat} {x : Chan} (there : h.chans[c]? = some x) (block : x.red.block = some b)

/-- The hub whose channel's block has ended. -/
def Hub.blockEnded (h : Hub) (c : Nat) : Hub :=
  h.setCh c fun y => { y with red := { y.red with block := none, cut := false, acc0 := RedAcc.empty, acc1 := RedAcc.empty } }

/-- The record of the block that ends, for one of its words. -/
def Hub.blockRecord (h : Hub) (c b : Nat) (x : Chan) (word : Nat) (acc : RedAcc) (g : Hub) : Hub :=
  g.emitSince ⟨h.builder c, 1, 0⟩ (2048 + chDie c)
    (redRecord c word x.red.cut (!x.skimBuilt) acc (redFirst x.red.cfg x.desc (b + 1) - redFirst x.red.cfg x.desc b)
      (redStart x.red.cfg x.desc b)) (redStart x.red.cfg x.desc b)

include there block

theorem Hub.redDue_early (early : (h.tm.now - redStart x.red.cfg x.desc (b + 1)) * (srcPeriod 1 x.desc).2 < 2 * (srcPeriod 1 x.desc).1) :
    h.redDue c = h := by
  unfold Hub.redDue
  rw [Hub.ch_of_getElem? there]
  dsimp only
  rw [block]
  exact if_pos early

theorem Hub.redDue_due (due : 2 * (srcPeriod 1 x.desc).1 ≤ (h.tm.now - redStart x.red.cfg x.desc (b + 1)) * (srcPeriod 1 x.desc).2) :
    h.redDue c = (let first := h.blockRecord c b x 0 x.red.acc0 (h.blockEnded c)
      if x.desc.words = 2 then h.blockRecord c b x 1 x.red.acc1 first else first) := by
  unfold Hub.redDue
  rw [Hub.ch_of_getElem? there]
  dsimp only
  rw [block]
  refine (if_neg (Nat.not_lt.2 due)).trans ?_
  unfold Hub.redClose
  rw [Hub.ch_of_getElem? there]
  dsimp only
  rw [block]
  rfl

omit block in
theorem Hub.blockRecord_reduced (k : Hub) (b' : Nat) (x' : Chan) (word : Nat) (acc : RedAcc) :
    ∃ y, (k.blockRecord c b' x' word acc h).chans[c]? = some y ∧ y.reduced = x.reduced :=
  getElem?_of_map (h.emitSince_chanReds _ _ _ _) there

/-- A block that is due ends, with its records. -/
theorem Hub.redDue_ended (due : 2 * (srcPeriod 1 x.desc).1 ≤ (h.tm.now - redStart x.red.cfg x.desc (b + 1)) * (srcPeriod 1 x.desc).2) :
    ∃ y, (h.redDue c).chans[c]? = some y ∧ y.red.block = none ∧ y.red.acc0 = RedAcc.empty ∧ y.red.acc1 = RedAcc.empty ∧
      y.red.cfg = x.red.cfg ∧ y.desc = x.desc ∧ y.hist = x.hist := by
  rw [Hub.redDue_due there block due]
  dsimp only
  have ended := Hub.setCh_getElem?_same there fun y =>
    { y with red := { y.red with block := none, cut := false, acc0 := RedAcc.empty, acc1 := RedAcc.empty } }
  obtain ⟨y, found, same⟩ := Hub.blockRecord_reduced ended h b x 0 x.red.acc0
  obtain ⟨z, last, kept⟩ : ∃ z,
      (if x.desc.words = 2 then h.blockRecord c b x 1 x.red.acc1 (h.blockRecord c b x 0 x.red.acc0 (h.blockEnded c))
      else h.blockRecord c b x 0 x.red.acc0 (h.blockEnded c)).chans[c]? = some z ∧ z.reduced = y.reduced := by
    split
    · exact Hub.blockRecord_reduced found h b x 1 x.red.acc1
    · exact ⟨y, found, rfl⟩
  have all := kept.trans same
  obtain ⟨desc, -, -, hist, -⟩ := Chan.fields_of_core (congrArg Prod.fst all)
  have red : z.red = _ := congrArg Prod.snd all
  have cfg := congrArg RedState.cfg red
  exact ⟨z, last, congrArg RedState.block red, congrArg RedState.acc0 red, congrArg RedState.acc1 red, cfg, desc, hist⟩

end Reduction

end Sys2Proof.Machine

open Sys2Proof Sys2Proof.Machine

/-- Settles O17: what follows the use of a waiting result leaves the cores of the channels (`Hub.compare_chanCores`), the checks at the end
of a run leave its count and settings (`Hub.milkRun_ends`), and a block's records leave the reduction of its channel. -/
theorem auditComparisons : Obligations.AuditComparisons := by
  unfold Obligations.AuditComparisons
  refine ⟨?_, ?_, ?_, ?_, ?_⟩
  · intro s c x w later shaped there waits
    have present : ¬s.hub.nChans ≤ c := Nat.not_le.2 (Hub.lt_nChans shaped there)
    refine ⟨fun k last early => next_same ((if_neg present).trans (Hub.compare_early there waits last early)), fun come => ?_⟩
    obtain ⟨y, found, core⟩ := Hub.getElem?_of_cores (Hub.compare_chanCores there waits come) (Hub.setCh_getElem?_same there _)
    obtain ⟨desc, -, last, hist, -, -, -, wait, skim0, skim1⟩ := Chan.fields_of_core core
    exact ⟨_, y, next_congr (if_neg present), found, wait, hist, last, desc, skim0, skim1⟩
  · intro s d x shaped there sound serves idle
    refine ⟨fun rests => next_same (Hub.milkRun_rests there rests), fun running over' goes doze => ?_, fun running over' goes awake => ?_⟩
    · obtain ⟨y, found, rest⟩ := Hub.milkRun_doze shaped there sound serves idle running over' goes doze
      exact ⟨_, y, rfl, found, rest⟩
    · obtain ⟨y, found, runs, entry, cmp, dis, cfg, cfgNext⟩ := Hub.milkRun_next shaped there sound serves idle running over' goes awake
      exact ⟨_, y, rfl, found, runs, entry, cmp, dis, cfg, cfgNext, s.hub.milkRun_tm d⟩
  · intro s dies w
    refine ⟨fun up good => next_congr (Hub.calAuditSet_good up good), fun up bad => ?_, fun up => next_congr (Hub.readMask_runs up _), ?_⟩
    · obtain ⟨d, named, answer⟩ := Hub.calAuditSet_bad up bad
      exact ⟨d, named, next_congr answer⟩
    · intro c n present few within serves
      refine ⟨_, next_congr (s.hub.calAuditRead_there present few within serves), ?_, ?_⟩
      · rw [List.length_append, Audit.internalPoints_length, flatMap_be_length]
      · rw [List.drop_append_of_le_length (Audit.internalPoints_length _).ge, List.drop_eq_nil_of_le (Audit.internalPoints_length _).le,
          List.nil_append]
  · intro s c b x shaped there block per start past expected ended key first
    have present : ¬s.hub.nChans ≤ c := Nat.not_le.2 (Hub.lt_nChans shaped there)
    refine ⟨fun early => next_same ((if_neg present).trans (Hub.redDue_early there block early)), fun due one => ?_, fun due two => ?_,
      fun due => ?_⟩
    · refine next_congr (((if_neg present).trans (Hub.redDue_due there block due)).trans ?_)
      exact if_neg (by rw [one]; decide)
    · exact next_congr (((if_neg present).trans (Hub.redDue_due there block due)).trans (if_pos two))
    · obtain ⟨y, found, rest⟩ := Hub.redDue_ended there block due
      exact ⟨_, y, next_congr (if_neg present), found, rest⟩
  · intro s c free
    refine next_same ?_
    dsimp only
    split
    · rfl
    · rw [Hub.redDue, free]

end

section
/-! PROOFS. Detectors, trigger units, TRIG pins and k-of-n groups: Obligations.DetectorAndTriggerRules, TriggerSettings, TriggerPins and
KonGroups. -/

namespace Sys2Proof.Machine

/-! ## What a trigger leaves of the trigger state -/

/-- What records, captures and messages leave of the trigger state: the next id, the pins and the groups. -/
def Hub.triggers (h : Hub) := (h.trg.nextId, h.trg.pins, h.trg.kons)

theorem Hub.triggers_mk {clk : Clk} {tm : Tm} {chans : List Chan} {octs : List Octet} {reps : List Rep} {dies : List Die}
    {trg : Trg} {caps : List (Option Capture)} {nextTrain : Nat} {saved : List SavedChurn} {jobs : List ChurnJob} {nextHandle nextJob : Nat}
    {flows : List Flow} {strm : Strm} {hk : Hk} {sep : Sep} {ports : List Port} {enm : Enum} {mgmt : Mgmt} {dbw : Dbw} {fseal : Seal}
    {flt : Flt} {cal : Cal} {pwr : Pwr} {pmbus : Pmbus} {boot : Boot} {flash : Flash} {tag : Tag} {tap : Tap} {fresh : Nat} {ident : Ident}
      :
    (Hub.mk ident clk tm chans octs reps dies trg caps nextTrain saved jobs nextHandle nextJob flows strm hk sep ports enm mgmt dbw
      fseal flt cal pwr pmbus boot flash tag tap fresh).triggers = (trg.nextId, trg.pins, trg.kons) := rfl

theorem Hub.triggers_fold (h : Hub) : (h.trg.nextId, h.trg.pins, h.trg.kons) = h.triggers := rfl

theorem forAll_triggers {α : Type} (f : α → Hub → Hub) (keeps : ∀ a h, (f a h).triggers = h.triggers) (l : List α) (h : Hub) :
    (forAll l f h).triggers = h.triggers := forAll_keeps Hub.triggers f keeps l h
theorem iter_triggers (f : Hub → Hub) (keeps : ∀ h, (f h).triggers = h.triggers) (n : Nat) (h : Hub) :
    (iter f n h).triggers = h.triggers := iter_keeps Hub.triggers f keeps n h

@[simp] theorem Hub.emitRecord_triggers (h : Hub) (k : FlowKey) (stream : Nat) (rcd : Bytes) :
    (h.emitRecord k stream rcd).triggers = h.triggers :=
  congrArg (fun t : Trg => (t.nextId, t.pins, t.kons)) (Hub.emitRecord_trg ..)
@[simp] theorem Hub.detRecord_triggers (h : Hub) (d : Nat) (b : Bytes) : (h.detRecord d b).triggers = h.triggers := by
  simp only [Hub.detRecord, ↓Hub.emitRecord_triggers]
@[simp] theorem Hub.setCap_triggers (h : Hub) (n : Nat) (f : Capture → Capture) : (h.setCap n f).triggers = h.triggers :=
  congrArg (fun t : Trg => (t.nextId, t.pins, t.kons)) (Hub.setCap_trg ..)
@[simp] theorem Hub.setDie_triggers (h : Hub) (d : Nat) (f : Die → Die) : (h.setDie d f).triggers = h.triggers :=
  congrArg (fun t : Trg => (t.nextId, t.pins, t.kons)) (Hub.setDie_trg ..)
@[simp] theorem Hub.notice_triggers (h : Hub) (unit : Word) (code : Nat) (arg0 arg1 : Word) :
    (h.notice unit code arg0 arg1).triggers = h.triggers :=
  congrArg (fun t : Trg => (t.nextId, t.pins, t.kons)) (Hub.notice_trg ..)
@[simp] theorem Hub.reserveDie_triggers (n : Nat) (eval : Bool) (d : Nat) (h : Hub) :
    (Hub.reserveDie n eval d h).triggers = h.triggers := by
  unfold Hub.reserveDie
  dsimp only
  repeat' split
  all_goals simp only [↓Hub.notice_triggers, ↓Hub.setCap_triggers, ↓Hub.triggers_mk, ↓Hub.triggers_fold]
@[simp] theorem Hub.reserve_triggers (h : Hub) (n : Nat) : (h.reserve n).triggers = h.triggers := by
  unfold Hub.reserve
  split <;> simp only [↓Hub.reserveDie_triggers, ↓forAll_triggers, implies_true]
@[simp] theorem Hub.flowTouch_triggers (h : Hub) (d : Nat) : (h.flowTouch d).triggers = h.triggers :=
  congrArg (fun t : Trg => (t.nextId, t.pins, t.kons)) (Hub.flowTouch_trg ..)
@[simp] theorem Hub.record_triggers (h : Hub) (kind : Nat) (payload : Bytes) : (h.record kind payload).triggers = h.triggers :=
  congrArg (fun t : Trg => (t.nextId, t.pins, t.kons)) (Hub.record_trg ..)
@[simp] theorem Hub.setCoach_triggers (h : Hub) (d seq : Nat) (f : Coach → Coach) : (h.setCoach d seq f).triggers = h.triggers := by
  simp only [Hub.setCoach, ↓Hub.setDie_triggers]
@[simp] theorem Hub.setFlow_triggers (h : Hub) (k : FlowKey) (g : Flow → Flow) : (h.setFlow k g).triggers = h.triggers :=
  congrArg (fun t : Trg => (t.nextId, t.pins, t.kons)) (Hub.setFlow_trg ..)
@[simp] theorem Hub.coachRecord_triggers (h : Hub) (k : FlowKey) (stream first : Nat) (b : Bytes) :
    (h.coachRecord k stream first b).1.triggers = h.triggers := by
  unfold Hub.coachRecord
  split
  · rfl
  · exact h.setFlow_triggers _ _
@[simp] theorem Hub.sendCoach_triggers (h : Hub) (d : Nat) (c : Coach) : (h.sendCoach d c).triggers = h.triggers := by
  unfold Hub.sendCoach
  simp only [↓Hub.setCoach_triggers, ↓Hub.coachRecord_triggers]
  split
  · simp only [↓apply_ite Hub.triggers, ↓Hub.setDie_triggers, ↓Hub.coachRecord_triggers, ite_self]
  · rfl
@[simp] theorem Hub.sendWanted_triggers (h : Hub) (d : Nat) : (h.sendWanted d).triggers = h.triggers := by
  simp only [Hub.sendWanted, ↓Hub.flowTouch_triggers, ↓Hub.sendCoach_triggers, ↓forAll_triggers, ↓apply_ite Hub.triggers, ite_self,
    implies_true]
@[simp] theorem Hub.retryWait_triggers (h : Hub) (d : Nat) : (h.retryWait d).triggers = h.triggers := by
  refine forAll_triggers _ (fun n g => ?_) _ _
  split <;> simp only [↓apply_ite Hub.triggers, ↓Hub.reserveDie_triggers, ite_self]
@[simp] theorem Hub.disarm_triggers (h : Hub) (n : Nat) : (h.disarm n).triggers = h.triggers := by
  simp only [Hub.disarm, ↓Hub.retryWait_triggers, ↓forAll_triggers, ↓Hub.triggers_mk, implies_true, ↓Hub.triggers_fold]
@[simp] theorem Hub.trainDone_triggers (h : Hub) (n : Nat) : (h.trainDone n).triggers = h.triggers := by
  unfold Hub.trainDone
  repeat' split
  all_goals simp only [↓Hub.disarm_triggers, ↓Hub.notice_triggers, ↓Hub.reserve_triggers, ↓Hub.sendWanted_triggers, ↓Hub.setCap_triggers,
    ↓Hub.setDie_triggers,
    ↓forAll_triggers, implies_true]
@[simp] theorem Hub.setCh_triggers (h : Hub) (c : Nat) (f : Chan → Chan) : (h.setCh c f).triggers = h.triggers :=
  congrArg (fun t : Trg => (t.nextId, t.pins, t.kons)) (Hub.setCh_trg ..)
@[simp] theorem Hub.eventAt_triggers (h : Hub) (t : Nat) (unit : Word) (code cls count : Nat) (arg0 arg1 : Word) :
    (h.eventAt t unit code cls count arg0 arg1).triggers = h.triggers :=
  congrArg (fun t : Trg => (t.nextId, t.pins, t.kons)) (Hub.eventAt_trg ..)
@[simp] theorem Hub.trigLate_triggers (h : Hub) (t who limit : Nat) : (h.trigLate t who limit).triggers = h.triggers := by
  simp only [Hub.trigLate, ↓Hub.eventAt_triggers]
@[simp] theorem Hub.startCoach_triggers (n : Nat) (t : Trigger) (trainId missed : Nat) (y : CapChan) (h : Hub) :
    (Hub.startCoach n t trainId missed y h).triggers = h.triggers := by
  unfold Hub.startCoach
  split <;> simp only [↓Hub.setCap_triggers, ↓Hub.setCh_triggers, ↓Hub.setDie_triggers, ↓Hub.trigLate_triggers, ↓Hub.triggers_mk,
    ↓apply_ite Hub.triggers, ite_self, ↓Hub.triggers_fold]
@[simp] theorem Hub.tick_triggers (h : Hub) : h.tick.triggers = h.triggers :=
  congrArg (fun t : Trg => (t.nextId, t.pins, t.kons)) (Hub.tick_trg ..)
@[simp] theorem Hub.event_triggers (h : Hub) (unit : Word) (code cls count : Nat) (arg0 arg1 : Word) :
    (h.event unit code cls count arg0 arg1).triggers = h.triggers :=
  congrArg (fun t : Trg => (t.nextId, t.pins, t.kons)) (Hub.event_trg ..)
@[simp] theorem Hub.retireChan_triggers (h : Hub) (c code count : Nat) : (h.retireChan c code count).triggers = h.triggers := by
  unfold Hub.retireChan
  dsimp only
  repeat' split
  all_goals simp only [↓Hub.event_triggers, ↓Hub.setCh_triggers, ↓Hub.setDie_triggers]
@[simp] theorem Hub.spareChan_triggers (h : Hub) (c code : Nat) (readable : Bool) :
    (h.spareChan c code readable).triggers = h.triggers := by
  unfold Hub.spareChan
  dsimp only
  repeat' split
  all_goals simp only [↓Hub.notice_triggers, ↓Hub.retireChan_triggers, ↓Hub.setCh_triggers, ↓Hub.setDie_triggers]
@[simp] theorem Hub.setEngWin_triggers (h : Hub) (d : Nat) (u : Word) (w : Option FaultWin) :
    (h.setEngWin d u w).triggers = h.triggers := by
  simp only [Hub.setEngWin, ↓Hub.setDie_triggers]
@[simp] theorem Hub.placeUse_triggers (h : Hub) (d e c : Nat) (others : List Nat) (get : Chan → Option ChurnUse) (put :
    Option ChurnUse → Chan → Chan) : (h.placeUse d e c others get put).triggers = h.triggers := by
  unfold Hub.placeUse
  split
  · rfl
  · split
    · rfl
    · split <;> exact h.setCh_triggers _ _
@[simp] theorem Hub.moveChurn_triggers (h : Hub) (d e : Nat) : (h.moveChurn d e).triggers = h.triggers := by
  rw [h.moveChurn_eq]
  refine forAll_triggers _ (fun c g => ?_) _ _
  simp only [Hub.placeUses, ↓apply_ite Hub.triggers, ↓Hub.notice_triggers, ↓Hub.placeUse_triggers, ite_self]
@[simp] theorem Hub.retireEngine_triggers (h : Hub) (d typ e : Nat) : (h.retireEngine d typ e).triggers = h.triggers := by
  simp only [Hub.retireEngine, ↓Hub.moveChurn_triggers, ↓Hub.setDie_triggers, ↓apply_ite Hub.triggers, ite_self, modAt]
@[simp] theorem Hub.engineFail_triggers (h : Hub) (d typ e code : Nat) (readable passes : Bool) :
    (h.engineFail d typ e code readable passes).triggers = h.triggers := by
  unfold Hub.engineFail
  dsimp only
  repeat' split
  all_goals simp only [↓Hub.event_triggers, ↓Hub.retireEngine_triggers, ↓Hub.setDie_triggers, ↓Hub.setEngWin_triggers,
    ↓Hub.spareChan_triggers, ↓Hub.triggers_mk, ↓Hub.triggers_fold]
@[simp] theorem Hub.churnMismatch_triggers (h : Hub) (d e : Nat) : (h.churnMismatch d e).triggers = h.triggers := by
  simp only [Hub.churnMismatch, ↓Hub.engineFail_triggers, ↓Hub.event_triggers, ↓Hub.setDie_triggers, ↓Hub.tick_triggers, ↓apply_ite
    Hub.triggers, ite_self,
    modAt]
@[simp] theorem Hub.coachPayload_triggers (h : Hub) (c : Coach) : (h.coachPayload c).1.triggers = h.triggers := by
  unfold Hub.coachPayload
  split <;> simp only [↓Hub.churnMismatch_triggers, ↓Hub.setCh_triggers, ↓iter_triggers, ↓Hub.triggers_mk, implies_true, ↓Hub.triggers_fold]
@[simp] theorem Hub.coachDone_triggers (h : Hub) (d seq : Nat) : (h.coachDone d seq).triggers = h.triggers := by
  unfold Hub.coachDone
  split
  · rfl
  · next c _ =>
    have paid := h.coachPayload_triggers c
    generalize h.coachPayload c = formed at paid ⊢
    obtain ⟨g, pay, churn⟩ := formed
    simp only [↓Hub.trainDone_triggers, ↓apply_ite Hub.triggers, ↓Hub.retryWait_triggers, ↓Hub.setCap_triggers, ↓Hub.setCoach_triggers,
      ite_self]
    exact paid
@[simp] theorem Hub.coachFull_triggers (n c : Nat) (h : Hub) : (Hub.coachFull n c h).triggers = h.triggers := by
  unfold Hub.coachFull
  split <;> simp only [↓Hub.coachDone_triggers, ↓apply_ite Hub.triggers, ite_self]
@[simp] theorem Hub.capJoin_triggers (h : Hub) (n id source : Nat) (c : Capture) : (h.capJoin n id source c).triggers = h.triggers := by
  simp only [Hub.capJoin, ↓Hub.setCap_triggers, ↓Hub.setDie_triggers, ↓forAll_triggers, implies_true]
@[simp] theorem Hub.capHit_triggers (n : Nat) (t : Trigger) (h : Hub) : (Hub.capHit n t h).triggers = h.triggers := by
  unfold Hub.capHit
  dsimp only
  repeat' split
  all_goals simp only [↓Hub.capJoin_triggers, ↓Hub.coachFull_triggers, ↓Hub.setCap_triggers, ↓Hub.startCoach_triggers,
    ↓Hub.trainDone_triggers, ↓forAll_triggers, ↓Hub.triggers_mk, implies_true, ↓Hub.triggers_fold]
@[simp] theorem Hub.capFire_triggers (h : Hub) (t : Trigger) (sel : CapParams → Bool) : (h.capFire t sel).triggers = h.triggers := by
  refine forAll_triggers _ (fun n g => ?_) _ _
  split <;> simp only [↓apply_ite Hub.triggers, ↓Hub.capHit_triggers, ite_self]
@[simp] theorem Hub.setLink_triggers (h : Hub) (p : Nat) (f : Link → Link) : (h.setLink p f).triggers = h.triggers :=
  congrArg (fun t : Trg => (t.nextId, t.pins, t.kons)) (Hub.setLink_trg ..)
@[simp] theorem Hub.queue_triggers (h : Hub) (p : Nat) (f : Frame) : (h.queue p f).triggers = h.triggers := by
  simp only [Hub.queue, ↓Hub.setLink_triggers, modAt]
@[simp] theorem Hub.originate_triggers (h : Hub) (cls kind : Nat) (body : Bytes) : (h.originate cls kind body).triggers = h.triggers := by
  simp only [Hub.originate, ↓Hub.queue_triggers, ↓apply_ite Hub.triggers, ite_self]
@[simp] theorem Hub.arrAct_triggers (h : Hub) (m : ArrMsg) : (h.arrAct m).triggers = h.triggers := by
  simp only [Hub.arrAct, ↓Hub.capFire_triggers, ↓Hub.trigLate_triggers, ↓Hub.triggers_mk, ↓apply_ite Hub.triggers, ite_self,
    ↓Hub.triggers_fold]
@[simp] theorem Hub.arrOriginate_triggers (h : Hub) (t : Trigger) (group : Nat) : (h.arrOriginate t group).triggers = h.triggers := by
  simp only [Hub.arrOriginate, ↓Hub.arrAct_triggers, ↓Hub.originate_triggers, ↓Hub.triggers_mk, ↓apply_ite Hub.triggers, ite_self,
    ↓Hub.triggers_fold]


/-- A trigger uses one trigger id and leaves the pins and the groups. -/
theorem Hub.fire_triggers (h : Hub) (d source stamp missed info : Nat) (flags : Byte) (route : Word) (sel : CapParams → Bool) :
    (h.fire d source stamp missed info flags route sel).triggers = ((h.trg.nextId + 1) % 65536, h.trg.pins, h.trg.kons) := by
  unfold Hub.fire
  extract_lets id t was g g1 g2
  have used : g.triggers = ((h.trg.nextId + 1) % 65536, h.trg.pins, h.trg.kons) := rfl
  have recorded : g1.triggers = g.triggers := ite_keeps Hub.triggers (g.detRecord_triggers d _) rfl
  have captured : g2.triggers = g.triggers := ite_keeps Hub.triggers ((g1.capFire_triggers t sel).trans recorded) recorded
  exact (ite_keeps Hub.triggers ((g2.arrOriginate_triggers t _).trans captured) captured).trans used

/-! ## EA64 levels and trigger units (R169, R171 to R174) -/

/-- An event of a level changes its side. -/
theorem thrStep_event {level hyst : Word} {st : Option Bool} {v : Int} {up : Bool} (event : (thrStep level hyst st v).2 = some up) :
    st = some (!up) ∧ (thrStep level hyst st v).1 = some up := by
  unfold thrStep at event ⊢
  dsimp only at event ⊢
  cases st with
  | none => exact absurd event (by simp)
  | some side =>
    cases side <;> dsimp only at event ⊢ <;> split at event <;> simp_all

section Unit

variable {u : TrigUnit} {d : DetSec} {scale : Int} {t : Nat} {x : Int} {l : TrigLook} (look : d.look u scale x = some l)

/-- The unit can fire: in free run 1 µs after its last trigger, else when it is ready. -/
def TrigUnit.ready (u : TrigUnit) (d : DetSec) (t : Nat) : Bool :=
  if bitOf d.trg 23 then decide (u.since + fuUs ≤ t) else u.readyLow || u.readyHigh

include look

theorem TrigUnit.eval_fires (ready : u.ready d t = true) (fire : l.fire = true) : u.eval d scale t x =
    ({ u with readyLow := false, readyHigh := false, since := t, missed := 0, prevFire := true }, some (l, u.missed)) := by
  unfold TrigUnit.eval
  rw [look]
  dsimp only
  exact if_pos (Bool.and_eq_true_iff.2 ⟨ready, fire⟩)

theorem TrigUnit.eval_unready (unready : u.ready d t = false) : (u.eval d scale t x).2 = none ∧
    (u.eval d scale t x).1.missed = if l.fire && !u.prevFire then satInc 8 u.missed else u.missed := by
  have cannot : (if bitOf d.trg 23 = true then decide (u.since + fuUs ≤ t) else u.readyLow || u.readyHigh) = false := unready
  unfold TrigUnit.eval
  rw [look]
  dsimp only
  rw [cannot, if_neg (by simp)]
  refine ⟨rfl, ?_⟩
  split <;> simp

end Unit

/-! ## Settings of triggers (R178 to R181, R185, R386) -/

theorem Hub.pin_of_getElem? {h : Hub} {pin : Nat} {p q : TrigPin} (there : h.trg.pins[pin]? = some p) : h.trg.pins.getD pin q = p := by
  rw [List.getD_eq_getElem?_getD, there]
  rfl

theorem Hub.trigPinSet_good {h : Hub} {pin : Nat} {w : Word} (present : pin < 8) (bits : onlyBits w 0xE07000FF = true)
    (edge : fld w 30 29 ≠ 3) (up : DieUp h (pinDie pin)) : h.trigPinSet pin w = ({ h with trg := { h.trg with
      pins := h.trg.pins.modify pin fun p => { p with cfg := w } } } : Hub).ok [] := by
  obtain ⟨-, -, serves⟩ := up
  unfold Hub.trigPinSet
  rw [if_neg (by rw [bits]; simp [present, edge]), Hub.onDies_one_up h serves]
  rfl

theorem Hub.trigPinGet_there {h : Hub} {pin : Nat} {p : TrigPin} (there : h.trg.pins[pin]? = some p) (present : pin < 8)
    (up : DieUp h (pinDie pin)) : h.trigPinGet pin =
      h.ok (be 4 p.cfg.toNat ++ be 1 (if p.level then 1 else 0) ++ be 1 p.missed ++ pad 2) := by
  obtain ⟨-, -, serves⟩ := up
  unfold Hub.trigPinGet
  rw [if_neg (by simpa using present), Hub.onDies_one_up h serves, Hub.pin_of_getElem? there]

section Kon

variable {h : Hub} {g pins k win lat : Nat} {route : Word} {units : List Nat}

/-- The hub with the settings that its channels take, to which a group is held. -/
def Hub.latest (h : Hub) : Hub := { h with chans := h.chans.map fun (x : Chan) => { x with desc := x.latest } }

theorem Hub.trigKonSet_good (group : g < 16) (some : pins < 256) (long : 1 ≤ win) (short : win ≤ 1000000) (late : 4000 ≤ lat)
    (soon : lat ≤ 10000000) (bits : onlyBits route 0x007000FF = true)
    (present : ∀ c ∈ units, c < h.nChans ∧ h.dieDown (chDie c) = false) (enough : k ≤ units.length + (bitsOf 8 pins).length)
    (fast : h.latest.konMembersOk ⟨k, pins, units, win, lat, route, [], 0, 0⟩ = true) :
    h.trigKonSet g pins k win lat route units = ({ h with trg := { h.trg with kons := h.trg.kons.modify g fun o =>
      ⟨k, pins, units, win, lat, route, if k = 0 then [] else
        o.events.filter fun (e : KonEvent) => Kon.has ⟨k, pins, units, win, lat, route, [], 0, 0⟩ e.member, o.readyAt, o.missed⟩ } } :
      Hub).ok [] := by
  have within : units.any (fun c => decide (h.nChans ≤ c)) = false := by
    simpa using fun c named => (present c named).1
  have serve : ∀ d ∈ units.map chDie, h.dieDown d = false := by
    simpa using fun c named => (present c named).2
  unfold Hub.trigKonSet
  dsimp only
  rw [if_neg, if_neg, h.onDies_up serve]
  · rfl
  · exact fun slow => by
      have ok : h.latest.konMembersOk { Kon.reset with k := k, pins := pins, units := units, win := win, lat := lat, route := route } = true :=
        fast
      rw [Hub.latest] at ok
      simp [ok] at slow
  · rw [within, bits]
    simp
    omega

theorem Hub.trigKonSet_bad (bad : 16 ≤ g ∨ 256 ≤ pins ∨ win < 1 ∨ 1000000 < win ∨ lat < 4000 ∨ 10000000 < lat ∨
    onlyBits route 0x007000FF = false ∨ (∃ c ∈ units, h.nChans ≤ c) ∨ units.length + (bitsOf 8 pins).length < k ∨
    h.latest.konMembersOk ⟨k, pins, units, win, lat, route, [], 0, 0⟩ = false) :
    h.trigKonSet g pins k win lat route units = h.refuse St.badArg := by
  have cases (p : Prop) [Decidable p] (q : Bool) (r : Hub) (fails : p ∨ q = false) :
      (if p then h.refuse St.badArg else if (!q) = true then h.refuse St.badArg else r) = h.refuse St.badArg := by
    by_cases here : p
    · exact if_pos here
    · rw [if_neg here, (fails.resolve_left here)]
      rfl
  by_cases slow : h.latest.konMembersOk ⟨k, pins, units, win, lat, route, [], 0, 0⟩ = false
  · exact cases _ _ _ (Or.inr slow)
  · exact cases _ _ _ (Or.inl (by simpa [slow] using bad))

end Kon

theorem Hub.trigArrSet_good {h : Hub} {groups : List Nat} {lat us : Nat} (time : (if lat = 0 then 200 else lat) = us) (long : 10 ≤ us)
    (short : us ≤ 10000) (present : ∀ g ∈ groups, g < 256) :
    h.trigArrSet groups lat = ({ h with trg := { h.trg with groups := groups, lat := us * 1000 } } : Hub).ok [] := by
  have known : groups.any (fun g => decide (256 ≤ g)) = false := by simpa using present
  unfold Hub.trigArrSet
  dsimp only
  rw [time, known, if_neg (by simp; omega)]

theorem Hub.trigArrSet_bad {h : Hub} {groups : List Nat} {lat : Nat}
    (bad : lat ≠ 0 ∧ lat < 10 ∨ 10000 < lat ∨ ∃ g ∈ groups, 256 ≤ g) : h.trigArrSet groups lat = h.refuse St.badArg := by
  refine if_pos ?_
  by_cases auto : lat = 0
  · simpa [auto] using bad
  · simpa [auto] using bad

/-! ## TRIG pins (R177, R178) -/

theorem any_some_of {α : Type} {p : α → Prop} [DecidablePred p] {a : α} (holds : p a) : (some a).any (fun t => decide (p t)) = true :=
  decide_eq_true holds

theorem not_any_of {α : Type} {p : α → Prop} [DecidablePred p] {o : Option α} (fails : ∀ a, o = some a → ¬p a) :
    ¬(o.any fun t => decide (p t)) = true := by
  cases o with
  | none => exact Bool.false_ne_true
  | some a => exact ne_true_of_eq_false (decide_eq_false (fails a rfl))

section Pin

variable {h : Hub} {pin run : Nat} {fall : Bool} {p : TrigPin} (there : h.trg.pins[pin]? = some p) (present : pin < 8)
  (sound : (h.die (pinDie pin)).faulted = false) (level : p.level = fall) (supplied : h.vio (pin / 4) = true)

/-- The hub with a pin changed. -/
def Hub.setPin (h : Hub) (pin : Nat) (f : TrigPin → TrigPin) : Hub := { h with trg := { h.trg with pins := h.trg.pins.modify pin f } }

include there present sound level supplied

/-- A level that has counted. -/
theorem Hub.trigEdge_counts (long : 9 ≤ run) : h.trigEdge pin fall run =
    (let g := h.setPin pin fun q => { q with level := !fall }
     let stamp := (h.tm.now / 1024 - (run - 1)) * 1024
     if !bitOf p.cfg 31 || !(fld p.cfg 30 29 == 2 || (fld p.cfg 30 29 == 1) == fall) then g
     else if p.last.any (fun t => decide (stamp < t + fuUs)) then g.setPin pin fun q => { q with missed := satInc 8 q.missed }
     else ((g.setPin pin fun q => { q with last := some stamp, missed := 0 }).fire (pinDie pin) (0x1000 + pin) stamp p.missed
       (if fall then 8 else 0) 0 p.cfg fun q => q.pins.testBit pin).konEvent (1024 + pin) stamp) := by
  unfold Hub.trigEdge
  dsimp only
  rw [if_neg (by simp [present, sound, supplied, long]), Hub.pin_of_getElem? there, if_neg (by simp [level])]
  rfl

/-- The edge is selected. -/
def TrigPin.selects (p : TrigPin) (fall : Bool) : Bool := bitOf p.cfg 31 && (fld p.cfg 30 29 == 2 || (fld p.cfg 30 29 == 1) == fall)

theorem Hub.trigEdge_unselected (long : 9 ≤ run) (off : p.selects fall = false) :
    h.trigEdge pin fall run = h.setPin pin fun q => { q with level := !fall } := by
  rw [Hub.trigEdge_counts there present sound level supplied long]
  refine if_pos ?_
  rw [← Bool.not_and]
  exact congrArg (!·) off

omit there present sound level supplied in
theorem TrigPin.not_unselected (on : p.selects fall = true) :
    ¬(!bitOf p.cfg 31 || !(fld p.cfg 30 29 == 2 || (fld p.cfg 30 29 == 1) == fall)) = true := by
  rw [← Bool.not_and]
  exact ne_true_of_eq_false (congrArg (!·) on)

theorem Hub.trigEdge_soon (long : 9 ≤ run) (on : p.selects fall = true) {t0 : Nat} (last : p.last = some t0)
    (soon : (h.tm.now / 1024 - (run - 1)) * 1024 < t0 + fuUs) :
    h.trigEdge pin fall run = h.setPin pin fun q => { q with level := !fall, missed := satInc 8 p.missed } := by
  rw [Hub.trigEdge_counts there present sound level supplied long]
  dsimp only
  have within : (some t0).any (fun t => decide ((h.tm.now / 1024 - (run - 1)) * 1024 < t + fuUs)) = true :=
    any_some_of (p := fun t => (h.tm.now / 1024 - (run - 1)) * 1024 < t + fuUs) soon
  rw [if_neg (TrigPin.not_unselected on), last, if_pos within]
  refine congrArg (fun l => { h with trg := { h.trg with pins := l } }) ?_
  exact (List.modify_modify_eq ..).trans (modify_eq_of_getElem? there rfl)

theorem Hub.trigEdge_fires (long : 9 ≤ run) (on : p.selects fall = true)
    (later : ∀ t0, p.last = some t0 → t0 + fuUs ≤ (h.tm.now / 1024 - (run - 1)) * 1024) : ∃ q,
    (h.trigEdge pin fall run).trg.pins[pin]? = some q ∧ q.last = some ((h.tm.now / 1024 - (run - 1)) * 1024) ∧ q.missed = 0 ∧
      q.level = !fall ∧ q.cfg = p.cfg ∧ (h.trigEdge pin fall run).trg.nextId = (h.trg.nextId + 1) % 65536 := by
  have notSoon : ¬(p.last.any fun t => decide ((h.tm.now / 1024 - (run - 1)) * 1024 < t + fuUs)) = true :=
    not_any_of (p := fun t => (h.tm.now / 1024 - (run - 1)) * 1024 < t + fuUs) fun t0 last => Nat.not_lt.2 (later t0 last)
  rw [Hub.trigEdge_counts there present sound level supplied long]
  dsimp only
  rw [if_neg (TrigPin.not_unselected on), if_neg notSoon]
  have fired := ((h.setPin pin fun q => { q with level := !fall }).setPin pin fun q =>
    { q with last := some ((h.tm.now / 1024 - (run - 1)) * 1024), missed := 0 }).fire_triggers (pinDie pin) (0x1000 + pin)
      ((h.tm.now / 1024 - (run - 1)) * 1024) p.missed (if fall = true then 8 else 0) 0 p.cfg fun q => q.pins.testBit pin
  simp only [Hub.triggers, Prod.mk.injEq] at fired
  obtain ⟨id, pins, -⟩ := fired
  refine ⟨{ p with level := !fall, last := some ((h.tm.now / 1024 - (run - 1)) * 1024), missed := 0 }, ?_, rfl, rfl, rfl, rfl, id⟩
  refine (congrArg (fun l : List TrigPin => l[pin]?) pins).trans ?_
  show ((h.trg.pins.modify pin _).modify pin _)[pin]? = _
  rw [List.modify_modify_eq, List.getElem?_modify, there]
  simp

end Pin

theorem Hub.fire_nextId (h : Hub) (d source stamp missed info : Nat) (flags : Byte) (route : Word) (sel : CapParams → Bool) :
    (h.fire d source stamp missed info flags route sel).trg.nextId = (h.trg.nextId + 1) % 65536 :=
  congrArg Prod.fst (h.fire_triggers d source stamp missed info flags route sel)

theorem Hub.trigForce_leaves (h : Hub) : h.trigForce.trg.nextId = (h.trg.nextId + 1) % 65536 ∧
    h.trigForce.mgmt.reply = ⟨St.ok, 0, 255, be 2 h.trg.nextId ++ pad 2⟩ ∧ h.trigForce.tm = h.tm := by
  unfold Hub.trigForce
  rw [Hub.ok_trg, Hub.ok_mgmt, Hub.ok_tm, Hub.fire_nextId, Hub.fire_tm]
  exact ⟨rfl, rfl, rfl⟩

/-! ## k-of-n groups (R180, R181) -/

section Group

variable {h : Hub} {g : Nat} {k : Kon} {e : KonEvent} (there : h.trg.kons[g]? = some k) (next : k.next = some e)

/-- The hub with a group changed. -/
def Hub.setKon (h : Hub) (g : Nat) (f : Kon → Kon) : Hub := { h with trg := { h.trg with kons := h.trg.kons.modify g f } }

/-- The other events of a group that its window at an event leaves. -/
def Kon.live (k : Kon) (e : KonEvent) : List KonEvent :=
  (k.events.filter fun x => x != e).filter fun (x : KonEvent) => !x.evaluated || decide (e.stamp ≤ x.stamp + k.win * 1024)

/-- The members that count at an event. -/
def Kon.members (k : Kon) (e : KonEvent) : Nat :=
  ((({ e with evaluated := true } :: (k.live e).filter fun (x : KonEvent) => x.evaluated).map KonEvent.member).eraseDups).length

include there next

theorem Hub.konEval_eq : h.konEval g =
    (if h.tm.now < e.stamp + k.lat * 1024 then h
     else if e.stamp < k.readyAt then h.setKon g fun o => { o with events := k.events.filter fun x => x != e, missed := satInc 8 o.missed }
     else if k.members e < k.k then h.setKon g fun o => { o with events := k.live e ++ [{ e with evaluated := true }] }
     else (h.setKon g fun o =>
         { o with events := (k.live e).filter fun (x : KonEvent) => !x.evaluated, readyAt := e.stamp + fuUs, missed := 0 }).fire
       h.boot.lead (0x2000 + g) e.stamp k.missed 0 0 k.route fun q => q.kon.testBit g) := by
  have group : h.trg.kons.getD g Kon.reset = k := by
    rw [List.getD_eq_getElem?_getD, there]
    rfl
  unfold Hub.konEval
  rw [group]
  dsimp only
  rw [next]
  rfl

theorem Hub.konEval_fires (due : ¬h.tm.now < e.stamp + k.lat * 1024) (ready : ¬e.stamp < k.readyAt) (enough : ¬k.members e < k.k) :
    ∃ o, (h.konEval g).trg.kons[g]? = some o ∧ o.readyAt = e.stamp + fuUs ∧ o.missed = 0 ∧
      o.events = (k.live e).filter (fun (x : KonEvent) => !x.evaluated) ∧ (h.konEval g).trg.nextId = (h.trg.nextId + 1) % 65536 := by
  rw [Hub.konEval_eq there next, if_neg due, if_neg ready, if_neg enough]
  have fired := (h.setKon g fun o =>
    { o with events := (k.live e).filter fun (x : KonEvent) => !x.evaluated, readyAt := e.stamp + fuUs, missed := 0 }).fire_triggers
      h.boot.lead (0x2000 + g) e.stamp k.missed 0 0 k.route fun q => q.kon.testBit g
  simp only [Hub.triggers, Prod.mk.injEq] at fired
  obtain ⟨id, -, kons⟩ := fired
  refine ⟨{ k with events := (k.live e).filter fun (x : KonEvent) => !x.evaluated, readyAt := e.stamp + fuUs, missed := 0 },
    (congrArg (fun l : List Kon => l[g]?) kons).trans ?_, rfl, rfl, rfl, id⟩
  show (h.trg.kons.modify g _)[g]? = _
  rw [List.getElem?_modify, there]
  simp

end Group

end Sys2Proof.Machine

open Sys2Proof Sys2Proof.Machine

/-- Settles O18: the levels from the branches of `thrStep`, the units from their readiness (`TrigUnit.eval_fires`, `eval_unready`). -/
theorem detectorAndTriggerRules : Obligations.DetectorAndTriggerRules := by
  unfold Obligations.DetectorAndTriggerRules
  refine ⟨fun level hyst st v => ⟨rfl, ?_, ?_, ?_, ?_, fun up => thrStep_event⟩, fun u d scale t x l look => ⟨?_, ?_, ?_, ?_, ?_, ?_⟩⟩
  · exact fun over' => if_pos over'
  · exact fun under' => if_neg (Int.not_le.2 under')
  · exact fun under' => if_pos under'
  · exact fun over' => if_neg (Int.not_le.2 over')
  · intro single low high
    exact (TrigUnit.eval_unready look (by simp [TrigUnit.ready, single, low, high])).1
  · intro free soon
    exact (TrigUnit.eval_unready look (by simpa [TrigUnit.ready, free] using soon)).1
  · intro free later fire
    rw [TrigUnit.eval_fires look (by simpa [TrigUnit.ready, free] using later) fire]
  · intro single armed fire
    rw [TrigUnit.eval_fires look (by simpa [TrigUnit.ready, single] using armed) fire]
    exact ⟨rfl, rfl, rfl, rfl, rfl⟩
  · intro single low high fire before
    rw [(TrigUnit.eval_unready look (by simp [TrigUnit.ready, single, low, high])).2, fire, before]
    rfl
  · intro single low high fire before
    rw [(TrigUnit.eval_unready look (by simp [TrigUnit.ready, single, low, high])).2, fire, before]
    rfl

/-- Settles O19: that the events of a source that is no member any more are discarded is the model's reading (log entry 37); all else
follows the branches of the settings, and a trigger uses one id (`Hub.fire_triggers`). -/
theorem triggerSettings : Obligations.TriggerSettings := by
  unfold Obligations.TriggerSettings
  refine ⟨fun s => ⟨?_, ?_, ?_, ?_, ?_, ?_, ?_, ?_, ?_⟩, fun s => ⟨rfl, ?_, ?_⟩⟩
  · exact fun pin w present bits edge up => next_congr (Hub.trigPinSet_good present bits edge up)
  · exact fun pin w bad => next_congr (if_pos (by simpa using bad))
  · exact fun pin p there present up => next_congr (Hub.trigPinGet_there there present up)
  · intro g pins k win lat route units group some long short late soon bits present enough member fast
    have good := Hub.trigKonSet_good group some long short late soon bits present enough fast
    simp only [if_neg member] at good
    exact next_congr good
  · intro g pins win lat route units group some long short late soon bits present
    exact next_congr (Hub.trigKonSet_good (k := 0) group some long short late soon bits present (Nat.zero_le _) rfl)
  · exact fun g pins k win lat route units bad => next_congr (Hub.trigKonSet_bad bad)
  · intro groups us long short present
    refine next_congr (Hub.trigArrSet_good (us := us) ?_ long short present)
    exact if_neg (by omega)
  · exact fun groups present => next_congr (Hub.trigArrSet_good (us := 200) (if_pos rfl) (by decide) (by decide) present)
  · exact fun groups us bad => next_congr (Hub.trigArrSet_bad bad)
  · exact fun n some => next_congr (congrArg (fun g : Hub => g.ok _) (if_neg some))
  · obtain ⟨id, reply, tm⟩ := s.hub.trigForce_leaves
    exact ⟨_, rfl, id, reply, tm⟩

/-- Settles O20: an edge that counts is one of three (`Hub.trigEdge_counts`); one that triggers leaves the pins as its own change has set
them (`Hub.fire_triggers`). -/
theorem triggerPins : Obligations.TriggerPins := by
  intro s pin run fall p stamp sel there present sound level supplied
  refine ⟨fun short => ?_, fun long off => ?_, fun t0 long on last soon => ?_, fun long on later => ?_⟩
  · exact next_same (if_pos (Or.inr (Or.inr (Or.inl short))))
  · exact next_congr (Hub.trigEdge_unselected there present sound level supplied long off)
  · exact next_congr (Hub.trigEdge_soon there present sound level supplied long on last soon)
  · obtain ⟨q, found, last, missed, now, cfg, id⟩ := Hub.trigEdge_fires there present sound level supplied long on later
    exact ⟨_, q, rfl, found, last, missed, now, cfg, id⟩

/-- Settles O21, from the branches of an evaluation (`Hub.konEval_eq`). That only evaluated events and the one under evaluation are counted
is the model's reading (log entry 37). -/
theorem konGroups : Obligations.KonGroups := by
  intro s g k e there next live counted
  have evaluates := Hub.konEval_eq there next
  refine ⟨fun early => ?_, fun due unready => ?_, fun due ready few => ?_, fun due ready enough => ?_⟩
  · exact next_same (evaluates.trans (if_pos early))
  · refine next_congr ((evaluates.trans ((if_neg (Nat.not_lt.2 due)).trans (if_pos unready))).trans ?_)
    refine congrArg (fun l => { s.hub with trg := { s.hub.trg with kons := l } }) ?_
    exact modify_eq_of_getElem? there rfl
  · exact next_congr (evaluates.trans ((if_neg (Nat.not_lt.2 due)).trans ((if_neg (Nat.not_lt.2 ready)).trans (if_pos few))))
  · obtain ⟨o, found, rest⟩ := Hub.konEval_fires there next (Nat.not_lt.2 due) (Nat.not_lt.2 ready) (Nat.not_lt.2 enough)
    exact ⟨_, o, rfl, found, rest⟩

end

section
/-! PROOFS. What a die's store keeps, and what of a capture stays as it reserves. -/

namespace Sys2Proof.Machine

/-! ## Stores without the state of their spools -/

/-- A die's store without the state of its spool: what records, reservations and failing engines leave. -/
def Die.shelf (x : Die) : Store := { x.store with spool := .fullRate }

theorem Die.shelf_eq (x : Die) : x.shelf = { x.store with spool := .fullRate } := by
  cases x
  rfl

/-- The stores of a hub's dies without the states of their spools. -/
def Hub.shelves (h : Hub) := h.dies.map Die.shelf

theorem forAll_shelves {α : Type} (f : α → Hub → Hub) (keeps : ∀ a h, (f a h).shelves = h.shelves) (l : List α) (h : Hub) :
    (forAll l f h).shelves = h.shelves := forAll_keeps Hub.shelves f keeps l h
theorem iter_shelves (f : Hub → Hub) (keeps : ∀ h, (f h).shelves = h.shelves) (n : Nat) (h : Hub) :
    (iter f n h).shelves = h.shelves := iter_keeps Hub.shelves f keeps n h

theorem Hub.map_shelf_dies (h : Hub) : h.dies.map Die.shelf = h.shelves := rfl

theorem Hub.shelves_mk {clk : Clk} {tm : Tm} {chans : List Chan} {octs : List Octet} {reps : List Rep} {dies : List Die}
    {trg : Trg} {caps : List (Option Capture)} {nextTrain : Nat} {saved : List SavedChurn} {jobs : List ChurnJob} {nextHandle nextJob : Nat}
    {flows : List Flow} {strm : Strm} {hk : Hk} {sep : Sep} {ports : List Port} {enm : Enum} {mgmt : Mgmt} {dbw : Dbw} {fseal : Seal}
    {flt : Flt} {cal : Cal} {pwr : Pwr} {pmbus : Pmbus} {boot : Boot} {flash : Flash} {tag : Tag} {tap : Tap} {fresh : Nat} {ident : Ident}
      :
    (Hub.mk ident clk tm chans octs reps dies trg caps nextTrain saved jobs nextHandle nextJob flows strm hk sep ports enm mgmt dbw
      fseal flt cal pwr pmbus boot flash tag tap fresh).shelves = dies.map Die.shelf := rfl

theorem Hub.setDie_shelves (h : Hub) (d : Nat) {f : Die → Die} (keeps : ∀ x, (f x).shelf = x.shelf) :
    (h.setDie d f).shelves = h.shelves := map_modAt_of_keeps keeps _ _

@[simp] theorem Hub.setFlow_shelves (h : Hub) (k : FlowKey) (g : Flow → Flow) : (h.setFlow k g).shelves = h.shelves :=
  congrArg (List.map Die.shelf) (Hub.setFlow_dies ..)
@[simp] theorem Hub.mapCh_shelves (h : Hub) (f : Nat → Chan → Chan) : (h.mapCh f).shelves = h.shelves :=
  congrArg (List.map Die.shelf) (Hub.mapCh_dies ..)

@[simp] theorem Hub.spoolTouch_shelves (h : Hub) (d : Nat) (was : Seqs) : (h.spoolTouch d was).shelves = h.shelves := by
  unfold Hub.spoolTouch
  simp only [↓Hub.shelves_mk, ↓Hub.map_shelf_dies]
  split
  · rfl
  · split
    · rw [Hub.shelves_mk, Hub.map_shelf_dies, Hub.mapCh_shelves, Hub.setDie_shelves _ _ (by intro; rfl)]
    · rw [Hub.setFlow_shelves, Hub.mapCh_shelves, Hub.shelves_mk, Hub.map_shelf_dies]
      refine (iter_shelves _ (fun g => ?_) _ _).trans (h.setDie_shelves d (by intro; rfl))
      split
      · split
        · exact g.setFlow_shelves _ _
        · rfl
      · rfl
    · rw [Hub.mapCh_shelves, Hub.setDie_shelves _ _ (by intro; rfl)]


@[simp] theorem Hub.setLink_shelves (h : Hub) (p : Nat) (f : Link → Link) : (h.setLink p f).shelves = h.shelves :=
  congrArg (List.map Die.shelf) (Hub.setLink_dies ..)
@[simp] theorem Hub.ctl_shelves (h : Hub) (p code payload : Nat) : (h.ctl p code payload).shelves = h.shelves := by
  simp only [Hub.ctl, ↓Hub.setLink_shelves]
@[simp] theorem Hub.watermarks_shelves (h : Hub) : h.watermarks.shelves = h.shelves := by
  simp only [Hub.watermarks, ↓Hub.ctl_shelves, ↓Hub.setLink_shelves, ↓forAll_shelves, ↓Hub.shelves_mk, ↓apply_ite Hub.shelves, ite_self,
    implies_true, ↓Hub.map_shelf_dies]
@[simp] theorem Hub.emitSince_shelves (h : Hub) (k : FlowKey) (stream : Nat) (rcd : Bytes) (since : Nat) :
    (h.emitSince k stream rcd since).shelves = h.shelves := by
  unfold Hub.emitSince
  split <;> simp only [↓Hub.setFlow_shelves, ↓Hub.spoolTouch_shelves, ↓Hub.watermarks_shelves, ↓apply_ite Hub.shelves, ite_self]
@[simp] theorem Hub.emitRecord_shelves (h : Hub) (k : FlowKey) (stream : Nat) (rcd : Bytes) :
    (h.emitRecord k stream rcd).shelves = h.shelves := by
  simp only [Hub.emitRecord, ↓Hub.emitSince_shelves]
@[simp] theorem Hub.hkRecord_shelves (h : Hub) (t kind : Nat) (payload : Bytes) : (h.hkRecord t kind payload).shelves = h.shelves := by
  simp only [Hub.hkRecord, ↓Hub.emitRecord_shelves, ↓Hub.shelves_mk, ↓apply_ite Hub.shelves, ite_self, ↓Hub.map_shelf_dies]
@[simp] theorem Hub.recordAt_shelves (h : Hub) (t kind : Nat) (payload : Bytes) : (h.recordAt t kind payload).shelves = h.shelves := by
  simp only [Hub.recordAt, ↓Hub.hkRecord_shelves, ↓Hub.shelves_mk, ↓apply_ite Hub.shelves, ite_self, ↓Hub.map_shelf_dies]
@[simp] theorem Hub.raise_shelves (h : Hub) (bit : Nat) : (h.raise bit).shelves = h.shelves :=
  congrArg (List.map Die.shelf) (Hub.raise_dies ..)
@[simp] theorem Hub.logEntry_shelves (h : Hub) (t : Nat) (event : Bytes) : (h.logEntry t event).shelves = h.shelves := by
  simp only [Hub.logEntry, ↓Hub.shelves_mk, ↓apply_ite Hub.shelves, ite_self, ↓Hub.map_shelf_dies]
@[simp] theorem Hub.eventAt_shelves (h : Hub) (t : Nat) (unit : Word) (code cls count : Nat) (arg0 arg1 : Word) :
    (h.eventAt t unit code cls count arg0 arg1).shelves = h.shelves := by
  simp only [Hub.eventAt, ↓Hub.logEntry_shelves, ↓Hub.raise_shelves, ↓Hub.recordAt_shelves, ↓Hub.shelves_mk, ↓apply_ite Hub.shelves,
    ite_self, ↓Hub.map_shelf_dies]
@[simp] theorem Hub.event_shelves (h : Hub) (unit : Word) (code cls count : Nat) (arg0 arg1 : Word) :
    (h.event unit code cls count arg0 arg1).shelves = h.shelves := by
  simp only [Hub.event, ↓Hub.eventAt_shelves]
@[simp] theorem Hub.notice_shelves (h : Hub) (unit : Word) (code : Nat) (arg0 arg1 : Word) :
    (h.notice unit code arg0 arg1).shelves = h.shelves := by
  simp only [Hub.notice, ↓Hub.event_shelves]
@[simp] theorem Hub.setCap_shelves (h : Hub) (n : Nat) (f : Capture → Capture) : (h.setCap n f).shelves = h.shelves :=
  congrArg (List.map Die.shelf) (Hub.setCap_dies ..)
@[simp] theorem Hub.reserveDie_shelves (n : Nat) (eval : Bool) (d : Nat) (h : Hub) : (Hub.reserveDie n eval d h).shelves = h.shelves := by
  unfold Hub.reserveDie
  dsimp only
  repeat' split
  all_goals simp only [↓Hub.notice_shelves, ↓Hub.setCap_shelves, ↓Hub.shelves_mk, ↓Hub.map_shelf_dies]
@[simp] theorem Hub.retryWait_shelves (h : Hub) (d : Nat) : (h.retryWait d).shelves = h.shelves := by
  refine forAll_shelves _ (fun n g => ?_) _ _
  split <;> simp only [↓apply_ite Hub.shelves, ↓Hub.reserveDie_shelves, ite_self]
@[simp] theorem Hub.setCh_shelves (h : Hub) (c : Nat) (f : Chan → Chan) : (h.setCh c f).shelves = h.shelves :=
  congrArg (List.map Die.shelf) (Hub.setCh_dies ..)
@[simp] theorem Hub.tick_shelves (h : Hub) : h.tick.shelves = h.shelves :=
  congrArg (List.map Die.shelf) (Hub.tick_dies ..)
@[simp] theorem Hub.retireChan_shelves (h : Hub) (c code count : Nat) : (h.retireChan c code count).shelves = h.shelves := by
  unfold Hub.retireChan
  dsimp only
  repeat' split
  all_goals simp only [↓Hub.event_shelves, ↓Hub.setCh_shelves, ↓Hub.setDie_shelves, implies_true, ↓Hub.setDie_shelves, Die.shelf_eq]
@[simp] theorem Hub.spareChan_shelves (h : Hub) (c code : Nat) (readable : Bool) : (h.spareChan c code readable).shelves = h.shelves := by
  unfold Hub.spareChan
  dsimp only
  repeat' split
  all_goals simp only [↓Hub.notice_shelves, ↓Hub.retireChan_shelves, ↓Hub.setCh_shelves, ↓Hub.setDie_shelves, implies_true,
    ↓Hub.setDie_shelves, Die.shelf_eq]
@[simp] theorem Hub.setEngWin_shelves (h : Hub) (d : Nat) (u : Word) (w : Option FaultWin) : (h.setEngWin d u w).shelves = h.shelves := by
  simp only [Hub.setEngWin, ↓Hub.setDie_shelves, implies_true, ↓Hub.setDie_shelves, Die.shelf_eq]
@[simp] theorem Hub.placeUse_shelves (h : Hub) (d e c : Nat) (others : List Nat) (get : Chan → Option ChurnUse) (put :
    Option ChurnUse → Chan → Chan) : (h.placeUse d e c others get put).shelves = h.shelves := by
  unfold Hub.placeUse
  split
  · rfl
  · split
    · rfl
    · split <;> exact h.setCh_shelves _ _
@[simp] theorem Hub.moveChurn_shelves (h : Hub) (d e : Nat) : (h.moveChurn d e).shelves = h.shelves := by
  rw [h.moveChurn_eq]
  refine forAll_shelves _ (fun c g => ?_) _ _
  simp only [Hub.placeUses, ↓apply_ite Hub.shelves, ↓Hub.notice_shelves, ↓Hub.placeUse_shelves, ite_self]
@[simp] theorem Hub.retireEngine_shelves (h : Hub) (d typ e : Nat) : (h.retireEngine d typ e).shelves = h.shelves := by
  simp only [Hub.retireEngine, ↓Hub.moveChurn_shelves, ↓Hub.setDie_shelves, ↓apply_ite Hub.shelves, ite_self, implies_true,
    ↓Hub.setDie_shelves, Die.shelf_eq]
@[simp] theorem Hub.engineFail_shelves (h : Hub) (d typ e code : Nat) (readable passes : Bool) :
    (h.engineFail d typ e code readable passes).shelves = h.shelves := by
  unfold Hub.engineFail
  dsimp only
  repeat' split
  all_goals simp only [↓Hub.event_shelves, ↓Hub.retireEngine_shelves, ↓Hub.setDie_shelves, ↓Hub.setEngWin_shelves, ↓Hub.spareChan_shelves,
    ↓Hub.shelves_mk, implies_true, ↓Hub.setDie_shelves, ↓Hub.map_shelf_dies, Die.shelf_eq]
@[simp] theorem Hub.churnMismatch_shelves (h : Hub) (d e : Nat) : (h.churnMismatch d e).shelves = h.shelves := by
  simp only [Hub.churnMismatch, ↓Hub.engineFail_shelves, ↓Hub.event_shelves, ↓Hub.setDie_shelves, ↓Hub.tick_shelves, ↓apply_ite
    Hub.shelves, ite_self, implies_true, ↓Hub.setDie_shelves, Die.shelf_eq]
@[simp] theorem Hub.coachPayload_shelves (h : Hub) (c : Coach) : (h.coachPayload c).1.shelves = h.shelves := by
  unfold Hub.coachPayload
  split <;> simp only [↓Hub.churnMismatch_shelves, ↓Hub.setCh_shelves, ↓iter_shelves, ↓Hub.shelves_mk, implies_true, ↓Hub.map_shelf_dies]
@[simp] theorem Hub.needFlow_shelves (h : Hub) (k : FlowKey) (dest : Dest) : (h.needFlow k dest).shelves = h.shelves := by
  unfold Hub.needFlow
  split <;> simp only [↓Hub.setFlow_shelves, ↓Hub.shelves_mk, ↓Hub.map_shelf_dies]
@[simp] theorem Hub.disarm_shelves (h : Hub) (n : Nat) : (h.disarm n).shelves = h.shelves := by
  simp only [Hub.disarm, ↓Hub.retryWait_shelves, ↓forAll_shelves, ↓Hub.shelves_mk, implies_true, ↓Hub.map_shelf_dies]
@[simp] theorem Hub.reserve_shelves (h : Hub) (n : Nat) : (h.reserve n).shelves = h.shelves := by
  unfold Hub.reserve
  split <;> simp only [↓Hub.reserveDie_shelves, ↓forAll_shelves, implies_true]

theorem forAll_caps {α : Type} (f : α → Hub → Hub) (hf : ∀ a h, (f a h).caps = h.caps) (l : List α) (h : Hub) :
    (forAll l f h).caps = h.caps := forAll_keeps Hub.caps f hf l h
theorem iter_caps (f : Hub → Hub) (hf : ∀ h, (f h).caps = h.caps) (n : Nat) (h : Hub) : (iter f n h).caps = h.caps :=
  iter_keeps Hub.caps f hf n h
theorem Hub.caps_mk (x0 x1 x2 x3 x4 x5 x6 x7 x8 x9 x10 x11 x12 x13 x14 x15 x16 x17 x18 x19 x20 x21 x22 x23 x24 x25 x26 x27 x28 x29 x30 x31)
    : (Hub.mk x0 x1 x2 x3 x4 x5 x6 x7 x8 x9 x10 x11 x12 x13 x14 x15 x16 x17 x18 x19 x20 x21 x22 x23 x24 x25 x26 x27 x28 x29 x30 x31).caps =
    x8 := rfl

@[simp] theorem Hub.retireChan_caps (h : Hub) (c code count : Nat) : (h.retireChan c code count).caps = h.caps := by
  unfold Hub.retireChan
  dsimp only
  repeat' split
  all_goals simp only [↓Hub.event_caps, ↓Hub.setCh_caps, ↓Hub.setDie_caps]
@[simp] theorem Hub.spareChan_caps (h : Hub) (c code : Nat) (readable : Bool) : (h.spareChan c code readable).caps = h.caps := by
  unfold Hub.spareChan
  dsimp only
  repeat' split
  all_goals simp only [↓Hub.notice_caps, ↓Hub.retireChan_caps, ↓Hub.setCh_caps, ↓Hub.setDie_caps]
@[simp] theorem Hub.setEngWin_caps (h : Hub) (d : Nat) (u : Word) (w : Option FaultWin) : (h.setEngWin d u w).caps = h.caps := by
  simp only [Hub.setEngWin, ↓Hub.setDie_caps]
@[simp] theorem Hub.placeUse_caps (h : Hub) (d e c : Nat) (others : List Nat) (get : Chan → Option ChurnUse) (put :
    Option ChurnUse → Chan → Chan) : (h.placeUse d e c others get put).caps = h.caps := by
  unfold Hub.placeUse
  split
  · rfl
  · split
    · rfl
    · split <;> exact h.setCh_caps _ _
@[simp] theorem Hub.moveChurn_caps (h : Hub) (d e : Nat) : (h.moveChurn d e).caps = h.caps := by
  rw [h.moveChurn_eq]
  refine forAll_caps _ (fun c g => ?_) _ _
  simp only [Hub.placeUses, ↓apply_ite Hub.caps, ↓Hub.notice_caps, ↓Hub.placeUse_caps, ite_self]
@[simp] theorem Hub.retireEngine_caps (h : Hub) (d typ e : Nat) : (h.retireEngine d typ e).caps = h.caps := by
  simp only [Hub.retireEngine, ↓Hub.moveChurn_caps, ↓Hub.setDie_caps, ↓apply_ite Hub.caps, ite_self, modAt]
@[simp] theorem Hub.engineFail_caps (h : Hub) (d typ e code : Nat) (readable passes : Bool) :
    (h.engineFail d typ e code readable passes).caps = h.caps := by
  unfold Hub.engineFail
  dsimp only
  repeat' split
  all_goals simp only [↓Hub.event_caps, ↓Hub.retireEngine_caps, ↓Hub.setDie_caps, ↓Hub.setEngWin_caps, ↓Hub.spareChan_caps,
    ↓Hub.caps_mk]
@[simp] theorem Hub.churnMismatch_caps (h : Hub) (d e : Nat) : (h.churnMismatch d e).caps = h.caps := by
  simp only [Hub.churnMismatch, ↓Hub.engineFail_caps, ↓Hub.event_caps, ↓Hub.setDie_caps, ↓Hub.tick_caps, ↓apply_ite Hub.caps, ite_self,
    modAt]
@[simp] theorem Hub.coachPayload_caps (h : Hub) (c : Coach) : (h.coachPayload c).1.caps = h.caps := by
  unfold Hub.coachPayload
  split
  · rfl
  · simp only [↓iter_caps, ↓Hub.churnMismatch_caps, ↓Hub.caps_mk, ↓Hub.setCh_caps, implies_true]
@[simp] theorem Hub.needFlow_caps (h : Hub) (k : FlowKey) (dest : Dest) : (h.needFlow k dest).caps = h.caps := by
  unfold Hub.needFlow
  split <;> simp only [↓Hub.setFlow_caps, ↓Hub.caps_mk]
@[simp] theorem Hub.setCoach_caps (h : Hub) (d seq : Nat) (f : Coach → Coach) : (h.setCoach d seq f).caps = h.caps := by
  simp only [Hub.setCoach, ↓Hub.setDie_caps]
@[simp] theorem Hub.coachRecord_caps (h : Hub) (k : FlowKey) (stream first : Nat) (b : Bytes) :
    (h.coachRecord k stream first b).1.caps = h.caps := by
  unfold Hub.coachRecord
  split
  · rfl
  · exact h.setFlow_caps _ _
@[simp] theorem Hub.sendCoach_caps (h : Hub) (d : Nat) (c : Coach) : (h.sendCoach d c).caps = h.caps := by
  unfold Hub.sendCoach
  simp only [↓Hub.setCoach_caps, ↓Hub.coachRecord_caps]
  split
  · simp only [↓apply_ite Hub.caps, ↓Hub.setDie_caps, ↓Hub.coachRecord_caps, ite_self]
  · rfl
@[simp] theorem Hub.sendWanted_caps (h : Hub) (d : Nat) : (h.sendWanted d).caps = h.caps := by
  simp only [Hub.sendWanted, ↓Hub.flowTouch_caps, ↓Hub.sendCoach_caps, ↓forAll_caps, ↓apply_ite Hub.caps, ite_self, implies_true]

/-! ## What a capture keeps as it reserves (R194) -/

/-- A capture without its reservations, its steps and its histories: what reserving leaves of it. -/
def Capture.terms (c : Capture) : Capture := { c with dies := c.dies.map fun y => ⟨y.die, 0, false, 0, 0⟩, chans := [] }

theorem Capture.terms_eq (c : Capture) : c.terms = { c with dies := c.dies.map fun y => ⟨y.die, 0, false, 0, 0⟩, chans := [] } := by
  cases c
  rfl

/-- The terms of a hub's captures. -/
def Hub.capTerms (h : Hub) := h.caps.map (Option.map Capture.terms)

theorem Hub.capTerms_of_caps {a b : Hub} (same : a.caps = b.caps) : a.capTerms = b.capTerms :=
  congrArg (List.map (Option.map Capture.terms)) same

theorem Hub.setCap_capTerms (h : Hub) (n : Nat) {f : Capture → Capture} (keeps : ∀ c, (f c).terms = c.terms) :
    (h.setCap n f).capTerms = h.capTerms :=
  map_modAt_of_keeps (fun o => by cases o <;> simp [keeps]) _ _

theorem Hub.setCap_caps_other (h : Hub) {n m : Nat} (other : m ≠ n) (f : Capture → Capture) : (h.setCap n f).caps[m]? = h.caps[m]? := by
  rw [Hub.setCap_caps, List.getElem?_modify]
  simp [Ne.symm other]

/-- A change of the entries of one die of a capture that keeps their die. -/
theorem Capture.terms_mapDie (c : Capture) (d : Nat) {f : CapDie → CapDie} (keeps : ∀ y, (f y).die = y.die) :
    ({ c with dies := c.dies.map fun y => if y.die == d then f y else y } : Capture).terms = c.terms := by
  rw [Capture.terms_eq, Capture.terms_eq, List.map_map]
  congr 1
  refine List.map_congr_left fun y _ => ?_
  dsimp only [Function.comp]
  split <;> simp only [keeps]

theorem Hub.reserveDie_capTerms (n : Nat) (eval : Bool) (d : Nat) (h : Hub) : (Hub.reserveDie n eval d h).capTerms = h.capTerms := by
  unfold Hub.reserveDie
  split
  · rfl
  next c _ =>
  split
  · rfl
  next x _ =>
  extract_lets step chs restart g set g1 g2 need st taken slots g3
  have kept : g2.capTerms = h.capTerms := by
    have a : g.capTerms = h.capTerms := ite_keeps Hub.capTerms rfl (Hub.capTerms_of_caps (h.notice_caps ..))
    have b : g1.capTerms = h.capTerms := by
      refine ((Hub.setCap_capTerms _ n fun c => ?_).trans (Hub.setCap_capTerms g n fun c => ?_)).trans a
      · exact c.terms_mapDie d fun _ => rfl
      · rfl
    exact ite_keeps Hub.capTerms b b
  have b : g3.capTerms = h.capTerms := ite_keeps Hub.capTerms kept ((Hub.capTerms_of_caps (g2.notice_caps ..)).trans kept)
  clear_value g2 g3
  refine ite_keeps Hub.capTerms ((g2.setCap_capTerms n fun c => ?_).trans kept) ((g3.setCap_capTerms n fun c => ?_).trans b)
  · exact c.terms_mapDie d fun _ => rfl
  · exact c.terms_mapDie d fun _ => rfl

theorem Hub.reserveDie_caps_other {n m : Nat} (other : m ≠ n) (eval : Bool) (d : Nat) (h : Hub) :
    (Hub.reserveDie n eval d h).caps[m]? = h.caps[m]? := by
  unfold Hub.reserveDie
  split
  · rfl
  next c _ =>
  split
  · rfl
  next x _ =>
  extract_lets step chs restart g set g1 g2 need st taken slots g3
  have kept : g2.caps[m]? = h.caps[m]? := by
    have a : g.caps = h.caps := ite_keeps Hub.caps rfl (h.notice_caps ..)
    have b : g1.caps[m]? = h.caps[m]? :=
      ((Hub.setCap_caps_other _ other _).trans (g.setCap_caps_other other _)).trans (congrArg (fun l => l[m]?) a)
    exact ite_keeps (fun k : Hub => k.caps[m]?) b b
  have b : g3.caps[m]? = h.caps[m]? :=
    ite_keeps (fun k : Hub => k.caps[m]?) kept ((congrArg (fun l => l[m]?) (g2.notice_caps ..)).trans kept)
  clear_value g2 g3
  exact ite_keeps (fun k : Hub => k.caps[m]?) ((g2.setCap_caps_other other _).trans kept) ((g3.setCap_caps_other other _).trans b)

theorem Hub.reserve_capTerms (h : Hub) (n : Nat) : (h.reserve n).capTerms = h.capTerms := by
  unfold Hub.reserve
  split
  · rfl
  · exact forAll_keeps Hub.capTerms _ (fun d g => g.reserveDie_capTerms n true d) _ _

theorem Hub.reserve_caps_other (h : Hub) {n m : Nat} (other : m ≠ n) : (h.reserve n).caps[m]? = h.caps[m]? := by
  unfold Hub.reserve
  split
  · rfl
  · exact forAll_keeps (fun k : Hub => k.caps[m]?) _ (fun d g => Hub.reserveDie_caps_other other true d g) _ _

theorem Hub.retryWait_capTerms (h : Hub) (d : Nat) : (h.retryWait d).capTerms = h.capTerms := by
  refine forAll_keeps Hub.capTerms _ (fun n g => ?_) _ _
  split
  · split
    · exact g.reserveDie_capTerms n false d
    · rfl
  · rfl

theorem Hub.getElem?_of_capTerms {a b : Hub} (same : a.capTerms = b.capTerms) {n : Nat} {c : Capture} (there : b.caps[n]? = some (some c)) :
    ∃ k, a.caps[n]? = some (some k) ∧ k.terms = c.terms := by
  have entry := congrArg (fun l => l[n]?) same
  simp only [Hub.capTerms, List.getElem?_map, there, Option.map_some] at entry
  obtain ⟨o, found, keeps⟩ := Option.map_eq_some_iff.1 entry
  obtain ⟨k, rfl, kept⟩ := Option.map_eq_some_iff.1 keeps
  exact ⟨k, found, kept⟩

theorem Hub.getElem?_none_of_capTerms {a b : Hub} (same : a.capTerms = b.capTerms) {n : Nat} (free : b.caps[n]? = some none) :
    a.caps[n]? = some none := by
  have entry := congrArg (fun l => l[n]?) same
  simp only [Hub.capTerms, List.getElem?_map, free, Option.map_some] at entry
  obtain ⟨o, found, keeps⟩ := Option.map_eq_some_iff.1 entry
  rw [found, Option.map_eq_none_iff.1 keeps]

end Sys2Proof.Machine
end



section
/-! PROOFS. CAP_ARM (R193). -/

namespace Sys2Proof.Machine

theorem Hub.capInstall_caps (h : Hub) (p : CapParams) :
    (h.capInstall p).caps = h.caps.modify p.capture fun _ => some (CapParams.armed p) := by
  unfold Hub.capInstall
  exact ite_keeps Hub.caps rfl (forAll_caps _ (fun _ g => g.setCh_caps ..) _ _)

theorem Hub.needFlow_tm (h : Hub) (k : FlowKey) (dest : Dest) : (h.needFlow k dest).tm = h.tm := by
  unfold Hub.needFlow
  split <;> rfl

theorem Hub.capInstall_tm (h : Hub) (p : CapParams) : (h.capInstall p).tm = h.tm := by
  unfold Hub.capInstall
  exact ite_keeps Hub.tm rfl (forAll_tm _ (fun _ g => g.setCh_tm ..) _ _)

/-- The dies whose state CAP_ARM looks at: the port's, the channels' and the trigger units'. -/
def CapParams.dies (p : CapParams) : List Nat := p.port / 4 :: (p.channels ++ p.units).map chDie

/-- A hub that has armed a capture. -/
def Hub.armed (h : Hub) (p : CapParams) : Hub :=
  (forAll (p.channels.map chDie).eraseDups (fun d g => g.needFlow (Hub.coachKey d p.port) (.port p.port)) (h.capInstall p)).reserve p.capture

/-- CAP_ARM whose parameters are good and whose dies can serve comes to its checks. -/
theorem Hub.capArm_up {h : Hub} {p : CapParams} (good : h.badCap p = false) (up : ∀ d ∈ CapParams.dies p, h.dieDown d = false) : h.capArm p =
    h.checked [(St.badArg, h.capConflict p), (St.budget, h.capOver (h.capInstall p) p)] ((h.armed p).ok []) := by
  rw [Hub.capArm, good]
  exact h.onDies_up (dies := CapParams.dies p) up _

theorem Hub.capArm_down {h : Hub} {p : CapParams} (good : h.badCap p = false) (down : ∃ d ∈ CapParams.dies p, h.dieDown d = true) :
    ∃ d, h.capArm p = h.refuseDie St.fault d := by
  rw [Hub.capArm, good]
  exact h.onDies_down down _

theorem Hub.capArm_bad {h : Hub} {p : CapParams} (bad : h.badCap p = true) : h.capArm p = h.refuse St.badArg := by
  rw [Hub.capArm, bad]
  rfl

theorem Hub.badCap_of_range {h : Hub} {p : CapParams} (bad : 31 < p.capture ∨ p.len < 16 ∨ 65536 < p.len ∨ 6 < p.decE ∨ 100 < p.prePct ∨
    p.channels = [] ∨ ∃ c ∈ p.channels, h.nChans ≤ c) : h.badCap p = true := by
  unfold Hub.badCap
  obtain small | short | long | dec | pre | none | absent := bad
  case inr.inr.inr.inr.inr.inl => simp [h.badChs_eq_true (.inl none)]
  case inr.inr.inr.inr.inr.inr => simp [h.badChs_eq_true (.inr absent)]
  all_goals simp [*]

theorem Hub.capture_le_of_good {h : Hub} {p : CapParams} (good : h.badCap p = false) : p.capture ≤ 31 := by
  refine Nat.not_lt.1 fun above => ?_
  rw [Hub.badCap_of_range (.inl above)] at good
  exact absurd good (by decide)

/-- A capture that already stands under the number, or another conflict, is one. -/
theorem Hub.capConflict_ne_nil {h : Hub} {p : CapParams} (conflict : (h.cap p.capture).isSome = true ∨ h.capConflict p ≠ []) :
    h.capConflict p ≠ [] := by
  obtain armed | some := conflict
  · rw [Hub.capConflict, armed]
    exact List.cons_ne_nil _ _
  · exact some

theorem Hub.armed_flows_caps (h : Hub) (p : CapParams) (ds : List Nat) :
    (forAll ds (fun d g => g.needFlow (Hub.coachKey d p.port) (.port p.port)) (h.capInstall p)).caps =
      h.caps.modify p.capture fun _ => some (CapParams.armed p) :=
  (forAll_caps _ (fun _ g => g.needFlow_caps ..) _ _).trans (h.capInstall_caps p)

theorem Hub.armed_caps_other (h : Hub) (p : CapParams) {n : Nat} (other : n ≠ p.capture) : (h.armed p).caps[n]? = h.caps[n]? := by
  rw [Hub.armed, Hub.reserve_caps_other _ other, Hub.armed_flows_caps, List.getElem?_modify]
  simp [Ne.symm other]

theorem Hub.armed_caps_same {h : Hub} {p : CapParams} (there : p.capture < h.caps.length) :
    ∃ k, (h.armed p).caps[p.capture]? = some (some k) ∧ k.terms = (CapParams.armed p).terms := by
  refine Hub.getElem?_of_capTerms (Hub.reserve_capTerms _ _) ?_
  rw [Hub.armed_flows_caps, List.getElem?_modify, List.getElem?_eq_getElem there]
  simp

theorem Hub.armed_tm (h : Hub) (p : CapParams) : (h.armed p).tm = h.tm := by
  rw [Hub.armed, Hub.reserve_tm]
  exact (forAll_tm _ (fun _ g => g.needFlow_tm ..) _ _).trans (h.capInstall_tm p)

end Sys2Proof.Machine

open Sys2Proof Sys2Proof.Machine

/-- Settles O22: CAP_ARM refuses in the order of R193; what it arms keeps its terms through its reservations. -/
theorem captures : Obligations.Captures := by
  unfold Obligations.Captures
  refine ⟨fun s p shaped good up free fits => ?_, fun s p => ⟨fun bad => ?_, fun bad => ?_, fun good up conflict => ?_,
    fun good up free over' => ?_, fun good down => ?_⟩⟩
  · obtain ⟨-, -, -, -, -, -, -, caps, -⟩ := shaped
    obtain ⟨k, there, terms⟩ := Hub.armed_caps_same (h := s.hub) (p := p) (by have := Hub.capture_le_of_good good; omega)
    have run : s.hub.capArm p = (s.hub.armed p).ok [] := by rw [Hub.capArm_up good up, free, fits]; rfl
    simp only [Capture.terms, Capture.mk.injEq] at terms
    obtain ⟨params, -, -, left, stopping, -, -, made, train, -⟩ := terms
    exact ⟨_, k, next_congr run, rfl, there, params, made, train, stopping, left,
      fun n other => s.hub.armed_caps_other p other, s.hub.armed_tm p⟩
  · exact next_congr (Hub.capArm_bad (Hub.badCap_of_range bad))
  · exact next_congr (Hub.capArm_bad bad)
  · exact ⟨_, next_congr ((Hub.capArm_up good up).trans (s.hub.checked_fail (Hub.capConflict_ne_nil conflict) _ _))⟩
  · have budget := s.hub.checked_fail (st := St.budget) over' [] ((s.hub.armed p).ok [])
    exact ⟨_, next_congr ((Hub.capArm_up good up).trans ((congrArg (fun l => s.hub.checked ((St.badArg, l) :: _) _) free).trans budget))⟩
  · obtain ⟨d, fault⟩ := Hub.capArm_down good down
    exact ⟨d, next_congr fault⟩

end

section
/-! PROOFS. Captures that stop, forced triggers, and reservations that are tried again (R194, R198, R387). -/

namespace Sys2Proof.Machine

/-! ## Captures by their number -/

theorem Hub.cap_of_getElem? {h : Hub} {n : Nat} {o : Option Capture} (there : h.caps[n]? = some o) : h.cap n = o := by
  rw [Hub.cap, List.getD_eq_getElem?_getD, there]
  rfl

theorem Hub.setCap_getElem?_same {h : Hub} {n : Nat} {c : Capture} (there : h.caps[n]? = some (some c)) (f : Capture → Capture) :
    (h.setCap n f).caps[n]? = some (some (f c)) := by
  rw [Hub.setCap_caps, List.getElem?_modify, there]
  simp

theorem Hub.setCap_of_getElem? {h : Hub} {n : Nat} {c : Capture} (there : h.caps[n]? = some (some c)) {f : Capture → Capture}
    (same : f c = c) : h.setCap n f = h := by
  have list : modAt h.caps n (Option.map f) = h.caps := by
    refine List.ext_getElem? fun m => ?_
    rw [modAt, List.getElem?_modify]
    obtain rfl | other := eq_or_ne n m
    · simp [there, same]
    · simp [other]
  rw [Hub.setCap, list]

/-! ## Disarming -/

theorem Hub.disarm_caps_same {h : Hub} {n : Nat} (there : n < h.caps.length) : (h.disarm n).caps[n]? = some none := by
  unfold Hub.disarm
  refine Hub.getElem?_none_of_capTerms (forAll_keeps Hub.capTerms _ (fun d g => g.retryWait_capTerms d) _ _) ?_
  show (h.caps.modify n fun _ => none)[n]? = some none
  rw [List.getElem?_modify, List.getElem?_eq_getElem there]
  simp

/-- A train without an open coach of a capture that stops disarms it. -/
theorem Hub.trainDone_disarms {h : Hub} {n : Nat} {c : Capture} {t : Train} (there : h.caps[n]? = some (some c)) (train : c.train = some t)
    (closed : t.open' = []) (stops : c.stopping = true) : (h.trainDone n).caps[n]? = some none := by
  unfold Hub.trainDone
  rw [Hub.cap_of_getElem? there]
  dsimp -zeta only
  rw [train]
  dsimp -zeta only
  rw [if_neg (by simp [closed])]
  extract_lets fin g g1
  have length : n < g1.caps.length := by
    have caps : g1.caps = g.caps := forAll_caps _ (fun d k => (Hub.sendWanted_caps ..).trans (k.setDie_caps ..)) _ _
    rw [caps, Hub.setCap_caps, List.length_modify]
    exact (List.getElem?_eq_some_iff.1 there).1
  rw [if_pos stops]
  refine ite_keeps (fun k : Hub => k.caps[n]?) ?_ (Hub.disarm_caps_same length)
  exact (congrArg (fun l => l[n]?) (Hub.notice_caps ..)).trans (Hub.disarm_caps_same length)

theorem Hub.trainDone_open {h : Hub} {n : Nat} {c : Capture} {t : Train} (there : h.caps[n]? = some (some c)) (train : c.train = some t)
    (still : t.open' ≠ []) : h.trainDone n = h := by
  unfold Hub.trainDone
  rw [Hub.cap_of_getElem? there]
  dsimp -zeta only
  rw [train]
  dsimp -zeta only
  rw [if_pos (by simpa using still)]

/-! ## Coaches of a die -/

/-- The coaches that a die's directory lists. -/
def Hub.coachesAt (h : Hub) (d : Nat) : List Coach := (h.die d).store.coaches

theorem Hub.coachesAt_of_shelves {a b : Hub} (same : a.shelves = b.shelves) (d : Nat) : a.coachesAt d = b.coachesAt d := by
  have entry := congrArg (fun l => (l[d]?).map Store.coaches) same
  simp only [Hub.shelves, List.getElem?_map, Option.map_map] at entry
  rw [Hub.coachesAt, Hub.coachesAt, Hub.die, Hub.die, List.getD_eq_getElem?_getD, List.getD_eq_getElem?_getD]
  cases left : a.dies[d]? <;> cases right : b.dies[d]? <;> rw [left, right] at entry <;> simp_all [Die.shelf]

/-- The coaches of a die's store changed by a function that leaves an empty directory empty. -/
theorem Hub.coachesAt_setDie (h : Hub) (d e : Nat) {f : Die → Die} {g : List Coach → List Coach}
    (changes : ∀ x, (f x).store.coaches = g x.store.coaches) (empty : g [] = []) :
    (h.setDie d f).coachesAt e = if d = e then g (h.coachesAt e) else h.coachesAt e := by
  simp only [Hub.coachesAt, Hub.die, Hub.setDie_dies, List.getD_eq_getElem?_getD, List.getElem?_modify]
  cases h.dies[e]? with
  | none => split <;> simp [Die.reset, Store.reset, empty]
  | some x => split <;> simp [changes]

theorem Hub.coachesAt_setCoach (h : Hub) (d seq e : Nat) (f : Coach → Coach) : (h.setCoach d seq f).coachesAt e =
    if d = e then (h.coachesAt e).map (fun c => if c.seq == seq then f c else c) else h.coachesAt e :=
  h.coachesAt_setDie d e (fun _ => rfl) rfl

theorem find?_seq_of_mem {l : List Coach} (once : (l.map Coach.seq).Nodup) {k : Coach} (mem : k ∈ l) :
    l.find? (fun c => c.seq == k.seq) = some k := by
  cases found : l.find? fun c => c.seq == k.seq with
  | none => exact absurd (List.find?_eq_none.1 found k mem) (by simp)
  | some q =>
    have same : q.seq = k.seq := by simpa using List.find?_some found
    rw [List.inj_on_of_nodup_map once (List.mem_of_find?_eq_some found) mem same]

/-- A change of the coach of one sequence number leaves the coaches of other numbers. -/
theorem mem_map_other {l : List Coach} {seq : Nat} {f : Coach → Coach} {q : Coach} (mem : q ∈ l) (other : q.seq ≠ seq) :
    q ∈ l.map fun c => if c.seq == seq then f c else c :=
  List.mem_map.2 ⟨q, mem, by simp [other]⟩

theorem map_seq_change (l : List Coach) (seq : Nat) {f : Coach → Coach} (keeps : ∀ c, (f c).seq = c.seq) :
    (l.map fun c => if c.seq == seq then f c else c).map Coach.seq = l.map Coach.seq := by
  rw [List.map_map]
  refine List.map_congr_left fun c _ => ?_
  dsimp only [Function.comp]
  split <;> simp only [keeps]

/-! ## A train cut short (R198) -/

/-- A channel of a capture fills a coach. -/
def Hub.Filling (n i : Nat) (h : Hub) : Prop := ∃ q ∈ h.coachesAt (chDie i), q.ch = i ∧ q.capture = n ∧ q.st = .filling

/-- A capture that stops fills the coaches of the channels of a list and of no others, and each coach has its own number. -/
structure Hub.Cutting (n : Nat) (rest : List Nat) (h : Hub) : Prop where
  stands : ∃ k t, h.caps[n]? = some (some k) ∧ k.stopping = true ∧ k.train = some t ∧ t.open' = rest
  fills : ∀ i ∈ rest, h.Filling n i
  once : ∀ d, ((h.coachesAt d).map Coach.seq).Nodup

theorem Hub.Cutting.of_same {n : Nat} {rest : List Nat} {h g : Hub} (cut : h.Cutting n rest) (terms : g.capTerms = h.capTerms)
    (shelves : g.shelves = h.shelves) : g.Cutting n rest := by
  obtain ⟨⟨k, t, there, stops, train, opened⟩, fills, once⟩ := cut
  obtain ⟨q, found, same⟩ := Hub.getElem?_of_capTerms terms there
  simp only [Capture.terms, Capture.mk.injEq] at same
  obtain ⟨-, -, -, -, stopping, -, -, -, trains, -⟩ := same
  refine ⟨⟨q, t, found, stopping.trans stops, trains.trans train, opened⟩, fun i mem => ?_, fun d => ?_⟩
  · rw [Hub.Filling, Hub.coachesAt_of_shelves shelves]
    exact fills i mem
  · rw [Hub.coachesAt_of_shelves shelves]
    exact once d

theorem Hub.fillingCoach_some {h : Hub} {n i : Nat} {k : Coach} (found : h.fillingCoach n i = some k) :
    k ∈ h.coachesAt (chDie i) ∧ k.ch = i ∧ k.capture = n := by
  have mem := List.mem_of_find?_eq_some found
  have holds := List.find?_some found
  simp only [Bool.and_eq_true, beq_iff_eq] at holds
  exact ⟨mem, holds.1.1, holds.1.2⟩

theorem Hub.fillingCoach_isSome {h : Hub} {n i : Nat} : (h.fillingCoach n i).isSome = true ↔ h.Filling n i := by
  simp [Hub.fillingCoach, Hub.Filling, Hub.coachesAt, and_assoc]

/-- A coach that ends at its last sample (R198). -/
def Coach.cutHere (q : Coach) : Coach := { q with cut := true, len := q.samples.length }

/-- A complete coach with its payload (Table 07-6). -/
def Coach.filled (pay : Bytes) (churn : Nat) (un : Bool) (q : Coach) : Coach :=
  { q with st := .ready, payload := some pay, churn := churn, notLocked := un }

/-- The hub as a coach has its payload and its train one open coach less. -/
def Hub.coachReady (h : Hub) (d : Nat) (c : Coach) : Hub :=
  let p := h.coachPayload c
  let un := !p.1.tm.lockedAt c.stamp
  (p.1.setCoach d c.seq (Coach.filled p.2.1 p.2.2 un)).setCap c.capture fun k =>
    { k with train := k.train.map fun t =>
      { t with open' := t.open'.filter (· != c.ch), tflags := t.tflags ||| (if c.cut then 4 else 0) ||| (if un then 2 else 0) } }

theorem Hub.coachReady_caps {h : Hub} {d : Nat} {c : Coach} {k : Capture} {t : Train} (there : h.caps[c.capture]? = some (some k))
    (train : k.train = some t) : ∃ q r, (h.coachReady d c).caps[c.capture]? = some (some q) ∧ q.stopping = k.stopping ∧
      q.train = some r ∧ r.open' = t.open'.filter (· != c.ch) := by
  unfold Hub.coachReady
  extract_lets p un
  have kept : (p.1.setCoach d c.seq (Coach.filled p.2.1 p.2.2 un)).caps = h.caps := (Hub.setCoach_caps ..).trans (h.coachPayload_caps c)
  exact ⟨_, _, Hub.setCap_getElem?_same ((congrArg (fun l => l[c.capture]?) kept).trans there) _, rfl,
    (congrArg (Option.map _) train :), rfl⟩

theorem Hub.coachReady_coachesAt (h : Hub) (d : Nat) (c : Coach) : ∃ pay churn un, ∀ e, (h.coachReady d c).coachesAt e =
    if d = e then (h.coachesAt e).map (fun q => if q.seq == c.seq then Coach.filled pay churn un q else q) else h.coachesAt e := by
  unfold Hub.coachReady
  extract_lets p un
  refine ⟨p.2.1, p.2.2, un, fun e => ?_⟩
  rw [← Hub.coachesAt_of_shelves (h.coachPayload_shelves c) e]
  exact p.1.coachesAt_setCoach d c.seq e _

theorem Hub.coachDone_eq {h : Hub} {d seq : Nat} {c : Coach} (found : (h.coachesAt d).find? (fun q => q.seq == seq) = some c) :
    h.coachDone d seq = (if ((h.coachReady d c).cap c.capture).any Capture.stopping then (h.coachReady d c).retryWait d
      else h.coachReady d c).trainDone c.capture := by
  have number : c.seq = seq := by simpa using List.find?_some found
  unfold Hub.coachDone
  rw [show (h.die d).store.coaches.find? (fun q => q.seq == seq) = some c from found, ← number]
  rfl

section Cut

variable {h : Hub} {n i : Nat} {rest : List Nat} (fresh : i ∉ rest)
include fresh

/-- Another list of coaches on the dies and one open coach less. -/
theorem Hub.Cutting.closes (cut : h.Cutting n (i :: rest)) {g : Hub} {k : Coach} {change : List Coach → List Coach}
    (mem : k ∈ h.coachesAt (chDie i)) (ofIt : k.ch = i)
    (coaches : ∀ d, g.coachesAt d = if chDie i = d then change (h.coachesAt d) else h.coachesAt d)
    (numbers : ∀ l, ((change l).map Coach.seq).Sublist (l.map Coach.seq))
    (others : ∀ l, ∀ q ∈ l, q.seq ≠ k.seq → q ∈ change l)
    (stands : ∃ k t, g.caps[n]? = some (some k) ∧ k.stopping = true ∧ k.train = some t ∧ t.open' = rest) : g.Cutting n rest := by
  refine ⟨stands, fun j named => ?_, fun d => ?_⟩
  · obtain ⟨q, there, ch, capture, filling⟩ := cut.fills j (List.mem_cons_of_mem _ named)
    refine ⟨q, ?_, ch, capture, filling⟩
    rw [coaches]
    split
    next same =>
      rw [same] at mem
      refine others _ q there fun number => fresh ?_
      rwa [← ofIt, ← List.inj_on_of_nodup_map (cut.once _) there mem number, ch]
    · exact there
  · rw [coaches]
    split
    · exact (numbers _).nodup (cut.once d)
    · exact cut.once d

/-- A coach with a sample is complete, and the train has one open coach less. -/
theorem Hub.Cutting.completes (cut : h.Cutting n (i :: rest)) {k : Coach} (mem : k ∈ h.coachesAt (chDie i)) (ofIt : k.ch = i)
    (capture : k.capture = n) : ∃ g : Hub, g.Cutting n rest ∧
      (h.setCoach (chDie i) k.seq Coach.cutHere).coachDone (chDie i) k.seq = g.trainDone n := by
  obtain ⟨c, t, there, stops, train, opened⟩ := cut.stands
  have closed : (t.open'.filter (· != i)) = rest := by
    rw [opened, List.filter_cons_of_neg (by simp)]
    exact List.filter_eq_self.2 fun j named => by simpa using fun same : j = i => fresh (same ▸ named)
  have found : ((h.setCoach (chDie i) k.seq Coach.cutHere).coachesAt (chDie i)).find? (fun q => q.seq == k.seq) = some k.cutHere := by
    refine find?_seq_of_mem (k := k.cutHere) ?_ ?_
    · rw [Hub.coachesAt_setCoach, if_pos rfl, map_seq_change (f := Coach.cutHere) _ _ fun _ => rfl]
      exact cut.once _
    · rw [Hub.coachesAt_setCoach, if_pos rfl]
      exact List.mem_map.2 ⟨k, mem, by simp⟩
  obtain ⟨q, r, standing, stopping, trains, remain⟩ := Hub.coachReady_caps (h := h.setCoach (chDie i) k.seq Coach.cutHere) (d := chDie i)
    (c := k.cutHere) (k := c) (t := t) ((congrArg (fun m => h.caps[m]?) capture).trans there) train
  obtain ⟨pay, churn, un, coaches⟩ := (h.setCoach (chDie i) k.seq Coach.cutHere).coachReady_coachesAt (chDie i) k.cutHere
  generalize hg : (h.setCoach (chDie i) k.seq Coach.cutHere).coachReady (chDie i) k.cutHere = g at standing coaches
  have ready : g.Cutting n rest := by
    refine cut.closes fresh mem ofIt (change := fun l => (l.map fun q => if q.seq == k.seq then q.cutHere else q).map fun q =>
      if q.seq == k.seq then q.filled pay churn un else q) (fun e => ?_) (fun l => ?_) (fun l q there other => ?_) ?_
    · rw [coaches, Hub.coachesAt_setCoach]
      split <;> rfl
    · rw [map_seq_change (f := Coach.filled pay churn un) _ _ fun _ => rfl, map_seq_change (f := Coach.cutHere) _ _ fun _ => rfl]
    · exact mem_map_other (mem_map_other there other) other
    · refine ⟨q, r, (congrArg (fun m => g.caps[m]?) capture).symm.trans standing, stopping.trans stops, trains, remain.trans ?_⟩
      rw [show k.cutHere.ch = i from ofIt]
      exact closed
  refine ⟨_, ready.of_same (Hub.retryWait_capTerms _ (chDie i)) (Hub.retryWait_shelves _ (chDie i)), ?_⟩
  rw [Hub.coachDone_eq found, hg, Hub.cap_of_getElem? standing, show k.cutHere.capture = n from capture,
    if_pos (by simp [stopping, stops])]

/-- The filling coach of a channel is cut: one with a sample is complete, one without goes. -/
theorem Hub.cutCoach_closes (cut : h.Cutting n (i :: rest)) :
    ∃ g : Hub, g.Cutting n rest ∧ (h.cutCoach n i = g.trainDone n ∨ h.cutCoach n i = (g.trainDone n).retryWait (chDie i)) := by
  obtain ⟨k, found⟩ := Option.isSome_iff_exists.1 (Hub.fillingCoach_isSome.2 (cut.fills i List.mem_cons_self))
  obtain ⟨mem, ofIt, capture⟩ := Hub.fillingCoach_some found
  obtain ⟨c, t, there, stops, train, opened⟩ := cut.stands
  unfold Hub.cutCoach
  rw [found]
  dsimp -zeta only
  extract_lets d g g1
  split_ifs
  · refine ⟨g1, cut.closes fresh mem ofIt (change := List.filter fun q => q.seq != k.seq) (fun e => ?_) (fun l => ?_)
      (fun l q there other => ?_) ?_, .inr rfl⟩
    · exact h.coachesAt_setDie d e (fun _ => rfl) rfl
    · exact List.filter_sublist.map _
    · simpa [there] using other
    · refine ⟨_, { t with nCoach := t.nCoach - 1, open' := t.open'.filter (· != i), tflags := t.tflags ||| 4 },
        Hub.setCap_getElem?_same there _, stops, congrArg (Option.map _) train, ?_⟩
      show t.open'.filter (· != i) = rest
      rw [opened, List.filter_cons_of_neg (by simp)]
      exact List.filter_eq_self.2 fun j named => by simpa using fun same : j = i => fresh (same ▸ named)
  · obtain ⟨g, closes, answer⟩ := cut.completes fresh mem ofIt capture
    exact ⟨g, closes, .inl answer⟩

end Cut

/-- The last open coach of a capture that stops disarms it (R198). -/
theorem Hub.forAll_cutCoach_disarms {h : Hub} {n : Nat} {l : List Nat} (some : l ≠ []) (once : l.Nodup) (cut : h.Cutting n l) :
    (forAll l (fun i g => g.cutCoach n i) h).caps[n]? = Option.some none := by
  induction l generalizing h with
  | nil => exact absurd rfl some
  | cons i rest ih =>
    obtain ⟨fresh, onceRest⟩ := List.nodup_cons.1 once
    obtain ⟨g, closes, answer⟩ := Hub.cutCoach_closes fresh cut
    obtain ⟨k, t, there, stops, train, opened⟩ := closes.stands
    change (forAll rest _ (h.cutCoach n i)).caps[n]? = _
    by_cases last : rest = []
    · subst last
      have gone := Hub.trainDone_disarms there train opened stops
      show (h.cutCoach n i).caps[n]? = _
      obtain answer | answer := answer <;> rw [answer]
      · exact gone
      · exact Hub.getElem?_none_of_capTerms (Hub.retryWait_capTerms _ _) gone
    · rw [Hub.trainDone_open there train (opened ▸ last)] at answer
      refine ih last onceRest ?_
      obtain answer | answer := answer <;> rw [answer]
      · exact closes
      · exact closes.of_same (g.retryWait_capTerms _) (g.retryWait_shelves _)

/-! ## CAP_DISARM and CAP_TRIG (R198, R387) -/

/-- A capture as CAP_DISARM finds it: it stops, and its reservations are given up. -/
def Capture.stopped (c : Capture) : Capture :=
  { c with stopping := true, dies := c.dies.map fun x => { x with reserved := 0, slots := 0, wait := false } }

theorem Hub.capDisarm_eq {h : Hub} {n : Nat} {c : Capture} (there : h.caps[n]? = some (some c)) (up : ∀ d ∈ c.dieList, h.dieDown d = false)
    (abort : Nat) : h.capDisarm n abort = match c.train with
      | none => ((h.setCap n Capture.stopped).disarm n).ok []
      | some t => if abort = 0 then (forAll c.dieList (fun d g => g.retryWait d) (h.setCap n Capture.stopped)).ok []
        else (forAll t.open' (fun i g => g.cutCoach n i) (h.setCap n Capture.stopped)).ok [] := by
  rw [Hub.capDisarm, Hub.cap_of_getElem? there]
  exact h.onDies_up up _

theorem Hub.capDisarm_free {h : Hub} {n : Nat} (free : h.cap n = none) (abort : Nat) : h.capDisarm n abort = h.refuse St.notFound := by
  rw [Hub.capDisarm, free]

theorem Hub.capTrig_free {h : Hub} {n : Nat} (free : h.cap n = none) (id : Word) (t : Nat) : h.capTrig n id t = h.refuse St.notFound := by
  rw [Hub.capTrig, free]

theorem Hub.capTrig_closed {h : Hub} {n : Nat} {c : Capture} (there : h.cap n = some c) (closed : c.params.opts % 2 = 0) (id : Word)
    (t : Nat) : h.capTrig n id t = h.refuse St.badArg := by
  rw [Hub.capTrig, there]
  exact if_pos closed

theorem Hub.capTrig_open {h : Hub} {n : Nat} {c : Capture} (there : h.cap n = some c) (opened : c.params.opts % 2 = 1) (id : Word) (t : Nat) :
    h.capTrig n id t =
      (h.fire h.boot.lead (0x3000 + id.toNat % 4096) t 0 0 0 0x00400000 fun p => p.capture == n).ok [] := by
  rw [Hub.capTrig, there]
  exact if_neg (by omega)

theorem Hub.capTrig_leaves (h : Hub) {n : Nat} {c : Capture} (there : h.cap n = some c) (opened : c.params.opts % 2 = 1) (id : Word)
    (t : Nat) : (h.capTrig n id t).trg.nextId = (h.trg.nextId + 1) % 65536 ∧ (h.capTrig n id t).mgmt.reply = ⟨St.ok, 0, 255, []⟩ := by
  rw [Hub.capTrig_open there opened, Hub.ok_trg, Hub.fire_nextId]
  exact ⟨rfl, rfl⟩

/-! ## RESERVATION_RETRY (R194) -/

/-- No capture waits on a die for room. -/
def Hub.NoneWaits (h : Hub) : Prop := ∀ n c, h.cap n = some c → ∀ x ∈ c.dies, x.wait = false

theorem forAll_fixed {α : Type} {f : α → Hub → Hub} {h : Hub} (l : List α) (same : ∀ a ∈ l, f a h = h) : forAll l f h = h :=
  forAll_inv (· = h) f l (fun a mem _ at' => at' ▸ same a mem) h rfl

/-- A run over a list of which one element alone acts, and leaves what none acts on. -/
theorem forAll_once {α : Type} {f : α → Hub → Hub} {h g : Hub} {a : α} {l : List α} (mem : a ∈ l) (before : ∀ b ∈ l, b ≠ a → f b h = h)
    (acts : f a h = g) (after : ∀ b ∈ l, f b g = g) : forAll l f h = g := by
  induction l with
  | nil => cases mem
  | cons b l ih =>
    by_cases first : b = a
    · subst first
      show forAll l f (f b h) = g
      rw [acts]
      exact forAll_fixed l fun b mem => after b (List.mem_cons_of_mem _ mem)
    · show forAll l f (f b h) = g
      rw [before b List.mem_cons_self first]
      exact ih ((List.mem_cons.1 mem).resolve_left (Ne.symm first)) (fun b mem => before b (List.mem_cons_of_mem _ mem))
        fun b mem => after b (List.mem_cons_of_mem _ mem)

/-- What RESERVATION_RETRY does of one capture and one die. -/
def Hub.retryOne (d n : Nat) (h : Hub) : Hub :=
  match h.cap n with
  | some c => if c.dies.any (fun x => x.die == d && x.wait) then Hub.reserveDie n false d h else h
  | none => h

theorem Hub.retryOne_eq {h : Hub} {n : Nat} {c : Capture} (there : h.cap n = some c) (d : Nat) : Hub.retryOne d n h =
    if c.dies.any (fun x => x.die == d && x.wait) then Hub.reserveDie n false d h else h := by
  rw [Hub.retryOne, there]

theorem Hub.retryOne_same {h : Hub} {d n : Nat} (rests : ∀ c, h.cap n = some c → ∀ x ∈ c.dies, x.die = d → x.wait = false) :
    Hub.retryOne d n h = h := by
  cases there : h.cap n with
  | none => rw [Hub.retryOne, there]
  | some c =>
    rw [Hub.retryOne_eq there, if_neg]
    simpa [List.any_eq_true] using rests c there

theorem Hub.retryWait_eq (h : Hub) (d : Nat) : h.retryWait d = forAll (List.range 32) (Hub.retryOne d) h := rfl

theorem Hub.NoneWaits.retryWait {h : Hub} (rests : h.NoneWaits) (d : Nat) : h.retryWait d = h :=
  forAll_fixed _ fun n _ => Hub.retryOne_same fun c there x mem _ => rests n c there x mem

theorem Hub.NoneWaits.retryAll {h : Hub} (rests : h.NoneWaits) : h.retryAll = h := forAll_fixed _ fun d _ => rests.retryWait d

/-- A capture with granules and slots reserved on a die, where it no longer waits. -/
def Capture.reservesOn (d need slots : Nat) (c : Capture) : Capture :=
  { c with dies := c.dies.map fun y => if y.die == d then { y with reserved := need, slots := slots, wait := false } else y }

theorem Capture.reservesOn_dies {c : Capture} {x : CapDie} (one : c.dies = [x]) (need slots : Nat) :
    (c.reservesOn x.die need slots).dies = [{ x with reserved := need, slots := slots, wait := false }] := by
  rw [Capture.reservesOn, one, List.map_cons, List.map_nil, if_pos (beq_self_eq_true _)]

section Retry

variable {h : Hub} {n : Nat} {c : Capture} {x : CapDie} (there : h.caps[n]? = some (some c)) (one : c.dies = [x])
include there one

/-- The granules that a capture's next coaches on a die take. -/
def Hub.coachNeed (h : Hub) (c : Capture) (x : CapDie) : Nat :=
  ((CapParams.on c.params x.die).map fun ch => CapParams.coachKib c.params (h.ch ch).desc x.step).sum

/-- The directory slots that other reservations of a die will take. -/
def Hub.slotsTaken (h : Hub) (x : CapDie) : Nat :=
  (h.caps.map fun o => match o with
    | some k => ((k.dies.filter fun y => y.die == x.die).map CapDie.slots).sum
    | none => 0).sum - x.slots

theorem Hub.reserveDie_reserves (room : h.coachUsed x.die + h.coachNeed c x ≤ (h.die x.die).store.coachKib)
    (slots : ∀ i < h.slotsTaken x + (CapParams.on c.params x.die).length, ∀ y ∈ (h.die x.die).store.coaches,
      y.st = .free ∨ y.seq % 65536 ≠ ((h.die x.die).store.nextCoach + i) % 65536) :
    Hub.reserveDie n false x.die h =
      h.setCap n (Capture.reservesOn x.die (h.coachNeed c x) (CapParams.on c.params x.die).length) := by
  unfold Hub.reserveDie
  rw [Hub.cap_of_getElem? there]
  dsimp -zeta only
  rw [one, show [x].find? (fun y => y.die == x.die) = some x by simp]
  dsimp -zeta only
  extract_lets step chs restart g set g1 g2 need st taken free g3
  have atStep : step = x.step := rfl
  have same1 : g1 = h := by
    have atG : g = h := if_pos atStep
    have keep : c.chans.map restart = c.chans := List.map_id'' (fun y => by simp [restart, atStep]) _
    have first : g.setCap n (fun c => { c with chans := c.chans.map restart }) = g :=
      Hub.setCap_of_getElem? (atG ▸ there) (by rw [keep])
    show (g.setCap n _).setCap n _ = h
    rw [first, atG]
    refine Hub.setCap_of_getElem? there ?_
    rw [one, List.map_cons, List.map_nil, if_pos (beq_self_eq_true _), atStep, ← one]
  have same2 : g2 = h := (if_pos atStep).trans same1
  clear_value g2
  subst same2
  refine (if_pos ⟨room, ?_⟩).trans rfl
  refine List.all_eq_true.2 fun i mem => List.all_eq_true.2 fun y named => ?_
  simpa using slots i (List.mem_range.1 mem) y named

theorem Hub.retryAll_reserves (below : n < 32) (waits : x.wait = true) (die : x.die < h.nDies)
    (others : ∀ m k, m ≠ n → h.cap m = some k → ∀ y ∈ k.dies, y.wait = false)
    {g : Hub} (acts : Hub.reserveDie n false x.die h = g) (rests : g.NoneWaits) : h.retryAll = g := by
  have oneDie : h.retryWait x.die = g := by
    refine forAll_once (List.mem_range.2 below) (fun m _ other => ?_) ?_ fun m _ => ?_
    · exact Hub.retryOne_same fun k found y mem _ => others m k other found y mem
    · show Hub.retryOne x.die n h = g
      rw [Hub.retryOne_eq (Hub.cap_of_getElem? there), if_pos (by simp [one, waits]), acts]
    · exact Hub.retryOne_same fun k found y mem _ => rests m k found y mem
  refine forAll_once (List.mem_range.2 die) (fun d _ other => ?_) oneDie fun d _ => rests.retryWait d
  refine forAll_fixed _ fun m _ => Hub.retryOne_same fun k found y mem ofDie => ?_
  obtain rfl | another := eq_or_ne m n
  · rw [Hub.cap_of_getElem? there, Option.some.injEq] at found
    subst found
    rw [one, List.mem_singleton] at mem
    exact absurd (mem ▸ ofDie).symm other
  · exact others m k another found y mem

end Retry

end Sys2Proof.Machine

open Sys2Proof Sys2Proof.Machine

/-- Settles O23: a filling train is cut channel by channel until its capture disarms, and one waiting reservation is tried by the one
step of the retry that acts. -/
theorem captureStops : Obligations.CaptureStops := by
  unfold Obligations.CaptureStops
  refine ⟨fun s n ab => ⟨fun free => ⟨next_congr (Hub.capDisarm_free free ab), next_congr (Hub.capTrig_free free _ _)⟩,
    fun c there up noTrain => ?_, fun c tr there up train => ?_, fun c tr there up train abort some once fills numbers => ?_,
    fun c there closed => next_congr (Hub.capTrig_closed there closed _ _), fun c there opened => ?_⟩,
    fun s => ⟨fun rests => next_same (Hub.NoneWaits.retryAll rests), fun n c x below there one waits die others room slots => ?_⟩⟩
  · have run := (Hub.capDisarm_eq there up ab).trans (by rw [noTrain])
    have stopped := Hub.setCap_getElem?_same there Capture.stopped
    exact ⟨_, next_congr run, Hub.disarm_caps_same (List.getElem?_eq_some_iff.1 stopped).1, rfl, Hub.disarm_tm _ _⟩
  · have run := Hub.capDisarm_eq there up 0
    rw [train] at run
    exact next_congr run
  · have run := Hub.capDisarm_eq there up ab
    rw [train] at run
    have cut : (s.hub.setCap n Capture.stopped).Cutting n tr.open' :=
      ⟨⟨c.stopped, tr, Hub.setCap_getElem?_same there _, rfl, train, rfl⟩, fun i mem => Hub.fillingCoach_isSome.1 (fills i mem), numbers⟩
    exact ⟨_, next_congr (run.trans (if_neg abort)), Hub.forAll_cutCoach_disarms some once cut, rfl⟩
  · exact ⟨_, rfl, s.hub.capTrig_leaves there opened 0 s.hub.tm.now⟩
  · have acts := Hub.reserveDie_reserves there one room slots
    have result := Hub.setCap_getElem?_same there (Capture.reservesOn x.die (s.hub.coachNeed c x) (CapParams.on c.params x.die).length)
    have dies := Capture.reservesOn_dies one (s.hub.coachNeed c x) (CapParams.on c.params x.die).length
    have rests : (s.hub.setCap n (Capture.reservesOn x.die (s.hub.coachNeed c x) (CapParams.on c.params x.die).length)).NoneWaits := ?_
    · exact ⟨_, _, next_congr (Hub.retryAll_reserves there one below waits die others acts rests), result, dies, rfl⟩
    intro m k found y mem
    obtain rfl | other := eq_or_ne m n
    · rw [Hub.cap_of_getElem? result, Option.some.injEq] at found
      rw [← found, dies, List.mem_singleton] at mem
      rw [mem]
    · have kept := s.hub.setCap_caps_other other (Capture.reservesOn x.die (s.hub.coachNeed c x) (CapParams.on c.params x.die).length)
      refine others m k other ?_ y mem
      rw [Hub.cap, List.getD_eq_getElem?_getD] at found ⊢
      exact (congrArg (fun o => o.getD Option.none) kept).symm.trans found

end

section
/-! PROOFS. Reads of captures and the settings of the capture store (R188 to R192, R205, R388). -/

namespace Sys2Proof.Machine

/-! ## Masks of dies that the part lacks or that cannot serve (R359, R380) -/

theorem Hub.overMask_absent {h : Hub} {dies : List Nat} (absent : ∃ d ∈ h.named dies, h.nDies ≤ d) (down : Nat → Bool)
    (check : Nat → Option Nat) (k : List Nat → Hub) : h.overMask down dies check k = h.refuse St.badArg := by
  obtain ⟨refused, -⟩ | ⟨present, -⟩ := h.overMask_cases down dies check k
  · exact refused
  · obtain ⟨d, named, beyond⟩ := absent
    exact absurd (present d named) (Nat.not_lt.2 beyond)

theorem Hub.overMask_down {h : Hub} {dies : List Nat} (present : ¬∃ d ∈ h.named dies, h.nDies ≤ d) {down : Nat → Bool}
    (fails : ∃ d ∈ h.named dies, down d = true) (check : Nat → Option Nat) (k : List Nat → Hub) :
    ∃ d, h.overMask down dies check k = h.refuseDie St.fault d := by
  obtain ⟨-, absent⟩ | ⟨-, ⟨d, -, refused⟩ | ⟨noneDown, -⟩⟩ := h.overMask_cases down dies check k
  · exact absurd absent present
  · exact ⟨d, refused⟩
  · obtain ⟨d, named, isDown⟩ := fails
    exact absurd isDown (List.filter_eq_nil_iff.1 (List.min?_eq_none_iff.1 noneDown) d named)

/-- A read of dies one of which is out of service. -/
theorem Hub.readMask_down {h : Hub} {dies : List Nat} (present : ¬∃ d ∈ h.named dies, h.nDies ≤ d)
    (fails : ∃ d ∈ h.named dies, (h.die d).inService = false) (k : List Nat → Hub) :
    ∃ d, h.readMask dies k = h.refuseDie St.fault d :=
  Hub.overMask_down present (by simpa using fails) _ k

/-! ## Reads of captures -/

theorem Hub.capStatus_beyond (h : Hub) {n : Nat} (beyond : 31 < n) : h.capStatus n = h.refuse St.badArg := if_pos beyond

theorem Hub.capStatus_free {h : Hub} {n : Nat} (within : n ≤ 31) (free : h.cap n = none) : h.capStatus n = h.ok (pad 12) := by
  rw [Hub.capStatus, if_neg (Nat.not_lt.2 within), free]

theorem Hub.capStatus_armed {h : Hub} {n : Nat} {c : Capture} (within : n ≤ 31) (there : h.cap n = some c) : h.capStatus n =
    h.ok (be 1 1 ++ be 1 (ofBits ((List.range 8).filter fun d => ((c.dies.find? fun x => x.die == d).getD ⟨d, 0, false, 0, 0⟩).wait)) ++
      be 2 c.made ++ (List.range 8).flatMap fun d => be 1 ((c.dies.find? fun x => x.die == d).getD ⟨d, 0, false, 0, 0⟩).step) := by
  rw [Hub.capStatus, if_neg (Nat.not_lt.2 within), there]

/-- CAP_LIST over the dies it names. -/
def Hub.capListRun (h : Hub) (dies : List Nat) (q : CapQuery) : Hub :=
  h.overMask (fun d => !(h.die d).inService) dies (fun _ => if h.badQuery q then some St.badArg else none) fun ds =>
    h.ok ((((ds.flatMap fun d => (h.coachesOf d).map fun c => (d, c)).filter fun p => CapQuery.takes q p.1 p.2).take 170).flatMap
      fun p => p.2.entry p.1)

theorem Hub.capList_eq (h : Hub) (dies : List Nat) (q : CapQuery) : h.capList dies q =
    if q.ch != 0xFFFF && decide (q.ch < h.nChans) then h.onDies [chDie q.ch] (h.capListRun dies q) else h.capListRun dies q := rfl

/-- CAP_LIST of any channel, or of one whose die can serve. -/
theorem Hub.capList_runs {h : Hub} {q : CapQuery} (up : q.ch = 0xFFFF ∨ (q.ch < h.nChans → h.dieDown (chDie q.ch) = false))
    (dies : List Nat) : h.capList dies q = h.capListRun dies q := by
  rw [Hub.capList_eq]
  split
  next one =>
    simp only [Bool.and_eq_true, bne_iff_ne, decide_eq_true_eq] at one
    exact h.onDies_one_up (up.resolve_left one.1 one.2) _
  · rfl

theorem Hub.nChans_le (h : Hub) : h.nChans ≤ 1024 := by
  unfold Hub.nChans Hub.nDies
  cases h.ident.variant <;> decide

theorem Hub.capList_down {h : Hub} {q : CapQuery} (present : q.ch < h.nChans) (down : h.dieDown (chDie q.ch) = true) (dies : List Nat) :
    h.capList dies q = h.refuseDie St.fault (chDie q.ch) := by
  have few := h.nChans_le
  rw [Hub.capList_eq, if_pos (by simp [present]; omega)]
  exact h.onDies_one_down down _

theorem NamedUp.there {h : Hub} {dies : List Nat} (up : NamedUp h dies) {d : Nat} (named : d ∈ h.named dies) :
    h.dies[d]? = some (h.die d) := by
  obtain ⟨⟨-, -, length, -⟩, present⟩ := up
  rw [Hub.die, List.getD_eq_getElem?_getD, List.getElem?_eq_getElem (length ▸ (present d named).1)]
  rfl

/-! ## CAP_PART_SET (R188, R189) -/

theorem Hub.flowTouch_shelves (h : Hub) (d : Nat) : (h.flowTouch d).shelves = h.shelves := by
  rw [Hub.flowTouch, Hub.watermarks_shelves, Hub.spoolTouch_shelves]

/-- A store whose partition is set. -/
def Die.partitioned (w : Word) (x : Die) : Die := { x with store := { x.store with part := w } }

/-- A hub with the partition of some dies set. -/
def Hub.partitioned (h : Hub) (ds : List Nat) (w : Word) : Hub :=
  forAll ds (fun d g => g.flowTouch d) { h with dies := modAll h.dies ds fun _ => Die.partitioned w }

/-- CAP_PART_SET from what its dies answer: BUSY carries 100 ms. -/
theorem Hub.capPartSet_eq (h : Hub) (dies : List Nat) (w : Word) {g : Hub}
    (answer : h.onMask dies (h.partCheck w) (fun ds => (h.partitioned ds w).ok []) = g) :
    h.capPartSet dies w = if g.mgmt.reply.status = St.busy then g.withReply { g.mgmt.reply with retry := 100 } else g := by
  rw [← answer]
  rfl

theorem Hub.capPartSet_runs {h : Hub} {dies : List Nat} (up : NamedUp h dies) {w : Word} (fits : ∀ d ∈ h.named dies, h.partCheck w d = none) :
    h.capPartSet dies w = (h.partitioned (h.named dies) w).ok [] :=
  (h.capPartSet_eq dies w (Hub.onMask_runs up fits _)).trans (if_neg (by decide : ¬St.ok = St.busy))

theorem Hub.capPartSet_refused {h : Hub} {dies : List Nat} {w : Word} {st d : Nat}
    (answer : h.onMask dies (h.partCheck w) (fun ds => (h.partitioned ds w).ok []) = h.refuseDie st d) :
    h.capPartSet dies w = h.withReply ⟨st, if st = St.busy then 100 else 0, d, []⟩ := by
  refine (h.capPartSet_eq dies w answer).trans ?_
  show (if st = St.busy then _ else _) = _
  split <;> rfl

theorem Hub.partitioned_shelves (h : Hub) (ds : List Nat) (w : Word) :
    (h.partitioned ds w).shelves = (modAll h.dies ds fun _ => Die.partitioned w).map Die.shelf :=
  forAll_shelves _ (fun d g => g.flowTouch_shelves d) _ _

/-- What stands of a die after its store's partition, or another's, is set. -/
theorem Hub.partitioned_die (h : Hub) (ds : List Nat) (w : Word) {d : Nat} {x : Die} (there : h.dies[d]? = some x) :
    ∃ y, (h.partitioned ds w).dies[d]? = some y ∧ y.shelf = (if d ∈ ds then x.partitioned w else x).shelf := by
  have entry := congrArg (fun l => l[d]?) (h.partitioned_shelves ds w)
  simp only [Hub.shelves, List.getElem?_map, modAll_getElem?, there, Option.map_some] at entry
  exact Option.map_eq_some_iff.1 entry

/-! ## CAP_WM_SET (R190) and CAP_RED_SET (R205) -/

/-- Watermarks out of order or out of range. -/
def wmBad (w : Word) : Bool :=
  let bad (hi lo : Nat) : Bool := decide (lo < 1) || decide (hi ≤ lo) || decide (100 < hi)
  bad (fld w 31 24) (fld w 23 16) || bad (fld w 15 8) (fld w 7 0)

theorem Hub.capWmSet_eq (h : Hub) (dies : List Nat) (w : Word) : h.capWmSet dies w =
    h.onMask dies (fun _ => if wmBad w then some St.badArg else none) fun ds =>
      ({ h with dies := modAll h.dies ds fun _ x => { x with store := { x.store with wm := w } } }).ok [] := rfl

/-- A D command whose word all dies refuse alike. -/
theorem Hub.onMask_all_refuse {h : Hub} {dies : List Nat} (up : NamedUp h dies) (st : Nat) (k : List Nat → Hub) :
    ∃ d ∈ h.named dies, h.onMask dies (fun _ => some st) k = h.refuseDie st d := by
  obtain ⟨d, mem⟩ := List.exists_mem_of_ne_nil _ (h.named_ne_nil dies)
  obtain ⟨e, named, st, refuses, answer⟩ := Hub.onMask_refuses up (check := fun _ => some st) ⟨d, mem, Option.some_ne_none _⟩ k
  obtain rfl := Option.some.inj refuses
  exact ⟨e, named, answer⟩

theorem Hub.capRedSet_bad {h : Hub} {chs : List Nat} (served : Served h chs) {w : Word} (bad : ∃ c ∈ chs, (h.ch c).latest.badRed w = true)
    (notBefore : Nat) : ∃ d, h.capRedSet chs w notBefore = h.refuseDie St.badArg d := by
  unfold Hub.capRedSet
  rw [h.overChs_served served]
  exact ⟨_, h.checked_fail (filter_map_ne_nil chDie bad) _ _⟩

theorem Hub.capRedSet_over {h : Hub} {chs : List Nat} (served : Served h chs) {w : Word} (good : ∀ c ∈ chs, (h.ch c).latest.badRed w = false)
    (above : ∃ c ∈ chs, loadAbove ((h.ch c).latest.load (h.ch c).skimEn w (h.capSrc c)) 900 = true) (notBefore : Nat) :
    ∃ d, h.capRedSet chs w notBefore = h.refuseDie St.budget d := by
  unfold Hub.capRedSet
  rw [h.overChs_served served, filter_map_eq_nil _ good, Hub.checked_pass]
  exact ⟨_, h.checked_fail (filter_map_ne_nil chDie above) _ _⟩

end Sys2Proof.Machine

open Sys2Proof Sys2Proof.Machine

/-- Settles O24: the reads are replies of the state's own fields, and a setting is taken by all the dies named or by none. -/
theorem captureReadsAndStore : Obligations.CaptureReadsAndStore := by
  unfold Obligations.CaptureReadsAndStore
  refine ⟨fun s => ?reads, fun s dies w up => ?settings, fun s chs w served => ?red, fun s dies w q => ?masks⟩
  case reads =>
    refine ⟨fun n within free => next_congr (Hub.capStatus_free within free), fun n beyond => next_congr (s.hub.capStatus_beyond beyond),
      fun n c within there => next_congr (Hub.capStatus_armed within there), fun dies named => next_congr (Hub.readMask_runs named _),
      fun dies named => next_congr (Hub.readMask_runs named _), fun dies q named good up => ?_, fun dies q named bad up => ?_,
      fun dies q present down => next_congr (Hub.capList_down present down dies), fun c x served there => ?_,
      fun c beyond => next_congr (if_pos beyond)⟩
    · have runs := Hub.overMask_runs (fun d mem => ⟨(named.2 d mem).1, by simp [(named.2 d mem).2]⟩) (check := fun _ =>
        if s.hub.badQuery q then some St.badArg else none) (down := fun d => !(s.hub.die d).inService) (fun _ _ => if_neg (by simp [good]))
      exact next_congr ((Hub.capList_runs (up.imp id fun ok _ => ok) dies).trans (runs _))
    · obtain ⟨d, mem⟩ := List.exists_mem_of_ne_nil _ (s.hub.named_ne_nil dies)
      obtain ⟨e, there, st, refuses, answer⟩ := Hub.overMask_refuses (fun d mem => ⟨(named.2 d mem).1, by simp [(named.2 d mem).2]⟩)
        (check := fun _ => if s.hub.badQuery q then some St.badArg else none) (down := fun d => !(s.hub.die d).inService)
        ⟨d, mem, by simp [bad]⟩ _
      rw [if_pos bad] at refuses
      obtain rfl := Option.some.inj refuses
      exact ⟨e, there, next_congr ((Hub.capList_runs (.inr up) dies).trans answer)⟩
    · refine next_congr ((if_neg (Nat.not_le.2 served.present)).trans ((s.hub.onDies_one_up served.up _).trans ?_))
      rw [Hub.ch_of_getElem? there]
  case settings =>
    refine ⟨fun fits => ?_, fun refuses => ?_, fun lo2 hi2 top2 lo hi top => ?_, fun bad => ?_⟩
    · refine ⟨_, next_congr (Hub.capPartSet_runs up fits), rfl, ?_, ?_, fun d named => ?_, fun d x y there after => ?_⟩
      · exact forAll_tm _ (fun d g => g.flowTouch_tm d) _ _
      · exact forAll_caps _ (fun d g => g.flowTouch_caps d) _ _
      · obtain ⟨y, found, same⟩ := s.hub.partitioned_die (s.hub.named dies) w (NamedUp.there up named)
        rw [if_pos named] at same
        have part := congrArg Store.part same
        exact ⟨y, found, part⟩
      · obtain ⟨z, found, same⟩ := s.hub.partitioned_die (s.hub.named dies) w there
        obtain rfl := Option.some.inj (found.symm.trans after)
        have wm := congrArg Store.wm same
        have coaches := congrArg Store.coaches same
        refine ⟨wm.trans ?_, coaches.trans ?_, fun other => ?_⟩
        · split <;> rfl
        · split <;> rfl
        · rw [if_neg other] at same
          have part := congrArg Store.part same
          exact part
    · obtain ⟨d, named, st, why, answer⟩ := Hub.onMask_refuses up refuses _
      exact ⟨d, named, st, why, next_congr (Hub.capPartSet_refused answer)⟩
    · refine next_congr ((s.hub.capWmSet_eq dies w).trans (Hub.onMask_runs up (fun _ _ => if_neg ?_) _))
      simp [wmBad]
      omega
    · have refused : wmBad w = true := by
        simp [wmBad]
        omega
      obtain ⟨d, named, answer⟩ := Hub.onMask_all_refuse up St.badArg fun ds =>
        ({ s.hub with dies := modAll s.hub.dies ds fun _ x => { x with store := { x.store with wm := w } } } : Hub).ok []
      refine ⟨d, named, next_congr ((s.hub.capWmSet_eq dies w).trans ?_)⟩
      rw [refused]
      exact answer
  case red =>
    refine ⟨fun good fits => ?_, fun bad => ?_, fun good above => ?_⟩
    · exact next_congr (Hub.capRedSet_kept served good (fun c mem => eq_false_of_ne_true (fits c mem)) _)
    · obtain ⟨d, answer⟩ := Hub.capRedSet_bad served bad (s.hub.boundsFrom none)
      exact ⟨d, next_congr answer⟩
    · obtain ⟨d, answer⟩ := Hub.capRedSet_over served good above (s.hub.boundsFrom none)
      exact ⟨d, next_congr answer⟩
  case masks =>
    have partRefused {st d : Nat} (other : st ≠ St.busy)
        (answer : s.hub.onMask dies (s.hub.partCheck w) (fun ds => (s.hub.partitioned ds w).ok []) = s.hub.refuseDie st d) :
        s.hub.capPartSet dies w = s.hub.refuseDie st d := by
      rw [Hub.capPartSet_refused answer, if_neg other]
      rfl
    refine ⟨fun many => ?_, fun present down => ⟨?_, ?_⟩, fun present out => ⟨?_, ?_⟩, fun all => ⟨fun many => ?_, fun present out => ?_⟩⟩
    · simp only [List.forall_mem_cons]
      have reads (k : List Nat → Hub) : s.hub.readMask dies k = s.hub.refuse St.badArg := Hub.overMask_absent many _ _ k
      exact ⟨next_congr (partRefused (by decide) (Hub.overMask_absent many _ _ _)), next_congr (reads _),
        next_congr ((s.hub.capWmSet_eq dies w).trans (Hub.overMask_absent many _ _ _)), next_congr (reads _), fun _ no => nomatch no⟩
    · obtain ⟨d, answer⟩ := Hub.overMask_down present down (s.hub.partCheck w) fun ds => (s.hub.partitioned ds w).ok []
      exact ⟨d, next_congr (partRefused (by decide) answer)⟩
    · obtain ⟨d, answer⟩ := Hub.overMask_down present down (fun _ => if wmBad w then some St.badArg else none) fun ds =>
        ({ s.hub with dies := modAll s.hub.dies ds fun _ x => { x with store := { x.store with wm := w } } } : Hub).ok []
      exact ⟨d, next_congr answer⟩
    · obtain ⟨d, answer⟩ := Hub.readMask_down present out _
      exact ⟨d, next_congr answer⟩
    · obtain ⟨d, answer⟩ := Hub.readMask_down present out _
      exact ⟨d, next_congr answer⟩
    · exact next_congr ((Hub.capList_runs (.inl all) dies).trans (Hub.overMask_absent many _ _ _))
    · obtain ⟨d, answer⟩ := Hub.overMask_down present (down := fun d => !(s.hub.die d).inService) (by simpa using out) _ _
      exact ⟨d, next_congr ((Hub.capList_runs (.inl all) dies).trans answer)⟩

end

section
/-! PROOFS. Coaches are read, freed and sent (R203, R389). -/

namespace Sys2Proof.Machine

/-- Each element of a list brings what is said of it, and none undoes what is said of another. -/
theorem forAll_each {α : Type} {P : α → Hub → Prop} {f : α → Hub → Hub} {l : List α} (brings : ∀ a ∈ l, ∀ h, P a (f a h))
    (keeps : ∀ a ∈ l, ∀ b ∈ l, ∀ h, P a h → P a (f b h)) (h : Hub) : ∀ a ∈ l, P a (forAll l f h) := by
  induction l generalizing h with
  | nil => exact fun _ no => nomatch no
  | cons b l ih =>
    intro a mem
    have keepsRest : ∀ a ∈ b :: l, ∀ g, P a g → P a (forAll l f g) := fun a mem g holds =>
      forAll_inv (P a) f l (fun c there g => keeps a mem c (List.mem_cons_of_mem _ there) g) g holds
    obtain rfl | there := List.mem_cons.1 mem
    · exact keepsRest a mem _ (brings a mem h)
    · exact ih (fun a mem => brings a (List.mem_cons_of_mem _ mem))
        (fun a mem c there => keeps a (List.mem_cons_of_mem _ mem) c (List.mem_cons_of_mem _ there)) _ a there

theorem Hub.dies_length_of_form {a b : Hub} (same : a.form = b.form) : a.dies.length = b.dies.length := congrArg Form.dies same

/-! ## CAP_READ -/

section Read

variable {h : Hub} {id d : Nat} {c : Coach} (found : h.findCoach id = some (d, c)) (up : h.dieDown d = false)
include found up

theorem Hub.capRead_eq (off n dec : Nat) : h.capRead id off n dec =
    if 1 < dec ∨ (if dec = 1 then 4072 else 4080) < n then h.refuse St.badArg
    else match c.st with
      | .free => h.refuse St.notFound
      | .filling => h.busyDie (h.fillMs c) d
      | _ =>
        if dec = 0 then h.ok (((c.bytes d).drop off).take n)
        else
          h.ok (be 1 (c.decoded.2.getD (0, 0, 0)).1 ++ pad 1 ++ be 2 (c.decoded.2.getD (0, 0, 0)).2.1 ++
            be 4 (c.decoded.2.getD (0, 0, 0)).2.2 ++ ((c.decoded.1.flatten).drop off).take n) := by
  rw [Hub.capRead, found]
  exact h.onDies_one_up up _

theorem Hub.capRead_plain (there : c.st = .ready ∨ c.st = .sending) {n : Nat} (few : n ≤ 4080) (off : Nat) :
    h.capRead id off n 0 = h.ok (((c.bytes d).drop off).take n) := by
  rw [Hub.capRead_eq found up, if_neg (by simpa using few)]
  obtain st | st := there <;> rw [st] <;> rfl

theorem Hub.capRead_decoded (there : c.st = .ready ∨ c.st = .sending) {n : Nat} (few : n ≤ 4072) (off : Nat) : h.capRead id off n 1 =
    h.ok (be 1 (c.decoded.2.getD (0, 0, 0)).1 ++ pad 1 ++ be 2 (c.decoded.2.getD (0, 0, 0)).2.1 ++
      be 4 (c.decoded.2.getD (0, 0, 0)).2.2 ++ ((c.decoded.1.flatten).drop off).take n) := by
  rw [Hub.capRead_eq found up, if_neg (by simpa using few)]
  obtain st | st := there <;> rw [st] <;> rfl

theorem Hub.capRead_filling (fills : c.st = .filling) {n dec : Nat} (mode : dec ≤ 1) (few : n ≤ (if dec = 1 then 4072 else 4080)) (off : Nat) :
    h.capRead id off n dec = h.busyDie (h.fillMs c) d := by
  rw [Hub.capRead_eq found up, if_neg (by omega), fills]

theorem Hub.capRead_free (free : c.st = .free) {n dec : Nat} (mode : dec ≤ 1) (few : n ≤ (if dec = 1 then 4072 else 4080)) (off : Nat) :
    h.capRead id off n dec = h.refuse St.notFound := by
  rw [Hub.capRead_eq found up, if_neg (by omega), free]

end Read

/-! ## What is said of the coaches of one number -/

/-- Every coach of a die with a sequence number has a property. -/
def Hub.AtSeq (P : Coach → Prop) (d seq : Nat) (h : Hub) : Prop := ∀ y ∈ h.coachesAt d, y.seq = seq → P y

theorem Hub.AtSeq.of_shelves {P : Coach → Prop} {d seq : Nat} {a b : Hub} (holds : a.AtSeq P d seq) (same : b.shelves = a.shelves) :
    b.AtSeq P d seq := by
  rw [Hub.AtSeq, Hub.coachesAt_of_shelves same]
  exact holds

/-- A change of coaches that keeps numbers and the property. -/
theorem Hub.AtSeq.setCoach {P : Coach → Prop} {d seq : Nat} {h : Hub} (holds : h.AtSeq P d seq) {f : Coach → Coach} (number : ∀ c, (f c).seq = c.seq)
    (keeps : ∀ c, P c → P (f c)) (e n : Nat) : (h.setCoach e n f).AtSeq P d seq := by
  intro y mem ofIt
  rw [Hub.coachesAt_setCoach] at mem
  split at mem
  · obtain ⟨c, there, rfl⟩ := List.mem_map.1 mem
    split
    next hit =>
      rw [if_pos hit, number] at ofIt
      exact keeps c (holds c there ofIt)
    next miss =>
      rw [if_neg miss] at ofIt
      exact holds c there ofIt
  · exact holds y mem ofIt

/-- A change of the coach of a number brings what it says. -/
theorem Hub.atSeq_setCoach {P : Coach → Prop} {f : Coach → Coach} (brings : ∀ c, P (f c)) (h : Hub) (d seq : Nat) :
    (h.setCoach d seq f).AtSeq P d seq := by
  intro y mem ofIt
  rw [Hub.coachesAt_setCoach, if_pos rfl] at mem
  obtain ⟨c, there, rfl⟩ := List.mem_map.1 mem
  split
  · exact brings c
  next miss =>
    rw [if_neg miss] at ofIt
    exact absurd (beq_iff_eq.2 ofIt) miss

/-! ## CAP_FREE -/

section Free

variable {h : Hub} {ids : List Word} {l : List (Nat × Coach)} (all : h.allCoaches ids = some l) (up : ∀ p ∈ l, h.dieDown p.1 = false)
include all up

theorem Hub.capFree_eq : h.capFree ids = h.checked [(St.badArg, (l.filter fun p => p.2.st == .filling).map Prod.fst)]
    (match leastOf ((l.filter fun p => h.inJob (p.2.id p.1) || p.2.st == .sending).map Prod.fst) with
      | some d => h.busyDie (if l.any fun p => h.inJob (p.2.id p.1) then 1000 else 100) d
      | none => (forAll (l.map Prod.fst).eraseDups (fun d g => g.retryWait d) (forAll l (fun p g => g.freeCoach p.1 p.2.seq) h)).ok []) := by
  rw [Hub.capFree, all]
  exact h.onDies_up (by simpa using up) _

theorem Hub.capFree_filling (fills : ∃ p ∈ l, p.2.st = .filling) : ∃ d, h.capFree ids = h.refuseDie St.badArg d := by
  rw [Hub.capFree_eq all up]
  exact ⟨_, h.checked_fail (filter_map_ne_nil Prod.fst (by simpa using fills)) _ _⟩

theorem Hub.capFree_busy (noneFills : ∀ p ∈ l, p.2.st ≠ .filling)
    (busy : ∃ p ∈ l, (h.inJob (p.2.id p.1) || p.2.st == .sending) = true) : ∃ d, h.capFree ids =
      h.busyDie (if l.any fun p => h.inJob (p.2.id p.1) then 1000 else 100) d := by
  rw [Hub.capFree_eq all up, filter_map_eq_nil _ (by simpa using noneFills), Hub.checked_pass, Hub.checked_nil]
  cases least : leastOf ((l.filter fun p => h.inJob (p.2.id p.1) || p.2.st == .sending).map Prod.fst) with
  | none => exact absurd (List.min?_eq_none_iff.1 least) (filter_map_ne_nil Prod.fst busy)
  | some d => exact ⟨d, rfl⟩

theorem Hub.capFree_frees (ready : ∀ p ∈ l, p.2.st = .ready ∧ h.inJob (p.2.id p.1) = false) : h.capFree ids =
    (forAll (l.map Prod.fst).eraseDups (fun d g => g.retryWait d) (forAll l (fun p g => g.freeCoach p.1 p.2.seq) h)).ok [] := by
  rw [Hub.capFree_eq all up, filter_map_eq_nil _ (fun p mem => by simp [(ready p mem).1]), Hub.checked_pass, Hub.checked_nil,
    filter_map_eq_nil _ (fun p mem => by simp [(ready p mem).1, (ready p mem).2])]
  rfl

end Free

/-- A coach that has been freed. -/
def Coach.freed (c : Coach) : Coach := { c with st := .free, samples := [], payload := none, kib := 0 }

theorem Hub.freed_atSeq (h : Hub) (l : List (Nat × Coach)) (ds : List Nat) : ∀ p ∈ l,
    (forAll ds (fun d g => g.retryWait d) (forAll l (fun p g => g.freeCoach p.1 p.2.seq) h)).AtSeq
      (fun y => y.st = .free ∧ y.kib = 0) p.1 p.2.seq := by
  intro p mem
  refine Hub.AtSeq.of_shelves ?_ (forAll_shelves _ (fun d g => g.retryWait_shelves d) _ _)
  exact forAll_each (P := fun (p : Nat × Coach) (g : Hub) => g.AtSeq (fun y => y.st = .free ∧ y.kib = 0) p.1 p.2.seq)
    (fun p _ g => g.atSeq_setCoach (f := Coach.freed) (fun _ => ⟨rfl, rfl⟩) _ _)
    (fun p _ q _ g holds => holds.setCoach (f := Coach.freed) (fun _ => rfl) (fun _ _ => ⟨rfl, rfl⟩) _ _) h p mem

/-! ## CAP_SEND -/

/-- A coach that is asked for or on its way. -/
def Coach.Asked (c : Coach) : Prop := c.sendWanted = true ∨ c.st = .sending

/-- A coach that is asked for. -/
def Coach.wanted (c : Coach) : Coach := { c with sendWanted := true }

/-- A coach on its way, with the number of the packet that holds its end and its own number. -/
def Coach.leaves (seq : Word) (record : Nat) (c : Coach) : Coach :=
  { c with st := .sending, sendWanted := false, lastSeq := some seq, record := some record }

theorem Hub.coachRecord_shelves (h : Hub) (k : FlowKey) (stream first : Nat) (b : Bytes) :
    (h.coachRecord k stream first b).1.shelves = h.shelves := by
  unfold Hub.coachRecord
  split
  · rfl
  · exact h.setFlow_shelves _ _

/-- A change of dies that leaves their coaches leaves what is said of them. -/
theorem Hub.AtSeq.setDie {P : Coach → Prop} {d seq : Nat} {h : Hub} (holds : h.AtSeq P d seq) (e : Nat) {f : Die → Die}
    (keeps : ∀ x, (f x).store.coaches = x.store.coaches) : (h.setDie e f).AtSeq P d seq := by
  rw [Hub.AtSeq, h.coachesAt_setDie e d (g := id) keeps rfl, id_eq, ite_self]
  exact holds

theorem Hub.AtSeq.sendCoach {d seq : Nat} {h : Hub} (holds : h.AtSeq Coach.Asked d seq) (e : Nat) (c : Coach) :
    (h.sendCoach e c).AtSeq Coach.Asked d seq := by
  unfold Hub.sendCoach
  extract_lets k stream g' p
  have behind (g : Hub) (now : g.AtSeq Coach.Asked d seq) : ((g.coachRecord k stream 1 (c.bytes e)).1.setCoach e c.seq
      (Coach.leaves (g.coachRecord k stream 1 (c.bytes e)).2.1 (g.coachRecord k stream 1 (c.bytes e)).2.2)).AtSeq Coach.Asked d seq :=
    (now.of_shelves (g.coachRecord_shelves ..)).setCoach (f := Coach.leaves _ _) (fun _ => rfl) (fun _ _ => .inr rfl) _ _
  refine behind g' ?_
  dsimp -zeta only [g']
  split
  next t _ =>
    have ahead : (h.coachRecord k stream 0 t.bytes).1.AtSeq Coach.Asked d seq := holds.of_shelves (h.coachRecord_shelves ..)
    split
    · exact holds
    · exact ahead.setDie e fun _ => rfl
  · exact holds

theorem Hub.AtSeq.sendWanted {d seq : Nat} {h : Hub} (holds : h.AtSeq Coach.Asked d seq) (e : Nat) :
    ((h.sendWanted e).flowTouch e).AtSeq Coach.Asked d seq := by
  refine Hub.AtSeq.of_shelves (Hub.AtSeq.of_shelves ?_ (Hub.flowTouch_shelves ..)) (Hub.flowTouch_shelves ..)
  refine forAll_inv (fun g => g.AtSeq Coach.Asked d seq) _ _ (fun c _ g now => ?_) _ holds
  split
  · exact now.sendCoach e c
  · exact now

section Send

variable {h : Hub} {ids : List Word} {l : List (Nat × Coach)} (all : h.allCoaches ids = some l) (up : ∀ p ∈ l, h.dieDown p.1 = false)
include all up

/-- A hub with coaches asked for. -/
def Hub.asked (h : Hub) (l : List (Nat × Coach)) : Hub :=
  forAll (l.map Prod.fst).eraseDups (fun d g => (g.sendWanted d).flowTouch d)
    (forAll l (fun p g => g.setCoach p.1 p.2.seq Coach.wanted) h)

theorem Hub.capSend_eq : h.capSend ids =
    h.checked [(St.badArg, (l.filter fun p => p.2.st != .ready).map Prod.fst)] ((h.asked l).ok []) := by
  rw [Hub.capSend, all]
  exact h.onDies_up (by simpa using up) _

theorem Hub.capSend_asks (ready : ∀ p ∈ l, p.2.st = .ready) : h.capSend ids = (h.asked l).ok [] := by
  rw [Hub.capSend_eq all up, filter_map_eq_nil _ (by simpa using ready)]
  rfl

theorem Hub.capSend_refused (other : ∃ p ∈ l, p.2.st ≠ .ready) : ∃ d, h.capSend ids = h.refuseDie St.badArg d := by
  rw [Hub.capSend_eq all up]
  exact ⟨_, h.checked_fail (filter_map_ne_nil Prod.fst (by simpa using other)) _ _⟩

end Send

theorem Hub.asked_atSeq (h : Hub) (l : List (Nat × Coach)) : ∀ p ∈ l, (h.asked l).AtSeq Coach.Asked p.1 p.2.seq := by
  intro p mem
  refine forAll_inv (fun g => g.AtSeq Coach.Asked p.1 p.2.seq) _ _ (fun d _ g now => now.sendWanted d) _ ?_
  exact forAll_each (P := fun (p : Nat × Coach) (g : Hub) => g.AtSeq Coach.Asked p.1 p.2.seq)
    (fun p _ g => g.atSeq_setCoach (f := Coach.wanted) (fun _ => .inl rfl) _ _)
    (fun p _ q _ g holds => holds.setCoach (f := Coach.wanted) (fun _ => rfl) (fun _ _ => .inl rfl) _ _) h p mem

/-- What is said of the coaches of a die that is there. -/
theorem Hub.AtSeq.there {P : Coach → Prop} {d seq : Nat} {h : Hub} (holds : h.AtSeq P d seq) (there : d < h.dies.length) :
    ∃ x, h.dies[d]? = some x ∧ ∀ y ∈ x.store.coaches, y.seq = seq → P y := by
  have found := List.getElem?_eq_getElem there
  refine ⟨_, found, ?_⟩
  rw [Hub.AtSeq, Hub.coachesAt, Hub.die_of_getElem? found] at holds
  exact holds

end Sys2Proof.Machine

open Sys2Proof Sys2Proof.Machine

/-- Settles O25: the refusals of R389 in the model's reading (the order NOT_FOUND, BAD_ARG, BUSY is log entry 50, the read past the end entry
52), and what CAP_FREE and CAP_SEND leave of every coach named. -/
theorem coaches : Obligations.Coaches := by
  unfold Obligations.Coaches
  refine ⟨fun s id d off n dec c found up => ⟨?_, ?_, ?_, ?_, ?_⟩, fun s id off n dec unknown => ?_, fun s ids => ⟨fun unknown => ?_, ?_⟩⟩
  · exact fun there few => next_congr (Hub.capRead_plain found up.2.2 there few off)
  · exact fun there few => next_congr (Hub.capRead_decoded found up.2.2 there few off)
  · exact fun fills mode few => next_congr (Hub.capRead_filling found up.2.2 fills mode few off)
  · exact fun free mode few => next_congr (Hub.capRead_free found up.2.2 free mode few off)
  · exact fun beyond => next_congr ((Hub.capRead_eq found up.2.2 off n dec).trans (if_pos beyond))
  · refine next_congr ?_
    show s.hub.capRead id.toNat off n dec = _
    rw [Hub.capRead, unknown]
  · refine ⟨next_congr ?_, next_congr ?_⟩
    · show s.hub.capFree ids = _
      rw [Hub.capFree, unknown]
    · show s.hub.capSend ids = _
      rw [Hub.capSend, unknown]
  · intro l all dies held
    have up : ∀ p ∈ l, s.hub.dieDown p.1 = false := fun p mem => (dies p mem).2.2
    have length (p : Nat × Coach) (mem : p ∈ l) : p.1 < s.hub.dies.length := by
      obtain ⟨⟨-, -, length, -⟩, present, -⟩ := dies p mem
      exact length ▸ present
    refine ⟨fun ready => ?_, fun fills => ?_, fun noneFills jobs => ?_, fun others sending => ?_, fun ready => ?_, fun other => ?_⟩
    · refine ⟨_, next_congr (Hub.capFree_frees all up fun p mem => ⟨(ready p mem).1, eq_false_of_ne_true (ready p mem).2⟩), rfl, fun p mem => ?_⟩
      have same := s.hub.capFree_form ids
      rw [Hub.capFree_frees all up fun p mem => ⟨(ready p mem).1, eq_false_of_ne_true (ready p mem).2⟩] at same
      exact (s.hub.freed_atSeq l _ p mem).there ((Hub.dies_length_of_form same).symm ▸ length p mem)
    · obtain ⟨d, answer⟩ := Hub.capFree_filling all up fills
      exact ⟨d, next_congr answer⟩
    · obtain ⟨p, mem, job⟩ := jobs
      obtain ⟨d, answer⟩ := Hub.capFree_busy all up noneFills ⟨p, mem, by rw [job, Bool.true_or]⟩
      rw [if_pos (List.any_eq_true.2 ⟨p, mem, job⟩)] at answer
      exact ⟨d, next_congr answer⟩
    · obtain ⟨p, mem, sends⟩ := sending
      obtain ⟨d, answer⟩ := Hub.capFree_busy all up (fun q there => (others q there).1) ⟨p, mem, by rw [sends]; simp⟩
      rw [if_neg fun any => ?_] at answer
      · exact ⟨d, next_congr answer⟩
      · obtain ⟨q, there, job⟩ := List.any_eq_true.1 any
        exact (others q there).2 job
    · refine ⟨_, next_congr (Hub.capSend_asks all up ready), rfl, fun p mem => ?_⟩
      have same := s.hub.capSend_form ids
      rw [Hub.capSend_asks all up ready] at same
      exact (s.hub.asked_atSeq l p mem).there ((Hub.dies_length_of_form same).symm ▸ length p mem)
    · obtain ⟨d, answer⟩ := Hub.capSend_refused all up other
      exact ⟨d, next_congr answer⟩

end

section
/-! PROOFS. Churned uses of a channel (R269, R281). -/

namespace Sys2Proof.Machine

/-- A use that is at mode 0 and does not leave is left as it is when mode 0 is set. -/
theorem Hub.churnMode_zero {h : Hub} {raw : Bool} {c : Nat} {u : ChurnUse} (runs : (h.ch c).use raw = some u) (mode : u.mode = 0)
    (stays : u.leaving = false) : Hub.churnMode raw 0 c h = h := by
  rw [Hub.churnMode, runs]
  exact if_pos ⟨mode, by rw [stays]; rfl⟩

/-- CHURN_SET with mode 0 for the skim uses of channels that can be served makes no test. -/
theorem Hub.churnSet_skim_zero {h : Hub} {chs : List Nat} (served : Served h chs) : h.churnSet 1 0 chs =
    (forAll (chs.map chDie).eraseDups (fun d g => g.reSweep d) (forAll chs (Hub.churnMode false 0) h)).ok [] := by
  have guard : ¬(1 < 1 ∨ 4 < 0 ∨ h.badChs chs = true) := by
    rw [Hub.badChs_served served]
    decide
  rw [Hub.churnSet, if_neg guard, Hub.onDies_served served]
  refine Hub.checked_all _ (fun t mem => ?_) _
  simp only [List.mem_cons, List.not_mem_nil, or_false] at mem
  obtain rfl | rfl := mem
  · exact filter_map_eq_nil _ fun _ _ => rfl
  · exact List.append_eq_nil_iff.2 ⟨List.filter_eq_nil_iff.2 fun _ _ => Bool.false_ne_true, rfl⟩

theorem Hub.reSweep_chans (h : Hub) (d : Nat) : (h.reSweep d).chans = h.chans := rfl

/-- A channel whose skim use stands at mode 0. -/
def Chan.strayUse (x : Chan) : Chan := { x with churnSkim := some (ChurnUse.new 0 0) }

/-- A hub with such a channel. -/
def strayUseHub : Hub := Hub.serving.setCh 0 Chan.strayUse

theorem strayUseHub_chans : strayUseHub.chans[0]? = some (Chan.strayUse Chan.reset) := by
  rw [strayUseHub, Hub.setCh_chans, List.getElem?_modify]
  rfl

theorem strayUseHub_use : (strayUseHub.ch 0).use false = some (ChurnUse.new 0 0) := by
  rw [strayUseHub, Hub.serving_setCh_ch]
  rfl

end Sys2Proof.Machine

open Sys2Proof Sys2Proof.Machine

/-- Refutes O26: of CHURN_SET with mode 0 it says that no use is left, also where a use stands at mode 0 itself; the model leaves such a use
as it is, for its mode does not change (`Hub.churnMode_zero`). The clause lacks the hypothesis that a use has a mode of 1 to 4. -/
theorem not_churnSettings : ¬Obligations.ChurnSettings := by
  rintro ⟨settings, -⟩
  have served : Served strayUseHub [0] := Hub.serving_setCh _
  obtain ⟨-, ended, -⟩ := settings ⟨strayUseHub, []⟩ 1 0 [0] served (by decide) (by decide)
  obtain ⟨t, made, -, gone⟩ := ended fun no => absurd no (by decide)
  have run := (Hub.churnSet_skim_zero served).trans (congrArg (fun g => (forAll ([0].map chDie).eraseDups (fun d g => g.reSweep d) g).ok [])
    (Hub.churnMode_zero strayUseHub_use rfl rfl))
  have left := Host.Outcome.next.inj (made.symm.trans (next_congr (p := []) run))
  obtain ⟨y, found, unused, -⟩ := gone 0 (List.mem_singleton_self 0)
  rw [left] at found
  obtain rfl := Option.some.inj (strayUseHub_chans.symm.trans found)
  exact Option.some_ne_none _ unused

end

section
/-! PROOFS. Saved states of the coder and churn jobs (R293 to R295, R394, R395). -/

namespace Sys2Proof.Machine

theorem forAll_jobs {α : Type} (f : α → Hub → Hub) (hf : ∀ a h, (f a h).jobs = h.jobs) (l : List α) (h : Hub) :
    (forAll l f h).jobs = h.jobs := forAll_keeps Hub.jobs f hf l h
theorem iter_jobs (f : Hub → Hub) (hf : ∀ h, (f h).jobs = h.jobs) (n : Nat) (h : Hub) : (iter f n h).jobs = h.jobs :=
  iter_keeps Hub.jobs f hf n h
theorem Hub.jobs_mk (x0 x1 x2 x3 x4 x5 x6 x7 x8 x9 x10 x11 x12 x13 x14 x15 x16 x17 x18 x19 x20 x21 x22 x23 x24 x25 x26 x27 x28 x29 x30 x31)
    : (Hub.mk x0 x1 x2 x3 x4 x5 x6 x7 x8 x9 x10 x11 x12 x13 x14 x15 x16 x17 x18 x19 x20 x21 x22 x23 x24 x25 x26 x27 x28 x29 x30 x31).jobs =
    x11 := rfl

@[simp] theorem Hub.retireChan_jobs (h : Hub) (c code count : Nat) : (h.retireChan c code count).jobs = h.jobs := by
  unfold Hub.retireChan
  dsimp only
  repeat' split
  all_goals simp only [↓Hub.event_jobs, ↓Hub.setCh_jobs, ↓Hub.setDie_jobs]
@[simp] theorem Hub.spareChan_jobs (h : Hub) (c code : Nat) (readable : Bool) : (h.spareChan c code readable).jobs = h.jobs := by
  unfold Hub.spareChan
  dsimp only
  repeat' split
  all_goals simp only [↓Hub.notice_jobs, ↓Hub.retireChan_jobs, ↓Hub.setCh_jobs, ↓Hub.setDie_jobs]
@[simp] theorem Hub.setEngWin_jobs (h : Hub) (d : Nat) (u : Word) (w : Option FaultWin) : (h.setEngWin d u w).jobs = h.jobs := by
  simp only [Hub.setEngWin, ↓Hub.setDie_jobs]
@[simp] theorem Hub.placeUse_jobs (h : Hub) (d e c : Nat) (others : List Nat) (get : Chan → Option ChurnUse) (put :
    Option ChurnUse → Chan → Chan) : (h.placeUse d e c others get put).jobs = h.jobs := by
  unfold Hub.placeUse
  split
  · rfl
  · split
    · rfl
    · split <;> exact h.setCh_jobs _ _
@[simp] theorem Hub.moveChurn_jobs (h : Hub) (d e : Nat) : (h.moveChurn d e).jobs = h.jobs := by
  rw [h.moveChurn_eq]
  refine forAll_jobs _ (fun c g => ?_) _ _
  simp only [Hub.placeUses, ↓apply_ite Hub.jobs, ↓Hub.notice_jobs, ↓Hub.placeUse_jobs, ite_self]
@[simp] theorem Hub.retireEngine_jobs (h : Hub) (d typ e : Nat) : (h.retireEngine d typ e).jobs = h.jobs := by
  simp only [Hub.retireEngine, ↓Hub.moveChurn_jobs, ↓Hub.setDie_jobs, ↓apply_ite Hub.jobs, ite_self, modAt]
@[simp] theorem Hub.engineFail_jobs (h : Hub) (d typ e code : Nat) (readable passes : Bool) :
    (h.engineFail d typ e code readable passes).jobs = h.jobs := by
  unfold Hub.engineFail
  dsimp only
  repeat' split
  all_goals simp only [↓Hub.event_jobs, ↓Hub.retireEngine_jobs, ↓Hub.setDie_jobs, ↓Hub.setEngWin_jobs, ↓Hub.spareChan_jobs,
    ↓Hub.jobs_mk]
@[simp] theorem Hub.churnMismatch_jobs (h : Hub) (d e : Nat) : (h.churnMismatch d e).jobs = h.jobs := by
  simp only [Hub.churnMismatch, ↓Hub.engineFail_jobs, ↓Hub.event_jobs, ↓Hub.setDie_jobs, ↓Hub.tick_jobs, ↓apply_ite Hub.jobs, ite_self,
    modAt]

/-! ## Uses of a channel -/

theorem Chan.use_setUse (raw : Bool) (u : Option ChurnUse) (x : Chan) : (x.setUse raw u).use raw = u := by
  cases raw <;> rfl

/-! ## CHURN_SAVE and CHURN_RESTORE -/

section Use

variable {h : Hub} {c use : Nat} (served : Served h [c])
include served

theorem Hub.churnSave_eq (kind : use ≤ 1) {u : ChurnUse} (runs : (h.ch c).use (use == 0) = some u) : h.churnSave c use =
    if !(h.newState (chDie c) use [] false).1.churnRoom (chDie c) then h.refuse St.budget
    else ((h.newState (chDie c) use [] false).1.setCh c
      (Chan.setUse (use == 0) (some { u with save := u.save ++ [(h.newState (chDie c) use [] false).2] }))).ok
        (be 2 (h.newState (chDie c) use [] false).2 ++ pad 2 ++ be 8 (h.nextBlock (use == 0) c)) := by
  rw [Hub.churnSave, if_neg (by have := served.present; omega), h.onDies_one_up served.up, runs]

theorem Hub.churnSave_unused (unused : (h.ch c).use (use == 0) = none) : h.churnSave c use = h.refuse St.badArg := by
  rw [Hub.churnSave]
  split
  · rfl
  · rw [h.onDies_one_up served.up, unused]

theorem Hub.churnRestore_unknown {n : Nat} (kind : use ≤ 1) (unknown : h.findState n = none) :
    h.churnRestore c use n = h.refuse St.notFound := by
  rw [Hub.churnRestore, if_neg (by have := served.present; omega), h.onDies_one_up served.up, unknown]

theorem Hub.churnRestore_known {n : Nat} (kind : use ≤ 1) {x : SavedChurn} (known : h.findState n = some x) {u : ChurnUse}
    (runs : (h.ch c).use (use == 0) = some u) : h.churnRestore c use n = if !imageOk (use == 0) x.image then h.refuse St.badArg
      else (h.setCh c (Chan.setUse (use == 0) (some { u with restore := some x.image }))).ok [] := by
  rw [Hub.churnRestore, if_neg (by have := served.present; omega), h.onDies_one_up served.up, known, runs]

end Use

/-! ## Saved states -/

theorem Hub.churnStateRead_known {h : Hub} {n : Nat} {x : SavedChurn} (known : h.findState n = some x) (off k : Nat) :
    h.churnStateRead n off k = if 4080 < k then h.refuse St.badArg else if !x.complete then h.busy (h.saveMs n)
      else h.ok ((x.image.drop off).take k) := by
  rw [Hub.churnStateRead, known]

/-- An image with bytes written over it. -/
def overwrite (off : Nat) (data img : Bytes) : Bytes := img.take off ++ data ++ img.drop (off + data.length)

theorem overwrite_length {off : Nat} {data img : Bytes} (fits : off + data.length ≤ img.length) :
    (overwrite off data img).length = img.length := by
  simp only [overwrite, List.length_append, List.length_take, List.length_drop]
  omega

theorem overwrite_shows {off : Nat} {data img : Bytes} (fits : off + data.length ≤ img.length) :
    ((overwrite off data img).drop off).take data.length = data := by
  have start : (img.take off).length = off := by simp; omega
  rw [overwrite, List.append_assoc, List.drop_append_of_le_length start.ge, List.drop_eq_nil_of_le start.le, List.nil_append,
    List.take_left]

theorem Hub.churnStateWrite_known {h : Hub} {n : Nat} {x : SavedChurn} (known : h.findState n = some x) (old : n ≠ 0xFFFF) (us off : Nat)
    (data : Bytes) : h.churnStateWrite n us off data =
      if 4072 < data.length ∨ stateBytes (x.use' == 0) < off + data.length then h.refuse St.badArg
      else if !x.complete then h.ok (be 2 n ++ pad 2)
      else ({ h with saved := h.saved.map fun (y : SavedChurn) => if y.handle = n then { y with image := overwrite off data y.image } else y
        }).ok (be 2 n ++ pad 2) := by
  rw [Hub.churnStateWrite, if_neg old, known]
  rfl

theorem Hub.churnStateWrite_unknown {h : Hub} {n : Nat} (unknown : h.findState n = none) (old : n ≠ 0xFFFF) (us off : Nat)
    (data : Bytes) : h.churnStateWrite n us off data = h.refuse St.notFound := by
  rw [Hub.churnStateWrite, if_neg old, unknown]

theorem Hub.churnStateRead_unknown {h : Hub} {n : Nat} (unknown : h.findState n = none) (off k : Nat) :
    h.churnStateRead n off k = h.refuse St.notFound := by
  rw [Hub.churnStateRead, unknown]

theorem Hub.churnStateFree_known {h : Hub} {n : Nat} {x : SavedChurn} (known : h.findState n = some x) : h.churnStateFree n =
    ({ h with saved := h.saved.filter fun (y : SavedChurn) => y.handle != n } : Hub).ok [] := by
  rw [Hub.churnStateFree, known]

theorem Hub.churnStateFree_unknown {h : Hub} {n : Nat} (unknown : h.findState n = none) : h.churnStateFree n = h.refuse St.notFound := by
  rw [Hub.churnStateFree, unknown]

/-! ### A new state -/

/-- Room for a state does not depend on its image. -/
theorem Hub.churnRoom_newState (h : Hub) (d use : Nat) (img img' : Bytes) (done : Bool) :
    (h.newState d use img done).1.churnRoom d = (h.newState d use img' done).1.churnRoom d := by
  simp only [Hub.churnRoom, Hub.churnUsed, Hub.newState, List.filter_append, List.map_append, List.filter_cons, List.filter_nil,
    beq_self_eq_true, if_true, List.map_cons, List.map_nil]
  rfl

/-- The image that a new state has before it is written. -/
def Hub.scratch (h : Hub) (use : Nat) : Bytes := (List.range (stateBytes (use == 0))).map (Config.scratchByte h.fresh)

theorem Hub.scratch_length (h : Hub) (use : Nat) : (h.scratch use).length = stateBytes (use == 0) := by
  rw [Hub.scratch, List.length_map, List.length_range]

section New

variable (h : Hub) {use off : Nat} {data : Bytes} (kind : use ≤ 1) (short : data.length ≤ 4072)
  (fits : off + data.length ≤ stateBytes (use == 0))
include kind short fits

theorem Hub.churnStateWrite_new : h.churnStateWrite 0xFFFF use off data =
    match (List.range h.nDies).find? (fun d => !h.dieDown d && ((h.newState d use (h.scratch use) true).1).churnRoom d) with
    | none => h.refuse St.budget
    | some d => (h.tick.newState d use (overwrite off data (h.scratch use)) true).1.ok
        (be 2 (h.tick.newState d use (overwrite off data (h.scratch use)) true).2 ++ pad 2) := by
  rw [Hub.churnStateWrite, if_pos rfl, if_neg (by omega)]
  rfl

theorem Hub.churnStateWrite_full (full : ∀ d < h.nDies, h.dieDown d = false → (h.newState d use [] true).1.churnRoom d = false) :
    h.churnStateWrite 0xFFFF use off data = h.refuse St.budget := by
  rw [h.churnStateWrite_new kind short fits, List.find?_eq_none.2]
  intro d mem
  have noRoom := full d (List.mem_range.1 mem)
  rw [h.churnRoom_newState d use (h.scratch use) []]
  cases down : h.dieDown d <;> simp [down, noRoom]

theorem Hub.churnStateWrite_room (room : ∃ d < h.nDies, h.dieDown d = false ∧ (h.newState d use [] true).1.churnRoom d = true) :
    ∃ d, h.churnStateWrite 0xFFFF use off data = (h.tick.newState d use (overwrite off data (h.scratch use)) true).1.ok
        (be 2 (h.tick.newState d use (overwrite off data (h.scratch use)) true).2 ++ pad 2) := by
  rw [h.churnStateWrite_new kind short fits]
  cases found : (List.range h.nDies).find? (fun d => !h.dieDown d && ((h.newState d use (h.scratch use) true).1).churnRoom d) with
  | some d => exact ⟨d, rfl⟩
  | none =>
    obtain ⟨d, present, up, roomy⟩ := room
    refine absurd (List.find?_eq_none.1 found d (List.mem_range.2 present)) ?_
    rw [h.churnRoom_newState d use (h.scratch use) []]
    simp [up, roomy]

end New

/-! ## CHURN_STATE_CAPTURE -/

theorem Hub.churnStateCapture_within {h : Hub} {c use : Nat} {u : ChurnUse} (runs : (h.ch c).use (use == 0) = some u) (within : u.block ≠ []) :
    h.churnStateCapture c use = h := by
  rw [Hub.churnStateCapture, runs]
  exact if_neg (by simpa using within)

theorem Hub.churnStateCapture_boundary {h : Hub} {c use : Nat} {u : ChurnUse} (runs : (h.ch c).use (use == 0) = some u)
    (boundary : u.block = []) (asked : u.save ≠ []) : h.churnStateCapture c use =
      { h.setCh c (Chan.setUse (use == 0) (some { u with save := [] })) with
        saved := h.saved.map fun (x : SavedChurn) =>
          if u.save.contains x.handle then { x with image := u.image (use == 0) (h.nextSample (use == 0) c), complete := true } else x } := by
  rw [Hub.churnStateCapture, runs]
  refine (if_pos (by simp [boundary])).trans ?_
  rw [Hub.churnCapture, runs]
  exact if_neg (by simpa using asked)

/-! ## Jobs -/

section Start

variable {h : Hub} {id d : Nat} {c : Coach} (found : h.findCoach id = some (d, c)) (up : h.dieDown d = false)
include found up

/-- CHURN_JOB_START of a coach that is not free comes to its tests. -/
theorem Hub.churnJobStart_bad (there : c.st ≠ .free) {op mode buf : Nat} (bad : 1 < op ∨ c.st ≠ .ready ∨ buf < 1024 ∨ 1048576 < buf ∨
    (op = 0 ∧ (c.churn ≠ 0 ∨ mode = 0 ∨ 4 < mode ∨ c.twoWord = true)) ∨ (op = 1 ∧ c.churn = 0)) :
    h.churnJobStart id op mode buf = h.refuse St.badArg := by
  rw [Hub.churnJobStart, found]
  refine (h.onDies_one_up up _).trans ((if_neg there).trans (if_pos ?_))
  exact bad.imp_right (.imp_right (.imp_right (.imp_right (.imp_right .inl))))

theorem Hub.churnJobStart_starts (ready : c.st = .ready) {op mode buf : Nat}
    (fits : (op = 0 ∧ c.churn = 0 ∧ 1 ≤ mode ∧ mode ≤ 4 ∧ c.twoWord = false) ∨ (op = 1 ∧ c.churn ≠ 0)) (least : 1024 ≤ buf)
    (most : buf ≤ 1048576) (area : (h.die d).store.churnBytes ≠ 0) (few : h.jobs.length < 8)
    (room : h.churnUsed d + buf ≤ (h.die d).store.churnBytes) : ∃ k ∈ (h.churnJobStart id op mode buf).jobs, k.die = d ∧ k.coach = id ∧
      k.st = 0 ∧ k.buf = [] ∧ k.used = 0 ∧ k.bufsz = buf ∧
      (h.churnJobStart id op mode buf).mgmt.reply = ⟨St.ok, 0, 255, be 2 k.job ++ pad 2⟩ := by
  have good : ¬(1 < op ∨ c.st ≠ .ready ∨ buf < 1024 ∨ 1048576 < buf ∨ (op = 0 ∧ (c.churn ≠ 0 ∨ mode = 0 ∨ 4 < mode ∨ c.twoWord = true)) ∨
      (op = 1 ∧ c.churn = 0) ∨ (h.die d).store.churnBytes = 0) := by
    obtain ⟨rfl, plain, low, high, one⟩ | ⟨rfl, churned⟩ := fits
    · simp [ready, plain, one, area]
      omega
    · simp [ready, churned, area]
      omega
  unfold Hub.churnJobStart
  rw [found]
  dsimp -zeta only
  rw [h.onDies_one_up up, if_neg (by simp [ready]), if_neg good, if_neg (Nat.not_le.2 few)]
  extract_lets n dec blocks bad todo j g
  have enough : g.churnRoom d = true := by
    have used : g.churnUsed d = h.churnUsed d + buf := by
      simp only [Hub.churnUsed, g, List.filter_append, List.map_append, List.sum_append]
      have one : ([j].filter fun (k : ChurnJob) => k.die == d) = [j] := List.filter_cons_of_pos (beq_self_eq_true d)
      rw [one]
      exact (Nat.add_assoc _ _ _).symm
    have area : (g.die d).store = (h.die d).store := rfl
    rw [Hub.churnRoom, used, area]
    simpa using room
  rw [if_neg (by simp [enough])]
  refine ⟨j, ?_, rfl, rfl, rfl, rfl, rfl, rfl, rfl⟩
  rw [Hub.ok_jobs, iter_jobs _ fun k => k.churnMismatch_jobs _ _]
  exact List.mem_append_right _ (List.mem_singleton_self _)

end Start

/-- A job as it stops. -/
def Hub.jobStopped (h : Hub) (j k : ChurnJob) : ChurnJob :=
  let o := fillBuf j.bufsz j.todo j.buf j.used
  { k with todo := o.1, buf := o.2.1, used := o.2.2, st := if !o.1.isEmpty then 1 else if j.fail.isSome then 3 else 2,
           stoppedAt := h.clk.elapsed }

theorem Hub.jobStopped_st (h : Hub) (j k : ChurnJob) : (h.jobStopped j k).st ≠ 0 ∧
    ((h.jobStopped j k).st = 1 ↔ (h.jobStopped j k).todo ≠ []) ∧ ((h.jobStopped j k).st = 3 → j.fail ≠ none) := by
  unfold Hub.jobStopped
  extract_lets o
  dsimp only
  cases rest : o.1 <;> cases fail : j.fail <;> simp

section Job

variable {h : Hub} {n : Nat} {j : ChurnJob} (known : h.findJob n = some j)
include known

theorem Hub.churnJobRead_known {k : Nat} (few : k ≤ 4064) (off : Nat) : h.churnJobRead n off k =
    h.ok (be 1 j.st ++ be 1 (if j.st = 3 then j.fail.getD (0, 0, 0) else (0, 0, 0)).1 ++
      be 2 (if j.st = 3 then j.fail.getD (0, 0, 0) else (0, 0, 0)).2.1 ++ be 4 (if j.st = 3 then j.fail.getD (0, 0, 0) else (0, 0, 0)).2.2 ++
      be 4 j.used ++ be 4 j.buf.length ++ (j.buf.drop off).take k) := by
  rw [Hub.churnJobRead, known]
  dsimp only
  rw [if_neg (Nat.not_lt.2 few)]

theorem Hub.churnJobResume_known (buf : Nat) : h.churnJobResume n buf = if j.st ≠ 1 ∨ buf < 1024 ∨ 1048576 < buf then h.refuse St.badArg
    else if !(h.setJob n fun k => { k with buf := [], bufsz := buf, st := 0 }).churnRoom j.die then h.refuse St.budget
    else (h.setJob n fun k => { k with buf := [], bufsz := buf, st := 0 }).ok [] := by
  rw [Hub.churnJobResume, known]

theorem Hub.churnJobEnd_known : h.churnJobEnd n = ({ h with jobs := h.jobs.filter fun (k : ChurnJob) => k.job != n } : Hub).ok [] := by
  rw [Hub.churnJobEnd, known]

theorem Hub.jobEnd_known : h.jobEnd n = if j.st ≠ 1 ∨ h.clk.elapsed < j.stoppedAt + 600000000000 then h
    else ({ h with jobs := h.jobs.filter fun (k : ChurnJob) => k.job != n } : Hub).notice unitHub 0x0702 (argN n) 0 := by
  rw [Hub.jobEnd, known]

theorem Hub.jobStop_rests (stopped : j.st ≠ 0) : h.jobStop n = h := by
  rw [Hub.jobStop, known]
  exact if_pos stopped

theorem Hub.jobStop_stops (running : j.st = 0) : h.jobStop n = h.setJob n (h.jobStopped j) := by
  rw [Hub.jobStop, known]
  exact if_neg (by simp [running])

theorem Hub.findJob_setJob {f : ChurnJob → ChurnJob} (number : ∀ k, (f k).job = k.job) : (h.setJob n f).findJob n = some (f j) := by
  have kept (k : ChurnJob) : (if k.job == n then f k else k).job = k.job := by split <;> simp [number]
  rw [Hub.findJob, Hub.setJob, List.find?_map]
  have same : ((fun (k : ChurnJob) => k.job == n) ∘ fun (k : ChurnJob) => if k.job == n then f k else k) = fun k => k.job == n :=
    funext fun k => congrArg (· == n) (kept k)
  rw [same, show h.jobs.find? (fun (k : ChurnJob) => k.job == n) = some j from known, Option.map_some,
    if_pos (by simpa using List.find?_some known)]

end Job

theorem Hub.job_unknown {h : Hub} {n : Nat} (unknown : h.findJob n = none) (off k buf : Nat) :
    h.churnJobRead n off k = h.refuse St.notFound ∧ h.churnJobResume n buf = h.refuse St.notFound ∧
      h.churnJobEnd n = h.refuse St.notFound := by
  rw [Hub.churnJobRead, Hub.churnJobResume, Hub.churnJobEnd, unknown]
  exact ⟨rfl, rfl, rfl⟩

end Sys2Proof.Machine

open Sys2Proof Sys2Proof.Machine

/-- Settles O27, command by command: states, their capture at a block boundary, and jobs (R293 to R295, R394, R395). -/
theorem churnStates : Obligations.ChurnStates := by
  unfold Obligations.ChurnStates
  refine ⟨fun s n c x use u => ⟨fun served kind runs => ⟨fun room => ?_, fun full => ?_⟩, fun served unused => ?_, fun known old => ?_,
    fun unknown old off k us data => ?_, fun off data kind short fits room => ?_, fun off data kind short fits full => ?_⟩,
    fun s c use n u x shaped present runs => ⟨fun within => ?_, fun boundary asked mem handle => ?_⟩, fun s n j => ⟨?_, ?_, fun known => ?_,
      fun unknown off k buf => ?_⟩⟩
  · have run := (Hub.churnSave_eq served kind runs).trans (if_neg (by simp [room]))
    have there := served.there (List.mem_singleton_self c)
    refine ⟨_, _, (s.hub.newState (chDie c) use [] false).2, next_congr run, rfl, ?_, Chan.use_setUse _ _ (s.hub.ch c), rfl⟩
    exact Hub.setCh_getElem?_same (h := (s.hub.newState (chDie c) use [] false).1) there _
  · exact next_congr ((Hub.churnSave_eq served kind runs).trans (if_pos (by simp [full])))
  · exact next_congr (Hub.churnSave_unused served unused)
  · refine ⟨fun off k done few => ?_, fun off k open' few => ?_, fun off k many => ?_, fun us off data done short fits => ?_,
      fun us off data bad => ?_, fun served kind runs => ?_, next_congr (Hub.churnStateFree_known known)⟩
    · refine next_congr ((Hub.churnStateRead_known known off k).trans ((if_neg (Nat.not_lt.2 few)).trans (if_neg ?_)))
      simp [done]
    · refine next_congr ((Hub.churnStateRead_known known off k).trans ((if_neg (Nat.not_lt.2 few)).trans (if_pos ?_)))
      simp [open']
    · exact next_congr ((Hub.churnStateRead_known known off k).trans (if_pos many))
    · refine next_congr ((Hub.churnStateWrite_known known old us off data).trans ((if_neg (by omega)).trans (if_neg ?_)))
      simp [done]
    · exact next_congr ((Hub.churnStateWrite_known known old us off data).trans (if_pos bad))
    · have run := Hub.churnRestore_known served kind known runs
      split
      next good => exact next_congr (run.trans (if_neg (by simp [good])))
      next bad => exact next_congr (run.trans (if_pos (by simp [bad])))
  · exact ⟨next_congr (Hub.churnStateRead_unknown unknown off k), next_congr (Hub.churnStateWrite_unknown unknown old us off data),
      fun served kind => next_congr (Hub.churnRestore_unknown served kind unknown), next_congr (Hub.churnStateFree_unknown unknown)⟩
  · obtain ⟨d, run⟩ := s.hub.churnStateWrite_room kind short fits room
    have length := s.hub.scratch_length use
    exact ⟨_, (s.hub.tick.newState d use (overwrite off data (s.hub.scratch use)) true).2, d, overwrite off data (s.hub.scratch use),
      next_congr run, rfl, (overwrite_length (length ▸ fits)).trans length, overwrite_shows (length ▸ fits), rfl, rfl⟩
  · exact next_congr (s.hub.churnStateWrite_full kind short fits full)
  · exact next_same (Hub.churnStateCapture_within runs within)
  · have run := Hub.churnStateCapture_boundary runs boundary (List.ne_nil_of_mem asked)
    obtain ⟨length, -⟩ := shaped
    have there : s.hub.chans[c]? = some s.hub.chans[c] := List.getElem?_eq_getElem (length ▸ present)
    refine ⟨_, _, next_congr run, Hub.setCh_getElem?_same there _, Chan.use_setUse _ _ _, ?_⟩
    refine List.mem_map.2 ⟨x, mem, if_pos ?_⟩
    rw [handle]
    exact List.contains_iff_mem.2 asked
  · intro id op mode d c buf found up ready fits least most area few room
    obtain ⟨k, mem, rest⟩ := Hub.churnJobStart_starts found up.2.2 ready fits least most area few room
    exact ⟨_, k, rfl, mem, rest⟩
  · exact fun id op mode d c buf found up there bad => next_congr (Hub.churnJobStart_bad found up.2.2 there bad)
  · have resume (buf : Nat) := Hub.churnJobResume_known known buf
    refine ⟨fun off k few other => ?_, fun off k e few failed fail => ?_, fun buf full least most room => ?_,
      fun buf full least most room => ?_, fun buf bad => next_congr ((resume buf).trans (if_pos bad)), next_congr (Hub.churnJobEnd_known known),
      fun full late => ?_, fun early => ?_, fun running => ?_, fun stopped => next_same (Hub.jobStop_rests known stopped)⟩
    · have run := Hub.churnJobRead_known known few off
      rw [if_neg other] at run
      exact next_congr run
    · have run := Hub.churnJobRead_known known few off
      rw [if_pos failed, fail, failed] at run
      exact next_congr run
    · exact next_congr ((resume buf).trans ((if_neg (by omega)).trans (if_neg (by simp [room]))))
    · exact next_congr ((resume buf).trans ((if_neg (by omega)).trans (if_pos (by simp [room]))))
    · exact next_congr ((Hub.jobEnd_known known).trans (if_neg (by omega)))
    · exact next_same ((Hub.jobEnd_known known).trans (if_pos early))
    · obtain ⟨stops, full, failed⟩ := s.hub.jobStopped_st j j
      exact ⟨_, _, next_congr (Hub.jobStop_stops known running), Hub.findJob_setJob known fun _ => rfl, stops, rfl, full, failed⟩
  · obtain ⟨read, resume, ends⟩ := Hub.job_unknown unknown off k buf
    exact ⟨next_congr read, next_congr resume, next_congr ends⟩

end

section
/-! PROOFS. Settings of the separator, and what a hub adds to a modal frame that passes (R219 to R235). -/

namespace Sys2Proof.Machine

/-! ## SEP_CFG_SET (R234) -/

section Config

variable {h : Hub} {ctl tick wait fb : Word}

/-- A SEP_CFG_SET that changes what its words bring. -/
def Sep.written (s : Sep) (now : Nat) (ctl tick wait fb : Word) : Sep :=
  { s with
    ctl := ctl, tick := tick, wait := wait, fb := fb, cfgFrom := (now / (tick.toNat * fuCycle) + 1) * (tick.toNat * fuCycle),
    ctlWas := if decide (now < s.cfgFrom) then s.ctlWas else s.ctl, waitWas := if decide (now < s.cfgFrom) then s.waitWas else s.wait,
    fbWas := if decide (now < s.cfgFrom) then s.fbWas else s.fb }

theorem Hub.sepCfgSet_bad (bad : h.badSepCfg ctl tick wait fb = true) (t : Option Nat) (accepted : Nat) :
    h.sepCfgSet ctl tick wait fb t accepted = h.refuse St.badArg := if_pos bad

variable (good : h.badSepCfg ctl tick wait fb = false)
include good

theorem Hub.sepCfgSet_same (same : bitOf ctl 31 = bitOf h.sep.ctl 31) : h.sepCfgSet ctl tick wait fb none h.tm.now =
    ({ h with sep := h.sep.written h.tm.now ctl tick wait fb } : Hub).ok [] := by
  unfold Hub.sepCfgSet
  rw [if_neg (by simp [good])]
  extract_lets s was on gated p first from' open' new new1
  have stays : on = false := by simp [on, s, same]
  have keeps : from' = s.enFrom := if_pos same
  have plain : new1 = new := if_neg (by simp [stays])
  rw [plain]
  have last : (if bitOf ctl 31 = bitOf s.ctl 31 then s.enWas else was) = s.enWas := if_pos same
  simp only [new, keeps, last]
  rfl

theorem Hub.sepCfgSet_off (off : bitOf ctl 31 = false) (was : bitOf h.sep.ctl 31 = true) : h.sepCfgSet ctl tick wait fb none h.tm.now =
    ({ h with sep := { h.sep.written h.tm.now ctl tick wait fb with
      enFrom := (h.tm.now / (tick.toNat * fuCycle) + 1) * (tick.toNat * fuCycle), enWas := h.sep.en h.tm.now } } : Hub).ok [] := by
  have differs : ¬bitOf ctl 31 = bitOf h.sep.ctl 31 := by simp [off, was]
  unfold Hub.sepCfgSet
  rw [if_neg (by simp [good])]
  extract_lets s en on gated p first from' open' new new1
  have stays : on = false := by simp [on, off]
  have begins : from' = first * p := (if_neg differs).trans (by rw [stays, Bool.false_and]; rfl)
  have plain : new1 = new := if_neg (by simp [stays])
  rw [plain]
  have last : (if bitOf ctl 31 = bitOf s.ctl 31 then s.enWas else en) = en := if_neg differs
  simp only [new, begins, last]
  rfl

theorem Hub.sepCfgSet_on (on : bitOf ctl 31 = true) (was : bitOf h.sep.ctl 31 = false) : h.sepCfgSet ctl tick wait fb none h.tm.now =
    ({ h with sep := { h.sep.written h.tm.now ctl tick wait fb with
      enFrom := (if h.dies.any fun x => x.inService && x.quads.any not then
          max (h.tm.now / (tick.toNat * fuCycle) + 1) (ceilDiv (h.tm.now + 1024000000) (tick.toNat * fuCycle))
        else h.tm.now / (tick.toNat * fuCycle) + 1) * (tick.toNat * fuCycle),
      enWas := h.sep.en h.tm.now, warm := true, ticks := [], lateIn := 0, mismatch := 0, timeouts := 0, replays := 0,
      posClash := 0 } } : Hub).ok [] := by
  have differs : ¬bitOf ctl 31 = bitOf h.sep.ctl 31 := by simp [on, was]
  unfold Hub.sepCfgSet
  rw [if_neg (by simp [good])]
  extract_lets s en starts gated p first from' open' new new1
  have goesOn : starts = true := by simp [starts, s, on, was]
  have begins : from' = (if gated then max first (ceilDiv (h.tm.now + 1024000000) p) else first) * p :=
    (if_neg differs).trans (by rw [goesOn, Bool.true_and])
  have cleared : new1 = { new with warm := true, ticks := [], lateIn := 0, mismatch := 0, timeouts := 0, replays := 0, posClash := 0 } :=
    if_pos goesOn
  rw [cleared]
  have last : (if bitOf ctl 31 = bitOf s.ctl 31 then s.enWas else en) = en := if_neg differs
  simp only [new, begins, last]
  rfl

end Config

theorem Hub.badSepCfg_running {h : Hub} {ctl tick wait fb : Word} (on : bitOf h.sep.ctl 31 = true)
    (changes : tick ≠ h.sep.tick ∨ fld ctl 5 0 ≠ fld h.sep.ctl 5 0) : h.badSepCfg ctl tick wait fb = true := by
  unfold Hub.badSepCfg
  have refused : (bitOf h.sep.ctl 31 && (tick != h.sep.tick || fld ctl 5 0 != h.sep.pos)) = true := by
    simpa [on, Sep.pos] using changes
  simp [refused]

/-! ## SEP_LOAD and SEP_SWITCH (R219 to R222) -/

/-- A D command whose BUSY carries the time until the die's fade ends. -/
theorem Hub.fadeBusy_refused {h g : Hub} {st d : Nat} (answer : g = h.refuseDie st d) :
    (if g.mgmt.reply.status = St.busy then g.withReply { g.mgmt.reply with retry := h.sepFadeMs g.mgmt.reply.failDie } else g) =
      h.withReply ⟨st, if st = St.busy then h.sepFadeMs d else 0, d, []⟩ := by
  rw [answer]
  show (if st = St.busy then _ else _) = _
  split <;> rfl

theorem Hub.fadeBusy_ok {h g k : Hub} (answer : g = k.ok []) :
    (if g.mgmt.reply.status = St.busy then g.withReply { g.mgmt.reply with retry := h.sepFadeMs g.mgmt.reply.failDie } else g) = k.ok [] := by
  rw [answer]
  exact if_neg (by decide : ¬St.ok = St.busy)

theorem Hub.fadeBusy_plain {h g k : Hub} {st : Nat} (other : st ≠ St.busy) (status : k.mgmt.reply.status = st) (answer : g = k) :
    (if g.mgmt.reply.status = St.busy then g.withReply { g.mgmt.reply with retry := h.sepFadeMs g.mgmt.reply.failDie } else g) = k := by
  rw [answer]
  exact if_neg (status ▸ other)

/-! ## A frame that passes (R232) -/

section Pass

variable (k : Option SepTick) (pos : Nat) (f : ModalFrame)

theorem SepTick.addTo_hold : (SepTick.addTo k pos f).1.baseHold = (f.baseHold || (match k with | some r => r.hold | none => false)) := by
  unfold SepTick.addTo
  extract_lets bit hold g
  split
  · rfl
  · split
    · split <;> rfl
    · rfl

variable {k pos f}

theorem SepTick.addTo_taken (taken : ((f.contrib ||| f.notLocked) &&& BitVec.ofNat 64 (2 ^ pos)) ≠ 0) :
    (SepTick.addTo k pos f).2 = true ∧ (SepTick.addTo k pos f).1 = { f with baseHold := (SepTick.addTo k pos f).1.baseHold } := by
  unfold SepTick.addTo
  extract_lets bit hold g
  rw [if_pos (bne_iff_ne.2 taken)]
  exact ⟨rfl, rfl⟩

theorem SepTick.addTo_silent (free : ((f.contrib ||| f.notLocked) &&& BitVec.ofNat 64 (2 ^ pos)) = 0)
    (silent : ∀ r, k = some r → r.ready = false) : (SepTick.addTo k pos f).2 = false ∧ (SepTick.addTo k pos f).1 =
      { f with baseHold := (SepTick.addTo k pos f).1.baseHold, notLocked := f.notLocked ||| BitVec.ofNat 64 (2 ^ pos) } := by
  unfold SepTick.addTo
  extract_lets bit hold g
  rw [if_neg fun some => bne_iff_ne.1 some free]
  cases k with
  | none => exact ⟨rfl, rfl⟩
  | some r =>
    dsimp only
    rw [if_neg (by simp [silent r rfl])]
    exact ⟨rfl, rfl⟩

theorem SepTick.addTo_adds (free : ((f.contrib ||| f.notLocked) &&& BitVec.ofNat 64 (2 ^ pos)) = 0) {r : SepTick} (ready : r.ready = true) :
    (SepTick.addTo (some r) pos f).2 = false ∧ (SepTick.addTo (some r) pos f).1.contrib = f.contrib ||| BitVec.ofNat 64 (2 ^ pos) ∧
    (SepTick.addTo (some r) pos f).1.notLocked = f.notLocked ∧ (SepTick.addTo (some r) pos f).1.sflags = f.sflags ||| r.sflags ∧
    (SepTick.addTo (some r) pos f).1.seq = f.seq ∧ (SepTick.addTo (some r) pos f).1.stamp = f.stamp ∧
    (SepTick.addTo (some r) pos f).1.rows = f.rows ∧ (SepTick.addTo (some r) pos f).1.mgen = f.mgen ∧
    (SepTick.addTo (some r) pos f).1.fadeW = f.fadeW ∧
    (SepTick.addTo (some r) pos f).1.sums =
      f.sums.mapIdx fun i s => if i < min f.rows r.sums.length then s + r.sums.getD i 0 else s := by
  unfold SepTick.addTo
  extract_lets bit hold g
  rw [if_neg fun some => bne_iff_ne.1 some free]
  dsimp only
  rw [if_pos ready]
  exact ⟨rfl, rfl, rfl, rfl, rfl, rfl, rfl, rfl, rfl, rfl⟩

end Pass

end Sys2Proof.Machine

open Sys2Proof Sys2Proof.Machine

/-- Settles O28: the words of SEP_CFG_SET as they act from the next tick (that a gated quadrant of any die makes the hub wait 1 ms is the model's
reading, log entry 53), and loads and switches that all the dies named take or none. -/
theorem separatorSettings : Obligations.SeparatorSettings := by
  unfold Obligations.SeparatorSettings
  refine ⟨fun s ctl tick wait fb => ?_, fun s dies set xf op => ?_⟩
  · exact ⟨fun good same => next_congr (Hub.sepCfgSet_same good same), fun good off was => next_congr (Hub.sepCfgSet_off good off was),
      fun good on was => next_congr (Hub.sepCfgSet_on good on was), fun bad => next_congr (Hub.sepCfgSet_bad bad none _),
      fun on changes => Hub.badSepCfg_running on changes, rfl⟩
  · refine ⟨fun up fits => next_congr (Hub.fadeBusy_ok (Hub.onMask_runs up fits _)), fun up refuses => ?_,
      fun up fits => next_congr (Hub.fadeBusy_ok (Hub.onMask_runs up fits _)), fun up refuses => ?_,
      fun d incomplete => if_pos (by simp [incomplete]), fun up => next_congr (Hub.readMask_runs up _), fun many => ?_, fun present down => ?_⟩
    · obtain ⟨d, named, st, why, answer⟩ := Hub.onMask_refuses up refuses _
      exact ⟨d, named, st, why, next_congr (Hub.fadeBusy_refused answer)⟩
    · obtain ⟨d, named, st, why, answer⟩ := Hub.onMask_refuses up refuses _
      exact ⟨d, named, st, why, next_congr (Hub.fadeBusy_refused answer)⟩
    · have reads (k : List Nat → Hub) : s.hub.readMask dies k = s.hub.refuse St.badArg := Hub.overMask_absent many _ _ k
      simp only [List.forall_mem_cons]
      exact ⟨next_congr (Hub.fadeBusy_plain (st := St.badArg) (by decide) rfl (Hub.overMask_absent many _ _ _)),
        next_congr (Hub.fadeBusy_plain (st := St.badArg) (by decide) rfl (Hub.overMask_absent many _ _ _)),
        next_congr (reads _), fun _ no => nomatch no⟩
    · have present' : ¬∃ d ∈ s.hub.named dies, s.hub.nDies ≤ d := fun ⟨d, named, beyond⟩ => Nat.not_lt.2 beyond (present d named)
      simp only [List.forall_mem_cons]
      refine ⟨?_, ?_, fun _ no => nomatch no⟩
      · obtain ⟨d, answer⟩ := Hub.overMask_down present' down (s.hub.loadCheck set op) _
        exact ⟨d, next_congr (Hub.fadeBusy_plain (st := St.fault) (by decide) rfl answer)⟩
      · obtain ⟨d, answer⟩ := Hub.overMask_down present' down (s.hub.switchCheck xf none) _
        exact ⟨d, next_congr (Hub.fadeBusy_plain (st := St.fault) (by decide) rfl answer)⟩

/-- Settles O29, by the three ways in which a hub looks at a frame (R232). -/
theorem framePasses : Obligations.FramePasses := by
  intro k pos f
  refine ⟨SepTick.addTo_hold k pos f, SepTick.addTo_taken, fun free r there ready => ?_, SepTick.addTo_silent⟩
  subst there
  obtain ⟨clash, contrib, notLocked, sflags, seq, stamp, rows, mgen, fadeW, sums⟩ := SepTick.addTo_adds free ready
  refine ⟨clash, contrib, notLocked, sflags, seq, stamp, rows, mgen, fadeW, ?_, fun i v at' => ?_⟩
  · rw [sums, List.length_mapIdx]
  · rw [sums, List.getElem?_mapIdx, at']
    rfl

end

section
/-! PROOFS. The modal tick and its timeout (R213, R225, R229). -/

namespace Sys2Proof.Machine

theorem forAll_sep {α : Type} (f : α → Hub → Hub) (hf : ∀ a h, (f a h).sep = h.sep) (l : List α) (h : Hub) :
    (forAll l f h).sep = h.sep := forAll_keeps Hub.sep f hf l h
theorem iter_sep (f : Hub → Hub) (hf : ∀ h, (f h).sep = h.sep) (n : Nat) (h : Hub) : (iter f n h).sep = h.sep :=
  iter_keeps Hub.sep f hf n h
theorem Hub.sep_mk (x0 x1 x2 x3 x4 x5 x6 x7 x8 x9 x10 x11 x12 x13 x14 x15 x16 x17 x18 x19 x20 x21 x22 x23 x24 x25 x26 x27 x28 x29 x30 x31)
    : (Hub.mk x0 x1 x2 x3 x4 x5 x6 x7 x8 x9 x10 x11 x12 x13 x14 x15 x16 x17 x18 x19 x20 x21 x22 x23 x24 x25 x26 x27 x28 x29 x30 x31).sep =
    x17 := rfl

@[simp] theorem Hub.queue_sep (h : Hub) (p : Nat) (f : Frame) : (h.queue p f).sep = h.sep := by
  simp only [Hub.queue, ↓Hub.setLink_sep, modAt]
@[simp] theorem Hub.originate_sep (h : Hub) (cls kind : Nat) (body : Bytes) : (h.originate cls kind body).sep = h.sep := by
  simp only [Hub.originate, ↓Hub.queue_sep, ↓apply_ite Hub.sep, ite_self]

@[simp] theorem Hub.sepMask_tm (t d : Nat) (h : Hub) : (Hub.sepMask t d h).tm = h.tm := by
  simp only [Hub.sepMask, ↓Hub.recordAt_tm, ↓Hub.setDie_tm, ↓apply_ite Hub.tm, ite_self]

theorem Hub.sepMask_sep (t d : Nat) (h : Hub) : (Hub.sepMask t d h).sep = h.sep :=
  ite_keeps Hub.sep rfl ((Hub.setDie_sep ..).trans (h.recordAt_sep ..))

/-- A frame that the hub sends: the ticks and the counters stay. -/
theorem Hub.sendModal_sep (h : Hub) (f : ModalFrame) : (h.sendModal f).sep =
    { h.sep with passed := (⟨(frameBytes f).length, f.stamp, h.clk.elapsed⟩ :: h.sep.passed).take 2 } := Hub.originate_sep ..

theorem Hub.sendModal_tm (h : Hub) (f : ModalFrame) : (h.sendModal f).tm = h.tm := Hub.originate_tm ..

theorem Hub.passFrame_ticks (h : Hub) (f : ModalFrame) : (h.passFrame f).sep.ticks = (h.sep.markSent (f.stamp / h.sep.tickFu)).ticks ∧
    (h.passFrame f).sep.timeouts = h.sep.timeouts ∧ (h.passFrame f).tm = h.tm := by
  unfold Hub.passFrame
  extract_lets j r
  dsimp -zeta only
  extract_lets g src g1 g2
  have sep : g2.sep = g1.sep := ite_keeps Hub.sep (g1.notice_sep ..) rfl
  have tm : g2.tm = g1.tm := ite_keeps Hub.tm (g1.notice_tm ..) rfl
  rw [Hub.sendModal_sep, Hub.sendModal_tm, sep, tm]
  exact ⟨rfl, rfl, rfl⟩

theorem Sep.markSent_sent {s : Sep} {j : Nat} {q : SepTick} (mem : q ∈ (s.markSent j).ticks) (number : q.j = j) : q.sent = true := by
  obtain ⟨o, -, rfl⟩ := List.mem_map.1 mem
  split
  · rfl
  next other =>
    rw [if_neg other] at number
    exact absurd number other

theorem Hub.sepDieTicks_eq (j : Nat) (ds : List Nat) (acc : Hub × List (Nat × DieTick)) :
    ∃ dies, (ds.foldl (Hub.sepDieTick j) acc).1 = { acc.1 with dies := dies } := by
  induction ds generalizing acc with
  | nil => exact ⟨acc.1.dies, rfl⟩
  | cons d ds ih =>
    obtain ⟨dies, eq⟩ := ih (Hub.sepDieTick j acc d)
    exact ⟨dies, eq⟩

/-- The instant of a tick names the tick. -/
theorem tick_mul_div (s : Sep) (t : Nat) : t / s.tickFu * s.tickFu / s.tickFu = t / s.tickFu := by
  obtain zero | pos := Nat.eq_zero_or_pos s.tickFu
  · rw [zero, Nat.div_zero, Nat.div_zero]
  · exact Nat.mul_div_cancel _ pos

/-- What the hub keeps of a tick that is taken now. -/
structure SepTick.Taken (h : Hub) (r : SepTick) : Prop where
  j : r.j = h.tm.now / h.sep.tickFu
  orig : r.orig = (h.sep.en (h.tm.now / h.sep.tickFu * h.sep.tickFu) &&
    (h.sep.origAt (h.tm.now / h.sep.tickFu * h.sep.tickFu) || (h.prt 1).st != .up))
  sent : r.sent = r.orig
  ready : r.ready = (h.locked && !h.sep.warm)

theorem Hub.modalTick_again {h : Hub} (taken : h.sep.ticks.head?.map SepTick.j = some (h.tm.now / h.sep.tickFu)) : h.modalTick = h :=
  if_pos taken

theorem Hub.modalTick_takes {h : Hub} (fresh : h.sep.ticks.head?.map SepTick.j ≠ some (h.tm.now / h.sep.tickFu)) :
    ∃ r l, h.modalTick.sep.ticks = r :: l ∧ l.length ≤ 63 ∧ r.Taken h ∧ h.modalTick.tm = h.tm := by
  unfold Hub.modalTick
  extract_lets j
  rw [if_neg fresh]
  obtain ⟨dies, ticked⟩ := Hub.sepDieTicks_eq j (List.range h.nDies) (h, [])
  generalize List.foldl _ _ _ = run at ticked ⊢
  obtain ⟨g, l⟩ := run
  dsimp only at ticked
  subst ticked
  dsimp -zeta only
  extract_lets en orig r src g1 g2
  have sep : g2.sep = g1.sep := forAll_sep _ (fun d k => k.sepMask_sep _ d) _ _
  have tm : g2.tm = h.tm := forAll_tm _ (fun d k => k.sepMask_tm _ d) _ _
  have ticks : g2.sep.ticks = r :: h.sep.ticks.take 63 := congrArg Sep.ticks sep
  have few : (h.sep.ticks.take 63).length ≤ 63 := List.length_take_le 63 h.sep.ticks
  split
  next sends =>
    obtain ⟨passed, -, now⟩ := g2.passFrame_ticks (buildFrame r g2.sep.tickFu false)
    have period : g2.sep.tickFu = h.sep.tickFu := (congrArg Sep.tickFu sep).trans rfl
    have named : (buildFrame r g2.sep.tickFu false).stamp / g2.sep.tickFu = r.j := by
      rw [period]
      exact tick_mul_div h.sep h.tm.now
    rw [named, Sep.markSent, ticks, List.map_cons, if_pos rfl] at passed
    refine ⟨_, _, passed, ?_, ⟨rfl, rfl, ?_, rfl⟩, now.trans tm⟩
    · rw [List.length_map]
      exact few
    · exact sends.symm
  next silent => exact ⟨r, _, ticks, few, ⟨rfl, rfl, (eq_false_of_ne_true silent).symm, rfl⟩, tm⟩

/-! ## TIMEOUT -/

/-- A tick whose deadline has passed without a frame. -/
def Hub.overdue (h : Hub) (r : SepTick) : Bool := !r.sent && !r.orig && h.sep.en (r.j * h.sep.tickFu) &&
  decide (h.sep.deadline (r.j * h.sep.tickFu) < h.tm.now)

theorem Hub.modalTimeout_rests {h : Hub} (rests : h.sep.en h.tm.now = false ∨ ∀ r ∈ h.sep.ticks, h.overdue r = false) : h.modalTimeout = h := by
  unfold Hub.modalTimeout
  extract_lets s
  obtain off | noneDue := rests
  · exact if_pos (by simp [s, off])
  · split
    · rfl
    · have nothing : s.ticks.reverse.find? h.overdue = none :=
        List.find?_eq_none.2 fun r mem => by simpa using noneDue r (List.mem_reverse.1 mem)
      unfold Hub.overdue at nothing
      rw [nothing]

theorem Hub.modalTimeout_sends {h : Hub} {newer older : List SepTick} {r : SepTick} (on : h.sep.en h.tm.now = true)
    (ticks : h.sep.ticks = newer ++ r :: older) (due : h.overdue r = true) (oldest : ∀ q ∈ older, h.overdue q = false) : h.modalTimeout =
      ({ h with sep := { h.sep with timeouts := satInc 16 h.sep.timeouts } } : Hub).passFrame (buildFrame r h.sep.tickFu true) := by
  have found : h.sep.ticks.reverse.find? h.overdue = some r := by
    rw [ticks, List.reverse_append, List.reverse_cons, List.append_assoc, List.find?_append, List.find?_eq_none.2 (by simpa using oldest)]
    simp [due]
  unfold Hub.modalTimeout
  extract_lets s
  unfold Hub.overdue at found
  rw [if_neg (by simp [s, on]), found]

end Sys2Proof.Machine

open Sys2Proof Sys2Proof.Machine

/-- Settles O30: a tick is kept before its frame leaves, and the frame that leaves marks the tick of its stamp (R213, R225, R229). -/
theorem modalTicks : Obligations.ModalTicks := by
  intro s j due
  refine ⟨fun taken => next_same (Hub.modalTick_again taken), fun fresh => ?_, fun rests => next_same (Hub.modalTimeout_rests rests),
    fun newer older r on ticks isDue oldest pos => ?_⟩
  · obtain ⟨r, l, kept, few, ⟨number, orig, sent, ready⟩, tm⟩ := Hub.modalTick_takes fresh
    exact ⟨_, r, l, rfl, kept, few, number, orig, sent, ready, tm⟩
  · have run := Hub.modalTimeout_sends on ticks isDue oldest
    obtain ⟨passed, timeouts, -⟩ := Hub.passFrame_ticks { s.hub with sep := { s.hub.sep with timeouts := satInc 16 s.hub.sep.timeouts } }
      (buildFrame r s.hub.sep.tickFu true)
    have named : (buildFrame r s.hub.sep.tickFu true).stamp / s.hub.sep.tickFu = r.j :=
      Nat.mul_div_cancel _ (Nat.mul_pos pos (by decide))
    refine ⟨_, next_congr run, timeouts, ?_, fun q mem number => ?_⟩
    · rw [passed]
      exact List.length_map _
    · rw [passed] at mem
      exact Sep.markSent_sent mem (number.trans named.symm)

end

section
/-! PROOFS. Settings of streams and ports (R249, R256, R258, R266). -/

namespace Sys2Proof.Machine

/-! ## What the watermarks leave -/

/-- The watermarks look at queues: of the stream settings they set the window's level and the FCO pins alone. -/
theorem Hub.watermarks_strm (h : Hub) : ∃ hi fco, h.watermarks.strm = { h.strm with win := { h.strm.win with hi := hi }, fco := fco } := by
  unfold Hub.watermarks
  extract_lets g src win src1 g1 g2 src2
  have looped : g2.strm = g1.strm := by
    refine forAll_keeps Hub.strm _ (fun i k => ?_) _ _
    dsimp only
    exact ite_keeps Hub.strm rfl rfl
  refine ⟨_, _, congrArg (fun x : Strm => { x with fco := (List.range 4).map g2.fcoLevel }) looped⟩

theorem PortUp.there {h : Hub} {p : Nat} (up : PortUp h p) : h.ports[p]? = some (h.prt p) := by
  obtain ⟨⟨-, -, -, length, -⟩, present, -⟩ := up
  rw [Hub.prt, List.getD_eq_getElem?_getD, List.getElem?_eq_getElem (length ▸ present)]
  rfl

/-! ## Watermarks and FC pins (R256, R258) -/

section Watermark

variable {h : Hub} {p : Nat} {w : Word}

theorem Hub.strmWmSet_bad (bad : (h.nPorts ≤ p ∧ p ≠ 0xFE) ∨ fld w 31 16 < 2 ∨ fld w 15 0 < 1 ∨ fld w 31 16 ≤ fld w 15 0 ∨
    (p = 0xFE ∧ 32 < fld w 31 16)) : h.strmWmSet p w = h.refuse St.badArg := by
  unfold Hub.strmWmSet
  exact if_pos (bad.imp_left And.symm)

theorem Hub.strmWmSet_port (up : PortUp h p) (plain : p ≠ 0xFE) (high : 2 ≤ fld w 31 16) (low : 1 ≤ fld w 15 0) (order : fld w 15 0 < fld w 31 16) :
    h.strmWmSet p w = ((h.setPort p fun q => { q with wm := w }).watermarks).ok [] := by
  have present := up.2.1
  unfold Hub.strmWmSet
  dsimp only
  rw [if_neg (by omega), if_neg plain, h.onDies_one_up up.2.2]

theorem Hub.strmWmSet_local (high : 2 ≤ fld w 31 16) (most : fld w 31 16 ≤ 32) (low : 1 ≤ fld w 15 0) (order : fld w 15 0 < fld w 31 16) :
    h.strmWmSet 0xFE w = (({ h with strm := { h.strm with localWm := w } } : Hub).watermarks).ok [] := by
  unfold Hub.strmWmSet
  dsimp only
  rw [if_neg (by omega), if_pos rfl]

theorem Hub.strmWmGet_port (plain : p ≠ 0xFE) : h.strmWmGet p = if h.nPorts ≤ p then h.refuse St.badArg
    else h.onDies [p / 4] (h.ok (be 4 (h.prt p).wm.toNat ++ be 4 (ceilDiv (h.portOcc p) 1024))) := if_neg plain

end Watermark

/-- A port's watermark word and its configuration are of its core. -/
theorem Hub.watermarks_getElem? (h : Hub) {p : Nat} {q : Port} (there : h.ports[p]? = some q) :
    ∃ r, h.watermarks.ports[p]? = some r ∧ r.wm = q.wm ∧ r.cfg = q.cfg := by
  have same := congrArg (fun l => l[p]?) h.watermarks_portCores
  simp only [Hub.portCores, List.getElem?_map, there, Option.map_some] at same
  obtain ⟨r, found, core⟩ := Option.map_eq_some_iff.1 same
  have wm := congrArg Port.wm core
  have cfg := congrArg Port.cfg core
  exact ⟨r, found, wm, cfg⟩

theorem Hub.watermarks_wms (h : Hub) : h.watermarks.ports.map Port.wm = h.ports.map Port.wm := by
  have same := congrArg (List.map Port.wm) h.watermarks_portCores
  simp only [Hub.portCores, List.map_map] at same
  exact same

/-- The FC words and levels that hold a port. -/
def Strm.holds (s : Strm) (p : Nat) : Bool := (List.range 4).any fun n =>
  bitOf (s.fc.getD n 0) 30 && !bitOf (s.fc.getD n 0) 5 && fld (s.fc.getD n 0) 4 0 == p &&
    (s.fci.getD n false != bitOf (s.fc.getD n 0) 29)

theorem Strm.holds_iff (s : Strm) (p : Nat) : s.holds p = true ↔ ∃ n < 4, bitOf (s.fc.getD n 0) 30 = true ∧ bitOf (s.fc.getD n 0) 5 = false ∧
    fld (s.fc.getD n 0) 4 0 = p ∧ s.fci.getD n false ≠ bitOf (s.fc.getD n 0) 29 := by
  simp only [Strm.holds, List.any_eq_true, List.mem_range, Bool.and_eq_true, Bool.not_eq_true', beq_iff_eq, bne_iff_ne, and_assoc]

theorem Hub.fciHolds_getElem? (h : Hub) {p : Nat} {q : Port} (there : h.fciHolds.ports[p]? = some q) : q.fciHold = h.strm.holds p := by
  change (h.ports.mapIdx _)[p]? = some q at there
  rw [List.getElem?_mapIdx] at there
  obtain ⟨r, -, rfl⟩ := Option.map_eq_some_iff.1 there
  rfl

theorem Hub.strmFcSet_bad {h : Hub} {pair : Nat} {w : Word}
    (bad : 4 ≤ pair ∨ onlyBits w 0xE000003F = false ∨ (bitOf w 5 = false ∧ h.plainPort (fld w 4 0) = false)) :
    h.strmFcSet pair w = h.refuse St.badArg := by
  refine if_pos ?_
  obtain beyond | reserved | ⟨off, other⟩ := bad
  · exact .inl beyond
  · exact .inr (.inl (by rw [reserved]; rfl))
  · exact .inr (.inr (by rw [off, other]; rfl))

theorem Hub.strmFcSet_runs {h : Hub} {pair : Nat} {w : Word} (within : pair < 4) (bits : onlyBits w 0xE000003F = true)
    (serves : bitOf w 5 = true ∨ (h.plainPort (fld w 4 0) = true ∧ h.dieDown (fld w 4 0 / 4) = false)) : h.strmFcSet pair w =
      ((({ h with strm := { h.strm with fc := modAt h.strm.fc pair fun _ => w } } : Hub).fciHolds).watermarks).ok [] := by
  refine (if_neg ?_).trans (h.onDies_up (fun d named => ?_) _)
  · rw [bits]
    obtain on | ⟨plain, -⟩ := serves
    · simp [on]
      omega
    · simp [plain]
      omega
  · split at named
    · cases named
    next off =>
      obtain ⟨-, up⟩ := serves.resolve_left off
      exact List.mem_singleton.1 named ▸ up

/-! ## STRM_XSTAT and XING (R266) -/

/-- A run over a list without repeats of which one element alone acts. -/
theorem forAll_once_nodup {α : Type} {f : α → Hub → Hub} {h g : Hub} {a : α} {l : List α} (once : l.Nodup) (mem : a ∈ l)
    (before : ∀ b ∈ l, b ≠ a → f b h = h) (acts : f a h = g) (after : ∀ b ∈ l, b ≠ a → f b g = g) : forAll l f h = g := by
  induction l with
  | nil => cases mem
  | cons b l ih =>
    obtain ⟨fresh, rest⟩ := List.nodup_cons.1 once
    by_cases first : b = a
    · subst first
      show forAll l f (f b h) = g
      rw [acts]
      exact forAll_fixed l fun c named => after c (List.mem_cons_of_mem _ named) fun same => fresh (same ▸ named)
    · show forAll l f (f b h) = g
      rw [before b List.mem_cons_self first]
      exact ih rest ((List.mem_cons.1 mem).resolve_left (Ne.symm first)) (fun c named => before c (List.mem_cons_of_mem _ named))
        fun c named => after c (List.mem_cons_of_mem _ named)

/-- The record of one merge counter, where it is not zero. -/
def Hub.xingOne (d r : Nat) (h : Hub) : Hub :=
  if (h.die d).xing.getD r 0 = 0 then h else h.notice (unitDie d) 0x0601 (argN r) (argN ((h.die d).xing.getD r 0))

theorem Hub.xing_eq (h : Hub) : h.xing = forAll (List.range h.nDies) (fun d g => forAll (List.range 11) (Hub.xingOne d) g) h := rfl

theorem Hub.die_core_of_dieCores {a b : Hub} (same : a.dieCores = b.dieCores) (d : Nat) : (a.die d).core = (b.die d).core := by
  have entry := congrArg (fun l => l[d]?) same
  simp only [Hub.dieCores, List.getElem?_map] at entry
  rw [Hub.die, Hub.die, List.getD_eq_getElem?_getD, List.getD_eq_getElem?_getD]
  cases left : a.dies[d]? <;> cases right : b.dies[d]? <;> rw [left, right] at entry <;> simp_all

theorem Hub.die_xing_of_dieCores {a b : Hub} (same : a.dieCores = b.dieCores) (d : Nat) : (a.die d).xing = (b.die d).xing := by
  have core := congrArg Die.xing (Hub.die_core_of_dieCores same d)
  exact core

theorem Hub.xingOne_rests {d r : Nat} {h : Hub} (zero : (h.die d).xing.getD r 0 = 0) : Hub.xingOne d r h = h := if_pos zero

theorem Hub.xing_rests {h : Hub} (zero : ∀ d i, d < h.nDies → i < 11 → (h.die d).xing.getD i 0 = 0) : h.xing = h :=
  forAll_fixed _ fun d mem => forAll_fixed _ fun i there => Hub.xingOne_rests (zero d i (List.mem_range.1 mem) (List.mem_range.1 there))

theorem Hub.xing_one {h : Hub} {d r : Nat} (die : d < h.nDies) (counter : r < 11) (some : (h.die d).xing.getD r 0 ≠ 0)
    (others : ∀ e i, e < h.nDies → i < 11 → (e ≠ d ∨ i ≠ r) → (h.die e).xing.getD i 0 = 0) :
    h.xing = h.notice (unitDie d) 0x0601 (argN r) (argN ((h.die d).xing.getD r 0)) := by
  have kept (e : Nat) := Hub.die_xing_of_dieCores (h.notice_dieCores (unitDie d) 0x0601 (argN r) (argN ((h.die d).xing.getD r 0))) e
  refine forAll_once_nodup List.nodup_range (List.mem_range.2 die) (fun e mem other => ?_) ?_ fun e mem other => ?_
  · exact forAll_fixed _ fun i there => Hub.xingOne_rests (others e i (List.mem_range.1 mem) (List.mem_range.1 there) (.inl other))
  · refine forAll_once_nodup List.nodup_range (List.mem_range.2 counter) (fun i there other => ?_) (if_neg some) fun i there other => ?_
    · exact Hub.xingOne_rests (others d i die (List.mem_range.1 there) (.inr other))
    · refine Hub.xingOne_rests ?_
      rw [kept]
      exact others d i die (List.mem_range.1 there) (.inr other)
  · refine forAll_fixed _ fun i there => Hub.xingOne_rests ?_
    rw [kept]
    exact others e i (List.mem_range.1 mem) (List.mem_range.1 there) (.inl other)

theorem Hub.xing_dieCores (h : Hub) : h.xing.dieCores = h.dieCores :=
  forAll_dieCores _ (fun _ g => forAll_dieCores _ (fun _ k => ite_keeps Hub.dieCores rfl (k.notice_dieCores ..)) _ g) _ h

theorem Hub.xing_tm (h : Hub) : h.xing.tm = h.tm :=
  forAll_tm _ (fun _ g => forAll_tm _ (fun _ k => ite_keeps Hub.tm rfl (k.notice_tm ..)) _ g) _ h

/-- A die with its merge counters cleared. -/
def Die.uncrossed (x : Die) : Die := { x with xing := List.replicate 11 0 }

theorem Hub.strmXstat_runs {h : Hub} {dies : List Nat} (up : Named h dies) : h.strmXstat dies =
    ({ h with dies := modAll h.dies (h.named dies) fun _ => Die.uncrossed } : Hub).ok
      ((h.named dies).flatMap fun d => (h.die d).xing.flatMap (be 1) ++ pad 1) := by
  rw [← forAll_setDie (f := Die.uncrossed) (fun _ => rfl)]
  exact Hub.readMask_runs up _

theorem Named.there {h : Hub} {dies : List Nat} (up : Named h dies) {d : Nat} (named : d ∈ h.named dies) :
    h.dies[d]? = some (h.die d) := by
  obtain ⟨⟨-, -, length, -⟩, present⟩ := up
  rw [Hub.die, List.getD_eq_getElem?_getD, List.getElem?_eq_getElem (length ▸ (present d named).1)]
  rfl

theorem Hub.strmCfgSet_good {h : Hub} {w : Word} (bits : onlyBits w 0x0000FFFF = true) (least : 10 ≤ fld w 15 0) (most : fld w 15 0 ≤ 10000) :
    h.strmCfgSet w = ({ h with strm := { h.strm with cfg := w } } : Hub).ok [] := by
  refine if_neg ?_
  rw [bits, Bool.not_true]
  simp
  omega

theorem Hub.strmCfgSet_bad {h : Hub} {w : Word} (bad : onlyBits w 0x0000FFFF = false ∨ fld w 15 0 < 10 ∨ 10000 < fld w 15 0) :
    h.strmCfgSet w = h.refuse St.badArg := by
  refine if_pos (bad.imp_left fun reserved => ?_)
  rw [reserved]
  rfl

end Sys2Proof.Machine

open Sys2Proof Sys2Proof.Machine

/-- Settles O33. That STRM_FC_SET looks at the port also with both enables 0 is the model's reading (log entry 30). -/
theorem streamSettings : Obligations.StreamSettings := by
  unfold Obligations.StreamSettings
  intro s p pair pin w lvl dies
  refine ⟨fun up plain high low order => ?_, fun high most low order => ?_, fun bad => next_congr (Hub.strmWmSet_bad bad), fun up plain => ?_,
    next_congr (if_pos rfl), fun beyond plain => ?_, fun present plain down => ?_, fun shaped within bits serves => ?_,
    fun bad => next_congr (Hub.strmFcSet_bad bad), ⟨_, rfl, rfl, rfl, fun i q there => ?_⟩, fun up => ?_,
    fun d r die counter some others => next_congr (Hub.xing_one die counter some others), fun zero => next_same (Hub.xing_rests zero),
    ⟨_, rfl, ?_, s.hub.xing_tm⟩, fun bits least most => next_congr (Hub.strmCfgSet_good bits least most),
    fun bad => next_congr (Hub.strmCfgSet_bad bad), rfl⟩
  · have set := s.hub.setPort_getElem?_same (PortUp.there up) fun q => { q with wm := w }
    obtain ⟨r, found, wm, cfg⟩ := Hub.watermarks_getElem? _ set
    refine ⟨_, r, next_congr (Hub.strmWmSet_port up plain high low order), rfl, found, wm, cfg, fun i other => ?_⟩
    have kept := congrArg (fun l => l[i]?) (Hub.watermarks_wms (s.hub.setPort p fun q => { q with wm := w }))
    simp only [List.getElem?_map, s.hub.setPort_getElem?_other (Ne.symm other)] at kept
    exact kept
  · obtain ⟨hi, fco, strm⟩ := Hub.watermarks_strm { s.hub with strm := { s.hub.strm with localWm := w } }
    exact ⟨_, next_congr (Hub.strmWmSet_local high most low order), rfl, congrArg Strm.localWm strm, Hub.watermarks_wms _⟩
  · exact next_congr ((Hub.strmWmGet_port plain).trans ((if_neg (Nat.not_le.2 up.2.1)).trans (s.hub.onDies_one_up up.2.2 _)))
  · exact next_congr ((Hub.strmWmGet_port plain).trans (if_pos beyond))
  · exact next_congr ((Hub.strmWmGet_port plain).trans ((if_neg (Nat.not_le.2 present)).trans (s.hub.onDies_one_down down _)))
  · obtain ⟨-, -, -, -, -, -, -, -, -, length, -⟩ := shaped
    obtain ⟨hi, fco, strm⟩ := Hub.watermarks_strm
      (({ s.hub with strm := { s.hub.strm with fc := modAt s.hub.strm.fc pair fun _ => w } } : Hub).fciHolds)
    have fc : ((({ s.hub with strm := { s.hub.strm with fc := modAt s.hub.strm.fc pair fun _ => w } } : Hub).fciHolds).watermarks).strm.fc =
        s.hub.strm.fc.modify pair fun _ => w := congrArg Strm.fc strm
    refine ⟨_, next_congr (Hub.strmFcSet_runs within bits serves), rfl, ?_, fun i other => ?_⟩
    · refine (congrArg (fun l => l[pair]?) fc).trans ?_
      rw [List.getElem?_modify, List.getElem?_eq_getElem (length ▸ within)]
      simp
    · refine (congrArg (fun l => l[i]?) fc).trans ?_
      rw [List.getElem?_modify]
      simp [Ne.symm other]
  · rw [Hub.fciHolds_getElem? _ there]
    exact Strm.holds_iff _ i
  · refine ⟨_, next_congr (Hub.strmXstat_runs up), rfl, fun d named => ?_, fun d other => modAll_getElem?_notMem _ _ other⟩
    exact ⟨_, modAll_getElem?_mem (fun _ => Die.uncrossed) (Named.there up named) named, rfl⟩
  · have same := congrArg (List.map Die.xing) s.hub.xing_dieCores
    simp only [Hub.dieCores, List.map_map] at same
    exact same

end

section
/-! PROOFS. Routes of flows (R237, R391). -/

namespace Sys2Proof.Machine

theorem Flow.mark_off {f : Flow} (off : f.dest = .off) (t : Nat) (i : Item) : (f.mark t i).dest = .off := by
  have full : f.full = true := by simp [Flow.full, off]
  have closed (till : Nat) : f.close till = f := if_pos full
  unfold Flow.mark
  rw [closed]
  split
  · exact off
  · rw [ite_self]
    dsimp only
    split <;> exact off

/-- A mark for which the filling packet has no room closes it, and the flow goes to its next destination. -/
theorem Flow.mark_moves {f : Flow} (started : f.started = true) (open' : f.full = false) {d : Dest} (next : f.destNext = some d) {i : Item}
    (noRoom : f.fits i.size = false) (t : Nat) : (f.mark t i).dest = d := by
  have closes (till : Nat) : (f.close till).dest = d := by
    unfold Flow.close
    rw [if_neg (by simp [open'])]
    dsimp only
    rw [next]
    split <;> rfl
  have notYet : ¬(!f.started) = true := by simp [started]
  have full : ¬f.fits i.size = true := by simp [noRoom]
  unfold Flow.mark
  dsimp only
  rw [if_neg notYet, if_neg full]
  split <;> exact closes _

theorem Flow.foldl_mark_off {f : Flow} (off : f.dest = .off) (t : Nat) (item : Nat → Item) (l : List Nat) :
    (l.foldl (fun f c => f.mark t (item c)) f).dest = .off := by
  induction l generalizing f with
  | nil => exact off
  | cons c l ih => exact ih (Flow.mark_off off t _)

/-- LIMIT's marks of a flow whose packet has no room for the first of them, and which goes nowhere next. -/
theorem Flow.foldl_mark_moves {f : Flow} (started : f.started = true) (open' : f.full = false) (next : f.destNext = some .off)
    {item : Nat → Item} (noRoom : ∀ c, f.fits (item c).size = false) (t : Nat) {l : List Nat} (some : l ≠ []) :
    (l.foldl (fun f c => f.mark t (item c)) f).dest = .off := by
  obtain ⟨c, l, rfl⟩ := List.exists_cons_of_ne_nil some
  exact Flow.foldl_mark_off (Flow.mark_moves started open' next (noRoom c) t) t item l

@[simp] theorem Flow.mark_key (f : Flow) (t : Nat) (i : Item) : (f.mark t i).key = f.key := by
  have closed (till : Nat) : (f.close till).key = f.key := by
    unfold Flow.close
    dsimp only
    split
    · rfl
    · split <;> rfl
  have placed (g : Flow) : (if g.filling.isEmpty then { g with lead := g.lead ++ [i] } else { g with filling := g.filling ++ [i] }).key = g.key := by
    split <;> rfl
  unfold Flow.mark
  split
  · rfl
  · refine (placed _).trans ?_
    split
    · rfl
    · exact closed _

theorem Flow.foldl_mark_key (f : Flow) (t : Nat) (item : Nat → Item) (l : List Nat) : (l.foldl (fun f c => f.mark t (item c)) f).key = f.key := by
  induction l generalizing f with
  | nil => rfl
  | cons c l ih => exact (ih _).trans (f.mark_key t _)

/-- A flow of the spool that is to stop once its packet closes, and whose packet has no room for a mark. -/
structure Flow.Stranded (f : Flow) : Prop where
  started : f.started = true
  port : f.dest = .port 0
  next : f.destNext = some .off
  open' : f.full = false
  lead : 16384 < itemsSize f.lead

theorem Flow.Stranded.toLimit {f : Flow} (s : f.Stranded) (from' : Nat) : (f.toLimit from').Stranded := by
  obtain ⟨started, port, next, open', lead⟩ := s
  unfold Flow.toLimit
  split
  · have longer (l : List Item) : itemsSize f.lead ≤ itemsSize (f.lead ++ l) := by simp [itemsSize]
    have lead' : ∀ g : Flow, g = f.uncount f.filling → g.started = true ∧ g.dest = .port 0 ∧ g.destNext = some .off ∧ g.full = false := by
      rintro g rfl
      unfold Flow.uncount
      split
      · exact ⟨started, port, next, open'⟩
      · exact ⟨started, port, next, open'⟩
    obtain ⟨h1, h2, h3, h4⟩ := lead' _ rfl
    exact ⟨h1, h2, h3, h4, lt_of_lt_of_le lead ((longer _).trans (by rw [List.append_assoc]))⟩
  · exact ⟨started, port, next, open', lead⟩

theorem Flow.toLimit_key (f : Flow) (from' : Nat) : (f.toLimit from').key = f.key := by
  unfold Flow.toLimit Flow.uncount
  split
  · dsimp only
    split <;> rfl
  · rfl

theorem Flow.Stranded.noRoom {f : Flow} (s : f.Stranded) (n : Nat) : f.fits n = false := by
  have opening : itemsSize f.lead ≤ itemsSize f.opening := by
    simp [Flow.opening, itemsSize]
  have := s.lead
  unfold Flow.fits
  simp only [decide_eq_false_iff_not]
  omega

theorem iter_still {α : Type} {f : α → α} (still : ∀ a, f a = a) (n : Nat) (a : α) : iter f n a = a :=
  iter_keeps id f still n a

/-- Where the spool comes to LIMIT, a stranded flow of skim goes off: the mark of a channel closes its packet. -/
theorem Hub.spoolTouch_limit {h : Hub} {d c : Nat} {f : Flow} (turns : (h.die d).store.spoolNext (h.spoolBytes d) = .limit)
    (was : (h.die d).store.spool ≠ .limit) (one : h.flows = [f]) (key : f.key = ⟨d, 0, 0⟩) (stranded : f.Stranded)
    (there : c < h.nChans) (built : (h.ch c).skimBuilt = true) (enabled : (h.ch c).skimEn = true)
    (own : ∀ st, (h.setDie d fun x => { x with store := { x.store with spool := st } }).builder c = d) :
    ∃ g, (h.spoolTouch d []).flows = [g] ∧ g.key = ⟨d, 0, 0⟩ ∧ g.dest = .off := by
  have run : h.spoolTouch d [] = h.spoolTouch d [] := rfl
  conv at run => rhs; unfold Hub.spoolTouch
  extract_lets st size nx h0 g mine spooled g0 tooFull newest g1 g2 g3 touched full at run
  have limit : nx = .limit := turns
  clear_value nx
  subst limit
  rw [run]
  have inLimit : touched = _ := if_neg fun same => was same.symm
  dsimp only at inLimit
  have own' : mine c = true := beq_iff_eq.2 (own _)
  have found : g.findFlow ⟨d, 0, 0⟩ = some f := by simp [g, Hub.findFlow, one, key]
  have spooled' : spooled = true := by simp [spooled, found, Flow.spooled, key, stranded.port]
  have none' (k : Hub) : newest k = none := by
    simp [newest, Flow.canUnclose]
  clear_value tooFull
  have back : g1 = g := by
    unfold g1
    refine iter_still (fun k => ?_) _ _
    rw [none']
    exact ite_self _
  have variant : g1.ident = h.ident := (congrArg Hub.ident back).trans rfl
  have ident : g3.nChans = h.nChans := congrArg (fun i : Ident => 128 * i.variant.dies) variant
  have listed : c ∈ (List.range g3.nChans).filter fun c => mine c && spooled && (h0.ch c).skimBuilt && (h0.ch c).skimEn := by
    simp [own', spooled', h0, built, enabled]
    exact lt_of_lt_of_le there (le_of_eq ident.symm)
  have flows2 : g2.flows = [f.toLimit (g1.openFrom f.key)] := by
    simp [g2, back, g, one, key]
  have flows3 : g3.flows = [f.toLimit (g1.openFrom f.key)] := flows2
  have strandedStill := stranded.toLimit (g1.openFrom f.key)
  have keyStill := (f.toLimit_key (g1.openFrom f.key)).trans key
  have moved := Flow.foldl_mark_moves (strandedStill.started) strandedStill.open' strandedStill.next
    (item := fun c => rateItem c 0 1 (h0.ch c).words 1) (fun _ => strandedStill.noRoom _) g3.tm.now (List.ne_nil_of_mem listed)
  have keyEnd := (f.toLimit (g1.openFrom f.key)).foldl_mark_key g3.tm.now (fun c => rateItem c 0 1 (h0.ch c).words 1)
    ((List.range g3.nChans).filter fun c => mine c && spooled && (h0.ch c).skimBuilt && (h0.ch c).skimEn)
  generalize endFlow : List.foldl _ _ _ = last at moved keyEnd
  have flows4 : touched.flows = [last] := by
    rw [inLimit, Hub.setFlow_flows, flows3]
    simp [keyStill, endFlow]
  have key' : last.key = ⟨d, 0, 0⟩ := keyEnd.trans keyStill
  refine ⟨if last.key.die == d && last.spooled then { last with stuck := full } else last, congrArg (List.map _) flows4, ?_, ?_⟩
  · split <;> exact key'
  · split <;> exact moved

theorem Hub.watermarks_flows (h : Hub) : h.watermarks.flows = h.flows := by
  refine forAll_keeps Hub.flows _ (fun i g => ?_) _ _
  dsimp only
  split <;> rfl

/-- Skim's flow of D0, half changed over: it stops with its packet, which has room for nothing more. -/
def Flow.stranded : Flow :=
  { Flow.init ⟨0, 0, 0⟩ with started := true, destNext := some .off, lead := [⟨2, 4095, 0, pad 16384⟩] }

theorem Flow.stranded_is : Flow.stranded.Stranded := by
  have long : 16384 < (⟨2, 4095, 0, pad 16384⟩ : Item).size := by
    rw [Item.size, pad, List.length_replicate, ceilDiv]
    norm_num
  exact ⟨rfl, rfl, rfl, rfl, by simpa [Flow.stranded, itemsSize] using long⟩

/-- A channel whose skim is built. -/
def Chan.building (x : Chan) : Chan := { x with skimEn := true, skimBuilt := true }
/-- A die that gives no page to its spool. -/
def Die.unspooled (x : Die) : Die := { x with store := { x.store with part := 0 } }
/-- A serving hub whose skim flow of D0 is stranded while D0's spool is about to come to LIMIT. -/
def strandedHub : Hub := { (Hub.serving.setCh 0 Chan.building).setDie 0 Die.unspooled with flows := [Flow.stranded] }

theorem Store.spoolNext_limit {s : Store} (full : s.spool = .fullRate) (pages : s.spoolPages = 0) (occ : Nat) :
    s.spoolNext occ = .limit := by
  simp [Store.spoolNext, full, pages]

theorem strandedHub_die : strandedHub.die 0 = { Die.reset with inService := true }.unspooled := by
  have first : (Hub.serving.dies)[0]? = some { Die.reset with inService := true } := by
    rw [Hub.serving_dies, List.getElem?_replicate_of_lt (by decide)]
  rw [Hub.die, strandedHub, Hub.setDie_dies, List.getD_eq_getElem?_getD, List.getElem?_modify]
  exact congrArg (fun o : Option Die => (o.map Die.unspooled).getD Die.reset) first

theorem strandedHub_ch : strandedHub.ch 0 = Chan.reset.building := Hub.serving_setCh_ch _

theorem strandedHub_touched : ∃ g, (strandedHub.flowTouch 0).flows = [g] ∧ g.key = ⟨0, 0, 0⟩ ∧ g.dest = .off := by
  rw [Hub.flowTouch, Hub.watermarks_flows]
  refine Hub.spoolTouch_limit (c := 0) ?_ ?_ rfl rfl Flow.stranded_is (by decide) ?_ ?_ (fun st => ?_)
  · rw [strandedHub_die]
    exact Store.spoolNext_limit rfl (by decide) _
  · rw [strandedHub_die]
    decide
  · rw [strandedHub_ch]
    rfl
  · rw [strandedHub_ch]
    rfl
  · have serves : ((strandedHub.setDie 0 fun x => { x with store := { x.store with spool := st } }).die 0).faulted = false := by
      exact (Hub.setDie_die_view _ 0 0 (view := Die.faulted) (by intro; rfl)).trans (congrArg Die.faulted strandedHub_die)
    rw [Hub.builder]
    exact if_neg (by rw [show chDie 0 = 0 from rfl, serves]; decide)

theorem strandedHub_routed : strandedHub.toPort ⟨0, 0, 0⟩ 0 = strandedHub.flowTouch 0 := by
  have none' : strandedHub.strm.localFlow = none := rfl
  have still : (strandedHub.setFlow ⟨0, 0, 0⟩ fun f => f.reroute (.port 0)) = strandedHub := rfl
  unfold Hub.toPort
  rw [none']
  dsimp only
  rw [if_neg (by decide), if_neg (by decide), still]

end Sys2Proof.Machine

open Sys2Proof Sys2Proof.Machine

/-- Refutes O31: a flow of skim that stops once its packet closes is routed to P00, and the spool of its die comes to LIMIT
with that request. The mark that LIMIT puts into the packet has no room there, so that the packet closes, and the flow is off. -/
theorem not_streamEnables : ¬ Obligations.StreamEnables := by
  unfold Obligations.StreamEnables
  intro h
  obtain ⟨g, flows, key, off⟩ := strandedHub_touched
  have route := (h.2 ⟨strandedHub, []⟩ 0 0).2.1
  have up : strandedHub.dieDown 0 = false := by
    rw [Hub.dieDown, strandedHub_die]
    rfl
  obtain ⟨t, run, -, moves, -⟩ := route rfl (by decide) (by decide) (.inl rfl) up
  have ran : exec (.strmRoute 0 0) ⟨strandedHub, []⟩ = .next ⟨(strandedHub.flowTouch 0).ok [], []⟩ := by
    refine next_congr ?_
    unfold Hub.strmRoute
    dsimp only
    rw [if_neg (by decide), if_neg (by decide), if_neg (by decide), Hub.onDies_one_up _ up]
    exact congrArg (Hub.ok · []) strandedHub_routed
  rw [ran] at run
  injection run with run
  subst run
  obtain ⟨f, found, port⟩ := moves _ rfl
  have same : f = g := by
    rw [Hub.findFlow, Hub.ok_flows, flows, show FlowKey.of 0 = ⟨0, 0, 0⟩ from rfl] at found
    simpa [key, eq_comm] using found
  rw [same, off] at port
  cases port
end

section
/-! PROOFS. What a spool that changes its state leaves of the flows (R210, R212), and what records and churned streams leave of them. -/

namespace Sys2Proof.Machine

/-- Each flow of the hub g stands in the relation R to the flow of h in its place. -/
def Hub.Recast (R : Flow → Flow → Prop) (h g : Hub) : Prop := ∃ φ, g.flows = h.flows.map φ ∧ ∀ f, R f (φ f)

section Recast
variable {R : Flow → Flow → Prop}

theorem Hub.Recast.of_same (refl : ∀ f, R f f) {h g : Hub} (same : g.flows = h.flows) : h.Recast R g :=
  ⟨id, by rw [same, List.map_id], refl⟩

theorem Hub.Recast.trans (trans : ∀ a b c, R a b → R b c → R a c) {h g k : Hub} (first : h.Recast R g) (second : g.Recast R k) :
    h.Recast R k := by
  obtain ⟨φ, made, keeps⟩ := first
  obtain ⟨ψ, made', keeps'⟩ := second
  exact ⟨ψ ∘ φ, by rw [made', made, List.map_map], fun f => trans _ _ _ (keeps f) (keeps' _)⟩

theorem Hub.Recast.setFlow (refl : ∀ f, R f f) (h : Hub) (k : FlowKey) {φ : Flow → Flow} (keeps : ∀ f, f.key = k → R f (φ f)) :
    h.Recast R (h.setFlow k φ) := by
  refine ⟨fun f => if f.key == k then φ f else f, rfl, fun f => ?_⟩
  dsimp only
  split
  · rename_i named
    exact keeps f (by simpa using named)
  · exact refl f

theorem Hub.Recast.iter (refl : ∀ f, R f f) (trans : ∀ a b c, R a b → R b c → R a c) {φ : Hub → Hub} (keeps : ∀ h : Hub, h.Recast R (φ h))
    (n : Nat) (h : Hub) : h.Recast R (iter φ n h) := by
  induction n generalizing h with
  | zero => exact .of_same refl rfl
  | succ n ih => exact .trans trans (keeps h) (ih _)

/-- Where each flow is recast, so is the one of a key. -/
theorem Hub.Recast.findFlow {h g : Hub} (recast : h.Recast R g) (key : ∀ {a b}, R a b → b.key = a.key) {k : FlowKey} {f : Flow}
    (found : h.findFlow k = some f) : ∃ e, g.findFlow k = some e ∧ R f e := by
  obtain ⟨φ, made, keeps⟩ := recast
  refine ⟨φ f, ?_, keeps f⟩
  have same : (fun e : Flow => e.key == k) ∘ φ = fun e => e.key == k := by
    funext e
    simp [key (keeps e)]
  rw [Hub.findFlow, made, List.find?_map, same]
  exact congrArg (Option.map φ) found

theorem Flow.foldl_mark_rel (refl : ∀ f, R f f) (trans : ∀ a b c, R a b → R b c → R a c) {k : FlowKey}
    (mark : ∀ (f : Flow) t i, f.key = k → R f (f.mark t i)) (t : Nat) (item : Nat → Item) (l : List Nat) (f : Flow) (key : f.key = k) :
    R f (l.foldl (fun f c => f.mark t (item c)) f) := by
  induction l generalizing f with
  | nil => exact refl f
  | cons c l ih => exact trans _ _ _ (mark f t _ key) (ih _ ((f.mark_key t _).trans key))

theorem Flow.canUnclose_kind {f : Flow} {was : Seqs} (can : f.canUnclose was = true) : f.key.kind ≤ 2 := by
  unfold Flow.canUnclose at can
  split at can
  · simp only [Bool.and_eq_true, decide_eq_true_eq] at can
    tauto
  · cases can

/-- The flow whose packet LIMIT takes back next is one of those that can give one back. -/
theorem Flow.newest_of {P : Flow → Prop} {l : List Flow} (all : ∀ f ∈ l, P f) {o : Option Flow} (first : ∀ f, o = some f → P f) {f : Flow}
    (last : l.foldl (fun (o : Option Flow) f => match o with
      | none => some f
      | some g => if g.covStart ≤ f.covStart then some f else o) o = some f) : P f := by
  induction l generalizing o with
  | nil => exact first f last
  | cons e l ih =>
    refine ih (fun f here => all f (List.mem_cons_of_mem _ here)) (fun f found => ?_) last
    dsimp only at found
    split at found
    · exact Option.some.inj found ▸ all e List.mem_cons_self
    · split at found
      · exact Option.some.inj found ▸ all e List.mem_cons_self
      · exact first f found

/-- What the spool of a die does to its flows: packets taken back and LIMIT's begin for the flows, its marks for that of skim, and what was
not covered stated once it ends. -/
theorem Hub.spoolTouch_recast (refl : ∀ f, R f f) (trans : ∀ a b c, R a b → R b c → R a c) (unclose : ∀ f : Flow, f.key.kind ≤ 2 → R f f.unclose)
    (limit : ∀ (f : Flow) t, R f (f.toLimit t)) (covered : ∀ (f : Flow) l, R f { f with limitFrom := none, lead := l })
    (stuck : ∀ (f : Flow) b, R f { f with stuck := b }) (h : Hub) (d : Nat) (was : Seqs)
    (mark : (h.die d).store.spoolNext (h.spoolBytes d) = .limit → (h.die d).store.spool ≠ .limit →
      ∀ (f : Flow) t i, f.key.die = d → f.key.kind = 0 → R f (f.mark t i)) :
    h.Recast R (h.spoolTouch d was) := by
  have run : h.spoolTouch d was = h.spoolTouch d was := rfl
  conv at run => rhs; unfold Hub.spoolTouch
  extract_lets st size nx h0 g mine spooled g0 tooFull newest g1 g2 g3 touched full at run
  rw [run]
  have turn : st.spoolNext (h.spoolBytes d) = nx := rfl
  have records : ∀ k f, newest k = some f → f.key.kind ≤ 2 := fun k f last =>
    Flow.newest_of (P := fun f => f.key.kind ≤ 2) (fun e here => Flow.canUnclose_kind (by simpa using (List.mem_filter.1 here).2 : _ ∧ _).2)
      (by simp) last
  clear_value tooFull newest full nx
  have here : h.Recast R touched := by
    unfold touched
    split
    · exact .of_same refl rfl
    · rename_i turned
      split
      · refine ⟨fun f => match f.limitFrom with
          | some t0 => if f.key.die == d then { f with limitFrom := none, lead := f.lead ++ [gapItem 4095 t0 g0.tm.now 1] } else f
          | none => f, rfl, fun f => ?_⟩
        dsimp only
        split
        · split
          · exact covered f _
          · exact refl f
        · exact refl f
      · have first : h.Recast R g1 := by
          refine .trans trans (.of_same refl (g := g) rfl) (.iter refl trans (fun k => ?_) _ _)
          split
          · split
            · rename_i e last
              exact .setFlow refl _ _ fun f same => unclose f (same ▸ records _ e last)
            · exact .of_same refl rfl
          · exact .of_same refl rfl
        have second : g1.Recast R g3 := by
          refine ⟨fun f => if f.key.die == d then f.toLimit (g1.openFrom f.key) else f, rfl, fun f => ?_⟩
          dsimp only
          split
          · exact limit f _
          · exact refl f
        refine .trans trans (.trans trans first second) (.setFlow refl _ _ fun f key => ?_)
        refine Flow.foldl_mark_rel refl trans (fun e t i here => mark turn (fun same => turned same.symm) e t i ?_ ?_) _ _ _ f rfl
        · rw [here, key]
        · rw [here, key]
      · exact .of_same refl rfl
  refine .trans trans here ⟨fun f => if f.key.die == d && f.spooled then { f with stuck := full } else f, rfl, fun f => ?_⟩
  dsimp only
  split
  · exact stuck f _
  · exact refl f
end Recast
/-! ## What records leave of a flow -/

/-- A flow's key, its SEQs sent and acknowledged, its soft flush, whether it has started, and its sweep where it has: what records and
  churned
streams leave of it. -/
def Flow.core (f : Flow) : Flow :=
  { Flow.init f.key with started := f.started, softFlush := f.softFlush, held := f.held, lastAck := f.lastAck, ackBad := f.ackBad,
                         sw := if f.started then f.sw else 0 }

theorem Flow.core_eq (f : Flow) : f.core =
    { Flow.init f.key with started := f.started, softFlush := f.softFlush, held := f.held, lastAck := f.lastAck, ackBad := f.ackBad,
                           sw := if f.started then f.sw else 0 } := by
  cases f
  rfl

/-- The cores of a hub's flows. -/
def Hub.flowCores (h : Hub) := h.flows.map Flow.core

theorem forAll_flowCores {α : Type} (f : α → Hub → Hub) (keeps : ∀ a h, (f a h).flowCores = h.flowCores) (l : List α) (h : Hub) :
    (forAll l f h).flowCores = h.flowCores := forAll_keeps Hub.flowCores f keeps l h
theorem iter_flowCores (f : Hub → Hub) (keeps : ∀ h, (f h).flowCores = h.flowCores) (n : Nat) (h : Hub) :
    (iter f n h).flowCores = h.flowCores := iter_keeps Hub.flowCores f keeps n h

theorem Hub.map_core_flows (h : Hub) : h.flows.map Flow.core = h.flowCores := rfl

theorem Hub.flowCores_mk {clk : Clk} {tm : Tm} {chans : List Chan} {octs : List Octet} {reps : List Rep} {dies : List Die}
    {trg : Trg} {caps : List (Option Capture)} {nextTrain : Nat} {saved : List SavedChurn} {jobs : List ChurnJob} {nextHandle nextJob : Nat}
    {flows : List Flow} {strm : Strm} {hk : Hk} {sep : Sep} {ports : List Port} {enm : Enum} {mgmt : Mgmt} {dbw : Dbw} {fseal : Seal}
    {flt : Flt} {cal : Cal} {pwr : Pwr} {pmbus : Pmbus} {boot : Boot} {flash : Flash} {tag : Tag} {tap : Tap} {fresh : Nat} {ident : Ident}
      :
    (Hub.mk ident clk tm chans octs reps dies trg caps nextTrain saved jobs nextHandle nextJob flows strm hk sep ports enm mgmt dbw
      fseal flt cal pwr pmbus boot flash tag tap fresh).flowCores = flows.map Flow.core := rfl

theorem Hub.setFlow_flowCores (h : Hub) (k : FlowKey) {f : Flow → Flow} (keeps : ∀ x, (f x).core = x.core) :
    (h.setFlow k f).flowCores = h.flowCores := by
  rw [Hub.flowCores, Hub.setFlow, List.map_map]
  refine List.map_congr_left fun x _ => ?_
  simp only [Function.comp_apply]
  split
  · exact keeps x
  · rfl

@[simp] theorem Flow.close_core (f : Flow) (till : Nat) : (f.close till).core = f.core := by
  unfold Flow.close
  dsimp only
  split
  · rfl
  · split <;> rfl

@[simp] theorem Flow.mark_core (f : Flow) (t : Nat) (i : Item) : (f.mark t i).core = f.core := by
  have placed (g : Flow) : (if g.filling.isEmpty then { g with lead := g.lead ++ [i] } else { g with filling := g.filling ++ [i] }).core =
    g.core := by
    split <;> rfl
  unfold Flow.mark
  split
  · rfl
  · refine (placed _).trans ?_
    split
    · rfl
    · exact f.close_core _

@[simp] theorem Flow.uncount_core (l : List Item) (f : Flow) : (f.uncount l).core = f.core := by
  unfold Flow.uncount
  split <;> rfl

@[simp] theorem Flow.unclose_core (f : Flow) : f.unclose.core = f.core := by
  have undone (p : Packet) (l : List Item) (g : Flow) : ({ g.uncount l with
      nextSeq := p.seq, covStart := p.covStart, since := min p.since f.since, era := eraAll p.covStart, filling := [],
      lead := p.items.filter Item.isNote ++ f.lead.filter (fun i => i.eraCause != some 1) ++ f.filling.filter Item.isNote } : Flow).core
      = g.core := g.uncount_core l
  unfold Flow.unclose
  dsimp only
  split
  · exact undone _ _ _
  · exact undone _ _ _
  · rfl

@[simp] theorem Flow.toLimit_core (f : Flow) (t : Nat) : (f.toLimit t).core = f.core := by
  unfold Flow.toLimit
  split
  · exact f.uncount_core f.filling
  · rfl

theorem Hub.Recast.flowCores {h g : Hub} (recast : h.Recast (fun a b => b.core = a.core) g) : g.flowCores = h.flowCores := by
  obtain ⟨φ, made, keeps⟩ := recast
  rw [Hub.flowCores, made, List.map_map]
  exact List.map_congr_left fun f _ => keeps f

@[simp] theorem Hub.spoolTouch_flowCores (h : Hub) (d : Nat) (was : Seqs) : (h.spoolTouch d was).flowCores = h.flowCores :=
  Hub.Recast.flowCores (h.spoolTouch_recast (R := fun a b => b.core = a.core) (fun _ => rfl) (fun _ _ _ first second => second.trans first) (fun f _ => f.unclose_core) Flow.toLimit_core
    (fun _ _ => rfl) (fun _ _ => rfl) d was fun _ _ f t i _ _ => f.mark_core t i)

@[simp] theorem Hub.watermarks_flowCores (h : Hub) : h.watermarks.flowCores = h.flowCores :=
  congrArg (List.map Flow.core) h.watermarks_flows

@[simp] theorem Flow.leadGap_core (g : Item) (f : Flow) : (f.leadGap g).core = f.core := rfl

@[simp] theorem Flow.stateGap_core (f : Flow) (till : Nat) : (f.stateGap till).core = f.core := by
  unfold Flow.stateGap
  split
  · split <;> rfl
  · rfl

@[simp] theorem Flow.gapOn_core (f : Flow) (s b : Nat) : (f.gapOn s b).core = f.core := by
  unfold Flow.gapOn
  split
  · rfl
  · split <;> rfl

@[simp] theorem Flow.discard_core (f : Flow) (now since : Nat) : (f.discard now since).core = f.core := f.gapOn_core since now

@[simp] theorem Flow.advance_core (now : Nat) (f : Flow) : (f.advance now).core = f.core := by
  unfold Flow.advance
  split
  · rfl
  · refine iter_keeps Flow.core _ (fun g => ?_) _ _
    unfold Flow.advance1
    dsimp only
    split
    · rfl
    · exact g.close_core _

@[simp] theorem Flow.reopen_core (f : Flow) (now : Nat) : (f.reopen now).core = f.core := by
  unfold Flow.reopen
  dsimp only
  split
  · split <;> rfl
  · split <;> rfl
  · rfl

@[simp] theorem Flow.join_core (f : Flow) (now since : Nat) (i : Item) : (f.join now since i).core = f.core := by
  unfold Flow.join
  dsimp only
  split
  · exact Flow.close_core _ _
  · rfl

@[simp] theorem Flow.put_core (f : Flow) (now since : Nat) (i : Item) : (f.put now since i).core = f.core := by
  unfold Flow.put
  dsimp only
  simp only [apply_ite Flow.core, join_core, reopen_core, discard_core, close_core, advance_core, stateGap_core, ite_self]

@[simp] theorem Flow.record_core (f : Flow) (now since stream : Nat) (rcd : Bytes) : (f.record now since stream rcd).core = f.core := by
  unfold Flow.record
  dsimp only
  split
  · exact f.put_core ..
  · exact f.put_core ..

@[simp] theorem Flow.cutWords_core (f : Flow) (n : Nat) : (f.cutWords n).core = f.core := rfl

@[simp] theorem Flow.gather_core (f : Flow) (x : SweepSample) : (f.gather x).core = f.core := by
  unfold Flow.gather
  split
  · rfl
  · split <;> rfl

@[simp] theorem Hub.sweepPut_flowCores (h : Hub) (raw : Bool) (c : Nat) (x : SweepSample) : (h.sweepPut raw c x).flowCores = h.flowCores :=
  h.setFlow_flowCores _ fun f => f.gather_core x

@[simp] theorem Hub.emitSince_flowCores (h : Hub) (k : FlowKey) (stream : Nat) (rcd : Bytes) (since : Nat) :
    (h.emitSince k stream rcd since).flowCores = h.flowCores := by
  unfold Hub.emitSince
  split
  · rfl
  · split
    · rfl
    · rw [Hub.watermarks_flowCores, Hub.spoolTouch_flowCores, Hub.setFlow_flowCores _ _ fun f => f.record_core ..]

@[simp] theorem Hub.setCh_flowCores (h : Hub) (c : Nat) (f : Chan → Chan) : (h.setCh c f).flowCores = h.flowCores :=
  congrArg (List.map Flow.core) (Hub.setCh_flows ..)
@[simp] theorem Hub.churnCapture_flowCores (h : Hub) (raw : Bool) (c next : Nat) : (h.churnCapture raw c next).flowCores = h.flowCores := by
  unfold Hub.churnCapture
  split <;> simp only [↓Hub.setCh_flowCores, ↓Hub.flowCores_mk, ↓apply_ite Hub.flowCores, ite_self, ↓Hub.map_core_flows]
@[simp] theorem Hub.tick_flowCores (h : Hub) : h.tick.flowCores = h.flowCores :=
  congrArg (List.map Flow.core) (Hub.tick_flows ..)
@[simp] theorem Hub.setDie_flowCores (h : Hub) (d : Nat) (f : Die → Die) : (h.setDie d f).flowCores = h.flowCores :=
  congrArg (List.map Flow.core) (Hub.setDie_flows ..)
@[simp] theorem Hub.emitRecord_flowCores (h : Hub) (k : FlowKey) (stream : Nat) (rcd : Bytes) :
    (h.emitRecord k stream rcd).flowCores = h.flowCores := by
  simp only [Hub.emitRecord, ↓Hub.emitSince_flowCores]
@[simp] theorem Hub.hkRecord_flowCores (h : Hub) (t kind : Nat) (payload : Bytes) :
    (h.hkRecord t kind payload).flowCores = h.flowCores := by
  simp only [Hub.hkRecord, ↓Hub.emitRecord_flowCores, ↓Hub.flowCores_mk, ↓apply_ite Hub.flowCores, ite_self, ↓Hub.map_core_flows]
@[simp] theorem Hub.recordAt_flowCores (h : Hub) (t kind : Nat) (payload : Bytes) :
    (h.recordAt t kind payload).flowCores = h.flowCores := by
  simp only [Hub.recordAt, ↓Hub.hkRecord_flowCores, ↓Hub.flowCores_mk, ↓apply_ite Hub.flowCores, ite_self, ↓Hub.map_core_flows]
@[simp] theorem Hub.raise_flowCores (h : Hub) (bit : Nat) : (h.raise bit).flowCores = h.flowCores :=
  congrArg (List.map Flow.core) (Hub.raise_flows ..)
@[simp] theorem Hub.logEntry_flowCores (h : Hub) (t : Nat) (event : Bytes) : (h.logEntry t event).flowCores = h.flowCores := by
  simp only [Hub.logEntry, ↓Hub.flowCores_mk, ↓apply_ite Hub.flowCores, ite_self, ↓Hub.map_core_flows]
@[simp] theorem Hub.eventAt_flowCores (h : Hub) (t : Nat) (unit : Word) (code cls count : Nat) (arg0 arg1 : Word) :
    (h.eventAt t unit code cls count arg0 arg1).flowCores = h.flowCores := by
  simp only [Hub.eventAt, ↓Hub.logEntry_flowCores, ↓Hub.raise_flowCores, ↓Hub.recordAt_flowCores, ↓Hub.flowCores_mk, ↓apply_ite
    Hub.flowCores, ite_self, ↓Hub.map_core_flows]
@[simp] theorem Hub.event_flowCores (h : Hub) (unit : Word) (code cls count : Nat) (arg0 arg1 : Word) :
    (h.event unit code cls count arg0 arg1).flowCores = h.flowCores := by
  simp only [Hub.event, ↓Hub.eventAt_flowCores]
@[simp] theorem Hub.notice_flowCores (h : Hub) (unit : Word) (code : Nat) (arg0 arg1 : Word) :
    (h.notice unit code arg0 arg1).flowCores = h.flowCores := by
  simp only [Hub.notice, ↓Hub.event_flowCores]
@[simp] theorem Hub.retireChan_flowCores (h : Hub) (c code count : Nat) : (h.retireChan c code count).flowCores = h.flowCores := by
  unfold Hub.retireChan
  dsimp only
  repeat' split
  all_goals simp only [↓Hub.event_flowCores, ↓Hub.setCh_flowCores, ↓Hub.setDie_flowCores]
@[simp] theorem Hub.spareChan_flowCores (h : Hub) (c code : Nat) (readable : Bool) :
    (h.spareChan c code readable).flowCores = h.flowCores := by
  unfold Hub.spareChan
  dsimp only
  repeat' split
  all_goals simp only [↓Hub.notice_flowCores, ↓Hub.retireChan_flowCores, ↓Hub.setCh_flowCores, ↓Hub.setDie_flowCores]
@[simp] theorem Hub.setEngWin_flowCores (h : Hub) (d : Nat) (u : Word) (w : Option FaultWin) :
    (h.setEngWin d u w).flowCores = h.flowCores := by
  simp only [Hub.setEngWin, ↓Hub.setDie_flowCores]
@[simp] theorem Hub.placeUse_flowCores (h : Hub) (d e c : Nat) (others : List Nat) (get : Chan → Option ChurnUse) (put :
    Option ChurnUse → Chan → Chan) : (h.placeUse d e c others get put).flowCores = h.flowCores := by
  unfold Hub.placeUse
  split
  · rfl
  · split
    · rfl
    · split <;> exact h.setCh_flowCores _ _
@[simp] theorem Hub.moveChurn_flowCores (h : Hub) (d e : Nat) : (h.moveChurn d e).flowCores = h.flowCores := by
  rw [h.moveChurn_eq]
  refine forAll_flowCores _ (fun c g => ?_) _ _
  simp only [Hub.placeUses, ↓apply_ite Hub.flowCores, ↓Hub.notice_flowCores, ↓Hub.placeUse_flowCores, ite_self]
@[simp] theorem Hub.retireEngine_flowCores (h : Hub) (d typ e : Nat) : (h.retireEngine d typ e).flowCores = h.flowCores := by
  simp only [Hub.retireEngine, ↓Hub.moveChurn_flowCores, ↓Hub.setDie_flowCores, ↓apply_ite Hub.flowCores, ite_self, modAt]
@[simp] theorem Hub.engineFail_flowCores (h : Hub) (d typ e code : Nat) (readable passes : Bool) :
    (h.engineFail d typ e code readable passes).flowCores = h.flowCores := by
  unfold Hub.engineFail
  dsimp only
  repeat' split
  all_goals simp only [↓Hub.event_flowCores, ↓Hub.retireEngine_flowCores, ↓Hub.setDie_flowCores, ↓Hub.setEngWin_flowCores,
    ↓Hub.spareChan_flowCores, ↓Hub.flowCores_mk, ↓Hub.map_core_flows]
@[simp] theorem Hub.churnMismatch_flowCores (h : Hub) (d e : Nat) : (h.churnMismatch d e).flowCores = h.flowCores := by
  simp only [Hub.churnMismatch, ↓Hub.engineFail_flowCores, ↓Hub.event_flowCores, ↓Hub.setDie_flowCores, ↓Hub.tick_flowCores, ↓apply_ite
    Hub.flowCores, ite_self,
    modAt]
@[simp] theorem Hub.churnClose_flowCores (h : Hub) (raw : Bool) (c : Nat) : (h.churnClose raw c).flowCores = h.flowCores := by
  unfold Hub.churnClose
  split <;> simp only [↓Hub.churnCapture_flowCores, ↓Hub.churnMismatch_flowCores, ↓Hub.setCh_flowCores, ↓Hub.sweepPut_flowCores,
    ↓Hub.tick_flowCores, ↓apply_ite
    Hub.flowCores, ite_self]
@[simp] theorem Hub.churnBreak_flowCores (h : Hub) (raw : Bool) (c : Nat) : (h.churnBreak raw c).flowCores = h.flowCores := by
  simp only [Hub.churnBreak, ↓Hub.churnClose_flowCores, ↓Hub.setCh_flowCores]
@[simp] theorem Hub.leave_flowCores (raw : Bool) (c : Nat) (h : Hub) : (Hub.leave raw c h).flowCores = h.flowCores := by
  simp only [Hub.leave, ↓Hub.churnBreak_flowCores, ↓Hub.churnCapture_flowCores, ↓Hub.setCh_flowCores]
@[simp] theorem Hub.flowBreak_flowCores (h : Hub) (k : FlowKey) : (h.flowBreak k).flowCores = h.flowCores := by
  simp only [Hub.flowBreak, ↓Hub.churnBreak_flowCores, ↓forAll_flowCores, ↓apply_ite Hub.flowCores, ite_self, implies_true]
@[simp] theorem Hub.churnEra_flowCores (h : Hub) (raw : Bool) (c b : Nat) : (h.churnEra raw c b).flowCores = h.flowCores := by
  unfold Hub.churnEra
  split <;> simp only [↓Hub.churnBreak_flowCores, ↓apply_ite Hub.flowCores, ite_self]
@[simp] theorem Hub.flowEra_flowCores (h : Hub) (k : FlowKey) (b : Nat) : (h.flowEra k b).flowCores = h.flowCores := by
  simp only [Hub.flowEra, ↓Hub.churnEra_flowCores, ↓forAll_flowCores, ↓apply_ite Hub.flowCores, ite_self, implies_true]
@[simp] theorem Hub.setCap_flowCores (h : Hub) (n : Nat) (f : Capture → Capture) : (h.setCap n f).flowCores = h.flowCores :=
  congrArg (List.map Flow.core) (Hub.setCap_flows ..)
@[simp] theorem Hub.reserveDie_flowCores (n : Nat) (eval : Bool) (d : Nat) (h : Hub) :
    (Hub.reserveDie n eval d h).flowCores = h.flowCores := by
  unfold Hub.reserveDie
  dsimp only
  repeat' split
  all_goals simp only [↓Hub.notice_flowCores, ↓Hub.setCap_flowCores, ↓Hub.flowCores_mk, ↓Hub.map_core_flows]
@[simp] theorem Hub.retryWait_flowCores (h : Hub) (d : Nat) : (h.retryWait d).flowCores = h.flowCores := by
  refine forAll_flowCores _ (fun n g => ?_) _ _
  split <;> simp only [↓apply_ite Hub.flowCores, ↓Hub.reserveDie_flowCores, ite_self]

end Sys2Proof.Machine
end


section
/-! PROOFS. What events leave of the flows of coaches. -/

namespace Sys2Proof.Machine

/-- A flow of coaches without what the spool of its die notes in it, and only the key of another flow: what events leave. -/
def Flow.coaching (f : Flow) : Flow :=
  if f.key.kind = 4 then { f with lead := [], limitFrom := none, stuck := false } else Flow.init f.key

theorem Flow.coaching_eq (f : Flow) : f.coaching =
    if f.key.kind = 4 then { f with lead := [], limitFrom := none, stuck := false } else Flow.init f.key := by
  cases f
  rfl

/-- What events leave of a hub's flows of coaches. -/
def Hub.flowCoaches (h : Hub) := h.flows.map Flow.coaching

theorem forAll_flowCoaches {α : Type} (f : α → Hub → Hub) (keeps : ∀ a h, (f a h).flowCoaches = h.flowCoaches) (l : List α) (h : Hub) :
    (forAll l f h).flowCoaches = h.flowCoaches := forAll_keeps Hub.flowCoaches f keeps l h
theorem iter_flowCoaches (f : Hub → Hub) (keeps : ∀ h, (f h).flowCoaches = h.flowCoaches) (n : Nat) (h : Hub) :
    (iter f n h).flowCoaches = h.flowCoaches := iter_keeps Hub.flowCoaches f keeps n h

theorem Hub.map_coaching_flows (h : Hub) : h.flows.map Flow.coaching = h.flowCoaches := rfl

theorem Hub.flowCoaches_mk {clk : Clk} {tm : Tm} {chans : List Chan} {octs : List Octet} {reps : List Rep} {dies : List Die}
    {trg : Trg} {caps : List (Option Capture)} {nextTrain : Nat} {saved : List SavedChurn} {jobs : List ChurnJob} {nextHandle nextJob : Nat}
    {flows : List Flow} {strm : Strm} {hk : Hk} {sep : Sep} {ports : List Port} {enm : Enum} {mgmt : Mgmt} {dbw : Dbw} {fseal : Seal}
    {flt : Flt} {cal : Cal} {pwr : Pwr} {pmbus : Pmbus} {boot : Boot} {flash : Flash} {tag : Tag} {tap : Tap} {fresh : Nat} {ident : Ident}
      :
    (Hub.mk ident clk tm chans octs reps dies trg caps nextTrain saved jobs nextHandle nextJob flows strm hk sep ports enm mgmt dbw
      fseal flt cal pwr pmbus boot flash tag tap fresh).flowCoaches = flows.map Flow.coaching := rfl

theorem Flow.coaching_of_other {f g : Flow} (key : g.key = f.key) (other : f.key.kind ≠ 4) : g.coaching = f.coaching := by
  rw [Flow.coaching, Flow.coaching, key, if_neg other, if_neg other]

theorem Hub.setFlow_flowCoaches (h : Hub) {k : FlowKey} {f : Flow → Flow} (other : k.kind ≠ 4) (keeps : ∀ x, (f x).key = x.key) :
    (h.setFlow k f).flowCoaches = h.flowCoaches := by
  rw [Hub.flowCoaches, Hub.setFlow, List.map_map]
  refine List.map_congr_left fun x _ => ?_
  simp only [Function.comp_apply]
  split
  · rename_i named
    have key : x.key = k := by simpa using named
    exact Flow.coaching_of_other (keeps x) (key ▸ other)
  · rfl

theorem Flow.toLimit_coaching (f : Flow) (t : Nat) : (f.toLimit t).coaching = f.coaching := by
  by_cases coach : f.key.kind = 4
  · unfold Flow.toLimit
    rw [if_neg (by simp [coach])]
  · exact Flow.coaching_of_other (f.toLimit_key t) coach

@[simp] theorem Hub.spoolTouch_flowCoaches (h : Hub) (d : Nat) (was : Seqs) : (h.spoolTouch d was).flowCoaches = h.flowCoaches := by
  obtain ⟨φ, made, keeps⟩ := h.spoolTouch_recast (R := fun a b => b.coaching = a.coaching) (fun _ => rfl)
    (fun _ _ _ first second => second.trans first)
    (fun f record => Flow.coaching_of_other (congrArg Flow.key f.unclose_core : f.unclose.core.key = f.core.key) (by omega))
    Flow.toLimit_coaching (fun _ _ => rfl) (fun _ _ => rfl) d was fun _ _ f t i _ skim => Flow.coaching_of_other (f.mark_key t i) (by omega)
  rw [Hub.flowCoaches, made, List.map_map]
  exact List.map_congr_left fun f _ => keeps f

@[simp] theorem Hub.watermarks_flowCoaches (h : Hub) : h.watermarks.flowCoaches = h.flowCoaches :=
  congrArg (List.map Flow.coaching) h.watermarks_flows

theorem Flow.record_key (f : Flow) (now since stream : Nat) (rcd : Bytes) : (f.record now since stream rcd).key = f.key := by
  have key : (f.record now since stream rcd).core.key = f.core.key := congrArg Flow.key (f.record_core ..)
  exact key

theorem Hub.emitRecord_flowCoaches (h : Hub) {k : FlowKey} (other : k.kind ≠ 4) (stream : Nat) (rcd : Bytes) :
    (h.emitRecord k stream rcd).flowCoaches = h.flowCoaches := by
  unfold Hub.emitRecord Hub.emitSince
  split
  · rfl
  · split
    · rfl
    · rw [Hub.watermarks_flowCoaches, Hub.spoolTouch_flowCoaches, Hub.setFlow_flowCoaches _ other fun f => f.record_key ..]

@[simp] theorem Hub.hkRecord_flowCoaches (h : Hub) (t kind : Nat) (payload : Bytes) :
    (h.hkRecord t kind payload).flowCoaches = h.flowCoaches := by
  unfold Hub.hkRecord
  dsimp only
  split
  · exact Hub.emitRecord_flowCoaches _ (k := ⟨h.boot.lead, 3, 0⟩) (Nat.succ_ne_self 3).symm _ _
  · rfl

@[simp] theorem Hub.recordAt_flowCoaches (h : Hub) (t kind : Nat) (payload : Bytes) :
    (h.recordAt t kind payload).flowCoaches = h.flowCoaches := by
  simp only [Hub.recordAt, ↓Hub.hkRecord_flowCoaches, ↓Hub.flowCoaches_mk, ↓apply_ite Hub.flowCoaches, ite_self, ↓Hub.map_coaching_flows]
@[simp] theorem Hub.raise_flowCoaches (h : Hub) (bit : Nat) : (h.raise bit).flowCoaches = h.flowCoaches :=
  congrArg (List.map Flow.coaching) (Hub.raise_flows ..)
@[simp] theorem Hub.logEntry_flowCoaches (h : Hub) (t : Nat) (event : Bytes) : (h.logEntry t event).flowCoaches = h.flowCoaches := by
  simp only [Hub.logEntry, ↓Hub.flowCoaches_mk, ↓apply_ite Hub.flowCoaches, ite_self, ↓Hub.map_coaching_flows]
@[simp] theorem Hub.eventAt_flowCoaches (h : Hub) (t : Nat) (unit : Word) (code cls count : Nat) (arg0 arg1 : Word) :
    (h.eventAt t unit code cls count arg0 arg1).flowCoaches = h.flowCoaches := by
  simp only [Hub.eventAt, ↓Hub.logEntry_flowCoaches, ↓Hub.raise_flowCoaches, ↓Hub.recordAt_flowCoaches, ↓Hub.flowCoaches_mk, ↓apply_ite
    Hub.flowCoaches, ite_self, ↓Hub.map_coaching_flows]
@[simp] theorem Hub.event_flowCoaches (h : Hub) (unit : Word) (code cls count : Nat) (arg0 arg1 : Word) :
    (h.event unit code cls count arg0 arg1).flowCoaches = h.flowCoaches := by
  simp only [Hub.event, ↓Hub.eventAt_flowCoaches]
@[simp] theorem Hub.notice_flowCoaches (h : Hub) (unit : Word) (code : Nat) (arg0 arg1 : Word) :
    (h.notice unit code arg0 arg1).flowCoaches = h.flowCoaches := by
  simp only [Hub.notice, ↓Hub.event_flowCoaches]
@[simp] theorem Hub.setCap_flowCoaches (h : Hub) (n : Nat) (f : Capture → Capture) : (h.setCap n f).flowCoaches = h.flowCoaches :=
  congrArg (List.map Flow.coaching) (Hub.setCap_flows ..)
@[simp] theorem Hub.reserveDie_flowCoaches (n : Nat) (eval : Bool) (d : Nat) (h : Hub) :
    (Hub.reserveDie n eval d h).flowCoaches = h.flowCoaches := by
  unfold Hub.reserveDie
  dsimp only
  repeat' split
  all_goals simp only [↓Hub.notice_flowCoaches, ↓Hub.setCap_flowCoaches, ↓Hub.flowCoaches_mk, ↓Hub.map_coaching_flows]
@[simp] theorem Hub.retryWait_flowCoaches (h : Hub) (d : Nat) : (h.retryWait d).flowCoaches = h.flowCoaches := by
  refine forAll_flowCoaches _ (fun n g => ?_) _ _
  split <;> simp only [↓apply_ite Hub.flowCoaches, ↓Hub.reserveDie_flowCoaches, ite_self]

end Sys2Proof.Machine
end


section
/-! PROOFS. Acknowledgement, flushes and the ends of sweeps (R245, R248, R259 to R261). -/

namespace Sys2Proof.Machine

/-- A flow's core stays where all flows' do. -/
theorem Hub.findFlow_of_flowCores {h g : Hub} (same : g.flowCores = h.flowCores) {k : FlowKey} {f : Flow} (found : h.findFlow k = some f) :
    ∃ e, g.findFlow k = some e ∧ e.core = f.core := by
  have through (x : Hub) : (x.findFlow k).map Flow.core = x.flowCores.find? fun f => f.key == k := by
    rw [Hub.findFlow, Hub.flowCores, List.find?_map]
    rfl
  have found' := through g
  rw [same, ← through h, found] at found'
  exact Option.map_eq_some_iff.1 found'

/-! ## Sweeps that a flow's packets take -/

@[simp] theorem Flow.close_sweep (f : Flow) (till : Nat) : (f.close till).sweep = f.sweep := by
  unfold Flow.close
  dsimp only
  split
  · rfl
  · split <;> rfl

@[simp] theorem Flow.gapOn_sweep (f : Flow) (s b : Nat) : (f.gapOn s b).sweep = f.sweep := by
  unfold Flow.gapOn
  split
  · rfl
  · split <;> rfl

@[simp] theorem Flow.lay_sweep (s b : Nat) (f : Flow) (i : Item) : (f.lay s b i).sweep = f.sweep := by
  have room : (if f.fits i.size then f else f.close (nsUpTo f.covStart s)).sweep = f.sweep := by
    split
    · rfl
    · exact f.close_sweep _
  have laid (g : Flow) : (if !g.full then { g with filling := g.filling ++ [i] } else if i.typ = 5 then { g with lead := g.lead ++ [i] }
      else { g.gapOn s b with discarded := g.discarded + 1 }).sweep = g.sweep := by
    split
    · rfl
    · split
      · rfl
      · exact g.gapOn_sweep s b
  exact (laid _).trans room

theorem Flow.foldl_lay_sweep (s b : Nat) (l : List Item) (f : Flow) : (l.foldl (Flow.lay s b) f).sweep = f.sweep := by
  induction l generalizing f with
  | nil => rfl
  | cons i l ih => exact (ih _).trans (f.lay_sweep s b i)

/-- No sample of before b waits in a sweep; RATE entries may. -/
def Flow.Swept (f : Flow) (b : Nat) : Prop := ∀ x ∈ f.sweep, x.wsize ≠ 4 → b ≤ x.inst

theorem Flow.swept_writeSweep (f : Flow) (s b : Nat) : (f.writeSweep s b).Swept b := by
  unfold Flow.writeSweep
  extract_lets s' due rest items f1 f2 g g'
  split
  · rename_i none'
    intro x here _
    by_contra early
    have : x ∈ due := List.mem_filter.2 ⟨here, by simpa using early⟩
    rw [List.isEmpty_iff.1 none'] at this
    cases this
  · have later : ∀ x ∈ rest, b ≤ x.inst := fun x here => by simpa using (List.mem_filter.1 here).2
    split
    · intro x here sample
      rcases List.mem_append.1 here with rate | rest'
      · exact absurd (by simpa using (List.mem_filter.1 rate).2) sample
      · exact later x rest'
    · intro x here _
      exact later x (by simpa [g', Flow.foldl_lay_sweep] using here)

theorem Flow.flushAt_sweep (f : Flow) (till : Nat) (hard : Bool) : (f.flushAt till hard).sweep = f.sweep := by
  have closed : (if hard || decide (till ≤ f.covStart) then f else { f.close till with flush := f.flush }).sweep = f.sweep := by
    split
    · rfl
    · exact f.close_sweep till
  exact closed

theorem Flow.swept_sweepPart {f : Flow} (started : f.started = true) (s b next : Nat) : (f.sweepPart s b next).Swept b := by
  unfold Flow.sweepPart
  extract_lets f1 f2 some'
  have written : f1.Swept b := Flow.swept_writeSweep _ s b
  have moved : f2.Swept b := by
    unfold f2
    split <;> exact written
  split
  · rename_i idle
    rw [started] at idle
    simp only [Bool.not_true, Bool.false_or, Bool.and_eq_true, List.all_eq_true] at idle
    exact fun x here _ => by simpa using idle.2 x here
  · split
    · intro x here
      rw [Flow.flushAt_sweep] at here
      exact moved x here
    · split
      · exact moved
      · split
        · intro x here
          rw [Flow.close_sweep] at here
          exact moved x here
        · exact moved

/-- The packets of a sweep keep the key of their flow, that it has started, and what of it was sent and acknowledged. -/
def Flow.sent (f : Flow) : Flow := { Flow.init f.key with started := f.started, held := f.held, lastAck := f.lastAck, ackBad := f.ackBad }

theorem Flow.sent_key (f : Flow) : f.sent.key = f.key := rfl

theorem Flow.sent_of_core {f g : Flow} (same : g.core = f.core) : g.sent = f.sent :=
  congrArg (fun c : Flow => { c with softFlush := false, sw := (Flow.init c.key).sw }) same

@[simp] theorem Flow.close_sent (f : Flow) (till : Nat) : (f.close till).sent = f.sent := sent_of_core (f.close_core till)

theorem Flow.flushAt_sent (f : Flow) (till : Nat) (hard : Bool) : (f.flushAt till hard).sent = f.sent := by
  have closed : (if hard || decide (till ≤ f.covStart) then f else { f.close till with flush := f.flush }).sent = f.sent := by
    split
    · rfl
    · exact f.close_sent till
  exact closed

theorem Flow.lay_sent (s b : Nat) (f : Flow) (i : Item) : (f.lay s b i).sent = f.sent := by
  have room : (if f.fits i.size then f else f.close (nsUpTo f.covStart s)).sent = f.sent := by
    split
    · rfl
    · exact f.close_sent _
  have laid (g : Flow) : (if !g.full then { g with filling := g.filling ++ [i] } else if i.typ = 5 then { g with lead := g.lead ++ [i] }
      else { g.gapOn s b with discarded := g.discarded + 1 }).sent = g.sent := by
    split
    · rfl
    · split
      · rfl
      · exact sent_of_core (g.gapOn_core s b)
  exact (laid _).trans room

theorem Flow.foldl_lay_sent (s b : Nat) (l : List Item) (f : Flow) : (l.foldl (Flow.lay s b) f).sent = f.sent := by
  induction l generalizing f with
  | nil => rfl
  | cons i l ih => exact (ih _).trans (f.lay_sent s b i)

theorem Flow.writeSweep_sent (f : Flow) (s b : Nat) : (f.writeSweep s b).sent = f.sent := by
  unfold Flow.writeSweep
  extract_lets s' due rest items f1 f2 g g'
  have stated : f1.sent = f.sent := by
    unfold f1
    split
    · rfl
    · exact sent_of_core (f.stateGap_core _)
  have closed : f2.sent = f.sent := by
    unfold f2
    split
    · exact stated
    · exact (f1.close_sent _).trans stated
  clear_value f2 items
  split
  · rfl
  · have gap : g.sent = f2.sent := sent_of_core (f2.gapOn_core s' b)
    have laid : g'.sent = f2.sent := Flow.foldl_lay_sent s' b items _
    clear_value g g'
    split
    · exact Eq.trans (b := g.sent) rfl (gap.trans closed)
    · exact Eq.trans (b := g'.sent) rfl (laid.trans closed)

theorem Flow.sweepPart_sent (f : Flow) (s b next : Nat) : (f.sweepPart s b next).sent = f.sent := by
  unfold Flow.sweepPart
  extract_lets f1 f2 some'
  have written : f1.sent = f.sent :=
    (Flow.writeSweep_sent ((f.stateGap f.gapTill).advance s) s b).trans
      (sent_of_core ((Flow.advance_core s (f.stateGap f.gapTill)).trans (f.stateGap_core f.gapTill)))
  have moved : f2.sent = f.sent := by
    unfold f2
    split <;> exact written
  split
  · rfl
  · split
    · exact (f2.flushAt_sent b false).trans moved
    · split
      · exact moved
      · split
        · exact (f2.close_sent b).trans moved
        · exact moved

theorem Flow.parts_ends (f : Flow) (s e : Nat) : ∃ l, f.parts s e = l ++ [e] := by
  unfold Flow.parts
  dsimp only
  split
  · exact ⟨[], rfl⟩
  · exact ⟨_, rfl⟩

/-- The parts of a sweep, one after the other. -/
def Flow.sweepTo (b next : Nat) (a : Flow × Nat) (e : Nat) : Flow × Nat := (a.1.sweepPart a.2 e (if e = b then next else 16376), e)

theorem Flow.foldl_sweepTo_sent (b next : Nat) (l : List Nat) (a : Flow × Nat) : (l.foldl (Flow.sweepTo b next) a).1.sent = a.1.sent := by
  induction l generalizing a with
  | nil => rfl
  | cons e l ih => exact (ih _).trans (a.1.sweepPart_sent ..)

theorem Flow.sweepEnd_sent (f : Flow) (b next : Nat) : (f.sweepEnd b next).sent = f.sent := Flow.foldl_sweepTo_sent b next _ (f, _)

theorem Flow.sweepEnd_key (f : Flow) (b next : Nat) : (f.sweepEnd b next).key = f.key := by
  have key := congrArg Flow.key (f.sweepEnd_sent b next)
  rwa [Flow.sent_key, Flow.sent_key] at key

/-- After the end of a sweep a flow that has started holds no sample from before it (R245). -/
theorem Flow.swept_sweepEnd {f : Flow} (started : f.started = true) (b next : Nat) : (f.sweepEnd b next).Swept b := by
  obtain ⟨l, ends⟩ := f.parts_ends (b - f.sw * 1024000) b
  have last : f.sweepEnd b next = ((l ++ [b]).foldl (Flow.sweepTo b next) (f, b - f.sw * 1024000)).1 := by
    rw [← ends]
    rfl
  rw [last, List.foldl_append]
  have still := Flow.foldl_sweepTo_sent b next l (f, b - f.sw * 1024000)
  have started' : (l.foldl (Flow.sweepTo b next) (f, b - f.sw * 1024000)).1.started = true := (congrArg Flow.started still).trans started
  exact Flow.swept_sweepPart started' _ b _

/-! ## The end of a sweep -/

theorem Hub.Recast.forAll {R : Flow → Flow → Prop} (refl : ∀ f, R f f) (trans : ∀ a b c, R a b → R b c → R a c) {α : Type}
    {φ : α → Hub → Hub} (keeps : ∀ a (h : Hub), h.Recast R (φ a h)) (l : List α) (h : Hub) : h.Recast R (forAll l φ h) := by
  unfold Machine.forAll
  induction l generalizing h with
  | nil => exact .of_same refl rfl
  | cons a l ih => exact .trans trans (keeps a h) (ih _)

/-- The flow is the same but that samples may have left its sweep. -/
def Flow.Thinned (f g : Flow) : Prop := g.key = f.key ∧ g.sweep ⊆ f.sweep

theorem Flow.Thinned.refl (f : Flow) : f.Thinned f := ⟨rfl, List.Subset.refl _⟩
theorem Flow.Thinned.trans (a b c : Flow) (first : a.Thinned b) (second : b.Thinned c) : a.Thinned c :=
  ⟨second.1.trans first.1, fun _ here => first.2 (second.2 here)⟩
theorem Flow.Thinned.of_same {f g : Flow} (key : g.key = f.key) (sweep : g.sweep = f.sweep) : f.Thinned g :=
  ⟨key, sweep ▸ List.Subset.refl _⟩

theorem Flow.mark_sweep (f : Flow) (t : Nat) (i : Item) : (f.mark t i).sweep = f.sweep := by
  have placed (g : Flow) : (if g.filling.isEmpty then { g with lead := g.lead ++ [i] } else { g with filling := g.filling ++ [i] }).sweep = g.sweep := by
    split <;> rfl
  unfold Flow.mark
  split
  · rfl
  · refine (placed _).trans ?_
    split
    · rfl
    · exact f.close_sweep _

theorem Flow.uncount_sweep (l : List Item) (f : Flow) : (f.uncount l).sweep = f.sweep := by
  unfold Flow.uncount
  split <;> rfl

theorem Flow.unclose_sweep (f : Flow) : f.unclose.sweep = f.sweep := by
  have undone (p : Packet) (l : List Item) (g : Flow) : ({ g.uncount l with
      nextSeq := p.seq, covStart := p.covStart, since := min p.since f.since, era := eraAll p.covStart, filling := [],
      lead := p.items.filter Item.isNote ++ f.lead.filter (fun i => i.eraCause != some 1) ++ f.filling.filter Item.isNote } : Flow).sweep
      = g.sweep := g.uncount_sweep l
  unfold Flow.unclose
  dsimp only
  split
  · exact undone _ _ _
  · exact undone _ _ _
  · rfl

theorem Flow.thinned_toLimit (f : Flow) (t : Nat) : f.Thinned (f.toLimit t) := by
  refine ⟨f.toLimit_key t, ?_⟩
  unfold Flow.toLimit
  split
  · exact List.nil_subset _
  · exact List.Subset.refl _

theorem Flow.key_of_core {f g : Flow} (same : g.core = f.core) : g.key = f.key := by
  have key : g.core.key = f.core.key := congrArg Flow.key same
  exact key

theorem Hub.spoolTouch_thinned (h : Hub) (d : Nat) (was : Seqs) : h.Recast Flow.Thinned (h.spoolTouch d was) :=
  h.spoolTouch_recast Flow.Thinned.refl Flow.Thinned.trans (fun f _ => .of_same (Flow.key_of_core f.unclose_core) f.unclose_sweep) Flow.thinned_toLimit
    (fun _ _ => .of_same rfl rfl) (fun _ _ => .of_same rfl rfl) d was fun _ _ f t i _ _ => .of_same (f.mark_key t i) (f.mark_sweep t i)

theorem Hub.flowBuilt_thinned (h : Hub) (d : Nat) (was : Seqs) : h.Recast Flow.Thinned (h.flowBuilt d was) :=
  .trans Flow.Thinned.trans (h.spoolTouch_thinned d was) (.of_same Flow.Thinned.refl (Hub.watermarks_flows _))

theorem Hub.dropBlocks_thinned (h : Hub) (k : FlowKey) (s : Nat) : h.Recast Flow.Thinned (h.dropBlocks k s) := by
  refine .forAll Flow.Thinned.refl Flow.Thinned.trans (fun c h => .forAll Flow.Thinned.refl Flow.Thinned.trans (fun raw h => ?_) _ _) _ _
  split
  · exact .of_same Flow.Thinned.refl rfl
  · split
    · exact .of_same Flow.Thinned.refl rfl
    · dsimp only
      split
      · exact .of_same Flow.Thinned.refl rfl
      · rename_i u _ _
        refine .trans (g := h.setFlow k fun f => { f with lead := f.lead ++ [gapItem (streamId raw c) u.firstAt s f.gapCause] })
          Flow.Thinned.trans ?_ (.of_same Flow.Thinned.refl rfl)
        exact .setFlow Flow.Thinned.refl _ _ fun _ _ => .of_same rfl rfl

theorem Hub.sweepFlow_none {h : Hub} {k : FlowKey} (none' : h.findFlow k = none) : h.sweepFlow k = h := by
  unfold Hub.sweepFlow
  rw [none']

theorem Hub.sweepFlow_records {h : Hub} {k : FlowKey} {f : Flow} (found : h.findFlow k = some f) (skim : f.key.kind ≠ 0) (raw : f.key.kind ≠ 5) :
    h.sweepFlow k = h := by
  unfold Hub.sweepFlow
  rw [found]
  exact if_pos ⟨skim, raw⟩

theorem Hub.setFlow_findFlow (h : Hub) {k : FlowKey} {φ : Flow → Flow} (key : ∀ f, f.key = k → (φ f).key = k) {f : Flow} (found : h.findFlow k = some f) :
    (h.setFlow k φ).findFlow k = some (φ f) := by
  have mine : f.key = k := by simpa using List.find?_some found
  have same : (fun e : Flow => e.key == k) ∘ (fun e : Flow => if e.key == k then φ e else e) = fun e => e.key == k := by
    funext e
    simp only [Function.comp_apply]
    split
    · rename_i named
      rw [named, key e (by simpa using named)]
      simp
    · rfl
  rw [Hub.findFlow, Hub.setFlow, List.find?_map, same]
  exact (congrArg (Option.map _) found).trans (by simp [mine])

theorem Hub.setFlow_findFlow_const (h : Hub) {k : FlowKey} {g : Flow} (key : g.key = k) {f : Flow} (found : h.findFlow k = some f) :
    (h.setFlow k fun _ => g).findFlow k = some g :=
  h.setFlow_findFlow (fun _ _ => key) found

/-- The end of a sweep of a SET flow that has started (R245). -/
theorem Hub.sweepFlow_swept {h : Hub} {k : FlowKey} {f : Flow} (found : h.findFlow k = some f) (set : f.key.kind = 0 ∨ f.key.kind = 5)
    (started : f.started = true) : ∃ g, (h.sweepFlow k).findFlow k = some g ∧ g.Swept (f.boundary h.tm.now) := by
  have run : h.sweepFlow k = h.sweepFlow k := rfl
  conv at run => rhs; unfold Hub.sweepFlow
  rw [found] at run
  dsimp -zeta only at run
  rw [if_neg (by tauto)] at run
  extract_lets b was h1 h2 empty s h3 h4 lost h5 at run
  have cores1 : h1.flowCores = h.flowCores := by
    unfold h1
    split
    · exact h.flowBreak_flowCores k
    · rfl
  have tm1 : h1.tm = h.tm := by
    unfold h1
    split
    · exact h.flowBreak_tm k
    · rfl
  have cores2 : h2.flowCores = h.flowCores := by
    unfold h2
    split
    · exact (h1.flowEra_flowCores k b).trans cores1
    · exact cores1
  have tm2 : h2.tm = h.tm := by
    unfold h2
    split
    · exact (h1.flowEra_tm k b).trans tm1
    · exact tm1
  have cores3 : h3.flowCores = h.flowCores := by
    unfold h3
    split
    · exact cores2
    · exact (forAll_flowCores _ (fun _ _ => Hub.leave_flowCores ..) _ _).trans cores2
  have tm3 : h3.tm = h.tm := by
    unfold h3
    split
    · exact tm2
    · exact (forAll_tm _ (fun _ _ => Hub.leave_tm ..) _ _).trans tm2
  clear_value empty s lost was h3
  obtain ⟨e, found3, core⟩ := Hub.findFlow_of_flowCores cores3 found
  have started3 : e.started = true := (congrArg Flow.started core).trans started
  have width : e.sw = f.sw := by
    have same : (if e.started then e.sw else 0) = if f.started then f.sw else 0 := congrArg Flow.sw core
    rwa [started3, started] at same
  have bound : e.boundary h3.tm.now = f.boundary h.tm.now := by rw [tm3, Flow.boundary, Flow.boundary, width]
  have found4 : h4.findFlow k = some (e.sweepEnd (e.boundary h3.tm.now) (h3.sweepMax k e.sw)) :=
    h3.setFlow_findFlow (φ := fun f => f.sweepEnd (f.boundary h3.tm.now) (h3.sweepMax k f.sw))
      (fun a key => (a.sweepEnd_key _ _).trans key) found3
  have swept := Flow.swept_sweepEnd started3 (e.boundary h3.tm.now) (h3.sweepMax k e.sw)
  rw [bound] at swept found4
  clear_value h4
  have gap : h4.Recast Flow.Thinned h5 := by
    unfold h5
    split
    · exact .setFlow Flow.Thinned.refl _ _ fun g _ => .of_same (Flow.key_of_core (g.gapOn_core s b)) (g.gapOn_sweep s b)
    · exact .of_same Flow.Thinned.refl rfl
  clear_value h5
  have dropped : h4.Recast Flow.Thinned (if (lost || empty) = true then h5.dropBlocks k s else h5) := by
    split
    · exact .trans Flow.Thinned.trans gap (h5.dropBlocks_thinned k s)
    · exact gap
  generalize (if (lost || empty) = true then h5.dropBlocks k s else h5) = h6 at run dropped
  have thinned : h4.Recast Flow.Thinned (h.sweepFlow k) := by
    rw [run]
    exact .trans Flow.Thinned.trans dropped (h6.flowBuilt_thinned k.die was)
  obtain ⟨g, found5, -, fewer⟩ := thinned.findFlow (fun here => here.1) found4
  exact ⟨g, found5, fun x here => swept x (fewer here)⟩


/-! ## Acknowledgement -/

theorem Flow.foldl_again (l : List Packet) (f : Flow) : (l.foldl Flow.again f).core = f.core := by
  induction l generalizing f with
  | nil => rfl
  | cons p l ih =>
    refine (ih _).trans ?_
    unfold Flow.again
    split <;> rfl

/-- An entry that runs backward or ahead of what was sent is counted, and another releases what it covers (R248). -/
theorem Flow.ack_core (f : Flow) (now age : Nat) (cum : Word) (naks : List (Word × Nat)) :
    (f.ack now age cum naks).core =
      if f.ignores cum then { f.core with ackBad := satInc 16 f.ackBad }
      else { f.core with held := f.held.filter fun p => seqBefore cum p.seq, lastAck := cum } := by
  unfold Flow.ack
  split
  · rfl
  · exact Flow.foldl_again _ _

theorem Flow.ack_key (f : Flow) (now age : Nat) (cum : Word) (naks : List (Word × Nat)) : (f.ack now age cum naks).key = f.key := by
  unfold Flow.ack
  split
  · rfl
  · exact (Flow.key_of_core (Flow.foldl_again _ _)).trans rfl

@[simp] theorem Hub.freeAcked_flowCores (h : Hub) (k : FlowKey) (gone : Word → Bool) : (h.freeAcked k gone).flowCores = h.flowCores := by
  unfold Hub.freeAcked
  split
  · rfl
  · dsimp only
    split
    · rfl
    · refine (Hub.retryWait_flowCores _ _).trans (forAll_flowCores _ (fun c g => ?_) _ _)
      exact congrArg (List.map Flow.core) (g.setDie_flows ..)

@[simp] theorem Hub.flowBuilt_flowCores (h : Hub) (d : Nat) (was : Seqs) : (h.flowBuilt d was).flowCores = h.flowCores := by
  rw [Hub.flowBuilt, Hub.watermarks_flowCores, Hub.spoolTouch_flowCores]

@[simp] theorem Hub.flowTouch_flowCores (h : Hub) (d : Nat) : (h.flowTouch d).flowCores = h.flowCores := h.flowBuilt_flowCores d []

theorem Hub.findFlow_key {h : Hub} {k : FlowKey} {f : Flow} (found : h.findFlow k = some f) : f.key = k := by
  simpa using List.find?_some found

/-- The hub with the flow of an entry acknowledged. -/
def Hub.acked (h : Hub) (e : AckEntry) (f : Flow) : Hub :=
  h.setFlow (FlowKey.of e.flow) fun _ => f.ack h.clk.elapsed (fld h.strm.cfg 15 0) e.seqCum e.naks

theorem Hub.ackEntry_flowCores {h : Hub} {e : AckEntry} {f : Flow} (found : h.findFlow (FlowKey.of e.flow) = some f) :
    (h.ackEntry e).flowCores = (h.acked e f).flowCores := by
  have run : h.ackEntry e = (if f.ignores e.seqCum then h.acked e f
      else (h.acked e f).freeAcked (FlowKey.of e.flow) fun s => !seqBefore e.seqCum s).flowTouch (FlowKey.of e.flow).die := by
    unfold Hub.ackEntry
    dsimp only
    rw [found]
    rfl
  rw [run, Hub.flowTouch_flowCores]
  split
  · rfl
  · exact Hub.freeAcked_flowCores ..

theorem Hub.ackEntry_acked {h : Hub} {e : AckEntry} {f : Flow} (found : h.findFlow (FlowKey.of e.flow) = some f) :
    ∃ g, (h.ackEntry e).findFlow (FlowKey.of e.flow) = some g ∧ g.core =
      if f.ignores e.seqCum then { f.core with ackBad := satInc 16 f.ackBad }
      else { f.core with held := f.held.filter fun p => seqBefore e.seqCum p.seq, lastAck := e.seqCum } := by
  have set := h.setFlow_findFlow_const (g := f.ack h.clk.elapsed (fld h.strm.cfg 15 0) e.seqCum e.naks)
    ((Flow.ack_key ..).trans (Hub.findFlow_key found)) found
  obtain ⟨a, found', core⟩ := Hub.findFlow_of_flowCores (Hub.ackEntry_flowCores found) set
  exact ⟨a, found', core.trans (Flow.ack_core ..)⟩

/-! ## Flushes -/

/-- The flow is the same but that packets may have left it, and what was not covered is noted. -/
structure Flow.Eased (f g : Flow) : Prop where
  flush : g.flush = f.flush
  held : g.held = f.held
  filling : f.filling = [] → g.filling = []
  packets : g.yoke ++ g.backlog ⊆ f.yoke ++ f.backlog
  sweep : g.sweep ⊆ f.sweep

theorem Flow.Eased.refl (f : Flow) : f.Eased f := ⟨rfl, rfl, id, fun _ => id, fun _ => id⟩

theorem Flow.Eased.trans {a b c : Flow} (first : a.Eased b) (second : b.Eased c) : a.Eased c :=
  ⟨second.flush.trans first.flush, second.held.trans first.held, fun empty => second.filling (first.filling empty),
    fun _ here => first.packets (second.packets here), fun _ here => first.sweep (second.sweep here)⟩

theorem Flow.uncount_eased (l : List Item) (f : Flow) : f.Eased (f.uncount l) := by
  unfold Flow.uncount
  split
  · exact .refl f
  · exact ⟨rfl, rfl, id, fun _ => id, fun _ => id⟩

theorem Flow.unclose_eased (f : Flow) : f.Eased f.unclose := by
  unfold Flow.unclose
  dsimp only
  split
  · rename_i p last
    obtain ⟨flush, held, filling, packets, sweep⟩ := Flow.uncount_eased (p.items ++ f.filling) { f with backlog := f.backlog.dropLast }
    refine ⟨flush, held, fun _ => rfl, fun q here => ?_, sweep⟩
    rcases List.mem_append.1 (packets here) with yoke | backlog
    · exact List.mem_append_left _ yoke
    · exact List.mem_append_right _ (List.mem_of_mem_dropLast backlog)
  · rename_i p _ last
    obtain ⟨flush, held, filling, packets, sweep⟩ := Flow.uncount_eased (p.items ++ f.filling) { f with yoke := f.yoke.dropLast }
    refine ⟨flush, held, fun _ => rfl, fun q here => ?_, sweep⟩
    rcases List.mem_append.1 (packets here) with yoke | backlog
    · exact List.mem_append_left _ (List.mem_of_mem_dropLast yoke)
    · exact List.mem_append_right _ backlog
  · exact .refl f

theorem Flow.toLimit_eased (f : Flow) (t : Nat) : f.Eased (f.toLimit t) := by
  unfold Flow.toLimit
  split
  · obtain ⟨flush, held, filling, packets, sweep⟩ := f.uncount_eased f.filling
    exact ⟨flush, held, fun _ => rfl, packets, List.nil_subset _⟩
  · exact .refl f

/-- The flow of a key is eased, and the others keep their keys. -/
def Flow.EasedAt (k : FlowKey) (f g : Flow) : Prop := g.key = f.key ∧ (f.key = k → f.Eased g)

theorem Store.spoolNext_limit_full {s : Store} {occ : Nat} (turns : s.spoolNext occ = .limit) (was : s.spool ≠ .limit) :
    s.spoolPages * 16384 - 65536 ≤ occ := by
  unfold Store.spoolNext at turns
  dsimp only at turns
  split at turns
  · split at turns
    · omega
    · split at turns <;> cases turns
  · split at turns
    · omega
    · split at turns <;> cases turns
  · rename_i already
    exact absurd already was

/-- A die's spool that does not come to LIMIT, or whose skim is of another flow, eases the flow of a key. -/
theorem Hub.spoolTouch_eased {h : Hub} (d : Nat) (was : Seqs) {k : FlowKey}
    (room : k.kind ≠ 0 ∨ (h.die d).store.spool = .limit ∨ h.spoolBytes d < (h.die d).store.spoolPages * 16384 - 65536) :
    h.Recast (Flow.EasedAt k) (h.spoolTouch d was) := by
  refine h.spoolTouch_recast (fun f => ⟨rfl, fun _ => .refl f⟩)
    (fun a b c first second => ⟨second.1.trans first.1, fun named => (first.2 named).trans (second.2 (first.1.trans named))⟩)
    (fun f _ => ⟨Flow.key_of_core f.unclose_core, fun _ => f.unclose_eased⟩) (fun f t => ⟨f.toLimit_key t, fun _ => f.toLimit_eased t⟩)
    (fun f _ => ⟨rfl, fun _ => ⟨rfl, rfl, id, fun _ => id, fun _ => id⟩⟩) (fun f _ => ⟨rfl, fun _ => ⟨rfl, rfl, id, fun _ => id, fun _ => id⟩⟩) d was
    fun turns limit f t i _ skim => ⟨f.mark_key t i, fun named => ?_⟩
  have full := Store.spoolNext_limit_full turns limit
  rcases room with other | already | room
  · exact absurd (named ▸ skim) other
  · exact absurd already limit
  · omega

/-- What a flush leaves of a flow (R259 to R261): nothing waits or fills, a note stands, and a packet on its way out stays. -/
structure Flow.Flushed (f : Flow) (hard : Bool) (g : Flow) : Prop where
  filling : g.filling = []
  packets : ∀ p ∈ g.yoke ++ g.backlog, f.busy p = true
  noted : ∃ n, g.flush = some n ∧ (hard = true → n.hard = true) ∧ f.waiting.length ≤ n.seqCount
  held : g.held = f.held

theorem Flow.flushed_flushAt (f : Flow) (till : Nat) (hard : Bool) : f.Flushed hard (f.flushAt till hard) := by
  have busy : ∀ p, (if hard || decide (till ≤ f.covStart) then f else { f.close till with flush := f.flush }).busy p = f.busy p := by
    intro p
    split
    · rfl
    · refine congrArg (fun o : Option Packet => o.any fun s => s.seq == p.seq) (?_ : (f.close till).sending = f.sending)
      unfold Flow.close
      dsimp only
      split
      · rfl
      · split <;> rfl
  have more : f.waiting.length ≤ (if hard || decide (till ≤ f.covStart) then f else { f.close till with flush := f.flush }).waiting.length := by
    unfold Flow.waiting
    simp only [busy]
    refine List.Sublist.length_le (List.Sublist.filter _ ?_)
    split
    · exact List.Sublist.refl _
    · change List.Sublist _ ((f.close till).yoke ++ (f.close till).backlog)
      unfold Flow.close
      dsimp only
      split
      · exact List.Sublist.refl _
      · split
        · exact List.Sublist.append (List.Sublist.refl _) (List.sublist_append_left _ _)
        · exact List.Sublist.append (List.sublist_append_left _ _) (List.Sublist.refl _)
  have held : (f.flushAt till hard).held = f.held := by
    have sent : (f.flushAt till hard).sent.held = f.sent.held := congrArg Flow.held (f.flushAt_sent till hard)
    exact sent
  generalize closed : (if hard || decide (till ≤ f.covStart) then f else { f.close till with flush := f.flush }) = g at busy more
  have made : f.flushAt till hard = f.flushAt till hard := rfl
  conv at made => rhs; unfold Flow.flushAt
  rw [closed] at made
  extract_lets start closed' gone first note at made
  refine ⟨by rw [made], fun p here => ?_, ⟨note, by rw [made], ?_, ?_⟩, held⟩
  · rw [made] at here
    rcases List.mem_append.1 here with yoke | backlog
    · exact busy p ▸ (List.mem_filter.1 yoke).2
    · exact busy p ▸ (List.mem_filter.1 backlog).2
  · intro isHard
    unfold note
    split <;> simp [isHard]
  · unfold note
    split
    · exact more.trans (Nat.le_add_left _ _)
    · exact more

theorem Flow.Flushed.eased {f g k : Flow} {hard : Bool} (flushed : f.Flushed hard g) (eased : g.Eased k) : f.Flushed hard k :=
  ⟨eased.filling flushed.filling, fun p here => flushed.packets p (eased.packets here),
    (by obtain ⟨n, note, rest⟩ := flushed.noted; exact ⟨n, eased.flush.trans note, rest⟩), eased.held.trans flushed.held⟩

/-- A flush of a flow whose packet the window's reader gives up leaves what a flush of the flow itself does. -/
theorem Flow.Flushed.of_given {f g : Flow} {hard : Bool} (flushed : { f with sending := none }.Flushed hard g) : f.Flushed hard g := by
  obtain ⟨filling, packets, ⟨n, note, isHard, count⟩, held⟩ := flushed
  refine ⟨filling, fun p here => absurd (packets p here) (by simp [Flow.busy]), ⟨n, note, isHard, le_trans ?_ count⟩, held⟩
  have all : ({ f with sending := none } : Flow).waiting = f.yoke ++ f.backlog := List.filter_eq_self.2 fun p _ => by simp [Flow.busy]
  rw [all]
  exact List.length_filter_le _ _

/-- Bytes that a flow has in the spool of its die. -/
def Flow.spoolSize (f : Flow) : Nat := (f.content.map Packet.size).sum

theorem Hub.spoolBytes_setFlow_le (h : Hub) (k : FlowKey) {φ : Flow → Flow} (key : ∀ f, (φ f).key = f.key)
    (less : ∀ f, (φ f).spoolSize ≤ f.spoolSize) (d : Nat) : (h.setFlow k φ).spoolBytes d ≤ h.spoolBytes d := by
  unfold Hub.spoolBytes Hub.setFlow
  dsimp only
  induction h.flows with
  | nil => exact le_refl _
  | cons f l ih =>
    have key' : (if f.key == k then φ f else f).key = f.key := by
      split
      · exact key f
      · rfl
    have less' : (if f.key == k then φ f else f).spoolSize ≤ f.spoolSize := by
      split
      · exact less f
      · exact le_refl _
    rw [List.map_cons, List.filter_cons, List.filter_cons, key']
    split
    · simp only [List.map_cons, List.sum_cons]
      exact Nat.add_le_add less' ih
    · exact ih

theorem Flow.spoolSize_flushAt_le (f : Flow) (till : Nat) : (f.flushAt till true).spoolSize ≤ f.spoolSize := by
  refine List.Sublist.sum_le_sum (List.Sublist.map _ ?_) (fun _ _ => Nat.zero_le _)
  unfold Flow.content
  refine List.Sublist.append (List.Sublist.append ?_ (List.Sublist.refl _)) (List.Sublist.refl _)
  have spooled : (f.flushAt till true).spooled = f.spooled := rfl
  rw [spooled]
  split
  · exact List.Sublist.append List.filter_sublist List.filter_sublist
  · exact List.Sublist.refl _

theorem Hub.freeAcked_eased (h : Hub) {k : FlowKey} (gone : Word → Bool) {f : Flow} (found : h.findFlow k = some f) :
    ∃ g, (h.freeAcked k gone).findFlow k = some g ∧ f.Eased g := by
  by_cases coach : k.kind = 4
  · have same : (h.freeAcked k gone).flowCoaches = h.flowCoaches := by
      unfold Hub.freeAcked
      rw [if_neg (by simp [coach])]
      dsimp only
      split
      · rfl
      · refine (Hub.retryWait_flowCoaches _ _).trans (forAll_flowCoaches _ (fun c g => ?_) _ _)
        exact congrArg (List.map Flow.coaching) (g.setDie_flows ..)
    have through (x : Hub) : (x.findFlow k).map Flow.coaching = x.flowCoaches.find? fun f => f.key == k := by
      rw [Hub.findFlow, Hub.flowCoaches, List.find?_map]
      refine congrArg (fun p => Option.map Flow.coaching (List.find? p x.flows)) (funext fun e => ?_)
      simp only [Function.comp_apply]
      unfold Flow.coaching
      split <;> rfl
    have found' := through (h.freeAcked k gone)
    rw [same, ← through h, found] at found'
    obtain ⟨g, found', core⟩ := Option.map_eq_some_iff.1 found'
    refine ⟨g, found', ?_⟩
    rw [Flow.coaching, Flow.coaching, Hub.findFlow_key found', Hub.findFlow_key found, if_pos coach, if_pos coach] at core
    injection core with _ _ _ filling _ _ _ _ yoke backlog _ _ _ held _ _ _ _ flush _ _ _ _ _ _ _ _ _ _ sweep
    exact ⟨flush, held, fun empty => filling.trans empty, by rw [yoke, backlog]; exact fun _ => id, by rw [sweep]; exact fun _ => id⟩
  · refine ⟨f, ?_, .refl f⟩
    unfold Hub.freeAcked
    rw [if_pos coach]
    exact found

theorem Hub.flowBuilt_eased {h : Hub} (d : Nat) (was : Seqs) {k : FlowKey}
    (room : k.kind ≠ 0 ∨ (h.die d).store.spool = .limit ∨ h.spoolBytes d < (h.die d).store.spoolPages * 16384 - 65536) {f : Flow}
    (found : h.findFlow k = some f) : ∃ g, (h.flowBuilt d was).findFlow k = some g ∧ f.Eased g := by
  obtain ⟨g, found', -, eased⟩ := (Hub.spoolTouch_eased d was room).findFlow (fun same => same.1) found
  refine ⟨g, ?_, eased (Hub.findFlow_key found)⟩
  rw [Hub.flowBuilt, Hub.findFlow, Hub.watermarks_flows]
  exact found'

theorem Hub.flushFlow_idle {h : Hub} {k : FlowKey} {f : Flow} (found : h.findFlow k = some f) (idle : f.started = false) (hard : Bool) :
    h.flushFlow hard k = h := by
  unfold Hub.flushFlow
  rw [found]
  exact if_pos (by simp [idle])

/-- The hub whose window's reader gives up the packet of a flow (R260). -/
def Hub.givenUp (h : Hub) (k : FlowKey) : Hub :=
  { (h.setFlow k fun f => { f with sending := none }) with strm := { h.strm with win := { h.strm.win with items := [] } } }

/-- A flow as the builder flushes it: its samples go with a hard flush of SKIM or RAW. -/
def Flow.emptied (k : FlowKey) (till : Nat) (hard : Bool) (f : Flow) : Flow :=
  if k.kind = 0 ∨ k.kind = 5 then ({ f with sweep := f.sweep.filter fun x => x.wsize == 4 } : Flow).flushAt till true else f.flushAt till hard

theorem Flow.emptied_key (k : FlowKey) (till : Nat) (hard : Bool) (f : Flow) : (f.emptied k till hard).key = f.key := by
  have key (g : Flow) (b : Bool) : (g.flushAt till b).key = g.key := by
    have sent := congrArg Flow.key (g.flushAt_sent till b)
    rwa [Flow.sent_key, Flow.sent_key] at sent
  unfold Flow.emptied
  split
  · exact key _ _
  · exact key _ _

theorem Flow.flushed_emptied (f : Flow) {k : FlowKey} {hard : Bool} (cuts : (k.kind ≠ 0 ∧ k.kind ≠ 5) ∨ hard = true) (till : Nat) :
    f.Flushed hard (f.emptied k till hard) ∧ ((k.kind = 0 ∨ k.kind = 5) → ∀ x ∈ (f.emptied k till hard).sweep, x.wsize = 4) := by
  unfold Flow.emptied
  split
  · rename_i set
    have isHard : hard = true := by tauto
    subst isHard
    have flushed := Flow.flushed_flushAt { f with sweep := f.sweep.filter fun x => x.wsize == 4 } till true
    refine ⟨⟨flushed.filling, flushed.packets, flushed.noted, flushed.held⟩, fun _ x here => ?_⟩
    rw [Flow.flushAt_sweep] at here
    simpa using (List.mem_filter.1 here).2
  · rename_i records
    exact ⟨f.flushed_flushAt till hard, fun set => absurd set records⟩

/-- A flush of a record flow, and a hard one of SKIM or RAW (R259 to R261). -/
theorem Hub.flushFlow_flushed {h : Hub} {k : FlowKey} {f : Flow} (found : h.findFlow k = some f) (started : f.started = true) {hard : Bool}
    (cuts : (k.kind ≠ 0 ∧ k.kind ≠ 5) ∨ hard = true)
    (room : (h.die k.die).store.spool = .limit ∨ h.spoolBytes k.die < (h.die k.die).store.spoolPages * 16384 - 65536) :
    ∃ g, (h.flushFlow hard k).findFlow k = some g ∧ f.Flushed hard g ∧ ((k.kind = 0 ∨ k.kind = 5) → ∀ x ∈ g.sweep, x.wsize = 4) := by
  have run : h.flushFlow hard k = h.flushFlow hard k := rfl
  conv at run => rhs; unfold Hub.flushFlow
  rw [found] at run
  dsimp -zeta only at run
  rw [if_neg (by simp [started])] at run
  extract_lets set was dropped hs strm win h1 till raw hr h2 at run
  have first : ∃ e, h1.findFlow k = some e ∧ ∀ g, e.Flushed hard g → f.Flushed hard g := by
    unfold h1
    split
    · exact ⟨{ f with sending := none }, h.setFlow_findFlow (φ := fun f => { f with sending := none }) (fun _ key => key) found,
        fun g => Flow.Flushed.of_given⟩
    · exact ⟨f, found, fun g => id⟩
  have dies1 : h1.dies = h.dies := by
    unfold h1
    split <;> rfl
  have bytes1 : h1.spoolBytes k.die ≤ h.spoolBytes k.die := by
    unfold h1
    split
    · exact h.spoolBytes_setFlow_le k (φ := fun f => { f with sending := none }) (fun _ => rfl) (fun _ => le_refl _) k.die
    · exact le_refl _
  have flows2 : h2.flows = (h1.setFlow k fun f => f.emptied k till hard).flows := by
    unfold h2 Flow.emptied
    by_cases sampled : set
    · have isHard : hard = true := by
        rcases cuts with other | isHard
        · exact absurd sampled (not_or.2 other)
        · exact isHard
      rw [if_neg (by simp [isHard]), if_pos sampled]
      simp only [show (k.kind = 0 ∨ k.kind = 5) from sampled, if_true]
      rfl
    · rw [if_neg fun both => sampled both.1, if_neg sampled]
      simp only [show ¬(k.kind = 0 ∨ k.kind = 5) from sampled, if_false]
  have dies2 : h2.dies = h.dies := by
    unfold h2
    split
    · exact dies1
    · split <;> exact dies1
  clear_value h1 h2 dropped was till
  obtain ⟨e, found1, given⟩ := first
  obtain ⟨flushed, samples⟩ := e.flushed_emptied cuts till
  have found2 : h2.findFlow k = some (e.emptied k till hard) := by
    rw [Hub.findFlow, flows2]
    exact h1.setFlow_findFlow (fun a key => (a.emptied_key k till hard).trans key) found1
  obtain ⟨a, found3, eased⟩ := h2.freeAcked_eased dropped found2
  have room3 : k.kind ≠ 0 ∨ ((h2.freeAcked k dropped).die k.die).store.spool = .limit ∨
      (h2.freeAcked k dropped).spoolBytes k.die < ((h2.freeAcked k dropped).die k.die).store.spoolPages * 16384 - 65536 := by
    by_cases skim : k.kind = 0
    · have isHard : hard = true := cuts.resolve_left fun other => other.1 skim
      have still : h2.freeAcked k dropped = h2 := by
        unfold Hub.freeAcked
        rw [if_pos (by omega)]
      have die : h2.die k.die = h.die k.die := by rw [Hub.die, Hub.die, dies2]
      have bytes2 : h2.spoolBytes k.die ≤ h1.spoolBytes k.die := by
        rw [Hub.spoolBytes, flows2]
        refine h1.spoolBytes_setFlow_le k (fun f => f.emptied_key k till hard) (fun f => ?_) k.die
        rw [Flow.emptied, if_pos (.inl skim)]
        exact (Flow.spoolSize_flushAt_le _ till).trans (le_refl _)
      rw [still, die]
      rcases room with limit | room
      · exact .inr (.inl limit)
      · exact .inr (.inr (lt_of_le_of_lt (bytes2.trans bytes1) room))
    · exact .inl skim
  obtain ⟨g, found4, eased'⟩ := Hub.flowBuilt_eased k.die was room3 found3
  rw [run]
  exact ⟨g, found4, given g ((flushed.eased eased).eased eased'), fun set x here => samples set x (eased.sweep (eased'.sweep here))⟩

/-- A soft flush of SKIM or RAW waits for the boundary (R259). -/
theorem Hub.flushFlow_soft {h : Hub} {k : FlowKey} {f : Flow} (found : h.findFlow k = some f) (started : f.started = true)
    (set : k.kind = 0 ∨ k.kind = 5) : ∃ g, (h.flushFlow false k).findFlow k = some g ∧ g.softFlush = true ∧ g.held = f.held := by
  have run : h.flushFlow false k =
      ((h.setFlow k fun f => { f with softFlush := true }).freeAcked k fun s => f.waiting.any fun p => p.seq == s).flowBuilt k.die h.seqs := by
    unfold Hub.flushFlow
    rw [found]
    dsimp only
    rw [if_neg (by simp [started])]
    simp only [Bool.false_and, Bool.false_eq_true, if_false, Bool.not_false, and_true, if_pos set]
  have found1 := h.setFlow_findFlow (φ := fun f => { f with softFlush := true }) (fun _ key => key) found
  have cores : (h.flushFlow false k).flowCores = (h.setFlow k fun f => { f with softFlush := true }).flowCores := by
    rw [run, Hub.flowBuilt_flowCores, Hub.freeAcked_flowCores]
  obtain ⟨g, found', core⟩ := Hub.findFlow_of_flowCores cores found1
  have soft : g.core.softFlush = true := by rw [core]; rfl
  have held : g.core.held = f.held := by rw [core]; rfl
  exact ⟨g, found', soft, held⟩

theorem Hub.strmFlush_one {h : Hub} {kind w : Nat} (low : kind ≤ 1) (good : h.flowOk (FlowKey.of w) = true) :
    h.strmFlush kind [w] = (h.flushFlow (kind == 1) (FlowKey.of w)).ok [] := by
  unfold Hub.strmFlush
  rw [if_neg]
  · rfl
  · simp [good]
    omega

/-! ## The local stream window (R255) -/

/-- A read of the window where it is served. -/
theorem Hub.hspi_window {h : Hub} (on : h.hspiOn = true) :
    h.hspi 0x0B 0x3000 [] 1 = h.readLocal.shown [h.readLocal.dbw.readout.headD 0] := by
  unfold Hub.hspi
  rw [if_neg (by simp [on]), if_neg (by decide), if_pos (by decide), if_neg (by decide)]
  rfl

theorem Hub.watermarks_dbw (h : Hub) : h.watermarks.dbw = h.dbw := by
  refine forAll_keeps Hub.dbw _ (fun i g => ?_) _ _
  dsimp only
  split <;> rfl

theorem Hub.watermarks_words (h : Hub) : h.watermarks.strm.win.words = h.strm.win.words := by
  obtain ⟨hi, fco, strm⟩ := h.watermarks_strm
  rw [strm]

theorem Hub.watermarks_items (h : Hub) : h.watermarks.strm.win.items = h.strm.win.items := by
  obtain ⟨hi, fco, strm⟩ := h.watermarks_strm
  rw [strm]

/-- The hub with a word of the window put out. -/
def Hub.wordOut (h : Hub) (w : Word) : Hub := { h with dbw := { h.dbw with readout := [w] } }

/-- A read of the window that puts a word out and leaves a hub before it compares the watermarks. -/
theorem Hub.window_reads {h g : Hub} {w : Word} (on : h.hspiOn = true) (reads : h.readLocal = (g.wordOut w).watermarks) :
    ∃ t, h.hspi 0x0B 0x3000 [] 1 = t ∧ t.dbw.readout = [w] ∧ t.flows = g.flows ∧ t.strm.win.words = g.strm.win.words ∧
      t.strm.win.items = g.strm.win.items := by
  refine ⟨_, Hub.hspi_window on, ?_, ?_, ?_, ?_⟩
  · rw [reads]
    exact congrArg (fun d : Dbw => [d.readout.headD 0]) (Hub.watermarks_dbw (g.wordOut w))
  · rw [reads]
    exact Hub.watermarks_flows (g.wordOut w)
  · rw [reads]
    exact Hub.watermarks_words (g.wordOut w)
  · rw [reads]
    exact Hub.watermarks_items (g.wordOut w)

/-- The hub with the rest of the item in hand. -/
def Hub.wordsLeft (h : Hub) (r : List Word) : Hub := { h with strm := { h.strm with win := { h.strm.win with words := r } } }
/-- The hub with an item of the window in hand and the others. -/
def Hub.itemTaken (h : Hub) (ws : List Word) (r : List Item) : Hub :=
  { h with strm := { h.strm with win := { h.strm.win with words := ws, items := r } } }

theorem Hub.readLocal_word {h : Hub} {w : Word} {r : List Word} (words : h.strm.win.words = w :: r) :
    h.readLocal = ((h.wordsLeft r).doneLocal.wordOut w).watermarks := by
  unfold Hub.readLocal
  rw [words]
  rfl

theorem Hub.readLocal_item {h : Hub} (words : h.strm.win.words = []) {g : Hub}
    (drained : Hub.drainFull (((h.strm.localFlow.bind h.findFlow).map fun f => f.yoke.length + f.backlog.length).getD 0 + 1) h = g) {i : Item}
    {is : List Item} (items : g.strm.win.items = i :: is) :
    h.readLocal = ((g.itemTaken (wordsOf i.bytes).tail is).wordOut ((wordsOf i.bytes).headD 0)).watermarks := by
  unfold Hub.readLocal
  rw [words]
  dsimp only
  rw [drained, items]
  rfl

theorem Hub.readLocal_none {h : Hub} (words : h.strm.win.words = []) {g : Hub}
    (drained : Hub.drainFull (((h.strm.localFlow.bind h.findFlow).map fun f => f.yoke.length + f.backlog.length).getD 0 + 1) h = g)
    (items : g.strm.win.items = []) : h.readLocal = (g.wordOut 0).watermarks := by
  unfold Hub.readLocal
  rw [words]
  dsimp only
  rw [drained, items]
  rfl

theorem Hub.drainFull_held {h : Hub} (items : h.strm.win.items ≠ []) (n : Nat) : Hub.drainFull n h = h := by
  cases n with
  | zero => rfl
  | succ n => exact if_neg (by simpa using items)

theorem Hub.drainFull_step {h : Hub} (items : h.strm.win.items = []) (n : Nat) :
    Hub.drainFull (n + 1) h = Hub.drainFull n h.doneLocal.drainLocal := if_pos (by simp [items])

theorem Hub.doneLocal_none {h : Hub} (none' : h.strm.localFlow = none) : h.doneLocal = h := by
  unfold Hub.doneLocal
  rw [none']

theorem Hub.doneLocal_unread {h : Hub} (unread : h.strm.win.items ≠ [] ∨ h.strm.win.words ≠ []) : h.doneLocal = h := by
  unfold Hub.doneLocal
  split
  · exact if_neg (by simpa using or_iff_not_imp_left.1 unread)
  · rfl

theorem Hub.doneLocal_read {h : Hub} {k : FlowKey} (local' : h.strm.localFlow = some k) (items : h.strm.win.items = [])
    (words : h.strm.win.words = []) : h.doneLocal = h.setFlow k Flow.readOut := by
  unfold Hub.doneLocal
  rw [local']
  exact if_pos (by simp [items, words])

theorem Hub.drainLocal_none {h : Hub} (none' : h.strm.localFlow = none) : h.drainLocal = h := by
  unfold Hub.drainLocal
  rw [none']

theorem Hub.drainLocal_empty {h : Hub} {k : FlowKey} (local' : h.strm.localFlow = some k) {f : Flow} (found : h.findFlow k = some f)
    (empty : f.yoke ++ f.backlog = []) : h.drainLocal = h := by
  unfold Hub.drainLocal
  rw [local']
  dsimp only
  rw [found]
  dsimp only
  rw [empty]

/-- The hub whose window begins a packet of a flow. -/
def Hub.begun (h : Hub) (k : FlowKey) (p : Packet) : Hub :=
  { (h.setFlow k fun f => { f with sending := some p }) with strm := { h.strm with win := { h.strm.win with items := p.items } } }

theorem Hub.drainLocal_begins {h : Hub} {k : FlowKey} (local' : h.strm.localFlow = some k) {f : Flow} (found : h.findFlow k = some f)
    {p : Packet} {l : List Packet} (oldest : f.yoke ++ f.backlog = p :: l) : h.drainLocal = h.begun k p := by
  unfold Hub.drainLocal
  rw [local']
  dsimp only
  rw [found]
  dsimp only
  rw [oldest]
  rfl

theorem Flow.readOut_key (f : Flow) : f.readOut.key = f.key := by
  unfold Flow.readOut
  split <;> rfl

theorem Flow.readOut_idle {f : Flow} (idle : f.sending = none) : f.readOut = f := by
  unfold Flow.readOut
  rw [idle]

theorem Flow.readOut_read {f : Flow} {p : Packet} (reads : f.sending = some p) : f.readOut = { f with
    sending := none, yoke := f.yoke.filter (fun q => q.seq != p.seq), backlog := f.backlog.filter (fun q => q.seq != p.seq),
    lastAck := if f.held.isEmpty then p.seq else f.lastAck } := by
  unfold Flow.readOut
  rw [reads]

end Sys2Proof.Machine

open Sys2Proof Sys2Proof.Machine

/-- Settles O32: each entry acts on its own flow, and what the spool of the die then does changes no SEQ acknowledged and takes no
flushed packet back. -/
theorem acknowledgeAndSweep : Obligations.AcknowledgeAndSweep := by
  unfold Obligations.AcknowledgeAndSweep
  refine ⟨fun s es e f => ⟨next_congr (if_pos (.inl rfl)), fun r bad => ?_, fun r inband some' few good => ?_, fun good few found => ?_⟩,
    fun s kind w ws f => ⟨fun bad => ?_, fun low some' good => ?_, fun low good found idle => ?_, fun low good cuts found started room => ?_,
      fun good set found started => ?_⟩, fun s flow f p l w r i is => ?_⟩
  · refine next_congr (if_pos ?_)
    rcases bad with empty | many | ⟨x, here, long | unknown⟩
    · exact .inr (.inl (by simp [empty]))
    · exact .inr (.inr (.inl many))
    · exact .inr (.inr (.inr (.inl (List.any_eq_true.2 ⟨x, here, by simpa using long⟩))))
    · exact .inr (.inr (.inr (.inr (List.any_eq_true.2 ⟨x, here, by simp [unknown]⟩))))
  · refine next_congr (if_neg ?_)
    rintro (hspi | empty | many | long | unknown)
    · exact inband hspi
    · exact some' (List.isEmpty_iff.1 empty)
    · omega
    · obtain ⟨x, here, long⟩ := List.any_eq_true.1 long
      exact absurd (good x here).1 (by simpa using long)
    · obtain ⟨x, here, unknown⟩ := List.any_eq_true.1 unknown
      simp [(good x here).2] at unknown
  · obtain ⟨g, found', core⟩ := Hub.ackEntry_acked found
    refine ⟨⟨(s.hub.ackEntry e).ok [], s.pending⟩, g, next_congr (if_neg ?_), rfl, found', ?_⟩
    · simp [good, few]
    · have ignored : (seqBefore e.seqCum f.lastAck = true ∨ seqBefore f.newest e.seqCum = true) ↔ f.ignores e.seqCum = true := by
        simp [Flow.ignores]
      have lastAck := congrArg Flow.lastAck core
      have held := congrArg Flow.held core
      have ackBad := congrArg Flow.ackBad core
      by_cases ignores : f.ignores e.seqCum = true
      · rw [if_pos ignores] at lastAck held ackBad
        rw [if_pos (ignored.2 ignores)]
        exact ⟨lastAck, held, ackBad⟩
      · rw [if_neg ignores] at lastAck held ackBad
        rw [if_neg (ignores ∘ ignored.1)]
        exact ⟨lastAck, held, ackBad⟩
  · refine next_congr (if_pos ?_)
    rcases bad with high | empty | ⟨x, here, unknown⟩
    · exact .inl high
    · exact .inr (.inl (by simp [empty]))
    · exact .inr (.inr (List.any_eq_true.2 ⟨x, here, by simp [unknown]⟩))
  · refine next_congr (if_neg ?_)
    rintro (high | empty | unknown)
    · omega
    · exact some' (List.isEmpty_iff.1 empty)
    · obtain ⟨x, here, unknown⟩ := List.any_eq_true.1 unknown
      simp [good x here] at unknown
  · exact next_congr ((Hub.strmFlush_one low good).trans (congrArg (Hub.ok · []) (Hub.flushFlow_idle found idle _)))
  · obtain ⟨g, found', ⟨filling, packets, ⟨n, note, hard, count⟩, held⟩, samples⟩ :=
      Hub.flushFlow_flushed found started (hard := kind == 1) (by simpa using cuts) room
    exact ⟨_, g, n, next_congr (Hub.strmFlush_one low good), rfl, found', filling, packets, note, fun one => hard (by simp [one]), held, count, samples⟩
  · obtain ⟨g, found', soft, held⟩ := Hub.flushFlow_soft found started set
    exact ⟨_, g, next_congr (Hub.strmFlush_one (by decide) good), rfl, found', soft, held⟩
  · refine ⟨fun none' => next_same (Hub.sweepFlow_none none'), fun found skim raw => next_same (Hub.sweepFlow_records found skim raw),
      fun found set started => ?_, fun off => next_same (if_pos (by simp [off])), fun on words => ?_, fun on words items local' found reads => ?_,
      fun on words items => ?_, fun on words items none' => ?_, fun on words items local' found idle empty => ?_,
      fun on words items local' found idle oldest some' => ?_⟩
    · obtain ⟨g, found', swept⟩ := Hub.sweepFlow_swept found set started
      exact ⟨_, g, rfl, found', swept, s.hub.sweepFlow_tm _⟩
    · obtain ⟨t, run, out, flows, words', items'⟩ := Hub.window_reads on (Hub.readLocal_word words)
      refine ⟨_, next_congr run, out, words'.trans ?_, items'.trans ?_, fun unread => flows.trans ?_⟩
      · unfold Hub.doneLocal
        split
        · split <;> rfl
        · rfl
      · unfold Hub.doneLocal
        split
        · split <;> rfl
        · rfl
      · rcases unread with more | items | none'
        · rw [Hub.doneLocal_unread (h := s.hub.wordsLeft r) (.inr more)]
          rfl
        · rw [Hub.doneLocal_unread (h := s.hub.wordsLeft r) (.inl items)]
          rfl
        · rw [Hub.doneLocal_none (h := s.hub.wordsLeft r) none']
          rfl
    · obtain ⟨t, run, out, flows, -⟩ := Hub.window_reads on (Hub.readLocal_word words)
      have read : (s.hub.wordsLeft []).doneLocal = (s.hub.wordsLeft []).setFlow (FlowKey.of flow) Flow.readOut :=
        Hub.doneLocal_read local' items rfl
      have found' : t.findFlow (FlowKey.of flow) = some f.readOut := by
        rw [Hub.findFlow, flows, read]
        exact Hub.setFlow_findFlow _ (fun a key => a.readOut_key.trans key) found
      rw [Flow.readOut_read reads] at found'
      refine ⟨_, _, next_congr run, out, found', rfl, rfl, fun q here => ?_⟩
      rcases List.mem_append.1 here with yoke | backlog
      · simpa using (List.mem_filter.1 yoke).2
      · simpa using (List.mem_filter.1 backlog).2
    · obtain ⟨t, run, out, flows, words', items'⟩ :=
        Hub.window_reads on (Hub.readLocal_item words (Hub.drainFull_held (by simp [items]) _) items)
      exact ⟨_, next_congr run, out, words', items', flows⟩
    · have drained (n : Nat) : Hub.drainFull n s.hub = s.hub := by
        induction n with
        | zero => rfl
        | succ n ih => rw [Hub.drainFull_step items, Hub.doneLocal_none none', Hub.drainLocal_none none', ih]
      obtain ⟨t, run, out, flows, -⟩ := Hub.window_reads on (Hub.readLocal_none words (drained _) items)
      exact ⟨_, next_congr run, out, flows⟩
    · have done : s.hub.doneLocal = s.hub.setFlow (FlowKey.of flow) Flow.readOut := Hub.doneLocal_read local' items words
      have found' : s.hub.doneLocal.findFlow (FlowKey.of flow) = some f := by
        rw [done, s.hub.setFlow_findFlow (fun a key => a.readOut_key.trans key) found, Flow.readOut_idle idle]
      have local'' : s.hub.doneLocal.strm.localFlow = some (FlowKey.of flow) := by rw [done]; exact local'
      have items' : s.hub.doneLocal.strm.win.items = [] := by rw [done]; exact items
      have waiting : f.yoke.length + f.backlog.length = 0 := by rw [← List.length_append, empty]; rfl
      have drained : Hub.drainFull (((s.hub.strm.localFlow.bind s.hub.findFlow).map fun f => f.yoke.length + f.backlog.length).getD 0 + 1) s.hub =
          s.hub.doneLocal := by
        rw [Hub.drainFull_step items, Hub.drainLocal_empty local'' found' empty, local']
        simp [found, waiting, Hub.drainFull]
      obtain ⟨t, run, out, -⟩ := Hub.window_reads on (Hub.readLocal_none words drained items')
      exact ⟨_, next_congr run, out⟩
    · have done : s.hub.doneLocal = s.hub.setFlow (FlowKey.of flow) Flow.readOut := Hub.doneLocal_read local' items words
      have found' : s.hub.doneLocal.findFlow (FlowKey.of flow) = some f := by
        rw [done, s.hub.setFlow_findFlow (fun a key => a.readOut_key.trans key) found, Flow.readOut_idle idle]
      have local'' : s.hub.doneLocal.strm.localFlow = some (FlowKey.of flow) := by rw [done]; exact local'
      obtain ⟨i, is, packet⟩ := List.exists_cons_of_ne_nil some'
      have drained : Hub.drainFull (((s.hub.strm.localFlow.bind s.hub.findFlow).map fun f => f.yoke.length + f.backlog.length).getD 0 + 1) s.hub =
          s.hub.doneLocal.begun (FlowKey.of flow) p := by
        rw [Hub.drainFull_step items, Hub.drainLocal_begins local'' found' oldest]
        exact Hub.drainFull_held some' _
      obtain ⟨t, run, out, flows, words', items'⟩ := Hub.window_reads on (Hub.readLocal_item words drained packet)
      have sends : t.findFlow (FlowKey.of flow) = some { f with sending := some p } := by
        rw [Hub.findFlow, flows]
        exact s.hub.doneLocal.setFlow_findFlow (φ := fun f => { f with sending := some p }) (fun _ key => key) found'
      refine ⟨_, _, next_congr run, sends, rfl, rfl, rfl, rfl, items'.trans ?_, out.trans ?_⟩
      · rw [packet]
        rfl
      · rw [packet]
        rfl
end

section
/-! PROOFS. What the start, the loss and the changes of a port leave of the ports (R297, R308, R311, R338). -/

namespace Sys2Proof.Machine

/-! ## Ports without their traffic -/

theorem Hub.setPort_setPort (h : Hub) (p : Nat) (f g : Port → Port) : (h.setPort p f).setPort p g = h.setPort p fun q => g (f q) :=
  congrArg (fun l => { h with ports := l }) (List.modify_modify_eq ..)

/-- Two changes of a port that leave it the same leave the same hub. -/
theorem Hub.setPort_congr (h : Hub) {p : Nat} {f g : Port → Port} (same : f (h.prt p) = g (h.prt p)) : h.setPort p f = h.setPort p g := by
  refine congrArg (fun l => { h with ports := l }) ?_
  cases there : h.ports[p]? with
  | none =>
    have beyond := List.getElem?_eq_none_iff.1 there
    rw [modAt, modAt, List.modify_eq_self beyond, List.modify_eq_self beyond]
  | some q => exact modify_eq_of_getElem? there (by rwa [h.prt_of_getElem? there] at same)

theorem Hub.setPort_unchanged (h : Hub) {p : Nat} {f : Port → Port} (same : f (h.prt p) = h.prt p) : h.setPort p f = h :=
  (h.setPort_congr (g := id) same).trans (congrArg (fun l => { h with ports := l }) (List.modify_id ..))

theorem Hub.portCores_getElem? (h : Hub) (i : Nat) : h.portCores[i]? = h.ports[i]?.map Port.core := List.getElem?_map ..

theorem Hub.getElem?_of_portCores {h k : Hub} (same : k.portCores = h.portCores) {p : Nat} {q : Port} (there : h.ports[p]? = some q) :
    ∃ x, k.ports[p]? = some x ∧ x.core = q.core := by
  have found := k.portCores_getElem? p
  rw [same, h.portCores_getElem?, there] at found
  exact Option.map_eq_some_iff.1 found.symm

/-- A change of a port that does not look at its traffic acts on the ports without theirs. -/
theorem Hub.setPort_portCores_of {h k : Hub} (same : k.portCores = h.portCores) (p : Nat) {φ : Port → Port}
    (blind : ∀ q, (φ q.core).core = (φ q).core) : (k.setPort p φ).portCores = (h.setPort p φ).portCores := by
  refine List.ext_getElem? fun i => ?_
  have at' : k.ports[i]?.map Port.core = h.ports[i]?.map Port.core := by
    rw [← k.portCores_getElem?, ← h.portCores_getElem?, same]
  rw [Hub.portCores_getElem?, Hub.portCores_getElem?, Hub.setPort_ports, Hub.setPort_ports, List.getElem?_modify, List.getElem?_modify]
  simp only [Option.map_eq_map, Option.map_map]
  have through : Port.core ∘ φ = (fun q => (φ q).core) ∘ Port.core := funext fun q => (blind q).symm
  by_cases named : p = i
  · simp only [named, if_true]
    change Option.map (Port.core ∘ φ) _ = Option.map (Port.core ∘ φ) _
    rw [through, ← Option.map_map, ← Option.map_map, at']
  · simp only [named, if_false]
    exact at'

@[simp] theorem Hub.unsend_portCores (h : Hub) (p : Nat) : (h.unsend p).portCores = h.portCores := rfl
@[simp] theorem Hub.discardNote_portCores (h : Hub) (p n : Nat) : (h.discardNote p n).portCores = h.portCores := by
  unfold Hub.discardNote
  split
  · rfl
  · rw [Hub.notice_portCores]
    rfl
@[simp] theorem Hub.linkGone_portCores (h : Hub) : h.linkGone.portCores = h.portCores := by
  unfold Hub.linkGone
  split
  · exact Hub.laneAway_portCores ..
  · rfl
@[simp] theorem Hub.rawReassign_portCores (h : Hub) : h.rawReassign.portCores = h.portCores := by
  refine forAll_portCores _ (fun k g => ?_) _ _
  dsimp only
  split
  · rfl
  · split
    · rfl
    · rw [Hub.notice_portCores]
      rfl
@[simp] theorem Hub.queuesReset_portCores (h : Hub) (p : Nat) : (h.queuesReset p).portCores = h.portCores := by
  unfold Hub.queuesReset
  rw [Hub.discardNote_portCores, Hub.setLink_portCores]
@[simp] theorem Hub.queuesReset_clk (h : Hub) (p : Nat) : (h.queuesReset p).clk = h.clk := by
  unfold Hub.queuesReset
  rw [Hub.discardNote_clk]
  rfl

/-! ## The loss and the start of a port -/

/-- A port that has left what it was (R297, R338). -/
def Port.left (now p : Nat) (st : PState) (q : Port) : Port :=
  let x : Port := { q with
    st := st, rate := 0, width := 0, peer := 0, peerRate := 0, peerWidth := 0, peerLocked := 0, peerSerial := none,
    lanes := q.lanes.mapIdx fun i l => if i < 3 then { l.hunt now with parked := false, mcount := 0 } else l,
    searchAt := now, run := none, widthRun := none, asked := none, askedAt := none, lost := [], mcount := 0, blk := 0,
    link := q.link.restart }
  { x with ltUp := x.ltUp && (p == 0 || x.ltRuns) }

theorem Hub.portLost_portCores (h : Hub) (p : Nat) (st : PState) :
    (h.portLost p st).portCores = (h.setPort p (Port.left h.clk.elapsed p st)).portCores := by
  unfold Hub.portLost
  extract_lets k gone h1 h2 h3
  have first : h1.portCores = h.portCores := by rw [Hub.discardNote_portCores, Hub.unsend_portCores]
  have clk : h1.clk = h.clk := Hub.discardNote_clk ..
  have both : h3 = h1.setPort p (Port.left h.clk.elapsed p st) := by
    unfold h3 h2
    rw [Hub.setPort_setPort, clk]
    rfl
  have last : h3.portCores = (h.setPort p (Port.left h.clk.elapsed p st)).portCores := by
    rw [both]
    exact Hub.setPort_portCores_of first p (by intro; rfl)
  clear_value h3
  split
  · rw [Hub.linkGone_portCores]
    exact last
  · exact last

/-- What follows a change of a plain port leaves the ports. -/
theorem Hub.regroup_portCores (h : Hub) (p : Nat) :
    (if h.strm.rawGroup.contains p then h.rawReassign else h).watermarks.portCores = h.portCores := by
  rw [Hub.watermarks_portCores]
  split
  · exact h.rawReassign_portCores
  · rfl

theorem Hub.portDown_portCores (h : Hub) (p : Nat) (st : PState) :
    (h.portDown p st).portCores = (h.setPort p (Port.left h.clk.elapsed p st)).portCores :=
  (Hub.regroup_portCores _ p).trans (h.portLost_portCores p st)

/-- What a port begins, where its die can serve: what its MODE says, as far as the coupler, its quadrant and its lanes let it (R297, R299,
R324). -/
def Hub.startState (h : Hub) (p : Nat) : PState :=
  if p < 2 && h.flt.closed then .bypassed
  else if !(h.die (p / 4)).inService || !h.powered p then .off
  else match (h.prt p).mode with
    | 1 => if (h.prt p).laneWidth = 0 ∧ p ≠ 0 then .off else .search
    | 2 => if (h.prt p).laneWidth = 0 then .off else .plain
    | 3 => if (h.prt p).laneWidth = 0 then .off else .test
    | _ => .off

/-- A port that has begun what its MODE says. -/
def Port.begun (now p : Nat) (st : PState) (q : Port) : Port :=
  let x := q.left now p st
  if st = .plain then { x with rate := fld q.cfg 22 20, width := min (fld q.cfg 19 18) q.laneWidth }
  else if st = .test then { x with rate := fld q.cfg 22 20 } else x

theorem Hub.portStart_eq (h : Hub) (p : Nat) :
    h.portStart p = (fun g : Hub => (if g.strm.rawGroup.contains p then g.rawReassign else g).watermarks)
      (if h.startState p = .plain then (h.portLost p (h.startState p)).setPort p fun q => { q with
        rate := fld (h.prt p).cfg 22 20, width := min (fld (h.prt p).cfg 19 18) (h.prt p).laneWidth }
      else if h.startState p = .test then (h.portLost p (h.startState p)).setPort p fun q => { q with rate := fld (h.prt p).cfg 22 20 }
      else h.portLost p (h.startState p)) := rfl

theorem Hub.portStart_portCores (h : Hub) (p : Nat) :
    (h.portStart p).portCores = (h.setPort p (Port.begun h.clk.elapsed p (h.startState p))).portCores := by
  have lost := h.portLost_portCores p (h.startState p)
  rw [Hub.portStart_eq]
  refine (Hub.regroup_portCores _ p).trans ?_
  split
  · rename_i plain
    refine (Hub.setPort_portCores_of lost p (by intro; rfl)).trans ?_
    rw [Hub.setPort_setPort]
    refine congrArg Hub.portCores (h.setPort_congr ?_)
    simp only [Port.begun, plain, if_true]
  · split
    · rename_i other test
      refine (Hub.setPort_portCores_of lost p (by intro; rfl)).trans ?_
      rw [Hub.setPort_setPort]
      refine congrArg Hub.portCores (h.setPort_congr ?_)
      simp only [Port.begun, test, if_true]
      rfl
    · rename_i other other'
      refine lost.trans (congrArg Hub.portCores (h.setPort_congr ?_))
      simp only [Port.begun, other, other', if_false]

/-! ## Steps and width changes that are asked for (R310, R315, R318) -/

/-- A control block waits behind the port's others. -/
def Port.saying (code bits : Nat) (q : Port) : Port := { q with link := { q.link with ctl := q.link.ctl ++ [⟨code, bits⟩] } }

theorem Hub.ctl_setPort (h : Hub) (p code bits : Nat) : h.ctl p code bits = h.setPort p (Port.saying code bits) := rfl

/-- The upstream end has begun a step to a rate (R310). -/
def Port.stepping (now rate : Nat) (cause : StepCause) (good : List (Nat × Nat)) (q : Port) : Port :=
  { q.saying 0x66 (stepBits rate ((q.mcount + 2) % 65536)) with
    run := some { target := rate, at' := some ((q.mcount + 2) % 65536), cause := cause, fromRate := q.rate, fromWidth := q.width, good := good,
                  own := none, peer := none, since := now },
    askedAt := some now, quietAt := now }

theorem Hub.startStep_setPort (h : Hub) (p rate : Nat) (cause : StepCause) (good : List (Nat × Nat)) :
    h.startStep p rate cause good = h.setPort p (Port.stepping h.clk.elapsed rate cause good) := by
  unfold Hub.startStep
  dsimp only
  rw [Hub.ctl_setPort, Hub.setPort_setPort]
  exact h.setPort_congr rfl

theorem Hub.askRate_waits {h : Hub} {p : Nat} (runs : (h.prt p).run ≠ none ∨ (h.prt p).ordered = true) (rate : Nat) :
    h.askRate p rate = h.setPort p fun q => { q with asked := some (true, rate) } := by
  unfold Hub.askRate
  exact if_pos (by rwa [Option.isSome_iff_ne_none])

/-- A port that could begin a change of its rate at once. -/
def Port.Quiet (q : Port) : Prop := q.st = .up ∧ q.run = none ∧ q.ordered = false

theorem Hub.askRate_begins {h : Hub} {p : Nat} (quiet : (h.prt p).Quiet) (upper : p ≠ 0) (rate : Nat) :
    h.askRate p rate = h.setPort p fun q => ({ q with widthRun := none } : Port).stepping h.clk.elapsed rate .retrain [] := by
  obtain ⟨up, run, ordered⟩ := quiet
  unfold Hub.askRate
  rw [if_neg (by simp [run, ordered]), if_neg (by simp [up]), if_pos (by simpa [upstream] using upper), Hub.startStep_setPort,
    Hub.setPort_setPort]
  rfl

theorem Hub.askRate_asks {h : Hub} (quiet : (h.prt 0).Quiet) (rate : Nat) :
    h.askRate 0 rate = h.setPort 0 fun q => { q.saying 0x66 (requestBits rate) with askedAt := some h.clk.elapsed } := by
  obtain ⟨up, run, ordered⟩ := quiet
  unfold Hub.askRate
  rw [if_neg (by simp [run, ordered]), if_neg (by simp [up]), if_neg (by decide), Hub.ctl_setPort, Hub.setPort_setPort]

theorem Hub.askWidth_waits {h : Hub} {p : Nat} (runs : (h.prt p).run ≠ none ∨ (h.prt p).widthRun ≠ none) (w : Nat) :
    h.askWidth p w = h.setPort p fun q => { q with asked := match q.asked with | some (true, r) => some (true, r) | _ => some (false, w) } := by
  unfold Hub.askWidth
  exact if_pos (by rwa [Option.isSome_iff_ne_none, Option.isSome_iff_ne_none])

theorem Hub.askWidth_still {h : Hub} {p w : Nat} (run : (h.prt p).run = none) (widthRun : (h.prt p).widthRun = none)
    (same : (h.prt p).st ≠ .up ∨ w = (h.prt p).width ∨ w = 0) : h.askWidth p w = h := by
  unfold Hub.askWidth
  rw [if_neg (by simp [run, widthRun])]
  exact if_pos same

/-- This end has asked for a width (R315, R317). -/
def Port.widening (now p w : Nat) (q : Port) : Port :=
  { q.saying 0x78 (w * 2 ^ 50) with
    askedAt := some now, answered := none, widthRun := if upstream p then some ⟨w, none, false⟩ else none,
    lanes := if upstream p then q.wakeTo now w else q.lanes }

theorem Hub.askWidth_begins {h : Hub} {p w : Nat} (run : (h.prt p).run = none) (widthRun : (h.prt p).widthRun = none)
    (up : (h.prt p).st = .up) (other : w ≠ (h.prt p).width) (some' : w ≠ 0) :
    h.askWidth p w = h.setPort p (Port.widening h.clk.elapsed p w) := by
  unfold Hub.askWidth
  rw [if_neg (by simp [run, widthRun]), if_neg (by simp [up, other, some'])]
  dsimp only
  rw [Hub.ctl_setPort, Hub.setPort_setPort]
  rfl

/-! ## What a port that has begun is -/

theorem Port.begun_keeps {α : Type} (view : Port → α) (keeps : ∀ (x : Port) r w, view { x with rate := r, width := w } = view x) (now p : Nat)
    (st : PState) (q : Port) : view (q.begun now p st) = view (q.left now p st) := by
  unfold Port.begun
  dsimp only
  split
  · exact keeps _ _ _
  · split
    · exact keeps _ _ _
    · rfl

@[simp] theorem Port.begun_cfg (now p : Nat) (st : PState) (q : Port) : (q.begun now p st).cfg = q.cfg :=
  Port.begun_keeps Port.cfg (by intros; rfl) now p st q
@[simp] theorem Port.begun_st (now p : Nat) (st : PState) (q : Port) : (q.begun now p st).st = st :=
  Port.begun_keeps Port.st (by intros; rfl) now p st q
@[simp] theorem Port.begun_run (now p : Nat) (st : PState) (q : Port) : (q.begun now p st).run = none :=
  Port.begun_keeps Port.run (by intros; rfl) now p st q
@[simp] theorem Port.begun_manual (now p : Nat) (st : PState) (q : Port) : (q.begun now p st).manual = q.manual :=
  Port.begun_keeps Port.manual (by intros; rfl) now p st q
@[simp] theorem Port.begun_searchAt (now p : Nat) (st : PState) (q : Port) : (q.begun now p st).searchAt = now :=
  Port.begun_keeps Port.searchAt (by intros; rfl) now p st q
@[simp] theorem Port.begun_peerSerial (now p : Nat) (st : PState) (q : Port) : (q.begun now p st).peerSerial = none :=
  Port.begun_keeps Port.peerSerial (by intros; rfl) now p st q

theorem Port.begun_plain (now p : Nat) (q : Port) :
    (q.begun now p .plain).rate = fld q.cfg 22 20 ∧ (q.begun now p .plain).width = min (fld q.cfg 19 18) q.laneWidth := ⟨rfl, rfl⟩

theorem Hub.startState_not (h : Hub) (p : Nat) : h.startState p ≠ .up ∧ h.startState p ≠ .training := by
  unfold Hub.startState
  split
  · exact ⟨nofun, nofun⟩
  · split
    · exact ⟨nofun, nofun⟩
    · split
      · split <;> exact ⟨nofun, nofun⟩
      · split <;> exact ⟨nofun, nofun⟩
      · split <;> exact ⟨nofun, nofun⟩
      · exact ⟨nofun, nofun⟩

/-- What a port that is there has begun. -/
theorem Hub.portStart_begun {h : Hub} {p : Nat} {q : Port} (there : h.ports[p]? = some q) :
    ∃ x, (h.portStart p).ports[p]? = some x ∧ x.core = (q.begun h.clk.elapsed p (h.startState p)).core :=
  Hub.getElem?_of_portCores (h.portStart_portCores p) (h.setPort_getElem?_same there _)

/-- Ports that are the same but for their traffic have the same in every view that does not look at it. -/
theorem Port.view_of_core {α : Type} (view : Port → α) {x y : Port} (same : x.core = y.core) (blind : ∀ q, view q.core = view q) :
    view x = view y := by
  rw [← blind x, same, blind]

end Sys2Proof.Machine
end

section
/-! PROOFS. Settings of ports: Obligations.PortSettings. -/

namespace Sys2Proof.Machine

theorem Hub.onPort_absent {h : Hub} {p : Nat} (absent : h.nPorts ≤ p) (k : Hub) : h.onPort p k = h.refuse St.badArg := if_pos absent

theorem Hub.onPort_down {h : Hub} {p : Nat} (present : p < h.nPorts) (down : h.dieDown (p / 4) = true) (k : Hub) :
    h.onPort p k = h.refuseDie St.fault (p / 4) := (if_neg (Nat.not_le.2 present)).trans (h.onDies_one_down down k)

theorem Hub.onPort_up {h : Hub} {p : Nat} (up : PortUp h p) (k : Hub) : h.onPort p k = k :=
  (if_neg (Nat.not_le.2 up.2.1)).trans (h.onDies_one_up up.2.2 k)

/-! ## LINK_CFG_SET (R297, R298) -/

/-- A port that LINK_CFG_SET has given a word: where it leaves TEST its lanes' tests end. -/
def Port.configured (w : Word) (q : Port) : Port :=
  { q with cfg := w, lanes := if q.mode = 3 ∧ fld w 31 30 ≠ 3 then q.lanes.map fun (l : Lane) => { l with test := 0, sync := false, syncAt := none }
                              else q.lanes }

/-- The hub after LINK_CFG_SET, for whether the port begins anew. -/
def Hub.configured (h : Hub) (p : Nat) (w : Word) : Hub := h.setPort p (Port.configured w)

/-- LINK_CFG_SET refuses a word. -/
def Hub.refusesCfg (h : Hub) (p : Nat) (w : Word) : Prop :=
  badLinkCfg w = true ∨ (p < 2 ∧ (fld w 31 30 = 0 ∨ fld w 31 30 = 2)) ∨ (fld w 31 30 ≠ 2 ∧ h.capNames p = true)

/-- LINK_CFG_SET starts the port again. -/
def Port.restarts (w : Word) (q : Port) : Prop :=
  fld w 31 30 ≠ fld q.cfg 31 30 ∨ fld w 22 18 ≠ fld q.cfg 22 18 ∨ (q.st = .wiring ∧ w ≠ q.cfg)

section
variable {h : Hub} {p : Nat} {w : Word} (up : PortUp h p)
include up

theorem Hub.linkCfgSet_bad (bad : h.refusesCfg p w) : h.linkCfgSet p w = h.refuse St.badArg :=
  (h.onPort_up up _).trans (if_pos bad)

theorem Hub.linkCfgSet_held (good : ¬h.refusesCfg p w) (held : p < 2 ∧ fld w 31 30 = 3 ∧ h.sealOpen = false) :
    h.linkCfgSet p w = h.refuse St.isSealed :=
  (h.onPort_up up _).trans ((if_neg good).trans (if_pos (by simpa using held)))

theorem Hub.linkCfgSet_restarts (good : ¬h.refusesCfg p w) (free : ¬(p < 2 ∧ fld w 31 30 = 3 ∧ h.sealOpen = false))
    (restarts : (h.prt p).restarts w) : h.linkCfgSet p w = ((h.configured p w).portStart p).ok [] := by
  refine (h.onPort_up up _).trans ((if_neg good).trans ((if_neg (by simpa using free)).trans ?_))
  exact congrArg (Hub.ok · []) ((if_pos restarts).trans (congrArg (Hub.portStart · p) (h.setPort_congr rfl)))

/-- What a word that starts nothing again leaves ahead of its limits. -/
def Hub.worded (h : Hub) (p : Nat) (w : Word) : Hub := h.setPort p fun x => { x with cfg := w }

theorem Hub.linkCfgSet_keeps (good : ¬h.refusesCfg p w) (free : ¬(p < 2 ∧ fld w 31 30 = 3 ∧ h.sealOpen = false))
    (keeps : ¬(h.prt p).restarts w) : h.linkCfgSet p w =
      (if (h.prt p).st = .up ∧ !(h.prt p).manual then
        let g := if fld w 28 26 < (h.prt p).rate then (h.worded p w).askRate p (fld w 28 26) else h.worded p w
        if fld w 25 24 < (h.prt p).width then g.askWidth p (fld w 25 24) else g
      else h.worded p w).ok [] := by
  have same : fld w 31 30 = (h.prt p).mode := by
    by_contra other
    exact keeps (.inl other)
  have stays : ¬((h.prt p).mode = 3 ∧ fld w 31 30 ≠ 3) := fun leaves => leaves.2 (same.trans leaves.1)
  have stored : (h.setPort p fun q => { q with
      cfg := w, lanes := if (h.prt p).mode = 3 ∧ fld w 31 30 ≠ 3 then
        q.lanes.map fun (l : Lane) => { l with test := 0, sync := false, syncAt := none } else q.lanes }) = h.worded p w :=
    h.setPort_congr (by simp only [if_neg stays])
  refine (h.onPort_up up _).trans ((if_neg good).trans ((if_neg (by simpa using free)).trans ?_))
  rw [← stored]
  exact congrArg (Hub.ok · []) (if_neg keeps)

theorem Hub.linkCfgSet_runs (good : ¬h.refusesCfg p w) (free : ¬(p < 2 ∧ fld w 31 30 = 3 ∧ h.sealOpen = false))
    (keeps : ¬(h.prt p).restarts w)
    (runs : (h.prt p).st ≠ .up ∨ (h.prt p).manual = true ∨ ((h.prt p).rate ≤ fld w 28 26 ∧ (h.prt p).width ≤ fld w 25 24)) :
    h.linkCfgSet p w = (h.worded p w).ok [] := by
  rw [Hub.linkCfgSet_keeps up good free keeps]
  refine congrArg (Hub.ok · []) ?_
  split
  · rename_i acts
    rcases runs with down | manual | ⟨rate, width⟩
    · exact absurd acts.1 down
    · simp [manual] at acts
    · dsimp only
      rw [if_neg (Nat.not_lt.2 width), if_neg (Nat.not_lt.2 rate)]
  · rfl

/-- A limit that is lowered below what runs begins a retrain or a width change (R298, R314, R318). -/
theorem Hub.linkCfgSet_lowers (good : ¬h.refusesCfg p w) (free : ¬(p < 2 ∧ fld w 31 30 = 3 ∧ h.sealOpen = false))
    (keeps : ¬(h.prt p).restarts w) (isUp : (h.prt p).st = .up) (auto : (h.prt p).manual = false) (run : (h.prt p).run = none)
    (widthRun : (h.prt p).widthRun = none) (lower : fld w 28 26 < (h.prt p).rate ∨ fld w 25 24 < (h.prt p).width) :
    ∃ φ : Port → Port, h.linkCfgSet p w = (h.setPort p φ).ok [] ∧ (φ (h.prt p)).cfg = w ∧ (φ (h.prt p)).st = .up ∧
      (φ (h.prt p)).askedAt = some h.clk.elapsed ∧
      (fld w 28 26 < (h.prt p).rate → p ≠ 0 → ∃ r, (φ (h.prt p)).run = some r ∧ r.target = fld w 28 26) := by
  rw [Hub.linkCfgSet_keeps up good free keeps, if_pos ⟨isUp, by simp [auto]⟩]
  have now (f : Port → Port) : (h.setPort p f).prt p = f (h.prt p) := h.setPort_prt_same (PortUp.there up) f
  have worded : (h.worded p w).prt p = { h.prt p with cfg := w } := h.setPort_prt_same (PortUp.there up) _
  have wide : fld w 25 24 ≠ 0 := by
    intro zero
    refine good (.inl ?_)
    simp [badLinkCfg, zero]
  have quiet : ((h.worded p w).prt p).Quiet := by
    rw [worded]
    exact ⟨isUp, run, by simp [Port.ordered, widthRun]⟩
  dsimp only
  by_cases rate : fld w 28 26 < (h.prt p).rate
  · rw [if_pos rate]
    by_cases upper : p = 0
    · subst upper
      rw [Hub.askRate_asks quiet, Hub.worded, Hub.setPort_setPort]
      split
      · rename_i width
        rw [Hub.askWidth_begins (by rw [now]; exact run) (by rw [now]; exact widthRun) (by rw [now]; exact isUp)
          (by rw [now]; exact Nat.ne_of_lt width) wide, Hub.setPort_setPort]
        exact ⟨_, rfl, rfl, isUp, rfl, fun _ upper => absurd rfl upper⟩
      · exact ⟨_, rfl, rfl, isUp, rfl, fun _ upper => absurd rfl upper⟩
    · rw [Hub.askRate_begins quiet upper, Hub.worded, Hub.setPort_setPort]
      split
      · rw [Hub.askWidth_waits (.inl (by rw [now]; simp [Port.stepping])), Hub.setPort_setPort]
        exact ⟨_, rfl, rfl, isUp, rfl, fun _ _ => ⟨_, rfl, rfl⟩⟩
      · exact ⟨_, rfl, rfl, isUp, rfl, fun _ _ => ⟨_, rfl, rfl⟩⟩
  · have width := lower.resolve_left rate
    rw [if_neg rate, if_pos width, Hub.askWidth_begins (by rw [worded]; exact run) (by rw [worded]; exact widthRun) (by rw [worded]; exact isUp)
      (by rw [worded]; exact Nat.ne_of_lt width) wide, Hub.worded, Hub.setPort_setPort]
    exact ⟨_, rfl, rfl, isUp, rfl, fun lower => absurd lower rate⟩
end

theorem Port.laneWidth_configured (w : Word) (q : Port) : (q.configured w).laneWidth = q.laneWidth := by
  have retired (i : Nat) : ((q.configured w).lanes.getD i Lane.reset).retired = (q.lanes.getD i Lane.reset).retired := by
    unfold Port.configured
    dsimp only
    split
    · rw [List.getD_eq_getElem?_getD, List.getD_eq_getElem?_getD, List.getElem?_map]
      cases q.lanes[i]? <;> rfl
    · rfl
  simp only [Port.laneWidth, retired]

/-- What LINK_CFG_SET starts a port that is there on a die that serves with. -/
theorem Hub.startState_configured {h : Hub} {p : Nat} {w : Word} (up : PortUp h p) : (h.configured p w).startState p =
    if p < 2 ∧ h.flt.closed = true then .bypassed else if h.powered p = false then .off
    else if fld w 31 30 = 1 then (if (h.prt p).laneWidth = 0 ∧ p ≠ 0 then .off else .search)
    else if (h.prt p).laneWidth = 0 ∨ fld w 31 30 = 0 then .off else if fld w 31 30 = 2 then .plain else .test := by
  have serves : ((h.configured p w).die (p / 4)).inService = true := by
    have := up.2.2
    simp only [Hub.dieDown, Bool.or_eq_false_iff, Bool.not_eq_false'] at this
    exact this.1
  have port : (h.configured p w).prt p = (h.prt p).configured w := h.setPort_prt_same (PortUp.there up) _
  have mode : ((h.prt p).configured w).mode = fld w 31 30 := rfl
  have low : fld w 31 30 < 4 := Nat.mod_lt _ (by decide)
  unfold Hub.startState
  rw [serves, port, mode, Port.laneWidth_configured]
  have closed : (h.configured p w).flt = h.flt := rfl
  have powered : (h.configured p w).powered p = h.powered p := rfl
  rw [closed, powered]
  simp only [Bool.and_eq_true, decide_eq_true_eq, Bool.not_true, Bool.false_or, Bool.not_eq_true']
  split
  · rfl
  · split
    · rfl
    · generalize fld w 31 30 = m at low
      interval_cases m <;> simp

/-- LINK_MANUAL off on a port that is manual begins its bring-up anew (R309). -/
theorem Hub.handBack_begun {h : Hub} {p : Nat} {q : Port} (there : h.ports[p]? = some q) (manual : q.manual = true) :
    ∃ x, (Hub.handBack p h).ports[p]? = some x ∧ x.manual = false ∧ x.cfg = q.cfg ∧ x.run = none ∧ x.st ≠ .up := by
  unfold Hub.handBack
  rw [h.prt_of_getElem? there, if_pos manual]
  obtain ⟨x, found, core⟩ := Hub.portStart_begun (h.setPort_getElem?_same there fun q => { q with manual := false })
  refine ⟨x, found, ?_, ?_, ?_, ?_⟩
  · exact (Port.view_of_core Port.manual core (by intro; rfl)).trans (Port.begun_manual ..)
  · exact (Port.view_of_core Port.cfg core (by intro; rfl)).trans (Port.begun_cfg ..)
  · exact (Port.view_of_core Port.run core (by intro; rfl)).trans (Port.begun_run ..)
  · rw [(Port.view_of_core Port.st core (by intro; rfl)).trans (Port.begun_st ..)]
    exact (Hub.startState_not _ p).1

/-! ## LINK_MANUAL, LINK_SLIP, LINK_RATE and LINK_WIDTH (R309, R318, R396) -/

section
variable {h : Hub} {p : Nat} (up : PortUp h p)
include up

theorem Hub.linkManual_bad {on : Nat} (bad : 1 < on) : h.linkManual p on = h.refuse St.badArg := (h.onPort_up up _).trans (if_pos bad)
theorem Hub.linkSlip_bad {l : Nat} (bad : 2 < l) : h.linkSlip p l = h.refuse St.badArg := (h.onPort_up up _).trans (if_pos bad)
theorem Hub.linkRate_bad {r : Nat} (bad : 4 < r) : h.linkRate p r = h.refuse St.badArg := (h.onPort_up up _).trans (if_pos bad)

theorem Hub.linkManual_sealed {on : Nat} (low : on ≤ 1) (held : h.sealOpen = false) : h.linkManual p on = h.refuse St.isSealed :=
  (h.onPort_up up _).trans ((if_neg (by omega)).trans (if_pos (by simp [held])))
theorem Hub.linkSlip_sealed {l : Nat} (low : l ≤ 2) (held : h.sealOpen = false) : h.linkSlip p l = h.refuse St.isSealed :=
  (h.onPort_up up _).trans ((if_neg (by omega)).trans (if_pos (by simp [held])))
theorem Hub.linkRate_sealed {r : Nat} (low : r ≤ 4) (held : h.sealOpen = false) : h.linkRate p r = h.refuse St.isSealed :=
  (h.onPort_up up _).trans ((if_neg (by omega)).trans (if_pos (by simp [held])))

theorem Hub.linkManual_off (free : h.sealOpen = true) : h.linkManual p 0 = (Hub.handBack p h).ok [] :=
  (h.onPort_up up _).trans ((if_neg (by omega)).trans ((if_neg (by simp [free])).trans (if_neg (by omega))))

theorem Hub.linkSlip_auto {l : Nat} (low : l ≤ 2) (free : h.sealOpen = true) (auto : (h.prt p).manual = false) :
    h.linkSlip p l = h.refuse St.badArg :=
  (h.onPort_up up _).trans ((if_neg (by omega)).trans ((if_neg (by simp [free])).trans (if_pos (by simp [auto]))))
theorem Hub.linkRate_auto {r : Nat} (low : r ≤ 4) (free : h.sealOpen = true) (auto : (h.prt p).manual = false) :
    h.linkRate p r = h.refuse St.badArg :=
  (h.onPort_up up _).trans ((if_neg (by omega)).trans ((if_neg (by simp [free])).trans (if_pos (by simp [auto]))))

theorem Hub.linkSlip_manual {l : Nat} (low : l ≤ 2) (free : h.sealOpen = true) (manual : (h.prt p).manual = true) :
    h.linkSlip p l = (h.setLane p l (Lane.slip h.clk.elapsed)).ok [] :=
  (h.onPort_up up _).trans ((if_neg (by omega)).trans ((if_neg (by simp [free])).trans (if_neg (by simp [manual]))))

theorem Hub.linkRate_manual {r : Nat} (low : r ≤ 4) (free : h.sealOpen = true) (manual : (h.prt p).manual = true) :
    h.linkRate p r = if (h.prt p).st = .up ∨ (h.prt p).run.isSome then (h.askRate p r).ok [] else (h.relockAt p r).ok [] :=
  (h.onPort_up up _).trans ((if_neg (by omega)).trans ((if_neg (by simp [free])).trans (if_neg (by simp [manual]))))

theorem Hub.linkWidth_bad {w : Nat} (bad : w = 0 ∨ 3 < w ∨ (h.prt p).manual = false) : h.linkWidth p w = h.refuse St.badArg :=
  (h.onPort_up up _).trans (if_pos (by simpa using bad))

theorem Hub.linkWidth_manual {w : Nat} (least : 1 ≤ w) (most : w ≤ 3) (manual : (h.prt p).manual = true) :
    h.linkWidth p w = (h.askWidth p w).ok [] :=
  (h.onPort_up up _).trans (if_neg (by simp [manual]; omega))
end

end Sys2Proof.Machine

open Sys2Proof Sys2Proof.Machine

/-- Settles O35, by what each command leaves of its port. That LINK_RATE orders a step of a manual port that is UP, and sets the rate of
any other, is log entry 65's reading. -/
theorem portSettings : Obligations.PortSettings := by
  unfold Obligations.PortSettings
  refine ⟨fun s p w => ⟨fun absent i here => ?_, fun present down i here => ?_, fun up => ⟨fun bad => next_congr (Hub.linkCfgSet_bad up bad),
      fun good held => next_congr (Hub.linkCfgSet_held up good held), fun good free keeps runs => next_congr (Hub.linkCfgSet_runs up good free keeps runs),
      fun good free keeps isUp auto run widthRun lower => ?_, fun good free restarts => ?_, next_congr (Hub.onPort_up up _),
      next_congr (Hub.onPort_up up _)⟩⟩,
    fun s p on l r w => ⟨fun absent i here => ?_, fun present down i here => ?_, fun up => ?_⟩⟩
  · fin_cases here <;> exact next_congr (Hub.onPort_absent absent _)
  · fin_cases here <;> exact next_congr (Hub.onPort_down present down _)
  · obtain ⟨φ, run', cfg, st, asked, target⟩ := Hub.linkCfgSet_lowers up good free keeps isUp auto run widthRun lower
    exact ⟨_, φ (s.hub.prt p), next_congr run', rfl, s.hub.setPort_getElem?_same (PortUp.there up) φ, cfg, st, asked, target⟩
  · obtain ⟨x, found, core⟩ := Hub.portStart_begun (s.hub.setPort_getElem?_same (PortUp.there up) (Port.configured w))
    have st := (Port.view_of_core Port.st core (by intro; rfl)).trans (Port.begun_st ..)
    have state := Hub.startState_configured (w := w) up
    refine ⟨_, x, next_congr (Hub.linkCfgSet_restarts up good free restarts), rfl, found, ?_, ?_, st.trans state, fun plain => ?_⟩
    · exact (Port.view_of_core Port.cfg core (by intro; rfl)).trans (Port.begun_cfg ..)
    · exact (Port.view_of_core Port.run core (by intro; rfl)).trans (Port.begun_run ..)
    · rw [← st, plain] at core
      obtain ⟨rate, width⟩ := Port.begun_plain (s.hub.setPort p (Port.configured w)).clk.elapsed p ((s.hub.prt p).configured w)
      exact ⟨(Port.view_of_core Port.rate core (by intro; rfl)).trans rate,
        (Port.view_of_core Port.width core (by intro; rfl)).trans (width.trans (by rw [Port.laneWidth_configured]; rfl))⟩
  · fin_cases here <;> exact next_congr (Hub.onPort_absent absent _)
  · fin_cases here <;> exact next_congr (Hub.onPort_down present down _)
  · have alone (f : Port → Port) (i : Nat) (other : i ≠ p) : (s.hub.setPort p f).ports[i]? = s.hub.ports[i]? :=
      s.hub.setPort_getElem?_other (Ne.symm other) f
    refine ⟨fun bad => next_congr (Hub.linkManual_bad up bad), fun bad => next_congr (Hub.linkSlip_bad up bad),
      fun bad => next_congr (Hub.linkRate_bad up bad), fun bad => next_congr (Hub.linkWidth_bad up bad),
      fun held on l r i here => ?_, fun free => next_congr ?_, fun free auto => next_congr ?_, fun free manual => ?_,
      fun free auto l r i here => ?_, fun free manual low => next_congr (Hub.linkSlip_manual up low free manual),
      fun free manual low down run => ?_, fun free manual low isUp run ordered => ?_,
      fun manual least most other isUp run widthRun => ?_, fun manual least most same run widthRun => ?_,
      fun free manual low runs => ?_, fun manual least most runs unasked => ?_⟩
    · fin_cases here
      · exact next_congr (Hub.linkManual_sealed up on held)
      · exact next_congr (Hub.linkSlip_sealed up l held)
      · exact next_congr (Hub.linkRate_sealed up r held)
    · exact (s.hub.onPort_up up _).trans ((if_neg (by omega)).trans ((if_neg (by simp [free])).trans (if_pos rfl)))
    · exact (Hub.linkManual_off up free).trans (congrArg (Hub.ok · []) (if_neg (by simp [auto])))
    · obtain ⟨x, found, begun⟩ := Hub.handBack_begun (PortUp.there up) manual
      exact ⟨_, x, next_congr (Hub.linkManual_off up free), rfl, found, begun⟩
    · fin_cases here
      · exact next_congr (Hub.linkSlip_auto up l free auto)
      · exact next_congr (Hub.linkRate_auto up r free auto)
    · refine ⟨_, _, next_congr ((Hub.linkRate_manual up low free manual).trans (if_neg (by simp [down, run]))), rfl,
        s.hub.setPort_getElem?_same (PortUp.there up) _, rfl, rfl, alone _⟩
    · have runs := (Hub.linkRate_manual up low free manual).trans (if_pos (.inl isUp))
      by_cases upper : p = 0
      · subst upper
        rw [Hub.askRate_asks ⟨isUp, run, ordered⟩] at runs
        exact ⟨_, _, next_congr runs, rfl, s.hub.setPort_getElem?_same (PortUp.there up) _, rfl, rfl, fun upper => absurd rfl upper,
          fun _ => rfl, alone _⟩
      · rw [Hub.askRate_begins ⟨isUp, run, ordered⟩ upper] at runs
        exact ⟨_, _, next_congr runs, rfl, s.hub.setPort_getElem?_same (PortUp.there up) _, rfl, rfl, fun _ => ⟨_, rfl, rfl⟩,
          fun lower => absurd lower upper, alone _⟩
    · have runs := Hub.linkWidth_manual up least most manual
      rw [Hub.askWidth_begins run widthRun isUp other (by omega)] at runs
      refine ⟨_, _, next_congr runs, rfl, s.hub.setPort_getElem?_same (PortUp.there up) _, rfl, rfl, rfl, fun upper => ?_, alone _⟩
      have upper' : upstream p = true := by simpa [upstream] using upper
      exact ⟨if_pos upper', if_pos upper'⟩
    · exact next_congr ((Hub.linkWidth_manual up least most manual).trans (congrArg (Hub.ok · []) (Hub.askWidth_still run widthRun (by tauto))))
    · refine next_congr ((Hub.linkRate_manual up low free manual).trans ((if_pos ?_).trans
        (congrArg (Hub.ok · []) (Hub.askRate_waits (by tauto) r))))
      exact runs.symm.imp And.left Option.isSome_iff_ne_none.2
    · refine next_congr ((Hub.linkWidth_manual up least most manual).trans
        (congrArg (Hub.ok · []) ((Hub.askWidth_waits runs w).trans (s.hub.setPort_congr ?_))))
      split
      · exact absurd ‹_› (unasked _)
      · rfl
end

section
/-! PROOFS. Lane tests and the coupler: Obligations.LaneTestsAndCoupler. -/

namespace Sys2Proof.Machine

/-! ## Counters of a lane (R321, R323) -/

theorem Hub.setLane_setLane (h : Hub) (p l : Nat) (f g : Lane → Lane) :
    (h.setLane p l f).setLane p l g = h.setLane p l fun x => g (f x) := by
  rw [Hub.setLane, Hub.setLane, Hub.setPort_setPort, Hub.setLane]
  refine congrArg (h.setPort p) (funext fun q => ?_)
  exact congrArg (fun lanes => { q with lanes := lanes }) (List.modify_modify_eq ..)

/-- A lane that counts changes its bits, its errors and the time up to which it has counted. -/
def Lane.Counts (φ : Lane → Lane) : Prop := ∀ x, ∃ bits err at', φ x = { x with bits := bits, err := err, syncAt := at' }

theorem Hub.countBits_counts (h : Hub) (p l least : Nat) :
    ∃ fresh φ, h.countBits p l least = ({ h with fresh := fresh } : Hub).setLane p l φ ∧ Lane.Counts φ := by
  unfold Hub.countBits
  extract_lets x now errs
  split
  · exact ⟨_, _, rfl, fun _ => ⟨_, _, _, rfl⟩⟩
  · split
    · exact ⟨_, _, rfl, fun y => ⟨y.bits, _, _, rfl⟩⟩
    · refine ⟨h.fresh, id, ?_, fun y => ⟨y.bits, y.err, y.syncAt, rfl⟩⟩
      exact (h.setPort_unchanged (f := fun q => { q with lanes := modAt q.lanes l id })
        (congrArg (fun lanes => { h.prt p with lanes := lanes }) (List.modify_id ..))).symm

theorem Hub.countBits_idle {h : Hub} {p l : Nat} (unsynced : (h.lane p l).sync = false ∨ (h.lane p l).syncAt = none)
    (idle : l ≠ 3 ∨ fld (h.lane p l).test 24 23 = 1 ∨ (h.prt p).ltRuns = false) (least : Nat) : h.countBits p l least = h := by
  unfold Hub.countBits
  extract_lets x now errs
  split
  · rename_i t sync at'
    rcases unsynced with off | never
    · rw [show (h.lane p l).sync = true from sync] at off
      cases off
    · rw [show (h.lane p l).syncAt = some t from at'] at never
      cases never
  · rw [if_neg]
    rintro ⟨lt, outside, runs⟩
    rcases idle with data | near | off
    · exact data lt
    · exact outside near
    · rw [runs] at off
      cases off

theorem Hub.countBits_synced {h : Hub} {p l t : Nat} (sync : (h.lane p l).sync = true) (at' : (h.lane p l).syncAt = some t) (least : Nat) :
    h.countBits p l least = h.tick.setLane p l fun x => { x with
      bits := satAdd 48 x.bits ((h.clk.elapsed - t) * h.laneRate p l / 1000000000),
      err := satAdd 48 x.err (max least (Config.prbsErrors h.tick.fresh % ((h.clk.elapsed - t) * h.laneRate p l / 1000000000 + 1))),
      syncAt := some h.clk.elapsed } := by
  unfold Hub.countBits
  dsimp only
  rw [sync, at']
  rfl

/-! ## LINK_TEST_SET and LINK_LANE_GET (R320 to R322) -/

/-- A pattern, a checker or a loop is named. -/
theorem laneTest_names (w : Word) : fld w 31 23 &&& 0x1FB ≠ 0 ↔ fld w 31 26 ≠ 0 ∨ fld w 24 23 ≠ 0 := by
  have high : fld w 31 26 = fld w 31 23 / 8 := by simp only [fld]; omega
  have low : fld w 24 23 = fld w 31 23 % 4 := by simp only [fld]; omega
  have short : fld w 31 23 / 8 < 64 := Nat.div_lt_of_lt_mul (Nat.mod_lt _ (by decide))
  have all : ∀ a < 64, ∀ b < 8, (8 * a + b) &&& 0x1FB ≠ 0 ↔ a ≠ 0 ∨ b % 4 ≠ 0 := by decide
  have parts := all _ short (fld w 31 23 % 8) (Nat.mod_lt _ (by decide))
  rw [Nat.div_add_mod, Nat.mod_mod_of_dvd _ (by decide)] at parts
  rw [high, low]
  exact parts

/-- LINK_TEST_SET refuses a word for a lane. -/
def Hub.refusesTest (h : Hub) (p l : Nat) (w : Word) : Prop :=
  3 < l ∨ badLaneTest w = true ∨ (fld (h.prt p).cfg 31 30 ≠ 3 ∧ (fld w 31 26 ≠ 0 ∨ fld w 24 23 ≠ 0))

section
variable {h : Hub} {p l : Nat} (up : PortUp h p)
include up

theorem Hub.linkTestSet_bad {w : Word} (bad : h.refusesTest p l w) : h.linkTestSet p l w = h.refuse St.badArg :=
  (h.onPort_up up _).trans (if_pos (bad.imp_right (Or.imp_right (And.imp_right (laneTest_names w).2))))

theorem Hub.linkTestSet_sealed {w : Word} (good : ¬h.refusesTest p l w)
    (held : fld (h.prt p).cfg 31 30 = 1 ∧ fld w 22 20 ≠ 0 ∧ h.sealOpen = false) : h.linkTestSet p l w = h.refuse St.isSealed :=
  (h.onPort_up up _).trans ((if_neg fun bad => good (bad.imp_right (Or.imp_right (And.imp_right (laneTest_names w).1)))).trans
    (if_pos (by simpa [Port.mode] using held)))

/-- What a lane's test injects. -/
def injects (w : Word) : Nat := if fld w 22 20 = 1 then 1 else if fld w 22 20 = 2 then fld w 19 12 else 0

theorem Hub.linkTestSet_stores {w : Word} (good : ¬h.refusesTest p l w)
    (free : ¬(fld (h.prt p).cfg 31 30 = 1 ∧ fld w 22 20 ≠ 0 ∧ h.sealOpen = false)) :
    ∃ φ, h.linkTestSet p l w = ((h.countBits p l 0).setLane p l φ).ok [] ∧ ∀ x, (φ x).test = (if injects w = 0 then w else setFld w 22 20 0) ∧
      (φ x).burst = (if injects w = 0 then x.burst else injects w) ∧ (φ x).lock = x.lock := by
  refine ⟨_, (h.onPort_up up _).trans ((if_neg fun bad => good (bad.imp_right (Or.imp_right (And.imp_right (laneTest_names w).1)))).trans
    (if_neg (by simpa [Port.mode] using free))), fun x => ⟨rfl, rfl, rfl⟩⟩

/-- The counters of Table 11-8 as a read answers them. -/
def Lane.counters (x : Lane) : Bytes :=
  be 6 x.bits ++ be 6 x.err ++ be 1 (if x.sync then 1 else 0) ++ pad 1 ++ be 2 x.syncLoss ++ be 4 x.invHdr ++
    be 2 x.lockLoss ++ be 2 x.markGlitch ++ be 2 x.alignFail ++ be 2 x.retrain ++ be 2 x.eyeW ++ be 2 x.eyeH

theorem Hub.linkLaneGet_bad {clear : Nat} (bad : 3 < l ∨ 1 < clear) : h.linkLaneGet p l clear = h.refuse St.badArg :=
  (h.onPort_up up _).trans (if_pos bad)

theorem Hub.linkLaneGet_reads (lane : l ≤ 3) : h.linkLaneGet p l 0 = (h.countBits p l 0).ok ((h.countBits p l 0).lane p l).counters :=
  (h.onPort_up up _).trans (if_neg (by omega))

theorem Hub.linkLaneGet_clears (lane : l ≤ 3) : h.linkLaneGet p l 1 = ((h.countBits p l 0).setLane p l fun z => { z with
    bits := 0, err := 0, syncLoss := 0, invHdr := 0, lockLoss := 0, markGlitch := 0, alignFail := 0, retrain := 0,
    eyeW := 0, eyeH := 0 }).ok ((h.countBits p l 0).lane p l).counters :=
  (h.onPort_up up _).trans (if_neg (by omega))
end

/-! ## The coupler (R325, R348) -/

theorem Hub.portStart_flt (h : Hub) (p : Nat) : (h.portStart p).flt = h.flt := by
  have follow (x : Hub) : (if x.strm.rawGroup.contains p then x.rawReassign else x).watermarks.flt = x.flt := by
    rw [Hub.watermarks_flt]
    split
    · exact x.rawReassign_flt
    · rfl
  rw [Hub.portStart_eq]
  refine (follow _).trans ?_
  generalize h.startState p = st
  split
  · exact (h.portLost_clk_flt p _).2
  · split
    · exact (h.portLost_clk_flt p _).2
    · exact (h.portLost_clk_flt p _).2

/-- Once the coupler closes, both of its ports are bypassed (R324). -/
theorem Hub.closeCoupler_bypassed {h : Hub} {q r : Port} (first : h.ports[0]? = some q) (second : h.ports[1]? = some r) (byHost : Bool) :
    ((h.closeCoupler byHost).prt 0).st = .bypassed ∧ ((h.closeCoupler byHost).prt 1).st = .bypassed := by
  have h0 : ({ h with flt := { h.flt with closed := true, byHost := byHost, closing := none } } : Hub).ports = h.ports := rfl
  rw [Hub.closeCoupler]
  generalize ({ h with flt := { h.flt with closed := true, byHost := byHost, closing := none } } : Hub) = g at h0
  rw [← h0] at first second
  obtain ⟨a, at0, core0⟩ := Hub.getElem?_of_portCores (g.portDown_portCores 0 .bypassed) (g.setPort_getElem?_same first _)
  obtain ⟨b, at1, -⟩ := Hub.getElem?_of_portCores (g.portDown_portCores 0 .bypassed)
    ((g.setPort_getElem?_other Nat.zero_ne_one _).trans second)
  obtain ⟨c, at0', core0'⟩ := Hub.getElem?_of_portCores ((g.portDown 0 .bypassed).portDown_portCores 1 .bypassed)
    (((g.portDown 0 .bypassed).setPort_getElem?_other (Nat.succ_ne_zero 0) _).trans at0)
  obtain ⟨d, at1', core1'⟩ := Hub.getElem?_of_portCores ((g.portDown 0 .bypassed).portDown_portCores 1 .bypassed)
    ((g.portDown 0 .bypassed).setPort_getElem?_same at1 _)
  have still (k : Hub) (p : Nat) : (k.clockLoss.prt p).st = (k.prt p).st := by
    rw [Hub.prt, Hub.clockLoss_ports]
    exact k.setPort_prt_view 0 p (view := Port.st) (by intro; rfl)
  rw [still, still, Hub.prt_of_getElem? _ at0', Hub.prt_of_getElem? _ at1']
  constructor
  · exact (Port.view_of_core Port.st core0' (by intro; rfl)).trans (Port.view_of_core Port.st core0 (by intro; rfl))
  · exact Port.view_of_core Port.st core1' (by intro; rfl)

theorem Hub.openCoupler_opens {h : Hub} (free : h.couplerCause = false) :
    h.openCoupler.flt = { h.flt with closed := false, byHost := false, closing := none } := by
  unfold Hub.openCoupler
  rw [if_neg (by simp [free]), Hub.portStart_flt, Hub.portStart_flt]

theorem Shaped.port {h : Hub} (shaped : Shaped h) {p : Nat} (low : p < 4) : h.ports[p]? = some (h.prt p) := by
  obtain ⟨-, -, -, length, -⟩ := shaped
  have dies := h.nDies_pos
  have present : p < h.ports.length := by rw [length, Hub.nPorts]; omega
  rw [Hub.prt, List.getD_eq_getElem?_getD, List.getElem?_eq_getElem present]
  rfl

theorem Hub.syncLoss_counts {h : Hub} {p l : Nat} (there : LaneThere h p l) (sync : (h.lane p l).sync = true) (at' : (h.lane p l).syncAt ≠ none) :
    ((h.syncLoss p l).lane p l).sync = false ∧ ((h.syncLoss p l).lane p l).syncLoss = satInc 16 (h.lane p l).syncLoss := by
  obtain ⟨q, found, has⟩ := there
  obtain ⟨fresh, ψ, counted, counts⟩ := h.countBits_counts p l 257
  have run : h.syncLoss p l = ({ h with fresh := fresh } : Hub).setLane p l fun x =>
      { ψ x with sync := false, syncAt := none, syncLoss := satInc 16 (ψ x).syncLoss } := by
    refine (if_neg (by simp [sync, at'])).trans ?_
    rw [counted, Hub.setLane_setLane]
  obtain ⟨bits, err, at'', made⟩ := counts (h.lane p l)
  have ticked : ({ h with fresh := fresh } : Hub).lane p l = h.lane p l := rfl
  rw [run, Hub.setLane_lane_same { h with fresh := fresh } (q := q) found has, ticked, made]
  exact ⟨rfl, rfl⟩

section
variable {h : Hub}

theorem Hub.linkCoupler_held (closed : h.flt.closed = true) (other : h.flt.byHost = false ∨ h.couplerCause = true) :
    h.linkCoupler 0 = h.refuse St.fault := by
  unfold Hub.linkCoupler
  dsimp only
  rw [if_neg (by decide), if_pos rfl]
  split
  · rfl
  · rename_i own
    rw [if_pos (other.resolve_left fun host => own ⟨closed, by simp [host]⟩)]

theorem Hub.linkCoupler_opens (closed : h.flt.closed = true) (byHost : h.flt.byHost = true) (free : h.couplerCause = false) :
    h.linkCoupler 0 = h.openCoupler.ok [] := by
  unfold Hub.linkCoupler
  dsimp only
  rw [if_neg (by decide), if_pos rfl, if_neg (by simp [byHost]), if_pos closed, if_neg (by simp [free])]

theorem Hub.linkCoupler_isOpen (open' : h.flt.closed = false) : h.linkCoupler 0 = h.ok [] := by
  unfold Hub.linkCoupler
  dsimp only
  rw [if_neg (by decide), if_pos rfl, if_neg (by simp [open']), if_neg (by simp [open'])]

theorem Hub.linkCoupler_isClosed (closed : h.flt.closed = true ∨ h.flt.closing ≠ none) : h.linkCoupler 1 = h.ok [] := by
  unfold Hub.linkCoupler
  dsimp only
  rw [if_neg (by decide), if_neg (by decide), if_pos (closed.imp_right Option.isSome_iff_ne_none.2)]

theorem Hub.linkCoupler_closes (open' : h.flt.closed = false) (idle : h.flt.closing = none) (down : (h.prt 0).st ≠ .up) :
    h.linkCoupler 1 = (h.closeCoupler true).ok [] := by
  unfold Hub.linkCoupler
  dsimp only
  rw [if_neg (by decide), if_neg (by decide), if_neg (by simp [open', idle]), if_neg down]

/-- The hub whose DEPART is about to go out (R348; log entry 72). -/
def Hub.departing (h : Hub) : Hub := { h with flt := { h.flt with closing := some h.clk.elapsed } }

theorem Hub.linkCoupler_departs (open' : h.flt.closed = false) (idle : h.flt.closing = none) (isUp : (h.prt 0).st = .up) :
    h.linkCoupler 1 = (h.departing.ctl 0 0xCC (h.departBits 2)).ok [] := by
  unfold Hub.linkCoupler
  dsimp only
  rw [if_neg (by decide), if_neg (by decide), if_neg (by simp [open', idle]), if_pos isUp]
  rfl
end

theorem Hub.ok_prt (h : Hub) (b : Bytes) (p : Nat) : (h.ok b).prt p = h.prt p := rfl

/-- A control block that waits stands behind those that waited before it. -/
theorem Hub.ctl_queues (h : Hub) {p : Nat} {q : Port} (found : h.ports[p]? = some q) (code bits : Nat) :
    ((h.ctl p code bits).prt p).link.ctl = (h.prt p).link.ctl ++ [⟨code, bits⟩] := by
  rw [Hub.ctl, Hub.setLink, Hub.setPort_prt_same _ found, h.prt_of_getElem? found]

end Sys2Proof.Machine

open Sys2Proof Sys2Proof.Machine

/-- Settles O36: a lane's counters are brought up to the present, with a free number of errors (log entry 62), and then acted on; the
coupler opens and closes with its two ports, the close of an UP one behind its DEPART (log entry 72). -/
theorem laneTestsAndCoupler : Obligations.LaneTestsAndCoupler := by
  unfold Obligations.LaneTestsAndCoupler
  refine ⟨fun s p l clear w => ⟨fun up => ⟨fun bad => next_congr (Hub.linkTestSet_bad up bad),
      fun good held => next_congr (Hub.linkTestSet_sealed up good held), fun good free there => ?_,
      fun lane => ⟨next_congr (Hub.linkLaneGet_reads up lane), next_congr (Hub.linkLaneGet_clears up lane)⟩,
      fun bad => next_congr (Hub.linkLaneGet_bad up bad)⟩, fun unsynced idle => Hub.countBits_idle unsynced idle 0,
      fun t0 there sync at' => ?_, fun test checks outside data unsynced => ?_, fun idle => next_same (if_pos ?_),
      fun unsynced => next_same (if_pos ?_), fun there sync at' => ?_⟩,
    fun s op => ⟨fun bad => next_congr (if_pos bad), fun closed other => ?_, fun closed byHost free => ?_, fun open' => ?_,
      fun closed => ?_, fun shaped open' idle down => ?_, fun shaped open' idle isUp => ?_⟩⟩
  · obtain ⟨q, found, has⟩ := there
    obtain ⟨fresh, ψ, counted, counts⟩ := s.hub.countBits_counts p l 0
    obtain ⟨φ, run, keeps⟩ := Hub.linkTestSet_stores up good free
    rw [counted, Hub.setLane_setLane] at run
    have lane : ((({ s.hub with fresh := fresh } : Hub).setLane p l fun x => φ (ψ x)).ok []).lane p l = φ (ψ (s.hub.lane p l)) :=
      Hub.setLane_lane_same { s.hub with fresh := fresh } (q := q) found has _
    obtain ⟨test, burst, lock⟩ := keeps (ψ (s.hub.lane p l))
    obtain ⟨bits, err, at', made⟩ := counts (s.hub.lane p l)
    refine ⟨_, _, next_congr run, rfl, lane, test.trans ?_, fun one => burst.trans ?_, fun two => burst.trans ?_, lock.trans ?_, fun i other => ?_⟩
    · simp only [injects]
      by_cases one : fld w 22 20 = 1
      · simp [one]
      · by_cases two : fld w 22 20 = 2
        · simp only [two]
          by_cases zero : fld w 19 12 = 0 <;> simp [zero]
        · simp [one, two]
    · simp [injects, one]
    · have counted' : fld w 19 12 ≠ 0 := by
        intro zero
        refine good (.inr (.inl ?_))
        simp [badLaneTest, two, zero]
      simp [injects, two, counted']
    · rw [made]
    · exact Hub.setPort_getElem?_other _ (Ne.symm other) _
  · obtain ⟨q, found, has⟩ := there
    rw [Hub.countBits_synced sync at']
    have lane := Hub.setLane_lane_same s.hub.tick (q := q) found has fun x => { x with
      bits := satAdd 48 x.bits ((s.hub.clk.elapsed - t0) * s.hub.laneRate p l / 1000000000),
      err := satAdd 48 x.err (max 0 (Config.prbsErrors s.hub.tick.fresh % ((s.hub.clk.elapsed - t0) * s.hub.laneRate p l / 1000000000 + 1))),
      syncAt := some s.hub.clk.elapsed }
    rw [lane]
    refine ⟨rfl, ?_, rfl⟩
    rw [Nat.zero_max]
    rfl
  · exact next_congr (if_neg (by simp [test, checks, outside, data, unsynced]))
  · exact idle
  · rcases unsynced with off | never
    · simp [off]
    · simp [never]
  · obtain ⟨off, loss⟩ := Hub.syncLoss_counts there sync at'
    exact ⟨⟨s.hub.syncLoss p l, s.pending⟩, rfl, off, loss⟩
  · exact next_congr (Hub.linkCoupler_held closed other)
  · refine ⟨⟨s.hub.openCoupler.ok [], s.pending⟩, next_congr (Hub.linkCoupler_opens closed byHost free), rfl, ?_⟩
    rw [Hub.ok_flt, Hub.openCoupler_opens free]
    exact ⟨rfl, rfl, rfl⟩
  · exact next_congr (Hub.linkCoupler_isOpen open')
  · exact next_congr (Hub.linkCoupler_isClosed closed)
  · have port (i : Nat) (low : i < 4) := Shaped.port shaped low
    obtain ⟨a, b⟩ := Hub.closeCoupler_bypassed (port 0 (by decide)) (port 1 (by decide)) true
    refine ⟨⟨(s.hub.closeCoupler true).ok [], s.pending⟩, next_congr (Hub.linkCoupler_closes open' idle down), rfl, ?_, ?_, ?_, ?_⟩
    · rw [Hub.ok_flt, Hub.closeCoupler_flt]
    · rw [Hub.ok_flt, Hub.closeCoupler_flt]
    · rw [Hub.ok_prt, a]
    · rw [Hub.ok_prt, b]
  · refine ⟨⟨(s.hub.departing.ctl 0 0xCC (s.hub.departBits 2)).ok [], s.pending⟩, next_congr (Hub.linkCoupler_departs open' idle isUp), rfl, ?_, ?_, ?_⟩
    · rw [Hub.ok_flt, Hub.ctl_flt, Hub.departing]
    · rw [Hub.ok_flt, Hub.ctl_flt, Hub.departing]
      exact open'
    exact s.hub.departing.ctl_queues (Shaped.port shaped (by decide)) 0xCC _
end

section
/-! PROOFS. The lock machine of a lane (R305, R307). -/

namespace Sys2Proof.Machine

/-- What only the lock machine of a lane and its resets change. -/
def Lane.marks (x : Lane) : Nat × Nat × Nat × Nat := (x.alignOfs, x.lockLoss, x.invHdr, x.markGlitch)

/-- What only the lock machines of a port's lanes and their resets change. -/
def Port.marks (q : Port) : List (Nat × Nat × Nat × Nat) := q.lanes.map Lane.marks

theorem Port.marks_eq (q : Port) : q.marks = q.lanes.map Lane.marks := by cases q; rfl

theorem Lane.marks_eq (x : Lane) : x.marks = (x.alignOfs, x.lockLoss, x.invHdr, x.markGlitch) := by cases x; rfl

/-- What only the lock machines of a hub's lanes and their resets change. -/
def Hub.laneMarks (h : Hub) : List (List (Nat × Nat × Nat × Nat)) := h.ports.map Port.marks

theorem forAll_laneMarks {α : Type} (f : α → Hub → Hub) (keeps : ∀ a h, (f a h).laneMarks = h.laneMarks) (l : List α) (h : Hub) :
    (forAll l f h).laneMarks = h.laneMarks := forAll_keeps Hub.laneMarks f keeps l h
theorem iter_laneMarks (f : Hub → Hub) (keeps : ∀ h, (f h).laneMarks = h.laneMarks) (n : Nat) (h : Hub) :
    (iter f n h).laneMarks = h.laneMarks := iter_keeps Hub.laneMarks f keeps n h

theorem Hub.map_marks_ports (h : Hub) : h.ports.map Port.marks = h.laneMarks := rfl

theorem Hub.laneMarks_mk {clk : Clk} {tm : Tm} {chans : List Chan} {octs : List Octet} {reps : List Rep} {dies : List Die}
    {trg : Trg} {caps : List (Option Capture)} {nextTrain : Nat} {saved : List SavedChurn} {jobs : List ChurnJob} {nextHandle nextJob : Nat}
    {flows : List Flow} {strm : Strm} {hk : Hk} {sep : Sep} {ports : List Port} {enm : Enum} {mgmt : Mgmt} {dbw : Dbw} {fseal : Seal}
    {flt : Flt} {cal : Cal} {pwr : Pwr} {pmbus : Pmbus} {boot : Boot} {flash : Flash} {tag : Tag} {tap : Tap} {fresh : Nat} {ident : Ident}
      :
    (Hub.mk ident clk tm chans octs reps dies trg caps nextTrain saved jobs nextHandle nextJob flows strm hk sep ports enm mgmt dbw
      fseal flt cal pwr pmbus boot flash tag tap fresh).laneMarks = ports.map Port.marks := rfl

theorem Hub.setPort_laneMarks (h : Hub) (p : Nat) {f : Port → Port} (keeps : ∀ x, (f x).marks = x.marks) :
    (h.setPort p f).laneMarks = h.laneMarks := map_modAt_of_keeps keeps _ _


theorem Hub.laneMarks_of_portCores {h g : Hub} (same : h.portCores = g.portCores) : h.laneMarks = g.laneMarks := by
  have view (k : Hub) : k.laneMarks = k.portCores.map Port.marks := by
    simp only [Hub.laneMarks, Hub.portCores, List.map_map]
    rfl
  rw [view, view, same]

theorem Hub.setLane_laneMarks (h : Hub) (p l : Nat) {f : Lane → Lane} (keeps : ∀ x, (f x).marks = x.marks) :
    (h.setLane p l f).laneMarks = h.laneMarks :=
  Hub.setPort_laneMarks h p fun _ => map_modAt_of_keeps keeps _ _

theorem Lane.hunt_marks (now : Nat) (x : Lane) : (x.hunt now).marks = x.marks := rfl

theorem Port.parkOutside_marks (q : Port) (now w : Nat) : (q.parkOutside now w).map Lane.marks = q.marks :=
  map_mapIdx_of_keeps (fun i x => by split <;> rfl) q.lanes

theorem Port.wakeTo_marks (q : Port) (now w : Nat) : (q.wakeTo now w).map Lane.marks = q.marks :=
  map_mapIdx_of_keeps (fun i x => by split <;> rfl) q.lanes

@[simp] theorem Hub.enterStep_laneMarks (h : Hub) (p : Nat) : (h.enterStep p).laneMarks = h.laneMarks := by
  unfold Hub.enterStep
  split
  · rfl
  · refine (Hub.setPort_laneMarks _ p fun q => ?_).trans (Hub.laneMarks_of_portCores (h.queuesReset_portCores p))
    exact map_mapIdx_of_keeps (fun i x => by split <;> rfl) q.lanes

@[simp] theorem Hub.portLost_laneMarks (h : Hub) (p : Nat) (st : PState) : (h.portLost p st).laneMarks = h.laneMarks :=
  (Hub.laneMarks_of_portCores (h.portLost_portCores p st)).trans
    (h.setPort_laneMarks p fun q => map_mapIdx_of_keeps (fun i x => by split <;> rfl) q.lanes)

@[simp] theorem Hub.relockAt_laneMarks (h : Hub) (p r : Nat) : (h.relockAt p r).laneMarks = h.laneMarks :=
  h.setPort_laneMarks p fun q => map_mapIdx_of_keeps (fun i x => by split <;> rfl) q.lanes

@[simp] theorem Hub.clockLoss_laneMarks (h : Hub) : h.clockLoss.laneMarks = h.laneMarks :=
  (congrArg (List.map Port.marks) h.clockLoss_ports).trans (h.setPort_laneMarks 0 fun _ => rfl)

@[simp] theorem Hub.askWidth_laneMarks (h : Hub) (p w : Nat) : (h.askWidth p w).laneMarks = h.laneMarks := by
  unfold Hub.askWidth
  dsimp only
  split
  · exact h.setPort_laneMarks p fun q => rfl
  · split
    · rfl
    · refine (Hub.setPort_laneMarks _ p fun q => ?_).trans (Hub.laneMarks_of_portCores (h.ctl_portCores ..))
      rw [Port.marks_eq]
      split
      · exact q.wakeTo_marks _ w
      · rfl

@[simp] theorem Hub.portReturn_laneMarks (h : Hub) (p rate width : Nat) : (h.portReturn p rate width).laneMarks = h.laneMarks := by
  unfold Hub.portReturn
  dsimp only
  refine (Hub.laneMarks_of_portCores (Hub.watermarks_portCores _)).trans ?_
  refine Eq.trans ?_ (h.setPort_laneMarks p (f := fun q => { q with
    st := .up, rate := rate, width := width, run := none, widthRun := none, askedAt := none, quietAt := h.clk.elapsed,
    blk := q.blk * width, lanes := modAll (q.parkOutside h.clk.elapsed width) [0, 1, 2] fun _ x => { x with eyeDue := true },
    link := { q.link with again := q.link.replay, pauseAt := h.clk.elapsed, pauseGone := false, ackAt := h.clk.elapsed } }) fun q => ?_)
  · split <;> rfl
  · rw [Port.marks_eq]
    exact (map_modAll_of_keeps (f := fun _ x => { x with eyeDue := true }) (fun _ _ => rfl) _ _).trans (q.parkOutside_marks _ width)

@[simp] theorem Hub.ctl_laneMarks (h : Hub) (p code payload : Nat) : (h.ctl p code payload).laneMarks = h.laneMarks :=
  Hub.laneMarks_of_portCores (Hub.ctl_portCores ..)
@[simp] theorem Hub.startStep_laneMarks (h : Hub) (p rate : Nat) (cause : StepCause) (good : List (Nat × Nat)) :
    (h.startStep p rate cause good).laneMarks = h.laneMarks := by
  simp only [Hub.startStep, ↓Hub.ctl_laneMarks, ↓Hub.setPort_laneMarks, implies_true, ↓Hub.setPort_laneMarks, Port.marks_eq]
@[simp] theorem Hub.askRate_laneMarks (h : Hub) (p rate : Nat) : (h.askRate p rate).laneMarks = h.laneMarks := by
  simp only [Hub.askRate, ↓Hub.ctl_laneMarks, ↓Hub.setPort_laneMarks, ↓Hub.startStep_laneMarks, ↓apply_ite Hub.laneMarks, ite_self,
    implies_true, ↓Hub.setPort_laneMarks, Port.marks_eq]
@[simp] theorem Hub.retrain_laneMarks (h : Hub) (p : Nat) : (h.retrain p).laneMarks = h.laneMarks := by
  simp only [Hub.retrain, ↓Hub.askRate_laneMarks, ↓apply_ite Hub.laneMarks, ite_self]
@[simp] theorem Hub.lockLost_laneMarks (h : Hub) (p l : Nat) : (h.lockLost p l).laneMarks = h.laneMarks := by
  unfold Hub.lockLost
  dsimp only
  repeat' split
  all_goals simp only [↓Hub.enterStep_laneMarks, ↓Hub.retrain_laneMarks, ↓Hub.setPort_laneMarks, implies_true, ↓Hub.setPort_laneMarks,
    Port.marks_eq]
@[simp] theorem Hub.discardNote_laneMarks (h : Hub) (p n : Nat) : (h.discardNote p n).laneMarks = h.laneMarks :=
  Hub.laneMarks_of_portCores (Hub.discardNote_portCores ..)
@[simp] theorem Hub.sendArrive_laneMarks (h : Hub) : h.sendArrive.laneMarks = h.laneMarks := by
  simp only [Hub.sendArrive, ↓Hub.ctl_laneMarks, ↓Hub.laneMarks_mk, ↓apply_ite Hub.laneMarks, ite_self, ↓Hub.map_marks_ports]
@[simp] theorem Hub.stepUp_laneMarks (h : Hub) (p : Nat) : (h.stepUp p).laneMarks = h.laneMarks := by
  simp only [Hub.stepUp, ↓Hub.startStep_laneMarks, ↓apply_ite Hub.laneMarks, ite_self]
@[simp] theorem Hub.portUp_laneMarks (h : Hub) (p w : Nat) : (h.portUp p w).laneMarks = h.laneMarks := by
  unfold Hub.portUp
  dsimp only
  rw [Hub.stepUp_laneMarks]
  simp only [apply_ite Hub.laneMarks, Hub.laneMarks_mk, Hub.sendArrive_laneMarks, ite_self, Hub.map_marks_ports]
  refine (Hub.setPort_laneMarks _ p fun q => ?_).trans (Hub.discardNote_laneMarks ..)
  exact q.parkOutside_marks _ w
@[simp] theorem Hub.tryUp_laneMarks (h : Hub) (p : Nat) : (h.tryUp p).laneMarks = h.laneMarks := by
  simp only [Hub.tryUp, ↓Hub.portUp_laneMarks, ↓apply_ite Hub.laneMarks, ite_self]
@[simp] theorem Hub.tick_laneMarks (h : Hub) : h.tick.laneMarks = h.laneMarks :=
  Hub.laneMarks_of_portCores (Hub.tick_portCores ..)
@[simp] theorem Hub.setDie_laneMarks (h : Hub) (d : Nat) (f : Die → Die) : (h.setDie d f).laneMarks = h.laneMarks :=
  Hub.laneMarks_of_portCores (Hub.setDie_portCores ..)
@[simp] theorem Hub.crossEvent_laneMarks (h : Hub) (d row latency : Nat) : (h.crossEvent d row latency).laneMarks = h.laneMarks := by
  simp only [Hub.crossEvent, ↓Hub.setDie_laneMarks, modAt]
@[simp] theorem Hub.event_laneMarks (h : Hub) (unit : Word) (code cls count : Nat) (arg0 arg1 : Word) :
    (h.event unit code cls count arg0 arg1).laneMarks = h.laneMarks :=
  Hub.laneMarks_of_portCores (Hub.event_portCores ..)
@[simp] theorem Hub.setTm_laneMarks (h : Hub) (f : Tm → Tm) : (h.setTm f).laneMarks = h.laneMarks :=
  Hub.laneMarks_of_portCores (Hub.setTm_portCores ..)
@[simp] theorem Hub.laneAway_laneMarks (h : Hub) (a : Align) : (h.laneAway a).laneMarks = h.laneMarks :=
  Hub.laneMarks_of_portCores (Hub.laneAway_portCores ..)
@[simp] theorem Hub.watermarks_laneMarks (h : Hub) : h.watermarks.laneMarks = h.laneMarks :=
  Hub.laneMarks_of_portCores (Hub.watermarks_portCores ..)
@[simp] theorem Hub.rawReassign_laneMarks (h : Hub) : h.rawReassign.laneMarks = h.laneMarks :=
  Hub.laneMarks_of_portCores (Hub.rawReassign_portCores ..)
@[simp] theorem Hub.portDown_laneMarks (h : Hub) (p : Nat) (st : PState) : (h.portDown p st).laneMarks = h.laneMarks := by
  simp only [Hub.portDown, ↓Hub.portLost_laneMarks, ↓Hub.rawReassign_laneMarks, ↓Hub.watermarks_laneMarks, ↓apply_ite Hub.laneMarks,
    ite_self]
@[simp] theorem Hub.setLevel_laneMarks (h : Hub) (l : Level) : (h.setLevel l).laneMarks = h.laneMarks :=
  congrArg (List.map Port.marks) (Hub.setLevel_ports ..)
@[simp] theorem Hub.reLevel_laneMarks (h : Hub) : h.reLevel.laneMarks = h.laneMarks := by
  simp only [Hub.reLevel, ↓Hub.setLevel_laneMarks, ↓apply_ite Hub.laneMarks, ite_self]
@[simp] theorem Hub.closeCoupler_laneMarks (h : Hub) (byHost : Bool) : (h.closeCoupler byHost).laneMarks = h.laneMarks := by
  simp only [Hub.closeCoupler, ↓Hub.clockLoss_laneMarks, ↓Hub.portDown_laneMarks, ↓Hub.laneMarks_mk, ↓Hub.map_marks_ports]
@[simp] theorem Hub.plainWidth_laneMarks (h : Hub) (p : Nat) : (h.plainWidth p).laneMarks = h.laneMarks := by
  simp only [Hub.plainWidth, ↓Hub.rawReassign_laneMarks, ↓Hub.setPort_laneMarks, ↓apply_ite Hub.laneMarks, ite_self, implies_true,
    ↓Hub.setPort_laneMarks, Port.marks_eq]
@[simp] theorem Hub.narrow_laneMarks (h : Hub) (p : Nat) : (h.narrow p).laneMarks = h.laneMarks := by
  simp only [Hub.narrow, ↓Hub.askWidth_laneMarks, ↓Hub.plainWidth_laneMarks, ↓apply_ite Hub.laneMarks, ite_self]
@[simp] theorem Hub.retireLane_laneMarks (h : Hub) (p l code count : Nat) (loopbackOk : Bool) :
    (h.retireLane p l code count loopbackOk).laneMarks = h.laneMarks := by
  simp only [Hub.retireLane, ↓Hub.closeCoupler_laneMarks, ↓Hub.crossEvent_laneMarks, ↓Hub.event_laneMarks, ↓Hub.laneAway_laneMarks,
    ↓Hub.narrow_laneMarks, ↓Hub.portDown_laneMarks, ↓Hub.reLevel_laneMarks, ↓Hub.setLane_laneMarks, ↓Hub.setPort_laneMarks,
    ↓Hub.setTm_laneMarks, ↓apply_ite Hub.laneMarks, ite_self, implies_true, ↓Hub.setPort_laneMarks, Port.marks_eq, ↓Hub.setLane_laneMarks,
    Lane.marks_eq]
@[simp] theorem Hub.laneFault_laneMarks (h : Hub) (p l : Nat) : (h.laneFault p l).laneMarks = h.laneMarks := by
  simp only [Hub.laneFault, ↓Hub.retireLane_laneMarks, ↓Hub.setLane_laneMarks, ↓Hub.tick_laneMarks, ↓apply_ite Hub.laneMarks, ite_self,
    implies_true, ↓Hub.setLane_laneMarks, Lane.marks_eq]
@[simp] theorem Hub.laneRetrain_laneMarks (p : Nat) (h : Hub) (l : Nat) : (Hub.laneRetrain p h l).laneMarks = h.laneMarks := by
  simp only [Hub.laneRetrain, ↓Hub.laneFault_laneMarks, ↓Hub.setLane_laneMarks, implies_true, ↓Hub.setLane_laneMarks, Lane.marks_eq]
@[simp] theorem Hub.countLost_laneMarks (h : Hub) (p : Nat) : (h.countLost p).laneMarks = h.laneMarks := by
  unfold Hub.countLost
  dsimp only
  rw [← h.setPort_laneMarks p (f := fun q => { q with lost := [] }) fun _ => rfl]
  generalize (h.prt p).lost.eraseDups = lost, h.setPort p _ = g
  induction lost generalizing g with
  | nil => rfl
  | cons l lost inner => exact (inner _).trans (Hub.laneRetrain_laneMarks ..)
@[simp] theorem Hub.keepLimits_laneMarks (h : Hub) (p : Nat) : (h.keepLimits p).laneMarks = h.laneMarks := by
  simp only [Hub.keepLimits, ↓Hub.askRate_laneMarks, ↓Hub.askWidth_laneMarks, ↓apply_ite Hub.laneMarks, ite_self]
@[simp] theorem Hub.reAsk_laneMarks (h : Hub) (p : Nat) : (h.reAsk p).laneMarks = h.laneMarks := by
  unfold Hub.reAsk
  split <;> simp only [↓Hub.askRate_laneMarks, ↓Hub.askWidth_laneMarks, ↓Hub.keepLimits_laneMarks, ↓Hub.setPort_laneMarks, ↓apply_ite
    Hub.laneMarks, ite_self, implies_true, ↓Hub.setPort_laneMarks, Port.marks_eq]
@[simp] theorem Hub.settled_laneMarks (h : Hub) (p : Nat) : (h.settled p).laneMarks = h.laneMarks := by
  unfold Hub.settled
  repeat' split
  all_goals simp only [↓Hub.countLost_laneMarks, ↓Hub.portReturn_laneMarks, ↓Hub.reAsk_laneMarks, ↓apply_ite Hub.laneMarks, ite_self]
@[simp] theorem Hub.ok_laneMarks (h : Hub) (p : Bytes) : (h.ok p).laneMarks = h.laneMarks :=
  congrArg (List.map Port.marks) (Hub.ok_ports ..)
@[simp] theorem Hub.portStart_laneMarks (h : Hub) (p : Nat) : (h.portStart p).laneMarks = h.laneMarks := by
  simp only [Hub.portStart, ↓Hub.portLost_laneMarks, ↓Hub.rawReassign_laneMarks, ↓Hub.setPort_laneMarks, ↓Hub.watermarks_laneMarks,
    ↓apply_ite Hub.laneMarks, ite_self, implies_true, ↓Hub.setPort_laneMarks, Port.marks_eq]
@[simp] theorem Hub.stepDone_laneMarks (h : Hub) (p : Nat) : (h.stepDone p).laneMarks = h.laneMarks := by
  unfold Hub.stepDone
  split
  · rfl
  · split
    · extract_lets w failed h1 good again
      have first : h1.laneMarks = h.laneMarks := by
        unfold h1
        split
        · exact h.setPort_laneMarks p fun _ => rfl
        · rfl
      have further (rate : Nat) (cause : StepCause) (g : Hub) : (again rate cause g).laneMarks = g.laneMarks := by
        simp only [again, apply_ite Hub.laneMarks, Hub.ctl_laneMarks, Hub.enterStep_laneMarks, ite_self]
        exact g.setPort_laneMarks p fun _ => rfl
      clear_value h1 again
      rw [← first]
      repeat' split
      all_goals simp [further, Hub.setPort_laneMarks, Port.marks_eq]
    · rfl
@[simp] theorem Hub.sendResult_laneMarks (h : Hub) (p : Nat) : (h.sendResult p).laneMarks = h.laneMarks := by
  unfold Hub.sendResult
  dsimp only
  repeat' split
  all_goals simp only [↓Hub.ctl_laneMarks, ↓Hub.setPort_laneMarks, ↓Hub.stepDone_laneMarks, implies_true, ↓Hub.setPort_laneMarks,
    Port.marks_eq]


/-! ## The lanes behind the marks -/

theorem Hub.lane_marks_of {h k : Hub} (same : k.laneMarks = h.laneMarks) (p l : Nat) : (k.lane p l).marks = (h.lane p l).marks := by
  have view (g : Hub) : (g.lane p l).marks = (g.laneMarks.getD p Port.reset.marks).getD l Lane.reset.marks := by
    rw [Hub.laneMarks, List.getD_map, Port.marks_eq, List.getD_map]
    rfl
  rw [view, view, same]

theorem Hub.lane_alignOfs_of {h k : Hub} (same : k.laneMarks = h.laneMarks) (p l : Nat) : (k.lane p l).alignOfs = (h.lane p l).alignOfs :=
  congrArg Prod.fst (Hub.lane_marks_of same p l)

theorem Hub.lane_lockLoss_of {h k : Hub} (same : k.laneMarks = h.laneMarks) (p l : Nat) : (k.lane p l).lockLoss = (h.lane p l).lockLoss :=
  congrArg (·.2.1) (Hub.lane_marks_of same p l)

theorem Hub.lane_invHdr_of {h k : Hub} (same : k.laneMarks = h.laneMarks) (p l : Nat) : (k.lane p l).invHdr = (h.lane p l).invHdr :=
  congrArg (·.2.2.1) (Hub.lane_marks_of same p l)

theorem Hub.lane_markGlitch_of {h k : Hub} (same : k.laneMarks = h.laneMarks) (p l : Nat) :
    (k.lane p l).markGlitch = (h.lane p l).markGlitch := congrArg (·.2.2.2) (Hub.lane_marks_of same p l)

theorem Hub.lane_of_portCores {h k : Hub} (same : k.portCores = h.portCores) (p l : Nat) : k.lane p l = h.lane p l :=
  congrArg (fun lanes : List Lane => lanes.getD l Lane.reset)
    (Port.view_of_core Port.lanes (Hub.prt_core_of_portCores same p) (by intro; rfl))

theorem Hub.setPort_prt_cases (h : Hub) (p a : Nat) (f : Port → Port) :
    (h.setPort p f).prt a = h.prt a ∨ (h.setPort p f).prt a = f (h.prt a) := by
  simp only [Hub.prt, Hub.setPort_ports, List.getD_eq_getElem?_getD, List.getElem?_modify]
  cases h.ports[a]? with
  | none => exact .inl rfl
  | some q =>
    by_cases named : p = a
    · exact .inr (by simp [named])
    · exact .inl (by simp [named])

/-- A step that begins makes the data lanes of its port hunt, and no other lane. -/
theorem Hub.enterStep_lane (h : Hub) (p a b : Nat) :
    (h.enterStep p).lane a b = h.lane a b ∨ (h.enterStep p).lane a b = { (h.lane a b).hunt h.clk.elapsed with parked := false } := by
  unfold Hub.enterStep
  split
  · exact .inl rfl
  · rename_i r run
    have quiet : (h.queuesReset p).lane a b = h.lane a b := Hub.lane_of_portCores (h.queuesReset_portCores p) a b
    generalize h.queuesReset p = g at quiet
    rw [← quiet]
    rcases g.setPort_prt_cases p a _ with same | moved
    · exact .inl (congrArg (fun q : Port => q.lanes.getD b Lane.reset) same)
    · rw [Hub.lane, moved, Hub.lane]
      dsimp only
      rw [List.getD_eq_getElem?_getD, List.getD_eq_getElem?_getD, List.getElem?_mapIdx]
      cases (g.prt a).lanes[b]? with
      | none => exact .inl rfl
      | some x =>
        by_cases data : b < 3
        · exact .inr (if_pos data)
        · exact .inl (if_neg data)

theorem Hub.askRate_lane (h : Hub) (p r a b : Nat) : (h.askRate p r).lane a b = h.lane a b := by
  unfold Hub.askRate Hub.startStep
  dsimp only
  split
  · exact h.setPort_lane p a b fun _ => rfl
  · split
    · rfl
    · split
      · refine (Hub.setPort_lane _ p a b (by intro; rfl)).trans ?_
        exact (Hub.lane_of_portCores (Hub.ctl_portCores ..) a b).trans (h.setPort_lane p a b (by intro; rfl))
      · exact (Hub.setPort_lane _ p a b (by intro; rfl)).trans (Hub.lane_of_portCores (h.ctl_portCores ..) a b)

theorem Hub.retrain_lane (h : Hub) (p a b : Nat) : (h.retrain p).lane a b = h.lane a b := by
  unfold Hub.retrain
  split
  · rfl
  · exact h.askRate_lane ..

/-- A lane whose search begins at the present still does behind what its port makes of the loss of lock (R307). -/
theorem Hub.lockLost_hunts (h : Hub) (p l a b : Nat) (hunts : (h.lane a b).lock = .hunt ∧ (h.lane a b).huntAt = h.clk.elapsed) :
    ((h.lockLost p l).lane a b).lock = .hunt ∧ ((h.lockLost p l).lane a b).huntAt = h.clk.elapsed := by
  have still (g : Hub) (same : g.lane a b = h.lane a b) : (g.lane a b).lock = .hunt ∧ (g.lane a b).huntAt = h.clk.elapsed := same ▸ hunts
  have entered (g : Hub) (clk : g.clk = h.clk) (same : g.lane a b = h.lane a b) :
      ((g.enterStep p).lane a b).lock = .hunt ∧ ((g.enterStep p).lane a b).huntAt = h.clk.elapsed := by
    rcases g.enterStep_lane p a b with kept | moved
    · rw [kept, same]
      exact hunts
    · rw [moved, clk]
      exact ⟨rfl, rfl⟩
  unfold Hub.lockLost
  dsimp only
  split
  · exact still _ (h.setPort_lane p a b (by intro; rfl))
  · split
    · exact hunts
    · split
      · split
        · split
          · exact entered _ rfl (h.setPort_lane p a b (by intro; rfl))
          · exact entered h rfl rfl
        · split
          · exact still _ (h.setPort_lane p a b (by intro; rfl))
          · exact hunts
      · split
        · exact hunts
        · exact still _ ((Hub.retrain_lane ..).trans (h.setPort_lane p a b (by intro; rfl)))

/-! ## The lock machine -/

theorem Hub.locks_iff {h : Hub} {p l : Nat} : h.locks p l = true ↔
    (h.prt p).receives = true ∧ (h.lane p l).retired = false ∧ (h.lane p l).parked = false ∧ (h.lane p l).checking h.clk.elapsed = false := by
  simp [Hub.locks, and_assoc]

/-- A lane loses its lock and hunts from the present offset on (R305, R307). -/
theorem Hub.loseLock_lane {h : Hub} {p l : Nat} (there : LaneThere h p l) :
    ((h.loseLock p l).lane p l).lock = .hunt ∧ ((h.loseLock p l).lane p l).huntAt = h.clk.elapsed ∧
    ((h.loseLock p l).lane p l).lockLoss = satInc 16 (h.lane p l).lockLoss ∧ ((h.loseLock p l).lane p l).invHdr = (h.lane p l).invHdr := by
  obtain ⟨q, found, has⟩ := there
  unfold Hub.loseLock
  have lost := h.setLane_lane_same found has fun x =>
    { x with lock := .hunt, count := 0, recent := [], tried := 0, huntAt := h.clk.elapsed, lockLoss := satInc 16 x.lockLoss }
  obtain ⟨lock, at'⟩ := Hub.lockLost_hunts (h.setLane p l fun x =>
    { x with lock := .hunt, count := 0, recent := [], tried := 0, huntAt := h.clk.elapsed, lockLoss := satInc 16 x.lockLoss }) p l p l
    (by rw [lost]; exact ⟨rfl, rfl⟩)
  refine ⟨lock, at', ?_, ?_⟩
  · rw [Hub.lane_lockLoss_of (Hub.lockLost_laneMarks ..), lost]
  · rw [Hub.lane_invHdr_of (Hub.lockLost_laneMarks ..), lost]

/-- A lane that has locked is LOCKED at its offset before its port acts on it (R305). -/
def Lane.aligned (x : Lane) : Lane := { x.mended with lock := .locked, alignOfs := x.offset, count := 0, recent := [], tried := 0 }

theorem Hub.laneLocked_laneMarks (h : Hub) (p l : Nat) : (h.laneLocked p l).laneMarks = (h.setLane p l Lane.aligned).laneMarks := by
  unfold Hub.laneLocked
  dsimp only
  have step : (h.setLane p l fun x => { x.mended with lock := .locked, alignOfs := x.offset, count := 0, recent := [], tried := 0 }) =
      h.setLane p l Lane.aligned := rfl
  rw [step]
  split
  · exact Hub.tryUp_laneMarks ..
  · split
    · rfl
    · split
      · exact Hub.settled_laneMarks ..
      · split
        · exact Hub.sendResult_laneMarks ..
        · rfl
  · rfl

theorem LaneThere.setLane {h : Hub} {p l : Nat} (there : LaneThere h p l) (f : Lane → Lane) : LaneThere (h.setLane p l f) p l := by
  obtain ⟨q, found, has⟩ := there
  exact ⟨_, h.setPort_getElem?_same found _, (List.length_modify ..).symm ▸ has⟩

/-- A lane that locks is aligned at its offset (Table 11-4). -/
theorem Hub.laneLocked_alignOfs {h : Hub} {p l : Nat} (there : LaneThere h p l) :
    ((h.laneLocked p l).lane p l).alignOfs = (h.lane p l).offset := by
  obtain ⟨q, found, has⟩ := there
  rw [Hub.lane_alignOfs_of (h.laneLocked_laneMarks p l), h.setLane_lane_same found has]
  rfl

/-- What the port makes of a MARK of L0 leaves what the lanes hold of it (R311, R319). -/
theorem Hub.atMark_lane (h : Hub) (p m a b : Nat) : ((h.atMark p m).lane a b).mcount = (h.lane a b).mcount ∧
    ((h.atMark p m).lane a b).markGlitch = (h.lane a b).markGlitch := by
  have entered : ((h.enterStep p).lane a b).mcount = (h.lane a b).mcount ∧ ((h.enterStep p).lane a b).markGlitch = (h.lane a b).markGlitch := by
    rcases h.enterStep_lane p a b with same | hunts
    · rw [same]
      exact ⟨rfl, rfl⟩
    · rw [hunts]
      exact ⟨rfl, rfl⟩
  have widened (g : Hub) (kept : (g.lane a b).mcount = (h.lane a b).mcount ∧ (g.lane a b).markGlitch = (h.lane a b).markGlitch)
      (w : Option WidthRun) : ((g.setPort p fun q => { q with widthRun := w }).lane a b).mcount = (h.lane a b).mcount ∧
        ((g.setPort p fun q => { q with widthRun := w }).lane a b).markGlitch = (h.lane a b).markGlitch := by
    rwa [g.setPort_lane p a b (by intro; rfl)]
  unfold Hub.atMark
  extract_lets q g
  have moved : (g.lane a b).mcount = (h.lane a b).mcount ∧ (g.lane a b).markGlitch = (h.lane a b).markGlitch := by
    unfold g
    split
    · split
      · exact entered
      · exact ⟨rfl, rfl⟩
    · exact ⟨rfl, rfl⟩
  clear_value g
  split
  · split
    · exact widened g moved _
    · exact moved
  · exact moved

theorem Hub.laneLocked_quiet {h : Hub} {p : Nat} (l : Nat) (search : (h.prt p).st ≠ .search) (training : (h.prt p).st ≠ .training) :
    h.laneLocked p l = h.setLane p l Lane.aligned := by
  have st : ((h.setLane p l Lane.aligned).prt p).st = (h.prt p).st := h.setPort_prt_view p p (view := Port.st) fun _ => rfl
  rw [← st] at search training
  unfold Hub.laneLocked
  dsimp only
  split
  · rename_i bad
    exact absurd bad search
  · rename_i bad _
    exact absurd bad training
  · rfl

/-- What an invalid header leaves of its lane before the lock machine acts on it (Table 11-4). -/
def Lane.doubted (now win : Nat) (x : Lane) : Lane :=
  { x with invHdr := satInc 32 x.invHdr, recent := (now :: x.recent.filter fun t => decide (now < t + win)).take 16 }

theorem Lane.doubted_full (now win : Nat) (x : Lane) :
    16 ≤ (x.doubted now win).recent.length ↔ 15 ≤ (x.recent.filter fun t => decide (now < t + win)).length := by
  simp only [Lane.doubted, List.length_take, List.length_cons]
  omega

/-- The lane's state decides what an invalid header does (Table 11-4). -/
theorem Hub.invalidHeader_acts {h : Hub} {p l : Nat} (here : h.locks p l = true) (there : LaneThere h p l) :
    let g := h.setLane p l (Lane.doubted h.clk.elapsed (h.window64 p))
    h.invalidHeader p l = match (h.lane p l).lock with
      | .hunt => if (h.lane p l).tried < 66 then g.slips p l else g
      | .markWait | .confirm =>
        if 15 ≤ ((h.lane p l).recent.filter fun t => decide (h.clk.elapsed < t + h.window64 p)).length then
          g.setLane p l fun x => { x with lock := .hunt, count := 0, recent := [] } else g
      | .locked =>
        if 15 ≤ ((h.lane p l).recent.filter fun t => decide (h.clk.elapsed < t + h.window64 p)).length then g.loseLock p l else g := by
  intro g
  obtain ⟨q, found, has⟩ := there
  have lane : g.lane p l = (h.lane p l).doubted h.clk.elapsed (h.window64 p) := h.setLane_lane_same found has _
  have run : h.invalidHeader p l = match (g.lane p l).lock with
      | .hunt => if (g.lane p l).tried < 66 then g.slips p l else g
      | .markWait | .confirm =>
        if 16 ≤ (g.lane p l).recent.length then g.setLane p l fun x => { x with lock := .hunt, count := 0, recent := [] } else g
      | .locked => if 16 ≤ (g.lane p l).recent.length then g.loseLock p l else g := if_neg (by simp [here])
  rw [run, lane]
  simp only [Lane.doubted_full]
  rfl

/-- What the search goes on to from an offset (R307, R309). -/
def Lane.moved (manual : Bool) (now : Nat) (x : Lane) : Lane :=
  if manual then { x with lock := .hunt, count := 0, recent := [] } else x.nextOffset now

theorem Hub.slips_moves (h : Hub) (p l : Nat) : h.slips p l = h.setLane p l (Lane.moved (h.prt p).manual h.clk.elapsed) := rfl

theorem Lane.moved_lock (manual : Bool) (now : Nat) (x : Lane) : (x.moved manual now).lock = .hunt := by
  unfold Lane.moved
  split <;> rfl

theorem Lane.moved_invHdr (manual : Bool) (now : Nat) (x : Lane) : (x.moved manual now).invHdr = x.invHdr := by
  unfold Lane.moved
  split <;> rfl

theorem Lane.moved_offset (manual : Bool) (now : Nat) (x : Lane) :
    (x.moved manual now).offset = if manual = false then (x.offset + 1) % 66 else x.offset := by
  unfold Lane.moved
  cases manual <;> rfl

theorem Hub.setLane_lane_other (h : Hub) (p : Nat) {l i : Nat} (other : i ≠ l) (f : Lane → Lane) :
    (h.setLane p l f).lane p i = h.lane p i := by
  rcases h.setPort_prt_cases p p fun q => { q with lanes := modAt q.lanes l f } with same | moved
  · exact congrArg (fun q : Port => q.lanes.getD i Lane.reset) same
  · rw [Hub.lane, Hub.setLane, moved]
    simp [modAt, Hub.lane, other.symm]

/-! ## A lane that does not align (R307) -/

/-- The search of a lane begins again from its present offset. -/
def Lane.again (now : Nat) (x : Lane) : Lane := { x with tried := 0, huntAt := now }

section
variable {h : Hub} {p l : Nat}

theorem Hub.alignFail_acts (here : h.locks p l = true) (all : 66 ≤ (h.lane p l).tried) (late : (h.lane p l).huntAt + 1000000 ≤ h.clk.elapsed) :
    h.alignFail p l = (fun g : Hub => match (g.prt p).run with
      | some r => match r.own with
        | some own =>
          if !own.getD l false then g
          else (fun k : Hub => match (k.prt p).run with
            | some r' => if r'.ready (k.prt p) then k.sendResult p else k
            | none => k) (g.setPort p fun q => { q with run := some { r with own := some (modAt own l fun _ => false) } })
        | none =>
          if (g.prt p).st ≠ .training then g
          else if r.at'.isSome then (if l = 0 ∧ !upstream p then (g.countLost p).portStart p else g)
          else if r.cause ≠ .settle then g
          else if l = 0 then (g.countLost p).portStart p
          else (g.setPort p fun q => { q with run := some { r with
            good := r.good.map fun g => if g.1 = r.target then (g.1, min g.2 l) else g } }).settled p
      | none => g) (h.setLane p l (Lane.again h.clk.elapsed)) :=
  if_neg (by simp [here, Nat.not_lt.2 all, Nat.not_lt.2 late])

theorem Hub.setLane_run (f : Lane → Lane) (i : Nat) : ((h.setLane p l f).prt i).run = (h.prt i).run :=
  h.setPort_prt_view p i (view := Port.run) fun _ => rfl

theorem Hub.setLane_st (f : Lane → Lane) (i : Nat) : ((h.setLane p l f).prt i).st = (h.prt i).st :=
  h.setPort_prt_view p i (view := Port.st) fun _ => rfl

/-- A lane that fails outside a test of a step only begins its search again. -/
theorem Hub.alignFail_untested (here : h.locks p l = true) (all : 66 ≤ (h.lane p l).tried)
    (late : (h.lane p l).huntAt + 1000000 ≤ h.clk.elapsed)
    (untested : (h.prt p).run = none ∨ ∃ r own, (h.prt p).run = some r ∧ r.own = some own ∧ own.getD l false = false) :
    h.alignFail p l = h.setLane p l (Lane.again h.clk.elapsed) := by
  rw [Hub.alignFail_acts here all late]
  dsimp only
  rw [Hub.setLane_run]
  rcases untested with still | ⟨r, own, run, tested, failed⟩
  · rw [still]
  · rw [run]
    dsimp only
    rw [tested]
    exact if_pos (by rw [failed]; rfl)

/-- A lane that a step can go on without only begins its search again. -/
theorem Hub.alignFail_goesOn (here : h.locks p l = true) (all : 66 ≤ (h.lane p l).tried)
    (late : (h.lane p l).huntAt + 1000000 ≤ h.clk.elapsed) {r : StepRun} (run : (h.prt p).run = some r) (own : r.own = none)
    (without : (h.prt p).st ≠ .training ∨ (r.at' ≠ none ∧ (l ≠ 0 ∨ p ≠ 0)) ∨ (r.at' = none ∧ r.cause ≠ .settle)) :
    h.alignFail p l = h.setLane p l (Lane.again h.clk.elapsed) := by
  rw [Hub.alignFail_acts here all late]
  dsimp only
  rw [Hub.setLane_run, run]
  dsimp only
  rw [own, Hub.setLane_st]
  dsimp only
  by_cases training : (h.prt p).st = .training
  · rw [if_neg (not_not.2 training)]
    rcases without.resolve_left (not_not.2 training) with ⟨waits, notHere⟩ | ⟨now, other⟩
    · rw [if_pos (Option.isSome_iff_ne_none.2 waits), if_neg]
      rintro ⟨first, down⟩
      exact notHere.elim (fun no => no first) fun no => by simp [upstream, no] at down
    · rw [if_neg (by simp [now]), if_pos other]
  · exact if_pos training

/-- A port that cannot go on without its L0 begins again (R314, R326; log entry 193). -/
theorem Hub.alignFail_restarts (here : h.locks p l = true) (all : 66 ≤ (h.lane p l).tried)
    (late : (h.lane p l).huntAt + 1000000 ≤ h.clk.elapsed) {r : StepRun} (run : (h.prt p).run = some r) (own : r.own = none)
    (training : (h.prt p).st = .training) (first : l = 0) (needs : (r.at' ≠ none ∧ p = 0) ∨ (r.at' = none ∧ r.cause = .settle)) :
    h.alignFail p l = ((h.setLane p l (Lane.again h.clk.elapsed)).countLost p).portStart p := by
  rw [Hub.alignFail_acts here all late]
  dsimp only
  rw [Hub.setLane_run, run]
  dsimp only
  rw [own, Hub.setLane_st]
  dsimp only
  rw [if_neg (not_not.2 training)]
  rcases needs with ⟨waits, down⟩ | ⟨now, settle⟩
  · rw [if_pos (Option.isSome_iff_ne_none.2 waits), if_pos ⟨first, by simp [upstream, down]⟩]
  · rw [if_neg (by simp [now]), if_neg (not_not.2 settle), if_pos first]

/-- A lane that fails its check, while L0 has still to pass, is noted (R311). -/
theorem Hub.alignFail_notes (here : h.locks p l = true) (all : 66 ≤ (h.lane p l).tried)
    (late : (h.lane p l).huntAt + 1000000 ≤ h.clk.elapsed) {r : StepRun} {own : List Bool} (run : (h.prt p).run = some r)
    (tested : r.own = some own) (passed : own.getD l false = true) (other : l ≠ 0) (waits : own.getD 0 false = true)
    (unlocked : (h.lane p 0).lock ≠ .locked) :
    h.alignFail p l = (h.setLane p l (Lane.again h.clk.elapsed)).setPort p fun q => { q with
      run := some { r with own := some (modAt own l fun _ => false) } } := by
  rw [Hub.alignFail_acts here all late]
  dsimp only
  rw [Hub.setLane_run, run]
  dsimp only
  rw [tested]
  dsimp only
  rw [if_neg (by rw [passed]; decide)]
  have present : ∃ q, (h.setLane p l (Lane.again h.clk.elapsed)).ports[p]? = some q := by
    refine Option.isSome_iff_exists.1 (Option.isSome_iff_ne_none.2 fun absent => ?_)
    have none' := Hub.setLane_run (h := h) (p := p) (l := l) (Lane.again h.clk.elapsed) p
    rw [run, Hub.prt, List.getD_eq_getElem?_getD, absent] at none'
    exact nomatch none'
  obtain ⟨q, found⟩ := present
  rw [Hub.setPort_prt_same _ found]
  dsimp only
  refine if_neg fun ready => ?_
  simp only [StepRun.ready, List.all_eq_true] at ready
  have zero := ready 0 (by simp)
  have lock : (q.lanes.getD 0 Lane.reset).lock = (h.lane p 0).lock := by
    rw [← Hub.prt_of_getElem? _ found]
    exact congrArg Lane.lock (h.setLane_lane_other p other.symm _)
  rw [lock] at zero
  simp [modAt, other, unlocked] at zero
  exact absurd waits (by simp [zero])
end

end Sys2Proof.Machine

open Sys2Proof Sys2Proof.Machine

/-- Settles O37, by the lane's state in Table 11-4; what its port makes of a lock or of its loss leaves the lane's counters. A port that settles, or
waits for STEP, without its L0 begins again as the model reads it (log entry 193). -/
theorem laneLock : Obligations.LaneLock := by
  unfold Obligations.LaneLock
  intro s p l w m
  dsimp only
  rw [← Hub.locks_iff]
  refine ⟨fun away => ?_, fun here hunt tried => next_congr (if_pos ⟨here, hunt, tried⟩), fun not => next_same (if_neg ?_), fun not => ?_,
    fun here wait => ?_, fun here confirm other => ?_, fun here confirm next few => ?_, fun here there confirm next three => ?_,
    fun here locked other => ?_, fun k here locked slot low high other => ?_, fun k here locked slot low high first down there => ?_,
    fun here confirm => next_congr (if_pos ⟨here, confirm⟩), fun not => next_same (if_neg fun both => not both.2), fun here wait => ?_,
    fun here there locked => ?_, fun other => ?_, fun here unlocked tried data late => ?_, fun not => ?_, fun not => ?_,
    fun here all late untested => next_congr (Hub.alignFail_untested here all late untested),
    fun r here all late run own without => next_congr (Hub.alignFail_goesOn here all late run own without),
    fun r here there all late run own training first needs => ?_,
    fun r own here all late run tested passed other waits unlocked =>
      next_congr (Hub.alignFail_notes here all late run tested passed other waits unlocked),
    fun here there hunt => ?_, fun here there open' => ?_, fun here there locked few => ?_, fun here there locked many => ?_⟩
  · have off : s.hub.locks p l = false := Bool.eq_false_iff.2 away
    refine ⟨next_same (if_neg fun both => away both.1), next_same ?_, next_same (if_pos (by simp [off])),
      next_same (if_pos (.inr (.inr (.inr (.inl (by simp [off])))))), next_same (if_pos (by simp [off])),
      next_same (if_neg fun both => away both.1), next_same (if_pos (.inl (by simp [off])))⟩
    exact if_pos (by simp [off])
  · rintro ⟨here, hunt, tried⟩
    obtain ⟨-, retired, parked, -⟩ := Hub.locks_iff.1 here
    rcases not with no | no | no | no
    · exact no hunt
    · omega
    · exact absurd no (by simp [retired])
    · exact absurd no (by simp [parked])
  · refine next_same ?_
    unfold Hub.markBlock
    dsimp only
    by_cases here : s.hub.locks p l = true
    · obtain ⟨-, retired, parked, -⟩ := Hub.locks_iff.1 here
      have hunt := (not.resolve_left (by simp [retired])).resolve_left (by simp [parked])
      rw [if_neg (by simp [here]), hunt]
    · exact if_pos (by simp [here])
  · refine next_congr ?_
    unfold Hub.markBlock
    dsimp only
    rw [if_neg (by simp [here]), wait]
  · refine next_congr ?_
    unfold Hub.markBlock
    dsimp only
    rw [if_neg (by simp [here]), confirm]
    exact if_pos other
  · refine next_congr ?_
    unfold Hub.markBlock
    dsimp only
    rw [if_neg (by simp [here]), confirm]
    exact (if_neg (not_not.2 next)).trans (if_pos (by omega))
  · have run : s.hub.markBlock p l m = (s.hub.setLane p l fun x => { x with
        count := x.count + 1, mcount := m, markAt := s.hub.clk.elapsed }).laneLocked p l := by
      unfold Hub.markBlock
      dsimp only
      rw [if_neg (by simp [here]), confirm]
      exact (if_neg (not_not.2 next)).trans (if_neg (by omega))
    obtain ⟨q, found, has⟩ := id there
    have counted := s.hub.setLane_lane_same found has fun x => { x with count := x.count + 1, mcount := m, markAt := s.hub.clk.elapsed }
    refine ⟨_, next_congr run, (Hub.laneLocked_alignOfs (LaneThere.setLane there _)).trans (by rw [counted]), fun search training => ?_⟩
    rw [Hub.laneLocked_quiet l (by rwa [Hub.setLane_st]) (by rwa [Hub.setLane_st])]
    obtain ⟨q', found', has'⟩ := LaneThere.setLane there fun x => { x with count := x.count + 1, mcount := m, markAt := s.hub.clk.elapsed }
    rw [Hub.setLane_lane_same _ found' has', counted]
    exact ⟨rfl, rfl⟩
  · refine next_congr ?_
    unfold Hub.markBlock
    dsimp only
    rw [if_neg (by simp [here]), locked]
    refine if_pos ?_
    rcases other with off | ⟨k, slot, far⟩
    · rw [off]
      rfl
    · rw [slot]
      exact decide_eq_true far
  · refine next_congr ?_
    unfold Hub.markBlock
    dsimp only
    rw [if_neg (by simp [here]), locked]
    refine (if_neg ?_).trans (if_neg ?_)
    · rw [slot]
      simpa using ⟨by omega, high⟩
    · rintro ⟨first, down⟩
      exact other.elim (fun no => no first) fun no => by simp [upstream, no] at down
  · have run : s.hub.markBlock p l m = (s.hub.setLane p l fun x => { x with mcount := m, markAt := s.hub.clk.elapsed }).atMark p m := by
      unfold Hub.markBlock
      dsimp only
      rw [if_neg (by simp [here]), locked]
      refine (if_neg ?_).trans (if_pos ⟨first, by simp [upstream, down]⟩)
      rw [slot]
      simpa using ⟨by omega, high⟩
    obtain ⟨q, found, has⟩ := there
    subst first down
    have seen := s.hub.setLane_lane_same found has fun x => { x with mcount := m, markAt := s.hub.clk.elapsed }
    obtain ⟨mcount, glitch⟩ := Hub.atMark_lane (s.hub.setLane 0 0 fun x => { x with mcount := m, markAt := s.hub.clk.elapsed }) 0 m 0 0
    exact ⟨_, next_congr run, mcount.trans (by rw [seen]), glitch.trans (by rw [seen])⟩
  · refine next_congr ?_
    show s.hub.markWaitTimeout p l = _
    unfold Hub.markWaitTimeout
    rw [if_neg (by simp [here]), wait]
    rfl
  · have run : s.hub.markWaitTimeout p l = s.hub.loseLock p l := by
      unfold Hub.markWaitTimeout
      rw [if_neg (by simp [here]), locked]
    obtain ⟨lock, at', loss, -⟩ := Hub.loseLock_lane there
    exact ⟨_, next_congr run, lock, loss, at'⟩
  · refine next_same ?_
    show s.hub.markWaitTimeout p l = _
    unfold Hub.markWaitTimeout
    split
    · rfl
    · rcases other with hunt | confirm
      · rw [hunt]
      · rw [confirm]
  · refine next_congr ((if_neg ?_).trans rfl)
    simp [here, unlocked, Nat.not_le.2 tried, Nat.not_lt.2 data, Nat.not_lt.2 late]
  · refine next_same (if_pos ?_)
    rcases not with no | no | no | no
    · exact .inl no
    · exact .inr (.inl no)
    · exact .inr (.inr (.inl no))
    · exact .inr (.inr (.inr (.inr no)))
  · refine next_same (if_pos ?_)
    exact .inr not
  · have run' := Hub.alignFail_restarts here all late run own training first needs
    obtain ⟨q, found, -⟩ := there
    have length (k : Hub) : k.laneMarks.length = k.ports.length := List.length_map ..
    have present : p < ((s.hub.setLane p l (Lane.again s.hub.clk.elapsed)).countLost p).ports.length := by
      rw [← length, Hub.countLost_laneMarks, length]
      exact (List.length_modify ..).symm ▸ (List.getElem?_eq_some_iff.1 found).1
    obtain ⟨x, at', core⟩ := Hub.portStart_begun (List.getElem?_eq_getElem present)
    have st : x.st = _ := (Port.view_of_core Port.st core (by intro; rfl)).trans (Port.begun_st ..)
    have not := Hub.startState_not ((s.hub.setLane p l (Lane.again s.hub.clk.elapsed)).countLost p) p
    refine ⟨_, x, next_congr run', at', (Port.view_of_core Port.run core (by intro; rfl)).trans (Port.begun_run ..), ?_, ?_⟩
    · rw [st]
      exact not.2
    · rw [st]
      exact not.1
  · have run := Hub.invalidHeader_acts here there
    obtain ⟨q, found, has⟩ := id there
    have doubted := s.hub.setLane_lane_same found has (Lane.doubted s.hub.clk.elapsed (s.hub.window64 p))
    have manual : ((s.hub.setLane p l (Lane.doubted s.hub.clk.elapsed (s.hub.window64 p))).prt p).manual = (s.hub.prt p).manual :=
      s.hub.setPort_prt_view p p (view := Port.manual) fun _ => rfl
    dsimp only at run
    rw [hunt] at run
    dsimp only at run
    rw [Hub.slips_moves, manual] at run
    obtain ⟨q', found', has'⟩ := LaneThere.setLane there (Lane.doubted s.hub.clk.elapsed (s.hub.window64 p))
    refine ⟨_, next_congr run, ?_⟩
    dsimp only
    by_cases tried : (s.hub.lane p l).tried < 66
    · rw [if_pos tried, Hub.setLane_lane_same _ found' has', doubted, Lane.moved_offset]
      refine ⟨Lane.moved_lock .., Lane.moved_invHdr .., ?_⟩
      simp [tried, Lane.doubted]
    · rw [if_neg tried, doubted, if_neg fun both => tried both.1]
      exact ⟨hunt, rfl, rfl⟩
  · have run := Hub.invalidHeader_acts here there
    obtain ⟨q, found, has⟩ := id there
    have doubted := s.hub.setLane_lane_same found has (Lane.doubted s.hub.clk.elapsed (s.hub.window64 p))
    obtain ⟨q', found', has'⟩ := LaneThere.setLane there (Lane.doubted s.hub.clk.elapsed (s.hub.window64 p))
    have run : s.hub.invalidHeader p l =
        if 15 ≤ ((s.hub.lane p l).recent.filter fun t => decide (s.hub.clk.elapsed < t + s.hub.window64 p)).length then
          (s.hub.setLane p l (Lane.doubted s.hub.clk.elapsed (s.hub.window64 p))).setLane p l fun x =>
            { x with lock := .hunt, count := 0, recent := [] }
        else s.hub.setLane p l (Lane.doubted s.hub.clk.elapsed (s.hub.window64 p)) := by
      refine run.trans ?_
      rcases open' with wait | confirm
      · rw [wait]
      · rw [confirm]
    refine ⟨_, next_congr run, ?_⟩
    dsimp only
    split
    · rw [Hub.setLane_lane_same _ found' has', doubted]
      exact ⟨rfl, rfl, rfl⟩
    · rw [doubted]
      exact ⟨rfl, rfl, rfl⟩
  · have run := Hub.invalidHeader_acts here there
    obtain ⟨q, found, has⟩ := id there
    have doubted := s.hub.setLane_lane_same found has (Lane.doubted s.hub.clk.elapsed (s.hub.window64 p))
    dsimp only at run
    rw [locked] at run
    dsimp only at run
    rw [if_neg (Nat.not_le.2 few)] at run
    refine ⟨_, next_congr run, ?_⟩
    dsimp only
    rw [doubted]
    refine ⟨locked, rfl, List.take_of_length_le ?_⟩
    rw [List.length_cons]
    omega
  · have run := Hub.invalidHeader_acts here there
    obtain ⟨q, found, has⟩ := id there
    have doubted := s.hub.setLane_lane_same found has (Lane.doubted s.hub.clk.elapsed (s.hub.window64 p))
    dsimp only at run
    rw [locked] at run
    dsimp only at run
    rw [if_pos many] at run
    obtain ⟨lock, -, loss, header⟩ := Hub.loseLock_lane (LaneThere.setLane there (Lane.doubted s.hub.clk.elapsed (s.hub.window64 p)))
    exact ⟨_, next_congr run, lock, header.trans (by rw [doubted]; rfl), loss.trans (by rw [doubted]; rfl)⟩
end

section
/-! PROOFS. The housekeeping counters: a record moves RSEQ on by one where none was dropped before it (R212, R426). -/

namespace Sys2Proof.Machine

theorem forAll_hk {α : Type} (f : α → Hub → Hub) (hf : ∀ a h, (f a h).hk = h.hk) (l : List α) (h : Hub) :
    (forAll l f h).hk = h.hk := forAll_keeps Hub.hk f hf l h
theorem iter_hk (f : Hub → Hub) (hf : ∀ h, (f h).hk = h.hk) (n : Nat) (h : Hub) : (iter f n h).hk = h.hk :=
  iter_keeps Hub.hk f hf n h
theorem Hub.hk_mk (x0 x1 x2 x3 x4 x5 x6 x7 x8 x9 x10 x11 x12 x13 x14 x15 x16 x17 x18 x19 x20 x21 x22 x23 x24 x25 x26 x27 x28 x29 x30 x31) :
    (Hub.mk x0 x1 x2 x3 x4 x5 x6 x7 x8 x9 x10 x11 x12 x13 x14 x15 x16 x17 x18 x19 x20 x21 x22 x23 x24 x25 x26 x27 x28 x29 x30 x31).hk = x16
    := rfl

/-- The housekeeping state as a view of its own, which evaluation does not look into. -/
def Hub.hkView (h : Hub) : Hk := h.hk

theorem Hub.setFlow_hkView (h : Hub) (k : FlowKey) (g : Flow → Flow) : (h.setFlow k g).hkView = h.hkView := rfl
theorem Hub.mapCh_hkView (h : Hub) (g : Nat → Chan → Chan) : (h.mapCh g).hkView = h.hkView := rfl
theorem Hub.withFlows_hkView (h : Hub) (l : List Flow) : ({ h with flows := l } : Hub).hkView = h.hkView := rfl

theorem Hub.spoolTouch_hkView (h : Hub) (d : Nat) (was : Seqs) : (h.spoolTouch d was).hkView = h.hkView := by
  unfold Hub.spoolTouch
  simp only
  rw [Hub.withFlows_hkView]
  split
  · rfl
  · split
    · rfl
    · rw [Hub.setFlow_hkView, Hub.mapCh_hkView, Hub.withFlows_hkView, iter_keeps Hub.hkView]
      · rfl
      · intro g
        split
        · split <;> rfl
        · rfl
    · rfl

@[simp] theorem Hub.spoolTouch_hk (h : Hub) (d : Nat) (was : Seqs) : (h.spoolTouch d was).hk = h.hk := h.spoolTouch_hkView d was

@[simp] theorem Hub.ctl_hk (h : Hub) (p code payload : Nat) : (h.ctl p code payload).hk = h.hk := by
  simp only [Hub.ctl, ↓Hub.setLink_hk]
@[simp] theorem Hub.watermarks_hk (h : Hub) : h.watermarks.hk = h.hk := by
  simp only [Hub.watermarks, ↓Hub.ctl_hk, ↓Hub.setLink_hk, ↓forAll_hk, ↓Hub.hk_mk, ↓apply_ite Hub.hk, ite_self,
    implies_true]
@[simp] theorem Hub.emitSince_hk (h : Hub) (k : FlowKey) (stream : Nat) (rcd : Bytes) (since : Nat) :
    (h.emitSince k stream rcd since).hk = h.hk := by
  unfold Hub.emitSince
  split <;> simp only [↓Hub.setFlow_hk, ↓Hub.spoolTouch_hk, ↓Hub.watermarks_hk, ↓apply_ite Hub.hk, ite_self]
@[simp] theorem Hub.emitRecord_hk (h : Hub) (k : FlowKey) (stream : Nat) (rcd : Bytes) : (h.emitRecord k stream rcd).hk = h.hk := by
  simp only [Hub.emitRecord, ↓Hub.emitSince_hk]
@[simp] theorem Hub.startStep_hk (h : Hub) (p rate : Nat) (cause : StepCause) (good : List (Nat × Nat)) :
    (h.startStep p rate cause good).hk = h.hk := by
  simp only [Hub.startStep, ↓Hub.ctl_hk, ↓Hub.setPort_hk]
@[simp] theorem Hub.askRate_hk (h : Hub) (p rate : Nat) : (h.askRate p rate).hk = h.hk := by
  simp only [Hub.askRate, ↓Hub.ctl_hk, ↓Hub.setPort_hk, ↓Hub.startStep_hk, ↓apply_ite Hub.hk, ite_self]
@[simp] theorem Hub.retrain_hk (h : Hub) (p : Nat) : (h.retrain p).hk = h.hk := by
  simp only [Hub.retrain, ↓Hub.askRate_hk, ↓apply_ite Hub.hk, ite_self]
@[simp] theorem Hub.askWidth_hk (h : Hub) (p w : Nat) : (h.askWidth p w).hk = h.hk := by
  simp only [Hub.askWidth, ↓Hub.ctl_hk, ↓Hub.setPort_hk, ↓apply_ite Hub.hk, ite_self]
@[simp] theorem Hub.keepLimits_hk (h : Hub) (p : Nat) : (h.keepLimits p).hk = h.hk := by
  simp only [Hub.keepLimits, ↓Hub.askRate_hk, ↓Hub.askWidth_hk, ↓apply_ite Hub.hk, ite_self]
@[simp] theorem Hub.stepUp_hk (h : Hub) (p : Nat) : (h.stepUp p).hk = h.hk := by
  simp only [Hub.stepUp, ↓Hub.startStep_hk, ↓apply_ite Hub.hk, ite_self]
@[simp] theorem Hub.reLevel_hk (h : Hub) : h.reLevel.hk = h.hk := by
  simp only [Hub.reLevel, ↓Hub.setLevel_hk, ↓apply_ite Hub.hk, ite_self]
@[simp] theorem Hub.laneAway_hk (h : Hub) (a : Align) : (h.laneAway a).hk = h.hk := by
  simp only [Hub.laneAway, ↓Hub.setAlign_hk, ↓Hub.setTm_hk, ↓apply_ite Hub.hk, ite_self]
@[simp] theorem Hub.flowBuilt_hk (h : Hub) (d : Nat) (was : Seqs) : (h.flowBuilt d was).hk = h.hk := by
  simp only [Hub.flowBuilt, ↓Hub.spoolTouch_hk, ↓Hub.watermarks_hk]
@[simp] theorem Hub.logEntry_hk (h : Hub) (t : Nat) (event : Bytes) : (h.logEntry t event).hk = h.hk := by
  simp only [Hub.logEntry, ↓Hub.hk_mk, ↓apply_ite Hub.hk, ite_self]

/-! ## RSEQ (R426) -/

theorem Hub.hkRecord_rseq (h : Hub) (t kind : Nat) (payload : Bytes) : (h.hkRecord t kind payload).hk.rseq = h.hk.rseq + 1 := by
  unfold Hub.hkRecord
  dsimp only
  split
  · rw [Hub.emitRecord_hk]
  · rfl

section
variable {h : Hub} (kept : h.hk.dropped = 0)
include kept

theorem Hub.recordAt_rseq (t kind : Nat) (payload : Bytes) : (h.recordAt t kind payload).hk.rseq = h.hk.rseq + 1 := by
  unfold Hub.recordAt
  dsimp only
  rw [if_pos kept, if_pos kept]
  split
  · rfl
  · exact h.hkRecord_rseq t kind payload

theorem Hub.record_rseq (kind : Nat) (payload : Bytes) : (h.record kind payload).hk.rseq = h.hk.rseq + 1 :=
  Hub.recordAt_rseq kept _ kind payload

theorem Hub.eventAt_rseq (t : Nat) (unit : Word) (code cls count : Nat) (arg0 arg1 : Word) :
    (h.eventAt t unit code cls count arg0 arg1).hk.rseq = h.hk.rseq + 1 := by
  unfold Hub.eventAt
  dsimp only
  split
  · exact Hub.recordAt_rseq kept ..
  · rw [Hub.logEntry_hk, Hub.raise_hk]
    exact Hub.recordAt_rseq kept ..

theorem Hub.event_rseq (unit : Word) (code cls count : Nat) (arg0 arg1 : Word) :
    (h.event unit code cls count arg0 arg1).hk.rseq = h.hk.rseq + 1 := Hub.eventAt_rseq kept ..

theorem Hub.notice_rseq (unit : Word) (code : Nat) (arg0 arg1 : Word) : (h.notice unit code arg0 arg1).hk.rseq = h.hk.rseq + 1 :=
  Hub.event_rseq kept ..
end

end Sys2Proof.Machine
end


section
/-! PROOFS. What a port runs at while it is asked for other rates and widths (R308 to R319). -/

namespace Sys2Proof.Machine

/-- What a port runs at, and with whom. -/
def Port.pace (q : Port) : PState × Nat × Nat × Nat × Nat × Option (BitVec 48) := (q.st, q.rate, q.width, q.peer, q.upAt, q.peerSerial)

theorem Port.pace_eq (q : Port) : q.pace = (q.st, q.rate, q.width, q.peer, q.upAt, q.peerSerial) := by cases q; rfl

/-- What the ports of a hub run at. -/
def Hub.paces (h : Hub) : List (PState × Nat × Nat × Nat × Nat × Option (BitVec 48)) := h.ports.map Port.pace

theorem forAll_paces {α : Type} (f : α → Hub → Hub) (keeps : ∀ a h, (f a h).paces = h.paces) (l : List α) (h : Hub) :
    (forAll l f h).paces = h.paces := forAll_keeps Hub.paces f keeps l h
theorem iter_paces (f : Hub → Hub) (keeps : ∀ h, (f h).paces = h.paces) (n : Nat) (h : Hub) :
    (iter f n h).paces = h.paces := iter_keeps Hub.paces f keeps n h

theorem Hub.map_pace_ports (h : Hub) : h.ports.map Port.pace = h.paces := rfl

theorem Hub.paces_mk {clk : Clk} {tm : Tm} {chans : List Chan} {octs : List Octet} {reps : List Rep} {dies : List Die}
    {trg : Trg} {caps : List (Option Capture)} {nextTrain : Nat} {saved : List SavedChurn} {jobs : List ChurnJob} {nextHandle nextJob : Nat}
    {flows : List Flow} {strm : Strm} {hk : Hk} {sep : Sep} {ports : List Port} {enm : Enum} {mgmt : Mgmt} {dbw : Dbw} {fseal : Seal}
    {flt : Flt} {cal : Cal} {pwr : Pwr} {pmbus : Pmbus} {boot : Boot} {flash : Flash} {tag : Tag} {tap : Tap} {fresh : Nat} {ident : Ident}
      :
    (Hub.mk ident clk tm chans octs reps dies trg caps nextTrain saved jobs nextHandle nextJob flows strm hk sep ports enm mgmt dbw
      fseal flt cal pwr pmbus boot flash tag tap fresh).paces = ports.map Port.pace := rfl

theorem Hub.setPort_paces (h : Hub) (p : Nat) {f : Port → Port} (keeps : ∀ x, (f x).pace = x.pace) :
    (h.setPort p f).paces = h.paces := map_modAt_of_keeps keeps _ _


theorem Hub.paces_of_portCores {h g : Hub} (same : h.portCores = g.portCores) : h.paces = g.paces := by
  have view (k : Hub) : k.paces = k.portCores.map Port.pace := by
    simp only [Hub.paces, Hub.portCores, List.map_map]
    rfl
  rw [view, view, same]

@[simp] theorem Hub.ctl_paces (h : Hub) (p code payload : Nat) : (h.ctl p code payload).paces = h.paces :=
  Hub.paces_of_portCores (Hub.ctl_portCores ..)
@[simp] theorem Hub.askWidth_paces (h : Hub) (p w : Nat) : (h.askWidth p w).paces = h.paces := by
  simp only [Hub.askWidth, ↓Hub.ctl_paces, ↓Hub.setPort_paces, ↓apply_ite Hub.paces, ite_self, implies_true, ↓Hub.setPort_paces,
    Port.pace_eq]
@[simp] theorem Hub.startStep_paces (h : Hub) (p rate : Nat) (cause : StepCause) (good : List (Nat × Nat)) :
    (h.startStep p rate cause good).paces = h.paces := by
  simp only [Hub.startStep, ↓Hub.ctl_paces, ↓Hub.setPort_paces, implies_true, ↓Hub.setPort_paces, Port.pace_eq]
@[simp] theorem Hub.askRate_paces (h : Hub) (p rate : Nat) : (h.askRate p rate).paces = h.paces := by
  simp only [Hub.askRate, ↓Hub.ctl_paces, ↓Hub.setPort_paces, ↓Hub.startStep_paces, ↓apply_ite Hub.paces, ite_self, implies_true,
    ↓Hub.setPort_paces, Port.pace_eq]
@[simp] theorem Hub.keepLimits_paces (h : Hub) (p : Nat) : (h.keepLimits p).paces = h.paces := by
  simp only [Hub.keepLimits, ↓Hub.askRate_paces, ↓Hub.askWidth_paces, ↓apply_ite Hub.paces, ite_self]
@[simp] theorem Hub.reAsk_paces (h : Hub) (p : Nat) : (h.reAsk p).paces = h.paces := by
  unfold Hub.reAsk
  split <;> simp only [↓Hub.askRate_paces, ↓Hub.askWidth_paces, ↓Hub.keepLimits_paces, ↓Hub.setPort_paces, ↓apply_ite Hub.paces, ite_self,
    implies_true, ↓Hub.setPort_paces, Port.pace_eq]
@[simp] theorem Hub.stepUp_paces (h : Hub) (p : Nat) : (h.stepUp p).paces = h.paces := by
  simp only [Hub.stepUp, ↓Hub.startStep_paces, ↓apply_ite Hub.paces, ite_self]
@[simp] theorem Hub.sendArrive_paces (h : Hub) : h.sendArrive.paces = h.paces := by
  simp only [Hub.sendArrive, ↓Hub.ctl_paces, ↓Hub.paces_mk, ↓apply_ite Hub.paces, ite_self, ↓Hub.map_pace_ports]

/-! ## Limits of rate and width (R299, R308, R458) -/

/-- What the limits of a port come from. -/
structure Port.SameLimits (x y : Port) : Prop where
  manual : x.manual = y.manual
  cfg : x.cfg = y.cfg
  peerRate : x.peerRate = y.peerRate
  peerWidth : x.peerWidth = y.peerWidth
  laneWidth : x.laneWidth = y.laneWidth
  rate : x.rate = y.rate
  width : x.width = y.width

theorem Hub.setPort_prt_other (h : Hub) {p i : Nat} (other : p ≠ i) (f : Port → Port) : (h.setPort p f).prt i = h.prt i := by
  rw [Hub.prt, Hub.prt, List.getD_eq_getElem?_getD, h.setPort_getElem?_other other, ← List.getD_eq_getElem?_getD]

/-- The load of a port does not look at the port itself (R31). -/
theorem Hub.setPort_steadyLoad (h : Hub) (p : Nat) (f : Port → Port) : (h.setPort p f).steadyLoad p = h.steadyLoad p := by
  unfold Hub.steadyLoad
  by_cases first : p = 0
  · subst first
    have below : ((List.range (h.setPort 0 f).nPorts).filter fun q =>
          q != 0 && ((h.setPort 0 f).prt q).mode == 1 && ((h.setPort 0 f).prt q).st == .up) =
        (List.range h.nPorts).filter fun q => q != 0 && (h.prt q).mode == 1 && (h.prt q).st == .up := by
      refine List.filter_congr fun q _ => ?_
      by_cases zero : q = 0
      · simp [zero]
      · rw [h.setPort_prt_other (Ne.symm zero)]
    dsimp only
    rw [if_pos rfl, if_pos rfl, below]
    rfl
  · dsimp only
    rw [if_neg first, if_neg first]
    rfl

theorem Hub.widthCap_congr {h k : Hub} {p : Nat} (load : k.steadyLoad p = h.steadyLoad p) (shed : k.pwr.shed = h.pwr.shed)
    (same : (k.prt p).SameLimits (h.prt p)) : k.widthCap p = h.widthCap p := by
  unfold Hub.widthCap Hub.shedAt Port.maxWidth
  dsimp only
  rw [load, shed, same.manual, same.cfg, same.peerWidth, same.laneWidth, same.rate]

theorem Hub.rateCap_congr {h k : Hub} {p : Nat} (load : k.steadyLoad p = h.steadyLoad p) (shed : k.pwr.shed = h.pwr.shed)
    (same : (k.prt p).SameLimits (h.prt p)) : k.rateCap p = h.rateCap p := by
  unfold Hub.rateCap Hub.shedAt Port.maxRate
  dsimp only
  rw [load, shed, same.manual, same.cfg, same.peerRate, same.width]

theorem Hub.setPort_prt_both (h : Hub) (p : Nat) (f g : Port → Port) :
    ((h.setPort p f).prt p = f (h.prt p) ∧ (h.setPort p g).prt p = g (h.prt p)) ∨ (h.setPort p f).prt p = (h.setPort p g).prt p := by
  simp only [Hub.prt, Hub.setPort_ports, List.getD_eq_getElem?_getD, List.getElem?_modify]
  cases h.ports[p]? with
  | none => exact .inr rfl
  | some q => exact .inl (by simp)

theorem Hub.setPort_sameLimits (h : Hub) {p : Nat} {f g : Port → Port} (same : (f (h.prt p)).SameLimits (g (h.prt p))) :
    ((h.setPort p f).prt p).SameLimits ((h.setPort p g).prt p) := by
  rcases h.setPort_prt_both p f g with ⟨left, right⟩ | equal
  · rwa [left, right]
  · rw [equal]
    exact ⟨rfl, rfl, rfl, rfl, rfl, rfl, rfl⟩

theorem Hub.setPort_widthCap (h : Hub) {p : Nat} {f g : Port → Port} (same : (f (h.prt p)).SameLimits (g (h.prt p))) :
    (h.setPort p f).widthCap p = (h.setPort p g).widthCap p :=
  Hub.widthCap_congr ((h.setPort_steadyLoad p f).trans (h.setPort_steadyLoad p g).symm) rfl (h.setPort_sameLimits same)

theorem Hub.setPort_limits (h : Hub) {p : Nat} {f : Port → Port} (same : (f (h.prt p)).SameLimits (h.prt p)) :
    (h.setPort p f).widthCap p = h.widthCap p ∧ (h.setPort p f).rateCap p = h.rateCap p := by
  have limits := h.setPort_sameLimits (g := id) same
  rw [h.setPort_unchanged (f := id) rfl] at limits
  exact ⟨Hub.widthCap_congr (h.setPort_steadyLoad p f) rfl limits, Hub.rateCap_congr (h.setPort_steadyLoad p f) rfl limits⟩

theorem Port.laneWidth_congr {x y : Port} (retired : ∀ i, (x.lanes.getD i Lane.reset).retired = (y.lanes.getD i Lane.reset).retired) :
    x.laneWidth = y.laneWidth := by
  simp only [Port.laneWidth, retired]

theorem getD_mapIdx_view {α : Type} {view : Lane → α} {f : Nat → Lane → Lane} (keeps : ∀ i x, view (f i x) = view x) (l : List Lane) (i : Nat) :
    view ((l.mapIdx f).getD i Lane.reset) = view (l.getD i Lane.reset) := by
  rw [List.getD_eq_getElem?_getD, List.getD_eq_getElem?_getD, List.getElem?_mapIdx]
  cases l[i]? with
  | none => rfl
  | some x => exact keeps i x

/-! ## A port that comes up (R308) -/

/-- The width that both ends' locked lanes and limits allow (R308, R472). -/
def Hub.upWidth (h : Hub) (p : Nat) : Nat :=
  let q := h.prt p
  let both (l : Nat) : Bool := q.lockedMask.testBit l && q.peerLocked.testBit l
  let lanes := if !both 0 then 0 else if !both 1 then 1 else if !both 2 then 2 else 3
  let w := min (h.widthCap p) lanes
  if h.boot.netboot then min w 1 else w

theorem Hub.tryUp_eq (h : Hub) (p : Nat) : h.tryUp p =
    if (h.prt p).st = .search ∧ (h.prt p).peer ≠ 0 ∧ (h.prt p).peerSerial.isSome ∧ 0 < h.upWidth p then h.portUp p (h.upWidth p) else h := rfl

theorem Hub.paces_getElem? (h : Hub) (i : Nat) : h.paces[i]? = h.ports[i]?.map Port.pace := List.getElem?_map ..

theorem Hub.getElem?_of_paces {h k : Hub} (same : k.paces = h.paces) {p : Nat} {q : Port} (there : h.ports[p]? = some q) :
    ∃ x, k.ports[p]? = some x ∧ x.pace = q.pace := by
  have at' := (k.paces_getElem? p).symm.trans ((congrArg (·[p]?) same).trans (h.paces_getElem? p))
  rw [there] at at'
  exact Option.map_eq_some_iff.1 at'

theorem Hub.portUp_up {h : Hub} {p w : Nat} {q : Port} (there : h.ports[p]? = some q) :
    ∃ x, (h.portUp p w).ports[p]? = some x ∧ x.pace = (.up, 0, w, q.peer, h.clk.elapsed, q.peerSerial) := by
  unfold Hub.portUp
  extract_lets now st h1 h2 h3 boot h4
  obtain ⟨q', there', core⟩ := Hub.getElem?_of_portCores (h.discardNote_portCores p (h.prt p).link.queues.flatten.length) there
  have peer : q'.peer = q.peer := Port.view_of_core Port.peer core (by intro; rfl)
  have serial : q'.peerSerial = q.peerSerial := Port.view_of_core Port.peerSerial core (by intro; rfl)
  have two : ∃ x, h2.ports[p]? = some x ∧ x.pace = (.up, 0, w, q.peer, now, q.peerSerial) := by
    refine ⟨_, h1.setPort_getElem?_same there' _, ?_⟩
    rw [← peer, ← serial]
    rfl
  clear_value h2
  obtain ⟨x, at', pace⟩ := two
  have same : (h4.stepUp p).paces = h2.paces := by
    have arrived : h3.paces = h2.paces := by
      unfold h3
      split
      · exact Hub.sendArrive_paces _
      · rfl
    have settled : h4.paces = h3.paces := by
      unfold h4
      split <;> rfl
    exact (Hub.stepUp_paces ..).trans (settled.trans arrived)
  obtain ⟨y, there, run⟩ := Hub.getElem?_of_paces same at'
  exact ⟨y, there, run.trans pace⟩

theorem Hub.there_of_st {h : Hub} {p : Nat} (on : (h.prt p).st ≠ .off) : h.ports[p]? = some (h.prt p) := by
  cases there : h.ports[p]? with
  | none =>
    refine absurd ?_ on
    rw [Hub.prt, List.getD_eq_getElem?_getD, there]
    rfl
  | some q => rw [h.prt_of_getElem? there]

/-- The width at which a port comes up with a peer of these limits and locked lanes (R308). -/
def Hub.widthWith (h : Hub) (p rate wide lock : Nat) : Nat :=
  let q := h.prt p
  let both (lock : Nat) (l : Nat) : Bool := q.lockedMask.testBit l && lock.testBit l
  let lanes (lock : Nat) : Nat := if !both lock 0 then 0 else if !both lock 1 then 1 else if !both lock 2 then 2 else 3
  let w := min ((h.setPort p fun x => { x with peerRate := rate, peerWidth := wide }).widthCap p) (lanes lock)
  if h.boot.netboot then min w 1 else w

/-- A port has heard what its peer is and can. -/
def Hub.greeted (h : Hub) (p role maxRate maxWidth locked : Nat) : Hub :=
  h.setPort p fun q => { q with peer := role, peerRate := min 4 maxRate, peerWidth := maxWidth, peerLocked := locked }

theorem Hub.upWidth_of {k h : Hub} {p rate wide lock : Nat} (netboot : k.boot.netboot = h.boot.netboot)
    (cap : k.widthCap p = (h.setPort p fun x => { x with peerRate := rate, peerWidth := wide }).widthCap p)
    (lanes : (k.prt p).lanes = (h.prt p).lanes) (heard : (k.prt p).peerLocked = lock) : k.upWidth p = h.widthWith p rate wide lock := by
  have mask : (k.prt p).lockedMask = (h.prt p).lockedMask := by rw [Port.lockedMask, lanes, ← Port.lockedMask]
  unfold Hub.upWidth Hub.widthWith
  dsimp only
  rw [netboot, cap, mask, heard]

section
variable {h : Hub} {p role mr mw lk : Nat} {sn : BitVec 48} (search : (h.prt p).st = .search)
include search

theorem Hub.there_of_search : h.ports[p]? = some (h.prt p) := Hub.there_of_st (by rw [search]; exact nofun)

theorem Hub.greeted_prt : (h.greeted p role mr mw lk).prt p = { h.prt p with
    peer := role, peerRate := min 4 mr, peerWidth := mw, peerLocked := lk } := h.setPort_prt_same (Hub.there_of_search search) _

theorem Hub.greeted_upWidth : (h.greeted p role mr mw lk).upWidth p = h.widthWith p (min 4 mr) mw lk := by
  refine Hub.upWidth_of rfl (h.setPort_widthCap ?_) ?_ ?_
  · exact ⟨rfl, rfl, rfl, rfl, rfl, rfl, rfl⟩
  · rw [Hub.greeted_prt search]
  · rw [Hub.greeted_prt search]

theorem Hub.not_wiring : ¬((h.prt p).st = .wiring ∧ role ≠ (h.prt p).peer) := fun both => nomatch search.symm.trans both.1

theorem Hub.hello_fits (fits : if p = 0 then role = 1 ∨ role = 3 ∨ role = 4 else role = 2) :
    h.hello p role mr mw lk = (h.greeted p role mr mw lk).tryUp p := by
  unfold Hub.hello
  dsimp only
  rw [if_neg (Hub.not_wiring search), if_neg (not_not.2 search)]
  refine if_pos ?_
  split at fits
  · rename_i first
    rw [if_pos first]
    simpa [or_assoc] using fits
  · rename_i later
    rw [if_neg later]
    simpa using fits

theorem Hub.hello_misfits (misfit : ¬if p = 0 then role = 1 ∨ role = 3 ∨ role = 4 else role = 2) :
    h.hello p role mr mw lk = ((h.greeted p role mr mw lk).setPort p fun q => { q with st := .wiring }).notice (unitPort p) 0x0801 (argN role) 0 := by
  unfold Hub.hello
  dsimp only
  rw [if_neg (Hub.not_wiring search), if_neg (not_not.2 search)]
  refine if_neg ?_
  split at misfit
  · rename_i first
    rw [if_pos first]
    simpa [or_assoc] using misfit
  · rename_i later
    rw [if_neg later]
    simpa using misfit

/-- A port that has not all it needs to come up waits (R308). -/
theorem Hub.hello_waits (fits : if p = 0 then role = 1 ∨ role = 3 ∨ role = 4 else role = 2)
    (lacks : (h.prt p).peerSerial = none ∨ role = 0 ∨ h.widthWith p (min 4 mr) mw lk = 0) :
    h.hello p role mr mw lk = h.greeted p role mr mw lk := by
  rw [Hub.hello_fits search fits, Hub.tryUp_eq, Hub.greeted_upWidth search, Hub.greeted_prt search]
  refine if_neg ?_
  rintro ⟨-, heard, serial, wide⟩
  rcases lacks with no | no | no
  · simp [no] at serial
  · exact heard no
  · omega

theorem Hub.hello_up (fits : if p = 0 then role = 1 ∨ role = 3 ∨ role = 4 else role = 2) (serial : (h.prt p).peerSerial ≠ none)
    (wide : 0 < h.widthWith p (min 4 mr) mw lk) : ∃ x, (h.hello p role mr mw lk).ports[p]? = some x ∧
      x.pace = (.up, 0, h.widthWith p (min 4 mr) mw lk, role, h.clk.elapsed, (h.prt p).peerSerial) := by
  have heard : role ≠ 0 := by
    rintro rfl
    split at fits
    · omega
    · omega
  rw [Hub.hello_fits search fits, Hub.tryUp_eq, Hub.greeted_upWidth search, Hub.greeted_prt search,
    if_pos ⟨search, heard, Option.isSome_iff_ne_none.2 serial, wide⟩]
  exact Hub.portUp_up (h.setPort_getElem?_same (Hub.there_of_search search) _)

theorem Hub.serial_tries : h.serial p sn = (h.setPort p fun q => { q with peerSerial := some sn }).tryUp p := if_neg (not_not.2 search)

theorem Hub.serial_prt : (h.setPort p fun q => { q with peerSerial := some sn }).prt p = { h.prt p with peerSerial := some sn } :=
  h.setPort_prt_same (Hub.there_of_search search) _

theorem Hub.serial_upWidth : (h.setPort p fun q => { q with peerSerial := some sn }).upWidth p =
    h.widthWith p (h.prt p).peerRate (h.prt p).peerWidth (h.prt p).peerLocked := by
  refine Hub.upWidth_of rfl (h.setPort_widthCap ?_) ?_ ?_
  · exact ⟨rfl, rfl, rfl, rfl, rfl, rfl, rfl⟩
  · rw [Hub.serial_prt search]
  · rw [Hub.serial_prt search]

theorem Hub.serial_waits (lacks : (h.prt p).peer = 0 ∨ h.widthWith p (h.prt p).peerRate (h.prt p).peerWidth (h.prt p).peerLocked = 0) :
    h.serial p sn = h.setPort p fun q => { q with peerSerial := some sn } := by
  rw [Hub.serial_tries search, Hub.tryUp_eq, Hub.serial_upWidth search, Hub.serial_prt search]
  refine if_neg ?_
  rintro ⟨-, heard, -, wide⟩
  rcases lacks with no | no
  · exact heard no
  · omega

theorem Hub.serial_up (heard : (h.prt p).peer ≠ 0) (wide : 0 < h.widthWith p (h.prt p).peerRate (h.prt p).peerWidth (h.prt p).peerLocked) :
    ∃ x, (h.serial p sn).ports[p]? = some x ∧ x.pace = (.up, 0, h.widthWith p (h.prt p).peerRate (h.prt p).peerWidth (h.prt p).peerLocked,
      (h.prt p).peer, h.clk.elapsed, some sn) := by
  rw [Hub.serial_tries search, Hub.tryUp_eq, Hub.serial_upWidth search, Hub.serial_prt search, if_pos ⟨search, heard, rfl, wide⟩]
  exact Hub.portUp_up (h.setPort_getElem?_same (Hub.there_of_search search) _)
end

/-- What lets a port of MODE HUB search (R297, R308, R324). -/
def Hub.mayOpen (h : Hub) (p : Nat) : Prop :=
  (h.prt p).mode = 1 ∧ ((h.prt p).laneWidth ≠ 0 ∨ p = 0) ∧ (h.die (p / 4)).inService = true ∧ h.powered p = true ∧
    (p < 2 → h.flt.closed = false)

theorem Hub.startState_opens {h : Hub} {p : Nat} (opens : h.mayOpen p) : h.startState p = .search := by
  obtain ⟨mode, lanes, serves, powered, open'⟩ := opens
  unfold Hub.startState
  rw [if_neg fun both => ?_, if_neg (by simp [serves, powered]), mode]
  · refine if_neg fun both => both.2 (lanes.resolve_left (not_not.2 both.1))
  · simp only [Bool.and_eq_true, decide_eq_true_eq] at both
    exact absurd both.2 (by simp [open' both.1])

/-- A port that can search begins to, with nothing known of a peer (R308). -/
theorem Hub.portStart_opens {h : Hub} {p : Nat} {q : Port} (there : h.ports[p]? = some q) (opens : h.mayOpen p) :
    ∃ x, (h.portStart p).ports[p]? = some x ∧ x.st = .search ∧ x.searchAt = h.clk.elapsed ∧ x.peerSerial = none := by
  obtain ⟨x, at', core⟩ := Hub.portStart_begun there
  rw [Hub.startState_opens opens] at core
  exact ⟨x, at', (Port.view_of_core Port.st core (by intro; rfl)).trans (Port.begun_st ..),
    (Port.view_of_core Port.searchAt core (by intro; rfl)).trans (Port.begun_searchAt ..),
    (Port.view_of_core Port.peerSerial core (by intro; rfl)).trans (Port.begun_peerSerial ..)⟩

/-- A HELLO from another role lets a port that was miswired search again (R17). -/
theorem Hub.hello_rewired {h : Hub} {p role : Nat} (mr mw lk : Nat) {q : Port} (there : h.ports[p]? = some q) (wiring : (h.prt p).st = .wiring)
    (other : role ≠ (h.prt p).peer) (opens : h.mayOpen p) (fits : if p = 0 then role = 1 ∨ role = 3 ∨ role = 4 else role = 2) :
    ∃ x, (h.hello p role mr mw lk).ports[p]? = some x ∧ x.st = .search ∧ x.peer = role ∧ x.peerSerial = none := by
  obtain ⟨x, at', search, -, serial⟩ := Hub.portStart_opens there opens
  have prt := (h.portStart p).prt_of_getElem? at'
  have again : h.hello p role mr mw lk = (h.portStart p).hello p role mr mw lk := by
    unfold Hub.hello
    dsimp only
    have starts : (if (h.prt p).st = .wiring ∧ role ≠ (h.prt p).peer then h.portStart p else h) = h.portStart p := if_pos ⟨wiring, other⟩
    rw [starts, if_neg (Hub.not_wiring (h := h.portStart p) (by rw [prt]; exact search))]
  rw [again, Hub.hello_waits (by rw [prt]; exact search) fits (.inl (by rw [prt]; exact serial))]
  exact ⟨_, (h.portStart p).setPort_getElem?_same at' _, search, rfl, serial⟩

end Sys2Proof.Machine
end

section
/-! PROOFS. Rate steps, retrains and width changes of a port (R310 to R319), and its bring-up (R308). -/

namespace Sys2Proof.Machine

/-! ## Steps (R310, R311) -/

/-- A port that enters a step trains at its rate (R311). -/
theorem Hub.enterStep_enters {h : Hub} {p : Nat} {q : Port} {r : StepRun} (there : h.ports[p]? = some q) (run : q.run = some r) :
    ∃ x, (h.enterStep p).ports[p]? = some x ∧ x.st = .training ∧ x.rate = r.target ∧
      x.run = some { r with at' := none, own := none, peer := none, since := h.clk.elapsed } := by
  unfold Hub.enterStep
  rw [h.prt_of_getElem? there, run]
  obtain ⟨q', there', -⟩ := Hub.getElem?_of_portCores (h.queuesReset_portCores p) there
  exact ⟨_, Hub.setPort_getElem?_same _ there' _, rfl, rfl, rfl⟩

/-- A port that trains for a step does so whether it waits for the step's MARK or enters it at once. -/
theorem Hub.trains_or_enters {h : Hub} {p : Nat} {q : Port} {r : StepRun} (waits : Bool) (there : h.ports[p]? = some q)
    (training : q.st = .training) (run : q.run = some r) (own : r.own = none) (peer : r.peer = none) :
    ∃ x y, (if waits then h else h.enterStep p).ports[p]? = some x ∧ x.st = .training ∧ x.run = some y ∧ y.target = r.target ∧
      y.good = r.good ∧ y.own = none ∧ y.peer = none := by
  cases waits with
  | true => exact ⟨q, r, there, training, run, rfl, rfl, own, peer⟩
  | false =>
    obtain ⟨x, at', st, -, entered⟩ := Hub.enterStep_enters there run
    exact ⟨x, _, at', st, entered, rfl, rfl, rfl, rfl⟩

/-- The step that TRAIN STEP orders (R310). -/
def stepOrdered (now rate m : Nat) (q : Port) : StepRun :=
  ⟨rate, some (m % 65536), if q.rate < rate then .stepUp else .retrain, q.rate, q.width, if q.rate < rate then [(q.rate, q.width)] else [],
    none, none, now⟩

section
variable {h : Hub} {p rate m : Nat}

theorem Hub.trainStep_upper (upper : p ≠ 0) : h.trainStep p rate m = h := if_pos (.inl (by simpa [upstream] using upper))

theorem Hub.order_upper (upper : p ≠ 0) (w : Nat) : h.order p w m = h := if_pos (.inl (by simpa [upstream] using upper))

theorem Hub.trainStep_ignored (ignored : 4 < rate ∨ ((h.prt p).st ≠ .up ∧ (h.prt p).st ≠ .training) ∨
    ((h.prt p).manual = true ∧ (h.prt p).askedAt = none)) : h.trainStep p rate m = h := by
  unfold Hub.trainStep
  dsimp only
  rcases ignored with high | ⟨notUp, notTraining⟩ | ⟨manual, unasked⟩
  · exact if_pos (.inr (.inl high))
  · rw [if_neg notTraining, if_pos notUp, ite_self]
  · exact if_pos (.inr (.inr ⟨manual, by simp [unasked]⟩))

section
variable (first : p = 0) (low : rate ≤ 4) (mayAct : (h.prt p).manual = false ∨ (h.prt p).askedAt ≠ none)
include first low mayAct

theorem Hub.trainStep_heard : ¬(upstream p = true ∨ 4 < rate ∨ ((h.prt p).manual = true ∧ (h.prt p).askedAt.isNone = true)) := by
  rintro (upper | high | ⟨manual, unasked⟩)
  · exact absurd upper (by simp [upstream, first])
  · omega
  · rcases mayAct with auto | asked
    · simp [auto] at manual
    · exact asked (Option.isNone_iff_eq_none.1 unasked)

/-- A STEP that may be made is made at its MARK, or at once where no MARK of L0 can be heard (R310, R311). -/
theorem Hub.trainStep_steps (isUp : (h.prt p).st = .up) (may : rate ≤ (h.prt p).rate ∨ h.boot.p00Released = true) :
    h.trainStep p rate m = (fun k : Hub => if (h.lane p 0).lock == .locked then k else k.enterStep p) (h.setPort p fun x => { x with
      run := some (stepOrdered h.clk.elapsed rate m (h.prt p)), askedAt := none, quietAt := h.clk.elapsed }) := by
  unfold Hub.trainStep
  dsimp only
  have training : (h.prt p).st ≠ .training := by rw [isUp]; exact nofun
  have waits : ¬((h.prt p).rate < rate ∧ (!h.boot.p00Released) = true) := by
    rintro ⟨up, held⟩
    rcases may with down | free
    · omega
    · simp [free] at held
  rw [if_neg (Hub.trainStep_heard first low mayAct), if_neg training, if_neg (not_not.2 isUp), if_neg waits, h.setPort_lane p p 0 (by intro; rfl)]
  rfl

theorem Hub.trainStep_waits (isUp : (h.prt p).st = .up) (up : (h.prt p).rate < rate) (held : h.boot.p00Released = false) :
    h.trainStep p rate m = h.setPort p fun x => { x with asked := some (true, rate) } := by
  unfold Hub.trainStep
  dsimp only
  have training : (h.prt p).st ≠ .training := by rw [isUp]; exact nofun
  rw [if_neg (Hub.trainStep_heard first low mayAct), if_neg training, if_neg (not_not.2 isUp), if_pos ⟨up, by simp [held]⟩]

/-- A STEP within a step goes on with what the rates before have passed (R311). -/
theorem Hub.trainStep_goesOn {r : StepRun} (there : h.ports[p]? = some (h.prt p)) (training : (h.prt p).st = .training)
    (run : (h.prt p).run = some r) : ∃ x y, (h.trainStep p rate m).ports[p]? = some x ∧ x.st = .training ∧ x.run = some y ∧
      y.target = rate ∧ y.good = r.good ∧ y.own = none ∧ y.peer = none := by
  unfold Hub.trainStep
  dsimp only
  rw [if_neg (Hub.trainStep_heard first low mayAct), if_pos training, run]
  dsimp only
  exact Hub.trains_or_enters (r := { r with
    target := rate, at' := some (m % 65536), cause := if r.cause = .settle ∧ !(r.good.any fun g => g.1 == rate) then .stepUp else r.cause,
    own := none, peer := none, since := h.clk.elapsed }) _ (h.setPort_getElem?_same there _) training rfl rfl rfl
end

/-! ## Requests and probes (R310, R313, R315) -/

theorem Hub.trainRequest_ignored (ignored : p = 0 ∨ 4 < rate ∨ (h.prt p).manual = true ∨ ((h.prt p).run ≠ none ∧ (h.wins p && h.collides p) = true)) :
    h.trainRequest p rate = h := by
  refine if_pos ?_
  rcases ignored with first | high | manual | ⟨runs, wins⟩
  · exact .inl (by simp [upstream, first])
  · exact .inr (.inl high)
  · exact .inr (.inr (.inl manual))
  · simp only [Bool.and_eq_true] at wins
    exact .inr (.inr (.inr ⟨wins.1, wins.2, Option.isSome_iff_ne_none.2 runs⟩))

theorem Hub.trainRequest_asks (upper : p ≠ 0) (low : rate ≤ 4) (auto : (h.prt p).manual = false)
    (free : (h.prt p).run = none ∨ (h.wins p && h.collides p) = false) : h.trainRequest p rate = h.askRate p rate := by
  refine if_neg ?_
  rintro (first | high | manual | ⟨wins, collides, runs⟩)
  · simp [upstream, upper] at first
  · omega
  · simp [auto] at manual
  · rcases free with still | loses
    · simp [still] at runs
    · simp [wins, collides] at loses

theorem Hub.probe_ignored (ignored : p = 0 ∨ bitOf (h.prt p).cfg 17 = false ∨ (h.prt p).st ≠ .up ∨ (h.prt p).run ≠ none ∨ (h.prt p).manual = true ∨
    2 ≤ h.pwr.shed ∨ h.clk.elapsed < (h.prt p).quietAt + 600000000000) : h.probe p = h := by
  refine if_pos ?_
  rcases ignored with first | off | down | runs | rest
  · exact .inl (by simp [upstream, first])
  · exact .inr (.inl (by simp [off]))
  · exact .inr (.inr (.inl down))
  · exact .inr (.inr (.inr (.inl (Option.isSome_iff_ne_none.2 runs))))
  · exact .inr (.inr (.inr (.inr rest)))

/-- A port that has been quiet for long enough is probed (R313). -/
theorem Hub.probe_acts (upper : p ≠ 0) (on : bitOf (h.prt p).cfg 17 = true) (isUp : (h.prt p).st = .up) (run : (h.prt p).run = none)
    (auto : (h.prt p).manual = false) (cool : h.pwr.shed < 2) (quiet : (h.prt p).quietAt + 600000000000 ≤ h.clk.elapsed) :
    h.probe p = if (h.prt p).rate < h.rateCap p then h.startStep p ((h.prt p).rate + 1) .probe [((h.prt p).rate, (h.prt p).width)]
      else if (h.prt p).width < h.widthCap p then (h.askWidth p ((h.prt p).width + 1)).setPort p fun q => { q with quietAt := h.clk.elapsed }
      else h := by
  refine if_neg ?_
  rintro (first | off | down | runs | manual | hot | early)
  · simp [upstream, upper] at first
  · simp [on] at off
  · exact down isUp
  · simp [run] at runs
  · simp [auto] at manual
  · omega
  · omega

theorem Hub.widthCap_le (h : Hub) (p : Nat) : h.widthCap p ≤ (h.prt p).laneWidth := by
  unfold Hub.widthCap
  dsimp only
  split <;> omega

theorem Port.laneWidth_inService {q : Port} {l : Nat} (narrow : l < q.laneWidth) : l < 3 ∧ (q.lanes.getD l Lane.reset).retired = false := by
  unfold Port.laneWidth at narrow
  split at narrow
  · omega
  · rename_i zero
    split at narrow
    · obtain rfl : l = 0 := by omega
      exact ⟨by omega, Bool.eq_false_iff.2 zero⟩
    · rename_i one
      split at narrow
      · rcases (by omega : l = 0 ∨ l = 1) with rfl | rfl
        · exact ⟨by omega, Bool.eq_false_iff.2 zero⟩
        · exact ⟨by omega, Bool.eq_false_iff.2 one⟩
      · rename_i two
        rcases (by omega : l = 0 ∨ l = 1 ∨ l = 2) with rfl | rfl | rfl
        · exact ⟨by omega, Bool.eq_false_iff.2 zero⟩
        · exact ⟨by omega, Bool.eq_false_iff.2 one⟩
        · exact ⟨by omega, Bool.eq_false_iff.2 two⟩

/-- The next lane wakes for a wider width (R313, R317). -/
theorem Port.wakeTo_next {q : Port} (now : Nat) (next : q.width < q.laneWidth) (has : q.width < q.lanes.length)
    (parked : (q.lanes.getD q.width Lane.reset).parked = true) :
    (q.wakeTo now (q.width + 1)).getD q.width Lane.reset = (q.lanes.getD q.width Lane.reset).wake now := by
  obtain ⟨data, serves⟩ := Port.laneWidth_inService next
  rw [List.getD_eq_getElem?_getD, List.getElem?_eq_getElem has] at parked serves
  rw [Port.wakeTo, List.getD_eq_getElem?_getD, List.getD_eq_getElem?_getD, List.getElem?_mapIdx, List.getElem?_eq_getElem has]
  exact if_pos ⟨Nat.le_refl _, by omega, parked, by simpa using serves⟩
end

/-! ## Results (R311, R313, R314) -/

theorem Hub.portReturn_returns {h : Hub} {p : Nat} {q : Port} (there : h.ports[p]? = some q) (rate width : Nat) :
    ∃ x, (h.portReturn p rate width).ports[p]? = some x ∧ x.st = .up ∧ x.rate = rate ∧ x.width = width ∧ x.lost = q.lost := by
  unfold Hub.portReturn
  extract_lets now h1 boot
  have first := h.setPort_getElem?_same there fun q => { q with
    st := .up, rate := rate, width := width, run := none, widthRun := none, askedAt := none, quietAt := now,
    blk := q.blk * width, lanes := modAll (q.parkOutside now width) [0, 1, 2] fun _ x => { x with eyeDue := true },
    link := { q.link with again := q.link.replay, pauseAt := now, pauseGone := false, ackAt := now } }
  have second : (if p = 0 ∧ h1.boot.p00Released then { h1 with boot := { h1.boot with p00Settled := true } } else h1).ports = h1.ports := by
    split <;> rfl
  obtain ⟨x, at', core⟩ := Hub.getElem?_of_portCores (Hub.watermarks_portCores _) ((congrArg (·[p]?) second).trans first)
  exact ⟨x, at', Port.view_of_core Port.st core (by intro; rfl), Port.view_of_core Port.rate core (by intro; rfl),
    Port.view_of_core Port.width core (by intro; rfl), (Port.view_of_core Port.lost core (by intro; rfl)).trans rfl⟩

theorem Hub.countLost_none {h : Hub} {p : Nat} (kept : (h.prt p).lost = []) : h.countLost p = h := by
  unfold Hub.countLost
  rw [kept]
  refine h.setPort_unchanged ?_
  rw [← kept]

theorem Hub.stepDone_waits {h : Hub} {p : Nat} {r : StepRun} (run : (h.prt p).run = some r) (own : r.own = none) : h.stepDone p = h := by
  unfold Hub.stepDone
  rw [run]
  dsimp only
  rw [own]

/-- A retrain whose lanes have all passed at both ends goes back to traffic (R314). -/
theorem Hub.stepDone_returns {h : Hub} {p peer : Nat} {r : StepRun} {own : List Bool} (there : h.ports[p]? = some (h.prt p))
    (run : (h.prt p).run = some r) (tested : r.own = some own) (heard : r.peer = some peer) (first : own.getD 0 false = true)
    (training : (h.prt p).st = .training) (auto : (h.prt p).manual = false) (cause : r.cause = .retrain) (good : r.good = [])
    (lost : (h.prt p).lost = []) (passed : ∀ i < r.fromWidth, own.getD i false = true)
    (wide : 0 < min (passWidth own peer) (h.widthCap p)) : ∃ x, (h.stepDone p).ports[p]? = some x ∧
      x.st = .up ∧ x.rate = r.target ∧ x.width = min (passWidth own peer) (h.widthCap p) := by
  have none' : ([0, 1, 2].filter fun l => decide (l < r.fromWidth) && !own.getD l false) = [] := by
    refine List.filter_eq_nil_iff.2 fun l _ => ?_
    by_cases low : l < r.fromWidth
    · rw [passed l low]
      simp
    · simp [low]
  have done : h.stepDone p = ((h.portReturn p r.target (min (passWidth own peer) (h.widthCap p))).countLost p).reAsk p := by
    unfold Hub.stepDone
    rw [run]
    dsimp only
    rw [tested]
    dsimp only [Option.getD_some]
    rw [if_pos first, heard]
    dsimp only
    rw [none', if_pos cause, h.setPort_unchanged (by rw [List.append_nil]), if_neg (not_not.2 training), if_neg (by simp [auto]), if_pos wide,
      if_neg fun both => both.1 cause, if_pos wide, good]
    have best (a : Nat × Nat) : bestOf [a] = some a := rfl
    rw [best]
    exact if_pos rfl
  obtain ⟨x, at', st, rate, width, kept⟩ := Hub.portReturn_returns there r.target (min (passWidth own peer) (h.widthCap p))
  have prt := Hub.prt_of_getElem? _ at'
  rw [done, Hub.countLost_none (by rw [prt, kept, lost])]
  obtain ⟨y, there', pace⟩ := Hub.getElem?_of_paces (Hub.reAsk_paces ..) at'
  simp only [Port.pace, Prod.mk.injEq] at pace
  exact ⟨y, there', pace.1.trans st, pace.2.1.trans rate, pace.2.2.1.trans width⟩

section
variable {h : Hub} {p rate lanes : Nat}

theorem Hub.result_alone (alone : (h.prt p).run = none ∨ (h.prt p).st ≠ .training) : h.result p rate lanes = h := by
  unfold Hub.result
  split
  · rename_i r run
    exact if_pos (.inr (.inr (alone.resolve_left (by simp [run]))))
  · rfl

theorem Hub.result_other {r : StepRun} (run : (h.prt p).run = some r) (other : r.target ≠ rate ∨ r.cause = .settle) :
    h.result p rate lanes = h := by
  unfold Hub.result
  rw [run]
  exact if_pos (other.imp_right .inl)

theorem Hub.result_hears {r : StepRun} (training : (h.prt p).st = .training) (run : (h.prt p).run = some r) (target : r.target = rate)
    (cause : r.cause ≠ .settle) : h.result p rate lanes =
      (h.setPort p fun x => { x with run := some { r with peer := some (lanes % 8) } }).stepDone p := by
  unfold Hub.result
  rw [run]
  refine if_neg ?_
  rintro (other | settles | quiet)
  · exact other target
  · exact cause settles
  · exact quiet training
end

/-! ## The PRBS31 check (R311, R317) -/

/-- The time of a lane that rejoins is up (R317; log entry 194). -/
def Lane.ends (now : Nat) (x : Lane) : Prop := x.rejoins = true ∧ ∃ u, x.wakeAt = some u ∧ u + 3000000 ≤ now

/-- What the end of its check leaves of a lane that rejoins (R317). -/
def Lane.judged (now : Nat) (ok : Bool) (x : Lane) : Lane :=
  if !(x.rejoins && (match x.wakeAt with | some t => decide (t + 3000000 ≤ now) | none => false)) then x
  else if ok && x.lock == .locked then { x with passed := true }
  else { x.hunt now with parked := true }

theorem Lane.timeUp_iff (now : Nat) (x : Lane) :
    (x.rejoins && (match x.wakeAt with | some t => decide (t + 3000000 ≤ now) | none => false)) = true ↔ x.ends now := by
  unfold Lane.ends
  cases wake : x.wakeAt with
  | none => simp
  | some u => simp

theorem Lane.judged_early {now : Nat} {x : Lane} (early : ¬x.ends now) (ok : Bool) : x.judged now ok = x :=
  if_pos (by rw [Bool.eq_false_iff.2 (mt (Lane.timeUp_iff now x).1 early)]; rfl)

theorem Lane.judged_ends {now : Nat} {x : Lane} (ends : x.ends now) (ok : Bool) : x.judged now ok =
    if ok = true ∧ x.lock = .locked then { x with passed := true } else { x.hunt now with parked := true } := by
  refine (if_neg (by rw [(Lane.timeUp_iff now x).2 ends]; decide)).trans ?_
  simp only [Bool.and_eq_true, beq_iff_eq]

theorem Hub.widthSettle_still {h : Hub} {p : Nat} (still : (h.prt p).widthRun = none) : h.widthSettle p = h := by
  unfold Hub.widthSettle
  dsimp only
  rw [still]
  exact ite_self _

section
variable {h : Hub} {p : Nat} {passed : List Bool}

theorem Hub.prbsCheck_early {r : StepRun} (training : (h.prt p).st = .training) (run : (h.prt p).run = some r)
    (early : h.clk.elapsed < r.since + 1500000) : h.prbsCheck p passed = h := by
  unfold Hub.prbsCheck
  dsimp only
  rw [training, run]
  exact if_pos (.inr (.inr (.inr early)))

theorem Hub.prbsCheck_rejoins (isUp : (h.prt p).st = .up) (still : (h.prt p).widthRun = none) :
    h.prbsCheck p passed = h.setPort p fun q => { q with lanes := q.lanes.mapIdx fun i x => x.judged h.clk.elapsed (passed.getD i false) } := by
  have run : h.prbsCheck p passed =
      (h.setPort p fun q => { q with lanes := q.lanes.mapIdx fun i x => x.judged h.clk.elapsed (passed.getD i false) }).widthSettle p := by
    unfold Hub.prbsCheck
    dsimp only
    rw [isUp]
    rfl
  rw [run, Hub.widthSettle_still]
  exact (h.setPort_prt_view p p (view := Port.widthRun) (by intro; rfl)).trans still

theorem Hub.prbsCheck_none (isUp : (h.prt p).st = .up) (still : (h.prt p).widthRun = none) (early : ∀ x ∈ (h.prt p).lanes, ¬x.ends h.clk.elapsed) :
    h.prbsCheck p passed = h := by
  rw [Hub.prbsCheck_rejoins isUp still]
  refine h.setPort_unchanged ?_
  have same : ((h.prt p).lanes.mapIdx fun i x => x.judged h.clk.elapsed (passed.getD i false)) = (h.prt p).lanes := by
    refine List.ext_getElem? fun i => ?_
    rw [List.getElem?_mapIdx]
    cases lane : (h.prt p).lanes[i]? with
    | none => rfl
    | some x => exact congrArg some (Lane.judged_early (early x (List.mem_of_getElem? lane)) _)
  rw [same]

/-- The lanes of a step go back to blocks after their PRBS31 period; with L0 among those that pass this end waits for its lock (R311). -/
theorem Hub.prbsCheck_passes {r : StepRun} (there : h.ports[p]? = some (h.prt p)) (four : (h.prt p).lanes.length = 4)
    (training : (h.prt p).st = .training)
    (run : (h.prt p).run = some r) (cause : r.cause ≠ .settle) (own : r.own = none) (now : r.at' = none)
    (late : r.since + 1500000 ≤ h.clk.elapsed) (first : (passed.getD 0 false && !((h.prt p).lanes.getD 0 Lane.reset).retired) = true) :
    ∃ x, (h.prbsCheck p passed).ports[p]? = some x ∧ x.st = .training ∧ x.run = some { r with
      own := some ((List.range 3).map fun l => passed.getD l false && !((h.prt p).lanes.getD l Lane.reset).retired) } := by
  unfold Hub.prbsCheck
  dsimp only
  rw [training, run]
  dsimp only
  rw [if_neg (by simp [cause, own, now, Nat.not_lt.2 late]), h.setPort_prt_same there]
  dsimp only
  rw [if_neg]
  · exact ⟨_, h.setPort_getElem?_same there _, training, rfl⟩
  · intro ready
    simp only [StepRun.ready, List.all_eq_true] at ready
    have zero := ready 0 (by simp)
    rw [show (List.range 3) = [0, 1, 2] from rfl] at zero
    simp only [List.map_cons, List.getD_cons_zero, first, Bool.not_true, Bool.false_or, beq_iff_eq] at zero
    rw [List.getD_eq_getElem?_getD, List.getElem?_mapIdx, List.getElem?_eq_getElem (by omega)] at zero
    exact nomatch zero
end

/-! ## Width changes (R315, R317 to R319) -/

theorem Hub.keepLimits_still {h : Hub} {p : Nat} (within : (h.prt p).manual = true ∨
    ((h.prt p).rate ≤ h.rateCap p ∧ (h.prt p).width ≤ h.widthCap p)) : h.keepLimits p = h := by
  unfold Hub.keepLimits
  dsimp only
  rcases within with manual | ⟨rate, width⟩
  · exact if_pos (.inr (.inl manual))
  · rw [if_neg (Nat.not_lt.2 rate), if_neg (fun both : h.widthCap p < (h.prt p).width ∧ _ => Nat.not_lt.2 width both.1), ite_self]

theorem Hub.reAsk_still {h : Hub} {p : Nat} (unasked : (h.prt p).asked = none) (within : (h.prt p).manual = true ∨
    ((h.prt p).rate ≤ h.rateCap p ∧ (h.prt p).width ≤ h.widthCap p)) : h.reAsk p = h := by
  unfold Hub.reAsk
  rw [unasked]
  exact Hub.keepLimits_still within

section
variable {h : Hub} {p : Nat}

theorem Hub.widthSettle_rejoins (waits : (h.prt p).lanes.any Lane.rejoins = true) : h.widthSettle p = h := if_pos (.inr waits)

section
variable (isUp : (h.prt p).st = .up) (settled : (h.prt p).lanes.any Lane.rejoins = false) {w : Nat} {b : Bool}
  (asks : (h.prt p).widthRun = some ⟨w, none, b⟩)
include isUp settled asks

/-- The downstream end answers with its lanes (R318). -/
theorem Hub.widthSettle_answers (first : p = 0) (unasked : (h.prt p).asked = none) : h.widthSettle p =
    h.setPort p fun q => { q.saying 0x78 (2 * 2 ^ 52 + (h.prt p).accepts * 2 ^ 49) with widthRun := none } := by
  unfold Hub.widthSettle
  dsimp only
  rw [if_neg (by simp [isUp, settled]), asks]
  dsimp only
  rw [if_pos (by simp [upstream, first]), unasked, if_neg (by simp), Hub.ctl_setPort, Hub.setPort_setPort]

variable {lanes v : Nat} (upper : p ≠ 0) (heard : (h.prt p).answered = some lanes)
  (least : v = min w (passWidth ((List.range 3).map fun i => (h.prt p).accepts.testBit i) lanes))
include upper heard least

/-- The upstream end orders the smaller width (R319). -/
theorem Hub.widthSettle_orders (some' : v ≠ 0) (other : v ≠ (h.prt p).width) : h.widthSettle p = h.setPort p fun q => {
    q.saying 0x78 (2 ^ 52 + v * 2 ^ 50 + ((h.prt p).mcount + 2) % 65536) with
      widthRun := some ⟨v, some (v, ((h.prt p).mcount + 2) % 65536), false⟩, answered := none } := by
  unfold Hub.widthSettle
  dsimp only
  rw [if_neg (by simp [isUp, settled]), asks]
  dsimp only
  rw [if_neg (by simp [upstream, upper]), heard]
  dsimp only
  rw [← least, if_neg (by simp [some', other]), Hub.ctl_setPort, Hub.setPort_setPort]

/-- Where the width stays, the lanes that were woken park again (R319). -/
theorem Hub.widthSettle_keeps (stays : v = 0 ∨ v = (h.prt p).width) : h.widthSettle p = (h.setPort p fun q => { q with
    widthRun := none, askedAt := none, answered := none, lanes := q.parkOutside h.clk.elapsed q.width }).reAsk p := by
  unfold Hub.widthSettle
  dsimp only
  rw [if_neg (by simp [isUp, settled]), asks]
  dsimp only
  rw [if_neg (by simp [upstream, upper]), heard]
  dsimp only
  rw [← least, if_pos stays]
end

theorem Hub.widthRequest_ignored {w : Nat} (ignored : (h.prt p).st ≠ .up ∨ w = 0 ∨ ((h.prt p).manual = true ∧ (p ≠ 0 ∨ (h.prt p).askedAt = none))) :
    h.widthRequest p w = h := by
  refine if_pos ?_
  rcases ignored with down | zero | ⟨manual, unasked⟩
  · exact .inl down
  · exact .inr (.inr zero)
  · exact .inr (.inl ⟨manual, unasked.imp (fun upper => by simpa [upstream] using upper) (fun never => by simp [never])⟩)

theorem Hub.widthRequest_begins {w : Nat} (upper : p ≠ 0) (isUp : (h.prt p).st = .up) (auto : (h.prt p).manual = false)
    (run : (h.prt p).run = none) (widthRun : (h.prt p).widthRun = none) (wide : w ≠ 0) (some' : min w (h.widthCap p) ≠ 0)
    (other : min w (h.widthCap p) ≠ (h.prt p).width) :
    h.widthRequest p w = h.setPort p (Port.widening h.clk.elapsed p (min w (h.widthCap p))) := by
  unfold Hub.widthRequest
  dsimp only
  rw [if_neg (by simp [isUp, auto, wide]), if_pos (by simpa [upstream] using upper), if_neg (by simp [run, widthRun]),
    Hub.askWidth_begins run widthRun isUp other some']

/-- A port that its peer asks for a width wakes the lanes for it (R317, R318). -/
def Port.woken (now w : Nat) (q : Port) : Port :=
  { q with askedAt := if q.manual then q.askedAt else none, widthRun := some ⟨w, none, false⟩, lanes := q.wakeTo now w }

theorem Hub.widthRequest_wakes {w : Nat} (first : p = 0) (isUp : (h.prt p).st = .up) (mayAct : (h.prt p).manual = false ∨ (h.prt p).askedAt ≠ none)
    (wide : w ≠ 0) : h.widthRequest p w = (h.setPort p (Port.woken h.clk.elapsed w)).widthSettle p := by
  unfold Hub.widthRequest
  dsimp only
  rw [if_neg, if_neg (by simp [upstream, first])]
  · rfl
  · rintro (down | ⟨manual, upper | unasked⟩ | zero)
    · exact down isUp
    · exact absurd upper (by simp [upstream, first])
    · rcases mayAct with auto | asked
      · simp [auto] at manual
      · exact asked (Option.isNone_iff_eq_none.1 unasked)
    · exact wide zero

theorem Hub.answer_ignored {lanes : Nat} (ignored : p = 0 ∨ ∀ v b, (h.prt p).widthRun ≠ some ⟨v, none, b⟩) : h.answer p lanes = h := by
  unfold Hub.answer
  split
  · rename_i v b asks
    rcases ignored with first | other
    · exact if_neg (by simp [upstream, first])
    · exact absurd asks (other v b)
  · rfl

theorem Hub.answer_settles {lanes w : Nat} {b : Bool} (upper : p ≠ 0) (asks : (h.prt p).widthRun = some ⟨w, none, b⟩) :
    h.answer p lanes = (h.setPort p fun q => { q with answered := some lanes }).widthSettle p := by
  unfold Hub.answer
  rw [asks]
  exact if_pos (by simpa [upstream] using upper)

theorem Hub.order_ignored {w m : Nat} (ignored : (h.prt p).st ≠ .up ∨ w = 0 ∨ 3 < w ∨ ((h.prt p).manual = true ∧ (h.prt p).askedAt = none)) :
    h.order p w m = h := by
  refine if_pos (.inr ?_)
  rcases ignored with down | zero | high | ⟨manual, unasked⟩
  · exact .inl down
  · exact .inr (.inl zero)
  · exact .inr (.inr (.inl high))
  · exact .inr (.inr (.inr ⟨manual, by simp [unasked]⟩))

theorem Hub.order_takes {w m : Nat} (first : p = 0) (isUp : (h.prt p).st = .up) (least : 1 ≤ w) (most : w ≤ 3)
    (mayAct : (h.prt p).manual = false ∨ (h.prt p).askedAt ≠ none) :
    h.order p w m = h.setPort p fun x => { x with askedAt := none, widthRun := some ⟨w, some (w, m % 65536), false⟩ } := by
  refine if_neg ?_
  rintro (upper | down | zero | high | ⟨manual, unasked⟩)
  · exact absurd upper (by simp [upstream, first])
  · exact down isUp
  · omega
  · omega
  · rcases mayAct with auto | asked
    · simp [auto] at manual
    · exact asked (Option.isNone_iff_eq_none.1 unasked)
end

end Sys2Proof.Machine
end

section
/-! PROOFS. Bring-up, rate steps and width changes of a port (R308 to R319). -/

open Sys2Proof Sys2Proof.Machine

namespace Sys2Proof.Machine

theorem Port.pace_of {x : Port} {st : PState} {rate width peer up : Nat} {sn : Option (BitVec 48)} (pace : x.pace = (st, rate, width, peer, up, sn)) :
    x.st = st ∧ x.rate = rate ∧ x.width = width ∧ x.peer = peer ∧ x.upAt = up ∧ x.peerSerial = sn := by
  simpa only [Port.pace, Prod.mk.injEq] using pace

theorem Hub.there_of_lt {h : Hub} {p : Nat} (present : p < h.ports.length) : h.ports[p]? = some (h.prt p) := by
  rw [Hub.prt, List.getD_eq_getElem?_getD, List.getElem?_eq_getElem present]
  rfl

/-- A port whose woken lanes park again has nothing more to ask for within its limits (R319). -/
theorem Hub.parked_reAsk {h : Hub} {p : Nat} (there : h.ports[p]? = some (h.prt p)) (unasked : (h.prt p).asked = none)
    (within : (h.prt p).manual = true ∨ ((h.prt p).rate ≤ h.rateCap p ∧ (h.prt p).width ≤ h.widthCap p)) (k : Hub)
    (parked : k = h.setPort p fun q => { q with
      answered := none, widthRun := none, askedAt := none, lanes := q.parkOutside h.clk.elapsed q.width }) : k.reAsk p = k := by
  have prt := h.setPort_prt_same there fun q => { q with
    answered := none, widthRun := none, askedAt := none, lanes := q.parkOutside h.clk.elapsed q.width }
  rw [← parked] at prt
  obtain ⟨width, rate⟩ := h.setPort_limits (p := p) (f := fun q => { q with
    answered := none, widthRun := none, askedAt := none, lanes := q.parkOutside h.clk.elapsed q.width })
    ⟨rfl, rfl, rfl, rfl, Port.laneWidth_congr fun i => getD_mapIdx_view (view := Lane.retired) (fun i x => by split <;> rfl) _ i, rfl, rfl⟩
  rw [← parked] at width rate
  refine Hub.reAsk_still ?_ ?_
  · rw [prt]
    exact unasked
  · rw [rate, width, prt]
    exact within

end Sys2Proof.Machine

/-- Settles O38: each command's branches in turn. That rejoining lanes take 2 ms and then 1 ms of PRBS31 is the model's choice (log entry 194), as are its
readings of log entries 68, 71, 103 and 193. -/
theorem bringUpAndSteps : Obligations.BringUpAndSteps := by
  unfold Obligations.BringUpAndSteps
  refine ⟨fun s p role mr mw lk sn => ⟨fun other => next_same (if_pos other), fun other same => ?_,
      fun present wiring other opens fits => ?_, fun search lacks fits => next_congr (Hub.hello_waits search fits lacks),
      fun present search serial fits wide => ?_, fun present kept search misfit => ?_,
      fun search lacks => next_congr (Hub.serial_waits search lacks), fun present search heard wide => ?_,
      fun present upper search mode peer mask may late => ?_, fun not => next_same (if_pos ?_), fun other => next_same (if_neg other),
      fun present parked opens => ?_⟩,
    fun s p rate m w lanes l passed => ⟨fun upper => ⟨next_same (Hub.trainStep_upper upper), next_same (Hub.order_upper upper w)⟩,
      fun ignored => next_same (Hub.trainStep_ignored ignored), fun first low mayAct isUp may locked => next_congr ?_,
      fun first present low mayAct isUp may unlocked => ?_, fun first low mayAct isUp up held => next_congr (Hub.trainStep_waits first low mayAct isUp up held),
      fun r first present low mayAct training run => ?_, fun ignored => next_same (Hub.trainRequest_ignored ignored),
      fun present upper low auto isUp run ordered => ?_, fun upper low auto waits => next_congr ?_,
      fun present upper on isUp run auto cool quiet => ?_, fun ignored => next_same (Hub.probe_ignored ignored),
      fun alone => next_same (Hub.result_alone alone), fun r run other => next_same (Hub.result_other run other),
      fun r training run target cause own => next_congr ?_, fun r own => ?_, fun r present four training run cause own now late first => ?_,
      fun r training run early => next_same (Hub.prbsCheck_early training run early),
      fun isUp still early => next_same (Hub.prbsCheck_none isUp still early), fun there isUp still ends => ?_,
      fun ignored => next_same (Hub.widthRequest_ignored ignored), fun upper isUp auto run widthRun wide some' other present => ?_,
      fun first present isUp mayAct wide settled unasked => ?_, fun first present isUp mayAct wide waits => ?_,
      fun ignored => next_same (Hub.answer_ignored ignored), fun b => ?_, fun b => ?_, fun b upper isUp asks waits => next_congr ?_,
      fun first isUp least most mayAct => next_congr (Hub.order_takes first isUp least most mayAct),
      fun ignored => next_same (Hub.order_ignored ignored), fun kept manual => ?_, fun present kept auto isUp run ordered upper => ?_⟩⟩
  · refine next_same ?_
    unfold Hub.hello
    dsimp only
    have still : (if (s.hub.prt p).st = .wiring ∧ role ≠ (s.hub.prt p).peer then s.hub.portStart p else s.hub) = s.hub :=
      if_neg fun both => same.elim (fun no => no both.1) both.2
    rw [still]
    exact if_pos other
  · obtain ⟨x, at', found⟩ := Hub.hello_rewired mr mw lk (Hub.there_of_lt present) wiring other opens fits
    exact ⟨_, x, rfl, at', found⟩
  · obtain ⟨x, at', pace⟩ := Hub.hello_up search fits serial wide
    obtain ⟨st, rate, width, peer, up, -⟩ := Port.pace_of pace
    exact ⟨_, x, rfl, at', st, rate, width, peer, up⟩
  · have run : s.hub.hello p role mr mw lk = _ := Hub.hello_misfits search misfit
    rw [Hub.greeted, Hub.setPort_setPort] at run
    obtain ⟨x, at', core⟩ := Hub.getElem?_of_portCores (Hub.notice_portCores ..) (s.hub.setPort_getElem?_same (Hub.there_of_lt present) _)
    refine ⟨_, x, next_congr run, at', (Port.view_of_core Port.st core (by intro; rfl)).trans rfl,
      (Port.view_of_core Port.peer core (by intro; rfl)).trans rfl, Hub.notice_rseq ?_ ..⟩
    exact kept
  · obtain ⟨x, at', pace⟩ := Hub.serial_up (sn := sn) search heard wide
    obtain ⟨st, rate, width, -, up, serial⟩ := Port.pace_of pace
    exact ⟨_, x, rfl, at', st, rate, width, serial, up⟩
  · have run : s.hub.parkPort p = s.hub.portLost p .parked := by
      refine if_neg ?_
      rintro (first | bad | bad | bad | bad | bad | bad)
      · exact upper first
      · exact bad search
      · exact bad mode
      · exact bad peer
      · exact bad mask
      · rcases may with on | doze
        · simp [on] at bad
        · simp [doze] at bad
      · omega
    obtain ⟨x, at', core⟩ := Hub.getElem?_of_portCores (s.hub.portLost_portCores p .parked)
      (s.hub.setPort_getElem?_same (Hub.there_of_lt present) _)
    refine ⟨_, x, next_congr run, at', (Port.view_of_core Port.st core (by intro; rfl)).trans rfl,
      (Port.view_of_core Port.cfg core (by intro; rfl)).trans rfl, fun i other => ?_⟩
    have cores := congrArg (·[i]?) (s.hub.portLost_portCores p .parked)
    rw [Hub.portCores_getElem?, Hub.portCores_getElem?, Hub.setPort_getElem?_other _ other.symm] at cores
    have view := congrArg (Option.map Port.st) cores
    rwa [Option.map_map, Option.map_map] at view
  · rcases not with no | no | no | no | no | ⟨off, awake⟩ | no
    · exact .inl no
    · exact .inr (.inl no)
    · exact .inr (.inr (.inl no))
    · exact .inr (.inr (.inr (.inl no)))
    · exact .inr (.inr (.inr (.inr (.inl no))))
    · exact .inr (.inr (.inr (.inr (.inr (.inl (by simp [off, awake]))))))
    · exact .inr (.inr (.inr (.inr (.inr (.inr no)))))
  · obtain ⟨x, at', st, since, -⟩ := Hub.portStart_opens (Hub.there_of_lt present) opens
    exact ⟨_, x, next_congr (if_pos parked), at', st, since⟩
  · exact (Hub.trainStep_steps first low mayAct isUp may).trans (if_pos (by simp [locked]))
  · have run := Hub.trainStep_steps (m := m) first low mayAct isUp may
    dsimp only at run
    rw [if_neg (by simpa using unlocked)] at run
    obtain ⟨x, at', st, rate', entered⟩ := Hub.enterStep_enters (s.hub.setPort_getElem?_same (Hub.there_of_lt present) fun x => { x with
      run := some (stepOrdered s.hub.clk.elapsed rate m (s.hub.prt p)), askedAt := none, quietAt := s.hub.clk.elapsed }) rfl
    exact ⟨_, x, _, next_congr run, at', st, rate', entered, rfl, rfl⟩
  · obtain ⟨x, y, found⟩ := Hub.trainStep_goesOn (m := m) first low mayAct (Hub.there_of_lt present) training run
    exact ⟨_, x, y, rfl, found⟩
  · have run' := (Hub.trainRequest_asks upper low auto (.inl run)).trans (Hub.askRate_begins ⟨isUp, run, ordered⟩ upper rate)
    exact ⟨_, _, _, next_congr run', s.hub.setPort_getElem?_same (Hub.there_of_lt present) _, rfl, rfl, rfl, rfl, rfl⟩
  · rcases waits with ⟨runs, loses⟩ | ⟨still, ordered⟩
    · exact (Hub.trainRequest_asks upper low auto (.inr loses)).trans (Hub.askRate_waits (.inl runs) rate)
    · exact (Hub.trainRequest_asks upper low auto (.inl still)).trans (Hub.askRate_waits (.inr ordered) rate)
  · have acts := Hub.probe_acts upper on isUp run auto cool quiet
    refine ⟨fun faster => ?_, fun fastest wider still => ?_, fun fastest widest => ?_⟩
    · rw [if_pos faster, Hub.startStep_setPort] at acts
      exact ⟨_, _, _, next_congr acts, s.hub.setPort_getElem?_same (Hub.there_of_lt present) _, rfl, rfl, rfl, rfl⟩
    · rw [if_neg (Nat.not_lt.2 fastest), if_pos wider, Hub.askWidth_begins run still isUp (by omega) (by omega), Hub.setPort_setPort] at acts
      have prt := s.hub.setPort_prt_same (Hub.there_of_lt present) fun q => { Port.widening s.hub.clk.elapsed p ((s.hub.prt p).width + 1) q with
        quietAt := s.hub.clk.elapsed }
      refine ⟨_, next_congr acts, ?_, fun has parked => ?_, ?_⟩
      · dsimp only
        rw [prt]
        exact if_pos (by simpa [upstream] using upper)
      · have lanes : (Port.widening s.hub.clk.elapsed p ((s.hub.prt p).width + 1) (s.hub.prt p)).lanes =
            (s.hub.prt p).wakeTo s.hub.clk.elapsed ((s.hub.prt p).width + 1) := if_pos (by simpa [upstream] using upper)
        obtain ⟨q, found, long⟩ := has
        rw [← s.hub.prt_of_getElem? found] at long
        have woken := Port.wakeTo_next s.hub.clk.elapsed (Nat.lt_of_lt_of_le wider (s.hub.widthCap_le p)) long parked
        dsimp only
        rw [Hub.lane, prt]
        dsimp only
        rw [lanes, woken]
        exact ⟨rfl, rfl⟩
      · dsimp only
        rw [prt]
    · rw [if_neg (Nat.not_lt.2 fastest), if_neg (Nat.not_lt.2 widest)] at acts
      exact next_same acts
  · refine (Hub.result_hears training run target cause).trans (Hub.stepDone_waits (r := { r with peer := some (lanes % 8) }) ?_ own)
    rw [s.hub.setPort_prt_same (Hub.there_of_st (by rw [training]; exact nofun))]
  · intro v present training run target cause tested auto good unasked lost passed wide first
    have there := Hub.there_of_lt present
    have hears := Hub.result_hears (lanes := lanes) training run target (by rw [cause]; exact nofun)
    have prt := s.hub.setPort_prt_same there fun x => { x with run := some { r with peer := some (lanes % 8) } }
    have cap : (s.hub.setPort p fun x => { x with run := some { r with peer := some (lanes % 8) } }).widthCap p = s.hub.widthCap p :=
      (s.hub.setPort_limits ⟨rfl, rfl, rfl, rfl, rfl, rfl, rfl⟩).1
    obtain ⟨x, at', st, rate', width⟩ := Hub.stepDone_returns (r := { r with peer := some (lanes % 8) }) (peer := lanes % 8)
      (by rw [prt]; exact s.hub.setPort_getElem?_same there _) (by rw [prt]) tested rfl first (by rw [prt]; exact training) (by rw [prt]; exact auto)
      cause good (by rw [prt]; exact lost) passed (by rw [cap]; exact wide)
    rw [cap] at width
    exact ⟨_, x, next_congr hears, at', st, rate'.trans target, width⟩
  · obtain ⟨x, at', st, entered⟩ := Hub.prbsCheck_passes (Hub.there_of_lt present) four training run cause own now late first
    exact ⟨_, x, _, rfl, at', st, entered, rfl, rfl⟩
  · obtain ⟨q, found, has⟩ := there
    have prt := s.hub.setPort_prt_same found fun q => { q with lanes := q.lanes.mapIdx fun i x => x.judged s.hub.clk.elapsed (passed.getD i false) }
    rw [Hub.lane, s.hub.prt_of_getElem? found] at ends
    refine ⟨_, next_congr (Hub.prbsCheck_rejoins isUp still), ?_, ?_⟩
    · dsimp only
      rw [prt, s.hub.prt_of_getElem? found]
    · dsimp only
      rw [Hub.lane, prt, Hub.lane, s.hub.prt_of_getElem? found, ← Lane.judged_ends ends]
      simp [has]
  · have begins := Hub.widthRequest_begins upper isUp auto run widthRun wide some' other
    refine ⟨_, _, next_congr begins, s.hub.setPort_getElem?_same (Hub.there_of_lt present) _, ?_, rfl⟩
    exact if_pos (by simpa [upstream] using upper)
  · have there := Hub.there_of_lt present
    have prt := s.hub.setPort_prt_same there (Port.woken s.hub.clk.elapsed w)
    have run := (Hub.widthRequest_wakes first isUp mayAct wide).trans (Hub.widthSettle_answers (w := w) (b := false) (by rw [prt]; exact isUp)
      (by rw [prt]; exact List.any_eq_false.2 fun x mem => by simp [settled x mem]) (by rw [prt]; rfl) first (by rw [prt]; exact unasked))
    rw [prt, Hub.setPort_setPort] at run
    exact ⟨_, _, next_congr run, s.hub.setPort_getElem?_same there _, rfl, rfl, rfl⟩
  · have there := Hub.there_of_lt present
    have prt := s.hub.setPort_prt_same there (Port.woken s.hub.clk.elapsed w)
    have run := (Hub.widthRequest_wakes first isUp mayAct wide).trans (Hub.widthSettle_rejoins (by rw [prt]; exact List.any_eq_true.2 waits))
    exact ⟨_, _, next_congr run, s.hub.setPort_getElem?_same there _, rfl, rfl, rfl, rfl⟩
  · rintro v present ⟨upper, isUp, settled⟩ asks some' other
    have there := Hub.there_of_lt present
    have prt := s.hub.setPort_prt_same there fun q => { q with answered := some lanes }
    have run := (Hub.answer_settles upper asks).trans (Hub.widthSettle_orders (w := w) (b := b) (v := v) (lanes := lanes) (by rw [prt]; exact isUp)
      (by rw [prt]; simpa [List.any_eq_false] using settled) (by rw [prt]; exact asks) upper (by rw [prt]) (by rw [prt]; rfl) some'
      (by rw [prt]; exact other))
    rw [prt, Hub.setPort_setPort] at run
    exact ⟨_, _, next_congr run, s.hub.setPort_getElem?_same there _, rfl, rfl⟩
  · rintro v ⟨upper, isUp, settled⟩ asks stays unasked within
    have there := Hub.there_of_st (h := s.hub) (p := p) (by rw [isUp]; exact nofun)
    have prt := s.hub.setPort_prt_same there fun q => { q with answered := some lanes }
    have run := (Hub.answer_settles upper asks).trans (Hub.widthSettle_keeps (w := w) (b := b) (v := v) (lanes := lanes) (by rw [prt]; exact isUp)
      (by rw [prt]; simpa [List.any_eq_false] using settled) (by rw [prt]; exact asks) upper (by rw [prt]) (by rw [prt]; rfl)
      (by rw [prt]; exact stays))
    rw [Hub.setPort_setPort] at run
    have parked := Hub.parked_reAsk there unasked within _ rfl
    exact next_congr ((run.trans parked).trans (s.hub.setPort_congr rfl))
  · refine (Hub.answer_settles upper asks).trans (Hub.widthSettle_rejoins ?_)
    rw [s.hub.setPort_prt_same (Hub.there_of_st (by rw [isUp]; exact nofun))]
    exact List.any_eq_true.2 waits
  · have noticed := s.hub.notice_portCores (unitPort p) 0x0A05 (argN l) 0
    have run : s.hub.elasticSlip p l = s.hub.notice (unitPort p) 0x0A05 (argN l) 0 :=
      if_pos ((Port.view_of_core Port.manual (Hub.prt_core_of_portCores noticed p) (by intro; rfl)).trans manual)
    refine ⟨_, next_congr run, Hub.notice_rseq kept .., ?_⟩
    have view := congrArg (List.map Port.run) noticed
    rwa [Hub.portCores, Hub.portCores, List.map_map, List.map_map] at view
  · have noticed := s.hub.notice_portCores (unitPort p) 0x0A05 (argN l) 0
    obtain ⟨y, there, core⟩ := Hub.getElem?_of_portCores noticed (Hub.there_of_lt present)
    have prt := Hub.prt_of_getElem? _ there
    have view {α : Type} (φ : Port → α) (blind : ∀ q, φ q.core = φ q) : φ y = φ (s.hub.prt p) := Port.view_of_core φ core blind
    have quiet : ((s.hub.notice (unitPort p) 0x0A05 (argN l) 0).prt p).Quiet := by
      rw [prt]
      exact ⟨(view Port.st (by intro; rfl)).trans isUp, (view Port.run (by intro; rfl)).trans run,
        (view Port.ordered (by intro; rfl)).trans ordered⟩
    have slip : s.hub.elasticSlip p l = _ := (if_neg (by rw [prt, view Port.manual (by intro; rfl), auto]; decide)).trans
      (Hub.askRate_begins quiet upper ((s.hub.notice (unitPort p) 0x0A05 (argN l) 0).prt p).rate)
    refine ⟨_, _, _, next_congr slip, (Hub.setPort_hk ..).symm ▸ Hub.notice_rseq kept .., Hub.setPort_getElem?_same _ there _, rfl, ?_, rfl⟩
    exact (congrArg Port.rate prt).trans (view Port.rate (by intro; rfl))
end

section
/-! PROOFS. Acknowledgement, retransmission and PAUSE of a port's link (R337 to R340). -/

namespace Sys2Proof.Machine

section
variable {h : Hub} {p : Nat} {q : Port} (there : h.ports[p]? = some q)
include there

/-- A port that asks for a rate says so behind what waits on its link, and changes nothing else of it. -/
theorem Hub.askRate_link (r : Nat) : ∃ said, ((h.askRate p r).prt p).link = { q.link with ctl := q.link.ctl ++ said } := by
  have quiet (f : Port → Port) (keeps : (f q).link = q.link) :
      ∃ said, ((h.setPort p f).prt p).link = { q.link with ctl := q.link.ctl ++ said } :=
    ⟨[], by rw [h.setPort_prt_same there, keeps, List.append_nil]⟩
  unfold Hub.askRate
  dsimp only
  split
  · exact quiet _ rfl
  · split
    · exact ⟨[], by rw [h.prt_of_getElem? there, List.append_nil]⟩
    · split
      · rw [Hub.startStep_setPort, Hub.setPort_setPort, h.setPort_prt_same there]
        exact ⟨_, rfl⟩
      · rw [Hub.ctl_setPort, Hub.setPort_setPort, h.setPort_prt_same there]
        exact ⟨_, rfl⟩

theorem Hub.retrain_link : ∃ said, ((h.retrain p).prt p).link = { q.link with ctl := q.link.ctl ++ said } := by
  unfold Hub.retrain
  split
  · exact ⟨[], by rw [h.prt_of_getElem? there, List.append_nil]⟩
  · exact Hub.askRate_link there _

/-- A NAK is counted, and too many of them in a second lead to a retrain, which is asked for behind what waits (R314). -/
theorem Hub.countNak_link : ∃ naks said, ((h.countNak p).prt p).link = { q.link with naks := naks, ctl := q.link.ctl ++ said } := by
  unfold Hub.countNak
  dsimp only
  split
  · rw [Hub.setLink, Hub.setLink, Hub.setPort_setPort]
    obtain ⟨said, link⟩ := Hub.retrain_link (h.setPort_getElem?_same there _)
    exact ⟨_, said, link⟩
  · rw [Hub.setLink, h.setPort_prt_same there]
    exact ⟨_, [], by rw [List.append_nil]⟩
end

theorem Hub.sendNak_link {h : Hub} {p : Nat} {q : Port} (there : h.ports[p]? = some q) (cause : Nat) :
    ∃ naks said, ((h.sendNak p cause).prt p).link = { q.link with
      nakOpen := true, lastNakCause := cause, nakAt := h.clk.elapsed, naks := naks,
      ctl := q.link.ctl ++ [⟨0x55, q.link.rxSeq * 2 ^ 40 + cause * 2 ^ 32⟩] ++ said } := by
  obtain ⟨naks, said, link⟩ := Hub.countNak_link (h.setPort_getElem?_same there fun q => { q with link := { q.link with
    nakOpen := true, lastNakCause := cause, nakAt := h.clk.elapsed, ctl := q.link.ctl ++ [⟨0x55, q.link.rxSeq * 2 ^ 40 + cause * 2 ^ 32⟩] } })
  exact ⟨naks, said, link⟩

/-- A NAK below the limit of a second only goes out (R314, R337). -/
theorem Hub.sendNak_few {h : Hub} {p : Nat} {q : Port} (there : h.ports[p]? = some q) (cause : Nat)
    (few : (q.link.naks.filter fun t => decide (h.clk.elapsed < t + 1000000000)).length < 16) : ∃ naks, ((h.sendNak p cause).prt p).link =
      { q.link with nakOpen := true, lastNakCause := cause, nakAt := h.clk.elapsed, naks := naks,
                    ctl := q.link.ctl ++ [⟨0x55, q.link.rxSeq * 2 ^ 40 + cause * 2 ^ 32⟩] } := by
  unfold Hub.sendNak Hub.countNak
  dsimp only
  rw [Hub.setLink, Hub.setLink, Hub.setPort_setPort, if_neg, h.setPort_prt_same there]
  · exact ⟨_, rfl⟩
  · rw [h.setPort_prt_same there]
    refine Nat.not_lt.2 (Nat.le_trans (List.length_take_le' ..) ?_)
    rw [List.length_cons]
    exact few

section
variable {h : Hub} {p seq : Nat}

/-- What an ACK leaves of a link (R338). -/
def Link.acked (now seq : Nat) (k : Link) : Link :=
  let n := k.replay.filter fun x => !!serialAfter 16 x.1 seq
  { k with replay := n, again := k.again.filter fun x => !!serialAfter 16 x.1 seq, sentAt := k.sentAt.filter fun x => !!serialAfter 16 x.1 seq,
           ackAt := if n.length = k.replay.length then k.ackAt else now,
           delay := match (k.sentAt.find? fun x => x.1 == seq).map fun x => now - x.2 with
             | some d => Config.smoothDelay k.delay d
             | none => k.delay }

theorem Hub.ackBlock_acks : h.ackBlock p seq = h.setLink p fun _ => (h.prt p).link.acked h.clk.elapsed seq := h.setPort_congr rfl

theorem Hub.nakBlock_down (down : (h.prt p).st ≠ .up) : h.nakBlock p seq = h := if_pos down

/-- A NAK for a SEQ begins its replay, and a repeat of it within the replay timeout does not (R337). -/
theorem Hub.nakBlock_new (isUp : (h.prt p).st = .up)
    (new : ∀ u, (h.prt p).link.lastNak = some (seq, u) → u + (h.prt p).link.timeout ≤ h.clk.elapsed) :
    h.nakBlock p seq = (h.setLink p fun k => { k with
      lastNak := some (seq, h.clk.elapsed), again := k.replay.filter fun x => x.1 == seq || serialAfter 16 x.1 seq }).countNak p := by
  unfold Hub.nakBlock
  dsimp only
  rw [if_neg (not_not.2 isUp)]
  refine congrArg (Hub.countNak · p) (if_neg ?_)
  cases last : (h.prt p).link.lastNak with
  | none => exact Bool.false_ne_true
  | some x =>
    obtain ⟨s, t⟩ := x
    simp only [Bool.and_eq_true, beq_iff_eq, decide_eq_true_eq]
    rintro ⟨rfl, early⟩
    exact Nat.not_le.2 early (new t last)

theorem Hub.nakBlock_repeated {u : Nat} (isUp : (h.prt p).st = .up) (last : (h.prt p).link.lastNak = some (seq, u))
    (early : h.clk.elapsed < u + (h.prt p).link.timeout) : h.nakBlock p seq = h.countNak p := by
  unfold Hub.nakBlock
  dsimp only
  rw [if_neg (not_not.2 isUp), last]
  exact congrArg (Hub.countNak · p) (if_pos (by simp [early]))
end

theorem Link.timeout_bounds (k : Link) : 20000 ≤ k.timeout ∧ k.timeout ≤ 10000000 := by
  unfold Link.timeout
  omega

end Sys2Proof.Machine

open Sys2Proof Sys2Proof.Machine

/-- Settles O40: each control block and timer acts on its port's link alone, and what the count of NAKs asks for goes behind what waits. -/
theorem retransmission : Obligations.Retransmission := by
  unfold Obligations.Retransmission
  intro s p seq cause st
  refine ⟨fun present => ⟨_, _, rfl, Hub.ackBlock_acks, ?_, ?_, rfl, rfl, rfl⟩, fun down => ⟨next_same (Hub.nakBlock_down down),
      next_same (if_pos (.inl down)), next_same (if_pos (.inl down)), next_same (if_neg down), next_same (if_pos down),
      next_same (if_pos (.inl down))⟩, fun isUp present new => ?_, fun u isUp present last early => ?_,
    fun isUp held late => next_congr (if_neg ?_), fun idle => next_same (if_pos ?_), Link.timeout_bounds _, fun isUp present open' late => ?_,
    fun idle => next_same (if_pos ?_), fun isUp => next_congr (if_pos isUp), rfl, fun isUp => next_congr (if_neg (not_not.2 isUp)),
    fun isUp heard late => next_congr (if_neg ?_), fun idle => next_same (if_pos ?_), rfl⟩
  · simp only [Link.acked, Bool.not_not]
  · simp only [Link.acked, Bool.not_not]
  · have there := Hub.there_of_lt present
    obtain ⟨naks, said, link⟩ := Hub.countNak_link (s.hub.setPort_getElem?_same there fun q => { q with link := { q.link with
      lastNak := some (seq, s.hub.clk.elapsed), again := q.link.replay.filter fun x => x.1 == seq || serialAfter 16 x.1 seq } })
    refine ⟨_, next_congr (Hub.nakBlock_new isUp new), ?_⟩
    dsimp only
    rw [Hub.setLink, link]
    exact ⟨rfl, rfl, rfl⟩
  · obtain ⟨naks, said, link⟩ := Hub.countNak_link (Hub.there_of_lt present)
    refine ⟨_, next_congr (Hub.nakBlock_repeated isUp last early), ?_⟩
    dsimp only
    rw [link]
    exact ⟨rfl, rfl⟩
  · simp [isUp, held, Nat.not_lt.2 late]
  · rcases idle with none' | early
    · simp [none']
    · simp [early]
  · obtain ⟨naks, said, link⟩ := Hub.sendNak_link (Hub.there_of_lt present) (s.hub.prt p).link.lastNakCause
    have run : s.hub.nakRepeat p = s.hub.sendNak p (s.hub.prt p).link.lastNakCause := if_neg (by simp [isUp, open', Nat.not_lt.2 late])
    refine ⟨_, next_congr run, ?_⟩
    dsimp only
    rw [link]
    exact ⟨by simp, rfl, rfl⟩
  · rcases idle with closed | early
    · simp [closed]
    · simp [early]
  · simp [isUp, heard, Nat.not_lt.2 late]
  · rcases idle with gone | early
    · simp [gone]
    · simp [early]
end

section
/-! PROOFS. What the link of a port expects next, and what waits in its queues: what records and deliveries leave of them. -/

namespace Sys2Proof.Machine

/-- What the link of a port expects and has counted. -/
def Port.place (q : Port) : Nat × Bool × Nat := (q.link.rxSeq, q.link.nakOpen, q.link.unroutable)

theorem Port.place_eq (q : Port) : q.place = (q.link.rxSeq, q.link.nakOpen, q.link.unroutable) := by cases q; rfl

/-- What the links of a hub expect and have counted. -/
def Hub.places (h : Hub) : List (Nat × Bool × Nat) := h.ports.map Port.place

/-- The packets that wait in the queues of a port. -/
def Port.waiting (q : Port) : List (List Frame) := q.link.queues

theorem Port.waiting_eq (q : Port) : q.waiting = q.link.queues := by cases q; rfl

/-- The packets that wait in the queues of a hub. -/
def Hub.waitings (h : Hub) : List (List (List Frame)) := h.ports.map Port.waiting

theorem forAll_places {α : Type} (f : α → Hub → Hub) (keeps : ∀ a h, (f a h).places = h.places) (l : List α) (h : Hub) :
    (forAll l f h).places = h.places := forAll_keeps Hub.places f keeps l h
theorem iter_places (f : Hub → Hub) (keeps : ∀ h, (f h).places = h.places) (n : Nat) (h : Hub) :
    (iter f n h).places = h.places := iter_keeps Hub.places f keeps n h

theorem Hub.map_place_ports (h : Hub) : h.ports.map Port.place = h.places := rfl

theorem Hub.places_mk {clk : Clk} {tm : Tm} {chans : List Chan} {octs : List Octet} {reps : List Rep} {dies : List Die}
    {trg : Trg} {caps : List (Option Capture)} {nextTrain : Nat} {saved : List SavedChurn} {jobs : List ChurnJob} {nextHandle nextJob : Nat}
    {flows : List Flow} {strm : Strm} {hk : Hk} {sep : Sep} {ports : List Port} {enm : Enum} {mgmt : Mgmt} {dbw : Dbw} {fseal : Seal}
    {flt : Flt} {cal : Cal} {pwr : Pwr} {pmbus : Pmbus} {boot : Boot} {flash : Flash} {tag : Tag} {tap : Tap} {fresh : Nat} {ident : Ident}
      :
    (Hub.mk ident clk tm chans octs reps dies trg caps nextTrain saved jobs nextHandle nextJob flows strm hk sep ports enm mgmt dbw
      fseal flt cal pwr pmbus boot flash tag tap fresh).places = ports.map Port.place := rfl

theorem Hub.setPort_places (h : Hub) (p : Nat) {f : Port → Port} (keeps : ∀ x, (f x).place = x.place) :
    (h.setPort p f).places = h.places := map_modAt_of_keeps keeps _ _

theorem forAll_waitings {α : Type} (f : α → Hub → Hub) (keeps : ∀ a h, (f a h).waitings = h.waitings) (l : List α) (h : Hub) :
    (forAll l f h).waitings = h.waitings := forAll_keeps Hub.waitings f keeps l h
theorem iter_waitings (f : Hub → Hub) (keeps : ∀ h, (f h).waitings = h.waitings) (n : Nat) (h : Hub) :
    (iter f n h).waitings = h.waitings := iter_keeps Hub.waitings f keeps n h

theorem Hub.map_waiting_ports (h : Hub) : h.ports.map Port.waiting = h.waitings := rfl

theorem Hub.waitings_mk {clk : Clk} {tm : Tm} {chans : List Chan} {octs : List Octet} {reps : List Rep} {dies : List Die}
    {trg : Trg} {caps : List (Option Capture)} {nextTrain : Nat} {saved : List SavedChurn} {jobs : List ChurnJob} {nextHandle nextJob : Nat}
    {flows : List Flow} {strm : Strm} {hk : Hk} {sep : Sep} {ports : List Port} {enm : Enum} {mgmt : Mgmt} {dbw : Dbw} {fseal : Seal}
    {flt : Flt} {cal : Cal} {pwr : Pwr} {pmbus : Pmbus} {boot : Boot} {flash : Flash} {tag : Tag} {tap : Tap} {fresh : Nat} {ident : Ident}
      :
    (Hub.mk ident clk tm chans octs reps dies trg caps nextTrain saved jobs nextHandle nextJob flows strm hk sep ports enm mgmt dbw
      fseal flt cal pwr pmbus boot flash tag tap fresh).waitings = ports.map Port.waiting := rfl

theorem Hub.setPort_waitings (h : Hub) (p : Nat) {f : Port → Port} (keeps : ∀ x, (f x).waiting = x.waiting) :
    (h.setPort p f).waitings = h.waitings := map_modAt_of_keeps keeps _ _


theorem Hub.setLink_places (h : Hub) (p : Nat) {f : Link → Link}
    (keeps : ∀ k, ((f k).rxSeq, (f k).nakOpen, (f k).unroutable) = (k.rxSeq, k.nakOpen, k.unroutable)) :
    (h.setLink p f).places = h.places := h.setPort_places p fun q => keeps q.link

theorem Hub.setLink_waitings (h : Hub) (p : Nat) {f : Link → Link} (keeps : ∀ k, (f k).queues = k.queues) :
    (h.setLink p f).waitings = h.waitings := h.setPort_waitings p fun q => keeps q.link

/-- The ports as a view of their own, which evaluation does not look into. -/
def Hub.portsView (h : Hub) : List Port := h.ports

theorem Hub.setFlow_portsView (h : Hub) (k : FlowKey) (g : Flow → Flow) : (h.setFlow k g).portsView = h.portsView := rfl
theorem Hub.mapCh_portsView (h : Hub) (g : Nat → Chan → Chan) : (h.mapCh g).portsView = h.portsView := rfl
theorem Hub.withFlows_portsView (h : Hub) (l : List Flow) : ({ h with flows := l } : Hub).portsView = h.portsView := rfl

theorem Hub.spoolTouch_portsView (h : Hub) (d : Nat) (was : Seqs) : (h.spoolTouch d was).portsView = h.portsView := by
  unfold Hub.spoolTouch
  simp only
  rw [Hub.withFlows_portsView]
  split
  · rfl
  · split
    · rfl
    · rw [Hub.setFlow_portsView, Hub.mapCh_portsView, Hub.withFlows_portsView, iter_keeps Hub.portsView]
      · rfl
      · intro g
        split
        · split <;> rfl
        · rfl
    · rfl

@[simp] theorem Hub.spoolTouch_ports (h : Hub) (d : Nat) (was : Seqs) : (h.spoolTouch d was).ports = h.ports := h.spoolTouch_portsView d was

@[simp] theorem Hub.ctl_places (h : Hub) (p code payload : Nat) :
    (h.ctl p code payload).places = h.places := h.setLink_places p fun _ => rfl

@[simp] theorem Hub.ctl_waitings (h : Hub) (p code payload : Nat) : (h.ctl p code payload).waitings = h.waitings :=
  h.setLink_waitings p fun _ => rfl

@[simp] theorem Hub.queue_places (h : Hub) (p : Nat) (f : Frame) : (h.queue p f).places = h.places := h.setLink_places p fun _ => rfl

theorem Hub.map_levels_ports {α : Type} {view : Port → α} (keeps : ∀ (q : Port) (a b : Bool), view { q with hi := a, fwdHi := b } = view q)
    (l : List Port) (a : Nat → Port → Bool) (b : Nat → Port → Bool) :
    (l.mapIdx fun p (q : Port) => { q with hi := a p q, fwdHi := b p q }).map view = l.map view :=
  map_mapIdx_of_keeps (fun _ q => keeps q _ _) l

@[simp] theorem Hub.watermarks_places (h : Hub) : h.watermarks.places = h.places := by
  unfold Hub.watermarks
  dsimp only
  refine (forAll_places _ (fun i g => ?_) _ _).trans ?_
  · split
    · exact (Hub.ctl_places ..).trans (g.setLink_places i fun _ => rfl)
    · rfl
  · exact Hub.map_levels_ports (view := Port.place) (fun _ _ _ => rfl) h.ports _ _

@[simp] theorem Hub.watermarks_waitings (h : Hub) : h.watermarks.waitings = h.waitings := by
  unfold Hub.watermarks
  dsimp only
  refine (forAll_waitings _ (fun i g => ?_) _ _).trans ?_
  · split
    · exact (Hub.ctl_waitings ..).trans (g.setLink_waitings i fun _ => rfl)
    · rfl
  · exact Hub.map_levels_ports (view := Port.waiting) (fun _ _ _ => rfl) h.ports _ _

@[simp] theorem Hub.setFlow_waitings (h : Hub) (k : FlowKey) (g : Flow → Flow) : (h.setFlow k g).waitings = h.waitings :=
  congrArg (List.map Port.waiting) (Hub.setFlow_ports ..)
@[simp] theorem Hub.spoolTouch_waitings (h : Hub) (d : Nat) (was : Seqs) : (h.spoolTouch d was).waitings = h.waitings :=
  congrArg (List.map Port.waiting) (Hub.spoolTouch_ports ..)
@[simp] theorem Hub.emitSince_waitings (h : Hub) (k : FlowKey) (stream : Nat) (rcd : Bytes) (since : Nat) :
    (h.emitSince k stream rcd since).waitings = h.waitings := by
  unfold Hub.emitSince
  split <;> simp only [↓Hub.setFlow_waitings, ↓Hub.spoolTouch_waitings, ↓Hub.watermarks_waitings, ↓apply_ite Hub.waitings, ite_self]
@[simp] theorem Hub.emitRecord_waitings (h : Hub) (k : FlowKey) (stream : Nat) (rcd : Bytes) :
    (h.emitRecord k stream rcd).waitings = h.waitings := by
  simp only [Hub.emitRecord, ↓Hub.emitSince_waitings]
@[simp] theorem Hub.hkRecord_waitings (h : Hub) (t kind : Nat) (payload : Bytes) : (h.hkRecord t kind payload).waitings = h.waitings := by
  simp only [Hub.hkRecord, ↓Hub.emitRecord_waitings, ↓Hub.waitings_mk, ↓apply_ite Hub.waitings, ite_self, ↓Hub.map_waiting_ports]
@[simp] theorem Hub.recordAt_waitings (h : Hub) (t kind : Nat) (payload : Bytes) : (h.recordAt t kind payload).waitings = h.waitings := by
  simp only [Hub.recordAt, ↓Hub.hkRecord_waitings, ↓Hub.waitings_mk, ↓apply_ite Hub.waitings, ite_self, ↓Hub.map_waiting_ports]
@[simp] theorem Hub.raise_waitings (h : Hub) (bit : Nat) : (h.raise bit).waitings = h.waitings :=
  congrArg (List.map Port.waiting) (Hub.raise_ports ..)
@[simp] theorem Hub.logEntry_waitings (h : Hub) (t : Nat) (event : Bytes) : (h.logEntry t event).waitings = h.waitings := by
  simp only [Hub.logEntry, ↓Hub.waitings_mk, ↓apply_ite Hub.waitings, ite_self, ↓Hub.map_waiting_ports]
@[simp] theorem Hub.eventAt_waitings (h : Hub) (t : Nat) (unit : Word) (code cls count : Nat) (arg0 arg1 : Word) :
    (h.eventAt t unit code cls count arg0 arg1).waitings = h.waitings := by
  simp only [Hub.eventAt, ↓Hub.logEntry_waitings, ↓Hub.raise_waitings, ↓Hub.recordAt_waitings, ↓Hub.waitings_mk, ↓apply_ite Hub.waitings,
    ite_self, ↓Hub.map_waiting_ports]
@[simp] theorem Hub.event_waitings (h : Hub) (unit : Word) (code cls count : Nat) (arg0 arg1 : Word) :
    (h.event unit code cls count arg0 arg1).waitings = h.waitings := by
  simp only [Hub.event, ↓Hub.eventAt_waitings]
@[simp] theorem Hub.notice_waitings (h : Hub) (unit : Word) (code : Nat) (arg0 arg1 : Word) :
    (h.notice unit code arg0 arg1).waitings = h.waitings := by
  simp only [Hub.notice, ↓Hub.event_waitings]
@[simp] theorem Hub.streamIn_waitings (h : Hub) (k : PacketIn) : (h.streamIn k).waitings = h.waitings := by
  simp only [Hub.streamIn, ↓Hub.notice_waitings, ↓Hub.waitings_mk, ↓apply_ite Hub.waitings, ite_self, ↓Hub.map_waiting_ports]

@[simp] theorem Hub.setFlow_places (h : Hub) (k : FlowKey) (g : Flow → Flow) : (h.setFlow k g).places = h.places :=
  congrArg (List.map Port.place) (Hub.setFlow_ports ..)
@[simp] theorem Hub.spoolTouch_places (h : Hub) (d : Nat) (was : Seqs) : (h.spoolTouch d was).places = h.places :=
  congrArg (List.map Port.place) (Hub.spoolTouch_ports ..)
@[simp] theorem Hub.emitSince_places (h : Hub) (k : FlowKey) (stream : Nat) (rcd : Bytes) (since : Nat) :
    (h.emitSince k stream rcd since).places = h.places := by
  unfold Hub.emitSince
  split <;> simp only [↓Hub.setFlow_places, ↓Hub.spoolTouch_places, ↓Hub.watermarks_places, ↓apply_ite Hub.places, ite_self]
@[simp] theorem Hub.emitRecord_places (h : Hub) (k : FlowKey) (stream : Nat) (rcd : Bytes) :
    (h.emitRecord k stream rcd).places = h.places := by
  simp only [Hub.emitRecord, ↓Hub.emitSince_places]
@[simp] theorem Hub.hkRecord_places (h : Hub) (t kind : Nat) (payload : Bytes) : (h.hkRecord t kind payload).places = h.places := by
  simp only [Hub.hkRecord, ↓Hub.emitRecord_places, ↓Hub.places_mk, ↓apply_ite Hub.places, ite_self, ↓Hub.map_place_ports]
@[simp] theorem Hub.recordAt_places (h : Hub) (t kind : Nat) (payload : Bytes) : (h.recordAt t kind payload).places = h.places := by
  simp only [Hub.recordAt, ↓Hub.hkRecord_places, ↓Hub.places_mk, ↓apply_ite Hub.places, ite_self, ↓Hub.map_place_ports]
@[simp] theorem Hub.raise_places (h : Hub) (bit : Nat) : (h.raise bit).places = h.places :=
  congrArg (List.map Port.place) (Hub.raise_ports ..)
@[simp] theorem Hub.logEntry_places (h : Hub) (t : Nat) (event : Bytes) : (h.logEntry t event).places = h.places := by
  simp only [Hub.logEntry, ↓Hub.places_mk, ↓apply_ite Hub.places, ite_self, ↓Hub.map_place_ports]
@[simp] theorem Hub.eventAt_places (h : Hub) (t : Nat) (unit : Word) (code cls count : Nat) (arg0 arg1 : Word) :
    (h.eventAt t unit code cls count arg0 arg1).places = h.places := by
  simp only [Hub.eventAt, ↓Hub.logEntry_places, ↓Hub.raise_places, ↓Hub.recordAt_places, ↓Hub.places_mk, ↓apply_ite Hub.places, ite_self,
    ↓Hub.map_place_ports]
@[simp] theorem Hub.event_places (h : Hub) (unit : Word) (code cls count : Nat) (arg0 arg1 : Word) :
    (h.event unit code cls count arg0 arg1).places = h.places := by
  simp only [Hub.event, ↓Hub.eventAt_places]
@[simp] theorem Hub.notice_places (h : Hub) (unit : Word) (code : Nat) (arg0 arg1 : Word) :
    (h.notice unit code arg0 arg1).places = h.places := by
  simp only [Hub.notice, ↓Hub.event_places]
@[simp] theorem Hub.streamIn_places (h : Hub) (k : PacketIn) : (h.streamIn k).places = h.places := by
  simp only [Hub.streamIn, ↓Hub.notice_places, ↓Hub.places_mk, ↓apply_ite Hub.places, ite_self, ↓Hub.map_place_ports]
@[simp] theorem Hub.trigLate_places (h : Hub) (t who limit : Nat) : (h.trigLate t who limit).places = h.places := by
  simp only [Hub.trigLate, ↓Hub.eventAt_places]
@[simp] theorem Hub.setCap_places (h : Hub) (n : Nat) (f : Capture → Capture) : (h.setCap n f).places = h.places :=
  congrArg (List.map Port.place) (Hub.setCap_ports ..)
@[simp] theorem Hub.setDie_places (h : Hub) (d : Nat) (f : Die → Die) : (h.setDie d f).places = h.places :=
  congrArg (List.map Port.place) (Hub.setDie_ports ..)
@[simp] theorem Hub.reserveDie_places (n : Nat) (eval : Bool) (d : Nat) (h : Hub) : (Hub.reserveDie n eval d h).places = h.places := by
  unfold Hub.reserveDie
  dsimp only
  repeat' split
  all_goals simp only [↓Hub.notice_places, ↓Hub.setCap_places, ↓Hub.places_mk, ↓Hub.map_place_ports]
@[simp] theorem Hub.reserve_places (h : Hub) (n : Nat) : (h.reserve n).places = h.places := by
  unfold Hub.reserve
  split <;> simp only [↓Hub.reserveDie_places, ↓forAll_places, implies_true]
@[simp] theorem Hub.flowTouch_places (h : Hub) (d : Nat) : (h.flowTouch d).places = h.places := by
  simp only [Hub.flowTouch, ↓Hub.spoolTouch_places, ↓Hub.watermarks_places]
@[simp] theorem Hub.record_places (h : Hub) (kind : Nat) (payload : Bytes) : (h.record kind payload).places = h.places := by
  simp only [Hub.record, ↓Hub.recordAt_places]
@[simp] theorem Hub.setCoach_places (h : Hub) (d seq : Nat) (f : Coach → Coach) : (h.setCoach d seq f).places = h.places := by
  simp only [Hub.setCoach, ↓Hub.setDie_places]
@[simp] theorem Hub.coachRecord_places (h : Hub) (k : FlowKey) (stream first : Nat) (b : Bytes) :
    (h.coachRecord k stream first b).1.places = h.places := by
  unfold Hub.coachRecord
  split
  · rfl
  · exact h.setFlow_places _ _
@[simp] theorem Hub.sendCoach_places (h : Hub) (d : Nat) (c : Coach) : (h.sendCoach d c).places = h.places := by
  unfold Hub.sendCoach
  simp only [↓Hub.setCoach_places, ↓Hub.coachRecord_places]
  split
  · simp only [↓apply_ite Hub.places, ↓Hub.setDie_places, ↓Hub.coachRecord_places, ite_self]
  · rfl
@[simp] theorem Hub.sendWanted_places (h : Hub) (d : Nat) : (h.sendWanted d).places = h.places := by
  simp only [Hub.sendWanted, ↓Hub.flowTouch_places, ↓Hub.sendCoach_places, ↓forAll_places, ↓apply_ite Hub.places, ite_self, implies_true]
@[simp] theorem Hub.retryWait_places (h : Hub) (d : Nat) : (h.retryWait d).places = h.places := by
  refine forAll_places _ (fun n g => ?_) _ _
  split <;> simp only [↓apply_ite Hub.places, ↓Hub.reserveDie_places, ite_self]
@[simp] theorem Hub.disarm_places (h : Hub) (n : Nat) : (h.disarm n).places = h.places := by
  simp only [Hub.disarm, ↓Hub.retryWait_places, ↓forAll_places, ↓Hub.places_mk, implies_true, ↓Hub.map_place_ports]
@[simp] theorem Hub.trainDone_places (h : Hub) (n : Nat) : (h.trainDone n).places = h.places := by
  unfold Hub.trainDone
  repeat' split
  all_goals simp only [↓Hub.disarm_places, ↓Hub.notice_places, ↓Hub.reserve_places, ↓Hub.sendWanted_places, ↓Hub.setCap_places,
    ↓Hub.setDie_places,
    ↓forAll_places, implies_true]
@[simp] theorem Hub.setCh_places (h : Hub) (c : Nat) (f : Chan → Chan) : (h.setCh c f).places = h.places :=
  congrArg (List.map Port.place) (Hub.setCh_ports ..)
@[simp] theorem Hub.startCoach_places (n : Nat) (t : Trigger) (trainId missed : Nat) (y : CapChan) (h : Hub) :
    (Hub.startCoach n t trainId missed y h).places = h.places := by
  unfold Hub.startCoach
  split <;> simp only [↓Hub.setCap_places, ↓Hub.setCh_places, ↓Hub.setDie_places, ↓Hub.trigLate_places, ↓Hub.places_mk, ↓apply_ite
    Hub.places, ite_self, ↓Hub.map_place_ports]
@[simp] theorem Hub.tick_places (h : Hub) : h.tick.places = h.places :=
  congrArg (List.map Port.place) (Hub.tick_ports ..)
@[simp] theorem Hub.retireChan_places (h : Hub) (c code count : Nat) : (h.retireChan c code count).places = h.places := by
  unfold Hub.retireChan
  dsimp only
  repeat' split
  all_goals simp only [↓Hub.event_places, ↓Hub.setCh_places, ↓Hub.setDie_places]
@[simp] theorem Hub.spareChan_places (h : Hub) (c code : Nat) (readable : Bool) : (h.spareChan c code readable).places = h.places := by
  unfold Hub.spareChan
  dsimp only
  repeat' split
  all_goals simp only [↓Hub.notice_places, ↓Hub.retireChan_places, ↓Hub.setCh_places, ↓Hub.setDie_places]
@[simp] theorem Hub.setEngWin_places (h : Hub) (d : Nat) (u : Word) (w : Option FaultWin) : (h.setEngWin d u w).places = h.places := by
  simp only [Hub.setEngWin, ↓Hub.setDie_places]
@[simp] theorem Hub.placeUse_places (h : Hub) (d e c : Nat) (others : List Nat) (get : Chan → Option ChurnUse) (put :
    Option ChurnUse → Chan → Chan) : (h.placeUse d e c others get put).places = h.places := by
  unfold Hub.placeUse
  split
  · rfl
  · split
    · rfl
    · split <;> exact h.setCh_places _ _
@[simp] theorem Hub.moveChurn_places (h : Hub) (d e : Nat) : (h.moveChurn d e).places = h.places := by
  rw [h.moveChurn_eq]
  refine forAll_places _ (fun c g => ?_) _ _
  simp only [Hub.placeUses, ↓apply_ite Hub.places, ↓Hub.notice_places, ↓Hub.placeUse_places, ite_self]
@[simp] theorem Hub.retireEngine_places (h : Hub) (d typ e : Nat) : (h.retireEngine d typ e).places = h.places := by
  simp only [Hub.retireEngine, ↓Hub.moveChurn_places, ↓Hub.setDie_places, ↓apply_ite Hub.places, ite_self, modAt]
@[simp] theorem Hub.engineFail_places (h : Hub) (d typ e code : Nat) (readable passes : Bool) :
    (h.engineFail d typ e code readable passes).places = h.places := by
  unfold Hub.engineFail
  dsimp only
  repeat' split
  all_goals simp only [↓Hub.event_places, ↓Hub.retireEngine_places, ↓Hub.setDie_places, ↓Hub.setEngWin_places, ↓Hub.spareChan_places,
    ↓Hub.places_mk, ↓Hub.map_place_ports]
@[simp] theorem Hub.churnMismatch_places (h : Hub) (d e : Nat) : (h.churnMismatch d e).places = h.places := by
  simp only [Hub.churnMismatch, ↓Hub.engineFail_places, ↓Hub.event_places, ↓Hub.setDie_places, ↓Hub.tick_places, ↓apply_ite Hub.places,
    ite_self,
    modAt]
@[simp] theorem Hub.coachPayload_places (h : Hub) (c : Coach) : (h.coachPayload c).1.places = h.places := by
  unfold Hub.coachPayload
  split <;> simp only [↓Hub.churnMismatch_places, ↓Hub.setCh_places, ↓iter_places, ↓Hub.places_mk, implies_true, ↓Hub.map_place_ports]
@[simp] theorem Hub.coachDone_places (h : Hub) (d seq : Nat) : (h.coachDone d seq).places = h.places := by
  unfold Hub.coachDone
  split
  · rfl
  · next c _ =>
    have paid := h.coachPayload_places c
    generalize h.coachPayload c = formed at paid ⊢
    obtain ⟨g, pay, churn⟩ := formed
    simp only [↓Hub.trainDone_places, ↓apply_ite Hub.places, ↓Hub.retryWait_places, ↓Hub.setCap_places, ↓Hub.setCoach_places, ite_self]
    exact paid
@[simp] theorem Hub.coachFull_places (n c : Nat) (h : Hub) : (Hub.coachFull n c h).places = h.places := by
  unfold Hub.coachFull
  split <;> simp only [↓Hub.coachDone_places, ↓apply_ite Hub.places, ite_self]
@[simp] theorem Hub.capJoin_places (h : Hub) (n id source : Nat) (c : Capture) : (h.capJoin n id source c).places = h.places := by
  simp only [Hub.capJoin, ↓Hub.setCap_places, ↓Hub.setDie_places, ↓forAll_places, implies_true]
@[simp] theorem Hub.capHit_places (n : Nat) (t : Trigger) (h : Hub) : (Hub.capHit n t h).places = h.places := by
  unfold Hub.capHit
  dsimp only
  repeat' split
  all_goals simp only [↓Hub.capJoin_places, ↓Hub.coachFull_places, ↓Hub.setCap_places, ↓Hub.startCoach_places, ↓Hub.trainDone_places,
    ↓forAll_places, ↓Hub.places_mk, implies_true, ↓Hub.map_place_ports]
@[simp] theorem Hub.capFire_places (h : Hub) (t : Trigger) (sel : CapParams → Bool) : (h.capFire t sel).places = h.places := by
  refine forAll_places _ (fun n g => ?_) _ _
  split <;> simp only [↓apply_ite Hub.places, ↓Hub.capHit_places, ite_self]
@[simp] theorem Hub.arrAct_places (h : Hub) (m : ArrMsg) : (h.arrAct m).places = h.places := by
  simp only [Hub.arrAct, ↓Hub.capFire_places, ↓Hub.trigLate_places, ↓Hub.places_mk, ↓apply_ite Hub.places, ite_self, ↓Hub.map_place_ports]
@[simp] theorem Hub.originate_places (h : Hub) (cls kind : Nat) (body : Bytes) : (h.originate cls kind body).places = h.places := by
  simp only [Hub.originate, ↓Hub.queue_places, ↓apply_ite Hub.places, ite_self]
@[simp] theorem Hub.sendModal_places (h : Hub) (f : ModalFrame) : (h.sendModal f).places = h.places := by
  simp only [Hub.sendModal, ↓Hub.originate_places, ↓Hub.places_mk, ↓Hub.map_place_ports]
@[simp] theorem Hub.mapDie_places (h : Hub) (f : Nat → Die → Die) : (h.mapDie f).places = h.places := by
  simp only [Hub.mapDie, ↓Hub.places_mk, ↓Hub.map_place_ports]
@[simp] theorem Hub.passFrame_places (h : Hub) (f : ModalFrame) : (h.passFrame f).places = h.places := by
  simp only [Hub.passFrame, ↓Hub.mapDie_places, ↓Hub.notice_places, ↓Hub.sendModal_places, ↓Hub.places_mk, ↓apply_ite Hub.places, ite_self,
    ↓Hub.map_place_ports]
@[simp] theorem Hub.modalArrive_places (h : Hub) (f : ModalFrame) : (h.modalArrive f).places = h.places := by
  simp only [Hub.modalArrive, ↓Hub.passFrame_places, ↓Hub.sendModal_places, ↓Hub.places_mk, ↓apply_ite Hub.places, ite_self,
    ↓Hub.map_place_ports]

end Sys2Proof.Machine
end



section
/-! PROOFS. Packets from a link: acceptance (R331 to R338) and routing (R342). -/

namespace Sys2Proof.Machine

/-! ## Control blocks that wait -/

/-- A control block waits on a port. -/
def Hub.Waits (p : Nat) (c : CtlBlock) (h : Hub) : Prop := c ∈ (h.prt p).link.ctl

theorem Hub.Waits.of_ports {p : Nat} {c : CtlBlock} {h k : Hub} (waits : h.Waits p c) (same : k.ports = h.ports) : k.Waits p c := by
  unfold Hub.Waits Hub.prt
  rw [same]
  exact waits

theorem Hub.Waits.setLink {p : Nat} {c : CtlBlock} {h : Hub} (waits : h.Waits p c) (i : Nat) {f : Link → Link}
    (keeps : ∀ k, c ∈ k.ctl → c ∈ (f k).ctl) : (h.setLink i f).Waits p c := by
  rcases h.setPort_prt_cases i p fun q => { q with link := f q.link } with same | moved
  · rw [Hub.Waits, Hub.setLink, same]
    exact waits
  · rw [Hub.Waits, Hub.setLink, moved]
    exact keeps _ waits

theorem Hub.Waits.ctl {p : Nat} {c : CtlBlock} {h : Hub} (waits : h.Waits p c) (i code payload : Nat) : (h.ctl i code payload).Waits p c :=
  waits.setLink i fun _ mem => List.mem_append_left _ mem

theorem Hub.Waits.queue {p : Nat} {c : CtlBlock} {h : Hub} (waits : h.Waits p c) (i : Nat) (f : Frame) : (h.queue i f).Waits p c :=
  waits.setLink i (by intro k mem; exact mem)

theorem Hub.Waits.watermarks {p : Nat} {c : CtlBlock} {h : Hub} (waits : h.Waits p c) : h.watermarks.Waits p c := by
  unfold Hub.watermarks
  extract_lets h1 oldWin win oldStrm h2 h3 last
  have first : h1.Waits p c := by
    have levels : (h1.prt p).link = (h.prt p).link := by
      simp only [h1, Hub.prt, List.getD_eq_getElem?_getD, List.getElem?_mapIdx]
      cases h.ports[p]? <;> rfl
    rw [Hub.Waits, levels]
    exact waits
  have third : h3.Waits p c := forAll_inv (Hub.Waits p c) _ _ (fun i _ g holds => by
    dsimp only
    split
    · exact (holds.setLink i (by intro k mem; exact mem)).ctl i _ _
    · exact holds) h2 (first.of_ports rfl)
  exact third.of_ports rfl

theorem Hub.Waits.emitRecord {p : Nat} {c : CtlBlock} {h : Hub} (waits : h.Waits p c) (key : FlowKey) (stream : Nat) (rcd : Bytes) :
    (h.emitRecord key stream rcd).Waits p c := by
  unfold Hub.emitRecord Hub.emitSince
  split
  · exact waits
  · split
    · exact waits
    · exact (waits.of_ports ((Hub.spoolTouch_ports ..).trans (Hub.setFlow_ports ..))).watermarks

theorem Hub.Waits.hkRecord {p : Nat} {c : CtlBlock} {h : Hub} (waits : h.Waits p c) (t kind : Nat) (payload : Bytes) :
    (h.hkRecord t kind payload).Waits p c := by
  unfold Hub.hkRecord
  dsimp only
  split
  · refine Hub.Waits.emitRecord (Hub.Waits.of_ports waits ?_) ..
    rfl
  · exact waits.of_ports rfl

theorem Hub.Waits.recordAt {p : Nat} {c : CtlBlock} {h : Hub} (waits : h.Waits p c) (t kind : Nat) (payload : Bytes) :
    (h.recordAt t kind payload).Waits p c := by
  unfold Hub.recordAt
  by_cases full : h.reserveFull (24 + payload.length + if h.hk.dropped = 0 then 0 else 48) = true
  · rw [if_pos full]
    exact waits.of_ports rfl
  · rw [if_neg full]
    refine Hub.Waits.hkRecord ?_ ..
    split
    · exact waits
    · refine Hub.Waits.hkRecord (Hub.Waits.of_ports waits ?_) ..
      rfl

theorem Hub.Waits.notice {p : Nat} {c : CtlBlock} {h : Hub} (waits : h.Waits p c) (unit : Word) (code : Nat) (a b : Word) :
    (h.notice unit code a b).Waits p c := waits.recordAt ..

/-! ## Acceptance (R331, R333, R334, R337) -/

/-- A link has taken a packet in (R331, R338). -/
def Link.taken (k : Link) : Link :=
  { k with rxSeq := (k.rxSeq + 1) % 65536, nakOpen := false, unacked := 0,
           ctl := (k.ctl.filter fun c => c.code != 0x4B) ++ [⟨0x4B, ((k.rxSeq + 1) % 65536 + 65535) % 65536 * 2 ^ 40⟩] }

/-- A packet of the class in force, whole and long enough (R334). -/
def Hub.Framed (h : Hub) (p : Nat) (k : PacketIn) : Prop :=
  (h.prt p).link.rxClass ≠ 0 ∧ k.cls = (h.prt p).link.rxClass ∧ 3 ≤ k.lenBlocks

section
variable {h : Hub} {p : Nat} {k : PacketIn}

theorem Hub.not_framed_iff : ((h.prt p).link.rxClass = 0 ∨ k.cls ≠ (h.prt p).link.rxClass ∨ k.lenBlocks < 3) ↔ ¬h.Framed p k := by
  unfold Hub.Framed
  omega

theorem Hub.receive_down (down : (h.prt p).st ≠ .up) : h.receive p k = (h, false) := if_pos down

theorem Hub.receive_accepted (accepted : Accepted h p k) : h.receive p k = (h.setLink p Link.taken, true) := by
  obtain ⟨isUp, cls, same, long, whole, good, seq⟩ := accepted
  unfold Hub.receive
  dsimp only
  rw [if_neg (not_not.2 isUp), if_neg (mt Hub.not_framed_iff.1 (not_not.2 ⟨cls, same, long⟩)), if_neg (by simp [whole]), if_neg (by simp [good]),
    if_neg (not_not.2 seq)]
  refine congrArg (·, true) ?_
  rw [Hub.sendAck, Hub.setLink, Hub.setLink, Hub.setPort_setPort]
  rfl

variable (isUp : (h.prt p).st = .up)
include isUp

theorem Hub.receive_unframed (unframed : ¬h.Framed p k) :
    h.receive p k = ((h.setLink p fun l => { l with frame := satInc 16 l.frame }).notAccepted p 3, false) := by
  unfold Hub.receive
  dsimp only
  rw [if_neg (not_not.2 isUp), if_pos (Hub.not_framed_iff.2 unframed)]

theorem Hub.receive_aborted (framed : h.Framed p k) (aborted : k.aborted = true) : h.receive p k =
    (let g := h.setLink p fun l => { l with abort := satInc 16 l.abort }
     if k.cls = 2 ∧ p = 1 then { g with sep := { g.sep with replays := satInc 16 g.sep.replays } } else g, false) := by
  unfold Hub.receive
  dsimp only
  rw [if_neg (not_not.2 isUp), if_neg (mt Hub.not_framed_iff.1 (not_not.2 framed)), if_pos aborted]

theorem Hub.receive_refused (framed : h.Framed p k) (whole : k.aborted = false) (bad : k.crcGood = false ∨ k.seq ≠ (h.prt p).link.rxSeq) :
    h.receive p k = (h.notAccepted p (if k.crcGood then 2 else 1), false) := by
  unfold Hub.receive
  dsimp only
  rw [if_neg (not_not.2 isUp), if_neg (mt Hub.not_framed_iff.1 (not_not.2 framed)), if_neg (by simp [whole])]
  cases good : k.crcGood with
  | false => rfl
  | true => exact if_pos (bad.resolve_left (by simp [good]))
end

theorem Hub.packet_refused {h g : Hub} {p : Nat} {k : PacketIn} (refused : h.receive p k = (g, false)) (deliver : Hub → Hub) :
    h.packet p k deliver = g := by
  unfold Hub.packet
  rw [refused]

theorem Hub.packet_accepted {h : Hub} {p : Nat} {k : PacketIn} (accepted : Accepted h p k) (deliver : Hub → Hub) :
    h.packet p k deliver = (h.setLink p Link.taken).routed p k deliver := by
  unfold Hub.packet
  rw [Hub.receive_accepted accepted]

theorem Hub.notAccepted_open {h : Hub} {p : Nat} (open' : (h.prt p).link.nakOpen = true) (cause : Nat) : h.notAccepted p cause = h := if_pos open'

theorem Hub.notAccepted_first {h : Hub} {p : Nat} (closed : (h.prt p).link.nakOpen = false) (cause : Nat) :
    h.notAccepted p cause = h.sendNak p cause := if_neg (by simp [closed])

/-! ## Routing (R342) -/

theorem Hub.prt_place_of {h k : Hub} (same : k.places = h.places) (p : Nat) : (k.prt p).place = (h.prt p).place := by
  have view (g : Hub) : (g.prt p).place = g.places.getD p Port.reset.place := by rw [Hub.places, List.getD_map, Hub.prt]
  rw [view, view, same]

theorem Hub.prt_waiting_of {h k : Hub} (same : k.waitings = h.waitings) (p : Nat) : (k.prt p).link.queues = (h.prt p).link.queues := by
  have view (g : Hub) : (g.prt p).link.queues = g.waitings.getD p Port.reset.waiting := by
    rw [Hub.waitings, List.getD_map, Hub.prt]
    rfl
  rw [view, view, same]

/-- What waits for a class on a port. -/
def Hub.queued (h : Hub) (cls i : Nat) : List Frame := (h.prt i).link.queues.getD (cls - 1) []

theorem Hub.queued_of {h k : Hub} (same : k.waitings = h.waitings) (cls i : Nat) : k.queued cls i = h.queued cls i :=
  congrArg (fun l : List (List Frame) => l.getD (cls - 1) []) (Hub.prt_waiting_of same i)

/-- A packet stands last in the queue of its class, and in no other queue. -/
theorem Hub.queue_queued {h : Hub} {p i : Nat} {q : Port} (f : Frame) (there : h.ports[i]? = some q) (four : q.link.queues.length = 4)
    (least : 1 ≤ f.cls) (most : f.cls ≤ 4) : (h.queue p f).queued f.cls i = h.queued f.cls i ++ if p = i then [f] else [] := by
  unfold Hub.queued Hub.queue Hub.setLink
  by_cases named : p = i
  · subst named
    have has : f.cls - 1 < q.link.queues.length := by omega
    rw [h.setPort_prt_same there, h.prt_of_getElem? there, if_pos rfl]
    simp [modAt, has]
  · rw [h.setPort_prt_other named, if_neg named, List.append_nil]

theorem forAll_queue_queued {i : Nat} (f : Frame) (least : 1 ≤ f.cls) (most : f.cls ≤ 4) {out : List Nat} (once : out.Nodup) (h : Hub) {q : Port}
    (there : h.ports[i]? = some q) (four : q.link.queues.length = 4) :
    (forAll out (fun p h => h.queue p f) h).queued f.cls i = h.queued f.cls i ++ if out.contains i then [f] else [] := by
  induction out generalizing h q with
  | nil => simp [forAll]
  | cons p out ih =>
    obtain ⟨new, rest⟩ := List.nodup_cons.1 once
    have next : ∃ x, (h.queue p f).ports[i]? = some x ∧ x.link.queues.length = 4 := by
      by_cases named : p = i
      · subst named
        exact ⟨_, h.setPort_getElem?_same there _, (List.length_modify ..).trans four⟩
      · exact ⟨q, (h.setPort_getElem?_other named _).trans there, four⟩
    obtain ⟨x, there', four'⟩ := next
    refine (ih rest (h.queue p f) there' four').trans ?_
    rw [Hub.queue_queued f there four least most, List.append_assoc]
    by_cases named : p = i
    · subst named
      simp [new]
    · simp [named, Ne.symm named]

section
variable {h : Hub} {p : Nat} {k : PacketIn}

/-- A packet without a row is counted (R342). -/
def Link.lost (l : Link) : Link := { l with unroutable := satInc 16 l.unroutable }

theorem Hub.routed_lost (lost : h.route p k.dest = none) (deliver : Hub → Hub) : h.routed p k deliver = h.setLink p Link.lost := by
  unfold Hub.routed
  rw [lost]
  rfl

/-- The packet that goes on as it came. -/
def forwarded (k : PacketIn) : Frame := ⟨k.cls, k.kind, k.dest, k.src, k.body, none, false, false⟩

theorem Hub.routed_goes {here : Bool} {out : List Nat} (goes : h.route p k.dest = some (here, out)) (deliver : Hub → Hub) :
    h.routed p k deliver = (fun g : Hub => if here then deliver g else g)
      (forAll (if h.boot.netboot then [] else out) (fun q h => h.queue q (forwarded k)) h).watermarks := by
  unfold Hub.routed
  rw [goes]
  rfl

/-- The ports on which a broadcast goes down (R312, R342). -/
def Hub.branches (h : Hub) : List Nat := (List.range h.nPorts).filter fun q =>
  q != 0 && (h.prt q).mode == 1 && (if q = 1 then (h.prt q).linked else (h.prt q).st == .up)

theorem Hub.route_broadcast (h : Hub) : h.route 0 0xFFFF = some (true, if h.addressed then h.branches else []) := (if_pos rfl).trans (if_pos rfl)

theorem Hub.mem_branches (h : Hub) (q : Nat) : q ∈ h.branches ↔
    q < h.nPorts ∧ q ≠ 0 ∧ (h.prt q).mode = 1 ∧ if q = 1 then (h.prt q).linked = true else (h.prt q).st = .up := by
  simp only [Hub.branches, List.mem_filter, List.mem_range, Bool.and_eq_true, bne_iff_ne, ne_eq, beq_iff_eq, and_assoc]
  refine and_congr_right fun _ => and_congr_right fun _ => and_congr_right fun _ => ?_
  split
  · exact Iff.rfl
  · exact beq_iff_eq

theorem Hub.route_nodup {dest : Nat} {here : Bool} {out : List Nat} (goes : h.route p dest = some (here, out)) : out.Nodup := by
  unfold Hub.route at goes
  dsimp only at goes
  split at goes
  · split at goes
    · obtain ⟨-, rfl⟩ := Prod.mk.inj (Option.some.inj goes)
      split
      · exact List.nodup_range.filter _
      · exact List.nodup_nil
    · split at goes
      · obtain ⟨-, rfl⟩ := Prod.mk.inj (Option.some.inj goes)
        exact List.nodup_nil
      · split at goes
        · obtain ⟨-, rfl⟩ := Prod.mk.inj (Option.some.inj goes)
          exact List.nodup_singleton _
        · exact nomatch goes
  · split at goes
    · obtain ⟨-, rfl⟩ := Prod.mk.inj (Option.some.inj goes)
      exact List.nodup_singleton _
    · exact nomatch goes
end

theorem Hub.setLink_route (h : Hub) (i : Nat) (f : Link → Link) (p dest : Nat) : (h.setLink i f).route p dest = h.route p dest := by
  have view {α : Type} (φ : Port → α) (blind : ∀ q : Port, φ { q with link := f q.link } = φ q) (q : Nat) :
      φ ((h.setLink i f).prt q) = φ (h.prt q) := h.setPort_prt_view i q blind
  have mode := view Port.mode fun _ => rfl
  have st := view Port.st fun _ => rfl
  have linked := view Port.linked fun _ => rfl
  have range := view Port.range fun _ => rfl
  unfold Hub.route
  simp only [mode, st, linked, range]
  rfl

section
variable {h : Hub} {p : Nat} {k : PacketIn}

theorem Hub.forAll_queue_places (f : Frame) (out : List Nat) (h : Hub) : (forAll out (fun p h => h.queue p f) h).places = h.places :=
  forAll_places _ (fun p h => h.queue_places p f) out h

/-- What is routed leaves what the links expect, and counts as lost only what has no row. -/
theorem Hub.routed_places {here : Bool} {out : List Nat} (goes : h.route p k.dest = some (here, out)) {deliver : Hub → Hub}
    (keeps : ∀ g : Hub, (deliver g).places = g.places) : (h.routed p k deliver).places = h.places := by
  rw [Hub.routed_goes goes]
  dsimp only
  split
  · exact (keeps _).trans ((Hub.watermarks_places _).trans (Hub.forAll_queue_places ..))
  · exact (Hub.watermarks_places _).trans (Hub.forAll_queue_places ..)

theorem Hub.routed_expects {deliver : Hub → Hub} (keeps : ∀ g : Hub, (deliver g).places = g.places) :
    ((h.routed p k deliver).prt p).link.rxSeq = (h.prt p).link.rxSeq ∧ ((h.routed p k deliver).prt p).link.nakOpen = (h.prt p).link.nakOpen := by
  cases goes : h.route p k.dest with
  | none =>
    rw [Hub.routed_lost goes]
    exact ⟨h.setPort_prt_view p p (view := fun q => q.link.rxSeq) fun _ => rfl, h.setPort_prt_view p p (view := fun q => q.link.nakOpen) fun _ => rfl⟩
  | some x =>
    have place := Hub.prt_place_of (Hub.routed_places (deliver := deliver) goes keeps) p
    simp only [Port.place, Prod.mk.injEq] at place
    exact ⟨place.1, place.2.1⟩

/-- Each port of a packet's row queues it, and no other (R342). -/
theorem Hub.routed_queued {here : Bool} {out : List Nat} (goes : h.route p k.dest = some (here, out)) (booted : h.boot.netboot = false)
    {deliver : Hub → Hub} (quiet : here = true → ∀ g : Hub, (deliver g).waitings = g.waitings) (least : 1 ≤ k.cls) (most : k.cls ≤ 4) {j : Nat} {q : Port}
    (there : h.ports[j]? = some q) (four : q.link.queues.length = 4) :
    (h.routed p k deliver).queued k.cls j = h.queued k.cls j ++ if out.contains j then [forwarded k] else [] := by
  rw [Hub.routed_goes goes, if_neg (by simp [booted])]
  have queued : ∀ g : Hub, g.waitings = (forAll out (fun q h => h.queue q (forwarded k)) h).waitings →
      g.queued k.cls j = h.queued k.cls j ++ if out.contains j then [forwarded k] else [] := fun g same =>
    (Hub.queued_of same k.cls j).trans (forAll_queue_queued (forwarded k) least most (Hub.route_nodup goes) h there four)
  dsimp only
  split
  · rename_i delivered
    exact queued _ ((quiet delivered _).trans (Hub.watermarks_waitings _))
  · exact queued _ (Hub.watermarks_waitings _)

theorem Hub.setLink_queued (f : Link → Link) (keeps : ∀ k, (f k).queues = k.queues) (cls j : Nat) :
    (h.setLink p f).queued cls j = h.queued cls j := Hub.queued_of (h.setLink_waitings p keeps) cls j

theorem Hub.Waits.streamIn {p : Nat} {c : CtlBlock} {h : Hub} (waits : h.Waits p c) (k : PacketIn) : (h.streamIn k).Waits p c := by
  unfold Hub.streamIn
  dsimp only
  generalize unknownItems _ _ = n
  split
  · exact waits
  · have counted : Hub.Waits p c { h with hk := { h.hk with itemSkip := h.hk.itemSkip + n } } := waits.of_ports rfl
    exact counted.notice ..

theorem Hub.routed_waits {i : Nat} {c : CtlBlock} (waits : h.Waits i c) {deliver : Hub → Hub}
    (keeps : ∀ g : Hub, g.Waits i c → (deliver g).Waits i c) : (h.routed p k deliver).Waits i c := by
  cases goes : h.route p k.dest with
  | none =>
    rw [Hub.routed_lost goes]
    exact waits.setLink p (by intro k mem; exact mem)
  | some x =>
    obtain ⟨here, out⟩ := x
    rw [Hub.routed_goes goes]
    have queued (l : List Nat) : (forAll l (fun q h => h.queue q (forwarded k)) h).watermarks.Waits i c :=
      (forAll_inv (Hub.Waits i c) (fun q h => h.queue q (forwarded k)) l (fun q _ g holds => holds.queue q (forwarded k)) h waits).watermarks
    dsimp only
    split
    · exact keeps _ (queued _)
    · exact queued _

theorem Hub.streamIn_tm (h : Hub) (k : PacketIn) : (h.streamIn k).tm = h.tm := by
  unfold Hub.streamIn
  dsimp only
  split
  · rfl
  · exact Hub.notice_tm ..

theorem Hub.routed_tm {deliver : Hub → Hub} (keeps : ∀ g : Hub, (deliver g).tm = g.tm) : (h.routed p k deliver).tm = h.tm := by
  cases goes : h.route p k.dest with
  | none =>
    rw [Hub.routed_lost goes]
    rfl
  | some x =>
    obtain ⟨here, out⟩ := x
    rw [Hub.routed_goes goes]
    have queued (l : List Nat) : (forAll l (fun q h => h.queue q (forwarded k)) h).watermarks.tm = h.tm :=
      (Hub.watermarks_tm _).trans (forAll_keeps Hub.tm (fun q g => g.queue q (forwarded k)) (fun q g => Hub.setLink_tm ..) l h)
    dsimp only
    split
    · exact (keeps _).trans (queued _)
    · exact queued _

theorem Hub.lost_queued (h : Hub) (p cls j : Nat) : ((h.setLink p Link.taken).setLink p Link.lost).queued cls j = h.queued cls j :=
  (Hub.setLink_queued Link.lost (fun _ => rfl) cls j).trans (Hub.setLink_queued Link.taken (fun _ => rfl) cls j)

theorem Hub.lost_unroutable {h : Hub} {p : Nat} {q : Port} (there : h.ports[p]? = some q) :
    (((h.setLink p Link.taken).setLink p Link.lost).prt p).link.unroutable = satInc 16 q.link.unroutable := by
  rw [Hub.setLink, Hub.setLink, Hub.setPort_setPort, h.setPort_prt_same there]
  rfl

variable (accepted : Accepted h p k)
include accepted

theorem Accepted.there : h.ports[p]? = some (h.prt p) := Hub.there_of_st (by rw [accepted.1]; exact nofun)

theorem Accepted.taken_link : ((h.setLink p Link.taken).prt p).link = (h.prt p).link.taken := by
  rw [Hub.setLink, h.setPort_prt_same (Accepted.there accepted)]

/-- An accepted packet moves the SEQ expected on, whatever is delivered of it (R331, R338). -/
theorem Hub.packet_expects {deliver : Hub → Hub} (keeps : ∀ g : Hub, (deliver g).places = g.places) :
    ((h.packet p k deliver).prt p).link.rxSeq = ((h.prt p).link.rxSeq + 1) % 65536 ∧ ((h.packet p k deliver).prt p).link.nakOpen = false := by
  rw [Hub.packet_accepted accepted, (Hub.routed_expects keeps).1, (Hub.routed_expects keeps).2, Accepted.taken_link accepted]
  exact ⟨rfl, rfl⟩

theorem Hub.packet_acks : (h.packet p k fun g => g.streamIn k).Waits p ⟨0x4B, (h.prt p).link.rxSeq % 65536 * 2 ^ 40⟩ := by
  rw [Hub.packet_accepted accepted]
  refine Hub.routed_waits ?_ fun g holds => holds.streamIn k
  have same : (((h.prt p).link.rxSeq + 1) % 65536 + 65535) % 65536 = (h.prt p).link.rxSeq % 65536 := by omega
  rw [Hub.Waits, Accepted.taken_link accepted, Link.taken, same]
  exact List.mem_append_right _ (List.mem_singleton.2 rfl)

theorem Hub.packet_tm : (h.packet p k fun g => g.streamIn k).tm = h.tm := by
  rw [Hub.packet_accepted accepted]
  exact (Hub.routed_tm (fun g => g.streamIn_tm k)).trans (Hub.setLink_tm ..)
end

end Sys2Proof.Machine

open Sys2Proof Sys2Proof.Machine

/-- Settles O39: a packet is refused, given up or taken by its link (R331 to R338), and what is taken is queued on each port of its row (R342). -/
theorem packetsAccepted : Obligations.PacketsAccepted := by
  unfold Obligations.PacketsAccepted
  refine ⟨fun s p sel k m f => ⟨fun down => ⟨next_same (Hub.packet_refused (Hub.receive_down down) _), next_same (Hub.packet_refused (Hub.receive_down down) _)⟩,
    fun down => ?_, fun accepted => ⟨?_, ?_, ?_⟩, fun isUp framed whole bad => ⟨fun open' => ?_, fun closed few i mem => ?_⟩,
    fun isUp framed aborted i mem => ?_, fun isUp unframed i mem => ⟨fun open' => ?_, fun closed few => ?_⟩,
    fun first isUp framed whole bad open' other => ?_, fun least most => next_congr (if_pos ⟨least, most⟩),
    fun bad => next_same (if_neg (by omega))⟩, fun s p k m shaped accepted present most booted four => ⟨fun lost i mem => ?_, fun here out goes => ?_⟩,
    fun h p dest => ⟨fun upper => if_neg upper, ?_, ?_, ?_, ?_, ?_⟩⟩
  · refine next_same ?_
    dsimp only
    unfold Hub.modalPacket
    rw [Hub.receive_down down]
    exact if_neg fun all => down all.2.2.2.2.1
  · obtain ⟨rx, nak⟩ := Hub.packet_expects accepted (deliver := fun g => g.streamIn k) fun g => g.streamIn_places k
    exact ⟨_, rfl, rx, nak, Hub.packet_acks accepted, Hub.packet_tm accepted⟩
  · obtain ⟨rx, nak⟩ := Hub.packet_expects accepted (deliver := fun g => g.arrAct m) fun g => g.arrAct_places m
    exact ⟨_, rfl, rx, nak⟩
  · rintro rfl
    have run : s.hub.modalPacket 1 k f = if 1 = 1 ∧ k.dest = 0 then (s.hub.setLink 1 Link.taken).modalArrive f
        else (s.hub.setLink 1 Link.taken).setLink 1 fun l => { l with unroutable := satInc 16 l.unroutable } := by
      unfold Hub.modalPacket
      rw [Hub.receive_accepted accepted]
    have link := Accepted.taken_link accepted
    by_cases mine : k.dest = 0
    · rw [if_pos ⟨rfl, mine⟩] at run
      have place := Hub.prt_place_of ((s.hub.setLink 1 Link.taken).modalArrive_places f) 1
      simp only [Port.place, Prod.mk.injEq, link] at place
      exact ⟨_, next_congr run, place.1, fun other => absurd mine other⟩
    · rw [if_neg fun both => mine both.2, Hub.setLink, Hub.setLink, Hub.setPort_setPort] at run
      refine ⟨_, next_congr run, ?_, fun _ => ⟨?_, rfl⟩⟩
      · exact congrArg (fun q : Port => q.link.rxSeq) (s.hub.setPort_prt_same (Accepted.there accepted) _)
      · exact congrArg (fun q : Port => q.link.unroutable) (s.hub.setPort_prt_same (Accepted.there accepted) _)
  · have refused := (Hub.receive_refused isUp framed whole bad).trans (congrArg (·, false) (Hub.notAccepted_open open' _))
    exact ⟨next_same (Hub.packet_refused refused _), next_same (Hub.packet_refused refused _)⟩
  · have refused := (Hub.receive_refused isUp framed whole bad).trans (congrArg (·, false) (Hub.notAccepted_first closed _))
    obtain ⟨naks, link⟩ := Hub.sendNak_few (Hub.there_of_st (h := s.hub) (p := p) (by rw [isUp]; exact nofun)) (if k.crcGood then 2 else 1) few
    have named : exec i s = .next ⟨s.hub.sendNak p (if k.crcGood then 2 else 1), s.pending⟩ := by
      rcases List.mem_pair.1 mem with rfl | rfl
      · exact next_congr (Hub.packet_refused refused _)
      · exact next_congr (Hub.packet_refused refused _)
    refine ⟨_, named, ?_⟩
    dsimp only
    rw [link]
    exact ⟨rfl, rfl, rfl⟩
  · have refused := Hub.receive_aborted isUp framed aborted
    rcases List.mem_pair.1 mem with rfl | rfl
    · exact next_congr (Hub.packet_refused refused _)
    · exact next_congr (Hub.packet_refused refused _)
  · have there := Hub.there_of_st (h := s.hub) (p := p) (by rw [isUp]; exact nofun)
    have still : ((s.hub.setLink p fun l => { l with frame := satInc 16 l.frame }).prt p).link.nakOpen = true :=
      (congrArg (fun q : Port => q.link.nakOpen) (s.hub.setPort_prt_same there _)).trans open'
    have refused := (Hub.receive_unframed isUp unframed).trans (congrArg (·, false) (Hub.notAccepted_open still _))
    rcases List.mem_pair.1 mem with rfl | rfl
    · exact next_congr (Hub.packet_refused refused _)
    · exact next_congr (Hub.packet_refused refused _)
  · have there := Hub.there_of_st (h := s.hub) (p := p) (by rw [isUp]; exact nofun)
    have still : ((s.hub.setLink p fun l => { l with frame := satInc 16 l.frame }).prt p).link.nakOpen = false :=
      (congrArg (fun q : Port => q.link.nakOpen) (s.hub.setPort_prt_same there _)).trans closed
    have refused := (Hub.receive_unframed isUp unframed).trans (congrArg (·, false) (Hub.notAccepted_first still _))
    obtain ⟨naks, link⟩ := Hub.sendNak_few (s.hub.setPort_getElem?_same there fun q => { q with link := { q.link with
      frame := satInc 16 q.link.frame } }) 3 few
    have named : exec i s = .next ⟨(s.hub.setLink p fun l => { l with frame := satInc 16 l.frame }).sendNak p 3, s.pending⟩ := by
      rcases List.mem_pair.1 mem with rfl | rfl
      · exact next_congr (Hub.packet_refused refused _)
      · exact next_congr (Hub.packet_refused refused _)
    refine ⟨_, named, ?_⟩
    dsimp only
    rw [Hub.setLink, link]
    exact ⟨rfl, rfl, rfl⟩
  · refine next_same ?_
    dsimp only
    subst first
    unfold Hub.modalPacket
    rw [Hub.receive_refused isUp framed whole bad, Hub.notAccepted_open open']
    dsimp only
    split
    · rename_i all
      obtain ⟨-, -, mine, modal, -⟩ := all
      have untaken := (other.resolve_left (not_not.2 modal)).resolve_left (not_not.2 mine)
      exact if_neg (by simp [untaken])
    · rfl
  · have gone : (s.hub.setLink p Link.taken).route p k.dest = none := (s.hub.setLink_route p Link.taken p k.dest).trans lost
    have named : exec i s = .next ⟨(s.hub.setLink p Link.taken).setLink p Link.lost, s.pending⟩ := by
      rcases List.mem_pair.1 mem with rfl | rfl
      · exact next_congr ((Hub.packet_accepted accepted _).trans (Hub.routed_lost gone _))
      · exact next_congr ((Hub.packet_accepted accepted _).trans (Hub.routed_lost gone _))
    exact ⟨_, named, fun j _ => s.hub.lost_queued p k.cls j, Hub.lost_unroutable (Accepted.there accepted)⟩
  · have goes' : (s.hub.setLink p Link.taken).route p k.dest = some (here, out) := (s.hub.setLink_route p Link.taken p k.dest).trans goes
    have least : 1 ≤ k.cls := by
      obtain ⟨-, cls, same, -⟩ := accepted
      omega
    have queued (deliver : Hub → Hub) (quiet : here = true → ∀ g : Hub, (deliver g).waitings = g.waitings) (j : Nat) (low : j < s.hub.nPorts) :
        ((s.hub.setLink p Link.taken).routed p k deliver).queued k.cls j =
          s.hub.queued k.cls j ++ if out.contains j then [forwarded k] else [] := by
      obtain ⟨-, -, -, length, -⟩ := shaped
      have there := Hub.there_of_lt (length.symm ▸ low : j < s.hub.ports.length)
      have next : ∃ x, (s.hub.setLink p Link.taken).ports[j]? = some x ∧ x.link.queues.length = 4 := by
        by_cases own : p = j
        · subst own
          exact ⟨_, s.hub.setPort_getElem?_same there _, four p low⟩
        · exact ⟨_, (s.hub.setPort_getElem?_other own _).trans there, four j low⟩
      obtain ⟨x, there', four'⟩ := next
      rw [Hub.routed_queued goes' booted quiet least most there' four', Hub.setLink_queued Link.taken fun _ => rfl]
    refine ⟨⟨_, next_congr (Hub.packet_accepted accepted _), ?_, queued _ fun _ g => g.streamIn_waitings k⟩,
      fun away => ⟨_, next_congr (Hub.packet_accepted accepted _), queued _ fun delivered => absurd (away.symm.trans delivered) Bool.false_ne_true⟩⟩
    have place := Hub.prt_place_of (Hub.routed_places (deliver := fun g => g.streamIn k) goes' fun g => g.streamIn_places k) p
    simp only [Port.place, Prod.mk.injEq, Accepted.taken_link accepted] at place
    exact place.2.2
  · rintro addressed own
    have ours : dest ≠ 0xFFFF := by
      simp only [Hub.addressed, decide_eq_true_eq] at addressed
      rw [Hub.addr] at own
      omega
    exact (if_pos rfl).trans ((if_neg ours).trans (if_pos ⟨addressed, own⟩))
  · intro unaddressed
    rw [h.route_broadcast, unaddressed]
    rfl
  · intro addressed
    refine ⟨h.branches, ?_, fun q => h.mem_branches q⟩
    rw [h.route_broadcast, addressed]
    rfl
  · intro out goes
    unfold Hub.route at goes
    rw [if_pos rfl] at goes
    dsimp only at goes
    split at goes
    · exact nomatch goes
    · split at goes
      · exact nomatch goes
      · split at goes
        · rename_i q found
          obtain ⟨-, rfl⟩ := Prod.mk.inj (Option.some.inj goes)
          have low := List.mem_range.1 (List.mem_of_find?_eq_some found)
          have within := List.find?_some found
          split at within
          · rename_i a b range
            have both := of_decide_eq_true within
            exact ⟨q, a, b, rfl, low, range, both.1, both.2⟩
          · exact nomatch within
        · exact nomatch goes
  · intro lost q a b low range within
    unfold Hub.route at lost
    rw [if_pos rfl] at lost
    dsimp only at lost
    split at lost
    · exact nomatch lost
    · split at lost
      · exact nomatch lost
      · split at lost
        · exact nomatch lost
        · rename_i none'
          have outside := List.find?_eq_none.1 none' q (List.mem_range.2 low)
          rw [range] at outside
          exact outside (decide_eq_true within)
end

section
/-! PROOFS. Enumeration of a tree (R343 to R348). -/

namespace Sys2Proof.Machine

theorem forAll_ctl_portCores (l : List Nat) (code payload : Nat) (h : Hub) :
    (forAll l (fun p h => h.ctl p code payload) h).portCores = h.portCores :=
  forAll_portCores _ (fun p h => h.ctl_portCores p code payload) l h

theorem forAll_ctl_enm (l : List Nat) (code payload : Nat) (h : Hub) : (forAll l (fun p h => h.ctl p code payload) h).enm = h.enm :=
  forAll_keeps Hub.enm (fun p h => h.ctl p code payload) (fun _ _ => Hub.ctl_enm ..) l h

/-- A view of the ports that does not look at their traffic. -/
theorem Hub.map_of_portCores {α : Type} {h k : Hub} (same : k.portCores = h.portCores) (view : Port → α) (blind : ∀ q, view q.core = view q) :
    k.ports.map view = h.ports.map view := by
  have through (g : Hub) : g.ports.map view = g.portCores.map view := by
    rw [Hub.portCores, List.map_map]
    exact List.map_congr_left fun q _ => (blind q).symm
  rw [through, through, same]

/-! ## A round begins (R343, R344) -/

/-- A round that has begun, before its OPEN goes on (R344). -/
def Hub.opened (h : Hub) (round : Nat) : Hub := { h with
  enm := { h.enm with round := round, eligible := true, pending := none, walk := none, through := false, claimed := false },
  ports := h.ports.mapIdx fun p (q : Port) => { q with
    recorded := p != 0 && !h.boot.netboot && (h.prt p).mode == 1 && (h.prt p).st == .up && (h.prt p).peer == 2, pendRange := none } }

theorem Hub.searchOpen_opens {h : Hub} {round : Nat} (isUp : (h.prt 0).st = .up) (least : 1 ≤ round) (most : round ≤ 255) :
    h.searchOpen round = forAll (h.opened round).recordedPorts (fun p h => h.ctl p 0x99 (searchBits 0 round 0 false)) (h.opened round) :=
  if_neg (by simp only [isUp, ne_eq, not_true, false_or]; omega)

theorem Hub.opened_port {h : Hub} {round i : Nat} {q : Port} (there : (h.opened round).ports[i]? = some q) : q.pendRange = none ∧
    (q.recorded = true ↔ i ≠ 0 ∧ h.boot.netboot = false ∧ (h.prt i).mode = 1 ∧ (h.prt i).st = .up ∧ (h.prt i).peer = 2) := by
  rw [Hub.opened, List.getElem?_mapIdx] at there
  obtain ⟨x, -, rfl⟩ := Option.map_eq_some_iff.1 there
  refine ⟨rfl, ?_⟩
  simp only [Bool.and_eq_true, bne_iff_ne, ne_eq, beq_iff_eq, Bool.not_eq_true', and_assoc]

/-! ## The token (R345) -/

/-- Where a token goes next. -/
def askedNext (n : Nat) (full : Bool) : List Nat → Option (List Nat × Nat × Nat × Bool)
  | i :: r => some (r, i, n, full)
  | [] => none

theorem Hub.passToken_enm (h : Hub) (rest : List Nat) (n : Nat) (full : Bool) :
    (h.passToken rest n full).enm = { h.enm with walk := askedNext n full rest } := by
  cases rest with
  | nil => exact Hub.ctl_enm ..
  | cons p r => exact Hub.ctl_enm ..

theorem Hub.passToken_portCores (h : Hub) (rest : List Nat) (n : Nat) (full : Bool) : (h.passToken rest n full).portCores = h.portCores := by
  cases rest with
  | nil => exact Hub.ctl_portCores ..
  | cons p r => exact Hub.ctl_portCores ..

theorem Hub.sendClaim_enm (h : Hub) (a : Nat) : (h.sendClaim a).enm = h.enm := by
  unfold Hub.sendClaim
  dsimp only
  rw [Hub.ctl_enm, Hub.ctl_enm]
  split <;> rfl

section
variable {h : Hub} {round next : Nat} {full : Bool}

theorem Hub.token_other (other : round ≠ h.enm.round ∨ (h.prt 0).st ≠ .up) : h.token round next full = h := if_pos other

theorem Hub.token_claims (round' : round = h.enm.round) (isUp : (h.prt 0).st = .up) (eligible : h.enm.eligible = true) (free : next ≤ 0xFFE) :
    h.token round next full =
      (({ h with enm := { h.enm with pending := some next, claimed := true } }).sendClaim next).passToken h.recordedPorts (next + 1) full := by
  unfold Hub.token
  rw [if_neg (by simp [round', isUp]), if_neg (by simp [eligible]), if_pos free]

theorem Hub.token_full (round' : round = h.enm.round) (isUp : (h.prt 0).st = .up) (eligible : h.enm.eligible = true) (used : 0xFFE < next) :
    h.token round next full = ({ h with enm := { h.enm with pending := none } }).passToken h.recordedPorts next true := by
  unfold Hub.token
  rw [if_neg (by simp [round', isUp]), if_neg (by simp [eligible]), if_neg (Nat.not_le.2 used)]

theorem Hub.token_returns (round' : round = h.enm.round) (isUp : (h.prt 0).st = .up) (done : h.enm.eligible = false)
    (unrecorded : (h.prt 1).recorded = false) : h.token round next full = h.ctl 0 0x99 (searchBits 2 round next full) := by
  unfold Hub.token
  rw [if_neg (by simp [round', isUp]), if_pos (by simp [done]), if_neg (by simp [unrecorded])]

theorem Hub.token_through (round' : round = h.enm.round) (isUp : (h.prt 0).st = .up) (done : h.enm.eligible = false)
    (recorded : (h.prt 1).recorded = true) :
    h.token round next full = ({ h with enm := { h.enm with through := true } }).ctl 1 0x99 (searchBits 1 round next full) := by
  unfold Hub.token
  rw [if_neg (by simp [round', isUp]), if_pos (by simp [done]), if_pos recorded]
end

section
variable {h : Hub} {p round n2 : Nat} {full : Bool}

theorem Hub.searchReturn_through (round' : round = h.enm.round) (through : h.enm.through = true) (first : p = 1) :
    h.searchReturn p round n2 full = ({ h with enm := { h.enm with through := false } }).ctl 0 0x99 (searchBits 2 round n2 full) := by
  unfold Hub.searchReturn
  rw [if_neg (not_not.2 round'), if_pos ⟨through, first⟩]

theorem Hub.searchReturn_unasked (own : h.enm.through = false ∨ p ≠ 1) (unasked : ∀ rest n f, h.enm.walk ≠ some (rest, p, n, f)) :
    h.searchReturn p round n2 full = h := by
  unfold Hub.searchReturn
  split
  · rfl
  · rw [if_neg fun both => own.elim (fun off => by simp [off] at both) fun other => other both.2]
    split
    · rename_i rest asked n f walk
      refine if_pos ?_
      rintro rfl
      exact unasked rest n f walk
    · rfl

/-- The port asked is given its range, and the token goes on (R345). -/
theorem Hub.searchReturn_asked {rest : List Nat} {n : Nat} {f : Bool} (round' : round = h.enm.round) (own : h.enm.through = false ∨ p ≠ 1)
    (walk : h.enm.walk = some (rest, p, n, f)) : h.searchReturn p round n2 full =
      (h.setPort p fun q => { q with pendRange := if n2 ≤ n then none else some (n, n2 - 1) }).passToken rest n2 (f || full) := by
  unfold Hub.searchReturn
  rw [if_neg (not_not.2 round'), if_neg (fun both => own.elim (fun off => by simp [off] at both) fun other => other both.2), walk]
  exact if_neg (not_not.2 rfl)
end

/-! ## The end of a round (R346, R347) -/

/-- CLOSE goes on to the recorded ports. -/
def Hub.closing (h : Hub) (round : Nat) : Hub := forAll h.recordedPorts (fun p h => h.ctl p 0x99 (searchBits 3 round 0 false)) h

/-- Address and ranges are committed (R346). -/
def Hub.committed (h : Hub) (mine : Option Nat) : Hub := { h with
  enm := { h.enm with addr := mine.getD 0xFFFE, eligible := false, pending := none, walk := none, through := false,
                      arriveAt := if mine.isSome then none else h.enm.arriveAt },
  ports := h.ports.map fun (q : Port) => { q with range := if mine.isSome then q.pendRange else none, pendRange := none } }

theorem Hub.closing_enm (h : Hub) (round : Nat) : (h.closing round).enm = h.enm := forAll_ctl_enm ..

theorem Hub.closing_portCores (h : Hub) (round : Nat) : (h.closing round).portCores = h.portCores := forAll_ctl_portCores ..

section
variable {h : Hub} {round : Nat} (round' : round = h.enm.round)
include round'

theorem Hub.searchClose_keeps (done : h.enm.eligible = false) (claimed : h.enm.claimed = true) : h.searchClose round = h.closing round := by
  unfold Hub.searchClose
  rw [if_neg (not_not.2 round')]
  refine if_pos ?_
  rw [← Hub.closing, Hub.closing_enm, done, claimed]
  rfl

theorem Hub.searchClose_commits (commits : h.enm.eligible = true ∨ h.enm.claimed = false) : h.searchClose round =
    (fun mine : Option Nat => if mine.isSome then (h.closing round).committed mine else ((h.closing round).committed mine).sendArrive)
      (if h.enm.eligible then h.enm.pending else none) := by
  unfold Hub.searchClose
  rw [if_neg (not_not.2 round')]
  dsimp only
  rw [← Hub.closing, Hub.closing_enm]
  refine (if_neg ?_).trans ?_
  · rcases commits with eligible | unclaimed
    · simp [eligible]
    · simp [unclaimed]
  · rw [Hub.committed, Hub.closing_enm]
end

theorem Hub.sendArrive_enm (h : Hub) : h.sendArrive.enm = h.enm ∨ h.sendArrive.enm = { h.enm with arriveAt := some h.clk.elapsed } := by
  unfold Hub.sendArrive
  split
  · exact .inr rfl
  · exact .inl rfl

/-! ## Upward (R343, R344, R475) -/

section
variable {h : Hub} {p code : Nat} {b : BitVec 56}

theorem Hub.upward_stays (stays : p = 0 ∨ h.boot.netboot = true ∨ (h.prt 0).st ≠ .up) : h.upward p code b = h := if_pos stays

theorem Hub.upward_goes (below : p ≠ 0) (booted : h.boot.netboot = false) (isUp : (h.prt 0).st = .up) :
    h.upward p code b = h.ctl 0 code b.toNat := if_neg (by simp [below, booted, isUp])

theorem Hub.claimBlock_same (same : b.toNat / 2 ^ 52 ≠ 0 ∨ b.toNat / 2 ^ 44 % 256 = h.enm.round) : h.claimBlock p b = h.upward p 0xAA b :=
  if_neg (by rintro ⟨part, other⟩; exact same.elim (fun no => no part) other)

theorem Hub.claimBlock_other (part : b.toNat / 2 ^ 52 = 0) (other : b.toNat / 2 ^ 44 % 256 ≠ h.enm.round) : h.claimBlock p b = h :=
  if_pos ⟨part, other⟩
end

theorem Hub.sendArrive_up {h : Hub} (isUp : (h.prt 0).st = .up) : h.sendArrive =
    { h.ctl 0 0xB4 h.arriveBits with enm := { h.enm with arriveAt := some h.clk.elapsed } } := if_pos isUp

theorem Hub.sendArrive_down {h : Hub} (down : (h.prt 0).st ≠ .up) : h.sendArrive = h := if_neg down

end Sys2Proof.Machine
end

section
/-! PROOFS. The blocks that a port sends (R303, R308, R311, R332). -/

namespace Sys2Proof.Machine

/-- What the link of a port sends and holds. -/
def Port.sending (q : Port) : List (Option (Frame × Nat × Option Nat)) × Nat × List (Nat × Frame) := (q.link.active, q.link.txSeq,
  q.link.replay)

theorem Port.sending_eq (q : Port) : q.sending = (q.link.active, q.link.txSeq, q.link.replay) := by cases q; rfl

/-- What the links of a hub send and hold. -/
def Hub.sendings (h : Hub) : List (List (Option (Frame × Nat × Option Nat)) × Nat × List (Nat × Frame)) := h.ports.map Port.sending

theorem forAll_sendings {α : Type} (f : α → Hub → Hub) (keeps : ∀ a h, (f a h).sendings = h.sendings) (l : List α) (h : Hub) :
    (forAll l f h).sendings = h.sendings := forAll_keeps Hub.sendings f keeps l h
theorem iter_sendings (f : Hub → Hub) (keeps : ∀ h, (f h).sendings = h.sendings) (n : Nat) (h : Hub) :
    (iter f n h).sendings = h.sendings := iter_keeps Hub.sendings f keeps n h

theorem Hub.map_sending_ports (h : Hub) : h.ports.map Port.sending = h.sendings := rfl

theorem Hub.sendings_mk {clk : Clk} {tm : Tm} {chans : List Chan} {octs : List Octet} {reps : List Rep} {dies : List Die}
    {trg : Trg} {caps : List (Option Capture)} {nextTrain : Nat} {saved : List SavedChurn} {jobs : List ChurnJob} {nextHandle nextJob : Nat}
    {flows : List Flow} {strm : Strm} {hk : Hk} {sep : Sep} {ports : List Port} {enm : Enum} {mgmt : Mgmt} {dbw : Dbw} {fseal : Seal}
    {flt : Flt} {cal : Cal} {pwr : Pwr} {pmbus : Pmbus} {boot : Boot} {flash : Flash} {tag : Tag} {tap : Tap} {fresh : Nat} {ident : Ident}
      :
    (Hub.mk ident clk tm chans octs reps dies trg caps nextTrain saved jobs nextHandle nextJob flows strm hk sep ports enm mgmt dbw
      fseal flt cal pwr pmbus boot flash tag tap fresh).sendings = ports.map Port.sending := rfl

theorem Hub.setPort_sendings (h : Hub) (p : Nat) {f : Port → Port} (keeps : ∀ x, (f x).sending = x.sending) :
    (h.setPort p f).sendings = h.sendings := map_modAt_of_keeps keeps _ _


/-- The MARKs that the ports of a hub have sent. -/
def Hub.mcounts (h : Hub) : List Nat := h.ports.map Port.mcount

theorem forAll_mcounts {α : Type} (f : α → Hub → Hub) (keeps : ∀ a h, (f a h).mcounts = h.mcounts) (l : List α) (h : Hub) :
    (forAll l f h).mcounts = h.mcounts := forAll_keeps Hub.mcounts f keeps l h
theorem iter_mcounts (f : Hub → Hub) (keeps : ∀ h, (f h).mcounts = h.mcounts) (n : Nat) (h : Hub) :
    (iter f n h).mcounts = h.mcounts := iter_keeps Hub.mcounts f keeps n h

theorem Hub.map_mcount_ports (h : Hub) : h.ports.map Port.mcount = h.mcounts := rfl

theorem Hub.mcounts_mk {clk : Clk} {tm : Tm} {chans : List Chan} {octs : List Octet} {reps : List Rep} {dies : List Die}
    {trg : Trg} {caps : List (Option Capture)} {nextTrain : Nat} {saved : List SavedChurn} {jobs : List ChurnJob} {nextHandle nextJob : Nat}
    {flows : List Flow} {strm : Strm} {hk : Hk} {sep : Sep} {ports : List Port} {enm : Enum} {mgmt : Mgmt} {dbw : Dbw} {fseal : Seal}
    {flt : Flt} {cal : Cal} {pwr : Pwr} {pmbus : Pmbus} {boot : Boot} {flash : Flash} {tag : Tag} {tap : Tap} {fresh : Nat} {ident : Ident}
      :
    (Hub.mk ident clk tm chans octs reps dies trg caps nextTrain saved jobs nextHandle nextJob flows strm hk sep ports enm mgmt dbw
      fseal flt cal pwr pmbus boot flash tag tap fresh).mcounts = ports.map Port.mcount := rfl

theorem Hub.setPort_mcounts (h : Hub) (p : Nat) {f : Port → Port} (keeps : ∀ x, (f x).mcount = x.mcount) :
    (h.setPort p f).mcounts = h.mcounts := map_modAt_of_keeps keeps _ _


theorem Hub.setLink_sendings (h : Hub) (p : Nat) {f : Link → Link}
    (keeps : ∀ k, ((f k).active, (f k).txSeq, (f k).replay) = (k.active, k.txSeq, k.replay)) :
    (h.setLink p f).sendings = h.sendings := h.setPort_sendings p fun q => keeps q.link

theorem Hub.mcounts_of_portCores {h g : Hub} (same : h.portCores = g.portCores) : h.mcounts = g.mcounts :=
  Hub.map_of_portCores same Port.mcount (by intro; rfl)

@[simp] theorem Hub.ctl_sendings (h : Hub) (p code payload : Nat) : (h.ctl p code payload).sendings = h.sendings :=
  h.setLink_sendings p fun _ => rfl

@[simp] theorem Hub.queue_sendings (h : Hub) (p : Nat) (f : Frame) : (h.queue p f).sendings = h.sendings :=
  h.setLink_sendings p (by intro; rfl)

@[simp] theorem Hub.watermarks_sendings (h : Hub) : h.watermarks.sendings = h.sendings := by
  unfold Hub.watermarks
  dsimp only
  refine (forAll_sendings _ (fun i g => ?_) _ _).trans ?_
  · split
    · exact (Hub.ctl_sendings ..).trans (g.setLink_sendings i fun _ => rfl)
    · rfl
  · exact Hub.map_levels_ports (view := Port.sending) (fun _ _ _ => rfl) h.ports _ _

@[simp] theorem Hub.setFlow_sendings (h : Hub) (k : FlowKey) (g : Flow → Flow) : (h.setFlow k g).sendings = h.sendings :=
  congrArg (List.map Port.sending) (Hub.setFlow_ports ..)
@[simp] theorem Hub.spoolTouch_sendings (h : Hub) (d : Nat) (was : Seqs) : (h.spoolTouch d was).sendings = h.sendings :=
  congrArg (List.map Port.sending) (Hub.spoolTouch_ports ..)
@[simp] theorem Hub.flowTouch_sendings (h : Hub) (d : Nat) : (h.flowTouch d).sendings = h.sendings := by
  simp only [Hub.flowTouch, ↓Hub.spoolTouch_sendings, ↓Hub.watermarks_sendings]
@[simp] theorem Hub.emitSince_sendings (h : Hub) (k : FlowKey) (stream : Nat) (rcd : Bytes) (since : Nat) :
    (h.emitSince k stream rcd since).sendings = h.sendings := by
  unfold Hub.emitSince
  split <;> simp only [↓Hub.setFlow_sendings, ↓Hub.spoolTouch_sendings, ↓Hub.watermarks_sendings, ↓apply_ite Hub.sendings, ite_self]
@[simp] theorem Hub.emitRecord_sendings (h : Hub) (k : FlowKey) (stream : Nat) (rcd : Bytes) :
    (h.emitRecord k stream rcd).sendings = h.sendings := by
  simp only [Hub.emitRecord, ↓Hub.emitSince_sendings]
@[simp] theorem Hub.hkRecord_sendings (h : Hub) (t kind : Nat) (payload : Bytes) : (h.hkRecord t kind payload).sendings = h.sendings := by
  simp only [Hub.hkRecord, ↓Hub.emitRecord_sendings, ↓Hub.sendings_mk, ↓apply_ite Hub.sendings, ite_self, ↓Hub.map_sending_ports]
@[simp] theorem Hub.recordAt_sendings (h : Hub) (t kind : Nat) (payload : Bytes) : (h.recordAt t kind payload).sendings = h.sendings := by
  simp only [Hub.recordAt, ↓Hub.hkRecord_sendings, ↓Hub.sendings_mk, ↓apply_ite Hub.sendings, ite_self, ↓Hub.map_sending_ports]
@[simp] theorem Hub.raise_sendings (h : Hub) (bit : Nat) : (h.raise bit).sendings = h.sendings :=
  congrArg (List.map Port.sending) (Hub.raise_ports ..)
@[simp] theorem Hub.logEntry_sendings (h : Hub) (t : Nat) (event : Bytes) : (h.logEntry t event).sendings = h.sendings := by
  simp only [Hub.logEntry, ↓Hub.sendings_mk, ↓apply_ite Hub.sendings, ite_self, ↓Hub.map_sending_ports]
@[simp] theorem Hub.eventAt_sendings (h : Hub) (t : Nat) (unit : Word) (code cls count : Nat) (arg0 arg1 : Word) :
    (h.eventAt t unit code cls count arg0 arg1).sendings = h.sendings := by
  simp only [Hub.eventAt, ↓Hub.logEntry_sendings, ↓Hub.raise_sendings, ↓Hub.recordAt_sendings, ↓Hub.sendings_mk, ↓apply_ite Hub.sendings,
    ite_self, ↓Hub.map_sending_ports]
@[simp] theorem Hub.event_sendings (h : Hub) (unit : Word) (code cls count : Nat) (arg0 arg1 : Word) :
    (h.event unit code cls count arg0 arg1).sendings = h.sendings := by
  simp only [Hub.event, ↓Hub.eventAt_sendings]
@[simp] theorem Hub.notice_sendings (h : Hub) (unit : Word) (code : Nat) (arg0 arg1 : Word) :
    (h.notice unit code arg0 arg1).sendings = h.sendings := by
  simp only [Hub.notice, ↓Hub.event_sendings]
@[simp] theorem Hub.setCap_sendings (h : Hub) (n : Nat) (f : Capture → Capture) : (h.setCap n f).sendings = h.sendings :=
  congrArg (List.map Port.sending) (Hub.setCap_ports ..)
@[simp] theorem Hub.reserveDie_sendings (n : Nat) (eval : Bool) (d : Nat) (h : Hub) :
    (Hub.reserveDie n eval d h).sendings = h.sendings := by
  unfold Hub.reserveDie
  dsimp only
  repeat' split
  all_goals simp only [↓Hub.notice_sendings, ↓Hub.setCap_sendings, ↓Hub.sendings_mk, ↓Hub.map_sending_ports]
@[simp] theorem Hub.retryWait_sendings (h : Hub) (d : Nat) : (h.retryWait d).sendings = h.sendings := by
  refine forAll_sendings _ (fun n g => ?_) _ _
  split <;> simp only [↓apply_ite Hub.sendings, ↓Hub.reserveDie_sendings, ite_self]
@[simp] theorem Hub.setDie_sendings (h : Hub) (d : Nat) (f : Die → Die) : (h.setDie d f).sendings = h.sendings :=
  congrArg (List.map Port.sending) (Hub.setDie_ports ..)
@[simp] theorem Hub.setCoach_sendings (h : Hub) (d seq : Nat) (f : Coach → Coach) : (h.setCoach d seq f).sendings = h.sendings := by
  simp only [Hub.setCoach, ↓Hub.setDie_sendings]
@[simp] theorem Hub.freeCoach_sendings (h : Hub) (d seq : Nat) : (h.freeCoach d seq).sendings = h.sendings := by
  simp only [Hub.freeCoach, ↓Hub.setCoach_sendings]
@[simp] theorem Hub.freeAcked_sendings (h : Hub) (k : FlowKey) (gone : Word → Bool) : (h.freeAcked k gone).sendings = h.sendings := by
  simp only [Hub.freeAcked, ↓Hub.freeCoach_sendings, ↓Hub.retryWait_sendings, ↓forAll_sendings, ↓apply_ite Hub.sendings, ite_self,
    implies_true]
@[simp] theorem Hub.streamSent_sendings (h : Hub) (p : Nat) (key : FlowKey) (seq : Word) :
    (h.streamSent p key seq).sendings = h.sendings := by
  unfold Hub.streamSent
  repeat' split
  all_goals simp only [↓Hub.flowTouch_sendings, ↓Hub.freeAcked_sendings, ↓Hub.setFlow_sendings]

@[simp] theorem Hub.ctl_mcounts (h : Hub) (p code payload : Nat) : (h.ctl p code payload).mcounts = h.mcounts :=
  Hub.mcounts_of_portCores (Hub.ctl_portCores ..)
@[simp] theorem Hub.askWidth_mcounts (h : Hub) (p w : Nat) : (h.askWidth p w).mcounts = h.mcounts := by
  simp only [Hub.askWidth, ↓Hub.ctl_mcounts, ↓Hub.setPort_mcounts, ↓apply_ite Hub.mcounts, ite_self, implies_true, ↓Hub.setPort_mcounts]
@[simp] theorem Hub.startStep_mcounts (h : Hub) (p rate : Nat) (cause : StepCause) (good : List (Nat × Nat)) :
    (h.startStep p rate cause good).mcounts = h.mcounts := by
  simp only [Hub.startStep, ↓Hub.ctl_mcounts, ↓Hub.setPort_mcounts, implies_true, ↓Hub.setPort_mcounts]
@[simp] theorem Hub.askRate_mcounts (h : Hub) (p rate : Nat) : (h.askRate p rate).mcounts = h.mcounts := by
  simp only [Hub.askRate, ↓Hub.ctl_mcounts, ↓Hub.setPort_mcounts, ↓Hub.startStep_mcounts, ↓apply_ite Hub.mcounts, ite_self, implies_true,
    ↓Hub.setPort_mcounts]
@[simp] theorem Hub.keepLimits_mcounts (h : Hub) (p : Nat) : (h.keepLimits p).mcounts = h.mcounts := by
  simp only [Hub.keepLimits, ↓Hub.askRate_mcounts, ↓Hub.askWidth_mcounts, ↓apply_ite Hub.mcounts, ite_self]
@[simp] theorem Hub.reAsk_mcounts (h : Hub) (p : Nat) : (h.reAsk p).mcounts = h.mcounts := by
  unfold Hub.reAsk
  split <;> simp only [↓Hub.askRate_mcounts, ↓Hub.askWidth_mcounts, ↓Hub.keepLimits_mcounts, ↓Hub.setPort_mcounts, ↓apply_ite Hub.mcounts,
    ite_self, implies_true, ↓Hub.setPort_mcounts]
@[simp] theorem Hub.applyWidth_mcounts (h : Hub) (p w : Nat) : (h.applyWidth p w).mcounts = h.mcounts := by
  simp only [Hub.applyWidth, ↓Hub.reAsk_mcounts, ↓Hub.setPort_mcounts, implies_true, ↓Hub.setPort_mcounts]
@[simp] theorem Hub.queuesReset_mcounts (h : Hub) (p : Nat) : (h.queuesReset p).mcounts = h.mcounts :=
  Hub.mcounts_of_portCores (Hub.queuesReset_portCores ..)
@[simp] theorem Hub.enterStep_mcounts (h : Hub) (p : Nat) : (h.enterStep p).mcounts = h.mcounts := by
  unfold Hub.enterStep
  split <;> simp only [↓Hub.queuesReset_mcounts, ↓Hub.setPort_mcounts, implies_true, ↓Hub.setPort_mcounts]

/-! ## The lanes beside the width (R303, R317) -/

theorem Hub.sideBlock_view {α : Type} (h : Hub) (p i : Nat) (b : Nat → Nat) (view : Port → α)
    (blind : ∀ (q : Port) (l : List Lane), view { q with lanes := l } = view q) : view ((h.sideBlock p b).prt i) = view (h.prt i) :=
  forAll_keeps (fun g : Hub => view (g.prt i)) _ (fun _ g => g.setPort_prt_view p i (view := view) fun q => blind q _) _ h

theorem Hub.sideBlock_field {α : Type} (h : Hub) (p : Nat) (b : Nat → Nat) (view : Hub → α)
    (blind : ∀ (g : Hub) (f : Port → Port), view (g.setPort p f) = view g) : view (h.sideBlock p b) = view h :=
  forAll_keeps view _ (fun _ g => blind g _) _ h

/-- A block boundary's count, and the lanes beside the width with its last lane (R303). -/
def Hub.beside (h : Hub) (p b : Nat) (g : Hub) : Hub :=
  if (h.prt p).blk % (h.prt p).txWidth + 1 = (h.prt p).txWidth then g.sideBlock p (fun _ => b) else g

theorem Hub.beside_view {α : Type} (h : Hub) (p b i : Nat) (g : Hub) (view : Port → α)
    (blind : ∀ (q : Port) (l : List Lane), view { q with lanes := l } = view q) : view ((h.beside p b g).prt i) = view (g.prt i) := by
  unfold Hub.beside
  split
  · exact g.sideBlock_view p i _ view blind
  · rfl

theorem Hub.beside_field {α : Type} (h : Hub) (p b : Nat) (g : Hub) (view : Hub → α)
    (blind : ∀ (g : Hub) (f : Port → Port), view (g.setPort p f) = view g) : view (h.beside p b g) = view g := by
  unfold Hub.beside
  split
  · exact g.sideBlock_field p _ view blind
  · rfl

/-! ## A slot of a port that carries packets (R332) -/

/-- What goes out in a slot: a control block first, then a packet's block, or IDLE. -/
def Hub.sendSlot (h : Hub) (p lane : Nat) : Hub :=
  match takeCtl lane (h.prt p).link.ctl with
  | some (c, r) => ((h.setLink p fun k => { k with ctl := r }).setLane p lane fun l => l.put true (c.code * 2 ^ 56 + c.payload)).ctlSent p c
  | none =>
    match h.pickClass p with
    | some (cls, h') =>
      if (h'.prt p).link.txClass = cls then h'.sendPacketBlock p lane cls
      else (h'.setLink p fun k => { k with txClass := cls }).setLane p lane fun l => l.put true (0x1E * 2 ^ 56 + cls * 2 ^ 52)
    | none => h.setLane p lane fun l => l.put true (0x1E * 2 ^ 56)

/-- A block boundary has been counted. -/
def Hub.counted (h : Hub) (p : Nat) : Hub := h.setPort p fun q => { q with blk := q.blk + 1 }

section
variable {h : Hub} {p : Nat}

theorem Hub.blockBoundary_slot (present : p < h.nPorts) (carries : (h.prt p).st = .up ∨ (h.prt p).st = .plain)
    (slot : (h.prt p).blk / (h.prt p).txWidth < 1023) : h.blockBoundary p =
      (h.beside p (0x1E * 2 ^ 56) ((h.counted p).timecorDue p)).sendSlot p ((h.prt p).blk % (h.prt p).txWidth) := by
  have test : (h.prt p).st ≠ .test := by rcases carries with st | st <;> rw [st] <;> exact nofun
  have training : (h.prt p).st ≠ .training := by rcases carries with st | st <;> rw [st] <;> exact nofun
  have search : ¬((h.prt p).st = .search ∨ (h.prt p).st = .wiring) := by rcases carries with st | st <;> rw [st] <;> simp
  have prbs : (h.prt p).prbsPeriod = false := by rcases carries with st | st <;> simp [Port.prbsPeriod, st]
  have sends : (h.prt p).sends = true := by rcases carries with st | st <;> simp [Port.sends, st]
  unfold Hub.blockBoundary
  rw [if_neg (Nat.not_le.2 present), if_neg test, if_neg (by simp [prbs]), if_neg (by simp [sends])]
  dsimp only
  rw [if_neg (Nat.not_le.2 slot), if_neg search]
  simp only [if_neg training]
  rfl

theorem Hub.counted_view {α : Type} (h : Hub) (p i : Nat) (view : Port → α) (blind : ∀ (q : Port) (n :
    Nat), view { q with blk := n } = view q) :
    view ((h.counted p).prt i) = view (h.prt i) := h.setPort_prt_view p i (view := view) fun q => blind q _

theorem Hub.timecorDue_not (not : p = 0 ∨ (h.prt p).st ≠ .up ∨ (h.prt p).corSent = secOf h.tm.now + 1) : h.timecorDue p = h := by
  unfold Hub.timecorDue
  dsimp only
  refine if_neg ?_
  simp only [Bool.and_eq_true, beq_iff_eq, bne_iff_ne, ne_eq, decide_eq_true_eq, upstream]
  rintro ⟨⟨⟨⟨below, isUp⟩, other⟩, -⟩, -⟩
  rcases not with no | no | no
  · exact below no
  · exact no isUp
  · exact other no

/-- The hub after a block boundary but for what goes out on its lane. -/
def Hub.sided (h : Hub) (p : Nat) : Hub := h.beside p (0x1E * 2 ^ 56) (h.counted p)

theorem Hub.sided_view {α : Type} (h : Hub) (p i : Nat) (view : Port → α)
    (blind : ∀ (q : Port) (l : List Lane) (n : Nat), view { q with lanes := l, blk := n } = view q) : view ((h.sided p).prt i) = view
      (h.prt i) :=
  (h.beside_view p _ i _ view fun q l => blind q l q.blk).trans (h.counted_view p i view fun q n => blind q q.lanes n)

theorem Hub.sided_link (h : Hub) (p : Nat) : ((h.sided p).prt p).link = (h.prt p).link := h.sided_view p p Port.link fun _ _ _ => rfl

theorem Hub.sided_st (h : Hub) (p : Nat) : ((h.sided p).prt p).st = (h.prt p).st := h.sided_view p p Port.st fun _ _ _ => rfl

theorem Hub.sided_field {α : Type} (h : Hub) (p : Nat) (view : Hub → α) (blind : ∀ (g : Hub) (f :
    Port → Port), view (g.setPort p f) = view g) :
    view (h.sided p) = view h := (h.beside_field p _ _ view blind).trans (blind h _)

theorem Hub.sided_addressed (h : Hub) (p : Nat) : (h.sided p).addressed = h.addressed := h.sided_field p Hub.addressed fun _ _ => rfl

theorem Hub.blockBoundary_sends (present : p < h.nPorts) (carries : (h.prt p).st = .up ∨ (h.prt p).st = .plain)
    (slot : (h.prt p).blk / (h.prt p).txWidth < 1023)
    (noCor : p = 0 ∨ (h.prt p).st = .plain ∨ (h.prt p).corSent = secOf h.tm.now + 1) :
    h.blockBoundary p = (h.sided p).sendSlot p ((h.prt p).blk % (h.prt p).txWidth) := by
  rw [Hub.blockBoundary_slot present carries slot, Hub.timecorDue_not]
  · rfl
  · have st : ((h.counted p).prt p).st = (h.prt p).st := h.counted_view p p Port.st fun _ _ => rfl
    have cor : ((h.counted p).prt p).corSent = (h.prt p).corSent := h.counted_view p p Port.corSent fun _ _ => rfl
    rw [st, cor]
    exact noCor.imp_right (Or.imp_left fun plain => by rw [plain]; exact nofun)

/-! ## The control blocks that follow (R310, R348) -/

theorem Hub.ctlSent_quiet {c : CtlBlock} (quiet : p ≠ 0 ∨ (c.code ≠ 0xCC ∧ c.code ≠ 0x66)) : h.ctlSent p c = h := by
  unfold Hub.ctlSent
  rcases quiet with below | ⟨depart, request⟩
  · rw [if_neg fun all => below all.1]
    split
    · exact if_pos (.inl (by simpa [upstream] using below))
    · rfl
  · rw [if_neg fun all => depart all.2.1, if_neg fun both => request both.1]

theorem takeCtl_first {lane : Nat} {c : CtlBlock} {r : List CtlBlock} (other : c.code ≠ 0x87) : takeCtl lane (c :: r) = some (c, r) :=
  if_neg fun both => other both.1
end

@[simp] theorem Hub.freeCoach_portCores (h : Hub) (d seq : Nat) : (h.freeCoach d seq).portCores = h.portCores := by
  simp only [Hub.freeCoach, ↓Hub.setCoach_portCores]
@[simp] theorem Hub.freeAcked_portCores (h : Hub) (k : FlowKey) (gone : Word → Bool) : (h.freeAcked k gone).portCores = h.portCores := by
  simp only [Hub.freeAcked, ↓Hub.freeCoach_portCores, ↓Hub.retryWait_portCores, ↓forAll_portCores, ↓apply_ite Hub.portCores, ite_self,
    implies_true]
@[simp] theorem Hub.streamSent_portCores (h : Hub) (p : Nat) (key : FlowKey) (seq : Word) :
    (h.streamSent p key seq).portCores = h.portCores := by
  unfold Hub.streamSent
  repeat' split
  all_goals simp only [↓Hub.flowTouch_portCores, ↓Hub.freeAcked_portCores, ↓Hub.setFlow_portCores]

end Sys2Proof.Machine
end


section
/-! PROOFS. Which packet a port's next block is of (R332, R336), and the MARK of a lane (R303, R311). -/

namespace Sys2Proof.Machine

section
variable {h : Hub} {p : Nat}

/-- Nothing waits on a port for any class (R332). -/
def Hub.Idle (h : Hub) (p : Nat) : Prop :=
  (h.prt p).link.again = [] ∧ (h.prt p).link.queues = [[], [], [], []] ∧ h.readyFlows p = []

theorem Hub.nextNew_none {cls : Nat} (other : cls ≠ 4) (empty : (h.prt p).link.queues.getD (cls - 1) [] = []) : h.nextNew p cls = none := by
  unfold Hub.nextNew
  dsimp only
  rw [if_pos other, empty]

theorem Hub.nextNew_stream_none (empty : (h.prt p).link.queues.getD 3 [] = []) (flows : h.readyFlows p = []) : h.nextNew p 4 = none := by
  unfold Hub.nextNew
  dsimp only
  rw [if_neg (by decide), empty, flows]
  split
  · rfl
  · rfl

theorem Hub.nextNew_queue {cls : Nat} {f : Frame} {fs : List Frame} (other : cls ≠ 4) (queue : (h.prt p).link.queues.getD (cls - 1) [] = f :: fs)
    (may : h.mayStart p f = true) : h.nextNew p cls = some (f, h.setLink p fun k => { k with queues := modAt k.queues (cls - 1) fun _ => fs }) := by
  unfold Hub.nextNew
  dsimp only
  rw [if_pos other, queue]
  exact if_pos may

theorem Hub.pickClass_unaddressed (hub : (h.prt p).st ≠ .plain) (unaddressed : h.addressed = false) : h.pickClass p = none :=
  if_pos ⟨hub, by simp [unaddressed]⟩

/-- A class of the link that has no packet under way. -/
def Hub.start (h : Hub) (p cls : Nat) (f : Frame) : Hub :=
  h.setLink p fun k => { k with active := modAt k.active (cls - 1) fun _ => some (f, f.blocks, none) }

/-- A class whose packet under way is sent once more (R338). -/
def Port.replays (q : Port) (cls : Nat) : Bool :=
  match q.link.active.getD (cls - 1) none with | some (_, _, s) => s.isSome | none => false

/-- What a class sends next (R332). -/
def Hub.tries (h : Hub) (p cls : Nat) : Option (Nat × Hub) :=
  match (h.prt p).link.active.getD (cls - 1) none with
  | some _ => some (cls, h)
  | none => (h.nextNew p cls).map fun x => (cls, x.2.start p cls x.1)

section
variable (runs : (h.prt p).st = .plain ∨ h.addressed = true)
include runs

theorem Hub.may_send : ¬((h.prt p).st ≠ .plain ∧ (!h.addressed) = true) := by
  rintro ⟨hub, unaddressed⟩
  rcases runs with plain | addressed
  · exact hub plain
  · simp [addressed] at unaddressed

theorem Hub.pickClass_replays {cls : Nat} (replays : [1, 2, 3, 4].find? (h.prt p).replays = some cls) : h.pickClass p = some (cls, h) := by
  unfold Hub.pickClass
  dsimp only
  rw [if_neg (Hub.may_send runs)]
  split
  · next found =>
    cases replays.symm.trans found
    rfl
  · next found _ => exact nomatch replays.symm.trans found
  · next found _ => exact nomatch replays.symm.trans found

theorem Hub.pickClass_tries (replays : [1, 2, 3, 4].find? (h.prt p).replays = none) (again : (h.prt p).link.again = []) :
    h.pickClass p = [1, 2, 3, 4].findSome? (h.tries p) := by
  unfold Hub.pickClass
  dsimp only
  rw [if_neg (Hub.may_send runs)]
  split
  · next found => exact nomatch replays.symm.trans found
  · next waits => exact nomatch again.symm.trans waits
  · rfl

/-- A packet that is under way goes on (R331, R332). -/
theorem Hub.pickClass_active {cls left : Nat} {f : Frame} {seq : Option Nat} (idle : h.Idle p) (least : 1 ≤ cls) (most : cls ≤ 4)
    (active : (h.prt p).link.active = ([none, none, none, none] : List (Option (Frame × Nat × Option Nat))).set (cls - 1) (some (f, left, seq))) :
    h.pickClass p = some (cls, h) := by
  obtain ⟨again, queues, flows⟩ := idle
  have quiet (i : Nat) (early : i ≠ 4) (low : i - 1 < 4) : h.nextNew p i = none :=
    Hub.nextNew_none early (by rw [queues]; rcases (by omega : i - 1 = 0 ∨ i - 1 = 1 ∨ i - 1 = 2 ∨ i - 1 = 3) with n | n | n | n <;> rw [n] <;> rfl)
  have one := quiet 1 (by decide) (by decide)
  have two := quiet 2 (by decide) (by decide)
  have three := quiet 3 (by decide) (by decide)
  rcases (by omega : cls = 1 ∨ cls = 2 ∨ cls = 3 ∨ cls = 4) with rfl | rfl | rfl | rfl
  all_goals cases seq with
  | none =>
    rw [Hub.pickClass_tries runs (by simp [Port.replays, active]) again]
    simp [Hub.tries, active, one, two, three]
  | some s =>
    refine Hub.pickClass_replays runs ?_
    simp [Port.replays, active]

/-- The next packet of the lowest class that has one begins (R332). -/
theorem Hub.pickClass_queue {cls : Nat} {f : Frame} {fs : List Frame} (again : (h.prt p).link.again = [])
    (active : (h.prt p).link.active = [none, none, none, none]) (least : 1 ≤ cls) (most : cls ≤ 3)
    (queues : (h.prt p).link.queues = ([[], [], [], []] : List (List Frame)).set (cls - 1) (f :: fs)) (may : h.mayStart p f = true) :
    h.pickClass p = some (cls, (h.setLink p fun k => { k with queues := modAt k.queues (cls - 1) fun _ => fs }).start p cls f) := by
  have next : h.nextNew p cls = some (f, h.setLink p fun k => { k with queues := modAt k.queues (cls - 1) fun _ => fs }) := by
    refine Hub.nextNew_queue (by omega) ?_ may
    rw [queues]
    rcases (by omega : cls = 1 ∨ cls = 2 ∨ cls = 3) with rfl | rfl | rfl <;> rfl
  have early (i : Nat) (low : 1 ≤ i) (before : i < cls) : h.nextNew p i = none := by
    refine Hub.nextNew_none (by omega) ?_
    rw [queues]
    rcases (by omega : cls = 2 ∧ i = 1 ∨ cls = 3 ∧ i = 1 ∨ cls = 3 ∧ i = 2) with ⟨rfl, rfl⟩ | ⟨rfl, rfl⟩ | ⟨rfl, rfl⟩ <;> rfl
  rw [Hub.pickClass_tries runs (by simp [Port.replays, active]) again]
  rcases (by omega : cls = 1 ∨ cls = 2 ∨ cls = 3) with rfl | rfl | rfl
  · simp [Hub.tries, active, next]
  · simp [Hub.tries, active, next, early 1 (by decide) (by decide)]
  · simp [Hub.tries, active, next, early 1 (by decide) (by decide), early 2 (by decide) (by decide)]

theorem Hub.pickClass_idle (idle : h.Idle p) (active : (h.prt p).link.active = [none, none, none, none]) : h.pickClass p = none := by
  obtain ⟨again, queues, flows⟩ := idle
  have one : h.nextNew p 1 = none := Hub.nextNew_none (by decide) (by rw [queues]; rfl)
  have two : h.nextNew p 2 = none := Hub.nextNew_none (by decide) (by rw [queues]; rfl)
  have three : h.nextNew p 3 = none := Hub.nextNew_none (by decide) (by rw [queues]; rfl)
  have four : h.nextNew p 4 = none := Hub.nextNew_stream_none (by rw [queues]; rfl) flows
  rw [Hub.pickClass_tries runs (by simp [Port.replays, active]) again]
  simp [Hub.tries, active, one, two, three, four]
end

/-! ## What goes out in a slot -/

variable {lane : Nat}

theorem Hub.sendSlot_ctl {c : CtlBlock} {r : List CtlBlock} (waits : (h.prt p).link.ctl = c :: r) (other : c.code ≠ 0x87)
    (quiet : p ≠ 0 ∨ (c.code ≠ 0xCC ∧ c.code ≠ 0x66)) : h.sendSlot p lane =
      (h.setLink p fun k => { k with ctl := r }).setLane p lane fun l => l.put true (c.code * 2 ^ 56 + c.payload) := by
  unfold Hub.sendSlot
  rw [waits, takeCtl_first other]
  exact Hub.ctlSent_quiet quiet

theorem Hub.sendSlot_idle (none' : (h.prt p).link.ctl = []) (still : h.pickClass p = none) :
    h.sendSlot p lane = h.setLane p lane fun l => l.put true (0x1E * 2 ^ 56) := by
  unfold Hub.sendSlot
  rw [none', takeCtl, still]

theorem Hub.sendSlot_packet {cls : Nat} {k : Hub} (none' : (h.prt p).link.ctl = []) (picks : h.pickClass p = some (cls, k)) :
    h.sendSlot p lane = if (k.prt p).link.txClass = cls then k.sendPacketBlock p lane cls
      else (k.setLink p fun l => { l with txClass := cls }).setLane p lane fun l => l.put true (0x1E * 2 ^ 56 + cls * 2 ^ 52) := by
  unfold Hub.sendSlot
  rw [none', takeCtl, picks]

theorem Hub.sendPacketBlock_goesOn {cls left : Nat} {f : Frame} {seq : Option Nat}
    (active : (h.prt p).link.active.getD (cls - 1) none = some (f, left, seq)) (more : 1 < left) :
    h.sendPacketBlock p lane cls = (h.setLane p lane fun l => l.put false (f.block (f.blocks - left)
      (if (h.prt p).st = .plain then 0 else seq.getD (h.prt p).link.txSeq))).setLink p fun k => { k with
        active := modAt k.active (cls - 1) fun _ => some (f, left - 1, seq) } := by
  unfold Hub.sendPacketBlock
  dsimp only
  rw [active]
  exact if_neg (Nat.not_le.2 more)

theorem Hub.sendPacketBlock_ends {cls left : Nat} {f : Frame} {seq : Option Nat}
    (active : (h.prt p).link.active.getD (cls - 1) none = some (f, left, seq)) (last : left ≤ 1) :
    h.sendPacketBlock p lane cls = (h.setLane p lane fun l => l.put false (f.block (f.blocks - left)
      (if (h.prt p).st = .plain then 0 else seq.getD (h.prt p).link.txSeq))).frameSent p f seq := by
  unfold Hub.sendPacketBlock
  dsimp only
  rw [active]
  exact if_pos last
end

end Sys2Proof.Machine
end

section
/-! PROOFS. Enumeration of a tree and the blocks of a port (R301, R303, R308, R311, R332, R343 to R348). -/

namespace Sys2Proof.Machine

section
variable {h : Hub} {p lane : Nat}

/-! ## What a packet's last block leaves (R337) -/

/-- A packet whose last block has gone, as its link keeps it (R337). -/
def Hub.sentLink (h : Hub) (p : Nat) (f : Frame) (seq : Option Nat) : Hub :=
  h.setLink p fun k =>
    let k := { k with active := modAt k.active (f.cls - 1) fun _ => none }
    if !((h.prt p).st != .plain) || f.abort then k
    else match seq with
      | some s => if k.replay.any fun x => x.1 == s then { k with sentAt := (k.sentAt.filter fun x => x.1 != s) ++ [(s, h.clk.elapsed)] } else k
      | none =>
        { k with txSeq := (k.txSeq + 1) % 65536, replay := k.replay ++ [(k.txSeq, f)],
                 again := if k.again.isEmpty then [] else k.again ++ [(k.txSeq, f)], sentAt := k.sentAt ++ [(k.txSeq, h.clk.elapsed)],
                 ackAt := if k.replay.isEmpty then h.clk.elapsed else k.ackAt }

theorem Hub.frameSent_sendings (f : Frame) (seq : Option Nat) : (h.frameSent p f seq).sendings = (h.sentLink p f seq).sendings := by
  unfold Hub.frameSent
  dsimp only
  split
  · exact Hub.streamSent_sendings ..
  · split <;> rfl
  · rfl

theorem Hub.frameSent_portCores (f : Frame) (seq : Option Nat) : (h.frameSent p f seq).portCores = h.portCores := by
  have link : (h.sentLink p f seq).portCores = h.portCores := Hub.setLink_portCores ..
  refine Eq.trans ?_ link
  unfold Hub.frameSent
  dsimp only
  split
  · exact Hub.streamSent_portCores ..
  · split <;> rfl
  · rfl

theorem Hub.prt_sending_of {h k : Hub} (same : k.sendings = h.sendings) (p : Nat) : (k.prt p).sending = (h.prt p).sending := by
  have view (g : Hub) : (g.prt p).sending = g.sendings.getD p Port.reset.sending := by rw [Hub.sendings, List.getD_map, Hub.prt]
  rw [view, view, same]

theorem Hub.frameSent_active (there : h.ports[p]? = some (h.prt p)) (f : Frame) (seq : Option Nat) :
    ((h.frameSent p f seq).prt p).link.active = modAt (h.prt p).link.active (f.cls - 1) fun _ => none := by
  have sending := congrArg Prod.fst (Hub.prt_sending_of (Hub.frameSent_sendings (h := h) (p := p) f seq) p)
  have link : ((h.sentLink p f seq).prt p).link.active = modAt (h.prt p).link.active (f.cls - 1) fun _ => none := by
    rw [Hub.sentLink, Hub.setLink, h.setPort_prt_same there]
    dsimp only
    split
    · rfl
    · split
      · split <;> rfl
      · rfl
  exact sending.trans link

/-- A new packet of a hub's port takes the next SEQ and is held until its ACK (R337). -/
theorem Hub.frameSent_held (there : h.ports[p]? = some (h.prt p)) {f : Frame} (hub : (h.prt p).st ≠ .plain) (whole : f.abort = false) :
    ((h.frameSent p f none).prt p).link.txSeq = ((h.prt p).link.txSeq + 1) % 65536 ∧
      ((h.frameSent p f none).prt p).link.replay = (h.prt p).link.replay ++ [((h.prt p).link.txSeq, f)] := by
  have sending := congrArg Prod.snd (Hub.prt_sending_of (Hub.frameSent_sendings (h := h) (p := p) f none) p)
  have not : ¬(!((h.prt p).st != .plain) || f.abort) = true := by simp [hub, whole]
  rw [Hub.sentLink, Hub.setLink, h.setPort_prt_same there] at sending
  dsimp only at sending
  rw [if_neg not] at sending
  exact ⟨congrArg Prod.fst sending, congrArg Prod.snd sending⟩

/-! ## A slot keeps what is no part of the link or the lanes -/

theorem Hub.nextNew_portCores {cls : Nat} {x : Frame × Hub} (next : h.nextNew p cls = some x) : x.2.portCores = h.portCores := by
  have queue (n : Option (Frame × Hub)) (found : n = some x) (from' : n = match (h.prt p).link.queues.getD (cls - 1) [] with
      | f :: r => if h.mayStart p f then some (f, h.setLink p fun k => { k with queues := modAt k.queues (cls - 1) fun _ => r }) else none
      | [] => none) : x.2.portCores = h.portCores := by
    rw [found] at from'
    split at from'
    · split at from'
      · cases from'
        exact Hub.setLink_portCores ..
      · cases from'
    · cases from'
  unfold Hub.nextNew at next
  dsimp only at next
  split at next
  · exact queue _ next rfl
  · split at next
    · cases next
    · split at next
      · exact queue _ next rfl
      · split at next
        · cases next
        · split at next
          · cases next
            have tick : h.tick.portCores = h.portCores := rfl
            simp only [Hub.setFlow_portCores, apply_ite Hub.portCores, tick, ite_self]
          · cases next

theorem Hub.pickClass_portCores {cls : Nat} {k : Hub} (picks : h.pickClass p = some (cls, k)) : k.portCores = h.portCores := by
  have start (g : Hub) (cls : Nat) (f : Frame) (seq : Option Nat) : (g.setLink p fun k => { k with
      active := modAt k.active (cls - 1) fun _ => some (f, f.blocks, seq) }).portCores = g.portCores := Hub.setLink_portCores ..
  unfold Hub.pickClass at picks
  dsimp only at picks
  split at picks
  · cases picks
  · split at picks
    · cases picks
      rfl
    · split at picks
      · cases picks
        rfl
      · cases picks
        exact (start _ _ _ _).trans (Hub.setLink_portCores ..)
    · obtain ⟨i, -, found⟩ := List.exists_of_findSome?_eq_some picks
      split at found
      · cases found
        rfl
      · obtain ⟨x, next, same⟩ := Option.map_eq_some_iff.1 found
        cases same
        exact (start ..).trans (Hub.nextNew_portCores next)

theorem Hub.setLane_corSent (l : Nat) (f : Lane → Lane) : ((h.setLane p l f).prt p).corSent = (h.prt p).corSent :=
  h.setPort_prt_view p p (view := Port.corSent) (by intro; rfl)

theorem Hub.corSent_of_portCores {k : Hub} (same : k.portCores = h.portCores) : (k.prt p).corSent = (h.prt p).corSent := by
  have core := congrArg Port.corSent (Hub.prt_core_of_portCores same p)
  exact core

theorem Hub.sendPacketBlock_corSent (cls : Nat) : ((h.sendPacketBlock p lane cls).prt p).corSent = (h.prt p).corSent := by
  unfold Hub.sendPacketBlock
  dsimp only
  split
  · rfl
  · split
    · exact (Hub.corSent_of_portCores (Hub.frameSent_portCores ..)).trans (Hub.setLane_corSent ..)
    · exact (Hub.corSent_of_portCores (Hub.setLink_portCores ..)).trans (Hub.setLane_corSent ..)

theorem Hub.sendSlot_corSent (below : p ≠ 0) : ((h.sendSlot p lane).prt p).corSent = (h.prt p).corSent := by
  have link (g : Hub) (f : Link → Link) : ((g.setLink p f).prt p).corSent = (g.prt p).corSent :=
    Hub.corSent_of_portCores (Hub.setLink_portCores ..)
  unfold Hub.sendSlot
  split
  · rw [Hub.ctlSent_quiet (.inl below), Hub.setLane_corSent, link]
  · split
    · next picks =>
      have kept := Hub.corSent_of_portCores (p := p) (Hub.pickClass_portCores picks)
      split
      · rw [Hub.sendPacketBlock_corSent, kept]
      · rw [Hub.setLane_corSent, link, kept]
    · exact Hub.setLane_corSent ..

/-- TIMECOR of the next second is queued once (R110). -/
theorem Hub.timecorDue_once (there : h.ports[p]? = some (h.prt p)) (below : p ≠ 0) (isUp : (h.prt p).st = .up)
    (unsent : (h.prt p).corSent ≠ secOf h.tm.now + 1) (near : (secOf h.tm.now + 1) * fuSec - h.tm.now ≤ fuSec / 10)
    (far : fuSec / 100 ≤ (secOf h.tm.now + 1) * fuSec - h.tm.now) : ((h.timecorDue p).prt p).corSent = secOf h.tm.now + 1 := by
  unfold Hub.timecorDue
  dsimp only
  rw [if_pos (by simp [upstream, below, isUp, unsent, near, far])]
  have stays (g : Hub) (same : g.ports.length = h.ports.length) : g.ports[p]? = some (g.prt p) :=
    Hub.there_of_lt (same ▸ (List.getElem?_eq_some_iff.1 there).1)
  have step (g : Hub) (code b : Nat) : (g.ctl p code b).ports.length = g.ports.length := by simp [Hub.ctl, Hub.setLink]
  rw [Hub.setPort_prt_same _ (stays _ (by split <;> simp only [step]))]
end

/-! ## The MARK of a lane (R303) -/

section
variable {h : Hub} {p lane : Nat}

theorem Hub.setLane_mcounts (h : Hub) (p l : Nat) (f : Lane → Lane) : (h.setLane p l f).mcounts = h.mcounts :=
  h.setPort_mcounts p (by intro; rfl)

theorem Hub.sideBlock_mcounts (h : Hub) (p : Nat) (b : Nat → Nat) : (h.sideBlock p b).mcounts = h.mcounts :=
  forAll_mcounts _ (fun i g => g.setLane_mcounts p i _) _ h

/-- L0's MARK moves MCOUNT on (R303). -/
def Hub.countMark (h : Hub) (p lane : Nat) : Hub :=
  if lane = 0 then h.setPort p fun q => { q with mcount := (q.mcount + 1) % 2 ^ 40 } else h

theorem Hub.sendMark_mcounts : (h.sendMark p lane).mcounts = (h.countMark p lane).mcounts := by
  have reset (g : Hub) : (g.setPort p fun q => { q with blk := 0 }).mcounts = g.mcounts := g.setPort_mcounts p fun _ => rfl
  unfold Hub.sendMark
  dsimp only
  rw [← Hub.countMark]
  generalize h.countMark p lane = g
  split <;> simp only [apply_ite Hub.mcounts, Hub.enterStep_mcounts, Hub.applyWidth_mcounts, reset, Hub.sideBlock_mcounts,
    Hub.setLane_mcounts, ite_self]

theorem Hub.countMark_view {α : Type} (h : Hub) (p lane i : Nat) (view : Port → α) (blind : ∀ (q : Port) (n : Nat), view { q with mcount := n } = view q) :
    view (((h.countMark p lane).prt i)) = view (h.prt i) := by
  unfold Hub.countMark
  split
  · exact h.setPort_prt_view p i (view := view) fun q => blind q _
  · rfl

theorem Hub.prt_mcount_of {h k : Hub} (same : k.mcounts = h.mcounts) (p : Nat) : (k.prt p).mcount = (h.prt p).mcount := by
  have view (g : Hub) : (g.prt p).mcount = g.mcounts.getD p Port.reset.mcount := by rw [Hub.mcounts, List.getD_map, Hub.prt]
  rw [view, view, same]

theorem Hub.sendMark_mcount (there : h.ports[p]? = some (h.prt p)) :
    ((h.sendMark p lane).prt p).mcount = if lane = 0 then ((h.prt p).mcount + 1) % 2 ^ 40 else (h.prt p).mcount := by
  rw [Hub.prt_mcount_of Hub.sendMark_mcounts, Hub.countMark]
  split
  · rw [h.setPort_prt_same there]
  · rfl

theorem Hub.lastMark (g : Hub) (there : g.ports[p]? = some (g.prt p)) (lane b : Nat) (mark : Nat → Nat) :
    let k := ((g.setLane p lane fun l => l.put true b).sideBlock p mark).setPort p fun q => { q with blk := 0 }
    (k.prt p).run = (g.prt p).run ∧ (k.prt p).blk = 0 ∧ (k.prt p).link = (g.prt p).link := by
  have put {α : Type} (view : Port → α) (blind : ∀ (q : Port) (l : List Lane), view { q with lanes := l } = view q) :
      view (((g.setLane p lane fun l => l.put true b).sideBlock p mark).prt p) = view (g.prt p) :=
    (Hub.sideBlock_view _ p p _ view blind).trans (g.setPort_prt_view p p (view := view) fun q => blind q _)
  have length := Hub.sideBlock_field (g.setLane p lane fun l => l.put true b) p mark (fun g => g.ports.length) fun g f => by simp
  have here : ((g.setLane p lane fun l => l.put true b).sideBlock p mark).ports[p]? =
      some (((g.setLane p lane fun l => l.put true b).sideBlock p mark).prt p) := by
    refine Hub.there_of_lt ?_
    rw [length]
    simpa [Hub.setLane] using (List.getElem?_eq_some_iff.1 there).1
  dsimp only
  rw [Hub.setPort_prt_same _ here]
  exact ⟨put Port.run fun _ _ => rfl, rfl, put Port.link fun _ _ => rfl⟩

/-- With no change of rate or width at it, a MARK begins the count of the next 1,023 blocks after the last lane's (R303). -/
theorem Hub.sendMark_quiet (there : h.ports[p]? = some (h.prt p)) (noRun : (h.prt p).run = none) (noWidth : (h.prt p).widthRun = none) :
    ((h.sendMark p lane).prt p).blk = (if lane + 1 = (h.prt p).txWidth then 0 else (h.prt p).blk) ∧
      ((h.sendMark p lane).prt p).link = (h.prt p).link := by
  have width := (h.countMark_view p lane p Port.widthRun fun _ _ => rfl).trans noWidth
  have txWidth := h.countMark_view p lane p Port.txWidth fun _ _ => rfl
  have blk := h.countMark_view p lane p Port.blk fun _ _ => rfl
  have link := h.countMark_view p lane p Port.link fun _ _ => rfl
  have run := (h.countMark_view p lane p Port.run fun _ _ => rfl).trans noRun
  have here : (h.countMark p lane).ports[p]? = some ((h.countMark p lane).prt p) := by
    refine Hub.there_of_lt ?_
    have length : (h.countMark p lane).ports.length = h.ports.length := by
      unfold Hub.countMark
      split <;> simp
    exact length ▸ (List.getElem?_eq_some_iff.1 there).1
  unfold Hub.sendMark
  dsimp only
  rw [← Hub.countMark]
  rw [← txWidth, ← blk, ← link]
  clear txWidth blk link
  generalize h.countMark p lane = g at *
  rw [width]
  dsimp only
  simp only [Bool.and_false, Bool.false_and, Bool.false_eq_true, if_false, decide_eq_true_eq]
  have put (b : Nat) {α : Type} (view : Port → α) (blind : ∀ (q : Port) (l : List Lane), view { q with lanes := l } = view q) :
      view ((g.setLane p lane fun l => l.put true b).prt p) = view (g.prt p) := g.setPort_prt_view p p (view := view) fun q => blind q _
  by_cases last : lane + 1 = (g.prt p).txWidth
  · simp only [if_pos last]
    obtain ⟨run', blk, link⟩ := g.lastMark here lane (45 * 2 ^ 56 + lane * 2 ^ 48 + max 1 (g.prt p).width * 2 ^ 40 + (g.prt p).mcount)
      fun i => 45 * 2 ^ 56 + i * 2 ^ 48 + max 1 (g.prt p).width * 2 ^ 40 + (g.prt p).mcount
    rw [run', run]
    exact ⟨blk, link⟩
  · simp only [if_neg last]
    rw [(put _ Port.run fun _ _ => rfl).trans run]
    exact ⟨put _ Port.blk fun _ _ => rfl, put _ Port.link fun _ _ => rfl⟩
end

theorem Hub.sendArrive_portCores (h : Hub) : h.sendArrive.portCores = h.portCores := by
  unfold Hub.sendArrive
  split
  · exact Hub.ctl_portCores ..
  · rfl

/-! ## The slot of the block boundary -/

section
variable {h : Hub} {p : Nat}

theorem Hub.setLink_there (there : h.ports[p]? = some (h.prt p)) (f : Link → Link) :
    (h.setLink p f).ports[p]? = some ((h.setLink p f).prt p) ∧ ((h.setLink p f).prt p).link = f (h.prt p).link := by
  have found := h.setPort_getElem?_same there fun q => { q with link := f q.link }
  have same := h.setPort_prt_same there fun q => { q with link := f q.link }
  exact ⟨found.trans (congrArg some same.symm), congrArg Port.link same⟩

theorem Hub.setLane_there (there : h.ports[p]? = some (h.prt p)) (l : Nat) (f : Lane → Lane) :
    (h.setLane p l f).ports[p]? = some ((h.setLane p l f).prt p) ∧ ((h.setLane p l f).prt p).link = (h.prt p).link ∧
      ((h.setLane p l f).prt p).st = (h.prt p).st := by
  have found := h.setPort_getElem?_same there fun q => { q with lanes := modAt q.lanes l f }
  have same := h.setPort_prt_same there fun q => { q with lanes := modAt q.lanes l f }
  exact ⟨found.trans (congrArg some same.symm), (congrArg Port.link same).trans rfl, (congrArg Port.st same).trans rfl⟩

theorem Hub.setLane_setLink_link (there : h.ports[p]? = some (h.prt p)) (l : Nat) (g : Lane → Lane) (f : Link → Link) :
    (((h.setLane p l g).setLink p f).prt p).link = f (h.prt p).link := by
  obtain ⟨there', link, -⟩ := Hub.setLane_there there l g
  rw [(Hub.setLink_there there' f).2, link]

theorem Hub.setLink_setLane_link (there : h.ports[p]? = some (h.prt p)) (l : Nat) (g : Lane → Lane) (f : Link → Link) :
    (((h.setLink p f).setLane p l g).prt p).link = f (h.prt p).link := by
  obtain ⟨there', link⟩ := Hub.setLink_there there f
  rw [(Hub.setLane_there there' l g).2.1, link]

theorem Hub.counted_there (present : p < h.ports.length) : (h.counted p).ports[p]? = some ((h.counted p).prt p) :=
  Hub.there_of_lt (by simpa [Hub.counted] using present)

theorem Hub.sided_there (present : p < h.ports.length) : (h.sided p).ports[p]? = some ((h.sided p).prt p) := by
  refine Hub.there_of_lt ?_
  rwa [h.sided_field p (fun g => g.ports.length) fun g f => by simp]

theorem Hub.sided_readyFlows (h : Hub) (p : Nat) : (h.sided p).readyFlows p = h.readyFlows p := by
  have flows : (h.sided p).flows = h.flows := h.sided_field p Hub.flows fun _ _ => rfl
  unfold Hub.readyFlows Hub.feedsPort
  rw [flows, Hub.sided_st]

theorem Hub.sided_mayStart (h : Hub) (p : Nat) (f : Frame) : (h.sided p).mayStart p f = h.mayStart p f := by
  unfold Hub.mayStart
  dsimp only
  rw [Hub.sided_st, Hub.sided_link, Hub.sided_addressed]

theorem Hub.sided_idle (idle : h.Idle p) : (h.sided p).Idle p := by
  obtain ⟨again, queues, flows⟩ := idle
  exact ⟨by rw [Hub.sided_link, again], by rw [Hub.sided_link, queues], by rw [Hub.sided_readyFlows, flows]⟩

/-- In SEARCH the blocks of R308 take turns on all the data lanes (R308). -/
theorem Hub.blockBoundary_search (present : p < h.nPorts) (searches : (h.prt p).st = .search ∨ (h.prt p).st = .wiring)
    (slot : (h.prt p).blk < 1023) : h.blockBoundary p = ((h.counted p).setLane p 0 fun l => l.put true
      (0x66 * 2 ^ 56 + (if (h.prt p).blk % 2 = 0 then helloBits p (h.prt p) else serialBits h.ident.serial))).sideBlock p fun _ =>
        0x66 * 2 ^ 56 + (if (h.prt p).blk % 2 = 0 then helloBits p (h.prt p) else serialBits h.ident.serial) := by
  have test : (h.prt p).st ≠ .test := by rcases searches with st | st <;> rw [st] <;> exact nofun
  have prbs : (h.prt p).prbsPeriod = false := by rcases searches with st | st <;> simp [Port.prbsPeriod, st]
  have sends : (h.prt p).sends = true := by rcases searches with st | st <;> simp [Port.sends, st]
  have one : (h.prt p).txWidth = 1 := if_neg (by rcases searches with st | st <;> simp [st])
  unfold Hub.blockBoundary
  rw [if_neg (Nat.not_le.2 present), if_neg test, if_neg (by simp [prbs]), if_neg (by simp [sends])]
  dsimp only
  rw [one, Nat.div_one, Nat.mod_one, if_neg (Nat.not_le.2 slot), if_pos searches]
  rfl

theorem Hub.blockBoundary_mark (present : p < h.nPorts) (quiet : (h.prt p).st ≠ .test) (prbs : (h.prt p).prbsPeriod = false)
    (sends : (h.prt p).sends = true) (slot : 1023 ≤ (h.prt p).blk / (h.prt p).txWidth) :
    h.blockBoundary p = (h.counted p).sendMark p ((h.prt p).blk % (h.prt p).txWidth) := by
  unfold Hub.blockBoundary
  rw [if_neg (Nat.not_le.2 present), if_neg quiet, if_neg (by simp [prbs]), if_neg (by simp [sends])]
  exact if_pos slot
end

/-- Nothing of the active packets is left once the only one has gone. -/
theorem actives_cleared {α : Type} (x : Option α) {cls : Nat} (least : 1 ≤ cls) (most : cls ≤ 4) :
    modAt (([none, none, none, none] : List (Option α)).set (cls - 1) x) (cls - 1) (fun _ => none) = [none, none, none, none] := by
  rcases (by omega : cls = 1 ∨ cls = 2 ∨ cls = 3 ∨ cls = 4) with rfl | rfl | rfl | rfl <;> rfl

theorem actives_getD {α : Type} (x : Option α) {cls : Nat} (least : 1 ≤ cls) (most : cls ≤ 4) :
    (([none, none, none, none] : List (Option α)).set (cls - 1) x).getD (cls - 1) none = x := by
  rcases (by omega : cls = 1 ∨ cls = 2 ∨ cls = 3 ∨ cls = 4) with rfl | rfl | rfl | rfl <;> rfl

end Sys2Proof.Machine

open Sys2Proof Sys2Proof.Machine

/-- Settles O41. A step of a round is the case of `token`, `searchReturn` or `searchClose` that the state of the round names; a block
boundary is `sendSlot` on the hub whose lanes beside the width have sent (R332), or `sendMark` at the 1,024th (R303). That a boundary in TEST
stands for 66 line bits a lane with the port's MCOUNT is the model's choice (log entry 146, DESIGN CHOICE), and that HELLO and SERIAL take
turns in SEARCH its reading of R308 (log entry 67, DEDUCED). -/
theorem enumeration : Obligations.Enumeration := by
  unfold Obligations.Enumeration
  refine ⟨fun s p round next n2 full b => ?round, fun s p cls left c r f seq => ?block⟩
  case round =>
    refine ⟨fun no => next_same (if_pos (by simpa only [ne_eq] using no)), fun isUp least most => ?opens, fun other => next_same (Hub.token_other other),
      fun round' isUp eligible free => ?claims, fun round' isUp eligible used => ?fullUp,
      fun round' isUp done unrecorded => next_congr (Hub.token_returns round' isUp done unrecorded),
      fun round' isUp done recorded => next_congr (Hub.token_through round' isUp done recorded),
      fun other => ⟨next_same (if_pos other), next_same (if_pos other)⟩,
      fun round' through first => next_congr (Hub.searchReturn_through round' through first),
      fun own unasked => next_same (Hub.searchReturn_unasked own unasked), fun rest n fl round' own walk present => ?asked,
      fun a round' eligible pending => ?commits, fun round' unclaimed => ?uncommits, fun round' done claimed => ?keeps,
      fun stays => ⟨?claimStays, next_same (Hub.upward_stays stays), next_same (Hub.upward_stays stays)⟩,
      fun below booted isUp => ⟨next_congr (Hub.upward_goes below booted isUp), next_congr (Hub.upward_goes below booted isUp),
        fun same => next_congr ((Hub.claimBlock_same same).trans (Hub.upward_goes below booted isUp))⟩,
      fun part other => next_same (Hub.claimBlock_other part other), fun u since unclaimed unaddressed isUp late => ?repeats,
      fun not => next_same ?still⟩
    case opens =>
      have enm := forAll_ctl_enm (s.hub.opened round).recordedPorts 0x99 (searchBits 0 round 0 false) (s.hub.opened round)
      have cores := forAll_ctl_portCores (s.hub.opened round).recordedPorts 0x99 (searchBits 0 round 0 false) (s.hub.opened round)
      refine ⟨_, next_congr (Hub.searchOpen_opens isUp least most), congrArg Enum.round enm, congrArg Enum.eligible enm, congrArg Enum.pending enm,
        congrArg Enum.claimed enm, (congrArg Enum.addr enm).trans rfl, fun i q there => ?_⟩
      obtain ⟨x, opened, core⟩ := Hub.getElem?_of_portCores cores.symm there
      obtain ⟨pendRange, recorded⟩ := Hub.opened_port opened
      have range : q.pendRange = x.pendRange := (congrArg Port.pendRange core).symm
      have child : q.recorded = x.recorded := (congrArg Port.recorded core).symm
      rw [range, child]
      exact ⟨pendRange, recorded⟩
    case claims =>
      have enm := (Hub.passToken_enm (({ s.hub with enm := { s.hub.enm with pending := some next, claimed := true } }).sendClaim next)
        s.hub.recordedPorts (next + 1) full).trans (by rw [Hub.sendClaim_enm])
      refine ⟨_, next_congr (Hub.token_claims round' isUp eligible free), (congrArg Enum.pending enm).trans rfl, (congrArg Enum.claimed enm).trans rfl,
        (congrArg Enum.addr enm).trans rfl, (congrArg Enum.walk enm).trans ?_⟩
      cases s.hub.recordedPorts <;> rfl
    case fullUp =>
      have enm := Hub.passToken_enm ({ s.hub with enm := { s.hub.enm with pending := none } }) s.hub.recordedPorts next true
      refine ⟨_, next_congr (Hub.token_full round' isUp eligible used), (congrArg Enum.pending enm).trans rfl, (congrArg Enum.claimed enm).trans rfl,
        (congrArg Enum.addr enm).trans rfl, (congrArg Enum.walk enm).trans ?_⟩
      cases s.hub.recordedPorts <;> rfl
    case asked =>
      have there := s.hub.setPort_getElem?_same (Hub.there_of_lt present) fun q => { q with pendRange := if n2 ≤ n then none else some (n, n2 - 1) }
      obtain ⟨q, there', core⟩ := Hub.getElem?_of_portCores (Hub.passToken_portCores _ rest n2 (fl || full)) there
      have range : q.pendRange = if n2 ≤ n then none else some (n, n2 - 1) := congrArg Port.pendRange core
      refine ⟨_, q, next_congr (Hub.searchReturn_asked round' own walk), there', range, (congrArg Enum.walk (Hub.passToken_enm ..)).trans ?_⟩
      cases rest <;> rfl
    case commits =>
      have closes := Hub.searchClose_commits round' (.inl eligible)
      rw [if_pos eligible, pending] at closes
      refine ⟨_, next_congr closes, rfl, rfl, rfl, ?_⟩
      refine Eq.trans (List.map_map ..) ?_
      exact Hub.map_of_portCores (s.hub.closing_portCores round) Port.pendRange fun _ => rfl
    case uncommits =>
      have closes := Hub.searchClose_commits round' (unclaimed.imp And.left And.right)
      have mine : (if s.hub.enm.eligible = true then s.hub.enm.pending else none) = none := by
        rcases unclaimed with ⟨-, free⟩ | ⟨done, -⟩
        · simp [free]
        · simp [done]
      rw [mine] at closes
      refine ⟨_, next_congr closes, ?_, ?_, ?_⟩
      · rcases Hub.sendArrive_enm ((s.hub.closing round).committed none) with same | sent
        · exact (congrArg Enum.addr same).trans rfl
        · exact (congrArg Enum.addr sent).trans rfl
      · rcases Hub.sendArrive_enm ((s.hub.closing round).committed none) with same | sent
        · exact (congrArg Enum.eligible same).trans rfl
        · exact (congrArg Enum.eligible sent).trans rfl
      · intro q mem
        have ranges : ((s.hub.closing round).committed none).sendArrive.ports.map Port.range =
            ((s.hub.closing round).committed none).ports.map Port.range :=
          Hub.map_of_portCores (Hub.sendArrive_portCores ..) Port.range fun _ => rfl
        have among : q.range ∈ ((s.hub.closing round).committed none).ports.map Port.range := ranges ▸ List.mem_map_of_mem mem
        obtain ⟨x, mem, same⟩ := List.mem_map.1 among
        obtain ⟨y, -, rfl⟩ := List.mem_map.1 mem
        exact same.symm
    case keeps =>
      refine ⟨_, next_congr (Hub.searchClose_keeps round' done claimed), s.hub.closing_enm round, ?_⟩
      exact Hub.map_of_portCores (s.hub.closing_portCores round) Port.range fun _ => rfl
    case claimStays =>
      by_cases same : b.toNat / 2 ^ 52 ≠ 0 ∨ b.toNat / 2 ^ 44 % 256 = s.hub.enm.round
      · exact next_same ((Hub.claimBlock_same same).trans (Hub.upward_stays stays))
      · rw [not_or, not_not] at same
        exact next_same (Hub.claimBlock_other same.1 same.2)
    case repeats =>
      have sends : s.hub.arriveRepeat = s.hub.sendArrive := by
        unfold Hub.arriveRepeat
        rw [since]
        refine if_neg ?_
        rw [unclaimed, unaddressed]
        simp only [Bool.false_eq_true, Option.isSome_none, false_or]
        omega
      refine ⟨_, next_congr (sends.trans (Hub.sendArrive_up isUp)), rfl, ?_⟩
      exact s.hub.ctl_queues (Hub.there_of_st (by rw [isUp]; exact nofun)) 0xB4 s.hub.arriveBits
    case still =>
      show s.hub.arriveRepeat = s.hub
      unfold Hub.arriveRepeat
      split
      · next u since =>
        split
        · rfl
        · next sends =>
          rw [not_or, not_or] at sends
          obtain ⟨unaddressed, unclaimed, late⟩ := sends
          refine Hub.sendArrive_down fun isUp => ?_
          rcases not with no | no | no | no | ⟨w, since', early⟩
          · exact nomatch since.symm.trans no
          · exact unaddressed no
          · exact unclaimed (Option.isSome_iff_ne_none.2 no)
          · exact no isUp
          · cases since.symm.trans since'
            exact late early
      · rfl
  case block =>
    refine ⟨fun no => next_same ?silent, fun present test => next_congr ?test, fun present prbs => next_congr ?prbs,
      fun shaped present searches slot => next_congr (Hub.blockBoundary_search present searches slot),
      fun shaped present quiet prbs sends slot => ?mark, fun inSlot below isUp unsent near far => ?cor, fun inSlot noCor waits other quiet => ?ctl,
      fun inSlot noCor none' isUp unaddressed => ?unaddressed, fun inSlot noCor quiet runs least most active => ⟨fun same more => ?goesOn, fun differs => ?sel⟩,
      fun inSlot noCor quiet runs least most same last active ofClass => ?ends, fun fs inSlot noCor none' again active least most queues may => ?begins,
      fun inSlot noCor quiet active => ?idle⟩
    case silent =>
      show s.hub.blockBoundary p = s.hub
      unfold Hub.blockBoundary
      split
      · rfl
      · next present =>
        rcases no with absent | ⟨test, prbs, sends⟩
        · exact absurd absent present
        · rw [if_neg test, if_neg (by simp [prbs]), if_pos (by simp [sends])]
    case test => exact (if_neg (Nat.not_le.2 present)).trans (if_pos test)
    case prbs =>
      have test : (s.hub.prt p).st ≠ .test := fun test => by simp [Port.prbsPeriod, test] at prbs
      exact (if_neg (Nat.not_le.2 present)).trans ((if_neg test).trans (if_pos prbs))
    case mark =>
      obtain ⟨-, -, -, length, -⟩ := shaped
      have there := Hub.counted_there (length ▸ present)
      have mcount : ((s.hub.counted p).prt p).mcount = (s.hub.prt p).mcount := s.hub.counted_view p p Port.mcount fun _ _ => rfl
      have blk : ((s.hub.counted p).prt p).blk = (s.hub.prt p).blk + 1 :=
        congrArg Port.blk (s.hub.setPort_prt_same (Hub.there_of_lt (length ▸ present)) _)
      have width : ((s.hub.counted p).prt p).txWidth = (s.hub.prt p).txWidth := s.hub.counted_view p p Port.txWidth fun _ _ => rfl
      refine ⟨_, next_congr (Hub.blockBoundary_mark present quiet prbs sends slot), (Hub.sendMark_mcount there).trans (by rw [mcount]),
        fun noRun noWidth => ?_⟩
      obtain ⟨blk', link⟩ := Hub.sendMark_quiet (lane := (s.hub.prt p).blk % (s.hub.prt p).txWidth) there
        ((s.hub.counted_view p p Port.run fun _ _ => rfl).trans noRun) ((s.hub.counted_view p p Port.widthRun fun _ _ => rfl).trans noWidth)
      rw [width, blk] at blk'
      exact ⟨blk', link.trans (s.hub.counted_view p p Port.link fun _ _ => rfl)⟩
    case cor =>
      obtain ⟨shaped, present, carries, slot⟩ := inSlot
      obtain ⟨-, -, -, length, -⟩ := shaped
      have there := Hub.counted_there (length ▸ present)
      have cor : ((s.hub.counted p).prt p).corSent = (s.hub.prt p).corSent := s.hub.counted_view p p Port.corSent fun _ _ => rfl
      have up : ((s.hub.counted p).prt p).st = (s.hub.prt p).st := s.hub.counted_view p p Port.st fun _ _ => rfl
      refine ⟨_, next_congr (Hub.blockBoundary_slot present carries slot), (Hub.sendSlot_corSent below).trans ?_⟩
      refine (s.hub.beside_view p _ p _ Port.corSent fun _ _ => rfl).trans ?_
      exact Hub.timecorDue_once there below (up.trans isUp) (fun sent => unsent (cor.symm.trans sent)) near far
    case ctl =>
      obtain ⟨-, present, carries, slot⟩ := inSlot
      have waits' : ((s.hub.sided p).prt p).link.ctl = c :: r := by rw [Hub.sided_link, waits]
      exact next_congr ((Hub.blockBoundary_sends present carries slot noCor).trans (Hub.sendSlot_ctl waits' other quiet))
    case unaddressed =>
      obtain ⟨-, present, carries, slot⟩ := inSlot
      have none'' : ((s.hub.sided p).prt p).link.ctl = [] := by rw [Hub.sided_link, none']
      have still : (s.hub.sided p).pickClass p = none := Hub.pickClass_unaddressed (by rw [Hub.sided_st, isUp]; exact nofun)
        (by rw [Hub.sided_addressed, unaddressed])
      exact next_congr ((Hub.blockBoundary_sends present carries slot noCor).trans (Hub.sendSlot_idle none'' still))
    all_goals
      obtain ⟨shaped, present, carries, slot⟩ := inSlot
      obtain ⟨-, -, -, length, -⟩ := shaped
      have there := Hub.sided_there (length ▸ present : p < s.hub.ports.length)
      have link := s.hub.sided_link p
      have st := s.hub.sided_st p
      have sends := Hub.blockBoundary_sends present carries slot noCor
    case goesOn =>
      obtain ⟨none', again, queues, flows⟩ := quiet
      have picks := Hub.pickClass_active (by rwa [st, Hub.sided_addressed]) (Hub.sided_idle ⟨again, queues, flows⟩) least most
        ((congrArg Link.active link).trans active)
      have class' : ((s.hub.sided p).prt p).link.txClass = cls := by rw [link, same]
      have blocks := Hub.sendPacketBlock_goesOn (h := s.hub.sided p) (lane := (s.hub.prt p).blk % (s.hub.prt p).txWidth)
        (by rw [link, active, actives_getD _ least most]) more
      rw [Hub.sendSlot_packet (by rw [link, none']) picks, if_pos class', blocks, st, link] at sends
      exact next_congr sends
    case sel =>
      obtain ⟨none', again, queues, flows⟩ := quiet
      have picks := Hub.pickClass_active (by rwa [st, Hub.sided_addressed]) (Hub.sided_idle ⟨again, queues, flows⟩) least most
        ((congrArg Link.active link).trans active)
      rw [Hub.sendSlot_packet (by rw [link, none']) picks, if_neg (by rwa [link])] at sends
      exact next_congr sends
    case ends =>
      obtain ⟨none', again, queues, flows⟩ := quiet
      have picks := Hub.pickClass_active (by rwa [st, Hub.sided_addressed]) (Hub.sided_idle ⟨again, queues, flows⟩) least most
        ((congrArg Link.active link).trans active)
      have class' : ((s.hub.sided p).prt p).link.txClass = cls := by rw [link, same]
      have blocks := Hub.sendPacketBlock_ends (h := s.hub.sided p) (lane := (s.hub.prt p).blk % (s.hub.prt p).txWidth)
        (by rw [link, active, actives_getD _ least most]) last
      rw [Hub.sendSlot_packet (by rw [link, none']) picks, if_pos class', blocks] at sends
      obtain ⟨found, link', st'⟩ := Hub.setLane_there there ((s.hub.prt p).blk % (s.hub.prt p).txWidth) fun l => l.put false
        (f.block (f.blocks - left) (if ((s.hub.sided p).prt p).st = .plain then 0 else seq.getD ((s.hub.sided p).prt p).link.txSeq))
      replace link' := link'.trans link
      refine ⟨_, next_congr sends, (Hub.frameSent_active found f seq).trans ?_, fun isUp fresh whole => ?_⟩
      · rw [link', active, ofClass, actives_cleared _ least most]
      · subst fresh
        have held := Hub.frameSent_held found (by rw [st', st, isUp]; exact nofun) whole
        rwa [link'] at held
    case begins =>
      have runs : (s.hub.prt p).st = .plain ∨ s.hub.addressed = true := by
        simp only [Hub.mayStart, Bool.or_eq_true, beq_iff_eq, Bool.and_eq_true] at may
        exact may.imp_right And.left
      have picks := Hub.pickClass_queue (by rwa [st, Hub.sided_addressed]) (by rw [link, again]) (by rw [link, active]) least most
        ((congrArg Link.queues link).trans queues) ((s.hub.sided_mayStart p f).trans may)
      rw [Hub.sendSlot_packet (by rw [link, none']) picks, Hub.start] at sends
      obtain ⟨there₁, link₁⟩ := Hub.setLink_there there fun k => { k with queues := modAt k.queues (cls - 1) fun _ => fs }
      obtain ⟨there₂, link₂⟩ := Hub.setLink_there there₁ fun k => { k with active := modAt k.active (cls - 1) fun _ => some (f, f.blocks, none) }
      rw [link₁, link] at link₂
      have queues' : modAt (s.hub.prt p).link.queues (cls - 1) (fun _ => fs) = ([[], [], [], []] : List (List Frame)).set (cls - 1) fs := by
        rw [queues]
        rcases (by omega : cls = 1 ∨ cls = 2 ∨ cls = 3) with rfl | rfl | rfl <;> rfl
      have begun (n : Nat) : modAt (([none, none, none, none] : List (Option (Frame × Nat × Option Nat))).set (cls - 1) (some (f, f.blocks, none)))
          (cls - 1) (fun _ => some (f, n, none)) = ([none, none, none, none] : List (Option (Frame × Nat × Option Nat))).set (cls - 1) (some (f, n, none)) := by
        rcases (by omega : cls = 1 ∨ cls = 2 ∨ cls = 3) with rfl | rfl | rfl <;> rfl
      have started : modAt (s.hub.prt p).link.active (cls - 1) (fun _ => some (f, f.blocks, none)) =
          ([none, none, none, none] : List (Option (Frame × Nat × Option Nat))).set (cls - 1) (some (f, f.blocks, none)) := by
        rw [active]
        rcases (by omega : cls = 1 ∨ cls = 2 ∨ cls = 3) with rfl | rfl | rfl <;> rfl
      by_cases same : (s.hub.prt p).link.txClass = cls
      · have several : 1 < f.blocks := by
          unfold Frame.blocks
          omega
        rw [if_pos ((congrArg Link.txClass link₂).trans same), Hub.sendPacketBlock_goesOn (by
          rw [congrArg Link.active link₂]
          exact (congrArg (fun l => l.getD (cls - 1) none) started).trans (actives_getD _ least (by omega))) several] at sends
        have sent (g : Lane → Lane) := (Hub.setLane_setLink_link there₂ ((s.hub.prt p).blk % (s.hub.prt p).txWidth) g fun k => { k with
          active := modAt k.active (cls - 1) fun _ => some (f, f.blocks - 1, none) }).trans (by rw [link₂])
        refine ⟨_, next_congr sends, (congrArg Link.txClass (sent _)).trans same,
          (congrArg Link.queues (sent _)).trans queues', (congrArg Link.active (sent _)).trans ?_⟩
        rw [if_pos same]
        exact (congrArg (fun l => modAt l (cls - 1) fun _ => some (f, f.blocks - 1, none)) started).trans (begun _)
      · rw [if_neg fun is => same ((congrArg Link.txClass link₂).symm.trans is)] at sends
        have sent := Hub.setLink_setLane_link there₂ ((s.hub.prt p).blk % (s.hub.prt p).txWidth)
          (fun l => l.put true (0x1E * 2 ^ 56 + cls * 2 ^ 52)) fun k => { k with txClass := cls }
        rw [link₂] at sent
        refine ⟨_, next_congr sends, (congrArg Link.txClass sent).trans rfl, (congrArg Link.queues sent).trans queues', (congrArg Link.active sent).trans ?_⟩
        rw [if_neg same]
        exact started
    case idle =>
      obtain ⟨none', again, queues, flows⟩ := quiet
      have still : (s.hub.sided p).pickClass p = none := by
        by_cases runs : ((s.hub.sided p).prt p).st = .plain ∨ (s.hub.sided p).addressed = true
        · exact Hub.pickClass_idle runs (Hub.sided_idle ⟨again, queues, flows⟩) (by rw [link, active])
        · rw [not_or, Bool.not_eq_true] at runs
          exact Hub.pickClass_unaddressed runs.1 runs.2
      exact next_congr (sends.trans (Hub.sendSlot_idle (by rw [link, none']) still))
end

section
/-! PROOFS. The commands of calibration (R397, R436, R442). -/

namespace Sys2Proof.Machine

variable {h : Hub}

/-- A refusal for dies that cannot serve names the lowest of them (R359). -/
theorem Hub.onDies_least {dies : List Nat} {d : Nat} (named : d ∈ dies) (down : h.dieDown d = true)
    (least : ∀ e ∈ dies, h.dieDown e = true → d ≤ e) (k : Hub) : h.onDies dies k = h.refuseDie St.fault d := by
  have first : leastOf (dies.filter h.dieDown) = some d :=
    List.min?_eq_some_iff.2 ⟨List.mem_filter.2 ⟨named, down⟩, fun e mem => least e (List.mem_filter.1 mem).1 (List.mem_filter.1 mem).2⟩
  rw [Hub.onDies, first]

/-! ## CAL_RUN -/

theorem Hub.calRun_bad {octs : List Nat} (bad : octs = [] ∨ ∃ o ∈ octs, h.nOcts ≤ o) : h.calRun octs = h.refuse St.badArg := by
  refine if_pos ?_
  simpa using bad

theorem Hub.calRun_named {octs : List Nat} (some' : octs ≠ []) (there : ∀ o ∈ octs, o < h.nOcts) :
    h.calRun octs = h.onDies (octs.map (· / 16)) ((forAll octs (fun o h => h.calQueue o) h).ok []) := by
  refine if_neg ?_
  simpa [some'] using there

/-- Octets are queued once, behind those that wait (R436). -/
theorem forAll_calQueue (octs : List Nat) (once : octs.Nodup) (h : Hub) : forAll octs (fun o h => h.calQueue o) h = { h with
    cal := { h.cal with requests := h.cal.requests ++ octs.filter fun o => !h.cal.requests.contains o } } := by
  induction octs generalizing h with
  | nil => exact (congrArg (fun r => { h with cal := { h.cal with requests := r } }) (List.append_nil _)).symm
  | cons o octs ih =>
    obtain ⟨fresh, once⟩ := List.nodup_cons.1 once
    refine (ih once (h.calQueue o)).trans ?_
    unfold Hub.calQueue
    by_cases waits : h.cal.requests.contains o = true
    · rw [if_pos waits, List.filter_cons_of_neg (by simpa using waits)]
    · rw [if_neg waits, List.filter_cons_of_pos (by simpa using waits)]
      have others : (octs.filter fun x => !(h.cal.requests ++ [o]).contains x) = octs.filter fun x => !h.cal.requests.contains x := by
        refine List.filter_congr fun x mem => ?_
        have other : x ≠ o := fun same => fresh (same ▸ mem)
        simp [other]
      dsimp only
      rw [others, List.append_assoc, List.singleton_append]

/-! ## CAL_REPORT -/

theorem Chan.quality_length (x : Chan) (c : Nat) : (x.quality c).length = 40 := by
  simp [Chan.quality, stampB]

/-- Records of one length stand in order in the bytes that they make up. -/
theorem flatMap_record {α : Type} {f : α → Bytes} {k : Nat} (fixed : ∀ a, (f a).length = k) (l : List α) :
    (l.flatMap f).length = k * l.length ∧ ∀ (i : Nat) (a : α), l[i]? = some a → ((l.flatMap f).drop (k * i)).take k = f a := by
  induction l with
  | nil => exact ⟨rfl, fun i a found => nomatch found⟩
  | cons a l ih =>
    obtain ⟨length, records⟩ := ih
    refine ⟨by rw [List.flatMap_cons, List.length_append, fixed, length, List.length_cons, Nat.mul_succ, Nat.add_comm], fun i b found => ?_⟩
    rw [List.flatMap_cons]
    cases i with
    | zero =>
      cases found
      exact List.take_left' (fixed a)
    | succ i =>
      rw [Nat.mul_succ, Nat.add_comm, ← List.drop_drop, List.drop_left' (fixed a)]
      exact records i b found

theorem Hub.calReport_bad {first n : Nat} (bad : 102 < n ∨ h.nChans < first + n) : h.calReport first n = h.refuse St.badArg := if_pos bad

theorem Hub.calReport_named {first n : Nat} (few : n ≤ 102) (there : first + n ≤ h.nChans) : h.calReport first n =
    h.onDies (((List.range n).map (first + ·)).map chDie) (h.ok (((List.range n).map (first + ·)).flatMap fun c => (h.ch c).quality c)) :=
  if_neg (by omega)

theorem mem_reported {first n e : Nat} : e ∈ ((List.range n).map (first + ·)).map chDie ↔ ∃ i < n, chDie (first + i) = e := by
  simp

end Sys2Proof.Machine

open Sys2Proof Sys2Proof.Machine

/-- Settles O42: CAL_RUN queues by `calQueue`, and CAL_REPORT's records have one length (Table 16-3). -/
theorem calibrationCommands : Obligations.CalibrationCommands := by
  unfold Obligations.CalibrationCommands
  refine fun s octs w first n d => ⟨fun bad => next_congr (Hub.calRun_bad bad), fun some' once served => next_congr ?_,
    fun named among down => next_congr ?_, fun bad => next_congr (if_pos bad), fun good => next_congr (if_neg (by simp [good])), rfl,
    fun bad => next_congr (Hub.calReport_bad bad), fun few there least among down => next_congr ?_, fun few there served => ?_⟩
  · refine (Hub.calRun_named some' fun o mem => (served o mem).1).trans ?_
    rw [Hub.onDies_up, forAll_calQueue octs once]
    intro e mem
    obtain ⟨o, queued, rfl⟩ := List.mem_map.1 mem
    exact (served o queued).2
  · obtain ⟨o, mem, die⟩ := among
    refine (Hub.calRun_named (List.ne_nil_of_mem mem) fun o mem => (named o mem).1).trans ?_
    refine Hub.onDies_least (List.mem_map.2 ⟨o, mem, die⟩) down (fun e mem' => ?_) _
    obtain ⟨o', queued, rfl⟩ := List.mem_map.1 mem'
    exact (named o' queued).2
  · refine (Hub.calReport_named few there).trans ?_
    refine Hub.onDies_least (mem_reported.2 among) down (fun e mem => ?_) _
    obtain ⟨i, low, rfl⟩ := mem_reported.1 mem
    exact least i low
  · obtain ⟨length, records⟩ := flatMap_record (f := fun c => (s.hub.ch c).quality c) (fun c => (s.hub.ch c).quality_length c)
      ((List.range n).map (first + ·))
    refine ⟨_, by rw [length, List.length_map, List.length_range], next_congr ((Hub.calReport_named few there).trans (Hub.onDies_up _ (fun e mem => ?_) _)),
      fun i low => records i _ (by simp [low])⟩
    obtain ⟨i, low, rfl⟩ := mem_reported.1 mem
    exact served i low
end

section
/-! PROOFS. The field seal and the test access port (R401, R479 to R484). -/

namespace Sys2Proof.Machine

theorem forAll_fseal {α : Type} (f : α → Hub → Hub) (hf : ∀ a h, (f a h).fseal = h.fseal) (l : List α) (h : Hub) :
    (forAll l f h).fseal = h.fseal := forAll_keeps Hub.fseal f hf l h
theorem iter_fseal (f : Hub → Hub) (hf : ∀ h, (f h).fseal = h.fseal) (n : Nat) (h : Hub) : (iter f n h).fseal = h.fseal :=
  iter_keeps Hub.fseal f hf n h
theorem Hub.fseal_mk (x0 x1 x2 x3 x4 x5 x6 x7 x8 x9 x10 x11 x12 x13 x14 x15 x16 x17 x18 x19 x20 x21 x22 x23 x24 x25 x26 x27 x28 x29 x30
    x31) : (Hub.mk x0 x1 x2 x3 x4 x5 x6 x7 x8 x9 x10 x11 x12 x13 x14 x15 x16 x17 x18 x19 x20 x21 x22 x23 x24 x25 x26 x27 x28 x29 x30
    x31).fseal = x22 := rfl

@[simp] theorem Hub.rawReassign_fseal (h : Hub) : h.rawReassign.fseal = h.fseal :=
  Hub.still_fseal (Hub.rawReassign_still ..)
@[simp] theorem Hub.laneAway_fseal (h : Hub) (a : Align) : (h.laneAway a).fseal = h.fseal := by
  simp only [Hub.laneAway, ↓Hub.setAlign_fseal, ↓Hub.setTm_fseal, ↓apply_ite Hub.fseal, ite_self]
@[simp] theorem Hub.linkGone_fseal (h : Hub) : h.linkGone.fseal = h.fseal := by
  simp only [Hub.linkGone, ↓Hub.laneAway_fseal, ↓apply_ite Hub.fseal, ite_self]
@[simp] theorem Hub.unsend_fseal (h : Hub) (p : Nat) : (h.unsend p).fseal = h.fseal := by
  simp only [Hub.unsend, ↓Hub.fseal_mk]
@[simp] theorem Hub.discardNote_fseal (h : Hub) (p n : Nat) : (h.discardNote p n).fseal = h.fseal := by
  simp only [Hub.discardNote, ↓Hub.notice_fseal, ↓Hub.fseal_mk, ↓apply_ite Hub.fseal, ite_self]
@[simp] theorem Hub.portLost_fseal (h : Hub) (p : Nat) (st : PState) : (h.portLost p st).fseal = h.fseal := by
  simp only [Hub.portLost, ↓Hub.discardNote_fseal, ↓Hub.linkGone_fseal, ↓Hub.setPort_fseal, ↓Hub.unsend_fseal, ↓Hub.fseal_mk, ↓apply_ite
    Hub.fseal, ite_self]
@[simp] theorem Hub.portStart_fseal (h : Hub) (p : Nat) : (h.portStart p).fseal = h.fseal := by
  simp only [Hub.portStart, ↓Hub.portLost_fseal, ↓Hub.rawReassign_fseal, ↓Hub.setPort_fseal, ↓Hub.watermarks_fseal, ↓apply_ite Hub.fseal,
    ite_self]
@[simp] theorem Hub.handBack_fseal (p : Nat) (h : Hub) : (Hub.handBack p h).fseal = h.fseal := by
  simp only [Hub.handBack, ↓Hub.portStart_fseal, ↓Hub.setPort_fseal, ↓apply_ite Hub.fseal, ite_self]
@[simp] theorem Hub.handAllBack_fseal (h : Hub) : h.handAllBack.fseal = h.fseal := by
  simp only [Hub.handAllBack, ↓Hub.handBack_fseal, ↓forAll_fseal, implies_true]

theorem forAll_tap {α : Type} (f : α → Hub → Hub) (hf : ∀ a h, (f a h).tap = h.tap) (l : List α) (h : Hub) :
    (forAll l f h).tap = h.tap := forAll_keeps Hub.tap f hf l h
theorem iter_tap (f : Hub → Hub) (hf : ∀ h, (f h).tap = h.tap) (n : Nat) (h : Hub) : (iter f n h).tap = h.tap :=
  iter_keeps Hub.tap f hf n h
theorem Hub.tap_mk (x0 x1 x2 x3 x4 x5 x6 x7 x8 x9 x10 x11 x12 x13 x14 x15 x16 x17 x18 x19 x20 x21 x22 x23 x24 x25 x26 x27 x28 x29 x30 x31)
    : (Hub.mk x0 x1 x2 x3 x4 x5 x6 x7 x8 x9 x10 x11 x12 x13 x14 x15 x16 x17 x18 x19 x20 x21 x22 x23 x24 x25 x26 x27 x28 x29 x30 x31).tap =
    x30 := rfl

@[simp] theorem Hub.rawReassign_tap (h : Hub) : h.rawReassign.tap = h.tap :=
  Hub.still_tap (Hub.rawReassign_still ..)
@[simp] theorem Hub.laneAway_tap (h : Hub) (a : Align) : (h.laneAway a).tap = h.tap := by
  simp only [Hub.laneAway, ↓Hub.setAlign_tap, ↓Hub.setTm_tap, ↓apply_ite Hub.tap, ite_self]
@[simp] theorem Hub.linkGone_tap (h : Hub) : h.linkGone.tap = h.tap := by
  simp only [Hub.linkGone, ↓Hub.laneAway_tap, ↓apply_ite Hub.tap, ite_self]
@[simp] theorem Hub.unsend_tap (h : Hub) (p : Nat) : (h.unsend p).tap = h.tap := by
  simp only [Hub.unsend, ↓Hub.tap_mk]
@[simp] theorem Hub.discardNote_tap (h : Hub) (p n : Nat) : (h.discardNote p n).tap = h.tap := by
  simp only [Hub.discardNote, ↓Hub.notice_tap, ↓Hub.tap_mk, ↓apply_ite Hub.tap, ite_self]
@[simp] theorem Hub.portLost_tap (h : Hub) (p : Nat) (st : PState) : (h.portLost p st).tap = h.tap := by
  simp only [Hub.portLost, ↓Hub.discardNote_tap, ↓Hub.linkGone_tap, ↓Hub.setPort_tap, ↓Hub.unsend_tap, ↓Hub.tap_mk, ↓apply_ite
    Hub.tap, ite_self]
@[simp] theorem Hub.portStart_tap (h : Hub) (p : Nat) : (h.portStart p).tap = h.tap := by
  simp only [Hub.portStart, ↓Hub.portLost_tap, ↓Hub.rawReassign_tap, ↓Hub.setPort_tap, ↓Hub.watermarks_tap, ↓apply_ite Hub.tap,
    ite_self]
@[simp] theorem Hub.handBack_tap (p : Nat) (h : Hub) : (Hub.handBack p h).tap = h.tap := by
  simp only [Hub.handBack, ↓Hub.portStart_tap, ↓Hub.setPort_tap, ↓apply_ite Hub.tap, ite_self]
@[simp] theorem Hub.handAllBack_tap (h : Hub) : h.handAllBack.tap = h.tap := by
  simp only [Hub.handAllBack, ↓Hub.handBack_tap, ↓forAll_tap, implies_true]


/-- Spool levels change flows, channels and dies only (R243). -/
theorem Hub.spoolTouch_keeps {α : Type} (view : Hub → α) (flows : ∀ (h : Hub) (l : List Flow), view { h with flows := l } = view h)
    (chans : ∀ (h : Hub) (l : List Chan), view { h with chans := l } = view h)
    (dies : ∀ (h : Hub) (l : List Die), view { h with dies := l } = view h) (h : Hub) (d : Nat) (was : Seqs) :
    view (h.spoolTouch d was) = view h := by
  have setFlow (h : Hub) (k : FlowKey) (g : Flow → Flow) : view (h.setFlow k g) = view h := flows h _
  have mapCh (h : Hub) (g : Nat → Chan → Chan) : view (h.mapCh g) = view h := chans h _
  have setDie (h : Hub) (d : Nat) (g : Die → Die) : view (h.setDie d g) = view h := dies h _
  unfold Hub.spoolTouch
  simp only
  rw [flows]
  split
  · rfl
  · split
    · rw [flows, mapCh, setDie]
    · rw [setFlow, mapCh, flows, iter_keeps view]
      · exact setDie ..
      · intro g
        split
        · split
          · exact setFlow ..
          · rfl
        · rfl
    · rw [mapCh, setDie]

@[simp] theorem Hub.spoolTouch_dbw (h : Hub) (d : Nat) (was : Seqs) : (h.spoolTouch d was).dbw = h.dbw :=
  Hub.spoolTouch_keeps Hub.dbw (by intros; rfl) (by intros; rfl) (by intros; rfl) h d was

theorem forAll_dbw {α : Type} (f : α → Hub → Hub) (hf : ∀ a h, (f a h).dbw = h.dbw) (l : List α) (h : Hub) :
    (forAll l f h).dbw = h.dbw := forAll_keeps Hub.dbw f hf l h
theorem iter_dbw (f : Hub → Hub) (hf : ∀ h, (f h).dbw = h.dbw) (n : Nat) (h : Hub) : (iter f n h).dbw = h.dbw :=
  iter_keeps Hub.dbw f hf n h
theorem Hub.dbw_mk (x0 x1 x2 x3 x4 x5 x6 x7 x8 x9 x10 x11 x12 x13 x14 x15 x16 x17 x18 x19 x20 x21 x22 x23 x24 x25 x26 x27 x28 x29 x30 x31)
    : (Hub.mk x0 x1 x2 x3 x4 x5 x6 x7 x8 x9 x10 x11 x12 x13 x14 x15 x16 x17 x18 x19 x20 x21 x22 x23 x24 x25 x26 x27 x28 x29 x30 x31).dbw =
    x21 := rfl

@[simp] theorem Hub.emitSince_dbw (h : Hub) (k : FlowKey) (stream : Nat) (rcd : Bytes) (since : Nat) :
    (h.emitSince k stream rcd since).dbw = h.dbw := by
  unfold Hub.emitSince
  split <;> simp only [↓Hub.setFlow_dbw, ↓Hub.spoolTouch_dbw, ↓Hub.watermarks_dbw, ↓apply_ite Hub.dbw, ite_self]
@[simp] theorem Hub.emitRecord_dbw (h : Hub) (k : FlowKey) (stream : Nat) (rcd : Bytes) : (h.emitRecord k stream rcd).dbw = h.dbw := by
  simp only [Hub.emitRecord, ↓Hub.emitSince_dbw]
@[simp] theorem Hub.hkRecord_dbw (h : Hub) (t kind : Nat) (payload : Bytes) : (h.hkRecord t kind payload).dbw = h.dbw := by
  simp only [Hub.hkRecord, ↓Hub.emitRecord_dbw, ↓Hub.dbw_mk, ↓apply_ite Hub.dbw, ite_self]
@[simp] theorem Hub.recordAt_dbw (h : Hub) (t kind : Nat) (payload : Bytes) : (h.recordAt t kind payload).dbw = h.dbw := by
  simp only [Hub.recordAt, ↓Hub.hkRecord_dbw, ↓Hub.dbw_mk, ↓apply_ite Hub.dbw, ite_self]

theorem forAll_clk {α : Type} (f : α → Hub → Hub) (hf : ∀ a h, (f a h).clk = h.clk) (l : List α) (h : Hub) :
    (forAll l f h).clk = h.clk := forAll_keeps Hub.clk f hf l h
theorem iter_clk (f : Hub → Hub) (hf : ∀ h, (f h).clk = h.clk) (n : Nat) (h : Hub) : (iter f n h).clk = h.clk :=
  iter_keeps Hub.clk f hf n h
theorem Hub.clk_mk (x0 x1 x2 x3 x4 x5 x6 x7 x8 x9 x10 x11 x12 x13 x14 x15 x16 x17 x18 x19 x20 x21 x22 x23 x24 x25 x26 x27 x28 x29 x30 x31)
    : (Hub.mk x0 x1 x2 x3 x4 x5 x6 x7 x8 x9 x10 x11 x12 x13 x14 x15 x16 x17 x18 x19 x20 x21 x22 x23 x24 x25 x26 x27 x28 x29 x30 x31).clk =
    x1 := rfl

@[simp] theorem Hub.linkGone_clk (h : Hub) : h.linkGone.clk = h.clk := by
  simp only [Hub.linkGone, ↓Hub.laneAway_clk, ↓apply_ite Hub.clk, ite_self]
@[simp] theorem Hub.unsend_clk (h : Hub) (p : Nat) : (h.unsend p).clk = h.clk := by
  simp only [Hub.unsend, ↓Hub.clk_mk]
@[simp] theorem Hub.portLost_clk (h : Hub) (p : Nat) (st : PState) : (h.portLost p st).clk = h.clk := by
  simp only [Hub.portLost, ↓Hub.discardNote_clk, ↓Hub.linkGone_clk, ↓Hub.setPort_clk, ↓Hub.unsend_clk, ↓Hub.clk_mk, ↓apply_ite
    Hub.clk, ite_self]
@[simp] theorem Hub.portStart_clk (h : Hub) (p : Nat) : (h.portStart p).clk = h.clk := by
  simp only [Hub.portStart, ↓Hub.portLost_clk, ↓Hub.rawReassign_clk, ↓Hub.setPort_clk, ↓Hub.watermarks_clk, ↓apply_ite Hub.clk,
    ite_self]
@[simp] theorem Hub.handBack_clk (p : Nat) (h : Hub) : (Hub.handBack p h).clk = h.clk := by
  simp only [Hub.handBack, ↓Hub.portStart_clk, ↓Hub.setPort_clk, ↓apply_ite Hub.clk, ite_self]
@[simp] theorem Hub.handAllBack_clk (h : Hub) : h.handAllBack.clk = h.clk := by
  simp only [Hub.handAllBack, ↓Hub.handBack_clk, ↓forAll_clk, implies_true]

/-! ## Fields of words -/

/-- The bits of a word whose field is replaced. -/
theorem setFld_getLsbD (w : Word) {hi lo : Nat} (v : Nat) (ordered : lo ≤ hi) (i : Nat) :
    (setFld w hi lo v).getLsbD i = if lo ≤ i ∧ i ≤ hi then decide (i < 32) && v.testBit (i - lo) else w.getLsbD i := by
  have inside : lo ≤ i ∧ i ≤ hi ↔ lo ≤ i ∧ i - lo < hi - lo + 1 := by omega
  unfold setFld
  dsimp only
  rw [BitVec.getLsbD_or, BitVec.getLsbD_and, BitVec.getLsbD_not, BitVec.getLsbD_ofNat, BitVec.getLsbD_ofNat, Nat.testBit_shiftLeft,
    Nat.testBit_shiftLeft, Nat.testBit_two_pow_sub_one, Nat.testBit_mod_two_pow]
  by_cases low : lo ≤ i
  · by_cases high : i - lo < hi - lo + 1
    · rw [if_pos (inside.2 ⟨low, high⟩)]
      simp [low, high]
    · rw [if_neg fun both => high (inside.1 both).2]
      by_cases word : i < 32
      · simp [low, high, word]
      · simp [word, BitVec.getLsbD_of_ge w i (by omega)]
  · rw [if_neg fun both => low both.1]
    by_cases word : i < 32
    · simp [low, word]
    · simp [word, BitVec.getLsbD_of_ge w i (by omega)]

theorem setBit_getLsbD (w : Word) {n : Nat} (word : n < 32) (b : Bool) (i : Nat) :
    (setBit w n b).getLsbD i = if i = n then b else w.getLsbD i := by
  rw [setBit, setFld_getLsbD w _ (Nat.le_refl n)]
  by_cases same : i = n
  · subst same
    rw [if_pos ⟨Nat.le_refl _, Nat.le_refl _⟩, if_pos rfl, Nat.sub_self]
    cases b <;> simp [word]
  · rw [if_neg (by omega), if_neg same]

theorem bitOf_eq_getLsbD (w : Word) (n : Nat) : bitOf w n = w.getLsbD n := rfl

/-! ## A change of the seal (R309, R479, R480) -/

section
variable {h : Hub}

theorem Hub.lockMin_congr {h k : Hub} (fseal : k.fseal.lockUntil = h.fseal.lockUntil) (clk : k.clk = h.clk) : k.lockMin = h.lockMin := by
  unfold Hub.lockMin
  rw [fseal, clk]

theorem Hub.sealWord_congr {h k : Hub} (fseal : k.fseal = h.fseal) (clk : k.clk = h.clk) : k.sealWord = h.sealWord := by
  unfold Hub.sealWord
  rw [Hub.lockMin_congr (congrArg Seal.lockUntil fseal) clk, fseal]

theorem Hub.sealWord_st {k : Hub} (same : k.sealWord = h.sealWord) (low : h.fseal.st ≤ 2) (low' : k.fseal.st ≤ 2) : k.fseal.st = h.fseal.st := by
  have bit (g : Hub) (i : Nat) (field : i < 2) : g.sealWord.getLsbD i = g.fseal.st.testBit i := by
    unfold Hub.sealWord
    rw [setFld_getLsbD _ _ (by decide), if_pos (by omega), decide_eq_true (by omega : i < 32), Bool.true_and, Nat.sub_zero]
  have bits (i : Nat) (field : i < 2) : k.fseal.st.testBit i = h.fseal.st.testBit i := by rw [← bit k i field, ← bit h i field, same]
  refine Nat.eq_of_testBit_eq fun i => ?_
  by_cases field : i < 2
  · exact bits i field
  · have four : 2 ^ 2 ≤ 2 ^ i := Nat.pow_le_pow_right (by decide) (Nat.not_lt.1 field)
    rw [Nat.testBit_lt_two_pow (Nat.lt_of_lt_of_le (by omega) four), Nat.testBit_lt_two_pow (Nat.lt_of_lt_of_le (by omega) four)]

/-- The seal after a change of it. -/
def Hub.reseal (h : Hub) (f : Seal → Seal) : Hub := { h with fseal := { f h.fseal with lockSeen := (h.setSeal f).lockMin } }

/-- The hub after a change of the seal, before SEAL_CHG. -/
def Hub.resealed (h : Hub) (f : Seal → Seal) : Hub :=
  (if h.sealOpen && !(h.reseal f).sealOpen then (h.reseal f).handAllBack else h.reseal f).tapSeal

theorem Hub.sealStep_eq (f : Seal → Seal) : h.sealStep f =
    if (h.resealed f).sealWord = h.sealWord then h.resealed f else (h.resealed f).raise 6 := rfl

@[simp] theorem Hub.tapSeal_fseal (h : Hub) : h.tapSeal.fseal = h.fseal := ite_keeps Hub.fseal rfl rfl
@[simp] theorem Hub.tapSeal_hk (h : Hub) : h.tapSeal.hk = h.hk := ite_keeps Hub.hk rfl rfl

theorem Hub.resealed_fseal (f : Seal → Seal) : (h.resealed f).fseal = { f h.fseal with lockSeen := (h.setSeal f).lockMin } := by
  rw [Hub.resealed, Hub.tapSeal_fseal]
  split
  · exact Hub.handAllBack_fseal _
  · rfl

theorem Hub.resealed_clk (f : Seal → Seal) : (h.resealed f).clk = h.clk := by
  rw [Hub.resealed, Hub.tapSeal_clk]
  split
  · exact Hub.handAllBack_clk _
  · rfl

theorem Hub.sealStep_tap (f : Seal → Seal) : (h.sealStep f).tap = (h.resealed f).tap := by
  rw [Hub.sealStep_eq]
  split <;> rfl

/-- A debug instruction in force acts as BYPASS once the seal closes (R482). -/
theorem Hub.resealed_tap {f : Seal → Seal} (low : 0x40 ≤ h.tap.ir) (high : h.tap.ir ≤ 0x4F) (sealed : (f h.fseal).st = 2)
    (closed : (f h.fseal).session = false) : (h.resealed f).tap = { h.tap with dr := 0 } := by
  have off (k : Hub) (fseal : k.fseal = { f h.fseal with lockSeen := (h.setSeal f).lockMin }) (tap : k.tap = h.tap) :
      k.tapSeal.tap = { h.tap with dr := 0 } := by
    have debug : k.debugOn = false := by simp [Hub.debugOn, Hub.sealOpen, fseal, sealed, closed]
    refine (congrArg Hub.tap (if_pos ⟨by rwa [tap], by rwa [tap], by simp [debug]⟩)).trans ?_
    rw [← tap]
  unfold Hub.resealed
  split
  · exact off _ (Hub.handAllBack_fseal _) (Hub.handAllBack_tap _)
  · exact off _ rfl rfl

theorem Hub.handAllBack_none (own : ∀ q ∈ h.ports, q.manual = false) : h.handAllBack = h := by
  refine forAll_fixed _ (fun p _ => if_neg ?_)
  have off : (h.prt p).manual = false := by
    rw [Hub.prt, List.getD_eq_getElem?_getD]
    cases found : h.ports[p]? with
    | none => rfl
    | some q => exact own q (List.mem_of_getElem? found)
  simp [off]

/-- With no port handed back a change of the seal writes no record (R480). -/
theorem Hub.sealStep_hk (own : ∀ q ∈ h.ports, q.manual = false) (f : Seal → Seal) : (h.sealStep f).hk = h.hk := by
  have back : (h.reseal f).handAllBack = h.reseal f := Hub.handAllBack_none own
  have same : (h.resealed f).hk = h.hk := by
    rw [Hub.resealed, Hub.tapSeal_hk, back, ite_self]
    rfl
  rw [Hub.sealStep_eq]
  split
  · exact same
  · exact same

theorem Hub.sealStep_fseal (f : Seal → Seal) : (h.sealStep f).fseal = { f h.fseal with lockSeen := (h.setSeal f).lockMin } := by
  rw [Hub.sealStep_eq]
  split
  · exact Hub.resealed_fseal f
  · exact Hub.resealed_fseal f

/-- SEAL_CHG is raised where the word shown changes (Table 13-9). -/
theorem Hub.sealStep_changed {f : Seal → Seal} (changed : (h.sealStep f).sealWord ≠ h.sealWord) : (h.sealStep f).dbw.irq.getLsbD 6 = true := by
  rw [Hub.sealStep_eq] at changed ⊢
  split
  · next same => exact absurd ((congrArg Hub.sealWord (if_pos same)).trans same) changed
  · exact (BitVec.getLsbD_or ..).trans (Bool.or_true _)
end

/-! ## SEAL_UNSEAL, SEAL_CLOSE, SEAL_SET and SEAL_KEY_SET -/

section
variable {h : Hub}

/-- A seal's change after a wrong code (R484). -/
def Hub.wrongCode (h : Hub) (q : Seal) : Seal :=
  { q with nonce := none, fails := satInc 8 h.fseal.fails, lockUntil :=
      if lockMinutes (satInc 8 h.fseal.fails) = 0 then q.lockUntil else some (h.clk.elapsed + lockMinutes (satInc 8 h.fseal.fails) * 60000000000) }

theorem lockMinutes_few {fails : Nat} (few : fails < 4) : lockMinutes (satInc 8 fails) = 0 := if_pos (by simp only [satInc]; omega)

theorem lockMinutes_many {fails : Nat} (many : 4 ≤ fails) : lockMinutes (satInc 8 fails) = min (10 * 2 ^ (min (fails + 1) 255 - 5)) 1440 :=
  if_neg (by simp only [satInc]; omega)

theorem lockMinutes_runs {fails : Nat} (many : 4 ≤ fails) : lockMinutes (satInc 8 fails) ≠ 0 := by
  have some' := Nat.two_pow_pos (min (fails + 1) 255 - 5)
  rw [lockMinutes_many many]
  omega

theorem Hub.sealUnseal_right {mac : Bytes} {n : BitVec 128} {k : Bytes} (held : h.nonceHeld = some n) (key : h.fseal.key = some k)
    (right : mac = macBytes k (be 16 n.toNat ++ be 6 h.ident.serial.toNat)) : h.sealUnseal mac =
      (h.sealStep fun q => { q with nonce := none, session := q.session || q.st == 2, fails := 0 }).ok [] := by
  unfold Hub.sealUnseal
  rw [held, key]
  exact if_pos (beq_iff_eq.2 right)

theorem Hub.sealUnseal_wrong {mac : Bytes} {n : BitVec 128} (held : h.nonceHeld = some n)
    (wrong : ∀ k, h.fseal.key = some k → mac ≠ macBytes k (be 16 n.toNat ++ be 6 h.ident.serial.toNat)) : h.sealUnseal mac =
      (h.sealStep h.wrongCode).refuse St.isSealed := by
  unfold Hub.sealUnseal
  rw [held]
  refine if_neg ?_
  cases key : h.fseal.key with
  | none => exact Bool.false_ne_true
  | some k => exact fun right => wrong k key (beq_iff_eq.1 right)

theorem Hub.sealUnseal_unheld {mac : Bytes} (unheld : h.nonceHeld = none) :
    h.sealUnseal mac = (h.setSeal fun q => { q with nonce := none }).refuse St.notFound := by
  unfold Hub.sealUnseal
  rw [unheld]

/-- A change of the stored state that Table 18-6 permits (R480). -/
theorem Hub.sealSet_permitted {st : Nat} (known : st ≤ 2) (keyed : st = 2 → h.fseal.key.isSome = true) (changes : st ≠ h.fseal.st)
    (permitted : h.fseal.permits st = true) : h.sealSet st =
      ((h.sealStep fun q => { q with st := st, session := false }).notice unitHub 0x0B02 (argN h.fseal.st) (argN st)).ok [] := by
  unfold Hub.sealSet
  dsimp only
  rw [if_neg, if_neg changes, if_neg (by simp [permitted])]
  rintro (high | ⟨sealed, unkeyed⟩)
  · exact Nat.not_le.2 high known
  · simp [unkeyed] at keyed
    exact keyed sealed

theorem Hub.sealSet_forbidden {st : Nat} (known : st ≤ 2) (keyed : st = 2 → h.fseal.key.isSome = true) (changes : st ≠ h.fseal.st)
    (forbidden : h.fseal.permits st = false) : h.sealSet st = h.refuse St.isSealed := by
  unfold Hub.sealSet
  dsimp only
  rw [if_neg, if_neg changes, if_pos (by simp [forbidden])]
  rintro (high | ⟨sealed, unkeyed⟩)
  · exact Nat.not_le.2 high known
  · simp [unkeyed] at keyed
    exact keyed sealed

/-- The minutes of a lockout are shown anew as they change (Table 13-9). -/
def Hub.showMinutes (h : Hub) : Hub :=
  if h.lockMin ≠ h.fseal.lockSeen then (h.setSeal fun q => { q with lockSeen := h.lockMin }).raise 6 else h

theorem Hub.lockout_runs {u : Nat} (lock : h.fseal.lockUntil = some u) (supplied : h.pwr.vkeepOk = true) (runs : h.clk.elapsed < u) :
    h.lockout = h.showMinutes := by
  unfold Hub.lockout
  rw [lock]
  dsimp only
  have not : (h.pwr.vkeepOk && decide (u ≤ h.clk.elapsed)) = false := by simp [supplied, runs]
  simp only [not, Bool.false_eq_true, if_false]
  simp only [supplied, true_and]
  rfl

theorem Hub.lockout_ends {u : Nat} (lock : h.fseal.lockUntil = some u) (supplied : h.pwr.vkeepOk = true) (past : u ≤ h.clk.elapsed) :
    h.lockout = (h.setSeal fun q => { q with lockUntil := none }).showMinutes := by
  have supplied' : (h.setSeal fun q => { q with lockUntil := none }).pwr.vkeepOk = true := supplied
  unfold Hub.lockout
  rw [lock]
  dsimp only
  have now : (h.pwr.vkeepOk && decide (u ≤ h.clk.elapsed)) = true := by simp [supplied, past]
  simp only [now, if_true]
  simp only [supplied', true_and]
  rfl

theorem Hub.notice_dbw (unit : Word) (code : Nat) (a b : Word) : (h.notice unit code a b).dbw = h.dbw := by
  unfold Hub.notice Hub.event Hub.eventAt
  exact (congrArg Hub.dbw (if_pos rfl)).trans (Hub.recordAt_dbw ..)
end

/-- What a permitted change of the stored state leaves (R480, Table 18-6). -/
theorem Hub.sealSet_moves (h : Hub) {st : Nat} (known : st ≤ 2) (was : h.fseal.st ≤ 2) (keyed : st = 2 → h.fseal.key.isSome = true)
    (changes : st ≠ h.fseal.st) (permitted : h.fseal.permits st = true) : ∃ g, h.sealSet st = g ∧ g.mgmt.reply = ⟨St.ok, 0, 255, []⟩ ∧
      g.fseal = { h.fseal with st := st, session := false, lockSeen := h.lockMin } ∧ g.dbw.irq.getLsbD 6 = true ∧
      (st = 2 → 0x40 ≤ h.tap.ir → h.tap.ir ≤ 0x4F → g.tap = { h.tap with dr := 0 }) ∧
      ((∀ x ∈ h.ports, x.manual = false) → h.hk.dropped = 0 → g.hk.rseq = h.hk.rseq + 1) := by
  have run := Hub.sealSet_permitted known keyed changes permitted
  have fseal := h.sealStep_fseal fun q => { q with st := st, session := false }
  have tap := h.sealStep_tap fun q => { q with st := st, session := false }
  have hk (own) := h.sealStep_hk own fun q => { q with st := st, session := false }
  have changed : (h.sealStep fun q => { q with st := st, session := false }).sealWord ≠ h.sealWord := fun same =>
    changes ((congrArg Seal.st fseal).symm.trans (Hub.sealWord_st same (by omega) ((congrArg Seal.st fseal).trans_le known)))
  have shows := Hub.sealStep_changed changed
  generalize (h.sealStep fun q => { q with st := st, session := false }) = g at run fseal tap hk shows
  refine ⟨_, run, rfl, (g.notice_fseal ..).trans fseal, (congrArg (fun b : Dbw => b.irq.getLsbD 6) (g.notice_dbw ..)).trans shows,
    fun sealed low high => ?_, fun own kept => ?_⟩
  · exact (g.notice_tap ..).trans (tap.trans (Hub.resealed_tap low high sealed rfl))
  · exact (Hub.notice_rseq (by rw [hk own, kept]) ..).trans (by rw [hk own])

end Sys2Proof.Machine

open Sys2Proof Sys2Proof.Machine

/-- Settles O52. Each change of the seal is `sealStep`, whose word shown decides SEAL_CHG; the data registers of the test access port are
`tapIs`. That SEAL_CHG follows each change of LOCK_MIN is the model's choice (log entry 168, DESIGN CHOICE), and what the registers of
SAMPLE/PRELOAD and of debug hold is left open (log entries 94, 197). -/
theorem sealAndTestPort : Obligations.SealAndTestPort := by
  unfold Obligations.SealAndTestPort
  refine ⟨fun s mac key st => ⟨rfl, fun locked => next_congr (if_pos locked), fun free => ⟨_, next_congr (if_neg (by simp [free]))⟩,
    fun unheld => next_congr (Hub.sealUnseal_unheld unheld), fun n k held key right => ⟨_, next_congr (Hub.sealUnseal_right held key right), rfl, ?_⟩,
    fun n held wrong => ⟨_, next_congr (Hub.sealUnseal_wrong held wrong), rfl, ?_⟩, ⟨_, rfl, rfl, ?_, ?_⟩, fun bad => next_congr (if_pos bad),
    fun known keyed same => ?_, fun known keyed changes a b c => ?_, fun permitted => ?_, fun sealed closed => next_congr (if_pos ⟨sealed, by simp [closed]⟩),
    fun open' => ⟨_, next_congr (if_neg ?_), rfl, ?_⟩, fun held => next_same (if_pos held), fun unheld => next_congr (if_neg (by simp [unheld])),
    fun quiet => next_same ?_, fun u lock supplied => ?_⟩, fun s code => ⟨rfl, rfl, rfl, rfl, rfl, rfl, rfl, ⟨_, rfl, rfl, rfl, rfl, rfl⟩,
      fun sealed closed => next_congr (if_neg ?_), fun other => next_congr (if_neg ?_), fun on low high => ⟨_, next_congr (if_pos ⟨?_, low, high⟩), rfl, rfl, rfl, rfl⟩⟩⟩
  · have fseal := s.hub.sealStep_fseal fun q => { q with nonce := none, session := q.session || q.st == 2, fails := 0 }
    exact ⟨(congrArg Seal.nonce fseal).trans rfl, (congrArg Seal.fails fseal).trans rfl, (congrArg Seal.session fseal).trans rfl,
      (congrArg Seal.st fseal).trans rfl⟩
  · have fseal := s.hub.sealStep_fseal s.hub.wrongCode
    have until' := (congrArg Seal.lockUntil fseal).trans rfl
    refine ⟨(congrArg Seal.nonce fseal).trans rfl, (congrArg Seal.fails fseal).trans rfl, (congrArg Seal.session fseal).trans rfl,
      (congrArg Seal.st fseal).trans rfl, fun few => until'.trans ?_, fun fifth => until'.trans ?_, fun many => until'.trans ?_⟩
    · exact if_pos (lockMinutes_few few)
    · exact (if_neg (lockMinutes_runs (Nat.le_of_eq fifth.symm))).trans (by rw [lockMinutes_many (Nat.le_of_eq fifth.symm), fifth]; rfl)
    · exact (if_neg (lockMinutes_runs many)).trans (by rw [lockMinutes_many many])
  · exact (s.hub.sealStep_fseal _).trans rfl
  · exact fun changed => Hub.sealStep_changed changed
  · refine next_congr ((if_neg ?_).trans (if_pos same))
    rintro (high | ⟨sealed, unkeyed⟩)
    · exact Nat.not_le.2 high known
    · simp [unkeyed] at keyed
      exact keyed sealed
  · refine next_congr (Hub.sealSet_forbidden known keyed changes ?_)
    simp only [Seal.permits, Bool.or_eq_false_iff, Bool.and_eq_false_iff, beq_eq_false_iff_ne]
    grind
  · have known : st ≤ 2 := by omega
    have keyed : st = 2 → s.hub.fseal.key.isSome = true := fun sealed => by
      rcases permitted with ⟨-, open'⟩ | ⟨-, -, key⟩ | ⟨-, -, open'⟩
      · omega
      · exact key
      · omega
    have changes : st ≠ s.hub.fseal.st := by omega
    have permits : s.hub.fseal.permits st = true := by
      simp only [Seal.permits, Bool.or_eq_true, Bool.and_eq_true, beq_iff_eq]
      tauto
    obtain ⟨g, run, left⟩ := s.hub.sealSet_moves known (by omega) keyed changes permits
    exact ⟨⟨g, s.pending⟩, next_congr run, left⟩
  · rintro ⟨sealed, closed⟩
    rcases open' with other | session
    · exact other sealed
    · simp [session] at closed
  · exact (s.hub.sealStep_fseal _).trans rfl
  · show s.hub.lockout = s.hub
    unfold Hub.lockout
    rcases quiet with off | dark
    · rw [off]
    · split
      · dsimp only
        rw [if_neg (by simp [dark]), if_neg (by simp [dark])]
      · rfl
  · refine ⟨fun past seen => next_congr ?_, fun past unseen => next_congr ?_, fun runs changed => next_congr ?_, fun runs same => next_same ?_⟩
    · exact (Hub.lockout_ends lock supplied past).trans (if_pos (Ne.symm seen))
    · exact (Hub.lockout_ends lock supplied past).trans (if_neg (not_not.2 unseen.symm))
    · exact (Hub.lockout_runs lock supplied runs).trans (if_pos changed)
    · exact (Hub.lockout_runs lock supplied runs).trans (if_neg (not_not.2 same))
  · simp [Hub.debugOn, Hub.sealOpen, sealed, closed]
  · rintro ⟨-, low, high⟩
    omega
  · simp only [Hub.debugOn, Hub.sealOpen, Bool.or_eq_true, Bool.and_eq_true, beq_iff_eq]
    rcases on with low | session
    · omega
    · exact .inr (.inr session)
end



section
/-! PROOFS. PMBus (R456, R457, R523). -/

namespace Sys2Proof.Machine

/-- The bits of a number given by its list of bits. -/
theorem testBit_ofBits (l : List Nat) (i : Nat) : (ofBits l).testBit i = decide (i ∈ l) := by
  have step (l : List Nat) (a : Nat) : (l.foldl (fun a i => a ||| 2 ^ i) a).testBit i = (a.testBit i || decide (i ∈ l)) := by
    induction l generalizing a with
    | nil => simp
    | cons j l ih =>
      rw [List.foldl_cons, ih, Nat.testBit_or, Nat.testBit_two_pow, Bool.or_assoc]
      simp [eq_comm, Bool.decide_or]
  rw [ofBits, step, Nat.zero_testBit, Bool.false_or]

/-- Bits set together where a condition holds. -/
theorem mem_ite_bits {i : Nat} (b : Bool) (l : List Nat) : i ∈ (if b then l else []) ↔ b = true ∧ i ∈ l := by
  cases b <;> simp

section
variable {h : Hub}

theorem byte_full (b : Byte) : b = 0xFF ↔ b.toNat = 255 := by
  rw [← BitVec.toNat_inj]
  rfl

theorem Hub.setPage_known {b : Byte} {pec : Pec} (good : pec ≠ .bad) (known : b = 0xFF ∨ b.toNat < h.nDies) :
    h.setPage (some b) pec = h.setPmbus fun p => { p with page := b.toNat } :=
  (if_neg good).trans (if_pos (known.imp_left (byte_full b).1))

theorem Hub.setPage_unknown {b : Byte} {pec : Pec} (bad : pec = .bad ∨ (b ≠ 0xFF ∧ h.nDies ≤ b.toNat)) :
    h.setPage (some b) pec = h.setPmbus fun p => { p with cml := true } := by
  rcases bad with bad | ⟨other, absent⟩
  · exact if_pos bad
  · refine (ite_eq_iff'.2 ⟨fun _ => rfl, fun _ => if_neg ?_⟩)
    rintro (full | present)
    · exact other ((byte_full b).2 full)
    · exact Nat.not_lt.2 absent present

theorem Hub.pkgPage_true (pkg : h.pmbus.page = 255) : h.pkgPage = true := beq_iff_eq.2 pkg

theorem Hub.pkgPage_false (die : h.pmbus.page ≠ 255) : h.pkgPage = false := beq_eq_false_iff_ne.2 die

theorem Hub.pageSum_package (pkg : h.pmbus.page = 255) (f : DieReading → Nat) :
    h.pageSum f = ((List.range h.nDies).map fun d => f (h.die d).reading).sum := if_pos (Hub.pkgPage_true pkg)

theorem Hub.pageSum_die (die : h.pmbus.page ≠ 255) (f : DieReading → Nat) : h.pageSum f = f (h.die h.pmbus.page).reading :=
  if_neg (by simp [Hub.pkgPage_false die])

/-- A set bit of STATUS_WORD says that the condition of its row holds (Table 17-7). -/
theorem Hub.statusWord_testBit (i : Nat) : h.statusWord.testBit i = true ↔
    (h.pmbus.iout = true ∧ i ∈ [14, 4]) ∨ (h.pmbus.vin.contains h.pmbus.page = true ∧ i ∈ [13, 3]) ∨
    ((h.pwr.gradient || h.pwr.vexcLow) = true ∧ i ∈ [12]) ∨
    ((if h.pkgPage then h.dies.any (fun (x : Die) => !x.rails) else !(h.die h.pmbus.page).rails) = true ∧ i ∈ [11]) ∨
    ((∀ u, h.pwr.refreshed = some u → u + 20000000 < h.clk.elapsed) ∧ i ∈ [8]) ∨ (h.inKeep = true ∧ i ∈ [6]) ∨
    (h.pmbus.temp.contains h.pmbus.page = true ∧ i ∈ [2]) ∨ (h.pmbus.cml = true ∧ i ∈ [1]) := by
  have stale : (match h.pwr.refreshed with | some t => decide (t + 20000000 < h.clk.elapsed) | none => true) = true ↔
      ∀ u, h.pwr.refreshed = some u → u + 20000000 < h.clk.elapsed := by
    cases h.pwr.refreshed with
    | none => simp
    | some t => simp
  rw [← stale]
  unfold Hub.statusWord
  rw [testBit_ofBits, decide_eq_true_iff]
  simp only [List.mem_append, mem_ite_bits, or_assoc] <;> rfl
end

end Sys2Proof.Machine

open Sys2Proof Sys2Proof.Machine

/-- Settles O45: a read of Table 17-6 takes its value by the page, and STATUS_WORD's bits are the rows of Table 17-7. The lowest bay, the
exponent and rounding of LINEAR11 and CLEAR_FAULTS for all pages are the model's choice (log entry 89, DESIGN CHOICE). -/
theorem pmbus : Obligations.Pmbus := by
  unfold Obligations.Pmbus
  refine fun s b pec code => ⟨rfl, fun good known => next_congr (Hub.setPage_known good known), fun bad => next_congr (Hub.setPage_unknown bad), rfl,
    fun good => ?_, rfl, rfl, rfl, rfl, fun pkg => ?_, fun die => ?_, rfl, rfl, ?_⟩
  · refine next_congr ?_
    show Hub.setPmbus _ _ = _
    simp only [if_neg good, Hub.setPmbus]
  · have page := Hub.pkgPage_true pkg
    refine ⟨next_congr ?_, next_congr (congrArg _ (congrArg Nat.cast (Hub.pageSum_package pkg _))), next_congr ?_, next_congr ?_,
      next_congr (congrArg _ (congrArg Nat.cast (Hub.pageSum_package pkg _))), next_congr (if_pos page),
      next_congr (congrArg _ (congrArg Nat.cast (Hub.pageSum_package pkg _)))⟩
    all_goals
      dsimp only
      rw [page]
      rfl
  · have page := Hub.pkgPage_false die
    refine ⟨next_congr ?_, next_congr (congrArg _ (congrArg Nat.cast (Hub.pageSum_die die _))), next_congr ?_, next_congr ?_,
      next_congr (congrArg _ (congrArg Nat.cast (Hub.pageSum_die die _))),
      next_congr (congrArg _ (congrArg Nat.cast (Hub.pageSum_die die _))), next_congr (if_neg (by simp [page]))⟩
    all_goals
      dsimp only
      rw [page]
      rfl
  · have bit := s.hub.statusWord_testBit
    refine ⟨Bool.eq_iff_iff.2 ((bit 14).trans (by simp)), Bool.eq_iff_iff.2 ((bit 4).trans (by simp)),
      Bool.eq_iff_iff.2 ((bit 13).trans (by simp)), Bool.eq_iff_iff.2 ((bit 3).trans (by simp)), (bit 12).trans (by simp),
      fun pkg => (bit 11).trans (by simp [Hub.pkgPage_true pkg]), fun die => Bool.eq_iff_iff.2 ((bit 11).trans (by simp [Hub.pkgPage_false die])),
      (bit 8).trans (by simp), Bool.eq_iff_iff.2 ((bit 6).trans (by simp)), Bool.eq_iff_iff.2 ((bit 2).trans (by simp)),
      Bool.eq_iff_iff.2 ((bit 1).trans (by simp)), fun i out => ?_⟩
    refine Bool.eq_false_iff.2 fun set => ?_
    have rows := (bit i).1 set
    simp only [List.mem_cons, List.not_mem_nil, or_false, not_or] at rows out
    omega
end

section
/-! PROOFS. The logbook: its wired side and the field commands (R486 to R496). -/

namespace Sys2Proof.Machine

@[simp] theorem Hub.spoolTouch_tag (h : Hub) (d : Nat) (was : Seqs) : (h.spoolTouch d was).tag = h.tag :=
  Hub.spoolTouch_keeps Hub.tag (by intros; rfl) (by intros; rfl) (by intros; rfl) h d was

theorem forAll_tag {α : Type} (f : α → Hub → Hub) (hf : ∀ a h, (f a h).tag = h.tag) (l : List α) (h : Hub) :
    (forAll l f h).tag = h.tag := forAll_keeps Hub.tag f hf l h
theorem iter_tag (f : Hub → Hub) (hf : ∀ h, (f h).tag = h.tag) (n : Nat) (h : Hub) : (iter f n h).tag = h.tag :=
  iter_keeps Hub.tag f hf n h
theorem Hub.tag_mk (x0 x1 x2 x3 x4 x5 x6 x7 x8 x9 x10 x11 x12 x13 x14 x15 x16 x17 x18 x19 x20 x21 x22 x23 x24 x25 x26 x27 x28 x29 x30 x31)
    : (Hub.mk x0 x1 x2 x3 x4 x5 x6 x7 x8 x9 x10 x11 x12 x13 x14 x15 x16 x17 x18 x19 x20 x21 x22 x23 x24 x25 x26 x27 x28 x29 x30 x31).tag =
    x29 := rfl

@[simp] theorem Hub.ctl_tag (h : Hub) (p code payload : Nat) : (h.ctl p code payload).tag = h.tag := by
  simp only [Hub.ctl, ↓Hub.setLink_tag]
@[simp] theorem Hub.watermarks_tag (h : Hub) : h.watermarks.tag = h.tag := by
  simp only [Hub.watermarks, ↓Hub.ctl_tag, ↓Hub.setLink_tag, ↓forAll_tag, ↓Hub.tag_mk, ↓apply_ite Hub.tag, ite_self,
    implies_true]
@[simp] theorem Hub.emitSince_tag (h : Hub) (k : FlowKey) (stream : Nat) (rcd : Bytes) (since : Nat) :
    (h.emitSince k stream rcd since).tag = h.tag := by
  unfold Hub.emitSince
  split <;> simp only [↓Hub.setFlow_tag, ↓Hub.spoolTouch_tag, ↓Hub.watermarks_tag, ↓apply_ite Hub.tag, ite_self]
@[simp] theorem Hub.emitRecord_tag (h : Hub) (k : FlowKey) (stream : Nat) (rcd : Bytes) : (h.emitRecord k stream rcd).tag = h.tag := by
  simp only [Hub.emitRecord, ↓Hub.emitSince_tag]
@[simp] theorem Hub.hkRecord_tag (h : Hub) (t kind : Nat) (payload : Bytes) : (h.hkRecord t kind payload).tag = h.tag := by
  simp only [Hub.hkRecord, ↓Hub.emitRecord_tag, ↓Hub.tag_mk, ↓apply_ite Hub.tag, ite_self]
@[simp] theorem Hub.recordAt_tag (h : Hub) (t kind : Nat) (payload : Bytes) : (h.recordAt t kind payload).tag = h.tag := by
  simp only [Hub.recordAt, ↓Hub.hkRecord_tag, ↓Hub.tag_mk, ↓apply_ite Hub.tag, ite_self]

theorem forAll_ident {α : Type} (f : α → Hub → Hub) (hf : ∀ a h, (f a h).ident = h.ident) (l : List α) (h : Hub) :
    (forAll l f h).ident = h.ident := forAll_keeps Hub.ident f hf l h
theorem iter_ident (f : Hub → Hub) (hf : ∀ h, (f h).ident = h.ident) (n : Nat) (h : Hub) : (iter f n h).ident = h.ident :=
  iter_keeps Hub.ident f hf n h
theorem Hub.ident_mk (x0 x1 x2 x3 x4 x5 x6 x7 x8 x9 x10 x11 x12 x13 x14 x15 x16 x17 x18 x19 x20 x21 x22 x23 x24 x25 x26 x27 x28 x29 x30
    x31) : (Hub.mk x0 x1 x2 x3 x4 x5 x6 x7 x8 x9 x10 x11 x12 x13 x14 x15 x16 x17 x18 x19 x20 x21 x22 x23 x24 x25 x26 x27 x28 x29 x30
    x31).ident = x0 := rfl

@[simp] theorem Hub.syncDrops_ident (h : Hub) (id : Word) : (h.syncDrops id).ident = h.ident := by
  simp only [Hub.syncDrops, ↓Hub.mapCh_ident]
@[simp] theorem Hub.mapDie_ident (h : Hub) (f : Nat → Die → Die) : (h.mapDie f).ident = h.ident := by
  simp only [Hub.mapDie, ↓Hub.ident_mk]
@[simp] theorem Hub.switchDrops_ident (h : Hub) (id : Word) : (h.switchDrops id).ident = h.ident := by
  simp only [Hub.switchDrops, ↓Hub.mapCh_ident, ↓Hub.mapDie_ident]
@[simp] theorem Hub.dropAction_ident (h : Hub) (id : Word) : (h.dropAction id).ident = h.ident := by
  simp only [Hub.dropAction, ↓Hub.switchDrops_ident, ↓Hub.syncDrops_ident, ↓Hub.ident_mk]

@[simp] theorem Hub.syncDrops_clk (h : Hub) (id : Word) : (h.syncDrops id).clk = h.clk := by
  simp only [Hub.syncDrops, ↓Hub.mapCh_clk]
@[simp] theorem Hub.mapDie_clk (h : Hub) (f : Nat → Die → Die) : (h.mapDie f).clk = h.clk := by
  simp only [Hub.mapDie, ↓Hub.clk_mk]
@[simp] theorem Hub.switchDrops_clk (h : Hub) (id : Word) : (h.switchDrops id).clk = h.clk := by
  simp only [Hub.switchDrops, ↓Hub.mapCh_clk, ↓Hub.mapDie_clk]
@[simp] theorem Hub.dropAction_clk (h : Hub) (id : Word) : (h.dropAction id).clk = h.clk := by
  simp only [Hub.dropAction, ↓Hub.switchDrops_clk, ↓Hub.syncDrops_clk, ↓Hub.clk_mk]

@[simp] theorem Hub.syncDrops_tag (h : Hub) (id : Word) : (h.syncDrops id).tag = h.tag := by
  simp only [Hub.syncDrops, ↓Hub.mapCh_tag]
@[simp] theorem Hub.mapDie_tag (h : Hub) (f : Nat → Die → Die) : (h.mapDie f).tag = h.tag := by
  simp only [Hub.mapDie, ↓Hub.tag_mk]
@[simp] theorem Hub.switchDrops_tag (h : Hub) (id : Word) : (h.switchDrops id).tag = h.tag := by
  simp only [Hub.switchDrops, ↓Hub.mapCh_tag, ↓Hub.mapDie_tag]
@[simp] theorem Hub.dropAction_tag (h : Hub) (id : Word) : (h.dropAction id).tag = h.tag := by
  simp only [Hub.dropAction, ↓Hub.switchDrops_tag, ↓Hub.syncDrops_tag, ↓Hub.tag_mk]


/-! ## What the end of a LOG_WRITE leaves (R496) -/

theorem Hub.eventAt_notice (h : Hub) (t : Nat) (u : Word) (c n : Nat) (a b : Word) :
    h.eventAt t u c 0 n a b = h.recordAt t 1 (eventB u c 0 n a b) := by
  unfold Hub.eventAt
  dsimp only
  exact if_pos rfl

theorem Hub.planeDone_keeps {α : Type} (view : Hub → α) (drops : ∀ (h : Hub) (id : Word), view (h.dropAction id) = view h)
    (records : ∀ (h : Hub) (t k : Nat) (b : Bytes), view (h.recordAt t k b) = view h) (h : Hub) (id : Word) (status : Nat) :
    view (h.planeDone id status) = view h := by
  unfold Hub.planeDone
  split
  · unfold Hub.schedDone
    rw [Hub.eventAt_notice, records, drops]
  · rfl

theorem Hub.planeDone_tag (h : Hub) (id : Word) (status : Nat) : (h.planeDone id status).tag = h.tag :=
  Hub.planeDone_keeps Hub.tag Hub.dropAction_tag Hub.recordAt_tag h id status

theorem Hub.planeDone_ident (h : Hub) (id : Word) (status : Nat) : (h.planeDone id status).ident = h.ident :=
  Hub.planeDone_keeps Hub.ident Hub.dropAction_ident Hub.recordAt_ident h id status

theorem Hub.planeDone_clk (h : Hub) (id : Word) (status : Nat) : (h.planeDone id status).clk = h.clk :=
  Hub.planeDone_keeps Hub.clk Hub.dropAction_clk Hub.recordAt_clk h id status

/-- The LOG_WRITEs behind the first; the next one begins its second (R496). -/
def nextWrites (now : Nat) : List LogJob → List LogJob
  | _ :: k :: r => { k with since := now } :: r
  | _ => []

/-- A hub that differs in the tag's writes, and in no other part of the tag or the state that they go by. -/
structure Hub.WritesOnly (h k : Hub) : Prop where
  tag : k.tag = { h.tag with writes := k.tag.writes }
  ident : k.ident = h.ident
  clk : k.clk = h.clk

theorem Hub.jobEnds_tag (h : Hub) (j : LogJob) (status : Nat) :
    (h.jobEnds j status).tag = { h.tag with writes := nextWrites h.clk.elapsed h.tag.writes } := by
  have next : (match h.tag.writes with | _ :: k :: r => { k with since := h.clk.elapsed } :: r | _ => []) =
      nextWrites h.clk.elapsed h.tag.writes := by
    unfold nextWrites
    rfl
  unfold Hub.jobEnds
  dsimp only
  split
  · rw [Hub.planeDone_tag]
    rfl
  · rfl

theorem Hub.jobEnds_writesOnly (h : Hub) (j : LogJob) (status : Nat) : h.WritesOnly (h.jobEnds j status) := by
  refine ⟨by rw [Hub.jobEnds_tag], ?_, ?_⟩
  all_goals
    unfold Hub.jobEnds
    dsimp only
    split
  · rw [Hub.planeDone_ident]
    rfl
  · rfl
  · rw [Hub.planeDone_clk]
    rfl
  · rfl

/-- A LOG_WRITE whose second is over gives up its place, or nothing happens (R496). -/
theorem Hub.writeExpiry_cases (h : Hub) : h.writeExpiry = h ∨
    (h.WritesOnly h.writeExpiry ∧ h.writeExpiry.tag.writes = nextWrites h.clk.elapsed h.tag.writes ∧
      ∃ j q, h.tag.writes = j :: q ∧ j.expired h.clk.elapsed = true) := by
  unfold Hub.writeExpiry
  split
  · exact .inl rfl
  · next j q writes =>
    split
    · exact .inl rfl
    · next over' =>
      rw [not_or, not_or, Bool.not_eq_true', Bool.not_eq_true', Bool.not_eq_false, Bool.not_eq_false] at over'
      obtain ⟨-, expired, -⟩ := over'
      have ends (g : Hub) (tag : g.tag = h.tag) (ident : g.ident = h.ident) (clk : g.clk = h.clk) :
          h.WritesOnly (g.jobEnds j St.busy) ∧ (g.jobEnds j St.busy).tag.writes = nextWrites h.clk.elapsed h.tag.writes := by
        obtain ⟨tag', ident', clk'⟩ := g.jobEnds_writesOnly j St.busy
        refine ⟨⟨by rw [tag', tag], ident'.trans ident, clk'.trans clk⟩, ?_⟩
        rw [Hub.jobEnds_tag, tag, clk]
      have both := ends (match j.owner with
        | .request n => h.tick.setMgmt fun m => m.answers n ⟨St.busy, max 1 (Config.retryEstimate h.tick.fresh 3), 255, []⟩
        | _ => h.tick) (by split <;> rfl) (by split <;> rfl) (by split <;> rfl)
      exact .inr ⟨both.1, both.2, j, q, writes, expired⟩

theorem Hub.writeExpiry_fresh {h : Hub} (fresh : ∀ j q, h.tag.writes = j :: q → j.expired h.clk.elapsed = false) : h.writeExpiry = h := by
  rcases h.writeExpiry_cases with same | ⟨-, -, j, q, writes, expired⟩
  · exact same
  · exact absurd ((fresh j q writes).symm.trans expired) Bool.false_ne_true

/-! ## The next block that the wired side writes (R487, R493) -/

/-- The next block is programmed: the ring's, then that of the first LOG_WRITE. -/
def Hub.takesBlock (h : Hub) : Hub :=
  if h.tag.busy.isSome then h
  else match h.tag.ring, h.tag.writes with
    | (n, _) :: _, _ => h.setTag fun t => { t with busy := some n }
    | [], j :: _ =>
      match j.blocks with
      | (n, _) :: _ => if h.tagLocked ∨ j.expired h.clk.elapsed then h else h.setTag fun t => { t with busy := some n }
      | [] => h
    | [], [] => h

theorem Hub.tagNext_eq (h : Hub) : h.tagNext = h.writeExpiry.takesBlock := rfl

theorem Hub.tagNext_fresh {h : Hub} (fresh : ∀ j q, h.tag.writes = j :: q → j.expired h.clk.elapsed = false) : h.tagNext = h.takesBlock := by
  rw [Hub.tagNext_eq, Hub.writeExpiry_fresh fresh]

section
variable {h : Hub}

theorem Hub.takesBlock_busy (busy : h.tag.busy ≠ none) : h.takesBlock = h := if_pos (Option.isSome_iff_ne_none.2 busy)

theorem Hub.takesBlock_ring {n : Nat} {w : Word} {r : List (Nat × Word)} (idle : h.tag.busy = none) (ring : h.tag.ring = (n, w) :: r) :
    h.takesBlock = h.setTag fun t => { t with busy := some n } := by
  unfold Hub.takesBlock
  rw [idle, ring]
  rfl

theorem Hub.takesBlock_none (ring : h.tag.ring = []) (writes : h.tag.writes = []) : h.takesBlock = h := by
  unfold Hub.takesBlock
  rw [ring, writes]
  exact ite_self _

theorem Hub.takesBlock_write {j : LogJob} {q : List LogJob} {n : Nat} {w : Word} {r : List (Nat × Word)} (idle : h.tag.busy = none)
    (ring : h.tag.ring = []) (writes : h.tag.writes = j :: q) (blocks : j.blocks = (n, w) :: r) :
    h.takesBlock = if h.tagLocked ∨ j.expired h.clk.elapsed then h else h.setTag fun t => { t with busy := some n } := by
  unfold Hub.takesBlock
  rw [idle, ring, writes]
  simp only [Option.isSome_none, Bool.false_eq_true, if_false]
  rw [blocks]

theorem Hub.takesBlock_locked (ring : h.tag.ring = []) (locked : h.tagLocked = true) : h.takesBlock = h := by
  unfold Hub.takesBlock
  split
  · rfl
  · rw [ring]
    split
    · contradiction
    · split
      · exact if_pos (.inl locked)
      · rfl
    · rfl

/-- A block that is taken changes what is programmed alone. -/
theorem Hub.takesBlock_only (h : Hub) : ∃ b, h.takesBlock = { h with tag := { h.tag with busy := b } } := by
  unfold Hub.takesBlock
  split
  · exact ⟨h.tag.busy, rfl⟩
  · split
    · exact ⟨_, rfl⟩
    · split
      · split
        · exact ⟨h.tag.busy, rfl⟩
        · exact ⟨_, rfl⟩
      · exact ⟨h.tag.busy, rfl⟩
    · exact ⟨h.tag.busy, rfl⟩
end

/-- The next block's choice changes the tag's writes and what is programmed alone. -/
theorem Hub.tagNext_only (h : Hub) : ∃ ws b, h.tagNext.tag = { h.tag with writes := ws, busy := b } ∧ h.tagNext.ident = h.ident ∧
    h.tagNext.clk = h.clk := by
  rw [Hub.tagNext_eq]
  obtain ⟨b, takes⟩ := h.writeExpiry.takesBlock_only
  rw [takes]
  rcases h.writeExpiry_cases with same | ⟨⟨tag, ident, clk⟩, -⟩
  · rw [same]
    exact ⟨h.tag.writes, b, rfl, rfl, rfl⟩
  · refine ⟨h.writeExpiry.tag.writes, b, ?_, ident, clk⟩
    show { h.writeExpiry.tag with busy := b } = _
    rw [tag]

/-! ## Blocks (R485) -/

section
variable {h k : Hub} {n : Nat} {w : Word}

theorem Hub.block_congr (ident : k.ident = h.ident) (mem : k.tag.mem = h.tag.mem) (m : Nat) : k.block m = h.block m := by
  unfold Hub.block
  rw [ident, mem]

/-- A block that is written reads as it was written, and every other as before. -/
theorem Hub.putBlock_reads (wf : TagMemory.wf h.tag.mem) (low : 64 ≤ n) (high : n < 2048) :
    (h.putBlock n w).block n = w ∧ (∀ m, m ≠ n → (h.putBlock n w).block m = h.block m) ∧ TagMemory.wf (h.putBlock n w).tag.mem := by
  have put : h.putBlock n w = h.setTag fun t => { t with mem := tagPut n w t.mem } := if_pos ⟨low, high⟩
  refine ⟨?_, fun m other => ?_, (h.putBlock_spec n w wf).1⟩
  · rw [put, Hub.block, if_neg (Nat.not_lt.2 low)]
    exact tagPut_same n w h.tag.mem wf.1
  · rw [put, Hub.block, Hub.block]
    refine if_congr Iff.rfl rfl ?_
    exact congrArg (fun x => (Option.map Prod.snd x).getD (blankBlock m)) (tagPut_other n m w h.tag.mem other)

theorem Hub.putBlock_tag (h : Hub) (n : Nat) (w : Word) : ∃ m, h.putBlock n w = { h with tag := { h.tag with mem := m } } := by
  unfold Hub.putBlock
  split
  · exact ⟨_, rfl⟩
  · exact ⟨h.tag.mem, rfl⟩

/-! ## What the tag answers (R490 to R492) -/

variable {r : TagReq}

theorem Hub.onTag_other (other : h.tagFor r = false) (f : Hub → Hub) : h.onTag r f = h.tagSay none := if_neg (by simp [other])

theorem Hub.onTag_mine (mine : h.tagFor r = true) (f : Hub → Hub) : h.onTag r f = f h := if_pos mine

theorem Hub.inUse_iff {first count : Nat} : h.inUse first count = true ↔ ∃ b, h.tag.busy = some b ∧ first ≤ b ∧ b < first + count := by
  unfold Hub.inUse
  split
  · next b busy => simp [busy]
  · next idle => simp [idle]

theorem Hub.tagRead_beyond {limit first count : Nat} (mine : h.tagFor r = true) (beyond : 64 < count ∨ limit < first + count) :
    h.tagRead r limit first count = h.tagErr 0x10 := (Hub.onTag_mine mine _).trans (if_pos beyond)

theorem Hub.tagRead_used {limit first count : Nat} (mine : h.tagFor r = true) (few : count ≤ 64) (within : first + count ≤ limit)
    (used : ∃ b, h.tag.busy = some b ∧ first ≤ b ∧ b < first + count) : h.tagRead r limit first count = h.tagErr 0xA1 :=
  (Hub.onTag_mine mine _).trans ((if_neg (by omega)).trans (if_pos (Hub.inUse_iff.2 used)))

theorem Hub.tagRead_free {limit first count : Nat} (mine : h.tagFor r = true) (few : count ≤ 64) (within : first + count ≤ limit)
    (free : ¬∃ b, h.tag.busy = some b ∧ first ≤ b ∧ b < first + count) :
    h.tagRead r limit first count = h.tagOk (h.blockBytes first count) :=
  (Hub.onTag_mine mine _).trans ((if_neg (by omega)).trans (if_neg fun used => free (Hub.inUse_iff.1 used)))

theorem Hub.blockBytes_one (h : Hub) (a : Nat) : h.blockBytes a 1 = be 4 (h.block a).toNat := by
  simp [Hub.blockBytes]

theorem ownerNote_iff {m : Nat} : ownerNote m = true ↔ 1600 ≤ m ∧ m < 1984 := decide_eq_true_iff

theorem Hub.tagWrite_beyond {limit : Nat} (mine : h.tagFor r = true) (beyond : limit ≤ n) : h.tagWrite r limit n w = h.tagErr 0x10 :=
  (Hub.onTag_mine mine _).trans (if_pos beyond)

theorem Hub.tagWrite_other {limit : Nat} (mine : h.tagFor r = true) (within : n < limit) (other : n < 1600 ∨ 1984 ≤ n) :
    h.tagWrite r limit n w = h.tagErr 0x12 := by
  have note : ownerNote n = false := Bool.eq_false_iff.2 fun note => by
    have both := ownerNote_iff.1 note
    omega
  exact (Hub.onTag_mine mine _).trans ((if_neg (Nat.not_le.2 within)).trans (if_pos (by simp [note])))

theorem Hub.tagWrite_note (mine : h.tagFor r = true) (low : 1600 ≤ n) (high : n < 1984) : h.tagWrite r 2048 n w =
    if h.inUse n 1 then h.tagErr 0xA1 else if !r.writeField then h.tagErr 0x13 else (h.putBlock n w).tagOk [] :=
  (Hub.onTag_mine mine _).trans ((if_neg (by omega)).trans (if_neg (by simp [ownerNote_iff.2 ⟨low, high⟩])))

theorem Hub.tagCustom_ours {mfr : Byte} (ours : mfr = h.ident.icMfr) (f : Hub → Hub) : h.tagCustom r mfr f = h.onTag r f := if_pos ours

theorem Hub.tagCustom_other {mfr : Byte} (other : h.tagFor r = false ∨ mfr ≠ h.ident.icMfr) (f : Hub → Hub) :
    h.tagCustom r mfr f = h.tagSay none := by
  unfold Hub.tagCustom
  split
  · next ours => exact Hub.onTag_other (other.resolve_right fun theirs => theirs ours) f
  · rfl

theorem Hub.tagUnsupported_silent {code : Nat} {mfr : Byte} (known : h.tagFor r = false ∨ code = 0 ∨ 0xA0 ≤ code)
    (custom : h.tagFor r = false ∨ mfr ≠ h.ident.icMfr ∨ ¬(code = 0xA1 ∨ (0xA3 ≤ code ∧ code ≤ 0xDF))) :
    h.tagUnsupported r code mfr = h.tagSay none := by
  unfold Hub.tagUnsupported
  split
  · exact Hub.onTag_other (known.resolve_right (by omega)) _
  · split
    · next mine => exact Hub.tagCustom_other (custom.imp_right fun c => c.resolve_right fun no => no mine) _
    · rfl
end

end Sys2Proof.Machine

open Sys2Proof Sys2Proof.Machine

/-- Settles O49. A command that is for the tag (`onTag`) answers by its own rule. The frames of ISO/IEC 15693, its modes and byte order, no
answer to codes from 0xE0 and LSEQ 0xFFFFFFFF come from outside the spec (log entry 91, PRESUMED, with 90 and 92). -/
theorem fieldCommands : Obligations.FieldCommands := by
  unfold Obligations.FieldCommands
  refine fun s r a n w sl ml mask afi mfr => ⟨fun other => ?_, fun mine => ?_, fun code => next_congr (Hub.tagUnsupported_silent ?_ ?_), fun theirs => ?_,
    fun addressed one => ?_, fun u other addressed => ?_, fun elsewhere => ?_, fun silent => next_congr ?_, fun awake one fits hit => next_congr ?_⟩
  · have say (f : Hub → Hub) := next_congr (p := s.pending) (Hub.onTag_other other f)
    have custom (f : Hub → Hub) := next_congr (p := s.pending) (Hub.tagCustom_other (mfr := mfr) (.inl other) f)
    exact ⟨say _, say _, say _, say _, say _, say _, say _, say _, say _, say _, say _, custom _, custom _,
      next_congr (Hub.tagUnsupported_silent (.inl other) (.inl other))⟩
  · refine ⟨fun free low => next_congr ?_, fun free low => next_congr ?_, fun used => ⟨fun low => next_congr ?_, fun low => next_congr ?_⟩,
      fun high => ⟨next_congr ?_, next_congr ?_⟩, fun high => ⟨next_congr ?_, next_congr ?_⟩, fun free few low => next_congr ?_,
      fun free few low => next_congr ?_, fun used few => ⟨fun low => next_congr ?_, fun low => next_congr ?_⟩, fun beyond => next_congr ?_,
      fun beyond => next_congr ?_, fun low => next_congr ?_, fun other => next_congr ?_, fun low high used => next_congr ?_,
      fun low high free weak => next_congr ?_, fun low high free strong wf => ?_, fun within => next_congr ?_, fun beyond => next_congr ?_,
      fun beyond => next_congr ?_, fun within => next_congr ?_, next_congr ?_, next_congr ?_, next_congr ?_, fun ours long => next_congr ?_,
      fun ours least most => next_congr ?_, fun ours => ?_, fun ours => next_congr ?_, fun least most => next_congr ?_, fun ours code => next_congr ?_⟩
    · exact (Hub.tagRead_free mine (by decide) low free).trans (congrArg s.hub.tagOk (s.hub.blockBytes_one a))
    · exact (Hub.tagRead_free mine (by decide) low free).trans (congrArg s.hub.tagOk (s.hub.blockBytes_one a))
    · exact Hub.tagRead_used mine (by decide) low used
    · exact Hub.tagRead_used mine (by decide) low used
    · exact Hub.tagRead_beyond mine (.inr (Nat.lt_succ_of_le high))
    · exact Hub.tagWrite_beyond mine high
    · exact Hub.tagRead_beyond mine (.inr (Nat.lt_succ_of_le high))
    · exact Hub.tagWrite_beyond mine high
    · exact Hub.tagRead_free mine few low free
    · exact Hub.tagRead_free mine few low free
    · exact Hub.tagRead_used mine few low used
    · exact Hub.tagRead_used mine few low used
    · exact Hub.tagRead_beyond mine beyond
    · exact Hub.tagRead_beyond mine beyond
    · exact Hub.tagWrite_other mine low (.inl (by omega))
    · exact Hub.tagWrite_other mine (by omega) (by omega)
    · exact (Hub.tagWrite_note mine low high).trans (if_pos (Hub.inUse_iff.2 used))
    · exact (Hub.tagWrite_note mine low high).trans ((if_neg fun used => free (Hub.inUse_iff.1 used)).trans (if_pos (by simp [weak])))
    · have writes := (Hub.tagWrite_note (w := w) mine low high).trans
        ((if_neg fun used => free (Hub.inUse_iff.1 used)).trans (if_neg (by simp [strong])))
      obtain ⟨same, others, wf'⟩ := Hub.putBlock_reads (w := w) wf (by omega : 64 ≤ a) (by omega)
      obtain ⟨m, put⟩ := s.hub.putBlock_tag a w
      have tag := congrArg Hub.tag put
      exact ⟨_, next_congr writes, rfl, same, others, wf', (congrArg Tag.writes tag).trans rfl, (congrArg Tag.ring tag).trans rfl,
        (congrArg Tag.busy tag).trans rfl⟩
    · refine (Hub.onTag_mine mine _).trans ((if_neg (Nat.not_lt.2 within)).trans (congrArg s.hub.tagOk ?_))
      refine List.eq_replicate_iff.2 ⟨by rw [List.length_map, List.length_range], fun x mem => ?_⟩
      obtain ⟨i, among, rfl⟩ := List.mem_map.1 mem
      have low := List.mem_range.1 among
      exact if_neg fun note => by
        have both := ownerNote_iff.1 note
        omega
    · exact (Hub.onTag_mine mine _).trans (if_pos beyond)
    · exact (Hub.onTag_mine mine _).trans (if_pos beyond)
    · refine (Hub.onTag_mine mine _).trans ((if_neg (Nat.not_lt.2 within)).trans (congrArg s.hub.tagOk ?_))
      exact List.map_congr_left fun i _ => if_congr ownerNote_iff rfl rfl
    · exact Hub.onTag_mine mine _
    · exact Hub.onTag_mine mine _
    · exact Hub.onTag_mine mine _
    · exact (Hub.tagCustom_ours ours _).trans ((Hub.onTag_mine mine _).trans (if_pos long))
    · exact (Hub.tagCustom_ours ours _).trans ((Hub.onTag_mine mine _).trans ((if_neg (Nat.not_lt.2 most)).trans (if_neg (by omega))))
    · have unlocks : s.hub.ownerLock r mfr 0 = ((s.hub.setTag fun t => { t with lockUntil := none }).tagNext).tagOk [] :=
        (Hub.tagCustom_ours ours _).trans (Hub.onTag_mine mine _)
      obtain ⟨ws, b, tag, -, -⟩ := (s.hub.setTag fun t => { t with lockUntil := none }).tagNext_only
      exact ⟨_, next_congr unlocks, (congrArg Tag.lockUntil tag).trans rfl, rfl, (congrArg Tag.mem tag).trans rfl⟩
    · refine (Hub.tagCustom_ours ours _).trans ((Hub.onTag_mine mine _).trans ?_)
      have none' : (if s.hub.tag.writes.isEmpty then 0 else 4) = if s.hub.tag.writes = [] then 0 else 4 := by cases s.hub.tag.writes <;> rfl
      rw [none']
      rfl
    · exact (if_pos ⟨least, most⟩).trans (Hub.onTag_mine mine _)
    · exact (if_neg (by omega)).trans ((if_pos code).trans ((Hub.tagCustom_ours ours _).trans (Hub.onTag_mine mine _)))
  · omega
  · omega
  · have custom (f : Hub → Hub) := next_congr (p := s.pending) (Hub.tagCustom_other (h := s.hub) (r := r) (.inr theirs) f)
    exact ⟨custom _, custom _, fun high => next_congr (Hub.tagUnsupported_silent (.inr (.inr high)) (.inr (.inl theirs)))⟩
  · refine ⟨next_congr ?_, next_congr ?_⟩
    · show s.hub.tagSelect r = _
      unfold Hub.tagSelect
      rw [addressed]
      exact (if_neg (by simp [one])).trans (if_pos rfl)
    · show s.hub.stayQuiet r = _
      unfold Hub.stayQuiet
      rw [addressed]
      exact congrArg (Hub.tagSay · none) (if_pos ⟨rfl, by simp [one]⟩)
  · refine ⟨next_congr ?_, fun one => next_congr ?_⟩
    · show s.hub.stayQuiet r = _
      unfold Hub.stayQuiet
      rw [addressed]
      exact congrArg (Hub.tagSay · none) (if_neg fun both => other both.1)
    · show s.hub.tagSelect r = _
      unfold Hub.tagSelect
      rw [addressed]
      exact (if_neg (by simp [one])).trans (if_neg other)
  · refine ⟨next_congr ?_, next_congr ?_⟩
    · show s.hub.tagSelect r = _
      unfold Hub.tagSelect
      split
      · next u mode =>
        exact if_pos (elsewhere.resolve_left (by simp [mode]) |>.resolve_left (by simp [mode]))
      · rfl
    · show s.hub.stayQuiet r = _
      unfold Hub.stayQuiet
      split
      · next u mode =>
        have two := elsewhere.resolve_left (by simp [mode]) |>.resolve_left (by simp [mode])
        exact congrArg (Hub.tagSay · none) (if_neg (by simp [two]))
      · rfl
  · refine if_pos ?_
    rcases silent with quiet | two | ⟨b, rfl, some'⟩ | differs
    · exact .inr (.inl quiet)
    · exact .inl two
    · exact .inr (.inr (.inr (by simpa using some')))
    · exact .inr (.inr (.inl (by simpa using Ne.symm differs)))
  · refine if_neg ?_
    rcases fits with rfl | rfl <;> simp [awake, one, hit]
end

section
/-! PROOFS. The logbook from the wired side (R486 to R489, R493, R495, R496). -/

namespace Sys2Proof.Machine

section
variable {h : Hub}

/-! ## LOG_READ -/

theorem Hub.ownerNotes_any (first count : Nat) : ((List.range count).any fun i => ownerNote (first + i)) = true ↔
    ∃ i < count, 1600 ≤ first + i ∧ first + i < 1984 := by
  simp [ownerNote]

theorem Hub.logRead_bad {first count : Nat} (bad : count = 0 ∨ 1020 < count ∨ 2048 < first + count) :
    h.logRead first count = h.refuse St.badArg := if_pos bad

theorem Hub.logRead_free {first count : Nat} (least : 1 ≤ count) (most : count ≤ 1020) (within : first + count ≤ 2048)
    (free : h.tagLocked = false ∨ ¬∃ i < count, 1600 ≤ first + i ∧ first + i < 1984) :
    h.logRead first count = h.ok (h.blockBytes first count) := by
  refine (if_neg (by omega)).trans (if_neg ?_)
  rintro ⟨locked, notes⟩
  rcases free with unlocked | none'
  · exact Bool.false_ne_true (unlocked.symm.trans locked)
  · exact none' ((Hub.ownerNotes_any first count).1 notes)

theorem Hub.logRead_locked {first count : Nat} (least : 1 ≤ count) (most : count ≤ 1020) (within : first + count ≤ 2048)
    (locked : h.tagLocked = true) (notes : ∃ i < count, 1600 ≤ first + i ∧ first + i < 1984) :
    h.logRead first count = h.tick.busy (Config.retryEstimate h.tick.fresh 3) :=
  (if_neg (by omega)).trans (if_pos ⟨locked, (Hub.ownerNotes_any first count).2 notes⟩)

/-! ## LOG_WRITE -/

/-- A LOG_WRITE of the host as it waits (R496). -/
def Hub.writeJob (h : Hub) (first : Nat) (data : List Word) : LogJob := ⟨.direct, data.zipIdx.map fun p => (first + p.2, p.1), h.clk.elapsed⟩

/-- A LOG_WRITE has been taken in behind those in progress. -/
def Hub.writeTaken (h : Hub) (first : Nat) (data : List Word) : Hub := h.setTag fun t => { t with writes := t.writes ++ [h.writeJob first data] }

theorem Hub.logWrite_bad {first : Nat} {data : List Word} (bad : data = [] ∨ 1018 < data.length ∨ first < 1600 ∨ 1984 < first + data.length) :
    h.logWrite first data .direct = h.refuse St.badArg := if_pos (bad.imp_left fun none' => by rw [none']; rfl)

theorem Hub.logWrite_taken {first : Nat} {data : List Word} (some' : data ≠ []) (few : data.length ≤ 1018) (low : 1600 ≤ first)
    (high : first + data.length ≤ 1984) : h.logWrite first data .direct = ((h.writeTaken first data).tagNext).ok [] :=
  if_neg (by
    have length := List.length_pos_iff.2 some'
    omega)

theorem Hub.writeJob_fresh (h : Hub) (first : Nat) (data : List Word) : (h.writeJob first data).expired h.clk.elapsed = false :=
  decide_eq_false (by simp [Hub.writeJob])

theorem Hub.writeJob_blocks (h : Hub) (first : Nat) {data : List Word} (some' : data ≠ []) :
    ∃ w r, (h.writeJob first data).blocks = (first, w) :: r := by
  cases data with
  | nil => exact absurd rfl some'
  | cons w data => exact ⟨w, _, rfl⟩

theorem getLast?_nextWrites (now : Nat) {ws : List LogJob} (several : ws.length ≠ 1) :
    ((nextWrites now ws).map LogJob.blocks).getLast? = (ws.map LogJob.blocks).getLast? := by
  match ws with
  | [] => rfl
  | [_] => exact absurd rfl several
  | i :: k :: r => simp [nextWrites, List.getLast?_cons_cons]

theorem Hub.takesBlock_writes (h : Hub) : h.takesBlock.tag.writes = h.tag.writes := by
  obtain ⟨b, takes⟩ := h.takesBlock_only
  rw [takes]

/-- A LOG_WRITE that is taken in waits last, with all its blocks. -/
theorem Hub.writeTaken_last (first : Nat) (data : List Word) : ((h.writeTaken first data).tagNext.tag.writes.map LogJob.blocks).getLast? =
    some (h.writeJob first data).blocks := by
  have last : ((h.writeTaken first data).tag.writes.map LogJob.blocks).getLast? = some (h.writeJob first data).blocks := by
    simp [Hub.writeTaken, Hub.setTag]
  rw [Hub.tagNext_eq, Hub.takesBlock_writes]
  rcases (h.writeTaken first data).writeExpiry_cases with same | ⟨-, next, j, q, writes, expired⟩
  · rw [same, last]
  · rw [next, getLast?_nextWrites _ (fun one => ?_), last]
    have alone : h.tag.writes = [] := by simpa [Hub.writeTaken, Hub.setTag] using one
    have first' : j = h.writeJob first data := by
      have all : (h.writeTaken first data).tag.writes = [h.writeJob first data] := by simp [Hub.writeTaken, Hub.setTag, alone]
      exact (List.cons.inj (writes.symm.trans all)).1
    rw [first'] at expired
    exact Bool.false_ne_true ((h.writeJob_fresh first data).symm.trans expired)

/-- The tag's first LOG_WRITE has not run out of its second. -/
def Hub.Fresh (h : Hub) : Prop := ∀ j q, h.tag.writes = j :: q → j.expired h.clk.elapsed = false

theorem Hub.writeTaken_fresh (first : Nat) (data : List Word) (alone : h.tag.writes = []) : (h.writeTaken first data).Fresh := by
  intro j q writes
  have all : (h.writeTaken first data).tag.writes = [h.writeJob first data] := by simp [Hub.writeTaken, Hub.setTag, alone]
  rw [(List.cons.inj (writes.symm.trans all)).1]
  exact h.writeJob_fresh first data

/-! ## The ring (R486 to R488) -/

/-- A ring entry may begin (R487, R488). -/
def Hub.EntryDue (h : Hub) : Prop := h.tag.queue ≠ [] ∧ (∀ u, h.tag.lastEntry = some u → u + 1000000000 ≤ h.clk.elapsed) ∧ h.tag.ring = [] ∧
  h.sheds3 = false ∧ h.pwr.holdUp = none ∧ h.manages = true

/-- The blocks of a ring entry in the order in which they are written (R487). -/
def entryBlocks (seq t : Nat) (event : Bytes) : List (Nat × Word) :=
  (64 + 8 * (seq % 192), 0xFFFFFFFF) :: (List.range 7).map (fun i => (64 + 8 * (seq % 192) + 1 + i,
    wordAt (be 2 (secHi t) ++ be 1 (eraOf t) ++ pad 1 ++ stampB t ++ event) (4 * i))) ++ [(64 + 8 * (seq % 192), BitVec.ofNat 32 seq)]

/-- The oldest queued entry has left the queue for its slot (R486). -/
def Hub.entryBegun (h : Hub) (t : Nat) (ev : Bytes) (rest : List (Nat × Bytes)) : Hub := h.setTag fun x => { x with
  queue := rest, lseq := h.tag.lseq + 1, lastEntry := some h.clk.elapsed, ring := entryBlocks h.tag.lseq t ev }

/-- The last ring entry began less than 1 s ago (R488). -/
def Hub.entryEarly (h : Hub) : Bool := match h.tag.lastEntry with | some t => decide (h.clk.elapsed < t + 1000000000) | none => false

theorem Hub.entryEarly_false : h.entryEarly = false ↔ ∀ u, h.tag.lastEntry = some u → u + 1000000000 ≤ h.clk.elapsed := by
  unfold Hub.entryEarly
  split
  · next t last => simp [last]
  · next none' => simp [none']

theorem Hub.ringEntry_eq {t : Nat} {ev : Bytes} {rest : List (Nat × Bytes)} (queue : h.tag.queue = (t, ev) :: rest) : h.ringEntry =
    if h.entryEarly ∨ !h.tag.ring.isEmpty ∨ h.sheds3 ∨ h.pwr.holdUp.isSome ∨ !h.manages then h else (h.entryBegun t ev rest).tagNext := by
  unfold Hub.ringEntry
  rw [queue]
  rfl

theorem Hub.entryDue_iff {t : Nat} {ev : Bytes} {rest : List (Nat × Bytes)} (queue : h.tag.queue = (t, ev) :: rest) : h.EntryDue ↔
    ¬(h.entryEarly = true ∨ (!h.tag.ring.isEmpty) = true ∨ h.sheds3 = true ∨ h.pwr.holdUp.isSome = true ∨ (!h.manages) = true) := by
  rw [Hub.EntryDue, ← Hub.entryEarly_false, queue]
  simp [not_or]

theorem Hub.ringEntry_not (not : ¬h.EntryDue) : h.ringEntry = h := by
  cases queue : h.tag.queue with
  | nil =>
    unfold Hub.ringEntry
    rw [queue]
  | cons x rest =>
    rw [Hub.ringEntry_eq queue]
    exact if_pos (not_not.1 fun due => not ((Hub.entryDue_iff queue).2 due))

theorem Hub.ringEntry_begins (due : h.EntryDue) : ∃ t ev rest, h.tag.queue = (t, ev) :: rest ∧ h.ringEntry =
    (h.entryBegun t ev rest).tagNext := by
  obtain ⟨x, rest, queue⟩ := List.exists_cons_of_ne_nil due.1
  exact ⟨x.1, x.2, rest, queue, (Hub.ringEntry_eq queue).trans (if_neg ((Hub.entryDue_iff queue).1 due))⟩

/-- While the tag is free the next block of the ring is taken first (R487). -/
theorem Hub.tagNext_ring {n : Nat} {w : Word} {r : List (Nat × Word)} (ring : h.tag.ring = (n, w) :: r) :
    h.tagNext.tag.busy = some (h.tag.busy.getD n) := by
  rw [Hub.tagNext_eq]
  have kept : h.writeExpiry.tag.ring = (n, w) :: r ∧ h.writeExpiry.tag.busy = h.tag.busy := by
    rcases h.writeExpiry_cases with same | ⟨⟨tag, -, -⟩, -⟩
    · rw [same]
      exact ⟨ring, rfl⟩
    · rw [tag]
      exact ⟨ring, rfl⟩
  obtain ⟨ring', busy⟩ := kept
  cases idle : h.tag.busy with
  | none => rw [Hub.takesBlock_ring (busy.trans idle) ring']; rfl
  | some m => rw [Hub.takesBlock_busy (by rw [busy, idle]; exact nofun), busy, idle]; rfl

/-- The first LOG_WRITE starts where the tag is free and not locked (R493, R495). -/
theorem Hub.tagNext_write {j : LogJob} {q : List LogJob} {n : Nat} {w : Word} {r : List (Nat × Word)} (idle : h.tag.busy = none)
    (ring : h.tag.ring = []) (writes : h.tag.writes = j :: q) (blocks : j.blocks = (n, w) :: r) (fresh : j.expired h.clk.elapsed = false)
    (unlocked : h.tagLocked = false) : h.tagNext = h.setTag fun t => { t with busy := some n } := by
  rw [Hub.tagNext_fresh fun i q' first => (List.cons.inj (writes.symm.trans first)).1 ▸ fresh, Hub.takesBlock_write idle ring writes blocks]
  exact if_neg (by simp [fresh, unlocked])

/-! ## A block has been written (R493) -/

theorem Hub.blockWritten_ring {n : Nat} {w : Word} {r : List (Nat × Word)} (busy : h.tag.busy = some n) (ring : h.tag.ring = (n, w) :: r) :
    h.blockWritten n = (((h.setTag fun t => { t with busy := none }).putBlock n w).setTag fun t => { t with ring := r }).tagNext := by
  unfold Hub.blockWritten
  rw [if_neg (not_not.2 busy)]
  dsimp only [Hub.setTag]
  rw [ring]
  exact if_pos rfl

theorem Hub.blockWritten_note {o : LogOwner} {u n : Nat} {w : Word} {r : List (Nat × Word)} {q : List LogJob} (busy : h.tag.busy = some n)
    (ring : h.tag.ring = []) (writes : h.tag.writes = ⟨o, (n, w) :: r, u⟩ :: q) : h.blockWritten n =
      if r.isEmpty then (((h.setTag fun t => { t with busy := none }).putBlock n w).jobEnds ⟨o, (n, w) :: r, u⟩ St.ok).tagNext
      else (((h.setTag fun t => { t with busy := none }).putBlock n w).setTag fun t => { t with writes := ⟨o, r, h.clk.elapsed⟩ :: q }).tagNext := by
  unfold Hub.blockWritten
  rw [if_neg (not_not.2 busy)]
  dsimp only [Hub.setTag]
  rw [ring, writes]
  exact if_neg (not_not.2 rfl)
/-- The hub with a block written that the wired side was programming (R493). -/
def Hub.programmed (h : Hub) (n : Nat) (w : Word) : Hub := (h.setTag fun t => { t with busy := none }).putBlock n w

theorem Hub.programmed_tag (h : Hub) (n : Nat) (w : Word) : ∃ m, h.programmed n w = { h with tag := { h.tag with busy := none, mem := m } } := by
  obtain ⟨m, put⟩ := (h.setTag fun t => { t with busy := none }).putBlock_tag n w
  exact ⟨m, put⟩

/-- What a hub shows of its blocks after a block is written, whatever is taken next. -/
theorem Hub.programmed_reads {k : Hub} {n : Nat} {w : Word} (wf : TagMemory.wf h.tag.mem) (low : 64 ≤ n) (high : n < 2048)
    (ident : k.ident = h.ident) (mem : k.tag.mem = (h.programmed n w).tag.mem) :
    k.block n = w ∧ (∀ m, m ≠ n → k.block m = h.block m) ∧ TagMemory.wf k.tag.mem := by
  obtain ⟨m, put⟩ := h.programmed_tag n w
  obtain ⟨same, others, wf'⟩ := Hub.putBlock_reads (h := h.setTag fun t => { t with busy := none }) (w := w) wf low high
  have block := Hub.block_congr (k := k) (h := h.programmed n w) (ident.trans (by rw [put])) mem
  exact ⟨(block n).trans same, fun i other => (block i).trans ((others i other).trans rfl), mem ▸ wf'⟩

/-- A LOG_WRITE goes on with its next block. -/
def Hub.noteLeft (h : Hub) (n : Nat) (w : Word) (o : LogOwner) (r : List (Nat × Word)) (q : List LogJob) : Hub :=
  (h.programmed n w).setTag fun t => { t with writes := ⟨o, r, h.clk.elapsed⟩ :: q }

theorem nextWrites_blocks (now : Nat) (j : LogJob) (q : List LogJob) : (nextWrites now (j :: q)).map LogJob.blocks = q.map LogJob.blocks := by
  cases q <;> rfl

theorem nextWrites_fresh (now : Nat) (ws : List LogJob) (j : LogJob) (q : List LogJob) (next : nextWrites now ws = j :: q) :
    j.expired now = false := by
  unfold nextWrites at next
  split at next
  · cases next
    exact decide_eq_false (by simp)
  · cases next
end

end Sys2Proof.Machine

open Sys2Proof Sys2Proof.Machine

/-- Settles O48. The tag's own order of blocks is `tagNext`: the ring's, then those of the first LOG_WRITE. A second LOG_WRITE that waits
behind the first is the model's reading (log entry 167, DEDUCED), as is what log entry 99 (DEDUCED) gives the pace of the ring. -/
theorem logbookWiredSide : Obligations.LogbookWiredSide := by
  unfold Obligations.LogbookWiredSide
  refine fun s a n data w r => ⟨fun bad => next_congr (Hub.logRead_bad bad), fun least most within free => ?read,
    fun least most within locked notes => ⟨_, next_congr (Hub.logRead_locked least most within locked notes), rfl, Nat.le_max_left .., rfl, rfl⟩,
    fun bad => next_congr (Hub.logWrite_bad bad), fun some' few low high => ?write, fun not => next_same (Hub.ringEntry_not not),
    fun due => ?entry, fun other => next_same (if_pos other), fun busy ring low high wf => ?ringBlock,
    fun o u q busy ring writes low high wf => ?noteBlock, fun none' => next_same (if_pos none'),
    fun lost room => next_congr (if_neg (by omega)), fun unlocked => next_same ?unlocked, fun u lock runs => next_same ?runs,
    fun u lock past => ?past, ?absent⟩
  case read =>
    obtain ⟨length, records⟩ := flatMap_record (f := fun i => be 4 (s.hub.block (a + i)).toNat) (fun i => be_length 4 _) (List.range n)
    rw [List.length_range] at length
    exact ⟨_, next_congr (Hub.logRead_free least most within free), length, fun i under => records i i (List.getElem?_range under)⟩
  case write =>
    have taken := Hub.logWrite_taken (h := s.hub) some' few low high
    refine ⟨fun alone idle ring unlocked => next_congr (taken.trans ?_), fun alone ring held => next_congr (taken.trans ?_),
      fun others busy fresh => next_congr (taken.trans ?_), _, next_congr taken, rfl, ?_, s.hub.writeTaken_last a data⟩
    · obtain ⟨w, r, blocks⟩ := s.hub.writeJob_blocks a some'
      have writes : (s.hub.writeTaken a data).tag.writes = [s.hub.writeJob a data] := by simp [Hub.writeTaken, Hub.setTag, alone]
      rw [Hub.tagNext_write (h := s.hub.writeTaken a data) idle ring writes blocks (s.hub.writeJob_fresh a data) unlocked, Hub.writeTaken]
      dsimp only [Hub.setTag]
      rw [alone]
      rfl
    · rw [Hub.tagNext_fresh (s.hub.writeTaken_fresh a data alone)]
      have same : (s.hub.writeTaken a data).takesBlock = s.hub.writeTaken a data := by
        rcases held with busy | locked
        · exact Hub.takesBlock_busy busy
        · exact Hub.takesBlock_locked ring locked
      rw [same, Hub.writeTaken]
      dsimp only [Hub.setTag]
      rw [alone]
      rfl
    · have first : (s.hub.writeTaken a data).Fresh := by
        intro j q writes
        obtain ⟨i, q', all⟩ := List.exists_cons_of_ne_nil others
        have head : j = i := (List.cons.inj (writes.symm.trans (congrArg (· ++ [s.hub.writeJob a data]) all))).1
        exact fresh j (by rw [all, head]; exact List.mem_cons_self)
      rw [Hub.tagNext_fresh first, Hub.takesBlock_busy (h := s.hub.writeTaken a data) busy]
      rfl
    · obtain ⟨ws, b, tag, -, -⟩ := (s.hub.writeTaken a data).tagNext_only
      exact (congrArg Tag.mem tag).trans rfl
  case entry =>
    obtain ⟨t, ev, rest, queue, begins⟩ := Hub.ringEntry_begins due
    obtain ⟨ws, b, tag, -, -⟩ := (s.hub.entryBegun t ev rest).tagNext_only
    have ring : (s.hub.entryBegun t ev rest).tagNext.tag.ring = entryBlocks s.hub.tag.lseq t ev := (congrArg Tag.ring tag).trans rfl
    refine ⟨_, next_congr begins, (congrArg Tag.queue tag).trans (by rw [queue]; rfl), (congrArg Tag.lastEntry tag).trans rfl,
      (congrArg Tag.lseq tag).trans rfl, (congrArg List.length ring).trans rfl, Hub.tagNext_ring (h := s.hub.entryBegun t ev rest) rfl,
      (congrArg (List.map Prod.fst) ring).trans rfl, (congrArg List.head? ring).trans rfl, (congrArg List.getLast? ring).trans rfl,
      (congrArg Tag.mem tag).trans rfl⟩
  case ringBlock =>
    obtain ⟨m, put⟩ := s.hub.programmed_tag a w
    obtain ⟨ws, b, tag, ident, -⟩ := ((s.hub.programmed a w).setTag fun t => { t with ring := r }).tagNext_only
    obtain ⟨same, others, wf'⟩ := Hub.programmed_reads (w := w) wf low high (ident.trans (by rw [put]; rfl)) ((congrArg Tag.mem tag).trans rfl)
    refine ⟨_, next_congr (Hub.blockWritten_ring busy ring), same, others, (congrArg Tag.ring tag).trans rfl, wf', fun n v q next => ?_⟩
    refine (Hub.tagNext_ring (h := (s.hub.programmed a w).setTag fun t => { t with ring := r }) next).trans ?_
    rw [put]
    rfl
  case noteBlock =>
    have written := Hub.blockWritten_note (h := s.hub) busy ring writes
    obtain ⟨m, put⟩ := s.hub.programmed_tag a w
    by_cases rest : r = []
    · subst rest
      have tag' := (s.hub.programmed a w).jobEnds_tag ⟨o, [(a, w)], u⟩ St.ok
      obtain ⟨-, ident', clk'⟩ := (s.hub.programmed a w).jobEnds_writesOnly ⟨o, [(a, w)], u⟩ St.ok
      have writes' : ((s.hub.programmed a w).jobEnds ⟨o, [(a, w)], u⟩ St.ok).tag.writes = nextWrites s.hub.clk.elapsed s.hub.tag.writes := by
        rw [tag', put]
      obtain ⟨ws, b, tag, ident, -⟩ := ((s.hub.programmed a w).jobEnds ⟨o, [(a, w)], u⟩ St.ok).tagNext_only
      obtain ⟨same, others, wf'⟩ := Hub.programmed_reads (w := w) wf low high (ident.trans (ident'.trans (by rw [put])))
        ((congrArg Tag.mem tag).trans ((congrArg Tag.mem tag').trans rfl))
      refine ⟨_, next_congr (written.trans (if_pos rfl)), same, others,
        (congrArg Tag.ring tag).trans ((congrArg Tag.ring tag').trans (by rw [put]; exact ring)), wf', fun some' => absurd rfl some', fun _ => ?_⟩
      have fresh : ((s.hub.programmed a w).jobEnds ⟨o, [(a, w)], u⟩ St.ok).Fresh := fun j q' first => by
        rw [clk', put]
        exact nextWrites_fresh _ _ j q' (writes'.symm.trans first)
      have kept := congrArg (fun h : Hub => h.tag.writes) (Hub.tagNext_fresh fresh)
      refine (congrArg (List.map LogJob.blocks) (kept.trans (Hub.takesBlock_writes _))).trans ?_
      rw [writes', writes]
      exact nextWrites_blocks ..
    · obtain ⟨v, r', some'⟩ := List.exists_cons_of_ne_nil rest
      have goesOn := written.trans (if_neg (by simp [rest]))
      have late : (⟨o, r, s.hub.clk.elapsed⟩ : LogJob).expired s.hub.clk.elapsed = false := decide_eq_false (by simp)
      have elapsed : (s.hub.noteLeft a w o r q).clk.elapsed = s.hub.clk.elapsed := by rw [Hub.noteLeft, put]; rfl
      have locked' : (s.hub.noteLeft a w o r q).tagLocked = s.hub.tagLocked := by rw [Hub.noteLeft, put]; rfl
      have idle : (s.hub.noteLeft a w o r q).tag.busy = none := by rw [Hub.noteLeft, put]; rfl
      have ring' : (s.hub.noteLeft a w o r q).tag.ring = [] := by rw [Hub.noteLeft, put]; exact ring
      have fresh : (s.hub.noteLeft a w o r q).Fresh := fun j q' first => by
        rw [elapsed, ← (List.cons.inj first).1]
        exact late
      obtain ⟨ws, b, tag, ident, -⟩ := (s.hub.noteLeft a w o r q).tagNext_only
      obtain ⟨same, others, wf'⟩ := Hub.programmed_reads (w := w) wf low high (ident.trans (by rw [Hub.noteLeft, put]; rfl)) ((congrArg Tag.mem tag).trans rfl)
      refine ⟨_, next_congr goesOn, same, others, (congrArg Tag.ring tag).trans ring', wf', fun _ => ⟨?_, fun unlocked => ⟨v, ?_, ?_⟩,
        fun locked => ?_⟩, fun none' => absurd none' rest⟩
      · exact (congrArg (fun h : Hub => h.tag.writes) (Hub.tagNext_fresh fresh)).trans (Hub.takesBlock_writes _)
      · rw [some']; rfl
      · have next := Hub.tagNext_write idle ring' rfl some' (by rw [elapsed]; exact late) (locked'.trans unlocked)
        exact congrArg (fun h : Hub => h.tag.busy) next
      · have still := (Hub.tagNext_fresh fresh).trans (Hub.takesBlock_locked ring' (locked'.trans locked))
        exact (congrArg (fun h : Hub => h.tag.busy) still).trans idle
  case unlocked =>
    show s.hub.lockExpiry = s.hub
    unfold Hub.lockExpiry
    rw [unlocked]
  case runs =>
    show s.hub.lockExpiry = s.hub
    unfold Hub.lockExpiry
    rw [lock]
    exact if_pos runs
  case past =>
    have ends : s.hub.lockExpiry = (s.hub.setTag fun t => { t with lockUntil := none }).tagNext := by
      unfold Hub.lockExpiry
      rw [lock]
      exact if_neg (Nat.not_lt.2 past)
    obtain ⟨ws, b, tag, -, -⟩ := (s.hub.setTag fun t => { t with lockUntil := none }).tagNext_only
    refine ⟨_, next_congr ends, (congrArg Tag.lockUntil tag).trans rfl, (congrArg Tag.mem tag).trans rfl, (congrArg Tag.ring tag).trans rfl,
      fun j q m v b ring idle writes blocks fresh => ?_⟩
    exact congrArg (fun h : Hub => h.tag.busy)
      (Hub.tagNext_write (h := s.hub.setTag fun t => { t with lockUntil := none }) idle ring writes blocks fresh rfl)
  case absent =>
    obtain ⟨ws, b, tag, -, -⟩ := (s.hub.setTag fun t => { t with lockUntil := none, quiet := false, selected := false }).tagNext_only
    refine ⟨_, rfl, (congrArg Tag.lockUntil tag).trans rfl, (congrArg Tag.quiet tag).trans rfl, (congrArg Tag.selected tag).trans rfl,
      (congrArg Tag.mem tag).trans rfl, (congrArg Tag.ring tag).trans rfl, fun j q m v b ring idle writes blocks fresh => ?_⟩
    exact congrArg (fun h : Hub => h.tag.busy) (Hub.tagNext_write
      (h := s.hub.setTag fun t => { t with lockUntil := none, quiet := false, selected := false }) idle ring writes blocks fresh rfl)
end

section
/-! PROOFS. The doorbell window (R131, R354, R356, R371 to R375, R427). -/

namespace Sys2Proof.Machine

section
variable {h : Hub}

/-! ## Transactions (R374, R375) -/

/-- An HSPI transaction at an address (R374). -/
def Hub.transact (h : Hub) (o : HspiOp) (a : Nat) : Hub := h.hspi (HspiOp.cmd o).1 a (HspiOp.cmd o).2.1 (HspiOp.cmd o).2.2

theorem Hub.hspi_write {a : Nat} (on : h.hspiOn = true) (aligned : a % 4 = 0) (quad : Bool) (l : List Word) :
    h.transact (.write quad l) a = Hub.hspiWrites l a h := by
  unfold Hub.transact Hub.hspi
  rw [if_neg (by simp [on])]
  cases quad <;> exact if_neg (not_not.2 aligned)

theorem Hub.hspi_read {a : Nat} (on : h.hspiOn = true) (aligned : a % 4 = 0) (quad : Bool) (n : Nat) :
    h.transact (.read quad n) a = (Hub.hspiReads n a h).2.shown (Hub.hspiReads n a h).1 := by
  unfold Hub.transact Hub.hspi
  rw [if_neg (by simp [on])]
  cases quad <;> exact if_neg (not_not.2 aligned)

theorem Hub.hspi_misaligned {a : Nat} (on : h.hspiOn = true) (odd : a % 4 ≠ 0) {o : HspiOp} {quad : Bool} {l : List Word} {n : Nat}
    (among : o ∈ [HspiOp.write quad l, .read quad n]) : h.transact o a = h.mbError 5 := by
  unfold Hub.transact Hub.hspi
  rw [if_neg (by simp [on])]
  rcases List.mem_pair.1 among with rfl | rfl
  · cases quad <;> exact if_pos odd
  · cases quad <;> exact if_pos odd

theorem hspiReads_length (n a : Nat) (h : Hub) : (Hub.hspiReads n a h).1.length = n := by
  induction n generalizing a h with
  | zero => rfl
  | succ n ih => simp only [Hub.hspiReads, List.length_cons, ih]

theorem hspiNext_aligned {a : Nat} (aligned : a % 4 = 0) : hspiNext a % 4 = 0 := by
  unfold hspiNext
  split
  · omega
  · split <;> omega

/-- A word that is written, with what is recorded where nothing takes it (R373). -/
def Hub.writeWord (h : Hub) (a : Nat) (w : Word) : Hub := if (h.writeReg a w).1 = 0 then (h.writeReg a w).2 else (h.writeReg a w).2.mbError 6

theorem Hub.hspiWrites_cons (w : Word) (l : List Word) (a : Nat) (h : Hub) :
    Hub.hspiWrites (w :: l) a h = Hub.hspiWrites l (hspiNext a) (h.writeWord a w) := rfl

theorem Hub.release_hspiOn (h : Hub) : h.release.hspiOn = h.hspiOn := by
  unfold Hub.release
  split <;> rfl

theorem Hub.submit_hspiOn (h : Hub) : h.submit.hspiOn = h.hspiOn := by
  unfold Hub.submit
  split <;> rfl

theorem Hub.writeWord_hspiOn (h : Hub) (a : Nat) (w : Word) : (h.writeWord a w).hspiOn = h.hspiOn := by
  have reg : (h.writeReg a w).2.hspiOn = h.hspiOn := by
    have release : (if bitOf w 1 then h.release else h).hspiOn = h.hspiOn := ite_keeps Hub.hspiOn h.release_hspiOn rfl
    unfold Hub.writeReg
    split
    · split <;> rfl
    · split
      · rfl
      · split
        · rfl
        · rfl
        · exact ite_keeps Hub.hspiOn ((Hub.submit_hspiOn _).trans release) release
        · rfl
        · rfl
        · rfl
        · rfl
        · split <;> split <;> rfl
        · split <;> rfl
  unfold Hub.writeWord
  split
  · exact reg
  · exact reg

theorem Hub.transact_word {a : Nat} (on : h.hspiOn = true) (aligned : a % 4 = 0) (quad : Bool) (w : Word) :
    h.transact (.write quad [w]) a = h.writeWord a w := Hub.hspi_write on aligned quad [w]

theorem Hub.transact_reg {a : Nat} (on : h.hspiOn = true) (aligned : a % 4 = 0) (quad : Bool) :
    h.transact (.read quad 1) a = (h.readReg .hspi a).2.shown [(h.readReg .hspi a).1] := Hub.hspi_read on aligned quad 1

/-! ## Registers (Table 13-5) -/

/-- The registers below the mailboxes that a write changes (Table 13-5). -/
def writableRegs : List Nat := [0x0C, 0x10, 0x14, 0x28, 0x54, 0x58, 0x5C, 0x60]

theorem Hub.writeReg_unwritable {a : Nat} (w : Word) (other : a ∉ writableRegs) (outside : a < 0x1000 ∨ 0x2000 ≤ a) :
    (h.writeReg a w).1 ≠ 0 ∧ (h.writeReg a w).2 = h := by
  unfold Hub.writeReg
  rw [if_neg (by omega)]
  split
  · exact ⟨(nofun : (2 : Nat) ≠ 0), rfl⟩
  · split
    iterate 8 exact absurd (by decide) other
    split
    · exact ⟨(nofun : (2 : Nat) ≠ 0), rfl⟩
    · exact ⟨(nofun : (1 : Nat) ≠ 0), rfl⟩

theorem Hub.writeWord_unwritable {a : Nat} (w : Word) (other : a ∉ writableRegs) (outside : a < 0x1000 ∨ 0x2000 ≤ a) :
    h.writeWord a w = h.mbError 6 := by
  obtain ⟨bad, same⟩ := Hub.writeReg_unwritable (h := h) w other outside
  unfold Hub.writeWord
  rw [if_neg bad, same]

theorem Hub.writeWord_mailbox {a : Nat} (w : Word) (within : a < 1024) : h.writeWord (0x1000 + 4 * a) w =
    if h.dbw.mbiFree then { h with dbw := { h.dbw with mbi := mbiPut a w h.dbw.mbi } } else h.mbError 4 := by
  have index : (0x1000 + 4 * a - 0x1000) / 4 = a := by omega
  have reg : h.writeReg (0x1000 + 4 * a) w =
      (0, if h.dbw.mbiFree then { h with dbw := { h.dbw with mbi := mbiPut a w h.dbw.mbi } } else h.mbError 4) := by
    refine (if_pos ⟨by omega, by omega⟩).trans ?_
    rw [index]
  unfold Hub.writeWord
  rw [reg]
  exact if_pos rfl

theorem Hub.readReg_mailboxIn {a : Nat} (within : a < 1024) : h.readReg .hspi (0x1000 + 4 * a) = (h.dbw.mbiWord a, h) := by
  have index : (0x1000 + 4 * a - 0x1000) / 4 = a := by omega
  unfold Hub.readReg
  dsimp only
  rw [if_neg (by omega), if_neg (by omega), if_pos (by omega), index]

theorem Hub.readReg_mailboxOut {a : Nat} (within : a < 1024) :
    h.readReg .hspi (0x2000 + 4 * a) = (wordAt (h.mboBytes ++ pad 4) (4 * a), h) := by
  have index : 0x2000 + 4 * a - 0x2000 = 4 * a := by omega
  unfold Hub.readReg
  dsimp only
  rw [if_neg (by omega), if_pos (by omega), index]

/-- A word of the mailbox-in window reads as it was written (R356). -/
theorem mbiPut_same (n : Nat) (w : Word) (m : List (Nat × Word)) (rising : (m.map Prod.fst).Pairwise (· < ·)) :
    (((mbiPut n w m).find? fun x => x.1 == n).map Prod.snd).getD 0 = w := by
  have beyond (r : List (Nat × Word)) (above : ∀ x ∈ r, n < x.1) : (r.find? fun x => x.1 == n) = none :=
    List.find?_eq_none.2 fun x mem => by
      have low := above x mem
      simp only [beq_iff_eq]
      omega
  induction m with
  | nil =>
    unfold mbiPut
    split
    · next zero => exact zero.symm
    · simp
  | cons x r ih =>
    obtain ⟨k, v⟩ := x
    obtain ⟨least, rising⟩ := List.pairwise_cons.1 rising
    have above (x : Nat × Word) (mem : x ∈ r) : k < x.1 := least _ (List.mem_map_of_mem mem)
    unfold mbiPut
    split
    · next before =>
      split
      · next zero =>
        rw [beyond _ fun x mem => (List.mem_cons.1 mem).elim (fun first => first ▸ before) fun later => before.trans (above x later)]
        exact zero.symm
      · simp
    · split
      · next here =>
        subst here
        split
        · next zero =>
          rw [beyond r above]
          exact zero.symm
        · simp
      · next later =>
        rw [List.find?_cons_of_neg (by simpa using fun same => later same.symm)]
        exact ih rising

theorem Dbw.mbiWord_put (d : Dbw) {a : Nat} (w : Word) (wf : Mailbox.wf d.mbi) : ({ d with mbi := mbiPut a w d.mbi } : Dbw).mbiWord a = w ∧
    ∀ i, i ≠ a → ({ d with mbi := mbiPut a w d.mbi } : Dbw).mbiWord i = d.mbiWord i :=
  ⟨mbiPut_same a w d.mbi wf.1, fun i other => congrArg (fun x => (Option.map Prod.snd x).getD 0) (mbiPut_other a i w d.mbi other)⟩

/-! ## The status byte (Table 13-17) -/

/-- A bit of a status byte. -/
def statusBit (x : Bool) (n : Nat) : Nat := if x then 2 ^ n else 0

/-- The status byte shows the level and the four flags each in its place. -/
theorem statusByte_fields (l : Level) (err irq free full : Bool) :
    let v := BitVec.ofNat 32 (l.code * 32 + 16 + statusBit err 3 + statusBit irq 2 + statusBit free 1 + statusBit full 0)
    v.toNat / 32 = l.code ∧ bitOf v 4 = true ∧ bitOf v 3 = err ∧ bitOf v 2 = irq ∧ bitOf v 1 = free ∧ bitOf v 0 = full := by
  cases l <;> revert err irq free full <;> decide

/-! ## DBW_IRQ_STAT (R372) -/

theorem writeIrqStat_bit (irq : BitVec 8) (w : Word) {i : Nat} (bit : i < 8) :
    (irq &&& ~~~(BitVec.ofNat 8 (w.toNat % 256 / 4 * 4))).getLsbD i = (irq.getLsbD i && !(decide (2 ≤ i) && w.getLsbD i)) := by
  have field : (w.toNat % 256 / 4 * 4).testBit i = (decide (2 ≤ i) && w.getLsbD i) := by
    rw [show w.toNat % 256 / 4 * 4 = (w.toNat % 2 ^ 8) / 2 ^ 2 * 2 ^ 2 by rfl, ← Nat.shiftRight_eq_div_pow, ← Nat.shiftLeft_eq,
      Nat.testBit_shiftLeft, Nat.testBit_shiftRight, Nat.testBit_mod_two_pow]
    by_cases high : 2 ≤ i
    · rw [Nat.add_sub_cancel' high, decide_eq_true bit, Bool.true_and]
      rfl
    · simp [high]
  rw [BitVec.getLsbD_and, BitVec.getLsbD_not, BitVec.getLsbD_ofNat, field, decide_eq_true bit, Bool.true_and, Bool.true_and]
end

end Sys2Proof.Machine

open Sys2Proof Sys2Proof.Machine

/-- Settles O53: a transaction is its words in turn (`writeWord`, `readReg`), and each register's case is that of Table 13-5. -/
theorem doorbellWindow : Obligations.DoorbellWindow := by
  unfold Obligations.DoorbellWindow
  refine fun s w a n op quad l c => ⟨fun off => ?off, fun on => ?on⟩
  case off =>
    have silent (cmd : Byte) (a : Nat) (ws : List Word) (n : Nat) := next_same (Hub.hspi_off s.hub cmd a ws n off)
    exact ⟨next_same (if_neg (by simp [off])), next_same (if_neg (by simp [off])), silent .., silent .., next_same (if_neg (by simp [off])),
      silent .., silent ..⟩
  case on =>
    have word (a : Nat) (aligned : a % 4 = 0) := next_congr (p := s.pending) (Hub.transact_word on aligned quad w)
    have read (a : Nat) (aligned : a % 4 = 0) := next_congr (p := s.pending) (Hub.transact_reg on aligned quad)
    have field (a : Nat) (aligned : a % 4 = 0) (v : Word) (shows : s.hub.readReg .hspi a = (v, s.hub)) :
        exec (.registerWrite a (.read quad 1)) s = .next ⟨s.hub.shown [v], s.pending⟩ := (read a aligned).trans (by rw [shows])
    refine ⟨fun free => next_congr ?submits, fun occupied => ⟨⟨s.hub.mbError 3, s.pending⟩, next_congr ?occupied, ⟨rfl, rfl, rfl, rfl, rfl, rfl, rfl, rfl⟩, rfl⟩,
      fun r l waits => next_congr ?releases, fun none' => ⟨⟨s.hub.mbError 7, s.pending⟩, next_congr ?nothing, rfl, rfl, rfl, rfl, rfl, rfl, rfl, rfl⟩,
      next_congr (Hub.transact_reg on rfl false), next_congr (Hub.transact_reg on rfl false),
      ⟨_, next_congr (if_pos on), rfl, fun i bit => writeIrqStat_bit s.hub.dbw.irq w bit⟩,
      fun odd o among => ⟨_, next_congr (Hub.hspi_misaligned on odd among), rfl, rfl, rfl, rfl, rfl, rfl, rfl, rfl⟩,
      fun unknown => next_same (Hub.hspi_unknown s.hub c a [] 0 unknown),
      fun aligned => ⟨_, word a aligned, fun q => ?goesOn⟩, fun aligned => ⟨_, next_congr (Hub.hspi_read on aligned quad n), hspiReads_length n a s.hub⟩,
      rfl, field 0x10 rfl _ rfl, field 0x0C rfl _ rfl, field 0x28 rfl _ rfl, field 0x54 rfl _ rfl, field 0x5C rfl _ rfl, field 0x88 rfl _ rfl,
      fun within => ⟨field _ (by omega) _ (Hub.readReg_mailboxIn within), field _ (by omega) _ (Hub.readReg_mailboxOut within)⟩,
      fun aligned other outside => ⟨_, (word a aligned).trans (next_congr (Hub.writeWord_unwritable w other outside)),
        rfl, rfl, rfl, rfl, rfl, rfl, rfl, rfl⟩,
      (word 0x0C rfl).trans (next_congr (if_pos on).symm), word 0x10 rfl, word 0x14 rfl, word 0x28 rfl, word 0x54 rfl, word 0x58 rfl,
      word 0x5C rfl, word 0x60 rfl, fun within free wf => ?stored, fun within occupied => ⟨⟨s.hub.mbError 4, s.pending⟩, (word _ (by omega)).trans (next_congr ?refused),
        rfl, rfl, rfl, rfl, rfl, rfl, rfl, rfl⟩, ?status⟩
    case submits => exact (if_pos on).trans (if_pos (beq_iff_eq.2 free))
    case occupied => exact (if_pos on).trans (if_neg fun free => occupied (beq_iff_eq.1 free))
    case releases =>
      refine (if_pos on).trans ?_
      unfold Hub.release
      rw [waits]
    case nothing =>
      refine (if_pos on).trans ?_
      unfold Hub.release
      rw [none']
    case goesOn =>
      refine next_congr ((Hub.hspi_write on aligned q (w :: l)).trans ?_)
      exact (Hub.hspi_write ((Hub.writeWord_hspiOn ..).trans on) (hspiNext_aligned aligned) q l).symm
    case stored =>
      obtain ⟨same, others⟩ := Dbw.mbiWord_put s.hub.dbw (a := a) w wf
      exact ⟨_, (word _ (by omega)).trans (next_congr ((Hub.writeWord_mailbox w within).trans (if_pos (beq_iff_eq.2 free)))), same, others,
        mbiPut_wf a w s.hub.dbw.mbi wf within, rfl, rfl⟩
    case refused => exact (Hub.writeWord_mailbox w within).trans (if_neg fun free => occupied (beq_iff_eq.1 free))
    case status =>
      obtain ⟨level, up, err, irq, free, full⟩ := statusByte_fields s.hub.boot.level s.hub.dbw.errSeen s.hub.irqLow s.hub.dbw.mbiFree
        (s.hub.dbw.mboHead != s.hub.dbw.mboTail)
      exact ⟨_, _, next_congr (if_neg (by simp [on])), rfl, rfl, level, up, err, irq, free, full, rfl, rfl⟩
end

section
/-! PROOFS. The last lane of P00 (R399): the statement's own condition for it, met with the timing lane. -/

namespace Sys2Proof.Machine

/-- A port whose data lanes are retired and whose timing lane is not. -/
def Port.timingOnly (q : Port) : Port := { q with lanes := List.replicate 3 { Lane.reset with retired := true } ++ [Lane.reset] }

/-- A serving hub whose P00 has no data lane left. -/
def timingOnlyHub : Hub := Hub.serving.setPort 0 Port.timingOnly

theorem timingOnlyHub_there : timingOnlyHub.ports[0]? = some (Port.timingOnly Port.reset) :=
  Hub.setPort_getElem?_same Hub.serving (by rfl) Port.timingOnly

theorem timingOnlyHub_up : PortUp timingOnlyHub 0 := by
  obtain ⟨chans, octs, dies, ports, rest⟩ := Hub.serving_shaped
  exact ⟨⟨chans, octs, dies, (List.length_modify ..).trans ports, rest⟩, by decide, Hub.serving_up (by decide)⟩

theorem timingOnlyHub_lane (l : Nat) : timingOnlyHub.lane 0 l = (Port.timingOnly Port.reset).lanes.getD l Lane.reset := by
  rw [Hub.lane, Hub.prt_of_getElem? _ timingOnlyHub_there]

theorem timingOnlyHub_timing : (timingOnlyHub.lane 0 3).retired = false := by
  rw [timingOnlyHub_lane]
  rfl

theorem timingOnlyHub_data {k : Nat} (data : k < 3) : (timingOnlyHub.lane 0 k).retired = true := by
  rw [timingOnlyHub_lane]
  rcases (by omega : k = 0 ∨ k = 1 ∨ k = 2) with rfl | rfl | rfl <;> rfl

/-- FLT_RETIRE of the timing lane of such a P00 retires it. -/
theorem timingOnlyHub_retires :
    timingOnlyHub.fltRetire (unitLane 0 3) = (timingOnlyHub.retireLane 0 3 0x0F0F 0 true).ok [] := by
  have left : (List.range 3).filter (fun k => !(timingOnlyHub.lane 0 k).retired) = [] :=
    List.filter_eq_nil_iff.2 fun k mem => by simp [timingOnlyHub_data (List.mem_range.1 mem)]
  have up : timingOnlyHub.dieDown 0 = false := timingOnlyHub_up.2.2
  have lane : timingOnlyHub.fltRetire (unitLane 0 3) = timingOnlyHub.onDies [0]
      (if (timingOnlyHub.lane 0 3).retired then timingOnlyHub.ok []
       else if 0 = 0 ∧ (List.range 3).filter (fun k => !(timingOnlyHub.lane 0 k).retired) = [3] then timingOnlyHub.refuse St.badArg
       else (timingOnlyHub.retireLane 0 3 0x0F0F 0 true).ok []) := rfl
  rw [lane, Hub.onDies_one_up _ up, if_neg (by simp [timingOnlyHub_timing]), left]
  exact if_neg (by simp)

end Sys2Proof.Machine

open Sys2Proof Sys2Proof.Machine

/-- Refutes O46. The statement lets FLT_RETIRE answer BAD_ARG for lane l of P00 where the data lanes in service are just those equal to l.
With its three data lanes retired that holds of l = 3 too, and the timing lane, which is no data lane, is retired with OK. -/
theorem not_faultsAndTests : ¬ Obligations.FaultsAndTests := by
  unfold Obligations.FaultsAndTests
  intro h
  have refused := (((h.2.1 ⟨timingOnlyHub, []⟩ 0 0 3 0 0).2.2.1 timingOnlyHub_up ⟨_, timingOnlyHub_there, by decide⟩ (by decide)).2.1
    timingOnlyHub_timing rfl fun k data => by simp [timingOnlyHub_data data]; omega)
  have ran : exec (.fltRetire (unitLane 0 3)) ⟨timingOnlyHub, []⟩ = .next ⟨(timingOnlyHub.retireLane 0 3 0x0F0F 0 true).ok [], []⟩ :=
    next_congr timingOnlyHub_retires
  rw [ran] at refused
  injection refused with same
  have status := congrArg (fun t : Machine.State => t.hub.mgmt.reply.status) same
  exact absurd status (by decide)
end

section
/-! PROOFS. The slots of calibration (R445): the record that tells of an octet, and the spool that it fills. -/

namespace Sys2Proof.Machine

/-- Packets that are taken back leave the channels as they are. -/
theorem Hub.iter_unclose_chans (full : Hub → Bool) (newest : Hub → Option Flow) (n : Nat) (h : Hub) :
    (iter (fun k : Hub => if full k then (match newest k with | some f => k.setFlow f.key Flow.unclose | none => k) else k) n h).chans =
      h.chans := by
  refine iter_keeps Hub.chans _ (fun k => ?_) n h
  split
  · split
    · exact Hub.setFlow_chans _ _ _
    · rfl
  · rfl

/-- Where the spool of a die comes to LIMIT, skim that it builds stops at once (R212). -/
theorem Hub.spoolTouch_unbuilds {h : Hub} {d c : Nat} (was : Seqs) (turns : (h.die d).store.spoolNext (h.spoolBytes d) = .limit)
    (before : (h.die d).store.spool ≠ .limit) (skim : (h.findFlow ⟨d, 0, 0⟩).any Flow.spooled = true) (there : c < h.chans.length)
    (own : ∀ st, (h.setDie d fun x => { x with store := { x.store with spool := st } }).builder c = d) :
    ((h.spoolTouch d was).ch c).skimBuilt = false := by
  have run : h.spoolTouch d was = h.spoolTouch d was := rfl
  conv at run => rhs; unfold Hub.spoolTouch
  extract_lets st size nx h0 g mine spooled g0 tooFull newest g1 g2 g3 touched full at run
  have limit : nx = .limit := turns
  clear_value nx
  subst limit
  rw [run]
  have inLimit : touched = _ := if_neg fun same => before same.symm
  dsimp only at inLimit
  have own' : mine c = true := beq_iff_eq.2 (own _)
  have spooled' : spooled = true := skim
  clear_value tooFull newest
  have chans1 : g1.chans = h.chans := by
    exact Hub.iter_unclose_chans tooFull newest _ g
  have chans3 : touched.chans = g3.chans := (congrArg Hub.chans inLimit).trans (Hub.setFlow_chans _ _ _)
  have there' : c < g2.chans.length := lt_of_lt_of_le there (le_of_eq (congrArg List.length chans1.symm))
  have now : (g3.ch c).skimBuilt = false := by
    simp [Hub.ch, g3, Hub.mapCh, List.getD_eq_getElem?_getD, there', own', spooled']
  exact (congrArg (fun l => (List.getD l c Chan.reset).skimBuilt) chans3).trans now

theorem Hub.watermarks_chans (h : Hub) : h.watermarks.chans = h.chans := by
  refine forAll_keeps Hub.chans _ (fun i g => ?_) _ _
  dsimp only
  split <;> rfl

/-- A record that comes into the spool of a die without a page for it, with skim's flow before it, ends the skim of the die's channels. -/
theorem Hub.emitSince_unbuilds {h : Hub} {f g : Flow} {k : FlowKey} {c d : Nat} {rest : List Flow} (found : h.findFlow k = some f)
    (mine : f.key.die = d) (flows : h.flows = g :: rest) (skim : g.key = ⟨d, 0, 0⟩) (spooled : g.spooled = true) (other : k ≠ ⟨d, 0, 0⟩)
    (own : k.die = d) (rate : (h.die d).store.spool = .fullRate) (pages : (h.die d).store.spoolPages = 0) (there : c < h.chans.length)
    (builds : ∀ st, (h.setDie d fun x => { x with store := { x.store with spool := st } }).builder c = d)
    (stream : Nat) (rcd : Bytes) (since : Nat) : ((h.emitSince k stream rcd since).ch c).skimBuilt = false := by
  have open' : h.limited f = false := by
    rw [Hub.limited, mine, rate]
    rfl
  unfold Hub.emitSince
  rw [found]
  dsimp only
  rw [if_neg (by rw [open']; decide), own]
  set q := h.setFlow k fun g => g.record h.tm.now since stream rcd with hq
  have first : q.flows = g :: rest.map fun x => if x.key = k then x.record h.tm.now since stream rcd else x := by
    rw [hq, Hub.setFlow_flows, flows, List.map_cons]
    simp [skim, Ne.symm other]
  refine (congrArg (fun l => (List.getD l c Chan.reset).skimBuilt) (Hub.watermarks_chans _)).trans ?_
  refine Hub.spoolTouch_unbuilds _ (Store.spoolNext_limit rate pages _)
    (by rw [show (q.die d).store.spool = .fullRate from rate]; decide) ?_ there builds
  rw [Hub.findFlow, first, List.find?_cons_of_pos (by rw [skim]; exact beq_self_eq_true _)]
  exact spooled

/-- A record goes into an HK flow that has started. -/
theorem Hub.hkRecord_goes (h : Hub) (t kind : Nat) (payload : Bytes) (started : (h.findFlow h.hkKey).any Flow.started = true) :
    h.hkRecord t kind payload = ({ h with hk := { h.hk with rseq := h.hk.rseq + 1 } } : Hub).emitRecord h.hkKey 2320
      (be 2 kind ++ be 2 payload.length ++ be 4 h.hk.rseq.toNat ++ stampB t ++ payload) := if_pos started

/-- A record finds room in a spool that is not at LIMIT. -/
theorem Hub.recordAt_roomy (h : Hub) (kept : h.hk.dropped = 0) (room : (h.die h.boot.lead).store.spool ≠ .limit) (t kind : Nat) (payload : Bytes) :
    h.recordAt t kind payload = h.hkRecord t kind payload := by
  have free (n : Nat) : h.reserveFull n = false := by
    unfold Hub.reserveFull
    simp [room]
  unfold Hub.recordAt
  rw [if_neg (by rw [free]; decide), if_pos kept]

/-! ## A die whose spool has no page -/

/-- The flows of D0 that its spool keeps, running: skim and HK. -/
def spooledFlows : List Flow := [⟨0, 0, 0⟩, ⟨0, 3, 0⟩].map fun k => { Flow.init k with started := true }
/-- The ramps of octet 0 run since true time 0. -/
def rampingSlot : Slot := ⟨0, 0, 11, 0, none, false, false, (8, 0, 0), 0, 0⟩
/-- A running hub whose octet 0 has only its ramps to end, and whose D0 builds skim of channel 0 while its spool has no page. -/
def rampingHub : Hub :=
  let h := (Hub.serving.setCh 0 Chan.building).setDie 0 Die.unspooled
  { h with flows := spooledFlows, boot := { h.boot with running := true }, clk := { h.clk with elapsed := 10000000 },
           cal := { h.cal with ramps := [rampingSlot] } }

theorem rampingHub_die : rampingHub.die 0 = { Die.reset with inService := true }.unspooled := strandedHub_die

theorem rampingHub_shaped : Shaped rampingHub := by
  obtain ⟨chans, octs, dies, ports, rest⟩ := Hub.serving_shaped
  exact ⟨(List.length_modify ..).trans chans, octs, (List.length_modify ..).trans dies, ports, rest⟩

theorem rampingHub_over : rampingHub.rampOver rampingSlot = true := by
  refine List.all_eq_true.2 fun c _ => decide_eq_true ?_
  exact (Nat.zero_add _).le.trans (Nat.min_le_right _ _)

theorem rampingHub_found :
    rampingHub.cal.ramps.find? (fun y : Slot => y.die == 0 && rampingHub.rampOver y) = some rampingSlot := by
  refine List.find?_cons_of_pos ?_
  rw [rampingHub_over]
  rfl

theorem rampingHub_runs : rampingHub.calRuns 0 = true := by
  have up : rampingHub.dieDown 0 = false := by
    rw [Hub.dieDown, rampingHub_die]
    rfl
  rw [Hub.calRuns, up]
  rfl

/-- A notice of a hub whose D0 leads with that spool ends skim of channel 0. -/
theorem Hub.notice_unbuilds {h : Hub} (flows : h.flows = spooledFlows) (lead : h.boot.lead = 0)
    (die : h.die 0 = { Die.reset with inService := true }.unspooled) (there : 0 < h.chans.length) (kept : h.hk.dropped = 0) (u : Word) (code : Nat)
    (a b : Word) : ((h.notice u code a b).ch 0).skimBuilt = false := by
  have rate : (h.die 0).store.spool = .fullRate := congrArg (fun x : Die => x.store.spool) die
  have key : h.hkKey = ⟨0, 3, 0⟩ := congrArg (FlowKey.mk · 3 0) lead
  have found : h.findFlow ⟨0, 3, 0⟩ = some { Flow.init ⟨0, 3, 0⟩ with started := true } := by
    rw [Hub.findFlow, flows]
    rfl
  rw [Hub.notice, Hub.event, Hub.eventAt_notice, Hub.recordAt_roomy h kept (by rw [lead, rate]; decide),
    Hub.hkRecord_goes h _ _ _ (by rw [key, found]; rfl), key]
  refine Hub.emitSince_unbuilds (h := { h with hk := { h.hk with rseq := h.hk.rseq + 1 } }) found rfl flows rfl rfl (by decide) rfl rate ?_ there
    (fun st => ?_) _ _ _
  · exact congrArg (fun x : Die => x.store.spoolPages) die
  · have serves : ((h.setDie 0 fun x => { x with store := { x.store with spool := st } }).die 0).faulted = false :=
      (Hub.setDie_die_view h 0 0 (view := Die.faulted) (by intro; rfl)).trans (congrArg Die.faulted die)
    exact if_neg (by rw [show chDie 0 = 0 from rfl]; exact ne_true_of_eq_false serves)

/-- With the notice of its end channel 0 has changed. -/
theorem rampingHub_done : (rampingHub.slotDone 0).chans ≠ rampingHub.chans := by
  intro same
  have was : (rampingHub.ch 0).skimBuilt = true := congrArg Chan.skimBuilt strandedHub_ch
  have done : ((rampingHub.slotDone 0).ch 0).skimBuilt = false := by
    unfold Hub.slotDone
    rw [rampingHub_found]
    have there : 0 < rampingHub.chans.length := lt_of_lt_of_eq (by decide) rampingHub_shaped.1.symm
    exact Hub.notice_unbuilds (h := rampingHub.setCal fun k => { k with ramps := k.ramps.erase rampingSlot }) rfl rfl rampingHub_die there rfl _ _ _ _
  rw [Hub.ch, same] at done
  exact absurd (was.symm.trans done) (by decide)

end Sys2Proof.Machine

open Sys2Proof Sys2Proof.Machine

/-- Refutes O43. The octet's CAL_DONE record is said to leave the channels as they are. It goes into the HK flow and with it into the lead
die's spool, and where that comes to LIMIT, skim ends (R212): the hub of the counterexample has a spool without a page. -/
theorem not_calibrationSlots : ¬ Obligations.CalibrationSlots := by
  unfold Obligations.CalibrationSlots
  intro h
  obtain ⟨-, -, -, -, -, -, -, -, -, -, -, -, -, -, -, -, -, -, -, -, ramps⟩ :=
    h.1 ⟨rampingHub, []⟩ 0 [] [] [] ⟨0, [], [], [], []⟩ [] rampingHub_shaped
  obtain ⟨t, run, -, same, -⟩ := ramps rampingSlot rampingHub_runs rampingHub_found
  have ran : exec (.calSlot 0 .rampDone) ⟨rampingHub, []⟩ = .next ⟨rampingHub.slotDone 0, []⟩ := by
    refine next_congr ?_
    unfold Hub.calSlot
    exact if_neg (by rw [rampingHub_runs]; decide)
  rw [ran] at run
  injection run with run
  subst run
  exact rampingHub_done same
end

section
/-! PROOFS. Scheduled actions (R121 to R126, R403, R418): a switch that the hardware arms after its first sample. -/

namespace Sys2Proof.Machine

/-- The active set with another FIR_TM1. -/
def CoefSet.longer (c : CoefSet) : CoefSet := { c with firTm1 := c.firTm1 + 1 }
/-- A switch that the hardware has not armed, and whose first sample has come: its set runs beside. -/
def Chan.onTrial (x : Chan) : Chan :=
  { x with shadow := some x.desc.coef.longer, trial := some ⟨0, x.stages⟩, switch := some ⟨some 0, 0, some 1, false⟩ }
/-- The action that schedules it, committed and not armed. -/
def lateSwitch : Action :=
  ⟨1, 0, true, ⟨0x0405, 0, 0, 0, 132, 0, 0⟩, List.replicate 132 0, 0, 0, true, false, false, 0, false⟩
/-- A hub with that channel and that action. -/
def lateHub : Hub :=
  let h := Hub.serving.setCh 0 Chan.onTrial
  { h with mgmt := { h.mgmt with actions := [lateSwitch] } }

theorem lateSwitch_cmd : ∃ chs xf, lateSwitch.cmd = some (.chanCoefSwitch chs xf) := by
  have unpadded : fieldAt lateSwitch.payload 130 2 = 0 := by
    rw [fieldAt, lateSwitch, List.drop_replicate, List.take_replicate]
    rfl
  have spelt : lateSwitch.cmd = laid lateSwitch.payload 132 [(130, 2)]
      (.chanCoefSwitch (mapAt lateSwitch.payload 0 128) (fieldAt lateSwitch.payload 128 2)) := by
    rw [Action.cmd, parseCmd, if_neg (by decide), if_pos (by decide)]
    rfl
  exact ⟨_, _, spelt.trans (if_pos ⟨List.length_replicate, by simp [unpadded]⟩)⟩

/-- Arming it begins the switch, with which the sets change places. -/
theorem Chan.onTrial_armed (x : Chan) : ({ x.onTrial with
    switch := x.onTrial.switch.map fun w => if w.job = some 1 then { w with armed := true } else w } :
      Chan).endTrial.desc.coef = x.desc.coef.longer := by
  unfold Chan.endTrial Chan.beginFade Chan.startFade
  rfl

theorem lateHub_ch : lateHub.chans[0]? = some Chan.reset.onTrial := by
  refine (List.getElem?_modify ..).trans ?_
  rfl

theorem Hub.switchArms_getElem? (h : Hub) (id : Word) {c : Nat} {x : Chan} (there : h.chans[c]? = some x) :
    (h.switchArms id).chans[c]? =
      some ({ x with switch := x.switch.map fun w => if w.job = some id then { w with armed := true } else w } : Chan).endTrial := by
  rw [Hub.switchArms, Hub.mapCh, List.getElem?_mapIdx, there]
  rfl

theorem lateHub_arms : lateHub.actionArm 1 = (lateHub.setAction 1 fun x => { x with armed := true }).switchArms 1 := by
  obtain ⟨chs, xf, cmd⟩ := lateSwitch_cmd
  have found : lateHub.findAction 1 = some lateSwitch := rfl
  unfold Hub.actionArm
  rw [found]
  dsimp only
  rw [cmd]
  exact if_neg (by simp [lateSwitch])

theorem lateHub_changes : ((lateHub.actionArm 1).chans.map Chan.desc)[0]? ≠ (lateHub.chans.map Chan.desc)[0]? := by
  intro same
  have armed : (lateHub.actionArm 1).chans[0]? = some ({ Chan.reset.onTrial with
      switch := Chan.reset.onTrial.switch.map fun w => if w.job = some 1 then { w with armed := true } else w } : Chan).endTrial := by
    rw [lateHub_arms]
    exact Hub.switchArms_getElem? _ 1 lateHub_ch
  rw [List.getElem?_map, List.getElem?_map, armed, lateHub_ch] at same
  have coef := congrArg (fun d => d.coef.firTm1) (Option.some.inj same)
  exact absurd ((congrArg CoefSet.firTm1 (Chan.onTrial_armed Chan.reset)).symm.trans coef) (by decide)

end Sys2Proof.Machine

open Sys2Proof Sys2Proof.Machine

/-- Refutes O55. It says that to arm an action changes no descriptor. A CHAN_COEF_SWITCH that the hardware arms after the switch's first
sample takes place with it (R125, R157; that the set has run beside until then is log entry 116, DESIGN CHOICE), and the channel's active
set is the new one. The clauses on the instant and lateness of SCHED_DONE (log entry 105, DEDUCED) and on actions that run though a core
has failed (log entries 117, 170) are not touched. -/
theorem not_scheduledActions : ¬ Obligations.ScheduledActions := by
  unfold Obligations.ScheduledActions
  intro h
  have arms := h ⟨lateHub, []⟩ false ⟨0, 0, 0⟩ ⟨0, 0, 0, 0, 0, 0, 0⟩ [] 1 lateSwitch
  obtain ⟨t, run, -, same, -⟩ := arms.2.2.2.2.2.2.2.2.2.2.2.2.1 rfl rfl rfl (Nat.zero_le _)
  have ran : exec (.actionArm 1) ⟨lateHub, []⟩ = .next ⟨lateHub.actionArm 1, []⟩ := rfl
  rw [ran] at run
  injection run with run
  subst run
  exact lateHub_changes (congrArg (fun l : List Desc => l[0]?) same)
end

section
/-! PROOFS. What a die's part in the hub is, and what leaves it as it is. -/

namespace Sys2Proof.Machine

/-- A die's cores without its checkpoint store. -/
def Cores.role (k : Cores) : Cores := { k with halves := (none, none), pointer := false, through := [] }

/-- A die's service, faults, supplies and cores, and its telemetry. -/
def Die.duty (x : Die) := (x.inService, x.frozen, x.faulted, x.faultAt, x.restartAt, x.quads, x.rails, x.reading, x.cores.role)

theorem Die.duty_eq (x : Die) :
    x.duty = (x.inService, x.frozen, x.faulted, x.faultAt, x.restartAt, x.quads, x.rails, x.reading, x.cores.role) := by
  cases x
  rfl

/-- Those of a hub's dies. -/
def Hub.duties (h : Hub) := h.dies.map Die.duty

theorem Hub.duties_of_cores {h g : Hub} (same : g.dieCores = h.dieCores) : g.duties = h.duties := by
  have views (k : Hub) : k.duties = k.dieCores.map Die.duty := by
    rw [Hub.duties, Hub.dieCores, List.map_map]
    rfl
  rw [views, views, same]

theorem forAll_duties {α : Type} (f : α → Hub → Hub) (keeps : ∀ a h, (f a h).duties = h.duties) (l : List α) (h : Hub) :
    (forAll l f h).duties = h.duties := forAll_keeps Hub.duties f keeps l h
theorem iter_duties (f : Hub → Hub) (keeps : ∀ h, (f h).duties = h.duties) (n : Nat) (h : Hub) :
    (iter f n h).duties = h.duties := iter_keeps Hub.duties f keeps n h

theorem Hub.map_duty_dies (h : Hub) : h.dies.map Die.duty = h.duties := rfl

theorem Hub.duties_mk {clk : Clk} {tm : Tm} {chans : List Chan} {octs : List Octet} {reps : List Rep} {dies : List Die}
    {trg : Trg} {caps : List (Option Capture)} {nextTrain : Nat} {saved : List SavedChurn} {jobs : List ChurnJob} {nextHandle nextJob : Nat}
    {flows : List Flow} {strm : Strm} {hk : Hk} {sep : Sep} {ports : List Port} {enm : Enum} {mgmt : Mgmt} {dbw : Dbw} {fseal : Seal}
    {flt : Flt} {cal : Cal} {pwr : Pwr} {pmbus : Pmbus} {boot : Boot} {flash : Flash} {tag : Tag} {tap : Tap} {fresh : Nat} {ident : Ident}
      :
    (Hub.mk ident clk tm chans octs reps dies trg caps nextTrain saved jobs nextHandle nextJob flows strm hk sep ports enm mgmt dbw
      fseal flt cal pwr pmbus boot flash tag tap fresh).duties = dies.map Die.duty := rfl

theorem Hub.setDie_duties (h : Hub) (d : Nat) {f : Die → Die} (keeps : ∀ x, (f x).duty = x.duty) :
    (h.setDie d f).duties = h.duties := map_modAt_of_keeps keeps _ _

theorem Hub.mapDie_duties (h : Hub) {f : Nat → Die → Die} (keeps : ∀ d x, (f d x).duty = x.duty) : (h.mapDie f).duties = h.duties :=
  map_mapIdx_of_keeps keeps _

@[simp] theorem Hub.setCh_duties (h : Hub) (c : Nat) (f : Chan → Chan) : (h.setCh c f).duties = h.duties := rfl
@[simp] theorem Hub.mapCh_duties (h : Hub) (f : Nat → Chan → Chan) : (h.mapCh f).duties = h.duties := rfl

@[simp] theorem Hub.switchDrops_duties (h : Hub) (id : Word) : (h.switchDrops id).duties = h.duties := by
  refine (Hub.mapDie_duties _ fun d x => ?_).trans rfl
  split
  · exact ite_keeps Die.duty rfl rfl
  · rfl

@[simp] theorem Hub.resumeChan_duties (h : Hub) (c : Nat) : (h.resumeChan c).duties = h.duties :=
  ite_keeps Hub.duties rfl rfl

@[simp] theorem Hub.setAudit_duties (h : Hub) (d : Nat) (f : Audit → Audit) : (h.setAudit d f).duties = h.duties := by
  simp only [Hub.setAudit, ↓Hub.setDie_duties, implies_true, ↓Hub.setDie_duties, Die.duty_eq]
@[simp] theorem Hub.setOct_duties (h : Hub) (o : Nat) (f : Octet → Octet) : (h.setOct o f).duties = h.duties :=
  congrArg (List.map Die.duty) (Hub.setOct_dies ..)
@[simp] theorem Hub.endHold_duties (h : Hub) (o : Nat) : (h.endHold o).duties = h.duties := by
  simp only [Hub.endHold, ↓Hub.resumeChan_duties, ↓Hub.setCh_duties, ↓Hub.setOct_duties, ↓forAll_duties, implies_true]
@[simp] theorem Hub.abortSlots_duties (h : Hub) (d : Nat) : (h.abortSlots d).duties = h.duties := by
  simp only [Hub.abortSlots, ↓Hub.endHold_duties, ↓Hub.mapCh_duties, ↓Hub.setAudit_duties, ↓forAll_duties, ↓Hub.duties_mk, implies_true,
    ↓Hub.map_duty_dies]
@[simp] theorem Hub.passEnds_duties (h : Hub) : h.passEnds.duties = h.duties := by
  simp only [Hub.passEnds, ↓Hub.duties_mk, ↓apply_ite Hub.duties, ite_self, ↓Hub.map_duty_dies]
@[simp] theorem Hub.watermarks_duties (h : Hub) : h.watermarks.duties = h.duties :=
  Hub.duties_of_cores (Hub.watermarks_dieCores ..)
@[simp] theorem Hub.setFlow_duties (h : Hub) (k : FlowKey) (g : Flow → Flow) : (h.setFlow k g).duties = h.duties :=
  Hub.duties_of_cores (Hub.setFlow_dieCores ..)
@[simp] theorem Hub.notice_duties (h : Hub) (unit : Word) (code : Nat) (arg0 arg1 : Word) :
    (h.notice unit code arg0 arg1).duties = h.duties :=
  Hub.duties_of_cores (Hub.notice_dieCores ..)
@[simp] theorem Hub.rawReassign_duties (h : Hub) : h.rawReassign.duties = h.duties := by
  refine forAll_duties _ (fun k g => ?_) _ _
  dsimp only
  split
  · next p found => exact g.setFlow_duties k fun f => f.moveTo (.port p)
  · exact ite_keeps Hub.duties rfl ((Hub.notice_duties ..).trans (g.setFlow_duties k fun f => f.moveTo .off))
@[simp] theorem Hub.setPort_duties (h : Hub) (p : Nat) (f : Port → Port) : (h.setPort p f).duties = h.duties :=
  congrArg (List.map Die.duty) (Hub.setPort_dies ..)
@[simp] theorem Hub.setAlign_duties (h : Hub) (a : Align) : (h.setAlign a).duties = h.duties :=
  congrArg (List.map Die.duty) (Hub.setAlign_dies ..)
@[simp] theorem Hub.setTm_duties (h : Hub) (f : Tm → Tm) : (h.setTm f).duties = h.duties :=
  congrArg (List.map Die.duty) (Hub.setTm_dies ..)
@[simp] theorem Hub.laneAway_duties (h : Hub) (a : Align) : (h.laneAway a).duties = h.duties := by
  simp only [Hub.laneAway, ↓Hub.setAlign_duties, ↓Hub.setTm_duties, ↓apply_ite Hub.duties, ite_self]
@[simp] theorem Hub.linkGone_duties (h : Hub) : h.linkGone.duties = h.duties := by
  simp only [Hub.linkGone, ↓Hub.laneAway_duties, ↓apply_ite Hub.duties, ite_self]
@[simp] theorem Hub.unsend_duties (h : Hub) (p : Nat) : (h.unsend p).duties = h.duties := by
  simp only [Hub.unsend, ↓Hub.duties_mk, ↓Hub.map_duty_dies]
@[simp] theorem Hub.discardNote_duties (h : Hub) (p n : Nat) : (h.discardNote p n).duties = h.duties := by
  simp only [Hub.discardNote, ↓Hub.notice_duties, ↓Hub.duties_mk, ↓apply_ite Hub.duties, ite_self, ↓Hub.map_duty_dies]
@[simp] theorem Hub.portLost_duties (h : Hub) (p : Nat) (st : PState) : (h.portLost p st).duties = h.duties := by
  simp only [Hub.portLost, ↓Hub.discardNote_duties, ↓Hub.linkGone_duties, ↓Hub.setPort_duties, ↓Hub.unsend_duties, ↓Hub.duties_mk,
    ↓apply_ite Hub.duties, ite_self, ↓Hub.map_duty_dies]
@[simp] theorem Hub.portDown_duties (h : Hub) (p : Nat) (st : PState) : (h.portDown p st).duties = h.duties := by
  simp only [Hub.portDown, ↓Hub.portLost_duties, ↓Hub.rawReassign_duties, ↓Hub.watermarks_duties, ↓apply_ite Hub.duties, ite_self]
@[simp] theorem Hub.portStart_duties (h : Hub) (p : Nat) : (h.portStart p).duties = h.duties := by
  simp only [Hub.portStart, ↓Hub.portLost_duties, ↓Hub.rawReassign_duties, ↓Hub.setPort_duties, ↓Hub.watermarks_duties, ↓apply_ite
    Hub.duties,
    ite_self]
@[simp] theorem Hub.clockLoss_duties (h : Hub) : h.clockLoss.duties = h.duties := by
  simp only [Hub.clockLoss, ↓Hub.laneAway_duties, ↓Hub.setPort_duties, ↓Hub.setTm_duties]
@[simp] theorem Hub.closeCoupler_duties (h : Hub) (byHost : Bool) : (h.closeCoupler byHost).duties = h.duties := by
  simp only [Hub.closeCoupler, ↓Hub.clockLoss_duties, ↓Hub.portDown_duties, ↓Hub.duties_mk, ↓Hub.map_duty_dies]
@[simp] theorem Hub.reSweep_duties (h : Hub) (d : Nat) : (h.reSweep d).duties = h.duties := by
  simp only [Hub.reSweep, ↓Hub.duties_mk, ↓Hub.map_duty_dies]
@[simp] theorem Hub.setLevel_duties (h : Hub) (l : Level) : (h.setLevel l).duties = h.duties :=
  congrArg (List.map Die.duty) (Hub.setLevel_dies ..)
@[simp] theorem Hub.reLevel_duties (h : Hub) : h.reLevel.duties = h.duties := by
  simp only [Hub.reLevel, ↓Hub.setLevel_duties, ↓apply_ite Hub.duties, ite_self]
@[simp] theorem Hub.setCap_duties (h : Hub) (n : Nat) (f : Capture → Capture) : (h.setCap n f).duties = h.duties :=
  Hub.duties_of_cores (Hub.setCap_dieCores ..)
@[simp] theorem Hub.disarm_duties (h : Hub) (n : Nat) : (h.disarm n).duties = h.duties :=
  Hub.duties_of_cores (Hub.disarm_dieCores ..)
@[simp] theorem Hub.trainDone_duties (h : Hub) (n : Nat) : (h.trainDone n).duties = h.duties :=
  Hub.duties_of_cores (Hub.trainDone_dieCores ..)
@[simp] theorem Hub.capLoseDie_duties (d n : Nat) (h : Hub) : (Hub.capLoseDie d n h).duties = h.duties := by
  unfold Hub.capLoseDie
  split <;> simp only [↓Hub.disarm_duties, ↓Hub.setCap_duties, ↓Hub.trainDone_duties, ↓Hub.duties_mk, ↓apply_ite Hub.duties, ite_self,
    ↓Hub.map_duty_dies]
@[simp] theorem Hub.setBase_duties (h : Hub) (b : Base) : (h.setBase b).duties = h.duties :=
  congrArg (List.map Die.duty) (Hub.setBase_dies ..)
@[simp] theorem Hub.setPps_duties (h : Hub) (i : Nat) (f : PpsIn → PpsIn) : (h.setPps i f).duties = h.duties := by
  unfold Hub.setPps
  split <;> simp only [↓Hub.setTm_duties]
@[simp] theorem Hub.chooseActive_duties (h : Hub) : h.chooseActive.duties = h.duties := by
  unfold Hub.chooseActive
  dsimp only
  repeat' split
  all_goals simp only [↓Hub.notice_duties, ↓Hub.setTm_duties]
@[simp] theorem Hub.ppsDrop_duties (h : Hub) (i : Nat) : (h.ppsDrop i).duties = h.duties := by
  unfold Hub.ppsDrop
  split <;> simp only [↓Hub.chooseActive_duties, ↓Hub.notice_duties, ↓Hub.setBase_duties, ↓Hub.setPps_duties, ↓Hub.setTm_duties, ↓apply_ite
    Hub.duties,
    ite_self]
@[simp] theorem Hub.vanish_duties (h : Hub) (d : Nat) : (h.vanish d).duties = h.duties := by
  simp only [Hub.vanish, ↓Hub.duties_mk, ↓Hub.map_duty_dies]
@[simp] theorem Hub.tiuEdge_duties (h : Hub) (d n : Nat) : (h.tiuEdge d n).duties = h.duties := by
  unfold Hub.tiuEdge
  split <;> simp only [↓Hub.setDie_duties, implies_true, ↓Hub.setDie_duties, Die.duty_eq]
@[simp] theorem Hub.ok_duties (h : Hub) (p : Bytes) : (h.ok p).duties = h.duties :=
  congrArg (List.map Die.duty) (Hub.ok_dies ..)
@[simp] theorem Hub.eventAt_duties (h : Hub) (t : Nat) (unit : Word) (code cls count : Nat) (arg0 arg1 : Word) :
    (h.eventAt t unit code cls count arg0 arg1).duties = h.duties :=
  Hub.duties_of_cores (Hub.eventAt_dieCores ..)
@[simp] theorem Hub.syncDrops_duties (h : Hub) (id : Word) : (h.syncDrops id).duties = h.duties := by
  simp only [Hub.syncDrops, ↓Hub.mapCh_duties]
@[simp] theorem Hub.dropAction_duties (h : Hub) (id : Word) : (h.dropAction id).duties = h.duties := by
  simp only [Hub.dropAction, ↓Hub.switchDrops_duties, ↓Hub.syncDrops_duties, ↓Hub.duties_mk, ↓Hub.map_duty_dies]
@[simp] theorem Hub.schedDone_duties (h : Hub) (t : Nat) (id : Word) (status lateUs : Nat) :
    (h.schedDone t id status lateUs).duties = h.duties := by
  simp only [Hub.schedDone, ↓Hub.dropAction_duties, ↓Hub.eventAt_duties]
@[simp] theorem Hub.planeDone_duties (h : Hub) (id : Word) (status : Nat) : (h.planeDone id status).duties = h.duties := by
  unfold Hub.planeDone
  split <;> simp only [↓Hub.schedDone_duties]

end Sys2Proof.Machine
end


section
/-! PROOFS. Power states, the excitation supply, telemetry, shedding and shutdown (R448 to R461). -/

namespace Sys2Proof.Machine

/-! ## What a record leaves of the channels -/

/-- A view of a channel that does not see how its skim begins and stops, which is all that a record can change there (R212). -/
def Chan.Blind {α : Type} (view : Chan → α) : Prop :=
  ∀ (x : Chan) a b c u, view { x with skimBuilt := a, skimStart := b, skimStop := c, churnSkim := u } = view x

section
variable {α : Type} {view : Chan → α}

theorem Hub.mapCh_view (h : Hub) {f : Nat → Chan → Chan} (keeps : ∀ i x, view (f i x) = view x) :
    (h.mapCh f).chans.map view = h.chans.map view := map_mapIdx_of_keeps keeps _

theorem Hub.spoolTouch_view (blind : Chan.Blind view) (h : Hub) (d : Nat) (was : Seqs) :
    (h.spoolTouch d was).chans.map view = h.chans.map view := by
  have same (x : Chan) (a b c) (u) : view { x with skimBuilt := a, skimStart := b, skimStop := c, churnSkim := u } = view x := blind x a b
    c u
  unfold Hub.spoolTouch
  extract_lets st size nx h0 g mine spooled g0 tooFull newest g1 g2 g3 touched full
  clear_value tooFull newest
  have g1' : g1.chans = g.chans := Hub.iter_unclose_chans tooFull newest _ g
  change touched.chans.map view = _
  unfold touched
  clear_value nx
  split
  · rfl
  · cases nx with
    | redOnly =>
      refine (g.mapCh_view fun i x => ?_).trans rfl
      split
      · exact same x _ _ _ _
      · rfl
    | limit =>
      refine (congrArg (List.map view) (Hub.setFlow_chans _ _ _)).trans ((g2.mapCh_view fun i x => ?_).trans (congrArg (List.map view) g1'))
      split
      · exact same x _ _ _ _
      · rfl
    | fullRate =>
      refine (g.mapCh_view fun i x => ?_).trans rfl
      split
      · exact same x _ _ _ _
      · split
        · exact same x _ _ _ _
        · rfl

theorem Hub.hkRecord_view (blind : Chan.Blind view) (h : Hub) (t kind : Nat) (payload : Bytes) :
    (h.hkRecord t kind payload).chans.map view = h.chans.map view := by
  refine ite_keeps (fun g : Hub => g.chans.map view) ?_ rfl
  unfold Hub.emitRecord Hub.emitSince
  split
  · rfl
  · split
    · rfl
    · refine (congrArg (List.map view) (Hub.watermarks_chans _)).trans ((Hub.spoolTouch_view blind _ _ _).trans ?_)
      exact congrArg (List.map view) (Hub.setFlow_chans _ _ _)

theorem Hub.recordAt_view (blind : Chan.Blind view) (h : Hub) (t kind : Nat) (payload : Bytes) :
    (h.recordAt t kind payload).chans.map view = h.chans.map view := by
  refine ite_keeps (fun g : Hub => g.chans.map view) rfl ((Hub.hkRecord_view blind _ _ _ _).trans ?_)
  exact ite_keeps (fun g : Hub => g.chans.map view) rfl (Hub.hkRecord_view blind _ _ _ _)

theorem Hub.notice_view (blind : Chan.Blind view) (h : Hub) (u : Word) (code : Nat) (a b : Word) :
    (h.notice u code a b).chans.map view = h.chans.map view :=
  (congrArg (fun g : Hub => g.chans.map view) (h.eventAt_notice _ u code 1 a b)).trans (h.recordAt_view blind _ _ _)
end

/-! ## The reset of the dies (R467), and the rails off (R448, R452) -/

theorem Hub.tapSeal_eq (h : Hub) : ∃ t, h.tapSeal = { h with tap := t } := by
  unfold Hub.tapSeal
  split
  · exact ⟨_, rfl⟩
  · exact ⟨h.tap, rfl⟩

/-- A hub after the reset of its dies, with a state of the test access port. -/
def Hub.afterReset (h : Hub) (tap : Tap) : Hub :=
  let r := Hub.reset h.ident
  { r with
    clk := { r.clk with elapsed := h.clk.elapsed, refclk := h.clk.refclk },
    fseal := { h.fseal with session := false, nonce := none },
    flash := { h.flash with staged := none },
    tag := { h.tag with queue := [], lost := 0, writes := h.tag.inHand },
    pwr := { r.pwr with
      holdUp := h.pwr.holdUp, thermalOff := h.pwr.thermalOff, stays := h.pwr.stays, vkeepOk := h.pwr.vkeepOk, vkeepAt := h.pwr.vkeepAt,
      vioA := h.pwr.vioA, vioB := h.pwr.vioB },
    boot := { r.boot with rst := h.boot.rst, bays := h.boot.bays },
    dies := r.dies.zipWith (fun (n o : Die) =>
      { n with rails := o.rails, cores := { n.cores with halves := o.cores.halves, pointer := o.cores.pointer, through := o.cores.through }
        }) h.dies,
    tap := tap, fresh := h.fresh }

theorem Hub.resetDies_eq (h : Hub) : ∃ t, h.resetDies = h.afterReset t := Hub.tapSeal_eq _

theorem Hub.railsOff_eq (h : Hub) : ∃ t, h.railsOff = { h.afterReset t with
    boot := { (h.afterReset t).boot with bays := [] }, pwr := { (h.afterReset t).pwr with holdUp := none },
    dies := (h.afterReset t).dies.map fun (x : Die) => { x with rails := false } } := by
  obtain ⟨t, eq⟩ := h.resetDies_eq
  refine ⟨t, ?_⟩
  unfold Hub.railsOff
  rw [eq]

theorem unrailed (l : List Die) : ∀ x ∈ l.map fun (x : Die) => { x with rails := false }, x.rails = false := by
  intro x mem
  obtain ⟨y, -, rfl⟩ := List.mem_map.1 mem
  rfl

/-! ## What shedding and telemetry leave -/

@[simp] theorem Hub.startStep_pwr (h : Hub) (p rate : Nat) (cause : StepCause) (good : List (Nat × Nat)) :
    (h.startStep p rate cause good).pwr = h.pwr := by
  simp only [Hub.startStep, ↓Hub.ctl_pwr, ↓Hub.setPort_pwr]
@[simp] theorem Hub.askRate_pwr (h : Hub) (p rate : Nat) : (h.askRate p rate).pwr = h.pwr := by
  simp only [Hub.askRate, ↓Hub.ctl_pwr, ↓Hub.setPort_pwr, ↓Hub.startStep_pwr, ↓apply_ite Hub.pwr, ite_self]
@[simp] theorem Hub.askWidth_pwr (h : Hub) (p w : Nat) : (h.askWidth p w).pwr = h.pwr := by
  simp only [Hub.askWidth, ↓Hub.ctl_pwr, ↓Hub.setPort_pwr, ↓apply_ite Hub.pwr, ite_self]
@[simp] theorem Hub.shedWidth_pwr (p : Nat) (h : Hub) : (Hub.shedWidth p h).pwr = h.pwr := by
  simp only [Hub.shedWidth, ↓Hub.askWidth_pwr, ↓apply_ite Hub.pwr, ite_self]
@[simp] theorem Hub.shedRateAt_pwr (p : Nat) (h : Hub) : (Hub.shedRateAt p h).pwr = h.pwr := by
  simp only [Hub.shedRateAt, ↓Hub.askRate_pwr, ↓apply_ite Hub.pwr, ite_self]
@[simp] theorem Hub.startStep_tm (h : Hub) (p rate : Nat) (cause : StepCause) (good : List (Nat × Nat)) :
    (h.startStep p rate cause good).tm = h.tm := by
  simp only [Hub.startStep, ↓Hub.ctl_tm, ↓Hub.setPort_tm]
@[simp] theorem Hub.askRate_tm (h : Hub) (p rate : Nat) : (h.askRate p rate).tm = h.tm := by
  simp only [Hub.askRate, ↓Hub.ctl_tm, ↓Hub.setPort_tm, ↓Hub.startStep_tm, ↓apply_ite Hub.tm, ite_self]
@[simp] theorem Hub.askWidth_tm (h : Hub) (p w : Nat) : (h.askWidth p w).tm = h.tm := by
  simp only [Hub.askWidth, ↓Hub.ctl_tm, ↓Hub.setPort_tm, ↓apply_ite Hub.tm, ite_self]
@[simp] theorem Hub.shedWidth_tm (p : Nat) (h : Hub) : (Hub.shedWidth p h).tm = h.tm := by
  simp only [Hub.shedWidth, ↓Hub.askWidth_tm, ↓apply_ite Hub.tm, ite_self]
@[simp] theorem Hub.shedRateAt_tm (p : Nat) (h : Hub) : (Hub.shedRateAt p h).tm = h.tm := by
  simp only [Hub.shedRateAt, ↓Hub.askRate_tm, ↓apply_ite Hub.tm, ite_self]

@[simp] theorem Hub.gradientQueue_pwr (h : Hub) : h.gradientQueue.pwr = h.pwr := by
  simp only [Hub.gradientQueue, ↓Hub.calQueue_pwr, ↓forAll_pwr, implies_true]
@[simp] theorem Hub.pmbusLatch_pwr (h : Hub) : h.pmbusLatch.pwr = h.pwr := by
  simp only [Hub.pmbusLatch, ↓Hub.pwr_mk]
@[simp] theorem Hub.sweepPut_pwr (h : Hub) (raw : Bool) (c : Nat) (x : SweepSample) : (h.sweepPut raw c x).pwr = h.pwr := by
  simp only [Hub.sweepPut, ↓Hub.setFlow_pwr]
@[simp] theorem Hub.sweepRate_pwr (h : Hub) (raw : Bool) (c inst num den words cause : Nat) :
    (h.sweepRate raw c inst num den words cause).pwr = h.pwr := by
  simp only [Hub.sweepRate, ↓Hub.sweepPut_pwr]
@[simp] theorem Hub.retireChan_pwr (h : Hub) (c code count : Nat) : (h.retireChan c code count).pwr = h.pwr := by
  unfold Hub.retireChan
  dsimp only
  repeat' split
  all_goals simp only [↓Hub.event_pwr, ↓Hub.setCh_pwr, ↓Hub.setDie_pwr]
@[simp] theorem Hub.spareChan_pwr (h : Hub) (c code : Nat) (readable : Bool) : (h.spareChan c code readable).pwr = h.pwr := by
  unfold Hub.spareChan
  dsimp only
  repeat' split
  all_goals simp only [↓Hub.notice_pwr, ↓Hub.retireChan_pwr, ↓Hub.setCh_pwr, ↓Hub.setDie_pwr]
@[simp] theorem Hub.placeUse_pwr (h : Hub) (d e c : Nat) (others : List Nat) (get : Chan → Option ChurnUse) (put :
    Option ChurnUse → Chan → Chan) : (h.placeUse d e c others get put).pwr = h.pwr := by
  unfold Hub.placeUse
  split
  · rfl
  · split
    · rfl
    · split <;> exact h.setCh_pwr _ _
@[simp] theorem Hub.moveChurn_pwr (h : Hub) (d e : Nat) : (h.moveChurn d e).pwr = h.pwr := by
  rw [h.moveChurn_eq]
  refine forAll_pwr _ (fun c g => ?_) _ _
  simp only [Hub.placeUses, ↓apply_ite Hub.pwr, ↓Hub.notice_pwr, ↓Hub.placeUse_pwr, ite_self]
@[simp] theorem Hub.retireEngine_pwr (h : Hub) (d typ e : Nat) : (h.retireEngine d typ e).pwr = h.pwr := by
  simp only [Hub.retireEngine, ↓Hub.moveChurn_pwr, ↓Hub.setDie_pwr, ↓apply_ite Hub.pwr, ite_self, modAt]
@[simp] theorem Hub.engineFail_pwr (h : Hub) (d typ e code : Nat) (readable passes : Bool) :
    (h.engineFail d typ e code readable passes).pwr = h.pwr := by
  unfold Hub.engineFail
  dsimp only
  repeat' split
  all_goals simp only [↓Hub.event_pwr, ↓Hub.retireEngine_pwr, ↓Hub.setDie_pwr, ↓Hub.setEngWin_pwr, ↓Hub.spareChan_pwr,
    ↓Hub.pwr_mk]
@[simp] theorem Hub.churnMismatch_pwr (h : Hub) (d e : Nat) : (h.churnMismatch d e).pwr = h.pwr := by
  simp only [Hub.churnMismatch, ↓Hub.engineFail_pwr, ↓Hub.event_pwr, ↓Hub.setDie_pwr, ↓Hub.tick_pwr, ↓apply_ite Hub.pwr, ite_self,
    modAt]
@[simp] theorem Hub.churnCapture_pwr (h : Hub) (raw : Bool) (c next : Nat) : (h.churnCapture raw c next).pwr = h.pwr := by
  unfold Hub.churnCapture
  split <;> simp only [↓Hub.setCh_pwr, ↓Hub.pwr_mk, ↓apply_ite Hub.pwr, ite_self]
@[simp] theorem Hub.churnClose_pwr (h : Hub) (raw : Bool) (c : Nat) : (h.churnClose raw c).pwr = h.pwr := by
  unfold Hub.churnClose
  split <;> simp only [↓Hub.churnCapture_pwr, ↓Hub.churnMismatch_pwr, ↓Hub.setCh_pwr, ↓Hub.sweepPut_pwr, ↓Hub.tick_pwr, ↓apply_ite
    Hub.pwr, ite_self]
@[simp] theorem Hub.churnBreak_pwr (h : Hub) (raw : Bool) (c : Nat) : (h.churnBreak raw c).pwr = h.pwr := by
  simp only [Hub.churnBreak, ↓Hub.churnClose_pwr, ↓Hub.setCh_pwr]
@[simp] theorem Hub.rawShed_pwr (c : Nat) (h : Hub) : (Hub.rawShed c h).pwr = h.pwr := by
  simp only [Hub.rawShed, ↓Hub.churnBreak_pwr, ↓Hub.sweepRate_pwr]
@[simp] theorem Hub.rawBack_pwr (c : Nat) (h : Hub) : (Hub.rawBack c h).pwr = h.pwr := by
  simp only [Hub.rawBack, ↓Hub.setCh_pwr, ↓Hub.sweepRate_pwr]
@[simp] theorem Hub.skimShed_pwr (h : Hub) : h.skimShed.pwr = h.pwr := by
  simp only [Hub.skimShed, ↓Hub.mapCh_pwr]
@[simp] theorem Hub.skimBack_pwr (h : Hub) : h.skimBack.pwr = h.pwr := by
  simp only [Hub.skimBack, ↓Hub.mapCh_pwr]

@[simp] theorem Hub.gradientQueue_tm (h : Hub) : h.gradientQueue.tm = h.tm := by
  simp only [Hub.gradientQueue, ↓Hub.calQueue_tm, ↓forAll_tm, implies_true]
@[simp] theorem Hub.gradientCheck_tm (h : Hub) : h.gradientCheck.tm = h.tm := by
  simp only [Hub.gradientCheck, ↓Hub.gradientQueue_tm, ↓Hub.notice_tm, ↓Hub.setPwr_tm, ↓apply_ite Hub.tm, ite_self]
@[simp] theorem Hub.pmbusLatch_tm (h : Hub) : h.pmbusLatch.tm = h.tm := by
  simp only [Hub.pmbusLatch, ↓Hub.tm_mk]
@[simp] theorem Hub.rawShed_tm (c : Nat) (h : Hub) : (Hub.rawShed c h).tm = h.tm := by
  simp only [Hub.rawShed, ↓Hub.churnBreak_tm, ↓Hub.sweepRate_tm]
@[simp] theorem Hub.rawBack_tm (c : Nat) (h : Hub) : (Hub.rawBack c h).tm = h.tm := by
  simp only [Hub.rawBack, ↓Hub.setCh_tm, ↓Hub.sweepRate_tm]
@[simp] theorem Hub.skimShed_tm (h : Hub) : h.skimShed.tm = h.tm := by
  simp only [Hub.skimShed, ↓Hub.mapCh_tm]
@[simp] theorem Hub.skimBack_tm (h : Hub) : h.skimBack.tm = h.tm := by
  simp only [Hub.skimBack, ↓Hub.mapCh_tm]
@[simp] theorem Hub.telemetryRefresh_tm (h : Hub) (vkeepMv : Nat) (l : List DieReading) : (h.telemetryRefresh vkeepMv l).tm = h.tm := by
  simp only [Hub.telemetryRefresh, Hub.tick, ↓apply_ite Hub.tm, ↓Hub.gradientCheck_tm, ↓Hub.pmbusLatch_tm, ↓Hub.setPwr_tm,
    ↓Hub.tm_mk, ite_self]

/-- What SHED's new level leaves of the power unit. -/
def Pwr.shedTo (p : Pwr) (n now : Nat) : Pwr :=
  { p with shed := n, shedAt := now, shed4At := if p.shed < 4 then now else p.shed4At }

theorem Hub.setShed_pwr (h : Hub) (n : Nat) : (h.setShed n).pwr = h.pwr.shedTo n h.clk.elapsed := by
  simp only [Hub.setShed, ↓apply_ite Hub.pwr, ↓forAll_pwr, ↓Hub.shedWidth_pwr, ↓Hub.shedRateAt_pwr, ↓Hub.rawShed_pwr, ↓Hub.rawBack_pwr,
    ↓Hub.skimShed_pwr, ↓Hub.skimBack_pwr, ↓Hub.notice_pwr, implies_true, ite_self]
  rfl

theorem Hub.setShed_tm (h : Hub) (n : Nat) : (h.setShed n).tm = h.tm := by
  simp only [Hub.setShed, ↓apply_ite Hub.tm, ↓forAll_tm, ↓Hub.shedWidth_tm, ↓Hub.shedRateAt_tm, ↓Hub.rawShed_tm, ↓Hub.rawBack_tm,
    ↓Hub.skimShed_tm, ↓Hub.skimBack_tm, ↓Hub.notice_tm, implies_true, ite_self]
  rfl

/-- At level 5 the last change is that of the skim (R459). -/
theorem Hub.setShed_skim (h : Hub) (four : h.pwr.shed = 4) :
    ∀ x ∈ (h.setShed 5).chans, (x.skimBuilt = true → x.skimStop = some 3) ∧ x.skimStart = none := by
  have last (g : Hub) : ∀ x ∈ g.skimShed.chans, (x.skimBuilt = true → x.skimStop = some 3) ∧ x.skimStart = none := by
    intro x mem
    obtain ⟨i, lt, eq⟩ := List.getElem_of_mem mem
    simp only [Hub.skimShed, Hub.mapCh, List.getElem_mapIdx] at eq
    subst eq
    split
    · exact ⟨fun _ => rfl, rfl⟩
    · next off => exact ⟨fun on => absurd on off, rfl⟩
  unfold Hub.setShed
  simp only [four, Nat.reduceLT, Nat.reduceLeDiff, and_true, and_false, if_false, if_true]
  exact last _

theorem Hub.holdUpStart_pwr (h : Hub) (cause : Nat) : (h.holdUpStart cause).pwr = { h.pwr with
    holdUp := if h.pwr.holdUp = none ∧ (h.boot.tr.isSome = true ∨ h.boot.bays ≠ []) then some h.clk.elapsed else h.pwr.holdUp } := by
  have stays : h.pwr.holdUp.isSome = true ∨ h.boot.tr.isNone = true ∧ h.boot.bays.isEmpty = true ↔
      ¬(h.pwr.holdUp = none ∧ (h.boot.tr.isSome = true ∨ h.boot.bays ≠ [])) := by
    cases h.pwr.holdUp <;> cases h.boot.tr <;> simp
  unfold Hub.holdUpStart
  simp only [stays, ite_not]
  split
  · split <;> rfl
  · rfl

/-! ## The temperature gradient and the refresh of telemetry (R455, R461) -/

/-- The power unit without what the gradient rule keeps. -/
def Pwr.rest (p : Pwr) : Pwr := { p with gradient := false, gradBase := 0, gradOkAt := none }

theorem Hub.gradientCheck_rest (h : Hub) : h.gradientCheck.pwr.rest = h.pwr.rest := by
  unfold Hub.gradientCheck
  simp only [apply_ite (fun g : Hub => g.pwr.rest), Hub.gradientQueue_pwr, Hub.notice_pwr]
  simp [Hub.setPwr, Pwr.rest, apply_ite]

theorem Hub.calQueue_dies (h : Hub) (o : Nat) : (h.calQueue o).dies = h.dies := ite_keeps Hub.dies rfl rfl

theorem Hub.gradientQueue_dies (h : Hub) : h.gradientQueue.dies = h.dies :=
  forAll_keeps Hub.dies _ (fun o g => g.calQueue_dies o) _ _

theorem Hub.gradientCheck_dieCores (h : Hub) : h.gradientCheck.dieCores = h.dieCores := by
  have queue (g : Hub) : g.gradientQueue.dieCores = g.dieCores := congrArg (List.map Die.core) g.gradientQueue_dies
  have setPwr (g : Hub) (f : Pwr → Pwr) : (g.setPwr f).dieCores = g.dieCores := rfl
  simp only [Hub.gradientCheck, ↓apply_ite Hub.dieCores, ↓queue, ↓Hub.notice_dieCores, ↓setPwr, ite_self]

/-- A die with its telemetry refreshed. -/
def Die.refreshed (x : Die) (r : Option DieReading) : Die :=
  match r with
  | some r => { x with reading := x.audit.telemetry x.reading r, audit := { x.audit with points := List.replicate 16 (0, 0) } }
  | none => x

theorem Hub.telemetryRefresh_runs {h : Hub} (manages : h.manages = true) (goes : h.telemWaits = false) (mv : Nat) (rs : List DieReading) :
    ∃ g : Hub, h.telemetryRefresh mv rs = g ∧ g.pwr.vkeepMv = mv ∧ g.pwr.refreshed = some h.clk.elapsed ∧ g.tm = h.tm ∧
      g.dieCores = (h.dies.mapIdx fun d x => x.refreshed rs[d]?).map Die.core := by
  refine ⟨_, rfl, ?_, ?_, Hub.telemetryRefresh_tm .., ?_⟩
  all_goals
    unfold Hub.telemetryRefresh
    rw [if_neg (by simp [manages, goes])]
  · exact (congrArg Pwr.vkeepMv (Hub.gradientCheck_rest _)).trans rfl
  · exact (congrArg Pwr.refreshed (Hub.gradientCheck_rest _)).trans rfl
  · refine (Hub.gradientCheck_dieCores _).trans ?_
    rfl

/-! ## PWR_GATE (R398, R453) -/

/-- The supplies of the quadrants, die by die. -/
def Hub.gates (h : Hub) : List (List Bool) := h.dies.map Die.quads

theorem Hub.gates_of_duties {h g : Hub} (same : g.duties = h.duties) : g.gates = h.gates := by
  have views (k : Hub) : k.gates = k.duties.map fun x => x.2.2.2.2.2.1 := by
    rw [Hub.gates, Hub.duties, List.map_map]
    rfl
  rw [views, views, same]

/-- The supply of a quadrant. -/
def gateAt (L : List (List Bool)) (q : Nat) : Option Bool := L[q / 4]?.bind fun l => l[q % 4]?

/-- The supplies after a quadrant has been switched. -/
def switched (b : Bool) (L : List (List Bool)) (q : Nat) : List (List Bool) := modAt L (q / 4) fun l => modAt l (q % 4) fun _ => b

theorem gateAt_switched (b : Bool) (L : List (List Bool)) (q p : Nat) :
    gateAt (switched b L q) p = if p = q then (gateAt L p).map fun _ => b else gateAt L p := by
  unfold gateAt switched modAt
  rw [List.getElem?_modify]
  cases L[p / 4]? with
  | none => simp
  | some l =>
    by_cases die : q / 4 = p / 4
    · simp only [die, if_true, Option.map_eq_map, Option.map_some, Option.bind_some, List.getElem?_modify]
      by_cases same : p = q
      · subst same
        simp
      · have other : ¬q % 4 = p % 4 := by omega
        simp [same, other]
    · rw [if_neg (c := p = q) (by rintro rfl; exact die rfl)]
      simp [die]

theorem gateAt_foldl (b : Bool) (l : List Nat) (L : List (List Bool)) (p : Nat) :
    gateAt (l.foldl (switched b) L) p = if p ∈ l then (gateAt L p).map fun _ => b else gateAt L p := by
  induction l generalizing L with
  | nil => rfl
  | cons q l ih =>
    rw [List.foldl_cons, ih, gateAt_switched]
    cases gateAt L p <;> by_cases same : p = q <;> by_cases mem : p ∈ l <;> simp [same, mem]

theorem Hub.setDie_gates (h : Hub) (q : Nat) (b : Bool) :
    (h.setDie (q / 4) fun x => { x with quads := modAt x.quads (q % 4) fun _ => b }).gates = switched b h.gates q := by
  unfold Hub.gates switched modAt
  refine List.ext_getElem? fun d => ?_
  simp only [Hub.setDie, modAt, List.getElem?_map, List.getElem?_modify]
  split <;> cases h.dies[d]? <;> rfl

theorem Hub.quadOff_gates (q : Nat) (h : Hub) : (Hub.quadOff q h).gates = switched false h.gates q := by
  have hold (g : Hub) : (g.sclkHold q 0).duties = g.duties := ite_keeps Hub.duties rfl rfl
  unfold Hub.quadOff
  extract_lets d h1 h2 h3 h4
  have first : h1.duties = h.duties := ite_keeps Hub.duties (h.abortSlots_duties d) rfl
  have second : h2.duties = h1.duties := ite_keeps Hub.duties (hold h1) rfl
  have last : (h4.passEnds.portDown q .off).duties = h3.duties := by rw [Hub.portDown_duties, Hub.passEnds_duties]; rfl
  rw [Hub.gates_of_duties last, Hub.setDie_gates, Hub.gates_of_duties (second.trans first)]

theorem Hub.quadOn_gates (q : Nat) (h : Hub) : (Hub.quadOn q h).gates = switched true h.gates q := by
  unfold Hub.quadOn
  extract_lets h1 h2 h3
  have starts : (h3.portStart q).duties = h1.duties := (h3.portStart_duties q).trans (ite_keeps Hub.duties rfl rfl)
  rw [Hub.gates_of_duties starts]
  exact h.setDie_gates q true

theorem forAll_gates {f : Nat → Hub → Hub} {b : Bool} (turns : ∀ q g, (f q g).gates = switched b g.gates q) (l : List Nat) (h : Hub) :
    (forAll l f h).gates = l.foldl (switched b) h.gates := by
  induction l generalizing h with
  | nil => rfl
  | cons q l ih => exact (ih (f q h)).trans (by rw [turns, List.foldl_cons])

theorem Hub.powered_of_gate {h : Hub} {q : Nat} {b : Bool} (gate : gateAt h.gates q = some b) : h.powered q = b := by
  unfold gateAt Hub.gates at gate
  rw [List.getElem?_map, Option.bind_eq_some_iff] at gate
  obtain ⟨l, die, gate⟩ := gate
  obtain ⟨x, there, rfl⟩ := Option.map_eq_some_iff.1 die
  rw [Hub.powered, Hub.die_of_getElem? there, List.getD_eq_getElem?_getD, gate]
  rfl

theorem Hub.gate_there {h : Hub} {q : Nat} (die : q / 4 < h.dies.length) (quad : q % 4 < (h.die (q / 4)).quads.length) :
    gateAt h.gates q = some (h.powered q) := by
  have there : h.dies[q / 4]? = some h.dies[q / 4] := List.getElem?_eq_getElem die
  rw [Hub.die_of_getElem? there] at quad
  have gate : gateAt h.gates q = some (h.dies[q / 4].quads[q % 4]) := by
    rw [gateAt, Hub.gates, List.getElem?_map, there]
    exact List.getElem?_eq_getElem quad
  rw [gate, Hub.powered_of_gate gate]

section
variable {h : Hub} {quads : List Nat}

/-- PWR_GATE changes nothing where it names a quadrant that the part lacks, or where one in use would go off (R398). -/
theorem Hub.pwrGate_refuses
    (bad : (∃ q ∈ quads, 4 * h.nDies ≤ q) ∨ ∃ q < 4 * h.nDies, h.powered q = true ∧ q ∉ quads ∧ h.needed q = true) :
    h.pwrGate quads = h.refuse St.badArg := by
  refine if_pos ?_
  simpa [List.any_eq_true, and_assoc] using bad

/-- The quadrants that a PWR_GATE changes. -/
theorem Hub.pwrGate_changes {off on : List Nat} (goOff : ∀ q, q ∈ off ↔ q < 4 * h.nDies ∧ h.powered q = true ∧ q ∉ quads)
    (goOn : ∀ q, q ∈ on ↔ q < 4 * h.nDies ∧ h.powered q = false ∧ q ∈ quads) (e : Nat) :
    e ∈ (off ++ on).map (· / 4) ↔ ∃ q, (q < 4 * h.nDies ∧ ¬(h.powered q = true ↔ q ∈ quads)) ∧ q / 4 = e := by
  simp only [List.mem_map, List.mem_append, goOff, goOn]
  refine exists_congr fun q => and_congr_left fun _ => ?_
  cases h.powered q <;> simp

variable (has : ¬∃ q ∈ quads, 4 * h.nDies ≤ q)
  (idle : ¬∃ q < 4 * h.nDies, h.powered q = true ∧ q ∉ quads ∧ h.needed q = true)
include has idle

/-- The quadrants that a PWR_GATE turns off, and those that it turns on. -/
theorem Hub.pwrGate_runs : ∃ off on : List Nat,
    (∀ q, q ∈ off ↔ q < 4 * h.nDies ∧ h.powered q = true ∧ q ∉ quads) ∧
    (∀ q, q ∈ on ↔ q < 4 * h.nDies ∧ h.powered q = false ∧ q ∈ quads) ∧
    h.pwrGate quads = h.onDies ((off ++ on).map (· / 4)) ((forAll on Hub.quadOn (forAll off Hub.quadOff h)).ok []) := by
  refine ⟨_, _, fun q => ?_, fun q => ?_, if_neg ?_⟩
  · simp
  · simp
  · simpa [List.any_eq_true, and_assoc, not_or] using And.intro has idle

theorem Hub.pwrGate_down {d : Nat}
    (least : ∀ q, (q < 4 * h.nDies ∧ ¬(h.powered q = true ↔ q ∈ quads)) → h.dieDown (q / 4) = true → d ≤ q / 4)
    (named : ∃ q, (q < 4 * h.nDies ∧ ¬(h.powered q = true ↔ q ∈ quads)) ∧ q / 4 = d) (down : h.dieDown d = true) :
    h.pwrGate quads = h.refuseDie St.fault d := by
  obtain ⟨off, on, goOff, goOn, runs⟩ := Hub.pwrGate_runs has idle
  have changes := Hub.pwrGate_changes goOff goOn
  rw [runs]
  refine Hub.onDies_least ((changes d).2 named) down (fun e mem isDown => ?_) _
  obtain ⟨q, turned, rfl⟩ := (changes e).1 mem
  exact least q turned isDown

/-- PWR_GATE leaves on what it names (R398). -/
theorem Hub.pwrGate_gates (shaped : Shaped h)
    (up : ∀ q, (q < 4 * h.nDies ∧ ¬(h.powered q = true ↔ q ∈ quads)) → h.dieDown (q / 4) = false) :
    ∃ g : Hub, h.pwrGate quads = g ∧ g.mgmt.reply = ⟨St.ok, 0, 255, []⟩ ∧
      ∀ q < 4 * h.nDies, q % 4 < (h.die (q / 4)).quads.length → (g.powered q = true ↔ q ∈ quads) := by
  obtain ⟨off, on, goOff, goOn, runs⟩ := Hub.pwrGate_runs has idle
  have changes := Hub.pwrGate_changes goOff goOn
  rw [Hub.onDies_up] at runs
  · refine ⟨_, runs, rfl, fun q lt quad => ?_⟩
    obtain ⟨-, -, dies, -⟩ := shaped
    have was := Hub.gate_there (h := h) (by omega) quad
    have gates : ((forAll on Hub.quadOn (forAll off Hub.quadOff h)).ok []).gates = on.foldl (switched true) (off.foldl (switched false) h.gates) := by
      rw [Hub.gates_of_duties (Hub.ok_duties _ _), forAll_gates Hub.quadOn_gates, forAll_gates Hub.quadOff_gates]
    have left := gateAt_foldl true on (off.foldl (switched false) h.gates) q
    rw [← gates, gateAt_foldl false, was] at left
    simp only [goOn, goOff, lt, true_and, Option.map_some] at left
    rw [Hub.powered_of_gate (left.trans (c := some (decide (q ∈ quads))) ?_), decide_eq_true_iff]
    cases h.powered q <;> by_cases named : q ∈ quads <;> simp [named]
  · intro e mem
    obtain ⟨q, turned, rfl⟩ := (changes e).1 mem
    exact up q turned
end

/-! ## PWR_TELEM (Table 17-5) -/

/-- A die's part of the telemetry payload. -/
def Hub.telemDie (h : Hub) (d : Nat) : Bytes :=
  let x := h.die d
  let r := x.reading
  be 1 d ++ be 1 ((if x.inService then 1 else 0) + (if x.frozen then 2 else 0)) ++
    be 1 (ofBits ((List.range 4).filter fun q => x.quads.getD q false)) ++ pad 1 ++ be 2 r.vmainMv ++ be 2 r.imainMa ++
    be 2 r.vexcMv ++ be 2 r.iexcMa ++ ((List.range 4).flatMap fun i => beInt 2 (r.temps.getD i 0)) ++ be 2 r.pdieMw ++ pad 2

theorem Hub.telemDie_length (h : Hub) (d : Nat) : (h.telemDie d).length = 24 := by
  have temps := (flatMap_record (k := 2) (fun i => beInt_length 2 ((h.die d).reading.temps.getD i 0)) (List.range 4)).1
  simp only [Hub.telemDie, List.length_append, be_length, pad_length, temps, List.length_range]

theorem Hub.telemDie_fields (h : Hub) (d : Nat) :
    (h.telemDie d).take 1 = be 1 d ∧ ((h.telemDie d).drop 4).take 2 = be 2 (h.die d).reading.vmainMv := ⟨rfl, rfl⟩

/-- The package's part of the telemetry payload. -/
def Hub.telemHead (h : Hub) : Bytes :=
  be 2 h.pwr.vkeepMv ++ beInt 2 h.pwr.tjMax ++ be 1 h.pwr.shed ++
    be 1 ((if h.pwr.gradient then 1 else 0) + (if h.pwr.vexcLow then 2 else 0) + (if h.clk.valid then 4 else 0)) ++ pad 2

theorem Hub.telemBytes_eq (h : Hub) : h.telemBytes = h.telemHead ++ (List.range h.nDies).flatMap h.telemDie := rfl

theorem Hub.telemHead_length (h : Hub) : h.telemHead.length = 8 := rfl

theorem Hub.telemBytes_layout (h : Hub) : h.telemBytes.length = 8 + 24 * h.nDies ∧
    h.telemBytes.take 5 = be 2 h.pwr.vkeepMv ++ beInt 2 h.pwr.tjMax ++ be 1 h.pwr.shed ∧
    ∀ i < h.nDies, (h.telemBytes.drop (8 + 24 * i)).take 1 = be 1 i ∧
      (h.telemBytes.drop (12 + 24 * i)).take 2 = be 2 (h.die i).reading.vmainMv := by
  obtain ⟨length, records⟩ := flatMap_record h.telemDie_length (List.range h.nDies)
  refine ⟨?_, rfl, fun i lt => ?_⟩
  · rw [Hub.telemBytes_eq, List.length_append, length, Hub.telemHead_length, List.length_range]
  · have record : (h.telemBytes.drop (8 + 24 * i)).take 24 = h.telemDie i := by
      rw [Hub.telemBytes_eq, List.drop_append, Hub.telemHead_length, Nat.add_sub_cancel_left,
        List.drop_eq_nil_of_le (by rw [Hub.telemHead_length]; omega)]
      exact records i i (List.getElem?_range lt)
    obtain ⟨number, vmain⟩ := h.telemDie_fields i
    rw [← record] at number vmain
    constructor
    · rw [← number, List.take_take]
      rfl
    · rw [← vmain, List.drop_take, List.take_take, List.drop_drop]
      rw [show 8 + 24 * i + 4 = 12 + 24 * i by omega]
      rfl

/-! ## The excitation supply (R449) -/

/-- The writes that wait at a channel, its retirement, its words, and its drive's ramp. -/
def Chan.drive (x : Chan) := (x.writes, x.held, x.retired, x.desc, x.driveOff, x.rampTo, x.rampAt)

theorem Chan.drive_blind : Chan.Blind Chan.drive := fun _ _ _ _ _ => rfl

theorem Hub.setCh_drive (h : Hub) (c : Nat) {f : Chan → Chan} (keeps : ∀ x, (f x).drive = x.drive) :
    (h.setCh c f).chans.map Chan.drive = h.chans.map Chan.drive := map_modAt_of_keeps keeps _ _

theorem Hub.resumeChan_drive (h : Hub) (c : Nat) : (h.resumeChan c).chans.map Chan.drive = h.chans.map Chan.drive := by
  refine Eq.trans ?_ (h.setCh_drive c fun x => rfl : ((h.setCh c Chan.resumeFront).chans.map Chan.drive = _))
  exact ite_keeps (fun g : Hub => g.chans.map Chan.drive) (Hub.setCh_drive _ c fun x => rfl) (Hub.setCh_drive _ c fun x => rfl)

theorem Hub.resumeChan_pwr (h : Hub) (c : Nat) : (h.resumeChan c).pwr = h.pwr := ite_keeps Hub.pwr rfl rfl
theorem Hub.resumeChan_hk (h : Hub) (c : Nat) : (h.resumeChan c).hk = h.hk := ite_keeps Hub.hk rfl rfl

theorem Hub.notice_rseq_of {g h : Hub} (same : g.hk = h.hk) (kept : h.hk.dropped = 0) (unit : Word) (code : Nat) (a b : Word) :
    (g.notice unit code a b).hk.rseq = h.hk.rseq + 1 := by
  rw [Hub.notice_rseq (same ▸ kept), same]

theorem Hub.vexcLow_runs {h : Hub} {mv : Nat} (low : mv < 10500) (fresh : h.pwr.vexcLow = false) (on : h.boot.tr.isSome = true) :
    ∃ g : Hub, h.vexcLow mv = g ∧ g.pwr = { h.pwr with vexcLow := true } ∧
      g.chans.map Chan.drive = (h.chans.mapIdx fun _ x => x.driveSet false h.clk.cycles h.clk.elapsed).map Chan.drive ∧
      (h.hk.dropped = 0 → g.hk.rseq = h.hk.rseq + 1) := by
  have goes : ¬(10500 ≤ mv ∨ h.pwr.vexcLow = true ∨ h.boot.tr.isNone = true) := by
    cases tr : h.boot.tr <;> simp_all
  unfold Hub.vexcLow
  rw [if_neg goes]
  extract_lets g1
  have pwr : g1.pwr = h.pwr := rfl
  have hk : g1.hk = h.hk := rfl
  have drives : g1.chans = h.chans.mapIdx fun _ x => x.driveSet false h.clk.cycles h.clk.elapsed := rfl
  clear_value g1
  refine ⟨_, rfl, (Hub.notice_pwr ..).trans ?_, (Hub.notice_view Chan.drive_blind ..).trans (congrArg (List.map Chan.drive) drives),
    fun kept => Hub.notice_rseq_of (g := Hub.setPwr _ _) (h := h) hk kept ..⟩
  exact congrArg (fun p : Pwr => { p with vexcLow := true }) pwr

/-- The channel that VEXC_RESTORE leaves of one: its drive ramps back but where EXC_OL ramped it off. -/
def Chan.driveBack (cycles elapsed : Nat) (x : Chan) : Chan := if x.retired = some 0x0103 then x else x.driveSet true cycles elapsed

theorem Hub.vexcRestore_runs {h : Hub} {mv : Nat} (back : 10800 ≤ mv) (low : h.pwr.vexcLow = true) :
    ∃ g : Hub, h.vexcRestore mv = g ∧ g.pwr = { h.pwr with vexcLow := false } ∧
      g.chans.map Chan.drive = (h.chans.mapIdx fun _ => Chan.driveBack h.clk.cycles h.clk.elapsed).map Chan.drive ∧
      (h.hk.dropped = 0 → g.hk.rseq = h.hk.rseq + 1) := by
  unfold Hub.vexcRestore
  rw [if_neg (by simp [low, back])]
  extract_lets g1 g2
  have hk : g2.hk = h.hk := forAll_keeps Hub.hk _ (fun c g => g.resumeChan_hk c) _ _
  have pwr : g2.pwr = h.pwr := forAll_keeps Hub.pwr _ (fun c g => g.resumeChan_pwr c) _ _
  have drives : g2.chans.map Chan.drive = g1.chans.map Chan.drive :=
    forAll_keeps (fun g : Hub => g.chans.map Chan.drive) _ (fun c g => g.resumeChan_drive c) _ _
  clear_value g2
  refine ⟨_, rfl, (Hub.notice_pwr ..).trans ?_, (Hub.notice_view Chan.drive_blind ..).trans drives,
    fun kept => Hub.notice_rseq_of (g := Hub.setPwr _ _) (h := h) hk kept ..⟩
  exact congrArg (fun p : Pwr => { p with vexcLow := false }) pwr

/-! ## Shutdown and Keep (R448, R452) -/

/-- DEPART goes first of what waits at P00 (R348). -/
theorem Hub.holdUpStart_departs {h : Hub} (fresh : h.pwr.holdUp = none) (on : h.boot.tr.isSome = true ∨ h.boot.bays ≠ [])
    (up : (h.prt 0).st = .up) (cause : Nat) :
    ((h.holdUpStart cause).prt 0).link.ctl = ⟨0xCC, h.departBits cause⟩ :: (h.prt 0).link.ctl := by
  have runs : ¬(h.pwr.holdUp.isSome = true ∨ (h.boot.tr.isNone = true ∧ h.boot.bays.isEmpty = true)) := by
    cases tr : h.boot.tr <;> simp_all
  have there : h.ports[0]? = some (h.prt 0) := by
    unfold Hub.prt at up ⊢
    cases found : h.ports[0]? with
    | none => rw [List.getD_eq_getElem?_getD, found] at up; cases up
    | some q => rw [List.getD_eq_getElem?_getD, found]; rfl
  unfold Hub.holdUpStart
  rw [if_neg runs, if_pos up]
  exact congrArg Link.ctl (Hub.setLink_there there fun k => { k with ctl := ⟨0xCC, h.departBits cause⟩ :: k.ctl }).2

theorem Hub.holdUpStart_down {h : Hub} (fresh : h.pwr.holdUp = none) (on : h.boot.tr.isSome = true ∨ h.boot.bays ≠ [])
    (down : (h.prt 0).st ≠ .up) (cause : Nat) :
    h.holdUpStart cause = { h with pwr := { h.pwr with holdUp := some h.clk.elapsed } } := by
  have runs : ¬(h.pwr.holdUp.isSome = true ∨ (h.boot.tr.isNone = true ∧ h.boot.bays.isEmpty = true)) := by
    cases tr : h.boot.tr <;> simp_all
  unfold Hub.holdUpStart
  rw [if_neg runs, if_neg down]
  rfl

theorem Hub.holdUpStart_stays {h : Hub} (stays : h.pwr.holdUp.isSome = true ∨ ¬(h.boot.tr.isSome = true ∨ h.boot.bays ≠ []))
    (cause : Nat) : h.holdUpStart cause = h := by
  refine if_pos (stays.imp_right fun off => ?_)
  cases tr : h.boot.tr <;> simp_all

/-- What the rails' turning off leaves, as the statements say it. -/
structure RailsOff (h g : Hub) : Prop where
  bays : g.boot.bays = []
  level : g.boot.level = .off
  closed : g.flt.closed = true
  rails : ∀ x ∈ g.dies, x.rails = false
  sealSt : g.fseal.st = h.fseal.st
  key : g.fseal.key = h.fseal.key
  mem : g.tag.mem = h.tag.mem
  flash : g.flash = { h.flash with staged := none }
  elapsed : g.clk.elapsed = h.clk.elapsed
  ident : g.ident = h.ident
  thermal : g.pwr.thermalOff = h.pwr.thermalOff
  stays : g.pwr.stays = h.pwr.stays
  holdUp : g.pwr.holdUp = none
  keepAt : g.pwr.keepAt = none

theorem Hub.railsOff_runs (h : Hub) : RailsOff h h.railsOff := by
  obtain ⟨t, eq⟩ := h.railsOff_eq
  rw [eq]
  exact ⟨rfl, rfl, rfl, unrailed _, rfl, rfl, rfl, rfl, rfl, rfl, rfl, rfl, rfl, rfl⟩

theorem Hub.keepEntry_waits {h : Hub} {u : Nat} (entry : h.pwr.keepAt = some u)
    (waits : h.clk.elapsed < u + 10000000 ∨ h.mgmt.owes [0x0C01] = true) : h.keepEntry = h := by
  unfold Hub.keepEntry
  rw [entry]
  exact if_pos waits

theorem Hub.keepEntry_runs {h : Hub} {u : Nat} (entry : h.pwr.keepAt = some u) (due : u + 10000000 ≤ h.clk.elapsed)
    (answered : h.mgmt.owes [0x0C01] = false) : h.keepEntry = h.railsOff.setPwr fun p => { p with st := .keep } := by
  unfold Hub.keepEntry
  rw [entry]
  exact if_neg (by simp [answered, due])

theorem Hub.holdUpEnd_waits {h : Hub} {u : Nat} (down : h.pwr.holdUp = some u) (waits : h.clk.elapsed < u + 200000) : h.holdUpEnd = h := by
  unfold Hub.holdUpEnd
  rw [down]
  exact if_pos waits

theorem Hub.holdUpEnd_runs {h : Hub} {u : Nat} (down : h.pwr.holdUp = some u) (due : u + 200000 ≤ h.clk.elapsed) :
    h.holdUpEnd = h.railsOff := by
  unfold Hub.holdUpEnd
  rw [down]
  exact if_neg (by omega)

/-! ## SHED_EVALUATION (R458, R460) -/

section
variable {h : Hub} (runs : h.boot.running = true)
include runs

theorem Hub.shedEvaluation_hot (hot : 1300 ≤ h.pwr.tjMax) : h.shedEvaluation = (h.setPwr fun p =>
    { p with thermalOff := some (p.thermalOff.getD p.tjMax), stays := true }).holdUpStart 1 := by
  unfold Hub.shedEvaluation
  rw [if_neg (by simp [runs]), if_pos hot]

theorem Hub.shedEvaluation_rises (cool : h.pwr.tjMax < 1300) (warm : 1150 ≤ h.pwr.tjMax) (level : h.pwr.shed < 5)
    (due : h.pwr.shedAt + 1000000000 ≤ h.clk.elapsed) : h.shedEvaluation = h.setShed (h.pwr.shed + 1) := by
  unfold Hub.shedEvaluation
  rw [if_neg (by simp [runs]), if_neg (by omega), if_pos ⟨warm, level, due⟩]

theorem Hub.shedEvaluation_falls (cold : h.pwr.tjMax ≤ 1100) (level : 0 < h.pwr.shed)
    (due : h.pwr.shedAt + 10000000000 ≤ h.clk.elapsed) : h.shedEvaluation = h.setShed (h.pwr.shed - 1) := by
  unfold Hub.shedEvaluation
  rw [if_neg (by simp [runs]), if_neg (by omega), if_neg (by omega), if_pos ⟨cold, level, due⟩]

theorem Hub.shedEvaluation_stays (cool : h.pwr.tjMax < 1300)
    (noRise : 1150 ≤ h.pwr.tjMax → 5 ≤ h.pwr.shed ∨ h.clk.elapsed < h.pwr.shedAt + 1000000000)
    (noFall : h.pwr.tjMax ≤ 1100 → h.pwr.shed = 0 ∨ h.clk.elapsed < h.pwr.shedAt + 10000000000) : h.shedEvaluation = h := by
  unfold Hub.shedEvaluation
  rw [if_neg (by simp [runs]), if_neg (by omega), if_neg (by omega), if_neg (by omega)]
end

end Sys2Proof.Machine
open Sys2Proof Sys2Proof.Machine

/-- Settles O44, clause by clause from what each command of the power unit does. Two clauses are the model's own: that
TELEMETRY_REFRESH may wait while class 3 sheds is log entry 168 (DESIGN CHOICE), and that a later PWR_STATE_SET takes back the entry
of Keep is log entry 171 (DEDUCED). -/
theorem powerAndShedding : Obligations.PowerAndShedding := by
  unfold Obligations.PowerAndShedding
  refine ⟨fun s n d quads => ?_, fun s mv => ?_, fun s mv rs loads => ?_⟩
  · intro now lacks inUse changes
    refine ⟨fun keep => ?_, fun runs => ⟨fun bad => ?_, ?_, ?_, ?_⟩, fun noEntry => ?_, fun u entry waits => ?_, fun u entry due answered => ?_,
      fun bad => ?_, fun has idle least named down => ?_, fun shaped has idle up => ?_, rfl, ⟨_, rfl, s.hub.telemBytes_layout⟩⟩
    · exact next_same (if_pos keep)
    · refine next_congr ((if_neg (by simp [runs])).trans ?_)
      obtain rfl | high := bad
      · rfl
      · obtain ⟨m, rfl⟩ := Nat.exists_eq_add_of_le high
        rw [Nat.add_comm]
        rfl
    · exact next_congr (if_neg (by simp [runs]))
    · exact next_congr (if_neg (by simp [runs]))
    · exact next_congr (if_neg (by simp [runs]))
    · refine next_same ?_
      unfold Hub.keepEntry
      rw [noEntry]
    · exact next_same (Hub.keepEntry_waits entry waits)
    · have off := s.hub.railsOff_runs
      refine ⟨⟨_, s.pending⟩, next_congr (Hub.keepEntry_runs entry due answered), ?_, off.closed, off.bays, off.level, off.rails, off.sealSt,
        off.key, off.mem, off.flash, off.elapsed, off.ident⟩
      exact congrArg Option.isNone off.keepAt
    · exact next_congr (Hub.pwrGate_refuses bad)
    · exact next_congr (Hub.pwrGate_down has idle least named down)
    · obtain ⟨g, run, ok, left⟩ := Hub.pwrGate_gates has idle shaped up
      exact ⟨⟨g, s.pending⟩, next_congr run, ok, left⟩
  · refine ⟨fun stays => ?_, fun stays => ?_, fun low fresh on => ?_, fun back low => ?_⟩
    · refine next_same (if_pos (stays.imp_right fun c => c.imp_right ?_))
      rintro off
      rw [off]
      rfl
    · exact next_same (if_pos (by simpa using stays))
    · obtain ⟨g, run, pwr, drives, record⟩ := Hub.vexcLow_runs low fresh on
      refine ⟨⟨g, s.pending⟩, next_congr run, pwr, ?_, fun x mem => ?_, record⟩
      · simpa using congrArg List.length drives
      · obtain ⟨c, lt, rfl⟩ := List.getElem_of_mem mem
        obtain ⟨y, found, same⟩ := getElem?_of_map drives.symm (List.getElem?_eq_getElem lt)
        rw [List.getElem?_mapIdx, Option.map_eq_some_iff] at found
        obtain ⟨z, -, rfl⟩ := found
        simp only [Chan.drive, Prod.mk.injEq] at same
        obtain ⟨-, -, -, -, off, zero, at'⟩ := same
        exact ⟨off.symm, zero.symm, at'.symm⟩
    · obtain ⟨g, run, pwr, drives, record⟩ := Hub.vexcRestore_runs back low
      refine ⟨⟨g, s.pending⟩, next_congr run, pwr, record, fun c x y there after => ?_⟩
      obtain ⟨z, found, same⟩ := getElem?_of_map drives.symm after
      rw [List.getElem?_mapIdx, there] at found
      obtain rfl := Option.some.inj found
      simp only [Chan.drive, Prod.mk.injEq] at same
      obtain ⟨writes, held, -, -, off, to', -⟩ := same
      rw [← writes, ← held, ← off, ← to']
      unfold Chan.driveBack
      refine ⟨?_, ?_, fun drives => ?_, fun retired => ?_⟩
      · split <;> rfl
      · split <;> rfl
      · rw [if_neg drives]
        simp [Chan.driveSet, Desc.rampGoal, Nat.mul_comm]
      · rw [if_pos retired]
        exact ⟨rfl, rfl⟩
  · intro p now falls on
    refine ⟨fun idle => ⟨?_, ?_, ?_⟩, fun manages => ⟨?_, fun waits => ?_, fun goes => ?_⟩, fun off => ?_, fun runs => ⟨fun hot => ?_,
      fun warm cool level due => ?_, fun warm cool waits => ?_, fun cold level due => ?_, fun cold waits => ?_, fun over' below => ?_⟩,
      fun keep => ?_, fun awake stays => ?_, fun awake fresh isOn down => ?_, fun awake fresh isOn up => ?_, fun no => ?_,
      fun u down waits => ?_, fun u down due => ?_⟩
    · exact next_same (if_neg (by simp [idle]))
    · exact next_same (if_neg (by simp [idle]))
    · exact next_same (if_pos (by simp [idle]))
    · intro i mem
      simp only [List.mem_cons, List.not_mem_nil, or_false] at mem
      obtain rfl | rfl := mem
      · exact ⟨⟨_, s.pending⟩, next_congr (if_pos manages), Hub.record_tm .., Hub.record_pwr .., fun kept => Hub.record_rseq kept ..⟩
      · exact ⟨⟨_, s.pending⟩, next_congr (if_pos manages), Hub.record_tm .., Hub.record_pwr .., fun kept => Hub.record_rseq kept ..⟩
    · exact next_same (if_pos (Or.inr waits))
    · obtain ⟨g, run, vkeep, refreshed, tm, dies⟩ := Hub.telemetryRefresh_runs manages goes mv rs
      have after (d : Nat) (x : Die) (there : s.hub.dies[d]? = some x) :
          ∃ y, g.dies[d]? = some y ∧ y.core = (x.refreshed rs[d]?).core :=
        getElem?_of_map dies (by rw [List.getElem?_mapIdx, there]; rfl)
      refine ⟨⟨g, s.pending⟩, next_congr run, vkeep, refreshed, tm, fun d x r there reads => ?_, fun d x there none' => ?_⟩
      · obtain ⟨y, found, core⟩ := after d x there
        rw [reads] at core
        have points : y.audit.points = List.replicate 16 (0, 0) := congrArg (fun x : Die => x.audit.points) core
        have reading : y.reading = x.audit.telemetry x.reading r := congrArg Die.reading core
        refine ⟨y, found, fun q mem => ?_, reading, fun plain => reading.trans (if_pos ?_)⟩
        · rw [points] at mem
          exact List.eq_of_mem_replicate mem
        · simpa using plain
      · obtain ⟨y, found, core⟩ := after d x there
        rw [none'] at core
        exact ⟨y, found, (congrArg Die.reading core :)⟩
    · exact next_same (if_pos (by simp [off]))
    · exact ⟨⟨_, s.pending⟩, next_congr (Hub.shedEvaluation_hot runs hot), Hub.holdUpStart_pwr ..⟩
    · refine ⟨⟨_, s.pending⟩, next_congr (Hub.shedEvaluation_rises runs cool warm level due), Hub.setShed_pwr ..,
        Hub.setShed_tm .., fun four => ?_⟩
      have five : p.shed + 1 = 5 := by omega
      rw [five]
      exact Hub.setShed_skim s.hub four
    · exact next_same (Hub.shedEvaluation_stays runs cool (fun _ => waits) fun cold => absurd (warm.trans cold) (by decide))
    · exact ⟨⟨_, s.pending⟩, next_congr (Hub.shedEvaluation_falls runs cold level due), Hub.setShed_pwr .., Hub.setShed_tm ..⟩
    · exact next_same (Hub.shedEvaluation_stays runs (lt_of_le_of_lt cold (by decide)) (fun warm => absurd (warm.trans cold) (by decide))
        fun _ => waits)
    · exact next_same (Hub.shedEvaluation_stays runs (below.trans (by decide)) (fun warm => absurd below (not_lt.2 warm))
        fun cold => absurd over' (not_lt.2 cold))
    · exact next_congr (if_pos keep)
    · exact next_congr ((if_neg (ne_true_of_eq_false awake)).trans (Hub.holdUpStart_stays (h := falls) stays 0))
    · exact next_congr ((if_neg (ne_true_of_eq_false awake)).trans (Hub.holdUpStart_down (h := falls) fresh isOn down 0))
    · refine ⟨⟨_, s.pending⟩, next_congr (if_neg (ne_true_of_eq_false awake)), ?_, Hub.holdUpStart_departs (h := falls) fresh isOn up 0⟩
      refine (Hub.holdUpStart_pwr falls 0).trans ?_
      rw [if_pos ⟨fresh, isOn⟩]
    · refine next_same ?_
      unfold Hub.holdUpEnd
      rw [no]
    · exact next_same (Hub.holdUpEnd_waits down waits)
    · have off := s.hub.railsOff_runs
      exact ⟨⟨_, s.pending⟩, next_congr (Hub.holdUpEnd_runs down due), off.bays, off.level, off.closed, off.rails, off.thermal, off.holdUp,
        off.stays, off.mem⟩
end

section
/-! PROOFS. What the loss and the return of a die, records and a new lead leave: the flows that run, the units retired, the lead, the dies'
duties. -/

namespace Sys2Proof.Machine

/-! ## What the loss of a die leaves: the flows that run, the units retired, the lead -/

/-- A flow's key and whether it has started. -/
def Flow.life (f : Flow) := (f.key, f.started)

theorem Flow.life_eq (f : Flow) : f.life = (f.key, f.started) := rfl

/-- Those of a hub's flows. -/
def Hub.flowLives (h : Hub) := h.flows.map Flow.life

theorem Hub.flowLives_of_cores {h g : Hub} (same : g.flowCores = h.flowCores) : g.flowLives = h.flowLives := by
  have views (k : Hub) : k.flowLives = k.flowCores.map Flow.life := by
    rw [Hub.flowLives, Hub.flowCores, List.map_map]
    rfl
  rw [views, views, same]

theorem forAll_flowLives {α : Type} (f : α → Hub → Hub) (keeps : ∀ a h, (f a h).flowLives = h.flowLives) (l : List α) (h : Hub) :
    (forAll l f h).flowLives = h.flowLives := forAll_keeps Hub.flowLives f keeps l h
theorem iter_flowLives (f : Hub → Hub) (keeps : ∀ h, (f h).flowLives = h.flowLives) (n : Nat) (h : Hub) :
    (iter f n h).flowLives = h.flowLives := iter_keeps Hub.flowLives f keeps n h

theorem Hub.map_life_flows (h : Hub) : h.flows.map Flow.life = h.flowLives := rfl

theorem Hub.flowLives_mk {clk : Clk} {tm : Tm} {chans : List Chan} {octs : List Octet} {reps : List Rep} {dies : List Die}
    {trg : Trg} {caps : List (Option Capture)} {nextTrain : Nat} {saved : List SavedChurn} {jobs : List ChurnJob} {nextHandle nextJob : Nat}
    {flows : List Flow} {strm : Strm} {hk : Hk} {sep : Sep} {ports : List Port} {enm : Enum} {mgmt : Mgmt} {dbw : Dbw} {fseal : Seal}
    {flt : Flt} {cal : Cal} {pwr : Pwr} {pmbus : Pmbus} {boot : Boot} {flash : Flash} {tag : Tag} {tap : Tap} {fresh : Nat} {ident : Ident}
      :
    (Hub.mk ident clk tm chans octs reps dies trg caps nextTrain saved jobs nextHandle nextJob flows strm hk sep ports enm mgmt dbw
      fseal flt cal pwr pmbus boot flash tag tap fresh).flowLives = flows.map Flow.life := rfl

theorem Hub.setFlow_flowLives (h : Hub) (k : FlowKey) {f : Flow → Flow} (keeps : ∀ x, (f x).life = x.life) :
    (h.setFlow k f).flowLives = h.flowLives := by
  rw [Hub.flowLives, Hub.setFlow, List.map_map]
  refine List.map_congr_left fun x _ => ?_
  simp only [Function.comp_apply]
  split
  · exact keeps x
  · rfl

/-- The units that are retired. -/
def Hub.retirees (h : Hub) := h.flt.retired

theorem forAll_retirees {α : Type} (f : α → Hub → Hub) (keeps : ∀ a h, (f a h).retirees = h.retirees) (l : List α) (h : Hub) :
    (forAll l f h).retirees = h.retirees := forAll_keeps Hub.retirees f keeps l h
theorem iter_retirees (f : Hub → Hub) (keeps : ∀ h, (f h).retirees = h.retirees) (n : Nat) (h : Hub) :
    (iter f n h).retirees = h.retirees := iter_keeps Hub.retirees f keeps n h
theorem Hub.retired_flt (h : Hub) : h.flt.retired = h.retirees := rfl
theorem Hub.retirees_mk {clk : Clk} {tm : Tm} {chans : List Chan} {octs : List Octet} {reps : List Rep} {dies : List Die}
    {trg : Trg} {caps : List (Option Capture)} {nextTrain : Nat} {saved : List SavedChurn} {jobs : List ChurnJob} {nextHandle nextJob : Nat}
    {flows : List Flow} {strm : Strm} {hk : Hk} {sep : Sep} {ports : List Port} {enm : Enum} {mgmt : Mgmt} {dbw : Dbw} {fseal : Seal}
    {flt : Flt} {cal : Cal} {pwr : Pwr} {pmbus : Pmbus} {boot : Boot} {flash : Flash} {tag : Tag} {tap : Tap} {fresh : Nat} {ident : Ident}
      :
    (Hub.mk ident clk tm chans octs reps dies trg caps nextTrain saved jobs nextHandle nextJob flows strm hk sep ports enm mgmt dbw
      fseal flt cal pwr pmbus boot flash tag tap fresh).retirees = flt.retired := rfl

/-- The die that leads. -/
def Hub.leader (h : Hub) := h.boot.lead

theorem forAll_leader {α : Type} (f : α → Hub → Hub) (keeps : ∀ a h, (f a h).leader = h.leader) (l : List α) (h : Hub) :
    (forAll l f h).leader = h.leader := forAll_keeps Hub.leader f keeps l h
theorem iter_leader (f : Hub → Hub) (keeps : ∀ h, (f h).leader = h.leader) (n : Nat) (h : Hub) :
    (iter f n h).leader = h.leader := iter_keeps Hub.leader f keeps n h
theorem Hub.lead_boot (h : Hub) : h.boot.lead = h.leader := rfl
theorem Hub.leader_mk {clk : Clk} {tm : Tm} {chans : List Chan} {octs : List Octet} {reps : List Rep} {dies : List Die}
    {trg : Trg} {caps : List (Option Capture)} {nextTrain : Nat} {saved : List SavedChurn} {jobs : List ChurnJob} {nextHandle nextJob : Nat}
    {flows : List Flow} {strm : Strm} {hk : Hk} {sep : Sep} {ports : List Port} {enm : Enum} {mgmt : Mgmt} {dbw : Dbw} {fseal : Seal}
    {flt : Flt} {cal : Cal} {pwr : Pwr} {pmbus : Pmbus} {boot : Boot} {flash : Flash} {tag : Tag} {tap : Tap} {fresh : Nat} {ident : Ident}
      :
    (Hub.mk ident clk tm chans octs reps dies trg caps nextTrain saved jobs nextHandle nextJob flows strm hk sep ports enm mgmt dbw
      fseal flt cal pwr pmbus boot flash tag tap fresh).leader = boot.lead := rfl

theorem Flow.again_life (f : Flow) (p : Packet) : (f.again p).life = f.life := ite_keeps Flow.life rfl rfl

theorem Flow.moveTo_life (f : Flow) (d : Dest) : (f.moveTo d).life = f.life := ite_keeps Flow.life rfl rfl

@[simp] theorem Hub.rawReassign_flowLives (h : Hub) : h.rawReassign.flowLives = h.flowLives := by
  have moves (g : Hub) (k : FlowKey) (d : Dest) : (g.setFlow k fun f => f.moveTo d).flowLives = g.flowLives :=
    Hub.setFlow_flowLives g k fun f => f.moveTo_life d
  refine forAll_flowLives _ (fun k g => ?_) _ _
  dsimp only
  split
  · exact moves g k _
  · refine ite_keeps Hub.flowLives rfl ?_
    exact (Hub.flowLives_of_cores (Hub.notice_flowCores ..)).trans (moves g k _)

@[simp] theorem Hub.reSweep_flowLives (h : Hub) (d : Nat) : (h.reSweep d).flowLives = h.flowLives := by
  refine map_map_of_keeps (fun f => ?_) _
  dsimp only
  split
  · split <;> rfl
  · rfl

@[simp] theorem Hub.unsend_flowLives (h : Hub) (p : Nat) : (h.unsend p).flowLives = h.flowLives := by
  unfold Hub.unsend
  extract_lets k out back left
  have backs (f : Flow) : (back f).life = f.life := by
    unfold back
    split
    · exact ite_keeps Flow.life rfl (ite_keeps Flow.life (Flow.again_life ..) rfl)
    · rfl
  have lefts (f : Flow) : (left f).life = f.life := by
    unfold left
    extract_lets gone g
    refine ite_keeps Flow.life rfl ?_
    have all (l : List Packet) (g : Flow) :
        (l.foldl (fun g k => (if g.held.any (fun x => x.seq == k.seq) then g else { g with held := g.held ++ [k] }).again k) g).life =
          g.life := by
      induction l generalizing g with
      | nil => rfl
      | cons k l ih => exact (ih _).trans ((Flow.again_life ..).trans (ite_keeps Flow.life rfl rfl))
    exact all gone g
  exact map_map_of_keeps (fun f => (lefts _).trans (backs f)) _

@[simp] theorem Hub.watermarks_flowLives (h : Hub) : h.watermarks.flowLives = h.flowLives :=
  Hub.flowLives_of_cores (Hub.watermarks_flowCores ..)
@[simp] theorem Hub.setPort_flowLives (h : Hub) (p : Nat) (f : Port → Port) : (h.setPort p f).flowLives = h.flowLives :=
  congrArg (List.map Flow.life) (Hub.setPort_flows ..)
@[simp] theorem Hub.setAlign_flowLives (h : Hub) (a : Align) : (h.setAlign a).flowLives = h.flowLives :=
  congrArg (List.map Flow.life) (Hub.setAlign_flows ..)
@[simp] theorem Hub.setTm_flowLives (h : Hub) (f : Tm → Tm) : (h.setTm f).flowLives = h.flowLives :=
  congrArg (List.map Flow.life) (Hub.setTm_flows ..)
@[simp] theorem Hub.laneAway_flowLives (h : Hub) (a : Align) : (h.laneAway a).flowLives = h.flowLives := by
  simp only [Hub.laneAway, ↓Hub.setAlign_flowLives, ↓Hub.setTm_flowLives, ↓apply_ite Hub.flowLives, ite_self]
@[simp] theorem Hub.linkGone_flowLives (h : Hub) : h.linkGone.flowLives = h.flowLives := by
  simp only [Hub.linkGone, ↓Hub.laneAway_flowLives, ↓apply_ite Hub.flowLives, ite_self]
@[simp] theorem Hub.notice_flowLives (h : Hub) (unit : Word) (code : Nat) (arg0 arg1 : Word) :
    (h.notice unit code arg0 arg1).flowLives = h.flowLives :=
  Hub.flowLives_of_cores (Hub.notice_flowCores ..)
@[simp] theorem Hub.discardNote_flowLives (h : Hub) (p n : Nat) : (h.discardNote p n).flowLives = h.flowLives := by
  simp only [Hub.discardNote, ↓Hub.notice_flowLives, ↓Hub.flowLives_mk, ↓apply_ite Hub.flowLives, ite_self, ↓Hub.map_life_flows]
@[simp] theorem Hub.portLost_flowLives (h : Hub) (p : Nat) (st : PState) : (h.portLost p st).flowLives = h.flowLives := by
  simp only [Hub.portLost, ↓Hub.discardNote_flowLives, ↓Hub.linkGone_flowLives, ↓Hub.setPort_flowLives, ↓Hub.unsend_flowLives,
    ↓Hub.flowLives_mk, ↓apply_ite Hub.flowLives, ite_self, ↓Hub.map_life_flows]
@[simp] theorem Hub.portDown_flowLives (h : Hub) (p : Nat) (st : PState) : (h.portDown p st).flowLives = h.flowLives := by
  simp only [Hub.portDown, ↓Hub.portLost_flowLives, ↓Hub.rawReassign_flowLives, ↓Hub.watermarks_flowLives, ↓apply_ite Hub.flowLives,
    ite_self]
@[simp] theorem Hub.clockLoss_flowLives (h : Hub) : h.clockLoss.flowLives = h.flowLives := by
  simp only [Hub.clockLoss, ↓Hub.laneAway_flowLives, ↓Hub.setPort_flowLives, ↓Hub.setTm_flowLives]
@[simp] theorem Hub.closeCoupler_flowLives (h : Hub) (byHost : Bool) : (h.closeCoupler byHost).flowLives = h.flowLives := by
  simp only [Hub.closeCoupler, ↓Hub.clockLoss_flowLives, ↓Hub.portDown_flowLives, ↓Hub.flowLives_mk, ↓Hub.map_life_flows]
@[simp] theorem Hub.setBase_flowLives (h : Hub) (b : Base) : (h.setBase b).flowLives = h.flowLives :=
  congrArg (List.map Flow.life) (Hub.setBase_flows ..)
@[simp] theorem Hub.setPps_flowLives (h : Hub) (i : Nat) (f : PpsIn → PpsIn) : (h.setPps i f).flowLives = h.flowLives := by
  unfold Hub.setPps
  split <;> simp only [↓Hub.setTm_flowLives]
@[simp] theorem Hub.chooseActive_flowLives (h : Hub) : h.chooseActive.flowLives = h.flowLives := by
  unfold Hub.chooseActive
  dsimp only
  repeat' split
  all_goals simp only [↓Hub.notice_flowLives, ↓Hub.setTm_flowLives]
@[simp] theorem Hub.ppsDrop_flowLives (h : Hub) (i : Nat) : (h.ppsDrop i).flowLives = h.flowLives := by
  unfold Hub.ppsDrop
  split <;> simp only [↓Hub.chooseActive_flowLives, ↓Hub.notice_flowLives, ↓Hub.setBase_flowLives, ↓Hub.setPps_flowLives,
    ↓Hub.setTm_flowLives, ↓apply_ite Hub.flowLives,
    ite_self]
@[simp] theorem Hub.setLevel_flowLives (h : Hub) (l : Level) : (h.setLevel l).flowLives = h.flowLives :=
  congrArg (List.map Flow.life) (Hub.setLevel_flows ..)
@[simp] theorem Hub.reLevel_flowLives (h : Hub) : h.reLevel.flowLives = h.flowLives := by
  simp only [Hub.reLevel, ↓Hub.setLevel_flowLives, ↓apply_ite Hub.flowLives, ite_self]
@[simp] theorem Hub.passEnds_flowLives (h : Hub) : h.passEnds.flowLives = h.flowLives := by
  simp only [Hub.passEnds, ↓Hub.flowLives_mk, ↓apply_ite Hub.flowLives, ite_self, ↓Hub.map_life_flows]
@[simp] theorem Hub.event_flowLives (h : Hub) (unit : Word) (code cls count : Nat) (arg0 arg1 : Word) :
    (h.event unit code cls count arg0 arg1).flowLives = h.flowLives :=
  Hub.flowLives_of_cores (Hub.event_flowCores ..)
@[simp] theorem Hub.setDie_flowLives (h : Hub) (d : Nat) (f : Die → Die) : (h.setDie d f).flowLives = h.flowLives :=
  Hub.flowLives_of_cores (Hub.setDie_flowCores ..)
@[simp] theorem Hub.notSkewed_flowLives (h : Hub) (d : Nat) : (h.notSkewed d).flowLives = h.flowLives := by
  simp only [Hub.notSkewed, ↓Hub.setDie_flowLives, ↓Hub.setTm_flowLives]
@[simp] theorem Hub.order_flowLives (h : Hub) (p w mcount : Nat) : (h.order p w mcount).flowLives = h.flowLives := by
  simp only [Hub.order, ↓Hub.setPort_flowLives, ↓apply_ite Hub.flowLives, ite_self]
@[simp] theorem Hub.setCores_flowLives (h : Hub) (d : Nat) (f : Cores → Cores) : (h.setCores d f).flowLives = h.flowLives := by
  simp only [Hub.setCores, ↓Hub.setDie_flowLives]
@[simp] theorem Hub.saveCkpt_flowLives (h : Hub) (d : Nat) : (h.saveCkpt d).flowLives = h.flowLives := by
  simp only [Hub.saveCkpt, ↓Hub.setCores_flowLives]

@[simp] theorem Hub.resumeChan_retirees (h : Hub) (c : Nat) : (h.resumeChan c).retirees = h.retirees := ite_keeps Hub.retirees rfl rfl

@[simp] theorem Hub.setLevel_leader (h : Hub) (l : Level) : (h.setLevel l).leader = h.leader :=
  ite_keeps Hub.leader rfl rfl

@[simp] theorem Hub.setDie_retirees (h : Hub) (d : Nat) (f : Die → Die) : (h.setDie d f).retirees = h.retirees :=
  congrArg Flt.retired (Hub.setDie_flt ..)
@[simp] theorem Hub.setCores_retirees (h : Hub) (d : Nat) (f : Cores → Cores) : (h.setCores d f).retirees = h.retirees := by
  simp only [Hub.setCores, ↓Hub.setDie_retirees]
@[simp] theorem Hub.raise_retirees (h : Hub) (bit : Nat) : (h.raise bit).retirees = h.retirees :=
  congrArg Flt.retired (Hub.raise_flt ..)
@[simp] theorem Hub.ok_retirees (h : Hub) (p : Bytes) : (h.ok p).retirees = h.retirees :=
  congrArg Flt.retired (Hub.ok_flt ..)
@[simp] theorem Hub.eventAt_retirees (h : Hub) (t : Nat) (unit : Word) (code cls count : Nat) (arg0 arg1 : Word) :
    (h.eventAt t unit code cls count arg0 arg1).retirees = h.retirees :=
  congrArg Flt.retired (Hub.eventAt_flt ..)
@[simp] theorem Hub.mapCh_retirees (h : Hub) (g : Nat → Chan → Chan) : (h.mapCh g).retirees = h.retirees :=
  congrArg Flt.retired (Hub.mapCh_flt ..)
@[simp] theorem Hub.syncDrops_retirees (h : Hub) (id : Word) : (h.syncDrops id).retirees = h.retirees := by
  simp only [Hub.syncDrops, ↓Hub.mapCh_retirees]
@[simp] theorem Hub.mapDie_retirees (h : Hub) (f : Nat → Die → Die) : (h.mapDie f).retirees = h.retirees := by
  simp only [Hub.mapDie, ↓Hub.retirees_mk, ↓Hub.retired_flt]
@[simp] theorem Hub.switchDrops_retirees (h : Hub) (id : Word) : (h.switchDrops id).retirees = h.retirees := by
  simp only [Hub.switchDrops, ↓Hub.mapCh_retirees, ↓Hub.mapDie_retirees]
@[simp] theorem Hub.dropAction_retirees (h : Hub) (id : Word) : (h.dropAction id).retirees = h.retirees := by
  simp only [Hub.dropAction, ↓Hub.switchDrops_retirees, ↓Hub.syncDrops_retirees, ↓Hub.retirees_mk, ↓Hub.retired_flt]
@[simp] theorem Hub.schedDone_retirees (h : Hub) (t : Nat) (id : Word) (status lateUs : Nat) :
    (h.schedDone t id status lateUs).retirees = h.retirees := by
  simp only [Hub.schedDone, ↓Hub.dropAction_retirees, ↓Hub.eventAt_retirees]
@[simp] theorem Hub.planeDone_retirees (h : Hub) (id : Word) (status : Nat) : (h.planeDone id status).retirees = h.retirees := by
  unfold Hub.planeDone
  split <;> simp only [↓Hub.schedDone_retirees]
@[simp] theorem Hub.setPort_retirees (h : Hub) (p : Nat) (f : Port → Port) : (h.setPort p f).retirees = h.retirees :=
  congrArg Flt.retired (Hub.setPort_flt ..)
@[simp] theorem Hub.order_retirees (h : Hub) (p w mcount : Nat) : (h.order p w mcount).retirees = h.retirees := by
  simp only [Hub.order, ↓Hub.setPort_retirees, ↓apply_ite Hub.retirees, ite_self]
@[simp] theorem Hub.saveCkpt_retirees (h : Hub) (d : Nat) : (h.saveCkpt d).retirees = h.retirees := by
  simp only [Hub.saveCkpt, ↓Hub.setCores_retirees]
@[simp] theorem Hub.drillNext_retirees (h : Hub) : h.drillNext.retirees = h.retirees := by
  unfold Hub.drillNext
  dsimp only
  repeat' split
  all_goals simp only [↓Hub.planeDone_retirees, ↓Hub.raise_retirees, ↓Hub.saveCkpt_retirees, ↓Hub.setCores_retirees, ↓Hub.retirees_mk,
    ↓Hub.retired_flt]
@[simp] theorem Hub.drillDrop_retirees (h : Hub) (d : Nat) : (h.drillDrop d).retirees = h.retirees := by
  simp only [Hub.drillDrop, ↓Hub.drillNext_retirees, ↓Hub.setCores_retirees, ↓Hub.retirees_mk, ↓apply_ite Hub.retirees, ite_self,
    ↓Hub.retired_flt]
@[simp] theorem Hub.setAudit_retirees (h : Hub) (d : Nat) (f : Audit → Audit) : (h.setAudit d f).retirees = h.retirees := by
  simp only [Hub.setAudit, ↓Hub.setDie_retirees]
@[simp] theorem Hub.setCh_retirees (h : Hub) (c : Nat) (f : Chan → Chan) : (h.setCh c f).retirees = h.retirees :=
  congrArg Flt.retired (Hub.setCh_flt ..)
@[simp] theorem Hub.setOct_retirees (h : Hub) (o : Nat) (f : Octet → Octet) : (h.setOct o f).retirees = h.retirees :=
  congrArg Flt.retired (Hub.setOct_flt ..)
@[simp] theorem Hub.endHold_retirees (h : Hub) (o : Nat) : (h.endHold o).retirees = h.retirees := by
  simp only [Hub.endHold, ↓Hub.resumeChan_retirees, ↓Hub.setCh_retirees, ↓Hub.setOct_retirees, ↓forAll_retirees, implies_true]
@[simp] theorem Hub.abortSlots_retirees (h : Hub) (d : Nat) : (h.abortSlots d).retirees = h.retirees := by
  simp only [Hub.abortSlots, ↓Hub.endHold_retirees, ↓Hub.mapCh_retirees, ↓Hub.setAudit_retirees, ↓forAll_retirees, ↓Hub.retirees_mk,
    implies_true, ↓Hub.retired_flt]
@[simp] theorem Hub.vanish_retirees (h : Hub) (d : Nat) : (h.vanish d).retirees = h.retirees := by
  simp only [Hub.vanish, ↓Hub.retirees_mk, ↓Hub.retired_flt]
@[simp] theorem Hub.setTm_retirees (h : Hub) (f : Tm → Tm) : (h.setTm f).retirees = h.retirees :=
  congrArg Flt.retired (Hub.setTm_flt ..)
@[simp] theorem Hub.notSkewed_retirees (h : Hub) (d : Nat) : (h.notSkewed d).retirees = h.retirees := by
  simp only [Hub.notSkewed, ↓Hub.setDie_retirees, ↓Hub.setTm_retirees]
@[simp] theorem Hub.setCap_retirees (h : Hub) (n : Nat) (f : Capture → Capture) : (h.setCap n f).retirees = h.retirees :=
  congrArg Flt.retired (Hub.setCap_flt ..)
@[simp] theorem Hub.notice_retirees (h : Hub) (unit : Word) (code : Nat) (arg0 arg1 : Word) :
    (h.notice unit code arg0 arg1).retirees = h.retirees :=
  congrArg Flt.retired (Hub.notice_flt ..)
@[simp] theorem Hub.reserveDie_retirees (n : Nat) (eval : Bool) (d : Nat) (h : Hub) :
    (Hub.reserveDie n eval d h).retirees = h.retirees := by
  unfold Hub.reserveDie
  dsimp only
  repeat' split
  all_goals simp only [↓Hub.notice_retirees, ↓Hub.setCap_retirees, ↓Hub.retirees_mk, ↓Hub.retired_flt]
@[simp] theorem Hub.retryWait_retirees (h : Hub) (d : Nat) : (h.retryWait d).retirees = h.retirees := by
  refine forAll_retirees _ (fun n g => ?_) _ _
  split <;> simp only [↓apply_ite Hub.retirees, ↓Hub.reserveDie_retirees, ite_self]
@[simp] theorem Hub.disarm_retirees (h : Hub) (n : Nat) : (h.disarm n).retirees = h.retirees := by
  simp only [Hub.disarm, ↓Hub.retryWait_retirees, ↓forAll_retirees, ↓Hub.retirees_mk, implies_true, ↓Hub.retired_flt]
@[simp] theorem Hub.reserve_retirees (h : Hub) (n : Nat) : (h.reserve n).retirees = h.retirees := by
  unfold Hub.reserve
  split <;> simp only [↓Hub.reserveDie_retirees, ↓forAll_retirees, implies_true]
@[simp] theorem Hub.flowTouch_retirees (h : Hub) (d : Nat) : (h.flowTouch d).retirees = h.retirees :=
  congrArg Flt.retired (Hub.flowTouch_flt ..)
@[simp] theorem Hub.record_retirees (h : Hub) (kind : Nat) (payload : Bytes) : (h.record kind payload).retirees = h.retirees :=
  congrArg Flt.retired (Hub.record_flt ..)
@[simp] theorem Hub.setCoach_retirees (h : Hub) (d seq : Nat) (f : Coach → Coach) : (h.setCoach d seq f).retirees = h.retirees := by
  simp only [Hub.setCoach, ↓Hub.setDie_retirees]
@[simp] theorem Hub.setFlow_retirees (h : Hub) (k : FlowKey) (g : Flow → Flow) : (h.setFlow k g).retirees = h.retirees :=
  congrArg Flt.retired (Hub.setFlow_flt ..)
@[simp] theorem Hub.coachRecord_retirees (h : Hub) (k : FlowKey) (stream first : Nat) (b : Bytes) :
    (h.coachRecord k stream first b).1.retirees = h.retirees := by
  unfold Hub.coachRecord
  split
  · rfl
  · exact h.setFlow_retirees _ _
@[simp] theorem Hub.sendCoach_retirees (h : Hub) (d : Nat) (c : Coach) : (h.sendCoach d c).retirees = h.retirees := by
  unfold Hub.sendCoach
  simp only [↓Hub.setCoach_retirees, ↓Hub.coachRecord_retirees]
  split
  · simp only [↓apply_ite Hub.retirees, ↓Hub.setDie_retirees, ↓Hub.coachRecord_retirees, ite_self]
  · rfl
@[simp] theorem Hub.sendWanted_retirees (h : Hub) (d : Nat) : (h.sendWanted d).retirees = h.retirees := by
  simp only [Hub.sendWanted, ↓Hub.flowTouch_retirees, ↓Hub.sendCoach_retirees, ↓forAll_retirees, ↓apply_ite Hub.retirees, ite_self,
    implies_true]
@[simp] theorem Hub.trainDone_retirees (h : Hub) (n : Nat) : (h.trainDone n).retirees = h.retirees := by
  unfold Hub.trainDone
  repeat' split
  all_goals simp only [↓Hub.disarm_retirees, ↓Hub.notice_retirees, ↓Hub.reserve_retirees, ↓Hub.sendWanted_retirees, ↓Hub.setCap_retirees,
    ↓Hub.setDie_retirees,
    ↓forAll_retirees, implies_true]
@[simp] theorem Hub.capLoseDie_retirees (d n : Nat) (h : Hub) : (Hub.capLoseDie d n h).retirees = h.retirees := by
  unfold Hub.capLoseDie
  split <;> simp only [↓Hub.disarm_retirees, ↓Hub.setCap_retirees, ↓Hub.trainDone_retirees, ↓Hub.retirees_mk, ↓apply_ite Hub.retirees,
    ite_self, ↓Hub.retired_flt]
@[simp] theorem Hub.watermarks_retirees (h : Hub) : h.watermarks.retirees = h.retirees :=
  congrArg Flt.retired (Hub.watermarks_flt ..)
@[simp] theorem Hub.rawReassign_retirees (h : Hub) : h.rawReassign.retirees = h.retirees :=
  congrArg Flt.retired (Hub.rawReassign_flt ..)
@[simp] theorem Hub.laneAway_retirees (h : Hub) (a : Align) : (h.laneAway a).retirees = h.retirees :=
  congrArg Flt.retired (Hub.laneAway_flt ..)
@[simp] theorem Hub.linkGone_retirees (h : Hub) : h.linkGone.retirees = h.retirees := by
  simp only [Hub.linkGone, ↓Hub.laneAway_retirees, ↓apply_ite Hub.retirees, ite_self]
@[simp] theorem Hub.unsend_retirees (h : Hub) (p : Nat) : (h.unsend p).retirees = h.retirees := by
  simp only [Hub.unsend, ↓Hub.retirees_mk, ↓Hub.retired_flt]
@[simp] theorem Hub.discardNote_retirees (h : Hub) (p n : Nat) : (h.discardNote p n).retirees = h.retirees :=
  congrArg Flt.retired (Hub.discardNote_flt ..)
@[simp] theorem Hub.portLost_retirees (h : Hub) (p : Nat) (st : PState) : (h.portLost p st).retirees = h.retirees := by
  simp only [Hub.portLost, ↓Hub.discardNote_retirees, ↓Hub.linkGone_retirees, ↓Hub.setPort_retirees, ↓Hub.unsend_retirees,
    ↓Hub.retirees_mk, ↓apply_ite Hub.retirees, ite_self, ↓Hub.retired_flt]
@[simp] theorem Hub.portDown_retirees (h : Hub) (p : Nat) (st : PState) : (h.portDown p st).retirees = h.retirees := by
  simp only [Hub.portDown, ↓Hub.portLost_retirees, ↓Hub.rawReassign_retirees, ↓Hub.watermarks_retirees, ↓apply_ite Hub.retirees, ite_self]
@[simp] theorem Hub.setBase_retirees (h : Hub) (b : Base) : (h.setBase b).retirees = h.retirees :=
  congrArg Flt.retired (Hub.setBase_flt ..)
@[simp] theorem Hub.setPps_retirees (h : Hub) (i : Nat) (f : PpsIn → PpsIn) : (h.setPps i f).retirees = h.retirees := by
  unfold Hub.setPps
  split <;> simp only [↓Hub.setTm_retirees]
@[simp] theorem Hub.chooseActive_retirees (h : Hub) : h.chooseActive.retirees = h.retirees := by
  unfold Hub.chooseActive
  dsimp only
  repeat' split
  all_goals simp only [↓Hub.notice_retirees, ↓Hub.setTm_retirees]
@[simp] theorem Hub.ppsDrop_retirees (h : Hub) (i : Nat) : (h.ppsDrop i).retirees = h.retirees := by
  unfold Hub.ppsDrop
  split <;> simp only [↓Hub.chooseActive_retirees, ↓Hub.notice_retirees, ↓Hub.setBase_retirees, ↓Hub.setPps_retirees, ↓Hub.setTm_retirees,
    ↓apply_ite Hub.retirees,
    ite_self]
@[simp] theorem Hub.emitRecord_retirees (h : Hub) (k : FlowKey) (stream : Nat) (rcd : Bytes) :
    (h.emitRecord k stream rcd).retirees = h.retirees :=
  congrArg Flt.retired (Hub.emitRecord_flt ..)
@[simp] theorem Hub.startHk_retirees (h : Hub) : h.startHk.retirees = h.retirees := by
  simp only [Hub.startHk, ↓Hub.emitRecord_retirees, ↓Hub.setFlow_retirees, ↓forAll_retirees, ↓Hub.retirees_mk, implies_true,
    ↓Hub.retired_flt]
@[simp] theorem Hub.moveLead_retirees (h : Hub) : h.moveLead.retirees = h.retirees := by
  unfold Hub.moveLead
  split <;> simp only [↓Hub.notSkewed_retirees, ↓Hub.notice_retirees, ↓Hub.saveCkpt_retirees, ↓Hub.setFlow_retirees, ↓Hub.startHk_retirees,
    ↓Hub.retirees_mk, ↓apply_ite Hub.retirees, ite_self, ↓Hub.retired_flt]
@[simp] theorem Hub.reSweep_retirees (h : Hub) (d : Nat) : (h.reSweep d).retirees = h.retirees := by
  simp only [Hub.reSweep, ↓Hub.retirees_mk, ↓Hub.retired_flt]
@[simp] theorem Hub.setLevel_retirees (h : Hub) (l : Level) : (h.setLevel l).retirees = h.retirees :=
  congrArg Flt.retired (Hub.setLevel_flt ..)
@[simp] theorem Hub.reLevel_retirees (h : Hub) : h.reLevel.retirees = h.retirees := by
  simp only [Hub.reLevel, ↓Hub.setLevel_retirees, ↓apply_ite Hub.retirees, ite_self]
@[simp] theorem Hub.passEnds_retirees (h : Hub) : h.passEnds.retirees = h.retirees := by
  simp only [Hub.passEnds, ↓Hub.retirees_mk, ↓apply_ite Hub.retirees, ite_self, ↓Hub.retired_flt]
@[simp] theorem Hub.portStart_retirees (h : Hub) (p : Nat) : (h.portStart p).retirees = h.retirees :=
  congrArg Flt.retired (Hub.portStart_flt ..)
@[simp] theorem Hub.event_retirees (h : Hub) (unit : Word) (code cls count : Nat) (arg0 arg1 : Word) :
    (h.event unit code cls count arg0 arg1).retirees = h.retirees :=
  congrArg Flt.retired (Hub.event_flt ..)

@[simp] theorem Hub.clockLoss_retirees (h : Hub) : h.clockLoss.retirees = h.retirees := congrArg Flt.retired (Hub.clockLoss_flt h)

@[simp] theorem Hub.closeCoupler_retirees (h : Hub) (byHost : Bool) : (h.closeCoupler byHost).retirees = h.retirees := by
  unfold Hub.closeCoupler
  rw [Hub.clockLoss_retirees, Hub.portDown_retirees, Hub.portDown_retirees]
  rfl

@[simp] theorem Hub.reSweep_leader (h : Hub) (d : Nat) : (h.reSweep d).leader = h.leader := by
  simp only [Hub.reSweep, ↓Hub.leader_mk, ↓Hub.lead_boot]
@[simp] theorem Hub.reLevel_leader (h : Hub) : h.reLevel.leader = h.leader := by
  simp only [Hub.reLevel, ↓Hub.setLevel_leader, ↓apply_ite Hub.leader, ite_self]
@[simp] theorem Hub.passEnds_leader (h : Hub) : h.passEnds.leader = h.leader := by
  simp only [Hub.passEnds, ↓Hub.leader_mk, ↓apply_ite Hub.leader, ite_self, ↓Hub.lead_boot]
@[simp] theorem Hub.event_leader (h : Hub) (unit : Word) (code cls count : Nat) (arg0 arg1 : Word) :
    (h.event unit code cls count arg0 arg1).leader = h.leader :=
  congrArg Boot.lead (Hub.event_boot ..)
@[simp] theorem Hub.setDie_leader (h : Hub) (d : Nat) (f : Die → Die) : (h.setDie d f).leader = h.leader :=
  congrArg Boot.lead (Hub.setDie_boot ..)
@[simp] theorem Hub.setTm_leader (h : Hub) (f : Tm → Tm) : (h.setTm f).leader = h.leader :=
  congrArg Boot.lead (Hub.setTm_boot ..)
@[simp] theorem Hub.notSkewed_leader (h : Hub) (d : Nat) : (h.notSkewed d).leader = h.leader := by
  simp only [Hub.notSkewed, ↓Hub.setDie_leader, ↓Hub.setTm_leader]
@[simp] theorem Hub.setPort_leader (h : Hub) (p : Nat) (f : Port → Port) : (h.setPort p f).leader = h.leader :=
  congrArg Boot.lead (Hub.setPort_boot ..)
@[simp] theorem Hub.order_leader (h : Hub) (p w mcount : Nat) : (h.order p w mcount).leader = h.leader := by
  simp only [Hub.order, ↓Hub.setPort_leader, ↓apply_ite Hub.leader, ite_self]
@[simp] theorem Hub.setCores_leader (h : Hub) (d : Nat) (f : Cores → Cores) : (h.setCores d f).leader = h.leader := by
  simp only [Hub.setCores, ↓Hub.setDie_leader]
@[simp] theorem Hub.saveCkpt_leader (h : Hub) (d : Nat) : (h.saveCkpt d).leader = h.leader := by
  simp only [Hub.saveCkpt, ↓Hub.setCores_leader]
@[simp] theorem Hub.notice_leader (h : Hub) (unit : Word) (code : Nat) (arg0 arg1 : Word) :
    (h.notice unit code arg0 arg1).leader = h.leader :=
  congrArg Boot.lead (Hub.notice_boot ..)
@[simp] theorem Hub.setFlow_leader (h : Hub) (k : FlowKey) (g : Flow → Flow) : (h.setFlow k g).leader = h.leader :=
  congrArg Boot.lead (Hub.setFlow_boot ..)
@[simp] theorem Hub.emitRecord_leader (h : Hub) (k : FlowKey) (stream : Nat) (rcd : Bytes) :
    (h.emitRecord k stream rcd).leader = h.leader :=
  congrArg Boot.lead (Hub.emitRecord_boot ..)
@[simp] theorem Hub.startHk_leader (h : Hub) : h.startHk.leader = h.leader := by
  simp only [Hub.startHk, ↓Hub.emitRecord_leader, ↓Hub.setFlow_leader, ↓forAll_leader, ↓Hub.leader_mk, implies_true, ↓Hub.lead_boot]

theorem Hub.setCores_duties (h : Hub) (d : Nat) {f : Cores → Cores} (keeps : ∀ c, (f c).role = c.role) :
    (h.setCores d f).duties = h.duties :=
  h.setDie_duties d fun x => by simp only [Die.duty, keeps]

@[simp] theorem Hub.saveCkpt_duties (h : Hub) (d : Nat) : (h.saveCkpt d).duties = h.duties := h.setCores_duties d fun _ => rfl
@[simp] theorem Hub.writeThrough_duties (h : Hub) (e : Through) : (h.writeThrough e).duties = h.duties := h.setDie_duties _ fun _ => rfl

@[simp] theorem Hub.notSkewed_duties (h : Hub) (d : Nat) : (h.notSkewed d).duties = h.duties := by
  simp only [Hub.notSkewed, ↓Hub.setDie_duties, ↓Hub.setTm_duties, implies_true, ↓Hub.setDie_duties, Die.duty_eq]
@[simp] theorem Hub.emitRecord_duties (h : Hub) (k : FlowKey) (stream : Nat) (rcd : Bytes) :
    (h.emitRecord k stream rcd).duties = h.duties :=
  Hub.duties_of_cores (Hub.emitRecord_dieCores ..)
@[simp] theorem Hub.startHk_duties (h : Hub) : h.startHk.duties = h.duties := by
  simp only [Hub.startHk, ↓Hub.emitRecord_duties, ↓Hub.setFlow_duties, ↓forAll_duties, ↓Hub.duties_mk, implies_true, ↓Hub.map_duty_dies]
@[simp] theorem Hub.moveLead_duties (h : Hub) : h.moveLead.duties = h.duties := by
  unfold Hub.moveLead
  split <;> simp only [↓Hub.notSkewed_duties, ↓Hub.notice_duties, ↓Hub.saveCkpt_duties, ↓Hub.setFlow_duties, ↓Hub.startHk_duties,
    ↓Hub.duties_mk, ↓apply_ite Hub.duties, ite_self, ↓Hub.map_duty_dies]
@[simp] theorem Hub.setMgmt_duties (h : Hub) (f : Mgmt → Mgmt) : (h.setMgmt f).duties = h.duties :=
  congrArg (List.map Die.duty) (Hub.setMgmt_dies ..)
@[simp] theorem Hub.restoreFrom_duties (h : Hub) (d : Nat) : (h.restoreFrom d).duties = h.duties := by
  simp only [Hub.restoreFrom, ↓Hub.setMgmt_duties]
@[simp] theorem Hub.gapEnds_duties (h : Hub) (since : Nat) : (h.gapEnds since).duties = h.duties := by
  simp only [Hub.gapEnds, ↓Hub.duties_mk, ↓Hub.map_duty_dies]
@[simp] theorem Hub.originate_duties (h : Hub) (cls kind : Nat) (body : Bytes) : (h.originate cls kind body).duties = h.duties :=
  Hub.duties_of_cores (Hub.originate_dieCores ..)
@[simp] theorem Hub.send_duties (h : Hub) (r : Response) : (h.send r).duties = h.duties := by
  unfold Hub.send
  split <;> simp only [↓Hub.originate_duties, ↓Hub.duties_mk, ↓apply_ite Hub.duties, ite_self, ↓Hub.map_duty_dies]
@[simp] theorem Hub.markHanded_duties (h : Hub) : h.markHanded.duties = h.duties := by
  simp only [Hub.markHanded, ↓Hub.writeThrough_duties, ↓Hub.duties_mk, ↓apply_ite Hub.duties, ite_self, ↓Hub.map_duty_dies]
@[simp] theorem Hub.handAgain_duties (h : Hub) : h.handAgain.duties = h.duties := by
  simp only [Hub.handAgain, ↓Hub.markHanded_duties, ↓Hub.send_duties, ↓forAll_duties, implies_true]

@[simp] theorem Hub.cachePut_duties (h : Hub) (e : CacheEntry) : (h.cachePut e).duties = h.duties := by
  unfold Hub.cachePut
  dsimp only
  repeat' split
  all_goals simp only [↓Hub.notice_duties, ↓Hub.writeThrough_duties, ↓Hub.duties_mk, ↓Hub.map_duty_dies]

@[simp] theorem Hub.afterResponse_duties (h : Hub) (op : Nat) : (h.afterResponse op).duties = h.duties := by
  simp only [Hub.afterResponse, ↓Hub.duties_mk, ↓apply_ite Hub.duties, ite_self, ↓Hub.map_duty_dies]
@[simp] theorem Hub.finish_duties (h : Hub) (x : Request) (r : Reply) : (h.finish x r).duties = h.duties := by
  simp only [Hub.finish, ↓Hub.afterResponse_duties, ↓Hub.cachePut_duties, ↓Hub.send_duties, ↓apply_ite Hub.duties, ite_self]
@[simp] theorem Hub.completion_duties (h : Hub) : h.completion.duties = h.duties := by
  unfold Hub.completion
  split <;> simp only [↓Hub.finish_duties, ↓Hub.duties_mk, ↓Hub.map_duty_dies]
@[simp] theorem Hub.settleRunning_duties (h : Hub) (d : Nat) : (h.settleRunning d).duties = h.duties := by
  unfold Hub.settleRunning
  split <;> simp only [↓Hub.cachePut_duties, ↓Hub.completion_duties, ↓Hub.setMgmt_duties, ↓Hub.duties_mk, ↓apply_ite Hub.duties, ite_self,
    ↓Hub.map_duty_dies]
@[simp] theorem Hub.raise_duties (h : Hub) (bit : Nat) : (h.raise bit).duties = h.duties :=
  Hub.duties_of_cores (Hub.raise_dieCores ..)
@[simp] theorem Hub.event_duties (h : Hub) (unit : Word) (code cls count : Nat) (arg0 arg1 : Word) :
    (h.event unit code cls count arg0 arg1).duties = h.duties :=
  Hub.duties_of_cores (Hub.event_dieCores ..)

end Sys2Proof.Machine
end


section
/-! PROOFS. Loss and return of a die, heartbeats, failover and drills (R404 to R425). -/

namespace Sys2Proof.Machine

/-! ## A die's duty but for its part in a drill -/

/-- Cores without their part in a drill. -/
def Cores.undrilled (k : Cores) : Cores := { k.role with drill := false, drillAt := none }

/-- A die's duty without its part in a drill. -/
def Die.post (x : Die) :=
  (x.inService, x.frozen, x.faulted, x.faultAt, x.restartAt, x.quads, x.rails, x.reading, x.cores.undrilled)

/-- Those of a hub's dies. -/
def Hub.posts (h : Hub) := h.dies.map Die.post

theorem Hub.posts_of_duties {h g : Hub} (same : g.duties = h.duties) : g.posts = h.posts := by
  have views (k : Hub) : k.posts = k.duties.map fun (a, b, c, d, e, f, q, r, k) =>
      (a, b, c, d, e, f, q, r, ({ k with drill := false, drillAt := none } : Cores)) := by
    rw [Hub.posts, Hub.duties, List.map_map]
    rfl
  rw [views, views, same]

theorem Hub.setDie_posts (h : Hub) (d : Nat) {f : Die → Die} (keeps : ∀ x, (f x).post = x.post) : (h.setDie d f).posts = h.posts :=
  map_modAt_of_keeps keeps _ _

/-- Where the posts are the same, so is each die's. -/
theorem Hub.post_of_posts {h g : Hub} (same : g.posts = h.posts) {d : Nat} {x : Die} (there : h.dies[d]? = some x) :
    ∃ y, g.dies[d]? = some y ∧ y.post = x.post := getElem?_of_map same there

theorem Hub.duty_of_duties {h g : Hub} (same : g.duties = h.duties) {d : Nat} {x : Die} (there : h.dies[d]? = some x) :
    ∃ y, g.dies[d]? = some y ∧ y.duty = x.duty := getElem?_of_map same there

/-- Whether a hub's dies are in service, and whether they are frozen. -/
def Hub.services (h : Hub) := h.dies.map fun x => (x.inService, x.frozen)

theorem Hub.services_of_posts {h g : Hub} (same : g.posts = h.posts) : g.services = h.services := by
  have views (k : Hub) : k.services = k.posts.map fun p => (p.1, p.2.1) := by
    rw [Hub.services, Hub.posts, List.map_map]
    rfl
  rw [views, views, same]

theorem Hub.coreRuns_eq (h : Hub) (d : Nat) : h.coreRuns d = (h.services[d]?.any fun p => p.1 && !p.2) := by
  unfold Hub.coreRuns Hub.die Hub.services
  rw [List.getD_eq_getElem?_getD, List.getElem?_map]
  cases h.dies[d]? <;> rfl

theorem Hub.coreRuns_of_services {h g : Hub} (same : g.services = h.services) (d : Nat) : g.coreRuns d = h.coreRuns d := by
  rw [Hub.coreRuns_eq, Hub.coreRuns_eq, same]

theorem Hub.setDie_services (h : Hub) (d : Nat) {f : Die → Die} (keeps : ∀ x, ((f x).inService, (f x).frozen) = (x.inService, x.frozen)) :
    (h.setDie d f).services = h.services := map_modAt_of_keeps keeps _ _

theorem Hub.setCores_posts (h : Hub) (d : Nat) {f : Cores → Cores} (keeps : ∀ k, (f k).undrilled = k.undrilled) :
    (h.setCores d f).posts = h.posts := h.setDie_posts d fun x => by simp only [Die.post, keeps]

theorem Hub.drillNext_posts (h : Hub) : h.drillNext.posts = h.posts := by
  unfold Hub.drillNext
  split
  · rfl
  · extract_lets waits others
    split
    · refine (Hub.posts_of_duties (Hub.raise_duties _ _)).trans ((Hub.setCores_posts _ _ ?_).trans ?_)
      · exact fun _ => rfl
      · exact Hub.posts_of_duties (h.saveCkpt_duties _)
    · split
      · exact Hub.posts_of_duties (Hub.planeDone_duties _ _ _)
      · rfl

theorem Hub.drillDrop_posts (h : Hub) (d : Nat) : (h.drillDrop d).posts = h.posts := by
  have first : (h.setCores d fun c => { c with drill := false, drillAt := none }).posts = h.posts := h.setCores_posts d fun _ => rfl
  unfold Hub.drillDrop
  extract_lets was g1 k g2
  exact ite_keeps Hub.posts rfl (ite_keeps Hub.posts (g2.drillNext_posts.trans first) first)

/-! ## A die goes out of service (R412) -/

/-- A die that is lost. -/
def Die.lost (x : Die) : Die :=
  { x with inService := false, faulted := true, restartAt := none,
           store := { x.store with coaches := [], trains := [], spool := .fullRate, pageWin := [], pageAddr := [] },
           cores := { x.cores with hbOk := false, beat := false, missed := 0, declaredAt := none } }

/-- Flows of a die that have not started. -/
def Hub.Stilled (d : Nat) (h : Hub) : Prop := ∀ f ∈ h.flows, f.key.die = d → f.started = false

theorem Hub.stilled_of_lives {h g : Hub} (same : g.flowLives = h.flowLives) {d : Nat} (still : h.Stilled d) : g.Stilled d := by
  intro f mem die
  obtain ⟨i, lt, rfl⟩ := List.getElem_of_mem mem
  obtain ⟨e, found, life⟩ := getElem?_of_map same.symm (List.getElem?_eq_getElem lt)
  simp only [Flow.life, Prod.mk.injEq] at life
  obtain ⟨key, started⟩ := life
  rw [← started]
  exact still e (List.mem_of_getElem? found) (key ▸ die)

theorem Hub.setFlow_stilled {h : Hub} {d : Nat} (still : h.Stilled d) (k : FlowKey) {φ : Flow → Flow}
    (stops : ∀ f ∈ h.flows, f.key = k → (φ f).key.die = d → (φ f).started = false) : (h.setFlow k φ).Stilled d := by
  intro f mem die
  obtain ⟨e, there, rfl⟩ := List.mem_map.1 mem
  by_cases named : (e.key == k) = true
  · rw [if_pos named] at die ⊢
    exact stops e there (by simpa using named) die
  · rw [if_neg named] at die ⊢
    exact still e there die

theorem Flow.start_key (f : Flow) (t : Nat) : (f.start t).key = f.key := ite_keeps Flow.key rfl rfl

theorem Hub.startHk_stilled {h : Hub} {d : Nat} (still : h.Stilled d) (other : h.boot.lead ≠ d) : h.startHk.Stilled d := by
  unfold Hub.startHk
  extract_lets l k g
  have starts : (g.setFlow g.hkKey fun f => f.start g.tm.now).Stilled d :=
    Hub.setFlow_stilled (h := g) still _ fun f _ key die => by
      rw [f.start_key, key] at die
      exact absurd die other
  exact Hub.stilled_of_lives (forAll_flowLives _ (fun b g => Hub.flowLives_of_cores (Hub.emitRecord_flowCores ..)) _ _) starts

theorem Hub.moveLead_stilled {h : Hub} {d : Nat} (still : h.Stilled d) (out : h.coreRuns d = false) : h.moveLead.Stilled d := by
  unfold Hub.moveLead
  split
  · exact still
  · next n found =>
    have other : n ≠ d := by
      rintro rfl
      have runs := List.find?_some found
      rw [out] at runs
      cases runs
    extract_lets old dest g1 e0 e1 e b g2 g3
    split
    · exact still
    · have stops : g1.Stilled d := by
        refine Hub.setFlow_stilled still _ fun f _ _ _ => ?_
        split
        · rfl
        · next idle => simpa using idle
      have key : e.key = ⟨n, 3, 0⟩ := by
        unfold e
        split <;> rfl
      have next : g2.Stilled d := by
        intro f mem die
        obtain here | here := List.mem_append.1 mem
        · exact stops f (List.mem_filter.1 here).1 die
        · obtain rfl := List.mem_singleton.1 here
          rw [key] at die
          exact absurd die other
      have starts : g3.Stilled d := by
        unfold g3
        split
        · exact Hub.startHk_stilled next other
        · exact next
      refine Hub.stilled_of_lives ?_ starts
      rw [Hub.notice_flowLives, Hub.saveCkpt_flowLives, Hub.notSkewed_flowLives]

/-- The lead role goes to the lowest die whose core runs (R353). -/
theorem Hub.moveLead_lowest {h : Hub} (some' : ∃ i < h.nDies, h.coreRuns i = true) :
    h.coreRuns h.moveLead.leader = true ∧ ∀ i < h.moveLead.leader, h.coreRuns i = false := by
  obtain ⟨i, lt, runs⟩ := some'
  have first (n : Nat) (found : (List.range h.nDies).find? h.coreRuns = some n) : h.moveLead.leader = n := by
    unfold Hub.moveLead
    split
    · next none' => cases found.symm.trans none'
    · next m some' =>
      obtain rfl := Option.some.inj (found.symm.trans some')
      extract_lets old dest g1 e0 e1 e b g2 g3
      have lead : g3.leader = n := by
        unfold g3
        split
        · exact g2.startHk_leader
        · rfl
      split
      · next same => exact same.symm
      · rw [Hub.notice_leader, Hub.saveCkpt_leader, Hub.notSkewed_leader, lead]
  cases found : (List.range h.nDies).find? h.coreRuns with
  | none =>
    rw [List.find?_range_eq_none] at found
    simpa [runs] using found i lt
  | some n =>
    rw [first n found]
    rw [List.find?_range_eq_some] at found
    obtain ⟨here, -, below⟩ := found
    exact ⟨here, fun j lt => by simpa using below j lt⟩

/-- A lost die's post. -/
def lostPost : (Bool × Bool × Bool × Option Nat × Option (Nat × Nat) × List Bool × Bool × DieReading × Cores) →
    (Bool × Bool × Bool × Option Nat × Option (Nat × Nat) × List Bool × Bool × DieReading × Cores)
  | (_, b, _, d, _, f, q, r, k) => (false, b, true, d, none, f, q, r, { k with hbOk := false, beat := false, missed := 0, declaredAt :=
    none })

theorem map_modAt {α β : Type} (view : α → β) {f : α → α} {g : β → β} (turns : ∀ a, view (f a) = g (view a)) (l : List α) (i : Nat) :
    (modAt l i f).map view = modAt (l.map view) i g := by
  refine List.ext_getElem? fun j => ?_
  simp only [modAt, List.getElem?_map, List.getElem?_modify]
  cases l[j]? with
  | none => rfl
  | some a =>
    by_cases here : i = j
    · simp [here, turns]
    · simp [here]

theorem Hub.setDie_lost_posts (h : Hub) (d : Nat) : (h.setDie d Die.lost).posts = modAt h.posts d lostPost :=
  map_modAt Die.post (fun _ => rfl) _ _

/-- What a die's loss leaves when the lead role is next, and from then on. -/
theorem Hub.dieOut_runs (h : Hub) (d : Nat) : ∃ k : Hub, k.posts = modAt h.posts d lostPost ∧ k.Stilled d ∧ k.retirees = h.retirees ∧
    k.form = h.form ∧ (h.dieOut d).posts = k.moveLead.posts ∧ (h.dieOut d).flowLives = k.moveLead.flowLives ∧
    (h.dieOut d).retirees = k.moveLead.retirees ∧ (h.dieOut d).leader = k.moveLead.leader := by
  unfold Hub.dieOut
  extract_lets h1 h2 h3 h4 h5 reps h6 h7
  have posts1 : h1.posts = h.posts := by
    refine (Hub.posts_of_duties ?_).trans (h.drillDrop_posts d)
    rw [Hub.notSkewed_duties, Hub.vanish_duties, Hub.abortSlots_duties]
  have retirees1 : h1.retirees = h.retirees := by
    rw [Hub.notSkewed_retirees, Hub.vanish_retirees, Hub.abortSlots_retirees, Hub.drillDrop_retirees]
  have form1 : h1.form = h.form := by
    rw [Hub.notSkewed_form, Hub.vanish_form, Hub.abortSlots_form, Hub.drillDrop_form]
  clear_value h1
  have posts2 : h2.posts = modAt h.posts d lostPost := (h1.setDie_lost_posts d).trans (by rw [posts1])
  have retirees2 : h2.retirees = h1.retirees := rfl
  have form2 : h2.form = h1.form := h1.setDie_form d _
  clear_value h2
  have posts3 : h3.posts = h2.posts := Hub.posts_of_duties (forAll_duties _ (Hub.capLoseDie_duties d) _ h2)
  have retirees3 : h3.retirees = h2.retirees := forAll_retirees _ (Hub.capLoseDie_retirees d) _ h2
  have form3 : h3.form = h2.form := forAll_form _ (Hub.capLoseDie_form d) _ h2
  clear_value h3
  have still4 : h4.Stilled d := by
    intro f mem die
    obtain ⟨e, -, rfl⟩ := List.mem_map.1 mem
    by_cases mine : e.key.die = d
    · simp [mine, Flow.lose]
    · simp [mine] at die
  have duties5 : h5.duties = h4.duties := by
    unfold h5
    split
    · rw [Hub.portDown_duties, Hub.portDown_duties, Hub.closeCoupler_duties]
    · exact forAll_duties _ (fun p g => g.portDown_duties p _) _ _
  have lives5 : h5.flowLives = h4.flowLives := by
    unfold h5
    split
    · rw [Hub.portDown_flowLives, Hub.portDown_flowLives, Hub.closeCoupler_flowLives]
    · exact forAll_flowLives _ (fun p g => g.portDown_flowLives p _) _ _
  have retirees5 : h5.retirees = h4.retirees := by
    unfold h5
    split
    · rw [Hub.portDown_retirees, Hub.portDown_retirees, Hub.closeCoupler_retirees]
    · exact forAll_retirees _ (fun p g => g.portDown_retirees p _) _ _
  have form5 : h5.form = h4.form := by
    unfold h5
    split
    · rw [Hub.portDown_form, Hub.portDown_form, Hub.closeCoupler_form]
    · exact forAll_form _ (fun p g => g.portDown_form p _) _ _
  clear_value h5
  have form4 : h4.form = h3.form := rfl
  obtain ⟨k, made⟩ : ∃ k, k = if d = 1 then ({ h5 with reps := reps } : Hub).ppsDrop 1 else h5 := ⟨_, rfl⟩
  have led : h6 = k.moveLead := congrArg Hub.moveLead made.symm
  clear_value h6
  subst led
  have reps6 : k.duties = h5.duties ∧ k.flowLives = h5.flowLives ∧ k.retirees = h5.retirees ∧ k.form = h5.form := by
    subst made
    split
    · refine ⟨Hub.ppsDrop_duties _ 1, Hub.ppsDrop_flowLives _ 1, Hub.ppsDrop_retirees _ 1, (Hub.ppsDrop_form _ 1).trans ?_⟩
      simp only [Hub.form, reps, List.length_mapIdx]
    · exact ⟨rfl, rfl, rfl, rfl⟩
  obtain ⟨duties6, lives6, retirees6, form6⟩ := reps6
  clear made
  refine ⟨k, ?_, ?_, ?_, ?_, ?_, ?_, ?_, ?_⟩
  · exact (Hub.posts_of_duties (duties6.trans duties5)).trans (posts3.trans posts2)
  · exact Hub.stilled_of_lives (lives6.trans lives5) still4
  · exact retirees6.trans (retirees5.trans (retirees3.trans (retirees2.trans retirees1)))
  · exact form6.trans (form5.trans (form4.trans (form3.trans (form2.trans form1))))
  · refine Hub.posts_of_duties ?_
    rw [Hub.passEnds_duties, Hub.reLevel_duties, Hub.reSweep_duties]
    rfl
  · rw [Hub.passEnds_flowLives, Hub.reLevel_flowLives, Hub.reSweep_flowLives]
    rfl
  · rw [Hub.passEnds_retirees, Hub.reLevel_retirees, Hub.reSweep_retirees]
    rfl
  · rw [Hub.passEnds_leader, Hub.reLevel_leader, Hub.reSweep_leader]
    rfl

theorem Hub.coreRuns_lost {h k : Hub} {d : Nat} (lost : k.posts = modAt h.posts d lostPost) :
    k.coreRuns d = false ∧ ∀ i, i ≠ d → k.coreRuns i = h.coreRuns i := by
  have runs (g : Hub) (i : Nat) : g.coreRuns i = (g.posts[i]?.any fun p => p.1 && !p.2.1) := by
    unfold Hub.coreRuns Hub.die Hub.posts
    rw [List.getD_eq_getElem?_getD, List.getElem?_map]
    cases g.dies[i]? <;> rfl
  refine ⟨?_, fun i other => ?_⟩
  · rw [runs, lost, modAt, List.getElem?_modify_eq]
    cases h.posts[d]? <;> rfl
  · rw [runs, runs, lost, modAt, List.getElem?_modify_ne _ _ (Ne.symm other)]

section
variable {h : Hub} {d : Nat} {x : Die} (there : h.dies[d]? = some x)
include there

/-- What is left of a die that is lost, and of the hub around it. -/
theorem Hub.dieOut_left : ∃ y, (h.dieOut d).dies[d]? = some y ∧ y.post = lostPost x.post ∧ (h.dieOut d).Stilled d ∧
    (h.dieOut d).retirees = h.retirees ∧
    ((∃ i < h.nDies, i ≠ d ∧ h.coreRuns i = true) → (h.dieOut d).coreRuns (h.dieOut d).leader = true ∧
      ∀ i < (h.dieOut d).leader, (h.dieOut d).coreRuns i = false) := by
  obtain ⟨k, lost, still, retirees, form, posts, lives, retirees', lead⟩ := h.dieOut_runs d
  obtain ⟨out, others⟩ := Hub.coreRuns_lost lost
  have moved : k.moveLead.posts = k.posts := Hub.posts_of_duties k.moveLead_duties
  have runs (i : Nat) : (h.dieOut d).coreRuns i = k.coreRuns i := Hub.coreRuns_of_services (Hub.services_of_posts (posts.trans moved)) i
  have post : (h.dieOut d).posts[d]? = some (lostPost x.post) := by
    rw [posts, moved, lost, modAt, List.getElem?_modify_eq, Hub.posts, List.getElem?_map, there]
    rfl
  rw [Hub.posts, List.getElem?_map, Option.map_eq_some_iff] at post
  obtain ⟨y, found, post⟩ := post
  refine ⟨y, found, post, Hub.stilled_of_lives lives (Hub.moveLead_stilled still out),
    retirees'.trans (k.moveLead_retirees.trans retirees), fun ⟨i, lt, other, up⟩ => ?_⟩
  have nDies : k.nDies = h.nDies := congrArg (fun f : Form => f.ident.variant.dies) form
  simp only [runs, lead]
  exact Hub.moveLead_lowest ⟨i, nDies ▸ lt, (others i other).trans up⟩
end

/-! ## DIE_FAULT and DIE_RESTART (R404, R412, R413) -/

/-- What a DIE_FAULT leaves of its die and of the hub. -/
structure Faulted (h : Hub) (d : Nat) (restart : Option (Nat × Nat)) (units : List Word) (g : Hub) (y : Die) : Prop where
  there : g.dies[d]? = some y
  out : y.inService = false
  faulted : y.faulted = true
  at' : y.faultAt = some h.clk.elapsed
  restarts : y.restartAt = restart
  still : g.Stilled d
  retired : g.flt.retired = units
  lead : (∃ i < h.nDies, i ≠ d ∧ h.coreRuns i = true) → g.coreRuns g.boot.lead = true ∧ ∀ i < g.boot.lead, g.coreRuns i = false

section
variable {h : Hub} {d : Nat} {x : Die} (there : h.dies[d]? = some x)
include there

theorem Hub.dieOut_faulted (restart : Option (Nat × Nat)) : ∃ y, Faulted h d restart h.flt.retired
    ((h.dieOut d).setDie d fun x => { x with faultAt := some h.clk.elapsed, restartAt := restart }) y := by
  obtain ⟨y, found, post, still, retirees, lead⟩ := Hub.dieOut_left there
  generalize h.dieOut d = g at *
  have services : (g.setDie d fun x => { x with faultAt := some h.clk.elapsed, restartAt := restart }).services = g.services :=
    g.setDie_services d fun _ => rfl
  simp only [Die.post, lostPost, Prod.mk.injEq] at post
  obtain ⟨out, -, faulted, -⟩ := post
  refine ⟨_, Hub.setDie_getElem?_same found _, out, faulted, rfl, rfl, still, retirees, fun others => ?_⟩
  simp only [Hub.coreRuns_of_services services]
  exact lead others

omit there in
/-- A unit is recorded as retired. -/
theorem Faulted.retires {restart : Option (Nat × Nat)} {units : List Word} {g : Hub} {y : Die} (left : Faulted h d restart units g y)
    (u : Word) (code cls count : Nat) (a b : Word) : ∃ y, Faulted h d restart (units ++ [u])
      { g.event u code cls count a b with
        flt := { (g.event u code cls count a b).flt with retired := (g.event u code cls count a b).flt.retired ++ [u] } } y := by
  obtain ⟨z, found, duty⟩ := Hub.duty_of_duties (g.event_duties u code cls count a b) left.there
  have services : (g.event u code cls count a b).services = g.services :=
    Hub.services_of_posts (Hub.posts_of_duties (g.event_duties u code cls count a b))
  have lead : (g.event u code cls count a b).boot.lead = g.boot.lead := g.event_leader u code cls count a b
  have retired : (g.event u code cls count a b).flt.retired = g.flt.retired := g.event_retirees u code cls count a b
  have lives := g.event_flowLives u code cls count a b
  generalize g.event u code cls count a b = k at *
  simp only [Die.duty, Prod.mk.injEq] at duty
  obtain ⟨out, -, faulted, at', restarts, -⟩ := duty
  refine ⟨z, found, out.trans left.out, faulted.trans left.faulted, at'.trans left.at', restarts.trans left.restarts,
    Hub.stilled_of_lives lives left.still, congrArg (· ++ [u]) (retired.trans left.retired), fun others => ?_⟩
  have runs (i : Nat) : k.coreRuns i = g.coreRuns i := Hub.coreRuns_of_services services i
  have led := left.lead others
  rw [← lead] at led
  exact ⟨(runs _).trans led.1, fun i below => (runs i).trans (led.2 i below)⟩

theorem Hub.dieFault_first {cause : Nat} (lt : d < h.nDies) (up : x.inService = true)
    (first : ∀ u, x.faultAt = some u → u + 86400000000000 ≤ h.clk.elapsed) :
    ∃ y, Faulted h d (some (h.clk.elapsed, cause)) h.flt.retired (h.dieFault d cause) y := by
  have die := Hub.die_of_getElem? there
  unfold Hub.dieFault
  rw [if_neg (by simp [die, up, lt])]
  extract_lets now second g1
  have no : second = false := by
    unfold second
    rw [die]
    split
    · next u found => simpa using first u found
    · rfl
  rw [if_neg (ne_true_of_eq_false no)]
  unfold g1
  rw [no]
  exact Hub.dieOut_faulted there _

theorem Hub.dieFault_second {cause u : Nat} (lt : d < h.nDies) (up : x.inService = true) (last : x.faultAt = some u)
    (soon : h.clk.elapsed < u + 86400000000000) :
    ∃ y, Faulted h d none (h.flt.retired ++ [unitDie d]) (h.dieFault d cause) y := by
  have die := Hub.die_of_getElem? there
  unfold Hub.dieFault
  rw [if_neg (by simp [die, up, lt])]
  extract_lets now second g1
  have yes : second = true := by
    unfold second
    rw [die, last]
    simpa using soon
  rw [if_pos yes]
  have made : g1 = (h.dieOut d).setDie d fun x => { x with faultAt := some now, restartAt := none } := by
    unfold g1
    rw [yes]
    rfl
  obtain ⟨y, left⟩ := Hub.dieOut_faulted there none
  rw [← made] at left
  exact left.retires _ _ _ _ _ _
end

/-- A die back in service. -/
def Die.back (image : Option Image) (x : Die) : Die :=
  { x with inService := true, faulted := false, restartAt := none, cores := { x.cores with copy := image } }

theorem Hub.dieIn_leaves (h : Hub) (d : Nat) :
    (h.dieIn d).duties = (h.setDie d (Die.back h.image)).duties ∧ (h.dieIn d).retirees = h.retirees := by
  unfold Hub.dieIn
  extract_lets h1 h2 h3 h4 reps h5 h6 h7
  have duties2 : h2.duties = h1.duties := by
    refine forAll_duties _ (fun c g => ?_) _ _
    rw [Hub.setCh_duties, Hub.resumeChan_duties]
  have retirees2 : h2.retirees = h1.retirees := by
    refine forAll_retirees _ (fun c g => ?_) _ _
    exact Hub.resumeChan_retirees g c
  have retirees1 : h1.retirees = h.retirees := rfl
  have start1 : h1 = h.setDie d (Die.back h.image) := rfl
  clear_value h2 h1
  have duties4 : h4.duties = h2.duties := forAll_duties _ (fun p g => g.portStart_duties p) _ _
  have retirees4 : h4.retirees = h2.retirees := forAll_retirees _ (fun p g => g.portStart_retirees p) _ _
  clear_value h4
  have duties5 : h5.duties = h4.duties := ite_keeps Hub.duties rfl rfl
  have retirees5 : h5.retirees = h4.retirees := ite_keeps Hub.retirees rfl rfl
  clear_value h5
  refine ⟨?_, ?_⟩
  · rw [Hub.reLevel_duties, Hub.reSweep_duties, Hub.reSweep_duties, Hub.moveLead_duties, Hub.mapCh_duties, duties5, duties4, duties2,
    start1]
  · rw [Hub.reLevel_retirees, Hub.reSweep_retirees, Hub.reSweep_retirees, Hub.moveLead_retirees]
    exact retirees5.trans (retirees4.trans (retirees2.trans retirees1))

section
variable {h : Hub} {d u k : Nat} {x : Die} (there : h.dies[d]? = some x) (waits : x.restartAt = some (u, k))
include there waits

theorem Hub.dieRestart_back (soon : h.clk.elapsed ≤ u + 10000000000) : ∃ g y, h.dieRestart d true = g ∧ g.dies[d]? = some y ∧
    y.inService = true ∧ y.faulted = false ∧ y.restartAt = none ∧ g.flt.retired = h.flt.retired := by
  obtain ⟨duties, retirees⟩ := h.dieIn_leaves d
  have run : h.dieRestart d true = (h.dieIn d).event (unitDie d) 0x0F06 1 1 (argN k) 0 := by
    unfold Hub.dieRestart
    rw [Hub.die_of_getElem? there, waits]
    exact if_pos (by simpa using soon)
  obtain ⟨y, found, duty⟩ := Hub.duty_of_duties
    ((Hub.event_duties (h.dieIn d) (unitDie d) 0x0F06 1 1 (argN k) 0).trans duties) (Hub.setDie_getElem?_same there _)
  simp only [Die.duty, Die.back, Prod.mk.injEq] at duty
  obtain ⟨up, -, faulted, -, restarts, -⟩ := duty
  exact ⟨_, y, run, found, up, faulted, restarts, (Hub.event_retirees ..).trans retirees⟩

theorem Hub.dieRestart_fails {passed : Bool} (bad : passed = false ∨ u + 10000000000 < h.clk.elapsed) : ∃ g y,
    h.dieRestart d passed = g ∧ g.dies[d]? = some y ∧ y.inService = x.inService ∧ y.restartAt = none ∧
    g.flt.retired = h.flt.retired ++ [unitDie d] := by
  have run : h.dieRestart d passed =
      let g := (h.setDie d fun x => { x with restartAt := none }).event (unitDie d) 0x0F06 2 1 (argN k) 0
      { g with flt := { g.flt with retired := g.flt.retired ++ [unitDie d] } } := by
    unfold Hub.dieRestart
    rw [Hub.die_of_getElem? there, waits]
    exact if_neg (by obtain rfl | late := bad <;> simp_all)
  obtain ⟨y, found, duty⟩ := Hub.duty_of_duties
    (Hub.event_duties (h.setDie d fun x => { x with restartAt := none }) (unitDie d) 0x0F06 2 1 (argN k) 0)
    (Hub.setDie_getElem?_same there _)
  simp only [Die.duty, Prod.mk.injEq] at duty
  obtain ⟨up, -, -, -, restarts, -⟩ := duty
  exact ⟨_, y, run, found, up, restarts, congrArg (· ++ [unitDie d]) (Hub.event_retirees ..)⟩
end

@[simp] theorem Hub.dropHeld_duties (h : Hub) (d : Nat) : (h.dropHeld d).duties = h.duties := by
  simp only [Hub.dropHeld, ↓Hub.mapCh_duties, ↓Hub.schedDone_duties, ↓forAll_duties, implies_true]

/-! ## The request that runs (R419) -/

/-- The request that runs, and its reply. -/
def Hub.atWork (h : Hub) := h.mgmt.running

theorem forAll_atWork {α : Type} (f : α → Hub → Hub) (keeps : ∀ a h, (f a h).atWork = h.atWork) (l : List α) (h : Hub) :
    (forAll l f h).atWork = h.atWork := forAll_keeps Hub.atWork f keeps l h
theorem iter_atWork (f : Hub → Hub) (keeps : ∀ h, (f h).atWork = h.atWork) (n : Nat) (h : Hub) :
    (iter f n h).atWork = h.atWork := iter_keeps Hub.atWork f keeps n h
theorem Hub.running_mgmt (h : Hub) : h.mgmt.running = h.atWork := rfl
theorem Hub.atWork_mk {clk : Clk} {tm : Tm} {chans : List Chan} {octs : List Octet} {reps : List Rep} {dies : List Die}
    {trg : Trg} {caps : List (Option Capture)} {nextTrain : Nat} {saved : List SavedChurn} {jobs : List ChurnJob} {nextHandle nextJob : Nat}
    {flows : List Flow} {strm : Strm} {hk : Hk} {sep : Sep} {ports : List Port} {enm : Enum} {mgmt : Mgmt} {dbw : Dbw} {fseal : Seal}
    {flt : Flt} {cal : Cal} {pwr : Pwr} {pmbus : Pmbus} {boot : Boot} {flash : Flash} {tag : Tag} {tap : Tap} {fresh : Nat} {ident : Ident}
      :
    (Hub.mk ident clk tm chans octs reps dies trg caps nextTrain saved jobs nextHandle nextJob flows strm hk sep ports enm mgmt dbw
      fseal flt cal pwr pmbus boot flash tag tap fresh).atWork = mgmt.running := rfl

@[simp] theorem Hub.queue_tag (h : Hub) (p : Nat) (f : Frame) : (h.queue p f).tag = h.tag := by
  simp only [Hub.queue, ↓Hub.setLink_tag, modAt]
@[simp] theorem Hub.originate_tag (h : Hub) (cls kind : Nat) (body : Bytes) : (h.originate cls kind body).tag = h.tag := by
  simp only [Hub.originate, ↓Hub.queue_tag, ↓apply_ite Hub.tag, ite_self]
@[simp] theorem Hub.send_tag (h : Hub) (r : Response) : (h.send r).tag = h.tag := by
  unfold Hub.send
  split <;> simp only [↓Hub.originate_tag, ↓Hub.tag_mk, ↓apply_ite Hub.tag, ite_self]
@[simp] theorem Hub.writeThrough_tag (h : Hub) (e : Through) : (h.writeThrough e).tag = h.tag := by
  simp only [Hub.writeThrough, ↓Hub.setDie_tag]
@[simp] theorem Hub.markHanded_tag (h : Hub) : h.markHanded.tag = h.tag := by
  simp only [Hub.markHanded, ↓Hub.writeThrough_tag, ↓Hub.tag_mk, ↓apply_ite Hub.tag, ite_self]
@[simp] theorem Hub.handAgain_tag (h : Hub) : h.handAgain.tag = h.tag := by
  simp only [Hub.handAgain, ↓Hub.markHanded_tag, ↓Hub.send_tag, ↓forAll_tag, implies_true]

@[simp] theorem Hub.setLink_atWork (h : Hub) (p : Nat) (f : Link → Link) : (h.setLink p f).atWork = h.atWork :=
  congrArg Mgmt.running (Hub.setLink_mgmt ..)
@[simp] theorem Hub.queue_atWork (h : Hub) (p : Nat) (f : Frame) : (h.queue p f).atWork = h.atWork := by
  simp only [Hub.queue, ↓Hub.setLink_atWork, modAt]
@[simp] theorem Hub.originate_atWork (h : Hub) (cls kind : Nat) (body : Bytes) : (h.originate cls kind body).atWork = h.atWork := by
  simp only [Hub.originate, ↓Hub.queue_atWork, ↓apply_ite Hub.atWork, ite_self]
@[simp] theorem Hub.send_atWork (h : Hub) (r : Response) : (h.send r).atWork = h.atWork := by
  unfold Hub.send
  split <;> simp only [↓Hub.originate_atWork, ↓Hub.atWork_mk, ↓apply_ite Hub.atWork, ite_self, ↓Hub.running_mgmt]
@[simp] theorem Hub.setDie_atWork (h : Hub) (d : Nat) (f : Die → Die) : (h.setDie d f).atWork = h.atWork :=
  congrArg Mgmt.running (Hub.setDie_mgmt ..)
@[simp] theorem Hub.writeThrough_atWork (h : Hub) (e : Through) : (h.writeThrough e).atWork = h.atWork := by
  simp only [Hub.writeThrough, ↓Hub.setDie_atWork]
@[simp] theorem Hub.markHanded_atWork (h : Hub) : h.markHanded.atWork = h.atWork := by
  simp only [Hub.markHanded, ↓Hub.writeThrough_atWork, ↓Hub.atWork_mk, ↓apply_ite Hub.atWork, ite_self, ↓Hub.running_mgmt]
@[simp] theorem Hub.notice_atWork (h : Hub) (unit : Word) (code : Nat) (arg0 arg1 : Word) :
    (h.notice unit code arg0 arg1).atWork = h.atWork :=
  congrArg Mgmt.running (Hub.notice_mgmt ..)
@[simp] theorem Hub.cachePut_atWork (h : Hub) (e : CacheEntry) : (h.cachePut e).atWork = h.atWork := by
  unfold Hub.cachePut
  dsimp only
  repeat' split
  all_goals simp only [↓Hub.notice_atWork, ↓Hub.writeThrough_atWork, ↓Hub.atWork_mk, ↓Hub.running_mgmt]
@[simp] theorem Hub.afterResponse_atWork (h : Hub) (op : Nat) : (h.afterResponse op).atWork = h.atWork := by
  simp only [Hub.afterResponse, ↓Hub.atWork_mk, ↓apply_ite Hub.atWork, ite_self, ↓Hub.running_mgmt]
@[simp] theorem Hub.finish_atWork (h : Hub) (x : Request) (r : Reply) : (h.finish x r).atWork = h.atWork := by
  simp only [Hub.finish, ↓Hub.afterResponse_atWork, ↓Hub.cachePut_atWork, ↓Hub.send_atWork, ↓apply_ite Hub.atWork, ite_self]

theorem Hub.completion_idle (h : Hub) : h.completion.mgmt.running = none := by
  unfold Hub.completion
  split
  · next idle => exact idle
  · exact Hub.finish_atWork ..

/-- What ran at the failure is settled, but for a LOG_WRITE, which goes on (R419). -/
theorem Hub.handAgain_settles {h : Hub} {y : Request} {r : Reply} (runs : h.mgmt.running = some (y, r)) (settles : h.writing y = false)
    (d : Nat) : (h.handAgain.settleRunning d).mgmt.running = none := by
  have still : h.handAgain.mgmt.running = some (y, r) := by
    refine Eq.trans ?_ runs
    refine (Hub.markHanded_atWork _).trans ?_
    exact forAll_atWork _ (fun e g => g.send_atWork _) _ _
  have settles' : h.handAgain.writing y = false := by
    unfold Hub.writing at settles ⊢
    rw [Hub.handAgain_tag, settles]
  unfold Hub.settleRunning
  rw [still]
  dsimp only
  rw [if_neg (ne_true_of_eq_false settles')]
  split
  · exact Hub.completion_idle _
  · split
    · rfl
    · exact Hub.cachePut_atWork ..

/-! ## A die whose core does not start (R420) -/

theorem Die.role_of_duty {x y : Die} (same : x.duty = y.duty) : x.cores.role = y.cores.role :=
  congrArg (fun u => u.2.2.2.2.2.2.2.2) same

theorem Die.frozen_of_duty {x y : Die} (same : x.duty = y.duty) : x.frozen = y.frozen := congrArg (fun u => u.2.1) same

theorem Die.onB_of_post {x y : Die} (same : x.post = y.post) : x.cores.onB = y.cores.onB :=
  congrArg (fun u => u.2.2.2.2.2.2.2.2.onB) same

/-- A die that is frozen. -/
def Die.frosted (x : Die) : Die :=
  { x with frozen := true, cores := { x.cores with hbOk := false, beat := false, declaredAt := none, noStandby := true, standbyFailed := true } }

section
variable {h : Hub} {d : Nat} {x : Die} (there : h.dies[d]? = some x)
include there

theorem Hub.freeze_left : ∃ y, (h.freeze d).dies[d]? = some y ∧ y.frozen = true ∧ y.cores.declaredAt = none ∧ y.cores.onB = x.cores.onB := by
  have calm : ((((h.drillDrop d).dropHeld d).abortSlots d).notSkewed d).posts = h.posts := by
    refine (Hub.posts_of_duties ?_).trans (h.drillDrop_posts d)
    rw [Hub.notSkewed_duties, Hub.abortSlots_duties, Hub.dropHeld_duties]
  obtain ⟨z, found, post⟩ := Hub.post_of_posts calm there
  unfold Hub.freeze
  extract_lets u since h1 was h2 h3 h4
  have frozen : h1.dies[d]? = some z.frosted := Hub.setDie_getElem?_same found Die.frosted
  clear_value h1
  have first : h2.duties = h1.duties := ite_keeps Hub.duties (Hub.restoreFrom_duties ..) rfl
  have second : h4.duties = h3.duties := by
    refine ite_keeps Hub.duties rfl ?_
    rw [Hub.gapEnds_duties, Hub.settleRunning_duties, Hub.handAgain_duties]
  have third : h3.duties = h2.duties := h2.moveLead_duties
  clear_value h4 h3 h2
  have last : ((h4.event u 0x0F09 2 1 0 0).raise 7).reLevel.passEnds.duties = h1.duties := by
    rw [Hub.passEnds_duties, Hub.reLevel_duties, Hub.raise_duties, Hub.event_duties, second, third, first]
  obtain ⟨y, there', duty⟩ := Hub.duty_of_duties last frozen
  have role := Die.role_of_duty duty
  have onB : y.cores.onB = z.cores.onB := (congrArg Cores.onB role :)
  exact ⟨y, there', Die.frozen_of_duty duty, (congrArg Cores.declaredAt role :), onB.trans (Die.onB_of_post post)⟩
end

/-! ## Heartbeats (R415, R417) -/

/-- The cores after a beat. -/
def Cores.beats (now : Nat) (k : Cores) : Cores := { k with beat := true, missed := 0, hbOk := true, lastBeat := now }

/-- The hub after a die's beat. -/
def Hub.beaten (h : Hub) (d : Nat) : Hub := (h.crossEvent d 9 381).setCores d (Cores.beats h.clk.elapsed)

section
variable {h : Hub} {d : Nat} {x : Die} (there : h.dies[d]? = some x)
include there

theorem Hub.crossEvent_there (row latency : Nat) : ∃ y, (h.crossEvent d row latency).dies[d]? = some y ∧ y.cores = x.cores ∧ y.duty = x.duty :=
  ⟨_, Hub.setDie_getElem?_same there _, ite_keeps Die.cores rfl rfl, ite_keeps Die.duty rfl rfl⟩

theorem Hub.setCores_there (f : Cores → Cores) : (h.setCores d f).dies[d]? = some { x with cores := f x.cores } :=
  Hub.setDie_getElem?_same there _

theorem Hub.beaten_there : ∃ y, (h.beaten d).dies[d]? = some y ∧ y.cores = x.cores.beats h.clk.elapsed := by
  obtain ⟨y, found, cores, -⟩ := Hub.crossEvent_there there 9 381
  exact ⟨_, Hub.setCores_there found _, congrArg (Cores.beats h.clk.elapsed) cores⟩

variable (runs : h.coreRuns d = true) (lt : d < h.nDies)
include runs lt

theorem Hub.heartbeat_calm (noDrill : x.cores.drillAt = none) (calm : x.cores.declaredAt = none) :
    h.heartbeat d = if d = h.boot.lead then (h.beaten d).markHanded else h.beaten d := by
  obtain ⟨y, found, cores, -⟩ := Hub.crossEvent_there there 9 381
  unfold Hub.heartbeat
  rw [if_neg (by simp [runs, lt])]
  dsimp only
  rw [Hub.die_of_getElem? found, cores, noDrill, calm]
  rfl

theorem Hub.heartbeat_fails (noDrill : x.cores.drillAt = none) {u : Nat} (declared : x.cores.declaredAt = some u) :
    h.heartbeat d = (h.beaten d).failoverBeat d u := by
  obtain ⟨y, found, cores, -⟩ := Hub.crossEvent_there there 9 381
  unfold Hub.heartbeat
  rw [if_neg (by simp [runs, lt])]
  dsimp only
  rw [Hub.die_of_getElem? found, cores, noDrill, declared]
  rfl
end

theorem Hub.markHanded_all {h : Hub} (all : h.mgmt.cache.all CacheEntry.handed = true) : h.markHanded = h := if_pos all

theorem Hub.markHanded_mgmt (h : Hub) : h.markHanded.mgmt =
    { h.mgmt with cache := h.mgmt.cache.map fun (e : CacheEntry) => { e with handed := true } } := by
  unfold Hub.markHanded
  split
  · next all =>
    have same : (h.mgmt.cache.map fun (e : CacheEntry) => { e with handed := true }) = h.mgmt.cache := by
      refine (List.map_congr_left fun e mem => ?_).trans (List.map_id _)
      have handed := List.all_eq_true.1 all e mem
      cases e
      simp_all
    rw [same]
  · rfl

/-- What the role of cores says of a failover. -/
theorem Cores.of_role {j k : Cores} (same : j.role = k.role) : (j.beat = k.beat ∧ j.missed = k.missed ∧ j.hbOk = k.hbOk ∧
    j.lastBeat = k.lastBeat) ∧ j.onB = k.onB ∧ j.stage = k.stage ∧ j.declaredAt = k.declaredAt :=
  ⟨⟨(congrArg Cores.beat same :), (congrArg Cores.missed same :), (congrArg Cores.hbOk same :), (congrArg Cores.lastBeat same :)⟩,
    (congrArg Cores.onB same :), (congrArg Cores.stage same :), (congrArg Cores.declaredAt same :)⟩

section
variable {h : Hub} {d u : Nat} {x : Die} (there : h.dies[d]? = some x)
include there

theorem Hub.setCores_role {g : Hub} {f : Cores → Cores} (same : g.duties = (h.setCores d f).duties) :
    ∃ y, g.dies[d]? = some y ∧ y.cores.role = (f x.cores).role := by
  obtain ⟨y, found, duty⟩ := Hub.duty_of_duties same (Hub.setCores_there there f)
  exact ⟨y, found, Die.role_of_duty duty⟩

theorem Hub.failoverBeat_starts (stage : x.cores.stage = 0)
    (passes : Config.selfTestPass h.tick.fresh (unitCore d (if x.cores.onB then 1 else 0)) = true) :
    ∃ y, (h.failoverBeat d u).dies[d]? = some y ∧ y.cores.role = { x.cores.role with stage := 1 } := by
  unfold Hub.failoverBeat
  rw [Hub.die_of_getElem? there]
  dsimp only
  rw [if_pos stage, if_pos passes]
  refine Hub.setCores_role (h := h.tick) (f := fun c => { c with stage := 1 }) there ?_
  split
  · exact Hub.restoreFrom_duties ..
  · rfl

theorem Hub.failoverBeat_freezes (stage : x.cores.stage = 0)
    (fails : Config.selfTestPass h.tick.fresh (unitCore d (if x.cores.onB then 1 else 0)) = false) :
    ∃ y, (h.failoverBeat d u).dies[d]? = some y ∧ y.frozen = true ∧ y.cores.declaredAt = none ∧ y.cores.onB = !x.cores.onB := by
  unfold Hub.failoverBeat
  rw [Hub.die_of_getElem? there]
  dsimp only
  rw [if_pos stage, if_neg (ne_true_of_eq_false fails)]
  exact Hub.freeze_left (Hub.setCores_there (h := h.tick) there _)

theorem Hub.failoverBeat_settles (stage : x.cores.stage = 1)
    (due : Config.failoverStep (h.fresh + 1) = true ∨ u + 5000000 ≤ h.clk.elapsed + 500000) :
    ∃ g y, h.failoverBeat d u = g ∧ g.dies[d]? = some y ∧ y.cores.role = { x.cores.role with stage := 2 } ∧
      (d = h.boot.lead → ∀ z r, h.mgmt.running = some (z, r) → h.writing z = false → g.mgmt.running = none) := by
  have due' : h.tick.failoverDue u 5000000 = true := by simpa [Hub.failoverDue, Hub.tick] using due
  have run : h.failoverBeat d u =
      let g := h.tick.setCores d fun c => { c with stage := 2 }
      if d = h.boot.lead then g.handAgain.settleRunning d else g := by
    unfold Hub.failoverBeat
    rw [Hub.die_of_getElem? there]
    dsimp only
    rw [if_neg (by omega), if_pos stage, if_pos due']
    rfl
  obtain ⟨y, found, role⟩ := Hub.setCores_role (h := h.tick) (f := fun c => { c with stage := 2 }) there (g := h.failoverBeat d u) (by
    rw [run]
    dsimp only
    split
    · rw [Hub.settleRunning_duties, Hub.handAgain_duties]
    · rfl)
  refine ⟨_, y, rfl, found, role, fun leads z r works settles => ?_⟩
  rw [run]
  dsimp only
  rw [if_pos leads]
  exact Hub.handAgain_settles (h := h.tick.setCores d fun c => { c with stage := 2 }) works settles d

theorem Hub.failoverBeat_waits (stage : x.cores.stage = 1)
    (early : ¬(Config.failoverStep (h.fresh + 1) = true ∨ u + 5000000 ≤ h.clk.elapsed + 500000)) : h.failoverBeat d u = h.tick := by
  have early' : h.tick.failoverDue u 5000000 = false := by simpa [Hub.failoverDue, Hub.tick] using early
  unfold Hub.failoverBeat
  rw [Hub.die_of_getElem? there]
  dsimp only
  rw [if_neg (by omega), if_pos stage, if_neg (ne_true_of_eq_false early')]

theorem Hub.failoverBeat_ends (stage : 2 ≤ x.cores.stage)
    (due : Config.failoverStep (h.fresh + 1) = true ∨ u + 35000000 ≤ h.clk.elapsed + 500000) :
    ∃ y, (h.failoverBeat d u).dies[d]? = some y ∧ y.cores.role = { x.cores.role with declaredAt := none, stage := 0 } := by
  have due' : h.tick.failoverDue u 35000000 = true := by simpa [Hub.failoverDue, Hub.tick] using due
  unfold Hub.failoverBeat
  rw [Hub.die_of_getElem? there]
  dsimp only
  rw [if_neg (by omega), if_neg (by omega), if_pos due']
  have same : (if d = h.tick.boot.lead then h.tick.gapEnds x.cores.gapFrom else h.tick).dies[d]? = some x := by split <;> exact there
  refine Hub.setCores_role (f := fun c => { c with declaredAt := none, stage := 0 }) same ?_
  exact Hub.event_duties ..

theorem Hub.failoverBeat_goesOn (stage : 2 ≤ x.cores.stage)
    (early : ¬(Config.failoverStep (h.fresh + 1) = true ∨ u + 35000000 ≤ h.clk.elapsed + 500000)) : h.failoverBeat d u = h.tick := by
  have early' : h.tick.failoverDue u 35000000 = false := by simpa [Hub.failoverDue, Hub.tick] using early
  unfold Hub.failoverBeat
  rw [Hub.die_of_getElem? there]
  dsimp only
  rw [if_neg (by omega), if_neg (by omega), if_neg (ne_true_of_eq_false early')]
end

/-! ## SENTINEL_PERIOD (R415, R417) -/

section
variable {h : Hub} {d : Nat} (lt : d < h.nDies) (runs : h.coreRuns d = true) (noDrill : (h.die d).cores.drillAt = none)
  (calm : (h.die d).cores.declaredAt = none)
include lt runs noDrill calm

theorem Hub.sentinelPeriod_eq : h.sentinelPeriod d =
    let c := (h.die d).cores
    if c.beat then h.setCores d fun c => { c with beat := false, missed := 0, hbOk := true }
    else if c.missed + 1 < 8 then h.setCores d fun c => { c with missed := c.missed + 1 }
    else if c.noStandby ∨ c.standbyFailed ∨ c.copy.isNone then (h.setCores d fun c => { c with missed := 0, gapFrom := c.lastBeat }).freeze d
    else
      let h := h.setCores d fun c =>
        { c with missed := 0, hbOk := false, onB := !c.onB, noStandby := true, declaredAt := some h.clk.elapsed, stage := 0,
                 gapFrom := c.lastBeat }
      ({ h with flt := { h.flt with failovers := satInc 6 h.flt.failovers } }).raise 7 :=
  if_neg (by simp [lt, runs, noDrill, calm])

variable (silent : (h.die d).cores.beat = false) (many : 7 ≤ (h.die d).cores.missed)
include silent many

theorem Hub.sentinelPeriod_declares {x : Die} (there : h.dies[d]? = some x) (standby : x.cores.noStandby = false)
    (sound : x.cores.standbyFailed = false) (copy : x.cores.copy.isSome = true) : ∃ g y, h.sentinelPeriod d = g ∧ g.dies[d]? = some y ∧
      y.cores = { x.cores with missed := 0, hbOk := false, onB := !x.cores.onB, noStandby := true, declaredAt := some h.clk.elapsed, stage := 0,
                               gapFrom := x.cores.lastBeat } ∧
      y.frozen = x.frozen ∧ g.flt.failovers = satInc 6 h.flt.failovers ∧ g.dbw.irq = h.dbw.irq ||| 0x80 := by
  have run := Hub.sentinelPeriod_eq lt runs noDrill calm
  dsimp only at run
  rw [if_neg (ne_true_of_eq_false silent), if_neg (by omega), Hub.die_of_getElem? there, if_neg (by
    cases some' : x.cores.copy <;> simp_all)] at run
  have found := Hub.setCores_there there fun c => { c with
    missed := 0, hbOk := false, onB := !c.onB, noStandby := true, declaredAt := some h.clk.elapsed, stage := 0, gapFrom := c.lastBeat }
  exact ⟨_, _, run, found, rfl, rfl, rfl, rfl⟩

theorem Hub.sentinelPeriod_freezes {x : Die} (there : h.dies[d]? = some x)
    (alone : x.cores.noStandby = true ∨ x.cores.standbyFailed = true ∨ x.cores.copy = none) :
    ∃ y, (h.sentinelPeriod d).dies[d]? = some y ∧ y.frozen = true ∧ y.cores.onB = x.cores.onB := by
  have run := Hub.sentinelPeriod_eq lt runs noDrill calm
  dsimp only at run
  rw [if_neg (ne_true_of_eq_false silent), if_neg (by omega), Hub.die_of_getElem? there, if_pos (by simpa using alone)] at run
  rw [run]
  obtain ⟨y, found, frozen, -, onB⟩ := Hub.freeze_left (Hub.setCores_there there _)
  exact ⟨y, found, frozen, onB⟩
end

/-! ## Drills (R423) -/

section
variable {h : Hub} {d : Nat} {x : Die} (there : h.dies[d]? = some x)
include there

/-- The next die of a drill leaves one that has no part in it as it is. -/
theorem Hub.drillNext_other (no : x.cores.drill = false) : ∃ y, h.drillNext.dies[d]? = some y ∧ y.duty = x.duty := by
  have same {g : Hub} (keeps : g.duties = h.duties) : ∃ y, g.dies[d]? = some y ∧ y.duty = x.duty := Hub.duty_of_duties keeps there
  unfold Hub.drillNext
  split
  · exact same rfl
  · extract_lets waits others
    split
    · next e l first =>
      have waiting : e ∈ waits := by
        have mem : e ∈ others ++ waits.filter (· == h.boot.lead) := first ▸ List.mem_cons_self
        obtain mem | mem := List.mem_append.1 mem
        · exact (List.mem_filter.1 mem).1
        · exact (List.mem_filter.1 mem).1
      have other : e ≠ d := by
        rintro rfl
        have drills := (List.mem_filter.1 waiting).2
        rw [Hub.die_of_getElem? there, no] at drills
        cases drills
      obtain ⟨y, found, duty⟩ := same (h.saveCkpt_duties e)
      refine ⟨y, Eq.trans ?_ found, duty⟩
      exact List.getElem?_modify_ne _ _ other
    · split
      · exact same (Hub.planeDone_duties _ _ _)
      · exact same rfl

theorem Hub.heartbeat_drilled {u : Nat} (runs : h.coreRuns d = true) (lt : d < h.nDies) (drill : x.cores.drillAt = some u) :
    ∃ y, (h.heartbeat d).dies[d]? = some y ∧ y.cores.onB = !x.cores.onB ∧ y.cores.drill = false ∧ y.cores.drillAt = none ∧
      y.cores.standbyFailed = x.cores.standbyFailed := by
  obtain ⟨y, found, cores, -⟩ := Hub.crossEvent_there there 9 381
  obtain ⟨z, there', beats⟩ := Hub.beaten_there there
  have run : h.heartbeat d =
      let g := (h.beaten d).setCores d fun c => { c with onB := !c.onB, drill := false, drillAt := none }
      let g := if d = g.boot.lead then (g.restoreFrom d).gapEnds u else g
      (g.notice (unitCore d (if (g.die d).cores.onB then 1 else 0)) 0x0F0A (argN (usOf (h.clk.elapsed - u))) 0).drillNext := by
    unfold Hub.heartbeat
    rw [if_neg (by simp [runs, lt])]
    dsimp only
    rw [Hub.die_of_getElem? found, cores, drill]
    rfl
  rw [run]
  extract_lets g1 g2
  have duties : (g2.notice (unitCore d (if (g2.die d).cores.onB then 1 else 0)) 0x0F0A (argN (usOf (h.clk.elapsed - u))) 0).duties =
      g1.duties := by
    rw [Hub.notice_duties]
    exact ite_keeps Hub.duties (by rw [Hub.gapEnds_duties, Hub.restoreFrom_duties]) rfl
  obtain ⟨w, found', role⟩ := Hub.setCores_role there' duties
  have noDrill : w.cores.drill = false := (congrArg Cores.drill role :)
  obtain ⟨v, last, duty⟩ := Hub.drillNext_other found' noDrill
  have role' := (Die.role_of_duty duty).trans role
  rw [beats] at role'
  exact ⟨v, last, (congrArg Cores.onB role' :), (congrArg Cores.drill role' :), (congrArg Cores.drillAt role' :),
    (congrArg Cores.standbyFailed role' :)⟩

/-- The standby of a drill has been silent for 35 ms (R423). -/
theorem Hub.standbyTimeout_drilled {u : Nat} (drill : x.cores.drillAt = some u) (late : u + 35000000 ≤ h.clk.elapsed) :
    ∃ y, (h.standbyTimeout d).dies[d]? = some y ∧ y.cores.standbyFailed = true ∧ y.cores.drillAt = none ∧ y.cores.drill = false ∧
      y.cores.onB = x.cores.onB ∧ y.frozen = x.frozen := by
  have run : h.standbyTimeout d =
      let g := h.setCores d fun c => { c with drill := false, drillAt := none, standbyFailed := true, beat := false, missed := 0 }
      let e := g.event (unitCore d x.cores.other) 0x0F09 2 1 0 0
      let k := if d = e.boot.lead then (e.restoreFrom d).gapEnds u else e
      let m : Hub := { k with flt := { k.flt with drill := k.flt.drill.map fun (x : Option Word × Nat) => (x.1, St.fault) } }
      m.drillNext := by
    unfold Hub.standbyTimeout
    dsimp only
    rw [Hub.die_of_getElem? there, drill]
    exact if_neg (by omega)
  rw [run]
  extract_lets g1 g2 g3 k g4
  have duties : g4.duties = g1.duties := by
    refine Eq.trans (b := g3.duties) rfl ((ite_keeps Hub.duties ?_ rfl).trans (Hub.event_duties ..))
    rw [Hub.gapEnds_duties, Hub.restoreFrom_duties]
  obtain ⟨w, found, same⟩ := Hub.duty_of_duties duties (Hub.setCores_there there fun c =>
    { c with drill := false, drillAt := none, standbyFailed := true, beat := false, missed := 0 })
  have role := Die.role_of_duty same
  obtain ⟨v, last, duty⟩ := Hub.drillNext_other found (congrArg Cores.drill role :)
  have role' := (Die.role_of_duty duty).trans role
  exact ⟨v, last, (congrArg Cores.standbyFailed role' :), (congrArg Cores.drillAt role' :), (congrArg Cores.drill role' :),
    (congrArg Cores.onB role' :), (Die.frozen_of_duty duty).trans (Die.frozen_of_duty same :)⟩

theorem Hub.standbyTimeout_failed {u : Nat} (noDrill : x.cores.drillAt = none) (declared : x.cores.declaredAt = some u)
    (late : u + 35000000 ≤ h.clk.elapsed) : ∃ y, (h.standbyTimeout d).dies[d]? = some y ∧ y.frozen = true ∧ y.cores.declaredAt = none ∧
      y.cores.onB = !x.cores.onB := by
  unfold Hub.standbyTimeout
  dsimp only
  rw [Hub.die_of_getElem? there, noDrill, declared]
  dsimp only
  rw [if_neg (by omega)]
  exact Hub.freeze_left (Hub.setCores_there there _)
end

theorem Hub.standbyTimeout_idle {h : Hub} {d : Nat} (noDrill : (h.die d).cores.drillAt = none) (calm : (h.die d).cores.declaredAt = none) :
    h.standbyTimeout d = h := by
  unfold Hub.standbyTimeout
  dsimp only
  rw [noDrill, calm]

theorem Hub.standbyTimeout_early {h : Hub} {d u : Nat} (waits : (h.die d).cores.drillAt = some u ∨
    ((h.die d).cores.drillAt = none ∧ (h.die d).cores.declaredAt = some u)) (early : h.clk.elapsed < u + 35000000) :
    h.standbyTimeout d = h := by
  unfold Hub.standbyTimeout
  dsimp only
  obtain drill | ⟨noDrill, declared⟩ := waits
  · rw [drill]
    exact if_pos early
  · rw [noDrill, declared]
    exact if_pos early

/-! ## Checkpoints (R416) -/

/-- The checkpoint that a die's core writes. -/
def Hub.nextCkpt (h : Hub) (d : Nat) : Ckpt :=
  let gen := (h.die d).cores.ckpt.gen + 1
  if d = h.boot.lead then ⟨gen, h.mgmt.cache, h.mgmt.actions.map Action.id, h.mgmt.nextAction⟩ else ⟨gen, [], [], 1⟩

theorem Hub.nextCkpt_gen (h : Hub) (d : Nat) : (h.nextCkpt d).gen = (h.die d).cores.ckpt.gen + 1 := ite_keeps Ckpt.gen rfl rfl

theorem Hub.saveCkpt_there {h : Hub} {d : Nat} {x : Die} (there : h.dies[d]? = some x) :
    (h.saveCkpt d).dies[d]? = some { x with cores := x.cores.save (h.nextCkpt d) (h.mgmt.started.map Request.order) } :=
  Hub.setDie_getElem?_same there _

theorem Cores.save_through {k : Cores} {c : Ckpt} {started : List Nat} : ∀ y ∈ (k.save c started).through, y ∈ k.through ∧ ∃ n, y = .commit n := by
  intro y mem
  obtain ⟨here, kept⟩ := List.mem_filter.1 mem
  cases y with
  | commit n => exact ⟨here, n, rfl⟩
  | cache e => cases kept
  | handed => cases kept
  | action id => cases kept

/-! ## MC_DRILL (R423) -/

/-- The dies that wait in a drill. -/
def Hub.drillWaits (h : Hub) : List Nat := (List.range h.nDies).filter fun d => (h.die d).cores.drill

/-- Those, the lead last. -/
def Hub.drillers (h : Hub) : List Nat := h.drillWaits.filter (· != h.boot.lead) ++ h.drillWaits.filter (· == h.boot.lead)

theorem Hub.mem_drillers {h : Hub} {d : Nat} : d ∈ h.drillers ↔ d < h.nDies ∧ (h.die d).cores.drill = true := by
  simp only [Hub.drillers, Hub.drillWaits, List.mem_append, List.mem_filter, List.mem_range, bne_iff_ne, beq_iff_eq]
  tauto

theorem Hub.drillers_head {h : Hub} {d : Nat} {l : List Nat} (first : h.drillers = d :: l) (other : ∃ e ∈ h.drillers, e ≠ h.boot.lead) :
    d ≠ h.boot.lead := by
  obtain ⟨e, mem, ne⟩ := other
  unfold Hub.drillers at first mem
  have waiting : e ∈ h.drillWaits.filter (· != h.boot.lead) := by
    obtain mem | mem := List.mem_append.1 mem
    · exact mem
    · exact absurd (by simpa using (List.mem_filter.1 mem).2) ne
  cases others : h.drillWaits.filter (· != h.boot.lead) with
  | nil => rw [others] at waiting; cases waiting
  | cons a m =>
    rw [others, List.cons_append, List.cons.injEq] at first
    have mem : a ∈ h.drillWaits.filter (· != h.boot.lead) := others ▸ List.mem_cons_self
    rw [← first.1]
    simpa using (List.mem_filter.1 mem).2

theorem Hub.drillNext_first {h : Hub} {u : Option Word × Nat} (drill : h.flt.drill = some u) {d : Nat} {l : List Nat}
    (first : h.drillers = d :: l) :
    h.drillNext = ((h.saveCkpt d).setCores d fun c => { c with drillAt := some h.clk.elapsed }).raise 7 := by
  unfold Hub.drillNext
  rw [drill]
  dsimp only
  unfold Hub.drillers Hub.drillWaits at first
  rw [first]

section
variable {h : Hub} {dies : List Nat}

/-- The dies that an MC_DRILL names, each with its part in it. -/
def Hub.drilling (h : Hub) (dies : List Nat) : Hub :=
  { h with flt := { h.flt with drill := some (none, St.ok) },
           dies := modAll h.dies (h.named dies) fun _ x => { x with cores := { x.cores with drill := true } } }

theorem Hub.mcDrill_runs (up : NamedUp h dies)
    (stands : ∀ i ∈ h.named dies, ¬((h.die i).cores.standbyFailed = true ∨ (h.die i).cores.noStandby = true)) :
    h.mcDrill dies none = (h.drilling dies).drillNext.ok [] := by
  unfold Hub.mcDrill
  rw [Hub.onMask_runs up]
  · dsimp only
    refine congrArg (fun g : Hub => g.drillNext.ok []) ?_
    exact forAll_setDie (f := fun x => { x with cores := { x.cores with drill := true } }) (fun _ => rfl) _ _
  · intro d named
    have down := (up.2 d named).2
    unfold Hub.dieDown at down
    have bars := stands d named
    rw [if_neg]
    simp only [Bool.or_eq_false_iff] at down
    simp_all

theorem Hub.drilling_there (up : NamedUp h dies) {d : Nat} (named : d ∈ h.named dies) :
    (h.drilling dies).dies[d]? = some { h.die d with cores := { (h.die d).cores with drill := true } } := by
  refine (modAll_getElem? ..).trans ?_
  rw [NamedUp.there up named]
  simp [named]

theorem Hub.drilling_drill (shaped : Shaped h) (none' : ∀ x ∈ h.dies, x.cores.drill = false) {j : Nat} (lt : j < h.nDies) :
    ((h.drilling dies).die j).cores.drill = true ↔ j ∈ h.named dies := by
  obtain ⟨-, -, length, -⟩ := shaped
  have there : h.dies[j]? = some h.dies[j] := List.getElem?_eq_getElem (length ▸ lt)
  have found : (h.drilling dies).dies[j]? = some _ := (modAll_getElem? ..).trans (congrArg _ there)
  rw [Hub.die_of_getElem? found]
  have no := none' h.dies[j] (List.getElem_mem _)
  by_cases named : j ∈ h.named dies <;> simp [named, no]
end

theorem Hub.mcDrill_first {h : Hub} {dies : List Nat} (up : NamedUp h dies) (none' : ∀ x ∈ h.dies, x.cores.drill = false)
    (stands : ∀ i ∈ h.named dies, ¬((h.die i).cores.standbyFailed = true ∨ (h.die i).cores.noStandby = true)) :
    ∃ g i x, h.mcDrill dies none = g ∧ g.mgmt.reply = ⟨St.ok, 0, 255, []⟩ ∧ g.flt.drill = some (none, 0) ∧ i ∈ h.named dies ∧
      ((∃ j ∈ h.named dies, j ≠ h.boot.lead) → i ≠ h.boot.lead) ∧ g.dies[i]? = some x ∧ x.cores.drillAt = some h.clk.elapsed ∧
      x.cores.pointer = (!(h.die i).cores.pointer) ∧ ∀ j < h.nDies, ((g.die j).cores.drill = true ↔ j ∈ h.named dies) := by
  have drills {j : Nat} (lt : j < h.nDies) := Hub.drilling_drill (dies := dies) up.1 none' lt
  have waiting {j : Nat} : j ∈ (h.drilling dies).drillers ↔ j ∈ h.named dies := by
    rw [Hub.mem_drillers]
    exact ⟨fun ⟨lt, drill⟩ => (drills lt).1 drill, fun named => ⟨(up.2 j named).1, (drills (up.2 j named).1).2 named⟩⟩
  cases first : (h.drilling dies).drillers with
  | nil =>
    obtain ⟨j, named⟩ := List.exists_mem_of_ne_nil _ (h.named_ne_nil dies)
    have mem := waiting.2 named
    rw [first] at mem
    cases mem
  | cons i l =>
    have named : i ∈ h.named dies := waiting.1 (first ▸ List.mem_cons_self)
    have run := (Hub.mcDrill_runs up stands).trans (congrArg (Hub.ok · []) (Hub.drillNext_first rfl first))
    have there := Hub.setCores_there (Hub.saveCkpt_there (Hub.drilling_there up named)) fun c => { c with drillAt := some h.clk.elapsed }
    refine ⟨_, i, _, run, rfl, rfl, named, fun ⟨j, mem, ne⟩ => ?_, there, rfl, rfl, fun j lt => ?_⟩
    · exact Hub.drillers_head (h := h.drilling dies) first ⟨j, waiting.2 mem, ne⟩
    · refine Iff.trans (Eq.to_iff (congrArg (· = true) ?_)) (drills lt)
      have saved := ((h.drilling dies).saveCkpt i).setDie_die_view i j (view := fun x => x.cores.drill) (f := fun x =>
        { x with cores := { x.cores with drillAt := some h.clk.elapsed } }) (by intro; rfl)
      exact saved.trans ((h.drilling dies).setDie_die_view i j (view := fun x => x.cores.drill) (by intro; rfl))

theorem Hub.mcDrill_absent {h : Hub} {dies : List Nat} (absent : ∃ i ∈ h.named dies, h.nDies ≤ i) (id : Option Word) :
    h.mcDrill dies id = h.refuse St.badArg := by
  unfold Hub.mcDrill Hub.onMask
  exact Hub.overMask_absent absent _ _ _

/-- Where no die named can serve, or stands by, the lowest that cannot, or one that has no standby, answers FAULT. -/
theorem Hub.mcDrill_faults {h : Hub} {dies : List Nat} (present : ∀ i ∈ h.named dies, i < h.nDies)
    (fails : ∃ i ∈ h.named dies, h.dieDown i = true ∨ (h.die i).cores.standbyFailed = true ∨ (h.die i).cores.noStandby = true) :
    ∃ i ∈ h.named dies, (h.dieDown i = true ∨ (h.die i).cores.standbyFailed = true ∨ (h.die i).cores.noStandby = true) ∧
      h.mcDrill dies none = h.refuseDie St.fault i := by
  obtain ⟨-, d, named, beyond⟩ | ⟨-, ⟨d, least, refused⟩ | ⟨noneDown, ⟨d, named, e, check, refused⟩ | ⟨passes, -⟩⟩⟩ :=
    h.overMask_cases h.dieDown dies (fun d => if (h.die d).frozen = true ∨ (h.die d).cores.standbyFailed = true ∨
      (h.die d).cores.noStandby = true then some St.fault else none) fun ds =>
      let h := { h with flt := { h.flt with drill := some (none, St.ok) } }
      ((forAll ds (fun d h => h.setCores d fun c => { c with drill := true }) h).drillNext).ok []
  · exact absurd (present d named) (Nat.not_lt.2 beyond)
  · obtain ⟨named, down⟩ := List.mem_filter.1 (List.min?_mem least)
    exact ⟨d, named, .inl down, refused⟩
  · by_cases bars : (h.die d).frozen = true ∨ (h.die d).cores.standbyFailed = true ∨ (h.die d).cores.noStandby = true
    · rw [if_pos bars] at check
      obtain rfl := Option.some.inj check
      exact ⟨d, named, bars.imp_left fun frozen => by simp [Hub.dieDown, frozen], refused⟩
    · rw [if_neg bars] at check
      cases check
  · obtain ⟨i, named, down | bars⟩ := fails
    · exact absurd down (List.filter_eq_nil_iff.1 (List.min?_eq_none_iff.1 noneDown) i named)
    · have passed := passes i named
      rw [if_pos (.inr bars)] at passed
      cases passed

/-! ## The sentinel's copies, and the skew of a die (R414, R425) -/

theorem Hub.sentVote_runs {h : Hub} {copy : Nat} (lt : copy < 3) : ∃ g, h.sentVote copy = g ∧
    g.flt = { h.flt with votes := h.flt.votes.modify copy fun _ => true } ∧ (h.hk.dropped = 0 → g.hk.rseq = h.hk.rseq + 1) := by
  refine ⟨_, if_neg (by omega), Hub.notice_flt .., fun kept => ?_⟩
  exact Hub.notice_rseq_of (h := h) (g := { h with flt := { h.flt with votes := modAt h.flt.votes copy fun _ => true } }) rfl kept ..

/-- The skew of a hub's dies. -/
def Hub.skews (h : Hub) := h.dies.map fun x => (x.skewPs, x.skewTake)

theorem Hub.tiuEdge_skews (h : Hub) (d n : Nat) : (h.tiuEdge d n).skews = h.skews ∧ (h.tiuEdge d n).hk = h.hk := by
  unfold Hub.tiuEdge
  split
  · exact ⟨map_modAt_of_keeps (by intro; rfl) _ _, rfl⟩
  · exact ⟨rfl, rfl⟩

/-- The skew that a comparison leaves of one. -/
def skewNext (was diff : Int) : Int := if decide (2000 < diff.natAbs) then diff else if diff.natAbs ≤ 30 then 0 else if was = 0 then 0 else diff

section
variable {h : Hub} {d : Nat} {x : Die} (there : h.dies[d]? = some x) (up : x.inService = true) (follows : d ≠ h.boot.lead) (lt : d < h.nDies)
include there up follows lt

theorem Hub.timeSkew_runs (diff : Int) : ∃ k y, k.dies[d]? = some y ∧ y.skewPs = skewNext x.skewPs diff ∧
    y.skewTake = (decide (2000 < diff.natAbs) || (x.skewTake && skewNext x.skewPs diff != 0)) ∧ k.hk = h.hk ∧
    (skewNext x.skewPs diff ≠ 0 → k.tm.skew = true) ∧
    h.timeSkew d diff = if decide (2000 < diff.natAbs) && x.skewPs == 0 then k.notice (unitDie d) 0x0F0C (argI diff) 0 else k := by
  unfold Hub.timeSkew
  rw [if_neg (by simp [Hub.die_of_getElem? there, up, follows, lt])]
  extract_lets h1 was bad next h2 h3
  have skews : h1.skews = h.skews := forAll_keeps Hub.skews _ (fun n g => (g.tiuEdge_skews d n).1) _ _
  have hk : h1.hk = h.hk := forAll_keeps Hub.hk _ (fun n g => (g.tiuEdge_skews d n).2) _ _
  clear_value h1
  obtain ⟨z, found, skew⟩ := getElem?_of_map skews there
  simp only [Prod.mk.injEq] at skew
  obtain ⟨skewPs, skewTake⟩ := skew
  have same : was = x.skewPs := by
    unfold was
    rw [Hub.die_of_getElem? found, skewPs]
  have value : next = skewNext x.skewPs diff := by
    unfold next
    rw [same]
    rfl
  have there2 := Hub.setDie_getElem?_same found fun x =>
      { x with skewPs := next, skewTake := bad || (x.skewTake && next != 0),
               skewFrom := if next = 0 then none else x.skewFrom.map fun _ => h1.clk.elapsed }
  refine ⟨h3, _, there2, value, ?_, hk, fun nonzero => ?_, ?_⟩
  · dsimp only
    rw [skewTake, value]
  · refine List.any_eq_true.2 ⟨_, List.mem_of_getElem? there2, ?_⟩
    simpa [value] using nonzero
  · rw [same]

theorem Hub.timeSkew_left (diff : Int) : ∃ g y, h.timeSkew d diff = g ∧ g.dies[d]? = some y ∧ y.skewPs = skewNext x.skewPs diff ∧
    y.skewTake = (decide (2000 < diff.natAbs) || (x.skewTake && skewNext x.skewPs diff != 0)) ∧
    (skewNext x.skewPs diff ≠ 0 → g.tm.skew = true) ∧
    (2000 < diff.natAbs → x.skewPs = 0 → h.hk.dropped = 0 → g.hk.rseq = h.hk.rseq + 1) ∧
    ((diff.natAbs ≤ 2000 ∨ x.skewPs ≠ 0) → g.hk = h.hk) := by
  obtain ⟨k, y, found, skew, take, hk, tm, run⟩ := Hub.timeSkew_runs there up follows lt diff
  by_cases notes : 2000 < diff.natAbs ∧ x.skewPs = 0
  · obtain ⟨far, zero⟩ := notes
    rw [if_pos (by simp [far, zero])] at run
    obtain ⟨z, found', core⟩ := getElem?_of_map (Hub.notice_dieCores k (unitDie d) 0x0F0C (argI diff) 0) found
    refine ⟨_, z, run, found', (congrArg Die.skewPs core :).trans skew, (congrArg Die.skewTake core :).trans take, fun nonzero => ?_,
      fun _ _ kept => Hub.notice_rseq_of hk kept .., fun calm => ?_⟩
    · rw [Hub.notice_tm]
      exact tm nonzero
    · exact absurd calm (by simp [far, zero])
  · rw [if_neg (by simpa using notes)] at run
    exact ⟨_, y, run, found, skew, take, tm, fun far zero => absurd ⟨far, zero⟩ notes, fun _ => hk⟩

end

end Sys2Proof.Machine
open Sys2Proof Sys2Proof.Machine

/-- Settles O47, clause by clause: what a die's loss and return leave, what each beat, period and time-out of the sentinel does, and what a
drill begins with. That a die whose standby holds no verified copy has no standby, and that the start-up check comes at core B's first beat,
is log entry 79 (DEDUCED; see also 150); that core B takes its steps at its beats, and takes intake up again at the last, is log entry 170
(DESIGN CHOICE). -/
theorem dieLossAndFailover : Obligations.DieLossAndFailover := by
  unfold Obligations.DieLossAndFailover
  have dieAt {h : Hub} (shaped : Shaped h) {d : Nat} (lt : d < h.nDies) : h.dies[d]? = some (h.die d) := by
    obtain ⟨-, -, length, -⟩ := shaped
    rw [Hub.die, List.getD_eq_getElem?_getD, List.getElem?_eq_getElem (length ▸ lt)]
    rfl
  refine ⟨fun s d cause passed => ?_, fun s d => ?_, fun s d copy diff dies => ?_⟩
  · intro now last
    refine ⟨fun absent => ?_, fun shaped lt up => ?_, fun none' => ?_, fun u k shaped lt waits pass soon => ?_, fun u k shaped lt waits bad => ?_⟩
    · exact next_same (if_pos (by simpa using absent))
    · have there := dieAt shaped lt
      by_cases first : ∀ u, last = some u → u + 86400000000000 ≤ now
      · obtain ⟨y, left⟩ := Hub.dieFault_first there lt up (cause := cause) first
        refine ⟨⟨_, s.pending⟩, y, rfl, left.there, left.out, left.faulted, left.at', left.still, fun _ => ⟨left.restarts, left.retired⟩,
          fun u second soon => ?_, left.lead⟩
        exact absurd soon (Nat.not_lt.2 (first u second))
      · simp only [not_forall, Nat.not_le] at first
        obtain ⟨u, second, soon⟩ := first
        obtain ⟨y, left⟩ := Hub.dieFault_second there lt up (cause := cause) second soon
        refine ⟨⟨_, s.pending⟩, y, rfl, left.there, left.out, left.faulted, left.at', left.still, fun late => ?_,
          fun _ _ _ => ⟨left.restarts, left.retired⟩, left.lead⟩
        exact absurd soon (Nat.not_lt.2 (late u second))
    · refine next_same ?_
      dsimp only
      unfold Hub.dieRestart
      rw [none']
    · subst pass
      obtain ⟨g, y, run, left⟩ := Hub.dieRestart_back (dieAt shaped lt) waits soon
      exact ⟨⟨g, s.pending⟩, y, next_congr run, left⟩
    · obtain ⟨g, y, run, left⟩ := Hub.dieRestart_fails (dieAt shaped lt) waits bad
      exact ⟨⟨g, s.pending⟩, y, next_congr run, left⟩
  · intro c now beats due starts declared
    refine ⟨fun idle => ⟨?_, ?_, ?_⟩, fun busy => ?_, fun declared' => ?_, fun shaped lt runs => ⟨fun noDrill calm => ⟨fun plain => ?_,
      fun leads => ?_,
      fun beat => ?_, fun silent few => ?_, fun silent many standby sound copy => ?_, fun silent many alone => ?_⟩, fun calm => ?_,
      fun u noDrill declared' => ?_, fun u drill => ?_⟩, fun noDrill calm => ?_, fun u waits early => ?_, fun u shaped lt drill late => ?_,
      fun u shaped lt noDrill declared' late => ?_⟩
    · exact next_same (if_pos (by simpa using idle))
    · exact next_same (if_pos (idle.imp_right fun off => .inl (by simp [off])))
    · exact next_same (if_pos (idle.imp_right fun off => .inl (by simp [off])))
    · exact next_same (if_pos (.inr (.inr busy)))
    · exact next_same (if_pos (.inr (.inr declared')))
    · refine next_congr ((Hub.heartbeat_calm (dieAt shaped lt) runs lt noDrill calm).trans ?_)
      obtain other | all := plain
      · exact if_neg other
      · exact ite_keeps id (Hub.markHanded_all all) rfl
    · have run : s.hub.heartbeat d = (s.hub.beaten d).markHanded := (Hub.heartbeat_calm (dieAt shaped lt) runs lt noDrill calm).trans (if_pos leads)
      obtain ⟨y, found, cores⟩ := Hub.beaten_there (dieAt shaped lt)
      obtain ⟨z, last, duty⟩ := Hub.duty_of_duties (Hub.markHanded_duties (s.hub.beaten d)) found
      have role := Die.role_of_duty duty
      rw [cores] at role
      exact ⟨⟨_, s.pending⟩, z, next_congr run, last, ⟨(congrArg Cores.beat role :), (congrArg Cores.missed role :), (congrArg Cores.hbOk role :),
        (congrArg Cores.lastBeat role :)⟩, Hub.markHanded_mgmt _⟩
    · exact next_congr ((Hub.sentinelPeriod_eq lt runs noDrill calm).trans (if_pos beat))
    · exact next_congr ((Hub.sentinelPeriod_eq lt runs noDrill calm).trans ((if_neg (ne_true_of_eq_false silent)).trans
        (if_pos (Nat.succ_lt_succ few))))
    · obtain ⟨g, y, run, found, cores, frozen, left⟩ :=
        Hub.sentinelPeriod_declares lt runs noDrill calm silent many (dieAt shaped lt) standby sound copy
      have up : (s.hub.die d).frozen = false := by
        unfold Hub.coreRuns at runs
        simp only [Bool.and_eq_true, Bool.not_eq_true'] at runs
        exact runs.2
      exact ⟨⟨g, s.pending⟩, y, next_congr run, found, cores, frozen.trans up, left⟩
    · obtain ⟨y, found, frozen, onB⟩ := Hub.sentinelPeriod_freezes lt runs noDrill calm silent many (dieAt shaped lt) alone
      exact ⟨⟨_, s.pending⟩, y, rfl, found, frozen, onB⟩
    · have there := Hub.saveCkpt_there (dieAt shaped lt)
      have run : s.hub.checkpoint d = s.hub.saveCkpt d := if_neg (by simpa [lt, runs] using calm)
      refine ⟨⟨_, s.pending⟩, _, next_congr run, there, rfl, ⟨s.hub.nextCkpt d, rfl, s.hub.nextCkpt_gen d, fun leads => ?_⟩,
        Cores.save_through, fun i other => ?_⟩
      · unfold Hub.nextCkpt
        rw [if_pos leads]
        exact ⟨rfl, rfl, rfl⟩
      · exact List.getElem?_modify_ne _ _ (Ne.symm other)
    · have run := Hub.heartbeat_fails (dieAt shaped lt) runs lt noDrill declared'
      obtain ⟨y, found, cores⟩ := Hub.beaten_there (dieAt shaped lt)
      have stageAt : y.cores.stage = c.stage := (congrArg Cores.stage cores :)
      have onB : y.cores.onB = c.onB := (congrArg Cores.onB cores :)
      have declaredAt : y.cores.declaredAt = some u := (congrArg Cores.declaredAt cores).trans declared'
      have beaten : beats y.cores := ⟨(congrArg Cores.beat cores :), (congrArg Cores.missed cores :), (congrArg Cores.hbOk cores :),
        (congrArg Cores.lastBeat cores :)⟩
      have carried {k : Cores} (same : k.beat = y.cores.beat ∧ k.missed = y.cores.missed ∧ k.hbOk = y.cores.hbOk ∧
          k.lastBeat = y.cores.lastBeat) : beats k := by
        obtain ⟨beat, missed, ok, last⟩ := same
        obtain ⟨beat', missed', ok', last'⟩ := beaten
        exact ⟨beat.trans beat', missed.trans missed', ok.trans ok', last.trans last'⟩
      obtain zero | one | two : c.stage = 0 ∨ c.stage = 1 ∨ 2 ≤ c.stage := by omega
      · have notOne : c.stage ≠ 1 := by omega
        have notTwo : ¬2 ≤ c.stage := by omega
        cases passes : starts with
        | false =>
          obtain ⟨z, last, frozen, ended, turned⟩ := Hub.failoverBeat_freezes (u := u) found (stageAt.trans zero) (by rw [onB]; exact passes)
          exact ⟨⟨_, s.pending⟩, z, next_congr run, last, fun _ _ => ⟨frozen, ended, turned.trans (by rw [onB])⟩,
            fun on => absurd (on zero) Bool.false_ne_true, fun _ on => absurd on Bool.false_ne_true, fun one => absurd one notOne,
            fun one => absurd one notOne, fun two => absurd two notTwo, fun two => absurd two notTwo⟩
        | true =>
          obtain ⟨z, last, role⟩ := Hub.failoverBeat_starts (u := u) found (stageAt.trans zero) (by rw [onB]; exact passes)
          obtain ⟨beat, side, stage, at'⟩ := Cores.of_role (k := { y.cores with stage := 1 }) role
          exact ⟨⟨_, s.pending⟩, z, next_congr run, last, fun _ off => absurd off.symm Bool.false_ne_true, fun _ => ⟨carried beat, side.trans onB⟩,
            fun _ _ => ⟨stage, at'.trans declaredAt⟩, fun one => absurd one notOne, fun one => absurd one notOne, fun two => absurd two notTwo,
            fun two => absurd two notTwo⟩
      · have notZero : c.stage ≠ 0 := by omega
        have notTwo : ¬2 ≤ c.stage := by omega
        by_cases settles : due u 5000000
        · obtain ⟨g, z, left, last, role, idle⟩ := Hub.failoverBeat_settles found (stageAt.trans one) settles
          obtain ⟨beat, side, stage, at'⟩ := Cores.of_role (k := { y.cores with stage := 2 }) role
          exact ⟨⟨g, s.pending⟩, z, next_congr (run.trans left), last, fun zero => absurd zero notZero, fun _ => ⟨carried beat, side.trans onB⟩,
            fun zero => absurd zero notZero, fun _ _ => ⟨stage, at'.trans declaredAt, idle⟩, fun _ early => absurd settles early,
            fun two => absurd two notTwo, fun two => absurd two notTwo⟩
        · have left := Hub.failoverBeat_waits (u := u) found (stageAt.trans one) settles
          exact ⟨⟨_, s.pending⟩, y, next_congr (run.trans left), found, fun zero => absurd zero notZero, fun _ => ⟨beaten, onB⟩,
            fun zero => absurd zero notZero, fun _ now => absurd now settles, fun _ _ => ⟨stageAt.trans one, declaredAt⟩,
            fun two => absurd two notTwo, fun two => absurd two notTwo⟩
      · have notZero : c.stage ≠ 0 := by omega
        have notOne : c.stage ≠ 1 := by omega
        by_cases ends : due u 35000000
        · obtain ⟨z, last, role⟩ := Hub.failoverBeat_ends (u := u) found (stageAt.symm ▸ two) ends
          obtain ⟨beat, side, stage, at'⟩ := Cores.of_role (k := { y.cores with declaredAt := none, stage := 0 }) role
          exact ⟨⟨_, s.pending⟩, z, next_congr run, last, fun zero => absurd zero notZero, fun _ => ⟨carried beat, side.trans onB⟩,
            fun zero => absurd zero notZero, fun one => absurd one notOne, fun one => absurd one notOne, fun _ _ => ⟨stage, at'⟩,
            fun _ early => absurd ends early⟩
        · have left := Hub.failoverBeat_goesOn (u := u) found (stageAt.symm ▸ two) ends
          exact ⟨⟨_, s.pending⟩, y, next_congr (run.trans left), found, fun zero => absurd zero notZero, fun _ => ⟨beaten, onB⟩,
            fun zero => absurd zero notZero, fun one => absurd one notOne, fun one => absurd one notOne, fun _ now => absurd now ends,
            fun _ _ => ⟨stageAt, declaredAt⟩⟩
    · obtain ⟨y, found, onB, drill', drillAt, failed⟩ := Hub.heartbeat_drilled (dieAt shaped lt) runs lt drill
      exact ⟨⟨_, s.pending⟩, y, rfl, found, onB, drill', drillAt, failed⟩
    · exact next_same (Hub.standbyTimeout_idle noDrill calm)
    · exact next_same (Hub.standbyTimeout_early waits early)
    · obtain ⟨y, left⟩ := Hub.standbyTimeout_drilled (dieAt shaped lt) drill late
      exact ⟨⟨_, s.pending⟩, y, rfl, left⟩
    · obtain ⟨y, left⟩ := Hub.standbyTimeout_failed (dieAt shaped lt) noDrill declared' late
      exact ⟨⟨_, s.pending⟩, y, rfl, left⟩
  · intro now bars
    refine ⟨fun absent => ?_, fun present fails => ?_, fun up none' stands some' => ?_, fun high => ?_, fun low => ?_, fun stays => ?_,
      fun shaped lt follows up => ⟨fun far => ?_, fun near => ?_, fun mid1 mid2 => ?_⟩⟩
    · exact next_congr (Hub.mcDrill_absent absent _)
    · obtain ⟨i, named, bad, run⟩ := Hub.mcDrill_faults present fails
      exact ⟨i, named, bad, next_congr run⟩
    · obtain ⟨g, i, x, run, left⟩ := Hub.mcDrill_first up none' stands
      exact ⟨⟨g, s.pending⟩, i, x, next_congr run, left⟩
    · exact next_same (if_pos high)
    · obtain ⟨g, run, left⟩ := s.hub.sentVote_runs low
      exact ⟨⟨g, s.pending⟩, next_congr run, left⟩
    · refine next_same (if_pos ?_)
      obtain leads | beyond | out := stays
      · exact .inr (.inl leads)
      · exact .inl beyond
      · simp [out]
    · obtain ⟨g, y, run, found, skew, take, tm, notes, still⟩ := Hub.timeSkew_left (dieAt shaped lt) up follows lt diff
      have next : skewNext (s.hub.die d).skewPs diff = diff := if_pos (decide_eq_true far)
      rw [next] at skew tm
      exact ⟨⟨g, s.pending⟩, y, next_congr run, found, skew, take.trans (by simp [far]), tm (by rintro rfl; simp at far),
        notes far, fun moved => still (.inr moved)⟩
    · obtain ⟨g, y, run, found, skew, take, tm, notes, still⟩ := Hub.timeSkew_left (dieAt shaped lt) up follows lt diff
      have next : skewNext (s.hub.die d).skewPs diff = 0 := by
        unfold skewNext
        rw [if_neg (by simp; omega), if_pos near]
      rw [next] at skew take
      exact ⟨⟨g, s.pending⟩, y, next_congr run, found, skew, take.trans (by simp; omega), still (.inl (near.trans (by decide)))⟩
    · obtain ⟨g, y, run, found, skew, take, tm, notes, still⟩ := Hub.timeSkew_left (dieAt shaped lt) up follows lt diff
      refine ⟨⟨g, s.pending⟩, y, next_congr run, found, skew.trans ?_, still (.inl mid2)⟩
      unfold skewNext
      rw [if_neg (by simpa using mid2), if_neg (Nat.not_le.2 mid1)]
end

section
/-! PROOFS. What edges at the pins, records and ports leave of the boot, the power unit, the seal, the flash and the dies' duties. -/

namespace Sys2Proof.Machine

theorem forAll_boot {α : Type} (f : α → Hub → Hub) (hf : ∀ a h, (f a h).boot = h.boot) (l : List α) (h : Hub) :
    (forAll l f h).boot = h.boot := forAll_keeps Hub.boot f hf l h
theorem iter_boot (f : Hub → Hub) (hf : ∀ h, (f h).boot = h.boot) (n : Nat) (h : Hub) : (iter f n h).boot = h.boot :=
  iter_keeps Hub.boot f hf n h
theorem Hub.boot_mk (x0 x1 x2 x3 x4 x5 x6 x7 x8 x9 x10 x11 x12 x13 x14 x15 x16 x17 x18 x19 x20 x21 x22 x23 x24 x25 x26
    x27 x28 x29 x30 x31) :
    (Hub.mk x0 x1 x2 x3 x4 x5 x6 x7 x8 x9 x10 x11 x12 x13 x14 x15 x16 x17 x18 x19 x20 x21 x22 x23 x24 x25 x26
      x27 x28 x29 x30 x31).boot = x27 := rfl

theorem forAll_flash {α : Type} (f : α → Hub → Hub) (hf : ∀ a h, (f a h).flash = h.flash) (l : List α) (h : Hub) :
    (forAll l f h).flash = h.flash := forAll_keeps Hub.flash f hf l h
theorem iter_flash (f : Hub → Hub) (hf : ∀ h, (f h).flash = h.flash) (n : Nat) (h : Hub) : (iter f n h).flash = h.flash :=
  iter_keeps Hub.flash f hf n h
theorem Hub.flash_mk (x0 x1 x2 x3 x4 x5 x6 x7 x8 x9 x10 x11 x12 x13 x14 x15 x16 x17 x18 x19 x20 x21 x22 x23 x24 x25 x26
    x27 x28 x29 x30 x31) :
    (Hub.mk x0 x1 x2 x3 x4 x5 x6 x7 x8 x9 x10 x11 x12 x13 x14 x15 x16 x17 x18 x19 x20 x21 x22 x23 x24 x25 x26
      x27 x28 x29 x30 x31).flash = x28 := rfl

@[simp] theorem Hub.capJoin_boot (h : Hub) (n id source : Nat) (c : Capture) : (h.capJoin n id source c).boot = h.boot := by
  refine (forAll_boot _ (fun d g => ?_) _ _).trans (Hub.setCap_boot ..)
  exact Hub.setDie_boot ..
@[simp] theorem Hub.capJoin_pwr (h : Hub) (n id source : Nat) (c : Capture) : (h.capJoin n id source c).pwr = h.pwr := by
  refine (forAll_pwr _ (fun d g => ?_) _ _).trans (Hub.setCap_pwr ..)
  exact Hub.setDie_pwr ..
@[simp] theorem Hub.capJoin_fseal (h : Hub) (n id source : Nat) (c : Capture) : (h.capJoin n id source c).fseal = h.fseal := by
  refine (forAll_fseal _ (fun d g => ?_) _ _).trans (Hub.setCap_fseal ..)
  exact Hub.setDie_fseal ..
@[simp] theorem Hub.capJoin_flash (h : Hub) (n id source : Nat) (c : Capture) : (h.capJoin n id source c).flash = h.flash := by
  refine (forAll_flash _ (fun d g => ?_) _ _).trans (Hub.setCap_flash ..)
  exact Hub.setDie_flash ..

@[simp] theorem Hub.tiuEdge_boot (h : Hub) (d n : Nat) : (h.tiuEdge d n).boot = h.boot := by
  unfold Hub.tiuEdge
  split <;> simp only [↓Hub.setDie_boot]
@[simp] theorem Hub.tinEdge_boot (h : Hub) (i : Nat) (falling : Bool) (ago : Nat) : (h.tinEdge i falling ago).boot = h.boot := by
  unfold Hub.tinEdge
  simp only [↓Hub.emitRecord_boot, ↓Hub.tiuEdge_boot, ↓Hub.setTm_boot, ↓apply_ite Hub.boot, ite_self, modAt]
@[simp] theorem Hub.konEvent_boot (h : Hub) (who stamp : Nat) : (h.konEvent who stamp).boot = h.boot := by
  simp only [Hub.konEvent, ↓Hub.boot_mk]
@[simp] theorem Hub.reserveDie_boot (n : Nat) (eval : Bool) (d : Nat) (h : Hub) : (Hub.reserveDie n eval d h).boot = h.boot := by
  unfold Hub.reserveDie
  repeat' split
  all_goals simp only [↓Hub.notice_boot, ↓Hub.setCap_boot, ↓Hub.boot_mk, ↓apply_ite Hub.boot, ite_self]
@[simp] theorem Hub.reserve_boot (h : Hub) (n : Nat) : (h.reserve n).boot = h.boot := by
  unfold Hub.reserve
  split <;> simp only [↓Hub.reserveDie_boot, ↓forAll_boot, implies_true]
@[simp] theorem Hub.setCoach_boot (h : Hub) (d seq : Nat) (f : Coach → Coach) : (h.setCoach d seq f).boot = h.boot := by
  simp only [Hub.setCoach, ↓Hub.setDie_boot]
@[simp] theorem Hub.coachRecord_boot (h : Hub) (k : FlowKey) (stream first : Nat) (b : Bytes) :
    (h.coachRecord k stream first b).1.boot = h.boot := by
  unfold Hub.coachRecord
  split
  · rfl
  · exact h.setFlow_boot _ _
@[simp] theorem Hub.sendCoach_boot (h : Hub) (d : Nat) (c : Coach) : (h.sendCoach d c).boot = h.boot := by
  unfold Hub.sendCoach
  simp only [↓Hub.setCoach_boot, ↓Hub.coachRecord_boot]
  split
  · simp only [↓apply_ite Hub.boot, ↓Hub.setDie_boot, ↓Hub.coachRecord_boot, ite_self]
  · rfl
@[simp] theorem Hub.sendWanted_boot (h : Hub) (d : Nat) : (h.sendWanted d).boot = h.boot := by
  simp only [Hub.sendWanted, ↓Hub.flowTouch_boot, ↓Hub.sendCoach_boot, ↓forAll_boot, ↓apply_ite Hub.boot, ite_self, implies_true]
@[simp] theorem Hub.retryWait_boot (h : Hub) (d : Nat) : (h.retryWait d).boot = h.boot := by
  refine forAll_boot _ (fun n g => ?_) _ _
  split <;> simp only [↓apply_ite Hub.boot, ↓Hub.reserveDie_boot, ite_self]
@[simp] theorem Hub.disarm_boot (h : Hub) (n : Nat) : (h.disarm n).boot = h.boot := by
  simp only [Hub.disarm, ↓Hub.retryWait_boot, ↓forAll_boot, ↓Hub.boot_mk, modAt, implies_true]
@[simp] theorem Hub.trainDone_boot (h : Hub) (n : Nat) : (h.trainDone n).boot = h.boot := by
  unfold Hub.trainDone
  repeat' split
  all_goals simp only [↓Hub.disarm_boot, ↓Hub.notice_boot, ↓Hub.reserve_boot, ↓Hub.sendWanted_boot, ↓Hub.setCap_boot, ↓Hub.setDie_boot,
    ↓forAll_boot, implies_true]
@[simp] theorem Hub.trigLate_boot (h : Hub) (t who limit : Nat) : (h.trigLate t who limit).boot = h.boot := by
  simp only [Hub.trigLate, ↓Hub.eventAt_boot]
@[simp] theorem Hub.startCoach_boot (n : Nat) (t : Trigger) (trainId missed : Nat) (y : CapChan) (h : Hub) :
    (Hub.startCoach n t trainId missed y h).boot = h.boot := by
  unfold Hub.startCoach
  split <;> simp only [↓Hub.setCap_boot, ↓Hub.setCh_boot, ↓Hub.setDie_boot, ↓Hub.trigLate_boot, ↓Hub.boot_mk, ↓apply_ite Hub.boot,
    ite_self]
@[simp] theorem Hub.retireChan_boot (h : Hub) (c code count : Nat) : (h.retireChan c code count).boot = h.boot := by
  unfold Hub.retireChan
  dsimp only
  repeat' split
  all_goals simp only [↓Hub.event_boot, ↓Hub.setCh_boot, ↓Hub.setDie_boot]
@[simp] theorem Hub.spareChan_boot (h : Hub) (c code : Nat) (readable : Bool) : (h.spareChan c code readable).boot = h.boot := by
  unfold Hub.spareChan
  dsimp only
  repeat' split
  all_goals simp only [↓Hub.notice_boot, ↓Hub.retireChan_boot, ↓Hub.setCh_boot, ↓Hub.setDie_boot]
@[simp] theorem Hub.setEngWin_boot (h : Hub) (d : Nat) (u : Word) (w : Option FaultWin) : (h.setEngWin d u w).boot = h.boot := by
  simp only [Hub.setEngWin, ↓Hub.setDie_boot]
@[simp] theorem Hub.placeUse_boot (h : Hub) (d e c : Nat) (others : List Nat) (get : Chan → Option ChurnUse) (put :
    Option ChurnUse → Chan → Chan) : (h.placeUse d e c others get put).boot = h.boot := by
  unfold Hub.placeUse
  split
  · rfl
  · split
    · rfl
    · split <;> exact h.setCh_boot _ _
@[simp] theorem Hub.moveChurn_boot (h : Hub) (d e : Nat) : (h.moveChurn d e).boot = h.boot := by
  rw [h.moveChurn_eq]
  refine forAll_boot _ (fun c g => ?_) _ _
  simp only [Hub.placeUses, ↓apply_ite Hub.boot, ↓Hub.notice_boot, ↓Hub.placeUse_boot, ite_self]
@[simp] theorem Hub.retireEngine_boot (h : Hub) (d typ e : Nat) : (h.retireEngine d typ e).boot = h.boot := by
  simp only [Hub.retireEngine, ↓Hub.moveChurn_boot, ↓Hub.setDie_boot, ↓apply_ite Hub.boot, ite_self, modAt]
@[simp] theorem Hub.engineFail_boot (h : Hub) (d typ e code : Nat) (readable passes : Bool) :
    (h.engineFail d typ e code readable passes).boot = h.boot := by
  unfold Hub.engineFail
  dsimp only
  repeat' split
  all_goals simp only [↓Hub.event_boot, ↓Hub.retireEngine_boot, ↓Hub.setDie_boot, ↓Hub.setEngWin_boot, ↓Hub.spareChan_boot,
    ↓Hub.boot_mk]
@[simp] theorem Hub.churnMismatch_boot (h : Hub) (d e : Nat) : (h.churnMismatch d e).boot = h.boot := by
  simp only [Hub.churnMismatch, ↓Hub.engineFail_boot, ↓Hub.event_boot, ↓Hub.setDie_boot, ↓Hub.tick_boot, ↓apply_ite Hub.boot, ite_self,
    modAt]
@[simp] theorem Hub.coachPayload_boot (h : Hub) (c : Coach) : (h.coachPayload c).1.boot = h.boot := by
  unfold Hub.coachPayload
  split
  · rfl
  · simp only [↓iter_boot, ↓Hub.churnMismatch_boot, ↓Hub.boot_mk, ↓Hub.setCh_boot, implies_true]
@[simp] theorem Hub.coachDone_boot (h : Hub) (d seq : Nat) : (h.coachDone d seq).boot = h.boot := by
  unfold Hub.coachDone
  split
  · rfl
  · next c _ =>
    have paid := h.coachPayload_boot c
    generalize h.coachPayload c = formed at paid ⊢
    obtain ⟨g, pay, churn⟩ := formed
    simp only [↓Hub.trainDone_boot, ↓apply_ite Hub.boot, ↓Hub.retryWait_boot, ↓Hub.setCap_boot, ↓Hub.setCoach_boot, ite_self]
    exact paid
@[simp] theorem Hub.coachFull_boot (n c : Nat) (h : Hub) : (Hub.coachFull n c h).boot = h.boot := by
  unfold Hub.coachFull
  split <;> simp only [↓Hub.coachDone_boot, ↓apply_ite Hub.boot, ite_self]
@[simp] theorem Hub.capHit_boot (n : Nat) (t : Trigger) (h : Hub) : (Hub.capHit n t h).boot = h.boot := by
  unfold Hub.capHit
  repeat' split
  all_goals simp only [↓Hub.capJoin_boot, ↓Hub.coachFull_boot, ↓Hub.setCap_boot, ↓Hub.startCoach_boot, ↓Hub.trainDone_boot, ↓forAll_boot,
    ↓Hub.boot_mk, implies_true]
@[simp] theorem Hub.capFire_boot (h : Hub) (t : Trigger) (sel : CapParams → Bool) : (h.capFire t sel).boot = h.boot := by
  refine forAll_boot _ (fun n g => ?_) _ _
  split <;> simp only [↓apply_ite Hub.boot, ↓Hub.capHit_boot, ite_self]
@[simp] theorem Hub.queue_boot (h : Hub) (p : Nat) (f : Frame) : (h.queue p f).boot = h.boot := by
  simp only [Hub.queue, ↓Hub.setLink_boot, modAt]
@[simp] theorem Hub.originate_boot (h : Hub) (cls kind : Nat) (body : Bytes) : (h.originate cls kind body).boot = h.boot := by
  simp only [Hub.originate, ↓Hub.queue_boot, ↓apply_ite Hub.boot, ite_self]
@[simp] theorem Hub.arrAct_boot (h : Hub) (m : ArrMsg) : (h.arrAct m).boot = h.boot := by
  simp only [Hub.arrAct, ↓Hub.capFire_boot, ↓Hub.trigLate_boot, ↓Hub.boot_mk, ↓apply_ite Hub.boot, ite_self]
@[simp] theorem Hub.arrOriginate_boot (h : Hub) (t : Trigger) (group : Nat) : (h.arrOriginate t group).boot = h.boot := by
  simp only [Hub.arrOriginate, ↓Hub.arrAct_boot, ↓Hub.originate_boot, ↓Hub.boot_mk, ↓apply_ite Hub.boot, ite_self]
@[simp] theorem Hub.detRecord_boot (h : Hub) (d : Nat) (b : Bytes) : (h.detRecord d b).boot = h.boot := by
  simp only [Hub.detRecord, ↓Hub.emitRecord_boot]
@[simp] theorem Hub.fire_boot (h : Hub) (d source stamp missed info : Nat) (flags : Byte) (route : Word) (sel : CapParams → Bool) :
    (h.fire d source stamp missed info flags route sel).boot = h.boot := by
  simp only [Hub.fire, ↓Hub.arrOriginate_boot, ↓Hub.capFire_boot, ↓Hub.detRecord_boot, ↓Hub.boot_mk, ↓apply_ite Hub.boot, ite_self]
@[simp] theorem Hub.trigEdge_boot (h : Hub) (pin : Nat) (falling : Bool) (run : Nat) : (h.trigEdge pin falling run).boot = h.boot := by
  simp only [Hub.trigEdge, ↓Hub.fire_boot, ↓Hub.konEvent_boot, ↓Hub.boot_mk, ↓apply_ite Hub.boot, ite_self, modAt]
@[simp] theorem Hub.fciHolds_boot (h : Hub) : h.fciHolds.boot = h.boot := by
  simp only [Hub.fciHolds, ↓Hub.boot_mk]
@[simp] theorem Hub.fci_boot (h : Hub) (pin : Nat) (level : Bool) : (h.fci pin level).boot = h.boot := by
  simp only [Hub.fci, ↓Hub.fciHolds_boot, ↓Hub.boot_mk, modAt]

@[simp] theorem Hub.tiuEdge_pwr (h : Hub) (d n : Nat) : (h.tiuEdge d n).pwr = h.pwr := by
  unfold Hub.tiuEdge
  split <;> simp only [↓Hub.setDie_pwr]
@[simp] theorem Hub.tinEdge_pwr (h : Hub) (i : Nat) (falling : Bool) (ago : Nat) : (h.tinEdge i falling ago).pwr = h.pwr := by
  unfold Hub.tinEdge
  simp only [↓Hub.emitRecord_pwr, ↓Hub.tiuEdge_pwr, ↓Hub.setTm_pwr, ↓apply_ite Hub.pwr, ite_self, modAt]
@[simp] theorem Hub.konEvent_pwr (h : Hub) (who stamp : Nat) : (h.konEvent who stamp).pwr = h.pwr := by
  simp only [Hub.konEvent, ↓Hub.pwr_mk]
@[simp] theorem Hub.reserveDie_pwr (n : Nat) (eval : Bool) (d : Nat) (h : Hub) : (Hub.reserveDie n eval d h).pwr = h.pwr := by
  unfold Hub.reserveDie
  repeat' split
  all_goals simp only [↓Hub.notice_pwr, ↓Hub.setCap_pwr, ↓Hub.pwr_mk, ↓apply_ite Hub.pwr, ite_self]
@[simp] theorem Hub.reserve_pwr (h : Hub) (n : Nat) : (h.reserve n).pwr = h.pwr := by
  unfold Hub.reserve
  split <;> simp only [↓Hub.reserveDie_pwr, ↓forAll_pwr, implies_true]
@[simp] theorem Hub.setCoach_pwr (h : Hub) (d seq : Nat) (f : Coach → Coach) : (h.setCoach d seq f).pwr = h.pwr := by
  simp only [Hub.setCoach, ↓Hub.setDie_pwr]
@[simp] theorem Hub.coachRecord_pwr (h : Hub) (k : FlowKey) (stream first : Nat) (b : Bytes) :
    (h.coachRecord k stream first b).1.pwr = h.pwr := by
  unfold Hub.coachRecord
  split
  · rfl
  · exact h.setFlow_pwr _ _
@[simp] theorem Hub.sendCoach_pwr (h : Hub) (d : Nat) (c : Coach) : (h.sendCoach d c).pwr = h.pwr := by
  unfold Hub.sendCoach
  simp only [↓Hub.setCoach_pwr, ↓Hub.coachRecord_pwr]
  split
  · simp only [↓apply_ite Hub.pwr, ↓Hub.setDie_pwr, ↓Hub.coachRecord_pwr, ite_self]
  · rfl
@[simp] theorem Hub.sendWanted_pwr (h : Hub) (d : Nat) : (h.sendWanted d).pwr = h.pwr := by
  simp only [Hub.sendWanted, ↓Hub.flowTouch_pwr, ↓Hub.sendCoach_pwr, ↓forAll_pwr, ↓apply_ite Hub.pwr, ite_self, implies_true]
@[simp] theorem Hub.retryWait_pwr (h : Hub) (d : Nat) : (h.retryWait d).pwr = h.pwr := by
  refine forAll_pwr _ (fun n g => ?_) _ _
  split <;> simp only [↓apply_ite Hub.pwr, ↓Hub.reserveDie_pwr, ite_self]
@[simp] theorem Hub.disarm_pwr (h : Hub) (n : Nat) : (h.disarm n).pwr = h.pwr := by
  simp only [Hub.disarm, ↓Hub.retryWait_pwr, ↓forAll_pwr, ↓Hub.pwr_mk, modAt, implies_true]
@[simp] theorem Hub.trainDone_pwr (h : Hub) (n : Nat) : (h.trainDone n).pwr = h.pwr := by
  unfold Hub.trainDone
  repeat' split
  all_goals simp only [↓Hub.disarm_pwr, ↓Hub.notice_pwr, ↓Hub.reserve_pwr, ↓Hub.sendWanted_pwr, ↓Hub.setCap_pwr, ↓Hub.setDie_pwr,
    ↓forAll_pwr, implies_true]
@[simp] theorem Hub.trigLate_pwr (h : Hub) (t who limit : Nat) : (h.trigLate t who limit).pwr = h.pwr := by
  simp only [Hub.trigLate, ↓Hub.eventAt_pwr]
@[simp] theorem Hub.startCoach_pwr (n : Nat) (t : Trigger) (trainId missed : Nat) (y : CapChan) (h : Hub) :
    (Hub.startCoach n t trainId missed y h).pwr = h.pwr := by
  unfold Hub.startCoach
  split <;> simp only [↓Hub.setCap_pwr, ↓Hub.setCh_pwr, ↓Hub.setDie_pwr, ↓Hub.trigLate_pwr, ↓Hub.pwr_mk, ↓apply_ite Hub.pwr,
    ite_self]
@[simp] theorem Hub.coachPayload_pwr (h : Hub) (c : Coach) : (h.coachPayload c).1.pwr = h.pwr := by
  unfold Hub.coachPayload
  split
  · rfl
  · simp only [↓iter_pwr, ↓Hub.churnMismatch_pwr, ↓Hub.pwr_mk, ↓Hub.setCh_pwr, implies_true]
@[simp] theorem Hub.coachDone_pwr (h : Hub) (d seq : Nat) : (h.coachDone d seq).pwr = h.pwr := by
  unfold Hub.coachDone
  split
  · rfl
  · next c _ =>
    have paid := h.coachPayload_pwr c
    generalize h.coachPayload c = formed at paid ⊢
    obtain ⟨g, pay, churn⟩ := formed
    simp only [↓Hub.trainDone_pwr, ↓apply_ite Hub.pwr, ↓Hub.retryWait_pwr, ↓Hub.setCap_pwr, ↓Hub.setCoach_pwr, ite_self]
    exact paid
@[simp] theorem Hub.coachFull_pwr (n c : Nat) (h : Hub) : (Hub.coachFull n c h).pwr = h.pwr := by
  unfold Hub.coachFull
  split <;> simp only [↓Hub.coachDone_pwr, ↓apply_ite Hub.pwr, ite_self]
@[simp] theorem Hub.capHit_pwr (n : Nat) (t : Trigger) (h : Hub) : (Hub.capHit n t h).pwr = h.pwr := by
  unfold Hub.capHit
  repeat' split
  all_goals simp only [↓Hub.capJoin_pwr, ↓Hub.coachFull_pwr, ↓Hub.setCap_pwr, ↓Hub.startCoach_pwr, ↓Hub.trainDone_pwr, ↓forAll_pwr,
    ↓Hub.pwr_mk, implies_true]
@[simp] theorem Hub.capFire_pwr (h : Hub) (t : Trigger) (sel : CapParams → Bool) : (h.capFire t sel).pwr = h.pwr := by
  refine forAll_pwr _ (fun n g => ?_) _ _
  split <;> simp only [↓apply_ite Hub.pwr, ↓Hub.capHit_pwr, ite_self]
@[simp] theorem Hub.queue_pwr (h : Hub) (p : Nat) (f : Frame) : (h.queue p f).pwr = h.pwr := by
  simp only [Hub.queue, ↓Hub.setLink_pwr, modAt]
@[simp] theorem Hub.originate_pwr (h : Hub) (cls kind : Nat) (body : Bytes) : (h.originate cls kind body).pwr = h.pwr := by
  simp only [Hub.originate, ↓Hub.queue_pwr, ↓apply_ite Hub.pwr, ite_self]
@[simp] theorem Hub.arrAct_pwr (h : Hub) (m : ArrMsg) : (h.arrAct m).pwr = h.pwr := by
  simp only [Hub.arrAct, ↓Hub.capFire_pwr, ↓Hub.trigLate_pwr, ↓Hub.pwr_mk, ↓apply_ite Hub.pwr, ite_self]
@[simp] theorem Hub.arrOriginate_pwr (h : Hub) (t : Trigger) (group : Nat) : (h.arrOriginate t group).pwr = h.pwr := by
  simp only [Hub.arrOriginate, ↓Hub.arrAct_pwr, ↓Hub.originate_pwr, ↓Hub.pwr_mk, ↓apply_ite Hub.pwr, ite_self]
@[simp] theorem Hub.detRecord_pwr (h : Hub) (d : Nat) (b : Bytes) : (h.detRecord d b).pwr = h.pwr := by
  simp only [Hub.detRecord, ↓Hub.emitRecord_pwr]
@[simp] theorem Hub.fire_pwr (h : Hub) (d source stamp missed info : Nat) (flags : Byte) (route : Word) (sel : CapParams → Bool) :
    (h.fire d source stamp missed info flags route sel).pwr = h.pwr := by
  simp only [Hub.fire, ↓Hub.arrOriginate_pwr, ↓Hub.capFire_pwr, ↓Hub.detRecord_pwr, ↓Hub.pwr_mk, ↓apply_ite Hub.pwr, ite_self]
@[simp] theorem Hub.trigEdge_pwr (h : Hub) (pin : Nat) (falling : Bool) (run : Nat) : (h.trigEdge pin falling run).pwr = h.pwr := by
  simp only [Hub.trigEdge, ↓Hub.fire_pwr, ↓Hub.konEvent_pwr, ↓Hub.pwr_mk, ↓apply_ite Hub.pwr, ite_self, modAt]
@[simp] theorem Hub.fciHolds_pwr (h : Hub) : h.fciHolds.pwr = h.pwr := by
  simp only [Hub.fciHolds, ↓Hub.pwr_mk]
@[simp] theorem Hub.fci_pwr (h : Hub) (pin : Nat) (level : Bool) : (h.fci pin level).pwr = h.pwr := by
  simp only [Hub.fci, ↓Hub.fciHolds_pwr, ↓Hub.pwr_mk, modAt]

@[simp] theorem Hub.tiuEdge_fseal (h : Hub) (d n : Nat) : (h.tiuEdge d n).fseal = h.fseal := by
  unfold Hub.tiuEdge
  split <;> simp only [↓Hub.setDie_fseal]
@[simp] theorem Hub.tinEdge_fseal (h : Hub) (i : Nat) (falling : Bool) (ago : Nat) : (h.tinEdge i falling ago).fseal = h.fseal := by
  unfold Hub.tinEdge
  simp only [↓Hub.emitRecord_fseal, ↓Hub.tiuEdge_fseal, ↓Hub.setTm_fseal, ↓apply_ite Hub.fseal, ite_self, modAt]
@[simp] theorem Hub.konEvent_fseal (h : Hub) (who stamp : Nat) : (h.konEvent who stamp).fseal = h.fseal := by
  simp only [Hub.konEvent, ↓Hub.fseal_mk]
@[simp] theorem Hub.reserveDie_fseal (n : Nat) (eval : Bool) (d : Nat) (h : Hub) : (Hub.reserveDie n eval d h).fseal = h.fseal := by
  unfold Hub.reserveDie
  repeat' split
  all_goals simp only [↓Hub.notice_fseal, ↓Hub.setCap_fseal, ↓Hub.fseal_mk, ↓apply_ite Hub.fseal, ite_self]
@[simp] theorem Hub.reserve_fseal (h : Hub) (n : Nat) : (h.reserve n).fseal = h.fseal := by
  unfold Hub.reserve
  split <;> simp only [↓Hub.reserveDie_fseal, ↓forAll_fseal, implies_true]
@[simp] theorem Hub.setCoach_fseal (h : Hub) (d seq : Nat) (f : Coach → Coach) : (h.setCoach d seq f).fseal = h.fseal := by
  simp only [Hub.setCoach, ↓Hub.setDie_fseal]
@[simp] theorem Hub.coachRecord_fseal (h : Hub) (k : FlowKey) (stream first : Nat) (b : Bytes) :
    (h.coachRecord k stream first b).1.fseal = h.fseal := by
  unfold Hub.coachRecord
  split
  · rfl
  · exact h.setFlow_fseal _ _
@[simp] theorem Hub.sendCoach_fseal (h : Hub) (d : Nat) (c : Coach) : (h.sendCoach d c).fseal = h.fseal := by
  unfold Hub.sendCoach
  simp only [↓Hub.setCoach_fseal, ↓Hub.coachRecord_fseal]
  split
  · simp only [↓apply_ite Hub.fseal, ↓Hub.setDie_fseal, ↓Hub.coachRecord_fseal, ite_self]
  · rfl
@[simp] theorem Hub.sendWanted_fseal (h : Hub) (d : Nat) : (h.sendWanted d).fseal = h.fseal := by
  simp only [Hub.sendWanted, ↓Hub.flowTouch_fseal, ↓Hub.sendCoach_fseal, ↓forAll_fseal, ↓apply_ite Hub.fseal, ite_self, implies_true]
@[simp] theorem Hub.retryWait_fseal (h : Hub) (d : Nat) : (h.retryWait d).fseal = h.fseal := by
  refine forAll_fseal _ (fun n g => ?_) _ _
  split <;> simp only [↓apply_ite Hub.fseal, ↓Hub.reserveDie_fseal, ite_self]
@[simp] theorem Hub.disarm_fseal (h : Hub) (n : Nat) : (h.disarm n).fseal = h.fseal := by
  simp only [Hub.disarm, ↓Hub.retryWait_fseal, ↓forAll_fseal, ↓Hub.fseal_mk, modAt, implies_true]
@[simp] theorem Hub.trainDone_fseal (h : Hub) (n : Nat) : (h.trainDone n).fseal = h.fseal := by
  unfold Hub.trainDone
  repeat' split
  all_goals simp only [↓Hub.disarm_fseal, ↓Hub.notice_fseal, ↓Hub.reserve_fseal, ↓Hub.sendWanted_fseal, ↓Hub.setCap_fseal,
    ↓Hub.setDie_fseal,
    ↓forAll_fseal, implies_true]
@[simp] theorem Hub.trigLate_fseal (h : Hub) (t who limit : Nat) : (h.trigLate t who limit).fseal = h.fseal := by
  simp only [Hub.trigLate, ↓Hub.eventAt_fseal]
@[simp] theorem Hub.startCoach_fseal (n : Nat) (t : Trigger) (trainId missed : Nat) (y : CapChan) (h : Hub) :
    (Hub.startCoach n t trainId missed y h).fseal = h.fseal := by
  unfold Hub.startCoach
  split <;> simp only [↓Hub.setCap_fseal, ↓Hub.setCh_fseal, ↓Hub.setDie_fseal, ↓Hub.trigLate_fseal, ↓Hub.fseal_mk, ↓apply_ite Hub.fseal,
    ite_self]
@[simp] theorem Hub.retireChan_fseal (h : Hub) (c code count : Nat) : (h.retireChan c code count).fseal = h.fseal := by
  unfold Hub.retireChan
  dsimp only
  repeat' split
  all_goals simp only [↓Hub.event_fseal, ↓Hub.setCh_fseal, ↓Hub.setDie_fseal]
@[simp] theorem Hub.spareChan_fseal (h : Hub) (c code : Nat) (readable : Bool) : (h.spareChan c code readable).fseal = h.fseal := by
  unfold Hub.spareChan
  dsimp only
  repeat' split
  all_goals simp only [↓Hub.notice_fseal, ↓Hub.retireChan_fseal, ↓Hub.setCh_fseal, ↓Hub.setDie_fseal]
@[simp] theorem Hub.setEngWin_fseal (h : Hub) (d : Nat) (u : Word) (w : Option FaultWin) : (h.setEngWin d u w).fseal = h.fseal := by
  simp only [Hub.setEngWin, ↓Hub.setDie_fseal]
@[simp] theorem Hub.placeUse_fseal (h : Hub) (d e c : Nat) (others : List Nat) (get : Chan → Option ChurnUse) (put :
    Option ChurnUse → Chan → Chan) : (h.placeUse d e c others get put).fseal = h.fseal := by
  unfold Hub.placeUse
  split
  · rfl
  · split
    · rfl
    · split <;> exact h.setCh_fseal _ _
@[simp] theorem Hub.moveChurn_fseal (h : Hub) (d e : Nat) : (h.moveChurn d e).fseal = h.fseal := by
  rw [h.moveChurn_eq]
  refine forAll_fseal _ (fun c g => ?_) _ _
  simp only [Hub.placeUses, ↓apply_ite Hub.fseal, ↓Hub.notice_fseal, ↓Hub.placeUse_fseal, ite_self]
@[simp] theorem Hub.retireEngine_fseal (h : Hub) (d typ e : Nat) : (h.retireEngine d typ e).fseal = h.fseal := by
  simp only [Hub.retireEngine, ↓Hub.moveChurn_fseal, ↓Hub.setDie_fseal, ↓apply_ite Hub.fseal, ite_self, modAt]
@[simp] theorem Hub.engineFail_fseal (h : Hub) (d typ e code : Nat) (readable passes : Bool) :
    (h.engineFail d typ e code readable passes).fseal = h.fseal := by
  unfold Hub.engineFail
  dsimp only
  repeat' split
  all_goals simp only [↓Hub.event_fseal, ↓Hub.retireEngine_fseal, ↓Hub.setDie_fseal, ↓Hub.setEngWin_fseal, ↓Hub.spareChan_fseal,
    ↓Hub.fseal_mk]
@[simp] theorem Hub.churnMismatch_fseal (h : Hub) (d e : Nat) : (h.churnMismatch d e).fseal = h.fseal := by
  simp only [Hub.churnMismatch, ↓Hub.engineFail_fseal, ↓Hub.event_fseal, ↓Hub.setDie_fseal, ↓Hub.tick_fseal, ↓apply_ite Hub.fseal, ite_self,
    modAt]
@[simp] theorem Hub.coachPayload_fseal (h : Hub) (c : Coach) : (h.coachPayload c).1.fseal = h.fseal := by
  unfold Hub.coachPayload
  split
  · rfl
  · simp only [↓iter_fseal, ↓Hub.churnMismatch_fseal, ↓Hub.fseal_mk, ↓Hub.setCh_fseal, implies_true]
@[simp] theorem Hub.coachDone_fseal (h : Hub) (d seq : Nat) : (h.coachDone d seq).fseal = h.fseal := by
  unfold Hub.coachDone
  split
  · rfl
  · next c _ =>
    have paid := h.coachPayload_fseal c
    generalize h.coachPayload c = formed at paid ⊢
    obtain ⟨g, pay, churn⟩ := formed
    simp only [↓Hub.trainDone_fseal, ↓apply_ite Hub.fseal, ↓Hub.retryWait_fseal, ↓Hub.setCap_fseal, ↓Hub.setCoach_fseal, ite_self]
    exact paid
@[simp] theorem Hub.coachFull_fseal (n c : Nat) (h : Hub) : (Hub.coachFull n c h).fseal = h.fseal := by
  unfold Hub.coachFull
  split <;> simp only [↓Hub.coachDone_fseal, ↓apply_ite Hub.fseal, ite_self]
@[simp] theorem Hub.capHit_fseal (n : Nat) (t : Trigger) (h : Hub) : (Hub.capHit n t h).fseal = h.fseal := by
  unfold Hub.capHit
  repeat' split
  all_goals simp only [↓Hub.capJoin_fseal, ↓Hub.coachFull_fseal, ↓Hub.setCap_fseal, ↓Hub.startCoach_fseal, ↓Hub.trainDone_fseal,
    ↓forAll_fseal,
    ↓Hub.fseal_mk, implies_true]
@[simp] theorem Hub.capFire_fseal (h : Hub) (t : Trigger) (sel : CapParams → Bool) : (h.capFire t sel).fseal = h.fseal := by
  refine forAll_fseal _ (fun n g => ?_) _ _
  split <;> simp only [↓apply_ite Hub.fseal, ↓Hub.capHit_fseal, ite_self]
@[simp] theorem Hub.queue_fseal (h : Hub) (p : Nat) (f : Frame) : (h.queue p f).fseal = h.fseal := by
  simp only [Hub.queue, ↓Hub.setLink_fseal, modAt]
@[simp] theorem Hub.originate_fseal (h : Hub) (cls kind : Nat) (body : Bytes) : (h.originate cls kind body).fseal = h.fseal := by
  simp only [Hub.originate, ↓Hub.queue_fseal, ↓apply_ite Hub.fseal, ite_self]
@[simp] theorem Hub.arrAct_fseal (h : Hub) (m : ArrMsg) : (h.arrAct m).fseal = h.fseal := by
  simp only [Hub.arrAct, ↓Hub.capFire_fseal, ↓Hub.trigLate_fseal, ↓Hub.fseal_mk, ↓apply_ite Hub.fseal, ite_self]
@[simp] theorem Hub.arrOriginate_fseal (h : Hub) (t : Trigger) (group : Nat) : (h.arrOriginate t group).fseal = h.fseal := by
  simp only [Hub.arrOriginate, ↓Hub.arrAct_fseal, ↓Hub.originate_fseal, ↓Hub.fseal_mk, ↓apply_ite Hub.fseal, ite_self]
@[simp] theorem Hub.detRecord_fseal (h : Hub) (d : Nat) (b : Bytes) : (h.detRecord d b).fseal = h.fseal := by
  simp only [Hub.detRecord, ↓Hub.emitRecord_fseal]
@[simp] theorem Hub.fire_fseal (h : Hub) (d source stamp missed info : Nat) (flags : Byte) (route : Word) (sel : CapParams → Bool) :
    (h.fire d source stamp missed info flags route sel).fseal = h.fseal := by
  simp only [Hub.fire, ↓Hub.arrOriginate_fseal, ↓Hub.capFire_fseal, ↓Hub.detRecord_fseal, ↓Hub.fseal_mk, ↓apply_ite Hub.fseal, ite_self]
@[simp] theorem Hub.trigEdge_fseal (h : Hub) (pin : Nat) (falling : Bool) (run : Nat) : (h.trigEdge pin falling run).fseal = h.fseal := by
  simp only [Hub.trigEdge, ↓Hub.fire_fseal, ↓Hub.konEvent_fseal, ↓Hub.fseal_mk, ↓apply_ite Hub.fseal, ite_self, modAt]
@[simp] theorem Hub.fciHolds_fseal (h : Hub) : h.fciHolds.fseal = h.fseal := by
  simp only [Hub.fciHolds, ↓Hub.fseal_mk]
@[simp] theorem Hub.fci_fseal (h : Hub) (pin : Nat) (level : Bool) : (h.fci pin level).fseal = h.fseal := by
  simp only [Hub.fci, ↓Hub.fciHolds_fseal, ↓Hub.fseal_mk, modAt]

@[simp] theorem Hub.tiuEdge_flash (h : Hub) (d n : Nat) : (h.tiuEdge d n).flash = h.flash := by
  unfold Hub.tiuEdge
  split <;> simp only [↓Hub.setDie_flash]
@[simp] theorem Hub.tinEdge_flash (h : Hub) (i : Nat) (falling : Bool) (ago : Nat) : (h.tinEdge i falling ago).flash = h.flash := by
  unfold Hub.tinEdge
  simp only [↓Hub.emitRecord_flash, ↓Hub.tiuEdge_flash, ↓Hub.setTm_flash, ↓apply_ite Hub.flash, ite_self, modAt]
@[simp] theorem Hub.konEvent_flash (h : Hub) (who stamp : Nat) : (h.konEvent who stamp).flash = h.flash := by
  simp only [Hub.konEvent, ↓Hub.flash_mk]
@[simp] theorem Hub.reserveDie_flash (n : Nat) (eval : Bool) (d : Nat) (h : Hub) : (Hub.reserveDie n eval d h).flash = h.flash := by
  unfold Hub.reserveDie
  repeat' split
  all_goals simp only [↓Hub.notice_flash, ↓Hub.setCap_flash, ↓Hub.flash_mk, ↓apply_ite Hub.flash, ite_self]
@[simp] theorem Hub.reserve_flash (h : Hub) (n : Nat) : (h.reserve n).flash = h.flash := by
  unfold Hub.reserve
  split <;> simp only [↓Hub.reserveDie_flash, ↓forAll_flash, implies_true]
@[simp] theorem Hub.setCoach_flash (h : Hub) (d seq : Nat) (f : Coach → Coach) : (h.setCoach d seq f).flash = h.flash := by
  simp only [Hub.setCoach, ↓Hub.setDie_flash]
@[simp] theorem Hub.coachRecord_flash (h : Hub) (k : FlowKey) (stream first : Nat) (b : Bytes) :
    (h.coachRecord k stream first b).1.flash = h.flash := by
  unfold Hub.coachRecord
  split
  · rfl
  · exact h.setFlow_flash _ _
@[simp] theorem Hub.sendCoach_flash (h : Hub) (d : Nat) (c : Coach) : (h.sendCoach d c).flash = h.flash := by
  unfold Hub.sendCoach
  simp only [↓Hub.setCoach_flash, ↓Hub.coachRecord_flash]
  split
  · simp only [↓apply_ite Hub.flash, ↓Hub.setDie_flash, ↓Hub.coachRecord_flash, ite_self]
  · rfl
@[simp] theorem Hub.sendWanted_flash (h : Hub) (d : Nat) : (h.sendWanted d).flash = h.flash := by
  simp only [Hub.sendWanted, ↓Hub.flowTouch_flash, ↓Hub.sendCoach_flash, ↓forAll_flash, ↓apply_ite Hub.flash, ite_self, implies_true]
@[simp] theorem Hub.retryWait_flash (h : Hub) (d : Nat) : (h.retryWait d).flash = h.flash := by
  refine forAll_flash _ (fun n g => ?_) _ _
  split <;> simp only [↓apply_ite Hub.flash, ↓Hub.reserveDie_flash, ite_self]
@[simp] theorem Hub.disarm_flash (h : Hub) (n : Nat) : (h.disarm n).flash = h.flash := by
  simp only [Hub.disarm, ↓Hub.retryWait_flash, ↓forAll_flash, ↓Hub.flash_mk, modAt, implies_true]
@[simp] theorem Hub.trainDone_flash (h : Hub) (n : Nat) : (h.trainDone n).flash = h.flash := by
  unfold Hub.trainDone
  repeat' split
  all_goals simp only [↓Hub.disarm_flash, ↓Hub.notice_flash, ↓Hub.reserve_flash, ↓Hub.sendWanted_flash, ↓Hub.setCap_flash,
    ↓Hub.setDie_flash,
    ↓forAll_flash, implies_true]
@[simp] theorem Hub.trigLate_flash (h : Hub) (t who limit : Nat) : (h.trigLate t who limit).flash = h.flash := by
  simp only [Hub.trigLate, ↓Hub.eventAt_flash]
@[simp] theorem Hub.startCoach_flash (n : Nat) (t : Trigger) (trainId missed : Nat) (y : CapChan) (h : Hub) :
    (Hub.startCoach n t trainId missed y h).flash = h.flash := by
  unfold Hub.startCoach
  split <;> simp only [↓Hub.setCap_flash, ↓Hub.setCh_flash, ↓Hub.setDie_flash, ↓Hub.trigLate_flash, ↓Hub.flash_mk, ↓apply_ite Hub.flash,
    ite_self]
@[simp] theorem Hub.retireChan_flash (h : Hub) (c code count : Nat) : (h.retireChan c code count).flash = h.flash := by
  unfold Hub.retireChan
  dsimp only
  repeat' split
  all_goals simp only [↓Hub.event_flash, ↓Hub.setCh_flash, ↓Hub.setDie_flash]
@[simp] theorem Hub.spareChan_flash (h : Hub) (c code : Nat) (readable : Bool) : (h.spareChan c code readable).flash = h.flash := by
  unfold Hub.spareChan
  dsimp only
  repeat' split
  all_goals simp only [↓Hub.notice_flash, ↓Hub.retireChan_flash, ↓Hub.setCh_flash, ↓Hub.setDie_flash]
@[simp] theorem Hub.setEngWin_flash (h : Hub) (d : Nat) (u : Word) (w : Option FaultWin) : (h.setEngWin d u w).flash = h.flash := by
  simp only [Hub.setEngWin, ↓Hub.setDie_flash]
@[simp] theorem Hub.placeUse_flash (h : Hub) (d e c : Nat) (others : List Nat) (get : Chan → Option ChurnUse) (put :
    Option ChurnUse → Chan → Chan) : (h.placeUse d e c others get put).flash = h.flash := by
  unfold Hub.placeUse
  split
  · rfl
  · split
    · rfl
    · split <;> exact h.setCh_flash _ _
@[simp] theorem Hub.moveChurn_flash (h : Hub) (d e : Nat) : (h.moveChurn d e).flash = h.flash := by
  rw [h.moveChurn_eq]
  refine forAll_flash _ (fun c g => ?_) _ _
  simp only [Hub.placeUses, ↓apply_ite Hub.flash, ↓Hub.notice_flash, ↓Hub.placeUse_flash, ite_self]
@[simp] theorem Hub.retireEngine_flash (h : Hub) (d typ e : Nat) : (h.retireEngine d typ e).flash = h.flash := by
  simp only [Hub.retireEngine, ↓Hub.moveChurn_flash, ↓Hub.setDie_flash, ↓apply_ite Hub.flash, ite_self, modAt]
@[simp] theorem Hub.engineFail_flash (h : Hub) (d typ e code : Nat) (readable passes : Bool) :
    (h.engineFail d typ e code readable passes).flash = h.flash := by
  unfold Hub.engineFail
  dsimp only
  repeat' split
  all_goals simp only [↓Hub.event_flash, ↓Hub.retireEngine_flash, ↓Hub.setDie_flash, ↓Hub.setEngWin_flash, ↓Hub.spareChan_flash,
    ↓Hub.flash_mk]
@[simp] theorem Hub.churnMismatch_flash (h : Hub) (d e : Nat) : (h.churnMismatch d e).flash = h.flash := by
  simp only [Hub.churnMismatch, ↓Hub.engineFail_flash, ↓Hub.event_flash, ↓Hub.setDie_flash, ↓Hub.tick_flash, ↓apply_ite Hub.flash, ite_self,
    modAt]
@[simp] theorem Hub.coachPayload_flash (h : Hub) (c : Coach) : (h.coachPayload c).1.flash = h.flash := by
  unfold Hub.coachPayload
  split
  · rfl
  · simp only [↓iter_flash, ↓Hub.churnMismatch_flash, ↓Hub.flash_mk, ↓Hub.setCh_flash, implies_true]
@[simp] theorem Hub.coachDone_flash (h : Hub) (d seq : Nat) : (h.coachDone d seq).flash = h.flash := by
  unfold Hub.coachDone
  split
  · rfl
  · next c _ =>
    have paid := h.coachPayload_flash c
    generalize h.coachPayload c = formed at paid ⊢
    obtain ⟨g, pay, churn⟩ := formed
    simp only [↓Hub.trainDone_flash, ↓apply_ite Hub.flash, ↓Hub.retryWait_flash, ↓Hub.setCap_flash, ↓Hub.setCoach_flash, ite_self]
    exact paid
@[simp] theorem Hub.coachFull_flash (n c : Nat) (h : Hub) : (Hub.coachFull n c h).flash = h.flash := by
  unfold Hub.coachFull
  split <;> simp only [↓Hub.coachDone_flash, ↓apply_ite Hub.flash, ite_self]
@[simp] theorem Hub.capHit_flash (n : Nat) (t : Trigger) (h : Hub) : (Hub.capHit n t h).flash = h.flash := by
  unfold Hub.capHit
  repeat' split
  all_goals simp only [↓Hub.capJoin_flash, ↓Hub.coachFull_flash, ↓Hub.setCap_flash, ↓Hub.startCoach_flash, ↓Hub.trainDone_flash,
    ↓forAll_flash,
    ↓Hub.flash_mk, implies_true]
@[simp] theorem Hub.capFire_flash (h : Hub) (t : Trigger) (sel : CapParams → Bool) : (h.capFire t sel).flash = h.flash := by
  refine forAll_flash _ (fun n g => ?_) _ _
  split <;> simp only [↓apply_ite Hub.flash, ↓Hub.capHit_flash, ite_self]
@[simp] theorem Hub.queue_flash (h : Hub) (p : Nat) (f : Frame) : (h.queue p f).flash = h.flash := by
  simp only [Hub.queue, ↓Hub.setLink_flash, modAt]
@[simp] theorem Hub.originate_flash (h : Hub) (cls kind : Nat) (body : Bytes) : (h.originate cls kind body).flash = h.flash := by
  simp only [Hub.originate, ↓Hub.queue_flash, ↓apply_ite Hub.flash, ite_self]
@[simp] theorem Hub.arrAct_flash (h : Hub) (m : ArrMsg) : (h.arrAct m).flash = h.flash := by
  simp only [Hub.arrAct, ↓Hub.capFire_flash, ↓Hub.trigLate_flash, ↓Hub.flash_mk, ↓apply_ite Hub.flash, ite_self]
@[simp] theorem Hub.arrOriginate_flash (h : Hub) (t : Trigger) (group : Nat) : (h.arrOriginate t group).flash = h.flash := by
  simp only [Hub.arrOriginate, ↓Hub.arrAct_flash, ↓Hub.originate_flash, ↓Hub.flash_mk, ↓apply_ite Hub.flash, ite_self]
@[simp] theorem Hub.detRecord_flash (h : Hub) (d : Nat) (b : Bytes) : (h.detRecord d b).flash = h.flash := by
  simp only [Hub.detRecord, ↓Hub.emitRecord_flash]
@[simp] theorem Hub.fire_flash (h : Hub) (d source stamp missed info : Nat) (flags : Byte) (route : Word) (sel : CapParams → Bool) :
    (h.fire d source stamp missed info flags route sel).flash = h.flash := by
  simp only [Hub.fire, ↓Hub.arrOriginate_flash, ↓Hub.capFire_flash, ↓Hub.detRecord_flash, ↓Hub.flash_mk, ↓apply_ite Hub.flash, ite_self]
@[simp] theorem Hub.trigEdge_flash (h : Hub) (pin : Nat) (falling : Bool) (run : Nat) : (h.trigEdge pin falling run).flash = h.flash := by
  simp only [Hub.trigEdge, ↓Hub.fire_flash, ↓Hub.konEvent_flash, ↓Hub.flash_mk, ↓apply_ite Hub.flash, ite_self, modAt]
@[simp] theorem Hub.fciHolds_flash (h : Hub) : h.fciHolds.flash = h.flash := by
  simp only [Hub.fciHolds, ↓Hub.flash_mk]
@[simp] theorem Hub.fci_flash (h : Hub) (pin : Nat) (level : Bool) : (h.fci pin level).flash = h.flash := by
  simp only [Hub.fci, ↓Hub.fciHolds_flash, ↓Hub.flash_mk, modAt]

@[simp] theorem Hub.tinEdge_duties (h : Hub) (i : Nat) (falling : Bool) (ago : Nat) : (h.tinEdge i falling ago).duties = h.duties := by
  unfold Hub.tinEdge
  simp only [↓Hub.emitRecord_duties, ↓Hub.tiuEdge_duties, ↓Hub.setTm_duties, ↓apply_ite Hub.duties, ite_self, modAt]
@[simp] theorem Hub.konEvent_duties (h : Hub) (who stamp : Nat) : (h.konEvent who stamp).duties = h.duties :=
  Hub.duties_of_cores (Hub.konEvent_dieCores ..)
@[simp] theorem Hub.fire_duties (h : Hub) (d source stamp missed info : Nat) (flags : Byte) (route : Word) (sel : CapParams → Bool) :
    (h.fire d source stamp missed info flags route sel).duties = h.duties :=
  Hub.duties_of_cores (Hub.fire_dieCores ..)
@[simp] theorem Hub.trigEdge_duties (h : Hub) (pin : Nat) (falling : Bool) (run : Nat) :
    (h.trigEdge pin falling run).duties = h.duties := by
  simp only [Hub.trigEdge, ↓Hub.fire_duties, ↓Hub.konEvent_duties, ↓Hub.duties_mk, ↓apply_ite Hub.duties, ite_self, ↓Hub.map_duty_dies]
@[simp] theorem Hub.fciHolds_duties (h : Hub) : h.fciHolds.duties = h.duties := by
  simp only [Hub.fciHolds, ↓Hub.duties_mk, ↓Hub.map_duty_dies]
@[simp] theorem Hub.fci_duties (h : Hub) (pin : Nat) (level : Bool) : (h.fci pin level).duties = h.duties := by
  simp only [Hub.fci, ↓Hub.fciHolds_duties, ↓Hub.duties_mk, ↓Hub.map_duty_dies]
@[simp] theorem Hub.openCoupler_duties (h : Hub) : h.openCoupler.duties = h.duties := by
  simp only [Hub.openCoupler, ↓Hub.portStart_duties, ↓Hub.duties_mk, ↓apply_ite Hub.duties, ite_self, ↓Hub.map_duty_dies]
@[simp] theorem Hub.setLane_duties (h : Hub) (p l : Nat) (f : Lane → Lane) : (h.setLane p l f).duties = h.duties :=
  congrArg (List.map Die.duty) (Hub.setLane_dies ..)
@[simp] theorem Hub.crossEvent_duties (h : Hub) (d row latency : Nat) : (h.crossEvent d row latency).duties = h.duties := by
  simp only [Hub.crossEvent, ↓Hub.setDie_duties, ite_self, implies_true, ↓Hub.setDie_duties, ↓apply_ite Die.duty, Die.duty_eq]
@[simp] theorem Hub.ctl_duties (h : Hub) (p code payload : Nat) : (h.ctl p code payload).duties = h.duties :=
  Hub.duties_of_cores (Hub.ctl_dieCores ..)
@[simp] theorem Hub.askWidth_duties (h : Hub) (p w : Nat) : (h.askWidth p w).duties = h.duties := by
  simp only [Hub.askWidth, ↓Hub.ctl_duties, ↓Hub.setPort_duties, ↓apply_ite Hub.duties, ite_self]
@[simp] theorem Hub.plainWidth_duties (h : Hub) (p : Nat) : (h.plainWidth p).duties = h.duties := by
  simp only [Hub.plainWidth, ↓Hub.rawReassign_duties, ↓Hub.setPort_duties, ↓apply_ite Hub.duties, ite_self]
@[simp] theorem Hub.narrow_duties (h : Hub) (p : Nat) : (h.narrow p).duties = h.duties := by
  simp only [Hub.narrow, ↓Hub.askWidth_duties, ↓Hub.plainWidth_duties, ↓apply_ite Hub.duties, ite_self]
@[simp] theorem Hub.retireLane_duties (h : Hub) (p l code count : Nat) (loopbackOk : Bool) :
    (h.retireLane p l code count loopbackOk).duties = h.duties := by
  simp only [Hub.retireLane, ↓Hub.closeCoupler_duties, ↓Hub.crossEvent_duties, ↓Hub.event_duties, ↓Hub.laneAway_duties, ↓Hub.narrow_duties,
    ↓Hub.portDown_duties, ↓Hub.reLevel_duties, ↓Hub.setLane_duties, ↓Hub.setPort_duties, ↓Hub.setTm_duties, ↓apply_ite Hub.duties, ite_self]

@[simp] theorem Hub.rawReassign_boot (h : Hub) : h.rawReassign.boot = h.boot :=
  Hub.still_boot (Hub.rawReassign_still ..)
@[simp] theorem Hub.laneAway_boot (h : Hub) (a : Align) : (h.laneAway a).boot = h.boot := by
  simp only [Hub.laneAway, ↓Hub.setAlign_boot, ↓Hub.setTm_boot, ↓apply_ite Hub.boot, ite_self]
@[simp] theorem Hub.linkGone_boot (h : Hub) : h.linkGone.boot = h.boot := by
  simp only [Hub.linkGone, ↓Hub.laneAway_boot, ↓apply_ite Hub.boot, ite_self]
@[simp] theorem Hub.unsend_boot (h : Hub) (p : Nat) : (h.unsend p).boot = h.boot := by
  simp only [Hub.unsend, ↓Hub.boot_mk]
@[simp] theorem Hub.discardNote_boot (h : Hub) (p n : Nat) : (h.discardNote p n).boot = h.boot := by
  simp only [Hub.discardNote, ↓Hub.notice_boot, ↓Hub.boot_mk, ↓apply_ite Hub.boot, ite_self]
@[simp] theorem Hub.portLost_boot (h : Hub) (p : Nat) (st : PState) : (h.portLost p st).boot = h.boot := by
  simp only [Hub.portLost, ↓Hub.discardNote_boot, ↓Hub.linkGone_boot, ↓Hub.setPort_boot, ↓Hub.unsend_boot, ↓Hub.boot_mk, ↓apply_ite
    Hub.boot, ite_self]
@[simp] theorem Hub.portStart_boot (h : Hub) (p : Nat) : (h.portStart p).boot = h.boot := by
  simp only [Hub.portStart, ↓Hub.portLost_boot, ↓Hub.rawReassign_boot, ↓Hub.setPort_boot, ↓Hub.watermarks_boot, ↓apply_ite Hub.boot,
    ite_self]
@[simp] theorem Hub.openCoupler_boot (h : Hub) : h.openCoupler.boot = h.boot := by
  simp only [Hub.openCoupler, ↓Hub.portStart_boot, ↓Hub.boot_mk, ↓apply_ite Hub.boot, ite_self]
@[simp] theorem Hub.startHk_boot (h : Hub) : h.startHk.boot = h.boot := by
  simp only [Hub.startHk, ↓Hub.emitRecord_boot, ↓Hub.setFlow_boot, ↓forAll_boot, ↓Hub.boot_mk, implies_true]
@[simp] theorem Hub.reSweep_boot (h : Hub) (d : Nat) : (h.reSweep d).boot = h.boot := by
  simp only [Hub.reSweep, ↓Hub.boot_mk]
@[simp] theorem Hub.confirmImage_boot (h : Hub) : h.confirmImage.boot = h.boot := by
  unfold Hub.confirmImage
  dsimp only
  repeat' split
  all_goals simp only [↓Hub.boot_mk]
@[simp] theorem Hub.syncDrops_boot (h : Hub) (id : Word) : (h.syncDrops id).boot = h.boot := by
  simp only [Hub.syncDrops, ↓Hub.mapCh_boot]
@[simp] theorem Hub.mapDie_boot (h : Hub) (f : Nat → Die → Die) : (h.mapDie f).boot = h.boot := by
  simp only [Hub.mapDie, ↓Hub.boot_mk]
@[simp] theorem Hub.switchDrops_boot (h : Hub) (id : Word) : (h.switchDrops id).boot = h.boot := by
  simp only [Hub.switchDrops, ↓Hub.mapCh_boot, ↓Hub.mapDie_boot]
@[simp] theorem Hub.dropAction_boot (h : Hub) (id : Word) : (h.dropAction id).boot = h.boot := by
  simp only [Hub.dropAction, ↓Hub.switchDrops_boot, ↓Hub.syncDrops_boot, ↓Hub.boot_mk]
@[simp] theorem Hub.schedDone_boot (h : Hub) (t : Nat) (id : Word) (status lateUs : Nat) :
    (h.schedDone t id status lateUs).boot = h.boot := by
  simp only [Hub.schedDone, ↓Hub.dropAction_boot, ↓Hub.eventAt_boot]
@[simp] theorem Hub.planeDone_boot (h : Hub) (id : Word) (status : Nat) : (h.planeDone id status).boot = h.boot := by
  unfold Hub.planeDone
  split <;> simp only [↓Hub.schedDone_boot]
@[simp] theorem Hub.jobEnds_boot (h : Hub) (j : LogJob) (status : Nat) : (h.jobEnds j status).boot = h.boot := by
  unfold Hub.jobEnds
  split <;> simp only [↓Hub.planeDone_boot, ↓Hub.setTag_boot]
@[simp] theorem Hub.writeExpiry_boot (h : Hub) : h.writeExpiry.boot = h.boot := by
  unfold Hub.writeExpiry
  repeat' split
  all_goals simp only [↓Hub.jobEnds_boot, ↓Hub.tick_boot, ↓Hub.setMgmt_boot]
@[simp] theorem Hub.tagNext_boot (h : Hub) : h.tagNext.boot = h.boot := by
  unfold Hub.tagNext
  dsimp only
  repeat' split
  all_goals simp only [↓Hub.writeExpiry_boot, ↓Hub.setTag_boot]
@[simp] theorem Hub.tagRough_boot (h : Hub) : h.tagRough.boot = h.boot := by
  simp only [Hub.tagRough, ↓Hub.tagNext_boot, ↓Hub.setTag_boot]
@[simp] theorem Hub.skimOn_boot (c : Nat) (h : Hub) : (Hub.skimOn c h).boot = h.boot := by
  simp only [Hub.skimOn, ↓Hub.setCh_boot, ↓apply_ite Hub.boot, ite_self]
@[simp] theorem Hub.passEnds_boot (h : Hub) : h.passEnds.boot = h.boot := by
  simp only [Hub.passEnds, ↓Hub.boot_mk, ↓apply_ite Hub.boot, ite_self]
@[simp] theorem Hub.accept_boot (h : Hub) (c : Nat) (w : ChanWrite) : (h.accept c w).boot = h.boot := by
  simp only [Hub.accept, ↓Hub.setCh_boot, ↓Hub.boot_mk, ↓apply_ite Hub.boot, ite_self]

@[simp] theorem Hub.rawReassign_flash (h : Hub) : h.rawReassign.flash = h.flash :=
  Hub.still_flash (Hub.rawReassign_still ..)
@[simp] theorem Hub.laneAway_flash (h : Hub) (a : Align) : (h.laneAway a).flash = h.flash := by
  simp only [Hub.laneAway, ↓Hub.setAlign_flash, ↓Hub.setTm_flash, ↓apply_ite Hub.flash, ite_self]
@[simp] theorem Hub.linkGone_flash (h : Hub) : h.linkGone.flash = h.flash := by
  simp only [Hub.linkGone, ↓Hub.laneAway_flash, ↓apply_ite Hub.flash, ite_self]
@[simp] theorem Hub.unsend_flash (h : Hub) (p : Nat) : (h.unsend p).flash = h.flash := by
  simp only [Hub.unsend, ↓Hub.flash_mk]
@[simp] theorem Hub.discardNote_flash (h : Hub) (p n : Nat) : (h.discardNote p n).flash = h.flash := by
  simp only [Hub.discardNote, ↓Hub.notice_flash, ↓Hub.flash_mk, ↓apply_ite Hub.flash, ite_self]
@[simp] theorem Hub.portLost_flash (h : Hub) (p : Nat) (st : PState) : (h.portLost p st).flash = h.flash := by
  simp only [Hub.portLost, ↓Hub.discardNote_flash, ↓Hub.linkGone_flash, ↓Hub.setPort_flash, ↓Hub.unsend_flash, ↓Hub.flash_mk, ↓apply_ite
    Hub.flash, ite_self]
@[simp] theorem Hub.portStart_flash (h : Hub) (p : Nat) : (h.portStart p).flash = h.flash := by
  simp only [Hub.portStart, ↓Hub.portLost_flash, ↓Hub.rawReassign_flash, ↓Hub.setPort_flash, ↓Hub.watermarks_flash, ↓apply_ite Hub.flash,
    ite_self]
@[simp] theorem Hub.openCoupler_flash (h : Hub) : h.openCoupler.flash = h.flash := by
  simp only [Hub.openCoupler, ↓Hub.portStart_flash, ↓Hub.flash_mk, ↓apply_ite Hub.flash, ite_self]

@[simp] theorem Hub.askWidth_reps (h : Hub) (p w : Nat) : (h.askWidth p w).reps = h.reps := by
  simp only [Hub.askWidth, ↓Hub.ctl_reps, ↓Hub.setPort_reps, ↓apply_ite Hub.reps, ite_self]

theorem forAll_reps {α : Type} (f : α → Hub → Hub) (hf : ∀ a h, (f a h).reps = h.reps) (l : List α) (h : Hub) :
    (forAll l f h).reps = h.reps := forAll_keeps Hub.reps f hf l h
theorem iter_reps (f : Hub → Hub) (hf : ∀ h, (f h).reps = h.reps) (n : Nat) (h : Hub) : (iter f n h).reps = h.reps :=
  iter_keeps Hub.reps f hf n h
theorem Hub.reps_mk (x0 x1 x2 x3 x4 x5 x6 x7 x8 x9 x10 x11 x12 x13 x14 x15 x16 x17 x18 x19 x20 x21 x22 x23 x24 x25 x26 x27 x28 x29 x30 x31)
    : (Hub.mk x0 x1 x2 x3 x4 x5 x6 x7 x8 x9 x10 x11 x12 x13 x14 x15 x16 x17 x18 x19 x20 x21 x22 x23 x24 x25 x26 x27 x28 x29 x30 x31).reps =
    x5 := rfl

@[simp] theorem Hub.rawReassign_reps (h : Hub) : h.rawReassign.reps = h.reps :=
  Hub.still_reps (Hub.rawReassign_still ..)
@[simp] theorem Hub.laneAway_reps (h : Hub) (a : Align) : (h.laneAway a).reps = h.reps := by
  simp only [Hub.laneAway, ↓Hub.setAlign_reps, ↓Hub.setTm_reps, ↓apply_ite Hub.reps, ite_self]
@[simp] theorem Hub.linkGone_reps (h : Hub) : h.linkGone.reps = h.reps := by
  simp only [Hub.linkGone, ↓Hub.laneAway_reps, ↓apply_ite Hub.reps, ite_self]
@[simp] theorem Hub.unsend_reps (h : Hub) (p : Nat) : (h.unsend p).reps = h.reps := by
  simp only [Hub.unsend, ↓Hub.reps_mk]
@[simp] theorem Hub.discardNote_reps (h : Hub) (p n : Nat) : (h.discardNote p n).reps = h.reps := by
  simp only [Hub.discardNote, ↓Hub.notice_reps, ↓Hub.reps_mk, ↓apply_ite Hub.reps, ite_self]
@[simp] theorem Hub.portLost_reps (h : Hub) (p : Nat) (st : PState) : (h.portLost p st).reps = h.reps := by
  simp only [Hub.portLost, ↓Hub.discardNote_reps, ↓Hub.linkGone_reps, ↓Hub.setPort_reps, ↓Hub.unsend_reps, ↓Hub.reps_mk, ↓apply_ite
    Hub.reps, ite_self]
@[simp] theorem Hub.portStart_reps (h : Hub) (p : Nat) : (h.portStart p).reps = h.reps := by
  simp only [Hub.portStart, ↓Hub.portLost_reps, ↓Hub.rawReassign_reps, ↓Hub.setPort_reps, ↓Hub.watermarks_reps, ↓apply_ite Hub.reps,
    ite_self]
@[simp] theorem Hub.openCoupler_reps (h : Hub) : h.openCoupler.reps = h.reps := by
  simp only [Hub.openCoupler, ↓Hub.portStart_reps, ↓Hub.reps_mk, ↓apply_ite Hub.reps, ite_self]
@[simp] theorem Hub.crossEvent_reps (h : Hub) (d row latency : Nat) : (h.crossEvent d row latency).reps = h.reps := by
  simp only [Hub.crossEvent, ↓Hub.setDie_reps, modAt]
@[simp] theorem Hub.portDown_reps (h : Hub) (p : Nat) (st : PState) : (h.portDown p st).reps = h.reps := by
  simp only [Hub.portDown, ↓Hub.portLost_reps, ↓Hub.rawReassign_reps, ↓Hub.watermarks_reps, ↓apply_ite Hub.reps, ite_self]
@[simp] theorem Hub.reLevel_reps (h : Hub) : h.reLevel.reps = h.reps := by
  simp only [Hub.reLevel, ↓Hub.setLevel_reps, ↓apply_ite Hub.reps, ite_self]
@[simp] theorem Hub.clockLoss_reps (h : Hub) : h.clockLoss.reps = h.reps := by
  simp only [Hub.clockLoss, ↓Hub.laneAway_reps, ↓Hub.setPort_reps, ↓Hub.setTm_reps]
@[simp] theorem Hub.closeCoupler_reps (h : Hub) (byHost : Bool) : (h.closeCoupler byHost).reps = h.reps := by
  simp only [Hub.closeCoupler, ↓Hub.clockLoss_reps, ↓Hub.portDown_reps, ↓Hub.reps_mk]
@[simp] theorem Hub.plainWidth_reps (h : Hub) (p : Nat) : (h.plainWidth p).reps = h.reps := by
  simp only [Hub.plainWidth, ↓Hub.rawReassign_reps, ↓Hub.setPort_reps, ↓apply_ite Hub.reps, ite_self]
@[simp] theorem Hub.narrow_reps (h : Hub) (p : Nat) : (h.narrow p).reps = h.reps := by
  simp only [Hub.narrow, ↓Hub.askWidth_reps, ↓Hub.plainWidth_reps, ↓apply_ite Hub.reps, ite_self]
@[simp] theorem Hub.retireLane_reps (h : Hub) (p l code count : Nat) (loopbackOk : Bool) :
    (h.retireLane p l code count loopbackOk).reps = h.reps := by
  simp only [Hub.retireLane, ↓Hub.closeCoupler_reps, ↓Hub.crossEvent_reps, ↓Hub.event_reps, ↓Hub.laneAway_reps, ↓Hub.narrow_reps,
    ↓Hub.portDown_reps, ↓Hub.reLevel_reps, ↓Hub.setLane_reps, ↓Hub.setPort_reps, ↓Hub.setTm_reps, ↓apply_ite Hub.reps, ite_self]
@[simp] theorem Hub.readCopies_reps (h : Hub) : h.readCopies.reps = h.reps := by
  unfold Hub.readCopies
  repeat' split
  all_goals simp only [↓Hub.notice_reps, ↓Hub.setBoot_reps, ↓Hub.reps_mk]
@[simp] theorem Hub.accept_reps (h : Hub) (c : Nat) (w : ChanWrite) : (h.accept c w).reps = h.reps := by
  simp only [Hub.accept, ↓Hub.setCh_reps, ↓Hub.reps_mk, ↓apply_ite Hub.reps, ite_self]

theorem forAll_cal {α : Type} (f : α → Hub → Hub) (hf : ∀ a h, (f a h).cal = h.cal) (l : List α) (h : Hub) :
    (forAll l f h).cal = h.cal := forAll_keeps Hub.cal f hf l h
theorem iter_cal (f : Hub → Hub) (hf : ∀ h, (f h).cal = h.cal) (n : Nat) (h : Hub) : (iter f n h).cal = h.cal :=
  iter_keeps Hub.cal f hf n h
theorem Hub.cal_mk (x0 x1 x2 x3 x4 x5 x6 x7 x8 x9 x10 x11 x12 x13 x14 x15 x16 x17 x18 x19 x20 x21 x22 x23 x24 x25 x26 x27 x28 x29 x30 x31)
    : (Hub.mk x0 x1 x2 x3 x4 x5 x6 x7 x8 x9 x10 x11 x12 x13 x14 x15 x16 x17 x18 x19 x20 x21 x22 x23 x24 x25 x26 x27 x28 x29 x30 x31).cal =
    x24 := rfl

@[simp] theorem Hub.startHk_cal (h : Hub) : h.startHk.cal = h.cal := by
  simp only [Hub.startHk, ↓Hub.emitRecord_cal, ↓Hub.setFlow_cal, ↓forAll_cal, ↓Hub.cal_mk, implies_true]
@[simp] theorem Hub.reSweep_cal (h : Hub) (d : Nat) : (h.reSweep d).cal = h.cal := by
  simp only [Hub.reSweep, ↓Hub.cal_mk]
@[simp] theorem Hub.confirmImage_cal (h : Hub) : h.confirmImage.cal = h.cal := by
  unfold Hub.confirmImage
  dsimp only
  repeat' split
  all_goals simp only [↓Hub.cal_mk]
@[simp] theorem Hub.syncDrops_cal (h : Hub) (id : Word) : (h.syncDrops id).cal = h.cal := by
  simp only [Hub.syncDrops, ↓Hub.mapCh_cal]
@[simp] theorem Hub.mapDie_cal (h : Hub) (f : Nat → Die → Die) : (h.mapDie f).cal = h.cal := by
  simp only [Hub.mapDie, ↓Hub.cal_mk]
@[simp] theorem Hub.switchDrops_cal (h : Hub) (id : Word) : (h.switchDrops id).cal = h.cal := by
  simp only [Hub.switchDrops, ↓Hub.mapCh_cal, ↓Hub.mapDie_cal]
@[simp] theorem Hub.dropAction_cal (h : Hub) (id : Word) : (h.dropAction id).cal = h.cal := by
  simp only [Hub.dropAction, ↓Hub.switchDrops_cal, ↓Hub.syncDrops_cal, ↓Hub.cal_mk]
@[simp] theorem Hub.schedDone_cal (h : Hub) (t : Nat) (id : Word) (status lateUs : Nat) : (h.schedDone t id status lateUs).cal = h.cal := by
  simp only [Hub.schedDone, ↓Hub.dropAction_cal, ↓Hub.eventAt_cal]
@[simp] theorem Hub.planeDone_cal (h : Hub) (id : Word) (status : Nat) : (h.planeDone id status).cal = h.cal := by
  unfold Hub.planeDone
  split <;> simp only [↓Hub.schedDone_cal]
@[simp] theorem Hub.jobEnds_cal (h : Hub) (j : LogJob) (status : Nat) : (h.jobEnds j status).cal = h.cal := by
  unfold Hub.jobEnds
  split <;> simp only [↓Hub.planeDone_cal, ↓Hub.setTag_cal]
@[simp] theorem Hub.writeExpiry_cal (h : Hub) : h.writeExpiry.cal = h.cal := by
  unfold Hub.writeExpiry
  repeat' split
  all_goals simp only [↓Hub.jobEnds_cal, ↓Hub.tick_cal, ↓Hub.setMgmt_cal]
@[simp] theorem Hub.tagNext_cal (h : Hub) : h.tagNext.cal = h.cal := by
  unfold Hub.tagNext
  dsimp only
  repeat' split
  all_goals simp only [↓Hub.writeExpiry_cal, ↓Hub.setTag_cal]
@[simp] theorem Hub.tagRough_cal (h : Hub) : h.tagRough.cal = h.cal := by
  simp only [Hub.tagRough, ↓Hub.tagNext_cal, ↓Hub.setTag_cal]
@[simp] theorem Hub.skimOn_cal (c : Nat) (h : Hub) : (Hub.skimOn c h).cal = h.cal := by
  simp only [Hub.skimOn, ↓Hub.setCh_cal, ↓apply_ite Hub.cal, ite_self]

theorem forAll_chans {α : Type} (f : α → Hub → Hub) (hf : ∀ a h, (f a h).chans = h.chans) (l : List α) (h : Hub) :
    (forAll l f h).chans = h.chans := forAll_keeps Hub.chans f hf l h
theorem iter_chans (f : Hub → Hub) (hf : ∀ h, (f h).chans = h.chans) (n : Nat) (h : Hub) : (iter f n h).chans = h.chans :=
  iter_keeps Hub.chans f hf n h
theorem Hub.chans_mk (x0 x1 x2 x3 x4 x5 x6 x7 x8 x9 x10 x11 x12 x13 x14 x15 x16 x17 x18 x19 x20 x21 x22 x23 x24 x25 x26 x27 x28 x29 x30
    x31) : (Hub.mk x0 x1 x2 x3 x4 x5 x6 x7 x8 x9 x10 x11 x12 x13 x14 x15 x16 x17 x18 x19 x20 x21 x22 x23 x24 x25 x26 x27 x28 x29 x30
    x31).chans = x3 := rfl

@[simp] theorem Hub.confirmImage_chans (h : Hub) : h.confirmImage.chans = h.chans := by
  unfold Hub.confirmImage
  dsimp only
  repeat' split
  all_goals simp only [↓Hub.chans_mk]
@[simp] theorem Hub.passEnds_chans (h : Hub) : h.passEnds.chans = h.chans := by
  simp only [Hub.passEnds, ↓Hub.chans_mk, ↓apply_ite Hub.chans, ite_self]

@[simp] theorem Hub.reLevel_tm (h : Hub) : h.reLevel.tm = h.tm := by
  simp only [Hub.reLevel, ↓Hub.setLevel_tm, ↓apply_ite Hub.tm, ite_self]

end Sys2Proof.Machine
end





section
/-! PROOFS. Supplies and resets (R381, R446 to R448, R467): what a reset of the dies leaves, and what VIO_A and VIO_B carry away. -/

namespace Sys2Proof.Machine

/-! ## What an edge at a pin leaves of the clocks -/

@[simp] theorem Hub.tinEdge_clk (h : Hub) (i : Nat) (falling : Bool) (ago : Nat) : (h.tinEdge i falling ago).clk = h.clk := by
  unfold Hub.tinEdge
  simp only [↓Hub.emitRecord_clk, ↓Hub.tiuEdge_clk, ↓Hub.setTm_clk, ↓apply_ite Hub.clk, ite_self, modAt]
@[simp] theorem Hub.konEvent_clk (h : Hub) (who stamp : Nat) : (h.konEvent who stamp).clk = h.clk := by
  simp only [Hub.konEvent, ↓Hub.clk_mk]
@[simp] theorem Hub.reserveDie_clk (n : Nat) (eval : Bool) (d : Nat) (h : Hub) : (Hub.reserveDie n eval d h).clk = h.clk := by
  unfold Hub.reserveDie
  repeat' split
  all_goals simp only [↓Hub.notice_clk, ↓Hub.setCap_clk, ↓Hub.clk_mk, ↓apply_ite Hub.clk, ite_self]
@[simp] theorem Hub.reserve_clk (h : Hub) (n : Nat) : (h.reserve n).clk = h.clk := by
  unfold Hub.reserve
  split <;> simp only [↓Hub.reserveDie_clk, ↓forAll_clk, implies_true]
@[simp] theorem Hub.setCoach_clk (h : Hub) (d seq : Nat) (f : Coach → Coach) : (h.setCoach d seq f).clk = h.clk := by
  simp only [Hub.setCoach, ↓Hub.setDie_clk]
@[simp] theorem Hub.coachRecord_clk (h : Hub) (k : FlowKey) (stream first : Nat) (b : Bytes) :
    (h.coachRecord k stream first b).1.clk = h.clk := by
  unfold Hub.coachRecord
  split
  · rfl
  · exact h.setFlow_clk _ _
@[simp] theorem Hub.sendCoach_clk (h : Hub) (d : Nat) (c : Coach) : (h.sendCoach d c).clk = h.clk := by
  unfold Hub.sendCoach
  simp only [↓Hub.setCoach_clk, ↓Hub.coachRecord_clk]
  split
  · simp only [↓apply_ite Hub.clk, ↓Hub.setDie_clk, ↓Hub.coachRecord_clk, ite_self]
  · rfl
@[simp] theorem Hub.sendWanted_clk (h : Hub) (d : Nat) : (h.sendWanted d).clk = h.clk := by
  simp only [Hub.sendWanted, ↓Hub.flowTouch_clk, ↓Hub.sendCoach_clk, ↓forAll_clk, ↓apply_ite Hub.clk, ite_self, implies_true]
@[simp] theorem Hub.retryWait_clk (h : Hub) (d : Nat) : (h.retryWait d).clk = h.clk := by
  refine forAll_clk _ (fun n g => ?_) _ _
  split <;> simp only [↓apply_ite Hub.clk, ↓Hub.reserveDie_clk, ite_self]
@[simp] theorem Hub.disarm_clk (h : Hub) (n : Nat) : (h.disarm n).clk = h.clk := by
  simp only [Hub.disarm, ↓Hub.retryWait_clk, ↓forAll_clk, ↓Hub.clk_mk, modAt, implies_true]
@[simp] theorem Hub.trainDone_clk (h : Hub) (n : Nat) : (h.trainDone n).clk = h.clk := by
  unfold Hub.trainDone
  repeat' split
  all_goals simp only [↓Hub.disarm_clk, ↓Hub.notice_clk, ↓Hub.reserve_clk, ↓Hub.sendWanted_clk, ↓Hub.setCap_clk, ↓Hub.setDie_clk,
    ↓forAll_clk, implies_true]
@[simp] theorem Hub.trigLate_clk (h : Hub) (t who limit : Nat) : (h.trigLate t who limit).clk = h.clk := by
  simp only [Hub.trigLate, ↓Hub.eventAt_clk]
@[simp] theorem Hub.startCoach_clk (n : Nat) (t : Trigger) (trainId missed : Nat) (y : CapChan) (h : Hub) :
    (Hub.startCoach n t trainId missed y h).clk = h.clk := by
  unfold Hub.startCoach
  split <;> simp only [↓Hub.setCap_clk, ↓Hub.setCh_clk, ↓Hub.setDie_clk, ↓Hub.trigLate_clk, ↓Hub.clk_mk, ↓apply_ite Hub.clk,
    ite_self]
@[simp] theorem Hub.retireChan_clk (h : Hub) (c code count : Nat) : (h.retireChan c code count).clk = h.clk := by
  unfold Hub.retireChan
  dsimp only
  repeat' split
  all_goals simp only [↓Hub.event_clk, ↓Hub.setCh_clk, ↓Hub.setDie_clk]
@[simp] theorem Hub.spareChan_clk (h : Hub) (c code : Nat) (readable : Bool) : (h.spareChan c code readable).clk = h.clk := by
  unfold Hub.spareChan
  dsimp only
  repeat' split
  all_goals simp only [↓Hub.notice_clk, ↓Hub.retireChan_clk, ↓Hub.setCh_clk, ↓Hub.setDie_clk]
@[simp] theorem Hub.setEngWin_clk (h : Hub) (d : Nat) (u : Word) (w : Option FaultWin) : (h.setEngWin d u w).clk = h.clk := by
  simp only [Hub.setEngWin, ↓Hub.setDie_clk]
@[simp] theorem Hub.placeUse_clk (h : Hub) (d e c : Nat) (others : List Nat) (get : Chan → Option ChurnUse) (put :
    Option ChurnUse → Chan → Chan) : (h.placeUse d e c others get put).clk = h.clk := by
  unfold Hub.placeUse
  split
  · rfl
  · split
    · rfl
    · split <;> exact h.setCh_clk _ _
@[simp] theorem Hub.moveChurn_clk (h : Hub) (d e : Nat) : (h.moveChurn d e).clk = h.clk := by
  rw [h.moveChurn_eq]
  refine forAll_clk _ (fun c g => ?_) _ _
  simp only [Hub.placeUses, ↓apply_ite Hub.clk, ↓Hub.notice_clk, ↓Hub.placeUse_clk, ite_self]
@[simp] theorem Hub.retireEngine_clk (h : Hub) (d typ e : Nat) : (h.retireEngine d typ e).clk = h.clk := by
  simp only [Hub.retireEngine, ↓Hub.moveChurn_clk, ↓Hub.setDie_clk, ↓apply_ite Hub.clk, ite_self, modAt]
@[simp] theorem Hub.engineFail_clk (h : Hub) (d typ e code : Nat) (readable passes : Bool) :
    (h.engineFail d typ e code readable passes).clk = h.clk := by
  unfold Hub.engineFail
  dsimp only
  repeat' split
  all_goals simp only [↓Hub.event_clk, ↓Hub.retireEngine_clk, ↓Hub.setDie_clk, ↓Hub.setEngWin_clk, ↓Hub.spareChan_clk,
    ↓Hub.clk_mk]
@[simp] theorem Hub.churnMismatch_clk (h : Hub) (d e : Nat) : (h.churnMismatch d e).clk = h.clk := by
  simp only [Hub.churnMismatch, ↓Hub.engineFail_clk, ↓Hub.event_clk, ↓Hub.setDie_clk, ↓Hub.tick_clk, ↓apply_ite Hub.clk, ite_self,
    modAt]
@[simp] theorem Hub.coachPayload_clk (h : Hub) (c : Coach) : (h.coachPayload c).1.clk = h.clk := by
  unfold Hub.coachPayload
  split
  · rfl
  · simp only [↓iter_clk, ↓Hub.churnMismatch_clk, ↓Hub.clk_mk, ↓Hub.setCh_clk, implies_true]
@[simp] theorem Hub.coachDone_clk (h : Hub) (d seq : Nat) : (h.coachDone d seq).clk = h.clk := by
  unfold Hub.coachDone
  split
  · rfl
  · next c _ =>
    have paid := h.coachPayload_clk c
    generalize h.coachPayload c = formed at paid ⊢
    obtain ⟨g, pay, churn⟩ := formed
    simp only [↓Hub.trainDone_clk, ↓apply_ite Hub.clk, ↓Hub.retryWait_clk, ↓Hub.setCap_clk, ↓Hub.setCoach_clk, ite_self]
    exact paid
@[simp] theorem Hub.coachFull_clk (n c : Nat) (h : Hub) : (Hub.coachFull n c h).clk = h.clk := by
  unfold Hub.coachFull
  split <;> simp only [↓Hub.coachDone_clk, ↓apply_ite Hub.clk, ite_self]
@[simp] theorem Hub.capJoin_clk (h : Hub) (n id source : Nat) (c : Capture) : (h.capJoin n id source c).clk = h.clk := by
  refine (forAll_clk _ (fun d g => ?_) _ _).trans (Hub.setCap_clk ..)
  exact Hub.setDie_clk ..
@[simp] theorem Hub.capHit_clk (n : Nat) (t : Trigger) (h : Hub) : (Hub.capHit n t h).clk = h.clk := by
  unfold Hub.capHit
  repeat' split
  all_goals simp only [↓Hub.capJoin_clk, ↓Hub.coachFull_clk, ↓Hub.setCap_clk, ↓Hub.startCoach_clk, ↓Hub.trainDone_clk, ↓forAll_clk,
    ↓Hub.clk_mk, implies_true]
@[simp] theorem Hub.capFire_clk (h : Hub) (t : Trigger) (sel : CapParams → Bool) : (h.capFire t sel).clk = h.clk := by
  refine forAll_clk _ (fun n g => ?_) _ _
  split <;> simp only [↓apply_ite Hub.clk, ↓Hub.capHit_clk, ite_self]
@[simp] theorem Hub.queue_clk (h : Hub) (p : Nat) (f : Frame) : (h.queue p f).clk = h.clk := by
  simp only [Hub.queue, ↓Hub.setLink_clk, modAt]
@[simp] theorem Hub.originate_clk (h : Hub) (cls kind : Nat) (body : Bytes) : (h.originate cls kind body).clk = h.clk := by
  simp only [Hub.originate, ↓Hub.queue_clk, ↓apply_ite Hub.clk, ite_self]
@[simp] theorem Hub.arrAct_clk (h : Hub) (m : ArrMsg) : (h.arrAct m).clk = h.clk := by
  simp only [Hub.arrAct, ↓Hub.capFire_clk, ↓Hub.trigLate_clk, ↓Hub.clk_mk, ↓apply_ite Hub.clk, ite_self]
@[simp] theorem Hub.arrOriginate_clk (h : Hub) (t : Trigger) (group : Nat) : (h.arrOriginate t group).clk = h.clk := by
  simp only [Hub.arrOriginate, ↓Hub.arrAct_clk, ↓Hub.originate_clk, ↓Hub.clk_mk, ↓apply_ite Hub.clk, ite_self]
@[simp] theorem Hub.detRecord_clk (h : Hub) (d : Nat) (b : Bytes) : (h.detRecord d b).clk = h.clk := by
  simp only [Hub.detRecord, ↓Hub.emitRecord_clk]
@[simp] theorem Hub.fire_clk (h : Hub) (d source stamp missed info : Nat) (flags : Byte) (route : Word) (sel : CapParams → Bool) :
    (h.fire d source stamp missed info flags route sel).clk = h.clk := by
  simp only [Hub.fire, ↓Hub.arrOriginate_clk, ↓Hub.capFire_clk, ↓Hub.detRecord_clk, ↓Hub.clk_mk, ↓apply_ite Hub.clk, ite_self]
@[simp] theorem Hub.trigEdge_clk (h : Hub) (pin : Nat) (falling : Bool) (run : Nat) : (h.trigEdge pin falling run).clk = h.clk := by
  simp only [Hub.trigEdge, ↓Hub.fire_clk, ↓Hub.konEvent_clk, ↓Hub.clk_mk, ↓apply_ite Hub.clk, ite_self, modAt]
@[simp] theorem Hub.fciHolds_clk (h : Hub) : h.fciHolds.clk = h.clk := by
  simp only [Hub.fciHolds, ↓Hub.clk_mk]
@[simp] theorem Hub.fci_clk (h : Hub) (pin : Nat) (level : Bool) : (h.fci pin level).clk = h.clk := by
  simp only [Hub.fci, ↓Hub.fciHolds_clk, ↓Hub.clk_mk, modAt]

/-! ## The pins of a bank whose supply goes (R446) -/

/-- What the edges at the pins of a bank leave. -/
structure PinsFallen (h g : Hub) : Prop where
  boot : g.boot = h.boot
  clk : g.clk = h.clk
  pwr : g.pwr = h.pwr
  fseal : g.fseal = h.fseal
  flash : g.flash = h.flash
  form : g.form = h.form
  duties : g.duties = h.duties

theorem Hub.setVio_eq (h : Hub) (a b : Bool) :
    ∃ g : Hub, PinsFallen h g ∧ h.setVio a b = { g with pwr := { g.pwr with vioA := a, vioB := b } } := by
  unfold Hub.setVio
  extract_lets lost pins tins trigs fcis
  clear_value pins
  have view {α : Type} (view : Hub → α) (tin : ∀ i h, view (h.tinEdge i true 0) = view h)
      (trig : ∀ i h, view (h.trigEdge i true 9) = view h) (fci : ∀ i h, view (h.fci i false) = view h) : view fcis = view h := by
    have fallen : view trigs = view h := (forAll_keeps view _ trig _ _).trans (forAll_keeps view _ tin _ _)
    exact ite_keeps view ((forAll_keeps view _ fci _ _).trans fallen) fallen
  have pwr := view Hub.pwr (fun i h => h.tinEdge_pwr i true 0) (fun i h => h.trigEdge_pwr i true 9) fun i h => h.fci_pwr i false
  refine ⟨fcis, ⟨?_, ?_, pwr, ?_, ?_, ?_, ?_⟩, rfl⟩
  · exact view Hub.boot (fun i h => h.tinEdge_boot i true 0) (fun i h => h.trigEdge_boot i true 9) fun i h => h.fci_boot i false
  · exact view Hub.clk (fun i h => h.tinEdge_clk i true 0) (fun i h => h.trigEdge_clk i true 9) fun i h => h.fci_clk i false
  · exact view Hub.fseal (fun i h => h.tinEdge_fseal i true 0) (fun i h => h.trigEdge_fseal i true 9) fun i h => h.fci_fseal i false
  · exact view Hub.flash (fun i h => h.tinEdge_flash i true 0) (fun i h => h.trigEdge_flash i true 9) fun i h => h.fci_flash i false
  · exact view Hub.form (fun i h => h.tinEdge_form i true 0) (fun i h => h.trigEdge_form i true 9) fun i h => h.fci_form i false
  · exact view Hub.duties (fun i h => h.tinEdge_duties i true 0) (fun i h => h.trigEdge_duties i true 9) fun i h => h.fci_duties i false

theorem Hub.setVio_same {h : Hub} (a : h.pwr.vioA = true) {b : Bool} (same : h.pwr.vioB = b) : h.setVio true b = h := by
  have none : ((List.range 8).filter fun i => h.vio (i / 4) && !(if i / 4 = 0 then true else b)) = [] := by
    refine List.filter_eq_nil_iff.2 fun i _ => ?_
    unfold Hub.vio
    split <;> simp [same]
  unfold Hub.setVio
  extract_lets lost pins tins trigs fcis
  have pins_nil : pins = [] := none
  have fallen : fcis = h := by
    have tins_same : tins = h := by rw [show tins = forAll _ _ h from rfl, pins_nil]; rfl
    have trigs_same : trigs = h := by rw [show trigs = forAll _ _ _ from rfl, pins_nil, tins_same]; rfl
    exact (if_neg (by simp [lost])).trans trigs_same
  show ({ fcis with pwr := { fcis.pwr with vioA := true, vioB := b } } : Hub) = h
  rw [fallen, ← a, ← same]

/-! ## What resets of the dies keep (R381, R467) -/

/-- What a reset of the dies spares and what it sets anew, as the statements say it. -/
def Hub.Spares (h g : Hub) : Prop :=
  g.flt.closed = true ∧ g.fseal.st = h.fseal.st ∧ g.fseal.key = h.fseal.key ∧ g.fseal.session = false ∧ g.tag.mem = h.tag.mem ∧
    g.flash.floor = h.flash.floor ∧ g.flash.a = h.flash.a ∧ g.flash.b = h.flash.b ∧ g.ident = h.ident ∧ g.mgmt = Mgmt.reset ∧
    g.tm = Tm.reset

theorem Hub.afterReset_spares (h : Hub) (t : Tap) : h.Spares (h.afterReset t) :=
  ⟨rfl, rfl, rfl, rfl, rfl, rfl, rfl, rfl, rfl, rfl, rfl⟩

/-- A reset of the dies spares what it is to spare of the hub that they were in before. -/
theorem Hub.Spares.of_same {h k g : Hub} (spares : k.Spares g) (fseal : k.fseal = h.fseal) (mem : k.tag.mem = h.tag.mem)
    (flash : k.flash = h.flash) (ident : k.ident = h.ident) : h.Spares g := by
  unfold Hub.Spares at spares ⊢
  rwa [← fseal, ← mem, ← flash, ← ident]

theorem Hub.spares_resetDies (h : Hub) : h.Spares h.resetDies := by
  obtain ⟨t, eq⟩ := h.resetDies_eq
  rw [eq]
  exact h.afterReset_spares t

theorem Hub.resetDies_boot (h : Hub) : h.resetDies.boot = { (Hub.reset h.ident).boot with rst := h.boot.rst, bays := h.boot.bays } := by
  obtain ⟨t, eq⟩ := h.resetDies_eq
  rw [eq]
  rfl

theorem Hub.resetDies_supplied (h : Hub) : h.resetDies.pwr.vkeepOk = h.pwr.vkeepOk := by
  obtain ⟨t, eq⟩ := h.resetDies_eq
  rw [eq]
  rfl

theorem Hub.resetDies_elapsed (h : Hub) : h.resetDies.clk.elapsed = h.clk.elapsed := by
  obtain ⟨t, eq⟩ := h.resetDies_eq
  rw [eq]
  rfl

/-- The rails stay as they are in a reset of the dies. -/
theorem Hub.resetDies_rails {h : Hub} (shaped : h.dies.length = h.nDies) : h.resetDies.dies.map Die.rails = h.dies.map Die.rails := by
  obtain ⟨t, eq⟩ := h.resetDies_eq
  have length : (Hub.reset h.ident).dies.length = h.dies.length := (List.length_replicate ..).trans shaped.symm
  rw [eq]
  unfold Hub.afterReset
  refine List.ext_getElem (by simp [length]) fun i _ _ => ?_
  simp only [List.getElem_map, List.getElem_zipWith]

theorem rails_getD (l : List Die) (d : Nat) : (l.getD d Die.reset).rails = (l.map Die.rails).getD d false := by
  rw [List.getD_eq_getElem?_getD, List.getD_eq_getElem?_getD, List.getElem?_map]
  cases l[d]? <;> rfl

theorem Hub.die_rails_of {h g : Hub} (same : g.dies.map Die.rails = h.dies.map Die.rails) (d : Nat) :
    (g.die d).rails = (h.die d).rails := by
  unfold Hub.die
  rw [rails_getD, rails_getD, same]

theorem Hub.rails_of_duties {h g : Hub} (same : g.duties = h.duties) : g.dies.map Die.rails = h.dies.map Die.rails := by
  have views (k : Hub) : k.dies.map Die.rails = k.duties.map fun u => u.2.2.2.2.2.2.1 := by
    rw [Hub.duties, List.map_map]
    rfl
  rw [views, views, same]

/-! ## The release of the reset (R467) -/

theorem Hub.releaseReset_stays {h : Hub} (stays : (h.die 0).rails = false ∨ h.pwr.vkeepOk = false ∨ h.boot.rst = false) :
    h.releaseReset = h := by
  refine if_neg fun released => ?_
  simp only [Bool.and_eq_true] at released
  obtain ⟨⟨⟨-, rst⟩, rails⟩, supplied⟩ := released
  rcases stays with off | off | off <;> simp [off] at rst rails supplied

theorem Hub.releaseReset_runs {h : Hub} (tr : h.boot.tr = none) (rst : h.boot.rst = true) (rails : (h.die 0).rails = true)
    (supplied : h.pwr.vkeepOk = true) :
    h.releaseReset = (h.setBoot fun b => { b with tr := some h.clk.elapsed }).setLevel .boot :=
  if_pos (by simp [tr, rst, rails, supplied])

theorem Hub.releaseReset_cases (h : Hub) :
    h.releaseReset = h ∨ h.releaseReset = (h.setBoot fun b => { b with tr := some h.clk.elapsed }).setLevel .boot :=
  (em _).symm.imp (fun off => if_neg off) fun on => if_pos on

theorem Hub.releaseReset_boot {h : Hub} (tr : h.boot.tr = none) (rst : h.boot.rst = true) (rails : (h.die 0).rails = true)
    (supplied : h.pwr.vkeepOk = true) : h.releaseReset.boot = { h.boot with tr := some h.clk.elapsed, level := .boot } := by
  rw [Hub.releaseReset_runs tr rst rails supplied, Hub.setLevel_boot]
  rfl

theorem Hub.releaseReset_keeps {α : Type} (view : Hub → α) (level : ∀ g, view (g.setLevel .boot) = view g)
    (boot : ∀ (g : Hub) t, view (g.setBoot fun b => { b with tr := t }) = view g) (h : Hub) : view h.releaseReset = view h := by
  rcases h.releaseReset_cases with eq | eq <;> rw [eq]
  rw [level, boot]

theorem Hub.releaseReset_pwr (h : Hub) : h.releaseReset.pwr = h.pwr := Hub.releaseReset_keeps Hub.pwr (by simp) (fun _ _ => rfl) h
theorem Hub.releaseReset_dies (h : Hub) : h.releaseReset.dies = h.dies := Hub.releaseReset_keeps Hub.dies (by simp) (fun _ _ => rfl) h

theorem Hub.Spares.released {h g : Hub} (spares : h.Spares g) : h.Spares g.releaseReset := by
  rcases g.releaseReset_cases with eq | eq <;> rw [eq]
  · exact spares
  · unfold Hub.Spares
    rw [Hub.setLevel_flt, Hub.setLevel_fseal, Hub.setLevel_tag, Hub.setLevel_flash, Hub.setLevel_ident, Hub.setLevel_mgmt, Hub.setLevel_tm]
    exact spares

/-! ## Resets -/

theorem Hub.spares_packageReset (h : Hub) : h.Spares h.packageReset := h.spares_resetDies.released

/-- The boot state after a package reset: that of a reset, or of a reset that is released at once. -/
theorem Hub.packageReset_boot (h : Hub) : h.packageReset.boot = h.resetDies.boot ∨
    h.packageReset.boot = { h.resetDies.boot with tr := some h.clk.elapsed, level := .boot } := by
  refine h.resetDies.releaseReset_cases.imp (congrArg Hub.boot) fun eq => ?_
  rw [Hub.packageReset, eq, Hub.setLevel_boot, Hub.resetDies_elapsed]
  rfl

theorem Hub.packageReset_down (h : Hub) :
    h.packageReset.boot.resetAt = none ∧ h.packageReset.boot.running = false ∧ h.packageReset.boot.watchdog = none := by
  rcases h.packageReset_boot with eq | eq <;> rw [eq, Hub.resetDies_boot] <;> exact ⟨rfl, rfl, rfl⟩

theorem Hub.packageReset_starts {h : Hub} (shaped : Shaped h) (rst : h.boot.rst = true) (rails : (h.die 0).rails = true)
    (supplied : h.pwr.vkeepOk = true) :
    h.packageReset.boot.level = .boot ∧ h.packageReset.boot.tr = some h.clk.elapsed ∧ h.packageReset.boot.resetAt = none := by
  obtain ⟨-, -, length, -⟩ := shaped
  have boot : h.packageReset.boot = { h.resetDies.boot with tr := some h.resetDies.clk.elapsed, level := .boot } :=
    Hub.releaseReset_boot (by rw [h.resetDies_boot]; rfl) (by rw [h.resetDies_boot]; exact rst)
      ((Hub.die_rails_of (Hub.resetDies_rails length) 0).trans rails) (h.resetDies_supplied.trans supplied)
  rw [boot, h.resetDies_elapsed, h.resetDies_boot]
  exact ⟨rfl, rfl, rfl⟩

theorem Hub.resetDue_waits {h : Hub} {u : Nat} (asked : h.boot.resetAt = some u)
    (waits : h.clk.elapsed < u ∨ h.mgmt.owes [0x0103, 0x0106] = true) : h.resetDue = h := by
  unfold Hub.resetDue
  rw [asked]
  refine if_neg fun due => ?_
  obtain ⟨past, answered⟩ := due
  rcases waits with early | owes
  · exact absurd early (Nat.not_lt.2 past)
  · simp [owes] at answered

theorem Hub.resetDue_runs {h : Hub} {u : Nat} (asked : h.boot.resetAt = some u) (due : u ≤ h.clk.elapsed)
    (answered : h.mgmt.owes [0x0103, 0x0106] = false) : h.resetDue = h.packageReset := by
  unfold Hub.resetDue
  rw [asked]
  exact if_pos ⟨due, by simp [answered]⟩

theorem Hub.bootWatchdog_waits {h : Hub} {u : Nat} (set : h.boot.watchdog = some u)
    (waits : h.clk.elapsed < u + 1000000000 ∨ h.boot.level ≠ .boot) : h.bootWatchdog = h := by
  unfold Hub.bootWatchdog
  rw [set]
  exact if_neg fun due => waits.elim (Nat.not_lt.2 due.1) fun other => other due.2

theorem Hub.bootWatchdog_runs {h : Hub} {u : Nat} (set : h.boot.watchdog = some u) (due : u + 1000000000 ≤ h.clk.elapsed)
    (level : h.boot.level = .boot) : h.bootWatchdog = h.packageReset := by
  unfold Hub.bootWatchdog
  rw [set]
  exact if_pos ⟨due, level⟩

/-! ## The reset pin (R467) -/

/-- A reset by the pin: everything but the level's edge of the two supplies is gone. -/
theorem Hub.rstN_resets (h : Hub) {level va vb : Bool} (low : level = false ∨ va = false) : ∃ g,
    h.rstN level va vb = g ∧ h.Spares g ∧ g.boot.rst = false ∧ g.boot.level = .off ∧ g.pwr.stays = false ∧ g.boot.tr = none ∧
      g.pwr.vioA = va ∧ g.pwr.vioB = vb ∧ (Shaped h → g.dies.map Die.rails = h.dies.map Die.rails) := by
  obtain ⟨k, fallen, supplies⟩ := h.setVio_eq va vb
  obtain ⟨t, eq⟩ := (h.setVio va vb).resetDies_eq
  have form : (h.setVio va vb).form = h.form := h.setVio_form va vb
  refine ⟨((h.setVio va vb).resetDies.setPwr fun p => { p with stays := false }).setBoot fun b => { b with rst := false },
    if_neg (by rcases low with rfl | rfl <;> simp), ?_⟩
  refine ⟨?_, rfl, ?_, rfl, ?_, ?_, ?_, fun shaped => ?_⟩
  · refine Hub.Spares.of_same (k := h.setVio va vb) ?_ ?_ (congrArg Form.tag form) ?_ (congrArg Form.ident form)
    · exact (h.setVio va vb).spares_resetDies
    · rw [supplies]; exact fallen.fseal
    · rw [supplies]; exact fallen.flash
  · rw [Hub.setBoot_boot, Hub.setPwr_boot, Hub.resetDies_boot]; rfl
  · rw [Hub.setBoot_boot, Hub.setPwr_boot, Hub.resetDies_boot]; rfl
  · rw [eq, supplies]; rfl
  · rw [eq, supplies]; rfl
  · obtain ⟨-, -, length, -⟩ := shaped
    have same : (h.setVio va vb).dies.map Die.rails = h.dies.map Die.rails := by
      rw [supplies]
      exact Hub.rails_of_duties fallen.duties
    have nDies : (h.setVio va vb).nDies = h.nDies := congrArg (fun f => f.ident.variant.dies) form
    have kept := Hub.resetDies_rails ((Hub.dies_length_of_form form).trans (length.trans nDies.symm))
    exact (congrArg (List.map Die.rails) (Hub.setBoot_dies ..)).trans (kept.trans same)

/-- What raising the pin with VIO_A there leaves before the reset is released. -/
theorem Hub.rstN_raised (h : Hub) (vb : Bool) : ∃ k : Hub, h.rstN true true vb = k.releaseReset ∧
    k.boot = { h.boot with rst := true } ∧ k.clk = h.clk ∧ k.pwr = { h.pwr with vioA := true, vioB := vb } ∧
    ∀ d, (k.die d).rails = (h.die d).rails := by
  obtain ⟨g, fallen, eq⟩ := h.setVio_eq true vb
  refine ⟨(h.setVio true vb).setBoot fun b => { b with rst := true }, by unfold Hub.rstN; exact if_pos rfl, ?_, ?_, ?_, ?_⟩
  · rw [eq, ← fallen.boot]; rfl
  · rw [eq, ← fallen.clk]; rfl
  · rw [eq, ← fallen.pwr]; rfl
  · rw [eq]
    exact Hub.die_rails_of (Hub.rails_of_duties fallen.duties)

theorem Hub.rstN_waits {h : Hub} (tr : h.boot.tr = none) (waits : (h.die 0).rails = false ∨ h.pwr.vkeepOk = false) (vb : Bool) : ∃ g,
    h.rstN true true vb = g ∧ g.boot.rst = true ∧ g.boot.tr = none ∧ g.pwr.vioB = vb := by
  obtain ⟨k, eq, boot, -, pwr, rails⟩ := h.rstN_raised vb
  have stays : k.releaseReset = k := Hub.releaseReset_stays (waits.imp (rails 0).trans fun off => .inl (by rw [pwr]; exact off))
  refine ⟨k, eq.trans stays, ?_, ?_, ?_⟩
  · rw [boot]
  · rw [boot]; exact tr
  · rw [pwr]

theorem Hub.rstN_releases {h : Hub} (tr : h.boot.tr = none) (rails : (h.die 0).rails = true) (supplied : h.pwr.vkeepOk = true) (vb : Bool) :
    ∃ g, h.rstN true true vb = g ∧ g.boot.rst = true ∧ g.boot.tr = some h.clk.elapsed ∧ g.boot.level = .boot ∧ g.pwr.vioA = true ∧
      g.pwr.vioB = vb := by
  obtain ⟨k, eq, boot, clk, pwr, same⟩ := h.rstN_raised vb
  have released : k.releaseReset.boot = { k.boot with tr := some k.clk.elapsed, level := .boot } :=
    Hub.releaseReset_boot (by rw [boot]; exact tr) (by rw [boot]) ((same 0).trans rails) (by rw [pwr]; exact supplied)
  have powered : k.releaseReset.pwr = { h.pwr with vioA := true, vioB := vb } := k.releaseReset_pwr.trans pwr
  refine ⟨k.releaseReset, eq, ?_, ?_, ?_, ?_, ?_⟩
  · rw [released, boot]
  · rw [released, clk]
  · rw [released]
  · rw [powered]
  · rw [powered]

theorem Hub.rstN_same {h : Hub} {u : Nat} (tr : h.boot.tr = some u) (rst : h.boot.rst = true) (va : h.pwr.vioA = true) {vb : Bool}
    (same : h.pwr.vioB = vb) : h.rstN true true vb = h := by
  have raised : (h.setBoot fun b => { b with rst := true }) = h := by
    unfold Hub.setBoot
    rw [← rst]
  unfold Hub.rstN
  rw [Hub.setVio_same va same]
  dsimp only
  rw [raised]
  refine (if_pos rfl).trans (if_neg ?_)
  simp [tr]

/-! ## VKEEP and the bays (R446 to R448) -/

theorem Hub.vkeepLoss_runs {h : Hub} (supplied : h.pwr.vkeepOk = true) : ∃ g, h.vkeepLoss = g ∧ h.Spares g ∧ g.pwr.vkeepOk = false ∧
    g.pwr.thermalOff = none ∧ g.boot.bays = [] ∧ g.boot.level = .off ∧ g.tag.ring = [] ∧ ∀ x ∈ g.dies, x.rails = false := by
  obtain ⟨t, eq⟩ := h.railsOff_eq
  have run : h.vkeepLoss = _ := if_neg (by simp [supplied])
  rw [run, eq]
  refine ⟨_, rfl, h.afterReset_spares t, rfl, rfl, rfl, rfl, rfl, fun x mem => ?_⟩
  obtain ⟨y, there, rfl⟩ := List.mem_map.1 mem
  exact unrailed _ y there

theorem Hub.bay0Starts_stays {h : Hub} (stays : h.pwr.vkeepOk = false ∨ h.boot.bays ≠ [] ∨ h.clk.elapsed < h.pwr.vkeepAt + 1000000 ∨
    h.inKeep = true ∨ h.pwr.stays = true) : h.bay0Starts = h := by
  refine if_neg fun starts => ?_
  simp only [Bool.and_eq_true, decide_eq_true_eq, Bool.not_eq_true', List.isEmpty_iff] at starts
  obtain ⟨⟨⟨⟨supplied, past⟩, bays⟩, awake⟩, on⟩ := starts
  rcases stays with off | some | early | keep | stays
  · simp [off] at supplied
  · exact some bays
  · exact absurd early (Nat.not_lt.2 past)
  · simp [keep] at awake
  · simp [stays] at on

theorem Hub.bay0Starts_runs {h : Hub} (supplied : h.pwr.vkeepOk = true) (bays : h.boot.bays = [])
    (past : h.pwr.vkeepAt + 1000000 ≤ h.clk.elapsed) (awake : h.inKeep = false) (on : h.pwr.stays = false) :
    h.bay0Starts = { h with boot := { h.boot with bays := [(0, h.clk.elapsed)] }, pwr := { h.pwr with st := .run, keepAt := none } } :=
  if_pos (by simp [supplied, bays, past, awake, on])

section Bays
variable {h : Hub} {b u : Nat}

theorem Hub.bays_none (off : h.bayStart b = none) : h.bayGood b = h ∧ h.bayTimeout b = h := by
  unfold Hub.bayGood Hub.bayTimeout
  rw [off]
  exact ⟨rfl, rfl⟩

theorem Hub.bayGood_stays (starts : h.bayStart b = some u) (stays : h.clk.elapsed < u ∨ u + 5000000 < h.clk.elapsed ∨
    (h.die (2 * b)).rails = true ∨ (h.die (2 * b)).faulted = true) : h.bayGood b = h := by
  unfold Hub.bayGood
  rw [starts]
  exact if_pos stays

theorem Hub.bayTimeout_stays (starts : h.bayStart b = some u) (stays : h.clk.elapsed < u + 5000000 ∨
    (h.die (2 * b)).rails = true ∨ (h.die (2 * b)).faulted = true) : h.bayTimeout b = h := by
  unfold Hub.bayTimeout
  rw [starts]
  exact if_pos stays

/-- A bay that has its rails, or is left off, does not change. -/
theorem Hub.bays_settled (settled : (h.die (2 * b)).rails = true ∨ (h.die (2 * b)).faulted = true) :
    h.bayGood b = h ∧ h.bayTimeout b = h := by
  cases starts : h.bayStart b with
  | none => exact Hub.bays_none starts
  | some u => exact ⟨Hub.bayGood_stays starts (.inr (.inr settled)), Hub.bayTimeout_stays starts (.inr settled)⟩

/-- A hub with a bay powered, and the next one begun 2 ms later. -/
def Hub.bayOn (h : Hub) (b : Nat) : Hub :=
  let g : Hub := { h with dies := modAll h.dies [2 * b, 2 * b + 1] fun _ x => { x with rails := true } }
  if b + 1 < h.nBays then g.setBoot fun q => { q with bays := q.bays ++ [(b + 1, h.clk.elapsed + 2000000)] } else g

theorem Hub.bayGood_runs (starts : h.bayStart b = some u) (from' : u ≤ h.clk.elapsed) (upTo : h.clk.elapsed ≤ u + 5000000)
    (off : (h.die (2 * b)).rails = false) (whole : (h.die (2 * b)).faulted = false) :
    h.bayGood b = if b = 0 then (h.bayOn b).releaseReset else h.bayOn b := by
  unfold Hub.bayGood
  rw [starts]
  exact if_neg (by simp [off, whole, from', upTo])

theorem Hub.bayOn_dies (h : Hub) (b : Nat) :
    (h.bayOn b).dies = modAll h.dies [2 * b, 2 * b + 1] fun _ x => { x with rails := true } := ite_keeps Hub.dies rfl rfl

theorem Hub.bayOn_rails {d : Nat} (there : d < h.dies.length) (named : d = 2 * b ∨ d = 2 * b + 1) : ((h.bayOn b).die d).rails = true := by
  have powered := modAll_getElem?_mem (is := [2 * b, 2 * b + 1]) (fun _ (x : Die) => { x with rails := true })
    (List.getElem?_eq_getElem there) (by rcases named with rfl | rfl <;> simp)
  rw [← Hub.bayOn_dies] at powered
  rw [die_of_getElem? powered]

theorem Hub.bayOn_next (more : b + 1 < h.nBays) : (b + 1, h.clk.elapsed + 2000000) ∈ (h.bayOn b).boot.bays := by
  unfold Hub.bayOn
  rw [if_pos more]
  exact List.mem_append_right _ List.mem_cons_self

theorem Hub.bayOn_starts (h : Hub) (b : Nat) : (h.bayOn b).boot.tr = h.boot.tr ∧ (h.bayOn b).boot.rst = h.boot.rst ∧
    (h.bayOn b).pwr = h.pwr ∧ (h.bayOn b).clk = h.clk := by
  unfold Hub.bayOn
  split <;> exact ⟨rfl, rfl, rfl, rfl⟩

theorem Hub.bays_there (shaped : Shaped h) (lt : b < h.nBays) : 2 * b + 1 < h.dies.length := by
  obtain ⟨-, -, length, -⟩ := shaped
  unfold Hub.nBays at lt
  omega

theorem Hub.bayGood_powers (starts : h.bayStart b = some u) (shaped : Shaped h) (lt : b < h.nBays) (from' : u ≤ h.clk.elapsed)
    (upTo : h.clk.elapsed ≤ u + 5000000) (off : (h.die (2 * b)).rails = false) (whole : (h.die (2 * b)).faulted = false) : ∃ g,
    h.bayGood b = g ∧ (g.die (2 * b)).rails = true ∧ (g.die (2 * b + 1)).rails = true ∧
      (b + 1 < h.nBays → (b + 1, h.clk.elapsed + 2000000) ∈ g.boot.bays) ∧
      (b = 0 → h.boot.tr = none → h.boot.rst = true → h.pwr.vkeepOk = true → g.boot.tr = some h.clk.elapsed ∧ g.boot.level = .boot) := by
  have there := Hub.bays_there shaped lt
  have run := Hub.bayGood_runs starts from' upTo off whole
  have first := Hub.bayOn_rails (h := h) (b := b) (by omega) (.inl rfl)
  have second := Hub.bayOn_rails (h := h) (b := b) there (.inr rfl)
  obtain ⟨tr, rst, pwr, clk⟩ := h.bayOn_starts b
  by_cases zero : b = 0
  · rw [if_pos zero] at run
    have dies (d : Nat) : (h.bayOn b).releaseReset.die d = (h.bayOn b).die d := by rw [Hub.die, Hub.releaseReset_dies]; rfl
    refine ⟨_, run, ?_, ?_, fun more => ?_, fun _ none rstn supplied => ?_⟩
    · rw [dies, first]
    · rw [dies, second]
    · have same : (h.bayOn b).releaseReset.boot.bays = (h.bayOn b).boot.bays :=
        Hub.releaseReset_keeps (fun g => g.boot.bays) (fun g => by rw [Hub.setLevel_boot]) (fun _ _ => rfl) _
      rw [same]
      exact Hub.bayOn_next more
    · have released := Hub.releaseReset_boot (tr.trans none) (rst.trans rstn) (by rw [← first, zero]) (by rw [pwr]; exact supplied)
      rw [released, clk]
      exact ⟨rfl, rfl⟩
  · rw [if_neg zero] at run
    exact ⟨_, run, first, second, Hub.bayOn_next, fun is => absurd is zero⟩

end Bays

/-! ## Dies that are left out at the start (R447, R468) -/

/-- A hub with a die that it leaves out at the start. -/
def Hub.leavesOut (h : Hub) (d : Nat) (n : Word) : Hub :=
  let g := (h.setDie d fun x => { x with faulted := true }).bootNote (unitDie d) 0x0F06 2 n
  { g with flt := { g.flt with retired := g.flt.retired ++ [unitDie d] } }

theorem Hub.bootNote_duties (h : Hub) (u : Word) (code cls : Nat) (a : Word) : (h.bootNote u code cls a).duties = h.duties :=
  ite_keeps Hub.duties (h.event_duties ..) rfl

theorem Hub.bootNote_retirees (h : Hub) (u : Word) (code cls : Nat) (a : Word) : (h.bootNote u code cls a).retirees = h.retirees :=
  ite_keeps Hub.retirees (h.event_retirees ..) rfl

theorem Hub.leavesOut_retired (h : Hub) (d : Nat) (n : Word) : (h.leavesOut d n).flt.retired = h.flt.retired ++ [unitDie d] :=
  congrArg (· ++ [unitDie d]) (Hub.bootNote_retirees ..)

theorem Hub.leavesOut_duties (h : Hub) (d : Nat) (n : Word) : (h.leavesOut d n).duties = (h.setDie d fun x => { x with faulted := true }).duties :=
  Hub.bootNote_duties ..

theorem Hub.leavesOut_there {h : Hub} {d : Nat} (there : d < h.dies.length) (n : Word) : ((h.leavesOut d n).die d).faulted = true := by
  obtain ⟨y, found, duty⟩ := Hub.duty_of_duties (h.leavesOut_duties d n) (Hub.setDie_getElem?_same (List.getElem?_eq_getElem there) _)
  rw [die_of_getElem? found]
  exact (congrArg (fun u => u.2.2.1) duty :)

theorem Hub.leavesOut_faulted {h : Hub} {e : Nat} (d : Nat) (n : Word) (out : (h.die e).faulted = true) (there : e < h.dies.length) :
    ((h.leavesOut d n).die e).faulted = true := by
  have out' : ((h.setDie d fun x => { x with faulted := true }).die e).faulted = true := by
    simp only [Hub.die, Hub.setDie_dies, List.getD_eq_getElem?_getD, List.getElem?_modify, List.getElem?_eq_getElem there] at out ⊢
    by_cases same : d = e
    · simp [same]
    · simpa [same] using out
  have lt : e < (h.setDie d fun x => { x with faulted := true }).dies.length := (List.length_modify ..).symm ▸ there
  obtain ⟨y, found, duty⟩ := Hub.duty_of_duties (h.leavesOut_duties d n) (List.getElem?_eq_getElem lt)
  rw [die_of_getElem? found]
  rw [die_of_getElem? (List.getElem?_eq_getElem lt)] at out'
  exact (congrArg (fun u => u.2.2.1) duty :).trans out'

theorem Hub.leavesOut_length (h : Hub) (d : Nat) (n : Word) : (h.leavesOut d n).dies.length = h.dies.length := by
  have same := congrArg List.length (h.leavesOut_duties d n)
  simpa [Hub.duties] using same

theorem Hub.bayTimeout_runs {h : Hub} {b u : Nat} (starts : h.bayStart b = some u) (late : u + 5000000 ≤ h.clk.elapsed)
    (off : (h.die (2 * b)).rails = false) (whole : (h.die (2 * b)).faulted = false) :
    h.bayTimeout b = (h.leavesOut (2 * b) 1).leavesOut (2 * b + 1) 1 := by
  unfold Hub.bayTimeout
  rw [starts]
  exact if_neg (by simp [off, whole, late])

theorem Hub.bayTimeout_out {h : Hub} {b u : Nat} (starts : h.bayStart b = some u) (shaped : Shaped h) (lt : b < h.nBays)
    (late : u + 5000000 ≤ h.clk.elapsed) (off : (h.die (2 * b)).rails = false) (whole : (h.die (2 * b)).faulted = false) : ∃ g,
    h.bayTimeout b = g ∧ (g.die (2 * b)).faulted = true ∧ (g.die (2 * b + 1)).faulted = true ∧
      g.flt.retired = h.flt.retired ++ [unitDie (2 * b), unitDie (2 * b + 1)] := by
  have there := Hub.bays_there shaped lt
  have length := h.leavesOut_length (2 * b) 1
  refine ⟨_, Hub.bayTimeout_runs starts late off whole, ?_, ?_, ?_⟩
  · exact Hub.leavesOut_faulted _ _ (Hub.leavesOut_there (by omega) 1) (by omega)
  · exact Hub.leavesOut_there (by omega) 1
  · rw [Hub.leavesOut_retired, Hub.leavesOut_retired, List.append_assoc]
    rfl

section Silent
variable {h : Hub} {d u : Nat}

theorem Hub.dieBootTimeout_stays (stays : h.boot.tr = none ∨ h.nDies ≤ d ∨ (h.die d).cores.reported = true ∨ (h.die d).faulted = true) :
    h.dieBootTimeout d = h := by
  unfold Hub.dieBootTimeout
  split
  · rfl
  next u starts =>
    refine if_pos (.inr ?_)
    rcases stays with off | rest
    · simp [off] at starts
    · exact rest

theorem Hub.dieBootTimeout_waits (starts : h.boot.tr = some u) (early : h.clk.elapsed < u + 250000000) : h.dieBootTimeout d = h := by
  unfold Hub.dieBootTimeout
  rw [starts]
  exact if_pos (.inl early)

theorem Hub.dieBootTimeout_runs (starts : h.boot.tr = some u) (lt : d < h.nDies) (late : u + 250000000 ≤ h.clk.elapsed)
    (silent : (h.die d).cores.reported = false) (whole : (h.die d).faulted = false) : h.dieBootTimeout d = h.leavesOut d 2 := by
  unfold Hub.dieBootTimeout
  rw [starts]
  exact if_neg (by simp [silent, whole, lt, late])

end Silent

end Sys2Proof.Machine
end

section
/-! PROOFS. Start-up to FULL (R353, R468, R469, R472, R477, R478): what the boot ROM, the firmware's start and the service levels leave. -/

namespace Sys2Proof.Machine

/-! ## What the retirement of a lane leaves of the boot state -/

/-- Whether the firmware runs, and the notes of the boot ROM. -/
def Hub.stage (h : Hub) := (h.boot.running, h.boot.notes)

theorem forAll_stage {α : Type} (f : α → Hub → Hub) (keeps : ∀ a h, (f a h).stage = h.stage) (l : List α) (h : Hub) :
    (forAll l f h).stage = h.stage := forAll_keeps Hub.stage f keeps l h
theorem iter_stage (f : Hub → Hub) (keeps : ∀ h, (f h).stage = h.stage) (n : Nat) (h : Hub) :
    (iter f n h).stage = h.stage := iter_keeps Hub.stage f keeps n h
theorem Hub.stage_boot (h : Hub) : (h.boot.running, h.boot.notes) = h.stage := rfl
theorem Hub.stage_mk {clk : Clk} {tm : Tm} {chans : List Chan} {octs : List Octet} {reps : List Rep} {dies : List Die}
    {trg : Trg} {caps : List (Option Capture)} {nextTrain : Nat} {saved : List SavedChurn} {jobs : List ChurnJob} {nextHandle nextJob : Nat}
    {flows : List Flow} {strm : Strm} {hk : Hk} {sep : Sep} {ports : List Port} {enm : Enum} {mgmt : Mgmt} {dbw : Dbw} {fseal : Seal}
    {flt : Flt} {cal : Cal} {pwr : Pwr} {pmbus : Pmbus} {boot : Boot} {flash : Flash} {tag : Tag} {tap : Tap} {fresh : Nat} {ident : Ident}
      :
    (Hub.mk ident clk tm chans octs reps dies trg caps nextTrain saved jobs nextHandle nextJob flows strm hk sep ports enm mgmt dbw
      fseal flt cal pwr pmbus boot flash tag tap fresh).stage = (boot.running, boot.notes) := rfl

theorem Hub.stage_of_boot {h g : Hub} (same : g.boot = h.boot) : g.stage = h.stage := by rw [Hub.stage, same, Hub.stage]

@[simp] theorem Hub.setLevel_stage (h : Hub) (l : Level) : (h.setLevel l).stage = h.stage := by rw [Hub.stage, Hub.setLevel_boot, Hub.stage]

@[simp] theorem Hub.setPort_stage (h : Hub) (p : Nat) (f : Port → Port) : (h.setPort p f).stage = h.stage :=
  Hub.stage_of_boot (Hub.setPort_boot ..)
@[simp] theorem Hub.setLane_stage (h : Hub) (p l : Nat) (f : Lane → Lane) : (h.setLane p l f).stage = h.stage :=
  Hub.stage_of_boot (Hub.setLane_boot ..)
@[simp] theorem Hub.setDie_stage (h : Hub) (d : Nat) (f : Die → Die) : (h.setDie d f).stage = h.stage :=
  Hub.stage_of_boot (Hub.setDie_boot ..)
@[simp] theorem Hub.crossEvent_stage (h : Hub) (d row latency : Nat) : (h.crossEvent d row latency).stage = h.stage := by
  simp only [Hub.crossEvent, ↓Hub.setDie_stage, modAt]
@[simp] theorem Hub.event_stage (h : Hub) (unit : Word) (code cls count : Nat) (arg0 arg1 : Word) :
    (h.event unit code cls count arg0 arg1).stage = h.stage :=
  Hub.stage_of_boot (Hub.event_boot ..)
@[simp] theorem Hub.setTm_stage (h : Hub) (f : Tm → Tm) : (h.setTm f).stage = h.stage :=
  Hub.stage_of_boot (Hub.setTm_boot ..)
@[simp] theorem Hub.laneAway_stage (h : Hub) (a : Align) : (h.laneAway a).stage = h.stage :=
  Hub.stage_of_boot (Hub.laneAway_boot ..)
@[simp] theorem Hub.watermarks_stage (h : Hub) : h.watermarks.stage = h.stage :=
  Hub.stage_of_boot (Hub.watermarks_boot ..)
@[simp] theorem Hub.rawReassign_stage (h : Hub) : h.rawReassign.stage = h.stage :=
  Hub.stage_of_boot (Hub.rawReassign_boot ..)
@[simp] theorem Hub.portLost_stage (h : Hub) (p : Nat) (st : PState) : (h.portLost p st).stage = h.stage :=
  Hub.stage_of_boot (Hub.portLost_boot ..)
@[simp] theorem Hub.portDown_stage (h : Hub) (p : Nat) (st : PState) : (h.portDown p st).stage = h.stage := by
  simp only [Hub.portDown, ↓Hub.portLost_stage, ↓Hub.rawReassign_stage, ↓Hub.watermarks_stage, ↓apply_ite Hub.stage, ite_self]
@[simp] theorem Hub.reLevel_stage (h : Hub) : h.reLevel.stage = h.stage := by
  simp only [Hub.reLevel, ↓Hub.setLevel_stage, ↓apply_ite Hub.stage, ite_self]
@[simp] theorem Hub.clockLoss_stage (h : Hub) : h.clockLoss.stage = h.stage := by
  simp only [Hub.clockLoss, ↓Hub.laneAway_stage, ↓Hub.setPort_stage, ↓Hub.setTm_stage]
@[simp] theorem Hub.closeCoupler_stage (h : Hub) (byHost : Bool) : (h.closeCoupler byHost).stage = h.stage := by
  simp only [Hub.closeCoupler, ↓Hub.clockLoss_stage, ↓Hub.portDown_stage, ↓Hub.stage_mk, ↓Hub.stage_boot]
@[simp] theorem Hub.ctl_stage (h : Hub) (p code payload : Nat) : (h.ctl p code payload).stage = h.stage :=
  Hub.stage_of_boot (Hub.ctl_boot ..)
@[simp] theorem Hub.askWidth_stage (h : Hub) (p w : Nat) : (h.askWidth p w).stage = h.stage := by
  simp only [Hub.askWidth, ↓Hub.ctl_stage, ↓Hub.setPort_stage, ↓apply_ite Hub.stage, ite_self]
@[simp] theorem Hub.plainWidth_stage (h : Hub) (p : Nat) : (h.plainWidth p).stage = h.stage := by
  simp only [Hub.plainWidth, ↓Hub.rawReassign_stage, ↓Hub.setPort_stage, ↓apply_ite Hub.stage, ite_self]
@[simp] theorem Hub.narrow_stage (h : Hub) (p : Nat) : (h.narrow p).stage = h.stage := by
  simp only [Hub.narrow, ↓Hub.askWidth_stage, ↓Hub.plainWidth_stage, ↓apply_ite Hub.stage, ite_self]
@[simp] theorem Hub.retireLane_stage (h : Hub) (p l code count : Nat) (loopbackOk : Bool) :
    (h.retireLane p l code count loopbackOk).stage = h.stage := by
  simp only [Hub.retireLane, ↓Hub.closeCoupler_stage, ↓Hub.crossEvent_stage, ↓Hub.event_stage, ↓Hub.laneAway_stage, ↓Hub.narrow_stage,
    ↓Hub.portDown_stage, ↓Hub.reLevel_stage, ↓Hub.setLane_stage, ↓Hub.setPort_stage, ↓Hub.setTm_stage, ↓apply_ite Hub.stage, ite_self]

/-! ## What decides whether an octet can be calibrated -/

/-- What of a die decides whether its octets can be calibrated. -/
def Die.fit (x : Die) := (x.inService, x.frozen, x.quads, x.audit.retired)

theorem Die.fit_eq (x : Die) : x.fit = (x.inService, x.frozen, x.quads, x.audit.retired) := rfl

/-- That of a hub's dies. -/
def Hub.fits (h : Hub) := h.dies.map Die.fit

theorem Hub.fits_of_cores {h g : Hub} (same : g.dieCores = h.dieCores) : g.fits = h.fits := by
  have views (k : Hub) : k.fits = k.dieCores.map Die.fit := by
    rw [Hub.fits, Hub.dieCores, List.map_map]
    rfl
  rw [views, views, same]

theorem forAll_fits {α : Type} (f : α → Hub → Hub) (keeps : ∀ a h, (f a h).fits = h.fits) (l : List α) (h : Hub) :
    (forAll l f h).fits = h.fits := forAll_keeps Hub.fits f keeps l h
theorem iter_fits (f : Hub → Hub) (keeps : ∀ h, (f h).fits = h.fits) (n : Nat) (h : Hub) :
    (iter f n h).fits = h.fits := iter_keeps Hub.fits f keeps n h

theorem Hub.map_fit_dies (h : Hub) : h.dies.map Die.fit = h.fits := rfl

theorem Hub.fits_mk {clk : Clk} {tm : Tm} {chans : List Chan} {octs : List Octet} {reps : List Rep} {dies : List Die}
    {trg : Trg} {caps : List (Option Capture)} {nextTrain : Nat} {saved : List SavedChurn} {jobs : List ChurnJob} {nextHandle nextJob : Nat}
    {flows : List Flow} {strm : Strm} {hk : Hk} {sep : Sep} {ports : List Port} {enm : Enum} {mgmt : Mgmt} {dbw : Dbw} {fseal : Seal}
    {flt : Flt} {cal : Cal} {pwr : Pwr} {pmbus : Pmbus} {boot : Boot} {flash : Flash} {tag : Tag} {tap : Tap} {fresh : Nat} {ident : Ident}
      :
    (Hub.mk ident clk tm chans octs reps dies trg caps nextTrain saved jobs nextHandle nextJob flows strm hk sep ports enm mgmt dbw
      fseal flt cal pwr pmbus boot flash tag tap fresh).fits = dies.map Die.fit := rfl

theorem Hub.setDie_fits (h : Hub) (d : Nat) {f : Die → Die} (keeps : ∀ x, (f x).fit = x.fit) :
    (h.setDie d f).fits = h.fits := map_modAt_of_keeps keeps _ _


theorem Hub.mapDie_fits (h : Hub) {f : Nat → Die → Die} (keeps : ∀ d x, (f d x).fit = x.fit) : (h.mapDie f).fits = h.fits :=
  map_mapIdx_of_keeps keeps _

@[simp] theorem Hub.setCh_fits (h : Hub) (c : Nat) (f : Chan → Chan) : (h.setCh c f).fits = h.fits := rfl
@[simp] theorem Hub.mapCh_fits (h : Hub) (f : Nat → Chan → Chan) : (h.mapCh f).fits = h.fits := rfl

@[simp] theorem Hub.switchDrops_fits (h : Hub) (id : Word) : (h.switchDrops id).fits = h.fits := by
  refine (Hub.mapDie_fits _ fun d x => ?_).trans rfl
  split
  · exact ite_keeps Die.fit rfl rfl
  · rfl

@[simp] theorem Hub.setFlow_fits (h : Hub) (k : FlowKey) (g : Flow → Flow) : (h.setFlow k g).fits = h.fits :=
  Hub.fits_of_cores (Hub.setFlow_dieCores ..)
@[simp] theorem Hub.emitRecord_fits (h : Hub) (k : FlowKey) (stream : Nat) (rcd : Bytes) : (h.emitRecord k stream rcd).fits = h.fits :=
  Hub.fits_of_cores (Hub.emitRecord_dieCores ..)
@[simp] theorem Hub.startHk_fits (h : Hub) : h.startHk.fits = h.fits := by
  simp only [Hub.startHk, ↓Hub.emitRecord_fits, ↓Hub.setFlow_fits, ↓forAll_fits, ↓Hub.fits_mk, implies_true, ↓Hub.map_fit_dies]
@[simp] theorem Hub.startFlows_fits (h : Hub) : h.startFlows.fits = h.fits := by
  simp only [Hub.startFlows, ↓Hub.startHk_fits, ↓Hub.fits_mk, ↓Hub.map_fit_dies]
@[simp] theorem Hub.notice_fits (h : Hub) (unit : Word) (code : Nat) (arg0 arg1 : Word) : (h.notice unit code arg0 arg1).fits = h.fits :=
  Hub.fits_of_cores (Hub.notice_dieCores ..)
@[simp] theorem Hub.setPwr_fits (h : Hub) (f : Pwr → Pwr) : (h.setPwr f).fits = h.fits :=
  congrArg (List.map Die.fit) (Hub.setPwr_dies ..)
@[simp] theorem Hub.thermalNote_fits (h : Hub) : h.thermalNote.fits = h.fits := by
  unfold Hub.thermalNote
  split <;> simp only [↓Hub.notice_fits, ↓Hub.setPwr_fits]
@[simp] theorem Hub.skimOn_fits (c : Nat) (h : Hub) : (Hub.skimOn c h).fits = h.fits := by
  simp only [Hub.skimOn, ↓Hub.setCh_fits, ↓apply_ite Hub.fits, ite_self]
@[simp] theorem Hub.reSweep_fits (h : Hub) (d : Nat) : (h.reSweep d).fits = h.fits := by
  simp only [Hub.reSweep, ↓Hub.fits_mk, ↓Hub.map_fit_dies]
@[simp] theorem Hub.confirmImage_fits (h : Hub) : h.confirmImage.fits = h.fits := by
  unfold Hub.confirmImage
  dsimp only
  repeat' split
  all_goals simp only [↓Hub.fits_mk, ↓Hub.map_fit_dies]
@[simp] theorem Hub.setTag_fits (h : Hub) (f : Tag → Tag) : (h.setTag f).fits = h.fits :=
  congrArg (List.map Die.fit) (Hub.setTag_dies ..)
@[simp] theorem Hub.tick_fits (h : Hub) : h.tick.fits = h.fits :=
  Hub.fits_of_cores (Hub.tick_dieCores ..)
@[simp] theorem Hub.setMgmt_fits (h : Hub) (f : Mgmt → Mgmt) : (h.setMgmt f).fits = h.fits :=
  congrArg (List.map Die.fit) (Hub.setMgmt_dies ..)
@[simp] theorem Hub.eventAt_fits (h : Hub) (t : Nat) (unit : Word) (code cls count : Nat) (arg0 arg1 : Word) :
    (h.eventAt t unit code cls count arg0 arg1).fits = h.fits :=
  Hub.fits_of_cores (Hub.eventAt_dieCores ..)
@[simp] theorem Hub.syncDrops_fits (h : Hub) (id : Word) : (h.syncDrops id).fits = h.fits := by
  simp only [Hub.syncDrops, ↓Hub.mapCh_fits]
@[simp] theorem Hub.dropAction_fits (h : Hub) (id : Word) : (h.dropAction id).fits = h.fits := by
  simp only [Hub.dropAction, ↓Hub.switchDrops_fits, ↓Hub.syncDrops_fits, ↓Hub.fits_mk, ↓Hub.map_fit_dies]
@[simp] theorem Hub.schedDone_fits (h : Hub) (t : Nat) (id : Word) (status lateUs : Nat) :
    (h.schedDone t id status lateUs).fits = h.fits := by
  simp only [Hub.schedDone, ↓Hub.dropAction_fits, ↓Hub.eventAt_fits]
@[simp] theorem Hub.planeDone_fits (h : Hub) (id : Word) (status : Nat) : (h.planeDone id status).fits = h.fits := by
  unfold Hub.planeDone
  split <;> simp only [↓Hub.schedDone_fits]
@[simp] theorem Hub.jobEnds_fits (h : Hub) (j : LogJob) (status : Nat) : (h.jobEnds j status).fits = h.fits := by
  unfold Hub.jobEnds
  split <;> simp only [↓Hub.planeDone_fits, ↓Hub.setTag_fits]
@[simp] theorem Hub.writeExpiry_fits (h : Hub) : h.writeExpiry.fits = h.fits := by
  unfold Hub.writeExpiry
  repeat' split
  all_goals simp only [↓Hub.jobEnds_fits, ↓Hub.tick_fits, ↓Hub.setMgmt_fits]
@[simp] theorem Hub.tagNext_fits (h : Hub) : h.tagNext.fits = h.fits := by
  unfold Hub.tagNext
  dsimp only
  repeat' split
  all_goals simp only [↓Hub.writeExpiry_fits, ↓Hub.setTag_fits]
@[simp] theorem Hub.tagRough_fits (h : Hub) : h.tagRough.fits = h.fits := by
  simp only [Hub.tagRough, ↓Hub.tagNext_fits, ↓Hub.setTag_fits]

@[simp] theorem Hub.queuesReset_boot (h : Hub) (p : Nat) : (h.queuesReset p).boot = h.boot := by
  simp only [Hub.queuesReset, ↓Hub.discardNote_boot, ↓Hub.setLink_boot]
@[simp] theorem Hub.enterStep_boot (h : Hub) (p : Nat) : (h.enterStep p).boot = h.boot := by
  unfold Hub.enterStep
  split <;> simp only [↓Hub.queuesReset_boot, ↓Hub.setPort_boot]
@[simp] theorem Hub.startStep_boot (h : Hub) (p rate : Nat) (cause : StepCause) (good : List (Nat × Nat)) :
    (h.startStep p rate cause good).boot = h.boot := by
  simp only [Hub.startStep, ↓Hub.ctl_boot, ↓Hub.setPort_boot]
@[simp] theorem Hub.askRate_boot (h : Hub) (p rate : Nat) : (h.askRate p rate).boot = h.boot := by
  simp only [Hub.askRate, ↓Hub.ctl_boot, ↓Hub.setPort_boot, ↓Hub.startStep_boot, ↓apply_ite Hub.boot, ite_self]
@[simp] theorem Hub.retrain_boot (h : Hub) (p : Nat) : (h.retrain p).boot = h.boot := by
  simp only [Hub.retrain, ↓Hub.askRate_boot, ↓apply_ite Hub.boot, ite_self]
@[simp] theorem Hub.stepUp_boot (h : Hub) (p : Nat) : (h.stepUp p).boot = h.boot := by
  simp only [Hub.stepUp, ↓Hub.startStep_boot, ↓apply_ite Hub.boot, ite_self]
@[simp] theorem Hub.trainStep_boot (h : Hub) (p rate mcount : Nat) : (h.trainStep p rate mcount).boot = h.boot := by
  unfold Hub.trainStep
  dsimp only
  repeat' split
  all_goals simp only [↓Hub.enterStep_boot, ↓Hub.setPort_boot]

/-! ## What the boot ROM reports (R468, R469) -/

/-- A die's service and the core that it runs on. -/
def Die.seat (x : Die) := (x.inService, x.frozen, x.cores.onB)

/-- Those of a hub's dies. -/
def Hub.seats (h : Hub) := h.dies.map Die.seat

theorem Hub.seats_of_duties {h g : Hub} (same : g.duties = h.duties) : g.seats = h.seats := by
  have views (k : Hub) : k.seats = k.duties.map fun u => (u.1, u.2.1, u.2.2.2.2.2.2.2.2.onB) := by
    rw [Hub.seats, Hub.duties, List.map_map]
    rfl
  rw [views, views, same]

theorem Hub.setDie_seats (h : Hub) (d : Nat) {f : Die → Die} {g : Bool × Bool × Bool → Bool × Bool × Bool}
    (turns : ∀ x, (f x).seat = g x.seat) : (h.setDie d f).seats = modAt h.seats d g := map_modAt Die.seat turns _ _

theorem modAt_id_of {α : Type} {f : α → α} (same : ∀ a, f a = a) (l : List α) (i : Nat) : modAt l i f = l := by
  rw [show f = id from funext same]
  exact List.modify_id ..

theorem modAt_modAt {α : Type} (l : List α) (i : Nat) (f g : α → α) : modAt (modAt l i f) i g = modAt l i (g ∘ f) :=
  List.modify_modify_eq ..

theorem Hub.skimOn_duties (c : Nat) (h : Hub) : (Hub.skimOn c h).duties = h.duties := ite_keeps Hub.duties rfl rfl

/-- The seat of a die that the boot ROM reports. -/
def reportedSeat (coreB dead : List Nat) (d : Nat) : Bool × Bool × Bool := (true, dead.contains d, coreB.contains d)

theorem Hub.dieReports_seats (coreB dead : List Nat) (d : Nat) (h : Hub) :
    (Hub.dieReports coreB dead d h).seats = modAt h.seats d fun _ => reportedSeat coreB dead d := by
  unfold Hub.dieReports
  extract_lets bad onB g k
  have first : g.seats = modAt h.seats d fun _ => reportedSeat coreB dead d := h.setDie_seats d fun _ => rfl
  clear_value g
  have second : k.seats = g.seats := Hub.seats_of_duties (ite_keeps Hub.duties (g.raise_duties 7) rfl)
  have third : (if bad = true then k.bootNote (unitCore d 1) 0x0F09 2 0 else k).seats = k.seats :=
    Hub.seats_of_duties (ite_keeps Hub.duties (k.bootNote_duties ..) rfl)
  exact third.trans (second.trans first)

theorem Hub.joins_seats (d : Nat) (h : Hub) :
    (h.joins d).seats = h.seats ∨ (h.joins d).seats = modAt h.seats d fun s => (true, s.2) := by
  unfold Hub.joins
  extract_lets g chs
  have kept : g.seats = h.seats := by
    refine (Hub.setDie_seats h d (g := id) fun x => ?_).trans (modAt_id_of (fun _ => rfl) _ _)
    rfl
  clear_value g
  split
  · refine Or.inl ((Hub.seats_of_duties ?_).trans kept)
    rw [Hub.moveLead_duties]
    exact forAll_duties _ (fun p k => k.portStart_duties p) _ _
  · refine Or.inr ?_
    have joined : ((forAll chs Hub.skimOn (g.dieIn d)).reSweep d).duties = (g.setDie d (Die.back g.image)).duties := by
      rw [Hub.reSweep_duties]
      exact (forAll_duties _ Hub.skimOn_duties _ _).trans (g.dieIn_leaves d).1
    rw [Hub.seats_of_duties joined, ← kept]
    exact g.setDie_seats d fun _ => rfl

theorem Hub.reportJoins_seats (coreB dead : List Nat) (d : Nat) (h : Hub) :
    ((Hub.dieReports coreB dead d h).joins d).seats = modAt h.seats d fun _ => reportedSeat coreB dead d := by
  rcases (Hub.dieReports coreB dead d h).joins_seats d with same | same <;> rw [same, Hub.dieReports_seats]
  exact modAt_modAt ..

/-- A run over dies that gives each its seat leaves each with it. -/
theorem forAll_seats {v : Nat → Bool × Bool × Bool} {f : Nat → Hub → Hub} (gives : ∀ d h, (f d h).seats = modAt h.seats d fun _ => v d)
    (l : List Nat) (h : Hub) : ∀ i ∈ l, i < h.seats.length → (forAll l f h).seats[i]? = some (v i) := by
  intro i mem lt
  have each : ∀ a ∈ l, a < (forAll l f h).seats.length → (forAll l f h).seats[a]? = some (v a) := by
    refine forAll_each (P := fun a g => a < g.seats.length → g.seats[a]? = some (v a)) (fun a _ g there => ?_)
      (fun a _ b _ g holds there => ?_) h
    · rw [gives, modAt, List.length_modify] at there
      rw [gives, modAt, List.getElem?_modify_eq, List.getElem?_eq_getElem there]
      rfl
    · rw [gives, modAt, List.length_modify] at there
      rw [gives, modAt, List.getElem?_modify, holds there]
      by_cases same : b = a <;> simp [same]
  have length : (forAll l f h).seats.length = h.seats.length :=
    forAll_keeps (fun g => g.seats.length) f (fun d g => by rw [gives, modAt, List.length_modify]) l h
  exact each i mem (length ▸ lt)

theorem Hub.die_of_seat {h : Hub} {i : Nat} {u f b : Bool} (there : h.seats[i]? = some (u, f, b)) :
    (h.die i).inService = u ∧ (h.die i).frozen = f ∧ (h.die i).cores.onB = b := by
  rw [Hub.seats, List.getElem?_map, Option.map_eq_some_iff] at there
  obtain ⟨x, found, seat⟩ := there
  rw [die_of_getElem? found]
  simpa only [Die.seat, Prod.mk.injEq] using seat

/-- The dies that the boot ROM hears of. -/
def Hub.reported (h : Hub) (coreA coreB dead : List Nat) : List Nat :=
  (List.range h.nDies).filter fun d =>
    (coreA ++ coreB ++ dead).contains d && (h.die d).rails && !(h.die d).faulted && !(h.die d).cores.reported &&
      decide (h.clk.elapsed < h.boot.tr.getD 0 + 250000000)

section BootRom
variable {h : Hub} {coreA coreB dead : List Nat} {ok : Bool} {sfdp : Option Sfdp} {u : Nat}

theorem Hub.mem_reported (tr : h.boot.tr = some u) (early : h.clk.elapsed < u + 250000000) {i : Nat} (lt : i < h.nDies)
    (named : i ∈ coreA ++ coreB ++ dead) (rails : (h.die i).rails = true) (whole : (h.die i).faulted = false)
    (first : (h.die i).cores.reported = false) : i ∈ h.reported coreA coreB dead := by
  refine List.mem_filter.2 ⟨List.mem_range.2 lt, ?_⟩
  simp only [Bool.and_eq_true, decide_eq_true_eq, Bool.not_eq_true']
  exact ⟨⟨⟨⟨List.contains_iff_mem.2 named, rails⟩, whole⟩, first⟩, by rw [tr]; exact early⟩

theorem Hub.reported_late (tr : h.boot.tr = some u) (late : u + 250000000 ≤ h.clk.elapsed) : h.reported coreA coreB dead = [] := by
  refine List.filter_eq_nil_iff.2 fun d _ => ?_
  rw [tr]
  simp [Nat.not_lt.2 late]

theorem Hub.bootRom_stays (stays : h.boot.tr = none ∨ (h.boot.running = false ∧ h.boot.level ≠ .boot)) :
    h.bootRom coreA coreB dead ok sfdp = h := by
  unfold Hub.bootRom
  rcases stays with off | ⟨idle, level⟩
  · exact if_pos (by rw [off]; rfl)
  · refine ite_keeps id rfl ?_
    rw [if_neg (by simp [idle]), if_pos level]
    rfl

theorem Hub.bootRom_joins (tr : h.boot.tr = some u) (running : h.boot.running = true) : h.bootRom coreA coreB dead ok sfdp =
    forAll (h.reported coreA coreB dead) (fun d h => (Hub.dieReports coreB dead d h).joins d) h := by
  unfold Hub.bootRom
  exact (if_neg (by simp [tr])).trans (if_pos running)

end BootRom

/-! ## The firmware's start (R472) -/

theorem Hub.firmwareStart_stays {h : Hub} {ok : Bool}
    (stays : h.boot.watchdog = none ∨ h.boot.running = true ∨ (h.die 0).inService = false) : h.firmwareStart ok = h := by
  refine if_pos ?_
  rcases stays with off | running | out
  · exact .inl (by rw [off]; rfl)
  · exact .inr (.inl running)
  · exact .inr (.inr (by simp [out]))

theorem Hub.readCopies_stage (h : Hub) : h.readCopies.stage = h.stage := by
  unfold Hub.readCopies
  split
  · rfl
  · split
    · rfl
    · exact (Hub.stage_of_boot (Hub.notice_boot ..)).trans rfl

theorem Hub.firmwareStart_runs {h : Hub} (watched : h.boot.watchdog.isSome = true) (idle : h.boot.running = false)
    (up : (h.die 0).inService = true) (ok : Bool) : ∃ g, h.firmwareStart ok = g ∧ g.boot.running = true ∧ g.boot.notes = [] ∧
      ∀ x ∈ g.reps, x.hiZ = false := by
  unfold Hub.firmwareStart
  have starts : ¬(h.boot.watchdog.isNone = true ∨ h.boot.running = true ∨ (!(h.die 0).inService) = true) := by
    cases set : h.boot.watchdog <;> simp_all
  rw [if_neg starts]
  extract_lets img rel dbw h1 notes h2 h3 h4 h5 h6 h7 h8
  have stage3 : h3.stage = (true, []) := rfl
  clear_value h3
  have stage4 : h4.stage = h3.stage :=
    forAll_stage _ (fun n k => Hub.stage_of_boot (k.event_boot ..)) _ _
  clear_value h4
  have stage5 : h5.stage = h4.stage := h4.readCopies_stage
  clear_value h5
  have stage6 : h6.stage = h5.stage := by
    unfold h6
    split
    · refine forAll_stage _ (fun x k => ?_) _ _
      exact ite_keeps Hub.stage (Hub.stage_of_boot (k.accept_boot ..)) rfl
    · rfl
  clear_value h6
  have stage7 : h7.stage = h6.stage := rfl
  have reps7 : ∀ x ∈ h7.reps, x.hiZ = false := fun x mem => by
    obtain ⟨y, -, rfl⟩ := List.mem_map.1 mem
    rfl
  clear_value h7
  have stage8 : h8.stage = h7.stage := ite_keeps Hub.stage (Hub.stage_of_boot h7.openCoupler_boot) (h7.retireLane_stage ..)
  have reps8 : h8.reps = h7.reps := ite_keeps Hub.reps h7.openCoupler_reps (h7.retireLane_reps ..)
  clear_value h8
  have stage := (forAll_stage _ (fun p k => Hub.stage_of_boot (k.portStart_boot p)) ((List.range h8.nPorts).drop 2) h8).trans
    (stage8.trans (stage7.trans (stage6.trans (stage5.trans (stage4.trans stage3)))))
  have reps := (forAll_reps _ (fun p k => k.portStart_reps p) ((List.range h8.nPorts).drop 2) h8).trans reps8
  exact ⟨_, rfl, congrArg Prod.fst stage, congrArg Prod.snd stage, fun x mem => reps7 x (reps ▸ mem)⟩

/-! ## What a record that waits leaves: nothing but the housekeeping -/

/-- No housekeeping flow has started. -/
def Hub.Mute (h : Hub) : Prop := ∀ f ∈ h.flows, f.key.kind = 3 → f.started = false

theorem Hub.mute_of_lives {h g : Hub} (same : g.flowLives = h.flowLives) (mute : h.Mute) : g.Mute := by
  intro f mem kind
  obtain ⟨i, lt, rfl⟩ := List.getElem_of_mem mem
  obtain ⟨e, found, life⟩ := getElem?_of_map same.symm (List.getElem?_eq_getElem lt)
  simp only [Flow.life, Prod.mk.injEq] at life
  obtain ⟨key, started⟩ := life
  rw [← started]
  exact mute e (List.mem_of_getElem? found) (key ▸ kind)

section Mute
variable {h : Hub}

theorem Hub.hkRecord_mute (mute : h.Mute) (t k : Nat) (p : Bytes) : ∃ x, h.hkRecord t k p = { h with hk := x } := by
  unfold Hub.hkRecord
  extract_lets hd hk g
  have off : ¬(g.findFlow g.hkKey).any Flow.started = true := by
    cases found : g.findFlow g.hkKey with
    | none => exact Bool.false_ne_true
    | some f =>
      have key : f.key = g.hkKey := by simpa using List.find?_some found
      have still := mute f (List.mem_of_find?_eq_some found) (by rw [key]; rfl)
      simp [still]
  rw [if_neg off]
  exact ⟨_, rfl⟩

theorem Hub.recordAt_mute (mute : h.Mute) (t k : Nat) (p : Bytes) : ∃ x, h.recordAt t k p = { h with hk := x } := by
  unfold Hub.recordAt
  by_cases full : h.reserveFull (24 + p.length + if h.hk.dropped = 0 then 0 else 48) = true
  · rw [if_pos full]
    exact ⟨_, rfl⟩
  · rw [if_neg full]
    extract_lets hk g
    obtain ⟨x, eq⟩ : ∃ x, g = { h with hk := x } := by
      unfold g
      split
      · exact ⟨h.hk, rfl⟩
      · obtain ⟨x, eq⟩ := Hub.hkRecord_mute (h := { h with hk := { h.hk with dropped := 0 } }) mute h.tm.now 1
          (eventB unitHub 0x0404 0 1 (BitVec.ofNat 32 (sat 32 h.hk.dropped)) 0)
        exact ⟨x, eq⟩
    rw [eq]
    exact Hub.hkRecord_mute (h := { h with hk := x }) mute t k p

theorem Hub.notice_mute (mute : h.Mute) (u : Word) (c : Nat) (a b : Word) : ∃ x, h.notice u c a b = { h with hk := x } :=
  Hub.recordAt_mute mute _ _ _

theorem Hub.notice_mute_dies (mute : h.Mute) (u : Word) (c : Nat) (a b : Word) : (h.notice u c a b).dies = h.dies := by
  obtain ⟨x, eq⟩ := Hub.notice_mute mute u c a b
  rw [eq]

theorem Hub.discardNote_mute_dies (mute : h.Mute) (p n : Nat) : (h.discardNote p n).dies = h.dies :=
  ite_keeps Hub.dies rfl (Hub.notice_mute_dies (h := { h with strm := { h.strm with qDiscard := h.strm.qDiscard + n } }) mute _ _ _ _)

theorem Hub.watermarks_dies (h : Hub) : h.watermarks.dies = h.dies := by
  unfold Hub.watermarks
  extract_lets g1 past win strm g2 g3
  have first : g2.dies = h.dies := rfl
  clear_value g2
  refine (forAll_keeps Hub.dies _ (fun i k => ?_) _ _).trans first
  exact ite_keeps Hub.dies rfl rfl

theorem Hub.portStart_flowLives (h : Hub) (p : Nat) : (h.portStart p).flowLives = h.flowLives := by
  simp only [Hub.portStart, Hub.watermarks_flowLives, Hub.rawReassign_flowLives, Hub.portLost_flowLives, Hub.setPort_flowLives,
    apply_ite Hub.flowLives, ite_self]

theorem Hub.laneAway_dies (h : Hub) (a : Align) : (h.laneAway a).dies = h.dies := by
  unfold Hub.laneAway
  exact ite_keeps Hub.dies (Hub.setAlign_dies ..) rfl

theorem Hub.linkGone_dies (h : Hub) : h.linkGone.dies = h.dies := ite_keeps Hub.dies (h.laneAway_dies _) rfl

theorem Hub.portLost_mute_dies (mute : h.Mute) (p : Nat) (st : PState) : (h.portLost p st).dies = h.dies := by
  unfold Hub.portLost
  extract_lets link gone g1 g2 g3 g4
  have first : g1.dies = h.dies := by
    have quiet : (h.unsend p).Mute := Hub.mute_of_lives (h.unsend_flowLives p) mute
    have same : (h.unsend p).dies = h.dies := rfl
    unfold g1
    rw [Hub.discardNote_mute_dies quiet, same]
  have last : g3.dies = g1.dies := (Hub.setPort_dies ..).trans (Hub.setPort_dies ..)
  clear_value g3
  exact ite_keeps Hub.dies ((Hub.linkGone_dies _).trans (last.trans first)) (last.trans first)

theorem Hub.rawReassign_mute_dies (mute : h.Mute) : h.rawReassign.dies = h.dies := by
  unfold Hub.rawReassign
  extract_lets fl ports n plan one
  clear_value plan
  have lives (k : FlowKey) (g : Hub) (d : Dest) : (g.setFlow k fun f => f.moveTo d).flowLives = g.flowLives :=
    g.setFlow_flowLives k fun f => f.moveTo_life d
  refine (forAll_inv (fun g => g.dies = h.dies ∧ g.Mute) one fl (fun k _ g holds => ?_) h ⟨rfl, mute⟩).1
  obtain ⟨same, still⟩ := holds
  unfold one
  split
  · exact ⟨same, Hub.mute_of_lives (lives ..) still⟩
  · split
    · exact ⟨same, still⟩
    · extract_lets moved
      have quiet : moved.Mute := Hub.mute_of_lives (lives ..) still
      have kept : moved.dies = h.dies := same
      clear_value moved
      obtain ⟨x, eq⟩ := Hub.notice_mute
        (h := { moved with strm := { moved.strm with stopped := moved.strm.stopped ++ [(k.die, k.inst)] } }) quiet (unitWord 11 k.code)
        0x0602 0 0
      rw [eq]
      exact ⟨kept, quiet⟩

theorem Hub.portStart_mute_dies (mute : h.Mute) (p : Nat) : (h.portStart p).dies = h.dies := by
  unfold Hub.portStart
  extract_lets q fixR fixW st g1 g2
  have first : g1.dies = h.dies := Hub.portLost_mute_dies mute p st
  have quiet : g1.Mute := Hub.mute_of_lives (h.portLost_flowLives p st) mute
  clear_value g1
  have second : g2.dies = g1.dies := ite_keeps Hub.dies rfl (ite_keeps Hub.dies rfl rfl)
  have still : g2.Mute := by
    refine Hub.mute_of_lives ?_ quiet
    exact ite_keeps Hub.flowLives (Hub.setPort_flowLives ..) (ite_keeps Hub.flowLives (Hub.setPort_flowLives ..) rfl)
  clear_value g2
  rw [Hub.watermarks_dies]
  exact ite_keeps Hub.dies ((Hub.rawReassign_mute_dies still).trans (second.trans first)) (second.trans first)

theorem Hub.openCoupler_mute_dies (mute : h.Mute) : h.openCoupler.dies = h.dies := by
  unfold Hub.openCoupler
  split
  · rfl
  · have first := Hub.portStart_mute_dies (h := { h with flt := { h.flt with closed := false, byHost := false, closing := none } }) mute 0
    refine (Hub.portStart_mute_dies (Hub.mute_of_lives (Hub.portStart_flowLives ..) ?_) 1).trans first
    exact mute

end Mute

/-! ## The election of the lead, and the selection of the image (R469, R472) -/

/-- A hub with its lead the lowest die whose core runs, and with the flash as its table was read. -/
def Hub.elects (h : Hub) (ok : Bool) (sfdp : Option Sfdp) : Hub :=
  let lead := ((List.range h.nDies).find? h.coreRuns).getD 0
  { h with
    flows := h.flows.filter (fun (f : Flow) => f.key.kind != 3) ++ [Flow.init ⟨lead, 3, 0⟩],
    boot := { h.boot with lead := lead }, flash := { h.flash with present := ok, read := flashRead sfdp } }

theorem find?_range_below {n i : Nat} {p : Nat → Bool} (lt : i < ((List.range n).find? p).getD 0) : p i = false := by
  cases found : (List.range n).find? p with
  | none => simp [found] at lt
  | some m =>
    rw [found] at lt
    obtain ⟨-, -, below⟩ := List.find?_range_eq_some.1 found
    simpa using below i lt

theorem Hub.elects_mute (h : Hub) (ok : Bool) (sfdp : Option Sfdp) : (h.elects ok sfdp).Mute := by
  intro f mem kind
  rcases List.mem_append.1 mem with old | new
  · simp [kind] at old
  · rw [List.mem_singleton.1 new]
    rfl

/-- What selecting an image leaves of a hub whose records wait: its dies, its lead and what the flash's table says. -/
structure Selects (h g : Hub) : Prop where
  dies : g.dies = h.dies
  lead : g.boot.lead = h.boot.lead
  present : g.flash.present = h.flash.present
  read : g.flash.read = h.flash.read

theorem Flash.put_read (f : Flash) (n : Nat) (i : Image) : (f.put n i).present = f.present ∧ (f.put n i).read = f.read := by
  unfold Flash.put
  split <;> exact ⟨rfl, rfl⟩

theorem Hub.selectImage_selects {h : Hub} (mute : h.Mute) : Selects h h.selectImage := by
  unfold Hub.selectImage
  split
  · next n i _ =>
    extract_lets j
    obtain ⟨present, read⟩ := h.flash.put_read n j
    exact ⟨rfl, rfl, present, read⟩
  · extract_lets g
    have dies : g.dies = h.dies := rfl
    have lead : g.boot.lead = h.boot.lead := rfl
    have flash : g.flash = h.flash := rfl
    have quiet : g.Mute := mute
    clear_value g
    split
    · refine ⟨(Hub.openCoupler_mute_dies quiet).trans dies, ?_, ?_, ?_⟩
      · rw [Hub.openCoupler_boot, lead]
      · rw [Hub.openCoupler_flash, flash]
      · rw [Hub.openCoupler_flash, flash]
    · exact ⟨dies, lead, congrArg Flash.present flash, congrArg Flash.read flash⟩

section Elects
variable {h : Hub} {coreA coreB dead : List Nat} {ok : Bool} {sfdp : Option Sfdp} {u : Nat}

theorem Hub.selectDue_selects {e : Hub} (mute : e.Mute) :
    Selects e (if !(e.die 0).inService ∨ e.boot.netboot ∨ e.boot.watchdog.isSome then e else e.selectImage) := by
  split
  · exact ⟨rfl, rfl, rfl, rfl⟩
  · exact Hub.selectImage_selects mute

theorem Hub.bootRom_elects (tr : h.boot.tr = some u) (level : h.boot.level = .boot) (idle : h.boot.running = false) :
    Selects ((forAll (h.reported coreA coreB dead) (Hub.dieReports coreB dead) h).elects ok sfdp) (h.bootRom coreA coreB dead ok sfdp) := by
  have run : h.bootRom coreA coreB dead ok sfdp =
      let e := (forAll (h.reported coreA coreB dead) (Hub.dieReports coreB dead) h).elects ok sfdp
      if !(e.die 0).inService ∨ e.boot.netboot ∨ e.boot.watchdog.isSome then e else e.selectImage := by
    unfold Hub.bootRom
    exact (if_neg (by simp [tr])).trans ((if_neg (by simp [idle])).trans (if_neg (by simp [level])))
  rw [run]
  exact Hub.selectDue_selects (Hub.elects_mute _ ok sfdp)

theorem Hub.seats_of_dies {h g : Hub} (same : g.dies = h.dies) : g.seats = h.seats := congrArg (List.map Die.seat) same

theorem Hub.coreRuns_of_dies {h g : Hub} (same : g.dies = h.dies) (i : Nat) : g.coreRuns i = h.coreRuns i := by
  unfold Hub.coreRuns Hub.die
  rw [same]

theorem Selects.lowest {g e : Hub} (selects : Selects (e.elects ok sfdp) g) {i : Nat} (lt : i < g.boot.lead) : g.coreRuns i = false := by
  rw [selects.lead] at lt
  rw [Hub.coreRuns_of_dies selects.dies]
  exact find?_range_below lt

theorem flashRead_single (a4 : Bool) : flashRead (some ⟨a4, none⟩) = ⟨0x03, if a4 then 4 else 3, false, 25⟩ := rfl

theorem flashRead_quad (a4 : Bool) (c n : Nat) : flashRead (some ⟨a4, some (c, n)⟩) =
    if n ≤ Config.bootDummy then ⟨c, if a4 then 4 else 3, true, 50⟩ else ⟨0x03, if a4 then 4 else 3, false, 25⟩ := rfl

end Elects

/-! ## The service levels (R477, R478) -/

/-- Whether a hub lacks a die, or a lane of P00 or P01. -/
def Hub.lacks (h : Hub) : Bool := (List.range h.nDies).any h.dieDown || ((h.prt 0).lanes ++ (h.prt 1).lanes).any (·.retired)

theorem Hub.die_fit_of_fits {h g : Hub} (same : g.fits = h.fits) (d : Nat) : (g.die d).fit = (h.die d).fit := by
  have view (k : Hub) : (k.die d).fit = k.fits.getD d Die.reset.fit := by rw [Hub.die, Hub.fits, List.getD_map]
  rw [view, view, same]

theorem Hub.dieDown_of_fits {h g : Hub} (same : g.fits = h.fits) (d : Nat) : g.dieDown d = h.dieDown d :=
  congrArg (fun x : Bool × Bool × List Bool × Bool => !x.1 || x.2.1) (Hub.die_fit_of_fits same d)

theorem Hub.powered_of_fits {h g : Hub} (same : g.fits = h.fits) (q : Nat) : g.powered q = h.powered q :=
  congrArg (fun x : Bool × Bool × List Bool × Bool => x.2.2.1.getD (q % 4) false) (Hub.die_fit_of_fits same (q / 4))

theorem Hub.retiredAudit_of_fits {h g : Hub} (same : g.fits = h.fits) (d : Nat) : (g.aud d).retired = (h.aud d).retired :=
  congrArg (fun x : Bool × Bool × List Bool × Bool => x.2.2.2) (Hub.die_fit_of_fits same d)

theorem Hub.nDies_of_ident {h g : Hub} (ident : g.ident = h.ident) : g.nDies = h.nDies := by unfold Hub.nDies; rw [ident]

theorem Hub.eligible_of_fits {h g : Hub} (ident : g.ident = h.ident) (same : g.fits = h.fits) : g.eligible = h.eligible := by
  have nOcts : g.nOcts = h.nOcts := congrArg (16 * ·) (Hub.nDies_of_ident ident)
  have calOk : g.calOk = h.calOk := funext fun o => by
    unfold Hub.calOk
    rw [nOcts, Hub.dieDown_of_fits same, Hub.powered_of_fits same, Hub.retiredAudit_of_fits same]
  unfold Hub.eligible
  rw [nOcts, calOk]

theorem Hub.lanes_of_portCores {h g : Hub} (same : g.portCores = h.portCores) (p : Nat) : (g.prt p).lanes = (h.prt p).lanes :=
  (congrArg Port.lanes (Hub.prt_core_of_portCores same p) :)

theorem Hub.lacks_of {h g : Hub} (ident : g.ident = h.ident) (fits : g.fits = h.fits) (ports : g.portCores = h.portCores) :
    g.lacks = h.lacks := by
  unfold Hub.lacks
  rw [Hub.nDies_of_ident ident, funext (Hub.dieDown_of_fits fits), Hub.lanes_of_portCores ports, Hub.lanes_of_portCores ports]

theorem Hub.setLevel_level (h : Hub) (l : Level) : (h.setLevel l).boot.level = l := by rw [Hub.setLevel_boot]

theorem Hub.setLevel_lacks (h : Hub) (l : Level) : (h.setLevel l).lacks = h.lacks :=
  Hub.lacks_of (h.setLevel_ident l) (congrArg (List.map Die.fit) (h.setLevel_dies l)) (congrArg (List.map Port.core) (h.setLevel_ports l))

/-- The level that a hub reaches: FULL, or DEGRADED where it lacks something. -/
theorem Hub.reaches_level (h : Hub) : (h.setLevel .full).reLevel.boot.level = if h.lacks then Level.degraded else .full := by
  unfold Hub.reLevel
  rw [if_pos (.inl (h.setLevel_level .full))]
  extract_lets bad
  rw [Hub.setLevel_level]
  exact congrArg (fun b : Bool => if b then Level.degraded else .full) (h.setLevel_lacks .full)

theorem Hub.reLevel_keeps {α : Type} (view : Hub → α) (level : ∀ g l, view (Hub.setLevel g l) = view g) (h : Hub) :
    view h.reLevel = view h := by
  unfold Hub.reLevel
  exact ite_keeps view (level _ _) rfl

/-! ### ROUGH -/

theorem Hub.rough_stays {h : Hub} (stays : h.boot.running = false ∨ h.boot.level ≠ .boot) : h.rough = h :=
  if_pos (stays.imp_left fun idle => by simp [idle])

/-- What the channels of a hub tell of skim. -/
def Hub.skims (h : Hub) := h.chans.map Chan.skimEn

theorem Chan.skimEn_blind : Chan.Blind Chan.skimEn := fun _ _ _ _ _ => rfl

theorem Hub.dropAction_skims (h : Hub) (id : Word) : (h.dropAction id).skims = h.skims := by
  unfold Hub.dropAction Hub.syncDrops Hub.switchDrops
  refine (map_mapIdx_of_keeps (fun c x => ?_) _).trans ((map_mapIdx_of_keeps (fun c x => ?_) _).trans rfl)
  · split
    · extract_lets now a amp rest goal y
      have same : y.skimEn = x.skimEn := by
        unfold y
        refine ite_keeps Chan.skimEn ?_ rfl
        split
        · exact ite_keeps Chan.skimEn rfl rfl
        · rfl
      exact same
    · rfl
  · split
    · exact ite_keeps Chan.skimEn rfl rfl
    · rfl

theorem Hub.jobEnds_skims (h : Hub) (j : LogJob) (status : Nat) : (h.jobEnds j status).skims = h.skims := by
  unfold Hub.jobEnds
  dsimp only
  split
  · refine (Hub.planeDone_keeps Hub.skims Hub.dropAction_skims (fun g t k b => g.recordAt_view Chan.skimEn_blind t k b) _ _ _).trans rfl
  · rfl

theorem Hub.tagNext_skims (h : Hub) : h.tagNext.skims = h.skims := by
  have expired : h.writeExpiry.skims = h.skims := by
    unfold Hub.writeExpiry
    split
    · rfl
    · split
      · rfl
      · dsimp only
        rw [Hub.jobEnds_skims]
        split <;> rfl
  rw [Hub.tagNext_eq]
  unfold Hub.takesBlock
  repeat' split
  all_goals exact expired

theorem Hub.tagRough_skims (h : Hub) : h.tagRough.skims = h.skims := (Hub.tagNext_skims _).trans rfl

theorem Hub.skimOn_skims (c : Nat) (h : Hub) : (Hub.skimOn c h).skims = modAt h.skims c fun _ => true := by
  unfold Hub.skimOn
  split
  · next on =>
    refine List.ext_getElem? fun i => ?_
    rw [modAt, List.getElem?_modify]
    cases there : h.skims[i]? with
    | none => rfl
    | some b =>
      by_cases named : c = i
      · subst named
        rw [Hub.skims, List.getElem?_map, Option.map_eq_some_iff] at there
        obtain ⟨x, found, rfl⟩ := there
        have ch : h.ch c = x := by rw [Hub.ch, List.getD_eq_getElem?_getD, found]; rfl
        simp [← ch, on]
      · simp [named]
  · exact map_modAt Chan.skimEn (fun _ => rfl) _ _

/-- Skim runs on every channel of a list that it is turned on for. -/
theorem forAll_skimOn {l : List Nat} {c : Nat} (mem : c ∈ l) (h : Hub) (lt : c < h.skims.length) :
    (forAll l Hub.skimOn h).skims[c]? = some true := by
  have each : ∀ a ∈ l, a < (forAll l Hub.skimOn h).skims.length → (forAll l Hub.skimOn h).skims[a]? = some true := by
    refine forAll_each (P := fun a g => a < g.skims.length → g.skims[a]? = some true) (fun a _ g there => ?_)
      (fun a _ b _ g holds there => ?_) h
    · rw [Hub.skimOn_skims, modAt, List.length_modify] at there
      rw [Hub.skimOn_skims, modAt, List.getElem?_modify_eq, List.getElem?_eq_getElem there]
      rfl
    · rw [Hub.skimOn_skims, modAt, List.length_modify] at there
      rw [Hub.skimOn_skims, modAt, List.getElem?_modify, holds there]
      by_cases same : b = a <;> simp [same]
  have length : (forAll l Hub.skimOn h).skims.length = h.skims.length :=
    forAll_keeps (fun g => g.skims.length) Hub.skimOn (fun d g => by rw [Hub.skimOn_skims, modAt, List.length_modify]) l h
  exact each c mem (length ▸ lt)

section Rough
variable {h : Hub}

theorem Hub.startFlows_boot (h : Hub) : h.startFlows.boot = h.boot := (Hub.startHk_boot _).trans rfl
theorem Hub.startFlows_cal (h : Hub) : h.startFlows.cal = h.cal := (Hub.startHk_cal _).trans rfl

theorem Hub.thermalNote_boot (h : Hub) : h.thermalNote.boot = h.boot := by
  unfold Hub.thermalNote
  split
  · exact (Hub.notice_boot ..).trans rfl
  · rfl

theorem Hub.thermalNote_cal (h : Hub) : h.thermalNote.cal = h.cal := by
  unfold Hub.thermalNote
  split
  · exact (Hub.notice_cal ..).trans rfl
  · rfl

/-- A hub at the beginning of ROUGH: its flows run, and the boot watchdog does not. -/
def Hub.roughBegins (h : Hub) : Hub := ((h.setLevel .rough).setBoot fun b => { b with watchdog := none }).startFlows.thermalNote

theorem Hub.roughBegins_fits (h : Hub) : h.roughBegins.fits = h.fits := by
  unfold Hub.roughBegins
  rw [Hub.thermalNote_fits, Hub.startFlows_fits]
  exact congrArg (List.map Die.fit) (h.setLevel_dies .rough)

theorem Hub.roughBegins_form (h : Hub) : h.roughBegins.form = h.form := by
  unfold Hub.roughBegins
  rw [Hub.thermalNote_form, Hub.startFlows_form, Hub.setBoot_form, Hub.setLevel_form]

theorem Hub.roughBegins_boot (h : Hub) : h.roughBegins.boot = { h.boot with level := .rough, watchdog := none } := by
  unfold Hub.roughBegins
  rw [Hub.thermalNote_boot, Hub.startFlows_boot, Hub.setBoot_boot, Hub.setLevel_boot]

theorem Hub.roughBegins_cal (h : Hub) : h.roughBegins.cal = h.cal := by
  unfold Hub.roughBegins
  rw [Hub.thermalNote_cal, Hub.startFlows_cal, Hub.setBoot_cal, Hub.setLevel_cal]

/-- The channels that ROUGH gives skim. -/
def Hub.roughChans (h : Hub) : List Nat :=
  (List.range h.nChans).filter fun c => h.takesCfg c && (h.die (chDie c)).inService && h.powered (chQuad c)

/-- A hub in ROUGH with skim on its channels, before the start-up pass. -/
def Hub.roughSkims (h : Hub) : Hub :=
  let g := forAll h.roughChans Hub.skimOn h
  (forAll (List.range g.nDies) (fun d h => h.reSweep d) g).confirmImage.tagRough

theorem forAll_skimOn_dies (l : List Nat) (h : Hub) : (forAll l Hub.skimOn h).dies = h.dies :=
  forAll_keeps Hub.dies Hub.skimOn (fun _ _ => ite_keeps Hub.dies rfl rfl) l h

theorem Hub.rough_runs (running : h.boot.running = true) (level : h.boot.level = .boot) : h.rough =
    let g := h.roughBegins.roughSkims
    (g.newPass.setCal fun k => { k with passNo := 0, pass := g.eligible, passRuns := true }).passEnds := by
  unfold Hub.rough
  rw [if_neg (by simp [running, level])]
  rfl

theorem Hub.roughSkims_boot (h : Hub) : h.roughSkims.boot = h.boot := by
  unfold Hub.roughSkims
  dsimp only
  rw [Hub.tagRough_boot, Hub.confirmImage_boot, forAll_boot _ (fun d g => g.reSweep_boot d), forAll_boot _ Hub.skimOn_boot]

theorem Hub.roughSkims_cal (h : Hub) : h.roughSkims.cal = h.cal := by
  unfold Hub.roughSkims
  dsimp only
  rw [Hub.tagRough_cal, Hub.confirmImage_cal, forAll_cal _ (fun d g => g.reSweep_cal d), forAll_cal _ Hub.skimOn_cal]

theorem Hub.roughSkims_fits (h : Hub) : h.roughSkims.fits = h.fits := by
  unfold Hub.roughSkims
  dsimp only
  rw [Hub.tagRough_fits, Hub.confirmImage_fits, forAll_fits _ (fun d g => g.reSweep_fits d), forAll_fits _ Hub.skimOn_fits]

theorem Hub.roughSkims_form (h : Hub) : h.roughSkims.form = h.form := by
  unfold Hub.roughSkims
  dsimp only
  rw [Hub.tagRough_form, Hub.confirmImage_form, forAll_form _ (fun d g => g.reSweep_form d), forAll_form _ Hub.skimOn_form]

theorem Hub.roughSkims_skims (h : Hub) : h.roughSkims.skims = (forAll h.roughChans Hub.skimOn h).skims := by
  unfold Hub.roughSkims
  dsimp only
  rw [Hub.tagRough_skims, Hub.skims, Hub.confirmImage_chans, forAll_chans _ (fun d g => g.reSweep_chans d), ← Hub.skims]

end Rough

section Rough
variable {h : Hub}

/-- A hub in ROUGH with its start-up pass begun. -/
def Hub.passBegins (h : Hub) : Hub := h.newPass.setCal fun k => { k with passNo := 0, pass := h.eligible, passRuns := true }

theorem Hub.passBegins_pass (h : Hub) : h.passBegins.cal.pass = h.eligible ∧ h.passBegins.cal.passRuns = true ∧
    h.passBegins.cal.slots = h.cal.slots := ⟨rfl, rfl, rfl⟩

theorem Hub.passBegins_boot (h : Hub) : h.passBegins.boot = h.boot := rfl
theorem Hub.passBegins_chans (h : Hub) : h.passBegins.chans = h.chans := rfl

theorem Hub.passBegins_left (h : Hub) : h.passBegins.cal.pass.filter h.passBegins.calOk = h.eligible := by
  refine List.filter_eq_self.2 fun o mem => ?_
  exact (List.mem_filter.1 mem).2

theorem Hub.startPass_eligible (some' : h.eligible ≠ []) : h.passBegins.passEnds.cal.pass = h.eligible := by
  have stays : h.passBegins.passEnds = h.passBegins := by
    refine if_neg ?_
    rw [Hub.passBegins_left]
    simp [some']
  rw [stays]
  rfl

theorem Hub.startPass_empty (none' : h.eligible = []) (slots : h.cal.slots = []) : h.passBegins.passEnds.cal.passDone = true := by
  obtain ⟨-, runs, same⟩ := h.passBegins_pass
  unfold Hub.passEnds
  rw [if_pos (by rw [Hub.passBegins_left, none', runs, same, slots]; rfl)]

theorem Hub.rough_eq (running : h.boot.running = true) (level : h.boot.level = .boot) :
    h.rough = h.roughBegins.roughSkims.passBegins.passEnds := Hub.rough_runs running level

theorem Hub.rough_boot (running : h.boot.running = true) (level : h.boot.level = .boot) :
    h.rough.boot = { h.boot with level := .rough, watchdog := none } := by
  rw [Hub.rough_eq running level, Hub.passEnds_boot, Hub.passBegins_boot, Hub.roughSkims_boot, Hub.roughBegins_boot]

theorem Hub.roughSkims_eligible (h : Hub) : h.roughBegins.roughSkims.eligible = h.eligible :=
  Hub.eligible_of_fits (congrArg Form.ident ((Hub.roughSkims_form _).trans h.roughBegins_form))
    ((Hub.roughSkims_fits _).trans h.roughBegins_fits)

theorem Hub.rough_pass (running : h.boot.running = true) (level : h.boot.level = .boot) (some' : h.eligible ≠ []) :
    h.rough.cal.pass = h.eligible := by
  rw [Hub.rough_eq running level, Hub.startPass_eligible (by rwa [Hub.roughSkims_eligible]), Hub.roughSkims_eligible]

theorem Hub.rough_passDone (running : h.boot.running = true) (level : h.boot.level = .boot) (none' : h.eligible = [])
    (slots : h.cal.slots = []) : h.rough.cal.passDone = true := by
  rw [Hub.rough_eq running level]
  exact Hub.startPass_empty (by rwa [Hub.roughSkims_eligible]) (by rw [Hub.roughSkims_cal, Hub.roughBegins_cal, slots])

theorem Hub.rough_skims (running : h.boot.running = true) (level : h.boot.level = .boot) (shaped : h.chans.length = h.nChans) {c : Nat}
    {x : Chan} (there : h.rough.chans[c]? = some x) (up : (h.die (chDie c)).inService = true) (thawed : (h.die (chDie c)).frozen = false)
    (powered : h.powered (chQuad c) = true) : x.skimEn = true := by
  have form := h.roughBegins_form
  have fits := h.roughBegins_fits
  have length : h.rough.chans.length = h.nChans := (congrArg Form.chans h.rough_form).trans shaped
  have lt : c < h.nChans := length ▸ (List.getElem?_eq_some_iff.1 there).1
  have nChans : h.roughBegins.nChans = h.nChans := congrArg (128 * ·) (Hub.nDies_of_ident (congrArg Form.ident form))
  have at' : h.rough.skims[c]? = some x.skimEn := by rw [Hub.skims, List.getElem?_map, there]; rfl
  have skims : h.rough.skims = (forAll h.roughBegins.roughChans Hub.skimOn h.roughBegins).skims := by
    rw [Hub.rough_eq running level, Hub.skims, Hub.passEnds_chans, Hub.passBegins_chans, ← Hub.skims, Hub.roughSkims_skims]
  have fit := Hub.die_fit_of_fits fits (chDie c)
  have mem : c ∈ h.roughBegins.roughChans := by
    refine List.mem_filter.2 ⟨List.mem_range.2 (nChans ▸ lt), ?_⟩
    have up' : (h.roughBegins.die (chDie c)).inService = true :=
      (congrArg (fun x : Bool × Bool × List Bool × Bool => x.1) fit).trans up
    have thawed' : (h.roughBegins.die (chDie c)).frozen = false :=
      (congrArg (fun x : Bool × Bool × List Bool × Bool => x.2.1) fit).trans thawed
    unfold Hub.takesCfg
    rw [up', thawed', Hub.powered_of_fits fits, powered, nChans, decide_eq_true lt]
    rfl
  have here : c < h.roughBegins.skims.length := by
    rw [Hub.skims, List.length_map, show h.roughBegins.chans.length = h.chans.length from congrArg Form.chans form, shaped]
    exact lt
  rw [skims, forAll_skimOn mem _ here] at at'
  exact (Option.some.inj at').symm

end Rough

/-! ### FULL -/

section Full
variable {h : Hub}

theorem Hub.full_stays (stays : h.boot.level.serves = false ∨ (h.boot.level = .rough ∧ h.cal.passDone = false)) : h.full = h := by
  rcases stays with off | ⟨level, open'⟩
  · exact if_pos (by simp [off])
  · unfold Hub.full Hub.applyStored
    rw [if_neg (by simp [level, Level.serves])]
    dsimp only
    rw [if_neg (by simp [open']), if_neg (by simp [open'])]

theorem Hub.applyStored_done (done : h.boot.cfgApplied = true) : h.applyStored = h := if_neg (by simp [done])

theorem Hub.full_settled (done : h.boot.cfgApplied = true) (stays : h.boot.level ≠ .rough ∨ h.boot.p00Settled = false) : h.full = h := by
  unfold Hub.full
  refine ite_keeps id rfl ?_
  dsimp only
  rw [Hub.applyStored_done done, if_neg (fun ready => ?_)]
  · rfl
  obtain ⟨level, -, -, settled⟩ := ready
  rcases stays with other | open'
  · exact other level
  · simp [open'] at settled

theorem Hub.releaseP00_releases (h : Hub) :
    h.releaseP00.boot.cfgApplied = h.boot.cfgApplied ∧ h.releaseP00.boot.p00Released = true := by
  unfold Hub.releaseP00
  extract_lets boot g q k
  have applied : g.boot.cfgApplied = h.boot.cfgApplied := rfl
  have released : g.boot.p00Released = true := rfl
  clear_value g
  split
  · rw [Hub.trainStep_boot, Hub.setPort_boot]
    exact ⟨applied, released⟩
  · split
    · exact ⟨applied, released⟩
    · exact ⟨applied, released⟩

theorem Hub.full_applies (serves : h.boot.level.serves = true) (passed : h.cal.passDone = true) (first : h.boot.cfgApplied = false) :
    h.full.boot.cfgApplied = true ∧ h.full.boot.p00Released = true := by
  have applies : h.applyStored.boot.cfgApplied = true ∧ h.applyStored.boot.p00Released = true := by
    unfold Hub.applyStored
    rw [if_pos (by simp [passed, first])]
    exact Hub.releaseP00_releases _
  have same (view : Boot → Bool) (blind : ∀ b l, view { b with level := l } = view b) (g : Hub) :
      view (g.setLevel .full).reLevel.boot = view g.boot := by
    have level (k : Hub) (l : Level) : view (k.setLevel l).boot = view k.boot := by rw [Hub.setLevel_boot]; exact blind ..
    exact (Hub.reLevel_keeps (fun k => view k.boot) level _).trans (level ..)
  unfold Hub.full
  rw [if_neg (by simp [serves])]
  dsimp only
  split
  · exact ⟨(same Boot.cfgApplied (fun _ _ => rfl) _).trans applies.1, (same Boot.p00Released (fun _ _ => rfl) _).trans applies.2⟩
  · exact applies

theorem Hub.full_reaches (level : h.boot.level = .rough) (passed : h.cal.passDone = true) (done : h.boot.cfgApplied = true)
    (settled : h.boot.p00Settled = true) : h.full = (h.setLevel .full).reLevel := by
  unfold Hub.full
  rw [if_neg (by simp [level, Level.serves])]
  dsimp only
  rw [Hub.applyStored_done done, if_pos ⟨level, passed, done, settled⟩]

theorem Hub.startupLate_stays (stays : h.boot.tr = none ∨ h.boot.level ≠ .rough) : h.startupLate = h := by
  unfold Hub.startupLate
  split
  · rfl
  · next u tr =>
    rcases stays with off | other
    · simp [off] at tr
    · exact if_pos (.inl other)

theorem Hub.startupLate_waits {u : Nat} (tr : h.boot.tr = some u) (early : h.clk.elapsed < u + h.ident.variant.bound) :
    h.startupLate = h := by
  unfold Hub.startupLate
  rw [tr]
  exact if_pos (.inr early)

theorem Hub.startupLate_ends {u : Nat} (tr : h.boot.tr = some u) (level : h.boot.level = .rough)
    (late : u + h.ident.variant.bound ≤ h.clk.elapsed) : ∃ g, h.startupLate = g ∧ g.boot.late = true ∧
      g.boot.level = (if h.lacks then .degraded else .full) ∧ (h.hk.dropped = 0 → g.hk.rseq = h.hk.rseq + 1) := by
  have run (unmet : Nat) : ∃ g, (((h.notice unitHub 0x0B01 (argN unmet) 0).setBoot fun b => { b with late := true }).setLevel .full).reLevel
      = g ∧ g.boot.late = true ∧ g.boot.level = (if h.lacks then .degraded else .full) ∧
        (h.hk.dropped = 0 → g.hk.rseq = h.hk.rseq + 1) := by
    have lacks : ((h.notice unitHub 0x0B01 (argN unmet) 0).setBoot fun b => { b with late := true }).lacks = h.lacks :=
      Hub.lacks_of (Hub.notice_ident ..) (Hub.notice_fits ..) (Hub.notice_portCores ..)
    refine ⟨_, rfl, ?_, ?_, fun kept => ?_⟩
    · exact (Hub.reLevel_keeps (fun g => g.boot.late) (fun g l => by rw [Hub.setLevel_boot]) _).trans (by rw [Hub.setLevel_boot]; rfl)
    · rw [Hub.reaches_level, lacks]
    · refine (congrArg Hk.rseq ((Hub.reLevel_keeps Hub.hk (fun g l => g.setLevel_hk l) _).trans (Hub.setLevel_hk ..))).trans ?_
      exact Hub.notice_rseq_of (h := h) rfl kept unitHub 0x0B01 (argN unmet) 0
  unfold Hub.startupLate
  rw [tr]
  dsimp only
  rw [if_neg (by simp [level, late])]
  exact run _

end Full

/-! ## VKEEP (R446, R448) -/

theorem Hub.vkeep_on {h : Hub} (on : h.pwr.vkeepOk = true) : h.vkeep = h := if_pos on

theorem Hub.vkeep_comes {h : Hub} (off : h.pwr.vkeepOk = false) : h.vkeep = { h with
    pwr := { h.pwr with vkeepOk := true, vkeepAt := h.clk.elapsed },
    fseal := { h.fseal with lockUntil := h.fseal.lockUntil.map (· + (h.clk.elapsed - h.pwr.vkeepAt)) } } :=
  if_neg (by simp [off])

theorem Hub.vkeepLoss_off {h : Hub} (off : h.pwr.vkeepOk = false) : h.vkeepLoss = h := if_pos (by simp [off])


end Sys2Proof.Machine

open Sys2Proof Sys2Proof.Machine

/-- Settles O50: the supplies, the resets and the start-up to FULL. That VIO_A and VIO_B are carried by RST_N is the model's DESIGN
CHOICE of log entry 143, the 0x03 read of the boot flash with its table's address width at 25 MHz that of entry 144; entry 148 (DEDUCED)
stands behind the readings of the boot ROM. -/
theorem startAndReset : Obligations.StartAndReset := by
  unfold Obligations.StartAndReset
  refine ⟨?_, ?_⟩
  · intro s b level va vb now h kept
    refine ⟨fun on => next_same (Hub.vkeep_on on), fun off => next_congr (Hub.vkeep_comes off),
      fun off => next_same (Hub.vkeepLoss_off off),
      ?_, fun stays => next_same (Hub.bay0Starts_stays stays),
      fun supplied bays past awake on => next_congr (Hub.bay0Starts_runs supplied bays past awake on),
      fun off => ⟨next_same (Hub.bays_none off).1, next_same (Hub.bays_none off).2⟩,
      fun rails => ⟨next_same (Hub.bays_settled (.inl rails)).1, next_same (Hub.bays_settled (.inl rails)).2⟩,
      fun u starts out => next_same (Hub.bayGood_stays starts (out.imp_right .inl)),
      fun faulted => ⟨next_same (Hub.bays_settled (.inr faulted)).1, next_same (Hub.bays_settled (.inr faulted)).2⟩, ?_,
      fun u starts early => next_same (Hub.bayTimeout_stays starts (.inl early)), ?_, ?_, ?_, ?_,
      fun u tr rst va' same => next_same (Hub.rstN_same tr rst va' same), ?_,
      fun u asked waits => next_same (Hub.resetDue_waits asked waits), ?_, ?_, ?_,
      fun u set early => next_same (Hub.bootWatchdog_waits set (.inl early)), ?_⟩
    · intro supplied
      obtain ⟨g, run, spares, rest⟩ := Hub.vkeepLoss_runs supplied
      exact ⟨⟨g, s.pending⟩, next_congr run, spares, rest⟩
    · intro u starts shaped lt from' upTo off whole
      obtain ⟨g, run, left⟩ := Hub.bayGood_powers starts shaped lt from' upTo off whole
      exact ⟨⟨g, s.pending⟩, next_congr run, left⟩
    · intro u starts shaped lt late off whole
      obtain ⟨g, run, left⟩ := Hub.bayTimeout_out starts shaped lt late off whole
      exact ⟨⟨g, s.pending⟩, next_congr run, left⟩
    · intro tr waits
      obtain ⟨g, run, left⟩ := Hub.rstN_waits tr waits vb
      exact ⟨⟨g, s.pending⟩, next_congr run, left⟩
    · intro low
      obtain ⟨g, run, spares, rest⟩ := s.hub.rstN_resets (vb := vb) low
      exact ⟨⟨g, s.pending⟩, next_congr run, spares, rest⟩
    · intro tr rails supplied
      obtain ⟨g, run, left⟩ := Hub.rstN_releases tr rails supplied vb
      exact ⟨⟨g, s.pending⟩, next_congr run, left⟩
    · intro idle
      exact next_same (by unfold Hub.resetDue; rw [show s.hub.boot.resetAt = none from idle])
    · intro u asked due answered
      obtain ⟨resetAt, running, -⟩ := s.hub.packageReset_down
      exact ⟨⟨_, s.pending⟩, next_congr (Hub.resetDue_runs asked due answered), s.hub.spares_packageReset, resetAt, running⟩
    · intro u asked due answered shaped rst rails supplied
      obtain ⟨level', tr, resetAt⟩ := Hub.packageReset_starts shaped rst rails supplied
      exact ⟨⟨_, s.pending⟩, next_congr (Hub.resetDue_runs asked due answered), s.hub.spares_packageReset, level', tr, resetAt⟩
    · intro stays
      cases set : s.hub.boot.watchdog with
      | none => exact next_same (by unfold Hub.bootWatchdog; rw [set])
      | some u =>
        refine next_same (Hub.bootWatchdog_waits set (.inr (stays.resolve_left fun off => ?_)))
        exact Option.some_ne_none u (set.symm.trans off)
    · intro u set due level'
      obtain ⟨-, -, watchdog⟩ := s.hub.packageReset_down
      exact ⟨⟨_, s.pending⟩, next_congr (Hub.bootWatchdog_runs set due level'), s.hub.spares_packageReset, watchdog⟩
  · intro s coreA coreB dead ok sfdp d now h bad reports brought
    refine ⟨fun stays => next_same (Hub.bootRom_stays stays), ?_, ?_, ?_,
      ?_, fun u tr early => next_same (Hub.dieBootTimeout_waits tr early), ?_,
      fun stays => next_same (Hub.firmwareStart_stays stays), ?_, fun stays => next_same (Hub.rough_stays stays), ?_,
      fun stays => next_same (Hub.full_stays stays), fun _ done stays => next_same (Hub.full_settled done stays), ?_, ?_,
      fun stays => next_same (Hub.startupLate_stays stays), fun u tr early => next_same (Hub.startupLate_waits tr early), ?_⟩
    · intro u tr running late
      refine next_same ((Hub.bootRom_joins tr running).trans ?_)
      rw [Hub.reported_late tr late]
      rfl
    · intro u shaped tr running early
      obtain ⟨-, -, length, -⟩ := shaped
      refine ⟨⟨_, s.pending⟩, next_congr (Hub.bootRom_joins tr running), fun i reports' => ?_⟩
      obtain ⟨lt, named, rails, whole, first⟩ := reports'
      refine Hub.die_of_seat (forAll_seats (Hub.reportJoins_seats coreB dead) _ s.hub i
        (Hub.mem_reported tr early lt named rails whole first) ?_)
      rw [Hub.seats, List.length_map, length]
      exact lt
    · intro u tr level idle shaped
      obtain ⟨-, -, length, -⟩ := shaped
      have selects := Hub.bootRom_elects (coreA := coreA) (coreB := coreB) (dead := dead) (ok := ok) (sfdp := sfdp) tr level idle
      refine ⟨⟨_, s.pending⟩, rfl, fun early i reports' => ?_, fun late => ?_, fun i lt => selects.lowest lt, selects.present,
        fun none' => ?_, fun a4 single => ?_, fun a4 c n quad => ?_⟩
      · obtain ⟨lt, named, rails, whole, first⟩ := reports'
        refine Hub.die_of_seat ((congrArg (fun l => l[i]?) (Hub.seats_of_dies selects.dies)).trans ?_)
        refine forAll_seats (Hub.dieReports_seats coreB dead) _ s.hub i (Hub.mem_reported tr early lt named rails whole first) ?_
        rw [Hub.seats, List.length_map, length]
        exact lt
      · refine selects.dies.trans ?_
        rw [Hub.reported_late tr late]
        rfl
      · exact selects.read.trans (congrArg flashRead none')
      · exact selects.read.trans (congrArg flashRead single)
      · exact selects.read.trans (congrArg flashRead quad)
    · intro stays
      exact next_same (Hub.dieBootTimeout_stays stays)
    · intro u tr shaped lt late silent whole
      obtain ⟨-, -, length, -⟩ := shaped
      exact ⟨⟨_, s.pending⟩, next_congr (Hub.dieBootTimeout_runs tr lt late silent whole),
        Hub.leavesOut_there (lt.trans_eq length.symm) 2, Hub.leavesOut_retired ..⟩
    · intro watched idle up
      obtain ⟨g, run, left⟩ := Hub.firmwareStart_runs watched idle up ok
      exact ⟨⟨g, s.pending⟩, next_congr run, left⟩
    · intro shaped running level
      obtain ⟨length, -⟩ := shaped
      refine ⟨⟨_, s.pending⟩, rfl, ?_, ?_, fun c x there up thawed powered => Hub.rough_skims running level length there up thawed powered,
        fun some' => Hub.rough_pass running level some', fun none' slots => Hub.rough_passDone running level none' slots⟩
      · exact congrArg Boot.level (Hub.rough_boot running level)
      · exact congrArg Boot.watchdog (Hub.rough_boot running level)
    · intro serves passed first
      exact ⟨⟨_, s.pending⟩, rfl, Hub.full_applies serves passed first⟩
    · intro level passed done settled
      refine ⟨⟨_, s.pending⟩, next_congr (Hub.full_reaches level passed done settled), Hub.reaches_level s.hub, ?_, ?_⟩
      · exact (Hub.reLevel_keeps Hub.tm (fun g l => g.setLevel_tm l) _).trans (Hub.setLevel_tm ..)
      · exact (Hub.reLevel_keeps Hub.chans (fun g l => g.setLevel_chans l) _).trans (Hub.setLevel_chans ..)
    · intro u tr level late
      obtain ⟨g, run, left⟩ := Hub.startupLate_ends tr level late
      exact ⟨⟨g, s.pending⟩, next_congr run, left⟩
end

section
/-! PROOFS. The requests that wait and the one that runs: no command that a request brings changes them (R368). -/

namespace Sys2Proof.Machine

/-! ## The desk: the requests that wait, the one that runs, and the lead -/

/-- The requests that wait, the one that runs, and the die that leads. -/
def Hub.desk (h : Hub) := (h.mgmt.queue, h.mgmt.running.map Prod.fst, h.boot.lead)

theorem forAll_desk {α : Type} (f : α → Hub → Hub) (keeps : ∀ a h, (f a h).desk = h.desk) (l : List α) (h : Hub) :
    (forAll l f h).desk = h.desk := forAll_keeps Hub.desk f keeps l h
theorem iter_desk (f : Hub → Hub) (keeps : ∀ h, (f h).desk = h.desk) (n : Nat) (h : Hub) :
    (iter f n h).desk = h.desk := iter_keeps Hub.desk f keeps n h
theorem Hub.desk_eq (h : Hub) : (h.mgmt.queue, h.mgmt.running.map Prod.fst, h.boot.lead) = h.desk := (rfl)
theorem Hub.desk_mk {clk : Clk} {tm : Tm} {chans : List Chan} {octs : List Octet} {reps : List Rep} {dies : List Die}
    {trg : Trg} {caps : List (Option Capture)} {nextTrain : Nat} {saved : List SavedChurn} {jobs : List ChurnJob} {nextHandle nextJob : Nat}
    {flows : List Flow} {strm : Strm} {hk : Hk} {sep : Sep} {ports : List Port} {enm : Enum} {mgmt : Mgmt} {dbw : Dbw} {fseal : Seal}
    {flt : Flt} {cal : Cal} {pwr : Pwr} {pmbus : Pmbus} {boot : Boot} {flash : Flash} {tag : Tag} {tap : Tap} {fresh : Nat} {ident : Ident}
      :
    (Hub.mk ident clk tm chans octs reps dies trg caps nextTrain saved jobs nextHandle nextJob flows strm hk sep ports enm mgmt dbw
      fseal flt cal pwr pmbus boot flash tag tap fresh).desk = (mgmt.queue, mgmt.running.map Prod.fst, boot.lead) := (rfl)

theorem Hub.desk_of_still {h g : Hub} (same : g.still = h.still) : g.desk = h.desk :=
  (congrArg (fun k : Hub => (k.mgmt.queue, k.mgmt.running.map Prod.fst, k.boot.lead)) same :)

@[simp] theorem Hub.setMgmt_desk (h : Hub) {f : Mgmt → Mgmt} (queue : ∀ m, (f m).queue = m.queue)
    (running : ∀ m, (f m).running.map Prod.fst = m.running.map Prod.fst) : (h.setMgmt f).desk = h.desk := by
  rw [Hub.desk, Hub.setMgmt_mgmt, Hub.setMgmt_boot, queue, running, Hub.desk]

@[simp] theorem Hub.setBoot_desk (h : Hub) {f : Boot → Boot} (lead : ∀ b, (f b).lead = b.lead) : (h.setBoot f).desk = h.desk := by
  rw [Hub.desk, Hub.setBoot_mgmt, Hub.setBoot_boot, lead, Hub.desk]

theorem Mgmt.answers_running (m : Mgmt) (order : Nat) (r : Reply) : (m.answers order r).running.map Prod.fst = m.running.map Prod.fst := by
  unfold Mgmt.answers
  cases m.running with
  | none => rfl
  | some p =>
    dsimp only [Option.map_some]
    split <;> rfl

theorem Mgmt.answers_queue (m : Mgmt) (order : Nat) (r : Reply) : (m.answers order r).queue = m.queue := rfl

@[simp] theorem Hub.withReply_desk (h : Hub) (r : Reply) : (h.withReply r).desk = h.desk := (rfl)
@[simp] theorem Hub.ok_desk (h : Hub) (b : Bytes) : (h.ok b).desk = h.desk := (rfl)
@[simp] theorem Hub.refuse_desk (h : Hub) (st : Nat) : (h.refuse st).desk = h.desk := (rfl)
@[simp] theorem Hub.refuseDie_desk (h : Hub) (st d : Nat) : (h.refuseDie st d).desk = h.desk := (rfl)

theorem Hub.checked_desk (h : Hub) (tests : List (Nat × List Nat)) (k : Hub) (keeps : k.desk = h.desk) :
    (h.checked tests k).desk = h.desk := by
  unfold Hub.checked
  split
  · exact h.refuseDie_desk _ _
  · exact keeps

theorem Hub.onDies_desk (h : Hub) (dies : List Nat) (k : Hub) (keeps : k.desk = h.desk) : (h.onDies dies k).desk = h.desk := by
  obtain ⟨d, -, refused⟩ | ⟨-, runs⟩ := h.onDies_cases dies k
  · rw [refused, Hub.refuseDie_desk]
  · rw [runs, keeps]

theorem Hub.overMask_desk (h : Hub) (down : Nat → Bool) (dies : List Nat) (check : Nat → Option Nat) (k : List Nat → Hub)
    (keeps : ∀ ds, (k ds).desk = h.desk) : (h.overMask down dies check k).desk = h.desk := by
  obtain ⟨bad, -⟩ | ⟨-, ⟨d, -, refused⟩ | ⟨-, ⟨d, -, e, -, refused⟩ | ⟨-, runs⟩⟩⟩ := h.overMask_cases down dies check k
  · rw [bad, Hub.refuse_desk]
  · rw [refused, Hub.refuseDie_desk]
  · rw [refused, Hub.refuseDie_desk]
  · rw [runs, keeps]

theorem Hub.onMask_desk (h : Hub) (dies : List Nat) (check : Nat → Option Nat) (k : List Nat → Hub)
    (keeps : ∀ ds, (k ds).desk = h.desk) : (h.onMask dies check k).desk = h.desk := h.overMask_desk _ dies check k keeps

theorem Hub.readMask_desk (h : Hub) (dies : List Nat) (k : List Nat → Hub)
    (keeps : ∀ ds, (k ds).desk = h.desk) : (h.readMask dies k).desk = h.desk := h.overMask_desk _ dies _ k keeps

theorem Hub.onPort_desk (h : Hub) (p : Nat) (k : Hub) (keeps : k.desk = h.desk) : (h.onPort p k).desk = h.desk := by
  unfold Hub.onPort
  exact ite_keeps Hub.desk (h.refuse_desk _) (h.onDies_desk _ _ keeps)

@[simp] theorem Hub.afeClear_desk (h : Hub) (chs : List Nat) : (h.afeClear chs).desk = h.desk := by
  simp only [Hub.afeClear, ↓Hub.ok_desk, ↓Hub.onDies_desk, ↓Hub.refuse_desk, ↓Hub.desk_mk, ↓apply_ite Hub.desk, ite_self, ↓Hub.desk_eq]
@[simp] theorem Hub.afeGet_desk (h : Hub) (c : Nat) : (h.afeGet c).desk = h.desk := by
  simp only [Hub.afeGet, ↓Hub.ok_desk, ↓Hub.refuse_desk, ↓Hub.onDies_desk, ↓apply_ite Hub.desk, ite_self]
@[simp] theorem Hub.afeGuard_desk (h : Hub) (octs : List Nat) (w : Word) : (h.afeGuard octs w).desk = h.desk := by
  simp only [Hub.afeGuard, ↓Hub.ok_desk, ↓Hub.onDies_desk, ↓Hub.refuse_desk, ↓Hub.desk_mk, ↓apply_ite Hub.desk, ite_self, ↓Hub.desk_eq]
@[simp] theorem Hub.ctl_desk (h : Hub) (p code payload : Nat) : (h.ctl p code payload).desk = h.desk :=
  Hub.desk_of_still (Hub.ctl_still ..)
@[simp] theorem Hub.afeRepGet_desk (h : Hub) (out : Nat) : (h.afeRepGet out).desk = h.desk := by
  simp only [Hub.afeRepGet, ↓Hub.ok_desk, ↓Hub.refuse_desk, ↓apply_ite Hub.desk, ite_self]
@[simp] theorem Hub.afeRepSet_desk (h : Hub) (out : Nat) (w : RepWords) : (h.afeRepSet out w).desk = h.desk := by
  simp only [Hub.afeRepSet, ↓Hub.ok_desk, ↓Hub.onDies_desk, ↓Hub.refuse_desk, ↓Hub.desk_mk, ↓apply_ite Hub.desk, ite_self, ↓Hub.desk_eq]
@[simp] theorem Hub.setCh_desk (h : Hub) (c : Nat) (f : Chan → Chan) : (h.setCh c f).desk = h.desk := by
  simp only [Hub.setCh, ↓Hub.desk_mk, ↓Hub.desk_eq]
@[simp] theorem Hub.accept_desk (h : Hub) (c : Nat) (w : ChanWrite) : (h.accept c w).desk = h.desk := by
  simp only [Hub.accept, ↓Hub.setCh_desk, ↓Hub.desk_mk, ↓apply_ite Hub.desk, ite_self, ↓Hub.desk_eq]
@[simp] theorem Hub.afeSet_desk (h : Hub) (chs : List Nat) (w : AfeWords) (notBefore : Nat) (job : Option (Word × Nat)) :
    (h.afeSet chs w notBefore job).desk = h.desk := by
  unfold Hub.afeSet
  split
  · exact h.refuse_desk _
  · exact h.onDies_desk _ _ (h.checked_desk _ _ (by simp only [↓Hub.ok_desk, ↓forAll_desk, ↓Hub.accept_desk, implies_true]))
@[simp] theorem Hub.afeStatus_desk (h : Hub) (first count : Nat) : (h.afeStatus first count).desk = h.desk := by
  simp only [Hub.afeStatus, ↓Hub.ok_desk, ↓Hub.refuse_desk, ↓Hub.onDies_desk, ↓apply_ite Hub.desk, ite_self]
@[simp] theorem Hub.afeSync_desk (h : Hub) (chs : List Nat) : (h.afeSync chs).desk = h.desk := by
  simp only [Hub.afeSync, ↓Hub.ok_desk, ↓Hub.onDies_desk, ↓Hub.refuse_desk, ↓Hub.desk_mk, ↓apply_ite Hub.desk, ite_self, ↓Hub.desk_eq]
@[simp] theorem Hub.calAuditGet_desk (h : Hub) (dies : List Nat) : (h.calAuditGet dies).desk = h.desk := by
  simp only [Hub.calAuditGet, ↓Hub.ok_desk, ↓Hub.readMask_desk, implies_true]
@[simp] theorem Hub.calAuditRead_desk (h : Hub) (first count : Nat) : (h.calAuditRead first count).desk = h.desk := by
  simp only [Hub.calAuditRead, ↓Hub.ok_desk, ↓Hub.refuse_desk, ↓Hub.onDies_desk, ↓apply_ite Hub.desk, ite_self]
@[simp] theorem Hub.setDie_desk (h : Hub) (d : Nat) (f : Die → Die) : (h.setDie d f).desk = h.desk :=
  Hub.desk_of_still (Hub.setDie_still ..)
@[simp] theorem Hub.setAudit_desk (h : Hub) (d : Nat) (f : Audit → Audit) : (h.setAudit d f).desk = h.desk := by
  simp only [Hub.setAudit, ↓Hub.setDie_desk]
@[simp] theorem Hub.urgent_desk (h : Hub) (d e : Nat) : (h.urgent d e).desk = h.desk := by
  simp only [Hub.urgent, ↓Hub.setAudit_desk]
@[simp] theorem Hub.calAuditReq_desk (h : Hub) (d : Nat) (es : List Nat) : (h.calAuditReq d es).desk = h.desk := by
  simp only [Hub.calAuditReq, ↓Hub.ok_desk, ↓Hub.refuse_desk, ↓Hub.urgent_desk, ↓Hub.onDies_desk, ↓forAll_desk, ↓apply_ite Hub.desk,
    ite_self, implies_true]
@[simp] theorem Hub.calAuditSet_desk (h : Hub) (dies : List Nat) (w : Word) : (h.calAuditSet dies w).desk = h.desk := by
  simp only [Hub.calAuditSet, ↓Hub.ok_desk, ↓Hub.setAudit_desk, ↓Hub.onMask_desk, ↓forAll_desk, implies_true]
@[simp] theorem Hub.calCfgGet_desk (h : Hub) : h.calCfgGet.desk = h.desk := by
  simp only [Hub.calCfgGet, ↓Hub.ok_desk]
@[simp] theorem Hub.setCal_desk (h : Hub) (f : Cal → Cal) : (h.setCal f).desk = h.desk := by
  simp only [Hub.setCal, ↓Hub.desk_mk, ↓Hub.desk_eq]
@[simp] theorem Hub.calCfgSet_desk (h : Hub) (w : Word) : (h.calCfgSet w).desk = h.desk := by
  simp only [Hub.calCfgSet, ↓Hub.ok_desk, ↓Hub.refuse_desk, ↓Hub.setCal_desk, ↓apply_ite Hub.desk, ite_self]
@[simp] theorem Hub.calReport_desk (h : Hub) (first count : Nat) : (h.calReport first count).desk = h.desk := by
  simp only [Hub.calReport, ↓Hub.ok_desk, ↓Hub.refuse_desk, ↓Hub.onDies_desk, ↓apply_ite Hub.desk, ite_self]
@[simp] theorem Hub.calQueue_desk (h : Hub) (o : Nat) : (h.calQueue o).desk = h.desk := by
  simp only [Hub.calQueue, ↓Hub.desk_mk, ↓apply_ite Hub.desk, ite_self, ↓Hub.desk_eq]
@[simp] theorem Hub.calRun_desk (h : Hub) (octs : List Nat) : (h.calRun octs).desk = h.desk := by
  simp only [Hub.calRun, ↓Hub.calQueue_desk, ↓Hub.ok_desk, ↓Hub.refuse_desk, ↓Hub.onDies_desk, ↓forAll_desk, ↓apply_ite Hub.desk, ite_self,
    implies_true]
@[simp] theorem Hub.notice_desk (h : Hub) (unit : Word) (code : Nat) (arg0 arg1 : Word) : (h.notice unit code arg0 arg1).desk = h.desk :=
  Hub.desk_of_still (Hub.notice_still ..)
@[simp] theorem Hub.setCap_desk (h : Hub) (n : Nat) (f : Capture → Capture) : (h.setCap n f).desk = h.desk := by
  simp only [Hub.setCap, ↓Hub.desk_mk, ↓Hub.desk_eq]
@[simp] theorem Hub.reserveDie_desk (n : Nat) (eval : Bool) (d : Nat) (h : Hub) : (Hub.reserveDie n eval d h).desk = h.desk := by
  unfold Hub.reserveDie
  dsimp only
  repeat' split
  all_goals simp only [↓Hub.notice_desk, ↓Hub.setCap_desk, ↓Hub.desk_mk, ↓Hub.desk_eq]
@[simp] theorem Hub.reserve_desk (h : Hub) (n : Nat) : (h.reserve n).desk = h.desk := by
  unfold Hub.reserve
  split <;> simp only [↓Hub.reserveDie_desk, ↓forAll_desk, implies_true]
@[simp] theorem Hub.setFlow_desk (h : Hub) (k : FlowKey) (g : Flow → Flow) : (h.setFlow k g).desk = h.desk :=
  Hub.desk_of_still (Hub.setFlow_still ..)
@[simp] theorem Hub.needFlow_desk (h : Hub) (k : FlowKey) (dest : Dest) : (h.needFlow k dest).desk = h.desk := by
  unfold Hub.needFlow
  split <;> simp only [↓Hub.setFlow_desk, ↓Hub.desk_mk, ↓Hub.desk_eq]
@[simp] theorem Hub.capInstall_desk (h : Hub) (p : CapParams) : (h.capInstall p).desk = h.desk := by
  simp only [Hub.capInstall, ↓Hub.setCh_desk, ↓forAll_desk, ↓forAll_desk, ↓Hub.desk_mk, ↓apply_ite Hub.desk, ite_self, implies_true,
    ↓Hub.desk_eq]
@[simp] theorem Hub.capArm_desk (h : Hub) (p : CapParams) : (h.capArm p).desk = h.desk := by
  unfold Hub.capArm
  split
  · exact h.refuse_desk _
  · refine h.onDies_desk _ _ (h.checked_desk _ _ ?_)
    simp only [↓Hub.ok_desk, ↓Hub.reserve_desk, ↓forAll_desk, ↓Hub.needFlow_desk, ↓Hub.capInstall_desk, implies_true]
@[simp] theorem Hub.retryWait_desk (h : Hub) (d : Nat) : (h.retryWait d).desk = h.desk := by
  refine forAll_desk _ (fun n g => ?_) _ _
  split <;> simp only [↓apply_ite Hub.desk, ↓Hub.reserveDie_desk, ite_self]
@[simp] theorem Hub.disarm_desk (h : Hub) (n : Nat) : (h.disarm n).desk = h.desk := by
  simp only [Hub.disarm, ↓Hub.retryWait_desk, ↓forAll_desk, ↓forAll_desk, ↓Hub.desk_mk, implies_true, ↓Hub.desk_eq]
@[simp] theorem Hub.setCoach_desk (h : Hub) (d seq : Nat) (f : Coach → Coach) : (h.setCoach d seq f).desk = h.desk := by
  simp only [Hub.setCoach, ↓Hub.setDie_desk]
@[simp] theorem Hub.flowTouch_desk (h : Hub) (d : Nat) : (h.flowTouch d).desk = h.desk :=
  Hub.desk_of_still (Hub.flowTouch_still ..)
@[simp] theorem Hub.coachRecord_desk (h : Hub) (k : FlowKey) (stream first : Nat) (b : Bytes) :
    (h.coachRecord k stream first b).1.desk = h.desk := by
  unfold Hub.coachRecord
  split
  · rfl
  · exact h.setFlow_desk _ _
@[simp] theorem Hub.sendCoach_desk (h : Hub) (d : Nat) (c : Coach) : (h.sendCoach d c).desk = h.desk := by
  unfold Hub.sendCoach
  simp only [↓Hub.setCoach_desk, ↓Hub.coachRecord_desk]
  split
  · simp only [↓apply_ite Hub.desk, ↓Hub.setDie_desk, ↓Hub.coachRecord_desk, ite_self]
  · rfl
@[simp] theorem Hub.sendWanted_desk (h : Hub) (d : Nat) : (h.sendWanted d).desk = h.desk := by
  simp only [Hub.sendWanted, ↓Hub.flowTouch_desk, ↓Hub.sendCoach_desk, ↓forAll_desk, ↓apply_ite Hub.desk, ite_self, implies_true]
@[simp] theorem Hub.trainDone_desk (h : Hub) (n : Nat) : (h.trainDone n).desk = h.desk := by
  unfold Hub.trainDone
  repeat' split
  all_goals simp only [↓Hub.disarm_desk, ↓Hub.notice_desk, ↓Hub.reserve_desk, ↓Hub.sendWanted_desk, ↓Hub.setCap_desk, ↓Hub.setDie_desk,
    ↓forAll_desk, implies_true]
@[simp] theorem Hub.tick_desk (h : Hub) : h.tick.desk = h.desk := by
  simp only [Hub.tick, ↓Hub.desk_mk, ↓Hub.desk_eq]
@[simp] theorem Hub.event_desk (h : Hub) (unit : Word) (code cls count : Nat) (arg0 arg1 : Word) :
    (h.event unit code cls count arg0 arg1).desk = h.desk :=
  Hub.desk_of_still (Hub.event_still ..)
@[simp] theorem Hub.retireChan_desk (h : Hub) (c code count : Nat) : (h.retireChan c code count).desk = h.desk := by
  unfold Hub.retireChan
  dsimp only
  repeat' split
  all_goals simp only [↓Hub.event_desk, ↓Hub.setCh_desk, ↓Hub.setDie_desk]
@[simp] theorem Hub.spareChan_desk (h : Hub) (c code : Nat) (readable : Bool) : (h.spareChan c code readable).desk = h.desk := by
  unfold Hub.spareChan
  dsimp only
  repeat' split
  all_goals simp only [↓Hub.notice_desk, ↓Hub.retireChan_desk, ↓Hub.setCh_desk, ↓Hub.setDie_desk]
@[simp] theorem Hub.setEngWin_desk (h : Hub) (d : Nat) (u : Word) (w : Option FaultWin) : (h.setEngWin d u w).desk = h.desk := by
  simp only [Hub.setEngWin, ↓Hub.setDie_desk]
@[simp] theorem Hub.placeUse_desk (h : Hub) (d e c : Nat) (others : List Nat) (get : Chan → Option ChurnUse) (put :
    Option ChurnUse → Chan → Chan) : (h.placeUse d e c others get put).desk = h.desk := by
  unfold Hub.placeUse
  split
  · rfl
  · split
    · rfl
    · split <;> exact h.setCh_desk _ _
@[simp] theorem Hub.moveChurn_desk (h : Hub) (d e : Nat) : (h.moveChurn d e).desk = h.desk := by
  rw [h.moveChurn_eq]
  refine forAll_desk _ (fun c g => ?_) _ _
  simp only [Hub.placeUses, ↓apply_ite Hub.desk, ↓Hub.notice_desk, ↓Hub.placeUse_desk, ite_self]
@[simp] theorem Hub.retireEngine_desk (h : Hub) (d typ e : Nat) : (h.retireEngine d typ e).desk = h.desk := by
  simp only [Hub.retireEngine, ↓Hub.moveChurn_desk, ↓Hub.setDie_desk, ↓apply_ite Hub.desk, ite_self, modAt]
@[simp] theorem Hub.engineFail_desk (h : Hub) (d typ e code : Nat) (readable passes : Bool) :
    (h.engineFail d typ e code readable passes).desk = h.desk := by
  unfold Hub.engineFail
  dsimp only
  repeat' split
  all_goals simp only [↓Hub.event_desk, ↓Hub.retireEngine_desk, ↓Hub.setDie_desk, ↓Hub.setEngWin_desk, ↓Hub.spareChan_desk, ↓Hub.desk_mk,
    ↓Hub.desk_eq]
@[simp] theorem Hub.churnMismatch_desk (h : Hub) (d e : Nat) : (h.churnMismatch d e).desk = h.desk := by
  simp only [Hub.churnMismatch, ↓Hub.engineFail_desk, ↓Hub.event_desk, ↓Hub.setDie_desk, ↓Hub.tick_desk, ↓apply_ite Hub.desk, ite_self,
    modAt]
@[simp] theorem Hub.coachPayload_desk (h : Hub) (c : Coach) : (h.coachPayload c).1.desk = h.desk := by
  unfold Hub.coachPayload
  split <;> simp only [↓Hub.churnMismatch_desk, ↓Hub.setCh_desk, ↓iter_desk, ↓Hub.desk_mk, implies_true, ↓Hub.desk_eq]
@[simp] theorem Hub.coachDone_desk (h : Hub) (d seq : Nat) : (h.coachDone d seq).desk = h.desk := by
  unfold Hub.coachDone
  split
  · rfl
  · next c _ =>
    have paid := h.coachPayload_desk c
    generalize h.coachPayload c = formed at paid ⊢
    obtain ⟨g, pay, churn⟩ := formed
    simp only [↓Hub.trainDone_desk, ↓apply_ite Hub.desk, ↓Hub.retryWait_desk, ↓Hub.setCap_desk, ↓Hub.setCoach_desk, ite_self]
    exact paid
@[simp] theorem Hub.cutCoach_desk (h : Hub) (n c : Nat) : (h.cutCoach n c).desk = h.desk := by
  unfold Hub.cutCoach
  split <;> simp only [↓Hub.coachDone_desk, ↓Hub.retryWait_desk, ↓Hub.setCap_desk, ↓Hub.setCoach_desk, ↓Hub.setDie_desk,
    ↓Hub.trainDone_desk, ↓apply_ite Hub.desk, ite_self]
@[simp] theorem Hub.capDisarm_desk (h : Hub) (n abort : Nat) : (h.capDisarm n abort).desk = h.desk := by
  unfold Hub.capDisarm
  repeat' split
  all_goals simp only [↓Hub.cutCoach_desk, ↓Hub.disarm_desk, ↓Hub.ok_desk, ↓Hub.refuse_desk, ↓Hub.retryWait_desk, ↓Hub.setCap_desk,
    ↓Hub.onDies_desk, ↓forAll_desk, implies_true]
@[simp] theorem Hub.busy_desk (h : Hub) (ms : Nat) : (h.busy ms).desk = h.desk := by
  simp only [Hub.busy, ↓Hub.withReply_desk]
@[simp] theorem Hub.busyDie_desk (h : Hub) (ms die : Nat) : (h.busyDie ms die).desk = h.desk := by
  simp only [Hub.busyDie, ↓Hub.withReply_desk]
@[simp] theorem Hub.freeCoach_desk (h : Hub) (d seq : Nat) : (h.freeCoach d seq).desk = h.desk := by
  simp only [Hub.freeCoach, ↓Hub.setCoach_desk]
@[simp] theorem Hub.capFree_desk (h : Hub) (ids : List Word) : (h.capFree ids).desk = h.desk := by
  unfold Hub.capFree
  split
  · exact h.refuse_desk _
  · refine h.onDies_desk _ _ (h.checked_desk _ _ ?_)
    split <;> simp only [↓Hub.busyDie_desk, ↓Hub.ok_desk, ↓forAll_desk, ↓Hub.retryWait_desk, ↓Hub.freeCoach_desk, implies_true]
@[simp] theorem Hub.capList_desk (h : Hub) (dies : List Nat) (q : CapQuery) : (h.capList dies q).desk = h.desk := by
  simp only [Hub.capList, ↓apply_ite Hub.desk, ↓Hub.onDies_desk, ↓Hub.overMask_desk, ↓Hub.ok_desk, ite_self, implies_true]
@[simp] theorem Hub.capPartGet_desk (h : Hub) (dies : List Nat) : (h.capPartGet dies).desk = h.desk := by
  simp only [Hub.capPartGet, ↓Hub.ok_desk, ↓Hub.readMask_desk, implies_true]
@[simp] theorem Hub.capPartSet_desk (h : Hub) (dies : List Nat) (w : Word) : (h.capPartSet dies w).desk = h.desk := by
  simp only [Hub.capPartSet, ↓Hub.flowTouch_desk, ↓Hub.ok_desk, ↓Hub.onMask_desk, ↓Hub.withReply_desk, ↓forAll_desk, ↓forAll_desk,
    ↓Hub.desk_mk, ↓apply_ite Hub.desk, ite_self, implies_true, ↓Hub.desk_eq]
@[simp] theorem Hub.capRead_desk (h : Hub) (id off count decode : Nat) : (h.capRead id off count decode).desk = h.desk := by
  unfold Hub.capRead
  repeat' split
  all_goals simp only [↓Hub.busyDie_desk, ↓Hub.ok_desk, ↓Hub.refuse_desk, ↓Hub.onDies_desk]
@[simp] theorem Hub.capRedGet_desk (h : Hub) (c : Nat) : (h.capRedGet c).desk = h.desk := by
  simp only [Hub.capRedGet, ↓Hub.ok_desk, ↓Hub.refuse_desk, ↓Hub.onDies_desk, ↓apply_ite Hub.desk, ite_self]
@[simp] theorem Hub.capRedSet_desk (h : Hub) (chs : List Nat) (w : Word) (notBefore : Nat) :
    (h.capRedSet chs w notBefore).desk = h.desk := by
  unfold Hub.capRedSet
  split
  · exact h.refuse_desk _
  · exact h.onDies_desk _ _ (h.checked_desk _ _ (by simp only [↓Hub.ok_desk, ↓forAll_desk, ↓Hub.accept_desk, implies_true]))
@[simp] theorem Hub.capSend_desk (h : Hub) (ids : List Word) : (h.capSend ids).desk = h.desk := by
  unfold Hub.capSend
  split
  · exact h.refuse_desk _
  · refine h.onDies_desk _ _ (h.checked_desk _ _ ?_)
    simp only [↓Hub.ok_desk, ↓forAll_desk, ↓Hub.flowTouch_desk, ↓Hub.sendWanted_desk, ↓Hub.setCoach_desk, implies_true]
@[simp] theorem Hub.capStatus_desk (h : Hub) (n : Nat) : (h.capStatus n).desk = h.desk := by
  unfold Hub.capStatus
  repeat' split
  all_goals simp only [↓Hub.ok_desk, ↓Hub.refuse_desk]
@[simp] theorem Hub.eventAt_desk (h : Hub) (t : Nat) (unit : Word) (code cls count : Nat) (arg0 arg1 : Word) :
    (h.eventAt t unit code cls count arg0 arg1).desk = h.desk :=
  Hub.desk_of_still (Hub.eventAt_still ..)
@[simp] theorem Hub.trigLate_desk (h : Hub) (t who limit : Nat) : (h.trigLate t who limit).desk = h.desk := by
  simp only [Hub.trigLate, ↓Hub.eventAt_desk]
@[simp] theorem Hub.startCoach_desk (n : Nat) (t : Trigger) (trainId missed : Nat) (y : CapChan) (h : Hub) :
    (Hub.startCoach n t trainId missed y h).desk = h.desk := by
  unfold Hub.startCoach
  split <;> simp only [↓Hub.setCap_desk, ↓Hub.setCh_desk, ↓Hub.setDie_desk, ↓Hub.trigLate_desk, ↓Hub.desk_mk, ↓apply_ite Hub.desk,
    ite_self, ↓Hub.desk_eq]
@[simp] theorem Hub.coachFull_desk (n c : Nat) (h : Hub) : (Hub.coachFull n c h).desk = h.desk := by
  unfold Hub.coachFull
  split <;> simp only [↓Hub.coachDone_desk, ↓apply_ite Hub.desk, ite_self]
@[simp] theorem Hub.capJoin_desk (h : Hub) (n id source : Nat) (c : Capture) : (h.capJoin n id source c).desk = h.desk := by
  simp only [Hub.capJoin, ↓Hub.setCap_desk, ↓Hub.setDie_desk, ↓forAll_desk, implies_true]
@[simp] theorem Hub.capHit_desk (n : Nat) (t : Trigger) (h : Hub) : (Hub.capHit n t h).desk = h.desk := by
  unfold Hub.capHit
  dsimp only
  repeat' split
  all_goals simp only [↓Hub.capJoin_desk, ↓Hub.coachFull_desk, ↓Hub.setCap_desk, ↓Hub.startCoach_desk, ↓Hub.trainDone_desk, ↓forAll_desk,
    ↓forAll_desk, ↓Hub.desk_mk, implies_true, ↓Hub.desk_eq]
@[simp] theorem Hub.capFire_desk (h : Hub) (t : Trigger) (sel : CapParams → Bool) : (h.capFire t sel).desk = h.desk := by
  refine forAll_desk _ (fun n g => ?_) _ _
  split <;> simp only [↓apply_ite Hub.desk, ↓Hub.capHit_desk, ite_self]
@[simp] theorem Hub.setPort_desk (h : Hub) (p : Nat) (f : Port → Port) : (h.setPort p f).desk = h.desk :=
  Hub.desk_of_still (Hub.setPort_still ..)
@[simp] theorem Hub.setLink_desk (h : Hub) (p : Nat) (f : Link → Link) : (h.setLink p f).desk = h.desk := by
  simp only [Hub.setLink, ↓Hub.setPort_desk]
@[simp] theorem Hub.queue_desk (h : Hub) (p : Nat) (f : Frame) : (h.queue p f).desk = h.desk := by
  simp only [Hub.queue, ↓Hub.setLink_desk, modAt]
@[simp] theorem Hub.originate_desk (h : Hub) (cls kind : Nat) (body : Bytes) : (h.originate cls kind body).desk = h.desk := by
  simp only [Hub.originate, ↓Hub.queue_desk, ↓apply_ite Hub.desk, ite_self]
@[simp] theorem Hub.arrAct_desk (h : Hub) (m : ArrMsg) : (h.arrAct m).desk = h.desk := by
  simp only [Hub.arrAct, ↓Hub.capFire_desk, ↓Hub.trigLate_desk, ↓Hub.desk_mk, ↓apply_ite Hub.desk, ite_self, ↓Hub.desk_eq]
@[simp] theorem Hub.arrOriginate_desk (h : Hub) (t : Trigger) (group : Nat) : (h.arrOriginate t group).desk = h.desk := by
  simp only [Hub.arrOriginate, ↓Hub.arrAct_desk, ↓Hub.originate_desk, ↓Hub.desk_mk, ↓apply_ite Hub.desk, ite_self, ↓Hub.desk_eq]
@[simp] theorem Hub.emitRecord_desk (h : Hub) (k : FlowKey) (stream : Nat) (rcd : Bytes) : (h.emitRecord k stream rcd).desk = h.desk :=
  Hub.desk_of_still (Hub.emitRecord_still ..)
@[simp] theorem Hub.detRecord_desk (h : Hub) (d : Nat) (b : Bytes) : (h.detRecord d b).desk = h.desk := by
  simp only [Hub.detRecord, ↓Hub.emitRecord_desk]
@[simp] theorem Hub.fire_desk (h : Hub) (d source stamp missed info : Nat) (flags : Byte) (route : Word) (sel : CapParams → Bool) :
    (h.fire d source stamp missed info flags route sel).desk = h.desk := by
  simp only [Hub.fire, ↓Hub.arrOriginate_desk, ↓Hub.capFire_desk, ↓Hub.detRecord_desk, ↓Hub.desk_mk, ↓apply_ite Hub.desk, ite_self,
    ↓Hub.desk_eq]
@[simp] theorem Hub.capTrig_desk (h : Hub) (n : Nat) (id : Word) (t : Nat) : (h.capTrig n id t).desk = h.desk := by
  unfold Hub.capTrig
  split <;> simp only [↓Hub.fire_desk, ↓Hub.ok_desk, ↓Hub.refuse_desk, ↓apply_ite Hub.desk, ite_self]
@[simp] theorem Hub.capWmGet_desk (h : Hub) (dies : List Nat) : (h.capWmGet dies).desk = h.desk := by
  simp only [Hub.capWmGet, ↓Hub.ok_desk, ↓Hub.readMask_desk, implies_true]
@[simp] theorem Hub.capWmSet_desk (h : Hub) (dies : List Nat) (w : Word) : (h.capWmSet dies w).desk = h.desk := by
  simp only [Hub.capWmSet, ↓Hub.ok_desk, ↓Hub.onMask_desk, ↓Hub.desk_mk, implies_true, ↓Hub.desk_eq]
@[simp] theorem Hub.cfgSave_desk (h : Hub) : h.cfgSave.desk = h.desk := by
  simp only [Hub.cfgSave, ↓Hub.ok_desk, ↓Hub.refuse_desk, ↓Hub.setBoot_desk, ↓Hub.desk_mk, ↓apply_ite Hub.desk, ite_self, implies_true,
    ↓Hub.desk_eq]
@[simp] theorem Hub.chanCoefLoad_desk (h : Hub) (chs : List Nat) (words : List Word) : (h.chanCoefLoad chs words).desk = h.desk := by
  unfold Hub.chanCoefLoad
  dsimp only
  repeat' split
  all_goals simp only [↓Hub.busyDie_desk, ↓Hub.checked_desk, ↓Hub.ok_desk, ↓Hub.onDies_desk, ↓Hub.refuse_desk, ↓Hub.desk_mk, ↓Hub.desk_eq]
@[simp] theorem Hub.chanCoefSwitch_desk (h : Hub) (chs : List Nat) (xf : Nat) (t : Option Nat) (job : Option Word) :
    (h.chanCoefSwitch chs xf t job).desk = h.desk := by
  unfold Hub.chanCoefSwitch
  dsimp only
  repeat' split
  all_goals simp only [↓Hub.busyDie_desk, ↓Hub.checked_desk, ↓Hub.ok_desk, ↓Hub.onDies_desk, ↓Hub.refuse_desk, ↓Hub.desk_mk, ↓Hub.desk_eq]
@[simp] theorem Hub.chanGet_desk (h : Hub) (c : Nat) : (h.chanGet c).desk = h.desk := by
  simp only [Hub.chanGet, ↓Hub.ok_desk, ↓Hub.refuse_desk, ↓Hub.onDies_desk, ↓apply_ite Hub.desk, ite_self]
@[simp] theorem Hub.chanQuery_desk (h : Hub) (c : Nat) : (h.chanQuery c).desk = h.desk := by
  simp only [Hub.chanQuery, ↓Hub.ok_desk, ↓Hub.refuse_desk, ↓Hub.onDies_desk, ↓apply_ite Hub.desk, ite_self]
@[simp] theorem Hub.chanSet_desk (h : Hub) (chs : List Nat) (words : List Word) (notBefore : Nat) (job : Option (Word × Nat)) :
    (h.chanSet chs words notBefore job).desk = h.desk := by
  unfold Hub.chanSet
  split
  · exact h.refuse_desk _
  · refine h.onDies_desk _ _ ?_
    split
    · exact h.refuse_desk _
    · simp only [↓Hub.checked_desk, ↓Hub.ok_desk, ↓forAll_desk, ↓Hub.accept_desk, implies_true]
@[simp] theorem Hub.churnCfgGet_desk (h : Hub) (dies : List Nat) : (h.churnCfgGet dies).desk = h.desk := by
  simp only [Hub.churnCfgGet, ↓Hub.ok_desk, ↓Hub.readMask_desk, implies_true]
@[simp] theorem Hub.churnCfgSet_desk (h : Hub) (dies : List Nat) (w : Word) : (h.churnCfgSet dies w).desk = h.desk := by
  simp only [Hub.churnCfgSet, ↓Hub.ok_desk, ↓Hub.onMask_desk, ↓Hub.desk_mk, implies_true, ↓Hub.desk_eq]
@[simp] theorem Hub.churnJobEnd_desk (h : Hub) (n : Nat) : (h.churnJobEnd n).desk = h.desk := by
  unfold Hub.churnJobEnd
  split <;> simp only [↓Hub.ok_desk, ↓Hub.refuse_desk, ↓Hub.desk_mk, ↓Hub.desk_eq]
@[simp] theorem Hub.churnJobRead_desk (h : Hub) (n off count : Nat) : (h.churnJobRead n off count).desk = h.desk := by
  unfold Hub.churnJobRead
  split <;> simp only [↓Hub.ok_desk, ↓Hub.refuse_desk, ↓apply_ite Hub.desk, ite_self]
@[simp] theorem Hub.setJob_desk (h : Hub) (n : Nat) (f : ChurnJob → ChurnJob) : (h.setJob n f).desk = h.desk := by
  simp only [Hub.setJob, ↓Hub.desk_mk, ↓Hub.desk_eq]
@[simp] theorem Hub.churnJobResume_desk (h : Hub) (n bufsz : Nat) : (h.churnJobResume n bufsz).desk = h.desk := by
  unfold Hub.churnJobResume
  split <;> simp only [↓Hub.ok_desk, ↓Hub.refuse_desk, ↓Hub.setJob_desk, ↓apply_ite Hub.desk, ite_self]
@[simp] theorem Hub.churnJobStart_desk (h : Hub) (coach op mode bufsz : Nat) : (h.churnJobStart coach op mode bufsz).desk = h.desk := by
  unfold Hub.churnJobStart
  split <;> simp only [↓Hub.busy_desk, ↓Hub.churnMismatch_desk, ↓Hub.ok_desk, ↓Hub.onDies_desk, ↓Hub.refuse_desk, ↓Hub.tick_desk,
    ↓iter_desk, ↓Hub.desk_mk, ↓apply_ite Hub.desk, ite_self, implies_true, ↓Hub.desk_eq]
@[simp] theorem Hub.churnRestore_desk (h : Hub) (c use' n : Nat) : (h.churnRestore c use' n).desk = h.desk := by
  unfold Hub.churnRestore
  dsimp only
  repeat' split
  all_goals simp only [↓Hub.ok_desk, ↓Hub.refuse_desk, ↓Hub.setCh_desk, ↓Hub.onDies_desk]
@[simp] theorem Hub.newState_desk (h : Hub) (d use' : Nat) (img : Bytes) (complete : Bool) :
    (h.newState d use' img complete).1.desk = h.desk := by
  simp only [Hub.newState, ↓Hub.desk_mk, ↓Hub.desk_eq]
@[simp] theorem Hub.churnSave_desk (h : Hub) (c use' : Nat) : (h.churnSave c use').desk = h.desk := by
  unfold Hub.churnSave
  split
  · exact h.refuse_desk _
  · refine h.onDies_desk _ _ ?_
    split
    · exact h.refuse_desk _
    · simp only [↓apply_ite Hub.desk, ↓Hub.refuse_desk, ↓Hub.ok_desk, ↓Hub.setCh_desk, ↓Hub.newState_desk, ite_self]
@[simp] theorem Hub.reSweep_desk (h : Hub) (d : Nat) : (h.reSweep d).desk = h.desk := by
  simp only [Hub.reSweep, ↓Hub.desk_mk, ↓Hub.desk_eq]
@[simp] theorem Hub.rawReassign_desk (h : Hub) : h.rawReassign.desk = h.desk :=
  Hub.desk_of_still (Hub.rawReassign_still ..)
@[simp] theorem Hub.churnCapture_desk (h : Hub) (raw : Bool) (c next : Nat) : (h.churnCapture raw c next).desk = h.desk := by
  unfold Hub.churnCapture
  split <;> simp only [↓Hub.setCh_desk, ↓Hub.desk_mk, ↓apply_ite Hub.desk, ite_self, ↓Hub.desk_eq]
@[simp] theorem Hub.sweepPut_desk (h : Hub) (raw : Bool) (c : Nat) (x : SweepSample) : (h.sweepPut raw c x).desk = h.desk := by
  simp only [Hub.sweepPut, ↓Hub.setFlow_desk]
@[simp] theorem Hub.churnClose_desk (h : Hub) (raw : Bool) (c : Nat) : (h.churnClose raw c).desk = h.desk := by
  unfold Hub.churnClose
  split <;> simp only [↓Hub.churnCapture_desk, ↓Hub.churnMismatch_desk, ↓Hub.setCh_desk, ↓Hub.sweepPut_desk, ↓Hub.tick_desk, ↓apply_ite
    Hub.desk, ite_self]
@[simp] theorem Hub.churnBreak_desk (h : Hub) (raw : Bool) (c : Nat) : (h.churnBreak raw c).desk = h.desk := by
  simp only [Hub.churnBreak, ↓Hub.churnClose_desk, ↓Hub.setCh_desk]
@[simp] theorem Hub.churnMode_desk (raw : Bool) (mode c : Nat) (h : Hub) : (Hub.churnMode raw mode c h).desk = h.desk := by
  unfold Hub.churnMode
  split <;> simp only [↓Hub.churnBreak_desk, ↓Hub.churnCapture_desk, ↓Hub.setCh_desk, ↓apply_ite Hub.desk, ite_self]
@[simp] theorem Hub.churnSet_desk (h : Hub) (use' mode : Nat) (chs : List Nat) : (h.churnSet use' mode chs).desk = h.desk := by
  unfold Hub.churnSet
  dsimp only
  split
  · exact h.refuse_desk _
  · refine h.onDies_desk _ _ (h.checked_desk _ _ ?_)
    simp only [↓apply_ite Hub.desk, ↓Hub.ok_desk, ↓Hub.rawReassign_desk, ↓forAll_desk, ↓Hub.reSweep_desk, ↓Hub.churnMode_desk, ite_self,
      implies_true]
@[simp] theorem Hub.churnStateFree_desk (h : Hub) (n : Nat) : (h.churnStateFree n).desk = h.desk := by
  unfold Hub.churnStateFree
  split <;> simp only [↓Hub.ok_desk, ↓Hub.refuse_desk, ↓Hub.desk_mk, ↓Hub.desk_eq]
@[simp] theorem Hub.churnStateRead_desk (h : Hub) (n off count : Nat) : (h.churnStateRead n off count).desk = h.desk := by
  unfold Hub.churnStateRead
  split <;> simp only [↓Hub.busy_desk, ↓Hub.ok_desk, ↓Hub.refuse_desk, ↓apply_ite Hub.desk, ite_self]
@[simp] theorem Hub.churnStateWrite_desk (h : Hub) (n use' off : Nat) (data : Bytes) :
    (h.churnStateWrite n use' off data).desk = h.desk := by
  unfold Hub.churnStateWrite
  dsimp only
  repeat' split
  all_goals simp only [↓Hub.newState_desk, ↓Hub.ok_desk, ↓Hub.refuse_desk, ↓Hub.tick_desk, ↓Hub.desk_mk, ↓Hub.desk_eq]
@[simp] theorem Hub.fltCfgGet_desk (h : Hub) : h.fltCfgGet.desk = h.desk := by
  simp only [Hub.fltCfgGet, ↓Hub.ok_desk]
@[simp] theorem Hub.fltCfgSet_desk (h : Hub) (ch lane eng mem : Word) : (h.fltCfgSet ch lane eng mem).desk = h.desk := by
  simp only [Hub.fltCfgSet, ↓Hub.ok_desk, ↓Hub.refuse_desk, ↓Hub.desk_mk, ↓apply_ite Hub.desk, ite_self, ↓Hub.desk_eq]
@[simp] theorem Hub.fltRead_desk (h : Hub) (first : Word) (max' : Nat) : (h.fltRead first max').desk = h.desk := by
  simp only [Hub.fltRead, ↓Hub.ok_desk]
@[simp] theorem Hub.fwCommit_desk (h : Hub) (img : Nat) : (h.fwCommit img).desk = h.desk := by
  unfold Hub.fwCommit
  dsimp only
  repeat' split
  all_goals simp only [↓Hub.ok_desk, ↓Hub.refuse_desk, ↓Hub.setBoot_desk, ↓Hub.tick_desk, ↓Hub.desk_mk, implies_true, ↓Hub.desk_eq]
@[simp] theorem Hub.fwWrite_desk (h : Hub) (img off : Nat) (data : Bytes) : (h.fwWrite img off data).desk = h.desk := by
  simp only [Hub.fwWrite, ↓Hub.ok_desk, ↓Hub.refuse_desk, ↓Hub.desk_mk, ↓apply_ite Hub.desk, ite_self, ↓Hub.desk_eq]
@[simp] theorem Hub.linkCfgGet_desk (h : Hub) (p : Nat) : (h.linkCfgGet p).desk = h.desk := by
  simp only [Hub.linkCfgGet, ↓Hub.ok_desk, ↓Hub.onPort_desk]
@[simp] theorem Hub.watermarks_desk (h : Hub) : h.watermarks.desk = h.desk :=
  Hub.desk_of_still (Hub.watermarks_still ..)
@[simp] theorem Hub.raise_desk (h : Hub) (bit : Nat) : (h.raise bit).desk = h.desk :=
  Hub.desk_of_still (Hub.raise_still ..)
@[simp] theorem Hub.setAlign_desk (h : Hub) (a : Align) : (h.setAlign a).desk = h.desk := by
  simp only [Hub.setAlign, ↓Hub.raise_desk, ↓Hub.desk_mk, ↓apply_ite Hub.desk, ite_self, ↓Hub.desk_eq]
@[simp] theorem Hub.setTm_desk (h : Hub) (f : Tm → Tm) : (h.setTm f).desk = h.desk := by
  simp only [Hub.setTm, ↓Hub.desk_mk, ↓Hub.desk_eq]
@[simp] theorem Hub.laneAway_desk (h : Hub) (a : Align) : (h.laneAway a).desk = h.desk := by
  simp only [Hub.laneAway, ↓Hub.setAlign_desk, ↓Hub.setTm_desk, ↓apply_ite Hub.desk, ite_self]
@[simp] theorem Hub.linkGone_desk (h : Hub) : h.linkGone.desk = h.desk := by
  simp only [Hub.linkGone, ↓Hub.laneAway_desk, ↓apply_ite Hub.desk, ite_self]
@[simp] theorem Hub.unsend_desk (h : Hub) (p : Nat) : (h.unsend p).desk = h.desk := by
  simp only [Hub.unsend, ↓Hub.desk_mk, ↓Hub.desk_eq]
@[simp] theorem Hub.discardNote_desk (h : Hub) (p n : Nat) : (h.discardNote p n).desk = h.desk := by
  simp only [Hub.discardNote, ↓Hub.notice_desk, ↓Hub.desk_mk, ↓apply_ite Hub.desk, ite_self, ↓Hub.desk_eq]
@[simp] theorem Hub.portLost_desk (h : Hub) (p : Nat) (st : PState) : (h.portLost p st).desk = h.desk := by
  simp only [Hub.portLost, ↓Hub.discardNote_desk, ↓Hub.linkGone_desk, ↓Hub.setPort_desk, ↓Hub.unsend_desk, ↓Hub.desk_mk, ↓apply_ite
    Hub.desk, ite_self, ↓Hub.desk_eq]
@[simp] theorem Hub.portStart_desk (h : Hub) (p : Nat) : (h.portStart p).desk = h.desk := by
  simp only [Hub.portStart, ↓Hub.portLost_desk, ↓Hub.rawReassign_desk, ↓Hub.setPort_desk, ↓Hub.watermarks_desk, ↓apply_ite Hub.desk,
    ite_self]
@[simp] theorem Hub.askWidth_desk (h : Hub) (p w : Nat) : (h.askWidth p w).desk = h.desk := by
  simp only [Hub.askWidth, ↓Hub.ctl_desk, ↓Hub.setPort_desk, ↓apply_ite Hub.desk, ite_self]
@[simp] theorem Hub.startStep_desk (h : Hub) (p rate : Nat) (cause : StepCause) (good : List (Nat × Nat)) :
    (h.startStep p rate cause good).desk = h.desk := by
  simp only [Hub.startStep, ↓Hub.ctl_desk, ↓Hub.setPort_desk]
@[simp] theorem Hub.askRate_desk (h : Hub) (p rate : Nat) : (h.askRate p rate).desk = h.desk := by
  simp only [Hub.askRate, ↓Hub.ctl_desk, ↓Hub.setPort_desk, ↓Hub.startStep_desk, ↓apply_ite Hub.desk, ite_self]
@[simp] theorem Hub.linkCfgSet_desk (h : Hub) (p : Nat) (w : Word) : (h.linkCfgSet p w).desk = h.desk := by
  simp only [Hub.linkCfgSet, ↓Hub.askRate_desk, ↓Hub.askWidth_desk, ↓Hub.ok_desk, ↓Hub.portStart_desk, ↓Hub.refuse_desk, ↓Hub.setPort_desk,
    ↓Hub.onPort_desk, ↓apply_ite Hub.desk, ite_self]
@[simp] theorem Hub.clockLoss_desk (h : Hub) : h.clockLoss.desk = h.desk := by
  simp only [Hub.clockLoss, ↓Hub.laneAway_desk, ↓Hub.setPort_desk, ↓Hub.setTm_desk]
@[simp] theorem Hub.portDown_desk (h : Hub) (p : Nat) (st : PState) : (h.portDown p st).desk = h.desk := by
  simp only [Hub.portDown, ↓Hub.portLost_desk, ↓Hub.rawReassign_desk, ↓Hub.watermarks_desk, ↓apply_ite Hub.desk, ite_self]
@[simp] theorem Hub.closeCoupler_desk (h : Hub) (byHost : Bool) : (h.closeCoupler byHost).desk = h.desk := by
  simp only [Hub.closeCoupler, ↓Hub.clockLoss_desk, ↓Hub.portDown_desk, ↓Hub.desk_mk, ↓Hub.desk_eq]
@[simp] theorem Hub.openCoupler_desk (h : Hub) : h.openCoupler.desk = h.desk := by
  simp only [Hub.openCoupler, ↓Hub.portStart_desk, ↓Hub.desk_mk, ↓apply_ite Hub.desk, ite_self, ↓Hub.desk_eq]
@[simp] theorem Hub.linkCoupler_desk (h : Hub) (op : Nat) : (h.linkCoupler op).desk = h.desk := by
  simp only [Hub.linkCoupler, ↓Hub.closeCoupler_desk, ↓Hub.ctl_desk, ↓Hub.ok_desk, ↓Hub.openCoupler_desk, ↓Hub.refuse_desk, ↓Hub.desk_mk,
    ↓apply_ite Hub.desk, ite_self, ↓Hub.desk_eq]
@[simp] theorem Hub.setLane_desk (h : Hub) (p l : Nat) (f : Lane → Lane) : (h.setLane p l f).desk = h.desk := by
  simp only [Hub.setLane, ↓Hub.setPort_desk, modAt]
@[simp] theorem Hub.countBits_desk (h : Hub) (p l least : Nat) : (h.countBits p l least).desk = h.desk := by
  unfold Hub.countBits
  dsimp only
  repeat' split
  all_goals simp only [↓Hub.setLane_desk, ↓Hub.tick_desk]
@[simp] theorem Hub.linkLaneGet_desk (h : Hub) (p l clear : Nat) : (h.linkLaneGet p l clear).desk = h.desk := by
  simp only [Hub.linkLaneGet, ↓Hub.countBits_desk, ↓Hub.ok_desk, ↓Hub.refuse_desk, ↓Hub.setLane_desk, ↓Hub.onPort_desk, ↓apply_ite
    Hub.desk, ite_self]
@[simp] theorem Hub.handBack_desk (p : Nat) (h : Hub) : (Hub.handBack p h).desk = h.desk := by
  simp only [Hub.handBack, ↓Hub.portStart_desk, ↓Hub.setPort_desk, ↓apply_ite Hub.desk, ite_self]
@[simp] theorem Hub.linkManual_desk (h : Hub) (p on : Nat) : (h.linkManual p on).desk = h.desk := by
  simp only [Hub.linkManual, ↓Hub.handBack_desk, ↓Hub.ok_desk, ↓Hub.refuse_desk, ↓Hub.setPort_desk, ↓Hub.onPort_desk, ↓apply_ite Hub.desk,
    ite_self]
@[simp] theorem Hub.relockAt_desk (h : Hub) (p r : Nat) : (h.relockAt p r).desk = h.desk := by
  simp only [Hub.relockAt, ↓Hub.setPort_desk]
@[simp] theorem Hub.linkRate_desk (h : Hub) (p r : Nat) : (h.linkRate p r).desk = h.desk := by
  simp only [Hub.linkRate, ↓Hub.askRate_desk, ↓Hub.ok_desk, ↓Hub.refuse_desk, ↓Hub.relockAt_desk, ↓Hub.onPort_desk, ↓apply_ite Hub.desk,
    ite_self]
@[simp] theorem Hub.linkSlip_desk (h : Hub) (p l : Nat) : (h.linkSlip p l).desk = h.desk := by
  simp only [Hub.linkSlip, ↓Hub.ok_desk, ↓Hub.refuse_desk, ↓Hub.setLane_desk, ↓Hub.onPort_desk, ↓apply_ite Hub.desk, ite_self]
@[simp] theorem Hub.linkStatusGet_desk (h : Hub) (p : Nat) : (h.linkStatusGet p).desk = h.desk := by
  simp only [Hub.linkStatusGet, ↓Hub.ok_desk, ↓Hub.onPort_desk]
@[simp] theorem Hub.linkTestSet_desk (h : Hub) (p l : Nat) (w : Word) : (h.linkTestSet p l w).desk = h.desk := by
  simp only [Hub.linkTestSet, ↓Hub.countBits_desk, ↓Hub.ok_desk, ↓Hub.refuse_desk, ↓Hub.setLane_desk, ↓Hub.onPort_desk, ↓apply_ite
    Hub.desk, ite_self]
@[simp] theorem Hub.linkWidth_desk (h : Hub) (p w : Nat) : (h.linkWidth p w).desk = h.desk := by
  simp only [Hub.linkWidth, ↓Hub.askWidth_desk, ↓Hub.ok_desk, ↓Hub.refuse_desk, ↓Hub.onPort_desk, ↓apply_ite Hub.desk, ite_self]
@[simp] theorem Hub.logRead_desk (h : Hub) (first count : Nat) : (h.logRead first count).desk = h.desk := by
  simp only [Hub.logRead, ↓Hub.busy_desk, ↓Hub.ok_desk, ↓Hub.refuse_desk, ↓Hub.tick_desk, ↓apply_ite Hub.desk, ite_self]
@[simp] theorem Hub.setCores_desk (h : Hub) (d : Nat) (f : Cores → Cores) : (h.setCores d f).desk = h.desk := by
  simp only [Hub.setCores, ↓Hub.setDie_desk]
@[simp] theorem Hub.mapCh_desk (h : Hub) (g : Nat → Chan → Chan) : (h.mapCh g).desk = h.desk :=
  Hub.desk_of_still (Hub.mapCh_still ..)
@[simp] theorem Hub.syncDrops_desk (h : Hub) (id : Word) : (h.syncDrops id).desk = h.desk := by
  simp only [Hub.syncDrops, ↓Hub.mapCh_desk]
@[simp] theorem Hub.mapDie_desk (h : Hub) (f : Nat → Die → Die) : (h.mapDie f).desk = h.desk := by
  simp only [Hub.mapDie, ↓Hub.desk_mk, ↓Hub.desk_eq]
@[simp] theorem Hub.switchDrops_desk (h : Hub) (id : Word) : (h.switchDrops id).desk = h.desk := by
  simp only [Hub.switchDrops, ↓Hub.mapCh_desk, ↓Hub.mapDie_desk]
@[simp] theorem Hub.dropAction_desk (h : Hub) (id : Word) : (h.dropAction id).desk = h.desk := by
  simp only [Hub.dropAction, ↓Hub.switchDrops_desk, ↓Hub.syncDrops_desk, ↓Hub.desk_mk, ↓Hub.desk_eq]
@[simp] theorem Hub.schedDone_desk (h : Hub) (t : Nat) (id : Word) (status lateUs : Nat) :
    (h.schedDone t id status lateUs).desk = h.desk := by
  simp only [Hub.schedDone, ↓Hub.dropAction_desk, ↓Hub.eventAt_desk]
@[simp] theorem Hub.planeDone_desk (h : Hub) (id : Word) (status : Nat) : (h.planeDone id status).desk = h.desk := by
  unfold Hub.planeDone
  split <;> simp only [↓Hub.schedDone_desk]
@[simp] theorem Hub.saveCkpt_desk (h : Hub) (d : Nat) : (h.saveCkpt d).desk = h.desk := by
  simp only [Hub.saveCkpt, ↓Hub.setCores_desk]
@[simp] theorem Hub.drillNext_desk (h : Hub) : h.drillNext.desk = h.desk := by
  unfold Hub.drillNext
  dsimp only
  repeat' split
  all_goals simp only [↓Hub.planeDone_desk, ↓Hub.raise_desk, ↓Hub.saveCkpt_desk, ↓Hub.setCores_desk, ↓Hub.desk_mk, ↓Hub.desk_eq]
@[simp] theorem Hub.mcDrill_desk (h : Hub) (dies : List Nat) (id : Option Word) : (h.mcDrill dies id).desk = h.desk := by
  simp only [Hub.mcDrill, ↓Hub.drillNext_desk, ↓Hub.ok_desk, ↓Hub.onMask_desk, ↓Hub.setCores_desk, ↓forAll_desk, ↓forAll_desk,
    ↓Hub.desk_mk, implies_true, ↓Hub.desk_eq]
@[simp] theorem Hub.sclkHold_desk (h : Hub) (n back : Nat) : (h.sclkHold n back).desk = h.desk := by
  simp only [Hub.sclkHold, ↓Hub.desk_mk, ↓apply_ite Hub.desk, ite_self, ↓Hub.desk_eq]
@[simp] theorem Hub.passEnds_desk (h : Hub) : h.passEnds.desk = h.desk := by
  simp only [Hub.passEnds, ↓Hub.desk_mk, ↓apply_ite Hub.desk, ite_self, ↓Hub.desk_eq]
@[simp] theorem Hub.setOct_desk (h : Hub) (o : Nat) (f : Octet → Octet) : (h.setOct o f).desk = h.desk := by
  simp only [Hub.setOct, ↓Hub.desk_mk, ↓Hub.desk_eq]
@[simp] theorem Hub.capTake_desk (n c idx : Nat) (v0 v1 : Int) (flags : Byte) (h : Hub) :
    (Hub.capTake n c idx v0 v1 flags h).desk = h.desk := by
  unfold Hub.capTake
  split
  · rfl
  · split
    · rfl
    · extract_lets d p step f out a b all rt u fm u' s keep y' g
      have kept : g.desk = h.desk := h.setCap_desk _ _
      split
      · exact kept
      · split
        · exact kept
        · split
          · exact kept
          · dsimp only
            split
            · rw [Hub.coachDone_desk, Hub.setCoach_desk, kept]
            · rw [Hub.setCoach_desk, kept]
@[simp] theorem Hub.capFeed_desk (h : Hub) (src c idx : Nat) (v0 v1 : Int) (flags : Byte) :
    (h.capFeed src c idx v0 v1 flags).desk = h.desk := by
  refine forAll_desk _ (fun n g => ?_) _ _
  split <;> simp only [↓apply_ite Hub.desk, ↓Hub.capTake_desk, ite_self]
@[simp] theorem Hub.emitSince_desk (h : Hub) (k : FlowKey) (stream : Nat) (rcd : Bytes) (since : Nat) :
    (h.emitSince k stream rcd since).desk = h.desk :=
  Hub.desk_of_still (Hub.emitSince_still ..)
@[simp] theorem Hub.redClose_desk (h : Hub) (c : Nat) (part : Bool) : (h.redClose c part).desk = h.desk := by
  unfold Hub.redClose
  dsimp only
  repeat' split
  all_goals simp only [↓Hub.emitSince_desk, ↓Hub.setCh_desk]
@[simp] theorem Hub.sweepRate_desk (h : Hub) (raw : Bool) (c inst num den words cause : Nat) :
    (h.sweepRate raw c inst num den words cause).desk = h.desk := by
  simp only [Hub.sweepRate, ↓Hub.sweepPut_desk]
@[simp] theorem Hub.skimTurn_desk (h : Hub) (c j : Nat) : (h.skimTurn c j).desk = h.desk := by
  unfold Hub.skimTurn
  dsimp only
  repeat' split
  all_goals simp only [↓Hub.churnBreak_desk, ↓Hub.setCh_desk, ↓Hub.sweepRate_desk]
@[simp] theorem Hub.redTake_desk (h : Hub) (c j : Nat) (v0 v1 : Int) (f : Byte) : (h.redTake c j v0 v1 f).desk = h.desk := by
  simp only [Hub.redTake, ↓Hub.redClose_desk, ↓Hub.setCh_desk, ↓Hub.skimTurn_desk, ↓apply_ite Hub.desk, ite_self]
@[simp] theorem Hub.konEvent_desk (h : Hub) (who stamp : Nat) : (h.konEvent who stamp).desk = h.desk := by
  simp only [Hub.konEvent, ↓Hub.desk_mk, ↓Hub.desk_eq]
@[simp] theorem Hub.fireChan_desk (h : Hub) (c stamp missed info : Nat) (flags : Byte) (route : Word) :
    (h.fireChan c stamp missed info flags route).desk = h.desk := by
  simp only [Hub.fireChan, ↓Hub.fire_desk, ↓Hub.konEvent_desk]
@[simp] theorem Hub.trigSettle_desk (h : Hub) (c : Nat) (next : Option (Nat × Int × Byte)) : (h.trigSettle c next).desk = h.desk := by
  unfold Hub.trigSettle
  repeat' split
  all_goals simp only [↓Hub.fireChan_desk, ↓Hub.setCh_desk]
@[simp] theorem Hub.trigTake_desk (h : Hub) (c t : Nat) (x : Int) (f : Byte) : (h.trigTake c t x f).desk = h.desk := by
  unfold Hub.trigTake
  dsimp only
  repeat' split
  all_goals simp only [↓Hub.fireChan_desk, ↓Hub.setCh_desk, ↓Hub.trigSettle_desk]
@[simp] theorem Hub.trigSkip_desk (h : Hub) (c : Nat) : (h.trigSkip c).desk = h.desk := by
  simp only [Hub.trigSkip, ↓Hub.trigSettle_desk]
@[simp] theorem Hub.trigDet_desk (h : Hub) (c : Nat) (second : Bool) (t : Nat) (v : Int) (f : Byte) (skip : Bool) :
    (h.trigDet c second t v f skip).desk = h.desk := by
  unfold Hub.trigDet
  dsimp only
  repeat' split
  all_goals simp only [↓Hub.fireChan_desk, ↓Hub.setCh_desk]
@[simp] theorem Hub.detTake_desk (h : Hub) (c j t : Nat) (second : Bool) (v0 v1 : Int) (f : Byte) (skip : Bool) :
    (h.detTake c j t second v0 v1 f skip).desk = h.desk := by
  simp only [Hub.detTake, ↓Hub.detRecord_desk, ↓Hub.setCh_desk, ↓Hub.trigDet_desk, ↓apply_ite Hub.desk, ite_self]
@[simp] theorem Hub.thrTake_desk (h : Hub) (c t n : Nat) (v : Int) (f : Byte) : (h.thrTake c t n v f).desk = h.desk := by
  unfold Hub.thrTake
  dsimp only
  repeat' split
  all_goals simp only [↓Hub.detRecord_desk, ↓Hub.setCh_desk]
@[simp] theorem Hub.repTake_desk (v : Int) (f : Byte) (n : Nat) (h : Hub) : (Hub.repTake v f n h).desk = h.desk := by
  simp only [Hub.repTake, ↓Hub.notice_desk, ↓Hub.desk_mk, ↓apply_ite Hub.desk, ite_self, ↓Hub.desk_eq]
@[simp] theorem Hub.churnEra_desk (h : Hub) (raw : Bool) (c b : Nat) : (h.churnEra raw c b).desk = h.desk := by
  unfold Hub.churnEra
  split <;> simp only [↓Hub.churnBreak_desk, ↓apply_ite Hub.desk, ite_self]
@[simp] theorem Hub.churnTake_desk (h : Hub) (raw : Bool) (c idx inst : Nat) (x : Sample) :
    (h.churnTake raw c idx inst x).desk = h.desk := by
  unfold Hub.churnTake
  dsimp only
  repeat' split
  all_goals simp only [↓Hub.churnCapture_desk, ↓Hub.churnClose_desk, ↓Hub.churnEra_desk, ↓Hub.setCh_desk, ↓Hub.setFlow_desk]
@[simp] theorem Hub.skimStream_desk (h : Hub) (c j inst : Nat) (v0 v1 : Int) (f : Byte) :
    (h.skimStream c j inst v0 v1 f).desk = h.desk := by
  unfold Hub.skimStream
  dsimp only
  repeat' split
  all_goals simp only [↓Hub.churnTake_desk, ↓Hub.setCh_desk, ↓Hub.sweepPut_desk, ↓Hub.sweepRate_desk]
@[simp] theorem Hub.skimOut_desk (h : Hub) (c j inst : Nat) (v0 v1 : Int) (f : Byte) (skip : Bool) :
    (h.skimOut c j inst v0 v1 f skip).desk = h.desk := by
  simp only [Hub.skimOut, ↓Hub.capFeed_desk, ↓Hub.detTake_desk, ↓Hub.redTake_desk, ↓Hub.repTake_desk, ↓Hub.setCh_desk,
    ↓Hub.skimStream_desk, ↓Hub.thrTake_desk, ↓Hub.trigSkip_desk, ↓Hub.trigTake_desk, ↓forAll_desk, ↓apply_ite Hub.desk, ite_self,
    implies_true]
@[simp] theorem Hub.skimDone_desk (h : Hub) (c inst : Nat) (w : SkimWait) : (h.skimDone c inst w).desk = h.desk := by
  simp only [Hub.skimDone, ↓Hub.setCh_desk, ↓Hub.skimOut_desk, ↓apply_ite Hub.desk, ite_self]
@[simp] theorem Hub.skimDue_desk (h : Hub) (c inst : Nat) : (h.skimDue c inst).desk = h.desk := by
  unfold Hub.skimDue
  split <;> simp only [↓Hub.setCh_desk, ↓Hub.skimOut_desk, ↓apply_ite Hub.desk, ite_self]
@[simp] theorem Hub.rawOut_desk (h : Hub) (c : Nat) (e : RawEntry) (f : Byte) (skip : Bool) : (h.rawOut c e f skip).desk = h.desk := by
  simp only [Hub.rawOut, ↓Hub.capFeed_desk, ↓Hub.churnTake_desk, ↓Hub.sweepPut_desk, ↓Hub.trigSkip_desk, ↓Hub.trigTake_desk, ↓apply_ite
    Hub.desk, ite_self]
@[simp] theorem Hub.chainTrial_desk (h : Hub) (c k : Nat) (acc : BitVec 32) (x : Int) (old : Option (Int × Int)) :
    (h.chainTrial c k acc x old).1.desk = h.desk := by
  unfold Hub.chainTrial
  dsimp only
  split
  · exact h.setCh_desk _ _
  · rfl
@[simp] theorem Hub.chain_desk (h : Hub) (c k : Nat) (acc : BitVec 32) (x : Int) : (h.chain c k acc x).1.desk = h.desk := by
  unfold Hub.chain
  dsimp only
  split
  · simp only [↓Hub.chainTrial_desk, ↓Hub.setCh_desk]
  · split
    · split <;> simp only [↓Hub.setCh_desk]
    · simp only [↓Hub.setCh_desk]
@[simp] theorem Hub.rawStep_desk (h : Hub) (c : Nat) (e : RawEntry) (acc : BitVec 32) (skip : Bool) :
    (h.rawStep c e acc skip).desk = h.desk := by
  unfold Hub.rawStep
  dsimp only
  split <;> simp only [↓Hub.skimDone_desk, ↓Hub.chain_desk, ↓Hub.setCh_desk, ↓Hub.rawOut_desk, ↓Hub.skimDue_desk]
@[simp] theorem Hub.fadeCount_desk (h : Hub) (c j : Nat) : (h.fadeCount c j).desk = h.desk := by
  simp only [Hub.fadeCount, ↓Hub.setCh_desk]
@[simp] theorem Hub.rtStep_desk (h : Hub) (c k : Nat) : (h.rtStep c k).desk = h.desk := by
  unfold Hub.rtStep
  dsimp only
  repeat' split
  all_goals simp only [↓Hub.fadeCount_desk, ↓Hub.rawOut_desk, ↓Hub.skimDone_desk, ↓Hub.skimDue_desk, ↓Hub.trigSkip_desk]
@[simp] theorem Hub.holdStep_desk (h : Hub) (c k : Nat) (skip : Bool) : (h.holdStep c k skip).desk = h.desk := by
  unfold Hub.holdStep
  dsimp only
  repeat' split
  all_goals simp only [↓Hub.fadeCount_desk, ↓Hub.rawOut_desk, ↓Hub.setCh_desk, ↓Hub.skimDone_desk, ↓Hub.skimDue_desk, ↓Hub.trigSkip_desk]
@[simp] theorem Hub.capRate_desk (h : Hub) (src c : Nat) : (h.capRate src c).desk = h.desk := by
  refine forAll_desk _ (fun n g => ?_) _ _
  split <;> simp only [↓apply_ite Hub.desk, ↓Hub.setCap_desk, ↓Hub.cutCoach_desk, ite_self]
@[simp] theorem Hub.endOld_desk (h : Hub) (c inst : Nat) (a b : Desc) (red : Option Word) : (h.endOld c inst a b red).desk = h.desk := by
  simp only [Hub.endOld, ↓Hub.capRate_desk, ↓Hub.churnBreak_desk, ↓Hub.redClose_desk, ↓Hub.trigSkip_desk, ↓apply_ite Hub.desk, ite_self]
@[simp] theorem Hub.endSwitch_desk (h : Hub) (c : Nat) : (h.endSwitch c).desk = h.desk := by
  unfold Hub.endSwitch
  dsimp only
  repeat' split
  all_goals simp only [↓Hub.notice_desk, ↓Hub.setCh_desk]
@[simp] theorem Hub.endRate_desk (h : Hub) (c inst : Nat) : (h.endRate c inst).desk = h.desk := by
  simp only [Hub.endRate, ↓Hub.setCh_desk, ↓Hub.skimDue_desk]
@[simp] theorem Hub.firstRs_desk (h : Hub) (c inst : Nat) : (h.firstRs c inst).desk = h.desk := by
  simp only [Hub.firstRs, ↓Hub.setCh_desk, ↓Hub.skimDone_desk, ↓apply_ite Hub.desk, ite_self]
@[simp] theorem Hub.changeChain_desk (c : Nat) (a b : Desc) (w : ChanWrite) (inst : Nat) (h : Hub) :
    (Hub.changeChain c a b w inst h).desk = h.desk := by
  unfold Hub.changeChain
  dsimp only
  repeat' split
  all_goals simp only [↓Hub.endOld_desk, ↓Hub.endRate_desk, ↓Hub.endSwitch_desk, ↓Hub.firstRs_desk, ↓Hub.reSweep_desk, ↓Hub.setCh_desk,
    ↓Hub.sweepRate_desk]
@[simp] theorem Hub.workStep_desk (c : Nat) (w : RawWork) (h : Hub) : (Hub.workStep c w h).desk = h.desk := by
  unfold Hub.workStep
  split <;> simp only [↓Hub.changeChain_desk, ↓Hub.holdStep_desk, ↓Hub.rawStep_desk, ↓Hub.rtStep_desk, ↓Hub.setCh_desk]
@[simp] theorem Hub.joinWork_desk (h : Hub) (c : Nat) (w : RawWork) : (h.joinWork c w).desk = h.desk := by
  simp only [Hub.joinWork, ↓Hub.setCh_desk, ↓Hub.workStep_desk, ↓apply_ite Hub.desk, ite_self]
@[simp] theorem Hub.resumeChan_desk (h : Hub) (c : Nat) : (h.resumeChan c).desk = h.desk := by
  simp only [Hub.resumeChan, ↓Hub.joinWork_desk, ↓Hub.setCh_desk]
@[simp] theorem Hub.endHold_desk (h : Hub) (o : Nat) : (h.endHold o).desk = h.desk := by
  simp only [Hub.endHold, ↓Hub.resumeChan_desk, ↓Hub.setCh_desk, ↓Hub.setOct_desk, ↓forAll_desk, implies_true]
@[simp] theorem Hub.abortSlots_desk (h : Hub) (d : Nat) : (h.abortSlots d).desk = h.desk := by
  simp only [Hub.abortSlots, ↓Hub.endHold_desk, ↓Hub.mapCh_desk, ↓Hub.setAudit_desk, ↓forAll_desk, ↓forAll_desk, ↓Hub.desk_mk,
    implies_true, ↓Hub.desk_eq]
@[simp] theorem Hub.quadOff_desk (q : Nat) (h : Hub) : (Hub.quadOff q h).desk = h.desk := by
  simp only [Hub.quadOff, ↓Hub.abortSlots_desk, ↓Hub.mapCh_desk, ↓Hub.passEnds_desk, ↓Hub.portDown_desk, ↓Hub.sclkHold_desk,
    ↓Hub.setDie_desk, ↓apply_ite Hub.desk, ite_self, modAt]
@[simp] theorem Hub.sclkStart_desk (h : Hub) (n t : Nat) : (h.sclkStart n t).desk = h.desk := by
  simp only [Hub.sclkStart, ↓Hub.desk_mk, ↓Hub.desk_eq]
@[simp] theorem Hub.quadOn_desk (q : Nat) (h : Hub) : (Hub.quadOn q h).desk = h.desk := by
  simp only [Hub.quadOn, ↓Hub.mapCh_desk, ↓Hub.portStart_desk, ↓Hub.sclkStart_desk, ↓Hub.setDie_desk, ↓apply_ite Hub.desk, ite_self, modAt]
@[simp] theorem Hub.pwrGate_desk (h : Hub) (quads : List Nat) : (h.pwrGate quads).desk = h.desk := by
  simp only [Hub.pwrGate, ↓Hub.ok_desk, ↓Hub.quadOff_desk, ↓Hub.quadOn_desk, ↓Hub.refuse_desk, ↓Hub.onDies_desk, ↓forAll_desk, ↓apply_ite
    Hub.desk, ite_self, implies_true]
@[simp] theorem Hub.pwrGet_desk (h : Hub) : h.pwrGet.desk = h.desk := by
  simp only [Hub.pwrGet, ↓Hub.ok_desk]
@[simp] theorem Hub.setPwr_desk (h : Hub) (f : Pwr → Pwr) : (h.setPwr f).desk = h.desk := by
  simp only [Hub.setPwr, ↓Hub.desk_mk, ↓Hub.desk_eq]
@[simp] theorem Hub.pwrStateSet_desk (h : Hub) (st : Nat) : (h.pwrStateSet st).desk = h.desk := by
  unfold Hub.pwrStateSet
  repeat' split
  all_goals simp only [↓Hub.ok_desk, ↓Hub.refuse_desk, ↓Hub.setPwr_desk]
@[simp] theorem Hub.pwrTelem_desk (h : Hub) : h.pwrTelem.desk = h.desk := by
  simp only [Hub.pwrTelem, ↓Hub.ok_desk]
@[simp] theorem Hub.reqstat_desk (h : Hub) (reqId tag : Nat) : (h.reqstat reqId tag).desk = h.desk := by
  unfold Hub.reqstat
  split <;> simp only [↓Hub.ok_desk, ↓Hub.refuse_desk]
@[simp] theorem Hub.tapSeal_desk (h : Hub) : h.tapSeal.desk = h.desk := by
  simp only [Hub.tapSeal, ↓Hub.desk_mk, ↓apply_ite Hub.desk, ite_self, ↓Hub.desk_eq]
@[simp] theorem Hub.handAllBack_desk (h : Hub) : h.handAllBack.desk = h.desk := by
  simp only [Hub.handAllBack, ↓Hub.handBack_desk, ↓forAll_desk, implies_true]
@[simp] theorem Hub.setSeal_desk (h : Hub) (f : Seal → Seal) : (h.setSeal f).desk = h.desk := by
  simp only [Hub.setSeal, ↓Hub.desk_mk, ↓Hub.desk_eq]
@[simp] theorem Hub.sealStep_desk (h : Hub) (f : Seal → Seal) : (h.sealStep f).desk = h.desk := by
  simp only [Hub.sealStep, ↓Hub.handAllBack_desk, ↓Hub.raise_desk, ↓Hub.setSeal_desk, ↓Hub.tapSeal_desk, ↓apply_ite Hub.desk, ite_self]
@[simp] theorem Hub.sealClose_desk (h : Hub) : h.sealClose.desk = h.desk := by
  simp only [Hub.sealClose, ↓Hub.ok_desk, ↓Hub.sealStep_desk]
@[simp] theorem Hub.sealKeySet_desk (h : Hub) (key : Bytes) : (h.sealKeySet key).desk = h.desk := by
  simp only [Hub.sealKeySet, ↓Hub.ok_desk, ↓Hub.refuse_desk, ↓Hub.sealStep_desk, ↓apply_ite Hub.desk, ite_self]
@[simp] theorem Hub.sealNonce_desk (h : Hub) : h.sealNonce.desk = h.desk := by
  simp only [Hub.sealNonce, ↓Hub.ok_desk, ↓Hub.refuse_desk, ↓Hub.setSeal_desk, ↓apply_ite Hub.desk, ite_self]
@[simp] theorem Hub.sealSet_desk (h : Hub) (st : Nat) : (h.sealSet st).desk = h.desk := by
  simp only [Hub.sealSet, ↓Hub.notice_desk, ↓Hub.ok_desk, ↓Hub.refuse_desk, ↓Hub.sealStep_desk, ↓apply_ite Hub.desk, ite_self]
@[simp] theorem Hub.sealUnseal_desk (h : Hub) (mac : Bytes) : (h.sealUnseal mac).desk = h.desk := by
  unfold Hub.sealUnseal
  split <;> simp only [↓Hub.ok_desk, ↓Hub.refuse_desk, ↓Hub.sealStep_desk, ↓Hub.setSeal_desk, ↓apply_ite Hub.desk, ite_self]
@[simp] theorem Hub.sepCfgGet_desk (h : Hub) : h.sepCfgGet.desk = h.desk := by
  simp only [Hub.sepCfgGet, ↓Hub.ok_desk]
@[simp] theorem Hub.sepCfgSet_desk (h : Hub) (ctl tick wait fb : Word) (t : Option Nat) (accepted : Nat) :
    (h.sepCfgSet ctl tick wait fb t accepted).desk = h.desk := by
  simp only [Hub.sepCfgSet, ↓Hub.ok_desk, ↓Hub.refuse_desk, ↓Hub.desk_mk, ↓apply_ite Hub.desk, ite_self, ↓Hub.desk_eq]
@[simp] theorem Hub.sepLoad_desk (h : Hub) (dies : List Nat) (set : Nat) (op : SepLoadOp) : (h.sepLoad dies set op).desk = h.desk := by
  simp only [Hub.sepLoad, ↓Hub.ok_desk, ↓Hub.onMask_desk, ↓Hub.withReply_desk, ↓Hub.desk_mk, ↓apply_ite Hub.desk, ite_self, implies_true,
    ↓Hub.desk_eq]
@[simp] theorem Hub.sepStatus_desk (h : Hub) (dies : List Nat) : (h.sepStatus dies).desk = h.desk := by
  simp only [Hub.sepStatus, ↓Hub.ok_desk, ↓Hub.readMask_desk, implies_true]
@[simp] theorem Hub.sepSwitch_desk (h : Hub) (dies : List Nat) (xf : Nat) (t : Option Nat) (job : Option Word) :
    (h.sepSwitch dies xf t job).desk = h.desk := by
  simp only [Hub.sepSwitch, ↓Hub.ok_desk, ↓Hub.onMask_desk, ↓Hub.withReply_desk, ↓Hub.desk_mk, ↓apply_ite Hub.desk, ite_self, implies_true,
    ↓Hub.desk_eq]
@[simp] theorem Hub.freeAcked_desk (h : Hub) (k : FlowKey) (gone : Word → Bool) : (h.freeAcked k gone).desk = h.desk := by
  simp only [Hub.freeAcked, ↓Hub.freeCoach_desk, ↓Hub.retryWait_desk, ↓forAll_desk, ↓apply_ite Hub.desk, ite_self, implies_true]
@[simp] theorem Hub.ackEntry_desk (e : AckEntry) (h : Hub) : (Hub.ackEntry e h).desk = h.desk := by
  unfold Hub.ackEntry
  dsimp only
  repeat' split
  all_goals simp only [↓Hub.flowTouch_desk, ↓Hub.freeAcked_desk, ↓Hub.setFlow_desk]
@[simp] theorem Hub.strmAck_desk (h : Hub) (r : Route) (es : List AckEntry) : (h.strmAck r es).desk = h.desk := by
  simp only [Hub.strmAck, ↓Hub.ackEntry_desk, ↓Hub.ok_desk, ↓Hub.refuse_desk, ↓forAll_desk, ↓apply_ite Hub.desk, ite_self, implies_true]
@[simp] theorem Hub.strmCfgSet_desk (h : Hub) (w : Word) : (h.strmCfgSet w).desk = h.desk := by
  simp only [Hub.strmCfgSet, ↓Hub.ok_desk, ↓Hub.refuse_desk, ↓Hub.desk_mk, ↓apply_ite Hub.desk, ite_self, ↓Hub.desk_eq]
@[simp] theorem Hub.fciHolds_desk (h : Hub) : h.fciHolds.desk = h.desk := by
  simp only [Hub.fciHolds, ↓Hub.desk_mk, ↓Hub.desk_eq]
@[simp] theorem Hub.strmFcSet_desk (h : Hub) (pair : Nat) (w : Word) : (h.strmFcSet pair w).desk = h.desk := by
  simp only [Hub.strmFcSet, ↓Hub.fciHolds_desk, ↓Hub.ok_desk, ↓Hub.onDies_desk, ↓Hub.refuse_desk, ↓Hub.watermarks_desk, ↓Hub.desk_mk,
    ↓apply_ite Hub.desk, ite_self, ↓Hub.desk_eq]
@[simp] theorem Hub.flowBuilt_desk (h : Hub) (d : Nat) (was : Seqs) : (h.flowBuilt d was).desk = h.desk :=
  Hub.desk_of_still (Hub.flowBuilt_still ..)
@[simp] theorem Hub.flushFlow_desk (hard : Bool) (k : FlowKey) (h : Hub) : (Hub.flushFlow hard k h).desk = h.desk := by
  unfold Hub.flushFlow
  split <;> simp only [↓Hub.flowBuilt_desk, ↓Hub.freeAcked_desk, ↓Hub.mapCh_desk, ↓Hub.setFlow_desk, ↓Hub.desk_mk, ↓apply_ite Hub.desk,
    ite_self, ↓Hub.desk_eq]
@[simp] theorem Hub.strmFlush_desk (h : Hub) (kind : Nat) (flows : List Nat) : (h.strmFlush kind flows).desk = h.desk := by
  simp only [Hub.strmFlush, ↓Hub.flushFlow_desk, ↓Hub.ok_desk, ↓Hub.refuse_desk, ↓forAll_desk, ↓apply_ite Hub.desk, ite_self, implies_true]
@[simp] theorem Hub.toLocal_desk (h : Hub) (k : FlowKey) : (h.toLocal k).desk = h.desk := by
  simp only [Hub.toLocal, ↓Hub.flowTouch_desk, ↓Hub.ok_desk, ↓Hub.refuse_desk, ↓Hub.setFlow_desk, ↓Hub.desk_mk, ↓apply_ite Hub.desk,
    ite_self, ↓Hub.desk_eq]
@[simp] theorem Hub.toPort_desk (h : Hub) (k : FlowKey) (p : Nat) : (h.toPort k p).desk = h.desk := by
  simp only [Hub.toPort, ↓Hub.flowTouch_desk, ↓Hub.setFlow_desk, ↓Hub.desk_mk, ↓apply_ite Hub.desk, ite_self, ↓Hub.desk_eq]
@[simp] theorem Hub.strmLocal_desk (h : Hub) (flow : Nat) : (h.strmLocal flow).desk = h.desk := by
  unfold Hub.strmLocal
  repeat' split
  all_goals simp only [↓Hub.ok_desk, ↓Hub.toLocal_desk, ↓Hub.toPort_desk]
@[simp] theorem Hub.strmRawGroup_desk (h : Hub) (ports : List Nat) : (h.strmRawGroup ports).desk = h.desk := by
  simp only [Hub.strmRawGroup, ↓Hub.ok_desk, ↓Hub.onDies_desk, ↓Hub.rawReassign_desk, ↓Hub.refuse_desk, ↓Hub.desk_mk, ↓apply_ite Hub.desk,
    ite_self, ↓Hub.desk_eq]
@[simp] theorem Hub.strmRoute_desk (h : Hub) (flow p : Nat) : (h.strmRoute flow p).desk = h.desk := by
  simp only [Hub.strmRoute, ↓Hub.ok_desk, ↓Hub.refuse_desk, ↓Hub.toLocal_desk, ↓Hub.toPort_desk, ↓Hub.onDies_desk, ↓apply_ite Hub.desk,
    ite_self]
@[simp] theorem Hub.skimOn_desk (c : Nat) (h : Hub) : (Hub.skimOn c h).desk = h.desk := by
  simp only [Hub.skimOn, ↓Hub.setCh_desk, ↓apply_ite Hub.desk, ite_self]
@[simp] theorem Hub.skimOff_desk (c : Nat) (h : Hub) : (Hub.skimOff c h).desk = h.desk := by
  simp only [Hub.skimOff, ↓Hub.churnBreak_desk, ↓Hub.redClose_desk, ↓Hub.setCh_desk, ↓Hub.sweepRate_desk, ↓apply_ite Hub.desk, ite_self]
@[simp] theorem Hub.rawOn_desk (chs : List Nat) (h : Hub) : (Hub.rawOn chs h).desk = h.desk := by
  simp only [Hub.rawOn, ↓Hub.reSweep_desk, ↓Hub.setFlow_desk, ↓Hub.sweepRate_desk, ↓forAll_desk, ↓forAll_desk, ↓Hub.desk_mk, ↓apply_ite
    Hub.desk, ite_self, implies_true, ↓Hub.desk_eq]
@[simp] theorem Hub.rawOff_desk (c : Nat) (h : Hub) : (Hub.rawOff c h).desk = h.desk := by
  simp only [Hub.rawOff, ↓Hub.churnBreak_desk, ↓Hub.setCh_desk, ↓Hub.sweepRate_desk, ↓apply_ite Hub.desk, ite_self]
@[simp] theorem Hub.strmSet_desk (h : Hub) (kind en : Nat) (chs : List Nat) : (h.strmSet kind en chs).desk = h.desk := by
  unfold Hub.strmSet
  split
  · exact h.refuse_desk _
  · refine h.onDies_desk _ _ ?_
    simp only [↓apply_ite Hub.desk, ↓Hub.checked_desk, ↓Hub.ok_desk, ↓Hub.refuse_desk, ↓Hub.rawReassign_desk, ↓forAll_desk,
      ↓Hub.reSweep_desk, ↓Hub.skimOn_desk, ↓Hub.skimOff_desk, ↓Hub.rawOn_desk, ↓Hub.rawOff_desk, ite_self, implies_true]
@[simp] theorem Hub.strmWmGet_desk (h : Hub) (p : Nat) : (h.strmWmGet p).desk = h.desk := by
  simp only [Hub.strmWmGet, ↓Hub.ok_desk, ↓Hub.refuse_desk, ↓Hub.onDies_desk, ↓apply_ite Hub.desk, ite_self]
@[simp] theorem Hub.strmWmSet_desk (h : Hub) (p : Nat) (w : Word) : (h.strmWmSet p w).desk = h.desk := by
  simp only [Hub.strmWmSet, ↓Hub.ok_desk, ↓Hub.onDies_desk, ↓Hub.refuse_desk, ↓Hub.setPort_desk, ↓Hub.watermarks_desk, ↓Hub.desk_mk,
    ↓apply_ite Hub.desk, ite_self, ↓Hub.desk_eq]
@[simp] theorem Hub.strmXstat_desk (h : Hub) (dies : List Nat) : (h.strmXstat dies).desk = h.desk := by
  simp only [Hub.strmXstat, ↓Hub.ok_desk, ↓Hub.setDie_desk, ↓Hub.readMask_desk, ↓forAll_desk, implies_true]
@[simp] theorem Hub.sysInfo_desk (h : Hub) : h.sysInfo.desk = h.desk := by
  simp only [Hub.sysInfo, ↓Hub.ok_desk]
@[simp] theorem Hub.sysReset_desk (h : Hub) (confirm : Word) : (h.sysReset confirm).desk = h.desk := by
  simp only [Hub.sysReset, ↓Hub.ok_desk, ↓Hub.refuse_desk, ↓Hub.setBoot_desk, ↓apply_ite Hub.desk, ite_self, implies_true]
@[simp] theorem Hub.timeAsymSet_desk (h : Hub) (p : Nat) (v : Word) : (h.timeAsymSet p v).desk = h.desk := by
  simp only [Hub.timeAsymSet, ↓Hub.ok_desk, ↓Hub.refuse_desk, ↓Hub.setPort_desk, ↓Hub.onDies_desk, ↓apply_ite Hub.desk, ite_self]
@[simp] theorem Hub.timeCfgGet_desk (h : Hub) : h.timeCfgGet.desk = h.desk := by
  simp only [Hub.timeCfgGet, ↓Hub.ok_desk]
@[simp] theorem Hub.timeCfgSet_desk (h : Hub) (w : Word) : (h.timeCfgSet w).desk = h.desk := by
  simp only [Hub.timeCfgSet, ↓Hub.ok_desk, ↓Hub.refuse_desk, ↓Hub.setTm_desk, ↓apply_ite Hub.desk, ite_self]
@[simp] theorem Hub.timeGet_desk (h : Hub) : h.timeGet.desk = h.desk := by
  simp only [Hub.timeGet, ↓Hub.ok_desk, ↓Hub.setTm_desk]
@[simp] theorem Hub.timePpsSet_desk (h : Hub) (a b : Word) : (h.timePpsSet a b).desk = h.desk := by
  simp only [Hub.timePpsSet, ↓Hub.ok_desk, ↓Hub.setTm_desk]
@[simp] theorem Hub.timeSet_desk (h : Hub) (sec : BitVec 48) : (h.timeSet sec).desk = h.desk := by
  simp only [Hub.timeSet, ↓Hub.ok_desk, ↓Hub.refuse_desk, ↓Hub.setTm_desk, ↓apply_ite Hub.desk, ite_self]
@[simp] theorem Hub.timeTinGet_desk (h : Hub) (i : Nat) : (h.timeTinGet i).desk = h.desk := by
  simp only [Hub.timeTinGet, ↓Hub.ok_desk, ↓Hub.refuse_desk, ↓apply_ite Hub.desk, ite_self]
@[simp] theorem Hub.timeTinSet_desk (h : Hub) (i : Nat) (w : Word) : (h.timeTinSet i w).desk = h.desk := by
  simp only [Hub.timeTinSet, ↓Hub.ok_desk, ↓Hub.refuse_desk, ↓Hub.setTm_desk, ↓apply_ite Hub.desk, ite_self, modAt]
@[simp] theorem Hub.trigArrSet_desk (h : Hub) (groups : List Nat) (lat : Nat) : (h.trigArrSet groups lat).desk = h.desk := by
  simp only [Hub.trigArrSet, ↓Hub.ok_desk, ↓Hub.refuse_desk, ↓Hub.desk_mk, ↓apply_ite Hub.desk, ite_self, ↓Hub.desk_eq]
@[simp] theorem Hub.trigForce_desk (h : Hub) : h.trigForce.desk = h.desk := by
  simp only [Hub.trigForce, ↓Hub.fire_desk, ↓Hub.ok_desk]
@[simp] theorem Hub.trigKonSet_desk (h : Hub) (g pins k win lat : Nat) (route : Word) (units : List Nat) :
    (h.trigKonSet g pins k win lat route units).desk = h.desk := by
  simp only [Hub.trigKonSet, ↓Hub.ok_desk, ↓Hub.onDies_desk, ↓Hub.refuse_desk, ↓Hub.desk_mk, ↓apply_ite Hub.desk, ite_self, ↓Hub.desk_eq]
@[simp] theorem Hub.trigPinGet_desk (h : Hub) (pin : Nat) : (h.trigPinGet pin).desk = h.desk := by
  simp only [Hub.trigPinGet, ↓Hub.ok_desk, ↓Hub.refuse_desk, ↓Hub.onDies_desk, ↓apply_ite Hub.desk, ite_self]
@[simp] theorem Hub.trigPinSet_desk (h : Hub) (pin : Nat) (w : Word) : (h.trigPinSet pin w).desk = h.desk := by
  simp only [Hub.trigPinSet, ↓Hub.ok_desk, ↓Hub.onDies_desk, ↓Hub.refuse_desk, ↓Hub.desk_mk, ↓apply_ite Hub.desk, ite_self, ↓Hub.desk_eq]
@[simp] theorem Hub.trigStatus_desk (h : Hub) (clear : Nat) : (h.trigStatus clear).desk = h.desk := by
  simp only [Hub.trigStatus, ↓Hub.ok_desk, ↓Hub.desk_mk, ↓apply_ite Hub.desk, ite_self, ↓Hub.desk_eq]

@[simp] theorem Hub.drillDrop_desk (h : Hub) (d : Nat) : (h.drillDrop d).desk = h.desk := by
  simp only [Hub.drillDrop, ↓Hub.drillNext_desk, ↓Hub.setCores_desk, ↓Hub.desk_mk, ↓apply_ite Hub.desk, ite_self, ↓Hub.desk_eq]
@[simp] theorem Hub.vanish_desk (h : Hub) (d : Nat) : (h.vanish d).desk = h.desk := by
  simp only [Hub.vanish, ↓Hub.desk_mk, ↓Hub.desk_eq]
@[simp] theorem Hub.notSkewed_desk (h : Hub) (d : Nat) : (h.notSkewed d).desk = h.desk := by
  simp only [Hub.notSkewed, ↓Hub.setDie_desk, ↓Hub.setTm_desk]
@[simp] theorem Hub.capLoseDie_desk (d n : Nat) (h : Hub) : (Hub.capLoseDie d n h).desk = h.desk := by
  unfold Hub.capLoseDie
  split <;> simp only [↓Hub.disarm_desk, ↓Hub.setCap_desk, ↓Hub.trainDone_desk, ↓Hub.desk_mk, ↓apply_ite Hub.desk, ite_self, ↓Hub.desk_eq]
@[simp] theorem Hub.setBase_desk (h : Hub) (b : Base) : (h.setBase b).desk = h.desk := by
  simp only [Hub.setBase, ↓Hub.raise_desk, ↓Hub.desk_mk, ↓apply_ite Hub.desk, ite_self, ↓Hub.desk_eq]
@[simp] theorem Hub.setPps_desk (h : Hub) (i : Nat) (f : PpsIn → PpsIn) : (h.setPps i f).desk = h.desk := by
  unfold Hub.setPps
  split <;> simp only [↓Hub.setTm_desk]
@[simp] theorem Hub.chooseActive_desk (h : Hub) : h.chooseActive.desk = h.desk := by
  unfold Hub.chooseActive
  dsimp only
  repeat' split
  all_goals simp only [↓Hub.notice_desk, ↓Hub.setTm_desk]
@[simp] theorem Hub.ppsDrop_desk (h : Hub) (i : Nat) : (h.ppsDrop i).desk = h.desk := by
  unfold Hub.ppsDrop
  split <;> simp only [↓Hub.chooseActive_desk, ↓Hub.notice_desk, ↓Hub.setBase_desk, ↓Hub.setPps_desk, ↓Hub.setTm_desk, ↓apply_ite Hub.desk,
    ite_self]
@[simp] theorem Hub.setLevel_desk (h : Hub) (l : Level) : (h.setLevel l).desk = h.desk := by
  simp only [Hub.setLevel, ↓Hub.raise_desk, ↓Hub.desk_mk, ↓apply_ite Hub.desk, ite_self, ↓Hub.desk_eq]
@[simp] theorem Hub.reLevel_desk (h : Hub) : h.reLevel.desk = h.desk := by
  simp only [Hub.reLevel, ↓Hub.setLevel_desk, ↓apply_ite Hub.desk, ite_self]
@[simp] theorem Hub.startHk_desk (h : Hub) : h.startHk.desk = h.desk := by
  simp only [Hub.startHk, ↓Hub.emitRecord_desk, ↓Hub.setFlow_desk, ↓forAll_desk, ↓forAll_desk, ↓Hub.desk_mk, implies_true, ↓Hub.desk_eq]
@[simp] theorem Hub.crossEvent_desk (h : Hub) (d row latency : Nat) : (h.crossEvent d row latency).desk = h.desk := by
  simp only [Hub.crossEvent, ↓Hub.setDie_desk, modAt]
@[simp] theorem Hub.plainWidth_desk (h : Hub) (p : Nat) : (h.plainWidth p).desk = h.desk := by
  simp only [Hub.plainWidth, ↓Hub.rawReassign_desk, ↓Hub.setPort_desk, ↓apply_ite Hub.desk, ite_self]
@[simp] theorem Hub.narrow_desk (h : Hub) (p : Nat) : (h.narrow p).desk = h.desk := by
  simp only [Hub.narrow, ↓Hub.askWidth_desk, ↓Hub.plainWidth_desk, ↓apply_ite Hub.desk, ite_self]
@[simp] theorem Hub.retireLane_desk (h : Hub) (p l code count : Nat) (loopbackOk : Bool) :
    (h.retireLane p l code count loopbackOk).desk = h.desk := by
  simp only [Hub.retireLane, ↓Hub.closeCoupler_desk, ↓Hub.crossEvent_desk, ↓Hub.event_desk, ↓Hub.laneAway_desk, ↓Hub.narrow_desk,
    ↓Hub.portDown_desk, ↓Hub.reLevel_desk, ↓Hub.setLane_desk, ↓Hub.setPort_desk, ↓Hub.setTm_desk, ↓apply_ite Hub.desk, ite_self]
@[simp] theorem Hub.restoreChan_desk (h : Hub) (c e : Nat) : (h.restoreChan c e).desk = h.desk := by
  simp only [Hub.restoreChan, ↓Hub.calQueue_desk, ↓Hub.event_desk, ↓Hub.resumeChan_desk, ↓Hub.setCh_desk, ↓Hub.setDie_desk]
@[simp] theorem Hub.tryRestore_desk (h : Hub) (c : Nat) : (h.tryRestore c).1.desk = h.desk := by
  unfold Hub.tryRestore
  dsimp only
  split
  · split <;> simp only [↓Hub.restoreChan_desk, ↓Hub.event_desk, ↓Hub.tick_desk]
  · simp only [↓Hub.event_desk, ↓Hub.tick_desk]
@[simp] theorem Hub.writeThrough_desk (h : Hub) (e : Through) : (h.writeThrough e).desk = h.desk := by
  simp only [Hub.writeThrough, ↓Hub.setDie_desk]

@[simp] theorem Hub.schedCancel_desk (h : Hub) (id : Word) : (h.schedCancel id).desk = h.desk := by
  unfold Hub.schedCancel
  split <;> simp only [↓Hub.dropAction_desk, ↓Hub.ok_desk, ↓Hub.refuse_desk, ↓apply_ite Hub.desk, ite_self]
@[simp] theorem Hub.schedList_desk (h : Hub) (after : Word) : (h.schedList after).desk = h.desk := by
  simp only [Hub.schedList, ↓Hub.ok_desk]
@[simp] theorem Hub.sepPends_desk (h : Hub) (dies : List Nat) (xf t : Nat) (id : Word) : (h.sepPends dies xf t id).desk = h.desk := by
  simp only [Hub.sepPends, ↓Hub.desk_mk, ↓Hub.desk_eq]
@[simp] theorem Hub.switchPends_desk (h : Hub) (chs : List Nat) (xf t : Nat) (id : Word) : (h.switchPends chs xf t id).desk = h.desk := by
  simp only [Hub.switchPends, ↓Hub.desk_mk, ↓Hub.desk_eq]
@[simp] theorem Hub.order_desk (h : Hub) (p w mcount : Nat) : (h.order p w mcount).desk = h.desk := by
  simp only [Hub.order, ↓Hub.setPort_desk, ↓apply_ite Hub.desk, ite_self]
@[simp] theorem Hub.schedAdd_desk (h : Hub) (lateOk : Bool) (t : Instant) (r : ReqHeader) (payload : Bytes) :
    (h.schedAdd lateOk t r payload).desk = h.desk := by
  unfold Hub.schedAdd
  dsimp only
  repeat' split
  all_goals simp only [↓Hub.busy_desk, ↓Hub.ok_desk, ↓Hub.refuse_desk, ↓Hub.sepPends_desk, ↓Hub.setMgmt_desk, ↓Hub.switchPends_desk,
    ↓Hub.withReply_desk, ↓Hub.writeThrough_desk, implies_true]

end Sys2Proof.Machine
end




section
/-! PROOFS. What a request's command leaves of the requests, and of the lead (R368, R416). -/

namespace Sys2Proof.Machine

/-! ## What stays while a command runs -/

/-- The requests that wait, and the one that runs, stay; the lead stays a die of the part. -/
structure Works (h g : Hub) : Prop where
  queue : g.mgmt.queue = h.mgmt.queue
  running : g.mgmt.running.map Prod.fst = h.mgmt.running.map Prod.fst
  ident : g.ident = h.ident
  lead : h.boot.lead < h.nDies → g.boot.lead < g.nDies

theorem Works.refl (h : Hub) : Works h h := ⟨rfl, rfl, rfl, id⟩

theorem Works.trans {h g k : Hub} (first : Works h g) (second : Works g k) : Works h k :=
  ⟨second.queue.trans first.queue, second.running.trans first.running, second.ident.trans first.ident, second.lead ∘ first.lead⟩

theorem Works.of_desk {h g : Hub} (desk : g.desk = h.desk) (form : g.form = h.form) : Works h g := by
  simp only [Hub.desk, Prod.mk.injEq] at desk
  obtain ⟨queue, running, lead⟩ := desk
  have ident : g.ident = h.ident := congrArg Form.ident form
  refine ⟨queue, running, ident, fun lt => ?_⟩
  rw [lead, Hub.nDies_of_ident ident]
  exact lt

theorem Works.after {h g k : Hub} (first : Works h g) (desk : k.desk = g.desk) (form : k.form = g.form) : Works h k :=
  first.trans (Works.of_desk desk form)

theorem Works.onDies {h k : Hub} (dies : List Nat) (runs : Works h k) : Works h (h.onDies dies k) := by
  obtain ⟨d, -, refused⟩ | ⟨-, run⟩ := h.onDies_cases dies k
  · rw [refused]
    exact Works.of_desk (h.refuseDie_desk ..) (h.refuseDie_form ..)
  · rw [run]
    exact runs

theorem Works.ite {p : Prop} [Decidable p] {h g k : Hub} (then' : Works h g) (else' : Works h k) : Works h (if p then g else k) := by
  split
  · exact then'
  · exact else'

/-! ## A die that leaves service or comes back moves the lead to a die of the part -/

/-- Only the lead moves, to a die of the part. -/
theorem Works.of_lead {h g : Hub} {n : Nat} (desk : g.desk = (h.mgmt.queue, h.mgmt.running.map Prod.fst, n)) (lt : n < h.nDies)
    (form : g.form = h.form) : Works h g := by
  simp only [Hub.desk, Prod.mk.injEq] at desk
  obtain ⟨queue, running, lead⟩ := desk
  have ident : g.ident = h.ident := congrArg Form.ident form
  refine ⟨queue, running, ident, fun _ => ?_⟩
  rw [lead, Hub.nDies_of_ident ident]
  exact lt

theorem Hub.moveLead_works (h : Hub) : Works h h.moveLead := by
  have form := h.moveLead_form
  revert form
  unfold Hub.moveLead
  split
  · exact fun _ => Works.refl h
  · next n found =>
    obtain ⟨-, lt, -⟩ := List.find?_range_eq_some.1 found
    extract_lets old dest g1 e0 e1 e b g2 g3
    intro form
    have moved : g2.desk = (h.mgmt.queue, h.mgmt.running.map Prod.fst, n) := rfl
    have started : g3.desk = g2.desk := ite_keeps Hub.desk g2.startHk_desk rfl
    clear_value g3 g2
    split
    · exact Works.refl h
    · next other =>
      rw [if_neg other] at form
      refine Works.of_lead ?_ (List.mem_range.1 lt) form
      rw [Hub.notice_desk, Hub.saveCkpt_desk, Hub.notSkewed_desk, started, moved]

theorem Hub.reps_form (h : Hub) (reps : List Rep) (same : reps.length = h.reps.length) : { h with reps := reps }.form = h.form := by
  simp only [↓Hub.form_update, same]

theorem Hub.dieOut_works (h : Hub) (d : Nat) : Works h (h.dieOut d) := by
  have form := h.dieOut_form d
  revert form
  unfold Hub.dieOut
  extract_lets h1 h2 h3 h4 h5 reps h6 h7
  intro form
  have start1 : Works h h1 := Works.of_desk (by rw [Hub.notSkewed_desk, Hub.vanish_desk, Hub.abortSlots_desk, Hub.drillDrop_desk])
    (by rw [Hub.notSkewed_form, Hub.vanish_form, Hub.abortSlots_form, Hub.drillDrop_form])
  have lost2 : Works h h2 := start1.after (h1.setDie_desk d _) (h1.setDie_form d _)
  have lost3 : Works h h3 := lost2.after (forAll_desk _ (Hub.capLoseDie_desk d) _ h2) (forAll_form _ (Hub.capLoseDie_form d) _ h2)
  clear_value h3 h2 h1
  have lost4 : Works h h4 := lost3.after rfl rfl
  clear_value h4
  have down5 : Works h h5 := by
    unfold h5
    split
    · exact lost4.after (by rw [Hub.portDown_desk, Hub.portDown_desk, Hub.closeCoupler_desk])
        (by rw [Hub.portDown_form, Hub.portDown_form, Hub.closeCoupler_form])
    · exact lost4.after (forAll_desk _ (fun p g => g.portDown_desk p _) _ _) (forAll_form _ (fun p g => g.portDown_form p _) _ _)
  clear_value h5
  have moved6 : Works h h6 := by
    refine Works.trans ?_ (Hub.moveLead_works _)
    split
    · exact (down5.after (k := { h5 with reps := reps }) rfl (h5.reps_form _ List.length_mapIdx)).after (Hub.ppsDrop_desk ..) (Hub.ppsDrop_form ..)
    · exact down5
  have moved7 : Works h h7 := moved6.after (h6.mapCh_desk _) (h6.mapCh_form _)
  clear form
  clear_value h7 h6
  refine moved7.after ?_ ?_
  · rw [Hub.passEnds_desk, Hub.reLevel_desk, Hub.reSweep_desk]
    rfl
  · rw [Hub.passEnds_form, Hub.reLevel_form, Hub.reSweep_form]
    rfl

theorem Hub.dieIn_works (h : Hub) (d : Nat) : Works h (h.dieIn d) := by
  unfold Hub.dieIn
  extract_lets h1 h2 h3 h4 reps h5 h6 h7
  have back1 : Works h h1 := Works.of_desk (h.setDie_desk d _) (h.setDie_form d _)
  have back2 : Works h h2 := by
    refine back1.after (forAll_desk _ (fun c g => ?_) _ _) (forAll_form _ (fun c g => ?_) _ _)
    · rw [Hub.setCh_desk, Hub.resumeChan_desk]
    · rw [Hub.setCh_form, Hub.resumeChan_form]
  clear_value h2 h1
  have back3 : Works h h3 := back2.after rfl rfl
  clear_value h3
  have back4 : Works h h4 := back3.after (forAll_desk _ (fun p g => g.portStart_desk p) _ _) (forAll_form _ (fun p g => g.portStart_form p) _ _)
  clear_value h4
  have back5 : Works h h5 := by
    refine Works.ite ?_ back4
    exact back4.after rfl (h4.reps_form _ List.length_mapIdx)
  clear_value h5
  have back6 : Works h h6 := back5.after (h5.mapCh_desk _) (h5.mapCh_form _)
  have back7 : Works h h7 := back6.trans h6.moveLead_works
  clear_value h7 h6
  exact back7.after (by rw [Hub.reLevel_desk, Hub.reSweep_desk, Hub.reSweep_desk])
    (by rw [Hub.reLevel_form, Hub.reSweep_form, Hub.reSweep_form])

/-! ## Retiring and restoring units -/

theorem Works.refuse (h : Hub) (r : Nat) : Works h (h.refuse r) := Works.of_desk (h.refuse_desk r) (h.refuse_form r)

theorem Works.refuseDie (h : Hub) (r d : Nat) : Works h (h.refuseDie r d) := Works.of_desk (h.refuseDie_desk r d) (h.refuseDie_form r d)

theorem Works.ok {h g : Hub} (runs : Works h g) (b : List (BitVec 8)) : Works h (g.ok b) := runs.after (g.ok_desk b) (g.ok_form b)

theorem Works.event {h g : Hub} (runs : Works h g) (u : Word) (code cls count : Nat) (a b : Word) :
    Works h (g.event u code cls count a b) := runs.after (g.event_desk ..) (g.event_form ..)

theorem Works.flt {h g : Hub} (runs : Works h g) (flt : Flt) : Works h { g with flt := flt } := runs.after rfl rfl

theorem Hub.fltRetire_works (h : Hub) (u : Word) : Works h (h.fltRetire u) := by
  unfold Hub.fltRetire
  extract_lets i bad p l left d e served h1 h2 h3 src h4 h5
  have bad' : Works h bad := Works.refuse h _
  clear_value bad
  split
  · refine Works.ite bad' (Works.onDies _ (Works.ite ((Works.refl h).ok []) (Works.ok (Works.of_desk ?_ ?_) [])))
    · exact h.retireChan_desk ..
    · exact h.retireChan_form ..
  · refine Works.ite bad' (Works.onDies _ (Works.ite ((Works.refl h).ok []) (Works.ite bad' (Works.ok (Works.of_desk ?_ ?_) []))))
    · exact h.retireLane_desk ..
    · exact h.retireLane_form ..
  · have spared : Works h h1 := Works.of_desk (h.setDie_desk d _) (h.setDie_form d _)
    clear_value h1 served
    have served' : Works h h2 := by
      unfold h2
      split
      · exact spared.after (h1.spareChan_desk ..) (h1.spareChan_form ..)
      · exact spared
    clear_value h2
    have told : Works h h3 := (served'.event ..).after (Hub.setEngWin_desk ..) (Hub.setEngWin_form ..)
    clear_value h3
    exact Works.ite bad' (Works.ite ((Works.refl h).ok []) (Works.onDies _ ((told.flt _).ok [])))
  · have left' : Works h h4 := Works.ite (h.dieOut_works i) (Works.of_desk (h.setDie_desk i _) (h.setDie_form i _))
    clear_value h4
    have told : Works h h5 := left'.event ..
    clear_value h5
    exact Works.ite bad' (Works.ite ((Works.refl h).ok []) (Works.ite (Works.refuseDie h _ i) ((told.flt _).ok [])))
  · exact bad'

theorem Works.restoreWith {h : Hub} (u : Word) {k : Hub → Hub} (restores : ∀ g, Works g (k g)) : Works h (h.restoreWith u k) := by
  have ticked : Works h h.tick := Works.of_desk h.tick_desk h.tick_form
  unfold Hub.restoreWith
  refine Works.ite ?_ ?_
  · exact ((ticked.flt _).trans (restores _)).ok []
  · exact (ticked.event ..).trans (Works.refuse _ _)

theorem Hub.fltRestore_works (h : Hub) (u : Word) : Works h (h.fltRestore u) := by
  unfold Hub.fltRestore
  extract_lets i bad r p l d e
  have bad' : Works h bad := Works.refuse h _
  clear_value bad
  split
  · have tried : Works h r.1 := Works.of_desk (h.tryRestore_desk i) (h.tryRestore_form i)
    clear_value r
    exact Works.ite bad' (Works.onDies _ (Works.ite bad' (Works.ite (tried.ok []) (tried.trans (Works.refuse _ _)))))
  · refine Works.ite bad' (Works.onDies _ (Works.ite bad' (Works.restoreWith u fun g => ?_)))
    extract_lets g1 g2
    have there : Works g g1 := Works.of_desk (g.setLane_desk ..) (g.setLane_form ..)
    clear_value g1
    have told : Works g g2 := there.event ..
    clear_value g2
    have starts : Works g (if l = 0 then g2.portStart p else g2.plainWidth p) :=
      Works.ite (told.after (g2.portStart_desk p) (g2.portStart_form p)) (told.after (g2.plainWidth_desk p) (g2.plainWidth_form p))
    exact starts.after (Hub.reLevel_desk _) (Hub.reLevel_form _)
  · refine Works.ite bad' (Works.onDies _ (Works.restoreWith u fun g => ?_))
    exact ((Works.refl g).event ..).after (Hub.setDie_desk ..) (Hub.setDie_form ..)
  · refine Works.ite bad' (Works.ite (Works.refuseDie h _ i) (Works.restoreWith u fun g => ?_))
    exact ((g.dieIn_works i).after (Hub.setDie_desk ..) (Hub.setDie_form ..)).event ..
  · exact bad'

/-! ## LOG_WRITE -/

theorem Hub.jobEnds_desk (h : Hub) (j : LogJob) (st : Nat) : (h.jobEnds j st).desk = h.desk := by
  unfold Hub.jobEnds
  split
  · exact (Hub.planeDone_desk ..).trans rfl
  · rfl

theorem Hub.answered_desk (h : Hub) (n : Nat) (r : Reply) : (h.setMgmt fun m => m.answers n r).desk = h.desk := by
  have kept := congrArg (·, h.boot.lead) (h.mgmt.answers_running n r)
  exact congrArg (h.mgmt.queue, ·) kept

theorem Hub.writeExpiry_desk (h : Hub) : h.writeExpiry.desk = h.desk := by
  unfold Hub.writeExpiry
  split
  · rfl
  · refine ite_keeps Hub.desk rfl ?_
    dsimp only
    split
    · rw [Hub.jobEnds_desk, Hub.answered_desk, Hub.tick_desk]
    · rw [Hub.jobEnds_desk, Hub.tick_desk]

theorem Hub.tagNext_desk (h : Hub) : h.tagNext.desk = h.desk := by
  rw [Hub.tagNext_eq]
  obtain ⟨b, takes⟩ := h.writeExpiry.takesBlock_only
  rw [takes]
  exact h.writeExpiry_desk

theorem Hub.logWrite_desk (h : Hub) (first : Nat) (data : List Word) (owner : LogOwner) : (h.logWrite first data owner).desk = h.desk := by
  refine ite_keeps Hub.desk (h.refuse_desk _) ?_
  rw [Hub.ok_desk, Hub.tagNext_desk]
  rfl

/-! ## Running a request (R363, R368) -/

/-- FLT_RETIRE and FLT_RESTORE are the commands that may move the lead. -/
theorem Hub.runCmd_works (h : Hub) (job : Option (Word × Nat)) (i : Instr) : Works h (h.runCmd job i) := by
  by_cases units : (∃ u, i = .fltRetire u) ∨ ∃ u, i = .fltRestore u
  · obtain ⟨u, rfl⟩ | ⟨u, rfl⟩ := units
    · exact h.fltRetire_works u
    · exact h.fltRestore_works u
  · refine Works.of_desk ?_ (h.runCmd_form job i)
    cases i with
    | fltRetire u => exact absurd (.inl ⟨u, rfl⟩) units
    | fltRestore u => exact absurd (.inr ⟨u, rfl⟩) units
    | sysInfo => exact Hub.sysInfo_desk ..
    | sysReqstat => exact Hub.reqstat_desk ..
    | sysReset => exact Hub.sysReset_desk ..
    | sysCfgSave => exact Hub.cfgSave_desk ..
    | sysFwWrite => exact Hub.fwWrite_desk ..
    | sysFwCommit => exact Hub.fwCommit_desk ..
    | timeGet => exact Hub.timeGet_desk ..
    | timeSet => exact Hub.timeSet_desk ..
    | timeCfgSet => exact Hub.timeCfgSet_desk ..
    | timeCfgGet => exact Hub.timeCfgGet_desk ..
    | timePpsSet => exact Hub.timePpsSet_desk ..
    | timeAsymSet => exact Hub.timeAsymSet_desk ..
    | timeTinSet => exact Hub.timeTinSet_desk ..
    | timeTinGet => exact Hub.timeTinGet_desk ..
    | afeSet => exact Hub.afeSet_desk ..
    | afeGet => exact Hub.afeGet_desk ..
    | afeSync => exact Hub.afeSync_desk ..
    | afeGuard => exact Hub.afeGuard_desk ..
    | afeRepSet => exact Hub.afeRepSet_desk ..
    | afeRepGet => exact Hub.afeRepGet_desk ..
    | afeStatus => exact Hub.afeStatus_desk ..
    | afeClear => exact Hub.afeClear_desk ..
    | chanSet => exact Hub.chanSet_desk ..
    | chanGet => exact Hub.chanGet_desk ..
    | chanQuery => exact Hub.chanQuery_desk ..
    | chanCoefLoad => exact Hub.chanCoefLoad_desk ..
    | chanCoefSwitch => exact Hub.chanCoefSwitch_desk ..
    | trigPinSet => exact Hub.trigPinSet_desk ..
    | trigPinGet => exact Hub.trigPinGet_desk ..
    | trigKonSet => exact Hub.trigKonSet_desk ..
    | trigArrSet => exact Hub.trigArrSet_desk ..
    | trigForce => exact Hub.trigForce_desk ..
    | trigStatus => exact Hub.trigStatus_desk ..
    | capArm => exact Hub.capArm_desk ..
    | capDisarm => exact Hub.capDisarm_desk ..
    | capTrig => exact Hub.capTrig_desk ..
    | capStatus => exact Hub.capStatus_desk ..
    | capPartSet => exact Hub.capPartSet_desk ..
    | capPartGet => exact Hub.capPartGet_desk ..
    | capWmSet => exact Hub.capWmSet_desk ..
    | capWmGet => exact Hub.capWmGet_desk ..
    | capList => exact Hub.capList_desk ..
    | capRead => exact Hub.capRead_desk ..
    | capFree => exact Hub.capFree_desk ..
    | capSend => exact Hub.capSend_desk ..
    | capRedSet => exact Hub.capRedSet_desk ..
    | capRedGet => exact Hub.capRedGet_desk ..
    | sepLoad => exact Hub.sepLoad_desk ..
    | sepSwitch => exact Hub.sepSwitch_desk ..
    | sepCfgSet => exact Hub.sepCfgSet_desk ..
    | sepCfgGet => exact Hub.sepCfgGet_desk ..
    | sepStatus => exact Hub.sepStatus_desk ..
    | strmSet => exact Hub.strmSet_desk ..
    | strmRoute => exact Hub.strmRoute_desk ..
    | strmLocal => exact Hub.strmLocal_desk ..
    | strmAck => exact Hub.strmAck_desk ..
    | strmFlush => exact Hub.strmFlush_desk ..
    | strmWmSet => exact Hub.strmWmSet_desk ..
    | strmWmGet => exact Hub.strmWmGet_desk ..
    | strmFcSet => exact Hub.strmFcSet_desk ..
    | strmRawGroup => exact Hub.strmRawGroup_desk ..
    | strmXstat => exact Hub.strmXstat_desk ..
    | strmCfgSet => exact Hub.strmCfgSet_desk ..
    | strmCfgGet => exact Hub.ok_desk ..
    | churnSet => exact Hub.churnSet_desk ..
    | churnCfgSet => exact Hub.churnCfgSet_desk ..
    | churnCfgGet => exact Hub.churnCfgGet_desk ..
    | churnSave => exact Hub.churnSave_desk ..
    | churnStateRead => exact Hub.churnStateRead_desk ..
    | churnStateWrite => exact Hub.churnStateWrite_desk ..
    | churnRestore => exact Hub.churnRestore_desk ..
    | churnStateFree => exact Hub.churnStateFree_desk ..
    | churnJobStart => exact Hub.churnJobStart_desk ..
    | churnJobRead => exact Hub.churnJobRead_desk ..
    | churnJobResume => exact Hub.churnJobResume_desk ..
    | churnJobEnd => exact Hub.churnJobEnd_desk ..
    | linkCfgSet => exact Hub.linkCfgSet_desk ..
    | linkCfgGet => exact Hub.linkCfgGet_desk ..
    | linkStatus => exact Hub.linkStatusGet_desk ..
    | linkManual => exact Hub.linkManual_desk ..
    | linkSlip => exact Hub.linkSlip_desk ..
    | linkRate => exact Hub.linkRate_desk ..
    | linkWidth => exact Hub.linkWidth_desk ..
    | linkTestSet => exact Hub.linkTestSet_desk ..
    | linkLaneGet => exact Hub.linkLaneGet_desk ..
    | linkCoupler => exact Hub.linkCoupler_desk ..
    | calAuditSet => exact Hub.calAuditSet_desk ..
    | calAuditGet => exact Hub.calAuditGet_desk ..
    | calAuditRead => exact Hub.calAuditRead_desk ..
    | calAuditReq => exact Hub.calAuditReq_desk ..
    | calRun => exact Hub.calRun_desk ..
    | calCfgSet => exact Hub.calCfgSet_desk ..
    | calCfgGet => exact Hub.calCfgGet_desk ..
    | calReport => exact Hub.calReport_desk ..
    | pwrStateSet => exact Hub.pwrStateSet_desk ..
    | pwrGate => exact Hub.pwrGate_desk ..
    | pwrGet => exact Hub.pwrGet_desk ..
    | pwrTelem => exact Hub.pwrTelem_desk ..
    | fltRead => exact Hub.fltRead_desk ..
    | fltCfgSet => exact Hub.fltCfgSet_desk ..
    | fltCfgGet => exact Hub.fltCfgGet_desk ..
    | mcDrill => exact Hub.mcDrill_desk ..
    | logRead => exact Hub.logRead_desk ..
    | sealGet => exact Hub.ok_desk ..
    | sealNonce => exact Hub.sealNonce_desk ..
    | sealUnseal => exact Hub.sealUnseal_desk ..
    | sealClose => exact Hub.sealClose_desk ..
    | sealSet => exact Hub.sealSet_desk ..
    | sealKeySet => exact Hub.sealKeySet_desk ..
    | logWrite => exact Hub.logWrite_desk ..
    | _ => exact h.refuse_desk _

theorem Hub.command_works (h : Hub) (job : Option (Word × Nat)) (r : ReqHeader) (i : CmdInfo) (cmd : Option Instr) :
    Works h (h.command job r i cmd) := by
  unfold Hub.command
  split
  · exact Works.refuseDie h _ _
  · refine Works.ite (Works.refuse h _) ?_
    split
    · exact h.runCmd_works job _
    · exact Works.refuse h _

theorem Hub.runDirect_works (h : Hub) (r : ReqHeader) (i : CmdInfo) (cmd : Option Instr) : Works h (h.runDirect r i cmd) := by
  unfold Hub.runDirect
  split
  · exact Works.of_desk (h.schedAdd_desk ..) (h.schedAdd_form ..)
  · exact Works.of_desk (h.schedCancel_desk ..) (h.schedCancel_form ..)
  · exact Works.of_desk (h.schedList_desk ..) (h.schedList_form ..)
  · exact h.command_works none r i cmd

theorem Hub.runRequest_works (h : Hub) (x : Request) : Works h (h.runRequest x) := by
  unfold Hub.runRequest
  dsimp only
  split
  · exact Works.refuse h _
  · refine Works.ite ?_ (Works.ite (Works.refuse h _) (h.runDirect_works ..))
    exact Works.of_desk (h.busy_desk _) (h.busy_form _)

end Sys2Proof.Machine
end

section
/-! PROOFS. Intake of requests, and their answers (R355 to R359, R362, R363). -/

namespace Sys2Proof.Machine

/-! ## The response cache and the answers -/

theorem Hub.send_hspi (h : Hub) {r : Response} (route : r.route = .hspi) : h.send r =
    { h with mgmt := { h.mgmt with outbox := h.mgmt.outbox ++ [r] }, dbw := { h.dbw with mboTail := h.dbw.mboTail + 1 } } := by
  unfold Hub.send
  rw [route]

theorem Hub.send_mgmt_inband (h : Hub) {r : Response} (route : r.route = .inband) : (h.send r).mgmt =
    { h.mgmt with svcOut := if h.addressed && (h.prt 0).linked then h.mgmt.svcOut ++ [r] else h.mgmt.svcOut } := by
  unfold Hub.send
  rw [route]
  dsimp only
  split
  · exact ite_keeps Hub.mgmt rfl rfl
  · rfl

theorem Hub.cachePut_still (h : Hub) (e : CacheEntry) :
    (h.cachePut e).still = { h with mgmt := { h.mgmt with cache := cacheWith h.mgmt.cache e } }.still := by
  unfold Hub.cachePut
  dsimp only
  split
  · exact Hub.notice_still _ _ _ _ _
  · rfl

theorem Hub.cachePut_mgmt (h : Hub) (e : CacheEntry) : (h.cachePut e).mgmt = { h.mgmt with cache := cacheWith h.mgmt.cache e } := by
  unfold Hub.cachePut
  dsimp only
  split
  · exact Hub.notice_mgmt ..
  · rfl

theorem cacheWith_head (c : List CacheEntry) (e : CacheEntry) : (cacheWith c e).head? = some e := rfl

/-! ## A request that no core has compared (R421) -/

theorem Hub.admitRaw_none {h : Hub} (compared : ∀ y ∈ h.mgmt.queue, y.raw = false) : h.admitRaw = h := by
  have none' : h.mgmt.queue.filter Request.raw = [] := List.filter_eq_nil_iff.2 fun y mem => by simp [compared y mem]
  unfold Hub.admitRaw
  rw [none']
  rfl

theorem Hub.takeIn_compared {h : Hub} (serves : h.serves = true) (compared : ∀ y ∈ h.mgmt.queue, y.raw = false) (route : Route) (q : ReqHeader)
    (payload : Bytes) : h.takeIn route q payload = h.takeOn route q payload h.clk.elapsed := by
  unfold Hub.takeIn
  rw [if_pos serves, Hub.admitRaw_none compared]

/-! ## A request that is known (R362, R363) -/

section
variable {h : Hub} {route : Route} {q : ReqHeader} {payload : Bytes} {t : Nat}

theorem Hub.takeOn_cached {e : CacheEntry} (found : h.cacheExpiry.mgmt.cache.find? (fun e => e.reqId == q.reqId && e.tag == q.tag) = some e) :
    h.takeOn route q payload t = h.cacheExpiry.send
      (if e.opcode = q.opcode then { respond q route ⟨St.cached, 0, e.failDie, e.payload⟩ with orig := e.status }
        else respond q route ⟨St.duplicateTag, 0, 255, []⟩) := by
  unfold Hub.takeOn
  dsimp only
  rw [found]
  exact (apply_ite h.cacheExpiry.send _ _ _).symm

/-! ## A request that is new (R355, R359) -/

theorem Fresh.uncached (fresh : Fresh h q) : h.cacheExpiry.mgmt.cache.find? (fun e => e.reqId == q.reqId && e.tag == q.tag) = none := by
  refine List.find?_eq_none.2 fun e mem => ?_
  have away := fresh.1 e (List.mem_of_mem_filter mem)
  simpa [-not_and, not_and_or] using away

theorem Fresh.unqueued (fresh : Fresh h q) :
    ((h.cacheExpiry.mgmt.queue.filter fun (x : Request) => !x.raw) ++ h.cacheExpiry.mgmt.started).find?
      (fun (x : Request) => x.hdr.reqId == q.reqId && x.hdr.tag == q.tag) =
      none := by
  refine List.find?_eq_none.2 fun x mem => ?_
  have away : x.hdr.reqId ≠ q.reqId ∨ x.hdr.tag ≠ q.tag := by
    obtain queued | started := List.mem_append.1 mem
    · exact fresh.2.1 x (List.mem_of_mem_filter queued)
    · exact fresh.2.2 x started
  simpa [-not_and, not_and_or] using away

/-- What becomes of a new request whose command is known: BUSY while the hub boots from the network, where its class has no room, or
where it would wait too long; else a place at the end of the queue. -/
def Hub.admits (h : Hub) (route : Route) (q : ReqHeader) (payload : Bytes) (t : Nat) (i : CmdInfo) : Hub :=
  let m := h.mgmt
  let h := h.tick
  let est := Config.waitEstimate h.fresh i.cls
  let free := 32 - (h.placesUsed route + 1)
  let retry (ms : Nat) : Reply := ⟨St.busy, max 1 ms, 255, []⟩
  if h.boot.netboot ∧ !netCmd q.opcode then h.send (respond q route (retry 1000))
  else if 1 ≤ i.cls ∧ free < 5 then
    let waiting := (m.queue ++ m.started).any fun x => x.route == route
    h.send (respond q route (retry (if route = .hspi ∧ !waiting then 1 else Config.retryEstimate h.fresh i.cls)))
  else if 1 ≤ i.cls ∧ waitLimit i.cls < est then h.send (respond q route (retry (est - waitLimit i.cls)))
  else { h with mgmt := { h.mgmt with queue := h.mgmt.queue ++ [⟨route, q, payload, i.cls, t, m.order, false⟩], order := m.order + 1 } }

theorem Fresh.takeOn_new (fresh : Fresh h q) {i : CmdInfo} (command : cmdInfo q.opcode = some i) :
    h.takeOn route q payload t = h.cacheExpiry.admits route q payload t i := by
  unfold Hub.takeOn
  dsimp only
  rw [Fresh.uncached fresh]
  dsimp only
  rw [Fresh.unqueued fresh, command]
  rfl

theorem Fresh.takeOn_unsupported (fresh : Fresh h q) (command : cmdInfo q.opcode = none) : h.takeOn route q payload t =
    (h.cacheExpiry.cachePut (CacheEntry.of (respond q route ⟨St.unsupported, 0, 255, []⟩) h.clk.elapsed)).send
      (respond q route ⟨St.unsupported, 0, 255, []⟩) := by
  unfold Hub.takeOn
  dsimp only
  rw [Fresh.uncached fresh]
  dsimp only
  rw [Fresh.unqueued fresh, command]
  rfl

/-- The hub boots from the flash, or the command is one that network boot serves (R475). -/
def Hub.Serves (h : Hub) (op : Nat) : Prop := h.boot.netboot = false ∨ netCmd op = true

/-- The command's class has room on the route, and its wait is within the limit (R355, R359). -/
def Hub.Room (h : Hub) (route : Route) (i : CmdInfo) : Prop :=
  i.cls = 0 ∨ (h.placesUsed route + 6 ≤ 32 ∧ Config.waitEstimate (h.fresh + 1) i.cls ≤ waitLimit i.cls)

theorem Hub.admits_queued {i : CmdInfo} (served : h.Serves q.opcode) (room : h.Room route i) : h.admits route q payload t i =
    { h with fresh := h.fresh + 1, mgmt := { h.mgmt with
      queue := h.mgmt.queue ++ [⟨route, q, payload, i.cls, t, h.mgmt.order, false⟩], order := h.mgmt.order + 1 } } := by
  have used : h.tick.placesUsed route = h.placesUsed route := rfl
  have boots : ¬(h.tick.boot.netboot = true ∧ (!netCmd q.opcode) = true) := by
    rw [Hub.tick_boot]
    obtain off | net := served <;> simp [*]
  have free : ¬(1 ≤ i.cls ∧ 32 - (h.tick.placesUsed route + 1) < 5) := by
    rw [used]
    obtain zero | ⟨places, -⟩ := room <;> omega
  have wait : ¬(1 ≤ i.cls ∧ waitLimit i.cls < Config.waitEstimate h.tick.fresh i.cls) := by
    obtain zero | ⟨-, limit⟩ := room
    · omega
    · exact fun late => absurd late.2 (Nat.not_lt.2 limit)
  unfold Hub.admits
  dsimp only
  rw [if_neg boots, if_neg free, if_neg wait]
  rfl

theorem Hub.admits_busy {i : CmdInfo} (full : ¬(h.Serves q.opcode ∧ h.Room route i)) :
    ∃ ms, 1 ≤ ms ∧ h.admits route q payload t i = h.tick.send (respond q route ⟨St.busy, ms, 255, []⟩) := by
  unfold Hub.admits
  extract_lets m g est free retry waiting
  by_cases boots : g.boot.netboot = true ∧ (!netCmd q.opcode) = true
  · exact ⟨_, Nat.le_max_left 1 _, if_pos boots⟩
  by_cases few : 1 ≤ i.cls ∧ free < 5
  · exact ⟨_, Nat.le_max_left 1 _, (if_neg boots).trans (if_pos few)⟩
  by_cases late : 1 ≤ i.cls ∧ waitLimit i.cls < est
  · exact ⟨_, Nat.le_max_left 1 _, (if_neg boots).trans ((if_neg few).trans (if_pos late))⟩
  refine absurd ⟨?_, ?_⟩ full
  · have boots' : ¬(h.boot.netboot = true ∧ (!netCmd q.opcode) = true) := boots
    unfold Hub.Serves
    by_contra neither
    obtain ⟨on, other⟩ := not_or.1 neither
    exact boots' ⟨Bool.eq_true_of_not_eq_false on, by simp [other]⟩
  · have few' : ¬(1 ≤ i.cls ∧ 32 - (h.placesUsed route + 1) < 5) := few
    have late' : ¬(1 ≤ i.cls ∧ waitLimit i.cls < Config.waitEstimate (h.fresh + 1) i.cls) := late
    unfold Hub.Room
    omega
end

end Sys2Proof.Machine
end

section
/-! PROOFS. INTAKE of a request from the mailbox (R355 to R359, R421). -/

namespace Sys2Proof.Machine

/-! ## A whole request that is compared at once -/

section
variable {h : Hub} (serves : h.serves = true) (compared : ∀ y ∈ h.mgmt.queue, y.raw = false) (route : Route) {q : ReqHeader} (payload : Bytes)
include serves compared

theorem Hub.takeIn_queued (fresh : Sys2Proof.Fresh h q) {i : CmdInfo} (command : cmdInfo q.opcode = some i) (served : h.Serves q.opcode)
    (room : h.Room route i) : h.takeIn route q payload = { h with fresh := h.fresh + 1, mgmt := { h.mgmt with
      cache := h.cacheExpiry.mgmt.cache
      queue := h.mgmt.queue ++ [⟨route, q, payload, i.cls, h.clk.elapsed, h.mgmt.order, false⟩], order := h.mgmt.order + 1 } } := by
  rw [Hub.takeIn_compared serves compared, Fresh.takeOn_new fresh command]
  exact Hub.admits_queued (h := h.cacheExpiry) served room

theorem Hub.takeIn_busy (fresh : Sys2Proof.Fresh h q) {i : CmdInfo} (command : cmdInfo q.opcode = some i) (full : ¬(h.Serves q.opcode ∧ h.Room route i)) :
    ∃ ms, 1 ≤ ms ∧ h.takeIn route q payload = h.cacheExpiry.tick.send (respond q route ⟨St.busy, ms, 255, []⟩) := by
  rw [Hub.takeIn_compared serves compared, Fresh.takeOn_new fresh command]
  exact Hub.admits_busy (h := h.cacheExpiry) full

theorem Hub.takeIn_unsupported (fresh : Sys2Proof.Fresh h q) (command : cmdInfo q.opcode = none) : h.takeIn route q payload =
    (h.cacheExpiry.cachePut (CacheEntry.of (respond q route ⟨St.unsupported, 0, 255, []⟩) h.clk.elapsed)).send
      (respond q route ⟨St.unsupported, 0, 255, []⟩) := by
  rw [Hub.takeIn_compared serves compared, Fresh.takeOn_unsupported fresh command]

theorem Hub.takeIn_cached {e : CacheEntry} (found : h.cacheExpiry.mgmt.cache.find? (fun e => e.reqId == q.reqId && e.tag == q.tag) = some e) :
    h.takeIn route q payload = h.cacheExpiry.send
      (if e.opcode = q.opcode then { respond q route ⟨St.cached, 0, e.failDie, e.payload⟩ with orig := e.status }
        else respond q route ⟨St.duplicateTag, 0, 255, []⟩) := by
  rw [Hub.takeIn_compared serves compared, Hub.takeOn_cached found]
end

/-! ## The mailbox's next request -/

theorem respond_fields (q : ReqHeader) (route : Route) (r : Reply) : (respond q route r).status = r.status ∧ (respond q route r).retry = r.retry ∧
    (respond q route r).tag = q.tag ∧ (respond q route r).reqId = q.reqId := ⟨rfl, rfl, rfl, rfl⟩

/-- The mailbox's request has been taken out. -/
def Hub.mbiTaken (h : Hub) : Hub := { h with dbw := { h.dbw with mbiHead := h.dbw.mbiHead + 1 } }

section
variable {h : Hub}

theorem Hub.intake_none (none' : h.dbw.mbiFree = true ∨ h.hspiOn = false ∨ 32 ≤ h.placesUsed .hspi) : h.intake = h := by
  refine if_pos ?_
  rw [Bool.not_eq_true']
  exact none'

variable (taken : h.dbw.mbiFree = false ∧ h.hspiOn = true ∧ h.placesUsed .hspi < 32)
include taken

theorem Hub.intake_some : h.intake =
    if 4080 < (headerAt h.dbw.mbiBytes 0).length then h.mbiTaken.mbError 2
    else if crc32 (h.dbw.mbiBytes.take (16 + (headerAt h.dbw.mbiBytes 0).length)) ≠ h.dbw.mbiCrc then h.mbiTaken.mbError 1
    else h.mbiTaken.takeIn .hspi (headerAt h.dbw.mbiBytes 0) ((h.dbw.mbiBytes.drop 16).take (headerAt h.dbw.mbiBytes 0).length) := by
  obtain ⟨full, on, places⟩ := taken
  exact if_neg (by simp [full, on, places])

theorem Hub.intake_long (long : 4080 < (headerAt h.dbw.mbiBytes 0).length) : h.intake = h.mbiTaken.mbError 2 := by
  rw [Hub.intake_some taken, if_pos long]

theorem Hub.intake_bad (short : (headerAt h.dbw.mbiBytes 0).length ≤ 4080)
    (bad : crc32 (h.dbw.mbiBytes.take (16 + (headerAt h.dbw.mbiBytes 0).length)) ≠ h.dbw.mbiCrc) : h.intake = h.mbiTaken.mbError 1 := by
  rw [Hub.intake_some taken, if_neg (Nat.not_lt.2 short), if_pos bad]

variable (whole : (headerAt h.dbw.mbiBytes 0).length ≤ 4080 ∧
  crc32 (h.dbw.mbiBytes.take (16 + (headerAt h.dbw.mbiBytes 0).length)) = h.dbw.mbiCrc)
include whole

theorem Hub.intake_whole : h.intake =
    h.mbiTaken.takeIn .hspi (headerAt h.dbw.mbiBytes 0) ((h.dbw.mbiBytes.drop 16).take (headerAt h.dbw.mbiBytes 0).length) := by
  rw [Hub.intake_some taken, if_neg (Nat.not_lt.2 whole.1), if_neg (not_not_intro whole.2)]

theorem Hub.intake_waits (off : h.serves = false) : h.intake = { h with
    dbw := { h.dbw with mbiHead := h.dbw.mbiHead + 1 }
    mgmt := { h.mgmt with
      queue := h.mgmt.queue ++ [⟨.hspi, headerAt h.dbw.mbiBytes 0, (h.dbw.mbiBytes.drop 16).take (headerAt h.dbw.mbiBytes 0).length, 0,
        h.clk.elapsed, h.mgmt.order, true⟩], order := h.mgmt.order + 1 } } :=
  (Hub.intake_whole taken whole).trans (h.mbiTaken.takeIn_waits _ _ _ off)

variable (serves : h.serves = true) (compared : ∀ y ∈ h.mgmt.queue, y.raw = false)
include serves compared

section
variable (fresh : Sys2Proof.Fresh h (headerAt h.dbw.mbiBytes 0))
include fresh

theorem Hub.intake_queued {i : CmdInfo} (command : cmdInfo (headerAt h.dbw.mbiBytes 0).opcode = some i)
    (served : h.Serves (headerAt h.dbw.mbiBytes 0).opcode) (room : h.Room .hspi i) : ∃ g, h.intake = g ∧
      g.dbw.mbiHead = h.dbw.mbiHead + 1 ∧ g.mgmt = { h.mgmt with
        cache := h.cacheExpiry.mgmt.cache
        queue := h.mgmt.queue ++ [⟨.hspi, headerAt h.dbw.mbiBytes 0, (h.dbw.mbiBytes.drop 16).take (headerAt h.dbw.mbiBytes 0).length, i.cls,
          h.clk.elapsed, h.mgmt.order, false⟩], order := h.mgmt.order + 1 } :=
  ⟨_, (Hub.intake_whole taken whole).trans (Hub.takeIn_queued (h := h.mbiTaken) serves compared .hspi _ fresh command served room), rfl, rfl⟩

theorem Hub.intake_busy {i : CmdInfo} (command : cmdInfo (headerAt h.dbw.mbiBytes 0).opcode = some i)
    (full : ¬(h.Serves (headerAt h.dbw.mbiBytes 0).opcode ∧ h.Room .hspi i)) : ∃ g ms, h.intake = g ∧
      g.dbw.mbiHead = h.dbw.mbiHead + 1 ∧ 1 ≤ ms ∧ g.mgmt = { h.mgmt with
        cache := h.cacheExpiry.mgmt.cache
        outbox := h.mgmt.outbox ++ [respond (headerAt h.dbw.mbiBytes 0) .hspi ⟨St.busy, ms, 255, []⟩] } := by
  obtain ⟨ms, least, run⟩ := Hub.takeIn_busy (h := h.mbiTaken) serves compared .hspi
    ((h.dbw.mbiBytes.drop 16).take (headerAt h.dbw.mbiBytes 0).length) fresh command full
  exact ⟨_, ms, (Hub.intake_whole taken whole).trans (run.trans (Hub.send_hspi _ rfl)), rfl, least, rfl⟩

theorem Hub.intake_unsupported (command : cmdInfo (headerAt h.dbw.mbiBytes 0).opcode = none) : ∃ g, h.intake = g ∧
    g.mgmt.queue = h.mgmt.queue ∧
    g.mgmt.outbox = h.mgmt.outbox ++ [respond (headerAt h.dbw.mbiBytes 0) .hspi ⟨St.unsupported, 0, 255, []⟩] := by
  refine ⟨_, (Hub.intake_whole taken whole).trans ((Hub.takeIn_unsupported (h := h.mbiTaken) serves compared .hspi _ fresh command).trans
    (Hub.send_hspi _ rfl)), ?_, ?_⟩
  · dsimp only
    rw [Hub.cachePut_mgmt]
    rfl
  · dsimp only
    rw [Hub.cachePut_mgmt]
    rfl
end

theorem Hub.intake_cached {e : CacheEntry} (found : h.cacheExpiry.mgmt.cache.find? (fun e =>
      e.reqId == (headerAt h.dbw.mbiBytes 0).reqId && e.tag == (headerAt h.dbw.mbiBytes 0).tag) = some e) : ∃ g y, h.intake = g ∧
    g.mgmt.queue = h.mgmt.queue ∧ g.mgmt.outbox = h.mgmt.outbox ++ [y] ∧ y.tag = (headerAt h.dbw.mbiBytes 0).tag ∧
    (e.opcode = (headerAt h.dbw.mbiBytes 0).opcode → y.status = St.cached ∧ y.orig = e.status ∧ y.payload = e.payload) ∧
    (e.opcode ≠ (headerAt h.dbw.mbiBytes 0).opcode → y.status = St.duplicateTag ∧ y.payload = []) := by
  have run := (Hub.intake_whole taken whole).trans (Hub.takeIn_cached (h := h.mbiTaken) serves compared .hspi
    ((h.dbw.mbiBytes.drop 16).take (headerAt h.dbw.mbiBytes 0).length) found)
  generalize headerAt h.dbw.mbiBytes 0 = q at run ⊢
  by_cases same : e.opcode = q.opcode
  · rw [if_pos same] at run
    exact ⟨_, _, run.trans (Hub.send_hspi _ rfl), rfl, rfl, rfl, fun _ => ⟨rfl, rfl, rfl⟩, absurd same⟩
  · rw [if_neg same] at run
    exact ⟨_, _, run.trans (Hub.send_hspi _ rfl), rfl, rfl, rfl, fun eq => absurd eq same, fun _ => ⟨rfl, rfl⟩⟩
end

end Sys2Proof.Machine
end

section
/-! PROOFS. SVC packets and direct accesses from the link (R342, R349, R357). -/

namespace Sys2Proof.Machine

/-! ## What a packet's way through the link leaves of the hub -/

/-- The hub with other ports and streams. -/
def Hub.withLinks (h : Hub) (ps : List Port) (st : Strm) : Hub := { h with ports := ps, strm := st }

theorem Hub.eq_withLinks {h g : Hub} {ps : List Port} {st : Strm} (same : g.withLinks ps st = h.withLinks ps st) : g = h.withLinks g.ports g.strm := by
  have links := congrArg (fun x : Hub => x.withLinks g.ports g.strm) same
  exact links

theorem Hub.watermarks_withLinks (h : Hub) (ps : List Port) (st : Strm) : h.watermarks.withLinks ps st = h.withLinks ps st := by
  unfold Hub.watermarks
  refine (forAll_keeps (fun g : Hub => g.withLinks ps st) _ (fun i g => ?_) _ _ :)
  exact ite_keeps (fun g : Hub => g.withLinks ps st) rfl rfl

theorem Hub.originate_withLinks (h : Hub) (cls kind : Nat) (body : Bytes) (ps : List Port) (st : Strm) :
    (h.originate cls kind body).withLinks ps st = h.withLinks ps st :=
  ite_keeps (fun g : Hub => g.withLinks ps st) rfl rfl

section
variable {h : Hub} {k : PacketIn}

/-- A packet that is accepted for this hub is delivered, and nothing else changes but the links. -/
theorem Hub.packet_here (accepted : Accepted h 0 k) (addressed : h.addressed = true) (mine : k.dest = h.addr) (deliver : Hub → Hub) :
    ∃ ps st, h.packet 0 k deliver = deliver (h.withLinks ps st) ∧
      ((h.withLinks ps st).prt 0).link.rxSeq = ((h.prt 0).link.rxSeq + 1) % 65536 := by
  have goes : h.route 0 k.dest = some (true, []) := by
    have single : k.dest ≠ 0xFFFF := by
      have range := of_decide_eq_true addressed
      rw [mine]
      unfold Hub.addr
      omega
    exact (if_pos rfl).trans ((if_neg single).trans (if_pos ⟨addressed, mine⟩))
  have run := Hub.routed_goes (h := h.setLink 0 Link.taken) (p := 0) ((h.setLink_route ..).trans goes) deliver
  rw [ite_self] at run
  have same : (h.setLink 0 Link.taken).watermarks = h.withLinks _ _ := Hub.eq_withLinks (ps := []) (st := h.strm) (Hub.watermarks_withLinks ..)
  have seq : ((h.setLink 0 Link.taken).watermarks.prt 0).link.rxSeq = ((h.prt 0).link.rxSeq + 1) % 65536 := by
    have place := Hub.prt_place_of (Hub.watermarks_places (h.setLink 0 Link.taken)) 0
    simp only [Port.place_eq, Prod.mk.injEq] at place
    rw [place.1, Accepted.taken_link accepted]
    rfl
  refine ⟨_, _, (Hub.packet_accepted accepted deliver).trans (run.trans (congrArg deliver same)), ?_⟩
  exact (congrArg (fun g : Hub => (g.prt 0).link.rxSeq) same).symm.trans seq
end

theorem Hub.svcDeliver_svc {k : PacketIn} (svc : k.kind = 0) (h : Hub) : Hub.svcDeliver k h = h.svcTake k := by
  unfold Hub.svcDeliver
  rw [svc]
  rfl

theorem Hub.svcDeliver_direct {k : PacketIn} (direct : k.kind = 1) (h : Hub) : Hub.svcDeliver k h = h.direct k := by
  unfold Hub.svcDeliver
  rw [direct]
  rfl

/-! ## SVC (R357, R421) -/

/-- A refused SVC packet is counted (Table 13-9). -/
def Mgmt.dropsSvc (m : Mgmt) : Mgmt := { m with svcDrop := satInc 16 m.svcDrop }

section
variable {h : Hub} {k : PacketIn}

theorem Hub.svcTake_refused (refused : k.src ≠ 0 ∨ 32 ≤ h.placesUsed .inband) : h.svcTake k = { h with mgmt := h.mgmt.dropsSvc } := if_pos refused

/-- The packet's request is whole. -/
def SvcWhole (k : PacketIn) : Prop :=
  20 + (headerAt k.body 0).length ≤ k.body.length ∧ (headerAt k.body 0).length ≤ 4080 ∧
    (crc32 (k.body.take (16 + (headerAt k.body 0).length))).toNat = fieldAt k.body (16 + (headerAt k.body 0).length) 4

variable (source : k.src = 0) (room : h.placesUsed .inband < 32)
include source room

theorem Hub.svcTake_open : h.svcTake k =
    if 16 ≤ k.body.length ∧ 4080 < (headerAt k.body 0).length then { h.mbError 2 with mgmt := h.mgmt.dropsSvc }
    else if k.body.length < 20 + (headerAt k.body 0).length ∨
        (crc32 (k.body.take (16 + (headerAt k.body 0).length))).toNat ≠ fieldAt k.body (16 + (headerAt k.body 0).length) 4 then
      { h.mbError 1 with mgmt := h.mgmt.dropsSvc }
    else h.takeIn .inband (headerAt k.body 0) ((k.body.drop 16).take (headerAt k.body 0).length) :=
  if_neg (not_or.2 ⟨not_not_intro source, Nat.not_le.2 room⟩)

theorem Hub.svcTake_whole (whole : SvcWhole k) :
    h.svcTake k = h.takeIn .inband (headerAt k.body 0) ((k.body.drop 16).take (headerAt k.body 0).length) := by
  obtain ⟨long, short, crc⟩ := whole
  rw [Hub.svcTake_open source room, if_neg fun exceeds => absurd exceeds.2 (Nat.not_lt.2 short),
    if_neg (not_or.2 ⟨Nat.not_lt.2 long, not_not_intro crc⟩)]

theorem Hub.svcTake_broken (broken : ¬SvcWhole k) : ∃ g, h.svcTake k = g ∧ g.mgmt = h.mgmt.dropsSvc ∧
    g.dbw.errCause = if 16 ≤ k.body.length ∧ 4080 < (headerAt k.body 0).length then 2 else 1 := by
  rw [Hub.svcTake_open source room]
  by_cases long : 16 ≤ k.body.length ∧ 4080 < (headerAt k.body 0).length
  · rw [if_pos long, if_pos long]
    exact ⟨_, rfl, rfl, rfl⟩
  · rw [if_neg long, if_neg long, if_pos ?_]
    · exact ⟨_, rfl, rfl, rfl⟩
    · by_contra good
      obtain ⟨fits, crc⟩ := not_or.1 good
      exact broken ⟨Nat.not_lt.1 fits, by omega, not_not.1 crc⟩
end

/-! ## Direct accesses (R349) -/

/-- A direct access of another form is counted. -/
def Mgmt.dropsAccess (m : Mgmt) : Mgmt := { m with daBad := satInc 16 m.daBad }

section
variable {h : Hub} {k : PacketIn}

theorem Hub.direct_refused (refused : k.src ≠ 0 ∨ fieldAt k.body 2 1 = 0 ∨ 128 < fieldAt k.body 2 1 ∨ k.body.length ≠ 8 + 8 * fieldAt k.body 2 1) :
    h.direct k = { h with mgmt := h.mgmt.dropsAccess } := if_pos refused

/-- One word's access does its operation, and a response goes out. -/
theorem Hub.direct_one (source : k.src = 0) (length : k.body.length = 16) (one : fieldAt k.body 2 1 = 1) :
    ∃ ps st, h.direct k = (h.directOp (fieldAt k.body 8 8)).2.withLinks ps st := by
  have form : ¬(k.src ≠ 0 ∨ fieldAt k.body 2 1 = 0 ∨ 128 < fieldAt k.body 2 1 ∨ k.body.length ≠ 8 + 8 * fieldAt k.body 2 1) := by
    rw [one]
    omega
  have run : ∃ body, h.direct k = (h.directOp (fieldAt k.body 8 8)).2.originate 3 2 body := by
    unfold Hub.direct
    dsimp only
    rw [if_neg form, one]
    exact ⟨_, rfl⟩
  obtain ⟨body, run⟩ := run
  exact ⟨_, _, run.trans (Hub.eq_withLinks (ps := []) (st := h.strm) (Hub.originate_withLinks ..))⟩

theorem directWord_fields {a v : Nat} (small : a < 65536) (word : v < 2 ^ 32) : (2 ^ 62 + a * 2 ^ 32 + v) / 2 ^ 62 % 4 = 1 ∧
    (2 ^ 62 + a * 2 ^ 32 + v) / 2 ^ 32 % 65536 = a ∧ (2 ^ 62 + a * 2 ^ 32 + v) % 2 ^ 32 = v := by
  omega

variable {w a v : Nat} (fields : w / 2 ^ 62 % 4 = 1 ∧ w / 2 ^ 32 % 65536 = a ∧ w % 2 ^ 32 = v)
include fields

theorem Hub.directOp_write (aligned : a % 4 = 0) (within : a ≤ 0x3FFC) : (h.directOp w).2 = (h.writeReg a (BitVec.ofNat 32 v)).2 := by
  obtain ⟨op, rfl, rfl⟩ := fields
  unfold Hub.directOp
  extract_lets o b data out r s
  rw [if_neg (by omega), if_neg (by omega), if_neg (by omega)]

theorem Hub.directOp_outside (outside : a % 4 ≠ 0 ∨ 0x3FFC < a) : (h.directOp w).2 = h := by
  obtain ⟨op, rfl, rfl⟩ := fields
  unfold Hub.directOp
  extract_lets o b data out r s
  rw [if_neg (by omega), if_pos outside]
end

/-! ## A packet for another hub (R342) -/

section
variable {h : Hub} {k : PacketIn} {q a z : Nat}

theorem Hub.route_onward (single : k.dest ≠ 0xFFFF) (other : k.dest ≠ h.addr) (port : q < h.nPorts) (range : (h.prt q).range = some (a, z))
    (from' : a ≤ k.dest) (upTo : k.dest ≤ z) (first : ∀ i < q, (h.prt i).range = none) : h.route 0 k.dest = some (false, [q]) := by
  refine (if_pos rfl).trans ((if_neg single).trans ((if_neg fun here => other here.2).trans ?_))
  have found : ((List.range h.nPorts).find? fun q => match (h.prt q).range with
      | some (a, b) => decide (a ≤ k.dest ∧ k.dest ≤ b)
      | none => false) = some q := by
    refine List.find?_range_eq_some.2 ⟨?_, List.mem_range.2 port, fun i before => ?_⟩
    · rw [range]
      exact decide_eq_true ⟨from', upTo⟩
    · rw [first i before]
      rfl
  exact (congrArg (fun o : Option Nat => match o with | some q => some (false, [q]) | none => none) found :)

/-- It stands last in its class's queue of the port on its way. -/
theorem Hub.packet_onward (shaped : Shaped h) (accepted : Accepted h 0 k) (cls : k.cls = 3) (flash : h.boot.netboot = false)
    (goes : h.route 0 k.dest = some (false, [q])) (port : q < h.nPorts) (branch : q ≠ 0) (four : (h.prt q).link.queues.length = 4)
    (deliver : Hub → Hub) : (h.packet 0 k deliver).mgmt = h.mgmt ∧
      ((h.packet 0 k deliver).prt q).link.queues.getD 2 [] =
        (h.prt q).link.queues.getD 2 [] ++ [⟨3, k.kind, k.dest, k.src, k.body, none, false, false⟩] := by
  obtain ⟨-, -, -, ports, -⟩ := shaped
  have there : h.ports[q]? = some (h.prt q) := by
    rw [Hub.prt, List.getD_eq_getElem?_getD, List.getElem?_eq_getElem (ports ▸ port)]
    rfl
  have there' : (h.setLink 0 Link.taken).ports[q]? = some (h.prt q) := by
    rw [← there]
    exact h.setPort_getElem?_other (Ne.symm branch) _
  have goes' : (h.setLink 0 Link.taken).route 0 k.dest = some (false, [q]) := (h.setLink_route ..).trans goes
  rw [Hub.packet_accepted accepted]
  constructor
  · rw [Hub.routed_goes goes', if_neg (by rw [show (h.setLink 0 Link.taken).boot = h.boot from rfl, flash]; exact Bool.false_ne_true)]
    exact Hub.watermarks_mgmt _
  · have stands := Hub.routed_queued (h := h.setLink 0 Link.taken) (p := 0) (k := k) goes' flash (deliver := deliver) nofun (by omega) (by omega)
      there' four
    rw [Hub.setLink_queued Link.taken (fun _ => rfl)] at stands
    simpa [Hub.queued, cls, forwarded] using stands
end

end Sys2Proof.Machine
end

section
/-! PROOFS. REQUEST_START: which request runs next, and what its run leaves (R359, R363, R367, R368). -/

namespace Sys2Proof.Machine

/-! ## The first request (R367, R368) -/

theorem Request.before_iff (a b : Request) : a.before b = true ↔ a.svc < b.svc ∨
    (a.svc = b.svc ∧ (ReqHeader.prio b.hdr < ReqHeader.prio a.hdr ∨ (ReqHeader.prio a.hdr = ReqHeader.prio b.hdr ∧ a.order < b.order))) := by
  simp [Request.before]

theorem Request.before_asymm {a b : Request} (first : a.before b = true) : b.before a = false := by
  rw [Request.before_iff] at first
  rw [← Bool.not_eq_true, Request.before_iff]
  omega

theorem Request.not_before_trans {a b c : Request} (ab : a.before b = false) (bc : b.before c = false) : a.before c = false := by
  rw [← Bool.not_eq_true, Request.before_iff] at *
  omega

theorem Request.svc_le {a b : Request} (first : b.before a = false) : a.svc ≤ b.svc := by
  rw [← Bool.not_eq_true, Request.before_iff] at first
  omega

theorem firstRequest_none {l : List Request} (none' : firstRequest l = none) : l = [] := by
  cases l with
  | nil => rfl
  | cons x r =>
    unfold firstRequest at none'
    split at none'
    · split at none' <;> exact nomatch none'
    · exact nomatch none'

theorem firstRequest_first {l : List Request} {y : Request} (found : firstRequest l = some y) : y ∈ l ∧ ∀ z ∈ l, z.before y = false := by
  induction l generalizing y with
  | nil => exact nomatch found
  | cons x r ih =>
    have self : x.before x = false := by
      rw [← Bool.not_eq_true, Request.before_iff]
      omega
    unfold firstRequest at found
    cases rest : firstRequest r with
    | none =>
      rw [rest] at found
      obtain rfl := Option.some.inj found
      rw [firstRequest_none rest]
      exact ⟨List.mem_singleton.2 rfl, fun z mem => List.mem_singleton.1 mem ▸ self⟩
    | some w =>
      rw [rest] at found
      obtain ⟨among, least⟩ := ih rest
      dsimp only at found
      split at found
      · next sooner =>
        obtain rfl := Option.some.inj found
        exact ⟨List.mem_cons_of_mem x among, List.forall_mem_cons.2 ⟨Request.before_asymm sooner, least⟩⟩
      · next later =>
        obtain rfl := Option.some.inj found
        exact ⟨List.mem_cons_self, List.forall_mem_cons.2
          ⟨self, fun z mem => Request.not_before_trans (least z mem) (Bool.eq_false_of_not_eq_true later)⟩⟩

/-! ## What comes before a start -/

section
variable {h : Hub}

/-- The tag has nothing to begin: no LOG_WRITE waits, and the ring waits for none or for the block that is being written. -/
theorem Hub.tagNext_idle (idle : h.tag.writes = [] ∧ (h.tag.ring = [] ∨ h.tag.busy ≠ none)) : h.tagNext = h := by
  obtain ⟨writes, ring⟩ := idle
  rw [Hub.tagNext_fresh fun j q first => absurd (writes.symm.trans first) (List.cons_ne_nil j q).symm]
  obtain ring | busy := ring
  · exact Hub.takesBlock_none ring writes
  · exact Hub.takesBlock_busy busy

/-- A block of a LOG_WRITE is being written, and the ring waits for none. -/
theorem Hub.tagNext_held (busy : h.tag.busy ≠ none) (ring : h.tag.ring = []) : h.tagNext = h := by
  have isSome : h.tag.busy.isSome = true := Option.isSome_iff_ne_none.2 busy
  have held : h.writeExpiry = h := by
    unfold Hub.writeExpiry
    split
    · rfl
    · exact if_pos (.inr (.inr ⟨isSome, by rw [ring]; rfl⟩))
  rw [Hub.tagNext_eq, held, Hub.takesBlock_busy busy]

theorem Hub.stepAside_free (free : h.mgmt.running = none) : h.stepAside = h := by
  unfold Hub.stepAside
  rw [free]

theorem Hub.stepAside_runs {x : Request} {r : Reply} (runs : h.mgmt.running = some (x, r)) (here : h.writing x = false) : h.stepAside = h := by
  unfold Hub.stepAside
  rw [runs]
  exact if_neg (by simp [here])

theorem Hub.requestStart_off (off : h.serves = false) : h.requestStart = h := if_pos (.inl (by simp [off]))

theorem Hub.requestStart_runs {x : Request} {r : Reply} (runs : h.mgmt.running = some (x, r)) (here : h.writing x = false) : h.requestStart = h :=
  if_pos (.inr (by rw [Hub.stepAside_runs runs here, runs]; rfl))

/-- A request's time is not over. -/
def Hub.inTime (h : Hub) (x : Request) : Bool := decide (h.clk.elapsed < x.at' + ReqHeader.life x.hdr)

/-- The request leaves the queue and runs. -/
def Hub.starts (h : Hub) (x : Request) : Hub :=
  h.setMgmt fun m => { m with queue := m.queue.filter fun (y : Request) => y.order != x.order, running := some (x, ⟨0, 0, 255, []⟩) }

/-- The request's reply stands beside it. -/
def Hub.replies (h : Hub) : Hub := h.setMgmt fun m => { m with running := m.running.map fun p => (p.1, m.reply) }

/-- A request's start: it runs, and a settled one is written through. -/
def Hub.startOf (h : Hub) (x : Request) : Hub :=
  if commitsWith x.hdr.opcode ((h.starts x).runRequest x).replies.mgmt.reply.status then
    ((h.starts x).runRequest x).replies.writeThrough (.commit x.order)
  else ((h.starts x).runRequest x).replies

variable (idle : h.tag.writes = [] ∧ (h.tag.ring = [] ∨ h.tag.busy ≠ none)) (serves : h.serves = true)
  (compared : ∀ y ∈ h.mgmt.queue, y.raw = false) (free : h.mgmt.running = none)
include idle serves compared free

theorem Hub.requestStart_eq : h.requestStart =
    match firstRequest (h.mgmt.queue.filter fun x => h.inTime x && !h.waitsDie x) with
    | none => h
    | some x => h.startOf x := by
  have ready : h.tagNext.stepAside.admitRaw = h := by rw [Hub.tagNext_idle idle, Hub.stepAside_free free, Hub.admitRaw_none compared]
  have on : ¬((!h.serves) = true ∨ h.stepAside.mgmt.running.isSome = true) := by
    rw [Hub.stepAside_free free, serves, free]
    exact not_or.2 ⟨Bool.false_ne_true, Bool.false_ne_true⟩
  unfold Hub.requestStart
  rw [if_neg on, ready]
  rfl

theorem Hub.requestStart_none (none' : ∀ y ∈ h.mgmt.queue, h.inTime y = true → h.waitsDie y = true) : h.requestStart = h := by
  have empty : h.mgmt.queue.filter (fun x => h.inTime x && !h.waitsDie x) = [] :=
    List.filter_eq_nil_iff.2 fun y mem => by
      rw [Bool.and_eq_true, Bool.not_eq_true']
      exact fun ⟨live, stays⟩ => Bool.false_ne_true (stays.symm.trans (none' y mem live))
  rw [Hub.requestStart_eq idle serves compared free, empty]
  rfl

theorem Hub.requestStart_some {x : Request} (here : ∀ y ∈ h.mgmt.queue, h.waitsDie y = false)
    (first : firstRequest (h.mgmt.queue.filter h.inTime) = some x) : h.requestStart = h.startOf x := by
  have all : h.mgmt.queue.filter (fun x => h.inTime x && !h.waitsDie x) = h.mgmt.queue.filter h.inTime :=
    List.filter_congr fun y mem => by rw [here y mem, Bool.not_false, Bool.and_true]
  rw [Hub.requestStart_eq idle serves compared free, all, first]
end

/-! ## What a start leaves -/

section
variable (h : Hub) (x : Request)

theorem Hub.starts_works : Works (h.starts x) ((h.starts x).runRequest x).replies := by
  obtain ⟨queue, running, ident, lead⟩ := (h.starts x).runRequest_works x
  refine ⟨queue, ?_, ident, lead⟩
  rw [← running]
  exact Option.map_map ..

theorem Hub.replies_running : ((h.starts x).runRequest x).replies.mgmt.running = some (x, ((h.starts x).runRequest x).mgmt.reply) := by
  have running : ((h.starts x).runRequest x).mgmt.running.map Prod.fst = some x := ((h.starts x).runRequest_works x).running
  obtain ⟨⟨y, r⟩, runs, rfl⟩ := Option.map_eq_some_iff.1 running
  exact congrArg (Option.map fun p => (p.1, ((h.starts y).runRequest y).mgmt.reply)) runs

/-- What a start leaves of Krenmail is what the run of the command left, written through or not. -/
theorem Hub.startOf_mgmt : (h.startOf x).mgmt = ((h.starts x).runRequest x).replies.mgmt := ite_keeps Hub.mgmt rfl rfl

theorem Hub.startOf_chans : (h.startOf x).chans = ((h.starts x).runRequest x).chans := ite_keeps Hub.chans rfl rfl

theorem Hub.startOf_commits (shaped : Shaped h) (lead : h.boot.lead < h.nDies)
    (commits : commitsWith x.hdr.opcode ((h.starts x).runRequest x).mgmt.reply.status = true) :
    .commit x.order ∈ ((h.startOf x).die (h.startOf x).boot.lead).cores.through := by
  have run : h.startOf x = ((h.starts x).runRequest x).replies.writeThrough (.commit x.order) := if_pos commits
  have form : ((h.starts x).runRequest x).replies.form = h.form := (h.starts x).runRequest_form x
  have works := h.starts_works x
  rw [run]
  generalize ((h.starts x).runRequest x).replies = g at works form
  have lt : g.boot.lead < g.dies.length := by
    have dies : g.dies.length = h.dies.length := congrArg Form.dies form
    rw [dies, shaped.2.2.1, ← Hub.nDies_of_ident (h := h) works.ident]
    exact works.lead lead
  have there := g.setDie_getElem?_same (List.getElem?_eq_getElem lt)
    fun x' : Die => { x' with cores := { x'.cores with through := x'.cores.through ++ [.commit x.order] } }
  have written : (g.writeThrough (.commit x.order)).dies[g.boot.lead]? = _ := there
  show .commit x.order ∈ ((g.writeThrough (.commit x.order)).die g.boot.lead).cores.through
  rw [Hub.die_of_getElem? written]
  exact List.mem_append_right _ (List.mem_singleton.2 rfl)

/-- A start whose run only answers. -/
theorem Hub.startOf_answers {r : Reply} (answers : (h.starts x).runRequest x = (h.starts x).withReply r) :
    (h.startOf x).mgmt.running = some (x, r) ∧ (h.startOf x).chans = h.chans := by
  rw [Hub.startOf_mgmt, Hub.startOf_chans, Hub.replies_running, answers]
  exact ⟨rfl, rfl⟩
end

end Sys2Proof.Machine
end

section
/-! PROOFS. The runs that only answer, REQUEST_COMPLETION and LIFETIME (R359, R362 to R364, R368). -/

namespace Sys2Proof.Machine

/-! ## Runs that only answer (R359) -/

section
variable {h : Hub} {x : Request}

theorem Hub.runRequest_unknown (unknown : cmdInfo x.hdr.opcode = none) : h.runRequest x = h.withReply ⟨St.unsupported, 0, 255, []⟩ := by
  unfold Hub.runRequest
  dsimp only
  rw [unknown]
  rfl

theorem Hub.runRequest_netboot {i : CmdInfo} (known : cmdInfo x.hdr.opcode = some i) (net : h.boot.netboot = true)
    (other : netCmd x.hdr.opcode = false) : h.runRequest x = h.withReply ⟨St.busy, 1000, 255, []⟩ := by
  unfold Hub.runRequest
  dsimp only
  rw [known]
  exact if_pos (by simp [net, other])

theorem Hub.runRequest_served {i : CmdInfo} (known : cmdInfo x.hdr.opcode = some i) (served : h.Serves x.hdr.opcode) : h.runRequest x =
    if 16 ≤ x.hdr.cls ∨ 120000 < x.hdr.lifetime ∨ h.badMask x.hdr = true then h.refuse St.badArg
    else h.runDirect x.hdr i (parseCmd x.hdr.opcode (ReqHeader.dies x.hdr) x.route (x.hdr.cls.testBit 1) x.payload) := by
  unfold Hub.runRequest
  dsimp only
  rw [known]
  refine if_neg ?_
  obtain flash | net := served <;> simp [*]

theorem Hub.runRequest_badHeader {i : CmdInfo} (known : cmdInfo x.hdr.opcode = some i) (served : h.Serves x.hdr.opcode)
    (bad : 16 ≤ x.hdr.cls ∨ 120000 < x.hdr.lifetime ∨ h.badMask x.hdr = true) : h.runRequest x = h.withReply ⟨St.badArg, 0, 255, []⟩ := by
  rw [Hub.runRequest_served known served, if_pos bad]
  rfl

/-- SYS_INFO without a DIEMASK answers the hub's identity (Table 13-3). -/
theorem Hub.runRequest_sysInfo (op : x.hdr.opcode = 0x0101) (cls : x.hdr.cls < 16) (life : x.hdr.lifetime ≤ 120000) (mask : x.hdr.dieMask = 0)
    (empty : x.payload = []) : h.runRequest x = h.sysInfo := by
  have known : cmdInfo x.hdr.opcode = some _ := (congrArg cmdInfo op).trans rfl
  have dies : ReqHeader.dies x.hdr = [] := (congrArg (bitsOf 32) mask).trans (by decide)
  have good : ¬(16 ≤ x.hdr.cls ∨ 120000 < x.hdr.lifetime ∨ h.badMask x.hdr = true) := by
    rw [Hub.badMask, dies]
    exact not_or.2 ⟨Nat.not_le.2 cls, not_or.2 ⟨Nat.not_lt.2 life, Bool.false_ne_true⟩⟩
  have parsed : parseCmd x.hdr.opcode (ReqHeader.dies x.hdr) x.route (x.hdr.cls.testBit 1) x.payload = some .sysInfo := by
    rw [op, empty]
    rfl
  rw [Hub.runRequest_served known (.inr (by rw [op]; rfl)), if_neg good, parsed]
  unfold Hub.runDirect Hub.command Hub.downDie ReqHeader.strayMask
  rw [dies, mask]
  rfl

theorem Hub.sysInfo_length (h : Hub) : ∃ b, h.sysInfo = h.withReply ⟨St.ok, 0, 255, b⟩ ∧ b.length = 16 := by
  refine ⟨_, rfl, ?_⟩
  simp only [List.length_append, be_length]
  rfl
end

/-! ## A response that goes out (R356, R362, R364) -/

theorem Hub.send_rest (h : Hub) (r : Response) : (h.send r).boot = h.boot ∧ (h.send r).pwr = h.pwr ∧ (h.send r).clk = h.clk := by
  unfold Hub.send
  split
  · exact ⟨rfl, rfl, rfl⟩
  · split
    · exact ⟨Hub.originate_boot .., Hub.originate_pwr .., Hub.originate_clk ..⟩
    · exact ⟨rfl, rfl, rfl⟩

theorem Hub.cachePut_portCores (h : Hub) (e : CacheEntry) : (h.cachePut e).portCores = h.portCores := by
  unfold Hub.cachePut
  dsimp only
  split
  · exact Hub.notice_portCores ..
  · rfl

theorem Hub.cachePut_linked (h : Hub) (e : CacheEntry) (p : Nat) : ((h.cachePut e).prt p).linked = (h.prt p).linked := by
  have linked := congrArg Port.linked (Hub.prt_core_of_portCores (h.cachePut_portCores e) p)
  exact linked

theorem Hub.afterResponse_mgmt (h : Hub) (op : Nat) : (h.afterResponse op).mgmt = h.mgmt := ite_keeps Hub.mgmt rfl (ite_keeps Hub.mgmt rfl rfl)

theorem Hub.afterResponse_other {h : Hub} {op : Nat} (other : op ∉ [0x0103, 0x0106, 0x0C01]) : h.afterResponse op = h := by
  simp only [List.mem_cons, List.not_mem_nil, or_false, not_or] at other
  obtain ⟨reset, firmware, power⟩ := other
  exact (if_neg (not_or.2 ⟨reset, firmware⟩)).trans (if_neg power)

theorem Hub.afterResponse_resetAt (h : Hub) (op : Nat) : (h.afterResponse op).boot.resetAt =
    if op ∈ [0x0103, 0x0106] then h.boot.resetAt.map fun _ => h.clk.elapsed + 10000000 else h.boot.resetAt := by
  have member : op ∈ [0x0103, 0x0106] ↔ op = 0x0103 ∨ op = 0x0106 := by simp
  simp only [member]
  unfold Hub.afterResponse
  by_cases resets : op = 0x0103 ∨ op = 0x0106
  · rw [if_pos resets, if_pos resets]
  · rw [if_neg resets, if_neg resets]
    exact ite_keeps (fun g : Hub => g.boot.resetAt) rfl rfl

theorem Hub.afterResponse_keepAt (h : Hub) (op : Nat) : (h.afterResponse op).pwr.keepAt =
    if op = 0x0C01 then h.pwr.keepAt.map fun _ => h.clk.elapsed else h.pwr.keepAt := by
  unfold Hub.afterResponse
  by_cases resets : op = 0x0103 ∨ op = 0x0106
  · rw [if_pos resets, if_neg (by omega)]
  · rw [if_neg resets]
    split <;> rfl

section
variable {h : Hub} {x : Request} {r : Reply}

/-- The response is kept in the cache (R362). -/
def Keeps (x : Request) (r : Reply) : Prop := ReqHeader.idem x.hdr = false ∧ r.status ≠ St.busy ∧ r.status ≠ St.duplicateTag

/-- The command whose after-effect the response starts. -/
def afterOp (x : Request) (r : Reply) : Nat := if r.status = St.ok then x.hdr.opcode else 0

theorem Hub.finish_kept (kept : Keeps x r) : h.finish x r =
    ((h.cachePut (CacheEntry.of (respond x.hdr x.route r) h.clk.elapsed)).send (respond x.hdr x.route r)).afterResponse (afterOp x r) := by
  obtain ⟨idem, busy, dup⟩ := kept
  unfold Hub.finish
  dsimp only
  rw [if_neg (by simp [idem, busy, dup])]
  rfl

theorem Hub.finish_unkept (unkept : ¬Keeps x r) : h.finish x r = (h.send (respond x.hdr x.route r)).afterResponse (afterOp x r) := by
  have gone : (ReqHeader.idem x.hdr || r.status == St.busy || r.status == St.duplicateTag) = true := by
    by_contra none'
    simp only [Bool.or_eq_true, not_or, Bool.not_eq_true, beq_eq_false_iff_ne] at none'
    exact unkept ⟨none'.1.1, none'.1.2, none'.2⟩
  unfold Hub.finish
  dsimp only
  rw [if_pos gone]
  rfl

/-- A request without an after-effect, and whose response is not kept, leaves its response alone. -/
theorem Hub.finish_plain (host : x.route = .hspi) (unkept : ¬Keeps x r) (plain : r.status ≠ St.ok ∨ x.hdr.opcode ∉ [0x0103, 0x0106, 0x0C01]) :
    h.finish x r = { h with
      mgmt := { h.mgmt with outbox := h.mgmt.outbox ++ [respond x.hdr .hspi r] }
      dbw := { h.dbw with mboTail := h.dbw.mboTail + 1 } } := by
  have other : afterOp x r ∉ [0x0103, 0x0106, 0x0C01] := by
    unfold afterOp
    by_cases ok : r.status = St.ok
    · rw [if_pos ok]
      exact plain.resolve_left (not_not_intro ok)
    · rw [if_neg ok]
      decide
  rw [Hub.finish_unkept unkept, Hub.afterResponse_other other, host]
  exact Hub.send_hspi _ rfl

/-- Over the mailbox the response waits behind the others. -/
theorem Hub.finish_host (host : x.route = .hspi) : (h.finish x r).mgmt.outbox = h.mgmt.outbox ++ [respond x.hdr .hspi r] ∧
    (h.finish x r).mgmt.svcOut = h.mgmt.svcOut ∧ (h.finish x r).mgmt.waiting = h.mgmt.waiting := by
  by_cases kept : Keeps x r
  · rw [Hub.finish_kept kept, Hub.afterResponse_mgmt, host, Hub.send_hspi _ rfl]
    dsimp only
    rw [Hub.cachePut_mgmt]
    exact ⟨rfl, rfl, rfl⟩
  · rw [Hub.finish_unkept kept, Hub.afterResponse_mgmt, host, Hub.send_hspi _ rfl]
    exact ⟨rfl, rfl, rfl⟩

section
variable (kept : Keeps x r)
include kept

/-- A response that is kept stands first in the cache. -/
theorem Hub.finish_cached : (h.finish x r).mgmt.cache.head? = some (CacheEntry.of (respond x.hdr x.route r) h.clk.elapsed) := by
  rw [Hub.finish_kept kept, Hub.afterResponse_mgmt]
  generalize put : h.cachePut (CacheEntry.of (respond x.hdr x.route r) h.clk.elapsed) = g
  have cached : g.mgmt.cache.head? = some (CacheEntry.of (respond x.hdr x.route r) h.clk.elapsed) := by
    rw [← put, Hub.cachePut_mgmt]
    exact cacheWith_head _ _
  cases route : x.route with
  | hspi =>
    rw [Hub.send_hspi _ rfl]
    rw [route] at cached
    exact cached
  | inband =>
    rw [Hub.send_mgmt_inband _ rfl]
    rw [route] at cached
    exact cached

theorem Hub.finish_inband (route : x.route = .inband) : (h.finish x r).mgmt.outbox = h.mgmt.outbox ∧
    (h.finish x r).mgmt.svcOut = if h.addressed && (h.prt 0).linked then h.mgmt.svcOut ++ [respond x.hdr .inband r] else h.mgmt.svcOut := by
  rw [Hub.finish_kept kept, Hub.afterResponse_mgmt, route]
  generalize CacheEntry.of (respond x.hdr .inband r) h.clk.elapsed = e
  have addressed : (h.cachePut e).addressed = h.addressed := (congrArg Hub.addressed (h.cachePut_still e) :)
  rw [Hub.send_mgmt_inband _ rfl, addressed, Hub.cachePut_linked, Hub.cachePut_mgmt]
  exact ⟨rfl, rfl⟩

/-- A reset or Keep that waits for its response counts its time from there. -/
theorem Hub.finish_after :
    (h.finish x r).boot.resetAt = (if r.status = St.ok ∧ x.hdr.opcode ∈ [0x0103, 0x0106] then h.boot.resetAt.map fun _ => h.clk.elapsed + 10000000
      else h.boot.resetAt) ∧
    (h.finish x r).pwr.keepAt = (if r.status = St.ok ∧ x.hdr.opcode = 0x0C01 then h.pwr.keepAt.map fun _ => h.clk.elapsed
      else h.pwr.keepAt) := by
  rw [Hub.finish_kept kept]
  generalize CacheEntry.of (respond x.hdr x.route r) h.clk.elapsed = e
  generalize respond x.hdr x.route r = y
  obtain ⟨boot, pwr, clk⟩ := (h.cachePut e).send_rest y
  have still := h.cachePut_still e
  have boot' : ((h.cachePut e).send y).boot = h.boot := boot.trans (congrArg Hub.boot still :)
  have pwr' : ((h.cachePut e).send y).pwr = h.pwr := pwr.trans (congrArg Hub.pwr still :)
  have clk' : ((h.cachePut e).send y).clk = h.clk := clk.trans (congrArg Hub.clk still :)
  rw [Hub.afterResponse_resetAt, Hub.afterResponse_keepAt, boot', pwr', clk', afterOp]
  by_cases ok : r.status = St.ok
  · simp only [ok, if_true, true_and, and_self]
  · simp [ok]
end

/-! ## REQUEST_COMPLETION (R368) -/

theorem Hub.writing_none (writes : h.tag.writes = []) (x : Request) : h.writing x = false := by
  rw [Hub.writing, writes]
  rfl

theorem Hub.completion_runs (runs : h.mgmt.running = some (x, r)) :
    h.completion = { h with mgmt := { h.mgmt with running := none } }.finish x r := by
  unfold Hub.completion
  rw [runs]

theorem Hub.requestCompletion_runs (runs : h.mgmt.running = some (x, r)) (written : h.writing x = false) :
    h.requestCompletion = { h with mgmt := { h.mgmt with running := none } }.finish x r := by
  unfold Hub.requestCompletion
  rw [runs]
  exact (if_neg (by simp [written])).trans (Hub.completion_runs runs)

theorem Hub.requestCompletion_none (free : h.mgmt.running = none) (none' : h.mgmt.waiting = []) : h.requestCompletion = h := by
  unfold Hub.requestCompletion Hub.finishWrite
  rw [free, none']
  rfl

theorem Hub.requestCompletion_writing (all : ∀ y ∈ h.mgmt.running.toList ++ h.mgmt.waiting, h.writing y.1 = true) : h.requestCompletion = h := by
  have unwritten : h.finishWrite = h := by
    have none' : h.mgmt.waiting.find? (fun p => !h.writing p.1) = none :=
      List.find?_eq_none.2 fun y mem => by simp [all y (List.mem_append_right _ mem)]
    unfold Hub.finishWrite
    rw [none']
  unfold Hub.requestCompletion
  cases runs : h.mgmt.running with
  | none => exact unwritten
  | some p => exact (if_pos (all p (by simp [runs]))).trans unwritten

theorem Hub.requestCompletion_waits {l : List (Request × Reply)} (free : h.mgmt.running = none) (waits : h.mgmt.waiting = (x, r) :: l)
    (others : ∀ y ∈ l, y.1.order ≠ x.order) (written : h.writing x = false) :
    h.requestCompletion = { h with mgmt := { h.mgmt with waiting := l } }.finish x r := by
  have found : h.mgmt.waiting.find? (fun p => !h.writing p.1) = some (x, r) := by
    rw [waits, List.find?_cons_of_pos (by simp [written])]
  have rest : h.mgmt.waiting.filter (fun p => p.1.order != x.order) = l := by
    rw [waits, List.filter_cons_of_neg (by simp)]
    exact List.filter_eq_self.2 fun y mem => bne_iff_ne.2 (others y mem)
  unfold Hub.requestCompletion Hub.finishWrite
  rw [free]
  dsimp only
  rw [found]
  dsimp only
  rw [rest]
end

/-! ## LIFETIME (R364) -/

/-- Putting entries into the cache changes nothing else of Krenmail. -/
theorem Hub.forAll_cachePut_mgmt (l : List Request) (f : Request → Hub → CacheEntry) (h : Hub) :
    ∃ c, (forAll l (fun x g => g.cachePut (f x g)) h).mgmt = { h.mgmt with cache := c } := by
  induction l generalizing h with
  | nil => exact ⟨h.mgmt.cache, rfl⟩
  | cons x l ih =>
    obtain ⟨c, rest⟩ := ih (h.cachePut (f x h))
    refine ⟨c, rest.trans ?_⟩
    rw [Hub.cachePut_mgmt]

section
variable {h : Hub}

/-- What a request leaves in the cache whose time is over. -/
def abandoned (x : Request) (g : Hub) : CacheEntry := CacheEntry.of (respond x.hdr x.route ⟨St.abandoned, 0, 255, []⟩) g.clk.elapsed

theorem Hub.lifetime_off (off : h.serves = false) : h.lifetime = h := if_pos (by simp [off])

theorem Hub.lifetime_eq (serves : h.serves = true) (compared : ∀ y ∈ h.mgmt.queue, y.raw = false) : h.lifetime =
    forAll ((h.mgmt.queue.filter fun x => !h.inTime x).filter fun x => !ReqHeader.idem x.hdr) (fun x g => g.cachePut (abandoned x g))
      { h with mgmt := { h.mgmt with queue := h.mgmt.queue.filter h.inTime } } := by
  have late (x : Request) : decide (x.at' + ReqHeader.life x.hdr ≤ h.clk.elapsed) = !h.inTime x := by
    rw [Hub.inTime, ← decide_not, decide_eq_decide]
    exact Nat.not_lt.symm
  unfold Hub.lifetime
  rw [if_neg (by simp [serves]), Hub.admitRaw_none compared]
  dsimp only
  simp only [late, Bool.not_not]
  rfl

theorem Hub.lifetime_leaves (serves : h.serves = true) (compared : ∀ y ∈ h.mgmt.queue, y.raw = false) :
    ∃ c, h.lifetime.mgmt = { h.mgmt with queue := h.mgmt.queue.filter h.inTime, cache := c } := by
  rw [Hub.lifetime_eq serves compared]
  exact Hub.forAll_cachePut_mgmt _ abandoned _

theorem Hub.lifetime_one {x : Request} (serves : h.serves = true) (compared : ∀ y ∈ h.mgmt.queue, y.raw = false) (alone : h.mgmt.queue = [x])
    (late : x.at' + ReqHeader.life x.hdr ≤ h.clk.elapsed) (kept : ReqHeader.idem x.hdr = false) :
    h.lifetime.mgmt.cache.head? = some (abandoned x h) := by
  have over' : h.inTime x = false := decide_eq_false (Nat.not_lt.2 late)
  have gone : (h.mgmt.queue.filter fun x => !h.inTime x).filter (fun x => !ReqHeader.idem x.hdr) = [x] := by
    rw [alone, List.filter_cons_of_pos (by simp [over']), List.filter_nil, List.filter_cons_of_pos (by simp [kept]), List.filter_nil]
  rw [Hub.lifetime_eq serves compared, gone]
  exact (congrArg (fun m : Mgmt => m.cache.head?) (Hub.cachePut_mgmt _ _)).trans (cacheWith_head _ _)
end

end Sys2Proof.Machine
end

section
/-! PROOFS. Requests come in, run and end (R349, R355 to R369). -/

open Sys2Proof Sys2Proof.Machine

/-- Settles O54: each way in ends in `takeIn`, `direct` or a queue of the link, each way out in `finish`. The clauses on a SVC packet
that is not whole rest on log entry 147 (a design choice: a shorter body is taken as a failed CRC, and a packet of KIND 0 from
elsewhere is counted in SVC_DROP), and those on a request that waits for a die in its gap on log entry 167; both are the model's choices. -/
theorem requests : Obligations.Requests := by
  unfold Obligations.Requests
  refine ⟨fun s k i p q v => ?arrives, fun s x r => ?runs⟩
  case arrives =>
    have svcTaken (accepted : Accepted s.hub 0 k) (addressed : s.hub.addressed = true) (mine : k.dest = s.hub.addr) :
        ∃ ps st, s.hub.packet 0 k (Hub.svcDeliver k) = Hub.svcDeliver k (s.hub.withLinks ps st) ∧
          ((s.hub.withLinks ps st).prt 0).link.rxSeq = ((s.hub.prt 0).link.rxSeq + 1) % 65536 :=
      Hub.packet_here accepted addressed mine _
    refine ⟨fun none' => next_same (Hub.intake_none none'), fun taken => ⟨fun long => ?long, fun short bad => ?bad, fun whole off => ?waits,
      fun whole compared fresh known served room => ?queued, fun whole compared fresh known full => ?busy,
      fun whole compared fresh unknown => ?unknown, fun e whole compared found => ?cached⟩, fun down => ?down,
      fun here source room whole compared fresh known served place => ?svc, fun here source room whole off => ?svcWaits,
      fun here refused => ?svcRefused, fun here source room broken => ?svcBroken,
      fun a z shaped accepted cls flash single other port branch range from' upTo first four => ?onward,
      fun a accepted addressed mine one source length count word small fits => ?direct, fun accepted addressed mine one bad => ?directBad⟩
    case long => exact ⟨⟨_, s.pending⟩, next_congr (Hub.intake_long taken long), rfl, rfl, rfl⟩
    case bad => exact ⟨⟨_, s.pending⟩, next_congr (Hub.intake_bad taken short bad), rfl, rfl, rfl⟩
    case waits => exact next_congr (Hub.intake_waits taken whole off)
    case queued =>
      obtain ⟨g, run, head, mgmt⟩ := Hub.intake_queued taken whole compared.1 compared.2 fresh known served room
      exact ⟨⟨g, s.pending⟩, next_congr run, head, mgmt⟩
    case busy =>
      obtain ⟨g, ms, run, head, least, mgmt⟩ := Hub.intake_busy taken whole compared.1 compared.2 fresh known full
      obtain ⟨status, retry, tag, reqId⟩ := respond_fields (headerAt s.hub.dbw.mbiBytes 0) .hspi ⟨St.busy, ms, 255, []⟩
      exact ⟨⟨g, s.pending⟩, _, next_congr run, head, status, retry ▸ least, tag, reqId, mgmt⟩
    case unknown =>
      obtain ⟨g, run, queue, outbox⟩ := Hub.intake_unsupported taken whole compared.1 compared.2 fresh unknown
      obtain ⟨status, -, tag, reqId⟩ := respond_fields (headerAt s.hub.dbw.mbiBytes 0) .hspi ⟨St.unsupported, 0, 255, []⟩
      exact ⟨⟨g, s.pending⟩, _, next_congr run, status, tag, reqId, queue, outbox⟩
    case cached =>
      obtain ⟨g, y, run, left⟩ := Hub.intake_cached taken whole compared.1 compared.2 found
      exact ⟨⟨g, s.pending⟩, y, next_congr run, left⟩
    case down =>
      have stays := Hub.packet_refused (Hub.receive_down (k := k) down) (Hub.svcDeliver k)
      exact ⟨next_same stays, next_same stays, next_same stays⟩
    case svc =>
      obtain ⟨accepted, addressed, mine, zero⟩ := here
      obtain ⟨ps, st, run, seq⟩ := svcTaken accepted addressed mine
      have taken := Hub.takeIn_queued (h := s.hub.withLinks ps st) compared.1 compared.2 .inband
        ((k.body.drop 16).take (headerAt k.body 0).length) fresh known served place
      exact ⟨⟨_, s.pending⟩,
        next_congr (run.trans ((Hub.svcDeliver_svc zero _).trans ((Hub.svcTake_whole (h := s.hub.withLinks ps st) source room whole).trans taken))), seq, rfl⟩
    case svcWaits =>
      obtain ⟨accepted, addressed, mine, zero⟩ := here
      obtain ⟨ps, st, run, -⟩ := svcTaken accepted addressed mine
      have taken := (s.hub.withLinks ps st).takeIn_waits .inband (headerAt k.body 0) ((k.body.drop 16).take (headerAt k.body 0).length) off
      exact ⟨⟨_, s.pending⟩,
        next_congr (run.trans ((Hub.svcDeliver_svc zero _).trans ((Hub.svcTake_whole (h := s.hub.withLinks ps st) source room whole).trans taken))), rfl⟩
    case svcRefused =>
      obtain ⟨accepted, addressed, mine, zero⟩ := here
      obtain ⟨ps, st, run, -⟩ := svcTaken accepted addressed mine
      exact ⟨⟨_, s.pending⟩, next_congr (run.trans ((Hub.svcDeliver_svc zero _).trans (Hub.svcTake_refused (h := s.hub.withLinks ps st) refused))),
        rfl, rfl⟩
    case svcBroken =>
      obtain ⟨accepted, addressed, mine, zero⟩ := here
      obtain ⟨ps, st, run, -⟩ := svcTaken accepted addressed mine
      obtain ⟨g, taken, mgmt, cause⟩ := Hub.svcTake_broken (h := s.hub.withLinks ps st) source room broken
      exact ⟨⟨g, s.pending⟩, next_congr (run.trans ((Hub.svcDeliver_svc zero _).trans taken)), mgmt, cause⟩
    case onward =>
      have goes := Hub.route_onward single other port range from' upTo first
      exact ⟨⟨_, s.pending⟩, rfl, Hub.packet_onward shaped accepted cls flash goes port branch four _⟩
    case direct =>
      obtain ⟨ps, st, run, -⟩ := svcTaken accepted addressed mine
      obtain ⟨ps', st', access⟩ := Hub.direct_one (h := s.hub.withLinks ps st) source length count
      rw [word] at access
      have fields := directWord_fields small fits
      have run' := run.trans ((Hub.svcDeliver_direct one _).trans access)
      refine ⟨fun irq => ?enable, fun outside => ?outside⟩
      case enable =>
        subst irq
        rw [Hub.directOp_write fields (by decide) (by decide)] at run'
        exact ⟨⟨_, s.pending⟩, next_congr run', rfl, rfl, rfl⟩
      case outside =>
        rw [Hub.directOp_outside fields outside] at run'
        exact ⟨⟨_, s.pending⟩, next_congr run', rfl, rfl, rfl⟩
    case directBad =>
      obtain ⟨ps, st, run, -⟩ := svcTaken accepted addressed mine
      exact ⟨⟨_, s.pending⟩, next_congr (run.trans ((Hub.svcDeliver_direct one _).trans (Hub.direct_refused (h := s.hub.withLinks ps st) bad))), rfl, rfl⟩
  case runs =>
    have completes (serves : s.hub.serves = true) : exec .requestCompletion s = .next ⟨s.hub.tagNext.requestCompletion, s.pending⟩ :=
      next_congr (if_pos serves)
    have completesIdle (idle : s.hub.tag.writes = [] ∧ (s.hub.tag.ring = [] ∨ s.hub.tag.busy ≠ none)) (serves : s.hub.serves = true) :
        exec .requestCompletion s = .next ⟨s.hub.requestCompletion, s.pending⟩ :=
      (completes serves).trans (next_congr (by rw [Hub.tagNext_idle idle]))
    refine ⟨fun off => ?off, fun runs here => next_same (Hub.requestStart_runs runs here), fun idle compared free over' => ?expired,
      fun l y first => ?first, fun idle compared free away => next_same (Hub.requestStart_none idle compared.1 compared.2 free away),
      fun idle compared free here first => ?starts, fun idle serves => ?completion, fun serves busy ring all => ?writing,
      fun compared => ?lifetime, fun compared alone late kept => ?abandoned, rfl⟩
    case off =>
      have unserved (k : Hub) : (if s.hub.serves then k else if s.hub.overlap then s.hub.completion else s.hub) =
          if s.hub.overlap then s.hub.completion else s.hub := if_neg (by simp [off])
      refine ⟨next_same (Hub.requestStart_off off), next_same (Hub.lifetime_off off),
        fun apart => next_same ((unserved _).trans (if_neg (by simp [apart]))),
        fun overlap free => next_same ((unserved _).trans ((if_pos overlap).trans ?_)),
        fun overlap runs host unkept plain => next_congr ((unserved _).trans ((if_pos overlap).trans ?_))⟩
      · unfold Hub.completion
        rw [free]
      · exact (Hub.completion_runs runs).trans (Hub.finish_plain host unkept plain)
    case expired =>
      refine next_same (Hub.requestStart_none idle compared.1 compared.2 free fun y mem live => ?_)
      exact absurd live (List.filter_eq_nil_iff.1 over' y mem)
    case first =>
      obtain ⟨among, least⟩ := firstRequest_first first
      exact ⟨among, fun z mem => Request.svc_le (least z mem), least⟩
    case starts =>
      have run : exec .requestStart s = .next ⟨s.hub.startOf x, s.pending⟩ :=
        next_congr (Hub.requestStart_some idle compared.1 compared.2 free here first)
      refine ⟨⟨_, _, run, ?running, ?reply, ?queue, fun shaped lead commits => s.hub.startOf_commits x shaped lead commits⟩,
        fun unknown => ⟨_, run, s.hub.startOf_answers x (Hub.runRequest_unknown unknown)⟩,
        fun i known net other => ⟨_, run, s.hub.startOf_answers x (Hub.runRequest_netboot known net other)⟩,
        fun i known served bad => ⟨_, run, s.hub.startOf_answers x (Hub.runRequest_badHeader known served bad)⟩,
        fun op cls life mask empty => ?sysInfo⟩
      case running =>
        rw [Hub.startOf_mgmt]
        exact s.hub.replies_running x
      case reply =>
        rw [Hub.startOf_mgmt]
        rfl
      case queue =>
        rw [Hub.startOf_mgmt]
        exact (s.hub.starts_works x).queue
      case sysInfo =>
        obtain ⟨b, answers, length⟩ := (s.hub.starts x).sysInfo_length
        exact ⟨_, b, run, (s.hub.startOf_answers x ((Hub.runRequest_sysInfo op cls life mask empty).trans answers)).1, length⟩
    case completion =>
      have written := Hub.writing_none idle.1
      have run := completesIdle idle serves
      refine ⟨fun free none' => run.trans (next_same (Hub.requestCompletion_none free none')),
        fun runs host unkept plain => run.trans (next_congr ?plain), fun runs kept => ?kept, fun l free waits others host => ?waits⟩
      case plain => exact (Hub.requestCompletion_runs runs (written x)).trans (Hub.finish_plain host unkept plain)
      case kept =>
        refine ⟨⟨_, s.pending⟩, _, run.trans (next_congr (Hub.requestCompletion_runs runs (written x))), Hub.finish_atWork _ x r,
          Hub.finish_cached kept, rfl, rfl, rfl, rfl, rfl, rfl, (Hub.finish_after kept).1, (Hub.finish_after kept).2, fun host => ?_,
          fun inband => Hub.finish_inband kept inband⟩
        obtain ⟨outbox, svcOut, -⟩ := Hub.finish_host host
        exact ⟨outbox, svcOut⟩
      case waits =>
        obtain ⟨outbox, -, waiting⟩ := Hub.finish_host (h := { s.hub with mgmt := { s.hub.mgmt with waiting := l } }) (r := r) host
        exact ⟨⟨_, s.pending⟩, run.trans (next_congr (Hub.requestCompletion_waits free waits others (written x))), waiting, outbox⟩
    case writing =>
      refine (completes serves).trans (next_same ?_)
      rw [Hub.tagNext_held busy ring, Hub.requestCompletion_writing all]
    case lifetime =>
      obtain ⟨c, left⟩ := Hub.lifetime_leaves compared.1 compared.2
      exact ⟨⟨_, s.pending⟩, rfl, (congrArg Mgmt.queue left :), (congrArg Mgmt.running left :), (congrArg Mgmt.outbox left :)⟩
    case abandoned => exact ⟨⟨_, s.pending⟩, _, rfl, Hub.lifetime_one compared.1 compared.2 alone late kept, rfl, rfl, rfl⟩
end
